-- ==== Sys2Proof/Word.lean ====
section
/-!
DEFINITION. The word types of the Yunaz and the plainest table type.
Bit vectors hold what the manual treats as bits (registers, addresses, instruction words); unit numbers and counts are Nat.
-/
namespace Sys2Proof

/-- A byte of memory. -/
abbrev Byte := BitVec 8

/-- A 64-bit general register or doubleword (R34). -/
abbrev Word := BitVec 64

/-- A 512-bit vector register (R34). -/
abbrev Vec := BitVec 512

/-- Sparse data by number, sorted by number, no number twice. -/
abbrev Tab (α : Type) := List (Nat × α)

end Sys2Proof
end

