-- ==== Sys2Proof/Config.lean ====
section
/-!
DEFINITION. What an implementation fixes, and the free values: constants without a body, so that no proof can see what
they are. A free value is applied to a counter of the state (fresh) or to the operands it depends on.
-/
namespace Sys2Proof.Config

/-- An undefined 64-bit value (R3): what a read the spec leaves open returns. DESIGN CHOICE, safe: log entry 5. -/
opaque freeWord : Nat → Word
/-- An undefined byte (R3). DESIGN CHOICE, safe: log entry 5. -/
opaque freeByte : Nat → Nat → Byte
/-- An undefined vector register after a resume or a migration (R134, R142). DESIGN CHOICE, safe: log entry 7. -/
opaque freeVec : Nat → Nat → Vec
/-- An open choice among n alternatives, the first argument: which one the implementation takes. DESIGN CHOICE, unsafe: log entry 11. -/
opaque freeChoice : Nat → Nat → Nat
/-- The check code of a save: over the state block and the save tails (R405); its form is internal. DESIGN CHOICE, safe: log entry 13. -/
opaque checkCode : List Byte → Word
/-- Ed25519 signing with the device's identity key (R484), which never leaves the device. DESIGN CHOICE, safe: log entry 9. -/
opaque sign : List Byte → List Byte
/-- The hash of the firmware's public key that is fused in the boot ROM (R484). DESIGN CHOICE, safe: log entry 9. -/
opaque keyHash : List Byte
/-- The silicon revision, IDENT[31:16] (R461): one for a device. DESIGN CHOICE, unsafe: log entry 2. -/
opaque revision : BitVec 16
/-- Blocks of 512 or 4,096 bytes: how the namespace of a drive is formatted (R441). DESIGN CHOICE, safe: log entry 16. -/
opaque blockIs4096 : Nat → Bool
/-- Whether drive n has a namespace (R451). DESIGN CHOICE, safe: log entry 16. -/
opaque driveReady : Nat → Bool
/-- Whether the array of a cell is withheld its issue cycle to hold the power limit: of the limit in watts, the cycle and
the cell (R23). What the package draws at a moment is not stated. DESIGN CHOICE, safe: log entry 70. -/
opaque withhold : Nat → Nat → Nat → Bool
/-- The die, bank and row, in [31:0], in which a DRAM column holds an offset (R480): the mapping is not stated. DESIGN CHOICE, unsafe:
log entry 97. -/
opaque dramRow : Nat → Word
/-- How many activations of its row one access to DRAM makes (R480), of the free counter and the line: it depends on what the
controller has left open. DESIGN CHOICE, unsafe: log entry 97. -/
opaque activations : Nat → Nat → Nat

end Sys2Proof.Config
end

