-- ==== Sys2Proof/Syntax.lean ====
section
/-!
DEFINITION. The syntax of the machine: every row of the opcode table as one constructor of Instr.
The first 235 constructors are instruction words; their fields are the fields of the word, at the word's own widths.
The other 125 are the device's events: they have no encoding; what arrives with one is the message being delivered,
State.now, of the type Event in Machine/State.lean.
-/
namespace Sys2Proof

/-- The instructions and events of spec/opcode_table.json, one constructor a row. -/
inductive Instr where
  /-- ADD (R158). Writes the sum of two general registers to a general register. -/
  | add (d a b : BitVec 5) (ma mb : BitVec 2)
  /-- SUB (R158). Writes the difference of two general registers. -/
  | sub (d a b : BitVec 5) (ma mb : BitVec 2)
  /-- AND (R158). Writes the bitwise AND of two general registers. -/
  | and (d a b : BitVec 5) (ma mb : BitVec 2)
  /-- OR (R158). Writes the bitwise OR of two general registers. -/
  | or (d a b : BitVec 5) (ma mb : BitVec 2)
  /-- XOR (R158). Writes the bitwise XOR of two general registers. -/
  | xor (d a b : BitVec 5) (ma mb : BitVec 2)
  /-- ANDN (R158). Writes A AND NOT B. -/
  | andn (d a b : BitVec 5) (ma mb : BitVec 2)
  /-- SHL (R158). Shifts A left by B[5:0]. -/
  | shl (d a b : BitVec 5) (ma mb : BitVec 2)
  /-- SHR (R158). Shifts A right logically by B[5:0]. -/
  | shr (d a b : BitVec 5) (ma mb : BitVec 2)
  /-- SRA (R158). Shifts A right arithmetically by B[5:0]. -/
  | sra (d a b : BitVec 5) (ma mb : BitVec 2)
  /-- ROT (R158). Rotates A left by B[5:0]. -/
  | rot (d a b : BitVec 5) (ma mb : BitVec 2)
  /-- SLT (R158). Writes 1 if A is less than B signed. -/
  | slt (d a b : BitVec 5) (ma mb : BitVec 2)
  /-- SLTU (R158). Writes 1 if A is less than B unsigned. -/
  | sltu (d a b : BitVec 5) (ma mb : BitVec 2)
  /-- SEQ (R158). Writes 1 if A equals B. -/
  | seq (d a b : BitVec 5) (ma mb : BitVec 2)
  /-- MIN (R158). Writes the signed minimum. -/
  | min (d a b : BitVec 5) (ma mb : BitVec 2)
  /-- MAX (R158). Writes the signed maximum. -/
  | max (d a b : BitVec 5) (ma mb : BitVec 2)
  /-- MINU (R158). Writes the unsigned minimum. -/
  | minu (d a b : BitVec 5) (ma mb : BitVec 2)
  /-- MAXU (R158). Writes the unsigned maximum. -/
  | maxu (d a b : BitVec 5) (ma mb : BitVec 2)
  /-- ADDW (R158). Writes the sign-extended low 32 bits of A + B. -/
  | addw (d a b : BitVec 5) (ma mb : BitVec 2)
  /-- SUBW (R158). Writes the sign-extended low 32 bits of A − B. -/
  | subw (d a b : BitVec 5) (ma mb : BitVec 2)
  /-- MUL (R159). Writes the low 64 bits of the product. -/
  | mul (d a b : BitVec 5) (ma mb : BitVec 2)
  /-- MULH (R159). Writes the high 64 bits of the signed product. -/
  | mulh (d a b : BitVec 5) (ma mb : BitVec 2)
  /-- MULHU (R159). Writes the high 64 bits of the unsigned product. -/
  | mulhu (d a b : BitVec 5) (ma mb : BitVec 2)
  /-- DIV (R159). Writes the signed quotient by R79 using the shared divider. -/
  | div (d a b : BitVec 5) (ma mb : BitVec 2)
  /-- DIVU (R159). Writes the unsigned quotient by R79 using the shared divider. -/
  | divu (d a b : BitVec 5) (ma mb : BitVec 2)
  /-- REM (R159). Writes the signed remainder by R79. -/
  | rem (d a b : BitVec 5) (ma mb : BitVec 2)
  /-- REMU (R159). Writes the unsigned remainder by R79. -/
  | remu (d a b : BitVec 5) (ma mb : BitVec 2)
  /-- CLZ (R161). Counts leading zero bits of A. -/
  | clz (d a : BitVec 5) (ma : BitVec 2)
  /-- CTZ (R161). Counts trailing zero bits of A. -/
  | ctz (d a : BitVec 5) (ma : BitVec 2)
  /-- POPC (R161). Counts one bits of A. -/
  | popc (d a : BitVec 5) (ma : BitVec 2)
  /-- BEXT (R161). Extracts a bit field of A selected by pos and len in B. -/
  | bext (d a b : BitVec 5) (ma mb : BitVec 2)
  /-- BINS (R161). Inserts low bits of A into G[d] at pos for len bits. -/
  | bins (d a b : BitVec 5) (ma mb : BitVec 2)
  /-- SEXT (R161). Sign-extends A from bit k. -/
  | sext (d a b : BitVec 5) (ma mb : BitVec 2)
  /-- ZEXT (R161). Zero-extends A from bit k. -/
  | zext (d a b : BitVec 5) (ma mb : BitVec 2)
  /-- BSWAP (R161). Reverses the byte order of A. -/
  | bswap (d a : BitVec 5) (ma : BitVec 2)
  /-- NOP (R47). Canonical no-op word that reads and writes no register and only advances PC. -/
  | nop
  /-- ADDI (R162). Adds a sign-extended 13-bit immediate. -/
  | addi (d a : BitVec 5) (ma : BitVec 2) (imm : BitVec 13)
  /-- ANDI (R162). ANDs with a sign-extended immediate. -/
  | andi (d a : BitVec 5) (ma : BitVec 2) (imm : BitVec 13)
  /-- ORI (R162). ORs with a sign-extended immediate. -/
  | ori (d a : BitVec 5) (ma : BitVec 2) (imm : BitVec 13)
  /-- XORI (R162). XORs with a sign-extended immediate. -/
  | xori (d a : BitVec 5) (ma : BitVec 2) (imm : BitVec 13)
  /-- SLTI (R162). Signed compare with an immediate. -/
  | slti (d a : BitVec 5) (ma : BitVec 2) (imm : BitVec 13)
  /-- SLTIU (R162). Unsigned compare with an immediate. -/
  | sltiu (d a : BitVec 5) (ma : BitVec 2) (imm : BitVec 13)
  /-- SHLI (R163). Shifts left by an immediate amount. -/
  | shli (d a : BitVec 5) (ma : BitVec 2) (amt : BitVec 6)
  /-- SHRI (R163). Shifts right logically by an immediate amount. -/
  | shri (d a : BitVec 5) (ma : BitVec 2) (amt : BitVec 6)
  /-- SRAI (R163). Shifts right arithmetically by an immediate amount. -/
  | srai (d a : BitVec 5) (ma : BitVec 2) (amt : BitVec 6)
  /-- ROTI (R163). Rotates left by an immediate amount. -/
  | roti (d a : BitVec 5) (ma : BitVec 2) (amt : BitVec 6)
  /-- LUI (R164). Writes the sign-extended imm20 times 4,096. -/
  | lui (d : BitVec 5) (imm : BitVec 20)
  /-- AUIPC (R164). Writes PC plus imm20 times 4,096. -/
  | auipc (d : BitVec 5) (imm : BitVec 20)
  /-- JAL (R165). Jumps PC-relative and writes the link. -/
  | jal (d : BitVec 5) (off : BitVec 20)
  /-- JALR (R165). Jumps to register plus immediate and writes the link. -/
  | jalr (d a : BitVec 5) (ma : BitVec 2) (imm : BitVec 13)
  /-- BEQ (R166). Branches if A equals B. -/
  | beq (a b : BitVec 5) (off : BitVec 12)
  /-- BNE (R166). Branches if A differs from B. -/
  | bne (a b : BitVec 5) (off : BitVec 12)
  /-- BLT (R166). Branches if A is less than B signed. -/
  | blt (a b : BitVec 5) (off : BitVec 12)
  /-- BGE (R166). Branches if A is at least B signed. -/
  | bge (a b : BitVec 5) (off : BitVec 12)
  /-- BLTU (R166). Branches if A is less than B unsigned. -/
  | bltu (a b : BitVec 5) (off : BitVec 12)
  /-- BGEU (R166). Branches if A is at least B unsigned. -/
  | bgeu (a b : BitVec 5) (off : BitVec 12)
  /-- BEQZ (R166). Branches if A is zero. -/
  | beqz (a : BitVec 5) (off : BitVec 12)
  /-- BNEZ (R166). Branches if A is nonzero. -/
  | bnez (a : BitVec 5) (off : BitVec 12)
  /-- KMOVG (R167). Moves G[a][15:0] into a mask. -/
  | kmovg (d : BitVec 2) (a : BitVec 5) (ma : BitVec 2)
  /-- KMOVK (R167). Moves a mask zero-extended into a general register. -/
  | kmovk (d : BitVec 5) (a : BitVec 2)
  /-- KAND (R167). ANDs two masks. -/
  | kand (d a b : BitVec 2)
  /-- KOR (R167). ORs two masks. -/
  | kor (d a b : BitVec 2)
  /-- KXOR (R167). XORs two masks. -/
  | kxor (d a b : BitVec 2)
  /-- KNOT (R167). Inverts a mask. -/
  | knot (d a : BitVec 2)
  /-- KPOP (R167). Counts one bits of a mask. -/
  | kpop (d : BitVec 5) (a : BitVec 2)
  /-- KFIRST (R167). Writes the index of the lowest set mask bit, 16 if none. -/
  | kfirst (d : BitVec 5) (a : BitVec 2)
  /-- LD (R170). Loads and sign-extends a memory value after the checks of R169. -/
  | ld (d a : BitVec 5) (sz : BitVec 2) (sc : BitVec 3) (mo : BitVec 2) (off : BitVec 8)
  /-- LDU (R170). Loads and zero-extends a memory value. -/
  | ldu (d a : BitVec 5) (sz : BitVec 2) (sc : BitVec 3) (mo : BitVec 2) (off : BitVec 8)
  /-- ST (R171). Checks a store at its home and queues it for draining. -/
  | st (d a : BitVec 5) (sz : BitVec 2) (sc : BitVec 3) (mo : BitVec 2) (off : BitVec 8)
  /-- LDP (R174). Issues a posted load that leaves its destination pending. -/
  | ldp (d a : BitVec 5) (sz : BitVec 2) (sc : BitVec 3) (off : BitVec 8)
  /-- LDSYNC (R216). Reads a full word at its home and empties it, or waits. -/
  | ldsync (d a : BitVec 5) (sz : BitVec 2) (sc : BitVec 3) (mo : BitVec 2) (off : BitVec 8)
  /-- STSYNC (R217). Writes an empty word at its home and fills it, or waits. -/
  | stsync (d a : BitVec 5) (sz : BitVec 2) (sc : BitVec 3) (mo : BitVec 2) (off : BitVec 8)
  /-- FECLR (R218). Clears a word's full/empty bit at its home and settles it. -/
  | feclr (a : BitVec 5) (sc : BitVec 3) (mo : BitVec 2) (off : BitVec 8)
  /-- FESET (R218). Sets a word's full/empty bit at its home and settles it. -/
  | feset (a : BitVec 5) (sc : BitVec 3) (mo : BitVec 2) (off : BitVec 8)
  /-- FEPROBE (R218). Reads a word's full/empty, queue, reservation and monitor state. -/
  | feprobe (d a : BitVec 5) (sc : BitVec 3) (mo : BitVec 2) (off : BitVec 8)
  /-- LDMON (R219). Reads a word at its home and arms a monitor if it equals the expected value. -/
  | ldmon (d a : BitVec 5) (sz : BitVec 2) (sc : BitVec 3) (mo : BitVec 2) (off : BitVec 8)
  /-- AMO_ADD (R222). Posted atomic add at the home. -/
  | amoAdd (d a b : BitVec 5) (sc : BitVec 3) (mo : BitVec 2)
  /-- AMO_AND (R222). Posted atomic AND at the home. -/
  | amoAnd (d a b : BitVec 5) (sc : BitVec 3) (mo : BitVec 2)
  /-- AMO_OR (R222). Posted atomic OR at the home. -/
  | amoOr (d a b : BitVec 5) (sc : BitVec 3) (mo : BitVec 2)
  /-- AMO_XOR (R222). Posted atomic XOR at the home. -/
  | amoXor (d a b : BitVec 5) (sc : BitVec 3) (mo : BitVec 2)
  /-- AMO_MIN (R222). Posted atomic signed minimum. -/
  | amoMin (d a b : BitVec 5) (sc : BitVec 3) (mo : BitVec 2)
  /-- AMO_MAX (R222). Posted atomic signed maximum. -/
  | amoMax (d a b : BitVec 5) (sc : BitVec 3) (mo : BitVec 2)
  /-- AMO_MINU (R222). Posted atomic unsigned minimum. -/
  | amoMinu (d a b : BitVec 5) (sc : BitVec 3) (mo : BitVec 2)
  /-- AMO_MAXU (R222). Posted atomic unsigned maximum. -/
  | amoMaxu (d a b : BitVec 5) (sc : BitVec 3) (mo : BitVec 2)
  /-- AMO_SWAP (R222). Posted atomic swap. -/
  | amoSwap (d a b : BitVec 5) (sc : BitVec 3) (mo : BitVec 2)
  /-- AMO_FADD (R222). Posted atomic FP32 add rounded by RNE. -/
  | amoFadd (d a b : BitVec 5) (sc : BitVec 3) (mo : BitVec 2)
  /-- AMO_FMIN (R222). Posted atomic FP32 minimumNumber. -/
  | amoFmin (d a b : BitVec 5) (sc : BitVec 3) (mo : BitVec 2)
  /-- AMO_FMAX (R222). Posted atomic FP32 maximumNumber. -/
  | amoFmax (d a b : BitVec 5) (sc : BitVec 3) (mo : BitVec 2)
  /-- CAS_W (R223). Posted 4-byte compare-and-swap at the home. -/
  | casW (d a b : BitVec 5) (sc : BitVec 3) (mo : BitVec 2)
  /-- CAS_D (R223). Posted 8-byte compare-and-swap at the home. -/
  | casD (d a b : BitVec 5) (sc : BitVec 3) (mo : BitVec 2)
  /-- RED_ADD (R225). Update-only add into the core's U copy. -/
  | redAdd (a b : BitVec 5) (sc : BitVec 3)
  /-- RED_AND (R225). Update-only AND. -/
  | redAnd (a b : BitVec 5) (sc : BitVec 3)
  /-- RED_OR (R225). Update-only OR. -/
  | redOr (a b : BitVec 5) (sc : BitVec 3)
  /-- RED_XOR (R225). Update-only XOR. -/
  | redXor (a b : BitVec 5) (sc : BitVec 3)
  /-- RED_MIN (R225). Update-only signed minimum. -/
  | redMin (a b : BitVec 5) (sc : BitVec 3)
  /-- RED_MAX (R225). Update-only signed maximum. -/
  | redMax (a b : BitVec 5) (sc : BitVec 3)
  /-- RED_MINU (R225). Update-only unsigned minimum. -/
  | redMinu (a b : BitVec 5) (sc : BitVec 3)
  /-- RED_MAXU (R225). Update-only unsigned maximum. -/
  | redMaxu (a b : BitVec 5) (sc : BitVec 3)
  /-- RED_FADD (R225). Update-only FP32 add. -/
  | redFadd (a b : BitVec 5) (sc : BitVec 3)
  /-- RED_FMIN (R225). Update-only FP32 minimumNumber. -/
  | redFmin (a b : BitVec 5) (sc : BitVec 3)
  /-- RED_FMAX (R225). Update-only FP32 maximumNumber. -/
  | redFmax (a b : BitVec 5) (sc : BitVec 3)
  /-- FENCE (R226). Orders the thread's loads, stores and optionally engine commands at a scope. -/
  | fence (fk : BitVec 4) (sc : BitVec 3) (e : BitVec 1)
  /-- PREF (R177). Hints the home to install a line in S in the core's L1. -/
  | pref (a : BitVec 5) (sc : BitVec 3) (off : BitVec 8)
  /-- CFLUSH (R178). Makes DRAM hold a line's current value. -/
  | cflush (a : BitVec 5) (sc : BitVec 3) (off : BitVec 8)
  /-- CINVAL (R179). Drops the issuing core's L1 copy of a line. -/
  | cinval (a : BitVec 5) (sc : BitVec 3) (off : BitVec 8)
  /-- VADD (R187). Lane-wise integer add. -/
  | vadd (d a b : BitVec 5) (k : BitVec 2) (t : BitVec 3)
  /-- VSUB (R187). Lane-wise integer subtract. -/
  | vsub (d a b : BitVec 5) (k : BitVec 2) (t : BitVec 3)
  /-- VMUL (R187). Lane-wise low product. -/
  | vmul (d a b : BitVec 5) (k : BitVec 2) (t : BitVec 3)
  /-- VMULH (R187). Lane-wise signed high product. -/
  | vmulh (d a b : BitVec 5) (k : BitVec 2) (t : BitVec 3)
  /-- VMIN (R187). Lane-wise signed minimum. -/
  | vmin (d a b : BitVec 5) (k : BitVec 2) (t : BitVec 3)
  /-- VMAX (R187). Lane-wise signed maximum. -/
  | vmax (d a b : BitVec 5) (k : BitVec 2) (t : BitVec 3)
  /-- VMINU (R187). Lane-wise unsigned minimum. -/
  | vminu (d a b : BitVec 5) (k : BitVec 2) (t : BitVec 3)
  /-- VMAXU (R187). Lane-wise unsigned maximum. -/
  | vmaxu (d a b : BitVec 5) (k : BitVec 2) (t : BitVec 3)
  /-- VABS (R187). Lane-wise absolute value. -/
  | vabs (d a : BitVec 5) (k : BitVec 2) (t : BitVec 3)
  /-- VMAC (R187). Lane-wise multiply-accumulate into the destination. -/
  | vmac (d a b : BitVec 5) (k : BitVec 2) (t : BitVec 3)
  /-- VFADD (R188). Lane-wise floating add rounded by FSTAT.RM. -/
  | vfadd (d a b : BitVec 5) (k : BitVec 2) (t : BitVec 3)
  /-- VFSUB (R188). Lane-wise floating subtract. -/
  | vfsub (d a b : BitVec 5) (k : BitVec 2) (t : BitVec 3)
  /-- VFMUL (R188). Lane-wise floating multiply. -/
  | vfmul (d a b : BitVec 5) (k : BitVec 2) (t : BitVec 3)
  /-- VFMA (R188). Lane-wise fused multiply-add with one rounding. -/
  | vfma (d a b : BitVec 5) (k : BitVec 2) (t : BitVec 3)
  /-- VFMIN (R188). Lane-wise minimumNumber. -/
  | vfmin (d a b : BitVec 5) (k : BitVec 2) (t : BitVec 3)
  /-- VFMAX (R188). Lane-wise maximumNumber. -/
  | vfmax (d a b : BitVec 5) (k : BitVec 2) (t : BitVec 3)
  /-- VFABS (R188). Lane-wise sign clear. -/
  | vfabs (d a : BitVec 5) (k : BitVec 2) (t : BitVec 3)
  /-- VFNEG (R188). Lane-wise sign flip. -/
  | vfneg (d a : BitVec 5) (k : BitVec 2) (t : BitVec 3)
  /-- VFRCP (R188). Lane-wise correctly rounded reciprocal on the iterative unit. -/
  | vfrcp (d a : BitVec 5) (k : BitVec 2) (t : BitVec 3)
  /-- VFRSQ (R188). Lane-wise reciprocal square root. -/
  | vfrsq (d a : BitVec 5) (k : BitVec 2) (t : BitVec 3)
  /-- VFDIV (R188). Lane-wise correctly rounded divide. -/
  | vfdiv (d a b : BitVec 5) (k : BitVec 2) (t : BitVec 3)
  /-- VFSQRT (R188). Lane-wise correctly rounded square root. -/
  | vfsqrt (d a : BitVec 5) (k : BitVec 2) (t : BitVec 3)
  /-- VAND (R189). Lane-wise AND. -/
  | vand (d a b : BitVec 5) (k : BitVec 2) (t : BitVec 3)
  /-- VOR (R189). Lane-wise OR. -/
  | vor (d a b : BitVec 5) (k : BitVec 2) (t : BitVec 3)
  /-- VXOR (R189). Lane-wise XOR. -/
  | vxor (d a b : BitVec 5) (k : BitVec 2) (t : BitVec 3)
  /-- VNOT (R189). Lane-wise NOT. -/
  | vnot (d a : BitVec 5) (k : BitVec 2) (t : BitVec 3)
  /-- VSHL (R189). Lane-wise left shift. -/
  | vshl (d a b : BitVec 5) (k : BitVec 2) (t : BitVec 3)
  /-- VSHR (R189). Lane-wise logical right shift. -/
  | vshr (d a b : BitVec 5) (k : BitVec 2) (t : BitVec 3)
  /-- VSRA (R189). Lane-wise arithmetic right shift. -/
  | vsra (d a b : BitVec 5) (k : BitVec 2) (t : BitVec 3)
  /-- VCMP_EQ (R190). Integer equality compare writing a mask. -/
  | vcmpEq (d : BitVec 2) (a b : BitVec 5) (k : BitVec 2) (t : BitVec 3)
  /-- VCMP_LT (R190). Signed less-than compare writing a mask. -/
  | vcmpLt (d : BitVec 2) (a b : BitVec 5) (k : BitVec 2) (t : BitVec 3)
  /-- VCMP_LTU (R190). Unsigned less-than compare writing a mask. -/
  | vcmpLtu (d : BitVec 2) (a b : BitVec 5) (k : BitVec 2) (t : BitVec 3)
  /-- VFCMP_EQ (R190). Floating equality compare writing a mask. -/
  | vfcmpEq (d : BitVec 2) (a b : BitVec 5) (k : BitVec 2) (t : BitVec 3)
  /-- VFCMP_LT (R190). Floating less-than compare writing a mask. -/
  | vfcmpLt (d : BitVec 2) (a b : BitVec 5) (k : BitVec 2) (t : BitVec 3)
  /-- VFCMP_LE (R190). Floating less-or-equal compare writing a mask. -/
  | vfcmpLe (d : BitVec 2) (a b : BitVec 5) (k : BitVec 2) (t : BitVec 3)
  /-- VFCMP_UN (R190). Floating unordered compare writing a mask. -/
  | vfcmpUn (d : BitVec 2) (a b : BitVec 5) (k : BitVec 2) (t : BitVec 3)
  /-- VSEL (R191). Selects each element from a or b by the mask. -/
  | vsel (d a b : BitVec 5) (k : BitVec 2) (t : BitVec 3)
  /-- VBCAST (R192). Broadcasts a general register into enabled elements. -/
  | vbcast (d a : BitVec 5) (k : BitVec 2) (t : BitVec 3)
  /-- VEXT (R192). Extracts one element into a general register. -/
  | vext (d a b : BitVec 5) (t : BitVec 3)
  /-- VINS (R192). Inserts a general register into one element. -/
  | vins (d a b : BitVec 5) (t : BitVec 3)
  /-- VPERM (R192). Permutes elements by indices in a vector. -/
  | vperm (d a b : BitVec 5) (k : BitVec 2) (t : BitVec 3)
  /-- VROT (R192). Rotates elements by a general register amount. -/
  | vrot (d a b : BitVec 5) (k : BitVec 2) (t : BitVec 3)
  /-- VREDADD (R193). Sums enabled integer elements into a general register. -/
  | vredadd (d a : BitVec 5) (k : BitVec 2) (t : BitVec 3)
  /-- VREDMIN (R193). Signed minimum of enabled elements. -/
  | vredmin (d a : BitVec 5) (k : BitVec 2) (t : BitVec 3)
  /-- VREDMAX (R193). Signed maximum of enabled elements. -/
  | vredmax (d a : BitVec 5) (k : BitVec 2) (t : BitVec 3)
  /-- VFREDADD (R193). Floating tree sum of enabled lanes by R77. -/
  | vfredadd (d a : BitVec 5) (k : BitVec 2) (t : BitVec 3)
  /-- VCOMPRESS (R192). Packs selected elements to the front of the destination. -/
  | vcompress (d a : BitVec 5) (k : BitVec 2) (t : BitVec 3)
  /-- VEXPAND (R192). Spreads source elements into selected positions. -/
  | vexpand (d a : BitVec 5) (k : BitVec 2) (t : BitVec 3)
  /-- VCVT (R194). Converts elements between two element types with a part selector. -/
  | vcvt (d a : BitVec 5) (part : BitVec 2) (u : BitVec 3) (k : BitVec 2) (s : BitVec 3)
  /-- VDEC (R195). Decodes packed narrow or table elements into float elements. -/
  | vdec (d a fmt : BitVec 5) (k : BitVec 2) (t : BitVec 3)
  /-- VENC (R195). Encodes float elements into a packed narrow or table format. -/
  | venc (d a fmt : BitVec 5) (k : BitVec 2) (t : BitVec 3)
  /-- VTABLD (R196). Loads a core decode-table bank from a format descriptor. -/
  | vtabld (a : BitVec 5) (bank : BitVec 2)
  /-- VSCALE (R197). Scales elements by E8M0 factors. -/
  | vscale (d a b : BitVec 5) (k : BitVec 2) (t : BitVec 3)
  /-- VLD (R198). Unit-stride vector load. -/
  | vld (d a : BitVec 5) (k : BitVec 2) (t : BitVec 3)
  /-- VLDS (R198). Byte-strided vector load. -/
  | vlds (d a b : BitVec 5) (k : BitVec 2) (t : BitVec 3)
  /-- VLDX (R198). Indexed vector gather. -/
  | vldx (d a b : BitVec 5) (k : BitVec 2) (t : BitVec 3)
  /-- VLDB (R198). Loads one element and broadcasts it. -/
  | vldb (d a : BitVec 5) (k : BitVec 2) (t : BitVec 3)
  /-- VST (R198). Unit-stride vector store. -/
  | vst (d a : BitVec 5) (k : BitVec 2) (t : BitVec 3)
  /-- VSTS (R198). Byte-strided vector store. -/
  | vsts (d a b : BitVec 5) (k : BitVec 2) (t : BitVec 3)
  /-- VSTX (R198). Indexed vector scatter. -/
  | vstx (d a b : BitVec 5) (k : BitVec 2) (t : BitVec 3)
  /-- SPAWN (R146). Creates a thread with a tid from the free list and places it. -/
  | spawn (d a b : BitVec 5) (ma mb : BitVec 2)
  /-- YIELD (R147). Writes the thread out to its pool if equal or higher priority work waits. -/
  | yield
  /-- QUIT (R148). Ends the thread and frees its slot and tid. -/
  | quit
  /-- SUSP (R149). Suspends the thread to its record until one wake. -/
  | susp
  /-- TID (R150). Writes the thread's logical core, slot and tid. -/
  | tid (d : BitVec 5)
  /-- MIGR (R151). Migrates the thread explicitly to a logical core. -/
  | migr (d a : BitVec 5) (ma : BitVec 2)
  /-- SEND (R238). Sends one message or wake to a thread and awaits the status reply. -/
  | send (d a b : BitVec 5) (ma mb : BitVec 2)
  /-- SENDG (R239). Sends one message to a slot of every member core of a group. -/
  | sendg (d a b : BitVec 5) (ma mb : BitVec 2)
  /-- RECV (R240). Delivers the latch or oldest mailbox message, or parks. -/
  | recv
  /-- RPEEK (R241). Reports mailbox count, latch and next kind. -/
  | rpeek (d : BitVec 5)
  /-- QBIND (R242). Binds a queue name to a queue. -/
  | qbind (q : BitVec 2) (a : BitVec 5) (ma : BitVec 2)
  /-- QSTAT (R243). Reports the state of the queue bound to a name. -/
  | qstat (d : BitVec 5) (q : BitVec 2)
  /-- QUNBIND (R244). Releases a queue name binding. -/
  | qunbind (q : BitVec 2)
  /-- QCLOSE (R245). Closes the role queue bound to a name. -/
  | qclose (q : BitVec 2)
  /-- TDECL (R265). Declares a tile at its home and returns a handle. -/
  | tdecl (d a : BitVec 5) (ma : BitVec 2)
  /-- TFREE (R266). Frees a tile, recalling and emptying its copies. -/
  | tfree (a : BitVec 5) (ma : BitVec 2)
  /-- TSTAGE (R267). Allocates a tile slot and sends a stage read or own. -/
  | tstage (d a b : BitVec 5) (ma mb : BitVec 2)
  /-- TDRAIN (R268). Releases the core's copy, writing back a modified own copy. -/
  | tdrain (a : BitVec 5) (ma : BitVec 2)
  /-- TTAG (R269). Reads a tile's tag and states at the home. -/
  | ttag (d a : BitVec 5) (ma : BitVec 2)
  /-- TSETTAG (R270). Writes a tile's tag at the home. -/
  | tsettag (a b : BitVec 5) (ma mb : BitVec 2)
  /-- TINV (R271). Discards the core's copy without write-back. -/
  | tinv (a : BitVec 5) (ma : BitVec 2)
  /-- MCAST (R272). Stages read copies of a tile into group member cores. -/
  | mcast (d a b : BitVec 5) (ma mb : BitVec 2)
  /-- TFWD (R273). Pushes a tile to another core. -/
  | tfwd (d a b : BitVec 5) (ma mb : BitVec 2)
  /-- TBST (R274). Copies a staged tile into the B-operand store. -/
  | tbst (a b : BitVec 5) (ma mb : BitVec 2)
  /-- MMA (R296). Queues a dense matrix multiply-accumulate command. -/
  | mma (a b : BitVec 5) (e : BitVec 2) (z : BitVec 1)
  /-- MMAS (R296). Queues a 2:4-sparse matrix multiply-accumulate command. -/
  | mmas (a b : BitVec 5) (e : BitVec 2) (z : BitVec 1)
  /-- MSET (R297). Writes an engine register of an array context. -/
  | mset (a : BitVec 5) (e : BitVec 2) (idx : BitVec 3)
  /-- MSCALE (R298). Queues a scaling of an accumulator block. -/
  | mscale (a b : BitVec 5) (e : BitVec 2)
  /-- ACCZERO (R298). Queues zeroing of an accumulator block. -/
  | acczero (b : BitVec 5) (e : BitVec 2)
  /-- ACCLD (R298). Queues a load of an accumulator block. -/
  | accld (a b : BitVec 5) (e : BitVec 2)
  /-- ACCST (R298). Queues a converting store of an accumulator block. -/
  | accst (a b : BitVec 5) (e : BitVec 2)
  /-- MGET (R299). Posted read of two accumulator elements after timeline reaches n. -/
  | mget (d a b : BitVec 5) (ma mb : BitVec 2)
  /-- ACCRD (R299). Reads two accumulator elements after earlier commands complete. -/
  | accrd (d a : BitVec 5) (ma : BitVec 2)
  /-- ACCWR (R299). Writes two accumulator elements after earlier commands complete. -/
  | accwr (a b : BitVec 5) (ma mb : BitVec 2)
  /-- MSTAT (R300). Reads or changes an array engine context by OP. -/
  | mstat (d a : BitVec 5) (ma : BitVec 2)
  /-- XCOPY (R344). Queues a multidimensional copy command. -/
  | xcopy (a b : BitVec 5) (e : BitVec 2)
  /-- XSET (R345). Writes a copy-context register. -/
  | xset (a : BitVec 5) (e : BitVec 2) (idx : BitVec 6)
  /-- XFILL (R344). Queues a fill command. -/
  | xfill (a b : BitVec 5) (e : BitVec 2)
  /-- XCANCEL (R346). Cancels queued copy commands and optionally releases the context. -/
  | xcancel (e : BitVec 2) (rel : BitVec 1)
  /-- BAR_INIT (R358). Initialises or resets a barrier record at its home. -/
  | barInit (a b : BitVec 5) (ma mb : BitVec 2)
  /-- BAR_ARRIVE (R358). Adds arrivals to a barrier phase. -/
  | barArrive (d a b : BitVec 5) (ma mb : BitVec 2)
  /-- BAR_EXPECT (R358). Adds expected bytes and optionally posts the expectation. -/
  | barExpect (d a b : BitVec 5) (ma mb : BitVec 2)
  /-- BAR_ARM (R358). Waits for a barrier phase to complete. -/
  | barArm (a b : BitVec 5) (ma mb : BitVec 2)
  /-- BAR_INVAL (R358). Invalidates a barrier and wakes its list. -/
  | barInval (a : BitVec 5) (ma : BitVec 2)
  /-- TL_READ (R347). Reads a timeline value or context state. -/
  | tlRead (d a b : BitVec 5) (ma mb : BitVec 2)
  /-- TL_ARM (R348). Waits until a timeline reaches n. -/
  | tlArm (a b : BitVec 5) (ma mb : BitVec 2)
  /-- TASK_SUB (R323). Submits a task record to a task queue. -/
  | taskSub (d a b : BitVec 5) (ma mb : BitVec 2)
  /-- TASK_DONE (R324). Completes the thread's task, or ends an unmatched task at supervisor level. -/
  | taskDone (a b : BitVec 5) (ma mb : BitVec 2)
  /-- TASK_DEP (R325). Records a dependence edge between two tasks. -/
  | taskDep (d a b : BitVec 5) (ma mb : BitVec 2)
  /-- TASK_INFO (R326). Reads task state by selector. -/
  | taskInfo (d a b : BitVec 5) (ma mb : BitVec 2)
  /-- GRP_INFO (R375). Reads group membership information. -/
  | grpInfo (d a b : BitVec 5) (ma mb : BitVec 2)
  /-- COLL_START (R376). Joins the core to the group's next collective. -/
  | collStart (d a b : BitVec 5) (ma mb : BitVec 2)
  /-- COLL_STAT (R377). Reads the core's collective slot state. -/
  | collStat (d a : BitVec 5) (ma : BitVec 2)
  /-- STO_READ (R451). Starts a programmed transfer from a drive to memory. -/
  | stoRead (d a : BitVec 5) (ma : BitVec 2)
  /-- STO_WRITE (R451). Starts a programmed transfer from memory to a drive. -/
  | stoWrite (d a : BitVec 5) (ma : BitVec 2)
  /-- STO_SYNC (R452). Waits for a transfer ticket and writes its status. -/
  | stoSync (d a : BitVec 5) (ma : BitVec 2)
  /-- CSR_RD (R426). Reads a system register. -/
  | csrRd (d : BitVec 5) (csr : BitVec 12)
  /-- CSR_WR (R426). Writes a system register. -/
  | csrWr (a : BitVec 5) (csr : BitVec 12)
  /-- CSR_SET (R426). Sets bits of a system register. -/
  | csrSet (a : BitVec 5) (csr : BitVec 12)
  /-- CSR_CLR (R426). Clears bits of a system register. -/
  | csrClr (a : BitVec 5) (csr : BitVec 12)
  /-- SYS_CALL (R427). Traps the thread with cause SYSCALL. -/
  | sysCall (a : BitVec 5) (ma : BitVec 2)
  /-- SYS_RET (R428). Ends handling of a fault or event record, resuming or ending the thread. -/
  | sysRet (a b : BitVec 5) (ma mb : BitVec 2)
  /-- REPART (R152). Changes the core's register partition. -/
  | repart (a : BitVec 5) (ma : BitVec 2)
  /-- BRK (R476). Raises BRKPT. -/
  | brk (a : BitVec 5) (ma : BitVec 2)
  /-- MARK (R477). Writes a KIND 1 trace record if enabled. -/
  | mark (a : BitVec 5) (ma : BitVec 2)
  /-- XLAT_INV (R453). Broadcasts an invalidation of translations of a range to all slices. -/
  | xlatInv (a b : BitVec 5) (ma mb : BitVec 2)
  /-- FENCE_XLAT (R453). Waits until earlier xlat.inv are complete at every slice. -/
  | fenceXlat
  /-- GANG_ACK (R411). Queries, readies or defers an announced switch. -/
  | gangAck (d a : BitVec 5) (ma : BitVec 2)
  /-- MVBLK (R429). Deprecated block move in micro-steps. -/
  | mvblk (d a b : BitVec 5)
  /-- STBLK (R429). Deprecated block fill in micro-steps. -/
  | stblk (d a b : BitVec 5)
  /-- CMPBLK (R429). Deprecated block compare in micro-steps. -/
  | cmpblk (d a b : BitVec 5)
  /-- ILLINST (R45). Issue of a word that is not an instruction raises ILLINST with its reason. -/
  | illinst
  /-- POSTED_ARRIVE (R37). A posted value arrives at its pending register, filling it and waking parked readers. -/
  | postedArrive
  /-- POSTED_FAIL (R37). A posted producer's fault arrives and the register goes to state X. -/
  | postedFail
  /-- LOAD_REPLY (R98). The value of an in-flight load arrives and the thread becomes ready. -/
  | loadReply
  /-- STORE_CHECK_REPLY (R171). The home's reply to a store check arrives, queueing the store or raising its fault. -/
  | storeCheckReply
  /-- STORE_ACK (R100). A store acknowledgement arrives, releasing the thread's next store and updating the recent-store filter. -/
  | storeAck
  /-- HOME_READ (R213). An L1 read miss or home-performed read is served at the home slice. -/
  | homeRead
  /-- HOME_WRITE (R213). A write is performed at the home, invalidating sharers and updating tags. -/
  | homeWrite
  /-- COLLECT_RECALL_REPLY (R116). A core's answer to a recall of its U copy reaches the home. -/
  | collectRecallReply
  /-- RED_U_REQUEST (R114). A core's request for a line in U reaches the home and is granted. -/
  | redURequest
  /-- U_EVICTION (R117). A core evicts a U copy and sends its partial to the home. -/
  | uEviction
  /-- INVALIDATION (R95). An invalidation reaches an L1 and is acknowledged at once. -/
  | invalidation
  /-- INVALIDATION_ACK (R101). An invalidation acknowledgement reaches the home. -/
  | invalidationAck
  /-- FENCE_MARKER (R101). A fence marker reaches a home and is answered once invalidations are collected. -/
  | fenceMarker
  /-- FENCE_MARKER_ANSWER (R101). A home's answer to a fence marker reaches the thread. -/
  | fenceMarkerAnswer
  /-- FE_RETRY (R215). A failed ldsync or stsync retries after 64 network cycles. -/
  | feRetry
  /-- RESERVATION_EXPIRY (R208). A word reservation expires after 1 ms of resident time and the word settles. -/
  | reservationExpiry
  /-- WAITOVF (R210). An overflow event is posted to supervisor handlers after earlier chain appends are acknowledged. -/
  | waitovf
  /-- WAKE_AT_SLOT (R129). A wake reaches a slot holding its tid, ending a park or setting the latch. -/
  | wakeAtSlot
  /-- WAKE_AT_RECORD (R130). A forwarded wake reaches the record's home and acts by the record's STATE. -/
  | wakeAtRecord
  /-- PARKLIM_WRITE_OUT (R132). A park reaching PARKLIM writes the thread out to its continuation record. -/
  | parklimWriteOut
  /-- POOL_PICKUP (R136). A vacant slot takes the front pool entry and resumes its record. -/
  | poolPickup
  /-- PROMOTE_AGING (R137). A pool entry that waited PROMOTE moves to the next priority. -/
  | promoteAging
  /-- MIGRANT_ARRIVAL (R142). A migrant packet reaches the target core, which accepts or refuses it. -/
  | migrantArrival
  /-- MIGRANT_ACCEPTED (R142). Acceptance reaches the origin, which updates the record and frees the origin slot. -/
  | migrantAccepted
  /-- MIGRANT_REFUSED (R142). A refused migrant returns and the thread performs the access remotely. -/
  | migrantRefused
  /-- FORWARDED_VALUE (R143). A forwarding entry receives a posted value or fault and sends it to the new slot. -/
  | forwardedValue
  /-- DIVIDER_DONE (R160). A divider use ends after 24 cycles and the thread's result is written. -/
  | dividerDone
  /-- NORMALISER_DONE (R78). A normaliser use ends after 4 cycles and the thread resumes issue. -/
  | normaliserDone
  /-- ITERATIVE_UNIT_DONE (R186). An iterative-unit use ends after 12 cycles. -/
  | iterativeUnitDone
  /-- MAILBOX_MESSAGE (R235). A message reaches a slot's mailbox, completing recv, appending, or queueing the sender. -/
  | mailboxMessage
  /-- SEND_REPLY (R238). The status reply of a send reaches the sender. -/
  | sendReply
  /-- SENDG_MEMBER_REPLY (R239). A member's accept or refuse reply to sendg reaches the sender. -/
  | sendgMemberReply
  /-- STAGE_READ (R254). A stage read reaches the tile's home and read data is sent. -/
  | stageRead
  /-- STAGE_OWN (R254). A stage own reaches the tile's home and the owner is set. -/
  | stageOwn
  /-- TILE_DRAIN (R254). An owner's drain write-back reaches the home. -/
  | tileDrain
  /-- TILE_DROP (R254). A sharer's drop or an owner's discard reaches the home. -/
  | tileDrop
  /-- TILE_RECALL (R258). A recall from the home reaches a core's tile slot. -/
  | tileRecall
  /-- TILE_FILL_COMPLETE (R258). A staged copy's last beat arrives and the slot becomes ready. -/
  | tileFillComplete
  /-- TILE_WRITEBACK_ACK (R258). The acknowledgement of a drain write-back frees the slot. -/
  | tileWritebackAck
  /-- STAGE_HOLD_EXPIRY (R256). The 4,096-network-cycle hold after a promotion expires. -/
  | stageHoldExpiry
  /-- DEFER_EXPIRY (R263). A deferred own slot not forwarded within PROMOTE drains to the home. -/
  | deferExpiry
  /-- TFWD_TRANSFER (R273). A forwarded own copy reaches the target core. -/
  | tfwdTransfer
  /-- KSTEP (R277). The array issues one k-step of a ready context's command. -/
  | kstep
  /-- ARRAY_COMMAND_COMPLETE (R287). An array command completes and the context's timeline advances. -/
  | arrayCommandComplete
  /-- MTABLD_LOAD_COMPLETE (R292). An array decode-table bank load completes once no command names the bank. -/
  | mtabldLoadComplete
  /-- COPY_COMMAND_COMPLETE (R334). A copy command completes or fails, advancing the timeline and updating its barrier. -/
  | copyCommandComplete
  /-- BARRIER_BYTES (R354). A copy's byte update reaches the barrier home. -/
  | barrierBytes
  /-- TASK_NOTIFY_ARRIVAL (R359). A task's kind 2 notify arrives at its barrier as one arrival. -/
  | taskNotifyArrival
  /-- TASK_READ (R311). The teller reads a submitted record and enters it as PENDING or READY. -/
  | taskRead
  /-- TASK_MATCH (R316). The teller matches a READY task to a method, inserting conversions or reporting no method. -/
  | taskMatch
  /-- TASK_PLACE (R320). The teller places a MATCHED task and starts its thread. -/
  | taskPlace
  /-- TASK_DECREMENT (R312). A predecessor's completion decrements a successor's PENDING at its home. -/
  | taskDecrement
  /-- COLL_ALL_JOINED (R366). Every member has joined and the collective begins. -/
  | collAllJoined
  /-- COLL_CHUNK_FORWARD (R368). A node forwards a combined chunk to its parent or down the tree. -/
  | collChunkForward
  /-- COLL_CHUNK_ACK (R368). The root's chunk acknowledgement reaches a member. -/
  | collChunkAck
  /-- COLL_MEMBER_LOST (R369). Loss of a member is detected and the slot repairs, aborts or holds. -/
  | collMemberLost
  /-- COLL_REPAIR_DONE (R370). Every survivor has taken the rebuilt tree and the collective runs again. -/
  | collRepairDone
  /-- LAUNCH_DOORBELL (R462). A host write to a launch mailbox starts a launch of the context. -/
  | launchDoorbell
  /-- RETIRE (R393). The retire condition holds and the kernel retires. -/
  | retire
  /-- TEXT_FETCH (R385). An instruction-cache miss fetches and checks a compressed text line. -/
  | textFetch
  /-- TRANSLATION_MISS (R438). A request misses in a slice's translation entries and joins or starts a walk. -/
  | translationMiss
  /-- WALK_COMPLETE (R438). A page walk ends, installing a translation and releasing waiters. -/
  | walkComplete
  /-- RETRY_WAKE_TIMER (R438). 512 network cycles after a retry reply the request is sent again or the thread woken. -/
  | retryWakeTimer
  /-- STORAGE_FAULT_ACCEPT (R445). The SQE accepts a miss on a storage-backed page and starts its fill. -/
  | storageFaultAccept
  /-- PAGE_FILL_COMPLETE (R445). The NVMe read of a page completes, the leaf is written and waiters released. -/
  | pageFillComplete
  /-- EVICTION_WRITEBACK_DONE (R445). An eviction's write-back completes or fails and the frame is released or kept. -/
  | evictionWritebackDone
  /-- REMOTE_ACCESS (R448). An access through a remote leaf goes to the peer and is counted. -/
  | remoteAccess
  /-- MIGRATION_COMPLETE (R449). A page migrated from a peer is written and its waiters released. -/
  | migrationComplete
  /-- RELEASE_NOTICE (R449). A peer's release notice of a migrated frame arrives and is posted to the host. -/
  | releaseNotice
  /-- XLAT_INV_AT_SLICE (R453). An invalidation reaches a slice and drops overlapping translations. -/
  | xlatInvAtSlice
  /-- STO_TRANSFER_COMPLETE (R451). A programmed transfer completes and subtracts its length at its barrier. -/
  | stoTransferComplete
  /-- PEER_ACCESS (R467). An inbound Span access is checked against the inbound rights map and served. -/
  | peerAccess
  /-- HOST_READ (R213). A CXL host read of a line is served at its home. -/
  | hostRead
  /-- HOST_WRITE (R213). A CXL host write is performed at its home. -/
  | hostWrite
  /-- BACK_INVALIDATION_RESPONSE (R213). The host's answer to a back-invalidation snoop reaches the home. -/
  | backInvalidationResponse
  /-- HOST_EVENT_POST (R463). A waiting event is written into the host event ring when room exists. -/
  | hostEventPost
  /-- ADD_COMMAND (R443). Command-ring ADD adds frames to a colour's free-frame stack. -/
  | addCommand
  /-- INVAL_COMMAND (R464). Command-ring INVAL broadcasts a translation invalidation. -/
  | invalCommand
  /-- REPLY_COMMAND (R464). Command-ring REPLY answers a host-assisted event. -/
  | replyCommand
  /-- GANGSTEP_COMMAND (R464). Command-ring GANGSTEP commands one host-assisted gang-switch step. -/
  | gangstepCommand
  /-- LINKCMD_ENABLE (R457). Firmware enable starts training of a DOWN link. -/
  | linkcmdEnable
  /-- LINKCMD_FENCE (R457). Firmware fence command fences a link. -/
  | linkcmdFence
  /-- LINKCMD_DOWN (R457). Firmware down command takes a link DOWN. -/
  | linkcmdDown
  /-- LINK_TRAINING_DONE (R457). Link training succeeds and the link goes UP or DEGRADED. -/
  | linkTrainingDone
  /-- LINK_TRAINING_TIMEOUT (R457). Training fails or exceeds 100 ms and the link returns DOWN. -/
  | linkTrainingTimeout
  /-- LANE_RETIRE (R458). A lane exceeding LANELIM or losing lock is retired and the link retrains. -/
  | laneRetire
  /-- FLIT_REPLAY (R458). A flit failing its CRC is replayed. -/
  | flitReplay
  /-- FLIT_UNCORRECTABLE (R458). A flit failing 8 replays or unacknowledged 2 µs fences the link. -/
  | flitUncorrectable
  /-- LANE_MARGIN_MEASURE (R468). Eye margins of each lane are measured every 100 ms. -/
  | laneMarginMeasure
  /-- CREATE (R401). COMMAND code 1 creates a context after checking the entry and runtime. -/
  | create
  /-- PLACE (R401). COMMAND code 2 places a context on its cells. -/
  | place
  /-- KILL (R409). COMMAND code 3 kills a context. -/
  | kill
  /-- FREE (R401). COMMAND code 4 frees a context. -/
  | free
  /-- COMMAND_ILLEGAL_CODE (R400). A COMMAND code 5–15 is taken with status 5. -/
  | commandIllegalCode
  /-- SWITCH_ANNOUNCE (R402). Host writes SWITCHAT and the controller sends the stamp to the partition. -/
  | switchAnnounce
  /-- SWITCH_STAMP (R403). At the stamp every core stops and the partition is brought to rest. -/
  | switchStamp
  /-- SAVE_COMPLETE (R406). Row save engines finish streaming and the context goes SAVED. -/
  | saveComplete
  /-- RESTORE_COMPLETE (R407). Restore ends; spilled traffic and held wakes are delivered and issue begins. -/
  | restoreComplete
  /-- STOP_TIMEOUT (R410). A core not at rest 1 ms after the stamp gets an error record. -/
  | stopTimeout
  /-- TRAP_DELIVERY (R419). A raised fault is delivered after drains: slot record and fault record written. -/
  | trapDelivery
  /-- HANDLER_START (R421). A handler continuation starts once a tid and slot are available. -/
  | handlerStart
  /-- HANDLER_START_TIMEOUT (R421). A handler start waiting 1 ms for a tid writes an error record and posts an event. -/
  | handlerStartTimeout
  /-- EVENT_RING_WRITE (R423). A waiting event is written to a free entry of the context's event ring. -/
  | eventRingWrite
  /-- STOP (R475). STOPCMD OP 1 stops a slot's thread. -/
  | stop
  /-- RESUME (R475). STOPCMD OP 2 resumes a stopped thread. -/
  | resume
  /-- STEP (R475). STOPCMD OP 3 lets a stopped thread issue one instruction. -/
  | step
  /-- TRACE_RECORD_WRITE (R472). A chiplet trace unit writes a queued record to the context's ring. -/
  | traceRecordWrite
  /-- COUNTER_CLEAR (R470). A write of 0 clears a debug-block counter. -/
  | counterClear
  /-- LANE_COUNTER_CLEAR (R468). A write of 0 clears a lane's error counts. -/
  | laneCounterClear
  /-- REGISTER_WRITE (R461). Host write to a register with no behaviour of its own. -/
  | registerWrite
  /-- IFTEST_REQUEST (R481). A test-word write requests in-field tests of an idle cell. -/
  | iftestRequest
  /-- IFTEST_DONE (R481). An in-field test ends, zeroes memories, writes RESULT and posts an event. -/
  | iftestDone
  /-- IFTEST_REMINDER (R481). A cell reaching 55 minutes of untested active time posts a TYPE 6 event. -/
  | iftestReminder
  /-- ROW_COUNTER_WINDOW (R480). A 64 ms DRAM activation window ends and row counts restart. -/
  | rowCounterWindow
  /-- HW_FAULT_DETECTED (R483). A detected hardware fault is corrected or fences the smallest unit and writes an error record. -/
  | hwFaultDetected
  /-- POWER_LIMIT_WRITE (R485). Firmware writes the power limit, applied within 1 ms. -/
  | powerLimitWrite
  /-- COLD_RESET (R485). A cold reset clears all device state. -/
  | coldReset
  /-- BOOT (R484). The boot ROM verifies and runs the firmware image. -/
  | boot
  /-- LAUNCH_CHECKS_DONE (R392). The launch dispatcher's checks end, moving the kernel from CHECKING to RUNNING with R390's set-up or to NONE with a failure status. -/
  | launchChecksDone
  /-- KILL_COMPLETE (R409). A kill finishes stopping and discarding the partition, clears and releases the cells, retires the kernel as KILLED and leaves the context CREATED. -/
  | killComplete
  /-- COPY_ELEMENT (R337). A copy engine serves one running command in rotation and performs its next element read, conversion and write, pinning pages as it goes. -/
  | copyElement
  /-- CYCLE (R478). Each arithmetic cycle every slot adds one to one time-loss counter, the histogram is sampled at a rotation's first cycle, and static energy is charged. -/
  | cycle
  /-- HOST_COPY_DROP (R213). The CXL host drops its copy of a line, writing it back first if modified, and the directory leaves HS. -/
  | hostCopyDrop
  /-- ATTESTATION_REQUEST (R484). An SPDM attestation request arrives over MCTP and firmware answers it, signing with the device's identity key. -/
  | attestationRequest
  deriving DecidableEq, Repr

end Sys2Proof
end

