-- ==== Sys2Proof/Decode.lean ====
section
/-!
DEFINITION. Decoding and encoding of instruction words (02 R27 to R47). The decoder puts the fields of a word into a
constructor of Instr and then asks which reasons of R46 apply: reserved fields, modes, scopes, orders and register
classes. It is total on any bytes and rejects by name. The encoder, after it, writes the word of an instruction from
the same formats (R29).
-/
namespace Sys2Proof

/-- The reasons of R46, in the order of their info values. -/
inductive Illegal where
  /-- 0: unallocated major opcode. -/
  | major
  /-- 1: unlisted fn, c5, fn3, cc, sz or element-type selector, or a number that names no system register. -/
  | selector
  /-- 2: nonzero reserved field. -/
  | reserved
  /-- 3: illegal access mode. -/
  | mode
  /-- 4: illegal scope or order. -/
  | order
  /-- 5: vector register beyond the partition (R35). -/
  | vector
  /-- 6: register field of a forbidden class. -/
  | regClass
  /-- 7: fence that orders nothing. -/
  | fence
  deriving DecidableEq, Repr

/-- The info value of a reason (R46). -/
def Illegal.info : Illegal → Nat
  | .major => 0 | .selector => 1 | .reserved => 2 | .mode => 3
  | .order => 4 | .vector => 5 | .regClass => 6 | .fence => 7

/-- The reasons that apply to one word, each on its own. -/
structure Faults where
  major : Bool := false
  sel : Bool := false
  resv : Bool := false
  mode : Bool := false
  order : Bool := false
  vec : Bool := false
  cls : Bool := false
  fence : Bool := false
  deriving DecidableEq, Repr

/-- The lowest reason that applies (R46). -/
def Faults.first (f : Faults) : Option Illegal :=
  if f.major then some .major else if f.sel then some .selector else if f.resv then some .reserved
  else if f.mode then some .mode else if f.order then some .order else if f.vec then some .vector
  else if f.cls then some .regClass else if f.fence then some .fence else none

/-- The number names a queue, q0 to q3 (R41). -/
def isQ (r : BitVec 5) : Bool := decide (28 ≤ r.toNat)

/-- Mode 11 is illegal (R32), and so is any mode but plain on a queue name (R41). DEDUCED, unsafe: log entry 36. -/
def modeBad (r : BitVec 5) (m : BitVec 2) : Bool := m == 3 || (isQ r && m != 0)

/-- Scopes 5 to 7 are illegal (R32). -/
def scBad (sc : BitVec 3) : Bool := decide (4 < sc.toNat)

/-- The integer element types I8, I16, I32, I64 (R32). -/
def tInt (t : BitVec 3) : Bool := decide (t.toNat < 4)

/-- The float element types FP16, BF16, FP32 (R32). -/
def tFloat (t : BitVec 3) : Bool := decide (4 ≤ t.toNat) && decide (t.toNat < 7)

/-- The element types of R192's compress and expand and R198's indexed forms: I32, I64, FP32. -/
def tWide (t : BitVec 3) : Bool := t == 2 || t == 3 || t == 6

/-- The element width in bits (R181). -/
def tBits (t : BitVec 3) : Nat :=
  match t.toNat with
  | 0 => 8 | 1 => 16 | 2 => 32 | 3 => 64 | 4 => 16 | 5 => 16 | 6 => 32 | _ => 8

/-- vcvt's types lie in 0 to 6 and differ (R194). -/
def cvtTypes (s u : BitVec 3) : Bool := s != 7 && u != 7 && s != u

/-- vcvt's legal parts (R194): below the ratio of the two widths. -/
def cvtPart (s u : BitVec 3) (part : BitVec 2) : Bool :=
  decide (part.toNat < Nat.max (tBits s) (tBits u) / Nat.min (tBits s) (tBits u))

/-- The packed formats of vdec and venc (R195). -/
def packFmt (f : BitVec 5) : Bool :=
  (decide (4 ≤ f.toNat) && decide (f.toNat ≤ 11)) || f == 16 || f == 17

/-- The numbers that name a system register (R425). -/
def csrNamed (n : BitVec 12) : Bool :=
  decide (n.toNat ≤ 0x00D) || (decide (0x800 ≤ n.toNat) && decide (n.toNat ≤ 0x804)) || n == 0xC04

/-- What is wrong with an instruction's fields, by R45's kinds. An event has no word: no major opcode is its own. -/
def Instr.faults : Instr → Faults
  | .add _ a b ma mb => { mode := modeBad a ma || modeBad b mb }
  | .sub _ a b ma mb => { mode := modeBad a ma || modeBad b mb }
  | .and _ a b ma mb => { mode := modeBad a ma || modeBad b mb }
  | .or _ a b ma mb => { mode := modeBad a ma || modeBad b mb }
  | .xor _ a b ma mb => { mode := modeBad a ma || modeBad b mb }
  | .andn _ a b ma mb => { mode := modeBad a ma || modeBad b mb }
  | .shl _ a b ma mb => { mode := modeBad a ma || modeBad b mb }
  | .shr _ a b ma mb => { mode := modeBad a ma || modeBad b mb }
  | .sra _ a b ma mb => { mode := modeBad a ma || modeBad b mb }
  | .rot _ a b ma mb => { mode := modeBad a ma || modeBad b mb }
  | .slt _ a b ma mb => { mode := modeBad a ma || modeBad b mb }
  | .sltu _ a b ma mb => { mode := modeBad a ma || modeBad b mb }
  | .seq _ a b ma mb => { mode := modeBad a ma || modeBad b mb }
  | .min _ a b ma mb => { mode := modeBad a ma || modeBad b mb }
  | .max _ a b ma mb => { mode := modeBad a ma || modeBad b mb }
  | .minu _ a b ma mb => { mode := modeBad a ma || modeBad b mb }
  | .maxu _ a b ma mb => { mode := modeBad a ma || modeBad b mb }
  | .addw _ a b ma mb => { mode := modeBad a ma || modeBad b mb }
  | .subw _ a b ma mb => { mode := modeBad a ma || modeBad b mb }
  | .mul _ a b ma mb => { mode := modeBad a ma || modeBad b mb }
  | .mulh _ a b ma mb => { mode := modeBad a ma || modeBad b mb }
  | .mulhu _ a b ma mb => { mode := modeBad a ma || modeBad b mb }
  | .div _ a b ma mb => { mode := modeBad a ma || modeBad b mb }
  | .divu _ a b ma mb => { mode := modeBad a ma || modeBad b mb }
  | .rem _ a b ma mb => { mode := modeBad a ma || modeBad b mb }
  | .remu _ a b ma mb => { mode := modeBad a ma || modeBad b mb }
  | .clz _ a ma => { mode := modeBad a ma }
  | .ctz _ a ma => { mode := modeBad a ma }
  | .popc _ a ma => { mode := modeBad a ma }
  | .bext _ a b ma mb => { mode := modeBad a ma || modeBad b mb }
  | .bins d a b ma mb => { mode := modeBad a ma || modeBad b mb, cls := isQ d }
  | .sext _ a b ma mb => { mode := modeBad a ma || modeBad b mb }
  | .zext _ a b ma mb => { mode := modeBad a ma || modeBad b mb }
  | .bswap _ a ma => { mode := modeBad a ma }
  | .nop => {}
  | .addi d a ma imm => { sel := (d == 0 && a == 0 && ma == 0 && imm == 0), mode := modeBad a ma }
  | .andi _ a ma _ => { mode := modeBad a ma }
  | .ori _ a ma _ => { mode := modeBad a ma }
  | .xori _ a ma _ => { mode := modeBad a ma }
  | .slti _ a ma _ => { mode := modeBad a ma }
  | .sltiu _ a ma _ => { mode := modeBad a ma }
  | .shli _ a ma _ => { mode := modeBad a ma }
  | .shri _ a ma _ => { mode := modeBad a ma }
  | .srai _ a ma _ => { mode := modeBad a ma }
  | .roti _ a ma _ => { mode := modeBad a ma }
  | .lui _ _ => {}
  | .auipc _ _ => {}
  | .jal d _ => { cls := isQ d }
  | .jalr d a ma _ => { mode := modeBad a ma, cls := isQ d }
  | .beq _ _ _ => {}
  | .bne _ _ _ => {}
  | .blt _ _ _ => {}
  | .bge _ _ _ => {}
  | .bltu _ _ _ => {}
  | .bgeu _ _ _ => {}
  | .beqz _ _ => {}
  | .bnez _ _ => {}
  | .kmovg d a ma => { mode := modeBad a ma, cls := d == 0 }
  | .kmovk _ _ => {}
  | .kand d _ _ => { cls := d == 0 }
  | .kor d _ _ => { cls := d == 0 }
  | .kxor d _ _ => { cls := d == 0 }
  | .knot d _ => { cls := d == 0 }
  | .kpop _ _ => {}
  | .kfirst _ _ => {}
  | .ld _ _ _ sc mo _ => { order := scBad sc || mo == 2 }
  | .ldu _ _ sz sc mo _ => { sel := sz == 3, order := scBad sc || mo == 2 }
  | .st _ _ _ sc mo _ => { order := scBad sc || mo == 1 }
  | .ldp d _ _ sc _ => { order := scBad sc, cls := isQ d }
  | .ldsync _ _ _ sc _ _ => { order := scBad sc }
  | .stsync _ _ _ sc _ _ => { order := scBad sc }
  | .feclr _ sc mo _ => { order := scBad sc || mo == 1 }
  | .feset _ sc mo _ => { order := scBad sc || mo == 1 }
  | .feprobe _ _ sc mo _ => { order := scBad sc || mo == 2 }
  | .ldmon d _ _ sc mo _ => { order := scBad sc || mo == 2 || mo == 3, cls := isQ d }
  | .amoAdd d _ _ sc _ => { order := scBad sc, cls := isQ d }
  | .amoAnd d _ _ sc _ => { order := scBad sc, cls := isQ d }
  | .amoOr d _ _ sc _ => { order := scBad sc, cls := isQ d }
  | .amoXor d _ _ sc _ => { order := scBad sc, cls := isQ d }
  | .amoMin d _ _ sc _ => { order := scBad sc, cls := isQ d }
  | .amoMax d _ _ sc _ => { order := scBad sc, cls := isQ d }
  | .amoMinu d _ _ sc _ => { order := scBad sc, cls := isQ d }
  | .amoMaxu d _ _ sc _ => { order := scBad sc, cls := isQ d }
  | .amoSwap d _ _ sc _ => { order := scBad sc, cls := isQ d }
  | .amoFadd d _ _ sc _ => { order := scBad sc, cls := isQ d }
  | .amoFmin d _ _ sc _ => { order := scBad sc, cls := isQ d }
  | .amoFmax d _ _ sc _ => { order := scBad sc, cls := isQ d }
  | .casW d _ _ sc _ => { order := scBad sc, cls := isQ d }
  | .casD d _ _ sc _ => { order := scBad sc, cls := isQ d }
  | .redAdd _ _ sc => { order := scBad sc }
  | .redAnd _ _ sc => { order := scBad sc }
  | .redOr _ _ sc => { order := scBad sc }
  | .redXor _ _ sc => { order := scBad sc }
  | .redMin _ _ sc => { order := scBad sc }
  | .redMax _ _ sc => { order := scBad sc }
  | .redMinu _ _ sc => { order := scBad sc }
  | .redMaxu _ _ sc => { order := scBad sc }
  | .redFadd _ _ sc => { order := scBad sc }
  | .redFmin _ _ sc => { order := scBad sc }
  | .redFmax _ _ sc => { order := scBad sc }
  | .fence fk sc e => { order := scBad sc, fence := (fk == 0 && e == 0) }
  | .pref _ sc _ => { order := scBad sc }
  | .cflush _ sc _ => { order := scBad sc }
  | .cinval _ sc _ => { order := scBad sc }
  | .vadd _ _ _ _ t => { sel := !tInt t }
  | .vsub _ _ _ _ t => { sel := !tInt t }
  | .vmul _ _ _ _ t => { sel := !tInt t }
  | .vmulh _ _ _ _ t => { sel := !tInt t }
  | .vmin _ _ _ _ t => { sel := !tInt t }
  | .vmax _ _ _ _ t => { sel := !tInt t }
  | .vminu _ _ _ _ t => { sel := !tInt t }
  | .vmaxu _ _ _ _ t => { sel := !tInt t }
  | .vabs _ _ _ t => { sel := !tInt t }
  | .vmac _ _ _ _ t => { sel := !tInt t }
  | .vfadd _ _ _ _ t => { sel := !tFloat t }
  | .vfsub _ _ _ _ t => { sel := !tFloat t }
  | .vfmul _ _ _ _ t => { sel := !tFloat t }
  | .vfma _ _ _ _ t => { sel := !tFloat t }
  | .vfmin _ _ _ _ t => { sel := !tFloat t }
  | .vfmax _ _ _ _ t => { sel := !tFloat t }
  | .vfabs _ _ _ t => { sel := !tFloat t }
  | .vfneg _ _ _ t => { sel := !tFloat t }
  | .vfrcp _ _ _ t => { sel := !tFloat t }
  | .vfrsq _ _ _ t => { sel := !tFloat t }
  | .vfdiv _ _ _ _ t => { sel := !tFloat t }
  | .vfsqrt _ _ _ t => { sel := !tFloat t }
  | .vand _ _ _ _ t => { sel := !tInt t }
  | .vor _ _ _ _ t => { sel := !tInt t }
  | .vxor _ _ _ _ t => { sel := !tInt t }
  | .vnot _ _ _ t => { sel := !tInt t }
  | .vshl _ _ _ _ t => { sel := !tInt t }
  | .vshr _ _ _ _ t => { sel := !tInt t }
  | .vsra _ _ _ _ t => { sel := !tInt t }
  | .vcmpEq d _ _ _ t => { sel := !tInt t, cls := d == 0 }
  | .vcmpLt d _ _ _ t => { sel := !tInt t, cls := d == 0 }
  | .vcmpLtu d _ _ _ t => { sel := !tInt t, cls := d == 0 }
  | .vfcmpEq d _ _ _ t => { sel := !tFloat t, cls := d == 0 }
  | .vfcmpLt d _ _ _ t => { sel := !tFloat t, cls := d == 0 }
  | .vfcmpLe d _ _ _ t => { sel := !tFloat t, cls := d == 0 }
  | .vfcmpUn d _ _ _ t => { sel := !tFloat t, cls := d == 0 }
  | .vsel _ _ _ _ _ => {}
  | .vbcast _ _ _ _ => {}
  | .vext _ _ _ _ => {}
  | .vins _ _ _ _ => {}
  | .vperm _ _ _ _ _ => {}
  | .vrot _ _ _ _ _ => {}
  | .vredadd _ _ _ t => { sel := !tInt t }
  | .vredmin _ _ _ t => { sel := !tInt t }
  | .vredmax _ _ _ t => { sel := !tInt t }
  | .vfredadd _ _ _ t => { sel := !tFloat t }
  | .vcompress _ _ _ t => { sel := !tWide t }
  | .vexpand _ _ _ t => { sel := !tWide t }
  | .vcvt _ _ part u _ s => { sel := !cvtTypes s u, resv := !cvtPart s u part }
  | .vdec _ _ fmt _ t => { sel := !tFloat t || !packFmt fmt }
  | .venc _ _ fmt _ t => { sel := !tFloat t || !packFmt fmt }
  | .vtabld _ _ => {}
  | .vscale _ _ _ _ t => { sel := !tFloat t }
  | .vld _ _ _ _ => {}
  | .vlds _ _ _ _ _ => {}
  | .vldx _ _ _ _ t => { sel := !tWide t }
  | .vldb _ _ _ _ => {}
  | .vst _ _ _ _ => {}
  | .vsts _ _ _ _ _ => {}
  | .vstx _ _ _ _ t => { sel := !tWide t }
  | .spawn d a b ma mb => { mode := modeBad a ma || modeBad b mb, cls := isQ d || isQ a || isQ b }
  | .yield => {}
  | .quit => {}
  | .susp => {}
  | .tid d => { cls := isQ d }
  | .migr d a ma => { mode := modeBad a ma, cls := isQ a || decide (24 ≤ d.toNat) }
  | .send d a b ma mb => { mode := modeBad a ma || modeBad b mb, cls := isQ d || isQ a || isQ b }
  | .sendg d a b ma mb => { mode := modeBad a ma || modeBad b mb, cls := isQ d || isQ a || isQ b }
  | .recv => {}
  | .rpeek d => { cls := isQ d }
  | .qbind _ a ma => { mode := modeBad a ma, cls := isQ a }
  | .qstat d _ => { cls := isQ d }
  | .qunbind _ => {}
  | .qclose _ => {}
  | .tdecl d a ma => { mode := modeBad a ma, cls := isQ d }
  | .tfree a ma => { mode := modeBad a ma }
  | .tstage d a b ma mb => { mode := modeBad a ma || modeBad b mb, cls := isQ d }
  | .tdrain a ma => { mode := modeBad a ma }
  | .ttag d a ma => { mode := modeBad a ma, cls := isQ d }
  | .tsettag a b ma mb => { mode := modeBad a ma || modeBad b mb }
  | .tinv a ma => { mode := modeBad a ma }
  | .mcast d a b ma mb => { mode := modeBad a ma || modeBad b mb, cls := isQ d }
  | .tfwd d a b ma mb => { mode := modeBad a ma || modeBad b mb, cls := isQ d }
  | .tbst a b ma mb => { mode := modeBad a ma || modeBad b mb }
  | .mma _ _ _ _ => {}
  | .mmas _ _ _ _ => {}
  | .mset _ _ idx => { sel := idx == 7 }
  | .mscale _ _ _ => {}
  | .acczero _ _ => {}
  | .accld _ _ _ => {}
  | .accst _ _ _ => {}
  | .mget d a b ma mb => { mode := modeBad a ma || modeBad b mb, cls := isQ d }
  | .accrd d a ma => { mode := modeBad a ma, cls := isQ d }
  | .accwr a b ma mb => { mode := modeBad a ma || modeBad b mb }
  | .mstat d a ma => { mode := modeBad a ma, cls := isQ d }
  | .xcopy _ _ _ => {}
  | .xset _ _ idx => { sel := decide (37 < idx.toNat) }
  | .xfill _ _ _ => {}
  | .xcancel _ _ => {}
  | .barInit a b ma mb => { mode := modeBad a ma || modeBad b mb }
  | .barArrive d a b ma mb => { mode := modeBad a ma || modeBad b mb, cls := isQ d }
  | .barExpect d a b ma mb => { mode := modeBad a ma || modeBad b mb, cls := isQ d }
  | .barArm a b ma mb => { mode := modeBad a ma || modeBad b mb }
  | .barInval a ma => { mode := modeBad a ma }
  | .tlRead d a b ma mb => { mode := modeBad a ma || modeBad b mb, cls := isQ d }
  | .tlArm a b ma mb => { mode := modeBad a ma || modeBad b mb }
  | .taskSub d a b ma mb => { mode := modeBad a ma || modeBad b mb, cls := isQ d }
  | .taskDone a b ma mb => { mode := modeBad a ma || modeBad b mb }
  | .taskDep d a b ma mb => { mode := modeBad a ma || modeBad b mb, cls := isQ d }
  | .taskInfo d a b ma mb => { mode := modeBad a ma || modeBad b mb, cls := isQ d }
  | .grpInfo d a b ma mb => { mode := modeBad a ma || modeBad b mb, cls := isQ d }
  | .collStart d a b ma mb => { mode := modeBad a ma || modeBad b mb, cls := isQ d }
  | .collStat d a ma => { mode := modeBad a ma, cls := isQ d }
  | .stoRead d a ma => { mode := modeBad a ma, cls := isQ d }
  | .stoWrite d a ma => { mode := modeBad a ma, cls := isQ d }
  | .stoSync d a ma => { mode := modeBad a ma, cls := isQ d }
  | .csrRd _ csr => { sel := !csrNamed csr }
  | .csrWr _ csr => { sel := !csrNamed csr }
  | .csrSet _ csr => { sel := !csrNamed csr }
  | .csrClr _ csr => { sel := !csrNamed csr }
  | .sysCall a ma => { mode := modeBad a ma }
  | .sysRet a b ma mb => { mode := modeBad a ma || modeBad b mb }
  | .repart a ma => { mode := modeBad a ma }
  | .brk a ma => { mode := modeBad a ma }
  | .mark a ma => { mode := modeBad a ma }
  | .xlatInv a b ma mb => { mode := modeBad a ma || modeBad b mb }
  | .fenceXlat => {}
  | .gangAck d a ma => { mode := modeBad a ma, cls := isQ d }
  | .mvblk d a b => { cls := isQ d || isQ a || isQ b || d == a || d == b || a == b }
  | .stblk d a b => { cls := isQ d || isQ a || isQ b || d == a || d == b || a == b }
  | .cmpblk d a b => { cls := isQ d || isQ a || isQ b || d == a || d == b || a == b }
  | .illinst => { major := true }
  | .postedArrive => { major := true }
  | .postedFail => { major := true }
  | .loadReply => { major := true }
  | .storeCheckReply => { major := true }
  | .storeAck => { major := true }
  | .homeRead => { major := true }
  | .homeWrite => { major := true }
  | .collectRecallReply => { major := true }
  | .redURequest => { major := true }
  | .uEviction => { major := true }
  | .invalidation => { major := true }
  | .invalidationAck => { major := true }
  | .fenceMarker => { major := true }
  | .fenceMarkerAnswer => { major := true }
  | .feRetry => { major := true }
  | .reservationExpiry => { major := true }
  | .waitovf => { major := true }
  | .wakeAtSlot => { major := true }
  | .wakeAtRecord => { major := true }
  | .parklimWriteOut => { major := true }
  | .poolPickup => { major := true }
  | .promoteAging => { major := true }
  | .migrantArrival => { major := true }
  | .migrantAccepted => { major := true }
  | .migrantRefused => { major := true }
  | .forwardedValue => { major := true }
  | .dividerDone => { major := true }
  | .normaliserDone => { major := true }
  | .iterativeUnitDone => { major := true }
  | .mailboxMessage => { major := true }
  | .sendReply => { major := true }
  | .sendgMemberReply => { major := true }
  | .stageRead => { major := true }
  | .stageOwn => { major := true }
  | .tileDrain => { major := true }
  | .tileDrop => { major := true }
  | .tileRecall => { major := true }
  | .tileFillComplete => { major := true }
  | .tileWritebackAck => { major := true }
  | .stageHoldExpiry => { major := true }
  | .deferExpiry => { major := true }
  | .tfwdTransfer => { major := true }
  | .kstep => { major := true }
  | .arrayCommandComplete => { major := true }
  | .mtabldLoadComplete => { major := true }
  | .copyCommandComplete => { major := true }
  | .barrierBytes => { major := true }
  | .taskNotifyArrival => { major := true }
  | .taskRead => { major := true }
  | .taskMatch => { major := true }
  | .taskPlace => { major := true }
  | .taskDecrement => { major := true }
  | .collAllJoined => { major := true }
  | .collChunkForward => { major := true }
  | .collChunkAck => { major := true }
  | .collMemberLost => { major := true }
  | .collRepairDone => { major := true }
  | .launchDoorbell => { major := true }
  | .retire => { major := true }
  | .textFetch => { major := true }
  | .translationMiss => { major := true }
  | .walkComplete => { major := true }
  | .retryWakeTimer => { major := true }
  | .storageFaultAccept => { major := true }
  | .pageFillComplete => { major := true }
  | .evictionWritebackDone => { major := true }
  | .remoteAccess => { major := true }
  | .migrationComplete => { major := true }
  | .releaseNotice => { major := true }
  | .xlatInvAtSlice => { major := true }
  | .stoTransferComplete => { major := true }
  | .peerAccess => { major := true }
  | .hostRead => { major := true }
  | .hostWrite => { major := true }
  | .backInvalidationResponse => { major := true }
  | .hostEventPost => { major := true }
  | .addCommand => { major := true }
  | .invalCommand => { major := true }
  | .replyCommand => { major := true }
  | .gangstepCommand => { major := true }
  | .linkcmdEnable => { major := true }
  | .linkcmdFence => { major := true }
  | .linkcmdDown => { major := true }
  | .linkTrainingDone => { major := true }
  | .linkTrainingTimeout => { major := true }
  | .laneRetire => { major := true }
  | .flitReplay => { major := true }
  | .flitUncorrectable => { major := true }
  | .laneMarginMeasure => { major := true }
  | .create => { major := true }
  | .place => { major := true }
  | .kill => { major := true }
  | .free => { major := true }
  | .commandIllegalCode => { major := true }
  | .switchAnnounce => { major := true }
  | .switchStamp => { major := true }
  | .saveComplete => { major := true }
  | .restoreComplete => { major := true }
  | .stopTimeout => { major := true }
  | .trapDelivery => { major := true }
  | .handlerStart => { major := true }
  | .handlerStartTimeout => { major := true }
  | .eventRingWrite => { major := true }
  | .stop => { major := true }
  | .resume => { major := true }
  | .step => { major := true }
  | .traceRecordWrite => { major := true }
  | .counterClear => { major := true }
  | .laneCounterClear => { major := true }
  | .registerWrite => { major := true }
  | .iftestRequest => { major := true }
  | .iftestDone => { major := true }
  | .iftestReminder => { major := true }
  | .rowCounterWindow => { major := true }
  | .hwFaultDetected => { major := true }
  | .powerLimitWrite => { major := true }
  | .coldReset => { major := true }
  | .boot => { major := true }
  | .launchChecksDone => { major := true }
  | .killComplete => { major := true }
  | .copyElement => { major := true }
  | .cycle => { major := true }
  | .hostCopyDrop => { major := true }
  | .attestationRequest => { major := true }

/-- One more than the highest vector register the instruction names, 0 if it names none (R35, R184). -/
def Instr.vecTop : Instr → Nat
  | .add _ _ _ _ _ => 0
  | .sub _ _ _ _ _ => 0
  | .and _ _ _ _ _ => 0
  | .or _ _ _ _ _ => 0
  | .xor _ _ _ _ _ => 0
  | .andn _ _ _ _ _ => 0
  | .shl _ _ _ _ _ => 0
  | .shr _ _ _ _ _ => 0
  | .sra _ _ _ _ _ => 0
  | .rot _ _ _ _ _ => 0
  | .slt _ _ _ _ _ => 0
  | .sltu _ _ _ _ _ => 0
  | .seq _ _ _ _ _ => 0
  | .min _ _ _ _ _ => 0
  | .max _ _ _ _ _ => 0
  | .minu _ _ _ _ _ => 0
  | .maxu _ _ _ _ _ => 0
  | .addw _ _ _ _ _ => 0
  | .subw _ _ _ _ _ => 0
  | .mul _ _ _ _ _ => 0
  | .mulh _ _ _ _ _ => 0
  | .mulhu _ _ _ _ _ => 0
  | .div _ _ _ _ _ => 0
  | .divu _ _ _ _ _ => 0
  | .rem _ _ _ _ _ => 0
  | .remu _ _ _ _ _ => 0
  | .clz _ _ _ => 0
  | .ctz _ _ _ => 0
  | .popc _ _ _ => 0
  | .bext _ _ _ _ _ => 0
  | .bins _ _ _ _ _ => 0
  | .sext _ _ _ _ _ => 0
  | .zext _ _ _ _ _ => 0
  | .bswap _ _ _ => 0
  | .nop => 0
  | .addi _ _ _ _ => 0
  | .andi _ _ _ _ => 0
  | .ori _ _ _ _ => 0
  | .xori _ _ _ _ => 0
  | .slti _ _ _ _ => 0
  | .sltiu _ _ _ _ => 0
  | .shli _ _ _ _ => 0
  | .shri _ _ _ _ => 0
  | .srai _ _ _ _ => 0
  | .roti _ _ _ _ => 0
  | .lui _ _ => 0
  | .auipc _ _ => 0
  | .jal _ _ => 0
  | .jalr _ _ _ _ => 0
  | .beq _ _ _ => 0
  | .bne _ _ _ => 0
  | .blt _ _ _ => 0
  | .bge _ _ _ => 0
  | .bltu _ _ _ => 0
  | .bgeu _ _ _ => 0
  | .beqz _ _ => 0
  | .bnez _ _ => 0
  | .kmovg _ _ _ => 0
  | .kmovk _ _ => 0
  | .kand _ _ _ => 0
  | .kor _ _ _ => 0
  | .kxor _ _ _ => 0
  | .knot _ _ => 0
  | .kpop _ _ => 0
  | .kfirst _ _ => 0
  | .ld _ _ _ _ _ _ => 0
  | .ldu _ _ _ _ _ _ => 0
  | .st _ _ _ _ _ _ => 0
  | .ldp _ _ _ _ _ => 0
  | .ldsync _ _ _ _ _ _ => 0
  | .stsync _ _ _ _ _ _ => 0
  | .feclr _ _ _ _ => 0
  | .feset _ _ _ _ => 0
  | .feprobe _ _ _ _ _ => 0
  | .ldmon _ _ _ _ _ _ => 0
  | .amoAdd _ _ _ _ _ => 0
  | .amoAnd _ _ _ _ _ => 0
  | .amoOr _ _ _ _ _ => 0
  | .amoXor _ _ _ _ _ => 0
  | .amoMin _ _ _ _ _ => 0
  | .amoMax _ _ _ _ _ => 0
  | .amoMinu _ _ _ _ _ => 0
  | .amoMaxu _ _ _ _ _ => 0
  | .amoSwap _ _ _ _ _ => 0
  | .amoFadd _ _ _ _ _ => 0
  | .amoFmin _ _ _ _ _ => 0
  | .amoFmax _ _ _ _ _ => 0
  | .casW _ _ _ _ _ => 0
  | .casD _ _ _ _ _ => 0
  | .redAdd _ _ _ => 0
  | .redAnd _ _ _ => 0
  | .redOr _ _ _ => 0
  | .redXor _ _ _ => 0
  | .redMin _ _ _ => 0
  | .redMax _ _ _ => 0
  | .redMinu _ _ _ => 0
  | .redMaxu _ _ _ => 0
  | .redFadd _ _ _ => 0
  | .redFmin _ _ _ => 0
  | .redFmax _ _ _ => 0
  | .fence _ _ _ => 0
  | .pref _ _ _ => 0
  | .cflush _ _ _ => 0
  | .cinval _ _ _ => 0
  | .vadd d a b _ _ => Nat.max (Nat.max (d.toNat + 1) (a.toNat + 1)) (b.toNat + 1)
  | .vsub d a b _ _ => Nat.max (Nat.max (d.toNat + 1) (a.toNat + 1)) (b.toNat + 1)
  | .vmul d a b _ _ => Nat.max (Nat.max (d.toNat + 1) (a.toNat + 1)) (b.toNat + 1)
  | .vmulh d a b _ _ => Nat.max (Nat.max (d.toNat + 1) (a.toNat + 1)) (b.toNat + 1)
  | .vmin d a b _ _ => Nat.max (Nat.max (d.toNat + 1) (a.toNat + 1)) (b.toNat + 1)
  | .vmax d a b _ _ => Nat.max (Nat.max (d.toNat + 1) (a.toNat + 1)) (b.toNat + 1)
  | .vminu d a b _ _ => Nat.max (Nat.max (d.toNat + 1) (a.toNat + 1)) (b.toNat + 1)
  | .vmaxu d a b _ _ => Nat.max (Nat.max (d.toNat + 1) (a.toNat + 1)) (b.toNat + 1)
  | .vabs d a _ _ => Nat.max (d.toNat + 1) (a.toNat + 1)
  | .vmac d a b _ _ => Nat.max (Nat.max (d.toNat + 1) (a.toNat + 1)) (b.toNat + 1)
  | .vfadd d a b _ _ => Nat.max (Nat.max (d.toNat + 1) (a.toNat + 1)) (b.toNat + 1)
  | .vfsub d a b _ _ => Nat.max (Nat.max (d.toNat + 1) (a.toNat + 1)) (b.toNat + 1)
  | .vfmul d a b _ _ => Nat.max (Nat.max (d.toNat + 1) (a.toNat + 1)) (b.toNat + 1)
  | .vfma d a b _ _ => Nat.max (Nat.max (d.toNat + 1) (a.toNat + 1)) (b.toNat + 1)
  | .vfmin d a b _ _ => Nat.max (Nat.max (d.toNat + 1) (a.toNat + 1)) (b.toNat + 1)
  | .vfmax d a b _ _ => Nat.max (Nat.max (d.toNat + 1) (a.toNat + 1)) (b.toNat + 1)
  | .vfabs d a _ _ => Nat.max (d.toNat + 1) (a.toNat + 1)
  | .vfneg d a _ _ => Nat.max (d.toNat + 1) (a.toNat + 1)
  | .vfrcp d a _ _ => Nat.max (d.toNat + 1) (a.toNat + 1)
  | .vfrsq d a _ _ => Nat.max (d.toNat + 1) (a.toNat + 1)
  | .vfdiv d a b _ _ => Nat.max (Nat.max (d.toNat + 1) (a.toNat + 1)) (b.toNat + 1)
  | .vfsqrt d a _ _ => Nat.max (d.toNat + 1) (a.toNat + 1)
  | .vand d a b _ _ => Nat.max (Nat.max (d.toNat + 1) (a.toNat + 1)) (b.toNat + 1)
  | .vor d a b _ _ => Nat.max (Nat.max (d.toNat + 1) (a.toNat + 1)) (b.toNat + 1)
  | .vxor d a b _ _ => Nat.max (Nat.max (d.toNat + 1) (a.toNat + 1)) (b.toNat + 1)
  | .vnot d a _ _ => Nat.max (d.toNat + 1) (a.toNat + 1)
  | .vshl d a b _ _ => Nat.max (Nat.max (d.toNat + 1) (a.toNat + 1)) (b.toNat + 1)
  | .vshr d a b _ _ => Nat.max (Nat.max (d.toNat + 1) (a.toNat + 1)) (b.toNat + 1)
  | .vsra d a b _ _ => Nat.max (Nat.max (d.toNat + 1) (a.toNat + 1)) (b.toNat + 1)
  | .vcmpEq _ a b _ _ => Nat.max (a.toNat + 1) (b.toNat + 1)
  | .vcmpLt _ a b _ _ => Nat.max (a.toNat + 1) (b.toNat + 1)
  | .vcmpLtu _ a b _ _ => Nat.max (a.toNat + 1) (b.toNat + 1)
  | .vfcmpEq _ a b _ _ => Nat.max (a.toNat + 1) (b.toNat + 1)
  | .vfcmpLt _ a b _ _ => Nat.max (a.toNat + 1) (b.toNat + 1)
  | .vfcmpLe _ a b _ _ => Nat.max (a.toNat + 1) (b.toNat + 1)
  | .vfcmpUn _ a b _ _ => Nat.max (a.toNat + 1) (b.toNat + 1)
  | .vsel d a b _ _ => Nat.max (Nat.max (d.toNat + 1) (a.toNat + 1)) (b.toNat + 1)
  | .vbcast d _ _ _ => d.toNat + 1
  | .vext _ a _ _ => a.toNat + 1
  | .vins d _ _ _ => d.toNat + 1
  | .vperm d a b _ _ => Nat.max (Nat.max (d.toNat + 1) (a.toNat + 1)) (b.toNat + 1)
  | .vrot d a _ _ _ => Nat.max (d.toNat + 1) (a.toNat + 1)
  | .vredadd _ a _ _ => a.toNat + 1
  | .vredmin _ a _ _ => a.toNat + 1
  | .vredmax _ a _ _ => a.toNat + 1
  | .vfredadd _ a _ _ => a.toNat + 1
  | .vcompress d a _ _ => Nat.max (d.toNat + 1) (a.toNat + 1)
  | .vexpand d a _ _ => Nat.max (d.toNat + 1) (a.toNat + 1)
  | .vcvt d a _ _ _ _ => Nat.max (d.toNat + 1) (a.toNat + 1)
  | .vdec d a _ _ _ => Nat.max (d.toNat + 1) (a.toNat + 1)
  | .venc d a _ _ _ => Nat.max (d.toNat + 1) (a.toNat + 1)
  | .vtabld _ _ => 0
  | .vscale d a b _ _ => Nat.max (Nat.max (d.toNat + 1) (a.toNat + 1)) (b.toNat + 1)
  | .vld d _ _ _ => d.toNat + 1
  | .vlds d _ _ _ _ => d.toNat + 1
  | .vldx d _ b _ _ => Nat.max (d.toNat + 1) (b.toNat + 1)
  | .vldb d _ _ _ => d.toNat + 1
  | .vst d _ _ _ => d.toNat + 1
  | .vsts d _ _ _ _ => d.toNat + 1
  | .vstx d _ b _ _ => Nat.max (d.toNat + 1) (b.toNat + 1)
  | .spawn _ _ _ _ _ => 0
  | .yield => 0
  | .quit => 0
  | .susp => 0
  | .tid _ => 0
  | .migr _ _ _ => 0
  | .send _ _ _ _ _ => 0
  | .sendg _ _ _ _ _ => 0
  | .recv => 0
  | .rpeek _ => 0
  | .qbind _ _ _ => 0
  | .qstat _ _ => 0
  | .qunbind _ => 0
  | .qclose _ => 0
  | .tdecl _ _ _ => 0
  | .tfree _ _ => 0
  | .tstage _ _ _ _ _ => 0
  | .tdrain _ _ => 0
  | .ttag _ _ _ => 0
  | .tsettag _ _ _ _ => 0
  | .tinv _ _ => 0
  | .mcast _ _ _ _ _ => 0
  | .tfwd _ _ _ _ _ => 0
  | .tbst _ _ _ _ => 0
  | .mma _ _ _ _ => 0
  | .mmas _ _ _ _ => 0
  | .mset _ _ _ => 0
  | .mscale _ _ _ => 0
  | .acczero _ _ => 0
  | .accld _ _ _ => 0
  | .accst _ _ _ => 0
  | .mget _ _ _ _ _ => 0
  | .accrd _ _ _ => 0
  | .accwr _ _ _ _ => 0
  | .mstat _ _ _ => 0
  | .xcopy _ _ _ => 0
  | .xset _ _ _ => 0
  | .xfill _ _ _ => 0
  | .xcancel _ _ => 0
  | .barInit _ _ _ _ => 0
  | .barArrive _ _ _ _ _ => 0
  | .barExpect _ _ _ _ _ => 0
  | .barArm _ _ _ _ => 0
  | .barInval _ _ => 0
  | .tlRead _ _ _ _ _ => 0
  | .tlArm _ _ _ _ => 0
  | .taskSub _ _ _ _ _ => 0
  | .taskDone _ _ _ _ => 0
  | .taskDep _ _ _ _ _ => 0
  | .taskInfo _ _ _ _ _ => 0
  | .grpInfo _ _ _ _ _ => 0
  | .collStart _ _ _ _ _ => 0
  | .collStat _ _ _ => 0
  | .stoRead _ _ _ => 0
  | .stoWrite _ _ _ => 0
  | .stoSync _ _ _ => 0
  | .csrRd _ _ => 0
  | .csrWr _ _ => 0
  | .csrSet _ _ => 0
  | .csrClr _ _ => 0
  | .sysCall _ _ => 0
  | .sysRet _ _ _ _ => 0
  | .repart _ _ => 0
  | .brk _ _ => 0
  | .mark _ _ => 0
  | .xlatInv _ _ _ _ => 0
  | .fenceXlat => 0
  | .gangAck _ _ _ => 0
  | .mvblk _ _ _ => 0
  | .stblk _ _ _ => 0
  | .cmpblk _ _ _ => 0
  | .illinst => 0
  | .postedArrive => 0
  | .postedFail => 0
  | .loadReply => 0
  | .storeCheckReply => 0
  | .storeAck => 0
  | .homeRead => 0
  | .homeWrite => 0
  | .collectRecallReply => 0
  | .redURequest => 0
  | .uEviction => 0
  | .invalidation => 0
  | .invalidationAck => 0
  | .fenceMarker => 0
  | .fenceMarkerAnswer => 0
  | .feRetry => 0
  | .reservationExpiry => 0
  | .waitovf => 0
  | .wakeAtSlot => 0
  | .wakeAtRecord => 0
  | .parklimWriteOut => 0
  | .poolPickup => 0
  | .promoteAging => 0
  | .migrantArrival => 0
  | .migrantAccepted => 0
  | .migrantRefused => 0
  | .forwardedValue => 0
  | .dividerDone => 0
  | .normaliserDone => 0
  | .iterativeUnitDone => 0
  | .mailboxMessage => 0
  | .sendReply => 0
  | .sendgMemberReply => 0
  | .stageRead => 0
  | .stageOwn => 0
  | .tileDrain => 0
  | .tileDrop => 0
  | .tileRecall => 0
  | .tileFillComplete => 0
  | .tileWritebackAck => 0
  | .stageHoldExpiry => 0
  | .deferExpiry => 0
  | .tfwdTransfer => 0
  | .kstep => 0
  | .arrayCommandComplete => 0
  | .mtabldLoadComplete => 0
  | .copyCommandComplete => 0
  | .barrierBytes => 0
  | .taskNotifyArrival => 0
  | .taskRead => 0
  | .taskMatch => 0
  | .taskPlace => 0
  | .taskDecrement => 0
  | .collAllJoined => 0
  | .collChunkForward => 0
  | .collChunkAck => 0
  | .collMemberLost => 0
  | .collRepairDone => 0
  | .launchDoorbell => 0
  | .retire => 0
  | .textFetch => 0
  | .translationMiss => 0
  | .walkComplete => 0
  | .retryWakeTimer => 0
  | .storageFaultAccept => 0
  | .pageFillComplete => 0
  | .evictionWritebackDone => 0
  | .remoteAccess => 0
  | .migrationComplete => 0
  | .releaseNotice => 0
  | .xlatInvAtSlice => 0
  | .stoTransferComplete => 0
  | .peerAccess => 0
  | .hostRead => 0
  | .hostWrite => 0
  | .backInvalidationResponse => 0
  | .hostEventPost => 0
  | .addCommand => 0
  | .invalCommand => 0
  | .replyCommand => 0
  | .gangstepCommand => 0
  | .linkcmdEnable => 0
  | .linkcmdFence => 0
  | .linkcmdDown => 0
  | .linkTrainingDone => 0
  | .linkTrainingTimeout => 0
  | .laneRetire => 0
  | .flitReplay => 0
  | .flitUncorrectable => 0
  | .laneMarginMeasure => 0
  | .create => 0
  | .place => 0
  | .kill => 0
  | .free => 0
  | .commandIllegalCode => 0
  | .switchAnnounce => 0
  | .switchStamp => 0
  | .saveComplete => 0
  | .restoreComplete => 0
  | .stopTimeout => 0
  | .trapDelivery => 0
  | .handlerStart => 0
  | .handlerStartTimeout => 0
  | .eventRingWrite => 0
  | .stop => 0
  | .resume => 0
  | .step => 0
  | .traceRecordWrite => 0
  | .counterClear => 0
  | .laneCounterClear => 0
  | .registerWrite => 0
  | .iftestRequest => 0
  | .iftestDone => 0
  | .iftestReminder => 0
  | .rowCounterWindow => 0
  | .hwFaultDetected => 0
  | .powerLimitWrite => 0
  | .coldReset => 0
  | .boot => 0
  | .launchChecksDone => 0
  | .killComplete => 0
  | .copyElement => 0
  | .cycle => 0
  | .hostCopyDrop => 0
  | .attestationRequest => 0

/-! ### Fields of a word (R29) -/

/-- The major opcode, bits [31:25]. -/
def opOf (w : BitVec 32) : BitVec 7 := w.extractLsb' 25 7
/-- Bits [24:20]: d, a of format B, c5 of format C. -/
def rd (w : BitVec 32) : BitVec 5 := w.extractLsb' 20 5
/-- Bits [19:15]: a, b of format B. -/
def ra (w : BitVec 32) : BitVec 5 := w.extractLsb' 15 5
/-- Bits [14:10]: b. -/
def rb (w : BitVec 32) : BitVec 5 := w.extractLsb' 10 5
/-- ma of format A. -/
def maA (w : BitVec 32) : BitVec 2 := w.extractLsb' 8 2
/-- mb of format A. -/
def mbA (w : BitVec 32) : BitVec 2 := w.extractLsb' 6 2
/-- fn of format A. -/
def fnA (w : BitVec 32) : BitVec 6 := w.extractLsb' 0 6
/-- ma of format I. -/
def maI (w : BitVec 32) : BitVec 2 := w.extractLsb' 13 2
/-- imm13 of format I. -/
def immI (w : BitVec 32) : BitVec 13 := w.extractLsb' 0 13
/-- imm20 of format U and off20 of format J. -/
def immU (w : BitVec 32) : BitVec 20 := w.extractLsb' 0 20
/-- cc of format B. -/
def ccB (w : BitVec 32) : BitVec 3 := w.extractLsb' 12 3
/-- off12 of format B. -/
def offB (w : BitVec 32) : BitVec 12 := w.extractLsb' 0 12
/-- sz of format M. -/
def szM (w : BitVec 32) : BitVec 2 := w.extractLsb' 13 2
/-- sc of format M. -/
def scM (w : BitVec 32) : BitVec 3 := w.extractLsb' 10 3
/-- mo of format M. -/
def moM (w : BitVec 32) : BitVec 2 := w.extractLsb' 8 2
/-- off8 of format M. -/
def offM (w : BitVec 32) : BitVec 8 := w.extractLsb' 0 8
/-- sc of format R. -/
def scR (w : BitVec 32) : BitVec 3 := w.extractLsb' 7 3
/-- mo of format R. -/
def moR (w : BitVec 32) : BitVec 2 := w.extractLsb' 5 2
/-- fn of formats R and V. -/
def fn5 (w : BitVec 32) : BitVec 5 := w.extractLsb' 0 5
/-- k of format V. -/
def kV (w : BitVec 32) : BitVec 2 := w.extractLsb' 8 2
/-- t of format V. -/
def tV (w : BitVec 32) : BitVec 3 := w.extractLsb' 5 3
/-- x10 of format C. -/
def xC (w : BitVec 32) : BitVec 10 := w.extractLsb' 0 10
/-- csr12 of format S. -/
def csrS (w : BitVec 32) : BitVec 12 := w.extractLsb' 3 12
/-- fn3 of format S. -/
def fnS (w : BitVec 32) : BitVec 3 := w.extractLsb' 0 3
/-- fk of format F. -/
def fkF (w : BitVec 32) : BitVec 4 := w.extractLsb' 21 4
/-- sc of format F. -/
def scF (w : BitVec 32) : BitVec 3 := w.extractLsb' 18 3
/-- e of format F. -/
def eF (w : BitVec 32) : BitVec 1 := w.extractLsb' 17 1
/-- zero of format F. -/
def zeroF (w : BitVec 32) : BitVec 17 := w.extractLsb' 0 17

/-- Bits [1:0] of a register field: the number of a mask, or of a queue name (R30, R237). -/
def lo2 (r : BitVec 5) : BitVec 2 := r.extractLsb' 0 2
/-- Bits [4:2] of a register field. -/
def hi3 (r : BitVec 5) : BitVec 3 := r.extractLsb' 2 3
/-- vcvt's destination type, b[2:0] (R194). -/
def cvtTypeOf (r : BitVec 5) : BitVec 3 := r.extractLsb' 0 3
/-- vcvt's part, b[4:3] (R194). -/
def cvtPartOf (r : BitVec 5) : BitVec 2 := r.extractLsb' 3 2
/-- A shift's amount, imm13[5:0] (R163). -/
def shAmt (i : BitVec 13) : BitVec 6 := i.extractLsb' 0 6
/-- A shift's kind, imm13[7:6] (R163). -/
def shKind (i : BitVec 13) : BitVec 2 := i.extractLsb' 6 2
/-- imm13[12:8] of a shift, which must be 0 (R163). -/
def shTop (i : BitVec 13) : BitVec 5 := i.extractLsb' 8 5
/-- e, x10[9:8] (11 text, 13 text). -/
def xCtx (x : BitVec 10) : BitVec 2 := x.extractLsb' 8 2
/-- x10[7:0]. -/
def xLow (x : BitVec 10) : BitVec 8 := x.extractLsb' 0 8
/-- x10[0]: Z of mma, REL of xcancel. -/
def xBit (x : BitVec 10) : BitVec 1 := x.extractLsb' 0 1
/-- x10[2:0]: mset's register. -/
def xIdx3 (x : BitVec 10) : BitVec 3 := x.extractLsb' 0 3
/-- x10[5:0]: xset's register. -/
def xIdx6 (x : BitVec 10) : BitVec 6 := x.extractLsb' 0 6
/-- x10[7:1]. -/
def xHi7 (x : BitVec 10) : BitVec 7 := x.extractLsb' 1 7
/-- x10[7:3]. -/
def xHi5 (x : BitVec 10) : BitVec 5 := x.extractLsb' 3 5
/-- x10[7:6]. -/
def xHi2 (x : BitVec 10) : BitVec 2 := x.extractLsb' 6 2

/-- What the fields of a word say: the instruction its selectors name, and what is wrong with the fields that the
constructor does not hold (R31). -/
structure Raw where
  ins : Instr
  extra : Faults
  deriving DecidableEq, Repr

/-! ### The opcode map (R43): one function a major opcode, on the selector -/

/-- Major 0x01, by fn. -/
def rawAlu (w : BitVec 32) : Option Raw :=
  match (fnA w).toNat with
  | 0 => some ⟨.add (rd w) (ra w) (rb w) (maA w) (mbA w), {}⟩
  | 1 => some ⟨.sub (rd w) (ra w) (rb w) (maA w) (mbA w), {}⟩
  | 2 => some ⟨.and (rd w) (ra w) (rb w) (maA w) (mbA w), {}⟩
  | 3 => some ⟨.or (rd w) (ra w) (rb w) (maA w) (mbA w), {}⟩
  | 4 => some ⟨.xor (rd w) (ra w) (rb w) (maA w) (mbA w), {}⟩
  | 5 => some ⟨.andn (rd w) (ra w) (rb w) (maA w) (mbA w), {}⟩
  | 6 => some ⟨.shl (rd w) (ra w) (rb w) (maA w) (mbA w), {}⟩
  | 7 => some ⟨.shr (rd w) (ra w) (rb w) (maA w) (mbA w), {}⟩
  | 8 => some ⟨.sra (rd w) (ra w) (rb w) (maA w) (mbA w), {}⟩
  | 9 => some ⟨.rot (rd w) (ra w) (rb w) (maA w) (mbA w), {}⟩
  | 10 => some ⟨.slt (rd w) (ra w) (rb w) (maA w) (mbA w), {}⟩
  | 11 => some ⟨.sltu (rd w) (ra w) (rb w) (maA w) (mbA w), {}⟩
  | 12 => some ⟨.seq (rd w) (ra w) (rb w) (maA w) (mbA w), {}⟩
  | 13 => some ⟨.min (rd w) (ra w) (rb w) (maA w) (mbA w), {}⟩
  | 14 => some ⟨.max (rd w) (ra w) (rb w) (maA w) (mbA w), {}⟩
  | 15 => some ⟨.minu (rd w) (ra w) (rb w) (maA w) (mbA w), {}⟩
  | 16 => some ⟨.maxu (rd w) (ra w) (rb w) (maA w) (mbA w), {}⟩
  | 17 => some ⟨.addw (rd w) (ra w) (rb w) (maA w) (mbA w), {}⟩
  | 18 => some ⟨.subw (rd w) (ra w) (rb w) (maA w) (mbA w), {}⟩
  | _ => none

/-- Major 0x02, by fn. -/
def rawMul (w : BitVec 32) : Option Raw :=
  match (fnA w).toNat with
  | 0 => some ⟨.mul (rd w) (ra w) (rb w) (maA w) (mbA w), {}⟩
  | 1 => some ⟨.mulh (rd w) (ra w) (rb w) (maA w) (mbA w), {}⟩
  | 2 => some ⟨.mulhu (rd w) (ra w) (rb w) (maA w) (mbA w), {}⟩
  | 3 => some ⟨.div (rd w) (ra w) (rb w) (maA w) (mbA w), {}⟩
  | 4 => some ⟨.divu (rd w) (ra w) (rb w) (maA w) (mbA w), {}⟩
  | 5 => some ⟨.rem (rd w) (ra w) (rb w) (maA w) (mbA w), {}⟩
  | 6 => some ⟨.remu (rd w) (ra w) (rb w) (maA w) (mbA w), {}⟩
  | _ => none

/-- Major 0x03, by fn. -/
def rawBit (w : BitVec 32) : Option Raw :=
  match (fnA w).toNat with
  | 0 => some ⟨.clz (rd w) (ra w) (maA w), { resv := rb w != 0 || mbA w != 0 }⟩
  | 1 => some ⟨.ctz (rd w) (ra w) (maA w), { resv := rb w != 0 || mbA w != 0 }⟩
  | 2 => some ⟨.popc (rd w) (ra w) (maA w), { resv := rb w != 0 || mbA w != 0 }⟩
  | 3 => some ⟨.bext (rd w) (ra w) (rb w) (maA w) (mbA w), {}⟩
  | 4 => some ⟨.bins (rd w) (ra w) (rb w) (maA w) (mbA w), {}⟩
  | 5 => some ⟨.sext (rd w) (ra w) (rb w) (maA w) (mbA w), {}⟩
  | 6 => some ⟨.zext (rd w) (ra w) (rb w) (maA w) (mbA w), {}⟩
  | 7 => some ⟨.bswap (rd w) (ra w) (maA w), { resv := rb w != 0 || mbA w != 0 }⟩
  | _ => none

/-- Major 0x08 (R162). The word of addi g0, g0, 0 is the canonical no-op (R47). -/
def rawAddi (w : BitVec 32) : Raw :=
  if rd w = 0 ∧ ra w = 0 ∧ maI w = 0 ∧ immI w = 0 then ⟨.nop, {}⟩
  else ⟨.addi (rd w) (ra w) (maI w) (immI w), {}⟩

/-- Major 0x0E, by imm13[7:6] (R163). -/
def rawShift (w : BitVec 32) : Option Raw :=
  match (shKind (immI w)).toNat with
  | 0 => some ⟨.shli (rd w) (ra w) (maI w) (shAmt (immI w)), { resv := shTop (immI w) != 0 }⟩
  | 1 => some ⟨.shri (rd w) (ra w) (maI w) (shAmt (immI w)), { resv := shTop (immI w) != 0 }⟩
  | 2 => some ⟨.srai (rd w) (ra w) (maI w) (shAmt (immI w)), { resv := shTop (immI w) != 0 }⟩
  | _ => some ⟨.roti (rd w) (ra w) (maI w) (shAmt (immI w)), { resv := shTop (immI w) != 0 }⟩

/-- Major 0x14, by cc. -/
def rawBranch (w : BitVec 32) : Option Raw :=
  match (ccB w).toNat with
  | 0 => some ⟨.beq (rd w) (ra w) (offB w), {}⟩
  | 1 => some ⟨.bne (rd w) (ra w) (offB w), {}⟩
  | 2 => some ⟨.blt (rd w) (ra w) (offB w), {}⟩
  | 3 => some ⟨.bge (rd w) (ra w) (offB w), {}⟩
  | 4 => some ⟨.bltu (rd w) (ra w) (offB w), {}⟩
  | 5 => some ⟨.bgeu (rd w) (ra w) (offB w), {}⟩
  | 6 => some ⟨.beqz (rd w) (offB w), { resv := ra w != 0 }⟩
  | _ => some ⟨.bnez (rd w) (offB w), { resv := ra w != 0 }⟩

/-- Major 0x15, by fn. -/
def rawMask (w : BitVec 32) : Option Raw :=
  match (fnA w).toNat with
  | 0 => some ⟨.kmovg (lo2 (rd w)) (ra w) (maA w), { resv := rb w != 0 || mbA w != 0, cls := hi3 (rd w) != 0 }⟩
  | 1 => some ⟨.kmovk (rd w) (lo2 (ra w)), { resv := rb w != 0 || maA w != 0 || mbA w != 0, cls := hi3 (ra w) != 0 }⟩
  | 2 => some ⟨.kand (lo2 (rd w)) (lo2 (ra w)) (lo2 (rb w)), { resv := maA w != 0 || mbA w != 0, cls := hi3 (rd w) != 0 || hi3 (ra w) != 0 || hi3 (rb w) != 0 }⟩
  | 3 => some ⟨.kor (lo2 (rd w)) (lo2 (ra w)) (lo2 (rb w)), { resv := maA w != 0 || mbA w != 0, cls := hi3 (rd w) != 0 || hi3 (ra w) != 0 || hi3 (rb w) != 0 }⟩
  | 4 => some ⟨.kxor (lo2 (rd w)) (lo2 (ra w)) (lo2 (rb w)), { resv := maA w != 0 || mbA w != 0, cls := hi3 (rd w) != 0 || hi3 (ra w) != 0 || hi3 (rb w) != 0 }⟩
  | 5 => some ⟨.knot (lo2 (rd w)) (lo2 (ra w)), { resv := rb w != 0 || maA w != 0 || mbA w != 0, cls := hi3 (rd w) != 0 || hi3 (ra w) != 0 }⟩
  | 6 => some ⟨.kpop (rd w) (lo2 (ra w)), { resv := rb w != 0 || maA w != 0 || mbA w != 0, cls := hi3 (ra w) != 0 }⟩
  | 7 => some ⟨.kfirst (rd w) (lo2 (ra w)), { resv := rb w != 0 || maA w != 0 || mbA w != 0, cls := hi3 (ra w) != 0 }⟩
  | _ => none

/-- Major 0x1E, by sz. -/
def rawFe (w : BitVec 32) : Option Raw :=
  match (szM w).toNat with
  | 0 => some ⟨.feclr (ra w) (scM w) (moM w) (offM w), { resv := rd w != 0 }⟩
  | 1 => some ⟨.feset (ra w) (scM w) (moM w) (offM w), { resv := rd w != 0 }⟩
  | 2 => some ⟨.feprobe (rd w) (ra w) (scM w) (moM w) (offM w), {}⟩
  | _ => none

/-- Major 0x20, by fn. -/
def rawAmo (w : BitVec 32) : Option Raw :=
  match (fn5 w).toNat with
  | 0 => some ⟨.amoAdd (rd w) (ra w) (rb w) (scR w) (moR w), {}⟩
  | 1 => some ⟨.amoAnd (rd w) (ra w) (rb w) (scR w) (moR w), {}⟩
  | 2 => some ⟨.amoOr (rd w) (ra w) (rb w) (scR w) (moR w), {}⟩
  | 3 => some ⟨.amoXor (rd w) (ra w) (rb w) (scR w) (moR w), {}⟩
  | 4 => some ⟨.amoMin (rd w) (ra w) (rb w) (scR w) (moR w), {}⟩
  | 5 => some ⟨.amoMax (rd w) (ra w) (rb w) (scR w) (moR w), {}⟩
  | 6 => some ⟨.amoMinu (rd w) (ra w) (rb w) (scR w) (moR w), {}⟩
  | 7 => some ⟨.amoMaxu (rd w) (ra w) (rb w) (scR w) (moR w), {}⟩
  | 8 => some ⟨.amoSwap (rd w) (ra w) (rb w) (scR w) (moR w), {}⟩
  | 9 => some ⟨.amoFadd (rd w) (ra w) (rb w) (scR w) (moR w), {}⟩
  | 10 => some ⟨.amoFmin (rd w) (ra w) (rb w) (scR w) (moR w), {}⟩
  | 11 => some ⟨.amoFmax (rd w) (ra w) (rb w) (scR w) (moR w), {}⟩
  | _ => none

/-- Major 0x21, by fn. -/
def rawCas (w : BitVec 32) : Option Raw :=
  match (fn5 w).toNat with
  | 0 => some ⟨.casW (rd w) (ra w) (rb w) (scR w) (moR w), {}⟩
  | 1 => some ⟨.casD (rd w) (ra w) (rb w) (scR w) (moR w), {}⟩
  | _ => none

/-- Major 0x22, by fn. -/
def rawRed (w : BitVec 32) : Option Raw :=
  match (fn5 w).toNat with
  | 0 => some ⟨.redAdd (ra w) (rb w) (scR w), { resv := rd w != 0, order := moR w != 0 }⟩
  | 1 => some ⟨.redAnd (ra w) (rb w) (scR w), { resv := rd w != 0, order := moR w != 0 }⟩
  | 2 => some ⟨.redOr (ra w) (rb w) (scR w), { resv := rd w != 0, order := moR w != 0 }⟩
  | 3 => some ⟨.redXor (ra w) (rb w) (scR w), { resv := rd w != 0, order := moR w != 0 }⟩
  | 4 => some ⟨.redMin (ra w) (rb w) (scR w), { resv := rd w != 0, order := moR w != 0 }⟩
  | 5 => some ⟨.redMax (ra w) (rb w) (scR w), { resv := rd w != 0, order := moR w != 0 }⟩
  | 6 => some ⟨.redMinu (ra w) (rb w) (scR w), { resv := rd w != 0, order := moR w != 0 }⟩
  | 7 => some ⟨.redMaxu (ra w) (rb w) (scR w), { resv := rd w != 0, order := moR w != 0 }⟩
  | 9 => some ⟨.redFadd (ra w) (rb w) (scR w), { resv := rd w != 0, order := moR w != 0 }⟩
  | 10 => some ⟨.redFmin (ra w) (rb w) (scR w), { resv := rd w != 0, order := moR w != 0 }⟩
  | 11 => some ⟨.redFmax (ra w) (rb w) (scR w), { resv := rd w != 0, order := moR w != 0 }⟩
  | _ => none

/-- Major 0x24, by sz. -/
def rawCache (w : BitVec 32) : Option Raw :=
  match (szM w).toNat with
  | 0 => some ⟨.pref (ra w) (scM w) (offM w), { resv := rd w != 0, order := moM w != 0 }⟩
  | 1 => some ⟨.cflush (ra w) (scM w) (offM w), { resv := rd w != 0, order := moM w != 0 }⟩
  | 2 => some ⟨.cinval (ra w) (scM w) (offM w), { resv := rd w != 0, order := moM w != 0 }⟩
  | _ => none

/-- Major 0x28, by fn. -/
def rawVInt (w : BitVec 32) : Option Raw :=
  match (fn5 w).toNat with
  | 0 => some ⟨.vadd (rd w) (ra w) (rb w) (kV w) (tV w), {}⟩
  | 1 => some ⟨.vsub (rd w) (ra w) (rb w) (kV w) (tV w), {}⟩
  | 2 => some ⟨.vmul (rd w) (ra w) (rb w) (kV w) (tV w), {}⟩
  | 3 => some ⟨.vmulh (rd w) (ra w) (rb w) (kV w) (tV w), {}⟩
  | 4 => some ⟨.vmin (rd w) (ra w) (rb w) (kV w) (tV w), {}⟩
  | 5 => some ⟨.vmax (rd w) (ra w) (rb w) (kV w) (tV w), {}⟩
  | 6 => some ⟨.vminu (rd w) (ra w) (rb w) (kV w) (tV w), {}⟩
  | 7 => some ⟨.vmaxu (rd w) (ra w) (rb w) (kV w) (tV w), {}⟩
  | 8 => some ⟨.vabs (rd w) (ra w) (kV w) (tV w), { resv := rb w != 0 }⟩
  | 9 => some ⟨.vmac (rd w) (ra w) (rb w) (kV w) (tV w), {}⟩
  | _ => none

/-- Major 0x29, by fn. -/
def rawVFloat (w : BitVec 32) : Option Raw :=
  match (fn5 w).toNat with
  | 0 => some ⟨.vfadd (rd w) (ra w) (rb w) (kV w) (tV w), {}⟩
  | 1 => some ⟨.vfsub (rd w) (ra w) (rb w) (kV w) (tV w), {}⟩
  | 2 => some ⟨.vfmul (rd w) (ra w) (rb w) (kV w) (tV w), {}⟩
  | 3 => some ⟨.vfma (rd w) (ra w) (rb w) (kV w) (tV w), {}⟩
  | 4 => some ⟨.vfmin (rd w) (ra w) (rb w) (kV w) (tV w), {}⟩
  | 5 => some ⟨.vfmax (rd w) (ra w) (rb w) (kV w) (tV w), {}⟩
  | 6 => some ⟨.vfabs (rd w) (ra w) (kV w) (tV w), { resv := rb w != 0 }⟩
  | 7 => some ⟨.vfneg (rd w) (ra w) (kV w) (tV w), { resv := rb w != 0 }⟩
  | 8 => some ⟨.vfrcp (rd w) (ra w) (kV w) (tV w), { resv := rb w != 0 }⟩
  | 9 => some ⟨.vfrsq (rd w) (ra w) (kV w) (tV w), { resv := rb w != 0 }⟩
  | 10 => some ⟨.vfdiv (rd w) (ra w) (rb w) (kV w) (tV w), {}⟩
  | 11 => some ⟨.vfsqrt (rd w) (ra w) (kV w) (tV w), { resv := rb w != 0 }⟩
  | _ => none

/-- Major 0x2A, by fn. -/
def rawVLogic (w : BitVec 32) : Option Raw :=
  match (fn5 w).toNat with
  | 0 => some ⟨.vand (rd w) (ra w) (rb w) (kV w) (tV w), {}⟩
  | 1 => some ⟨.vor (rd w) (ra w) (rb w) (kV w) (tV w), {}⟩
  | 2 => some ⟨.vxor (rd w) (ra w) (rb w) (kV w) (tV w), {}⟩
  | 3 => some ⟨.vnot (rd w) (ra w) (kV w) (tV w), { resv := rb w != 0 }⟩
  | 4 => some ⟨.vshl (rd w) (ra w) (rb w) (kV w) (tV w), {}⟩
  | 5 => some ⟨.vshr (rd w) (ra w) (rb w) (kV w) (tV w), {}⟩
  | 6 => some ⟨.vsra (rd w) (ra w) (rb w) (kV w) (tV w), {}⟩
  | _ => none

/-- Major 0x2B, by fn. -/
def rawVCmp (w : BitVec 32) : Option Raw :=
  match (fn5 w).toNat with
  | 0 => some ⟨.vcmpEq (lo2 (rd w)) (ra w) (rb w) (kV w) (tV w), { cls := hi3 (rd w) != 0 }⟩
  | 1 => some ⟨.vcmpLt (lo2 (rd w)) (ra w) (rb w) (kV w) (tV w), { cls := hi3 (rd w) != 0 }⟩
  | 2 => some ⟨.vcmpLtu (lo2 (rd w)) (ra w) (rb w) (kV w) (tV w), { cls := hi3 (rd w) != 0 }⟩
  | 3 => some ⟨.vfcmpEq (lo2 (rd w)) (ra w) (rb w) (kV w) (tV w), { cls := hi3 (rd w) != 0 }⟩
  | 4 => some ⟨.vfcmpLt (lo2 (rd w)) (ra w) (rb w) (kV w) (tV w), { cls := hi3 (rd w) != 0 }⟩
  | 5 => some ⟨.vfcmpLe (lo2 (rd w)) (ra w) (rb w) (kV w) (tV w), { cls := hi3 (rd w) != 0 }⟩
  | 6 => some ⟨.vfcmpUn (lo2 (rd w)) (ra w) (rb w) (kV w) (tV w), { cls := hi3 (rd w) != 0 }⟩
  | 7 => some ⟨.vsel (rd w) (ra w) (rb w) (kV w) (tV w), {}⟩
  | _ => none

/-- Major 0x2C, by fn. -/
def rawVMove (w : BitVec 32) : Option Raw :=
  match (fn5 w).toNat with
  | 0 => some ⟨.vbcast (rd w) (ra w) (kV w) (tV w), { resv := rb w != 0 }⟩
  | 1 => some ⟨.vext (rd w) (ra w) (rb w) (tV w), { resv := kV w != 0 }⟩
  | 2 => some ⟨.vins (rd w) (ra w) (rb w) (tV w), { resv := kV w != 0 }⟩
  | 3 => some ⟨.vperm (rd w) (ra w) (rb w) (kV w) (tV w), {}⟩
  | 4 => some ⟨.vrot (rd w) (ra w) (rb w) (kV w) (tV w), {}⟩
  | 5 => some ⟨.vredadd (rd w) (ra w) (kV w) (tV w), { resv := rb w != 0 }⟩
  | 6 => some ⟨.vredmin (rd w) (ra w) (kV w) (tV w), { resv := rb w != 0 }⟩
  | 7 => some ⟨.vredmax (rd w) (ra w) (kV w) (tV w), { resv := rb w != 0 }⟩
  | 8 => some ⟨.vfredadd (rd w) (ra w) (kV w) (tV w), { resv := rb w != 0 }⟩
  | 9 => some ⟨.vcompress (rd w) (ra w) (kV w) (tV w), { resv := rb w != 0 }⟩
  | 10 => some ⟨.vexpand (rd w) (ra w) (kV w) (tV w), { resv := rb w != 0 }⟩
  | _ => none

/-- Major 0x2D, by fn. -/
def rawVConv (w : BitVec 32) : Option Raw :=
  match (fn5 w).toNat with
  | 0 => some ⟨.vcvt (rd w) (ra w) (cvtPartOf (rb w)) (cvtTypeOf (rb w)) (kV w) (tV w), {}⟩
  | 1 => some ⟨.vdec (rd w) (ra w) (rb w) (kV w) (tV w), {}⟩
  | 2 => some ⟨.venc (rd w) (ra w) (rb w) (kV w) (tV w), {}⟩
  | 3 => some ⟨.vtabld (ra w) (lo2 (rb w)), { resv := hi3 (rb w) != 0 || rd w != 0 || kV w != 0 || tV w != 0 }⟩
  | 4 => some ⟨.vscale (rd w) (ra w) (rb w) (kV w) (tV w), {}⟩
  | _ => none

/-- Major 0x2E, by fn. -/
def rawVLoad (w : BitVec 32) : Option Raw :=
  match (fn5 w).toNat with
  | 0 => some ⟨.vld (rd w) (ra w) (kV w) (tV w), { resv := rb w != 0 }⟩
  | 1 => some ⟨.vlds (rd w) (ra w) (rb w) (kV w) (tV w), {}⟩
  | 2 => some ⟨.vldx (rd w) (ra w) (rb w) (kV w) (tV w), {}⟩
  | 3 => some ⟨.vldb (rd w) (ra w) (kV w) (tV w), { resv := rb w != 0 }⟩
  | _ => none

/-- Major 0x2F, by fn. -/
def rawVStore (w : BitVec 32) : Option Raw :=
  match (fn5 w).toNat with
  | 0 => some ⟨.vst (rd w) (ra w) (kV w) (tV w), { resv := rb w != 0 }⟩
  | 1 => some ⟨.vsts (rd w) (ra w) (rb w) (kV w) (tV w), {}⟩
  | 2 => some ⟨.vstx (rd w) (ra w) (rb w) (kV w) (tV w), {}⟩
  | _ => none

/-- Major 0x30, by fn. -/
def rawThread (w : BitVec 32) : Option Raw :=
  match (fnA w).toNat with
  | 0 => some ⟨.spawn (rd w) (ra w) (rb w) (maA w) (mbA w), {}⟩
  | 1 => some ⟨.yield, { resv := rd w != 0 || ra w != 0 || rb w != 0 || maA w != 0 || mbA w != 0 }⟩
  | 2 => some ⟨.quit, { resv := rd w != 0 || ra w != 0 || rb w != 0 || maA w != 0 || mbA w != 0 }⟩
  | 3 => some ⟨.susp, { resv := rd w != 0 || ra w != 0 || rb w != 0 || maA w != 0 || mbA w != 0 }⟩
  | 4 => some ⟨.tid (rd w), { resv := ra w != 0 || rb w != 0 || maA w != 0 || mbA w != 0 }⟩
  | 5 => some ⟨.migr (rd w) (ra w) (maA w), { resv := rb w != 0 || mbA w != 0 }⟩
  | _ => none

/-- Major 0x31, by fn. -/
def rawMsg (w : BitVec 32) : Option Raw :=
  match (fnA w).toNat with
  | 0 => some ⟨.send (rd w) (ra w) (rb w) (maA w) (mbA w), {}⟩
  | 1 => some ⟨.sendg (rd w) (ra w) (rb w) (maA w) (mbA w), {}⟩
  | 2 => some ⟨.recv, { resv := rd w != 0 || ra w != 0 || rb w != 0 || maA w != 0 || mbA w != 0 }⟩
  | 3 => some ⟨.rpeek (rd w), { resv := ra w != 0 || rb w != 0 || maA w != 0 || mbA w != 0 }⟩
  | _ => none

/-- Major 0x32, by fn. -/
def rawQueue (w : BitVec 32) : Option Raw :=
  match (fnA w).toNat with
  | 0 => some ⟨.qbind (lo2 (rd w)) (ra w) (maA w), { resv := rb w != 0 || mbA w != 0, cls := hi3 (rd w) != 7 }⟩
  | 1 => some ⟨.qstat (rd w) (lo2 (ra w)), { resv := rb w != 0 || maA w != 0 || mbA w != 0, cls := hi3 (ra w) != 7 }⟩
  | 2 => some ⟨.qunbind (lo2 (ra w)), { resv := rd w != 0 || rb w != 0 || maA w != 0 || mbA w != 0, cls := hi3 (ra w) != 7 }⟩
  | 3 => some ⟨.qclose (lo2 (ra w)), { resv := rd w != 0 || rb w != 0 || maA w != 0 || mbA w != 0, cls := hi3 (ra w) != 7 }⟩
  | _ => none

/-- Major 0x34, by fn. -/
def rawTile (w : BitVec 32) : Option Raw :=
  match (fnA w).toNat with
  | 0 => some ⟨.tdecl (rd w) (ra w) (maA w), { resv := rb w != 0 || mbA w != 0 }⟩
  | 1 => some ⟨.tfree (ra w) (maA w), { resv := rd w != 0 || rb w != 0 || mbA w != 0 }⟩
  | 2 => some ⟨.tstage (rd w) (ra w) (rb w) (maA w) (mbA w), {}⟩
  | 3 => some ⟨.tdrain (ra w) (maA w), { resv := rd w != 0 || rb w != 0 || mbA w != 0 }⟩
  | 4 => some ⟨.ttag (rd w) (ra w) (maA w), { resv := rb w != 0 || mbA w != 0 }⟩
  | 5 => some ⟨.tsettag (ra w) (rb w) (maA w) (mbA w), { resv := rd w != 0 }⟩
  | 6 => some ⟨.tinv (ra w) (maA w), { resv := rd w != 0 || rb w != 0 || mbA w != 0 }⟩
  | 7 => some ⟨.mcast (rd w) (ra w) (rb w) (maA w) (mbA w), {}⟩
  | 8 => some ⟨.tfwd (rd w) (ra w) (rb w) (maA w) (mbA w), {}⟩
  | 9 => some ⟨.tbst (ra w) (rb w) (maA w) (mbA w), { resv := rd w != 0 }⟩
  | _ => none

/-- Major 0x38, by c5. -/
def rawArray (w : BitVec 32) : Option Raw :=
  match (rd w).toNat with
  | 0 => some ⟨.mma (ra w) (rb w) (xCtx (xC w)) (xBit (xC w)), { resv := xHi7 (xC w) != 0 }⟩
  | 1 => some ⟨.mmas (ra w) (rb w) (xCtx (xC w)) (xBit (xC w)), { resv := xHi7 (xC w) != 0 }⟩
  | 2 => some ⟨.mset (ra w) (xCtx (xC w)) (xIdx3 (xC w)), { resv := xHi5 (xC w) != 0 || rb w != 0 }⟩
  | 3 => some ⟨.mscale (ra w) (rb w) (xCtx (xC w)), { resv := xLow (xC w) != 0 }⟩
  | 4 => some ⟨.acczero (rb w) (xCtx (xC w)), { resv := xLow (xC w) != 0 || ra w != 0 }⟩
  | 5 => some ⟨.accld (ra w) (rb w) (xCtx (xC w)), { resv := xLow (xC w) != 0 }⟩
  | 6 => some ⟨.accst (ra w) (rb w) (xCtx (xC w)), { resv := xLow (xC w) != 0 }⟩
  | _ => none

/-- Major 0x39, by fn. -/
def rawAcc (w : BitVec 32) : Option Raw :=
  match (fnA w).toNat with
  | 0 => some ⟨.mget (rd w) (ra w) (rb w) (maA w) (mbA w), {}⟩
  | 1 => some ⟨.accrd (rd w) (ra w) (maA w), { resv := rb w != 0 || mbA w != 0 }⟩
  | 2 => some ⟨.accwr (ra w) (rb w) (maA w) (mbA w), { resv := rd w != 0 }⟩
  | 3 => some ⟨.mstat (rd w) (ra w) (maA w), { resv := rb w != 0 || mbA w != 0 }⟩
  | _ => none

/-- Major 0x3A, by c5. -/
def rawCopy (w : BitVec 32) : Option Raw :=
  match (rd w).toNat with
  | 0 => some ⟨.xcopy (ra w) (rb w) (xCtx (xC w)), { resv := xLow (xC w) != 0 }⟩
  | 1 => some ⟨.xset (ra w) (xCtx (xC w)) (xIdx6 (xC w)), { resv := xHi2 (xC w) != 0 || rb w != 0 }⟩
  | 2 => some ⟨.xfill (ra w) (rb w) (xCtx (xC w)), { resv := xLow (xC w) != 0 }⟩
  | 3 => some ⟨.xcancel (xCtx (xC w)) (xBit (xC w)), { resv := xHi7 (xC w) != 0 || ra w != 0 || rb w != 0 }⟩
  | _ => none

/-- Major 0x3B, by fn. -/
def rawBar (w : BitVec 32) : Option Raw :=
  match (fnA w).toNat with
  | 0 => some ⟨.barInit (ra w) (rb w) (maA w) (mbA w), { resv := rd w != 0 }⟩
  | 1 => some ⟨.barArrive (rd w) (ra w) (rb w) (maA w) (mbA w), {}⟩
  | 2 => some ⟨.barExpect (rd w) (ra w) (rb w) (maA w) (mbA w), {}⟩
  | 3 => some ⟨.barArm (ra w) (rb w) (maA w) (mbA w), { resv := rd w != 0 }⟩
  | 4 => some ⟨.barInval (ra w) (maA w), { resv := rd w != 0 || rb w != 0 || mbA w != 0 }⟩
  | _ => none

/-- Major 0x3C, by fn. -/
def rawLine (w : BitVec 32) : Option Raw :=
  match (fnA w).toNat with
  | 0 => some ⟨.tlRead (rd w) (ra w) (rb w) (maA w) (mbA w), {}⟩
  | 1 => some ⟨.tlArm (ra w) (rb w) (maA w) (mbA w), { resv := rd w != 0 }⟩
  | _ => none

/-- Major 0x3D, by fn. -/
def rawTask (w : BitVec 32) : Option Raw :=
  match (fnA w).toNat with
  | 0 => some ⟨.taskSub (rd w) (ra w) (rb w) (maA w) (mbA w), {}⟩
  | 1 => some ⟨.taskDone (ra w) (rb w) (maA w) (mbA w), { resv := rd w != 0 }⟩
  | 2 => some ⟨.taskDep (rd w) (ra w) (rb w) (maA w) (mbA w), {}⟩
  | 3 => some ⟨.taskInfo (rd w) (ra w) (rb w) (maA w) (mbA w), {}⟩
  | _ => none

/-- Major 0x3E, by fn. -/
def rawGroup (w : BitVec 32) : Option Raw :=
  match (fnA w).toNat with
  | 0 => some ⟨.grpInfo (rd w) (ra w) (rb w) (maA w) (mbA w), {}⟩
  | 1 => some ⟨.collStart (rd w) (ra w) (rb w) (maA w) (mbA w), {}⟩
  | 2 => some ⟨.collStat (rd w) (ra w) (maA w), { resv := rb w != 0 || mbA w != 0 }⟩
  | _ => none

/-- Major 0x3F, by fn. -/
def rawSto (w : BitVec 32) : Option Raw :=
  match (fnA w).toNat with
  | 0 => some ⟨.stoRead (rd w) (ra w) (maA w), { resv := rb w != 0 || mbA w != 0 }⟩
  | 1 => some ⟨.stoWrite (rd w) (ra w) (maA w), { resv := rb w != 0 || mbA w != 0 }⟩
  | 2 => some ⟨.stoSync (rd w) (ra w) (maA w), { resv := rb w != 0 || mbA w != 0 }⟩
  | _ => none

/-- Major 0x70, by fn. -/
def rawCsr (w : BitVec 32) : Option Raw :=
  match (fnS w).toNat with
  | 0 => some ⟨.csrRd (rd w) (csrS w), { resv := ra w != 0 }⟩
  | 1 => some ⟨.csrWr (ra w) (csrS w), { resv := rd w != 0 }⟩
  | 2 => some ⟨.csrSet (ra w) (csrS w), { resv := rd w != 0 }⟩
  | 3 => some ⟨.csrClr (ra w) (csrS w), { resv := rd w != 0 }⟩
  | _ => none

/-- Major 0x71, by fn. -/
def rawSys (w : BitVec 32) : Option Raw :=
  match (fnA w).toNat with
  | 0 => some ⟨.sysCall (ra w) (maA w), { resv := rd w != 0 || rb w != 0 || mbA w != 0 }⟩
  | 1 => some ⟨.sysRet (ra w) (rb w) (maA w) (mbA w), { resv := rd w != 0 }⟩
  | 2 => some ⟨.repart (ra w) (maA w), { resv := rd w != 0 || rb w != 0 || mbA w != 0 }⟩
  | 3 => some ⟨.brk (ra w) (maA w), { resv := rd w != 0 || rb w != 0 || mbA w != 0 }⟩
  | 4 => some ⟨.mark (ra w) (maA w), { resv := rd w != 0 || rb w != 0 || mbA w != 0 }⟩
  | 5 => some ⟨.xlatInv (ra w) (rb w) (maA w) (mbA w), { resv := rd w != 0 }⟩
  | 6 => some ⟨.fenceXlat, { resv := rd w != 0 || ra w != 0 || rb w != 0 || maA w != 0 || mbA w != 0 }⟩
  | 7 => some ⟨.gangAck (rd w) (ra w) (maA w), { resv := rb w != 0 || mbA w != 0 }⟩
  | _ => none

/-- Major 0x78, by fn. -/
def rawBlock (w : BitVec 32) : Option Raw :=
  match (fnA w).toNat with
  | 0 => some ⟨.mvblk (rd w) (ra w) (rb w), { resv := maA w != 0 || mbA w != 0 }⟩
  | 1 => some ⟨.stblk (rd w) (ra w) (rb w), { resv := maA w != 0 || mbA w != 0 }⟩
  | 2 => some ⟨.cmpblk (rd w) (ra w) (rb w), { resv := maA w != 0 || mbA w != 0 }⟩
  | _ => none

/-- The word's instruction by its major opcode and selector, all reserved fields aside (R43). -/
def rawDecode (w : BitVec 32) : Except Illegal Raw :=
  let sel : Option Raw → Except Illegal Raw := fun o => match o with | some r => .ok r | none => .error .selector
  match (opOf w).toNat with
  | 0x01 => sel (rawAlu w)
  | 0x02 => sel (rawMul w)
  | 0x03 => sel (rawBit w)
  | 0x08 => .ok ((rawAddi w))
  | 0x09 => .ok (⟨.andi (rd w) (ra w) (maI w) (immI w), {}⟩)
  | 0x0A => .ok (⟨.ori (rd w) (ra w) (maI w) (immI w), {}⟩)
  | 0x0B => .ok (⟨.xori (rd w) (ra w) (maI w) (immI w), {}⟩)
  | 0x0C => .ok (⟨.slti (rd w) (ra w) (maI w) (immI w), {}⟩)
  | 0x0D => .ok (⟨.sltiu (rd w) (ra w) (maI w) (immI w), {}⟩)
  | 0x0E => sel (rawShift w)
  | 0x10 => .ok (⟨.lui (rd w) (immU w), {}⟩)
  | 0x11 => .ok (⟨.auipc (rd w) (immU w), {}⟩)
  | 0x12 => .ok (⟨.jal (rd w) (immU w), {}⟩)
  | 0x13 => .ok (⟨.jalr (rd w) (ra w) (maI w) (immI w), {}⟩)
  | 0x14 => sel (rawBranch w)
  | 0x15 => sel (rawMask w)
  | 0x18 => .ok (⟨.ld (rd w) (ra w) (szM w) (scM w) (moM w) (offM w), {}⟩)
  | 0x19 => .ok (⟨.ldu (rd w) (ra w) (szM w) (scM w) (moM w) (offM w), {}⟩)
  | 0x1A => .ok (⟨.st (rd w) (ra w) (szM w) (scM w) (moM w) (offM w), {}⟩)
  | 0x1B => .ok (⟨.ldp (rd w) (ra w) (szM w) (scM w) (offM w), { order := moM w != 0 }⟩)
  | 0x1C => .ok (⟨.ldsync (rd w) (ra w) (szM w) (scM w) (moM w) (offM w), {}⟩)
  | 0x1D => .ok (⟨.stsync (rd w) (ra w) (szM w) (scM w) (moM w) (offM w), {}⟩)
  | 0x1E => sel (rawFe w)
  | 0x1F => .ok (⟨.ldmon (rd w) (ra w) (szM w) (scM w) (moM w) (offM w), {}⟩)
  | 0x20 => sel (rawAmo w)
  | 0x21 => sel (rawCas w)
  | 0x22 => sel (rawRed w)
  | 0x23 => .ok (⟨.fence (fkF w) (scF w) (eF w), { resv := zeroF w != 0 }⟩)
  | 0x24 => sel (rawCache w)
  | 0x28 => sel (rawVInt w)
  | 0x29 => sel (rawVFloat w)
  | 0x2A => sel (rawVLogic w)
  | 0x2B => sel (rawVCmp w)
  | 0x2C => sel (rawVMove w)
  | 0x2D => sel (rawVConv w)
  | 0x2E => sel (rawVLoad w)
  | 0x2F => sel (rawVStore w)
  | 0x30 => sel (rawThread w)
  | 0x31 => sel (rawMsg w)
  | 0x32 => sel (rawQueue w)
  | 0x34 => sel (rawTile w)
  | 0x38 => sel (rawArray w)
  | 0x39 => sel (rawAcc w)
  | 0x3A => sel (rawCopy w)
  | 0x3B => sel (rawBar w)
  | 0x3C => sel (rawLine w)
  | 0x3D => sel (rawTask w)
  | 0x3E => sel (rawGroup w)
  | 0x3F => sel (rawSto w)
  | 0x70 => sel (rawCsr w)
  | 0x71 => sel (rawSys w)
  | 0x78 => sel (rawBlock w)
  | _ => .error .major

/-- The reasons of two views of one word, together. -/
def Faults.or (f g : Faults) : Faults :=
  ⟨f.major || g.major, f.sel || g.sel, f.resv || g.resv, f.mode || g.mode, f.order || g.order, f.vec || g.vec,
    f.cls || g.cls, f.fence || g.fence⟩

/-- Every static reason a word has not to be an instruction (R45), and whether it names a vector register at or
above nvec (R35). -/
def wordFaults (w : BitVec 32) (nvec : Nat) : Faults :=
  match rawDecode w with
  | .error .major => { major := true }
  | .error _ => { sel := true }
  | .ok r => { (r.ins.faults.or r.extra) with vec := decide (nvec < r.ins.vecTop) }

/-- The ILLINST info of a word on a core that shows nvec vector registers (R46): the lowest reason that applies.
The value is meant for words that have a reason; for any other word it is 0. -/
def illegalInfo (w : BitVec 32) (nvec : Nat) : Nat :=
  match (wordFaults w nvec).first with
  | some r => r.info
  | none => 0

/-- The instruction a word is, or the lowest reason why it is none (R43, R45). The test of R35 waits for issue. -/
def decode (w : BitVec 32) : Except Illegal Instr :=
  match rawDecode w with
  | .error r => .error r
  | .ok r =>
    match (r.ins.faults.or r.extra).first with
    | some e => .error e
    | none => .ok r.ins

/-- The word that four bytes hold, little-endian (R27). -/
def wordOfBytes (b0 b1 b2 b3 : Byte) : BitVec 32 := b3 ++ b2 ++ b1 ++ b0

/-- Why a list of bytes holds no instruction. -/
inductive DecodeError where
  /-- Fewer than four bytes are left. -/
  | short
  /-- The first four bytes are no instruction, for the reason given (R46). -/
  | illegal (r : Illegal)
  deriving DecidableEq, Repr

/-- Reads one instruction from the front of a list of bytes and gives the rest of the list. -/
def decodeBytes : List Byte → Except DecodeError (Instr × List Byte)
  | b0 :: b1 :: b2 :: b3 :: rest =>
    match decode (wordOfBytes b0 b1 b2 b3) with
    | .ok i => .ok (i, rest)
    | .error r => .error (.illegal r)
  | _ => .error .short

/-- The instruction the decoder reads from a word numbered as the opcode table numbers it: one 32-bit word, laid out
in memory order (R27). -/
def decodeTableWord (nbits w : Nat) : Option Instr :=
  let v := BitVec.ofNat 32 (w % 2 ^ nbits)
  match decodeBytes [v.extractLsb' 0 8, v.extractLsb' 8 8, v.extractLsb' 16 8, v.extractLsb' 24 8] with
  | .ok (i, _) => some i
  | .error _ => none

/-! ### The encoder: the formats of R29 -/

/-- Format A (R29). -/
def fmtA (op : BitVec 7) (d a b : BitVec 5) (ma mb : BitVec 2) (fn : BitVec 6) : BitVec 32 :=
  op ++ d ++ a ++ b ++ ma ++ mb ++ fn

/-- Format I (R29). -/
def fmtI (op : BitVec 7) (d a : BitVec 5) (ma : BitVec 2) (imm : BitVec 13) : BitVec 32 :=
  op ++ d ++ a ++ ma ++ imm

/-- Format U and format J (R29). -/
def fmtU (op : BitVec 7) (d : BitVec 5) (imm : BitVec 20) : BitVec 32 :=
  op ++ d ++ imm

/-- Format B (R29). -/
def fmtB (op : BitVec 7) (a b : BitVec 5) (cc : BitVec 3) (off : BitVec 12) : BitVec 32 :=
  op ++ a ++ b ++ cc ++ off

/-- Format M (R29). -/
def fmtM (op : BitVec 7) (d a : BitVec 5) (sz : BitVec 2) (sc : BitVec 3) (mo : BitVec 2) (off : BitVec 8) : BitVec 32 :=
  op ++ d ++ a ++ sz ++ sc ++ mo ++ off

/-- Format R (R29). -/
def fmtR (op : BitVec 7) (d a b : BitVec 5) (sc : BitVec 3) (mo : BitVec 2) (fn : BitVec 5) : BitVec 32 :=
  op ++ d ++ a ++ b ++ sc ++ mo ++ fn

/-- Format V (R29). -/
def fmtV (op : BitVec 7) (d a b : BitVec 5) (k : BitVec 2) (t : BitVec 3) (fn : BitVec 5) : BitVec 32 :=
  op ++ d ++ a ++ b ++ k ++ t ++ fn

/-- Format C (R29). -/
def fmtC (op : BitVec 7) (c a b : BitVec 5) (x : BitVec 10) : BitVec 32 :=
  op ++ c ++ a ++ b ++ x

/-- Format S (R29). -/
def fmtS (op : BitVec 7) (d a : BitVec 5) (csr : BitVec 12) (fn : BitVec 3) : BitVec 32 :=
  op ++ d ++ a ++ csr ++ fn

/-- Format F (R29). -/
def fmtF (op : BitVec 7) (fk : BitVec 4) (sc : BitVec 3) (e : BitVec 1) (zero : BitVec 17) : BitVec 32 :=
  op ++ fk ++ sc ++ e ++ zero

/-- The register field of mask k (R30). -/
def kReg (k : BitVec 2) : BitVec 5 := 0#3 ++ k
/-- The register field of queue name q (R30). -/
def qReg (q : BitVec 2) : BitVec 5 := 7#3 ++ q
/-- imm13 of a shift (R163). -/
def shImm (kind : BitVec 2) (amt : BitVec 6) : BitVec 13 := 0#5 ++ kind ++ amt
/-- x10 of context e with the low eight bits given. -/
def xWord (e : BitVec 2) (low : BitVec 8) : BitVec 10 := e ++ low

/-- The word of an instruction; an event has none (R29, R43). -/
def encode : Instr → Option (BitVec 32)
  | .add d a b ma mb => some (fmtA 0x01 d a b ma mb 0#6)
  | .sub d a b ma mb => some (fmtA 0x01 d a b ma mb 1#6)
  | .and d a b ma mb => some (fmtA 0x01 d a b ma mb 2#6)
  | .or d a b ma mb => some (fmtA 0x01 d a b ma mb 3#6)
  | .xor d a b ma mb => some (fmtA 0x01 d a b ma mb 4#6)
  | .andn d a b ma mb => some (fmtA 0x01 d a b ma mb 5#6)
  | .shl d a b ma mb => some (fmtA 0x01 d a b ma mb 6#6)
  | .shr d a b ma mb => some (fmtA 0x01 d a b ma mb 7#6)
  | .sra d a b ma mb => some (fmtA 0x01 d a b ma mb 8#6)
  | .rot d a b ma mb => some (fmtA 0x01 d a b ma mb 9#6)
  | .slt d a b ma mb => some (fmtA 0x01 d a b ma mb 10#6)
  | .sltu d a b ma mb => some (fmtA 0x01 d a b ma mb 11#6)
  | .seq d a b ma mb => some (fmtA 0x01 d a b ma mb 12#6)
  | .min d a b ma mb => some (fmtA 0x01 d a b ma mb 13#6)
  | .max d a b ma mb => some (fmtA 0x01 d a b ma mb 14#6)
  | .minu d a b ma mb => some (fmtA 0x01 d a b ma mb 15#6)
  | .maxu d a b ma mb => some (fmtA 0x01 d a b ma mb 16#6)
  | .addw d a b ma mb => some (fmtA 0x01 d a b ma mb 17#6)
  | .subw d a b ma mb => some (fmtA 0x01 d a b ma mb 18#6)
  | .mul d a b ma mb => some (fmtA 0x02 d a b ma mb 0#6)
  | .mulh d a b ma mb => some (fmtA 0x02 d a b ma mb 1#6)
  | .mulhu d a b ma mb => some (fmtA 0x02 d a b ma mb 2#6)
  | .div d a b ma mb => some (fmtA 0x02 d a b ma mb 3#6)
  | .divu d a b ma mb => some (fmtA 0x02 d a b ma mb 4#6)
  | .rem d a b ma mb => some (fmtA 0x02 d a b ma mb 5#6)
  | .remu d a b ma mb => some (fmtA 0x02 d a b ma mb 6#6)
  | .clz d a ma => some (fmtA 0x03 d a 0#5 ma 0#2 0#6)
  | .ctz d a ma => some (fmtA 0x03 d a 0#5 ma 0#2 1#6)
  | .popc d a ma => some (fmtA 0x03 d a 0#5 ma 0#2 2#6)
  | .bext d a b ma mb => some (fmtA 0x03 d a b ma mb 3#6)
  | .bins d a b ma mb => some (fmtA 0x03 d a b ma mb 4#6)
  | .sext d a b ma mb => some (fmtA 0x03 d a b ma mb 5#6)
  | .zext d a b ma mb => some (fmtA 0x03 d a b ma mb 6#6)
  | .bswap d a ma => some (fmtA 0x03 d a 0#5 ma 0#2 7#6)
  | .nop => some (fmtI 0x08 0#5 0#5 0#2 0#13)
  | .addi d a ma imm => some (fmtI 0x08 d a ma imm)
  | .andi d a ma imm => some (fmtI 0x09 d a ma imm)
  | .ori d a ma imm => some (fmtI 0x0A d a ma imm)
  | .xori d a ma imm => some (fmtI 0x0B d a ma imm)
  | .slti d a ma imm => some (fmtI 0x0C d a ma imm)
  | .sltiu d a ma imm => some (fmtI 0x0D d a ma imm)
  | .shli d a ma amt => some (fmtI 0x0E d a ma (shImm 0 amt))
  | .shri d a ma amt => some (fmtI 0x0E d a ma (shImm 1 amt))
  | .srai d a ma amt => some (fmtI 0x0E d a ma (shImm 2 amt))
  | .roti d a ma amt => some (fmtI 0x0E d a ma (shImm 3 amt))
  | .lui d imm => some (fmtU 0x10 d imm)
  | .auipc d imm => some (fmtU 0x11 d imm)
  | .jal d off => some (fmtU 0x12 d off)
  | .jalr d a ma imm => some (fmtI 0x13 d a ma imm)
  | .beq a b off => some (fmtB 0x14 a b 0#3 off)
  | .bne a b off => some (fmtB 0x14 a b 1#3 off)
  | .blt a b off => some (fmtB 0x14 a b 2#3 off)
  | .bge a b off => some (fmtB 0x14 a b 3#3 off)
  | .bltu a b off => some (fmtB 0x14 a b 4#3 off)
  | .bgeu a b off => some (fmtB 0x14 a b 5#3 off)
  | .beqz a off => some (fmtB 0x14 a 0#5 6#3 off)
  | .bnez a off => some (fmtB 0x14 a 0#5 7#3 off)
  | .kmovg d a ma => some (fmtA 0x15 (kReg d) a 0#5 ma 0#2 0#6)
  | .kmovk d a => some (fmtA 0x15 d (kReg a) 0#5 0#2 0#2 1#6)
  | .kand d a b => some (fmtA 0x15 (kReg d) (kReg a) (kReg b) 0#2 0#2 2#6)
  | .kor d a b => some (fmtA 0x15 (kReg d) (kReg a) (kReg b) 0#2 0#2 3#6)
  | .kxor d a b => some (fmtA 0x15 (kReg d) (kReg a) (kReg b) 0#2 0#2 4#6)
  | .knot d a => some (fmtA 0x15 (kReg d) (kReg a) 0#5 0#2 0#2 5#6)
  | .kpop d a => some (fmtA 0x15 d (kReg a) 0#5 0#2 0#2 6#6)
  | .kfirst d a => some (fmtA 0x15 d (kReg a) 0#5 0#2 0#2 7#6)
  | .ld d a sz sc mo off => some (fmtM 0x18 d a sz sc mo off)
  | .ldu d a sz sc mo off => some (fmtM 0x19 d a sz sc mo off)
  | .st d a sz sc mo off => some (fmtM 0x1A d a sz sc mo off)
  | .ldp d a sz sc off => some (fmtM 0x1B d a sz sc 0#2 off)
  | .ldsync d a sz sc mo off => some (fmtM 0x1C d a sz sc mo off)
  | .stsync d a sz sc mo off => some (fmtM 0x1D d a sz sc mo off)
  | .feclr a sc mo off => some (fmtM 0x1E 0#5 a 0#2 sc mo off)
  | .feset a sc mo off => some (fmtM 0x1E 0#5 a 1#2 sc mo off)
  | .feprobe d a sc mo off => some (fmtM 0x1E d a 2#2 sc mo off)
  | .ldmon d a sz sc mo off => some (fmtM 0x1F d a sz sc mo off)
  | .amoAdd d a b sc mo => some (fmtR 0x20 d a b sc mo 0#5)
  | .amoAnd d a b sc mo => some (fmtR 0x20 d a b sc mo 1#5)
  | .amoOr d a b sc mo => some (fmtR 0x20 d a b sc mo 2#5)
  | .amoXor d a b sc mo => some (fmtR 0x20 d a b sc mo 3#5)
  | .amoMin d a b sc mo => some (fmtR 0x20 d a b sc mo 4#5)
  | .amoMax d a b sc mo => some (fmtR 0x20 d a b sc mo 5#5)
  | .amoMinu d a b sc mo => some (fmtR 0x20 d a b sc mo 6#5)
  | .amoMaxu d a b sc mo => some (fmtR 0x20 d a b sc mo 7#5)
  | .amoSwap d a b sc mo => some (fmtR 0x20 d a b sc mo 8#5)
  | .amoFadd d a b sc mo => some (fmtR 0x20 d a b sc mo 9#5)
  | .amoFmin d a b sc mo => some (fmtR 0x20 d a b sc mo 10#5)
  | .amoFmax d a b sc mo => some (fmtR 0x20 d a b sc mo 11#5)
  | .casW d a b sc mo => some (fmtR 0x21 d a b sc mo 0#5)
  | .casD d a b sc mo => some (fmtR 0x21 d a b sc mo 1#5)
  | .redAdd a b sc => some (fmtR 0x22 0#5 a b sc 0#2 0#5)
  | .redAnd a b sc => some (fmtR 0x22 0#5 a b sc 0#2 1#5)
  | .redOr a b sc => some (fmtR 0x22 0#5 a b sc 0#2 2#5)
  | .redXor a b sc => some (fmtR 0x22 0#5 a b sc 0#2 3#5)
  | .redMin a b sc => some (fmtR 0x22 0#5 a b sc 0#2 4#5)
  | .redMax a b sc => some (fmtR 0x22 0#5 a b sc 0#2 5#5)
  | .redMinu a b sc => some (fmtR 0x22 0#5 a b sc 0#2 6#5)
  | .redMaxu a b sc => some (fmtR 0x22 0#5 a b sc 0#2 7#5)
  | .redFadd a b sc => some (fmtR 0x22 0#5 a b sc 0#2 9#5)
  | .redFmin a b sc => some (fmtR 0x22 0#5 a b sc 0#2 10#5)
  | .redFmax a b sc => some (fmtR 0x22 0#5 a b sc 0#2 11#5)
  | .fence fk sc e => some (fmtF 0x23 fk sc e 0#17)
  | .pref a sc off => some (fmtM 0x24 0#5 a 0#2 sc 0#2 off)
  | .cflush a sc off => some (fmtM 0x24 0#5 a 1#2 sc 0#2 off)
  | .cinval a sc off => some (fmtM 0x24 0#5 a 2#2 sc 0#2 off)
  | .vadd d a b k t => some (fmtV 0x28 d a b k t 0#5)
  | .vsub d a b k t => some (fmtV 0x28 d a b k t 1#5)
  | .vmul d a b k t => some (fmtV 0x28 d a b k t 2#5)
  | .vmulh d a b k t => some (fmtV 0x28 d a b k t 3#5)
  | .vmin d a b k t => some (fmtV 0x28 d a b k t 4#5)
  | .vmax d a b k t => some (fmtV 0x28 d a b k t 5#5)
  | .vminu d a b k t => some (fmtV 0x28 d a b k t 6#5)
  | .vmaxu d a b k t => some (fmtV 0x28 d a b k t 7#5)
  | .vabs d a k t => some (fmtV 0x28 d a 0#5 k t 8#5)
  | .vmac d a b k t => some (fmtV 0x28 d a b k t 9#5)
  | .vfadd d a b k t => some (fmtV 0x29 d a b k t 0#5)
  | .vfsub d a b k t => some (fmtV 0x29 d a b k t 1#5)
  | .vfmul d a b k t => some (fmtV 0x29 d a b k t 2#5)
  | .vfma d a b k t => some (fmtV 0x29 d a b k t 3#5)
  | .vfmin d a b k t => some (fmtV 0x29 d a b k t 4#5)
  | .vfmax d a b k t => some (fmtV 0x29 d a b k t 5#5)
  | .vfabs d a k t => some (fmtV 0x29 d a 0#5 k t 6#5)
  | .vfneg d a k t => some (fmtV 0x29 d a 0#5 k t 7#5)
  | .vfrcp d a k t => some (fmtV 0x29 d a 0#5 k t 8#5)
  | .vfrsq d a k t => some (fmtV 0x29 d a 0#5 k t 9#5)
  | .vfdiv d a b k t => some (fmtV 0x29 d a b k t 10#5)
  | .vfsqrt d a k t => some (fmtV 0x29 d a 0#5 k t 11#5)
  | .vand d a b k t => some (fmtV 0x2A d a b k t 0#5)
  | .vor d a b k t => some (fmtV 0x2A d a b k t 1#5)
  | .vxor d a b k t => some (fmtV 0x2A d a b k t 2#5)
  | .vnot d a k t => some (fmtV 0x2A d a 0#5 k t 3#5)
  | .vshl d a b k t => some (fmtV 0x2A d a b k t 4#5)
  | .vshr d a b k t => some (fmtV 0x2A d a b k t 5#5)
  | .vsra d a b k t => some (fmtV 0x2A d a b k t 6#5)
  | .vcmpEq d a b k t => some (fmtV 0x2B (kReg d) a b k t 0#5)
  | .vcmpLt d a b k t => some (fmtV 0x2B (kReg d) a b k t 1#5)
  | .vcmpLtu d a b k t => some (fmtV 0x2B (kReg d) a b k t 2#5)
  | .vfcmpEq d a b k t => some (fmtV 0x2B (kReg d) a b k t 3#5)
  | .vfcmpLt d a b k t => some (fmtV 0x2B (kReg d) a b k t 4#5)
  | .vfcmpLe d a b k t => some (fmtV 0x2B (kReg d) a b k t 5#5)
  | .vfcmpUn d a b k t => some (fmtV 0x2B (kReg d) a b k t 6#5)
  | .vsel d a b k t => some (fmtV 0x2B d a b k t 7#5)
  | .vbcast d a k t => some (fmtV 0x2C d a 0#5 k t 0#5)
  | .vext d a b t => some (fmtV 0x2C d a b 0#2 t 1#5)
  | .vins d a b t => some (fmtV 0x2C d a b 0#2 t 2#5)
  | .vperm d a b k t => some (fmtV 0x2C d a b k t 3#5)
  | .vrot d a b k t => some (fmtV 0x2C d a b k t 4#5)
  | .vredadd d a k t => some (fmtV 0x2C d a 0#5 k t 5#5)
  | .vredmin d a k t => some (fmtV 0x2C d a 0#5 k t 6#5)
  | .vredmax d a k t => some (fmtV 0x2C d a 0#5 k t 7#5)
  | .vfredadd d a k t => some (fmtV 0x2C d a 0#5 k t 8#5)
  | .vcompress d a k t => some (fmtV 0x2C d a 0#5 k t 9#5)
  | .vexpand d a k t => some (fmtV 0x2C d a 0#5 k t 10#5)
  | .vcvt d a part u k s => some (fmtV 0x2D d a (part ++ u) k s 0#5)
  | .vdec d a fmt k t => some (fmtV 0x2D d a fmt k t 1#5)
  | .venc d a fmt k t => some (fmtV 0x2D d a fmt k t 2#5)
  | .vtabld a bank => some (fmtV 0x2D 0#5 a (kReg bank) 0#2 0#3 3#5)
  | .vscale d a b k t => some (fmtV 0x2D d a b k t 4#5)
  | .vld d a k t => some (fmtV 0x2E d a 0#5 k t 0#5)
  | .vlds d a b k t => some (fmtV 0x2E d a b k t 1#5)
  | .vldx d a b k t => some (fmtV 0x2E d a b k t 2#5)
  | .vldb d a k t => some (fmtV 0x2E d a 0#5 k t 3#5)
  | .vst d a k t => some (fmtV 0x2F d a 0#5 k t 0#5)
  | .vsts d a b k t => some (fmtV 0x2F d a b k t 1#5)
  | .vstx d a b k t => some (fmtV 0x2F d a b k t 2#5)
  | .spawn d a b ma mb => some (fmtA 0x30 d a b ma mb 0#6)
  | .yield => some (fmtA 0x30 0#5 0#5 0#5 0#2 0#2 1#6)
  | .quit => some (fmtA 0x30 0#5 0#5 0#5 0#2 0#2 2#6)
  | .susp => some (fmtA 0x30 0#5 0#5 0#5 0#2 0#2 3#6)
  | .tid d => some (fmtA 0x30 d 0#5 0#5 0#2 0#2 4#6)
  | .migr d a ma => some (fmtA 0x30 d a 0#5 ma 0#2 5#6)
  | .send d a b ma mb => some (fmtA 0x31 d a b ma mb 0#6)
  | .sendg d a b ma mb => some (fmtA 0x31 d a b ma mb 1#6)
  | .recv => some (fmtA 0x31 0#5 0#5 0#5 0#2 0#2 2#6)
  | .rpeek d => some (fmtA 0x31 d 0#5 0#5 0#2 0#2 3#6)
  | .qbind q a ma => some (fmtA 0x32 (qReg q) a 0#5 ma 0#2 0#6)
  | .qstat d q => some (fmtA 0x32 d (qReg q) 0#5 0#2 0#2 1#6)
  | .qunbind q => some (fmtA 0x32 0#5 (qReg q) 0#5 0#2 0#2 2#6)
  | .qclose q => some (fmtA 0x32 0#5 (qReg q) 0#5 0#2 0#2 3#6)
  | .tdecl d a ma => some (fmtA 0x34 d a 0#5 ma 0#2 0#6)
  | .tfree a ma => some (fmtA 0x34 0#5 a 0#5 ma 0#2 1#6)
  | .tstage d a b ma mb => some (fmtA 0x34 d a b ma mb 2#6)
  | .tdrain a ma => some (fmtA 0x34 0#5 a 0#5 ma 0#2 3#6)
  | .ttag d a ma => some (fmtA 0x34 d a 0#5 ma 0#2 4#6)
  | .tsettag a b ma mb => some (fmtA 0x34 0#5 a b ma mb 5#6)
  | .tinv a ma => some (fmtA 0x34 0#5 a 0#5 ma 0#2 6#6)
  | .mcast d a b ma mb => some (fmtA 0x34 d a b ma mb 7#6)
  | .tfwd d a b ma mb => some (fmtA 0x34 d a b ma mb 8#6)
  | .tbst a b ma mb => some (fmtA 0x34 0#5 a b ma mb 9#6)
  | .mma a b e z => some (fmtC 0x38 0#5 a b (xWord e (0#7 ++ z)))
  | .mmas a b e z => some (fmtC 0x38 1#5 a b (xWord e (0#7 ++ z)))
  | .mset a e idx => some (fmtC 0x38 2#5 a 0#5 (xWord e (0#5 ++ idx)))
  | .mscale a b e => some (fmtC 0x38 3#5 a b (xWord e 0))
  | .acczero b e => some (fmtC 0x38 4#5 0#5 b (xWord e 0))
  | .accld a b e => some (fmtC 0x38 5#5 a b (xWord e 0))
  | .accst a b e => some (fmtC 0x38 6#5 a b (xWord e 0))
  | .mget d a b ma mb => some (fmtA 0x39 d a b ma mb 0#6)
  | .accrd d a ma => some (fmtA 0x39 d a 0#5 ma 0#2 1#6)
  | .accwr a b ma mb => some (fmtA 0x39 0#5 a b ma mb 2#6)
  | .mstat d a ma => some (fmtA 0x39 d a 0#5 ma 0#2 3#6)
  | .xcopy a b e => some (fmtC 0x3A 0#5 a b (xWord e 0))
  | .xset a e idx => some (fmtC 0x3A 1#5 a 0#5 (xWord e (0#2 ++ idx)))
  | .xfill a b e => some (fmtC 0x3A 2#5 a b (xWord e 0))
  | .xcancel e rel => some (fmtC 0x3A 3#5 0#5 0#5 (xWord e (0#7 ++ rel)))
  | .barInit a b ma mb => some (fmtA 0x3B 0#5 a b ma mb 0#6)
  | .barArrive d a b ma mb => some (fmtA 0x3B d a b ma mb 1#6)
  | .barExpect d a b ma mb => some (fmtA 0x3B d a b ma mb 2#6)
  | .barArm a b ma mb => some (fmtA 0x3B 0#5 a b ma mb 3#6)
  | .barInval a ma => some (fmtA 0x3B 0#5 a 0#5 ma 0#2 4#6)
  | .tlRead d a b ma mb => some (fmtA 0x3C d a b ma mb 0#6)
  | .tlArm a b ma mb => some (fmtA 0x3C 0#5 a b ma mb 1#6)
  | .taskSub d a b ma mb => some (fmtA 0x3D d a b ma mb 0#6)
  | .taskDone a b ma mb => some (fmtA 0x3D 0#5 a b ma mb 1#6)
  | .taskDep d a b ma mb => some (fmtA 0x3D d a b ma mb 2#6)
  | .taskInfo d a b ma mb => some (fmtA 0x3D d a b ma mb 3#6)
  | .grpInfo d a b ma mb => some (fmtA 0x3E d a b ma mb 0#6)
  | .collStart d a b ma mb => some (fmtA 0x3E d a b ma mb 1#6)
  | .collStat d a ma => some (fmtA 0x3E d a 0#5 ma 0#2 2#6)
  | .stoRead d a ma => some (fmtA 0x3F d a 0#5 ma 0#2 0#6)
  | .stoWrite d a ma => some (fmtA 0x3F d a 0#5 ma 0#2 1#6)
  | .stoSync d a ma => some (fmtA 0x3F d a 0#5 ma 0#2 2#6)
  | .csrRd d csr => some (fmtS 0x70 d 0#5 csr 0#3)
  | .csrWr a csr => some (fmtS 0x70 0#5 a csr 1#3)
  | .csrSet a csr => some (fmtS 0x70 0#5 a csr 2#3)
  | .csrClr a csr => some (fmtS 0x70 0#5 a csr 3#3)
  | .sysCall a ma => some (fmtA 0x71 0#5 a 0#5 ma 0#2 0#6)
  | .sysRet a b ma mb => some (fmtA 0x71 0#5 a b ma mb 1#6)
  | .repart a ma => some (fmtA 0x71 0#5 a 0#5 ma 0#2 2#6)
  | .brk a ma => some (fmtA 0x71 0#5 a 0#5 ma 0#2 3#6)
  | .mark a ma => some (fmtA 0x71 0#5 a 0#5 ma 0#2 4#6)
  | .xlatInv a b ma mb => some (fmtA 0x71 0#5 a b ma mb 5#6)
  | .fenceXlat => some (fmtA 0x71 0#5 0#5 0#5 0#2 0#2 6#6)
  | .gangAck d a ma => some (fmtA 0x71 d a 0#5 ma 0#2 7#6)
  | .mvblk d a b => some (fmtA 0x78 d a b 0#2 0#2 0#6)
  | .stblk d a b => some (fmtA 0x78 d a b 0#2 0#2 1#6)
  | .cmpblk d a b => some (fmtA 0x78 d a b 0#2 0#2 2#6)
  | .illinst => none
  | .postedArrive => none
  | .postedFail => none
  | .loadReply => none
  | .storeCheckReply => none
  | .storeAck => none
  | .homeRead => none
  | .homeWrite => none
  | .collectRecallReply => none
  | .redURequest => none
  | .uEviction => none
  | .invalidation => none
  | .invalidationAck => none
  | .fenceMarker => none
  | .fenceMarkerAnswer => none
  | .feRetry => none
  | .reservationExpiry => none
  | .waitovf => none
  | .wakeAtSlot => none
  | .wakeAtRecord => none
  | .parklimWriteOut => none
  | .poolPickup => none
  | .promoteAging => none
  | .migrantArrival => none
  | .migrantAccepted => none
  | .migrantRefused => none
  | .forwardedValue => none
  | .dividerDone => none
  | .normaliserDone => none
  | .iterativeUnitDone => none
  | .mailboxMessage => none
  | .sendReply => none
  | .sendgMemberReply => none
  | .stageRead => none
  | .stageOwn => none
  | .tileDrain => none
  | .tileDrop => none
  | .tileRecall => none
  | .tileFillComplete => none
  | .tileWritebackAck => none
  | .stageHoldExpiry => none
  | .deferExpiry => none
  | .tfwdTransfer => none
  | .kstep => none
  | .arrayCommandComplete => none
  | .mtabldLoadComplete => none
  | .copyCommandComplete => none
  | .barrierBytes => none
  | .taskNotifyArrival => none
  | .taskRead => none
  | .taskMatch => none
  | .taskPlace => none
  | .taskDecrement => none
  | .collAllJoined => none
  | .collChunkForward => none
  | .collChunkAck => none
  | .collMemberLost => none
  | .collRepairDone => none
  | .launchDoorbell => none
  | .retire => none
  | .textFetch => none
  | .translationMiss => none
  | .walkComplete => none
  | .retryWakeTimer => none
  | .storageFaultAccept => none
  | .pageFillComplete => none
  | .evictionWritebackDone => none
  | .remoteAccess => none
  | .migrationComplete => none
  | .releaseNotice => none
  | .xlatInvAtSlice => none
  | .stoTransferComplete => none
  | .peerAccess => none
  | .hostRead => none
  | .hostWrite => none
  | .backInvalidationResponse => none
  | .hostEventPost => none
  | .addCommand => none
  | .invalCommand => none
  | .replyCommand => none
  | .gangstepCommand => none
  | .linkcmdEnable => none
  | .linkcmdFence => none
  | .linkcmdDown => none
  | .linkTrainingDone => none
  | .linkTrainingTimeout => none
  | .laneRetire => none
  | .flitReplay => none
  | .flitUncorrectable => none
  | .laneMarginMeasure => none
  | .create => none
  | .place => none
  | .kill => none
  | .free => none
  | .commandIllegalCode => none
  | .switchAnnounce => none
  | .switchStamp => none
  | .saveComplete => none
  | .restoreComplete => none
  | .stopTimeout => none
  | .trapDelivery => none
  | .handlerStart => none
  | .handlerStartTimeout => none
  | .eventRingWrite => none
  | .stop => none
  | .resume => none
  | .step => none
  | .traceRecordWrite => none
  | .counterClear => none
  | .laneCounterClear => none
  | .registerWrite => none
  | .iftestRequest => none
  | .iftestDone => none
  | .iftestReminder => none
  | .rowCounterWindow => none
  | .hwFaultDetected => none
  | .powerLimitWrite => none
  | .coldReset => none
  | .boot => none
  | .launchChecksDone => none
  | .killComplete => none
  | .copyElement => none
  | .cycle => none
  | .hostCopyDrop => none
  | .attestationRequest => none

end Sys2Proof
end

