-- ==== Sys2Proof/Machine/State.lean ====
section
/-!
DEFINITION. The state of the device as plain data: everything the spec gives the machine, and the few fields of the
model's own (sched, fresh, cur), which their docstrings say. Finite tables whose entries mostly stand at a default are
lists of (key, entry) pairs with keys rising and no default entry (Tab), so that equal tables are equal data.
-/
namespace Sys2Proof

/-! ### Sparse tables -/

/-- The entry of key k, d where the table has none. -/
def Tab.get {α : Type} (d : α) : Tab α → Nat → α
  | [], _ => d
  | (j, x) :: t, k => if j = k then x else if k < j then d else Tab.get d t k

/-- The table without an entry at k. -/
def Tab.del {α : Type} : Tab α → Nat → Tab α
  | [], _ => []
  | (j, x) :: t, k => if j = k then t else if k < j then (j, x) :: t else (j, x) :: Tab.del t k

/-- The table with x at k, whatever x is. -/
def Tab.ins {α : Type} : Tab α → Nat → α → Tab α
  | [], k, x => [(k, x)]
  | (j, y) :: t, k, x =>
    if j = k then (k, x) :: t else if k < j then (k, x) :: (j, y) :: t else (j, y) :: Tab.ins t k x

/-- The table with x at k; a default entry is not listed. -/
def Tab.put {α : Type} [DecidableEq α] (d : α) (t : Tab α) (k : Nat) (x : α) : Tab α :=
  if x = d then Tab.del t k else Tab.ins t k x

/-- Keys rise strictly from at least b, and no entry is the default. -/
def Tab.wfFrom {α : Type} [DecidableEq α] (d : α) : Nat → Tab α → Bool
  | _, [] => true
  | b, (k, x) :: t => decide (b ≤ k) && decide (x ≠ d) && Tab.wfFrom d (k + 1) t

/-- The canonical form of a sparse table: keys strictly rising, no default entry. -/
def Tab.wf {α : Type} [DecidableEq α] (d : α) (t : Tab α) : Bool := Tab.wfFrom d 0 t

end Sys2Proof

namespace Sys2Proof.Machine

/-- Why the machine stops. Every one stands for a place where the spec gives the device no behaviour. -/
inductive Fault where
  /-- Raised by the meaning of an event in a state that delivers no such event. Safe: step never does this. -/
  | noEvent (event : String)
  deriving DecidableEq, Repr

/-- Why an instruction has no meaning. -/
inductive Refusal where
  /-- Raised by an arm of exec that has no meaning yet. Safe: nothing is claimed. -/
  | notModelled (mnemonic : String)
  deriving DecidableEq, Repr

/-- Memory: one byte an address, unlisted addresses read 0 (DESIGN CHOICE, unsafe: log entry 3). -/
abbrev Memory := List Host.Cell

/-- The canonical form of memory: addresses strictly rising, no listed byte equal to what an unlisted one reads as. -/
def Memory.wf (m : Memory) : Bool := Tab.wf (0 : Byte) m

/-! ### Messages and events -/

/-- A hardware message of 16 bytes (R229): KIND and INFO land in g6, the data word in g7. -/
structure Msg where
  kind : BitVec 8
  info : BitVec 56
  data : Word
  deriving DecidableEq, Repr

/-- A thread as messages name it: the physical slot where it was last known, its context and tid (R130). -/
structure Thr where
  slot : Nat
  ctx : Nat
  tid : Nat
  deriving DecidableEq, Repr

/-- The fault causes of R417. -/
inductive Cause where
  | misfetch | illinst | privinst | regempty | badaddr | prot | misalign | fenced | tagviol
  | fmtcode | fmtdesc | fmtenc | badopnd | partbusy | queue | tiledesc | badtile | tileslot
  | engowned | engfault | engconf | taskerr | barstate | collerr | textfmt | texthash
  | syscall | brkpt | dblfault | nomethod | badcont | waitovf | gangnote
  deriving DecidableEq, Repr

/-- A fault held in a register by a posted producer (R37, R175): cause, info, address and the producer's PC. -/
structure HeldFault where
  cause : Cause
  info : Word
  addr : Word
  pc : BitVec 48
  deriving DecidableEq, Repr

/-- A posted value or fault on its way to a register (R143). -/
inductive Posted where
  | value (v : Word)
  | fault (f : HeldFault)
  deriving DecidableEq, Repr

/-- The operations of amo and red (R221). -/
inductive AmoOp where
  | add | and | or | xor | min | max | minu | maxu | swap | fadd | fmin | fmax
  deriving DecidableEq, Repr

/-- What a read request at a home is for. -/
inductive ReadKind where
  /-- A plain load: fills the line for a load in flight. -/
  | load
  /-- A load performed at the home (R95): its reply installs the line too. -/
  | home
  /-- A posted load of one element (R174). -/
  | posted (reg size : Nat) (addr : Word) (pc : BitVec 48)
  /-- A prefetch (R177): fills the line, answers nobody. -/
  | pref
  deriving DecidableEq, Repr

/-- A read request of one line, with its address already translated. pa is a byte address of State.mem. -/
structure ReadReq where
  th : Thr
  core : Nat
  va : Word
  pa : Nat
  kind : ReadKind
  /-- Device time at which it left its core (R109), 0 where it may not be merged. -/
  stamp : Nat := 0
  /-- The number its core gave it: its reply and its fill carry it. -/
  id : Nat := 0
  /-- The level its thread ran at when it issued: its checks at the home are made for it (R175). -/
  priv : Nat := 0
  /-- Store-queue entries of its core it waits for before it leaves (R98). -/
  behind : List Nat := []
  /-- The entries that stood in its core's store queue when it was issued with its translation not yet known: it takes the bytes
  of those that prove to write its own (R98). -/
  queued : List Nat := []
  deriving DecidableEq, Repr

/-- The instructions performed at a word's home (R214, R218, R219). -/
inductive FeOp where
  | ldsync | stsync | feclr | feset | feprobe | ldmon
  deriving DecidableEq, Repr

/-- A write request at a home, or another request of the ordered class (R107). -/
inductive WriteReq where
  /-- The store-queue entry id of a core (R100). -/
  | store (core id : Nat)
  /-- The home half of an amo (R222); register 32 for a red at a scratchpad, which has no result (R225). -/
  | amo (th : Thr) (reg : Nat) (op : AmoOp) (va : Word) (x : Word) (pc : BitVec 48) (mo : BitVec 2)
    (priv : Nat)
  /-- The home half of a cas (R223). -/
  | cas (th : Thr) (reg size : Nat) (va exp new : Word) (pc : BitVec 48) (mo : BitVec 2) (priv : Nat)
  /-- An access to a word and its full/empty bit (R214 to R219): its place, its size, the value it writes or expects. -/
  | fe (th : Thr) (op : FeOp) (va : Word) (pa size : Nat) (x : Word) (mo : BitVec 2)
  deriving DecidableEq, Repr

/-- The migrant packet of R141. -/
structure Migrant where
  origin : Nat
  target : Nat
  ctx : Nat
  tid : Nat
  supervisor : Bool
  keep : Bool
  prio : BitVec 2
  mig : Bool
  states : List (BitVec 2)
  fstat : Word
  pc : BitVec 48
  pred : Word
  regs : List Word
  /-- The migr that sent it, with its destination register (R151); none for a window access. -/
  migr : Option Nat
  deriving DecidableEq, Repr

/-- A send or sendg on its way (R238, R239). -/
structure Post where
  byslot : Bool
  wake : Bool
  group : Bool
  dest : Thr
  m : Msg
  sender : Thr
  target : Word
  deriving DecidableEq, Repr

/-- Who waits for a translation (R438): a parked thread, or a request the slice keeps whole. -/
inductive Waiter where
  | thread (th : Thr) (va : Word)
  | ldp (r : ReadReq) (size : Nat)
  | write (w : WriteReq)
  /-- An atomic or reduction whose place on a peer is known: the word the peer answers with, and what that gives its
  register (R448). -/
  | peer (w : WriteReq) (pa : Nat) (home : Nat) (result : Word)
  | red (th : Thr)
  | engine (cell core e : Nat)
  | tile (core ts : Nat) (own : Bool)
  | chunk (ctx group rank chunk : Nat)
  | text (th : Thr) (pc : BitVec 48)
  | sqe (chip op : Nat)
  | trap (slot : Nat)
  /-- A prefetch that missed: the slice walks, and nobody waits (R177). -/
  | nobody
  /-- A dispatcher's or controller's read: a launch (0), a create (1) or a place (2) of a context. -/
  | launch (ctx code : Nat)
  deriving DecidableEq, Repr

/-- An event of a context for its supervisor handler (R417 codes 64 to 67, R423). unit is the cell of the unit that raised
it, or a number from 4,096 up for a unit that lies in no cell. -/
structure CtxEvent where
  cause : Cause
  info : Word
  addr : Word
  unit : Nat
  deriving DecidableEq, Repr

/-- A handler continuation waiting to start (R421): the faulting core, the level and the record it is given. -/
structure Handler where
  ctx : Nat
  core : Nat
  machine : Bool
  pc : BitVec 48
  stackBase : Word
  stackSize : Word
  recAddr : Word
  dw0 : Word
  restart : Word
  info : Word
  addr : Word
  /-- Its wait for a tid: 0 not begun, 1 timed, 2 reported after 1 ms (R421). -/
  wait : Nat := 0
  /-- It has waited for a slot, and one has fallen vacant (R421). -/
  again : Bool := false
  deriving DecidableEq, Repr

/-- A hardware fault as the detectors find it (R483). -/
inductive HwFault where
  /-- Corrected by SECDED, or cleared by the second read of a register's parity. -/
  | corrected (source : Nat) (addr : Word)
  | word (addr : Nat) (source : Nat)
  | slot (slot : Nat)
  /-- A first residue mismatch: the array repeats the k-step (R290). -/
  | residue (cell : Nat)
  | array (cell row col : Nat)
  | arraySeq (cell : Nat)
  | copy (cell : Nat)
  | sqe (chip : Nat)
  | teller (chip : Nat)
  | rowSave (row : Nat)
  | core (core : Nat)
  | cell (cell : Nat)
  | stack (chip : Nat)
  | link (link : Nat)
  deriving DecidableEq, Repr

/-- What an inbound Span access does (R466, R467). -/
inductive PeerKind where
  | read (size : Nat)
  | write (data : List Byte)
  | amo (op : AmoOp) (x : Word)
  | cas (size : Nat) (exp new : Word)
  deriving DecidableEq, Repr

/-- What firmware fixes at boot (R484, R518): the image, its signature, and the addresses of the device tables. -/
structure BootImage where
  image : List Byte
  /-- The public key that comes with the image, and its signature. -/
  key : List Byte
  sig : List Byte
  devid : BitVec 9
  ctxtab : Nat
  regtab : Nat
  stktab : Nat
  mboxbase : Nat
  peerroute : Nat
  errbase : Nat
  rsvbase : Nat
  fwkcb : Nat
  /-- Where firmware maps the debug block in the linear segment (R470). -/
  dbgbase : Nat
  deriving DecidableEq, Repr

/-- Whose bytes a barrier counts: the oldest command of a copy context, or a programmed transfer of a storage engine (R340,
R451). -/
inductive Updater where
  | copy (core e : Nat)
  | transfer (chip op : Nat)
  deriving DecidableEq, Repr

/-- The device's events with what arrives: one constructor for each row of the table that has no encoding. -/
inductive Event where
  /-- ILLINST (R45). Issue of a word that is not an instruction raises ILLINST with its reason. -/
  | illinst (w : BitVec 32)
  /-- POSTED_ARRIVE (R37). A posted value arrives at its pending register, filling it and waking parked readers. -/
  | postedArrive (th : Thr) (reg : Nat) (v : Word)
  /-- POSTED_FAIL (R37). A posted producer's fault arrives and the register goes to state X. -/
  | postedFail (th : Thr) (reg : Nat) (f : HeldFault)
  /-- LOAD_REPLY (R98). The value of an in-flight load arrives and the thread becomes ready. -/
  | loadReply (th : Thr) (va : Word) (data : List Byte) (id : Nat) (stamp : Nat)
  /-- STORE_CHECK_REPLY (R171). The home's reply to a store check arrives, queueing the store or raising its fault. -/
  | storeCheckReply (th : Thr)
  /-- STORE_ACK (R100). A store acknowledgement arrives, releasing the thread's next store and updating the recent-store filter. -/
  | storeAck (core id home : Nat)
  /-- HOME_READ (R213). An L1 read miss or home-performed read is served at the home slice. -/
  | homeRead (r : ReadReq)
  /-- HOME_WRITE (R213). A write is performed at the home, invalidating sharers and updating tags. -/
  | homeWrite (w : WriteReq)
  /-- COLLECT_RECALL_REPLY (R116). A core's answer to a recall of its U copy reaches the home. -/
  | collectRecallReply (core line : Nat)
  /-- RED_U_REQUEST (R114). A core's request for a line in U reaches the home and is granted. -/
  | redURequest (th : Thr) (line : Nat) (op : AmoOp)
  /-- U_EVICTION (R117). A core evicts a U copy and sends its partial to the home. -/
  | uEviction (core line : Nat)
  /-- INVALIDATION (R95). An invalidation reaches an L1 and is acknowledged at once. -/
  | invalidation (core line : Nat)
  /-- INVALIDATION (R466). A peer device invalidates a line of its memory that cores of this device hold. -/
  | peerInvalidation (dev pa : Nat)
  /-- INVALIDATION_ACK (R101). An invalidation acknowledgement reaches the home. -/
  | invalidationAck (core line : Nat)
  /-- FENCE_MARKER (R101). A fence marker reaches a home and is answered once invalidations are collected. -/
  | fenceMarker (th : Thr) (home : Nat) (sc : BitVec 3)
  /-- FENCE_MARKER_ANSWER (R101). A home's answer to a fence marker reaches the thread. -/
  | fenceMarkerAnswer (th : Thr) (home : Nat)
  /-- FE_RETRY (R215). A failed ldsync or stsync retries after 64 network cycles. -/
  | feRetry (th : Thr)
  /-- RESERVATION_EXPIRY (R208). A word reservation expires after 1 ms of resident time and the word settles. -/
  | reservationExpiry (word : Nat)
  /-- WAITOVF (R210). An overflow event is posted to supervisor handlers after earlier chain appends are acknowledged. -/
  | waitovf (slice word : Nat) (va : Word)
  /-- WAKE_AT_SLOT (R129). A wake reaches a slot holding its tid, ending a park or setting the latch. -/
  | wakeAtSlot (th : Thr) (m : Msg)
  /-- WAKE_AT_RECORD (R130). A forwarded wake reaches the record's home and acts by the record's STATE. -/
  | wakeAtRecord (th : Thr) (m : Msg)
  /-- PARKLIM_WRITE_OUT (R132). A park reaching PARKLIM writes the thread out to its continuation record. -/
  | parklimWriteOut (slot : Nat)
  /-- POOL_PICKUP (R136). A vacant slot takes the front pool entry and resumes its record. -/
  | poolPickup (ctx chip : Nat)
  /-- PROMOTE_AGING (R137). A pool entry that waited PROMOTE moves to the next priority. -/
  | promoteAging (ctx chip : Nat)
  /-- MIGRANT_ARRIVAL (R142). A migrant packet reaches the target core, which accepts or refuses it. -/
  | migrantArrival (p : Migrant)
  /-- MIGRANT_ACCEPTED (R142). Acceptance reaches the origin, which updates the record and frees the origin slot. -/
  | migrantAccepted (p : Migrant) (slot : Nat)
  /-- MIGRANT_REFUSED (R142). A refused migrant returns and the thread performs the access remotely. -/
  | migrantRefused (p : Migrant)
  /-- FORWARDED_VALUE (R143). A forwarding entry receives a posted value or fault and sends it to the new slot. -/
  | forwardedValue (origin : Nat) (th : Thr) (reg : Nat) (v : Posted)
  /-- DIVIDER_DONE (R160). A divider use ends after 24 cycles and the thread's result is written. -/
  | dividerDone (core : Nat)
  /-- NORMALISER_DONE (R78). A normaliser use ends after 4 cycles and the thread resumes issue. -/
  | normaliserDone (core : Nat)
  /-- ITERATIVE_UNIT_DONE (R186). An iterative-unit use ends after 12 cycles. -/
  | iterativeUnitDone (core : Nat)
  /-- MAILBOX_MESSAGE (R235). A message reaches a slot's mailbox, completing recv, appending, or queueing the sender. -/
  | mailboxMessage (p : Post)
  /-- SEND_REPLY (R238). The status reply of a send reaches the sender. -/
  | sendReply (th : Thr) (status : Nat)
  /-- SENDG_MEMBER_REPLY (R239). A member's accept or refuse reply to sendg reaches the sender. -/
  | sendgMemberReply (th : Thr) (ok : Bool)
  /-- STAGE_READ (R254). A stage read reaches the tile's home and read data is sent. -/
  | stageRead (rs : List (Nat × Nat))
  /-- STAGE_OWN (R254). A stage own reaches the tile's home and the owner is set. -/
  | stageOwn (core ts : Nat)
  /-- TILE_DRAIN (R254). An owner's drain write-back reaches the home. -/
  | tileDrain (core ts : Nat)
  /-- TILE_DROP (R254). A sharer's drop or an owner's discard reaches the home. -/
  | tileDrop (core ctx : Nat) (handle : BitVec 32)
  /-- TILE_RECALL (R258). A recall from the home reaches a core's tile slot. -/
  | tileRecall (core ctx : Nat) (handle : BitVec 32)
  /-- TILE_FILL_COMPLETE (R258). A staged copy's last beat arrives and the slot becomes ready. -/
  | tileFillComplete (core ts : Nat) (data : List Byte)
  /-- TILE_WRITEBACK_ACK (R258). The acknowledgement of a drain write-back frees the slot. -/
  | tileWritebackAck (core ts : Nat)
  /-- STAGE_HOLD_EXPIRY (R256). The 4,096-network-cycle hold after a promotion expires. -/
  | stageHoldExpiry (slice entry : Nat)
  /-- DEFER_EXPIRY (R263). A deferred own slot not forwarded within PROMOTE drains to the home. -/
  | deferExpiry (core ts : Nat)
  /-- TFWD_TRANSFER (R273). A forwarded own copy reaches the target core. -/
  | tfwdTransfer (th : Thr) (core ts target offset : Nat)
  /-- KSTEP (R277). The array issues one k-step of a ready context's command. -/
  | kstep (cell : Nat)
  /-- ARRAY_COMMAND_COMPLETE (R287). An array command completes and the context's timeline advances. -/
  | arrayCommandComplete (cell e : Nat)
  /-- MTABLD_LOAD_COMPLETE (R292). An array decode-table bank load completes once no command names the bank. -/
  | mtabldLoadComplete (cell bank : Nat)
  /-- COPY_COMMAND_COMPLETE (R334). A copy command completes or fails, advancing the timeline and updating its barrier. -/
  | copyCommandComplete (core e : Nat)
  /-- BARRIER_BYTES (R354). A copy's byte update reaches the barrier home. -/
  | barrierBytes (by_ : Updater) (core ctx priv : Nat) (va : Word) (bytes status : Nat)
  /-- TASK_NOTIFY_ARRIVAL (R359). A task's kind 2 notify arrives at its barrier as one arrival. -/
  | taskNotifyArrival (ctx : Nat) (va : Word) (chip : Nat)
  /-- TASK_READ (R311). The teller reads a submitted record and enters it as PENDING or READY. -/
  | taskRead (ctx : Nat) (rec : Word) (chip : Nat)
  /-- TASK_MATCH (R316). The teller matches a READY task to a method, inserting conversions or reporting no method. -/
  | taskMatch (ctx : Nat) (rec : Word) (chip : Nat)
  /-- TASK_PLACE (R320). The teller places a MATCHED task and starts its thread. -/
  | taskPlace (ctx : Nat) (rec : Word) (chip : Nat)
  /-- TASK_DECREMENT (R312). A predecessor's completion decrements a successor's PENDING at its home. -/
  | taskDecrement (ctx idx chip : Nat)
  /-- COLL_ALL_JOINED (R366). Every member has joined and the collective begins. -/
  | collAllJoined (ctx group : Nat)
  /-- COLL_CHUNK_FORWARD (R368). A node forwards a combined chunk to its parent or down the tree. -/
  | collChunkForward (ctx group rank chunk : Nat)
  /-- COLL_CHUNK_ACK (R368). The root's chunk acknowledgement reaches a member. -/
  | collChunkAck (ctx group number core chunk : Nat)
  /-- COLL_MEMBER_LOST (R369). Loss of a member is detected and the slot repairs, aborts or holds. -/
  | collMemberLost (ctx group pos : Nat)
  /-- COLL_REPAIR_DONE (R370). Every survivor has taken the rebuilt tree and the collective runs again. -/
  | collRepairDone (ctx group : Nat)
  /-- LAUNCH_DOORBELL (R462). A host write to a launch mailbox starts a launch of the context. -/
  | launchDoorbell (ctx : Nat) (desc : Word)
  /-- RETIRE (R393). The retire condition holds and the kernel retires. -/
  | retire (ctx : Nat)
  /-- TEXT_FETCH (R385). An instruction-cache miss fetches and checks a compressed text line. -/
  | textFetch (th : Thr) (pc : BitVec 48)
  /-- TRANSLATION_MISS (R438). A request misses in a slice's translation entries and joins or starts a walk. -/
  | translationMiss (slice : Nat) (va : Word) (w : Waiter)
  /-- WALK_COMPLETE (R438). A page walk ends, installing a translation and releasing waiters. -/
  | walkComplete (slice : Nat) (va : Word)
  /-- RETRY_WAKE_TIMER (R438). 512 network cycles after a retry reply the request is sent again or the thread woken. -/
  | retryWakeTimer (slice : Nat) (va : Word) (w : Waiter)
  /-- STORAGE_FAULT_ACCEPT (R445). The SQE accepts a miss on a storage-backed page and starts its fill. -/
  | storageFaultAccept (chip : Nat) (va : Word)
  /-- PAGE_FILL_COMPLETE (R445). The NVMe read of a page completes, the leaf is written and waiters released. -/
  | pageFillComplete (chip : Nat) (va : Word) (status : Nat) (data : List Byte)
  /-- EVICTION_WRITEBACK_DONE (R445). An eviction's write-back completes or fails and the frame is released or kept. -/
  | evictionWritebackDone (chip : Nat) (va : Word) (status : Nat)
  /-- REMOTE_ACCESS (R448). An access through a remote leaf goes to the peer and is counted. -/
  | remoteAccess (slice : Nat) (va : Word) (w : Waiter)
  /-- MIGRATION_COMPLETE (R449). A page migrated from a peer is written and its waiters released. -/
  | migrationComplete (chip : Nat) (va : Word) (data : List Byte) (full : List Bool)
  /-- RELEASE_NOTICE (R449). A peer's release notice of a migrated frame arrives and is posted to the host. -/
  | releaseNotice (dev : Nat) (frame : Nat)
  /-- XLAT_INV_AT_SLICE (R453). An invalidation reaches a slice and drops overlapping translations. -/
  | xlatInvAtSlice (slice : Nat) (va : Word) (ctl : Nat) (th : Option Thr)
  /-- STO_TRANSFER_COMPLETE (R451). A programmed transfer completes and subtracts its length at its barrier. -/
  | stoTransferComplete (chip op status : Nat) (data : List Byte)
  /-- PEER_ACCESS (R467). An inbound Span access is checked against the inbound rights map and served. -/
  | peerAccess (dev pa : Nat) (k : PeerKind)
  /-- HOST_READ (R213). A CXL host read of a line is served at its home. -/
  | hostRead (pa : Nat)
  /-- HOST_WRITE (R213). A CXL host write is performed at its home. -/
  | hostWrite (pa : Nat) (data : List Byte)
  /-- BACK_INVALIDATION_RESPONSE (R213). The host's answer to a back-invalidation snoop reaches the home. -/
  | backInvalidationResponse (hostLine : Nat) (data : Option (List Byte))
  /-- HOST_EVENT_POST (R463). A waiting event is written into the host event ring when room exists. -/
  | hostEventPost
  /-- ADD_COMMAND (R443). Command-ring ADD adds frames to a colour's free-frame stack. -/
  | addCommand (entry colour n : Nat)
  /-- INVAL_COMMAND (R464). Command-ring INVAL broadcasts a translation invalidation. -/
  | invalCommand (entry : Nat) (va : Word) (ctl : Nat)
  /-- REPLY_COMMAND (R464). Command-ring REPLY answers a host-assisted event. -/
  | replyCommand (entry seq : Nat) (value : Word)
  /-- GANGSTEP_COMMAND (R464). Command-ring GANGSTEP commands one host-assisted gang-switch step. -/
  | gangstepCommand (entry ctx n : Nat)
  /-- LINKCMD_ENABLE (R457). Firmware enable starts training of a DOWN link. -/
  | linkcmdEnable (entry link : Nat)
  /-- LINKCMD_FENCE (R457). Firmware fence command fences a link. -/
  | linkcmdFence (entry link : Nat)
  /-- LINKCMD_DOWN (R457). Firmware down command takes a link DOWN. -/
  | linkcmdDown (entry link : Nat)
  /-- LINK_TRAINING_DONE (R457). Link training succeeds and the link goes UP or DEGRADED. peer is the device
  identifier that a Span port has found at its other end. -/
  | linkTrainingDone (link lanes peer : Nat)
  /-- LINK_TRAINING_TIMEOUT (R457). Training fails or exceeds 100 ms and the link returns DOWN. -/
  | linkTrainingTimeout (link : Nat)
  /-- LANE_RETIRE (R458). A lane exceeding LANELIM or losing lock is retired and the link retrains. window is the
  number of symbols corrected on the lane in a window of 1 ms; none says that it has lost lock. -/
  | laneRetire (link lane : Nat) (window : Option Nat)
  /-- FLIT_REPLAY (R458). A flit failing its CRC is replayed. seq is its sequence number. -/
  | flitReplay (link seq : Nat)
  /-- FLIT_UNCORRECTABLE (R458). A flit failing 8 replays or unacknowledged 2 µs fences the link. -/
  | flitUncorrectable (link : Nat)
  /-- LANE_MARGIN_MEASURE (R468). Eye margins of each lane are measured every 100 ms. -/
  | laneMarginMeasure (link lane width height : Nat)
  /-- CREATE (R401). COMMAND code 1 creates a context after checking the entry and runtime. -/
  | create (ctx : Nat)
  /-- PLACE (R401). COMMAND code 2 places a context on its cells. -/
  | place (ctx : Nat)
  /-- KILL (R409). COMMAND code 3 kills a context. -/
  | kill (ctx : Nat)
  /-- FREE (R401). COMMAND code 4 frees a context. -/
  | free (ctx : Nat)
  /-- COMMAND_ILLEGAL_CODE (R400). A COMMAND code 5–15 is taken with status 5. -/
  | commandIllegalCode (ctx : Nat)
  /-- SWITCH_ANNOUNCE (R402). Host writes SWITCHAT and the controller sends the stamp to the partition. -/
  | switchAnnounce (ctx : Nat) (stamp : Word)
  /-- SWITCH_STAMP (R403). At the stamp every core stops and the partition is brought to rest. -/
  | switchStamp (ctx : Nat)
  /-- SAVE_COMPLETE (R406). Row save engines finish streaming and the context goes SAVED. -/
  | saveComplete (ctx : Nat)
  /-- RESTORE_COMPLETE (R407). Restore ends; spilled traffic and held wakes are delivered and issue begins. -/
  | restoreComplete (ctx : Nat)
  /-- STOP_TIMEOUT (R410). A core not at rest 1 ms after the stamp gets an error record. -/
  | stopTimeout (ctx core : Nat)
  /-- TRAP_DELIVERY (R419). A raised fault is delivered after drains: slot record and fault record written. -/
  | trapDelivery (slot : Nat)
  /-- HANDLER_START (R421). A handler continuation starts once a tid and slot are available. -/
  | handlerStart (h : Handler)
  /-- HANDLER_START_TIMEOUT (R421). A handler start waiting 1 ms for a tid writes an error record and posts an event. -/
  | handlerStartTimeout (h : Handler)
  /-- EVENT_RING_WRITE (R423). A waiting event is written to a free entry of the context's event ring. -/
  | eventRingWrite (ctx : Nat) (e : CtxEvent)
  /-- STOP (R475). STOPCMD OP 1 stops a slot's thread. -/
  | stop (slot : Nat)
  /-- RESUME (R475). STOPCMD OP 2 resumes a stopped thread. -/
  | resume (slot : Nat)
  /-- STEP (R475). STOPCMD OP 3 lets a stopped thread issue one instruction. -/
  | step (slot : Nat)
  /-- TRACE_RECORD_WRITE (R472). A chiplet trace unit writes a queued record to the context's ring. -/
  | traceRecordWrite (ctx chip : Nat)
  /-- COUNTER_CLEAR (R470). A write of 0 clears a debug-block counter. -/
  | counterClear (off : Nat)
  /-- LANE_COUNTER_CLEAR (R468). A write of 0 clears a lane's error counts. -/
  | laneCounterClear (link lane : Nat)
  /-- REGISTER_WRITE (R461). Host write to a register with no behaviour of its own. -/
  | registerWrite (off : Nat) (v : Word)
  /-- IFTEST_REQUEST (R481). A test-word write requests in-field tests of an idle cell. -/
  | iftestRequest (cell : Nat) (w : Word)
  /-- IFTEST_DONE (R481). An in-field test ends, zeroes memories, writes RESULT and posts an event. -/
  | iftestDone (cell : Nat) (pass : Bool) (unit : Nat)
  /-- IFTEST_REMINDER (R481). A cell reaching 55 minutes of untested active time posts a TYPE 6 event. -/
  | iftestReminder (cell : Nat)
  /-- ROW_COUNTER_WINDOW (R480). A 64 ms DRAM activation window ends and row counts restart. -/
  | rowCounterWindow (cell : Nat)
  /-- HW_FAULT_DETECTED (R483). A detected hardware fault is corrected or fences the smallest unit and writes an error record. -/
  | hwFaultDetected (f : HwFault)
  /-- POWER_LIMIT_WRITE (R485). Firmware writes the power limit, applied within 1 ms. -/
  | powerLimitWrite (watts : Nat)
  /-- COLD_RESET (R485). A cold reset clears all device state. -/
  | coldReset
  /-- BOOT (R484). The boot ROM verifies and runs the firmware image. -/
  | boot (img : BootImage)
  /-- LAUNCH_CHECKS_DONE (R392). The launch dispatcher's checks end, moving the kernel from CHECKING to RUNNING with R390's set-up or to NONE with a failure status. -/
  | launchChecksDone (ctx : Nat)
  /-- KILL_COMPLETE (R409). A kill finishes stopping and discarding the partition, clears and releases the cells, retires the kernel as KILLED and leaves the context CREATED. -/
  | killComplete (ctx : Nat)
  /-- COPY_ELEMENT (R337). A copy engine serves one running command in rotation and performs its next element read, conversion and write, pinning pages as it goes. -/
  | copyElement (cell : Nat)
  /-- CYCLE (R478). Each arithmetic cycle every slot adds one to one time-loss counter, the histogram is sampled at a rotation's first cycle, and static energy is charged. -/
  | cycle
  /-- HOST_COPY_DROP (R213). The CXL host drops its copy of a line, writing it back first if modified, and the directory leaves HS. -/
  | hostCopyDrop (hostLine : Nat) (data : Option (List Byte))
  /-- ATTESTATION_REQUEST (R484). An SPDM attestation request arrives over MCTP and firmware answers it, signing with the device's identity key. -/
  | attestationRequest (request : List Byte)
  deriving DecidableEq, Repr

/-- The row of the opcode table an event is. DESIGN CHOICE, safe: log entry 14. -/
def Event.instr : Event → Instr
  | .illinst _ => .illinst
  | .postedArrive _ _ _ => .postedArrive
  | .postedFail _ _ _ => .postedFail
  | .loadReply _ _ _ _ _ => .loadReply
  | .storeCheckReply _ => .storeCheckReply
  | .storeAck _ _ _ => .storeAck
  | .homeRead _ => .homeRead
  | .homeWrite _ => .homeWrite
  | .collectRecallReply _ _ => .collectRecallReply
  | .redURequest _ _ _ => .redURequest
  | .uEviction _ _ => .uEviction
  | .invalidation _ _ => .invalidation
  | .peerInvalidation _ _ => .invalidation
  | .invalidationAck _ _ => .invalidationAck
  | .fenceMarker _ _ _ => .fenceMarker
  | .fenceMarkerAnswer _ _ => .fenceMarkerAnswer
  | .feRetry _ => .feRetry
  | .reservationExpiry _ => .reservationExpiry
  | .waitovf _ _ _ => .waitovf
  | .wakeAtSlot _ _ => .wakeAtSlot
  | .wakeAtRecord _ _ => .wakeAtRecord
  | .parklimWriteOut _ => .parklimWriteOut
  | .poolPickup _ _ => .poolPickup
  | .promoteAging _ _ => .promoteAging
  | .migrantArrival _ => .migrantArrival
  | .migrantAccepted _ _ => .migrantAccepted
  | .migrantRefused _ => .migrantRefused
  | .forwardedValue _ _ _ _ => .forwardedValue
  | .dividerDone _ => .dividerDone
  | .normaliserDone _ => .normaliserDone
  | .iterativeUnitDone _ => .iterativeUnitDone
  | .mailboxMessage _ => .mailboxMessage
  | .sendReply _ _ => .sendReply
  | .sendgMemberReply _ _ => .sendgMemberReply
  | .stageRead _ => .stageRead
  | .stageOwn _ _ => .stageOwn
  | .tileDrain _ _ => .tileDrain
  | .tileDrop _ _ _ => .tileDrop
  | .tileRecall _ _ _ => .tileRecall
  | .tileFillComplete _ _ _ => .tileFillComplete
  | .tileWritebackAck _ _ => .tileWritebackAck
  | .stageHoldExpiry _ _ => .stageHoldExpiry
  | .deferExpiry _ _ => .deferExpiry
  | .tfwdTransfer _ _ _ _ _ => .tfwdTransfer
  | .kstep _ => .kstep
  | .arrayCommandComplete _ _ => .arrayCommandComplete
  | .mtabldLoadComplete _ _ => .mtabldLoadComplete
  | .copyCommandComplete _ _ => .copyCommandComplete
  | .barrierBytes _ _ _ _ _ _ _ => .barrierBytes
  | .taskNotifyArrival _ _ _ => .taskNotifyArrival
  | .taskRead _ _ _ => .taskRead
  | .taskMatch _ _ _ => .taskMatch
  | .taskPlace _ _ _ => .taskPlace
  | .taskDecrement _ _ _ => .taskDecrement
  | .collAllJoined _ _ => .collAllJoined
  | .collChunkForward _ _ _ _ => .collChunkForward
  | .collChunkAck _ _ _ _ _ => .collChunkAck
  | .collMemberLost _ _ _ => .collMemberLost
  | .collRepairDone _ _ => .collRepairDone
  | .launchDoorbell _ _ => .launchDoorbell
  | .retire _ => .retire
  | .textFetch _ _ => .textFetch
  | .translationMiss _ _ _ => .translationMiss
  | .walkComplete _ _ => .walkComplete
  | .retryWakeTimer _ _ _ => .retryWakeTimer
  | .storageFaultAccept _ _ => .storageFaultAccept
  | .pageFillComplete _ _ _ _ => .pageFillComplete
  | .evictionWritebackDone _ _ _ => .evictionWritebackDone
  | .remoteAccess _ _ _ => .remoteAccess
  | .migrationComplete _ _ _ _ => .migrationComplete
  | .releaseNotice _ _ => .releaseNotice
  | .xlatInvAtSlice _ _ _ _ => .xlatInvAtSlice
  | .stoTransferComplete _ _ _ _ => .stoTransferComplete
  | .peerAccess _ _ _ => .peerAccess
  | .hostRead _ => .hostRead
  | .hostWrite _ _ => .hostWrite
  | .backInvalidationResponse _ _ => .backInvalidationResponse
  | .hostEventPost => .hostEventPost
  | .addCommand _ _ _ => .addCommand
  | .invalCommand _ _ _ => .invalCommand
  | .replyCommand _ _ _ => .replyCommand
  | .gangstepCommand _ _ _ => .gangstepCommand
  | .linkcmdEnable _ _ => .linkcmdEnable
  | .linkcmdFence _ _ => .linkcmdFence
  | .linkcmdDown _ _ => .linkcmdDown
  | .linkTrainingDone _ _ _ => .linkTrainingDone
  | .linkTrainingTimeout _ => .linkTrainingTimeout
  | .laneRetire _ _ _ => .laneRetire
  | .flitReplay _ _ => .flitReplay
  | .flitUncorrectable _ => .flitUncorrectable
  | .laneMarginMeasure _ _ _ _ => .laneMarginMeasure
  | .create _ => .create
  | .place _ => .place
  | .kill _ => .kill
  | .free _ => .free
  | .commandIllegalCode _ => .commandIllegalCode
  | .switchAnnounce _ _ => .switchAnnounce
  | .switchStamp _ => .switchStamp
  | .saveComplete _ => .saveComplete
  | .restoreComplete _ => .restoreComplete
  | .stopTimeout _ _ => .stopTimeout
  | .trapDelivery _ => .trapDelivery
  | .handlerStart _ => .handlerStart
  | .handlerStartTimeout _ => .handlerStartTimeout
  | .eventRingWrite _ _ => .eventRingWrite
  | .stop _ => .stop
  | .resume _ => .resume
  | .step _ => .step
  | .traceRecordWrite _ _ => .traceRecordWrite
  | .counterClear _ => .counterClear
  | .laneCounterClear _ _ => .laneCounterClear
  | .registerWrite _ _ => .registerWrite
  | .iftestRequest _ _ => .iftestRequest
  | .iftestDone _ _ _ => .iftestDone
  | .iftestReminder _ => .iftestReminder
  | .rowCounterWindow _ => .rowCounterWindow
  | .hwFaultDetected _ => .hwFaultDetected
  | .powerLimitWrite _ => .powerLimitWrite
  | .coldReset => .coldReset
  | .boot _ => .boot
  | .launchChecksDone _ => .launchChecksDone
  | .killComplete _ => .killComplete
  | .copyElement _ => .copyElement
  | .cycle => .cycle
  | .hostCopyDrop _ _ => .hostCopyDrop
  | .attestationRequest _ => .attestationRequest

/-! ### A thread and its registers (02, 05) -/

/-- The four states of a general register (R37). -/
inductive RegState where
  | empty | full | pending | failed
  deriving DecidableEq, Repr

/-- A general register: its state, its value, and the fault it holds in state X (R37). -/
structure GReg where
  st : RegState := .empty
  val : Word := 0
  held : Option HeldFault := none
  deriving DecidableEq, Repr

/-- What ends a park (R229): which units wake the thread, and why it parked. -/
inductive ParkWhy where
  /-- On a register in state P, as reader or writer (KIND 0x04). -/
  | reg (r : Nat)
  /-- On a place among the four posted producers (KIND 0x04, R39). -/
  | place
  /-- On a queue name: the queue and whether to pop (KIND 0x06, R233). -/
  | queue (qid : Nat) (pop : Bool)
  /-- On a translation or a storage fault (KIND 0x05). -/
  | translation (va : Word)
  /-- On a word: ldsync, stsync, ldmon (KIND 0x01 to 0x03). -/
  | word
  /-- In recv (R240). -/
  | recv
  /-- As a queued sender (KIND 0x07). -/
  | sender
  /-- On a barrier (KIND 0x08). -/
  | barrier
  /-- On a timeline (KIND 0x09). -/
  | timeline
  /-- On a collective (KIND 0x0A). -/
  | collective
  /-- On an SQE operation (KIND 0x05, R452). -/
  | ticket (chip op : Nat)
  /-- On a limit or a completion, with its KIND 0x0C reason (R229). -/
  | limit (reason : Nat)
  deriving DecidableEq, Repr

/-- A park: its time-loss class, its cause, and whether the wake completes the instruction (R10). -/
structure Park where
  mem : Bool
  why : ParkWhy
  completes : Bool := false
  deriving DecidableEq, Repr

/-- One element of a vector load, or the one element of a scalar load: index, address, size, physical place. -/
structure Elem where
  idx : Nat
  va : Word
  size : Nat
  pa : Nat
  deriving DecidableEq, Repr

/-- What a load writes when its elements have arrived. -/
inductive LoadDest where
  /-- A general register or queue name, sign- or zero-extended (R170). -/
  | greg (d : Nat) (signed : Bool)
  /-- Elements of a vector register of width bits each; vldb broadcasts to the listed elements (R200). -/
  | vreg (d : Nat) (bits : Nat)
  | vbcast (d : Nat) (bits : Nat) (elems : List Nat)
  deriving DecidableEq, Repr

/-- A load in flight: the elements still missing, those that have arrived with their bytes, those their homes refused with
the fault and its address, the number of its first request, and the queue entries it has popped, each by its queue + 256 × its
number, to be given back if it faults (R172, R199, R200, R233). -/
structure LoadWait where
  dest : LoadDest
  missing : List Elem
  got : List (Elem × List Byte) := []
  bad : List (Nat × Cause × Word) := []
  since : Nat := 0
  undo : List (Nat × Word) := []
  deriving DecidableEq, Repr

/-- What a thread in flight waits for. -/
inductive WaitFor where
  /-- The attempt has had no effect and starts again: the condition it waits for may hold by then. -/
  | retry
  /-- A load (R172, R200). -/
  | load (l : LoadWait)
  /-- A store's check reply: the elements with their bytes (R171, R199), and the local ones. -/
  | storeCheck (elems : List (Elem × List Byte)) (seqSt : Bool) (undo : List (Nat × Word))
  /-- A sequentially consistent store until it and its invalidations are acknowledged (R104). -/
  | storeDone (id home : Nat)
  /-- The divider, with the result it will write, the registers it takes when it completes and the queue entries it has
  popped (R160, R233). -/
  | divider (d : Nat) (v : Word) (takes : List Nat) (undo : List (Nat × Word))
  /-- The normaliser or the iterative unit: the effect is made, the turns are forfeited (R78, R186). -/
  | unit
  /-- A red waits until its core holds the line in U (R225). -/
  | redU (line : Nat)
  /-- An access to a word performed at its home (R214, R219): its request, its destination, the tries that have failed and
  the count sampled at the first (R215, R432), the queue entries it has popped. -/
  | fe (w : WriteReq) (d : Nat) (tries limit : Nat) (undo : List (Nat × Word))
  /-- A send until its status reply (R238): its destination, the registers it takes when it completes and the queue entries it has
  popped (R233). -/
  | reply (d : Nat) (takes : List Nat) (undo : List (Nat × Word))
  /-- A sendg until every member has replied: replies missing, members that accepted (R239). -/
  | members (d missing accepted : Nat)
  /-- A forwarded tile until the target's reply (R273): the destination, the handle. -/
  | tile (d : Nat) (handle : BitVec 32)
  /-- A migrant on its way: the slot is reserved for it (R142). -/
  | migrate
  /-- In its pass, at whose end it leaves for a core (R138): by migr, with its destination, or by an access. -/
  | departing (target : Nat) (migr : Option Nat)
  /-- A fence whose conditions do not hold yet (R226). -/
  | fence
  /-- A susp or a yield in its pass: where it ends, the thread is written out with this STATE (R138). -/
  | leaving (state : Nat)
  deriving DecidableEq, Repr

/-- A raised fault as the record will hold it (R417, R418). -/
structure Trap where
  cause : Cause
  info : Word
  addr : Word
  restart : BitVec 48
  word : Word
  producer : Option (BitVec 48) := none
  /-- The cycle in which it was raised: faults of one core of one cycle have their handlers started in slot order (R432). -/
  cycle : Nat := 0
  deriving DecidableEq, Repr

/-- The forms of a thread that holds a slot (R124, R404, R475). -/
inductive Form where
  | ready
  | inFlight (w : WaitFor)
  | parked (p : Park)
  /-- A fault raised, its delivery waiting for the drains of R419. -/
  | trapping (t : Trap)
  /-- Delivered: the slot record holds the thread (R420). -/
  | trapped
  /-- At rest under the debugger (R475); what it was before: parked or trapped, or neither. -/
  | stopped (parked : Option Park) (wasTrapped : Bool)
  deriving DecidableEq, Repr

/-- A thread in a slot. -/
structure Thread where
  tid : Nat
  ctx : Nat
  pc : BitVec 48
  regs : Vector GReg 28 := Vector.replicate 28 {}
  vecs : Vector Vec 32 := Vector.replicate 32 0
  k1 : BitVec 16 := 0
  k2 : BitVec 16 := 0
  k3 : BitVec 16 := 0
  /-- STATUS without PART, which the core holds (R125). -/
  status : Word := 0
  fstat : Word := 0
  fmtp : Word := 0
  sclp : Word := 0
  epc : Word := 0
  ecause : Word := 0
  einfo : Word := 0
  eaddr : Word := 0
  /-- Address of the task record it runs, or 0 (R322). -/
  task : Word := 0
  /-- The queue each name is bound to (R232). -/
  binds : Vector (Option Nat) 4 := Vector.replicate 4 none
  form : Form := .ready
  /-- The cycle at which its pipeline pass ends (R127). -/
  readyAt : Nat := 0
  /-- The cycle of its last issue (R478). -/
  issued : Nat := 0
  /-- Device time at which its park began, in 1/8 ns, with the time from before a gang stop taken off (R131). -/
  parkT : Nat := 0
  /-- Merge floor (R110), in 1/8 ns. -/
  floor : Nat := 0
  /-- Its next read carries the no-merge bit (R105). -/
  noMerge : Bool := false
  /-- Elements of its load that wait for store-queue entries covering them in part, with the entries' numbers: each then
  takes its value from the L1 or the home (R98). -/
  behind : List (Nat × List Nat) := []
  /-- Homes written since the last release or fence (R101). -/
  homes : List Nat := []
  /-- Homes a fence marker has been sent to and not answered (R101). -/
  markers : List Nat := []
  /-- Acquire atomics outstanding: no later memory access issues (R224). -/
  acqOut : Nat := 0
  /-- Its migration was refused: its next access is made remotely (R142). -/
  stay : Bool := false
  /-- Comparators suppressed for the next instruction (R476). -/
  noCmp : Bool := false
  /-- The debugger's step (R475): 0 none, 1 the thread will issue one instruction, 2 it has and must stop. -/
  dbgStep : Nat := 0
  /-- The ENERGY value its last read returned (R412). -/
  seenEnergy : Nat := 0
  /-- It has begun a deprecated block instruction, and is not written out before that ends (R430). -/
  inBlk : Bool := false
  /-- A fault of one of its stores that came back while it could not take it: it is raised as soon as it can (R121). -/
  owed : Option Trap := none
  deriving DecidableEq, Repr

/-- Who is in a slot (R124, R404). -/
inductive Occupant where
  | vacant
  /-- Reserved for a migrant that left it and may come back (R142). -/
  | forMigrant (tid ctx : Nat)
  /-- Reserved at the target for an accepted migrant. -/
  | forArrival (tid ctx : Nat)
  /-- Reserved for a pinned thread written out by susp, with its bindings (R144, R232). -/
  | forPinned (tid ctx : Nat) (binds : Vector (Option Nat) 4)
  | thread (t : Thread)
  deriving DecidableEq, Repr

/-- A slot of a core. -/
structure Slot where
  occ : Occupant := .vacant
  /-- The wake latch (R129). -/
  latch : Option Msg := none
  /-- The mailbox, oldest first, at most 4 (R235). -/
  mailbox : List Msg := []
  /-- Time-loss counters of classes 0 to 2 (R478), 48 bits, saturating. -/
  loss : Vector Nat 3 := Vector.replicate 3 0
  /-- The counter of class 3, vacant, counts every cycle since reset but this many (R478). -/
  vacLag : Nat := 0
  deriving DecidableEq, Repr

/-! ### A core (04 to 07, 09, 13) -/

/-- A line of the L1 data cache: a shared copy, or update-only partials of the words touched (R95, R114). -/
inductive L1Line where
  | shared (pa : Nat) (data : List Byte)
  | update (pa : Nat) (op : AmoOp) (parts : Tab Word)
  deriving DecidableEq, Repr

/-- A fill in flight (R95): its request's number, the line, its address, whether an invalidation, or a store of its core
to the line, has marked it. -/
structure FillReq where
  id : Nat
  va : Nat
  pa : Nat
  marked : Bool := false
  deriving DecidableEq, Repr

/-- An entry of the store queue: a store's bytes by address, or the request half of an atomic (R100, R224). -/
structure SqEnt where
  id : Nat
  th : Thr
  va : Word
  cells : List (Nat × Byte)
  /-- The bytes' home: a slice number, or 1,024 plus a core for a scratchpad. -/
  home : Nat
  req : Option WriteReq := none
  /-- An atomic with a release: the scope whose invalidations it waits for before it is sent (R104). -/
  rel : Option (BitVec 3) := none
  sent : Bool := false
  /-- It follows a store that came back with a fault: it is not sent until the handler resumes the thread (R121). -/
  held : Bool := false
  deriving DecidableEq, Repr

/-- A role queue (R230, R231). -/
structure RoleQueue where
  data : List Word := []
  closed : Bool := false
  deriving DecidableEq, Repr

/-- A decode-table bank (R66 to R68): 256 entries of 19 bits by code, CODE, and whether it can encode. -/
structure Bank where
  entries : Tab Nat := []
  code : Nat := 0
  encodable : Bool := false
  deriving DecidableEq, Repr

/-- The states of a tile slot (R258). -/
inductive TileSlotState where
  | empty | filling | ready | draining
  deriving DecidableEq, Repr

/-- A tile slot of a core (R257). -/
structure TileSlot where
  st : TileSlotState := .empty
  lost : Bool := false
  ctx : Nat := 0
  handle : BitVec 32 := 0
  own : Bool := false
  mod : Bool := false
  defer : Bool := false
  off : Nat := 0
  span : Nat := 0
  base : Word := 0
  /-- Record of the task that staged it in own mode, or 0. -/
  task : Word := 0
  /-- The level its stage is judged at (R267). -/
  priv : Nat := 0
  /-- A recall arrived during the fill: it is answered when the fill completes. -/
  recalled : Bool := false
  /-- It fills by an upgrade of a read copy, and its stage has not been served: the home still counts that copy (R255). -/
  upgrade : Bool := false
  /-- When its deferral ends, in 1/8 ns (R263). -/
  deferEnd : Nat := 0
  /-- The home refused the stage: the next use raises PROT (R267). -/
  refused : Bool := false
  /-- The tdrain, task.done or recall that drains it lets the slot end lost instead of free (R258). -/
  endsLost : Bool := false
  /-- Threads parked on it, woken when it is ready or freed. -/
  waiters : List Thr := []
  deriving DecidableEq, Repr

/-- A forwarding entry (R143). -/
structure Fwd where
  reg : Nat
  /-- The thread, at the slot it left. -/
  tid : Nat
  ctx : Nat
  slot : Nat
  /-- Where the migrant was accepted; none until the target has answered. -/
  target : Option Nat := none
  held : Option Posted := none
  deriving DecidableEq, Repr

/-- The states of a copy or array context (R286, R333). -/
inductive EngState where
  | free | idle | busy | faulted | releasing
  deriving DecidableEq, Repr

/-- A command of a copy context: the registers it copied and its progress (R336, R342). -/
structure CopyCmd where
  n : Nat
  th : Thr
  priv : BitVec 2
  fill : Bool
  src : Word
  dst : Word
  regs : Vector Word 38 := Vector.replicate 38 0
  /-- Index of the next element. -/
  next : Nat := 0
  /-- Pages pinned so far, by ring-entry address. -/
  pins : List Nat := []
  status : Nat := 0
  /-- Bytes for 32-byte units of the B-operand store that later elements write too: a unit is written whole, so that a k-step sees
  it old or new (R287, R351). -/
  pend : List Host.Cell := []
  /-- Every element has moved, or the command has failed. -/
  finished : Bool := false
  /-- The bank XCTL.TBANK names, as it stood at issue (R338). -/
  bank : Bank := {}
  /-- Its barrier update has been sent, and has been performed or refused (R334, R340). -/
  barSent : Bool := false
  barDone : Bool := false
  deriving DecidableEq, Repr

/-- A copy context (R331 to R335). -/
structure CopyCtx where
  st : EngState := .free
  ctx : Nat := 0
  tid : Nat := 0
  /-- The owner's slot where it was last known. -/
  slot : Nat := 0
  status : Nat := 0
  last : Nat := 0
  line : Nat := 0
  regs : Vector Word 38 := Vector.replicate 38 0
  queue : List CopyCmd := []
  /-- Commands that have completed with a status other than 0, by number (R334, R348). -/
  ended : Tab Nat := []
  /-- Armed waiters: the thread, the value it waits for, the value at its last tl.arm before (R348). -/
  arms : List (Thr × Nat × Nat) := []
  deriving DecidableEq, Repr

/-- A collective slot of a core (R363, R366). -/
structure CollSlot where
  /-- A coll.start of its group has been made since the launch. -/
  used : Bool := false
  st : Nat := 0
  group : Nat := 0
  number : Nat := 0
  status : Nat := 0
  op : Word := 0
  src : Word := 0
  dst : Word := 0
  len : Nat := 0
  priv : Nat := 0
  th : Option Thr := none
  chunksDone : Nat := 0
  lost : Bool := false
  survivors : Nat := 0
  deriving DecidableEq, Repr

/-- A parked sender in the sender queue (R235). -/
structure Sender where
  tid : Nat
  ctx : Nat
  slot : Nat
  target : Nat
  word : Word
  deriving DecidableEq, Repr

/-- A core. -/
structure Core where
  /-- Slots of the partition: 16, 8 or 4 (R145). -/
  part : Nat := 16
  /-- The context it serves and its logical number (R391, R398). -/
  owner : Option (Nat × Nat) := none
  /-- The cycle of its last issue: one instruction a cycle (R127). -/
  lastIssue : Option Nat := none
  /-- At most 1,024 lines (R14). -/
  l1 : Tab L1Line := []
  fills : List FillReq := []
  /-- The number of the next read request. -/
  reqId : Nat := 0
  /-- Instruction lines, at most 1,024 (R14): key 4 × the line's address / 32 + the privilege level; eight words (R385). -/
  itext : Tab (List (BitVec 32)) := []
  sq : List SqEnt := []
  /-- The virtual line of the red for which a slot has last asked for U, by slot (R114). -/
  redVa : Tab Nat := []
  /-- The next store-queue entry number. -/
  sqId : Nat := 0
  /-- Recent-store filter stamps, 64 entries (R110), in 1/8 ns. -/
  filter : Tab Nat := []
  roleq : Vector RoleQueue 4 := Vector.replicate 4 {}
  senders : List Sender := []
  /-- Room promised to loads in flight whose destination is a queue name, by QID (R233). -/
  qresv : Tab Nat := []
  /-- For each queue, the number of its next entry that goes to an instruction in flight, and the numbers of the entries at its head
  that such instructions have given back (R233). -/
  qnext : Tab Nat := []
  qback : Tab (List Nat) := []
  /-- Threads parked on a queue, oldest park first: QID, whether to pop, the thread (R231). -/
  qparked : List (Nat × Bool × Thr) := []
  banks : Vector Bank 4 := Vector.replicate 4 {}
  tslots : Vector TileSlot 32 := Vector.replicate 32 {}
  fwd : List Fwd := []
  /-- Arrival entries in use: migrants accepted and not yet in their slot (R142). -/
  arrivals : Nat := 0
  divq : List Thr := []
  normq : List Thr := []
  iterq : List Thr := []
  copy : Vector CopyCtx 4 := Vector.replicate 4 {}
  colls : Vector CollSlot 4 := Vector.replicate 4 {}
  /-- Address comparators, two doublewords each (R474). -/
  cmps : Vector (Word × Word) 4 := Vector.replicate 4 (0, 0)
  stopcmd : Word := 0
  /-- Histogram bins 1 to 16 (R478). -/
  hist : Vector Nat 16 := Vector.replicate 16 0
  /-- Bin 0 of the histogram counts every sixteenth cycle since reset but this many (R478). -/
  hist0Lag : Int := 0
  wakeDrops : Nat := 0
  msgDrops : Nat := 0
  fenced : Bool := false
  /-- Machine-level handler starts waiting for a slot (R421). -/
  hwait : List Handler := []
  /-- A repart is in its pass: the core takes no migrant, pool or teller work (R152). -/
  closed : Bool := false
  deriving DecidableEq, Repr

/-! ### A cell: the array and the cell's fences (11, 21) -/

/-- The kinds of array commands (R296, R298). -/
inductive ArrOp where
  | mma | mmas | mscale | acczero | accld | accst
  deriving DecidableEq, Repr

/-- A tile as an array command reads or writes it (R278, R280, R298): its handle, its staged range, its descriptor. -/
structure ArrTile where
  handle : BitVec 32
  off : Nat
  span : Nat
  base : Word
  rows : Nat
  cols : Nat
  pitch : Nat
  tag : BitVec 16
  deriving DecidableEq, Repr

/-- A queued array command with the registers and words it copied, and its progress (R287). -/
structure ArrCmd where
  n : Nat
  th : Thr
  priv : BitVec 2
  core : Nat
  op : ArrOp
  z : Bool := false
  a : Word := 0
  b : Word := 0
  regs : Vector Word 7 := Vector.replicate 7 0
  step : Nat := 0
  /-- Its operand tile; the staged range is given to no other handle until the command has finished (R296). -/
  tile : Option ArrTile := none
  status : Nat := 0
  finished : Bool := false
  deriving DecidableEq, Repr

/-- A pending read or write of accumulator elements that waits for commands (R299). -/
structure AccWait where
  th : Thr
  reg : Nat
  n : Nat
  row : Nat
  col : Nat
  pc : BitVec 48
  deriving DecidableEq, Repr

/-- An array engine context (R285 to R291). -/
structure EngCtx where
  st : EngState := .free
  ctx : Nat := 0
  tid : Nat := 0
  core : Nat := 0
  slot : Nat := 0
  status : Nat := 0
  last : Nat := 0
  line : Nat := 0
  regs : Vector Word 7 := Vector.replicate 7 0
  queue : List ArrCmd := []
  astream : List Word := []
  scaleq : List Word := []
  resultq : List Word := []
  gets : List AccWait := []
  ended : Tab Nat := []
  arms : List (Thr × Nat × Nat) := []
  /-- Tids whose mstat with OP 8 waits for the context to go FREE (R300). -/
  leavers : List Nat := []
  deriving DecidableEq, Repr

/-- A cell. -/
structure Cell where
  owner : Option Nat := none
  eng : Vector EngCtx 4 := Vector.replicate 4 {}
  banks : Vector Bank 4 := Vector.replicate 4 {}
  /-- Bank loads waiting until no command names the bank: the bank, its new contents, the loading thread (R292). -/
  mtabld : List (Nat × Bank × Thr) := []
  /-- The context whose k-step is tried next (R287). -/
  rot : Nat := 0
  /-- The copy command served next (R338). -/
  copyRot : Nat := 0
  arrFenced : Bool := false
  copyFenced : Bool := false
  fenced : Bool := false
  /-- Residue repeats, 32 bits (R290, R470). -/
  residue : Nat := 0
  /-- The core with the assayer role (R15). -/
  assayer : Nat := 0
  /-- Active time since the last passing test, ms, 32 bits, and its fraction in 1/8 ns (R470, R481). -/
  active : Nat := 0
  activeFrac : Nat := 0
  test : Word := 0
  /-- The mode the running test sampled: host-assisted, so every result reaches the host in an error record (R24, R25). -/
  testHost : Bool := false
  deriving DecidableEq, Repr

/-! ### Words, lines, slices (04, 08, 10, 19) -/

/-- A waiting thread at a word: kind S waits for empty, kind L for full (R205, R209). -/
structure WordWait where
  th : Thr
  isS : Bool
  va : Word
  time : Nat
  deriving DecidableEq, Repr

/-- A reservation: the waiter that may complete next, the tick at which it was granted and that of its registration
(R206, R208, R209). -/
structure WordResv where
  th : Thr
  va : Word
  since : Nat
  time : Nat := 0
  deriving DecidableEq, Repr

/-- A monitor, with the tick of its registration (R209, R219). -/
structure WordMon where
  th : Thr
  va : Word
  time : Nat
  deriving DecidableEq, Repr

/-- The state of an 8-byte word beside its data (R205). slice is the slice whose wait table holds the entries. -/
structure WordMeta where
  fe : Bool := true
  queue : List WordWait := []
  resv : Option WordResv := none
  mons : List WordMon := []
  w : Bool := false
  /-- The word's virtual address as the chain append that set W knew it (R210). -/
  wva : Word := 0
  slice : Nat := 0
  deriving DecidableEq, Repr

/-- A partial kept at the home until the next collect (R116, R117). -/
structure Partial where
  ctx : Nat
  lcore : Nat
  core : Nat
  parts : Tab Word
  deriving DecidableEq, Repr

/-- An invalidation outstanding: the core or peer device it was sent to and the thread whose write caused it (R101). -/
structure InvOut where
  core : Nat
  writer : Option Thr
  deriving DecidableEq, Repr

/-- A line as DRAM holds it: its bytes, and the full/empty bits of its words, which travel with them (R97). -/
structure DramLine where
  data : List Byte := []
  fe : List Bool := []
  deriving DecidableEq, Repr

/-- The directory entry of a 32-byte line (R213). -/
structure DirEntry where
  /-- The cores, and the peer devices as units of the mesh, that hold the line or will when its data arrives (R95, R101). -/
  sharers : List Nat := []
  /-- The virtual line under which L1s hold it, or will when their fills arrive (R93). -/
  va : Nat := 0
  /-- The host holds a copy (HS), and whether a back-invalidation has been sent. -/
  host : Bool := false
  snooped : Bool := false
  /-- That back-invalidation asks for the data of a read, after which the line stays in HS; the host has shown its data. -/
  reading : Bool := false
  shown : Bool := false
  /-- The operation of the U copies, the cores that hold one, those recalled and not yet answered. -/
  uop : Option AmoOp := none
  ucores : List Nat := []
  recalled : List Nat := []
  parts : List Partial := []
  invs : List InvOut := []
  /-- Bytes the device itself has written while the host's answer is outstanding: they stand over the host's (R213). -/
  above : List Host.Cell := []
  deriving DecidableEq, Repr

/-- A cached translation (R437): the page, its size in address bits, the leaf and where it lies, the counters. -/
structure XEnt where
  va : Nat
  bits : Nat
  leaf : Word
  leafPa : Nat
  dirty : Bool
  counts : Vector Nat 8 := Vector.replicate 8 0
  /-- Each context's right in the leaf's domain as the slice read it at the translation (R396). -/
  rights : Tab Nat := []
  deriving DecidableEq, Repr

/-- A coalescing entry (R437, R438): the page and its waiters; what it waits for. -/
structure Coal where
  page : Nat
  waiters : List Waiter
  /-- Its walk: 0 none, 1 it waits for one of the slice's 8 walkers, 2 a walker is on it (R14, R438). -/
  walk : Nat := 0
  /-- 1: a MISSING event has been posted (R439); 2: the page's storage fault has been handed to its engine (R445). -/
  held : Nat := 0
  deriving DecidableEq, Repr

/-- A send of a tile's data (R261): the beats that leave, one a network cycle from start on, the slots that take them all, and
those that have joined it with the beats they will still miss. -/
structure TileSend where
  idx : Nat
  beats : List Nat
  start : Nat
  dests : List (Nat × Nat)
  joiners : List (Nat × Nat × List Nat) := []
  deriving DecidableEq, Repr

/-- An engine's command: of an array (cell, context, number) or of a core's copy contexts (core, context, number). -/
structure CmdName where
  array : Bool
  at_ : Nat
  e : Nat
  n : Nat
  deriving DecidableEq, Repr

/-- A tile entry of a slice (R251): TO with an owner, TS with sharers, TD when demoted, else TI (R254). -/
structure TileEnt where
  idx : Nat
  ctx : Nat
  handle : BitVec 32
  tag : BitVec 16
  base : Word
  span : Nat
  /-- Read copies: core and tile slot, up to 16; past them the compute chiplets they are on. -/
  sharers : List (Nat × Nat) := []
  mask : List Nat := []
  /-- The own copy. -/
  owner : Option (Nat × Nat) := none
  demoted : Bool := false
  /-- Copies recalled and not yet answered. -/
  recalls : List (Nat × Nat) := []
  /-- The promoted slots whose use the home still guarantees (R256): core and tile slot. -/
  hold : List (Nat × Nat) := []
  /-- When that hold ends, in 1/8 ns. -/
  holdEnd : Nat := 0
  /-- A line access waits for this tile: it is performed before any stage that comes after it (R256). -/
  lineDue : Bool := false
  /-- A stage or an engine's tile write is being served: line accesses wait (R255). -/
  serving : Bool := false
  /-- A tfree is being served: every other event of the tile waits (R255, R266). -/
  freeing : Bool := false
  /-- The engine command whose tile write is being served: every other event waits while the command runs (R255). -/
  engine : Option CmdName := none
  deriving DecidableEq, Repr

/-- The counts of a DRAM row (R480): its die, bank and row in [31:0], errors corrected, activations in the window. -/
structure RowCount where
  id : Word
  corrected : Nat
  acts : Nat
  deriving DecidableEq, Repr

/-- A table pointer of a page-walk cache (R437): its level, the address bits its entry maps, and the table it names. -/
structure WalkPtr where
  level : Nat
  tag : Nat
  table : Nat
  deriving DecidableEq, Repr

/-- A checked chunk (R28, R386): the stored form's place and address, its leaf, and the form as it was checked. -/
structure Chunk where
  pa : Nat
  va : Nat
  leaf : List Byte
  form : List Byte
  deriving DecidableEq, Repr

/-- A slice, with the row counters of the DRAM column beside it. -/
structure Slice where
  xlat : List XEnt := []
  coal : List Coal := []
  tiles : List TileEnt := []
  /-- Sends of tiles whose data is leaving the slice (R261). -/
  sends : List TileSend := []
  /-- The lines its data array holds, at most 196,608, and whether each is modified (R14, R520). -/
  lines : Tab Bool := []
  /-- Those of them its hot-line array holds too, at most 4,096 (R14). -/
  hot : List Nat := []
  /-- The page-walk cache (R437). -/
  pwc : List WalkPtr := []
  /-- The last 16 malformed entries reported: address, and the base and size in bits of the range each governs (R435). -/
  reported : List (Nat × Nat × Nat) := []
  /-- Checked chunks, at most 512 (R386). -/
  chunks : List Chunk := []
  /-- Replay log control, and the last action logged: requester and word (R479). -/
  replay0 : Word := 0
  replay1 : Word := 0
  lastLog : Option (Nat × Nat × Nat) := none
  /-- The 64 tracked rows of the cell's DRAM column, and the other rows activated in the window (R480). -/
  rows : List RowCount := []
  spare : List RowCount := []
  deriving DecidableEq, Repr

/-! ### A context and its kernel (12, 15 to 18) -/

/-- The states of a context (R401). -/
inductive CtxState where
  | free | created | resident | stopping | saved | restoring | killing
  deriving DecidableEq, Repr

/-- The states of a kernel (R392). -/
inductive KernelState where
  | none | checking | running | retiring
  deriving DecidableEq, Repr

/-- A code object as the fetch reads it (R385, R387). -/
structure CodeObj where
  textBase : Nat
  nchunk : Nat
  chunkTab : Word
  /-- Its leaf table as it stood when the object was installed: a fetched word is the word it held then (R28, R386). -/
  leaves : List Byte
  deriving DecidableEq, Repr

/-- A kernel (R383, R388, R392). -/
structure Kernel where
  st : KernelState := .none
  desc : Word := 0
  kstat : Word := 0
  kcb : Word := 0
  obj : Option CodeObj := none
  slow : Bool := false
  killed : Bool := false
  fmtBase : Word := 0
  sclBase : Word := 0
  methBase : Word := 0
  methCount : Nat := 0
  tstkBase : Word := 0
  tstkSize : Nat := 0
  deriving DecidableEq, Repr

/-- An entry of a continuation pool (R135): the tid, the core it was last resident on, its time stamp. -/
structure PoolEnt where
  tid : Nat
  core : Nat
  since : Nat
  deriving DecidableEq, Repr

/-- A task in a task queue (R314, R315): the record's address, its priority now, its stamp, its method once matched. -/
structure TaskEnt where
  addr : Word
  prio : Nat
  since : Nat
  matched : Option Nat := none
  /-- Waits for the host's or the supervisor's answer (R319). -/
  asked : Bool := false
  /-- Waits for arena units or tile entries (R317). -/
  waits : Bool := false
  deriving DecidableEq, Repr

/-- A cached method entry (R309). -/
structure MethodEnt where
  key : Nat
  index : Nat
  deriving DecidableEq, Repr

/-- Trace control and the queues of one context (R472). -/
structure Trace where
  w0 : Word := 0
  w1 : Word := 0
  head : Word := 0
  dropped : Word := 0
  /-- Queued records by chiplet, each four doublewords. -/
  queues : Tab (List (List Word)) := []
  /-- Drops since the last record written. -/
  gap : Nat := 0
  deriving DecidableEq, Repr

/-- A collective of a group in progress at its home core group (R365 to R370). -/
structure Coll where
  group : Nat
  number : Nat
  /-- Positions that have joined; positions lost, a peer's after the local ones. -/
  joined : List Nat
  lost : List Nat := []
  begun : Bool := false
  held : Bool := false
  /-- A rebuild is going on (R371). -/
  repair : Bool := false
  /-- The chunk being combined: every earlier one is acknowledged. -/
  chunk : Nat := 0
  /-- Combined values of the chunk by rank, its final value, the ranks that have written it. -/
  vals : Tab (List Byte) := []
  final : Option (List Byte) := none
  wrote : List Nat := []
  shrinkSeq : Option Nat := none
  /-- Frames pinned, by ring entry (R342). -/
  pins : List Nat := []
  /-- Every peer's collective has joined (R366). -/
  peersIn : Bool := false
  /-- Chunks acknowledged before the last loss: of an allreduce, the root sends those from chunk on again (R371). -/
  acked : Nat := 0
  /-- The host's reply to a loss, taken while the context was away (R370, R373). -/
  answer : Option Nat := none
  deriving DecidableEq, Repr

/-- A kernel status record that waits for its page (R392): its address, or that of the launch descriptor that holds it, and the
record's eight doublewords. -/
structure KstatWait where
  inDesc : Bool
  addr : Word
  words : List Word
  deriving DecidableEq, Repr

/-- A message in flight. Those of the ordered class name their source and destination: one may not overtake an
earlier one of the same pair (R107). -/
structure Flight where
  ev : Event
  chan : Option (Nat × Nat) := none
  deriving DecidableEq, Repr

/-- A context. Its table entry lies in memory (R395); this is what the device keeps beside it. -/
structure Ctx where
  st : CtxState := .free
  parklim : Word := 0
  promote : Word := 0
  feretry : Word := 0
  migthr : Word := 0
  tvec : Word := 0
  /-- Returned tids, last returned first, and the first tid never taken: the free list in its order (DESIGN CHOICE, unsafe: log entry 6). -/
  freeTids : List Nat := []
  tidNext : Nat := 0
  /-- The core a thread was last resident on, by tid (R135). -/
  lastCore : Tab Nat := []
  /-- Homes a thread that is in no slot has written since its last release or fence, by tid (R101). -/
  homes : Tab (List Nat) := []
  /-- What goes with a thread that is in no slot, by tid: its next read may not be merged (R105), and the ENERGY value its last
  read returned (R412). -/
  carried : Tab (Bool × Nat) := []
  /-- The value each timeline had at a thread's last tl.arm of it (R348): key (tid × 4,096 + logical core) × 8 + its selector. -/
  lastArm : Tab Nat := []
  /-- Tids whose thread ended and whose last store is not yet acknowledged (R148). -/
  ending : List (Nat × Nat) := []
  /-- Pools: key 4 × chiplet + priority (R135). -/
  pool : Tab (List PoolEnt) := []
  /-- Task queues: key 16 × chiplet + queue (R314). -/
  taskq : Tab (List TaskEnt) := []
  /-- Task links outstanding: predecessor index to successor indexes are in memory; units of the arena in use (R317). -/
  units : List Nat := []
  /-- The tellers' method caches by chiplet, latest last, at most 64 entries each (R309). -/
  mcache : Tab (List MethodEnt) := []
  kernel : Kernel := {}
  rtobj : Option CodeObj := none
  /-- Events waiting for the ring, in the order raised (R423). -/
  evwait : List CtxEvent := []
  trace : Trace := {}
  /-- A deferral has been made for this switch (R411). -/
  deferred : Bool := false
  /-- The stage of a stop, a kill or a restore (R402, R403): 2n while step n is done, 2n - 1 while it waits for the host's
  command; 12 and 11 for a restore, 20 for a first placement; 0 none. -/
  gstep : Nat := 0
  gangHost : Bool := false
  /-- Messages taken off the mesh at a stop, in arrival order, with the hops that remain (R403). -/
  spilled : List (Flight × Nat) := []
  /-- Entries ever entered in each pool and task queue: the next one's place in the vault (R135, R314). -/
  poolAt : Tab Nat := []
  taskAt : Tab Nat := []
  /-- Cells of the partition in virtual-cell order (R398), and those of the partition it was last saved from. -/
  cells : List Nat := []
  lastCells : List Nat := []
  colls : List Coll := []
  collNum : Tab Nat := []
  /-- Commands the host has written and the controller has not answered (R400). -/
  cmds : List Nat := []
  /-- Device time at which the last stop began, in 1/8 ns (R131, R403). -/
  stopAt : Nat := 0
  /-- The saved state block: the cores, cells and slots' state that has no stated layout (R405). -/
  savedCores : Tab Core := []
  savedCells : Tab Cell := []
  savedSlots : Tab Slot := []
  savedWords : Tab WordMeta := []
  /-- Energy not yet in the table, in pJ (R412, R413). -/
  energyPj : Nat := 0
  /-- Kernel status records that wait for a page (R392). -/
  kwait : List KstatWait := []
  /-- A kill waits until the stop or the restore completes (R401). -/
  killPending : Bool := false
  deriving DecidableEq, Repr

/-! ### Storage queue engines, links, host (19 to 21) -/

/-- A programmed transfer (R450 to R452): who issued it and at what level, its descriptor and where that lies. -/
structure Transfer where
  th : Thr
  priv : Nat
  read : Bool
  buf : Word
  len : Nat
  drive : Nat
  lba : Nat
  fua : Bool
  bar : Word
  desc : Word
  /-- Frames pinned, by ring entry. -/
  pins : List Nat := []
  /-- Its commands have gone to the drive. -/
  sent : Bool := false
  /-- It is over but for the update at its barrier. -/
  ended : Bool := false
  /-- The places of its buffer's pages, once they are translated (R451). -/
  pages : List Nat := []
  /-- The threads parked in sto.sync on it. -/
  waiters : List Thr := []
  /-- Its context has been killed: the ticket goes when the transfer is complete (R455). -/
  orphan : Bool := false
  /-- Its status, once it is complete. -/
  result : Option Nat := none
  deriving DecidableEq, Repr

/-- The kinds of SQE operations (R441). -/
inductive SqeOp where
  /-- A fault: frame 0 until one is popped; the ring slot an eviction has emptied for it (R445). -/
  | fill (va : Nat) (frame : Nat) (slot : Option Nat)
  /-- An eviction for the fill of forVa: the leaf it will restore on failure, the ring entry's address, the fill's
  region's slot; sent once the write-back, or its absence, has been answered for. -/
  | evict (va : Nat) (forVa : Nat) (slot : Nat) (oldLeaf : Word) (entry : Nat) (sent : Bool)
  /-- A migration; sent once the page's read has gone to the peer (R449). -/
  | migrate (va : Nat) (bits : Nat) (frame : Nat) (ctx : Nat) (sent : Bool)
  /-- A programmed transfer (R451). -/
  | transfer (x : Transfer)
  deriving DecidableEq, Repr

/-- A command to a drive (R445, R451): what is written, if it is a write. -/
structure NvmeCmd where
  drive : Nat
  lba : Nat
  bytes : Nat
  fua : Bool
  data : Option (List Byte)
  deriving DecidableEq, Repr

/-- An I/O queue pair of a drive, as its engine keeps it (R465): the submission tail and the completion head, the phase tag of the next
completion, and the operations whose commands are outstanding, one entry a command. -/
structure NvmePair where
  tail : Nat := 0
  head : Nat := 0
  phase : Bool := true
  out : List Nat := []
  deriving DecidableEq, Repr

/-- A storage queue engine (R441). -/
structure Sqe where
  /-- Operations in flight by number, 0 to 1,023. -/
  ops : Tab (Option SqeOp) := []
  /-- Generations of the operation numbers (R451). -/
  gens : Tab Nat := []
  /-- Pages offered and not yet accepted, in order (R441), and those that wait for a victim or the host (R445). -/
  offers : List Nat := []
  /-- The leaf of a page in FILL, EVICT or MIGR as the engine found it, with its place: the engine's own write stands
  (R440). -/
  leaves : List (Nat × Word × Nat) := []
  waiting : List Nat := []
  /-- Rest of frames kept for 4 KiB migrations: colour and block addresses (R449). -/
  parts4k : List (Nat × Nat) := []
  /-- Its queue pairs: the two of drive d are 2d and 2d + 1 (R465); and the commands, by operation, that wait for room in one. -/
  pairs : Tab NvmePair := []
  backlog : List (Nat × NvmeCmd) := []
  deriving DecidableEq, Repr

/-- The states of a link (R457). -/
inductive LinkState where
  | down | training | up | degraded | fenced
  deriving DecidableEq, Repr

/-- A lane's counters (R468) and whether it is retired (R458). -/
structure Lane where
  corrected : Nat := 0
  bad : Nat := 0
  width : Nat := 0
  height : Nat := 0
  retired : Bool := false
  deriving DecidableEq, Repr

/-- A flit that is sent again until its CRC holds (R458): its sequence number, the failures in a row, the device time of its
eighth send. -/
structure FlitTry where
  seq : Nat
  failures : Nat
  eighth : Nat
  deriving DecidableEq, Repr

/-- A link (R457, R461). -/
structure Link where
  st : LinkState := .down
  active : Nat := 0
  failed : Nat := 0
  replays : Nat := 0
  /-- The flit that failed last. -/
  flit : Option FlitTry := none
  lanes : Tab Lane := []
  deriving DecidableEq, Repr

/-- A host event waiting for room in the ring (R463). -/
structure HostEvent where
  type : Nat
  ctx : Nat
  reply : Bool
  addr : Word
  info : Word
  deriving DecidableEq, Repr

/-- What the device has sent outside (R460, R465, R466, R484). -/
inductive Out where
  | hostData (pa : Nat) (data : List Byte)
  /-- Host data poisoned or refused (R459, R483). -/
  | hostPoison (pa : Nat)
  /-- An access of the host to a register refused (R459). -/
  | regPoison (off : Nat)
  /-- A back-invalidation, by the number of the 64-byte host line. -/
  | snoop (hostLine : Nat)
  /-- The 32 bytes of an event, written at a host address (R463). -/
  | event (pa : Nat) (data : List Byte)
  | msix
  /-- A command at a place of a queue pair of its drive, and the submission doorbell that follows (R465). -/
  | nvme (pair at_ : Nat) (c : NvmeCmd)
  | doorbell (drive pair tail : Nat)
  | peerRead (dev pa size : Nat)
  | peerWrite (dev pa : Nat) (data : List Byte)
  /-- An atomic or reduction to be performed at a peer (R448). -/
  | peerAtomic (dev pa : Nat) (w : WriteReq)
  /-- An invalidation of a line of this device at a peer, and the answer to one of a peer's line (R101, R466). -/
  | peerInvalidate (dev pa : Nat)
  | peerInvAck (dev pa : Nat)
  /-- The answer to an inbound access: 0 performed, 1 PROT, 2 FENCED (R459, R467). -/
  | peerReply (dev pa status : Nat) (data : List Byte)
  | release (dev frame : Nat)
  | memberLost (dev group : Nat)
  /-- A combined chunk for a peer device of a group (R367, R466). -/
  | collChunk (dev group chunk : Nat) (data : List Byte)
  | attest (reply : List Byte)
  | errorRecord (words : List Word)
  deriving DecidableEq, Repr

/-- The BAR 0 registers with no layout in memory, and the event path (R461, R463). -/
structure HostRegs where
  devid : Word := 0
  ctxtab : Word := 0
  xroot : Word := 0
  regtab : Word := 0
  stktab : Word := 0
  mboxbase : Word := 0
  peerroute : Word := 0
  evring : Word := 0
  evtail : Word := 0
  evhead : Word := 0
  cmdring : Word := 0
  rsvbase : Word := 0
  /-- The debug block's address in the linear segment, 0 where firmware maps none (R470). -/
  dbgbase : Nat := 0
  cmdnext : Nat := 0
  waiting : List HostEvent := []
  seq : Nat := 0
  /-- Posted events that await a reply: SEQ and the event (R464). -/
  awaiting : List (Nat × HostEvent) := []
  deriving DecidableEq, Repr

/-- Error reporting and power (R470, R482, R485). -/
structure Ras where
  errbase : Word := 0
  errhead : Nat := 0
  errtail : Nat := 0
  seq : Nat := 0
  dropped : Nat := 0
  withheld : Nat := 0
  powerLimit : Nat := 2000
  malformedMeth : Nat := 0
  /-- Task notifies dropped at their barrier (R359). -/
  arrivalDrops : Nat := 0
  deriving DecidableEq, Repr

/-- Which agent moves next. -/
inductive Pick where
  /-- Deliver the message at this place of the agenda. -/
  | deliver (k : Nat)
  /-- Let this core issue one instruction. -/
  | core (c : Nat)
  /-- One arithmetic cycle passes. -/
  | tick
  deriving DecidableEq, Repr

/-- The machine. -/
structure State where
  /-- Device time in 1/8 ns: an arithmetic cycle is 10, a network cycle 5, a tick 8 (R16). -/
  time8 : Nat := 0
  /-- Arithmetic cycles since reset (R425). -/
  cycle : Nat := 0
  /-- Messages in flight and inputs from outside, oldest first. -/
  agenda : List Flight := []
  /-- Steps due at a time: (time8, event). -/
  timers : List (Nat × Event) := []
  /-- Requests a home holds back until the line or tile they name is free of what they wait for. -/
  held : List Flight := []
  /-- MODEL'S OWN: which agent moves next; empty for the default order (DESIGN CHOICE, safe: log entry 1). -/
  sched : List Pick := []
  /-- MODEL'S OWN: the counter the free values are applied to (DESIGN CHOICE, safe: log entry 5). -/
  fresh : Nat := 0
  /-- MODEL'S OWN: the event being delivered, as the executing event's row of the table finds it. -/
  now : Option Event := none
  /-- MODEL'S OWN: the physical slot whose instruction is being executed. -/
  cur : Nat := 0
  /-- MODEL'S OWN: the order the delivered event stood in (chan of its Flight). -/
  nowChan : Option (Nat × Nat) := none
  /-- Every byte at its home: a line of DRAM as the slice that serves it has it. -/
  mem : Memory := []
  /-- DRAM's own copy of the lines that differ from their slice's, by column and offset (R92, R520): line
  (column × 2^29 + offset) / 32. -/
  dram : Tab DramLine := []
  words : Tab WordMeta := []
  dir : Tab DirEntry := []
  /-- Poisoned words (R483). -/
  poison : List Nat := []
  slots : Tab Slot := []
  cores : Tab Core := []
  cells : Tab Cell := []
  slices : Tab Slice := []
  ctxs : Tab Ctx := []
  sqes : Tab Sqe := []
  links : Tab Link := []
  host : HostRegs := {}
  ras : Ras := {}
  /-- Inbound rights by source device (R467). -/
  inbound : Tab Nat := []
  lanelim : Nat := 1000000
  tvecm : Word := 0
  out : List Out := []
  /-- Firmware's measurement log (R484), and its code object (R387). -/
  bootlog : List (List Byte) := []
  booted : Bool := false
  fwobj : Option CodeObj := none
  /-- Flits of tile data that have left each port of the plane-0 routers (R262): key 5 × cell + port, the ports 0 Local, 1 N,
  2 E, 3 S, 4 W. -/
  flits : Tab Nat := []
  /-- Fenced chiplet units: SQE 0 to 7, teller 8 to 15, row save engine 16 to 31, stack 32 to 39,
  and slots from 64 up (R483). -/
  fencedUnits : List Nat := []
  deriving DecidableEq, Repr

/-- The machine right after a cold reset (R485): all device state clear, links DOWN, contexts FREE, counters 0. -/
def State.reset : State := {}

end Sys2Proof.Machine
end

