-- ==== Sys2Proof/Machine/Bits.lean ====
section
/-!
DEFINITION. Bit fields, sign extension and byte order: the helpers every operation is written with (R6, R9).
-/
namespace Sys2Proof.Machine

/-- Bits [lo + n − 1 : lo] of a natural number. -/
def bits (w lo n : Nat) : Nat := w / 2 ^ lo % 2 ^ n

/-- Bits [lo + n − 1 : lo] of a word. -/
def fld (w : Word) (lo n : Nat) : Nat := bits w.toNat lo n

/-- The word with bits [lo + n − 1 : lo] set to v. -/
def setFld (w : Word) (lo n v : Nat) : Word :=
  BitVec.ofNat 64 (w.toNat - fld w lo n * 2 ^ lo + v % 2 ^ n * 2 ^ lo)

/-- A bit as a number. -/
def b2n (b : Bool) : Nat := if b then 1 else 0

/-- A truth value as a word. -/
def b2w (b : Bool) : Word := if b then 1 else 0

/-- SignExt of the low n bits of a natural number to 64 bits (R9). -/
def sextNat (x n : Nat) : Word :=
  let y := x % 2 ^ n
  if n = 0 then 0 else if y < 2 ^ (n - 1) then BitVec.ofNat 64 y else BitVec.ofInt 64 ((y : Int) - 2 ^ n)

/-- The low n bits of a natural number read as two's complement. -/
def toSigned (x n : Nat) : Int :=
  let y := x % 2 ^ n
  if n = 0 then 0 else if y < 2 ^ (n - 1) then (y : Int) else (y : Int) - 2 ^ n

/-- The n low bytes of a number, least significant first (R6). -/
def leBytes : Nat → Nat → List Byte
  | 0, _ => []
  | n + 1, v => BitVec.ofNat 8 v :: leBytes n (v / 256)

/-- The number a list of bytes holds, least significant first (R6). -/
def leNat : List Byte → Nat
  | [] => 0
  | b :: t => b.toNat + 256 * leNat t

/-- A natural number as a word. -/
def w64 (n : Nat) : Word := BitVec.ofNat 64 n

end Sys2Proof.Machine
end

