-- ==== Sys2Proof/Machine/Flags.lean ====
section
/-!
DEFINITION. The flags of FSTAT (R74) as five bits in the order NV, DZ, OF, UF, NX, and FSTAT's fields.
-/
namespace Sys2Proof.Machine

/-- Flags: bit 0 NV, 1 DZ, 2 OF, 3 UF, 4 NX, as they stand in FSTAT[12:8] (R74). -/
abbrev Fl := BitVec 5

def flNone : Fl := 0
def flNV : Fl := 1
def flDZ : Fl := 2
def flOF : Fl := 4
def flUF : Fl := 8
def flNX : Fl := 16

/-- The flag if the condition holds. -/
def flIf (c : Bool) (f : Fl) : Fl := if c then f else 0

/-- FSTAT with flags ORed in (R74). -/
def orFlags (fstat : Word) (f : Fl) : Word := fstat ||| (f.zeroExtend 64 <<< 8)

/-- The executing thread's rounding mode: 0 RNE, 1 RTZ, 2 RUP, 3 RDN (R74). -/
def rmOf (t : Thread) : Nat := fld t.fstat 0 2

/-- The decode-table bank of T8 elements (R74). -/
def tbOf (t : Thread) : Nat := fld t.fstat 16 2

/-- The bits of FSTAT that a csr instruction writes; the others are reserved (R7, R74). -/
def fstatMask : Word := 0x31F03

end Sys2Proof.Machine
end

