-- ==== Sys2Proof/Machine/Float.lean ====
section
/-!
DEFINITION. Number formats and exact arithmetic (03): formats to the bit, Round with its flags, conversions, decode
tables, the vector operations' exact results, and the sum inside mma. A finite value is kept exactly as sign, magnitude
and power of two.
-/
namespace Sys2Proof.Machine

/-! ### Formats and values -/

/-- How a format spends its top codes (R58): finite throughout, E4M3's one NaN, or the IEEE infinities and NaNs. -/
inductive Specials where
  | finite | e4m3 | ieee
  deriving DecidableEq, Repr

/-- A floating-point format (R58): exponent and fraction widths, bias, top codes, and whether an overflow saturates
(R72). -/
structure FFmt where
  ew : Nat
  fw : Nat
  bias : Nat
  sp : Specials
  sat : Bool
  deriving DecidableEq, Repr

def fp32 : FFmt := ⟨8, 23, 127, .ieee, false⟩
def fp16 : FFmt := ⟨5, 10, 15, .ieee, false⟩
def bf16 : FFmt := ⟨8, 7, 127, .ieee, false⟩
def e8m10 : FFmt := ⟨8, 10, 127, .ieee, false⟩
def e4m3 : FFmt := ⟨4, 3, 7, .e4m3, true⟩
def e5m2 : FFmt := ⟨5, 2, 15, .ieee, true⟩
def e3m2 : FFmt := ⟨3, 2, 3, .finite, true⟩
def e2m3 : FFmt := ⟨2, 3, 1, .finite, true⟩
def e2m1 : FFmt := ⟨2, 1, 1, .finite, true⟩

/-- An exact value: a NaN with its sign and its fraction left-justified in 23 bits, an infinity, or
(−1)^neg × m × 2^e. -/
inductive FVal where
  | nan (neg : Bool) (frac : Nat)
  | inf (neg : Bool)
  | fin (neg : Bool) (m : Nat) (e : Int)
  deriving DecidableEq, Repr

/-- A NaN whose top fraction bit is 0 (R59). -/
def FVal.signalling : FVal → Bool
  | .nan _ f => f / 2 ^ 22 % 2 == 0
  | _ => false

def FVal.isNan : FVal → Bool
  | .nan _ _ => true
  | _ => false

def FVal.isInf : FVal → Bool
  | .inf _ => true
  | _ => false

def FVal.isZero : FVal → Bool
  | .fin _ m _ => m == 0
  | _ => false

def FVal.neg : FVal → Bool
  | .nan n _ => n
  | .inf n => n
  | .fin n _ _ => n

/-- The value a code of a format has (R58). -/
def fdec (f : FFmt) (b : Nat) : FVal :=
  let s := b / 2 ^ (f.ew + f.fw) % 2 == 1
  let ex := b / 2 ^ f.fw % 2 ^ f.ew
  let fr := b % 2 ^ f.fw
  if f.sp = .ieee ∧ ex = 2 ^ f.ew - 1 then
    (if fr = 0 then .inf s else .nan s (fr * 2 ^ (23 - f.fw)))
  else if f.sp = .e4m3 ∧ ex = 15 ∧ fr = 7 then .nan s (7 * 2 ^ 20)
  else if ex = 0 then .fin s fr (1 - (f.bias : Int) - f.fw)
  else .fin s (fr + 2 ^ f.fw) ((ex : Int) - f.bias - f.fw)

/-- The exponent field is 0 and the fraction is not (R58). -/
def isSubnormal (f : FFmt) (b : Nat) : Bool := b / 2 ^ f.fw % 2 ^ f.ew == 0 && b % 2 ^ f.fw != 0

/-- The code of the largest finite magnitude (R58). -/
def maxCode (f : FFmt) : Nat :=
  match f.sp with
  | .finite => 2 ^ (f.ew + f.fw) - 1
  | .e4m3 => 126
  | .ieee => (2 ^ f.ew - 1) * 2 ^ f.fw - 1

/-- The sign bit of a format. -/
def signCode (f : FFmt) (neg : Bool) : Nat := if neg then 2 ^ (f.ew + f.fw) else 0

/-- The code of an infinity of an IEEE-like format. -/
def infCode (f : FFmt) : Nat := (2 ^ f.ew - 1) * 2 ^ f.fw

/-- The canonical quiet NaN (R59). -/
def qnanCode (f : FFmt) : Nat :=
  match f.sp with
  | .e4m3 => 127
  | _ => infCode f + 2 ^ (f.fw - 1)

/-! ### Round (R71 to R73) -/

/-- A magnitude cut to a multiple of 2^q and rounded by mode: the multiple, and whether it is inexact. sticky says that
the true magnitude lies strictly between m and m + 1 units of 2^e, where e is below q. -/
def cutAt (mode : Nat) (neg : Bool) (m : Nat) (e : Int) (sticky : Bool) (q : Int) : Nat × Bool :=
  if q ≤ e then (m * 2 ^ (e - q).toNat, sticky)
  else
    let d := 2 ^ (q - e).toNat
    let n := m / d
    let r := m % d
    let inexact := r != 0 || sticky
    let up :=
      match mode with
      | 0 => decide (d < 2 * r) || (decide (2 * r = d) && (sticky || n % 2 == 1))
      | 1 => false
      | 2 => inexact && !neg
      | _ => inexact && neg
    (n + b2n up, inexact)

/-- floor(log2) of a positive magnitude m × 2^e. -/
def flog2 (m : Nat) (e : Int) : Int := (Nat.log2 m : Int) + e

/-- What an overflow gives (R72). -/
def overflowCode (f : FFmt) (mode : Nat) (neg : Bool) : Nat :=
  let toMax := f.sat || mode == 1 || (mode == 2 && neg) || (mode == 3 && !neg)
  signCode f neg + (if toMax then maxCode f else infCode f)

/-- Round of a nonzero exact magnitude into a floating-point format (R71, R72). -/
def roundMag (f : FFmt) (mode : Nat) (neg : Bool) (m : Nat) (e : Int) (sticky : Bool) : Nat × Fl :=
  let emin : Int := 1 - (f.bias : Int)
  let low := emin - f.fw
  let lg : Int := if m = 0 then low - 2 else flog2 m e
  let q := max (lg - f.fw) low
  let (n, inexact) := cutAt mode neg m (if m = 0 then low - 3 else e) sticky q
  let code := (q - low).toNat * 2 ^ f.fw + n
  if maxCode f < code then (overflowCode f mode neg, flOF ||| flNX)
  else
    let tiny := inexact && (decide (lg < emin - 1) ||
      (decide (lg = emin - 1) && decide ((cutAt mode neg m e sticky (lg - f.fw)).1 < 2 ^ (f.fw + 1))))
    (signCode f neg + code, flIf tiny flUF ||| flIf inexact flNX)

/-- A value converted into a floating-point format (R71, R72). -/
def fround (f : FFmt) (mode : Nat) : FVal → Nat × Fl
  | v@(.nan s fr) =>
    match f.sp with
    | .finite => (0, flNV)
    | .e4m3 => (signCode f s + 127, flIf v.signalling flNV)
    | .ieee =>
      let frac := if f.sat then 2 ^ (f.fw - 1) else 2 ^ (f.fw - 1) + fr / 2 ^ (23 - f.fw) % 2 ^ (f.fw - 1)
      (signCode f s + infCode f + frac, flIf v.signalling flNV)
  | .inf s =>
    match f.sp with
    | .ieee => (signCode f s + infCode f, 0)
    | _ => (signCode f s + maxCode f, flNV)
  | .fin s m e => if m = 0 then (signCode f s, 0) else roundMag f mode s m e false

/-- A value converted into an integer format of w bits by RNE: the two's complement code (R72, R73). -/
def iround (w : Nat) (signed : Bool) : FVal → Nat × Fl
  | .nan _ _ => (0, flNV)
  | .inf s =>
    (if signed then (if s then 2 ^ (w - 1) else 2 ^ (w - 1) - 1) else (if s then 0 else 2 ^ w - 1), flNV)
  | .fin s m e =>
    let (n, inexact) := cutAt 0 s m e false 0
    let lo := if signed then 2 ^ (w - 1) else 0
    let hi := if signed then 2 ^ (w - 1) - 1 else 2 ^ w - 1
    if s then (if n ≤ lo then ((2 ^ w - n) % 2 ^ w, flIf inexact flNX) else ((2 ^ w - lo) % 2 ^ w, flNV))
    else if n ≤ hi then (n, flIf inexact flNX) else (hi, flNV)

/-- A value converted into E8M0 (R63, R72). -/
def e8m0Round : FVal → Nat × Fl
  | .nan _ _ => (0xFF, flNV)
  | .inf s => (if s then 0xFF else 0xFE, flNV)
  | .fin s m e =>
    if m = 0 then (0, flUF ||| flNX)
    else if s then (0xFF, flNV)
    else
      let k := flog2 m e
      let half := 2 ^ (Nat.log2 m) / 2
      let up := decide (2 ^ Nat.log2 m + half ≤ m) && m != 2 ^ Nat.log2 m
      let up := if Nat.log2 m = 0 then false else up
      if k < -127 then (0, flUF ||| flNX)
      else
        let k' := k + b2n up
        if 127 < k' then (0xFE, flOF ||| flNX) else ((k' + 127).toNat, flIf (m != 2 ^ Nat.log2 m) flNX)

/-- The value of an integer code. -/
def ival (i : Int) : FVal := .fin (decide (i < 0)) i.natAbs 0

/-- The value of an E8M0 code (R63). -/
def e8m0Val (b : Nat) : FVal := if b = 0xFF then .nan false (2 ^ 22) else .fin false 1 ((b : Int) - 127)

/-! ### Comparison -/

/-- A finite value as an integer count of 2^q, for q at most its exponent. -/
def scaled (neg : Bool) (m : Nat) (e q : Int) : Int :=
  let x : Int := m * 2 ^ (e - q).toNat
  if neg then -x else x

/-- The order of two numbers; none with a NaN. −0 and +0 are equal. -/
def fcmp : FVal → FVal → Option Ordering
  | .nan _ _, _ => none
  | _, .nan _ _ => none
  | .inf a, .inf b => some (compare (if a then (0 : Int) else 1) (if b then 0 else 1))
  | .inf a, .fin _ _ _ => some (if a then .lt else .gt)
  | .fin _ _ _, .inf b => some (if b then .gt else .lt)
  | .fin a m e, .fin b n g => some (compare (scaled a m e (min e g)) (scaled b n g (min e g)))

/-! ### Decode tables (R66 to R70) -/

/-- Entry i of a bank as a value. -/
def bankVal (b : Bank) (i : Nat) : FVal := fdec e8m10 (b.entries.get 0 i)

/-- The finite entries of a bank, in index order. -/
def bankFinite (b : Bank) : List (Nat × FVal) :=
  ((List.range 256).map (fun i => (i, bankVal b i))).filter (fun x =>
    match x.2 with
    | .fin _ _ _ => true
    | _ => false)

/-- The values rise strictly. -/
def rising : List (Nat × FVal) → Bool
  | [] => true
  | [_] => true
  | a :: b :: t => (fcmp a.2 b.2 == some .lt) && rising (b :: t)

/-- Whether a bank is encodable (R68). -/
def encodableBank (b : Bank) : Bool := !(bankFinite b).isEmpty && rising (bankFinite b)

/-- The distance between two finite values, in units of 2^q. -/
def dist (a b : FVal) (q : Int) : Nat :=
  match a, b with
  | .fin s m e, .fin t n g => (scaled s m e q - scaled t n g q).natAbs
  | _, _ => 0

/-- The least exponent among three finite values. -/
def exp3 (a b c : FVal) : Int :=
  let ex (v : FVal) : Int := match v with | .fin _ _ e => e | _ => 0
  min (ex a) (min (ex b) (ex c))

/-- The code of a finite value in an encodable bank (R70). -/
def bankEncFin (b : Bank) (x : FVal) : Nat × Fl :=
  let fs := bankFinite b
  match fs.find? (fun v => fcmp x v.2 == some .eq) with
  | some v => (v.1, 0)
  | none =>
    match (fs.filter (fun v => fcmp v.2 x == some .lt)).getLast?, fs.find? (fun v => fcmp x v.2 == some .lt) with
    | some lo, some hi =>
      let q := exp3 x lo.2 hi.2
      let dl := dist x lo.2 q
      let dh := dist hi.2 x q
      let pick := if dl < dh then lo.1 else if dh < dl then hi.1
        else if lo.1 % 2 = 0 ∧ hi.1 % 2 = 1 then lo.1 else if hi.1 % 2 = 0 ∧ lo.1 % 2 = 1 then hi.1 else lo.1
      (pick, flNX)
    | some lo, none => (lo.1, flOF ||| flNX)
    | none, some hi => (hi.1, flOF ||| flNX)
    | none, none => (0, 0)

/-- The lowest index whose entry satisfies p. -/
def bankFind (b : Bank) (p : FVal → Bool) : Option Nat :=
  (List.range 256).find? (fun i => p (bankVal b i))

/-- The code of a value in an encodable bank (R70). -/
def bankEnc (b : Bank) (x : FVal) : Nat × Fl :=
  match x with
  | .fin _ _ _ => bankEncFin b x
  | .inf s =>
    match bankFind b (fun v => v == .inf s) with
    | some i => (i, 0)
    | none =>
      let fs := bankFinite b
      ((if s then (fs.head?.map (fun v => v.1)).getD 0 else (fs.getLast?.map (fun v => v.1)).getD 0), flNV)
  | .nan _ _ =>
    match bankFind b FVal.isNan with
    | some i => (i, flNV)
    | none => ((bankEncFin b (.fin false 0 0)).1, flNV)

/-! ### The catalogue (R64) -/

/-- Bits of a packed or whole element of a catalogue format; 8 for raw, E8M0 and the table formats. -/
def catBits (code : Nat) : Nat :=
  match code with
  | 1 => 32 | 2 => 16 | 3 => 16 | 8 => 4 | 11 => 4 | 12 => 16 | 13 => 32 | 15 => 32 | 64 => 4 | _ => 8

/-- The floating-point format of a catalogue code. -/
def catFloat (code : Nat) : Option FFmt :=
  match code with
  | 1 => some fp32 | 2 => some bf16 | 3 => some fp16 | 4 => some e4m3 | 5 => some e5m2 | 6 => some e3m2
  | 7 => some e2m3 | 8 => some e2m1 | 15 => some e8m10 | _ => none

/-- The integer format of a catalogue code: width and signedness. 64 stands for UI4, which has no code (R62). -/
def catInt (code : Nat) : Option (Nat × Bool) :=
  match code with
  | 9 => some (8, true) | 10 => some (8, false) | 11 => some (4, true) | 12 => some (16, true)
  | 13 => some (32, true) | 64 => some (4, false) | _ => none

/-- The value of an element of a catalogue format; a table format reads the bank. Unused bits are ignored (R60). -/
def catDec (code : Nat) (bank : Bank) (b : Nat) : FVal :=
  match catFloat code with
  | some f => fdec f (b % 2 ^ (1 + f.ew + f.fw))
  | none =>
    match catInt code with
    | some (w, true) => ival (toSigned b w)
    | some (w, false) => ival ((b % 2 ^ w : Nat) : Int)
    | none => if code = 14 then e8m0Val (b % 256) else bankVal bank (b % 256)

/-- The element a value becomes in a catalogue format. mode applies to FP32, FP16, BF16 and E8M10; every other target
rounds by RNE (R73). -/
def catEnc (code : Nat) (bank : Bank) (mode : Nat) (v : FVal) : Nat × Fl :=
  match catFloat code with
  | some f => fround f (if f.sat then 0 else mode) v
  | none =>
    match catInt code with
    | some (w, signed) => iround w signed v
    | none => if code = 14 then e8m0Round v else bankEnc bank v

/-! ### Exact operations (R75, R76) -/

/-- An exact result: a value, or a magnitude with sticky bits below it, with the flags raised before rounding. -/
structure Exact where
  v : FVal
  sticky : Bool := false
  fl : Fl := 0
  deriving DecidableEq, Repr

/-- Rounds an exact result into a format. -/
def Exact.round (f : FFmt) (mode : Nat) (x : Exact) : Nat × Fl :=
  match x.v with
  | .fin s m e =>
    if m = 0 ∧ x.sticky = false then (signCode f s, x.fl)
    else
      let r := roundMag f mode s m e x.sticky
      (r.1, x.fl ||| r.2)
  | v => ((fround f mode v).1, x.fl)

/-- A generated quiet NaN with NV. -/
def invalidOp : Exact := { v := .nan false (2 ^ 22), fl := flNV }

/-- NV for signalling inputs. -/
def snanFlags (vs : List FVal) : Fl := flIf (vs.any FVal.signalling) flNV

/-- The first NaN among the operands, in order. -/
def firstNan (vs : List FVal) : Option FVal := vs.find? FVal.isNan

/-- The sum of two finite values; the sign of an exact zero sum follows IEEE 754 (DEDUCED, unsafe: log entry 15). -/
def addFin (mode : Nat) (a : Bool) (m : Nat) (e : Int) (b : Bool) (n : Nat) (g : Int) : FVal :=
  let q := min e g
  let x := scaled a m e q + scaled b n g q
  if x = 0 then .fin (if m = 0 ∧ n = 0 ∧ a = b then a else mode == 3) 0 0
  else .fin (decide (x < 0)) x.natAbs q

/-- a + b of values that are not NaN. -/
def addVal (mode : Nat) : FVal → FVal → Exact
  | .inf a, .inf b => if a = b then { v := .inf a } else invalidOp
  | .inf a, _ => { v := .inf a }
  | _, .inf b => { v := .inf b }
  | .fin a m e, .fin b n g => { v := addFin mode a m e b n g }
  | v, _ => { v := v }

/-- a × b of values that are not NaN. -/
def mulVal : FVal → FVal → Exact
  | .fin a m e, .fin b n g => { v := .fin (a != b) (m * n) (e + g) }
  | x, y => if x.isZero || y.isZero then invalidOp else { v := .inf (x.neg != y.neg) }

/-- With NaN operands: the first NaN, quieted by rounding; else the operation. -/
def withNans (vs : List FVal) (k : Exact) : Exact :=
  match firstNan vs with
  | some v => { v := v, fl := snanFlags vs }
  | none => k

def negate : FVal → FVal
  | .nan s f => .nan (!s) f
  | .inf s => .inf (!s)
  | .fin s m e => .fin (!s) m e

def fAdd (mode : Nat) (a b : FVal) : Exact := withNans [a, b] (addVal mode a b)
/-- A NaN subtrahend keeps its sign: it is returned as an operand (R76). -/
def fSub (mode : Nat) (a b : FVal) : Exact := withNans [a, b] (addVal mode a (negate b))
def fMul (a b : FVal) : Exact := withNans [a, b] (mulVal a b)

/-- a × b + d with one rounding. An invalid product with a quiet NaN addend gives the NaN (R76). -/
def fMa (mode : Nat) (a b d : FVal) : Exact :=
  withNans [a, b, d]
    (let p := mulVal a b
     if p.fl = 0 then addVal mode p.v d else p)

/-- m / n cut to 64 fraction bits below their quotient's unit. -/
def divMag (m n : Nat) : Nat × Bool := (m * 2 ^ 64 / n, m * 2 ^ 64 % n != 0)

def divVal : FVal → FVal → Exact
  | .inf _, .inf _ => invalidOp
  | .inf a, y => { v := .inf (a != y.neg) }
  | x, .inf b => { v := .fin (x.neg != b) 0 0 }
  | .fin a m e, .fin b n g =>
    if n = 0 then (if m = 0 then invalidOp else { v := .inf (a != b), fl := flDZ })
    else
      let (q, st) := divMag m n
      { v := .fin (a != b) q (e - g - 64), sticky := st }
  | x, _ => { v := x }

def fDiv (a b : FVal) : Exact := withNans [a, b] (divVal a b)
def fRcp (a : FVal) : Exact := fDiv (.fin false 1 0) a

/-- The integer square root, by k bits. -/
def isqrt : Nat → Nat → Nat → Nat
  | 0, _, r => r
  | k + 1, n, r => isqrt k n (if (r + 2 ^ k) * (r + 2 ^ k) ≤ n then r + 2 ^ k else r)

/-- A magnitude with an even exponent. -/
def evenExp (m : Nat) (e : Int) : Nat × Int := if e % 2 = 0 then (m, e) else (2 * m, e - 1)

def fSqrt (a : FVal) : Exact :=
  withNans [a]
    (match a with
     | .inf s => if s then invalidOp else { v := .inf false }
     | .fin s m e =>
       if m = 0 then { v := .fin s 0 0 }
       else if s then invalidOp
       else
         let (m, e) := evenExp m e
         let n := m * 2 ^ 128
         let r := isqrt 80 n 0
         { v := .fin false r (e / 2 - 64), sticky := r * r != n }
     | v => { v := v })

def fRsq (a : FVal) : Exact :=
  withNans [a]
    (match a with
     | .inf s => if s then invalidOp else { v := .fin false 0 0 }
     | .fin s m e =>
       if m = 0 then { v := .inf s, fl := flDZ }
       else if s then invalidOp
       else
         let (m, e) := evenExp m e
         let r := isqrt 66 (2 ^ 128 / m) 0
         { v := .fin false r (-(e / 2) - 64), sticky := r * r * m != 2 ^ 128 }
     | v => { v := v })

/-- minimumNumber and maximumNumber (R76). -/
def fMinMax (isMax : Bool) (a b : FVal) : Exact :=
  let fl := snanFlags [a, b]
  if a.isNan && b.isNan then { v := .nan false (2 ^ 22), fl := fl }
  else if a.isNan then { v := b, fl := fl }
  else if b.isNan then { v := a, fl := fl }
  else
    let lt := match fcmp a b with
      | some .lt => true
      | some .eq => a.neg && !b.neg
      | _ => false
    { v := (if lt != isMax then a else b), fl := fl }

/-- The comparisons: 0 equal, 1 less, 2 less or equal, 3 unordered (R76). -/
def fTest (kind : Nat) (a b : FVal) : Bool × Fl :=
  let nan := a.isNan || b.isNan
  let fl := if kind = 1 ∨ kind = 2 then flIf nan flNV else snanFlags [a, b]
  let o := fcmp a b
  (match kind with
   | 0 => o == some .eq
   | 1 => o == some .lt
   | 2 => o == some .lt || o == some .eq
   | _ => nan, fl)

/-- An FP32 operation that rounds by RNE and reports nothing: the home atomics and reductions (R221, R73). -/
def fp32Op (op : AmoOp) (a b : Nat) : Nat :=
  let x := fdec fp32 a
  let y := fdec fp32 b
  match op with
  | .fmin => ((fMinMax false x y).round fp32 0).1
  | .fmax => ((fMinMax true x y).round fp32 0).1
  | _ => ((fAdd 0 x y).round fp32 0).1

/-! ### The sum inside mma (R80 to R85) -/

/-- A factor that may be NaN or infinite, as the products of R81 use it. -/
structure Product where
  a : FVal
  b : FVal
  sigma : FVal
  deriving DecidableEq, Repr

/-- The value of a combined scale word (R82). -/
def scaleWordVal (w : Nat) : FVal :=
  if bits w 63 1 = 1 then .nan false (2 ^ 22)
  else if bits w 62 1 = 1 then .inf (bits w 58 1 == 1)
  else .fin (bits w 58 1 == 1) (bits w 0 48) (toSigned (bits w 48 10) 10)

def Product.anyInf (p : Product) : Bool := p.a.isInf || p.b.isInf || p.sigma.isInf
def Product.anyZero (p : Product) : Bool := p.a.isZero || p.b.isZero || p.sigma.isZero
def Product.neg (p : Product) : Bool := (p.a.neg != p.b.neg) != p.sigma.neg

/-- A product of three finite factors. -/
def Product.val (p : Product) : FVal := (mulVal (mulVal p.a p.b).v p.sigma).v

/-- The window sum of R84 over finite terms, as an FP32 code. -/
def windowSum (terms : List FVal) : Nat :=
  let ts := terms.filterMap (fun v => match v with | .fin s m e => (if m = 0 then none else some (s, m, e)) | _ => none)
  match ts with
  | [] => 0
  | t :: rest =>
    let top := rest.foldl (fun (acc : Int) x => max acc (flog2 x.2.1 x.2.2)) (flog2 t.2.1 t.2.2)
    let fold := ts.foldl (fun (acc : Int × Bool) x =>
      let (s, m, e) := x
      let sh := e + 48 - top
      if 0 ≤ sh then (acc.1 + (if s then -((m * 2 ^ sh.toNat : Nat) : Int) else ((m * 2 ^ sh.toNat : Nat) : Int)), acc.2)
      else
        let d := 2 ^ (-sh).toNat
        let f : Int := if s then -(((m + d - 1) / d : Nat) : Int) else ((m / d : Nat) : Int)
        (acc.1 + f, acc.2 || m % d != 0)) ((0 : Int), false)
    let sum := fold.1
    let sticky := fold.2
    if sum = 0 then 0
    else if sticky then
      (if 0 < sum then (roundMag fp32 0 false (sum.natAbs * 2 ^ 32) (top - 80) true).1
       else (roundMag fp32 0 true (sum.natAbs * 2 ^ 32 - 1) (top - 80) true).1)
    else (roundMag fp32 0 (decide (sum < 0)) sum.natAbs (top - 48) false).1

/-- One output element of one k-step in floating mode: the incoming FP32 code and the unmasked products (R83). -/
def mmaElement (incoming : Nat) (ps : List Product) : Nat :=
  let c := fdec fp32 incoming
  if c.isNan then incoming
  else if ps.any (fun p => p.a.isNan || p.b.isNan) then 0x7FC00001
  else if ps.any (fun p => p.sigma.isNan) then 0x7FC00002
  else if ps.any (fun p => p.anyZero && p.anyInf) then 0x7FC00004
  else
    let infs := (ps.filter Product.anyInf).map Product.neg ++ (if c.isInf then [c.neg] else [])
    match infs with
    | [] => windowSum (ps.map Product.val ++ [c])
    | n :: rest => if rest.all (fun x => x == n) then signCode fp32 n + infCode fp32 else 0x7FC00003

/-- One output element of one k-step in integer mode (R85): I32, saturating. -/
def mmaInteger (incoming : Nat) (ps : List (Int × Int)) : Nat :=
  let sum := ps.foldl (fun (a : Int) p => a + p.1 * p.2) (toSigned incoming 32)
  let sat := max (-(2 ^ 31 : Int)) (min (2 ^ 31 - 1) sum)
  (sat % 2 ^ 32).toNat

end Sys2Proof.Machine
end

