-- ==== Sys2Proof/Machine/Ops.lean ====
section
/-!
DEFINITION. The named operations of the model over threads, memory, addresses and messages. Every meaning is written
with them. Taking an exception (raise, deliverTrap) and returning from one (resumeTrapped) stand at the end.
-/
namespace Sys2Proof.Machine

abbrev Result := Host.Outcome State Fault Refusal

/-! ### The parts of the state -/

def slotAt (s : State) (p : Nat) : Slot := s.slots.get {} p
def setSlot (s : State) (p : Nat) (x : Slot) : State := { s with slots := s.slots.put {} p x }
def coreAt (s : State) (c : Nat) : Core := s.cores.get {} c
def setCore (s : State) (c : Nat) (x : Core) : State := { s with cores := s.cores.put {} c x }
def cellAt (s : State) (c : Nat) : Cell := s.cells.get {} c
def setCell (s : State) (c : Nat) (x : Cell) : State := { s with cells := s.cells.put {} c x }
def sliceAt (s : State) (n : Nat) : Slice := s.slices.get {} n
def setSlice (s : State) (n : Nat) (x : Slice) : State := { s with slices := s.slices.put {} n x }
def ctxAt (s : State) (n : Nat) : Ctx := s.ctxs.get {} n
def setCtx (s : State) (n : Nat) (x : Ctx) : State := { s with ctxs := s.ctxs.put {} n x }
def sqeAt (s : State) (n : Nat) : Sqe := s.sqes.get {} n
def setSqe (s : State) (n : Nat) (x : Sqe) : State := { s with sqes := s.sqes.put {} n x }
def linkAt (s : State) (n : Nat) : Link := s.links.get {} n
def setLink (s : State) (n : Nat) (x : Link) : State := { s with links := s.links.put {} n x }
def dirAt (s : State) (line : Nat) : DirEntry := s.dir.get {} line
def setDir (s : State) (line : Nat) (x : DirEntry) : State := { s with dir := s.dir.put {} line x }
def wordAt (s : State) (w : Nat) : WordMeta := s.words.get {} w
def setWord (s : State) (w : Nat) (x : WordMeta) : State := { s with words := s.words.put {} w x }

/-- The thread in a slot. -/
def threadAt (s : State) (p : Nat) : Option Thread :=
  match (slotAt s p).occ with
  | .thread t => some t
  | _ => none

/-- Puts a thread into a slot. -/
def setThread (s : State) (p : Nat) (t : Thread) : State := setSlot s p { slotAt s p with occ := .thread t }

/-- Changes the thread in a slot, if there is one. -/
def mapThread (p : Nat) (f : Thread → Thread) (s : State) : State :=
  match threadAt s p with
  | some t => setThread s p (f t)
  | none => s

/-- The executing thread; a blank one where the executing slot holds none. -/
def me (s : State) : Thread := (threadAt s s.cur).getD { tid := 0, ctx := 0, pc := 0 }

/-- Changes the executing thread. -/
def mapMe (f : Thread → Thread) (s : State) : State := mapThread s.cur f s

/-- The core of the executing thread. -/
def myCore (s : State) : Nat := s.cur / 16

/-- The executing thread's name in messages. -/
def myThr (s : State) : Thr := ⟨s.cur, (me s).ctx, (me s).tid⟩

/-- The slot th names still holds its thread. -/
def holds (s : State) (th : Thr) : Bool :=
  match threadAt s th.slot with
  | some t => t.tid == th.tid && t.ctx == th.ctx
  | none => false

/-- The cell of a core, and the compute chiplet of a cell (R18). -/
def cellOfCore (c : Nat) : Nat := c / 4
def chipOfCell (c : Nat) : Nat := (c % 48) / 12 + 4 * (c / 48 / 8)
def chipOfCore (c : Nat) : Nat := chipOfCell (cellOfCore c)

/-- TIME: whole ticks (R16). -/
def tick (s : State) : Nat := s.time8 / 8

/-- A fresh number for a free value, and the state that has used it. -/
def nextFresh (s : State) : State := { s with fresh := s.fresh + 1 }

/-! ### Messages -/

/-- Sends a message on the adaptive class (R108), or hands an input of a unit to itself. -/
def post (ev : Event) (s : State) : State := { s with agenda := s.agenda ++ [⟨ev, none⟩] }

/-- Sends a message on the ordered class from one unit to another (R107): cores by their number, slices by 4,096 plus
theirs. -/
def postOrd (src dst : Nat) (ev : Event) (s : State) : State :=
  { s with agenda := s.agenda ++ [⟨ev, some (src, dst)⟩] }

def sliceUnit (n : Nat) : Nat := 4096 + n
/-- A peer device, as the destination of ordered Span traffic (R466). -/
def peerUnit (dev : Nat) : Nat := 8192 + dev

/-- Sends several messages in order. -/
def postAll (evs : List Event) (s : State) : State := evs.foldl (fun s e => post e s) s

/-- Makes a step due after d eighths of a nanosecond. -/
def after (d : Nat) (ev : Event) (s : State) : State := { s with timers := s.timers ++ [(s.time8 + d, ev)] }

/-- Keeps a request back at its home until the line or tile it names changes. -/
def holdBack (ev : Event) (s : State) : State := { s with held := s.held ++ [⟨ev, none⟩] }

/-- Every request held back is tried again, in the order they were held, before what has come since. -/
def wakeHeld (s : State) : State := { s with agenda := s.held ++ s.agenda, held := [] }

/-- The order in which requests that wait at a home for one tile, or one line of no tile, are served (R255). -/
def waitChan (home : Nat) (tile : Bool) (k : Nat) : Nat × Nat := (100000 + home, 2 * k + b2n tile)

/-- Keeps a request back in its place of an order: it is older than those of the order still on their way. -/
def holdIn (chan : Nat × Nat) (ev : Event) (s : State) : State := { s with held := s.held ++ [⟨ev, some chan⟩] }

/-- Serves a request in its place of an order (R255): behind those that wait, or that have been woken before it. -/
def inOrder (chan : Nat × Nat) (ev : Event) (s : State) (k : State → State) : State :=
  if s.held.any (fun f => f.chan == some chan) then holdIn chan ev s
  else if s.nowChan ≠ some chan ∧ s.agenda.any (fun f => f.chan == some chan) then
    { s with agenda := s.agenda ++ [⟨ev, some chan⟩] }
  else k s

/-! ### Addresses (04) -/

/-- The regions of the virtual space (R86), with the physical address or the core and offset. -/
inductive Region where
  | paged
  | linear (pa : Nat)
  | window (core off : Nat)
  | local_ (off : Nat)
  | reserved
  deriving DecidableEq, Repr

def dramTop : Nat := 0x6000000000
def spadSize : Nat := 0x40000
def saveTail : Nat := 0x3C000
def spadBase : Nat := 2 ^ 40
def accBase : Nat := 2 ^ 41
def bstoreBase : Nat := 2 ^ 42

/-- The place of a scratchpad byte in the model's memory. -/
def spadPa (core off : Nat) : Nat := spadBase + core * spadSize + off
/-- The place of an accumulator element's first byte (R282, R406). -/
def accPa (cell row col : Nat) : Nat := accBase + cell * 0x40000 + (row * 256 + col) * 4
/-- The place of a B-operand store byte. -/
def bstorePa (cell off : Nat) : Nat := bstoreBase + cell * 0x100000 + off

/-- The place of a byte of DRAM as a slice that is not its own holds it: the slice of the virtual granule of an
uncoloured frame (R93). Each such slice has its own data and directory. -/
def altBase : Nat := 2 ^ 43
def altPlace (home pa : Nat) : Nat := altBase + home * 2 ^ 39 + pa

/-- The place of a byte of a peer's memory, reached through a remote leaf (R448). -/
def peerBase : Nat := 2 ^ 50
def peerPa (dev pa : Nat) : Nat := peerBase + dev * 2 ^ 40 + pa

/-- Whether a place is a byte of a peer's memory. -/
def inPeer (pl : Nat) : Bool := decide (peerBase ≤ pl) && decide (pl < 2 ^ 51)

def inAlt (pl : Nat) : Bool := decide (altBase ≤ pl) && decide (pl < peerBase)
/-- Whether a place is a byte of DRAM at some slice: its line has a home slice and a directory entry there. -/
def inDram (pl : Nat) : Bool := decide (pl < dramTop) || inAlt pl
/-- The physical address of a place of DRAM. -/
def framePa (pl : Nat) : Nat := if inAlt pl then (pl - altBase) % 2 ^ 39 else pl

def isSpad (pa : Nat) : Bool := decide (spadBase ≤ pa) && decide (pa < accBase)
/-- The core whose scratchpad holds a byte. -/
def spadCore (pa : Nat) : Nat := (pa - spadBase) / spadSize

/-- The region of a virtual address (R86). -/
def region (va : Word) : Region :=
  let top := fld va 48 16
  let low := fld va 0 48
  if top < 0xF0 then .paged
  else if top = 0xF0 then .linear low
  else if top = 0xFC then .window (low / spadSize) (low % spadSize)
  else if top = 0xFD then (if low < spadSize then .local_ low else .reserved)
  else .reserved

/-- The slice of a granule (R91). -/
def sliceOf (g : Nat) : Nat :=
  let l := bits g 0 8
  let u := bits g 8 34
  let f := bits u 0 8 ^^^ bits u 8 8 ^^^ bits u 16 8 ^^^ bits u 24 8 ^^^ bits u 32 2
  256 * (u % 3) + (l ^^^ f)

/-- The slice that serves a physical address of DRAM (R90). -/
def sliceOfPa (pa : Nat) : Nat := sliceOf (pa / 16384)

/-- The slice that homes a paged virtual address (R90). -/
def sliceOfVa (va : Nat) : Nat := sliceOf (va / 16384 % 2 ^ 42)

/-- The place at which a slice serves a byte of DRAM: the byte's own where the frame is coloured (R93). -/
def placeFor (home pa : Nat) : Nat := if sliceOfPa pa = home then pa else altPlace home pa

/-- The DRAM column of a byte and its offset in the column's 512 MiB (R92), as one number. -/
def dramColumn (pa : Nat) : Nat := sliceOfPa pa
def dramOffset (pa : Nat) : Nat := bits (pa / 16384) 8 34 / 3 * 16384 + pa % 16384
def dramAt (pa : Nat) : Nat := dramColumn pa * 2 ^ 29 + dramOffset pa

/-- The slice whose wait table serves a word: its home slice, or that of its core's cell (R205). -/
def waitSlice (va : Word) (pa : Nat) : Nat :=
  match region va with
  | .paged => sliceOfVa va.toNat
  | _ => if isSpad pa then spadCore pa / 4 else sliceOfPa pa

/-- The colour of a 64 KiB block from its first granule (R443). -/
def colourOf (g : Nat) : Nat :=
  let u := bits g 8 34
  let f := bits u 0 8 ^^^ bits u 8 8 ^^^ bits u 16 8 ^^^ bits u 24 8 ^^^ bits u 32 2
  4 * sliceOf g + f % 4

/-! ### The debug block (R470) -/

/-- The counter of a slot and class: a class that most cycles add to is kept as what it lacks. -/
def lossCount (s : State) (p k : Nat) : Nat :=
  let x := slotAt s p
  Nat.min (2 ^ 48 - 1) (if k = 3 then s.cycle - x.vacLag else x.loss[k]?.getD 0)

/-- A bin of a core's histogram (R478). -/
def histCount (s : State) (core b : Nat) : Nat :=
  let c := coreAt s core
  Nat.min (2 ^ 64 - 1) (if b = 0 then (((s.cycle + 15) / 16 : Nat) - c.hist0Lag).toNat else c.hist[b - 1]?.getD 0)

/-- A doubleword of the debug block, by its offset; what no table of the spec lists reads 0. -/
def debugRead (s : State) (off : Nat) : Word :=
  if off < 0x300000 then
    let core := off / 1024
    let o := off % 1024
    let c := coreAt s core
    if o < 0x200 then w64 (lossCount s (16 * core + o / 32) (o % 32 / 8))
    else if o < 0x288 then w64 (histCount s core ((o - 0x200) / 8))
    else if o = 0x288 then w64 (Nat.min (2 ^ 64 - 1) c.wakeDrops)
    else if o = 0x290 then w64 (Nat.min (2 ^ 64 - 1) c.msgDrops)
    else if 0x300 ≤ o ∧ o < 0x340 then
      let x := c.cmps[(o - 0x300) / 16]?.getD (0, 0)
      if o % 16 = 0 then x.1 else x.2
    else if o = 0x340 then c.stopcmd
    else 0
  else if off < 0x320000 then
    let t := (ctxAt s ((off - 0x300000) / 32)).trace
    match off % 32 / 8 with
    | 0 => t.w0
    | 1 => t.w1
    | 2 => t.head
    | _ => t.dropped
  else if 0x340000 ≤ off ∧ off < 0x343000 then
    let c := cellAt s ((off - 0x340000) / 16)
    if off % 16 = 0 then w64 (Nat.min (2 ^ 32 - 1) c.residue + Nat.min (2 ^ 32 - 1) c.active * 2 ^ 32) else c.test
  else if 0x350000 ≤ off ∧ off < 0x353000 then
    let c := sliceAt s ((off - 0x350000) / 16)
    if off % 16 = 0 then c.replay0 else c.replay1
  else if 0x360000 ≤ off ∧ off < 0x360038 then
    match (off - 0x360000) / 8 with
    | 0 => s.ras.errbase
    | 1 => w64 s.ras.errhead
    | 2 => w64 s.ras.errtail
    | 3 => w64 (Nat.min (2 ^ 64 - 1) s.ras.dropped)
    | 4 => w64 (Nat.min (2 ^ 64 - 1) s.ras.withheld)
    | 5 => w64 s.ras.powerLimit
    | _ => w64 (Nat.min (2 ^ 64 - 1) s.ras.malformedMeth)
  else if 0x370000 ≤ off ∧ off < 0x430000 then
    match (sliceAt s ((off - 0x370000) / 1024)).rows[(off - 0x370000) % 1024 / 16]? with
    | some x =>
      if off % 16 = 0 then x.id else w64 (Nat.min (2 ^ 32 - 1) x.corrected + Nat.min (2 ^ 32 - 1) x.acts * 2 ^ 32)
    | none => 0
  else 0

/-! ### Memory bytes -/

/-- The place of a byte of the debug block, as a machine-level access reaches it (R470). -/
def debugBase : Nat := 2 ^ 51

/-- The unit that homes a place: a slice by its number, or 1,024 plus the core that owns a scratchpad. -/
def homePlace (pl : Nat) : Nat :=
  if isSpad pl then 1024 + spadCore pl else if inAlt pl then (pl - altBase) / 2 ^ 39 else sliceOfPa pl

/-- Whether the slice of a line holds it in its data array (R520). -/
def holdsLine (s : State) (line : Nat) : Bool :=
  (sliceAt s (homePlace (line * 32))).lines.any (fun x => x.1 == line)

/-- The line of DRAM a line's bytes lie in (R92). -/
def dramLine (line : Nat) : Nat := dramAt (framePa (line * 32)) / 32

/-- A byte as DRAM holds it: what its own slice has, unless they differ (R520). -/
def dramByte (s : State) (pa : Nat) : Byte :=
  match s.dram.find? (fun e => e.1 == dramLine (pa / 32)) with
  | some (_, l) => l.data[pa % 32]?.getD 0
  | none => Tab.get 0 s.mem pa

/-- The full/empty bit of a word as DRAM holds it (R97). -/
def dramFe (s : State) (w : Nat) : Bool :=
  match s.dram.find? (fun e => e.1 == dramLine (w / 4)) with
  | some (_, l) => l.fe[w % 4]?.getD true
  | none => (wordAt s w).fe

/-- A byte at its home. A peer's byte is outside the machine: a free value (DESIGN CHOICE, safe: log entry 5). A byte of the debug block is
its register's. -/
def rdByte (s : State) (pa : Nat) : Byte :=
  if pa < altBase then Tab.get 0 s.mem pa
  else if pa < peerBase then (if holdsLine s (pa / 32) then Tab.get 0 s.mem pa else dramByte s (framePa pa))
  else if pa < debugBase then Config.freeByte s.fresh pa
  else BitVec.ofNat 8 (fld (debugRead s ((pa - debugBase) / 8 * 8)) (8 * (pa % 8)) 8)

/-- n bytes at their home. -/
def rdBytes (s : State) (pa : Nat) : Nat → List Byte
  | 0 => []
  | n + 1 => rdByte s pa :: rdBytes s (pa + 1) n

/-- The number n bytes hold. -/
def rdNat (s : State) (pa n : Nat) : Nat := leNat (rdBytes s pa n)

/-- A doubleword at its home. -/
def rd64 (s : State) (pa : Nat) : Word := w64 (rdNat s pa 8)

/-- The arithmetic of amo and red on 8-byte values (R221); floating-point operations are given their FP32 codes'
function. -/
def amoInt (op : AmoOp) (old x : Word) : Word :=
  match op with
  | .add => old + x
  | .and => old &&& x
  | .or => old ||| x
  | .xor => old ^^^ x
  | .min => if old.toInt ≤ x.toInt then old else x
  | .max => if old.toInt ≤ x.toInt then x else old
  | .minu => if old.toNat ≤ x.toNat then old else x
  | .maxu => if old.toNat ≤ x.toNat then x else old
  | _ => x

/-- The access size of an operation (R221). -/
def amoSize (op : AmoOp) : Nat :=
  match op with
  | .fadd => 4 | .fmin => 4 | .fmax => 4 | _ => 8

/-- The new value of an atomic, and of a word that takes a partial (R116, R221): FP32 operations act on the low 4
bytes. -/
def amoNew (op : AmoOp) (old x : Word) : Word :=
  if amoSize op = 4 then w64 (fp32Op op (old.toNat % 2 ^ 32) (x.toNat % 2 ^ 32)) else amoInt op old x

/-- The order of partials in a collect: (CTXID, logical core) ascending (R116). -/
def insertPart (p : Partial) : List Partial → List Partial
  | [] => [p]
  | q :: t => if p.ctx < q.ctx ∨ (p.ctx = q.ctx ∧ p.lcore < q.lcore) then p :: q :: t else q :: insertPart p t

/-- The update-only copy a core holds of a line. -/
def uCopy (s : State) (core line : Nat) : Option (Nat × AmoOp × Tab Word) :=
  (coreAt s core).l1.findSome? (fun x =>
    match x with
    | (k, .update pa op parts) => if pa = line * 32 then some (k, op, parts) else none
    | _ => none)

/-- Partials of one core combined in issue order (R117). -/
def mergeParts (op : AmoOp) (old new : Tab Word) : Tab Word :=
  new.foldl (fun p x => match p.find? (fun y => y.1 == x.1) with
    | some y => p.ins x.1 (amoNew op y.2 x.2)
    | none => p.ins x.1 x.2) old

/-- The partials of a line, those in the cores' U copies among them, in the order of a collect (R116, R117). -/
def partsOf (s : State) (line : Nat) : List Partial :=
  let d := dirAt s line
  let held := d.ucores.filterMap (fun c => (uCopy s c line).map (fun u => (c, u.2)))
  let with_ (p : Partial) : Partial :=
    match held.find? (fun h => h.1 == p.core) with
    | some h => { p with parts := mergeParts h.2.1 p.parts h.2.2 }
    | none => p
  let new := (held.filter (fun h => d.parts.all (fun p => p.core != h.1))).map (fun h =>
    (⟨((coreAt s h.1).owner.getD (0, 0)).1, ((coreAt s h.1).owner.getD (0, 0)).2, h.1, h.2.2⟩ : Partial))
  (d.parts.map with_ ++ new).foldl (fun l p => insertPart p l) []

/-- A byte as a collect of its line leaves it (R115, R116): what the device's own units read. -/
def curByte (s : State) (pa : Nat) : Byte :=
  match (dirAt s (pa / 32)).uop with
  | none => rdByte s pa
  | some op =>
    let size := amoSize op
    let v := (partsOf s (pa / 32)).foldl (fun v p =>
      match p.parts.find? (fun x => x.1 == pa % 32 / size) with
      | some x => amoNew op v x.2
      | none => v) (w64 (rdNat s (pa / size * size) size))
    BitVec.ofNat 8 (fld v (8 * (pa % size)) 8)

/-- A doubleword as a collect of its line leaves it. -/
def cur64 (s : State) (pa : Nat) : Word := w64 (leNat ((List.range 8).map (fun i => curByte s (pa + i))))

/-- Writes one byte; memory keeps its canonical form. -/
def putByte (m : Memory) (pa : Nat) (b : Byte) : Memory := Tab.put 0 m pa b

/-- Writes a list of (address, byte) pairs, in order. -/
def putCells (m : Memory) (cs : List (Nat × Byte)) : Memory := cs.foldl (fun m c => putByte m c.1 c.2) m

/-- The (address, byte) pairs of consecutive bytes. -/
def cellsAt (pa : Nat) : List Byte → List (Nat × Byte)
  | [] => []
  | b :: t => (pa, b) :: cellsAt (pa + 1) t

/-- The lines of DRAM that a list of cells touches, without repeats. -/
def linesOf (cs : List (Nat × Byte)) : List Nat :=
  cs.foldl (fun ls c => if (c.1 / 32) ∈ ls then ls else ls ++ [c.1 / 32]) []

/-- The 8-byte words that a list of cells touches, without repeats. -/
def wordsOf (cs : List (Nat × Byte)) : List Nat :=
  cs.foldl (fun ls c => if (c.1 / 8) ∈ ls then ls else ls ++ [c.1 / 8]) []

/-! ### The data array of a slice (R14, R93, R520) -/

/-- Lines of a slice's data array: 6 MiB; of its hot-line array: 128 KiB (R14). -/
def sliceLines : Nat := 196608
def hotLines : Nat := 4096

/-- Counts at one row: among the 64 tracked, or among the others, from which it takes the place of the first of the least
active rows once it has more activations (R480). -/
def countRow (id : Word) (acts corrected : Nat) (rows spare : List RowCount) : List RowCount × List RowCount :=
  let add (x : RowCount) : RowCount := { x with acts := x.acts + acts, corrected := x.corrected + corrected }
  if rows.any (fun x => x.id == id) then (rows.map (fun x => if x.id = id then add x else x), spare)
  else
    let x := add ((spare.find? (fun x => x.id == id)).getD ⟨id, 0, 0⟩)
    let rest := spare.filter (fun x => x.id != id)
    if rows.length < 64 then (rows ++ [x], rest)
    else
      let least := rows.foldl (fun m y => Nat.min m y.acts) x.acts
      match rows.findIdx? (fun y => y.acts == least) with
      | some i => if least < x.acts then (rows.set i x, rest ++ (rows[i]?).toList) else (rows, rest ++ [x])
      | none => (rows, rest ++ [x])

/-- The DRAM row of a line is activated, or an error of it corrected (R480). -/
def noteRow (line acts corrected : Nat) (s : State) : State :=
  let pa := framePa (line * 32)
  let sl := sliceAt s (dramColumn pa)
  let r := countRow (w64 (fld (Config.dramRow (dramOffset pa)) 0 32)) acts corrected sl.rows sl.spare
  { s with slices := s.slices.ins (dramColumn pa) { sl with rows := r.1, spare := r.2 } }

/-- An access to DRAM at a line, which may activate its row. -/
def openRow (line : Nat) (s : State) : State := noteRow line (Config.activations s.fresh line) 0 s

/-- The words of a line take full/empty bits, which travel with the data (R97). -/
def putBits (line : Nat) (fe : List Bool) (s : State) : State :=
  fe.zipIdx.foldl (fun s x =>
    if (wordAt s (line * 4 + x.2)).fe = x.1 then s
    else setWord s (line * 4 + x.2) { wordAt s (line * 4 + x.2) with fe := x.1 }) s

/-- A line as the slice that serves its place has it. -/
def lineHere (s : State) (line : Nat) : DramLine :=
  ⟨rdBytes s (line * 32) 32, (List.range 4).map (fun i => (wordAt s (line * 4 + i)).fe)⟩

/-- A line of DRAM, by the line of its own place, as DRAM holds it. -/
def lineInDram (s : State) (line : Nat) : DramLine :=
  ⟨(List.range 32).map (fun i => dramByte s (line * 32 + i)), (List.range 4).map (fun i => dramFe s (line * 4 + i))⟩

/-- The slice that serves a place holds a line. -/
def putLine (line : Nat) (l : DramLine) (s : State) : State :=
  putBits line l.fe { s with mem := putCells s.mem (cellsAt (line * 32) l.data) }

/-- DRAM takes a line from a slice that is not its own (R93): its own slice, where it holds the line, keeps its copy. -/
def putDram (line : Nat) (l : DramLine) (s : State) : State :=
  if holdsLine s line then { s with dram := s.dram.ins (dramLine line) l } else putLine line l s

/-- A slice marks a line of its data array modified or not. -/
def markLine (line : Nat) (modified : Bool) (s : State) : State :=
  let home := homePlace (line * 32)
  let sl := sliceAt s home
  setSlice s home { sl with lines := sl.lines.ins line modified }

/-- A modified line goes back to DRAM (R520). -/
def writeBack (line : Nat) (s : State) : State :=
  if inAlt (line * 32) then putDram (framePa (line * 32) / 32) (lineHere s line) (openRow line s)
  else openRow line { s with dram := s.dram.del (dramLine line) }

/-- The replacement of a line by its slice: written back if modified, then gone from the data array. A line it had
unmodified is DRAM's again. -/
def replaceLine (line : Nat) (s : State) : State :=
  let home := homePlace (line * 32)
  let back : State :=
    if (sliceAt s home).lines.get false line then writeBack line s
    else if inAlt (line * 32) ∨ !(s.dram.any (fun e => e.1 == dramLine line)) then s
    else
      let s' := putLine line (lineInDram s line) s
      { s' with dram := s'.dram.del (dramLine line) }
  let s := if inAlt (line * 32) then { back with mem := putCells back.mem (cellsAt (line * 32) (List.replicate 32 0)) } else back
  let sl := sliceAt s home
  setSlice s home { sl with lines := sl.lines.del line, hot := sl.hot.filter (fun l => l != line) }

/-- The slice's own replacement of one of its lines, which is a free choice (R520): the k-th, or none beyond them. -/
def replaceNth (home k : Nat) (s : State) : State :=
  match (sliceAt s home).lines[k]? with
  | some x => replaceLine x.1 s
  | none => s

/-- A line enters its slice's data array from DRAM; where the array is full, another goes. -/
def fillLine (line : Nat) (s : State) : State :=
  if !inDram (line * 32) || holdsLine s line then s
  else
    let home := homePlace (line * 32)
    let s := if (sliceAt s home).lines.length < sliceLines then s
      else replaceNth home (Config.freeChoice sliceLines s.fresh % sliceLines) (nextFresh s)
    let s := if inAlt (line * 32) then putLine line (lineInDram s (framePa (line * 32) / 32)) s else s
    let sl := sliceAt s home
    openRow line (setSlice s home { sl with lines := sl.lines.ins line false, hot := (line :: sl.hot).take hotLines })

/-- The slice is about to modify a line: DRAM keeps what it had (R520). -/
def dirtyLine (s : State) (line : Nat) : State :=
  if !inDram (line * 32) then s
  else
    let s := fillLine line s
    let s := if inAlt (line * 32) ∨ s.dram.any (fun e => e.1 == dramLine line) then s
      else { s with dram := s.dram.ins (dramLine line) (lineHere s line) }
    markLine line true s

/-- Writes bytes at their home, with no other effect than the slice's dirty lines (R520) and the poison a whole-word
write clears (R483). Bytes of a peer's memory go out on the link (R448). A whole doubleword of the debug block is a
register write (R470). -/
def rawWrite (s : State) (cs : List (Nat × Byte)) : State :=
  let s := (linesOf cs).foldl dirtyLine s
  let whole := (wordsOf cs).filter (fun w => (List.range 8).all (fun i => cs.any (fun c => c.1 == w * 8 + i)))
  let peers := cs.filter (fun c => decide (peerBase ≤ c.1) && decide (c.1 < debugBase))
  let regs := whole.filter (fun w => decide (debugBase ≤ w * 8))
  let out := match peers with
    | [] => []
    | c :: _ => [Out.peerWrite ((c.1 - peerBase) / 2 ^ 40) (c.1 % 2 ^ 40) (peers.map (fun x => x.2))]
  { s with mem := putCells s.mem (cs.filter (fun c => decide (c.1 < peerBase))),
           poison := if whole.any (fun w => w ∈ s.poison) then s.poison.filter (fun w => !(w ∈ whole)) else s.poison,
           out := s.out ++ out,
           agenda := s.agenda ++ regs.map (fun w => ⟨.registerWrite (0x1000000 + (w * 8 - debugBase))
             (w64 (leNat ((List.range 8).map (fun i =>
               ((cs.reverse.find? (fun c => c.1 == w * 8 + i)).map (fun c => c.2)).getD 0)))), none⟩) }

/-- DRAM holds the slice's value of the line, which the slice keeps: it is written back if the slice has modified it (R178, R520). -/
def cleanLine (s : State) (line : Nat) : State :=
  if (sliceAt s (homePlace (line * 32))).lines.get false line then markLine line false (writeBack line s) else s

/-! ### Page tables (19) -/

/-- What a walk finds (R435). -/
inductive Walk where
  /-- A leaf: the page's base, its size in address bits, the entry and its address. -/
  | leaf (va bits : Nat) (pte : Word) (pa : Nat)
  | absent
  /-- A malformed entry, by its address. -/
  | malformed (pa : Nat)
  deriving DecidableEq, Repr

def pteV (e : Word) : Bool := fld e 0 1 == 1
def pteType (e : Word) : Nat := fld e 1 2
def pteR (e : Word) : Bool := fld e 3 1 == 1
def pteW (e : Word) : Bool := fld e 4 1 == 1
def pteX (e : Word) : Bool := fld e 5 1 == 1
def pteDomain (e : Word) : Nat := fld e 6 10
def pteA (e : Word) : Bool := fld e 16 1 == 1
def pteD (e : Word) : Bool := fld e 17 1 == 1
def ptePin (e : Word) : Bool := fld e 18 1 == 1
def pteBig (e : Word) : Bool := fld e 63 1 == 1
/-- FRAME of a memory leaf or table pointer, as an address. -/
def pteFrame (e : Word) : Nat := fld e 25 27 * 4096
/-- FRAME on the peer and DEVICE of a remote leaf. -/
def pteRemoteFrame (e : Word) : Nat := fld e 28 27 * 4096
def pteDevice (e : Word) : Nat := fld e 19 9
/-- LBA and DRIVE of a storage-backed leaf. -/
def pteLba (e : Word) : Nat := fld e 22 40
def pteDrive (e : Word) : Nat := fld e 19 3

/-- The address field RSVBASE (R461); DRAM from there on is the firmware's (R518). Before boot it is 0 and reserves
nothing. -/
def inReserved (s : State) (pa : Nat) : Bool := s.host.rsvbase != 0 && decide (s.host.rsvbase.toNat ≤ pa)

/-- An entry read as a leaf for a page of 2 ^ n bytes (R434, R435): reserved bits, alignment, range. -/
def leafOk (s : State) (e : Word) (n : Nat) (level idx : Nat) : Bool :=
  let big := pteBig e
  fld e 62 1 == 0 &&
  (if big && level == 0 then idx % 16 == 0 else true) &&
  (match pteType e with
   | 0 => fld e 52 10 == 0 && fld e 19 6 == 0 && pteFrame e % 2 ^ n == 0 && decide (pteFrame e < dramTop) &&
       !inReserved s (pteFrame e)
   | 1 => level == 0 && big
   | 2 => fld e 55 7 == 0 && pteRemoteFrame e % 2 ^ n == 0 && decide (pteRemoteFrame e < dramTop)
   | _ => false)

/-- An entry read as a pointer to the next table (R435). -/
def pointerOk (s : State) (e : Word) : Bool :=
  fld e 62 1 == 0 && fld e 52 10 == 0 && fld e 19 6 == 0 && fld e 6 13 == 0 && !pteBig e &&
  decide (pteFrame e < dramTop) && !inReserved s (pteFrame e)

def isPointer (e : Word) : Bool := pteType e == 0 && fld e 3 3 == 0

/-- One level of a walk (R433, R435): level, table address, virtual address. -/
def walkFrom (s : State) (va : Nat) : Nat → Nat → Walk
  | 0, table =>
    let first := table + bits va 16 5 * 16 * 8
    let ef := cur64 s first
    if pteV ef && pteBig ef then
      (if leafOk s ef 16 0 0 && !isPointer ef then .leaf (va / 65536 * 65536) 16 ef first else .malformed first)
    else
      let at_ := table + bits va 12 9 * 8
      let e := cur64 s at_
      if !pteV e then .absent
      else if leafOk s e 12 0 1 && !isPointer e then .leaf (va / 4096 * 4096) 12 e at_
      else .malformed at_
  | level + 1, table =>
    let lo := 12 + 9 * (level + 1)
    let at_ := table + bits va lo (if level = 3 then 8 else 9) * 8
    let e := cur64 s at_
    if !pteV e then .absent
    else if isPointer e then (if pointerOk s e then walkFrom s va level (pteFrame e) else .malformed at_)
    else if level + 1 ≤ 2 then
      (if leafOk s e lo (level + 1) 1 then .leaf (va / 2 ^ lo * 2 ^ lo) lo e at_ else .malformed at_)
    else .malformed at_

/-- The walk of a paged virtual address from the translation root (R433). -/
def walk (s : State) (va : Nat) : Walk := walkFrom s va 4 (fld s.host.xroot 12 27 * 4096)

/-! ### The context table and the vault (17) -/

/-- The address of a field of context n's table entry (R395). -/
def ctxField (s : State) (n off : Nat) : Nat := s.host.ctxtab.toNat + 1024 * n + off

/-- A doubleword of context n's table entry. -/
def ctxWord (s : State) (n off : Nat) : Word := cur64 s (ctxField s n off)

def thrMax (s : State) (n : Nat) : Nat := fld (ctxWord s n 0x18) 0 21
def vdom (s : State) (n : Nat) : Nat := fld (ctxWord s n 0x18) 32 10
def ncells (s : State) (n : Nat) : Nat := fld (ctxWord s n 0x18) 42 10
/-- The context's core count (R398). -/
def coreCount (s : State) (n : Nat) : Nat := 4 * ncells s n
def fmode (s : State) (n : Nat) : Word := ctxWord s n 8

/-- The right a context's map gives in a domain: 0 none, 1 read, 2 read-write, 3 read-write-execute (R87, R395). -/
def domainRight (s : State) (n d : Nat) : Nat :=
  bits (curByte s (ctxField s n 0x200 + d / 4)).toNat (d % 4 * 2) 2

/-- The physical core of a context's logical core, by the core table's order as placed (R398). -/
def physCore (s : State) (n lcore : Nat) : Option Nat :=
  (ctxAt s n).cells[lcore / 4]?.map (fun cell => 4 * cell + lcore % 4)

/-- The logical number of a core, 0 for a core no context owns. -/
def lcoreOf (s : State) (c : Nat) : Nat :=
  match (coreAt s c).owner with
  | some (_, l) => l
  | none => 0

/-- Where a virtual address lies for the device's own accesses, which are never refused (R397): no protection, and no
translation entry. None where no memory page is mapped. -/
def devPa (s : State) (n : Nat) (va : Nat) : Option Nat :=
  match region (w64 va) with
  | .paged =>
    match walk s va with
    | .leaf base _ pte _ =>
      if pteType pte = 0 then some (placeFor (sliceOfVa va) (pteFrame pte + (va - base))) else none
    | _ => none
  | .linear pa => if pa < dramTop then some pa else none
  | .window lc off => (physCore s n lc).map (fun c => spadPa c off)
  | _ => none

/-! ### Parks, wakes, completion -/

/-- A hardware wake (R229): KIND, INFO, g7 0. -/
def hwMsg (kind info : Nat) : Msg := ⟨BitVec.ofNat 8 kind, BitVec.ofNat 56 info, 0⟩

/-- Sends a wake to the slot where its sender knows the thread to be (R130). -/
def sendWake (th : Thr) (m : Msg) (s : State) : State := post (.wakeAtSlot th m) s

/-- The delivered message (R229): g6 and g7 full. -/
def takeMsg (m : Msg) (t : Thread) : Thread :=
  let g6 : Word := m.info ++ m.kind
  { t with regs := (t.regs.set 6 { st := .full, val := g6 }).set 7 { st := .full, val := m.data } }

/-- The sequential successor of a PC. -/
def pcNext (pc : BitVec 48) : BitVec 48 := pc + 4

/-- The thread's instruction ends: its pass runs to the eighth cycle after its issue (R127), and a debugger's step
ends with it (R475). -/
def settled (s : State) (t : Thread) : Thread :=
  { t with form := .ready, readyAt := Nat.max (t.issued + 8) s.cycle, noCmp := false, stay := false, inBlk := false,
           behind := [], dbgStep := if t.dbgStep = 1 then 2 else t.dbgStep }

/-- Ends the executing thread's instruction with PC + 4; a fault its result has raised stands (R284). -/
def advance (s : State) : State :=
  mapMe (fun t =>
    match t.form with
    | .trapping _ => t
    | _ => settled s { t with pc := pcNext t.pc }) s

/-- The words of the text line that holds PC, as the core's instruction cache holds them for a level (R385). -/
def itextKey (pc : BitVec 48) (priv : Nat) : Nat := 4 * (pc.toNat / 32) + priv

def privOf (t : Thread) : Nat := fld t.status 0 2
def migOf (t : Thread) : Bool := fld t.status 2 1 == 1
def pinOf (t : Thread) : Bool := fld t.status 3 1 == 1
def vlOf (t : Thread) : Bool := fld t.status 4 1 == 1
def keepOf (t : Thread) : Bool := fld t.status 5 1 == 1
def prioOf (t : Thread) : Nat := fld t.status 6 2

/-- The instruction word a core's cache holds at PC for a level. -/
def textWord (s : State) (c : Nat) (pc : BitVec 48) (priv : Nat) : Option (BitVec 32) :=
  ((coreAt s c).itext.get [] (itextKey pc priv))[pc.toNat / 4 % 8]?

/-- The word of the instruction the executing thread raises a fault in, for the record (R418). -/
def faultWord (s : State) : Word :=
  match textWord s (myCore s) (me s).pc (privOf (me s)) with
  | some w => w.zeroExtend 64
  | none => 0

/-- Raise (R10): the instruction ends, the slot stops issuing, and delivery begins (R419 steps 1 and 2). -/
def raiseAt (p : Nat) (f : Trap) (s : State) : State :=
  post (.trapDelivery p) (mapThread p (fun t => { t with form := .trapping { f with cycle := s.cycle }, noCmp := false, stay := false, inBlk := false, behind := [] }) s)

/-- The executing instruction raises. -/
def raiseWith (f : Trap) (s : State) : State := raiseAt s.cur f s

/-- Raise a cause with info and address, at the executing instruction (R10, R418).
DEDUCED, unsafe: log entry 47. -/
def raise (c : Cause) (info addr : Word) (s : State) : State :=
  raiseWith { cause := c, info := info, addr := addr, restart := (me s).pc, word := faultWord s } s

/-- A held fault is raised by its consumer: the register goes to E (R37), DEF is set, the producer's PC kept. -/
def raiseHeld (r : Nat) (f : HeldFault) (s : State) : State :=
  let s := mapMe (fun t => { t with regs := t.regs.setIfInBounds r { (t.regs[r]?.getD {}) with st := .empty, held := none } }) s
  raiseWith { cause := f.cause, info := f.info, addr := f.addr, restart := (me s).pc, word := faultWord s,
              producer := some f.pc } s

/-- The last PC (R27). -/
def topPc : BitVec 48 := BitVec.ofNat 48 (2 ^ 48 - 4)

/-- An instruction at PC = 2^48 − 4 that would complete without a jump raises MISFETCH instead, with no effect (R27). -/
def atTop (s : State) : Bool := (me s).pc == topPc

/-- Completion: s is the state at issue, s' the state with the instruction's effects (R27). Where the result was refused
(a scale word with a reserved bit, R284), the fault is exact: nothing of s' stays. -/
def complete (s s' : State) : State :=
  match (me s').form with
  | .trapping t => raiseWith t s
  | _ => if atTop s then raise .misfetch 0 (w64 (2 ^ 48)) s else advance s'

/-- A taken jump, its target already checked. -/
def jumpTo (target : Nat) (s : State) : State :=
  mapMe (fun t => settled s { t with pc := BitVec.ofNat 48 target }) s

/-- Whether a jump target is out of rule (R27). -/
def badTarget (t : Nat) : Bool := t % 4 != 0 || decide (2 ^ 48 ≤ t)

/-- Whether delivering a message is an acquire (R237, R328, R348, R360, R374): a sent message, a timeline's, a notify, a
barrier's with a completion status, a collective's with status 0 or 1. -/
def msgAcquires (m : Msg) : Bool :=
  match m.kind.toNat with
  | 0x08 => decide (bits m.info.toNat 52 4 ≤ 7)
  | 0x09 => true
  | 0x0A => decide (bits m.info.toNat 8 4 ≤ 1)
  | 0x0B => true
  | 0x10 => true
  | 0x11 => true
  | 0x12 => true
  | _ => false

/-- A message delivered to a thread: its registers, and the merge floor where it acquires (R110, R229). -/
def tookMsg (s : State) (m : Msg) (t : Thread) : Thread :=
  { takeMsg m t with floor := if msgAcquires m then s.time8 else t.floor }

/-- Whether a thread's instruction is still in its pass, which lasts through the seventh cycle after its issue (R127). -/
def inPass (s : State) (t : Thread) : Bool := decide (s.cycle < t.issued + 8)

/-- The end of the normaliser's next use, from now: it begins where the using thread's pass ends, so that the thread forfeits its
next 4 turns at least (R78). DEDUCED, unsafe: log entry 80. -/
def normaliserTime (s : State) (th : Thr) : Nat :=
  10 * ((((threadAt s th.slot).map (fun t => t.issued + 8)).getD 0 - s.cycle) + 4)

/-- A thread whose instruction will be issued again (R10): ready when the pass is over. -/
def reissued (s : State) (t : Thread) : Thread :=
  { t with form := .ready, readyAt := Nat.max (t.issued + 8) s.cycle, behind := [] }

/-- A park of a slot's thread ends: the wake completes the instruction, or it is issued again (R10). One that no PC follows
raises MISFETCH instead of completing (R27). -/
def endPark (p : Nat) (k : Park) (m : Msg) (s : State) : State :=
  match threadAt s p with
  | none => s
  | some t =>
    if k.completes = false then setThread s p (reissued s t)
    else if t.pc = topPc then
      raiseAt p { cause := .misfetch, info := 0, addr := w64 (2 ^ 48), restart := t.pc, word := faultWord { s with cur := p } } s
    else setThread s p (settled s (tookMsg s m { t with pc := pcNext t.pc }))

/-- The latch of a slot is consumed by the park of its thread (R129). -/
def consumeLatch (p : Nat) (k : Park) (s : State) : State :=
  match (slotAt s p).latch with
  | some m => endPark p k m (setSlot s p { slotAt s p with latch := none })
  | none => s

/-- Park (R10, R129, R138): the thread is parked when it leaves the pipeline, and a set latch is consumed then. An
instruction still in its pass leaves it at its end (endPass). -/
def park (p : Park) (s : State) : State :=
  let s' := mapMe (fun t => { t with form := .parked p, parkT := s.time8, behind := [] }) s
  if inPass s (me s) then s' else consumeLatch s.cur p s'

/-- The attempt has had no effect and starts again while its condition fails: the thread is in flight meanwhile.
DEDUCED, unsafe: log entry 37. -/
def waitRetry (s : State) : State := mapMe (fun t => { t with form := .inFlight .retry, readyAt := s.cycle + 8 }) s

/-- The executing thread stays in flight for an answer. -/
def inFlight (w : WaitFor) (s : State) : State := mapMe (fun t => { t with form := .inFlight w }) s

/-! ### Energy and traces (17, 21) -/

/-- Charges a context in picojoules (R413). -/
def charge (n pj : Nat) (s : State) : State :=
  setCtx s n { ctxAt s n with energyPj := (ctxAt s n).energyPj + pj }

/-- Charges for 32-byte units moved (R413). -/
def chargeMove (n units : Nat) (s : State) : State := charge n (25 * units) s
def chargeDram (n units : Nat) (s : State) : State := charge n (102 * units) s

/-- Queues a trace record of a kind the context's mask enables (R471 to R473). -/
def trace (n kind slot core tid : Nat) (pc data : Word) (s : State) : State :=
  let c := ctxAt s n
  if fld c.trace.w1 kind 1 = 1 then
    let chip := chipOfCore core
    let q := c.trace.queues.get [] chip
    if q.length < 256 then
      let w0 := w64 (kind + slot % 16 * 2 ^ 8 + core * 2 ^ 12 + n * 2 ^ 24 + tid * 2 ^ 36)
      let tr := { c.trace with queues := c.trace.queues.put [] chip (q ++ [[w0, pc, w64 (tick s), data]]) }
      post (.traceRecordWrite n chip) (setCtx s n { c with trace := tr })
    else
      setCtx s n { c with trace := { c.trace with dropped := c.trace.dropped + 1, gap := c.trace.gap + 1 } }
  else s

/-! ### Host events and error records (20, 21) -/

/-- Posts an event to the host (R26, R463), in order at its unit (eventUnit). -/
def hostEvent (e : HostEvent) (s : State) : State :=
  post .hostEventPost { s with host := { s.host with waiting := s.host.waiting ++ [e] } }

/-- Where an error was found (R482 doublewords 2 and 3). -/
structure ErrLoc where
  w2 : Word := 0
  w3 : Word := 0
  valid : Nat := 0
  deriving DecidableEq, Repr

/-- The location of a core and slot (R482). -/
def coreLoc (c slot : Nat) : ErrLoc :=
  let cell := c / 4
  { w2 := w64 (chipOfCell cell + cell % 48 * 2 ^ 3 + cell / 48 * 2 ^ 9 + c % 4 * 2 ^ 14 + slot % 16 * 2 ^ 16), valid := 1 }

/-- The location of a slice or another unit of a cell (R482). -/
def cellLoc (cell : Nat) : ErrLoc :=
  { w2 := w64 (chipOfCell cell + cell % 48 * 2 ^ 3 + cell / 48 * 2 ^ 9 + 2 ^ 13) }

/-! ### Tiles at their home (10) -/

/-- The cores of a context's partition on a chiplet. -/
def chipCores (s : State) (ctx chip : Nat) : List Nat :=
  ((ctxAt s ctx).cells.filter (fun c => chipOfCell c == chip)).flatMap (fun c => (List.range 4).map (fun i => 4 * c + i))

def tagFormat (t : BitVec 16) : Nat := bits t.toNat 10 6
def tagSparsity (t : BitVec 16) : Nat := bits t.toNat 8 2
def tagLayout (t : BitVec 16) : Nat := bits t.toNat 6 2
def tagScale (t : BitVec 16) : Nat := bits t.toNat 4 2
def tagRaww (t : BitVec 16) : Bool := bits t.toNat 2 1 == 1

/-- The place of a byte of a page whose eviction is going on: its leaf is in storage form already, and the frame is being made
current (R445 steps 2 to 5). -/
def evictingPlace (s : State) (va : Nat) : Option Nat :=
  s.sqes.findSome? (fun q => q.2.ops.findSome? (fun o => match o.2 with
    | some (.evict page _ _ _ entry _) =>
      if page ≤ va ∧ va < page + 65536 then some (placeFor (sliceOfVa va) ((rd64 s entry).toNat + (va - page))) else none
    | _ => none))

/-- The place of a byte of a tile at its home (R247); the frame of a page being evicted is still its place (R254). -/
def tileByte (s : State) (e : TileEnt) (off : Nat) : Option Nat :=
  (devPa s e.ctx (e.base.toNat + off)).or
    (match region e.base with
     | .paged => evictingPlace s (e.base.toNat + off)
     | _ => none)

/-- The place of a byte of a tile: at its home, or on the peer whose page it lies in (R448). -/
def tilePlace (s : State) (e : TileEnt) (off : Nat) : Option Nat :=
  let va := e.base.toNat + off
  (tileByte s e off).or
    (match region e.base, walk s va with
     | .paged, .leaf b _ pte _ =>
       if pteType pte = 2 then some (peerPa (pteDevice pte) (pteRemoteFrame pte + (va - b))) else none
     | _, _ => none)

/-- The line of the i-th line of a tile. -/
def tileLine (s : State) (e : TileEnt) (i : Nat) : Option Nat := (tilePlace s e (32 * i)).map (fun pa => pa / 32)

/-- Whether a physical line belongs to a tile (R247). -/
def tileHas (s : State) (e : TileEnt) (line : Nat) : Bool :=
  (List.range (e.span / 32)).any (fun i => tileLine s e i == some line)

/-- The tile a line belongs to, at the slice that serves the access. -/
def tileAt (s : State) (slice line : Nat) : Option TileEnt :=
  (sliceAt s slice).tiles.find? (fun e => tileHas s e line)

/-- Changes a tile entry of a slice. -/
def mapTile (slice idx : Nat) (f : TileEnt → TileEnt) (s : State) : State :=
  let sl := sliceAt s slice
  setSlice s slice { sl with tiles := sl.tiles.map (fun x => if x.idx = idx then f x else x) }

/-- The copies of a tile: core and slot. Past 16 sharers, every core of the partition on the chiplets of the mask (R251), with
32 for a slot that is not known. -/
def tileCopies (s : State) (e : TileEnt) : List (Nat × Nat) :=
  match e.owner with
  | some o => [o]
  | none => e.sharers ++ e.mask.flatMap (fun chip => (chipCores s e.ctx chip).map (fun c => (c, 32)))

/-- The sharers of a tile with some more (R251). -/
def addSharers (new : List (Nat × Nat)) (e : TileEnt) : TileEnt :=
  let l := e.sharers ++ new.filter (fun x => !(x ∈ e.sharers))
  if e.mask = [] ∧ l.length ≤ 16 then { e with sharers := l }
  else { e with sharers := [], mask := (e.mask ++ l.map (fun x => chipOfCore x.1)).eraseDups }

/-- Recalls some copies of a tile, once; the answers come as TILE_DRAIN and TILE_DROP. -/
def recallCopies (slice : Nat) (e : TileEnt) (cs : List (Nat × Nat)) (s : State) : State :=
  if e.recalls = [] then
    cs.foldl (fun s c => postOrd (sliceUnit slice) c.1 (.tileRecall c.1 e.ctx e.handle) s)
      (mapTile slice e.idx (fun x => { x with recalls := cs, mask := [] }) s)
  else s

/-- Recalls every copy of a tile, unless the home still guarantees the use of a promoted one (R256). -/
def recallTile (slice : Nat) (e : TileEnt) (s : State) : State :=
  if e.hold = [] then recallCopies slice e (tileCopies s e) s else s

/-! ### Lines at their home (R95, R114 to R117, R213) -/

/-- The unit that serves a place: a slice by its number, or 1,024 plus the core that owns a scratchpad. -/
def homeOf (va : Word) (pa : Nat) : Nat :=
  if isSpad pa then 1024 + spadCore pa
  else match region va with
    | .paged => sliceOfVa va.toNat
    | _ => sliceOfPa pa

/-- A home's unit number on the mesh. -/
def homeUnit (home : Nat) : Nat := if home < 1024 then sliceUnit home else home - 1024

/-- The order a request at a line stands in at its home: its tile's, or the line's own (R255). -/
def lineChan (s : State) (home line : Nat) : Nat × Nat :=
  match tileAt s home line with
  | some e => waitChan home true e.idx
  | none => waitChan home false line

/-- Whether a home is fenced (R169 step 7, R483). -/
def homeFenced (s : State) (home : Nat) : Bool :=
  if home < 1024 then (cellAt s home).fenced
  else (coreAt s (home - 1024)).fenced || (cellAt s (cellOfCore (home - 1024))).fenced

/-- Fires the monitors of a word and clears its W bit (R210, R219). -/
def touchWord (home w : Nat) (s : State) : State :=
  let m := wordAt s w
  if m.mons = [] ∧ m.w = false then s
  else
    let s := setWord s w { m with mons := [], w := false, wva := 0 }
    let s := m.mons.foldl (fun s x => sendWake x.th (hwMsg 3 (fld x.va 0 56)) s) s
    if m.w then post (.waitovf (if home < 1024 then home else (home - 1024) / 4) w m.wva) s else s

/-- The slots of a core whose staging range holds a byte written at offset off get MOD in own mode (R257). -/
def markMod (core off : Nat) (s : State) : State :=
  let c := coreAt s core
  if c.tslots.toList.any (fun t => t.st != .empty && t.own && !t.mod && decide (t.off ≤ off) && decide (off < t.off + t.span)) then
    setCore s core { c with tslots := c.tslots.map (fun t =>
      if t.st ≠ .empty ∧ t.own ∧ t.off ≤ off ∧ off < t.off + t.span then { t with mod := true } else t) }
  else s

/-- A line write of a tile with a scale mode sets STALE (R253). -/
def markStale (home line : Nat) (s : State) : State :=
  match tileAt s home line with
  | some e => if tagScale e.tag ≠ 0 then mapTile home e.idx (fun x => { x with tag := x.tag ||| 8 }) s else s
  | none => s

/-- A line of a peer's memory was written: tiles it lies in are stale at whichever slice declares them (R253, R448). -/
def stalePeer (line : Nat) (s : State) : State := s.slices.foldl (fun s x => markStale x.1 line s) s

/-- Whether an engine's command is queued or runs. -/
def cmdRuns (s : State) (x : CmdName) : Bool :=
  if x.array then ((cellAt s x.at_).eng[x.e]?.getD {}).queue.any (fun q => q.n == x.n && !q.finished)
  else ((coreAt s x.at_).copy[x.e]?.getD {}).queue.any (fun q => q.n == x.n && !q.finished)

/-- Whether a tile's home serves the tile write of an engine's command, other than the one given (R255). -/
def engineHolds (s : State) (e : TileEnt) (but : Option CmdName) : Bool :=
  e.engine.any (fun x => some x != but && cmdRuns s x)

/-- A unit of the mesh that is a peer device. -/
def isPeerUnit (u : Nat) : Bool := decide (8192 ≤ u) && decide (u < 8192 + 512)

/-- Sends the invalidation of a line to a core, or over Span to a peer device (R95, R101, R466). -/
def sendInv (home line : Nat) (s : State) (u : Nat) : State :=
  if isPeerUnit u then { s with out := s.out ++ [.peerInvalidate (u - 8192) (line * 32)] }
  else postOrd (homeUnit home) u (.invalidation u line) s

/-- Sends the invalidations of a write to every copy but the writer's (R95, R101). -/
def invalidateLine (home line : Nat) (keep : Option Nat) (writer : Option Thr) (s : State) : State :=
  let d := dirAt s line
  let out := d.sharers.filter (fun c => some c != keep)
  if out = [] then s
  else
    out.foldl (sendInv home line) (setDir s line { d with
      sharers := d.sharers.filter (fun c => some c == keep), invs := d.invs ++ out.map (fun c => ⟨c, writer⟩) })

/-- Fills that wait for a victim are tried again (R445). -/
def retryFills (s : State) : State :=
  s.sqes.foldl (fun s q => q.2.waiting.foldl (fun s va =>
    if s.agenda.any (fun f => f.ev == .storageFaultAccept q.1 (w64 va)) then s else post (.storageFaultAccept q.1 (w64 va)) s) s) s

/-- Whether a byte lies in the region table or in a valid region's ring (R442). -/
def inRegions (s : State) (pa : Nat) : Bool :=
  let t := s.host.regtab.toNat
  s.host.regtab != 0 && ((decide (t ≤ pa) && decide (pa < t + 16384)) ||
    (List.range 256).any (fun i =>
      let w (j : Nat) : Nat := (cur64 s (t + 64 * i + 8 * j)).toNat
      w 0 % 2 == 1 && decide (w 5 ≤ pa) && decide (pa < w 5 + 32 * (w 6 % 2 ^ 32))))

/-- A write that changes a region or a ring entry has the fills that wait for a victim tried again (R445). -/
def noteRegions (cells : List (Nat × Byte)) (s : State) : State :=
  if s.sqes.any (fun q => q.2.waiting != []) && cells.any (fun c => inRegions s c.1) then retryFills s else s

/-- A write performed at the home of each of its bytes: data, DRAM's old copy, poison, invalidations, monitors, tag upkeep,
MOD. keep is the core that keeps its copies, writer the thread whose write it is. -/
def performWrite (cells : List (Nat × Byte)) (keep : Option Nat) (writer : Option Thr) (s : State) : State :=
  let s := noteRegions cells (rawWrite s cells)
  let s := (linesOf cells).foldl (fun s l =>
    if inDram (l * 32) then
      markStale (homePlace (l * 32)) l (invalidateLine (homePlace (l * 32)) l keep writer s)
    else if inPeer (l * 32) then stalePeer l s
    else s) s
  let s := (wordsOf cells).foldl (fun s w => touchWord (homePlace (w * 8)) w s) s
  cells.foldl (fun s c => if isSpad c.1 then markMod (spadCore c.1) ((c.1 - spadBase) % spadSize) s else s) s

/-- Performs a collect whose partials are all at the home, as one write (R115, R116). -/
def collectLine (line : Nat) (s : State) : State :=
  let d := dirAt s line
  match d.uop with
  | none => s
  | some op =>
    let ps := d.parts.foldl (fun l p => insertPart p l) []
    let size := amoSize op
    let s0 := fillLine line (setDir s line { d with uop := none, ucores := [], recalled := [], parts := [] })
    let mem := ps.foldl (fun (m : Memory) p =>
      p.parts.foldl (fun (m : Memory) x =>
        let pa := line * 32 + x.1 * size
        let old := w64 (leNat ((List.range size).map (fun i => Tab.get 0 m (pa + i))))
        putCells m (cellsAt pa (leBytes size (amoNew op old x.2).toNat))) m) s0.mem
    let touched := (List.range (32 / size)).filter (fun i => ps.any (fun p => p.parts.any (fun x => x.1 == i)))
    let cells := touched.flatMap (fun i => cellsAt (line * 32 + i * size)
      ((List.range size).map (fun j => Tab.get 0 mem (line * 32 + i * size + j))))
    if cells = [] then s0 else performWrite cells none none s0

/-- How an access uses a line at its home (R213). -/
inductive LineUse where
  /-- It is the host's own. -/
  | host
  | read
  | write
  deriving DecidableEq, Repr

/-- The home asks for the host's copy of a line: one back-invalidation for the 64-byte host line, which acts on both device
lines (R213, R260). One for a read asks for the data only. -/
def askHost (line : Nat) (rd : Bool) (s : State) : State :=
  let mark (l : Nat) (s : State) : State :=
    if (dirAt s l).host then setDir s l { dirAt s l with snooped := true, reading := rd } else s
  { mark (line / 2 * 2 + 1) (mark (line / 2 * 2) s) with out := s.out ++ [.snoop (line / 2)] }

/-- What a line in HS asks of the host before an access (R213): its data for each read, after which the line stays in HS; its
copy for a write. Then the slice holds the line. False means the access waits. -/
def prepHost (line : Nat) (u : LineUse) (s : State) : Bool × State :=
  let d := dirAt s line
  match u with
  | .host => (true, fillLine line s)
  | .read =>
    if d.host = false then (true, fillLine line s)
    else if d.shown then (true, fillLine line (setDir s line { d with shown := false }))
    else (false, if d.snooped then s else askHost line true s)
  | .write =>
    if d.host then (false, if d.snooped then s else askHost line false s) else (true, fillLine line s)

/-- U copies of a line are collected unless the access is a red of the same operation (R115), then the host asked. -/
def prepCopies (line : Nat) (red : Option AmoOp) (u : LineUse) (s : State) : Bool × State :=
  let d := dirAt s line
  if d.uop.isSome ∧ d.uop ≠ red then
    if d.ucores = [] then prepHost line u (collectLine line s)
    else
      let new := d.ucores.filter (fun c => !(c ∈ d.recalled))
      (false, postAll (new.map (fun c => .collectRecallReply c line)) (setDir s line { d with recalled := d.recalled ++ new }))
  else prepHost line u s

/-- Makes a line ready for an access at its home, or at the slice that sends it to a peer (R213, R254, R448): staged tiles are recalled and the tile demoted, U copies
collected, the host asked. False means the access waits: what it waits for has been asked, and no stage that comes later is
served before it (R255, R256). -/
def prepLine (home line : Nat) (red : Option AmoOp) (u : LineUse) (s : State) : Bool × State :=
  if !inDram (line * 32) && !inPeer (line * 32) then (true, s)
  else
    match tileAt s home line with
    | some e =>
      if e.freeing ∨ e.serving ∨ engineHolds s e none then (false, s)
      else if tileCopies s e ≠ [] ∨ e.recalls ≠ [] then
        (false, mapTile home e.idx (fun x => { x with lineDue := true }) (recallTile home e s))
      else
        let q := prepCopies line red u s
        (q.1, if e.demoted ∧ e.lineDue = !q.1 then q.2
          else mapTile home e.idx (fun x => { x with demoted := true, lineDue := !q.1 }) q.2)
    | none => prepCopies line red u s

/-- prepLine over several lines that a device unit reads. -/
def prepLines (home : Nat) (lines : List Nat) (s : State) : Bool × State :=
  lines.foldl (fun r l => let q := prepLine home l none .read r.2; (r.1 && q.1, q.2)) (true, s)

/-- A request of a context whose access is ready: where its slice has taken the line from DRAM for it, the context is charged,
and again where the line that made room was written back, the request being the cause of both (R413; DEDUCED, unsafe: log entry
90). -/
def filledFor (ctx line : Nat) (before : State) (r : Bool × State) : Bool × State :=
  if holdsLine before line || !holdsLine r.2 line then r
  else
    let out := (sliceAt before (homePlace (line * 32))).lines.any (fun x => x.2 && !holdsLine r.2 x.1)
    let n := if out then 2 else 1
    (r.1, chargeDram ctx n (chargeMove ctx n r.2))

/-- prepLine for a request of a context. -/
def prepFor (ctx home line : Nat) (red : Option AmoOp) (u : LineUse) (s : State) : Bool × State :=
  filledFor ctx line s (prepLine home line red u s)

/-- prepFor over several lines. -/
def prepAllFor (ctx home : Nat) (lines : List Nat) (u : LineUse) (s : State) : Bool × State :=
  lines.foldl (fun r l => let q := prepFor ctx home l none u r.2; (r.1 && q.1, q.2)) (true, s)

/-- The host's copy of a line is taken back (R213). -/
def snoopLine (line : Nat) (s : State) : State :=
  if (dirAt s line).host = true ∧ (dirAt s line).snooped = false then askHost line false s else s

/-- The home takes a core's partial of a line; the core's copy is gone (R116, R117). -/
def takePartial (core line : Nat) (s : State) : State :=
  match uCopy s core line with
  | none =>
    let d := dirAt s line
    setDir s line { d with ucores := d.ucores.erase core, recalled := d.recalled.erase core }
  | some (k, op, parts) =>
    let c := coreAt s core
    let s := setCore s core { c with l1 := c.l1.del k }
    let d := dirAt s line
    let (ctx, lcore) := c.owner.getD (0, 0)
    let ps := match d.parts.find? (fun p => p.core == core) with
      | some _ => d.parts.map (fun p => if p.core = core then { p with parts := mergeParts op p.parts parts } else p)
      | none => if parts = [] then d.parts else d.parts ++ [⟨ctx, lcore, core, parts⟩]
    setDir s line { d with ucores := d.ucores.erase core, recalled := d.recalled.erase core, parts := ps,
                           uop := if ps = [] ∧ d.ucores.erase core = [] then none else d.uop }

/-- A collect whose recalls are answered within the access that triggers it (R115). DEDUCED, unsafe: log entry 41. -/
def collectNow (line : Nat) (s : State) : State :=
  match (dirAt s line).uop with
  | none => s
  | some _ => collectLine line ((dirAt s line).ucores.foldl (fun s c => takePartial c line s) s)

/-- A byte of the vault as the device reads it: a line in U as its collect would leave it (R115). Where no page is mapped, an
undefined byte (DESIGN CHOICE, unsafe: log entry 8). -/
def vByte (s : State) (n va : Nat) : Byte :=
  match devPa s n va with
  | some pa => curByte s pa
  | none => Config.freeByte s.fresh va

/-- The number n bytes of the vault hold. -/
def vNat (s : State) (ctx va : Nat) (n : Nat) : Nat :=
  leNat ((List.range n).map (fun i => vByte s ctx (va + i)))

def v64 (s : State) (ctx va : Nat) : Word := w64 (vNat s ctx va 8)

/-- The device's bytes stand over those of a copy of the line that is on its way back (R213). -/
def overCopy (line : Nat) (cells : List (Nat × Byte)) (s : State) : State :=
  let d := dirAt s line
  let mine := cells.filter (fun c => c.1 / 32 == line)
  setDir s line { d with above := d.above.filter (fun c => mine.all (fun m => m.1 != c.1)) ++ mine }

/-- A tile's copies are called back for a device unit's write of one of its lines, which demotes it (R254). -/
def devDemote (line : Nat) (cells : List (Nat × Byte)) (s : State) : State :=
  let home := homePlace (line * 32)
  match tileAt s home line with
  | none => s
  | some e =>
    let s := if e.owner.isSome then overCopy line cells s else s
    recallCopies home e (tileCopies s e) (mapTile home e.idx (fun x => { x with demoted := true }) s)

/-- A device unit writes its own structures at their home (R115, R213, R254): a line in U is collected first, the host's copy and
a tile's copies are taken back with the write, which stands over what they bring (DESIGN CHOICE, unsafe: log entry 20).
DEDUCED, unsafe: log entry 41. -/
def devWrite (cells : List (Nat × Byte)) (s : State) : State :=
  performWrite cells none none
    ((linesOf cells).foldl (fun s l =>
      let s := snoopLine l (collectNow l (devDemote l cells s))
      if (dirAt s l).host then overCopy l cells s else s) s)

/-- A device unit writes consecutive bytes from a place. -/
def devPut (pa : Nat) (bytes : List Byte) (s : State) : State := devWrite (cellsAt pa bytes) s

/-- Writes a doubleword at its home as the device's own structures are written. -/
def wr64 (s : State) (pa : Nat) (v : Word) : State := devPut pa (leBytes 8 v.toNat) s

/-- A device access writes bytes of a context's vault at their homes (R397). Bytes of no page are dropped (log entry
8). -/
def vput (ctx : Nat) (va : Nat) (bytes : List Byte) (s : State) : State :=
  let cs := (cellsAt va bytes).filterMap (fun c => (devPa s ctx c.1).map (fun pa => (pa, c.2)))
  if cs = [] then s else devWrite cs s

/-- The context-table field with the base of a vault area, by its place in the list of R395: 0 CONTBASE, 1 POOLBASE,
2 TQBASE, 3 CHAINBASE, 4 BARLINKBASE, 5 HELDBASE, 6 TILEBASE, 7 GRPBASE, 8 GRPMEMBASE, 9 GRPPEERBASE, 10 SPILLAREA,
11 SAVEBASE, 12 TASKBASE, 13 ARENABASE, 14 CORETAB, 15 ROUTETAB. -/
def areaBase (s : State) (ctx i : Nat) : Nat := (ctxWord s ctx (0x20 + 8 * i)).toNat

def vput64 (ctx va : Nat) (v : Word) (s : State) : State := vput ctx va (leBytes 8 v.toNat) s

/-- Writes an error record to the ring of 4,096 at ERRBASE and to the management controller; a full ring drops the
newest (R482). DEDUCED, unsafe: log entry 33. -/
def errorRec (source sev ctx : Nat) (loc : ErrLoc) (addr info synd : Word) (s : State) : State :=
  let ws : List Word :=
    [w64 (source + sev * 2 ^ 8 + ctx * 2 ^ 12 + s.ras.seq % 2 ^ 32 * 2 ^ 32), w64 (tick s), loc.w2, loc.w3, addr, info, synd,
      w64 (1 + loc.valid * 2 ^ 8)]
  if s.ras.errtail - s.ras.errhead < 4096 then
    let base := s.ras.errbase.toNat + 64 * (s.ras.errtail % 4096)
    let s := devPut base (ws.flatMap (fun w => leBytes 8 w.toNat)) s
    { s with ras := { s.ras with errtail := s.ras.errtail + 1, seq := s.ras.seq + 1 }, out := s.out ++ [.errorRecord ws] }
  else { s with ras := { s.ras with dropped := s.ras.dropped + 1, seq := s.ras.seq + 1 } }

/-- Appends to a slice's replay log (R479): requester's physical slot, 0xFFFF for the host or an engine.
DEDUCED, unsafe: log entry 35. -/
def replayLog (slice req word : Nat) (s : State) : State :=
  let sl := sliceAt s slice
  if fld sl.replay1 32 1 = 0 ∨ fld sl.replay1 33 1 = 1 then s
  else
    let base := fld sl.replay0 12 27 * 4096
    let size := 2 ^ fld sl.replay0 0 5
    let off := fld sl.replay1 0 32
    match sl.lastLog with
    | some (r, w, at_) =>
      if r = req ∧ w = word then
        let e := rd64 s (base + at_)
        wr64 s (base + at_) (setFld e 16 32 (fld e 16 32 + 1))
      else fresh sl base size off
    | none => fresh sl base size off
where
  fresh (sl : Slice) (base size off : Nat) : State :=
    let newAddr := match sl.lastLog with
      | some (_, w, _) => w != word
      | none => true
    let need := if newAddr then 16 else 8
    if size < off + need then setSlice s slice { sl with replay1 := setFld sl.replay1 33 1 1 }
    else
      let s := wr64 s (base + off) (w64 (req + 1 * 2 ^ 16 + b2n newAddr * 2 ^ 48))
      let s := if newAddr then wr64 s (base + off + 8) (w64 (word * 8)) else s
      setSlice s slice { sl with replay1 := setFld sl.replay1 0 32 (off + need), lastLog := some (req, word, off) }

/-! ### The store queue and releases (R100, R101, R104) -/

/-- The store-queue entries of a thread. -/
def sqOf (s : State) (core : Nat) (th : Thr) : List SqEnt :=
  (coreAt s core).sq.filter (fun e => e.th.tid == th.tid && e.th.ctx == th.ctx)

/-- Sends each thread's oldest entry, when it may be sent and none of the thread's is outstanding (R100). One behind a
faulted store waits for the handler (R121), but for a stop, which drains the queue (R120). -/
def drain (core : Nat) (s : State) : State :=
  let c := coreAt s core
  let ready (e : SqEnt) : Bool := e.rel.isNone &&
    (!e.held || (ctxAt s e.th.ctx).st == .stopping || (ctxAt s e.th.ctx).st == .killing) &&
    ((c.sq.find? (fun x => x.th.tid == e.th.tid && x.th.ctx == e.th.ctx)).map (fun x => x.id) == some e.id)
  let send := c.sq.filter (fun e => !e.sent && ready e)
  let s := if send = [] then s
    else setCore s core { c with sq := c.sq.map (fun e => if ready e then { e with sent := true } else e) }
  send.foldl (fun s e => postOrd core (homeUnit e.home) (.homeWrite (e.req.getD (.store core e.id))) s) s

/-- Queues an entry for the executing thread and drains. -/
def enqueue (e : SqEnt) (s : State) : State :=
  let core := myCore s
  let c := coreAt s core
  drain core (setCore s core { c with sq := c.sq ++ [{ e with id := c.sqId }], sqId := c.sqId + 1 })

/-- Every earlier store of the thread in a slot is acknowledged and the invalidations of R101 are collected. -/
def releasedAt (s : State) (p : Nat) (t : Thread) : Bool := sqOf s (p / 16) ⟨p, t.ctx, t.tid⟩ == [] && t.homes == []

/-- Sends the fence markers a release at a scope still needs (R101). -/
def sendMarkers (sc : BitVec 3) (p : Nat) (s : State) : State :=
  match threadAt s p with
  | none => s
  | some t =>
    if sqOf s (p / 16) ⟨p, t.ctx, t.tid⟩ ≠ [] then s
    else
      let new := t.homes.filter (fun h => !(h ∈ t.markers))
      if new = [] then s
      else
        let s := setThread s p { t with markers := t.markers ++ new }
        new.foldl (fun s h => postOrd (p / 16) (homeUnit h) (.fenceMarker ⟨p, t.ctx, t.tid⟩ h sc) s) s

/-- Runs k when the executing thread's release at a scope is complete; else the thread waits in flight (R104). -/
def released (sc : BitVec 3) (s : State) (k : State → State) : State :=
  if releasedAt s s.cur (me s) then k s else waitRetry (sendMarkers sc s.cur s)

/-- The units of a scope's instance around a core, for invalidations to L1s (R102). -/
def inScope (sc : BitVec 3) (core other : Nat) : Bool :=
  match sc.toNat with
  | 0 => core == other
  | 1 => cellOfCore core == cellOfCore other
  | 2 => chipOfCore core == chipOfCore other
  | 3 => !isPeerUnit other
  | _ => true

/-! ### Taking a fault (R416 to R424) -/

def Cause.code : Cause → Nat
  | .misfetch => 1 | .illinst => 2 | .privinst => 3 | .regempty => 4 | .badaddr => 5 | .prot => 6 | .misalign => 7
  | .fenced => 8 | .tagviol => 9 | .fmtcode => 10 | .fmtdesc => 11 | .fmtenc => 12 | .badopnd => 13 | .partbusy => 14
  | .queue => 15 | .tiledesc => 16 | .badtile => 17 | .tileslot => 18 | .engowned => 19 | .engfault => 20
  | .engconf => 21 | .taskerr => 22 | .barstate => 23 | .collerr => 24 | .textfmt => 25 | .texthash => 26
  | .syscall => 27 | .brkpt => 28 | .dblfault => 29 | .nomethod => 64 | .badcont => 65 | .waitovf => 66 | .gangnote => 67

/-- The cause of a code, as held-fault entries keep it (R404). -/
def causeOfCode (n : Nat) : Cause :=
  match n with
  | 1 => .misfetch | 2 => .illinst | 3 => .privinst | 4 => .regempty | 5 => .badaddr | 6 => .prot | 7 => .misalign
  | 8 => .fenced | 9 => .tagviol | 10 => .fmtcode | 11 => .fmtdesc | 12 => .fmtenc | 13 => .badopnd | 14 => .partbusy
  | 15 => .queue | 16 => .tiledesc | 17 => .badtile | 18 => .tileslot | 19 => .engowned | 20 => .engfault
  | 21 => .engconf | 22 => .taskerr | 23 => .barstate | 24 => .collerr | 25 => .textfmt | 26 => .texthash
  | 27 => .syscall | 28 => .brkpt | _ => .dblfault

/-- A trap block (R416). -/
structure TrapBlock where
  handler : Nat
  frec : Nat
  hstk : Nat
  hsize : Nat
  evbase : Nat
  evcount : Nat
  evhead : Nat
  deriving DecidableEq, Repr

/-- Powers of two up to 2^k. -/
def isPow2 (n k : Nat) : Bool := (List.range (k + 1)).any (fun i => n == 2 ^ i)

/-- Reads a trap block; none where it breaks a rule (R416, R424). -/
def trapBlock (s : State) (ctx : Nat) (a : Word) : Option TrapBlock :=
  let a := a.toNat
  if a = 0 ∨ a % 64 ≠ 0 ∨ devPa s ctx a = none then none
  else
    let w (i : Nat) : Word := v64 s ctx (a + 8 * i)
    let b : TrapBlock :=
      ⟨(w 0).toNat, (w 1).toNat, (w 2).toNat, (w 3).toNat, (w 4).toNat, (w 5).toNat, (w 6).toNat⟩
    if b.handler < 2 ^ 48 ∧ b.handler % 4 = 0 ∧ b.frec % 64 = 0 ∧ b.hstk % 16 = 0 ∧ b.hsize < 2 ^ 32 ∧
        b.hsize % 16 = 0 ∧ b.evbase % 64 = 0 ∧ b.evcount ≤ 32768 ∧ isPow2 b.evcount 15 ∧ b.evhead < 65536 ∧
        (w 7) = 0 then some b
    else none

/-- STATUS as a thread's core shows it, with PART (R125). -/
def statusOf (s : State) (core : Nat) (t : Thread) : Word :=
  setFld t.status 12 2 (match (coreAt s core).part with | 16 => 0 | 8 => 1 | _ => 2)

def regStateCode : RegState → Nat
  | .empty => 0 | .full => 1 | .pending => 2 | .failed => 3

/-- The predicate word (R133). -/
def predWord (t : Thread) : Word := w64 (0xFFFF + t.k1.toNat * 2 ^ 16 + t.k2.toNat * 2 ^ 32 + t.k3.toNat * 2 ^ 48)

/-- A message as its two doublewords. -/
def msgWords (m : Msg) : List Word := [m.info ++ m.kind, m.data]

/-- The list cut or filled with zeros to n words. -/
def padWords (n : Nat) (ws : List Word) : List Word := (ws ++ List.replicate n 0).take n

/-- A slot record (R404): form code and park reason as given. -/
def slotWords (s : State) (p form reason : Nat) (t : Thread) (parkTicks : Nat) : List Word :=
  let sl := slotAt s p
  let regs := t.regs.toList
  let states := (regs.zipIdx.map (fun x => regStateCode x.1.st * 4 ^ x.2)).foldl (fun a b => a + b) 0
  let binds := (t.binds.toList.zipIdx.map (fun x =>
    (match x.1 with | some q => q + 128 | none => 0) * 256 ^ x.2)).foldl (fun a b => a + b) 0
  let held := regs.zipIdx.filterMap (fun x => x.1.held.map (fun f =>
    [w64 (x.2 + f.cause.code * 2 ^ 8 + f.pc.toNat * 2 ^ 16), f.info, f.addr]))
  regs.map (fun g => g.val) ++
  [w64 states, t.pc.zeroExtend 64, predWord t, statusOf s (p / 16) t, t.fstat, t.fmtp, t.sclp,
   w64 (form + reason * 2 ^ 3 + b2n sl.latch.isSome * 2 ^ 5 + sl.mailbox.length * 2 ^ 6 + t.tid * 2 ^ 9),
   w64 parkTicks, t.task, w64 binds] ++
  [0] ++ padWords 2 ((sl.latch.map msgWords).getD []) ++ padWords 8 (sl.mailbox.flatMap msgWords) ++
  padWords 12 held.flatten ++ [0, 0]

/-- The bytes of some doublewords. -/
def wordsBytes (ws : List Word) : List Byte := ws.flatMap (fun w => leBytes 8 w.toNat)

/-- Writes a slot's record and vector registers into the save tail of its core (R404, R419 step 3). -/
def writeSlotRecord (p form reason : Nat) (t : Thread) (parkTicks : Nat) (s : State) : State :=
  let core := p / 16
  let n := (coreAt s core).part
  let vec := cellsAt (spadPa core (0x3E000 + 8192 / n * (p % 16)))
    ((t.vecs.toList.take (128 / n)).flatMap (fun v => leBytes 64 v.toNat))
  devWrite
    (cellsAt (spadPa core (saveTail + 512 * (p % 16))) (wordsBytes (slotWords s p form reason t parkTicks)) ++ vec) s

/-- The latch and the mailbox of a trapped or stopped thread's slot are kept in its slot record (R420). -/
def noteSlot (p : Nat) (s : State) : State :=
  let sl := slotAt s p
  let base := spadPa (p / 16) (saveTail + 512 * (p % 16))
  let put : State :=
    devPut (base + 0x140) (wordsBytes (padWords 2 ((sl.latch.map msgWords).getD []) ++ padWords 8 (sl.mailbox.flatMap msgWords)))
      (wr64 s (base + 0x118) (setFld (setFld (rd64 s (base + 0x118)) 5 1 (b2n sl.latch.isSome)) 6 3 sl.mailbox.length))
  match threadAt s p with
  | some t =>
    (match t.form with
     | .trapped => put
     | .stopped _ _ => put
     | _ => s)
  | none => s

/-- A message from two doublewords. -/
def msgOfWords (a b : Word) : Msg := ⟨BitVec.ofNat 8 (fld a 0 8), BitVec.ofNat 56 (fld a 8 56), b⟩

/-- A slot with the latch and the mailbox its slot record holds (R420). -/
def readSlot (s : State) (p : Nat) : Slot :=
  let base := spadPa (p / 16) (saveTail + 512 * (p % 16))
  let msg (off : Nat) : Msg := msgOfWords (rd64 s (base + off)) (rd64 s (base + off + 8))
  let w := rd64 s (base + 0x118)
  { slotAt s p with
    latch := if fld w 5 1 = 1 then some (msg 0x140) else none
    mailbox := (List.range (Nat.min 4 (fld w 6 3))).map (fun i => msg (0x150 + 16 * i)) }

/-- A thread read back from its slot record (R404, R428): what the record does not hold is kept. The reserved bits of STATUS and
FSTAT stay 0, whatever the record holds (R7). -/
def readSlotRecord (s : State) (p : Nat) (t : Thread) : Thread :=
  let core := p / 16
  let base := spadPa core (saveTail + 512 * (p % 16))
  let w (i : Nat) : Word := rd64 s (base + 8 * i)
  let states := (w 28).toNat
  let held (i : Nat) : Option HeldFault :=
    ((List.range 4).map (fun j => (w (50 + 3 * j), w (51 + 3 * j), w (52 + 3 * j)))).findSome? (fun x =>
      if fld x.1 0 5 = i ∧ fld x.1 8 8 ≠ 0 then
        some ⟨causeOfCode (fld x.1 8 8), x.2.1, x.2.2, BitVec.ofNat 48 (fld x.1 16 48)⟩ else none)
  let reg (i : Nat) : GReg :=
    match bits states (2 * i) 2 with
    | 0 => { st := .empty, val := w i }
    | 1 => { st := .full, val := w i }
    | 2 => { st := .pending, val := w i }
    | _ => { st := .failed, val := w i, held := held i }
  let n := (coreAt s core).part
  { t with
    regs := Vector.ofFn (fun i : Fin 28 => reg i.val)
    vecs := Vector.ofFn (fun i : Fin 32 =>
      if i.val < 128 / n then BitVec.ofNat 512 (rdNat s (spadPa core (0x3E000 + 8192 / n * (p % 16) + 64 * i.val)) 64)
      else (t.vecs[i.val]?.getD 0))
    pc := BitVec.ofNat 48 (fld (w 29) 0 48)
    k1 := BitVec.ofNat 16 (fld (w 30) 16 16)
    k2 := BitVec.ofNat 16 (fld (w 30) 32 16)
    k3 := BitVec.ofNat 16 (fld (w 30) 48 16)
    status := w 31 &&& 0xFF
    fstat := w 32 &&& 0x31F03
    fmtp := w 33
    sclp := w 34
    task := w 37
    binds := Vector.ofFn (fun i : Fin 4 => if fld (w 38) (8 * i.val + 7) 1 = 1 then some (fld (w 38) (8 * i.val) 7) else none) }

/-- The mget of an engine context whose value will fill a register (R299). -/
def mgetPending (s : State) (p : Nat) (t : Thread) (r : Nat) : Bool :=
  (cellAt s (cellOfCore (p / 16))).eng.toList.any (fun e =>
    e.gets.any (fun g => g.th.tid == t.tid && g.th.ctx == t.ctx && g.reg == r))

/-- The drains of R419 step 2: stores acknowledged, invalidations collected, posted producers but mget answered. Stores
behind one that has come back with the fault wait for the handler (R121). -/
def drained (s : State) (p : Nat) (t : Thread) : Bool :=
  (sqOf s (p / 16) ⟨p, t.ctx, t.tid⟩).all (fun e => e.held) && t.homes == [] && t.regs.toList.zipIdx.all (fun x => x.1.st != .pending || mgetPending s p t x.2)

/-- The fault record of a thread (R418). R18 calls the core of a fault record physical, where R418 makes [63:52] the logical core: the
physical core stands in [31:16] with its slot, and the logical one in [63:52] (DESIGN CHOICE, unsafe: log entry 108). -/
def faultRecord (s : State) (p : Nat) (t : Thread) (tr : Trap) (cause : Cause) (info : Word) : List Word :=
  [w64 (cause.code + b2n tr.producer.isSome * 2 ^ 8 + privOf t * 2 ^ 10 + p * 2 ^ 16 + t.tid * 2 ^ 32 +
      lcoreOf s (p / 16) * 2 ^ 52),
   tr.restart.zeroExtend 64, tr.word, (match tr.producer with | some pc => pc.zeroExtend 64 | none => 0),
   tr.addr, info, w64 (tick s), 1]

/-- Whether a page is being migrated from a peer (R449). -/
def migrating (s : State) (va : Nat) : Bool :=
  s.sqes.any (fun q => q.2.ops.any (fun o => match o.2 with
    | some (.migrate base n _ _ _) => decide (base ≤ va) && decide (va < base + 2 ^ n)
    | _ => false))

/-- Whether a device access must wait for the device itself to bring a page in (R424): a storage-backed page, or one under
migration. -/
def pageComing (s : State) (va : Nat) : Bool :=
  match region (w64 va) with
  | .paged =>
    match walk s va with
    | .leaf _ _ pte _ => pteType pte == 1 || (pteType pte == 2 && migrating s va)
    | _ => false
  | _ => false

/-- Whether a delivery may write a record's place (R87, R88, R397, R424): the vault is never refused; other pages are judged at the
handler's level, supervisor or machine. DEDUCED, unsafe: log entry 95. -/
def recordWritable (s : State) (ctx : Nat) (machine : Bool) (va : Nat) : Bool :=
  (devPa s ctx va).isSome &&
  match region (w64 va) with
  | .paged =>
    (match walk s va with
     | .leaf _ _ pte _ =>
       pteDomain pte == vdom s ctx || (pteW pte && (machine || decide (2 ≤ domainRight s ctx (pteDomain pte))))
     | _ => false)
  | .linear _ => machine
  | _ => true

/-- The order of the handler starts of a core (R432). -/
def handlerChan (core : Nat) : Nat × Nat := (95000, core)

/-- A handler is to start on its core, behind those that are to start there already. -/
def postHandler (h : Handler) (s : State) : State := { s with agenda := s.agenda ++ [⟨.handlerStart h, some (handlerChan h.core)⟩] }

/-- Delivers through one trap block: the fault record and the handler start; none when it cannot complete (R424).
DEDUCED, unsafe: log entry 56. -/
def deliverThrough (block : Word) (machine : Bool) (p : Nat) (t : Thread) (tr : Trap) (cause : Cause) (info : Word)
    (s : State) : Option State :=
  match trapBlock s t.ctx block with
  | none => none
  | some b =>
    let rec_ := b.frec + 64 * t.tid
    if recordWritable s t.ctx machine rec_ = false ∨ vNat s t.ctx (rec_ + 56) 8 % 2 = 1 then none
    else
      let ws := faultRecord s p t tr cause info
      let s := vput t.ctx rec_ (wordsBytes ws) s
      some (postHandler
        { ctx := t.ctx, core := p / 16, machine := machine, pc := BitVec.ofNat 48 b.handler,
          stackBase := w64 b.hstk, stackSize := w64 b.hsize, recAddr := w64 rec_, dw0 := ws[0]?.getD 0,
          restart := ws[1]?.getD 0, info := info, addr := tr.addr } s)

/-- Whether a thread's fault can be delivered through a trap block: its record can be written and its VALID is 0 (R424). -/
def deliverable (s : State) (block : Word) (machine : Bool) (t : Thread) : Bool :=
  (trapBlock s t.ctx block).any (fun b =>
    let rec_ := b.frec + 64 * t.tid
    recordWritable s t.ctx machine rec_ && vNat s t.ctx (rec_ + 56) 8 % 2 == 0)

/-- The page a delivery through a trap block waits for: the block's, or the fault record's (R424). -/
def comingFor (s : State) (block : Word) (t : Thread) : Option Word :=
  if pageComing s block.toNat then some block
  else (trapBlock s t.ctx block).bind (fun b =>
    if pageComing s (b.frec + 64 * t.tid) then some (w64 (b.frec + 64 * t.tid)) else none)

/-- Whether a lower slot of a core has a fault of the same cycle that is not delivered yet (R432). -/
def faultBefore (s : State) (p : Nat) (tr : Trap) : Bool :=
  (List.range (p % 16)).any (fun i => (threadAt s (p / 16 * 16 + i)).any (fun u => match u.form with
    | .trapping x => x.cycle == tr.cycle
    | _ => false))

/-- TAKING AN EXCEPTION (R419 to R424): the raised fault of a slot's thread is delivered once its drains hold. -/
def deliverTrap (p : Nat) (s : State) : State :=
  match threadAt s p with
  | none => s
  | some t =>
    match t.form with
    | .trapping tr =>
      if !drained s p t then holdBack (.trapDelivery p) (sendMarkers 3 p s)
      else if faultBefore s p tr then holdBack (.trapDelivery p) s
      else
        let priv := privOf t
        let machine := priv == 3 || (tr.cause == .syscall && priv != 0)
        let block := if machine then s.tvecm else (ctxAt s t.ctx).tvec
        match (comingFor s block t).or (if deliverable s block machine t then none else comingFor s s.tvecm t) with
        | some va => post (.translationMiss (sliceOfVa va.toNat) va (.trap p)) s
        | none =>
          let t' := { t with form := .trapped, pc := tr.restart }
          let s := writeSlotRecord p 5 0 t' 0 (setThread s p t')
          let s := trace t.ctx 2 p (p / 16) t.tid (tr.restart.zeroExtend 64)
            (w64 (tr.cause.code + fld tr.info 0 56 * 2 ^ 8)) s
          match deliverThrough block machine p t tr tr.cause tr.info s with
          | some s => s
          | none =>
            match deliverThrough s.tvecm true p t tr .dblfault (w64 tr.cause.code) s with
            | some s => s
            | none => post (.kill t.ctx) (errorRec 11 1 t.ctx (coreLoc (p / 16) (p % 16)) tr.addr tr.info 0 s)
    | _ => s

/-- RETURN FROM A FAULT (R428): the slot resumes from its slot record, ready, its stop or trap over. A BRKPT of a
comparator suppresses every comparator for the first instruction (R476). Stores held for it are sent, unless a further fault
of its stores is to be raised first (R121). -/
def resumeTrapped (p : Nat) (noCmp : Bool) (s : State) : State :=
  match threadAt s p with
  | none => s
  | some t =>
    let t := readSlotRecord s p t
    let s := setSlot s p (readSlot s p)
    let c := coreAt s (p / 16)
    drain (p / 16) (setCore (setThread s p { t with form := .ready, readyAt := Nat.max s.cycle (t.issued + 8), noCmp := noCmp })
      (p / 16) { c with sq := c.sq.map (fun e =>
        if e.th.tid = t.tid ∧ e.th.ctx = t.ctx ∧ t.owed.isNone then { e with held := false } else e) })

end Sys2Proof.Machine
end

