-- ==== Sys2Proof/Machine/Operands.lean ====
section
/-!
DEFINITION. Operand forms: how an instruction takes its sources and writes its destination (R37, R38, R41, R48 steps 4
to 6, R231, R233). operands checks everything and changes nothing but on a fault or a park; commit takes the taken
registers and pops the popped queues when the instruction completes; writeDst writes a general register or pushes.
-/
namespace Sys2Proof.Machine

/-- A source field: register number 0 to 31 (28 to 31 name q0 to q3) and access mode 0 plain, 1 wait, 2 take (R32). -/
structure Src where
  r : Nat
  m : Nat := 0
  deriving DecidableEq, Repr

/-- A destination field. -/
inductive Dst where
  | none
  /-- Written by the instruction: a general register or a queue name. -/
  | reg (d : Nat)
  /-- The destination of a posted producer (R39). -/
  | posted (d : Nat)
  deriving DecidableEq, Repr

def src (r : BitVec 5) (m : BitVec 2) : Src := ⟨r.toNat, m.toNat⟩
/-- A source whose format has no mode field is read plain (R154, R184). -/
def srcP (r : BitVec 5) : Src := ⟨r.toNat, 0⟩

def regOf (t : Thread) (r : Nat) : GReg := t.regs[r]?.getD {}
def setReg (r : Nat) (g : GReg) (t : Thread) : Thread := { t with regs := t.regs.setIfInBounds r g }
/-- A register full with a value. -/
def setFull (r : Nat) (v : Word) (t : Thread) : Thread := setReg r { st := .full, val := v } t

/-- The strongest mode among the fields that name a register (R38). -/
def modeOf (ss : List Src) (r : Nat) : Nat := ss.foldl (fun m x => if x.r = r then Nat.max m x.m else m) 0

/-- The registers of a thread in states P and X: its posted producers outstanding (R39). -/
def postedCount (t : Thread) : Nat :=
  t.regs.toList.countP (fun g => g.st == .pending || g.st == .failed)

/-! ### Queues behind the names (09) -/

/-- A queue as the thread end sees it. -/
structure QView where
  data : List Word
  closed : Bool
  cap : Nat
  canPush : Bool
  canPop : Bool
  deriving DecidableEq, Repr

/-- The queue a QID names on a core (R230). -/
def qview (s : State) (core qid : Nat) : Option QView :=
  let eng (e : Nat) : EngCtx := (cellAt s (cellOfCore core)).eng[e]?.getD {}
  if qid < 4 then
    let q := (coreAt s core).roleq[qid]?.getD {}
    some ⟨q.data, q.closed, 16, true, true⟩
  else if 0x10 ≤ qid ∧ qid < 0x14 then some ⟨(eng (qid - 0x10)).astream, false, 128, true, false⟩
  else if 0x14 ≤ qid ∧ qid < 0x18 then some ⟨(eng (qid - 0x14)).scaleq, false, 16, true, false⟩
  else if 0x18 ≤ qid ∧ qid < 0x1C then some ⟨(eng (qid - 0x18)).resultq, false, 16, false, true⟩
  else none

/-- Changes an engine context of a cell. -/
def mapEng (cell e : Nat) (f : EngCtx → EngCtx) (s : State) : State :=
  let c := cellAt s cell
  setCell s cell { c with eng := c.eng.setIfInBounds e (f (c.eng[e]?.getD {})) }

/-- Sets the contents of a queue. -/
def qset (core qid : Nat) (data : List Word) (s : State) : State :=
  let cell := cellOfCore core
  if qid < 4 then
    let c := coreAt s core
    setCore s core { c with roleq := c.roleq.setIfInBounds qid { (c.roleq[qid]?.getD {}) with data := data } }
  else if qid < 0x14 then mapEng cell (qid - 0x10) (fun e => { e with astream := data }) s
  else if qid < 0x18 then mapEng cell (qid - 0x14) (fun e => { e with scaleq := data }) s
  else mapEng cell (qid - 0x18) (fun e => { e with resultq := data }) s

/-- Whether a thread is parked as given, or has been stopped where it parked: its wake then latches (R475). -/
def parkedOn (t : Thread) (k : Park) : Bool := t.form == .parked k || t.form == .stopped (some k) false

/-- Whether a wake is on its way to a thread: an event wakes a park once (R229). -/
def wakeComing (s : State) (th : Thr) (m : Msg) : Bool := s.agenda.any (fun f => f == ⟨.wakeAtSlot th m, none⟩)

/-- Wakes a thread where it is parked as given, once. -/
def wakeParked (th : Thr) (k : Park) (m : Msg) (s : State) : State :=
  match threadAt s th.slot with
  | some t => if holds s th ∧ parkedOn t k ∧ !wakeComing s th m then sendWake th m s else s
  | none => s

/-- A thread that entered a queue's list is parked on it, and not yet woken. -/
def qWaits (s : State) (x : Nat × Bool × Thr) : Bool :=
  match threadAt s x.2.2.slot with
  | some t => t.tid == x.2.2.tid && t.ctx == x.2.2.ctx && parkedOn t ⟨false, .queue x.1 x.2.1, false⟩ &&
      (slotAt s x.2.2.slot).latch.isNone && !wakeComing s x.2.2 (hwMsg 6 x.1)
  | none => false

/-- The oldest thread parked on a queue at one of its ends and not yet woken (R231). -/
def qOldest (s : State) (core qid : Nat) (pop : Bool) : Option Thr :=
  ((coreAt s core).qparked.find? (fun x => x.1 == qid && x.2.1 == pop && qWaits s x)).map (fun x => x.2.2)

/-- Wakes the oldest thread parked at an end of a queue (KIND 0x06). -/
def qWake (core qid : Nat) (pop : Bool) (s : State) : State :=
  match qOldest s core qid pop with
  | some th => sendWake th (hwMsg 6 qid) s
  | none => s

/-- Appends an entry and wakes the oldest popper (R231). -/
def qPush (core qid : Nat) (v : Word) (s : State) : State :=
  match qview s core qid with
  | some q => qWake core qid true (qset core qid (q.data ++ [v]) s)
  | none => s

/-- The head of a queue has been taken: an entry given back is so no longer. -/
def dropBack (core qid : Nat) (s : State) : State :=
  let c := coreAt s core
  match c.qback.get [] qid with
  | [] => s
  | _ :: rest => setCore s core { c with qback := c.qback.put [] qid rest }

/-- Takes the oldest entry and wakes the oldest pusher (R231). -/
def qPop (core qid : Nat) (s : State) : State :=
  match qview s core qid with
  | some q => qWake core qid false (dropBack core qid (qset core qid q.data.tail s))
  | none => s

/-- The queue a name of a thread is bound to. -/
def boundTo (t : Thread) (r : Nat) : Option Nat := (t.binds[r - 28]?.getD none)

/-- The queue names among the sources, in field order: each pops once (R41). -/
def popNames (ss : List Src) : List Nat := (ss.filter (fun x => 28 ≤ x.r)).map (fun x => x.r)

/-- The reason a name is refused (R234), for a pop whose queue has lost `before` entries to the instruction's earlier
pops. -/
def popFault (s : State) (t : Thread) (core r before : Nat) : Option Nat :=
  match boundTo t r with
  | none => some 1
  | some qid =>
    match qview s core qid with
    | none => some 1
    | some q => if !q.canPop then some 2 else if q.closed && q.data.length ≤ before then some 3 else none

def pushFault (s : State) (t : Thread) (core r : Nat) : Option Nat :=
  match boundTo t r with
  | none => some 1
  | some qid =>
    match qview s core qid with
    | none => some 1
    | some q => if !q.canPush then some 2 else if q.closed then some 3 else none

/-- How many of some names are bound to one queue. -/
def popsOf (t : Thread) (qid : Nat) (rs : List Nat) : Nat := rs.countP (fun r => boundTo t r == some qid)

/-- The first QUEUE fault among the pops, then the push (R233, R234): the reason with the name. -/
def queueFault (s : State) (t : Thread) (core : Nat) (pops : List Nat) (push : Option Nat) : Option Word :=
  let fault (r reason : Nat) : Word := w64 (reason + (r - 28) * 256)
  let fs := pops.zipIdx.filterMap (fun x =>
    let qid := (boundTo t x.1).getD 0
    (popFault s t core x.1 (popsOf t qid (pops.take x.2))).map (fault x.1))
  match fs with
  | f :: _ => some f
  | [] =>
    match push with
    | some r => (pushFault s t core r).map (fault r)
    | none => none

/-- The queue the instruction must park on: a pop that finds too few entries, or a push that will find no room after
the instruction's own pops (R233). -/
def queuePark (s : State) (t : Thread) (core : Nat) (pops : List Nat) (push : Option Nat) : Option (Nat × Bool) :=
  let short := pops.filterMap (fun r =>
    (boundTo t r).bind (fun qid => (qview s core qid).bind (fun q =>
      if q.data.length < popsOf t qid pops then some (qid, true) else none)))
  match short with
  | x :: _ => some x
  | [] =>
    match push with
    | some r =>
      (boundTo t r).bind (fun qid => (qview s core qid).bind (fun q =>
        let used := q.data.length + (coreAt s core).qresv.get 0 qid - popsOf t qid pops
        if q.cap ≤ used then some (qid, false) else none))
    | none => none

/-- Parks the executing thread on a queue; a thread already in the list keeps its place (R231). -/
def parkOnQueue (qid : Nat) (pop : Bool) (s : State) : State :=
  let core := myCore s
  let c := coreAt s core
  let ent := (qid, pop, myThr s)
  let s := if ent ∈ c.qparked then s else setCore s core { c with qparked := c.qparked ++ [ent] }
  park ⟨false, .queue qid pop, false⟩ s

/-- The executing thread no longer waits on any queue. -/
def unparkQueues (s : State) : State :=
  let core := myCore s
  let c := coreAt s core
  if c.qparked.any (fun x => x.2.2 == myThr s) then
    setCore s core { c with qparked := c.qparked.filter (fun x => x.2.2 != myThr s) }
  else s

/-! ### Sources and destinations -/

/-- Step 4 of R48: the first source in state X in field order, then the destination. A register whose state a handler set
to X in the slot record without a held-fault entry raises FENCED with the consumer's own PC: the spec names no fault for it
(DESIGN CHOICE, unsafe: log entry 71). -/
def heldIn (t : Thread) (ss : List Src) (d : Dst) : Option (Nat × HeldFault) :=
  let rs := (ss.map (fun x => x.r)) ++ (match d with | .none => [] | .reg d => [d] | .posted d => [d])
  let bad := rs.filterMap (fun r =>
    let g := regOf t r
    if r < 28 ∧ g.st = .failed then some (r, g.held.getD ⟨.fenced, 0, 0, t.pc⟩) else none)
  bad.head?

/-- Step 5 of R48: the first source that is empty, or pending and read plain (R37). -/
def emptySrc (t : Thread) (ss : List Src) : Option Nat :=
  (ss.find? (fun x => decide (x.r < 28) &&
    ((regOf t x.r).st == .empty || ((regOf t x.r).st == .pending && modeOf ss x.r == 0)))).map (fun x => x.r)

/-- Step 6 of R48, registers: the first pending source, then a pending destination. -/
def pendingReg (t : Thread) (ss : List Src) (d : Dst) : Option Nat :=
  let rs := (ss.map (fun x => x.r)) ++ (match d with | .none => [] | .reg d => [d] | .posted d => [d])
  rs.find? (fun r => decide (r < 28) && (regOf t r).st == .pending)

/-- The values of the sources: a register's value, or the entry its pop will take. -/
def srcVals (s : State) (t : Thread) (core : Nat) (ss : List Src) : List Word :=
  ss.zipIdx.map (fun x =>
    if x.1.r < 28 then (regOf t x.1.r).val
    else
      let qid := (boundTo t x.1.r).getD 0
      let before := popsOf t qid (popNames (ss.take x.2))
      match qview s core qid with
      | some q => q.data[before]?.getD 0
      | none => 0)

/-- Steps 4 to 6 of R48 for the executing thread: the sources' values, or the state of a fault or a park. Nothing is
taken yet (R37). -/
def operands (ss : List Src) (d : Dst) (s : State) : Except State (List Word) :=
  match threadAt s s.cur with
  | none => .error s
  | some t =>
    match heldIn t ss d with
    | some (r, f) => .error (raiseHeld r f (unparkQueues s))
    | none =>
      match emptySrc t ss with
      | some r => .error (raise .regempty (w64 r) 0 (unparkQueues s))
      | none =>
        let full := match d with | .posted _ => decide (4 ≤ postedCount t) | _ => false
        if full then .error (park ⟨true, .place, false⟩ s)
        else
          match pendingReg t ss d with
          | some r => .error (park ⟨true, .reg r, false⟩ s)
          | none =>
            let core := myCore s
            let pops := popNames ss
            let push := match d with | .reg d => (if 28 ≤ d then some d else none) | _ => none
            match queueFault s t core pops push with
            | some info => .error (raise .queue info 0 (unparkQueues s))
            | none =>
              match queuePark s t core pops push with
              | some (qid, pop) => .error (parkOnQueue qid pop s)
              | none => .ok (srcVals s t core ss)

/-- Takes the registers read in mode take and pops the queues named, as one completion (R37, R233). -/
def commit (ss : List Src) (s : State) : State :=
  let t := me s
  let core := myCore s
  let s := (popNames ss).foldl (fun s r => match boundTo t r with | some qid => qPop core qid s | none => s) s
  let s := ss.foldl (fun s x =>
    if x.r < 28 ∧ modeOf ss x.r = 2 then mapMe (setReg x.r { st := .empty, val := (regOf t x.r).val }) s else s) s
  unparkQueues s

/-- Writes a result: a general register becomes full, a queue name pushes (R37, R41). A scale-injection queue refuses a
word with a reserved bit (R82, R284). -/
def writeDst (d : Nat) (v : Word) (s : State) : State :=
  if d < 28 then mapMe (setFull d v) s
  else
    match boundTo (me s) d with
    | some qid =>
      if 0x14 ≤ qid ∧ qid < 0x18 ∧ fld v 59 3 ≠ 0 then raise .badopnd v 0 s else qPush (myCore s) qid v s
    | none => s

/-! ### Instructions in flight (R172, R233) -/

/-- Room promised in a queue to an instruction in flight. -/
def mapResv (qid : Nat) (f : Nat → Nat) (s : State) : State :=
  let c := coreAt s (myCore s)
  setCore s (myCore s) { c with qresv := c.qresv.put 0 qid (f (c.qresv.get 0 qid)) }

/-- Reserves the place a destination in flight will push into (R233). -/
def reserve (d : Nat) (s : State) : State :=
  if d < 28 then s
  else match boundTo (me s) d with
    | some qid => mapResv qid (· + 1) s
    | none => s

/-- That place is used, or given up. -/
def unreserve (d : Nat) (s : State) : State :=
  if d < 28 then s
  else match boundTo (me s) d with
    | some qid => mapResv qid (· - 1) s
    | none => s

/-- That place is given up by an instruction that ends without its push: the oldest pusher is woken (R231). -/
def giveUp (d : Nat) (s : State) : State :=
  match (if d < 28 then none else boundTo (me s) d) with
  | some qid => qWake (myCore s) qid false (unreserve d s)
  | none => s

/-- The queue and number of the entry that stands behind `before` others: one given back keeps its number. -/
def popKey (s : State) (core qid before : Nat) : Nat :=
  let back := (coreAt s core).qback.get [] qid
  qid + 256 * (back[before]?.getD ((coreAt s core).qnext.get 0 qid + (before - back.length)))

/-- The entries an instruction's pops take, with their queues and numbers, in field order. -/
def popsTaken (ss : List Src) (s : State) : List (Nat × Word) :=
  ((ss.zip (srcVals s (me s) (myCore s) ss)).zipIdx).filterMap (fun x =>
    if 28 ≤ x.1.1.r then
      (boundTo (me s) x.1.1.r).map (fun qid => (popKey s (myCore s) qid (popsOf (me s) qid (popNames (ss.take x.2))), x.1.2))
    else none)

/-- An instruction goes in flight: the entries it pops are out of their queues at once, and their places, like the one it will
push into, stay taken until it completes or faults (R233; DESIGN CHOICE, unsafe: log entry 73). -/
def takePops (ss : List Src) (s : State) : State :=
  unparkQueues ((popsTaken ss s).foldl (fun s x =>
    let qid := x.1 % 256
    match qview s (myCore s) qid with
    | some q =>
      let s := dropBack (myCore s) qid (mapResv qid (· + 1) (qset (myCore s) qid q.data.tail s))
      let c := coreAt s (myCore s)
      setCore s (myCore s) { c with qnext := c.qnext.put 0 qid (Nat.max (c.qnext.get 0 qid) (x.1 / 256 + 1)) }
    | none => s) s)

/-- It completes: the places are free, and the oldest pushers are woken. -/
def endPops (undo : List (Nat × Word)) (s : State) : State :=
  undo.foldl (fun s x => qWake (myCore s) (x.1 % 256) false (mapResv (x.1 % 256) (· - 1) s)) s

/-- It faults: the entries go back to the heads of their queues, behind older ones given back before them, and the oldest
poppers are woken (R231). -/
def undoPops (undo : List (Nat × Word)) (s : State) : State :=
  undo.reverse.foldl (fun s x =>
    let qid := x.1 % 256
    let core := myCore s
    match qview s core qid with
    | some q =>
      let back := (coreAt s core).qback.get [] qid
      let i := back.countP (fun n => decide (n < x.1 / 256))
      let s := mapResv qid (· - 1) (qset core qid (q.data.take i ++ x.2 :: q.data.drop i) s)
      let c := coreAt s core
      qWake core qid true
        (setCore s core { c with qback := c.qback.put [] qid (back.take i ++ x.1 / 256 :: back.drop i) })
    | none => s) s

/-- The registers an instruction takes (R37). -/
def takesOf (ss : List Src) : List Nat := (ss.filter (fun x => decide (x.r < 28) && modeOf ss x.r == 2)).map (fun x => x.r)

/-- An instruction that was in flight completes: its registers are taken. -/
def takeRegs (rs : List Nat) (s : State) : State :=
  rs.foldl (fun s r => mapMe (fun t => setReg r { st := .empty, val := (regOf t r).val } t) s) s

/-- An instruction in flight with destination d ends: s' has its result, s has not, and in both its place in a queue is free. A
result that is refused (R284), or that no PC follows (R27), leaves nothing. A push to a role queue that qclose has closed
meanwhile enters the queue (DESIGN CHOICE, unsafe: log entry 73). -/
def finish (d : Nat) (undo : List (Nat × Word)) (s s' : State) : State :=
  let back (s : State) : State :=
    undoPops undo (match (if d < 28 then none else boundTo (me s) d) with
      | some qid => qWake (myCore s) qid false s
      | none => s)
  match (me s').form with
  | .trapping t => raiseWith t (back s)
  | _ => if atTop s then raise .misfetch 0 (w64 (2 ^ 48)) (back s) else advance (endPops undo s')

/-- Runs an instruction on its operands. -/
def withOps (ss : List Src) (d : Dst) (s : State) (k : List Word → State) : Result :=
  match operands ss d s with
  | .error e => .next e
  | .ok vs => .next (k vs)

/-- The i-th operand. -/
def arg (vs : List Word) (i : Nat) : Word := vs[i]?.getD 0

/-- An instruction that computes one result from its sources and completes in its pass (R155). -/
def computes (ss : List Src) (d : BitVec 5) (f : List Word → Word) (s : State) : Result :=
  withOps ss (.reg d.toNat) s (fun vs => complete s (writeDst d.toNat (f vs) (commit ss s)))

/-- Reports flags at completion (R74). -/
def report (f : Fl) (s : State) : State := mapMe (fun t => { t with fstat := orFlags t.fstat f }) s

/-- An instruction below its least privilege raises PRIVINST and changes nothing (R44). -/
def needPriv (n : Nat) (s : State) (k : Result) : Result :=
  if privOf (me s) < n then .next (raise .privinst 0 0 s) else k

end Sys2Proof.Machine
end

