-- ==== Sys2Proof/Machine/Mem.lean ====
section
/-!
DEFINITION. A thread's accesses to memory: the checks of R169, the sources of a load (R98), the elements of scalar and
vector loads and stores, the store queue's entries, and migration by an access (R139, R140). Every load and store
instruction, the atomics and the block instructions are written with these.
-/
namespace Sys2Proof.Machine

/-- The access kinds of R417. -/
inductive Acc where
  | read | write | exec | rmw
  deriving DecidableEq, Repr

def Acc.code : Acc → Nat
  | .read => 0 | .write => 1 | .exec => 2 | .rmw => 3

/-- The info of the memory form (R417). -/
def memInfo (k : Acc) (idx : Nat) : Word := w64 (idx % 256 + k.code * 256)

/-! ### Translation and checks (R86 to R88, R169, R397, R437) -/

/-- The translation entry of a paged address at its home slice. -/
def xlatFind (s : State) (va : Nat) : Option XEnt :=
  (sliceAt s (sliceOfVa va)).xlat.find? (fun e => decide (e.va ≤ va) && decide (va < e.va + 2 ^ e.bits))

/-- Whether the page's bits and a context's right in the page's domain permit an access (R87, R397). -/
def allows (s : State) (ctx priv : Nat) (leaf : Word) (right : Nat) (k : Acc) : Bool :=
  let bit := match k with
    | .read => pteR leaf
    | .exec => pteX leaf
    | _ => pteW leaf
  let need := match k with
    | .read => 1
    | .exec => 3
    | _ => 2
  bit && (priv == 3 || (decide (need ≤ right) && !(priv == 0 && pteDomain leaf == vdom s ctx)))

/-- Whether the page's bits and the context's map permit an access. -/
def permitted (s : State) (ctx priv : Nat) (leaf : Word) (k : Acc) : Bool :=
  allows s ctx priv leaf (domainRight s ctx (pteDomain leaf)) k

/-- Whether a cached translation permits an access: it is judged by the map as the slice keeps it with the entry, or as it now
stands in the table, a free choice until the entry is invalidated (R396). -/
def entryPermits (s : State) (ctx priv : Nat) (e : XEnt) (k : Acc) : Bool :=
  match e.rights.find? (fun x => x.1 == ctx) with
  | some x => if Config.freeChoice 2 s.fresh = 1 then allows s ctx priv e.leaf x.2 k else permitted s ctx priv e.leaf k
  | none => permitted s ctx priv e.leaf k

/-- What a check finds; a remote page's place lies in the peer space (R448). -/
inductive Chk where
  | ok (pa : Nat)
  | fault (c : Cause)
  | miss
  deriving DecidableEq, Repr

/-- Steps 1 to 3 of R169: none where they pass. -/
def checkCore (s : State) (ctx priv : Nat) (va : Word) (size : Nat) : Option Cause :=
  let early : Option Cause :=
    match region va with
    | .reserved => some .badaddr
    | .window n _ => if coreCount s ctx ≤ n then some .badaddr else none
    | .linear pa => if dramTop ≤ pa then some .badaddr else none
    | _ => none
  match early with
  | some c => some c
  | none =>
    if va.toNat % size ≠ 0 then some .misalign
    else
      match region va with
      | .linear _ => if priv ≠ 3 then some .prot else none
      | .window _ off => if priv = 0 ∧ saveTail ≤ off then some .prot else none
      | .local_ off => if priv = 0 ∧ saveTail ≤ off then some .prot else none
      | _ => none

/-- The line tag check of R253: a thread's or engine's data write to a compressed tile without RAWW. -/
def tagRefuses (s : State) (home pa : Nat) : Bool :=
  if isSpad pa then false
  else match tileAt s home (pa / 32) with
    | some e => (tagSparsity e.tag == 1 || tagSparsity e.tag == 2) && !tagRaww e.tag
    | none => false

/-- Whether a word that holds some of some bytes is poisoned (R483). -/
def poisoned (s : State) (pa size : Nat) : Bool := s.poison.any (fun w => decide (pa / 8 ≤ w) && decide (w * 8 < pa + size))

/-- Steps 6 and 7 of R169 at a home, and the poison of R483: sound is the number of bytes whose words must not be poisoned, 0 for
a write of whole words. -/
def checkHome (s : State) (va : Word) (pa : Nat) (k : Acc) (data : Bool) (sound : Nat) : Chk :=
  let home := homeOf va pa
  if data && (k == .write || k == .rmw) && tagRefuses s home pa then .fault .tagviol
  else if homeFenced s home then .fault .fenced
  else if poisoned s pa sound then .fault .fenced
  else .ok pa

/-- The I/O chiplet that carries an external port, by its link number (R13, R456): the CXL host port, NVMe ports 0 to 3 and
Span ports 0 to 8 are on chiplet 0. -/
def ioOfLink (link : Nat) : Nat := if link < 5 ∨ (9 ≤ link ∧ link < 18) then 0 else 1

/-- An I/O chiplet, as an end of traffic on the mesh. -/
def ioUnit (chiplet : Nat) : Nat := 12288 + chiplet

/-- The mesh coordinates of a core or slice (R17, R18). A core stands on plane 0, the compute die. A slice, which R14 puts on
both dies, is taken to hang on the Local port of plane 1, where its data lies (DESIGN CHOICE, unsafe: log entry 72). -/
def meshAt (unit : Nat) : Nat × Nat × Nat :=
  if unit < 4096 then (unit / 4 % 48, unit / 4 / 48, 0) else ((unit - 4096) % 48, (unit - 4096) / 48, 1)

/-- The link of row y and plane z to an I/O chiplet (R17, R456), or a link between chiplet columns, on a way along x from or
to the chiplet. -/
def ioCrosses (link chiplet : Nat) (at_ : Nat × Nat × Nat) : Bool :=
  if 128 ≤ link ∧ link < 192 then link == 128 + (chiplet * 16 + at_.2.1) * 2 + at_.2.2
  else if 32 ≤ link ∧ link < 128 then
    let i := link - 32
    let edge := 12 * (i / 32) + 11
    i % 2 == at_.2.2 && i / 2 % 16 == at_.2.1 && (if chiplet = 0 then decide (edge < at_.1) else decide (at_.1 ≤ edge))
  else false

/-- Whether the fixed route of R107 between two units, along x, then y, then through the planes, crosses a link between
dies (R456). Traffic from or to an I/O chiplet uses the W or E port of its other end's row and plane (DEDUCED, unsafe: log
entry 91). -/
def linkCrosses (link src dst : Nat) : Bool :=
  if 12288 ≤ dst then ioCrosses link (dst - 12288) (meshAt src)
  else if 12288 ≤ src then ioCrosses link (src - 12288) (meshAt dst)
  else
    let (xs, ys, zs) := meshAt src
    let (xd, yd, _) := meshAt dst
    let between (a b at_ : Nat) : Bool := decide (Nat.min a b ≤ at_) && decide (at_ < Nat.max a b)
    if 32 ≤ link ∧ link < 128 then
      let i := link - 32
      i % 2 == zs && i / 2 % 16 == ys && between xs xd (12 * (i / 32) + 11)
    else if 192 ≤ link ∧ link < 288 then
      let i := link - 192
      i % 2 == zs && i / 2 == xd && between ys yd 7
    else false

/-- Whether the fixed route between two units crosses a FENCED link (R459). -/
def routeFenced (s : State) (src dst : Nat) : Bool :=
  s.links.any (fun l => l.2.st == .fenced && linkCrosses l.1 src dst)

/-- The ports of the route to a peer that carry traffic, by number (R466): none and its accesses raise FENCED (R459). -/
def peerPorts (s : State) (dev : Nat) : List Nat :=
  let e := rdNat s (s.host.peerroute.toNat + 4 * dev) 4
  if bits e 18 1 = 0 then []
  else (List.range 18).filter (fun n => bits e n 1 == 1 &&
    ((linkAt s (9 + n)).st == .up || (linkAt s (9 + n)).st == .degraded))

/-- Whether every port of the route to a peer is FENCED (R369, R459): one that is DOWN or trains may come back. -/
def peerGone (s : State) (dev : Nat) : Bool :=
  let e := rdNat s (s.host.peerroute.toNat + 4 * dev) 4
  bits e 18 1 == 0 || (List.range 18).all (fun n => bits e n 1 == 0 || (linkAt s (9 + n)).st == .fenced)

/-- The I/O chiplet through which a cell's scale-up traffic leaves: as its context's route table names it, else the nearer one
(R398). -/
def exitChiplet (s : State) (cell : Nat) : Nat :=
  let near := if cell % 48 < 24 then 0 else 1
  match (cellAt s cell).owner with
  | none => near
  | some ctx =>
    match (ctxAt s ctx).cells.findIdx? (fun c => c == cell) with
    | some m => vNat s ctx (areaBase s ctx 15 + 2 * m) 2 % 2
    | none => near

/-- Whether a slice cannot reach a peer in order: no port remains, or its way to the I/O chiplet it leaves by is cut (R398, R459,
R466; DEDUCED, unsafe: log entry 94). -/
def peerCut (s : State) (slice dev : Nat) : Bool :=
  match peerPorts s dev with
  | [] => true
  | _ :: _ => routeFenced s (sliceUnit slice) (ioUnit (exitChiplet s slice))

/-- An access of the ordered class whose route is cut, or to a peer that no port reaches (R107, R459). -/
def routeChk (s : State) (core : Nat) (va : Word) (pa : Nat) (k : Acc) : Chk :=
  if debugBase ≤ pa then .ok pa
  else if peerBase ≤ pa then (if peerCut s (sliceOfVa va.toNat) ((pa - peerBase) / 2 ^ 40) then .fault .fenced else .ok pa)
  else if (k == .write || k == .rmw || isSpad pa) && routeFenced s core (homeUnit (homeOf va pa)) then .fault .fenced
  else .ok pa

/-- The checks of R169 but step 4. An entry its slice has found malformed and reported refuses every access through it
(R435). data says that a write stores data bytes, so the tag may refuse it. -/
def check (s : State) (core ctx priv : Nat) (va : Word) (size : Nat) (k : Acc) (data : Bool) : Chk :=
  match checkCore s ctx priv va size with
  | some c => .fault c
  | none =>
    let sound := if k = .write ∧ 8 ≤ size then 0 else size
    match place sound with
    | .ok pa => routeChk s core va pa k
    | c => c
where
  place (sound : Nat) : Chk :=
    match region va with
    | .linear pa =>
      if s.host.dbgbase ≠ 0 ∧ s.host.dbgbase ≤ pa ∧ pa < s.host.dbgbase + 0x800000 then
        .ok (debugBase + (pa - s.host.dbgbase))
      else checkHome s va pa k data sound
    | .window n off =>
      match physCore s ctx n with
      | some c => checkHome s va (spadPa c off) k data sound
      | none => .fault .badaddr
    | .local_ off => checkHome s va (spadPa core off) k data sound
    | .paged =>
      match xlatFind s va.toNat with
      | none =>
        match walk s va.toNat with
        | .malformed at_ => if (sliceAt s (sliceOfVa va.toNat)).reported.any (fun x => x.1 == at_) then .fault .badaddr else .miss
        | _ => .miss
      | some e =>
        if !entryPermits s ctx priv e k then .fault .prot
        else if pteType e.leaf = 2 then
          checkHome s va (peerPa (pteDevice e.leaf) (pteRemoteFrame e.leaf + (va.toNat - e.va))) k data sound
        else checkHome s va (placeFor (sliceOfVa va.toNat) (pteFrame e.leaf + (va.toNat - e.va))) k data sound
    | .reserved => .fault .badaddr

/-- A write whose entry has been dropped since its check sets D where the leaf is: in the one an eviction keeps (R445 step 2),
or in the table (R436). -/
def dirtyDropped (va : Nat) (s : State) : State :=
  let hit (op : SqeOp) : Bool := match op with
    | .evict page _ _ _ _ _ => decide (page ≤ va) && decide (va < page + 65536)
    | _ => false
  if s.sqes.any (fun q => q.2.ops.any (fun o => o.2.any hit)) then
    { s with sqes := s.sqes.map (fun q => (q.1, { q.2 with ops := q.2.ops.map (fun o => (o.1, o.2.map (fun op =>
        match op with
        | .evict page v slot leaf entry sent => .evict page v slot (if hit op then setFld leaf 17 1 1 else leaf) entry sent
        | op => op))) })) }
  else
    match walk s va with
    | .leaf _ _ pte pa => if pteD pte ∨ pteType pte = 1 then s else wr64 s pa (setFld pte 17 1 1)
    | _ => s

/-- The first write through a cached entry sets D in the leaf (R436). -/
def setDirty (va : Nat) (s : State) : State :=
  match xlatFind s va with
  | some e =>
    if e.dirty || region (w64 va) != .paged then s
    else
      let n := sliceOfVa va
      let sl := sliceAt s n
      let s := setSlice s n { sl with xlat := sl.xlat.map (fun x => if x.va = e.va then { x with dirty := true } else x) }
      wr64 s e.leafPa (setFld (cur64 s e.leafPa) 17 1 1)
  | none => if region (w64 va) = .paged then dirtyDropped va s else s

/-- The comparator of a core that an access matches (R474): its number. -/
def cmpMatch (s : State) (core ctx : Nat) (va : Word) (size : Nat) (kindBit : Nat) : Option Nat :=
  (((coreAt s core).cmps.toList.zipIdx).find? (fun x =>
    let c := x.1.2
    let ign := fld c 4 6
    fld c 0 1 == 1 && fld c kindBit 1 == 1 && (fld c 22 1 == 1 || fld c 10 12 == ctx) &&
    decide (va.toNat / 2 ^ ign ≤ fld x.1.1 0 56 / 2 ^ ign) &&
    decide (fld x.1.1 0 56 / 2 ^ ign ≤ (va.toNat + size - 1) / 2 ^ ign))).map (fun x => x.2)

/-- The BRKPT of a comparator (R476): the state that raises it, for the executing thread's access. -/
def cmpTrap (s : State) (va : Word) (size : Nat) (k : Acc) : Option State :=
  if (me s).noCmp then none
  else
    let bit := match k with
      | .read => 1
      | .exec => 3
      | _ => 2
    let m := match cmpMatch s (myCore s) (me s).ctx va size bit with
      | some n => some n
      | none => if k = Acc.rmw then cmpMatch s (myCore s) (me s).ctx va size 1 else none
    m.map (fun n => raise .brkpt (w64 (n + 1 + k.code * 2 ^ 8)) va s)

/-! ### Staging ranges (R259) -/

/-- The tile slot of a core whose staging range an access touches: one that is not empty before one that is lost or
was refused. -/
def stagedSlot (s : State) (core off size : Nat) : Option (Nat × TileSlot) :=
  let here := (coreAt s core).tslots.toList.zipIdx.filter (fun x =>
    decide (x.1.off < off + size) && decide (off < x.1.off + x.1.span))
  ((here.find? (fun x => x.1.st != .empty)).or (here.find? (fun x => x.1.lost || x.1.refused))).map (fun x => (x.2, x.1))

def mapTslot (core i : Nat) (f : TileSlot → TileSlot) (s : State) : State :=
  let c := coreAt s core
  setCore s core { c with tslots := c.tslots.setIfInBounds i (f (c.tslots[i]?.getD {})) }

/-- Whether a range meets the range of a slot of the core that is not empty, other than slot keep (R267), or one that an
array command still reads for another handle (R296). -/
def rangeTaken (s : State) (core ctx : Nat) (h : BitVec 32) (off span : Nat) (keep : Option Nat) : Bool :=
  (coreAt s core).tslots.toList.zipIdx.any (fun x =>
    x.1.st != .empty && some x.2 != keep && decide (x.1.off < off + span) && decide (off < x.1.off + x.1.span)) ||
  (cellAt s (cellOfCore core)).eng.toList.any (fun e => e.queue.any (fun q =>
    q.core == core && !q.finished && q.tile.any (fun t =>
      !(t.handle == h && e.ctx == ctx) && decide (t.off < off + span) && decide (off < t.off + t.span))))

/-- Sends the stage a slot needs (R258). -/
def sendStage (core i : Nat) (s : State) : State :=
  match (coreAt s core).tslots[i]? with
  | some t => post (if t.own then .stageOwn core i else .stageRead [(core, i)]) (mapTslot core i (fun t => { t with st := .filling, lost := false, mod := false, recalled := false, upgrade := false }) s)
  | none => s

/-- What a use of a staging range meets (R259). -/
inductive Staged where
  | clear
  | prot (base : Word)
  | wait (ts : Nat)
  deriving DecidableEq, Repr

/-- The check of an access to a scratchpad place; one of a cell under test waits until the test ends (R481), as for a slot
number that no tile slot has. -/
def stagedCheck (s : State) (core off size : Nat) (k : Acc) : Staged :=
  if fld (cellAt s (cellOfCore core)).test 8 1 = 1 then .wait 32
  else match stagedSlot s core off size with
  | none => .clear
  | some (i, t) =>
    if t.refused then .prot t.base
    else if t.st = .ready then (if (k = .write ∨ k = .rmw) ∧ t.own = false then .prot (w64 0) else .clear)
    else .wait i

/-- A lost slot whose kept range has been given to another tile meanwhile, or is still read for one: it is not staged again until
the range is free, for ranges of slots that are not empty never overlap (R257, R296). DESIGN CHOICE, unsafe: log entry 83. -/
def rangeGone (s : State) (core : Nat) (t : TileSlot) : Bool :=
  t.st == .empty && t.lost && rangeTaken s core t.ctx t.handle t.off t.span none

/-- A use that must wait: a lost tile is staged again, and the thread is to be woken. -/
def joinStage (core i : Nat) (th : Option Thr) (s : State) : State :=
  let t := (coreAt s core).tslots[i]?.getD {}
  let s := if t.st = .empty ∧ t.lost ∧ !rangeGone s core t then sendStage core i s else s
  match th with
  | some th => mapTslot core i (fun t => { t with waiters := if th ∈ t.waiters then t.waiters else t.waiters ++ [th] }) s
  | none => s

/-- The slice that homes a tile by its base. -/
def tileHome (base : Word) : Nat :=
  match region base with
  | .linear pa => sliceOfPa pa
  | _ => sliceOfVa base.toNat

/-- A use of a ready slot ends the home's guarantee for the stage that filled it (R256). -/
def reportUse (core i : Nat) (s : State) : State :=
  let t := (coreAt s core).tslots[i]?.getD {}
  let home := tileHome t.base
  match (sliceAt s home).tiles.find? (fun e => e.ctx == t.ctx && e.handle == t.handle) with
  | some e => if (core, i) ∈ e.hold then mapTile home e.idx (fun x => { x with hold := x.hold.erase (core, i) }) s else s
  | none => s

/-- An access performed at a scratchpad place is a use of the slot whose range it touches. -/
def usePlace (pa size : Nat) (s : State) : State :=
  if isSpad pa then
    match stagedSlot s (spadCore pa) ((pa - spadBase) % spadSize) size with
    | some (i, t) => if t.st = .ready then reportUse (spadCore pa) i s else s
    | none => s
  else s

/-- The core and offset of a scratchpad place. -/
def spadPlace (pa : Nat) : Nat × Nat := (spadCore pa, (pa - spadBase) % spadSize)

/-- The staging check of the executing thread's access at a place: none to go on; a local access parks, a remote one
waits in flight. -/
def stageWait (s : State) (va : Word) (pa size : Nat) (k : Acc) (idx : Nat) : Option State :=
  if !isSpad pa then none
  else
    let (c, off) := spadPlace pa
    match stagedCheck s c off size k with
    | .clear => none
    | .prot base =>
      some (raise .prot (memInfo k idx) (if base = 0 then va else base)
        (match stagedSlot s c off size with
         | some (i, _) => mapTslot c i (fun t => { t with refused := false }) s
         | none => s))
    | .wait i =>
      let t := (coreAt s c).tslots[i]?.getD {}
      let base := t.base
      if c = myCore s ∧ !rangeGone s c t then
        some (park ⟨true, .translation base, false⟩ (joinStage c i (some (myThr s)) s))
      else some (waitRetry (joinStage c i none s))

/-! ### Migration (R139 to R142) -/

/-- Whether a thread owns an array engine context of its cell (R285). -/
def ownsEngine (s : State) (core tid ctx : Nat) : Bool :=
  (cellAt s (cellOfCore core)).eng.toList.any (fun e =>
    e.st != .free && e.st != .releasing && e.tid == tid && e.ctx == ctx)

/-- Whether a thread owns a copy context that is BUSY (R332). -/
def copyBusy (s : State) (core tid ctx : Nat) : Bool :=
  (coreAt s core).copy.toList.any (fun e => e.st == .busy && e.tid == tid && e.ctx == ctx)

/-- Whether a value or fault forwarded to a register of a thread is on its way (R140, R143). -/
def forwarding (s : State) (t : Thread) (reg : Nat) : Bool :=
  (s.agenda ++ s.held).any (fun f => match f.ev with
    | .forwardedValue _ th r _ => th.tid == t.tid && th.ctx == t.ctx && r == reg
    | _ => false) ||
  s.cores.any (fun c => c.2.fwd.any (fun f => f.target.isSome && f.tid == t.tid && f.ctx == t.ctx && f.reg == reg))

/-- Whether a thread may migrate (R140, R236, R288, R332): with the mailbox empty, no engine context its own and no
copy context busy. -/
def eligible (s : State) (p : Nat) (t : Thread) : Bool :=
  let core := p / 16
  let pend := t.regs.toList.zipIdx.filter (fun x => x.1.st == .pending)
  let free := 8 - (coreAt s core).fwd.length
  !pinOf t && !vlOf t && privOf t != 3 && sqOf s core ⟨p, t.ctx, t.tid⟩ == [] &&
  t.regs.toList.all (fun g => g.st != .failed) && decide (pend.length ≤ free) &&
  pend.all (fun x => x.1.held.isNone) && (slotAt s p).mailbox == [] &&
  !ownsEngine s core t.tid t.ctx && !copyBusy s core t.tid t.ctx &&
  !(pend.any (fun x => forwarding s t x.2))

/-- The PC a migrant or record carries and the registers it leaves behind (R141). -/
def migrantOf (p target : Nat) (t : Thread) (pc : BitVec 48) (migr : Option Nat) : Migrant :=
  { origin := p, target := target, ctx := t.ctx, tid := t.tid, supervisor := privOf t == 1, keep := keepOf t,
    prio := BitVec.ofNat 2 (prioOf t), mig := migOf t,
    states := (t.regs.toList.take 24).map (fun g => BitVec.ofNat 2 (regStateCode g.st)),
    fstat := t.fstat &&& 0x31F03, pc := pc, pred := predWord t,
    regs := (t.regs.toList.take 24).map (fun g => if g.st = .full then g.val else 0), migr := migr }

/-- The address of a thread's continuation record (R123). -/
def recVa (s : State) (ctx tid : Nat) : Nat := areaBase s ctx 0 + 64 * tid

/-- Sends the executing thread to a core (R139, R141): its origin slot stays reserved, its pending registers take
forwarding entries (R143), and its record goes to STATE migrant (R133). What its next read must heed goes with it (R105, R412). -/
def sendMigrant (target : Nat) (pc : BitVec 48) (migr : Option Nat) (s : State) : State :=
  let t := me s
  let core := myCore s
  let p := s.cur
  let pend := t.regs.toList.zipIdx.filter (fun x => x.1.st == .pending)
  let c := coreAt s core
  let s := setCore s core { c with fwd := c.fwd ++ pend.map (fun x => { reg := x.2, tid := t.tid, ctx := t.ctx, slot := p }) }
  let s := mapMe (fun t => { t with form := .inFlight .migrate }) s
  let s := setCtx s t.ctx { ctxAt s t.ctx with carried := (ctxAt s t.ctx).carried.put (false, 0) t.tid (t.noMerge, t.seenEnergy) }
  let w0 := v64 s t.ctx (recVa s t.ctx t.tid)
  let s := vput64 t.ctx (recVa s t.ctx t.tid) (setFld w0 48 4 2) s
  let s := vput64 t.ctx (recVa s t.ctx t.tid + 48) (w64 p) s
  postOrd core target (.migrantArrival (migrantOf p target t pc migr)) s

/-- The core an access migrates its thread to, if it does (R139): every element in the window of one other core. -/
def windowOf (s : State) (vas : List Word) : Option Nat :=
  let t := me s
  if migOf t && !t.stay && eligible s s.cur t then
    match vas with
    | [] => none
    | va :: rest =>
      match region va with
      | .window n _ =>
        match physCore s t.ctx n with
        | some c =>
          if c ≠ myCore s ∧ rest.all (fun v => match region v with | .window m _ => m == n | _ => false) then some c
          else none
        | none => none
      | _ => none
  else none

/-- The same for elements with their sizes: an access that meets a staging range with no ready copy waits there (R259). -/
def migratesTo (s : State) (k : Acc) (els : List (Nat × Word × Nat)) : Option Nat :=
  (windowOf s (els.map (fun e => e.2.1))).filter (fun c =>
    els.all (fun e => stagedCheck s c (e.2.1.toNat % spadSize) e.2.2 k == .clear))

/-! ### Elements: the checks of a whole instruction (R169, R199) -/

/-- What the checks of all elements give. -/
inductive Plan where
  /-- The elements with their places. -/
  | go (es : List Elem)
  /-- The instruction ends, parks or waits instead. -/
  | stop (s : State)
  deriving DecidableEq, Repr

/-- A thread's access misses in translation: it parks (mem) and the slice is asked (R169 step 5, R438). -/
def missPark (va : Word) (s : State) : State :=
  let th := myThr s
  park ⟨true, .translation va, false⟩ (post (.translationMiss (sliceOfVa va.toNat) va (.thread th va)) s)

/-- A unit asks a slice for a translation, once for a page (R438). -/
def askXlat (va : Word) (w : Waiter) (s : State) : State :=
  let n := sliceOfVa va.toNat
  if (sliceAt s n).coal.any (fun c => c.page == va.toNat / 4096 && decide (w ∈ c.waiters)) ||
      s.agenda.any (fun f => f.ev == .translationMiss n va w) ||
      s.timers.any (fun t => t.2 == .retryWakeTimer n va w) then s
  else post (.translationMiss n va w) s

/-- Checks elements in ascending index: the first that fails decides (R199, R204). -/
def planFrom (k : Acc) (data : Bool) (s : State) : List (Nat × Word × Nat) → List Elem → Plan
  | [], acc => .go acc
  | (i, va, size) :: rest, acc =>
    let t := me s
    match check s (myCore s) t.ctx (privOf t) va size k data with
    | .fault c => .stop (raise c (memInfo k i) va s)
    | .miss => .stop (missPark va s)
    | .ok pa =>
      match stageWait s va pa size k i with
      | some s => .stop s
      | none => planFrom k data s rest (acc ++ [⟨i, va, size, pa⟩])

/-- The plan of an instruction: comparators first (R474), migration at step 4 (R139), which is a release at device scope
(R103) and taken where the pass ends (R138), then every check. -/
def plan (k : Acc) (data migrates : Bool) (els : List (Nat × Word × Nat)) (s : State) : Plan :=
  match els.findSome? (fun e => cmpTrap s e.2.1 e.2.2 k) with
  | some s => .stop s
  | none =>
    let t := me s
    match els.findSome? (fun e => (checkCore s t.ctx (privOf t) e.2.1 e.2.2).map (fun c => (c, e))) with
    | some (c, e) =>
      match planFrom k data s (els.takeWhile (fun x => x.1 != e.1)) [] with
      | .stop s => .stop s
      | .go _ => .stop (raise c (memInfo k e.1) e.2.1 s)
    | none =>
      match (if migrates then migratesTo s k els else none) with
      | some c => .stop (released 3 s (inFlight (.departing c none)))
      | none => planFrom k data s els []

/-! ### Loads (R98, R110, R200) -/

/-- What the core's own sources hold of an element (R98): its bytes, a wait for a partly covering store, or a miss. -/
inductive Hit where
  | bytes (bs : List Byte)
  | wait
  | miss
  deriving DecidableEq, Repr

/-- The store-queue entries of a core that write some of an element's bytes, oldest first (R98). -/
def queuedWriters (s : State) (core : Nat) (e : Elem) : List SqEnt :=
  (coreAt s core).sq.filter (fun x => x.cells.any (fun c => decide (e.pa ≤ c.1) && decide (c.1 < e.pa + e.size)))

/-- An element's bytes where a store-queue entry writes every one of them. -/
def bytesOf (x : SqEnt) (e : Elem) : Option (List Byte) :=
  let bs := (List.range e.size).map (fun i => (x.cells.find? (fun c => c.1 == e.pa + i)).map (fun c => c.2))
  if bs.all Option.isSome then some (bs.map (fun b => b.getD 0)) else none

/-- The value of one element from the store queue (R98). -/
def fromQueue (s : State) (core : Nat) (e : Elem) : Hit :=
  match (queuedWriters s core e).getLast? with
  | none => .miss
  | some x =>
    match bytesOf x e with
    | some bs => .bytes bs
    | none => .wait

/-- The value of one element from the L1's shared copy. -/
def fromL1 (s : State) (core : Nat) (e : Elem) : Hit :=
  if isSpad e.pa then .miss
  else match (coreAt s core).l1.find? (fun x => x.1 == e.va.toNat / 32) with
  | some (_, .shared pa data) =>
    if pa = e.pa / 32 * 32 then .bytes ((data.drop (e.pa % 32)).take e.size) else .miss
  | _ => .miss

/-- Whether a store-queue entry writes a line: by a store's bytes, or by feclr or feset (R218). -/
def SqEnt.touches (x : SqEnt) (line : Nat) : Bool :=
  x.cells.any (fun c => c.1 / 32 == line) ||
    (match x.req with
     | some (.fe _ _ _ pa _ _ _) => pa / 32 == line
     | _ => false)

/-- Whether a queued store of the core lies in an element's line. -/
def lineQueued (s : State) (core line : Nat) : Bool := (coreAt s core).sq.any (fun x => x.touches line)

/-- One element of a load at issue: from the queue, the L1 (relaxed), the local scratchpad, else from the home. home
says the access must be performed there: then every queued store of its line is awaited first. An element that waits for
the entries covering it in part takes nothing from the queue any more (R98). -/
def hitOf (s : State) (home : Bool) (e : Elem) : Hit :=
  let core := myCore s
  if isSpad e.pa ∧ spadCore e.pa = core then .bytes (rdBytes s e.pa e.size)
  else if home then (if lineQueued s core (e.pa / 32) then .wait else .miss)
  else
    match (me s).behind.find? (fun x => x.1 == e.idx) with
    | some (_, ids) => if (coreAt s core).sq.any (fun x => x.id ∈ ids) then .wait else fromL1 s core e
    | none =>
      match fromQueue s core e with
      | .miss => fromL1 s core e
      | h => h

/-- Elements that a queued store covers in part wait for every entry that writes some of their bytes (R98). -/
def waitBehind (home : Bool) (es : List Elem) (s : State) : State :=
  let new := es.filter (fun e => !home && hitOf s home e == .wait && (me s).behind.all (fun x => x.1 != e.idx))
  waitRetry (mapMe (fun t =>
    { t with behind := t.behind ++ new.map (fun e => (e.idx, (queuedWriters s (myCore s) e).map (fun x => x.id))) }) s)

/-- An access to a peer's memory that has been made is counted at its slice (R448): w names who made it. -/
def countPeer (va : Word) (pa : Nat) (w : Waiter) (s : State) : State :=
  if pa < peerBase ∨ debugBase ≤ pa then s else post (.remoteAccess (sliceOfVa va.toNat) va w) s

/-- Elements read within the instruction's pass from the sources of R98, those of no other source at their homes: whether
nothing has to be waited for, their bytes, and the state after what the homes had to ask. -/
def readElems (es : List Elem) (s : State) : Bool × List (List Byte) × State :=
  es.foldl (fun r e =>
    match hitOf r.2.2 (me r.2.2).noMerge e with
    | .bytes bs => (r.1, r.2.1 ++ [bs], r.2.2)
    | .wait => (false, r.2.1 ++ [[]], r.2.2)
    | .miss =>
      let q := prepFor (me r.2.2).ctx (homeOf e.va e.pa) (e.pa / 32) none .read r.2.2
      (r.1 && q.1, r.2.1 ++ [rdBytes q.2 e.pa e.size], countPeer e.va e.pa (.thread (myThr s) e.va) (nextFresh q.2))) (true, [], s)

/-- The merge floor of a read of a line (R110). -/
def floorOf (s : State) (t : Thread) (core : Nat) (va : Nat) : Nat :=
  Nat.max t.floor ((coreAt s core).filter.get 0 ((bits va 5 6) ^^^ (bits va 11 6)))

/-- The reply of an older relaxed read of the line that a router may let this read join (R109): its data.
DESIGN CHOICE, unsafe: log entry 38. -/
def mergeable (s : State) (line floor : Nat) : Option (List Byte) :=
  s.agenda.findSome? (fun f =>
    match f.ev with
    | .loadReply _ va data _ stamp => if va.toNat / 32 = line ∧ 0 < stamp ∧ floor ≤ stamp then some data else none
    | _ => none)

/-- A core numbers a read request, from 1. -/
def takeReqId (core : Nat) (s : State) : State :=
  setCore s core { coreAt s core with reqId := (coreAt s core).reqId + 1 }

/-- A fill of a line is outstanding at a core (R95). Only lines of DRAM fill an L1. -/
def startFill (core id va pa : Nat) (s : State) : State :=
  let c := coreAt s core
  if inDram pa then setCore s core { c with fills := c.fills ++ [{ id := id, va := va / 32, pa := pa / 32 * 32 }] } else s

/-- Sends the requests of the missing elements, one for each line (R200): each joins an older read or goes to its
home. A read that joins an older one takes that one's data and leaves no copy in its own L1, which R109 leaves open (DESIGN
CHOICE, unsafe: log entry 38). -/
def sendReads (home : Bool) (missing : List Elem) (s : State) : State :=
  let core := myCore s
  let t := me s
  let th := myThr s
  let lines := missing.foldl (fun (l : List Elem) e => if l.any (fun x => x.va.toNat / 32 == e.va.toNat / 32) then l else l ++ [e]) []
  lines.foldl (fun s e =>
    let line := e.va.toNat / 32
    let id := (coreAt s core).reqId + 1
    let s := takeReqId core s
    let r : ReadReq := { th := th, core := core, va := w64 (line * 32), pa := e.pa / 32 * 32,
                         kind := if home then .home else .load, id := id, priv := privOf t }
    if isSpad e.pa then postOrd core (homeUnit (homeOf e.va e.pa)) (.homeRead r) s
    else if home then post (.homeRead r) (startFill core id e.va.toNat e.pa s)
    else
      let r := { r with stamp := s.time8 }
      match mergeable s line (floorOf s t core e.va.toNat) with
      | some data =>
        let s' := nextFresh s
        if Config.freeChoice 2 s.fresh = 1 then post (.loadReply th (w64 (line * 32)) data id 0) s'
        else post (.homeRead r) (startFill core id e.va.toNat e.pa s')
      | none => post (.homeRead r) (startFill core id e.va.toNat e.pa s)) s

/-- The value of an integer element of size bytes, sign-extended when signed. -/
def loadedVal (signed : Bool) (bs : List Byte) : Word :=
  if signed then sextNat (leNat bs) (8 * bs.length) else w64 (leNat bs)

/-- Element e of w bits of a vector register, and its replacement (R181). -/
def velem (v : Vec) (w e : Nat) : Nat := v.toNat / 2 ^ (w * e) % 2 ^ w
def setVelem (v : Vec) (w e x : Nat) : Vec :=
  BitVec.ofNat 512 (v.toNat - velem v w e * 2 ^ (w * e) + x % 2 ^ w * 2 ^ (w * e))

/-- Writes vector register d and sets STATUS.VL (R185). -/
def writeVec (d : Nat) (v : Vec) (s : State) : State :=
  mapMe (fun t => { t with vecs := t.vecs.setIfInBounds d v, status := setFld t.status 4 1 1 }) s

/-- A load's destination takes its value, and the floor the time (R110, R170, R200). -/
def writeLoad (dest : LoadDest) (got : List (Elem × List Byte)) (s : State) : State :=
  let s := match dest with
    | .greg d signed => writeDst d (loadedVal signed ((got.head?.map (fun g => g.2)).getD [])) s
    | .vreg d w =>
      writeVec d (got.foldl (fun v g => setVelem v w g.1.idx (leNat g.2)) ((me s).vecs[d]?.getD 0)) s
    | .vbcast d w es =>
      let x := (got.head?.map (fun g => leNat g.2)).getD 0
      writeVec d (es.foldl (fun v e => setVelem v w e x) ((me s).vecs[d]?.getD 0)) s
  mapMe (fun t => { t with floor := s.time8 }) s

/-- The register or queue name a load writes; a vector register needs no place. -/
def destOf (dest : LoadDest) : Nat :=
  match dest with
  | .greg d _ => d
  | _ => 0

/-- The refused element with the lowest index (R199). -/
def lowestBad (bad : List (Nat × Cause × Word)) : Option (Nat × Cause × Word) :=
  bad.foldl (fun o x => match o with | some y => if x.1 < y.1 then some x else o | none => some x) none

/-- A load in flight ends when no element is missing: with the fault of the lowest refused element, exactly (R169, R199),
else with its value (R170, R200). A value that arrives for a role queue closed meanwhile is appended (DESIGN CHOICE, unsafe: log
entry 73). -/
def endLoad (l : LoadWait) (s0 : State) : State :=
  let s := unreserve (destOf l.dest) s0
  match lowestBad l.bad with
  | some (idx, c, addr) => raise c (memInfo .read idx) addr (undoPops l.undo (giveUp (destOf l.dest) s0))
  | none => finish (destOf l.dest) l.undo s (writeLoad l.dest l.got s)

/-- The thread's next read has been issued (R110). -/
def clearNoMerge (s : State) : State := mapMe (fun t => { t with noMerge := false }) s

/-- Performs a load whose elements have passed their checks (R98, R170, R200). home: at the home, whatever the core holds;
acq: a miss goes to the home as such a load too (R104, R110). -/
def doLoad (dest : LoadDest) (home acq : Bool) (es : List Elem) (ss : List Src) (s : State) : State :=
  let hits := es.map (fun e => (e, hitOf s home e))
  let got := hits.filterMap (fun h => match h.2 with | .bytes bs => some (h.1, bs) | _ => none)
  let missing := hits.filterMap (fun h => match h.2 with | .miss => some h.1 | _ => none)
  let used (s : State) : State := es.foldl (fun s e => usePlace e.pa e.size s) s
  if hits.any (fun h => h.2 == .wait) then waitBehind home es s
  else if acq && missing.any (fun e => lineQueued s (myCore s) (e.pa / 32)) then waitRetry s
  else if missing = [] then complete s (writeLoad dest got (used (commit ss (clearNoMerge s))))
  else
    let l : LoadWait := { dest := dest, missing := missing, got := got, since := (coreAt s (myCore s)).reqId + 1,
                          undo := popsTaken ss s }
    clearNoMerge (inFlight (.load l) (sendReads (home || acq) missing (used (reserve (destOf dest) (takePops ss s)))))

/-- The executing thread's instruction in flight ends without effect: what it had taken goes back (R233). -/
def abandon (s : State) : State :=
  match (me s).form with
  | .inFlight (.load l) => undoPops l.undo (giveUp (destOf l.dest) s)
  | .inFlight (.storeCheck _ _ undo) => undoPops undo s
  | .inFlight (.divider d _ _ undo) => undoPops undo (giveUp d s)
  | .inFlight (.fe _ d _ _ undo) => undoPops undo (giveUp d s)
  | .inFlight (.reply d _ undo) => undoPops undo (giveUp d s)
  | .inFlight (.storeDone id _) =>
    let c := coreAt s (myCore s)
    setCore s (myCore s) { c with sq := c.sq.filter (fun e => e.id != id || e.sent) }
  | _ => s

/-- The two steps a load's order adds before it is performed (R104), and whether the home performs it. -/
def orderedLoad (mo : BitVec 2) (sc : BitVec 3) (s : State) (k : Bool → State → State) : State :=
  let home := (me s).noMerge || (mo != 0 && sc != 0)
  if mo = 3 then released sc s (k home) else k home s

/-- No later access issues while an acquire atomic of the thread is outstanding (R224). -/
def acqGate (s : State) (k : State) : State := if (me s).acqOut ≠ 0 then waitRetry s else k

/-- The scalar loads (R168 to R170): size 2^sz, signed or not. -/
def loadInstr (signed : Bool) (d a : BitVec 5) (sz : BitVec 2) (sc : BitVec 3) (mo : BitVec 2) (off : BitVec 8)
    (s : State) : Result :=
  let ss := [srcP a]
  withOps ss (.reg d.toNat) s (fun vs =>
    acqGate s
      (let size := 2 ^ sz.toNat
       let va := arg vs 0 + sextNat (off.toNat * size) (8 + sz.toNat)
       match plan .read false true [(0, va, size)] s with
       | .stop s => s
       | .go es => orderedLoad mo sc s (fun home s => doLoad (.greg d.toNat signed) home (mo != 0) es ss s)))

/-! ### Stores (R171, R199, R201) -/

/-- Stores to one 32-byte line that follow one another are one write; of two to one byte the later remains (R201). -/
def coalesce (els : List (Elem × List Byte)) : List (Word × List (Nat × Byte)) :=
  els.foldl (fun acc x =>
    let cs := cellsAt x.1.pa x.2
    match acc.getLast? with
    | some (va, cells) =>
      if (cells.head?.map (fun c => c.1 / 32)) = some (x.1.pa / 32) then
        acc.dropLast ++ [(va, cells.filter (fun c => cs.all (fun d => d.1 != c.1)) ++ cs)]
      else acc ++ [(x.1.va, cs)]
    | none => [(x.1.va, cs)]) []

/-- A core holds no shared copy of a line any more: it is a sharer no more, unless a fill of the line is on its way (R213). -/
def dropSharer (core line : Nat) (s : State) : State :=
  let c := coreAt s core
  let has := c.l1.any (fun x => match x with | (_, .shared pa _) => pa == line * 32 | _ => false)
  if has ∨ c.fills.any (fun f => f.pa == line * 32) ∨ !(core ∈ (dirAt s line).sharers) then s
  else setDir s line { dirAt s line with sharers := (dirAt s line).sharers.erase core }

/-- A line's data with a store's cells over it. -/
def overlay (pa : Nat) (cells : List (Nat × Byte)) (data : List Byte) : List Byte :=
  data.zipIdx.map (fun y => (cells.find? (fun z => z.1 == pa + y.2)).elim y.1 (fun z => z.2))

/-- Fills of a core in flight for lines that f names will install no copy, since their data may be older (R95, R98). -/
def markFills (f : FillReq → Bool) (c : Core) : Core :=
  { c with fills := c.fills.map (fun x => if f x then { x with marked := true } else x) }

/-- A store's cells show in its core's shared copies of their line; a fill of the line in flight will install no copy (R95,
R98). -/
def patchL1 (core : Nat) (cells : List (Nat × Byte)) (s : State) : State :=
  let c := markFills (fun f => cells.any (fun z => z.1 / 32 == f.pa / 32)) (coreAt s core)
  setCore s core { c with l1 := c.l1.map (fun l =>
    match l with
    | (k, .shared pa data) => if cells.any (fun z => z.1 / 32 == pa / 32) then (k, .shared pa (overlay pa cells data)) else l
    | _ => l) }

/-- Queues checked elements and finishes the store: local scratchpad bytes are performed at once (R100, R171, R201). -/
def queueStores (els : List (Elem × List Byte)) (s : State) : State :=
  let s := els.foldl (fun s x => usePlace x.1.pa x.2.length (setDirty x.1.va.toNat s)) s
  (coalesce els).foldl (fun s x =>
    let (va, cells) := x
    let pa := (cells.head?.map (fun c => c.1)).getD 0
    let core := myCore s
    if isSpad pa ∧ spadCore pa = core then performWrite cells none (some (myThr s)) s
    else enqueue { id := 0, th := myThr s, va := va, cells := cells, home := homeOf va pa } (patchL1 core cells s)) s

/-- A store whose elements have passed their checks: the thread is in flight until the check's reply, unless every
element is local (R171). -/
def doStore (els : List (Elem × List Byte)) (seqSt : Bool) (ss : List Src) (s : State) : State :=
  if els.all (fun x => isSpad x.1.pa && spadCore x.1.pa == myCore s) then complete s (queueStores els (commit ss s))
  else post (.storeCheckReply (myThr s)) (inFlight (.storeCheck els seqSt (popsTaken ss s)) (takePops ss s))

/-- Conditions of a release or sequentially consistent store (R104). -/
def orderedStore (mo : BitVec 2) (sc : BitVec 3) (s : State) (k : State → State) : State :=
  if mo = 0 then k s else released sc s k

/-- st (R171). -/
def storeInstr (d a : BitVec 5) (sz : BitVec 2) (sc : BitVec 3) (mo : BitVec 2) (off : BitVec 8) (s : State) : Result :=
  let ss := [srcP a, srcP d]
  withOps ss .none s (fun vs =>
    acqGate s
      (let size := 2 ^ sz.toNat
       let va := arg vs 0 + sextNat (off.toNat * size) (8 + sz.toNat)
       match plan .write true true [(0, va, size)] s with
       | .stop s => s
       | .go es => orderedStore mo sc s (fun s =>
          doStore (es.map (fun e => (e, leBytes size (arg vs 1).toNat))) (mo == 3) ss s)))

/-! ### Posted accesses (R39, R174, R222 to R224) -/

/-- Sends a posted producer: G[d] goes to P and the instruction completes (R37, R174). -/
def postProducer (d : BitVec 5) (ss : List Src) (s : State) (k : State → State) : State :=
  if atTop s then raise .misfetch 0 (w64 (2 ^ 48)) s
  else
    let s := commit ss s
    let s := mapMe (fun t => setReg d.toNat { (regOf t d.toNat) with st := .pending, held := none } t) s
    advance (k s)

/-- The home an address belongs to before translation; a slice stands for addresses of no home. -/
def homeOfVa (s : State) (core ctx : Nat) (va : Word) : Nat :=
  match region va with
  | .paged => sliceOfVa va.toNat
  | .linear pa => sliceOfPa pa
  | .window n _ => 1024 + (physCore s ctx n).getD core
  | _ => 1024 + core

/-- An atomic enters the store queue with its request half (R224). An acquire holds back the thread's later memory
accesses; a release waits for its scope's invalidations before it is sent. -/
def queueAtomic (va : Word) (mo : BitVec 2) (req : WriteReq) (s : State) : State :=
  let s := if mo = 1 ∨ mo = 3 then mapMe (fun t => { t with acqOut := t.acqOut + 1 }) s else s
  enqueue { id := 0, th := myThr s, va := va, cells := [], home := homeOfVa s (myCore s) (me s).ctx va, req := some req } s

/-- amo (R222): every check is the home's, and every fault is deferred. -/
def amoInstr (op : AmoOp) (d a b : BitVec 5) (sc : BitVec 3) (mo : BitVec 2) (s : State) : Result :=
  let ss := [srcP a, srcP b]
  withOps ss (.posted d.toNat) s (fun vs =>
    acqGate s
      (match cmpTrap s (arg vs 0) (amoSize op) .rmw with
       | some s => s
       | none =>
         let go (s : State) : State := postProducer d ss s (fun s =>
           queueAtomic (arg vs 0) mo (.amo (myThr s) d.toNat op (arg vs 0) (arg vs 1) (me s).pc mo (privOf (me s))) s)
         if mo = 2 ∨ mo = 3 then released sc s go else go s))

/-- cas (R223), size 4 or 8. -/
def casInstr (size : Nat) (d a b : BitVec 5) (sc : BitVec 3) (mo : BitVec 2) (s : State) : Result :=
  let ss := [srcP a, srcP b, srcP d]
  withOps ss (.posted d.toNat) s (fun vs =>
    acqGate s
      (match cmpTrap s (arg vs 0) size .rmw with
       | some s => s
       | none =>
         let go (s : State) : State := postProducer d ss s (fun s =>
           queueAtomic (arg vs 0) mo
             (.cas (myThr s) d.toNat size (arg vs 0) (arg vs 2) (arg vs 1) (me s).pc mo (privOf (me s))) s)
         if mo = 2 ∨ mo = 3 then released sc s go else go s))

/-! ### Home actions inside an instruction (R214, R218, R219) -/

/-- The lines of an element. -/
def linesAt (e : Elem) : List Nat := (List.range ((e.size + 31) / 32)).map (fun i => e.pa / 32 + i)

/-- The place of one access of the executing thread that is performed at its home within the instruction: its checks,
its staging wait, the core's queued stores to the line (R98), and the line's own waits (R213, R254). -/
def atHome (k : Acc) (data : Bool) (va : Word) (size : Nat) (s : State) (act : Elem → State → State) : State :=
  match plan k data false [(0, va, size)] s with
  | .stop s => s
  | .go [] => s
  | .go (e :: _) =>
    if routeFenced s (myCore s) (homeUnit (homeOf e.va e.pa)) then raise .fenced (memInfo k 0) va s
    else if (linesAt e).any (lineQueued s (myCore s)) then waitRetry s
    else
      let r := prepAllFor (me s).ctx (homeOf e.va e.pa) (linesAt e) (if k = .read then .read else .write) s
      if r.1 = false then waitRetry r.2
      else act e (usePlace e.pa e.size r.2)

/-- The acquire side of an access performed at its home: held while the line has invalidations outstanding (R104). -/
def acqHeld (mo : BitVec 2) (e : Elem) (s : State) : Bool :=
  (mo == 1 || mo == 3) && (linesAt e).any (fun l => (dirAt s l).invs != [])

/-- The merge floor of an acquire (R110). -/
def raiseFloor (mo : BitVec 2) (s : State) : State :=
  if mo = 1 ∨ mo = 3 then mapMe (fun t => { t with floor := s.time8 }) s else s

end Sys2Proof.Machine
end

