-- ==== Sys2Proof/Machine/Scalar.lean ====
section
/-!
DEFINITION. The scalar instructions on registers (06 R154 to R167): arithmetic, division, bit manipulation, constants,
jumps, branches and masks. One definition an instruction.
-/
namespace Sys2Proof.Machine

/-- An instruction with two sources (R158). -/
def alu2 (d a b : BitVec 5) (ma mb : BitVec 2) (f : Word → Word → Word) (s : State) : Result :=
  computes [src a ma, src b mb] d (fun vs => f (arg vs 0) (arg vs 1)) s

/-- An instruction with one source and an immediate (R162). -/
def aluI (d a : BitVec 5) (ma : BitVec 2) (f : Word → Word) (s : State) : Result :=
  computes [src a ma] d (fun vs => f (arg vs 0)) s

/-- Rotation left. -/
def rotl (x : Word) (n : Nat) : Word := x.rotateLeft n

/-- The signed integer of a word. -/
def sgn (x : Word) : Int := x.toInt

/-- add (R158). -/
def execAdd (d a b : BitVec 5) (ma mb : BitVec 2) (s : State) : Result :=
  alu2 d a b ma mb (fun a b => a + b) s

/-- sub (R158). -/
def execSub (d a b : BitVec 5) (ma mb : BitVec 2) (s : State) : Result :=
  alu2 d a b ma mb (fun a b => a - b) s

/-- and (R158). -/
def execAnd (d a b : BitVec 5) (ma mb : BitVec 2) (s : State) : Result :=
  alu2 d a b ma mb (fun a b => a &&& b) s

/-- or (R158). -/
def execOr (d a b : BitVec 5) (ma mb : BitVec 2) (s : State) : Result :=
  alu2 d a b ma mb (fun a b => a ||| b) s

/-- xor (R158). -/
def execXor (d a b : BitVec 5) (ma mb : BitVec 2) (s : State) : Result :=
  alu2 d a b ma mb (fun a b => a ^^^ b) s

/-- andn (R158). -/
def execAndn (d a b : BitVec 5) (ma mb : BitVec 2) (s : State) : Result :=
  alu2 d a b ma mb (fun a b => a &&& ~~~b) s

/-- shl (R158). -/
def execShl (d a b : BitVec 5) (ma mb : BitVec 2) (s : State) : Result :=
  alu2 d a b ma mb (fun a b => a <<< fld b 0 6) s

/-- shr (R158). -/
def execShr (d a b : BitVec 5) (ma mb : BitVec 2) (s : State) : Result :=
  alu2 d a b ma mb (fun a b => a >>> fld b 0 6) s

/-- sra (R158). -/
def execSra (d a b : BitVec 5) (ma mb : BitVec 2) (s : State) : Result :=
  alu2 d a b ma mb (fun a b => a.sshiftRight (fld b 0 6)) s

/-- rot (R158). -/
def execRot (d a b : BitVec 5) (ma mb : BitVec 2) (s : State) : Result :=
  alu2 d a b ma mb (fun a b => rotl a (fld b 0 6)) s

/-- slt (R158). -/
def execSlt (d a b : BitVec 5) (ma mb : BitVec 2) (s : State) : Result :=
  alu2 d a b ma mb (fun a b => b2w (decide (sgn a < sgn b))) s

/-- sltu (R158). -/
def execSltu (d a b : BitVec 5) (ma mb : BitVec 2) (s : State) : Result :=
  alu2 d a b ma mb (fun a b => b2w (decide (a.toNat < b.toNat))) s

/-- seq (R158). -/
def execSeq (d a b : BitVec 5) (ma mb : BitVec 2) (s : State) : Result :=
  alu2 d a b ma mb (fun a b => b2w (a == b)) s

/-- min (R158). -/
def execMin (d a b : BitVec 5) (ma mb : BitVec 2) (s : State) : Result :=
  alu2 d a b ma mb (fun a b => if sgn a ≤ sgn b then a else b) s

/-- max (R158). -/
def execMax (d a b : BitVec 5) (ma mb : BitVec 2) (s : State) : Result :=
  alu2 d a b ma mb (fun a b => if sgn a ≤ sgn b then b else a) s

/-- minu (R158). -/
def execMinu (d a b : BitVec 5) (ma mb : BitVec 2) (s : State) : Result :=
  alu2 d a b ma mb (fun a b => if a.toNat ≤ b.toNat then a else b) s

/-- maxu (R158). -/
def execMaxu (d a b : BitVec 5) (ma mb : BitVec 2) (s : State) : Result :=
  alu2 d a b ma mb (fun a b => if a.toNat ≤ b.toNat then b else a) s

/-- addw (R158). -/
def execAddw (d a b : BitVec 5) (ma mb : BitVec 2) (s : State) : Result :=
  alu2 d a b ma mb (fun a b => sextNat (a + b).toNat 32) s

/-- subw (R158). -/
def execSubw (d a b : BitVec 5) (ma mb : BitVec 2) (s : State) : Result :=
  alu2 d a b ma mb (fun a b => sextNat (a - b).toNat 32) s

/-- mul (R159). -/
def execMul (d a b : BitVec 5) (ma mb : BitVec 2) (s : State) : Result :=
  alu2 d a b ma mb (fun a b => a * b) s

/-- mulh (R159). -/
def execMulh (d a b : BitVec 5) (ma mb : BitVec 2) (s : State) : Result :=
  alu2 d a b ma mb (fun a b => BitVec.ofInt 64 (sgn a * sgn b / 2 ^ 64)) s

/-- mulhu (R159). -/
def execMulhu (d a b : BitVec 5) (ma mb : BitVec 2) (s : State) : Result :=
  alu2 d a b ma mb (fun a b => w64 (a.toNat * b.toNat / 2 ^ 64)) s

/-- Signed quotient (R79). -/
def divS (a b : Word) : Word :=
  if b = 0 then 0 else BitVec.ofInt 64 (Int.tdiv (sgn a) (sgn b))

/-- Unsigned quotient (R79). -/
def divU (a b : Word) : Word := if b = 0 then 0 else w64 (a.toNat / b.toNat)

/-- Signed remainder (R79). -/
def remS (a b : Word) : Word :=
  if b = 0 then a else BitVec.ofInt 64 (Int.tmod (sgn a) (sgn b))

/-- Unsigned remainder (R79). -/
def remU (a b : Word) : Word := if b = 0 then a else w64 (a.toNat % b.toNat)

/-- A use of the divider: 24 cycles, served in issue order; the thread forfeits its turns until its own use ends
(R160). The result is written then. -/
def divides (d a b : BitVec 5) (ma mb : BitVec 2) (f : Word → Word → Word) (s : State) : Result :=
  withOps [src a ma, src b mb] (.reg d.toNat) s (fun vs =>
    let core := myCore s
    let ss := [src a ma, src b mb]
    let w := WaitFor.divider d.toNat (f (arg vs 0) (arg vs 1)) (takesOf ss) (popsTaken ss s)
    let s := inFlight w (reserve d.toNat (takePops ss s))
    let c := coreAt s core
    let s := setCore s core { c with divq := c.divq ++ [myThr s] }
    if c.divq = [] then after 240 (.dividerDone core) s else s)

/-- div (R159, R160). -/
def execDiv (d a b : BitVec 5) (ma mb : BitVec 2) (s : State) : Result := divides d a b ma mb divS s

/-- divu (R159, R160). -/
def execDivu (d a b : BitVec 5) (ma mb : BitVec 2) (s : State) : Result := divides d a b ma mb divU s

/-- rem (R159, R160). -/
def execRem (d a b : BitVec 5) (ma mb : BitVec 2) (s : State) : Result := divides d a b ma mb remS s

/-- remu (R159, R160). -/
def execRemu (d a b : BitVec 5) (ma mb : BitVec 2) (s : State) : Result := divides d a b ma mb remU s

/-- The number of 1 bits among the low n. -/
def popcount (x : Nat) : Nat → Nat
  | 0 => 0
  | n + 1 => popcount x n + bits x n 1

/-- The number of zero bits from bit n − 1 down to the highest 1. -/
def leadZeros (x : Nat) : Nat → Nat
  | 0 => 0
  | n + 1 => if bits x n 1 = 1 then 0 else leadZeros x n + 1

/-- The number of zero bits below the lowest 1, n if there is none. -/
def trailZeros (x : Nat) : Nat → Nat
  | 0 => 0
  | n + 1 => if x % 2 = 1 then 0 else trailZeros (x / 2) n + 1

/-- clz (R161). -/
def execClz (d a : BitVec 5) (ma : BitVec 2) (s : State) : Result := aluI d a ma (fun a => w64 (leadZeros a.toNat 64)) s

/-- ctz (R161). -/
def execCtz (d a : BitVec 5) (ma : BitVec 2) (s : State) : Result := aluI d a ma (fun a => w64 (trailZeros a.toNat 64)) s

/-- popc (R161). -/
def execPopc (d a : BitVec 5) (ma : BitVec 2) (s : State) : Result := aluI d a ma (fun a => w64 (popcount a.toNat 64)) s

/-- bswap (R161). -/
def execBswap (d a : BitVec 5) (ma : BitVec 2) (s : State) : Result := aluI d a ma (fun a => w64 (leNat (leBytes 8 a.toNat).reverse)) s

/-- The field of a at pos with len bits, bits above 63 reading as 0 (R161). -/
def extractField (a b : Word) : Word := w64 (bits a.toNat (fld b 0 6) (fld b 8 6))

/-- g with its field at pos of len bits replaced by the low bits of a (R161). -/
def insertField (g a b : Word) : Word :=
  let pos := fld b 0 6
  let len := Nat.min (fld b 8 6) (64 - pos)
  w64 (g.toNat - bits g.toNat pos len * 2 ^ pos + a.toNat % 2 ^ len * 2 ^ pos)

/-- bext (R161). -/
def execBext (d a b : BitVec 5) (ma mb : BitVec 2) (s : State) : Result :=
  alu2 d a b ma mb (fun a b => extractField a b) s

/-- sext (R161). -/
def execSext (d a b : BitVec 5) (ma mb : BitVec 2) (s : State) : Result :=
  alu2 d a b ma mb (fun a b => sextNat a.toNat (fld b 0 6 + 1)) s

/-- zext (R161). -/
def execZext (d a b : BitVec 5) (ma mb : BitVec 2) (s : State) : Result :=
  alu2 d a b ma mb (fun a b => w64 (bits a.toNat 0 (fld b 0 6 + 1))) s

/-- bins (R161): d is read plain with the other sources. -/
def execBins (d a b : BitVec 5) (ma mb : BitVec 2) (s : State) : Result :=
  computes [src a ma, src b mb, srcP d] d (fun vs => insertField (arg vs 2) (arg vs 0) (arg vs 1)) s

/-- nop (R47): it reads and writes no register and never parks. -/
def execNop (s : State) : Result := .next (complete s s)

/-- addi (R162). -/
def execAddi (d a : BitVec 5) (ma : BitVec 2) (imm : BitVec 13) (s : State) : Result :=
  aluI d a ma (fun a => a + sextNat imm.toNat 13) s

/-- andi (R162). -/
def execAndi (d a : BitVec 5) (ma : BitVec 2) (imm : BitVec 13) (s : State) : Result :=
  aluI d a ma (fun a => a &&& sextNat imm.toNat 13) s

/-- ori (R162). -/
def execOri (d a : BitVec 5) (ma : BitVec 2) (imm : BitVec 13) (s : State) : Result :=
  aluI d a ma (fun a => a ||| sextNat imm.toNat 13) s

/-- xori (R162). -/
def execXori (d a : BitVec 5) (ma : BitVec 2) (imm : BitVec 13) (s : State) : Result :=
  aluI d a ma (fun a => a ^^^ sextNat imm.toNat 13) s

/-- slti (R162). -/
def execSlti (d a : BitVec 5) (ma : BitVec 2) (imm : BitVec 13) (s : State) : Result :=
  aluI d a ma (fun a => b2w (decide (sgn a < sgn (sextNat imm.toNat 13)))) s

/-- sltiu (R162). -/
def execSltiu (d a : BitVec 5) (ma : BitVec 2) (imm : BitVec 13) (s : State) : Result :=
  aluI d a ma (fun a => b2w (decide (a.toNat < (sextNat imm.toNat 13).toNat))) s

/-- shli (R163). -/
def execShli (d a : BitVec 5) (ma : BitVec 2) (amt : BitVec 6) (s : State) : Result :=
  aluI d a ma (fun a => a <<< amt.toNat) s

/-- shri (R163). -/
def execShri (d a : BitVec 5) (ma : BitVec 2) (amt : BitVec 6) (s : State) : Result :=
  aluI d a ma (fun a => a >>> amt.toNat) s

/-- srai (R163). -/
def execSrai (d a : BitVec 5) (ma : BitVec 2) (amt : BitVec 6) (s : State) : Result :=
  aluI d a ma (fun a => a.sshiftRight amt.toNat) s

/-- roti (R163). -/
def execRoti (d a : BitVec 5) (ma : BitVec 2) (amt : BitVec 6) (s : State) : Result :=
  aluI d a ma (fun a => rotl a amt.toNat) s

/-- lui (R164). -/
def execLui (d : BitVec 5) (imm : BitVec 20) (s : State) : Result :=
  computes [] d (fun _ => sextNat (imm.toNat * 4096) 32) s

/-- auipc (R164). -/
def execAuipc (d : BitVec 5) (imm : BitVec 20) (s : State) : Result :=
  computes [] d (fun _ => (me s).pc.zeroExtend 64 + sextNat (imm.toNat * 4096) 32) s

/-- A jump with its link: the target is computed before the link is written (R165). -/
def jump (d : BitVec 5) (target : Int) (ss : List Src) (s : State) : State :=
  if target < 0 ∨ badTarget target.toNat then raise .misfetch 0 (BitVec.ofInt 64 target) s
  else jumpTo target.toNat (writeDst d.toNat (w64 ((me s).pc.toNat + 4)) (commit ss s))

/-- jal (R165). -/
def execJal (d : BitVec 5) (off : BitVec 20) (s : State) : Result :=
  withOps [] (.reg d.toNat) s (fun _ => jump d ((me s).pc.toNat + 4 * off.toInt) [] s)

/-- jalr (R165). -/
def execJalr (d a : BitVec 5) (ma : BitVec 2) (imm : BitVec 13) (s : State) : Result :=
  withOps [src a ma] (.reg d.toNat) s (fun vs => jump d ((arg vs 0 + sextNat imm.toNat 13).toNat : Int) [src a ma] s)

/-- A branch: only a taken one checks its target (R166). -/
def branch (ss : List Src) (off : BitVec 12) (f : List Word → Bool) (s : State) : Result :=
  withOps ss .none s (fun vs =>
    if f vs then
      let target : Int := (me s).pc.toNat + 4 * off.toInt
      if target < 0 ∨ badTarget target.toNat then raise .misfetch 0 (BitVec.ofInt 64 target) s
      else jumpTo target.toNat (commit ss s)
    else complete s (commit ss s))

/-- beq (R166). -/
def execBeq (a b : BitVec 5) (off : BitVec 12) (s : State) : Result :=
  branch [srcP a, srcP b] off (fun vs => arg vs 0 == arg vs 1) s

/-- bne (R166). -/
def execBne (a b : BitVec 5) (off : BitVec 12) (s : State) : Result :=
  branch [srcP a, srcP b] off (fun vs => arg vs 0 != arg vs 1) s

/-- blt (R166). -/
def execBlt (a b : BitVec 5) (off : BitVec 12) (s : State) : Result :=
  branch [srcP a, srcP b] off (fun vs => decide (sgn (arg vs 0) < sgn (arg vs 1))) s

/-- bge (R166). -/
def execBge (a b : BitVec 5) (off : BitVec 12) (s : State) : Result :=
  branch [srcP a, srcP b] off (fun vs => decide (sgn (arg vs 1) ≤ sgn (arg vs 0))) s

/-- bltu (R166). -/
def execBltu (a b : BitVec 5) (off : BitVec 12) (s : State) : Result :=
  branch [srcP a, srcP b] off (fun vs => decide ((arg vs 0).toNat < (arg vs 1).toNat)) s

/-- bgeu (R166). -/
def execBgeu (a b : BitVec 5) (off : BitVec 12) (s : State) : Result :=
  branch [srcP a, srcP b] off (fun vs => decide ((arg vs 1).toNat ≤ (arg vs 0).toNat)) s

/-- beqz (R166). -/
def execBeqz (a : BitVec 5) (off : BitVec 12) (s : State) : Result :=
  branch [srcP a] off (fun vs => arg vs 0 == 0) s

/-- bnez (R166). -/
def execBnez (a : BitVec 5) (off : BitVec 12) (s : State) : Result :=
  branch [srcP a] off (fun vs => arg vs 0 != 0) s

/-- A mask; k0 reads as all ones (R34). -/
def maskOf (t : Thread) (k : BitVec 2) : BitVec 16 :=
  match k.toNat with
  | 1 => t.k1 | 2 => t.k2 | 3 => t.k3 | _ => 0xFFFF

/-- Writes a mask; no word that writes k0 is an instruction (R36). -/
def setMask (k : BitVec 2) (v : BitVec 16) (t : Thread) : Thread :=
  match k.toNat with
  | 1 => { t with k1 := v } | 2 => { t with k2 := v } | 3 => { t with k3 := v } | _ => t

/-- An instruction that writes a mask from masks (R167). -/
def maskOp (d : BitVec 2) (f : Thread → BitVec 16) (s : State) : Result :=
  withOps [] .none s (fun _ => complete s (mapMe (fun t => setMask d (f t) t) s))

/-- kmovg (R167). -/
def execKmovg (d : BitVec 2) (a : BitVec 5) (ma : BitVec 2) (s : State) : Result :=
  withOps [src a ma] .none s (fun vs =>
    complete s (mapMe (setMask d ((arg vs 0).extractLsb' 0 16)) (commit [src a ma] s)))

/-- kmovk (R167). -/
def execKmovk (d : BitVec 5) (a : BitVec 2) (s : State) : Result :=
  computes [] d (fun _ => (maskOf (me s) a).zeroExtend 64) s

/-- kand (R167). -/
def execKand (d a b : BitVec 2) (s : State) : Result := maskOp d (fun t => maskOf t a &&& maskOf t b) s

/-- kor (R167). -/
def execKor (d a b : BitVec 2) (s : State) : Result := maskOp d (fun t => maskOf t a ||| maskOf t b) s

/-- kxor (R167). -/
def execKxor (d a b : BitVec 2) (s : State) : Result := maskOp d (fun t => maskOf t a ^^^ maskOf t b) s

/-- knot (R167). -/
def execKnot (d a : BitVec 2) (s : State) : Result := maskOp d (fun t => ~~~(maskOf t a)) s

/-- kpop (R167). -/
def execKpop (d : BitVec 5) (a : BitVec 2) (s : State) : Result :=
  computes [] d (fun _ => w64 (popcount (maskOf (me s) a).toNat 16)) s

/-- kfirst (R167). -/
def execKfirst (d : BitVec 5) (a : BitVec 2) (s : State) : Result :=
  computes [] d (fun _ => w64 (trailZeros (maskOf (me s) a).toNat 16)) s

end Sys2Proof.Machine
end

