-- ==== Sys2Proof/Machine/Access.lean ====
section
/-!
DEFINITION. Loads, stores, posted loads and cache instructions (06 R168 to R179), atomics, reductions and fences (08
R221 to R226), and the events that carry them: replies at the core, requests at the home (04, 08 R213).
-/
namespace Sys2Proof.Machine

/-- ld (R170). -/
def execLd (d a : BitVec 5) (sz : BitVec 2) (sc : BitVec 3) (mo : BitVec 2) (off : BitVec 8) (s : State) : Result :=
  loadInstr true d a sz sc mo off s

/-- ldu (R170). -/
def execLdu (d a : BitVec 5) (sz : BitVec 2) (sc : BitVec 3) (mo : BitVec 2) (off : BitVec 8) (s : State) : Result :=
  loadInstr false d a sz sc mo off s

/-- st (R171). -/
def execSt (d a : BitVec 5) (sz : BitVec 2) (sc : BitVec 3) (mo : BitVec 2) (off : BitVec 8) (s : State) : Result :=
  storeInstr d a sz sc mo off s

/-- Sends a posted read: one of another core's scratchpad on the ordered class (R88, R107, R173), any other on the adaptive
(R174). R174 itself names the adaptive class for every ldp (DESIGN CHOICE, unsafe: log entry 74). -/
def postRead (r : ReadReq) (s : State) : State :=
  let core := myCore s
  let home := homeOfVa s core (me s).ctx r.va
  if 1024 ≤ home ∧ home ≠ 1024 + core then postOrd core (homeUnit home) (.homeRead r) s else post (.homeRead r) s

/-- The request of a posted load (R174): where its translation is known at issue, a fill of its line is outstanding, and an
older read may serve it as any relaxed read (R109). ids are the queue entries it waits for (R98). -/
def sendPosted (d size : Nat) (va : Word) (pc : BitVec 48) (pa : Option Nat) (ids : List Nat) (s : State) : State :=
  let core := myCore s
  let t := me s
  let id := (coreAt s core).reqId + 1
  let r : ReadReq := { th := myThr s, core := core, va := va, pa := 0, kind := .posted d size va pc, id := id,
                       priv := privOf t, behind := ids, stamp := if t.noMerge then 0 else s.time8 }
  let s := clearNoMerge (takeReqId core s)
  match pa with
  | none => postRead { r with queued := (coreAt s core).sq.map (fun e => e.id) } s
  | some pa =>
    match (if t.noMerge ∨ ids ≠ [] then none else mergeable s (va.toNat / 32) (floorOf s t core va.toNat)) with
    | some data =>
      let s' := nextFresh s
      if Config.freeChoice 2 s.fresh = 1 then
        post (.postedArrive (myThr s) d (loadedVal true ((data.drop (va.toNat % 32)).take size))) s'
      else postRead r (startFill core id va.toNat pa s')
    | none => postRead r (startFill core id va.toNat pa s)

/-- ldp (R174): a hit in the store queue, the L1 or the local scratchpad fills d within the pass; any other read is the
home's, and its faults are deferred (R175). -/
def execLdp (d a : BitVec 5) (sz : BitVec 2) (_sc : BitVec 3) (off : BitVec 8) (s : State) : Result :=
  let ss := [srcP a]
  withOps ss (.posted d.toNat) s (fun vs =>
    acqGate s
      (let size := 2 ^ sz.toNat
       let va := arg vs 0 + sextNat (off.toNat * size) (8 + sz.toNat)
       match cmpTrap s va size .read with
       | some s => s
       | none =>
         let t := me s
         let core := myCore s
         let send (pa : Option Nat) (ids : List Nat) : State :=
           postProducer d ss s (fun s => sendPosted d.toNat size va t.pc pa ids s)
         match check s core t.ctx (privOf t) va size .read false with
         | .ok pa =>
           let e : Elem := ⟨0, va, size, pa⟩
           let queued := if t.noMerge then (coreAt s core).sq.filter (fun x => x.touches (pa / 32))
             else queuedWriters s core e
           if isSpad pa ∧ stagedCheck s (spadPlace pa).1 (spadPlace pa).2 size .read ≠ .clear then
             send none (queued.map (fun x => x.id))
           else
             match hitOf s t.noMerge e with
             | .wait => send (some pa) (queued.map (fun x => x.id))
             | .bytes bs =>
               complete s (mapMe (fun t => { t with floor := s.time8, noMerge := false })
                 (writeDst d.toNat (loadedVal true bs) (commit ss (usePlace pa size s))))
             | .miss => send (some pa) []
         | _ => send none []))

/-- The line a cache instruction names (R176). -/
def cacheAddr (base : Word) (off : BitVec 8) : Word := base + sextNat (off.toNat * 32) 13

/-- pref (R177): a hint. It is dropped where R177 says, and its access never faults, parks or waits. Its base register is a
source like any other: where it is empty or in state X, REGEMPTY or the held fault is raised first (R37, R48), which
R177 does not name (DESIGN CHOICE, unsafe: log entry 75). -/
def execPref (a : BitVec 5) (_sc : BitVec 3) (off : BitVec 8) (s : State) : Result :=
  let ss := [srcP a]
  withOps ss .none s (fun vs =>
    let va := w64 ((cacheAddr (arg vs 0) off).toNat / 32 * 32)
    let t := me s
    let core := myCore s
    let s' := match check s core t.ctx (privOf t) va 1 .read false with
      | .ok pa =>
        if !inDram pa then s
        else
          let id := (coreAt s core).reqId + 1
          let r : ReadReq := { th := myThr s, core := core, va := va, pa := pa / 32 * 32, kind := .pref, id := id,
                               priv := privOf t }
          post (.homeRead r) (startFill core id va.toNat pa (takeReqId core s))
      | .miss => post (.translationMiss (sliceOfVa va.toNat) va .nobody) s
      | .fault _ => s
    complete s (commit ss s'))

/-- cflush (R178): DRAM holds the line's current value when it completes. A scratchpad address that steps 1 and 3 pass is a
no-op. A fenced home, and a poisoned word, raise FENCED as they do for a load, though R178 lists only steps 1, 3 and 5
(DESIGN CHOICE, unsafe: log entry 76). -/
def execCflush (a : BitVec 5) (_sc : BitVec 3) (off : BitVec 8) (s : State) : Result :=
  let ss := [srcP a]
  withOps ss .none s (fun vs =>
    acqGate s
      (let va := cacheAddr (arg vs 0) off
       let spad : Bool := match region va with
         | .window _ _ => true
         | .local_ _ => true
         | _ => false
       if spad && (cmpTrap s va 1 .read).isNone && (checkCore s (me s).ctx (privOf (me s)) va 1).isNone then
         complete s (commit ss s)
       else
         match plan .read false false [(0, va, 1)] s with
         | .stop s => s
         | .go es =>
           let pa := (es.head?.map (fun e => e.pa)).getD 0
           if !inDram pa then complete s (commit ss s)
           else if lineQueued s (myCore s) (pa / 32) then waitRetry s
           else
             let r := prepFor (me s).ctx (homeOf va pa) (pa / 32) none .read s
             if r.1 = false then waitRetry r.2
             else
               let home := homePlace (pa / 32 * 32)
               let paid := if (sliceAt r.2 home).lines.get false (pa / 32) then chargeDram (me s).ctx 1 (chargeMove (me s).ctx 1 r.2) else r.2
               complete s (commit ss (cleanLine paid (pa / 32)))))

/-- cinval (R179): the core's S copy goes; a U copy is evicted by R117. -/
def execCinval (a : BitVec 5) (_sc : BitVec 3) (off : BitVec 8) (s : State) : Result :=
  let ss := [srcP a]
  withOps ss .none s (fun vs =>
    let va := cacheAddr (arg vs 0) off
    match checkCore s (me s).ctx 3 va 1 with
    | some c => raise c (memInfo .read 0) va s
    | none =>
      let core := myCore s
      let c := coreAt s core
      let key := va.toNat / 32
      let s' := match c.l1.find? (fun x => x.1 == key) with
        | some (_, .shared pa _) => dropSharer core (pa / 32) (setCore s core { c with l1 := c.l1.del key })
        | some (_, .update pa _ _) => postOrd core (homeUnit (homePlace pa)) (.uEviction core (pa / 32)) s
        | none => s
      complete s (commit ss s'))

/-! ### Fences (R105, R106, R226) -/

/-- Whether an engine command of a thread has not completed, wherever it was given (R106): a copy or array command, a
programmed transfer, a collective of its core that has not come back to IDLE. -/
def engineBusy (s : State) (t : Thread) : Bool :=
  let mine (th : Thr) : Bool := th.tid == t.tid && th.ctx == t.ctx
  s.cores.any (fun c => c.2.copy.toList.any (fun x => x.queue.any (fun q => mine q.th)) ||
    c.2.colls.toList.any (fun x => x.st != 0 && x.th.any mine)) ||
  s.cells.any (fun c => c.2.eng.toList.any (fun x => x.queue.any (fun q => mine q.th))) ||
  s.sqes.any (fun q => q.2.ops.any (fun o => match o.2 with
    | some (.transfer x) => x.result.isNone && mine x.th
    | _ => false))

/-- fence (R226): it stays in flight until its pred conditions hold, and never parks or faults. -/
def execFence (fk : BitVec 4) (sc : BitVec 3) (e : BitVec 1) (s : State) : Result :=
  withOps [] .none s (fun _ =>
    let t := me s
    let loads := fk.getLsbD 3
    let stores := fk.getLsbD 2
    let pend := t.regs.toList.zipIdx.any (fun x => x.1.st == .pending && !mgetPending s s.cur t x.2)
    let wait (s : State) : State := mapMe (fun t => { t with form := .inFlight .fence }) (waitRetry s)
    if (loads ∧ pend) ∨ (e = 1 ∧ engineBusy s t) then wait s
    else if stores ∧ !releasedAt s s.cur t then wait (sendMarkers sc s.cur s)
    else complete s (mapMe (fun t => if fk.getLsbD 1 then { t with floor := s.time8, noMerge := true } else t) s))

/-- amo.add (R222). -/
def execAmoAdd (d a b : BitVec 5) (sc : BitVec 3) (mo : BitVec 2) (s : State) : Result :=
  amoInstr .add d a b sc mo s

/-- amo.and (R222). -/
def execAmoAnd (d a b : BitVec 5) (sc : BitVec 3) (mo : BitVec 2) (s : State) : Result :=
  amoInstr .and d a b sc mo s

/-- amo.or (R222). -/
def execAmoOr (d a b : BitVec 5) (sc : BitVec 3) (mo : BitVec 2) (s : State) : Result :=
  amoInstr .or d a b sc mo s

/-- amo.xor (R222). -/
def execAmoXor (d a b : BitVec 5) (sc : BitVec 3) (mo : BitVec 2) (s : State) : Result :=
  amoInstr .xor d a b sc mo s

/-- amo.min (R222). -/
def execAmoMin (d a b : BitVec 5) (sc : BitVec 3) (mo : BitVec 2) (s : State) : Result :=
  amoInstr .min d a b sc mo s

/-- amo.max (R222). -/
def execAmoMax (d a b : BitVec 5) (sc : BitVec 3) (mo : BitVec 2) (s : State) : Result :=
  amoInstr .max d a b sc mo s

/-- amo.minu (R222). -/
def execAmoMinu (d a b : BitVec 5) (sc : BitVec 3) (mo : BitVec 2) (s : State) : Result :=
  amoInstr .minu d a b sc mo s

/-- amo.maxu (R222). -/
def execAmoMaxu (d a b : BitVec 5) (sc : BitVec 3) (mo : BitVec 2) (s : State) : Result :=
  amoInstr .maxu d a b sc mo s

/-- amo.swap (R222). -/
def execAmoSwap (d a b : BitVec 5) (sc : BitVec 3) (mo : BitVec 2) (s : State) : Result :=
  amoInstr .swap d a b sc mo s

/-- amo.fadd (R222). -/
def execAmoFadd (d a b : BitVec 5) (sc : BitVec 3) (mo : BitVec 2) (s : State) : Result :=
  amoInstr .fadd d a b sc mo s

/-- amo.fmin (R222). -/
def execAmoFmin (d a b : BitVec 5) (sc : BitVec 3) (mo : BitVec 2) (s : State) : Result :=
  amoInstr .fmin d a b sc mo s

/-- amo.fmax (R222). -/
def execAmoFmax (d a b : BitVec 5) (sc : BitVec 3) (mo : BitVec 2) (s : State) : Result :=
  amoInstr .fmax d a b sc mo s

/-- cas.w (R223). -/
def execCasW (d a b : BitVec 5) (sc : BitVec 3) (mo : BitVec 2) (s : State) : Result := casInstr 4 d a b sc mo s

/-- cas.d (R223). -/
def execCasD (d a b : BitVec 5) (sc : BitVec 3) (mo : BitVec 2) (s : State) : Result := casInstr 8 d a b sc mo s

/-- The update of one word of a U copy (R114): an untouched word takes the operand. -/
def redPart (op : AmoOp) (parts : Tab Word) (i : Nat) (x : Word) : Tab Word :=
  let x := if amoSize op = 4 then w64 (x.toNat % 2 ^ 32) else x
  match parts.find? (fun y => y.1 == i) with
  | some y => parts.ins i (amoNew op y.2 x)
  | none => parts.ins i x

/-- red (R225): a paged or linear line is updated in the core's U copy, which is asked of the home where the core does
not hold it; a scratchpad word is updated at its core, and a peer's where it lies (R448). -/
def redInstr (op : AmoOp) (a b : BitVec 5) (_sc : BitVec 3) (s : State) : Result :=
  let ss := [srcP a, srcP b]
  withOps ss .none s (fun vs =>
    acqGate s
      (let size := amoSize op
       let va := arg vs 0
       let t := me s
       let core := myCore s
       let th := myThr s
       match cmpTrap s va size .rmw with
       | some s => s
       | none =>
         match check s core t.ctx (privOf t) va size .rmw true with
         | .fault c => raise c (memInfo .rmw 0) va s
         | .miss => inFlight (.redU 0) (post (.translationMiss (sliceOfVa va.toNat) va (.red th)) s)
         | .ok pa =>
           if inPeer pa then
             complete s (enqueue { id := 0, th := th, va := va, cells := [], home := homeOf va pa,
                                   req := some (WriteReq.amo th 32 op va (arg vs 1) t.pc 0 (privOf t)) } (commit ss s))
           else if isSpad pa then
             match stageWait s va pa size .rmw 0 with
             | some s => s
             | none =>
               if spadCore pa = core then
                 let new := amoNew op (w64 (rdNat s pa size)) (arg vs 1)
                 complete s (performWrite (cellsAt pa (leBytes size new.toNat)) none none (usePlace pa size (commit ss s)))
               else
                 let req := WriteReq.amo th 32 op va (arg vs 1) t.pc 0 (privOf t)
                 complete s (enqueue { id := 0, th := th, va := va, cells := [], home := homeOf va pa, req := some req } (commit ss s))
           else
             let c := coreAt s core
             match c.l1.find? (fun x => x.1 == va.toNat / 32) with
             | some (k, .update line op' parts) =>
               if line = pa / 32 * 32 ∧ op' = op then
                 let l1 := c.l1.ins k (.update line op (redPart op parts (pa % 32 / size) (arg vs 1)))
                 complete s (commit ss (setCore (setDirty va.toNat s) core { c with l1 := l1 }))
               else ask s core th pa va op
             | _ => ask s core th pa va op))
where
  ask (s : State) (core : Nat) (th : Thr) (pa : Nat) (va : Word) (op : AmoOp) : State :=
    let c := coreAt s core
    inFlight (.redU (pa / 32)) (postOrd core (homeUnit (homeOf va pa)) (.redURequest th (pa / 32) op)
      (setCore s core { c with redVa := c.redVa.put 0 s.cur (va.toNat / 32) }))

/-- red.add (R225). -/
def execRedAdd (a b : BitVec 5) (sc : BitVec 3) (s : State) : Result := redInstr .add a b sc s

/-- red.and (R225). -/
def execRedAnd (a b : BitVec 5) (sc : BitVec 3) (s : State) : Result := redInstr .and a b sc s

/-- red.or (R225). -/
def execRedOr (a b : BitVec 5) (sc : BitVec 3) (s : State) : Result := redInstr .or a b sc s

/-- red.xor (R225). -/
def execRedXor (a b : BitVec 5) (sc : BitVec 3) (s : State) : Result := redInstr .xor a b sc s

/-- red.min (R225). -/
def execRedMin (a b : BitVec 5) (sc : BitVec 3) (s : State) : Result := redInstr .min a b sc s

/-- red.max (R225). -/
def execRedMax (a b : BitVec 5) (sc : BitVec 3) (s : State) : Result := redInstr .max a b sc s

/-- red.minu (R225). -/
def execRedMinu (a b : BitVec 5) (sc : BitVec 3) (s : State) : Result := redInstr .minu a b sc s

/-- red.maxu (R225). -/
def execRedMaxu (a b : BitVec 5) (sc : BitVec 3) (s : State) : Result := redInstr .maxu a b sc s

/-- red.fadd (R225). -/
def execRedFadd (a b : BitVec 5) (sc : BitVec 3) (s : State) : Result := redInstr .fadd a b sc s

/-- red.fmin (R225). -/
def execRedFmin (a b : BitVec 5) (sc : BitVec 3) (s : State) : Result := redInstr .fmin a b sc s

/-- red.fmax (R225). -/
def execRedFmax (a b : BitVec 5) (sc : BitVec 3) (s : State) : Result := redInstr .fmax a b sc s

end Sys2Proof.Machine
end

