-- ==== Sys2Proof/Machine/HomeEvents.lean ====
section
/-!
DEFINITION. The events of memory (04, 06, 08): posted values, replies at a core, requests and acknowledgements at the
homes. Each event's row finds what arrives in State.now.
-/
namespace Sys2Proof.Machine

/-- The state with the delivered event taken. -/
def taken (s : State) : State := { s with now := none }

/-- Acts for the thread a message names, if its slot still holds it. -/
def withThr (th : Thr) (s : State) (f : State → State) : State :=
  if holds s th then f { s with cur := th.slot } else s

/-! ### Posted values (R37, R39, R143) -/

/-- A posted value or fault of a trapped or stopped thread goes into its slot record (R420).
DEDUCED, unsafe: log entry 39. -/
def fillSaved (p reg : Nat) (g : GReg) (s : State) : State :=
  let base := spadPa (p / 16) (saveTail + 512 * (p % 16))
  let states := rd64 s (base + 0xE0)
  let put (off : Nat) (v : Word) : List (Nat × Byte) := cellsAt (base + off) (leBytes 8 v.toNat)
  let free := ((List.range 4).find? (fun j => fld (rd64 s (base + 0x190 + 24 * j)) 8 8 == 0)).getD 3
  let entry : List (Nat × Byte) :=
    match g.held with
    | some f => put (0x190 + 24 * free) (w64 (reg + f.cause.code * 2 ^ 8 + f.pc.toNat * 2 ^ 16)) ++
        put (0x198 + 24 * free) f.info ++ put (0x1A0 + 24 * free) f.addr
    | none => []
  devWrite (put (8 * reg) g.val ++ put 0xE0 (setFld states (2 * reg) 2 (regStateCode g.st)) ++ entry) s

/-- A register in state P takes its posted value or fault; the core wakes the thread where it is parked on the register
or on a place (R37, R39, R229). A register that is not pending discards it. -/
def fillReg (th : Thr) (reg : Nat) (p : Posted) (s : State) : State :=
  match threadAt s th.slot with
  | none => s
  | some t =>
    if (regOf t reg).st ≠ .pending then s
    else
      let g : GReg := match p with
        | .value v => { st := .full, val := v }
        | .fault f => { (regOf t reg) with st := .failed, held := some f }
      let s := setThread s th.slot (setReg reg g { t with floor := s.time8 })
      match t.form with
      | .trapped => fillSaved th.slot reg g s
      | .stopped k _ => filledWake th reg p k (fillSaved th.slot reg g s)
      | .parked k => filledWake th reg p (some k) s
      | _ => s
where
  /-- The wake of a thread that is parked, or was stopped where it parked, for what has arrived. -/
  filledWake (th : Thr) (reg : Nat) (p : Posted) (k : Option Park) (s : State) : State :=
    match k with
    | none => s
    | some k =>
      match k.why, p with
      | .reg r, _ => if r = reg then wakeParked th k (hwMsg 4 reg) s else s
      | .place, .value _ => wakeParked th k (hwMsg 4 0xFF) s
      | .limit 3, _ => wakeParked th k (hwMsg 0x0C 3) s
      | _, _ => s

/-- A posted value or fault reaches the core it was sent to: its forwarding entry, the register, or nobody (R143,
R148). -/
def deliverPosted (th : Thr) (reg : Nat) (p : Posted) (s : State) : State :=
  let core := th.slot / 16
  let c := coreAt s core
  match c.fwd.find? (fun f => f.tid == th.tid && f.ctx == th.ctx && f.reg == reg) with
  | some f =>
    match f.target with
    | some slot =>
      let s := setCore s core { c with fwd := c.fwd.filter (fun x => x != f) }
      postOrd core (slot / 16) (.forwardedValue core ⟨slot, th.ctx, th.tid⟩ reg p) s
    | none => setCore s core { c with fwd := c.fwd.map (fun x => if x = f then { x with held := some p } else x) }
  | none => if holds s th then fillReg th reg p s else s

/-- The register, order and address of a queued request that is more than a store: an atomic's, or register 33 for feclr
and feset. -/
def orderOf (w : WriteReq) : Option (Nat × BitVec 2 × Word) :=
  match w with
  | .store _ _ => none
  | .amo _ r _ va _ _ mo _ => some (r, mo, va)
  | .cas _ r _ va _ _ _ mo _ => some (r, mo, va)
  | .fe _ _ va _ _ _ mo => some (33, mo, va)

/-- Whether an order acquires. -/
def acquires (mo : BitVec 2) : Bool := mo == 1 || mo == 3

/-- The reply of a thread's acquire atomic, which the home holds while the line has invalidations outstanding (R104). -/
def replyHeld (s : State) (th : Thr) (reg : Nat) : Bool :=
  (coreAt s (th.slot / 16)).sq.any (fun e => e.sent && e.th == th &&
    (match e.req.bind orderOf with
     | some (r, mo, va) => r == reg && acquires mo && (match devPa s th.ctx va.toNat with
       | some pa => (dirAt s (pa / 32)).invs != []
       | none => false)
     | none => false))

/-- POSTED_ARRIVE (R37). -/
def execPostedArrive (s : State) : Result :=
  match s.now with
  | some (.postedArrive th reg v) =>
    .next (if replyHeld s th reg then holdBack (.postedArrive th reg v) (taken s)
      else deliverPosted th reg (.value v) (taken s))
  | _ => .fault (.noEvent "POSTED_ARRIVE")

/-- POSTED_FAIL (R37, R175). -/
def execPostedFail (s : State) : Result :=
  match s.now with
  | some (.postedFail th reg f) => .next (deliverPosted th reg (.fault f) (taken s))
  | _ => .fault (.noEvent "POSTED_FAIL")

/-- FORWARDED_VALUE (R143): the value reaches the new slot, where the register goes to F or X. -/
def execForwardedValue (s : State) : Result :=
  match s.now with
  | some (.forwardedValue _ th reg p) => .next (deliverPosted th reg p (taken s))
  | _ => .fault (.noEvent "FORWARDED_VALUE")

/-! ### The shared units of a core (R78, R160, R186) -/

/-- DIVIDER_DONE (R160): the use at the head ends, its thread's result is written, the next use begins. -/
def execDividerDone (s : State) : Result :=
  match s.now with
  | some (.dividerDone core) =>
    .next (
      let s := taken s
      let c := coreAt s core
      match c.divq with
      | [] => s
      | th :: rest =>
        let s := setCore s core { c with divq := rest }
        let s := if rest = [] then s else after 240 (.dividerDone core) s
        withThr th s (fun s =>
          match (me s).form with
          | .inFlight (.divider d v takes undo) =>
            let s := unreserve d s
            finish d undo s (writeDst d v (takeRegs takes s))
          | _ => s))
  | _ => .fault (.noEvent "DIVIDER_DONE")

/-- A thread's use of the normaliser or the iterative unit ends. -/
def unitDone (th : Thr) (s : State) : State :=
  withThr th s (fun s => if (me s).form = .inFlight .unit then advance s else s)

/-- NORMALISER_DONE (R78). -/
def execNormaliserDone (s : State) : Result :=
  match s.now with
  | some (.normaliserDone core) =>
    .next (
      let s := taken s
      let c := coreAt s core
      match c.normq with
      | [] => s
      | th :: rest =>
        let s := setCore s core { c with normq := rest }
        let s := match rest with
          | [] => s
          | nx :: _ => after (normaliserTime s nx) (.normaliserDone core) s
        if th ∈ rest ∨ th ∈ c.iterq then s else unitDone th s)
  | _ => .fault (.noEvent "NORMALISER_DONE")

/-- ITERATIVE_UNIT_DONE (R186). -/
def execIterativeUnitDone (s : State) : Result :=
  match s.now with
  | some (.iterativeUnitDone core) =>
    .next (
      let s := taken s
      let c := coreAt s core
      match c.iterq with
      | [] => s
      | th :: rest =>
        let s := setCore s core { c with iterq := rest }
        let s := if rest = [] then s else after 120 (.iterativeUnitDone core) s
        if th ∈ rest ∨ th ∈ c.normq then s else unitDone th s)
  | _ => .fault (.noEvent "ITERATIVE_UNIT_DONE")

/-! ### Replies at a core (R95, R98, R100, R171) -/

/-- Lines of an L1 data cache (R14). -/
def l1Lines : Nat := 1024

/-- A copy of a line enters an L1. Where the cache is full one line goes, a free choice (DESIGN CHOICE, unsafe: log entry 77); a U
copy among them is evicted (R117), and the new line is then not kept. -/
def putL1 (core key : Nat) (line : L1Line) (s : State) : State :=
  let c := coreAt s core
  if c.l1.any (fun x => x.1 == key) || decide (c.l1.length < l1Lines) then setCore s core { c with l1 := c.l1.ins key line }
  else
    let s := nextFresh s
    match c.l1[Config.freeChoice l1Lines (s.fresh - 1) % l1Lines]? with
    | some (k, .shared pa _) => dropSharer core (pa / 32) (setCore s core { c with l1 := (c.l1.del k).ins key line })
    | some (_, .update pa _ _) =>
      let s := postOrd core (homeUnit (homePlace pa)) (.uEviction core (pa / 32)) s
      (match line with
       | .shared pa _ => dropSharer core (pa / 32) s
       | _ => s)
    | none => s

/-- A line arrives: its fill ends, and installs a shared copy unless it has been marked (R95), with the bytes of its core's
queued stores over it. A U copy stays. Other fills of the line may hold older data, and will install none. -/
def installLine (core id : Nat) (data : List Byte) (s : State) : State :=
  let c := coreAt s core
  match c.fills.find? (fun f => f.id == id) with
  | none => s
  | some f =>
    let c := { c with fills := c.fills.erase f }
    let u := c.l1.any (fun x => match x with | (k, .update _ _ _) => k == f.va | _ => false)
    if f.marked || u then dropSharer core (f.pa / 32) (setCore s core c)
    else putL1 core f.va (.shared f.pa (c.sq.foldl (fun d e => overlay f.pa e.cells d) data))
      (setCore s core (markFills (fun x => x.pa == f.pa) c))

/-- The elements of a load that a line serves receive their bytes; with the last the load ends (R172, R200). The reply of
a read older than the load serves nothing of it (R177). -/
def serveLoad (va : Nat) (id : Nat) (data : List Byte) (s : State) : State :=
  match (me s).form with
  | .inFlight (.load l) =>
    if id < l.since then s
    else
      let here := l.missing.filter (fun e => e.va.toNat / 32 == va)
      let rest := l.missing.filter (fun e => e.va.toNat / 32 != va)
      let l := { l with missing := rest, got := l.got ++ here.map (fun e => (e, (data.drop (e.va.toNat % 32)).take e.size)) }
      if rest = [] then endLoad l s else inFlight (.load l) s
  | _ => s

/-- The elements of a load that a line would serve are refused at its home (R169, R199). -/
def refuseLoad (va : Nat) (id : Nat) (c : Cause) (base : Option Word) (s : State) : State :=
  match (me s).form with
  | .inFlight (.load l) =>
    if id < l.since then s
    else
      let here := l.missing.filter (fun e => e.va.toNat / 32 == va)
      let rest := l.missing.filter (fun e => e.va.toNat / 32 != va)
      let l := { l with missing := rest, bad := l.bad ++ here.map (fun e => (e.idx, c, base.getD e.va)) }
      if rest = [] then endLoad l s else inFlight (.load l) s
  | _ => s

/-- The home's answer to an access to a word (R216 to R219): it ends, with the value where it has a destination. -/
def endFe (data : List Byte) (s : State) : State :=
  match (me s).form with
  | .inFlight (.fe (.fe _ op _ _ size _ mo) d _ _ undo) =>
    let v := leNat data
    let s := unreserve d s
    let reads := op == .ldsync || op == .feprobe || op == .ldmon
    let s' := mapMe (fun t => { t with floor := if acquires mo || reads then s.time8 else t.floor }) s
    finish d undo s (match op with
      | .ldsync => writeDst d (sextNat v (8 * size)) s'
      | .feprobe => writeDst d (w64 v) s'
      | .ldmon => writeDst d (w64 v) s'
      | _ => s')
  | _ => s

/-- LOAD_REPLY (R98): the line of a read request, or, with number 0, the answer to an access to a word, which the home holds
while an acquire's line has invalidations outstanding (R104). -/
def execLoadReply (s : State) : Result :=
  match s.now with
  | some (.loadReply th va data id stamp) =>
    .next (
      let s := taken s
      if id = 0 then
        withThr th s (fun s =>
          match (me s).form with
          | .inFlight (.fe (.fe _ _ _ pa _ _ mo) _ _ _ _) =>
            if acquires mo && (dirAt s (pa / 32)).invs != [] then holdBack (.loadReply th va data id stamp) s
            else endFe data s
          | _ => s)
      else withThr th (installLine (th.slot / 16) id data s) (serveLoad (va.toNat / 32) id data))
  | _ => .fault (.noEvent "LOAD_REPLY")

/-- STORE_CHECK_REPLY (R171): the checked store enters the store queue; a sequentially consistent one waits on. An element
of its own core's scratchpad whose range is staged again waits for it (R259). -/
def execStoreCheckReply (s : State) : Result :=
  match s.now with
  | some (.storeCheckReply th) =>
    .next (withThr th (taken s) (fun s =>
      match (me s).form with
      | .inFlight (.storeCheck els seqSt undo) =>
        let staged := els.findSome? (fun x =>
          if isSpad x.1.pa && spadCore x.1.pa == myCore s then
            match stagedCheck s (spadPlace x.1.pa).1 (spadPlace x.1.pa).2 x.2.length .write with
            | .clear => none
            | w => some (x.1, w)
          else none)
        match staged with
        | some (_, .wait i) => holdBack (.storeCheckReply th) (joinStage (myCore s) i none s)
        | some (e, .prot base) => raise .prot (memInfo .write e.idx) (if base = 0 then e.va else base) (undoPops undo s)
        | _ =>
          if atTop s then raise .misfetch 0 (w64 (2 ^ 48)) (undoPops undo s)
          else
          let id := (coreAt s (myCore s)).sqId
          let s := endPops undo (queueStores els s)
          if seqSt then
            inFlight (.storeDone id (homeOf ((els.head?.map (fun x => x.1.va)).getD 0) ((els.head?.map (fun x => x.1.pa)).getD 0))) s
          else advance s
      | _ => s))
  | _ => .fault (.noEvent "STORE_CHECK_REPLY")

/-- The tid at the front of a context's free list (R123). -/
def firstTid (s : State) (ctx : Nat) : Option Nat :=
  let c := ctxAt s ctx
  match c.freeTids with
  | n :: _ => some n
  | [] => if c.tidNext < thrMax s ctx then some c.tidNext else none

/-- The vault header's copy of the free-list head (R399). -/
def putTidHead (ctx : Nat) (s : State) : State :=
  vput64 ctx (ctxWord s ctx 0x10).toNat (match firstTid s ctx with | some n => w64 n | none => w64 (2 ^ 20)) s

/-- Takes the front tid off the free list. -/
def takeTid (ctx : Nat) (s : State) : State :=
  let c := ctxAt s ctx
  putTidHead ctx (setCtx s ctx (match c.freeTids with
    | _ :: rest => { c with freeTids := rest }
    | [] => { c with tidNext := c.tidNext + 1 }))

/-- Offers the vacant slots of a chiplet to waiting work (R136, R320). -/
def offerWork (ctx chip : Nat) (s : State) : State := post (.poolPickup ctx chip) s

/-- The same thread, whatever slot the names give (R130). -/
def sameThr (a b : Thr) : Bool := a.tid == b.tid && a.ctx == b.ctx

/-- Whether a waiter of a translation is a posted load of a thread. -/
def ldpOf (th : Thr) : Waiter → Bool
  | .ldp r _ => sameThr r.th th && (match r.kind with | .posted _ _ _ _ => true | _ => false)
  | _ => false

/-- Whether an event brings, or will bring, a posted value or fault to a thread (R148). -/
def postsTo (th : Thr) : Event → Bool
  | .postedArrive t _ _ => sameThr t th
  | .postedFail t _ _ => sameThr t th
  | .forwardedValue _ t _ _ => sameThr t th
  | .homeRead r => ldpOf th (.ldp r 0)
  | .translationMiss _ _ w => ldpOf th w
  | .retryWakeTimer _ _ w => ldpOf th w
  | .remoteAccess _ _ w => ldpOf th w
  | _ => false

/-- What arrives later for a thread that has ended is discarded, and its forwarding entries are freed (R148).
DEDUCED, unsafe: log entry 46. -/
def purgePosted (th : Thr) (s : State) : State :=
  let s := s.cores.foldl (fun s x =>
    let c := coreAt s x.1
    let left := c.fwd.filter (fun f => !(f.tid == th.tid && f.ctx == th.ctx))
    if left = c.fwd then s else setCore s x.1 { c with fwd := left }) s
  let s := s.slices.foldl (fun s x =>
    let sl := sliceAt s x.1
    if sl.coal.any (fun c => c.waiters.any (ldpOf th)) then
      setSlice s x.1 { sl with coal := sl.coal.map (fun c => { c with waiters := c.waiters.filter (fun w => !ldpOf th w) }) }
    else s) s
  { s with agenda := s.agenda.filter (fun f => !postsTo th f.ev), held := s.held.filter (fun f => !postsTo th f.ev),
           timers := s.timers.filter (fun f => !postsTo th f.2) }

/-- Returns a tid to the free list (R123); what its thread's tl.arms have seen is forgotten (R348), and what its
thread's last atomics have answered is discarded (R148). -/
def giveTid (ctx tid core : Nat) (s : State) : State :=
  let s := purgePosted ⟨0, ctx, tid⟩ s
  let c := ctxAt s ctx
  offerWork ctx (chipOfCore core) (putTidHead ctx (setCtx s ctx { c with
    freeTids := tid :: c.freeTids, lastArm := c.lastArm.filter (fun x => x.1 / 32768 != tid) }))

/-- A tid whose thread ended returns to the free list once its last store is acknowledged (R148). -/
def freeEnded (ctx tid core : Nat) (s : State) : State :=
  let c := ctxAt s ctx
  if (tid, core) ∈ c.ending ∧ sqOf s core ⟨0, ctx, tid⟩ = [] then
    giveTid ctx tid core (setCtx s ctx { c with ending := c.ending.erase (tid, core) })
  else s

/-- Wakes a thread parked until its stores are acknowledged and its posted producers done (KIND 0x0C reason 3). -/
def wakeLimit3 (th : Thr) (s : State) : State :=
  match threadAt s th.slot with
  | some t => if releasedAt s th.slot t then wakeParked th ⟨true, .limit 3, false⟩ (hwMsg 0x0C 3) s else s
  | none => s

/-- STORE_ACK (R100): the entry leaves, the filter takes the time, the thread's next store is sent. -/
def execStoreAck (s : State) : Result :=
  match s.now with
  | some (.storeAck core id home) =>
    .next (
      let s := taken s
      let c := coreAt s core
      match c.sq.find? (fun e => e.id == id) with
      | none => s
      | some e =>
        let acq : Bool := (e.req.bind orderOf).any (fun x => acquires x.2.1)
        let reg : Nat := ((e.req.bind orderOf).map (fun x => x.1)).getD 32
        if acq ∧ replyHeld s e.th reg then holdBack (.storeAck core id home) s
        else
          let idx := (bits e.va.toNat 5 6) ^^^ (bits e.va.toNat 11 6)
          let c := markFills (fun f => e.cells.any (fun z => z.1 / 32 == f.pa / 32)) c
          let s := setCore s core { c with sq := c.sq.filter (fun x => x.id != id), filter := c.filter.put 0 idx s.time8 }
          let s := if holds s e.th then mapThread e.th.slot (fun t =>
              { t with homes := if home ∈ t.homes ∨ 1024 ≤ home then t.homes else t.homes ++ [home],
                       acqOut := if acq then t.acqOut - 1 else t.acqOut,
                       floor := if acq then s.time8 else t.floor }) s
            else s
          let s := withThr e.th s (fun s =>
            match (me s).form with
            | .inFlight (.storeDone i h) =>
              if i = id then
                (if 1024 ≤ h then advance s
                 else postOrd core (homeUnit h) (.fenceMarker e.th h 4) (mapMe (fun t => { t with markers := t.markers ++ [h] }) s))
              else s
            | .parked ⟨_, .limit 3, _⟩ => sendMarkers 3 s.cur s
            | _ => s)
          drain core (wakeLimit3 e.th (freeEnded e.th.ctx e.th.tid core s)))
  | _ => .fault (.noEvent "STORE_ACK")

/-! ### Requests at a home (R95, R104, R213) -/

/-- A read its home refuses: a home fenced by now (R169 step 7), a staged range (R259, with the tile's base). -/
def failRead (r : ReadReq) (c : Cause) (base : Option Word) (s : State) : State :=
  let core := coreAt s r.core
  let s := setCore s r.core { core with fills := core.fills.filter (fun f => f.id != r.id) }
  match r.kind with
  | .posted reg _ addr pc => post (.postedFail r.th reg ⟨c, memInfo .read 0, base.getD addr, pc⟩) s
  | .pref => s
  | _ => withThr r.th s (refuseLoad (r.va.toNat / 32) r.id c base)

/-- Sharers that hold the line, or will when their fills arrive, under another virtual address than the read's (R93). -/
def aliasSharers (s : State) (line va : Nat) : List Nat :=
  if (dirAt s line).va = va then [] else (dirAt s line).sharers.filter (fun c => !isPeerUnit c)

/-- A home answers a read. A read of a line of DRAM ends a fill at its core, which is outstanding from now at the latest; a
posted one gives its value too (R95, R174). -/
def answerRead (r : ReadReq) (s : State) : State :=
  let fills := (coreAt s r.core).fills.any (fun f => f.id == r.id)
  let s := if fills then s else startFill r.core r.id r.va.toNat r.pa s
  let line := post (.loadReply r.th (w64 (r.va.toNat / 32 * 32)) (rdBytes s (r.pa / 32 * 32) 32) r.id r.stamp)
  match r.kind with
  | .posted reg size _ _ =>
    let s := post (.postedArrive r.th reg (loadedVal true (rdBytes s r.pa size))) s
    if inDram r.pa then line s else s
  | _ => line s

/-- A read of a line of DRAM at its home (R213): it waits in its place while the line must be recalled. A prefetch is
dropped where the tile is staged or the line is in U, and demotes nothing (R177). -/
def serveDram (r : ReadReq) (s : State) : State :=
  let home := homePlace r.pa
  let line := r.pa / 32
  let again : State → State := holdIn (lineChan s home line) (.homeRead r)
  if r.kind = .pref ∧ ((tileAt s home line).any (fun e => tileCopies s e != []) ∨ (dirAt s line).uop.isSome) then
    let c := coreAt s r.core
    setCore s r.core { c with fills := c.fills.filter (fun f => f.id != r.id) }
  else
    let p := filledFor r.th.ctx line s (if r.kind = .pref then prepHost line .read s else prepLine home line none .read s)
    if p.1 = false then again p.2
    else
      let s := p.2
      let va := r.va.toNat / 32
      let d := dirAt s line
      if aliasSharers s line va ≠ [] then again (invalidateLine home line none none s)
      else if d.invs ≠ [] ∧ (r.kind = .home ∨ d.va ≠ va) then again s
      else answerRead r (if r.core ∈ d.sharers then s else setDir s line { d with sharers := d.sharers ++ [r.core], va := va })

/-- A read through a remote leaf leaves for the peer once the tile its line lies in is ready for it (R254, R448). -/
def serveFromPeer (r : ReadReq) (s : State) : State :=
  let home := homeOf r.va r.pa
  let p := if r.kind = .pref then (true, s) else prepLine home (r.pa / 32) none .read s
  if p.1 = false then holdIn (lineChan s home (r.pa / 32)) (.homeRead r) p.2
  else post (.remoteAccess (sliceOfVa r.va.toNat) r.va (.ldp r 32)) p.2

/-- A read whose place is known, served at its home (R213). -/
def serveRead (r : ReadReq) (s : State) : State :=
  let home := homeOf r.va r.pa
  if homeFenced s home then failRead r .fenced none s
  else if debugBase ≤ r.pa then answerRead r s
  else if peerBase ≤ r.pa then inOrder (lineChan s home (r.pa / 32)) (.homeRead r) s (serveFromPeer r)
  else if isSpad r.pa then
    if routeFenced s r.core (homeUnit home) then failRead r .fenced none s
    else
      let (c, off) := spadPlace r.pa
      let size := match r.kind with
        | .posted _ n _ _ => n
        | _ => 32
      match stagedCheck s c off size .read with
      | .wait i => holdBack (.homeRead r) (joinStage c i none s)
      | .prot base => failRead r .prot (if base = 0 then none else some base) s
      | .clear => answerRead r (usePlace r.pa size s)
  else inOrder (lineChan s home (r.pa / 32)) (.homeRead r) s (serveDram r)

/-- A posted read at its home: its checks are made here, at the level its thread issued it at, and its faults are deferred
(R174, R175). -/
def servePosted (r : ReadReq) (size : Nat) (s : State) : State :=
  match check s r.core r.th.ctx r.priv r.va size .read false with
  | .fault c => failRead r c none s
  | .miss => post (.translationMiss (sliceOfVa r.va.toNat) r.va (.ldp r size)) s
  | .ok pa =>
    let e : Elem := ⟨0, r.va, size, pa⟩
    let ws := (queuedWriters s r.core e).filter (fun x => x.id ∈ r.queued)
    match ws.getLast? with
    | none => serveRead { r with pa := pa } s
    | some x =>
      match bytesOf x e, r.kind with
      | some bs, .posted reg _ _ _ => post (.postedArrive r.th reg (loadedVal true bs)) s
      | _, _ => post (.homeRead { r with behind := ws.map (fun x => x.id), queued := [] }) s

/-- HOME_READ (R213). A posted load that a queued store covers in part leaves its core when those stores have been
acknowledged (R98). -/
def execHomeRead (s : State) : Result :=
  match s.now with
  | some (.homeRead r) =>
    .next (
      let s := taken s
      if (coreAt s r.core).sq.any (fun e => e.id ∈ r.behind) then holdBack (.homeRead r) s
      else
        match r.kind with
        | .posted _ size _ _ => servePosted r size s
        | _ => serveRead r s)
  | _ => .fault (.noEvent "HOME_READ")

/-- The acknowledgement of the store-queue entry that holds a request. -/
def ackRequest (w : WriteReq) (home : Nat) (s : State) : State :=
  match w with
  | .store core id => postOrd (homeUnit home) core (.storeAck core id home) s
  | .amo th _ _ _ _ _ _ _ => ack th
  | .cas th _ _ _ _ _ _ _ _ => ack th
  | .fe th _ _ _ _ _ _ => ack th
where
  ack (th : Thr) : State :=
    let core := th.slot / 16
    match (coreAt s core).sq.find? (fun e => e.req == some w && e.sent) with
    | some e => postOrd (homeUnit home) core (.storeAck core e.id home) s
    | none => s

/-- Whether a thread takes a fault of an earlier instruction at once: not while its own instruction has had effects that its
completion is still to report, and not where it does not run. -/
def takesFault : Form → Bool
  | .ready => true
  | .parked _ => true
  | .inFlight w =>
    match w with
    | .unit => false
    | .reply _ _ _ => false
    | .members _ _ _ => false
    | .tile _ _ => false
    | .fe _ _ _ _ _ => false
    | .migrate => false
    | _ => true
  | _ => false

/-- A fault that the executing thread takes before its next instruction. -/
def oweFault (c : Cause) (info addr : Word) (s : State) : State :=
  mapMe (fun t => { t with owed := t.owed.or (some { cause := c, info := info, addr := addr, restart := t.pc, word := 0 }) }) s

/-- A fault of a write that its thread has gone on from reaches the executing thread: it is raised at once, or, where the thread
cannot take it, before its next instruction (R121, R419; DEDUCED, unsafe: log entry 22). -/
def lateFault (c : Cause) (info addr : Word) (s : State) : State :=
  if takesFault (me s).form then raise c info addr (unparkQueues (abandon s))
  else oweFault c info addr s

/-- The fault of a write at its home: its thread's later queued stores wait for the handler (R121). -/
def failWrite (th : Thr) (id : Nat) (c : Cause) (k : Acc) (addr : Word) (s : State) : State :=
  withThr th s (fun s =>
    let x := coreAt s (myCore s)
    lateFault c (memInfo k 0) addr (setCore s (myCore s) { x with
      sq := x.sq.map (fun e => if e.th.tid = th.tid ∧ e.th.ctx = th.ctx ∧ e.id ≠ id then { e with held := true } else e) }))

/-- A queued write that comes back to its core refused: it is acknowledged without effect. -/
def refuseStore (core id : Nat) (c : Cause) (s : State) : State :=
  match (coreAt s core).sq.find? (fun e => e.id == id) with
  | none => s
  | some e => failWrite e.th id c .write e.va (ackRequest (e.req.getD (.store core id)) e.home s)

/-- A queued write that comes back to its core as FENCED (R459). -/
def failStore (core id : Nat) (s : State) : State := refuseStore core id .fenced s

/-- The fault of an atomic: deferred to its register, or, of a red, its thread's (R222, R225). -/
def failAtomic (th : Thr) (reg : Nat) (c : Cause) (addr : Word) (pc : BitVec 48) (s : State) : State :=
  if reg < 28 then post (.postedFail th reg ⟨c, memInfo .rmw 0, addr, pc⟩) s
  else if c = .prot then failWrite th 0 c .rmw addr s
  else s

/-- The home half of an amo or cas (R222 to R224): checks, waits, then one home action. Every queued store of the core to
the line that entered the queue before it is awaited (R98). always says that the line is written whatever it holds: a cas that
fails writes nothing, so the tag does not refuse it (R253). -/
def serveAtomic (w : WriteReq) (th : Thr) (reg size : Nat) (va : Word) (pc : BitVec 48) (priv : Nat) (always : Bool)
    (act : Word → Option Word) (result : Word → Word) (s : State) : State :=
  let core := th.slot / 16
  match check s core th.ctx priv va size .rmw always with
  | .fault c => failAtomic th reg c va pc (ackRequest w (homeOfVa s core th.ctx va) s)
  | .miss => post (.translationMiss (sliceOfVa va.toNat) va (.write w)) s
  | .ok pa =>
    let home := homeOf va pa
    let chan := lineChan s home (pa / 32)
    let mine := (((coreAt s core).sq.find? (fun e => e.req == some w && e.sent)).map (fun e => e.id)).getD 0
    let earlier := (coreAt s core).sq.any (fun e => decide (e.id < mine) && e.touches (pa / 32))
    let staged := if isSpad pa then stagedCheck s (spadPlace pa).1 (spadPlace pa).2 size .rmw else .clear
    match staged with
    | .wait i => holdBack (.homeWrite w) (joinStage (spadPlace pa).1 i none s)
    | .prot base => failAtomic th reg .prot (if base = 0 then va else base) pc (ackRequest w home s)
    | .clear =>
      if earlier then holdBack (.homeWrite w) s
      else inOrder chan (.homeWrite w) s (fun s =>
        let p := prepFor th.ctx home (pa / 32) none .write s
        if p.1 = false then holdIn chan (.homeWrite w) p.2
        else
          let s := usePlace pa size p.2
          let old := w64 (rdNat s pa size)
          let log (s : State) : State := replayLog (if home < 1024 then home else (home - 1024) / 4) th.slot (pa / 8) s
          let done (s : State) : State :=
            let s := if reg < 28 then post (.postedArrive th reg (result old)) s else s
            ackRequest w home (nextFresh s)
          -- The peer performs it: the word it finds there is free.
          let away (s : State) : State := postOrd (sliceUnit (sliceOfVa va.toNat)) (peerUnit ((pa - peerBase) / 2 ^ 40))
            (.remoteAccess (sliceOfVa va.toNat) va (.peer w pa home (result old))) (log (nextFresh s))
          match act old with
          | some new =>
            if tagRefuses s home pa then failAtomic th reg .tagviol va pc (ackRequest w home s)
            else if inPeer pa then away (stalePeer (pa / 32) s)
            else done (performWrite (cellsAt pa (leBytes size new.toNat)) none (some th) (setDirty va.toNat (log s)))
          | none => if inPeer pa then away s else done (log s))

/-! ### Update-only copies and invalidations (R95, R101, R114 to R117) -/

/-- COLLECT_RECALL_REPLY (R116): with the last answer the collect is performed. -/
def execCollectRecallReply (s : State) : Result :=
  match s.now with
  | some (.collectRecallReply core line) =>
    .next (
      let s := takePartial core line (taken s)
      let d := dirAt s line
      if d.ucores = [] ∧ d.uop.isSome then
        collectLine line (replayLog (homePlace (line * 32)) 0xFFFF (line * 4) s)
      else s)
  | _ => .fault (.noEvent "COLLECT_RECALL_REPLY")

/-- U_EVICTION (R117). -/
def execUEviction (s : State) : Result :=
  match s.now with
  | some (.uEviction core line) => .next (takePartial core line (taken s))
  | _ => .fault (.noEvent "U_EVICTION")

/-- RED_U_REQUEST (R114): granted when no other L1 holds the line in S; the red is issued again. -/
def execRedURequest (s : State) : Result :=
  match s.now with
  | some (.redURequest th line op) =>
    .next (
      let s := taken s
      let core := th.slot / 16
      let home := homePlace (line * 32)
      let chan := lineChan s home line
      let again : State → State := holdIn chan (.redURequest th line op)
      if routeFenced s core (homeUnit home) then
        withThr th s (fun s =>
          if (me s).form = .inFlight (.redU line) then raise .fenced (memInfo .rmw 0) (w64 ((coreAt s core).redVa.get 0 th.slot * 32)) s else s)
      else inOrder chan (.redURequest th line op) s (fun s =>
        let key := (coreAt s core).redVa.get 0 th.slot
        let p := prepFor th.ctx home line (if (dirAt s line).va = key ∨ (dirAt s line).ucores = [] then some op else none) .write s
        if p.1 = false then again p.2
        else
          let s := p.2
          let d := dirAt s line
          if d.sharers ≠ [] then again (invalidateLine home line none none s)
          else if d.invs ≠ [] then again s
          else withThr th s (fun s =>
            if (me s).form = .inFlight (.redU line) then
              let s := putL1 core key (.update (line * 32) op []) s
              let d := dirAt s line
              if (uCopy s core line).isSome then
                waitRetry (setDir s line { d with va := key, uop := some op, ucores := if core ∈ d.ucores then d.ucores else d.ucores ++ [core] })
              else waitRetry s
            else s)))
  | _ => .fault (.noEvent "RED_U_REQUEST")

/-- A core drops its shared copy of a line, and marks its fills of it (R95). -/
def dropShared (core line : Nat) (s : State) : State :=
  let c := coreAt s core
  setCore s core { c with
    l1 := c.l1.filter (fun x => match x with | (_, .shared pa _) => pa != line * 32 | _ => true),
    fills := c.fills.map (fun f => if f.pa = line * 32 then { f with marked := true } else f) }

/-- A unit's invalidation of a line is no longer outstanding (R101). -/
def closeInv (unit line : Nat) (s : State) : State :=
  let d := dirAt s line
  match d.invs.find? (fun i => i.core == unit) with
  | some i => setDir s line { d with invs := d.invs.erase i }
  | none => s

/-- An invalidation, or its answer, that a fenced link returns: it is over, and the thread whose write caused it takes FENCED, after
the fence it may be in (R226, R459; DEDUCED, unsafe: log entry 22). -/
def cutInv (core line : Nat) (s : State) : State :=
  let d := dirAt s line
  match d.invs.find? (fun i => i.core == core) with
  | some i =>
    let s := closeInv core line s
    (match i.writer with
     | some w => withThr w s (fun s =>
        (if (me s).form = .inFlight .fence then oweFault else lateFault) .fenced (memInfo .write 0) (w64 (d.va * 32)) s)
     | none => s)
  | none => s

/-- INVALIDATION (R95): the copy goes, a fill of the line is marked, and the core acknowledges at once. A peer's invalidation of a
line of its memory reaches every core, and the peer is answered (R466; DEDUCED, unsafe: log entry 106). -/
def execInvalidation (s : State) : Result :=
  match s.now with
  | some (.invalidation core line) =>
    .next (
      let s := taken s
      let home := homeUnit (homePlace (line * 32))
      if routeFenced s home core then cutInv core line s
      else postOrd core home (.invalidationAck core line) (dropShared core line s))
  | some (.peerInvalidation dev pa) =>
    .next (
      let s := taken s
      let s := s.cores.foldl (fun s c => dropShared c.1 (peerPa dev pa / 32) s) s
      { s with out := s.out ++ [.peerInvAck dev pa] })
  | _ => .fault (.noEvent "INVALIDATION")

/-- INVALIDATION_ACK (R101). -/
def execInvalidationAck (s : State) : Result :=
  match s.now with
  | some (.invalidationAck core line) =>
    .next (
      let s := taken s
      if isPeerUnit core = false ∧ routeFenced s core (homeUnit (homePlace (line * 32))) then cutInv core line s
      else closeInv core line s)
  | _ => .fault (.noEvent "INVALIDATION_ACK")

/-- FENCE_MARKER (R101): answered once the invalidations of the thread's writes inside the scope are acknowledged. One that a
fenced link returns raises FENCED in its thread (R459), but in no fence, which never faults (R226). -/
def execFenceMarker (s : State) : Result :=
  match s.now with
  | some (.fenceMarker th home sc) =>
    .next (
      let s := taken s
      let open_ := s.dir.any (fun d => d.2.invs.any (fun i =>
        (match i.writer with
         | some w => w.tid == th.tid && w.ctx == th.ctx
         | none => false) && inScope sc (th.slot / 16) i.core))
      if routeFenced s (th.slot / 16) (homeUnit home) then
        wakeLimit3 th (withThr th s (fun s =>
          let s := mapMe (fun t => { t with homes := t.homes.erase home, markers := t.markers.erase home }) s
          if (me s).form = .inFlight .fence then s else lateFault .fenced (memInfo .write 0) 0 s))
      else if open_ then holdBack (.fenceMarker th home sc) s
      else postOrd (homeUnit home) (th.slot / 16) (.fenceMarkerAnswer th home) s)
  | _ => .fault (.noEvent "FENCE_MARKER")

/-- FENCE_MARKER_ANSWER (R101). -/
def execFenceMarkerAnswer (s : State) : Result :=
  match s.now with
  | some (.fenceMarkerAnswer th home) =>
    .next (
      let s := taken s
      wakeLimit3 th (withThr th s (fun s =>
        let t := me s
        let s := mapMe (fun t => { t with homes := t.homes.erase home, markers := t.markers.erase home }) s
        match t.form with
        | .inFlight (.storeDone _ h) => if h = home then advance s else s
        | _ => s)))
  | _ => .fault (.noEvent "FENCE_MARKER_ANSWER")

end Sys2Proof.Machine
end

