-- ==== Sys2Proof/Machine/Words.lean ====
section
/-!
DEFINITION. The full/empty word (08 R205 to R220): the settling of a word, the wait tables and overflow chains, the six
instructions that act on a word's bit or wait on it, and their events.
-/
namespace Sys2Proof.Machine

/-- The state a total meaning answers. -/
def nextOr (s : State) (r : Result) : State :=
  match r with
  | .next t => t
  | _ => s

/-- The slice whose replay log and wait table serve a home (R205, R479). -/
def logSlice (home : Nat) : Nat := if home < 1024 then home else (home - 1024) / 4

/-- A doubleword of the vault's header (R399). -/
def vaultHdr (s : State) (ctx i : Nat) : Nat := (ctxWord s ctx 0x10).toNat + 8 * i

/-- 1 ms in eighths of a nanosecond, and in ticks (R208). -/
def ms8 : Nat := 8000000
def msTicks : Nat := 1000000

/-- After an event that changed a word, its oldest waiter whose condition holds is reserved and woken (R206). -/
def settle (w : Nat) (s : State) : State :=
  let m := wordAt s w
  match m.resv with
  | some _ => s
  | none =>
    match m.queue.find? (fun q => m.fe != q.isS) with
    | none => s
    | some q =>
      let s := setWord s w { m with queue := m.queue.erase q, resv := some { th := q.th, va := q.va, since := tick s, time := q.time } }
      let s := after ms8 (.reservationExpiry w) s
      sendWake q.th (hwMsg (if q.isS then 2 else 1) (fld q.va 0 56)) s

/-! ### Registrations (R209 to R211) -/

/-- The registrations a word has in its slice's wait table. -/
def regCount (m : WordMeta) : Nat := m.queue.length + b2n m.resv.isSome + m.mons.length

/-- The registrations in the wait table of a slice. -/
def waitUsed (s : State) (slice : Nat) : Nat :=
  s.words.foldl (fun n x => if x.2.slice = slice then n + regCount x.2 else n) 0

/-- A new registration by a tid removes any older one of that tid at the same slice (R209). -/
def dropOlder (slice : Nat) (th : Thr) (s : State) : State :=
  s.words.foldl (fun s x =>
    let m := x.2
    if m.slice = slice ∧ (m.queue.any (fun q => sameThr q.th th) ∨ m.resv.any (fun r => sameThr r.th th) ∨
        m.mons.any (fun y => sameThr y.th th)) then
      settle x.1 (setWord s x.1 { m with queue := m.queue.filter (fun q => !sameThr q.th th),
                                         resv := m.resv.filter (fun r => !sameThr r.th th),
                                         mons := m.mons.filter (fun y => !sameThr y.th th) })
    else s) s

/-- The kinds of registration: a waiter for full, a waiter for empty, a monitor (R211). -/
inductive RegKind where
  | full | empty | monitor
  deriving DecidableEq, Repr

def RegKind.code : RegKind → Nat
  | .full => 0 | .empty => 1 | .monitor => 2

/-- Whether a tid is in its context's chain, read through at most n entries. -/
def inChain (s : State) (ctx : Nat) : Nat → Word → Nat → Bool
  | 0, _, _ => false
  | n + 1, link, tid =>
    if fld link 20 1 = 1 then false
    else if fld link 0 20 = tid then true
    else inChain s ctx n (v64 s ctx (areaBase s ctx 3 + 32 * fld link 0 20 + 24)) tid

/-- The last entry of a chain, read through at most n entries. -/
def chainTail (s : State) (ctx : Nat) : Nat → Word → Option Nat
  | 0, _ => none
  | n + 1, link =>
    if fld link 20 1 = 1 then none
    else some ((chainTail s ctx n (v64 s ctx (areaBase s ctx 3 + 32 * fld link 0 20 + 24))).getD (fld link 0 20))

/-- Appends a waiter to its context's overflow chain (R210, R211). The list head in the vault header is laid out as an entry's
doubleword 3, bit 20 for an empty chain: the spec says only that it lies there (DESIGN CHOICE, unsafe: log entry 78). -/
def chainAppend (k : RegKind) (th : Thr) (va : Word) (s : State) : State :=
  let ctx := th.ctx
  let ent := areaBase s ctx 3 + 32 * th.tid
  let head := v64 s ctx (vaultHdr s ctx 1)
  let have_ := inChain s ctx (thrMax s ctx) head th.tid
  let next := if have_ then v64 s ctx (ent + 24) else w64 (2 ^ 20)
  let tail := chainTail s ctx (thrMax s ctx) head
  let s := vput ctx ent (wordsBytes
    [w64 (fld va 3 53 * 8 + k.code), w64 (th.tid + th.slot * 2 ^ 20), w64 (tick s), next]) s
  if have_ then s
  else match tail with
    | none => vput64 ctx (vaultHdr s ctx 1) (w64 th.tid) s
    | some t => vput64 ctx (areaBase s ctx 3 + 32 * t + 24) (w64 th.tid) s

/-- Registers a thread at a word, under the word's address (R209, R210, R212). -/
def register (k : RegKind) (th : Thr) (at_ : Word) (w slice : Nat) (s : State) : State :=
  let va := w64 (at_.toNat / 8 * 8)
  let s := dropOlder slice th s
  let m := { wordAt s w with slice := slice }
  if waitUsed s slice < 64 then
    match k with
    | .monitor => setWord s w { m with mons := m.mons ++ [⟨th, va, tick s⟩] }
    | _ => setWord s w { m with queue := m.queue ++ [⟨th, k == .empty, va, tick s⟩] }
  else chainAppend k th va (setWord s w { m with w := true, wva := va })

/-- A thread's write at a home counts for its next release (R101). -/
def noteWriteOf (p home : Nat) (s : State) : State :=
  mapThread p (fun t => { t with homes := if home ∈ t.homes ∨ 1024 ≤ home then t.homes else t.homes ++ [home] }) s

/-- The executing thread's write at a home. -/
def noteWrite (home : Nat) (s : State) : State := noteWriteOf s.cur home s

/-! ### The instructions performed at a word's home (R214 to R219) -/

/-- Whether ldsync (isS false) or stsync may proceed (R216, R217). -/
def feReady (m : WordMeta) (isS : Bool) (th : Thr) : Bool :=
  (m.fe != isS) && (m.resv.all (fun r => sameThr r.th th))

/-- Sets FE of a word by the rows of R207: a reservation the change makes false is cleared. The bit is the line's, and goes to
DRAM with it (R97). -/
def setFe (v : Bool) (w : Nat) (s : State) : State :=
  let s := dirtyLine s (w / 4)
  let m := wordAt s w
  settle w (setWord s w { m with fe := v, resv := if m.fe = v then m.resv else none })

/-- The word feprobe reads (R218). -/
def probeBits (m : WordMeta) : Word :=
  w64 (b2n m.fe + b2n (m.queue != []) * 2 + b2n m.resv.isSome * 4 + b2n (m.mons != []) * 8 + b2n m.w * 16)

/-- The access kind of R417, and whether a tag may refuse the access (R253): stsync alone writes data. -/
def FeOp.acc : FeOp → Acc
  | .ldsync => .rmw | .stsync => .write | .feclr => .write | .feset => .write | .feprobe => .read | .ldmon => .read

/-- feclr and feset enter the store queue (R218). -/
def FeOp.queued (op : FeOp) : Bool := op == .feclr || op == .feset

/-- The registration of a wait (R211). -/
def FeOp.reg : FeOp → RegKind
  | .stsync => .empty | .ldmon => .monitor | _ => .full

/-- The home action of an access to a word, for a thread (R216 to R219): its value, or none where it must wait.
DEDUCED, unsafe: log entry 42. -/
def feAct (op : FeOp) (th : Thr) (va : Word) (pa size : Nat) (x : Word) (s : State) : Option Word × State :=
  let w := pa / 8
  let home := homePlace pa
  let log (s : State) : State := replayLog (logSlice home) th.slot w s
  let clear (v : Bool) (s : State) : State :=
    let s := dirtyLine s (w / 4)
    let m := wordAt s w
    setWord s w { m with fe := v, resv := m.resv.filter (fun r => !sameThr r.th th) }
  match op with
  | .ldsync =>
    if feReady (wordAt s w) false th then (some (w64 (rdNat s pa size)), settle w (touchWord home w (clear false (log s))))
    else (none, s)
  | .stsync =>
    if feReady (wordAt s w) true th then
      (some 0, settle w (noteWriteOf th.slot home
        (performWrite (cellsAt pa (leBytes size x.toNat)) none (some th) (setDirty va.toNat (clear true (log s))))))
    else (none, s)
  | .feclr => (some 0, setFe false w (touchWord home w (log s)))
  | .feset => (some 0, setFe true w (touchWord home w (log s)))
  | .feprobe => (some (probeBits (wordAt s w)), s)
  | .ldmon =>
    let v := rdNat s pa size
    if v = fld x 0 (8 * size) then (none, s) else (some (w64 v), s)

/-- A try that found the condition false: another after 64 network cycles (R215), or the registration and the park (R216,
R219). -/
def feFail (op : FeOp) (va : Word) (pa : Nat) (s : State) : State :=
  match (me s).form with
  | .inFlight (.fe w d n limit undo) =>
    if n < limit ∧ op ≠ .ldmon then after 320 (.feRetry (myThr s)) (inFlight (.fe w d (n + 1) limit undo) s)
    else park ⟨false, .word, false⟩ (register op.reg (myThr s) va (pa / 8) (waitSlice va pa) (abandon s))
  | _ => s

/-- The destination of an access that its home has answered (R216, R218, R219), and the floor of a load or an acquire (R110). -/
def feResult (op : FeOp) (d size : Nat) (v : Word) (mo : BitVec 2) (s : State) : State :=
  let read (s : State) : State := clearNoMerge (mapMe (fun t => { t with floor := s.time8 }) s)
  match op with
  | .ldsync => writeDst d (sextNat v.toNat (8 * size)) (read s)
  | .feprobe => writeDst d v (read s)
  | .ldmon => writeDst d v (read s)
  | _ => raiseFloor mo s

/-- An access to a word whose checks have passed (R214, R218, R219). In its own core's scratchpad it is performed within the
pass; elsewhere its request goes to the home on the ordered class (R107), behind the core's queued stores of the line
(R98). A stsync is sent when the thread's earlier stores have been acknowledged, and feclr and feset drain with them
(R100). -/
def feSend (op : FeOp) (d size : Nat) (x : Word) (mo : BitVec 2) (ss : List Src) (e : Elem) (s : State) : State :=
  let core := myCore s
  let home := homeOf e.va e.pa
  let w := WriteReq.fe (myThr s) op e.va e.pa size x mo
  let flight (s : State) : State :=
    inFlight (.fe w d 0 (fld (ctxAt s (me s).ctx).feretry 0 16) (popsTaken ss s)) (reserve d (takePops ss s))
  if isSpad e.pa && spadCore e.pa == core then
    match feAct op (myThr s) e.va e.pa size x (usePlace e.pa size s) with
    | (some v, s') => complete s (feResult op d size v mo (commit ss s'))
    | (none, _) => feFail op e.va e.pa (flight s)
  else if routeFenced s core (homeUnit home) then raise .fenced (memInfo op.acc 0) e.va s
  else if lineQueued s core (e.pa / 32) || (op == .stsync && sqOf s core (myThr s) != []) then waitRetry s
  else if op.queued then
    complete s (enqueue { id := 0, th := myThr s, va := e.va, cells := [], home := home, req := some w }
      (mapMe (fun t => { t with acqOut := if acquires mo then t.acqOut + 1 else t.acqOut }) (commit ss s)))
  else postOrd core (homeUnit home) (.homeWrite w) (clearNoMerge (flight s))

/-- The instructions performed at a word's home: the checks, the release side (R104), then the access. -/
def feInstr (op : FeOp) (d size : Nat) (va x : Word) (sc : BitVec 3) (mo : BitVec 2) (ss : List Src) (s : State) : State :=
  acqGate s
    (match plan op.acc (op == .stsync) false [(0, va, size)] s with
     | .stop s => s
     | .go [] => s
     | .go (e :: _) =>
       if mo = 2 ∨ mo = 3 then released sc s (feSend op d size x mo ss e) else feSend op d size x mo ss e s)

/-- ldsync (R216). -/
def execLdsync (d a : BitVec 5) (sz : BitVec 2) (sc : BitVec 3) (mo : BitVec 2) (off : BitVec 8) (s : State) : Result :=
  withOps [srcP a] (.reg d.toNat) s (fun vs =>
    feInstr .ldsync d.toNat (2 ^ sz.toNat) (arg vs 0 + sextNat (off.toNat * 2 ^ sz.toNat) (8 + sz.toNat)) 0 sc mo [srcP a] s)

/-- stsync (R217). -/
def execStsync (d a : BitVec 5) (sz : BitVec 2) (sc : BitVec 3) (mo : BitVec 2) (off : BitVec 8) (s : State) : Result :=
  withOps [srcP a, srcP d] .none s (fun vs =>
    feInstr .stsync 0 (2 ^ sz.toNat) (arg vs 0 + sextNat (off.toNat * 2 ^ sz.toNat) (8 + sz.toNat)) (arg vs 1) sc mo
      [srcP a, srcP d] s)

/-- feclr (R218). -/
def execFeclr (a : BitVec 5) (sc : BitVec 3) (mo : BitVec 2) (off : BitVec 8) (s : State) : Result :=
  withOps [srcP a] .none s (fun vs => feInstr .feclr 0 8 (arg vs 0 + sextNat (off.toNat * 8) 11) 0 sc mo [srcP a] s)

/-- feset (R218). -/
def execFeset (a : BitVec 5) (sc : BitVec 3) (mo : BitVec 2) (off : BitVec 8) (s : State) : Result :=
  withOps [srcP a] .none s (fun vs => feInstr .feset 0 8 (arg vs 0 + sextNat (off.toNat * 8) 11) 0 sc mo [srcP a] s)

/-- feprobe (R218). -/
def execFeprobe (d a : BitVec 5) (sc : BitVec 3) (mo : BitVec 2) (off : BitVec 8) (s : State) : Result :=
  withOps [srcP a] (.reg d.toNat) s (fun vs =>
    feInstr .feprobe d.toNat 8 (arg vs 0 + sextNat (off.toNat * 8) 11) 0 sc mo [srcP a] s)

/-- ldmon (R219): the read and the arming are one home action. -/
def execLdmon (d a : BitVec 5) (sz : BitVec 2) (sc : BitVec 3) (mo : BitVec 2) (off : BitVec 8) (s : State) : Result :=
  withOps [srcP a, srcP d] .none s (fun vs =>
    feInstr .ldmon d.toNat (2 ^ sz.toNat) (arg vs 0 + sextNat (off.toNat * 2 ^ sz.toNat) (8 + sz.toNat)) (arg vs 1) sc mo
      [srcP a, srcP d] s)

/-- FE_RETRY (R215): the thread in flight tries its access again. -/
def execFeRetry (s : State) : Result :=
  match s.now with
  | some (.feRetry th) =>
    .next (withThr th (taken s) (fun s =>
      match (me s).form with
      | .inFlight (.fe (.fe a op va pa size x mo) _ _ _ _) =>
        postOrd (myCore s) (homeUnit (homeOf va pa)) (.homeWrite (.fe a op va pa size x mo)) s
      | _ => s))
  | _ => .fault (.noEvent "FE_RETRY")

/-- An access to a word at its home (R214, R218, R219): the waits of its line, the action, the answer. One that no PC follows
raises MISFETCH where it would complete, with no effect (R27). -/
def serveFe (w : WriteReq) (th : Thr) (op : FeOp) (va : Word) (pa size : Nat) (x : Word) (s : State) : State :=
  let home := homeOf va pa
  let fenced (s : State) : State :=
    if op.queued then
      (if homeFenced s home then ackRequest w home s
       else match (coreAt s (th.slot / 16)).sq.find? (fun e => e.req == some w && e.sent) with
         | some e => failStore (th.slot / 16) e.id s
         | none => s)
    else withThr th s (fun s =>
      match (me s).form with
      | .inFlight (.fe _ _ _ _ _) => raise .fenced (memInfo op.acc 0) va (abandon s)
      | _ => s)
  if homeFenced s home ∨ routeFenced s (th.slot / 16) (homeUnit home) then fenced s
  else
    match (if isSpad pa then stagedCheck s (spadPlace pa).1 (spadPlace pa).2 size op.acc else .clear) with
    | .wait i => holdBack (.homeWrite w) (joinStage (spadPlace pa).1 i none s)
    | _ =>
      inOrder (lineChan s home (pa / 32)) (.homeWrite w) s (fun s =>
        let p := prepFor th.ctx home (pa / 32) none (if op.acc = .read then .read else .write) s
        if p.1 = false then holdIn (lineChan s home (pa / 32)) (.homeWrite w) p.2
        else match feAct op th va pa size x (usePlace pa size p.2) with
          | (some v, s) =>
            if op.queued then ackRequest w home s
            else if (threadAt s th.slot).any (fun t => t.pc == topPc) then
              withThr th p.2 (fun s => raise .misfetch 0 (w64 (2 ^ 48)) (abandon s))
            else post (.loadReply th va (leBytes 8 v.toNat) 0 0) s
          | (none, s) => withThr th s (feFail op va pa))

/-- A queued store at its home (R213). -/
def serveStore (core id : Nat) (s : State) : State :=
  let w := WriteReq.store core id
  match (coreAt s core).sq.find? (fun e => e.id == id) with
  | none => s
  | some e =>
    let pa := (e.cells.head?.map (fun c => c.1)).getD 0
    if homeFenced s e.home then ackRequest w e.home s
    else if pa < peerBase ∧ routeFenced s core (homeUnit e.home) then failStore core id s
    else if debugBase ≤ pa then ackRequest w e.home (rawWrite s e.cells)
    else if peerBase ≤ pa then
      if peerCut s (sliceOfVa e.va.toNat) ((pa - peerBase) / 2 ^ 40) then failStore core id s
      else
        let chan := lineChan s e.home (pa / 32)
        inOrder chan (.homeWrite w) s (fun s =>
          let p := prepAllFor e.th.ctx e.home (linesOf e.cells) .write s
          if p.1 = false then holdIn chan (.homeWrite w) p.2
          else postOrd (sliceUnit (sliceOfVa e.va.toNat)) (peerUnit ((pa - peerBase) / 2 ^ 40))
            (.remoteAccess (sliceOfVa e.va.toNat) e.va (.write w)) p.2)
    else
      let staged := if isSpad pa then stagedCheck s (spadPlace pa).1 (spadPlace pa).2 e.cells.length .write else .clear
      match staged with
      | .wait i => holdBack (.homeWrite w) (joinStage (spadPlace pa).1 i none s)
      | _ =>
        let chan := lineChan s e.home (pa / 32)
        inOrder chan (.homeWrite w) s (fun s =>
          let p := prepAllFor e.th.ctx e.home (linesOf e.cells) .write s
          if p.1 = false then holdIn chan (.homeWrite w) p.2
          else ackRequest w e.home (performWrite e.cells (some core) (some e.th) (usePlace pa e.cells.length p.2)))

/-- HOME_WRITE (R213): a queued store, the home half of an atomic, or an access to a word. -/
def execHomeWrite (s : State) : Result :=
  match s.now with
  | some (.homeWrite w) =>
    .next (
      let s := taken s
      match w with
      | .store core id => serveStore core id s
      | .amo th reg op va x pc _ priv =>
        serveAtomic w th reg (amoSize op) va pc priv true (fun old => some (amoNew op old x))
          (fun old => w64 (old.toNat % 2 ^ (8 * amoSize op))) s
      | .cas th reg size va exp new pc _ priv =>
        serveAtomic w th reg size va pc priv false
          (fun old => if old.toNat = exp.toNat % 2 ^ (8 * size) then some new else none)
          (fun old => sextNat old.toNat (8 * size)) s
      | .fe th op va pa size x _ => serveFe w th op va pa size x s)
  | _ => .fault (.noEvent "HOME_WRITE")

/-! ### Expiry and overflow (R208, R210) -/

/-- RESERVATION_EXPIRY (R208): 1,000,000 ticks of the holder's context issuing after the grant, the reservation is
cleared; an earlier call sets itself again. -/
def execReservationExpiry (s : State) : Result :=
  match s.now with
  | some (.reservationExpiry w) =>
    .next (
      let s := taken s
      let m := wordAt s w
      match m.resv with
      | none => s
      | some r =>
        if (ctxAt s r.th.ctx).st ≠ .resident then s
        else if tick s < r.since + msTicks then after (8 * (r.since + msTicks - tick s)) (.reservationExpiry w) s
        else settle w (setWord s w { m with resv := none }))
  | _ => .fault (.noEvent "RESERVATION_EXPIRY")

/-- Posts an event to a context's supervisor handler; those of one unit keep their order (R423). -/
def raiseEvent (ctx : Nat) (e : CtxEvent) (s : State) : State :=
  postOrd (20000 + e.unit) (30000 + ctx) (.eventRingWrite ctx e) s

/-- The contexts an overflow event of a word goes to (R210). A word reached through the linear segment has no domain, and
the spec names no context for it: the event goes to none (DESIGN CHOICE, unsafe: log entry 79). -/
def overflowCtxs (s : State) (w : Nat) (va : Word) : List Nat :=
  let resident := (s.ctxs.filter (fun c => c.2.st == .resident)).map (fun c => c.1)
  if isSpad (w * 8) then
    match (coreAt s (spadCore (w * 8))).owner with
    | some (c, _) => resident.filter (fun x => x == c)
    | none => []
  else if region va ≠ .paged then []
  else
    match walk s va.toNat with
    | .leaf _ _ pte _ => resident.filter (fun c => decide (1 ≤ domainRight s c (pteDomain pte)))
    | _ => []

/-- WAITOVF (R210). -/
def execWaitovf (s : State) : Result :=
  match s.now with
  | some (.waitovf slice w va) =>
    .next ((overflowCtxs s w va).foldl
      (fun s c => raiseEvent c { cause := .waitovf, info := 0, addr := va, unit := slice } s) (taken s))
  | _ => .fault (.noEvent "WAITOVF")

end Sys2Proof.Machine
end

