-- ==== Sys2Proof/Machine/Record.lean ====
section
/-!
DEFINITION. Continuation records, pools and slots (05 R123 to R138), and the release of engine contexts (11 R285, R288;
13 R332): the operations with which a thread moves between its forms.
-/
namespace Sys2Proof.Machine

/-! ### Records (R133) -/

/-- The STATE values of R133. -/
def recFree : Nat := 0
def recResident : Nat := 1
def recMigrant : Nat := 2
def recWaitMsg : Nat := 3
def recReadyMsg : Nat := 4
def recWaitReissue : Nat := 5
def recReadyReissue : Nat := 6

/-- Word 0 of a record. -/
def recWord0 (pc : BitVec 48) (state prio full : Nat) (pin mig keep sup : Bool) : Word :=
  w64 (pc.toNat / 4 + state * 2 ^ 48 + prio * 2 ^ 52 + b2n pin * 2 ^ 54 + b2n mig * 2 ^ 55 + full * 2 ^ 56 +
    b2n keep * 2 ^ 60 + b2n sup * 2 ^ 61)

/-- The record of a thread that is written out (R133). -/
def recOf (t : Thread) (state : Nat) (pc : BitVec 48) : List Word :=
  let g (i : Nat) : GReg := regOf t i
  let full := ((List.range 4).map (fun i => if (g (i + 2)).st = .full then 2 ^ i else 0)).foldl (fun a b => a + b) 0
  [recWord0 pc state (prioOf t) full (pinOf t) (migOf t) (keepOf t) (privOf t == 1), predWord t] ++
  (List.range 4).map (fun i => if (g (i + 2)).st = .full then (g (i + 2)).val else 0) ++ [0, 0]

/-- Writes a record. -/
def putRec (ctx tid : Nat) (ws : List Word) (s : State) : State := vput ctx (recVa s ctx tid) (wordsBytes ws) s

/-- Word i of a record. -/
def recWord (s : State) (ctx tid i : Nat) : Word := v64 s ctx (recVa s ctx tid + 8 * i)

/-- STATE of a record. -/
def recState (s : State) (ctx tid : Nat) : Nat := fld (recWord s ctx tid 0) 48 4

/-- Sets STATE of a record. -/
def setRecState (ctx tid st : Nat) (s : State) : State :=
  vput64 ctx (recVa s ctx tid) (setFld (recWord s ctx tid 0) 48 4 st) s

/-- Words 6 and 7 of a resident thread's record, or a migrant's: the slot, every other bit 0 (R133). -/
def recSlot (p ctx tid : Nat) (s : State) : State := vput ctx (recVa s ctx tid + 48) (wordsBytes [w64 p, 0]) s

/-- A record of a resident thread: STATE and the slot (R133). -/
def markResident (p ctx tid : Nat) (s : State) : State := recSlot p ctx tid (setRecState ctx tid recResident s)

/-! ### Slots -/

/-- Whether a core's slots are open to pool, teller and migrant work (R152, R421, R481, R483). -/
def coreOpen (s : State) (core : Nat) : Bool :=
  let c := coreAt s core
  !c.closed && !c.fenced && c.hwait == [] && !(cellAt s (cellOfCore core)).fenced &&
    fld (cellAt s (cellOfCore core)).test 8 1 == 0

/-- The vacant slots of a core, in order; a fenced slot is not one (R483). -/
def vacantIn (s : State) (core : Nat) : List Nat :=
  ((List.range (coreAt s core).part).map (fun i => 16 * core + i)).filter (fun p => (slotAt s p).occ == .vacant && !(64 + p ∈ s.fencedUnits))

/-- The vacant slots of a core that no machine-level handler waits for (R421). -/
def openIn (s : State) (core : Nat) : List Nat := (vacantIn s core).drop (coreAt s core).hwait.length

/-- Mesh hops between two cores' cells (R19). -/
def hops (a b : Nat) : Nat :=
  let d (x y : Nat) : Nat := if x ≤ y then y - x else x - y
  d (a / 4 % 48) (b / 4 % 48) + d (a / 4 / 48) (b / 4 / 48)

/-- The first of a list with the least key. -/
def leastBy (f : Nat → Nat) : List Nat → Option Nat
  | [] => none
  | x :: t =>
    match leastBy f t with
    | some y => if f y < f x then some y else some x
    | none => some x

/-- A role queue that is closed and has lost its last binding is empty and open again (R231). -/
def settleQueues (core : Nat) (s : State) : State :=
  let c := coreAt s core
  let bound (q : Nat) : Bool := (List.range 16).any (fun i =>
    match (slotAt s (16 * core + i)).occ with
    | .thread t => t.binds.toList.any (fun b => b == some q)
    | .forPinned _ _ bs => bs.toList.any (fun b => b == some q)
    | _ => false)
  let qs := c.roleq.toList.zipIdx.map (fun x => if x.1.closed && !bound x.2 then ({} : RoleQueue) else x.1)
  if qs = c.roleq.toList then s
  else setCore s core { c with roleq := Vector.ofFn (fun i : Fin 4 => qs[i.val]?.getD {}) }

/-- A thread leaves its slot: the latch is cleared, mailbox entries are discarded and counted, and the senders queued
for the slot are woken (R129, R235). -/
def leaveSlot (p : Nat) (occ : Occupant) (s : State) : State :=
  let core := p / 16
  let sl := slotAt s p
  let s := setSlot s p { sl with occ := occ, latch := none, mailbox := [] }
  let c := coreAt s core
  let mine := c.senders.filter (fun x => x.target == p)
  let gone := match sl.occ with
    | .thread t => c.qparked.any (fun x => x.2.2.tid == t.tid && x.2.2.ctx == t.ctx)
    | _ => false
  let c' : Core := { c with
    senders := c.senders.filter (fun x => x.target != p),
    msgDrops := c.msgDrops + sl.mailbox.length,
    qparked := if gone then c.qparked.filter (fun x => match sl.occ with
      | .thread t => !(x.2.2.tid == t.tid && x.2.2.ctx == t.ctx)
      | _ => true) else c.qparked }
  let s := if c' = c then s else setCore s core c'
  let s := mine.foldl (fun s x => sendWake ⟨x.slot, x.ctx, x.tid⟩ (hwMsg 7 (fld x.word 0 56)) s) s
  settleQueues core s

/-- Frees a slot: it can take work (R136), a waiting machine-level handler first (R421). -/
def freeSlot (p ctx : Nat) (s : State) : State :=
  let s := leaveSlot p .vacant s
  let told (h : Handler) : Bool := (s.agenda ++ s.held).any (fun f => match f.ev with
    | .handlerStart x => x.again && { x with wait := 0, again := false } == h
    | _ => false)
  match (coreAt s (p / 16)).hwait with
  | [] => offerWork ctx (chipOfCore (p / 16)) s
  | hs =>
    match hs.find? (fun h => !told h) with
    | some h => postHandler { h with again := true } s
    | none => s

/-! ### Engine contexts (R285, R288, R332) -/

/-- Unbinds every name bound to a queue of an array context (R285). -/
def unbindEng (cell e : Nat) (s : State) : State :=
  let qids := [0x10 + e, 0x14 + e, 0x18 + e]
  (List.range 64).foldl (fun s i =>
    let p := 64 * cell + i
    match (slotAt s p).occ with
    | .thread t =>
      if t.binds.toList.any (fun b => b.any (fun q => q ∈ qids)) then
        setThread s p { t with binds := t.binds.map (fun b => if b.any (fun q => q ∈ qids) then none else b) }
      else s
    | .forPinned tid ctx bs =>
      if bs.toList.any (fun b => b.any (fun q => q ∈ qids)) then
        setSlot s p { slotAt s p with occ := .forPinned tid ctx (bs.map (fun b => if b.any (fun q => q ∈ qids) then none else b)) }
      else s
    | _ => s) s

/-- A released context goes FREE, its queues' contents discarded (R285, R286). -/
def endEng (cell e : Nat) (s : State) : State :=
  let x := (cellAt s cell).eng[e]?.getD {}
  offerWork x.ctx (chipOfCell cell) (mapEng cell e (fun x =>
    { x with st := .free, status := 0, gets := [], astream := [], scaleq := [], resultq := [] }) s)

/-- Releases an array context: FREE at once, or once its queue completes (R285, R286). Words its queued commands may still pop
stay until then, and what they push to the result queue is discarded (DEDUCED, unsafe: log entry 85). -/
def releaseEng (cell e : Nat) (s : State) : State :=
  let x := (cellAt s cell).eng[e]?.getD {}
  if x.st = .free ∨ x.st = .releasing then s
  else
    let s := unbindEng cell e s
    if x.queue = [] then endEng cell e s
    else mapEng cell e (fun x => { x with st := .releasing, gets := [], resultq := [] }) s

/-- Releases every array context a thread owns in its cell. -/
def releaseEngs (core tid ctx : Nat) (s : State) : State :=
  let cell := cellOfCore core
  (List.range 4).foldl (fun s e =>
    let x := (cellAt s cell).eng[e]?.getD {}
    if x.st ≠ .free ∧ x.tid = tid ∧ x.ctx = ctx then releaseEng cell e s else s) s

def mapCopy (core e : Nat) (f : CopyCtx → CopyCtx) (s : State) : State :=
  let c := coreAt s core
  setCore s core { c with copy := c.copy.setIfInBounds e (f (c.copy[e]?.getD {})) }

/-- Releases a thread's copy contexts: the IDLE ones of the core when it leaves its slot; when it ends, every one it owns, on whatever
core it claimed it (R332). -/
def releaseCopies (core tid ctx : Nat) (all : Bool) (s : State) : State :=
  let cores := if all then (s.cores.filter (fun c => c.2.copy.toList.any (fun x => x.tid == tid && x.ctx == ctx && x.st != .free))).map
      (fun c => c.1) else [core]
  cores.foldl (fun s core => (List.range 4).foldl (fun s e =>
    let x := (coreAt s core).copy[e]?.getD {}
    if x.tid = tid ∧ x.ctx = ctx then
      match x.st with
      | .idle => mapCopy core e (fun x => { x with st := .free }) s
      | .faulted => if all then mapCopy core e (fun x => { x with st := .free, status := 0 }) s else s
      | .busy => if all then mapCopy core e (fun x => { x with st := .releasing }) s else s
      | _ => s
    else s) s) s

/-- The arms a thread has set on its core's and cell's timelines are cleared when it leaves the slot for another, or ends (R348). -/
def dropArms (core tid ctx : Nat) (s : State) : State :=
  let mine (a : Thr × Nat × Nat) : Bool := a.1.tid == tid && a.1.ctx == ctx
  let keep (l : List (Thr × Nat × Nat)) : List (Thr × Nat × Nat) := l.filter (fun a => !mine a)
  let s := (List.range 4).foldl (fun s e =>
    if (((coreAt s core).copy[e]?.getD {}).arms).any mine then mapCopy core e (fun x => { x with arms := keep x.arms }) s else s) s
  (List.range 4).foldl (fun s e =>
    if (((cellAt s (cellOfCore core)).eng[e]?.getD {}).arms).any mine then
      mapEng (cellOfCore core) e (fun x => { x with arms := keep x.arms }) s
    else s) s

/-! ### Pools and write-out (R132 to R137) -/

/-- Key of a pool of a chiplet at a priority. -/
def poolKey (chip prio : Nat) : Nat := 4 * chip + prio

/-- The place of the next entry of a FIFO queue of n entries of 4 bytes in the vault, k-th of its area (R399). -/
def queueVa (base n k entered : Nat) : Nat := base + 4 * (k * n + entered % Nat.max 1 n)

/-- The place of a pool's next entry (R135, R399). -/
def poolVa (s : State) (ctx k : Nat) : Nat :=
  queueVa (areaBase s ctx 1) (thrMax s ctx) k ((ctxAt s ctx).poolAt.get 0 k)

/-- A tid's entry is written at the tail of its pool in the vault (R135; DESIGN CHOICE, unsafe: log entry 12). -/
def writePool (ctx k tid : Nat) (s : State) : State :=
  let s := vput ctx (poolVa s ctx k) (leBytes 4 tid) s
  let c := ctxAt s ctx
  setCtx s ctx { c with poolAt := c.poolAt.put 0 k (c.poolAt.get 0 k + 1) }

/-- Enters a record into the pool of the chiplet where its thread was last resident (R135). -/
def enterPool (ctx tid core prio : Nat) (s : State) : State :=
  let chip := chipOfCore core
  let k := poolKey chip prio
  let s := writePool ctx k tid s
  let c := ctxAt s ctx
  offerWork ctx chip (setCtx s ctx { c with pool := c.pool.put [] k (c.pool.get [] k ++ [⟨tid, core, tick s⟩]) })

/-- Remembers where a thread was last resident (R135), the homes its next release covers (R101), and what its next read must
heed (R105, R412). -/
def noteCore (t : Thread) (core : Nat) (s : State) : State :=
  let c := ctxAt s t.ctx
  setCtx s t.ctx { c with lastCore := c.lastCore.put 0 t.tid core, homes := c.homes.put [] t.tid t.homes,
                          carried := c.carried.put (false, 0) t.tid (t.noMerge, t.seenEnergy) }

/-- Writes the thread of a slot out with a STATE and a PC; a pinned thread's slot stays reserved with the
bindings the release of its array contexts leaves it (R132, R144, R149, R285).
The vector-live bit falls with the slot's vector state (R126). DEDUCED, unsafe: log entry 67. -/
def writeOut (p : Nat) (t : Thread) (state : Nat) (pc : BitVec 48) (s : State) : State :=
  let core := p / 16
  let s := putRec t.ctx t.tid (recOf t state pc) s
  let s := noteCore t core (releaseCopies core t.tid t.ctx false (releaseEngs core t.tid t.ctx s))
  let s := trace t.ctx 5 p core t.tid (pc.zeroExtend 64) (w64 state) s
  let binds := match threadAt s p with
    | some u => u.binds
    | none => t.binds
  if pinOf t then leaveSlot p (.forPinned t.tid t.ctx binds) s else freeSlot p t.ctx s

/-- The task association of a tid (R322). -/
def taskLink (s : State) (ctx tid : Nat) : Nat := (ctxWord s ctx 0x130).toNat + 32 * tid

/-- Writes or clears the task-link entry of a tid. -/
def putTaskLink (ctx tid : Nat) (task fmtp sclp : Word) (s : State) : State :=
  vput ctx (taskLink s ctx tid) (wordsBytes [task, fmtp, sclp, 0]) s

/-- Whether a record may be loaded (R133): its reserved bits are 0 and its STATE is one of R133. -/
def recLoadable (w0 : Word) : Bool := fld w0 46 2 == 0 && fld w0 62 2 == 0 && decide (fld w0 48 4 < 7)

/-- An empty register of a thread that enters a slot: its value is undefined (R3, R40). DESIGN CHOICE, safe: log entry 7. -/
def undefReg (s : State) (i : Nat) : GReg := { val := (Config.freeVec s.fresh (64 + i)).setWidth 64 }

/-- The thread a record holds, as it resumes (R134, R322). -/
def recThread (s : State) (ctx tid : Nat) : Thread :=
  let w (i : Nat) : Word := recWord s ctx tid i
  let w0 := w 0
  let msg := fld w0 48 4 == recReadyMsg
  let reg (i : Nat) : GReg :=
    if 2 ≤ i ∧ i < 6 then (if fld w0 (54 + i) 1 = 1 then { st := .full, val := w i } else undefReg s i)
    else if (i = 6 ∨ i = 7) ∧ msg then { st := .full, val := w i }
    else undefReg s i
  { tid := tid, ctx := ctx, pc := BitVec.ofNat 48 (fld w0 0 46 * 4),
    regs := Vector.ofFn (fun i : Fin 28 => reg i.val),
    vecs := Vector.ofFn (fun i : Fin 32 => Config.freeVec s.fresh i.val),
    k1 := BitVec.ofNat 16 (fld (w 1) 16 16), k2 := BitVec.ofNat 16 (fld (w 1) 32 16),
    k3 := BitVec.ofNat 16 (fld (w 1) 48 16),
    status := w64 (fld w0 61 1 + fld w0 55 1 * 4 + fld w0 54 1 * 8 + fld w0 60 1 * 32 + fld w0 52 2 * 64),
    fmtp := v64 s ctx (taskLink s ctx tid + 8), sclp := v64 s ctx (taskLink s ctx tid + 16),
    task := v64 s ctx (taskLink s ctx tid), readyAt := s.cycle, floor := s.time8, homes := (ctxAt s ctx).homes.get [] tid,
    noMerge := ((ctxAt s ctx).carried.get (false, 0) tid).1, seenEnergy := ((ctxAt s ctx).carried.get (false, 0) tid).2 }

/-- Resumes a record into a slot (R134), with bindings kept for a pinned thread; a malformed record is lost (R133). -/
def resumeInto (p ctx tid : Nat) (binds : Vector (Option Nat) 4) (s : State) : State :=
  let w0 := recWord s ctx tid 0
  if !recLoadable w0 then
    raiseEvent ctx { cause := .badcont, info := w64 tid, addr := 0, unit := p / 64 }
      (match (slotAt s p).occ with
       | .forPinned _ _ _ => freeSlot p ctx s
       | _ => s)
  else
    let t := { recThread s ctx tid with binds := binds }
    let s := setCtx s ctx { ctxAt s ctx with homes := (ctxAt s ctx).homes.del tid, carried := (ctxAt s ctx).carried.del tid }
    nextFresh (markResident p ctx tid (setThread s p t))

def noBinds : Vector (Option Nat) 4 := Vector.replicate 4 none

/-- A context issues (R401). -/
def issuing (s : State) (ctx : Nat) : Bool := (ctxAt s ctx).st == .resident

/-- A record that may run: pooled, or resumed in its reserved slot if pinned (R130). A pinned record never enters a pool
(R136): while its context does not issue it waits, and it is resumed at the restore (resumePinned). -/
def recReady (ctx tid : Nat) (s : State) : State :=
  let mine := s.slots.find? (fun x =>
    match x.2.occ with
    | .forPinned n c _ => n == tid && c == ctx
    | _ => false)
  match mine with
  | some (p, sl) =>
    if issuing s ctx then resumeInto p ctx tid (match sl.occ with | .forPinned _ _ bs => bs | _ => noBinds) s else s
  | none =>
    if fld (recWord s ctx tid 0) 54 1 = 1 then s
    else enterPool ctx tid ((ctxAt s ctx).lastCore.get 0 tid) (fld (recWord s ctx tid 0) 52 2) s

/-- A slot reserved for a pinned thread takes it back if its record may run. -/
def resumePinned (p : Nat) (s : State) : State :=
  match (slotAt s p).occ with
  | .forPinned tid ctx bs =>
    if recState s ctx tid = recReadyMsg ∨ recState s ctx tid = recReadyReissue then resumeInto p ctx tid bs s else s
  | _ => s

/-- The wake-drop counter of a core (R129). -/
def countDrop (core : Nat) (s : State) : State :=
  let c := coreAt s core
  setCore s core { c with wakeDrops := Nat.min (c.wakeDrops + 1) (2 ^ 64 - 1) }

/-- The held-wake entry of a tid (R408). -/
def heldVa (s : State) (ctx tid : Nat) : Nat := areaBase s ctx 5 + 32 * tid

/-- Holds a wake for a context that is not resident (R408); header doubleword 2 counts. -/
def holdWake (ctx tid : Nat) (m : Msg) (s : State) : State :=
  let e := heldVa s ctx tid
  let h := vaultHdr s ctx 2
  if fld (v64 s ctx (e + 24)) 0 1 = 1 then
    countDrop (fld (recWord s ctx tid 6) 0 16 / 16) (vput64 ctx h (setFld (v64 s ctx h) 32 32 (fld (v64 s ctx h) 32 32 + 1)) s)
  else
    let s := vput ctx e (wordsBytes (msgWords m ++ [w64 (tick s), 1])) s
    vput64 ctx h (setFld (v64 s ctx h) 0 32 (fld (v64 s ctx h) 0 32 + 1)) s

end Sys2Proof.Machine
end

