-- ==== Sys2Proof/Machine/Tile.lean ====
section
/-!
DEFINITION. Tiles (10): descriptors, handles, the home's states and the cores' slots; the instructions of major 0x34 but
tbst, and the events of staging.
-/
namespace Sys2Proof.Machine

/-! ### Descriptors (R247 to R249) -/

/-- A descriptor as its four doublewords. -/
structure TileDesc where
  d0 : Word
  d1 : Word
  d2 : Word
  d3 : Word
  deriving DecidableEq, Repr

def TileDesc.rows (d : TileDesc) : Nat := fld d.d1 0 16
def TileDesc.cols (d : TileDesc) : Nat := fld d.d1 16 16
def TileDesc.pitch (d : TileDesc) : Nat := fld d.d1 32 16
def TileDesc.esize (d : TileDesc) : Nat := fld d.d1 48 2
def TileDesc.tag (d : TileDesc) : BitVec 16 := BitVec.ofNat 16 (fld d.d2 0 16)
def TileDesc.span (d : TileDesc) : Nat := fld d.d2 32 15

/-- ESIZE of a tag's format (R64, R249 reason 6). -/
def esizeOf (fmt : Nat) : Nat :=
  if fmt = 0 then 1 else match catBits fmt with | 4 => 0 | 8 => 1 | 16 => 2 | _ => 3

/-- The element size in half bytes. -/
def halfBytes (esize : Nat) : Nat := 2 ^ esize

/-- The least PITCH and the extent X of a dense tile (R248). -/
def denseGeometry (layout rows cols pitch esize : Nat) : Nat × Nat :=
  let h := halfBytes esize
  match layout with
  | 0 => ((cols * h + 1) / 2, (rows - 1) * pitch + (cols * h + 1) / 2)
  | 1 => ((rows * h + 1) / 2, (cols - 1) * pitch + (rows * h + 1) / 2)
  | _ => (cols / 16 * 128 * h, (rows / 16 - 1) * pitch + cols / 16 * 128 * h)

/-- Whether a dense tile obeys R248. -/
def denseOk (layout rows cols pitch esize span : Nat) : Bool :=
  let g := denseGeometry layout rows cols pitch esize
  (if 2 ≤ layout then rows % 16 == 0 && cols % 16 == 0
   else esize != 0 || (if layout = 0 then cols else rows) % 2 == 0) &&
  decide (g.1 ≤ pitch) && decide (g.2 ≤ span)

/-- The reasons of R249 but the ninth, in order. -/
def tileDescFault (d : TileDesc) : Option Nat :=
  let base := d.d0.toNat
  let fmt := tagFormat d.tag
  if fld d.d0 56 8 ≠ 0 ∨ fld d.d1 50 14 ≠ 0 ∨ fld d.d2 16 16 ≠ 0 ∨ fld d.d2 47 17 ≠ 0 ∨ fld d.d3 56 8 ≠ 0 ∨
      fld d.d2 0 2 ≠ 0 then some 1
  else if base % 32 ≠ 0 ∨ d.span = 0 ∨ d.span % 32 ≠ 0 ∨ 16384 < d.span then some 2
  else if 16384 < base % 16384 + d.span then some 3
  else if (match region d.d0 with
      | .paged => false
      | .linear pa => decide (dramTop < pa + d.span)
      | _ => true) then some 4
  else if tagSparsity d.tag = 3 ∨ (16 ≤ fmt ∧ fmt < 32) then some 5
  else if d.esize ≠ esizeOf fmt then some 6
  else if d.rows = 0 ∨ d.cols = 0 ∨
      (tagSparsity d.tag = 0 ∧ !denseOk (tagLayout d.tag) d.rows d.cols d.pitch d.esize d.span) then some 7
  else if tagScale d.tag ≠ 0 ∧ (d.d3 = 0 ∨ d.d3.toNat % 4 ≠ 0) then some 8
  else none

/-! ### Handles (R250) -/

def tileVa (s : State) (ctx idx : Nat) : Nat := areaBase s ctx 6 + 64 * idx
def tileMax (s : State) (ctx : Nat) : Nat := fld (ctxWord s ctx 0xA0) 0 32

/-- The descriptor an entry of the context's tile table holds. -/
def tileDescOf (s : State) (ctx idx : Nat) : TileDesc :=
  let w (i : Nat) : Word := v64 s ctx (tileVa s ctx idx + 8 * i)
  ⟨w 0, w 1, w 2, w 3⟩

/-- The slice and its entry that a handle names; none where the handle names no tile. -/
def findTile (s : State) (ctx : Nat) (h : Word) : Option (Nat × TileEnt) :=
  let idx := fld h 0 20
  if fld h 32 32 ≠ 0 ∨ idx = 0 ∨ tileMax s ctx ≤ idx then none
  else
    let w := v64 s ctx (tileVa s ctx idx + 32)
    if fld w 0 1 = 1 ∧ fld w 4 12 = fld h 20 12 then
      ((sliceAt s (fld w 16 10)).tiles.find? (fun e => e.idx == fld w 32 11)).map (fun e => (fld w 16 10, e))
    else none

/-- Runs an instruction on the tile its handle names. -/
def withTile (h : Word) (s : State) (k : Nat → TileEnt → State) : State :=
  match findTile s (me s).ctx h with
  | some (n, e) => k n e
  | none => raise .badtile h 0 s

/-- The slot of a core that holds a handle (R257). -/
def slotOfTile (s : State) (core ctx : Nat) (h : BitVec 32) : Option (Nat × TileSlot) :=
  ((coreAt s core).tslots.toList.zipIdx.find? (fun x =>
    x.1.ctx == ctx && x.1.handle == h && (x.1.st != .empty || x.1.lost || x.1.refused))).map (fun x => (x.2, x.1))

/-- The slot a stage takes: the one that holds the handle, the lowest free one, the lowest lost one (R267). -/
def slotToUse (s : State) (core ctx : Nat) (h : BitVec 32) : Option Nat :=
  let l := (coreAt s core).tslots.toList.zipIdx
  match slotOfTile s core ctx h with
  | some (i, _) => some i
  | none =>
    ((l.find? (fun x => x.1.st == .empty && !x.1.lost)).or (l.find? (fun x => x.1.st == .empty))).map (fun x => x.2)

/-- Wakes the threads parked on a slot (KIND 0x05, R258). -/
def wakeSlot (core i : Nat) (s : State) : State :=
  let t := (coreAt s core).tslots[i]?.getD {}
  t.waiters.foldl (fun s th => sendWake th (hwMsg 5 (fld t.base 0 56)) s)
    (if t.waiters = [] then s else mapTslot core i (fun t => { t with waiters := [] }) s)

/-- A slot goes free (R258). -/
def freeTslot (core i : Nat) (s : State) : State := mapTslot core i (fun _ => {}) (wakeSlot core i s)

/-- A use that names a handle: it goes on only while the slot is ready (R258, R259). -/
def nameTile (h : Word) (s : State) (k : Nat → TileSlot → State) : State :=
  let core := myCore s
  match slotOfTile s core (me s).ctx (BitVec.ofNat 32 (fld h 0 32)) with
  | none => raise .tileslot h 0 s
  | some (i, t) =>
    if t.refused then raise .prot (memInfo .read 0) t.base (mapTslot core i (fun _ => {}) s)
    else if t.st = .ready then k i t
    else if rangeGone s core t then waitRetry s
    else park ⟨true, .translation t.base, false⟩ (joinStage core i (some (myThr s)) s)

/-! ### Groups, for their readers (R362, R364) -/

def grpWord (s : State) (ctx g i : Nat) : Word := v64 s ctx (areaBase s ctx 7 + 64 * g + 8 * i)

/-- The members of a group, in position order; none where the index has no valid entry. -/
def grpMembers (s : State) (ctx g : Nat) : Option (List Nat) :=
  if 256 ≤ g ∨ fld (grpWord s ctx g 0) 0 1 = 0 then none
  else
    let midx := fld (grpWord s ctx g 1) 0 32
    some ((List.range (fld (grpWord s ctx g 0) 8 12)).map (fun i =>
      vNat s ctx (areaBase s ctx 8 + 2 * (midx + i)) 2 % 4096))

/-! ### At the home (R254 to R256) -/

/-- Whether a tile's lines have no L1, U or host copy; asks for what must go (R254). -/
def lineRecall (slice : Nat) (e : TileEnt) (s : State) : Bool × State :=
  (List.range (e.span / 32)).foldl (fun r i =>
    match tileLine s e i with
    | none => r
    | some l =>
      let q := prepCopies l none .write r.2
      let s := invalidateLine slice l none none q.2
      (r.1 && q.1 && (dirAt s l).sharers == [] && (dirAt s l).invs == [], s)) (true, s)

/-- Where the parts of a tile in each 4 KiB page begin. -/
def tilePieces (base span : Nat) : List Nat :=
  (List.range 5).filterMap (fun i =>
    let p := Nat.max base ((base / 4096 + i) * 4096)
    if p < base + span then some p else none)

/-- Whether a requester's rights permit a use of every page of a tile (R88, R267, R298, R339), and the address of the first
that is refused or has no translation. -/
def tileRights (s : State) (ctx priv : Nat) (base : Word) (span : Nat) (k : Acc) : Chk × Word :=
  match region base with
  | .paged =>
    ((tilePieces base.toNat span).findSome? (fun va =>
      match xlatFind s va with
      | some e => if entryPermits s ctx priv e k then none else some (Chk.fault .prot, w64 va)
      | none =>
        match walk s va with
        | .malformed at_ =>
          some (if (sliceAt s (sliceOfVa va)).reported.any (fun x => x.1 == at_) then .fault .badaddr else .miss, w64 va)
        | _ => some (.miss, w64 va))).getD (.ok 0, base)
  | _ => (if priv = 3 then .ok 0 else .fault .prot, base)

/-- The rights of the stage a slot asks for. -/
def stageRights (s : State) (t : TileSlot) : Chk × Word :=
  tileRights s t.ctx t.priv t.base t.span (if t.own then .write else .read)

/-- A tile's bytes as its home sends them. -/
def tileData (s : State) (e : TileEnt) : List Byte :=
  (List.range (e.span / 32)).flatMap (fun i =>
    match tilePlace s e (32 * i) with
    | some pa => rdBytes s pa 32
    | none => (List.range 32).map (fun j => Config.freeByte s.fresh (32 * i + j)))

/-! ### Sends (R261, R262, R509) -/

/-- The ports by which the x-then-y route from one cell to another leaves each router on it, the Local port last: cell and
port, as State.flits numbers them. -/
def routePorts (src dst : Nat) : List (Nat × Nat) :=
  let (xs, ys) := (src % 48, src / 48)
  let (xd, yd) := (dst % 48, dst / 48)
  let alongX := if xs ≤ xd then (List.range (xd - xs)).map (fun i => (48 * ys + xs + i, 2))
    else (List.range (xs - xd)).map (fun i => (48 * ys + xs - i, 4))
  let alongY := if ys ≤ yd then (List.range (yd - ys)).map (fun i => (48 * (ys + i) + xd, 1))
    else (List.range (ys - yd)).map (fun i => (48 * (ys - i) + xd, 3))
  alongX ++ alongY ++ [(dst, 0)]

/-- The ports a send's flits leave by: one copy out of each port through which some destination's route goes (R262). -/
def sendPorts (slice : Nat) (cores : List Nat) : List (Nat × Nat) :=
  (cores.flatMap (fun c => routePorts slice (cellOfCore c))).eraseDups

/-- The replication count of a router in a send: the number of ports it sends on (R262). -/
def replication (slice : Nat) (cores : List Nat) (cell : Nat) : Nat :=
  (sendPorts slice cores).countP (fun x => x.1 == cell)

/-- Flits that leave by some ports. -/
def countFlits (n : Nat) (ports : List (Nat × Nat)) (s : State) : State :=
  { s with flits := ports.foldl (fun t x => t.put 0 (5 * x.1 + x.2) (t.get 0 (5 * x.1 + x.2) + n)) s.flits }

/-- The time in which one beat leaves its slice: a network cycle, the rate of the links it then takes (R22, R508).
DEDUCED, unsafe: log entry 84. -/
def beatTime : Nat := 5

/-- The beats of a send that have left. -/
def beatsGone (s : State) (x : TileSend) : Nat := (s.time8 - x.start) / beatTime

/-- A slot's data is complete when the last of some beats has left. -/
def fillDue (beats missing : List Nat) (data : List Byte) (core ts : Nat) (s : State) : State :=
  let last := beats.zipIdx.foldl (fun m x => if x.1 ∈ missing then x.2 + 1 else m) 0
  after (beatTime * last) (.tileFillComplete core ts data) s

/-- A send begins (R261, R262): its beats leave one after another, to every destination. A send to several is on the fixed route,
one to a single core on the adaptive class. -/
def startSend (slice : Nat) (e : TileEnt) (beats : List Nat) (dests : List (Nat × Nat × List Nat)) (s : State) : State :=
  let data := tileData s e
  let sl := sliceAt s slice
  let s := setSlice s slice { sl with sends := sl.sends.filter (fun x => x.idx != e.idx) ++
    [{ idx := e.idx, beats := beats, start := s.time8, dests := dests.map (fun x => (x.1, x.2.1)) }] }
  let s := dests.foldl (fun s x => fillDue beats x.2.2 data x.1 x.2.1 s) s
  chargeMove e.ctx beats.length (countFlits beats.length (sendPorts slice (dests.map (fun x => x.1))) (nextFresh s))

/-- A stage read joins a send whose data is still leaving (R261): it takes the beats that remain, and will get the others after
them. -/
def joinSend (slice : Nat) (e : TileEnt) (x : TileSend) (cores : List (Nat × Nat)) (s : State) : State :=
  let gone := beatsGone s x
  let rest := x.beats.drop gone
  let missing := (List.range (e.span / 32)).filter (fun b => !(b ∈ rest))
  let now := (x.dests.map (fun d => d.1)) ++ x.joiners.map (fun d => d.1)
  let new := (sendPorts slice (now ++ cores.map (fun c => c.1))).filter (fun p => !(p ∈ sendPorts slice now))
  let sl := sliceAt s slice
  let s := setSlice s slice { sl with sends := sl.sends.map (fun y =>
    if y.idx = e.idx then { y with joiners := y.joiners ++ cores.map (fun c => (c.1, c.2, missing)) } else y) }
  countFlits rest.length new s

/-- Sends a tile's data to slots (R261): they join the send that is going on, or a send begins. -/
def sendTile (slice : Nat) (e : TileEnt) (cores : List (Nat × Nat)) (s : State) : State :=
  let all := List.range (e.span / 32)
  match (sliceAt s slice).sends.find? (fun x => x.idx == e.idx && decide (beatsGone s x < x.beats.length)) with
  | some x => joinSend slice e x cores s
  | none => startSend slice e all (cores.map (fun c => (c.1, c.2, all))) s

/-- A send's last beat has left: the beats its joiners have missed go to them alone (R261). -/
def endSend (slice : Nat) (e : TileEnt) (s : State) : State :=
  match (sliceAt s slice).sends.find? (fun x => x.idx == e.idx) with
  | none => s
  | some x =>
    if beatsGone s x < x.beats.length then s
    else
      let sl := sliceAt s slice
      let s := setSlice s slice { sl with sends := sl.sends.filter (fun y => y.idx != e.idx) }
      if x.joiners = [] then s
      else
        let all := (List.range (e.span / 32)).filter (fun b => x.joiners.any (fun j => decide (b ∈ j.2.2)))
        startSend slice e all x.joiners s

/-! ### Stages (R254 to R256) -/

/-- 4,096 network cycles in eighths of a nanosecond (R256). DEDUCED, unsafe: log entry 44. -/
def holdTime : Nat := 20480

/-- Whether something is there that may still make the line access a tile's entry waits for (R256): a request held at its home,
an attempt that starts again, an engine's command. -/
def accessWaits (s : State) : Bool :=
  !s.held.isEmpty || s.slots.any (fun x => match x.2.occ with | .thread t => t.form == .inFlight .retry || t.form == .inFlight .fence | _ => false) ||
  s.cores.any (fun c => c.2.copy.toList.any (fun x => x.queue != [])) || s.ctxs.any (fun c => c.2.colls != []) ||
  s.sqes.any (fun q => q.2.ops != [])

/-- Whether a tile has no copies but some cores' own, and its lines, where none is left, no copies either; asks for what must
go (R254). -/
def tileEmptied (slice : Nat) (e : TileEnt) (cores : List Nat) (s : State) : Bool × State :=
  let others := (tileCopies s e).filter (fun c => !(c.1 ∈ cores))
  if e.recalls ≠ [] then (false, s)
  else if others ≠ [] then (false, if e.hold = [] then recallCopies slice e others s else s)
  else if tileCopies s e = [] then lineRecall slice e s
  else (true, s)

/-- The same for a stage: the tile's later events wait meanwhile (R255). -/
def tileAlone (slice : Nat) (e : TileEnt) (cores : List Nat) (s : State) : Bool × State :=
  let r := tileEmptied slice e cores s
  (r.1, if e.serving = !r.1 then r.2 else mapTile slice e.idx (fun x => { x with serving := !r.1 }) r.2)

/-- The same for an engine's tile write (R254): whether it may be performed. -/
def tileClear (cmd : CmdName) (slice : Nat) (e : TileEnt) (s : State) : Bool × State :=
  if e.freeing ∨ e.serving ∨ engineHolds s e (some cmd) then (false, s)
  else
    let r := tileEmptied slice e [] s
    let want := if r.1 then none else some cmd
    (r.1, if e.engine = want then r.2 else mapTile slice e.idx (fun x => { x with engine := want }) r.2)

/-- The home of a tile gives slots their copies (R254): the owner or the sharers are set, the use of each promoted slot is
guaranteed (R256), and the data is sent. -/
def grantStage (slice : Nat) (e : TileEnt) (own : Bool) (cores : List (Nat × Nat)) (s : State) : State :=
  let promotes := own || tileCopies s e == []
  let s := mapTile slice e.idx (fun x =>
    let x : TileEnt := if own then { x with owner := cores.head?, sharers := [], mask := [] }
      else { addSharers cores x with owner := none }
    { x with demoted := false, serving := false, hold := if promotes then cores else x.hold,
             holdEnd := if promotes then s.time8 + holdTime else x.holdEnd }) s
  let s := cores.foldl (fun s c =>
    if ((coreAt s c.1).tslots[c.2]?.getD {}).upgrade then mapTslot c.1 c.2 (fun t => { t with upgrade := false }) s else s) s
  let s := if promotes then after holdTime (.stageHoldExpiry slice e.idx) s else s
  let s := if own then (tilePieces e.base.toNat e.span).foldl (fun s va => setDirty va s) s else s
  sendTile slice e cores s

/-- Serves the stage of one or several cores' slots at the tile's home, in its order among the tile's events (R254, R255); again
is the request itself. -/
def serveStage (own : Bool) (rs : List (Nat × Nat)) (again : Event) (s : State) : State :=
  let live := rs.filter (fun r => ((coreAt s r.1).tslots[r.2]?.getD {}).st == .filling)
  match live with
  | [] => s
  | (core, ts) :: _ =>
    let t := (coreAt s core).tslots[ts]?.getD {}
    match findTile s t.ctx (t.handle.zeroExtend 64) with
    | none => live.foldl (fun s r => freeTslot r.1 r.2 s) s
    | some (slice, e) =>
      let chan := waitChan slice true e.idx
      inOrder chan again s (fun s =>
        match stageRights s t with
        | (.miss, va) => live.foldl (fun s r => post (.translationMiss slice va (.tile r.1 r.2 own)) s) s
        | (.fault _, _) =>
          live.foldl (fun s r => mapTslot r.1 r.2 (fun t => { t with st := .empty, lost := false, refused := true, upgrade := false })
            (wakeSlot r.1 r.2 s)) (mapTile slice e.idx (fun x => { x with serving := false }) s)
        | (.ok _, _) =>
          if e.freeing ∨ engineHolds s e none ∨ (e.lineDue ∧ accessWaits s) then holdIn chan again s
          else if own = false ∧ e.owner = none ∧ tileCopies s e ≠ [] ∧ e.recalls = [] then grantStage slice e own live s
          else
            let r := tileAlone slice e (if own then live.map (fun x => x.1) else []) s
            if r.1 = false then holdIn chan again r.2
            else grantStage slice ((findTile s t.ctx (t.handle.zeroExtend 64)).elim e (fun x => x.2)) own live r.2)

/-- STAGE_READ (R254). -/
def execStageRead (s : State) : Result :=
  match s.now with
  | some (.stageRead rs) => .next (serveStage false rs (.stageRead rs) (taken s))
  | _ => .fault (.noEvent "STAGE_READ")

/-- STAGE_OWN (R254). -/
def execStageOwn (s : State) : Result :=
  match s.now with
  | some (.stageOwn core ts) => .next (serveStage true [(core, ts)] (.stageOwn core ts) (taken s))
  | _ => .fault (.noEvent "STAGE_OWN")

/-- STAGE_HOLD_EXPIRY (R256). -/
def execStageHoldExpiry (s : State) : Result :=
  match s.now with
  | some (.stageHoldExpiry slice entry) =>
    .next (
      let s := taken s
      match (sliceAt s slice).tiles.find? (fun e => e.idx == entry) with
      | some e => if e.hold ≠ [] ∧ e.holdEnd ≤ s.time8 then mapTile slice entry (fun x => { x with hold := [] }) s else s
      | none => s)
  | _ => .fault (.noEvent "STAGE_HOLD_EXPIRY")

/-- Bytes of a tile written by an engine at its home, by offset from its BASE, with the tag: monitors fire, the pages written
are dirty, and the tile is in TI (R253, R254, R436). -/
def writeTileBytes (slice : Nat) (e : TileEnt) (tag : BitVec 16) (bytes : List (Nat × Nat)) (s : State) : State :=
  let cs := bytes.filterMap (fun b => (tilePlace s e b.1).map (fun pa => (pa, (BitVec.ofNat 8 b.2 : Byte))))
  let page (off : Nat) : Nat := (e.base.toNat + off) / 4096
  let pages := (tilePieces e.base.toNat e.span).filter (fun va => bytes.any (fun b => page b.1 == va / 4096))
  let s := pages.foldl (fun s va => setDirty va s) (rawWrite s cs)
  let s := (wordsOf cs).foldl (fun s w => touchWord slice w s) s
  mapTile slice e.idx (fun x => { x with demoted := false, tag := tag }) s

/-- A slot's copy is gone from the home's entry: its owner or sharer leaves, a recall of it is answered (R254). -/
def dropCopy (core ts : Nat) (e : TileEnt) : TileEnt :=
  { e with owner := if e.owner = some (core, ts) then none else e.owner,
           sharers := e.sharers.filter (fun c => c != (core, ts)),
           recalls := e.recalls.filter (fun c => c != (core, ts)),
           hold := e.hold.filter (fun c => c != (core, ts)) }

/-- Writes a drained copy at the home: data and monitors; full/empty bits and the tag stay (R253, R254). What the device itself has
written since stands (R213). -/
def drainData (slice : Nat) (e : TileEnt) (core off : Nat) (s : State) : State :=
  (List.range (e.span / 32)).foldl (fun s i =>
    match tilePlace s e (32 * i) with
    | some pa =>
      let d := dirAt s (pa / 32)
      let cs := (cellsAt pa (rdBytes s (spadPa core off + 32 * i) 32)).filter (fun c => d.above.all (fun x => x.1 != c.1))
      let s := if d.above = [] ∨ d.host then s else setDir s (pa / 32) { d with above := [] }
      (wordsOf cs).foldl (fun s w => touchWord slice w s) (rawWrite s cs)
    | none => s) (chargeMove e.ctx (e.span / 32) s)

/-- TILE_DRAIN (R254): the owner's data is written and the slot's write-back acknowledged. -/
def execTileDrain (s : State) : Result :=
  match s.now with
  | some (.tileDrain core ts) =>
    .next (
      let s := taken s
      let t := (coreAt s core).tslots[ts]?.getD {}
      match findTile s t.ctx (t.handle.zeroExtend 64) with
      | some (slice, e) =>
        let s := if e.owner = some (core, ts) then drainData slice e core t.off s else s
        postOrd (sliceUnit slice) core (.tileWritebackAck core ts) (mapTile slice e.idx (dropCopy core ts) s)
      | none => post (.tileWritebackAck core ts) s)
  | _ => .fault (.noEvent "TILE_DRAIN")

/-- TILE_DROP (R254): a core reports that it holds no copy of the handle. -/
def execTileDrop (s : State) : Result :=
  match s.now with
  | some (.tileDrop core ctx h) =>
    .next (
      let s := taken s
      match findTile s ctx (h.zeroExtend 64) with
      | some (slice, e) =>
        let gone := (tileCopies s e ++ e.recalls).filter (fun c => c.1 == core &&
          (let t := (coreAt s core).tslots[c.2]?.getD {}
           !(t.ctx == ctx && t.handle == h && (t.st == .ready || t.st == .draining))))
        mapTile slice e.idx (fun e => gone.foldl (fun e c => dropCopy c.1 c.2 e) e) s
      | none => s)
  | _ => .fault (.noEvent "TILE_DROP")

/-! ### At the core (R258, R263) -/

/-- Tells the home of a tile that a core holds no copy any more. -/
def sendDrop (core : Nat) (t : TileSlot) (s : State) : State :=
  postOrd core (sliceUnit (tileHome t.base)) (.tileDrop core t.ctx t.handle) s

/-- A ready slot gives its copy back: a modified own copy drains first (R258). lost: it ends lost, else free. -/
def giveBack (core i : Nat) (lost : Bool) (s : State) : State :=
  let t := (coreAt s core).tslots[i]?.getD {}
  if t.own ∧ t.mod then
    postOrd core (sliceUnit (tileHome t.base)) (.tileDrain core i)
      (mapTslot core i (fun t => { t with st := .draining, endsLost := lost, defer := false }) s)
  else
    let s := if lost then mapTslot core i (fun t => { t with st := .empty, lost := true, mod := false, defer := false }) s
      else freeTslot core i s
    sendDrop core t s

/-- TILE_RECALL (R258). A slot that fills by an upgrade the home has not served yet has given its read copy up: it answers at once,
for a recall always completes (R255; DEDUCED, unsafe: log entry 98). -/
def execTileRecall (s : State) : Result :=
  match s.now with
  | some (.tileRecall core ctx h) =>
    .next (
      let s := taken s
      match slotOfTile s core ctx h with
      | some (i, t) =>
        match t.st with
        | .ready => giveBack core i true s
        | .filling => if t.upgrade then sendDrop core t s else mapTslot core i (fun t => { t with recalled := true }) s
        | .draining => s
        | .empty => sendDrop core t s
      | none => postOrd core (sliceUnit 0) (.tileDrop core ctx h) s)
  | _ => .fault (.noEvent "TILE_RECALL")

/-- TILE_FILL_COMPLETE (R258): the copy is in the staging range, the slot is ready, a recall kept meanwhile is answered. -/
def execTileFillComplete (s : State) : Result :=
  match s.now with
  | some (.tileFillComplete core ts data) =>
    .next (
      let s := taken s
      let t := (coreAt s core).tslots[ts]?.getD {}
      if t.st ≠ .filling then s
      else
        let cs := cellsAt (spadPa core t.off) data
        let s := (wordsOf cs).foldl (fun s w => touchWord (core / 4) w s) (rawWrite s cs)
        let s := wakeSlot core ts (mapTslot core ts (fun t => { t with st := .ready, recalled := false }) s)
        let s := (findTile s t.ctx (t.handle.zeroExtend 64)).elim s (fun x => endSend x.1 x.2 s)
        if t.recalled then giveBack core ts true s else s)
  | _ => .fault (.noEvent "TILE_FILL_COMPLETE")

/-- TILE_WRITEBACK_ACK (R258). -/
def execTileWritebackAck (s : State) : Result :=
  match s.now with
  | some (.tileWritebackAck core ts) =>
    .next (
      let s := taken s
      let t := (coreAt s core).tslots[ts]?.getD {}
      if t.st ≠ .draining then s
      else if t.endsLost then
        wakeSlot core ts (mapTslot core ts (fun t => { t with st := .empty, lost := true, mod := false, endsLost := false }) s)
      else freeTslot core ts s)
  | _ => .fault (.noEvent "TILE_WRITEBACK_ACK")

/-- DEFER_EXPIRY (R263): a deferred copy nobody has taken drains to its home. -/
def execDeferExpiry (s : State) : Result :=
  match s.now with
  | some (.deferExpiry core ts) =>
    .next (
      let s := taken s
      let t := (coreAt s core).tslots[ts]?.getD {}
      if t.st = .ready ∧ t.defer ∧ t.deferEnd ≤ s.time8 then giveBack core ts false s else s)
  | _ => .fault (.noEvent "DEFER_EXPIRY")

/-! ### Instructions (R265 to R273) -/

/-- tdecl (R265). -/
def execTdecl (d a : BitVec 5) (ma : BitVec 2) (s : State) : Result :=
  let ss := [src a ma]
  withOps ss (.reg d.toNat) s (fun vs =>
    acqGate s
      (let addr := arg vs 0
       if addr.toNat % 32 ≠ 0 then raise .misalign (memInfo .read 0) addr s
       else atHome .read false addr 32 s (fun e s =>
         let w (i : Nat) : Word := rd64 s (e.pa + 8 * i)
         let desc : TileDesc := ⟨w 0, w 1, w 2, w 3⟩
         match tileDescFault desc with
         | some r => raise .tiledesc (w64 r) 0 s
         | none =>
           let t := me s
           let base := desc.d0
           match region base with
           | .linear pa => if privOf t ≠ 3 then raise .prot (memInfo .read 0) base s else declare ss d desc (sliceOfPa pa) s
           | _ =>
             match xlatFind s base.toNat with
             | none => missPark base s
             | some x =>
               if !entryPermits s t.ctx (privOf t) x .read then raise .prot (memInfo .read 0) base s
               else declare ss d desc (sliceOfVa base.toNat) s)))
where
  declare (ss : List Src) (d : BitVec 5) (desc : TileDesc) (slice : Nat) (s0 : State) : State :=
    let s := s0
    let ctx := (me s).ctx
    let new : TileEnt := { idx := 0, ctx := ctx, handle := 0, tag := desc.tag, base := desc.d0, span := desc.span }
    let lines := (List.range (desc.span / 32)).filterMap (tileLine s new)
    let (lo, hi) := (desc.d0.toNat, desc.d0.toNat + desc.span)
    if lines.any (fun l => (tileAt s slice l).isSome) ∨
        (sliceAt s slice).tiles.any (fun e => decide (e.base.toNat < hi) && decide (lo < e.base.toNat + e.span)) then
      raise .tiledesc 9 0 s
    else
      let sl := sliceAt s slice
      let idx := ((List.range (tileMax s ctx)).drop 1).find? (fun i => fld (v64 s ctx (tileVa s ctx i + 32)) 0 1 == 0)
      let ent := (List.range 2048).find? (fun i => sl.tiles.all (fun e => e.idx != i))
      match idx, ent with
      | some idx, some ent =>
        let gen := fld (v64 s ctx (tileVa s ctx idx + 32)) 4 12
        let h := BitVec.ofNat 32 (gen * 2 ^ 20 + idx)
        let s := setSlice s slice { sl with tiles := sl.tiles ++ [{ new with idx := ent, handle := h }] }
        let s := vput ctx (tileVa s ctx idx) (wordsBytes [desc.d0, desc.d1, desc.d2, desc.d3,
          w64 (1 + gen * 2 ^ 4 + slice * 2 ^ 16 + ent * 2 ^ 32), 0, 0, 0]) s
        complete s0 (writeDst d.toNat (h.zeroExtend 64) (commit ss s))
      | _, _ => complete s0 (writeDst d.toNat 0 (commit ss s))

/-- Tasks that wait for units or entries are tried again (R317). -/
def retryWaiting (ctx : Nat) (s : State) : State :=
  let c := ctxAt s ctx
  if c.taskq.any (fun x => x.2.any (fun e => e.waits)) then
    let s := setCtx s ctx { c with taskq := c.taskq.map (fun x => (x.1, x.2.map (fun e => { e with waits := false }))) }
    (List.range 8).foldl (fun s chip => offerWork ctx chip s) s
  else s

/-- An entry of a slice's tile table, which all contexts share, has gone free: every context's waiting tasks are tried again (R251,
R317). -/
def retryAllWaiting (s : State) : State := s.ctxs.foldl (fun s x => retryWaiting x.1 s) s

/-- Frees a tile's entries: its GEN advances, every slot with the handle goes free, and tasks that wait for an entry are tried
again (R250, R258, R266, R317). -/
def freeTile (slice : Nat) (e : TileEnt) (s : State) : State :=
  let ctx := e.ctx
  let idx := e.handle.toNat % 2 ^ 20
  let sl := sliceAt s slice
  let s := setSlice s slice { sl with tiles := sl.tiles.filter (fun x => x.idx != e.idx),
                                      sends := sl.sends.filter (fun x => x.idx != e.idx) }
  let gen := fld (v64 s ctx (tileVa s ctx idx + 32)) 4 12
  let s := vput64 ctx (tileVa s ctx idx + 32) (w64 ((gen + 1) % 4096 * 2 ^ 4)) s
  let mine := s.cores.flatMap (fun c => (c.2.tslots.toList.zipIdx.filter (fun x =>
    x.1.ctx == ctx && x.1.handle == e.handle && (x.1.st != .empty || x.1.lost))).map (fun x => (c.1, x.2)))
  retryAllWaiting (mine.foldl (fun s x => freeTslot x.1 x.2 s) s)

/-- A tile's copies are recalled for its entry to be freed (R266): false while one is. Its other events wait (R255). -/
def emptyTile (slice : Nat) (e : TileEnt) (s : State) : Bool × State :=
  if tileCopies s e ≠ [] ∨ e.recalls ≠ [] then
    (false, mapTile slice e.idx (fun x => { x with freeing := true }) (recallTile slice e s))
  else (true, s)

/-- Whether other events of a tile stand before an instruction's at its home (R255): one being served, or waiting. -/
def tileBusy (s : State) (slice : Nat) (e : TileEnt) : Bool :=
  e.serving || engineHolds s e none || s.held.any (fun f => f.chan == some (waitChan slice true e.idx))

/-- tfree (R266): it waits in flight for every recall, and the tile's events that come meanwhile wait for it. -/
def execTfree (a : BitVec 5) (ma : BitVec 2) (s : State) : Result :=
  let ss := [src a ma]
  withOps ss .none s (fun vs =>
    acqGate s (withTile (arg vs 0) s (fun _ _ =>
      released 3 s (fun s => withTile (arg vs 0) s (fun slice e =>
        if !e.freeing && tileBusy s slice e then waitRetry s
        else if atTop s then raise .misfetch 0 (w64 (2 ^ 48)) s
        else
          let r := emptyTile slice e s
          if r.1 = false then waitRetry r.2 else complete s (freeTile slice e (commit ss s)))))))

/-- The control word's range rule (R267). -/
def badRange (off span : Nat) : Bool := off % 32 != 0 || decide (saveTail < off + span)

/-- A slot taken for a stage. -/
def takeTslot (core i : Nat) (e : TileEnt) (own : Bool) (off priv : Nat) (task : Word) (s : State) : State :=
  mapTslot core i (fun _ =>
    { st := .filling, ctx := e.ctx, handle := e.handle, own := own, off := off, span := e.span, base := e.base,
      task := task, priv := priv }) (wakeSlot core i s)

/-- tstage (R267). Where the handle's slot is draining it parks, as the table of R258 says, and does not answer with the slot, as
R267's pseudocode would (DESIGN CHOICE, unsafe: log entry 99). -/
def execTstage (d a b : BitVec 5) (ma mb : BitVec 2) (s : State) : Result :=
  let ss := [src a ma, src b mb]
  withOps ss (.reg d.toNat) s (fun vs =>
    acqGate s (withTile (arg vs 0) s (fun _ e =>
      let ctl := arg vs 1
      let off := fld ctl 0 18
      let own := fld ctl 30 1 == 1
      let core := myCore s
      let held := slotOfTile s core e.ctx e.handle
      if fld ctl 18 12 ≠ 0 ∨ fld ctl 31 33 ≠ 0 ∨ badRange off e.span ∨
          rangeTaken s core e.ctx e.handle off e.span (held.map (fun x => x.1)) then raise .badopnd ctl 0 s
      else released 3 s (fun s =>
        let done (i : Nat) (s : State) : State := complete s (writeDst d.toNat (w64 i) (commit ss s))
        match held with
        | some (i, t) =>
          match t.st with
          | .draining => park ⟨true, .translation t.base, false⟩ (joinStage core i (some (myThr s)) s)
          | .filling => done i s
          | .ready =>
            if t.own = true ∨ own = false then done i s
            else if atTop s then raise .misfetch 0 (w64 (2 ^ 48)) s
            else done i (post (.stageOwn core i) (mapTslot core i (fun t =>
              { t with st := .filling, own := true, mod := false, upgrade := true, priv := privOf (me s), task := (me s).task }) s))
          | .empty => stage ss d core i e own off s
        | none =>
          match slotToUse s core e.ctx e.handle with
          | some i => stage ss d core i e own off s
          | none => complete s (writeDst d.toNat (BitVec.allOnes 64) (commit ss s))))))
where
  stage (ss : List Src) (d : BitVec 5) (core i : Nat) (e : TileEnt) (own : Bool) (off : Nat) (s : State) : State :=
    if atTop s then raise .misfetch 0 (w64 (2 ^ 48)) s
    else
      let s := takeTslot core i e own off (privOf (me s)) (if own then (me s).task else 0) s
      let s := post (if own then .stageOwn core i else .stageRead [(core, i)]) s
      advance (writeDst d.toNat (w64 i) (commit ss s))

/-- tdrain (R268): it stays in flight until the write-back is acknowledged. -/
def execTdrain (a : BitVec 5) (ma : BitVec 2) (s : State) : Result :=
  let ss := [src a ma]
  withOps ss .none s (fun vs =>
    acqGate s (withTile (arg vs 0) s (fun _ e =>
      released 3 s (fun s =>
        let core := myCore s
        match slotOfTile s core e.ctx e.handle with
        | none => complete s (commit ss s)
        | some (i, t) =>
          match t.st with
          | .empty => complete s (commit ss (freeTslot core i s))
          | .filling => park ⟨true, .translation t.base, false⟩ (joinStage core i (some (myThr s)) s)
          | .ready =>
            if atTop s then raise .misfetch 0 (w64 (2 ^ 48)) s
            else if t.own ∧ t.mod then waitRetry (giveBack core i false s)
            else complete s (commit ss (giveBack core i false s))
          | .draining => waitRetry s))))

/-- The home state code of ttag (R269). -/
def tileStateCode (e : TileEnt) : Nat :=
  if e.owner.isSome then 2 else if e.sharers ≠ [] ∨ e.mask ≠ [] ∨ e.recalls ≠ [] then 1 else if e.demoted then 3 else 0

def tslotCode : TileSlotState → Nat
  | .empty => 0 | .filling => 1 | .ready => 2 | .draining => 3

/-- ttag (R269). -/
def execTtag (d a : BitVec 5) (ma : BitVec 2) (s : State) : Result :=
  let ss := [src a ma]
  withOps ss (.reg d.toNat) s (fun vs =>
    acqGate s (withTile (arg vs 0) s (fun _ e =>
      let slot := slotOfTile s (myCore s) e.ctx e.handle
      let v := e.tag.toNat + tileStateCode e * 2 ^ 16 +
        (match slot with
         | some (_, t) => if t.st = .empty ∧ t.lost = false then 0 else 2 ^ 18 + tslotCode t.st * 2 ^ 19 + b2n t.lost * 2 ^ 21
         | none => 0)
      complete s (raiseFloor 1 (writeDst d.toNat (w64 v) (commit ss s))))))

/-- tsettag (R270). -/
def execTsettag (a b : BitVec 5) (ma mb : BitVec 2) (s : State) : Result :=
  let ss := [src a ma, src b mb]
  withOps ss .none s (fun vs =>
    acqGate s (withTile (arg vs 0) s (fun _ e =>
      let v := arg vs 1
      let tag := BitVec.ofNat 16 (fld v 0 16)
      let fmt := tagFormat tag
      let esize := (tileDescOf s e.ctx (e.handle.toNat % 2 ^ 20)).esize
      if fld v 16 48 ≠ 0 ∨ fld v 0 2 ≠ 0 ∨ tagSparsity tag = 3 ∨ (16 ≤ fmt ∧ fmt < 32) ∨ esize ≠ esizeOf fmt then
        raise .badopnd v 0 s
      else released 3 s (fun s => withTile (arg vs 0) s (fun slice e =>
        if e.freeing || tileBusy s slice e then waitRetry s
        else complete s (mapTile slice e.idx (fun x => { x with tag := tag }) (commit ss s)))))))

/-- tinv (R271). -/
def execTinv (a : BitVec 5) (ma : BitVec 2) (s : State) : Result :=
  let ss := [src a ma]
  withOps ss .none s (fun vs =>
    acqGate s (withTile (arg vs 0) s (fun _ e =>
      let core := myCore s
      match slotOfTile s core e.ctx e.handle with
      | none => complete s (commit ss s)
      | some (i, t) =>
        match (if t.own then tileRights s t.ctx (privOf (me s)) t.base t.span .write else (.ok 0, t.base)) with
        | (.fault _, va) => raise .prot (memInfo .write 0) va s
        | (.miss, va) => missPark va s
        | (.ok _, _) =>
          match t.st with
          | .empty => complete s (commit ss (freeTslot core i s))
          | .filling => park ⟨true, .translation t.base, false⟩ (joinStage core i (some (myThr s)) s)
          | .ready => complete s (commit ss (sendDrop core t (freeTslot core i s)))
          | .draining => complete s (commit ss s))))

/-- A member core's answer to an mcast, or a target's to a tfwd served by the home (R272, R273): none where it refuses;
else whether it allocated a slot. -/
def offerSlot (s : State) (core : Nat) (e : TileEnt) (off : Nat) : Option (Option Nat) :=
  match slotOfTile s core e.ctx e.handle with
  | some (i, t) =>
    if t.st ≠ .empty then some none
    else if rangeTaken s core e.ctx e.handle off e.span (some i) then none else some (some i)
  | none =>
    if rangeTaken s core e.ctx e.handle off e.span none then none
    else (slotToUse s core e.ctx e.handle).map some

/-- mcast (R272). -/
def execMcast (d a b : BitVec 5) (ma mb : BitVec 2) (s : State) : Result :=
  let ss := [src a ma, src b mb]
  withOps ss (.reg d.toNat) s (fun vs =>
    acqGate s (withTile (arg vs 0) s (fun _ e =>
      let ctl := arg vs 1
      let off := fld ctl 0 18
      let mask := fld ctl 32 16
      match grpMembers s e.ctx (fld ctl 48 8) with
      | none => raise .badopnd ctl 0 s
      | some ms =>
        if fld ctl 18 14 ≠ 0 ∨ fld ctl 56 8 ≠ 0 ∨ badRange off e.span ∨ mask / 2 ^ ms.length ≠ 0 then
          raise .badopnd ctl 0 s
        else released 3 s (fun s =>
            let named := (List.range 16).filter (fun i => mask / 2 ^ i % 2 == 1)
            let r := named.foldl (fun (r : Nat × List (Nat × Nat) × State) i =>
              match physCore r.2.2 e.ctx (ms[i]?.getD 0) with
              | none => r
              | some core =>
                match offerSlot r.2.2 core e off with
                | none => r
                | some none => (r.1 + 2 ^ i, r.2.1, r.2.2)
                | some (some k) =>
                  (r.1 + 2 ^ i, r.2.1 ++ [(core, k)], takeTslot core k e false off (privOf (me s)) 0 r.2.2)) (0, [], s)
            let s' := if r.2.1 = [] then r.2.2 else post (.stageRead r.2.1) r.2.2
            complete s (writeDst d.toNat (w64 r.1) (commit ss s'))))))

/-- tfwd (R273): an own copy goes core to core; any other is staged at the target by its home. A range past the save tail is
BADOPND, as tstage's is (R267): R273 names only reserved bits and a misaligned OFFSET (DESIGN CHOICE, unsafe: log entry 99). -/
def execTfwd (d a b : BitVec 5) (ma mb : BitVec 2) (s : State) : Result :=
  let ss := [src a ma, src b mb]
  withOps ss (.reg d.toNat) s (fun vs =>
    acqGate s (withTile (arg vs 0) s (fun _ e =>
      let ctl := arg vs 1
      let off := fld ctl 0 18
      let own := fld ctl 30 1 == 1
      let core := myCore s
      let lc := fld ctl 18 12
      if fld ctl 31 33 ≠ 0 ∨ badRange off e.span then raise .badopnd ctl 0 s
      else
        match (if coreCount s e.ctx ≤ lc then none else physCore s e.ctx lc) with
        | none => raise .badaddr ctl 0 s
        | some target =>
          released 3 s (fun s =>
            let finish (v : Nat) (s' : State) : State := complete s (writeDst d.toNat (w64 v) (commit ss s'))
            if target = core then finish 2 s
            else
              let mine := slotOfTile s core e.ctx e.handle
              if own ∧ mine.any (fun x => x.2.own) then
                nameTile (arg vs 0) s (fun i _ =>
                  if atTop s then raise .misfetch 0 (w64 (2 ^ 48)) s
                  else
                  let s := reportUse core i (commit ss s)
                  postOrd core target (.tfwdTransfer (myThr s) core i target off) (inFlight (.tile d.toNat e.handle) s))
              else
                match offerSlot s target e off with
                | none => finish 1 s
                | some none => finish 0 s
                | some (some k) =>
                  finish 0 (post (if own then .stageOwn target k else .stageRead [(target, k)])
                    (takeTslot target k e own off (privOf (me s)) (if own then (me s).task else 0) s))))))

/-- Moves an own copy and MOD from one core's slot to another's, if that core can take it (R273): whether it could. -/
def moveCopy (core ts target off : Nat) (task : Word) (s : State) : Bool × State :=
  let t := (coreAt s core).tslots[ts]?.getD {}
  match findTile s t.ctx (t.handle.zeroExtend 64) with
  | none => (false, s)
  | some (slice, e) =>
    match offerSlot s target e off with
    | some (some k) =>
      let cs := cellsAt (spadPa target off) (rdBytes s (spadPa core t.off) e.span)
      let s := (wordsOf cs).foldl (fun s w => touchWord (target / 4) w s) (rawWrite (chargeMove e.ctx (e.span / 32) s) cs)
      let s := mapTslot target k (fun _ => { t with st := .ready, off := off, task := task, defer := false, waiters := [] })
        (wakeSlot target k s)
      let s := mapTile slice e.idx (fun x => { x with owner := some (target, k), hold := [] }) s
      (true, freeTslot core ts s)
    | _ => (false, s)

/-- TFWD_TRANSFER (R273): the target's answer ends the tfwd. The transfer is a use of the tile (R259): an issuing slot that has lost its
copy meanwhile is staged again first. -/
def execTfwdTransfer (s : State) : Result :=
  match s.now with
  | some (.tfwdTransfer th core ts target off) =>
    .next (withThr th (taken s) (fun s =>
      match (me s).form with
      | .inFlight (.tile d h) =>
        let t := (coreAt s core).tslots[ts]?.getD {}
        if t.handle ≠ h ∨ t.ctx ≠ th.ctx ∨ t.refused then
          (if (findTile s th.ctx (h.zeroExtend 64)).isNone then raise .badtile (h.zeroExtend 64) 0 s
           else if t.refused then raise .prot (memInfo .write 0) t.base s
           else raise .tileslot (h.zeroExtend 64) 0 s)
        else if t.st ≠ .ready then holdBack (.tfwdTransfer th core ts target off) (joinStage core ts none s)
        else
          let r := moveCopy core ts target off (me s).task s
          advance (writeDst d (w64 (b2n (!r.1))) r.2)
      | _ => s))
  | _ => .fault (.noEvent "TFWD_TRANSFER")

end Sys2Proof.Machine
end

