-- ==== Sys2Proof/Machine/Barrier.lean ====
section
/-!
DEFINITION. Barriers (14): the record and its list of waiters, the home's actions on it, the five instructions and the
two events that count at a barrier.
-/
namespace Sys2Proof.Machine

/-- A barrier record (R352). -/
structure BarRec where
  pending : Int
  expected : Nat
  arrived : Nat
  phase : Nat
  valid : Bool
  posted : Bool
  faulted : Bool
  auto : Bool
  cstat : Nat
  last : Nat
  head : Nat
  tail : Nat
  listed : Bool
  reserved : Nat
  deriving DecidableEq, Repr

/-- The record at a place. -/
def readBar (s : State) (pa : Nat) : BarRec :=
  let a := rd64 s pa
  let b := rd64 s (pa + 8)
  { pending := toSigned (fld a 0 32) 32, expected := fld a 32 16, arrived := fld a 48 16, phase := fld b 0 8,
    valid := fld b 8 1 == 1, posted := fld b 9 1 == 1, faulted := fld b 10 1 == 1, auto := fld b 11 1 == 1,
    cstat := fld b 12 4, last := fld b 16 4, head := fld b 20 20, tail := fld b 40 20, listed := fld b 60 1 == 1,
    reserved := fld b 61 3 }

/-- The two doublewords of a record. -/
def barWords (r : BarRec) : List Word :=
  [w64 ((BitVec.ofInt 32 r.pending).toNat + r.expected * 2 ^ 32 + r.arrived * 2 ^ 48),
   w64 (r.phase + b2n r.valid * 2 ^ 8 + b2n r.posted * 2 ^ 9 + b2n r.faulted * 2 ^ 10 + b2n r.auto * 2 ^ 11 +
     r.cstat * 2 ^ 12 + r.last * 2 ^ 16 + r.head * 2 ^ 20 + r.tail * 2 ^ 40 + b2n r.listed * 2 ^ 60 + r.reserved * 2 ^ 61)]

/-- Where an action acts: the context whose list it is, the record's virtual address and its place. -/
structure BarAt where
  ctx : Nat
  va : Word
  pa : Nat
  deriving DecidableEq, Repr

def writeBar (a : BarAt) (r : BarRec) (s : State) : State :=
  performWrite (cellsAt a.pa (wordsBytes (barWords r))) none none (setDirty a.va.toNat s)

/-! ### The list of waiters (R353) -/

def barLink (s : State) (ctx tid : Nat) : Nat := areaBase s ctx 4 + 16 * tid

/-- The message a barrier delivers (R356). -/
def barMsg (va : Word) (phase status : Nat) (pending : Int) : Msg :=
  { kind := 8, info := BitVec.ofNat 56 (fld va 4 52 + status * 2 ^ 52),
    data := w64 (phase + (BitVec.ofInt 32 pending).toNat * 2 ^ 32) }

/-- The slot a tid's record names, for a wake (R130, R133). -/
def wakeSlotOf (s : State) (ctx tid : Nat) : Nat :=
  if recState s ctx tid = recResident ∨ recState s ctx tid = recMigrant then fld (recWord s ctx tid 6) 0 16
  else 16 * (ctxAt s ctx).lastCore.get 0 tid

/-- Wakes a list of waiters in order and unlists them, through at most n entries. -/
def wakeList (ctx : Nat) (m : Msg) : Nat → Nat → State → State
  | 0, _, s => s
  | n + 1, tid, s =>
    let link := v64 s ctx (barLink s ctx tid + 8)
    let s := vput ctx (barLink s ctx tid) (wordsBytes [0, 0]) s
    let s := sendWake ⟨wakeSlotOf s ctx tid, ctx, tid⟩ m s
    if fld link 20 1 = 1 then s else wakeList ctx m n (fld link 0 20) s

/-- Wakes every listed waiter; the record's list is empty afterwards. -/
def wakeAll (a : BarAt) (r : BarRec) (phase status : Nat) (pending : Int) (s : State) : BarRec × State :=
  if r.listed then
    ({ r with listed := false, head := 0, tail := 0 },
     wakeList a.ctx (barMsg a.va phase status pending) (thrMax s a.ctx + 1) r.head s)
  else (r, s)

/-! ### The home's actions (R354, R355) -/

/-- Overrun: FAULTED, the list woken, an error record (R354). -/
def barOverrun (a : BarAt) (r : BarRec) (status : Nat) (s : State) : State :=
  let (r, s) := wakeAll a { r with faulted := true, last := status } r.phase status r.pending s
  errorRec 12 1 a.ctx (cellLoc (logSlice (homeOf a.va a.pa))) a.va (w64 status) 0 (writeBar a r s)

/-- Completion (R355). -/
def barComplete (a : BarAt) (r : BarRec) (s : State) : State :=
  let status := r.cstat
  let (r', s) := wakeAll a { r with phase := (r.phase + 1) % 256, last := status, cstat := 0, arrived := 0,
                                    posted := r.auto } r.phase status r.pending s
  writeBar a r' s

/-- The check after an event (R354): whether the phase completes. -/
def barDone (r : BarRec) : Bool := r.posted && r.arrived == r.expected && r.pending == 0

/-- The test of a record after an event, as one home action: whether it completed the phase. -/
def barCheck (a : BarAt) (r : BarRec) (s : State) : Bool × State :=
  if barDone r then (true, barComplete a r s) else (false, writeBar a r s)

def inRange32 (p : Int) : Bool := decide (-(2 ^ 31) ≤ p) && decide (p < 2 ^ 31)

/-- n arrivals at a counting record (R354): whether they completed the phase. An overrun counts them too; what ARRIVED
holds then is free where it does not fit. DESIGN CHOICE, safe: log entry 93. -/
def barArrive (a : BarAt) (r : BarRec) (n : Nat) (s : State) : Bool × State :=
  if r.expected < r.arrived + n then
    let k := r.arrived + n
    (false, barOverrun a { r with arrived := if k < 65536 then k else Config.freeChoice 65536 s.fresh % 65536 } 9 (nextFresh s))
  else
    let r := { r with arrived := r.arrived + n }
    if r.posted then barCheck a r s else (false, writeBar a r s)

/-- An expectation of b bytes (R354). -/
def barExpect (a : BarAt) (r : BarRec) (b : Nat) (post_ : Bool) (s : State) : Bool × State :=
  let r' := { r with pending := r.pending + b, posted := r.posted || post_ }
  if !inRange32 r'.pending then (false, barOverrun a { r' with pending := r.pending } 8 s)
  else if r.posted = false ∧ r'.posted ∧ r'.pending < 0 then (false, barOverrun a r' 8 s)
  else if r'.posted then barCheck a r' s
  else (false, writeBar a r' s)

/-- Bytes of a copy completion (R354). -/
def barBytes (a : BarAt) (r : BarRec) (b status : Nat) (s : State) : State :=
  let r' := { r with pending := r.pending - b, cstat := Nat.max r.cstat status }
  if !inRange32 r'.pending then barOverrun a { r' with pending := r.pending } 8 s
  else if r'.posted ∧ r'.pending < 0 then barOverrun a r' 8 s
  else if r'.posted then (barCheck a r' s).2
  else writeBar a r' s

/-! ### Instructions (R357, R358) -/

/-- Whether a message of the ordered class is on its way from a core to a home (R107). -/
def orderedOut (s : State) (core home : Nat) : Bool := s.agenda.any (fun f => f.chan == some (core, homeUnit home))

/-- The checks of R357 but the last two, and the home of the record; a request that writes travels behind the core's
ordered messages to it (R360). whole says that it writes the record without reading its counts: no other acts on a poisoned
record (R169 step 7, R483). -/
def barInstr (k : Acc) (whole : Bool) (va : Word) (s : State) (operandFault : Option Word) (act : BarAt → State → State) : State :=
  if va.toNat % 16 ≠ 0 then raise .misalign (memInfo k 0) va s
  else
    match plan k false false [(0, va, 16)] s with
    | .stop s => s
    | .go es =>
      let pa := (es.head?.map (fun e => e.pa)).getD 0
      if !whole && poisoned s pa 16 then raise .fenced (memInfo k 0) va s
      else if isSpad pa then raise .badopnd va 0 s
      else if routeFenced s (myCore s) (homeUnit (homeOf va pa)) then raise .fenced (memInfo k 0) va s
      else
        match operandFault with
        | some v => raise .badopnd v 0 s
        | none =>
          if k = .write ∧ orderedOut s (myCore s) (homeOf va pa) = true then waitRetry s
          else atHome k false va 16 s (fun e s => act ⟨(me s).ctx, va, e.pa⟩ s)

/-- BARSTATE 1 and 2 (R357). -/
def barUsable (r : BarRec) (s : State) (k : State) : State :=
  if r.valid = false ∨ r.reserved ≠ 0 then raise .barstate 1 0 s
  else if r.faulted then raise .barstate 2 0 s
  else k

/-- bar.init (R358). -/
def execBarInit (a b : BitVec 5) (ma mb : BitVec 2) (s : State) : Result :=
  let ss := [src a ma, src b mb]
  withOps ss .none s (fun vs =>
    acqGate s
      (let w := arg vs 1
       let grp := fld w 24 1 == 1
       let members := grpMembers s (me s).ctx (fld w 16 8)
       let bad := fld w 26 38 != 0 || (grp && (fld w 0 16 != 0 || members.isNone))
       barInstr .write true (arg vs 0) s (if bad then some w else none) (fun at_ s =>
         let r := readBar s at_.pa
         if r.valid ∧ r.listed then raise .barstate 3 0 s
         else
           let auto := fld w 25 1 == 1
           complete s (commit ss (writeBar at_
             { pending := 0, expected := if grp then (members.getD []).length else fld w 0 16, arrived := 0, phase := 0,
               valid := true, posted := auto, faulted := false, auto := auto, cstat := 0, last := 0, head := 0, tail := 0,
               listed := false, reserved := 0 } s)))))

/-- The result of bar.arrive and bar.expect (R358). -/
def barResult (r : BarRec) (done : Bool) : Word := w64 (r.phase + b2n done * 256)

/-- bar.arrive (R358): a release at device scope (R360). -/
def execBarArrive (d a b : BitVec 5) (ma mb : BitVec 2) (s : State) : Result :=
  let ss := [src a ma, src b mb]
  withOps ss (.reg d.toNat) s (fun vs =>
    acqGate s
      (let w := arg vs 1
       let bad := fld w 16 48 != 0 || fld w 0 16 == 0
       barInstr .write false (arg vs 0) s (if bad then some w else none) (fun at_ s =>
         released 3 s (fun s =>
           let r := readBar s at_.pa
           barUsable r s
             (let q := barArrive at_ r (fld w 0 16) (noteWrite (homeOf at_.va at_.pa) (commit ss s))
              complete s (writeDst d.toNat (barResult r q.1) q.2))))))

/-- bar.expect (R358). -/
def execBarExpect (d a b : BitVec 5) (ma mb : BitVec 2) (s : State) : Result :=
  let ss := [src a ma, src b mb]
  withOps ss (.reg d.toNat) s (fun vs =>
    acqGate s
      (let w := arg vs 1
       let bad := fld w 33 31 != 0 || fld w 31 1 != 0
       barInstr .write false (arg vs 0) s (if bad then some w else none) (fun at_ s =>
         let r := readBar s at_.pa
         barUsable r s
           (let q := barExpect at_ r (fld w 0 31) (fld w 32 1 == 1) (commit ss s)
            complete s (writeDst d.toNat (barResult r q.1) q.2)))))

/-- Delivers a barrier's message and completes the instruction (R358). -/
def barDeliver (ss : List Src) (m : Msg) (acquires : Bool) (s : State) : State :=
  complete s (raiseFloor (if acquires then 1 else 0) (mapMe (takeMsg m) (commit ss s)))

/-- bar.arm (R358). -/
def execBarArm (a b : BitVec 5) (ma mb : BitVec 2) (s : State) : Result :=
  let ss := [src a ma, src b mb]
  withOps ss .none s (fun vs =>
    acqGate s
      (let w := arg vs 1
       let p := fld w 0 8
       barInstr .read false (arg vs 0) s (if fld w 8 56 ≠ 0 then some w else none) (fun at_ s =>
         let r := readBar s at_.pa
         let t := me s
         let link0 := v64 s t.ctx (barLink s t.ctx t.tid)
         let link1 := v64 s t.ctx (barLink s t.ctx t.tid + 8)
         let mine := fld link1 21 1 == 1
         if r.valid = false ∨ r.reserved ≠ 0 then raise .barstate 1 0 s
         else if mine ∧ link0 ≠ at_.va then raise .barstate 4 0 s
         else if r.faulted then barDeliver ss (barMsg at_.va p r.last r.pending) false s
         else if r.phase ≠ p then barDeliver ss (barMsg at_.va p r.last r.pending) true s
         else if mine then park ⟨false, .barrier, true⟩ (commit ss s)
         else
           let s := if r.listed then
               vput64 t.ctx (barLink s t.ctx r.tail + 8) (w64 (t.tid + 2 ^ 21)) s else s
           let s := vput t.ctx (barLink s t.ctx t.tid) (wordsBytes [at_.va, w64 (2 ^ 20 + 2 ^ 21)]) s
           let s := writeBar at_ { r with listed := true, head := if r.listed then r.head else t.tid, tail := t.tid } s
           park ⟨false, .barrier, true⟩ (commit ss s))))

/-- bar.inval (R358). -/
def execBarInval (a : BitVec 5) (ma : BitVec 2) (s : State) : Result :=
  let ss := [src a ma]
  withOps ss .none s (fun vs =>
    acqGate s (barInstr .write false (arg vs 0) s none (fun at_ s =>
      let r := readBar s at_.pa
      if r.valid = false then complete s (commit ss s)
      else
        let q := wakeAll at_ { r with valid := false } r.phase 10 r.pending (commit ss s)
        complete s (writeBar at_ q.1 q.2))))

/-! ### Events (R334, R340, R354, R359) -/

/-- What a device unit that counts at a record finds. -/
inductive BarFind where
  | found (b : BarAt)
  | miss
  | refused
  deriving DecidableEq, Repr

/-- The record a device unit counts at, for a context and at a level, by the checks of an access from a core (R359). -/
def barTarget (s : State) (core ctx priv : Nat) (va : Word) : BarFind :=
  if va.toNat % 16 ≠ 0 then .refused
  else
    match check s core ctx priv va 16 .write false with
    | .fault _ => .refused
    | .miss => .miss
    | .ok pa => if isSpad pa ∨ debugBase ≤ pa ∨ poisoned s pa 16 then .refused else .found ⟨ctx, va, pa⟩

/-- Whether a record takes counts. -/
def barCounts (r : BarRec) : Bool := r.valid && r.reserved == 0 && !r.faulted

/-- A device unit's count at a record: again is its request, kept whole while its translation is missing (R438) or the record's
line is not ready; no where the record takes no count. -/
def barCount (core ctx priv : Nat) (va : Word) (again : Event) (yes : BarAt → BarRec → State → State)
    (no : State → State) (s : State) : State :=
  match barTarget s core ctx priv va with
  | .refused => no s
  | .miss => holdBack again (askXlat va .nobody s)
  | .found at_ =>
    let p := prepFor ctx (homeOf at_.va at_.pa) (at_.pa / 32) none .write s
    if p.1 = false then holdBack again p.2
    else
      let r := readBar p.2 at_.pa
      if barCounts r then yes at_ r p.2 else no p.2

/-- A core at the teller's place, for its routes: the first of its chiplet's cells. -/
def tellerCore (chip : Nat) : Nat := 4 * (12 * (chip % 4) + 48 * 8 * (chip / 4))

/-- TASK_NOTIFY_ARRIVAL (R359): one arrival; a refused one is dropped, counted and reported. -/
def execTaskNotifyArrival (s : State) : Result :=
  match s.now with
  | some (.taskNotifyArrival ctx va chip) =>
    .next (barCount (tellerCore chip) ctx 0 va (.taskNotifyArrival ctx va chip) (fun at_ r s => (barArrive at_ r 1 s).2)
      (fun s => errorRec 12 1 ctx {} va 0 0 { s with ras := { s.ras with arrivalDrops := s.ras.arrivalDrops + 1 } }) (taken s))
  | _ => .fault (.noEvent "TASK_NOTIFY_ARRIVAL")

end Sys2Proof.Machine
end

