-- ==== Sys2Proof/Machine/Task.lean ====
section
/-!
DEFINITION. Tasks (12): records, method tables, the teller's reading, matching and placing, completion, and the four
instructions of major 0x3D.
-/
namespace Sys2Proof.Machine

/-! ### Records (R304 to R306) -/

def tIdle : Nat := 0
def tSubmitted : Nat := 1
def tPending : Nat := 2
def tReady : Nat := 3
def tMatched : Nat := 4
def tUnmatched : Nat := 5
def tRunning : Nat := 6
def tDone : Nat := 7

def taskMax (s : State) (ctx : Nat) : Nat := fld (ctxWord s ctx 0xA0) 32 32
def arenaUnits (s : State) (ctx : Nat) : Nat := fld (ctxWord s ctx 0xA8) 0 32

/-- The address of a task index, and the index of an address (R304). -/
def taskVa (s : State) (ctx idx : Nat) : Word := w64 (areaBase s ctx 12 + 64 * idx)
def taskIdx (s : State) (ctx : Nat) (r : Word) : Nat := (r.toNat - areaBase s ctx 12) / 64

/-- A doubleword of a record, and its writing at the home. -/
def tw (s : State) (ctx : Nat) (r : Word) (i : Nat) : Word := v64 s ctx (r.toNat + 8 * i)
def putTw (ctx : Nat) (r : Word) (i : Nat) (v : Word) (s : State) : State := vput64 ctx (r.toNat + 8 * i) v s

def taskState (s : State) (ctx : Nat) (r : Word) : Nat := fld (tw s ctx r 0) 48 4
def taskOp (s : State) (ctx : Nat) (r : Word) : Nat := fld (tw s ctx r 0) 0 12
def taskPrio (s : State) (ctx : Nat) (r : Word) : Nat := fld (tw s ctx r 0) 12 2
def taskPending (s : State) (ctx : Nat) (r : Word) : Nat := fld (tw s ctx r 0) 16 16
def taskQueue (s : State) (ctx : Nat) (r : Word) : Nat := fld (tw s ctx r 0) 32 4

/-- Sets bits of doubleword 0. -/
def setTw0 (ctx : Nat) (r : Word) (lo n v : Nat) (s : State) : State := putTw ctx r 0 (setFld (tw s ctx r 0) lo n v) s
def setTaskState (ctx : Nat) (r : Word) (st : Nat) (s : State) : State := setTw0 ctx r 48 4 st s

/-- Handle A, B, C or D (0 to 3). -/
def taskHandle (s : State) (ctx : Nat) (r : Word) (x : Nat) : Nat := fld (tw s ctx r (1 + x / 2)) (32 * (x % 2)) 32
def setTaskHandle (ctx : Nat) (r : Word) (x h : Nat) (s : State) : State :=
  putTw ctx r (1 + x / 2) (setFld (tw s ctx r (1 + x / 2)) (32 * (x % 2)) 32 h) s

/-- The indices of an overflow chain from a record on, through at most n records (R306). -/
def overflowFields (s : State) (ctx : Nat) : Nat → Nat → List (Word × Nat × Nat)
  | 0, _ => []
  | n + 1, idx =>
    if idx = 0 then []
    else
      let r := taskVa s ctx idx
      (List.range 21).map (fun i => (r, i / 3, 20 * (i % 3))) ++ overflowFields s ctx n (fld (tw s ctx r 7) 0 20)

/-- The successor fields of a record in order: where each lies (R306). -/
def succFields (s : State) (ctx : Nat) (r : Word) : List (Word × Nat × Nat) :=
  [(r, 3, 0), (r, 3, 20), (r, 3, 40), (r, 4, 0)] ++ overflowFields s ctx (taskMax s ctx) (fld (tw s ctx r 4) 20 20)

def fieldIdx (s : State) (ctx : Nat) (f : Word × Nat × Nat) : Nat := fld (tw s ctx f.1 f.2.1) f.2.2 20

/-- The successors of a record in order (R306). -/
def successors (s : State) (ctx : Nat) (r : Word) : List Nat :=
  ((succFields s ctx r).map (fieldIdx s ctx)).filter (fun i => i != 0)

/-! ### Queues (R314, R315) -/

def promoteOf (s : State) (ctx : Nat) : Nat := Nat.max 1000 (ctxAt s ctx).promote.toNat

/-- The chiplet whose teller a record goes to (R314). -/
def tellerFor (s : State) (ctx queue chip : Nat) : Nat :=
  let mask := (rdByte s (ctxField s ctx (0xB0 + queue))).toNat
  if bits mask chip 1 = 1 then chip else ((List.range 8).find? (fun c => bits mask c 1 == 1)).getD 0

/-- The place of a task queue's next entry (R314, R399). -/
def taskqVa (s : State) (ctx k : Nat) : Nat :=
  queueVa (areaBase s ctx 2) (taskMax s ctx) k ((ctxAt s ctx).taskAt.get 0 k)

/-- A record's index is written at the tail of its queue in the vault (R314; DESIGN CHOICE, unsafe: log entry 12). -/
def writeTaskq (ctx k idx : Nat) (s : State) : State :=
  let s := vput ctx (taskqVa s ctx k) (leBytes 4 idx) s
  let c := ctxAt s ctx
  setCtx s ctx { c with taskAt := c.taskAt.put 0 k (c.taskAt.get 0 k + 1) }

/-- A record becomes READY and enters its queue (R311, R314). -/
def makeReady (ctx : Nat) (r : Word) (chip : Nat) (s : State) : State :=
  let s := setTaskState ctx r tReady s
  let q := taskQueue s ctx r
  let to_ := tellerFor s ctx q chip
  let k := 16 * to_ + q
  let s := writeTaskq ctx k (taskIdx s ctx r) s
  let c := ctxAt s ctx
  let e : TaskEnt := { addr := r, prio := taskPrio s ctx r, since := tick s }
  offerWork ctx to_ (setCtx s ctx { c with taskq := c.taskq.put [] k (c.taskq.get [] k ++ [e]) })

/-- The effective priority of an entry (R315, R137). -/
def effPrio (s : State) (ctx : Nat) (e : TaskEnt) : Nat := Nat.min 3 (e.prio + (tick s - e.since) / promoteOf s ctx)

/-- Whether entry x of queue p comes before entry y of queue q (R315). -/
def taskBefore (s : State) (ctx : Nat) (x y : Nat × TaskEnt) : Bool :=
  let px := effPrio s ctx x.2
  let py := effPrio s ctx y.2
  decide (py < px) || (px == py && (decide (x.2.since < y.2.since) || (x.2.since == y.2.since && decide (x.1 < y.1))))

def insertTask (s : State) (ctx : Nat) (x : Nat × TaskEnt) : List (Nat × TaskEnt) → List (Nat × TaskEnt)
  | [] => [x]
  | y :: t => if taskBefore s ctx x y then x :: y :: t else y :: insertTask s ctx x t

/-- The tasks of a teller in the order of R315. -/
def taskOrder (s : State) (ctx chip : Nat) : List (Nat × TaskEnt) :=
  ((List.range 16).flatMap (fun q => ((ctxAt s ctx).taskq.get [] (16 * chip + q)).map (fun e => (q, e)))).foldl
    (fun l x => insertTask s ctx x l) []

/-- Changes, or with none removes, the entry of a record in its teller's queues. -/
def mapTask (ctx : Nat) (r : Word) (chip : Nat) (f : TaskEnt → Option TaskEnt) (s : State) : State :=
  let c := ctxAt s ctx
  setCtx s ctx { c with taskq := (List.range 16).foldl (fun q i =>
    let k := 16 * chip + i
    let l := q.get [] k
    if l.any (fun e => e.addr == r) then q.put [] k (l.filterMap (fun e => if e.addr = r then f e else some e)) else q) c.taskq }

def taskEnt (s : State) (ctx : Nat) (r : Word) (chip : Nat) : Option TaskEnt :=
  ((taskOrder s ctx chip).find? (fun x => x.2.addr == r)).map (fun x => x.2)

/-- The order in which a teller does its own work. -/
def tellerChan (chip : Nat) : Nat × Nat := (200000 + chip, 0)

/-- A step of a teller, after those it has begun. -/
def postTeller (chip : Nat) (ev : Event) (s : State) : State :=
  { s with agenda := s.agenda ++ [⟨ev, some (tellerChan chip)⟩] }

/-- The teller's turn on a chiplet (R320): every MATCHED task is tried in order, then one READY task is matched. -/
def tellerOffer (ctx chip : Nat) (s : State) : State :=
  let order := taskOrder s ctx chip
  let matched := order.filter (fun x => x.2.matched.isSome)
  let s := matched.foldl (fun s x => postTeller chip (.taskPlace ctx x.2.addr chip) s) s
  match order.find? (fun x => x.2.matched.isNone && !x.2.asked && !x.2.waits) with
  | some x => postTeller chip (.taskMatch ctx x.2.addr chip) s
  | none => s

/-! ### Completion (R312, R313) -/

def unitBase (s : State) (ctx u : Nat) : Nat := areaBase s ctx 13 + 32768 * u
def unitRec (s : State) (ctx u : Nat) : Word := w64 (unitBase s ctx u + 32704)

/-- The units whose inserted record serves a task. -/
def unitsOf (s : State) (ctx idx : Nat) : List Nat :=
  (ctxAt s ctx).units.filter (fun u => fld (tw s ctx (unitRec s ctx u) 3) 0 20 == idx)

/-- Writes the original handles back and frees the scratch tiles and units of a task (R312 step 2). -/
def restoreHandles (ctx : Nat) (r : Word) (s : State) : State :=
  let us := unitsOf s ctx (taskIdx s ctx r)
  if fld (tw s ctx r 0) 39 6 = 0 ∨ us = [] then s
  else
    let s := us.foldl (fun s u =>
      let ur := unitRec s ctx u
      let a := taskHandle s ctx ur 0
      let c := taskHandle s ctx ur 2
      if a = c then s
      else
        let s := (List.range 3).foldl (fun s x => if taskHandle s ctx r x = c then setTaskHandle ctx r x a s else s) s
        match findTile s ctx (w64 c) with
        | some (slice, e) => freeTile slice e s
        | none => s) s
    let c := ctxAt s ctx
    retryWaiting ctx (setCtx s ctx { c with units := c.units.filter (fun u => !(u ∈ us)) })

/-- Whether an address is a record of the task table (R304). -/
def inTable (s : State) (ctx : Nat) (r : Word) : Bool :=
  decide (areaBase s ctx 12 + 64 ≤ r.toNat) && decide (r.toNat < areaBase s ctx 12 + 64 * taskMax s ctx)

/-- The notify of a completed record (R313). -/
def taskNotify (ctx : Nat) (r : Word) (result status chip : Nat) (s : State) : State :=
  let n := tw s ctx r 5
  let target := fld n 4 52 * 16
  match fld n 0 2 with
  | 1 =>
    let tid := (target - areaBase s ctx 0) / 64
    sendWake ⟨wakeSlotOf s ctx tid, ctx, tid⟩ ⟨0x0B, BitVec.ofNat 56 (fld r 0 56), w64 (result + status * 256)⟩ s
  | 2 => post (.taskNotifyArrival ctx (w64 target) chip) s
  | _ => s

/-- Completion of a record (R312): status 0 done, 1 abandoned, 2 by the supervisor. -/
def taskComplete (ctx : Nat) (r : Word) (result status chip : Nat) (s : State) : State :=
  let s := putTw ctx r 7 (setFld (tw s ctx r 7) 0 8 result) (setTaskState ctx r tDone s)
  let s := if inTable s ctx r then restoreHandles ctx r s else s
  let s := if status = 1 then s
    else (successors s ctx r).foldl (fun s i => post (.taskDecrement ctx i chip) s) s
  taskNotify ctx r result status chip s

/-! ### Method tables (R308, R309) -/

/-- A method-table entry. -/
structure Method where
  index : Nat
  key : Nat
  cost : Nat
  scli : Nat
  fmti : Nat
  routine : Nat
  deriving DecidableEq, Repr

def Method.op (m : Method) : Nat := m.key % 4096
def Method.pres (m : Method) : Nat := m.key / 2 ^ 48
/-- The tag field of operand A, B or C. -/
def Method.tag (m : Method) (x : Nat) : Nat := bits m.key (12 + 12 * x) 12

/-- Entry i as it stands in the table, valid or not. -/
def rawMethod (s : State) (ctx i : Nat) : Method :=
  let a := (ctxAt s ctx).kernel.methBase.toNat + 16 * i
  let d1 := v64 s ctx (a + 8)
  { index := i, key := fld (v64 s ctx a) 0 51, cost := fld d1 58 6, scli := fld d1 52 6, fmti := fld d1 46 6,
    routine := fld d1 0 46 }

/-- Doubleword 0's VALID and whether its reserved bits are 0. -/
def methodBits (s : State) (ctx i : Nat) : Bool × Bool :=
  let d0 := v64 s ctx ((ctxAt s ctx).kernel.methBase.toNat + 16 * i)
  (fld d0 63 1 == 1, fld d0 51 12 == 0)

/-- The entries that can match, in index order (R308). -/
def methods (s : State) (ctx : Nat) : List Method :=
  (List.range (ctxAt s ctx).kernel.methCount).filterMap (fun i =>
    if methodBits s ctx i = (true, true) then some (rawMethod s ctx i) else none)

/-- The malformed entries are counted, valid or not, once in each round of matching that searches the table (R308, R470).
DESIGN CHOICE, unsafe: log entry 86. -/
def countMalformed (ctx : Nat) (s : State) : State :=
  let n := (List.range (ctxAt s ctx).kernel.methCount).countP (fun i => !(methodBits s ctx i).2)
  if n = 0 then s else { s with ras := { s.ras with malformedMeth := s.ras.malformedMeth + n } }

/-- The current tag of a handle's tile; 0 where there is none. -/
def handleTag (s : State) (ctx h : Nat) : BitVec 16 :=
  match findTile s ctx (w64 h) with
  | some (_, e) => e.tag
  | none => 0

/-- PRES of a record (R309). -/
def presOf (s : State) (ctx : Nat) (r : Word) : Nat :=
  ((List.range 3).map (fun x => if taskHandle s ctx r x = 0 then 0 else 2 ^ x)).foldl (fun a b => a + b) 0

/-- A task's key (R309). -/
def taskKey (s : State) (ctx : Nat) (r : Word) : Nat :=
  taskOp s ctx r + presOf s ctx r * 2 ^ 48 +
  ((List.range 3).map (fun x => if taskHandle s ctx r x = 0 then 0
    else (handleTag s ctx (taskHandle s ctx r x)).toNat / 16 * 2 ^ (12 + 12 * x))).foldl (fun a b => a + b) 0

/-- The exact match of a key, through the teller's cache (R309). -/
def exactMatch (s : State) (ctx chip key : Nat) : Option Nat × State :=
  let c := ctxAt s ctx
  match (c.mcache.get [] chip).find? (fun e => e.key == key) with
  | some e => (some e.index, s)
  | none =>
    let s := countMalformed ctx s
    match (methods s ctx).find? (fun m => m.key == key) with
    | none => (none, s)
    | some m =>
      let c := ctxAt s ctx
      let l := c.mcache.get [] chip ++ [⟨key, m.index⟩]
      (some m.index, setCtx s ctx { c with mcache := c.mcache.put [] chip (l.drop (l.length - 64)) })

/-- The cheapest of some methods, lowest index first (R316). -/
def cheapest : List Method → Option Method
  | [] => none
  | m :: t =>
    match cheapest t with
    | some n => if n.cost < m.cost then some n else some m
    | none => some m

/-- The lowest-cost conversion from one tag to another; a rescale when they are equal (R307, R316). -/
def conversion (ms : List Method) (from_ to_ : Nat) : Option Method :=
  cheapest (ms.filter (fun m => m.op == 0xFFF && m.pres == 5 && m.tag 0 == from_ && m.tag 2 == to_))

/-! ### Matching (R316 to R319) -/

/-- The scratch tile's descriptor in a unit (R317); none where its SPAN would exceed 16 KiB. -/
def scratchDesc (src_ : TileDesc) (target base : Nat) : Option TileDesc :=
  let tag := BitVec.ofNat 16 (target * 16)
  let esize := esizeOf (tagFormat tag)
  let up (n : Nat) : Nat := (n + 31) / 32 * 32
  let rows := src_.rows
  let cols := src_.cols
  let sparsity := tagSparsity tag
  let layout := if sparsity = 2 then 2 else tagLayout tag
  let effCols := if sparsity = 1 then cols / 2 else cols
  let pitch := up (denseGeometry layout rows effCols 0 esize).1
  let span := if sparsity = 0 then up (denseGeometry layout rows cols pitch esize).2 else 16384
  if 16384 < span ∨ 65535 < pitch then none
  else
    some ⟨w64 base, w64 (rows + cols * 2 ^ 16 + pitch * 2 ^ 32 + esize * 2 ^ 48), w64 (tag.toNat + span * 2 ^ 32),
      if tagScale tag = 0 then 0 else w64 (base + 16384)⟩

/-- Takes the entries of a scratch tile, as tdecl would; none where none is free (R317). -/
def declareScratch (ctx : Nat) (desc : TileDesc) (s : State) : Option (Nat × State) :=
  let slice := tileHome desc.d0
  let sl := sliceAt s slice
  let idx := ((List.range (tileMax s ctx)).drop 1).find? (fun i => fld (v64 s ctx (tileVa s ctx i + 32)) 0 1 == 0)
  let ent := (List.range 2048).find? (fun i => sl.tiles.all (fun e => e.idx != i))
  match idx, ent with
  | some idx, some ent =>
    let gen := fld (v64 s ctx (tileVa s ctx idx + 32)) 4 12
    let h := gen * 2 ^ 20 + idx
    let e : TileEnt := { idx := ent, ctx := ctx, handle := BitVec.ofNat 32 h, tag := desc.tag, base := desc.d0, span := desc.span }
    let s := setSlice s slice { sl with tiles := sl.tiles ++ [e] }
    some (h, vput ctx (tileVa s ctx idx) (wordsBytes [desc.d0, desc.d1, desc.d2, desc.d3,
      w64 (1 + gen * 2 ^ 4 + slice * 2 ^ 16 + ent * 2 ^ 32), 0, 0, 0]) s)
  | _, _ => none

/-- Writes an inserted record into its unit and makes it READY (R317). -/
def insertRecord (ctx : Nat) (r : Word) (u a c : Nat) (m : Method) (chip : Nat) (s : State) : State :=
  let ur := unitRec s ctx u
  let d0 := 0xFFF + taskPrio s ctx r * 2 ^ 12 + taskQueue s ctx r * 2 ^ 32 + 4 * 2 ^ 36
  let s := vput ctx ur.toNat (wordsBytes [w64 d0, w64 a, w64 c, w64 (taskIdx s ctx r), 0, 0, w64 m.index,
    w64 (m.index * 2 ^ 8 + 2 ^ 32)]) s
  makeReady ctx ur chip s

/-- Reserves a unit and, for a conversion, a scratch tile, and inserts the record; none where something is lacking. -/
def insertOne (ctx : Nat) (r : Word) (x : Nat) (m : Method) (conv : Bool) (chip : Nat) (s : State) : Option State :=
  let c := ctxAt s ctx
  match (List.range (arenaUnits s ctx)).find? (fun u => !(u ∈ c.units)) with
  | none => none
  | some u =>
    let s := setCtx s ctx { c with units := c.units ++ [u] }
    let a := taskHandle s ctx r x
    if conv then
      match scratchDesc (tileDescOf s ctx (a % 2 ^ 20)) (m.tag 2) (unitBase s ctx u) with
      | none => none
      | some d =>
        (declareScratch ctx d s).map (fun q =>
          setTaskHandle ctx r x q.1 (setTw0 ctx r (39 + x) 1 1 (insertRecord ctx r u a q.1 m chip q.2)))
    else some (setTw0 ctx r (42 + x) 1 1 (insertRecord ctx r u a a m chip s))

/-- Inserts every conversion of a plan, or none (R317). -/
def insertPlan (ctx : Nat) (r : Word) (conv : Bool) (chip : Nat) : List (Nat × Method) → State → Option State
  | [], s => some s
  | (x, m) :: rest, s => (insertOne ctx r x m conv chip s).bind (insertPlan ctx r conv chip rest)

/-- A task that cannot be matched (R319): the supervisor is told. -/
def noMethod (ctx : Nat) (r : Word) (chip reason : Nat) (s : State) : State :=
  let s := mapTask ctx r chip (fun _ => none) (setTaskState ctx r tUnmatched s)
  raiseEvent ctx { cause := .nomethod, info := w64 reason, addr := r, unit := 4096 + chip } s

/-- A task goes MATCHED with a method (R316). -/
def setMatched (ctx : Nat) (r : Word) (chip m : Nat) (s : State) : State :=
  let w7 := setFld (setFld (tw s ctx r 7) 8 12 m) 32 1 1
  let s := putTw ctx r 7 w7 (setTaskState ctx r tMatched s)
  offerWork ctx chip (mapTask ctx r chip (fun e => some { e with matched := some m, asked := false }) s)

/-- Applies a plan: PENDING becomes its length, or the task waits (R316, R317). A task that would wait gives back the units of its
rescales first, which hold nothing any more: a task that holds units never waits for more (DEDUCED, unsafe: log entry 104). -/
def applyPlan (ctx : Nat) (r : Word) (chip : Nat) (conv : Bool) (plan : List (Nat × Method)) (s : State) : State :=
  let insert (s : State) : Option State :=
    (insertPlan ctx r conv chip plan s).map (fun s =>
      mapTask ctx r chip (fun _ => none) (setTw0 ctx r 16 16 plan.length (setTaskState ctx r tPending s)))
  let wait (s : State) : State := mapTask ctx r chip (fun e => some { e with waits := true }) s
  if arenaUnits s ctx = 0 then noMethod ctx r chip 3 s
  else
    match insert s with
    | some s => s
    | none =>
      let us := unitsOf s ctx (taskIdx s ctx r)
      if us = [] then wait s
      else
        let c := ctxAt s ctx
        let s := setCtx s ctx { c with units := c.units.filter (fun u => !(u ∈ us)) }
        match insert s with
        | some s => retryWaiting ctx s
        | none => wait (retryWaiting ctx s)

/-- The plan of one candidate method: its total cost and its conversions (R316). -/
def candidate (s : State) (ctx : Nat) (r : Word) (ms : List Method) (m : Method) : Option (Nat × List (Nat × Method)) :=
  let d0 := tw s ctx r 0
  let xs := (List.range 3).filter (fun x =>
    taskHandle s ctx r x != 0 && m.tag x != (handleTag s ctx (taskHandle s ctx r x)).toNat / 16)
  xs.foldl (fun acc x =>
    match acc with
    | none => none
    | some (cost, plan) =>
      if fld d0 (36 + x) 1 = 1 ∨ fld d0 (39 + x) 1 = 1 then none
      else
        let h := taskHandle s ctx r x
        match conversion ms ((handleTag s ctx h).toNat / 16) (m.tag x) with
        | none => none
        | some c =>
          if scratchDesc (tileDescOf s ctx (h % 2 ^ 20)) (m.tag x) 0 = none then none
          else some (cost + c.cost, plan ++ [(x, c)])) (some (m.cost, []))

/-- The cheapest feasible candidate, lowest index first (R316). -/
def bestPlan (s : State) (ctx : Nat) (r : Word) (ms : List Method) : Option (List (Nat × Method)) :=
  let key := taskKey s ctx r
  let cs := (ms.filter (fun m => m.op == key % 4096 && m.pres == key / 2 ^ 48)).filterMap (candidate s ctx r ms)
  (cs.foldl (fun best c =>
    match best with
    | none => some c
    | some b => if c.1 < b.1 then some c else some b) (none : Option (Nat × List (Nat × Method)))).map (fun c => c.2)

/-- The procedure of R316 for a READY record. -/
def matchTask (ctx : Nat) (r : Word) (chip : Nat) (s : State) : State :=
  let present := (List.range 4).filter (fun x => taskHandle s ctx r x != 0)
  if present.any (fun x => (findTile s ctx (w64 (taskHandle s ctx r x))).isNone) then noMethod ctx r chip 4 s
  else
    let d0 := tw s ctx r 0
    let ms := methods s ctx
    let stale := (List.range 3).filter (fun x =>
      taskHandle s ctx r x != 0 && fld d0 (36 + x) 1 == 0 && (handleTag s ctx (taskHandle s ctx r x)).getLsbD 3)
    let rescale (x : Nat) : Option Method :=
      let t := (handleTag s ctx (taskHandle s ctx r x)).toNat / 16
      if fld d0 (42 + x) 1 = 1 then none else conversion ms t t
    if stale.any (fun x => (rescale x).isNone) then noMethod ctx r chip 2 (countMalformed ctx s)
    else if stale ≠ [] then
      applyPlan ctx r chip false (stale.filterMap (fun x => (rescale x).map (fun m => (x, m)))) (countMalformed ctx s)
    else
      match exactMatch s ctx chip (taskKey s ctx r) with
      | (some m, s) => setMatched ctx r chip m s
      | (none, s) =>
        if fld (fmode s ctx) 2 1 = 1 then
          hostEvent ⟨3, ctx, true, r, 0⟩
            (mapTask ctx r chip (fun e => some { e with asked := true }) (setTaskState ctx r tUnmatched s))
        else
          match bestPlan s ctx r ms with
          | none => noMethod ctx r chip 1 s
          | some plan => applyPlan ctx r chip true plan s

/-- The host's answer to a no-method event (R319, R330). -/
def answerNoMethod (ctx : Nat) (r : Word) (value : Nat) (s : State) : State :=
  match (List.range 8).find? (fun chip => (taskEnt s ctx r chip).any (fun e => e.asked)) with
  | none => s
  | some chip =>
    if value < (ctxAt s ctx).kernel.methCount ∧ methodBits s ctx value = (true, true) then setMatched ctx r chip value s
    else noMethod ctx r chip 1 s

/-- TASK_READ (R311). -/
def execTaskRead (s : State) : Result :=
  match s.now with
  | some (.taskRead ctx r chip) =>
    .next (
      let s := taken s
      if 8 + chip ∈ s.fencedUnits then holdBack (.taskRead ctx r chip) s
      else if taskState s ctx r ≠ tSubmitted then s
      else if taskPending s ctx r ≠ 0 then setTaskState ctx r tPending s
      else makeReady ctx r chip s)
  | _ => .fault (.noEvent "TASK_READ")

/-- TASK_DECREMENT (R311, R312). -/
def execTaskDecrement (s : State) : Result :=
  match s.now with
  | some (.taskDecrement ctx idx chip) =>
    .next (
      let s := taken s
      let r := taskVa s ctx idx
      let n := taskPending s ctx r
      if n = 0 then s
      else
        let s := setTw0 ctx r 16 16 (n - 1) s
        if n = 1 ∧ taskState s ctx r = tPending then makeReady ctx r chip s else s)
  | _ => .fault (.noEvent "TASK_DECREMENT")

/-- TASK_MATCH (R316): an inserted record goes straight to MATCHED (R317). -/
def execTaskMatch (s : State) : Result :=
  match s.now with
  | some (.taskMatch ctx r chip) =>
    .next (
      let s := taken s
      if 8 + chip ∈ s.fencedUnits then holdBack (.taskMatch ctx r chip) s
      else
      match taskEnt s ctx r chip with
      | none => s
      | some e =>
        if e.matched.isSome ∨ e.asked ∨ e.waits then s
        else
          let s := if taskOp s ctx r = 0xFFF then setMatched ctx r chip (fld (tw s ctx r 7) 8 12) s
            else matchTask ctx r chip s
          offerWork ctx chip s)
  | _ => .fault (.noEvent "TASK_MATCH")

/-! ### Placement (R320 to R322) -/

/-- Claims an array context for a thread (R285). -/
def claimEng (cell e ctx tid core slot : Nat) (s : State) : State :=
  mapEng cell e (fun x => { x with st := .idle, ctx := ctx, tid := tid, core := core, slot := slot, status := 0,
                                   regs := Vector.replicate 7 0 }) s

/-- The first FREE array context of a cell. -/
def freeEng (s : State) (cell : Nat) : Option Nat :=
  if (cellAt s cell).arrFenced then none
  else ((cellAt s cell).eng.toList.zipIdx.find? (fun x => x.1.st == .free)).map (fun x => x.2)

/-- The cores of a cell that hold a handle in a slot that is not empty. -/
def holders (s : State) (cell ctx h : Nat) : List Nat :=
  ((List.range 4).map (fun i => 4 * cell + i)).filter (fun c =>
    (slotOfTile s c ctx (BitVec.ofNat 32 h)).any (fun x => x.2.st != .empty))

/-- The cell order of R320: its class, its mesh hops, its number. DESIGN CHOICE, unsafe: log entry 45. -/
def cellRank (s : State) (ctx chip ref : Nat) (cell : Nat) : Nat :=
  let home := match (if ref = 0 then none else findTile s ctx (w64 ref)) with
    | some (slice, _) => some slice
    | none => none
  let from_ := (home.map (fun h => 4 * h)).getD (tellerCore chip)
  let cls := if ref ≠ 0 ∧ holders s cell ctx ref ≠ [] then 0 else if home = some cell then 1 else 2
  (cls * 1000 + (if cls = 2 then hops (4 * cell) from_ else 0)) * 1000 + cell

/-- The slot a task's thread takes in a cell (R320). -/
def slotInCell (s : State) (ctx ref cell : Nat) : Option Nat :=
  let free (c : Nat) : Option Nat := if coreOpen s c then (vacantIn s c).head? else none
  let hs := if ref = 0 then [] else holders s cell ctx ref
  (hs.findSome? free).or (((List.range 4).map (fun i => 4 * cell + i)).findSome? free)

/-- A context whose collectives' traffic waits for its resume (R373, R414). -/
def away (s : State) (ctx : Nat) : Bool :=
  let c := ctxAt s ctx
  c.st == .saved || c.st == .restoring || (c.st == .stopping && decide (7 ≤ c.gstep))

/-- Whether a context's engines run: while it is resident, and in a stop until its cores have come to rest (R403). -/
def engRuns (s : State) (ctx : Nat) : Bool :=
  let c := ctxAt s ctx
  c.st == .resident || ((c.st == .stopping || c.st == .killing) && decide (c.gstep ≤ 2))

/-- The deferred own copies a placed successor takes over, or which drain because it goes elsewhere (R263). A copy forwarded to another
core keeps its OFFSET there (DESIGN CHOICE, unsafe: log entry 109). -/
def takeDeferred (ctx : Nat) (r : Word) (core : Nat) (s : State) : State :=
  let hs := ((List.range 4).map (taskHandle s ctx r)).filter (fun h => h != 0)
  let ds := s.cores.flatMap (fun c => (c.2.tslots.toList.zipIdx.filter (fun x =>
    x.1.ctx == ctx && x.1.defer && x.1.st == .ready && (x.1.handle.toNat ∈ hs) &&
    ((successors s ctx x.1.task).find? (fun i => (List.range 4).any (fun y =>
      taskHandle s ctx (taskVa s ctx i) y == x.1.handle.toNat))).map (taskVa s ctx) == some r)).map (fun x => (c.1, x.2)))
  ds.foldl (fun s x =>
    let (c, i) := x
    if c = core then mapTslot c i (fun t => { t with defer := false, task := r }) s
    else if c / 4 = core / 4 then
      let q := moveCopy c i core ((coreAt s c).tslots[i]?.getD {}).off r s
      if q.1 then q.2 else giveBack c i false s
    else giveBack c i false s) s

/-- Starts a task's thread in a slot (R321, R322). -/
def startTask (ctx : Nat) (r : Word) (chip p e tid m : Nat) (s : State) : State :=
  let core := p / 16
  let k := (ctxAt s ctx).kernel
  let me_ := rawMethod s ctx m
  let fmtp := if me_.fmti = 0 then 0 else k.fmtBase + w64 (1088 * (me_.fmti - 1))
  let sclp := if me_.scli = 0 then 0 else k.sclBase + w64 (64 * (me_.scli - 1))
  let s := takeTid ctx s
  let d0 := tw s ctx r 0
  let full (v : Word) : GReg := { st := .full, val := v }
  let t : Thread := {
    tid := tid, ctx := ctx, pc := BitVec.ofNat 48 (me_.routine * 4),
    regs := ((((Vector.replicate 28 ({} : GReg)).set 2 (full (k.tstkBase + w64 ((tid + 1) * k.tstkSize)))).set 3
      (full (tw s ctx r 1))).set 4 (full (tw s ctx r 2))).set 5 (full r),
    vecs := Vector.ofFn (fun i : Fin 32 => Config.freeVec s.fresh i.val),
    status := w64 (fld d0 12 2 * 2 ^ 6), fmtp := fmtp, sclp := sclp, task := r, readyAt := s.cycle, floor := s.time8 }
  let s := claimEng (core / 4) e ctx tid core p (setThread (nextFresh s) p t)
  let s := putRec ctx tid (recOf t recResident t.pc) s
  let s := putTaskLink ctx tid r fmtp sclp (markResident p ctx tid s)
  let s := setTaskState ctx r tRunning (putTw ctx r 7 (setFld (tw s ctx r 7) 20 12 (lcoreOf s core)) s)
  let s := trace ctx 4 p core tid (t.pc.zeroExtend 64) r (mapTask ctx r chip (fun _ => none) s)
  takeDeferred ctx r core s

/-- TASK_PLACE (R320): a MATCHED task with no cell stays MATCHED. -/
def execTaskPlace (s : State) : Result :=
  match s.now with
  | some (.taskPlace ctx r chip) =>
    .next (
      let s := taken s
      if 8 + chip ∈ s.fencedUnits then holdBack (.taskPlace ctx r chip) s
      else
      match (taskEnt s ctx r chip).bind (fun e => e.matched), firstTid s ctx with
      | some m, some tid =>
        if !issuing s ctx then s
        else
          let ref := ((List.range 4).find? (fun x => taskHandle s ctx r x != 0)).elim 0 (taskHandle s ctx r)
          let cells := (ctxAt s ctx).cells.filter (fun c => chipOfCell c == chip &&
            (freeEng s c).isSome && (slotInCell s ctx ref c).isSome)
          match leastBy (cellRank s ctx chip ref) cells with
          | none => s
          | some cell =>
            match slotInCell s ctx ref cell, freeEng s cell with
            | some p, some e => startTask ctx r chip p e tid m s
            | _, _ => s
      | _, _ => s)
  | _ => .fault (.noEvent "TASK_PLACE")

/-! ### Instructions (R323 to R327) -/

/-- TASKERR (R327). -/
def taskErr (n : Nat) (s : State) : State := raise .taskerr (w64 n) 0 s

/-- R327 reason 1, then the record's place by the checks of R169. -/
def withRecordAt (r : Word) (s : State) (k : Elem → State → State) : State :=
  if r.toNat % 64 ≠ 0 ∨ !inTable s (me s).ctx r then taskErr 1 s else atHome .write false r 64 s k

def withRecord (r : Word) (s : State) (k : State → State) : State := withRecordAt r s (fun _ s => k s)

/-- R327 reason 3 for task.sub. -/
def reservedInTask (s : State) (ctx : Nat) (r : Word) : Bool :=
  let w (i : Nat) : Word := tw s ctx r i
  let n := w 5
  fld (w 0) 14 2 != 0 || fld (w 0) 45 3 != 0 || fld (w 0) 52 12 != 0 || fld (w 3) 60 4 != 0 || fld (w 4) 40 24 != 0 ||
  fld n 2 2 != 0 || fld n 56 8 != 0 || fld (w 7) 33 31 != 0 || fld n 0 2 == 3 || (fld n 0 2 == 1 && fld n 4 2 != 0)

/-- No teller holds the record any more. -/
def forgetTask (ctx : Nat) (r : Word) (s : State) : State :=
  (List.range 8).foldl (fun s chip => mapTask ctx r chip (fun _ => none) s) s

/-- task.sub (R323). -/
def execTaskSub (d a b : BitVec 5) (ma mb : BitVec 2) (s : State) : Result :=
  let ss := [src a ma, src b mb]
  withOps ss (.reg d.toNat) s (fun vs =>
    acqGate s
      (let r := arg vs 0
       let ctx := (me s).ctx
       withRecord r s (fun s =>
         let st := taskState s ctx r
         let q := fld (arg vs 1) 0 4
         let mask := (rdByte s (ctxField s ctx (0xB0 + q))).toNat
         if st ≠ tIdle ∧ st ≠ tDone ∧ st ≠ tUnmatched then taskErr 2 s
         else if reservedInTask s ctx r ∨ fld (arg vs 1) 4 60 ≠ 0 then taskErr 3 s
         else if taskOp s ctx r = 0xFFF then taskErr 4 s
         else if !((ctxAt s ctx).cells.any (fun c => bits mask (chipOfCell c) 1 == 1)) then taskErr 5 s
         else released 3 s (fun s =>
           let s0 := s
           let s := noteWrite (homeOf r 0) (commit ss s)
           let s := setTaskState ctx r tSubmitted (setTw0 ctx r 32 4 q (forgetTask ctx r s))
           let s := if st = tDone then putTw ctx r 7 0 (setTw0 ctx r 39 6 0 s) else s
           let s := post (.taskRead ctx r (chipOfCore (myCore s))) s
           complete s0 (writeDst d.toNat (w64 (taskIdx s ctx r)) s)))))

/-- Own copies a task leaves behind (R263): deferred for the first successor that names the tile, else drained. -/
def deferOwn (core ctx : Nat) (r : Word) (s : State) : State :=
  (List.range 32).foldl (fun s i =>
    let t := (coreAt s core).tslots[i]?.getD {}
    if t.st = .ready ∧ t.ctx = ctx ∧ t.own ∧ t.mod ∧ t.task = r then
      if (successors s ctx r).any (fun j => (List.range 4).any (fun y =>
          taskHandle s ctx (taskVa s ctx j) y == t.handle.toNat)) then
        after (8 * promoteOf s ctx) (.deferExpiry core i) 
          (mapTslot core i (fun t => { t with defer := true, deferEnd := s.time8 + 8 * promoteOf s ctx }) s)
      else giveBack core i false s
    else s) s

/-- An array context the thread owns is still BUSY (R288). -/
def engBusy (s : State) (core tid ctx : Nat) : Bool :=
  (cellAt s (cellOfCore core)).eng.toList.any (fun e => e.st == .busy && e.tid == tid && e.ctx == ctx)

/-- Parks until the stores of the executing thread are acknowledged (KIND 0x0C reason 3). -/
def parkStores (s : State) : State := park ⟨true, .limit 3, false⟩ (sendMarkers 3 s.cur s)

/-- task.done (R324). -/
def execTaskDone (a b : BitVec 5) (ma mb : BitVec 2) (s : State) : Result :=
  let ss := [src a ma, src b mb]
  withOps ss .none s (fun vs =>
    let t := me s
    let core := myCore s
    let chip := chipOfCore core
    let result := fld (arg vs 0) 0 8
    if arg vs 1 ≠ 0 then
      (if privOf t = 0 then raise .privinst 0 0 s
       else
         acqGate s (withRecord (arg vs 1) s (fun s =>
           if taskState s t.ctx (arg vs 1) ≠ tUnmatched then taskErr 2 s
           else complete s (taskComplete t.ctx (arg vs 1) result 2 chip (forgetTask t.ctx (arg vs 1) (commit ss s))))))
    else if t.task = 0 then taskErr 6 s
    else if !releasedAt s s.cur t ∨ t.acqOut ≠ 0 then parkStores s
    else if engineBusy s t ∨ engBusy s core t.tid t.ctx then park ⟨true, .limit 4, false⟩ s
    else
      let s0 := s
      let s := commit ss s
      let s := releaseCopies core t.tid t.ctx true (releaseEngs core t.tid t.ctx s)
      let s := taskComplete t.ctx t.task result 0 chip (deferOwn core t.ctx t.task s)
      let s := putTaskLink t.ctx t.tid 0 0 0 s
      complete s0 (mapMe (fun t => { t with fmtp := 0, sclp := 0, task := 0 }) s))

/-- task.dep (R325). DEDUCED, unsafe: log entry 43. -/
def execTaskDep (d a b : BitVec 5) (ma mb : BitVec 2) (s : State) : Result :=
  let ss := [src a ma, src b mb]
  withOps ss (.reg d.toNat) s (fun vs =>
    acqGate s
      (let p := arg vs 0
       let q := arg vs 1
       let ctx := (me s).ctx
       withRecord p s (fun s => withRecord q s (fun s =>
         if taskState s ctx q ≠ tIdle ∧ p ≠ q then taskErr 2 s
         else if p = q then taskErr 7 s
         else if taskPending s ctx q = 0xFFFF then taskErr 8 s
         else
           let s0 := s
           let s := commit ss s
           if taskState s ctx p = tDone then complete s0 (writeDst d.toNat 1 s)
           else
             match (succFields s ctx p).find? (fun f => fieldIdx s ctx f == 0) with
             | none => complete s0 (writeDst d.toNat 2 s)
             | some (r, i, lo) =>
               let s := setTw0 ctx q 16 16 (taskPending s ctx q + 1) s
               let s := putTw ctx r i (setFld (tw s ctx r i) lo 20 (taskIdx s ctx q)) s
               complete s0 (writeDst d.toNat 0 s)))))

/-- task.info (R326): the selector is checked first, the reserved bits of G[b] after the record's address (R327). Selector 1 is an
acquire at device scope, held while the record's lines have invalidations outstanding (R104).
DEDUCED, unsafe: log entry 68. -/
def execTaskInfo (d a b : BitVec 5) (ma mb : BitVec 2) (s : State) : Result :=
  let ss := [src a ma, src b mb]
  withOps ss (.reg d.toNat) s (fun vs =>
    acqGate s
      (let r := arg vs 0
       let ctx := (me s).ctx
       let more := fld (arg vs 1) 4 60 != 0
       match fld (arg vs 1) 0 4 with
       | 0 => if more then taskErr 3 s else complete s (writeDst d.toNat (me s).task (commit ss s))
       | 1 => withRecordAt r s (fun e s =>
         if more then taskErr 3 s
         else if acqHeld 1 e s then waitRetry s
         else
           let d0 := tw s ctx r 0
           let d7 := tw s ctx r 7
           let v := fld d0 48 4 + fld d0 16 16 * 2 ^ 4 + fld d7 0 8 * 2 ^ 20 + fld d7 8 12 * 2 ^ 28 + fld d7 32 1 * 2 ^ 40 +
             fld d0 39 3 * 2 ^ 41 + fld d0 42 3 * 2 ^ 44
           complete s (raiseFloor 1 (writeDst d.toNat (w64 v) (commit ss s))))
       | 2 => withRecord r s (fun s =>
         if more then taskErr 3 s
         else
           let e := (List.range 8).findSome? (fun chip => taskEnt s ctx r chip)
           let v := match e with
             | some e => if taskState s ctx r = tReady then effPrio s ctx e else 0
             | none => 0
           complete s (writeDst d.toNat (w64 v) (commit ss s)))
       | _ => taskErr 3 s))

end Sys2Proof.Machine
end

