-- ==== Sys2Proof/Machine/Thread.lean ====
section
/-!
DEFINITION. The thread's instructions (05 R146 to R152), and the events that move a thread between its forms: wakes,
write-out, pools, migration.
-/
namespace Sys2Proof.Machine

/-! ### spawn, yield, quit, susp, tid, migr, repart -/

/-- The record of a spawned thread (R146). -/
def spawnRec (t : Thread) (entry : Word) (args : List Word) (state : Nat) : List Word :=
  [recWord0 (BitVec.ofNat 48 entry.toNat) state (prioOf t) 15 false (migOf t) false (privOf t == 1), 0xFFFF] ++ args ++ [0, 0]

/-- A machine-level thread spawned into a slot (R146). -/
def machineThread (t : Thread) (tid : Nat) (entry : Word) (args : List Word) (s : State) : Thread :=
  let reg (i : Nat) : GReg := if 2 ≤ i ∧ i < 6 then { st := .full, val := args[i - 2]?.getD 0 } else undefReg s i
  { tid := tid, ctx := t.ctx, pc := BitVec.ofNat 48 entry.toNat, regs := Vector.ofFn (fun i : Fin 28 => reg i.val),
    vecs := Vector.ofFn (fun i : Fin 32 => Config.freeVec s.fresh i.val),
    status := w64 (3 + b2n (migOf t) * 4 + prioOf t * 64), readyAt := s.cycle, floor := s.time8 }

/-- spawn (R146). The info of its MISALIGN is G[b], as its pseudocode gives it (DESIGN CHOICE, unsafe: log entry 81). -/
def execSpawn (d a b : BitVec 5) (ma mb : BitVec 2) (s : State) : Result :=
  let ss := [src a ma, src b mb]
  withOps ss (.reg d.toNat) s (fun vs =>
    acqGate s
      (let entry := arg vs 0
       let args := arg vs 1
       let t := me s
       let core := myCore s
       if badTarget entry.toNat then raise .misfetch 0 entry s
       else if args.toNat % 8 ≠ 0 then raise .misalign args args s
       else
         match firstTid s t.ctx with
         | none => complete s (writeDst d.toNat (BitVec.allOnes 64) (commit ss s))
         | some n =>
           match plan .read false false ((List.range 4).map (fun i => (i, args + w64 (8 * i), 8))) s with
           | .stop s => s
           | .go es =>
             let vacant := (openIn s core).head?
             if privOf t = 3 ∧ vacant = none then
               complete s (writeDst d.toNat (BitVec.ofInt 64 (-2)) (commit ss s))
             else released 3 s (fun s =>
               let q := es.foldl (fun r e =>
                 (let x := prepFor t.ctx (homeOf e.va e.pa) (e.pa / 32) none .read r.2; (r.1 && x.1, x.2))) (true, s)
               if q.1 = false then waitRetry q.2
               else
                 let s0 := q.2
                 let s := commit ss q.2
                 let vals := es.map (fun e => rd64 s e.pa)
                 let s := takeTid t.ctx s
                 let s :=
                   if privOf t = 3 then
                     (match vacant with
                      | some p =>
                        markResident p t.ctx n (setThread (nextFresh (putRec t.ctx n (spawnRec t entry vals recResident) s)) p
                          (machineThread t n entry vals s))
                      | none => s)
                   else
                     let s := putRec t.ctx n (spawnRec t entry vals recReadyReissue) s
                     match vacant with
                     | some p => resumeInto p t.ctx n noBinds s
                     | none => enterPool t.ctx n core (prioOf t) s
                 complete s0 (writeDst d.toNat (w64 n) s))))

/-- The lowest register in state X and the fault it holds (R147, R149). -/
def lowestHeld (t : Thread) : Option (Nat × HeldFault) :=
  t.regs.toList.zipIdx.findSome? (fun x => if x.1.st = .failed then x.1.held.map (fun f => (x.2, f)) else none)

/-- What a thread waits for before it leaves its slot (R147, R149, R288, R332): its stores and posted producers, its
array contexts, its copy contexts. -/
def leaveWait (s : State) (p : Nat) (t : Thread) : Option Nat :=
  let core := p / 16
  if !releasedAt s p t || t.acqOut != 0 then some 3
  else if t.regs.toList.any (fun g => g.st == .pending) then some 3
  else if engBusy s core t.tid t.ctx then some 4
  else if copyBusy s core t.tid t.ctx then some 5
  else none

/-- yield (R147, R144, R236). -/
def execYield (s : State) : Result :=
  withOps [] .none s (fun _ =>
    let t := me s
    let core := myCore s
    let pool := (ctxAt s t.ctx).pool
    let work := (List.range 4).any (fun p => decide (prioOf t ≤ p) && pool.get [] (poolKey (chipOfCore core) p) != [])
    if !work ∨ pinOf t ∨ privOf t = 3 ∨ (slotAt s s.cur).mailbox ≠ [] then complete s s
    else
      match leaveWait s s.cur t with
      | some n => park ⟨true, .limit n, false⟩ (sendMarkers 3 s.cur s)
      | none =>
        match lowestHeld t with
        | some (r, f) => raiseHeld r f s
        | none =>
          if atTop s then raise .misfetch 0 (w64 (2 ^ 48)) s
          else inFlight (.leaving recReadyReissue) s)

/-- The thread of a slot ends (R148): a task not ended by task.done is abandoned (R324). -/
def endThread (p : Nat) (s : State) : State :=
  match threadAt s p with
  | none => s
  | some t =>
    let core := p / 16
    let s := dropArms core t.tid t.ctx (releaseCopies core t.tid t.ctx true (releaseEngs core t.tid t.ctx s))
    let s := mapThread p (fun t => { t with binds := noBinds }) s
    let s := if t.task = 0 then s
      else putTaskLink t.ctx t.tid 0 0 0 (taskComplete t.ctx t.task 0xFF 1 (chipOfCore core) s)
    let s := setRecState t.ctx t.tid recFree (freeSlot p t.ctx s)
    let s := purgePosted ⟨p, t.ctx, t.tid⟩ s
    let c := ctxAt s t.ctx
    freeEnded t.ctx t.tid core (post (.retire t.ctx) (setCtx s t.ctx { c with ending := c.ending ++ [(t.tid, core)] }))

/-- quit (R148). -/
def execQuit (s : State) : Result := withOps [] .none s (fun _ => endThread s.cur s)

/-- susp (R149, R144, R236). With nothing to take, the thread is written out where its pass ends (endPass). -/
def execSusp (s : State) : Result :=
  withOps [] .none s (fun _ =>
    let t := me s
    let p := s.cur
    if privOf t = 3 then raise .privinst 0 0 s
    else if !releasedAt s p t ∨ t.acqOut ≠ 0 ∨ t.regs.toList.any (fun g => g.st == .pending) then
      park ⟨true, .limit 3, false⟩ (sendMarkers 3 p s)
    else
      match lowestHeld t with
      | some (r, f) => raiseHeld r f s
      | none =>
        let sl := slotAt s p
        match sl.latch, sl.mailbox with
        | some m, _ => complete s (mapMe (tookMsg s m) (setSlot s p { sl with latch := none }))
        | none, m :: rest => complete s (takeMail m rest s)
        | none, [] =>
          match leaveWait s p t with
          | some n => park ⟨true, .limit n, false⟩ s
          | none =>
            if atTop s then raise .misfetch 0 (w64 (2 ^ 48)) s
            else inFlight (.leaving recWaitMsg) s)
where
  /-- The oldest mailbox entry is delivered and the oldest sender for the slot is woken (R235). -/
  takeMail (m : Msg) (rest : List Msg) (s : State) : State :=
    let p := s.cur
    let core := myCore s
    let s := setSlot s p { slotAt s p with mailbox := rest }
    let s := mapMe (tookMsg s m) s
    let c := coreAt s core
    match c.senders.find? (fun x => x.target == p) with
    | some x =>
      sendWake ⟨x.slot, x.ctx, x.tid⟩ (hwMsg 7 (fld x.word 0 56)) (setCore s core { c with senders := c.senders.erase x })
    | none => s

/-- A susp or a yield leaves the pipeline (R138, R147, R149): a message that came meanwhile completes a susp, and keeps a
yield in its slot (R236); else the thread is written out. -/
def leavePass (p state : Nat) (s : State) : State :=
  match threadAt s p with
  | none => s
  | some t =>
    let s := { s with cur := p }
    let sl := slotAt s p
    if state = recWaitMsg then
      match sl.latch, sl.mailbox with
      | some m, _ => advance (mapMe (tookMsg s m) (setSlot s p { sl with latch := none }))
      | none, m :: rest => advance (execSusp.takeMail m rest s)
      | none, [] => writeOut p t recWaitMsg (pcNext t.pc) s
    else if sl.mailbox ≠ [] then advance s
    else enterPool t.ctx t.tid (p / 16) (prioOf t) (writeOut p t state (pcNext t.pc) s)

/-- A migration leaves the pipeline (R138, R139, R151), if its thread is still eligible: else migr answers 2, and an access is
tried again, to be made remotely. -/
def depart (p target : Nat) (migr : Option Nat) (s : State) : State :=
  match threadAt s p with
  | none => s
  | some t =>
    let s := { s with cur := p }
    match migr with
    | some d => if eligible s p t then sendMigrant target (pcNext t.pc) (some d) s else advance (mapMe (setFull d 2) s)
    | none => if eligible s p t then sendMigrant target t.pc none s else setThread s p { t with form := .inFlight .retry, readyAt := s.cycle, stay := true }

/-- The pass of a slot's instruction has ended (R127, R138): its outcome is decided, and a park begins. A repart's core takes work again
(R152). -/
def endPass (p : Nat) (s : State) : State :=
  match threadAt s p with
  | none => s
  | some t =>
    if inPass s t then s
    else
      let c := coreAt s (p / 16)
      let s := if c.closed then
          (chipCores s t.ctx (chipOfCore (p / 16))).head?.elim id (fun _ => offerWork t.ctx (chipOfCore (p / 16)))
            (setCore s (p / 16) { c with closed := false })
        else s
      let s := match t.form with
        | .parked _ => setThread s p { t with parkT := s.time8 }
        | _ => s
      match t.form with
      | .parked k =>
        (match k.why, (slotAt s p).latch, (slotAt s p).mailbox with
         | .recv, none, m :: rest => advance (execSusp.takeMail m rest { s with cur := p })
         | _, _, _ => consumeLatch p k s)
      | .inFlight (.leaving st) => leavePass p st s
      | .inFlight (.departing c m) => depart p c m s
      | _ => s

/-- tid (R150). -/
def execTid (d : BitVec 5) (s : State) : Result :=
  computes [] d (fun _ => w64 ((me s).tid + s.cur % 16 * 2 ^ 20 + lcoreOf s (myCore s) * 2 ^ 24)) s

/-- migr (R151). The info of its BADADDR is n, as its pseudocode gives it (DESIGN CHOICE, unsafe: log entry 81). -/
def execMigr (d a : BitVec 5) (ma : BitVec 2) (s : State) : Result :=
  let ss := [src a ma]
  withOps ss (.reg d.toNat) s (fun vs =>
    acqGate s
      (let n := arg vs 0
       let t := me s
       let core := myCore s
       let target := if coreCount s t.ctx ≤ n.toNat then none else physCore s t.ctx n.toNat
       match target with
       | none => raise .badaddr n n s
       | some c =>
         if c = core then complete s (writeDst d.toNat 3 (commit ss s))
         else
           let s' := commit ss s
           if sqOf s core (myThr s) = [] ∧ !releasedAt s s.cur t then released 3 s (fun s => s)
           else if !eligible s' s.cur (me s') then complete s (writeDst d.toNat 2 s')
           else if atTop s then raise .misfetch 0 (w64 (2 ^ 48)) s
           else
             let s := mapMe (setFull d.toNat 0) s'
             inFlight (.departing c (some d.toNat)) s))

/-- The vector registers a partition shows (R35). -/
def visibleVecs (part : Nat) : Nat := 128 / part

/-- repart (R152). -/
def execRepart (a : BitVec 5) (ma : BitVec 2) (s : State) : Result :=
  needPriv 1 s
    (let ss := [src a ma]
     withOps ss .none s (fun vs =>
      let n := (arg vs 0).toNat
      let core := myCore s
      let c := coreAt s core
      let t := me s
      if n ≠ 4 ∧ n ≠ 8 ∧ n ≠ 16 then raise .badopnd (arg vs 0) 0 s
      else
        let others := (List.range 16).any (fun i => 16 * core + i != s.cur && (slotAt s (16 * core + i)).occ != .vacant)
        let busy := b2n (s.cur % 16 != 0) + 2 * b2n others + 4 * b2n (decide (c.arrivals ≠ 0) || c.fwd != []) +
          8 * b2n (sqOf s core (myThr s) != [] || engineBusy s t)
        if busy ≠ 0 then raise .partbusy (w64 busy) 0 s
        else
          let s' := commit ss s
          let s' := setCore s' core { coreAt s' core with part := n, closed := !atTop s && inPass s t }
          complete s (mapMe (fun t => { t with
            vecs := Vector.ofFn (fun i : Fin 32 => if i.val < visibleVecs n then 0 else t.vecs[i.val]),
            status := setFld t.status 4 1 0 }) s')))

/-! ### Wakes (R129, R130, R408) -/

/-- A wake at a slot sets its latch, or is counted (R129). -/
def latchWake (p : Nat) (m : Msg) (s : State) : State :=
  match (slotAt s p).latch with
  | none => noteSlot p (setSlot s p { slotAt s p with latch := some m })
  | some _ => countDrop (p / 16) s

/-- A wake offered to a resident thread (R129, R138): it ends a park, else it sets the latch, else it is counted. An
instruction in its pass has not parked yet. -/
def offerWake (p : Nat) (t : Thread) (m : Msg) (s : State) : State :=
  match t.form with
  | .parked k => if inPass s t then latchWake p m s else endPark p k m s
  | _ => latchWake p m s

/-- WAKE_AT_SLOT (R129, R138). Before a stop has saved the slot, the wake is latched (R414). -/
def execWakeAtSlot (s : State) : Result :=
  match s.now with
  | some (.wakeAtSlot th m) =>
    .next (
      let s := taken s
      match threadAt s th.slot with
      | some t =>
        let c := ctxAt s th.ctx
        let stops : Bool := c.st == .stopping && decide (c.gstep ≤ 8)
        if !holds s th ∨ t.form = .inFlight .migrate ∨ (c.st ≠ .resident ∧ stops = false) then post (.wakeAtRecord th m) s
        else if stops then latchWake th.slot m s
        else offerWake th.slot t m s
      | none => post (.wakeAtRecord th m) s)
  | _ => .fault (.noEvent "WAKE_AT_SLOT")

/-- WAKE_AT_RECORD (R130, R408). -/
def execWakeAtRecord (s : State) : Result :=
  match s.now with
  | some (.wakeAtRecord th m) =>
    .next (
      let s := taken s
      let ctx := th.ctx
      let st := recState s ctx th.tid
      if st = recResident ∨ st = recMigrant then
        if !issuing s ctx then holdWake ctx th.tid m s
        else
          let p := fld (recWord s ctx th.tid 6) 0 16
          if st = recResident ∧ holds s ⟨p, ctx, th.tid⟩ then post (.wakeAtSlot ⟨p, ctx, th.tid⟩ m) s
          else holdBack (.wakeAtRecord th m) s
      else if st = recWaitMsg then
        let ws := msgWords m
        let s := vput ctx (recVa s ctx th.tid + 48) (wordsBytes ws) s
        recReady ctx th.tid (setRecState ctx th.tid recReadyMsg s)
      else if st = recWaitReissue then recReady ctx th.tid (setRecState ctx th.tid recReadyReissue s)
      else if st = recReadyMsg ∨ st = recReadyReissue then countDrop (th.slot / 16) s
      else s)
  | _ => .fault (.noEvent "WAKE_AT_RECORD")

/-! ### Write-out and pools (R132, R136, R137) -/

/-- PARKLIM in ticks; none where write-out is disabled (R131). -/
def parklimOf (s : State) (ctx : Nat) : Option Nat :=
  let w := (ctxAt s ctx).parklim
  if w = BitVec.allOnes 64 then none else some (Nat.max 1000 w.toNat)

/-- Whether the thread of a slot is written out now (R132, R236, R288, R332). -/
def mayWriteOut (s : State) (p : Nat) (t : Thread) : Bool :=
  let core := p / 16
  match t.form with
  | .parked k =>
    (parklimOf s t.ctx).any (fun l => decide (8 * l ≤ s.time8 - t.parkT)) && issuing s t.ctx &&
    !pinOf t && !keepOf t && privOf t != 3 &&
    (match k.why with | .queue _ _ => false | _ => true) && !t.inBlk &&
    t.regs.toList.all (fun g => g.st != .pending && g.st != .failed) && sqOf s core ⟨p, t.ctx, t.tid⟩ == [] &&
    (slotAt s p).mailbox == [] && !ownsEngine s core t.tid t.ctx && !copyBusy s core t.tid t.ctx
  | _ => false

/-- PARKLIM_WRITE_OUT (R132). -/
def execParklimWriteOut (s : State) : Result :=
  match s.now with
  | some (.parklimWriteOut p) =>
    .next (
      let s := taken s
      match threadAt s p with
      | some t =>
        if mayWriteOut s p t then
          match t.form with
          | .parked k =>
            if k.completes ∧ t.pc ≠ topPc then writeOut p t recWaitMsg (pcNext t.pc) s else writeOut p t recWaitReissue t.pc s
          | _ => s
        else s
      | none => s)
  | _ => .fault (.noEvent "PARKLIM_WRITE_OUT")

/-- The vacant slots of a context on a chiplet that take work (R136). -/
def openSlots (s : State) (ctx chip : Nat) : List Nat :=
  ((chipCores s ctx chip).filter (coreOpen s)).flatMap (vacantIn s)

/-- POOL_PICKUP (R136): the pool first, teller work when it is empty. -/
def execPoolPickup (s : State) : Result :=
  match s.now with
  | some (.poolPickup ctx chip) =>
    .next (
      let s := taken s
      if !issuing s ctx then s
      else
        let c := ctxAt s ctx
        match [3, 2, 1, 0].findSome? (fun p => ((c.pool.get [] (poolKey chip p)).head?).map (fun e => (p, e))) with
        | none => if openSlots s ctx chip = [] then s else tellerOffer ctx chip s
        | some (prio, e) =>
          match leastBy (fun p => hops (p / 16) e.core * 65536 + p) (openSlots s ctx chip) with
          | none => s
          | some p =>
            let k := poolKey chip prio
            let s := setCtx s ctx { c with pool := c.pool.put [] k (c.pool.get [] k).tail }
            offerWork ctx chip (resumeInto p ctx e.tid noBinds s))
  | _ => .fault (.noEvent "POOL_PICKUP")

/-- PROMOTE_AGING (R137): entries that have waited PROMOTE at a priority move to the tail of the next. -/
def execPromoteAging (s : State) : Result :=
  match s.now with
  | some (.promoteAging ctx chip) =>
    .next (
      let s := taken s
      [2, 1, 0].foldl (fun s prio =>
        let c := ctxAt s ctx
        let due (e : PoolEnt) : Bool := decide (e.since + promoteOf s ctx ≤ tick s)
        let l := c.pool.get [] (poolKey chip prio)
        let up := l.filter due
        if up = [] then s
        else
          let p := c.pool.put [] (poolKey chip prio) (l.filter (fun e => !due e))
          let k := poolKey chip (prio + 1)
          let s := setCtx s ctx { c with pool := p.put [] k (p.get [] k ++ up.map (fun e => { e with since := tick s })) }
          up.foldl (fun s e => writePool ctx k e.tid s) s) s)
  | _ => .fault (.noEvent "PROMOTE_AGING")

/-! ### Migration (R142, R143) -/

/-- A migrant's thread at its target (R142): g24 to g27 are empty, their values undefined (R3, R40), the trap registers 0, the
task reloaded (R322). -/
def arrived (s : State) (m : Migrant) : Thread :=
  let reg (i : Nat) : GReg :=
    match m.states[i]? with
    | some 1 => { st := .full, val := m.regs[i]?.getD 0 }
    | some 2 => { st := .pending, val := m.regs[i]?.getD 0 }
    | some _ => { val := m.regs[i]?.getD 0 }
    | none => undefReg s i
  { tid := m.tid, ctx := m.ctx, pc := m.pc, regs := Vector.ofFn (fun i : Fin 28 => reg i.val),
    vecs := Vector.ofFn (fun i : Fin 32 => Config.freeVec s.fresh i.val),
    k1 := BitVec.ofNat 16 (fld m.pred 16 16), k2 := BitVec.ofNat 16 (fld m.pred 32 16),
    k3 := BitVec.ofNat 16 (fld m.pred 48 16),
    status := w64 (b2n m.supervisor + b2n m.mig * 4 + b2n m.keep * 32 + m.prio.toNat * 64), fstat := m.fstat,
    task := v64 s m.ctx (taskLink s m.ctx m.tid), fmtp := v64 s m.ctx (taskLink s m.ctx m.tid + 8),
    sclp := v64 s m.ctx (taskLink s m.ctx m.tid + 16), readyAt := s.cycle, floor := s.time8,
    noMerge := ((ctxAt s m.ctx).carried.get (false, 0) m.tid).1, seenEnergy := ((ctxAt s m.ctx).carried.get (false, 0) m.tid).2 }

/-- MIGRANT_ARRIVAL (R142): one of 4 arrival entries and a vacant slot, or a refusal. -/
def execMigrantArrival (s : State) : Result :=
  match s.now with
  | some (.migrantArrival m) =>
    .next (
      let s := taken s
      let c := coreAt s m.target
      match (if c.arrivals < 4 ∧ !routeFenced s (m.origin / 16) m.target ∧ coreOpen s m.target then (vacantIn s m.target).head? else none) with
      | some p =>
        let s := setCore s m.target { c with arrivals := c.arrivals + 1 }
        let s := setSlot s p { slotAt s p with occ := .forArrival m.tid m.ctx }
        postOrd m.target (m.origin / 16) (.migrantAccepted m p) s
      | none => postOrd m.target (m.origin / 16) (.migrantRefused m) s)
  | _ => .fault (.noEvent "MIGRANT_ARRIVAL")

/-- MIGRANT_ACCEPTED (R142): the record names the new slot, the origin slot is freed, forwarding entries take their
target, and the thread is ready in the new slot. -/
def execMigrantAccepted (s : State) : Result :=
  match s.now with
  | some (.migrantAccepted m p) =>
    .next (
      let s := taken s
      let origin := m.origin / 16
      let s := dropArms origin m.tid m.ctx (releaseCopies origin m.tid m.ctx false s)
      let c := coreAt s origin
      let mine (f : Fwd) : Bool := f.tid == m.tid && f.ctx == m.ctx && f.slot == m.origin && f.target.isNone
      let held := c.fwd.filter (fun f => mine f && f.held.isSome)
      let s := setCore s origin { c with
        fwd := (c.fwd.filter (fun f => !(mine f && f.held.isSome))).map (fun f => if mine f then { f with target := some p } else f) }
      let s := held.foldl (fun s f => match f.held with
        | some v => postOrd origin (p / 16) (.forwardedValue origin ⟨p, m.ctx, m.tid⟩ f.reg v) s
        | none => s) s
      let s := freeSlot m.origin m.ctx s
      let s := nextFresh (markResident p m.ctx m.tid (setThread s p (arrived s m)))
      let s := setCtx s m.ctx { ctxAt s m.ctx with carried := (ctxAt s m.ctx).carried.del m.tid }
      let k := coreAt s m.target
      let s := setCore s m.target { k with arrivals := k.arrivals - 1 }
      trace m.ctx 3 p m.target m.tid (m.pc.zeroExtend 64) (w64 (lcoreOf s m.target)) s)
  | _ => .fault (.noEvent "MIGRANT_ACCEPTED")

/-- MIGRANT_REFUSED (R138, R142, R143): the thread goes on at its origin, in flight: migr answers 1, an access is made
remotely. -/
def execMigrantRefused (s : State) : Result :=
  match s.now with
  | some (.migrantRefused m) =>
    .next (
      let s := taken s
      let core := m.origin / 16
      let c := coreAt s core
      let mine (f : Fwd) : Bool := f.tid == m.tid && f.ctx == m.ctx && f.slot == m.origin && f.target.isNone
      let held := c.fwd.filter (fun f => mine f && f.held.isSome)
      let s := setCore s core { c with fwd := c.fwd.filter (fun f => !mine f) }
      let th : Thr := ⟨m.origin, m.ctx, m.tid⟩
      let s := markResident m.origin m.ctx m.tid s
      let s := held.foldl (fun s f => match f.held with
        | some v => fillReg th f.reg v s
        | none => s) s
      withThr th s (fun s =>
        match m.migr with
        | some d => advance (mapMe (setFull d 1) s)
        | none => mapMe (fun t => { t with form := .inFlight .retry, readyAt := s.cycle, stay := true }) s))
  | _ => .fault (.noEvent "MIGRANT_REFUSED")

end Sys2Proof.Machine
end

