-- ==== Sys2Proof/Machine/Queue.lean ====
section
/-!
DEFINITION. Queue names and mailboxes (09 R228 to R246): the instructions of majors 0x31 and 0x32, and the messages and
replies of send and sendg.
-/
namespace Sys2Proof.Machine

/-! ### send, sendg, recv, rpeek -/

/-- The message a send carries (R229, R238). DEDUCED, unsafe: log entry 50. -/
def sendMsg (wake : Bool) (sender : Thr) (lcore : Nat) (x : Word) : Msg :=
  let k := fld x 0 8
  if wake ∧ (k = 1 ∨ k = 2 ∨ k = 3) then hwMsg k (fld x 8 48)
  else ⟨BitVec.ofNat 8 (if wake then 0x11 else 0x10), BitVec.ofNat 56 (sender.tid + lcore * 2 ^ 20), x⟩

/-- send (R238): its own checks, the release, the message; the thread stays in flight until the reply. The info of its BADADDR is
tg, as its pseudocode gives it (DESIGN CHOICE, unsafe: log entry 81). -/
def execSend (d a b : BitVec 5) (ma mb : BitVec 2) (s : State) : Result :=
  let ss := [src a ma, src b mb]
  withOps ss (.reg d.toNat) s (fun vs =>
    acqGate s
      (let tg := arg vs 0
       let wake := fld tg 62 1 == 1
       let t := me s
       let core := myCore s
       if wake ∧ privOf t = 0 then raise .privinst 0 0 s
       else if fld tg 36 26 ≠ 0 then raise .badopnd tg 0 s
       else
         match physCore s t.ctx (fld tg 24 12) with
         | none => raise .badaddr tg tg s
         | some c => released 3 s (fun s =>
           if atTop s then raise .misfetch 0 (w64 (2 ^ 48)) s
           else
             let th := myThr s
             let p : Post :=
               { byslot := fld tg 63 1 == 1, wake := wake, group := false,
                 dest := ⟨16 * c + fld tg 20 4, t.ctx, fld tg 0 20⟩,
                 m := sendMsg wake th (lcoreOf s core) (arg vs 1), sender := th, target := tg }
             postOrd core c (.mailboxMessage p)
               (inFlight (.reply d.toNat (takesOf ss) (popsTaken ss s)) (reserve d.toNat (takePops ss s))))))

/-- sendg (R239): one message to the same slot of every member. -/
def execSendg (d a b : BitVec 5) (ma mb : BitVec 2) (s : State) : Result :=
  let ss := [src a ma, src b mb]
  withOps ss (.reg d.toNat) s (fun vs =>
    acqGate s
      (let w := arg vs 0
       let t := me s
       let core := myCore s
       match (if fld w 12 52 ≠ 0 then none else grpMembers s t.ctx (fld w 0 8)) with
       | none => raise .badopnd w 0 s
       | some ms => released 3 s (fun s =>
         if atTop s then raise .misfetch 0 (w64 (2 ^ 48)) s
         else
           let th := myThr s
           let cores := ms.filterMap (physCore s t.ctx)
           if cores = [] then complete s (writeDst d.toNat 0 (commit ss s))
           else
             let m : Msg := ⟨0x12, BitVec.ofNat 56 (th.tid + lcoreOf s core * 2 ^ 20 + fld w 0 8 * 2 ^ 32), arg vs 1⟩
             cores.foldl (fun s c => postOrd core c (.mailboxMessage
                 { byslot := true, wake := false, group := true, dest := ⟨16 * c + fld w 8 4, t.ctx, 0⟩, m := m,
                   sender := th, target := w }) s)
               (inFlight (.members d.toNat cores.length 0) (reserve d.toNat (commit ss s))))))

/-- recv (R240). -/
def execRecv (s : State) : Result :=
  withOps [] .none s (fun _ =>
    let sl := slotAt s s.cur
    match sl.latch, sl.mailbox with
    | some m, _ => complete s (mapMe (tookMsg s m) (setSlot s s.cur { sl with latch := none }))
    | none, m :: rest => complete s (execSusp.takeMail m rest s)
    | none, [] => park ⟨false, .recv, true⟩ s)

/-- rpeek (R241). -/
def execRpeek (d : BitVec 5) (s : State) : Result :=
  computes [] d (fun _ =>
    let sl := slotAt s s.cur
    let kind := match sl.latch, sl.mailbox with
      | some m, _ => m.kind.toNat
      | none, m :: _ => m.kind.toNat
      | none, [] => 0
    w64 (sl.mailbox.length + b2n sl.latch.isSome * 2 ^ 3 + kind * 2 ^ 4)) s

/-- Answers a send or a member of a sendg, on the ordered class. 4: its sender was queued (R235). -/
def answerSend (p : Post) (core status : Nat) (s : State) : State :=
  postOrd core (p.sender.slot / 16)
    (if p.group then .sendgMemberReply p.sender (status == 0) else .sendReply p.sender status) s

/-- A message at the slot that holds its thread (R235); a wake that comes during a stop is latched (R414). A sender woken for room that finds the mailbox full again enters the
sender queue at its tail (DESIGN CHOICE, unsafe: log entry 82). -/
def mailAt (p : Post) (slot : Nat) (t : Thread) (s : State) : State :=
  let core := slot / 16
  if p.wake then answerSend p core 0 (if issuing s t.ctx then offerWake slot t p.m s else latchWake slot p.m s)
  else
    let sl := slotAt s slot
    match t.form with
    | .parked k =>
      if k.why = .recv ∧ sl.mailbox = [] ∧ sl.latch = none ∧ !inPass s t then answerSend p core 0 (endPark slot k p.m s)
      else append p core slot sl s
    | _ => append p core slot sl s
where
  append (p : Post) (core slot : Nat) (sl : Slot) (s : State) : State :=
    if sl.mailbox.length < 4 then
      answerSend p core 0 (noteSlot slot (setSlot s slot { sl with mailbox := sl.mailbox ++ [p.m] }))
    else if p.group then answerSend p core 3 s
    else
      let c := coreAt s core
      if c.senders.length < 16 then
        answerSend p core 4 (setCore s core { c with senders := c.senders ++
          [{ tid := p.sender.tid, ctx := p.sender.ctx, slot := p.sender.slot, target := slot, word := p.target }] })
      else answerSend p core 3 s

/-- A message whose thread is not in the slot: it acts by the record's STATE (R130, R238). It is forwarded, or kept back while the
thread moves, in the order of its pair (R107, R237). -/
def mailAtRecord (p : Post) (s : State) : State :=
  let ctx := p.dest.ctx
  let tid := p.dest.tid
  let core := p.dest.slot / 16
  if thrMax s ctx ≤ tid then answerSend p core 2 s
  else
    let st := recState s ctx tid
    if st = recResident ∨ st = recMigrant then
      let slot := fld (recWord s ctx tid 6) 0 16
      let earlier := s.held.any (fun f => f.chan == some (p.sender.slot / 16, core) &&
        (match f.ev with
         | .mailboxMessage q => q.dest.tid == tid && q.dest.ctx == ctx
         | _ => false))
      if st = recResident ∧ holds s ⟨slot, ctx, tid⟩ ∧ !earlier then
        postOrd core (slot / 16) (.mailboxMessage { p with dest := ⟨slot, ctx, tid⟩ }) s
      else holdIn (p.sender.slot / 16, core) (.mailboxMessage p) s
    else if st = recWaitMsg then
      let s := vput ctx (recVa s ctx tid + 48) (wordsBytes (msgWords p.m)) s
      answerSend p core 1 (recReady ctx tid (setRecState ctx tid recReadyMsg s))
    else if st = recWaitReissue ∧ p.wake then
      answerSend p core 1 (recReady ctx tid (setRecState ctx tid recReadyReissue s))
    else answerSend p core 2 (if p.wake ∧ (st = recReadyMsg ∨ st = recReadyReissue) then countDrop core s else s)

/-- MAILBOX_MESSAGE (R235, R238, R239). -/
def execMailboxMessage (s : State) : Result :=
  match s.now with
  | some (.mailboxMessage p) =>
    .next (
      let s := taken s
      let slot := p.dest.slot
      match threadAt s slot with
      | some t =>
        if p.byslot then (if t.ctx = p.dest.ctx ∧ t.form ≠ .inFlight .migrate then mailAt p slot t s else answerSend p (slot / 16) 2 s)
        else if holds s p.dest ∧ t.form ≠ .inFlight .migrate then mailAt p slot t s
        else mailAtRecord p s
      | none => if p.byslot then answerSend p (slot / 16) 2 s else mailAtRecord p s)
  | _ => .fault (.noEvent "MAILBOX_MESSAGE")

/-- SEND_REPLY (R238): the status, or the sender parks to be reissued when the mailbox has room. -/
def execSendReply (s : State) : Result :=
  match s.now with
  | some (.sendReply th status) =>
    .next (withThr th (taken s) (fun s =>
      match (me s).form with
      | .inFlight (.reply d takes undo) =>
        if status = 4 then park ⟨false, .sender, false⟩ (abandon s)
        else
          advance (endPops undo (writeDst d (w64 status) (takeRegs takes (unreserve d s))))
      | _ => s))
  | _ => .fault (.noEvent "SEND_REPLY")

/-- SENDG_MEMBER_REPLY (R239). -/
def execSendgMemberReply (s : State) : Result :=
  match s.now with
  | some (.sendgMemberReply th ok) =>
    .next (withThr th (taken s) (fun s =>
      match (me s).form with
      | .inFlight (.members d missing accepted) =>
        let n := accepted + b2n ok
        if missing ≤ 1 then advance (writeDst d (w64 n) (unreserve d s)) else inFlight (.members d (missing - 1) n) s
      | _ => s))
  | _ => .fault (.noEvent "SENDG_MEMBER_REPLY")

/-! ### qbind, qstat, qunbind, qclose -/

/-- QUEUE with a reason and a name (R234). -/
def queueFault1 (reason : Nat) (q : BitVec 2) (s : State) : State := raise .queue (w64 (reason + q.toNat * 256)) 0 s

/-- Whether the array lets a thread bind one of its queues (R301). -/
def mayBindEng (s : State) (core qid : Nat) (t : Thread) : Bool :=
  let x := (cellAt s (cellOfCore core)).eng[qid % 4]?.getD {}
  x.st != .free && x.st != .releasing && x.tid == t.tid && x.ctx == t.ctx && x.core == core

/-- qbind (R242, R232, R301). -/
def execQbind (q : BitVec 2) (a : BitVec 5) (ma : BitVec 2) (s : State) : Result :=
  let ss := [src a ma]
  withOps ss .none s (fun vs =>
    let t := me s
    let core := myCore s
    let qid := (arg vs 0).toNat
    if !pinOf t then queueFault1 4 q s
    else if 256 ≤ qid ∨ (qview s core qid).isNone then queueFault1 5 q s
    else if 4 ≤ qid ∧ !mayBindEng s core qid t then queueFault1 6 q s
    else
      complete s (settleQueues core (mapMe (fun t => { t with binds := t.binds.setIfInBounds q.toNat (some qid) }) (commit ss s))))

/-- qstat (R243). -/
def execQstat (d : BitVec 5) (q : BitVec 2) (s : State) : Result :=
  computes [] d (fun _ =>
    match boundTo (me s) (28 + q.toNat) with
    | none => 0
    | some qid =>
      match qview s (myCore s) qid with
      | none => 0
      | some v => w64 (b2n v.closed * 2 ^ 6 + 2 ^ 7 + qid * 2 ^ 8 + v.data.length * 2 ^ 24 + v.cap * 2 ^ 32)) s

/-- qunbind (R244). -/
def execQunbind (q : BitVec 2) (s : State) : Result :=
  withOps [] .none s (fun _ =>
    match boundTo (me s) (28 + q.toNat) with
    | none => queueFault1 1 q s
    | some _ =>
      complete s (settleQueues (myCore s) (mapMe (fun t => { t with binds := t.binds.setIfInBounds q.toNat none }) s)))

/-- Every thread parked on a queue is woken (R231). -/
def wakeQueue (core qid : Nat) (s : State) : State :=
  ((coreAt s core).qparked.filter (fun x => x.1 == qid && qWaits s x)).foldl (fun s x => sendWake x.2.2 (hwMsg 6 qid) s) s

/-- qclose (R245). -/
def execQclose (q : BitVec 2) (s : State) : Result :=
  withOps [] .none s (fun _ =>
    match boundTo (me s) (28 + q.toNat) with
    | none => queueFault1 1 q s
    | some qid =>
      if 4 ≤ qid then queueFault1 7 q s
      else
        let core := myCore s
        let c := coreAt s core
        let c' := { c with roleq := c.roleq.setIfInBounds qid { (c.roleq[qid]?.getD {}) with closed := true } }
        complete s (wakeQueue core qid (setCore s core c')))

end Sys2Proof.Machine
end

