-- ==== Sys2Proof/Machine/Vector.lean ====
section
/-!
DEFINITION. The vector instructions (07 R181 to R204): elements and masks, integer and floating-point arithmetic, moves
and reductions, conversions and decode tables, loads and stores. One definition an instruction.
-/
namespace Sys2Proof.Machine

/-! ### Elements and masks (R181, R182) -/

/-- The width of an element of type t. -/
def elemBits (t : BitVec 3) : Nat :=
  match t.toNat with
  | 0 => 8 | 1 => 16 | 2 => 32 | 3 => 64 | 4 => 16 | 5 => 16 | 6 => 32 | _ => 8

/-- The floating-point format of types 4 to 6. -/
def elemFmt (t : BitVec 3) : FFmt :=
  match t.toNat with
  | 4 => fp16 | 5 => bf16 | _ => fp32

def isFloatType (t : BitVec 3) : Bool := t.toNat == 4 || t.toNat == 5 || t.toNat == 6

/-- Elements in a register. -/
def elemCount (w : Nat) : Nat := 512 / w

/-- En(e) for elements of w bits (R182). -/
def enabled (m : BitVec 16) (w e : Nat) : Bool := m.getLsbD (w * e / 32)

/-- The enabled elements among the first n. -/
def enabledList (m : BitVec 16) (w n : Nat) : List Nat := (List.range n).filter (enabled m w)

def vecReg (t : Thread) (r : BitVec 5) : Vec := t.vecs[r.toNat]?.getD 0

/-- The elements of es written with f, the others kept. -/
def putElems (w : Nat) (es : List Nat) (f : Nat → Nat) (v : Vec) : Vec := es.foldl (fun v e => setVelem v w e (f e)) v

/-- A vector word names only registers of the core's visible set (R35); its issue is charged (R413). -/
def vecGate (rs : List (BitVec 5)) (s : State) (k : State → Result) : Result :=
  if rs.any (fun r => decide (128 / (coreAt s (myCore s)).part ≤ r.toNat)) then .next (raise .illinst 5 0 s)
  else k (if (me s).form = .ready then charge (me s).ctx 200 s else s)

/-- An instruction that computes a vector register from vector registers (R182, R185). -/
def vecOp (d : BitVec 5) (rs : List (BitVec 5)) (f : Thread → Vec) (s : State) : Result :=
  vecGate (d :: rs) s (fun s => withOps [] .none s (fun _ => complete s (writeVec d.toNat (f (me s)) s)))

/-- The enabled elements of V[d] from the elements of V[a] and V[b]. -/
def lanewise (d a b : BitVec 5) (k : BitVec 2) (w : Nat) (f : Nat → Nat → Nat) (t : Thread) : Vec :=
  putElems w (enabledList (maskOf t k) w (elemCount w)) (fun e => f (velem (vecReg t a) w e) (velem (vecReg t b) w e))
    (vecReg t d)

/-- The residue of an integer modulo 2^w. -/
def wrapTo (w : Nat) (x : Int) : Nat := (x % 2 ^ w).toNat

/-! ### Integer arithmetic and logic (R187, R189) -/

/-- vadd (R187). -/
def execVadd (d a b : BitVec 5) (k : BitVec 2) (t : BitVec 3) (s : State) : Result :=
  vecOp d [a, b] (lanewise d a b k (elemBits t) (fun x y => x + y)) s

/-- vsub (R187). -/
def execVsub (d a b : BitVec 5) (k : BitVec 2) (t : BitVec 3) (s : State) : Result :=
  vecOp d [a, b] (lanewise d a b k (elemBits t) (fun x y => wrapTo (elemBits t) ((x : Int) - y))) s

/-- vmul (R187). -/
def execVmul (d a b : BitVec 5) (k : BitVec 2) (t : BitVec 3) (s : State) : Result :=
  vecOp d [a, b] (lanewise d a b k (elemBits t) (fun x y => x * y)) s

/-- vmulh (R187). -/
def execVmulh (d a b : BitVec 5) (k : BitVec 2) (t : BitVec 3) (s : State) : Result :=
  let w := elemBits t
  vecOp d [a, b] (lanewise d a b k w (fun x y => wrapTo w (toSigned x w * toSigned y w / 2 ^ w))) s

/-- vmin (R187). -/
def execVmin (d a b : BitVec 5) (k : BitVec 2) (t : BitVec 3) (s : State) : Result :=
  let w := elemBits t
  vecOp d [a, b] (lanewise d a b k w (fun x y => if toSigned x w ≤ toSigned y w then x else y)) s

/-- vmax (R187). -/
def execVmax (d a b : BitVec 5) (k : BitVec 2) (t : BitVec 3) (s : State) : Result :=
  let w := elemBits t
  vecOp d [a, b] (lanewise d a b k w (fun x y => if toSigned x w ≤ toSigned y w then y else x)) s

/-- vminu (R187). -/
def execVminu (d a b : BitVec 5) (k : BitVec 2) (t : BitVec 3) (s : State) : Result :=
  vecOp d [a, b] (lanewise d a b k (elemBits t) (fun x y => if x ≤ y then x else y)) s

/-- vmaxu (R187). -/
def execVmaxu (d a b : BitVec 5) (k : BitVec 2) (t : BitVec 3) (s : State) : Result :=
  vecOp d [a, b] (lanewise d a b k (elemBits t) (fun x y => if x ≤ y then y else x)) s

/-- vabs (R187). -/
def execVabs (d a : BitVec 5) (k : BitVec 2) (t : BitVec 3) (s : State) : Result :=
  let w := elemBits t
  vecOp d [a] (lanewise d a a k w (fun x _ => (toSigned x w).natAbs)) s

/-- vmac (R187): the element of V[d] is read first. -/
def execVmac (d a b : BitVec 5) (k : BitVec 2) (t : BitVec 3) (s : State) : Result :=
  let w := elemBits t
  vecOp d [a, b] (fun th =>
    putElems w (enabledList (maskOf th k) w (elemCount w))
      (fun e => velem (vecReg th d) w e + velem (vecReg th a) w e * velem (vecReg th b) w e) (vecReg th d)) s

/-- vand (R189). -/
def execVand (d a b : BitVec 5) (k : BitVec 2) (t : BitVec 3) (s : State) : Result :=
  vecOp d [a, b] (lanewise d a b k (elemBits t) (fun x y => x &&& y)) s

/-- vor (R189). -/
def execVor (d a b : BitVec 5) (k : BitVec 2) (t : BitVec 3) (s : State) : Result :=
  vecOp d [a, b] (lanewise d a b k (elemBits t) (fun x y => x ||| y)) s

/-- vxor (R189). -/
def execVxor (d a b : BitVec 5) (k : BitVec 2) (t : BitVec 3) (s : State) : Result :=
  vecOp d [a, b] (lanewise d a b k (elemBits t) (fun x y => x ^^^ y)) s

/-- vnot (R189). -/
def execVnot (d a : BitVec 5) (k : BitVec 2) (t : BitVec 3) (s : State) : Result :=
  vecOp d [a] (lanewise d a a k (elemBits t) (fun x _ => 2 ^ elemBits t - 1 - x)) s

/-- vshl (R189). -/
def execVshl (d a b : BitVec 5) (k : BitVec 2) (t : BitVec 3) (s : State) : Result :=
  let w := elemBits t
  vecOp d [a, b] (lanewise d a b k w (fun x y => x * 2 ^ (y % w))) s

/-- vshr (R189). -/
def execVshr (d a b : BitVec 5) (k : BitVec 2) (t : BitVec 3) (s : State) : Result :=
  let w := elemBits t
  vecOp d [a, b] (lanewise d a b k w (fun x y => x / 2 ^ (y % w))) s

/-- vsra (R189). -/
def execVsra (d a b : BitVec 5) (k : BitVec 2) (t : BitVec 3) (s : State) : Result :=
  let w := elemBits t
  vecOp d [a, b] (lanewise d a b k w (fun x y => wrapTo w (toSigned x w / 2 ^ (y % w)))) s

/-! ### Floating-point arithmetic (R75 to R78, R188) -/

/-- What a floating-point instruction finds over its enabled elements: the register, the flags, whether a subnormal
value needs the normaliser (R78). -/
structure VFloat where
  v : Vec
  fl : Fl := 0
  norm : Bool := false
  deriving DecidableEq, Repr

/-- An element's result: its code, its flags, and whether it or an input is subnormal. -/
structure ElemRes where
  code : Nat
  fl : Fl := 0
  norm : Bool := false
  deriving DecidableEq, Repr

/-- The enabled elements es of V[d] from a function of the element. -/
def floatElems (w : Nat) (es : List Nat) (f : Nat → ElemRes) (v : Vec) : VFloat :=
  es.foldl (fun r e =>
    let x := f e
    { v := setVelem r.v w e x.code, fl := r.fl ||| x.fl, norm := r.norm || x.norm }) { v := v }

/-- The instruction is done: its thread goes on, or forfeits its turns until its uses of the normaliser (4 cycles) and
of the iterative unit (12 cycles) have ended, in the core's issue order (R78, R186). -/
def useUnits (norm iter : Bool) (s : State) : State :=
  if norm = false ∧ iter = false then advance s
  else
    let core := myCore s
    let th := myThr s
    let c := coreAt s core
    let s := setCore s core { c with normq := if norm then c.normq ++ [th] else c.normq,
                                     iterq := if iter then c.iterq ++ [th] else c.iterq }
    let s := if norm ∧ c.normq = [] then after (normaliserTime s th) (.normaliserDone core) s else s
    let s := if iter ∧ c.iterq = [] then after 120 (.iterativeUnitDone core) s else s
    inFlight .unit s

/-- A floating-point instruction that writes a vector register (R185, R188). -/
def vecFloat (d : BitVec 5) (rs : List (BitVec 5)) (iter : Bool) (f : Thread → VFloat) (s : State) : Result :=
  vecGate (d :: rs) s (fun s => withOps [] .none s (fun _ =>
    if atTop s then raise .misfetch 0 (w64 (2 ^ 48)) s
    else
      let r := f (me s)
      useUnits r.norm iter (report r.fl (writeVec d.toNat r.v s))))

/-- One element of a one-rounding operation: the exact result of the inputs' values, rounded (R75). -/
def floatElem (fmt : FFmt) (mode : Nat) (ins : List Nat) (f : List FVal → Exact) : ElemRes :=
  let r := (f (ins.map (fdec fmt))).round fmt mode
  { code := r.1, fl := r.2, norm := ins.any (isSubnormal fmt) || isSubnormal fmt r.1 }

/-- The operations of major 0x29 that round: one exact function of the elements of the sources named. -/
def floatOp (d : BitVec 5) (rs : List (BitVec 5)) (k : BitVec 2) (t : BitVec 3) (iter : Bool)
    (f : Nat → List FVal → Exact) (s : State) : Result :=
  vecFloat d rs iter (fun th =>
    let w := elemBits t
    floatElems w (enabledList (maskOf th k) w (elemCount w))
      (fun e => floatElem (elemFmt t) (rmOf th) (rs.map (fun r => velem (vecReg th r) w e)) (f (rmOf th)))
      (vecReg th d)) s

def val0 (vs : List FVal) : FVal := vs[0]?.getD (.fin false 0 0)
def val1 (vs : List FVal) : FVal := vs[1]?.getD (.fin false 0 0)
def val2 (vs : List FVal) : FVal := vs[2]?.getD (.fin false 0 0)

/-- vfadd (R188). -/
def execVfadd (d a b : BitVec 5) (k : BitVec 2) (t : BitVec 3) (s : State) : Result :=
  floatOp d [a, b] k t false (fun m vs => fAdd m (val0 vs) (val1 vs)) s

/-- vfsub (R188). -/
def execVfsub (d a b : BitVec 5) (k : BitVec 2) (t : BitVec 3) (s : State) : Result :=
  floatOp d [a, b] k t false (fun m vs => fSub m (val0 vs) (val1 vs)) s

/-- vfmul (R188). -/
def execVfmul (d a b : BitVec 5) (k : BitVec 2) (t : BitVec 3) (s : State) : Result :=
  floatOp d [a, b] k t false (fun _ vs => fMul (val0 vs) (val1 vs)) s

/-- vfma (R188): the addend is the element of V[d]. -/
def execVfma (d a b : BitVec 5) (k : BitVec 2) (t : BitVec 3) (s : State) : Result :=
  floatOp d [a, b, d] k t false (fun m vs => fMa m (val0 vs) (val1 vs) (val2 vs)) s

/-- vfmin (R188). -/
def execVfmin (d a b : BitVec 5) (k : BitVec 2) (t : BitVec 3) (s : State) : Result :=
  floatOp d [a, b] k t false (fun _ vs => fMinMax false (val0 vs) (val1 vs)) s

/-- vfmax (R188). -/
def execVfmax (d a b : BitVec 5) (k : BitVec 2) (t : BitVec 3) (s : State) : Result :=
  floatOp d [a, b] k t false (fun _ vs => fMinMax true (val0 vs) (val1 vs)) s

/-- vfabs (R188): it changes only the sign bit, reports nothing and uses no normaliser (R75, R78). -/
def execVfabs (d a : BitVec 5) (k : BitVec 2) (t : BitVec 3) (s : State) : Result :=
  let w := elemBits t
  vecOp d [a] (lanewise d a a k w (fun x _ => x % 2 ^ (w - 1))) s

/-- vfneg (R188). -/
def execVfneg (d a : BitVec 5) (k : BitVec 2) (t : BitVec 3) (s : State) : Result :=
  let w := elemBits t
  vecOp d [a] (lanewise d a a k w (fun x _ => x ^^^ 2 ^ (w - 1))) s

/-- vfrcp (R188). -/
def execVfrcp (d a : BitVec 5) (k : BitVec 2) (t : BitVec 3) (s : State) : Result :=
  floatOp d [a] k t true (fun _ vs => fRcp (val0 vs)) s

/-- vfrsq (R188). -/
def execVfrsq (d a : BitVec 5) (k : BitVec 2) (t : BitVec 3) (s : State) : Result :=
  floatOp d [a] k t true (fun _ vs => fRsq (val0 vs)) s

/-- vfdiv (R188). -/
def execVfdiv (d a b : BitVec 5) (k : BitVec 2) (t : BitVec 3) (s : State) : Result :=
  floatOp d [a, b] k t true (fun _ vs => fDiv (val0 vs) (val1 vs)) s

/-- vfsqrt (R188). -/
def execVfsqrt (d a : BitVec 5) (k : BitVec 2) (t : BitVec 3) (s : State) : Result :=
  floatOp d [a] k t true (fun _ vs => fSqrt (val0 vs)) s

/-! ### Compare and select (R190, R191) -/

/-- The elements of type width w that lie in lane i. -/
def laneElems (w i : Nat) : List Nat := if w = 64 then [i / 2] else (List.range (32 / w)).map (fun j => 32 / w * i + j)

/-- The mask of a compare: lane i is 1 where every element in it is enabled and the comparison holds (R190). -/
def compareMask (m : BitVec 16) (w : Nat) (f : Nat → Bool) : BitVec 16 :=
  BitVec.ofNat 16 ((List.range 16).foldl (fun x i =>
    x + (if (laneElems w i).all (fun e => enabled m w e && f e) then 2 ^ i else 0)) 0)

/-- An integer compare (R190). -/
def intCompare (d : BitVec 2) (a b : BitVec 5) (k : BitVec 2) (t : BitVec 3) (f : Nat → Nat → Bool) (s : State) : Result :=
  vecGate [a, b] s (fun s => withOps [] .none s (fun _ =>
    let th := me s
    let w := elemBits t
    let r := compareMask (maskOf th k) w (fun e => f (velem (vecReg th a) w e) (velem (vecReg th b) w e))
    complete s (mapMe (setMask d r) s)))

/-- vcmp.eq (R190). -/
def execVcmpEq (d : BitVec 2) (a b : BitVec 5) (k : BitVec 2) (t : BitVec 3) (s : State) : Result :=
  intCompare d a b k t (fun x y => x == y) s

/-- vcmp.lt (R190). -/
def execVcmpLt (d : BitVec 2) (a b : BitVec 5) (k : BitVec 2) (t : BitVec 3) (s : State) : Result :=
  intCompare d a b k t (fun x y => decide (toSigned x (elemBits t) < toSigned y (elemBits t))) s

/-- vcmp.ltu (R190). -/
def execVcmpLtu (d : BitVec 2) (a b : BitVec 5) (k : BitVec 2) (t : BitVec 3) (s : State) : Result :=
  intCompare d a b k t (fun x y => decide (x < y)) s

/-- A floating-point compare (R190): the flags of enabled elements, and the normaliser for subnormal inputs (R78). -/
def floatCompare (d : BitVec 2) (a b : BitVec 5) (k : BitVec 2) (t : BitVec 3) (kind : Nat) (s : State) : Result :=
  vecGate [a, b] s (fun s => withOps [] .none s (fun _ =>
    if atTop s then raise .misfetch 0 (w64 (2 ^ 48)) s
    else
      let th := me s
      let w := elemBits t
      let fmt := elemFmt t
      let test (e : Nat) : Bool × Fl := fTest kind (fdec fmt (velem (vecReg th a) w e)) (fdec fmt (velem (vecReg th b) w e))
      let es := enabledList (maskOf th k) w (elemCount w)
      let fl := es.foldl (fun f e => f ||| (test e).2) flNone
      let norm := es.any (fun e => isSubnormal fmt (velem (vecReg th a) w e) || isSubnormal fmt (velem (vecReg th b) w e))
      useUnits norm false (report fl (mapMe (setMask d (compareMask (maskOf th k) w (fun e => (test e).1))) s))))

/-- vfcmp.eq (R190). -/
def execVfcmpEq (d : BitVec 2) (a b : BitVec 5) (k : BitVec 2) (t : BitVec 3) (s : State) : Result :=
  floatCompare d a b k t 0 s

/-- vfcmp.lt (R190). -/
def execVfcmpLt (d : BitVec 2) (a b : BitVec 5) (k : BitVec 2) (t : BitVec 3) (s : State) : Result :=
  floatCompare d a b k t 1 s

/-- vfcmp.le (R190). -/
def execVfcmpLe (d : BitVec 2) (a b : BitVec 5) (k : BitVec 2) (t : BitVec 3) (s : State) : Result :=
  floatCompare d a b k t 2 s

/-- vfcmp.un (R190). -/
def execVfcmpUn (d : BitVec 2) (a b : BitVec 5) (k : BitVec 2) (t : BitVec 3) (s : State) : Result :=
  floatCompare d a b k t 3 s

/-- vsel (R191): the mask selects, and every element is written. -/
def execVsel (d a b : BitVec 5) (k : BitVec 2) (t : BitVec 3) (s : State) : Result :=
  let w := elemBits t
  vecOp d [a, b] (fun th =>
    putElems w (List.range (elemCount w))
      (fun e => velem (if enabled (maskOf th k) w e then vecReg th a else vecReg th b) w e) (vecReg th d)) s

/-! ### Moving elements and reducing (R192, R193) -/

/-- vbcast (R192). -/
def execVbcast (d a : BitVec 5) (k : BitVec 2) (t : BitVec 3) (s : State) : Result :=
  vecGate [d] s (fun s => withOps [srcP a] .none s (fun vs =>
    let th := me s
    let w := elemBits t
    let v := putElems w (enabledList (maskOf th k) w (elemCount w)) (fun _ => (arg vs 0).toNat) (vecReg th d)
    complete s (writeVec d.toNat v (commit [srcP a] s))))

/-- vext (R192). -/
def execVext (d a b : BitVec 5) (t : BitVec 3) (s : State) : Result :=
  vecGate [a] s (fun s => withOps [srcP b] (.reg d.toNat) s (fun vs =>
    let w := elemBits t
    let x := velem (vecReg (me s) a) w ((arg vs 0).toNat % elemCount w)
    complete s (writeDst d.toNat (if t.toNat < 4 then sextNat x w else w64 x) (commit [srcP b] s))))

/-- vins (R192). -/
def execVins (d a b : BitVec 5) (t : BitVec 3) (s : State) : Result :=
  vecGate [d] s (fun s => withOps [srcP a, srcP b] .none s (fun vs =>
    let w := elemBits t
    let v := setVelem (vecReg (me s) d) w ((arg vs 1).toNat % elemCount w) (arg vs 0).toNat
    complete s (writeVec d.toNat v (commit [srcP a, srcP b] s))))

/-- vperm (R192). -/
def execVperm (d a b : BitVec 5) (k : BitVec 2) (t : BitVec 3) (s : State) : Result :=
  let w := elemBits t
  vecOp d [a, b] (fun th =>
    putElems w (enabledList (maskOf th k) w (elemCount w))
      (fun e => velem (vecReg th a) w (velem (vecReg th b) w e % elemCount w)) (vecReg th d)) s

/-- vrot (R192). -/
def execVrot (d a b : BitVec 5) (k : BitVec 2) (t : BitVec 3) (s : State) : Result :=
  vecGate [d, a] s (fun s => withOps [srcP b] .none s (fun vs =>
    let th := me s
    let w := elemBits t
    let v := putElems w (enabledList (maskOf th k) w (elemCount w))
      (fun e => velem (vecReg th a) w ((e + (arg vs 0).toNat) % elemCount w)) (vecReg th d)
    complete s (writeVec d.toNat v (commit [srcP b] s))))

/-- A reduction into a general register (R193). -/
def vecReduce (d a : BitVec 5) (k : BitVec 2) (t : BitVec 3) (f : Nat → List Nat → Word) (s : State) : Result :=
  vecGate [a] s (fun s => withOps [] (.reg d.toNat) s (fun _ =>
    let th := me s
    let w := elemBits t
    let xs := (enabledList (maskOf th k) w (elemCount w)).map (velem (vecReg th a) w)
    complete s (writeDst d.toNat (f w xs) s)))

/-- vredadd (R193). -/
def execVredadd (d a : BitVec 5) (k : BitVec 2) (t : BitVec 3) (s : State) : Result :=
  vecReduce d a k t (fun w xs => xs.foldl (fun z x => z + sextNat x w) 0) s

/-- vredmin (R193). -/
def execVredmin (d a : BitVec 5) (k : BitVec 2) (t : BitVec 3) (s : State) : Result :=
  vecReduce d a k t (fun w xs =>
    BitVec.ofInt 64 (xs.foldl (fun (m : Int) x => min m (toSigned x w)) (2 ^ (w - 1) - 1))) s

/-- vredmax (R193). -/
def execVredmax (d a : BitVec 5) (k : BitVec 2) (t : BitVec 3) (s : State) : Result :=
  vecReduce d a k t (fun w xs =>
    BitVec.ofInt 64 (xs.foldl (fun (m : Int) x => max m (toSigned x w)) (-(2 ^ (w - 1) : Int)))) s

/-- One node of the tree of R77: the addition of two children, or the one that is present. A subnormal result of any node, an inner one
too, uses the normaliser (R78; DESIGN CHOICE, unsafe: log entry 111). -/
def treeNode (fmt : FFmt) (mode : Nat) : Option ElemRes → Option ElemRes → Option ElemRes
  | some x, some y =>
    let r := floatElem fmt mode [x.code, y.code] (fun vs => fAdd mode (val0 vs) (val1 vs))
    some { code := r.code, fl := x.fl ||| y.fl ||| r.fl, norm := x.norm || y.norm || r.norm }
  | x, none => x
  | none, y => y

/-- One level of the tree. -/
def treeLevel (fmt : FFmt) (mode : Nat) : List (Option ElemRes) → List (Option ElemRes)
  | x :: y :: rest => treeNode fmt mode x y :: treeLevel fmt mode rest
  | xs => xs

/-- The root over sixteen lanes: four levels. -/
def treeSum (fmt : FFmt) (mode : Nat) (lanes : List (Option ElemRes)) : ElemRes :=
  let up := treeLevel fmt mode
  ((up (up (up (up lanes)))).head?.getD none).getD { code := 0 }

/-- The lanes of the reduction: for 16-bit elements the sum of the lane's two, for an enabled lane (R193). -/
def treeLane (fmt : FFmt) (mode : Nat) (m : BitVec 16) (w : Nat) (v : Vec) (i : Nat) : Option ElemRes :=
  let leaf (e : Nat) : Option ElemRes := some { code := velem v w e, norm := isSubnormal fmt (velem v w e) }
  if m.getLsbD i = false then none
  else if w = 32 then leaf i
  else treeNode fmt mode (leaf (2 * i)) (leaf (2 * i + 1))

/-- vfredadd (R193). -/
def execVfredadd (d a : BitVec 5) (k : BitVec 2) (t : BitVec 3) (s : State) : Result :=
  vecGate [a] s (fun s => withOps [] (.reg d.toNat) s (fun _ =>
    if atTop s then raise .misfetch 0 (w64 (2 ^ 48)) s
    else
      let th := me s
      let r := treeSum (elemFmt t) (rmOf th)
        ((List.range 16).map (treeLane (elemFmt t) (rmOf th) (maskOf th k) (elemBits t) (vecReg th a)))
      useUnits r.norm false (report r.fl (writeDst d.toNat (w64 r.code) s))))

/-- vcompress (R192). -/
def execVcompress (d a : BitVec 5) (k : BitVec 2) (t : BitVec 3) (s : State) : Result :=
  let w := elemBits t
  vecOp d [a] (fun th =>
    let xs := (enabledList (maskOf th k) w (elemCount w)).map (velem (vecReg th a) w)
    putElems w (List.range (elemCount w)) (fun e => xs[e]?.getD 0) (vecReg th d)) s

/-- vexpand (R192). -/
def execVexpand (d a : BitVec 5) (k : BitVec 2) (t : BitVec 3) (s : State) : Result :=
  let w := elemBits t
  vecOp d [a] (fun th =>
    (enabledList (maskOf th k) w (elemCount w)).zipIdx.foldl
      (fun v x => setVelem v w x.1 (velem (vecReg th a) w x.2)) (vecReg th d)) s

/-! ### Conversions and tables (R194 to R197) -/

/-- The value of an element of a thread's type 0 to 6. -/
def typeDec (t : BitVec 3) (x : Nat) : FVal :=
  if isFloatType t then fdec (elemFmt t) x else ival (toSigned x (elemBits t))

/-- A value converted into a thread's type 0 to 6 (R72, R73). -/
def typeEnc (t : BitVec 3) (mode : Nat) (v : FVal) : Nat × Fl :=
  if isFloatType t then fround (elemFmt t) mode v else iround (elemBits t) true v

def typeSubnormal (t : BitVec 3) (x : Nat) : Bool := isFloatType t && isSubnormal (elemFmt t) x

/-- vcvt (R194). -/
def execVcvt (d a : BitVec 5) (part : BitVec 2) (u : BitVec 3) (k : BitVec 2) (s : BitVec 3) (st : State) : Result :=
  vecFloat d [a] false (fun th =>
    let ws := elemBits s
    let wu := elemBits u
    let n := 512 / Nat.max ws wu
    let srcAt (j : Nat) : Nat := if ws < wu then part.toNat * n + j else j
    let dstAt (j : Nat) : Nat := if wu < ws then part.toNat * n + j else j
    let first := dstAt 0
    let es := ((List.range n).map dstAt).filter (enabled (maskOf th k) wu)
    floatElems wu es (fun e =>
      let x := velem (vecReg th a) ws (srcAt (e - first))
      let r := typeEnc u (rmOf th) (typeDec s x)
      { code := r.1, fl := r.2, norm := typeSubnormal s x || typeSubnormal u r.1 }) (vecReg th d)) st

/-- The catalogue code of vdec's and venc's format field; 17 is the core's bank (R195). -/
def packedCode (fmt : BitVec 5) : Nat :=
  match fmt.toNat with
  | 16 => 64 | 17 => 32 | n => n

/-- The core bank that FSTAT.TB names (R67). -/
def bankOfThread (s : State) (t : Thread) : Bank := (coreAt s (myCore s)).banks[tbOf t]?.getD {}

/-- A value mapped into E8M10 (R61): a NaN gets its quiet bit. -/
def quieted : FVal → FVal
  | .nan s f => .nan s (f ||| 2 ^ 22)
  | v => v

/-- Whether a packed code is subnormal: in its format, or as a table's E8M10 entry. -/
def packedSubnormal (code : Nat) (bank : Bank) (x : Nat) : Bool :=
  match catFloat code with
  | some f => isSubnormal f (x % 2 ^ (1 + f.ew + f.fw))
  | none => decide (32 ≤ code ∧ code < 64) && isSubnormal e8m10 (bank.entries.get 0 (x % 256))

/-- vdec (R195). -/
def execVdec (d a fmt : BitVec 5) (k : BitVec 2) (t : BitVec 3) (s : State) : Result :=
  let bank := bankOfThread s (me s)
  vecFloat d [a] false (fun th =>
    let w := elemBits t
    let code := packedCode fmt
    floatElems w (enabledList (maskOf th k) w (elemCount w)) (fun e =>
      let x := velem (vecReg th a) (catBits code) e
      let v := catDec code bank x
      let r := fround (elemFmt t) (rmOf th) (quieted v)
      { code := r.1, fl := r.2, norm := packedSubnormal code bank x || isSubnormal (elemFmt t) r.1 }) (vecReg th d)) s

/-- venc (R195). -/
def execVenc (d a fmt : BitVec 5) (k : BitVec 2) (t : BitVec 3) (s : State) : Result :=
  let bank := bankOfThread s (me s)
  let code := packedCode fmt
  let go : Result := vecFloat d [a] false (fun th =>
    let w := elemBits t
    floatElems (catBits code) (enabledList (maskOf th k) w (elemCount w)) (fun e =>
      let x := velem (vecReg th a) w e
      let r := catEnc code bank 0 (fdec (elemFmt t) x)
      { code := r.1, fl := r.2, norm := isSubnormal (elemFmt t) x || packedSubnormal code bank r.1 }) (vecReg th d)) s
  if code = 32 ∧ bank.encodable = false then
    vecGate [d, a] s (fun s => .next (raise .fmtenc (w64 (tbOf (me s))) 0 s))
  else go

/-- The byte offset of what a format descriptor breaks, if anything (R66). -/
def descFault (bs : List Byte) : Option Nat :=
  if bits ((bs[0]?.getD 0).toNat) 0 6 < 32 then some 0
  else (bs.zipIdx.find? (fun x =>
    let i := x.2
    let bad :=
      if i = 0 then x.1.toNat / 64
      else if i < 4 then x.1.toNat
      else if i < 8 then 0
      else if i < 64 then x.1.toNat
      else if i % 4 = 2 then x.1.toNat / 8
      else if i % 4 = 3 then x.1.toNat
      else 0
    bad != 0)).map (fun x => x.2)

/-- The bank a format descriptor gives (R66, R67, R68). -/
def bankOf (bs : List Byte) : Bank :=
  let b : Bank :=
    { entries := (List.range 256).foldl (fun (t : Tab Nat) i => t.put 0 i (leNat ((bs.drop (64 + 4 * i)).take 4) % 2 ^ 19)) [],
      code := (bs[0]?.getD 0).toNat % 64 }
  { b with encodable := encodableBank b }

/-- The 32-byte pieces of n consecutive lines from an address. -/
def lineElems (va : Word) (n : Nat) : List (Nat × Word × Nat) := (List.range n).map (fun i => (i, va + w64 (32 * i), 32))

/-- Reads n lines from an address as one load (R169, R196): its faults name the address and index 0. -/
def readBlock (va : Word) (n : Nat) (s : State) (k : List Byte → State → State) : State :=
  let t := me s
  let bad := (lineElems va n).findSome? (fun e =>
    match check s (myCore s) t.ctx (privOf t) e.2.1 32 .read false with
    | .fault c => some (raise c (memInfo .read 0) va s)
    | .miss => some (missPark e.2.1 s)
    | .ok pa => stageWait s e.2.1 pa 32 .read 0)
  match (lineElems va n).findSome? (fun e => cmpTrap s e.2.1 e.2.2 .read) with
  | some s => s
  | none =>
    match bad with
    | some s => s
    | none =>
      match planFrom .read false s (lineElems va n) [] with
      | .stop s => s
      | .go es =>
        let r := readElems es s
        if r.1 then k r.2.1.flatten (mapMe (fun t => { t with floor := s.time8 }) (es.foldl (fun s e => usePlace e.pa e.size s) r.2.2))
        else waitRetry r.2.2

/-- vtabld (R196): the bank is replaced at completion; a fault leaves it unchanged. -/
def execVtabld (a : BitVec 5) (bank : BitVec 2) (s : State) : Result :=
  vecGate [] s (fun s => withOps [srcP a] .none s (fun vs =>
    acqGate s
      (let va := arg vs 0
       if va.toNat % 64 ≠ 0 then raise .misalign (memInfo .read 0) va s
       else readBlock va 34 s (fun bs s =>
         match descFault bs with
         | some off => raise .fmtdesc (w64 off) va s
         | none =>
           let core := myCore s
           let c := coreAt s core
           complete s (commit [srcP a] (setCore s core { c with banks := c.banks.setIfInBounds bank.toNat (bankOf bs) }))))))

/-- The code and flags of an element times a power of two (R197). -/
def scaleElem (t : BitVec 3) (mode x sc : Nat) : ElemRes :=
  let fmt := elemFmt t
  let v := fdec fmt x
  let r : Nat × Fl :=
    if v.isNan then fround fmt mode v
    else if sc = 0xFF then (match t.toNat with | 4 => 0x7E02 | 5 => 0x7FC2 | _ => 0x7FC00002, flNV)
    else match v with
      | .fin n m e => (Exact.round fmt mode { v := .fin n m (e + sc - 127) })
      | v => fround fmt mode v
  { code := r.1, fl := r.2, norm := isSubnormal fmt x || isSubnormal fmt r.1 }

/-- vscale (R197). -/
def execVscale (d a b : BitVec 5) (k : BitVec 2) (t : BitVec 3) (s : State) : Result :=
  vecFloat d [a, b] false (fun th =>
    let w := elemBits t
    floatElems w (enabledList (maskOf th k) w (elemCount w)) (fun e =>
      scaleElem t (rmOf th) (velem (vecReg th a) w e) (velem (vecReg th b) 32 (w * e / 32) % 256)) (vecReg th d)) s

/-! ### Loads and stores (R198 to R202) -/

/-- idx(e): the low 32 bits of the lane of V[b], read signed (R198). -/
def laneIndex (v : Vec) (w e : Nat) : Word := sextNat (velem v 32 (w * e / 32)) 32

/-- A vector load from an address for each element (R199, R200). -/
def vecLoad (d : BitVec 5) (rs : List (BitVec 5)) (ss : List Src) (k : BitVec 2) (t : BitVec 3)
    (addr : Thread → List Word → Nat → Word) (s : State) : Result :=
  vecGate (d :: rs) s (fun s => withOps ss .none s (fun vs =>
    acqGate s
      (let th := me s
       let w := elemBits t
       let els := (enabledList (maskOf th k) w (elemCount w)).map (fun e => (e, addr th vs e, w / 8))
       match plan .read false true els s with
       | .stop s => s
       | .go es => doLoad (.vreg d.toNat w) th.noMerge false es ss s)))

/-- vld (R198). -/
def execVld (d a : BitVec 5) (k : BitVec 2) (t : BitVec 3) (s : State) : Result :=
  vecLoad d [] [srcP a] k t (fun _ vs e => arg vs 0 + w64 (e * (elemBits t / 8))) s

/-- vlds (R198). -/
def execVlds (d a b : BitVec 5) (k : BitVec 2) (t : BitVec 3) (s : State) : Result :=
  vecLoad d [] [srcP a, srcP b] k t (fun _ vs e => arg vs 0 + w64 e * arg vs 1) s

/-- vldx (R198). -/
def execVldx (d a b : BitVec 5) (k : BitVec 2) (t : BitVec 3) (s : State) : Result :=
  vecLoad d [b] [srcP a] k t
    (fun th vs e => arg vs 0 + laneIndex (vecReg th b) (elemBits t) e * w64 (elemBits t / 8)) s

/-- vldb (R198): one element read once for every enabled element. -/
def execVldb (d a : BitVec 5) (k : BitVec 2) (t : BitVec 3) (s : State) : Result :=
  vecGate [d] s (fun s => withOps [srcP a] .none s (fun vs =>
    acqGate s
      (let th := me s
       let w := elemBits t
       let on := enabledList (maskOf th k) w (elemCount w)
       match plan .read false true (on.head?.toList.map (fun e => (e, arg vs 0, w / 8))) s with
       | .stop s => s
       | .go es => doLoad (.vbcast d.toNat w on) th.noMerge false es [srcP a] s)))

/-- A vector store to an address for each element (R199, R201). -/
def vecStore (d : BitVec 5) (rs : List (BitVec 5)) (ss : List Src) (k : BitVec 2) (t : BitVec 3)
    (addr : Thread → List Word → Nat → Word) (s : State) : Result :=
  vecGate (d :: rs) s (fun s => withOps ss .none s (fun vs =>
    acqGate s
      (let th := me s
       let w := elemBits t
       let els := (enabledList (maskOf th k) w (elemCount w)).map (fun e => (e, addr th vs e, w / 8))
       match plan .write true true els s with
       | .stop s => s
       | .go es => doStore (es.map (fun e => (e, leBytes (w / 8) (velem (vecReg th d) w e.idx)))) false ss s)))

/-- vst (R198). -/
def execVst (d a : BitVec 5) (k : BitVec 2) (t : BitVec 3) (s : State) : Result :=
  vecStore d [] [srcP a] k t (fun _ vs e => arg vs 0 + w64 (e * (elemBits t / 8))) s

/-- vsts (R198). -/
def execVsts (d a b : BitVec 5) (k : BitVec 2) (t : BitVec 3) (s : State) : Result :=
  vecStore d [] [srcP a, srcP b] k t (fun _ vs e => arg vs 0 + w64 e * arg vs 1) s

/-- vstx (R198). -/
def execVstx (d a b : BitVec 5) (k : BitVec 2) (t : BitVec 3) (s : State) : Result :=
  vecStore d [b] [srcP a] k t
    (fun th vs e => arg vs 0 + laneIndex (vecReg th b) (elemBits t) e * w64 (elemBits t / 8)) s

end Sys2Proof.Machine
end

