-- ==== Sys2Proof/Machine/Array.lean ====
section
/-!
DEFINITION. The matrix array of a cell (11 R277 to R303): tbst, the commands and direct accesses of majors 0x38 and
0x39, the k-step, and the completion of commands and of decode-table loads. The arithmetic of a step is Float.lean's.
-/
namespace Sys2Proof.Machine

/-! ### Operands (R64, R277) -/

/-- Whether a catalogue code may be A or B (R64). -/
def isOperandFmt (c : Nat) : Bool := decide (2 ≤ c ∧ c ≤ 11) || decide (32 ≤ c ∧ c < 64)
def isIntFmt (c : Nat) : Bool := c == 9 || c == 10 || c == 11
def isTableFmt (c : Nat) : Bool := decide (32 ≤ c ∧ c < 64)

/-- D of an operand format (R277). -/
def depthOf (c : Nat) : Nat := match catBits c with | 4 => 64 | 16 => 16 | _ => 32

/-- An element's size in half bytes. -/
def nibsOf (c : Nat) : Nat := catBits c / 4

/-- The element of `half` half bytes that begins at half byte n of a byte source. -/
def elemAt (rd : Nat → Nat) (n half : Nat) : Nat :=
  if half = 1 then rd (n / 2) / 16 ^ (n % 2) % 16
  else ((List.range (half / 2)).map (fun i => rd (n / 2 + i) * 256 ^ i)).foldl (fun a b => a + b) 0

/-- The half-byte offset of element (i, j) of a dense tile (R248). -/
def denseAt (layout pitch half i j : Nat) : Nat :=
  match layout with
  | 0 => 2 * i * pitch + j * half
  | 1 => 2 * j * pitch + i * half
  | _ =>
    let block := 2 * (i / 16) * pitch + j / 16 * 256 * half
    let r := i % 16
    let c := j % 16
    if layout = 2 ∨ half < 4 then block + (r * 16 + c) * half
    else
      let s := half / 2
      block + r * 16 * half + ((c * s / 16) ^^^ (r % s)) * 32 + c * half % 32

/-! ### tbst (R274, R281) -/

/-- The cells of the B-operand store that a tile's staged copy fills (R281). -/
def tbstCells (s : State) (cell core off o : Nat) (d : TileDesc) (tag : BitVec 16) : List (Nat × Byte) :=
  let fmt := tagFormat tag
  let half := nibsOf fmt
  let dep := depthOf fmt
  let rd (i : Nat) : Nat := (rdByte s (spadPa core (off + i))).toNat
  let el (k j : Nat) : Nat := elemAt rd (denseAt (tagLayout tag) d.pitch half k j) half
  if fmt = 14 then
    (List.range (d.rows * d.cols)).map (fun e => (bstorePa cell (o + e), BitVec.ofNat 8 (el (e / d.cols) (e % d.cols))))
  else
    (List.range (d.cols * (d.rows / dep))).flatMap (fun u =>
      let j := u / (d.rows / dep)
      let kb := u % (d.rows / dep)
      let at_ := o + j / 16 * (d.rows / dep) * 512 + kb * 512 + j % 16 * 32
      (List.range 32).map (fun b =>
        (bstorePa cell (at_ + b), BitVec.ofNat 8 (
          if half = 1 then el (kb * dep + 2 * b) j + 16 * el (kb * dep + 2 * b + 1) j
          else el (kb * dep + b / (half / 2)) j / 256 ^ (b % (half / 2)) % 256))))

/-- tbst (R274, R281). -/
def execTbst (a b : BitVec 5) (ma mb : BitVec 2) (s : State) : Result :=
  let ss := [src a ma, src b mb]
  withOps ss .none s (fun vs =>
    acqGate s (withTile (arg vs 0) s (fun _ e =>
      let w := arg vs 1
      let o := fld w 0 20
      let fmt := tagFormat e.tag
      let d := tileDescOf s e.ctx (e.handle.toNat % 2 ^ 20)
      if fld w 20 44 ≠ 0 ∨ o % 32 ≠ 0 ∨ 0x100000 < o + e.span then raise .badopnd w 0 s
      else if (!isOperandFmt fmt && fmt != 14) ∨ tagSparsity e.tag ≠ 0 ∨
          (fmt ≠ 14 ∧ (d.rows % depthOf fmt ≠ 0 ∨ d.cols % 16 ≠ 0)) then raise .badopnd (arg vs 0) 0 s
      else nameTile (arg vs 0) s (fun i t =>
        let core := myCore s
        let cell := cellOfCore core
        complete s (reportUse core i (rawWrite (commit ss s) (tbstCells s cell core t.off o d e.tag)))))))

/-! ### Contexts (R285, R286, R293) -/

def engAt (s : State) (cell e : Nat) : EngCtx := (cellAt s cell).eng[e]?.getD {}

/-- Whether a thread owns a claimed context. -/
def engMine (x : EngCtx) (th : Thr) : Bool := x.tid == th.tid && x.ctx == th.ctx

/-- Steps 1 to 3 of R293: the fault, or none. scaled: the command needs the assayer (R284). -/
def engUse (s : State) (cell e : Nat) (th : Thr) (scaled : Bool) : Option (Cause × Word) :=
  let x := engAt s cell e
  if (cellAt s cell).arrFenced || (scaled && (coreAt s (4 * cell + (cellAt s cell).assayer)).fenced) then some (.fenced, 0)
  else if x.st = .releasing ∨ (x.st ≠ .free ∧ !engMine x th) then some (.engowned, w64 e)
  else if x.st = .faulted then some (.engfault, w64 x.status)
  else none

/-- The registers a use finds: a claim sets every one to 0 (R285). -/
def engRegs (x : EngCtx) : Vector Word 7 := if x.st = .free then Vector.replicate 7 0 else x.regs

/-- Claims a FREE context for the executing thread (R285). DEDUCED, unsafe: log entry 48. -/
def engClaim (cell e : Nat) (s : State) : State :=
  let x := engAt s cell e
  if x.st = .free then
    let th := myThr s
    mapEng cell e (fun x => { x with st := .idle, ctx := th.ctx, tid := th.tid, core := myCore s, slot := s.cur, status := 0,
                                     regs := Vector.replicate 7 0, gets := [] }) s
  else s

/-! ### Registers and their checks (R291, R294, R295) -/

def rg (r : Vector Word 7) (i : Nat) : Word := r[i]?.getD 0

/-- Reserved bits of each register (R291). -/
def engReserved (i : Nat) (w : Word) : Bool :=
  match i with
  | 1 => fld w 6 2 != 0 || fld w 14 2 != 0 || fld w 24 40 != 0
  | 2 => fld w 2 14 != 0 || fld w 50 14 != 0
  | 3 => fld w 20 44 != 0
  | 4 => fld w 6 10 != 0 || fld w 36 28 != 0
  | 5 => fld w 40 24 != 0
  | _ => false

def rmaskOf (r : Vector Word 7) : Nat := fld (rg r 0) 0 16
def cmaskOf (r : Vector Word 7) : Nat := fld (rg r 0) 16 16
def dmaskOf (r : Vector Word 7) : Nat := fld (rg r 0) 32 16
def kstepsOf (r : Vector Word 7) : Nat := fld (rg r 0) 48 16
def afmtOf (r : Vector Word 7) : Nat := fld (rg r 1) 0 6
def bfmtOf (r : Vector Word 7) : Nat := fld (rg r 1) 8 6
def asmOf (r : Vector Word 7) : Nat := fld (rg r 1) 16 2
def bsmOf (r : Vector Word 7) : Nat := fld (rg r 1) 18 2
def abankOf (r : Vector Word 7) : Nat := fld (rg r 1) 20 2
def bbankOf (r : Vector Word 7) : Nat := fld (rg r 1) 22 2
def akindOf (r : Vector Word 7) : Nat := fld (rg r 2) 0 2
def astepOf (r : Vector Word 7) : Nat := if fld (rg r 2) 16 16 = 0 then 512 else fld (rg r 2) 16 16
def metaOf (r : Vector Word 7) : Nat := fld (rg r 2) 32 18
def bstepOf (r : Vector Word 7) (sparse : Bool) : Nat :=
  if fld (rg r 3) 0 20 = 0 then (if sparse then 1024 else 512) else fld (rg r 3) 0 20
def dfmtOf (r : Vector Word 7) : Nat := fld (rg r 4) 0 6
def dpitchOf (r : Vector Word 7) : Nat := fld (rg r 4) 16 16
def dkindOf (r : Vector Word 7) : Nat := fld (rg r 4) 32 2
def dbankOf (r : Vector Word 7) : Nat := fld (rg r 4) 34 2
def asoffOf (r : Vector Word 7) : Nat := fld (rg r 5) 0 18
def bsoffOf (r : Vector Word 7) : Nat := fld (rg r 5) 18 20
def ssrcOf (r : Vector Word 7) : Nat := fld (rg r 5) 38 2

/-- The bytes of scale factors a command reads in a mode (R283). -/
def scaleBytes (mode depth : Nat) : Nat :=
  match mode with
  | 0 => 0 | 1 => 4 | 2 => (depth + 31) / 32 * 16 | _ => (depth + 15) / 16 * 16

/-- BADOPND of mma and mmas (R295): the offending word. -/
def mmaOperands (r : Vector Word 7) (sparse : Bool) (a b : Word) : Option Word :=
  let d := depthOf (afmtOf r)
  let dd := if sparse then 2 * d else d
  let k := kstepsOf r
  let boff := fld b 16 20
  let bad (c : Bool) (w : Word) : Option Word := if c then some w else none
  [ bad (fld b 36 28 != 0 || decide (240 < fld b 0 8) || decide (240 < fld b 8 8)) b,
    bad (akindOf r == 0 && a.toNat % 32 != 0) a,
    bad (k == 0) (rg r 0),
    bad (engReserved 1 (rg r 1)) (rg r 1),
    bad (engReserved 2 (rg r 2) || astepOf r % 32 != 0 || metaOf r % 16 != 0) (rg r 2),
    bad (engReserved 3 (rg r 3) || bstepOf r sparse % 512 != 0) (rg r 3),
    bad (engReserved 5 (rg r 5) || asoffOf r % 4 != 0 || bsoffOf r % 4 != 0) (rg r 5),
    bad (boff % 512 != 0 || decide (0x100000 < boff + (k - 1) * bstepOf r sparse + (if sparse then 1024 else 512))) b,
    bad (akindOf r == 0 && decide (saveTail < a.toNat + (k - 1) * astepOf r + 512)) a,
    bad (sparse && akindOf r != 1 && decide (saveTail < metaOf r + k * 256)) (rg r 2),
    bad (ssrcOf r == 0 && (decide (asmOf r ≠ 0 ∧ saveTail < asoffOf r + scaleBytes (asmOf r) (k * dd)) ||
      decide (bsmOf r ≠ 0 ∧ 0x100000 < bsoffOf r + scaleBytes (bsmOf r) (k * dd)))) (rg r 5) ].findSome? id

/-- Whether a table format's bank holds another CODE (R294 reason 4). -/
def wrongBank (c : Cell) (fmt bank : Nat) : Bool := isTableFmt fmt && (c.banks[bank]?.getD {}).code != fmt

/-- ENGCONF of mma and mmas (R294): the reason. DEDUCED, unsafe: log entry 49. -/
def mmaConf (c : Cell) (r : Vector Word 7) (sparse : Bool) (tile : Option TileEnt) : Option Nat :=
  if !isOperandFmt (afmtOf r) || !isOperandFmt (bfmtOf r) then some 1
  else if depthOf (afmtOf r) ≠ depthOf (bfmtOf r) then some 2
  else if isIntFmt (afmtOf r) ∧ isIntFmt (bfmtOf r) ∧ (asmOf r ≠ 0 ∨ bsmOf r ≠ 0 ∨ ssrcOf r = 1) then some 3
  else if wrongBank c (afmtOf r) (abankOf r) || wrongBank c (bfmtOf r) (bbankOf r) then some 4
  else if tile.any (fun t => tagFormat t.tag != afmtOf r ||
      (if sparse then tagSparsity t.tag != 1 || tagLayout t.tag != 0 else tagSparsity t.tag != 0)) then some 5
  else if akindOf r = 3 ∨ 2 ≤ ssrcOf r then some 6
  else none

/-- BADOPND of accld and accst (R295). -/
def accOperands (r : Vector Word 7) (a b : Word) : Option Word :=
  let half := nibsOf (dfmtOf r)
  if fld b 48 16 ≠ 0 ∨ 240 < fld b 0 8 ∨ 240 < fld b 8 8 ∨ (dkindOf r ≠ 1 ∧ fld b 16 32 ≠ 0) then some b
  else if engReserved 4 (rg r 4) then some (rg r 4)
  else if dkindOf r = 0 ∧ (a.toNat % ((half + 1) / 2) ≠ 0 ∨ saveTail < a.toNat + 15 * dpitchOf r + 8 * half) then some a
  else none

/-- ENGCONF of accld and accst (R294). -/
def accConf (c : Cell) (r : Vector Word 7) (store : Bool) (tile : Option TileEnt) : Option Nat :=
  let f := dfmtOf r
  if f = 0 ∨ f = 14 ∨ (16 ≤ f ∧ f < 32) then some 1
  else if wrongBank c f (dbankOf r) || (store && isTableFmt f && !(c.banks[dbankOf r]?.getD {}).encodable) then some 4
  else if tile.any (fun t => tagFormat t.tag != f || tagSparsity t.tag != 0) then some 5
  else if dkindOf r = 3 ∨ (dkindOf r = 2 ∧ (store = false ∨ (f ≠ 1 ∧ f ≠ 13))) then some 6
  else none

/-! ### Issue of a command (R287, R293, R296, R298) -/

/-- A posted read of the thread is outstanding: an engine command writes nothing before it has returned (R112). -/
def postedReads (s : State) (t : Thread) : Bool :=
  t.regs.toList.zipIdx.any (fun x => x.1.st == .pending && !mgetPending s s.cur t x.2)

/-- A command is a release by its issuing thread (R112): it is queued once the thread's stores are performed, the
invalidations collected at its scope, and its reads returned. -/
def engRelease (sc : BitVec 3) (s : State) (k : State → State) : State :=
  if (me s).acqOut ≠ 0 ∨ postedReads s (me s) then waitRetry s else released sc s k

/-- A tile as a command will read or write it. -/
def arrTile (s : State) (e : TileEnt) (off : Nat) (staged : Bool) : ArrTile :=
  let d := tileDescOf s e.ctx (e.handle.toNat % 2 ^ 20)
  { handle := e.handle, off := off, span := if staged then e.span else 0, base := e.base, rows := d.rows, cols := d.cols,
    pitch := d.pitch, tag := e.tag }

/-- Queues a command of the executing thread (R287). -/
def queueCmd (cell e : Nat) (cmd : ArrCmd) (ss : List Src) (s : State) : State :=
  let s0 := s
  let s := engClaim cell e (commit ss s)
  let x := engAt s cell e
  let cmd := { cmd with n := x.last + 1, th := myThr s, priv := BitVec.ofNat 2 (privOf (me s)), core := myCore s,
                        regs := engRegs x }
  complete s0 (mapEng cell e (fun x => { x with st := .busy, last := x.last + 1, queue := x.queue ++ [cmd] }) s)

/-- A command: the checks of R293 in order. tileH is the handle it names, staged says that it reads the staged copy. -/
def arrCommand (e : BitVec 2) (ss : List Src) (vs : List Word) (cmd : ArrCmd) (scaled : Vector Word 7 → Bool)
    (tileH : Vector Word 7 → Option Word) (staged : Bool) (badop : Vector Word 7 → Option Word)
    (conf : Cell → Vector Word 7 → Option TileEnt → Option Nat) (s : State) : State :=
  let cell := cellOfCore (myCore s)
  let e := e.toNat
  let x := engAt s cell e
  let r := engRegs x
  match engUse s cell e (myThr s) (scaled r) with
  | some (c, info) => raise c info 0 s
  | none =>
    let tile := (tileH r).map (fun h => (h, findTile s (me s).ctx h))
    match tile with
    | some (h, none) => raise .badtile h 0 s
    | _ =>
      let ent := tile.bind (fun x => x.2.map (fun y => y.2))
      match badop r with
      | some w => raise .badopnd w 0 s
      | none =>
        match conf (cellAt s cell) r ent with
        | some n => raise .engconf (w64 n) 0 s
        | none =>
          if 8 ≤ x.queue.length then park ⟨true, .limit 1, false⟩ s
          else
            let cmd := { cmd with a := arg vs 0, b := arg vs 1 }
            match ent with
            | none => engRelease 3 s (queueCmd cell e cmd ss)
            | some t =>
              if staged then
                nameTile (t.handle.zeroExtend 64) s (fun i ts => engRelease 3 s (fun s =>
                  queueCmd cell e { cmd with tile := some (arrTile s t ts.off true) } ss (reportUse (myCore s) i s)))
              else engRelease 3 s (fun s => queueCmd cell e { cmd with tile := some (arrTile s t 0 false) } ss s)

def noCmd (op : ArrOp) (z : Bool) : ArrCmd := { n := 0, th := ⟨0, 0, 0⟩, priv := 0, core := 0, op := op, z := z }

/-- mma and mmas (R296). -/
def mmaInstr (sparse : Bool) (a b : BitVec 5) (e : BitVec 2) (z : BitVec 1) (s : State) : Result :=
  let ss := [srcP a, srcP b]
  withOps ss .none s (fun vs => acqGate s
    (arrCommand e ss vs (noCmd (if sparse then .mmas else .mma) (z == 1))
      (fun r => ssrcOf r == 0 && (asmOf r != 0 || bsmOf r != 0))
      (fun r => if akindOf r = 1 then some (arg vs 0) else none) true
      (fun r => mmaOperands r sparse (arg vs 0) (arg vs 1))
      (fun c r t => mmaConf c r sparse t) s))

/-- mma (R296). -/
def execMma (a b : BitVec 5) (e : BitVec 2) (z : BitVec 1) (s : State) : Result := mmaInstr false a b e z s

/-- mmas (R296, R279, R280). -/
def execMmas (a b : BitVec 5) (e : BitVec 2) (z : BitVec 1) (s : State) : Result := mmaInstr true a b e z s

/-- The position word of mscale and acczero (R295). -/
def blockOperand (b : Word) : Option Word := if fld b 16 48 ≠ 0 ∨ 240 < fld b 0 8 ∨ 240 < fld b 8 8 then some b else none

/-- mscale (R298). -/
def execMscale (a b : BitVec 5) (e : BitVec 2) (s : State) : Result :=
  let ss := [srcP a, srcP b]
  withOps ss .none s (fun vs => acqGate s
    (arrCommand e ss vs (noCmd .mscale false) (fun _ => false) (fun _ => none) false
      (fun _ => if fld (arg vs 0) 32 32 ≠ 0 then some (arg vs 0) else blockOperand (arg vs 1))
      (fun _ _ _ => none) s))

/-- acczero (R298). -/
def execAcczero (b : BitVec 5) (e : BitVec 2) (s : State) : Result :=
  let ss := [srcP b]
  withOps ss .none s (fun vs => acqGate s
    (arrCommand e ss [0, arg vs 0] (noCmd .acczero false) (fun _ => false) (fun _ => none) false
      (fun _ => blockOperand (arg vs 0)) (fun _ _ _ => none) s))

/-- accld (R298). -/
def execAccld (a b : BitVec 5) (e : BitVec 2) (s : State) : Result :=
  let ss := [srcP a, srcP b]
  withOps ss .none s (fun vs => acqGate s
    (arrCommand e ss vs (noCmd .accld false) (fun _ => false)
      (fun r => if dkindOf r = 1 then some (arg vs 0) else none) true
      (fun r => accOperands r (arg vs 0) (arg vs 1)) (fun c r t => accConf c r false t) s))

/-- accst (R298). -/
def execAccst (a b : BitVec 5) (e : BitVec 2) (s : State) : Result :=
  let ss := [srcP a, srcP b]
  withOps ss .none s (fun vs => acqGate s
    (arrCommand e ss vs (noCmd .accst false) (fun _ => false)
      (fun r => if dkindOf r = 1 then some (arg vs 0) else none) false
      (fun r => accOperands r (arg vs 0) (arg vs 1)) (fun c r t => accConf c r true t) s))

/-- Whether a queued command reads a bank of the array's decode tables (R292). -/
def namesBank (bank : Nat) (q : ArrCmd) : Bool :=
  match q.op with
  | .mma => mm q.regs
  | .mmas => mm q.regs
  | .accld => isTableFmt (dfmtOf q.regs) && dbankOf q.regs == bank
  | .accst => isTableFmt (dfmtOf q.regs) && dbankOf q.regs == bank
  | _ => false
where
  mm (r : Vector Word 7) : Bool :=
    (isTableFmt (afmtOf r) && abankOf r == bank) || (isTableFmt (bfmtOf r) && bbankOf r == bank)

/-- mset (R297, R292). -/
def execMset (a : BitVec 5) (e : BitVec 2) (index : BitVec 3) (s : State) : Result :=
  let ss := [srcP a]
  withOps ss .none s (fun vs => acqGate s
    (let cell := cellOfCore (myCore s)
     let v := arg vs 0
     match engUse s cell e.toNat (myThr s) false with
     | some (c, info) => raise c info 0 s
     | none =>
       if index ≠ 6 then
         complete s (mapEng cell e.toNat (fun x => { x with regs := x.regs.setIfInBounds index.toNat v })
           (engClaim cell e.toNat (commit ss s)))
       else if fld v 2 4 ≠ 0 ∨ fld v 56 8 ≠ 0 then raise .badopnd v 0 s
       else
         let va := w64 (fld v 6 50 * 64)
         readBlock va 34 s (fun bs s =>
           match descFault bs with
           | some off => raise .fmtdesc (w64 off) va s
           | none =>
             if atTop s then raise .misfetch 0 (w64 (2 ^ 48)) s
             else
               let s := engClaim cell e.toNat (commit ss s)
               let c := cellAt s cell
               let bank := fld v 0 2
               post (.mtabldLoadComplete cell bank)
                 (inFlight .unit (setCell s cell { c with mtabld := c.mtabld ++ [(bank, bankOf bs, myThr s)] })))))

/-- MTABLD_LOAD_COMPLETE (R292): once no queued or running command names the bank, it is replaced and the writing
thread goes on. -/
def execMtabldLoadComplete (s : State) : Result :=
  match s.now with
  | some (.mtabldLoadComplete cell bank) =>
    .next (
      let s := taken s
      let c := cellAt s cell
      match c.mtabld.find? (fun x => x.1 == bank) with
      | none => s
      | some x =>
        if c.eng.toList.any (fun g => g.queue.any (fun q => namesBank bank q)) then holdBack (.mtabldLoadComplete cell bank) s
        else
          let s := setCell s cell { c with mtabld := c.mtabld.erase x, banks := c.banks.setIfInBounds bank x.2.1 }
          withThr x.2.2 s (fun s => if (me s).form = .inFlight .unit then advance s else s))
  | _ => .fault (.noEvent "MTABLD_LOAD_COMPLETE")

/-! ### Timelines: waiters shared by array and copy contexts (R348) -/

/-- The worst status among commands numbered above lo up to n: the greatest (R348). -/
def worstOf (ended : Tab Nat) (lo n : Nat) : Nat :=
  ended.foldl (fun w x => if lo < x.1 ∧ x.1 ≤ n then Nat.max w x.2 else w) 0

/-- The message of a timeline (R348). -/
def tlMsg (sel status line : Nat) : Msg := ⟨9, BitVec.ofNat 56 (sel + status * 2 ^ 8), w64 line⟩

/-- Wakes the waiters a timeline has reached. -/
def fireArms (sel line : Nat) (ended : Tab Nat) (arms : List (Thr × Nat × Nat)) (s : State) : State :=
  arms.foldl (fun s x => if x.2.1 ≤ line then sendWake x.1 (tlMsg sel (worstOf ended x.2.2 x.2.1) line) s else s) s

/-- Wakes a thread where it is parked on a limit (KIND 0x0C). -/
def wakeLimit (reason info : Nat) (th : Thr) (s : State) : State :=
  wakeParked th ⟨true, .limit reason, false⟩ (hwMsg 0x0C (reason + info * 256)) s

/-! ### Completion and failure (R286, R287, R299) -/

/-- Two adjacent accumulator elements as a doubleword (R299). -/
def accPair (s : State) (cell row col : Nat) : Word := w64 (rdNat s (accPa cell row col) 8)

/-- What follows every advance of a context's timeline: due mget results, waiters, parked issuers, the state. -/
def engAdvance (cell e line : Nat) (s : State) : State :=
  let x := engAt s cell e
  let due := x.gets.filter (fun g => decide (g.n ≤ line))
  let s := mapEng cell e (fun x => { x with line := line, gets := x.gets.filter (fun g => decide (line < g.n)),
                                            arms := x.arms.filter (fun a => decide (line < a.2.1)) }) s
  let s := due.foldl (fun s g => post (.postedArrive g.th g.reg (accPair s cell g.row g.col)) s) s
  let s := fireArms (e + 4) line x.ended x.arms s
  let owner : Thr := ⟨x.slot, x.ctx, x.tid⟩
  let s := wakeLimit 1 e owner s
  let x := engAt s cell e
  let s := if x.queue ≠ [] then s
    else if x.st = .busy then mapEng cell e (fun x => { x with st := .idle }) s
    else if x.st = .releasing then endEng cell e s
    else s
  if engBusy s x.core x.tid x.ctx then s else wakeLimit 4 e owner s

/-- ARRAY_COMMAND_COMPLETE (R287). -/
def execArrayCommandComplete (s : State) : Result :=
  match s.now with
  | some (.arrayCommandComplete cell e) =>
    .next (
      let s := taken s
      let x := engAt s cell e
      let fin := x.queue.takeWhile (fun q => q.finished)
      match fin.getLast? with
      | none => s
      | some q => engAdvance cell e q.n (mapEng cell e (fun x => { x with queue := x.queue.dropWhile (fun q => q.finished) }) s))
  | _ => .fault (.noEvent "ARRAY_COMMAND_COMPLETE")

/-- A command fails (R286): the context is FAULTED, the command and every later one discarded and counted complete;
commands already finished complete before it. -/
def engFail (cell e status : Nat) (s : State) : State :=
  let x := engAt s cell e
  let fin := x.queue.takeWhile (fun q => q.finished)
  let s := match fin.getLast? with
    | some q => engAdvance cell e q.n (mapEng cell e (fun x => { x with queue := x.queue.dropWhile (fun q => q.finished) }) s)
    | none => s
  let x := engAt s cell e
  let ended := x.queue.foldl (fun (t : Tab Nat) q => t.put 0 q.n status) x.ended
  let s := x.gets.foldl (fun s g =>
    post (.postedFail g.th g.reg ⟨.engfault, w64 status, 0, g.pc⟩) s) s
  let st := if x.st = .releasing then EngState.releasing else .faulted
  engAdvance cell e x.last (mapEng cell e (fun x => { x with st := st, status := status, queue := [], gets := [], ended := ended }) s)

/-! ### The k-step (R277 to R284, R296) -/

/-- Bit i of a mask. -/
def maskBit (m i : Nat) : Bool := m / 2 ^ i % 2 == 1

/-- The factor of one side for a row or column and a depth position of the command (R283). -/
def scaleFactor (s : State) (base : Nat) (mode idx pos : Nat) : FVal :=
  match mode with
  | 0 => .fin false 1 0
  | 1 => fdec fp32 (rdNat s base 4)
  | 2 => e8m0Val (rdByte s (base + pos / 32 * 16 + idx)).toNat
  | _ => fdec e4m3 (rdByte s (base + pos / 16 * 16 + idx)).toNat

/-- One step's operands as the array has read them: for a row the present depth positions with their codes, for a
column the code at a depth position, and σ. -/
structure StepIn where
  row : Nat → List (Nat × Nat)
  col : Nat → Nat → Nat
  sigma : Nat → Nat → Nat → FVal

/-- The places of an operand row of step g: (depth position, half-byte place in its source), by R278 and R279. -/
def rowPlaces (q : ArrCmd) (g i : Nat) (nib : Nat → Nat) : List (Nat × Nat) :=
  let fmt := afmtOf q.regs
  let half := nibsOf fmt
  let d := depthOf fmt
  let plainAt (c : Nat) : Nat :=
    (if akindOf q.regs = 2 then 64 * i else 2 * (q.a.toNat + g * astepOf q.regs + 32 * i)) + c * half
  match q.op, q.tile with
  | .mmas, none =>
    (List.range d).map (fun c => (4 * (c / 2) + nib c, plainAt c))
  | .mmas, some t =>
    if t.rows ≤ i then []
    else ((List.range d).filter (fun c => decide (g * d + c < t.cols / 2))).map (fun c =>
      (4 * (c / 2) + nib c, 2 * i * t.pitch + (g * d + c) * half))
  | _, none => (List.range d).map (fun k => (k, plainAt k))
  | _, some t =>
    if t.rows ≤ i then []
    else ((List.range d).filter (fun k => decide (g * d + k < t.cols))).map (fun k =>
      (k, denseAt (tagLayout t.tag) t.pitch half i (g * d + k)))

/-- The position of stored value c within its group, from its index nibble (R279, R280). -/
def nibbleOf (s : State) (q : ArrCmd) (g i c : Nat) : Nat :=
  let d := depthOf (afmtOf q.regs)
  let at_ (base grp : Nat) : Nat := (rdByte s (spadPa q.core (base + grp / 2))).toNat / 16 ^ (grp % 2) % 16
  let n := match q.tile with
    | none => at_ (metaOf q.regs + g * 256 + i * 16) (c / 2)
    | some t => at_ (t.off + t.rows * t.pitch + i * ((t.cols + 7) / 8)) ((g * d + c) / 2)
  if c % 2 = 0 then n % 4 else n / 4

/-- The operands of step g of a command; stream holds the A-stream's words, sw the injected scale word (R278 to
R284). -/
def stepIn (s : State) (cell : Nat) (q : ArrCmd) (g : Nat) (stream : List Word) (sw : Word) : StepIn :=
  let fmt := afmtOf q.regs
  let d := depthOf fmt
  let sparse := q.op == .mmas
  let dd := if sparse then 2 * d else d
  let rdA (i : Nat) : Nat :=
    if akindOf q.regs = 2 then fld (stream[i / 8]?.getD 0) (8 * (i % 8)) 8
    else (rdByte s (spadPa q.core ((match q.tile with | some t => t.off | none => 0) + i))).toNat
  let bhalf := nibsOf (bfmtOf q.regs)
  let boff := fld q.b 16 20
  let rdB (i : Nat) : Nat := (rdByte s (bstorePa cell i)).toNat
  { row := fun i => (rowPlaces q g i (nibbleOf s q g i)).map (fun x => (x.1, elemAt rdA x.2 (nibsOf fmt)))
    col := fun j p => elemAt rdB (2 * (boff + g * bstepOf q.regs sparse + p / d * 512 + j * 32) + p % d * bhalf) bhalf
    sigma := fun i j p =>
      if ssrcOf q.regs = 1 then scaleWordVal sw.toNat
      else
        let pos := g * dd + p
        (fMul (scaleFactor s (spadPa q.core (asoffOf q.regs)) (asmOf q.regs) i pos)
          (scaleFactor s (bstorePa cell (bsoffOf q.regs)) (bsmOf q.regs) j pos)).v }

/-- The integer of an integer operand's value. -/
def intOf : FVal → Int
  | .fin n m _ => if n then -(m : Int) else m
  | _ => 0

/-- The new bits of one output element of a step (R80 to R85, R296). -/
def stepElement (c : Cell) (q : ArrCmd) (g : Nat) (x : StepIn) (i j incoming : Nat) : Nat :=
  let r := q.regs
  let d := depthOf (afmtOf r)
  let dd := if q.op = .mmas then 2 * d else d
  let inc := if q.z ∧ g = 0 then 0 else incoming
  let on (p : Nat) : Bool := g + 1 != kstepsOf r || maskBit (dmaskOf r) (p / (dd / 16))
  let av (code : Nat) : FVal := quieted (catDec (afmtOf r) (c.banks[abankOf r]?.getD {}) code)
  let bv (code : Nat) : FVal := quieted (catDec (bfmtOf r) (c.banks[bbankOf r]?.getD {}) code)
  let ts := (x.row i).filter (fun t => on t.1)
  if isIntFmt (afmtOf r) ∧ isIntFmt (bfmtOf r) then
    mmaInteger inc (ts.map (fun t => (intOf (av t.2), intOf (bv (x.col j t.1)))))
  else mmaElement inc (ts.map (fun t => ⟨av t.2, bv (x.col j t.1), x.sigma i j t.1⟩))

/-- The unmasked elements of a block command, in row-major order. -/
def blockElems (r : Vector Word 7) : List (Nat × Nat) :=
  ((List.range 16).filter (maskBit (rmaskOf r))).flatMap (fun i =>
    ((List.range 16).filter (maskBit (cmaskOf r))).map (fun j => (i, j)))

/-- The accumulator element (i, j) of a command's block. -/
def accElem (s : State) (cell : Nat) (q : ArrCmd) (x : Nat × Nat) : Nat :=
  rdNat s (accPa cell (fld q.b 0 8 + x.1) (fld q.b 8 8 + x.2)) 4

/-- The accumulator cells of a block from a function of the element. -/
def accCells (cell : Nat) (q : ArrCmd) (f : Nat × Nat → Nat) (es : List (Nat × Nat)) : List (Nat × Byte) :=
  es.flatMap (fun x => cellsAt (accPa cell (fld q.b 0 8 + x.1) (fld q.b 8 8 + x.2)) (leBytes 4 (f x)))

/-- One k-step of mma or mmas (R296). -/
def mmaStep (cell : Nat) (q : ArrCmd) (g : Nat) (stream : List Word) (sw : Word) (s : State) : State :=
  let x := stepIn s cell q g stream sw
  rawWrite s (accCells cell q (fun p => stepElement (cellAt s cell) q g x p.1 p.2 (accElem s cell q p)) (blockElems q.regs))

/-! ### Block commands (R298) -/

/-- The value a tile or scratchpad element gives an accumulator element (R298). -/
def accIn (bank : Bank) (fmt x : Nat) : Nat :=
  if fmt = 1 then x
  else match catInt fmt with
    | some (w, signed) => ((if signed then toSigned x w else (x : Int)) % 2 ^ 32).toNat
    | none =>
      let v := catDec fmt bank x
      (fround fp32 0 (if isTableFmt fmt ∨ fmt = 15 then v else quieted v)).1

/-- The value an accumulator element gives a destination element (R298). -/
def accOut (bank : Bank) (fmt x : Nat) : Nat :=
  if fmt = 1 then x
  else match catInt fmt with
    | some (w, signed) =>
      let lo : Int := if signed then -(2 ^ (w - 1) : Int) else 0
      let hi : Int := if signed then 2 ^ (w - 1) - 1 else 2 ^ w - 1
      ((max lo (min hi (toSigned x 32))) % 2 ^ w).toNat
    | none => (catEnc fmt bank 0 (fdec fp32 x)).1

/-- The half-byte place of element (i, j) of accld's or accst's DKIND 0 rows, or of its tile; none outside it. -/
def accPlace (q : ArrCmd) (x : Nat × Nat) : Option Nat :=
  let half := nibsOf (dfmtOf q.regs)
  match q.tile with
  | none => some (2 * (q.a.toNat + x.1 * dpitchOf q.regs) + x.2 * half)
  | some t =>
    let i := fld q.b 16 16 + x.1
    let j := fld q.b 32 16 + x.2
    if t.rows ≤ i ∨ t.cols ≤ j then none else some (denseAt (tagLayout t.tag) t.pitch half i j)

/-- The bytes that writing elements of `half` half bytes gives, in order, over what the places held: (byte, value). -/
def packBytes (half : Nat) (old : Nat → Nat) (ws : List (Nat × Nat)) : Tab Nat :=
  ws.foldl (fun (t : Tab Nat) w =>
    if half = 1 then
      let b := w.1 / 2
      let cur := match t.find? (fun y => y.1 == b) with | some y => y.2 | none => old b
      t.ins b (if w.1 % 2 = 0 then cur / 16 * 16 + w.2 % 16 else cur % 16 + w.2 % 16 * 16)
    else (List.range (half / 2)).foldl (fun (t : Tab Nat) i => t.ins (w.1 / 2 + i) (w.2 / 256 ^ i % 256)) t) []

/-- accld (R298). -/
def accldStep (cell : Nat) (q : ArrCmd) (s : State) : State :=
  let fmt := dfmtOf q.regs
  let half := nibsOf fmt
  let base := match q.tile with | some t => t.off | none => 0
  let rd (i : Nat) : Nat := (rdByte s (spadPa q.core (base + i))).toNat
  let bank := (cellAt s cell).banks[dbankOf q.regs]?.getD {}
  let es := (blockElems q.regs).filter (fun x => (accPlace q x).isSome)
  rawWrite s (accCells cell q (fun x => accIn bank fmt (elemAt rd ((accPlace q x).getD 0) half)) es)

/-- What a step of a command comes to. -/
inductive StepEnd where
  /-- It has to wait. -/
  | stall (s : State)
  /-- A step is done; more follow. -/
  | more (s : State)
  | finished (s : State)
  | failed (status : Nat) (s : State)
  deriving DecidableEq, Repr

/-- Uses of the local scratchpad by a command, by offset and size (R259): it waits where a tile's range is not ready, and fails
where the tile was refused, or a read copy would be written. -/
def useSpad (core : Nat) (k : Acc) (rs : List (Nat × Nat)) (s : State) (go : State → StepEnd) : StepEnd :=
  let found := rs.map (fun r => stagedCheck s core r.1 r.2 k)
  match found.findSome? (fun x => match x with | .wait i => some i | _ => none) with
  | some i => .stall (joinStage core i none s)
  | none => if found.any (fun x => match x with | .prot _ => true | _ => false) then .failed 1 s else go s

/-- The scale bytes of A that a step reads (R283). -/
def scaleReads (q : ArrCmd) (i : Nat) : List (Nat × Nat) :=
  let d := depthOf (afmtOf q.regs)
  let dd := if q.op = .mmas then 2 * d else d
  let blocks (n : Nat) : List (Nat × Nat) :=
    (List.range ((dd + n - 1) / n)).map (fun b => (asoffOf q.regs + (q.step * dd / n + b) * 16 + i, 1))
  if ssrcOf q.regs = 1 then []
  else match asmOf q.regs with
    | 0 => []
    | 1 => [(asoffOf q.regs, 4)]
    | 2 => blocks 32
    | _ => blocks 16

/-- The places of the local scratchpad that a k-step reads outside tiles it names: its rows of A, their index nibbles and
their scale bytes (R278, R279, R283). -/
def stepReads (q : ArrCmd) : List (Nat × Nat) :=
  ((List.range 16).filter (maskBit (rmaskOf q.regs))).flatMap (fun i =>
    (if akindOf q.regs = 0 ∧ q.tile = none then [(q.a.toNat + q.step * astepOf q.regs + 32 * i, 32)] else []) ++
    (if q.op = .mmas ∧ q.tile = none then [(metaOf q.regs + q.step * 256 + i * 16, 16)] else []) ++ scaleReads q i)

/-- The places of the local scratchpad that accld reads (R298). -/
def accldReads (q : ArrCmd) : List (Nat × Nat) :=
  match q.tile with
  | some _ => []
  | none =>
    let half := nibsOf (dfmtOf q.regs)
    (blockElems q.regs).filterMap (fun x => (accPlace q x).map (fun p => (p / 2, (half + 1) / 2)))

/-- accst to the local scratchpad (R298): staging ranges are uses of their slots (R259). -/
def accstSpad (cell : Nat) (q : ArrCmd) (s : State) : StepEnd :=
  let fmt := dfmtOf q.regs
  let half := nibsOf fmt
  let bank := (cellAt s cell).banks[dbankOf q.regs]?.getD {}
  let ws := (blockElems q.regs).filterMap (fun x => (accPlace q x).map (fun p => (p, accOut bank fmt (accElem s cell q x))))
  let bytes := packBytes half (fun i => (rdByte s (spadPa q.core i)).toNat) ws
  useSpad q.core .write (bytes.map (fun b => (b.1, 1))) s (fun s =>
    .finished (performWrite (bytes.map (fun b => (spadPa q.core b.1, BitVec.ofNat 8 b.2))) none none s))

/-- accst to a tile (R298, R254): write permission is needed on every page of the tile. Where the tile's home cell is fenced the
command fails with status 3 (DEDUCED, unsafe: log entry 103). -/
def accstTile (cell e : Nat) (q : ArrCmd) (t : ArrTile) (s : State) : StepEnd :=
  match findTile s q.th.ctx (t.handle.zeroExtend 64) with
  | none => .failed 4 s
  | some (slice, ent) =>
    match tileRights s q.th.ctx q.priv.toNat ent.base ent.span .write with
    | (.miss, va) => .stall (askXlat va (.engine cell q.core (e + 4)) s)
    | (.fault c, _) => .failed (if c = .badaddr then 2 else 1) s
    | (.ok _, _) =>
      if (cellAt s slice).fenced then .failed 3 s
      else
        let r := tileClear ⟨true, cell, e, q.n⟩ slice ent s
        if r.1 = false then .stall r.2
        else
          let s := r.2
          let fmt := dfmtOf q.regs
          let bank := (cellAt s cell).banks[dbankOf q.regs]?.getD {}
          let ws := (blockElems q.regs).filterMap (fun x => (accPlace q x).map (fun p => (p, accOut bank fmt (accElem s cell q x))))
          let bytes := packBytes (nibsOf fmt) (fun i => ((tilePlace s ent i).elim (Config.freeByte s.fresh i) (rdByte s)).toNat) ws
          .finished (writeTileBytes slice ent (if tagScale ent.tag ≠ 0 then ent.tag ||| 8 else ent.tag) bytes s)

/-- accst to the result queue: one word a step while the queue has room (R298). -/
def accstQueue (cell e : Nat) (q : ArrCmd) (s : State) : StepEnd :=
  let rows := (List.range 16).filter (maskBit (rmaskOf q.regs))
  match rows[q.step / 8]? with
  | none => .finished s
  | some i =>
    let dropped := (engAt s cell e).st == .releasing
    if 16 ≤ (engAt s cell e).resultq.length ∧ dropped = false then .stall s
    else
      let el (j : Nat) : Nat := if maskBit (cmaskOf q.regs) j then accElem s cell q (i, j) else 0
      let w := q.step % 8
      let s := if dropped then s else qPush q.core (0x18 + e) (w64 (el (2 * w) + el (2 * w + 1) * 2 ^ 32)) s
      if q.step + 1 = 8 * rows.length then .finished s else .more s

/-- mscale's new bits: one FP32 multiplication (R298). -/
def scaledAcc (f x : Nat) : Nat := ((fMul (fdec fp32 x) (fdec fp32 f)).round fp32 0).1

/-- One step of the first unfinished command of a context. -/
def cmdStep (cell e : Nat) (q : ArrCmd) (s : State) : StepEnd :=
  let x := engAt s cell e
  let mm (s : State) : StepEnd :=
    if akindOf q.regs = 2 ∧ x.astream.length < 64 then .stall s
    else if ssrcOf q.regs = 1 ∧ x.scaleq = [] then .stall s
    else useSpad q.core .read (stepReads q) s (fun s =>
      let stream := if akindOf q.regs = 2 then x.astream.take 64 else []
      let sw := if ssrcOf q.regs = 1 then x.scaleq.head?.getD 0 else 0
      let s := charge q.th.ctx 820 (mmaStep cell q q.step stream sw s)
      let s := if akindOf q.regs = 2 then qWake q.core (0x10 + e) false (mapEng cell e (fun x => { x with astream := x.astream.drop 64 }) s) else s
      let s := if ssrcOf q.regs = 1 then qWake q.core (0x14 + e) false (mapEng cell e (fun x => { x with scaleq := x.scaleq.tail }) s) else s
      if q.step + 1 = kstepsOf q.regs then .finished s else .more s)
  match q.op with
  | .mma => mm s
  | .mmas => mm s
  | .mscale =>
    .finished (rawWrite s (accCells cell q (fun p => scaledAcc (fld q.a 0 32) (accElem s cell q p)) (blockElems q.regs)))
  | .acczero => .finished (rawWrite s (accCells cell q (fun _ => 0) (blockElems q.regs)))
  | .accld => useSpad q.core .read (accldReads q) s (fun s => .finished (accldStep cell q s))
  | .accst =>
    match dkindOf q.regs, q.tile with
    | 2, _ => accstQueue cell e q s
    | _, some t => accstTile cell e q t s
    | _, none => accstSpad cell q s

/-- Changes the first unfinished command of a context. -/
def mapHead (cell e : Nat) (f : ArrCmd → ArrCmd) (s : State) : State :=
  mapEng cell e (fun x => { x with queue := x.queue.takeWhile (fun q => q.finished) ++
    (match x.queue.dropWhile (fun q => q.finished) with | q :: rest => f q :: rest | [] => []) }) s

/-- Tries a step of context e: whether one was made, and the state. -/
def tryStep (cell e : Nat) (s : State) : Bool × State :=
  match (engAt s cell e).queue.find? (fun q => !q.finished) with
  | none => (false, s)
  | some q =>
    match cmdStep cell e q s with
    | .stall s => (false, s)
    | .more s => (true, mapHead cell e (fun q => { q with step := q.step + 1 }) s)
    | .finished s => (true, post (.arrayCommandComplete cell e) (mapHead cell e (fun q => { q with finished := true }) s))
    | .failed n s => (true, engFail cell e n s)

/-- Whether a cell's array has a command to work on. -/
def arrayActive (s : State) (cell : Nat) : Bool :=
  !(cellAt s cell).arrFenced && (cellAt s cell).owner.all (engRuns s) && (cellAt s cell).eng.toList.any (fun x => x.queue.any (fun q => !q.finished))

/-- KSTEP (R277, R287): the contexts with a step ready take the array's cycles in rotation. -/
def execKstep (s : State) : Result :=
  match s.now with
  | some (.kstep cell) =>
    .next (
      let s := taken s
      let c := cellAt s cell
      if c.arrFenced ∨ c.owner.any (fun n => !engRuns s n) then s
      else
        let r := (List.range 4).foldl (fun (r : Option Nat × State) i =>
          match r.1 with
          | some _ => r
          | none =>
            let e := (c.rot + i) % 4
            let q := tryStep cell e r.2
            (if q.1 then some e else none, q.2)) (none, s)
        match r.1 with
        | some e => setCell r.2 cell { cellAt r.2 cell with rot := (e + 1) % 4 }
        | none => r.2)
  | _ => .fault (.noEvent "KSTEP")

/-! ### Direct access (R299, R300) -/

/-- The element word: row, col and context; none with a reserved bit or an odd col. -/
def elemWord (w : Word) : Option (Nat × Nat × Nat) :=
  if fld w 18 46 ≠ 0 ∨ fld w 0 1 = 1 then none else some (fld w 8 8, fld w 0 8, fld w 16 2)

/-- mget (R299): a posted producer whose every fault is deferred; its value arrives when the timeline reaches n. -/
def execMget (d a b : BitVec 5) (ma mb : BitVec 2) (s : State) : Result :=
  let ss := [src a ma, src b mb]
  withOps ss (.posted d.toNat) s (fun vs => acqGate s
    (let cell := cellOfCore (myCore s)
     let pc := (me s).pc
     let th := myThr s
     let n := (arg vs 1).toNat
     let fail (c : Cause) (info : Word) (s : State) : State := post (.postedFail th d.toNat ⟨c, info, 0, pc⟩) s
     postProducer d ss s (fun s =>
       match engUse s cell (fld (arg vs 0) 16 2) th false with
       | some (c, info) => fail c info s
       | none =>
         match elemWord (arg vs 0) with
         | none => fail .badopnd (arg vs 0) s
         | some (row, col, e) =>
           if (engAt s cell e).last < n then fail .badopnd (arg vs 1) s
           else
             let s := engClaim cell e s
             if n ≤ (engAt s cell e).line then post (.postedArrive th d.toNat (accPair s cell row col)) s
             else mapEng cell e (fun x => { x with gets := x.gets ++ [⟨th, d.toNat, n, row, col, pc⟩] }) s)))

/-- accrd and accwr wait in flight until every earlier command of the context has completed (R299). -/
def accInstr (ss : List Src) (d : Dst) (s : State) (k : List Word → Nat → Nat → State → State) : Result :=
  withOps ss d s (fun vs => acqGate s
    (let cell := cellOfCore (myCore s)
     match engUse s cell (fld (arg vs 0) 16 2) (myThr s) false with
     | some (c, info) => raise c info 0 s
     | none =>
       match elemWord (arg vs 0) with
       | none => raise .badopnd (arg vs 0) 0 s
       | some (row, col, e) =>
         if (engAt s cell e).queue ≠ [] then waitRetry s
         else complete s (k vs row col (engClaim cell e (commit ss s)))))

/-- accrd (R299). -/
def execAccrd (d a : BitVec 5) (ma : BitVec 2) (s : State) : Result :=
  accInstr [src a ma] (.reg d.toNat) s (fun _ row col s =>
    writeDst d.toNat (accPair s (cellOfCore (myCore s)) row col) s)

/-- accwr (R299). -/
def execAccwr (a b : BitVec 5) (ma mb : BitVec 2) (s : State) : Result :=
  accInstr [src a ma, src b mb] .none s (fun vs row col s =>
    rawWrite s (cellsAt (accPa (cellOfCore (myCore s)) row col) (leBytes 8 (arg vs 1).toNat)))

def engStateCode : EngState → Nat
  | .free => 0 | .idle => 1 | .busy => 2 | .faulted => 3 | .releasing => 2

/-- The status word of mstat (R300). -/
def engStatusWord (s : State) (cell e : Nat) : Word :=
  let x := engAt s cell e
  w64 (engStateCode x.st + x.queue.length * 2 ^ 2 + b2n (cellAt s cell).arrFenced * 2 ^ 6 + x.status * 2 ^ 8 +
    (if x.st = .free then 0 else x.tid * 2 ^ 16 + lcoreOf s x.core * 2 ^ 36))

/-- mstat (R300). A release that has to wait is over once the context is the thread's no more, whoever has it then. -/
def execMstat (d a : BitVec 5) (ma : BitVec 2) (s : State) : Result :=
  let ss := [src a ma]
  withOps ss (.reg d.toNat) s (fun vs => acqGate s
    (let w := arg vs 0
     let cell := cellOfCore (myCore s)
     let e := fld w 0 2
     let op := fld w 4 4
     let x := engAt s cell e
     let mine := engMine x (myThr s) && x.st != .free
     let tid := (me s).tid
     let wait (s : State) : State :=
       waitRetry (mapEng cell e (fun x => { x with leavers := if tid ∈ x.leavers then x.leavers else x.leavers ++ [tid] }) s)
     let done (s : State) : State := mapEng cell e (fun x => { x with leavers := x.leavers.filter (fun y => y != tid) }) s
     let put (v : Word) (s' : State) : State := complete s (writeDst d.toNat v (commit ss s'))
     if fld w 2 2 ≠ 0 ∨ fld w 8 56 ≠ 0 ∨ 10 ≤ op then raise .badopnd w 0 s
     else if op = 0 then put (engStatusWord s cell e) s
     else if op = 7 then put (w64 x.last) s
     else if op = 8 ∧ tid ∈ x.leavers ∧ mine = false then put 0 (done s)
     else if x.st = .free then put 0 s
     else if !mine then raise .engowned (w64 e) 0 s
     else if op ≤ 6 then put (rg x.regs (op - 1)) s
     else if op = 8 then
       (if x.st = .releasing then wait s
        else
          let s' := releaseEng cell e s
          if (engAt s' cell e).st = .free then put 0 (done s') else wait s')
     else put 0 (if x.st = .faulted then mapEng cell e (fun x => { x with st := .idle, status := 0 }) s else s)))

end Sys2Proof.Machine
end

