-- ==== Sys2Proof/Machine/Hash.lean ====
section
/-!
DEFINITION. The two published functions that R386 and R389 name: SHA-512 (FIPS 180-4) and the verification of an Ed25519
signature (RFC 8032).
-/
namespace Sys2Proof.Machine

/-! ### SHA-512 -/

/-- The round constants of SHA-512. -/
def shaK : List Word :=
  [0x428a2f98d728ae22, 0x7137449123ef65cd, 0xb5c0fbcfec4d3b2f, 0xe9b5dba58189dbbc,
   0x3956c25bf348b538, 0x59f111f1b605d019, 0x923f82a4af194f9b, 0xab1c5ed5da6d8118] ++
  [0xd807aa98a3030242, 0x12835b0145706fbe, 0x243185be4ee4b28c, 0x550c7dc3d5ffb4e2,
   0x72be5d74f27b896f, 0x80deb1fe3b1696b1, 0x9bdc06a725c71235, 0xc19bf174cf692694] ++
  [0xe49b69c19ef14ad2, 0xefbe4786384f25e3, 0x0fc19dc68b8cd5b5, 0x240ca1cc77ac9c65,
   0x2de92c6f592b0275, 0x4a7484aa6ea6e483, 0x5cb0a9dcbd41fbd4, 0x76f988da831153b5] ++
  [0x983e5152ee66dfab, 0xa831c66d2db43210, 0xb00327c898fb213f, 0xbf597fc7beef0ee4,
   0xc6e00bf33da88fc2, 0xd5a79147930aa725, 0x06ca6351e003826f, 0x142929670a0e6e70] ++
  [0x27b70a8546d22ffc, 0x2e1b21385c26c926, 0x4d2c6dfc5ac42aed, 0x53380d139d95b3df,
   0x650a73548baf63de, 0x766a0abb3c77b2a8, 0x81c2c92e47edaee6, 0x92722c851482353b] ++
  [0xa2bfe8a14cf10364, 0xa81a664bbc423001, 0xc24b8b70d0f89791, 0xc76c51a30654be30,
   0xd192e819d6ef5218, 0xd69906245565a910, 0xf40e35855771202a, 0x106aa07032bbd1b8] ++
  [0x19a4c116b8d2d0c8, 0x1e376c085141ab53, 0x2748774cdf8eeb99, 0x34b0bcb5e19b48a8,
   0x391c0cb3c5c95a63, 0x4ed8aa4ae3418acb, 0x5b9cca4f7763e373, 0x682e6ff3d6b2b8a3] ++
  [0x748f82ee5defb2fc, 0x78a5636f43172f60, 0x84c87814a1f0ab72, 0x8cc702081a6439ec,
   0x90befffa23631e28, 0xa4506cebde82bde9, 0xbef9a3f7b2c67915, 0xc67178f2e372532b] ++
  [0xca273eceea26619c, 0xd186b8c721c0c207, 0xeada7dd6cde0eb1e, 0xf57d4f7fee6ed178,
   0x06f067aa72176fba, 0x0a637dc5a2c898a6, 0x113f9804bef90dae, 0x1b710b35131c471b] ++
  [0x28db77f523047d84, 0x32caab7b40c72493, 0x3c9ebe0a15c9bebc, 0x431d67c49c100d4c,
   0x4cc5d4becb3e42b6, 0x597f299cfc657e2a, 0x5fcb6fab3ad6faec, 0x6c44198c4a475817]

/-- The initial hash value of SHA-512. -/
def shaInit : List Word :=
  [0x6a09e667f3bcc908, 0xbb67ae8584caa73b, 0x3c6ef372fe94f82b, 0xa54ff53a5f1d36f1,
   0x510e527fade682d1, 0x9b05688c2b3e6c1f, 0x1f83d9abfb41bd6b, 0x5be0cd19137e2179]

/-- A doubleword of bytes, most significant first, and back. -/
def beWord (bs : List Byte) : Word := BitVec.ofNat 64 (bs.foldl (fun n b => n * 256 + b.toNat) 0)
def wordBe (w : Word) : List Byte := (List.range 8).map (fun i => BitVec.ofNat 8 (w.toNat / 2 ^ (8 * (7 - i))))

/-- The message schedule: the words after a window of the last sixteen, oldest first. -/
def shaSchedule : Nat → List Word → List Word
  | 0, _ => []
  | n + 1, w =>
    let a := w[1]?.getD 0
    let b := w[14]?.getD 0
    let s0 := a.rotateRight 1 ^^^ a.rotateRight 8 ^^^ (a >>> 7)
    let s1 := b.rotateRight 19 ^^^ b.rotateRight 61 ^^^ (b >>> 6)
    let x := w[0]?.getD 0 + s0 + w[9]?.getD 0 + s1
    x :: shaSchedule n (w.tail ++ [x])

/-- One round on the eight working words, with the sum of its constant and its schedule word. -/
def shaRound (h : List Word) (kw : Word) : List Word :=
  match h with
  | [a, b, c, d, e, f, g, i] =>
    let s1 := e.rotateRight 14 ^^^ e.rotateRight 18 ^^^ e.rotateRight 41
    let ch := (e &&& f) ^^^ (~~~e &&& g)
    let t1 := i + s1 + ch + kw
    let s0 := a.rotateRight 28 ^^^ a.rotateRight 34 ^^^ a.rotateRight 39
    let maj := (a &&& b) ^^^ (a &&& c) ^^^ (b &&& c)
    [t1 + (s0 + maj), a, b, c, d + t1, e, f, g]
  | _ => h

/-- The compression of one block of sixteen words. -/
def shaBlock (h block : List Word) : List Word :=
  let ws := block ++ shaSchedule 64 block
  List.zipWith (· + ·) h ((List.zipWith (· + ·) shaK ws).foldl shaRound h)

/-- The padded message: a one bit, zeros to 16 bytes short of a multiple of 128, and the length in bits. -/
def shaPad (m : List Byte) : List Byte :=
  let n := m.length
  m ++ [0x80] ++ List.replicate ((239 - n % 128) % 128) 0 ++
    (List.range 16).map (fun i => BitVec.ofNat 8 (8 * n / 2 ^ (8 * (15 - i))))

/-- The blocks of a padded message. -/
def shaBlocks (m : List Byte) : List (List Word) :=
  (List.range (m.length / 128)).map (fun i => (List.range 16).map (fun j => beWord ((m.drop (128 * i + 8 * j)).take 8)))

/-- SHA-512 of some bytes: 64 bytes. -/
def sha512 (m : List Byte) : List Byte := ((shaBlocks (shaPad m)).foldl shaBlock shaInit).flatMap wordBe

/-- H of R386: the first 32 bytes of SHA-512. -/
def contentHash (m : List Byte) : List Byte := (sha512 m).take 32

/-! ### Ed25519 -/

/-- The field's prime, the order of the base point, the curve's constant d and a square root of -1. -/
def edP : Nat := 2 ^ 255 - 19
def edL : Nat := 2 ^ 252 + 27742317777372353535851937790883648493
def edD : Nat := 37095705934669439343138083508754565189542113879843219016388785533085940283555
def edRoot : Nat := 19681161376707505956807079304988542015446066515923890162744021073123829784752

/-- A point in extended coordinates: X, Y, Z and T with x = X / Z, y = Y / Z, x y = T / Z. -/
structure EdPoint where
  x : Nat
  y : Nat
  z : Nat
  t : Nat

/-- The neutral point and the base point. -/
def edZero : EdPoint := { x := 0, y := 1, z := 1, t := 0 }
def edBase : EdPoint :=
  { x := 15112221349535400772501151409588531511454012693041857206046113283949847762202,
    y := 46316835694926478169428394003475163141307993866256225615783033603165251855960,
    z := 1,
    t := 46827403850823179245072216630277197565144205554125654976674165829533817101731 }

/-- a - b in the field. -/
def edSub (a b : Nat) : Nat := (a + (edP - b % edP)) % edP

/-- The sum of two points. -/
def edAdd (p q : EdPoint) : EdPoint :=
  let a := edSub p.y p.x * edSub q.y q.x % edP
  let b := (p.y + p.x) * (q.y + q.x) % edP
  let c := 2 * edD * p.t * q.t % edP
  let d := 2 * p.z * q.z % edP
  let e := edSub b a
  let f := edSub d c
  let g := (d + c) % edP
  let h := (b + a) % edP
  { x := e * f % edP, y := g * h % edP, z := f * g % edP, t := e * h % edP }

/-- The bits of a number below 2^n, the most significant first. -/
def msbBits (n x : Nat) : List Bool := (List.range n).map (fun i => x.testBit (n - 1 - i))

/-- A multiple of a point, of a factor below 2^256. -/
def edMul (k : Nat) (p : EdPoint) : EdPoint :=
  (msbBits 256 k).foldl (fun r b => let d := edAdd r r; if b then edAdd d p else d) edZero

/-- A power in the field, of an exponent below 2^255. -/
def edPow (x k : Nat) : Nat := (msbBits 255 k).foldl (fun r b => let d := r * r % edP; if b then d * x % edP else d) 1

/-- Whether two points are equal. -/
def edEq (p q : EdPoint) : Bool := p.x * q.z % edP == q.x * p.z % edP && p.y * q.z % edP == q.y * p.z % edP

/-- The point that 32 bytes encode: y, least significant byte first, with the low bit of x on top. -/
def edDecode (bs : List Byte) : Option EdPoint :=
  let n := leNat bs
  let y := n % 2 ^ 255
  let sign := n / 2 ^ 255 % 2
  let u := edSub (y * y) 1
  let v := (edD * (y * y % edP) + 1) % edP
  let v3 := v * v * v % edP
  let x0 := u * v3 * edPow (u * v3 * v3 * v) ((edP - 5) / 8) % edP
  let x1 := if v * x0 * x0 % edP = u then some x0 else if v * x0 * x0 % edP = edSub 0 u then some (x0 * edRoot % edP) else none
  match x1 with
  | none => none
  | some x =>
    if bs.length ≠ 32 ∨ edP ≤ y ∨ (x = 0 ∧ sign = 1) then none
    else
      let x := if x % 2 = sign then x else edP - x
      some { x := x, y := y, z := 1, t := x * y % edP }

/-- Ed25519 verification of RFC 8032, with its cofactored equation (PRESUMED, unsafe: log entry 110). -/
def edVerify (key msg sig : List Byte) : Bool :=
  let r := sig.take 32
  let n := leNat (sig.drop 32)
  match edDecode key, edDecode r with
  | some a, some p =>
    let k := leNat (sha512 (r ++ key ++ msg)) % edL
    sig.length == 64 && decide (n < edL) && edEq (edMul 8 (edMul n edBase)) (edMul 8 (edAdd p (edMul k a)))
  | _, _ => false

end Sys2Proof.Machine
end

