-- ==== Sys2Proof/Machine/Region.lean ====
section
/-!
DEFINITION. Storage regions, frame rings and stacks, pins (19 R441 to R446), and the translations a unit drops: what the
copy and collective engines, the trace units and the storage queue engines share.
-/
namespace Sys2Proof.Machine

/-! ### Regions and rings (R442) -/

/-- A valid entry of the region table. -/
structure RegionEnt where
  at_ : Nat
  base : Nat
  len : Nat
  drive : Nat
  domain : Nat
  lba : Nat
  count : Nat
  ring : Nat
  size : Nat
  hand : Nat
  resident : Nat
  deriving DecidableEq, Repr

/-- Entry i of the region table, while it is valid; before boot there is none (DEDUCED, unsafe: log entry 17). -/
def regionEnt (s : State) (i : Nat) : Option RegionEnt :=
  let a := s.host.regtab.toNat + 64 * i
  let w (j : Nat) : Word := cur64 s (a + 8 * j)
  if s.host.regtab = 0 ∨ fld (w 0) 0 1 = 0 then none
  else some ⟨a, fld (w 0) 16 40 * 65536, (w 1).toNat, fld (w 2) 0 3, fld (w 2) 3 10, (w 3).toNat, (w 4).toNat, (w 5).toNat,
    fld (w 6) 0 32, fld (w 6) 32 32, fld (w 7) 0 32⟩

def regionEnts (s : State) : List RegionEnt := (List.range 256).filterMap (regionEnt s)

/-- The region that holds a page. -/
def regionOf (s : State) (va : Nat) : Option RegionEnt :=
  (regionEnts s).find? (fun r => decide (r.base ≤ va) && decide (va < r.base + r.len))

/-- The address of a ring entry. -/
def ringAt (r : RegionEnt) (i : Nat) : Nat := r.ring + 32 * i

/-- A ring entry's frame, page, pin count and EVICTING. -/
def ringFrame (s : State) (a : Nat) : Nat := (cur64 s a).toNat
def ringPage (s : State) (a : Nat) : Nat := (cur64 s (a + 8)).toNat
def ringPins (s : State) (a : Nat) : Nat := fld (cur64 s (a + 16)) 0 32
def ringEvicting (s : State) (a : Nat) : Bool := fld (cur64 s (a + 16)) 32 1 == 1

/-- The 64 KiB page that holds an address. -/
def bigPage (va : Nat) : Nat := va / 65536 * 65536

/-- The ring entry whose frame holds a page; none outside regions. -/
def ringFind (s : State) (va : Nat) : Option Nat :=
  (regionOf s va).bind (fun r =>
    ((List.range r.size).find? (fun i => ringFrame s (ringAt r i) != 0 && ringPage s (ringAt r i) == bigPage va)).map (ringAt r))

/-- The region of a ring entry. -/
def ringRegion (s : State) (a : Nat) : Option RegionEnt :=
  (regionEnts s).find? (fun r => decide (r.ring ≤ a) && decide (a < r.ring + 32 * r.size))

/-- RESIDENT and HAND as the device writes them. -/
def setResident (r : RegionEnt) (n : Nat) (s : State) : State :=
  wr64 s (r.at_ + 56) (setFld (cur64 s (r.at_ + 56)) 0 32 n)
def setHand (r : RegionEnt) (n : Nat) (s : State) : State :=
  wr64 s (r.at_ + 48) (setFld (cur64 s (r.at_ + 48)) 32 32 n)

/-! ### The engines' tables (R441) -/

/-- The chiplet whose storage queue engine serves a page (R441). -/
def pageChip (va : Nat) : Nat := chipOfCell (sliceOfVa va)

/-- The page of an operation and its size in bytes; a programmed transfer has none. -/
def opPage : SqeOp → Option (Nat × Nat)
  | .fill va _ _ => some (va, 65536)
  | .evict va _ _ _ _ _ => some (va, 65536)
  | .migrate va bits _ _ _ => some (va, 2 ^ bits)
  | .transfer _ => none

/-- The operation in flight on the page of an address, in whichever engine's table (R441): engine, number, operation. -/
def pageOp (s : State) (va : Nat) : Option (Nat × Nat × SqeOp) :=
  s.sqes.findSome? (fun q => q.2.ops.findSome? (fun o => o.2.bind (fun op =>
    (opPage op).bind (fun p => if p.1 ≤ va ∧ va < p.1 + p.2 then some (q.1, o.1, op) else none))))

/-- Takes an operation number, when one of the 1,024 is free. -/
def takeOp (chip : Nat) (op : SqeOp) (s : State) : Option (Nat × State) :=
  let q := sqeAt s chip
  ((List.range 1024).find? (fun n => q.ops.get none n == none)).map (fun n =>
    (n, setSqe s chip { q with ops := q.ops.put none n (some op) }))

def setOp (chip n : Nat) (op : SqeOp) (s : State) : State :=
  let q := sqeAt s chip
  setSqe s chip { q with ops := q.ops.put none n (some op) }

/-- The depth of an I/O queue pair (R441, R465). -/
def pairDepth : Nat := 1024

/-- A queue pair of a chiplet's engine on a drive, the first that has room (DESIGN CHOICE, unsafe: log entry 107). -/
def pairFor (s : State) (chip drive : Nat) : Option Nat :=
  [0, 1].find? (fun i => decide (((sqeAt s chip).pairs.get {} (2 * drive + i)).out.length + 1 < pairDepth))

/-- A command of an operation goes to its drive by one of the engine's two queue pairs, 2s + 1 and 2s + 2 on chiplet s, or waits
for room, in order (R441, R465). -/
def nvmeSend (chip n : Nat) (s : State) (c : NvmeCmd) : State :=
  let q := sqeAt s chip
  match (if q.backlog.any (fun x => x.2.drive == c.drive) then none else pairFor s chip c.drive) with
  | none => setSqe s chip { q with backlog := q.backlog ++ [(n, c)] }
  | some i =>
    let p := q.pairs.get {} (2 * c.drive + i)
    let tail := (p.tail + 1) % pairDepth
    { setSqe s chip { q with pairs := q.pairs.put {} (2 * c.drive + i) { p with tail := tail, out := p.out ++ [n] } } with
      out := s.out ++ [.nvme (2 * chip + 1 + i) p.tail c, .doorbell c.drive (2 * chip + 1 + i) tail] }

/-- A queue pair has completed m commands of an operation: the completion head moves on, and its phase tag turns as it wraps (R465). -/
def pairDone (n : Nat) (p : NvmePair) : NvmePair :=
  let m := (p.out.filter (fun x => x == n)).length
  { p with head := (p.head + m) % pairDepth, phase := if p.head + m < pairDepth then p.phase else !p.phase,
           out := p.out.filter (fun x => x != n) }

/-- The commands of an operation are over: their places are free, and commands that wait for one go. -/
def nvmeDone (chip n : Nat) (s : State) : State :=
  let q := sqeAt s chip
  let waits := q.backlog.filter (fun x => x.1 != n)
  let s := setSqe s chip { q with
    backlog := [], pairs := q.pairs.foldl (fun t x => t.put {} x.1 (pairDone n x.2)) q.pairs }
  waits.foldl (fun s x => nvmeSend chip x.1 s x.2) s

/-- An operation ends: its number is free, and the oldest miss the engine could not take is offered again (R441). -/
def endOp (chip n : Nat) (s : State) : State :=
  let s := nvmeDone chip n s
  let q := sqeAt s chip
  let page := ((q.ops.get none n).bind opPage).map (fun p => p.1)
  let s := setSqe s chip { q with ops := q.ops.put none n none, leaves := q.leaves.filter (fun x => some x.1 != page) }
  retryFills (match q.offers.head? with
    | some va => post (.storageFaultAccept chip va) s
    | none => s)

/-! ### Pins (R444) -/

/-- What a pin finds. -/
inductive Pinned where
  /-- The frame lies outside regions: nothing is counted. -/
  | free
  | refused
  | held (entry : Nat) (s : State)
  deriving DecidableEq, Repr

/-- One pin of the frame of a page: the test of EVICTING and the increment in one action. -/
def pinPage (va : Nat) (s : State) : Pinned :=
  match ringFind s va with
  | none => .free
  | some a =>
    if ringEvicting s a then .refused
    else .held a (wr64 s (a + 16) (setFld (cur64 s (a + 16)) 0 32 (ringPins s a + 1)))

/-- A pin is released; at 0 the fills that wait for a victim go on. -/
def unpin (a : Nat) (s : State) : State :=
  let n := ringPins s a - 1
  let s := wr64 s (a + 16) (setFld (cur64 s (a + 16)) 0 32 n)
  if n = 0 then retryFills s else s

/-! ### Frame stacks (R443) -/

def stackHdr (s : State) (colour : Nat) : Nat := s.host.stktab.toNat + 32 * colour
def stackCount (s : State) (colour : Nat) : Nat := fld (cur64 s (stackHdr s colour + 8)) 32 32
def stackCap (s : State) (colour : Nat) : Nat := fld (cur64 s (stackHdr s colour + 8)) 0 32
def setCount (colour n : Nat) (s : State) : State :=
  wr64 s (stackHdr s colour + 8) (setFld (cur64 s (stackHdr s colour + 8)) 32 32 n)

/-- The colour of a page and of a frame (R443). -/
def pageColour (va : Nat) : Nat := colourOf (bigPage va / 16384 % 2 ^ 42)
def frameColour (pa : Nat) : Nat := colourOf (pa / 65536 * 4)

/-- Pops a frame; one in the reserved range is discarded and reported (R518). The fuel is the stack's count. -/
def popFrom (colour : Nat) : Nat → State → Option Nat × State
  | 0, s => (none, s)
  | n + 1, s =>
    let f := (cur64 s ((cur64 s (stackHdr s colour)).toNat + 8 * n)).toNat
    let s := setCount colour n s
    if inReserved s f then popFrom colour n (errorRec 7 1 0xFFF {} (w64 f) 0 0 s) else (some f, s)

def popFrame (colour : Nat) (s : State) : Option Nat × State := popFrom colour (stackCount s colour) s

/-- Pushes a frame on its colour's stack; a full one returns it to the host (R445 step 6). -/
def pushFrame (f : Nat) (s : State) : State :=
  let c := frameColour f
  let n := stackCount s c
  if n < stackCap s c then setCount c (n + 1) (wr64 s ((cur64 s (stackHdr s c)).toNat + 8 * n) (w64 f))
  else hostEvent { type := 8, ctx := 0, reply := false, addr := w64 f, info := w64 c } s

/-! ### Translations (R438, R453) -/

/-- Whether a cached table pointer stands on the path of an address in a range (R453). -/
def WalkPtr.onPath (x : WalkPtr) (lo hi : Nat) : Bool :=
  let n := 2 ^ (12 + 9 * x.level)
  decide (x.tag * n < hi) && decide (lo < (x.tag + 1) * n)

/-- Drops the checked chunks whose form lies on a page of a range, wherever they are kept (R386). -/
def dropChunks (lo hi : Nat) (s : State) : State :=
  let out (c : Chunk) : Bool := decide (c.va < hi) && decide (lo < c.va + c.form.length)
  s.slices.foldl (fun s x =>
    if x.2.chunks.any out then
      let sl := sliceAt s x.1
      setSlice s x.1 { sl with chunks := sl.chunks.filter (fun c => !out c) }
    else s) s

/-- Drops every translation entry that meets a range, and the range's checked chunks. -/
def dropXlat (slice lo hi : Nat) (s : State) : State :=
  let s := dropChunks lo hi s
  let sl := sliceAt s slice
  setSlice s slice { sl with
    xlat := sl.xlat.filter (fun e => !(decide (e.va < hi) && decide (lo < e.va + 2 ^ e.bits)))
    pwc := sl.pwc.filter (fun x => !x.onPath lo hi) }

/-- Drops a range at every slice that holds a translation of it. -/
def dropAll (lo hi : Nat) (s : State) : State :=
  s.slices.foldl (fun s x =>
    if x.2.xlat.any (fun e => decide (e.va < hi) && decide (lo < e.va + 2 ^ e.bits)) || x.2.pwc.any (fun p => p.onPath lo hi) then dropXlat x.1 lo hi s else s)
    (dropChunks lo hi s)

/-- A slice's 8 walkers take the entries that wait for one, oldest first (R14, R438). -/
def startWalks (slice : Nat) (s : State) : State :=
  let sl := sliceAt s slice
  let next := (sl.coal.filter (fun c => c.walk == 1)).take (8 - sl.coal.countP (fun c => c.walk == 2))
  if next = [] then s
  else next.foldl (fun s c => post (.walkComplete slice (w64 (c.page * 4096))) s)
    (setSlice s slice { sl with coal := sl.coal.map (fun c => if c ∈ next then { c with walk := 2 } else c) })

/-- The coalescing entries of a range at a slice walk again (R438, R453); what any slice waited for there is over. -/
def walkAgain (slice lo hi : Nat) (s : State) : State :=
  let inR (c : Coal) : Bool := decide (lo < c.page * 4096 + 4096) && decide (c.page * 4096 < hi)
  let s := s.slices.foldl (fun s x =>
    if x.2.coal.any (fun c => inR c && c.held != 0) then
      setSlice s x.1 { x.2 with coal := x.2.coal.map (fun c => if inR c then { c with held := 0 } else c) }
    else s) s
  let sl := sliceAt s slice
  if sl.coal.any (fun c => inR c && c.walk == 0) then
    startWalks slice (setSlice s slice { sl with coal := sl.coal.map (fun c => if inR c && c.walk == 0 then { c with walk := 1 } else c) })
  else s

def walkAgainAll (lo hi : Nat) (s : State) : State := s.slices.foldl (fun s x => walkAgain x.1 lo hi s) s

/-- Whether an access translated at an address of a range is still outstanding (R453). -/
def accessOut (s : State) (lo hi : Nat) : Bool :=
  let inR (va : Word) : Bool := decide (lo < va.toNat + 32) && decide (va.toNat < hi)
  let inFlight (f : Flight) : Bool := match f.ev with
    | .homeRead r => inR r.va
    | .remoteAccess _ _ (.ldp r _) => inR r.va
    | .remoteAccess _ va (.peer _ _ _ _) => inR va
    | .loadReply _ va _ _ _ => inR va
    | .homeWrite (.fe _ _ va _ _ _ _) => inR va
    | _ => false
  let translated (e : SqEnt) : Bool := match e.req with
    | some (.fe _ _ _ _ _ _ _) => true
    | _ => e.cells != []
  let moving (op : SqeOp) : Bool := match op with
    | .transfer x => x.sent && !x.ended && decide (lo < x.buf.toNat + x.len) && decide (x.buf.toNat < hi)
    | _ => false
  s.agenda.any inFlight || s.held.any inFlight || s.sqes.any (fun q => q.2.ops.any (fun o => o.2.any moving)) ||
  s.cores.any (fun c => c.2.sq.any (fun e => translated e && inR e.va)) ||
  s.slots.any (fun p => match p.2.occ with
    | .thread t => (match t.form with
      | .inFlight (.storeCheck es _ _) => es.any (fun x => inR x.1.va)
      | _ => false)
    | _ => false)

/-- Whether a frame of a page in a range is pinned. -/
def pinsOut (s : State) (lo hi : Nat) : Bool :=
  (regionEnts s).any (fun r => decide (r.base < hi) && decide (lo < r.base + r.len) &&
    (List.range r.size).any (fun i =>
      let a := ringAt r i
      ringFrame s a != 0 && ringPins s a != 0 && decide (ringPage s a < hi) && decide (lo < ringPage s a + 65536)))

/-- The home actions of flushing lines in order (R445 step 4): whether all are ready, and the state. -/
def flushLines (slice : Nat → Nat) (lines : List Nat) (s : State) : Bool × State :=
  lines.foldl (fun r l =>
    let q := prepLine (slice l) l none .write r.2
    (r.1 && q.1 && (dirAt q.2 l).invs == [], if q.1 then invalidateLine (slice l) l none none q.2 else q.2)) (true, s)

end Sys2Proof.Machine
end

