-- ==== Sys2Proof/Machine/Copy.lean ====
section
/-!
DEFINITION. The copy engine (13): xcopy, xset, xfill, xcancel, the elements of a command, its completion, and tl.read
and tl.arm for the timelines of both engines.
-/
namespace Sys2Proof.Machine

/-! ### Registers (R335, R336) -/

def xr (r : Vector Word 38) (i : Nat) : Word := r[i]?.getD 0
def xDims (r : Vector Word 38) : Nat := fld (xr r 36) 0 4
def xEsize (r : Vector Word 38) : Nat := fld (xr r 36) 4 3
def xCvt (r : Vector Word 38) : Bool := fld (xr r 36) 7 1 == 1
def xSfmt (r : Vector Word 38) : Nat := fld (xr r 36) 8 6
def xDfmt (r : Vector Word 38) : Nat := fld (xr r 36) 14 6
def xSkind (r : Vector Word 38) : Nat := fld (xr r 36) 20 2
def xDkind (r : Vector Word 38) : Nat := fld (xr r 36) 22 2
def xScope (r : Vector Word 38) : Nat := fld (xr r 36) 24 3
def xBar (r : Vector Word 38) : Bool := fld (xr r 36) 27 1 == 1
def xTbank (r : Vector Word 38) : Nat := fld (xr r 36) 28 2
def xExt (r : Vector Word 38) (n : Nat) : Nat := fld (xr r n) 0 32

/-- The source's and destination's element size in half bytes (R336, R338); xfill ignores CVT (R344). -/
def xHalf (fill dst : Bool) (r : Vector Word 38) : Nat :=
  if xCvt r && !fill then nibsOf (if dst then xDfmt r else xSfmt r) else 2 ^ xEsize r

/-- An element's size in whole bytes on a side. -/
def wholeBytes (half : Nat) : Nat := (half + 1) / 2

/-- Elements of a command. -/
def xCount (r : Vector Word 38) : Nat := (List.range (xDims r)).foldl (fun m n => m * xExt r n) 1

/-- Destination bytes of a command (R340). -/
def xBytes (fill : Bool) (r : Vector Word 38) : Nat := (xCount r * xHalf fill true r + 1) / 2

/-! ### Geometry (R337) -/

/-- The offset of element k from its base on a side, whose strides begin at register st, with its nibble. -/
def xOffset (r : Vector Word 38) (st half k : Nat) : Int × Nat :=
  let x := (List.range (xDims r)).foldl (fun (x : Int × Nat) n =>
    (x.1 + ((x.2 % xExt r n : Nat) : Int) * (xr r (st + n)).toInt, x.2 / xExt r n)) ((0 : Int), k)
  let i0 := k % xExt r 0
  if half = 1 then (x.1 + ((i0 / 2 : Nat) : Int), i0 % 2) else (x.1, 0)

/-- The least and greatest offsets of a side, in exact integers. -/
def xSpread (r : Vector Word 38) (st half : Nat) : Int × Int :=
  let x := (List.range (xDims r)).foldl (fun (x : Int × Int) n =>
    let d := ((xExt r n - 1 : Nat) : Int) * (xr r (st + n)).toInt
    if d < 0 then (x.1 + d, x.2) else (x.1, x.2 + d)) ((0 : Int), (0 : Int))
  if half = 1 then (x.1, x.2 + (((xExt r 0 - 1) / 2 : Nat) : Int)) else x

/-- Whether every element of a side lies in an object of limit bytes. -/
def xInside (r : Vector Word 38) (st half : Nat) (base : Word) (limit : Nat) : Bool :=
  let x := xSpread r st half
  decide (0 ≤ (base.toNat : Int) + x.1) && decide ((base.toNat : Int) + x.2 + (wholeBytes half : Int) ≤ (limit : Int))

/-! ### The checks of R343 -/

def copyAt (s : State) (core e : Nat) : CopyCtx := (coreAt s core).copy[e]?.getD {}

/-- Whether the copy engine of a core's cell is fenced. -/
def copyFencedAt (s : State) (core : Nat) : Bool := (cellAt s (cellOfCore core)).copyFenced

/-- The registers a use finds: a claim sets every one to 0 (R332, R285). -/
def copyRegs (x : CopyCtx) : Vector Word 38 := if x.st = .free then Vector.replicate 38 0 else x.regs

/-- Steps 1 to 3 of R343. -/
def copyUse (s : State) (core e : Nat) (th : Thr) : Option (Cause × Word) :=
  let x := copyAt s core e
  if copyFencedAt s core then some (.fenced, 0)
  else if x.st = .releasing ∨ (x.st ≠ .free ∧ !(x.tid == th.tid && x.ctx == th.ctx)) then some (.engowned, w64 e)
  else if x.st = .faulted then some (.engfault, w64 x.status)
  else none

/-- One side's rules of kind and half bytes (R337): the offending word. -/
def xSide (fill dst : Bool) (r : Vector Word 38) (base : Word) (span : Nat) : Option Word :=
  let st := if dst then 24 else 12
  let half := xHalf fill dst r
  let kind := if dst then xDkind r else xSkind r
  let fmt := if dst then xDfmt r else xSfmt r
  let limit := match kind with | 1 => span | 2 => 0x100000 | _ => 0x40000
  if half = 1 ∧ xr r st ≠ 0 then some (xr r st)
  else if half = 1 ∧ xExt r 0 % 2 ≠ 0 then some (xr r 0)
  else if kind = 3 ∧ (half ≠ 8 ∨ (xCvt r ∧ fill = false ∧ fmt ≠ 1 ∧ fmt ≠ 13)) then some (xr r 36)
  else if kind ≠ 0 ∧ !xInside r st half base limit then some base
  else none

/-- BADOPND of xcopy and xfill (R343): the offending word. DEDUCED, unsafe: log entry 51. -/
def copyOperands (fill : Bool) (r : Vector Word 38) (a b : Word) (span : Nat) : Option Word :=
  let used := List.range (xDims r)
  if fld (xr r 36) 30 34 ≠ 0 ∨ xDims r = 0 ∨ 12 < xDims r ∨ (5 ≤ xEsize r ∧ (fill ∨ xCvt r = false)) ∨ xSkind r = 1 ∨
      4 < xScope r then some (xr r 36)
  else
    match used.find? (fun n => fld (xr r n) 32 32 != 0 || xExt r n == 0) with
    | some n => some (xr r n)
    | none =>
      if fld (xr r 37) 56 8 ≠ 0 ∨ fld (xr r 37) 0 4 ≠ 0 then some (xr r 37)
      else
        match (if fill then none else xSide fill false r a 0) with
        | some w => some w
        | none =>
          match xSide fill true r (if xDkind r = 1 then 0 else b) span with
          | some w => some w
          | none => if xBar r ∧ 2 ^ 31 ≤ xBytes fill r then some (xr r 36) else none

/-- MISALIGN of a side (R343): base or a used stride no multiple of the element size. -/
def xMisaligned (fill dst : Bool) (r : Vector Word 38) (base : Word) : Bool :=
  let n := wholeBytes (xHalf fill dst r)
  let st := if dst then 24 else 12
  base.toNat % n != 0 || (List.range (xDims r)).any (fun i => (xr r (st + i)).toNat % n != 0)

/-- FMTCODE of a conversion (R65): the code. -/
def xFmtCode (r : Vector Word 38) : Option Nat :=
  let res (c : Nat) : Bool := decide (16 ≤ c ∧ c < 32)
  if xCvt r = false then none
  else if res (xSfmt r) then some (xSfmt r)
  else if res (xDfmt r) then some (xDfmt r)
  else if xSfmt r ≠ xDfmt r ∧ (xSfmt r = 0 ∨ xDfmt r = 0) then some 0
  else none

/-- Commands queued or running on a core's four contexts (R331). -/
def copyLoad (s : State) (core : Nat) : Nat := ((coreAt s core).copy.toList.map (fun x => x.queue.length)).foldl (· + ·) 0

/-- Claims a FREE context for the executing thread (R332, R285). -/
def copyClaim (core e : Nat) (s : State) : State :=
  if (copyAt s core e).st = .free then
    let th := myThr s
    mapCopy core e (fun x => { x with st := .idle, ctx := th.ctx, tid := th.tid, slot := th.slot, status := 0,
                                      regs := Vector.replicate 38 0 }) s
  else s

/-- Queues a command of the executing thread (R331, R344). -/
def queueCopy (fill : Bool) (core e : Nat) (a b : Word) (ss : List Src) (s : State) : State :=
  let s0 := s
  let s := copyClaim core e (commit ss s)
  let x := copyAt s core e
  let cmd : CopyCmd :=
    { n := x.last + 1, th := myThr s, priv := BitVec.ofNat 2 (privOf (me s)), fill := fill, src := a, dst := b,
      regs := x.regs, bank := (coreAt s core).banks[xTbank x.regs]?.getD {} }
  complete s0 (mapCopy core e (fun x => { x with st := .busy, last := x.last + 1, slot := s.cur, queue := x.queue ++ [cmd] }) s)

/-- xcopy and xfill (R343, R344). -/
def copyInstr (fill : Bool) (a b : BitVec 5) (e : BitVec 2) (s : State) : Result :=
  let ss := [srcP a, srcP b]
  withOps ss .none s (fun vs => acqGate s
    (let core := myCore s
     let e := e.toNat
     let r := copyRegs (copyAt s core e)
     let src_ := arg vs 0
     let dst := arg vs 1
     match copyUse s core e (myThr s) with
     | some (c, info) => raise c info 0 s
     | none =>
       let tile := if xDkind r = 1 then some (findTile s (me s).ctx dst) else none
       match tile with
       | some none => raise .badtile dst 0 s
       | _ =>
         let span := (tile.bind (fun t => t.map (fun x => x.2.span))).getD 0
         match copyOperands fill r src_ dst span with
         | some w => raise .badopnd w 0 s
         | none =>
           if !fill && xMisaligned fill false r src_ then raise .misalign (memInfo .read 0) src_ s
           else if xMisaligned fill true r (if xDkind r = 1 then 0 else dst) then raise .misalign (memInfo .write 0) dst s
           else
             match (if fill then none else xFmtCode r) with
             | some c => raise .fmtcode (w64 c) 0 s
             | none =>
               if !fill && xCvt r && xSfmt r != xDfmt r && isTableFmt (xDfmt r) &&
                   !((coreAt s core).banks[xTbank r]?.getD {}).encodable then raise .fmtenc (w64 (xTbank r)) 0 s
               else if 64 ≤ copyLoad s core then park ⟨true, .limit 2, false⟩ s
               else engRelease (BitVec.ofNat 3 (xScope r)) s (queueCopy fill core e src_ dst ss)))

/-- xcopy (R344). -/
def execXcopy (a b : BitVec 5) (e : BitVec 2) (s : State) : Result := copyInstr false a b e s

/-- xfill (R344). -/
def execXfill (a b : BitVec 5) (e : BitVec 2) (s : State) : Result := copyInstr true a b e s

/-- xset (R345). -/
def execXset (a : BitVec 5) (e : BitVec 2) (index : BitVec 6) (s : State) : Result :=
  let ss := [srcP a]
  withOps ss .none s (fun vs => acqGate s
    (let core := myCore s
     let x := copyAt s core e.toNat
     match copyUse s core e.toNat (myThr s) with
     | some (.engowned, info) => raise .engowned info 0 s
     | some (.fenced, info) => if x.st = .free then raise .fenced info 0 s else set core vs ss x s
     | _ => set core vs ss x s))
where
  set (core : Nat) (vs : List Word) (ss : List Src) (x : CopyCtx) (s : State) : State :=
    if x.st ≠ .free ∧ !(x.tid == (me s).tid && x.ctx == (me s).ctx) then raise .engowned (w64 e.toNat) 0 s
    else complete s (mapCopy core e.toNat (fun x => { x with regs := x.regs.setIfInBounds index.toNat (arg vs 0) })
      (copyClaim core e.toNat (commit ss s)))

/-- xcancel (R346): the queued commands end with status 6; the thread stays in flight until nothing runs. -/
def execXcancel (e : BitVec 2) (rel : BitVec 1) (s : State) : Result :=
  withOps [] .none s (fun _ => acqGate s
    (let core := myCore s
     let e := e.toNat
     let x := copyAt s core e
     if x.st = .free then complete s s
     else if x.st = .releasing ∨ !(x.tid == (me s).tid && x.ctx == (me s).ctx) then raise .engowned (w64 e) 0 s
     else
       let running (q : CopyCmd) : Bool := q.next != 0 || q.pins != [] || q.finished
       let cancel (i : Nat) (q : CopyCmd) : CopyCmd :=
         if q.finished ∨ (i = 0 ∧ running q) then q else { q with status := 6, finished := true }
       if x.queue ≠ [] then
         let s := mapCopy core e (fun x => { x with queue := x.queue.zipIdx.map (fun q => cancel q.2 q.1) }) s
         let s := if (copyAt s core e).queue.head?.any (fun q => q.finished) ∧
             !s.agenda.any (fun f => f.ev == .copyCommandComplete core e) ∧
             !s.held.any (fun f => f.ev == .copyCommandComplete core e) then post (.copyCommandComplete core e) s else s
         waitRetry s
       else
         complete s (if rel = 1 then offerWork x.ctx (chipOfCore core) (mapCopy core e (fun x => { x with st := .free, status := 0 }) s)
           else mapCopy core e (fun x => { x with st := .idle, status := 0 }) s)))

/-! ### Elements (R337 to R339, R342) -/

/-- What an access of an element finds. -/
inductive CopyPlace where
  | at_ (pa : Nat) (s : State)
  | stall (s : State)
  | fail (status : Nat) (s : State)
  deriving DecidableEq, Repr

/-- The status a refused element gives its command (R334). -/
def copyStatus : Cause → Nat
  | .badaddr => 2 | .fenced => 3 | .tagviol => 4 | _ => 1

def mapCmd (core e : Nat) (f : CopyCmd → CopyCmd) (s : State) : State :=
  mapCopy core e (fun x => { x with queue := match x.queue with | q :: t => f q :: t | [] => [] }) s

/-- Pins the frame of a page for the running command: at most 64, the earliest released first (R342). -/
def copyPin (core e : Nat) (va : Word) (s : State) : Option State :=
  match region va with
  | .paged =>
    match ringFind s va.toNat with
    | none => some s
    | some a =>
      let pins := ((copyAt s core e).queue.head?.map (fun q => q.pins)).getD []
      if a ∈ pins then some s
      else match pinPage va.toNat s with
        | .free => some s
        | .refused => none
        | .held a s =>
          match pins with
          | p :: rest =>
            if pins.length < 64 then some (mapCmd core e (fun q => { q with pins := pins ++ [a] }) s)
            else some (unpin p (mapCmd core e (fun q => { q with pins := rest ++ [a] }) s))
          | [] => some (mapCmd core e (fun q => { q with pins := [a] }) s)
  | _ => some s

/-- The place of one kind 0 element, made ready at its home. -/
def copyPlace (core e : Nat) (q : CopyCmd) (k : Acc) (va : Word) (size : Nat) (s : State) : CopyPlace :=
  match check s core q.th.ctx q.priv.toNat va size k true with
  | .fault c => .fail (copyStatus c) s
  | .miss => .stall (askXlat va (.engine (cellOfCore core) core e) s)
  | .ok pa =>
    let staged := if isSpad pa then stagedCheck s (spadCore pa) ((pa - spadBase) % spadSize) size k else .clear
    match staged with
    | .prot _ => .fail 1 s
    | .wait i => .stall (joinStage (spadCore pa) i none s)
    | .clear =>
      match copyPin core e va s with
      | none => .stall s
      | some s =>
        let r := prepFor q.th.ctx (homeOf va pa) (pa / 32) none (if k = .read then .read else .write) s
        if r.1 then .at_ pa (countPeer va pa (.engine (cellOfCore core) core e) (usePlace pa size r.2)) else .stall r.2

/-- The address or offset of an element. -/
def xAddr (base : Word) (off : Int) : Word := base + BitVec.ofInt 64 off

/-- The place of the next element on a side, kinds 0, 2 and 3. A poisoned word of a store fails the command unless it is written whole
(R334, R483). -/
def copySide (core e : Nat) (q : CopyCmd) (dst : Bool) (s : State) : Nat × CopyPlace :=
  let half := xHalf q.fill dst q.regs
  let x := xOffset q.regs (if dst then 24 else 12) half q.next
  let a := xAddr (if dst then q.dst else q.src) x.1
  let cell := cellOfCore core
  let size := wholeBytes half
  let store (pa : Nat) : CopyPlace :=
    if poisoned s pa size && !(dst && size == 8) then .fail 3 s else .at_ pa s
  (x.2, match (if dst then xDkind q.regs else xSkind q.regs) with
    | 2 => store (bstorePa cell a.toNat)
    | 3 => store (accPa cell 0 0 + a.toNat)
    | _ => copyPlace core e q (if dst then .write else .read) a (wholeBytes half) s)

/-- The destination element of a source element (R338). -/
def copyValue (q : CopyCmd) (x : Nat) : Nat :=
  if q.fill ∨ xCvt q.regs = false ∨ xSfmt q.regs = xDfmt q.regs then x
  else (catEnc (xDfmt q.regs) q.bank 0 (catDec (xSfmt q.regs) q.bank x)).1

/-- The bytes an element writes at a place that holds old. -/
def elemBytes (half nib old x : Nat) : List Byte :=
  if half = 1 then [BitVec.ofNat 8 (if nib = 0 then old / 16 * 16 + x % 16 else old % 16 + x % 16 * 16)]
  else leBytes (half / 2) x

/-- What a step of a copy command comes to. -/
inductive CopyEnd where
  | stall (s : State)
  | moved (s : State)
  | failed (status : Nat) (s : State)
  deriving DecidableEq, Repr

/-- Writes an element at a kind 1 destination, with the tag at the command's last write (R339). -/
def copyTile (core e : Nat) (q : CopyCmd) (x : Nat) (s : State) : CopyEnd :=
  match findTile s q.th.ctx q.dst with
  | none => .failed 7 s
  | some (slice, ent) =>
    match tileRights s q.th.ctx q.priv.toNat ent.base ent.span .write with
    | (.miss, va) => .stall (askXlat va (.engine (cellOfCore core) core e) s)
    | (.fault c, _) => .failed (copyStatus c) s
    | (.ok _, _) =>
      if (cellAt s slice).fenced then .failed 3 s
      else
        let r := tileClear ⟨false, core, e, q.n⟩ slice ent s
        if r.1 = false then .stall r.2
        else
          let s := r.2
          let half := xHalf q.fill true q.regs
          let o := xOffset q.regs 24 half q.next
          let at_ := (xAddr 0 o.1).toNat
          let old := ((tilePlace s ent at_).elim (Config.freeByte s.fresh at_) (rdByte s)).toNat
          let new := elemBytes half o.2 old x
          let bytes := new.zipIdx.map (fun b => (at_ + b.2, b.1.toNat))
          let hit := decide (new.length < 8) && (tilePlace s ent at_).any (fun pa => poisoned s pa new.length)
          let last := q.next + 1 == xCount q.regs
          let tag := if last && xCvt q.regs && !q.fill then BitVec.ofNat 16 (ent.tag.toNat % 1024 + xDfmt q.regs * 1024) else ent.tag
          let tag := if last && tagScale tag != 0 then tag ||| 8 else tag
          if hit then .failed 3 s else .moved (writeTileBytes slice ent tag bytes s)

/-- The value of the next source element; a fill has one for all. -/
inductive CopyRead where
  | got (v : Nat) (s : State)
  | stall (s : State)
  | fail (status : Nat) (s : State)
  deriving DecidableEq, Repr

def copyRead (core e : Nat) (q : CopyCmd) (s : State) : CopyRead :=
  if q.fill then .got (q.src.toNat % 2 ^ (4 * xHalf q.fill true q.regs)) s
  else
    match copySide core e q false s with
    | (_, .fail n s) => .fail n s
    | (_, .stall s) => .stall s
    | (nib, .at_ pa s) => .got (elemAt (fun i => (rdByte s (pa + i)).toNat) nib (xHalf q.fill false q.regs)) (nextFresh s)

/-- The 32-byte unit of the B-operand store in which a command's element k lies. -/
def copyUnit (q : CopyCmd) (k : Nat) : Nat := (xAddr q.dst (xOffset q.regs 24 (xHalf q.fill true q.regs) k).1).toNat / 32

/-- A byte of the B-operand store under those that a command has still to write. -/
def pendByte (q : CopyCmd) (s : State) (pa : Nat) : Byte := ((q.pend.reverse.find? (fun c => c.1 == pa)).map (fun c => c.2)).getD (rdByte s pa)

/-- Writes an element into the B-operand store: the bytes of a unit are kept until no later element lies in it, and written at once
(R287, R351). -/
def copyUnits (core e : Nat) (q : CopyCmd) (cs : List Host.Cell) (s : State) : State :=
  let later := (List.range (xCount q.regs - (q.next + 1))).map (fun i => copyUnit q (q.next + 1 + i))
  let unitOf (c : Host.Cell) : Nat := (c.1 - bstorePa (cellOfCore core) 0) / 32
  let all := q.pend ++ cs
  mapCmd core e (fun q => { q with pend := all.filter (fun c => unitOf c ∈ later) })
    (rawWrite s (all.filter (fun c => !(unitOf c ∈ later))))

/-- Writes the next element (R337, R339, R341). -/
def copyWrite (core e : Nat) (q : CopyCmd) (v : Nat) (s : State) : CopyEnd :=
  let dhalf := xHalf q.fill true q.regs
  if xDkind q.regs = 1 then copyTile core e q (copyValue q v) s
  else
    match copySide core e q true s with
    | (_, .fail n s) => .failed n s
    | (_, .stall s) => .stall s
    | (nib, .at_ pa s) =>
      let old := if xDkind q.regs = 2 then pendByte q s pa else rdByte s pa
      let cs := cellsAt pa (elemBytes dhalf nib old.toNat (copyValue q v))
      .moved (match xDkind q.regs with
        | 0 => setDirty (xAddr q.dst (xOffset q.regs 24 dhalf q.next).1).toNat (performWrite cs none (some q.th) s)
        | 2 => copyUnits core e q cs s
        | _ => rawWrite s cs)

/-- The next step of a running command (R337): one element. -/
def copyStep (core e : Nat) (q : CopyCmd) (s : State) : CopyEnd :=
  match copyRead core e q s with
  | .stall s => .stall s
  | .fail n s => .failed n s
  | .got v s => copyWrite core e q v s

/-- The copy command of context e of a core that may run: the oldest. -/
def copyHead (s : State) (core e : Nat) : Option CopyCmd := (copyAt s core e).queue.head?.filter (fun q => !q.finished)

/-- Whether a cell's copy engine has elements to move. -/
def copyActive (s : State) (cell : Nat) : Bool :=
  !(cellAt s cell).copyFenced && (cellAt s cell).owner.all (engRuns s) && (List.range 16).any (fun i => (copyHead s (4 * cell + i / 4) (i % 4)).isSome)

/-- COPY_ELEMENT (R331, R337): the running commands of the cell are served in rotation, one step at a time. -/
def execCopyElement (s : State) : Result :=
  match s.now with
  | some (.copyElement cell) =>
    .next (
      let s := taken s
      let c := cellAt s cell
      if c.copyFenced ∨ c.owner.any (fun n => !engRuns s n) then s
      else
        let r := (List.range 16).foldl (fun (r : Option Nat × State) i =>
          match r.1 with
          | some _ => r
          | none =>
            let k := (c.copyRot + i) % 16
            let core := 4 * cell + k / 4
            let e := k % 4
            match copyHead r.2 core e with
            | none => r
            | some q =>
              match copyStep core e q r.2 with
              | .stall s => (none, s)
              | .failed n s =>
                (some k, post (.copyCommandComplete core e)
                  (mapCmd core e (fun q => { q with status := n, finished := true, pend := [] }) (rawWrite s q.pend)))
              | .moved s =>
                let last := q.next + 1 == xCount q.regs
                let s := mapCmd core e (fun q => { q with next := q.next + 1, finished := last }) s
                (some k, if last then post (.copyCommandComplete core e) s else s)) (none, s)
        match r.1 with
        | some k => setCell r.2 cell { cellAt r.2 cell with copyRot := (k + 1) % 16 }
        | none => r.2)
  | _ => .fault (.noEvent "COPY_ELEMENT")

/-! ### Completion (R331 to R334, R340) -/

/-- Wakes the threads of a core that wait for room among its copy commands (R331). -/
def wakeCopyLimit (core : Nat) (s : State) : State :=
  (List.range 16).foldl (fun s i =>
    match threadAt s (16 * core + i) with
    | some t => wakeLimit 2 0 ⟨16 * core + i, t.ctx, t.tid⟩ s
    | none => s) s

/-- The address of a command's barrier. -/
def xBarVa (r : Vector Word 38) : Word := w64 (fld (xr r 37) 4 52 * 16)

/-- The oldest command of a context ends: the timeline passes it, and what waits on it goes on. -/
def copyRetire (core e : Nat) (q : CopyCmd) (s : State) : State :=
  let s := q.pins.foldl (fun s a => unpin a s) s
  let s := chargeMove q.th.ctx ((q.next * xHalf q.fill true q.regs + 63) / 64) s
  let bad := q.status != 0 && q.status != 6
  let s := mapCopy core e (fun x =>
    { x with line := q.n,
             ended := if q.status = 0 then x.ended else x.ended.put 0 q.n q.status,
             queue := if bad then x.queue.tail.map (fun y => if y.finished then y else { y with status := 6, finished := true })
               else x.queue.tail,
             status := if bad then q.status else x.status,
             st := if bad ∧ x.st ≠ .releasing then .faulted else x.st }) s
  let x := copyAt s core e
  let s := mapCopy core e (fun x => { x with arms := x.arms.filter (fun a => decide (x.line < a.2.1)) }) s
  let s := fireArms e x.line x.ended x.arms s
  let owner : Thr := ⟨x.slot, x.ctx, x.tid⟩
  let s := match x.queue with
    | y :: _ => if y.finished then post (.copyCommandComplete core e) s else s
    | [] =>
      match x.st with
      | .busy =>
        if copyFencedAt s core then mapCopy core e (fun x => { x with st := .faulted, status := 3 }) s
        else mapCopy core e (fun x => { x with st := .idle }) s
      | .releasing => offerWork x.ctx (chipOfCore core) (mapCopy core e (fun x => { x with st := .free, status := 0 }) s)
      | _ => s
  let s := wakeCopyLimit core s
  let s := if copyBusy s core x.tid x.ctx then s else wakeLimit 5 e owner s
  if engBusy s core x.tid x.ctx then s else wakeLimit 4 e owner s

/-- COPY_COMMAND_COMPLETE (R111, R334, R340): once the invalidations of the command's writes are collected its barrier update is
made, and then the timeline passes it. -/
def execCopyCommandComplete (s : State) : Result :=
  match s.now with
  | some (.copyCommandComplete core e) =>
    .next (
      let s := taken s
      let again : Event := .copyCommandComplete core e
      match (copyAt s core e).queue with
      | [] => s
      | q :: _ =>
        if q.finished = false then s
        else if s.dir.any (fun d => d.2.invs.any (fun i => i.writer == some q.th)) then holdBack again s
        else if xBar q.regs ∧ q.barSent = false then
          post again (post (.barrierBytes (.copy core e) core q.th.ctx q.priv.toNat (xBarVa q.regs) (xBytes q.fill q.regs) q.status)
            (mapCmd core e (fun q => { q with barSent := true }) s))
        else if xBar q.regs ∧ q.barDone = false then holdBack again s
        else copyRetire core e q s)
  | _ => .fault (.noEvent "COPY_COMMAND_COMPLETE")

/-! ### Timelines (R347, R348) -/

/-- A timeline as the instructions see it: state, status, commands, last number, value, owner, ended, arms. -/
structure Timeline where
  st : EngState
  status : Nat
  load : Nat
  last : Nat
  line : Nat
  tid : Nat
  ended : Tab Nat

/-- The timeline a selector of a core names: [1:0] the context, [2] ENG. -/
def timelineAt (s : State) (core sel : Nat) : Timeline :=
  if sel < 4 then
    let x := copyAt s core sel
    ⟨x.st, x.status, x.queue.length, x.last, x.line, x.tid, x.ended⟩
  else
    let x := engAt s (cellOfCore core) (sel - 4)
    ⟨x.st, x.status, x.queue.length, x.last, x.line, x.tid, x.ended⟩

/-- tl.read (R347). -/
def execTlRead (d a b : BitVec 5) (ma mb : BitVec 2) (s : State) : Result :=
  let ss := [src a ma, src b mb]
  withOps ss (.reg d.toNat) s (fun vs => acqGate s
    (let w := arg vs 0
     let core := myCore s
     let sel := fld w 0 3
     let x := timelineAt s core sel
     let put (v : Word) : State := complete s (writeDst d.toNat v (commit ss s))
     let regForm := arg vs 1 == 3 && decide (sel < 4)
     if fld w (if regForm then 16 else 3) (if regForm then 48 else 61) ≠ 0 then raise .badopnd w 0 s
     else if 4 ≤ (arg vs 1).toNat ∨ (arg vs 1 = 3 ∧ regForm = false) then raise .badopnd (arg vs 1) 0 s
     else if regForm then
       (if 37 < fld w 8 8 then raise .badopnd w 0 s
        else put (xr (copyAt s core sel).regs (fld w 8 8)))
     else if arg vs 1 = 0 then complete s (raiseFloor 1 (writeDst d.toNat (w64 x.line) (commit ss s)))
     else if arg vs 1 = 1 then
       put (w64 (engStateCode x.st + x.status % 16 * 2 ^ 4 + x.load % 128 * 2 ^ 8 + (if x.st = .free then 0 else x.tid * 2 ^ 16)))
     else put (w64 x.last)))

/-- Arms a timeline for a thread. -/
def armTimeline (core sel : Nat) (a : Thr × Nat × Nat) (s : State) : State :=
  if sel < 4 then mapCopy core sel (fun x => { x with arms := x.arms ++ [a] }) s
  else mapEng (cellOfCore core) (sel - 4) (fun x => { x with arms := x.arms ++ [a] }) s

/-- The key of what a thread's last tl.arm saw of a timeline: a copy context is its core's, an array context its cell's (R348). -/
def armKey (tid lcore sel : Nat) : Nat := (tid * 4096 + (if sel < 4 then lcore else lcore / 4 * 4)) * 8 + sel

/-- tl.arm (R348). -/
def execTlArm (a b : BitVec 5) (ma mb : BitVec 2) (s : State) : Result :=
  let ss := [src a ma, src b mb]
  withOps ss .none s (fun vs => acqGate s
    (let w := arg vs 0
     let n := (arg vs 1).toNat
     let core := myCore s
     let sel := fld w 0 3
     let x := timelineAt s core sel
     let ctx := (me s).ctx
     let key := armKey (me s).tid (lcoreOf s core) sel
     let lo := (ctxAt s ctx).lastArm.get 0 key
     if fld w 3 61 ≠ 0 then raise .badopnd w 0 s
     else if x.last < n then raise .badopnd (arg vs 1) 0 s
     else
       let s' := setCtx (commit ss s) ctx { ctxAt (commit ss s) ctx with lastArm := (ctxAt s ctx).lastArm.put 0 key x.line }
       if n ≤ x.line then complete s (raiseFloor 1 (mapMe (takeMsg (tlMsg sel (worstOf x.ended lo n) x.line)) s'))
       else park ⟨false, .timeline, true⟩ (armTimeline core sel (myThr s, n, lo) s')))

end Sys2Proof.Machine
end

