-- ==== Sys2Proof/Machine/Group.lean ====
section
/-!
DEFINITION. Groups and collectives (15): grp.info, coll.start, coll.stat and the events of a collective. A collective
moves one chunk after another up and down its tree; what peers contribute comes from outside the machine (DESIGN CHOICE, safe: log entry 5).
-/
namespace Sys2Proof.Machine

/-! ### The group table (R362 to R364) -/

def grpPeers (s : State) (ctx g : Nat) : Nat := fld (grpWord s ctx g 0) 20 9
def grpShrink (s : State) (ctx g : Nat) : Bool := fld (grpWord s ctx g 0) 1 1 == 1

/-- The device identifier of a group's i-th peer (R362). -/
def grpPeerDev (s : State) (ctx g i : Nat) : Nat :=
  vNat s ctx (areaBase s ctx 9 + 4 * (fld (grpWord s ctx g 2) 0 32 + i)) 4 % 512

/-- A logical core's position in a group. -/
def grpPos (s : State) (ctx g lcore : Nat) : Option Nat := (grpMembers s ctx g).bind (fun m => m.findIdx? (fun x => x == lcore))

/-- The collective slot of a logical core for a group: its rank among the valid groups the core belongs to (R363). -/
def collIndex (s : State) (ctx g lcore : Nat) : Nat := ((List.range g).filter (fun h => (grpPos s ctx h lcore).isSome)).length

/-- The place of a group's state among a core's slots, and the slot; a renumbered slot keeps its state (R363). -/
def collSlot (s : State) (core g : Nat) : Option (Nat × CollSlot) :=
  ((coreAt s core).colls.toList.zipIdx.find? (fun x => x.1.used && x.1.group == g)).map (fun x => (x.2, x.1))

/-- A place among a core's slots that no group needs: none has used it, or its group is one the core belongs to no longer,
or is its fifth (R363). -/
def collFree (s : State) (core ctx g lcore : Nat) : Option Nat :=
  (collIndex s ctx g lcore :: List.range 4).find? (fun j =>
    let x := (coreAt s core).colls[j]?.getD {}
    !x.used || (x.st == 0 && ((grpPos s ctx x.group lcore).isNone || decide (4 ≤ collIndex s ctx x.group lcore))))

/-- Brings a group's state to the slot its number gives, when it is used next (R363); the state that stands there keeps a
place of its own. -/
def collAt (s : State) (core ctx g lcore : Nat) : CollSlot × State :=
  let k := collIndex s ctx g lcore
  match collSlot s core g with
  | some (j, x) =>
    if j = k then (x, s)
    else
      let c := coreAt s core
      (x, setCore s core { c with colls := (c.colls.setIfInBounds j (c.colls[k]?.getD {})).setIfInBounds k x })
  | none =>
    match collFree s core ctx g lcore with
    | some j =>
      let c := coreAt s core
      ({ group := g }, setCore s core { c with colls := c.colls.setIfInBounds j (c.colls[k]?.getD {}) })
    | none => ({ group := g }, s)

/-- Changes a group's state at a core. -/
def mapColl (core g : Nat) (f : CollSlot → CollSlot) (s : State) : State :=
  match collSlot s core g with
  | some (j, x) =>
    let c := coreAt s core
    setCore s core { c with colls := c.colls.setIfInBounds j (f x) }
  | none => s

/-! ### A collective (R366 to R371) -/

def findColl (s : State) (ctx g : Nat) : Option Coll := (ctxAt s ctx).colls.find? (fun c => c.group == g && c.begun)

def putColl (ctx : Nat) (c : Coll) (s : State) : State :=
  let x := ctxAt s ctx
  setCtx s ctx { x with colls := x.colls.map (fun y => if y.group = c.group ∧ y.number = c.number then c else y) }

/-- The physical cores of a group's members, with their positions. -/
def collCores (s : State) (ctx g : Nat) : List (Nat × Nat) :=
  ((grpMembers s ctx g).getD []).zipIdx.filterMap (fun x => (physCore s ctx x.1).map (fun c => (x.2, c)))

/-- The slots that take part in a collective, by position and core. -/
def collSlots (s : State) (ctx : Nat) (c : Coll) : List (Nat × Nat × CollSlot) :=
  (collCores s ctx c.group).filterMap (fun x =>
    (collSlot s x.2 c.group).bind (fun y => if y.2.st ≠ 0 ∧ y.2.number = c.number then some (x.1, x.2, y.2) else none))

/-- The descriptor word of a collective, as its first member's slot holds it. -/
def collOp (s : State) (ctx : Nat) (c : Coll) : Word := ((collSlots s ctx c).head?.map (fun x => x.2.2.op)).getD 0
def collKind (w : Word) : Nat := fld w 0 2
def collRoot (w : Word) : Nat := fld w 16 12

/-- The operation of an fn code of R221. -/
def opOfCode (n : Nat) : AmoOp :=
  match n with
  | 0 => .add | 1 => .and | 2 => .or | 3 => .xor | 4 => .min | 5 => .max | 6 => .minu | 7 => .maxu
  | 9 => .fadd | 10 => .fmin | 11 => .fmax | _ => .swap

/-- The element size of a descriptor word (R365). -/
def collElem (w : Word) : Nat := if collKind w = 2 then 1 else amoSize (opOfCode (fld w 8 5))

/-- The survivors in rank order: positions in cyclic ascending order from the root (R367, R371). -/
def ranksFrom (count root : Nat) (lost : List Nat) : List Nat :=
  ((List.range count).map (fun i => (root + i) % count)).filter (fun p => !(p ∈ lost))

def collRanks (s : State) (ctx : Nat) (c : Coll) : List Nat :=
  ranksFrom ((grpMembers s ctx c.group).getD []).length (collRoot (collOp s ctx c)) c.lost

/-- Local survivors, and devices that take part (R372). -/
def survivorsOf (s : State) (ctx : Nat) (c : Coll) : Nat × Nat :=
  let n := ((grpMembers s ctx c.group).getD []).length
  (n - (c.lost.filter (fun p => decide (p < n))).length,
   1 + grpPeers s ctx c.group - (c.lost.filter (fun p => decide (n ≤ p))).length)

/-- The taking-part devices in ascending order, and this device's rank among them (R367). -/
def devRanks (s : State) (ctx : Nat) (c : Coll) : List Nat × Nat :=
  let n := ((grpMembers s ctx c.group).getD []).length
  let self := fld s.host.devid 0 9
  let peers := ((List.range (grpPeers s ctx c.group)).filter (fun i => !((n + i) ∈ c.lost))).map (grpPeerDev s ctx c.group)
  let all := peers.filter (fun d => decide (d < self)) ++ [self] ++ peers.filter (fun d => decide (self < d))
  (all, (peers.filter (fun d => decide (d < self))).length)

/-- The wake of R372. -/
def collMsg (c : Coll) (status : Nat) (sv : Nat × Nat) : Msg :=
  ⟨0x0A, BitVec.ofNat 56 (c.group + status * 2 ^ 8 + c.number * 2 ^ 12),
   w64 (c.shrinkSeq.getD 0xFFFFFFFF % 2 ^ 32 + sv.1 * 2 ^ 32 + sv.2 * 2 ^ 44)⟩

/-- A member's slot returns to IDLE with a status, and its thread is woken (R370, R372). -/
def collEnd (ctx core : Nat) (c : Coll) (status : Nat) (s : State) : State :=
  match collSlot s core c.group with
  | none => s
  | some (_, x) =>
    let sv := survivorsOf s ctx c
    let s := mapColl core c.group (fun x => { x with st := 0, status := status, th := none, lost := c.lost != [],
                                                     survivors := sv.1 }) s
    match x.th with
    | some th => sendWake th (collMsg c status sv) s
    | none => s

/-- A collective no survivor's slot takes part in any more is forgotten, its pins released and the slots of the lost
members IDLE. -/
def collForget (ctx : Nat) (c : Coll) (s : State) : State :=
  let xs := collSlots s ctx c
  if xs.any (fun x => !(x.1 ∈ c.lost)) then s
  else
    let s := xs.foldl (fun s x => mapColl x.2.1 c.group (fun y => { y with st := 0, th := none }) s) s
    let s := c.pins.foldl (fun s a => unpin a s) s
    let x := ctxAt s ctx
    setCtx s ctx { x with colls := x.colls.filter (fun y => !(y.group == c.group && y.number == c.number)) }

/-- Every member's slot returns to IDLE (R370). -/
def collAbort (ctx : Nat) (c : Coll) (status : Nat) (s : State) : State :=
  collForget ctx c ((collSlots s ctx c).foldl (fun s x => collEnd ctx x.2.1 c status s) s)

/-- Starts the chunk a collective has come to: every rank is to forward, the deepest first. -/
def collChunk (ctx : Nat) (c : Coll) (s : State) : State :=
  let n := (collRanks s ctx c).length
  (List.range n).foldl (fun s i => post (.collChunkForward ctx c.group (n - 1 - i) c.chunk) s) s

/-- The slots of a collective take a state of R370. -/
def collState (ctx : Nat) (c : Coll) (st : Nat) (s : State) : State :=
  (collSlots s ctx c).foldl (fun s x => mapColl x.2.1 c.group (fun y => { y with st := st }) s) s

/-- A loss is repaired, or the root's loss ends the collective (R370, R371). -/
def collShrink (ctx : Nat) (c : Coll) (s : State) : State :=
  let n := ((grpMembers s ctx c.group).getD []).length
  let root := collRoot (collOp s ctx c)
  let rootDev := (devRanks s ctx { c with lost := c.lost.filter (fun p => decide (p < n)) }).1.head?
  let rootPeerLost := c.lost.any (fun p => decide (n ≤ p) && some (grpPeerDev s ctx c.group (p - n)) == rootDev)
  if (root ∈ c.lost ∧ rootDev = some (fld s.host.devid 0 9)) ∨ rootPeerLost then collAbort ctx c 2 s
  else
    let acked := Nat.max c.acked c.chunk
    let c := { c with repair := true, held := false, vals := [], final := none, wrote := [], acked := acked,
                      chunk := if collKind (collOp s ctx c) = 0 then 0 else acked, shrinkSeq := c.shrinkSeq.or (some acked) }
    post (.collRepairDone ctx c.group) (collState ctx c 3 (putColl ctx c s))

/-- The root has acknowledged the last chunk: a loss comes too late (R379). -/
def collOver (s : State) (ctx : Nat) (c : Coll) : Bool :=
  c.begun && (collSlots s ctx c).all (fun x => decide (x.2.2.len ≤ 65536 * c.chunk))

/-- COLL_MEMBER_LOST (R369, R370, R379). -/
def execCollMemberLost (s : State) : Result :=
  match s.now with
  | some (.collMemberLost ctx group pos) =>
    .next (
      let s := taken s
      if away s ctx then holdBack (.collMemberLost ctx group pos) s
      else
        match (ctxAt s ctx).colls.filter (fun c => c.group == group && !(pos ∈ c.lost)) with
        | [] => s
        | cs => cs.foldl (fun s c =>
          if collSlots s ctx c = [] ∨ collOver s ctx c then s
          else
            let c := { c with lost := c.lost ++ [pos] }
            let s := putColl ctx c s
            if c.held then s
            else if c.repair then collShrink ctx c s
            else if fld (fmode s ctx) 3 1 = 1 then
              hostEvent { type := 4, ctx := ctx, reply := true, addr := w64 group, info := w64 c.number }
                (collState ctx c 4 (putColl ctx { c with held := true } s))
            else if grpShrink s ctx group then collShrink ctx c s
            else collAbort ctx c 2 s) s)
  | _ => .fault (.noEvent "COLL_MEMBER_LOST")

/-- The host's reply to a member lost (R370): 0 shrink, 1 abort. -/
def replyColl (ctx group value : Nat) (s : State) : State :=
  match (ctxAt s ctx).colls.find? (fun c => c.group == group && c.held) with
  | none => s
  | some c =>
    if away s ctx then post (.collRepairDone ctx group) (putColl ctx { c with answer := some value } s)
    else if value = 0 then collShrink ctx { c with answer := none } s else collAbort ctx c 5 s

/-- Whether the descriptors of a collective agree (R366). A peer's descriptors come from outside the machine, so whether one
of them differs is a free value (DESIGN CHOICE, safe: log entry 5). -/
def collAgrees (s : State) (ctx : Nat) (c : Coll) : Bool :=
  let xs := (collSlots s ctx c).map (fun x => (x.2.2.op, x.2.2.len))
  xs.all (fun x => some x == xs.head?) && (grpPeers s ctx c.group == 0 || Config.freeChoice 2 s.fresh != 1)

/-- A collective whose members are in begins, unless the descriptors differ (R366, R370). -/
def collBegin (ctx : Nat) (c : Coll) (s : State) : State :=
  if collAgrees s ctx c then
    let c := { c with begun := true, repair := false }
    collChunk ctx c (collState ctx c 2 (putColl ctx c (nextFresh s)))
  else collAbort ctx c 3 (nextFresh s)

/-- COLL_REPAIR_DONE (R370, R371): once every survivor has taken the new tree, the collective runs again, one of KIND 0 from its
first chunk, another from the first chunk not acknowledged; one that had not begun begins now, with its descriptors compared. A
reply that the host gave while the context was away acts here. -/
def execCollRepairDone (s : State) : Result :=
  match s.now with
  | some (.collRepairDone ctx group) =>
    .next (
      let s := taken s
      if away s ctx then holdBack (.collRepairDone ctx group) s
      else
        match (ctxAt s ctx).colls.find? (fun c => c.group == group && c.held && c.answer.isSome) with
        | some c => replyColl ctx group (c.answer.getD 0) s
        | none =>
          match (ctxAt s ctx).colls.find? (fun c => c.group == group && c.repair) with
          | none => s
          | some c =>
            let n := ((grpMembers s ctx group).getD []).length
            if (List.range n).all (fun p => decide (p ∈ c.joined) || decide (p ∈ c.lost)) = false then s
            else if c.begun then
              let c := { c with repair := false }
              collChunk ctx c (collState ctx c 2 (putColl ctx c s))
            else if c.peersIn ∨ (survivorsOf s ctx c).2 = 1 then collBegin ctx c s
            else s)
  | _ => .fault (.noEvent "COLL_REPAIR_DONE")

/-- Tells the peer devices of groups that this device takes no part any more: its context was killed, or its entry is
invalid (R369). -/
def tellPeers (s : State) (ctx : Nat) (groups : List Nat) : State :=
  { s with out := s.out ++ groups.flatMap (fun g =>
      (List.range (grpPeers s ctx g)).map (fun i => Out.memberLost (grpPeerDev s ctx g i) g)) }

/-- COLL_ALL_JOINED (R366): the descriptors are compared, then the collective runs. With peers it says that theirs have
joined, and a peer that names an invalid entry is told so (R369). -/
def execCollAllJoined (s : State) : Result :=
  match s.now with
  | some (.collAllJoined ctx group) =>
    .next (
      let s := taken s
      if away s ctx then holdBack (.collAllJoined ctx group) s
      else if (grpMembers s ctx group).isNone then tellPeers s ctx [group]
      else
        let n := ((grpMembers s ctx group).getD []).length
        match (ctxAt s ctx).colls.find? (fun c => c.group == group && !c.begun) with
        | none => s
        | some c =>
          let c := { c with peersIn := true }
          if c.held then putColl ctx c s
          else if c.repair then post (.collRepairDone ctx group) (putColl ctx c s)
          else if (List.range n).all (fun p => decide (p ∈ c.joined)) then collBegin ctx c s
          else if grpPeers s ctx group = 0 then s
          else putColl ctx c s)
  | _ => .fault (.noEvent "COLL_ALL_JOINED")

/-! ### Chunks (R367, R368) -/

/-- What the elements of a chunk's access come to. -/
inductive CollIO where
  | done (bytes : List Byte) (s : State)
  /-- It waits: what it waits for has been asked. -/
  | asked (s : State)
  | again (s : State)
  | fault (va : Word) (s : State)
  deriving DecidableEq, Repr

/-- Pins a page for a collective: at most 64, the earliest released first (R342, R368). -/
def collPin (ctx : Nat) (c : Coll) (va : Word) (s : State) : Option State :=
  let c := ((ctxAt s ctx).colls.find? (fun y => y.group == c.group && y.number == c.number)).getD c
  match region va, ringFind s va.toNat with
  | .paged, some a =>
    if a ∈ c.pins then some s
    else match pinPage va.toNat s with
      | .free => some s
      | .refused => none
      | .held a s =>
        match c.pins with
        | p :: rest =>
          if c.pins.length < 64 then some (putColl ctx { c with pins := c.pins ++ [a] } s)
          else some (unpin p (putColl ctx { c with pins := rest ++ [a] } s))
        | [] => some (putColl ctx { c with pins := [a] } s)
  | _, _ => some s

/-- The place of one element of SRC or DST, a kind 0 access at its home (R368). -/
def collPlace (ctx : Nat) (c : Coll) (rank core : Nat) (x : CollSlot) (k : Acc) (va : Word) (size : Nat) (s : State) :
    Sum CollIO (Nat × State) :=
  match check s core ctx x.priv va size k true with
  | .fault _ => .inl (.fault va s)
  | .miss => .inl (.asked (askXlat va (.chunk ctx c.group rank c.chunk) s))
  | .ok pa =>
    match collPin ctx c va s with
    | none => .inl (.again s)
    | some s =>
      let r := prepFor ctx (homeOf va pa) (pa / 32) none (if k = .read then .read else .write) s
      if r.1 then .inr (pa, countPeer va pa (.chunk ctx c.group rank c.chunk) r.2) else .inl (.again r.2)

/-- Reads a member's contribution to a chunk, element by element. -/
def collRead (ctx : Nat) (c : Coll) (rank core : Nat) (x : CollSlot) (es : Nat) (va : Word) : Nat → List Byte → State → CollIO
  | 0, acc, s => .done acc s
  | n + 1, acc, s =>
    match collPlace ctx c rank core x .read va es s with
    | .inl r => r
    | .inr (pa, s) => collRead ctx c rank core x es (va + w64 es) n (acc ++ rdBytes s pa es) (nextFresh s)

/-- Writes a chunk's final value at a member, element by element. -/
def collWrite (ctx : Nat) (c : Coll) (rank core : Nat) (x : CollSlot) (es : Nat) (va : Word) : Nat → List Byte → State → CollIO
  | 0, bs, s => .done bs s
  | n + 1, bs, s =>
    match collPlace ctx c rank core x .write va es s with
    | .inl r => r
    | .inr (pa, s) =>
      collWrite ctx c rank core x es (va + w64 es) n (bs.drop es)
        (setDirty va.toNat (performWrite (cellsAt pa (bs.take es)) none x.th s))

/-- acc := Op(acc, child), element by element (R367). -/
def combine (op : AmoOp) (es : Nat) : Nat → List Byte → List Byte → List Byte
  | 0, _, _ => []
  | n + 1, a, b =>
    leBytes es (amoNew op (w64 (leNat (a.take es))) (w64 (leNat (b.take es)))).toNat ++ combine op es n (a.drop es) (b.drop es)

/-- The length of the chunk a collective has come to. -/
def chunkLen (c : Coll) (len : Nat) : Nat := Nat.min 65536 (len - 65536 * c.chunk)

/-- Sends a chunk to peer devices, charged to the context (R413). -/
def sendPeers (ctx : Nat) (c : Coll) (bs : List Byte) (devs : List Nat) (s : State) : State :=
  let s := if devs = [] then s else charge ctx (1000 * ((bs.length + 31) / 32) * devs.length) s
  { s with out := s.out ++ devs.map (fun dev => Out.collChunk dev c.group c.chunk bs) }

/-- The root has a chunk's combined value: with peers the second tree makes the final one, of values that are free where
they come from other devices (R367). -/
def collFinal (ctx : Nat) (c : Coll) (own : List Byte) (s : State) : State :=
  let d := devRanks s ctx c
  let kids := (List.range 4).filterMap (fun i => d.1[4 * d.2 + 1 + i]?)
  if d.1.length ≤ 1 ∨ ((collKind (collOp s ctx c) = 2 ∨ c.chunk < c.acked) ∧ d.2 = 0) then
    putColl ctx { c with final := some own } (sendPeers ctx c own kids s)
  else
    let op := collOp s ctx c
    let es := collElem op
    let freeVal (k : Nat) : List Byte := (List.range own.length).map (fun i => Config.freeByte s.fresh (own.length * k + i))
    let sum := (List.range kids.length).foldl (fun acc k => combine (opOfCode (fld op 8 5)) es (own.length / es) acc (freeVal k)) own
    let final := if d.2 = 0 then sum else freeVal kids.length
    let up := if d.2 = 0 ∨ collKind (collOp s ctx c) = 2 ∨ c.chunk < c.acked then [] else [d.1[(d.2 - 1) / 4]?.getD 0]
    let down := if collKind (collOp s ctx c) = 1 then [] else kids
    putColl ctx { c with final := some final } (sendPeers ctx c final down (sendPeers ctx c sum up (nextFresh s)))

/-- The ranks that write a chunk's final value (R365): with peers, a reduce's root is on the first device. -/
def writersOf (s : State) (ctx : Nat) (c : Coll) : List Nat :=
  let n := (collRanks s ctx c).length
  match collKind (collOp s ctx c) with
  | 1 => if (devRanks s ctx c).2 = 0 then [0] else []
  | _ => List.range n

/-- Acknowledges a chunk to every survivor once its final value stands where it must (R368). -/
def collAck (ctx : Nat) (c : Coll) (s : State) : State :=
  if (writersOf s ctx c).all (fun r => decide (r ∈ c.wrote)) then
    let xs := collSlots s ctx c
    let s := if c.chunk < c.acked then s
      else (xs.filter (fun x => !(x.1 ∈ c.lost))).foldl (fun s x => post (.collChunkAck ctx c.group c.number x.2.1 c.chunk) s) s
    let len := (xs.head?.map (fun x => x.2.2.len)).getD 0
    let c := { c with chunk := c.chunk + 1, vals := [], final := none, wrote := [] }
    let s := putColl ctx c s
    if 65536 * c.chunk < len then collChunk ctx c s else s
  else putColl ctx c s

/-- COLL_CHUNK_FORWARD (R367, R368): on the way up, a node combines its contribution with its children's values; once the
final value is known, the node takes it from its parent. DEDUCED, unsafe: log entry 52. -/
def execCollChunkForward (s : State) : Result :=
  match s.now with
  | some (.collChunkForward ctx group rank chunk) =>
    .next (
      let s := taken s
      if away s ctx then holdBack (.collChunkForward ctx group rank chunk) s
      else
        let again : Event := .collChunkForward ctx group rank chunk
        -- A value moves between a rank and its parent (R413).
        let chargeChunk (s : State) (rank bytes : Nat) : State := if rank = 0 then s else chargeMove ctx ((bytes + 31) / 32) s
        match findColl s ctx group with
        | none => s
        | some c =>
          if c.chunk ≠ chunk ∨ c.repair ∨ c.held then s
          else
            let ranks := collRanks s ctx c
            match (ranks[rank]?).bind (fun p => (collSlots s ctx c).find? (fun x => x.1 == p)) with
            | none => s
            | some (_, core, x) =>
              let es := collElem x.op
              let n := chunkLen c x.len / es
              let off := w64 (65536 * chunk)
              let kind := collKind x.op
              let failed (va : Word) (s : State) : State :=
                collAbort ctx ((findColl s ctx group).getD c) 4 (errorRec 13 1 ctx (coreLoc core 0) va (w64 group) 0 s)
              match c.final with
              | some bs =>
                if rank ∈ c.wrote then s
                else if !(rank ∈ writersOf s ctx c) then collAck ctx c s
                else
                  match collWrite ctx c rank core x es (x.dst + off) n bs s with
                  | .fault va s => failed va s
                  | .asked s => s
                  | .again s => holdBack again s
                  | .done _ s =>
                    let c := (findColl s ctx group).getD c
                    collAck ctx { c with wrote := c.wrote ++ [rank] } (chargeChunk s rank bs.length)
              | none =>
                let kids := if kind = 2 then [] else (List.range 4).map (fun i => 4 * rank + 1 + i) |>.filter (fun r => decide (r < ranks.length))
                if (c.vals.find? (fun v => v.1 == rank)).isSome then s
                else if (kind = 2 ∨ c.chunk < c.acked) ∧ rank ≠ 0 then s
                else if (kind = 2 ∨ c.chunk < c.acked) ∧ (devRanks s ctx c).2 ≠ 0 then
                  postAll ((List.range ranks.length).map (fun r => .collChunkForward ctx group r chunk))
                    (collFinal ctx c (List.replicate (es * n) 0) s)
                else if c.chunk < c.acked then
                  match collRead ctx c rank core x es (x.dst + off) n [] s with
                  | .fault va s => failed va s
                  | .asked s => s
                  | .again s => holdBack again s
                  | .done bs s =>
                    postAll ((List.range ranks.length).map (fun r => .collChunkForward ctx group r chunk))
                      (collFinal ctx { ((findColl s ctx group).getD c) with wrote := [0] } bs s)
                else if kids.all (fun r => c.vals.any (fun v => v.1 == r)) = false then holdBack again s
                else
                  match collRead ctx c rank core x es (x.src + off) n [] s with
                  | .fault va s => failed va s
                  | .asked s => s
                  | .again s => holdBack again s
                  | .done bs s =>
                    let c := (findColl s ctx group).getD c
                    let v := kids.foldl (fun acc r => combine (opOfCode (fld x.op 8 5)) es n acc (c.vals.get [] r)) bs
                    let s := chargeChunk (putColl ctx { c with vals := c.vals.ins rank v } s) rank bs.length
                    if rank ≠ 0 then s
                    else
                      let c := (findColl s ctx group).getD c
                      let s := collFinal ctx c v s
                      (List.range ranks.length).foldl (fun s r => post (.collChunkForward ctx group r chunk) s) s)
  | _ => .fault (.noEvent "COLL_CHUNK_FORWARD")

/-- COLL_CHUNK_ACK (R368, R370): the last one returns the member's slot to IDLE. -/
def execCollChunkAck (s : State) : Result :=
  match s.now with
  | some (.collChunkAck ctx group number core chunk) =>
    .next (
      let s := taken s
      if away s ctx then holdBack (.collChunkAck ctx group number core chunk) s
      else
        match collSlot s core group with
        | none => s
        | some (_, x) =>
          match (ctxAt s ctx).colls.find? (fun c => c.group == group && c.number == x.number) with
          | none => s
          | some c =>
            if x.st = 0 ∨ x.number ≠ number then s
            else
              let s := mapColl core group (fun x => { x with chunksDone := x.chunksDone + 1 }) s
              if x.len ≤ 65536 * (chunk + 1) then
                if s.dir.any (fun d => d.2.invs.any (fun i => i.writer == x.th && x.th.isSome)) then
                  holdBack (.collChunkAck ctx group number core chunk) (mapColl core group (fun y => { y with chunksDone := x.chunksDone }) s)
                else collForget ctx c (collEnd ctx core c (if c.lost = [] then 0 else 1) s)
              else s)
  | _ => .fault (.noEvent "COLL_CHUNK_ACK")

/-! ### Instructions (R375 to R377) -/

/-- grp.info (R375). -/
def execGrpInfo (d a b : BitVec 5) (ma mb : BitVec 2) (s : State) : Result :=
  let ss := [src a ma, src b mb]
  withOps ss (.reg d.toNat) s (fun vs => acqGate s
    (let w := arg vs 0
     let sel := fld (arg vs 1) 0 2
     let ctx := (me s).ctx
     let g := fld w 0 8
     let l := lcoreOf s (myCore s)
     let put (v : Word) : State := complete s (writeDst d.toNat v (commit ss s))
     if fld (arg vs 1) 2 62 ≠ 0 then raise .badopnd (arg vs 1) 0 s
     else if fld w (if sel = 2 then 20 else 8) (if sel = 2 then 44 else 56) ≠ 0 then raise .badopnd w 0 s
     else match grpMembers s ctx g with
       | none => raise .badopnd w 0 s
       | some ms =>
         match sel with
         | 0 => put (grpWord s ctx g 0)
         | 1 => put (match grpPos s ctx g l with | some p => w64 p | none => BitVec.allOnes 64)
         | 2 => (match ms[fld w 8 12]? with | some c => put (w64 c) | none => raise .badopnd w 0 s)
         | _ => if (grpPos s ctx g l).isSome then put (w64 (collIndex s ctx g l % 4)) else raise .badopnd w 0 s))

/-- The first doubleword of a descriptor that breaks R365. -/
def collDescFault (w : Nat → Word) (count : Nat) : Option Word :=
  let d := w 0
  let op := fld d 8 5
  let es := collElem d
  let place (x : Word) : Bool := (match region x with | .paged => true | .linear _ => true | _ => false) && x.toNat % es == 0
  if collKind d = 3 ∨ fld d 2 6 ≠ 0 ∨ fld d 13 3 ≠ 0 ∨ fld d 28 36 ≠ 0 ∨ count ≤ collRoot d ∨
      (if collKind d = 2 then op ≠ 0 else op = 8 ∨ 11 < op) then some d
  else if place (w 1) = false then some (w 1)
  else if place (w 2) = false then some (w 2)
  else if fld (w 3) 40 24 ≠ 0 ∨ fld (w 3) 0 40 = 0 ∨ fld (w 3) 0 40 % es ≠ 0 then some (w 3)
  else ((List.range 4).map (fun i => w (4 + i))).find? (fun x => x != 0)

/-- The positions of a group's members that are lost already (R369): cores that are fenced, and peers whose every link is. -/
def lostMembers (s : State) (ctx g : Nat) : List Nat :=
  let ms := (grpMembers s ctx g).getD []
  let n := ms.length
  ((List.range n).filter (fun i => ((ms[i]?).bind (fun l => physCore s ctx l)).any (fun c => homeFenced s (1024 + c)))) ++
  ((List.range (grpPeers s ctx g)).filter (fun i => peerGone s (grpPeerDev s ctx g i))).map (fun i => n + i)

/-- coll.start (R376). -/
def execCollStart (d a b : BitVec 5) (ma mb : BitVec 2) (s : State) : Result :=
  let ss := [src a ma, src b mb]
  withOps ss (.reg d.toNat) s (fun vs => acqGate s
    (let g := fld (arg vs 0) 0 8
     let p := arg vs 1
     let ctx := (me s).ctx
     let core := myCore s
     let l := lcoreOf s core
     match (if fld (arg vs 0) 8 56 ≠ 0 then none else grpMembers s ctx g) with
     | none => raise .badopnd (arg vs 0) 0 s
     | some ms =>
       if p.toNat % 64 ≠ 0 then raise .misalign (memInfo .read 0) p s
       else readBlock p 2 s (fun bs s =>
         let w (i : Nat) : Word := w64 (leNat ((bs.drop (8 * i)).take 8))
         match collDescFault w ms.length with
         | some x => raise .badopnd x 0 s
         | none =>
           match grpPos s ctx g l with
           | none => raise .collerr 1 0 s
           | some pos =>
             if 4 ≤ collIndex s ctx g l ∨ ((collSlot s core g).isNone ∧ (collFree s core ctx g l).isNone) then raise .collerr 2 0 s
             else
               let x := collAt s core ctx g l
               if x.1.st ≠ 0 then raise .collerr 3 0 x.2
               else released (if grpPeers s ctx g = 0 then 3 else 4) x.2 (fun s =>
                 let n := (x.1.number + 1) % 65536
                 let slot : CollSlot := { used := true, st := 1, group := g, number := n, status := x.1.status, op := w 0, src := w 1, dst := w 2,
                                          len := fld (w 3) 0 40, priv := privOf (me s), th := some (myThr s) }
                 let s0 := s
                 let s := commit ss s
                 let c := coreAt s core
                 let s := setCore s core { c with colls := c.colls.setIfInBounds (collIndex s ctx g l) slot }
                 let y := ctxAt s ctx
                 let known := y.colls.find? (fun c => c.group == g && c.number == n)
                 let cs := match known with
                   | some _ => y.colls.map (fun c => if c.group = g ∧ c.number = n then { c with joined := c.joined ++ [pos] } else c)
                   | none => y.colls ++ [{ group := g, number := n, joined := [pos] }]
                 let s := setCtx s ctx { y with colls := cs }
                 let all := (cs.find? (fun c => c.group == g && c.number == n)).any (fun c =>
                   (List.range ms.length).all (fun p => decide (p ∈ c.joined) || decide (p ∈ c.lost)))
                 let s := if known.any (fun c => c.repair) then (if all then post (.collRepairDone ctx g) s else s)
                   else if all ∧ (grpPeers s ctx g = 0 ∨ known.any (fun c => c.peersIn)) then post (.collAllJoined ctx g) s else s
                 let s := if known.isNone then postAll ((lostMembers s ctx g).map (fun i => .collMemberLost ctx g i)) s else s
                 complete s0 (writeDst d.toNat (w64 n) s)))))

/-- coll.stat (R377). -/
def execCollStat (d a : BitVec 5) (ma : BitVec 2) (s : State) : Result :=
  let ss := [src a ma]
  withOps ss (.reg d.toNat) s (fun vs => acqGate s
    (let g := fld (arg vs 0) 0 8
     let ctx := (me s).ctx
     let core := myCore s
     match (if fld (arg vs 0) 8 56 ≠ 0 then none else grpMembers s ctx g) with
     | none => raise .badopnd (arg vs 0) 0 s
     | some ms =>
       if (grpPos s ctx g (lcoreOf s core)).isNone then raise .collerr 1 0 s
       else
         let x := ((collSlot s core g).map (fun x => x.2)).getD { group := g, survivors := ms.length }
         let running := (ctxAt s ctx).colls.find? (fun c => c.group == g && c.number == x.number && x.st != 0)
         let lost := match running with | some c => c.lost != [] | none => x.lost
         let sv := match running with | some c => (survivorsOf s ctx c).1 | none => x.survivors
         let v := w64 (x.st + b2n lost * 2 ^ 3 + x.status * 2 ^ 4 + x.number * 2 ^ 8 + sv * 2 ^ 24 +
           Nat.min x.chunksDone (2 ^ 28 - 1) * 2 ^ 36)
         let acquires := x.st == 0 && decide (x.status ≤ 1) && x.used
         complete s (raiseFloor (if acquires then 1 else 0) (writeDst d.toNat v (commit ss s)))))

end Sys2Proof.Machine
end

