-- ==== Sys2Proof/Machine/Page.lean ====
section
/-!
DEFINITION. Translation at the slices, storage faults, eviction, migration, and programmed transfers (19): the events of
a page's life, and sto.read, sto.write, sto.sync, xlat.inv and fence.xlat.
-/
namespace Sys2Proof.Machine

/-! ### Waiters (R438) -/

/-- The context a waiter belongs to. -/
def waiterCtx (s : State) : Waiter → Option Nat
  | .thread th _ => some th.ctx
  | .ldp r _ => some r.th.ctx
  | .write (.store core id) => ((coreAt s core).sq.find? (fun e => e.id == id)).map (fun e => e.th.ctx)
  | .write (.amo th _ _ _ _ _ _ _) => some th.ctx
  | .write (.cas th _ _ _ _ _ _ _ _) => some th.ctx
  | .write (.fe th _ _ _ _ _ _) => some th.ctx
  | .peer (.amo th _ _ _ _ _ _ _) _ _ _ => some th.ctx
  | .peer (.cas th _ _ _ _ _ _ _ _) _ _ _ => some th.ctx
  | .peer _ _ _ _ => none
  | .red th => some th.ctx
  | .engine cell core e => some (if e < 4 then (copyAt s core e).ctx else (engAt s cell (e - 4)).ctx)
  | .tile core ts _ => ((coreAt s core).tslots[ts]?).map (fun t => t.ctx)
  | .chunk ctx _ _ _ => some ctx
  | .text th _ => some th.ctx
  | .sqe chip op =>
    match (sqeAt s chip).ops.get none op with
    | some (.transfer x) => some x.th.ctx
    | some (.migrate _ _ _ ctx _) => some ctx
    | _ => none
  | .trap slot => (threadAt s slot).map (fun t => t.ctx)
  | .nobody => none
  | .launch ctx _ => some ctx

/-! ### Kernel status records (R392) -/

/-- How a device unit's write of a page of a context goes: to memory, to a peer, after the page has come, or nowhere. -/
inductive PutWay where
  | here
  | peer (pa : Nat)
  | wait
  | lost
  deriving DecidableEq, Repr

/-- The way of a write at an address (R397, R436, R448). -/
def putWay (s : State) (ctx va : Nat) : PutWay :=
  if (devPa s ctx va).isSome then .here
  else
    match region (w64 va) with
    | .paged =>
      (match walk s va with
       | .leaf base _ pte _ => if pteType pte = 2 then .peer (peerPa (pteDevice pte) (pteRemoteFrame pte + (va - base))) else .wait
       | .absent => .wait
       | .malformed _ => .lost)
    | _ => .lost

/-- Writes a kernel status record, or keeps it until its page has come. -/
def putKstatWords (ctx : Nat) (va : Word) (ws : List Word) (s : State) : State :=
  match putWay s ctx va.toNat with
  | .here => vput ctx va.toNat (wordsBytes ws) s
  | .peer pa => rawWrite s (cellsAt pa (wordsBytes ws))
  | .wait =>
    let c := ctxAt s ctx
    askXlat va (.launch ctx 5) (setCtx s ctx { c with kwait := c.kwait ++ [{ inDesc := false, addr := va, words := ws }] })
  | .lost => s

/-- Writes the record whose address a launch descriptor holds, once the descriptor can be read. -/
def putKstatOf (ctx : Nat) (desc : Word) (ws : List Word) (s : State) : State :=
  match putWay s ctx (desc.toNat + 8) with
  | .here => putKstatWords ctx (v64 s ctx (desc.toNat + 8)) ws s
  | .wait =>
    let c := ctxAt s ctx
    askXlat desc (.launch ctx 5) (setCtx s ctx { c with kwait := c.kwait ++ [{ inDesc := true, addr := desc, words := ws }] })
  | _ => s

/-- The records that wait are tried again, in their order. -/
def retryKstat (ctx : Nat) (s : State) : State :=
  let c := ctxAt s ctx
  c.kwait.foldl (fun s k => if k.inDesc then putKstatOf ctx k.addr k.words s else putKstatWords ctx k.addr k.words s)
    (setCtx s ctx { c with kwait := [] })

/-- A waiter's request is served again, or its thread woken with the faulting address. -/
def releaseWaiter (va : Word) (slice : Nat) (s : State) : Waiter → State
  | .thread th v => sendWake th (hwMsg 5 (fld v 0 56)) s
  | .ldp r _ => post (.homeRead r) s
  | .write w => post (.homeWrite w) s
  | .red th => withThr th s (fun s => if (me s).form = .inFlight (.redU 0) then waitRetry s else s)
  | .engine _ _ _ => s
  | .tile core ts own => post (if own then .stageOwn core ts else .stageRead [(core, ts)]) s
  | .chunk ctx group rank chunk => post (.collChunkForward ctx group rank chunk) s
  | .text th pc => post (.textFetch th pc) s
  | .sqe chip op => post (.retryWakeTimer slice va (.sqe chip op)) s
  | .trap slot => post (.trapDelivery slot) s
  | .peer _ _ _ _ => s
  | .nobody => s
  | .launch ctx code =>
    match code with
    | 0 => post (.launchChecksDone ctx) s
    | 1 => post (.create ctx) s
    | 2 => post (.place ctx) s
    | 5 => retryKstat ctx s
    | _ => s

/-! ### Misses and walks (R433 to R439) -/

/-- Drops the oldest of the 4,096 entries of a slice when a new one needs room (DESIGN CHOICE, unsafe: log entry 11), and the
checked chunks of its page with it: they are checked again once it is installed again (R386). -/
def installXlat (slice : Nat) (e : XEnt) (s : State) : State :=
  let sl := sliceAt s slice
  match sl.xlat with
  | [] => setSlice s slice { sl with xlat := [e] }
  | old :: rest =>
    if 4096 ≤ sl.xlat.length then
      let s := dropChunks old.va (old.va + 2 ^ old.bits) s
      setSlice s slice { sliceAt s slice with xlat := rest ++ [e] }
    else setSlice s slice { sl with xlat := sl.xlat ++ [e] }

/-- TRANSLATION_MISS (R438): the request joins the page's coalescing entry, takes a free one, whose walk begins when a walker is
free, or is told to retry. -/
def execTranslationMiss (s : State) : Result :=
  match s.now with
  | some (.translationMiss slice va w) =>
    .next (
      let s := taken s
      let sl := sliceAt s slice
      let page := va.toNat / 4096
      if (xlatFind s va.toNat).isSome then releaseWaiter va slice s w
      else if 1024 ≤ (sl.coal.map (fun c => c.waiters.length)).foldl (· + ·) 0 then
        after 2560 (.retryWakeTimer slice va w) s
      else if sl.coal.any (fun c => c.page == page) then
        setSlice s slice { sl with coal := sl.coal.map (fun c => if c.page = page then { c with waiters := c.waiters ++ [w] } else c) }
      else if 64 ≤ sl.coal.length then after 2560 (.retryWakeTimer slice va w) s
      else
        startWalks slice (setSlice s slice { sl with coal := sl.coal ++ [{ page := page, waiters := [w], walk := 1 }] }))
  | _ => .fault (.noEvent "TRANSLATION_MISS")

/-- The table entries a walk of an address reads, by their addresses (R433, R435). -/
def walkReads (s : State) (va : Nat) : Nat → Nat → List Nat
  | 0, table =>
    let first := table + bits va 16 5 * 16 * 8
    let ef := cur64 s first
    if pteV ef && pteBig ef then [first] else [first, table + bits va 12 9 * 8]
  | level + 1, table =>
    let at_ := table + bits va (12 + 9 * (level + 1)) (if level = 3 then 8 else 9) * 8
    let e := cur64 s at_
    at_ :: (if pteV e && isPointer e && pointerOk s e then walkReads s va level (pteFrame e) else [])

/-- The size in bits of the range that an entry on a walk's path governs (R433). -/
def entryBits (s : State) (va : Nat) (start : Nat × Nat) (at_ : Nat) : Nat :=
  let k := ((walkReads s va start.1 start.2).findIdx? (fun a => a == at_)).getD start.1
  if k < start.1 then 12 + 9 * (start.1 - k) else if k = start.1 ∧ pteBig (cur64 s at_) then 16 else 12

/-- The table pointers a walk goes through. -/
def walkPtrs (s : State) (va : Nat) : Nat → Nat → List WalkPtr
  | 0, _ => []
  | level + 1, table =>
    let lo := 12 + 9 * (level + 1)
    let e := cur64 s (table + bits va lo (if level = 3 then 8 else 9) * 8)
    if pteV e && isPointer e && pointerOk s e then ⟨level + 1, va / 2 ^ lo, pteFrame e⟩ :: walkPtrs s va level (pteFrame e)
    else []

/-- Where a slice's walk begins: at the root, or at a table its page-walk cache names (R437). Its replacement is open, so
any of the pointers it may have kept, or none, is taken (DESIGN CHOICE, safe: log entry 96). -/
def walkStart (s : State) (slice va : Nat) : Nat × Nat :=
  let root := (4, fld s.host.xroot 12 27 * 4096)
  let xs := (sliceAt s slice).pwc.filter (fun x => va / 2 ^ (12 + 9 * x.level) == x.tag)
  if xs = [] then root
  else (xs[Config.freeChoice (xs.length + 1) s.fresh % (xs.length + 1)]?.map (fun x => (x.level - 1, x.table))).getD root

/-- Keeps the pointers of a walk in the slice's page-walk cache. -/
def keepPtrs (slice : Nat) (ps : List WalkPtr) (s : State) : State :=
  let sl := sliceAt s slice
  setSlice s slice { sl with
    pwc := sl.pwc.filter (fun x => !(ps.any (fun p => p.level == x.level && p.tag == x.tag))) ++ ps }

/-- The walk's entries are current at their homes: U and host copies of their lines are taken back (R433), the context it is for being charged for
what a slice takes from DRAM (R413). -/
def walkReady (s : State) (ctx va : Nat) (start : Nat × Nat) : Bool × State :=
  (walkReads s va start.1 start.2).foldl (fun r a =>
    let q := prepFor ctx (sliceOfPa a) (a / 32) none .read r.2
    (r.1 && q.1, q.2)) (true, s)

/-- The requests a slice has released for a page leave it in order (R438). -/
def releaseChan (slice page : Nat) : Nat × Nat := (200000 + slice, page)

/-- Frees a page's coalescing entry and releases its waiters in arrival order. -/
def releaseCoal (slice page : Nat) (s : State) : State :=
  let sl := sliceAt s slice
  let ws := (sl.coal.filter (fun c => c.page == page)).flatMap (fun c => c.waiters)
  let s := setSlice s slice { sl with coal := sl.coal.filter (fun c => c.page != page) }
  let out := s.agenda.length
  let s := ws.foldl (fun s w => releaseWaiter (w64 (page * 4096)) slice s w) s
  let held (f : Flight) : Flight := match f.ev with
    | .wakeAtSlot _ _ => f
    | .wakeAtRecord _ _ => f
    | _ => { f with chan := f.chan.or (some (releaseChan slice page)) }
  { s with agenda := s.agenda.take out ++ (s.agenda.drop out).map held }

/-- The walk of a page has ended: its walker takes the next (R14, R438). -/
def endWalk (slice page : Nat) (s : State) : State :=
  let sl := sliceAt s slice
  startWalks slice (setSlice s slice { sl with coal := sl.coal.map (fun c => if c.page = page then { c with walk := 0 } else c) })

def setHeld (slice page v : Nat) (s : State) : State :=
  let sl := sliceAt s slice
  setSlice s slice { sl with coal := sl.coal.map (fun c => if c.page = page then { c with held := v } else c) }

/-- Whether some slice has handed a storage page's fault to its engine already (R441). -/
def faultHanded (s : State) (base : Nat) : Bool :=
  s.slices.any (fun x => x.2.coal.any (fun c => c.held == 2 && c.page * 4096 / 65536 == base / 65536))

/-- WALK_COMPLETE (R435 to R440). An absent or storage-backed leaf is charged to the context of the first waiter that has one: a
prefetch waits as nobody, so of one alone it is context 0 (DEDUCED, unsafe: log entry 53). -/
def execWalkComplete (s : State) : Result :=
  match s.now with
  | some (.walkComplete slice va) =>
    .next (
      let s := taken s
      let page := va.toNat / 4096
      match (sliceAt s slice).coal.find? (fun c => c.page == page) with
      | none => s
      | some co =>
        let start := walkStart s slice va.toNat
        let r := walkReady s ((co.waiters.findSome? (waiterCtx s)).getD 0) va.toNat start
        if r.1 = false then holdBack (.walkComplete slice va) r.2
        else
          let s := endWalk slice page (nextFresh r.2)
          let s := keepPtrs slice (walkPtrs s va.toNat start.1 start.2) s
          match walkFrom s va.toNat start.1 start.2 with
          | .leaf base bits_ pte pa =>
            if pteType pte = 1 then
              let again := !faultHanded s base
              let s := setHeld slice page 2 s
              if again then post (.storageFaultAccept (pageChip base) (w64 base)) s else s
            else if (pageOp s base).isSome then s
            else
              let leaf := setFld pte 16 1 1
              let s := if pteA pte then s else wr64 s pa leaf
              releaseCoal slice page
                (installXlat slice { va := base, bits := bits_, leaf := leaf, leafPa := pa, dirty := pteD pte,
                                     rights := s.ctxs.map (fun x => (x.1, domainRight s x.1 (pteDomain leaf))) } s)
          | .absent =>
            if co.held = 1 then s
            else
              let ctx := (co.waiters.findSome? (waiterCtx s)).getD 0
              hostEvent { type := 7, ctx := ctx, reply := false, addr := va, info := 0 } (setHeld slice page 1 s)
          | .malformed at_ =>
            let sl := sliceAt s slice
            let s := if sl.reported.any (fun x => x.1 == at_) then s
              else
                let n := entryBits s va.toNat start at_
                let l := sl.reported ++ [(at_, va.toNat / 2 ^ n * 2 ^ n, n)]
                errorRec 7 1 0xFFF (cellLoc slice) (w64 at_) va 0 (setSlice s slice { sl with reported := l.drop (l.length - 16) })
            releaseCoal slice page s)
  | _ => .fault (.noEvent "WALK_COMPLETE")

/-! ### Storage faults (R441 to R447) -/

/-- The context whose function mode a miss on a page samples: its first waiter's. -/
def faultCtx (s : State) (base : Nat) : Nat :=
  ((s.slices.flatMap (fun x => (x.2.coal.filter (fun c => c.page * 4096 / 65536 == base / 65536)).flatMap (fun c => c.waiters))).findSome?
    (waiterCtx s)).getD 0

/-- The host path (R446). -/
def hostPath (base reason status : Nat) (s : State) : State :=
  hostEvent { type := 1, ctx := faultCtx s base, reply := true, addr := w64 base, info := w64 (reason + status * 2 ^ 17) } s

/-- The storage form of a leaf (R445 step 2): A and D 0. -/
def storageLeaf (old : Word) (drive lba : Nat) : Word :=
  w64 (1 + 2 + fld old 3 3 * 8 + fld old 6 10 * 2 ^ 6 + fld old 18 1 * 2 ^ 18 + drive * 2 ^ 19 + lba * 2 ^ 22 + 2 ^ 63)

/-- The memory form of a leaf with a frame (R445, R449). -/
def memoryLeaf (old : Word) (frame : Nat) (d : Bool) : Word :=
  w64 (1 + fld old 3 3 * 8 + fld old 6 10 * 2 ^ 6 + 2 ^ 16 + b2n d * 2 ^ 17 + fld old 18 1 * 2 ^ 18 + frame / 4096 * 2 ^ 25 +
    fld old 63 1 * 2 ^ 63)

/-- Writes a leaf as the engine's own access. -/
def writeLeaf (pa : Nat) (leaf : Word) (s : State) : State := wr64 s pa leaf

/-- Where a page's leaf stands. -/
def leafAt (s : State) (base : Nat) : Option (Word × Nat) :=
  match walk s base with
  | .leaf _ _ pte pa => some (pte, pa)
  | _ => none

/-- The leaf of a page whose operation is in flight, as the engine found it, with its place (R440). -/
def keptLeaf (s : State) (chip page : Nat) : Option (Word × Nat) :=
  (((sqeAt s chip).leaves.find? (fun x => x.1 == page)).map (fun x => x.2)).or (leafAt s page)

/-- The engine keeps the leaf of a page whose operation begins (R440). -/
def keepLeaf (chip page : Nat) (leaf : Word) (pa : Nat) (s : State) : State :=
  let q := sqeAt s chip
  setSqe s chip { q with leaves := q.leaves.filter (fun x => x.1 != page) ++ [(page, leaf, pa)] }

/-- The frames a region's fills in flight will fill (R445). -/
def fillsOf (s : State) (r : RegionEnt) : List (Option Nat) :=
  s.sqes.flatMap (fun q => q.2.ops.filterMap (fun o => match o.2 with
    | some (.fill va f slot) => if r.base ≤ va ∧ va < r.base + r.len ∧ (f ≠ 0 ∨ slot.isSome) then some slot else none
    | _ => none))

/-- The slots an eviction passes over (R445 step 1), and whether A must be cleared first. -/
inductive Cand where
  | skip
  | second (leaf : Word) (pa : Nat)
  | victim (leaf : Word) (pa : Nat)
  deriving DecidableEq, Repr

def candidate_ (s : State) (r : RegionEnt) (i : Nat) : Cand :=
  let a := ringAt r i
  if ringFrame s a = 0 ∨ ringPins s a ≠ 0 ∨ ringEvicting s a then .skip
  else
    match leafAt s (ringPage s a) with
    | none => .skip
    | some (leaf, pa) => if ptePin leaf then .skip else if pteA leaf then .second leaf pa else .victim leaf pa

/-- The scan from HAND, over at most two passes (R445 step 1): the victim's slot with its leaf.
DEDUCED, unsafe: log entry 53. -/
def scanRing (r : RegionEnt) : Nat → Nat → State → Option (Nat × Word × Nat) × State
  | 0, _, s => (none, s)
  | fuel + 1, i, s =>
    match candidate_ s r i with
    | .skip => scanRing r fuel ((i + 1) % r.size) s
    | .second leaf pa =>
      let s := writeLeaf pa (setFld leaf 16 1 0) s
      let s := dropAll (ringPage s (ringAt r i)) (ringPage s (ringAt r i) + 65536) s
      scanRing r fuel ((i + 1) % r.size) s
    | .victim leaf pa => (some (i, leaf, pa), s)

def setWaiting (chip va : Nat) (on : Bool) (s : State) : State :=
  let q := sqeAt s chip
  let l := q.waiting.filter (fun x => x != va)
  setSqe s chip { q with waiting := if on then l ++ [va] else l }

/-- The port of a drive is FENCED (R459): its queued and new commands complete with status 3. -/
def driveDown (s : State) (drive : Nat) : Bool := (linkAt s (1 + drive)).st == .fenced

/-- The status of a command that the drive never answered: not 0, and no NVMe status. -/
def noStatus : Nat := 2 ^ 15

/-- Begins the eviction of one frame for a fill (R445 steps 1 and 2); with no victim the fill waits. -/
def startEvict (chip va : Nat) (r : RegionEnt) (s : State) : State :=
  let x := scanRing r (2 * r.size) (r.hand % Nat.max 1 r.size) s
  match x.1 with
  | none => setWaiting chip va true x.2
  | some (i, leaf, pa) =>
    let s := x.2
    let a := ringAt r i
    let page := ringPage s a
    let w3 := cur64 s (a + 24)
    match takeOp chip (.evict page va i leaf a false) s with
    | none => setWaiting chip va true s
    | some (_, s) =>
      let s := wr64 s (a + 16) (setFld (cur64 s (a + 16)) 32 1 1)
      let s := setHand r ((i + 1) % r.size) s
      let s := keepLeaf chip page leaf pa (writeLeaf pa (storageLeaf leaf (fld w3 40 3) (fld w3 0 40)) s)
      let s := dropAll page (page + 65536) s
      post (.storageFaultAccept chip (w64 va)) (setWaiting chip va false s)

/-- Goes on with an eviction until its write-back is sent (R445 steps 3 to 5): no access through a dropped entry is left,
then every line of the frame is made current in DRAM, the tiles it belongs to being demoted first (R254). -/
def goEvict (chip n : Nat) (va page slot entry : Nat) (leaf : Word) (s : State) : State :=
  let again (s : State) : State := holdBack (.storageFaultAccept chip (w64 va)) s
  let f := ringFrame s entry
  if accessOut s page (page + 65536) then again s
  else
    let lines := (List.range 2048).map (fun i => f / 32 + i)
    let r := flushLines (fun l => sliceOfVa (page + (l * 32 - f))) lines s
    if r.1 = false then again r.2
    else
      let s := lines.foldl cleanLine r.2
      let s := setOp chip n (.evict page va slot leaf entry true) s
      if pteD leaf ∧ driveDown s (fld (cur64 s (entry + 24)) 40 3) then
        post (.evictionWritebackDone chip (w64 page) noStatus) s
      else if pteD leaf then
        nvmeSend chip n s { drive := fld (cur64 s (entry + 24)) 40 3, lba := fld (cur64 s (entry + 24)) 0 40, bytes := 65536, fua := false,
                            data := some (rdBytes s f 65536) }
      else post (.evictionWritebackDone chip (w64 page) 0) s

/-- A fill that has been accepted takes a frame and starts its read, or an eviction (R445). -/
def goFill (chip n va : Nat) (slot : Option Nat) (s : State) : State :=
  match regionOf s va, leafAt s va with
  | some r, some (leaf, pa) =>
    if driveDown s (pteDrive leaf) ∨ chip ∈ s.fencedUnits then hostPath va 4 0 (endOp chip n (setWaiting chip va false s))
    else if slot = none ∧ r.size ≤ r.resident + (fillsOf s r).length then startEvict chip va r s
    else
      match popFrame (pageColour va) s with
      | (none, s) => hostPath va 2 0 (endOp chip n (setWaiting chip va false s))
      | (some f, s) =>
        let s := keepLeaf chip va leaf pa (setWaiting chip va false (setOp chip n (.fill va f slot) s))
        nvmeSend chip n s { drive := pteDrive leaf, lba := pteLba leaf, bytes := 65536, fua := false, data := none }
  | _, _ => walkAgainAll va (va + 65536) (endOp chip n (setWaiting chip va false s))

/-- A miss the engine has taken, or that is over, is no longer offered: the next is offered again (R441). -/
def nextOffer (chip va : Nat) (s : State) : State :=
  let q := sqeAt s chip
  if va ∈ q.offers then
    let l := q.offers.filter (fun v => v != va)
    let s := setSqe s chip { q with offers := l }
    match l.head? with
    | some v => post (.storageFaultAccept chip (w64 v)) s
    | none => s
  else s

/-- STORAGE_FAULT_ACCEPT (R441, R445): the engine accepts a miss, or goes on with one it has. -/
def execStorageFaultAccept (s : State) : Result :=
  match s.now with
  | some (.storageFaultAccept chip va_) =>
    .next (
      let s := taken s
      let va := va_.toNat
      let evicting := (sqeAt s chip).ops.findSome? (fun o => match o.2 with
        | some (.evict page v slot leaf entry false) => if v = va then some (o.1, page, slot, leaf, entry) else none
        | _ => none)
      match evicting with
      | some (n, page, slot, leaf, entry) => goEvict chip n va page slot entry leaf s
      | none =>
        let pending := (sqeAt s chip).ops.any (fun o => match o.2 with
          | some (.evict _ v _ _ _ true) => v == va
          | _ => false)
        match pageOp s va with
        | some (c, n, .fill _ 0 slot) => if pending ∨ c ≠ chip then s else goFill chip n va slot s
        | some _ => s
        | none =>
          match leafAt s va with
          | some (leaf, _) =>
            if pteType leaf ≠ 1 then walkAgainAll va (va + 65536) (nextOffer chip va s)
            else
              let q := sqeAt s chip
              let first := q.offers.head?.all (fun v => v == va)
              match takeOp chip (.fill va 0 none) s with
              | some (n, s') =>
                if first then
                  let s := nextOffer chip va s
                  if (regionOf s va).isNone then hostPath va 3 0 s
                  else if fld (fmode s (faultCtx s va)) 0 1 = 1 then hostPath va 1 0 s
                  else goFill chip n va none (nextOffer chip va s')
                else if va ∈ q.offers then s
                else setSqe s chip { q with offers := q.offers ++ [va] }
              | none => if va ∈ q.offers then s else setSqe s chip { q with offers := q.offers ++ [va] }
          | none => walkAgainAll va (va + 65536) (nextOffer chip va s))
  | _ => .fault (.noEvent "STORAGE_FAULT_ACCEPT")

/-- Where the waiters of an evicted page's words stand while the page has no frame (DEDUCED, unsafe: log entry 18). -/
def limboWord (va : Nat) : Nat := 2 ^ 60 / 8 + va / 8

/-- Moves the waiters of n words, given their full/empty bits (R519). A bit that changes wakes the word's monitors and ends its
reservation (R207, R219); the expiry of a reservation goes with it (R208). -/
def moveWords (from_ to_ n : Nat) (fe : Nat → Bool) (s : State) : State :=
  let ms := s.words.filter (fun x => decide (from_ ≤ x.1) && decide (x.1 < from_ + n))
  let s := { s with words := s.words.filter (fun x => !(decide (from_ ≤ x.1) && decide (x.1 < from_ + n)) &&
    !(decide (to_ ≤ x.1) && decide (x.1 < to_ + n))) }
  let s := (List.range n).foldl (fun s i => if fe i then s else setWord s (to_ + i) { wordAt s (to_ + i) with fe := false }) s
  let s := ms.foldl (fun s x =>
    let w := to_ + (x.1 - from_)
    let v := fe (x.1 - from_)
    if x.2.fe = v then setWord s w x.2 else touchWord x.2.slice w (setWord s w { x.2 with fe := v, resv := none })) s
  let ev (e : Event) : Event := match e with
    | .reservationExpiry w => if from_ ≤ w ∧ w < from_ + n then .reservationExpiry (to_ + (w - from_)) else e
    | e => e
  { s with timers := s.timers.map (fun x => (x.1, ev x.2)), agenda := s.agenda.map (fun f => { f with ev := ev f.ev }) }

/-- Every word moved to a place with waiters is served by the rows of R207. -/
def settleAll (at_ n : Nat) (s : State) : State :=
  s.words.foldl (fun s x => if at_ ≤ x.1 ∧ x.1 < at_ + n then settle x.1 s else s) s

/-- The page's bytes, of exactly the length asked. -/
def exactly (n : Nat) (bs : List Byte) : List Byte := (bs ++ List.replicate n 0).take n

/-- PAGE_FILL_COMPLETE (R445): the leaf, the ring slot, the waiters; a failure goes to the host with reason 4. -/
def execPageFillComplete (s : State) : Result :=
  match s.now with
  | some (.pageFillComplete chip va_ status data) =>
    .next (
      let s := taken s
      let va := va_.toNat
      match pageOp s va with
      | some (c, n, .fill _ f slot) =>
        if c ≠ chip ∨ f = 0 then s
        else if status ≠ 0 then hostPath va 4 (status % 2 ^ 15) (endOp chip n (pushFrame f s))
        else
          match regionOf s va, keptLeaf s chip va with
          | some r, some (leaf, pa) =>
            let s := devPut f (exactly 65536 data) s
            let s := (List.range 2048).foldl (fun s i => cleanLine s (f / 32 + i)) s
            let s := settleAll (f / 8) 8192 (moveWords (limboWord va) (f / 8) 8192 (fun _ => true) s)
            let s := writeLeaf pa (memoryLeaf leaf f false) s
            let reserved := (fillsOf s r).filterMap id
            let i := slot.getD (((List.range r.size).map (fun k => (r.hand + k) % r.size)).find? (fun k =>
              ringFrame s (ringAt r k) == 0 && !(k ∈ reserved)) |>.getD 0)
            let a := ringAt r i
            let s := wr64 (wr64 (wr64 (wr64 s a (w64 f)) (a + 8) (w64 va)) (a + 16) 0) (a + 24)
              (w64 (pteLba leaf + pteDrive leaf * 2 ^ 40))
            let s := setResident r (r.resident + 1) s
            walkAgainAll va (va + 65536) (endOp chip n s)
          | _, _ => walkAgainAll va (va + 65536) (endOp chip n (pushFrame f s))
      | _ => s)
  | _ => .fault (.noEvent "PAGE_FILL_COMPLETE")

/-- EVICTION_WRITEBACK_DONE (R445 step 6, and the write that fails). -/
def execEvictionWritebackDone (s : State) : Result :=
  match s.now with
  | some (.evictionWritebackDone chip va_ status) =>
    .next (
      let s := taken s
      let page := va_.toNat
      match pageOp s page with
      | some (c, n, .evict _ for_ slot leaf entry true) =>
        if c ≠ chip then s
        else
          let f := ringFrame s entry
          let s := wr64 s (entry + 16) (setFld (cur64 s (entry + 16)) 32 1 0)
          let s :=
            if status ≠ 0 then
              let s := match keptLeaf s chip page with
                | some (_, pa) => writeLeaf pa (memoryLeaf leaf f true) s
                | none => s
              let s := endOp chip n (dropAll page (page + 65536) s)
              let s := walkAgainAll page (page + 65536) s
              let s := errorRec 15 1 0xFFF {} (w64 page) (w64 (status % 2 ^ 15)) 0 s
              hostEvent { type := 1, ctx := faultCtx s page, reply := false, addr := w64 page,
                          info := w64 (4 + status % 2 ^ 15 * 2 ^ 17) } s
            else
              let s := moveWords (f / 8) (limboWord page) 8192 (fun _ => true) s
              let s := pushFrame f s
              let s := wr64 (wr64 (wr64 s entry 0) (entry + 8) 0) (entry + 24) 0
              let s := match ringRegion s entry with
                | some r => setResident r (r.resident - 1) s
                | none => s
              let s := match pageOp s for_ with
                | some (d, m, .fill v 0 _) => if d = chip then setOp chip m (.fill v 0 (some slot)) s else s
                | _ => s
              let s := endOp chip n s
              if faultHanded s page ∨ s.slices.any (fun x => x.2.coal.any (fun c => c.page * 4096 / 65536 == page / 65536)) then
                post (.storageFaultAccept (pageChip page) (w64 page)) s else s
          post (.storageFaultAccept chip (w64 for_)) s
      | _ => s)
  | _ => .fault (.noEvent "EVICTION_WRITEBACK_DONE")

/-- The host's reply to a storage fault (R446, R464): 1 retries it. -/
def replyFault (va value : Nat) (s : State) : State :=
  if value = 1 then post (.storageFaultAccept (pageChip va) (w64 va)) s else s

/-! ### Remote pages (R448, R449) -/

/-- A frame for a migrating page of 2^bits bytes: a whole one, or a 4 KiB block of one of the page's colour.
DEDUCED, unsafe: log entry 54. -/
def migrFrame (chip va bits_ : Nat) (s : State) : Option Nat × State :=
  if bits_ = 16 then popFrame (pageColour va) s
  else
    let q := sqeAt s chip
    match q.parts4k.find? (fun x => x.1 == pageColour va && x.2 / 16384 % 4 == va / 16384 % 4) with
    | some x => (some x.2, setSqe s chip { q with parts4k := q.parts4k.erase x })
    | none =>
      match popFrame (pageColour va) s with
      | (none, s) => (none, s)
      | (some f, s) =>
        let q := sqeAt s chip
        let mine := f + va / 4096 % 16 * 4096
        let rest := ((List.range 16).map (fun i => f + 4096 * i)).filter (fun b => b != mine)
        (some mine, setSqe s chip { q with parts4k := q.parts4k ++ rest.map (fun b => (pageColour va, b)) })

/-- The frame of a migration that does not take place goes back to where it came from. -/
def returnFrame (chip va : Nat) (bits_ f : Nat) (s : State) : State :=
  if bits_ = 16 then pushFrame f s
  else
    let q := sqeAt s chip
    setSqe s chip { q with parts4k := q.parts4k ++ [(pageColour va, f)] }

/-- Starts a migration, or tells the host that it cannot be (R449). -/
def startMigr (e : XEnt) (ctx chiplet : Nat) (s : State) : State :=
  let tell (s : State) : State :=
    hostEvent { type := 2, ctx := ctx, reply := false, addr := w64 e.va, info := w64 (chiplet + 2 * 2 ^ 8) } s
  let chip := pageChip e.va
  if (e.bits ≠ 12 ∧ e.bits ≠ 16) ∨ ptePin e.leaf then tell s
  else if (pageOp s e.va).isSome ∨ (takeOp chip (.migrate e.va e.bits 0 ctx false) s).isNone then s
  else
    match migrFrame chip e.va e.bits s with
    | (none, s) => tell s
    | (some f, s) =>
      match takeOp chip (.migrate e.va e.bits f ctx false) s with
      | none => s
      | some (n, s) =>
        post (.retryWakeTimer (sliceOfVa e.va) (w64 e.va) (.sqe chip n)) (dropAll e.va (e.va + 2 ^ e.bits) s)

/-- Counts an access of a context's thread on a core at the slice's entry (R448), and acts when the access makes the count exceed THRESH: one that
was above it already is not made to (DEDUCED, unsafe: log entry 101). -/
def remoteTouch (slice : Nat) (va : Word) (ctx core : Nat) (s : State) : State :=
  let thresh := fld (ctxAt s ctx).migthr 0 16
  match xlatFind s va.toNat with
  | none => s
  | some e =>
    if pteType e.leaf ≠ 2 ∨ thresh = 0 then s
    else
      let chip := chipOfCore core
      let old := e.counts[chip]?.getD 0
      let n := Nat.min 65535 (old + 1)
      let sl := sliceAt s slice
      let put (v : Vector Nat 8) (s : State) : State :=
        setSlice s slice { sliceAt s slice with xlat := sl.xlat.map (fun x => if x.va = e.va then { x with counts := v } else x) }
      let s := put (e.counts.setIfInBounds chip n) s
      if n ≤ thresh ∨ thresh < old then s
      else if fld (fmode s ctx) 1 1 = 1 then
        hostEvent { type := 2, ctx := ctx, reply := false, addr := w64 e.va, info := w64 (chip + 1 * 2 ^ 8) }
          (put (Vector.replicate 8 0) s)
      else startMigr e ctx chip s

/-- The peer a waiting access goes to. -/
def remoteDev (s : State) : Waiter → Option Nat
  | .ldp r _ => some ((r.pa - peerBase) / 2 ^ 40)
  | .write (.store core id) => ((coreAt s core).sq.find? (fun e => e.id == id)).map (fun e =>
      ((e.cells.head?.map (fun c => c.1)).getD 0 - peerBase) / 2 ^ 40)
  | .peer _ pa _ _ => some ((pa - peerBase) / 2 ^ 40)
  | _ => none

/-- An access to a peer comes back refused: FENCED where no way to the peer is left (R459), PROT where the peer's rights map
refuses it (R467). -/
def failRemote (w : Waiter) (c : Cause) (s : State) : State :=
  match w with
  | .ldp r _ => failRead r c none s
  | .write (.store core id) => refuseStore core id c s
  | .peer w@(.amo th reg _ va _ pc _ _) _ home _ => failAtomic th reg c va pc (ackRequest w home s)
  | .peer w@(.cas th reg _ va _ _ pc _ _) _ home _ => failAtomic th reg c va pc (ackRequest w home s)
  | _ => s

/-- Whether the peer's inbound rights map refuses an access (R467): the map is the peer's, so the answer is a free value
(DESIGN CHOICE, safe: log entry 100). -/
def peerRefuses (s : State) : Bool := Config.freeChoice 2 s.fresh == 1

/-- REMOTE_ACCESS (R448): a read or a queued write goes to the peer and is answered; of an access made already only the
count is left. -/
def execRemoteAccess (s : State) : Result :=
  match s.now with
  | some (.remoteAccess slice va w) =>
    .next (
      let s := taken s
      if (remoteDev s w).any (peerCut s slice) then failRemote w .fenced s
      else if (remoteDev s w).isSome ∧ peerRefuses s then failRemote w .prot (nextFresh s)
      else
      let core := match w with
        | .thread th _ => th.slot / 16
        | .ldp r _ => r.core
        | .write (.store core _) => core
        | .engine _ core _ => core
        | .peer (.amo th _ _ _ _ _ _ _) _ _ _ => th.slot / 16
        | .peer (.cas th _ _ _ _ _ _ _ _) _ _ _ => th.slot / 16
        | .chunk ctx group rank _ =>
          let ranks := ((findColl s ctx group).map (collRanks s ctx)).getD []
          ((ranks[rank]?).bind (fun p => (collCores s ctx group).find? (fun x => x.1 == p))).elim 0 (fun x => x.2)
        | _ => 0
      let ctx := (waiterCtx s w).getD 0
      let s := remoteTouch slice va ctx core (charge ctx 1000 s)
      match w with
      | .ldp r _ =>
        let size := match r.kind with
          | .posted _ n _ _ => n
          | _ => 32
        let at_ := if size = 32 then r.pa / 32 * 32 else r.pa
        let s := { s with out := s.out ++ [.peerRead ((r.pa - peerBase) / 2 ^ 40) (at_ % 2 ^ 40) size] }
        (match r.kind with
         | .posted reg n _ _ => post (.postedArrive r.th reg (loadedVal true (rdBytes s at_ n))) (nextFresh s)
         | _ => post (.loadReply r.th r.va (rdBytes s at_ 32) r.id 0) (nextFresh s))
      | .write (.store core id) =>
        (match (coreAt s core).sq.find? (fun e => e.id == id) with
         | none => s
         | some e => ackRequest (.store core id) e.home (performWrite e.cells (some core) (some e.th) s))
      | .peer w pa home result =>
        let s := { s with out := s.out ++ [.peerAtomic ((pa - peerBase) / 2 ^ 40) (pa % 2 ^ 40) w] }
        let (th, reg) : Thr × Nat := match w with
          | .amo th reg _ _ _ _ _ _ => (th, reg)
          | .cas th reg _ _ _ _ _ _ _ => (th, reg)
          | .fe th _ _ _ _ _ _ => (th, 32)
          | .store c _ => (⟨16 * c, 0, 0⟩, 32)
        ackRequest w home (if reg < 28 then post (.postedArrive th reg result) s else s)
      | _ => s)
  | _ => .fault (.noEvent "REMOTE_ACCESS")

/-- MIGRATION_COMPLETE (R449 steps 4 to 7). -/
def execMigrationComplete (s : State) : Result :=
  match s.now with
  | some (.migrationComplete chip va_ data full) =>
    .next (
      let s := taken s
      let va := va_.toNat
      match pageOp s va with
      | some (c, n, .migrate base bits_ f _ true) =>
        if c ≠ chip then s
        else
          match keptLeaf s chip base with
          | some (leaf, pa) =>
            let size := 2 ^ bits_
            let s := devPut f (exactly size data) s
            let from_ := peerPa (pteDevice leaf) (pteRemoteFrame leaf) / 8
            let s := settleAll (f / 8) (size / 8) (moveWords from_ (f / 8) (size / 8) (fun i => full[i]?.getD true) s)
            let s := writeLeaf pa (memoryLeaf leaf f true) s
            let s := dropAll base (base + size) s
            let s := { s with out := s.out ++ [.release (pteDevice leaf) (pteRemoteFrame leaf)] }
            walkAgainAll base (base + size) (endOp chip n s)
          | none => walkAgainAll base (base + 2 ^ bits_) (endOp chip n (returnFrame chip base bits_ f s))
      | _ => s)
  | _ => .fault (.noEvent "MIGRATION_COMPLETE")

/-- RELEASE_NOTICE (R449 step 6): the peer's notice of a frame of this device is posted to the host as a frame returned
(DEDUCED, unsafe: log entry 19). -/
def execReleaseNotice (s : State) : Result :=
  match s.now with
  | some (.releaseNotice _ frame) =>
    .next (hostEvent { type := 8, ctx := 0, reply := false, addr := w64 frame,
                       info := w64 (frameColour frame) } (taken s))
  | _ => .fault (.noEvent "RELEASE_NOTICE")

/-! ### Programmed transfers (R450 to R452) -/

/-- LENGTH in logical blocks of a drive. -/
def blocksOf (drive bytes : Nat) : Nat := bytes / (if Config.blockIs4096 drive then 4096 else 512)

/-- Changes a programmed transfer. -/
def mapTransfer (chip n : Nat) (f : Transfer → Transfer) (s : State) : State :=
  match (sqeAt s chip).ops.get none n with
  | some (.transfer x) => setOp chip n (.transfer (f x)) s
  | _ => s

/-- A transfer is complete: it has its status, and its waiters are woken (R452); the ticket of a killed context goes with it
(R455). -/
def finishTransfer (chip n status : Nat) (s : State) : State :=
  match (sqeAt s chip).ops.get none n with
  | some (.transfer x) =>
    if x.orphan then endOp chip n s
    else x.waiters.foldl (fun s w => sendWake w (hwMsg 5 (fld x.desc 0 56)) s)
      (setOp chip n (.transfer { x with waiters := [], result := some status }) s)
  | _ => s

/-- A transfer ends: its pins go, and its length is subtracted at its barrier before it is complete (R340, R451, R452). -/
def endTransfer (chip n status : Nat) (s : State) : State :=
  match (sqeAt s chip).ops.get none n with
  | some (.transfer x) =>
    if x.ended then s
    else
      let s := nvmeDone chip n (setOp chip n (.transfer { x with pins := [], ended := true }) (x.pins.foldl (fun s a => unpin a s) s))
      if x.bar = 0 then finishTransfer chip n status s
      else post (.barrierBytes (.transfer chip n) (tellerCore chip) x.th.ctx x.priv x.bar x.len status) s
  | _ => s

/-- The unit whose bytes a barrier has counted, or refused to count, goes on, with the status it ends with. -/
def byteCounted (status : Nat) (s : State) : Updater → State
  | .copy core e => mapCmd core e (fun q => { q with barDone := true, status := status }) s
  | .transfer chip n => finishTransfer chip n status s

/-- BARRIER_BYTES (R334, R340, R354, R359): the update of a copy or a transfer; a refused one leaves status 5 where it had
none. -/
def execBarrierBytes (s : State) : Result :=
  match s.now with
  | some (.barrierBytes by_ core ctx priv va bytes status) =>
    .next (barCount core ctx priv va (.barrierBytes by_ core ctx priv va bytes status)
      (fun at_ r s => byteCounted status (barBytes at_ r bytes status s) by_)
      (fun s => byteCounted (if status = 0 then 5 else status) s by_) (taken s))
  | _ => .fault (.noEvent "BARRIER_BYTES")

/-- What the pages of a buffer come to. -/
inductive Pages where
  | ready (s : State)
  | miss (va : Word)
  | wait (s : State)
  | bad (status : Nat) (s : State)
  deriving DecidableEq, Repr

/-- Checks and pins the pages of a transfer's buffer (R451). -/
def bufPages (core : Nat) (th : Thr) (priv : Nat) (rd : Bool) (chip n : Nat) : List Word → State → Pages
  | [], s => .ready s
  | va :: rest, s =>
    match check s core th.ctx priv va 32 (if rd then .write else .read) false with
    | .fault c => .bad (if c = .fenced then 3 else 2) s
    | .miss => .miss va
    | .ok pa =>
      if peerBase ≤ pa then .bad 4 s
      else
        match (sqeAt s chip).ops.get none n with
        | some (.transfer x) =>
          (match (match region va with | .paged => ringFind s va.toNat | _ => none) with
           | none => bufPages core th priv rd chip n rest s
           | some a =>
             if a ∈ x.pins then bufPages core th priv rd chip n rest s
             else match pinPage va.toNat s with
               | .free => bufPages core th priv rd chip n rest s
               | .refused => .wait s
               | .held a s => bufPages core th priv rd chip n rest
                   (setOp chip n (.transfer { x with pins := x.pins ++ [a] }) s))
        | _ => .wait s

/-- The place of a buffer byte. -/
def bufPa (s : State) (ctx : Nat) (va : Word) : Nat := (devPa s ctx va.toNat).getD 0

/-- A migration's line access to the tiles of its page (R254): their copies are recalled, and they are demoted once none is left. -/
def demoteTiles (lo hi : Nat) (s : State) : Bool × State :=
  s.slices.foldl (fun r x => x.2.tiles.foldl (fun r e =>
    let b := e.base.toNat
    if region e.base == .paged && decide (b < hi) && decide (lo < b + e.span) then
      (if e.freeing ∨ e.serving ∨ engineHolds r.2 e none then (false, r.2)
       else if tileCopies r.2 e ≠ [] ∨ e.recalls ≠ [] then
         (false, mapTile x.1 e.idx (fun y => { y with lineDue := true }) (recallTile x.1 e r.2))
       else (r.1, mapTile x.1 e.idx (fun y => { y with demoted := true, lineDue := false }) r.2))
    else r) r) (true, s)

/-- Goes on with an operation that waited for a translation or for accesses to end. -/
def sqeGo (chip n slice : Nat) (va : Word) (s : State) : State :=
  let again (s : State) : State := holdBack (.retryWakeTimer slice va (.sqe chip n)) s
  match (sqeAt s chip).ops.get none n with
  | some (.migrate base bits_ f ctx false) =>
    let tiles := demoteTiles base (base + 2 ^ bits_) s
    if accessOut s base (base + 2 ^ bits_) ∨ tiles.1 = false then again tiles.2
    else
      let s := tiles.2
      match leafAt s base with
      | some (leaf, pa) =>
        if peerPorts s (pteDevice leaf) = [] then walkAgainAll base (base + 2 ^ bits_) (endOp chip n (returnFrame chip base bits_ f s))
        else
        { keepLeaf chip base leaf pa (setOp chip n (.migrate base bits_ f ctx true) s) with
          out := s.out ++ [.peerRead (pteDevice leaf) (pteRemoteFrame leaf) (2 ^ bits_)] }
      | none => walkAgainAll base (base + 2 ^ bits_) (endOp chip n (returnFrame chip base bits_ f s))
  | some (.transfer x) =>
    let len := x.len
    let drive := x.drive
    let pages := (List.range (len / 4096)).map (fun i => x.buf + w64 (4096 * i))
    let place (s : State) (v : Word) : Nat := bufPa s x.th.ctx v
    if x.sent ∨ x.ended then s
    else if driveDown s drive ∨ chip ∈ s.fencedUnits then endTransfer chip n 3 s
    else
    match bufPages (x.th.slot / 16) x.th x.priv x.read chip n pages s with
    | .bad st s => endTransfer chip n st s
    | .miss va => askXlat va (.sqe chip n) s
    | .wait s => again s
    | .ready s =>
      let pieces := (List.range ((len + 65535) / 65536)).map (fun i => (65536 * i, Nat.min 65536 (len - 65536 * i)))
      let sentOp (s : State) : State := mapTransfer chip n (fun x => { x with sent := true, pages := pages.map (place s) }) s
      if x.read then
        (pieces.map (fun p => ({ drive := drive, lba := x.lba + blocksOf drive p.1, bytes := p.2, fua := x.fua, data := none } : NvmeCmd))).foldl
          (nvmeSend chip n) (sentOp s)
      else
        let lines := (List.range (len / 32)).map (fun i => x.buf + w64 (32 * i))
        let r := lines.foldl (fun (r : Bool × State) v =>
          let q := prepFor x.th.ctx (homeOf v (place r.2 v)) (place r.2 v / 32) none .read r.2
          (r.1 && q.1, q.2)) (true, s)
        if r.1 = false then again r.2
        else
          let s := r.2
          let bytes := lines.flatMap (fun v => rdBytes s (place s v) 32)
          (pieces.map (fun p => ({ drive := drive, lba := x.lba + blocksOf drive p.1, bytes := p.2, fua := x.fua,
                                   data := some ((bytes.drop p.1).take p.2) } : NvmeCmd))).foldl (nvmeSend chip n) (sentOp s)
  | _ => s

/-- RETRY_WAKE_TIMER (R438): the thread is woken, or the request sent again. -/
def execRetryWakeTimer (s : State) : Result :=
  match s.now with
  | some (.retryWakeTimer slice va w) =>
    .next (
      let s := taken s
      match w with
      | .thread th v => sendWake th (hwMsg 5 (fld v 0 56)) s
      | .sqe chip n => sqeGo chip n slice va s
      | w => post (.translationMiss slice va w) s)
  | _ => .fault (.noEvent "RETRY_WAKE_TIMER")

/-- STO_TRANSFER_COMPLETE (R451): the drive's data is written to the buffer; the update at BAR follows the writes. The
event's status is the transfer's in [3:0] and the drive's NVMe status above. -/
def execStoTransferComplete (s : State) : Result :=
  match s.now with
  | some (.stoTransferComplete chip n status data) =>
    .next (
      let s := taken s
      match (sqeAt s chip).ops.get none n with
      | some (.transfer x) =>
        let line (i : Nat) : Word := x.buf + w64 (32 * i)
        let place (i : Nat) : Nat := x.pages[i / 128]?.getD 0 + 32 * (i % 128)
        let cut := (data.take x.len).length / 32
        if x.sent = false ∨ x.ended then s
        else if x.read ∧ data ≠ [] then
          let r := (List.range cut).foldl (fun (r : Bool × State) i =>
            let q := prepFor x.th.ctx (homeOf (line i) (place i)) (place i / 32) none .write r.2
            (r.1 && q.1, q.2)) (true, s)
          if r.1 = false then holdBack (.stoTransferComplete chip n status data) r.2
          else
            let s := (List.range cut).foldl (fun s i =>
              setDirty (line i).toNat (performWrite (cellsAt (place i) ((data.drop (32 * i)).take 32)) none none s)) r.2
            post (.stoTransferComplete chip n status []) s
        else if x.read ∧ (List.range (x.len / 32)).any (fun i => (dirAt s (place i / 32)).invs != []) then
          holdBack (.stoTransferComplete chip n status []) s
        else
          let s := if status % 16 = 1 then errorRec 15 1 x.th.ctx {} x.desc (w64 (status / 16)) 0 s else s
          endTransfer chip n (status % 16) s
      | _ => s)
  | _ => .fault (.noEvent "STO_TRANSFER_COMPLETE")

/-- sto.read and sto.write (R451). -/
def stoInstr (rd : Bool) (d a : BitVec 5) (ma : BitVec 2) (s : State) : Result :=
  let ss := [src a ma]
  withOps ss (.reg d.toNat) s (fun vs => acqGate s
    (let p := arg vs 0
     if p.toNat % 32 ≠ 0 then raise .misalign (memInfo .read 0) p s
     else readBlock p 1 s (fun bs s =>
       let w (i : Nat) : Word := w64 (leNat ((bs.drop (8 * i)).take 8))
       let len := fld (w 1) 32 21
       let drive := fld (w 1) 0 3
       let lba := fld (w 2) 0 40
       let place := match region (w 0) with | .paged => true | .linear _ => true | _ => false
       let t := me s
       if (w 0).toNat % 4096 ≠ 0 ∨ place = false then raise .badopnd (w 0) 0 s
       else if fld (w 1) 4 28 ≠ 0 ∨ fld (w 1) 53 11 ≠ 0 ∨ len % 4096 ≠ 0 ∨ len = 0 ∨ 2 ^ 20 < len ∨
           Config.driveReady drive = false then raise .badopnd (w 1) 0 s
       else if fld (w 2) 40 24 ≠ 0 then raise .badopnd (w 2) 0 s
       else if (w 3).toNat % 16 ≠ 0 then raise .badopnd (w 3) 0 s
       else if (regionEnts s).any (fun r => r.drive == drive && decide (r.lba ≤ lba) &&
           decide (lba + blocksOf drive len ≤ r.lba + r.count) &&
           (privOf t == 3 || decide ((if rd then 1 else 2) ≤ domainRight s t.ctx r.domain))) = false then
         raise .prot (memInfo .read 0) p s
       else if atTop s then raise .misfetch 0 (w64 (2 ^ 48)) s
       else
         let chip := chipOfCore (myCore s)
         engRelease 3 s (fun s =>
           let x : Transfer := { th := myThr s, priv := privOf t, read := rd, buf := w 0, len := len, drive := drive, lba := lba,
                                 fua := fld (w 1) 3 1 == 1, bar := w 3, desc := p }
           match takeOp chip (.transfer x) s with
           | none => waitRetry s
           | some (n, s) =>
             let ticket := w64 (n + chip * 2 ^ 10 + (sqeAt s chip).gens.get 0 n % 2 ^ 19 * 2 ^ 13)
             let go := post (.retryWakeTimer (sliceOfVa (w 0).toNat) (w 0) (.sqe chip n)) (commit ss s)
             advance (writeDst d.toNat ticket go)))))

/-- sto.read (R451). -/
def execStoRead (d a : BitVec 5) (ma : BitVec 2) (s : State) : Result := stoInstr true d a ma s

/-- sto.write (R451). -/
def execStoWrite (d a : BitVec 5) (ma : BitVec 2) (s : State) : Result := stoInstr false d a ma s

/-- sto.sync (R452): while the transfer runs the thread registers and parks; a completed ticket is freed. -/
def execStoSync (d a : BitVec 5) (ma : BitVec 2) (s : State) : Result :=
  let ss := [src a ma]
  withOps ss (.reg d.toNat) s (fun vs => acqGate s
    (let w := arg vs 0
     let n := fld w 0 10
     let chip := fld w 10 3
     let gen := (sqeAt s chip).gens.get 0 n % 2 ^ 19
     match (if fld w 32 32 = 0 ∧ fld w 13 19 = gen then (sqeAt s chip).ops.get none n else none) with
     | some (.transfer x) =>
       if x.th.ctx ≠ (me s).ctx then complete s (writeDst d.toNat 15 (commit ss s))
       else
         (match x.result with
          | none => park ⟨false, .ticket chip n, false⟩ (setOp chip n (.transfer { x with waiters := x.waiters ++ [myThr s] }) s)
          | some st =>
            let q := sqeAt s chip
            let s' := endOp chip n (setSqe s chip { q with gens := q.gens.put 0 n ((gen + 1) % 2 ^ 19) })
            complete s (raiseFloor (if st = 0 then 1 else 0) (writeDst d.toNat (w64 st) (commit ss s'))))
     | _ => complete s (writeDst d.toNat 15 (commit ss s))))

/-! ### Invalidation (R453) -/

/-- The range an invalidation's control word gives. -/
def invRange (va : Word) (ctl : Nat) : Nat × Nat :=
  if bits ctl 2 1 = 1 then (0, 2 ^ 56)
  else
    let n := match bits ctl 0 2 with | 0 => 12 | 1 => 16 | 2 => 21 | _ => 30
    (va.toNat, va.toNat + 2 ^ n)

/-- The invalidations of a thread that some slice has not completed: their numbers. -/
def invsOut (s : State) (t : Thread) : List Nat :=
  (s.agenda ++ s.held).foldl (fun l f => match f.ev with
    | .xlatInvAtSlice _ _ ctl (some th) =>
      if th.tid = t.tid ∧ th.ctx = t.ctx ∧ !(ctl / 16 ∈ l) then l ++ [ctl / 16] else l
    | _ => l) []

/-- xlat.inv (R453): a release at device scope, then the broadcast. -/
def execXlatInv (a b : BitVec 5) (ma mb : BitVec 2) (s : State) : Result :=
  needPriv 1 s (
    let ss := [src a ma, src b mb]
    withOps ss .none s (fun vs => acqGate s
      (let va := arg vs 0
       let c := arg vs 1
       let r := invRange va c.toNat
       if fld c 3 61 ≠ 0 then raise .badopnd c 0 s
       else if fld c 2 1 = 0 ∧ va.toNat % (r.2 - r.1) ≠ 0 then raise .badopnd va 0 s
       else
         let out := invsOut s (me s)
         if 8 ≤ out.length then waitRetry s
         else released 3 s (fun s =>
           let id := (out.foldl Nat.max 0) + 1
           complete s (postAll ((List.range 768).map (fun n => .xlatInvAtSlice n va (c.toNat + 16 * id) (some (myThr s))))
             (commit ss s))))))

/-- fence.xlat (R453). -/
def execFenceXlat (s : State) : Result :=
  needPriv 1 s (withOps [] .none s (fun _ => if invsOut s (me s) = [] then complete s s else waitRetry s))

/-- XLAT_INV_AT_SLICE (R453): the first time the range's entries are dropped; it is complete once nothing that
translated through one is outstanding. Then the reports of malformed entries whose range it meets are forgotten (R435;
DEDUCED, unsafe: log entry 102). Bit 3 of the control marks the second phase; its number follows in [..:4]. -/
def execXlatInvAtSlice (s : State) : Result :=
  match s.now with
  | some (.xlatInvAtSlice slice va ctl th) =>
    .next (
      let s := taken s
      let r := invRange va ctl
      let s := if bits ctl 3 1 = 1 then s else retryFills (walkAgain slice r.1 r.2 (dropXlat slice r.1 r.2 s))
      if accessOut s r.1 r.2 ∨ pinsOut s r.1 r.2 then
        holdBack (.xlatInvAtSlice slice va (if bits ctl 3 1 = 1 then ctl else ctl + 8) th) s
      else
        let sl := sliceAt s slice
        let covered (x : Nat × Nat × Nat) : Bool := decide (x.2.1 < r.2) && decide (r.1 < x.2.1 + 2 ^ x.2.2)
        setSlice s slice { sl with reported := sl.reported.filter (fun x => !covered x) })
  | _ => .fault (.noEvent "XLAT_INV_AT_SLICE")

end Sys2Proof.Machine
end

