-- ==== Sys2Proof/Machine/System.lean ====
section
/-!
DEFINITION. System registers, sys.call and sys.ret, brk and mark, the deprecated block instructions (18 R425 to R430, 21
R476, R477), and the events of a fault's delivery.
-/
namespace Sys2Proof.Machine

/-! ### System registers (R425, R426) -/

/-- The least privilege of a read; none where the number names no register. -/
def csrReadPriv (n : Nat) : Option Nat :=
  if n ≤ 0x00D then some 0
  else if 0x800 ≤ n ∧ n ≤ 0x804 then some 1
  else if n = 0xC04 then some 3
  else none

/-- The least privilege of a write; 4 for a register no level may write. -/
def csrWritePriv (n : Nat) : Option Nat :=
  match n with
  | 0x000 => some 0 | 0x001 => some 0 | 0x002 => some 1 | 0x003 => some 1
  | 0x004 => some 4 | 0x005 => some 4 | 0x006 => some 4 | 0x007 => some 4 | 0x008 => some 4
  | 0x009 => some 1 | 0x00A => some 1 | 0x00B => some 1 | 0x00C => some 1 | 0x00D => some 4
  | 0x800 => some 1 | 0x801 => some 1 | 0x802 => some 1 | 0x803 => some 1 | 0x804 => some 1
  | 0xC04 => some 3
  | _ => none

/-- A context's ENERGY in nJ: the table's copy with what has been charged since (R412, R413). -/
def energyOf (s : State) (ctx : Nat) : Nat :=
  let w := ctxWord s ctx 0xE0
  Nat.min (fld w 0 48 + (fld w 48 10 + (ctxAt s ctx).energyPj) / 1000) (2 ^ 48 - 1)

/-- The value a read of a system register returns to the executing thread. -/
def csrValue (n : Nat) (s : State) : Word :=
  let t := me s
  let c := ctxAt s t.ctx
  match n with
  | 0x000 => t.fstat
  | 0x001 => statusOf s (myCore s) t
  | 0x002 => t.fmtp
  | 0x003 => t.sclp
  | 0x004 => w64 (tick s)
  | 0x005 => w64 s.cycle
  | 0x006 => w64 (Nat.max (energyOf s t.ctx) t.seenEnergy)
  | 0x007 => w64 t.ctx
  | 0x008 => w64 (lcoreOf s (myCore s))
  | 0x009 => c.parklim
  | 0x00A => c.promote
  | 0x00B => c.feretry
  | 0x00C => c.migthr
  | 0x00D => fmode s t.ctx
  | 0x800 => t.epc
  | 0x801 => t.ecause
  | 0x802 => t.einfo
  | 0x803 => t.eaddr
  | 0x804 => c.tvec
  | 0xC04 => s.tvecm
  | _ => 0

/-- old with the bits of a mask taken from v. -/
def masked (old v mask : Word) : Word := (old &&& ~~~mask) ||| (v &&& mask)

/-- A write of STATUS that leaves PIN clear releases the thread's bindings (R232). -/
def releasePins (s : State) : State :=
  if fld (me s).status 3 1 = 1 then s
  else settleQueues (myCore s) (mapMe (fun t => { t with binds := noBinds }) s)

/-- The task-link entry of a thread that runs a task follows its FMTP and SCLP (R322). -/
def noteLink (s : State) : State :=
  let t := me s
  if t.task = 0 then s else putTaskLink t.ctx t.tid t.task t.fmtp t.sclp s

/-- A write to a system register: reserved bits and fields the thread may not write are kept (R7, R74, R125, R126). -/
def csrPut (n : Nat) (v : Word) (s : State) : State :=
  let ctx := (me s).ctx
  let c := ctxAt s ctx
  match n with
  | 0x000 => mapMe (fun t => { t with fstat := masked t.fstat v 0x31F03 }) s
  | 0x001 => releasePins (mapMe (fun t => { t with status := setFld (masked t.status v 0xEC) 4 1 0 }) s)
  | 0x002 => noteLink (mapMe (fun t => { t with fmtp := v }) s)
  | 0x003 => noteLink (mapMe (fun t => { t with sclp := v }) s)
  | 0x009 => setCtx s ctx { c with parklim := v }
  | 0x00A => setCtx s ctx { c with promote := v }
  | 0x00B => setCtx s ctx { c with feretry := masked c.feretry v 0xFFFF }
  | 0x00C => setCtx s ctx { c with migthr := masked c.migthr v 0xFFFF }
  | 0x800 => mapMe (fun t => { t with epc := v }) s
  | 0x801 => mapMe (fun t => { t with ecause := v }) s
  | 0x802 => mapMe (fun t => { t with einfo := v }) s
  | 0x803 => mapMe (fun t => { t with eaddr := v }) s
  | 0x804 => setCtx s ctx { c with tvec := v }
  | 0xC04 => { s with tvecm := v }
  | _ => s

/-- csr.rd (R426). -/
def execCsrRd (d : BitVec 5) (csr : BitVec 12) (s : State) : Result :=
  let n := csr.toNat
  match csrReadPriv n with
  | none => .next (raise .illinst 1 0 s)
  | some p => needPriv p s (withOps [] (.reg d.toNat) s (fun _ =>
      let v := csrValue n s
      let s' := if n = 0x006 then mapMe (fun t => { t with seenEnergy := v.toNat }) s else s
      complete s (writeDst d.toNat v s')))

/-- csr.wr, csr.set and csr.clr (R426): f gives the new value from the old one and G[a]. -/
def csrInstr (f : Word → Word → Word) (csr : BitVec 12) (a : BitVec 5) (s : State) : Result :=
  let n := csr.toNat
  match csrWritePriv n with
  | none => .next (raise .illinst 1 0 s)
  | some p => needPriv p s (withOps [srcP a] .none s (fun vs =>
      complete s (csrPut n (f (csrValue n s) (arg vs 0)) (commit [srcP a] s))))

/-- csr.wr (R426). -/
def execCsrWr (a : BitVec 5) (csr : BitVec 12) (s : State) : Result := csrInstr (fun _ x => x) csr a s

/-- csr.set (R426). -/
def execCsrSet (a : BitVec 5) (csr : BitVec 12) (s : State) : Result := csrInstr (fun old x => old ||| x) csr a s

/-- csr.clr (R426). -/
def execCsrClr (a : BitVec 5) (csr : BitVec 12) (s : State) : Result := csrInstr (fun old x => old &&& ~~~x) csr a s

/-! ### sys.call, brk, mark (R427, R476, R477) -/

/-- sys.call (R427): the source is taken, and the restart PC is PC + 4. DEDUCED, unsafe: log entry 55. -/
def execSysCall (a : BitVec 5) (ma : BitVec 2) (s : State) : Result :=
  let ss := [src a ma]
  withOps ss .none s (fun vs =>
    if atTop s then raise .misfetch 0 (w64 (2 ^ 48)) s
    else
      raiseWith { cause := .syscall, info := arg vs 0, addr := 0, restart := pcNext (me s).pc, word := faultWord s } (commit ss s))

/-- brk (R476). -/
def execBrk (a : BitVec 5) (ma : BitVec 2) (s : State) : Result :=
  withOps [src a ma] .none s (fun vs => raise .brkpt 0 (arg vs 0) s)

/-- mark (R477). -/
def execMark (a : BitVec 5) (ma : BitVec 2) (s : State) : Result :=
  let ss := [src a ma]
  withOps ss .none s (fun vs =>
    let t := me s
    complete s (trace t.ctx 1 s.cur (myCore s) t.tid (t.pc.zeroExtend 64) (arg vs 0) (commit ss s)))

/-! ### Events for a context's handler (R421, R423, R424) -/

/-- The core of an event (R421). -/
def eventCore (s : State) (ctx : Nat) (e : CtxEvent) : Nat :=
  if e.unit ∈ (ctxAt s ctx).cells then
    (((List.range 4).map (fun i => 4 * e.unit + i)).find? (fun c => vacantIn s c != [])).getD (4 * e.unit)
  else (physCore s ctx 0).getD 0

/-- The record of an event (R418). -/
def eventRecord (s : State) (core : Nat) (cause : Cause) (info addr : Word) : List Word :=
  [w64 (cause.code + 2 ^ 9 + 0xFFFF * 2 ^ 16 + lcoreOf s core * 2 ^ 52), 0, 0, 0, addr, info, w64 (tick s), 1]

/-- What writing an event comes to: written, no room for now, a page that the device is bringing in, or a refusal (R423, R424). -/
inductive RingEnd where
  | written (s : State)
  | full
  | coming (va : Word)
  | refused

/-- Writes an event through a trap block's ring and starts its handler. -/
def ringThrough (block : Word) (machine : Bool) (ctx core : Nat) (cause : Cause) (info addr : Word) (s : State) : RingEnd :=
  if pageComing s block.toNat then .coming block
  else match trapBlock s ctx block with
  | none => .refused
  | some b =>
    let rec_ := b.evbase + 64 * (b.evhead % Nat.max 1 b.evcount)
    if pageComing s rec_ then .coming (w64 rec_)
    else if recordWritable s ctx machine rec_ = false then .refused
    else if vNat s ctx (rec_ + 56) 8 % 2 = 1 then .full
    else
      let ws := eventRecord s core cause info addr
      let s := vput ctx rec_ (wordsBytes ws) s
      let s := vput64 ctx (block.toNat + 48) (w64 ((b.evhead + 1) % Nat.max 1 b.evcount)) s
      .written (postHandler
        { ctx := ctx, core := core, machine := machine, pc := BitVec.ofNat 48 b.handler, stackBase := w64 b.hstk,
          stackSize := w64 b.hsize, recAddr := w64 rec_, dw0 := ws[0]?.getD 0, restart := 0, info := info, addr := addr } s)

/-- Writes one event; one that cannot be delivered goes through TVECM, and where that fails too the context is killed (R424). -/
def ringWrite (ctx : Nat) (e : CtxEvent) (s : State) : RingEnd :=
  let core := eventCore s ctx e
  match ringThrough (ctxAt s ctx).tvec false ctx core e.cause e.info e.addr s with
  | .refused =>
    (match ringThrough s.tvecm true ctx core .dblfault (w64 e.cause.code) e.addr s with
     | .written s => .written s
     | .coming va => .coming va
     | .full => .full
     | .refused => .written (post (.kill ctx) (errorRec 11 1 ctx (coreLoc core 0) e.addr e.info 0 s)))
  | r => r

/-- Writes the events that wait for the ring, in the order they were raised, while entries are free. -/
def serveRing (ctx : Nat) : Nat → State → State
  | 0, s => s
  | fuel + 1, s =>
    match (ctxAt s ctx).evwait with
    | [] => s
    | e :: rest =>
      match ringWrite ctx e (setCtx s ctx { ctxAt s ctx with evwait := rest }) with
      | .written s => serveRing ctx fuel s
      | .coming va => askXlat va .nobody s
      | _ => s

/-- EVENT_RING_WRITE (R423). -/
def execEventRingWrite (s : State) : Result :=
  match s.now with
  | some (.eventRingWrite ctx e) =>
    .next (
      let s := taken s
      let c := ctxAt s ctx
      let wait (s : State) : State := setCtx s ctx { ctxAt s ctx with evwait := c.evwait ++ [e] }
      if c.st = .free ∨ c.st = .created ∨ c.st = .killing then s
      else if c.st ≠ .resident ∨ c.evwait.any (fun x => x.unit == e.unit) then wait s
      else match ringWrite ctx e s with
        | .written s => s
        | .coming va => wait (askXlat va .nobody s)
        | _ => wait s)
  | _ => .fault (.noEvent "EVENT_RING_WRITE")

/-! ### Handlers (R421) -/

/-- A handler continuation's thread. -/
def handlerThread (h : Handler) (tid : Nat) (s : State) : Thread :=
  let sp := h.stackBase + w64 ((tid + 1) * h.stackSize.toNat)
  let args : List Word := [sp, h.recAddr, h.dw0, 0]
  let reg (i : Nat) : GReg := if 2 ≤ i ∧ i < 6 then { st := .full, val := args[i - 2]?.getD 0 } else {}
  { tid := tid, ctx := h.ctx, pc := h.pc, regs := Vector.ofFn (fun i : Fin 28 => reg i.val),
    vecs := Vector.ofFn (fun i : Fin 32 => Config.freeVec s.fresh i.val),
    status := w64 ((if h.machine then 3 else 1) + 3 * 64), epc := h.restart, ecause := w64 (fld h.dw0 0 8), einfo := h.info,
    eaddr := h.addr, readyAt := s.cycle, floor := s.time8 }

/-- TRAP_DELIVERY (R419, R424). -/
def execTrapDelivery (s : State) : Result :=
  match s.now with
  | some (.trapDelivery p) => .next (deliverTrap p (taken s))
  | _ => .fault (.noEvent "TRAP_DELIVERY")

/-- HANDLER_START (R421): a tid, then the lowest vacant slot of the core that no handler before it waits for, or the pool; a
machine-level handler waits for a slot. The starts of one core keep their order (R432). -/
def execHandlerStart (s : State) : Result :=
  match s.now with
  | some (.handlerStart h) =>
    .next (inOrder (handlerChan h.core) (.handlerStart h) (taken s) (fun s =>
      let bare : Handler := { h with wait := 0, again := false }
      let c := coreAt s h.core
      let wait (h : Handler) (s : State) : State := holdIn (handlerChan h.core) (.handlerStart h) s
      if h.again = true ∧ !(bare ∈ c.hwait) then s
      else if issuing s h.ctx = false then
        (if (ctxAt s h.ctx).st = .killing ∨ (ctxAt s h.ctx).st = .created then s else wait h s)
      else
        match firstTid s h.ctx with
        | none =>
          if h.wait = 0 then wait { h with wait := 1 } (after ms8 (.handlerStartTimeout { h with wait := 1 }) s) else wait h s
        | some tid =>
          let t := handlerThread h tid s
          let dead := c.fenced || (cellAt s (cellOfCore h.core)).fenced
          match (if dead then none else (if h.again then vacantIn s h.core else openIn s h.core).head?) with
          | some p =>
            let s := if h.again then setCore s h.core { c with hwait := c.hwait.erase bare } else s
            let s := putRec h.ctx tid (recOf t recResident h.pc) (takeTid h.ctx s)
            nextFresh (markResident p h.ctx tid (setThread s p t))
          | none =>
            if h.machine then
              (if h.again then s else setCore s h.core { c with hwait := c.hwait ++ [bare] })
            else enterPool h.ctx tid h.core 3 (putRec h.ctx tid (recOf t recReadyReissue h.pc) (takeTid h.ctx s))))
  | _ => .fault (.noEvent "HANDLER_START")

/-- HANDLER_START_TIMEOUT (R421): a start that has waited 1 ms for a tid is reported once. -/
def execHandlerStartTimeout (s : State) : Result :=
  match s.now with
  | some (.handlerStartTimeout h) =>
    .next (
      let s := taken s
      let waits (f : Flight) : Bool := f.ev == .handlerStart h
      if s.agenda.any waits ∨ s.held.any waits then
        let mark (f : Flight) : Flight := if waits f then { f with ev := .handlerStart { h with wait := 2 } } else f
        let s := { s with agenda := s.agenda.map mark, held := s.held.map mark }
        let s := errorRec 11 1 h.ctx (coreLoc h.core 0) h.recAddr h.info 0 s
        hostEvent { type := 9, ctx := h.ctx, reply := false, addr := w64 (fld h.dw0 32 20), info := 0 } s
      else s)
  | _ => .fault (.noEvent "HANDLER_START_TIMEOUT")

/-! ### sys.ret (R428) -/

/-- Whether an address is a record of a trap block (R428), and whether it lies in its ring. -/
def recordOf (s : State) (ctx : Nat) (b : TrapBlock) (r : Nat) : Bool :=
  (decide (b.frec ≤ r) && (r - b.frec) % 64 == 0 && decide ((r - b.frec) / 64 < thrMax s ctx)) ||
  (decide (b.evbase ≤ r) && (r - b.evbase) % 64 == 0 && decide ((r - b.evbase) / 64 < b.evcount))

/-- The reserved bits of a slot record (R404), as sys.ret checks them. The bits of the PC that R27 holds at 0 count among them
(DEDUCED, unsafe: log entry 87). -/
def slotReserved (s : State) (base : Nat) : Bool :=
  let w (i : Nat) : Word := rd64 s (base + 8 * i)
  fld (w 28) 56 8 != 0 || fld (w 29) 0 2 != 0 || fld (w 29) 48 16 != 0 || (w 31 &&& ~~~(0x30FF : Word)) != 0 ||
  (w 32 &&& ~~~(0x31F03 : Word)) != 0 || fld (w 35) 29 35 != 0 || w 62 != 0 || w 63 != 0

/-- sys.ret (R428). -/
def execSysRet (a b : BitVec 5) (ma mb : BitVec 2) (s : State) : Result :=
  needPriv 1 s (
    let ss := [src a ma, src b mb]
    withOps ss .none s (fun vs => acqGate s
      (let r := arg vs 0
       let act := arg vs 1
       let t := me s
       let priv := privOf t
       let block := if priv = 3 then s.tvecm else (ctxAt s t.ctx).tvec
       match trapBlock s t.ctx block with
       | none => raise .badopnd r 0 s
       | some blk =>
         if recordOf s t.ctx blk r.toNat = false then raise .badopnd r 0 s
         else if fld act 1 63 ≠ 0 then raise .badopnd act 0 s
         else readBlock r 2 s (fun bs s =>
           let w (i : Nat) : Word := w64 (leNat ((bs.drop (8 * i)).take 8))
           if fld (w 7) 0 1 = 0 ∨ priv < fld (w 0) 10 2 then raise .badopnd r 0 s
           else released 3 s (fun s =>
             atHome .write true (r + 56) 8 s (fun e s =>
               let event := fld (w 0) 9 1 == 1
               let p := 16 * (physCore s t.ctx (fld (w 0) 52 12)).getD 0 + fld (w 0) 16 4
               let base := spadPa (p / 16) (saveTail + 512 * (p % 16))
               let clear (s : State) : State :=
                 performWrite (cellsAt e.pa (leBytes 8 0)) none (some (myThr s)) (setDirty e.va.toNat s)
               if event then
                 complete s (serveRing t.ctx ((ctxAt s t.ctx).evwait.length) (clear (commit ss s)))
               else
                 let ok := match threadAt s p with
                   | some x => x.form == .trapped && x.ctx == t.ctx
                   | none => false
                 if ok = false ∨ fld (rd64 s (base + 0x118)) 0 3 ≠ 5 ∨ priv < fld (rd64 s (base + 0xF8)) 0 2 ∨ slotReserved s base then
                   raise .badopnd r 0 s
                 else
                   let s' := clear (commit ss s)
                   let pass := fld (w 0) 0 8 == 28 && fld (w 5) 0 3 != 0
                   complete s (if fld act 0 1 = 0 then
                       mapThread p (fun x => { x with floor := s.time8 }) (resumeTrapped p pass s')
                     else endThread p s')))))))

/-! ### The deprecated block instructions (R429, R430) -/

/-- The width of a micro-step. -/
def stepWidth (apart : Bool) (d a n : Word) : Nat :=
  if 8 ≤ n.toNat ∧ d.toNat % 8 = 0 ∧ a.toNat % 8 = 0 ∧ apart then 8 else 1

/-- A micro-step has been made: the registers hold the progress, and the instruction goes on in its next pass or ends. s0 is the
state before the step: a last step that no PC follows has no effect (R27, R430). -/
def stepDone (s0 : State) (regs : List (Nat × Word)) (last : Bool) (s : State) : State :=
  let s := mapMe (fun t => regs.foldl (fun t x => setFull x.1 x.2 t) t) s
  if last then complete s0 s else mapMe (fun t => { t with form := .ready, readyAt := Nat.max (t.issued + 8) s.cycle }) s

/-- The bytes of one read of a micro-step. -/
def stepRead (va : Word) (k : Nat) (s : State) (next : List Byte → State → State) : State :=
  match plan .read false false [(0, va, k)] s with
  | .stop s => s
  | .go es =>
    let r := readElems es s
    if r.1 then next r.2.1.flatten (es.foldl (fun s e => usePlace e.pa e.size s) r.2.2) else waitRetry r.2.2

/-- One write of a micro-step. -/
def stepWrite (va : Word) (bs : List Byte) (s : State) (next : State → State) : State :=
  match plan .write true false [(0, va, bs.length)] s with
  | .stop s => s
  | .go es => next (queueStores (es.map (fun e => (e, bs))) s)

/-- A block instruction: nothing left ends it; else one micro-step, and the thread is not written out before it has ended (R430). -/
def blockInstr (d a b : BitVec 5) (s : State) (step : Word → Word → Word → State → State) : Result :=
  withOps [srcP d, srcP a, srcP b] .none s (fun vs => acqGate s
    (if arg vs 2 = 0 then complete s s
     else step (arg vs 0) (arg vs 1) (arg vs 2) (mapMe (fun t => { t with inBlk := true }) s)))

/-- mvblk (R429). -/
def execMvblk (d a b : BitVec 5) (s : State) : Result :=
  blockInstr d a b s (fun vd va n s =>
    let apart := decide (8 ≤ vd.toNat - va.toNat) || decide (8 ≤ va.toNat - vd.toNat)
    let k := stepWidth apart vd va n
    stepRead va k s (fun bs s' =>
      stepWrite vd bs s' (fun s'' =>
        stepDone s [(d.toNat, vd + w64 k), (a.toNat, va + w64 k), (b.toNat, n - w64 k)] (n == w64 k) s'')))

/-- stblk (R429): its one address decides the width of a step (DEDUCED, unsafe: log entry 26). -/
def execStblk (d a b : BitVec 5) (s : State) : Result :=
  blockInstr d a b s (fun vd va n s =>
    let k := stepWidth true vd 0 n
    stepWrite vd (List.replicate k (BitVec.ofNat 8 (fld va 0 8))) s (fun s' =>
      stepDone s [(d.toNat, vd + w64 k), (b.toNat, n - w64 k)] (n == w64 k) s'))

/-- cmpblk (R429). -/
def execCmpblk (d a b : BitVec 5) (s : State) : Result :=
  blockInstr d a b s (fun vd va n s =>
    let k := stepWidth true vd va n
    stepRead vd k s (fun xs s' => stepRead va k s' (fun ys s' =>
      let k := if xs = ys then k else 1
      if xs.take 1 ≠ ys.take 1 ∧ xs ≠ ys then complete s s'
      else stepDone s [(d.toNat, vd + w64 k), (a.toNat, va + w64 k), (b.toNat, n - w64 k)] (n == w64 k) s')))

/-- ILLINST (R45, R46). DEDUCED, unsafe: log entry 57. -/
def execIllinst (s : State) : Result :=
  match s.now with
  | some (.illinst w) =>
    .next (
      let s := taken s
      raiseWith { cause := .illinst, info := w64 (illegalInfo w (128 / (coreAt s (myCore s)).part)), addr := 0,
                  restart := (me s).pc, word := w.zeroExtend 64 } s)
  | _ => .fault (.noEvent "ILLINST")

end Sys2Proof.Machine
end

