-- ==== Sys2Proof/Machine/Kernel.lean ====
section
/-!
DEFINITION. Code objects (16): the fetch of text, the launch of a kernel and its checks, running and retirement.
-/
namespace Sys2Proof.Machine

/-! ### Reads of the dispatcher, the controller and the slices -/

/-- A read of memory by a device unit through translation: its value, or a wait for a translation, or a wait for the
copies of a line, or the address and cause of its refusal. -/
inductive LRead (α : Type) where
  | got (x : α) (s : State)
  | miss (va : Word) (s : State)
  | busy (s : State)
  | bad (va : Word) (c : Cause)

/-- One read after another. -/
def LRead.andThen {α β : Type} (r : LRead α) (f : α → State → LRead β) : LRead β :=
  match r with
  | .got x s => f x s
  | .miss va s => .miss va s
  | .busy s => .busy s
  | .bad va c => .bad va c

/-- The pieces of a read that lie in one 4 KiB page each. -/
def pagePieces : Nat → Nat → Nat → List (Nat × Nat)
  | 0, _, _ => []
  | fuel + 1, va, n =>
    if n = 0 then []
    else
      let k := Nat.min n (4096 - va % 4096)
      (va, k) :: pagePieces fuel (va + k) (n - k)

/-- The level at which a device unit's read is judged. The dispatcher and the controller are no threads, so R88 does not
bar their reads of the linear segment (DEDUCED, unsafe: log entry 24). -/
def unitLevel (priv : Nat) (k : Acc) (va : Word) : Nat :=
  match region va, k with
  | .linear _, .read => 3
  | _, _ => priv

/-- Reads the pieces at their homes as an access of a context at a level. -/
def readPieces (ctx priv : Nat) (k : Acc) : List (Nat × Nat) → State → LRead (List Byte)
  | [], s => .got [] s
  | (va, n) :: rest, s =>
    match region (w64 va) with
    | .local_ _ => .bad (w64 va) .badaddr
    | _ =>
      match check s 0 ctx (unitLevel priv k (w64 va)) (w64 va) 1 k false with
      | .fault c => .bad (w64 va) c
      | .miss => .miss (w64 va) s
      | .ok pa =>
        let ls := (List.range ((pa % 32 + n + 31) / 32)).map (fun i => pa / 32 + i)
        let q := prepLines (homeOf (w64 va) pa) ls s
        if q.1 = false then .busy q.2
        else (readPieces ctx priv k rest q.2).andThen (fun bs s' => .got (rdBytes q.2 pa n ++ bs) s')

/-- n bytes at an address that must be a multiple of align. -/
def devRead (ctx priv : Nat) (k : Acc) (va : Word) (n align : Nat) (s : State) : LRead (List Byte) :=
  if n ≠ 0 ∧ va.toNat % align ≠ 0 then .bad va .misalign else readPieces ctx priv k (pagePieces (n / 4096 + 2) va.toNat n) s

/-- Doubleword i of some bytes, and n bytes from place i. -/
def dwOf (bs : List Byte) (i : Nat) : Word := w64 (leNat ((bs.drop (8 * i)).take 8))
def part (bs : List Byte) (i n : Nat) : List Byte := (bs.drop i).take n

/-! ### Text (R384 to R387) -/

/-- The 128 LATT entries of a stored form. -/
def lattOf (bs : List Byte) : List Nat := (List.range 128).map (fun i => leNat (part bs (2 * i) 2))

def lattMode (e : Nat) : Nat := bits e 14 1
def lattLine (e : Nat) : Nat := bits e 11 3
def lattLen (e : Nat) : Nat := bits e 7 4
def lattOff (e : Nat) : Nat := bits e 0 7

/-- The end of the last used unit of a form's compressed area, at most 128 (R384, R386). -/
def formUnits (es : List Nat) : Nat :=
  let m := es.foldl (fun m e => Nat.max m (Nat.min 128 (lattOff e + lattLen e))) 0
  if es.any (fun e => lattMode e == 1) then Nat.max m 2 else m

/-- The TEXTFMT reason of a LATT entry, as the slice finds it (R385); units counts those that lie in the granule. -/
def lattFault (e units : Nat) : Option Nat :=
  if bits e 15 1 = 1 ∨ (lattMode e = 0 ∧ (lattLen e ≠ 1 ∨ lattLine e ≠ 0)) then some 1
  else if units < lattOff e + lattLen e then some 2
  else none

/-- The words of a line, from its words' codes: c below 15 is dictionary word c, 15 the next literal. -/
def codeWords (dict block : List Byte) (litBase : Nat) : List Nat → Nat → List (BitVec 32)
  | [], _ => []
  | c :: rest, lit =>
    if c = 15 then BitVec.ofNat 32 (leNat (part block (litBase + 4 * lit) 4)) :: codeWords dict block litBase rest (lit + 1)
    else BitVec.ofNat 32 (leNat (part dict (4 * c) 4)) :: codeWords dict block litBase rest lit

/-- The expansion of a line (R384); none where the block breaks a rule (TEXTFMT 3). -/
def expandLine (area : List Byte) (e : Nat) : Option (List (BitVec 32)) :=
  if lattMode e = 0 then
    some ((List.range 8).map (fun i => BitVec.ofNat 32 (leNat (part area (32 * lattOff e + 4 * i) 4))))
  else
    let block := part area (32 * lattOff e) (32 * lattLen e)
    let n := leNat (part block 0 1)
    let codes := (List.range (8 * n)).map (fun i => bits (leNat (part block (1 + i / 2) 1)) (4 * (i % 2)) 4)
    let lits (l : List Nat) : Nat := (l.filter (fun c => c == 15)).length
    if n = 0 ∨ 8 < n ∨ n ≤ lattLine e ∨ 10 < lattLen e ∨ 32 * lattLen e < 1 + 4 * n + 4 * lits codes then none
    else
      let before := codes.take (8 * lattLine e)
      some (codeWords area block (1 + 4 * n) ((codes.drop (8 * lattLine e)).take 8) (lits before))

/-- The code object a thread of a level fetches from (R387). -/
def codeObjOf (s : State) (ctx priv : Nat) : Option CodeObj :=
  match priv with
  | 0 => (ctxAt s ctx).kernel.obj
  | 1 => (ctxAt s ctx).rtobj
  | 3 => s.fwobj
  | _ => none

/-- The memory-form fault of a fetch. -/
def fetchFault (c : Cause) (va : Word) (s : State) : State := raise c (memInfo .exec 0) va s

/-- Runs the next part of a fetch; a miss parks the thread (R10, R385). -/
def fetchStep (ev : Event) (r : LRead (List Byte)) (s : State) (k : List Byte → State → State) : State :=
  match r with
  | .got bs s => k bs s
  | .miss va s => missPark va s
  | .busy s => holdBack ev s
  | .bad va c => fetchFault c va s

/-- The checked-chunk cache of a slice takes a pair with the form that was checked; the oldest of 512 goes (R386, DESIGN CHOICE,
unsafe: log entry 11). -/
def noteChunk (slice : Nat) (c : Chunk) (s : State) : State :=
  let sl := sliceAt s slice
  setSlice s slice { sl with chunks := (if 512 ≤ sl.chunks.length then sl.chunks.tail else sl.chunks) ++ [c] }

/-- Installs an expanded line in a core's instruction cache. Where all 1,024 lines are taken one goes, a free choice (R14; DESIGN
CHOICE, unsafe: log entry 77). -/
def installText (core : Nat) (pc : BitVec 48) (priv : Nat) (ws : List (BitVec 32)) (s : State) : State :=
  let c := coreAt s core
  if c.itext.length < l1Lines then setCore s core { c with itext := c.itext.put [] (itextKey pc priv) ws }
  else
    let out := (c.itext[Config.freeChoice l1Lines s.fresh % l1Lines]?.map (fun x => x.1)).getD 0
    setCore (nextFresh s) core { c with itext := (c.itext.del out).put [] (itextKey pc priv) ws }

/-- The expansion of a line from a checked stored form, or its fault (R384, R385). -/
def fillText (core : Nat) (pc : BitVec 48) (priv line : Nat) (form : List Byte) (s : State) : State :=
  match expandLine (form.drop 256) ((lattOf form)[line]?.getD 0) with
  | none => raise .textfmt 3 0 s
  | some ws => installText core pc priv ws s

/-- The pieces of a stored form that a line is expanded from (R384, R385): its LATT entry, the dictionary of a block, and the
units the entry names. -/
def linePieces (sva : Word) (line e : Nat) : List (Word × Nat) :=
  (sva + w64 (2 * line), 2) :: (if lattMode e = 1 then [(sva + 256, 64)] else []) ++
    [(sva + w64 (256 + 32 * lattOff e), 32 * lattLen e)]

/-- Reads pieces of a stored form as an instruction fetch. -/
def fetchPieces (ctx priv : Nat) : List (Word × Nat) → State → LRead (List Byte)
  | [], s => .got [] s
  | (va, n) :: rest, s => (devRead ctx priv .exec va n 1 s).andThen (fun _ s => fetchPieces ctx priv rest s)

/-- TEXT_FETCH (R385 to R387). A form that its slice has checked is the one the line comes from, whatever has been stored since
(R28); the pages the line is read from are translated and grant execution in either case. -/
def execTextFetch (s : State) : Result :=
  match s.now with
  | some (.textFetch th pc) =>
    .next (withThr th (taken s) (fun s =>
      let t := me s
      let priv := privOf t
      if t.pc ≠ pc ∨ t.form ≠ .inFlight .retry ∨ (textWord s (myCore s) pc priv).isSome then s
      else
        match codeObjOf s t.ctx priv with
        | none => raise .misfetch 1 (pc.zeroExtend 64) s
        | some o =>
          if pc.toNat < o.textBase ∨ o.textBase + 4096 * o.nchunk ≤ pc.toNat then raise .misfetch 1 (pc.zeroExtend 64) s
          else
            let again : Event := .textFetch th pc
            let c := (pc.toNat - o.textBase) / 4096
            let line := (pc.toNat - o.textBase) % 4096 / 32
            let leaf := part o.leaves (32 * c) 32
            fetchStep again (devRead t.ctx 3 .read (o.chunkTab + w64 (8 * c)) 8 1 s) s (fun ent s =>
              let sva := dwOf ent 0
              if fld sva 0 6 ≠ 0 ∨ fld sva 56 8 ≠ 0 then raise .textfmt 1 0 s
              else fetchStep again (devRead t.ctx priv .exec sva 1 1 s) s (fun _ s =>
                match check s 0 t.ctx priv sva 1 .exec false with
                | .ok pa =>
                  let slice := homeOf sva pa
                  (match (sliceAt s slice).chunks.find? (fun x => x.pa == pa && x.va == sva.toNat && x.leaf == leaf) with
                   | some x =>
                     let e := (lattOf x.form)[line]?.getD 0
                     (match lattFault e ((x.form.length - 256) / 32) with
                      | some n => raise .textfmt (w64 n) 0 s
                      | none => fetchStep again (fetchPieces t.ctx priv (linePieces sva line e) s) s (fun _ s =>
                          fillText (myCore s) pc priv line x.form s))
                   | none =>
                     fetchStep again (devRead t.ctx priv .exec sva 256 1 s) s (fun latt s =>
                       let es := lattOf latt
                       let units := Nat.min 128 ((16384 - (sva.toNat % 16384 + 256)) / 32)
                       match lattFault (es[line]?.getD 0) units with
                       | some n => raise .textfmt (w64 n) 0 s
                       | none =>
                         fetchStep again (devRead t.ctx priv .exec (sva + 256) (32 * Nat.min units (formUnits es)) 1 s) s
                           (fun area s =>
                             if contentHash ((0 : Byte) :: (latt ++ area)) ≠ leaf then raise .texthash (w64 c) 0 s
                             else fillText (myCore s) pc priv line (latt ++ area)
                               (noteChunk slice { pa := pa, va := sva.toNat, leaf := leaf, form := latt ++ area } s))))
                | _ => waitRetry s))))
  | _ => .fault (.noEvent "TEXT_FETCH")

/-! ### The hash tree and signatures (R386, R387) -/

/-- One level of the tree: an odd last node is carried up. -/
def hashLevel : List (List Byte) → List (List Byte)
  | a :: b :: t => contentHash ((1 : Byte) :: (a ++ b)) :: hashLevel t
  | l => l

/-- The root over at most 2 ^ fuel leaves. -/
def hashRoot : Nat → List (List Byte) → List Byte
  | fuel + 1, a :: b :: t => hashRoot fuel (hashLevel (a :: b :: t))
  | _, l => l.head?.getD []

/-- The root of a leaf table. -/
def rootOf (leaves : List Byte) (n : Nat) : List Byte := hashRoot 17 ((List.range n).map (fun i => part leaves (32 * i) 32))

/-- The fields of a KCB (R383). -/
def kcbNchunk (k : List Byte) : Nat := fld (dwOf k 5) 0 16
def kcbSigned (k : List Byte) : Bool := fld (dwOf k 0) 19 1 == 1
def kcbRoot (k : List Byte) : List Byte := part k 160 32

/-- Whether SIG is the signature of a KCB under a key (R383). -/
def kcbVerifies (key k : List Byte) : Bool := edVerify key (k.take 192 ++ List.replicate 64 0) (part k 192 64)

/-- The public key of a context (R395). -/
def pubKey (s : State) (ctx : Nat) : List Byte := rdBytes s (ctxField s ctx 0x108) 32

/-- SIGREQ of a context (R395). -/
def sigReq (s : State) (ctx : Nat) : Bool := fld (ctxWord s ctx 0) 4 1 == 1

/-- What the fetch needs of a KCB and its leaf table. -/
def objOf (k leaves : List Byte) : CodeObj :=
  { textBase := fld (dwOf k 4) 0 48, nchunk := kcbNchunk k, chunkTab := dwOf k 6, leaves := leaves }

/-- The runtime object of a context, if it passes the checks of R387. -/
def readRuntime (ctx : Nat) (s : State) : LRead (Option CodeObj) :=
  (devRead ctx 1 .read (ctxWord s ctx 0x128) 256 64 s).andThen (fun k s =>
    (devRead ctx 1 .read (dwOf k 7) (32 * kcbNchunk k) 32 s).andThen (fun leaves s =>
      let ok := kcbNchunk k != 0 && rootOf leaves (kcbNchunk k) == kcbRoot k &&
        (!sigReq s ctx || (kcbSigned k && kcbVerifies (pubKey s ctx) k))
      .got (if ok then some (objOf k leaves) else none) s))

/-! ### What a launch reads (R382, R383, R388) -/

/-- A group entry of a code object. -/
structure GrpEnt where
  index : Nat
  shrink : Bool
  ranges : List (Nat × Nat)
  malformed : Bool

/-- Reads n group entries, one after another. -/
def readGroups (ctx : Nat) : Nat → Nat → State → LRead (List GrpEnt)
  | 0, _, s => .got [] s
  | n + 1, va, s =>
    (devRead ctx 1 .read (w64 va) 8 8 s).andThen (fun h s =>
      let w := dwOf h 0
      let k := fld w 16 12
      (devRead ctx 1 .read (w64 (va + 8)) (4 * k) 8 s).andThen (fun rs s =>
        let rw_ (i : Nat) : Nat := leNat (part rs (4 * i) 4)
        let ranges := (List.range k).map (fun i => (bits (rw_ i) 0 12, bits (rw_ i) 12 12))
        let bad := fld w 9 7 != 0 || fld w 28 36 != 0 || k == 0 || decide (3072 < k) ||
          (List.range k).any (fun i => bits (rw_ i) 24 8 != 0) || ranges.any (fun r => decide (r.2 < r.1))
        (readGroups ctx n (va + 8 + (4 * k + 7) / 8 * 8) s).andThen (fun rest s =>
          .got ({ index := fld w 0 8, shrink := fld w 8 1 == 1, ranges := ranges, malformed := bad } :: rest) s)))

/-- Everything a launch reads. -/
structure LaunchPlan where
  desc : List Byte
  kcb : List Byte
  leaves : List Byte
  groups : List GrpEnt
  peers : List Word

/-- Reads the descriptor, the KCB and its tables, and the peer lists, which need no alignment. A refused peer list is LAUNCH_FAULT too.
DEDUCED, unsafe: log entry 58. -/
def readLaunch (ctx : Nat) (desc : Word) (s : State) : LRead LaunchPlan :=
  (devRead ctx 1 .read desc 64 64 s).andThen (fun d s =>
    (devRead ctx 1 .read (dwOf d 0) 256 64 s).andThen (fun k s =>
      (devRead ctx 1 .read (dwOf k 7) (32 * kcbNchunk k) 32 s).andThen (fun leaves s =>
        (devRead ctx 1 .read (dwOf k 8) (16 * fld (dwOf k 9) 0 13) 16 s).andThen (fun _ s =>
          (readGroups ctx (fld (dwOf k 9) 16 9) (dwOf k 10).toNat s).andThen (fun gs s =>
            let np := if dwOf d 3 = 0 then 0 else fld (dwOf d 4) 0 16
            (devRead ctx 1 .read (dwOf d 3) (8 * np) 1 s).andThen (fun ps s =>
              .got { desc := d, kcb := k, leaves := leaves, groups := gs, peers := (List.range np).map (dwOf ps) } s))))))

def LaunchPlan.cores (p : LaunchPlan) : Nat := fld (dwOf p.kcb 2) 0 12
def LaunchPlan.vregs (p : LaunchPlan) : Nat := fld (dwOf p.kcb 3) 0 6
def LaunchPlan.starts (p : LaunchPlan) : Nat := fld (dwOf p.kcb 3) 8 5
def LaunchPlan.scratch (p : LaunchPlan) : Nat := fld (dwOf p.kcb 3) 32 32
def LaunchPlan.entry (p : LaunchPlan) : Nat := (dwOf p.kcb 1).toNat
def LaunchPlan.spill (p : LaunchPlan) : Nat := (dwOf p.desc 2).toNat
/-- The slots a core's partition has under the resource rule (R390 step 1). -/
def LaunchPlan.slots (p : LaunchPlan) : Nat := if p.vregs ≤ 8 then 16 else if p.vregs ≤ 16 then 8 else 4
def LaunchPlan.slow (p : LaunchPlan) : Bool := decide (saveTail < p.scratch)

/-! ### The checks (R389) -/

/-- A reserved bit of the descriptor or KCB, or a field out of its rule that has no status of its own (R383, R388). -/
def kcbBad (p : LaunchPlan) : Bool :=
  let d := dwOf p.desc
  let k := dwOf p.kcb
  let text := fld (k 4) 0 48
  d 2 != w64 ((d 2).toNat / 65536 * 65536) || fld (d 4) 16 48 != 0 || d 5 != 0 || d 6 != 0 || d 7 != 0 ||
  fld (k 0) 20 44 != 0 || fld (k 2) 48 16 != 0 || fld (k 3) 6 2 != 0 || fld (k 3) 13 19 != 0 || fld (k 4) 48 16 != 0 ||
  fld (k 5) 16 48 != 0 || fld (k 9) 13 3 != 0 || fld (k 9) 25 39 != 0 ||
  k 16 != 0 || k 17 != 0 || k 18 != 0 || k 19 != 0 ||
  fld (k 0) 0 16 != 1 || p.cores == 0 || decide (3072 < p.cores) ||
  fld (k 2) 12 12 * fld (k 2) 24 12 * fld (k 2) 36 12 != p.cores ||
  p.starts == 0 || text % 4096 != 0 || kcbNchunk p.kcb == 0 ||
  p.entry % 4 != 0 || decide (p.entry < text) || decide (text + 4096 * kcbNchunk p.kcb ≤ p.entry) ||
  fld (k 15) 0 4 != 0

/-- The members of a group entry: its ranges' union, ascending. -/
def GrpEnt.members (g : GrpEnt) : List Nat :=
  (List.range 4096).filter (fun c => g.ranges.any (fun r => decide (r.1 ≤ c) && decide (c ≤ r.2)))

/-- The peer entries of a group: device and index there, ascending by device. -/
def peersOf (p : LaunchPlan) (index : Nat) : List (Nat × Nat) :=
  let mine := (p.peers.filter (fun w => fld w 0 8 == index)).map (fun w => (fld w 8 9, fld w 17 8))
  (List.range 512).filterMap (fun d => mine.find? (fun x => x.1 == d))

/-- The rules of LAUNCH_GROUPS (R363, R382, R388, R389). -/
def groupsBad (self : Nat) (p : LaunchPlan) : Bool :=
  let ms := p.groups.map (fun g => g.members)
  p.groups.any (fun g => g.malformed) ||
  p.groups.any (fun g => decide (2 ≤ (p.groups.filter (fun h => h.index == g.index)).length)) ||
  ms.any (fun l => l.any (fun c => decide (p.cores ≤ c))) ||
  (List.range p.cores).any (fun c => decide (4 < (ms.filter (fun l => c ∈ l)).length)) ||
  decide (256 < p.groups.length) ||
  p.peers.any (fun w => fld w 25 39 != 0 || !p.groups.any (fun g => g.index == fld w 0 8) || fld w 8 9 == self ||
    decide (2 ≤ (p.peers.filter (fun v => fld v 0 17 == fld w 0 17)).length))

/-- The status of a launch whose reads have succeeded (R389); LAUNCH_MODE and LAUNCH_FAULT come before. -/
def launchStatus (s : State) (ctx : Nat) (p : LaunchPlan) : Nat :=
  if kcbBad p then 4
  else if (sigReq s ctx && !kcbSigned p.kcb) || (kcbSigned p.kcb && !kcbVerifies (pubKey s ctx) p.kcb) then 5
  else if rootOf p.leaves (kcbNchunk p.kcb) ≠ kcbRoot p.kcb then 6
  else if coreCount s ctx < p.cores then 7
  else if 32 < p.vregs then 8
  else if p.slots < p.starts then 9
  else if thrMax s ctx < p.cores * p.starts then 10
  else if 4096 < fld (dwOf p.kcb 9) 0 13 then 11
  else if groupsBad (fld s.host.devid 0 9) p then 12
  else if p.slow ∧ p.spill = 0 then 13
  else 0

/-! ### KSTAT (R392) -/

def KernelState.code : KernelState → Nat
  | .none => 0 | .checking => 1 | .running => 2 | .retiring => 3

/-- The doublewords of a kernel status record. -/
def kstatWords (st : KernelState) (status tasks : Nat) (slow : Bool) (addr : Word) (s : State) : List Word :=
  [w64 (st.code + status * 2 ^ 4 + b2n slow * 2 ^ 12 + Nat.min tasks 65535 * 2 ^ 16), addr, w64 (tick s), 0, 0, 0, 0, 0]

/-- Writes a kernel status record; one whose page is not there waits for it. -/
def putKstat (ctx : Nat) (va : Word) (st : KernelState) (status tasks : Nat) (slow : Bool) (addr : Word) (s : State) : State :=
  putKstatWords ctx va (kstatWords st status tasks slow addr s) s

/-- The order of the doorbells of a mailbox: as they arrive (R394). -/
def mailChan (ctx : Nat) : Nat × Nat := (90000, ctx)

/-- LAUNCH_DOORBELL (R388, R392, R414, R462): a context that is not resident takes it after it resumes; one that is not
placed has no partition to launch on, and the write changes memory only. -/
def execLaunchDoorbell (s : State) : Result :=
  match s.now with
  | some (.launchDoorbell ctx desc) =>
    let wait (s : State) : State := holdIn (mailChan ctx) (.launchDoorbell ctx desc) s
    .next (inOrder (mailChan ctx) (.launchDoorbell ctx desc) (taken s) (fun s =>
      let c := ctxAt s ctx
      match c.st with
      | .resident =>
        if c.kernel.st = .none then
          post (.launchChecksDone ctx) (setCtx s ctx { c with kernel := { c.kernel with
            st := .checking, desc := desc, kstat := 0, killed := false } })
        else
          match devRead ctx 1 .read desc 64 64 s with
          | .got d s => putKstat ctx (dwOf d 1) c.kernel.st 1 0 false 0 s
          | .miss va s => wait (askXlat va (.launch ctx 3) s)
          | .busy s => wait s
          | .bad _ _ => s
      | .stopping => wait s
      | .saved => wait s
      | .restoring => wait s
      | _ => s))
  | _ => .fault (.noEvent "LAUNCH_DOORBELL")

/-! ### The launch (R390) -/

/-- The offsets of some lists laid one after another. -/
def offsets : Nat → List Nat → List Nat
  | _, [] => []
  | n, k :: t => n :: offsets (n + k) t

/-- Writes the group table and its areas (R362, R363). -/
def putGroups (ctx : Nat) (p : LaunchPlan) (s : State) : State :=
  let ms := p.groups.map (fun g => g.members)
  let ps := p.groups.map (fun g => peersOf p g.index)
  let rows := (p.groups.zip (ms.zip ps)).zip ((offsets 0 (ms.map List.length)).zip (offsets 0 (ps.map List.length)))
  let entry (i : Nat) : List Word :=
    match rows.find? (fun r => r.1.1.index == i) with
    | some (((g : GrpEnt), (m, q)), (mi, pi)) =>
      [w64 (1 + b2n g.shrink * 2 + m.length * 2 ^ 8 + q.length * 2 ^ 20), w64 mi, w64 pi, 0, 0, 0, 0, 0]
    | none => List.replicate 8 0
  let s := vput ctx (areaBase s ctx 7) ((List.range 256).flatMap (fun i => wordsBytes (entry i))) s
  let s := vput ctx (areaBase s ctx 8) (ms.flatten.flatMap (fun c => leBytes 2 c)) s
  vput ctx (areaBase s ctx 9) (ps.flatten.flatMap (fun x => leBytes 4 (x.1 + x.2 * 2 ^ 9))) s

/-- Step 3 of R390 on a core and its cell; the partition of step 1. -/
def readyCore (n core : Nat) (s : State) : State :=
  let c := coreAt s core
  let free (x : CopyCtx) : CopyCtx := { x with st := .free, status := 0, queue := [], ended := [], arms := [] }
  let s := setCore s core { c with
    part := n, roleq := Vector.replicate 4 {}, senders := [], qresv := [], qnext := [], qback := [], qparked := [], copy := c.copy.map free,
    colls := Vector.replicate 4 {}, itext := c.itext.filter (fun x => x.1 % 4 != 0) }
  (List.range 16).foldl (fun s i =>
    let sl := slotAt s (16 * core + i)
    setSlot s (16 * core + i) { sl with latch := none, mailbox := [] }) s

def readyCell (cell : Nat) (s : State) : State :=
  let free (x : EngCtx) : EngCtx :=
    { x with st := .free, status := 0, queue := [], astream := [], scaleq := [], resultq := [], gets := [], ended := [], arms := [] }
  let c := cellAt s cell
  let role := ((List.range 4).find? (fun i => !(coreAt s (4 * cell + i)).fenced)).getD 0
  setCell s cell { c with eng := c.eng.map free, mtabld := [], assayer := role }

/-- The cores of a context's partition. -/
def partCores (s : State) (ctx : Nat) : List Nat :=
  (ctxAt s ctx).cells.flatMap (fun c => (List.range 4).map (fun i => 4 * c + i))

/-- The smallest power of two that is at least n. -/
def pow2Above (n : Nat) : Nat := ((List.range 64).map (fun k => 2 ^ k)).find? (fun x => decide (n ≤ x)) |>.getD 0

/-- The initial thread of a logical core's slot (R390 step 5). Its vectors are zero as after repart (R152, R390 step 1),
and its masks are zero as the printed run of R514 shows them (DEDUCED, unsafe: log entry 25). -/
def initialThread (ctx : Nat) (p : LaunchPlan) (n slot : Nat) (s : State) : Thread :=
  let tid := p.starts * n + slot
  let k := dwOf p.kcb
  let g5 := if p.slow then p.spill + n * pow2Above (p.scratch - saveTail) else 0
  let args : List Word := [w64 ((k 14).toNat + (tid + 1) * (k 15).toNat), k 11, w64 (n * 16 + slot), w64 g5]
  let reg (i : Nat) : GReg := if 2 ≤ i ∧ i < 6 then { st := .full, val := args[i - 2]?.getD 0 } else {}
  { tid := tid, ctx := ctx, pc := BitVec.ofNat 48 p.entry, regs := Vector.ofFn (fun i : Fin 28 => reg i.val),
    status := w64 (fld (k 0) 16 1 * 4 + fld (k 0) 17 2 * 64), readyAt := s.cycle, floor := s.time8 }

/-- Starts the threads of a logical core. DEDUCED, unsafe: log entry 60. -/
def startCore (ctx : Nat) (p : LaunchPlan) (n : Nat) (s : State) : State :=
  match physCore s ctx n with
  | none => s
  | some core =>
    (List.range p.starts).foldl (fun s i =>
      let t := initialThread ctx p n i s
      let at_ := 16 * core + i
      markResident at_ ctx t.tid (putRec ctx t.tid (recOf t recResident t.pc) (setThread s at_ t))) s

/-- What R390 does for a launch that has passed. -/
def startKernel (ctx : Nat) (p : LaunchPlan) (s : State) : State :=
  let k := dwOf p.kcb
  let s := (partCores s ctx).foldl (fun s core => readyCore p.slots core s) s
  let s := (ctxAt s ctx).cells.foldl (fun s c => readyCell c s) s
  let s := putGroups ctx p s
  let c := ctxAt s ctx
  let kern : Kernel := { st := .running, desc := c.kernel.desc, kstat := dwOf p.desc 1, kcb := dwOf p.desc 0,
                         obj := some (objOf p.kcb p.leaves), slow := p.slow, killed := false, fmtBase := k 12, sclBase := k 13,
                         methBase := k 8, methCount := fld (k 9) 0 13, tstkBase := k 14, tstkSize := (k 15).toNat }
  let s := putTidHead ctx (setCtx s ctx { c with kernel := kern, mcache := [], colls := [], collNum := [], freeTids := [],
                                                 tidNext := p.cores * p.starts })
  (List.range p.cores).foldl (fun s n => startCore ctx p n s) s

/-- Whether every tid of a context is free (R392). -/
def allTidsFree (s : State) (ctx : Nat) : Bool :=
  let c := ctxAt s ctx
  c.freeTids.length == c.tidNext && c.ending == []

/-- The kernel leaves CHECKING with a failure. -/
def launchFails (ctx : Nat) (kstat : Option Word) (status : Nat) (addr : Word) (s : State) : State :=
  let c := ctxAt s ctx
  let s := setCtx s ctx { c with kernel := { c.kernel with st := .none } }
  match kstat with
  | some a => putKstat ctx a .none status 0 false addr s
  | none => s

/-- Whether a write of the host is still to be performed at its home, or has invalidations out: a launch is a release by the host at
system scope, and its threads acquire it (R390). -/
def hostWriting (s : State) : Bool :=
  s.held.any (fun f => match f.ev with
    | .hostWrite _ _ => true
    | _ => false) ||
  s.dir.any (fun d => d.2.invs.any (fun i => i.writer.isNone))

/-- LAUNCH_CHECKS_DONE (R389, R390, R392). A thread of the context that still runs, a handler's, delays the set-up.
DEDUCED, unsafe: log entry 59. DEDUCED, unsafe: log entry 69. -/
def execLaunchChecksDone (s : State) : Result :=
  match s.now with
  | some (.launchChecksDone ctx) =>
    .next (
      let s := taken s
      let c := ctxAt s ctx
      let again : Event := .launchChecksDone ctx
      if c.kernel.st ≠ .checking then s
      else
        match devRead ctx 1 .read c.kernel.desc 64 64 s with
        | .miss va s => askXlat va (.launch ctx 0) s
        | .busy s => holdBack again s
        | .bad _ _ => launchFails ctx none 3 0 s
        | .got d s =>
          let kstat := dwOf d 1
          if fld (fmode s ctx) 6 58 ≠ 0 then launchFails ctx (some kstat) 2 0 s
          else
            match readLaunch ctx c.kernel.desc s with
            | .miss va s => askXlat va (.launch ctx 0) s
            | .busy s => holdBack again s
            | .bad va _ => launchFails ctx (some kstat) 3 va s
            | .got p s =>
              match launchStatus s ctx p with
              | 0 =>
                if !allTidsFree s ctx ∨ hostWriting s ∨ c.cells.any (fun x => fld (cellAt s x).test 8 1 == 1) then holdBack again s
                else putKstat ctx kstat .running 0 0 p.slow 0 (startKernel ctx p s)
              | n => launchFails ctx (some kstat) n 0 s)
  | _ => .fault (.noEvent "LAUNCH_CHECKS_DONE")

/-! ### Retirement (R392, R393) -/

/-- The retire condition: nothing of the kernel can act any more. DEDUCED, unsafe: log entry 61. -/
def retireReady (s : State) (ctx : Nat) : Bool :=
  let c := ctxAt s ctx
  allTidsFree s ctx &&
  c.taskq.all (fun q => q.2.all (fun e =>
    let st := taskState s ctx e.addr
    st != tReady && st != tMatched && st != tRunning)) &&
  !(s.agenda ++ s.held).any (fun f => match f.ev with
    | .taskRead x _ _ => x == ctx
    | .taskMatch x _ _ => x == ctx
    | .taskPlace x _ _ => x == ctx
    | .taskDecrement x _ _ => x == ctx
    | _ => false) &&
  c.cells.all (fun m => (cellAt s m).eng.toList.all (fun e => e.st == .free || e.ctx != ctx)) &&
  (partCores s ctx).all (fun k =>
    (coreAt s k).copy.toList.all (fun x => x.st == .free || x.ctx != ctx) && (coreAt s k).colls.toList.all (fun x => x.st == 0))

/-- Every tile of the context is freed (R266); false while a copy is being recalled. -/
def freeTiles (ctx : Nat) (s : State) : Bool × State :=
  (s.slices.flatMap (fun x => (x.2.tiles.filter (fun e => e.ctx == ctx)).map (fun e => (x.1, e)))).foldl (fun r x =>
    let e := emptyTile x.1 x.2 r.2
    (r.1 && e.1, if e.1 then freeTile x.1 x.2 e.2 else e.2)) (true, s)

/-- Tasks whose record is PENDING or UNMATCHED (R392). -/
def tasksLeft (s : State) (ctx : Nat) : Nat :=
  (List.range (taskMax s ctx)).countP (fun i =>
    let st := taskState s ctx (taskVa s ctx i)
    st == tPending || st == tUnmatched)

/-- The group table is invalid (R393). -/
def dropGroups (ctx : Nat) (s : State) : State :=
  (List.range 256).foldl (fun s g =>
    let a := areaBase s ctx 7 + 64 * g
    if fld (v64 s ctx a) 0 1 = 1 then vput64 ctx a (setFld (v64 s ctx a) 0 1 0) s else s) s

/-- The end of a kernel: caches and groups go, KSTAT is written, the host is told. -/
def endKernel (ctx status : Nat) (s : State) : State :=
  let k := (ctxAt s ctx).kernel
  let s := dropGroups ctx s
  let c := ctxAt s ctx
  let s := setCtx s ctx { c with mcache := [], kernel := { c.kernel with st := .none } }
  hostEvent { type := 10, ctx := ctx, reply := false, addr := k.kstat, info := w64 status }
    (putKstat ctx k.kstat .none status (tasksLeft s ctx) k.slow 0 s)

/-- RETIRE (R392, R393): store queues and invalidations first, then the tiles, then the end. -/
def execRetire (s : State) : Result :=
  match s.now with
  | some (.retire ctx) =>
    .next (
      let s := taken s
      let c := ctxAt s ctx
      if c.st ≠ .resident then s
      else if c.kernel.st = .retiring ∨ (c.kernel.st = .running ∧ retireReady s ctx) then
        let s := setCtx s ctx { c with kernel := { c.kernel with st := .retiring } }
        let stores := (partCores s ctx).any (fun k => (coreAt s k).sq != [])
        let invs := s.dir.any (fun d => d.2.invs.any (fun i => i.writer.any (fun w => w.ctx == ctx)))
        if stores || invs then holdBack (.retire ctx) s
        else
          let r := freeTiles ctx s
          if r.1 = false then holdBack (.retire ctx) r.2 else endKernel ctx 0 r.2
      else s)
  | _ => .fault (.noEvent "RETIRE")

end Sys2Proof.Machine
end

