-- ==== Sys2Proof/Machine/Context.lean ====
section
/-!
DEFINITION. Contexts (17): creation, placement, the gang switch with its save and restore, kill, free, and gang.ack.
-/
namespace Sys2Proof.Machine

/-! ### The context table (R395, R400, R401) -/

def CtxState.code : CtxState → Nat
  | .free => 0 | .created => 1 | .resident => 2 | .stopping => 3 | .saved => 4 | .restoring => 5 | .killing => 6

/-- Writes n bytes of a context-table entry as the device does. -/
def tablePut (ctx off n v : Nat) (s : State) : State :=
  let pa := ctxField s ctx off
  devWrite (cellsAt pa (leBytes n v)) s

/-- A context's state changes, and STATE with it. -/
def setCtxSt (ctx : Nat) (st : CtxState) (s : State) : State :=
  tablePut ctx 0 8 (setFld (ctxWord s ctx 0) 0 4 st.code).toNat (setCtx s ctx { ctxAt s ctx with st := st })

/-- The answer to a command the host wrote (R400). DEDUCED, unsafe: log entry 65. -/
def answerCmd (ctx code status : Nat) (s : State) : State :=
  let c := ctxAt s ctx
  if code ∈ c.cmds then
    let w := setFld (setFld (ctxWord s ctx 0xF8) 8 4 status) 15 1 1
    tablePut ctx 0xF8 8 w.toNat (setCtx s ctx { c with cmds := c.cmds.erase code })
  else s

/-- A malformed entry (R395, R400). -/
def entryBad (s : State) (ctx : Nat) : Bool :=
  let w (off : Nat) : Word := ctxWord s ctx off
  let w3 := w 0x18
  let zero (lo n : Nat) : Bool := (List.range n).all (fun i => w (lo + 8 * i) == 0)
  fld (w 0) 6 58 != 0 ||
  (w 0x10).toNat % 65536 != 0 || region (w 0x10) != .paged ||
  fld w3 0 21 == 0 || decide (2 ^ 20 < fld w3 0 21) || fld w3 21 11 != 0 || fld w3 52 12 != 0 ||
  fld w3 42 10 == 0 || decide (768 < fld w3 42 10) ||
  (List.range 16).any (fun i => fld (w (0x20 + 8 * i)) 0 12 != 0) ||
  fld (w 0xE0) 58 6 != 0 || fld (w 0xF0) 12 4 != 0 || fld (w 0xF0) 17 47 != 0 ||
  w 0x128 == 0 || fld (w 0x130) 0 12 != 0 || !zero 0x138 25 || !zero 0x300 32

/-- COMMAND_ILLEGAL_CODE (R400). -/
def execCommandIllegalCode (s : State) : Result :=
  match s.now with
  | some (.commandIllegalCode ctx) =>
    .next (
      let s := taken s
      match (ctxAt s ctx).cmds.find? (fun n => decide (4 < n)) with
      | some n => answerCmd ctx n 5 s
      | none => s)
  | _ => .fault (.noEvent "COMMAND_ILLEGAL_CODE")

/-! ### Creation (R399, R400, R401) -/

/-- Every record of a context is free. -/
def freeRecords (ctx : Nat) (s : State) : State :=
  (List.range (thrMax s ctx)).foldl (fun s tid =>
    if recState s ctx tid = recFree then s else setRecState ctx tid recFree s) s

/-- The vault as creation leaves it: header, records, tile table. -/
def initVault (ctx : Nat) (s : State) : State :=
  let s := vput ctx (ctxWord s ctx 0x10).toNat (wordsBytes ([0, w64 (2 ^ 20)] ++ List.replicate 510 0)) s
  vput ctx (areaBase s ctx 6) (List.replicate (64 * tileMax s ctx) 0) (freeRecords ctx s)

/-- CREATE (R400, R401). -/
def execCreate (s : State) : Result :=
  match s.now with
  | some (.create ctx) =>
    .next (
      let s := taken s
      let c := ctxAt s ctx
      if c.st ≠ .free then answerCmd ctx 1 1 s
      else if entryBad s ctx then answerCmd ctx 1 5 s
      else
        match readRuntime ctx s with
        | .miss va s => askXlat va (.launch ctx 1) s
        | .busy s => holdBack (.create ctx) s
        | .bad _ _ => answerCmd ctx 1 5 s
        | .got none s => answerCmd ctx 1 5 s
        | .got (some o) s =>
          let s := setCtx s ctx { cmds := c.cmds, trace := c.trace, rtobj := some o, parklim := 20000, promote := 100000,
                                  feretry := 4, migthr := 1024 }
          let s := tablePut ctx 0xC0 32 (20000 + 100000 * 2 ^ 64 + 4 * 2 ^ 128 + 1024 * 2 ^ 192) (initVault ctx s)
          answerCmd ctx 1 0 (setCtxSt ctx .created s))
  | _ => .fault (.noEvent "CREATE")

/-! ### Cells (R398, R407) -/

/-- Whether an address of the model's memory is a scratchpad, accumulator or B-operand byte of some cells. -/
def cellMem (cells : List Nat) (pa : Nat) : Bool :=
  if pa < spadBase ∨ peerBase ≤ pa then false
  else if pa < accBase then decide (spadCore pa / 4 ∈ cells)
  else if pa < bstoreBase then decide ((pa - accBase) / 0x40000 ∈ cells)
  else decide ((pa - bstoreBase) / 0x100000 ∈ cells)

/-- A core with nothing of a context in it; what belongs to the core itself stays. -/
def bareCore (c : Core) : Core :=
  { c with part := 16, owner := none, fills := [], itext := [], sq := [], redVa := [], filter := [], roleq := Vector.replicate 4 {},
           senders := [], qresv := [], qnext := [], qback := [], qparked := [], banks := Vector.replicate 4 {}, tslots := Vector.replicate 32 {},
           fwd := [], arrivals := 0, divq := [], normq := [], iterq := [], copy := Vector.replicate 4 {},
           colls := Vector.replicate 4 {}, hwait := [], closed := false }

/-- A cell with nothing of a context in it. -/
def bareCell (c : Cell) : Cell :=
  { c with owner := none, eng := Vector.replicate 4 {}, banks := Vector.replicate 4 {}, mtabld := [], rot := 0, copyRot := 0,
           assayer := 0 }

/-- The clearing of a first placement (R407): zeros, words full (R519), empty queues, banks by R67, vacant slots. -/
def clearCells (cells : List Nat) (s : State) : State :=
  let s := { s with mem := s.mem.filter (fun x => !cellMem cells x.1), words := s.words.filter (fun x => !cellMem cells (x.1 * 8)),
                    poison := s.poison.filter (fun w => !cellMem cells (w * 8)) }
  cells.foldl (fun s cell =>
    let s := (List.range 4).foldl (fun s i =>
      let core := 4 * cell + i
      let s := setCore s core (bareCore (coreAt s core))
      (List.range 16).foldl (fun s j =>
        setSlot s (16 * core + j) { slotAt s (16 * core + j) with occ := .vacant, latch := none, mailbox := [] }) s) s
    setCell s cell (bareCell (cellAt s cell))) s

/-- The cells a core table names, in order (R398); none where an entry breaks a rule. -/
def tableCells (s : State) (ctx : Nat) : Option (List Nat) :=
  let es := (List.range (ncells s ctx)).map (fun m => vNat s ctx (areaBase s ctx 14 + 2 * m) 2)
  let cells := es.map (fun e => bits e 6 4 * 48 + bits e 0 6)
  if es.any (fun e => decide (1024 ≤ e) || decide (47 < bits e 0 6)) || cells.eraseDups.length != cells.length then none
  else some cells

/-- Whether a cell can take a placement: it is in no partition, and no test of it runs (R398, R486).
DEDUCED, unsafe: log entry 29. -/
def cellFree (s : State) (cell : Nat) : Bool := (cellAt s cell).owner.isNone && fld (cellAt s cell).test 8 1 == 0

/-- The time a save or a restore takes: about 58 µs (R406, R407), in eighths of a nanosecond. -/
def moveTime : Nat := 464000

/-- The partition is the context's, and its restore or first clearing begins (R401, R407); the restore of a switch that was
host-assisted when its stamp was agreed waits for its command (R25, R402). -/
def startPlace (ctx : Nat) (cells : List Nat) (s : State) : State :=
  let c := ctxAt s ctx
  let first := c.st == .created
  let s := clearCells cells s
  let s := (cells.zipIdx).foldl (fun s x =>
    let s := setCell s x.1 { cellAt s x.1 with owner := some ctx }
    (List.range 4).foldl (fun s i => setCore s (4 * x.1 + i) { coreAt s (4 * x.1 + i) with owner := some (ctx, 4 * x.2 + i) }) s) s
  let stage := if first then 20 else if c.gangHost then 11 else 12
  let s := setCtx s ctx { c with
    cells := cells, gstep := stage, parklim := ctxWord s ctx 0xC0, promote := ctxWord s ctx 0xC8,
    feretry := masked 0 (ctxWord s ctx 0xD0) 0xFFFF, migthr := masked 0 (ctxWord s ctx 0xD8) 0xFFFF }
  let s := setCtxSt ctx .restoring s
  if stage = 11 then s else after moveTime (.restoreComplete ctx) s

/-- Places a context on its table's cells, or gives the status of R400. DEDUCED, unsafe: log entry 63. -/
def tryPlace (ctx : Nat) (s : State) : Nat × State :=
  match tableCells s ctx with
  | none => (3, s)
  | some cells => if cells.all (cellFree s) then (0, startPlace ctx cells s) else (2, s)

/-- A placement that fails: its command is answered, or, where it is a switch's successor, the cells stay empty and the host is
told (R414). The event is a step done with the status in info (DESIGN CHOICE, unsafe: log entry 112). -/
def placeFailed (ctx status : Nat) (s : State) : State :=
  if 2 ∈ (ctxAt s ctx).cmds then answerCmd ctx 2 status s
  else hostEvent { type := 5, ctx := ctx, reply := false, addr := 6, info := w64 status } s

/-- PLACE (R398, R400, R401): of a place command, or of a switch's successor. -/
def execPlace (s : State) : Result :=
  match s.now with
  | some (.place ctx) =>
    .next (
      let s := taken s
      let c := ctxAt s ctx
      let go (s : State) : State :=
        let r := tryPlace ctx s
        if r.1 = 0 then answerCmd ctx 2 0 r.2 else placeFailed ctx r.1 r.2
      if c.st ≠ .created ∧ c.st ≠ .saved then placeFailed ctx 1 s
      else if entryBad s ctx then placeFailed ctx 5 s
      else if c.st = .saved then go s
      else
        match readRuntime ctx s with
        | .miss va s => askXlat va (.launch ctx 2) s
        | .busy s => holdBack (.place ctx) s
        | .bad _ _ => placeFailed ctx 5 s
        | .got none s => placeFailed ctx 5 s
        | .got (some o) s => go (setCtx s ctx { ctxAt s ctx with rtobj := some o }))
  | _ => .fault (.noEvent "PLACE")

/-! ### The announcement (R402, R411) -/

/-- SWITCHAT of a context. -/
def switchAt (s : State) (ctx : Nat) : Nat := (ctxWord s ctx 0xE8).toNat

/-- A stamp is in force: the partition is told, and its stop is due then. -/
def setStamp (ctx stamp : Nat) (s : State) : State :=
  let s := tablePut ctx 0xE8 8 stamp s
  after (8 * stamp - s.time8) (.switchStamp ctx) s

/-- SWITCH_ANNOUNCE (R402). DEDUCED, unsafe: log entry 62. -/
def execSwitchAnnounce (s : State) : Result :=
  match s.now with
  | some (.switchAnnounce ctx stamp) =>
    .next (
      let s := taken s
      let c := ctxAt s ctx
      if c.st ≠ .resident ∨ stamp = 0 then s
      else
        let at_ := Nat.max stamp.toNat (tick s + 20000)
        let s := setCtx s ctx { c with deferred := false, gangHost := fld (fmode s ctx) 4 1 == 1 }
        let s := setStamp ctx at_ s
        if fld (ctxWord s ctx 0) 5 1 = 1 then
          raiseEvent ctx { cause := .gangnote, info := w64 at_, addr := 0, unit := 4096 } s
        else s)
  | _ => .fault (.noEvent "SWITCH_ANNOUNCE")

/-- gang.ack (R411): the controller answers at once (DESIGN CHOICE, unsafe: log entry 10). -/
def execGangAck (d a : BitVec 5) (ma : BitVec 2) (s : State) : Result :=
  needPriv 1 s (
    let ss := [src a ma]
    withOps ss (.reg d.toNat) s (fun vs =>
      let act := arg vs 0
      let t := me s
      let c := ctxAt s t.ctx
      let at_ := switchAt s t.ctx
      if fld act 2 62 ≠ 0 ∨ fld act 0 2 = 3 then raise .badopnd act 0 s
      else if atTop s then raise .misfetch 0 (w64 (2 ^ 48)) s
      else
        let s := commit ss s
        let n := fld act 0 2
        let s :=
          if at_ = 0 then s
          else if c.gangHost = true ∧ n ≠ 0 then
            hostEvent { type := 5, ctx := t.ctx, reply := false, addr := 0, info := w64 n } s
          else if tick s + 10000 ≤ at_ then
            if n = 1 then setStamp t.ctx (tick s + 10000) s
            else
              let d_ := fld (ctxWord s t.ctx 0xA8) 32 32
              if n = 2 ∧ d_ ≠ 0 ∧ c.deferred = false then
                setStamp t.ctx (at_ + d_) (setCtx s t.ctx { c with deferred := true })
              else s
          else s
        advance (writeDst d.toNat (w64 (switchAt s t.ctx)) s)))

/-! ### The stop (R403) -/

/-- Whether the thread of a slot has come to rest (R120, R143, R172, R203, R226, R289); a send awaits its reply over the stop
(R236, R246). -/
def slotQuiet (s : State) (p : Nat) : Bool :=
  match threadAt s p with
  | none => true
  | some t =>
    (match t.form with
     | .ready => true
     | .parked _ => true
     | .trapped => true
     | .stopped _ _ => true
     | .inFlight .migrate => true
     | .inFlight (.reply _ _ _) => true
     | .inFlight (.members _ _ _) => true
     | _ => false) &&
    t.acqOut == 0 && (sqOf s (p / 16) ⟨p, t.ctx, t.tid⟩).all (fun e => e.held) && t.homes == [] && t.regs.toList.zipIdx.all (fun x => x.1.st != .pending || mgetPending s p t x.2)

/-- The update-only copies of a core, by physical line. -/
def uLines (c : Core) : List Nat :=
  c.l1.filterMap (fun x => match x.2 with
    | .update pa _ _ => some (pa / 32)
    | _ => none)

/-- Every instruction of a core has completed, and its stores, posted loads and reds with it; stores that wait for a fault's
handler wait in the save (R121). -/
def threadsQuiet (s : State) (core : Nat) : Bool :=
  (List.range 16).all (fun i => slotQuiet s (16 * core + i)) && (coreAt s core).sq.all (fun e => e.held)

/-- A core at rest (R403 step 1). -/
def coreQuiet (s : State) (core : Nat) : Bool :=
  let c := coreAt s core
  threadsQuiet s core && uLines c == [] && c.fwd.all (fun f => f.target.isNone) && c.tslots.toList.all (fun t => t.st == .empty)

/-- What a core does to come to rest: markers for its stores, then its U copies go to their homes (R117) and its tile
slots give their copies back (R264). -/
def restCore (core : Nat) (s : State) : State :=
  if !threadsQuiet s core then (List.range 16).foldl (fun s i => sendMarkers 3 (16 * core + i) s) s
  else
    let s := (uLines (coreAt s core)).foldl (fun s l =>
      if s.agenda.any (fun f => f.ev == .uEviction core l) then s else post (.uEviction core l) s) s
    (List.range 32).foldl (fun s i =>
      let t := (coreAt s core).tslots[i]?.getD {}
      if t.st = .ready then giveBack core i true s else s) s

/-- A step of an engine of some cells. -/
def engStepOf (cells : List Nat) : Event → Bool
  | .kstep c => decide (c ∈ cells)
  | .copyElement c => decide (c ∈ cells)
  | _ => false

/-- A message of a context that the routers spill (R403 step 3): migrants, collective traffic, sends and their replies, an mget's
value on its way (R289), tasks, handlers that wait for a slot, and what its engines have under way. cells are those of its partition. -/
def spills (cells : List Nat) (ctx : Nat) : Event → Bool
  | .migrantArrival m => m.ctx == ctx
  | .migrantAccepted m _ => m.ctx == ctx
  | .migrantRefused m => m.ctx == ctx
  | .mailboxMessage p => p.sender.ctx == ctx
  | .sendReply th _ => th.ctx == ctx
  | .sendgMemberReply th _ => th.ctx == ctx
  | .collAllJoined c _ => c == ctx
  | .collChunkForward c _ _ _ => c == ctx
  | .collChunkAck c _ _ _ _ => c == ctx
  | .collRepairDone c _ => c == ctx
  | .barrierBytes (.copy _ _) _ c _ _ _ _ => c == ctx
  | .postedArrive th _ _ => th.ctx == ctx
  | .postedFail th _ _ => th.ctx == ctx
  | .taskNotifyArrival c _ _ => c == ctx
  | .taskRead c _ _ => c == ctx
  | .taskMatch c _ _ => c == ctx
  | .taskPlace c _ _ => c == ctx
  | .taskDecrement c _ _ => c == ctx
  | .handlerStart h => h.ctx == ctx
  | .arrayCommandComplete c _ => decide (c ∈ cells)
  | .mtabldLoadComplete c _ => decide (c ∈ cells)
  | .copyCommandComplete core _ => decide (core / 4 ∈ cells)
  | _ => false

/-- A renaming of slots, for a core and for a cell: they move whole. -/
def onCore (f : Nat → Nat) (core : Nat) : Nat := f (16 * core) / 16
def onCell (f : Nat → Nat) (cell : Nat) : Nat := f (64 * cell) / 64
def renameThr (f : Nat → Nat) (t : Thr) : Thr := { t with slot := f t.slot }

/-- A spilled message with its slots renamed by f. -/
def renameEvent (f : Nat → Nat) : Event → Event
  | .migrantArrival m => .migrantArrival { m with origin := f m.origin, target := onCore f m.target }
  | .migrantAccepted m p => .migrantAccepted { m with origin := f m.origin, target := onCore f m.target } (f p)
  | .migrantRefused m => .migrantRefused { m with origin := f m.origin, target := onCore f m.target }
  | .mailboxMessage p => .mailboxMessage { p with dest := renameThr f p.dest, sender := renameThr f p.sender }
  | .sendReply th n => .sendReply (renameThr f th) n
  | .sendgMemberReply th ok => .sendgMemberReply (renameThr f th) ok
  | .collChunkAck c g n core k => .collChunkAck c g n (onCore f core) k
  | .barrierBytes (.copy k e) core c p va n st => .barrierBytes (.copy (onCore f k) e) (onCore f core) c p va n st
  | .arrayCommandComplete c e => .arrayCommandComplete (onCell f c) e
  | .mtabldLoadComplete c b => .mtabldLoadComplete (onCell f c) b
  | .copyCommandComplete core e => .copyCommandComplete (onCore f core) e
  | .postedArrive th reg v => .postedArrive (renameThr f th) reg v
  | .postedFail th reg p => .postedFail (renameThr f th) reg p
  | .handlerStart h => .handlerStart { h with core := onCore f h.core }
  | e => e

/-- The logical core and slot a spilled message goes to, its slots renamed already; 0 where it goes to no core. -/
def spillDest : Event → Nat
  | .migrantArrival m => 16 * m.target
  | .migrantAccepted m _ => m.origin
  | .migrantRefused m => m.origin
  | .mailboxMessage p => p.dest.slot
  | .sendReply th _ => th.slot
  | .sendgMemberReply th _ => th.slot
  | .collChunkAck _ _ _ core _ => 16 * core
  | .barrierBytes _ core _ _ _ _ _ => 16 * core
  | .copyCommandComplete core _ => 16 * core
  | .postedArrive th _ _ => th.slot
  | .postedFail th _ _ => th.slot
  | .handlerStart h => 16 * h.core
  | _ => 0

/-- The logical name of a physical slot of a context: 16 × the logical core + the slot. -/
def logicalSlot (s : State) (p : Nat) : Nat := 16 * lcoreOf s (p / 16) + p % 16

/-- The physical slot of a logical name. -/
def physicalSlot (s : State) (ctx l : Nat) : Nat := 16 * ((physCore s ctx (l / 16)).getD 0) + l % 16

/-- A message in flight with the cores of its pair renamed too (R107). -/
def renameFlight (f : Nat → Nat) (x : Flight) : Flight :=
  let unit (u : Nat) : Nat := if u < 3072 then onCore f u else u
  { ev := renameEvent f x.ev, chan := x.chan.map (fun c => (unit c.1, unit c.2)) }

/-- The hops that remain to spilled messages: a free value below the mesh's diameter of 64, which does not fall along an ordered
pair, since a router passes on the pair's messages in order (R107). -/
def spillHops (fresh : Nat) (l : List Flight) : List (Flight × Nat) :=
  (l.foldl (fun (r : List (Flight × Nat) × Nat) f =>
    let past := (r.1.filter (fun x => x.1.chan.isSome && x.1.chan == f.chan)).foldl (fun n x => Nat.max n x.2) 0
    (r.1 ++ [(f, Nat.max past (Config.freeChoice 64 r.2 % 64))], r.2 + 1)) ([], fresh)).1

/-- Writes a spilled message to a router's pocket image: where it goes and the hops that remain, and 24 bytes of its contents,
whose form the spec leaves open. Which router held it is a free value. -/
def spillImage (ctx n : Nat) (x : Flight × Nat) (s : State) : State :=
  let pocket := Config.freeChoice 1536 s.fresh % 1536
  let head := leBytes 8 (spillDest x.1.ev + x.2 * 2 ^ 32)
  nextFresh (vput ctx (areaBase s ctx 10 + 2048 * pocket + 32 * (n % 64)) (head ++ (List.range 24).map (Config.freeByte s.fresh)) s)

/-- Takes the context's traffic off the mesh (R403 step 3). DESIGN CHOICE, unsafe: log entry 12. -/
def spillTraffic (ctx : Nat) (s : State) : State :=
  let c := ctxAt s ctx
  let mine := spillHops s.fresh (((s.agenda ++ s.held).filter (fun f => spills c.cells ctx f.ev)).map (renameFlight (logicalSlot s)))
  let s' := { s with agenda := s.agenda.filter (fun f => !spills c.cells ctx f.ev),
                     held := s.held.filter (fun f => !spills c.cells ctx f.ev), fresh := s.fresh + mine.length }
  let s' := setCtx s' ctx { c with spilled := c.spilled ++ mine }
  mine.zipIdx.foldl (fun s x => spillImage ctx x.2 x.1 s) s'

/-- A slot's form and park reason as the slot record holds them (R404). A send awaiting its reply has no code of its own there:
it is given as ready (DESIGN CHOICE, unsafe: log entry 88). -/
def formCode : Form → Nat × Nat
  | .ready => (1, 0)
  | .parked p => (2, if p.mem then 1 else 2)
  | .inFlight .migrate => (3, 0)
  | .inFlight _ => (1, 0)
  | .trapping _ => (1, 0)
  | .trapped => (5, 0)
  | .stopped _ _ => (6, 0)

/-- The time a thread has been parked when issue stopped, in 1/8 ns (R131). -/
def parkElapsed (c : Ctx) (t : Thread) : Nat :=
  match t.form with
  | .parked _ => c.stopAt - t.parkT
  | .stopped (some _) _ => c.stopAt - t.parkT
  | _ => 0

/-- Writes the save tail of a core (R403 step 4, R404): the record of a trapped or stopped thread is in its place. -/
def writeTail (ctx core : Nat) (s : State) : State :=
  (List.range 16).foldl (fun s i =>
    let p := 16 * core + i
    let blank (tid : Nat) : Thread := { tid := tid, ctx := ctx, pc := 0 }
    if (coreAt s core).part ≤ i then devPut (spadPa core (saveTail + 512 * i)) (List.replicate 512 0) s
    else
      match (slotAt s p).occ with
      | .vacant => devPut (spadPa core (saveTail + 512 * i)) (List.replicate 512 0) s
      | .forMigrant tid _ => writeSlotRecord p 3 0 (blank tid) 0 s
      | .forArrival tid _ => writeSlotRecord p 3 0 (blank tid) 0 s
      | .forPinned tid _ bs => writeSlotRecord p 4 0 { blank tid with binds := bs } 0 s
      | .thread t =>
        match t.form with
        | .trapped => s
        | .stopped _ _ => s
        | f => writeSlotRecord p (formCode f).1 (formCode f).2 t (parkElapsed (ctxAt s ctx) t / 8) s) s

/-- The step of a stop that is being done has been done: the host is told and waited for, if it commands the steps. -/
def stepDoneOf (ctx n : Nat) (s : State) : State :=
  let c := ctxAt s ctx
  if c.gangHost = true ∧ c.killPending = false then
    hostEvent { type := 5, ctx := ctx, reply := false, addr := w64 n, info := 0 } (setCtx s ctx { c with gstep := 2 * n + 1 })
  else setCtx s ctx { c with gstep := 2 * n + 2 }

/-- Steps 1 and 2 of R403: the state, and whether the step is done. -/
def restStep (ctx n : Nat) (s : State) : Bool × State :=
  if n = 1 then
    if (partCores s ctx).all (coreQuiet s) then (true, s) else (false, (partCores s ctx).foldl (fun s c => restCore c s) s)
  else (!s.agenda.any (fun f => engStepOf (ctxAt s ctx).cells f.ev), s)

/-- The stop begins (R403): no thread issues from now on; a core not at rest in 1 ms is reported (R410). -/
def beginStop (ctx : Nat) (st : CtxState) (s : State) : State :=
  let c := ctxAt s ctx
  setCtxSt ctx st (setCtx s ctx { c with stopAt := s.time8, gstep := if st = .stopping ∧ c.gangHost = true then 1 else 2 })

/-- SWITCH_STAMP (R401, R403, R392): the stop waits until a launch or a retirement ends; then its steps in order. -/
def execSwitchStamp (s : State) : Result :=
  match s.now with
  | some (.switchStamp ctx) =>
    .next (
      let s := taken s
      let c := ctxAt s ctx
      let again (s : State) : State := holdBack (.switchStamp ctx) s
      match c.st with
      | .resident =>
        if switchAt s ctx = 0 ∨ tick s < switchAt s ctx then s
        else if c.kernel.st = .checking ∨ c.kernel.st = .retiring then again s
        else
          let s := beginStop ctx .stopping s
          again ((partCores s ctx).foldl (fun s core => after ms8 (.stopTimeout ctx core) s) s)
      | .stopping =>
        if c.killPending = true ∧ 5 ≤ c.gstep ∧ c.gstep < 10 then post (.killComplete ctx) (setCtxSt ctx .killing s)
        else if c.gstep % 2 = 1 then again (if c.killPending then setCtx s ctx { c with gstep := c.gstep + 1 } else s)
        else if c.gstep = 2 ∨ c.gstep = 4 then
          let r := restStep ctx (c.gstep / 2) s
          again (if r.1 then stepDoneOf ctx (c.gstep / 2) r.2 else r.2)
        else if c.gstep = 6 then again (stepDoneOf ctx 3 (spillTraffic ctx s))
        else if c.gstep = 8 then again (stepDoneOf ctx 4 ((partCores s ctx).foldl (fun s core => writeTail ctx core s) s))
        else after moveTime (.saveComplete ctx) s
      | _ => s)
  | _ => .fault (.noEvent "SWITCH_STAMP")

/-- STOP_TIMEOUT (R410). -/
def execStopTimeout (s : State) : Result :=
  match s.now with
  | some (.stopTimeout ctx core) =>
    .next (
      let s := taken s
      let c := ctxAt s ctx
      if c.st = .stopping ∧ c.gstep ≤ 2 ∧ c.stopAt + ms8 ≤ s.time8 ∧ !coreQuiet s core then
        errorRec 10 1 ctx (coreLoc core 0) 0 0 0 s
      else s)
  | _ => .fault (.noEvent "STOP_TIMEOUT")

/-! ### Saved state (R405, R406) -/

def renameArms (f : Nat → Nat) (l : List (Thr × Nat × Nat)) : List (Thr × Nat × Nat) := l.map (fun x => (renameThr f x.1, x.2))

/-- A place in a scratchpad with its core renamed. -/
def renamePlace (f : Nat → Nat) (pa : Nat) : Nat :=
  if isSpad pa then spadPa (onCore f (spadCore pa)) ((pa - spadBase) % spadSize) else pa

/-- A request of the store queue with its thread's slot renamed. -/
def renameReq (f : Nat → Nat) (core : Nat) : WriteReq → WriteReq
  | .store _ id => .store core id
  | .amo th reg op va x pc mo priv => .amo (renameThr f th) reg op va x pc mo priv
  | .cas th reg size va exp new pc mo priv => .cas (renameThr f th) reg size va exp new pc mo priv
  | .fe th op va pa size x mo => .fe (renameThr f th) op va (renamePlace f pa) size x mo

/-- A store that waits for a fault's handler (R121), with its thread's slot renamed. -/
def renameEnt (f : Nat → Nat) (e : SqEnt) : SqEnt :=
  { e with th := renameThr f e.th, cells := e.cells.map (fun c => (renamePlace f c.1, c.2)),
           home := if 1024 ≤ e.home then 1024 + onCore f (e.home - 1024) else e.home,
           req := e.req.map (renameReq f (f e.th.slot / 16)) }

/-- A core's saved part with its slots renamed by f (R405). -/
def renameCore (f : Nat → Nat) (c : Core) : Core :=
  { (bareCore {}) with
    part := c.part, roleq := c.roleq, senders := c.senders.map (fun x => { x with slot := f x.slot, target := f x.target }),
    sq := c.sq.map (renameEnt f), qresv := c.qresv, qnext := c.qnext, qback := c.qback, qparked := c.qparked.map (fun x => (x.1, x.2.1, renameThr f x.2.2)), banks := c.banks,
    tslots := c.tslots,
    fwd := c.fwd.map (fun x => { x with slot := f x.slot, target := x.target.map f }), arrivals := c.arrivals,
    copy := c.copy.map (fun x => { x with
      slot := f x.slot, queue := x.queue.map (fun q => { q with th := renameThr f q.th }), arms := renameArms f x.arms }),
    colls := c.colls.map (fun x => { x with th := x.th.map (renameThr f) }), hwait := c.hwait.map (fun h => { h with core := onCore f h.core }) }

/-- A cell's saved part with its slots renamed by f. -/
def renameCell (f : Nat → Nat) (c : Cell) : Cell :=
  { eng := c.eng.map (fun x => { x with
      core := onCore f x.core, slot := f x.slot, arms := renameArms f x.arms,
      queue := x.queue.map (fun q => { q with th := renameThr f q.th, core := onCore f q.core }),
      gets := x.gets.map (fun g => { g with th := renameThr f g.th }) }),
    banks := c.banks, mtabld := c.mtabld.map (fun x => (x.1, x.2.1, renameThr f x.2.2)), rot := c.rot, copyRot := c.copyRot,
    assayer := c.assayer }

/-- A word's registrations with their slots renamed by f. -/
def renameWord (f : Nat → Nat) (m : WordMeta) : WordMeta :=
  { m with queue := m.queue.map (fun q => { q with th := renameThr f q.th }),
           resv := m.resv.map (fun r => { r with th := renameThr f r.th }),
           mons := m.mons.map (fun x => { x with th := renameThr f x.th }) }

/-- The parts of virtual cell m's save area (R406): offset, where the bytes lie in the cell, size. -/
def saveParts (cell : Nat) : List (Nat × Nat × Nat) :=
  (List.range 4).map (fun c => (c * 0x40000, spadPa (4 * cell + c) 0, 0x40000)) ++
  [(0x100000, accPa cell 0 0, 0x40000), (0x140000, bstorePa cell 0, 0x100000)]

def saveSize : Nat := 0x250000
def saveAt (s : State) (ctx m off : Nat) : Nat := areaBase s ctx 11 + saveSize * m + off

/-- The first page of the save area that maps no memory. -/
def saveHole (s : State) (ctx : Nat) : Option Nat :=
  ((List.range (ncells s ctx * (saveSize / 4096))).map (fun i => areaBase s ctx 11 + 4096 * i)).find?
    (fun a => (devPa s ctx a).isNone)

/-- Writes bytes to the vault page by page. -/
def vputPages (ctx va : Nat) (bytes : List Byte) (s : State) : State :=
  (List.range ((bytes.length + 4095) / 4096)).foldl (fun s i => vput ctx (va + 4096 * i) ((bytes.drop (4096 * i)).take 4096) s) s

/-- The bytes the check code covers (R405): state blocks and save tails, in order. -/
def checkedBytes (s : State) (ctx : Nat) : List Byte :=
  (List.range (ncells s ctx)).flatMap (fun m =>
    let at_ (off n : Nat) : List Byte := (List.range n).map (fun i => vByte s ctx (saveAt s ctx m off + i))
    at_ 0x240000 0x10000 ++ (List.range 4).flatMap (fun c => at_ (c * 0x40000 + saveTail) 0x4000))

/-- Streams the cells of a partition to the save area (R406); a poisoned word stays poisoned in its copy. -/
def streamOut (ctx : Nat) (s : State) : State :=
  ((ctxAt s ctx).cells.zipIdx).foldl (fun s x =>
    let s := (saveParts x.1).foldl (fun s q =>
      let bad := s.poison.filter (fun w => decide (q.2.1 ≤ w * 8) && decide (w * 8 < q.2.1 + q.2.2))
      let to_ (w : Nat) : Option Nat := (devPa s ctx (saveAt s ctx x.2 (q.1 + (w * 8 - q.2.1)))).map (fun pa => pa / 8)
      let s := vputPages ctx (saveAt s ctx x.2 q.1) (rdBytes s q.2.1 q.2.2) s
      { s with poison := s.poison ++ bad.filterMap to_ }) s
    let block := (List.range 0x10000).map (fun i => Config.freeByte s.fresh (0x10000 * x.2 + i))
    chargeDram ctx (saveSize / 32) (vputPages ctx (saveAt s ctx x.2 0x240000) block s)) s

/-- Streams the save area back to the cells (R407). -/
def streamIn (ctx : Nat) (s : State) : State :=
  ((ctxAt s ctx).cells.zipIdx).foldl (fun s x =>
    let s := (saveParts x.1).foldl (fun s q =>
      let va := saveAt s ctx x.2 q.1
      let bad := s.poison.filterMap (fun w => ((List.range (q.2.2 / 8)).find? (fun i =>
        devPa s ctx (va + 8 * i) == some (w * 8))).map (fun i => q.2.1 / 8 + i))
      let s := rawWrite s (cellsAt q.2.1 ((List.range q.2.2).map (fun i => vByte s ctx (va + i))))
      { s with poison := s.poison ++ bad }) s
    chargeDram ctx (saveSize / 32) s) s

/-- Adds what a context has been charged to the table's copy (R412, R413). -/
def storeEnergy (ctx : Nat) (s : State) : State :=
  let w := ctxWord s ctx 0xE0
  let pj := fld w 48 10 + (ctxAt s ctx).energyPj
  let nj := Nat.min (fld w 0 48 + pj / 1000) (2 ^ 48 - 1)
  setCtx (tablePut ctx 0xE0 8 (nj + pj % 1000 * 2 ^ 48) s) ctx { ctxAt s ctx with energyPj := 0 }

/-- Keeps the state block's contents with the context, slots under their logical names (R405). -/
def keepBlocks (ctx : Nat) (s : State) : State :=
  let c := ctxAt s ctx
  let f := logicalSlot s
  let cores := partCores s ctx
  let kept (p : Nat) : Slot :=
    let x := slotAt s p
    { occ := match x.occ with
        | .thread t => .thread { t with parkT := parkElapsed c t }
        | o => o,
      latch := x.latch, mailbox := x.mailbox }
  let words := s.words.filter (fun x => isSpad (x.1 * 8) && decide (spadCore (x.1 * 8) ∈ cores))
  let s := setCtx s ctx { c with
    savedCores := cores.foldl (fun t k => t.put {} (lcoreOf s k) (renameCore f (coreAt s k))) [],
    savedCells := (c.cells.zipIdx).foldl (fun t x => t.put {} x.2 (renameCell f (cellAt s x.1))) [],
    savedSlots := cores.foldl (fun t k => (List.range 16).foldl (fun t i => t.put {} (16 * lcoreOf s k + i) (kept (16 * k + i))) t) [],
    savedWords := words.foldl (fun t x =>
      t.put {} (lcoreOf s (spadCore (x.1 * 8)) * (spadSize / 8) + (x.1 * 8 - spadBase) % spadSize / 8) (renameWord f x.2)) [] }
  s

/-- SAVE_COMPLETE (R401, R405, R406, R413): the cells are released and the successor is placed as by a place command, with
no command to answer. DEDUCED, unsafe: log entries 63 and 66. -/
def execSaveComplete (s : State) : Result :=
  match s.now with
  | some (.saveComplete ctx) =>
    .next (
      let s := taken s
      let c := ctxAt s ctx
      if c.st ≠ .stopping then s
      else if c.killPending then post (.killComplete ctx) (setCtxSt ctx .killing s)
      else
        let fencedRow := c.cells.any (fun m => decide (16 + m / 48 ∈ s.fencedUnits))
        match saveHole s ctx with
        | some va =>
          let s := if pageComing s va then askXlat (w64 va) (.launch ctx 4) s
            else if c.gstep = 10 then
              hostEvent { type := 9, ctx := ctx, reply := false, addr := w64 va, info := 0 } (setCtx s ctx { c with gstep := 14 })
            else s
          holdBack (.saveComplete ctx) s
        | none =>
          if fencedRow then holdBack (.saveComplete ctx) s
          else
            let s := nextFresh (streamOut ctx s)
            let s := tablePut ctx 0x100 8 (Config.checkCode (checkedBytes s ctx)).toNat s
            let s := keepBlocks ctx s
            let s := clearCells c.cells s
            let s := storeEnergy ctx s
            let h (i : Nat) : Nat := vaultHdr s ctx i
            let s := vput64 ctx (h 3) (w64 (tick s)) s
            let s := vput64 ctx (h 5) (v64 s ctx (h 5) + 1) s
            let s := vput64 ctx (h 6) 0 s
            let k := ctxAt s ctx
            let s := tablePut ctx 0xC0 32 (k.parklim.toNat + k.promote.toNat * 2 ^ 64 + k.feretry.toNat * 2 ^ 128 +
              k.migthr.toNat * 2 ^ 192) s
            let s := tablePut ctx 0xE8 8 0 s
            let s := setCtxSt ctx .saved (setCtx s ctx { k with cells := [], lastCells := k.cells, gstep := 0 })
            let s := if c.gangHost then hostEvent { type := 5, ctx := ctx, reply := false, addr := 5, info := 0 } s else s
            let nxt := ctxWord s ctx 0xF0
            let next := fld nxt 0 12
            if fld nxt 16 1 = 0 then s
            else if (tableCells s next).any (fun cs => cs.all (fun m => decide (m ∈ k.cells))) then post (.place next) s
            else placeFailed next 3 s)
  | _ => .fault (.noEvent "SAVE_COMPLETE")

/-! ### The restore (R407, R408) -/

/-- The held wakes of a context, as (TIME, tid, message). -/
def heldWakes (s : State) (ctx : Nat) : List (Nat × Nat × Msg) :=
  ((List.range (thrMax s ctx)).filter (fun n => fld (v64 s ctx (heldVa s ctx n + 24)) 0 1 == 1)).map (fun n =>
    let w := v64 s ctx (heldVa s ctx n)
    ((v64 s ctx (heldVa s ctx n + 16)).toNat, n,
      ⟨BitVec.ofNat 8 (fld w 0 8), BitVec.ofNat 56 (fld w 8 56), v64 s ctx (heldVa s ctx n + 8)⟩))

/-- Insertion by TIME. -/
def insertWake (x : Nat × Nat × Msg) : List (Nat × Nat × Msg) → List (Nat × Nat × Msg)
  | [] => [x]
  | y :: t => if x.1 < y.1 then x :: y :: t else y :: insertWake x t

/-- Delivers the held wakes in order of TIME and clears their entries (R408). -/
def deliverHeld (ctx : Nat) (s : State) : State :=
  let ws := (heldWakes s ctx).foldl (fun l x => insertWake x l) []
  let s := ws.foldl (fun s x =>
    post (.wakeAtRecord ⟨fld (recWord s ctx x.2.1 6) 0 16, ctx, x.2.1⟩ x.2.2) (vput64 ctx (heldVa s ctx x.2.1 + 24) 0 s)) s
  if ws = [] then s
  else
    let h := vaultHdr s ctx 2
    vput64 ctx h (setFld (v64 s ctx h) 0 32 0) s

/-- Wakes every waiter of the overflow chain by its kind and empties the chain (R210). -/
def wakeChain (ctx : Nat) : Nat → Word → State → State
  | 0, _, s => s
  | n + 1, link, s =>
    if fld link 20 1 = 1 then s
    else
      let e := areaBase s ctx 3 + 32 * fld link 0 20
      let w := v64 s ctx e
      let tid := fld (v64 s ctx (e + 8)) 0 20
      let s := sendWake ⟨fld (recWord s ctx tid 6) 0 16, ctx, tid⟩ (hwMsg (fld w 0 3 + 1) (fld w 3 53 * 8)) s
      wakeChain ctx n (v64 s ctx (e + 24)) s

def resumeChain (ctx : Nat) (s : State) : State :=
  let h := vaultHdr s ctx 1
  let link := v64 s ctx h
  if fld link 20 1 = 1 then s else vput64 ctx h (w64 (2 ^ 20)) (wakeChain ctx (thrMax s ctx) link s)

/-- A slot as it resumes (R131, R138, R407): merge floor now, park time shifted, the rest unchanged.
DEDUCED, unsafe: log entry 92. -/
def resumedSlot (s : State) (x : Slot) : Slot :=
  match x.occ with
  | .thread t => { x with occ := .thread { t with
      floor := s.time8, readyAt := s.cycle, issued := s.cycle - 8, parkT := s.time8 - t.parkT } }
  | _ => x

/-- Puts the saved state block back on the partition's cells. -/
def putBlocks (ctx : Nat) (s : State) : State :=
  let c := ctxAt s ctx
  let f := physicalSlot s ctx
  let s := (c.cells.zipIdx).foldl (fun s x =>
    let k := renameCell f (c.savedCells.get {} x.2)
    let o := cellAt s x.1
    let s := setCell s x.1 { o with eng := k.eng, banks := k.banks, mtabld := k.mtabld, rot := k.rot, copyRot := k.copyRot,
                                    assayer := k.assayer }
    (List.range 4).foldl (fun s i =>
      let core := 4 * x.1 + i
      let l := 4 * x.2 + i
      let k := renameCore f (c.savedCores.get {} l)
      let o := coreAt s core
      let s := setCore s core { o with
        part := k.part, roleq := k.roleq, senders := k.senders, qresv := k.qresv, qnext := k.qnext, qback := k.qback,
        qparked := k.qparked, banks := k.banks, sq := o.sq ++ k.sq, sqId := Nat.max o.sqId (k.sq.foldl (fun n e => Nat.max n (e.id + 1)) 0),
        tslots := k.tslots, fwd := k.fwd, arrivals := k.arrivals, copy := k.copy, colls := k.colls, hwait := k.hwait }
      (List.range 16).foldl (fun s j =>
        let y := resumedSlot s (c.savedSlots.get {} (16 * l + j))
        let o := slotAt s (16 * core + j)
        let s := setSlot s (16 * core + j) { o with occ := y.occ, latch := y.latch, mailbox := y.mailbox }
        match y.occ with
        | .thread t =>
          if recState s ctx t.tid = recResident ∨ recState s ctx t.tid = recMigrant then recSlot (16 * core + j) ctx t.tid s else s
        | _ => s) s) s) s
  let ws := c.savedWords.map (fun x =>
    let core := (physCore s ctx (x.1 / (spadSize / 8))).getD 0
    (spadPa core (x.1 % (spadSize / 8) * 8) / 8, { renameWord f x.2 with slice := core / 4 }))
  let s := ws.foldl (fun s x => setWord s x.1 x.2) s
  setCtx s ctx { ctxAt s ctx with savedCores := [], savedCells := [], savedSlots := [], savedWords := [] }

/-- Reservations of a context run on by the clock of R131, and their expiry is due again. -/
def resumeResv (ctx : Nat) (s : State) : State :=
  let gap := tick s - (ctxAt s ctx).stopAt / 8
  s.words.foldl (fun s x =>
    match x.2.resv with
    | some r =>
      if r.th.ctx = ctx then
        let since := Nat.min (tick s) (r.since + gap)
        post (.reservationExpiry x.1) (setWord s x.1 { x.2 with resv := some { r with since := since } })
      else s
    | none => s) s

/-- Threads parked with a latch set during the stop go on, in slot order (R414). -/
def resumeLatched (ctx : Nat) (s : State) : State :=
  (partCores s ctx).foldl (fun s core => (List.range 16).foldl (fun s i =>
    let p := 16 * core + i
    match threadAt s p, (slotAt s p).latch with
    | some t, some m =>
      (match t.form with
       | .parked _ => offerWake p t m (setSlot s p { slotAt s p with latch := none })
       | _ => s)
    | _, _ => s) s) s

/-- Where a physical slot of the partition a context was last saved from is now (R407). -/
def movedSlot (c : Ctx) (p : Nat) : Nat :=
  match c.lastCells.findIdx? (fun x => x == p / 64) with
  | some m => 64 * c.cells[m]?.getD 0 + p % 64
  | none => p

/-- Where the work a chiplet held for a context goes: to the chiplet of the first virtual cell that lay on it.
DEDUCED, unsafe: log entry 64. -/
def movedChip (c : Ctx) (chip : Nat) : Nat :=
  match c.lastCells.findIdx? (fun x => chipOfCell x == chip) with
  | some m => chipOfCell (c.cells[m]?.getD 0)
  | none => ((c.cells.map chipOfCell).head?).getD 0

/-- An event of a context that names a core or a chiplet of its partition and was not spilled, after a move. -/
def moveEvent (g chip : Nat → Nat) (ctx : Nat) (e : Event) : Event :=
  match e with
  | .handlerStart h => if h.ctx = ctx then .handlerStart { h with core := onCore g h.core } else e
  | .handlerStartTimeout h => if h.ctx = ctx then .handlerStartTimeout { h with core := onCore g h.core } else e
  | .taskNotifyArrival n va k => if n = ctx then .taskNotifyArrival n va (chip k) else e
  | .taskRead n r k => if n = ctx then .taskRead n r (chip k) else e
  | .taskMatch n r k => if n = ctx then .taskMatch n r (chip k) else e
  | .taskPlace n r k => if n = ctx then .taskPlace n r (chip k) else e
  | .taskDecrement n i k => if n = ctx then .taskDecrement n i (chip k) else e
  | _ => e

/-- Insertion by time stamp, after the entries that have it. -/
def insertBy {α : Type} (time : α → Nat) (x : α) : List α → List α
  | [] => [x]
  | y :: t => if time x < time y then x :: y :: t else y :: insertBy time x t

/-- What names the old partition outside the state block follows the context to its new cells: the cores its threads were last
resident on, its pools and task queues in the order of their time stamps, its events, its engines' tile writes. -/
def rehomeWork (ctx : Nat) (s : State) : State :=
  let c := ctxAt s ctx
  let g := movedSlot c
  let chip := movedChip c
  let pool := c.pool.foldl (fun (t : Tab (List PoolEnt)) x => x.2.foldl (fun t e =>
    let e := { e with core := onCore g e.core }
    let k := poolKey (chipOfCore e.core) (x.1 % 4)
    t.put [] k (insertBy PoolEnt.since e (t.get [] k))) t) []
  let taskq := c.taskq.foldl (fun (t : Tab (List TaskEnt)) x => x.2.foldl (fun t e =>
    let k := 16 * chip (x.1 / 16) + x.1 % 16
    t.put [] k (insertBy TaskEnt.since e (t.get [] k))) t) []
  let last := c.lastCore.foldl (fun (t : Tab Nat) x => t.put 0 x.1 (onCore g x.2)) []
  let s := setCtx s ctx { c with pool := pool, taskq := taskq, lastCore := last }
  let at_ (n : CmdName) : CmdName := { n with at_ := if n.array then onCell g n.at_ else onCore g n.at_ }
  let s := s.slices.foldl (fun s x =>
    if x.2.tiles.any (fun e => e.ctx == ctx && e.engine.isSome) then
      setSlice s x.1 { x.2 with tiles := x.2.tiles.map (fun e => if e.ctx = ctx then { e with engine := e.engine.map at_ } else e) }
    else s) s
  let go (e : Event) : Event := moveEvent g chip ctx e
  { s with agenda := s.agenda.map (fun f => { f with ev := go f.ev }), held := s.held.map (fun f => { f with ev := go f.ev }),
           timers := s.timers.map (fun t => (t.1, go t.2)) }

/-- The end of a restore or a first placement: issue begins (R407). -/
def goResident (ctx : Nat) (s : State) : State :=
  let c := ctxAt s ctx
  let s := setCtxSt ctx .resident (setCtx s ctx { c with gstep := 0 })
  let s := serveRing ctx ((ctxAt s ctx).evwait.length) s
  let s := (partCores s ctx).foldl (fun s core => (List.range 16).foldl (fun s i => resumePinned (16 * core + i) s) s) s
  ((c.cells.map chipOfCell).eraseDups).foldl (fun s chip => offerWork ctx chip s) s

/-- RESTORE_COMPLETE (R401, R405, R407, R408). -/
def execRestoreComplete (s : State) : Result :=
  match s.now with
  | some (.restoreComplete ctx) =>
    .next (
      let s := taken s
      let c := ctxAt s ctx
      let killed (s : State) : State := post (.killComplete ctx) (beginStop ctx .killing s)
      if c.st ≠ .restoring then s
      else if c.gstep = 20 then (if c.killPending then killed s else goResident ctx s)
      else
        match saveHole s ctx with
        | some va =>
          let s := if pageComing s va then askXlat (w64 va) (.launch ctx 4) s
            else if c.gstep = 12 then
              hostEvent { type := 9, ctx := ctx, reply := false, addr := w64 va, info := 0 } (setCtx s ctx { c with gstep := 14 })
            else s
          holdBack (.restoreComplete ctx) s
        | none =>
          if Config.checkCode (checkedBytes s ctx) ≠ ctxWord s ctx 0x100 then
            let s := vput64 ctx (vaultHdr s ctx 6) 1 (errorRec 9 1 ctx {} 0 0 0 s)
            killed s
          else
            let s := rehomeWork ctx (resumeResv ctx (putBlocks ctx (streamIn ctx s)))
            let f := physicalSlot s ctx
            let sp := (ctxAt s ctx).spilled.foldl (fun l x => insertBy Prod.snd x l) []
            let s := setCtx s ctx { ctxAt s ctx with spilled := [] }
            let back (x : Flight × Nat) : Flight :=
              let y := renameFlight f x.1
              { y with ev := moveEvent id (movedChip c) ctx y.ev }
            let s := { s with agenda := s.agenda ++ sp.map back }
            if c.killPending then killed s
            else
              let s := resumeChain ctx (deliverHeld ctx s)
              let s := vput64 ctx (vaultHdr s ctx 4) (w64 (tick s)) s
              let s := resumeLatched ctx (goResident ctx s)
              if c.gangHost then hostEvent { type := 5, ctx := ctx, reply := false, addr := 6, info := 0 } s else s)
  | _ => .fault (.noEvent "RESTORE_COMPLETE")

/-! ### Kill and free (R401, R409) -/

/-- The context a message belongs to. -/
def evCtx : Event → Option Nat
  | .postedArrive th _ _ => some th.ctx
  | .postedFail th _ _ => some th.ctx
  | .loadReply th _ _ _ _ => some th.ctx
  | .storeCheckReply th => some th.ctx
  | .homeRead r => some r.th.ctx
  | .redURequest th _ _ => some th.ctx
  | .fenceMarker th _ _ => some th.ctx
  | .fenceMarkerAnswer th _ => some th.ctx
  | .feRetry th => some th.ctx
  | .wakeAtSlot th _ => some th.ctx
  | .wakeAtRecord th _ => some th.ctx
  | .poolPickup ctx _ => some ctx
  | .promoteAging ctx _ => some ctx
  | .migrantArrival m => some m.ctx
  | .migrantAccepted m _ => some m.ctx
  | .migrantRefused m => some m.ctx
  | .forwardedValue _ th _ _ => some th.ctx
  | .mailboxMessage p => some p.dest.ctx
  | .sendReply th _ => some th.ctx
  | .sendgMemberReply th _ => some th.ctx
  | .tileDrop _ ctx _ => some ctx
  | .tileRecall _ ctx _ => some ctx
  | .tfwdTransfer th _ _ _ _ => some th.ctx
  | .barrierBytes _ _ ctx _ _ _ _ => some ctx
  | .taskNotifyArrival ctx _ _ => some ctx
  | .taskRead ctx _ _ => some ctx
  | .taskMatch ctx _ _ => some ctx
  | .taskPlace ctx _ _ => some ctx
  | .taskDecrement ctx _ _ => some ctx
  | .collAllJoined ctx _ => some ctx
  | .collChunkForward ctx _ _ _ => some ctx
  | .collChunkAck ctx _ _ _ _ => some ctx
  | .collMemberLost ctx _ _ => some ctx
  | .collRepairDone ctx _ => some ctx
  | .launchDoorbell ctx _ => some ctx
  | .launchChecksDone ctx => some ctx
  | .retire ctx => some ctx
  | .textFetch th _ => some th.ctx
  | .switchAnnounce ctx _ => some ctx
  | .switchStamp ctx => some ctx
  | .stopTimeout ctx _ => some ctx
  | .saveComplete ctx => some ctx
  | .restoreComplete ctx => some ctx
  | .killComplete ctx => some ctx
  | .handlerStart h => some h.ctx
  | .handlerStartTimeout h => some h.ctx
  | .eventRingWrite ctx _ => some ctx
  | _ => none

/-- Traffic, waiters and registrations of a context vanish; its reservations expire (R227, R409). A transfer goes on to its end
(R455). -/
def dropTraffic (ctx : Nat) (s : State) : State :=
  let ours (w : Waiter) : Bool := match w with
    | .sqe _ _ => false
    | w => waiterCtx s w == some ctx
  let mine (e : Event) : Bool := evCtx e == some ctx || (match e with
    | .translationMiss _ _ w => ours w
    | .retryWakeTimer _ _ w => ours w
    | .remoteAccess _ _ w => ours w
    | _ => false)
  let s := { s with agenda := s.agenda.filter (fun f => !mine f.ev), held := s.held.filter (fun f => !mine f.ev),
                    timers := s.timers.filter (fun t => !mine t.2) }
  let s := s.slices.foldl (fun s' x =>
    if x.2.coal.any (fun c => c.waiters.any ours) then
      setSlice s' x.1 { x.2 with coal := x.2.coal.map (fun c => { c with waiters := c.waiters.filter (fun w => !ours w) }) }
    else s') s
  s.words.foldl (fun s x =>
    let m := x.2
    if m.queue.any (fun q => q.th.ctx == ctx) || m.resv.any (fun r => r.th.ctx == ctx) || m.mons.any (fun y => y.th.ctx == ctx) then
      settle x.1 (setWord s x.1 { m with
        queue := m.queue.filter (fun q => q.th.ctx != ctx), resv := m.resv.filter (fun r => r.th.ctx != ctx),
        mons := m.mons.filter (fun y => y.th.ctx != ctx) })
    else s) s

/-- Every tile of a context is freed at once, its copies discarded (R409). -/
def dropTiles (ctx : Nat) (s : State) : State :=
  s.slices.foldl (fun s x => (x.2.tiles.filter (fun e => e.ctx == ctx)).foldl (fun s e => freeTile x.1 e s) s) s

/-- Pins, tickets and collectives of a context are given up (R369, R409, R455). -/
def dropWork (ctx : Nat) (s : State) : State :=
  let c := ctxAt s ctx
  let copies := (partCores s ctx).flatMap (fun k => (coreAt s k).copy.toList) ++ c.savedCores.flatMap (fun x => x.2.copy.toList)
  let pins := copies.flatMap (fun x => x.queue.flatMap (fun q => q.pins)) ++ c.colls.flatMap (fun x => x.pins)
  let s := pins.foldl (fun s a => unpin a s) s
  let s := tellPeers s ctx ((List.range 256).filter (fun g => (grpMembers s ctx g).isSome))
  let s := { s with host := { s.host with awaiting := s.host.awaiting.filter (fun x => x.2.ctx != ctx || x.2.type == 1) } }
  s.sqes.foldl (fun s q => q.2.ops.foldl (fun s o =>
    match o.2 with
    | some (.transfer x) =>
      if x.th.ctx ≠ ctx then s
      else match x.result with
        | some _ => endOp q.1 o.1 s
        | none => setOp q.1 o.1 (.transfer { x with waiters := [], orphan := true }) s
    | _ => s) s) s

/-- What a kill discards (R409): the context ends CREATED, its vault left for the host to read. -/
def discardCtx (ctx : Nat) (s : State) : State :=
  let s := dropWork ctx (dropTiles ctx (dropTraffic ctx s))
  let s := freeRecords ctx s
  let s := (heldWakes s ctx).foldl (fun s x => vput64 ctx (heldVa s ctx x.2.1 + 24) 0 s) s
  let h := vaultHdr s ctx 2
  let s := vput64 ctx (vaultHdr s ctx 1) (w64 (2 ^ 20)) (vput64 ctx h (setFld (v64 s ctx h) 0 32 0) s)
  let s := if (ctxAt s ctx).kernel.st = .none then s else endKernel ctx 14 s
  let c := ctxAt s ctx
  let s := storeEnergy ctx (clearCells c.cells s)
  let s := tablePut ctx 0xE8 8 0 s
  let s := putTidHead ctx (setCtx s ctx {
    cmds := c.cmds, trace := c.trace, rtobj := c.rtobj, parklim := c.parklim, promote := c.promote,
    feretry := c.feretry, migthr := c.migthr, tvec := c.tvec, kernel := { obj := c.kernel.obj }, kwait := c.kwait })
  setCtxSt ctx .created (retryKstat ctx s)

/-- KILL (R392, R401, R409, R424): of a host's command, which is answered, or of the device itself. -/
def execKill (s : State) : Result :=
  match s.now with
  | some (.kill ctx) =>
    .next (
      let s := taken s
      let c := ctxAt s ctx
      match c.st with
      | .free => answerCmd ctx 3 1 s
      | .created => answerCmd ctx 3 0 s
      | .killing => answerCmd ctx 3 0 s
      | .saved => discardCtx ctx (answerCmd ctx 3 0 s)
      | .stopping => setCtx (answerCmd ctx 3 0 s) ctx { ctxAt (answerCmd ctx 3 0 s) ctx with killPending := true }
      | .restoring =>
        let s := answerCmd ctx 3 0 s
        let k := ctxAt s ctx
        let s := setCtx s ctx { k with killPending := true }
        if k.gstep = 11 then after moveTime (.restoreComplete ctx) (setCtx s ctx { k with killPending := true, gstep := 12 }) else s
      | .resident =>
        let s := answerCmd ctx 3 0 s
        let k := c.kernel
        let s := match k.st with
          | .checking =>
            let ws := kstatWords .none 14 0 false 0 s
            putKstatOf ctx k.desc ws (setCtx s ctx { ctxAt s ctx with kernel := { k with st := .none } })
          | .running => setCtx s ctx { ctxAt s ctx with kernel := { k with st := .retiring, killed := true } }
          | _ => s
        post (.killComplete ctx) (beginStop ctx .killing s))
  | _ => .fault (.noEvent "KILL")

/-- KILL_COMPLETE (R409): the cores and engines steps of R403, then everything is discarded. -/
def execKillComplete (s : State) : Result :=
  match s.now with
  | some (.killComplete ctx) =>
    .next (
      let s := taken s
      let c := ctxAt s ctx
      if c.st ≠ .killing then s
      else if c.gstep = 2 ∨ c.gstep = 4 then
        let r := restStep ctx (c.gstep / 2) s
        holdBack (.killComplete ctx) (if r.1 then setCtx r.2 ctx { ctxAt r.2 ctx with gstep := c.gstep + 2 } else r.2)
      else discardCtx ctx s)
  | _ => .fault (.noEvent "KILL_COMPLETE")

/-- FREE (R401). -/
def execFree (s : State) : Result :=
  match s.now with
  | some (.free ctx) =>
    .next (
      let s := taken s
      let c := ctxAt s ctx
      match c.st with
      | .free => answerCmd ctx 4 0 s
      | .created | .saved =>
        let s := discardCtx ctx (answerCmd ctx 4 0 s)
        let c := ctxAt s ctx
        setCtxSt ctx .free (setCtx s ctx { cmds := c.cmds, trace := c.trace })
      | _ => answerCmd ctx 4 1 s)
  | _ => .fault (.noEvent "FREE")

end Sys2Proof.Machine
end

