-- ==== Sys2Proof/Machine/Issue.lean ====
section
/-!
DEFINITION. What the next step is: the message delivered, the thread that issues and the word its core fetches, or a
cycle (R127, R385; the order among agents is the model's own field sched, DESIGN CHOICE, safe: log entry 1).
-/
namespace Sys2Proof.Machine

/-- A slot whose thread is ready to issue now (R127). -/
def canIssue (s : State) (p : Nat) : Bool :=
  match threadAt s p with
  | some t => t.form == .ready && (ctxAt s t.ctx).st == .resident && decide (t.readyAt ≤ s.cycle) && decide (t.dbgStep ≠ 2)
  | none => false

/-- A slot whose instruction, in flight, starts its attempt again: it takes no turn (R127), and goes on in a stop, where no
thread issues a new instruction (R403). -/
def canRetry (s : State) (p : Nat) : Bool :=
  match threadAt s p with
  | some t =>
    let st := (ctxAt s t.ctx).st
    (t.form == .inFlight .retry || t.form == .inFlight .fence) && (st == .resident || st == .stopping || st == .killing) && decide (t.readyAt ≤ s.cycle) &&
      decide (t.dbgStep ≠ 2)
  | none => false

/-- The slot that issues on a core in this cycle: the owner of the turn, else the first ready slot after it (R127). -/
def issuer (s : State) (core : Nat) : Option Nat :=
  let n := (coreAt s core).part
  if (coreAt s core).lastIssue.any (fun c => decide (s.cycle ≤ c)) || (coreAt s core).fenced then none
  else ((List.range n).map (fun i => 16 * core + (s.cycle + i) % n)).find? (canIssue s)

/-- The slot that moves on a core in this cycle: an attempt that starts again, else the issuer. -/
def mover (s : State) (core : Nat) : Option Nat :=
  if (coreAt s core).fenced then none
  else match ((List.range (coreAt s core).part).map (fun i => 16 * core + i)).find? (canRetry s) with
    | some p => some p
    | none => issuer s core

/-- The cores with a slot in use, in order. -/
def coresInUse (s : State) : List Nat :=
  s.slots.foldl (fun l x => if x.1 / 16 ∈ l then l else l ++ [x.1 / 16]) []

/-- What the machine does next. -/
inductive Move where
  | event (e : Event) (s : State)
  | word (i : Instr) (s : State)
  | idle (s : State)
  deriving DecidableEq, Repr

/-- Takes a message off the agenda. One of the ordered class may not overtake an earlier one of its pair (R107). -/
def takeFlight (k : Nat) (s : State) : Option (Event × State) :=
  match s.agenda[k]? with
  | none => none
  | some f =>
    let k := if f.chan.isNone then k else s.agenda.findIdx (fun g => g.chan == f.chan)
    (s.agenda[k]?).map (fun f => (f.ev, { s with agenda := s.agenda.eraseIdx k, nowChan := f.chan }))

/-- The start of an issue: the core's turn is used, the thread is marked in its pass, and charged once (R127, R413). -/
def beginIssue (core p : Nat) (s : State) : State :=
  let s := { s with cur := p }
  match threadAt s p with
  | some t =>
    if t.form = .ready then
      charge t.ctx 40 (setThread (setCore s core { coreAt s core with lastIssue := some s.cycle }) p { t with issued := s.cycle })
    else s
  | none => s

/-- The issue of a slot: a fault it owes (R121), then the fetch, then the word (R48 steps 1 and 2). A miss in the instruction cache asks for the
line; the attempt starts again when it has come. -/
def issueSlot (core p : Nat) (s : State) : Move :=
  let s := beginIssue core p s
  let t := me s
  match t.owed, textWord s core t.pc (privOf t) with
  | some f, _ => .idle (raise f.cause f.info f.addr (mapMe (fun t => { t with owed := none }) s))
  | none, none => .idle (post (.textFetch (myThr s) t.pc) (waitRetry s))
  | none, some w =>
    match (if t.noCmp then none else cmpX s core t) with
    | some n => .idle (raise .brkpt (w64 (n + 1 + 2 * 2 ^ 8)) (t.pc.zeroExtend 64) s)
    | none =>
      match decode w with
      | .ok i => .word i s
      | .error _ => .event (.illinst w) s
where
  /-- The comparator that matches the fetch of an instruction (R474). -/
  cmpX (s : State) (core : Nat) (t : Thread) : Option Nat :=
    (((coreAt s core).cmps.toList.zipIdx).find? (fun x =>
      let c := x.1.2
      let ign := fld c 4 6
      fld c 0 1 == 1 && fld c 3 1 == 1 && (fld c 22 1 == 1 || fld c 10 12 == t.ctx) &&
      decide (t.pc.toNat / 2 ^ ign ≤ fld x.1.1 0 56 / 2 ^ ign) &&
      decide (fld x.1.1 0 56 / 2 ^ ign ≤ (t.pc.toNat + 3) / 2 ^ ign))).map (fun x => x.2)

/-- A core whose slots have something to do in this cycle. -/
def busyCore (s : State) : Option Nat := (coresInUse s).find? (fun c => (mover s c).isSome)

/-- A core's move. -/
def coreMove (c : Nat) (s : State) : Move :=
  match mover s c with
  | some p => issueSlot c p s
  | none => .idle s

/-- One agent's move. No cycle passes while a slot can issue in it (R127, R128). -/
def moveOf (p : Pick) (s : State) : Move :=
  match p with
  | .deliver k =>
    match takeFlight k s with
    | some (e, s) => .event e s
    | none => .idle s
  | .core c => coreMove c s
  | .tick =>
    match busyCore s with
    | some c => coreMove c s
    | none => .event .cycle s

/-- The order where sched lists nothing: messages first, then issues, then a cycle. -/
def defaultPick (s : State) : Pick :=
  if s.agenda.isEmpty then
    match busyCore s with
    | some c => .core c
    | none => .tick
  else .deliver 0

/-- The next pick and the state without it. -/
def nextPick (s : State) : Pick × State :=
  match s.sched with
  | p :: rest => (p, { s with sched := rest })
  | [] => (defaultPick s, s)

/-- What the machine does next. -/
def nextMove (s : State) : Move := moveOf (nextPick s).1 (nextPick s).2

/-! ### Placing a word where the next fetch finds it -/

/-- Puts a word at a slot's PC into its core's instruction line. -/
def putText (p : Nat) (w : BitVec 32) (s : State) : State :=
  match threadAt s p with
  | none => s
  | some t =>
    let c := coreAt s (p / 16)
    let key := itextKey t.pc (privOf t)
    let line := (c.itext.get [] key ++ List.replicate 8 0).take 8
    setCore s (p / 16) { c with itext := c.itext.put [] key (line.set (t.pc.toNat / 4 % 8) w) }

/-- A thread on core 0, slot 0, of context 0 at machine level with PC 0, as a loader outside the machine leaves it. -/
def loadThread (s : State) : State :=
  let s := setCtx s 0 { ctxAt s 0 with st := .resident, cells := [0] }
  let s := setCore s 0 { coreAt s 0 with owner := some (0, 0), lastIssue := none, fenced := false }
  setThread s 0 { tid := 0, ctx := 0, pc := 0, status := 3, readyAt := s.cycle }

/-- The slot whose issue is the machine's next move, if it is one. -/
def nextIssuer (s : State) : Option Nat :=
  match (nextPick s).1 with
  | .core c => mover (nextPick s).2 c
  | .tick => (busyCore (nextPick s).2).bind (mover (nextPick s).2)
  | _ => none

/-- The machine with a word placed where the next step fetches it. -/
def placeWord (w : BitVec 32) (s : State) : State :=
  match nextIssuer s with
  | some p => putText p w s
  | none =>
    match (coresInUse s).findSome? (mover s) with
    | some p => putText p w { s with sched := .core (p / 16) :: s.sched }
    | none => putText 0 w { loadThread s with sched := .core 0 :: s.sched }

end Sys2Proof.Machine
end

