-- ==== Sys2Proof/Machine/Link.lean ====
section
/-!
DEFINITION. Links (20): their states and fences, the host's accesses to memory, its registers, event ring and command
ring, and the accesses of peer devices. Every meaning here is an event from outside the chip or of its own controllers.
-/
namespace Sys2Proof.Machine

/-! ### Link numbers and states (R456 to R458, R461) -/

/-- The numbers that name a link. -/
def linkExists (l : Nat) : Bool := decide (l ≤ 26) || (decide (32 ≤ l) && decide (l < 288))

/-- Lanes of full width. -/
def fullWidth (l : Nat) : Nat := if l = 0 then 16 else if l ≤ 26 then 4 else 16
/-- Lanes there are: a link between dies has two spares. -/
def lanesOf (l : Nat) : Nat := if l < 32 then fullWidth l else 18
/-- The greatest width of at most n lanes that a link can train to (R457): x16, x8 and x4 of the host's port, x4, x2 and x1 of a drive's,
16 or 8 data lanes between dies, any two or more of a Span port (PRESUMED, unsafe: log entry 113); 0 where there is none. -/
def widthOf (l n : Nat) : Nat :=
  let ws := if l = 0 then [16, 8, 4] else if l ≤ 8 then [4, 2, 1] else if l ≤ 26 then [4, 3, 2] else [16, 8]
  (ws.find? (fun w => decide (w ≤ n))).getD 0

/-- The least width a link works at (R457). -/
def minWidth (l : Nat) : Nat := if l = 0 then 4 else if l ≤ 8 then 1 else if l ≤ 26 then 2 else 8

def LinkState.code : LinkState → Nat
  | .down => 0 | .training => 1 | .up => 2 | .degraded => 3 | .fenced => 4

/-- LINKSTAT of a link (R461). -/
def linkStat (k : Link) : Word :=
  w64 (k.st.code + k.active % 32 * 2 ^ 3 + Nat.min k.failed 255 * 2 ^ 8 + Nat.min k.replays (2 ^ 32 - 1) * 2 ^ 16)

/-- A link changes state: its status records it and a LINK event tells the host (R457, R463). -/
def moveLink (l : Nat) (k : Link) (s : State) : State :=
  let s' := setLink s l k
  if (linkAt s l).st = k.st then s'
  else hostEvent { type := 11, ctx := 0, reply := false, addr := w64 l, info := linkStat k } s'

/-- The time limit of a training: 100 ms in 1/8 ns. -/
def trainTime : Nat := 800000000

/-- A link starts training. -/
def trainLink (l : Nat) (s : State) : State :=
  after trainTime (.linkTrainingTimeout l) (moveLink l { linkAt s l with st := .training, active := 0 } s)

/-- The time limit of a training that has ended no longer runs. -/
def endTraining (l : Nat) (s : State) : State :=
  { s with timers := s.timers.filter (fun t => t.2 != .linkTrainingTimeout l) }

/-! ### Fences (R459) -/

/-- The host's copies count as dropped, unmodified, and its back-invalidations as answered. -/
def dropHostCopies (s : State) : State :=
  s.dir.foldl (fun s d => if d.2.host then
    setDir s d.1 { dirAt s d.1 with host := false, snooped := false, reading := false, shown := false, above := [] } else s) s

/-- Commands of a drive end with status 3; faults on it are told to the host (R446, R459). -/
def cutDrive (drive : Nat) (s : State) : State :=
  s.sqes.foldl (fun s q => q.2.ops.foldl (fun s o =>
    match o.2 with
    | some (.fill va frame _) =>
      (match keptLeaf s q.1 va with
       | some (leaf, _) => if frame ≠ 0 ∧ pteDrive leaf = drive then post (.pageFillComplete q.1 (w64 va) noStatus []) s else s
       | none => s)
    | some (.evict va _ _ _ entry true) =>
      if fld (cur64 s (entry + 24)) 40 3 = drive then post (.evictionWritebackDone q.1 (w64 va) noStatus) s else s
    | some (.transfer x) =>
      if x.sent ∧ x.ended = false ∧ x.result = none ∧ x.drive = drive then post (.stoTransferComplete q.1 o.1 3 []) s else s
    | _ => s) s) s

/-- The copies of peer devices that no port reaches count as dropped, and invalidations sent to them as answered (R459; DEDUCED, unsafe:
log entry 106). -/
def dropPeerCopies (s : State) : State :=
  let gone (u : Nat) : Bool := isPeerUnit u && peerGone s (u - 8192)
  s.dir.foldl (fun s d =>
    if d.2.sharers.any gone || d.2.invs.any (fun i => gone i.core) then
      setDir s d.1 { dirAt s d.1 with sharers := d.2.sharers.filter (fun u => !gone u), invs := d.2.invs.filter (fun i => !gone i.core) }
    else s) s

/-- Members that a collective has lost are reported to it (R369). -/
def tellLost (s : State) : State :=
  s.ctxs.foldl (fun s x => x.2.colls.foldl (fun s c =>
    postAll (((lostMembers s x.1 c.group).filter (fun i => !(i ∈ c.lost))).map (fun i => .collMemberLost x.1 c.group i)) s) s) s

/-- A Span port is cut: the ordered messages it carried fail, and peers that no port reaches are lost (R459, R469). -/
def cutSpan (before : State) (port : Nat) (s : State) : State :=
  let hit (f : Flight) : Bool :=
    match f.ev with
    | .remoteAccess _ _ w => (match w with
      | .ldp _ _ => false
      | _ => (remoteDev before w).any (fun d => (peerPorts before d).head? == some port))
    | _ => false
  let bad := s.agenda.filter hit
  let s := { s with agenda := s.agenda.filter (fun f => !hit f) }
  let s := bad.foldl (fun s f => match f.ev with
    | .remoteAccess _ _ w => failRemote w .fenced s
    | _ => s) s
  tellLost (dropPeerCopies s)

/-- A link is FENCED, with what that means for the traffic through it. Messages between dies whose route it cuts come back
when they are delivered (routeFenced). -/
def fenceLink (l : Nat) (s : State) : State :=
  if (linkAt s l).st = .fenced then s
  else
    let s' := moveLink l { linkAt s l with st := .fenced } (endTraining l s)
    if l = 0 then dropHostCopies s'
    else if l ≤ 8 then cutDrive (l - 1) s'
    else if l ≤ 26 then cutSpan s (l - 9) s'
    else s'

/-- Where an error record places a link (R482). -/
def linkLoc (l : Nat) : ErrLoc := { w2 := w64 (l * 2 ^ 32), valid := 4 }

/-- The lanes of a link that are not retired. -/
def goodLanes (l : Nat) (k : Link) : List Nat :=
  (List.range (lanesOf l)).filter (fun n => !(k.lanes.get {} n).retired)

/-- LINK_TRAINING_DONE (R457, R466): the width that training reached on the lanes left; a Span port that finds its own device's
identifier at the other end has failed. -/
def execLinkTrainingDone (s : State) : Result :=
  match s.now with
  | some (.linkTrainingDone l lanes peer) =>
    .next (
      let s := taken s
      let k := linkAt s l
      if k.st ≠ .training then s
      else
        let s := endTraining l s
        let n := widthOf l (Nat.min lanes (goodLanes l k).length)
        if n < minWidth l ∨ (9 ≤ l ∧ l ≤ 26 ∧ peer = fld s.host.devid 0 9) then moveLink l { k with st := .down, active := 0, failed := k.failed + 1 } s
        else
          let s := moveLink l { k with st := if n < fullWidth l then .degraded else .up, active := n, flit := none } s
          if l = 0 ∧ s.host.waiting ≠ [] then post .hostEventPost s else s)
  | _ => .fault (.noEvent "LINK_TRAINING_DONE")

/-- LINK_TRAINING_TIMEOUT (R457): a failed training is counted. -/
def execLinkTrainingTimeout (s : State) : Result :=
  match s.now with
  | some (.linkTrainingTimeout l) =>
    .next (
      let s := taken s
      let k := linkAt s l
      if k.st ≠ .training then s
      else moveLink l { k with st := .down, active := 0, failed := k.failed + 1 } (endTraining l s))
  | _ => .fault (.noEvent "LINK_TRAINING_TIMEOUT")

/-- The width of a link once a lane is retired (R457, R458): a link between dies takes a spare while it has one; another link trains
again on fewer lanes where the lane is one it uses, its first good ones (DEDUCED, unsafe: log entry 22). -/
def widthLeft (l lane : Nat) (k after : Link) : Nat :=
  if 32 ≤ l then Nat.min (widthOf l (goodLanes l after).length) k.active
  else if lane ∈ (goodLanes l k).take k.active then widthOf l (k.active - 1)
  else k.active

/-- LANE_RETIRE (R457, R458, R468): the symbols corrected in a window are counted, and a lane with more than LANELIM of them, or
without lock, is retired, and its link narrows. -/
def execLaneRetire (s : State) : Result :=
  match s.now with
  | some (.laneRetire l lane window) =>
    .next (
      let s := taken s
      let k := linkAt s l
      if lanesOf l ≤ lane ∨ k.st = .down then s
      else
        let x := k.lanes.get {} lane
        let lost := window.all (fun n => decide (s.lanelim < n))
        let k' := { k with lanes := k.lanes.put {} lane
                             { x with corrected := x.corrected + window.getD 0, retired := x.retired || lost } }
        let n := widthLeft l lane k k'
        if lost = false ∨ k.st = .training ∨ k.st = .fenced then setLink s l k'
        else if n < minWidth l then fenceLink l (setLink s l k')
        else moveLink l { k' with st := if n < fullWidth l then .degraded else k.st, active := n } s)
  | _ => .fault (.noEvent "LANE_RETIRE")

/-- A link has failed past correction (R457, R458, R482). -/
def linkFails (l : Nat) (s : State) : State :=
  if (linkAt s l).st = .up ∨ (linkAt s l).st = .degraded then
    fenceLink l (errorRec 5 2 0xFFF (linkLoc l) (w64 l) 0 0 s)
  else s

/-- What a link knows of a flit once it has failed again: the seventh failure is followed by its eighth send (R458). -/
def flitAgain (s : State) (k : Link) (seq : Nat) : FlitTry :=
  match k.flit with
  | some f => if f.seq = seq then ⟨seq, f.failures + 1, if f.failures + 1 = 7 then s.time8 else f.eighth⟩ else ⟨seq, 1, 0⟩
  | none => ⟨seq, 1, 0⟩

/-- FLIT_REPLAY (R458): the replay is counted, and the failed CRC at a lane of the link (DEDUCED, unsafe: log entry 22); the ninth
failure of a flit in a row is that of its eighth replay. -/
def execFlitReplay (s : State) : Result :=
  match s.now with
  | some (.flitReplay l seq) =>
    .next (
      let s := taken s
      let k := linkAt s l
      let f := flitAgain s k seq
      let lane := Config.freeChoice (lanesOf l) s.fresh % lanesOf l
      let x := k.lanes.get {} lane
      let s := nextFresh (setLink s l { k with replays := k.replays + 1, flit := some f,
                                               lanes := k.lanes.put {} lane { x with bad := x.bad + 1 } })
      if f.failures = 9 then post (.flitUncorrectable l) s else s)
  | _ => .fault (.noEvent "FLIT_REPLAY")

/-- A flit of a link has failed eight replays, or 2 µs have passed since its eighth send (R458). -/
def flitStuck (s : State) (k : Link) : Bool :=
  k.flit.any (fun f => decide (9 ≤ f.failures) || (decide (7 ≤ f.failures) && decide (f.eighth + 16000 ≤ s.time8)))

/-- FLIT_UNCORRECTABLE (R457, R458, R482): of a flit that has failed so often, or has waited so long. -/
def execFlitUncorrectable (s : State) : Result :=
  match s.now with
  | some (.flitUncorrectable l) => .next (if flitStuck s (linkAt s l) then linkFails l (taken s) else taken s)
  | _ => .fault (.noEvent "FLIT_UNCORRECTABLE")

/-- LANE_MARGIN_MEASURE (R468): the margins of a lane while its link works, 0 otherwise. -/
def execLaneMarginMeasure (s : State) : Result :=
  match s.now with
  | some (.laneMarginMeasure l lane width height) =>
    .next (
      let s := taken s
      let k := linkAt s l
      if lanesOf l ≤ lane then s
      else
        let x := k.lanes.get {} lane
        let x := if k.st = .up ∨ k.st = .degraded then { x with width := width % 65536, height := height % 65536 }
          else { x with width := 0, height := 0 }
        setLink s l { k with lanes := k.lanes.put {} lane x })
  | _ => .fault (.noEvent "LANE_MARGIN_MEASURE")

/-- LANE_COUNTER_CLEAR (R468). -/
def execLaneCounterClear (s : State) : Result :=
  match s.now with
  | some (.laneCounterClear l lane) =>
    .next (
      let s := taken s
      let k := linkAt s l
      setLink s l { k with lanes := k.lanes.put {} lane { k.lanes.get {} lane with corrected := 0, bad := 0 } })
  | _ => .fault (.noEvent "LANE_COUNTER_CLEAR")

/-! ### Host events (R463) -/

/-- The unit at which an event waits for room in the ring (R463): the storage queue engine of a page or of a frame's colour, the slice
of a page, a context's tellers, engines and controller, a cell, a link (DEDUCED, unsafe: log entry 105). -/
def eventUnit (e : HostEvent) : Nat × Nat :=
  match e.type with
  | 1 => (1, pageChip e.addr.toNat)
  | 2 => (2, sliceOfVa e.addr.toNat)
  | 3 => (3, e.ctx)
  | 4 => (4, e.ctx)
  | 6 => (6, e.addr.toNat)
  | 7 => (2, sliceOfVa e.addr.toNat)
  | 8 => (1, chipOfCell (e.info.toNat / 4))
  | 11 => (11, e.addr.toNat)
  | _ => (5, e.ctx)

/-- The places in a list of waiting events of the oldest event of each unit. -/
def eventHeads (l : List HostEvent) : List Nat :=
  (List.range l.length).filter (fun i => match l[i]? with
    | some e => !(l.take i).any (fun x => eventUnit x == eventUnit e)
    | none => false)

/-- The 32 bytes of an event (R463). -/
def eventBytes (seq time : Nat) (e : HostEvent) : List Byte :=
  leBytes 8 (e.type % 256 + e.ctx % 4096 * 2 ^ 8 + b2n e.reply * 2 ^ 20 + seq % 2 ^ 32 * 2 ^ 32) ++ leBytes 8 e.addr.toNat ++
    leBytes 8 e.info.toNat ++ leBytes 8 time

/-- Writes the waiting event at a place of the list into the ring. -/
def putEvent (i : Nat) (e : HostEvent) (s : State) : State :=
  let h := s.host
  let size := 2 ^ fld h.evring 0 5
  let rest := h.waiting.eraseIdx i
  let empty : Bool := h.evtail.toNat % size == h.evhead.toNat % size
  let out := [Out.event (fld h.evring 12 40 * 4096 + 32 * (h.evtail.toNat % size)) (eventBytes h.seq (tick s) e)] ++
    (if empty then [Out.msix] else [])
  let s := { s with
    host := { h with
      waiting := rest, evtail := w64 ((h.evtail.toNat + 1) % size), seq := (h.seq + 1) % 2 ^ 32,
      awaiting := if e.reply then h.awaiting ++ [(h.seq, e)] else h.awaiting },
    out := s.out ++ out }
  if rest ≠ [] ∧ !s.agenda.any (fun f => f.ev == .hostEventPost) then post .hostEventPost s else s

/-- HOST_EVENT_POST (R459, R463): while the ring has room and the host's port works, the oldest event of a unit is written, of
whichever unit. -/
def execHostEventPost (s : State) : Result :=
  match s.now with
  | some .hostEventPost =>
    .next (
      let s := taken s
      let h := s.host
      let log := fld h.evring 0 5
      if log < 4 ∨ 16 < log ∨ !((linkAt s 0).st = .up ∨ (linkAt s 0).st = .degraded) ∨
          (h.evtail.toNat + 1) % 2 ^ log = h.evhead.toNat % 2 ^ log then s
      else
        let put (i : Nat) (s : State) : State := match h.waiting[i]? with
          | some e => putEvent i e s
          | none => s
        match eventHeads h.waiting with
        | [] => s
        | [i] => put i s
        | l => put (l.getD (Config.freeChoice l.length s.fresh % l.length) 0) (nextFresh s))
  | _ => .fault (.noEvent "HOST_EVENT_POST")

/-! ### The command ring (R464) -/

/-- The entry the command processor looks at next. -/
def cmdEntry (s : State) : Nat :=
  fld s.host.cmdring 12 27 * 4096 + 32 * (s.host.cmdnext % 2 ^ fld s.host.cmdring 0 5)

/-- A command the processor has taken and not finished. -/
def isCmd : Event → Bool
  | .addCommand _ _ _ => true
  | .invalCommand _ _ _ => true
  | .replyCommand _ _ _ => true
  | .gangstepCommand _ _ _ => true
  | .linkcmdEnable _ _ => true
  | .linkcmdFence _ _ => true
  | .linkcmdDown _ _ => true
  | _ => false

/-- The processor is free, and its ring is set up. -/
def cmdReady (s : State) : Bool :=
  s.booted && decide (4 ≤ fld s.host.cmdring 0 5) && decide (fld s.host.cmdring 0 5 ≤ 12) &&
  !(s.agenda ++ s.held).any (fun f => isCmd f.ev)

/-- The command an entry holds; none where it is malformed. -/
def cmdOf (s : State) (e : Nat) : Option Event :=
  let w0 := cur64 s e
  let a0 := cur64 s (e + 8)
  let a1 := cur64 s (e + 16)
  if fld w0 9 11 ≠ 0 ∨ fld w0 32 32 ≠ 0 then none
  else
    match fld w0 0 8 with
    | 1 => some (.addCommand e a0.toNat a1.toNat)
    | 2 => some (.invalCommand e a0 a1.toNat)
    | 3 => some (.replyCommand e a0.toNat a1)
    | 4 => if a1 ≠ 0 then none else some (.gangstepCommand e (fld w0 20 12) a0.toNat)
    | 5 =>
      if !linkExists a0.toNat then none
      else match a1.toNat with
        | 0 => some (.linkcmdEnable e a0.toNat)
        | 1 => some (.linkcmdFence e a0.toNat)
        | 2 => some (.linkcmdDown e a0.toNat)
        | _ => none
    | _ => none

/-- An entry is answered: doubleword 3 with DONE, VALID cleared, the next entry. -/
def closeCmd (e status : Nat) (s : State) : State :=
  let s := devWrite (cellsAt (e + 24) (leBytes 8 (status + 256))) s
  let s := devWrite (cellsAt e (leBytes 8 (setFld (cur64 s e) 8 1 0).toNat)) s
  { s with host := { s.host with cmdnext := (s.host.cmdnext + 1) % 2 ^ fld s.host.cmdring 0 5 } }

/-- Takes the entries in ring order up to one that is a command; malformed ones get status 1. -/
def serveFrom : Nat → State → State
  | 0, s => s
  | fuel + 1, s =>
    if cmdReady s && fld (cur64 s (cmdEntry s)) 8 1 == 1 then
      match cmdOf s (cmdEntry s) with
      | some ev => post ev s
      | none => serveFrom fuel (closeCmd (cmdEntry s) 1 s)
    else s

def serveCommands (s : State) : State := serveFrom 4096 s

/-- A command ends, and the next is looked at. -/
def finishCmd (e status : Nat) (s : State) : State := serveCommands (closeCmd e status s)

/-- ADD_COMMAND (R443): frames the host has written become part of a colour's stack. -/
def execAddCommand (s : State) : Result :=
  match s.now with
  | some (.addCommand e colour n) =>
    .next (
      let s := taken s
      if 3072 ≤ colour ∨ stackCap s colour < stackCount s colour + n then finishCmd e 1 s
      else finishCmd e 0 (setCount colour (stackCount s colour + n) s))
  | _ => .fault (.noEvent "ADD_COMMAND")

/-- INVAL_COMMAND (R464): broadcast as xlat.inv does, done once every slice has completed it. Bit 64 of the control
says that the broadcast has been sent. -/
def execInvalCommand (s : State) : Result :=
  match s.now with
  | some (.invalCommand e va ctl) =>
    .next (
      let s := taken s
      let sent := 2 ^ 64
      if sent ≤ ctl then
        if (s.agenda ++ s.held).any (fun f => match f.ev with
            | .xlatInvAtSlice _ _ _ none => true
            | _ => false)
        then holdBack (.invalCommand e va ctl) s
        else finishCmd e 0 s
      else
        let r := invRange va ctl
        if 8 ≤ ctl ∨ (bits ctl 2 1 = 0 ∧ va.toNat % (r.2 - r.1) ≠ 0) then finishCmd e 1 s
        else
          holdBack (.invalCommand e va (ctl + sent))
            (postAll ((List.range 768).map (fun n => .xlatInvAtSlice n va ctl none)) s))
  | _ => .fault (.noEvent "INVAL_COMMAND")

/-- REPLY_COMMAND (R464): an event that awaits no reply gets status 2. DEDUCED, unsafe: log entry 34. -/
def execReplyCommand (s : State) : Result :=
  match s.now with
  | some (.replyCommand e seq value) =>
    .next (
      let s := taken s
      match s.host.awaiting.find? (fun x => x.1 == seq) with
      | none => finishCmd e 2 s
      | some x =>
        let done (s : State) : State := { s with host := { s.host with awaiting := s.host.awaiting.erase x } }
        match x.2.type with
        | 1 => if value ≠ 1 then finishCmd e 1 s else finishCmd e 0 (replyFault x.2.addr.toNat 1 (done s))
        | 3 =>
          if 2 ^ 32 ≤ value.toNat then finishCmd e 1 s
          else finishCmd e 0 (answerNoMethod x.2.ctx x.2.addr value.toNat (done s))
        | _ =>
          if 2 ≤ value.toNat then finishCmd e 1 s
          else if (ctxAt s x.2.ctx).colls.any (fun c => c.group == x.2.addr.toNat && c.held) then
            finishCmd e 0 (replyColl x.2.ctx x.2.addr.toNat value.toNat (done s))
          else finishCmd e 2 (done s))
  | _ => .fault (.noEvent "REPLY_COMMAND")

/-- GANGSTEP_COMMAND (R402, R464): the step the switch waits for begins. -/
def execGangstepCommand (s : State) : Result :=
  match s.now with
  | some (.gangstepCommand e ctx n) =>
    .next (
      let s := taken s
      let c := ctxAt s ctx
      if n = 0 ∨ 6 < n then finishCmd e 1 s
      else if c.st = .stopping ∧ n ≤ 5 ∧ c.gstep = 2 * n - 1 then
        finishCmd e 0 (setCtx s ctx { c with gstep := 2 * n })
      else if c.st = .restoring ∧ n = 6 ∧ c.gstep = 11 then
        finishCmd e 0 (after moveTime (.restoreComplete ctx) (setCtx s ctx { c with gstep := 12 }))
      else finishCmd e 2 s)
  | _ => .fault (.noEvent "GANGSTEP_COMMAND")

/-- LINKCMD_ENABLE (R457): only a link that is DOWN starts training. -/
def execLinkcmdEnable (s : State) : Result :=
  match s.now with
  | some (.linkcmdEnable e l) =>
    .next (
      let s := taken s
      finishCmd e 0 (if (linkAt s l).st = .down then trainLink l s else s))
  | _ => .fault (.noEvent "LINKCMD_ENABLE")

/-- LINKCMD_FENCE (R457). -/
def execLinkcmdFence (s : State) : Result :=
  match s.now with
  | some (.linkcmdFence e l) => .next (finishCmd e 0 (fenceLink l (taken s)))
  | _ => .fault (.noEvent "LINKCMD_FENCE")

/-- LINKCMD_DOWN (R457). -/
def execLinkcmdDown (s : State) : Result :=
  match s.now with
  | some (.linkcmdDown e l) =>
    .next (
      let s := taken s
      finishCmd e 0 (if (linkAt s l).st = .down then s
        else
          let s := moveLink l { linkAt s l with st := .down, active := 0 } (endTraining l s)
          if l = 0 then dropHostCopies s else s))
  | _ => .fault (.noEvent "LINKCMD_DOWN")

/-! ### The host's accesses (R213, R459, R460, R462) -/

/-- The two device lines of the 64-byte host line that holds a byte (R260). -/
def hostLines (pa : Nat) : List Nat := [pa / 64 * 2, pa / 64 * 2 + 1]

/-- Both lines are ready for the host's own access. -/
def hostPrep (pa : Nat) (s : State) : Bool × State :=
  (hostLines pa).foldl (fun r l =>
    let q := prepLine (sliceOfPa pa) l none .host r.2
    (r.1 && q.1, q.2)) (true, s)

/-- The host's request is answered with poison (R459, R483). -/
def hostRefused (s : State) (pa : Nat) : Bool :=
  (linkAt s 0).st == .fenced || decide (dramTop ≤ pa) || homeFenced s (sliceOfPa pa)

/-- Ordered traffic from an I/O chiplet to a slice comes back where its route is cut (R107, R459). -/
def ioCut (s : State) (chiplet home : Nat) : Bool := routeFenced s (ioUnit chiplet) (homeUnit home)

/-- The directory records the host's copy of a host line. -/
def setHostCopy (pa : Nat) (s : State) : State :=
  (hostLines pa).foldl (fun s l => setDir s l { dirAt s l with host := true, snooped := false, reading := false, shown := false }) s

/-- The directory forgets the host's copy of a host line, and what stood over it. -/
def clearHostCopy (pa : Nat) (s : State) : State :=
  (hostLines pa).foldl (fun s l =>
    setDir s l { dirAt s l with host := false, snooped := false, reading := false, shown := false, above := [] }) s

/-- The host has answered a back-invalidation that asked for its data only: the line stays in HS (R213). -/
def showHostCopy (pa : Nat) (s : State) : State :=
  (hostLines pa).foldl (fun s l =>
    if (dirAt s l).host then setDir s l { dirAt s l with snooped := false, reading := false, shown := true, above := [] } else s) s

/-- HOST_READ (R213): both lines of the host line go to the host. -/
def execHostRead (s : State) : Result :=
  match s.now with
  | some (.hostRead pa) =>
    .next (
      let s := taken s
      let at_ := pa / 64 * 64
      if hostRefused s pa then { s with out := s.out ++ [.hostPoison at_] }
      else
        let r := hostPrep pa s
        if r.1 = false then holdBack (.hostRead pa) r.2
        else if (List.range 8).any (fun i => at_ / 8 + i ∈ r.2.poison) then
          { r.2 with out := r.2.out ++ [.hostPoison at_] }
        else
          let s := setHostCopy pa r.2
          { s with out := s.out ++ [.hostData at_ (rdBytes s at_ 64)] })
  | _ => .fault (.noEvent "HOST_READ")

/-- What the device does on a host write to its own tables: a launch (R462), a switch (R402), a command of a context
(R400), the command ring (R464). -/
def hostActs (pa len : Nat) (s : State) : State :=
  if !s.booted then s
  else
    let line := pa / 64 * 64
    let covers (a n : Nat) : Bool := decide (pa ≤ a) && decide (a + n ≤ pa + len)
    let touches (a n : Nat) : Bool := decide (pa < a + n) && decide (a < pa + len)
    let mbox := s.host.mboxbase.toNat
    let tab := s.host.ctxtab.toNat
    let s :=
      if mbox ≤ line ∧ line < mbox + 64 * 4096 then
        let n := (line - mbox) / 64
        let v := cur64 s (mbox + 64 * n)
        if covers (mbox + 64 * n) 8 && v != 0 then { s with agenda := s.agenda ++ [⟨.launchDoorbell n v, some (mailChan n)⟩] } else s
      else s
    let s :=
      if tab ≤ line ∧ line < tab + 1024 * 4096 then
        let n := (line - tab) / 1024
        let s := if touches (ctxField s n 0xE8) 8 then post (.switchAnnounce n (ctxWord s n 0xE8)) s else s
        let code := fld (ctxWord s n 0xF8) 0 4
        if covers (ctxField s n 0xF8) 1 && code != 0 then
          let s := setCtx s n { ctxAt s n with cmds := (ctxAt s n).cmds ++ [code] }
          post (match code with
            | 1 => .create n
            | 2 => .place n
            | 3 => .kill n
            | 4 => .free n
            | _ => .commandIllegalCode n) s
        else s
      else s
    if touches (cmdEntry s) 8 then serveCommands s else s

/-- HOST_WRITE (R213): a write inside one host line, FE bits unchanged and monitors woken (R460). -/
def execHostWrite (s : State) : Result :=
  match s.now with
  | some (.hostWrite pa data) =>
    .next (
      let s := taken s
      let bytes := data.take (64 - pa % 64)
      if hostRefused s pa ∨ ioCut s (ioOfLink 0) (sliceOfPa pa) then { s with out := s.out ++ [.hostPoison (pa / 64 * 64)] }
      else if bytes = [] then s
      else
        let r := hostPrep pa s
        if r.1 = false then holdBack (.hostWrite pa data) r.2
        else
          let s := performWrite (cellsAt pa bytes) none none r.2
          hostActs pa bytes.length (setHostCopy pa s))
  | _ => .fault (.noEvent "HOST_WRITE")

/-- The host's copy of a host line is gone, or, where keep is set, shown; modified data is written first, as a host write (R213),
under what the device has written since it asked. -/
def endHostCopy (hostLine : Nat) (data : Option (List Byte)) (keep : Bool) (s : State) : State :=
  let pa := hostLine * 64
  if (hostLines pa).any (fun l => (dirAt s l).host) then
    let later := (hostLines pa).flatMap (fun l => (dirAt s l).above)
    let s := if keep then showHostCopy pa s else clearHostCopy pa s
    match data with
    | none => s
    | some bs =>
      let cs := (cellsAt pa (exactly 64 bs)).filter (fun c => later.all (fun o => o.1 != c.1))
      hostActs pa 64 (performWrite cs none none s)
  else s

/-- BACK_INVALIDATION_RESPONSE (R213): the host's answer, which leaves it a copy where the home asked for a read.
DEDUCED, unsafe: log entry 23. -/
def execBackInvalidationResponse (s : State) : Result :=
  match s.now with
  | some (.backInvalidationResponse hostLine data) =>
    .next (endHostCopy hostLine data ((hostLines (hostLine * 64)).all (fun l => !(dirAt s l).host || (dirAt s l).reading)) (taken s))
  | _ => .fault (.noEvent "BACK_INVALIDATION_RESPONSE")

/-- HOST_COPY_DROP (R213). -/
def execHostCopyDrop (s : State) : Result :=
  match s.now with
  | some (.hostCopyDrop hostLine data) => .next (endHostCopy hostLine data false (taken s))
  | _ => .fault (.noEvent "HOST_COPY_DROP")

/-! ### Peer devices (R466, R467) -/

/-- The bytes an inbound access touches. -/
def PeerKind.size : PeerKind → Nat
  | .read n => n
  | .write data => data.length
  | .amo op _ => amoSize op
  | .cas n _ _ => n

/-- What an inbound access stores, given the old value: none for a read or a cas that fails. -/
def PeerKind.stored (old : Word) : PeerKind → Option (List Byte)
  | .read _ => none
  | .write data => some data
  | .amo op x => some (leBytes (amoSize op) (amoNew op old x).toNat)
  | .cas n exp new => if old.toNat = exp.toNat % 2 ^ (8 * n) then some (leBytes n new.toNat) else none

/-- A peer device has read a line: a later write of it is announced to the peer (R101, R466). -/
def shareLine (dev : Nat) (s : State) (line : Nat) : State :=
  let d := dirAt s line
  if peerUnit dev ∈ d.sharers then s else setDir s line { d with sharers := d.sharers ++ [peerUnit dev] }

/-- PEER_ACCESS (R467): checked against the inbound rights of its device alone, then performed at the home. -/
def execPeerAccess (s : State) : Result :=
  match s.now with
  | some (.peerAccess dev pa k) =>
    .next (
      let s := taken s
      let answer (status : Nat) (data : List Byte) (s : State) : State :=
        { s with out := s.out ++ [.peerReply dev pa status data] }
      let need : Nat := match k with
        | .read _ => 1
        | _ => 2
      let cells := cellsAt pa (List.replicate k.size (0 : Byte))
      let home := sliceOfPa pa
      let cut : Bool := need == 2 && (peerPorts s dev).head?.any (fun n => ioCut s (ioOfLink (9 + n)) home)
      if s.inbound.get 0 dev < need then answer 1 [] s
      else if dramTop < pa + k.size ∨ homeFenced s home ∨ cut then answer 2 [] s
      else
        let r := (linesOf cells).foldl (fun (r : Bool × State) l =>
          let q := prepLine (homePlace (l * 32)) l none (if need = 1 then .read else .write) r.2
          (r.1 && q.1, q.2)) (true, s)
        if r.1 = false then holdBack (.peerAccess dev pa k) r.2
        else
          let s := r.2
          let whole : Bool := match k with
            | .write _ => true
            | _ => false
          let hit := (wordsOf cells).any (fun w => decide (w ∈ s.poison) &&
            !(whole && decide (pa ≤ w * 8) && decide (w * 8 + 8 ≤ pa + k.size)))
          if hit then answer 2 [] s
          else
            let old := rdBytes s pa k.size
            match k.stored (w64 (leNat old)) with
            | some bs => answer 0 (if whole then [] else old) (performWrite (cellsAt pa bs) (some (peerUnit dev)) none s)
            | none => answer 0 old (if need = 1 then (linesOf cells).foldl (shareLine dev) s else s))
  | _ => .fault (.noEvent "PEER_ACCESS")

/-! ### Register writes (R461, R470) -/

/-- Bits of a register that a write may set; reserved bits stay 0. -/
def keepBits (v : Word) (fs : List (Nat × Nat)) : Word :=
  w64 ((fs.map (fun f => fld v f.1 f.2 * 2 ^ f.1)).foldl (· + ·) 0)

/-- A write to a BAR 0 register. -/
def bar0Write (off : Nat) (v : Word) (s : State) : State :=
  let h := s.host
  let again (s : State) : State := if s.host.waiting ≠ [] then post .hostEventPost s else s
  if off = 0x18 then { s with host := { h with xroot := keepBits v [(12, 27)] } }
  else if off = 0x40 then again { s with host := { h with evring := keepBits v [(12, 40), (0, 5)] } }
  else if off = 0x50 then again { s with host := { h with evhead := v } }
  else if off = 0x58 then serveCommands { s with host := { h with cmdring := keepBits v [(12, 27), (0, 5)], cmdnext := 0 } }
  else if 0x10000 ≤ off ∧ off < 0x40000 ∧ off % 16 = 0 ∧ v = 0 then
    let i := (off - 0x10000) / 16
    post (.laneCounterClear (i / 32) (i % 32)) s
  else s

/-- A write of 0 to a counter clears it, any other is ignored (R470). -/
def clearOn0 (off : Nat) (v : Word) (s : State) : State := if v = 0 then post (.counterClear off) s else s

/-- A write to the debug block. -/
def debugWrite (off : Nat) (v : Word) (s : State) : State :=
  if off < 0x300000 then
    let core := off / 1024
    let o := off % 1024
    let c := coreAt s core
    if o < 0x298 then clearOn0 off v s
    else if 0x300 ≤ o ∧ o < 0x340 then
      let i := (o - 0x300) / 16
      let x := c.cmps[i]?.getD (0, 0)
      let y := if o % 16 = 0 then (keepBits v [(0, 56)], x.2) else (x.1, keepBits v [(0, 23)])
      setCore s core { c with cmps := c.cmps.setIfInBounds i y }
    else if o = 0x340 then
      let s := setCore s core { c with stopcmd := keepBits v [(0, 6)] }
      let slot := 16 * core + fld v 0 4
      match fld v 4 2 with
      | 1 => post (.stop slot) s
      | 2 => post (.resume slot) s
      | 3 => post (.step slot) s
      | _ => s
    else s
  else if off < 0x320000 then
    let n := (off - 0x300000) / 32
    let c := ctxAt s n
    match off % 32 / 8 with
    | 0 => setCtx s n { c with trace := { c.trace with w0 := keepBits v [(12, 44), (0, 5)] } }
    | 1 => setCtx s n { c with trace := { c.trace with w1 := keepBits v [(0, 17)] } }
    | 2 => s
    | _ => clearOn0 off v s
  else if 0x340000 ≤ off ∧ off < 0x343000 then
    if off % 16 = 0 then clearOn0 off v s else post (.iftestRequest ((off - 0x340000) / 16) v) s
  else if 0x350000 ≤ off ∧ off < 0x353000 then
    let n := (off - 0x350000) / 16
    let c := sliceAt s n
    if off % 16 = 0 then setSlice s n { c with replay0 := keepBits v [(12, 27), (0, 5)], lastLog := none }
    else setSlice s n { c with replay1 := keepBits v [(0, 34)], lastLog := none }
  else if off = 0x360008 then { s with ras := { s.ras with errhead := v.toNat } }
  else if off = 0x360028 then post (.powerLimitWrite v.toNat) s
  else if 0x360018 ≤ off ∧ off < 0x360038 then clearOn0 off v s
  else if 0x370000 ≤ off ∧ off < 0x430000 ∧ off % 16 = 8 then clearOn0 off v s
  else s

/-- A write on the management path (R458, R467; its offsets are the model's, DESIGN CHOICE, unsafe: log entry 21). -/
def manageWrite (off : Nat) (v : Word) (s : State) : State :=
  if off = 0 then { s with lanelim := v.toNat }
  else if 0x1000 ≤ off ∧ off < 0x1200 ∧ v.toNat ≤ 2 then { s with inbound := s.inbound.put 0 (off - 0x1000) v.toNat }
  else s

/-- REGISTER_WRITE (R461): BAR 0 from offset 0, the debug block from 0x100_0000, both through the host's port, which refuses them
while it is FENCED (R459); the management path from 0x200_0000. -/
def execRegisterWrite (s : State) : Result :=
  match s.now with
  | some (.registerWrite off v) =>
    .next (
      let s := taken s
      if 0x2000000 ≤ off then manageWrite (off - 0x2000000) v s
      else if (linkAt s 0).st = .fenced then { s with out := s.out ++ [.regPoison off] }
      else if off < 0x1000000 then bar0Write off v s
      else debugWrite (off - 0x1000000) v s)
  | _ => .fault (.noEvent "REGISTER_WRITE")

/-- A host read of a BAR 0 register; what the table does not list reads 0 (R461, R468). -/
def bar0Read (s : State) (off : Nat) : Word :=
  let h := s.host
  if off = 0 then w64 (0x3072 + Config.revision.toNat * 2 ^ 16)
  else if off = 0x08 then h.devid
  else if off = 0x10 then h.ctxtab
  else if off = 0x18 then h.xroot
  else if off = 0x20 then h.regtab
  else if off = 0x28 then h.stktab
  else if off = 0x30 then h.mboxbase
  else if off = 0x38 then h.peerroute
  else if off = 0x40 then h.evring
  else if off = 0x48 then h.evtail
  else if off = 0x50 then h.evhead
  else if off = 0x58 then h.cmdring
  else if off = 0x60 then h.rsvbase
  else if 0x1000 ≤ off ∧ off < 0x2000 ∧ off % 8 = 0 then linkStat (linkAt s ((off - 0x1000) / 8))
  else if 0x10000 ≤ off ∧ off < 0x40000 then
    let i := (off - 0x10000) / 16
    let k := linkAt s (i / 32)
    let x := k.lanes.get {} (i % 32)
    if lanesOf (i / 32) ≤ i % 32 then 0
    else if off % 16 = 0 then w64 (Nat.min x.corrected (2 ^ 32 - 1) + Nat.min x.bad (2 ^ 32 - 1) * 2 ^ 32)
    else if off % 16 = 8 then w64 (x.height % 65536 + x.width % 65536 * 2 ^ 16)
    else 0
  else 0

end Sys2Proof.Machine
end

