-- ==== Sys2Proof/Machine/Debug.lean ====
section
/-!
DEFINITION. Debugging, tracing, counters, tests, faults of the hardware, boot and reset (21), and the events of time: what
each arithmetic cycle does to every counter, timer and waiting request.
-/
namespace Sys2Proof.Machine

/-! ### Stops and steps (R475, R486) -/

/-- The doubleword of a slot record that holds its form field (R404). -/
def formAt (p : Nat) : Nat := spadPa (p / 16) (saveTail + 512 * (p % 16)) + 8 * 35

/-- The record's form field alone changes: the rest may have been edited. -/
def putForm (p n : Nat) (s : State) : State :=
  rawWrite s (cellsAt (formAt p) (leBytes 8 (setFld (rd64 s (formAt p)) 0 3 n).toNat))

/-- A stop or step has ended: KIND 6 is written. -/
def stopRecord (p : Nat) (t : Thread) (s : State) : State :=
  trace t.ctx 6 p (p / 16) t.tid (t.pc.zeroExtend 64) 0 s

/-- A thread at rest is stopped, as steps 1 to 3 of R419 lay down. -/
def stopAt (p : Nat) (t : Thread) (parked : Option Park) (s : State) : State :=
  let reason := (formCode t.form).2
  let t' := { t with form := .stopped parked false, dbgStep := 0 }
  stopRecord p t' (writeSlotRecord p 6 reason t' ((s.time8 - t.parkT) / 8 * b2n parked.isSome) (setThread s p t'))

/-- STOP (R475): what is in flight completes, the drains are awaited, the record is written. A fault is delivered first,
and its slot is then stopped trapped (R486). DEDUCED, unsafe: log entry 31. -/
def execStop (s : State) : Result :=
  match s.now with
  | some (.stop p) =>
    .next (
      let s := taken s
      match threadAt s p with
      | none => s
      | some t =>
        let rest (parked : Option Park) : State :=
          if drained s p t then stopAt p t parked s
          else holdBack (.stop p) (sendMarkers 3 p (mapThread p (fun t => { t with dbgStep := 2 }) s))
        match t.form with
        | .stopped _ _ => s
        | .trapped =>
          stopRecord p t (putForm p 6 (setThread s p { t with form := .stopped none true, dbgStep := 0 }))
        | .trapping _ => holdBack (.stop p) s
        | .inFlight _ => holdBack (.stop p) (mapThread p (fun t => { t with dbgStep := 1 }) s)
        | .parked k => rest (some k)
        | .ready => rest none)
  | _ => .fault (.noEvent "STOP")

/-- A stopped thread goes on from its slot record, which the debugger may have edited (R475): a trapped one is trapped
again, a parked one parks again unless its PC has been changed, its latch is set, or it is a recv with a message to take. -/
def resumeStopped (p step : Nat) (s : State) : State :=
  match threadAt s p with
  | none => s
  | some t =>
    match t.form with
    | .stopped _ true => if step = 1 then s else putForm p 5 (setThread s p { t with form := .trapped })
    | .stopped parked false =>
      let t' := { readSlotRecord s p t with form := .ready, readyAt := s.cycle, dbgStep := step }
      let s := setThread (setSlot s p (readSlot s p)) p t'
      (match parked with
       | some k =>
         if t'.pc = t.pc ∧ ¬ (k.why = .recv ∧ (slotAt s p).mailbox ≠ []) then
           mapThread p (fun x => match x.form with
             | .parked _ => { x with parkT := t.parkT }
             | _ => x) (park k { s with cur := p })
         else s
       | none => s)
    | _ => s

/-- RESUME (R475). -/
def execResume (s : State) : Result :=
  match s.now with
  | some (.resume p) => .next (resumeStopped p 0 (taken s))
  | _ => .fault (.noEvent "RESUME")

/-- STEP (R475): the thread will issue one instruction; a parking one is stepped over when it completes (R486). -/
def execStep (s : State) : Result :=
  match s.now with
  | some (.step p) => .next (resumeStopped p 1 (taken s))
  | _ => .fault (.noEvent "STEP")

/-- Whether a slot's step has ended, so that it is to be stopped. -/
def stepEnded (t : Thread) : Bool :=
  t.dbgStep == 2 || (t.dbgStep == 1 && t.form == .trapped)

/-! ### Trace (R471 to R473) -/

/-- A record is dropped and counted. -/
def traceDrop (ctx : Nat) (s : State) : State :=
  let c := ctxAt s ctx
  setCtx s ctx { c with trace := { c.trace with dropped := c.trace.dropped + 1, gap := c.trace.gap + 1 } }

/-- Writes one record at TRHEAD; none where R473 or WRAP drops it. DEDUCED, unsafe: log entry 30. -/
def traceWrite (ctx : Nat) (rec_ : List Word) (s : State) : Option State :=
  let c := ctxAt s ctx
  let log := fld c.trace.w0 0 5
  let va := fld c.trace.w0 12 44 * 4096 + 32 * (c.trace.head.toNat % 2 ^ log)
  if log < 7 ∨ 20 < log ∨ region (w64 va) ≠ .paged ∨ (pageOp s va).isSome then none
  else
    match walk s va with
    | .leaf base _ pte _ =>
      let at_ := placeFor (sliceOfVa va) (pteFrame pte + (va - base))
      let put (s : State) : State :=
        let s := if pteType pte = 2 then
            rawWrite s (cellsAt (peerPa (pteDevice pte) (pteRemoteFrame pte + (va - base))) (wordsBytes rec_))
          else setDirty va (devWrite (cellsAt at_ (wordsBytes rec_)) s)
        let c := ctxAt s ctx
        setCtx s ctx { c with trace := { c.trace with head := c.trace.head + 1 } }
      let unread : Bool := fld c.trace.w1 16 1 == 0 && pteType pte == 0 && rd64 s at_ != 0
      if pteType pte = 1 ∨ unread then none
      else
        match pinPage va s with
        | .free => some (put s)
        | .held a s => some (unpin a (put s))
        | .refused => none
    | _ => none

/-- The gap record of KIND 15 (R473). -/
def gapRecord (s : State) (ctx : Nat) : List Word :=
  [w64 (15 + ctx * 2 ^ 24), 0, w64 (tick s), w64 (ctxAt s ctx).trace.gap]

/-- TRACE_RECORD_WRITE (R472, R473): the gap before it first, if there is one. -/
def execTraceRecordWrite (s : State) : Result :=
  match s.now with
  | some (.traceRecordWrite ctx chip) =>
    .next (
      let s := taken s
      let c := ctxAt s ctx
      match c.trace.queues.get [] chip with
      | [] => s
      | r :: rest =>
        let s := setCtx s ctx { c with trace := { c.trace with queues := c.trace.queues.put [] chip rest } }
        let first : Option State :=
          if c.trace.gap = 0 then some s
          else (traceWrite ctx (gapRecord s ctx) s).map (fun s =>
            setCtx s ctx { ctxAt s ctx with trace := { (ctxAt s ctx).trace with gap := 0 } })
        match first with
        | none => traceDrop ctx s
        | some s =>
          match traceWrite ctx r s with
          | some s => s
          | none => traceDrop ctx s)
  | _ => .fault (.noEvent "TRACE_RECORD_WRITE")

/-! ### Counters of the debug block (R470, R478, R480) -/

/-- A counter of the debug block goes to 0. -/
def clearCounter (off : Nat) (s : State) : State :=
  if off < 0x300000 then
    let core := off / 1024
    let o := off % 1024
    let c := coreAt s core
    let p := 16 * core + o / 32
    let k := o % 32 / 8
    if o < 0x200 then
      setSlot s p (if k = 3 then { slotAt s p with vacLag := s.cycle }
        else { slotAt s p with loss := (slotAt s p).loss.setIfInBounds k 0 })
    else if o < 0x288 then
      let b := (o - 0x200) / 8
      setCore s core (if b = 0 then { c with hist0Lag := ((s.cycle + 15) / 16 : Nat) }
        else { c with hist := c.hist.setIfInBounds (b - 1) 0 })
    else if o < 0x290 then setCore s core { c with wakeDrops := 0 }
    else setCore s core { c with msgDrops := 0 }
  else if off < 0x320000 then
    let n := (off - 0x300000) / 32
    let c := ctxAt s n
    setCtx s n { c with trace := { c.trace with dropped := 0 } }
  else if off < 0x343000 then
    let n := (off - 0x340000) / 16
    setCell s n { cellAt s n with residue := 0, active := 0, activeFrac := 0 }
  else if off < 0x370000 then
    match (off - 0x360000) / 8 with
    | 3 => { s with ras := { s.ras with dropped := 0 } }
    | 4 => { s with ras := { s.ras with withheld := 0 } }
    | _ => { s with ras := { s.ras with malformedMeth := 0 } }
  else
    let n := (off - 0x370000) / 1024
    let i := (off - 0x370000) % 1024 / 16
    let c := sliceAt s n
    setSlice s n { c with rows := c.rows.modify i (fun x => { x with acts := 0, corrected := 0 }) }

/-- COUNTER_CLEAR (R470). -/
def execCounterClear (s : State) : Result :=
  match s.now with
  | some (.counterClear off) => .next (clearCounter off (taken s))
  | _ => .fault (.noEvent "COUNTER_CLEAR")

/-- ROW_COUNTER_WINDOW (R480): the tracked rows' activations are counted from 0 again, their corrected errors go on. -/
def execRowCounterWindow (s : State) : Result :=
  match s.now with
  | some (.rowCounterWindow cell) =>
    .next (
      let s := taken s
      let c := sliceAt s cell
      setSlice s cell { c with rows := c.rows.map (fun x => { x with acts := 0 }), spare := [] })
  | _ => .fault (.noEvent "ROW_COUNTER_WINDOW")

/-! ### Fences of units (R290, R483) -/

/-- The fenced units of a cell: cores, array, copy engine, slots. -/
def fencedIn (s : State) (cell : Nat) : Nat :=
  let c := cellAt s cell
  ((List.range 4).filter (fun i => (coreAt s (4 * cell + i)).fenced)).length + b2n c.arrFenced + b2n c.copyFenced +
  (s.fencedUnits.filter (fun u => decide (64 + 64 * cell ≤ u) && decide (u < 128 + 64 * cell))).length

/-- A unit of the list of fenced ones. -/
def fenceUnit (u : Nat) (s : State) : State :=
  if u ∈ s.fencedUnits then s else { s with fencedUnits := s.fencedUnits ++ [u] }

/-- The cells of a compute chiplet's stack. -/
def cellsOfChip (chip : Nat) : List Nat := (List.range 768).filter (fun c => chipOfCell c == chip)

/-- Every owned array context of a cell is FAULTED with status 3 (R286, R290). -/
def faultEngs (cell : Nat) (s : State) : State :=
  (List.range 4).foldl (fun s e =>
    let st := (engAt s cell e).st
    if st = .free ∨ st = .faulted then s else engFail cell e 3 s) s

/-- The command of a copy context that runs fails with status 3; those before it have moved their elements. -/
def failRunning (core e : Nat) (s : State) : State :=
  let q := (copyAt s core e).queue
  let n := (q.takeWhile (fun c => c.finished)).length
  let s := mapCopy core e (fun x => { x with queue := x.queue.zipIdx.map (fun c =>
    if c.2 = n then { c.1 with status := 3, finished := true } else c.1) }) s
  if n = 0 ∧ q ≠ [] then post (.copyCommandComplete core e) s else s

/-- Every claimed copy context of a cell goes FAULTED with status 3, its commands ended first (R333, R334). -/
def faultCopies (cell : Nat) (s : State) : State :=
  (List.range 16).foldl (fun s k =>
    let core := 4 * cell + k / 4
    let e := k % 4
    if (copyAt s core e).st = .idle then mapCopy core e (fun x => { x with st := .faulted, status := 3 }) s
    else failRunning core e s) s

/-- A cell is fenced with everything in it. -/
def fenceOneCell (cell : Nat) (s : State) : State :=
  let s := faultCopies cell (faultEngs cell s)
  let s := setCell s cell { cellAt s cell with fenced := true, arrFenced := true, copyFenced := true }
  (List.range 4).foldl (fun s i => setCore s (4 * cell + i) { coreAt s (4 * cell + i) with fenced := true }) s

def fenceStack (chip : Nat) (s : State) : State :=
  (cellsOfChip chip).foldl (fun s c => fenceOneCell c s) (fenceUnit (32 + chip) s)

/-- Two fenced cells in one stack fence the stack. -/
def fenceCell (cell : Nat) (s : State) : State :=
  let s := fenceOneCell cell s
  let chip := chipOfCell cell
  if 2 ≤ ((cellsOfChip chip).filter (fun c => (cellAt s c).fenced)).length then fenceStack chip s else s

/-- Two fenced units in one cell fence the cell. -/
def settleFences (cell : Nat) (s : State) : State :=
  if (cellAt s cell).fenced = false ∧ 2 ≤ fencedIn s cell then fenceCell cell s else s

/-- The array of a cell is fenced: every owned context is FAULTED with status 3 (R290). -/
def fenceArray (cell : Nat) (s : State) : State :=
  let s := faultEngs cell s
  settleFences cell (setCell s cell { cellAt s cell with arrFenced := true })

/-- The copy engine of a cell is fenced: a running command fails with status 3, an idle context is FAULTED with it. -/
def fenceCopy (cell : Nat) (s : State) : State :=
  let s := faultCopies cell s
  settleFences cell (setCell s cell { cellAt s cell with copyFenced := true })

/-- A core is fenced. -/
def fenceCore (core : Nat) (s : State) : State :=
  settleFences (core / 4) (setCore s core { coreAt s core with fenced := true })

/-- The operations of a fenced storage engine fail with status 3; faults it has taken go to the host (R446, R483). -/
def fenceSqe (chip : Nat) (s : State) : State :=
  (sqeAt s chip).ops.foldl (fun s o =>
    match o.2 with
    | some (.transfer x) => if x.ended ∨ x.result.isSome then s else endTransfer chip o.1 3 s
    | some (.fill va frame _) =>
      if frame = 0 then hostPath va 4 0 (endOp chip o.1 s) else post (.pageFillComplete chip (w64 va) noStatus []) s
    | some (.evict va _ _ _ _ true) => post (.evictionWritebackDone chip (w64 va) noStatus) s
    | _ => s) (fenceUnit chip s)

/-- HW_FAULT_DETECTED (R483): corrected, or the smallest unit of the table is fenced; an error record either way. -/
def execHwFaultDetected (s : State) : Result :=
  match s.now with
  | some (.hwFaultDetected f) =>
    .next (
      let s := taken s
      let rec_ (source : Nat) (loc : ErrLoc) (addr : Word) (s : State) : State := errorRec source 2 0xFFF loc addr 0 0 s
      match f with
      | .corrected source addr =>
        errorRec source 0 0xFFF { valid := 16 } addr 0 0
          (if source = 2 ∧ addr.toNat < dramTop then noteRow (addr.toNat / 32) 0 1 s else s)
      | .word addr source =>
        rec_ source { valid := 16 } (w64 addr)
          { s with poison := if addr / 8 ∈ s.poison then s.poison else s.poison ++ [addr / 8] }
      | .slot p =>
        tellLost (settleFences (p / 64) (rec_ 4 (coreLoc (p / 16) (p % 16)) 0 (endThread p (fenceUnit (64 + p) s))))
      | .residue cell => setCell s cell { cellAt s cell with residue := (cellAt s cell).residue + 1 }
      | .array cell row col =>
        let loc := cellLoc cell
        let loc := { loc with w2 := loc.w2 + w64 (row * 2 ^ 20 + col * 2 ^ 24), valid := 2 }
        tellLost (fenceArray cell (rec_ 3 loc 0 s))
      | .arraySeq cell => tellLost (fenceArray cell (rec_ 6 (cellLoc cell) 0 s))
      | .copy cell => tellLost (fenceCopy cell (rec_ 6 (cellLoc cell) 0 s))
      | .sqe chip => fenceSqe chip (rec_ 6 { w2 := w64 chip } 0 s)
      | .teller chip => fenceUnit (8 + chip) (rec_ 6 { w2 := w64 chip } 0 s)
      | .rowSave row => fenceUnit (16 + row) (rec_ 6 { w2 := w64 (row * 2 ^ 9) } 0 s)
      | .core core => tellLost (fenceCore core (rec_ 6 (coreLoc core 0) 0 s))
      | .cell cell => tellLost (fenceCell cell (rec_ 6 (cellLoc cell) 0 s))
      | .stack chip => tellLost (fenceStack chip (rec_ 6 { w2 := w64 chip } 0 s))
      | .link l => linkFails l s)
  | _ => .fault (.noEvent "HW_FAULT_DETECTED")

/-! ### In-field test (R481) -/

/-- No slot holds, reserves or traps a thread, every engine and copy context is FREE, no tile slot is non-empty. -/
def cellIdle (s : State) (cell : Nat) : Bool :=
  (List.range 64).all (fun i => (slotAt s (64 * cell + i)).occ == .vacant) &&
  (cellAt s cell).eng.toList.all (fun x => x.st == .free) &&
  (List.range 4).all (fun i =>
    (coreAt s (4 * cell + i)).copy.toList.all (fun x => x.st == .free) &&
    (coreAt s (4 * cell + i)).tslots.toList.all (fun t => t.st == .empty))

/-- IFTEST_REQUEST (R481): a cell that is not idle gets RESULT 2; the test samples the mode of the cell's context (R25), hardware
mode where the cell has none. A request turned away with RESULT 2 leaves no error record, in host-assisted mode either. DESIGN CHOICE,
unsafe: log entry 28. -/
def execIftestRequest (s : State) : Result :=
  match s.now with
  | some (.iftestRequest cell w) =>
    .next (
      let s := taken s
      let c := cellAt s cell
      let tests := fld w 0 3
      if fld c.test 8 1 = 1 then s
      else if tests = 0 then setCell s cell { c with test := 0 }
      else if cellIdle s cell then setCell s cell { c with test := w64 (tests + 2 ^ 8), testHost := c.owner.any (fun n => fld (fmode s n) 5 1 == 1) }
      else setCell s cell { c with test := w64 (tests + 2 * 2 ^ 12) })
  | _ => .fault (.noEvent "IFTEST_REQUEST")

/-- The test's memories and banks are zeroed (R481); zeroed words are full (R519). -/
def zeroCell (cell : Nat) (s : State) : State :=
  let s := { s with mem := s.mem.filter (fun x => !cellMem [cell] x.1), words := s.words.filter (fun x => !cellMem [cell] (x.1 * 8)),
                    poison := s.poison.filter (fun w => !cellMem [cell] (w * 8)) }
  let s := setCell s cell { cellAt s cell with banks := Vector.replicate 4 {} }
  (List.range 4).foldl (fun s i => setCore s (4 * cell + i) { coreAt s (4 * cell + i) with banks := Vector.replicate 4 {} }) s

/-- A passing test ends the fences of the units it has tested (R483). -/
def unfence (cell tests : Nat) (s : State) : State :=
  let c := cellAt s cell
  let scan := bits tests 0 1 == 1
  let c := { c with active := 0, activeFrac := 0,
                    arrFenced := c.arrFenced && !(scan || bits tests 1 1 == 1),
                    copyFenced := c.copyFenced && !scan, fenced := c.fenced && !scan }
  let s := setCell s cell c
  if scan then
    let s := (List.range 4).foldl (fun s i => setCore s (4 * cell + i) { coreAt s (4 * cell + i) with fenced := false }) s
    { s with fencedUnits := s.fencedUnits.filter (fun u => !(decide (64 + 64 * cell ≤ u) && decide (u < 128 + 64 * cell))) }
  else s

/-- IFTEST_DONE (R24, R481): the unit that failed is a core (0 to 3), the array (4), the copy engine (5), else the cell. A failure
writes an error record, and in host-assisted mode every result does. -/
def execIftestDone (s : State) : Result :=
  match s.now with
  | some (.iftestDone cell pass unit) =>
    .next (
      let s := taken s
      let tests := fld (cellAt s cell).test 0 3
      if fld (cellAt s cell).test 8 1 = 0 then s
      else
        let host := (cellAt s cell).testHost
        let s := zeroCell cell s
        let s := setCell s cell { cellAt s cell with test := w64 (tests + b2n (!pass) * 2 ^ 12), testHost := false }
        let s :=
          if pass then
            unfence cell tests (if host then errorRec 14 0 0xFFF (cellLoc cell) 0 (w64 tests) 0 s else s)
          else
            let s := errorRec 14 2 0xFFF (if unit < 4 then coreLoc (4 * cell + unit) 0 else cellLoc cell) 0 (w64 tests) 0 s
            tellLost (if unit < 4 then fenceCore (4 * cell + unit) s
              else if unit = 4 then fenceArray cell s
              else if unit = 5 then fenceCopy cell s
              else fenceCell cell s)
        hostEvent { type := 6, ctx := (cellAt s cell).owner.getD 0, reply := false, addr := w64 cell,
                    info := w64 (b2n (!pass)) } s)
  | _ => .fault (.noEvent "IFTEST_DONE")

/-- IFTEST_REMINDER (R481). -/
def execIftestReminder (s : State) : Result :=
  match s.now with
  | some (.iftestReminder cell) =>
    .next (hostEvent { type := 6, ctx := (cellAt s cell).owner.getD 0, reply := false, addr := w64 cell, info := 3 } (taken s))
  | _ => .fault (.noEvent "IFTEST_REMINDER")

/-! ### Power, reset, boot, attestation (R484, R485, R518) -/

/-- POWER_LIMIT_WRITE (R485): 200 W to 2,000 W. -/
def execPowerLimitWrite (s : State) : Result :=
  match s.now with
  | some (.powerLimitWrite w) =>
    .next (
      let s := taken s
      if 200 ≤ w ∧ w ≤ 2000 then { s with ras := { s.ras with powerLimit := w } } else s)
  | _ => .fault (.noEvent "POWER_LIMIT_WRITE")

/-- What arrives from outside the device, and so outlives a reset of it. -/
def isInput : Event → Bool
  | .hostRead _ => true
  | .hostWrite _ _ => true
  | .registerWrite _ _ => true
  | .linkTrainingDone _ _ _ => true
  | .laneRetire _ _ _ => true
  | .flitReplay _ _ => true
  | .flitUncorrectable _ => true
  | .laneMarginMeasure _ _ _ _ => true
  | .peerAccess _ _ _ => true
  | .peerInvalidation _ _ => true
  | .invalidationAck u _ => isPeerUnit u
  | .releaseNotice _ _ => true
  | .hwFaultDetected _ => true
  | .powerLimitWrite _ => true
  | .coldReset => true
  | .boot _ => true
  | .attestationRequest _ => true
  | _ => false

/-- COLD_RESET (R485): all device state as State.reset has it; what stands outside the device stays.
DEDUCED, unsafe: log entry 27. -/
def execColdReset (s : State) : Result :=
  match s.now with
  | some .coldReset =>
    .next { State.reset with sched := s.sched, fresh := s.fresh, out := s.out,
                             agenda := s.agenda.filter (fun f => isInput f.ev) }
  | _ => .fault (.noEvent "COLD_RESET")

/-- The reserved range of R518: from RSVBASE to 384 GiB. -/
def inRsv (img : BootImage) (a n : Nat) : Bool :=
  decide (fld (w64 img.rsvbase) 30 9 * 2 ^ 30 ≤ a) && decide (a + n ≤ dramTop)

/-- Firmware's image and its tables lie in the reserved range, each table with the length its rule gives it (R395, R442, R443, R462,
R466, R482, R518). -/
def imagePlaced (img : BootImage) : Bool :=
  inRsv img img.fwkcb img.image.length && inRsv img img.ctxtab (1024 * 4096) && inRsv img img.regtab (64 * 256) &&
  inRsv img img.stktab (32 * 3072) && inRsv img img.mboxbase (64 * 4096) && inRsv img img.peerroute (4 * 512) &&
  inRsv img img.errbase (64 * 4096)

/-- The leaf table of the firmware's code object, which firmware reads through the linear segment. -/
def firmwareLeaves (s : State) (k : List Byte) : List Byte :=
  match region (dwOf k 7) with
  | .linear pa => rdBytes s pa (32 * kcbNchunk k)
  | _ => []

/-- BOOT (R457, R484, R518): the image's key must hash to the fused value and its signature verify under it, else it is refused.
Firmware measures the image, places it and the device's tables in the reserved range, and enables the links (DEDUCED, unsafe: log
entry 17). -/
def execBoot (s : State) : Result :=
  match s.now with
  | some (.boot img) =>
    .next (
      let s := taken s
      if s.booted ∨ sha512 img.key ≠ Config.keyHash ∨ edVerify img.key img.image img.sig = false ∨ imagePlaced img = false then s
      else
        let s := rawWrite s (cellsAt img.fwkcb img.image)
        let s := { s with
          booted := true
          bootlog := s.bootlog ++ [contentHash img.image]
          fwobj := if kcbNchunk img.image = 0 then none else some (objOf img.image (firmwareLeaves s img.image))
          host := { s.host with
            devid := w64 img.devid.toNat, ctxtab := w64 img.ctxtab, regtab := w64 img.regtab, stktab := w64 img.stktab,
            mboxbase := w64 img.mboxbase, peerroute := w64 img.peerroute, rsvbase := keepBits (w64 img.rsvbase) [(30, 9)],
            dbgbase := img.dbgbase }
          ras := { s.ras with errbase := w64 img.errbase } }
        ((List.range 288).filter linkExists).foldl (fun s l =>
          if (linkAt s l).st = .down then trainLink l s else s) s)
  | _ => .fault (.noEvent "BOOT")

/-- ATTESTATION_REQUEST (R484): the measurements, and a signature over the request and them. -/
def execAttestationRequest (s : State) : Result :=
  match s.now with
  | some (.attestationRequest req) =>
    .next (
      let s := taken s
      if s.booted then
        { s with out := s.out ++ [.attest (s.bootlog.flatten ++ Config.sign (req ++ s.bootlog.flatten))] }
      else s)
  | _ => .fault (.noEvent "ATTESTATION_REQUEST")

/-! ### A cycle (R16, R127, R413, R478, R480, R481) -/

/-- Posts a step unless it is on its way or held already. -/
def postOnce (ev : Event) (s : State) : State :=
  if s.agenda.any (fun f => f.ev == ev) || s.held.any (fun f => f.ev == ev) then s else post ev s

/-- The class of a slot's time in this cycle (R478). -/
def lossClass (s : State) (p : Nat) : Nat :=
  match threadAt s p with
  | none => 3
  | some t =>
    match t.form with
    | .ready => 0
    | .inFlight _ => if s.cycle < t.issued + 8 then 0 else 1
    | .parked k => if inPass s t then 0 else if k.mem then 1 else 2
    | _ => 3

/-- One slot counts one cycle; slots that do not exist under the core's partition count nothing. -/
def countSlot (p : Nat) (s : State) : State :=
  let x := slotAt s p
  if (coreAt s (p / 16)).part ≤ p % 16 then setSlot s p { x with vacLag := x.vacLag + 1 }
  else
    let k := lossClass s p
    if k = 3 then s
    else
      setSlot s p { x with vacLag := x.vacLag + 1,
                           loss := x.loss.setIfInBounds k (Nat.min (2 ^ 48 - 1) ((x.loss[k]?.getD 0) + 1)) }

/-- The cores whose counts need more than the passing of time: those with a slot in use or fewer slots. -/
def busyCores (s : State) : List Nat :=
  s.cores.foldl (fun l x => if x.2.part ≠ 16 ∧ !(x.1 ∈ l) then l ++ [x.1] else l) (coresInUse s)

/-- The slots of a core that are in the ready form in this cycle (R124, R478): those that can issue yet, and the one that has
issued. -/
def readySlots (s : State) (core : Nat) : Nat :=
  ((List.range (coreAt s core).part).filter (fun i =>
    (threadAt s (16 * core + i)).any (fun t => t.form == .ready && decide (t.readyAt ≤ s.cycle)))).length +
  b2n ((coreAt s core).lastIssue == some s.cycle)

/-- A core's histogram at a cycle (R478). -/
def countHist (core : Nat) (s : State) : State :=
  let c := coreAt s core
  let n := c.part
  let starts := s.cycle % n == 0
  let b := readySlots s core
  let zero : Int := b2n (starts && b == 0)
  let base : Int := b2n (s.cycle % 16 == 0)
  let hist := if starts && b != 0 then c.hist.setIfInBounds (b - 1) ((c.hist[b - 1]?.getD 0) + 1) else c.hist
  if zero = base ∧ (starts = false ∨ b = 0) then s
  else setCore s core { c with hist := hist, hist0Lag := c.hist0Lag + base - zero }

/-- Every slot and core counts the cycle. -/
def countCycle (s : State) : State :=
  let cs := busyCores s
  let s := cs.foldl (fun s core => countHist core s) s
  cs.foldl (fun s core => (List.range 16).foldl (fun s i => countSlot (16 * core + i) s) s) s

/-- The static charge of the ticks that pass (R413). -/
def chargeStatic (ticks : Nat) (s : State) : State :=
  s.ctxs.foldl (fun s x =>
    match x.2.st with
    | .resident => charge x.1 (250 * x.2.cells.length * ticks) s
    | .stopping => charge x.1 (250 * x.2.cells.length * ticks) s
    | .restoring => charge x.1 (250 * x.2.cells.length * ticks) s
    | .killing => charge x.1 (250 * x.2.cells.length * ticks) s
    | _ => s) s

/-- The active time of the cells in a partition, in ms, and its reminder at 55 minutes (R470, R481).
DEDUCED, unsafe: log entry 32. -/
def ageCells (s : State) : State :=
  s.cells.foldl (fun s x =>
    if x.2.owner.isNone then s
    else
      let c := cellAt s x.1
      if c.activeFrac + 10 < 8000000 then setCell s x.1 { c with activeFrac := c.activeFrac + 10 }
      else
        let s := setCell s x.1 { c with activeFrac := c.activeFrac + 10 - 8000000, active := Nat.min (2 ^ 32 - 1) (c.active + 1) }
        if c.active + 1 = 3300000 then post (.iftestReminder x.1) s else s) s

/-- Steps due, by their times; those of one time in the order they were asked for. -/
def insertDue (x : Nat × Event) : List (Nat × Event) → List (Nat × Event)
  | [] => [x]
  | y :: t => if x.1 < y.1 then x :: y :: t else y :: insertDue x t

/-- Time passes, and the steps due come to the agenda in their order. -/
def passTime (s : State) : State :=
  let s := { s with time8 := s.time8 + 10, cycle := s.cycle + 1 }
  let due := s.timers.filter (fun t => decide (t.1 ≤ s.time8))
  let s := { s with timers := s.timers.filter (fun t => !decide (t.1 ≤ s.time8)) }
  postAll ((due.foldl (fun l t => insertDue t l) []).map (fun t => t.2)) s

/-- The issue cycle of an active array: a k-step is tried, unless the cycle is withheld to hold the power limit, which is
counted (R23, R485). -/
def arrayTurn (cell : Nat) (s : State) : State :=
  if Config.withhold s.ras.powerLimit s.cycle cell then { s with ras := { s.ras with withheld := s.ras.withheld + 1 } }
  else postOnce (.kstep cell) s

/-- What conditions on the state make due: write-outs, aging, retirements, ended steps, engine work, events
that wait for their ring, row windows. -/
def postDue (s : State) : State :=
  let s := s.slots.foldl (fun s x =>
    match x.2.occ with
    | .thread t =>
      let s := if mayWriteOut s x.1 t then postOnce (.parklimWriteOut x.1) s else s
      if stepEnded t then postOnce (.stop x.1) s else s
    | _ => s) s
  let s := s.ctxs.foldl (fun s x =>
    let s := (List.range 8).foldl (fun s chip =>
      if (List.range 3).any (fun prio => (x.2.pool.get [] (poolKey chip prio)).any (fun e =>
          decide (e.since + promoteOf s x.1 ≤ tick s))) then postOnce (.promoteAging x.1 chip) s else s) s
    if x.2.kernel.st == .running && retireReady s x.1 then postOnce (.retire x.1) s else s) s
  let s := s.cells.foldl (fun s x => if arrayActive s x.1 then arrayTurn x.1 s else s) s
  let s := s.cores.foldl (fun s x => if copyActive s (x.1 / 4) then postOnce (.copyElement (x.1 / 4)) s else s) s
  let s := s.ctxs.foldl (fun s x =>
    if x.2.st = .resident ∧ x.2.evwait ≠ [] then serveRing x.1 x.2.evwait.length s else s) s
  if s.time8 / 512000000 = (s.time8 - 10) / 512000000 then s
  else s.slices.foldl (fun s x => if x.2.rows = [] then s else post (.rowCounterWindow x.1) s) s

/-- Whether the outcome of a thread's instruction is decided now: its pass ends with the cycle, or an attempt that started
again after its pass leaves the pipeline (R127, R138). -/
def passEnds (s : State) (t : Thread) : Bool :=
  t.issued + 8 == s.cycle ||
    (decide (t.issued + 8 < s.cycle) && (match t.form with | .inFlight (.leaving _) => true | .inFlight (.departing _ _) => true | _ => false))

/-- The passes that end with the cycle (R127, R138). -/
def endPasses (s : State) : State :=
  s.slots.foldl (fun s x =>
    match x.2.occ with
    | .thread t => if passEnds s t then endPass x.1 s else s
    | _ => s) s

/-- A slice may replace a line of its data array at any time: whether, and which, is its own policy's (R520). DESIGN CHOICE,
unsafe: log entry 89. -/
def replaceSome (s : State) : State :=
  nextFresh (nextFresh (replaceNth (Config.freeChoice 1024 s.fresh) (Config.freeChoice sliceLines (s.fresh + 1)) s))

/-- CYCLE (R478): one arithmetic cycle. -/
def execCycle (s : State) : Result :=
  match s.now with
  | some .cycle =>
    .next (
      let s := countCycle (taken s)
      let t0 := tick s
      let s := endPasses (passTime s)
      postDue (wakeHeld (replaceSome (ageCells (chargeStatic (tick s - t0) s)))))
  | _ => .fault (.noEvent "CYCLE")

end Sys2Proof.Machine
end

