-- ==== Sys2Proof/Machine/Dispatch.lean ====
section
/-!
DEFINITION. One arm for each row of the opcode table: the instruction or event named, and its meaning.
-/
namespace Sys2Proof.Machine

/-- The meaning of an instruction or event. -/
def exec (i : Instr) (s : State) : Host.Outcome State Fault Refusal :=
  match i with
  | .add d a b ma mb => Sys2Proof.Machine.execAdd d a b ma mb s
  | .sub d a b ma mb => Sys2Proof.Machine.execSub d a b ma mb s
  | .and d a b ma mb => Sys2Proof.Machine.execAnd d a b ma mb s
  | .or d a b ma mb => Sys2Proof.Machine.execOr d a b ma mb s
  | .xor d a b ma mb => Sys2Proof.Machine.execXor d a b ma mb s
  | .andn d a b ma mb => Sys2Proof.Machine.execAndn d a b ma mb s
  | .shl d a b ma mb => Sys2Proof.Machine.execShl d a b ma mb s
  | .shr d a b ma mb => Sys2Proof.Machine.execShr d a b ma mb s
  | .sra d a b ma mb => Sys2Proof.Machine.execSra d a b ma mb s
  | .rot d a b ma mb => Sys2Proof.Machine.execRot d a b ma mb s
  | .slt d a b ma mb => Sys2Proof.Machine.execSlt d a b ma mb s
  | .sltu d a b ma mb => Sys2Proof.Machine.execSltu d a b ma mb s
  | .seq d a b ma mb => Sys2Proof.Machine.execSeq d a b ma mb s
  | .min d a b ma mb => Sys2Proof.Machine.execMin d a b ma mb s
  | .max d a b ma mb => Sys2Proof.Machine.execMax d a b ma mb s
  | .minu d a b ma mb => Sys2Proof.Machine.execMinu d a b ma mb s
  | .maxu d a b ma mb => Sys2Proof.Machine.execMaxu d a b ma mb s
  | .addw d a b ma mb => Sys2Proof.Machine.execAddw d a b ma mb s
  | .subw d a b ma mb => Sys2Proof.Machine.execSubw d a b ma mb s
  | .mul d a b ma mb => Sys2Proof.Machine.execMul d a b ma mb s
  | .mulh d a b ma mb => Sys2Proof.Machine.execMulh d a b ma mb s
  | .mulhu d a b ma mb => Sys2Proof.Machine.execMulhu d a b ma mb s
  | .div d a b ma mb => Sys2Proof.Machine.execDiv d a b ma mb s
  | .divu d a b ma mb => Sys2Proof.Machine.execDivu d a b ma mb s
  | .rem d a b ma mb => Sys2Proof.Machine.execRem d a b ma mb s
  | .remu d a b ma mb => Sys2Proof.Machine.execRemu d a b ma mb s
  | .clz d a ma => Sys2Proof.Machine.execClz d a ma s
  | .ctz d a ma => Sys2Proof.Machine.execCtz d a ma s
  | .popc d a ma => Sys2Proof.Machine.execPopc d a ma s
  | .bext d a b ma mb => Sys2Proof.Machine.execBext d a b ma mb s
  | .bins d a b ma mb => Sys2Proof.Machine.execBins d a b ma mb s
  | .sext d a b ma mb => Sys2Proof.Machine.execSext d a b ma mb s
  | .zext d a b ma mb => Sys2Proof.Machine.execZext d a b ma mb s
  | .bswap d a ma => Sys2Proof.Machine.execBswap d a ma s
  | .nop => Sys2Proof.Machine.execNop s
  | .addi d a ma imm => Sys2Proof.Machine.execAddi d a ma imm s
  | .andi d a ma imm => Sys2Proof.Machine.execAndi d a ma imm s
  | .ori d a ma imm => Sys2Proof.Machine.execOri d a ma imm s
  | .xori d a ma imm => Sys2Proof.Machine.execXori d a ma imm s
  | .slti d a ma imm => Sys2Proof.Machine.execSlti d a ma imm s
  | .sltiu d a ma imm => Sys2Proof.Machine.execSltiu d a ma imm s
  | .shli d a ma amt => Sys2Proof.Machine.execShli d a ma amt s
  | .shri d a ma amt => Sys2Proof.Machine.execShri d a ma amt s
  | .srai d a ma amt => Sys2Proof.Machine.execSrai d a ma amt s
  | .roti d a ma amt => Sys2Proof.Machine.execRoti d a ma amt s
  | .lui d imm => Sys2Proof.Machine.execLui d imm s
  | .auipc d imm => Sys2Proof.Machine.execAuipc d imm s
  | .jal d off => Sys2Proof.Machine.execJal d off s
  | .jalr d a ma imm => Sys2Proof.Machine.execJalr d a ma imm s
  | .beq a b off => Sys2Proof.Machine.execBeq a b off s
  | .bne a b off => Sys2Proof.Machine.execBne a b off s
  | .blt a b off => Sys2Proof.Machine.execBlt a b off s
  | .bge a b off => Sys2Proof.Machine.execBge a b off s
  | .bltu a b off => Sys2Proof.Machine.execBltu a b off s
  | .bgeu a b off => Sys2Proof.Machine.execBgeu a b off s
  | .beqz a off => Sys2Proof.Machine.execBeqz a off s
  | .bnez a off => Sys2Proof.Machine.execBnez a off s
  | .kmovg d a ma => Sys2Proof.Machine.execKmovg d a ma s
  | .kmovk d a => Sys2Proof.Machine.execKmovk d a s
  | .kand d a b => Sys2Proof.Machine.execKand d a b s
  | .kor d a b => Sys2Proof.Machine.execKor d a b s
  | .kxor d a b => Sys2Proof.Machine.execKxor d a b s
  | .knot d a => Sys2Proof.Machine.execKnot d a s
  | .kpop d a => Sys2Proof.Machine.execKpop d a s
  | .kfirst d a => Sys2Proof.Machine.execKfirst d a s
  | .ld d a sz sc mo off => Sys2Proof.Machine.execLd d a sz sc mo off s
  | .ldu d a sz sc mo off => Sys2Proof.Machine.execLdu d a sz sc mo off s
  | .st d a sz sc mo off => Sys2Proof.Machine.execSt d a sz sc mo off s
  | .ldp d a sz sc off => Sys2Proof.Machine.execLdp d a sz sc off s
  | .ldsync d a sz sc mo off => Sys2Proof.Machine.execLdsync d a sz sc mo off s
  | .stsync d a sz sc mo off => Sys2Proof.Machine.execStsync d a sz sc mo off s
  | .feclr a sc mo off => Sys2Proof.Machine.execFeclr a sc mo off s
  | .feset a sc mo off => Sys2Proof.Machine.execFeset a sc mo off s
  | .feprobe d a sc mo off => Sys2Proof.Machine.execFeprobe d a sc mo off s
  | .ldmon d a sz sc mo off => Sys2Proof.Machine.execLdmon d a sz sc mo off s
  | .amoAdd d a b sc mo => Sys2Proof.Machine.execAmoAdd d a b sc mo s
  | .amoAnd d a b sc mo => Sys2Proof.Machine.execAmoAnd d a b sc mo s
  | .amoOr d a b sc mo => Sys2Proof.Machine.execAmoOr d a b sc mo s
  | .amoXor d a b sc mo => Sys2Proof.Machine.execAmoXor d a b sc mo s
  | .amoMin d a b sc mo => Sys2Proof.Machine.execAmoMin d a b sc mo s
  | .amoMax d a b sc mo => Sys2Proof.Machine.execAmoMax d a b sc mo s
  | .amoMinu d a b sc mo => Sys2Proof.Machine.execAmoMinu d a b sc mo s
  | .amoMaxu d a b sc mo => Sys2Proof.Machine.execAmoMaxu d a b sc mo s
  | .amoSwap d a b sc mo => Sys2Proof.Machine.execAmoSwap d a b sc mo s
  | .amoFadd d a b sc mo => Sys2Proof.Machine.execAmoFadd d a b sc mo s
  | .amoFmin d a b sc mo => Sys2Proof.Machine.execAmoFmin d a b sc mo s
  | .amoFmax d a b sc mo => Sys2Proof.Machine.execAmoFmax d a b sc mo s
  | .casW d a b sc mo => Sys2Proof.Machine.execCasW d a b sc mo s
  | .casD d a b sc mo => Sys2Proof.Machine.execCasD d a b sc mo s
  | .redAdd a b sc => Sys2Proof.Machine.execRedAdd a b sc s
  | .redAnd a b sc => Sys2Proof.Machine.execRedAnd a b sc s
  | .redOr a b sc => Sys2Proof.Machine.execRedOr a b sc s
  | .redXor a b sc => Sys2Proof.Machine.execRedXor a b sc s
  | .redMin a b sc => Sys2Proof.Machine.execRedMin a b sc s
  | .redMax a b sc => Sys2Proof.Machine.execRedMax a b sc s
  | .redMinu a b sc => Sys2Proof.Machine.execRedMinu a b sc s
  | .redMaxu a b sc => Sys2Proof.Machine.execRedMaxu a b sc s
  | .redFadd a b sc => Sys2Proof.Machine.execRedFadd a b sc s
  | .redFmin a b sc => Sys2Proof.Machine.execRedFmin a b sc s
  | .redFmax a b sc => Sys2Proof.Machine.execRedFmax a b sc s
  | .fence fk sc e => Sys2Proof.Machine.execFence fk sc e s
  | .pref a sc off => Sys2Proof.Machine.execPref a sc off s
  | .cflush a sc off => Sys2Proof.Machine.execCflush a sc off s
  | .cinval a sc off => Sys2Proof.Machine.execCinval a sc off s
  | .vadd d a b k t => Sys2Proof.Machine.execVadd d a b k t s
  | .vsub d a b k t => Sys2Proof.Machine.execVsub d a b k t s
  | .vmul d a b k t => Sys2Proof.Machine.execVmul d a b k t s
  | .vmulh d a b k t => Sys2Proof.Machine.execVmulh d a b k t s
  | .vmin d a b k t => Sys2Proof.Machine.execVmin d a b k t s
  | .vmax d a b k t => Sys2Proof.Machine.execVmax d a b k t s
  | .vminu d a b k t => Sys2Proof.Machine.execVminu d a b k t s
  | .vmaxu d a b k t => Sys2Proof.Machine.execVmaxu d a b k t s
  | .vabs d a k t => Sys2Proof.Machine.execVabs d a k t s
  | .vmac d a b k t => Sys2Proof.Machine.execVmac d a b k t s
  | .vfadd d a b k t => Sys2Proof.Machine.execVfadd d a b k t s
  | .vfsub d a b k t => Sys2Proof.Machine.execVfsub d a b k t s
  | .vfmul d a b k t => Sys2Proof.Machine.execVfmul d a b k t s
  | .vfma d a b k t => Sys2Proof.Machine.execVfma d a b k t s
  | .vfmin d a b k t => Sys2Proof.Machine.execVfmin d a b k t s
  | .vfmax d a b k t => Sys2Proof.Machine.execVfmax d a b k t s
  | .vfabs d a k t => Sys2Proof.Machine.execVfabs d a k t s
  | .vfneg d a k t => Sys2Proof.Machine.execVfneg d a k t s
  | .vfrcp d a k t => Sys2Proof.Machine.execVfrcp d a k t s
  | .vfrsq d a k t => Sys2Proof.Machine.execVfrsq d a k t s
  | .vfdiv d a b k t => Sys2Proof.Machine.execVfdiv d a b k t s
  | .vfsqrt d a k t => Sys2Proof.Machine.execVfsqrt d a k t s
  | .vand d a b k t => Sys2Proof.Machine.execVand d a b k t s
  | .vor d a b k t => Sys2Proof.Machine.execVor d a b k t s
  | .vxor d a b k t => Sys2Proof.Machine.execVxor d a b k t s
  | .vnot d a k t => Sys2Proof.Machine.execVnot d a k t s
  | .vshl d a b k t => Sys2Proof.Machine.execVshl d a b k t s
  | .vshr d a b k t => Sys2Proof.Machine.execVshr d a b k t s
  | .vsra d a b k t => Sys2Proof.Machine.execVsra d a b k t s
  | .vcmpEq d a b k t => Sys2Proof.Machine.execVcmpEq d a b k t s
  | .vcmpLt d a b k t => Sys2Proof.Machine.execVcmpLt d a b k t s
  | .vcmpLtu d a b k t => Sys2Proof.Machine.execVcmpLtu d a b k t s
  | .vfcmpEq d a b k t => Sys2Proof.Machine.execVfcmpEq d a b k t s
  | .vfcmpLt d a b k t => Sys2Proof.Machine.execVfcmpLt d a b k t s
  | .vfcmpLe d a b k t => Sys2Proof.Machine.execVfcmpLe d a b k t s
  | .vfcmpUn d a b k t => Sys2Proof.Machine.execVfcmpUn d a b k t s
  | .vsel d a b k t => Sys2Proof.Machine.execVsel d a b k t s
  | .vbcast d a k t => Sys2Proof.Machine.execVbcast d a k t s
  | .vext d a b t => Sys2Proof.Machine.execVext d a b t s
  | .vins d a b t => Sys2Proof.Machine.execVins d a b t s
  | .vperm d a b k t => Sys2Proof.Machine.execVperm d a b k t s
  | .vrot d a b k t => Sys2Proof.Machine.execVrot d a b k t s
  | .vredadd d a k t => Sys2Proof.Machine.execVredadd d a k t s
  | .vredmin d a k t => Sys2Proof.Machine.execVredmin d a k t s
  | .vredmax d a k t => Sys2Proof.Machine.execVredmax d a k t s
  | .vfredadd d a k t => Sys2Proof.Machine.execVfredadd d a k t s
  | .vcompress d a k t => Sys2Proof.Machine.execVcompress d a k t s
  | .vexpand d a k t => Sys2Proof.Machine.execVexpand d a k t s
  | .vcvt d a part u k sf => Sys2Proof.Machine.execVcvt d a part u k sf s
  | .vdec d a fmt k t => Sys2Proof.Machine.execVdec d a fmt k t s
  | .venc d a fmt k t => Sys2Proof.Machine.execVenc d a fmt k t s
  | .vtabld a bank => Sys2Proof.Machine.execVtabld a bank s
  | .vscale d a b k t => Sys2Proof.Machine.execVscale d a b k t s
  | .vld d a k t => Sys2Proof.Machine.execVld d a k t s
  | .vlds d a b k t => Sys2Proof.Machine.execVlds d a b k t s
  | .vldx d a b k t => Sys2Proof.Machine.execVldx d a b k t s
  | .vldb d a k t => Sys2Proof.Machine.execVldb d a k t s
  | .vst d a k t => Sys2Proof.Machine.execVst d a k t s
  | .vsts d a b k t => Sys2Proof.Machine.execVsts d a b k t s
  | .vstx d a b k t => Sys2Proof.Machine.execVstx d a b k t s
  | .spawn d a b ma mb => Sys2Proof.Machine.execSpawn d a b ma mb s
  | .yield => Sys2Proof.Machine.execYield s
  | .quit => Sys2Proof.Machine.execQuit s
  | .susp => Sys2Proof.Machine.execSusp s
  | .tid d => Sys2Proof.Machine.execTid d s
  | .migr d a ma => Sys2Proof.Machine.execMigr d a ma s
  | .send d a b ma mb => Sys2Proof.Machine.execSend d a b ma mb s
  | .sendg d a b ma mb => Sys2Proof.Machine.execSendg d a b ma mb s
  | .recv => Sys2Proof.Machine.execRecv s
  | .rpeek d => Sys2Proof.Machine.execRpeek d s
  | .qbind q a ma => Sys2Proof.Machine.execQbind q a ma s
  | .qstat d q => Sys2Proof.Machine.execQstat d q s
  | .qunbind q => Sys2Proof.Machine.execQunbind q s
  | .qclose q => Sys2Proof.Machine.execQclose q s
  | .tdecl d a ma => Sys2Proof.Machine.execTdecl d a ma s
  | .tfree a ma => Sys2Proof.Machine.execTfree a ma s
  | .tstage d a b ma mb => Sys2Proof.Machine.execTstage d a b ma mb s
  | .tdrain a ma => Sys2Proof.Machine.execTdrain a ma s
  | .ttag d a ma => Sys2Proof.Machine.execTtag d a ma s
  | .tsettag a b ma mb => Sys2Proof.Machine.execTsettag a b ma mb s
  | .tinv a ma => Sys2Proof.Machine.execTinv a ma s
  | .mcast d a b ma mb => Sys2Proof.Machine.execMcast d a b ma mb s
  | .tfwd d a b ma mb => Sys2Proof.Machine.execTfwd d a b ma mb s
  | .tbst a b ma mb => Sys2Proof.Machine.execTbst a b ma mb s
  | .mma a b e z => Sys2Proof.Machine.execMma a b e z s
  | .mmas a b e z => Sys2Proof.Machine.execMmas a b e z s
  | .mset a e idx => Sys2Proof.Machine.execMset a e idx s
  | .mscale a b e => Sys2Proof.Machine.execMscale a b e s
  | .acczero b e => Sys2Proof.Machine.execAcczero b e s
  | .accld a b e => Sys2Proof.Machine.execAccld a b e s
  | .accst a b e => Sys2Proof.Machine.execAccst a b e s
  | .mget d a b ma mb => Sys2Proof.Machine.execMget d a b ma mb s
  | .accrd d a ma => Sys2Proof.Machine.execAccrd d a ma s
  | .accwr a b ma mb => Sys2Proof.Machine.execAccwr a b ma mb s
  | .mstat d a ma => Sys2Proof.Machine.execMstat d a ma s
  | .xcopy a b e => Sys2Proof.Machine.execXcopy a b e s
  | .xset a e idx => Sys2Proof.Machine.execXset a e idx s
  | .xfill a b e => Sys2Proof.Machine.execXfill a b e s
  | .xcancel e rel => Sys2Proof.Machine.execXcancel e rel s
  | .barInit a b ma mb => Sys2Proof.Machine.execBarInit a b ma mb s
  | .barArrive d a b ma mb => Sys2Proof.Machine.execBarArrive d a b ma mb s
  | .barExpect d a b ma mb => Sys2Proof.Machine.execBarExpect d a b ma mb s
  | .barArm a b ma mb => Sys2Proof.Machine.execBarArm a b ma mb s
  | .barInval a ma => Sys2Proof.Machine.execBarInval a ma s
  | .tlRead d a b ma mb => Sys2Proof.Machine.execTlRead d a b ma mb s
  | .tlArm a b ma mb => Sys2Proof.Machine.execTlArm a b ma mb s
  | .taskSub d a b ma mb => Sys2Proof.Machine.execTaskSub d a b ma mb s
  | .taskDone a b ma mb => Sys2Proof.Machine.execTaskDone a b ma mb s
  | .taskDep d a b ma mb => Sys2Proof.Machine.execTaskDep d a b ma mb s
  | .taskInfo d a b ma mb => Sys2Proof.Machine.execTaskInfo d a b ma mb s
  | .grpInfo d a b ma mb => Sys2Proof.Machine.execGrpInfo d a b ma mb s
  | .collStart d a b ma mb => Sys2Proof.Machine.execCollStart d a b ma mb s
  | .collStat d a ma => Sys2Proof.Machine.execCollStat d a ma s
  | .stoRead d a ma => Sys2Proof.Machine.execStoRead d a ma s
  | .stoWrite d a ma => Sys2Proof.Machine.execStoWrite d a ma s
  | .stoSync d a ma => Sys2Proof.Machine.execStoSync d a ma s
  | .csrRd d csr => Sys2Proof.Machine.execCsrRd d csr s
  | .csrWr a csr => Sys2Proof.Machine.execCsrWr a csr s
  | .csrSet a csr => Sys2Proof.Machine.execCsrSet a csr s
  | .csrClr a csr => Sys2Proof.Machine.execCsrClr a csr s
  | .sysCall a ma => Sys2Proof.Machine.execSysCall a ma s
  | .sysRet a b ma mb => Sys2Proof.Machine.execSysRet a b ma mb s
  | .repart a ma => Sys2Proof.Machine.execRepart a ma s
  | .brk a ma => Sys2Proof.Machine.execBrk a ma s
  | .mark a ma => Sys2Proof.Machine.execMark a ma s
  | .xlatInv a b ma mb => Sys2Proof.Machine.execXlatInv a b ma mb s
  | .fenceXlat => Sys2Proof.Machine.execFenceXlat s
  | .gangAck d a ma => Sys2Proof.Machine.execGangAck d a ma s
  | .mvblk d a b => Sys2Proof.Machine.execMvblk d a b s
  | .stblk d a b => Sys2Proof.Machine.execStblk d a b s
  | .cmpblk d a b => Sys2Proof.Machine.execCmpblk d a b s
  | .illinst => Sys2Proof.Machine.execIllinst s
  | .postedArrive => Sys2Proof.Machine.execPostedArrive s
  | .postedFail => Sys2Proof.Machine.execPostedFail s
  | .loadReply => Sys2Proof.Machine.execLoadReply s
  | .storeCheckReply => Sys2Proof.Machine.execStoreCheckReply s
  | .storeAck => Sys2Proof.Machine.execStoreAck s
  | .homeRead => Sys2Proof.Machine.execHomeRead s
  | .homeWrite => Sys2Proof.Machine.execHomeWrite s
  | .collectRecallReply => Sys2Proof.Machine.execCollectRecallReply s
  | .redURequest => Sys2Proof.Machine.execRedURequest s
  | .uEviction => Sys2Proof.Machine.execUEviction s
  | .invalidation => Sys2Proof.Machine.execInvalidation s
  | .invalidationAck => Sys2Proof.Machine.execInvalidationAck s
  | .fenceMarker => Sys2Proof.Machine.execFenceMarker s
  | .fenceMarkerAnswer => Sys2Proof.Machine.execFenceMarkerAnswer s
  | .feRetry => Sys2Proof.Machine.execFeRetry s
  | .reservationExpiry => Sys2Proof.Machine.execReservationExpiry s
  | .waitovf => Sys2Proof.Machine.execWaitovf s
  | .wakeAtSlot => Sys2Proof.Machine.execWakeAtSlot s
  | .wakeAtRecord => Sys2Proof.Machine.execWakeAtRecord s
  | .parklimWriteOut => Sys2Proof.Machine.execParklimWriteOut s
  | .poolPickup => Sys2Proof.Machine.execPoolPickup s
  | .promoteAging => Sys2Proof.Machine.execPromoteAging s
  | .migrantArrival => Sys2Proof.Machine.execMigrantArrival s
  | .migrantAccepted => Sys2Proof.Machine.execMigrantAccepted s
  | .migrantRefused => Sys2Proof.Machine.execMigrantRefused s
  | .forwardedValue => Sys2Proof.Machine.execForwardedValue s
  | .dividerDone => Sys2Proof.Machine.execDividerDone s
  | .normaliserDone => Sys2Proof.Machine.execNormaliserDone s
  | .iterativeUnitDone => Sys2Proof.Machine.execIterativeUnitDone s
  | .mailboxMessage => Sys2Proof.Machine.execMailboxMessage s
  | .sendReply => Sys2Proof.Machine.execSendReply s
  | .sendgMemberReply => Sys2Proof.Machine.execSendgMemberReply s
  | .stageRead => Sys2Proof.Machine.execStageRead s
  | .stageOwn => Sys2Proof.Machine.execStageOwn s
  | .tileDrain => Sys2Proof.Machine.execTileDrain s
  | .tileDrop => Sys2Proof.Machine.execTileDrop s
  | .tileRecall => Sys2Proof.Machine.execTileRecall s
  | .tileFillComplete => Sys2Proof.Machine.execTileFillComplete s
  | .tileWritebackAck => Sys2Proof.Machine.execTileWritebackAck s
  | .stageHoldExpiry => Sys2Proof.Machine.execStageHoldExpiry s
  | .deferExpiry => Sys2Proof.Machine.execDeferExpiry s
  | .tfwdTransfer => Sys2Proof.Machine.execTfwdTransfer s
  | .kstep => Sys2Proof.Machine.execKstep s
  | .arrayCommandComplete => Sys2Proof.Machine.execArrayCommandComplete s
  | .mtabldLoadComplete => Sys2Proof.Machine.execMtabldLoadComplete s
  | .copyCommandComplete => Sys2Proof.Machine.execCopyCommandComplete s
  | .barrierBytes => Sys2Proof.Machine.execBarrierBytes s
  | .taskNotifyArrival => Sys2Proof.Machine.execTaskNotifyArrival s
  | .taskRead => Sys2Proof.Machine.execTaskRead s
  | .taskMatch => Sys2Proof.Machine.execTaskMatch s
  | .taskPlace => Sys2Proof.Machine.execTaskPlace s
  | .taskDecrement => Sys2Proof.Machine.execTaskDecrement s
  | .collAllJoined => Sys2Proof.Machine.execCollAllJoined s
  | .collChunkForward => Sys2Proof.Machine.execCollChunkForward s
  | .collChunkAck => Sys2Proof.Machine.execCollChunkAck s
  | .collMemberLost => Sys2Proof.Machine.execCollMemberLost s
  | .collRepairDone => Sys2Proof.Machine.execCollRepairDone s
  | .launchDoorbell => Sys2Proof.Machine.execLaunchDoorbell s
  | .retire => Sys2Proof.Machine.execRetire s
  | .textFetch => Sys2Proof.Machine.execTextFetch s
  | .translationMiss => Sys2Proof.Machine.execTranslationMiss s
  | .walkComplete => Sys2Proof.Machine.execWalkComplete s
  | .retryWakeTimer => Sys2Proof.Machine.execRetryWakeTimer s
  | .storageFaultAccept => Sys2Proof.Machine.execStorageFaultAccept s
  | .pageFillComplete => Sys2Proof.Machine.execPageFillComplete s
  | .evictionWritebackDone => Sys2Proof.Machine.execEvictionWritebackDone s
  | .remoteAccess => Sys2Proof.Machine.execRemoteAccess s
  | .migrationComplete => Sys2Proof.Machine.execMigrationComplete s
  | .releaseNotice => Sys2Proof.Machine.execReleaseNotice s
  | .xlatInvAtSlice => Sys2Proof.Machine.execXlatInvAtSlice s
  | .stoTransferComplete => Sys2Proof.Machine.execStoTransferComplete s
  | .peerAccess => Sys2Proof.Machine.execPeerAccess s
  | .hostRead => Sys2Proof.Machine.execHostRead s
  | .hostWrite => Sys2Proof.Machine.execHostWrite s
  | .backInvalidationResponse => Sys2Proof.Machine.execBackInvalidationResponse s
  | .hostEventPost => Sys2Proof.Machine.execHostEventPost s
  | .addCommand => Sys2Proof.Machine.execAddCommand s
  | .invalCommand => Sys2Proof.Machine.execInvalCommand s
  | .replyCommand => Sys2Proof.Machine.execReplyCommand s
  | .gangstepCommand => Sys2Proof.Machine.execGangstepCommand s
  | .linkcmdEnable => Sys2Proof.Machine.execLinkcmdEnable s
  | .linkcmdFence => Sys2Proof.Machine.execLinkcmdFence s
  | .linkcmdDown => Sys2Proof.Machine.execLinkcmdDown s
  | .linkTrainingDone => Sys2Proof.Machine.execLinkTrainingDone s
  | .linkTrainingTimeout => Sys2Proof.Machine.execLinkTrainingTimeout s
  | .laneRetire => Sys2Proof.Machine.execLaneRetire s
  | .flitReplay => Sys2Proof.Machine.execFlitReplay s
  | .flitUncorrectable => Sys2Proof.Machine.execFlitUncorrectable s
  | .laneMarginMeasure => Sys2Proof.Machine.execLaneMarginMeasure s
  | .create => Sys2Proof.Machine.execCreate s
  | .place => Sys2Proof.Machine.execPlace s
  | .kill => Sys2Proof.Machine.execKill s
  | .free => Sys2Proof.Machine.execFree s
  | .commandIllegalCode => Sys2Proof.Machine.execCommandIllegalCode s
  | .switchAnnounce => Sys2Proof.Machine.execSwitchAnnounce s
  | .switchStamp => Sys2Proof.Machine.execSwitchStamp s
  | .saveComplete => Sys2Proof.Machine.execSaveComplete s
  | .restoreComplete => Sys2Proof.Machine.execRestoreComplete s
  | .stopTimeout => Sys2Proof.Machine.execStopTimeout s
  | .trapDelivery => Sys2Proof.Machine.execTrapDelivery s
  | .handlerStart => Sys2Proof.Machine.execHandlerStart s
  | .handlerStartTimeout => Sys2Proof.Machine.execHandlerStartTimeout s
  | .eventRingWrite => Sys2Proof.Machine.execEventRingWrite s
  | .stop => Sys2Proof.Machine.execStop s
  | .resume => Sys2Proof.Machine.execResume s
  | .step => Sys2Proof.Machine.execStep s
  | .traceRecordWrite => Sys2Proof.Machine.execTraceRecordWrite s
  | .counterClear => Sys2Proof.Machine.execCounterClear s
  | .laneCounterClear => Sys2Proof.Machine.execLaneCounterClear s
  | .registerWrite => Sys2Proof.Machine.execRegisterWrite s
  | .iftestRequest => Sys2Proof.Machine.execIftestRequest s
  | .iftestDone => Sys2Proof.Machine.execIftestDone s
  | .iftestReminder => Sys2Proof.Machine.execIftestReminder s
  | .rowCounterWindow => Sys2Proof.Machine.execRowCounterWindow s
  | .hwFaultDetected => Sys2Proof.Machine.execHwFaultDetected s
  | .powerLimitWrite => Sys2Proof.Machine.execPowerLimitWrite s
  | .coldReset => Sys2Proof.Machine.execColdReset s
  | .boot => Sys2Proof.Machine.execBoot s
  | .launchChecksDone => Sys2Proof.Machine.execLaunchChecksDone s
  | .killComplete => Sys2Proof.Machine.execKillComplete s
  | .copyElement => Sys2Proof.Machine.execCopyElement s
  | .cycle => Sys2Proof.Machine.execCycle s
  | .hostCopyDrop => Sys2Proof.Machine.execHostCopyDrop s
  | .attestationRequest => Sys2Proof.Machine.execAttestationRequest s

end Sys2Proof.Machine
end

