-- ==== Sys2Proof/Machine/Step.lean ====
section
/-!
DEFINITION. One step of the device: the next agent's move, executed. A word that is no instruction is the ILLINST row.
-/
namespace Sys2Proof.Machine

/-- One step: a message is delivered, a thread issues one instruction, or a cycle passes. -/
def step (s : State) : Host.Outcome State Fault Refusal :=
  match nextMove s with
  | .event e s => exec e.instr { s with now := some e }
  | .word i s => exec i s
  | .idle s => .next s

/-- The state with an instruction word placed where the next step fetches it (DESIGN CHOICE, unsafe: log entry 4). -/
def State.withFetchWord (s : State) (nbits w : Nat) : State := placeWord (BitVec.ofNat 32 (w % 2 ^ nbits)) s

end Sys2Proof.Machine
end

