-- ==== Sys2Proof/WellFormed.lean ====
section
/-!
DEFINITION. Well-formed instructions: those a word can encode. Instr.faults (Decode.lean) lists what is wrong with an
instruction's fields by the kinds of R45; an instruction with nothing wrong is well formed.
-/
namespace Sys2Proof

/-- An instruction a word can encode (R45): none of R46's static reasons applies. -/
def Instr.wellFormed (i : Instr) : Bool := i.faults.first == none

end Sys2Proof
end

