-- ==== Sys2Proof/Safety.lean ====
section
/-!
DEFINITION. The vocabulary of the statements: what a safe run is, the invariants of the state's tables, what an
instruction leaves unchanged, and the results the spec's tables give, written from the spec and not from the meanings.
-/
namespace Sys2Proof.Safety

open Sys2Proof.Machine

/-! ### Runs -/

/-- The step from a state answers a next state: the machine neither stops with a fault nor refuses. -/
def Goes (s : State) : Prop := ∃ t, step s = .next t

/-- n steps from a state all answer a next state. -/
def GoesFor : Nat → State → Prop
  | 0, _ => True
  | n + 1, s => ∃ t, step s = .next t ∧ GoesFor n t

/-! ### Invariants -/

/-- Memory is in its canonical form: addresses strictly rising, no entry a byte of value 0. -/
def MemOk (s : State) : Prop := s.mem.wf = true

/-- The tables of a context's queues and of an engine's operations are in canonical form. -/
def queuesOk (s : State) : Bool :=
  s.ctxs.all (fun x => Tab.wf [] x.2.pool && Tab.wf [] x.2.taskq && Tab.wf [] x.2.trace.queues) &&
  s.sqes.all (fun x => Tab.wf none x.2.ops && Tab.wf 0 x.2.gens)

/-- Every table of the state is in canonical form, memory among them: keys strictly rising, no entry a default. -/
def Canonical (s : State) : Prop :=
  MemOk s ∧ Tab.wf ({} : DramLine) s.dram = true ∧ Tab.wf ({} : WordMeta) s.words = true ∧ Tab.wf ({} : DirEntry) s.dir = true ∧
  Tab.wf ({} : Slot) s.slots = true ∧ Tab.wf ({} : Core) s.cores = true ∧ Tab.wf ({} : Cell) s.cells = true ∧
  Tab.wf ({} : Slice) s.slices = true ∧ Tab.wf ({} : Ctx) s.ctxs = true ∧ Tab.wf ({} : Sqe) s.sqes = true ∧
  Tab.wf ({} : Link) s.links = true ∧ Tab.wf (0 : Nat) s.inbound = true ∧ Tab.wf (0 : Nat) s.flits = true ∧
  queuesOk s = true

/-- Every slice holds lines of its own frames only, and DRAM's copy of a line differs from a slice's only where its own
slice holds the line modified (R520): so it is wherever each page lies in a frame of its colour (R93, R443). And only lines
of DRAM have update-only copies (R114). -/
def OwnFrames (s : State) : Prop :=
  (∀ home l m, (l, m) ∈ (sliceAt s home).lines → l * 32 < dramTop ∧ sliceOfPa (l * 32) = home) ∧
  (∀ l d, l * 32 < dramTop → (dramLine l, d) ∈ s.dram → (sliceAt s (sliceOfPa (l * 32))).lines.get false l = true) ∧
  ∀ x ∈ s.dir, dramTop ≤ x.1 * 32 → x.1 * 32 < altBase → x.2.uop = none

/-! ### The executing thread and what stays as it is -/

/-- The address of the last instruction word of the text space, where only a jump completes (R27). -/
def lastPc : BitVec 48 := BitVec.ofNat 48 (2 ^ 48 - 4)

/-- The thread th executes: it is ready in the slot that issues, and its word is not the last of the text space (R27). -/
def Executing (s : State) (th : Thread) : Prop :=
  threadAt s s.cur = some th ∧ th.form = .ready ∧ th.pc ≠ lastPc

/-- The thread after an instruction that completes without a jump, its registers aside: the PC has moved by 4, its
pass ends eight cycles after its issue, a suppressed comparator or migration is so no longer, it waits behind no store,
and a debugger's step is over (R27, R98, R127, R142, R475, R476). -/
def passed (s : State) (th : Thread) : Thread :=
  { th with pc := th.pc + 4, form := .ready, readyAt := Nat.max (th.issued + 8) s.cycle, noCmp := false, stay := false,
            inBlk := false, behind := [], dbgStep := if th.dbgStep = 1 then 2 else th.dbgStep }

/-- The same of a jump or taken branch to an address. -/
def jumped (s : State) (th : Thread) (target : BitVec 48) : Thread := { passed s th with pc := target }

/-- From s to t nothing changes but the thread in the executing slot, the lists of threads that wait on queues, and the
energy accounts: no other slot, no memory byte, no other part of any core, context, cell, slice, link or register of
the device. -/
structure Quiet (s t : State) : Prop where
  slots : ∀ p, p ≠ s.cur → slotAt t p = slotAt s p
  own : { slotAt t s.cur with occ := (slotAt s s.cur).occ } = slotAt s s.cur
  cores : ∀ c, { coreAt t c with qparked := (coreAt s c).qparked } = coreAt s c
  ctxs : ∀ n, { ctxAt t n with energyPj := (ctxAt s n).energyPj } = ctxAt s n
  rest : { t with slots := s.slots, cores := s.cores, ctxs := s.ctxs } = s
  bytes : ∀ a, rdByte t a = rdByte s a

/-- The same for an instruction that also changes some fields of cores, which put restores, and some other parts of the
state, which back restores: nothing else has changed. What happens to memory is said beside it. -/
structure Only (s t : State) (put : Core → Core → Core) (back : State → State → State) : Prop where
  slots : ∀ p, p ≠ s.cur → slotAt t p = slotAt s p
  own : { slotAt t s.cur with occ := (slotAt s s.cur).occ } = slotAt s s.cur
  cores : ∀ c, put (coreAt s c) { coreAt t c with qparked := (coreAt s c).qparked } = coreAt s c
  ctxs : ∀ n, { ctxAt t n with energyPj := (ctxAt s n).energyPj } = ctxAt s n
  rest : back s { t with slots := s.slots, cores := s.cores, ctxs := s.ctxs } = s

/-- The thread in the executing slot of s is th afterwards. -/
def Becomes (s t : State) (th : Thread) : Prop := threadAt t s.cur = some th

/-! ### Registers as operands (R37, R38) -/

/-- The value of a general register. -/
def val (th : Thread) (r : BitVec 5) : Word := (regOf th r.toNat).val

/-- A source that can be read at once: a general register, full, in one of the three modes (R32, R37). -/
def ReadyNow (th : Thread) (x : Src) : Prop := x.r < 28 ∧ x.m ≤ 2 ∧ (regOf th x.r).st = .full

/-- A destination that can be written at once: a general register, empty or full (R37). -/
def Writable (th : Thread) (d : Nat) : Prop := d < 28 ∧ ((regOf th d).st = .empty ∨ (regOf th d).st = .full)

/-- A register that some source field reads in mode take (R38). -/
def takes (ss : List Src) (r : Nat) : Bool := ss.any (fun x => x.r == r && x.m == 2)

/-- A register after its instruction has read it: a take leaves it empty (R37). -/
def afterRead (ss : List Src) (th : Thread) (r : Nat) : GReg :=
  if takes ss r = true then { st := .empty, val := (regOf th r).val } else regOf th r

/-- The thread's registers after an instruction with sources ss that writes v to d: d is full with v, the others as
their reads leave them (R37, R38). -/
def RegsAfter (ss : List Src) (d : Nat) (v : Word) (th th' : Thread) : Prop :=
  ∀ r, r < 28 → regOf th' r = if r = d then { st := .full, val := v } else afterRead ss th r

/-- The same of an instruction that writes no register. -/
def RegsRead (ss : List Src) (th th' : Thread) : Prop := ∀ r, r < 28 → regOf th' r = afterRead ss th r

/-- An instruction of thread th with register sources ss writes v to register d and completes: d is full with v, taken
registers are empty, the PC has moved on; every other register, mask, vector register, flag, special register and
binding of the thread is unchanged, and so is the rest of the machine, every byte of memory included. -/
def WritesReg (s t : State) (th : Thread) (ss : List Src) (d : Nat) (v : Word) : Prop :=
  ∃ th', Becomes s t th' ∧ RegsAfter ss d v th th' ∧ { th' with regs := th.regs } = passed s th ∧ Quiet s t

/-- An instruction that has been to a home completes with v in register d: the thread is otherwise as f leaves it, and no other
slot and no byte of memory has changed; a slice may have taken lines from DRAM (R520). -/
def ReadsHome (s t : State) (th : Thread) (ss : List Src) (d : Nat) (v : Word) (f : Thread → Thread) : Prop :=
  ∃ th', Becomes s t th' ∧ RegsAfter ss d v th th' ∧ { th' with regs := th.regs } = passed s (f th) ∧
    (∀ p, p ≠ s.cur → slotAt t p = slotAt s p) ∧ ∀ x, x < altBase → rdByte t x = rdByte s x

/-- An instruction completes and changes nothing of the thread but what f says and the registers it takes. -/
def ChangesThread (s t : State) (th : Thread) (ss : List Src) (f : Thread → Thread) : Prop :=
  ∃ th', Becomes s t th' ∧ RegsRead ss th th' ∧ { th' with regs := th.regs } = passed s (f th) ∧ Quiet s t

/-! ### The scalar tables of 06 -/

/-- The word of a truth value: 1 or 0. -/
def truth (b : Bool) : Word := if b = true then 1 else 0

/-- SignExt of a 13-bit immediate (R162). -/
def imm64 (i : BitVec 13) : Word := i.signExtend 64

/-- A word with its low k + 1 bits kept and the others copies of bit k, or zeros (R161). -/
def keepLow (signed : Bool) (a : Word) (k : Nat) : Word :=
  let m := BitVec.ofNat 64 (2 ^ (k + 1) - 1)
  if signed = true ∧ a.getLsbD k = true then a ||| ~~~m else a &&& m

/-- The bits of g from pos on, len of them, replaced by the low bits of a (R161). -/
def insertBits (g a : Word) (pos len : Nat) : Word :=
  let m := BitVec.ofNat 64 ((2 ^ len - 1) * 2 ^ pos)
  (g &&& ~~~m) ||| ((a <<< pos) &&& m)

/-- A word with its eight bytes in the other order (R161). -/
def swapBytes (a : Word) : Word :=
  BitVec.ofNat 64 ((List.range 8).foldl (fun x j => x + (a.extractLsb' (8 * j) 8).toNat * 2 ^ (8 * (7 - j))) 0)

/-- The number of leading elements of a list for which f does not hold. -/
def before (f : Nat → Bool) (l : List Nat) : Nat := (l.takeWhile (fun i => !f i)).length

/-- The table of R158: d, a, b, the modes of a and b, and the result as a function of A and B. -/
def twoSource : Instr → Option (BitVec 5 × BitVec 5 × BitVec 5 × BitVec 2 × BitVec 2 × (Word → Word → Word))
  | .add d a b ma mb => some (d, a, b, ma, mb, fun x y => x + y)
  | .sub d a b ma mb => some (d, a, b, ma, mb, fun x y => x - y)
  | .and d a b ma mb => some (d, a, b, ma, mb, fun x y => x &&& y)
  | .or d a b ma mb => some (d, a, b, ma, mb, fun x y => x ||| y)
  | .xor d a b ma mb => some (d, a, b, ma, mb, fun x y => x ^^^ y)
  | .andn d a b ma mb => some (d, a, b, ma, mb, fun x y => x &&& ~~~y)
  | .shl d a b ma mb => some (d, a, b, ma, mb, fun x y => BitVec.ofNat 64 (x.toNat * 2 ^ (y.toNat % 64)))
  | .shr d a b ma mb => some (d, a, b, ma, mb, fun x y => BitVec.ofNat 64 (x.toNat / 2 ^ (y.toNat % 64)))
  | .sra d a b ma mb => some (d, a, b, ma, mb, fun x y => BitVec.ofInt 64 (x.toInt / 2 ^ (y.toNat % 64)))
  | .rot d a b ma mb => some (d, a, b, ma, mb, fun x y =>
      let n := y.toNat % 64
      BitVec.ofNat 64 (x.toNat * 2 ^ n + x.toNat / 2 ^ (64 - n)))
  | .slt d a b ma mb => some (d, a, b, ma, mb, fun x y => truth (decide (x.toInt < y.toInt)))
  | .sltu d a b ma mb => some (d, a, b, ma, mb, fun x y => truth (decide (x.toNat < y.toNat)))
  | .seq d a b ma mb => some (d, a, b, ma, mb, fun x y => truth (decide (x = y)))
  | .min d a b ma mb => some (d, a, b, ma, mb, fun x y => BitVec.ofInt 64 (min x.toInt y.toInt))
  | .max d a b ma mb => some (d, a, b, ma, mb, fun x y => BitVec.ofInt 64 (max x.toInt y.toInt))
  | .minu d a b ma mb => some (d, a, b, ma, mb, fun x y => BitVec.ofNat 64 (min x.toNat y.toNat))
  | .maxu d a b ma mb => some (d, a, b, ma, mb, fun x y => BitVec.ofNat 64 (max x.toNat y.toNat))
  | .addw d a b ma mb => some (d, a, b, ma, mb, fun x y => ((x + y).setWidth 32).signExtend 64)
  | .subw d a b ma mb => some (d, a, b, ma, mb, fun x y => ((x - y).setWidth 32).signExtend 64)
  | _ => none

/-- The rows of R159 that complete in the pipeline pass. -/
def product : Instr → Option (BitVec 5 × BitVec 5 × BitVec 5 × BitVec 2 × BitVec 2 × (Word → Word → Word))
  | .mul d a b ma mb => some (d, a, b, ma, mb, fun x y => BitVec.ofNat 64 (x.toNat * y.toNat))
  | .mulh d a b ma mb => some (d, a, b, ma, mb, fun x y => BitVec.ofInt 64 (x.toInt * y.toInt / 2 ^ 64))
  | .mulhu d a b ma mb => some (d, a, b, ma, mb, fun x y => BitVec.ofNat 64 (x.toNat * y.toNat / 2 ^ 64))
  | _ => none

/-- The rows of R161 with two sources but bins. -/
def bitField : Instr → Option (BitVec 5 × BitVec 5 × BitVec 5 × BitVec 2 × BitVec 2 × (Word → Word → Word))
  | .bext d a b ma mb => some (d, a, b, ma, mb, fun x y =>
      BitVec.ofNat 64 (x.toNat / 2 ^ (y.toNat % 64) % 2 ^ (y.toNat / 256 % 64)))
  | .sext d a b ma mb => some (d, a, b, ma, mb, fun x y => keepLow true x (y.toNat % 64))
  | .zext d a b ma mb => some (d, a, b, ma, mb, fun x y => keepLow false x (y.toNat % 64))
  | _ => none

/-- R79: the quotient or remainder of a division from dividend and divisor. -/
def quotient : Instr → Option (BitVec 5 × BitVec 5 × BitVec 5 × BitVec 2 × BitVec 2 × (Word → Word → Word))
  | .div d a b ma mb => some (d, a, b, ma, mb, fun x y => if y = 0 then 0 else BitVec.ofInt 64 (x.toInt.tdiv y.toInt))
  | .divu d a b ma mb => some (d, a, b, ma, mb, fun x y => if y = 0 then 0 else BitVec.ofNat 64 (x.toNat / y.toNat))
  | .rem d a b ma mb => some (d, a, b, ma, mb, fun x y => if y = 0 then x else BitVec.ofInt 64 (x.toInt.tmod y.toInt))
  | .remu d a b ma mb => some (d, a, b, ma, mb, fun x y => if y = 0 then x else BitVec.ofNat 64 (x.toNat % y.toNat))
  | _ => none

/-- R161 to R163: the result of an instruction with one register source. -/
def oneSource : Instr → Option (BitVec 5 × BitVec 5 × BitVec 2 × (Word → Word))
  | .clz d a ma => some (d, a, ma, fun x => BitVec.ofNat 64 (before x.getLsbD (List.range 64).reverse))
  | .ctz d a ma => some (d, a, ma, fun x => BitVec.ofNat 64 (before x.getLsbD (List.range 64)))
  | .popc d a ma => some (d, a, ma, fun x => BitVec.ofNat 64 ((List.range 64).countP x.getLsbD))
  | .bswap d a ma => some (d, a, ma, swapBytes)
  | .addi d a ma i => some (d, a, ma, fun x => x + imm64 i)
  | .andi d a ma i => some (d, a, ma, fun x => x &&& imm64 i)
  | .ori d a ma i => some (d, a, ma, fun x => x ||| imm64 i)
  | .xori d a ma i => some (d, a, ma, fun x => x ^^^ imm64 i)
  | .slti d a ma i => some (d, a, ma, fun x => truth (decide (x.toInt < (imm64 i).toInt)))
  | .sltiu d a ma i => some (d, a, ma, fun x => truth (decide (x.toNat < (imm64 i).toNat)))
  | .shli d a ma n => some (d, a, ma, fun x => BitVec.ofNat 64 (x.toNat * 2 ^ n.toNat))
  | .shri d a ma n => some (d, a, ma, fun x => BitVec.ofNat 64 (x.toNat / 2 ^ n.toNat))
  | .srai d a ma n => some (d, a, ma, fun x => BitVec.ofInt 64 (x.toInt / 2 ^ n.toNat))
  | .roti d a ma n => some (d, a, ma, fun x => BitVec.ofNat 64 (x.toNat * 2 ^ n.toNat + x.toNat / 2 ^ (64 - n.toNat)))
  | _ => none

/-- A mask register; k0 reads as all ones (R34). -/
def mask (th : Thread) (k : BitVec 2) : BitVec 16 :=
  if k = 1 then th.k1 else if k = 2 then th.k2 else if k = 3 then th.k3 else BitVec.allOnes 16

/-- The thread with a mask written; no word writes k0 (R36). -/
def withMask (k : BitVec 2) (v : BitVec 16) (th : Thread) : Thread :=
  if k = 1 then { th with k1 := v } else if k = 2 then { th with k2 := v } else if k = 3 then { th with k3 := v } else th

/-- R164, R167: the result of an instruction without register sources that writes a general register. -/
def noSource : Instr → Option (BitVec 5 × (Thread → Word))
  | .lui d i => some (d, fun _ => BitVec.ofInt 64 (i.toInt * 4096))
  | .auipc d i => some (d, fun th => BitVec.ofInt 64 (th.pc.toNat + i.toInt * 4096))
  | .kmovk d a => some (d, fun th => (mask th a).zeroExtend 64)
  | .kpop d a => some (d, fun th => BitVec.ofNat 64 ((List.range 16).countP (mask th a).getLsbD))
  | .kfirst d a => some (d, fun th => BitVec.ofNat 64 (before (mask th a).getLsbD (List.range 16)))
  | _ => none

/-- R167: the result of an instruction that writes a mask from masks. -/
def maskResult : Instr → Option (BitVec 2 × (Thread → BitVec 16))
  | .kand d a b => some (d, fun th => mask th a &&& mask th b)
  | .kor d a b => some (d, fun th => mask th a ||| mask th b)
  | .kxor d a b => some (d, fun th => mask th a ^^^ mask th b)
  | .knot d a => some (d, fun th => ~~~(mask th a))
  | _ => none

/-- R166: the register sources of a branch, its offset field, and whether it is taken for their values. -/
def branchOn : Instr → Option (List (BitVec 5) × BitVec 12 × (List Word → Bool))
  | .beq a b off => some ([a, b], off, fun vs => decide (vs[0]? = vs[1]?))
  | .bne a b off => some ([a, b], off, fun vs => decide (vs[0]? ≠ vs[1]?))
  | .blt a b off => some ([a, b], off, fun vs => decide ((vs[0]?.getD 0).toInt < (vs[1]?.getD 0).toInt))
  | .bge a b off => some ([a, b], off, fun vs => decide ((vs[0]?.getD 0).toInt ≥ (vs[1]?.getD 0).toInt))
  | .bltu a b off => some ([a, b], off, fun vs => decide ((vs[0]?.getD 0).toNat < (vs[1]?.getD 0).toNat))
  | .bgeu a b off => some ([a, b], off, fun vs => decide ((vs[0]?.getD 0).toNat ≥ (vs[1]?.getD 0).toNat))
  | .beqz a off => some ([a], off, fun vs => decide (vs[0]? = some 0))
  | .bnez a off => some ([a], off, fun vs => decide (vs[0]? ≠ some 0))
  | _ => none

/-- The register sources and the destination of the scalar instructions that compute one result (R158 to R164, R167). -/
def regForm (i : Instr) : Option (List Src × Nat) :=
  match twoSource i, product i, bitField i, quotient i, oneSource i, noSource i with
  | some (d, a, b, ma, mb, _), _, _, _, _, _ => some ([src a ma, src b mb], d.toNat)
  | _, some (d, a, b, ma, mb, _), _, _, _, _ => some ([src a ma, src b mb], d.toNat)
  | _, _, some (d, a, b, ma, mb, _), _, _, _ => some ([src a ma, src b mb], d.toNat)
  | _, _, _, some (d, a, b, ma, mb, _), _, _ => some ([src a ma, src b mb], d.toNat)
  | _, _, _, _, some (d, a, ma, _), _ => some ([src a ma], d.toNat)
  | _, _, _, _, _, some (d, _) => some ([], d.toNat)
  | _, _, _, _, _, _ => none

/-- The registers an instruction's fields name, sources in field order, then the destination (R48 step 4). -/
def named (ss : List Src) (d : Nat) : List Nat := ss.map (fun x => x.r) ++ [d]

/-- The strongest mode of the fields that name a register (R38). -/
def strongest (ss : List Src) (r : Nat) : Nat := ((ss.filter (fun x => x.r == r)).map (fun x => x.m)).foldl max 0

/-- The first register of a list that has a property. -/
def FirstIn (l : List Nat) (P : Nat → Prop) (r : Nat) : Prop :=
  ∃ pre post, l = pre ++ r :: post ∧ P r ∧ ∀ x ∈ pre, ¬ P x

/-- A jump target in rule: a multiple of 4 in the lowest 2 ^ 48 bytes (R27). -/
def GoodTarget (x : Int) : Prop := 0 ≤ x ∧ x < 2 ^ 48 ∧ x % 4 = 0

/-! ### Faults (R10, R418) -/

/-- The fault a thread raises at its own instruction: cause, info and address, restarting there (R10, R417, R418). -/
def trapOf (s : State) (th : Thread) (c : Cause) (info addr : Word) : Trap :=
  { cause := c, info := info, addr := addr, restart := th.pc, word := faultWord s, cycle := s.cycle }

/-- The executing thread raises a fault: it stops issuing, its delivery is on its way (R419), and nothing else has
changed: no register, no other thread, no byte of memory. -/
def Raises (s t : State) (th : Thread) (tr : Trap) : Prop :=
  ∃ u, Quiet s u ∧ Becomes s u { th with form := .trapping tr, noCmp := false, stay := false, inBlk := false, behind := [] } ∧
    t = { u with agenda := u.agenda ++ [⟨.trapDelivery s.cur, none⟩] } ∧ ∀ a, rdByte t a = rdByte s a

/-- The executing thread raises a register's held fault: the register goes to E, the fault is the producer's with the
producer's PC, and the restart point is the consumer (R37, R175). -/
def RaisesHeld (s t : State) (th : Thread) (r : Nat) (f : HeldFault) : Prop :=
  ∃ u, Quiet s u ∧ Becomes s u
      { setReg r { regOf th r with st := .empty, held := none } th with
        form := .trapping { cause := f.cause, info := f.info, addr := f.addr, restart := th.pc, word := faultWord s,
                            producer := some f.pc, cycle := s.cycle },
        noCmp := false, stay := false, inBlk := false, behind := [] } ∧
    t = { u with agenda := u.agenda ++ [⟨.trapDelivery s.cur, none⟩] } ∧ ∀ a, rdByte t a = rdByte s a

/-- No wake is latched, or the instruction is still in its pass, at whose end the latch is looked at (R129, R138). -/
def NoWake (s : State) (th : Thread) : Prop := (slotAt s s.cur).latch = none ∨ s.cycle < th.issued + 8

/-- The thread parked (R10, R129). -/
def parkedBy (s : State) (th : Thread) (p : Park) : Thread := { th with form := .parked p, parkT := s.time8, behind := [] }

/-- The executing thread parks: nothing else has changed (R10, R129). -/
def Parks (s t : State) (th : Thread) (p : Park) : Prop := Quiet s t ∧ Becomes s t (parkedBy s th p)

/-! ### Memory accesses (06, 08) -/

/-- The address of a load or store: A + SignExt(off8) × size (R168). -/
def effAddr (a : Word) (off : BitVec 8) (size : Nat) : Word := a + BitVec.ofInt 64 (off.toInt * size)

/-- The value of loaded bytes, sign- or zero-extended (R170). -/
def extended (signed : Bool) (bs : List Byte) : Word :=
  if signed = true then (if 2 * leNat bs < 256 ^ bs.length then BitVec.ofNat 64 (leNat bs)
    else BitVec.ofInt 64 ((leNat bs : Int) - 256 ^ bs.length))
  else BitVec.ofNat 64 (leNat bs)

/-- Byte i of a value. -/
def byteOf (v i : Nat) : Byte := BitVec.ofNat 8 (v / 256 ^ i)

/-- Memory after a store of the size low bytes of v at pa, every other byte as before. -/
def StoresBytes (s t : State) (pa size v : Nat) : Prop :=
  ∀ x, rdByte t x = if pa ≤ x ∧ x < pa + size then byteOf v (x - pa) else rdByte s x

/-- The same for every byte at its own home: what a slice holds of a frame of another slice's (R93) is not spoken of, nor
what a peer device's bytes read as, which is not the machine's (DESIGN CHOICE, safe: log entry 5). -/
def StoresHere (s t : State) (pa size v : Nat) : Prop :=
  ∀ x, x < altBase → rdByte t x = if pa ≤ x ∧ x < pa + size then byteOf v (x - pa) else rdByte s x

/-- Every byte at its own home is as before. -/
def KeepsBytes (s t : State) : Prop := ∀ x, x < altBase → rdByte t x = rdByte s x

/-- A place in the executing core's own scratchpad. -/
def Local (s : State) (pa : Nat) : Prop := isSpad pa = true ∧ spadCore pa = s.cur / 16

/-- A line that an access at its home need not wait for: no tile holds it, no update-only copy, no copy of the host; what its
slice replaces to take it stands at its own home. -/
def PlainLine (s : State) (home line : Nat) : Prop :=
  tileAt s home line = none ∧ (dirAt s line).uop = none ∧ (dirAt s line).host = false ∧ OwnFrames s

/-- No request for a line, or for the tile it belongs to, waits at its home or has been woken before this one (R255). -/
def NoneBefore (s : State) (home line : Nat) : Prop :=
  (∀ f ∈ s.held, f.chan ≠ some (lineChan s home line)) ∧ ∀ f ∈ s.agenda, f.chan ≠ some (lineChan s home line)

/-- No queued store of a core to a line entered its queue before the request w (R98). -/
def NoneQueued (s : State) (core line : Nat) (w : WriteReq) : Prop :=
  ∀ x ∈ (coreAt s core).sq, x.touches line = true →
    ∀ y ∈ (coreAt s core).sq, y.req = some w → y.id ≤ x.id

/-- The operations of amo and red on values of their size (R221): integers of 8 bytes, FP32 codes of 4. -/
def opResult (op : AmoOp) (old x : Word) : Word :=
  match op with
  | .add => old + x
  | .and => old &&& x
  | .or => old ||| x
  | .xor => old ^^^ x
  | .min => BitVec.ofInt 64 (min old.toInt x.toInt)
  | .max => BitVec.ofInt 64 (max old.toInt x.toInt)
  | .minu => BitVec.ofNat 64 (min old.toNat x.toNat)
  | .maxu => BitVec.ofNat 64 (max old.toNat x.toNat)
  | .swap => x
  | op => BitVec.ofNat 64 (fp32Op op (old.toNat % 2 ^ 32) (x.toNat % 2 ^ 32))

/-- The bytes an operation acts on (R221). -/
def opSize (op : AmoOp) : Nat :=
  match op with
  | .fadd | .fmin | .fmax => 4
  | _ => 8

/-- The rows of R222: operation, d, a, b, scope and order. -/
def amoRow : Instr → Option (AmoOp × BitVec 5 × BitVec 5 × BitVec 5 × BitVec 2)
  | .amoAdd d a b _ mo => some (.add, d, a, b, mo)
  | .amoAnd d a b _ mo => some (.and, d, a, b, mo)
  | .amoOr d a b _ mo => some (.or, d, a, b, mo)
  | .amoXor d a b _ mo => some (.xor, d, a, b, mo)
  | .amoMin d a b _ mo => some (.min, d, a, b, mo)
  | .amoMax d a b _ mo => some (.max, d, a, b, mo)
  | .amoMinu d a b _ mo => some (.minu, d, a, b, mo)
  | .amoMaxu d a b _ mo => some (.maxu, d, a, b, mo)
  | .amoSwap d a b _ mo => some (.swap, d, a, b, mo)
  | .amoFadd d a b _ mo => some (.fadd, d, a, b, mo)
  | .amoFmin d a b _ mo => some (.fmin, d, a, b, mo)
  | .amoFmax d a b _ mo => some (.fmax, d, a, b, mo)
  | _ => none

/-- The rows of R223: size, d, a, b and order. -/
def casRow : Instr → Option (Nat × BitVec 5 × BitVec 5 × BitVec 5 × BitVec 2)
  | .casW d a b _ mo => some (4, d, a, b, mo)
  | .casD d a b _ mo => some (8, d, a, b, mo)
  | _ => none

/-- The rows of R225: operation, a and b. -/
def redRow : Instr → Option (AmoOp × BitVec 5 × BitVec 5)
  | .redAdd a b _ => some (.add, a, b)
  | .redAnd a b _ => some (.and, a, b)
  | .redOr a b _ => some (.or, a, b)
  | .redXor a b _ => some (.xor, a, b)
  | .redMin a b _ => some (.min, a, b)
  | .redMax a b _ => some (.max, a, b)
  | .redMinu a b _ => some (.minu, a, b)
  | .redMaxu a b _ => some (.maxu, a, b)
  | .redFadd a b _ => some (.fadd, a, b)
  | .redFmin a b _ => some (.fmin, a, b)
  | .redFmax a b _ => some (.fmax, a, b)
  | _ => none

/-- A posted producer has issued: d is pending with its value kept, the instruction has completed, and the thread is
otherwise as f leaves it (R37, R39). -/
def Posts (s t : State) (th : Thread) (d : Nat) (f : Thread → Thread) : Prop :=
  ∃ th', Becomes s t th' ∧ { th' with regs := th.regs } = passed s (f th) ∧
    ∀ r, r < 28 → regOf th' r = if r = d then { regOf th r with st := .pending, held := none } else regOf th r

/-- The executing thread's name in messages (R130). -/
def named_ (s : State) (th : Thread) : Thr := ⟨s.cur, th.ctx, th.tid⟩

/-- A request half of an atomic has entered the executing core's store queue with no data of its own, and is on its way
to its home when no earlier entry of its thread is in the queue (R100, R224). -/
def Queued (s t : State) (th : Thread) (va : Word) (req : WriteReq) : Prop :=
  ∃ e ∈ (coreAt t (s.cur / 16)).sq, e.id = (coreAt s (s.cur / 16)).sqId ∧ e.th = named_ s th ∧ e.va = va ∧
    e.cells = [] ∧ e.req = some req ∧
    (sqOf s (s.cur / 16) (named_ s th) = [] → e.sent = true ∧
      ⟨.homeWrite req, some (s.cur / 16, homeUnit e.home)⟩ ∈ t.agenda)

/-- A load in flight with one element missing (R172). -/
def oneLoad (dest : LoadDest) (e : Elem) (since : Nat) : LoadWait := { dest := dest, missing := [e], since := since }

/-- The read request that the executing thread's core numbers next (R95, R98, R109). -/
def readReq (s : State) (th : Thread) (va : Word) (pa : Nat) (kind : ReadKind) (stamp : Nat) (behind : List Nat) : ReadReq :=
  { th := named_ s th, core := s.cur / 16, va := va, pa := pa, kind := kind, stamp := stamp,
    id := (coreAt s (s.cur / 16)).reqId + 1, priv := privOf th, behind := behind }

/-! ### Full/empty words (08) -/

/-- The executing thread's access is performed at a word of its own scratchpad: its checks pass with place e. -/
def AtLocalWord (s : State) (k : Acc) (data : Bool) (va : Word) (size : Nat) (e : Elem) : Prop :=
  plan k data false [(0, va, size)] s = .go [e] ∧ Local s e.pa ∧ (region e.va = .paged → xlatFind s e.va.toNat = none)

/-- What an access to a word leaves in the thread: an acquire and a read raise the merge floor, and a read uses the no-merge mark
up (R104, R110). -/
def afterHome (acq reads : Bool) (s : State) (th : Thread) : Thread :=
  { th with floor := if acq = true ∨ reads = true then s.time8 else th.floor, noMerge := th.noMerge && !reads }

/-- The waiter a settled word serves: the oldest whose condition holds (R206). -/
def nextWaiter (fe : Bool) (q : List WordWait) : Option WordWait := q.find? (fun x => fe != x.isS)

/-- The monitors of a word have fired and its overflow is on its way (R207, R210, R219). -/
def Fired (t : State) (m : WordMeta) : Prop :=
  (∀ x ∈ m.mons, ⟨.wakeAtSlot x.th (hwMsg 3 (fld x.va 0 56)), none⟩ ∈ t.agenda) ∧
  (m.w = true → ∃ slice w, ⟨.waitovf slice w m.wva, none⟩ ∈ t.agenda)

/-- A word after an event that set its bit to fe and left it no reservation: settled (R206). -/
def Settled (s t : State) (w : Nat) (fe : Bool) (m : WordMeta) : Prop :=
  wordAt t w = (match nextWaiter fe m.queue with
    | none => { m with fe := fe, resv := none }
    | some q => { m with fe := fe, queue := m.queue.erase q, resv := some ⟨q.th, q.va, tick s, q.time⟩ }) ∧
  ∀ q, nextWaiter fe m.queue = some q →
    ⟨.wakeAtSlot q.th (hwMsg (if q.isS = true then 2 else 1) (fld q.va 0 56)), none⟩ ∈ t.agenda

/-- A word that a write has touched: its monitors are gone and its overflow mark is clear (R207, R210, R219). -/
def touched (m : WordMeta) : WordMeta := if m.mons = [] ∧ m.w = false then m else { m with mons := [], w := false, wva := 0 }

/-- A thread may take the next turn at a word: nobody has reserved it, or the thread itself (R206). -/
def FreeFor (m : WordMeta) (th : Thread) : Prop := ∀ r, m.resv = some r → r.th.tid = th.tid ∧ r.th.ctx = th.ctx

/-- The thread has no registration in a slice's wait table (R209). -/
def Unregistered (s : State) (slice : Nat) (th : Thread) : Prop :=
  ∀ x ∈ s.words, x.2.slice = slice →
    (∀ q ∈ x.2.queue, ¬ (q.th.tid = th.tid ∧ q.th.ctx = th.ctx)) ∧
    (∀ r, x.2.resv = some r → ¬ (r.th.tid = th.tid ∧ r.th.ctx = th.ctx)) ∧
    ∀ q ∈ x.2.mons, ¬ (q.th.tid = th.tid ∧ q.th.ctx = th.ctx)

/-- The instructions performed at a word's home: the operation, d, a, the size, the offset and the order, and whether d is a
source (R214 to R219). -/
def wordRow : Instr → Option (FeOp × BitVec 5 × BitVec 5 × Nat × BitVec 8 × BitVec 2)
  | .ldsync d a sz _ mo off => some (.ldsync, d, a, 2 ^ sz.toNat, off, mo)
  | .stsync d a sz _ mo off => some (.stsync, d, a, 2 ^ sz.toNat, off, mo)
  | .feclr a _ mo off => some (.feclr, 0, a, 8, off, mo)
  | .feset a _ mo off => some (.feset, 0, a, 8, off, mo)
  | .feprobe d a _ mo off => some (.feprobe, d, a, 8, off, mo)
  | .ldmon d a sz _ mo off => some (.ldmon, d, a, 2 ^ sz.toNat, off, mo)
  | _ => none

/-- The word feprobe reads (R218). -/
def probed (m : WordMeta) : Word :=
  BitVec.ofNat 64 (b2n m.fe + 2 * b2n (m.queue != []) + 4 * b2n m.resv.isSome + 8 * b2n (m.mons != []) + 16 * b2n m.w)

/-- The replay log of a slice is off (R479). -/
def NoLog (s : State) (slice : Nat) : Prop := fld (sliceAt s slice).replay1 32 1 = 0

/-! ### Vectors (07) -/

/-- Every vector register named is in the core's visible set (R35). -/
def Visible (s : State) (rs : List (BitVec 5)) : Prop := ∀ r ∈ rs, r.toNat < 128 / (coreAt s (s.cur / 16)).part

/-- The width of an element type (R181). -/
def width (t : BitVec 3) : Nat :=
  if t = 0 ∨ t = 7 then 8 else if t = 1 ∨ t = 4 ∨ t = 5 then 16 else if t = 2 ∨ t = 6 then 32 else 64

/-- Element e of width w of a vector register. -/
def elem (v : Vec) (w e : Nat) : Nat := v.toNat / 2 ^ (w * e) % 2 ^ w

/-- A vector register. -/
def vreg (th : Thread) (r : BitVec 5) : Vec := th.vecs[r.toNat]?.getD 0

/-- En(e): the mask bit of the element's lane (R182). -/
def on (m : BitVec 16) (w e : Nat) : Bool := m.getLsbD (w * e / 32)

/-- Two's complement value of the low w bits. -/
def signedOf (w x : Nat) : Int := if x % 2 ^ w < 2 ^ (w - 1) then (x % 2 ^ w : Nat) else (x % 2 ^ w : Nat) - 2 ^ w

/-- The residue of an integer modulo 2 ^ w. -/
def modTo (w : Nat) (x : Int) : Nat := (x % 2 ^ w).toNat

/-- R187 to R189, R191, R192: an instruction that writes vector register d from vector registers: d, the others it names,
the mask field, the type, whether every element is written whatever the mask says, and element e from the mask and the
elements of V[a], V[b] and V[d]. -/
def vecRow : Instr → Option (BitVec 5 × List (BitVec 5) × BitVec 2 × BitVec 3 × Bool × (BitVec 5 × BitVec 5) ×
    (BitVec 16 → (Nat → Nat) → (Nat → Nat) → (Nat → Nat) → Nat → Nat))
  | .vadd d a b k t => some (d, [a, b], k, t, false, (a, b), fun _ A B _ e => A e + B e)
  | .vsub d a b k t => some (d, [a, b], k, t, false, (a, b), fun _ A B _ e => A e + (2 ^ width t - B e))
  | .vmul d a b k t => some (d, [a, b], k, t, false, (a, b), fun _ A B _ e => A e * B e)
  | .vmulh d a b k t => some (d, [a, b], k, t, false, (a, b), fun _ A B _ e =>
      modTo (width t) (signedOf (width t) (A e) * signedOf (width t) (B e) / 2 ^ width t))
  | .vmin d a b k t => some (d, [a, b], k, t, false, (a, b), fun _ A B _ e =>
      modTo (width t) (min (signedOf (width t) (A e)) (signedOf (width t) (B e))))
  | .vmax d a b k t => some (d, [a, b], k, t, false, (a, b), fun _ A B _ e =>
      modTo (width t) (max (signedOf (width t) (A e)) (signedOf (width t) (B e))))
  | .vminu d a b k t => some (d, [a, b], k, t, false, (a, b), fun _ A B _ e => min (A e) (B e))
  | .vmaxu d a b k t => some (d, [a, b], k, t, false, (a, b), fun _ A B _ e => max (A e) (B e))
  | .vabs d a k t => some (d, [a], k, t, false, (a, a), fun _ A _ _ e => (signedOf (width t) (A e)).natAbs)
  | .vmac d a b k t => some (d, [a, b], k, t, false, (a, b), fun _ A B D e => D e + A e * B e)
  | .vand d a b k t => some (d, [a, b], k, t, false, (a, b), fun _ A B _ e => A e &&& B e)
  | .vor d a b k t => some (d, [a, b], k, t, false, (a, b), fun _ A B _ e => A e ||| B e)
  | .vxor d a b k t => some (d, [a, b], k, t, false, (a, b), fun _ A B _ e => A e ^^^ B e)
  | .vnot d a k t => some (d, [a], k, t, false, (a, a), fun _ A _ _ e => 2 ^ width t - 1 - A e)
  | .vshl d a b k t => some (d, [a, b], k, t, false, (a, b), fun _ A B _ e => A e * 2 ^ (B e % width t))
  | .vshr d a b k t => some (d, [a, b], k, t, false, (a, b), fun _ A B _ e => A e / 2 ^ (B e % width t))
  | .vsra d a b k t => some (d, [a, b], k, t, false, (a, b), fun _ A B _ e =>
      modTo (width t) (signedOf (width t) (A e) / 2 ^ (B e % width t)))
  | .vfabs d a k t => some (d, [a], k, t, false, (a, a), fun _ A _ _ e => A e % 2 ^ (width t - 1))
  | .vfneg d a k t => some (d, [a], k, t, false, (a, a), fun _ A _ _ e => A e + 2 ^ (width t - 1))
  | .vsel d a b k t => some (d, [a, b], k, t, true, (a, b), fun m A B _ e => if on m (width t) e = true then A e else B e)
  | .vperm d a b k t => some (d, [a, b], k, t, false, (a, b), fun _ A B _ e => A (B e % (512 / width t)))
  | .vcompress d a k t => some (d, [a], k, t, true, (a, a), fun m A _ _ e =>
      (((List.range (512 / width t)).filter (on m (width t)))[e]?.map A).getD 0)
  | .vexpand d a k t => some (d, [a], k, t, false, (a, a), fun m A _ _ e =>
      A (((List.range e).filter (on m (width t))).length))
  | _ => none

/-- The thread after an instruction that has written vector register d: VL is set, the other vector registers and
everything else are as before (R185). -/
def VecOnly (s : State) (th th' : Thread) (d : Nat) (f : Thread → Thread) : Prop :=
  { th' with vecs := th.vecs } = passed s (f { th with status := setFld th.status 4 1 1 }) ∧
  ∀ r, r < 32 → r ≠ d → th'.vecs[r]? = th.vecs[r]?

/-- R188: the exact result of a floating-point operation on the elements' values, before its one rounding: d, the
registers read, the mask, the type, whether the iterative unit is used, the result in a rounding mode. -/
def floatRow : Instr → Option (BitVec 5 × List (BitVec 5) × BitVec 2 × BitVec 3 × Bool × (Nat → List FVal → Exact))
  | .vfadd d a b k t => some (d, [a, b], k, t, false, fun m vs => fAdd m (val0 vs) (val1 vs))
  | .vfsub d a b k t => some (d, [a, b], k, t, false, fun m vs => fSub m (val0 vs) (val1 vs))
  | .vfmul d a b k t => some (d, [a, b], k, t, false, fun _ vs => fMul (val0 vs) (val1 vs))
  | .vfma d a b k t => some (d, [a, b, d], k, t, false, fun m vs => fMa m (val0 vs) (val1 vs) (val2 vs))
  | .vfmin d a b k t => some (d, [a, b], k, t, false, fun _ vs => fMinMax false (val0 vs) (val1 vs))
  | .vfmax d a b k t => some (d, [a, b], k, t, false, fun _ vs => fMinMax true (val0 vs) (val1 vs))
  | .vfrcp d a k t => some (d, [a], k, t, true, fun _ vs => fRcp (val0 vs))
  | .vfrsq d a k t => some (d, [a], k, t, true, fun _ vs => fRsq (val0 vs))
  | .vfdiv d a b k t => some (d, [a, b], k, t, true, fun _ vs => fDiv (val0 vs) (val1 vs))
  | .vfsqrt d a k t => some (d, [a], k, t, true, fun _ vs => fSqrt (val0 vs))
  | _ => none

/-- The format of a floating-point element type (R181). -/
def fmtOf (t : BitVec 3) : FFmt := if t = 4 then fp16 else if t = 5 then bf16 else fp32

/-- The flags that some elements report together (R75). -/
def allFlags (es : List Nat) (res : Nat → Nat × Fl × Bool) : Fl := es.foldl (fun f e => f ||| (res e).2.1) 0

/-- The state of the thread and of its core's units after a floating-point instruction (R74, R78, R185, R186): the
thread as T, its flags reported, goes on, or waits in flight while it uses the normaliser (norm) or the iterative unit
(iter), queued there in the core's issue order. A lone use of the normaliser starts at its pass's end (DEDUCED, unsafe: log
entry 80). -/
def UsesUnits (s u : State) (T th' : Thread) (norm iter : Bool) : Prop :=
  let c := coreAt s (s.cur / 16)
  th' = (if norm = true ∨ iter = true then { T with form := .inFlight .unit } else passed s T) ∧
  (coreAt u (s.cur / 16)).normq = (if norm = true then c.normq ++ [⟨s.cur, T.ctx, T.tid⟩] else c.normq) ∧
  (coreAt u (s.cur / 16)).iterq = (if iter = true then c.iterq ++ [⟨s.cur, T.ctx, T.tid⟩] else c.iterq) ∧
  u.timers = s.timers ++ (if norm = true ∧ c.normq = [] then [(s.time8 + 10 * ((T.issued + 8 - s.cycle) + 4), .normaliserDone (s.cur / 16))] else []) ++
    (if iter = true ∧ c.iterq = [] then [(s.time8 + 120, .iterativeUnitDone (s.cur / 16))] else []) ∧
  Only s u (fun old new => { new with normq := old.normq, iterq := old.iterq })
    (fun old new => { new with timers := old.timers }) ∧ ∀ x, rdByte u x = rdByte s x

/-- A floating-point instruction has written elements es, of width w, of vector register d with the codes res gives,
reported the elements' flags and used the units it needs; every other element is as before. -/
def FloatWrites (s u : State) (th : Thread) (d : BitVec 5) (w : Nat) (es : List Nat) (res : Nat → Nat × Fl × Bool)
    (iter : Bool) : Prop :=
  ∃ th' v, Becomes s u th' ∧
    (∀ e, e < 512 / w → elem v w e = if e ∈ es then (res e).1 % 2 ^ w else elem (vreg th d) w e) ∧
    UsesUnits s u { th with vecs := th.vecs.setIfInBounds d.toNat v, status := setFld th.status 4 1 1,
                            fstat := th.fstat ||| ((allFlags es res).zeroExtend 64 <<< 8) } th'
      (es.any (fun e => (res e).2.2)) iter

/-- The enabled elements of width w. -/
def onList (m : BitVec 16) (w : Nat) : List Nat := (List.range (512 / w)).filter (on m w)

/-- R75, R188: one element of a floating-point operation: the exact result of the inputs' values rounded once in the
thread's mode, the flags, and whether an input or the result is subnormal (R78). -/
def roundOnce (f : FFmt) (mode : Nat) (ins : List Nat) (op : Nat → List FVal → Exact) : Nat × Fl × Bool :=
  let r := (op mode (ins.map (fdec f))).round f mode
  (r.1, r.2, ins.any (isSubnormal f) || isSubnormal f r.1)

/-- R190: the integer compares: mask d, a, b, the mask field, the type, the comparison. -/
def compareRow : Instr → Option (BitVec 2 × BitVec 5 × BitVec 5 × BitVec 2 × BitVec 3 × (Nat → Nat → Bool))
  | .vcmpEq d a b k t => some (d, a, b, k, t, fun x y => decide (x = y))
  | .vcmpLt d a b k t => some (d, a, b, k, t, fun x y => decide (signedOf (width t) x < signedOf (width t) y))
  | .vcmpLtu d a b k t => some (d, a, b, k, t, fun x y => decide (x < y))
  | _ => none

/-- R190: the floating-point compares, by the kind of test. -/
def floatCompareRow : Instr → Option (BitVec 2 × BitVec 5 × BitVec 5 × BitVec 2 × BitVec 3 × Nat)
  | .vfcmpEq d a b k t => some (d, a, b, k, t, 0)
  | .vfcmpLt d a b k t => some (d, a, b, k, t, 1)
  | .vfcmpLe d a b k t => some (d, a, b, k, t, 2)
  | .vfcmpUn d a b k t => some (d, a, b, k, t, 3)
  | _ => none

/-- Whether lane i of a compare's mask is 1: every element in it is enabled and its comparison holds (R190). -/
def laneHolds (m : BitVec 16) (w : Nat) (f : Nat → Bool) (i : Nat) : Bool :=
  (List.range (512 / w)).all (fun e => !(decide (32 * i < w * (e + 1)) && decide (w * e < 32 * (i + 1))) || (on m w e && f e))

/-- R193: the reductions into a general register from the enabled elements in order. -/
def reduceRow : Instr → Option (BitVec 5 × BitVec 5 × BitVec 2 × BitVec 3 × (List Nat → Word))
  | .vredadd d a k t => some (d, a, k, t, fun xs => BitVec.ofInt 64 ((xs.map (signedOf (width t))).sum))
  | .vredmin d a k t => some (d, a, k, t, fun xs =>
      BitVec.ofInt 64 ((xs.map (signedOf (width t))).foldl min (2 ^ (width t - 1) - 1)))
  | .vredmax d a k t => some (d, a, k, t, fun xs =>
      BitVec.ofInt 64 ((xs.map (signedOf (width t))).foldl max (-2 ^ (width t - 1))))
  | _ => none

/-- The enabled elements of a register, in order. -/
def onElems (m : BitVec 16) (w : Nat) (v : Vec) : List Nat :=
  ((List.range (512 / w)).filter (on m w)).map (elem v w)

/-- R198: the vector loads: d, the register sources, the vector register of indexes, the mask, the type, and the address
of element e. -/
def vecLoadRow : Instr → Option (BitVec 5 × List (BitVec 5) × List (BitVec 5) × BitVec 2 × BitVec 3 × (Thread → Nat → Word))
  | .vld d a k t => some (d, [a], [], k, t, fun th e => val th a + BitVec.ofNat 64 (e * (width t / 8)))
  | .vlds d a b k t => some (d, [a, b], [], k, t, fun th e => val th a + BitVec.ofNat 64 e * val th b)
  | .vldx d a b k t => some (d, [a], [b], k, t, fun th e =>
      val th a + BitVec.ofInt 64 (signedOf 32 (elem (vreg th b) 32 (width t * e / 32)) * (width t / 8 : Nat)))
  | _ => none

/-- R198: the vector stores, in the same form. -/
def vecStoreRow : Instr → Option (BitVec 5 × List (BitVec 5) × List (BitVec 5) × BitVec 2 × BitVec 3 × (Thread → Nat → Word))
  | .vst d a k t => some (d, [a], [], k, t, fun th e => val th a + BitVec.ofNat 64 (e * (width t / 8)))
  | .vsts d a b k t => some (d, [a, b], [], k, t, fun th e => val th a + BitVec.ofNat 64 e * val th b)
  | .vstx d a b k t => some (d, [a], [b], k, t, fun th e =>
      val th a + BitVec.ofInt 64 (signedOf 32 (elem (vreg th b) 32 (width t * e / 32)) * (width t / 8 : Nat)))
  | _ => none

/-! ### Events -/

/-- Delivering an event is executing its row of the opcode table with the event in State.now. -/
def Delivers (s : State) (e : Event) (t : State) : Prop := exec e.instr { s with now := some e } = .next t

/-! ### The vault (17) -/

/-- A byte among the n from pa. -/
def Within (pa n x : Nat) : Prop := pa ≤ x ∧ x < pa + n

/-- No page table and no context-table entry of ctx lies among some bytes: whatever they hold, the context's virtual
addresses stay where they are. -/
def Apart (s : State) (ctx : Nat) (W : Nat → Prop) : Prop :=
  ∀ m : Memory, (∀ x, ¬ W x → Tab.get 0 m x = Tab.get 0 s.mem x) →
    (∀ va, devPa { s with mem := m } ctx va = devPa s ctx va) ∧
    ∀ o, o < 1024 → ctxWord { s with mem := m } ctx o = ctxWord s ctx o

/-- The n bytes of a context's vault from va lie in DRAM from pa on, in no line with update-only copies (R115). -/
def VaultAt (s : State) (ctx va n pa : Nat) : Prop :=
  pa + n ≤ dramTop ∧ (∀ i, i < n → devPa s ctx (va + i) = some (pa + i)) ∧ OwnFrames s ∧
  ∀ i, i < n → (dirAt s ((pa + i) / 32)).uop = none

/-- The n bytes from pa lie in DRAM, in no line with update-only copies: the device may write them (R115). -/
def DeviceAt (s : State) (pa n : Nat) : Prop :=
  pa + n ≤ dramTop ∧ OwnFrames s ∧ ∀ i, i < n → (dirAt s ((pa + i) / 32)).uop = none

/-- A tid's continuation record lies at pa (R123). -/
def RecordAt (s : State) (ctx tid pa : Nat) : Prop := VaultAt s ctx (recVa s ctx tid) 64 pa ∧ Apart s ctx (Within pa 64)

/-- The machine's memory after bytes were written from pa on: no other byte has changed. -/
def StoresList (s t : State) (pa : Nat) (bs : List Byte) : Prop :=
  ∀ x, x < altBase → rdByte t x = if pa ≤ x ∧ x < pa + bs.length then bs[x - pa]?.getD 0 else rdByte s x

/-- The pool of the chiplet of a core, at a priority (R135). -/
def poolOf (s : State) (ctx core prio : Nat) : List PoolEnt := (ctxAt s ctx).pool.get [] (poolKey (chipOfCore core) prio)

/-- A message is on its way. -/
def Sent (t : State) (e : Event) : Prop := ∃ c, ⟨e, c⟩ ∈ t.agenda

/-- Only the slot p and the pending messages may have changed. -/
def SlotOnly (s t : State) (p : Nat) : Prop :=
  (∀ q, q ≠ p → slotAt t q = slotAt s q) ∧ { t with slots := s.slots, agenda := s.agenda, cur := s.cur } = s ∧
  ∀ x, rdByte t x = rdByte s x

/-- The thread of a slot, as its own name says. -/
def HeldIn (s : State) (p : Nat) (th : Thread) : Prop := s.now = none ∧ threadAt s p = some th

/-- A role queue of a core (R230). -/
def roleOf (s : State) (core q : Nat) : RoleQueue := (coreAt s core).roleq[q]?.getD {}

/-- A tile slot of a core (R257). -/
def tslot (s : State) (core i : Nat) : TileSlot := (coreAt s core).tslots[i]?.getD {}

/-- The bytes of a tile lie in DRAM from pa on, and hold no page table or context-table entry. -/
def TileLies (s : State) (e : TileEnt) (pa : Nat) : Prop :=
  pa % 32 = 0 ∧ e.span % 32 = 0 ∧ pa + e.span ≤ dramTop ∧ (∀ i, i < e.span / 32 → tileByte s e (32 * i) = some (pa + 32 * i)) ∧
  Apart s e.ctx (Within pa e.span) ∧ OwnFrames s

/-- No line of a tile has a shared, update-only or host copy, nor an invalidation outstanding (R254). -/
def TileQuiet (s : State) (e : TileEnt) : Prop :=
  ∀ i l, i < e.span / 32 → tileLine s e i = some l →
    (dirAt s l).uop = none ∧ (dirAt s l).host = false ∧ (dirAt s l).sharers = [] ∧ (dirAt s l).invs = []

/-- The home of a tile has nothing to do for it before a stage that comes now: no copy is out, no send, tfree, line access or
engine's write is going on, and no other event of the tile waits (R254 to R256, R261). -/
def TileFree (s : State) (slice : Nat) (e : TileEnt) : Prop :=
  e.owner = none ∧ e.sharers = [] ∧ e.mask = [] ∧ e.recalls = [] ∧ e.freeing = false ∧ e.lineDue = false ∧
  engineHolds s e none = false ∧ (∀ x ∈ (sliceAt s slice).sends, x.idx ≠ e.idx) ∧
  (∀ f ∈ s.held, f.chan ≠ some (waitChan slice true e.idx)) ∧ ∀ f ∈ s.agenda, f.chan ≠ some (waitChan slice true e.idx)

/-- Every thread that waited on a tile slot has been sent its wake (R258). -/
def WakesWaiters (t : State) (x : TileSlot) : Prop :=
  ∀ w ∈ x.waiters, Sent t (.wakeAtSlot w (hwMsg 5 (fld x.base 0 56)))

/-- Tile entries, but for the mark STALE that a write to a line of a scaled tile leaves (R253). -/
def upToStale (l : List TileEnt) : List TileEnt := l.map (fun y => { y with tag := y.tag ||| 8 })

/-- No two entries of a slice have one index. -/
def DistinctTiles (s : State) (slice : Nat) : Prop := (sliceAt s slice).tiles.Pairwise (fun x y => x.idx ≠ y.idx)

/-- A thread's name at a slot. -/
def nameAt (p : Nat) (th : Thread) : Thr := ⟨p, th.ctx, th.tid⟩

/-! ### The array (11) -/

/-- An array context of a cell. -/
def eng (s : State) (cell e : Nat) : EngCtx := (cellAt s cell).eng[e]?.getD {}

/-- The executing thread may use a context: the array and its assayer are sound, and the context is FREE, or its own and
neither FAULTED nor being released (R285, R293). -/
def EngUsable (s : State) (th : Thread) (e : Nat) : Prop :=
  let cell := s.cur / 64
  e < 4 ∧ (cellAt s cell).arrFenced = false ∧ (coreAt s (4 * cell + (cellAt s cell).assayer)).fenced = false ∧
  ((eng s cell e).st = .free ∨
    (((eng s cell e).st = .idle ∨ (eng s cell e).st = .busy) ∧ (eng s cell e).tid = th.tid ∧ (eng s cell e).ctx = th.ctx))

/-- A context as its first use leaves it: claimed where it was FREE (R285). -/
def claimed (s : State) (th : Thread) (x : EngCtx) : EngCtx :=
  if x.st = .free then
    { x with st := .idle, ctx := th.ctx, tid := th.tid, core := s.cur / 16, slot := s.cur, status := 0,
             regs := Vector.replicate 7 0, gets := [] }
  else x

/-- The commands of R296 and R298: the operation, Z, the registers they read, the context, the words A and B, when they name
a tile, whether they read its staged copy, and the checks of R295 and R294. -/
structure ArrRow where
  op : ArrOp
  z : Bool
  regs : List (BitVec 5)
  e : BitVec 2
  a : Thread → Word
  b : Thread → Word
  tiled : Vector Word 7 → Bool
  staged : Bool
  bad : Thread → Vector Word 7 → Option Word
  conf : Cell → Vector Word 7 → Option TileEnt → Option Nat

/-- The row of an array command. -/
def arrRow : Instr → Option ArrRow
  | .mma a b e z => some ⟨.mma, z == 1, [a, b], e, (val · a), (val · b), fun r => akindOf r == 1, true,
      fun th r => mmaOperands r false (val th a) (val th b), fun c r t => mmaConf c r false t⟩
  | .mmas a b e z => some ⟨.mmas, z == 1, [a, b], e, (val · a), (val · b), fun r => akindOf r == 1, true,
      fun th r => mmaOperands r true (val th a) (val th b), fun c r t => mmaConf c r true t⟩
  | .mscale a b e => some ⟨.mscale, false, [a, b], e, (val · a), (val · b), fun _ => false, false,
      fun th _ => if fld (val th a) 32 32 ≠ 0 then some (val th a) else blockOperand (val th b), fun _ _ _ => none⟩
  | .acczero b e => some ⟨.acczero, false, [b], e, fun _ => 0, (val · b), fun _ => false, false,
      fun th _ => blockOperand (val th b), fun _ _ _ => none⟩
  | .accld a b e => some ⟨.accld, false, [a, b], e, (val · a), (val · b), fun r => dkindOf r == 1, true,
      fun th r => accOperands r (val th a) (val th b), fun c r t => accConf c r false t⟩
  | .accst a b e => some ⟨.accst, false, [a, b], e, (val · a), (val · b), fun r => dkindOf r == 1, false,
      fun th r => accOperands r (val th a) (val th b), fun c r t => accConf c r true t⟩
  | _ => none

/-- No posted read of the thread is outstanding and its stores are performed: an engine command may be queued (R112). -/
def Performed (s : State) (th : Thread) : Prop :=
  th.acqOut = 0 ∧ releasedAt s s.cur th = true ∧ ∀ r, r < 28 → (regOf th r).st ≠ .pending

/-- Signed bytes and their saturated sum of products over 32 depth positions (R85). -/
def dot32 (inc : Nat) (a b : Nat → Nat) : Nat :=
  modTo 32 (max (-2 ^ 31) (min (2 ^ 31 - 1)
    (signedOf 32 inc + ((List.range 32).map (fun k => signedOf 8 (a k) * signedOf 8 (b k))).sum)))

/-! ### The copy engine (13) -/

/-- A copy context of a core. -/
def copyOf (s : State) (core e : Nat) : CopyCtx := (coreAt s core).copy[e]?.getD {}

/-- The context is FREE, or the thread's own and not being released (R332). -/
def CopyMine (s : State) (th : Thread) (e : Nat) : Prop :=
  let x := copyOf s (s.cur / 16) e
  e < 4 ∧ (cellAt s (s.cur / 64)).copyFenced = false ∧
  (x.st = .free ∨ (x.st ≠ .releasing ∧ x.tid = th.tid ∧ x.ctx = th.ctx))

/-- A copy context as its first use leaves it: claimed where it was FREE (R332). -/
def copyClaimed (s : State) (th : Thread) (x : CopyCtx) : CopyCtx :=
  if x.st = .free then
    { x with st := .idle, ctx := th.ctx, tid := th.tid, slot := s.cur, status := 0, regs := Vector.replicate 38 0 }
  else x

/-- The bytes of a tile destination, 0 for the other kinds (R337). -/
def SpanOf (s : State) (th : Thread) (r : Vector Word 38) (dst : Word) (span : Nat) : Prop :=
  (xDkind r ≠ 1 ∧ span = 0) ∨ (xDkind r = 1 ∧ ∃ slice e, findTile s th.ctx dst = some (slice, e) ∧ span = e.span)

/-- A copy command in rule (R343). -/
def CopyInRule (s : State) (fill : Bool) (r : Vector Word 38) (src dst : Word) (span : Nat) : Prop :=
  copyOperands fill r src dst span = none ∧ (fill = false → xMisaligned false false r src = false) ∧
  xMisaligned fill true r (if xDkind r = 1 then 0 else dst) = false ∧ (fill = false → xFmtCode r = none) ∧
  (fill = false → xCvt r = true → xSfmt r ≠ xDfmt r → isTableFmt (xDfmt r) = true →
    ((coreAt s (s.cur / 16)).banks[xTbank r]?.getD {}).encodable = true)

/-! ### Barriers (14) -/

/-- An action of the executing thread on a record of 16 bytes at its home passes its checks and waits for nothing. -/
def AtRecord (s : State) (k : Acc) (va : Word) (pa : Nat) : Prop :=
  (∃ e, plan k false false [(0, va, 16)] s = .go [e] ∧ e.pa = pa ∧ e.va = va) ∧ va.toNat % 16 = 0 ∧ pa % 16 = 0 ∧
  pa + 16 ≤ dramTop ∧ routeFenced s (s.cur / 16) (homeUnit (homeOf va pa)) = false ∧
  lineQueued s (s.cur / 16) (pa / 32) = false ∧ (k = .write → orderedOut s (s.cur / 16) (homeOf va pa) = false) ∧
  PlainLine s (homeOf va pa) (pa / 32) ∧ ∀ x, xlatFind s va.toNat = some x → x.dirty = true

/-- The record at pa is r afterwards, and no byte of memory outside it has changed. -/
def PutsBar (s t : State) (pa : Nat) (r : BarRec) : Prop :=
  readBar t pa = r ∧ ∀ x, x < altBase → ¬ Within pa 16 x → rdByte t x = rdByte s x

/-- A record that counts and lists no waiter. -/
def Counting (r : BarRec) : Prop :=
  r.valid = true ∧ r.reserved = 0 ∧ r.faulted = false ∧ r.listed = false

/-- A record whose phase has just completed (R355). -/
def nextPhase (r : BarRec) : BarRec :=
  { r with phase := (r.phase + 1) % 256, last := r.cstat, cstat := 0, arrived := 0, posted := r.auto }

/-! ### Structures in a context's vault -/

/-- Some stretches of memory do not overlap, and none of them holds a page table or context-table entry. -/
def Spread (s : State) (ctx : Nat) (l : List (Nat × Nat)) : Prop :=
  l.Pairwise (fun x y => x.1 + x.2 ≤ y.1 ∨ y.1 + y.2 ≤ x.1) ∧ Apart s ctx (fun x => ∃ p ∈ l, Within p.1 p.2 x)

/-- No byte of memory outside some stretches has changed. -/
def KeepsOutside (s t : State) (l : List (Nat × Nat)) : Prop :=
  ∀ x, x < altBase → (∀ p ∈ l, ¬ Within p.1 p.2 x) → rdByte t x = rdByte s x

/-- A device unit's read of n bytes for a context waits for nothing and gives these bytes (R388). -/
def DevReads (s : State) (ctx priv : Nat) (k : Acc) (va : Word) (n align : Nat) (bs : List Byte) : Prop :=
  OwnFrames s ∧ ∃ t, devRead ctx priv k va n align s = .got bs t

/-- The task record r of the executing thread's context lies at pa, and an instruction that acts on it finds it within the
table, writable and free to act on (R169, R304, R327). -/
def AtTask (s : State) (th : Thread) (r : Word) (pa : Nat) : Prop :=
  r.toNat % 64 = 0 ∧ inTable s th.ctx r = true ∧
  (∃ e, plan .write false false [(0, r, 64)] s = .go [e] ∧ e.va = r ∧ e.pa = pa) ∧
  routeFenced s (s.cur / 16) (homeUnit (homeOf r pa)) = false ∧
  (∀ i, i < 2 → lineQueued s (s.cur / 16) (pa / 32 + i) = false ∧ PlainLine s (homeOf r pa) (pa / 32 + i)) ∧ VaultAt s th.ctx r.toNat 64 pa

/-- The n bytes of an entry that goes into a queue of a context's vault at va lie in DRAM from ep on, and overlap nothing of the
other stretches given (R135, R314). -/
def EntryAt (s : State) (ctx va n ep : Nat) (others : List (Nat × Nat)) : Prop :=
  VaultAt s ctx va n ep ∧ Spread s ctx ((ep, n) :: others)

/-- The queued entries of a teller queue (R314). -/
def tqueue (s : State) (ctx chip q : Nat) : List TaskEnt := (ctxAt s ctx).taskq.get [] (16 * chip + q)

/-- The n blocks of 32 bytes from va lie in the executing thread's own scratchpad from pa on and can be read now. -/
def BlockHere (s : State) (th : Thread) (va : Word) (n pa : Nat) : Prop :=
  (∀ j : Nat, (coreAt s (s.cur / 16)).cmps[j]?.getD (0, 0) = ((0, 0) : Word × Word)) ∧
  ∀ k j, j < n → check (charge th.ctx k s) (s.cur / 16) th.ctx (privOf th) (va + BitVec.ofNat 64 (32 * j)) 32 .read false =
      .ok (pa + 32 * j) ∧ Local s (pa + 32 * j) ∧
    stageWait (charge th.ctx k s) (va + BitVec.ofNat 64 (32 * j)) (pa + 32 * j) 32 .read 0 = none

/-! ### System registers (R425) -/

/-- A system register: the least level that reads it, the least that writes it (none: no level), and its value for the
executing thread. -/
def sysReg (s : State) (th : Thread) (n : Nat) : Option (Nat × Option Nat × Word) :=
  let c := ctxAt s th.ctx
  let part := (coreAt s (s.cur / 16)).part
  match n with
  | 0x000 => some (0, some 0, th.fstat)
  | 0x001 => some (0, some 0, setFld th.status 12 2 (if part = 16 then 0 else if part = 8 then 1 else 2))
  | 0x002 => some (0, some 1, th.fmtp)
  | 0x003 => some (0, some 1, th.sclp)
  | 0x004 => some (0, none, BitVec.ofNat 64 (tick s))
  | 0x005 => some (0, none, BitVec.ofNat 64 s.cycle)
  | 0x006 => some (0, none, BitVec.ofNat 64 (max (energyOf s th.ctx) th.seenEnergy))
  | 0x007 => some (0, none, BitVec.ofNat 64 th.ctx)
  | 0x008 => some (0, none, BitVec.ofNat 64 (lcoreOf s (s.cur / 16)))
  | 0x009 => some (0, some 1, c.parklim)
  | 0x00A => some (0, some 1, c.promote)
  | 0x00B => some (0, some 1, c.feretry)
  | 0x00C => some (0, some 1, c.migthr)
  | 0x00D => some (0, none, fmode s th.ctx)
  | 0x800 => some (1, some 1, th.epc)
  | 0x801 => some (1, some 1, th.ecause)
  | 0x802 => some (1, some 1, th.einfo)
  | 0x803 => some (1, some 1, th.eaddr)
  | 0x804 => some (1, some 1, c.tvec)
  | 0xC04 => some (3, some 3, s.tvecm)
  | _ => none

/-- R426: the writes of system registers: the register number, a, and the new value from the old one and G[a]. -/
def csrRow : Instr → Option (BitVec 12 × BitVec 5 × (Word → Word → Word))
  | .csrWr a n => some (n, a, fun _ x => x)
  | .csrSet a n => some (n, a, fun old x => old ||| x)
  | .csrClr a n => some (n, a, fun old x => old &&& ~~~x)
  | _ => none

/-- The old word with the bits of a mask from the new one. -/
def bitsFrom (old new mask : Word) : Word := (old &&& ~~~mask) ||| (new &&& mask)

/-- The executing thread's own registers among the system registers, STATUS aside, as a write of v leaves them. -/
def threadReg (n : Nat) (v : Word) (th : Thread) : Option Thread :=
  match n with
  | 0x000 => some { th with fstat := bitsFrom th.fstat v 0x31F03 }
  | 0x002 => some { th with fmtp := v }
  | 0x003 => some { th with sclp := v }
  | 0x800 => some { th with epc := v }
  | 0x801 => some { th with ecause := v }
  | 0x802 => some { th with einfo := v }
  | 0x803 => some { th with eaddr := v }
  | _ => none

/-- A context's registers among the system registers as a write of v leaves them. -/
def contextReg (n : Nat) (v : Word) (c : Ctx) : Option Ctx :=
  match n with
  | 0x009 => some { c with parklim := v }
  | 0x00A => some { c with promote := v }
  | 0x00B => some { c with feretry := bitsFrom c.feretry v 0xFFFF }
  | 0x00C => some { c with migthr := bitsFrom c.migthr v 0xFFFF }
  | 0x804 => some { c with tvec := v }
  | _ => none

/-- The executing thread is stopped by a fault tr it raises: its sources are read, its delivery is on its way, and no
other slot and no byte of memory has changed (R10, R419). -/
def Trapping (s t : State) (th : Thread) (ss : List Src) (tr : Trap) : Prop :=
  ∃ th', Becomes s t th' ∧ RegsRead ss th th' ∧
    { th' with regs := th.regs } = { th with form := .trapping tr, noCmp := false, stay := false, inBlk := false, behind := [] } ∧ Sent t (.trapDelivery s.cur) ∧
    (∀ p, p ≠ s.cur → slotAt t p = slotAt s p) ∧ KeepsBytes s t

/-- A byte access of the executing thread to its own scratchpad that is no tile's staging range. -/
def PlainLocal (s : State) (k : Acc) (va : Word) (size pa : Nat) : Prop :=
  (∃ e, plan k (decide (k = .write)) false [(0, va, size)] s = .go [e] ∧ e.va = va ∧ e.pa = pa ∧ e.size = size) ∧
  Local s pa ∧
  stagedSlot s (spadCore pa) ((pa - spadBase) % spadSize) size = none ∧ (region va = .paged → xlatFind s va.toNat = none)

/-- The thread after a micro-step of a block instruction: it ends, or issues again after its pass (R429). -/
def stepped (s : State) (th : Thread) (last : Bool) : Thread :=
  if last = true then passed s th else { th with form := .ready, readyAt := max (th.issued + 8) s.cycle, inBlk := true }

/-! ### Links and the host's rings (20) -/

/-- e is the entry the command processor works on, which the device may write, and the entry after it is not VALID yet (R464). -/
def AtEntry (s : State) (e : Nat) : Prop :=
  let log := fld s.host.cmdring 0 5
  let base := fld s.host.cmdring 12 27 * 4096
  4 ≤ log ∧ log ≤ 12 ∧ e = base + 32 * (s.host.cmdnext % 2 ^ log) ∧ base + 32 * 2 ^ log ≤ dramTop ∧
  DeviceAt s e 32 ∧ fld (rd64 s (base + 32 * ((s.host.cmdnext + 1) % 2 ^ log))) 8 1 = 0

/-- The entry e has been answered (R464): its doubleword 3 holds the status and DONE, VALID is clear, the processor goes to
the next entry. -/
def Answers (s t : State) (e status : Nat) : Prop :=
  rd64 t (e + 24) = BitVec.ofNat 64 (status + 256) ∧ rd64 t e = setFld (rd64 s e) 8 1 0 ∧
  t.host.cmdnext = (s.host.cmdnext + 1) % 2 ^ fld s.host.cmdring 0 5

/-- The link l has become k', and no other link has changed; a change of state is told to the host (R457, R463). -/
def LinkMoves (s t : State) (l : Nat) (k' : Link) : Prop :=
  linkAt t l = k' ∧ (∀ m, m ≠ l → linkAt t m = linkAt s m) ∧
  t.host.waiting = s.host.waiting ++ (if k'.st = (linkAt s l).st then []
    else [{ type := 11, ctx := 0, reply := false, addr := BitVec.ofNat 64 l, info := linkStat k' }])

/-- No staged tile and no update-only copy keeps the two lines of a host line from the host (R213, R254). -/
def HostLineFree (s : State) (pa : Nat) : Prop :=
  OwnFrames s ∧ ∀ l, l = pa / 64 * 2 ∨ l = pa / 64 * 2 + 1 → tileAt s (sliceOfPa pa) l = none ∧ (dirAt s l).uop = none

/-- The offsets of the debug block's counters, which a write of 0 clears (R470). -/
def IsCounter (off : Nat) : Prop :=
  off % 8 = 0 ∧ ((off < 0x300000 ∧ off % 1024 < 0x298) ∨ (0x300000 ≤ off ∧ off < 0x320000 ∧ off % 32 = 24) ∨
    (0x340000 ≤ off ∧ off < 0x343000 ∧ off % 16 = 0) ∨ off = 0x360018 ∨ off = 0x360020 ∨ off = 0x360030 ∨
    (0x370000 ≤ off ∧ off < 0x430000 ∧ off % 16 = 8))

/-! ### Issue (R48, R127) -/

/-- The state in which the word of slot p's thread th is executed: the slot is the executing one; where the thread starts an
instruction its core c has used its turn, its pass begins and it is charged for it (R127, R413). -/
def issued (s : State) (c p : Nat) (th : Thread) : State :=
  let s := { s with cur := p }
  if th.form = .ready then
    charge th.ctx 40 (setThread (setCore s c { coreAt s c with lastIssue := some s.cycle }) p { th with issued := s.cycle })
  else s

end Sys2Proof.Safety
end

