-- ==== Sys2Proof/Certificates/Slice0/Obligations.lean ====
section
/-!
DEFINITION. The statements of this slice: what the spec's rules say of the model, for the provers.
-/

open Sys2Proof Sys2Proof.Machine Sys2Proof.Safety

/-- A write at an address leaves no D bit to set: the slice's entry has it, or the address is of no page (R436). -/
def DirtyNoted (s : State) (va : Nat) : Prop :=
  (∃ x, xlatFind s va = some x ∧ x.dirty = true) ∨ region (BitVec.ofNat 64 va) ≠ .paged

/-- R158: add to subw write the table's result to d, in every mode of their sources, and change nothing else. R159,
R160: mul, mulh and mulhu complete in the pass with the table's result. R161: bext, sext and zext; and bins, which
reads d plain beside its other sources. -/
def Obligations.TwoSourceResults : Prop :=
  (∀ i d a b ma mb f, twoSource i = some (d, a, b, ma, mb, f) →
   ∀ s th, Canonical s → Executing s th → ReadyNow th (src a ma) → ReadyNow th (src b mb) → Writable th d.toNat →
   ∃ t, exec i s = .next t ∧ WritesReg s t th [src a ma, src b mb] d.toNat (f (val th a) (val th b))) ∧
  (∀ i d a b ma mb f, product i = some (d, a, b, ma, mb, f) →
   ∀ s th, Canonical s → Executing s th → ReadyNow th (src a ma) → ReadyNow th (src b mb) → Writable th d.toNat →
   ∃ t, exec i s = .next t ∧ WritesReg s t th [src a ma, src b mb] d.toNat (f (val th a) (val th b))) ∧
  ((∀ i d a b ma mb f, bitField i = some (d, a, b, ma, mb, f) →
     ∀ s th, Canonical s → Executing s th → ReadyNow th (src a ma) → ReadyNow th (src b mb) → Writable th d.toNat →
     ∃ t, exec i s = .next t ∧ WritesReg s t th [src a ma, src b mb] d.toNat (f (val th a) (val th b))) ∧
   (∀ (d a b : BitVec 5) (ma mb : BitVec 2) s th, Canonical s → Executing s th → ReadyNow th (src a ma) →
     ReadyNow th (src b mb) → ReadyNow th (srcP d) →
     ∃ t, exec (.bins d a b ma mb) s = .next t ∧ WritesReg s t th [src a ma, src b mb, srcP d] d.toNat
       (insertBits (val th d) (val th a) ((val th b).toNat % 64) ((val th b).toNat / 256 % 64))))

/-- R161 to R163: the instructions with one register source, among them the immediate forms. R164, R167: lui, auipc,
kmovk, kpop and kfirst read no general register. R36, R47, R167: the mask instructions write the mask d and nothing
else, nop nothing at all. -/
def Obligations.OneSourceAndMaskResults : Prop :=
  (∀ i d a ma f, oneSource i = some (d, a, ma, f) →
   ∀ s th, Canonical s → Executing s th → ReadyNow th (src a ma) → Writable th d.toNat →
   ∃ t, exec i s = .next t ∧ WritesReg s t th [src a ma] d.toNat (f (val th a))) ∧
  (∀ i d f, noSource i = some (d, f) →
   ∀ s th, Canonical s → Executing s th → Writable th d.toNat →
   ∃ t, exec i s = .next t ∧ WritesReg s t th [] d.toNat (f th)) ∧
  ((∀ i d f, maskResult i = some (d, f) → ∀ s th, Canonical s → Executing s th →
     ∃ t, exec i s = .next t ∧ ChangesThread s t th [] (withMask d (f th))) ∧
   (∀ (d : BitVec 2) (a : BitVec 5) (ma : BitVec 2) s th, Canonical s → Executing s th → ReadyNow th (src a ma) →
     ∃ t, exec (.kmovg d a ma) s = .next t ∧
       ChangesThread s t th [src a ma] (withMask d ((val th a).setWidth 16))) ∧
   (∀ s th, Executing s th → ∃ t, exec .nop s = .next t ∧ ChangesThread s t th [] id))

/-- R79, R159, R160: a division waits for the divider with its result; when the use at the head of the core's divider ends,
that thread's sources are taken, its result is written and it goes on. R78, R160, R186: when the use at the head
of the normaliser or the iterative unit ends, its thread goes on, unless it still waits there for another use. -/
def Obligations.DividerAndUnits : Prop :=
  ((∀ i d a b ma mb f, quotient i = some (d, a, b, ma, mb, f) →
     ∀ s th, Canonical s → Executing s th → ReadyNow th (src a ma) → ReadyNow th (src b mb) → Writable th d.toNat →
     ∃ t th', exec i s = .next t ∧ Becomes s t th' ∧
       th' = { th with form := .inFlight (.divider d.toNat (f (val th a) (val th b))
         (([src a ma, src b mb].filter (fun x => takes [src a ma, src b mb] x.r)).map (fun x => x.r)) []) } ∧
       (coreAt t (s.cur / 16)).divq = (coreAt s (s.cur / 16)).divq ++ [⟨s.cur, th.ctx, th.tid⟩] ∧
       t.timers = (if (coreAt s (s.cur / 16)).divq = [] then s.timers ++ [(s.time8 + 240, .dividerDone (s.cur / 16))]
         else s.timers) ∧
       Only s t (fun old new => { new with divq := old.divq }) (fun old new => { new with timers := old.timers }) ∧
       ∀ x, rdByte t x = rdByte s x) ∧
   (∀ s core th d v ts rest, Canonical s → d < 28 → th.pc ≠ lastPc →
     (coreAt s core).divq = ⟨s.cur, th.ctx, th.tid⟩ :: rest → threadAt s s.cur = some th →
     th.form = .inFlight (.divider d v ts []) →
     ∃ t th', Delivers s (.dividerDone core) t ∧ Becomes s t th' ∧ { th' with regs := th.regs } = passed s th ∧
       (∀ r, r < 28 → regOf th' r = if r = d then { st := .full, val := v }
         else if r ∈ ts then { st := .empty, val := (regOf th r).val } else regOf th r) ∧
       (coreAt t core).divq = rest ∧
       t.timers = (if rest = [] then s.timers else s.timers ++ [(s.time8 + 240, .dividerDone core)]) ∧
       Only s t (fun old new => { new with divq := old.divq })
         (fun old new => { new with timers := old.timers, now := old.now }) ∧
       ∀ x, rdByte t x = rdByte s x)) ∧
  (∀ s core th rest e, Canonical s → s.now = none → threadAt s s.cur = some th → th.form = .inFlight .unit →
   named_ s th ∉ rest →
   ((e = .normaliserDone core ∧ (coreAt s core).normq = named_ s th :: rest ∧ named_ s th ∉ (coreAt s core).iterq) ∨
    (e = .iterativeUnitDone core ∧ (coreAt s core).iterq = named_ s th :: rest ∧ named_ s th ∉ (coreAt s core).normq)) →
   ∃ t, Delivers s e t ∧ Becomes s t (passed s th) ∧
     Only s t (fun old new => { new with normq := old.normq, iterq := old.iterq })
       (fun old new => { new with timers := old.timers }) ∧ ∀ x, rdByte t x = rdByte s x)

/-- R27, R165: jal and jalr jump to their target with the link in d; a target out of rule raises MISFETCH with the
target in the address field, the link unwritten. R27: an instruction at PC = 2^48 − 4 that would complete without a
jump raises MISFETCH instead, with no effect. -/
def Obligations.JumpsAndLinks : Prop :=
  (∀ i (d : BitVec 5) ss (target : Int) s th, Canonical s → threadAt s s.cur = some th → th.form = .ready →
   Writable th d.toNat → (∀ x ∈ ss, ReadyNow th x) →
   ((∃ off : BitVec 20, i = .jal d off ∧ ss = [] ∧ target = th.pc.toNat + 4 * off.toInt) ∨
    (∃ (a : BitVec 5) (ma : BitVec 2) (imm : BitVec 13), i = .jalr d a ma imm ∧ ss = [src a ma] ∧
       target = (val th a + imm64 imm).toNat)) →
   (GoodTarget target → ∃ t th', exec i s = .next t ∧ Becomes s t th' ∧ Quiet s t ∧
     RegsAfter ss d.toNat (BitVec.ofNat 64 (th.pc.toNat + 4)) th th' ∧
     { th' with regs := th.regs } = jumped s th (BitVec.ofInt 48 target)) ∧
   (¬ GoodTarget target → ∃ t, exec i s = .next t ∧ Raises s t th (trapOf s th .misfetch 0 (BitVec.ofInt 64 target)))) ∧
  (∀ i ss d, (regForm i = some (ss, d) ∨ (i = .nop ∧ ss = [])) →
   ∀ s th, Canonical s → threadAt s s.cur = some th → th.form = .ready → th.pc = lastPc →
   (∀ x ∈ ss, ReadyNow th x) → (i ≠ .nop → Writable th d) →
   ∃ t, exec i s = .next t ∧ Raises s t th (trapOf s th .misfetch 0 (BitVec.ofNat 64 (2 ^ 48))))

/-- R27, R166: a branch that is taken goes to its target, and raises MISFETCH where that is out of rule; one that is
not taken goes on, and raises MISFETCH at the last word of the text space. -/
def Obligations.Branches : Prop :=
  ∀ i rs off f, branchOn i = some (rs, off, f) →
  ∀ s th, Canonical s → threadAt s s.cur = some th → th.form = .ready → (∀ r ∈ rs, ReadyNow th (srcP r)) →
  (f (rs.map (val th)) = true → GoodTarget (th.pc.toNat + 4 * off.toInt) →
    ∃ t, exec i s = .next t ∧ Quiet s t ∧ Becomes s t (jumped s th (BitVec.ofInt 48 (th.pc.toNat + 4 * off.toInt)))) ∧
  (f (rs.map (val th)) = true → ¬ GoodTarget (th.pc.toNat + 4 * off.toInt) →
    ∃ t, exec i s = .next t ∧
      Raises s t th (trapOf s th .misfetch 0 (BitVec.ofInt 64 (th.pc.toNat + 4 * off.toInt)))) ∧
  (f (rs.map (val th)) = false → th.pc ≠ lastPc → ∃ t, exec i s = .next t ∧ Quiet s t ∧ Becomes s t (passed s th)) ∧
  (f (rs.map (val th)) = false → th.pc = lastPc →
    ∃ t, exec i s = .next t ∧ Raises s t th (trapOf s th .misfetch 0 (BitVec.ofNat 64 (2 ^ 48))))

/-- R37, R38, R48: what a scalar instruction whose fields name general registers meets before it runs. A held fault in
a source or the destination is raised first; then an empty source, or a pending one read plain, raises REGEMPTY with
its number; then the thread parks on the first pending register. R41, R231, R233: the values that passed operands
give: a register's value, or the oldest entry of the queue a name is bound to, the second oldest where both sources
name one queue. -/
def Obligations.RegisterStates : Prop :=
  (∀ i ss d, regForm i = some (ss, d) →
   ∀ s th, Canonical s → threadAt s s.cur = some th → (∀ r ∈ named ss d, r < 28) → (∀ x ∈ ss, x.m ≤ 2) →
   (∀ r f, FirstIn (named ss d) (fun r => (regOf th r).st = .failed) r → (regOf th r).held = some f →
     ∃ t, exec i s = .next t ∧ RaisesHeld s t th r f) ∧
   ((∀ r ∈ named ss d, (regOf th r).st ≠ .failed) →
     (∀ r, FirstIn (ss.map (fun x => x.r))
         (fun r => (regOf th r).st = .empty ∨ ((regOf th r).st = .pending ∧ strongest ss r = 0)) r →
       ∃ t, exec i s = .next t ∧ Raises s t th (trapOf s th .regempty (BitVec.ofNat 64 r) 0)) ∧
     ((∀ x ∈ ss, (regOf th x.r).st ≠ .empty ∧ ((regOf th x.r).st = .pending → strongest ss x.r ≠ 0)) →
       NoWake s th →
       ∀ r, FirstIn (named ss d) (fun r => (regOf th r).st = .pending) r →
         ∃ t, exec i s = .next t ∧ Parks s t th ⟨true, .reg r, false⟩))) ∧
  (∀ s th (x y : Src) d vs, threadAt s s.cur = some th → operands [x, y] d s = .ok vs →
   (x.r < 28 → vs[0]? = some (regOf th x.r).val ∧ (regOf th x.r).st = .full) ∧
   (y.r < 28 → vs[1]? = some (regOf th y.r).val ∧ (regOf th y.r).st = .full) ∧
   (28 ≤ x.r → ∃ qid q, boundTo th x.r = some qid ∧ qview s (s.cur / 16) qid = some q ∧ q.canPop = true ∧
     vs[0]? = q.data[0]? ∧ q.data ≠ []) ∧
   (28 ≤ y.r → ∃ qid q, boundTo th y.r = some qid ∧ qview s (s.cur / 16) qid = some q ∧ q.canPop = true ∧
     vs[1]? = (if 28 ≤ x.r ∧ boundTo th x.r = some qid then q.data[1]? else q.data[0]?)))

/-- R41, R233: an instruction whose operands pass takes one entry from a queue for each name among its sources and
appends its result to the queue its destination names; queues nobody names are as they were. A word for a
scale-injection queue with a reserved bit is refused instead (R284). -/
def Obligations.QueueNamesPopAndPush : Prop :=
  ∀ i d a b ma mb f, twoSource i = some (d, a, b, ma, mb, f) →
  ∀ s th x y, Canonical s → Executing s th → ma.toNat ≤ 2 → mb.toNat ≤ 2 →
  operands [src a ma, src b mb] (.reg d.toNat) s = .ok [x, y] →
  (∀ qid, 28 ≤ d.toNat → boundTo th d.toNat = some qid → 0x14 ≤ qid → qid < 0x18 → fld (f x y) 59 3 = 0) →
  ∃ t th', exec i s = .next t ∧ Becomes s t th' ∧
    { th' with regs := th.regs } = passed s th ∧
    (∀ r, r < 28 → regOf th' r =
      if r = d.toNat then { st := .full, val := f x y } else afterRead [src a ma, src b mb] th r) ∧
    (∀ qid q, qview s (s.cur / 16) qid = some q →
      (qview t (s.cur / 16) qid).map (fun q => q.data) =
        some (q.data.drop (popsOf th qid (popNames [src a ma, src b mb])) ++
          (if 28 ≤ d.toNat ∧ boundTo th d.toNat = some qid then [f x y] else []))) ∧
    ∀ p, rdByte t p = rdByte s p

/-- R98, R104, R110, R170: a load that its core's sources answer (the store queue, the L1's shared copy, the local
scratchpad) completes in its pass with their bytes, sign- or zero-extended. R172, R213: a relaxed load of a line of
DRAM that no source of the core holds asks the line's home and waits in flight; the home answers a plain line with its
32 bytes and lists the core among the sharers; the reply fills the core's L1 and completes the load with the bytes at
its place in the line. -/
def Obligations.Loads : Prop :=
  (∀ (signed : Bool) (d a : BitVec 5) (sz : BitVec 2) (sc : BitVec 3) (mo : BitVec 2) (off : BitVec 8) s th e bs,
   Canonical s → Executing s th → th.acqOut = 0 → ReadyNow th (srcP a) → Writable th d.toNat →
   plan .read false true [(0, effAddr (val th a) off (2 ^ sz.toNat), 2 ^ sz.toNat)] s = .go [e] →
   (mo = 3 → releasedAt s s.cur th = true) →
   hitOf s (th.noMerge || (mo != 0 && sc != 0)) e = .bytes bs →
   ∃ t th', exec (if signed = true then .ld d a sz sc mo off else .ldu d a sz sc mo off) s = .next t ∧ Becomes s t th' ∧
     RegsAfter [] d.toNat (extended signed bs) th th' ∧
     { th' with regs := th.regs } = passed s { th with floor := s.time8, noMerge := false } ∧
     Only s t (fun _ new => new) (fun old new => { new with slices := old.slices }) ∧
     (Local s e.pa → bs = rdBytes s e.pa (2 ^ sz.toNat)) ∧ ∀ x, rdByte t x = rdByte s x) ∧
  ((∀ (signed : Bool) (d a : BitVec 5) (sz : BitVec 2) (sc : BitVec 3) (off : BitVec 8) s th e,
     Canonical s → Executing s th → th.acqOut = 0 → th.noMerge = false → ReadyNow th (srcP a) → Writable th d.toNat →
     plan .read false true [(0, effAddr (val th a) off (2 ^ sz.toNat), 2 ^ sz.toNat)] s = .go [e] →
     isSpad e.pa = false → hitOf s false e = .miss →
     (∀ f ∈ s.agenda, ∀ th' va data i st, f.ev ≠ .loadReply th' va data i st) →
     ∃ t, exec (if signed = true then .ld d a sz sc 0 off else .ldu d a sz sc 0 off) s = .next t ∧
       Becomes s t { th with form := .inFlight (.load (oneLoad (.greg d.toNat signed) e ((coreAt s (s.cur / 16)).reqId + 1))) } ∧
       t.agenda = s.agenda ++ [⟨.homeRead (readReq s th (BitVec.ofNat 64 (e.va.toNat / 32 * 32)) (e.pa / 32 * 32) .load s.time8 []),
         none⟩] ∧
       Only s t (fun old new => { new with reqId := old.reqId, fills := old.fills })
         (fun old new => { new with agenda := old.agenda }) ∧
       ∀ x, rdByte t x = rdByte s x) ∧
   (∀ s (r : ReadReq), Canonical s → s.now = none → r.kind = .load → r.pa % 32 = 0 → r.pa < dramTop → r.behind = [] →
     homeFenced s (homeOf r.va r.pa) = false → PlainLine s (homePlace r.pa) (r.pa / 32) →
     NoneBefore s (homeOf r.va r.pa) (r.pa / 32) → aliasSharers s (r.pa / 32) (r.va.toNat / 32) = [] →
     ∃ t, Delivers s (.homeRead r) t ∧
       t.agenda = s.agenda ++ [⟨.loadReply r.th (BitVec.ofNat 64 (r.va.toNat / 32 * 32)) (rdBytes s r.pa 32) r.id r.stamp, none⟩] ∧
       r.core ∈ (dirAt t (r.pa / 32)).sharers ∧ t.slots = s.slots ∧ KeepsBytes s t) ∧
   (∀ s th va data id stamp d signed (e : Elem) since, Canonical s → s.now = none → threadAt s s.cur = some th →
     th.form = .inFlight (.load (oneLoad (.greg d signed) e since)) → th.pc ≠ lastPc → d < 28 →
     e.va.toNat / 32 = va.toNat / 32 → id ≠ 0 → since ≤ id →
     ∃ t th', Delivers s (.loadReply (named_ s th) va data id stamp) t ∧ Becomes s t th' ∧
       RegsAfter [] d (extended signed ((data.drop (e.va.toNat % 32)).take e.size)) th th' ∧
       { th' with regs := th.regs } = passed s { th with floor := s.time8 } ∧
       Only s t (fun old new => { new with l1 := old.l1, fills := old.fills })
         (fun old new => { new with agenda := old.agenda, fresh := old.fresh }) ∧ KeepsBytes s t))

/-- R100, R171: a store to the local scratchpad is performed at issue: its bytes are in memory, no other byte has
changed, and the instruction completes. R171, R172, R100: any other store waits in flight for the reply to its check;
with the reply it enters the store queue, is sent to its home when the thread has no earlier entry there, and
completes; the home performs it and acknowledges, and the acknowledgement takes the entry off the queue; a sequentially consistent store to
another core's scratchpad completes with it (R104). -/
def Obligations.Stores : Prop :=
  (∀ (d a : BitVec 5) (sz : BitVec 2) (sc : BitVec 3) (mo : BitVec 2) (off : BitVec 8) s th e,
   Canonical s → Executing s th → th.acqOut = 0 → ReadyNow th (srcP a) → ReadyNow th (srcP d) →
   plan .write true true [(0, effAddr (val th a) off (2 ^ sz.toNat), 2 ^ sz.toNat)] s = .go [e] → Local s e.pa →
   (mo ≠ 0 → releasedAt s s.cur th = true) → DirtyNoted s e.va.toNat →
   ∃ t, exec (.st d a sz sc mo off) s = .next t ∧ Becomes s t (passed s th) ∧
     StoresBytes s t e.pa (2 ^ sz.toNat) (val th d).toNat ∧
     Only s t (fun old new => { new with tslots := old.tslots })
       (fun old new => { new with mem := old.mem, words := old.words, agenda := old.agenda, poison := old.poison,
                                  slices := old.slices })) ∧
  ((∀ (d a : BitVec 5) (sz : BitVec 2) (sc : BitVec 3) (mo : BitVec 2) (off : BitVec 8) s th e,
     Canonical s → Executing s th → th.acqOut = 0 → ReadyNow th (srcP a) → ReadyNow th (srcP d) →
     plan .write true true [(0, effAddr (val th a) off (2 ^ sz.toNat), 2 ^ sz.toNat)] s = .go [e] → ¬ Local s e.pa →
     (mo ≠ 0 → releasedAt s s.cur th = true) →
     ∃ t, exec (.st d a sz sc mo off) s = .next t ∧ Quiet s { t with agenda := s.agenda } ∧
       Becomes s t { th with form := .inFlight (.storeCheck [(e, leBytes (2 ^ sz.toNat) (val th d).toNat)] (mo == 3) []) } ∧
       t.agenda = s.agenda ++ [⟨.storeCheckReply (named_ s th), none⟩] ∧ ∀ x, rdByte t x = rdByte s x) ∧
   (∀ s th (e : Elem) bs, Canonical s → s.now = none → threadAt s s.cur = some th → bs ≠ [] → e.pa < dramTop → th.pc ≠ lastPc →
     th.form = .inFlight (.storeCheck [(e, bs)] false []) → DirtyNoted s e.va.toNat →
     ∃ t, Delivers s (.storeCheckReply (named_ s th)) t ∧ Becomes s t (passed s th) ∧
       (∃ q ∈ (coreAt t (s.cur / 16)).sq, q.id = (coreAt s (s.cur / 16)).sqId ∧ q.th = named_ s th ∧
         q.cells = cellsAt e.pa bs ∧ q.home = homeOf e.va e.pa ∧ q.req = none ∧
         (sqOf s (s.cur / 16) (named_ s th) = [] → q.sent = true ∧
           ⟨.homeWrite (.store (s.cur / 16) q.id), some (s.cur / 16, homeUnit q.home)⟩ ∈ t.agenda)) ∧
       Only s t (fun old new => { new with sq := old.sq, sqId := old.sqId, l1 := old.l1, fills := old.fills })
         (fun old new => { new with agenda := old.agenda }) ∧
       ∀ x, rdByte t x = rdByte s x) ∧
   (∀ s core (q : SqEnt) pa bs, Canonical s → s.now = none → q ∈ (coreAt s core).sq →
     (∀ x ∈ (coreAt s core).sq, x.id = q.id → x = q) → q.cells = cellsAt pa bs → bs ≠ [] → pa / 32 = (pa + bs.length - 1) / 32 →
     pa + bs.length ≤ dramTop → homeFenced s q.home = false → routeFenced s core (homeUnit q.home) = false →
     PlainLine s q.home (pa / 32) → NoneBefore s q.home (pa / 32) →
     ∃ t, Delivers s (.homeWrite (.store core q.id)) t ∧ StoresList s t pa bs ∧
       ⟨.storeAck core q.id q.home, some (homeUnit q.home, core)⟩ ∈ t.agenda ∧ t.slots = s.slots) ∧
   (∀ s core (q : SqEnt) home, Canonical s → s.now = none → q ∈ (coreAt s core).sq →
     (∀ x ∈ (coreAt s core).sq, x.id = q.id → x = q) → q.req = none → core < 3072 → q.th.slot / 16 = core →
     ∃ t, Delivers s (.storeAck core q.id home) t ∧ (∀ x ∈ (coreAt t core).sq, x.id ≠ q.id) ∧
       ∀ th, threadAt s s.cur = some th → q.th = named_ s th → s.cur / 16 = core → 1024 ≤ home →
         th.form = .inFlight (.storeDone q.id home) → Becomes s t (passed s th)))

/-- R39, R174, R222 to R224: amo, cas and a posted load that no source of its core answers mark d pending, send their
request and complete; an acquire holds back the thread's later accesses. A posted load that a source answers fills d. R222, R223: the home half of an amo or cas in
the scratchpad of a core, one action: memory holds the operation's result (for a cas, the new value where the old one
is as expected), the old value is on its way to the register and the entry is acknowledged. R37, R143: a posted value
fills its pending register, and a posted fault leaves it in state X holding the fault; a value forwarded to the
thread's new slot does the same. -/
def Obligations.AtomicsAndPostedLoads : Prop :=
  ((∀ i op d a b mo, amoRow i = some (op, d, a, b, mo) →
     ∀ s th, Canonical s → Executing s th → th.acqOut = 0 → ReadyNow th (srcP a) → ReadyNow th (srcP b) →
     Writable th d.toNat → postedCount th < 4 → cmpTrap s (val th a) (opSize op) .rmw = none →
     (mo = 2 ∨ mo = 3 → releasedAt s s.cur th = true) →
     ∃ t, exec i s = .next t ∧
       Posts s t th d.toNat (fun th => { th with acqOut := if mo = 1 ∨ mo = 3 then 1 else 0 }) ∧
       Queued s t th (val th a) (.amo (named_ s th) d.toNat op (val th a) (val th b) th.pc mo (privOf th)) ∧
       ∀ x, rdByte t x = rdByte s x) ∧
   (∀ i size d a b mo, casRow i = some (size, d, a, b, mo) →
     ∀ s th, Canonical s → Executing s th → th.acqOut = 0 → ReadyNow th (srcP a) → ReadyNow th (srcP b) →
     ReadyNow th (srcP d) → postedCount th < 4 → cmpTrap s (val th a) size .rmw = none →
     (mo = 2 ∨ mo = 3 → releasedAt s s.cur th = true) →
     ∃ t, exec i s = .next t ∧
       Posts s t th d.toNat (fun th => { th with acqOut := if mo = 1 ∨ mo = 3 then 1 else 0 }) ∧
       Queued s t th (val th a)
         (.cas (named_ s th) d.toNat size (val th a) (val th d) (val th b) th.pc mo (privOf th)) ∧
       ∀ x, rdByte t x = rdByte s x) ∧
   (∀ (d a : BitVec 5) (sz : BitVec 2) (sc : BitVec 3) (off : BitVec 8) s th va ck,
     Canonical s → Executing s th → th.acqOut = 0 → ReadyNow th (srcP a) → Writable th d.toNat → postedCount th < 4 →
     va = effAddr (val th a) off (2 ^ sz.toNat) → cmpTrap s va (2 ^ sz.toNat) .read = none →
     ck = check s (s.cur / 16) th.ctx (privOf th) va (2 ^ sz.toNat) .read false →
     (∀ pa bs, ck = .ok pa →
       (isSpad pa = true → stagedCheck s (spadPlace pa).1 (spadPlace pa).2 (2 ^ sz.toNat) .read = .clear) →
       hitOf s th.noMerge ⟨0, va, 2 ^ sz.toNat, pa⟩ = .bytes bs →
       ∃ t th', exec (.ldp d a sz sc off) s = .next t ∧ Becomes s t th' ∧
         RegsAfter [] d.toNat (extended true bs) th th' ∧
         { th' with regs := th.regs } = passed s { th with floor := s.time8, noMerge := false } ∧
         Only s t (fun _ new => new) (fun old new => { new with slices := old.slices }) ∧
         ∀ x, rdByte t x = rdByte s x) ∧
     (∀ ids, ((∀ pa, ck ≠ .ok pa) ∧ ids = [] ∨
         ∃ pa, ck = .ok pa ∧ isSpad pa = false ∧
           ((hitOf s th.noMerge ⟨0, va, 2 ^ sz.toNat, pa⟩ = .miss ∧ ids = []) ∨
            (hitOf s th.noMerge ⟨0, va, 2 ^ sz.toNat, pa⟩ = .wait ∧ th.noMerge = false ∧
              ids = (queuedWriters s (s.cur / 16) ⟨0, va, 2 ^ sz.toNat, pa⟩).map (fun x => x.id)))) →
       (∀ f ∈ s.agenda, ∀ th' va data i st, f.ev ≠ .loadReply th' va data i st) →
       ∃ t, exec (.ldp d a sz sc off) s = .next t ∧ Posts s t th d.toNat (fun th => { th with noMerge := false }) ∧
         t.agenda = s.agenda ++ [⟨.homeRead (readReq s th va 0 (.posted d.toNat (2 ^ sz.toNat) va th.pc)
           (if th.noMerge = true then 0 else s.time8) ids), none⟩] ∧
         Only s t (fun old new => { new with reqId := old.reqId, fills := old.fills })
           (fun old new => { new with agenda := old.agenda }) ∧
         ∀ x, rdByte t x = rdByte s x))) ∧
  ((∀ s th reg op va x pc mo priv pa, Canonical s → s.now = none → reg < 28 →
     check s (th.slot / 16) th.ctx priv va (opSize op) .rmw true = .ok pa → isSpad pa = true → pa % opSize op = 0 →
     stagedCheck s (spadPlace pa).1 (spadPlace pa).2 (opSize op) .rmw = .clear →
     NoneQueued s (th.slot / 16) (pa / 32) (.amo th reg op va x pc mo priv) → NoneBefore s (homeOf va pa) (pa / 32) →
     fld (sliceAt s ((homeOf va pa - 1024) / 4)).replay1 32 1 = 0 → DirtyNoted s va.toNat →
     ∃ t, Delivers s (.homeWrite (.amo th reg op va x pc mo priv)) t ∧
       StoresHere s t pa (opSize op) (opResult op (BitVec.ofNat 64 (rdNat s pa (opSize op))) x).toNat ∧
       ⟨.postedArrive th reg (BitVec.ofNat 64 (rdNat s pa (opSize op))), none⟩ ∈ t.agenda ∧ t.slots = s.slots) ∧
   (∀ s th reg size va exp new pc mo priv pa, Canonical s → s.now = none → reg < 28 → size = 4 ∨ size = 8 →
     check s (th.slot / 16) th.ctx priv va size .rmw false = .ok pa → isSpad pa = true → pa % size = 0 →
     stagedCheck s (spadPlace pa).1 (spadPlace pa).2 size .rmw = .clear →
     NoneQueued s (th.slot / 16) (pa / 32) (.cas th reg size va exp new pc mo priv) →
     NoneBefore s (homeOf va pa) (pa / 32) →
     fld (sliceAt s ((homeOf va pa - 1024) / 4)).replay1 32 1 = 0 → DirtyNoted s va.toNat →
     ∃ t, Delivers s (.homeWrite (.cas th reg size va exp new pc mo priv)) t ∧
       (if rdNat s pa size = exp.toNat % 256 ^ size then StoresHere s t pa size new.toNat
         else KeepsBytes s t) ∧
       ⟨.postedArrive th reg (extended true (rdBytes s pa size)), none⟩ ∈ t.agenda ∧ t.slots = s.slots)) ∧
  (∀ s th reg, Canonical s → s.now = none → threadAt s s.cur = some th → (regOf th reg).st = .pending → reg < 28 →
   (∀ f ∈ (coreAt s (s.cur / 16)).fwd, ¬ (f.tid = th.tid ∧ f.ctx = th.ctx ∧ f.reg = reg)) →
   (∀ x ∈ (coreAt s (s.cur / 16)).sq, x.req = none) →
   (th.form = .ready ∨ (∃ w, th.form = .inFlight w) ∨ ∃ p, th.form = .parked p) →
   (∀ v e, e = .postedArrive (named_ s th) reg v ∨ (∃ o, e = .forwardedValue o (named_ s th) reg (.value v)) →
     ∃ t, Delivers s e t ∧ Becomes s t (setReg reg { st := .full, val := v } { th with floor := s.time8 }) ∧
       (th.form = .parked ⟨true, .reg reg, false⟩ → ⟨.wakeAtSlot (named_ s th) (hwMsg 4 reg), none⟩ ∈ t.agenda) ∧
       Only s t (fun _ new => new) (fun old new => { new with agenda := old.agenda }) ∧ ∀ x, rdByte t x = rdByte s x) ∧
   (∀ f e, e = .postedFail (named_ s th) reg f ∨ (∃ o, e = .forwardedValue o (named_ s th) reg (.fault f)) →
     ∃ t, Delivers s e t ∧
       Becomes s t (setReg reg { regOf th reg with st := .failed, held := some f } { th with floor := s.time8 }) ∧
       (th.form = .parked ⟨true, .reg reg, false⟩ → ⟨.wakeAtSlot (named_ s th) (hwMsg 4 reg), none⟩ ∈ t.agenda) ∧
       Only s t (fun _ new => new) (fun old new => { new with agenda := old.agenda }) ∧ ∀ x, rdByte t x = rdByte s x))

/-- R225: a red of a word of the local scratchpad performs its operation there at issue, writes no register and
changes no other byte. R114 to R117: a red's request for a line that nobody else holds gives the core its update-only
copy; an eviction or the answer to a recall brings the partial home, and with the last answer memory takes the
combined value. -/
def Obligations.Reductions : Prop :=
  (∀ i op a b, redRow i = some (op, a, b) →
   ∀ s th pa, Canonical s → Executing s th → th.acqOut = 0 → ReadyNow th (srcP a) → ReadyNow th (srcP b) →
   cmpTrap s (val th a) (opSize op) .rmw = none →
   check s (s.cur / 16) th.ctx (privOf th) (val th a) (opSize op) .rmw true = .ok pa → Local s pa →
   stageWait s (val th a) pa (opSize op) .rmw 0 = none →
   ∃ t, exec i s = .next t ∧ Becomes s t (passed s th) ∧
     StoresBytes s t pa (opSize op) (opResult op (BitVec.ofNat 64 (rdNat s pa (opSize op))) (val th b)).toNat ∧
     Only s t (fun old new => { new with tslots := old.tslots })
       (fun old new => { new with mem := old.mem, words := old.words, agenda := old.agenda, poison := old.poison,
                                  slices := old.slices })) ∧
  ((∀ s slot th line op, Canonical s → HeldIn s slot th → th.form = .inFlight (.redU line) →
     routeFenced s (slot / 16) (homeUnit (sliceOfPa (line * 32))) = false → line * 32 < dramTop →
     PlainLine s (sliceOfPa (line * 32)) line → NoneBefore s (sliceOfPa (line * 32)) line →
     (dirAt s line).sharers = [] → (dirAt s line).invs = [] → (coreAt s (slot / 16)).l1.length < 1024 →
     ∃ t k, Delivers s (.redURequest (nameAt slot th) line op) t ∧
       (k, .update (line * 32) op []) ∈ (coreAt t (slot / 16)).l1 ∧ (dirAt t line).uop = some op ∧
       slot / 16 ∈ (dirAt t line).ucores ∧ threadAt t slot = some { th with form := .inFlight .retry, readyAt := s.cycle + 8 } ∧
       KeepsBytes s t) ∧
   (∀ s core line k op ps, Canonical s → s.now = none → uCopy s core line = some (k, op, ps) → ps ≠ [] →
     (∀ p ∈ (dirAt s line).parts, p.core ≠ core) →
     ∃ t, Delivers s (.uEviction core line) t ∧ (coreAt t core).l1 = (coreAt s core).l1.del k ∧
       (dirAt t line).ucores = (dirAt s line).ucores.erase core ∧
       (∃ p, (dirAt t line).parts = (dirAt s line).parts ++ [p] ∧ p.core = core ∧ p.parts = ps) ∧
       t.slots = s.slots ∧ ∀ x, rdByte t x = rdByte s x) ∧
   (∀ s core line k op i x, Canonical s → s.now = none → line * 32 < dramTop → uCopy s core line = some (k, op, [(i, x)]) →
     i < 32 / opSize op → (dirAt s line).uop = some op → (dirAt s line).ucores = [core] → (dirAt s line).parts = [] →
     NoLog s (sliceOfPa (line * 32)) → OwnFrames s →
     ∃ t, Delivers s (.collectRecallReply core line) t ∧ (dirAt t line).uop = none ∧ (dirAt t line).ucores = [] ∧
       (dirAt t line).parts = [] ∧
       StoresHere s t (line * 32 + i * opSize op) (opSize op)
         (opResult op (BitVec.ofNat 64 (rdNat s (line * 32 + i * opSize op) (opSize op))) x).toNat))

/-- R105, R226: a fence whose conditions hold completes; one with loads among its later accesses raises the merge
floor and marks the next read. R95, R101: an invalidation drops the core's shared copy, marks its fills and is
acknowledged, and a peer's invalidation drops every core's copy of the line (R466); a fence marker is answered once no invalidation of the thread's writes is outstanding, and its answer
takes the home off the thread's list. -/
def Obligations.FencesAndMarkers : Prop :=
  (∀ (fk : BitVec 4) (sc : BitVec 3) (e : BitVec 1) s th, Executing s th →
   (fk.getLsbD 3 = true → ∀ r, r < 28 → (regOf th r).st = .pending → mgetPending s s.cur th r = true) →
   (fk.getLsbD 2 = true → sqOf s (s.cur / 16) (named_ s th) = [] ∧ th.homes = []) →
   (e = 1 → engineBusy s th = false) →
   ∃ t, exec (.fence fk sc e) s = .next t ∧ Quiet s t ∧
     Becomes s t (passed s (if fk.getLsbD 1 = true then { th with floor := s.time8, noMerge := true } else th))) ∧
  ((∀ s core line, Canonical s → s.now = none → routeFenced s (homeUnit (homePlace (line * 32))) core = false →
     ∃ t, Delivers s (.invalidation core line) t ∧
       (∀ k data, (k, .shared (line * 32) data) ∉ (coreAt t core).l1) ∧
       (∀ x ∈ (coreAt s core).l1, (∀ data, x.2 ≠ .shared (line * 32) data) → x ∈ (coreAt t core).l1) ∧
       (∀ f ∈ (coreAt t core).fills, f.pa = line * 32 → f.marked = true) ∧
       t.agenda = s.agenda ++ [⟨.invalidationAck core line, some (core, homeUnit (homePlace (line * 32)))⟩] ∧
       t.slots = s.slots ∧ ∀ x, rdByte t x = rdByte s x) ∧
   (∀ s dev pa, Canonical s → s.now = none →
     ∃ t, Delivers s (.peerInvalidation dev pa) t ∧
       (∀ core, core < 4096 → ∀ k data, (k, .shared (peerPa dev pa / 32 * 32) data) ∉ (coreAt t core).l1) ∧
       t.out = s.out ++ [.peerInvAck dev pa] ∧ t.slots = s.slots ∧ ∀ x, rdByte t x = rdByte s x) ∧
   (∀ s core line i rest, Canonical s → s.now = none →
     (isPeerUnit core = true ∨ routeFenced s core (homeUnit (homePlace (line * 32))) = false) → (dirAt s line).invs = i :: rest → i.core = core →
     ∃ t, Delivers s (.invalidationAck core line) t ∧ dirAt t line = { dirAt s line with invs := rest } ∧
       (∀ l, l ≠ line → dirAt t l = dirAt s l) ∧ { t with dir := s.dir } = s) ∧
   (∀ s (th : Thr) home sc, s.now = none → routeFenced s (th.slot / 16) (homeUnit home) = false →
     ((∀ x ∈ s.dir, ∀ i ∈ x.2.invs, ∀ w, i.writer = some w → ¬ (w.tid = th.tid ∧ w.ctx = th.ctx)) →
       Delivers s (.fenceMarker th home sc) (postOrd (homeUnit home) (th.slot / 16) (.fenceMarkerAnswer th home) s)) ∧
     (∀ x ∈ s.dir, ∀ i ∈ x.2.invs, i.writer = some th →
       (4 ≤ sc.toNat ∨ (sc.toNat = 3 ∧ isPeerUnit i.core = false)) →
       Delivers s (.fenceMarker th home sc) (holdBack (.fenceMarker th home sc) s))) ∧
   (∀ s slot th home, Canonical s → HeldIn s slot th →
     let back : Thread := { th with homes := th.homes.erase home, markers := th.markers.erase home }
     (th.form = .ready ∨ th.form = .inFlight .retry →
       ∃ t, Delivers s (.fenceMarkerAnswer (nameAt slot th) home) t ∧ threadAt t slot = some back ∧ SlotOnly s t slot) ∧
     (∀ id, th.form = .inFlight (.storeDone id home) →
       ∃ t, Delivers s (.fenceMarkerAnswer (nameAt slot th) home) t ∧ threadAt t slot = some (passed s back) ∧
         SlotOnly s t slot)))

/-- R177 to R179, R520: pref of a line of DRAM asks its home for it and completes; of any other place it only completes, as
cflush of a scratchpad address does; cflush of a plain line leaves DRAM holding its value and the line unmodified in its
slice; cinval drops the core's shared copy. None changes a register or a byte of memory. -/
def Obligations.CacheInstructions : Prop :=
  ∀ (a : BitVec 5) (sc : BitVec 3) (off : BitVec 8) s th va, Canonical s → Executing s th → ReadyNow th (srcP a) →
  va = effAddr (val th a) off 32 →
  (∀ pa, check s (s.cur / 16) th.ctx (privOf th) (BitVec.ofNat 64 (va.toNat / 32 * 32)) 1 .read false = .ok pa →
    (inDram pa = true →
      ∃ t, exec (.pref a sc off) s = .next t ∧ Becomes s t (passed s th) ∧
        (∃ r, t.agenda = s.agenda ++ [⟨.homeRead r, none⟩] ∧ r.kind = .pref ∧ r.pa = pa / 32 * 32 ∧ r.core = s.cur / 16) ∧
        Only s t (fun old new => { new with reqId := old.reqId, fills := old.fills })
          (fun old new => { new with agenda := old.agenda }) ∧ ∀ x, rdByte t x = rdByte s x) ∧
    (inDram pa = false → ∃ t, exec (.pref a sc off) s = .next t ∧ Becomes s t (passed s th) ∧ Quiet s t)) ∧
  (th.acqOut = 0 → (∃ n o, region va = .window n o) ∨ (∃ o, region va = .local_ o) → cmpTrap s va 1 .read = none →
    checkCore s th.ctx (privOf th) va 1 = none →
    ∃ t, exec (.cflush a sc off) s = .next t ∧ Becomes s t (passed s th) ∧ Quiet s t) ∧
  (∀ e, th.acqOut = 0 → plan .read false false [(0, va, 1)] s = .go [e] → e.pa < dramTop →
      lineQueued s (s.cur / 16) (e.pa / 32) = false → PlainLine s (homeOf e.va e.pa) (e.pa / 32) →
    ∃ t, exec (.cflush a sc off) s = .next t ∧ Becomes s t (passed s th) ∧
      (∀ x, x / 32 = e.pa / 32 → dramByte t x = rdByte s x) ∧
      (sliceAt t (sliceOfPa (e.pa / 32 * 32))).lines.get true (e.pa / 32) = false ∧
      Only s t (fun _ new => new)
        (fun old new => { new with mem := old.mem, dram := old.dram, slices := old.slices, fresh := old.fresh }) ∧
      KeepsBytes s t) ∧
  (∀ pa data, checkCore s th.ctx 3 va 1 = none →
      (coreAt s (s.cur / 16)).l1.find? (fun x => x.1 == va.toNat / 32) = some (va.toNat / 32, .shared pa data) →
    ∃ t, exec (.cinval a sc off) s = .next t ∧ Becomes s t (passed s th) ∧
      (coreAt t (s.cur / 16)).l1 = (coreAt s (s.cur / 16)).l1.del (va.toNat / 32) ∧
      Only s t (fun old new => { new with l1 := old.l1 }) (fun _ new => new) ∧ ∀ x, rdByte t x = rdByte s x)

/-- R206, R207, R216: an ldsync of a full word of the local scratchpad that no other thread has reserved takes the
value, empties the word, fires its monitors and settles it; one that finds the word empty, or another's, waits in the
word's queue once its retries, of which there are none here, are used up. R206, R207, R217: an stsync of an empty word of
the local scratchpad that no other thread has reserved stores the value and no other byte, fills the word and settles it.
R218: feclr and feset leave a word of the local scratchpad empty or full, a reservation the change makes false gone, and
settle it; feprobe reads its state. R100, R107, R214: away from the own scratchpad the access goes to the word's home on
the ordered class and the thread waits in flight, but for feclr and feset, which enter the store queue and complete; the
home performs it and answers, and the answer completes it. -/
def Obligations.FullEmptyWords : Prop :=
  (∀ (d a : BitVec 5) (sz : BitVec 2) (sc : BitVec 3) (mo : BitVec 2) (off : BitVec 8) s th e m,
   Canonical s → Executing s th → th.acqOut = 0 → ReadyNow th (srcP a) → Writable th d.toNat →
   (mo = 2 ∨ mo = 3 → releasedAt s s.cur th = true) →
   AtLocalWord s .rmw false (effAddr (val th a) off (2 ^ sz.toNat)) (2 ^ sz.toNat) e → m = wordAt s (e.pa / 8) →
   (m.fe = true → FreeFor m th →
     ∃ t th', exec (.ldsync d a sz sc mo off) s = .next t ∧ Becomes s t th' ∧
       RegsAfter [] d.toNat (extended true (rdBytes s e.pa (2 ^ sz.toNat))) th th' ∧
       { th' with regs := th.regs } = passed s (afterHome (mo == 1 || mo == 3) true s th) ∧
       Settled s t (e.pa / 8) false (touched m) ∧ Fired t m ∧
       (NoLog s (s.cur / 64) → Only s t (fun _ new => new) (fun old new =>
         { new with words := old.words, agenda := old.agenda, timers := old.timers, slices := old.slices }) ∧
       ∀ x, rdByte t x = rdByte s x)) ∧
   (¬ (m.fe = true ∧ FreeFor m th) → fld (ctxAt s th.ctx).feretry 0 16 = 0 → NoWake s th →
       waitUsed s (s.cur / 64) < 64 → Unregistered s (s.cur / 64) th →
     ∃ t q, exec (.ldsync d a sz sc mo off) s = .next t ∧ Becomes s t (parkedBy s th ⟨false, .word, false⟩) ∧
       q.th = named_ s th ∧ q.isS = false ∧ q.va = e.va ∧
       wordAt t (e.pa / 8) = { m with queue := m.queue ++ [q], slice := s.cur / 64 } ∧ ∀ x, rdByte t x = rdByte s x)) ∧
  (∀ (d a : BitVec 5) (sz : BitVec 2) (sc : BitVec 3) (mo : BitVec 2) (off : BitVec 8) s th e m,
   Canonical s → Executing s th → th.acqOut = 0 → ReadyNow th (srcP a) → ReadyNow th (srcP d) →
   (mo = 2 ∨ mo = 3 → releasedAt s s.cur th = true) →
   AtLocalWord s .write true (effAddr (val th a) off (2 ^ sz.toNat)) (2 ^ sz.toNat) e → e.pa % 2 ^ sz.toNat = 0 →
   m = wordAt s (e.pa / 8) → m.fe = false → FreeFor m th →
   ∃ t, exec (.stsync d a sz sc mo off) s = .next t ∧
     Becomes s t (passed s (afterHome (mo == 1 || mo == 3) false s th)) ∧
     (∀ x, e.pa ≤ x → x < e.pa + 2 ^ sz.toNat → rdByte t x = byteOf (val th d).toNat (x - e.pa)) ∧
     Settled s t (e.pa / 8) true (touched m) ∧ Fired t m ∧
     (NoLog s (s.cur / 64) → StoresBytes s t e.pa (2 ^ sz.toNat) (val th d).toNat ∧
       Only s t (fun old new => { new with tslots := old.tslots }) (fun old new =>
         { new with mem := old.mem, poison := old.poison, words := old.words, agenda := old.agenda, timers := old.timers,
                    slices := old.slices }))) ∧
  ((∀ (v : Bool) (a : BitVec 5) (sc : BitVec 3) (mo : BitVec 2) (off : BitVec 8) s th e m,
     Canonical s → Executing s th → th.acqOut = 0 → ReadyNow th (srcP a) →
     (mo = 2 ∨ mo = 3 → releasedAt s s.cur th = true) →
     AtLocalWord s .write false (effAddr (val th a) off 8) 8 e → m = wordAt s (e.pa / 8) →
     ∃ t, exec (if v = true then .feset a sc mo off else .feclr a sc mo off) s = .next t ∧
       Becomes s t (passed s (afterHome (mo == 1 || mo == 3) false s th)) ∧
       (m.fe ≠ v ∨ m.resv = none → Settled s t (e.pa / 8) v (touched m)) ∧
       (m.fe = v → m.resv ≠ none → wordAt t (e.pa / 8) = touched m) ∧ Fired t m ∧
       (NoLog s (s.cur / 64) → ∀ x, rdByte t x = rdByte s x)) ∧
   (∀ (d a : BitVec 5) (sc : BitVec 3) (mo : BitVec 2) (off : BitVec 8) s th e,
     Canonical s → Executing s th → th.acqOut = 0 → ReadyNow th (srcP a) → Writable th d.toNat →
     (mo = 2 ∨ mo = 3 → releasedAt s s.cur th = true) →
     AtLocalWord s .read false (effAddr (val th a) off 8) 8 e →
     ∃ t th', exec (.feprobe d a sc mo off) s = .next t ∧ Becomes s t th' ∧
       RegsAfter [] d.toNat (probed (wordAt s (e.pa / 8))) th th' ∧
       { th' with regs := th.regs } = passed s (afterHome (mo == 1 || mo == 3) true s th) ∧ t.words = s.words ∧
       ∀ x, rdByte t x = rdByte s x)) ∧
  ((∀ i op d a size off mo, wordRow i = some (op, d, a, size, off, mo) →
     ∀ s th e w, Canonical s → Executing s th → th.acqOut = 0 → ReadyNow th (srcP a) →
     (op = .ldsync ∨ op = .feprobe → Writable th d.toNat) → (op = .stsync ∨ op = .ldmon → ReadyNow th (srcP d)) →
     (mo = 2 ∨ mo = 3 → releasedAt s s.cur th = true) →
     plan op.acc (op == .stsync) false [(0, effAddr (val th a) off size, size)] s = .go [e] → ¬ Local s e.pa →
     routeFenced s (s.cur / 16) (homeUnit (homeOf e.va e.pa)) = false → lineQueued s (s.cur / 16) (e.pa / 32) = false →
     (op = .stsync → sqOf s (s.cur / 16) (named_ s th) = []) →
     w = .fe (named_ s th) op e.va e.pa size (if op = .stsync ∨ op = .ldmon then val th d else 0) mo →
     (op ≠ .feclr ∧ op ≠ .feset →
       ∃ t, exec i s = .next t ∧ Quiet s { t with agenda := s.agenda } ∧
         Becomes s t { th with form := .inFlight (.fe w (if op = .stsync then 0 else d.toNat) 0
           (fld (ctxAt s th.ctx).feretry 0 16) []), noMerge := false } ∧
         t.agenda = s.agenda ++ [⟨.homeWrite w, some (s.cur / 16, homeUnit (homeOf e.va e.pa))⟩] ∧
         ∀ x, rdByte t x = rdByte s x) ∧
     (op = .feclr ∨ op = .feset →
       ∃ t, exec i s = .next t ∧
         Becomes s t (passed s { th with acqOut := if mo = 1 ∨ mo = 3 then 1 else 0 }) ∧ Queued s t th e.va w ∧
         ∀ x, rdByte t x = rdByte s x)) ∧
   (∀ s (th : Thr) op va pa size x mo m, Canonical s → s.now = none → size ≤ 8 → pa + size ≤ dramTop →
     homeFenced s (homeOf va pa) = false → routeFenced s (th.slot / 16) (homeUnit (homeOf va pa)) = false →
     NoneBefore s (homeOf va pa) (pa / 32) → PlainLine s (homeOf va pa) (pa / 32) → NoLog s (sliceOfPa pa) →
     m = wordAt s (pa / 8) → (∀ r, m.resv = some r → r.th.tid = th.tid ∧ r.th.ctx = th.ctx) →
     (op = .ldsync → m.fe = true →
       ∃ t, Delivers s (.homeWrite (.fe th op va pa size x mo)) t ∧ Sent t (.loadReply th va (leBytes 8 (rdNat s pa size)) 0 0) ∧
         Settled s t (pa / 8) false (touched m) ∧ t.slots = s.slots ∧ KeepsBytes s t) ∧
     (op = .stsync → m.fe = false → pa % 8 + size ≤ 8 → DirtyNoted s va.toNat →
       ∃ t, Delivers s (.homeWrite (.fe th op va pa size x mo)) t ∧ Sent t (.loadReply th va (leBytes 8 0) 0 0) ∧
         Settled s t (pa / 8) true (touched m) ∧ StoresHere s t pa size x.toNat) ∧
     (op = .feprobe →
       ∃ t, Delivers s (.homeWrite (.fe th op va pa size x mo)) t ∧ Sent t (.loadReply th va (leBytes 8 (probed m).toNat) 0 0) ∧
         t.words = s.words ∧ t.slots = s.slots ∧ KeepsBytes s t)) ∧
   (∀ s th a op va pa size x mo d n limit v, Canonical s → s.now = none → threadAt s s.cur = some th → th.pc ≠ lastPc →
     th.form = .inFlight (.fe (.fe a op va pa size x mo) d n limit []) → d < 28 → v < 2 ^ 64 →
     (mo = 1 ∨ mo = 3 → (dirAt s (pa / 32)).invs = []) →
     ∃ t th', Delivers s (.loadReply (named_ s th) va (leBytes 8 v) 0 0) t ∧ Becomes s t th' ∧ Quiet s t ∧
       (∀ r, r < 28 → regOf th' r = if r = d ∧ (op = .ldsync ∨ op = .feprobe ∨ op = .ldmon) then
           { st := .full, val := if op = .ldsync then BitVec.ofInt 64 (signedOf (8 * size) v) else BitVec.ofNat 64 v }
         else regOf th r) ∧
       { th' with regs := th.regs } = passed s
         (afterHome (mo == 1 || mo == 3 || op == .ldsync || op == .feprobe || op == .ldmon) false s th)))

/-- R219, R220: an ldmon of a word of the local scratchpad that differs from the expected value returns it; one that
equals it parks, with a monitor set, until the word is written. R215: a try of an ldsync or stsync that finds its condition
false is made again 64 network cycles later, by its request to the home. R208, R210: a reservation older than its time is
cleared and the word settled; an overflow event goes to the handlers of the contexts that may reach the word. -/
def Obligations.MonitorsAndWordEvents : Prop :=
  (∀ (d a : BitVec 5) (sz : BitVec 2) (sc : BitVec 3) (mo : BitVec 2) (off : BitVec 8) s th e,
   Canonical s → Executing s th → th.acqOut = 0 → ReadyNow th (srcP a) → ReadyNow th (srcP d) →
   (mo = 2 ∨ mo = 3 → releasedAt s s.cur th = true) →
   AtLocalWord s .read false (effAddr (val th a) off (2 ^ sz.toNat)) (2 ^ sz.toNat) e →
   (rdNat s e.pa (2 ^ sz.toNat) ≠ (val th d).toNat % 256 ^ 2 ^ sz.toNat →
     ∃ t th', exec (.ldmon d a sz sc mo off) s = .next t ∧ Becomes s t th' ∧
       RegsAfter [] d.toNat (BitVec.ofNat 64 (rdNat s e.pa (2 ^ sz.toNat))) th th' ∧
       { th' with regs := th.regs } = passed s (afterHome (mo == 1 || mo == 3) true s th) ∧ t.words = s.words ∧
       Only s t (fun _ new => new) (fun old new => { new with slices := old.slices }) ∧ ∀ x, rdByte t x = rdByte s x) ∧
   (rdNat s e.pa (2 ^ sz.toNat) = (val th d).toNat % 256 ^ 2 ^ sz.toNat → NoWake s th →
       waitUsed s (s.cur / 64) < 64 → Unregistered s (s.cur / 64) th →
     ∃ t, exec (.ldmon d a sz sc mo off) s = .next t ∧ Becomes s t (parkedBy s th ⟨false, .word, false⟩) ∧
       wordAt t (e.pa / 8) = 
         { wordAt s (e.pa / 8) with slice := s.cur / 64, mons := (wordAt s (e.pa / 8)).mons ++ [⟨named_ s th, e.va, tick s⟩] } ∧ ∀ x, rdByte t x = rdByte s x)) ∧
  ((∀ i op d a size off mo, wordRow i = some (op, d, a, size, off, mo) → op = .ldsync ∨ op = .stsync →
     ∀ s th e, Canonical s → Executing s th → th.acqOut = 0 → ReadyNow th (srcP a) →
     (op = .ldsync → Writable th d.toNat) → (op = .stsync → ReadyNow th (srcP d)) →
     (mo = 2 ∨ mo = 3 → releasedAt s s.cur th = true) →
     AtLocalWord s op.acc (op == .stsync) (effAddr (val th a) off size) size e →
     ¬ ((wordAt s (e.pa / 8)).fe = (op == .ldsync) ∧ FreeFor (wordAt s (e.pa / 8)) th) →
     0 < fld (ctxAt s th.ctx).feretry 0 16 →
     ∃ t w, exec i s = .next t ∧ Becomes s t { th with form := .inFlight (.fe w (if op = .stsync then 0 else d.toNat) 1
         (fld (ctxAt s th.ctx).feretry 0 16) []) } ∧
       t.timers = s.timers ++ [(s.time8 + 320, .feRetry (named_ s th))] ∧
       Quiet s { t with timers := s.timers } ∧ ∀ x, rdByte t x = rdByte s x) ∧
   (∀ s th a op va pa size x mo d n limit, s.now = none → threadAt s s.cur = some th →
     th.form = .inFlight (.fe (.fe a op va pa size x mo) d n limit []) →
     Delivers s (.feRetry (named_ s th))
       (postOrd (s.cur / 16) (homeUnit (homeOf va pa)) (.homeWrite (.fe a op va pa size x mo)) s)) ∧
   (∀ s w r, Canonical s → s.now = none → (wordAt s w).resv = some r → (ctxAt s r.th.ctx).st = .resident →
     r.since + 1000000 ≤ tick s →
     ∃ t, Delivers s (.reservationExpiry w) t ∧ Settled s t w (wordAt s w).fe (wordAt s w) ∧ t.slots = s.slots ∧
       ∀ x, rdByte t x = rdByte s x) ∧
   (∀ s slice w va, s.now = none →
     ∃ t, Delivers s (.waitovf slice w va) t ∧ (∀ c ∈ overflowCtxs s w va,
       ⟨.eventRingWrite c ⟨.waitovf, 0, va, slice⟩, some (20000 + slice, 30000 + c)⟩ ∈ t.agenda) ∧
       { t with agenda := s.agenda } = s))

/-- R182, R185, R187, R189, R191, R192: an integer or move instruction on vectors writes the elements its row gives
and sets VL; disabled elements, the other registers and everything else are unchanged. R35: a vector word that names a
register outside the core's visible set raises ILLINST with reason 5. -/
def Obligations.VectorResults : Prop :=
  (∀ i d rs k t all a b f, vecRow i = some (d, rs, k, t, all, (a, b), f) →
   ∀ s th, Canonical s → Executing s th → Visible s (d :: rs) →
   ∃ u th', exec i s = .next u ∧ Becomes s u th' ∧ VecOnly s th th' d.toNat id ∧ Quiet s u ∧
     ∀ e, e < 512 / width t → elem (vreg th' d) (width t) e =
       if all = true ∨ on (mask th k) (width t) e = true then
         f (mask th k) (elem (vreg th a) (width t)) (elem (vreg th b) (width t)) (elem (vreg th d) (width t)) e
           % 2 ^ width t
       else elem (vreg th d) (width t) e) ∧
  (∀ i d rs k t all ab f, vecRow i = some (d, rs, k, t, all, ab, f) →
   ∀ s th, Canonical s → threadAt s s.cur = some th → ¬ Visible s (d :: rs) →
   ∃ u, exec i s = .next u ∧ Raises s u th (trapOf s th .illinst 5 0))

/-- R75, R78, R185, R186, R188: a floating-point operation writes each enabled element's exact result rounded once,
reports the flags, and waits for the normaliser or the iterative unit where it uses one. -/
def Obligations.FloatResults : Prop :=
  ∀ i d rs k t iter f, floatRow i = some (d, rs, k, t, iter, f) →
  ∀ s th, Canonical s → Executing s th → Visible s (d :: rs) → t = 4 ∨ t = 5 ∨ t = 6 →
  ∃ u, exec i s = .next u ∧ FloatWrites s u th d (width t) (onList (mask th k) (width t))
    (fun e => roundOnce (fmtOf t) (fld th.fstat 0 2) (rs.map (fun r => elem (vreg th r) (width t) e)) f) iter

/-- R61, R72, R73, R194, R195, R197: the conversions between element types, from and to packed formats, and by a power
of two. -/
def Obligations.ConversionResults : Prop :=
  ∀ s th, Canonical s → Executing s th →
  (∀ (d a : BitVec 5) (part : BitVec 2) (u : BitVec 3) (k : BitVec 2) (sf : BitVec 3),
    (Instr.vcvt d a part u k sf).wellFormed = true → Visible s [d, a] →
    ∃ t, exec (.vcvt d a part u k sf) s = .next t ∧
      let n := 512 / max (width sf) (width u)
      FloatWrites s t th d (width u)
        ((onList (mask th k) (width u)).filter (fun e =>
          decide (width u < width sf → part.toNat * n ≤ e ∧ e < part.toNat * n + n)))
        (fun e =>
          let x := elem (vreg th a) (width sf) (if width sf < width u then part.toNat * n + e
            else if width u < width sf then e - part.toNat * n else e)
          let r := typeEnc u (fld th.fstat 0 2) (typeDec sf x)
          (r.1, r.2, typeSubnormal sf x || typeSubnormal u r.1)) false) ∧
  (∀ (d a fmt : BitVec 5) (k : BitVec 2) (t : BitVec 3), t = 4 ∨ t = 5 ∨ t = 6 → Visible s [d, a] →
    ∃ u, exec (.vdec d a fmt k t) s = .next u ∧
      let code := packedCode fmt
      let bank := (coreAt s (s.cur / 16)).banks[fld th.fstat 16 2]?.getD {}
      FloatWrites s u th d (width t) (onList (mask th k) (width t))
        (fun e =>
          let x := elem (vreg th a) (catBits code) e
          let r := fround (fmtOf t) (fld th.fstat 0 2)
            (quieted (catDec code bank x))
          (r.1, r.2, packedSubnormal code bank x || isSubnormal (fmtOf t) r.1)) false) ∧
  (∀ (d a fmt : BitVec 5) (k : BitVec 2) (t : BitVec 3), t = 4 ∨ t = 5 ∨ t = 6 → Visible s [d, a] →
    (packedCode fmt ≠ 32 ∨ ((coreAt s (s.cur / 16)).banks[fld th.fstat 16 2]?.getD {}).encodable = true) →
    ∃ u th' v, exec (.venc d a fmt k t) s = .next u ∧ Becomes s u th' ∧
      let code := packedCode fmt
      let bank := (coreAt s (s.cur / 16)).banks[fld th.fstat 16 2]?.getD {}
      let res := fun e =>
        let x := elem (vreg th a) (width t) e
        let r := catEnc code bank 0 (fdec (fmtOf t) x)
        (r.1, r.2, isSubnormal (fmtOf t) x || packedSubnormal code bank r.1)
      let es := onList (mask th k) (width t)
      (∀ e, e < 512 / catBits code → elem v (catBits code) e =
        if e ∈ es then (res e).1 % 2 ^ catBits code else elem (vreg th d) (catBits code) e) ∧
      UsesUnits s u { th with vecs := th.vecs.setIfInBounds d.toNat v, status := setFld th.status 4 1 1,
                              fstat := th.fstat ||| ((allFlags es res).zeroExtend 64 <<< 8) } th'
        (es.any (fun e => (res e).2.2)) false) ∧
  (∀ (d a b : BitVec 5) (k : BitVec 2) (t : BitVec 3), t = 4 ∨ t = 5 ∨ t = 6 → Visible s [d, a, b] →
    ∃ u, exec (.vscale d a b k t) s = .next u ∧
      FloatWrites s u th d (width t) (onList (mask th k) (width t))
        (fun e =>
          let x := elem (vreg th a) (width t) e
          let sc := elem (vreg th b) 32 (width t * e / 32) % 256
          let r := if sc = 255 ∨ (fdec (fmtOf t) x).isNan = true then
              ((scaleElem t (fld th.fstat 0 2) x sc).code, (scaleElem t (fld th.fstat 0 2) x sc).fl)
            else match fdec (fmtOf t) x with
              | .fin n m g => Exact.round (fmtOf t) (fld th.fstat 0 2) { v := .fin n m (g + sc - 127) }
              | v => fround (fmtOf t) (fld th.fstat 0 2) v
          (r.1, r.2, isSubnormal (fmtOf t) x || isSubnormal (fmtOf t) r.1)) false)

/-- R190: a compare writes mask d: lane i is 1 where every element in it is enabled and its comparison holds; a
floating-point compare reports its elements' flags. R192, R193: vbcast, vins and vrot write vector elements from general
registers; vext and the reductions write a general register. R77, R78: vfredadd adds its enabled lanes in the tree: none give
0, one gives itself, two their sum rounded once; its instruction completes, at once where the normaliser is not used. -/
def Obligations.VectorComparesAndMoves : Prop :=
  ((∀ i d a b k t f, compareRow i = some (d, a, b, k, t, f) →
     ∀ s th, Canonical s → Executing s th → Visible s [a, b] →
     ∃ u v, exec i s = .next u ∧ Quiet s u ∧ Becomes s u (passed s (withMask d v th)) ∧
       ∀ j, j < 16 → v.getLsbD j = laneHolds (mask th k) (width t)
         (fun e => f (elem (vreg th a) (width t) e) (elem (vreg th b) (width t) e)) j) ∧
   (∀ i d a b k t kind, floatCompareRow i = some (d, a, b, k, t, kind) →
     ∀ s th, Canonical s → Executing s th → Visible s [a, b] → t = 4 ∨ t = 5 ∨ t = 6 →
     ∃ u v th', exec i s = .next u ∧ Becomes s u th' ∧
       (∀ j, j < 16 → v.getLsbD j = laneHolds (mask th k) (width t)
         (fun e => (fTest kind (fdec (fmtOf t) (elem (vreg th a) (width t) e))
           (fdec (fmtOf t) (elem (vreg th b) (width t) e))).1) j) ∧
       UsesUnits s u { withMask d v th with
           fstat := th.fstat ||| ((allFlags (onList (mask th k) (width t)) (fun e =>
             (0, (fTest kind (fdec (fmtOf t) (elem (vreg th a) (width t) e))
               (fdec (fmtOf t) (elem (vreg th b) (width t) e))).2, false))).zeroExtend 64 <<< 8) } th'
         ((onList (mask th k) (width t)).any (fun e => isSubnormal (fmtOf t) (elem (vreg th a) (width t) e) ||
           isSubnormal (fmtOf t) (elem (vreg th b) (width t) e))) false)) ∧
  (∀ s th, Canonical s → Executing s th →
   (∀ i d a k t f, reduceRow i = some (d, a, k, t, f) → Visible s [a] → Writable th d.toNat →
     ∃ u, exec i s = .next u ∧ WritesReg s u th [] d.toNat (f (onElems (mask th k) (width t) (vreg th a)))) ∧
   (∀ (d a : BitVec 5) (k : BitVec 2) (t : BitVec 3), t = 4 ∨ t = 5 ∨ t = 6 → Visible s [a] → Writable th d.toNat →
     ∃ u th', exec (.vfredadd d a k t) s = .next u ∧ Becomes s u th' ∧
       let r := treeSum (fmtOf t) (fld th.fstat 0 2)
         ((List.range 16).map (treeLane (fmtOf t) (fld th.fstat 0 2) (mask th k) (width t) (vreg th a)))
       UsesUnits s u { setFull d.toNat (BitVec.ofNat 64 r.code) th with
         fstat := th.fstat ||| (r.fl.zeroExtend 64 <<< 8) } th' r.norm false ∧
       (r.norm = false → Becomes s u (passed s { setFull d.toNat (BitVec.ofNat 64 r.code) th with
         fstat := th.fstat ||| (r.fl.zeroExtend 64 <<< 8) }) ∧ Quiet s u)) ∧
   (∀ (d a : BitVec 5) (k : BitVec 2) (t : BitVec 3), t = 4 ∨ t = 5 ∨ t = 6 → Visible s [a] → Writable th d.toNat →
     (mask th k = 0 → ∃ u, exec (.vfredadd d a k t) s = .next u ∧ WritesReg s u th [] d.toNat 0) ∧
     (∀ i, i < 16 → width t = 32 → (∀ l, l < 16 → (mask th k).getLsbD l = decide (l = i)) →
       isSubnormal (fmtOf t) (elem (vreg th a) 32 i) = false →
       ∃ u, exec (.vfredadd d a k t) s = .next u ∧
         WritesReg s u th [] d.toNat (BitVec.ofNat 64 (elem (vreg th a) 32 i))) ∧
     (∀ i j, i < j → j < 16 → width t = 32 → (∀ l, l < 16 → (mask th k).getLsbD l = decide (l = i ∨ l = j)) →
       let r := roundOnce (fmtOf t) (fld th.fstat 0 2) [elem (vreg th a) 32 i, elem (vreg th a) 32 j]
         (fun m vs => fAdd m (vs[0]?.getD (.fin false 0 0)) (vs[1]?.getD (.fin false 0 0)))
       r.2.2 = false → ∃ u th', exec (.vfredadd d a k t) s = .next u ∧ Becomes s u th' ∧
         RegsAfter [] d.toNat (BitVec.ofNat 64 r.1) th th' ∧ Quiet s u ∧
         { th' with regs := th.regs } = passed s { th with fstat := th.fstat ||| (r.2.1.zeroExtend 64 <<< 8) })) ∧
   (∀ (d a b : BitVec 5) (t : BitVec 3), Visible s [a] → ReadyNow th (srcP b) → Writable th d.toNat →
     ∃ u, exec (.vext d a b t) s = .next u ∧ WritesReg s u th [] d.toNat
       (let x := elem (vreg th a) (width t) ((val th b).toNat % (512 / width t))
        if t.toNat < 4 then BitVec.ofInt 64 (signedOf (width t) x) else BitVec.ofNat 64 x)) ∧
   (∀ (d a : BitVec 5) (k : BitVec 2) (t : BitVec 3), Visible s [d] → ReadyNow th (srcP a) →
     ∃ u th', exec (.vbcast d a k t) s = .next u ∧ Becomes s u th' ∧ VecOnly s th th' d.toNat id ∧ Quiet s u ∧
       ∀ e, e < 512 / width t → elem (vreg th' d) (width t) e =
         if on (mask th k) (width t) e = true then (val th a).toNat % 2 ^ width t else elem (vreg th d) (width t) e) ∧
   (∀ (d a b : BitVec 5) (t : BitVec 3), Visible s [d] → ReadyNow th (srcP a) → ReadyNow th (srcP b) →
     ∃ u th', exec (.vins d a b t) s = .next u ∧ Becomes s u th' ∧ VecOnly s th th' d.toNat id ∧ Quiet s u ∧
       ∀ e, e < 512 / width t → elem (vreg th' d) (width t) e =
         if e = (val th b).toNat % (512 / width t) then (val th a).toNat % 2 ^ width t else elem (vreg th d) (width t) e) ∧
   (∀ (d a b : BitVec 5) (k : BitVec 2) (t : BitVec 3), Visible s [d, a] → ReadyNow th (srcP b) →
     ∃ u th', exec (.vrot d a b k t) s = .next u ∧ Becomes s u th' ∧ VecOnly s th th' d.toNat id ∧ Quiet s u ∧
       ∀ e, e < 512 / width t → elem (vreg th' d) (width t) e =
         if on (mask th k) (width t) e = true then
           elem (vreg th a) (width t) ((e + (val th b).toNat) % (512 / width t))
         else elem (vreg th d) (width t) e))

/-- R198 to R202: a vector load whose elements its core's sources answer writes each enabled element from its bytes; a
vector store to the local scratchpad stores each enabled element and no other byte; vtabld of a table in the local
scratchpad loads the bank. R196: vtabld replaces the bank with the table's contents; a descriptor out of rule raises
FMTDESC with the offset of its first wrong byte. The table lies in the local scratchpad here. -/
def Obligations.VectorLoadsAndStores : Prop :=
  ((∀ i d ra rv k t addr, vecLoadRow i = some (d, ra, rv, k, t, addr) →
     ∀ s th es, Canonical s → Executing s th → th.acqOut = 0 → Visible s (d :: rv) → (∀ r ∈ ra, ReadyNow th (srcP r)) →
     (∀ n, plan .read false true ((onList (mask th k) (width t)).map (fun e => (e, addr th e, width t / 8)))
       (charge th.ctx n s) = .go es) →
     (∀ e ∈ es, Local s e.pa) →
     ∃ u th', exec i s = .next u ∧ Becomes s u th' ∧ VecOnly s th th' d.toNat (fun th => { th with floor := s.time8, noMerge := false }) ∧
       (∀ j, j < 512 / width t → elem (vreg th' d) (width t) j =
         match es.find? (fun e => e.idx == j) with
         | some e => leNat (rdBytes s e.pa (width t / 8))
         | none => elem (vreg th d) (width t) j) ∧
       Only s u (fun _ new => new) (fun old new => { new with slices := old.slices }) ∧ ∀ x, rdByte u x = rdByte s x) ∧
   (∀ (d a : BitVec 5) (k : BitVec 2) (t : BitVec 3) s th e rest, Canonical s → Executing s th → th.acqOut = 0 →
     Visible s [d] → ReadyNow th (srcP a) → onList (mask th k) (width t) = e :: rest →
     ∀ p, (∀ n, plan .read false true [(e, val th a, width t / 8)] (charge th.ctx n s) = .go [p]) → Local s p.pa →
     ∃ u th', exec (.vldb d a k t) s = .next u ∧ Becomes s u th' ∧
       VecOnly s th th' d.toNat (fun th => { th with floor := s.time8, noMerge := false }) ∧
       (∀ j, j < 512 / width t → elem (vreg th' d) (width t) j =
         if on (mask th k) (width t) j = true then leNat (rdBytes s p.pa (width t / 8)) else elem (vreg th d) (width t) j) ∧
       ∀ x, rdByte u x = rdByte s x) ∧
   (∀ i d ra rv k t addr, vecStoreRow i = some (d, ra, rv, k, t, addr) →
     ∀ s th es, Canonical s → Executing s th → th.acqOut = 0 → Visible s (d :: rv) → (∀ r ∈ ra, ReadyNow th (srcP r)) →
     (∀ n, plan .write true true ((onList (mask th k) (width t)).map (fun e => (e, addr th e, width t / 8)))
       (charge th.ctx n s) = .go es) →
     (∀ e ∈ es, Local s e.pa ∧ region e.va ≠ .paged) →
     ∃ u, exec i s = .next u ∧ Becomes s u (passed s th) ∧
       Only s u (fun old new => { new with tslots := old.tslots }) (fun old new =>
         { new with mem := old.mem, words := old.words, agenda := old.agenda, poison := old.poison,
                    slices := old.slices }) ∧
       ∀ x, rdByte u x =
         match es.reverse.find? (fun e => decide (e.pa ≤ x) && decide (x < e.pa + width t / 8)) with
         | some e => byteOf (elem (vreg th d) (width t) e.idx) (x - e.pa)
         | none => rdByte s x)) ∧
  (∀ (a : BitVec 5) (bank : BitVec 2) s th pa, Canonical s → Executing s th → th.acqOut = 0 → ReadyNow th (srcP a) →
   (val th a).toNat % 64 = 0 → (∀ j : Nat, (coreAt s (s.cur / 16)).cmps[j]?.getD (0, 0) = ((0, 0) : Word × Word)) →
   (∀ n j, j < 34 → check (charge th.ctx n s) (s.cur / 16) th.ctx (privOf th)
       (val th a + BitVec.ofNat 64 (32 * j)) 32 .read false = .ok (pa + 32 * j) ∧ Local s (pa + 32 * j) ∧
     stageWait (charge th.ctx n s) (val th a + BitVec.ofNat 64 (32 * j)) (pa + 32 * j) 32 .read 0 = none) →
   (descFault (rdBytes s pa 1088) = none →
     ∃ u, exec (.vtabld a bank) s = .next u ∧ Becomes s u (passed s { th with floor := s.time8 }) ∧
       (coreAt u (s.cur / 16)).banks[bank.toNat]? = some (bankOf (rdBytes s pa 1088)) ∧ ∀ x, rdByte u x = rdByte s x) ∧
   (∀ o, descFault (rdBytes s pa 1088) = some o →
     ∃ u th', exec (.vtabld a bank) s = .next u ∧ Becomes s u th' ∧
       th'.form = .trapping (trapOf s th .fmtdesc (BitVec.ofNat 64 o) (val th a)) ∧
       (coreAt u (s.cur / 16)).banks = (coreAt s (s.cur / 16)).banks ∧ ∀ x, rdByte u x = rdByte s x))

/-- R129, R138, R144, R147 to R149: yield goes on where no work waits, and else leaves the pipeline; susp takes the message
that waits for it, or leaves the pipeline; quit frees the slot, the record and the tid. Where its pass ends, what has come
meanwhile completes a susp and keeps a yield in its slot; else the thread is written out, and a yield's entered at the tail of
its pool in the vault (R135; that an entry is a 4-byte tid is the model's choice: log entry 12). A thread that parks is parked
from there on (R132, R138). -/
def Obligations.ThreadsLeaveTheirSlots : Prop :=
  (∀ s th, Canonical s → Executing s th →
   ((∀ p, prioOf th ≤ p → p < 4 → poolOf s th.ctx (s.cur / 16) p = []) ∨ pinOf th = true ∨ privOf th = 3 ∨
       (slotAt s s.cur).mailbox ≠ [] →
     ∃ t, exec .yield s = .next t ∧ ChangesThread s t th [] id) ∧
   (∀ p, prioOf th ≤ p → p < 4 → poolOf s th.ctx (s.cur / 16) p ≠ [] → pinOf th = false → privOf th ≠ 3 →
       (slotAt s s.cur).mailbox = [] → leaveWait s s.cur th = none → (∀ r, r < 28 → (regOf th r).st ≠ .failed) →
     ∃ t, exec .yield s = .next t ∧ Quiet s t ∧ Becomes s t { th with form := .inFlight (.leaving 6) }) ∧
   (privOf th ≠ 3 → releasedAt s s.cur th = true → th.acqOut = 0 →
       (∀ r, r < 28 → (regOf th r).st ≠ .pending ∧ (regOf th r).st ≠ .failed) →
     (∀ m, (slotAt s s.cur).latch = some m →
       ∃ t, exec .susp s = .next t ∧ Becomes s t (passed s (tookMsg s m th)) ∧
         (slotAt t s.cur).latch = none ∧ (slotAt t s.cur).mailbox = (slotAt s s.cur).mailbox ∧ SlotOnly s t s.cur) ∧
     (∀ m rest, (slotAt s s.cur).latch = none → (slotAt s s.cur).mailbox = m :: rest →
       ∃ t, exec .susp s = .next t ∧ Becomes s t (passed s (tookMsg s m th)) ∧
         (slotAt t s.cur).mailbox = rest ∧
         (∀ x, (coreAt s (s.cur / 16)).senders.find? (fun x => x.target == s.cur) = some x →
           Sent t (.wakeAtSlot ⟨x.slot, x.ctx, x.tid⟩ (hwMsg 7 (fld x.word 0 56)))) ∧ ∀ x, rdByte t x = rdByte s x) ∧
     ((slotAt s s.cur).latch = none → (slotAt s s.cur).mailbox = [] → leaveWait s s.cur th = none →
       ∃ t, exec .susp s = .next t ∧ Quiet s t ∧ Becomes s t { th with form := .inFlight (.leaving 3) })) ∧
   (∃ t, exec .quit s = .next t ∧ (slotAt t s.cur).occ = .vacant ∧
     (th.task = 0 → sqOf s (s.cur / 16) (named_ s th) = [] → (ctxAt t th.ctx).freeTids = th.tid :: (ctxAt s th.ctx).freeTids) ∧
     ∀ pa, th.task = 0 → sqOf s (s.cur / 16) (named_ s th) ≠ [] → RecordAt s th.ctx th.tid pa →
       (th.tid, s.cur / 16) ∈ (ctxAt t th.ctx).ending ∧ (ctxAt t th.ctx).freeTids = (ctxAt s th.ctx).freeTids ∧
       StoresList s t pa (leBytes 8 (setFld (rd64 s pa) 48 4 0).toNat))) ∧
  (∀ s p th, Canonical s → threadAt s p = some th → th.issued + 8 ≤ s.cycle → (coreAt s (p / 16)).closed = false →
   (th.form = .inFlight (.leaving 6) →
     ((slotAt s p).mailbox ≠ [] → threadAt (endPass p s) p = some (passed s th) ∧ SlotOnly s (endPass p s) p) ∧
     ∀ pa ep, (slotAt s p).mailbox = [] → pinOf th = false → RecordAt s th.ctx th.tid pa →
       EntryAt s th.ctx (poolVa s th.ctx (poolKey (chipOfCore (p / 16)) (prioOf th))) 4 ep [(pa, 64)] →
       (slotAt (endPass p s) p).occ = .vacant ∧ rdBytes (endPass p s) pa 64 = wordsBytes (recOf th 6 (th.pc + 4)) ∧
       rdBytes (endPass p s) ep 4 = leBytes 4 th.tid ∧ KeepsOutside s (endPass p s) [(pa, 64), (ep, 4)] ∧
       poolOf (endPass p s) th.ctx (p / 16) (prioOf th) =
         poolOf s th.ctx (p / 16) (prioOf th) ++ [⟨th.tid, p / 16, tick s⟩]) ∧
   (∀ k, th.form = .parked k → (slotAt s p).latch = none → k.why ≠ .recv ∨ (slotAt s p).mailbox = [] →
     threadAt (endPass p s) p = some { th with parkT := s.time8 } ∧ SlotOnly s (endPass p s) p) ∧
   (th.form = .inFlight (.leaving 3) →
     (∀ m, (slotAt s p).latch = some m →
       threadAt (endPass p s) p = some (passed s (tookMsg s m th)) ∧ (slotAt (endPass p s) p).latch = none ∧
       SlotOnly s (endPass p s) p) ∧
     (∀ m rest, (slotAt s p).latch = none → (slotAt s p).mailbox = m :: rest →
       threadAt (endPass p s) p = some (passed s (tookMsg s m th)) ∧ (slotAt (endPass p s) p).mailbox = rest) ∧
     ∀ pa, (slotAt s p).latch = none → (slotAt s p).mailbox = [] → RecordAt s th.ctx th.tid pa →
       ownsEngine s (p / 16) th.tid th.ctx = false →
       StoresList s (endPass p s) pa (wordsBytes (recOf th 3 (th.pc + 4))) ∧
       (slotAt (endPass p s) p).occ = if pinOf th = true then .forPinned th.tid th.ctx th.binds else .vacant))

/-- R123, R146, R150, R151: tid reads the thread's numbers; spawn takes a tid and makes a thread of its arguments, in
the pool, at its tail in the vault, where its core has no vacant slot that no handler waits for, and else in the first; migr
sends the thread to another core where its pass ends (R138), or says why not. -/
def Obligations.SpawnMigrateAndTid : Prop :=
  (∀ s th, Canonical s → Executing s th →
  (∀ (d : BitVec 5), Writable th d.toNat →
    ∃ t, exec (.tid d) s = .next t ∧ WritesReg s t th [] d.toNat
      (BitVec.ofNat 64 (th.tid + s.cur % 16 * 2 ^ 20 + lcoreOf s (s.cur / 16) * 2 ^ 24))) ∧
  (∀ (d a b : BitVec 5) (ma mb : BitVec 2), th.acqOut = 0 → ReadyNow th (src a ma) → ReadyNow th (src b mb) →
      Writable th d.toNat → GoodTarget (val th a).toNat → (val th b).toNat % 8 = 0 →
    (firstTid s th.ctx = none →
      ∃ t, exec (.spawn d a b ma mb) s = .next t ∧ WritesReg s t th [src a ma, src b mb] d.toNat (BitVec.ofInt 64 (-1))) ∧
    (∀ n es, firstTid s th.ctx = some n →
      plan .read false false ((List.range 4).map (fun i => (i, val th b + BitVec.ofNat 64 (8 * i), 8))) s = .go es →
      (privOf th = 3 → openIn s (s.cur / 16) = [] →
        ∃ t, exec (.spawn d a b ma mb) s = .next t ∧
          WritesReg s t th [src a ma, src b mb] d.toNat (BitVec.ofInt 64 (-2))) ∧
      (∀ p rest, privOf th = 3 → releasedAt s s.cur th = true → openIn s (s.cur / 16) = p :: rest →
          (∀ e ∈ es, inDram e.pa = true → PlainLine s (homeOf e.va e.pa) (e.pa / 32)) →
        ∃ t th' tc, exec (.spawn d a b ma mb) s = .next t ∧ Becomes s t th' ∧
          RegsAfter [src a ma, src b mb] d.toNat (BitVec.ofNat 64 n) th th' ∧ threadAt t p = some tc ∧ tc.tid = n ∧
          tc.ctx = th.ctx ∧ tc.pc = (val th a).setWidth 48 ∧ tc.form = .ready ∧ privOf tc = 3) ∧
      (∀ pa hp, privOf th ≠ 3 → releasedAt s s.cur th = true →
          (∀ e ∈ es, inDram e.pa = true → PlainLine s (homeOf e.va e.pa) (e.pa / 32)) →
          VaultAt s th.ctx (recVa s th.ctx n) 64 pa → VaultAt s th.ctx (ctxWord s th.ctx 0x10).toNat 8 hp →
          Apart s th.ctx (fun x => Within pa 64 x ∨ Within hp 8 x) → (pa + 64 ≤ hp ∨ hp + 8 ≤ pa) →
        ∃ t th', exec (.spawn d a b ma mb) s = .next t ∧ Becomes s t th' ∧
          RegsAfter [src a ma, src b mb] d.toNat (BitVec.ofNat 64 n) th th' ∧
          { th' with regs := th.regs } = passed s th ∧
          (∀ rest, (ctxAt s th.ctx).freeTids = n :: rest → (ctxAt t th.ctx).freeTids = rest) ∧
          (∀ ep, openIn s (s.cur / 16) = [] →
            EntryAt s th.ctx (poolVa s th.ctx (poolKey (chipOfCore (s.cur / 16)) (prioOf th))) 4 ep [(pa, 64), (hp, 8)] →
            ((∀ e ∈ es, e.pa < altBase) →
              rdBytes t pa 64 = wordsBytes (spawnRec th (val th a) (es.map (fun e => rd64 s e.pa)) 6)) ∧
            rdBytes t ep 4 = leBytes 4 n ∧
            poolOf t th.ctx (s.cur / 16) (prioOf th) =
              poolOf s th.ctx (s.cur / 16) (prioOf th) ++ [⟨n, s.cur / 16, tick s⟩]) ∧
          (∀ p rest, openIn s (s.cur / 16) = p :: rest →
            ∃ tc, threadAt t p = some tc ∧ tc.tid = n ∧ tc.ctx = th.ctx ∧ tc.pc = (val th a).setWidth 48 ∧
              tc.form = .ready ∧ privOf tc = (if privOf th = 1 then 1 else 0) ∧ prioOf tc = prioOf th ∧
              ((∀ e ∈ es, e.pa < altBase) → ∀ i, i < 4 → regOf tc (2 + i) = { st := .full, val := (es.map (fun e => rd64 s e.pa))[i]?.getD 0 }))))) ∧
  (∀ (d a : BitVec 5) (ma : BitVec 2) c, th.acqOut = 0 → ReadyNow th (src a ma) → Writable th d.toNat →
      (val th a).toNat < coreCount s th.ctx → physCore s th.ctx (val th a).toNat = some c →
    (c = s.cur / 16 → ∃ t, exec (.migr d a ma) s = .next t ∧ WritesReg s t th [src a ma] d.toNat 3) ∧
    (c ≠ s.cur / 16 → sqOf s (s.cur / 16) (named_ s th) ≠ [] ∨ releasedAt s s.cur th = true → eligible s s.cur th = false →
      ∃ t, exec (.migr d a ma) s = .next t ∧ WritesReg s t th [src a ma] d.toNat 2) ∧
    (c ≠ s.cur / 16 → releasedAt s s.cur th = true → eligible s s.cur th = true →
      ∃ t th', exec (.migr d a ma) s = .next t ∧ Becomes s t th' ∧ RegsAfter [src a ma] d.toNat 0 th th' ∧
        { th' with regs := th.regs } = { th with form := .inFlight (.departing c (some d.toNat)) } ∧ Quiet s t))) ∧
  ∀ s p c d tm, Canonical s → threadAt s p = some tm → tm.form = .inFlight (.departing c (some d)) → d < 24 → tm.issued + 8 ≤ s.cycle →
    (coreAt s (p / 16)).closed = false →
    (eligible s p tm = false → ∃ th', threadAt (endPass p s) p = some th' ∧ RegsAfter [] d 2 tm th' ∧
      { th' with regs := tm.regs } = passed s tm ∧ SlotOnly s (endPass p s) p) ∧
    (eligible s p tm = true →
      ∃ m, threadAt (endPass p s) p = some { tm with form := .inFlight .migrate } ∧
        ⟨.migrantArrival m, some (p / 16, c)⟩ ∈ (endPass p s).agenda ∧ m.origin = p ∧ m.target = c ∧ m.ctx = tm.ctx ∧
        m.tid = tm.tid ∧ m.pc = tm.pc + 4 ∧ m.migr = some d ∧
        ∀ r, r < 24 → (regOf tm r).st = .full → m.regs[r]? = some (regOf tm r).val ∧ m.states[r]? = some 1)

/-- R129, R130, R138: a wake that finds its thread parked, its pass over, ends the park, else it is latched, else counted; at
a record it acts by the record's STATE, and one that makes the record ready enters it at the tail of its pool in the vault
(R135; that an entry is a 4-byte tid is the model's choice: log entry 12). -/
def Obligations.WakesReachTheirThreads : Prop :=
  (∀ s p th m, Canonical s → HeldIn s p th → (ctxAt s th.ctx).st = .resident → th.form ≠ .inFlight .migrate →
    (∀ k, th.form = .parked k → th.issued + 8 ≤ s.cycle → k.completes = false ∨ th.pc ≠ lastPc →
      Delivers s (.wakeAtSlot (nameAt p th) m) (setThread s p
        (if k.completes = true then passed s (tookMsg s m th)
         else { th with form := .ready, readyAt := max (th.issued + 8) s.cycle, behind := [] }))) ∧
    ((∀ k, th.form = .parked k → s.cycle < th.issued + 8) → (slotAt s p).latch = none →
      ∃ t, Delivers s (.wakeAtSlot (nameAt p th) m) t ∧ slotAt t p = { slotAt s p with latch := some m } ∧
        (∀ q, q ≠ p → slotAt t q = slotAt s q) ∧
        (th.form ≠ .trapped → (∀ a b, th.form ≠ .stopped a b) → t = setSlot s p { slotAt s p with latch := some m })) ∧
    ((∀ k, th.form = .parked k → s.cycle < th.issued + 8) → (slotAt s p).latch ≠ none →
        (coreAt s (p / 16)).wakeDrops + 1 < 2 ^ 64 →
      Delivers s (.wakeAtSlot (nameAt p th) m)
        (setCore s (p / 16) { coreAt s (p / 16) with wakeDrops := (coreAt s (p / 16)).wakeDrops + 1 }))) ∧
  (∀ s (th : Thr) m, s.now = none → holds s th = false →
    ∃ t, Delivers s (.wakeAtSlot th m) t ∧ t = post (.wakeAtRecord th m) s) ∧
  (∀ s (th : Thr) m pa, Canonical s → s.now = none → RecordAt s th.ctx th.tid pa →
    (∀ x ∈ s.slots, ∀ bs, x.2.occ ≠ .forPinned th.tid th.ctx bs) →
    let core := (ctxAt s th.ctx).lastCore.get 0 th.tid
    let prio := fld (rd64 s pa) 52 2
    let tail := poolVa s th.ctx (poolKey (chipOfCore core) prio)
    (∀ ep, fld (rd64 s pa) 48 4 = 5 → fld (rd64 s pa) 54 1 = 0 → EntryAt s th.ctx tail 4 ep [(pa, 64)] →
      ∃ t, Delivers s (.wakeAtRecord th m) t ∧ rd64 t pa = setFld (rd64 s pa) 48 4 6 ∧
        rdBytes t ep 4 = leBytes 4 th.tid ∧ KeepsOutside s t [(pa, 8), (ep, 4)] ∧
        poolOf t th.ctx core prio = poolOf s th.ctx core prio ++ [⟨th.tid, core, tick s⟩]) ∧
    (∀ ep, fld (rd64 s pa) 48 4 = 3 → fld (rd64 s pa) 54 1 = 0 → EntryAt s th.ctx tail 4 ep [(pa, 64)] →
      ∃ t, Delivers s (.wakeAtRecord th m) t ∧ rd64 t pa = setFld (rd64 s pa) 48 4 4 ∧
        rdBytes t (pa + 48) 16 = wordsBytes (msgWords m) ∧ rdBytes t ep 4 = leBytes 4 th.tid ∧
        KeepsOutside s t [(pa, 8), (pa + 48, 16), (ep, 4)] ∧
        poolOf t th.ctx core prio = poolOf s th.ctx core prio ++ [⟨th.tid, core, tick s⟩]) ∧
    (fld (rd64 s pa) 48 4 = 4 ∨ fld (rd64 s pa) 48 4 = 6 → (coreAt s (th.slot / 16)).wakeDrops + 1 < 2 ^ 64 →
      Delivers s (.wakeAtRecord th m) (setCore s (th.slot / 16)
        { coreAt s (th.slot / 16) with wakeDrops := (coreAt s (th.slot / 16)).wakeDrops + 1 })) ∧
    (∀ p, fld (rd64 s pa) 48 4 = 1 → (ctxAt s th.ctx).st = .resident → fld (rd64 s (pa + 48)) 0 16 = p →
        holds s ⟨p, th.ctx, th.tid⟩ = true →
      Delivers s (.wakeAtRecord th m) (post (.wakeAtSlot ⟨p, th.ctx, th.tid⟩ m) s)) ∧
    (fld (rd64 s pa) 48 4 = 0 → Delivers s (.wakeAtRecord th m) s))

/-- R132, R136, R137: a thread whose park reaches PARKLIM is written out; a vacant slot resumes the front entry of its
chiplet's pool; entries that have waited PROMOTE move to the tail of the next priority's pool. R142, R143: a migrant takes the first
vacant slot of an open core with a free arrival entry, or is refused; accepted, the thread stands in its new slot and
the old one is vacant; refused, it goes on where it was. -/
def Obligations.PoolsAndMigrants : Prop :=
  ((∀ s p th k pa, Canonical s → HeldIn s p th → th.form = .parked k → mayWriteOut s p th = true →
     RecordAt s th.ctx th.tid pa →
     ∃ t, Delivers s (.parklimWriteOut p) t ∧ (slotAt t p).occ = .vacant ∧
       StoresList s t pa (wordsBytes (if k.completes = true ∧ th.pc ≠ lastPc then recOf th 3 (th.pc + 4) else recOf th 5 th.pc))) ∧
   (∀ s ctx chip prio e rest p pa, Canonical s → s.now = none →
     (ctxAt s ctx).st = .resident → prio < 4 → (ctxAt s ctx).pool.get [] (poolKey chip prio) = e :: rest →
     (∀ q, prio < q → q < 4 → (ctxAt s ctx).pool.get [] (poolKey chip q) = []) →
     leastBy (fun p => hops (p / 16) e.core * 65536 + p) (openSlots s ctx chip) = some p →
     RecordAt s ctx e.tid pa → recLoadable (rd64 s pa) = true →
     ∃ t, Delivers s (.poolPickup ctx chip) t ∧ threadAt t p = some (recThread s ctx e.tid) ∧
       (ctxAt t ctx).pool.get [] (poolKey chip prio) = rest ∧ rd64 t pa = setFld (rd64 s pa) 48 4 1 ∧
       rd64 t (pa + 48) = BitVec.ofNat 64 p ∧ rd64 t (pa + 56) = 0 ∧
       ∀ x, x < altBase → ¬ Within pa 8 x → ¬ Within (pa + 48) 16 x → rdByte t x = rdByte s x) ∧
   (∀ s ctx chip, Canonical s → s.now = none →
     let due (e : PoolEnt) : Bool := decide (e.since + max 1000 (ctxAt s ctx).promote.toNat ≤ tick s)
     let old (k : Nat) := (ctxAt s ctx).pool.get [] (poolKey chip k)
     let up (k : Nat) := ((old k).filter due).map (fun e => { e with since := tick s })
     ∃ t, Delivers s (.promoteAging ctx chip) t ∧
       (ctxAt t ctx).pool.get [] (poolKey chip 0) = (old 0).filter (fun e => !due e) ∧
       (ctxAt t ctx).pool.get [] (poolKey chip 1) = (old 1).filter (fun e => !due e) ++ up 0 ∧
       (ctxAt t ctx).pool.get [] (poolKey chip 2) = (old 2).filter (fun e => !due e) ++ up 1 ∧
       (ctxAt t ctx).pool.get [] (poolKey chip 3) = old 3 ++ up 2 ∧ t.slots = s.slots ∧
       (up 0 = [] → up 1 = [] → up 2 = [] → ∀ x, rdByte t x = rdByte s x)) ∧
   (∀ s ctx chip k e ep, Canonical s → s.now = none →
     let due (e : PoolEnt) : Bool := decide (e.since + max 1000 (ctxAt s ctx).promote.toNat ≤ tick s)
     let up (k : Nat) := ((ctxAt s ctx).pool.get [] (poolKey chip k)).filter due
     k < 3 → up k = [e] → (∀ j, j < 3 → j ≠ k → up j = []) → EntryAt s ctx (poolVa s ctx (poolKey chip (k + 1))) 4 ep [] →
     ∃ t, Delivers s (.promoteAging ctx chip) t ∧ rdBytes t ep 4 = leBytes 4 e.tid ∧ KeepsOutside s t [(ep, 4)])) ∧
  ((∀ s (m : Migrant), Canonical s → s.now = none →
     (∀ p rest, (coreAt s m.target).arrivals < 4 → routeFenced s (m.origin / 16) m.target = false →
         coreOpen s m.target = true → vacantIn s m.target = p :: rest →
       ∃ t, Delivers s (.migrantArrival m) t ∧ (slotAt t p).occ = .forArrival m.tid m.ctx ∧
         (coreAt t m.target).arrivals = (coreAt s m.target).arrivals + 1 ∧
         t.agenda = s.agenda ++ [⟨.migrantAccepted m p, some (m.target, m.origin / 16)⟩] ∧
         (∀ q, q ≠ p → slotAt t q = slotAt s q) ∧ ∀ x, rdByte t x = rdByte s x) ∧
     (4 ≤ (coreAt s m.target).arrivals ∨ routeFenced s (m.origin / 16) m.target = true ∨ coreOpen s m.target = false ∨
         vacantIn s m.target = [] →
       Delivers s (.migrantArrival m) (postOrd m.target (m.origin / 16) (.migrantRefused m) s))) ∧
   (∀ s (m : Migrant) p th, Canonical s → HeldIn s m.origin th → th.tid = m.tid → th.ctx = m.ctx → p ≠ m.origin →
     (∀ f ∈ (coreAt s (m.origin / 16)).fwd, f.held = none) →
     ∃ t, Delivers s (.migrantAccepted m p) t ∧ threadAt t p = some (arrived s m) ∧ (slotAt t m.origin).occ = .vacant ∧
       ∀ f ∈ (coreAt s (m.origin / 16)).fwd, f.tid = m.tid → f.ctx = m.ctx → f.slot = m.origin → f.target = none →
         { f with target := some p } ∈ (coreAt t (m.origin / 16)).fwd) ∧
   (∀ s (m : Migrant) th, Canonical s → HeldIn s m.origin th → th.tid = m.tid → th.ctx = m.ctx →
     th.form = .inFlight .migrate → (∀ f ∈ (coreAt s (m.origin / 16)).fwd, f.held = none) →
     ∃ t, Delivers s (.migrantRefused m) t ∧
       threadAt t m.origin = some (match m.migr with
         | some d => passed s (setFull d 1 th)
         | none => { th with form := .inFlight .retry, readyAt := s.cycle, stay := true }) ∧
       ∀ q, q ≠ m.origin → slotAt t q = slotAt s q))

/-- R235, R238 to R241: send and sendg send their messages and wait for the replies; recv takes the oldest message or
parks for one; rpeek reads what waits. -/
def Obligations.MessagesSentAndTaken : Prop :=
  ∀ s th, Canonical s → Executing s th →
  (∀ (d a b : BitVec 5) (ma mb : BitVec 2) c, th.acqOut = 0 → ReadyNow th (src a ma) → ReadyNow th (src b mb) →
      Writable th d.toNat → releasedAt s s.cur th = true → fld (val th a) 36 26 = 0 → fld (val th a) 24 12 < coreCount s th.ctx →
      physCore s th.ctx (fld (val th a) 24 12) = some c →
    let byslot : Bool := fld (val th a) 63 1 == 1
    let dest : Thr := ⟨16 * c + fld (val th a) 20 4, th.ctx, fld (val th a) 0 20⟩
    let who : Nat := th.tid + lcoreOf s (s.cur / 16) * 2 ^ 20
    (fld (val th a) 62 1 = 0 →
      ∃ t takes, exec (.send d a b ma mb) s = .next t ∧ Becomes s t { th with form := .inFlight (.reply d.toNat takes []) } ∧
        (∀ r, r ∈ takes ↔ (ma = 2 ∧ r = a.toNat) ∨ (mb = 2 ∧ r = b.toNat)) ∧
        t.agenda = s.agenda ++ [⟨.mailboxMessage ⟨byslot, false, false, dest,
          ⟨0x10, BitVec.ofNat 56 who, val th b⟩, named_ s th, val th a⟩, some (s.cur / 16, c)⟩] ∧
        Quiet s { t with agenda := s.agenda }) ∧
    (fld (val th a) 62 1 = 1 → privOf th ≠ 0 →
      ∃ t takes m, exec (.send d a b ma mb) s = .next t ∧ Becomes s t { th with form := .inFlight (.reply d.toNat takes []) } ∧
        t.agenda = s.agenda ++ [⟨.mailboxMessage ⟨byslot, true, false, dest, m, named_ s th, val th a⟩,
          some (s.cur / 16, c)⟩] ∧
        m = (if 1 ≤ fld (val th b) 0 8 ∧ fld (val th b) 0 8 ≤ 3 then hwMsg (fld (val th b) 0 8) (fld (val th b) 8 48)
          else ⟨0x11, BitVec.ofNat 56 who, val th b⟩) ∧ Quiet s { t with agenda := s.agenda }) ∧
    (fld (val th a) 62 1 = 1 → privOf th = 0 →
      ∃ t, exec (.send d a b ma mb) s = .next t ∧ Raises s t th (trapOf s th .privinst 0 0))) ∧
  (∀ (d a b : BitVec 5) (ma mb : BitVec 2) ms, th.acqOut = 0 → ReadyNow th (src a ma) → ReadyNow th (src b mb) →
      Writable th d.toNat → releasedAt s s.cur th = true → (val th a).toNat < 4096 →
      grpMembers s th.ctx (fld (val th a) 0 8) = some ms →
    (ms.filterMap (physCore s th.ctx) = [] →
      ∃ t, exec (.sendg d a b ma mb) s = .next t ∧ WritesReg s t th [src a ma, src b mb] d.toNat 0) ∧
    (ms.filterMap (physCore s th.ctx) ≠ [] →
      ∃ t th', exec (.sendg d a b ma mb) s = .next t ∧ Becomes s t th' ∧ RegsRead [src a ma, src b mb] th th' ∧
        { th' with regs := th.regs } =
          { th with form := .inFlight (.members d.toNat (ms.filterMap (physCore s th.ctx)).length 0) } ∧
        t.agenda = s.agenda ++ (ms.filterMap (physCore s th.ctx)).map (fun c =>
          ⟨.mailboxMessage ⟨true, false, true, ⟨16 * c + fld (val th a) 8 4, th.ctx, 0⟩,
            ⟨0x12, BitVec.ofNat 56 (th.tid + lcoreOf s (s.cur / 16) * 2 ^ 20 + fld (val th a) 0 8 * 2 ^ 32), val th b⟩,
            named_ s th, val th a⟩, some (s.cur / 16, c)⟩) ∧
        Quiet s { t with agenda := s.agenda })) ∧
  (∀ m, (slotAt s s.cur).latch = some m →
    ∃ t, exec .recv s = .next t ∧ Becomes s t (passed s (tookMsg s m th)) ∧
      (slotAt t s.cur).latch = none ∧ (slotAt t s.cur).mailbox = (slotAt s s.cur).mailbox ∧ SlotOnly s t s.cur) ∧
  (∀ m rest, (slotAt s s.cur).latch = none → (slotAt s s.cur).mailbox = m :: rest →
    ∃ t, exec .recv s = .next t ∧ Becomes s t (passed s (tookMsg s m th)) ∧
      (slotAt t s.cur).mailbox = rest ∧
      (∀ x, (coreAt s (s.cur / 16)).senders.find? (fun x => x.target == s.cur) = some x →
        Sent t (.wakeAtSlot ⟨x.slot, x.ctx, x.tid⟩ (hwMsg 7 (fld x.word 0 56)))) ∧ ∀ x, rdByte t x = rdByte s x) ∧
  ((slotAt s s.cur).latch = none → (slotAt s s.cur).mailbox = [] →
    ∃ t, exec .recv s = .next t ∧ Parks s t th ⟨false, .recv, true⟩) ∧
  (∀ (d : BitVec 5), Writable th d.toNat →
    ∃ t, exec (.rpeek d) s = .next t ∧ WritesReg s t th [] d.toNat
      (BitVec.ofNat 64 ((slotAt s s.cur).mailbox.length + (if (slotAt s s.cur).latch = none then 0 else 8) +
        16 * (match (slotAt s s.cur).latch, (slotAt s s.cur).mailbox with
          | some m, _ => m.kind.toNat
          | none, m :: _ => m.kind.toNat
          | none, [] => 0))))

/-- R235, R238, R239: a message completes the recv parked on an empty mailbox, else is appended, else queues its
sender, else is refused, and its sender is answered; the answers end send and sendg. -/
def Obligations.MailboxesAnswer : Prop :=
  (∀ s slot th (p : Post), Canonical s → HeldIn s slot th → p.dest.slot = slot → p.wake = false →
      th.form ≠ .inFlight .migrate →
      (if p.byslot = true then th.ctx = p.dest.ctx else th.ctx = p.dest.ctx ∧ th.tid = p.dest.tid) →
    let back (status : Nat) : Event :=
      if p.group = true then .sendgMemberReply p.sender (status == 0) else .sendReply p.sender status
    let chan := some (slot / 16, p.sender.slot / 16)
    (th.form = .parked ⟨false, .recv, true⟩ → (slotAt s slot).mailbox = [] → (slotAt s slot).latch = none →
        th.issued + 8 ≤ s.cycle → th.pc ≠ lastPc →
      ∃ t, Delivers s (.mailboxMessage p) t ∧ threadAt t slot = some (passed s (tookMsg s p.m th)) ∧
        t.agenda = s.agenda ++ [⟨back 0, chan⟩] ∧ SlotOnly s t slot) ∧
    ((∀ k, th.form = .parked k → k.why ≠ .recv ∨ s.cycle < th.issued + 8) →
      ((slotAt s slot).mailbox.length < 4 →
        ∃ t, Delivers s (.mailboxMessage p) t ∧
          slotAt t slot = { slotAt s slot with mailbox := (slotAt s slot).mailbox ++ [p.m] } ∧ ⟨back 0, chan⟩ ∈ t.agenda ∧
          (th.form ≠ .trapped → (∀ a b, th.form ≠ .stopped a b) →
            t.agenda = s.agenda ++ [⟨back 0, chan⟩] ∧ SlotOnly s t slot)) ∧
      (4 ≤ (slotAt s slot).mailbox.length → p.group = false → (coreAt s (slot / 16)).senders.length < 16 →
        ∃ t, Delivers s (.mailboxMessage p) t ∧ t.agenda = s.agenda ++ [⟨.sendReply p.sender 4, chan⟩] ∧
          t.slots = s.slots ∧ (coreAt t (slot / 16)).senders =
            (coreAt s (slot / 16)).senders ++ [⟨p.sender.tid, p.sender.ctx, p.sender.slot, slot, p.target⟩]) ∧
      (4 ≤ (slotAt s slot).mailbox.length → p.group = true ∨ 16 ≤ (coreAt s (slot / 16)).senders.length →
        Delivers s (.mailboxMessage p) (postOrd (slot / 16) (p.sender.slot / 16) (back 3) s)))) ∧
  (∀ s (p : Post), s.now = none → threadAt s p.dest.slot = none → p.byslot = true →
    Delivers s (.mailboxMessage p) (postOrd (p.dest.slot / 16) (p.sender.slot / 16)
      (if p.group = true then .sendgMemberReply p.sender false else .sendReply p.sender 2) s)) ∧
  (∀ s slot th d takes status, Canonical s → HeldIn s slot th → th.form = .inFlight (.reply d takes []) → d < 28 →
      status ≠ 4 →
    ∃ t th', Delivers s (.sendReply (nameAt slot th) status) t ∧ threadAt t slot = some th' ∧
      (∀ r, r < 28 → regOf th' r = if r = d then { st := .full, val := BitVec.ofNat 64 status }
        else if r ∈ takes then { regOf th r with st := .empty } else regOf th r) ∧
      { th' with regs := th.regs } = passed s th ∧ SlotOnly s t slot) ∧
  (∀ s slot th d takes, Canonical s → HeldIn s slot th → th.form = .inFlight (.reply d takes []) →
      (slotAt s slot).latch = none →
    ∃ t, Delivers s (.sendReply (nameAt slot th) 4) t ∧
      threadAt t slot = some (parkedBy s th ⟨false, .sender, false⟩) ∧ SlotOnly s t slot) ∧
  (∀ s slot th d missing accepted (ok : Bool), Canonical s → HeldIn s slot th →
      th.form = .inFlight (.members d missing accepted) → d < 28 →
    ∃ t, Delivers s (.sendgMemberReply (nameAt slot th) ok) t ∧
      threadAt t slot = some (if missing ≤ 1 then
          passed s (setFull d (BitVec.ofNat 64 (accepted + if ok = true then 1 else 0)) th)
        else { th with form := .inFlight (.members d (missing - 1) (accepted + if ok = true then 1 else 0)) }) ∧
      SlotOnly s t slot)

/-- R231, R232, R242 to R245: qbind and qunbind change the binding of one name of a pinned thread; qstat reads the
queue behind it; qclose closes a role queue and wakes those parked on it; a closed queue is new once nothing is bound
to it. -/
def Obligations.QueueBindings : Prop :=
  ∀ s th (q : BitVec 2), Canonical s → Executing s th →
  (∀ (a : BitVec 5) (ma : BitVec 2), ReadyNow th (src a ma) →
    (pinOf th = true → (val th a).toNat < 4 ∨ ((val th a).toNat < 256 ∧ (qview s (s.cur / 16) (val th a).toNat).isSome = true ∧
        mayBindEng s (s.cur / 16) (val th a).toNat th = true) → (∀ c, (roleOf s (s.cur / 16) c).closed = false) →
      ∃ t, exec (.qbind q a ma) s = .next t ∧ ChangesThread s t th [src a ma]
        (fun th => { th with binds := th.binds.setIfInBounds q.toNat (some (val th a).toNat) })) ∧
    (pinOf th = false → ∃ t, exec (.qbind q a ma) s = .next t ∧
      Raises s t th (trapOf s th .queue (BitVec.ofNat 64 (4 + q.toNat * 256)) 0))) ∧
  (∀ (d : BitVec 5), Writable th d.toNat →
    ∃ t, exec (.qstat d q) s = .next t ∧ WritesReg s t th [] d.toNat
      (match boundTo th (28 + q.toNat) with
        | none => 0
        | some qid =>
          match qview s (s.cur / 16) qid with
          | none => 0
          | some v => BitVec.ofNat 64 ((if v.closed = true then 64 else 0) + 128 + qid * 2 ^ 8 + v.data.length * 2 ^ 24 +
              v.cap * 2 ^ 32))) ∧
  (boundTo th (28 + q.toNat) = none →
    (∃ t, exec (.qunbind q) s = .next t ∧ Raises s t th (trapOf s th .queue (BitVec.ofNat 64 (1 + q.toNat * 256)) 0)) ∧
    ∃ t, exec (.qclose q) s = .next t ∧ Raises s t th (trapOf s th .queue (BitVec.ofNat 64 (1 + q.toNat * 256)) 0)) ∧
  (∀ qid, boundTo th (28 + q.toNat) = some qid →
    ((∀ c, (roleOf s (s.cur / 16) c).closed = false) →
      ∃ t, exec (.qunbind q) s = .next t ∧ ChangesThread s t th []
        (fun th => { th with binds := th.binds.setIfInBounds q.toNat none })) ∧
    (qid < 4 → (∀ i, i < 4 → i ≠ q.toNat → th.binds[i]? ≠ some (some qid)) →
        (∀ p, p / 16 = s.cur / 16 → p ≠ s.cur → (slotAt s p).occ = .vacant) →
      ∃ t, exec (.qunbind q) s = .next t ∧
        ((roleOf s (s.cur / 16) qid).closed = true → (coreAt t (s.cur / 16)).roleq[qid]? = some {})) ∧
    (qid < 4 →
      ∃ t, exec (.qclose q) s = .next t ∧ Becomes s t (passed s th) ∧
        (coreAt t (s.cur / 16)).roleq = (coreAt s (s.cur / 16)).roleq.setIfInBounds qid
          { roleOf s (s.cur / 16) qid with closed := true } ∧
        t.agenda = s.agenda ++ ((coreAt s (s.cur / 16)).qparked.filter (fun x => x.1 == qid && qWaits s x)).map
          (fun x => ⟨.wakeAtSlot x.2.2 (hwMsg 6 qid), none⟩) ∧
        Only s t (fun old new => { new with roleq := old.roleq }) (fun old new => { new with agenda := old.agenda }) ∧
        ∀ x, rdByte t x = rdByte s x) ∧
    (4 ≤ qid → ∃ t, exec (.qclose q) s = .next t ∧
      Raises s t th (trapOf s th .queue (BitVec.ofNat 64 (7 + q.toNat * 256)) 0)))

/-- R247 to R250, R265, R266, R269, R270: tdecl makes a tile of a descriptor in rule and gives its handle, tfree
unmakes it, ttag and tsettag read and write its tag; a descriptor out of rule raises TILEDESC with its reason. -/
def Obligations.TilesDeclaredAndTagged : Prop :=
  ∀ s th (a : BitVec 5) (ma : BitVec 2), Canonical s → Executing s th → th.acqOut = 0 → ReadyNow th (src a ma) →
  (∀ (d : BitVec 5) e desc, Writable th d.toNat → (val th a).toNat % 32 = 0 →
      AtLocalWord s .read false (val th a) 32 e → lineQueued s (s.cur / 16) (e.pa / 32) = false → e.pa % 32 = 0 →
      routeFenced s (s.cur / 16) (s.cur / 16) = false → stagedSlot s (spadCore e.pa) ((e.pa - spadBase) % spadSize) 32 = none →
      desc = ⟨rd64 s e.pa, rd64 s (e.pa + 8), rd64 s (e.pa + 16), rd64 s (e.pa + 24)⟩ →
    (∀ r, tileDescFault desc = some r →
      ∃ t, exec (.tdecl d a ma) s = .next t ∧ Raises s t th (trapOf s th .tiledesc (BitVec.ofNat 64 r) 0)) ∧
    (∀ x idx ent pa, tileDescFault desc = none → region desc.d0 = .paged → xlatFind s desc.d0.toNat = some x →
        entryPermits s th.ctx (privOf th) x .read = true →
        let slice := sliceOfVa desc.d0.toNat
        let gen := fld (v64 s th.ctx (tileVa s th.ctx idx + 32)) 4 12
        let new : TileEnt := { idx := ent, ctx := th.ctx, handle := BitVec.ofNat 32 (gen * 2 ^ 20 + idx), tag := desc.tag,
                               base := desc.d0, span := desc.span }
        (∀ i l, i < desc.span / 32 → tileLine s new i = some l → tileAt s slice l = none) →
        (∀ y ∈ (sliceAt s slice).tiles, y.base.toNat + y.span ≤ desc.d0.toNat ∨ desc.d0.toNat + desc.span ≤ y.base.toNat) →
        0 < idx → idx < tileMax s th.ctx → fld (v64 s th.ctx (tileVa s th.ctx idx + 32)) 0 1 = 0 →
        (∀ i, 0 < i → i < idx → fld (v64 s th.ctx (tileVa s th.ctx i + 32)) 0 1 ≠ 0) →
        ent < 2048 → (∀ y ∈ (sliceAt s slice).tiles, y.idx ≠ ent) →
        (∀ i, i < ent → ∃ y ∈ (sliceAt s slice).tiles, y.idx = i) →
        VaultAt s th.ctx (tileVa s th.ctx idx) 64 pa → DistinctTiles s slice →
      ∃ t th', exec (.tdecl d a ma) s = .next t ∧ Becomes s t th' ∧
        RegsAfter [src a ma] d.toNat (BitVec.ofNat 64 (gen * 2 ^ 20 + idx)) th th' ∧
        { th' with regs := th.regs } = passed s th ∧ upToStale (sliceAt t slice).tiles = upToStale ((sliceAt s slice).tiles ++ [new]) ∧
        StoresList s t pa (wordsBytes [desc.d0, desc.d1, desc.d2, desc.d3,
          BitVec.ofNat 64 (1 + gen * 2 ^ 4 + slice * 2 ^ 16 + ent * 2 ^ 32), 0, 0, 0]))) ∧
  (findTile s th.ctx (val th a) = none →
    ∃ t, exec (.tfree a ma) s = .next t ∧ Raises s t th (trapOf s th .badtile (val th a) 0)) ∧
  (∀ slice e, findTile s th.ctx (val th a) = some (slice, e) →
    (∀ pa, releasedAt s s.cur th = true → tileBusy s slice e = false → tileCopies s e = [] → e.recalls = [] →
        let gva := tileVa s e.ctx (e.handle.toNat % 2 ^ 20) + 32
        VaultAt s e.ctx gva 8 pa → DistinctTiles s slice →
      ∃ t th', exec (.tfree a ma) s = .next t ∧ Becomes s t th' ∧ RegsRead [src a ma] th th' ∧
        { th' with regs := th.regs } = passed s th ∧
        upToStale (sliceAt t slice).tiles = upToStale ((sliceAt s slice).tiles.filter (fun x => x.idx != e.idx)) ∧
        StoresList s t pa (leBytes 8 ((fld (v64 s e.ctx gva) 4 12 + 1) % 4096 * 2 ^ 4))) ∧
    (∀ (d : BitVec 5), Writable th d.toNat →
      ∃ t th', exec (.ttag d a ma) s = .next t ∧ Becomes s t th' ∧ Quiet s t ∧
        RegsAfter [src a ma] d.toNat (BitVec.ofNat 64 (e.tag.toNat + tileStateCode e * 2 ^ 16 +
          (match slotOfTile s (s.cur / 16) e.ctx e.handle with
            | none => 0
            | some (_, y) => if y.st = .empty ∧ y.lost = false then 0
              else 2 ^ 18 + tslotCode y.st * 2 ^ 19 + (if y.lost = true then 2 ^ 21 else 0)))) th th' ∧
        { th' with regs := th.regs } = passed s { th with floor := s.time8 }) ∧
    (∀ (b : BitVec 5) (mb : BitVec 2), ReadyNow th (src b mb) → (val th b).toNat < 65536 → (val th b).toNat % 4 = 0 →
        releasedAt s s.cur th = true → e.freeing = false → tileBusy s slice e = false → fld (val th b) 8 2 ≠ 3 → ¬ (16 ≤ fld (val th b) 10 6 ∧ fld (val th b) 10 6 < 32) →
        (tileDescOf s e.ctx (e.handle.toNat % 2 ^ 20)).esize = esizeOf (fld (val th b) 10 6) →
      ∃ t th', exec (.tsettag a b ma mb) s = .next t ∧ Becomes s t th' ∧
        RegsRead [src a ma, src b mb] th th' ∧ { th' with regs := th.regs } = passed s th ∧
        (sliceAt t slice).tiles = (sliceAt s slice).tiles.map (fun y =>
          if y.idx = e.idx then { y with tag := (val th b).setWidth 16 } else y) ∧ ∀ x, rdByte t x = rdByte s x))

/-- R257, R258, R267, R268, R271 to R273: tstage, mcast and tfwd take slots and ask the home for their copies; tdrain
and tinv give copies back. -/
def Obligations.TilesStagedAndGivenBack : Prop :=
  ∀ s th (a b : BitVec 5) (ma mb : BitVec 2) slice e, Canonical s → Executing s th → th.acqOut = 0 →
  ReadyNow th (src a ma) → findTile s th.ctx (val th a) = some (slice, e) →
  let core := s.cur / 16
  let off := fld (val th b) 0 18
  let own : Bool := fld (val th b) 30 1 == 1
  let staged (core i : Nat) (own : Bool) (task : Word) (t : State) : Prop :=
    tslot t core i = { st := .filling, ctx := e.ctx, handle := e.handle, own := own, off := off, span := e.span,
                       base := e.base, task := task, priv := privOf th }
  (∀ (d : BitVec 5) i, ReadyNow th (src b mb) → Writable th d.toNat → releasedAt s s.cur th = true →
      fld (val th b) 18 12 = 0 → fld (val th b) 31 33 = 0 → off % 32 = 0 → off + e.span ≤ 0x3C000 →
      slotOfTile s core e.ctx e.handle = none → rangeTaken s core e.ctx e.handle off e.span none = false →
      slotToUse s core e.ctx e.handle = some i → i < 32 →
    ∃ t th', exec (.tstage d a b ma mb) s = .next t ∧ Becomes s t th' ∧
      RegsAfter [src a ma, src b mb] d.toNat (BitVec.ofNat 64 i) th th' ∧ { th' with regs := th.regs } = passed s th ∧
      staged core i own (if own = true then th.task else 0) t ∧
      Sent t (if own = true then .stageOwn core i else .stageRead [(core, i)]) ∧ ∀ x, rdByte t x = rdByte s x) ∧
  (slotOfTile s core e.ctx e.handle = none →
    (releasedAt s s.cur th = true → ∃ t, exec (.tdrain a ma) s = .next t ∧ ChangesThread s t th [src a ma] id) ∧
    ∃ t, exec (.tinv a ma) s = .next t ∧ ChangesThread s t th [src a ma] id) ∧
  (∀ i x, slotOfTile s core e.ctx e.handle = some (i, x) → x.st = .ready → i < 32 →
    (releasedAt s s.cur th = true → ¬ (x.own = true ∧ x.mod = true) →
      ∃ t th', exec (.tdrain a ma) s = .next t ∧ Becomes s t th' ∧ RegsRead [src a ma] th th' ∧
        { th' with regs := th.regs } = passed s th ∧ tslot t core i = {} ∧
        Sent t (.tileDrop core x.ctx x.handle) ∧ WakesWaiters t x ∧ ∀ y, rdByte t y = rdByte s y) ∧
    (releasedAt s s.cur th = true → x.own = true → x.mod = true →
      ∃ t, exec (.tdrain a ma) s = .next t ∧ Becomes s t { th with form := .inFlight .retry, readyAt := s.cycle + 8 } ∧
        tslot t core i = { x with st := .draining, endsLost := false, defer := false } ∧ Sent t (.tileDrain core i) ∧
        ∀ y, rdByte t y = rdByte s y) ∧
    ((x.own = true → ∃ p va, tileRights s x.ctx (privOf th) x.base x.span .write = (.ok p, va)) →
      ∃ t th', exec (.tinv a ma) s = .next t ∧ Becomes s t th' ∧ RegsRead [src a ma] th th' ∧
        { th' with regs := th.regs } = passed s th ∧ tslot t core i = {} ∧
        Sent t (.tileDrop core x.ctx x.handle) ∧ WakesWaiters t x ∧ ∀ y, rdByte t y = rdByte s y)) ∧
  (∀ (d : BitVec 5) i ms c, ReadyNow th (src b mb) → Writable th d.toNat → releasedAt s s.cur th = true →
      grpMembers s e.ctx (fld (val th b) 48 8) = some ms → fld (val th b) 18 14 = 0 → fld (val th b) 56 8 = 0 →
      off % 32 = 0 → off + e.span ≤ 0x3C000 → i < 16 → i < ms.length → fld (val th b) 32 16 = 2 ^ i →
      physCore s e.ctx (ms[i]?.getD 0) = some c →
    (offerSlot s c e off = none →
      ∃ t, exec (.mcast d a b ma mb) s = .next t ∧ WritesReg s t th [src a ma, src b mb] d.toNat 0) ∧
    (∀ k, offerSlot s c e off = some (some k) → k < 32 →
      ∃ t th', exec (.mcast d a b ma mb) s = .next t ∧ Becomes s t th' ∧
        RegsAfter [src a ma, src b mb] d.toNat (BitVec.ofNat 64 (2 ^ i)) th th' ∧
        { th' with regs := th.regs } = passed s th ∧ staged c k false 0 t ∧ Sent t (.stageRead [(c, k)]) ∧
        ∀ x, rdByte t x = rdByte s x)) ∧
  (∀ (d : BitVec 5) c, ReadyNow th (src b mb) → Writable th d.toNat → releasedAt s s.cur th = true →
      fld (val th b) 31 33 = 0 → off % 32 = 0 → off + e.span ≤ 0x3C000 → fld (val th b) 18 12 < coreCount s e.ctx →
      physCore s e.ctx (fld (val th b) 18 12) = some c →
    (c = core → ∃ t, exec (.tfwd d a b ma mb) s = .next t ∧ WritesReg s t th [src a ma, src b mb] d.toNat 2) ∧
    (c ≠ core → (own = true → (slotOfTile s core e.ctx e.handle).any (fun x => x.2.own) = false) → offerSlot s c e off = none →
      ∃ t, exec (.tfwd d a b ma mb) s = .next t ∧ WritesReg s t th [src a ma, src b mb] d.toNat 1) ∧
    (∀ k, c ≠ core → (own = true → (slotOfTile s core e.ctx e.handle).any (fun x => x.2.own) = false) →
        offerSlot s c e off = some (some k) → k < 32 →
      ∃ t th', exec (.tfwd d a b ma mb) s = .next t ∧ Becomes s t th' ∧
        RegsAfter [src a ma, src b mb] d.toNat 0 th th' ∧ { th' with regs := th.regs } = passed s th ∧
        staged c k own (if own = true then th.task else 0) t ∧
        Sent t (if own = true then .stageOwn c k else .stageRead [(c, k)]) ∧ ∀ x, rdByte t x = rdByte s x) ∧
    (∀ i x, c ≠ core → own = true → slotOfTile s core e.ctx e.handle = some (i, x) → x.own = true → x.st = .ready →
        x.refused = false → fld (val th a) 0 32 = e.handle.toNat → e.ctx = th.ctx →
      ∃ t th', exec (.tfwd d a b ma mb) s = .next t ∧ Becomes s t th' ∧ RegsRead [src a ma, src b mb] th th' ∧
        { th' with regs := th.regs } = { th with form := .inFlight (.tile d.toNat e.handle) } ∧
        Sent t (.tfwdTransfer (named_ s th) core i c off) ∧ ∀ x, rdByte t x = rdByte s x))

/-- R254, R256, R258, R261, R263: what the home and the cores do with a tile's copies: a stage of a quiet tile is answered
with its data, a fill lands in the staging range, drains, drops, recalls and their answers move the slots on; a recall of a
slot that fills by an upgrade is answered at once (the model's choice between R255 and R258: log entry 98). -/
def Obligations.TileCopies : Prop :=
  (∀ s core ts slice e pa p va, Canonical s → s.now = none → (tslot s core ts).st = .filling →
      findTile s (tslot s core ts).ctx ((tslot s core ts).handle.zeroExtend 64) = some (slice, e) →
      stageRights s (tslot s core ts) = (.ok p, va) → TileFree s slice e → TileQuiet s e → TileLies s e pa →
    ((tslot s core ts).own = false →
      ∃ t e', Delivers s (.stageRead [(core, ts)]) t ∧ e' ∈ (sliceAt t slice).tiles ∧ e'.idx = e.idx ∧ e'.owner = none ∧
        e'.sharers = [(core, ts)] ∧
        (s.time8 + 5 * (e.span / 32), .tileFillComplete core ts (rdBytes s pa e.span)) ∈ t.timers ∧ KeepsBytes s t) ∧
    ((tslot s core ts).own = true →
        (∀ q ∈ tilePieces e.base.toNat e.span, DirtyNoted s q) →
      ∃ t e', Delivers s (.stageOwn core ts) t ∧ e' ∈ (sliceAt t slice).tiles ∧ e'.idx = e.idx ∧
        e'.owner = some (core, ts) ∧ e'.sharers = [] ∧
        (s.time8 + 5 * (e.span / 32), .tileFillComplete core ts (rdBytes s pa e.span)) ∈ t.timers ∧ KeepsBytes s t)) ∧
  (∀ s core ts data, Canonical s → s.now = none → core < 3072 → ts < 32 → (tslot s core ts).st = .filling →
      (tslot s core ts).recalled = false → (tslot s core ts).off + data.length ≤ spadSize →
    ∃ t, Delivers s (.tileFillComplete core ts data) t ∧ StoresList s t (spadPa core (tslot s core ts).off) data ∧
      tslot t core ts = { tslot s core ts with st := .ready, recalled := false, waiters := [] } ∧
      WakesWaiters t (tslot s core ts) ∧ t.slots = s.slots) ∧
  (∀ s core ts slice e pa, Canonical s → s.now = none →
      findTile s (tslot s core ts).ctx ((tslot s core ts).handle.zeroExtend 64) = some (slice, e) →
      e.owner = some (core, ts) → DistinctTiles s slice → TileLies s e pa →
      (∀ x ∈ s.dir, pa ≤ x.1 * 32 → x.1 * 32 < pa + e.span → x.2.above = []) → core < 3072 → (tslot s core ts).off + e.span ≤ spadSize →
    ∃ t, Delivers s (.tileDrain core ts) t ∧ StoresList s t pa (rdBytes s (spadPa core (tslot s core ts).off) e.span) ∧
      (∀ y ∈ (sliceAt t slice).tiles, y.idx = e.idx → y.owner = none) ∧
      ⟨.tileWritebackAck core ts, some (sliceUnit slice, core)⟩ ∈ t.agenda ∧ t.slots = s.slots) ∧
  (∀ s core ts, Canonical s → s.now = none → ts < 32 → (tslot s core ts).st = .draining →
    ∃ t, Delivers s (.tileWritebackAck core ts) t ∧ WakesWaiters t (tslot s core ts) ∧
      tslot t core ts = (if (tslot s core ts).endsLost = true then
        { tslot s core ts with st := .empty, lost := true, mod := false, endsLost := false, waiters := [] } else {}) ∧
      t.slots = s.slots ∧ ∀ x, rdByte t x = rdByte s x) ∧
  (∀ s core k ctx h slice e, Canonical s → s.now = none → findTile s ctx (h.zeroExtend 64) = some (slice, e) →
      e.owner = none → e.sharers = [(core, k)] → DistinctTiles s slice → (tslot s core k).st = .empty →
    ∃ t, Delivers s (.tileDrop core ctx h) t ∧ (∀ y ∈ (sliceAt t slice).tiles, y.idx = e.idx → y.sharers = []) ∧
      t.slots = s.slots ∧ ∀ x, rdByte t x = rdByte s x) ∧
  (∀ s core ctx h i x, Canonical s → s.now = none → slotOfTile s core ctx h = some (i, x) → i < 32 →
    (x.st = .ready → ¬ (x.own = true ∧ x.mod = true) →
      ∃ t, Delivers s (.tileRecall core ctx h) t ∧ (tslot t core i).st = .empty ∧ (tslot t core i).lost = true ∧
        Sent t (.tileDrop core x.ctx x.handle) ∧ t.slots = s.slots ∧ ∀ y, rdByte t y = rdByte s y) ∧
    (x.st = .ready → x.own = true → x.mod = true →
      ∃ t, Delivers s (.tileRecall core ctx h) t ∧
        tslot t core i = { x with st := .draining, endsLost := true, defer := false } ∧ Sent t (.tileDrain core i) ∧
        t.slots = s.slots ∧ ∀ y, rdByte t y = rdByte s y) ∧
    (x.st = .filling → x.upgrade = true →
      ∃ t, Delivers s (.tileRecall core ctx h) t ∧ Sent t (.tileDrop core x.ctx x.handle) ∧ t.slots = s.slots ∧
        (∀ c i, tslot t c i = tslot s c i) ∧ ∀ y, rdByte t y = rdByte s y) ∧
    (x.st = .filling → x.upgrade = false →
      ∃ t, Delivers s (.tileRecall core ctx h) t ∧ tslot t core i = { x with recalled := true } ∧
        t.slots = s.slots ∧ ∀ y, rdByte t y = rdByte s y)) ∧
  (∀ s slice entry e, Canonical s → s.now = none →
      (sliceAt s slice).tiles.find? (fun e => e.idx == entry) = some e → e.hold ≠ [] → e.holdEnd ≤ s.time8 →
    ∃ t, Delivers s (.stageHoldExpiry slice entry) t ∧ (∀ y ∈ (sliceAt t slice).tiles, y.idx = entry → y.hold = []) ∧
      t.slots = s.slots ∧ ∀ y, rdByte t y = rdByte s y) ∧
  (∀ s core ts, Canonical s → s.now = none → ts < 32 → (tslot s core ts).st = .ready → (tslot s core ts).defer = true →
      (tslot s core ts).own = true → (tslot s core ts).mod = true →
    (s.time8 < (tslot s core ts).deferEnd → Delivers s (.deferExpiry core ts) s) ∧
    ((tslot s core ts).deferEnd ≤ s.time8 → ∃ t, Delivers s (.deferExpiry core ts) t ∧
      tslot t core ts = { tslot s core ts with st := .draining, endsLost := false, defer := false } ∧
      Sent t (.tileDrain core ts) ∧ t.slots = s.slots ∧ ∀ y, rdByte t y = rdByte s y)) ∧
  (∀ s slot th core ts c off d h, Canonical s → HeldIn s slot th → th.form = .inFlight (.tile d h) → d < 28 →
      (tslot s core ts).handle = h → (tslot s core ts).ctx = th.ctx → (tslot s core ts).refused = false →
    ((tslot s core ts).st ≠ .ready →
      ∃ t, Delivers s (.tfwdTransfer (nameAt slot th) core ts c off) t ∧
        ⟨.tfwdTransfer (nameAt slot th) core ts c off, none⟩ ∈ t.held ∧ t.slots = s.slots ∧ ∀ x, rdByte t x = rdByte s x) ∧
    (∀ slice e, (tslot s core ts).st = .ready → findTile s th.ctx (h.zeroExtend 64) = some (slice, e) →
        (∀ k, offerSlot s c e off ≠ some (some k)) →
      ∃ t, Delivers s (.tfwdTransfer (nameAt slot th) core ts c off) t ∧
        threadAt t slot = some (passed s (setFull d 1 th)) ∧ SlotOnly s t slot) ∧
    (∀ slice e k, (tslot s core ts).st = .ready → c ≠ core → c < 3072 → core < 3072 → ts < 32 → k < 32 →
        findTile s th.ctx (h.zeroExtend 64) = some (slice, e) → offerSlot s c e off = some (some k) → off + e.span ≤ spadSize →
        (tslot s core ts).off + e.span ≤ spadSize →
      ∃ t, Delivers s (.tfwdTransfer (nameAt slot th) core ts c off) t ∧
        StoresList s t (spadPa c off) (rdBytes s (spadPa core (tslot s core ts).off) e.span) ∧
        (tslot t c k).st = .ready ∧ (tslot t c k).handle = h ∧ (tslot t c k).off = off ∧
        tslot t core ts = {} ∧ (∀ y ∈ (sliceAt t slice).tiles, y.idx = e.idx → y.owner = some (c, k)) ∧
        threadAt t slot = some (passed s (setFull d 0 th))))

/-- R285, R287, R291 to R293, R296 to R300: an array command in rule is queued with the registers as they stand and
the thread goes on; mset writes a register; mget, accrd and accwr read and write accumulator elements; mstat reads a
context, releases it or clears its fault. -/
def Obligations.ArrayCommandsAndAccess : Prop :=
  ∀ s th, Canonical s → Executing s th → th.acqOut = 0 →
  let cell := s.cur / 64
  (∀ i row, arrRow i = some row → EngUsable s th row.e.toNat → (∀ r ∈ row.regs, ReadyNow th (srcP r)) → Performed s th →
      let e := row.e.toNat
      let x := eng s cell e
      let x' := claimed s th x
      let cmd : ArrCmd := { n := x.last + 1, th := named_ s th, priv := BitVec.ofNat 2 (privOf th), core := s.cur / 16,
                            op := row.op, z := row.z, a := row.a th, b := row.b th, regs := x'.regs }
      row.bad th x'.regs = none →
    (x.queue.length = 8 → row.tiled x'.regs = false → row.conf (cellAt s cell) x'.regs none = none →
        NoWake s th →
      ∃ u, exec i s = .next u ∧ Parks s u th ⟨true, .limit 1, false⟩) ∧
    (x.queue.length < 8 →
      (row.tiled x'.regs = false → row.conf (cellAt s cell) x'.regs none = none →
        ∃ u, exec i s = .next u ∧ Becomes s u (passed s th) ∧
          eng u cell e = { x' with st := .busy, last := x.last + 1, queue := x.queue ++ [cmd] } ∧
          Only s u (fun _ new => new) (fun old new => { new with cells := old.cells }) ∧ ∀ y, rdByte u y = rdByte s y) ∧
      (∀ slice t k y, row.tiled x'.regs = true → findTile s th.ctx (row.a th) = some (slice, t) →
          row.conf (cellAt s cell) x'.regs (some t) = none →
          (row.staged = true → slotOfTile s (s.cur / 16) th.ctx t.handle = some (k, y) ∧ y.st = .ready ∧ y.refused = false) →
        ∃ u, exec i s = .next u ∧ Becomes s u (passed s th) ∧
          eng u cell e = { x' with st := .busy, last := x.last + 1, queue := x.queue ++
            [{ cmd with tile := some (arrTile s t (if row.staged = true then y.off else 0) row.staged) }] } ∧
          ∀ y, rdByte u y = rdByte s y))) ∧
  (∀ (a : BitVec 5) (e : BitVec 2) (index : BitVec 3), EngUsable s th e.toNat → ReadyNow th (srcP a) → index ≠ 6 →
    ∃ u, exec (.mset a e index) s = .next u ∧ Becomes s u (passed s th) ∧
      eng u cell e.toNat = { claimed s th (eng s cell e.toNat) with
        regs := (claimed s th (eng s cell e.toNat)).regs.setIfInBounds index.toNat (val th a) } ∧
      Only s u (fun _ new => new) (fun old new => { new with cells := old.cells }) ∧ ∀ y, rdByte u y = rdByte s y) ∧
  (∀ (a : BitVec 5) (e : BitVec 2) pa, EngUsable s th e.toNat → ReadyNow th (srcP a) → fld (val th a) 2 4 = 0 →
      fld (val th a) 56 8 = 0 → (∀ j : Nat, (coreAt s (s.cur / 16)).cmps[j]?.getD (0, 0) = ((0, 0) : Word × Word)) →
      (∀ j, j < 34 →
        check s (s.cur / 16) th.ctx (privOf th) (BitVec.ofNat 64 (fld (val th a) 6 50 * 64 + 32 * j)) 32 .read false =
          .ok (pa + 32 * j) ∧ Local s (pa + 32 * j) ∧
        stageWait s (BitVec.ofNat 64 (fld (val th a) 6 50 * 64 + 32 * j)) (pa + 32 * j) 32 .read 0 = none) →
      descFault (rdBytes s pa 1088) = none →
    ∃ u, exec (.mset a e 6) s = .next u ∧ Becomes s u { th with form := .inFlight .unit, floor := s.time8 } ∧
      (cellAt u cell).mtabld = (cellAt s cell).mtabld ++ [(fld (val th a) 0 2, bankOf (rdBytes s pa 1088), named_ s th)] ∧
      Sent u (.mtabldLoadComplete cell (fld (val th a) 0 2)) ∧ ∀ y, rdByte u y = rdByte s y) ∧
  (∀ (d a b : BitVec 5) (ma mb : BitVec 2), ReadyNow th (src a ma) → ReadyNow th (src b mb) → Writable th d.toNat →
      postedCount th < 4 → fld (val th a) 18 46 = 0 → fld (val th a) 0 1 = 0 →
      EngUsable s th (fld (val th a) 16 2) → (val th b).toNat ≤ (eng s cell (fld (val th a) 16 2)).last →
    let x := eng s cell (fld (val th a) 16 2)
    ∃ u th', exec (.mget d a b ma mb) s = .next u ∧ Becomes s u th' ∧ { th' with regs := th.regs } = passed s th ∧
      (∀ r, r < 28 → regOf th' r = if r = d.toNat then { regOf th r with st := .pending, held := none }
        else afterRead [src a ma, src b mb] th r) ∧
      ((val th b).toNat ≤ x.line → ⟨.postedArrive (named_ s th) d.toNat
        (BitVec.ofNat 64 (rdNat s (accPa cell (fld (val th a) 8 8) (fld (val th a) 0 8)) 8)), none⟩ ∈ u.agenda) ∧
      (x.line < (val th b).toNat → (eng u cell (fld (val th a) 16 2)).gets = (claimed s th x).gets ++
        [⟨named_ s th, d.toNat, (val th b).toNat, fld (val th a) 8 8, fld (val th a) 0 8, th.pc⟩]) ∧
      ∀ y, rdByte u y = rdByte s y) ∧
  (∀ (a : BitVec 5) (ma : BitVec 2), ReadyNow th (src a ma) → fld (val th a) 18 46 = 0 → fld (val th a) 0 1 = 0 →
      EngUsable s th (fld (val th a) 16 2) → (eng s cell (fld (val th a) 16 2)).queue = [] →
    (∀ d : BitVec 5, Writable th d.toNat →
      ∃ u th', exec (.accrd d a ma) s = .next u ∧ Becomes s u th' ∧
        RegsAfter [src a ma] d.toNat
          (BitVec.ofNat 64 (rdNat s (accPa cell (fld (val th a) 8 8) (fld (val th a) 0 8)) 8)) th th' ∧
        { th' with regs := th.regs } = passed s th ∧ ∀ y, rdByte u y = rdByte s y) ∧
    (∀ (b : BitVec 5) (mb : BitVec 2), ReadyNow th (src b mb) → cell < 768 →
      ∃ u th', exec (.accwr a b ma mb) s = .next u ∧ Becomes s u th' ∧ RegsRead [src a ma, src b mb] th th' ∧
        { th' with regs := th.regs } = passed s th ∧
        StoresHere s u (accPa cell (fld (val th a) 8 8) (fld (val th a) 0 8)) 8 (val th b).toNat)) ∧
  (∀ (d a : BitVec 5) (ma : BitVec 2), ReadyNow th (src a ma) → Writable th d.toNat → fld (val th a) 2 2 = 0 →
      fld (val th a) 8 56 = 0 →
    let e := fld (val th a) 0 2
    let op := fld (val th a) 4 4
    let x := eng s cell e
    let mine : Prop := x.st ≠ .free ∧ x.tid = th.tid ∧ x.ctx = th.ctx
    (op = 0 → ∃ u, exec (.mstat d a ma) s = .next u ∧ WritesReg s u th [src a ma] d.toNat
      (BitVec.ofNat 64 ((match x.st with | .free => 0 | .idle => 1 | .busy => 2 | .faulted => 3 | .releasing => 2) +
        x.queue.length * 2 ^ 2 + (if (cellAt s cell).arrFenced = true then 2 ^ 6 else 0) + x.status * 2 ^ 8 +
        (if x.st = .free then 0 else x.tid * 2 ^ 16 + lcoreOf s x.core * 2 ^ 36)))) ∧
    (op = 7 → ∃ u, exec (.mstat d a ma) s = .next u ∧ WritesReg s u th [src a ma] d.toNat (BitVec.ofNat 64 x.last)) ∧
    (mine → 1 ≤ op → op ≤ 6 → ∃ u, exec (.mstat d a ma) s = .next u ∧
      WritesReg s u th [src a ma] d.toNat (x.regs[op - 1]?.getD 0)) ∧
    (mine → op = 8 → x.st = .idle ∨ x.st = .faulted → x.queue = [] →
      ∃ u, exec (.mstat d a ma) s = .next u ∧ (eng u cell e).st = .free ∧ (eng u cell e).astream = [] ∧
        (eng u cell e).scaleq = [] ∧ (eng u cell e).resultq = [] ∧ ∀ y, rdByte u y = rdByte s y) ∧
    (¬ mine → op = 8 → th.tid ∈ x.leavers → ∃ u th', exec (.mstat d a ma) s = .next u ∧ Becomes s u th' ∧
      RegsAfter [src a ma] d.toNat 0 th th' ∧ { th' with regs := th.regs } = passed s th ∧ ∀ y, rdByte u y = rdByte s y) ∧
    (mine → op = 9 → x.st = .faulted → ∃ u th', exec (.mstat d a ma) s = .next u ∧ Becomes s u th' ∧
      RegsAfter [src a ma] d.toNat 0 th th' ∧ eng u cell e = { x with st := .idle, status := 0 } ∧
      ∀ y, rdByte u y = rdByte s y) ∧
    (op = 10 → ∃ u, exec (.mstat d a ma) s = .next u ∧ Raises s u th (trapOf s th .badopnd (val th a) 0)))

/-- R274, R281: tbst of a staged tile of bytes in row order puts element (k, j) where B's k-steps are read from, and
changes no byte outside the tile's room in the store. R85, R277, R281, R287, R292, R296, R298, R299: a k-step of a
product of signed bytes adds the products to each unmasked element, saturating; acczero clears its block; completed
commands leave the queue and advance the timeline; a table load is made when no command names its bank. -/
def Obligations.ArrayWork : Prop :=
  (∀ s th (a b : BitVec 5) (ma mb : BitVec 2) slice e i x d, Canonical s → Executing s th → th.acqOut = 0 →
   ReadyNow th (src a ma) → ReadyNow th (src b mb) → findTile s th.ctx (val th a) = some (slice, e) → e.ctx = th.ctx →
   fld (val th a) 0 32 = e.handle.toNat → d = tileDescOf s e.ctx (e.handle.toNat % 2 ^ 20) →
   let o := fld (val th b) 0 20
   fld (val th b) 20 44 = 0 → o % 32 = 0 → o + e.span ≤ 0x100000 → tagFormat e.tag = 9 → tagSparsity e.tag = 0 →
   tagLayout e.tag = 0 → d.rows % 32 = 0 → d.cols % 16 = 0 → slotOfTile s (s.cur / 16) th.ctx e.handle = some (i, x) →
   x.st = .ready → x.refused = false → s.cur / 64 < 768 →
   ∃ u th', exec (.tbst a b ma mb) s = .next u ∧ Becomes s u th' ∧ RegsRead [src a ma, src b mb] th th' ∧
     { th' with regs := th.regs } = passed s th ∧
     (∀ k j, k < d.rows → j < d.cols →
       rdByte u (bstorePa (s.cur / 64) (o + j / 16 * (d.rows / 32) * 512 + k / 32 * 512 + j % 16 * 32 + k % 32)) =
         rdByte s (spadPa (s.cur / 16) (x.off + k * d.pitch + j))) ∧
     ∀ y, y < altBase → ¬ Within (bstorePa (s.cur / 64) o) (d.rows * d.cols) y → rdByte u y = rdByte s y) ∧
  ((∀ s cell e q rest, Canonical s → s.now = none → cell < 768 → e < 4 → (cellAt s cell).arrFenced = false →
       (∀ n, (cellAt s cell).owner = some n → engRuns s n = true) → (cellAt s cell).rot = e →
       (eng s cell e).queue = q :: rest → q.finished = false → q.tile = none → q.step = 0 →
       fld q.b 0 8 ≤ 240 → fld q.b 8 8 ≤ 240 →
     let row0 := fld q.b 0 8
     let col0 := fld q.b 8 8
     let on (i j : Nat) : Bool := (q.regs[0]?.getD 0).getLsbD i && (q.regs[0]?.getD 0).getLsbD (16 + j)
     let after (f : Nat → Nat → Nat) : Prop := ∃ u, Delivers s (.kstep cell) u ∧
       (∀ i j, i < 16 → j < 16 → rdNat u (accPa cell (row0 + i) (col0 + j)) 4 =
         if on i j = true then f i j else rdNat s (accPa cell (row0 + i) (col0 + j)) 4) ∧
       (∀ y, y < altBase → (∀ i j, i < 16 → j < 16 → on i j = true → ¬ Within (accPa cell (row0 + i) (col0 + j)) 4 y) →
         rdByte u y = rdByte s y) ∧
       (eng u cell e).queue = { q with finished := true } :: rest ∧ Sent u (.arrayCommandComplete cell e) ∧
       (cellAt u cell).rot = (e + 1) % 4
     (q.op = .acczero → after (fun _ _ => 0)) ∧
     (q.op = .mma → afmtOf q.regs = 9 → bfmtOf q.regs = 9 → asmOf q.regs = 0 → bsmOf q.regs = 0 → akindOf q.regs = 0 →
         ssrcOf q.regs = 0 → kstepsOf q.regs = 1 → dmaskOf q.regs = 0xFFFF → q.core < 3072 →
         (∀ i, i < 16 → stagedCheck s q.core (q.a.toNat + 32 * i) 32 .read = .clear) →
       after (fun i j => dot32 (if q.z = true then 0 else rdNat s (accPa cell (row0 + i) (col0 + j)) 4)
         (fun k => (rdByte s (spadPa q.core (q.a.toNat + 32 * i + k))).toNat)
         (fun k => (rdByte s (bstorePa cell (fld q.b 16 20 + 32 * j + k))).toNat)))) ∧
   (∀ s cell e q rest, Canonical s → s.now = none → e < 4 → (eng s cell e).queue = q :: rest → q.finished = true →
       (∀ r, rest.head? = some r → r.finished = false) →
     let x := eng s cell e
     ∃ u, Delivers s (.arrayCommandComplete cell e) u ∧ (eng u cell e).line = q.n ∧ (eng u cell e).queue = rest ∧
       (x.st ≠ .releasing → (eng u cell e).gets = x.gets.filter (fun g => decide (q.n < g.n))) ∧
       (∀ g ∈ x.gets, g.n ≤ q.n →
         Sent u (.postedArrive g.th g.reg (BitVec.ofNat 64 (rdNat s (accPa cell g.row g.col) 8)))) ∧
       (rest = [] → x.st = .busy → (eng u cell e).st = .idle) ∧ (rest = [] → x.st = .releasing → (eng u cell e).st = .free) ∧
       u.slots = s.slots ∧ ∀ y, rdByte u y = rdByte s y) ∧
   (∀ s cell bank b slot th rest, Canonical s → HeldIn s slot th → bank < 4 → th.form = .inFlight .unit →
       (cellAt s cell).mtabld = (bank, b, nameAt slot th) :: rest →
     ((∀ e q, e < 4 → q ∈ (eng s cell e).queue → namesBank bank q = false) →
       ∃ u, Delivers s (.mtabldLoadComplete cell bank) u ∧ (cellAt u cell).banks[bank]? = some b ∧
         (cellAt u cell).mtabld = rest ∧ threadAt u slot = some (passed s th) ∧ (∀ p, p ≠ slot → slotAt u p = slotAt s p) ∧
         ∀ y, rdByte u y = rdByte s y) ∧
     (∀ e q, e < 4 → q ∈ (eng s cell e).queue → namesBank bank q = true →
       Delivers s (.mtabldLoadComplete cell bank) (holdBack (.mtabldLoadComplete cell bank) s))))

/-- R331 to R336, R343 to R348: a copy command in rule is queued with its registers; xset writes one; xcancel ends
what is queued; tl.read and tl.arm read a timeline, take its message where it has come, or wait for it. -/
def Obligations.CopyCommandsAndTimelines : Prop :=
  ∀ s th, Canonical s → Executing s th → th.acqOut = 0 →
  let core := s.cur / 16
  (∀ (fill : Bool) (a b : BitVec 5) (e : BitVec 2) span, CopyMine s th e.toNat → ReadyNow th (srcP a) → ReadyNow th (srcP b) →
      Performed s th → (copyOf s core e.toNat).st ≠ .faulted →
      let x := copyOf s core e.toNat
      let x' := copyClaimed s th x
      SpanOf s th x'.regs (val th b) span → CopyInRule s fill x'.regs (val th a) (val th b) span →
    (copyLoad s core < 64 →
      ∃ u, exec (if fill = true then .xfill a b e else .xcopy a b e) s = .next u ∧ Becomes s u (passed s th) ∧
        copyOf u core e.toNat = { x' with
          st := .busy, last := x.last + 1, slot := s.cur,
          queue := x.queue ++ [{ n := x.last + 1, th := named_ s th, priv := BitVec.ofNat 2 (privOf th), fill := fill,
                                 src := val th a, dst := val th b, regs := x'.regs,
                                 bank := (coreAt s core).banks[xTbank x'.regs]?.getD {} }] } ∧
        Only s u (fun old new => { new with copy := old.copy }) (fun _ new => new) ∧ ∀ y, rdByte u y = rdByte s y) ∧
    (64 ≤ copyLoad s core → NoWake s th →
      ∃ u, exec (if fill = true then .xfill a b e else .xcopy a b e) s = .next u ∧
        Parks s u th ⟨true, .limit 2, false⟩)) ∧
  (∀ (a : BitVec 5) (e : BitVec 2) (index : BitVec 6), CopyMine s th e.toNat → ReadyNow th (srcP a) →
    ∃ u, exec (.xset a e index) s = .next u ∧ Becomes s u (passed s th) ∧
      copyOf u core e.toNat = { copyClaimed s th (copyOf s core e.toNat) with
        regs := (copyClaimed s th (copyOf s core e.toNat)).regs.setIfInBounds index.toNat (val th a) } ∧
      Only s u (fun old new => { new with copy := old.copy }) (fun _ new => new) ∧ ∀ y, rdByte u y = rdByte s y) ∧
  (∀ (e : BitVec 2) (rel : BitVec 1),
    let x := copyOf s core e.toNat
    (x.st = .free → ∃ u, exec (.xcancel e rel) s = .next u ∧ ChangesThread s u th [] id) ∧
    (x.st ≠ .free → x.st ≠ .releasing → x.tid = th.tid → x.ctx = th.ctx → x.queue = [] →
      ∃ u, exec (.xcancel e rel) s = .next u ∧ Becomes s u (passed s th) ∧
        copyOf u core e.toNat = { x with st := if rel = 1 then .free else .idle, status := 0 } ∧
        ∀ y, rdByte u y = rdByte s y) ∧
    (∀ q rest, x.st ≠ .free → x.st ≠ .releasing → x.tid = th.tid → x.ctx = th.ctx → x.queue = q :: rest →
        q.next = 0 → q.pins = [] → q.finished = false → (∀ y ∈ rest, y.finished = false) →
      ∃ u, exec (.xcancel e rel) s = .next u ∧
        Becomes s u { th with form := .inFlight .retry, readyAt := s.cycle + 8 } ∧
        (copyOf u core e.toNat).queue = x.queue.map (fun y => { y with status := 6, finished := true }) ∧
        ∀ y, rdByte u y = rdByte s y) ∧
    (x.st ≠ .free → x.tid ≠ th.tid →
      ∃ u, exec (.xcancel e rel) s = .next u ∧
        Raises s u th (trapOf s th .engowned (BitVec.ofNat 64 e.toNat) 0))) ∧
  (∀ (d a b : BitVec 5) (ma mb : BitVec 2), ReadyNow th (src a ma) → ReadyNow th (src b mb) → Writable th d.toNat →
      (val th a).toNat < 8 →
    let tl := timelineAt s core (val th a).toNat
    (val th b = 0 → ∃ u th', exec (.tlRead d a b ma mb) s = .next u ∧ Becomes s u th' ∧ Quiet s u ∧
      RegsAfter [src a ma, src b mb] d.toNat (BitVec.ofNat 64 tl.line) th th' ∧
      { th' with regs := th.regs } = passed s { th with floor := s.time8 }) ∧
    (val th b = 1 → ∃ u, exec (.tlRead d a b ma mb) s = .next u ∧ WritesReg s u th [src a ma, src b mb] d.toNat
      (BitVec.ofNat 64 ((match tl.st with | .free => 0 | .idle => 1 | .busy => 2 | .faulted => 3 | .releasing => 2) +
        tl.status % 16 * 2 ^ 4 + tl.load % 128 * 2 ^ 8 + (if tl.st = .free then 0 else tl.tid * 2 ^ 16)))) ∧
    (val th b = 2 → ∃ u, exec (.tlRead d a b ma mb) s = .next u ∧
      WritesReg s u th [src a ma, src b mb] d.toNat (BitVec.ofNat 64 tl.last)) ∧
    (val th b = 3 → (val th a).toNat < 4 → ∃ u, exec (.tlRead d a b ma mb) s = .next u ∧
      WritesReg s u th [src a ma, src b mb] d.toNat ((copyOf s core (val th a).toNat).regs[0]?.getD 0)) ∧
    (4 ≤ (val th b).toNat → ∃ u, exec (.tlRead d a b ma mb) s = .next u ∧
      Raises s u th (trapOf s th .badopnd (val th b) 0))) ∧
  (∀ (a b : BitVec 5) (ma mb : BitVec 2), ReadyNow th (src a ma) → ReadyNow th (src b mb) → (val th a).toNat < 8 →
    let sel := (val th a).toNat
    let tl := timelineAt s core sel
    let seen := (ctxAt s th.ctx).lastArm
    let key := (th.tid * 4096 + (if sel < 4 then lcoreOf s core else lcoreOf s core / 4 * 4)) * 8 + sel
    let lo := seen.get 0 key
    let arms (u : State) : Prop := ∀ n, ctxAt u n =
      if n = th.ctx then { ctxAt s n with lastArm := seen.put 0 key tl.line } else ctxAt s n
    (tl.last < (val th b).toNat → ∃ u, exec (.tlArm a b ma mb) s = .next u ∧
      Raises s u th (trapOf s th .badopnd (val th b) 0)) ∧
    ((val th b).toNat ≤ tl.last → (val th b).toNat ≤ tl.line →
      ∃ u th', exec (.tlArm a b ma mb) s = .next u ∧ Becomes s u th' ∧ Quiet s { u with ctxs := s.ctxs } ∧ arms u ∧
        regOf th' 6 = { st := .full, val := BitVec.ofNat 64 (9 + sel * 2 ^ 8 + worstOf tl.ended lo (val th b).toNat * 2 ^ 16) } ∧
        regOf th' 7 = { st := .full, val := BitVec.ofNat 64 tl.line } ∧
        { th' with regs := th.regs } = passed s { th with floor := s.time8 }) ∧
    ((val th b).toNat ≤ tl.last → tl.line < (val th b).toNat → NoWake s th →
      ∃ u th', exec (.tlArm a b ma mb) s = .next u ∧ Becomes s u th' ∧ th'.form = .parked ⟨false, .timeline, true⟩ ∧ arms u ∧
        (if sel < 4 then (copyOf u core sel).arms = (copyOf s core sel).arms ++ [(named_ s th, (val th b).toNat, lo)]
         else (eng u (s.cur / 64) (sel - 4)).arms =
          (eng s (s.cur / 64) (sel - 4)).arms ++ [(named_ s th, (val th b).toNat, lo)]) ∧
        ∀ y, rdByte u y = rdByte s y))

/-- R334, R337, R341: a copy engine moves the next element of the command it serves, here between scratchpads and
without conversion; a finished command without a barrier leaves its queue and advances its timeline, and a failed one
faults the context. -/
def Obligations.CopyWork : Prop :=
  (∀ s cell k q, Canonical s → s.now = none → cell < 768 → k < 16 → (cellAt s cell).copyFenced = false →
      (∀ n, (cellAt s cell).owner = some n → engRuns s n = true) → (cellAt s cell).copyRot = k →
      let core := 4 * cell + k / 4
      (copyOf s core (k % 4)).queue.head? = some q → q.finished = false → q.fill = false →
      xCvt q.regs = false → xSkind q.regs = 0 → xDkind q.regs = 0 → 1 ≤ xEsize q.regs → xEsize q.regs ≤ 4 →
      let n := 2 ^ (xEsize q.regs - 1)
      let sva := xAddr q.src (xOffset q.regs 12 (2 * n) q.next).1
      let dva := xAddr q.dst (xOffset q.regs 24 (2 * n) q.next).1
      ∀ spa dpa, check s core q.th.ctx q.priv.toNat sva n .read true = .ok spa →
      check s core q.th.ctx q.priv.toNat dva n .write true = .ok dpa → isSpad spa = true → isSpad dpa = true →
      region sva ≠ .paged → region dva ≠ .paged →
      stagedSlot s (spadCore spa) ((spa - spadBase) % spadSize) n = none →
      stagedSlot s (spadCore dpa) ((dpa - spadBase) % spadSize) n = none →
      fld (cellAt s (spadCore spa / 4)).test 8 1 = 0 → fld (cellAt s (spadCore dpa / 4)).test 8 1 = 0 →
      xlatFind s dva.toNat = none →
    ∃ u, Delivers s (.copyElement cell) u ∧ StoresHere s u dpa n (rdNat s spa n) ∧
      (copyOf u core (k % 4)).queue.head? =
        some { q with next := q.next + 1, finished := q.next + 1 == xCount q.regs } ∧
      (q.next + 1 = xCount q.regs → Sent u (.copyCommandComplete core (k % 4))) ∧
      (cellAt u cell).copyRot = (k + 1) % 16 ∧ u.slots = s.slots) ∧
  (∀ s core e q rest, Canonical s → s.now = none → e < 4 → (copyOf s core e).queue = q :: rest → q.finished = true →
      xBar q.regs = false → q.pins = [] → (cellAt s (core / 4)).copyFenced = false → (∀ x ∈ s.dir, ∀ i ∈ x.2.invs, i.writer ≠ some q.th) →
    let x := copyOf s core e
    ∃ u, Delivers s (.copyCommandComplete core e) u ∧ (copyOf u core e).line = q.n ∧
      (q.status = 0 ∨ q.status = 6 → x.st ≠ .releasing → (copyOf u core e).queue = rest ∧
        (copyOf u core e).status = x.status ∧ (rest = [] → x.st = .busy → (copyOf u core e).st = .idle)) ∧
      (q.status ≠ 0 → q.status ≠ 6 → x.st ≠ .releasing → (copyOf u core e).st = .faulted ∧
        (copyOf u core e).status = q.status ∧
        ∀ y ∈ (copyOf u core e).queue, y.finished = true) ∧
      (∀ a ∈ x.arms, a.2.1 ≤ q.n → ∃ m, Sent u (.wakeAtSlot a.1 m)) ∧
      (copyOf u core e).arms = x.arms.filter (fun a => decide (q.n < a.2.1)) ∧
      u.slots = s.slots ∧ ∀ y, rdByte u y = rdByte s y)

/-- R352 to R360: the barrier instructions make, count at, expect at, wait at and end a barrier; a phase completes
when it is posted, every arrival has come and no byte is pending. R354, R355, R359: the bytes a copy reports and the
arrival a task notifies count at a barrier that counts, complete its phase where they are the last, and change nothing
else; a refused notification is reported. -/
def Obligations.Barriers : Prop :=
  (∀ s th (a b : BitVec 5) (ma mb : BitVec 2) pa, Canonical s → Executing s th → th.acqOut = 0 → ReadyNow th (src a ma) →
   ReadyNow th (src b mb) →
   let r := readBar s pa
   let w := val th b
   (AtRecord s .write (val th a) pa → fld w 24 1 = 0 → fld w 26 38 = 0 → ¬ (r.valid = true ∧ r.listed = true) →
     ∃ u th', exec (.barInit a b ma mb) s = .next u ∧ Becomes s u th' ∧ RegsRead [src a ma, src b mb] th th' ∧
       { th' with regs := th.regs } = passed s th ∧
       PutsBar s u pa { pending := 0, expected := fld w 0 16, arrived := 0, phase := 0, valid := true,
                        posted := fld w 25 1 == 1, faulted := false, auto := fld w 25 1 == 1, cstat := 0, last := 0,
                        head := 0, tail := 0, listed := false, reserved := 0 }) ∧
   (∀ d : BitVec 5, Writable th d.toNat → AtRecord s .write (val th a) pa → releasedAt s s.cur th = true →
       0 < w.toNat → w.toNat < 65536 → Counting r → r.arrived + w.toNat ≤ r.expected →
     let r' := { r with arrived := r.arrived + w.toNat }
     ∃ u th', exec (.barArrive d a b ma mb) s = .next u ∧ Becomes s u th' ∧
       { th' with regs := th.regs, homes := th.homes } = passed s th ∧
       RegsAfter [src a ma, src b mb] d.toNat
         (BitVec.ofNat 64 (r.phase + if r.posted = true ∧ r'.arrived = r.expected ∧ r.pending = 0 then 256 else 0)) th th' ∧
       PutsBar s u pa (if r.posted = true ∧ r'.arrived = r.expected ∧ r.pending = 0 then nextPhase r' else r')) ∧
   (∀ d : BitVec 5, Writable th d.toNat → AtRecord s .write (val th a) pa → fld w 33 31 = 0 → fld w 31 1 = 0 → Counting r →
       r.pending + fld w 0 31 < 2 ^ 31 → (r.posted = false → fld w 32 1 = 1 → 0 ≤ r.pending + fld w 0 31) →
     let r' := { r with pending := r.pending + fld w 0 31, posted := r.posted || (fld w 32 1 == 1) }
     ∃ u th', exec (.barExpect d a b ma mb) s = .next u ∧ Becomes s u th' ∧ { th' with regs := th.regs } = passed s th ∧
       RegsAfter [src a ma, src b mb] d.toNat
         (BitVec.ofNat 64 (r.phase + if r'.posted = true ∧ r.arrived = r.expected ∧ r'.pending = 0 then 256 else 0)) th th' ∧
       PutsBar s u pa (if r'.posted = true ∧ r.arrived = r.expected ∧ r'.pending = 0 then nextPhase r' else r')) ∧
   (AtRecord s .read (val th a) pa → w.toNat < 256 → r.valid = true → r.reserved = 0 →
     (r.faulted = true ∨ r.phase ≠ w.toNat →
         fld (v64 s th.ctx (barLink s th.ctx th.tid + 8)) 21 1 = 0 ∨ v64 s th.ctx (barLink s th.ctx th.tid) = val th a →
       ∃ u th', exec (.barArm a b ma mb) s = .next u ∧ Becomes s u th' ∧ KeepsBytes s u ∧
         (∀ p, p ≠ s.cur → slotAt u p = slotAt s p) ∧
         regOf th' 6 = { st := .full, val := BitVec.ofNat 64 (8 + fld (val th a) 4 52 * 2 ^ 8 + r.last * 2 ^ 60) } ∧
         regOf th' 7 = { st := .full, val := BitVec.ofNat 64 (w.toNat + (BitVec.ofInt 32 r.pending).toNat * 2 ^ 32) } ∧
         { th' with regs := th.regs } = passed s { th with floor := if r.faulted = true then th.floor else s.time8 }) ∧
     (r.faulted = false → r.phase = w.toNat → r.listed = false → th.tid < 2 ^ 20 → fld (v64 s th.ctx (barLink s th.ctx th.tid + 8)) 21 1 = 0 →
         NoWake s th →
       ∃ u th', exec (.barArm a b ma mb) s = .next u ∧ Becomes s u th' ∧ RegsRead [src a ma, src b mb] th th' ∧
         { th' with regs := th.regs } = parkedBy s th ⟨false, .barrier, true⟩ ∧
         readBar u pa = { r with listed := true, head := th.tid % 2 ^ 20, tail := th.tid % 2 ^ 20 })) ∧
   (AtRecord s .write (val th a) pa →
     ∃ u th', exec (.barInval a ma) s = .next u ∧ Becomes s u th' ∧ RegsRead [src a ma] th th' ∧
       { th' with regs := th.regs } = passed s th ∧
       (r.listed = false → PutsBar s u pa { r with valid := false }) ∧
       (r.valid = true → r.listed = true →
         ∃ slot, Sent u (.wakeAtSlot ⟨slot, th.ctx, r.head⟩ (barMsg (val th a) r.phase 10 r.pending))))) ∧
  (∀ s ctx va pa, Canonical s → s.now = none → pa % 16 = 0 → pa + 16 ≤ dramTop → PlainLine s (homeOf va pa) (pa / 32) →
   DirtyNoted s va.toNat →
   let r := readBar s pa
   Counting r →
   (∀ (by_ : Updater) core priv (bytes status : Nat), barTarget s core ctx priv va = .found ⟨ctx, va, pa⟩ → status < 16 →
       -(2 ^ 31) ≤ r.pending - (bytes : Int) → (r.posted = true → 0 ≤ r.pending - (bytes : Int)) →
       (∃ core e, by_ = .copy core e) →
     let r' := { r with pending := r.pending - bytes, cstat := max r.cstat status }
     ∃ u, Delivers s (.barrierBytes by_ core ctx priv va bytes status) u ∧ u.slots = s.slots ∧
       PutsBar s u pa (if r.posted = true ∧ r.arrived = r.expected ∧ r'.pending = 0 then nextPhase r' else r')) ∧
   (∀ chip, barTarget s (tellerCore chip) ctx 0 va = .found ⟨ctx, va, pa⟩ → r.arrived < r.expected →
     let r' := { r with arrived := r.arrived + 1 }
     ∃ u, Delivers s (.taskNotifyArrival ctx va chip) u ∧ u.slots = s.slots ∧
       PutsBar s u pa (if r.posted = true ∧ r'.arrived = r.expected ∧ r.pending = 0 then nextPhase r' else r')) ∧
   (∀ va' chip, barTarget s (tellerCore chip) ctx 0 va' = .refused → s.ras.errtail - s.ras.errhead < 4096 →
     ∃ u, Delivers s (.taskNotifyArrival ctx va' chip) u ∧ u.slots = s.slots ∧ u.ras.errtail = s.ras.errtail + 1 ∧
       u.ras.arrivalDrops = s.ras.arrivalDrops + 1))

/-- R311, R312, R323 to R327: task.sub submits an idle record to a teller; task.done completes the thread's own task,
counts down its successors and unlinks the thread; task.dep adds a successor; task.info reads a record. -/
def Obligations.TaskInstructions : Prop :=
  ∀ s th (d a b : BitVec 5) (ma mb : BitVec 2), Canonical s → Executing s th → th.acqOut = 0 → ReadyNow th (src a ma) →
  ReadyNow th (src b mb) → Writable th d.toNat →
  let ctx := th.ctx
  let chip := chipOfCore (s.cur / 16)
  let r := val th a
  let q := val th b
  let ss := [src a ma, src b mb]
  (∀ pa st, AtTask s th r pa → Spread s ctx [(pa, 64)] → taskState s ctx r = st → (st = 0 ∨ st = 5 ∨ st = 7) →
      reservedInTask s ctx r = false → q.toNat < 16 → taskOp s ctx r ≠ 0xFFF → releasedAt s s.cur th = true →
      (∃ c ∈ (ctxAt s ctx).cells, bits (rdByte s (ctxField s ctx (0xB0 + q.toNat))).toNat (chipOfCell c) 1 = 1) →
      let d0 := setFld (setFld (tw s ctx r 0) 32 4 q.toNat) 48 4 1
    ∃ t th', exec (.taskSub d a b ma mb) s = .next t ∧ Becomes s t th' ∧
      RegsAfter ss d.toNat (BitVec.ofNat 64 ((r.toNat - areaBase s ctx 12) / 64)) th th' ∧
      { th' with regs := th.regs, homes := th.homes } = passed s th ∧ Sent t (.taskRead ctx r chip) ∧
      StoresList s t pa (wordsBytes ([if st = 7 then setFld d0 39 6 0 else d0] ++
        ((List.range 6).map (fun i => tw s ctx r (i + 1))) ++ [if st = 7 then 0 else tw s ctx r 7]))) ∧
  (∀ pa, AtTask s th r pa → taskState s ctx r ≠ 0 → taskState s ctx r ≠ 5 → taskState s ctx r ≠ 7 →
    ∃ t, exec (.taskSub d a b ma mb) s = .next t ∧ Trapping s t th [] (trapOf s th .taskerr 2 0)) ∧
  (q = 0 → th.task = 0 → ∃ t, exec (.taskDone a b ma mb) s = .next t ∧ Raises s t th (trapOf s th .taskerr 6 0)) ∧
  (q ≠ 0 → privOf th = 0 →
    ∃ t, exec (.taskDone a b ma mb) s = .next t ∧ Raises s t th (trapOf s th .privinst 0 0)) ∧
  (∀ pa lp, q = 0 → th.task ≠ 0 → releasedAt s s.cur th = true → engineBusy s th = false →
      engBusy s (s.cur / 16) th.tid ctx = false → VaultAt s ctx th.task.toNat 64 pa →
      VaultAt s ctx (taskLink s ctx th.tid) 32 lp → Spread s ctx [(pa, 64), (lp, 32)] →
      fld (tw s ctx th.task 0) 39 6 = 0 →
    ∃ t th', exec (.taskDone a b ma mb) s = .next t ∧ Becomes s t th' ∧ RegsRead ss th th' ∧
      { th' with regs := th.regs, binds := th.binds } = passed s { th with fmtp := 0, sclp := 0, task := 0 } ∧
      rdBytes t pa 64 = wordsBytes ([setFld (tw s ctx th.task 0) 48 4 7] ++
        ((List.range 6).map (fun i => tw s ctx th.task (i + 1))) ++ [setFld (tw s ctx th.task 7) 0 8 (fld r 0 8)]) ∧
      rdBytes t lp 32 = wordsBytes [0, 0, 0, 0] ∧ KeepsOutside s t [(pa, 64), (lp, 32)] ∧
      (fld (tw s ctx th.task 4) 20 20 = 0 → ∀ i ∈ successors s ctx th.task, Sent t (.taskDecrement ctx i chip))) ∧
  (∀ qa, q ≠ 0 → privOf th ≠ 0 → AtTask s th q qa → Spread s ctx [(qa, 64)] → taskState s ctx q = 5 →
      fld (tw s ctx q 0) 39 6 = 0 →
    ∃ t th', exec (.taskDone a b ma mb) s = .next t ∧ Becomes s t th' ∧ RegsRead ss th th' ∧
      { th' with regs := th.regs } = passed s th ∧
      StoresList s t qa (wordsBytes ([setFld (tw s ctx q 0) 48 4 7] ++ ((List.range 6).map (fun i => tw s ctx q (i + 1))) ++
        [setFld (tw s ctx q 7) 0 8 (fld r 0 8)]))) ∧
  (∀ pa qa, AtTask s th r pa → AtTask s th q qa → r ≠ q → taskState s ctx q = 0 → taskPending s ctx q ≠ 0xFFFF →
    (taskState s ctx r = 7 →
      ∃ t, exec (.taskDep d a b ma mb) s = .next t ∧ ReadsHome s t th ss d.toNat 1 id) ∧
    (taskState s ctx r ≠ 7 → (∀ f ∈ succFields s ctx r, fieldIdx s ctx f ≠ 0) →
      ∃ t, exec (.taskDep d a b ma mb) s = .next t ∧ ReadsHome s t th ss d.toNat 2 id) ∧
    (∀ i lo, taskState s ctx r ≠ 7 → Spread s ctx [(pa, 64), (qa, 64)] →
        (succFields s ctx r).find? (fun f => fieldIdx s ctx f == 0) = some (r, i, lo) → i < 8 →
      ∃ t th', exec (.taskDep d a b ma mb) s = .next t ∧ Becomes s t th' ∧ RegsAfter ss d.toNat 0 th th' ∧
        { th' with regs := th.regs } = passed s th ∧
        rd64 t qa = setFld (tw s ctx q 0) 16 16 (taskPending s ctx q + 1) ∧
        rd64 t (pa + 8 * i) = setFld (tw s ctx r i) lo 20 ((q.toNat - areaBase s ctx 12) / 64) ∧
        KeepsOutside s t [(pa + 8 * i, 8), (qa, 8)])) ∧
  (∀ pa qa, AtTask s th r pa → AtTask s th q qa → r ≠ q → taskState s ctx q ≠ 0 →
    ∃ t, exec (.taskDep d a b ma mb) s = .next t ∧ Trapping s t th [] (trapOf s th .taskerr 2 0)) ∧
  (q = 0 → ∃ t, exec (.taskInfo d a b ma mb) s = .next t ∧ WritesReg s t th ss d.toNat th.task) ∧
  (∀ pa, q = 1 → AtTask s th r pa → (∀ i, i < 2 → (dirAt s (pa / 32 + i)).invs = []) →
      let d0 := tw s ctx r 0
      let d7 := tw s ctx r 7
    ∃ t, exec (.taskInfo d a b ma mb) s = .next t ∧
      ReadsHome s t th ss d.toNat (BitVec.ofNat 64 (fld d0 48 4 + fld d0 16 16 * 2 ^ 4 + fld d7 0 8 * 2 ^ 20 +
        fld d7 8 12 * 2 ^ 28 + fld d7 32 1 * 2 ^ 40 + fld d0 39 3 * 2 ^ 41 + fld d0 42 3 * 2 ^ 44))
        (fun th => { th with floor := s.time8 })) ∧
  (∀ pa, q = 2 → AtTask s th r pa →
    ∃ t, exec (.taskInfo d a b ma mb) s = .next t ∧ ReadsHome s t th ss d.toNat
      (match (List.range 8).findSome? (fun chip => taskEnt s ctx r chip) with
        | some e => if taskState s ctx r = 3 then BitVec.ofNat 64 (min 3 (e.prio + (tick s - e.since) / promoteOf s ctx)) else 0
        | none => 0) id) ∧
  (3 ≤ fld q 0 4 ∨ (fld q 0 4 = 0 ∧ q ≠ 0) →
    ∃ t, exec (.taskInfo d a b ma mb) s = .next t ∧ Raises s t th (trapOf s th .taskerr 3 0)) ∧
  (∀ pa, fld q 0 4 = 1 ∨ fld q 0 4 = 2 → 16 ≤ q.toNat → AtTask s th r pa →
    ∃ t, exec (.taskInfo d a b ma mb) s = .next t ∧ Trapping s t th [] (trapOf s th .taskerr 3 0))

/-- R311, R312, R314, R316, R320 to R322: a teller reads a submitted record, counts its predecessors down, matches it
with a method of its table and gives it a thread; one that is ready enters its queue at the tail in the vault (that an entry is
the record's index in 4 bytes is the model's choice: log entry 12). -/
def Obligations.TellerEvents : Prop :=
  ∀ s ctx (r : Word) chip, Canonical s → s.now = none → chip < 8 → 8 + chip ∉ s.fencedUnits →
  (∀ pa, VaultAt s ctx r.toNat 64 pa → Spread s ctx [(pa, 64)] →
    let d0 := tw s ctx r 0
    let q := fld d0 32 4
    let to_ := tellerFor s ctx q chip
    let entry : TaskEnt := { addr := r, prio := fld d0 12 2, since := tick s }
    let tail := taskqVa s ctx (16 * to_ + q)
    (taskState s ctx r ≠ 1 → Delivers s (.taskRead ctx r chip) s) ∧
    (taskState s ctx r = 1 → taskPending s ctx r ≠ 0 →
      ∃ t, Delivers s (.taskRead ctx r chip) t ∧ StoresList s t pa (leBytes 8 (setFld d0 48 4 2).toNat) ∧
        t.slots = s.slots ∧ t.ctxs = s.ctxs) ∧
    (∀ ep, taskState s ctx r = 1 → taskPending s ctx r = 0 → EntryAt s ctx tail 4 ep [(pa, 64)] →
      ∃ t, Delivers s (.taskRead ctx r chip) t ∧ rd64 t pa = setFld d0 48 4 3 ∧
        rdBytes t ep 4 = leBytes 4 (taskIdx s ctx r) ∧ KeepsOutside s t [(pa, 8), (ep, 4)] ∧
        t.slots = s.slots ∧ tqueue t ctx to_ q = tqueue s ctx to_ q ++ [entry] ∧ Sent t (.poolPickup ctx to_)) ∧
    (∀ idx, taskVa s ctx idx = r →
      (taskPending s ctx r = 0 → Delivers s (.taskDecrement ctx idx chip) s) ∧
      (1 < taskPending s ctx r ∨ (taskPending s ctx r = 1 ∧ taskState s ctx r ≠ 2) →
        ∃ t, Delivers s (.taskDecrement ctx idx chip) t ∧ t.slots = s.slots ∧ t.ctxs = s.ctxs ∧
          StoresList s t pa (leBytes 8 (setFld d0 16 16 (taskPending s ctx r - 1)).toNat)) ∧
      (∀ ep, taskPending s ctx r = 1 → taskState s ctx r = 2 → EntryAt s ctx tail 4 ep [(pa, 64)] →
        ∃ t, Delivers s (.taskDecrement ctx idx chip) t ∧ t.slots = s.slots ∧
          rd64 t pa = setFld (setFld d0 16 16 0) 48 4 3 ∧ rdBytes t ep 4 = leBytes 4 (taskIdx s ctx r) ∧
          KeepsOutside s t [(pa, 8), (ep, 4)] ∧
          tqueue t ctx to_ q = tqueue s ctx to_ q ++ [entry])) ∧
    (∀ e m, taskEnt s ctx r chip = some e → e.matched = none → e.asked = false → e.waits = false →
        ((taskOp s ctx r = 0xFFF ∧ m = fld (tw s ctx r 7) 8 12) ∨
         (taskOp s ctx r ≠ 0xFFF ∧
          (∀ x, x < 4 → taskHandle s ctx r x ≠ 0 → ∃ slice y, findTile s ctx (BitVec.ofNat 64 (taskHandle s ctx r x)) =
            some (slice, y) ∧ y.tag.getLsbD 3 = false) ∧
          ((ctxAt s ctx).mcache.get [] chip).find? (fun y => y.key == taskKey s ctx r) = some ⟨taskKey s ctx r, m⟩)) →
      ∃ t, Delivers s (.taskMatch ctx r chip) t ∧ t.slots = s.slots ∧ Sent t (.poolPickup ctx chip) ∧
        (∀ q, q < 16 → tqueue t ctx chip q = (tqueue s ctx chip q).map (fun y =>
          if y.addr = r then { y with matched := some m, asked := false } else y)) ∧
        StoresList s t pa (wordsBytes ([setFld d0 48 4 4] ++ ((List.range 6).map (fun i => tw s ctx r (i + 1))) ++
          [setFld (setFld (tw s ctx r 7) 8 12 m) 32 1 1])))) ∧
  (∀ e m tid, taskEnt s ctx r chip = some e → e.matched = some m → firstTid s ctx = some tid →
      (ctxAt s ctx).st = .resident →
    let ref := ((List.range 4).find? (fun x => taskHandle s ctx r x != 0)).elim 0 (taskHandle s ctx r)
    let cells := (ctxAt s ctx).cells.filter (fun c => chipOfCell c == chip && (freeEng s c).isSome &&
      (slotInCell s ctx ref c).isSome)
    (cells = [] → Delivers s (.taskPlace ctx r chip) s) ∧
    (∀ cell p en pa hp rp lp, leastBy (cellRank s ctx chip ref) cells = some cell → slotInCell s ctx ref cell = some p →
        freeEng s cell = some en → en < 4 → p / 64 = cell → VaultAt s ctx r.toNat 64 pa →
        VaultAt s ctx (ctxWord s ctx 0x10).toNat 8 hp → VaultAt s ctx (recVa s ctx tid) 64 rp →
        VaultAt s ctx (taskLink s ctx tid) 32 lp → Spread s ctx [(pa, 64), (hp, 8), (rp, 64), (lp, 32)] →
      let k := (ctxAt s ctx).kernel
      let me_ := rawMethod s ctx m
      ∃ t tc, Delivers s (.taskPlace ctx r chip) t ∧ threadAt t p = some tc ∧ tc.tid = tid ∧ tc.ctx = ctx ∧
        tc.form = .ready ∧ tc.pc = BitVec.ofNat 48 (me_.routine * 4) ∧ tc.task = r ∧ privOf tc = 0 ∧
        prioOf tc = fld (tw s ctx r 0) 12 2 ∧
        regOf tc 2 = { st := .full, val := k.tstkBase + BitVec.ofNat 64 ((tid + 1) * k.tstkSize) } ∧
        regOf tc 3 = { st := .full, val := tw s ctx r 1 } ∧ regOf tc 4 = { st := .full, val := tw s ctx r 2 } ∧
        regOf tc 5 = { st := .full, val := r } ∧ (∀ g, g < 28 → ¬ (2 ≤ g ∧ g ≤ 5) → (regOf tc g).st = .empty) ∧
        (eng t cell en).st = .idle ∧ (eng t cell en).tid = tid ∧ (eng t cell en).ctx = ctx ∧
        fld (rd64 t pa) 48 4 = 6 ∧ (∀ q, q < 16 → ∀ y ∈ tqueue t ctx chip q, y.addr ≠ r)))

/-- R362 to R377: grp.info reads a group; coll.start joins a collective with a descriptor in rule and coll.stat tells
its state. -/
def Obligations.GroupInstructions : Prop :=
  ∀ s th (d a b : BitVec 5) (ma mb : BitVec 2), Canonical s → Executing s th → th.acqOut = 0 → ReadyNow th (src a ma) →
  Writable th d.toNat →
  let ctx := th.ctx
  let core := s.cur / 16
  let l := lcoreOf s core
  let g := fld (val th a) 0 8
  let ss := [src a ma, src b mb]
  (grpMembers s ctx g = none → ReadyNow th (src b mb) → (val th b).toNat < 4 → (val th a).toNat < 2 ^ 8 →
    (∃ t, exec (.grpInfo d a b ma mb) s = .next t ∧ Raises s t th (trapOf s th .badopnd (val th a) 0)) ∧
    ∃ t, exec (.collStat d a ma) s = .next t ∧ Raises s t th (trapOf s th .badopnd (val th a) 0)) ∧
  (∀ ms, grpMembers s ctx g = some ms →
    (ReadyNow th (src b mb) →
      (val th b = 0 → (val th a).toNat < 2 ^ 8 → ∃ t, exec (.grpInfo d a b ma mb) s = .next t ∧
        WritesReg s t th ss d.toNat (grpWord s ctx g 0)) ∧
      (val th b = 1 → (val th a).toNat < 2 ^ 8 → ∃ t, exec (.grpInfo d a b ma mb) s = .next t ∧
        WritesReg s t th ss d.toNat (match ms.findIdx? (fun x => x == l) with
          | some p => BitVec.ofNat 64 p
          | none => BitVec.ofInt 64 (-1))) ∧
      (∀ c, val th b = 2 → (val th a).toNat < 2 ^ 20 → ms[fld (val th a) 8 12]? = some c →
        ∃ t, exec (.grpInfo d a b ma mb) s = .next t ∧ WritesReg s t th ss d.toNat (BitVec.ofNat 64 c)) ∧
      (val th b = 2 → (val th a).toNat < 2 ^ 20 → ms.length ≤ fld (val th a) 8 12 →
        ∃ t, exec (.grpInfo d a b ma mb) s = .next t ∧ Raises s t th (trapOf s th .badopnd (val th a) 0)) ∧
      (val th b = 3 → (val th a).toNat < 2 ^ 8 → l ∈ ms → ∃ t, exec (.grpInfo d a b ma mb) s = .next t ∧
        WritesReg s t th ss d.toNat (BitVec.ofNat 64 (collIndex s ctx g l % 4)))) ∧
    ((val th a).toNat < 2 ^ 8 → l ∉ ms →
      ∃ t, exec (.collStat d a ma) s = .next t ∧ Raises s t th (trapOf s th .collerr 1 0)) ∧
    ((val th a).toNat < 2 ^ 8 → l ∈ ms → collSlot s core g = none →
      ∃ t, exec (.collStat d a ma) s = .next t ∧ WritesReg s t th [src a ma] d.toNat (BitVec.ofNat 64 (ms.length * 2 ^ 24))) ∧
    (∀ k x, (val th a).toNat < 2 ^ 8 → l ∈ ms → collSlot s core g = some (k, x) → x.st = 0 →
      ∃ t th', exec (.collStat d a ma) s = .next t ∧ Becomes s t th' ∧ Quiet s t ∧
        RegsAfter [src a ma] d.toNat (BitVec.ofNat 64 ((if x.lost = true then 2 ^ 3 else 0) + x.status * 2 ^ 4 +
          x.number * 2 ^ 8 + x.survivors * 2 ^ 24 + min x.chunksDone (2 ^ 28 - 1) * 2 ^ 36)) th th' ∧
        { th' with regs := th.regs } = passed s (if x.status ≤ 1 then { th with floor := s.time8 } else th)) ∧
    (∀ pa, ReadyNow th (src b mb) → (val th a).toNat < 2 ^ 8 → l ∈ ms → (val th b).toNat % 64 = 0 →
        BlockHere s th (val th b) 2 pa →
        collDescFault (fun i => rd64 s (pa + 8 * i)) ms.length = none → collIndex s ctx g l < 4 →
        ((collSlot s core g).isSome = true ∨ (collFree s core ctx g l).isSome = true) →
      let x := (collAt s core ctx g l).1
      (x.st ≠ 0 → ∃ t th', exec (.collStart d a b ma mb) s = .next t ∧ Becomes s t th' ∧
        th'.form = .trapping (trapOf s th .collerr 3 0)) ∧
      (x.st = 0 → releasedAt s s.cur th = true →
        let n := (x.number + 1) % 65536
        ∃ t th', exec (.collStart d a b ma mb) s = .next t ∧ Becomes s t th' ∧ RegsAfter ss d.toNat (BitVec.ofNat 64 n) th th' ∧
          { th' with regs := th.regs } = passed s { th with floor := s.time8 } ∧
          (coreAt t core).colls[collIndex s ctx g l]? =
            some { used := true, st := 1, group := g, number := n, status := x.status, op := rd64 s pa, src := rd64 s (pa + 8),
                   dst := rd64 s (pa + 16), len := fld (rd64 s (pa + 24)) 0 40, priv := privOf th,
                   th := some (named_ s th) } ∧
          (∃ c ∈ (ctxAt t ctx).colls, c.group = g ∧ c.number = n ∧ ∃ p ∈ c.joined, ms[p]? = some l) ∧
          (ms = [l] → grpPeers s ctx g = 0 → (∀ c ∈ (ctxAt s ctx).colls, c.group ≠ g) → Sent t (.collAllJoined ctx g)) ∧
          KeepsBytes s t)))

/-- R366 to R372: a collective that all members joined runs chunk by chunk, a member's contribution is read and the
final value written at its place, the last acknowledgement ends it with a wake, and a member lost aborts it or has it
repaired. -/
def Obligations.CollectiveEvents : Prop :=
  ∀ s ctx g, Canonical s → s.now = none → away s ctx = false →
  (∀ c, (ctxAt s ctx).colls.find? (fun c => c.group == g && !c.begun) = some c → c.held = false → c.repair = false →
      (grpMembers s ctx g).isSome = true → grpPeers s ctx c.group = 0 →
      (∀ p, p < ((grpMembers s ctx g).getD []).length → p ∈ c.joined) →
    ((∀ x ∈ collSlots s ctx c, ∀ y ∈ collSlots s ctx c, x.2.2.op = y.2.2.op ∧ x.2.2.len = y.2.2.len) →
      ∃ t, Delivers s (.collAllJoined ctx g) t ∧ t.slots = s.slots ∧ (∀ x, rdByte t x = rdByte s x) ∧
        ∀ i, i < (collRanks s ctx c).length → Sent t (.collChunkForward ctx g i c.chunk)) ∧
    (∀ x ∈ collSlots s ctx c, ∀ y ∈ collSlots s ctx c, x.2.2.op ≠ y.2.2.op →
      ∃ t, Delivers s (.collAllJoined ctx g) t ∧ t.slots = s.slots ∧ (∀ x, rdByte t x = rdByte s x) ∧
        ∀ z ∈ collSlots s ctx c, ∀ w, z.2.2.th = some w → Sent t (.wakeAtSlot w (collMsg c 3 (survivorsOf s ctx c))))) ∧
  (∀ c rank chunk, findColl s ctx g = some c → c.chunk ≠ chunk ∨ c.repair = true ∨ c.held = true →
    Delivers s (.collChunkForward ctx g rank chunk) s) ∧
  (∀ c rank p core x pa, findColl s ctx g = some c → c.repair = false → c.held = false → c.chunk = 0 → c.acked = 0 → rank ≠ 0 →
      (collRanks s ctx c)[rank]? = some p → (collSlots s ctx c).find? (fun y => y.1 == p) = some (p, core, x) →
      collKind x.op ≠ 2 → x.len = collElem x.op → x.len < 65536 → region x.src ≠ .paged →
      check s core ctx x.priv x.src x.len .read true = .ok pa → pa + 8 ≤ dramTop → PlainLine s (homeOf x.src pa) (pa / 32) →
      c.final = none → c.vals.find? (fun v => v.1 == rank) = none → (collRanks s ctx c).length ≤ 4 * rank + 1 →
    ∃ t, Delivers s (.collChunkForward ctx g rank 0) t ∧ t.slots = s.slots ∧ KeepsBytes s t ∧
      ∃ c' ∈ (ctxAt t ctx).colls, c'.group = g ∧ c'.number = c.number ∧ c'.vals.get [] rank = rdBytes s pa x.len) ∧
  (∀ c rank p core x pa bs, findColl s ctx g = some c → c.repair = false → c.held = false → c.chunk = 0 → c.acked = 0 →
      (collRanks s ctx c)[rank]? = some p → (collSlots s ctx c).find? (fun y => y.1 == p) = some (p, core, x) →
      x.len = collElem x.op → x.len < 65536 → region x.dst ≠ .paged → xlatFind s x.dst.toNat = none →
      check s core ctx x.priv x.dst x.len .write true = .ok pa → pa + 8 ≤ dramTop → PlainLine s (homeOf x.dst pa) (pa / 32) →
      c.final = some bs → bs.length = x.len → rank ∉ c.wrote → rank ∈ writersOf s ctx c →
    ∃ t, Delivers s (.collChunkForward ctx g rank 0) t ∧ t.slots = s.slots ∧ StoresList s t pa bs) ∧
  (∀ core k x c chunk, core < 3072 → collSlot s core g = some (k, x) → k < 4 → x.st ≠ 0 →
      (ctxAt s ctx).colls.find? (fun c => c.group == g && c.number == x.number) = some c →
      (∀ y ∈ s.dir, ∀ i ∈ y.2.invs, ∀ w, x.th = some w → i.writer ≠ some w) →
    (65536 * (chunk + 1) < x.len →
      ∃ t, Delivers s (.collChunkAck ctx g x.number core chunk) t ∧ t.slots = s.slots ∧
        (coreAt t core).colls[k]? = some { x with chunksDone := x.chunksDone + 1 }) ∧
    (x.len ≤ 65536 * (chunk + 1) →
      let status := if c.lost = [] then 0 else 1
      ∃ t, Delivers s (.collChunkAck ctx g x.number core chunk) t ∧ t.slots = s.slots ∧
        (coreAt t core).colls[k]? = some { x with
          st := 0, status := status, th := none, lost := !c.lost.isEmpty, survivors := (survivorsOf s ctx c).1,
          chunksDone := x.chunksDone + 1 } ∧
        ∀ w, x.th = some w → Sent t (.wakeAtSlot w (collMsg c status (survivorsOf s ctx c))))) ∧
  (∀ pos, (∀ c ∈ (ctxAt s ctx).colls, c.group = g → pos ∈ c.lost) → Delivers s (.collMemberLost ctx g pos) s) ∧
  (∀ pos c, (ctxAt s ctx).colls.filter (fun c => c.group == g && !(pos ∈ c.lost)) = [c] → c.held = false → c.repair = false →
      fld (fmode s ctx) 3 1 = 0 → grpShrink s ctx g = false → collSlots s ctx c ≠ [] → collOver s ctx c = false →
    let c' := { c with lost := c.lost ++ [pos] }
    ∃ t, Delivers s (.collMemberLost ctx g pos) t ∧ t.slots = s.slots ∧ (∀ x, rdByte t x = rdByte s x) ∧
      ∀ z ∈ collSlots s ctx c, ∀ w, z.2.2.th = some w → Sent t (.wakeAtSlot w (collMsg c' 2 (survivorsOf s ctx c')))) ∧
  (∀ n core k x chunk, collSlot s core g = some (k, x) → x.number ≠ n → Delivers s (.collChunkAck ctx g n core chunk) s) ∧
  ((∀ c ∈ (ctxAt s ctx).colls, c.group = g → c.repair = false ∧ c.answer = none) → Delivers s (.collRepairDone ctx g) s) ∧
  (∀ c, (ctxAt s ctx).colls.find? (fun c => c.group == g && c.repair) = some c → c.begun = true →
      (∀ c ∈ (ctxAt s ctx).colls, c.group = g → c.answer = none) →
      (∀ p, p < ((grpMembers s ctx g).getD []).length → p ∈ c.joined ∨ p ∈ c.lost) →
    ∃ t, Delivers s (.collRepairDone ctx g) t ∧ t.slots = s.slots ∧ (∀ x, rdByte t x = rdByte s x) ∧
      ∀ i, i < (collRanks s ctx c).length → Sent t (.collChunkForward ctx g i c.chunk))

/-- R450 to R453: sto.read and sto.write start a transfer and give its ticket, sto.sync waits for it and frees it,
xlat.inv broadcasts an invalidation to every slice and fence.xlat waits for them; the last two are for supervisors. -/
def Obligations.StorageInstructions : Prop :=
  ∀ s th (d a b : BitVec 5) (ma mb : BitVec 2), Canonical s → Executing s th → th.acqOut = 0 → ReadyNow th (src a ma) →
  let ctx := th.ctx
  let chip := chipOfCore (s.cur / 16)
  (∀ (rd : Bool) pa n, Writable th d.toNat → (val th a).toNat % 32 = 0 → BlockHere s th (val th a) 1 pa → Performed s th →
      let w (i : Nat) : Word := rd64 s (pa + 8 * i)
      let len := fld (w 1) 32 21
      let drive := fld (w 1) 0 3
      let lba := fld (w 2) 0 40
      let permits (r : RegionEnt) : Bool := r.drive == drive && decide (r.lba ≤ lba) &&
        decide (lba + blocksOf drive len ≤ r.lba + r.count) &&
        (privOf th == 3 || decide ((if rd = true then 1 else 2) ≤ domainRight s ctx r.domain))
      (w 0).toNat % 4096 = 0 → (region (w 0) = .paged ∨ ∃ p, region (w 0) = .linear p) → fld (w 1) 4 28 = 0 → fld (w 1) 53 11 = 0 → len % 4096 = 0 → 0 < len →
      len ≤ 2 ^ 20 → Config.driveReady drive = true → fld (w 2) 40 24 = 0 → (w 3).toNat % 16 = 0 →
    ((∀ r ∈ regionEnts s, permits r = false) →
      ∃ t th', exec (if rd = true then .stoRead d a ma else .stoWrite d a ma) s = .next t ∧ Becomes s t th' ∧
        th'.form = .trapping (trapOf s th .prot (memInfo .read 0) (val th a))) ∧
    ((∃ r ∈ regionEnts s, permits r = true) → n < 1024 → (sqeAt s chip).ops.get none n = none →
        (∀ m, m < n → (sqeAt s chip).ops.get none m ≠ none) →
      ∃ t th', exec (if rd = true then .stoRead d a ma else .stoWrite d a ma) s = .next t ∧ Becomes s t th' ∧
        RegsAfter [src a ma] d.toNat
          (BitVec.ofNat 64 (n + chip * 2 ^ 10 + (sqeAt s chip).gens.get 0 n % 2 ^ 19 * 2 ^ 13)) th th' ∧
        { th' with regs := th.regs } = passed s { th with floor := s.time8 } ∧
        (sqeAt t chip).ops.get none n = some (.transfer
          { th := named_ s th, priv := privOf th, read := rd, buf := w 0, len := len, drive := drive, lba := lba,
            fua := fld (w 1) 3 1 == 1, bar := w 3, desc := val th a }) ∧
        Sent t (.retryWakeTimer (sliceOfVa (w 0).toNat) (w 0) (.sqe chip n)) ∧ KeepsBytes s t)) ∧
  (∀ (n c : Nat), Writable th d.toNat → (val th a).toNat < 2 ^ 32 → n = fld (val th a) 0 10 → c = fld (val th a) 10 3 →
    let gen := (sqeAt s c).gens.get 0 n % 2 ^ 19
    ((fld (val th a) 13 19 ≠ gen ∨ ∀ x, (sqeAt s c).ops.get none n = some (.transfer x) → x.th.ctx ≠ ctx) →
      ∃ t, exec (.stoSync d a ma) s = .next t ∧ WritesReg s t th [src a ma] d.toNat 15) ∧
    (∀ x st, fld (val th a) 13 19 = gen → x.th.ctx = ctx → x.result = some st →
        (sqeAt s c).ops.get none n = some (.transfer x) →
      ∃ t th', exec (.stoSync d a ma) s = .next t ∧ Becomes s t th' ∧ RegsAfter [src a ma] d.toNat (BitVec.ofNat 64 st) th th' ∧
        { th' with regs := th.regs } = passed s (if st = 0 then { th with floor := s.time8 } else th) ∧
        (sqeAt t c).ops.get none n = none ∧ (sqeAt t c).gens.get 0 n = (gen + 1) % 2 ^ 19 ∧ ∀ x, rdByte t x = rdByte s x) ∧
    (∀ x, fld (val th a) 13 19 = gen → x.th.ctx = ctx → x.result = none → NoWake s th →
        (sqeAt s c).ops.get none n = some (.transfer x) →
      ∃ t, exec (.stoSync d a ma) s = .next t ∧ Becomes s t (parkedBy s th ⟨false, .ticket c n, false⟩) ∧
        (sqeAt t c).ops.get none n = some (.transfer { x with waiters := x.waiters ++ [named_ s th] }) ∧
        ∀ x, rdByte t x = rdByte s x)) ∧
  (privOf th = 0 →
    (∃ t, exec (.xlatInv a b ma mb) s = .next t ∧ Raises s t th (trapOf s th .privinst 0 0)) ∧
    ∃ t, exec .fenceXlat s = .next t ∧ Raises s t th (trapOf s th .privinst 0 0)) ∧
  (1 ≤ privOf th → invsOut s th = [] → ∃ t, exec .fenceXlat s = .next t ∧ ChangesThread s t th [] id) ∧
  (ReadyNow th (src b mb) → 1 ≤ privOf th → (val th b).toNat < 8 → releasedAt s s.cur th = true → (invsOut s th).length < 8 →
      ((val th b).toNat / 4 = 0 → (val th a).toNat % (match (val th b).toNat % 4 with
        | 0 => 2 ^ 12 | 1 => 2 ^ 16 | 2 => 2 ^ 21 | _ => 2 ^ 30) = 0) →
    ∃ t th' id, exec (.xlatInv a b ma mb) s = .next t ∧ Becomes s t th' ∧ RegsRead [src a ma, src b mb] th th' ∧
      { th' with regs := th.regs } = passed s th ∧ id ∉ invsOut s th ∧
      (∀ n, n < 768 → Sent t (.xlatInvAtSlice n (val th a) ((val th b).toNat + 16 * id) (some (named_ s th)))) ∧
      t.slices = s.slices ∧ ∀ x, rdByte t x = rdByte s x)

/-- R14, R433 to R440, R448, R453: a miss starts a walk of its page by one of the slice's 8 walkers, or waits for one; the
walk ends in an entry of the slice, in the host's hands or in an error record; waiters are told, an invalidation drops the
range's entries, a remote access is charged and goes to the peer, which answers it or refuses it (R467; whether it does is
the model's free value: log entry 100). -/
def Obligations.TranslationEvents : Prop :=
  ∀ s slice (va : Word), Canonical s → s.now = none →
  let sl := sliceAt s slice
  let page := va.toNat / 4096
  (∀ th v, (xlatFind s va.toNat).isSome = true →
    ∃ t, Delivers s (.translationMiss slice va (.thread th v)) t ∧ Sent t (.wakeAtSlot th (hwMsg 5 (fld v 0 56))) ∧
      t.slices = s.slices) ∧
  (∀ w, xlatFind s va.toNat = none → (sl.coal.map (fun c => c.waiters.length)).sum < 1024 →
    ((∃ c ∈ sl.coal, c.page = page) →
      ∃ t, Delivers s (.translationMiss slice va w) t ∧ t.agenda = s.agenda ∧
        sliceAt t slice = { sl with coal := sl.coal.map (fun c =>
          if c.page = page then { c with waiters := c.waiters ++ [w] } else c) }) ∧
    ((∀ c ∈ sl.coal, c.page ≠ page ∧ c.walk ≠ 1) → sl.coal.length < 64 → sl.coal.countP (fun c => c.walk == 2) < 8 →
      ∃ t, Delivers s (.translationMiss slice va w) t ∧ Sent t (.walkComplete slice (BitVec.ofNat 64 (page * 4096))) ∧
        sliceAt t slice = { sl with coal := sl.coal ++ [{ page := page, waiters := [w], walk := 2 }] }) ∧
    ((∀ c ∈ sl.coal, c.page ≠ page) → sl.coal.length < 64 → 8 ≤ sl.coal.countP (fun c => c.walk == 2) →
      ∃ t, Delivers s (.translationMiss slice va w) t ∧ t.agenda = s.agenda ∧
        sliceAt t slice = { sl with coal := sl.coal ++ [{ page := page, waiters := [w], walk := 1 }] }) ∧
    ((∀ c ∈ sl.coal, c.page ≠ page) → 64 ≤ sl.coal.length →
      ∃ t, Delivers s (.translationMiss slice va w) t ∧ t.slices = s.slices ∧
        t.timers = s.timers ++ [(s.time8 + 2560, .retryWakeTimer slice va w)])) ∧
  (∀ th v, ∃ t, Delivers s (.retryWakeTimer slice va (.thread th v)) t ∧ Sent t (.wakeAtSlot th (hwMsg 5 (fld v 0 56)))) ∧
  (∀ w, (∃ r n, w = .ldp r n) ∨ (∃ r, w = .write r) →
    ∃ t, Delivers s (.retryWakeTimer slice va w) t ∧ Sent t (.translationMiss slice va w)) ∧
  ((∀ c ∈ sl.coal, c.page ≠ page) → Delivers s (.walkComplete slice va) s) ∧
  (∀ co base bits_ pte pa, sl.coal.find? (fun c => c.page == page) = some co →
      let start := walkStart s slice va.toNat
      (∀ a ∈ walkReads s va.toNat start.1 start.2, PlainLine s (sliceOfPa a) (a / 32)) →
      walkFrom s va.toNat start.1 start.2 = .leaf base bits_ pte pa → pteType pte ≠ 1 → pageOp s base = none → sl.xlat.length < 4096 →
      (pteA pte = false → pa + 8 ≤ dramTop) → (∀ c ∈ sl.coal, ∀ w ∈ c.waiters, ∀ th, w ≠ .red th) →
    let leaf := setFld pte 16 1 1
    ∃ t, Delivers s (.walkComplete slice va) t ∧ t.slots = s.slots ∧
      (∃ xs rs, (sliceAt t slice).xlat = xs ++
          [{ va := base, bits := bits_, leaf := leaf, leafPa := pa, dirty := pteD pte, rights := rs }] ∧
        (pteA pte = true → rs = s.ctxs.map (fun x => (x.1, domainRight s x.1 (pteDomain leaf))))) ∧
      (∀ c ∈ (sliceAt t slice).coal, c.page ≠ page) ∧
      (∀ th v, .thread th v ∈ co.waiters → Sent t (.wakeAtSlot th (hwMsg 5 (fld v 0 56)))) ∧
      (pteA pte = true → KeepsBytes s t) ∧
      (pteA pte = false → StoresList s t pa (leBytes 8 leaf.toNat))) ∧
  (∀ co, sl.coal.find? (fun c => c.page == page) = some co →
      let start := walkStart s slice va.toNat
      (∀ a ∈ walkReads s va.toNat start.1 start.2, PlainLine s (sliceOfPa a) (a / 32)) →
      walkFrom s va.toNat start.1 start.2 = .absent → co.held ≠ 1 →
    ∃ t, Delivers s (.walkComplete slice va) t ∧ t.slots = s.slots ∧ KeepsBytes s t ∧
      t.host.waiting = s.host.waiting ++ [{ type := 7, ctx := (co.waiters.findSome? (waiterCtx s)).getD 0, reply := false,
                                            addr := va, info := 0 }] ∧
      (sliceAt t slice).coal.map (fun c => (c.page, c.waiters, c.held)) =
        sl.coal.map (fun c => (c.page, c.waiters, if c.page = page then 1 else c.held))) ∧
  (∀ (ctl : Nat) th, ctl < 8 →
    let r := invRange va ctl
    accessOut s r.1 r.2 = false → pinsOut s r.1 r.2 = false →
    ∃ t, Delivers s (.xlatInvAtSlice slice va ctl th) t ∧ t.slots = s.slots ∧ (∀ x, rdByte t x = rdByte s x) ∧
      (sliceAt t slice).xlat = sl.xlat.filter (fun e => !(decide (e.va < r.2) && decide (r.1 < e.va + 2 ^ e.bits))) ∧
      (∀ x ∈ (sliceAt t slice).pwc, x.onPath r.1 r.2 = false) ∧
      ∀ n, n ≠ slice → (sliceAt t n).xlat = (sliceAt s n).xlat) ∧
  (∀ th v, xlatFind s va.toNat = none → Delivers s (.remoteAccess slice va (.thread th v)) (charge th.ctx 1000 s)) ∧
  (∀ (r : ReadReq) size, r.kind = .pref → xlatFind s va.toNat = none → peerCut s slice ((r.pa - peerBase) / 2 ^ 40) = false →
    ∃ t, Delivers s (.remoteAccess slice va (.ldp r size)) t ∧ t.slots = s.slots ∧
      KeepsBytes s t ∧
      (peerRefuses s = true → t.out = s.out ∧ t.agenda = s.agenda ∧ ∀ f ∈ (coreAt t r.core).fills, f.id ≠ r.id) ∧
      (peerRefuses s = false →
        t.out = s.out ++ [.peerRead ((r.pa - peerBase) / 2 ^ 40) (r.pa / 32 * 32 % 2 ^ 40) 32] ∧
        Sent t (.loadReply r.th r.va (rdBytes s (r.pa / 32 * 32) 32) r.id 0)))

/-- R441 to R452: what a storage queue engine does: a miss that no region serves goes to the host, a fill or eviction
that fails too, a finished fill puts the page in its frame, a migrated page takes its leaf, a transfer's end is
recorded. -/
def Obligations.StorageEvents : Prop :=
  ∀ s chip (va : Word), Canonical s → s.now = none →
  let told (type ctx : Nat) (reply : Bool) (addr : Nat) (info : Nat) : HostEvent :=
    { type := type, ctx := ctx, reply := reply, addr := BitVec.ofNat 64 addr, info := BitVec.ofNat 64 info }
  (∀ leaf pa n, (∀ o ∈ (sqeAt s chip).ops, ∀ p v slot l e b, o.2 = some (.evict p v slot l e b) → v ≠ va.toNat) →
      pageOp s va.toNat = none → leafAt s va.toNat = some (leaf, pa) → pteType leaf = 1 → n < 1024 →
      (sqeAt s chip).ops.get none n = none → (sqeAt s chip).offers = [] →
    (regionOf s va.toNat = none →
      ∃ t, Delivers s (.storageFaultAccept chip va) t ∧ t.slots = s.slots ∧ t.sqes = s.sqes ∧
        t.host.waiting = s.host.waiting ++ [told 1 (faultCtx s va.toNat) true va.toNat 3] ∧ ∀ x, rdByte t x = rdByte s x) ∧
    (∀ r, regionOf s va.toNat = some r → fld (fmode s (faultCtx s va.toNat)) 0 1 = 1 →
      ∃ t, Delivers s (.storageFaultAccept chip va) t ∧ t.slots = s.slots ∧ t.sqes = s.sqes ∧
        t.host.waiting = s.host.waiting ++ [told 1 (faultCtx s va.toNat) true va.toNat 1] ∧ ∀ x, rdByte t x = rdByte s x)) ∧
  (∀ status data, pageOp s va.toNat = none →
    Delivers s (.pageFillComplete chip va status data) s ∧ Delivers s (.evictionWritebackDone chip va status) s ∧
    ∀ full, Delivers s (.migrationComplete chip va data full) s) ∧
  (∀ n base f slot (status : Nat) data, pageOp s va.toNat = some (chip, n, .fill base f slot) → f ≠ 0 →
    (status ≠ 0 → ∃ t, Delivers s (.pageFillComplete chip va status data) t ∧ t.slots = s.slots ∧
      (sqeAt t chip).ops.get none n = none ∧
      ∃ c, told 1 c true va.toNat (4 + status % 2 ^ 15 * 2 ^ 17) ∈ t.host.waiting) ∧
    (∀ r leaf pa, status = 0 → regionOf s va.toNat = some r → keptLeaf s chip va.toNat = some (leaf, pa) → data.length = 65536 →
        OwnFrames s → f + 65536 ≤ dramTop → r.ring + 32 * max r.size 1 ≤ dramTop → ringAt r (slot.getD 0) + 32 ≤ dramTop →
        r.at_ + 64 ≤ dramTop → (∀ x, Within f 65536 x → ¬ Within pa 8 x ∧ ¬ Within r.ring (32 * r.size) x ∧
          ¬ Within (ringAt r (slot.getD 0)) 32 x ∧ ¬ Within r.ring 32 x ∧ ¬ Within r.at_ 64 x) →
      ∃ t, Delivers s (.pageFillComplete chip va status data) t ∧ t.slots = s.slots ∧
        (sqeAt t chip).ops.get none n = none ∧ ∀ i, i < 65536 → rdByte t (f + i) = data[i]?.getD 0)) ∧
  (∀ n base v slot leaf entry (status : Nat), pageOp s va.toNat = some (chip, n, .evict base v slot leaf entry true) →
    ∃ t, Delivers s (.evictionWritebackDone chip va status) t ∧ t.slots = s.slots ∧
      Sent t (.storageFaultAccept chip (BitVec.ofNat 64 v)) ∧ (sqeAt t chip).ops.get none n = none ∧
      (status ≠ 0 → ∃ c, told 1 c false va.toNat (4 + status % 2 ^ 15 * 2 ^ 17) ∈ t.host.waiting)) ∧
  (∀ n base bits_ f ctx data full leaf pa, pageOp s va.toNat = some (chip, n, .migrate base bits_ f ctx true) →
      keptLeaf s chip base = some (leaf, pa) → data.length = 2 ^ bits_ → OwnFrames s → f + 2 ^ bits_ ≤ dramTop →
      pa + 8 ≤ dramTop →
      (∀ x, Within f (2 ^ bits_) x → ¬ Within pa 8 x) →
    ∃ t, Delivers s (.migrationComplete chip va data full) t ∧ t.slots = s.slots ∧
      (sqeAt t chip).ops.get none n = none ∧ Out.release (pteDevice leaf) (pteRemoteFrame leaf) ∈ t.out ∧
      (∀ i, i < 2 ^ bits_ → rdByte t (f + i) = data[i]?.getD 0) ∧ rd64 t pa = memoryLeaf leaf f true) ∧
  (∀ dev frame, Delivers s (.releaseNotice dev frame)
    (hostEvent (told 8 0 false frame (frameColour frame)) s)) ∧
  (∀ n (x : Transfer) data (status : Nat), status < 16 → status ≠ 1 → (sqeAt s chip).ops.get none n = some (.transfer x) →
      x.read = false → x.pins = [] → x.sent = true → x.ended = false →
    (x.bar = 0 → x.orphan = false →
      ∃ t, Delivers s (.stoTransferComplete chip n status data) t ∧ t.slots = s.slots ∧
        (sqeAt t chip).ops.get none n = some (.transfer { x with ended := true, waiters := [], result := some status }) ∧
        (∀ w ∈ x.waiters, Sent t (.wakeAtSlot w (hwMsg 5 (fld x.desc 0 56)))) ∧ ∀ y, rdByte t y = rdByte s y) ∧
    (x.bar ≠ 0 →
      ∃ t, Delivers s (.stoTransferComplete chip n status data) t ∧ t.slots = s.slots ∧
        (sqeAt t chip).ops.get none n = some (.transfer { x with ended := true }) ∧
        Sent t (.barrierBytes (.transfer chip n) (tellerCore chip) x.th.ctx x.priv x.bar x.len status) ∧
        ∀ y, rdByte t y = rdByte s y))

/-- R125, R126, R322, R425, R426: csr.rd reads a system register, csr.wr, csr.set and csr.clr write its writable bits, at
the levels of its row, FMTP and SCLP of a task in its task-link entry too; a register the table lacks raises ILLINST and a
level too low PRIVINST. -/
def Obligations.SystemRegisters : Prop :=
  ∀ s th, Canonical s → Executing s th →
  (∀ (d : BitVec 5) (n : BitVec 12),
    (sysReg s th n.toNat = none →
      ∃ t, exec (.csrRd d n) s = .next t ∧ Raises s t th (trapOf s th .illinst 1 0)) ∧
    (∀ lr lw v, sysReg s th n.toNat = some (lr, lw, v) →
      (privOf th < lr → ∃ t, exec (.csrRd d n) s = .next t ∧ Raises s t th (trapOf s th .privinst 0 0)) ∧
      (lr ≤ privOf th → Writable th d.toNat →
        ∃ t th', exec (.csrRd d n) s = .next t ∧ Becomes s t th' ∧ RegsAfter [] d.toNat v th th' ∧ Quiet s t ∧
          { th' with regs := th.regs } = passed s { th with seenEnergy := if n = 0x006 then v.toNat else th.seenEnergy }))) ∧
  (∀ i n a f, csrRow i = some (n, a, f) →
    (sysReg s th n.toNat = none → ∃ t, exec i s = .next t ∧ Raises s t th (trapOf s th .illinst 1 0)) ∧
    (∀ lr old, sysReg s th n.toNat = some (lr, none, old) →
      ∃ t, exec i s = .next t ∧ Raises s t th (trapOf s th .privinst 0 0)) ∧
    (∀ lr lw old, sysReg s th n.toNat = some (lr, some lw, old) →
      (privOf th < lw → ∃ t, exec i s = .next t ∧ Raises s t th (trapOf s th .privinst 0 0)) ∧
      (lw ≤ privOf th → ReadyNow th (srcP a) →
        let v := f old (val th a)
        (∀ T, threadReg n.toNat v th = some T → th.task = 0 ∨ (n ≠ 0x002 ∧ n ≠ 0x003) →
          ∃ t, exec i s = .next t ∧ Becomes s t (passed s T) ∧ Quiet s t) ∧
        (∀ T lp, threadReg n.toNat v th = some T → th.task ≠ 0 → n = 0x002 ∨ n = 0x003 →
            VaultAt s th.ctx (taskLink s th.ctx th.tid) 32 lp →
          ∃ t, exec i s = .next t ∧ Becomes s t (passed s T) ∧
            StoresList s t lp (wordsBytes [th.task, T.fmtp, T.sclp, 0])) ∧
        (∀ c, contextReg n.toNat v (ctxAt s th.ctx) = some c → ∃ t, exec i s = .next t ∧ Becomes s t (passed s th) ∧
          { ctxAt t th.ctx with energyPj := c.energyPj } = c ∧ Quiet s { t with ctxs := s.ctxs } ∧
          ∀ m, m ≠ th.ctx → ctxAt t m = ctxAt s m) ∧
        (n = 0xC04 → ∃ t, exec i s = .next t ∧ Becomes s t (passed s th) ∧ t.tvecm = v ∧ Quiet s { t with tvecm := s.tvecm }) ∧
        (n = 0x001 →
          let w := setFld (bitsFrom th.status v 0xEC) 4 1 0
          ∃ t, exec i s = .next t ∧
            Becomes s t (passed s { th with status := w, binds := if fld w 3 1 = 1 then th.binds else noBinds }) ∧
            (∀ p, p ≠ s.cur → slotAt t p = slotAt s p) ∧ (fld w 3 1 = 1 → Quiet s t) ∧ ∀ x, rdByte t x = rdByte s x))))

/-- R152, R411, R427, R429, R476, R477: sys.call and brk take their exceptions, mark traces its word or counts what finds no
room, repart changes the core's slots, its core taking no work meanwhile, gang.ack reads and answers a switch stamp, and the
block instructions move on one micro-step a pass. -/
def Obligations.SystemInstructions : Prop :=
  ∀ s th (d a b : BitVec 5) (ma : BitVec 2), Canonical s → Executing s th → ReadyNow th (src a ma) →
  let core := s.cur / 16
  let x := val th a
  (∃ t, exec (.sysCall a ma) s = .next t ∧
    Trapping s t th [src a ma] { cause := .syscall, info := x, addr := 0, restart := th.pc + 4, word := faultWord s, cycle := s.cycle }) ∧
  (∃ t, exec (.brk a ma) s = .next t ∧ Raises s t th (trapOf s th .brkpt 0 x)) ∧
  (fld (ctxAt s th.ctx).trace.w1 1 1 = 0 → ∃ t, exec (.mark a ma) s = .next t ∧ ChangesThread s t th [src a ma] id) ∧
  (fld (ctxAt s th.ctx).trace.w1 1 1 = 1 → 256 ≤ ((ctxAt s th.ctx).trace.queues.get [] (chipOfCore core)).length →
    ∃ t th', exec (.mark a ma) s = .next t ∧ Becomes s t th' ∧ RegsRead [src a ma] th th' ∧
      { th' with regs := th.regs } = passed s th ∧ KeepsBytes s t ∧
      (ctxAt t th.ctx).trace = { (ctxAt s th.ctx).trace with dropped := (ctxAt s th.ctx).trace.dropped + 1,
                                                             gap := (ctxAt s th.ctx).trace.gap + 1 }) ∧
  (∀ chip, chip = chipOfCore core → fld (ctxAt s th.ctx).trace.w1 1 1 = 1 →
      ((ctxAt s th.ctx).trace.queues.get [] chip).length < 256 →
    ∃ t th', exec (.mark a ma) s = .next t ∧ Becomes s t th' ∧ RegsRead [src a ma] th th' ∧
      { th' with regs := th.regs } = passed s th ∧ Sent t (.traceRecordWrite th.ctx chip) ∧
      (ctxAt t th.ctx).trace.queues.get [] chip = (ctxAt s th.ctx).trace.queues.get [] chip ++
        [[BitVec.ofNat 64 (1 + s.cur % 16 * 2 ^ 8 + core * 2 ^ 12 + th.ctx * 2 ^ 24 + th.tid * 2 ^ 36),
          th.pc.zeroExtend 64, BitVec.ofNat 64 (tick s), x]]) ∧
  (privOf th = 0 →
    (∃ t, exec (.repart a ma) s = .next t ∧ Raises s t th (trapOf s th .privinst 0 0)) ∧
    (∃ t, exec (.gangAck d a ma) s = .next t ∧ Raises s t th (trapOf s th .privinst 0 0))) ∧
  (1 ≤ privOf th → x.toNat ≠ 4 → x.toNat ≠ 8 → x.toNat ≠ 16 →
    ∃ t, exec (.repart a ma) s = .next t ∧ Raises s t th (trapOf s th .badopnd x 0)) ∧
  (1 ≤ privOf th → (x.toNat = 4 ∨ x.toNat = 8 ∨ x.toNat = 16) → s.cur % 16 = 0 →
      (∀ i, i < 16 → 16 * core + i ≠ s.cur → (slotAt s (16 * core + i)).occ = .vacant) → (coreAt s core).arrivals = 0 →
      (coreAt s core).fwd = [] → sqOf s core (named_ s th) = [] → engineBusy s th = false →
    ∃ t th', exec (.repart a ma) s = .next t ∧ Becomes s t th' ∧ RegsRead [src a ma] th th' ∧
      (∀ r, r < 32 → th'.vecs[r]? = if r < 128 / x.toNat then some 0 else th.vecs[r]?) ∧
      { th' with regs := th.regs, vecs := th.vecs } = passed s { th with status := setFld th.status 4 1 0 } ∧
      (coreAt t core).part = x.toNat ∧ (coreAt t core).closed = decide (s.cycle < th.issued + 8) ∧
      Only s t (fun old new => { new with part := old.part, closed := old.closed }) (fun _ new => new) ∧ ∀ y, rdByte t y = rdByte s y) ∧
  (1 ≤ privOf th → 3 ≤ x.toNat → Writable th d.toNat →
    ∃ t, exec (.gangAck d a ma) s = .next t ∧ Raises s t th (trapOf s th .badopnd x 0)) ∧
  (1 ≤ privOf th → x.toNat < 3 → Writable th d.toNat → (x = 0 ∨ switchAt s th.ctx = 0 ∨
      ((ctxAt s th.ctx).gangHost = false ∧ (switchAt s th.ctx < tick s + 10000 ∨
        x = 2 ∧ ((ctxAt s th.ctx).deferred = true ∨ fld (ctxWord s th.ctx 0xA8) 32 32 = 0)))) →
    ∃ t, exec (.gangAck d a ma) s = .next t ∧
      WritesReg s t th [src a ma] d.toNat (BitVec.ofNat 64 (switchAt s th.ctx))) ∧
  (1 ≤ privOf th → x = 1 ∨ x = 2 → Writable th d.toNat → (ctxAt s th.ctx).gangHost = true → switchAt s th.ctx ≠ 0 →
    ∃ t th', exec (.gangAck d a ma) s = .next t ∧ Becomes s t th' ∧
      RegsAfter [src a ma] d.toNat (BitVec.ofNat 64 (switchAt s th.ctx)) th th' ∧ { th' with regs := th.regs } = passed s th ∧
      t.host.waiting = s.host.waiting ++ [{ type := 5, ctx := th.ctx, reply := false, addr := 0, info := x }] ∧
      KeepsBytes s t) ∧
  (∀ stamp, 1 ≤ privOf th → Writable th d.toNat → (ctxAt s th.ctx).gangHost = false → switchAt s th.ctx ≠ 0 →
      tick s + 10000 ≤ switchAt s th.ctx → DeviceAt s (ctxField s th.ctx 0xE8) 8 → stamp < 2 ^ 64 →
      ((x = 1 ∧ stamp = tick s + 10000) ∨ (x = 2 ∧ (ctxAt s th.ctx).deferred = false ∧ fld (ctxWord s th.ctx 0xA8) 32 32 ≠ 0 ∧
        stamp = switchAt s th.ctx + fld (ctxWord s th.ctx 0xA8) 32 32)) →
    ∃ t th', exec (.gangAck d a ma) s = .next t ∧ Becomes s t th' ∧
      RegsAfter [src a ma] d.toNat (BitVec.ofNat 64 stamp) th th' ∧ { th' with regs := th.regs } = passed s th ∧
      StoresList s t (ctxField s th.ctx 0xE8) (leBytes 8 stamp) ∧
      (s.time8 + (8 * stamp - s.time8), Event.switchStamp th.ctx) ∈ t.timers) ∧
  (th.acqOut = 0 → ma = 0 → ReadyNow th (srcP d) → ReadyNow th (srcP b) → d ≠ a → d ≠ b → a ≠ b →
    let n := (val th b).toNat
    let vd := val th d
    let wide (va : Word) (near : Bool) : Bool :=
      decide (8 ≤ n ∧ vd.toNat % 8 = 0 ∧ va.toNat % 8 = 0) && (near || decide (vd.toNat + 8 ≤ x.toNat ∨ x.toNat + 8 ≤ vd.toNat))
    let moves (th' : Thread) (k : Nat) (both : Bool) : Prop := ∀ r, r < 28 → regOf th' r =
      if r = b.toNat then { st := .full, val := BitVec.ofNat 64 (n - k) }
      else if r = d.toNat then { st := .full, val := vd + BitVec.ofNat 64 k }
      else if r = a.toNat ∧ both = true then { st := .full, val := x + BitVec.ofNat 64 k } else regOf th r
    (n = 0 → ∀ i, i = .mvblk d a b ∨ i = .stblk d a b ∨ i = .cmpblk d a b →
      ∃ t, exec i s = .next t ∧ ChangesThread s t th [] id) ∧
    (∀ pd, n ≠ 0 →
      (∀ pa k, k = (if wide x false = true then 8 else 1) → PlainLocal s .read x k pa → PlainLocal s .write vd k pd →
        ∃ t th', exec (.mvblk d a b) s = .next t ∧ Becomes s t th' ∧ moves th' k true ∧
          { th' with regs := th.regs } = stepped s th (n == k) ∧ StoresHere s t pd k (rdNat s pa k)) ∧
      (∀ k, k = (if wide 0 true = true then 8 else 1) → PlainLocal s .write vd k pd →
        ∃ t th', exec (.stblk d a b) s = .next t ∧ Becomes s t th' ∧ moves th' k false ∧
          { th' with regs := th.regs } = stepped s th (n == k) ∧
          ∀ y, y < peerBase → (Within pd k y → rdByte t y = x.setWidth 8) ∧ (¬ Within pd k y → rdByte t y = rdByte s y)) ∧
      (∀ pa k, k = (if wide x true = true then 8 else 1) → PlainLocal s .read x k pa → PlainLocal s .read vd k pd →
        (rdByte s pa ≠ rdByte s pd →
          ∃ t, exec (.cmpblk d a b) s = .next t ∧ Becomes s t (passed s th) ∧ Quiet s t) ∧
        (rdByte s pa = rdByte s pd →
          let k' := if rdNat s pa k = rdNat s pd k then k else 1
          ∃ t th', exec (.cmpblk d a b) s = .next t ∧ Becomes s t th' ∧ moves th' k' true ∧ Quiet s t ∧
            { th' with regs := th.regs } = stepped s th (n == k')))))

/-- R45, R417 to R424, R428: a word that is no instruction raises ILLINST; a raised fault is delivered into its slot
record and fault record and starts its handler; an event waits for a resident context or is written into the ring;
sys.ret ends a record and resumes its thread. -/
def Obligations.FaultsDeliveredAndReturned : Prop :=
  (∀ s th (w : BitVec 32), Canonical s → HeldIn s s.cur th →
    ∃ t, Delivers s (.illinst w) t ∧ Trapping s t th []
      { cause := .illinst, info := BitVec.ofNat 64 (illegalInfo w (128 / (coreAt s (s.cur / 16)).part)), addr := 0,
        restart := th.pc, word := w.zeroExtend 64, cycle := s.cycle }) ∧
  (∀ s p th tr, Canonical s → HeldIn s p th → th.form = .trapping tr →
    (drained s p th = false →
      ∃ t, Delivers s (.trapDelivery p) t ∧ ⟨.trapDelivery p, none⟩ ∈ t.held ∧ (∀ q, q ≠ p → slotAt t q = slotAt s q) ∧
        ∀ x, rdByte t x = rdByte s x) ∧
    (drained s p th = true → faultBefore s p tr = true →
      Delivers s (.trapDelivery p) { s with held := s.held ++ [⟨.trapDelivery p, none⟩] }) ∧
    (∀ blk pa bp, drained s p th = true → faultBefore s p tr = false →
      let machine : Bool := privOf th == 3 || (tr.cause == .syscall && privOf th != 0)
      let block := if machine = true then s.tvecm else (ctxAt s th.ctx).tvec
      let core := p / 16
      let n := (coreAt s core).part
      let base := spadPa core (0x3C000 + 512 * (p % 16))
      trapBlock s th.ctx block = some blk → pageComing s block.toNat = false →
      pageComing s (blk.frec + 64 * th.tid) = false → recordWritable s th.ctx machine (blk.frec + 64 * th.tid) = true → VaultAt s th.ctx block.toNat 64 bp →
      VaultAt s th.ctx (blk.frec + 64 * th.tid) 64 pa → fld (rd64 s (pa + 56)) 0 1 = 0 → p < 49152 →
      n = 4 ∨ n = 8 ∨ n = 16 →
      Spread s th.ctx [(base, 512), (spadPa core (0x3E000 + 8192 / n * (p % 16)), 64 * (128 / n)), (pa, 64), (bp, 64)] →
      let dw0 := BitVec.ofNat 64 (tr.cause.code + (if tr.producer.isSome = true then 2 ^ 8 else 0) + privOf th * 2 ^ 10 +
        p * 2 ^ 16 + th.tid * 2 ^ 32 + lcoreOf s core * 2 ^ 52)
      ∃ t, Delivers s (.trapDelivery p) t ∧ threadAt t p = some { th with form := .trapped, pc := tr.restart } ∧
        (∀ q, q ≠ p → slotAt t q = slotAt s q) ∧
        rdBytes t pa 64 = wordsBytes [dw0, tr.restart.zeroExtend 64, tr.word,
          (match tr.producer with | some pc => pc.zeroExtend 64 | none => 0), tr.addr, tr.info, BitVec.ofNat 64 (tick s), 1] ∧
        (∀ r, r < 28 → rd64 t (base + 8 * r) = val th (BitVec.ofNat 5 r)) ∧
        rd64 t (base + 0xE8) = tr.restart.zeroExtend 64 ∧ fld (rd64 t (base + 0x118)) 0 3 = 5 ∧
        Sent t (.handlerStart { ctx := th.ctx, core := core, machine := machine, pc := BitVec.ofNat 48 blk.handler,
                                stackBase := BitVec.ofNat 64 blk.hstk, stackSize := BitVec.ofNat 64 blk.hsize,
                                recAddr := BitVec.ofNat 64 (blk.frec + 64 * th.tid), dw0 := dw0,
                                restart := tr.restart.zeroExtend 64, info := tr.info, addr := tr.addr }))) ∧
  (∀ s (h : Handler), Canonical s → s.now = none → (ctxAt s h.ctx).st = .resident → h.again = false →
      (coreAt s h.core).hwait = [] → (∀ f ∈ s.agenda ++ s.held, f.chan ≠ some (handlerChan h.core)) →
    (∀ tid p rest, firstTid s h.ctx = some tid → vacantIn s h.core = p :: rest → (coreAt s h.core).fenced = false →
        (cellAt s (h.core / 4)).fenced = false →
      ∃ t tc, Delivers s (.handlerStart h) t ∧ threadAt t p = some tc ∧ tc.tid = tid ∧ tc.ctx = h.ctx ∧ tc.pc = h.pc ∧
        tc.form = .ready ∧ privOf tc = (if h.machine = true then 3 else 1) ∧ prioOf tc = 3 ∧ tc.fstat = 0 ∧
        regOf tc 2 = { st := .full, val := h.stackBase + BitVec.ofNat 64 ((tid + 1) * h.stackSize.toNat) } ∧
        regOf tc 3 = { st := .full, val := h.recAddr } ∧ regOf tc 4 = { st := .full, val := h.dw0 } ∧
        regOf tc 5 = { st := .full, val := 0 } ∧ (∀ g, g < 28 → ¬ (2 ≤ g ∧ g ≤ 5) → (regOf tc g).st = .empty) ∧
        tc.epc = h.restart ∧ tc.ecause = BitVec.ofNat 64 (fld h.dw0 0 8) ∧ tc.einfo = h.info ∧ tc.eaddr = h.addr ∧
        ∀ q, q ≠ p → slotAt t q = slotAt s q) ∧
    (∀ tid, firstTid s h.ctx = some tid → vacantIn s h.core = [] → h.machine = false →
      ∃ t, Delivers s (.handlerStart h) t ∧ t.slots = s.slots ∧
        poolOf t h.ctx h.core 3 = poolOf s h.ctx h.core 3 ++ [⟨tid, h.core, tick s⟩]) ∧
    (∀ tid, firstTid s h.ctx = some tid → vacantIn s h.core = [] → h.machine = true →
      ∃ t, Delivers s (.handlerStart h) t ∧ t.slots = s.slots ∧ { h with wait := 0 } ∈ (coreAt t h.core).hwait) ∧
    (firstTid s h.ctx = none → h.wait = 0 →
      ∃ t, Delivers s (.handlerStart h) t ∧ t.slots = s.slots ∧ ⟨.handlerStart { h with wait := 1 }, some (handlerChan h.core)⟩ ∈ t.held ∧
        ∃ d, t.timers = s.timers ++ [(s.time8 + d, .handlerStartTimeout { h with wait := 1 })])) ∧
  (∀ s (h : Handler), Canonical s → s.now = none →
    ((∀ f ∈ s.agenda ++ s.held, f.ev ≠ .handlerStart h) → Delivers s (.handlerStartTimeout h) s) ∧
    ((∃ f ∈ s.agenda ++ s.held, f.ev = .handlerStart h) →
      ∃ t, Delivers s (.handlerStartTimeout h) t ∧ t.slots = s.slots ∧ t.ras.seq = s.ras.seq + 1 ∧
        t.host.waiting = s.host.waiting ++ [{ type := 9, ctx := h.ctx, reply := false,
                                              addr := BitVec.ofNat 64 (fld h.dw0 32 20), info := 0 }])) ∧
  (∀ s ctx (e : CtxEvent), Canonical s → s.now = none →
    ((ctxAt s ctx).st = .free ∨ (ctxAt s ctx).st = .created ∨ (ctxAt s ctx).st = .killing →
      Delivers s (.eventRingWrite ctx e) s) ∧
    ((ctxAt s ctx).st = .saved → ∃ t, Delivers s (.eventRingWrite ctx e) t ∧ t.slots = s.slots ∧
      (ctxAt t ctx).evwait = (ctxAt s ctx).evwait ++ [e] ∧ ∀ x, rdByte t x = rdByte s x) ∧
    (∀ blk pa hp, (ctxAt s ctx).st = .resident → (∀ x ∈ (ctxAt s ctx).evwait, x.unit ≠ e.unit) →
      let block := (ctxAt s ctx).tvec
      let rec_ := blk.evbase + 64 * (blk.evhead % max 1 blk.evcount)
      let core := eventCore s ctx e
      trapBlock s ctx block = some blk → recordWritable s ctx false rec_ = true → VaultAt s ctx rec_ 64 pa → VaultAt s ctx (block.toNat + 48) 8 hp →
      Spread s ctx [(pa, 64), (hp, 8)] →
      (fld (rd64 s (pa + 56)) 0 1 = 1 → ∃ t, Delivers s (.eventRingWrite ctx e) t ∧ t.slots = s.slots ∧
        (ctxAt t ctx).evwait = (ctxAt s ctx).evwait ++ [e] ∧ ∀ x, rdByte t x = rdByte s x) ∧
      (fld (rd64 s (pa + 56)) 0 1 = 0 →
        let dw0 := BitVec.ofNat 64 (e.cause.code + 2 ^ 9 + 0xFFFF * 2 ^ 16 + lcoreOf s core * 2 ^ 52)
        ∃ t, Delivers s (.eventRingWrite ctx e) t ∧ t.slots = s.slots ∧
          rdBytes t pa 64 = wordsBytes [dw0, 0, 0, 0, e.addr, e.info, BitVec.ofNat 64 (tick s), 1] ∧
          rd64 t hp = BitVec.ofNat 64 ((blk.evhead + 1) % max 1 blk.evcount) ∧ KeepsOutside s t [(pa, 64), (hp, 8)] ∧
          Sent t (.handlerStart { ctx := ctx, core := core, machine := false, pc := BitVec.ofNat 48 blk.handler,
                                  stackBase := BitVec.ofNat 64 blk.hstk, stackSize := BitVec.ofNat 64 blk.hsize,
                                  recAddr := BitVec.ofNat 64 rec_, dw0 := dw0, restart := 0, info := e.info,
                                  addr := e.addr })))) ∧
  (∀ s th (a b : BitVec 5) (ma mb : BitVec 2), Canonical s → Executing s th → th.acqOut = 0 → ReadyNow th (src a ma) →
      ReadyNow th (src b mb) →
    (privOf th = 0 → ∃ t, exec (.sysRet a b ma mb) s = .next t ∧ Raises s t th (trapOf s th .privinst 0 0)) ∧
    (trapBlock s th.ctx (if privOf th = 3 then s.tvecm else (ctxAt s th.ctx).tvec) = none → 1 ≤ privOf th →
      ∃ t, exec (.sysRet a b ma mb) s = .next t ∧ Raises s t th (trapOf s th .badopnd (val th a) 0)) ∧
    (∀ blk pa e p x, 1 ≤ privOf th →
        trapBlock s th.ctx (if privOf th = 3 then s.tvecm else (ctxAt s th.ctx).tvec) = some blk →
        recordOf s th.ctx blk (val th a).toNat = true → val th b = 0 → BlockHere s th (val th a) 2 pa →
        releasedAt s s.cur th = true → AtLocalWord s .write true (val th a + 56) 8 e → e.pa = pa + 56 →
        routeFenced s (s.cur / 16) (homeUnit (homeOf e.va e.pa)) = false →
        lineQueued s (s.cur / 16) (e.pa / 32) = false → stagedSlot s (spadCore e.pa) ((e.pa - spadBase) % spadSize) 8 = none → fld (rd64 s (pa + 56)) 0 1 = 1 →
        fld (rd64 s pa) 10 2 ≤ privOf th → fld (rd64 s pa) 9 1 = 0 →
        p = 16 * (physCore s th.ctx (fld (rd64 s pa) 52 12)).getD 0 + fld (rd64 s pa) 16 4 →
        threadAt s p = some x → x.form = .trapped → x.ctx = th.ctx →
      let base := spadPa (p / 16) (0x3C000 + 512 * (p % 16))
      fld (rd64 s (base + 0x118)) 0 3 = 5 → fld (rd64 s (base + 0xF8)) 0 2 ≤ privOf th → slotReserved s base = false →
      (pa + 64 ≤ base ∨ base + 512 ≤ pa) →
      ∃ t th' y, exec (.sysRet a b ma mb) s = .next t ∧ Becomes s t th' ∧ RegsRead [src a ma, src b mb] th th' ∧
        { th' with regs := th.regs } = passed s { th with floor := s.time8 } ∧
        threadAt t p = some y ∧ y.form = .ready ∧ y.pc = BitVec.ofNat 48 (fld (rd64 s (base + 0xE8)) 0 48) ∧
        y.floor = s.time8 ∧ y.tid = x.tid ∧ rd64 t (pa + 56) = 0))

/-- R384 to R393: text of a code object is fetched and expanded into the core's cache, from the form its slice has checked
where it holds it (R28, R386); a doorbell has a launch checked; a launch out of rule ends with its status in KSTAT, one in
rule starts its threads; a kernel with nothing left retires. -/
def Obligations.KernelEvents : Prop :=
  (∀ s th pc, Canonical s → HeldIn s s.cur th → th.pc = pc → th.form = .inFlight .retry →
      textWord s (s.cur / 16) pc (privOf th) = none →
    ((∀ o, codeObjOf s th.ctx (privOf th) = some o → pc.toNat < o.textBase ∨ o.textBase + 4096 * o.nchunk ≤ pc.toNat) →
      ∃ t, Delivers s (.textFetch (nameAt s.cur th) pc) t ∧
        Becomes s t
          { th with form := .trapping (trapOf s th .misfetch 1 (pc.zeroExtend 64)), noCmp := false, stay := false, inBlk := false, behind := [] } ∧
        ∀ x, rdByte t x = rdByte s x) ∧
    (∀ o ent latt leaf pa form ws, codeObjOf s th.ctx (privOf th) = some o → o.textBase ≤ pc.toNat →
      pc.toNat < o.textBase + 4096 * o.nchunk →
      let c := (pc.toNat - o.textBase) / 4096
      let line := (pc.toNat - o.textBase) % 4096 / 32
      let sva := dwOf ent 0
      let e := (lattOf form)[line]?.getD 0
      let units := min 128 ((16384 - (sva.toNat % 16384 + 256)) / 32)
      let held := (sliceAt s (homeOf sva pa)).chunks.find? (fun x => x.pa == pa && x.va == sva.toNat && x.leaf == leaf)
      let reads (va : Word) (n : Nat) (bs : List Byte) : Prop := DevReads s th.ctx (privOf th) .exec va n 1 bs
      leaf = (o.leaves.drop (32 * c)).take 32 →
      DevReads s th.ctx 3 .read (o.chunkTab + BitVec.ofNat 64 (8 * c)) 8 1 ent → fld sva 0 6 = 0 → fld sva 56 8 = 0 →
      (∃ b, reads sva 1 b) → check s 0 th.ctx (privOf th) sva 1 .exec false = .ok pa →
      ((held = some ⟨pa, sva.toNat, leaf, form⟩ ∧ ∀ p ∈ linePieces sva line e, ∃ bs, reads p.1 p.2 bs) ∨
        (held = none ∧ lattFault ((lattOf latt)[line]?.getD 0) units = none ∧ reads sva 256 latt ∧
          ∃ area, form = latt ++ area ∧ contentHash ((0 : Byte) :: form) = leaf ∧
            reads (sva + 256) (32 * min units (formUnits (lattOf latt))) area)) →
      lattFault e ((form.length - 256) / 32) = none → expandLine (form.drop 256) e = some ws → ws ≠ [] →
      ∃ t, Delivers s (.textFetch (nameAt s.cur th) pc) t ∧ t.slots = s.slots ∧
        (coreAt t (s.cur / 16)).itext.get [] (itextKey pc (privOf th)) = ws ∧ KeepsBytes s t)) ∧
  (∀ s ctx desc, Canonical s → s.now = none → (∀ f ∈ s.agenda ++ s.held, f.chan ≠ some (mailChan ctx)) →
    ((ctxAt s ctx).st = .resident → (ctxAt s ctx).kernel.st = .none →
      ∃ t, Delivers s (.launchDoorbell ctx desc) t ∧ (ctxAt t ctx).kernel.st = .checking ∧
        (ctxAt t ctx).kernel.desc = desc ∧ Sent t (.launchChecksDone ctx) ∧ t.slots = s.slots ∧
        ∀ x, rdByte t x = rdByte s x) ∧
    ((ctxAt s ctx).st = .free ∨ (ctxAt s ctx).st = .created ∨ (ctxAt s ctx).st = .killing →
      Delivers s (.launchDoorbell ctx desc) s) ∧
    ((ctxAt s ctx).st = .stopping ∨ (ctxAt s ctx).st = .saved ∨ (ctxAt s ctx).st = .restoring →
      Delivers s (.launchDoorbell ctx desc) { s with held := s.held ++ [⟨.launchDoorbell ctx desc, some (mailChan ctx)⟩] })) ∧
  (∀ s ctx, Canonical s → s.now = none →
    ((ctxAt s ctx).kernel.st ≠ .checking → Delivers s (.launchChecksDone ctx) s) ∧
    (∀ d, (ctxAt s ctx).kernel.st = .checking → DevReads s ctx 1 .read (ctxAt s ctx).kernel.desc 64 64 d →
      (∀ pa, fld (fmode s ctx) 6 58 ≠ 0 → VaultAt s ctx (dwOf d 1).toNat 64 pa →
        ∃ t, Delivers s (.launchChecksDone ctx) t ∧ (ctxAt t ctx).kernel.st = .none ∧ t.slots = s.slots ∧
          StoresList s t pa (wordsBytes [BitVec.ofNat 64 (2 * 2 ^ 4), 0, BitVec.ofNat 64 (tick s), 0, 0, 0, 0, 0])) ∧
      (∀ p, fld (fmode s ctx) 6 58 = 0 → OwnFrames s → (∃ t, readLaunch ctx (ctxAt s ctx).kernel.desc s = .got p t) →
        (∀ pa n, launchStatus s ctx p = n → n ≠ 0 → VaultAt s ctx (dwOf d 1).toNat 64 pa →
          ∃ t, Delivers s (.launchChecksDone ctx) t ∧ (ctxAt t ctx).kernel.st = .none ∧ t.slots = s.slots ∧
            StoresList s t pa (wordsBytes [BitVec.ofNat 64 (n * 2 ^ 4), 0, BitVec.ofNat 64 (tick s), 0, 0, 0, 0, 0])) ∧
        (launchStatus s ctx p = 0 → allTidsFree s ctx = true → hostWriting s = false →
            (∀ x ∈ (ctxAt s ctx).cells, fld (cellAt s x).test 8 1 = 0) → (ctxAt s ctx).cells.Nodup →
          let k := dwOf p.kcb
          ∃ t, Delivers s (.launchChecksDone ctx) t ∧ (ctxAt t ctx).kernel.st = .running ∧
            (ctxAt t ctx).kernel.obj = some (objOf p.kcb p.leaves) ∧ (ctxAt t ctx).tidNext = p.cores * p.starts ∧
            (ctxAt t ctx).freeTids = [] ∧
            ∀ n i core, n < p.cores → i < p.starts → physCore s ctx n = some core →
              (coreAt t core).part = p.slots ∧
              ∃ tc, threadAt t (16 * core + i) = some tc ∧ tc.tid = p.starts * n + i ∧ tc.ctx = ctx ∧
                tc.pc = BitVec.ofNat 48 p.entry ∧ tc.form = .ready ∧ privOf tc = 0 ∧ prioOf tc = fld (k 0) 17 2 ∧
                (regOf tc 2).st = .full ∧
                (regOf tc 2).val = BitVec.ofNat 64 ((k 14).toNat + (p.starts * n + i + 1) * (k 15).toNat) ∧
                regOf tc 3 = { st := .full, val := k 11 } ∧
                regOf tc 4 = { st := .full, val := BitVec.ofNat 64 (16 * n + i) } ∧
                (regOf tc 5).st = .full ∧ ∀ g, g < 28 → ¬ (2 ≤ g ∧ g ≤ 5) → (regOf tc g).st = .empty)))) ∧
  (∀ s ctx, Canonical s → s.now = none →
    ((ctxAt s ctx).st ≠ .resident ∨ ((ctxAt s ctx).kernel.st ≠ .retiring ∧
        ((ctxAt s ctx).kernel.st ≠ .running ∨ retireReady s ctx = false)) → Delivers s (.retire ctx) s) ∧
    ((ctxAt s ctx).st = .resident → (ctxAt s ctx).kernel.st = .running → retireReady s ctx = true →
        (∀ k ∈ partCores s ctx, (coreAt s k).sq = []) → (∀ d ∈ s.dir, d.2.invs = []) →
        (∀ x ∈ s.slices, ∀ e ∈ x.2.tiles, e.ctx ≠ ctx) →
      ∃ t, Delivers s (.retire ctx) t ∧ (ctxAt t ctx).kernel.st = .none ∧ t.slots = s.slots ∧
        t.host.waiting = s.host.waiting ++ [{ type := 10, ctx := ctx, reply := false, addr := (ctxAt s ctx).kernel.kstat,
                                              info := 0 }]))

/-- R395 to R410: the commands of the host create, place, kill and free a context and are answered; a switch is
announced, stops the context's cores, saves it and releases its cells; a restore makes it resident. -/
def Obligations.ContextEvents : Prop :=
  ∀ s ctx, Canonical s → s.now = none →
  let c := ctxAt s ctx
  let due (t : State) (d : Nat) (e : Event) : Prop := (s.time8 + d, e) ∈ t.timers
  let answered (e : Event) (code status : Nat) : Prop := code ∈ c.cmds → DeviceAt s (ctxField s ctx 0xF8) 8 →
    ∃ t, Delivers s e t ∧ t.slots = s.slots ∧ (ctxAt t ctx).st = c.st ∧ (ctxAt t ctx).cmds = c.cmds.erase code ∧
      StoresList s t (ctxField s ctx 0xF8) (leBytes 8 (setFld (setFld (ctxWord s ctx 0xF8) 8 4 status) 15 1 1).toNat)
  ((∀ n ∈ c.cmds, n ≤ 4) → Delivers s (.commandIllegalCode ctx) s) ∧
  (∀ n, c.cmds.find? (fun n => decide (4 < n)) = some n → answered (.commandIllegalCode ctx) n 5) ∧
  (c.st ≠ .free → answered (.create ctx) 1 1) ∧
  (c.st = .free → entryBad s ctx = true → answered (.create ctx) 1 5) ∧
  (∀ o, c.st = .free → entryBad s ctx = false → OwnFrames s → (∃ t, readRuntime ctx s = .got (some o) t) →
    ∃ t, Delivers s (.create ctx) t ∧ t.slots = s.slots ∧
      { ctxAt t ctx with cmds := c.cmds } = { st := .created, cmds := c.cmds, trace := c.trace, rtobj := some o,
                                              parklim := 20000, promote := 100000, feretry := 4, migthr := 1024 }) ∧
  (c.st ≠ .created → c.st ≠ .saved → answered (.place ctx) 2 1) ∧
  (∀ o, c.st = .created → entryBad s ctx = false → OwnFrames s → (∃ t, readRuntime ctx s = .got (some o) t) → 2 ∈ c.cmds →
    (tableCells s ctx = none → ∃ t, Delivers s (.place ctx) t ∧ (ctxAt t ctx).st = .created ∧ t.slots = s.slots ∧
      (ctxAt t ctx).cmds = c.cmds.erase 2) ∧
    (∀ cells, tableCells s ctx = some cells → (∀ x ∈ cells, cellFree s x = true) →
      ∃ t, Delivers s (.place ctx) t ∧ (ctxAt t ctx).st = .restoring ∧ (ctxAt t ctx).cells = cells ∧
        (∀ x ∈ cells, (cellAt t x).owner = some ctx ∧ ∀ i, i < 64 → (slotAt t (64 * x + i)).occ = .vacant) ∧
        due t 464000 (.restoreComplete ctx))) ∧
  (c.st = .created → answered (.kill ctx) 3 0) ∧ (c.st = .free → answered (.kill ctx) 3 1) ∧
  (c.st = .resident → c.kernel.st = .none →
    ∃ t, Delivers s (.kill ctx) t ∧ (ctxAt t ctx).st = .killing ∧ Sent t (.killComplete ctx) ∧ t.slots = s.slots) ∧
  (c.st ≠ .killing → Delivers s (.killComplete ctx) s) ∧
  (c.st = .killing → c.gstep ≠ 2 → c.gstep ≠ 4 →
    ∃ t, Delivers s (.killComplete ctx) t ∧ (ctxAt t ctx).st = .created ∧ (ctxAt t ctx).cells = [] ∧
      (ctxAt t ctx).freeTids = [] ∧ (ctxAt t ctx).pool = []) ∧
  (c.st = .free → answered (.free ctx) 4 0) ∧
  (c.st ≠ .free → c.st ≠ .created → c.st ≠ .saved → answered (.free ctx) 4 1) ∧
  (c.st = .created ∨ c.st = .saved →
    ∃ t, Delivers s (.free ctx) t ∧ (ctxAt t ctx).st = .free ∧ (ctxAt t ctx).rtobj = none ∧ (ctxAt t ctx).cells = []) ∧
  (∀ stamp, c.st ≠ .resident ∨ stamp = 0 → Delivers s (.switchAnnounce ctx stamp) s) ∧
  (∀ stamp, c.st = .resident → stamp ≠ 0 → DeviceAt s (ctxField s ctx 0xE8) 8 →
    let at_ := max stamp.toNat (tick s + 20000)
    ∃ t, Delivers s (.switchAnnounce ctx stamp) t ∧ t.slots = s.slots ∧ (ctxAt t ctx).deferred = false ∧
      StoresList s t (ctxField s ctx 0xE8) (leBytes 8 at_) ∧ due t (8 * at_ - s.time8) (.switchStamp ctx)) ∧
  (c.st = .resident → switchAt s ctx = 0 ∨ tick s < switchAt s ctx → Delivers s (.switchStamp ctx) s) ∧
  (c.st = .resident → switchAt s ctx ≠ 0 → switchAt s ctx ≤ tick s → c.kernel.st = .none ∨ c.kernel.st = .running →
    ∃ t, Delivers s (.switchStamp ctx) t ∧ (ctxAt t ctx).st = .stopping ∧ (ctxAt t ctx).stopAt = s.time8 ∧
      t.slots = s.slots ∧ ⟨.switchStamp ctx, none⟩ ∈ t.held ∧
      ∀ core ∈ partCores s ctx, due t 8000000 (.stopTimeout ctx core)) ∧
  (∀ core, ¬ (c.st = .stopping ∧ c.gstep ≤ 2 ∧ c.stopAt + 8000000 ≤ s.time8 ∧ coreQuiet s core = false) →
    Delivers s (.stopTimeout ctx core) s) ∧
  (∀ core, c.st = .stopping → c.gstep ≤ 2 → c.stopAt + 8000000 ≤ s.time8 → coreQuiet s core = false →
    ∃ t, Delivers s (.stopTimeout ctx core) t ∧ t.ras.seq = s.ras.seq + 1 ∧ t.slots = s.slots) ∧
  (c.st ≠ .stopping → Delivers s (.saveComplete ctx) s) ∧
  (c.st = .stopping → c.killPending = true →
    ∃ t, Delivers s (.saveComplete ctx) t ∧ (ctxAt t ctx).st = .killing ∧ Sent t (.killComplete ctx) ∧ t.slots = s.slots) ∧
  (c.st = .stopping → c.killPending = false → saveHole s ctx = none → (∀ m ∈ c.cells, 16 + m / 48 ∉ s.fencedUnits) →
    ∃ t, Delivers s (.saveComplete ctx) t ∧ (ctxAt t ctx).st = .saved ∧ (ctxAt t ctx).cells = [] ∧
      (ctxAt t ctx).rtobj = c.rtobj ∧ (ctxAt t ctx).kernel = c.kernel ∧ (ctxAt t ctx).freeTids = c.freeTids) ∧
  (c.st ≠ .restoring → Delivers s (.restoreComplete ctx) s) ∧
  (c.st = .restoring → c.gstep = 20 → c.killPending = false → c.evwait = [] →
      (∀ p tid n bs, (slotAt s p).occ ≠ .forPinned tid n bs) →
    ∃ t, Delivers s (.restoreComplete ctx) t ∧ (ctxAt t ctx).st = .resident ∧ (ctxAt t ctx).gstep = 0 ∧ t.slots = s.slots ∧
      ∀ x ∈ c.cells, Sent t (.poolPickup ctx (chipOfCell x)))

/-- R457 to R459, R466, R468, R482: training ends in the width it has reached or fails; corrected symbols are counted; a lane
with too many in a window, or without lock, is lost and narrows its link; below its least width, or after an error past
correction, it is FENCED, as it is where a flit has failed eight replays or waits 2 µs after its eighth send; replays,
margins and counts are kept; the host's commands enable, fence and stop a link. -/
def Obligations.LinkEvents : Prop :=
  ∀ s l, Canonical s → s.now = none → linkExists l = true →
  let k := linkAt s l
  let full : Nat := if l = 0 ∨ 26 < l then 16 else 4
  let least : Nat := if l = 0 then 4 else if l ≤ 8 then 1 else if l ≤ 26 then 2 else 8
  let lanes : Nat := if 26 < l then 18 else full
  let wide (n : Nat) : Nat :=
    ((if l = 0 then [16, 8, 4] else if l ≤ 8 then [4, 2, 1] else if l ≤ 26 then [4, 3, 2] else [16, 8]).find? (fun w => decide (w ≤ n))).getD 0
  let good (k : Link) : List Nat := (List.range lanes).filter (fun n => !(k.lanes.get {} n).retired)
  let width (n : Nat) : Nat := wide (min n (good k).length)
  let quiet (t : State) : Prop := t.slots = s.slots ∧ ∀ x, rdByte t x = rdByte s x
  let same (peer : Nat) : Prop := 9 ≤ l ∧ l ≤ 26 ∧ peer = fld s.host.devid 0 9
  (∀ n peer, k.st ≠ .training → Delivers s (.linkTrainingDone l n peer) s ∧ Delivers s (.linkTrainingTimeout l) s) ∧
  (∀ n peer, k.st = .training → width n < least ∨ same peer →
    ∃ t, Delivers s (.linkTrainingDone l n peer) t ∧ quiet t ∧
      LinkMoves s t l { k with st := .down, active := 0, failed := k.failed + 1 }) ∧
  (∀ n peer, k.st = .training → least ≤ width n → ¬ same peer →
    ∃ t, Delivers s (.linkTrainingDone l n peer) t ∧ quiet t ∧
      LinkMoves s t l { k with st := if full ≤ width n then .up else .degraded, active := width n, flit := none } ∧
      (l = 0 → s.host.waiting ≠ [] → Sent t .hostEventPost)) ∧
  (k.st = .training →
    ∃ t, Delivers s (.linkTrainingTimeout l) t ∧ quiet t ∧
      LinkMoves s t l { k with st := .down, active := 0, failed := k.failed + 1 }) ∧
  (∀ lane w, lanes ≤ lane ∨ k.st = .down → Delivers s (.laneRetire l lane w) s) ∧
  (∀ lane c, lane < lanes → k.st ≠ .down → c ≤ s.lanelim →
    let x := k.lanes.get {} lane
    Delivers s (.laneRetire l lane (some c)) (setLink s l { k with
      lanes := k.lanes.put {} lane { x with corrected := x.corrected + c } })) ∧
  (∀ lane w, lane < lanes → k.st ≠ .down → (∀ c, w = some c → s.lanelim < c) →
    let x := k.lanes.get {} lane
    let k' := { k with lanes := k.lanes.put {} lane { x with corrected := x.corrected + w.getD 0, retired := true } }
    let n := if 32 ≤ l then min (wide (good k').length) k.active
      else if lane ∈ (good k).take k.active then wide (k.active - 1) else k.active
    ∃ t, Delivers s (.laneRetire l lane w) t ∧ LinkMoves s t l (
      if k.st = .training ∨ k.st = .fenced then k'
      else if n < least then { k' with st := .fenced }
      else { k' with st := if n < full then .degraded else k.st, active := n })) ∧
  (∀ seq,
    let again : Option FlitTry := k.flit.filter (fun f => f.seq == seq)
    let n := (again.map (fun f => f.failures)).getD 0 + 1
    ∃ t ls, Delivers s (.flitReplay l seq) t ∧ t.slots = s.slots ∧ t.host = s.host ∧ KeepsBytes s t ∧
      linkAt t l = { k with
        replays := k.replays + 1, lanes := ls,
        flit := some ⟨seq, n, if n = 7 then s.time8 else (again.map (fun f => f.eighth)).getD 0⟩ } ∧
      (∀ m, m ≠ l → linkAt t m = linkAt s m) ∧ (n = 9 → Sent t (.flitUncorrectable l))) ∧
  (let stuck : Prop := ∃ f, k.flit = some f ∧ (9 ≤ f.failures ∨ (7 ≤ f.failures ∧ f.eighth + 16000 ≤ s.time8))
   (¬ stuck ∨ (k.st ≠ .up ∧ k.st ≠ .degraded) → Delivers s (.flitUncorrectable l) s) ∧
   (stuck → k.st = .up ∨ k.st = .degraded →
    ∃ t, Delivers s (.flitUncorrectable l) t ∧ LinkMoves s t l { k with st := .fenced } ∧ t.ras.seq = s.ras.seq + 1)) ∧
  (∀ lane w h, lanes ≤ lane → Delivers s (.laneMarginMeasure l lane w h) s) ∧
  (∀ lane w h, lane < lanes →
    let on : Bool := k.st == .up || k.st == .degraded
    Delivers s (.laneMarginMeasure l lane w h) (setLink s l { k with
      lanes := k.lanes.put {} lane { k.lanes.get {} lane with width := if on = true then w % 2 ^ 16 else 0,
                                                              height := if on = true then h % 2 ^ 16 else 0 } })) ∧
  (∀ lane, Delivers s (.laneCounterClear l lane) (setLink s l { k with
      lanes := k.lanes.put {} lane { k.lanes.get {} lane with corrected := 0, bad := 0 } })) ∧
  (∀ e, AtEntry s e →
    (∃ t, Delivers s (.linkcmdEnable e l) t ∧ Answers s t e 0 ∧ t.slots = s.slots ∧ KeepsOutside s t [(e, 32)] ∧
      LinkMoves s t l (if k.st = .down then { k with st := .training, active := 0 } else k) ∧
      (k.st = .down → t.timers = s.timers ++ [(s.time8 + 800000000, .linkTrainingTimeout l)])) ∧
    (∃ t, Delivers s (.linkcmdFence e l) t ∧ Answers s t e 0 ∧ KeepsOutside s t [(e, 32)] ∧
      LinkMoves s t l { k with st := .fenced }) ∧
    ∃ t, Delivers s (.linkcmdDown e l) t ∧ Answers s t e 0 ∧ t.slots = s.slots ∧ KeepsOutside s t [(e, 32)] ∧
      LinkMoves s t l (if k.st = .down then k else { k with st := .down, active := 0 }))

/-- R92, R213, R459, R460, R466, R467: each byte of DRAM has its own column and offset; the host reads and writes whole
lines, which the directory records, and gives them back, under what the device has written since; a peer's access is checked
against its inbound right; what no unit can serve, or no link carries, is answered with poison. -/
def Obligations.HostAccesses : Prop :=
  ∀ s pa, Canonical s → s.now = none →
  let at_ := pa / 64 * 64
  let mine (l : Nat) : Prop := l = pa / 64 * 2 ∨ l = pa / 64 * 2 + 1
  let copyIs (t : State) (on : Bool) : Prop := ∀ l, mine l →
    (dirAt t l).host = on ∧ (dirAt t l).snooped = false ∧ (dirAt t l).reading = false ∧ (dirAt t l).shown = false
  let refused : Prop := (linkAt s 0).st = .fenced ∨ dramTop ≤ pa ∨ homeFenced s (sliceOfPa pa) = true
  let cut (l : Nat) : Prop := routeFenced s (ioUnit (ioOfLink l)) (homeUnit (sliceOfPa pa)) = true
  let e := fld s.host.cmdring 12 27 * 4096 + 32 * (s.host.cmdnext % 2 ^ fld s.host.cmdring 0 5)
  let only (t : State) : Prop := t.slots = s.slots ∧ KeepsBytes s t
  (pa < dramTop → dramColumn pa = sliceOf (pa / 16384) ∧ dramColumn pa < 768 ∧ dramOffset pa < 2 ^ 29 ∧
    dramOffset pa = pa / 16384 / 256 / 3 * 16384 + pa % 16384 ∧
    ∀ x, x < dramTop → dramColumn x = dramColumn pa → dramOffset x = dramOffset pa → x = pa) ∧
  (refused → Delivers s (.hostRead pa) { s with out := s.out ++ [.hostPoison at_] }) ∧
  (refused ∨ cut 0 → ∀ data, Delivers s (.hostWrite pa data) { s with out := s.out ++ [.hostPoison at_] }) ∧
  (¬ refused → HostLineFree s pa →
    ((∃ i, i < 8 ∧ at_ / 8 + i ∈ s.poison) →
      ∃ t, Delivers s (.hostRead pa) t ∧ t.out = s.out ++ [.hostPoison at_] ∧ t.dir = s.dir ∧ only t) ∧
    ((∀ i, i < 8 → at_ / 8 + i ∉ s.poison) →
      ∃ t, Delivers s (.hostRead pa) t ∧ t.out = s.out ++ [.hostData at_ (rdBytes s at_ 64)] ∧ only t ∧
        ∀ l, (mine l → dirAt t l = { dirAt s l with host := true, snooped := false, reading := false, shown := false }) ∧ (¬ mine l → dirAt t l = dirAt s l)) ∧
    (∀ data, data ≠ [] → s.booted = true → ¬ cut 0 →
      let bytes := data.take (64 - pa % 64)
      pa + bytes.length ≤ e ∨ e + 8 ≤ pa →
      ∃ t, Delivers s (.hostWrite pa data) t ∧ StoresList s t pa bytes ∧ copyIs t true ∧ t.slots = s.slots ∧
        (∀ n, n < 4096 → s.host.mboxbase.toNat % 64 = 0 → pa = s.host.mboxbase.toNat + 64 * n → 8 ≤ data.length →
          rd64 t pa ≠ 0 → Sent t (.launchDoorbell n (rd64 t pa))) ∧
        (∀ n, n < 4096 → s.host.ctxtab.toNat % 1024 = 0 → pa = s.host.ctxtab.toNat + 1024 * n + 0xF8 →
          (fld (rd64 t pa) 0 4 = 1 → Sent t (.create n)) ∧ (fld (rd64 t pa) 0 4 = 2 → Sent t (.place n)) ∧
          (fld (rd64 t pa) 0 4 = 3 → Sent t (.kill n)) ∧ (fld (rd64 t pa) 0 4 = 4 → Sent t (.free n)) ∧
          (4 < fld (rd64 t pa) 0 4 → Sent t (.commandIllegalCode n))))) ∧
  ((∀ l, mine l → (dirAt s l).host = false) →
    ∀ d, Delivers s (.backInvalidationResponse (pa / 64) d) s ∧ Delivers s (.hostCopyDrop (pa / 64) d) s) ∧
  ((∃ l, mine l ∧ (dirAt s l).host = true) →
    let keeps : Prop := ∀ l, mine l → (dirAt s l).host = true → (dirAt s l).reading = true
    (∃ t, (¬ keeps → Delivers s (.backInvalidationResponse (pa / 64) none) t) ∧ Delivers s (.hostCopyDrop (pa / 64) none) t ∧
      { t with dir := s.dir } = s ∧ ∀ l, (¬ mine l → dirAt t l = dirAt s l) ∧
        (mine l → dirAt t l = { dirAt s l with host := false, snooped := false, reading := false, shown := false, above := [] })) ∧
    (keeps → ∃ t, Delivers s (.backInvalidationResponse (pa / 64) none) t ∧
      { t with dir := s.dir } = s ∧ ∀ l, (¬ mine l ∨ (dirAt s l).host = false → dirAt t l = dirAt s l) ∧
        (mine l → (dirAt s l).host = true →
          dirAt t l = { dirAt s l with snooped := false, reading := false, shown := true, above := [] })) ∧
    (∀ data, data.length = 64 → pa < dramTop → OwnFrames s → s.booted = false ∨ at_ + 64 ≤ e ∨ e + 8 ≤ at_ →
      let later (x : Nat) : Prop := ∃ l b, mine l ∧ (x, b) ∈ (dirAt s l).above
      let put (t : State) : Prop := ∀ x, x < altBase →
        (at_ ≤ x ∧ x < at_ + 64 ∧ ¬ later x → rdByte t x = data[x - at_]?.getD 0) ∧
        (¬ (at_ ≤ x ∧ x < at_ + 64 ∧ ¬ later x) → rdByte t x = rdByte s x)
      (∃ t, (¬ keeps → Delivers s (.backInvalidationResponse (pa / 64) (some data)) t) ∧
        Delivers s (.hostCopyDrop (pa / 64) (some data)) t ∧ copyIs t false ∧ put t) ∧
      (keeps → ∃ t, Delivers s (.backInvalidationResponse (pa / 64) (some data)) t ∧ put t ∧
        ∀ l, mine l → (dirAt t l).host = (dirAt s l).host ∧ ((dirAt s l).host = true → (dirAt t l).shown = true)))) ∧
  (∀ dev (pk : PeerKind),
    let right := s.inbound.get 0 dev
    let home := sliceOfPa pa
    let n := pk.size
    let barred : Prop := (∀ m, pk ≠ .read m) ∧ ∃ port, (peerPorts s dev).head? = some port ∧ cut (9 + port)
    let free : Prop := pa + n ≤ dramTop ∧ homeFenced s home = false ∧ ∀ l, pa < l * 32 + 32 → l * 32 < pa + n → PlainLine s (sliceOfPa (l * 32)) l
    let told (t : State) (data : List Byte) : Prop := ∃ inv, t.out = s.out ++ inv ++ [.peerReply dev pa 0 data] ∧
      ∀ o ∈ inv, ∃ d l, o = .peerInvalidate d (l * 32) ∧ d ≠ dev ∧ 8192 + d ∈ (dirAt s l).sharers
    let sound : Prop := ∀ w, pa < w * 8 + 8 → w * 8 < pa + n → w ∉ s.poison
    (right = 0 ∨ (right = 1 ∧ ∀ m, pk ≠ .read m) →
      Delivers s (.peerAccess dev pa pk) { s with out := s.out ++ [.peerReply dev pa 1 []] }) ∧
    ((2 ≤ right ∨ (right = 1 ∧ ∃ m, pk = .read m)) → dramTop < pa + n ∨ homeFenced s home = true ∨ barred →
      Delivers s (.peerAccess dev pa pk) { s with out := s.out ++ [.peerReply dev pa 2 []] }) ∧
    (∀ m, 1 ≤ right → pk = .read m → free → sound →
      ∃ t, Delivers s (.peerAccess dev pa pk) t ∧ only t ∧ t.out = s.out ++ [.peerReply dev pa 0 (rdBytes s pa m)]) ∧
    (∀ data, 2 ≤ right → pk = .write data → ¬ barred → free → sound → data ≠ [] →
      ∃ t, Delivers s (.peerAccess dev pa pk) t ∧ StoresList s t pa data ∧ t.slots = s.slots ∧ told t []) ∧
    (∀ op x, 2 ≤ right → pk = .amo op x → ¬ barred → free → sound →
      ∃ t, Delivers s (.peerAccess dev pa pk) t ∧ t.slots = s.slots ∧ told t (rdBytes s pa (opSize op)) ∧
        StoresList s t pa (leBytes (opSize op) (opResult op (BitVec.ofNat 64 (rdNat s pa (opSize op))) x).toNat)) ∧
    (∀ z exp new, 2 ≤ right → pk = .cas z exp new → ¬ barred → free → sound →
      ∃ t, Delivers s (.peerAccess dev pa pk) t ∧ t.slots = s.slots ∧ told t (rdBytes s pa z) ∧
        StoresList s t pa (if rdNat s pa z % 2 ^ 64 = exp.toNat % 2 ^ (8 * z) then leBytes z new.toNat else [])))

/-- R402, R443, R457, R461 to R464, R470: a waiting event is written to the ring while it has room; the commands of
the ring are carried out and answered; a register takes the bits the table lets it. -/
def Obligations.HostRings : Prop :=
  ∀ s, Canonical s → s.now = none →
  (let log := fld s.host.evring 0 5
   let works : Prop := (linkAt s 0).st = .up ∨ (linkAt s 0).st = .degraded
   let full : Prop := (s.host.evtail.toNat + 1) % 2 ^ log = s.host.evhead.toNat % 2 ^ log
   (s.host.waiting = [] ∨ log < 4 ∨ 16 < log ∨ ¬ works ∨ full → Delivers s .hostEventPost s) ∧
   (s.host.waiting ≠ [] → 4 ≤ log → log ≤ 16 → works → ¬ full →
     let i := s.host.evtail.toNat % 2 ^ log
     ∃ t pre e rest, Delivers s .hostEventPost t ∧ s.host.waiting = pre ++ e :: rest ∧
       (∀ x ∈ pre, eventUnit x ≠ eventUnit e) ∧ t.slots = s.slots ∧ (∀ x, rdByte t x = rdByte s x) ∧
       t.out = s.out ++ [.event (fld s.host.evring 12 40 * 4096 + 32 * i)
           (leBytes 8 (e.type % 2 ^ 8 + e.ctx % 2 ^ 12 * 2 ^ 8 + (if e.reply = true then 2 ^ 20 else 0) + s.host.seq % 2 ^ 32 * 2 ^ 32) ++
             leBytes 8 e.addr.toNat ++ leBytes 8 e.info.toNat ++ leBytes 8 (tick s))] ++
         (if i = s.host.evhead.toNat % 2 ^ log then [.msix] else []) ∧
       t.host.waiting = pre ++ rest ∧ t.host.evtail = BitVec.ofNat 64 ((s.host.evtail.toNat + 1) % 2 ^ log) ∧
       t.host.seq = (s.host.seq + 1) % 2 ^ 32 ∧
       t.host.awaiting = s.host.awaiting ++ (if e.reply = true then [(s.host.seq, e)] else []))) ∧
  (∀ e, AtEntry s e →
    let answered (ev : Event) (status : Nat) : Prop :=
      ∃ t, Delivers s ev t ∧ Answers s t e status ∧ t.slots = s.slots ∧ KeepsOutside s t [(e, 32)]
    (∀ colour n, 3072 ≤ colour ∨ stackCap s colour < stackCount s colour + n → answered (.addCommand e colour n) 1) ∧
    (∀ colour n, colour < 3072 → stackCount s colour + n ≤ stackCap s colour → DeviceAt s (stackHdr s colour + 8) 8 →
        let base := fld s.host.cmdring 12 27 * 4096
        stackHdr s colour + 16 ≤ base ∨ base + 32 * 2 ^ fld s.host.cmdring 0 5 ≤ stackHdr s colour →
      ∃ t, Delivers s (.addCommand e colour n) t ∧ Answers s t e 0 ∧ t.slots = s.slots ∧
        rd64 t (stackHdr s colour + 8) = setFld (rd64 s (stackHdr s colour + 8)) 32 32 (stackCount s colour + n) ∧
        KeepsOutside s t [(e, 32), (stackHdr s colour + 8, 8)]) ∧
    (∀ va ctl, (8 ≤ ctl ∧ ctl < 2 ^ 64) ∨ (ctl < 4 ∧ va.toNat % 2 ^ ([12, 16, 21, 30][ctl]?.getD 0) ≠ 0) →
      answered (.invalCommand e va ctl) 1) ∧
    (∀ va ctl, ctl < 8 → (ctl < 4 → va.toNat % 2 ^ ([12, 16, 21, 30][ctl]?.getD 0) = 0) →
      ∃ t, Delivers s (.invalCommand e va ctl) t ∧ t.slots = s.slots ∧ (∀ x, rdByte t x = rdByte s x) ∧
        ∀ n, n < 768 → Sent t (.xlatInvAtSlice n va ctl none)) ∧
    (∀ seq value, (∀ x ∈ s.host.awaiting, x.1 ≠ seq) → answered (.replyCommand e seq value) 2) ∧
    (∀ seq value (ev : HostEvent), s.host.awaiting.find? (fun x => x.1 == seq) = some (seq, ev) → ev.type = 1 →
      (value ≠ 1 → answered (.replyCommand e seq value) 1) ∧
      (value = 1 → ∃ t, Delivers s (.replyCommand e seq value) t ∧ Answers s t e 0 ∧ t.slots = s.slots ∧
        t.host.awaiting = s.host.awaiting.erase (seq, ev) ∧ Sent t (.storageFaultAccept (pageChip ev.addr.toNat) ev.addr))) ∧
    (∀ ctx n, n = 0 ∨ 6 < n → answered (.gangstepCommand e ctx n) 1) ∧
    (∀ ctx n, 1 ≤ n → n ≤ 6 →
      let c := ctxAt s ctx
      let waits : Prop := (n ≤ 5 ∧ c.st = .stopping ∧ c.gstep = 2 * n - 1) ∨ (n = 6 ∧ c.st = .restoring ∧ c.gstep = 11)
      (¬ waits → answered (.gangstepCommand e ctx n) 2) ∧
      (waits → ∃ t, Delivers s (.gangstepCommand e ctx n) t ∧ Answers s t e 0 ∧ t.slots = s.slots ∧
        ctxAt t ctx = { c with gstep := 2 * n } ∧ (∀ m, m ≠ ctx → ctxAt t m = ctxAt s m) ∧
        (n = 6 → (s.time8 + 464000, .restoreComplete ctx) ∈ t.timers)))) ∧
  (∀ v : Word, (∀ off, off < 0x2000000 → (linkAt s 0).st = .fenced →
      Delivers s (.registerWrite off v) { s with out := s.out ++ [.regPoison off] }) ∧
    ((linkAt s 0).st ≠ .fenced →
    let bits_ (m : Word) : Word := v &&& m
    Delivers s (.registerWrite 0x18 v) { s with host := { s.host with xroot := bits_ 0x7FFFFFF000 } } ∧
    (s.host.waiting = [] →
      Delivers s (.registerWrite 0x40 v) { s with host := { s.host with evring := bits_ 0xFFFFFFFFFF01F } } ∧
      Delivers s (.registerWrite 0x50 v) { s with host := { s.host with evhead := v } }) ∧
    (s.booted = false →
      Delivers s (.registerWrite 0x58 v) { s with host := { s.host with cmdring := bits_ 0x7FFFFFF01F, cmdnext := 0 } }) ∧
    (∀ off, off ∈ [0x00, 0x08, 0x10, 0x20, 0x28, 0x30, 0x38, 0x48, 0x60] → Delivers s (.registerWrite off v) s) ∧
    (∀ l, 0x1000 ≤ l → l < 0x2000 → Delivers s (.registerWrite l v) s) ∧
    (∀ l n, l < 288 → n < 32 → Delivers s (.registerWrite (0x10000 + (32 * l + n) * 16) v)
      (if v = 0 then post (.laneCounterClear l n) s else s))))

/-- R470 to R475, R486: a stop waits for what is in flight and then holds the thread with its record written; a resume
or step lets it go on from the record; trace records go to the ring or are counted as dropped; a counter is cleared
alone. -/
def Obligations.DebugEvents : Prop :=
  ∀ s, Canonical s → s.now = none →
  (∀ p, threadAt s p = none → Delivers s (.stop p) s ∧ Delivers s (.resume p) s ∧ Delivers s (.step p) s) ∧
  (∀ p th, threadAt s p = some th → p < 49152 → p % 16 < (coreAt s (p / 16)).part →
    let record := spadPa (p / 16) (0x3C000 + 512 * (p % 16))
    let holds (t : State) (th' : Thread) (form : Nat) : Prop :=
      threadAt t p = some th' ∧ (∀ q, q ≠ p → slotAt t q = slotAt s q) ∧ fld (rd64 t (record + 280)) 0 3 = form ∧
      (OwnFrames s → ∀ x, x < altBase → x < spadPa (p / 16) 0x3C000 ∨ spadPa (p / 16) 0x40000 ≤ x → rdByte t x = rdByte s x)
    let back (k : Nat) : State := setThread (setSlot s p (readSlot s p)) p
      { readSlotRecord s p th with form := .ready, readyAt := s.cycle, dbgStep := k }
    let again (t : State) : Prop := ⟨.stop p, none⟩ ∈ t.held ∧ ∀ x, rdByte t x = rdByte s x
    (∀ k b, th.form = .stopped k b → Delivers s (.stop p) s) ∧
    (th.form = .ready → drained s p th = true →
      ∃ t, Delivers s (.stop p) t ∧ holds t { th with form := .stopped none false, dbgStep := 0 } 6) ∧
    (∀ k, th.form = .parked k → drained s p th = true →
      ∃ t, Delivers s (.stop p) t ∧ holds t { th with form := .stopped (some k) false, dbgStep := 0 } 6) ∧
    (th.form = .trapped →
      ∃ t, Delivers s (.stop p) t ∧ holds t { th with form := .stopped none true, dbgStep := 0 } 6) ∧
    (th.form = .ready → drained s p th = false → ∃ t, Delivers s (.stop p) t ∧ again t) ∧
    (∀ tr, th.form = .trapping tr → ∃ t, Delivers s (.stop p) t ∧ again t) ∧
    (∀ w, th.form = .inFlight w → ∃ t, Delivers s (.stop p) t ∧ again t) ∧
    ((∀ k b, th.form ≠ .stopped k b) → Delivers s (.resume p) s ∧ Delivers s (.step p) s) ∧
    (th.form = .stopped none false →
      Delivers s (.resume p) (back 0) ∧ Delivers s (.step p) (back 1)) ∧
    (∀ k, th.form = .stopped (some k) false →
      ((readSlotRecord s p th).pc ≠ th.pc ∨ (k.why = .recv ∧ (readSlot s p).mailbox ≠ []) →
        Delivers s (.resume p) (back 0) ∧ Delivers s (.step p) (back 1)) ∧
      ((readSlot s p).latch = none → (readSlotRecord s p th).pc = th.pc → ¬ (k.why = .recv ∧ (readSlot s p).mailbox ≠ []) →
        ∃ t, Delivers s (.resume p) t ∧ SlotOnly s t p ∧
          slotAt t p = { readSlot s p with
            occ := .thread { readSlotRecord s p th with form := .parked k, readyAt := s.cycle, dbgStep := 0,
                                                        parkT := th.parkT, behind := [] } })) ∧
    (∀ k, th.form = .stopped k true → Delivers s (.step p) s ∧
      ∃ t, Delivers s (.resume p) t ∧ holds t { th with form := .trapped } 5)) ∧
  (∀ ctx chip,
    let c := ctxAt s ctx
    let log := fld c.trace.w0 0 5
    let va := fld c.trace.w0 12 44 * 4096 + 32 * (c.trace.head.toNat % 2 ^ log)
    (c.trace.queues.get [] chip = [] → Delivers s (.traceRecordWrite ctx chip) s) ∧
    (∀ r rest, c.trace.queues.get [] chip = r :: rest →
      (log < 7 ∨ 20 < log →
        ∃ t, Delivers s (.traceRecordWrite ctx chip) t ∧ t.slots = s.slots ∧ KeepsBytes s t ∧
          ctxAt t ctx = { c with trace := { c.trace with queues := c.trace.queues.put [] chip rest,
                                                         dropped := c.trace.dropped + 1, gap := c.trace.gap + 1 } }) ∧
      (∀ base n pte pa, 7 ≤ log → log ≤ 20 → c.trace.gap = 0 → r.length = 4 → region (BitVec.ofNat 64 va) = .paged →
          walk s va = .leaf base n pte pa → pteType pte = 0 → pageOp s va = none → ringFind s va = none →
          DirtyNoted s va →
        let at_ := placeFor (sliceOfVa va) (pteFrame pte + (va - base))
        DeviceAt s at_ 32 → fld c.trace.w1 16 1 = 1 ∨ rd64 s at_ = 0 →
        ∃ t, Delivers s (.traceRecordWrite ctx chip) t ∧ t.slots = s.slots ∧ StoresList s t at_ (wordsBytes r) ∧
          ctxAt t ctx = { c with trace := { c.trace with queues := c.trace.queues.put [] chip rest,
                                                         head := c.trace.head + 1 } }))) ∧
  (∀ off, IsCounter off →
    ∃ t, Delivers s (.counterClear off) t ∧ debugRead t off = 0 ∧
      (∀ o, o % 8 = 0 → o ≠ off → debugRead t o = debugRead s o) ∧ (∀ p, threadAt t p = threadAt s p) ∧
      { t with slots := s.slots, cores := s.cores, ctxs := s.ctxs, cells := s.cells, slices := s.slices, ras := s.ras } = s)

/-- R24, R25, R480, R481, R483: an idle cell is tested, and its memories are then zero, the mode of the cell's context telling
whether a passing result is recorded too; a detected fault is recorded and fences the smallest unit of the table; row counters
start again. -/
def Obligations.HardwareFaults : Prop :=
  ∀ s cell, Canonical s → s.now = none →
  let c := cellAt s cell
  let next := s.ras.errbase.toNat + 64 * (s.ras.errtail % 4096)
  let told (info : Nat) : HostEvent :=
    { type := 6, ctx := c.owner.getD 0, reply := false, addr := BitVec.ofNat 64 cell, info := BitVec.ofNat 64 info }
  (∀ w, (fld c.test 8 1 = 1 → Delivers s (.iftestRequest cell w) s) ∧
    (fld c.test 8 1 = 0 →
      Delivers s (.iftestRequest cell w) (setCell s cell (
        if fld w 0 3 = 0 then { c with test := 0 }
        else if cellIdle s cell = true then
          { c with test := BitVec.ofNat 64 (fld w 0 3 + 2 ^ 8), testHost := c.owner.any (fun n => fld (fmode s n) 5 1 == 1) }
        else { c with test := BitVec.ofNat 64 (fld w 0 3 + 2 * 2 ^ 12) })))) ∧
  (∀ pass unit, fld c.test 8 1 = 0 → Delivers s (.iftestDone cell pass unit) s) ∧
  (∀ unit, fld c.test 8 1 = 1 →
    ∃ t, Delivers s (.iftestDone cell true unit) t ∧ t.slots = s.slots ∧
      (c.testHost = true → t.ras.seq = s.ras.seq + 1) ∧
      (c.testHost = false → t.ras = s.ras ∧
        ∀ x, x < altBase → rdByte t x = if cellMem [cell] x = true then 0 else rdByte s x) ∧
      (cellAt t cell).test = BitVec.ofNat 64 (fld c.test 0 3) ∧ (cellAt t cell).active = 0 ∧
      (fld c.test 0 1 = 1 → (cellAt t cell).fenced = false ∧ (cellAt t cell).arrFenced = false ∧
        (cellAt t cell).copyFenced = false ∧ ∀ i, i < 4 → (coreAt t (4 * cell + i)).fenced = false) ∧
      t.host.waiting = s.host.waiting ++ [told 0]) ∧
  (∀ unit, fld c.test 8 1 = 1 →
    ∃ t, Delivers s (.iftestDone cell false unit) t ∧
      (cellAt t cell).test = BitVec.ofNat 64 (fld c.test 0 3 + 2 ^ 12) ∧ t.ras.seq = s.ras.seq + 1 ∧
      (unit < 4 → (coreAt t (4 * cell + unit)).fenced = true) ∧ (unit = 4 → (cellAt t cell).arrFenced = true) ∧
      (unit = 5 → (cellAt t cell).copyFenced = true) ∧ (5 < unit → (cellAt t cell).fenced = true) ∧
      t.host.waiting = s.host.waiting ++ [told 1]) ∧
  Delivers s (.iftestReminder cell) (hostEvent (told 3) s) ∧
  Delivers s (.rowCounterWindow cell)
    (setSlice s cell { sliceAt s cell with rows := (sliceAt s cell).rows.map (fun x => { x with acts := 0 }), spare := [] }) ∧
  (∀ source addr, ∃ t, Delivers s (.hwFaultDetected (.corrected source addr)) t ∧ t.ras.seq = s.ras.seq + 1 ∧
    t.slots = s.slots ∧ (DeviceAt s next 64 → t.cores = s.cores) ∧ t.cells = s.cells ∧ t.fencedUnits = s.fencedUnits) ∧
  (∀ source addr, DeviceAt s next 64 → addr / 8 * 8 + 8 ≤ s.ras.errbase.toNat ∨ s.ras.errbase.toNat + 64 * 4096 ≤ addr / 8 * 8 →
    ∃ t, Delivers s (.hwFaultDetected (.word addr source)) t ∧ t.ras.seq = s.ras.seq + 1 ∧ t.slots = s.slots ∧
      addr / 8 ∈ t.poison ∧ t.cells = s.cells) ∧
  Delivers s (.hwFaultDetected (.residue cell)) (setCell s cell { c with residue := c.residue + 1 }) ∧
  (∀ l, let up : Prop := (linkAt s l).st = .up ∨ (linkAt s l).st = .degraded
    (¬ up → Delivers s (.hwFaultDetected (.link l)) s) ∧
    (up → ∃ t, Delivers s (.hwFaultDetected (.link l)) t ∧ LinkMoves s t l { linkAt s l with st := .fenced } ∧
      t.ras.seq = s.ras.seq + 1)) ∧
  (∀ p, ∃ t, Delivers s (.hwFaultDetected (.slot p)) t ∧ 64 + p ∈ t.fencedUnits ∧ threadAt t p = none) ∧
  (∀ core, ∃ t, Delivers s (.hwFaultDetected (.core core)) t ∧ (coreAt t core).fenced = true ∧ t.ras.seq = s.ras.seq + 1) ∧
  (∀ row col, ∃ t, Delivers s (.hwFaultDetected (.array cell row col)) t ∧ (cellAt t cell).arrFenced = true) ∧
  (∃ t, Delivers s (.hwFaultDetected (.arraySeq cell)) t ∧ (cellAt t cell).arrFenced = true) ∧
  (∃ t, Delivers s (.hwFaultDetected (.copy cell)) t ∧ (cellAt t cell).copyFenced = true) ∧
  (∃ t, Delivers s (.hwFaultDetected (.cell cell)) t ∧ (cellAt t cell).fenced = true ∧ (cellAt t cell).arrFenced = true ∧
    (cellAt t cell).copyFenced = true ∧ ∀ i, i < 4 → (coreAt t (4 * cell + i)).fenced = true) ∧
  (∀ n, (∃ t, Delivers s (.hwFaultDetected (.sqe n)) t ∧ n ∈ t.fencedUnits) ∧
    (∃ t, Delivers s (.hwFaultDetected (.teller n)) t ∧ 8 + n ∈ t.fencedUnits ∧ t.ras.seq = s.ras.seq + 1) ∧
    (∃ t, Delivers s (.hwFaultDetected (.rowSave n)) t ∧ 16 + n ∈ t.fencedUnits ∧ t.ras.seq = s.ras.seq + 1) ∧
    ∃ t, Delivers s (.hwFaultDetected (.stack n)) t ∧ ∀ x, x < 768 → chipOfCell x = n → (cellAt t x).fenced = true)

/-- R413, R457, R478, R484, R485, R518: a cold reset gives the reset state; a boot image whose signature fails is
refused, another starts the device; a cycle in which no pass ends and no event waits for its ring passes time, brings what is
due, counts it for every slot and context and leaves every byte as it is. -/
def Obligations.ResetBootAndTime : Prop :=
  ∀ s, Canonical s → s.now = none →
  (∀ w, (200 ≤ w → w ≤ 2000 → Delivers s (.powerLimitWrite w) { s with ras := { s.ras with powerLimit := w } }) ∧
    (w < 200 ∨ 2000 < w → Delivers s (.powerLimitWrite w) s)) ∧
  (∃ t, Delivers s .coldReset t ∧ (∀ f ∈ t.agenda, f ∈ s.agenda) ∧
    { t with sched := State.reset.sched, fresh := State.reset.fresh, out := State.reset.out,
             agenda := State.reset.agenda } = State.reset) ∧
  (∀ img : BootImage, s.booted = true ∨ sha512 img.key ≠ Config.keyHash ∨ edVerify img.key img.image img.sig = false ∨
      imagePlaced img = false → Delivers s (.boot img) s) ∧
  (∀ img : BootImage, s.booted = false → sha512 img.key = Config.keyHash → edVerify img.key img.image img.sig = true →
      imagePlaced img = true → OwnFrames s →
    ∃ t, Delivers s (.boot img) t ∧ t.booted = true ∧ t.bootlog = s.bootlog ++ [contentHash img.image] ∧
      t.slots = s.slots ∧ StoresList s t img.fwkcb img.image ∧
      t.host.devid = BitVec.ofNat 64 img.devid.toNat ∧ t.host.ctxtab = BitVec.ofNat 64 img.ctxtab ∧
      t.host.regtab = BitVec.ofNat 64 img.regtab ∧ t.host.stktab = BitVec.ofNat 64 img.stktab ∧
      t.host.mboxbase = BitVec.ofNat 64 img.mboxbase ∧ t.host.peerroute = BitVec.ofNat 64 img.peerroute ∧
      t.host.rsvbase = BitVec.ofNat 64 img.rsvbase &&& 0x7FC0000000 ∧
      ∀ l, linkAt t l = if linkExists l = true ∧ (linkAt s l).st = .down then
        { linkAt s l with st := .training, active := 0 } else linkAt s l) ∧
  (∀ req, Delivers s (.attestationRequest req) (if s.booted = true then
    { s with out := s.out ++ [.attest (s.bootlog.flatten ++ Config.sign (req ++ s.bootlog.flatten))] } else s)) ∧
  ((∀ p th, threadAt s p = some th → th.issued + 8 ≠ s.cycle + 1 ∧ (∀ n, th.form ≠ .inFlight (.leaving n)) ∧
      ∀ c m, th.form ≠ .inFlight (.departing c m)) →
    (∀ n, (ctxAt s n).st = .resident → (ctxAt s n).evwait = []) →
  ∃ t, Delivers s .cycle t ∧ t.time8 = s.time8 + 10 ∧ t.cycle = s.cycle + 1 ∧ (OwnFrames s → KeepsBytes s t) ∧
    (∀ p, threadAt t p = threadAt s p) ∧ t.timers = s.timers.filter (fun x => decide (s.time8 + 10 < x.1)) ∧
    (∀ x ∈ s.timers, x.1 ≤ s.time8 + 10 → Sent t x.2) ∧ t.held = [] ∧ (∀ f ∈ s.agenda ++ s.held, f ∈ t.agenda) ∧
    (∀ n, (ctxAt t n).energyPj = (ctxAt s n).energyPj + (match (ctxAt s n).st with
      | .free | .created | .saved => 0
      | _ => 250 * (ctxAt s n).cells.length * ((s.time8 + 10) / 8 - s.time8 / 8))) ∧
    ∀ p, p % 16 < (coreAt s (p / 16)).part →
      (∀ th k, k < 3 → threadAt s p = some th →
        let now : Option Nat := match th.form with
          | .ready => some 0
          | .inFlight _ => some (if s.cycle < th.issued + 8 then 0 else 1)
          | .parked w => some (if s.cycle < th.issued + 8 then 0 else if w.mem = true then 1 else 2)
          | _ => none
        lossCount t p k = min (2 ^ 48 - 1) (lossCount s p k + if now = some k then 1 else 0)) ∧
      (threadAt s p = none → (slotAt s p).vacLag ≤ s.cycle →
        lossCount t p 3 = min (2 ^ 48 - 1) (lossCount s p 3 + 1)))

/-- R29, R43: decoding the word of a well-formed instruction gives that instruction back, with every operand at every
value its field admits. -/
def Obligations.EncodeRoundTrip : Prop :=
  ∀ i : Instr, i.wellFormed = true → ∃ w, encode i = some w ∧ decode w = .ok i

/-- R45, R46: a word the decoder takes is the encoding of the instruction it gives, which is well formed: no bit of a
word is without meaning, and no two words are one instruction. -/
def Obligations.WordsMeanOneInstruction : Prop :=
  ∀ w i, decode w = .ok i → i.wellFormed = true ∧ encode i = some w

/-- R29 and the encoding tables: words written out from them, one for each of several families, decode to the
instruction they stand for. -/
def Obligations.DecodedWords : Prop :=
  decode 0x0484A804 = .ok (.divu 8 9 10 0 0) ∧ decode 0x0684A803 = .ok (.bext 8 9 10 0 0) ∧
  decode 0x1C840005 = .ok (.shli 8 8 0 5) ∧ decode 0x22800001 = .ok (.auipc 8 1) ∧
  decode 0x28428008 = .ok (.beq 4 5 8) ∧ decode 0x2A110C02 = .ok (.kand 1 2 3) ∧
  decode 0x4084A9E0 = .ok (.amoAdd 8 9 10 3 3) ∧ decode 0x10000000 = .ok .nop ∧
  decode 0xF084A800 = .ok (.mvblk 8 9 10) ∧ decode 0 = .error .major ∧ decode 0xFFFFFFFF = .error .major

/-- R48, R127, R413: where a core's move comes next, its slot's fetched word is executed as the instruction it decodes to, or
as the event of a word that is none, unless its thread owes a fault, which it takes (R121; that it is then is the model's
choice: log entry 22); a message is executed as its event; time passes as a cycle when no core has a move. -/
def Obligations.StepRunsDecodedWord : Prop :=
  ∀ s, Canonical s →
  (∀ p rest, s.sched = p :: rest → nextPick s = (p, { s with sched := rest })) ∧
  (∀ u c p th f, nextPick s = (.core c, u) ∨ (nextPick s = (.tick, u) ∧ busyCore u = some c) → mover u c = some p → threadAt u p = some th →
      th.form = .ready → th.owed = some f →
    ∃ t, step s = .next t ∧ Raises (issued u c p th) t { th with issued := u.cycle, owed := none }
      (trapOf (issued u c p th) th f.cause f.info f.addr)) ∧
  (∀ u c p th w, nextPick s = (.core c, u) ∨ (nextPick s = (.tick, u) ∧ busyCore u = some c) → mover u c = some p → threadAt u p = some th →
      th.owed = none → textWord u c th.pc (privOf th) = some w →
      (th.noCmp = true ∨ ∀ j : Nat, fld ((coreAt u c).cmps[j]?.getD (0, 0)).2 0 1 = 0) →
    (∀ i, decode w = .ok i → step s = exec i (issued u c p th)) ∧
    ∀ r, decode w = .error r → step s = exec .illinst { issued u c p th with now := some (.illinst w) }) ∧
  (∀ u k f, nextPick s = (.deliver k, u) → u.agenda[k]? = some f → f.chan = none →
    step s = exec f.ev.instr { u with agenda := u.agenda.eraseIdx k, nowChan := none, now := some f.ev }) ∧
  (∀ u k f j g, nextPick s = (.deliver k, u) → u.agenda[k]? = some f → f.chan ≠ none →
    u.agenda.findIdx (fun x => x.chan == f.chan) = j → u.agenda[j]? = some g →
    step s = exec g.ev.instr { u with agenda := u.agenda.eraseIdx j, nowChan := g.chan, now := some g.ev }) ∧
  (∀ u, nextPick s = (.tick, u) → busyCore u = none → step s = exec .cycle { u with now := some .cycle })

/-- No step of the machine ends in a fault or a refusal: every state has a next one, whatever its words and messages
are. -/
def Obligations.EveryStepAnswers : Prop :=
  ∀ s, Goes s

/-- R485: a cold reset leaves links DOWN, contexts FREE, no thread in any slot, no byte of memory and every counter at
0, and its tables are in canonical form. -/
def Obligations.ResetState : Prop :=
  Canonical State.reset ∧ State.reset.booted = false ∧ (∀ l, (linkAt State.reset l).st = .down) ∧
  (∀ n, (ctxAt State.reset n).st = .free) ∧ (∀ p, threadAt State.reset p = none) ∧
  (∀ x, x < peerBase → rdByte State.reset x = 0) ∧ ∀ off, IsCounter off → debugRead State.reset off = 0

/-- Every step keeps memory and the other tables of the state in their canonical form, from any state that has it. -/
def Obligations.CanonicalStays : Prop :=
  ∀ s t, Canonical s → step s = .next t → Canonical t
end

