-- ==== Sys2Proof/Laws/Format.lean ====
section
/-!
SUPPORT. Each field of an encoded word reads back as it was written, one lemma per field per format (R29, R30).
-/
namespace Sys2Proof

set_option Elab.async false

/-! ### fmtA -/

@[simp] theorem opOf_fmtA (op : BitVec 7) (d a b : BitVec 5) (ma mb : BitVec 2) (fn : BitVec 6) :
    opOf (fmtA op d a b ma mb fn) = op := by
  apply BitVec.eq_of_getLsbD_eq; intro i hi; simp [opOf, fmtA]; grind
@[simp] theorem rd_fmtA (op : BitVec 7) (d a b : BitVec 5) (ma mb : BitVec 2) (fn : BitVec 6) :
    rd (fmtA op d a b ma mb fn) = d := by
  apply BitVec.eq_of_getLsbD_eq; intro i hi; simp [rd, fmtA]; grind
@[simp] theorem ra_fmtA (op : BitVec 7) (d a b : BitVec 5) (ma mb : BitVec 2) (fn : BitVec 6) :
    ra (fmtA op d a b ma mb fn) = a := by
  apply BitVec.eq_of_getLsbD_eq; intro i hi; simp [ra, fmtA]; grind
@[simp] theorem rb_fmtA (op : BitVec 7) (d a b : BitVec 5) (ma mb : BitVec 2) (fn : BitVec 6) :
    rb (fmtA op d a b ma mb fn) = b := by
  apply BitVec.eq_of_getLsbD_eq; intro i hi; simp [rb, fmtA]; grind
@[simp] theorem maA_fmtA (op : BitVec 7) (d a b : BitVec 5) (ma mb : BitVec 2) (fn : BitVec 6) :
    maA (fmtA op d a b ma mb fn) = ma := by
  apply BitVec.eq_of_getLsbD_eq; intro i hi; simp [maA, fmtA]; grind
@[simp] theorem mbA_fmtA (op : BitVec 7) (d a b : BitVec 5) (ma mb : BitVec 2) (fn : BitVec 6) :
    mbA (fmtA op d a b ma mb fn) = mb := by
  apply BitVec.eq_of_getLsbD_eq; intro i hi; simp [mbA, fmtA]; grind
@[simp] theorem fnA_fmtA (op : BitVec 7) (d a b : BitVec 5) (ma mb : BitVec 2) (fn : BitVec 6) :
    fnA (fmtA op d a b ma mb fn) = fn := by
  apply BitVec.eq_of_getLsbD_eq; intro i hi; simp [fnA, fmtA]; grind

/-! ### fmtI -/

@[simp] theorem opOf_fmtI (op : BitVec 7) (d a : BitVec 5) (ma : BitVec 2) (imm : BitVec 13) :
    opOf (fmtI op d a ma imm) = op := by
  apply BitVec.eq_of_getLsbD_eq; intro i hi; simp [opOf, fmtI]; grind
@[simp] theorem rd_fmtI (op : BitVec 7) (d a : BitVec 5) (ma : BitVec 2) (imm : BitVec 13) :
    rd (fmtI op d a ma imm) = d := by
  apply BitVec.eq_of_getLsbD_eq; intro i hi; simp [rd, fmtI]; grind
@[simp] theorem ra_fmtI (op : BitVec 7) (d a : BitVec 5) (ma : BitVec 2) (imm : BitVec 13) :
    ra (fmtI op d a ma imm) = a := by
  apply BitVec.eq_of_getLsbD_eq; intro i hi; simp [ra, fmtI]; grind
@[simp] theorem maI_fmtI (op : BitVec 7) (d a : BitVec 5) (ma : BitVec 2) (imm : BitVec 13) :
    maI (fmtI op d a ma imm) = ma := by
  apply BitVec.eq_of_getLsbD_eq; intro i hi; simp [maI, fmtI]; grind
@[simp] theorem immI_fmtI (op : BitVec 7) (d a : BitVec 5) (ma : BitVec 2) (imm : BitVec 13) :
    immI (fmtI op d a ma imm) = imm := by
  apply BitVec.eq_of_getLsbD_eq; intro i hi; simp [immI, fmtI]; grind

/-! ### fmtU -/

@[simp] theorem opOf_fmtU (op : BitVec 7) (d : BitVec 5) (imm : BitVec 20) :
    opOf (fmtU op d imm) = op := by
  apply BitVec.eq_of_getLsbD_eq; intro i hi; simp [opOf, fmtU]; grind
@[simp] theorem rd_fmtU (op : BitVec 7) (d : BitVec 5) (imm : BitVec 20) :
    rd (fmtU op d imm) = d := by
  apply BitVec.eq_of_getLsbD_eq; intro i hi; simp [rd, fmtU]; grind
@[simp] theorem immU_fmtU (op : BitVec 7) (d : BitVec 5) (imm : BitVec 20) :
    immU (fmtU op d imm) = imm := by
  apply BitVec.eq_of_getLsbD_eq; intro i hi; simp [immU, fmtU]; grind

/-! ### fmtB -/

@[simp] theorem opOf_fmtB (op : BitVec 7) (a b : BitVec 5) (cc : BitVec 3) (off : BitVec 12) :
    opOf (fmtB op a b cc off) = op := by
  apply BitVec.eq_of_getLsbD_eq; intro i hi; simp [opOf, fmtB]; grind
@[simp] theorem rd_fmtB (op : BitVec 7) (a b : BitVec 5) (cc : BitVec 3) (off : BitVec 12) :
    rd (fmtB op a b cc off) = a := by
  apply BitVec.eq_of_getLsbD_eq; intro i hi; simp [rd, fmtB]; grind
@[simp] theorem ra_fmtB (op : BitVec 7) (a b : BitVec 5) (cc : BitVec 3) (off : BitVec 12) :
    ra (fmtB op a b cc off) = b := by
  apply BitVec.eq_of_getLsbD_eq; intro i hi; simp [ra, fmtB]; grind
@[simp] theorem ccB_fmtB (op : BitVec 7) (a b : BitVec 5) (cc : BitVec 3) (off : BitVec 12) :
    ccB (fmtB op a b cc off) = cc := by
  apply BitVec.eq_of_getLsbD_eq; intro i hi; simp [ccB, fmtB]; grind
@[simp] theorem offB_fmtB (op : BitVec 7) (a b : BitVec 5) (cc : BitVec 3) (off : BitVec 12) :
    offB (fmtB op a b cc off) = off := by
  apply BitVec.eq_of_getLsbD_eq; intro i hi; simp [offB, fmtB]; grind

/-! ### fmtM -/

@[simp] theorem opOf_fmtM (op : BitVec 7) (d a : BitVec 5) (sz : BitVec 2) (sc : BitVec 3) (mo : BitVec 2) (off : BitVec 8) :
    opOf (fmtM op d a sz sc mo off) = op := by
  apply BitVec.eq_of_getLsbD_eq; intro i hi; simp [opOf, fmtM]; grind
@[simp] theorem rd_fmtM (op : BitVec 7) (d a : BitVec 5) (sz : BitVec 2) (sc : BitVec 3) (mo : BitVec 2) (off : BitVec 8) :
    rd (fmtM op d a sz sc mo off) = d := by
  apply BitVec.eq_of_getLsbD_eq; intro i hi; simp [rd, fmtM]; grind
@[simp] theorem ra_fmtM (op : BitVec 7) (d a : BitVec 5) (sz : BitVec 2) (sc : BitVec 3) (mo : BitVec 2) (off : BitVec 8) :
    ra (fmtM op d a sz sc mo off) = a := by
  apply BitVec.eq_of_getLsbD_eq; intro i hi; simp [ra, fmtM]; grind
@[simp] theorem szM_fmtM (op : BitVec 7) (d a : BitVec 5) (sz : BitVec 2) (sc : BitVec 3) (mo : BitVec 2) (off : BitVec 8) :
    szM (fmtM op d a sz sc mo off) = sz := by
  apply BitVec.eq_of_getLsbD_eq; intro i hi; simp [szM, fmtM]; grind
@[simp] theorem scM_fmtM (op : BitVec 7) (d a : BitVec 5) (sz : BitVec 2) (sc : BitVec 3) (mo : BitVec 2) (off : BitVec 8) :
    scM (fmtM op d a sz sc mo off) = sc := by
  apply BitVec.eq_of_getLsbD_eq; intro i hi; simp [scM, fmtM]; grind
@[simp] theorem moM_fmtM (op : BitVec 7) (d a : BitVec 5) (sz : BitVec 2) (sc : BitVec 3) (mo : BitVec 2) (off : BitVec 8) :
    moM (fmtM op d a sz sc mo off) = mo := by
  apply BitVec.eq_of_getLsbD_eq; intro i hi; simp [moM, fmtM]; grind
@[simp] theorem offM_fmtM (op : BitVec 7) (d a : BitVec 5) (sz : BitVec 2) (sc : BitVec 3) (mo : BitVec 2) (off : BitVec 8) :
    offM (fmtM op d a sz sc mo off) = off := by
  apply BitVec.eq_of_getLsbD_eq; intro i hi; simp [offM, fmtM]; grind

/-! ### fmtR -/

@[simp] theorem opOf_fmtR (op : BitVec 7) (d a b : BitVec 5) (sc : BitVec 3) (mo : BitVec 2) (fn : BitVec 5) :
    opOf (fmtR op d a b sc mo fn) = op := by
  apply BitVec.eq_of_getLsbD_eq; intro i hi; simp [opOf, fmtR]; grind
@[simp] theorem rd_fmtR (op : BitVec 7) (d a b : BitVec 5) (sc : BitVec 3) (mo : BitVec 2) (fn : BitVec 5) :
    rd (fmtR op d a b sc mo fn) = d := by
  apply BitVec.eq_of_getLsbD_eq; intro i hi; simp [rd, fmtR]; grind
@[simp] theorem ra_fmtR (op : BitVec 7) (d a b : BitVec 5) (sc : BitVec 3) (mo : BitVec 2) (fn : BitVec 5) :
    ra (fmtR op d a b sc mo fn) = a := by
  apply BitVec.eq_of_getLsbD_eq; intro i hi; simp [ra, fmtR]; grind
@[simp] theorem rb_fmtR (op : BitVec 7) (d a b : BitVec 5) (sc : BitVec 3) (mo : BitVec 2) (fn : BitVec 5) :
    rb (fmtR op d a b sc mo fn) = b := by
  apply BitVec.eq_of_getLsbD_eq; intro i hi; simp [rb, fmtR]; grind
@[simp] theorem scR_fmtR (op : BitVec 7) (d a b : BitVec 5) (sc : BitVec 3) (mo : BitVec 2) (fn : BitVec 5) :
    scR (fmtR op d a b sc mo fn) = sc := by
  apply BitVec.eq_of_getLsbD_eq; intro i hi; simp [scR, fmtR]; grind
@[simp] theorem moR_fmtR (op : BitVec 7) (d a b : BitVec 5) (sc : BitVec 3) (mo : BitVec 2) (fn : BitVec 5) :
    moR (fmtR op d a b sc mo fn) = mo := by
  apply BitVec.eq_of_getLsbD_eq; intro i hi; simp [moR, fmtR]; grind
@[simp] theorem fn5_fmtR (op : BitVec 7) (d a b : BitVec 5) (sc : BitVec 3) (mo : BitVec 2) (fn : BitVec 5) :
    fn5 (fmtR op d a b sc mo fn) = fn := by
  apply BitVec.eq_of_getLsbD_eq; intro i hi; simp [fn5, fmtR]; grind

/-! ### fmtV -/

@[simp] theorem opOf_fmtV (op : BitVec 7) (d a b : BitVec 5) (k : BitVec 2) (t : BitVec 3) (fn : BitVec 5) :
    opOf (fmtV op d a b k t fn) = op := by
  apply BitVec.eq_of_getLsbD_eq; intro i hi; simp [opOf, fmtV]; grind
@[simp] theorem rd_fmtV (op : BitVec 7) (d a b : BitVec 5) (k : BitVec 2) (t : BitVec 3) (fn : BitVec 5) :
    rd (fmtV op d a b k t fn) = d := by
  apply BitVec.eq_of_getLsbD_eq; intro i hi; simp [rd, fmtV]; grind
@[simp] theorem ra_fmtV (op : BitVec 7) (d a b : BitVec 5) (k : BitVec 2) (t : BitVec 3) (fn : BitVec 5) :
    ra (fmtV op d a b k t fn) = a := by
  apply BitVec.eq_of_getLsbD_eq; intro i hi; simp [ra, fmtV]; grind
@[simp] theorem rb_fmtV (op : BitVec 7) (d a b : BitVec 5) (k : BitVec 2) (t : BitVec 3) (fn : BitVec 5) :
    rb (fmtV op d a b k t fn) = b := by
  apply BitVec.eq_of_getLsbD_eq; intro i hi; simp [rb, fmtV]; grind
@[simp] theorem kV_fmtV (op : BitVec 7) (d a b : BitVec 5) (k : BitVec 2) (t : BitVec 3) (fn : BitVec 5) :
    kV (fmtV op d a b k t fn) = k := by
  apply BitVec.eq_of_getLsbD_eq; intro i hi; simp [kV, fmtV]; grind
@[simp] theorem tV_fmtV (op : BitVec 7) (d a b : BitVec 5) (k : BitVec 2) (t : BitVec 3) (fn : BitVec 5) :
    tV (fmtV op d a b k t fn) = t := by
  apply BitVec.eq_of_getLsbD_eq; intro i hi; simp [tV, fmtV]; grind
@[simp] theorem fn5_fmtV (op : BitVec 7) (d a b : BitVec 5) (k : BitVec 2) (t : BitVec 3) (fn : BitVec 5) :
    fn5 (fmtV op d a b k t fn) = fn := by
  apply BitVec.eq_of_getLsbD_eq; intro i hi; simp [fn5, fmtV]; grind

/-! ### fmtC -/

@[simp] theorem opOf_fmtC (op : BitVec 7) (c a b : BitVec 5) (x : BitVec 10) :
    opOf (fmtC op c a b x) = op := by
  apply BitVec.eq_of_getLsbD_eq; intro i hi; simp [opOf, fmtC]; grind
@[simp] theorem rd_fmtC (op : BitVec 7) (c a b : BitVec 5) (x : BitVec 10) :
    rd (fmtC op c a b x) = c := by
  apply BitVec.eq_of_getLsbD_eq; intro i hi; simp [rd, fmtC]; grind
@[simp] theorem ra_fmtC (op : BitVec 7) (c a b : BitVec 5) (x : BitVec 10) :
    ra (fmtC op c a b x) = a := by
  apply BitVec.eq_of_getLsbD_eq; intro i hi; simp [ra, fmtC]; grind
@[simp] theorem rb_fmtC (op : BitVec 7) (c a b : BitVec 5) (x : BitVec 10) :
    rb (fmtC op c a b x) = b := by
  apply BitVec.eq_of_getLsbD_eq; intro i hi; simp [rb, fmtC]; grind
@[simp] theorem xC_fmtC (op : BitVec 7) (c a b : BitVec 5) (x : BitVec 10) :
    xC (fmtC op c a b x) = x := by
  apply BitVec.eq_of_getLsbD_eq; intro i hi; simp [xC, fmtC]; grind

/-! ### fmtS -/

@[simp] theorem opOf_fmtS (op : BitVec 7) (d a : BitVec 5) (csr : BitVec 12) (fn : BitVec 3) :
    opOf (fmtS op d a csr fn) = op := by
  apply BitVec.eq_of_getLsbD_eq; intro i hi; simp [opOf, fmtS]; grind
@[simp] theorem rd_fmtS (op : BitVec 7) (d a : BitVec 5) (csr : BitVec 12) (fn : BitVec 3) :
    rd (fmtS op d a csr fn) = d := by
  apply BitVec.eq_of_getLsbD_eq; intro i hi; simp [rd, fmtS]; grind
@[simp] theorem ra_fmtS (op : BitVec 7) (d a : BitVec 5) (csr : BitVec 12) (fn : BitVec 3) :
    ra (fmtS op d a csr fn) = a := by
  apply BitVec.eq_of_getLsbD_eq; intro i hi; simp [ra, fmtS]; grind
@[simp] theorem csrS_fmtS (op : BitVec 7) (d a : BitVec 5) (csr : BitVec 12) (fn : BitVec 3) :
    csrS (fmtS op d a csr fn) = csr := by
  apply BitVec.eq_of_getLsbD_eq; intro i hi; simp [csrS, fmtS]; grind
@[simp] theorem fnS_fmtS (op : BitVec 7) (d a : BitVec 5) (csr : BitVec 12) (fn : BitVec 3) :
    fnS (fmtS op d a csr fn) = fn := by
  apply BitVec.eq_of_getLsbD_eq; intro i hi; simp [fnS, fmtS]; grind

/-! ### fmtF -/

@[simp] theorem opOf_fmtF (op : BitVec 7) (fk : BitVec 4) (sc : BitVec 3) (e : BitVec 1) (zero : BitVec 17) :
    opOf (fmtF op fk sc e zero) = op := by
  apply BitVec.eq_of_getLsbD_eq; intro i hi; simp [opOf, fmtF]; grind
@[simp] theorem fkF_fmtF (op : BitVec 7) (fk : BitVec 4) (sc : BitVec 3) (e : BitVec 1) (zero : BitVec 17) :
    fkF (fmtF op fk sc e zero) = fk := by
  apply BitVec.eq_of_getLsbD_eq; intro i hi; simp [fkF, fmtF]; grind
@[simp] theorem scF_fmtF (op : BitVec 7) (fk : BitVec 4) (sc : BitVec 3) (e : BitVec 1) (zero : BitVec 17) :
    scF (fmtF op fk sc e zero) = sc := by
  apply BitVec.eq_of_getLsbD_eq; intro i hi; simp [scF, fmtF]; grind
@[simp] theorem eF_fmtF (op : BitVec 7) (fk : BitVec 4) (sc : BitVec 3) (e : BitVec 1) (zero : BitVec 17) :
    eF (fmtF op fk sc e zero) = e := by
  apply BitVec.eq_of_getLsbD_eq; intro i hi; simp [eF, fmtF]; grind
@[simp] theorem zeroF_fmtF (op : BitVec 7) (fk : BitVec 4) (sc : BitVec 3) (e : BitVec 1) (zero : BitVec 17) :
    zeroF (fmtF op fk sc e zero) = zero := by
  apply BitVec.eq_of_getLsbD_eq; intro i hi; simp [zeroF, fmtF]; grind

/-! ### Fields within fields -/

@[simp] theorem lo2_kReg (k : BitVec 2) :
    lo2 (kReg k) = k := by
  apply BitVec.eq_of_getLsbD_eq; intro i hi; simp [lo2, kReg]; grind
@[simp] theorem hi3_kReg (k : BitVec 2) :
    hi3 (kReg k) = 0 := by
  apply BitVec.eq_of_getLsbD_eq; intro i hi; simp [hi3, kReg]; grind
@[simp] theorem lo2_qReg (q : BitVec 2) :
    lo2 (qReg q) = q := by
  apply BitVec.eq_of_getLsbD_eq; intro i hi; simp [lo2, qReg]; grind
@[simp] theorem hi3_qReg (q : BitVec 2) :
    hi3 (qReg q) = 7 := by
  apply BitVec.eq_of_getLsbD_eq; intro i hi; simp [hi3, qReg]; grind
@[simp] theorem shAmt_shImm (k : BitVec 2) (n : BitVec 6) :
    shAmt (shImm k n) = n := by
  apply BitVec.eq_of_getLsbD_eq; intro i hi; simp [shAmt, shImm]; grind
@[simp] theorem shKind_shImm (k : BitVec 2) (n : BitVec 6) :
    shKind (shImm k n) = k := by
  apply BitVec.eq_of_getLsbD_eq; intro i hi; simp [shKind, shImm]; grind
@[simp] theorem shTop_shImm (k : BitVec 2) (n : BitVec 6) :
    shTop (shImm k n) = 0 := by
  apply BitVec.eq_of_getLsbD_eq; intro i hi; simp [shTop, shImm]; grind
@[simp] theorem cvtTypeOf_append (p : BitVec 2) (u : BitVec 3) :
    cvtTypeOf (p ++ u) = u := by
  apply BitVec.eq_of_getLsbD_eq; intro i hi; simp [cvtTypeOf]; grind
@[simp] theorem cvtPartOf_append (p : BitVec 2) (u : BitVec 3) :
    cvtPartOf (p ++ u) = p := by
  apply BitVec.eq_of_getLsbD_eq; intro i hi; simp [cvtPartOf]; grind
@[simp] theorem xCtx_xWord (e : BitVec 2) (l : BitVec 8) :
    xCtx (xWord e l) = e := by
  apply BitVec.eq_of_getLsbD_eq; intro i hi; simp [xCtx, xWord]; grind
@[simp] theorem xLow_xWord (e : BitVec 2) (l : BitVec 8) :
    xLow (xWord e l) = l := by
  apply BitVec.eq_of_getLsbD_eq; intro i hi; simp [xLow, xWord]; grind
@[simp] theorem xBit_xWord (e : BitVec 2) (z : BitVec 1) :
    xBit (xWord e (0#7 ++ z)) = z := by
  apply BitVec.eq_of_getLsbD_eq; intro i hi; simp [xBit, xWord]; grind
@[simp] theorem xHi7_xWord (e : BitVec 2) (z : BitVec 1) :
    xHi7 (xWord e (0#7 ++ z)) = 0 := by
  apply BitVec.eq_of_getLsbD_eq; intro i hi; simp [xHi7, xWord]; grind
@[simp] theorem xIdx3_xWord (e : BitVec 2) (n : BitVec 3) :
    xIdx3 (xWord e (0#5 ++ n)) = n := by
  apply BitVec.eq_of_getLsbD_eq; intro i hi; simp [xIdx3, xWord]; grind
@[simp] theorem xHi5_xWord (e : BitVec 2) (n : BitVec 3) :
    xHi5 (xWord e (0#5 ++ n)) = 0 := by
  apply BitVec.eq_of_getLsbD_eq; intro i hi; simp [xHi5, xWord]; grind
@[simp] theorem xIdx6_xWord (e : BitVec 2) (n : BitVec 6) :
    xIdx6 (xWord e (0#2 ++ n)) = n := by
  apply BitVec.eq_of_getLsbD_eq; intro i hi; simp [xIdx6, xWord]; grind
@[simp] theorem xHi2_xWord (e : BitVec 2) (n : BitVec 6) :
    xHi2 (xWord e (0#2 ++ n)) = 0 := by
  apply BitVec.eq_of_getLsbD_eq; intro i hi; simp [xHi2, xWord]; grind

end Sys2Proof
end

