-- ==== Sys2Proof/Laws/PerInstr.lean ====
section
/-!
SUPPORT. The family Encoding, one lemma a constructor: decoding the encoded word of a well-formed instruction gives it
back (R29, R43). An event has no word and is not well formed.
-/
namespace Sys2Proof.Laws.Encoding

set_option Elab.async false

/-- Decode and encode agree on an instruction. -/
def Statement (i : Instr) : Prop := i.wellFormed = true → ∃ w, encode i = some w ∧ decode w = .ok i

/-- A word whose fields say a well-formed instruction and nothing else is that instruction. -/
theorem decode_of_raw {w : BitVec 32} {i : Instr} (h : rawDecode w = .ok ⟨i, {}⟩) (hw : i.wellFormed = true) :
    decode w = .ok i := by
  have hf : i.faults.or {} = i.faults := by simp [Faults.or]
  have h0 : i.faults.first = none := by simpa [Instr.wellFormed] using hw
  simp [decode, h, hf, h0]

theorem add (d a b : BitVec 5) (ma mb : BitVec 2) : Statement (.add d a b ma mb) :=
  fun h => ⟨_, rfl, decode_of_raw (by simp [rawDecode, rawAlu]) h⟩
theorem sub (d a b : BitVec 5) (ma mb : BitVec 2) : Statement (.sub d a b ma mb) :=
  fun h => ⟨_, rfl, decode_of_raw (by simp [rawDecode, rawAlu]) h⟩
theorem and (d a b : BitVec 5) (ma mb : BitVec 2) : Statement (.and d a b ma mb) :=
  fun h => ⟨_, rfl, decode_of_raw (by simp [rawDecode, rawAlu]) h⟩
theorem or (d a b : BitVec 5) (ma mb : BitVec 2) : Statement (.or d a b ma mb) :=
  fun h => ⟨_, rfl, decode_of_raw (by simp [rawDecode, rawAlu]) h⟩
theorem xor (d a b : BitVec 5) (ma mb : BitVec 2) : Statement (.xor d a b ma mb) :=
  fun h => ⟨_, rfl, decode_of_raw (by simp [rawDecode, rawAlu]) h⟩
theorem andn (d a b : BitVec 5) (ma mb : BitVec 2) : Statement (.andn d a b ma mb) :=
  fun h => ⟨_, rfl, decode_of_raw (by simp [rawDecode, rawAlu]) h⟩
theorem shl (d a b : BitVec 5) (ma mb : BitVec 2) : Statement (.shl d a b ma mb) :=
  fun h => ⟨_, rfl, decode_of_raw (by simp [rawDecode, rawAlu]) h⟩
theorem shr (d a b : BitVec 5) (ma mb : BitVec 2) : Statement (.shr d a b ma mb) :=
  fun h => ⟨_, rfl, decode_of_raw (by simp [rawDecode, rawAlu]) h⟩
theorem sra (d a b : BitVec 5) (ma mb : BitVec 2) : Statement (.sra d a b ma mb) :=
  fun h => ⟨_, rfl, decode_of_raw (by simp [rawDecode, rawAlu]) h⟩
theorem rot (d a b : BitVec 5) (ma mb : BitVec 2) : Statement (.rot d a b ma mb) :=
  fun h => ⟨_, rfl, decode_of_raw (by simp [rawDecode, rawAlu]) h⟩
theorem slt (d a b : BitVec 5) (ma mb : BitVec 2) : Statement (.slt d a b ma mb) :=
  fun h => ⟨_, rfl, decode_of_raw (by simp [rawDecode, rawAlu]) h⟩
theorem sltu (d a b : BitVec 5) (ma mb : BitVec 2) : Statement (.sltu d a b ma mb) :=
  fun h => ⟨_, rfl, decode_of_raw (by simp [rawDecode, rawAlu]) h⟩
theorem seq (d a b : BitVec 5) (ma mb : BitVec 2) : Statement (.seq d a b ma mb) :=
  fun h => ⟨_, rfl, decode_of_raw (by simp [rawDecode, rawAlu]) h⟩
theorem min (d a b : BitVec 5) (ma mb : BitVec 2) : Statement (.min d a b ma mb) :=
  fun h => ⟨_, rfl, decode_of_raw (by simp [rawDecode, rawAlu]) h⟩
theorem max (d a b : BitVec 5) (ma mb : BitVec 2) : Statement (.max d a b ma mb) :=
  fun h => ⟨_, rfl, decode_of_raw (by simp [rawDecode, rawAlu]) h⟩
theorem minu (d a b : BitVec 5) (ma mb : BitVec 2) : Statement (.minu d a b ma mb) :=
  fun h => ⟨_, rfl, decode_of_raw (by simp [rawDecode, rawAlu]) h⟩
theorem maxu (d a b : BitVec 5) (ma mb : BitVec 2) : Statement (.maxu d a b ma mb) :=
  fun h => ⟨_, rfl, decode_of_raw (by simp [rawDecode, rawAlu]) h⟩
theorem addw (d a b : BitVec 5) (ma mb : BitVec 2) : Statement (.addw d a b ma mb) :=
  fun h => ⟨_, rfl, decode_of_raw (by simp [rawDecode, rawAlu]) h⟩
theorem subw (d a b : BitVec 5) (ma mb : BitVec 2) : Statement (.subw d a b ma mb) :=
  fun h => ⟨_, rfl, decode_of_raw (by simp [rawDecode, rawAlu]) h⟩
theorem mul (d a b : BitVec 5) (ma mb : BitVec 2) : Statement (.mul d a b ma mb) :=
  fun h => ⟨_, rfl, decode_of_raw (by simp [rawDecode, rawMul]) h⟩
theorem mulh (d a b : BitVec 5) (ma mb : BitVec 2) : Statement (.mulh d a b ma mb) :=
  fun h => ⟨_, rfl, decode_of_raw (by simp [rawDecode, rawMul]) h⟩
theorem mulhu (d a b : BitVec 5) (ma mb : BitVec 2) : Statement (.mulhu d a b ma mb) :=
  fun h => ⟨_, rfl, decode_of_raw (by simp [rawDecode, rawMul]) h⟩
theorem div (d a b : BitVec 5) (ma mb : BitVec 2) : Statement (.div d a b ma mb) :=
  fun h => ⟨_, rfl, decode_of_raw (by simp [rawDecode, rawMul]) h⟩
theorem divu (d a b : BitVec 5) (ma mb : BitVec 2) : Statement (.divu d a b ma mb) :=
  fun h => ⟨_, rfl, decode_of_raw (by simp [rawDecode, rawMul]) h⟩
theorem rem (d a b : BitVec 5) (ma mb : BitVec 2) : Statement (.rem d a b ma mb) :=
  fun h => ⟨_, rfl, decode_of_raw (by simp [rawDecode, rawMul]) h⟩
theorem remu (d a b : BitVec 5) (ma mb : BitVec 2) : Statement (.remu d a b ma mb) :=
  fun h => ⟨_, rfl, decode_of_raw (by simp [rawDecode, rawMul]) h⟩
theorem clz (d a : BitVec 5) (ma : BitVec 2) : Statement (.clz d a ma) :=
  fun h => ⟨_, rfl, decode_of_raw (by simp [rawDecode, rawBit]) h⟩
theorem ctz (d a : BitVec 5) (ma : BitVec 2) : Statement (.ctz d a ma) :=
  fun h => ⟨_, rfl, decode_of_raw (by simp [rawDecode, rawBit]) h⟩
theorem popc (d a : BitVec 5) (ma : BitVec 2) : Statement (.popc d a ma) :=
  fun h => ⟨_, rfl, decode_of_raw (by simp [rawDecode, rawBit]) h⟩
theorem bext (d a b : BitVec 5) (ma mb : BitVec 2) : Statement (.bext d a b ma mb) :=
  fun h => ⟨_, rfl, decode_of_raw (by simp [rawDecode, rawBit]) h⟩
theorem bins (d a b : BitVec 5) (ma mb : BitVec 2) : Statement (.bins d a b ma mb) :=
  fun h => ⟨_, rfl, decode_of_raw (by simp [rawDecode, rawBit]) h⟩
theorem sext (d a b : BitVec 5) (ma mb : BitVec 2) : Statement (.sext d a b ma mb) :=
  fun h => ⟨_, rfl, decode_of_raw (by simp [rawDecode, rawBit]) h⟩
theorem zext (d a b : BitVec 5) (ma mb : BitVec 2) : Statement (.zext d a b ma mb) :=
  fun h => ⟨_, rfl, decode_of_raw (by simp [rawDecode, rawBit]) h⟩
theorem bswap (d a : BitVec 5) (ma : BitVec 2) : Statement (.bswap d a ma) :=
  fun h => ⟨_, rfl, decode_of_raw (by simp [rawDecode, rawBit]) h⟩
theorem nop : Statement .nop :=
  fun h => ⟨_, rfl, decode_of_raw (by simp [rawDecode, rawAddi]) h⟩
theorem addi (d a : BitVec 5) (ma : BitVec 2) (imm : BitVec 13) : Statement (.addi d a ma imm) := fun h => ⟨_, rfl, decode_of_raw (by
  have h1 : ¬ (d = 0 ∧ a = 0 ∧ ma = 0 ∧ imm = 0) := by rintro ⟨rfl, rfl, rfl, rfl⟩; exact absurd h (by decide)
  simpa [rawDecode, rawAddi] using h1) h⟩
theorem andi (d a : BitVec 5) (ma : BitVec 2) (imm : BitVec 13) : Statement (.andi d a ma imm) :=
  fun h => ⟨_, rfl, decode_of_raw (by simp [rawDecode]) h⟩
theorem ori (d a : BitVec 5) (ma : BitVec 2) (imm : BitVec 13) : Statement (.ori d a ma imm) :=
  fun h => ⟨_, rfl, decode_of_raw (by simp [rawDecode]) h⟩
theorem xori (d a : BitVec 5) (ma : BitVec 2) (imm : BitVec 13) : Statement (.xori d a ma imm) :=
  fun h => ⟨_, rfl, decode_of_raw (by simp [rawDecode]) h⟩
theorem slti (d a : BitVec 5) (ma : BitVec 2) (imm : BitVec 13) : Statement (.slti d a ma imm) :=
  fun h => ⟨_, rfl, decode_of_raw (by simp [rawDecode]) h⟩
theorem sltiu (d a : BitVec 5) (ma : BitVec 2) (imm : BitVec 13) : Statement (.sltiu d a ma imm) :=
  fun h => ⟨_, rfl, decode_of_raw (by simp [rawDecode]) h⟩
theorem shli (d a : BitVec 5) (ma : BitVec 2) (amt : BitVec 6) : Statement (.shli d a ma amt) :=
  fun h => ⟨_, rfl, decode_of_raw (by simp [rawDecode, rawShift]) h⟩
theorem shri (d a : BitVec 5) (ma : BitVec 2) (amt : BitVec 6) : Statement (.shri d a ma amt) :=
  fun h => ⟨_, rfl, decode_of_raw (by simp [rawDecode, rawShift]) h⟩
theorem srai (d a : BitVec 5) (ma : BitVec 2) (amt : BitVec 6) : Statement (.srai d a ma amt) :=
  fun h => ⟨_, rfl, decode_of_raw (by simp [rawDecode, rawShift]) h⟩
theorem roti (d a : BitVec 5) (ma : BitVec 2) (amt : BitVec 6) : Statement (.roti d a ma amt) :=
  fun h => ⟨_, rfl, decode_of_raw (by simp [rawDecode, rawShift]) h⟩
theorem lui (d : BitVec 5) (imm : BitVec 20) : Statement (.lui d imm) :=
  fun h => ⟨_, rfl, decode_of_raw (by simp [rawDecode]) h⟩
theorem auipc (d : BitVec 5) (imm : BitVec 20) : Statement (.auipc d imm) :=
  fun h => ⟨_, rfl, decode_of_raw (by simp [rawDecode]) h⟩
theorem jal (d : BitVec 5) (off : BitVec 20) : Statement (.jal d off) :=
  fun h => ⟨_, rfl, decode_of_raw (by simp [rawDecode]) h⟩
theorem jalr (d a : BitVec 5) (ma : BitVec 2) (imm : BitVec 13) : Statement (.jalr d a ma imm) :=
  fun h => ⟨_, rfl, decode_of_raw (by simp [rawDecode]) h⟩
theorem beq (a b : BitVec 5) (off : BitVec 12) : Statement (.beq a b off) :=
  fun h => ⟨_, rfl, decode_of_raw (by simp [rawDecode, rawBranch]) h⟩
theorem bne (a b : BitVec 5) (off : BitVec 12) : Statement (.bne a b off) :=
  fun h => ⟨_, rfl, decode_of_raw (by simp [rawDecode, rawBranch]) h⟩
theorem blt (a b : BitVec 5) (off : BitVec 12) : Statement (.blt a b off) :=
  fun h => ⟨_, rfl, decode_of_raw (by simp [rawDecode, rawBranch]) h⟩
theorem bge (a b : BitVec 5) (off : BitVec 12) : Statement (.bge a b off) :=
  fun h => ⟨_, rfl, decode_of_raw (by simp [rawDecode, rawBranch]) h⟩
theorem bltu (a b : BitVec 5) (off : BitVec 12) : Statement (.bltu a b off) :=
  fun h => ⟨_, rfl, decode_of_raw (by simp [rawDecode, rawBranch]) h⟩
theorem bgeu (a b : BitVec 5) (off : BitVec 12) : Statement (.bgeu a b off) :=
  fun h => ⟨_, rfl, decode_of_raw (by simp [rawDecode, rawBranch]) h⟩
theorem beqz (a : BitVec 5) (off : BitVec 12) : Statement (.beqz a off) :=
  fun h => ⟨_, rfl, decode_of_raw (by simp [rawDecode, rawBranch]) h⟩
theorem bnez (a : BitVec 5) (off : BitVec 12) : Statement (.bnez a off) :=
  fun h => ⟨_, rfl, decode_of_raw (by simp [rawDecode, rawBranch]) h⟩
theorem kmovg (d : BitVec 2) (a : BitVec 5) (ma : BitVec 2) : Statement (.kmovg d a ma) :=
  fun h => ⟨_, rfl, decode_of_raw (by simp [rawDecode, rawMask]) h⟩
theorem kmovk (d : BitVec 5) (a : BitVec 2) : Statement (.kmovk d a) :=
  fun h => ⟨_, rfl, decode_of_raw (by simp [rawDecode, rawMask]) h⟩
theorem kand (d a b : BitVec 2) : Statement (.kand d a b) :=
  fun h => ⟨_, rfl, decode_of_raw (by simp [rawDecode, rawMask]) h⟩
theorem kor (d a b : BitVec 2) : Statement (.kor d a b) :=
  fun h => ⟨_, rfl, decode_of_raw (by simp [rawDecode, rawMask]) h⟩
theorem kxor (d a b : BitVec 2) : Statement (.kxor d a b) :=
  fun h => ⟨_, rfl, decode_of_raw (by simp [rawDecode, rawMask]) h⟩
theorem knot (d a : BitVec 2) : Statement (.knot d a) :=
  fun h => ⟨_, rfl, decode_of_raw (by simp [rawDecode, rawMask]) h⟩
theorem kpop (d : BitVec 5) (a : BitVec 2) : Statement (.kpop d a) :=
  fun h => ⟨_, rfl, decode_of_raw (by simp [rawDecode, rawMask]) h⟩
theorem kfirst (d : BitVec 5) (a : BitVec 2) : Statement (.kfirst d a) :=
  fun h => ⟨_, rfl, decode_of_raw (by simp [rawDecode, rawMask]) h⟩
theorem ld (d a : BitVec 5) (sz : BitVec 2) (sc : BitVec 3) (mo : BitVec 2) (off : BitVec 8) : Statement (.ld d a sz sc mo off) :=
  fun h => ⟨_, rfl, decode_of_raw (by simp [rawDecode]) h⟩
theorem ldu (d a : BitVec 5) (sz : BitVec 2) (sc : BitVec 3) (mo : BitVec 2) (off : BitVec 8) : Statement (.ldu d a sz sc mo off) :=
  fun h => ⟨_, rfl, decode_of_raw (by simp [rawDecode]) h⟩
theorem st (d a : BitVec 5) (sz : BitVec 2) (sc : BitVec 3) (mo : BitVec 2) (off : BitVec 8) : Statement (.st d a sz sc mo off) :=
  fun h => ⟨_, rfl, decode_of_raw (by simp [rawDecode]) h⟩
theorem ldp (d a : BitVec 5) (sz : BitVec 2) (sc : BitVec 3) (off : BitVec 8) : Statement (.ldp d a sz sc off) :=
  fun h => ⟨_, rfl, decode_of_raw (by simp [rawDecode]) h⟩
theorem ldsync (d a : BitVec 5) (sz : BitVec 2) (sc : BitVec 3) (mo : BitVec 2) (off : BitVec 8) : Statement (.ldsync d a sz sc mo off) :=
  fun h => ⟨_, rfl, decode_of_raw (by simp [rawDecode]) h⟩
theorem stsync (d a : BitVec 5) (sz : BitVec 2) (sc : BitVec 3) (mo : BitVec 2) (off : BitVec 8) : Statement (.stsync d a sz sc mo off) :=
  fun h => ⟨_, rfl, decode_of_raw (by simp [rawDecode]) h⟩
theorem feclr (a : BitVec 5) (sc : BitVec 3) (mo : BitVec 2) (off : BitVec 8) : Statement (.feclr a sc mo off) :=
  fun h => ⟨_, rfl, decode_of_raw (by simp [rawDecode, rawFe]) h⟩
theorem feset (a : BitVec 5) (sc : BitVec 3) (mo : BitVec 2) (off : BitVec 8) : Statement (.feset a sc mo off) :=
  fun h => ⟨_, rfl, decode_of_raw (by simp [rawDecode, rawFe]) h⟩
theorem feprobe (d a : BitVec 5) (sc : BitVec 3) (mo : BitVec 2) (off : BitVec 8) : Statement (.feprobe d a sc mo off) :=
  fun h => ⟨_, rfl, decode_of_raw (by simp [rawDecode, rawFe]) h⟩
theorem ldmon (d a : BitVec 5) (sz : BitVec 2) (sc : BitVec 3) (mo : BitVec 2) (off : BitVec 8) : Statement (.ldmon d a sz sc mo off) :=
  fun h => ⟨_, rfl, decode_of_raw (by simp [rawDecode]) h⟩
theorem amoAdd (d a b : BitVec 5) (sc : BitVec 3) (mo : BitVec 2) : Statement (.amoAdd d a b sc mo) :=
  fun h => ⟨_, rfl, decode_of_raw (by simp [rawDecode, rawAmo]) h⟩
theorem amoAnd (d a b : BitVec 5) (sc : BitVec 3) (mo : BitVec 2) : Statement (.amoAnd d a b sc mo) :=
  fun h => ⟨_, rfl, decode_of_raw (by simp [rawDecode, rawAmo]) h⟩
theorem amoOr (d a b : BitVec 5) (sc : BitVec 3) (mo : BitVec 2) : Statement (.amoOr d a b sc mo) :=
  fun h => ⟨_, rfl, decode_of_raw (by simp [rawDecode, rawAmo]) h⟩
theorem amoXor (d a b : BitVec 5) (sc : BitVec 3) (mo : BitVec 2) : Statement (.amoXor d a b sc mo) :=
  fun h => ⟨_, rfl, decode_of_raw (by simp [rawDecode, rawAmo]) h⟩
theorem amoMin (d a b : BitVec 5) (sc : BitVec 3) (mo : BitVec 2) : Statement (.amoMin d a b sc mo) :=
  fun h => ⟨_, rfl, decode_of_raw (by simp [rawDecode, rawAmo]) h⟩
theorem amoMax (d a b : BitVec 5) (sc : BitVec 3) (mo : BitVec 2) : Statement (.amoMax d a b sc mo) :=
  fun h => ⟨_, rfl, decode_of_raw (by simp [rawDecode, rawAmo]) h⟩
theorem amoMinu (d a b : BitVec 5) (sc : BitVec 3) (mo : BitVec 2) : Statement (.amoMinu d a b sc mo) :=
  fun h => ⟨_, rfl, decode_of_raw (by simp [rawDecode, rawAmo]) h⟩
theorem amoMaxu (d a b : BitVec 5) (sc : BitVec 3) (mo : BitVec 2) : Statement (.amoMaxu d a b sc mo) :=
  fun h => ⟨_, rfl, decode_of_raw (by simp [rawDecode, rawAmo]) h⟩
theorem amoSwap (d a b : BitVec 5) (sc : BitVec 3) (mo : BitVec 2) : Statement (.amoSwap d a b sc mo) :=
  fun h => ⟨_, rfl, decode_of_raw (by simp [rawDecode, rawAmo]) h⟩
theorem amoFadd (d a b : BitVec 5) (sc : BitVec 3) (mo : BitVec 2) : Statement (.amoFadd d a b sc mo) :=
  fun h => ⟨_, rfl, decode_of_raw (by simp [rawDecode, rawAmo]) h⟩
theorem amoFmin (d a b : BitVec 5) (sc : BitVec 3) (mo : BitVec 2) : Statement (.amoFmin d a b sc mo) :=
  fun h => ⟨_, rfl, decode_of_raw (by simp [rawDecode, rawAmo]) h⟩
theorem amoFmax (d a b : BitVec 5) (sc : BitVec 3) (mo : BitVec 2) : Statement (.amoFmax d a b sc mo) :=
  fun h => ⟨_, rfl, decode_of_raw (by simp [rawDecode, rawAmo]) h⟩
theorem casW (d a b : BitVec 5) (sc : BitVec 3) (mo : BitVec 2) : Statement (.casW d a b sc mo) :=
  fun h => ⟨_, rfl, decode_of_raw (by simp [rawDecode, rawCas]) h⟩
theorem casD (d a b : BitVec 5) (sc : BitVec 3) (mo : BitVec 2) : Statement (.casD d a b sc mo) :=
  fun h => ⟨_, rfl, decode_of_raw (by simp [rawDecode, rawCas]) h⟩
theorem redAdd (a b : BitVec 5) (sc : BitVec 3) : Statement (.redAdd a b sc) :=
  fun h => ⟨_, rfl, decode_of_raw (by simp [rawDecode, rawRed]) h⟩
theorem redAnd (a b : BitVec 5) (sc : BitVec 3) : Statement (.redAnd a b sc) :=
  fun h => ⟨_, rfl, decode_of_raw (by simp [rawDecode, rawRed]) h⟩
theorem redOr (a b : BitVec 5) (sc : BitVec 3) : Statement (.redOr a b sc) :=
  fun h => ⟨_, rfl, decode_of_raw (by simp [rawDecode, rawRed]) h⟩
theorem redXor (a b : BitVec 5) (sc : BitVec 3) : Statement (.redXor a b sc) :=
  fun h => ⟨_, rfl, decode_of_raw (by simp [rawDecode, rawRed]) h⟩
theorem redMin (a b : BitVec 5) (sc : BitVec 3) : Statement (.redMin a b sc) :=
  fun h => ⟨_, rfl, decode_of_raw (by simp [rawDecode, rawRed]) h⟩
theorem redMax (a b : BitVec 5) (sc : BitVec 3) : Statement (.redMax a b sc) :=
  fun h => ⟨_, rfl, decode_of_raw (by simp [rawDecode, rawRed]) h⟩
theorem redMinu (a b : BitVec 5) (sc : BitVec 3) : Statement (.redMinu a b sc) :=
  fun h => ⟨_, rfl, decode_of_raw (by simp [rawDecode, rawRed]) h⟩
theorem redMaxu (a b : BitVec 5) (sc : BitVec 3) : Statement (.redMaxu a b sc) :=
  fun h => ⟨_, rfl, decode_of_raw (by simp [rawDecode, rawRed]) h⟩
theorem redFadd (a b : BitVec 5) (sc : BitVec 3) : Statement (.redFadd a b sc) :=
  fun h => ⟨_, rfl, decode_of_raw (by simp [rawDecode, rawRed]) h⟩
theorem redFmin (a b : BitVec 5) (sc : BitVec 3) : Statement (.redFmin a b sc) :=
  fun h => ⟨_, rfl, decode_of_raw (by simp [rawDecode, rawRed]) h⟩
theorem redFmax (a b : BitVec 5) (sc : BitVec 3) : Statement (.redFmax a b sc) :=
  fun h => ⟨_, rfl, decode_of_raw (by simp [rawDecode, rawRed]) h⟩
theorem fence (fk : BitVec 4) (sc : BitVec 3) (e : BitVec 1) : Statement (.fence fk sc e) :=
  fun h => ⟨_, rfl, decode_of_raw (by simp [rawDecode]) h⟩
theorem pref (a : BitVec 5) (sc : BitVec 3) (off : BitVec 8) : Statement (.pref a sc off) :=
  fun h => ⟨_, rfl, decode_of_raw (by simp [rawDecode, rawCache]) h⟩
theorem cflush (a : BitVec 5) (sc : BitVec 3) (off : BitVec 8) : Statement (.cflush a sc off) :=
  fun h => ⟨_, rfl, decode_of_raw (by simp [rawDecode, rawCache]) h⟩
theorem cinval (a : BitVec 5) (sc : BitVec 3) (off : BitVec 8) : Statement (.cinval a sc off) :=
  fun h => ⟨_, rfl, decode_of_raw (by simp [rawDecode, rawCache]) h⟩
theorem vadd (d a b : BitVec 5) (k : BitVec 2) (t : BitVec 3) : Statement (.vadd d a b k t) :=
  fun h => ⟨_, rfl, decode_of_raw (by simp [rawDecode, rawVInt]) h⟩
theorem vsub (d a b : BitVec 5) (k : BitVec 2) (t : BitVec 3) : Statement (.vsub d a b k t) :=
  fun h => ⟨_, rfl, decode_of_raw (by simp [rawDecode, rawVInt]) h⟩
theorem vmul (d a b : BitVec 5) (k : BitVec 2) (t : BitVec 3) : Statement (.vmul d a b k t) :=
  fun h => ⟨_, rfl, decode_of_raw (by simp [rawDecode, rawVInt]) h⟩
theorem vmulh (d a b : BitVec 5) (k : BitVec 2) (t : BitVec 3) : Statement (.vmulh d a b k t) :=
  fun h => ⟨_, rfl, decode_of_raw (by simp [rawDecode, rawVInt]) h⟩
theorem vmin (d a b : BitVec 5) (k : BitVec 2) (t : BitVec 3) : Statement (.vmin d a b k t) :=
  fun h => ⟨_, rfl, decode_of_raw (by simp [rawDecode, rawVInt]) h⟩
theorem vmax (d a b : BitVec 5) (k : BitVec 2) (t : BitVec 3) : Statement (.vmax d a b k t) :=
  fun h => ⟨_, rfl, decode_of_raw (by simp [rawDecode, rawVInt]) h⟩
theorem vminu (d a b : BitVec 5) (k : BitVec 2) (t : BitVec 3) : Statement (.vminu d a b k t) :=
  fun h => ⟨_, rfl, decode_of_raw (by simp [rawDecode, rawVInt]) h⟩
theorem vmaxu (d a b : BitVec 5) (k : BitVec 2) (t : BitVec 3) : Statement (.vmaxu d a b k t) :=
  fun h => ⟨_, rfl, decode_of_raw (by simp [rawDecode, rawVInt]) h⟩
theorem vabs (d a : BitVec 5) (k : BitVec 2) (t : BitVec 3) : Statement (.vabs d a k t) :=
  fun h => ⟨_, rfl, decode_of_raw (by simp [rawDecode, rawVInt]) h⟩
theorem vmac (d a b : BitVec 5) (k : BitVec 2) (t : BitVec 3) : Statement (.vmac d a b k t) :=
  fun h => ⟨_, rfl, decode_of_raw (by simp [rawDecode, rawVInt]) h⟩
theorem vfadd (d a b : BitVec 5) (k : BitVec 2) (t : BitVec 3) : Statement (.vfadd d a b k t) :=
  fun h => ⟨_, rfl, decode_of_raw (by simp [rawDecode, rawVFloat]) h⟩
theorem vfsub (d a b : BitVec 5) (k : BitVec 2) (t : BitVec 3) : Statement (.vfsub d a b k t) :=
  fun h => ⟨_, rfl, decode_of_raw (by simp [rawDecode, rawVFloat]) h⟩
theorem vfmul (d a b : BitVec 5) (k : BitVec 2) (t : BitVec 3) : Statement (.vfmul d a b k t) :=
  fun h => ⟨_, rfl, decode_of_raw (by simp [rawDecode, rawVFloat]) h⟩
theorem vfma (d a b : BitVec 5) (k : BitVec 2) (t : BitVec 3) : Statement (.vfma d a b k t) :=
  fun h => ⟨_, rfl, decode_of_raw (by simp [rawDecode, rawVFloat]) h⟩
theorem vfmin (d a b : BitVec 5) (k : BitVec 2) (t : BitVec 3) : Statement (.vfmin d a b k t) :=
  fun h => ⟨_, rfl, decode_of_raw (by simp [rawDecode, rawVFloat]) h⟩
theorem vfmax (d a b : BitVec 5) (k : BitVec 2) (t : BitVec 3) : Statement (.vfmax d a b k t) :=
  fun h => ⟨_, rfl, decode_of_raw (by simp [rawDecode, rawVFloat]) h⟩
theorem vfabs (d a : BitVec 5) (k : BitVec 2) (t : BitVec 3) : Statement (.vfabs d a k t) :=
  fun h => ⟨_, rfl, decode_of_raw (by simp [rawDecode, rawVFloat]) h⟩
theorem vfneg (d a : BitVec 5) (k : BitVec 2) (t : BitVec 3) : Statement (.vfneg d a k t) :=
  fun h => ⟨_, rfl, decode_of_raw (by simp [rawDecode, rawVFloat]) h⟩
theorem vfrcp (d a : BitVec 5) (k : BitVec 2) (t : BitVec 3) : Statement (.vfrcp d a k t) :=
  fun h => ⟨_, rfl, decode_of_raw (by simp [rawDecode, rawVFloat]) h⟩
theorem vfrsq (d a : BitVec 5) (k : BitVec 2) (t : BitVec 3) : Statement (.vfrsq d a k t) :=
  fun h => ⟨_, rfl, decode_of_raw (by simp [rawDecode, rawVFloat]) h⟩
theorem vfdiv (d a b : BitVec 5) (k : BitVec 2) (t : BitVec 3) : Statement (.vfdiv d a b k t) :=
  fun h => ⟨_, rfl, decode_of_raw (by simp [rawDecode, rawVFloat]) h⟩
theorem vfsqrt (d a : BitVec 5) (k : BitVec 2) (t : BitVec 3) : Statement (.vfsqrt d a k t) :=
  fun h => ⟨_, rfl, decode_of_raw (by simp [rawDecode, rawVFloat]) h⟩
theorem vand (d a b : BitVec 5) (k : BitVec 2) (t : BitVec 3) : Statement (.vand d a b k t) :=
  fun h => ⟨_, rfl, decode_of_raw (by simp [rawDecode, rawVLogic]) h⟩
theorem vor (d a b : BitVec 5) (k : BitVec 2) (t : BitVec 3) : Statement (.vor d a b k t) :=
  fun h => ⟨_, rfl, decode_of_raw (by simp [rawDecode, rawVLogic]) h⟩
theorem vxor (d a b : BitVec 5) (k : BitVec 2) (t : BitVec 3) : Statement (.vxor d a b k t) :=
  fun h => ⟨_, rfl, decode_of_raw (by simp [rawDecode, rawVLogic]) h⟩
theorem vnot (d a : BitVec 5) (k : BitVec 2) (t : BitVec 3) : Statement (.vnot d a k t) :=
  fun h => ⟨_, rfl, decode_of_raw (by simp [rawDecode, rawVLogic]) h⟩
theorem vshl (d a b : BitVec 5) (k : BitVec 2) (t : BitVec 3) : Statement (.vshl d a b k t) :=
  fun h => ⟨_, rfl, decode_of_raw (by simp [rawDecode, rawVLogic]) h⟩
theorem vshr (d a b : BitVec 5) (k : BitVec 2) (t : BitVec 3) : Statement (.vshr d a b k t) :=
  fun h => ⟨_, rfl, decode_of_raw (by simp [rawDecode, rawVLogic]) h⟩
theorem vsra (d a b : BitVec 5) (k : BitVec 2) (t : BitVec 3) : Statement (.vsra d a b k t) :=
  fun h => ⟨_, rfl, decode_of_raw (by simp [rawDecode, rawVLogic]) h⟩
theorem vcmpEq (d : BitVec 2) (a b : BitVec 5) (k : BitVec 2) (t : BitVec 3) : Statement (.vcmpEq d a b k t) :=
  fun h => ⟨_, rfl, decode_of_raw (by simp [rawDecode, rawVCmp]) h⟩
theorem vcmpLt (d : BitVec 2) (a b : BitVec 5) (k : BitVec 2) (t : BitVec 3) : Statement (.vcmpLt d a b k t) :=
  fun h => ⟨_, rfl, decode_of_raw (by simp [rawDecode, rawVCmp]) h⟩
theorem vcmpLtu (d : BitVec 2) (a b : BitVec 5) (k : BitVec 2) (t : BitVec 3) : Statement (.vcmpLtu d a b k t) :=
  fun h => ⟨_, rfl, decode_of_raw (by simp [rawDecode, rawVCmp]) h⟩
theorem vfcmpEq (d : BitVec 2) (a b : BitVec 5) (k : BitVec 2) (t : BitVec 3) : Statement (.vfcmpEq d a b k t) :=
  fun h => ⟨_, rfl, decode_of_raw (by simp [rawDecode, rawVCmp]) h⟩
theorem vfcmpLt (d : BitVec 2) (a b : BitVec 5) (k : BitVec 2) (t : BitVec 3) : Statement (.vfcmpLt d a b k t) :=
  fun h => ⟨_, rfl, decode_of_raw (by simp [rawDecode, rawVCmp]) h⟩
theorem vfcmpLe (d : BitVec 2) (a b : BitVec 5) (k : BitVec 2) (t : BitVec 3) : Statement (.vfcmpLe d a b k t) :=
  fun h => ⟨_, rfl, decode_of_raw (by simp [rawDecode, rawVCmp]) h⟩
theorem vfcmpUn (d : BitVec 2) (a b : BitVec 5) (k : BitVec 2) (t : BitVec 3) : Statement (.vfcmpUn d a b k t) :=
  fun h => ⟨_, rfl, decode_of_raw (by simp [rawDecode, rawVCmp]) h⟩
theorem vsel (d a b : BitVec 5) (k : BitVec 2) (t : BitVec 3) : Statement (.vsel d a b k t) :=
  fun h => ⟨_, rfl, decode_of_raw (by simp [rawDecode, rawVCmp]) h⟩
theorem vbcast (d a : BitVec 5) (k : BitVec 2) (t : BitVec 3) : Statement (.vbcast d a k t) :=
  fun h => ⟨_, rfl, decode_of_raw (by simp [rawDecode, rawVMove]) h⟩
theorem vext (d a b : BitVec 5) (t : BitVec 3) : Statement (.vext d a b t) :=
  fun h => ⟨_, rfl, decode_of_raw (by simp [rawDecode, rawVMove]) h⟩
theorem vins (d a b : BitVec 5) (t : BitVec 3) : Statement (.vins d a b t) :=
  fun h => ⟨_, rfl, decode_of_raw (by simp [rawDecode, rawVMove]) h⟩
theorem vperm (d a b : BitVec 5) (k : BitVec 2) (t : BitVec 3) : Statement (.vperm d a b k t) :=
  fun h => ⟨_, rfl, decode_of_raw (by simp [rawDecode, rawVMove]) h⟩
theorem vrot (d a b : BitVec 5) (k : BitVec 2) (t : BitVec 3) : Statement (.vrot d a b k t) :=
  fun h => ⟨_, rfl, decode_of_raw (by simp [rawDecode, rawVMove]) h⟩
theorem vredadd (d a : BitVec 5) (k : BitVec 2) (t : BitVec 3) : Statement (.vredadd d a k t) :=
  fun h => ⟨_, rfl, decode_of_raw (by simp [rawDecode, rawVMove]) h⟩
theorem vredmin (d a : BitVec 5) (k : BitVec 2) (t : BitVec 3) : Statement (.vredmin d a k t) :=
  fun h => ⟨_, rfl, decode_of_raw (by simp [rawDecode, rawVMove]) h⟩
theorem vredmax (d a : BitVec 5) (k : BitVec 2) (t : BitVec 3) : Statement (.vredmax d a k t) :=
  fun h => ⟨_, rfl, decode_of_raw (by simp [rawDecode, rawVMove]) h⟩
theorem vfredadd (d a : BitVec 5) (k : BitVec 2) (t : BitVec 3) : Statement (.vfredadd d a k t) :=
  fun h => ⟨_, rfl, decode_of_raw (by simp [rawDecode, rawVMove]) h⟩
theorem vcompress (d a : BitVec 5) (k : BitVec 2) (t : BitVec 3) : Statement (.vcompress d a k t) :=
  fun h => ⟨_, rfl, decode_of_raw (by simp [rawDecode, rawVMove]) h⟩
theorem vexpand (d a : BitVec 5) (k : BitVec 2) (t : BitVec 3) : Statement (.vexpand d a k t) :=
  fun h => ⟨_, rfl, decode_of_raw (by simp [rawDecode, rawVMove]) h⟩
theorem vcvt (d a : BitVec 5) (part : BitVec 2) (u : BitVec 3) (k : BitVec 2) (s : BitVec 3) : Statement (.vcvt d a part u k s) :=
  fun h => ⟨_, rfl, decode_of_raw (by simp [rawDecode, rawVConv]) h⟩
theorem vdec (d a fmt : BitVec 5) (k : BitVec 2) (t : BitVec 3) : Statement (.vdec d a fmt k t) :=
  fun h => ⟨_, rfl, decode_of_raw (by simp [rawDecode, rawVConv]) h⟩
theorem venc (d a fmt : BitVec 5) (k : BitVec 2) (t : BitVec 3) : Statement (.venc d a fmt k t) :=
  fun h => ⟨_, rfl, decode_of_raw (by simp [rawDecode, rawVConv]) h⟩
theorem vtabld (a : BitVec 5) (bank : BitVec 2) : Statement (.vtabld a bank) :=
  fun h => ⟨_, rfl, decode_of_raw (by simp [rawDecode, rawVConv]) h⟩
theorem vscale (d a b : BitVec 5) (k : BitVec 2) (t : BitVec 3) : Statement (.vscale d a b k t) :=
  fun h => ⟨_, rfl, decode_of_raw (by simp [rawDecode, rawVConv]) h⟩
theorem vld (d a : BitVec 5) (k : BitVec 2) (t : BitVec 3) : Statement (.vld d a k t) :=
  fun h => ⟨_, rfl, decode_of_raw (by simp [rawDecode, rawVLoad]) h⟩
theorem vlds (d a b : BitVec 5) (k : BitVec 2) (t : BitVec 3) : Statement (.vlds d a b k t) :=
  fun h => ⟨_, rfl, decode_of_raw (by simp [rawDecode, rawVLoad]) h⟩
theorem vldx (d a b : BitVec 5) (k : BitVec 2) (t : BitVec 3) : Statement (.vldx d a b k t) :=
  fun h => ⟨_, rfl, decode_of_raw (by simp [rawDecode, rawVLoad]) h⟩
theorem vldb (d a : BitVec 5) (k : BitVec 2) (t : BitVec 3) : Statement (.vldb d a k t) :=
  fun h => ⟨_, rfl, decode_of_raw (by simp [rawDecode, rawVLoad]) h⟩
theorem vst (d a : BitVec 5) (k : BitVec 2) (t : BitVec 3) : Statement (.vst d a k t) :=
  fun h => ⟨_, rfl, decode_of_raw (by simp [rawDecode, rawVStore]) h⟩
theorem vsts (d a b : BitVec 5) (k : BitVec 2) (t : BitVec 3) : Statement (.vsts d a b k t) :=
  fun h => ⟨_, rfl, decode_of_raw (by simp [rawDecode, rawVStore]) h⟩
theorem vstx (d a b : BitVec 5) (k : BitVec 2) (t : BitVec 3) : Statement (.vstx d a b k t) :=
  fun h => ⟨_, rfl, decode_of_raw (by simp [rawDecode, rawVStore]) h⟩
theorem spawn (d a b : BitVec 5) (ma mb : BitVec 2) : Statement (.spawn d a b ma mb) :=
  fun h => ⟨_, rfl, decode_of_raw (by simp [rawDecode, rawThread]) h⟩
theorem yield : Statement .yield :=
  fun h => ⟨_, rfl, decode_of_raw (by simp [rawDecode, rawThread]) h⟩
theorem quit : Statement .quit :=
  fun h => ⟨_, rfl, decode_of_raw (by simp [rawDecode, rawThread]) h⟩
theorem susp : Statement .susp :=
  fun h => ⟨_, rfl, decode_of_raw (by simp [rawDecode, rawThread]) h⟩
theorem tid (d : BitVec 5) : Statement (.tid d) :=
  fun h => ⟨_, rfl, decode_of_raw (by simp [rawDecode, rawThread]) h⟩
theorem migr (d a : BitVec 5) (ma : BitVec 2) : Statement (.migr d a ma) :=
  fun h => ⟨_, rfl, decode_of_raw (by simp [rawDecode, rawThread]) h⟩
theorem send (d a b : BitVec 5) (ma mb : BitVec 2) : Statement (.send d a b ma mb) :=
  fun h => ⟨_, rfl, decode_of_raw (by simp [rawDecode, rawMsg]) h⟩
theorem sendg (d a b : BitVec 5) (ma mb : BitVec 2) : Statement (.sendg d a b ma mb) :=
  fun h => ⟨_, rfl, decode_of_raw (by simp [rawDecode, rawMsg]) h⟩
theorem recv : Statement .recv :=
  fun h => ⟨_, rfl, decode_of_raw (by simp [rawDecode, rawMsg]) h⟩
theorem rpeek (d : BitVec 5) : Statement (.rpeek d) :=
  fun h => ⟨_, rfl, decode_of_raw (by simp [rawDecode, rawMsg]) h⟩
theorem qbind (q : BitVec 2) (a : BitVec 5) (ma : BitVec 2) : Statement (.qbind q a ma) :=
  fun h => ⟨_, rfl, decode_of_raw (by simp [rawDecode, rawQueue]) h⟩
theorem qstat (d : BitVec 5) (q : BitVec 2) : Statement (.qstat d q) :=
  fun h => ⟨_, rfl, decode_of_raw (by simp [rawDecode, rawQueue]) h⟩
theorem qunbind (q : BitVec 2) : Statement (.qunbind q) :=
  fun h => ⟨_, rfl, decode_of_raw (by simp [rawDecode, rawQueue]) h⟩
theorem qclose (q : BitVec 2) : Statement (.qclose q) :=
  fun h => ⟨_, rfl, decode_of_raw (by simp [rawDecode, rawQueue]) h⟩
theorem tdecl (d a : BitVec 5) (ma : BitVec 2) : Statement (.tdecl d a ma) :=
  fun h => ⟨_, rfl, decode_of_raw (by simp [rawDecode, rawTile]) h⟩
theorem tfree (a : BitVec 5) (ma : BitVec 2) : Statement (.tfree a ma) :=
  fun h => ⟨_, rfl, decode_of_raw (by simp [rawDecode, rawTile]) h⟩
theorem tstage (d a b : BitVec 5) (ma mb : BitVec 2) : Statement (.tstage d a b ma mb) :=
  fun h => ⟨_, rfl, decode_of_raw (by simp [rawDecode, rawTile]) h⟩
theorem tdrain (a : BitVec 5) (ma : BitVec 2) : Statement (.tdrain a ma) :=
  fun h => ⟨_, rfl, decode_of_raw (by simp [rawDecode, rawTile]) h⟩
theorem ttag (d a : BitVec 5) (ma : BitVec 2) : Statement (.ttag d a ma) :=
  fun h => ⟨_, rfl, decode_of_raw (by simp [rawDecode, rawTile]) h⟩
theorem tsettag (a b : BitVec 5) (ma mb : BitVec 2) : Statement (.tsettag a b ma mb) :=
  fun h => ⟨_, rfl, decode_of_raw (by simp [rawDecode, rawTile]) h⟩
theorem tinv (a : BitVec 5) (ma : BitVec 2) : Statement (.tinv a ma) :=
  fun h => ⟨_, rfl, decode_of_raw (by simp [rawDecode, rawTile]) h⟩
theorem mcast (d a b : BitVec 5) (ma mb : BitVec 2) : Statement (.mcast d a b ma mb) :=
  fun h => ⟨_, rfl, decode_of_raw (by simp [rawDecode, rawTile]) h⟩
theorem tfwd (d a b : BitVec 5) (ma mb : BitVec 2) : Statement (.tfwd d a b ma mb) :=
  fun h => ⟨_, rfl, decode_of_raw (by simp [rawDecode, rawTile]) h⟩
theorem tbst (a b : BitVec 5) (ma mb : BitVec 2) : Statement (.tbst a b ma mb) :=
  fun h => ⟨_, rfl, decode_of_raw (by simp [rawDecode, rawTile]) h⟩
theorem mma (a b : BitVec 5) (e : BitVec 2) (z : BitVec 1) : Statement (.mma a b e z) :=
  fun h => ⟨_, rfl, decode_of_raw (by simp [rawDecode, rawArray]) h⟩
theorem mmas (a b : BitVec 5) (e : BitVec 2) (z : BitVec 1) : Statement (.mmas a b e z) :=
  fun h => ⟨_, rfl, decode_of_raw (by simp [rawDecode, rawArray]) h⟩
theorem mset (a : BitVec 5) (e : BitVec 2) (idx : BitVec 3) : Statement (.mset a e idx) :=
  fun h => ⟨_, rfl, decode_of_raw (by simp [rawDecode, rawArray]) h⟩
theorem mscale (a b : BitVec 5) (e : BitVec 2) : Statement (.mscale a b e) :=
  fun h => ⟨_, rfl, decode_of_raw (by simp [rawDecode, rawArray]) h⟩
theorem acczero (b : BitVec 5) (e : BitVec 2) : Statement (.acczero b e) :=
  fun h => ⟨_, rfl, decode_of_raw (by simp [rawDecode, rawArray]) h⟩
theorem accld (a b : BitVec 5) (e : BitVec 2) : Statement (.accld a b e) :=
  fun h => ⟨_, rfl, decode_of_raw (by simp [rawDecode, rawArray]) h⟩
theorem accst (a b : BitVec 5) (e : BitVec 2) : Statement (.accst a b e) :=
  fun h => ⟨_, rfl, decode_of_raw (by simp [rawDecode, rawArray]) h⟩
theorem mget (d a b : BitVec 5) (ma mb : BitVec 2) : Statement (.mget d a b ma mb) :=
  fun h => ⟨_, rfl, decode_of_raw (by simp [rawDecode, rawAcc]) h⟩
theorem accrd (d a : BitVec 5) (ma : BitVec 2) : Statement (.accrd d a ma) :=
  fun h => ⟨_, rfl, decode_of_raw (by simp [rawDecode, rawAcc]) h⟩
theorem accwr (a b : BitVec 5) (ma mb : BitVec 2) : Statement (.accwr a b ma mb) :=
  fun h => ⟨_, rfl, decode_of_raw (by simp [rawDecode, rawAcc]) h⟩
theorem mstat (d a : BitVec 5) (ma : BitVec 2) : Statement (.mstat d a ma) :=
  fun h => ⟨_, rfl, decode_of_raw (by simp [rawDecode, rawAcc]) h⟩
theorem xcopy (a b : BitVec 5) (e : BitVec 2) : Statement (.xcopy a b e) :=
  fun h => ⟨_, rfl, decode_of_raw (by simp [rawDecode, rawCopy]) h⟩
theorem xset (a : BitVec 5) (e : BitVec 2) (idx : BitVec 6) : Statement (.xset a e idx) :=
  fun h => ⟨_, rfl, decode_of_raw (by simp [rawDecode, rawCopy]) h⟩
theorem xfill (a b : BitVec 5) (e : BitVec 2) : Statement (.xfill a b e) :=
  fun h => ⟨_, rfl, decode_of_raw (by simp [rawDecode, rawCopy]) h⟩
theorem xcancel (e : BitVec 2) (rel : BitVec 1) : Statement (.xcancel e rel) :=
  fun h => ⟨_, rfl, decode_of_raw (by simp [rawDecode, rawCopy]) h⟩
theorem barInit (a b : BitVec 5) (ma mb : BitVec 2) : Statement (.barInit a b ma mb) :=
  fun h => ⟨_, rfl, decode_of_raw (by simp [rawDecode, rawBar]) h⟩
theorem barArrive (d a b : BitVec 5) (ma mb : BitVec 2) : Statement (.barArrive d a b ma mb) :=
  fun h => ⟨_, rfl, decode_of_raw (by simp [rawDecode, rawBar]) h⟩
theorem barExpect (d a b : BitVec 5) (ma mb : BitVec 2) : Statement (.barExpect d a b ma mb) :=
  fun h => ⟨_, rfl, decode_of_raw (by simp [rawDecode, rawBar]) h⟩
theorem barArm (a b : BitVec 5) (ma mb : BitVec 2) : Statement (.barArm a b ma mb) :=
  fun h => ⟨_, rfl, decode_of_raw (by simp [rawDecode, rawBar]) h⟩
theorem barInval (a : BitVec 5) (ma : BitVec 2) : Statement (.barInval a ma) :=
  fun h => ⟨_, rfl, decode_of_raw (by simp [rawDecode, rawBar]) h⟩
theorem tlRead (d a b : BitVec 5) (ma mb : BitVec 2) : Statement (.tlRead d a b ma mb) :=
  fun h => ⟨_, rfl, decode_of_raw (by simp [rawDecode, rawLine]) h⟩
theorem tlArm (a b : BitVec 5) (ma mb : BitVec 2) : Statement (.tlArm a b ma mb) :=
  fun h => ⟨_, rfl, decode_of_raw (by simp [rawDecode, rawLine]) h⟩
theorem taskSub (d a b : BitVec 5) (ma mb : BitVec 2) : Statement (.taskSub d a b ma mb) :=
  fun h => ⟨_, rfl, decode_of_raw (by simp [rawDecode, rawTask]) h⟩
theorem taskDone (a b : BitVec 5) (ma mb : BitVec 2) : Statement (.taskDone a b ma mb) :=
  fun h => ⟨_, rfl, decode_of_raw (by simp [rawDecode, rawTask]) h⟩
theorem taskDep (d a b : BitVec 5) (ma mb : BitVec 2) : Statement (.taskDep d a b ma mb) :=
  fun h => ⟨_, rfl, decode_of_raw (by simp [rawDecode, rawTask]) h⟩
theorem taskInfo (d a b : BitVec 5) (ma mb : BitVec 2) : Statement (.taskInfo d a b ma mb) :=
  fun h => ⟨_, rfl, decode_of_raw (by simp [rawDecode, rawTask]) h⟩
theorem grpInfo (d a b : BitVec 5) (ma mb : BitVec 2) : Statement (.grpInfo d a b ma mb) :=
  fun h => ⟨_, rfl, decode_of_raw (by simp [rawDecode, rawGroup]) h⟩
theorem collStart (d a b : BitVec 5) (ma mb : BitVec 2) : Statement (.collStart d a b ma mb) :=
  fun h => ⟨_, rfl, decode_of_raw (by simp [rawDecode, rawGroup]) h⟩
theorem collStat (d a : BitVec 5) (ma : BitVec 2) : Statement (.collStat d a ma) :=
  fun h => ⟨_, rfl, decode_of_raw (by simp [rawDecode, rawGroup]) h⟩
theorem stoRead (d a : BitVec 5) (ma : BitVec 2) : Statement (.stoRead d a ma) :=
  fun h => ⟨_, rfl, decode_of_raw (by simp [rawDecode, rawSto]) h⟩
theorem stoWrite (d a : BitVec 5) (ma : BitVec 2) : Statement (.stoWrite d a ma) :=
  fun h => ⟨_, rfl, decode_of_raw (by simp [rawDecode, rawSto]) h⟩
theorem stoSync (d a : BitVec 5) (ma : BitVec 2) : Statement (.stoSync d a ma) :=
  fun h => ⟨_, rfl, decode_of_raw (by simp [rawDecode, rawSto]) h⟩
theorem csrRd (d : BitVec 5) (csr : BitVec 12) : Statement (.csrRd d csr) :=
  fun h => ⟨_, rfl, decode_of_raw (by simp [rawDecode, rawCsr]) h⟩
theorem csrWr (a : BitVec 5) (csr : BitVec 12) : Statement (.csrWr a csr) :=
  fun h => ⟨_, rfl, decode_of_raw (by simp [rawDecode, rawCsr]) h⟩
theorem csrSet (a : BitVec 5) (csr : BitVec 12) : Statement (.csrSet a csr) :=
  fun h => ⟨_, rfl, decode_of_raw (by simp [rawDecode, rawCsr]) h⟩
theorem csrClr (a : BitVec 5) (csr : BitVec 12) : Statement (.csrClr a csr) :=
  fun h => ⟨_, rfl, decode_of_raw (by simp [rawDecode, rawCsr]) h⟩
theorem sysCall (a : BitVec 5) (ma : BitVec 2) : Statement (.sysCall a ma) :=
  fun h => ⟨_, rfl, decode_of_raw (by simp [rawDecode, rawSys]) h⟩
theorem sysRet (a b : BitVec 5) (ma mb : BitVec 2) : Statement (.sysRet a b ma mb) :=
  fun h => ⟨_, rfl, decode_of_raw (by simp [rawDecode, rawSys]) h⟩
theorem repart (a : BitVec 5) (ma : BitVec 2) : Statement (.repart a ma) :=
  fun h => ⟨_, rfl, decode_of_raw (by simp [rawDecode, rawSys]) h⟩
theorem brk (a : BitVec 5) (ma : BitVec 2) : Statement (.brk a ma) :=
  fun h => ⟨_, rfl, decode_of_raw (by simp [rawDecode, rawSys]) h⟩
theorem mark (a : BitVec 5) (ma : BitVec 2) : Statement (.mark a ma) :=
  fun h => ⟨_, rfl, decode_of_raw (by simp [rawDecode, rawSys]) h⟩
theorem xlatInv (a b : BitVec 5) (ma mb : BitVec 2) : Statement (.xlatInv a b ma mb) :=
  fun h => ⟨_, rfl, decode_of_raw (by simp [rawDecode, rawSys]) h⟩
theorem fenceXlat : Statement .fenceXlat :=
  fun h => ⟨_, rfl, decode_of_raw (by simp [rawDecode, rawSys]) h⟩
theorem gangAck (d a : BitVec 5) (ma : BitVec 2) : Statement (.gangAck d a ma) :=
  fun h => ⟨_, rfl, decode_of_raw (by simp [rawDecode, rawSys]) h⟩
theorem mvblk (d a b : BitVec 5) : Statement (.mvblk d a b) :=
  fun h => ⟨_, rfl, decode_of_raw (by simp [rawDecode, rawBlock]) h⟩
theorem stblk (d a b : BitVec 5) : Statement (.stblk d a b) :=
  fun h => ⟨_, rfl, decode_of_raw (by simp [rawDecode, rawBlock]) h⟩
theorem cmpblk (d a b : BitVec 5) : Statement (.cmpblk d a b) :=
  fun h => ⟨_, rfl, decode_of_raw (by simp [rawDecode, rawBlock]) h⟩
theorem illinst : Statement .illinst := fun h => absurd h (by decide)
theorem postedArrive : Statement .postedArrive := fun h => absurd h (by decide)
theorem postedFail : Statement .postedFail := fun h => absurd h (by decide)
theorem loadReply : Statement .loadReply := fun h => absurd h (by decide)
theorem storeCheckReply : Statement .storeCheckReply := fun h => absurd h (by decide)
theorem storeAck : Statement .storeAck := fun h => absurd h (by decide)
theorem homeRead : Statement .homeRead := fun h => absurd h (by decide)
theorem homeWrite : Statement .homeWrite := fun h => absurd h (by decide)
theorem collectRecallReply : Statement .collectRecallReply := fun h => absurd h (by decide)
theorem redURequest : Statement .redURequest := fun h => absurd h (by decide)
theorem uEviction : Statement .uEviction := fun h => absurd h (by decide)
theorem invalidation : Statement .invalidation := fun h => absurd h (by decide)
theorem invalidationAck : Statement .invalidationAck := fun h => absurd h (by decide)
theorem fenceMarker : Statement .fenceMarker := fun h => absurd h (by decide)
theorem fenceMarkerAnswer : Statement .fenceMarkerAnswer := fun h => absurd h (by decide)
theorem feRetry : Statement .feRetry := fun h => absurd h (by decide)
theorem reservationExpiry : Statement .reservationExpiry := fun h => absurd h (by decide)
theorem waitovf : Statement .waitovf := fun h => absurd h (by decide)
theorem wakeAtSlot : Statement .wakeAtSlot := fun h => absurd h (by decide)
theorem wakeAtRecord : Statement .wakeAtRecord := fun h => absurd h (by decide)
theorem parklimWriteOut : Statement .parklimWriteOut := fun h => absurd h (by decide)
theorem poolPickup : Statement .poolPickup := fun h => absurd h (by decide)
theorem promoteAging : Statement .promoteAging := fun h => absurd h (by decide)
theorem migrantArrival : Statement .migrantArrival := fun h => absurd h (by decide)
theorem migrantAccepted : Statement .migrantAccepted := fun h => absurd h (by decide)
theorem migrantRefused : Statement .migrantRefused := fun h => absurd h (by decide)
theorem forwardedValue : Statement .forwardedValue := fun h => absurd h (by decide)
theorem dividerDone : Statement .dividerDone := fun h => absurd h (by decide)
theorem normaliserDone : Statement .normaliserDone := fun h => absurd h (by decide)
theorem iterativeUnitDone : Statement .iterativeUnitDone := fun h => absurd h (by decide)
theorem mailboxMessage : Statement .mailboxMessage := fun h => absurd h (by decide)
theorem sendReply : Statement .sendReply := fun h => absurd h (by decide)
theorem sendgMemberReply : Statement .sendgMemberReply := fun h => absurd h (by decide)
theorem stageRead : Statement .stageRead := fun h => absurd h (by decide)
theorem stageOwn : Statement .stageOwn := fun h => absurd h (by decide)
theorem tileDrain : Statement .tileDrain := fun h => absurd h (by decide)
theorem tileDrop : Statement .tileDrop := fun h => absurd h (by decide)
theorem tileRecall : Statement .tileRecall := fun h => absurd h (by decide)
theorem tileFillComplete : Statement .tileFillComplete := fun h => absurd h (by decide)
theorem tileWritebackAck : Statement .tileWritebackAck := fun h => absurd h (by decide)
theorem stageHoldExpiry : Statement .stageHoldExpiry := fun h => absurd h (by decide)
theorem deferExpiry : Statement .deferExpiry := fun h => absurd h (by decide)
theorem tfwdTransfer : Statement .tfwdTransfer := fun h => absurd h (by decide)
theorem kstep : Statement .kstep := fun h => absurd h (by decide)
theorem arrayCommandComplete : Statement .arrayCommandComplete := fun h => absurd h (by decide)
theorem mtabldLoadComplete : Statement .mtabldLoadComplete := fun h => absurd h (by decide)
theorem copyCommandComplete : Statement .copyCommandComplete := fun h => absurd h (by decide)
theorem barrierBytes : Statement .barrierBytes := fun h => absurd h (by decide)
theorem taskNotifyArrival : Statement .taskNotifyArrival := fun h => absurd h (by decide)
theorem taskRead : Statement .taskRead := fun h => absurd h (by decide)
theorem taskMatch : Statement .taskMatch := fun h => absurd h (by decide)
theorem taskPlace : Statement .taskPlace := fun h => absurd h (by decide)
theorem taskDecrement : Statement .taskDecrement := fun h => absurd h (by decide)
theorem collAllJoined : Statement .collAllJoined := fun h => absurd h (by decide)
theorem collChunkForward : Statement .collChunkForward := fun h => absurd h (by decide)
theorem collChunkAck : Statement .collChunkAck := fun h => absurd h (by decide)
theorem collMemberLost : Statement .collMemberLost := fun h => absurd h (by decide)
theorem collRepairDone : Statement .collRepairDone := fun h => absurd h (by decide)
theorem launchDoorbell : Statement .launchDoorbell := fun h => absurd h (by decide)
theorem retire : Statement .retire := fun h => absurd h (by decide)
theorem textFetch : Statement .textFetch := fun h => absurd h (by decide)
theorem translationMiss : Statement .translationMiss := fun h => absurd h (by decide)
theorem walkComplete : Statement .walkComplete := fun h => absurd h (by decide)
theorem retryWakeTimer : Statement .retryWakeTimer := fun h => absurd h (by decide)
theorem storageFaultAccept : Statement .storageFaultAccept := fun h => absurd h (by decide)
theorem pageFillComplete : Statement .pageFillComplete := fun h => absurd h (by decide)
theorem evictionWritebackDone : Statement .evictionWritebackDone := fun h => absurd h (by decide)
theorem remoteAccess : Statement .remoteAccess := fun h => absurd h (by decide)
theorem migrationComplete : Statement .migrationComplete := fun h => absurd h (by decide)
theorem releaseNotice : Statement .releaseNotice := fun h => absurd h (by decide)
theorem xlatInvAtSlice : Statement .xlatInvAtSlice := fun h => absurd h (by decide)
theorem stoTransferComplete : Statement .stoTransferComplete := fun h => absurd h (by decide)
theorem peerAccess : Statement .peerAccess := fun h => absurd h (by decide)
theorem hostRead : Statement .hostRead := fun h => absurd h (by decide)
theorem hostWrite : Statement .hostWrite := fun h => absurd h (by decide)
theorem backInvalidationResponse : Statement .backInvalidationResponse := fun h => absurd h (by decide)
theorem hostEventPost : Statement .hostEventPost := fun h => absurd h (by decide)
theorem addCommand : Statement .addCommand := fun h => absurd h (by decide)
theorem invalCommand : Statement .invalCommand := fun h => absurd h (by decide)
theorem replyCommand : Statement .replyCommand := fun h => absurd h (by decide)
theorem gangstepCommand : Statement .gangstepCommand := fun h => absurd h (by decide)
theorem linkcmdEnable : Statement .linkcmdEnable := fun h => absurd h (by decide)
theorem linkcmdFence : Statement .linkcmdFence := fun h => absurd h (by decide)
theorem linkcmdDown : Statement .linkcmdDown := fun h => absurd h (by decide)
theorem linkTrainingDone : Statement .linkTrainingDone := fun h => absurd h (by decide)
theorem linkTrainingTimeout : Statement .linkTrainingTimeout := fun h => absurd h (by decide)
theorem laneRetire : Statement .laneRetire := fun h => absurd h (by decide)
theorem flitReplay : Statement .flitReplay := fun h => absurd h (by decide)
theorem flitUncorrectable : Statement .flitUncorrectable := fun h => absurd h (by decide)
theorem laneMarginMeasure : Statement .laneMarginMeasure := fun h => absurd h (by decide)
theorem create : Statement .create := fun h => absurd h (by decide)
theorem place : Statement .place := fun h => absurd h (by decide)
theorem kill : Statement .kill := fun h => absurd h (by decide)
theorem free : Statement .free := fun h => absurd h (by decide)
theorem commandIllegalCode : Statement .commandIllegalCode := fun h => absurd h (by decide)
theorem switchAnnounce : Statement .switchAnnounce := fun h => absurd h (by decide)
theorem switchStamp : Statement .switchStamp := fun h => absurd h (by decide)
theorem saveComplete : Statement .saveComplete := fun h => absurd h (by decide)
theorem restoreComplete : Statement .restoreComplete := fun h => absurd h (by decide)
theorem stopTimeout : Statement .stopTimeout := fun h => absurd h (by decide)
theorem trapDelivery : Statement .trapDelivery := fun h => absurd h (by decide)
theorem handlerStart : Statement .handlerStart := fun h => absurd h (by decide)
theorem handlerStartTimeout : Statement .handlerStartTimeout := fun h => absurd h (by decide)
theorem eventRingWrite : Statement .eventRingWrite := fun h => absurd h (by decide)
theorem stop : Statement .stop := fun h => absurd h (by decide)
theorem resume : Statement .resume := fun h => absurd h (by decide)
theorem step : Statement .step := fun h => absurd h (by decide)
theorem traceRecordWrite : Statement .traceRecordWrite := fun h => absurd h (by decide)
theorem counterClear : Statement .counterClear := fun h => absurd h (by decide)
theorem laneCounterClear : Statement .laneCounterClear := fun h => absurd h (by decide)
theorem registerWrite : Statement .registerWrite := fun h => absurd h (by decide)
theorem iftestRequest : Statement .iftestRequest := fun h => absurd h (by decide)
theorem iftestDone : Statement .iftestDone := fun h => absurd h (by decide)
theorem iftestReminder : Statement .iftestReminder := fun h => absurd h (by decide)
theorem rowCounterWindow : Statement .rowCounterWindow := fun h => absurd h (by decide)
theorem hwFaultDetected : Statement .hwFaultDetected := fun h => absurd h (by decide)
theorem powerLimitWrite : Statement .powerLimitWrite := fun h => absurd h (by decide)
theorem coldReset : Statement .coldReset := fun h => absurd h (by decide)
theorem boot : Statement .boot := fun h => absurd h (by decide)
theorem launchChecksDone : Statement .launchChecksDone := fun h => absurd h (by decide)
theorem killComplete : Statement .killComplete := fun h => absurd h (by decide)
theorem copyElement : Statement .copyElement := fun h => absurd h (by decide)
theorem cycle : Statement .cycle := fun h => absurd h (by decide)
theorem hostCopyDrop : Statement .hostCopyDrop := fun h => absurd h (by decide)
theorem attestationRequest : Statement .attestationRequest := fun h => absurd h (by decide)

end Sys2Proof.Laws.Encoding
end

