-- ==== Sys2Proof/Laws/State.lean ====
section
/-!
SUPPORT. The fields of the state after each plain update: one lemma a field and update, so that no proof unfolds an update.
-/
namespace Sys2Proof.Machine

set_option Elab.async false

@[simp] theorem setSlot_time8 (s : State) (p : Nat) (x : Slot) : (setSlot s p x).time8 = s.time8 := rfl
@[simp] theorem setSlot_cycle (s : State) (p : Nat) (x : Slot) : (setSlot s p x).cycle = s.cycle := rfl
@[simp] theorem setSlot_agenda (s : State) (p : Nat) (x : Slot) : (setSlot s p x).agenda = s.agenda := rfl
@[simp] theorem setSlot_timers (s : State) (p : Nat) (x : Slot) : (setSlot s p x).timers = s.timers := rfl
@[simp] theorem setSlot_held (s : State) (p : Nat) (x : Slot) : (setSlot s p x).held = s.held := rfl
@[simp] theorem setSlot_sched (s : State) (p : Nat) (x : Slot) : (setSlot s p x).sched = s.sched := rfl
@[simp] theorem setSlot_fresh (s : State) (p : Nat) (x : Slot) : (setSlot s p x).fresh = s.fresh := rfl
@[simp] theorem setSlot_now (s : State) (p : Nat) (x : Slot) : (setSlot s p x).now = s.now := rfl
@[simp] theorem setSlot_cur (s : State) (p : Nat) (x : Slot) : (setSlot s p x).cur = s.cur := rfl
@[simp] theorem setSlot_mem (s : State) (p : Nat) (x : Slot) : (setSlot s p x).mem = s.mem := rfl
@[simp] theorem setSlot_dram (s : State) (p : Nat) (x : Slot) : (setSlot s p x).dram = s.dram := rfl
@[simp] theorem setSlot_words (s : State) (p : Nat) (x : Slot) : (setSlot s p x).words = s.words := rfl
@[simp] theorem setSlot_dir (s : State) (p : Nat) (x : Slot) : (setSlot s p x).dir = s.dir := rfl
@[simp] theorem setSlot_poison (s : State) (p : Nat) (x : Slot) : (setSlot s p x).poison = s.poison := rfl
@[simp] theorem setSlot_cores (s : State) (p : Nat) (x : Slot) : (setSlot s p x).cores = s.cores := rfl
@[simp] theorem setSlot_cells (s : State) (p : Nat) (x : Slot) : (setSlot s p x).cells = s.cells := rfl
@[simp] theorem setSlot_slices (s : State) (p : Nat) (x : Slot) : (setSlot s p x).slices = s.slices := rfl
@[simp] theorem setSlot_ctxs (s : State) (p : Nat) (x : Slot) : (setSlot s p x).ctxs = s.ctxs := rfl
@[simp] theorem setSlot_sqes (s : State) (p : Nat) (x : Slot) : (setSlot s p x).sqes = s.sqes := rfl
@[simp] theorem setSlot_links (s : State) (p : Nat) (x : Slot) : (setSlot s p x).links = s.links := rfl
@[simp] theorem setSlot_host (s : State) (p : Nat) (x : Slot) : (setSlot s p x).host = s.host := rfl
@[simp] theorem setSlot_ras (s : State) (p : Nat) (x : Slot) : (setSlot s p x).ras = s.ras := rfl
@[simp] theorem setSlot_inbound (s : State) (p : Nat) (x : Slot) : (setSlot s p x).inbound = s.inbound := rfl
@[simp] theorem setSlot_lanelim (s : State) (p : Nat) (x : Slot) : (setSlot s p x).lanelim = s.lanelim := rfl
@[simp] theorem setSlot_tvecm (s : State) (p : Nat) (x : Slot) : (setSlot s p x).tvecm = s.tvecm := rfl
@[simp] theorem setSlot_out (s : State) (p : Nat) (x : Slot) : (setSlot s p x).out = s.out := rfl
@[simp] theorem setSlot_bootlog (s : State) (p : Nat) (x : Slot) : (setSlot s p x).bootlog = s.bootlog := rfl
@[simp] theorem setSlot_booted (s : State) (p : Nat) (x : Slot) : (setSlot s p x).booted = s.booted := rfl
@[simp] theorem setSlot_fwobj (s : State) (p : Nat) (x : Slot) : (setSlot s p x).fwobj = s.fwobj := rfl
@[simp] theorem setSlot_fencedUnits (s : State) (p : Nat) (x : Slot) : (setSlot s p x).fencedUnits = s.fencedUnits := rfl

@[simp] theorem setCore_time8 (s : State) (c : Nat) (x : Core) : (setCore s c x).time8 = s.time8 := rfl
@[simp] theorem setCore_cycle (s : State) (c : Nat) (x : Core) : (setCore s c x).cycle = s.cycle := rfl
@[simp] theorem setCore_agenda (s : State) (c : Nat) (x : Core) : (setCore s c x).agenda = s.agenda := rfl
@[simp] theorem setCore_timers (s : State) (c : Nat) (x : Core) : (setCore s c x).timers = s.timers := rfl
@[simp] theorem setCore_held (s : State) (c : Nat) (x : Core) : (setCore s c x).held = s.held := rfl
@[simp] theorem setCore_sched (s : State) (c : Nat) (x : Core) : (setCore s c x).sched = s.sched := rfl
@[simp] theorem setCore_fresh (s : State) (c : Nat) (x : Core) : (setCore s c x).fresh = s.fresh := rfl
@[simp] theorem setCore_now (s : State) (c : Nat) (x : Core) : (setCore s c x).now = s.now := rfl
@[simp] theorem setCore_cur (s : State) (c : Nat) (x : Core) : (setCore s c x).cur = s.cur := rfl
@[simp] theorem setCore_mem (s : State) (c : Nat) (x : Core) : (setCore s c x).mem = s.mem := rfl
@[simp] theorem setCore_dram (s : State) (c : Nat) (x : Core) : (setCore s c x).dram = s.dram := rfl
@[simp] theorem setCore_words (s : State) (c : Nat) (x : Core) : (setCore s c x).words = s.words := rfl
@[simp] theorem setCore_dir (s : State) (c : Nat) (x : Core) : (setCore s c x).dir = s.dir := rfl
@[simp] theorem setCore_poison (s : State) (c : Nat) (x : Core) : (setCore s c x).poison = s.poison := rfl
@[simp] theorem setCore_slots (s : State) (c : Nat) (x : Core) : (setCore s c x).slots = s.slots := rfl
@[simp] theorem setCore_cells (s : State) (c : Nat) (x : Core) : (setCore s c x).cells = s.cells := rfl
@[simp] theorem setCore_slices (s : State) (c : Nat) (x : Core) : (setCore s c x).slices = s.slices := rfl
@[simp] theorem setCore_ctxs (s : State) (c : Nat) (x : Core) : (setCore s c x).ctxs = s.ctxs := rfl
@[simp] theorem setCore_sqes (s : State) (c : Nat) (x : Core) : (setCore s c x).sqes = s.sqes := rfl
@[simp] theorem setCore_links (s : State) (c : Nat) (x : Core) : (setCore s c x).links = s.links := rfl
@[simp] theorem setCore_host (s : State) (c : Nat) (x : Core) : (setCore s c x).host = s.host := rfl
@[simp] theorem setCore_ras (s : State) (c : Nat) (x : Core) : (setCore s c x).ras = s.ras := rfl
@[simp] theorem setCore_inbound (s : State) (c : Nat) (x : Core) : (setCore s c x).inbound = s.inbound := rfl
@[simp] theorem setCore_lanelim (s : State) (c : Nat) (x : Core) : (setCore s c x).lanelim = s.lanelim := rfl
@[simp] theorem setCore_tvecm (s : State) (c : Nat) (x : Core) : (setCore s c x).tvecm = s.tvecm := rfl
@[simp] theorem setCore_out (s : State) (c : Nat) (x : Core) : (setCore s c x).out = s.out := rfl
@[simp] theorem setCore_bootlog (s : State) (c : Nat) (x : Core) : (setCore s c x).bootlog = s.bootlog := rfl
@[simp] theorem setCore_booted (s : State) (c : Nat) (x : Core) : (setCore s c x).booted = s.booted := rfl
@[simp] theorem setCore_fwobj (s : State) (c : Nat) (x : Core) : (setCore s c x).fwobj = s.fwobj := rfl
@[simp] theorem setCore_fencedUnits (s : State) (c : Nat) (x : Core) : (setCore s c x).fencedUnits = s.fencedUnits := rfl

@[simp] theorem setCell_time8 (s : State) (c : Nat) (x : Cell) : (setCell s c x).time8 = s.time8 := rfl
@[simp] theorem setCell_cycle (s : State) (c : Nat) (x : Cell) : (setCell s c x).cycle = s.cycle := rfl
@[simp] theorem setCell_agenda (s : State) (c : Nat) (x : Cell) : (setCell s c x).agenda = s.agenda := rfl
@[simp] theorem setCell_timers (s : State) (c : Nat) (x : Cell) : (setCell s c x).timers = s.timers := rfl
@[simp] theorem setCell_held (s : State) (c : Nat) (x : Cell) : (setCell s c x).held = s.held := rfl
@[simp] theorem setCell_sched (s : State) (c : Nat) (x : Cell) : (setCell s c x).sched = s.sched := rfl
@[simp] theorem setCell_fresh (s : State) (c : Nat) (x : Cell) : (setCell s c x).fresh = s.fresh := rfl
@[simp] theorem setCell_now (s : State) (c : Nat) (x : Cell) : (setCell s c x).now = s.now := rfl
@[simp] theorem setCell_cur (s : State) (c : Nat) (x : Cell) : (setCell s c x).cur = s.cur := rfl
@[simp] theorem setCell_mem (s : State) (c : Nat) (x : Cell) : (setCell s c x).mem = s.mem := rfl
@[simp] theorem setCell_dram (s : State) (c : Nat) (x : Cell) : (setCell s c x).dram = s.dram := rfl
@[simp] theorem setCell_words (s : State) (c : Nat) (x : Cell) : (setCell s c x).words = s.words := rfl
@[simp] theorem setCell_dir (s : State) (c : Nat) (x : Cell) : (setCell s c x).dir = s.dir := rfl
@[simp] theorem setCell_poison (s : State) (c : Nat) (x : Cell) : (setCell s c x).poison = s.poison := rfl
@[simp] theorem setCell_slots (s : State) (c : Nat) (x : Cell) : (setCell s c x).slots = s.slots := rfl
@[simp] theorem setCell_cores (s : State) (c : Nat) (x : Cell) : (setCell s c x).cores = s.cores := rfl
@[simp] theorem setCell_slices (s : State) (c : Nat) (x : Cell) : (setCell s c x).slices = s.slices := rfl
@[simp] theorem setCell_ctxs (s : State) (c : Nat) (x : Cell) : (setCell s c x).ctxs = s.ctxs := rfl
@[simp] theorem setCell_sqes (s : State) (c : Nat) (x : Cell) : (setCell s c x).sqes = s.sqes := rfl
@[simp] theorem setCell_links (s : State) (c : Nat) (x : Cell) : (setCell s c x).links = s.links := rfl
@[simp] theorem setCell_host (s : State) (c : Nat) (x : Cell) : (setCell s c x).host = s.host := rfl
@[simp] theorem setCell_ras (s : State) (c : Nat) (x : Cell) : (setCell s c x).ras = s.ras := rfl
@[simp] theorem setCell_inbound (s : State) (c : Nat) (x : Cell) : (setCell s c x).inbound = s.inbound := rfl
@[simp] theorem setCell_lanelim (s : State) (c : Nat) (x : Cell) : (setCell s c x).lanelim = s.lanelim := rfl
@[simp] theorem setCell_tvecm (s : State) (c : Nat) (x : Cell) : (setCell s c x).tvecm = s.tvecm := rfl
@[simp] theorem setCell_out (s : State) (c : Nat) (x : Cell) : (setCell s c x).out = s.out := rfl
@[simp] theorem setCell_bootlog (s : State) (c : Nat) (x : Cell) : (setCell s c x).bootlog = s.bootlog := rfl
@[simp] theorem setCell_booted (s : State) (c : Nat) (x : Cell) : (setCell s c x).booted = s.booted := rfl
@[simp] theorem setCell_fwobj (s : State) (c : Nat) (x : Cell) : (setCell s c x).fwobj = s.fwobj := rfl
@[simp] theorem setCell_fencedUnits (s : State) (c : Nat) (x : Cell) : (setCell s c x).fencedUnits = s.fencedUnits := rfl

@[simp] theorem setSlice_time8 (s : State) (n : Nat) (x : Slice) : (setSlice s n x).time8 = s.time8 := rfl
@[simp] theorem setSlice_cycle (s : State) (n : Nat) (x : Slice) : (setSlice s n x).cycle = s.cycle := rfl
@[simp] theorem setSlice_agenda (s : State) (n : Nat) (x : Slice) : (setSlice s n x).agenda = s.agenda := rfl
@[simp] theorem setSlice_timers (s : State) (n : Nat) (x : Slice) : (setSlice s n x).timers = s.timers := rfl
@[simp] theorem setSlice_held (s : State) (n : Nat) (x : Slice) : (setSlice s n x).held = s.held := rfl
@[simp] theorem setSlice_sched (s : State) (n : Nat) (x : Slice) : (setSlice s n x).sched = s.sched := rfl
@[simp] theorem setSlice_fresh (s : State) (n : Nat) (x : Slice) : (setSlice s n x).fresh = s.fresh := rfl
@[simp] theorem setSlice_now (s : State) (n : Nat) (x : Slice) : (setSlice s n x).now = s.now := rfl
@[simp] theorem setSlice_cur (s : State) (n : Nat) (x : Slice) : (setSlice s n x).cur = s.cur := rfl
@[simp] theorem setSlice_mem (s : State) (n : Nat) (x : Slice) : (setSlice s n x).mem = s.mem := rfl
@[simp] theorem setSlice_dram (s : State) (n : Nat) (x : Slice) : (setSlice s n x).dram = s.dram := rfl
@[simp] theorem setSlice_words (s : State) (n : Nat) (x : Slice) : (setSlice s n x).words = s.words := rfl
@[simp] theorem setSlice_dir (s : State) (n : Nat) (x : Slice) : (setSlice s n x).dir = s.dir := rfl
@[simp] theorem setSlice_poison (s : State) (n : Nat) (x : Slice) : (setSlice s n x).poison = s.poison := rfl
@[simp] theorem setSlice_slots (s : State) (n : Nat) (x : Slice) : (setSlice s n x).slots = s.slots := rfl
@[simp] theorem setSlice_cores (s : State) (n : Nat) (x : Slice) : (setSlice s n x).cores = s.cores := rfl
@[simp] theorem setSlice_cells (s : State) (n : Nat) (x : Slice) : (setSlice s n x).cells = s.cells := rfl
@[simp] theorem setSlice_ctxs (s : State) (n : Nat) (x : Slice) : (setSlice s n x).ctxs = s.ctxs := rfl
@[simp] theorem setSlice_sqes (s : State) (n : Nat) (x : Slice) : (setSlice s n x).sqes = s.sqes := rfl
@[simp] theorem setSlice_links (s : State) (n : Nat) (x : Slice) : (setSlice s n x).links = s.links := rfl
@[simp] theorem setSlice_host (s : State) (n : Nat) (x : Slice) : (setSlice s n x).host = s.host := rfl
@[simp] theorem setSlice_ras (s : State) (n : Nat) (x : Slice) : (setSlice s n x).ras = s.ras := rfl
@[simp] theorem setSlice_inbound (s : State) (n : Nat) (x : Slice) : (setSlice s n x).inbound = s.inbound := rfl
@[simp] theorem setSlice_lanelim (s : State) (n : Nat) (x : Slice) : (setSlice s n x).lanelim = s.lanelim := rfl
@[simp] theorem setSlice_tvecm (s : State) (n : Nat) (x : Slice) : (setSlice s n x).tvecm = s.tvecm := rfl
@[simp] theorem setSlice_out (s : State) (n : Nat) (x : Slice) : (setSlice s n x).out = s.out := rfl
@[simp] theorem setSlice_bootlog (s : State) (n : Nat) (x : Slice) : (setSlice s n x).bootlog = s.bootlog := rfl
@[simp] theorem setSlice_booted (s : State) (n : Nat) (x : Slice) : (setSlice s n x).booted = s.booted := rfl
@[simp] theorem setSlice_fwobj (s : State) (n : Nat) (x : Slice) : (setSlice s n x).fwobj = s.fwobj := rfl
@[simp] theorem setSlice_fencedUnits (s : State) (n : Nat) (x : Slice) : (setSlice s n x).fencedUnits = s.fencedUnits := rfl

@[simp] theorem setCtx_time8 (s : State) (n : Nat) (x : Ctx) : (setCtx s n x).time8 = s.time8 := rfl
@[simp] theorem setCtx_cycle (s : State) (n : Nat) (x : Ctx) : (setCtx s n x).cycle = s.cycle := rfl
@[simp] theorem setCtx_agenda (s : State) (n : Nat) (x : Ctx) : (setCtx s n x).agenda = s.agenda := rfl
@[simp] theorem setCtx_timers (s : State) (n : Nat) (x : Ctx) : (setCtx s n x).timers = s.timers := rfl
@[simp] theorem setCtx_held (s : State) (n : Nat) (x : Ctx) : (setCtx s n x).held = s.held := rfl
@[simp] theorem setCtx_sched (s : State) (n : Nat) (x : Ctx) : (setCtx s n x).sched = s.sched := rfl
@[simp] theorem setCtx_fresh (s : State) (n : Nat) (x : Ctx) : (setCtx s n x).fresh = s.fresh := rfl
@[simp] theorem setCtx_now (s : State) (n : Nat) (x : Ctx) : (setCtx s n x).now = s.now := rfl
@[simp] theorem setCtx_cur (s : State) (n : Nat) (x : Ctx) : (setCtx s n x).cur = s.cur := rfl
@[simp] theorem setCtx_mem (s : State) (n : Nat) (x : Ctx) : (setCtx s n x).mem = s.mem := rfl
@[simp] theorem setCtx_dram (s : State) (n : Nat) (x : Ctx) : (setCtx s n x).dram = s.dram := rfl
@[simp] theorem setCtx_words (s : State) (n : Nat) (x : Ctx) : (setCtx s n x).words = s.words := rfl
@[simp] theorem setCtx_dir (s : State) (n : Nat) (x : Ctx) : (setCtx s n x).dir = s.dir := rfl
@[simp] theorem setCtx_poison (s : State) (n : Nat) (x : Ctx) : (setCtx s n x).poison = s.poison := rfl
@[simp] theorem setCtx_slots (s : State) (n : Nat) (x : Ctx) : (setCtx s n x).slots = s.slots := rfl
@[simp] theorem setCtx_cores (s : State) (n : Nat) (x : Ctx) : (setCtx s n x).cores = s.cores := rfl
@[simp] theorem setCtx_cells (s : State) (n : Nat) (x : Ctx) : (setCtx s n x).cells = s.cells := rfl
@[simp] theorem setCtx_slices (s : State) (n : Nat) (x : Ctx) : (setCtx s n x).slices = s.slices := rfl
@[simp] theorem setCtx_sqes (s : State) (n : Nat) (x : Ctx) : (setCtx s n x).sqes = s.sqes := rfl
@[simp] theorem setCtx_links (s : State) (n : Nat) (x : Ctx) : (setCtx s n x).links = s.links := rfl
@[simp] theorem setCtx_host (s : State) (n : Nat) (x : Ctx) : (setCtx s n x).host = s.host := rfl
@[simp] theorem setCtx_ras (s : State) (n : Nat) (x : Ctx) : (setCtx s n x).ras = s.ras := rfl
@[simp] theorem setCtx_inbound (s : State) (n : Nat) (x : Ctx) : (setCtx s n x).inbound = s.inbound := rfl
@[simp] theorem setCtx_lanelim (s : State) (n : Nat) (x : Ctx) : (setCtx s n x).lanelim = s.lanelim := rfl
@[simp] theorem setCtx_tvecm (s : State) (n : Nat) (x : Ctx) : (setCtx s n x).tvecm = s.tvecm := rfl
@[simp] theorem setCtx_out (s : State) (n : Nat) (x : Ctx) : (setCtx s n x).out = s.out := rfl
@[simp] theorem setCtx_bootlog (s : State) (n : Nat) (x : Ctx) : (setCtx s n x).bootlog = s.bootlog := rfl
@[simp] theorem setCtx_booted (s : State) (n : Nat) (x : Ctx) : (setCtx s n x).booted = s.booted := rfl
@[simp] theorem setCtx_fwobj (s : State) (n : Nat) (x : Ctx) : (setCtx s n x).fwobj = s.fwobj := rfl
@[simp] theorem setCtx_fencedUnits (s : State) (n : Nat) (x : Ctx) : (setCtx s n x).fencedUnits = s.fencedUnits := rfl

@[simp] theorem setSqe_time8 (s : State) (n : Nat) (x : Sqe) : (setSqe s n x).time8 = s.time8 := rfl
@[simp] theorem setSqe_cycle (s : State) (n : Nat) (x : Sqe) : (setSqe s n x).cycle = s.cycle := rfl
@[simp] theorem setSqe_agenda (s : State) (n : Nat) (x : Sqe) : (setSqe s n x).agenda = s.agenda := rfl
@[simp] theorem setSqe_timers (s : State) (n : Nat) (x : Sqe) : (setSqe s n x).timers = s.timers := rfl
@[simp] theorem setSqe_held (s : State) (n : Nat) (x : Sqe) : (setSqe s n x).held = s.held := rfl
@[simp] theorem setSqe_sched (s : State) (n : Nat) (x : Sqe) : (setSqe s n x).sched = s.sched := rfl
@[simp] theorem setSqe_fresh (s : State) (n : Nat) (x : Sqe) : (setSqe s n x).fresh = s.fresh := rfl
@[simp] theorem setSqe_now (s : State) (n : Nat) (x : Sqe) : (setSqe s n x).now = s.now := rfl
@[simp] theorem setSqe_cur (s : State) (n : Nat) (x : Sqe) : (setSqe s n x).cur = s.cur := rfl
@[simp] theorem setSqe_mem (s : State) (n : Nat) (x : Sqe) : (setSqe s n x).mem = s.mem := rfl
@[simp] theorem setSqe_dram (s : State) (n : Nat) (x : Sqe) : (setSqe s n x).dram = s.dram := rfl
@[simp] theorem setSqe_words (s : State) (n : Nat) (x : Sqe) : (setSqe s n x).words = s.words := rfl
@[simp] theorem setSqe_dir (s : State) (n : Nat) (x : Sqe) : (setSqe s n x).dir = s.dir := rfl
@[simp] theorem setSqe_poison (s : State) (n : Nat) (x : Sqe) : (setSqe s n x).poison = s.poison := rfl
@[simp] theorem setSqe_slots (s : State) (n : Nat) (x : Sqe) : (setSqe s n x).slots = s.slots := rfl
@[simp] theorem setSqe_cores (s : State) (n : Nat) (x : Sqe) : (setSqe s n x).cores = s.cores := rfl
@[simp] theorem setSqe_cells (s : State) (n : Nat) (x : Sqe) : (setSqe s n x).cells = s.cells := rfl
@[simp] theorem setSqe_slices (s : State) (n : Nat) (x : Sqe) : (setSqe s n x).slices = s.slices := rfl
@[simp] theorem setSqe_ctxs (s : State) (n : Nat) (x : Sqe) : (setSqe s n x).ctxs = s.ctxs := rfl
@[simp] theorem setSqe_links (s : State) (n : Nat) (x : Sqe) : (setSqe s n x).links = s.links := rfl
@[simp] theorem setSqe_host (s : State) (n : Nat) (x : Sqe) : (setSqe s n x).host = s.host := rfl
@[simp] theorem setSqe_ras (s : State) (n : Nat) (x : Sqe) : (setSqe s n x).ras = s.ras := rfl
@[simp] theorem setSqe_inbound (s : State) (n : Nat) (x : Sqe) : (setSqe s n x).inbound = s.inbound := rfl
@[simp] theorem setSqe_lanelim (s : State) (n : Nat) (x : Sqe) : (setSqe s n x).lanelim = s.lanelim := rfl
@[simp] theorem setSqe_tvecm (s : State) (n : Nat) (x : Sqe) : (setSqe s n x).tvecm = s.tvecm := rfl
@[simp] theorem setSqe_out (s : State) (n : Nat) (x : Sqe) : (setSqe s n x).out = s.out := rfl
@[simp] theorem setSqe_bootlog (s : State) (n : Nat) (x : Sqe) : (setSqe s n x).bootlog = s.bootlog := rfl
@[simp] theorem setSqe_booted (s : State) (n : Nat) (x : Sqe) : (setSqe s n x).booted = s.booted := rfl
@[simp] theorem setSqe_fwobj (s : State) (n : Nat) (x : Sqe) : (setSqe s n x).fwobj = s.fwobj := rfl
@[simp] theorem setSqe_fencedUnits (s : State) (n : Nat) (x : Sqe) : (setSqe s n x).fencedUnits = s.fencedUnits := rfl

@[simp] theorem setLink_time8 (s : State) (n : Nat) (x : Link) : (setLink s n x).time8 = s.time8 := rfl
@[simp] theorem setLink_cycle (s : State) (n : Nat) (x : Link) : (setLink s n x).cycle = s.cycle := rfl
@[simp] theorem setLink_agenda (s : State) (n : Nat) (x : Link) : (setLink s n x).agenda = s.agenda := rfl
@[simp] theorem setLink_timers (s : State) (n : Nat) (x : Link) : (setLink s n x).timers = s.timers := rfl
@[simp] theorem setLink_held (s : State) (n : Nat) (x : Link) : (setLink s n x).held = s.held := rfl
@[simp] theorem setLink_sched (s : State) (n : Nat) (x : Link) : (setLink s n x).sched = s.sched := rfl
@[simp] theorem setLink_fresh (s : State) (n : Nat) (x : Link) : (setLink s n x).fresh = s.fresh := rfl
@[simp] theorem setLink_now (s : State) (n : Nat) (x : Link) : (setLink s n x).now = s.now := rfl
@[simp] theorem setLink_cur (s : State) (n : Nat) (x : Link) : (setLink s n x).cur = s.cur := rfl
@[simp] theorem setLink_mem (s : State) (n : Nat) (x : Link) : (setLink s n x).mem = s.mem := rfl
@[simp] theorem setLink_dram (s : State) (n : Nat) (x : Link) : (setLink s n x).dram = s.dram := rfl
@[simp] theorem setLink_words (s : State) (n : Nat) (x : Link) : (setLink s n x).words = s.words := rfl
@[simp] theorem setLink_dir (s : State) (n : Nat) (x : Link) : (setLink s n x).dir = s.dir := rfl
@[simp] theorem setLink_poison (s : State) (n : Nat) (x : Link) : (setLink s n x).poison = s.poison := rfl
@[simp] theorem setLink_slots (s : State) (n : Nat) (x : Link) : (setLink s n x).slots = s.slots := rfl
@[simp] theorem setLink_cores (s : State) (n : Nat) (x : Link) : (setLink s n x).cores = s.cores := rfl
@[simp] theorem setLink_cells (s : State) (n : Nat) (x : Link) : (setLink s n x).cells = s.cells := rfl
@[simp] theorem setLink_slices (s : State) (n : Nat) (x : Link) : (setLink s n x).slices = s.slices := rfl
@[simp] theorem setLink_ctxs (s : State) (n : Nat) (x : Link) : (setLink s n x).ctxs = s.ctxs := rfl
@[simp] theorem setLink_sqes (s : State) (n : Nat) (x : Link) : (setLink s n x).sqes = s.sqes := rfl
@[simp] theorem setLink_host (s : State) (n : Nat) (x : Link) : (setLink s n x).host = s.host := rfl
@[simp] theorem setLink_ras (s : State) (n : Nat) (x : Link) : (setLink s n x).ras = s.ras := rfl
@[simp] theorem setLink_inbound (s : State) (n : Nat) (x : Link) : (setLink s n x).inbound = s.inbound := rfl
@[simp] theorem setLink_lanelim (s : State) (n : Nat) (x : Link) : (setLink s n x).lanelim = s.lanelim := rfl
@[simp] theorem setLink_tvecm (s : State) (n : Nat) (x : Link) : (setLink s n x).tvecm = s.tvecm := rfl
@[simp] theorem setLink_out (s : State) (n : Nat) (x : Link) : (setLink s n x).out = s.out := rfl
@[simp] theorem setLink_bootlog (s : State) (n : Nat) (x : Link) : (setLink s n x).bootlog = s.bootlog := rfl
@[simp] theorem setLink_booted (s : State) (n : Nat) (x : Link) : (setLink s n x).booted = s.booted := rfl
@[simp] theorem setLink_fwobj (s : State) (n : Nat) (x : Link) : (setLink s n x).fwobj = s.fwobj := rfl
@[simp] theorem setLink_fencedUnits (s : State) (n : Nat) (x : Link) : (setLink s n x).fencedUnits = s.fencedUnits := rfl

@[simp] theorem setDir_time8 (s : State) (l : Nat) (x : DirEntry) : (setDir s l x).time8 = s.time8 := rfl
@[simp] theorem setDir_cycle (s : State) (l : Nat) (x : DirEntry) : (setDir s l x).cycle = s.cycle := rfl
@[simp] theorem setDir_agenda (s : State) (l : Nat) (x : DirEntry) : (setDir s l x).agenda = s.agenda := rfl
@[simp] theorem setDir_timers (s : State) (l : Nat) (x : DirEntry) : (setDir s l x).timers = s.timers := rfl
@[simp] theorem setDir_held (s : State) (l : Nat) (x : DirEntry) : (setDir s l x).held = s.held := rfl
@[simp] theorem setDir_sched (s : State) (l : Nat) (x : DirEntry) : (setDir s l x).sched = s.sched := rfl
@[simp] theorem setDir_fresh (s : State) (l : Nat) (x : DirEntry) : (setDir s l x).fresh = s.fresh := rfl
@[simp] theorem setDir_now (s : State) (l : Nat) (x : DirEntry) : (setDir s l x).now = s.now := rfl
@[simp] theorem setDir_cur (s : State) (l : Nat) (x : DirEntry) : (setDir s l x).cur = s.cur := rfl
@[simp] theorem setDir_mem (s : State) (l : Nat) (x : DirEntry) : (setDir s l x).mem = s.mem := rfl
@[simp] theorem setDir_dram (s : State) (l : Nat) (x : DirEntry) : (setDir s l x).dram = s.dram := rfl
@[simp] theorem setDir_words (s : State) (l : Nat) (x : DirEntry) : (setDir s l x).words = s.words := rfl
@[simp] theorem setDir_poison (s : State) (l : Nat) (x : DirEntry) : (setDir s l x).poison = s.poison := rfl
@[simp] theorem setDir_slots (s : State) (l : Nat) (x : DirEntry) : (setDir s l x).slots = s.slots := rfl
@[simp] theorem setDir_cores (s : State) (l : Nat) (x : DirEntry) : (setDir s l x).cores = s.cores := rfl
@[simp] theorem setDir_cells (s : State) (l : Nat) (x : DirEntry) : (setDir s l x).cells = s.cells := rfl
@[simp] theorem setDir_slices (s : State) (l : Nat) (x : DirEntry) : (setDir s l x).slices = s.slices := rfl
@[simp] theorem setDir_ctxs (s : State) (l : Nat) (x : DirEntry) : (setDir s l x).ctxs = s.ctxs := rfl
@[simp] theorem setDir_sqes (s : State) (l : Nat) (x : DirEntry) : (setDir s l x).sqes = s.sqes := rfl
@[simp] theorem setDir_links (s : State) (l : Nat) (x : DirEntry) : (setDir s l x).links = s.links := rfl
@[simp] theorem setDir_host (s : State) (l : Nat) (x : DirEntry) : (setDir s l x).host = s.host := rfl
@[simp] theorem setDir_ras (s : State) (l : Nat) (x : DirEntry) : (setDir s l x).ras = s.ras := rfl
@[simp] theorem setDir_inbound (s : State) (l : Nat) (x : DirEntry) : (setDir s l x).inbound = s.inbound := rfl
@[simp] theorem setDir_lanelim (s : State) (l : Nat) (x : DirEntry) : (setDir s l x).lanelim = s.lanelim := rfl
@[simp] theorem setDir_tvecm (s : State) (l : Nat) (x : DirEntry) : (setDir s l x).tvecm = s.tvecm := rfl
@[simp] theorem setDir_out (s : State) (l : Nat) (x : DirEntry) : (setDir s l x).out = s.out := rfl
@[simp] theorem setDir_bootlog (s : State) (l : Nat) (x : DirEntry) : (setDir s l x).bootlog = s.bootlog := rfl
@[simp] theorem setDir_booted (s : State) (l : Nat) (x : DirEntry) : (setDir s l x).booted = s.booted := rfl
@[simp] theorem setDir_fwobj (s : State) (l : Nat) (x : DirEntry) : (setDir s l x).fwobj = s.fwobj := rfl
@[simp] theorem setDir_fencedUnits (s : State) (l : Nat) (x : DirEntry) : (setDir s l x).fencedUnits = s.fencedUnits := rfl

@[simp] theorem setWord_time8 (s : State) (w : Nat) (x : WordMeta) : (setWord s w x).time8 = s.time8 := rfl
@[simp] theorem setWord_cycle (s : State) (w : Nat) (x : WordMeta) : (setWord s w x).cycle = s.cycle := rfl
@[simp] theorem setWord_agenda (s : State) (w : Nat) (x : WordMeta) : (setWord s w x).agenda = s.agenda := rfl
@[simp] theorem setWord_timers (s : State) (w : Nat) (x : WordMeta) : (setWord s w x).timers = s.timers := rfl
@[simp] theorem setWord_held (s : State) (w : Nat) (x : WordMeta) : (setWord s w x).held = s.held := rfl
@[simp] theorem setWord_sched (s : State) (w : Nat) (x : WordMeta) : (setWord s w x).sched = s.sched := rfl
@[simp] theorem setWord_fresh (s : State) (w : Nat) (x : WordMeta) : (setWord s w x).fresh = s.fresh := rfl
@[simp] theorem setWord_now (s : State) (w : Nat) (x : WordMeta) : (setWord s w x).now = s.now := rfl
@[simp] theorem setWord_cur (s : State) (w : Nat) (x : WordMeta) : (setWord s w x).cur = s.cur := rfl
@[simp] theorem setWord_mem (s : State) (w : Nat) (x : WordMeta) : (setWord s w x).mem = s.mem := rfl
@[simp] theorem setWord_dram (s : State) (w : Nat) (x : WordMeta) : (setWord s w x).dram = s.dram := rfl
@[simp] theorem setWord_dir (s : State) (w : Nat) (x : WordMeta) : (setWord s w x).dir = s.dir := rfl
@[simp] theorem setWord_poison (s : State) (w : Nat) (x : WordMeta) : (setWord s w x).poison = s.poison := rfl
@[simp] theorem setWord_slots (s : State) (w : Nat) (x : WordMeta) : (setWord s w x).slots = s.slots := rfl
@[simp] theorem setWord_cores (s : State) (w : Nat) (x : WordMeta) : (setWord s w x).cores = s.cores := rfl
@[simp] theorem setWord_cells (s : State) (w : Nat) (x : WordMeta) : (setWord s w x).cells = s.cells := rfl
@[simp] theorem setWord_slices (s : State) (w : Nat) (x : WordMeta) : (setWord s w x).slices = s.slices := rfl
@[simp] theorem setWord_ctxs (s : State) (w : Nat) (x : WordMeta) : (setWord s w x).ctxs = s.ctxs := rfl
@[simp] theorem setWord_sqes (s : State) (w : Nat) (x : WordMeta) : (setWord s w x).sqes = s.sqes := rfl
@[simp] theorem setWord_links (s : State) (w : Nat) (x : WordMeta) : (setWord s w x).links = s.links := rfl
@[simp] theorem setWord_host (s : State) (w : Nat) (x : WordMeta) : (setWord s w x).host = s.host := rfl
@[simp] theorem setWord_ras (s : State) (w : Nat) (x : WordMeta) : (setWord s w x).ras = s.ras := rfl
@[simp] theorem setWord_inbound (s : State) (w : Nat) (x : WordMeta) : (setWord s w x).inbound = s.inbound := rfl
@[simp] theorem setWord_lanelim (s : State) (w : Nat) (x : WordMeta) : (setWord s w x).lanelim = s.lanelim := rfl
@[simp] theorem setWord_tvecm (s : State) (w : Nat) (x : WordMeta) : (setWord s w x).tvecm = s.tvecm := rfl
@[simp] theorem setWord_out (s : State) (w : Nat) (x : WordMeta) : (setWord s w x).out = s.out := rfl
@[simp] theorem setWord_bootlog (s : State) (w : Nat) (x : WordMeta) : (setWord s w x).bootlog = s.bootlog := rfl
@[simp] theorem setWord_booted (s : State) (w : Nat) (x : WordMeta) : (setWord s w x).booted = s.booted := rfl
@[simp] theorem setWord_fwobj (s : State) (w : Nat) (x : WordMeta) : (setWord s w x).fwobj = s.fwobj := rfl
@[simp] theorem setWord_fencedUnits (s : State) (w : Nat) (x : WordMeta) : (setWord s w x).fencedUnits = s.fencedUnits := rfl

@[simp] theorem setThread_time8 (s : State) (p : Nat) (t : Thread) : (setThread s p t).time8 = s.time8 := rfl
@[simp] theorem setThread_cycle (s : State) (p : Nat) (t : Thread) : (setThread s p t).cycle = s.cycle := rfl
@[simp] theorem setThread_agenda (s : State) (p : Nat) (t : Thread) : (setThread s p t).agenda = s.agenda := rfl
@[simp] theorem setThread_timers (s : State) (p : Nat) (t : Thread) : (setThread s p t).timers = s.timers := rfl
@[simp] theorem setThread_held (s : State) (p : Nat) (t : Thread) : (setThread s p t).held = s.held := rfl
@[simp] theorem setThread_sched (s : State) (p : Nat) (t : Thread) : (setThread s p t).sched = s.sched := rfl
@[simp] theorem setThread_fresh (s : State) (p : Nat) (t : Thread) : (setThread s p t).fresh = s.fresh := rfl
@[simp] theorem setThread_now (s : State) (p : Nat) (t : Thread) : (setThread s p t).now = s.now := rfl
@[simp] theorem setThread_cur (s : State) (p : Nat) (t : Thread) : (setThread s p t).cur = s.cur := rfl
@[simp] theorem setThread_mem (s : State) (p : Nat) (t : Thread) : (setThread s p t).mem = s.mem := rfl
@[simp] theorem setThread_dram (s : State) (p : Nat) (t : Thread) : (setThread s p t).dram = s.dram := rfl
@[simp] theorem setThread_words (s : State) (p : Nat) (t : Thread) : (setThread s p t).words = s.words := rfl
@[simp] theorem setThread_dir (s : State) (p : Nat) (t : Thread) : (setThread s p t).dir = s.dir := rfl
@[simp] theorem setThread_poison (s : State) (p : Nat) (t : Thread) : (setThread s p t).poison = s.poison := rfl
@[simp] theorem setThread_cores (s : State) (p : Nat) (t : Thread) : (setThread s p t).cores = s.cores := rfl
@[simp] theorem setThread_cells (s : State) (p : Nat) (t : Thread) : (setThread s p t).cells = s.cells := rfl
@[simp] theorem setThread_slices (s : State) (p : Nat) (t : Thread) : (setThread s p t).slices = s.slices := rfl
@[simp] theorem setThread_ctxs (s : State) (p : Nat) (t : Thread) : (setThread s p t).ctxs = s.ctxs := rfl
@[simp] theorem setThread_sqes (s : State) (p : Nat) (t : Thread) : (setThread s p t).sqes = s.sqes := rfl
@[simp] theorem setThread_links (s : State) (p : Nat) (t : Thread) : (setThread s p t).links = s.links := rfl
@[simp] theorem setThread_host (s : State) (p : Nat) (t : Thread) : (setThread s p t).host = s.host := rfl
@[simp] theorem setThread_ras (s : State) (p : Nat) (t : Thread) : (setThread s p t).ras = s.ras := rfl
@[simp] theorem setThread_inbound (s : State) (p : Nat) (t : Thread) : (setThread s p t).inbound = s.inbound := rfl
@[simp] theorem setThread_lanelim (s : State) (p : Nat) (t : Thread) : (setThread s p t).lanelim = s.lanelim := rfl
@[simp] theorem setThread_tvecm (s : State) (p : Nat) (t : Thread) : (setThread s p t).tvecm = s.tvecm := rfl
@[simp] theorem setThread_out (s : State) (p : Nat) (t : Thread) : (setThread s p t).out = s.out := rfl
@[simp] theorem setThread_bootlog (s : State) (p : Nat) (t : Thread) : (setThread s p t).bootlog = s.bootlog := rfl
@[simp] theorem setThread_booted (s : State) (p : Nat) (t : Thread) : (setThread s p t).booted = s.booted := rfl
@[simp] theorem setThread_fwobj (s : State) (p : Nat) (t : Thread) : (setThread s p t).fwobj = s.fwobj := rfl
@[simp] theorem setThread_fencedUnits (s : State) (p : Nat) (t : Thread) : (setThread s p t).fencedUnits = s.fencedUnits := rfl


@[simp] theorem mapThread_time8 (s : State) (p : Nat) (f : Thread → Thread) : (mapThread p f s).time8 = s.time8 := by unfold mapThread; split <;> rfl
@[simp] theorem mapThread_cycle (s : State) (p : Nat) (f : Thread → Thread) : (mapThread p f s).cycle = s.cycle := by unfold mapThread; split <;> rfl
@[simp] theorem mapThread_agenda (s : State) (p : Nat) (f : Thread → Thread) : (mapThread p f s).agenda = s.agenda := by unfold mapThread; split <;> rfl
@[simp] theorem mapThread_timers (s : State) (p : Nat) (f : Thread → Thread) : (mapThread p f s).timers = s.timers := by unfold mapThread; split <;> rfl
@[simp] theorem mapThread_held (s : State) (p : Nat) (f : Thread → Thread) : (mapThread p f s).held = s.held := by unfold mapThread; split <;> rfl
@[simp] theorem mapThread_sched (s : State) (p : Nat) (f : Thread → Thread) : (mapThread p f s).sched = s.sched := by unfold mapThread; split <;> rfl
@[simp] theorem mapThread_fresh (s : State) (p : Nat) (f : Thread → Thread) : (mapThread p f s).fresh = s.fresh := by unfold mapThread; split <;> rfl
@[simp] theorem mapThread_now (s : State) (p : Nat) (f : Thread → Thread) : (mapThread p f s).now = s.now := by unfold mapThread; split <;> rfl
@[simp] theorem mapThread_cur (s : State) (p : Nat) (f : Thread → Thread) : (mapThread p f s).cur = s.cur := by unfold mapThread; split <;> rfl
@[simp] theorem mapThread_mem (s : State) (p : Nat) (f : Thread → Thread) : (mapThread p f s).mem = s.mem := by unfold mapThread; split <;> rfl
@[simp] theorem mapThread_dram (s : State) (p : Nat) (f : Thread → Thread) : (mapThread p f s).dram = s.dram := by unfold mapThread; split <;> rfl
@[simp] theorem mapThread_words (s : State) (p : Nat) (f : Thread → Thread) : (mapThread p f s).words = s.words := by unfold mapThread; split <;> rfl
@[simp] theorem mapThread_dir (s : State) (p : Nat) (f : Thread → Thread) : (mapThread p f s).dir = s.dir := by unfold mapThread; split <;> rfl
@[simp] theorem mapThread_poison (s : State) (p : Nat) (f : Thread → Thread) : (mapThread p f s).poison = s.poison := by unfold mapThread; split <;> rfl
@[simp] theorem mapThread_cores (s : State) (p : Nat) (f : Thread → Thread) : (mapThread p f s).cores = s.cores := by unfold mapThread; split <;> rfl
@[simp] theorem mapThread_cells (s : State) (p : Nat) (f : Thread → Thread) : (mapThread p f s).cells = s.cells := by unfold mapThread; split <;> rfl
@[simp] theorem mapThread_slices (s : State) (p : Nat) (f : Thread → Thread) : (mapThread p f s).slices = s.slices := by unfold mapThread; split <;> rfl
@[simp] theorem mapThread_ctxs (s : State) (p : Nat) (f : Thread → Thread) : (mapThread p f s).ctxs = s.ctxs := by unfold mapThread; split <;> rfl
@[simp] theorem mapThread_sqes (s : State) (p : Nat) (f : Thread → Thread) : (mapThread p f s).sqes = s.sqes := by unfold mapThread; split <;> rfl
@[simp] theorem mapThread_links (s : State) (p : Nat) (f : Thread → Thread) : (mapThread p f s).links = s.links := by unfold mapThread; split <;> rfl
@[simp] theorem mapThread_host (s : State) (p : Nat) (f : Thread → Thread) : (mapThread p f s).host = s.host := by unfold mapThread; split <;> rfl
@[simp] theorem mapThread_ras (s : State) (p : Nat) (f : Thread → Thread) : (mapThread p f s).ras = s.ras := by unfold mapThread; split <;> rfl
@[simp] theorem mapThread_inbound (s : State) (p : Nat) (f : Thread → Thread) : (mapThread p f s).inbound = s.inbound := by unfold mapThread; split <;> rfl
@[simp] theorem mapThread_lanelim (s : State) (p : Nat) (f : Thread → Thread) : (mapThread p f s).lanelim = s.lanelim := by unfold mapThread; split <;> rfl
@[simp] theorem mapThread_tvecm (s : State) (p : Nat) (f : Thread → Thread) : (mapThread p f s).tvecm = s.tvecm := by unfold mapThread; split <;> rfl
@[simp] theorem mapThread_out (s : State) (p : Nat) (f : Thread → Thread) : (mapThread p f s).out = s.out := by unfold mapThread; split <;> rfl
@[simp] theorem mapThread_bootlog (s : State) (p : Nat) (f : Thread → Thread) : (mapThread p f s).bootlog = s.bootlog := by unfold mapThread; split <;> rfl
@[simp] theorem mapThread_booted (s : State) (p : Nat) (f : Thread → Thread) : (mapThread p f s).booted = s.booted := by unfold mapThread; split <;> rfl
@[simp] theorem mapThread_fwobj (s : State) (p : Nat) (f : Thread → Thread) : (mapThread p f s).fwobj = s.fwobj := by unfold mapThread; split <;> rfl
@[simp] theorem mapThread_fencedUnits (s : State) (p : Nat) (f : Thread → Thread) : (mapThread p f s).fencedUnits = s.fencedUnits := by unfold mapThread; split <;> rfl

@[simp] theorem mapMe_time8 (s : State) (f : Thread → Thread) : (mapMe f s).time8 = s.time8 := mapThread_time8 s s.cur f
@[simp] theorem mapMe_cycle (s : State) (f : Thread → Thread) : (mapMe f s).cycle = s.cycle := mapThread_cycle s s.cur f
@[simp] theorem mapMe_agenda (s : State) (f : Thread → Thread) : (mapMe f s).agenda = s.agenda := mapThread_agenda s s.cur f
@[simp] theorem mapMe_timers (s : State) (f : Thread → Thread) : (mapMe f s).timers = s.timers := mapThread_timers s s.cur f
@[simp] theorem mapMe_held (s : State) (f : Thread → Thread) : (mapMe f s).held = s.held := mapThread_held s s.cur f
@[simp] theorem mapMe_sched (s : State) (f : Thread → Thread) : (mapMe f s).sched = s.sched := mapThread_sched s s.cur f
@[simp] theorem mapMe_fresh (s : State) (f : Thread → Thread) : (mapMe f s).fresh = s.fresh := mapThread_fresh s s.cur f
@[simp] theorem mapMe_now (s : State) (f : Thread → Thread) : (mapMe f s).now = s.now := mapThread_now s s.cur f
@[simp] theorem mapMe_cur (s : State) (f : Thread → Thread) : (mapMe f s).cur = s.cur := mapThread_cur s s.cur f
@[simp] theorem mapMe_mem (s : State) (f : Thread → Thread) : (mapMe f s).mem = s.mem := mapThread_mem s s.cur f
@[simp] theorem mapMe_dram (s : State) (f : Thread → Thread) : (mapMe f s).dram = s.dram := mapThread_dram s s.cur f
@[simp] theorem mapMe_words (s : State) (f : Thread → Thread) : (mapMe f s).words = s.words := mapThread_words s s.cur f
@[simp] theorem mapMe_dir (s : State) (f : Thread → Thread) : (mapMe f s).dir = s.dir := mapThread_dir s s.cur f
@[simp] theorem mapMe_poison (s : State) (f : Thread → Thread) : (mapMe f s).poison = s.poison := mapThread_poison s s.cur f
@[simp] theorem mapMe_cores (s : State) (f : Thread → Thread) : (mapMe f s).cores = s.cores := mapThread_cores s s.cur f
@[simp] theorem mapMe_cells (s : State) (f : Thread → Thread) : (mapMe f s).cells = s.cells := mapThread_cells s s.cur f
@[simp] theorem mapMe_slices (s : State) (f : Thread → Thread) : (mapMe f s).slices = s.slices := mapThread_slices s s.cur f
@[simp] theorem mapMe_ctxs (s : State) (f : Thread → Thread) : (mapMe f s).ctxs = s.ctxs := mapThread_ctxs s s.cur f
@[simp] theorem mapMe_sqes (s : State) (f : Thread → Thread) : (mapMe f s).sqes = s.sqes := mapThread_sqes s s.cur f
@[simp] theorem mapMe_links (s : State) (f : Thread → Thread) : (mapMe f s).links = s.links := mapThread_links s s.cur f
@[simp] theorem mapMe_host (s : State) (f : Thread → Thread) : (mapMe f s).host = s.host := mapThread_host s s.cur f
@[simp] theorem mapMe_ras (s : State) (f : Thread → Thread) : (mapMe f s).ras = s.ras := mapThread_ras s s.cur f
@[simp] theorem mapMe_inbound (s : State) (f : Thread → Thread) : (mapMe f s).inbound = s.inbound := mapThread_inbound s s.cur f
@[simp] theorem mapMe_lanelim (s : State) (f : Thread → Thread) : (mapMe f s).lanelim = s.lanelim := mapThread_lanelim s s.cur f
@[simp] theorem mapMe_tvecm (s : State) (f : Thread → Thread) : (mapMe f s).tvecm = s.tvecm := mapThread_tvecm s s.cur f
@[simp] theorem mapMe_out (s : State) (f : Thread → Thread) : (mapMe f s).out = s.out := mapThread_out s s.cur f
@[simp] theorem mapMe_bootlog (s : State) (f : Thread → Thread) : (mapMe f s).bootlog = s.bootlog := mapThread_bootlog s s.cur f
@[simp] theorem mapMe_booted (s : State) (f : Thread → Thread) : (mapMe f s).booted = s.booted := mapThread_booted s s.cur f
@[simp] theorem mapMe_fwobj (s : State) (f : Thread → Thread) : (mapMe f s).fwobj = s.fwobj := mapThread_fwobj s s.cur f
@[simp] theorem mapMe_fencedUnits (s : State) (f : Thread → Thread) : (mapMe f s).fencedUnits = s.fencedUnits := mapThread_fencedUnits s s.cur f

@[simp] theorem post_time8 (s : State) (ev : Event) : (post ev s).time8 = s.time8 := rfl
@[simp] theorem post_cycle (s : State) (ev : Event) : (post ev s).cycle = s.cycle := rfl
@[simp] theorem post_timers (s : State) (ev : Event) : (post ev s).timers = s.timers := rfl
@[simp] theorem post_held (s : State) (ev : Event) : (post ev s).held = s.held := rfl
@[simp] theorem post_sched (s : State) (ev : Event) : (post ev s).sched = s.sched := rfl
@[simp] theorem post_fresh (s : State) (ev : Event) : (post ev s).fresh = s.fresh := rfl
@[simp] theorem post_now (s : State) (ev : Event) : (post ev s).now = s.now := rfl
@[simp] theorem post_cur (s : State) (ev : Event) : (post ev s).cur = s.cur := rfl
@[simp] theorem post_mem (s : State) (ev : Event) : (post ev s).mem = s.mem := rfl
@[simp] theorem post_dram (s : State) (ev : Event) : (post ev s).dram = s.dram := rfl
@[simp] theorem post_words (s : State) (ev : Event) : (post ev s).words = s.words := rfl
@[simp] theorem post_dir (s : State) (ev : Event) : (post ev s).dir = s.dir := rfl
@[simp] theorem post_poison (s : State) (ev : Event) : (post ev s).poison = s.poison := rfl
@[simp] theorem post_slots (s : State) (ev : Event) : (post ev s).slots = s.slots := rfl
@[simp] theorem post_cores (s : State) (ev : Event) : (post ev s).cores = s.cores := rfl
@[simp] theorem post_cells (s : State) (ev : Event) : (post ev s).cells = s.cells := rfl
@[simp] theorem post_slices (s : State) (ev : Event) : (post ev s).slices = s.slices := rfl
@[simp] theorem post_ctxs (s : State) (ev : Event) : (post ev s).ctxs = s.ctxs := rfl
@[simp] theorem post_sqes (s : State) (ev : Event) : (post ev s).sqes = s.sqes := rfl
@[simp] theorem post_links (s : State) (ev : Event) : (post ev s).links = s.links := rfl
@[simp] theorem post_host (s : State) (ev : Event) : (post ev s).host = s.host := rfl
@[simp] theorem post_ras (s : State) (ev : Event) : (post ev s).ras = s.ras := rfl
@[simp] theorem post_inbound (s : State) (ev : Event) : (post ev s).inbound = s.inbound := rfl
@[simp] theorem post_lanelim (s : State) (ev : Event) : (post ev s).lanelim = s.lanelim := rfl
@[simp] theorem post_tvecm (s : State) (ev : Event) : (post ev s).tvecm = s.tvecm := rfl
@[simp] theorem post_out (s : State) (ev : Event) : (post ev s).out = s.out := rfl
@[simp] theorem post_bootlog (s : State) (ev : Event) : (post ev s).bootlog = s.bootlog := rfl
@[simp] theorem post_booted (s : State) (ev : Event) : (post ev s).booted = s.booted := rfl
@[simp] theorem post_fwobj (s : State) (ev : Event) : (post ev s).fwobj = s.fwobj := rfl
@[simp] theorem post_fencedUnits (s : State) (ev : Event) : (post ev s).fencedUnits = s.fencedUnits := rfl

@[simp] theorem postOrd_time8 (s : State) (a b : Nat) (ev : Event) : (postOrd a b ev s).time8 = s.time8 := rfl
@[simp] theorem postOrd_cycle (s : State) (a b : Nat) (ev : Event) : (postOrd a b ev s).cycle = s.cycle := rfl
@[simp] theorem postOrd_timers (s : State) (a b : Nat) (ev : Event) : (postOrd a b ev s).timers = s.timers := rfl
@[simp] theorem postOrd_held (s : State) (a b : Nat) (ev : Event) : (postOrd a b ev s).held = s.held := rfl
@[simp] theorem postOrd_sched (s : State) (a b : Nat) (ev : Event) : (postOrd a b ev s).sched = s.sched := rfl
@[simp] theorem postOrd_fresh (s : State) (a b : Nat) (ev : Event) : (postOrd a b ev s).fresh = s.fresh := rfl
@[simp] theorem postOrd_now (s : State) (a b : Nat) (ev : Event) : (postOrd a b ev s).now = s.now := rfl
@[simp] theorem postOrd_cur (s : State) (a b : Nat) (ev : Event) : (postOrd a b ev s).cur = s.cur := rfl
@[simp] theorem postOrd_mem (s : State) (a b : Nat) (ev : Event) : (postOrd a b ev s).mem = s.mem := rfl
@[simp] theorem postOrd_dram (s : State) (a b : Nat) (ev : Event) : (postOrd a b ev s).dram = s.dram := rfl
@[simp] theorem postOrd_words (s : State) (a b : Nat) (ev : Event) : (postOrd a b ev s).words = s.words := rfl
@[simp] theorem postOrd_dir (s : State) (a b : Nat) (ev : Event) : (postOrd a b ev s).dir = s.dir := rfl
@[simp] theorem postOrd_poison (s : State) (a b : Nat) (ev : Event) : (postOrd a b ev s).poison = s.poison := rfl
@[simp] theorem postOrd_slots (s : State) (a b : Nat) (ev : Event) : (postOrd a b ev s).slots = s.slots := rfl
@[simp] theorem postOrd_cores (s : State) (a b : Nat) (ev : Event) : (postOrd a b ev s).cores = s.cores := rfl
@[simp] theorem postOrd_cells (s : State) (a b : Nat) (ev : Event) : (postOrd a b ev s).cells = s.cells := rfl
@[simp] theorem postOrd_slices (s : State) (a b : Nat) (ev : Event) : (postOrd a b ev s).slices = s.slices := rfl
@[simp] theorem postOrd_ctxs (s : State) (a b : Nat) (ev : Event) : (postOrd a b ev s).ctxs = s.ctxs := rfl
@[simp] theorem postOrd_sqes (s : State) (a b : Nat) (ev : Event) : (postOrd a b ev s).sqes = s.sqes := rfl
@[simp] theorem postOrd_links (s : State) (a b : Nat) (ev : Event) : (postOrd a b ev s).links = s.links := rfl
@[simp] theorem postOrd_host (s : State) (a b : Nat) (ev : Event) : (postOrd a b ev s).host = s.host := rfl
@[simp] theorem postOrd_ras (s : State) (a b : Nat) (ev : Event) : (postOrd a b ev s).ras = s.ras := rfl
@[simp] theorem postOrd_inbound (s : State) (a b : Nat) (ev : Event) : (postOrd a b ev s).inbound = s.inbound := rfl
@[simp] theorem postOrd_lanelim (s : State) (a b : Nat) (ev : Event) : (postOrd a b ev s).lanelim = s.lanelim := rfl
@[simp] theorem postOrd_tvecm (s : State) (a b : Nat) (ev : Event) : (postOrd a b ev s).tvecm = s.tvecm := rfl
@[simp] theorem postOrd_out (s : State) (a b : Nat) (ev : Event) : (postOrd a b ev s).out = s.out := rfl
@[simp] theorem postOrd_bootlog (s : State) (a b : Nat) (ev : Event) : (postOrd a b ev s).bootlog = s.bootlog := rfl
@[simp] theorem postOrd_booted (s : State) (a b : Nat) (ev : Event) : (postOrd a b ev s).booted = s.booted := rfl
@[simp] theorem postOrd_fwobj (s : State) (a b : Nat) (ev : Event) : (postOrd a b ev s).fwobj = s.fwobj := rfl
@[simp] theorem postOrd_fencedUnits (s : State) (a b : Nat) (ev : Event) : (postOrd a b ev s).fencedUnits = s.fencedUnits := rfl

@[simp] theorem after_time8 (s : State) (d : Nat) (ev : Event) : (after d ev s).time8 = s.time8 := rfl
@[simp] theorem after_cycle (s : State) (d : Nat) (ev : Event) : (after d ev s).cycle = s.cycle := rfl
@[simp] theorem after_agenda (s : State) (d : Nat) (ev : Event) : (after d ev s).agenda = s.agenda := rfl
@[simp] theorem after_held (s : State) (d : Nat) (ev : Event) : (after d ev s).held = s.held := rfl
@[simp] theorem after_sched (s : State) (d : Nat) (ev : Event) : (after d ev s).sched = s.sched := rfl
@[simp] theorem after_fresh (s : State) (d : Nat) (ev : Event) : (after d ev s).fresh = s.fresh := rfl
@[simp] theorem after_now (s : State) (d : Nat) (ev : Event) : (after d ev s).now = s.now := rfl
@[simp] theorem after_cur (s : State) (d : Nat) (ev : Event) : (after d ev s).cur = s.cur := rfl
@[simp] theorem after_mem (s : State) (d : Nat) (ev : Event) : (after d ev s).mem = s.mem := rfl
@[simp] theorem after_dram (s : State) (d : Nat) (ev : Event) : (after d ev s).dram = s.dram := rfl
@[simp] theorem after_words (s : State) (d : Nat) (ev : Event) : (after d ev s).words = s.words := rfl
@[simp] theorem after_dir (s : State) (d : Nat) (ev : Event) : (after d ev s).dir = s.dir := rfl
@[simp] theorem after_poison (s : State) (d : Nat) (ev : Event) : (after d ev s).poison = s.poison := rfl
@[simp] theorem after_slots (s : State) (d : Nat) (ev : Event) : (after d ev s).slots = s.slots := rfl
@[simp] theorem after_cores (s : State) (d : Nat) (ev : Event) : (after d ev s).cores = s.cores := rfl
@[simp] theorem after_cells (s : State) (d : Nat) (ev : Event) : (after d ev s).cells = s.cells := rfl
@[simp] theorem after_slices (s : State) (d : Nat) (ev : Event) : (after d ev s).slices = s.slices := rfl
@[simp] theorem after_ctxs (s : State) (d : Nat) (ev : Event) : (after d ev s).ctxs = s.ctxs := rfl
@[simp] theorem after_sqes (s : State) (d : Nat) (ev : Event) : (after d ev s).sqes = s.sqes := rfl
@[simp] theorem after_links (s : State) (d : Nat) (ev : Event) : (after d ev s).links = s.links := rfl
@[simp] theorem after_host (s : State) (d : Nat) (ev : Event) : (after d ev s).host = s.host := rfl
@[simp] theorem after_ras (s : State) (d : Nat) (ev : Event) : (after d ev s).ras = s.ras := rfl
@[simp] theorem after_inbound (s : State) (d : Nat) (ev : Event) : (after d ev s).inbound = s.inbound := rfl
@[simp] theorem after_lanelim (s : State) (d : Nat) (ev : Event) : (after d ev s).lanelim = s.lanelim := rfl
@[simp] theorem after_tvecm (s : State) (d : Nat) (ev : Event) : (after d ev s).tvecm = s.tvecm := rfl
@[simp] theorem after_out (s : State) (d : Nat) (ev : Event) : (after d ev s).out = s.out := rfl
@[simp] theorem after_bootlog (s : State) (d : Nat) (ev : Event) : (after d ev s).bootlog = s.bootlog := rfl
@[simp] theorem after_booted (s : State) (d : Nat) (ev : Event) : (after d ev s).booted = s.booted := rfl
@[simp] theorem after_fwobj (s : State) (d : Nat) (ev : Event) : (after d ev s).fwobj = s.fwobj := rfl
@[simp] theorem after_fencedUnits (s : State) (d : Nat) (ev : Event) : (after d ev s).fencedUnits = s.fencedUnits := rfl

@[simp] theorem holdBack_time8 (s : State) (ev : Event) : (holdBack ev s).time8 = s.time8 := rfl
@[simp] theorem holdBack_cycle (s : State) (ev : Event) : (holdBack ev s).cycle = s.cycle := rfl
@[simp] theorem holdBack_agenda (s : State) (ev : Event) : (holdBack ev s).agenda = s.agenda := rfl
@[simp] theorem holdBack_timers (s : State) (ev : Event) : (holdBack ev s).timers = s.timers := rfl
@[simp] theorem holdBack_sched (s : State) (ev : Event) : (holdBack ev s).sched = s.sched := rfl
@[simp] theorem holdBack_fresh (s : State) (ev : Event) : (holdBack ev s).fresh = s.fresh := rfl
@[simp] theorem holdBack_now (s : State) (ev : Event) : (holdBack ev s).now = s.now := rfl
@[simp] theorem holdBack_cur (s : State) (ev : Event) : (holdBack ev s).cur = s.cur := rfl
@[simp] theorem holdBack_mem (s : State) (ev : Event) : (holdBack ev s).mem = s.mem := rfl
@[simp] theorem holdBack_dram (s : State) (ev : Event) : (holdBack ev s).dram = s.dram := rfl
@[simp] theorem holdBack_words (s : State) (ev : Event) : (holdBack ev s).words = s.words := rfl
@[simp] theorem holdBack_dir (s : State) (ev : Event) : (holdBack ev s).dir = s.dir := rfl
@[simp] theorem holdBack_poison (s : State) (ev : Event) : (holdBack ev s).poison = s.poison := rfl
@[simp] theorem holdBack_slots (s : State) (ev : Event) : (holdBack ev s).slots = s.slots := rfl
@[simp] theorem holdBack_cores (s : State) (ev : Event) : (holdBack ev s).cores = s.cores := rfl
@[simp] theorem holdBack_cells (s : State) (ev : Event) : (holdBack ev s).cells = s.cells := rfl
@[simp] theorem holdBack_slices (s : State) (ev : Event) : (holdBack ev s).slices = s.slices := rfl
@[simp] theorem holdBack_ctxs (s : State) (ev : Event) : (holdBack ev s).ctxs = s.ctxs := rfl
@[simp] theorem holdBack_sqes (s : State) (ev : Event) : (holdBack ev s).sqes = s.sqes := rfl
@[simp] theorem holdBack_links (s : State) (ev : Event) : (holdBack ev s).links = s.links := rfl
@[simp] theorem holdBack_host (s : State) (ev : Event) : (holdBack ev s).host = s.host := rfl
@[simp] theorem holdBack_ras (s : State) (ev : Event) : (holdBack ev s).ras = s.ras := rfl
@[simp] theorem holdBack_inbound (s : State) (ev : Event) : (holdBack ev s).inbound = s.inbound := rfl
@[simp] theorem holdBack_lanelim (s : State) (ev : Event) : (holdBack ev s).lanelim = s.lanelim := rfl
@[simp] theorem holdBack_tvecm (s : State) (ev : Event) : (holdBack ev s).tvecm = s.tvecm := rfl
@[simp] theorem holdBack_out (s : State) (ev : Event) : (holdBack ev s).out = s.out := rfl
@[simp] theorem holdBack_bootlog (s : State) (ev : Event) : (holdBack ev s).bootlog = s.bootlog := rfl
@[simp] theorem holdBack_booted (s : State) (ev : Event) : (holdBack ev s).booted = s.booted := rfl
@[simp] theorem holdBack_fwobj (s : State) (ev : Event) : (holdBack ev s).fwobj = s.fwobj := rfl
@[simp] theorem holdBack_fencedUnits (s : State) (ev : Event) : (holdBack ev s).fencedUnits = s.fencedUnits := rfl

@[simp] theorem sendWake_time8 (s : State) (th : Thr) (m : Msg) : (sendWake th m s).time8 = s.time8 := rfl
@[simp] theorem sendWake_cycle (s : State) (th : Thr) (m : Msg) : (sendWake th m s).cycle = s.cycle := rfl
@[simp] theorem sendWake_timers (s : State) (th : Thr) (m : Msg) : (sendWake th m s).timers = s.timers := rfl
@[simp] theorem sendWake_held (s : State) (th : Thr) (m : Msg) : (sendWake th m s).held = s.held := rfl
@[simp] theorem sendWake_sched (s : State) (th : Thr) (m : Msg) : (sendWake th m s).sched = s.sched := rfl
@[simp] theorem sendWake_fresh (s : State) (th : Thr) (m : Msg) : (sendWake th m s).fresh = s.fresh := rfl
@[simp] theorem sendWake_now (s : State) (th : Thr) (m : Msg) : (sendWake th m s).now = s.now := rfl
@[simp] theorem sendWake_cur (s : State) (th : Thr) (m : Msg) : (sendWake th m s).cur = s.cur := rfl
@[simp] theorem sendWake_mem (s : State) (th : Thr) (m : Msg) : (sendWake th m s).mem = s.mem := rfl
@[simp] theorem sendWake_dram (s : State) (th : Thr) (m : Msg) : (sendWake th m s).dram = s.dram := rfl
@[simp] theorem sendWake_words (s : State) (th : Thr) (m : Msg) : (sendWake th m s).words = s.words := rfl
@[simp] theorem sendWake_dir (s : State) (th : Thr) (m : Msg) : (sendWake th m s).dir = s.dir := rfl
@[simp] theorem sendWake_poison (s : State) (th : Thr) (m : Msg) : (sendWake th m s).poison = s.poison := rfl
@[simp] theorem sendWake_slots (s : State) (th : Thr) (m : Msg) : (sendWake th m s).slots = s.slots := rfl
@[simp] theorem sendWake_cores (s : State) (th : Thr) (m : Msg) : (sendWake th m s).cores = s.cores := rfl
@[simp] theorem sendWake_cells (s : State) (th : Thr) (m : Msg) : (sendWake th m s).cells = s.cells := rfl
@[simp] theorem sendWake_slices (s : State) (th : Thr) (m : Msg) : (sendWake th m s).slices = s.slices := rfl
@[simp] theorem sendWake_ctxs (s : State) (th : Thr) (m : Msg) : (sendWake th m s).ctxs = s.ctxs := rfl
@[simp] theorem sendWake_sqes (s : State) (th : Thr) (m : Msg) : (sendWake th m s).sqes = s.sqes := rfl
@[simp] theorem sendWake_links (s : State) (th : Thr) (m : Msg) : (sendWake th m s).links = s.links := rfl
@[simp] theorem sendWake_host (s : State) (th : Thr) (m : Msg) : (sendWake th m s).host = s.host := rfl
@[simp] theorem sendWake_ras (s : State) (th : Thr) (m : Msg) : (sendWake th m s).ras = s.ras := rfl
@[simp] theorem sendWake_inbound (s : State) (th : Thr) (m : Msg) : (sendWake th m s).inbound = s.inbound := rfl
@[simp] theorem sendWake_lanelim (s : State) (th : Thr) (m : Msg) : (sendWake th m s).lanelim = s.lanelim := rfl
@[simp] theorem sendWake_tvecm (s : State) (th : Thr) (m : Msg) : (sendWake th m s).tvecm = s.tvecm := rfl
@[simp] theorem sendWake_out (s : State) (th : Thr) (m : Msg) : (sendWake th m s).out = s.out := rfl
@[simp] theorem sendWake_bootlog (s : State) (th : Thr) (m : Msg) : (sendWake th m s).bootlog = s.bootlog := rfl
@[simp] theorem sendWake_booted (s : State) (th : Thr) (m : Msg) : (sendWake th m s).booted = s.booted := rfl
@[simp] theorem sendWake_fwobj (s : State) (th : Thr) (m : Msg) : (sendWake th m s).fwobj = s.fwobj := rfl
@[simp] theorem sendWake_fencedUnits (s : State) (th : Thr) (m : Msg) : (sendWake th m s).fencedUnits = s.fencedUnits := rfl

end Sys2Proof.Machine
end

