-- ==== Sys2Proof/Laws/Tables.lean ====
section
/-!
SUPPORT. Sparse tables and memory: what a read finds after a write, and that every table operation keeps the canonical
form (keys strictly rising, no default entry).
-/
namespace Sys2Proof

set_option Elab.async false

variable {α : Type}

/-! ### Canonical form -/

theorem Tab.wfFrom_mono [DecidableEq α] {d : α} {t : Tab α} {b c : Nat} (h : Tab.wfFrom d b t = true) (hc : c ≤ b) :
    Tab.wfFrom d c t = true := by
  cases t with
  | nil => rfl
  | cons x t =>
    obtain ⟨k, x⟩ := x
    simp only [Tab.wfFrom, Bool.and_eq_true, decide_eq_true_eq] at h ⊢
    exact ⟨⟨by omega, h.1.2⟩, h.2⟩

theorem Tab.wfFrom_ins [DecidableEq α] {d : α} {t : Tab α} {b k : Nat} {x : α} (h : Tab.wfFrom d b t = true)
    (hb : b ≤ k) (hx : x ≠ d) : Tab.wfFrom d b (Tab.ins t k x) = true := by
  induction t generalizing b with
  | nil => simp [Tab.ins, Tab.wfFrom, hb, hx]
  | cons y t ih =>
    obtain ⟨j, y⟩ := y
    simp only [Tab.wfFrom, Bool.and_eq_true, decide_eq_true_eq] at h
    simp only [Tab.ins]
    split
    · subst_vars; simp [Tab.wfFrom, h.1.1, hx, h.2]
    · split
      · simp only [Tab.wfFrom, Bool.and_eq_true, decide_eq_true_eq]
        exact ⟨⟨hb, hx⟩, ⟨by omega, h.1.2⟩, h.2⟩
      · simp only [Tab.wfFrom, Bool.and_eq_true, decide_eq_true_eq]
        exact ⟨h.1, ih h.2 (by omega)⟩

theorem Tab.wfFrom_del [DecidableEq α] {d : α} {t : Tab α} {b k : Nat} (h : Tab.wfFrom d b t = true) :
    Tab.wfFrom d b (Tab.del t k) = true := by
  induction t generalizing b with
  | nil => rfl
  | cons y t ih =>
    obtain ⟨j, y⟩ := y
    simp only [Tab.wfFrom, Bool.and_eq_true, decide_eq_true_eq] at h
    simp only [Tab.del]
    split
    · exact Tab.wfFrom_mono h.2 (by omega)
    · split
      · simp only [Tab.wfFrom, Bool.and_eq_true, decide_eq_true_eq]; exact h
      · simp only [Tab.wfFrom, Bool.and_eq_true, decide_eq_true_eq]; exact ⟨h.1, ih h.2⟩

/-- Writing an entry keeps the canonical form. -/
theorem Tab.wf_put [DecidableEq α] {d : α} {t : Tab α} (k : Nat) (x : α) (h : Tab.wf d t = true) :
    Tab.wf d (Tab.put d t k x) = true := by
  unfold Tab.put
  split
  · exact Tab.wfFrom_del h
  · exact Tab.wfFrom_ins h (Nat.zero_le _) (by assumption)

theorem Tab.wf_del [DecidableEq α] {d : α} {t : Tab α} (k : Nat) (h : Tab.wf d t = true) :
    Tab.wf d (Tab.del t k) = true := Tab.wfFrom_del h

theorem Tab.wf_ins [DecidableEq α] {d : α} {t : Tab α} (k : Nat) {x : α} (h : Tab.wf d t = true) (hx : x ≠ d) :
    Tab.wf d (Tab.ins t k x) = true := Tab.wfFrom_ins h (Nat.zero_le _) hx

/-- What a table lists after a write: the new entry, or what it listed before. -/
theorem Tab.mem_put [DecidableEq α] {d : α} {t : Tab α} {k : Nat} {x : α} {y : Nat × α} (h : y ∈ Tab.put d t k x) :
    y = (k, x) ∨ y ∈ t := by
  have hd : ∀ t : Tab α, y ∈ Tab.del t k → y ∈ t := by
    intro t
    induction t with
    | nil => exact fun h => h
    | cons z t ih =>
      obtain ⟨j, z⟩ := z
      unfold Tab.del
      split
      · exact List.mem_cons_of_mem _
      · split
        · exact fun h => h
        · simp only [List.mem_cons]; exact Or.imp_right ih
  have hi : ∀ t : Tab α, y ∈ Tab.ins t k x → y = (k, x) ∨ y ∈ t := by
    intro t
    induction t with
    | nil => simp [Tab.ins]
    | cons z t ih =>
      obtain ⟨j, z⟩ := z
      unfold Tab.ins
      split
      · simp only [List.mem_cons]; exact Or.imp_right Or.inr
      · split
        · simp only [List.mem_cons]; exact id
        · simp only [List.mem_cons]
          rintro (h | h)
          · exact Or.inr (Or.inl h)
          · exact (ih h).imp_right Or.inr
  unfold Tab.put at h
  split at h
  · exact Or.inr (hd t h)
  · exact hi t h

theorem Tab.wfFrom_filter [DecidableEq α] {d : α} {t : Tab α} {b : Nat} (p : Nat × α → Bool)
    (h : Tab.wfFrom d b t = true) : Tab.wfFrom d b (t.filter p) = true := by
  induction t generalizing b with
  | nil => rfl
  | cons y t ih =>
    obtain ⟨j, y⟩ := y
    simp only [Tab.wfFrom, Bool.and_eq_true, decide_eq_true_eq] at h
    simp only [List.filter_cons]
    split
    · simp only [Tab.wfFrom, Bool.and_eq_true, decide_eq_true_eq]; exact ⟨h.1, ih h.2⟩
    · exact Tab.wfFrom_mono (ih h.2) (by omega)

/-- Dropping entries keeps the canonical form. -/
theorem Tab.wf_filter [DecidableEq α] {d : α} {t : Tab α} (p : Nat × α → Bool) (h : Tab.wf d t = true) :
    Tab.wf d (t.filter p) = true := Tab.wfFrom_filter p h

/-! ### Reads after writes -/

theorem Tab.get_ins (d : α) (t : Tab α) (k j : Nat) (x : α) :
    Tab.get d (Tab.ins t k x) j = if k = j then x else Tab.get d t j := by
  induction t with
  | nil =>
    simp only [Tab.ins, Tab.get]
    split
    · rfl
    · split <;> rfl
  | cons y t ih =>
    obtain ⟨i, y⟩ := y
    simp only [Tab.ins]
    split
    · subst_vars
      simp only [Tab.get]
      split <;> rfl
    · split
      · simp only [Tab.get]
        split
        · rfl
        · split
          · rw [if_neg (by omega), if_pos (by omega)]
          · rfl
      · simp only [Tab.get, ih]
        by_cases hj : i = j
        · rw [if_pos hj, if_pos hj, if_neg (by omega)]
        · rw [if_neg hj, if_neg hj]
          by_cases hlt : j < i
          · rw [if_pos hlt, if_pos hlt, if_neg (by omega)]
          · rw [if_neg hlt, if_neg hlt]

theorem Tab.get_of_lt [DecidableEq α] {d : α} {t : Tab α} {b k : Nat} (h : Tab.wfFrom d b t = true) (hk : k < b) :
    Tab.get d t k = d := by
  cases t with
  | nil => rfl
  | cons y t =>
    obtain ⟨j, y⟩ := y
    simp only [Tab.wfFrom, Bool.and_eq_true, decide_eq_true_eq] at h
    simp only [Tab.get]
    rw [if_neg (by omega), if_pos (by omega)]

theorem Tab.get_del [DecidableEq α] {d : α} {t : Tab α} {b : Nat} (k j : Nat) (h : Tab.wfFrom d b t = true) :
    Tab.get d (Tab.del t k) j = if k = j then d else Tab.get d t j := by
  induction t generalizing b with
  | nil => simp [Tab.del, Tab.get]
  | cons y t ih =>
    obtain ⟨i, y⟩ := y
    simp only [Tab.wfFrom, Bool.and_eq_true, decide_eq_true_eq] at h
    simp only [Tab.del]
    split
    · subst_vars
      simp only [Tab.get]
      split
      · subst_vars; exact Tab.get_of_lt h.2 (by omega)
      · split
        · exact Tab.get_of_lt h.2 (by omega)
        · rfl
    · split
      · by_cases hk : k = j
        · subst hk
          rw [if_pos rfl, Tab.get, if_neg (by omega), if_pos (by omega)]
        · rw [if_neg hk]
      · simp only [Tab.get, ih h.2]
        by_cases hj : i = j
        · rw [if_pos hj, if_pos hj, if_neg (by omega)]
        · rw [if_neg hj, if_neg hj]
          by_cases hlt : j < i
          · rw [if_pos hlt, if_pos hlt, ite_self]
          · rw [if_neg hlt, if_neg hlt]

/-- A read after a write to a canonical table gives the value written at its key, and the value before elsewhere. -/
theorem Tab.get_put [DecidableEq α] {d : α} {t : Tab α} (k j : Nat) (x : α) (h : Tab.wf d t = true) :
    Tab.get d (Tab.put d t k x) j = if k = j then x else Tab.get d t j := by
  unfold Tab.put
  split
  · subst_vars; exact Tab.get_del k j h
  · exact Tab.get_ins d t k j x

/-- The same of any table where the value written is not the default. -/
theorem Tab.get_put_ne [DecidableEq α] {d : α} (t : Tab α) (k j : Nat) {x : α} (h : x ≠ d) :
    Tab.get d (Tab.put d t k x) j = if k = j then x else Tab.get d t j := by
  rw [Tab.put, if_neg h]; exact Tab.get_ins d t k j x

/-- Writing back what a canonical table holds changes nothing. -/
theorem Tab.wfFrom_ext [DecidableEq α] {d : α} {t u : Tab α} {b c : Nat} (ht : Tab.wfFrom d b t = true)
    (hu : Tab.wfFrom d c u = true) (h : ∀ k, Tab.get d t k = Tab.get d u k) : t = u := by
  induction t generalizing u b c with
  | nil =>
    cases u with
    | nil => rfl
    | cons y u =>
      obtain ⟨j, y⟩ := y
      simp only [Tab.wfFrom, Bool.and_eq_true, decide_eq_true_eq] at hu
      have := h j
      simp [Tab.get] at this
      exact absurd this.symm hu.1.2
  | cons x t ih =>
    obtain ⟨i, x⟩ := x
    simp only [Tab.wfFrom, Bool.and_eq_true, decide_eq_true_eq] at ht
    cases u with
    | nil =>
      have := h i
      simp [Tab.get] at this
      exact absurd this ht.1.2
    | cons y u =>
      obtain ⟨j, y⟩ := y
      simp only [Tab.wfFrom, Bool.and_eq_true, decide_eq_true_eq] at hu
      have hij : i = j := by
        rcases Nat.lt_trichotomy i j with hlt | heq | hgt
        · have := h i
          simp only [Tab.get, if_true] at this
          rw [if_neg (by omega), if_pos hlt] at this
          exact absurd this ht.1.2
        · exact heq
        · have := h j
          simp only [Tab.get, if_true] at this
          rw [if_neg (by omega), if_pos hgt] at this
          exact absurd this.symm hu.1.2
      subst hij
      have hxy : x = y := by
        have := h i
        simpa [Tab.get] using this
      subst hxy
      congr 1
      refine ih ht.2 hu.2 (fun k => ?_)
      by_cases hk : k ≤ i
      · rw [Tab.get_of_lt ht.2 (by omega), Tab.get_of_lt hu.2 (by omega)]
      · have := h k
        simp only [Tab.get] at this
        rwa [if_neg (by omega), if_neg (by omega), if_neg (by omega), if_neg (by omega)] at this

/-- Equal reads make canonical tables equal: equal tables are equal data. -/
theorem Tab.wf_ext [DecidableEq α] {d : α} {t u : Tab α} (ht : Tab.wf d t = true) (hu : Tab.wf d u = true)
    (h : ∀ k, Tab.get d t k = Tab.get d u k) : t = u := Tab.wfFrom_ext ht hu h

end Sys2Proof

namespace Sys2Proof.Machine

set_option Elab.async false

/-! ### Memory -/

theorem putByte_wf {m : Memory} (pa : Nat) (b : Byte) (h : m.wf = true) : (putByte m pa b).wf = true :=
  Tab.wf_put pa b h

/-- Writing any list of cells keeps memory's canonical form. -/
theorem putCells_wf {m : Memory} (cs : List (Nat × Byte)) (h : m.wf = true) : (putCells m cs).wf = true := by
  unfold putCells
  induction cs generalizing m with
  | nil => exact h
  | cons c cs ih => exact ih (putByte_wf c.1 c.2 h)

theorem putByte_get {m : Memory} (pa a : Nat) (b : Byte) (h : m.wf = true) :
    Tab.get 0 (putByte m pa b) a = if pa = a then b else Tab.get 0 m a := Tab.get_put pa a b h

/-- A byte outside the cells written reads as before. -/
theorem putCells_get_other {m : Memory} (cs : List (Nat × Byte)) (a : Nat) (h : m.wf = true)
    (ha : ∀ c ∈ cs, c.1 ≠ a) : Tab.get 0 (putCells m cs) a = Tab.get 0 m a := by
  unfold putCells
  induction cs generalizing m with
  | nil => rfl
  | cons c cs ih =>
    simp only [List.foldl_cons]
    rw [ih (putByte_wf _ _ h) (fun c hc => ha c (List.mem_cons_of_mem _ hc)), putByte_get _ _ _ h,
      if_neg (ha c (List.mem_cons_self ..))]

/-- Dropping cells keeps memory's canonical form. -/
theorem filter_wf {m : Memory} (p : Host.Cell → Bool) (h : m.wf = true) : Memory.wf (m.filter p) = true :=
  Tab.wf_filter p h

theorem reset_mem_wf : State.reset.mem.wf = true := rfl

/-- The place of a written byte after all the cells of consecutive bytes. -/
theorem cellsAt_mem {pa : Nat} {bs : List Byte} {c : Nat × Byte} (h : c ∈ cellsAt pa bs) :
    pa ≤ c.1 ∧ c.1 < pa + bs.length := by
  induction bs generalizing pa with
  | nil => cases h
  | cons b bs ih =>
    simp only [cellsAt, List.mem_cons] at h
    rcases h with h | h
    · subst h; simp
    · have := ih h; simp; omega

end Sys2Proof.Machine
end

