-- ==== Sys2Proof/Laws/Thread.lean ====
section
/-!
SUPPORT. The executing thread under the operations a meaning is written with: what operands, commit, writeDst,
complete and advance do for an instruction whose sources are full general registers.
-/
namespace Sys2Proof.Safety

set_option Elab.async false

open Sys2Proof.Machine

/-! ### Slots and threads -/

theorem slot_thread_ne (x : Slot) (t : Thread) : { x with occ := .thread t } ≠ ({} : Slot) := by
  intro h
  have := congrArg Slot.occ h
  cases this

theorem slotAt_setThread (s : State) (p q : Nat) (t : Thread) :
    slotAt (setThread s p t) q = if p = q then { slotAt s p with occ := .thread t } else slotAt s q :=
  Tab.get_put_ne _ _ _ (slot_thread_ne _ _)

theorem threadAt_setThread (s : State) (p q : Nat) (t : Thread) :
    threadAt (setThread s p t) q = if p = q then some t else threadAt s q := by
  unfold threadAt
  rw [slotAt_setThread]
  by_cases h : p = q
  · rw [if_pos h, if_pos h]
  · rw [if_neg h, if_neg h]

@[simp] theorem threadAt_setThread_self (s : State) (p : Nat) (t : Thread) : threadAt (setThread s p t) p = some t := by
  rw [threadAt_setThread, if_pos rfl]

theorem me_of {s : State} {th : Thread} (h : threadAt s s.cur = some th) : me s = th := by simp [me, h]

theorem mapMe_of {s : State} {th : Thread} (h : threadAt s s.cur = some th) (f : Thread → Thread) :
    mapMe f s = setThread s s.cur (f th) := by simp [mapMe, mapThread, h]

theorem threadAt_mapMe {s : State} {th : Thread} (h : threadAt s s.cur = some th) (f : Thread → Thread) :
    threadAt (mapMe f s) s.cur = some (f th) := by rw [mapMe_of h]; simp

/-- Slots of a state with the same slots hold the same threads. -/
theorem threadAt_congr {s t : State} (h : t.slots = s.slots) (p : Nat) : threadAt t p = threadAt s p := by
  simp [threadAt, slotAt, h]

/-! ### Quiet -/

/-- What a byte reads as depends on memory, what DRAM and the slices hold, the fresh counter and the registers the debug block
shows. -/
theorem rdByte_congr {s t : State} (hmem : t.mem = s.mem) (hdram : t.dram = s.dram) (hsl : t.slices = s.slices)
    (hfresh : t.fresh = s.fresh) (hdbg : ∀ o, debugRead t o = debugRead s o) (a : Nat) : rdByte t a = rdByte s a := by
  have hl : ∀ l, holdsLine t l = holdsLine s l := fun l => by simp only [holdsLine, sliceAt, hsl]
  have hd : ∀ x, dramByte t x = dramByte s x := fun x => by simp only [dramByte, hdram, hmem]
  unfold rdByte; rw [hmem, hfresh, hdbg, hl, hd]

theorem debugRead_congr {s t : State} (hc : t.cycle = s.cycle) (hr : t.ras = s.ras) (hce : t.cells = s.cells)
    (hsl : t.slices = s.slices)
    (hs : ∀ p, (slotAt t p).loss = (slotAt s p).loss ∧ (slotAt t p).vacLag = (slotAt s p).vacLag)
    (hco : ∀ c, { coreAt t c with qparked := (coreAt s c).qparked } = coreAt s c)
    (hcx : ∀ n, (ctxAt t n).trace = (ctxAt s n).trace) (o : Nat) : debugRead t o = debugRead s o := by
  have hcore : ∀ c, (coreAt t c).hist = (coreAt s c).hist ∧ (coreAt t c).hist0Lag = (coreAt s c).hist0Lag ∧
      (coreAt t c).wakeDrops = (coreAt s c).wakeDrops ∧ (coreAt t c).msgDrops = (coreAt s c).msgDrops ∧
      (coreAt t c).cmps = (coreAt s c).cmps ∧ (coreAt t c).stopcmd = (coreAt s c).stopcmd := by
    intro c
    rw [← hco c]
    exact ⟨rfl, rfl, rfl, rfl, rfl, rfl⟩
  unfold debugRead lossCount histCount
  simp only [hc, hr, (hs _).1, (hs _).2, hcx, (hcore _).1, (hcore _).2.1, (hcore _).2.2.1, (hcore _).2.2.2.1,
    (hcore _).2.2.2.2.1, (hcore _).2.2.2.2.2, cellAt, sliceAt, hce, hsl]

/-- Quiet from its parts but the last, which follows from them. -/
theorem Quiet.of {s t : State} (hsl : ∀ p, p ≠ s.cur → slotAt t p = slotAt s p)
    (hcur : { slotAt t s.cur with occ := (slotAt s s.cur).occ } = slotAt s s.cur)
    (hco : ∀ c, { coreAt t c with qparked := (coreAt s c).qparked } = coreAt s c)
    (hcx : ∀ n, { ctxAt t n with energyPj := (ctxAt s n).energyPj } = ctxAt s n)
    (hrest : { t with slots := s.slots, cores := s.cores, ctxs := s.ctxs } = s) : Quiet s t := by
  refine ⟨hsl, hcur, hco, hcx, hrest, fun a => ?_⟩
  have e1 : t.mem = s.mem := by have := congrArg State.mem hrest; exact this
  have e2 : t.fresh = s.fresh := by have := congrArg State.fresh hrest; exact this
  have e3 : t.cycle = s.cycle := by have := congrArg State.cycle hrest; exact this
  have e4 : t.ras = s.ras := by have := congrArg State.ras hrest; exact this
  have e5 : t.cells = s.cells := by have := congrArg State.cells hrest; exact this
  have e6 : t.slices = s.slices := by have := congrArg State.slices hrest; exact this
  have e7 : t.dram = s.dram := by have := congrArg State.dram hrest; exact this
  refine rdByte_congr e1 e7 e6 e2 (debugRead_congr e3 e4 e5 e6 ?_ hco ?_) a
  · intro p
    by_cases hp : p = s.cur
    · subst hp
      constructor
      · have := congrArg Slot.loss hcur; exact this
      · have := congrArg Slot.vacLag hcur; exact this
    · rw [hsl p hp]; exact ⟨rfl, rfl⟩
  · intro n
    have := congrArg Ctx.trace (hcx n); exact this

theorem Quiet.refl (s : State) : Quiet s s := Quiet.of (fun _ _ => rfl) rfl (fun _ => rfl) (fun _ => rfl) rfl

theorem Quiet.cur {s t : State} (h : Quiet s t) : t.cur = s.cur := by have := congrArg State.cur h.rest; exact this
theorem Quiet.cycle {s t : State} (h : Quiet s t) : t.cycle = s.cycle := by have := congrArg State.cycle h.rest; exact this
theorem Quiet.time8 {s t : State} (h : Quiet s t) : t.time8 = s.time8 := by have := congrArg State.time8 h.rest; exact this

theorem Quiet.trans {s t u : State} (h : Quiet s t) (k : Quiet t u) : Quiet s u := by
  have hc := h.cur
  obtain ⟨h1, h2, h3, h4, h5, h6⟩ := h
  obtain ⟨k1, k2, k3, k4, k5, k6⟩ := k
  rw [hc] at k1 k2
  refine ⟨fun p hp => (k1 p hp).trans (h1 p hp), ?_, fun c => ?_, fun n => ?_, ?_, fun a => (k6 a).trans (h6 a)⟩
  · rw [← h2, ← k2]
  · rw [← h3 c, ← k3 c]
  · rw [← h4 n, ← k4 n]
  · rw [← k5] at h5; rw [← h5]

theorem quiet_setThread (s : State) (t : Thread) : Quiet s (setThread s s.cur t) := by
  refine Quiet.of (fun p hp => ?_) ?_ (fun c => rfl) (fun n => rfl) rfl
  · rw [slotAt_setThread, if_neg (Ne.symm hp)]
  · rw [slotAt_setThread, if_pos rfl]

theorem quiet_mapMe (s : State) (f : Thread → Thread) : Quiet s (mapMe f s) := by
  unfold mapMe mapThread
  split
  · exact quiet_setThread _ _
  · exact Quiet.refl s

theorem coreAt_setCore {s : State} (h : Canonical s) (c e : Nat) (x : Core) :
    coreAt (setCore s c x) e = if c = e then x else coreAt s e := Tab.get_put c e x h.2.2.2.2.2.1

theorem ctxAt_setCtx {s : State} (h : Canonical s) (n m : Nat) (x : Ctx) :
    ctxAt (setCtx s n x) m = if n = m then x else ctxAt s m := Tab.get_put n m x h.2.2.2.2.2.2.2.2.1

theorem quiet_unparkQueues {s : State} (h : Canonical s) : Quiet s (unparkQueues s) := by
  unfold unparkQueues
  simp only
  split
  · refine Quiet.of (fun _ _ => rfl) rfl (fun c => ?_) (fun _ => rfl) rfl
    rw [coreAt_setCore h]
    split
    · subst_vars; rfl
    · rfl
  · exact Quiet.refl s

theorem quiet_charge {s : State} (h : Canonical s) (n pj : Nat) : Quiet s (charge n pj s) := by
  refine Quiet.of (fun _ _ => rfl) rfl (fun _ => rfl) (fun m => ?_) rfl
  unfold charge
  rw [ctxAt_setCtx h]
  split
  · subst_vars; rfl
  · rfl

/-! ### Canonical tables under the plain operations -/

theorem canonical_setThread {s : State} (h : Canonical s) (p : Nat) (t : Thread) : Canonical (setThread s p t) := by
  obtain ⟨h1, h2, h3, h4, h5, h6⟩ := h
  exact ⟨h1, h2, h3, h4, (Tab.wf_put p { slotAt s p with occ := .thread t } h5 :), h6⟩

theorem canonical_mapMe {s : State} (h : Canonical s) (f : Thread → Thread) : Canonical (mapMe f s) := by
  unfold mapMe mapThread
  split
  · exact canonical_setThread h _ _
  · exact h

theorem canonical_setCore {s : State} (h : Canonical s) (c : Nat) (x : Core) : Canonical (setCore s c x) := by
  obtain ⟨h1, h2, h3, h4, h5, h6, h7⟩ := h
  exact ⟨h1, h2, h3, h4, h5, Tab.wf_put _ _ h6, h7⟩

/-- The tables of one context's queues are in canonical form. -/
def CtxOk (x : Ctx) : Prop := Tab.wf [] x.pool = true ∧ Tab.wf [] x.taskq = true ∧ Tab.wf [] x.trace.queues = true

theorem ctxOk_ctxAt {s : State} (h : Canonical s) (n : Nat) : CtxOk (ctxAt s n) := by
  have hq := h.2.2.2.2.2.2.2.2.2.2.2.2.2
  simp only [queuesOk, Bool.and_eq_true, List.all_eq_true] at hq
  have key : ∀ t : Tab Ctx, (∀ x ∈ t, (Tab.wf [] x.2.pool = true ∧ Tab.wf [] x.2.taskq = true) ∧
      Tab.wf [] x.2.trace.queues = true) → CtxOk (Tab.get {} t n) := by
    intro t
    induction t with
    | nil => intro _; exact ⟨rfl, rfl, rfl⟩
    | cons y t ih =>
      intro hy
      obtain ⟨j, y⟩ := y
      unfold Tab.get
      split
      · have := hy (j, y) (List.mem_cons_self ..); exact ⟨this.1.1, this.1.2, this.2⟩
      · split
        · exact ⟨rfl, rfl, rfl⟩
        · exact ih (fun x hx => hy x (List.mem_cons_of_mem _ hx))
  exact key _ hq.1

theorem canonical_setCtx {s : State} (h : Canonical s) (n : Nat) {x : Ctx} (hx : CtxOk x) : Canonical (setCtx s n x) := by
  obtain ⟨h1, h2, h3, h4, h5, h6, h7, h8, h9, h10, h11, h12, h13, h14⟩ := h
  refine ⟨h1, h2, h3, h4, h5, h6, h7, h8, Tab.wf_put _ _ h9, h10, h11, h12, h13, ?_⟩
  simp only [queuesOk, Bool.and_eq_true, List.all_eq_true] at h14 ⊢
  refine ⟨fun y hy => ?_, h14.2⟩
  rcases Tab.mem_put hy with h | h
  · subst h; exact ⟨⟨hx.1, hx.2.1⟩, hx.2.2⟩
  · exact h14.1 y h

theorem canonical_charge {s : State} (h : Canonical s) (n pj : Nat) : Canonical (charge n pj s) :=
  canonical_setCtx h n (ctxOk_ctxAt h n)

theorem canonical_unparkQueues {s : State} (h : Canonical s) : Canonical (unparkQueues s) := by
  unfold unparkQueues
  simp only
  split
  · exact canonical_setCore h _ _
  · exact h

@[simp] theorem unparkQueues_cur (s : State) : (unparkQueues s).cur = s.cur := by unfold unparkQueues; simp only; split <;> rfl
@[simp] theorem unparkQueues_slots (s : State) : (unparkQueues s).slots = s.slots := by
  unfold unparkQueues; simp only; split <;> rfl

@[simp] theorem threadAt_unparkQueues (s : State) (p : Nat) : threadAt (unparkQueues s) p = threadAt s p :=
  threadAt_congr (unparkQueues_slots s) p

/-! ### Register sources and destinations -/

theorem modeOf_le {ss : List Src} {r : Nat} (h : ∀ x ∈ ss, x.m ≤ 2) : ∀ m, m ≤ 2 →
    ss.foldl (fun m x => if x.r = r then Nat.max m x.m else m) m ≤ 2 := by
  induction ss with
  | nil => exact fun m hm => hm
  | cons x ss ih =>
    intro m hm
    simp only [List.foldl_cons]
    refine ih (fun y hy => h y (List.mem_cons_of_mem _ hy)) _ ?_
    split
    · exact Nat.max_le.2 ⟨hm, h x (List.mem_cons_self ..)⟩
    · exact hm

theorem modeOf_eq_two {ss : List Src} {r : Nat} (h : ∀ x ∈ ss, x.m ≤ 2) : modeOf ss r = 2 ↔ takes ss r = true := by
  have key : ∀ (ss : List Src), (∀ x ∈ ss, x.m ≤ 2) → ∀ m, m ≤ 2 →
      (ss.foldl (fun m x => if x.r = r then Nat.max m x.m else m) m = 2 ↔ m = 2 ∨ takes ss r = true) := by
    intro ss
    induction ss with
    | nil => intro _ m hm; simp [takes]
    | cons x ss ih =>
      intro h m hm
      have hx := h x (List.mem_cons_self ..)
      simp only [List.foldl_cons]
      rw [ih (fun y hy => h y (List.mem_cons_of_mem _ hy)) _ (by split; exact Nat.max_le.2 ⟨hm, hx⟩; exact hm)]
      by_cases hr : x.r = r
      · by_cases hm2 : x.m = 2
        · have hmax : Nat.max m x.m = 2 := by rw [hm2]; exact Nat.max_eq_right hm
          simp [takes, hr, hm2, hm]
        · have hmax : Nat.max m x.m = 2 ↔ m = 2 := by
            have : Nat.max m x.m = max m x.m := rfl
            rw [this]; omega
          simp [takes, hr, hm2, hmax]
      · simp [takes, hr]
  unfold modeOf
  rw [key ss h 0 (by omega)]
  simp

theorem regOf_setReg (t : Thread) (r q : Nat) (g : GReg) (h : q < 28) :
    regOf (setReg r g t) q = if r = q then g else regOf t q := by
  unfold regOf setReg
  by_cases hr : r = q
  · subst hr
    rw [if_pos rfl, Vector.getElem?_setIfInBounds]
    simp [h]
  · rw [if_neg hr, Vector.getElem?_setIfInBounds, if_neg hr]

theorem popNames_regs {ss : List Src} (h : ∀ x ∈ ss, x.r < 28) : popNames ss = [] := by
  unfold popNames
  rw [List.map_eq_nil_iff, List.filter_eq_nil_iff]
  intro x hx
  have := h x hx
  simp; omega

/-- The values of register sources. -/
theorem srcVals_regs {s : State} {t : Thread} {core : Nat} {ss : List Src} (h : ∀ x ∈ ss, x.r < 28) :
    srcVals s t core ss = ss.map (fun x => (regOf t x.r).val) := by
  unfold srcVals
  have key : ∀ (g : Src × Nat → Word) (l : List (Src × Nat)), (∀ x ∈ l, g x = (regOf t x.1.r).val) →
      l.map g = (l.map (fun x => x.1)).map (fun x => (regOf t x.r).val) := by
    intro g l hl
    rw [List.map_map]
    exact List.map_congr_left hl
  refine (key _ _ ?_).trans ?_
  · intro x hx
    exact if_pos (h _ (List.fst_mem_of_mem_zipIdx hx))
  · congr 1
    exact List.zipIdx_map_fst 0 ss

/-- Steps 4 to 6 of R48 pass, with the registers' values, where every source is a full general register and the
destination is a general register that is empty or full. -/
theorem operands_regs {s : State} {th : Thread} {ss : List Src} {d : Nat} (ht : threadAt s s.cur = some th)
    (hs : ∀ x ∈ ss, ReadyNow th x) (hd : Writable th d) :
    operands ss (.reg d) s = .ok (ss.map (fun x => (regOf th x.r).val)) := by
  have hr : ∀ x ∈ ss, x.r < 28 := fun x hx => (hs x hx).1
  have hheld : heldIn th ss (.reg d) = none := by
    unfold heldIn
    rw [List.head?_eq_none_iff, List.filterMap_eq_nil_iff]
    intro r hr'
    rw [List.mem_append, List.mem_map] at hr'
    rcases hr' with ⟨x, hx, rfl⟩ | hr'
    · simp [(hs x hx).2.2]
    · simp only [List.mem_singleton] at hr'
      subst hr'
      rcases hd.2 with h | h <;> simp [h]
  have hempty : emptySrc th ss = none := by
    unfold emptySrc
    rw [Option.map_eq_none_iff, List.find?_eq_none]
    intro x hx
    simp [(hs x hx).2.2]
  have hpend : pendingReg th ss (.reg d) = none := by
    unfold pendingReg
    rw [List.find?_eq_none]
    intro r hr'
    simp only [List.mem_append, List.mem_map] at hr'
    rcases hr' with ⟨x, hx, rfl⟩ | hr'
    · simp [(hs x hx).2.2]
    · simp only [List.mem_singleton] at hr'
      subst hr'
      rcases hd.2 with h | h <;> simp [h]
  have hd28 : ¬ 28 ≤ d := by have := hd.1; omega
  unfold operands
  simp only [ht, hheld, hempty, hpend, popNames_regs hr, if_neg hd28, srcVals_regs hr]
  simp [queueFault, queuePark]

/-- The same where the instruction writes no register. -/
theorem operands_none {s : State} {th : Thread} {ss : List Src} (ht : threadAt s s.cur = some th)
    (hs : ∀ x ∈ ss, ReadyNow th x) : operands ss .none s = .ok (ss.map (fun x => (regOf th x.r).val)) := by
  have hr : ∀ x ∈ ss, x.r < 28 := fun x hx => (hs x hx).1
  have hheld : heldIn th ss .none = none := by
    unfold heldIn
    rw [List.head?_eq_none_iff, List.filterMap_eq_nil_iff]
    intro r hr'
    simp only [List.append_nil, List.mem_map] at hr'
    obtain ⟨x, hx, rfl⟩ := hr'
    simp [(hs x hx).2.2]
  have hempty : emptySrc th ss = none := by
    unfold emptySrc
    rw [Option.map_eq_none_iff, List.find?_eq_none]
    intro x hx
    simp [(hs x hx).2.2]
  have hpend : pendingReg th ss .none = none := by
    unfold pendingReg
    rw [List.find?_eq_none]
    intro r hr'
    simp only [List.append_nil, List.mem_map] at hr'
    obtain ⟨x, hx, rfl⟩ := hr'
    simp [(hs x hx).2.2]
  unfold operands
  simp only [ht, hheld, hempty, hpend, popNames_regs hr, srcVals_regs hr]
  simp [queueFault, queuePark]

/-- The same for a posted producer whose destination is empty or full, with a place free (R39). -/
theorem operands_posted {s : State} {th : Thread} {ss : List Src} {d : Nat} (ht : threadAt s s.cur = some th)
    (hs : ∀ x ∈ ss, ReadyNow th x) (hd : Writable th d) (hp : postedCount th < 4) :
    operands ss (.posted d) s = .ok (ss.map (fun x => (regOf th x.r).val)) := by
  have hr : ∀ x ∈ ss, x.r < 28 := fun x hx => (hs x hx).1
  have hheld : heldIn th ss (.posted d) = none := by
    unfold heldIn
    rw [List.head?_eq_none_iff, List.filterMap_eq_nil_iff]
    intro r hr'
    rw [List.mem_append, List.mem_map] at hr'
    rcases hr' with ⟨x, hx, rfl⟩ | hr'
    · simp [(hs x hx).2.2]
    · simp only [List.mem_singleton] at hr'
      subst hr'
      rcases hd.2 with h | h <;> simp [h]
  have hempty : emptySrc th ss = none := by
    unfold emptySrc
    rw [Option.map_eq_none_iff, List.find?_eq_none]
    intro x hx
    simp [(hs x hx).2.2]
  have hpend : pendingReg th ss (.posted d) = none := by
    unfold pendingReg
    rw [List.find?_eq_none]
    intro r hr'
    simp only [List.mem_append, List.mem_map] at hr'
    rcases hr' with ⟨x, hx, rfl⟩ | hr'
    · simp [(hs x hx).2.2]
    · simp only [List.mem_singleton] at hr'
      subst hr'
      rcases hd.2 with h | h <;> simp [h]
  have h4 : ¬ 4 ≤ postedCount th := by omega
  unfold operands
  simp only [ht, hheld, hempty, hpend, popNames_regs hr, srcVals_regs hr, h4]
  simp [queueFault, queuePark]

/-! ### Taking the sources -/

/-- The thread with the registers that sources take empty (R37). -/
def takeRegs (t : Thread) (ss all : List Src) (u : Thread) : Thread :=
  ss.foldl (fun u x => if x.r < 28 ∧ modeOf all x.r = 2 then setReg x.r { st := .empty, val := (regOf t x.r).val } u else u) u

theorem takeRegs_regs (t : Thread) (ss all : List Src) (u : Thread) :
    { takeRegs t ss all u with regs := u.regs } = u := by
  unfold takeRegs
  induction ss generalizing u with
  | nil => rfl
  | cons x ss ih =>
    simp only [List.foldl_cons]
    split
    · have := ih (setReg x.r { st := .empty, val := (regOf t x.r).val } u)
      have h2 : ∀ (a b : Thread) (v : Vector GReg 28), { a with regs := b.regs } = b → { a with regs := v } = { b with regs := v } := by
        intro a b v h
        rw [← h]
      rw [h2 _ _ u.regs this]
      rfl
    · exact ih u

theorem regOf_takeRegs (t : Thread) (ss all : List Src) (u : Thread) (r : Nat) (hr : r < 28) :
    regOf (takeRegs t ss all u) r =
      if (∃ x ∈ ss, x.r = r) ∧ modeOf all r = 2 then { st := .empty, val := (regOf t r).val } else regOf u r := by
  unfold takeRegs
  induction ss generalizing u with
  | nil => simp
  | cons x ss ih =>
    simp only [List.foldl_cons]
    rw [ih]
    by_cases h2 : modeOf all r = 2
    · by_cases hx : x.r = r
      · subst hx
        simp [hr, h2, regOf_setReg]
      · have : regOf (if x.r < 28 ∧ modeOf all x.r = 2 then setReg x.r { st := .empty, val := (regOf t x.r).val } u else u) r =
            regOf u r := by
          split
          · rw [regOf_setReg _ _ _ _ hr, if_neg hx]
          · rfl
        rw [this]
        simp [h2, hx]
    · have : regOf (if x.r < 28 ∧ modeOf all x.r = 2 then setReg x.r { st := .empty, val := (regOf t x.r).val } u else u) r =
          regOf u r := by
        split
        · rename_i h
          rw [regOf_setReg _ _ _ _ hr, if_neg]
          rintro rfl
          exact h2 h.2
        · rfl
      rw [this]
      simp [h2]

/-- The state after register sources are taken: quiet, and the thread has lost what it took. -/
theorem commit_regs {s : State} {th : Thread} {ss : List Src} (hc : Canonical s) (ht : threadAt s s.cur = some th)
    (hs : ∀ x ∈ ss, x.r < 28) :
    Quiet s (commit ss s) ∧ Canonical (commit ss s) ∧ threadAt (commit ss s) s.cur = some (takeRegs th ss ss th) := by
  unfold commit
  simp only [popNames_regs hs, List.foldl_nil, me_of ht]
  have key : ∀ (l : List Src) (u : State) (tu : Thread), Canonical u → Quiet s u → threadAt u s.cur = some tu →
      Quiet s (l.foldl (fun s x => if x.r < 28 ∧ modeOf ss x.r = 2 then
        mapMe (setReg x.r { st := .empty, val := (regOf th x.r).val }) s else s) u) ∧
      Canonical (l.foldl (fun s x => if x.r < 28 ∧ modeOf ss x.r = 2 then
        mapMe (setReg x.r { st := .empty, val := (regOf th x.r).val }) s else s) u) ∧
      threadAt (l.foldl (fun s x => if x.r < 28 ∧ modeOf ss x.r = 2 then
        mapMe (setReg x.r { st := .empty, val := (regOf th x.r).val }) s else s) u) s.cur = some (takeRegs th l ss tu) := by
    intro l
    induction l with
    | nil => intro u tu h1 h2 h3; exact ⟨h2, h1, h3⟩
    | cons x l ih =>
      intro u tu h1 h2 h3
      simp only [List.foldl_cons, takeRegs]
      split
      · refine ih _ _ (canonical_mapMe h1 _) (h2.trans (quiet_mapMe _ _)) ?_
        have hcur := h2.cur
        rw [← hcur] at h3 ⊢
        exact threadAt_mapMe h3 _
      · exact ih _ _ h1 h2 h3
  obtain ⟨h1, h2, h3⟩ := key ss s th hc (Quiet.refl s) ht
  exact ⟨h1.trans (quiet_unparkQueues h2), canonical_unparkQueues h2, by rw [threadAt_unparkQueues]; exact h3⟩

/-! ### Completion -/

theorem atTop_of {s : State} {th : Thread} (h : Executing s th) : atTop s = false := by
  unfold atTop
  rw [me_of h.1]
  simpa [lastPc, topPc] using h.2.2

theorem settled_passed (s t : State) (th : Thread) (hcy : t.cycle = s.cycle) :
    settled t { th with pc := pcNext th.pc } = passed s th := by
  unfold settled passed pcNext
  rw [hcy]

/-- Completion of a thread that has raised nothing: PC + 4, its pass over. -/
theorem complete_of {s u : State} {th tu : Thread} (he : Executing s th) (hq : Quiet s u)
    (hu : threadAt u s.cur = some tu) (hf : tu.form = .ready) :
    Quiet s (complete s u) ∧ threadAt (complete s u) s.cur = some (passed s tu) := by
  have hcur := hq.cur
  unfold complete
  rw [atTop_of he]
  have hu' : threadAt u u.cur = some tu := by rw [hcur]; exact hu
  rw [me_of hu']
  simp only [hf, Bool.false_eq_true, if_false]
  unfold advance
  refine ⟨hq.trans (quiet_mapMe _ _), ?_⟩
  rw [← hcur, threadAt_mapMe hu']
  simp only [hf]
  exact congrArg some (settled_passed s u tu hq.cycle)

/-- The form of a thread does not change when it takes registers. -/
theorem takeRegs_form (t : Thread) (ss all : List Src) (u : Thread) : (takeRegs t ss all u).form = u.form :=
  by have := congrArg Thread.form (takeRegs_regs t ss all u); exact this

theorem regOf_passed (s : State) (th : Thread) (r : Nat) : regOf (passed s th) r = regOf th r := rfl

theorem withOps_ok {ss : List Src} {d : Dst} {s : State} {vs : List Word} (h : operands ss d s = .ok vs)
    (k : List Word → State) : withOps ss d s k = .next (k vs) := by rw [withOps, h]

theorem afterRead_takeRegs {th : Thread} {ss : List Src} (hs : ∀ x ∈ ss, ReadyNow th x) {r : Nat} (hr : r < 28) :
    regOf (takeRegs th ss ss th) r = afterRead ss th r := by
  have hm := modeOf_eq_two (r := r) (fun x hx => (hs x hx).2.1)
  rw [regOf_takeRegs _ _ _ _ _ hr]
  unfold afterRead
  by_cases ht : takes ss r = true
  · rw [if_pos ht, if_pos]
    refine ⟨?_, hm.2 ht⟩
    unfold takes at ht
    simp only [List.any_eq_true, Bool.and_eq_true, beq_iff_eq] at ht
    obtain ⟨x, hx, hxr, _⟩ := ht
    exact ⟨x, hx, hxr⟩
  · rw [if_neg ht, if_neg (fun h => ht (hm.1 h.2))]

theorem with_regs_of {u th : Thread} (h : { u with regs := th.regs } = th) : u = { th with regs := u.regs } := by
  rw [← h]

theorem passed_regs {s : State} {u th : Thread} (v : Vector GReg 28) (h : { u with regs := th.regs } = th) :
    { passed s { u with regs := v } with regs := th.regs } = passed s th := by
  rw [← h]
  rfl

/-- The result of an instruction written to a register and completed: the statement's WritesReg. -/
theorem complete_writeDst {s : State} {th : Thread} {ss : List Src} {d : Nat} (v : Word) (hc : Canonical s)
    (he : Executing s th) (hs : ∀ x ∈ ss, ReadyNow th x) (hd : d < 28) :
    WritesReg s (complete s (writeDst d v (commit ss s))) th ss d v := by
  obtain ⟨q1, c1, t1⟩ := commit_regs hc he.1 (fun x hx => (hs x hx).1)
  have hcur := q1.cur
  have hw : writeDst d v (commit ss s) = mapMe (setFull d v) (commit ss s) := by
    unfold writeDst; rw [if_pos hd]
  rw [hw]
  have t1' : threadAt (commit ss s) (commit ss s).cur = some (takeRegs th ss ss th) := by rw [hcur]; exact t1
  have t2 : threadAt (mapMe (setFull d v) (commit ss s)) s.cur = some (setFull d v (takeRegs th ss ss th)) := by
    rw [← hcur]; exact threadAt_mapMe t1' _
  have q2 := q1.trans (quiet_mapMe (commit ss s) (setFull d v))
  have hf : (setFull d v (takeRegs th ss ss th)).form = .ready := by
    show (takeRegs th ss ss th).form = .ready
    rw [takeRegs_form]; exact he.2.1
  obtain ⟨q3, t3⟩ := complete_of he q2 t2 hf
  refine ⟨_, t3, ?_, passed_regs _ (takeRegs_regs th ss ss th), q3⟩
  intro r hr28
  rw [regOf_passed]
  unfold setFull
  rw [regOf_setReg _ _ _ _ hr28]
  by_cases hdr : r = d
  · rw [if_pos hdr, if_pos hdr.symm]
  · rw [if_neg hdr, if_neg (Ne.symm hdr), afterRead_takeRegs hs hr28]

/-- An instruction on register sources that computes one result completes: the statement's WritesReg. -/
theorem computes_regs {s : State} {th : Thread} {ss : List Src} {d : BitVec 5} {f : List Word → Word}
    (hc : Canonical s) (he : Executing s th) (hs : ∀ x ∈ ss, ReadyNow th x) (hd : Writable th d.toNat) :
    ∃ t, computes ss d f s = .next t ∧ WritesReg s t th ss d.toNat (f (ss.map (fun x => (regOf th x.r).val))) :=
  ⟨_, withOps_ok (operands_regs he.1 hs hd) _, complete_writeDst _ hc he hs hd.1⟩

/-- An instruction that changes the thread with f once its sources are taken, and completes. -/
theorem complete_mapMe {s : State} {th : Thread} {ss : List Src} (f : Thread → Thread) (hc : Canonical s)
    (he : Executing s th) (hs : ∀ x ∈ ss, ReadyNow th x) (hf : ∀ u v, f { u with regs := v } = { f u with regs := v })
    (hform : (f th).form = .ready) (hregs : (f th).regs = th.regs) :
    ChangesThread s (complete s (mapMe f (commit ss s))) th ss f := by
  obtain ⟨q1, c1, t1⟩ := commit_regs hc he.1 (fun x hx => (hs x hx).1)
  have hcur := q1.cur
  have t1' : threadAt (commit ss s) (commit ss s).cur = some (takeRegs th ss ss th) := by rw [hcur]; exact t1
  have t2 : threadAt (mapMe f (commit ss s)) s.cur = some (f (takeRegs th ss ss th)) := by
    rw [← hcur]; exact threadAt_mapMe t1' _
  have q2 := q1.trans (quiet_mapMe (commit ss s) f)
  have e := with_regs_of (takeRegs_regs th ss ss th)
  have e2 : f (takeRegs th ss ss th) = { f th with regs := (takeRegs th ss ss th).regs } :=
    (congrArg f e).trans (hf _ _)
  obtain ⟨q3, t3⟩ := complete_of he q2 t2 (by rw [e2]; exact hform)
  refine ⟨_, t3, ?_, ?_, q3⟩
  · intro r hr28
    rw [regOf_passed, e2, ← afterRead_takeRegs hs hr28]
    rfl
  · rw [e2]
    have : ∀ (w : Thread) (v : Vector GReg 28), w.regs = th.regs →
        { passed s { w with regs := v } with regs := th.regs } = passed s w := by
      intro w v h; rw [← h]; rfl
    exact this _ _ hregs

end Sys2Proof.Safety
end

