-- ==== Sys2Proof/Tests/Machines.lean ====
section
/-!
SUPPORT. Small machines for the tests: a booted device with context 1 placed on cell 0, its tables in DRAM, and one thread
in a slot; and the lemmas with which a witness meets the hypotheses on memory.
-/
namespace Sys2Proof.Tests

open Sys2Proof Sys2Proof.Machine Sys2Proof.Safety

set_option Elab.async false

/-- A linear address, an address of the own scratchpad, one of another core's window (R86). -/
def lin (pa : Nat) : Word := BitVec.ofNat 64 (0x00F0 * 2 ^ 48 + pa)
def loc (o : Nat) : Word := BitVec.ofNat 64 (0x00FD * 2 ^ 48 + o)
def win (c o : Nat) : Word := BitVec.ofNat 64 (0x00FC * 2 ^ 48 + c * 0x40000 + o)

/-- A register file with the values listed, the other registers empty. -/
def regsOf (l : List (Nat × Word)) : Vector GReg 28 :=
  l.foldl (fun v x => v.setIfInBounds x.1 { st := .full, val := x.2 }) (Vector.replicate 28 {})

/-- Memory with a doubleword's bytes in the place of those at its address. -/
def putWord (pa : Nat) (cells : Memory) : Memory → Memory
  | [] => cells
  | (j, x) :: t => if j < pa then (j, x) :: putWord pa cells t else cells ++ ((j, x) :: t).dropWhile (fun c => decide (c.1 < pa + 8))

/-- A state with doublewords put into memory, the last of the list first. -/
def mem (l : List (Nat × Word)) (s : State) : State :=
  { s with mem := l.foldr (fun x m =>
      putWord x.1 ((cellsAt x.1 (leBytes 8 x.2.toNat)).filter (fun c => c.2 != 0)) m) s.mem }

/-- Context 1's table entry: area i of its vault lies at 0x20000 + 0x1000 i. -/
def ctxMem : List (Nat × Word) :=
  [(0x10410, lin 0x30000), (0x10418, BitVec.ofNat 64 (64 + 1 * 2 ^ 42))] ++
  (List.range 16).map (fun i => (0x10420 + 8 * i, lin (0x20000 + 0x1000 * i)))

def c1 : Ctx :=
  { st := .resident, cells := [0], parklim := 20000, promote := 100000, feretry := 4, migthr := 1024,
    freeTids := [7, 8, 9], tidNext := 10 }

/-- The device with context 1 resident on cell 0. -/
def b0 : State :=
  let s := State.reset
  let s := { s with booted := true, host := { s.host with ctxtab := 0x10000, rsvbase := 0, mboxbase := 0x40000 }
                    time8 := 800, cycle := 80 }
  let s := mem ctxMem s
  let s := setCtx s 1 c1
  let s := setCell s 0 { cellAt s 0 with owner := some 1 }
  (List.range 4).foldl (fun s i => setCore s i { coreAt s i with owner := some (1, i) }) s

/-- A ready thread of context 1. -/
def thr (tid : Nat) (status : Word) (regs : List (Nat × Word)) : Thread :=
  { tid := tid, ctx := 1, pc := 0x1000, status := status, regs := regsOf regs, issued := 79, readyAt := 79 }

/-- The device with the thread in a slot, which issues. -/
def run (th : Thread) (s : State := b0) (p : Nat := 0) : State := { setThread s p th with cur := p }

/-- The one element of a plan. -/
def el (c : Plan) : Elem := match c with | .go [e] => e | _ => ⟨0, 0, 0, 0⟩

/-- The state after an instruction, or after an event's delivery. -/
def getT (i : Instr) (s : State) : State := match exec i s with | .next t => t | _ => s
def getE (s : State) (e : Event) : State := match exec e.instr { s with now := some e } with | .next t => t | _ => s
def getTh (t : State) (p : Nat) : Thread := (threadAt t p).getD { tid := 0, ctx := 0, pc := 0 }

/-- A byte that no entry of memory lists reads as 0. -/
theorem get_unlisted (m : Memory) (a : Nat) (h : ∀ x ∈ m, a < x.1) : Tab.get 0 m a = 0 := by
  cases m with
  | nil => rfl
  | cons x t =>
    have hx := h x (by simp)
    obtain ⟨j, v⟩ := x
    have h1 : j ≠ a := by simp only at hx; omega
    have h2 : a < j := hx
    simp [Tab.get, h1, h2]

theorem leNat_zeros (l : List Byte) (h : ∀ b ∈ l, b = 0) : leNat l = 0 := by
  induction l with
  | nil => rfl
  | cons b t ih =>
    have hb := h b (by simp)
    have ht := ih (fun x hx => h x (by simp [hx]))
    simp [leNat, hb, ht]

theorem rdBytes_zeros (s : State) (n : Nat) : ∀ a, (∀ x, a ≤ x → x < a + n → rdByte s x = 0) → ∀ b ∈ rdBytes s a n, b = 0 := by
  induction n with
  | zero => intro a _ b hb; simp [rdBytes] at hb
  | succ n ih =>
    intro a h b hb
    simp only [rdBytes, List.mem_cons] at hb
    rcases hb with hb | hb
    · rw [hb]; exact h a (Nat.le_refl a) (by omega)
    · exact ih (a + 1) (fun x h1 h2 => h x (by omega) (by omega)) b hb

theorem rdBytes_same (s t : State) (n : Nat) : ∀ a, (∀ x, a ≤ x → x < a + n → rdByte s x = rdByte t x) →
    rdBytes s a n = rdBytes t a n := by
  induction n with
  | zero => intro a _; rfl
  | succ n ih =>
    intro a h
    simp only [rdBytes]
    rw [h a (Nat.le_refl a) (by omega), ih (a + 1) (fun x h1 h2 => h x (by omega) (by omega))]

/-- A line of which no core holds an update-only copy has the bytes its home holds. -/
theorem curByte_plain (s : State) (x : Nat) (h : (dirAt s (x / 32)).uop = none) : curByte s x = rdByte s x := by
  unfold curByte; rw [h]

theorem cur64_same (s t : State) (a : Nat) (h : ∀ x, a ≤ x → x < a + 8 → curByte s x = curByte t x) :
    cur64 s a = cur64 t a := by
  unfold cur64
  congr 2
  exact List.map_congr_left (fun i hi => h (a + i) (by omega) (by have := List.mem_range.mp hi; omega))

theorem cur64_zero (s : State) (a : Nat) (h : ∀ x, a ≤ x → x < a + 8 → curByte s x = 0) : cur64 s a = 0 := by
  have hz : leNat ((List.range 8).map (fun i => curByte s (a + i))) = 0 :=
    leNat_zeros _ (fun b hb => by
      obtain ⟨i, hi, rfl⟩ := List.mem_map.mp hb
      exact h (a + i) (by omega) (by have := List.mem_range.mp hi; omega))
  unfold cur64
  rw [hz]; rfl

/-- The directory's entry of a line is one it lists, or the empty one. -/
theorem dirAt_of (s : State) (P : DirEntry → Prop) (line : Nat) (h0 : P {}) (h : ∀ x ∈ s.dir, x.1 = line → P x.2) :
    P (dirAt s line) := by
  unfold dirAt
  have key : ∀ t : Tab DirEntry, (∀ x ∈ t, x.1 = line → P x.2) → P (Tab.get {} t line) := by
    intro t
    induction t with
    | nil => intro _; exact h0
    | cons x t ih =>
      obtain ⟨j, x⟩ := x
      intro hx
      unfold Tab.get
      split
      · rename_i hj; exact hx (j, x) (by simp) hj
      · split
        · exact h0
        · exact ih (fun y hy => hx y (by simp [hy]))
  exact key s.dir h

/-- Where the root table lies at 0 and holds nothing, no walk finds a page. -/
theorem walk_absent (s : State) (va : Nat) (hx : fld s.host.xroot 12 27 = 0) (hz : ∀ x, x < 2048 → curByte s x = 0) :
    walk s va = .absent := by
  have hb : bits va 48 8 < 256 := Nat.mod_lt _ (by decide)
  have h0 : cur64 s (bits va 48 8 * 8) = 0 := cur64_zero s _ (fun x _ h2 => hz x (by omega))
  have hv : pteV (0 : Word) = false := by decide
  have hw : walkFrom s va (3 + 1) 0 = .absent := by
    rw [walkFrom]
    simp only [Nat.zero_add, if_true]
    rw [h0, hv]
    rfl
  unfold walk
  rw [hx, Nat.zero_mul]
  exact hw

/-- No core holds an update-only copy of a line of the root table at 0 or of the context's table entry. -/
abbrev PlainTables (s : State) (ctx : Nat) : Prop :=
  ∀ x ∈ s.dir, x.2.uop = none ∨ (2048 ≤ x.1 * 32 ∧
    (x.1 * 32 + 32 ≤ s.host.ctxtab.toNat + 1024 * ctx ∨ s.host.ctxtab.toNat + 1024 * ctx + 1031 ≤ x.1 * 32))

/-- Bytes that are neither in the root table nor in the context's table entry keep the vault where it is. -/
theorem apart_of (s : State) (ctx : Nat) (W : Nat → Prop) (hx : fld s.host.xroot 12 27 = 0)
    (hz : ∀ x ∈ s.mem, 2048 ≤ x.1) (ht : s.host.ctxtab.toNat + 1024 * ctx + 1031 ≤ altBase)
    (hu : PlainTables s ctx)
    (hW : ∀ x, W x → 2048 ≤ x ∧ (x < s.host.ctxtab.toNat + 1024 * ctx ∨ s.host.ctxtab.toNat + 1024 * ctx + 1031 ≤ x)) :
    Apart s ctx W := by
  intro m hm
  have plain : ∀ x, (x < 2048 ∨ (s.host.ctxtab.toNat + 1024 * ctx ≤ x ∧ x < s.host.ctxtab.toNat + 1024 * ctx + 1031)) →
      (dirAt s (x / 32)).uop = none := fun x h =>
    dirAt_of s (fun d => d.uop = none) _ rfl (fun y hy hl => by
      rcases hu y hy with h1 | h1
      · exact h1
      · exfalso; omega)
  have plainm : ∀ (m : Memory) x, (x < 2048 ∨
      (s.host.ctxtab.toNat + 1024 * ctx ≤ x ∧ x < s.host.ctxtab.toNat + 1024 * ctx + 1031)) →
      curByte { s with mem := m } x = rdByte { s with mem := m } x := fun m x h =>
    curByte_plain { s with mem := m } x (plain x h)
  have low : ∀ (m : Memory), (∀ x, x < 2048 → Tab.get 0 m x = 0) → ∀ x, x < 2048 → curByte { s with mem := m } x = 0 := by
    intro m h x hx
    have : x < altBase := by unfold altBase; omega
    rw [plainm m x (.inl hx)]
    simp only [rdByte, this, if_true]
    exact h x hx
  have z0 : ∀ x, x < 2048 → Tab.get 0 s.mem x = 0 :=
    fun x hx => get_unlisted _ _ (fun y hy => by have := hz y hy; omega)
  have zm : ∀ x, x < 2048 → Tab.get 0 m x = 0 := by
    intro x hx
    rw [hm x (fun h => by have := (hW x h).1; omega)]
    exact z0 x hx
  constructor
  · intro va
    have w1 : walk { s with mem := m } va = .absent := walk_absent _ _ hx (low m zm)
    have w2 : walk s va = .absent := walk_absent s va hx (low s.mem z0)
    simp only [devPa, w1, w2]
    rfl
  · intro o ho
    simp only [ctxWord, ctxField]
    refine cur64_same { s with mem := m } s (s.host.ctxtab.toNat + 1024 * ctx + o) (fun x h1 h2 => ?_)
    have hp : x < altBase := by omega
    have hin : x < 2048 ∨ (s.host.ctxtab.toNat + 1024 * ctx ≤ x ∧ x < s.host.ctxtab.toNat + 1024 * ctx + 1031) :=
      .inr ⟨by omega, by omega⟩
    rw [plainm m x hin, curByte_plain s x (plain x hin)]
    simp only [rdByte, hp, if_true]
    exact hm x (fun h => by have := (hW x h).2; omega)

/-- The same of one stretch of memory. -/
theorem apart_within (s : State) (ctx pa n : Nat) (hx : fld s.host.xroot 12 27 = 0)
    (hz : ∀ x ∈ s.mem, 2048 ≤ x.1) (ht : s.host.ctxtab.toNat + 1024 * ctx + 1031 ≤ altBase)
    (hu : PlainTables s ctx)
    (hl : 2048 ≤ pa) (hW : pa + n ≤ s.host.ctxtab.toNat + 1024 * ctx ∨ s.host.ctxtab.toNat + 1024 * ctx + 1031 ≤ pa) :
    Apart s ctx (Within pa n) :=
  apart_of s ctx _ hx hz ht hu (fun x h => by unfold Within at h; omega)

/-- The same of several stretches that do not overlap. -/
theorem spread_of (s : State) (ctx : Nat) (l : List (Nat × Nat)) (hx : fld s.host.xroot 12 27 = 0)
    (hz : ∀ x ∈ s.mem, 2048 ≤ x.1) (ht : s.host.ctxtab.toNat + 1024 * ctx + 1031 ≤ altBase)
    (hu : PlainTables s ctx)
    (hp : l.Pairwise (fun x y => x.1 + x.2 ≤ y.1 ∨ y.1 + y.2 ≤ x.1))
    (hl : ∀ p ∈ l, 2048 ≤ p.1 ∧
      (p.1 + p.2 ≤ s.host.ctxtab.toNat + 1024 * ctx ∨ s.host.ctxtab.toNat + 1024 * ctx + 1031 ≤ p.1)) :
    Spread s ctx l :=
  ⟨hp, apart_of s ctx _ hx hz ht hu (fun x ⟨p, hm, hw⟩ => by
    have := hl p hm; unfold Within at hw; omega)⟩

/-- The first element with a property, found. -/
theorem firstIn_of (l : List Nat) (P : Nat → Prop) [DecidablePred P] (r : Nat)
    (h : l.find? (fun x => decide (P x)) = some r) : FirstIn l P r := by
  obtain ⟨hp, pre, post, he, hn⟩ := List.find?_eq_some_iff_append.mp h
  exact ⟨pre, post, he, by simpa using hp, fun x hx => by simpa using hn x hx⟩

/-- What holds of every element of a list without elements. -/
theorem none_in {α : Type} (l : List α) (P : α → Prop) (h : l.isEmpty = true) : ∀ x ∈ l, P x := by
  cases l with
  | nil => intro x hx; cases hx
  | cons a t => cases h

/-- A word that nobody has reserved is free for any thread. -/
theorem free_of (m : WordMeta) (th : Thread) (h : m.resv = none) : FreeFor m th := by
  intro r hr; rw [h] at hr; cases hr

/-- Words on which nobody waits hold no registration. -/
theorem unregistered_of (s : State) (slice : Nat) (th : Thread)
    (h : s.words.all (fun x => x.2.resv.isNone && x.2.queue.isEmpty && x.2.mons.isEmpty) = true) : Unregistered s slice th := by
  intro x hx _
  have hq := List.all_eq_true.mp h x hx
  simp only [Bool.and_eq_true, Option.isNone_iff_eq_none, List.isEmpty_iff] at hq
  rw [hq.1.1, hq.1.2, hq.2]
  simp

/-- A check of OwnFrames where no slice has modified a line. -/
def ownOk (s : State) : Bool :=
  s.dram.isEmpty && s.slices.all (fun x => x.2.lines.all (fun y => decide (y.1 * 32 < dramTop ∧ sliceOfPa (y.1 * 32) = x.1))) &&
  s.dir.all (fun x => decide (x.1 * 32 < dramTop ∨ altBase ≤ x.1 * 32 ∨ x.2.uop = none))

theorem own_of (s : State) (h : ownOk s = true) : OwnFrames s := by
  simp only [ownOk, Bool.and_eq_true, List.isEmpty_iff, List.all_eq_true, decide_eq_true_eq] at h
  obtain ⟨⟨hd, hs⟩, hu⟩ := h
  refine ⟨?_, ?_, ?_⟩
  · intro home l m hm
    have key : ∀ t : Tab Slice, (∀ x ∈ t, ∀ y ∈ x.2.lines, y.1 * 32 < dramTop ∧ sliceOfPa (y.1 * 32) = x.1) →
        (l, m) ∈ (Tab.get {} t home).lines → l * 32 < dramTop ∧ sliceOfPa (l * 32) = home := by
      intro t
      induction t with
      | nil => intro _ h; cases h
      | cons x t ih =>
        obtain ⟨j, x⟩ := x
        intro hx h
        unfold Tab.get at h
        split at h
        · rename_i hj; subst hj; exact hx (j, x) (by simp) (l, m) h
        · split at h
          · cases h
          · exact ih (fun y hy => hx y (by simp [hy])) h
    exact key s.slices hs hm
  · intro l bs _ hb
    rw [hd] at hb; cases hb
  · intro x hx h1 h2
    rcases hu x hx with h | h | h
    · omega
    · omega
    · exact h

/-- OwnFrames decided: by the check where it holds. -/
noncomputable def ownDec (s : State) : Decidable (OwnFrames s) :=
  if h : ownOk s = true then isTrue (own_of s h) else Classical.propDecidable _

/-- A proposition over OwnFrames, decided by evaluation. -/
theorem dec_own {P : Prop} (d : (∀ s, Decidable (OwnFrames s)) → Decidable P) (h : @decide P (d ownDec) = true) : P :=
  @of_decide_eq_true P (d ownDec) h

/-- A stretch of a context's vault, checked byte by byte. -/
theorem vault_of (s : State) (ctx va n pa : Nat) (h : pa + n ≤ dramTop ∧
      (∀ i, i < n → devPa s ctx (va + i) = some (pa + i)) ∧ ∀ i, i < n → (dirAt s ((pa + i) / 32)).uop = none)
    (ho : ownOk s = true) : VaultAt s ctx va n pa :=
  ⟨h.1, h.2.1, own_of s ho, h.2.2⟩

/-- A stretch of memory that the device may write, checked byte by byte. -/
theorem device_of (s : State) (pa n : Nat) (h : pa + n ≤ dramTop ∧ ∀ i, i < n → (dirAt s ((pa + i) / 32)).uop = none)
    (ho : ownOk s = true) : DeviceAt s pa n :=
  ⟨h.1, own_of s ho, h.2⟩

/-- A plain line, checked by evaluation. -/
theorem plain_of (s : State) (home line : Nat)
    (h : tileAt s home line = none ∧ (dirAt s line).uop = none ∧ (dirAt s line).host = false) (ho : ownOk s = true) :
    PlainLine s home line :=
  ⟨h.1, h.2.1, h.2.2, own_of s ho⟩

/-- A tile whose every line is quiet, checked line by line. -/
theorem tileQuiet_of (s : State) (e : TileEnt) (h : (List.range (e.span / 32)).all (fun i =>
    (tileLine s e i).all (fun l => decide ((dirAt s l).uop = none ∧ (dirAt s l).host = false ∧
      (dirAt s l).sharers = [] ∧ (dirAt s l).invs = []))) = true) : TileQuiet s e := by
  intro i l hi hl
  have h1 := List.all_eq_true.mp h i (List.mem_range.mpr hi)
  rw [hl] at h1
  simpa using h1

end Sys2Proof.Tests
end

