-- ==== Sys2Proof/Tests/Shared.lean ====
section
/-!
SUPPORT. Witnesses: machines that meet the hypotheses of the statements on atomics, posted loads and reductions, with the threads and machines that other witnesses share.
-/
namespace Sys2Proof.Tests.Shared

open Sys2Proof Sys2Proof.Machine Sys2Proof.Safety Sys2Proof.Tests

set_option Elab.async false
set_option maxRecDepth 8000
set_option synthInstance.maxSize 1024

def base (l : List (Nat × Word)) : Thread :=
  { thr 5 3 ([(0, 0x1234567890ABCDEF), (8, 0x8000000000000001), (9, 7), (10, 0x1F3C), (11, loc 0x40),
      (12, 0xFFFFFFFFFFFFFFFF), (13, 0x1F05)] ++ l) with k1 := 0x00F1, k2 := 0x3333, k3 := 0x8000 }
def th0 : Thread := base []
def m0 (s : State) : State :=
  mem [(spadPa 0 0x40, 0x8182838485868788), (spadPa 0 0x48, 5), (spadPa 0 0x50, 0x3f8000003f800000), (0x5000, 0x99)] s
def s0 : State := m0 (run th0)
def thL : Thread := base [(11, lin 0x5008)]
def sL : State := m0 (run thL)
def thP : Thread := { setReg 9 { st := .pending, val := 4 } th0 with form := .parked ⟨true, .reg 9, false⟩ }
def sP : State := run thP
def thR : Thread := { th0 with form := .inFlight (.redU (0x5000 / 32)) }
def sR : State := m0 (run thR)
/-- The machine after the answer to a red's request: the core has its update-only copy; and with one partial in it. -/
def sU : State := getE sR (.redURequest ⟨0, 1, 5⟩ (0x5000 / 32) .add)
def kU : Nat := (((coreAt sU 0).l1)[0]?.map (·.1)).getD 0
def sU1 : State := setCore sU 0 { coreAt sU 0 with l1 := (coreAt sU 0).l1.put (.shared 0 []) kU (.update 0x5000 .add [(1, 5)]) }
/-- A posted load, and the store of another thread that it waits behind. -/
def vaL : Word := effAddr (val thL 11) 0xFF 8
def stW : SqEnt := { id := 4, th := ⟨1, 1, 6⟩, va := lin 0x5000, cells := cellsAt 0x5000 (leBytes 4 7), home := 0 }
/-- It waits behind no store. -/
def none_ : List Nat := []
def sQ : State := setCore sL 0 { coreAt sL 0 with sq := [stW] }

theorem witness_AtomicsAndPostedLoads_0_0 :
  (amoRow (Instr.amoAdd (9 : BitVec 5) (11 : BitVec 5) (8 : BitVec 5) (3 : BitVec 3) (3 : BitVec 2)) = some
    (AmoOp.add, (9 : BitVec 5), (11 : BitVec 5), (8 : BitVec 5), (3 : BitVec 2))) ∧ (Canonical s0) ∧ (Executing s0
    th0) ∧ (th0.acqOut = 0) ∧ (ReadyNow th0 (srcP (11 : BitVec 5))) ∧ (ReadyNow th0 (srcP (8 : BitVec 5))) ∧ (Writable
    th0 (BitVec.toNat (9 : BitVec 5))) ∧ (postedCount th0 < 4) ∧ (cmpTrap s0 (val th0 (11 : BitVec 5)) (opSize
    AmoOp.add) Acc.rmw = none) ∧ ((3 : BitVec 2) = (2 : BitVec 2) ∨ (3 : BitVec 2) = (3 : BitVec 2) → releasedAt s0
    s0.cur th0 = true) := by
  unfold Canonical MemOk Executing ReadyNow Writable; decide +kernel

theorem witness_AtomicsAndPostedLoads_0_1 :
  (casRow (Instr.casW (9 : BitVec 5) (11 : BitVec 5) (8 : BitVec 5) (0 : BitVec 3) (1 : BitVec 2)) = some (4, (9 :
    BitVec 5), (11 : BitVec 5), (8 : BitVec 5), (1 : BitVec 2))) ∧ (Canonical s0) ∧ (Executing s0 th0) ∧ (th0.acqOut =
    0) ∧ (ReadyNow th0 (srcP (11 : BitVec 5))) ∧ (ReadyNow th0 (srcP (8 : BitVec 5))) ∧ (ReadyNow th0 (srcP (9 :
    BitVec 5))) ∧ (postedCount th0 < 4) ∧ (cmpTrap s0 (val th0 (11 : BitVec 5)) 4 Acc.rmw = none) ∧ ((1 : BitVec 2) =
    (2 : BitVec 2) ∨ (1 : BitVec 2) = (3 : BitVec 2) → releasedAt s0 s0.cur th0 = true) := by
  unfold Canonical MemOk Executing ReadyNow; decide +kernel

theorem witness_AtomicsAndPostedLoads_0_2_0 :
  (Canonical s0) ∧ (Executing s0 th0) ∧ (th0.acqOut = 0) ∧ (ReadyNow th0 (srcP (11 : BitVec 5))) ∧ (Writable th0
    (BitVec.toNat (9 : BitVec 5))) ∧ (postedCount th0 < 4) ∧ (effAddr (val th0 (11 : BitVec 5)) (1 : BitVec 8) 8 =
    effAddr (val th0 (11 : BitVec 5)) (1 : BitVec 8) (2 ^ BitVec.toNat (3 : BitVec 2))) ∧ (cmpTrap s0 (effAddr (val
    th0 (11 : BitVec 5)) (1 : BitVec 8) 8) (2 ^ BitVec.toNat (3 : BitVec 2)) Acc.read = none) ∧ (Chk.ok (spadPa 0 72)
    = check s0 (s0.cur / 16) th0.ctx (privOf th0) (effAddr (val th0 (11 : BitVec 5)) (1 : BitVec 8) 8) (2 ^
    BitVec.toNat (3 : BitVec 2)) Acc.read false) ∧ (Chk.ok (spadPa 0 72) = Chk.ok (spadPa 0 72)) ∧ (isSpad (spadPa 0
    72) = true → stagedCheck s0 (spadPlace (spadPa 0 72)).1 (spadPlace (spadPa 0 72)).2 (2 ^ BitVec.toNat (3 : BitVec
    2)) Acc.read = Staged.clear) ∧ (hitOf s0 th0.noMerge (Elem.mk 0 (effAddr (val th0 (11 : BitVec 5)) (1 : BitVec 8)
    8) (2 ^ BitVec.toNat (3 : BitVec 2)) (spadPa 0 72)) = Hit.bytes (leBytes 8 5)) := by
  unfold Canonical MemOk Executing ReadyNow Writable; decide +kernel

theorem witness_AtomicsAndPostedLoads_0_2_1 :
  ((Canonical sL) ∧ (Executing sL thL) ∧ (thL.acqOut = 0) ∧ (ReadyNow thL (srcP (11 : BitVec 5))) ∧ (Writable thL
    (BitVec.toNat (9 : BitVec 5))) ∧ (postedCount thL < 4) ∧ (vaL = effAddr (val thL (11 : BitVec 5)) (255 : BitVec 8)
    (2 ^ BitVec.toNat (3 : BitVec 2))) ∧ (cmpTrap sL vaL (2 ^ BitVec.toNat (3 : BitVec 2)) Acc.read = none) ∧ (Chk.ok
    20480 = check sL (sL.cur / 16) thL.ctx (privOf thL) vaL (2 ^ BitVec.toNat (3 : BitVec 2)) Acc.read false)) ∧ ((∀
    (pa : ℕ), Chk.ok 20480 ≠ Chk.ok pa) ∧ none_ = [] ∨ ∃ (pa : ℕ), Chk.ok 20480 = Chk.ok pa ∧ isSpad pa = false ∧
    (hitOf sL thL.noMerge (Elem.mk 0 vaL (2 ^ BitVec.toNat (3 : BitVec 2)) pa) = Hit.miss ∧ none_ = [] ∨ hitOf sL
    thL.noMerge (Elem.mk 0 vaL (2 ^ BitVec.toNat (3 : BitVec 2)) pa) = Hit.wait ∧ thL.noMerge = false ∧ none_ =
    List.map (fun (x : SqEnt) => x.id) (queuedWriters sL (sL.cur / 16) (Elem.mk 0 vaL (2 ^ BitVec.toNat (3 : BitVec
    2)) pa)))) ∧ (∀ f ∈ sL.agenda, ∀ (th' : Thr) (va : Word) (data : List Byte) (i st : ℕ), f.ev ≠ Event.loadReply th'
    va data i st) := by
  refine ⟨?_, ?_, ?_⟩
  · unfold Canonical MemOk Executing ReadyNow Writable; decide +kernel
  · exact Or.inr ⟨0x5000, rfl, by decide +kernel, Or.inl ⟨by decide +kernel, rfl⟩⟩
  · exact none_in _ _ (by decide +kernel)

theorem witness_AtomicsAndPostedLoads_0_2_1b :
  ((Canonical sQ) ∧ (Executing sQ thL) ∧ (thL.acqOut = 0) ∧ (ReadyNow thL (srcP (11 : BitVec 5))) ∧ (Writable thL
    (BitVec.toNat (9 : BitVec 5))) ∧ (postedCount thL < 4) ∧ (vaL = effAddr (val thL (11 : BitVec 5)) (255 : BitVec 8)
    (2 ^ BitVec.toNat (3 : BitVec 2))) ∧ (cmpTrap sQ vaL (2 ^ BitVec.toNat (3 : BitVec 2)) Acc.read = none) ∧ (Chk.ok
    20480 = check sQ (sQ.cur / 16) thL.ctx (privOf thL) vaL (2 ^ BitVec.toNat (3 : BitVec 2)) Acc.read false)) ∧ ((∀
    (pa : ℕ), Chk.ok 20480 ≠ Chk.ok pa) ∧ [4] = [] ∨ ∃ (pa : ℕ), Chk.ok 20480 = Chk.ok pa ∧ isSpad pa = false ∧ (hitOf
    sQ thL.noMerge (Elem.mk 0 vaL (2 ^ BitVec.toNat (3 : BitVec 2)) pa) = Hit.miss ∧ [4] = [] ∨ hitOf sQ thL.noMerge
    (Elem.mk 0 vaL (2 ^ BitVec.toNat (3 : BitVec 2)) pa) = Hit.wait ∧ thL.noMerge = false ∧ [4] = List.map (fun (x :
    SqEnt) => x.id) (queuedWriters sQ (sQ.cur / 16) (Elem.mk 0 vaL (2 ^ BitVec.toNat (3 : BitVec 2)) pa)))) ∧ (∀ f ∈
    sQ.agenda, ∀ (th' : Thr) (va : Word) (data : List Byte) (i st : ℕ), f.ev ≠ Event.loadReply th' va data i st) := by
  refine ⟨?_, ?_, ?_⟩
  · unfold Canonical MemOk Executing ReadyNow Writable; decide +kernel
  · exact Or.inr ⟨0x5000, rfl, by decide +kernel, Or.inr ⟨by decide +kernel, by decide +kernel, by decide +kernel⟩⟩
  · exact none_in _ _ (by decide +kernel)

theorem witness_AtomicsAndPostedLoads_1_0 :
  ((Canonical s0) ∧ (s0.now = none) ∧ (9 < 28) ∧ (check s0 (0 / 16 : ℕ) 1 3 (loc 64) (opSize AmoOp.min) Acc.rmw true =
    Chk.ok (spadPa 0 64)) ∧ (isSpad (spadPa 0 64) = true) ∧ (spadPa 0 64 % opSize AmoOp.min = 0) ∧ (stagedCheck s0
    (spadPlace (spadPa 0 64)).1 (spadPlace (spadPa 0 64)).2 (opSize AmoOp.min) Acc.rmw = Staged.clear) ∧ (NoneQueued
    s0 (0 / 16 : ℕ) (spadPa 0 64 / 32) (WriteReq.amo (Thr.mk 0 1 5) 9 AmoOp.min (loc 64) (3 : Word) (4096 : BitVec 48)
    (0 : BitVec 2) 3)) ∧ (NoneBefore s0 (homeOf (loc 64) (spadPa 0 64)) (spadPa 0 64 / 32)) ∧ (fld (sliceAt s0
    ((homeOf (loc 64) (spadPa 0 64) - 1024) / 4)).replay1 32 1 = 0)) ∧ (DirtyNoted s0 (BitVec.toNat (loc 64))) := by
  refine ⟨?_, ?_⟩
  · unfold Canonical MemOk NoneBefore NoneQueued; decide +kernel
  · exact Or.inr (by decide +kernel)

theorem witness_AtomicsAndPostedLoads_1_1 :
  ((Canonical s0) ∧ (s0.now = none) ∧ (9 < 28) ∧ (check s0 (0 / 16 : ℕ) 1 3 (loc 64) 8 Acc.rmw false = Chk.ok (spadPa
    0 64)) ∧ (isSpad (spadPa 0 64) = true) ∧ (spadPa 0 64 % 8 = 0) ∧ (stagedCheck s0 (spadPlace (spadPa 0 64)).1
    (spadPlace (spadPa 0 64)).2 8 Acc.rmw = Staged.clear) ∧ (NoneQueued s0 (0 / 16 : ℕ) (spadPa 0 64 / 32)
    (WriteReq.cas (Thr.mk 0 1 5) 9 8 (loc 64) (3 : Word) (4 : Word) (4096 : BitVec 48) (0 : BitVec 2) 3)) ∧
    (NoneBefore s0 (homeOf (loc 64) (spadPa 0 64)) (spadPa 0 64 / 32)) ∧ (fld (sliceAt s0 ((homeOf (loc 64) (spadPa 0
    64) - 1024) / 4)).replay1 32 1 = 0)) ∧ (8 = 4 ∨ 8 = 8) ∧ (DirtyNoted s0 (BitVec.toNat (loc 64))) := by
  refine ⟨?_, ?_, ?_⟩
  · unfold Canonical MemOk NoneBefore NoneQueued; decide +kernel
  · exact Or.inr (by decide +kernel)
  · exact Or.inr (by decide +kernel)

theorem witness_AtomicsAndPostedLoads_2_0 :
  ((Canonical sP) ∧ (sP.now = none) ∧ (threadAt sP sP.cur = some thP) ∧ ((regOf thP 9).st = RegState.pending) ∧ (9 <
    28) ∧ (∀ f ∈ (coreAt sP (sP.cur / 16)).fwd, ¬(f.tid = thP.tid ∧ f.ctx = thP.ctx ∧ f.reg = 9)) ∧ (∀ x ∈ (coreAt sP
    (sP.cur / 16)).sq, x.req = none)) ∧ (thP.form = Form.ready ∨ (∃ (w : WaitFor), thP.form = Form.inFlight w) ∨ ∃ (p
    : Park), thP.form = Form.parked p) ∧ (Event.postedArrive (Thr.mk 0 1 5) 9 (55 : Word) = Event.postedArrive (named_
    sP thP) 9 (55 : Word) ∨ ∃ (o : ℕ), Event.postedArrive (Thr.mk 0 1 5) 9 (55 : Word) = Event.forwardedValue o
    (named_ sP thP) 9 (Posted.value (55 : Word))) := by
  refine ⟨?_, ?_, ?_⟩
  · unfold Canonical MemOk; decide +kernel
  · exact Or.inr (Or.inr ⟨_, rfl⟩)
  · exact Or.inl rfl

theorem witness_AtomicsAndPostedLoads_2_1 :
  ((Canonical sP) ∧ (sP.now = none) ∧ (threadAt sP sP.cur = some thP) ∧ ((regOf thP 9).st = RegState.pending) ∧ (9 <
    28) ∧ (∀ f ∈ (coreAt sP (sP.cur / 16)).fwd, ¬(f.tid = thP.tid ∧ f.ctx = thP.ctx ∧ f.reg = 9)) ∧ (∀ x ∈ (coreAt sP
    (sP.cur / 16)).sq, x.req = none)) ∧ (thP.form = Form.ready ∨ (∃ (w : WaitFor), thP.form = Form.inFlight w) ∨ ∃ (p
    : Park), thP.form = Form.parked p) ∧ (Event.postedFail (Thr.mk 0 1 5) 9 (HeldFault.mk Cause.prot (7 : Word) (256 :
    Word) (1280 : BitVec 48)) = Event.postedFail (named_ sP thP) 9 (HeldFault.mk Cause.prot (7 : Word) (256 : Word)
    (1280 : BitVec 48)) ∨ ∃ (o : ℕ), Event.postedFail (Thr.mk 0 1 5) 9 (HeldFault.mk Cause.prot (7 : Word) (256 :
    Word) (1280 : BitVec 48)) = Event.forwardedValue o (named_ sP thP) 9 (Posted.fault (HeldFault.mk Cause.prot (7 :
    Word) (256 : Word) (1280 : BitVec 48)))) := by
  refine ⟨?_, ?_, ?_⟩
  · unfold Canonical MemOk; decide +kernel
  · exact Or.inr (Or.inr ⟨_, rfl⟩)
  · exact Or.inl rfl

theorem witness_Reductions_0 :
  (redRow (Instr.redAdd (11 : BitVec 5) (9 : BitVec 5) (0 : BitVec 3)) = some (AmoOp.add, (11 : BitVec 5), (9 : BitVec
    5))) ∧ (Canonical s0) ∧ (Executing s0 th0) ∧ (th0.acqOut = 0) ∧ (ReadyNow th0 (srcP (11 : BitVec 5))) ∧ (ReadyNow
    th0 (srcP (9 : BitVec 5))) ∧ (cmpTrap s0 (val th0 (11 : BitVec 5)) (opSize AmoOp.add) Acc.rmw = none) ∧ (check s0
    (s0.cur / 16) th0.ctx (privOf th0) (val th0 (11 : BitVec 5)) (opSize AmoOp.add) Acc.rmw true = Chk.ok (spadPa 0
    64)) ∧ (Local s0 (spadPa 0 64)) ∧ (stageWait s0 (val th0 (11 : BitVec 5)) (spadPa 0 64) (opSize AmoOp.add) Acc.rmw
    0 = none) := by
  unfold Canonical MemOk Executing ReadyNow Local; decide +kernel

theorem witness_Reductions_1 :
  ((Canonical sR) ∧ (HeldIn sR 0 thR) ∧ (thR.form = Form.inFlight (WaitFor.redU (20480 / 32 : ℕ))) ∧ (routeFenced sR
    (0 / 16 : ℕ) (homeUnit (sliceOfPa ((20480 / 32 : ℕ) * 32))) = false) ∧ ((20480 / 32 : ℕ) * 32 < dramTop) ∧
    (NoneBefore sR (sliceOfPa ((20480 / 32 : ℕ) * 32)) (20480 / 32 : ℕ)) ∧ ((dirAt sR (20480 / 32 : ℕ)).sharers = [])
    ∧ ((dirAt sR (20480 / 32 : ℕ)).invs = []) ∧ (List.length (coreAt sR (0 / 16 : ℕ)).l1 < 1024)) ∧ (PlainLine sR
    (sliceOfPa ((20480 / 32 : ℕ) * 32)) (20480 / 32 : ℕ)) := by
  refine ⟨?_, ?_⟩
  · unfold Canonical MemOk HeldIn NoneBefore; decide +kernel
  · unfold PlainLine; exact dec_own (fun _ => inferInstance) (by decide +kernel)

theorem witness_Reductions_2 :
  (Canonical sU1) ∧ (sU1.now = none) ∧ (uCopy sU1 0 (20480 / 32 : ℕ) = some (kU, AmoOp.add, [(1, (5 : Word))])) ∧
    ([(1, (5 : Word))] ≠ []) ∧ (∀ p ∈ (dirAt sU1 (20480 / 32 : ℕ)).parts, p.core ≠ 0) := by
  unfold Canonical MemOk; decide +kernel

theorem witness_Reductions_3 :
  ((Canonical sU1) ∧ (sU1.now = none) ∧ ((20480 / 32 : ℕ) * 32 < dramTop) ∧ (uCopy sU1 0 (20480 / 32 : ℕ) = some (kU,
    AmoOp.add, [(1, (5 : Word))])) ∧ (1 < 32 / opSize AmoOp.add) ∧ ((dirAt sU1 (20480 / 32 : ℕ)).uop = some AmoOp.add)
    ∧ ((dirAt sU1 (20480 / 32 : ℕ)).ucores = [0]) ∧ ((dirAt sU1 (20480 / 32 : ℕ)).parts = []) ∧ (NoLog sU1 (sliceOfPa
    ((20480 / 32 : ℕ) * 32)))) ∧ (OwnFrames sU1) := by
  refine ⟨?_, ?_⟩
  · unfold Canonical MemOk NoLog; decide +kernel
  · exact dec_own (fun _ => inferInstance) (by decide +kernel)

end Sys2Proof.Tests.Shared
end

