-- ==== Sys2Proof/Tests/Accesses.lean ====
section
/-!
SUPPORT. Witnesses: machines that meet the hypotheses of the statements on register states, loads and stores.
-/
namespace Sys2Proof.Tests.Accesses

open Sys2Proof Sys2Proof.Machine Sys2Proof.Safety Sys2Proof.Tests
open Sys2Proof.Tests.Shared (th0 s0)

set_option Elab.async false
set_option maxRecDepth 8000
set_option synthInstance.maxSize 1024

def hf : HeldFault := ⟨.prot, 7, 0x100, 0x500⟩
def thX : Thread := setReg 9 { st := .failed, val := 3, held := some hf } th0
def sX : State := run thX
def thE : Thread := setReg 9 { st := .empty } th0
def thP : Thread := setReg 9 { st := .pending } th0
def e1 : Elem := el (plan .read false true [(0, effAddr (val th0 11) 1 8, 8)] s0)
def thM : Thread := setReg 11 { st := .full, val := lin 0x5008 } th0
def sM : State := mem [(0x5008, 0x77), (0x5000, 0x123456789)] (run thM)
def eM : Elem := el (plan .read false true [(0, effAddr (val thM 11) 0xFF 8, 8)] sM)
def r1 : ReadReq := { th := ⟨0, 1, 5⟩, core := 0, va := lin 0x5000, pa := 0x5000, kind := .load, stamp := 800, id := 1 }
def thW : Thread := { thM with form := .inFlight (.load (oneLoad (.greg 9 true) eM 1)) }
def eW : Elem := el (plan .write true true [(0, effAddr (val th0 11) 2 8, 8)] s0)
def eS : Elem := el (plan .write true true [(0, effAddr (val thM 11) 0xFF 8, 8)] sM)
def thS : Thread := { thM with form := .inFlight (.storeCheck [(eS, leBytes 8 0x1122334455667788)] false []) }
def sS : State := run thS sM
def sQ : State := getE sS (.storeCheckReply (named_ sS thS))
/-- The store of sQ with no message left on its way. -/
def sQ1 : State := { sQ with agenda := [] }
def q0 : SqEnt := ((coreAt sQ 0).sq[0]?).getD { id := 0, th := ⟨0, 0, 0⟩, va := 0, cells := [], home := 0 }

theorem witness_RegisterStates_0_0 :
  ((regForm (Instr.add (8 : BitVec 5) (9 : BitVec 5) (10 : BitVec 5) (0 : BitVec 2) (0 : BitVec 2)) = some ([src (9 :
    BitVec 5) (0 : BitVec 2), src (10 : BitVec 5) (0 : BitVec 2)], 8)) ∧ (Canonical sX) ∧ (threadAt sX sX.cur = some
    thX) ∧ (∀ r ∈ named [src (9 : BitVec 5) (0 : BitVec 2), src (10 : BitVec 5) (0 : BitVec 2)] 8, r < 28) ∧ (∀ x ∈
    [src (9 : BitVec 5) (0 : BitVec 2), src (10 : BitVec 5) (0 : BitVec 2)], x.m ≤ 2) ∧ ((regOf thX 9).held = some
    hf)) ∧ (FirstIn (named [src (9 : BitVec 5) (0 : BitVec 2), src (10 : BitVec 5) (0 : BitVec 2)] 8) (fun (r : ℕ) =>
    (regOf thX r).st = RegState.failed) 9) := by
  refine ⟨?_, ?_⟩
  · unfold Canonical MemOk; decide +kernel
  · exact firstIn_of _ _ _ (by decide +kernel)

theorem witness_RegisterStates_0_1_0 :
  ((regForm (Instr.add (8 : BitVec 5) (9 : BitVec 5) (10 : BitVec 5) (0 : BitVec 2) (0 : BitVec 2)) = some ([src (9 :
    BitVec 5) (0 : BitVec 2), src (10 : BitVec 5) (0 : BitVec 2)], 8)) ∧ (Canonical (run thE)) ∧ (threadAt (run thE)
    (run thE).cur = some thE) ∧ (∀ r ∈ named [src (9 : BitVec 5) (0 : BitVec 2), src (10 : BitVec 5) (0 : BitVec 2)]
    8, r < 28) ∧ (∀ x ∈ [src (9 : BitVec 5) (0 : BitVec 2), src (10 : BitVec 5) (0 : BitVec 2)], x.m ≤ 2) ∧ (∀ r ∈
    named [src (9 : BitVec 5) (0 : BitVec 2), src (10 : BitVec 5) (0 : BitVec 2)] 8, (regOf thE r).st ≠
    RegState.failed)) ∧ (FirstIn (List.map (fun (x : Src) => x.r) [src (9 : BitVec 5) (0 : BitVec 2), src (10 : BitVec
    5) (0 : BitVec 2)]) (fun (r : ℕ) => (regOf thE r).st = RegState.empty ∨ (regOf thE r).st = RegState.pending ∧
    strongest [src (9 : BitVec 5) (0 : BitVec 2), src (10 : BitVec 5) (0 : BitVec 2)] r = 0) 9) := by
  refine ⟨?_, ?_⟩
  · unfold Canonical MemOk; decide +kernel
  · exact firstIn_of _ _ _ (by decide +kernel)

theorem witness_RegisterStates_0_1_1 :
  ((regForm (Instr.add (8 : BitVec 5) (9 : BitVec 5) (10 : BitVec 5) (1 : BitVec 2) (0 : BitVec 2)) = some ([src (9 :
    BitVec 5) (1 : BitVec 2), src (10 : BitVec 5) (0 : BitVec 2)], 8)) ∧ (Canonical (run thP)) ∧ (threadAt (run thP)
    (run thP).cur = some thP) ∧ (∀ r ∈ named [src (9 : BitVec 5) (1 : BitVec 2), src (10 : BitVec 5) (0 : BitVec 2)]
    8, r < 28) ∧ (∀ x ∈ [src (9 : BitVec 5) (1 : BitVec 2), src (10 : BitVec 5) (0 : BitVec 2)], x.m ≤ 2) ∧ (∀ r ∈
    named [src (9 : BitVec 5) (1 : BitVec 2), src (10 : BitVec 5) (0 : BitVec 2)] 8, (regOf thP r).st ≠
    RegState.failed) ∧ (∀ x ∈ [src (9 : BitVec 5) (1 : BitVec 2), src (10 : BitVec 5) (0 : BitVec 2)], (regOf thP
    x.r).st ≠ RegState.empty ∧ ((regOf thP x.r).st = RegState.pending → strongest [src (9 : BitVec 5) (1 : BitVec 2),
    src (10 : BitVec 5) (0 : BitVec 2)] x.r ≠ 0)) ∧ (NoWake (run thP) thP)) ∧ (FirstIn (named [src (9 : BitVec 5) (1 :
    BitVec 2), src (10 : BitVec 5) (0 : BitVec 2)] 8) (fun (r : ℕ) => (regOf thP r).st = RegState.pending) 9) := by
  refine ⟨?_, ?_⟩
  · unfold Canonical MemOk NoWake; decide +kernel
  · exact firstIn_of _ _ _ (by decide +kernel)

theorem witness_Loads_0 :
  (Canonical s0) ∧ (Executing s0 th0) ∧ (th0.acqOut = 0) ∧ (ReadyNow th0 (srcP (11 : BitVec 5))) ∧ (Writable th0
    (BitVec.toNat (9 : BitVec 5))) ∧ (plan Acc.read false true [(0, effAddr (val th0 (11 : BitVec 5)) (1 : BitVec 8)
    (2 ^ BitVec.toNat (3 : BitVec 2)), 2 ^ BitVec.toNat (3 : BitVec 2))] s0 = Plan.go [e1]) ∧ ((0 : BitVec 2) = (3 :
    BitVec 2) → releasedAt s0 s0.cur th0 = true) ∧ (hitOf s0 (th0.noMerge || (0 : BitVec 2) != (0 : BitVec 2) && (0 :
    BitVec 3) != (0 : BitVec 3)) e1 = Hit.bytes (leBytes 8 5)) := by
  unfold Canonical MemOk Executing ReadyNow Writable; decide +kernel

theorem witness_Loads_1 :
  ((Canonical sM) ∧ (Executing sM thM) ∧ (thM.acqOut = 0) ∧ (thM.noMerge = false) ∧ (ReadyNow thM (srcP (11 : BitVec
    5))) ∧ (Writable thM (BitVec.toNat (9 : BitVec 5))) ∧ (plan Acc.read false true [(0, effAddr (val thM (11 : BitVec
    5)) (255 : BitVec 8) (2 ^ BitVec.toNat (3 : BitVec 2)), 2 ^ BitVec.toNat (3 : BitVec 2))] sM = Plan.go [eM]) ∧
    (isSpad eM.pa = false) ∧ (hitOf sM false eM = Hit.miss)) ∧ (∀ f ∈ sM.agenda, ∀ (th' : Thr) (va : Word) (data :
    List Byte) (i st : ℕ), f.ev ≠ Event.loadReply th' va data i st) := by
  refine ⟨?_, ?_⟩
  · unfold Canonical MemOk Executing ReadyNow Writable; decide +kernel
  · exact none_in _ _ (by decide +kernel)

theorem witness_Loads_2 :
  ((Canonical sM) ∧ (sM.now = none) ∧ (r1.kind = ReadKind.load) ∧ (r1.pa % 32 = 0) ∧ (r1.pa < dramTop) ∧ (r1.behind =
    []) ∧ (homeFenced sM (homeOf r1.va r1.pa) = false) ∧ (NoneBefore sM (homeOf r1.va r1.pa) (r1.pa / 32)) ∧
    (aliasSharers sM (r1.pa / 32) (BitVec.toNat r1.va / 32) = [])) ∧ (PlainLine sM (homePlace r1.pa) (r1.pa / 32)) := by
  refine ⟨?_, ?_⟩
  · unfold Canonical MemOk NoneBefore; decide +kernel
  · unfold PlainLine; exact dec_own (fun _ => inferInstance) (by decide +kernel)

theorem witness_Loads_3 :
  (Canonical (run thW)) ∧ ((run thW).now = none) ∧ (threadAt (run thW) (run thW).cur = some thW) ∧ (thW.form =
    Form.inFlight (WaitFor.load (oneLoad (LoadDest.greg 9 true) eM 1))) ∧ (thW.pc ≠ lastPc) ∧ (9 < 28) ∧ (BitVec.toNat
    eM.va / 32 = BitVec.toNat (lin 20480) / 32) ∧ (1 ≠ 0) ∧ (1 ≤ 1) := by
  unfold Canonical MemOk; decide +kernel

theorem witness_Stores_0 :
  ((Canonical s0) ∧ (Executing s0 th0) ∧ (th0.acqOut = 0) ∧ (ReadyNow th0 (srcP (11 : BitVec 5))) ∧ (ReadyNow th0
    (srcP (8 : BitVec 5))) ∧ (plan Acc.write true true [(0, effAddr (val th0 (11 : BitVec 5)) (2 : BitVec 8) (2 ^
    BitVec.toNat (3 : BitVec 2)), 2 ^ BitVec.toNat (3 : BitVec 2))] s0 = Plan.go [eW]) ∧ (Local s0 eW.pa) ∧ ((0 :
    BitVec 2) ≠ (0 : BitVec 2) → releasedAt s0 s0.cur th0 = true)) ∧ (DirtyNoted s0 (BitVec.toNat eW.va)) := by
  refine ⟨?_, ?_⟩
  · unfold Canonical MemOk Executing ReadyNow Local; decide +kernel
  · exact Or.inr (by decide +kernel)

theorem witness_Stores_1 :
  (Canonical sM) ∧ (Executing sM thM) ∧ (thM.acqOut = 0) ∧ (ReadyNow thM (srcP (11 : BitVec 5))) ∧ (ReadyNow thM (srcP
    (8 : BitVec 5))) ∧ (plan Acc.write true true [(0, effAddr (val thM (11 : BitVec 5)) (255 : BitVec 8) (2 ^
    BitVec.toNat (3 : BitVec 2)), 2 ^ BitVec.toNat (3 : BitVec 2))] sM = Plan.go [eS]) ∧ (¬Local sM eS.pa) ∧ ((0 :
    BitVec 2) ≠ (0 : BitVec 2) → releasedAt sM sM.cur thM = true) := by
  unfold Canonical MemOk Executing ReadyNow Local; decide +kernel

theorem witness_Stores_2 :
  ((Canonical sS) ∧ (sS.now = none) ∧ (threadAt sS sS.cur = some thS) ∧ (leBytes 8 1234605616436508552 ≠ []) ∧ (eS.pa
    < dramTop) ∧ (thS.pc ≠ lastPc) ∧ (thS.form = Form.inFlight (WaitFor.storeCheck [(eS, leBytes 8
    1234605616436508552)] false []))) ∧ (DirtyNoted sS (BitVec.toNat eS.va)) := by
  refine ⟨?_, ?_⟩
  · unfold Canonical MemOk; decide +kernel
  · exact Or.inr (by decide +kernel)

theorem witness_Stores_3 :
  ((Canonical sQ1) ∧ (sQ1.now = none) ∧ (q0 ∈ (coreAt sQ1 0).sq) ∧ (∀ x ∈ (coreAt sQ1 0).sq, x.id = q0.id → x = q0) ∧
    (q0.cells = cellsAt 20480 (leBytes 8 1234605616436508552)) ∧ (leBytes 8 1234605616436508552 ≠ []) ∧ ((20480 / 32 :
    ℕ) = (20480 + List.length (leBytes 8 1234605616436508552) - 1) / 32) ∧ (20480 + List.length (leBytes 8
    1234605616436508552) ≤ dramTop) ∧ (homeFenced sQ1 q0.home = false) ∧ (routeFenced sQ1 0 (homeUnit q0.home) =
    false) ∧ (NoneBefore sQ1 q0.home (20480 / 32 : ℕ))) ∧ (PlainLine sQ1 q0.home (20480 / 32 : ℕ)) := by
  refine ⟨?_, ?_⟩
  · unfold Canonical MemOk NoneBefore; decide +kernel
  · unfold PlainLine; exact dec_own (fun _ => inferInstance) (by decide +kernel)

theorem witness_Stores_4 :
  (Canonical sQ1) ∧ (sQ1.now = none) ∧ (q0 ∈ (coreAt sQ1 0).sq) ∧ (∀ x ∈ (coreAt sQ1 0).sq, x.id = q0.id → x = q0) ∧
    (q0.req = none) ∧ (0 < 3072) ∧ (q0.th.slot / 16 = 0) := by
  unfold Canonical MemOk; decide +kernel

end Sys2Proof.Tests.Accesses
end

