-- ==== Sys2Proof/Tests/Tiles.lean ====
section
/-!
SUPPORT. Witnesses: machines that meet the hypotheses of the statements on tiles.
-/
namespace Sys2Proof.Tests.Tiles

open Sys2Proof Sys2Proof.Machine Sys2Proof.Safety Sys2Proof.Tests
open Sys2Proof.Tests.Shared (th0 s0 base m0)

set_option Elab.async false
set_option maxRecDepth 8000
set_option synthInstance.maxSize 1024

/-- A tile of 32 rows of 16 signed bytes in DRAM at 0x6000: its table entry, its descriptor, its entry at the home. -/
def tD1 : Word := BitVec.ofNat 64 (32 + 16 * 2 ^ 16 + 16 * 2 ^ 32 + 1 * 2 ^ 48)
def tD2 : Word := BitVec.ofNat 64 (9 * 2 ^ 10 + 512 * 2 ^ 32)
def tHome : Nat := sliceOfPa 0x6000
def tMem (valid : Nat) : List (Nat × Word) :=
  [(0x104A0, 16), (0x26040, lin 0x6000), (0x26048, tD1), (0x26050, tD2),
   (0x26060, BitVec.ofNat 64 (valid + tHome * 2 ^ 16)), (spadPa 0 0x400, lin 0x6000), (spadPa 0 0x408, tD1),
   (spadPa 0 0x410, tD2), (spadPa 0 0x420, 1)]
def tEnt : TileEnt := { idx := 0, ctx := 1, handle := 1, tag := BitVec.ofNat 16 (9 * 2 ^ 10), base := lin 0x6000, span := 512 }

/-- g9 names the tile, g11 the descriptor, g14 one out of rule, g10 a staging offset, g15 one in own mode, g16 and g17
core 1, g18 member 0 of group 1, g13 a tag. -/
def thT : Thread := base [(9, 1), (11, loc 0x400), (14, loc 0x420), (10, 0x800), (15, BitVec.ofNat 64 (0x800 + 2 ^ 30)),
  (16, BitVec.ofNat 64 (0x800 + 2 ^ 18)), (17, BitVec.ofNat 64 (0x800 + 2 ^ 18 + 2 ^ 30)),
  (18, BitVec.ofNat 64 (0x800 + 2 ^ 32 + 2 ^ 48)), (13, BitVec.ofNat 64 (9 * 2 ^ 10 + 4)), (19, 0)]
def withTile (e : TileEnt) (s : State) : State := setSlice s tHome { sliceAt s tHome with tiles := [e] }
def sT : State := withTile tEnt (mem (tMem 1) (m0 (run thT)))
/-- The same machine with group 1, whose members are logical cores 1 and 2. -/
def sTg : State := mem [(0x27040, BitVec.ofNat 64 (1 + 2 * 2 ^ 8)), (0x28000, 0x20001)] sT
def eD : Elem := el (plan .read false false [(0, loc 0x400, 32)] sT)
def eX : Elem := el (plan .read false false [(0, loc 0x420, 32)] sT)
def descAt (s : State) (e : Elem) : TileDesc := ⟨rd64 s e.pa, rd64 s (e.pa + 8), rd64 s (e.pa + 16), rd64 s (e.pa + 24)⟩

/-- A paged tile's descriptor and the translation of its page, in a table with no tile. -/
def pgVa : Nat := 0x6000
def sPg : State :=
  let s := mem [(spadPa 0 0x400, BitVec.ofNat 64 pgVa), (spadPa 0 0x408, tD1), (spadPa 0 0x410, tD2), (0x104A0, 16)] (m0 (run thT))
  setSlice s (sliceOfVa pgVa) { sliceAt s (sliceOfVa pgVa) with xlat := [⟨pgVa / 16384 * 16384, 14, 0x39, 0x9000, true, Vector.replicate 8 0, []⟩] }
def ePg : Elem := el (plan .read false false [(0, loc 0x400, 32)] sPg)
def xPg : XEnt := ⟨pgVa / 16384 * 16384, 14, 0x39, 0x9000, true, Vector.replicate 8 0, []⟩

theorem tileAt_none (s : State) (slice l : Nat) (h : (sliceAt s slice).tiles = []) : tileAt s slice l = none := by
  unfold tileAt; rw [h]; rfl

/-- A slot of core 0 that holds a copy, and the home that knows of it. -/
def slotOf (st : TileSlotState) (own m : Bool) : TileSlot :=
  { st := st, ctx := 1, handle := 1, own := own, mod := m, off := 0x800, span := 512, base := lin 0x6000, priv := 3 }
def copies (x : TileSlot) (s : State) : State :=
  let s := withTile (if x.own then { tEnt with owner := some (0, 2) } else { tEnt with sharers := [(0, 2)] }) s
  setCore s 0 { coreAt s 0 with tslots := (coreAt s 0).tslots.setIfInBounds 2 x }
def sC (st : TileSlotState) (own m : Bool) : State := copies (slotOf st own m) sT
def sF (own : Bool) : State :=
  setCore sT 0 { coreAt sT 0 with tslots := (coreAt sT 0).tslots.setIfInBounds 2 (slotOf .filling own false) }
def sGone : State := withTile { tEnt with sharers := [(0, 2)] } sT
def sHold : State := withTile { tEnt with hold := [(0, 2)], holdEnd := 5 } sT
def sDefer : State := copies { slotOf .ready true true with defer := true } sT
def sDeferE : State := copies { slotOf .ready true true with defer := true, deferEnd := 2 ^ 40 } sT
def slotUp : TileSlot := { slotOf .filling true false with upgrade := true }
def sFup : State := setCore sT 0 { coreAt sT 0 with tslots := (coreAt sT 0).tslots.setIfInBounds 2 slotUp }
def thFw : Thread := { thT with form := .inFlight (.tile 4 1) }
def sFw (own : Bool) : State := setSlot (sC .ready own true) 0 { slotAt (sC .ready own true) 0 with occ := .thread thFw }
/-- A tile in DRAM lies where its lines lie, checked by evaluation. -/
theorem lies_of (s : State) (e : TileEnt) (pa : Nat) (h : pa % 32 = 0 ∧ e.span % 32 = 0 ∧ pa + e.span ≤ dramTop ∧
      (∀ i, i < e.span / 32 → tileByte s e (32 * i) = some (pa + 32 * i)))
    (g : fld s.host.xroot 12 27 = 0 ∧ (∀ x ∈ s.mem, 2048 ≤ x.1) ∧ s.host.ctxtab.toNat + 1024 * e.ctx + 1031 ≤ altBase ∧
      PlainTables s e.ctx ∧ 2048 ≤ pa ∧ (pa + e.span ≤ s.host.ctxtab.toNat + 1024 * e.ctx ∨ s.host.ctxtab.toNat + 1024 * e.ctx + 1031 ≤ pa))
    (o : ownOk s = true) : TileLies s e pa :=
  ⟨h.1, h.2.1, h.2.2.1, h.2.2.2, apart_within s e.ctx pa e.span g.1 g.2.1 g.2.2.1 g.2.2.2.1 g.2.2.2.2.1 g.2.2.2.2.2, own_of s o⟩
def tShared : TileEnt := { tEnt with sharers := [(0, 2)] }
def tOwned : TileEnt := { tEnt with owner := some (0, 2) }
def tHeld : TileEnt := { tEnt with hold := [(0, 2)], holdEnd := 5 }
/-- Core 1 holds another tile where a copy of this one would land. -/
def full1 (s : State) : State :=
  setCore s 1 { coreAt s 1 with tslots := (coreAt s 1).tslots.setIfInBounds 0 { slotOf .ready false false with handle := 7 } }
def sFull : State := full1 sT
def sFullG : State := full1 sTg
theorem no_offer (s : State) (c off : Nat) (e : TileEnt) (h : offerSlot s c e off = none) :
    ∀ k, offerSlot s c e off ≠ some (some k) := by
  intro k hk; rw [h] at hk; cases hk
def sFw0 : State := setSlot (sC .filling true false) 0 { slotAt (sC .filling true false) 0 with occ := .thread thFw }
def sFw1 : State := full1 (sFw true)
/-- The physical address that a stage's rights end on, and the address looked at last. -/
def pOf (s : State) (own : Bool) : Nat := match (stageRights s (slotOf .filling own false)).1 with | .ok p => p | _ => 0
def vaOf (s : State) (own : Bool) : Word := (stageRights s (slotOf .filling own false)).2

theorem witness_Declared_0_0 :
  (Canonical sT) ∧ (Executing sT thT) ∧ (thT.acqOut = 0) ∧ (ReadyNow thT (src (14 : BitVec 5) (0 : BitVec 2))) ∧
    (Writable thT (BitVec.toNat (4 : BitVec 5))) ∧ (BitVec.toNat (val thT (14 : BitVec 5)) % 32 = 0) ∧ (AtLocalWord sT
    Acc.read false (val thT (14 : BitVec 5)) 32 eX) ∧ (lineQueued sT (sT.cur / 16) (eX.pa / 32) = false) ∧ (eX.pa % 32
    = 0) ∧ (routeFenced sT (sT.cur / 16) (sT.cur / 16) = false) ∧ (stagedSlot sT (spadCore eX.pa) ((eX.pa - spadBase)
    % spadSize) 32 = none) ∧ (descAt sT eX = TileDesc.mk (rd64 sT eX.pa) (rd64 sT (eX.pa + 8)) (rd64 sT (eX.pa + 16))
    (rd64 sT (eX.pa + 24))) ∧ (tileDescFault (descAt sT eX) = some 2) := by
  unfold Canonical MemOk Executing ReadyNow Writable AtLocalWord Local; decide +kernel

theorem witness_Declared_0_1 :
  ((Canonical sPg) ∧ (Executing sPg thT) ∧ (thT.acqOut = 0) ∧ (ReadyNow thT (src (11 : BitVec 5) (0 : BitVec 2))) ∧
    (Writable thT (BitVec.toNat (4 : BitVec 5))) ∧ (BitVec.toNat (val thT (11 : BitVec 5)) % 32 = 0) ∧ (AtLocalWord
    sPg Acc.read false (val thT (11 : BitVec 5)) 32 ePg) ∧ (lineQueued sPg (sPg.cur / 16) (ePg.pa / 32) = false) ∧
    (ePg.pa % 32 = 0) ∧ (routeFenced sPg (sPg.cur / 16) (sPg.cur / 16) = false) ∧ (stagedSlot sPg (spadCore ePg.pa)
    ((ePg.pa - spadBase) % spadSize) 32 = none) ∧ (descAt sPg ePg = TileDesc.mk (rd64 sPg ePg.pa) (rd64 sPg (ePg.pa +
    8)) (rd64 sPg (ePg.pa + 16)) (rd64 sPg (ePg.pa + 24))) ∧ (tileDescFault (descAt sPg ePg) = none) ∧ (region (descAt
    sPg ePg).d0 = Region.paged) ∧ (xlatFind sPg (BitVec.toNat (descAt sPg ePg).d0) = some xPg) ∧ (entryPermits sPg
    thT.ctx (privOf thT) xPg Acc.read = true) ∧ (∀ y ∈ (sliceAt sPg (sliceOfVa (BitVec.toNat (descAt sPg
    ePg).d0))).tiles, BitVec.toNat y.base + y.span ≤ BitVec.toNat (descAt sPg ePg).d0 ∨ BitVec.toNat (descAt sPg
    ePg).d0 + TileDesc.span (descAt sPg ePg) ≤ BitVec.toNat y.base) ∧ (0 < 1) ∧ (1 < tileMax sPg thT.ctx) ∧ (fld (v64
    sPg thT.ctx (tileVa sPg thT.ctx 1 + 32)) 0 1 = 0) ∧ (0 < 2048) ∧ (∀ y ∈ (sliceAt sPg (sliceOfVa (BitVec.toNat
    (descAt sPg ePg).d0))).tiles, y.idx ≠ 0) ∧ (∀ i < 0, ∃ y ∈ (sliceAt sPg (sliceOfVa (BitVec.toNat (descAt sPg
    ePg).d0))).tiles, y.idx = i) ∧ (DistinctTiles sPg (sliceOfVa (BitVec.toNat (descAt sPg ePg).d0)))) ∧ (∀ (i l : ℕ),
    i < TileDesc.span (descAt sPg ePg) / 32 → tileLine sPg (TileEnt.mk 0 thT.ctx (BitVec.ofNat 32 (fld (v64 sPg
    thT.ctx (tileVa sPg thT.ctx 1 + 32)) 4 12 * 2 ^ 20 + 1)) (TileDesc.tag (descAt sPg ePg)) (descAt sPg ePg).d0
    (TileDesc.span (descAt sPg ePg)) [] [] none false [] [] 0 false false false none) i = some l → tileAt sPg
    (sliceOfVa (BitVec.toNat (descAt sPg ePg).d0)) l = none) ∧ (∀ (i : ℕ), 0 < i → i < 1 → fld (v64 sPg thT.ctx
    (tileVa sPg thT.ctx i + 32)) 0 1 ≠ 0) ∧ (VaultAt sPg thT.ctx (tileVa sPg thT.ctx 1) 64 155712) := by
  refine ⟨?_, ?_, ?_, ?_⟩
  · unfold Canonical MemOk Executing ReadyNow Writable AtLocalWord DistinctTiles Local; decide +kernel
  · exact fun _ _ _ _ => tileAt_none _ _ _ (by decide +kernel)
  · exact fun i h1 h2 => absurd h2 (by omega)
  · unfold VaultAt; exact dec_own (fun _ => inferInstance) (by decide +kernel)

theorem witness_Declared_1 :
  (Canonical sT) ∧ (Executing sT thT) ∧ (thT.acqOut = 0) ∧ (ReadyNow thT (src (19 : BitVec 5) (0 : BitVec 2))) ∧
    (findTile sT thT.ctx (val thT (19 : BitVec 5)) = none) := by
  unfold Canonical MemOk Executing ReadyNow; decide +kernel

theorem witness_Declared_2_0 :
  ((Canonical sT) ∧ (Executing sT thT) ∧ (thT.acqOut = 0) ∧ (ReadyNow thT (src (9 : BitVec 5) (0 : BitVec 2))) ∧
    (findTile sT thT.ctx (val thT (9 : BitVec 5)) = some (tHome, tEnt)) ∧ (releasedAt sT sT.cur thT = true) ∧
    (tileBusy sT tHome tEnt = false) ∧ (tileCopies sT tEnt = []) ∧ (tEnt.recalls = []) ∧ (DistinctTiles sT tHome)) ∧
    (VaultAt sT tEnt.ctx (tileVa sT tEnt.ctx (BitVec.toNat tEnt.handle % 2 ^ 20) + 32) 8 155744) := by
  refine ⟨?_, ?_⟩
  · unfold Canonical MemOk Executing ReadyNow DistinctTiles; decide +kernel
  · unfold VaultAt; exact dec_own (fun _ => inferInstance) (by decide +kernel)

theorem witness_Declared_2_1 :
  (Canonical sT) ∧ (Executing sT thT) ∧ (thT.acqOut = 0) ∧ (ReadyNow thT (src (9 : BitVec 5) (0 : BitVec 2))) ∧
    (findTile sT thT.ctx (val thT (9 : BitVec 5)) = some (tHome, tEnt)) ∧ (Writable thT (BitVec.toNat (4 : BitVec 5))) := by
  unfold Canonical MemOk Executing ReadyNow Writable; decide +kernel

theorem witness_Declared_2_2 :
  (Canonical sT) ∧ (Executing sT thT) ∧ (thT.acqOut = 0) ∧ (ReadyNow thT (src (9 : BitVec 5) (0 : BitVec 2))) ∧
    (findTile sT thT.ctx (val thT (9 : BitVec 5)) = some (tHome, tEnt)) ∧ (ReadyNow thT (src (13 : BitVec 5) (0 :
    BitVec 2))) ∧ (BitVec.toNat (val thT (13 : BitVec 5)) < 65536) ∧ (BitVec.toNat (val thT (13 : BitVec 5)) % 4 = 0)
    ∧ (releasedAt sT sT.cur thT = true) ∧ (tEnt.freeing = false) ∧ (tileBusy sT tHome tEnt = false) ∧ (fld (val thT
    (13 : BitVec 5)) 8 2 ≠ 3) ∧ (¬(16 ≤ fld (val thT (13 : BitVec 5)) 10 6 ∧ fld (val thT (13 : BitVec 5)) 10 6 < 32))
    ∧ (TileDesc.esize (tileDescOf sT tEnt.ctx (BitVec.toNat tEnt.handle % 2 ^ 20)) = esizeOf (fld (val thT (13 :
    BitVec 5)) 10 6)) := by
  unfold Canonical MemOk Executing ReadyNow; decide +kernel

theorem witness_Staged_0 :
  (Canonical sT) ∧ (Executing sT thT) ∧ (thT.acqOut = 0) ∧ (ReadyNow thT (src (9 : BitVec 5) (0 : BitVec 2))) ∧
    (findTile sT thT.ctx (val thT (9 : BitVec 5)) = some (tHome, tEnt)) ∧ (ReadyNow thT (src (10 : BitVec 5) (0 :
    BitVec 2))) ∧ (Writable thT (BitVec.toNat (4 : BitVec 5))) ∧ (releasedAt sT sT.cur thT = true) ∧ (fld (val thT (10
    : BitVec 5)) 18 12 = 0) ∧ (fld (val thT (10 : BitVec 5)) 31 33 = 0) ∧ (fld (val thT (10 : BitVec 5)) 0 18 % 32 =
    0) ∧ (fld (val thT (10 : BitVec 5)) 0 18 + tEnt.span ≤ 245760) ∧ (slotOfTile sT (sT.cur / 16) tEnt.ctx tEnt.handle
    = none) ∧ (rangeTaken sT (sT.cur / 16) tEnt.ctx tEnt.handle (fld (val thT (10 : BitVec 5)) 0 18) tEnt.span none =
    false) ∧ (slotToUse sT (sT.cur / 16) tEnt.ctx tEnt.handle = some 0) ∧ (0 < 32) := by
  unfold Canonical MemOk Executing ReadyNow Writable; decide +kernel

theorem witness_Staged_1_0 :
  (Canonical sT) ∧ (Executing sT thT) ∧ (thT.acqOut = 0) ∧ (ReadyNow thT (src (9 : BitVec 5) (0 : BitVec 2))) ∧
    (findTile sT thT.ctx (val thT (9 : BitVec 5)) = some (tHome, tEnt)) ∧ (slotOfTile sT (sT.cur / 16) tEnt.ctx
    tEnt.handle = none) ∧ (releasedAt sT sT.cur thT = true) := by
  unfold Canonical MemOk Executing ReadyNow; decide +kernel

theorem witness_Staged_2_0 :
  (Canonical (sC TileSlotState.ready false false)) ∧ (Executing (sC TileSlotState.ready false false) thT) ∧
    (thT.acqOut = 0) ∧ (ReadyNow thT (src (9 : BitVec 5) (0 : BitVec 2))) ∧ (findTile (sC TileSlotState.ready false
    false) thT.ctx (val thT (9 : BitVec 5)) = some (tHome, tShared)) ∧ (slotOfTile (sC TileSlotState.ready false
    false) ((sC TileSlotState.ready false false).cur / 16) tShared.ctx tShared.handle = some (2, slotOf
    TileSlotState.ready false false)) ∧ ((slotOf TileSlotState.ready false false).st = TileSlotState.ready) ∧ (2 < 32)
    ∧ (releasedAt (sC TileSlotState.ready false false) (sC TileSlotState.ready false false).cur thT = true) ∧
    (¬((slotOf TileSlotState.ready false false).own = true ∧ (slotOf TileSlotState.ready false false).mod = true)) := by
  unfold Canonical MemOk Executing ReadyNow; decide +kernel

theorem witness_Staged_2_1 :
  (Canonical (sC TileSlotState.ready true true)) ∧ (Executing (sC TileSlotState.ready true true) thT) ∧ (thT.acqOut =
    0) ∧ (ReadyNow thT (src (9 : BitVec 5) (0 : BitVec 2))) ∧ (findTile (sC TileSlotState.ready true true) thT.ctx
    (val thT (9 : BitVec 5)) = some (tHome, tOwned)) ∧ (slotOfTile (sC TileSlotState.ready true true) ((sC
    TileSlotState.ready true true).cur / 16) tOwned.ctx tOwned.handle = some (2, slotOf TileSlotState.ready true
    true)) ∧ ((slotOf TileSlotState.ready true true).st = TileSlotState.ready) ∧ (2 < 32) ∧ (releasedAt (sC
    TileSlotState.ready true true) (sC TileSlotState.ready true true).cur thT = true) ∧ ((slotOf TileSlotState.ready
    true true).own = true) ∧ ((slotOf TileSlotState.ready true true).mod = true) := by
  unfold Canonical MemOk Executing ReadyNow; decide +kernel

theorem witness_Staged_2_2 :
  ((Canonical (sC TileSlotState.ready true true)) ∧ (Executing (sC TileSlotState.ready true true) thT) ∧ (thT.acqOut =
    0) ∧ (ReadyNow thT (src (9 : BitVec 5) (0 : BitVec 2))) ∧ (findTile (sC TileSlotState.ready true true) thT.ctx
    (val thT (9 : BitVec 5)) = some (tHome, tOwned)) ∧ (slotOfTile (sC TileSlotState.ready true true) ((sC
    TileSlotState.ready true true).cur / 16) tOwned.ctx tOwned.handle = some (2, slotOf TileSlotState.ready true
    true)) ∧ ((slotOf TileSlotState.ready true true).st = TileSlotState.ready) ∧ (2 < 32)) ∧ ((slotOf
    TileSlotState.ready true true).own = true → ∃ (p : ℕ) (va : Word), tileRights (sC TileSlotState.ready true true)
    (slotOf TileSlotState.ready true true).ctx (privOf thT) (slotOf TileSlotState.ready true true).base (slotOf
    TileSlotState.ready true true).span Acc.write = (Chk.ok p, va)) := by
  refine ⟨?_, ?_⟩
  · unfold Canonical MemOk Executing ReadyNow; decide +kernel
  · exact fun _ => ⟨0, lin 0x6000, by decide +kernel⟩

theorem witness_Staged_3_0 :
  (Canonical sTg) ∧ (Executing sTg thT) ∧ (thT.acqOut = 0) ∧ (ReadyNow thT (src (9 : BitVec 5) (0 : BitVec 2))) ∧
    (findTile sTg thT.ctx (val thT (9 : BitVec 5)) = some (tHome, tEnt)) ∧ (ReadyNow thT (src (18 : BitVec 5) (0 :
    BitVec 2))) ∧ (Writable thT (BitVec.toNat (4 : BitVec 5))) ∧ (releasedAt sTg sTg.cur thT = true) ∧ (grpMembers sTg
    tEnt.ctx (fld (val thT (18 : BitVec 5)) 48 8) = some [1, 2]) ∧ (fld (val thT (18 : BitVec 5)) 18 14 = 0) ∧ (fld
    (val thT (18 : BitVec 5)) 56 8 = 0) ∧ (fld (val thT (18 : BitVec 5)) 0 18 % 32 = 0) ∧ (fld (val thT (18 : BitVec
    5)) 0 18 + tEnt.span ≤ 245760) ∧ (0 < 16) ∧ (0 < List.length [1, 2]) ∧ (fld (val thT (18 : BitVec 5)) 32 16 = 2 ^
    0) ∧ (physCore sTg tEnt.ctx (Option.getD [1, 2][0]? 0) = some 1) ∧ (offerSlot sTg 1 tEnt (fld (val thT (18 :
    BitVec 5)) 0 18) = some (some 0)) ∧ (0 < 32) := by
  unfold Canonical MemOk Executing ReadyNow Writable; decide +kernel

theorem witness_Staged_4_0 :
  (Canonical sT) ∧ (Executing sT thT) ∧ (thT.acqOut = 0) ∧ (ReadyNow thT (src (9 : BitVec 5) (0 : BitVec 2))) ∧
    (findTile sT thT.ctx (val thT (9 : BitVec 5)) = some (tHome, tEnt)) ∧ (ReadyNow thT (src (10 : BitVec 5) (0 :
    BitVec 2))) ∧ (Writable thT (BitVec.toNat (4 : BitVec 5))) ∧ (releasedAt sT sT.cur thT = true) ∧ (fld (val thT (10
    : BitVec 5)) 31 33 = 0) ∧ (fld (val thT (10 : BitVec 5)) 0 18 % 32 = 0) ∧ (fld (val thT (10 : BitVec 5)) 0 18 +
    tEnt.span ≤ 245760) ∧ (fld (val thT (10 : BitVec 5)) 18 12 < coreCount sT tEnt.ctx) ∧ (physCore sT tEnt.ctx (fld
    (val thT (10 : BitVec 5)) 18 12) = some 0) ∧ (0 = sT.cur / 16) := by
  unfold Canonical MemOk Executing ReadyNow Writable; decide +kernel

theorem witness_Staged_4_2 :
  (Canonical sT) ∧ (Executing sT thT) ∧ (thT.acqOut = 0) ∧ (ReadyNow thT (src (9 : BitVec 5) (0 : BitVec 2))) ∧
    (findTile sT thT.ctx (val thT (9 : BitVec 5)) = some (tHome, tEnt)) ∧ (ReadyNow thT (src (16 : BitVec 5) (0 :
    BitVec 2))) ∧ (Writable thT (BitVec.toNat (4 : BitVec 5))) ∧ (releasedAt sT sT.cur thT = true) ∧ (fld (val thT (16
    : BitVec 5)) 31 33 = 0) ∧ (fld (val thT (16 : BitVec 5)) 0 18 % 32 = 0) ∧ (fld (val thT (16 : BitVec 5)) 0 18 +
    tEnt.span ≤ 245760) ∧ (fld (val thT (16 : BitVec 5)) 18 12 < coreCount sT tEnt.ctx) ∧ (physCore sT tEnt.ctx (fld
    (val thT (16 : BitVec 5)) 18 12) = some 1) ∧ (1 ≠ sT.cur / 16) ∧ ((fld (val thT (16 : BitVec 5)) 30 1 == 1) = true
    → Option.any (fun (x : ℕ × TileSlot) => x.2.own) (slotOfTile sT (sT.cur / 16) tEnt.ctx tEnt.handle) = false) ∧
    (offerSlot sT 1 tEnt (fld (val thT (16 : BitVec 5)) 0 18) = some (some 0)) ∧ (0 < 32) := by
  unfold Canonical MemOk Executing ReadyNow Writable; decide +kernel

theorem witness_Staged_4_3 :
  (Canonical (sC TileSlotState.ready true false)) ∧ (Executing (sC TileSlotState.ready true false) thT) ∧ (thT.acqOut
    = 0) ∧ (ReadyNow thT (src (9 : BitVec 5) (0 : BitVec 2))) ∧ (findTile (sC TileSlotState.ready true false) thT.ctx
    (val thT (9 : BitVec 5)) = some (tHome, tOwned)) ∧ (ReadyNow thT (src (17 : BitVec 5) (0 : BitVec 2))) ∧ (Writable
    thT (BitVec.toNat (4 : BitVec 5))) ∧ (releasedAt (sC TileSlotState.ready true false) (sC TileSlotState.ready true
    false).cur thT = true) ∧ (fld (val thT (17 : BitVec 5)) 31 33 = 0) ∧ (fld (val thT (17 : BitVec 5)) 0 18 % 32 = 0)
    ∧ (fld (val thT (17 : BitVec 5)) 0 18 + tOwned.span ≤ 245760) ∧ (fld (val thT (17 : BitVec 5)) 18 12 < coreCount
    (sC TileSlotState.ready true false) tOwned.ctx) ∧ (physCore (sC TileSlotState.ready true false) tOwned.ctx (fld
    (val thT (17 : BitVec 5)) 18 12) = some 1) ∧ (1 ≠ (sC TileSlotState.ready true false).cur / 16) ∧ ((fld (val thT
    (17 : BitVec 5)) 30 1 == 1) = true) ∧ (slotOfTile (sC TileSlotState.ready true false) ((sC TileSlotState.ready
    true false).cur / 16) tOwned.ctx tOwned.handle = some (2, slotOf TileSlotState.ready true false)) ∧ ((slotOf
    TileSlotState.ready true false).own = true) ∧ ((slotOf TileSlotState.ready true false).st = TileSlotState.ready) ∧
    ((slotOf TileSlotState.ready true false).refused = false) ∧ (fld (val thT (9 : BitVec 5)) 0 32 = BitVec.toNat
    tOwned.handle) ∧ (tOwned.ctx = thT.ctx) := by
  unfold Canonical MemOk Executing ReadyNow Writable; decide +kernel

theorem witness_Copies_0_0 :
  ((Canonical (sF false)) ∧ ((sF false).now = none) ∧ ((tslot (sF false) 0 2).st = TileSlotState.filling) ∧ (findTile
    (sF false) (tslot (sF false) 0 2).ctx (BitVec.zeroExtend 64 (tslot (sF false) 0 2).handle) = some (tHome, tEnt)) ∧
    (stageRights (sF false) (tslot (sF false) 0 2) = (Chk.ok (pOf (sF false) false), vaOf (sF false) false)) ∧
    (TileFree (sF false) tHome tEnt) ∧ ((tslot (sF false) 0 2).own = false)) ∧ (TileQuiet (sF false) tEnt) ∧ (TileLies
    (sF false) tEnt 24576) := by
  refine ⟨?_, ?_, ?_⟩
  · unfold Canonical MemOk TileFree; decide +kernel
  · exact tileQuiet_of _ _ (by decide +kernel)
  · exact lies_of _ _ _ (by decide +kernel) (by decide +kernel) (by decide +kernel)

theorem witness_Copies_0_1 :
  ((Canonical (sF true)) ∧ ((sF true).now = none) ∧ ((tslot (sF true) 0 2).st = TileSlotState.filling) ∧ (findTile (sF
    true) (tslot (sF true) 0 2).ctx (BitVec.zeroExtend 64 (tslot (sF true) 0 2).handle) = some (tHome, tEnt)) ∧
    (stageRights (sF true) (tslot (sF true) 0 2) = (Chk.ok (pOf (sF true) true), vaOf (sF true) true)) ∧ (TileFree (sF
    true) tHome tEnt) ∧ ((tslot (sF true) 0 2).own = true)) ∧ (TileQuiet (sF true) tEnt) ∧ (TileLies (sF true) tEnt
    24576) ∧ (∀ q ∈ tilePieces (BitVec.toNat tEnt.base) tEnt.span, DirtyNoted (sF true) q) := by
  refine ⟨?_, ?_, ?_, ?_⟩
  · unfold Canonical MemOk TileFree; decide +kernel
  · exact tileQuiet_of _ _ (by decide +kernel)
  · exact lies_of _ _ _ (by decide +kernel) (by decide +kernel) (by decide +kernel)
  · exact fun q hq => Or.inr ((by decide +kernel : ∀ q ∈ tilePieces tEnt.base.toNat tEnt.span, region (BitVec.ofNat 64 q) ≠ .paged) q hq)

theorem witness_Copies_1 :
  (Canonical (sF false)) ∧ ((sF false).now = none) ∧ (0 < 3072) ∧ (2 < 32) ∧ ((tslot (sF false) 0 2).st =
    TileSlotState.filling) ∧ ((tslot (sF false) 0 2).recalled = false) ∧ ((tslot (sF false) 0 2).off + List.length [(1
    : Byte), (2 : Byte), (3 : Byte)] ≤ spadSize) := by
  unfold Canonical MemOk; decide +kernel

theorem witness_Copies_2 :
  ((Canonical (sC TileSlotState.draining true true)) ∧ ((sC TileSlotState.draining true true).now = none) ∧ (findTile
    (sC TileSlotState.draining true true) (tslot (sC TileSlotState.draining true true) 0 2).ctx (BitVec.zeroExtend 64
    (tslot (sC TileSlotState.draining true true) 0 2).handle) = some (tHome, tOwned)) ∧ (tOwned.owner = some (0, 2)) ∧
    (DistinctTiles (sC TileSlotState.draining true true) tHome) ∧ (∀ x ∈ (sC TileSlotState.draining true true).dir,
    24576 ≤ x.1 * 32 → x.1 * 32 < 24576 + tOwned.span → x.2.above = []) ∧ (0 < 3072) ∧ ((tslot (sC
    TileSlotState.draining true true) 0 2).off + tOwned.span ≤ spadSize)) ∧ (TileLies (sC TileSlotState.draining true
    true) tOwned 24576) := by
  refine ⟨?_, ?_⟩
  · unfold Canonical MemOk DistinctTiles; decide +kernel
  · exact lies_of _ _ _ (by decide +kernel) (by decide +kernel) (by decide +kernel)

theorem witness_Copies_3 :
  (Canonical (sC TileSlotState.draining true true)) ∧ ((sC TileSlotState.draining true true).now = none) ∧ (2 < 32) ∧
    ((tslot (sC TileSlotState.draining true true) 0 2).st = TileSlotState.draining) := by
  unfold Canonical MemOk; decide +kernel

theorem witness_Copies_4 :
  (Canonical sGone) ∧ (sGone.now = none) ∧ (findTile sGone 1 (BitVec.zeroExtend 64 (1 : BitVec 32)) = some (tHome,
    tShared)) ∧ (tShared.owner = none) ∧ (tShared.sharers = [(0, 2)]) ∧ (DistinctTiles sGone tHome) ∧ ((tslot sGone 0
    2).st = TileSlotState.empty) := by
  unfold Canonical MemOk DistinctTiles; decide +kernel

theorem witness_Copies_5_0 :
  (Canonical (sC TileSlotState.ready false false)) ∧ ((sC TileSlotState.ready false false).now = none) ∧ (slotOfTile
    (sC TileSlotState.ready false false) 0 1 (1 : BitVec 32) = some (2, slotOf TileSlotState.ready false false)) ∧ (2
    < 32) ∧ ((slotOf TileSlotState.ready false false).st = TileSlotState.ready) ∧ (¬((slotOf TileSlotState.ready false
    false).own = true ∧ (slotOf TileSlotState.ready false false).mod = true)) := by
  unfold Canonical MemOk; decide +kernel

theorem witness_Copies_5_1 :
  (Canonical (sC TileSlotState.ready true true)) ∧ ((sC TileSlotState.ready true true).now = none) ∧ (slotOfTile (sC
    TileSlotState.ready true true) 0 1 (1 : BitVec 32) = some (2, slotOf TileSlotState.ready true true)) ∧ (2 < 32) ∧
    ((slotOf TileSlotState.ready true true).st = TileSlotState.ready) ∧ ((slotOf TileSlotState.ready true true).own =
    true) ∧ ((slotOf TileSlotState.ready true true).mod = true) := by
  unfold Canonical MemOk; decide +kernel

theorem witness_Copies_5_3 :
  (Canonical sFup) ∧ (sFup.now = none) ∧ (slotOfTile sFup 0 1 (1 : BitVec 32) = some (2, slotUp)) ∧ (2 < 32) ∧
    (slotUp.st = TileSlotState.filling) ∧ (slotUp.upgrade = true) := by
  unfold Canonical MemOk; decide +kernel

theorem witness_Copies_5_2 :
  (Canonical (sF false)) ∧ ((sF false).now = none) ∧ (slotOfTile (sF false) 0 1 (1 : BitVec 32) = some (2, slotOf
    TileSlotState.filling false false)) ∧ (2 < 32) ∧ ((slotOf TileSlotState.filling false false).st =
    TileSlotState.filling) ∧ ((slotOf TileSlotState.filling false false).upgrade = false) := by
  unfold Canonical MemOk; decide +kernel

theorem witness_Copies_6 :
  (Canonical sHold) ∧ (sHold.now = none) ∧ (List.find? (fun (e : TileEnt) => e.idx == 0) (sliceAt sHold tHome).tiles =
    some tHeld) ∧ (tHeld.hold ≠ []) ∧ (tHeld.holdEnd ≤ sHold.time8) := by
  unfold Canonical MemOk; decide +kernel

theorem witness_Copies_7_0 :
  (Canonical sDeferE) ∧ (sDeferE.now = none) ∧ (2 < 32) ∧ ((tslot sDeferE 0 2).st = TileSlotState.ready) ∧ ((tslot
    sDeferE 0 2).defer = true) ∧ ((tslot sDeferE 0 2).own = true) ∧ ((tslot sDeferE 0 2).mod = true) ∧ (sDeferE.time8
    < (tslot sDeferE 0 2).deferEnd) := by
  unfold Canonical MemOk; decide +kernel

theorem witness_Copies_7_1 :
  (Canonical sDefer) ∧ (sDefer.now = none) ∧ (2 < 32) ∧ ((tslot sDefer 0 2).st = TileSlotState.ready) ∧ ((tslot sDefer
    0 2).defer = true) ∧ ((tslot sDefer 0 2).own = true) ∧ ((tslot sDefer 0 2).mod = true) ∧ ((tslot sDefer 0
    2).deferEnd ≤ sDefer.time8) := by
  unfold Canonical MemOk; decide +kernel

theorem witness_Copies_8_0 :
  (Canonical sFw0) ∧ (HeldIn sFw0 0 thFw) ∧ (thFw.form = Form.inFlight (WaitFor.tile 4 (1 : BitVec 32))) ∧ (4 < 28) ∧
    ((tslot sFw0 0 2).handle = (1 : BitVec 32)) ∧ ((tslot sFw0 0 2).ctx = thFw.ctx) ∧ ((tslot sFw0 0 2).refused =
    false) ∧ ((tslot sFw0 0 2).st ≠ TileSlotState.ready) := by
  unfold Canonical MemOk HeldIn; decide +kernel

theorem witness_Copies_8_1 :
  ((Canonical sFw1) ∧ (HeldIn sFw1 0 thFw) ∧ (thFw.form = Form.inFlight (WaitFor.tile 4 (1 : BitVec 32))) ∧ (4 < 28) ∧
    ((tslot sFw1 0 2).handle = (1 : BitVec 32)) ∧ ((tslot sFw1 0 2).ctx = thFw.ctx) ∧ ((tslot sFw1 0 2).refused =
    false) ∧ ((tslot sFw1 0 2).st = TileSlotState.ready) ∧ (findTile sFw1 thFw.ctx (BitVec.zeroExtend 64 (1 : BitVec
    32)) = some (tHome, tOwned))) ∧ (∀ (k : ℕ), offerSlot sFw1 1 tOwned 2048 ≠ some (some k)) := by
  refine ⟨?_, ?_⟩
  · unfold Canonical MemOk HeldIn; decide +kernel
  · exact no_offer _ _ _ _ (by decide +kernel)

theorem witness_Copies_8_2 :
  (Canonical (sFw true)) ∧ (HeldIn (sFw true) 0 thFw) ∧ (thFw.form = Form.inFlight (WaitFor.tile 4 (1 : BitVec 32))) ∧
    (4 < 28) ∧ ((tslot (sFw true) 0 2).handle = (1 : BitVec 32)) ∧ ((tslot (sFw true) 0 2).ctx = thFw.ctx) ∧ ((tslot
    (sFw true) 0 2).refused = false) ∧ ((tslot (sFw true) 0 2).st = TileSlotState.ready) ∧ (1 ≠ 0) ∧ (1 < 3072) ∧ (0 <
    3072) ∧ (2 < 32) ∧ (0 < 32) ∧ (findTile (sFw true) thFw.ctx (BitVec.zeroExtend 64 (1 : BitVec 32)) = some (tHome,
    tOwned)) ∧ (offerSlot (sFw true) 1 tOwned 2048 = some (some 0)) ∧ (2048 + tOwned.span ≤ spadSize) ∧ ((tslot (sFw
    true) 0 2).off + tOwned.span ≤ spadSize) := by
  unfold Canonical MemOk HeldIn; decide +kernel

theorem witness_Staged_1_1 :
  (Canonical sT) ∧ (Executing sT thT) ∧ (thT.acqOut = 0) ∧ (ReadyNow thT (src (9 : BitVec 5) (0 : BitVec 2))) ∧
    (findTile sT thT.ctx (val thT (9 : BitVec 5)) = some (tHome, tEnt)) ∧ (slotOfTile sT (sT.cur / 16) tEnt.ctx
    tEnt.handle = none) := by
  unfold Canonical MemOk Executing ReadyNow; decide +kernel

theorem witness_Staged_3_1 :
  (Canonical sFullG) ∧ (Executing sFullG thT) ∧ (thT.acqOut = 0) ∧ (ReadyNow thT (src (9 : BitVec 5) (0 : BitVec 2)))
    ∧ (findTile sFullG thT.ctx (val thT (9 : BitVec 5)) = some (tHome, tEnt)) ∧ (ReadyNow thT (src (18 : BitVec 5) (0
    : BitVec 2))) ∧ (Writable thT (BitVec.toNat (4 : BitVec 5))) ∧ (releasedAt sFullG sFullG.cur thT = true) ∧
    (grpMembers sFullG tEnt.ctx (fld (val thT (18 : BitVec 5)) 48 8) = some [1, 2]) ∧ (fld (val thT (18 : BitVec 5))
    18 14 = 0) ∧ (fld (val thT (18 : BitVec 5)) 56 8 = 0) ∧ (fld (val thT (18 : BitVec 5)) 0 18 % 32 = 0) ∧ (fld (val
    thT (18 : BitVec 5)) 0 18 + tEnt.span ≤ 245760) ∧ (0 < 16) ∧ (0 < List.length [1, 2]) ∧ (fld (val thT (18 : BitVec
    5)) 32 16 = 2 ^ 0) ∧ (physCore sFullG tEnt.ctx (Option.getD [1, 2][0]? 0) = some 1) ∧ (offerSlot sFullG 1 tEnt
    (fld (val thT (18 : BitVec 5)) 0 18) = none) := by
  unfold Canonical MemOk Executing ReadyNow Writable; decide +kernel

theorem witness_Staged_4_1 :
  (Canonical sFull) ∧ (Executing sFull thT) ∧ (thT.acqOut = 0) ∧ (ReadyNow thT (src (9 : BitVec 5) (0 : BitVec 2))) ∧
    (findTile sFull thT.ctx (val thT (9 : BitVec 5)) = some (tHome, tEnt)) ∧ (ReadyNow thT (src (16 : BitVec 5) (0 :
    BitVec 2))) ∧ (Writable thT (BitVec.toNat (4 : BitVec 5))) ∧ (releasedAt sFull sFull.cur thT = true) ∧ (fld (val
    thT (16 : BitVec 5)) 31 33 = 0) ∧ (fld (val thT (16 : BitVec 5)) 0 18 % 32 = 0) ∧ (fld (val thT (16 : BitVec 5)) 0
    18 + tEnt.span ≤ 245760) ∧ (fld (val thT (16 : BitVec 5)) 18 12 < coreCount sFull tEnt.ctx) ∧ (physCore sFull
    tEnt.ctx (fld (val thT (16 : BitVec 5)) 18 12) = some 1) ∧ (1 ≠ sFull.cur / 16) ∧ ((fld (val thT (16 : BitVec 5))
    30 1 == 1) = true → Option.any (fun (x : ℕ × TileSlot) => x.2.own) (slotOfTile sFull (sFull.cur / 16) tEnt.ctx
    tEnt.handle) = false) ∧ (offerSlot sFull 1 tEnt (fld (val thT (16 : BitVec 5)) 0 18) = none) := by
  unfold Canonical MemOk Executing ReadyNow Writable; decide +kernel

end Sys2Proof.Tests.Tiles
end

