-- ==== Sys2Proof/Tests/Engines.lean ====
section
/-!
SUPPORT. Witnesses: machines that meet the hypotheses of the statements on the matrix array, the copy engine and timelines.
-/
namespace Sys2Proof.Tests.Engines

open Sys2Proof Sys2Proof.Machine Sys2Proof.Safety Sys2Proof.Tests
open Sys2Proof.Tests.Shared (th0 s0 base m0)
open Sys2Proof.Tests.Tiles (sC slotOf tOwned tHome thT)

set_option Elab.async false
set_option maxRecDepth 8000
set_option synthInstance.maxSize 1024

/-- g15 and g16 hold 0, g17 to g19 selectors of mstat, g14 a table in the own scratchpad, g20 an operand word. -/
def thE : Thread := base [(15, 0), (16, 0), (17, 0x70), (18, 0x30), (19, 0x80), (14, loc 0x400), (13, 0x90), (10, 0xA0), (9, 7), (8, 1)]
def sE : State := mem [(spadPa 0 0x400, 0x20)] (m0 (run thE))
/-- Array contexts of the thread: idle, with a full queue, faulted. -/
def engIs (x : EngCtx) (s : State) : State := setCell s 0 { cellAt s 0 with eng := (cellAt s 0).eng.setIfInBounds 0 x }
def xIdle : EngCtx := { st := .idle, ctx := 1, tid := 5 }
def cmdZ (n : Nat) : ArrCmd := { n := n, th := ⟨0, 1, 5⟩, priv := 3, core := 0, op := .acczero }
def sIdle : State := engIs xIdle sE
def sFull : State := engIs { xIdle with st := .busy, last := 8, queue := (List.range 8).map (fun i => cmdZ (i + 1)) } sE
def sFault : State := engIs { xIdle with st := .faulted, status := 3 } sE
def rowZ : ArrRow := ⟨.acczero, false, [15], 0, fun _ => 0, (val · 15), fun _ => false, false, fun th _ => blockOperand (val th 15),
  fun _ _ _ => none⟩
/-- A product of signed bytes, one step deep. -/
def regsM : Vector Word 7 := ((Vector.replicate 7 0).setIfInBounds 0 (BitVec.ofNat 64 (0xFFFFFFFFFFFF + 2 ^ 48))).setIfInBounds 1 0x909
def cmdM : ArrCmd := { n := 1, th := ⟨0, 1, 5⟩, priv := 3, core := 0, op := .mma, a := 0x400, b := 0, regs := regsM }
def sM : State := engIs { xIdle with st := .busy, last := 1, queue := [cmdM] } sE
def sZ : State := engIs { xIdle with st := .busy, last := 1, queue := [cmdZ 1] } sE
def cmdDone : ArrCmd := { cmdZ 1 with finished := true }
def sDone : State := engIs { xIdle with st := .busy, last := 1, queue := [cmdDone], gets := [⟨⟨0, 1, 5⟩, 9, 1, 0, 0, 0x1000⟩] } sE
/-- A thread that waits for its table's load. -/
def thB : Thread := { thE with form := .inFlight .unit }
def bank0 : Bank := { code := 32 }
def sB : State := let s := run thB; setCell s 0 { cellAt s 0 with mtabld := [(1, bank0, ⟨0, 1, 5⟩)] }
def thTb : Thread := { thT with regs := (setReg 10 { st := .full, val := 0 } thT).regs }
def sTb : State := setSlot (sC .ready true false) 0 { slotAt (sC .ready true false) 0 with occ := .thread thTb }

/-- A copy context of the thread with four doublewords to move from 0x40 to 0x800 of the own scratchpad. -/
def regsX : Vector Word 38 :=
  ((((Vector.replicate 38 0).setIfInBounds 36 0x41).setIfInBounds 0 4).setIfInBounds 12 8).setIfInBounds 24 8
def copyIs (e : Nat) (x : CopyCtx) (s : State) : State := setCore s 0 { coreAt s 0 with copy := (coreAt s 0).copy.setIfInBounds e x }
def xC : CopyCtx := { st := .idle, ctx := 1, tid := 5, regs := regsX }
def thX : Thread := base [(11, loc 0x40), (14, loc 0x800), (15, 0), (16, 1), (17, 2), (18, 9), (19, 4), (20, 3)]
def sX : State := copyIs 0 xC (m0 (run thX))
def cmdX : CopyCmd := { n := 1, th := ⟨0, 1, 5⟩, priv := 3, fill := false, src := loc 0x40, dst := loc 0x800, regs := regsX }
def sXq : State := copyIs 0 { xC with st := .busy, last := 1, queue := [cmdX] } (m0 (run thX))
def cmdX2 : CopyCmd := { cmdX with n := 2 }
def sXq2 : State := copyIs 0 { xC with st := .busy, last := 2, queue := [cmdX, cmdX2] } (m0 (run thX))
def cmdXd : CopyCmd := { cmdX with finished := true, next := 4 }
def sXd : State := copyIs 0 { xC with st := .busy, last := 1, queue := [cmdXd] } (m0 (run thX))
def sXfull : State :=
  copyIs 1 { xC with st := .busy, tid := 6, last := 64, queue := (List.range 64).map (fun i => { cmdX with n := i + 1 }) } sX
def sXo : State := copyIs 0 { xC with tid := 6 } (m0 (run thX))
def sXl : State := copyIs 0 { xC with st := .busy, last := 4, line := 2, queue := [{ cmdX with n := 3 }, { cmdX with n := 4 }] } (m0 (run thX))
/-- A core without comparators. -/
theorem no_cmps (v : Vector (Word × Word) 4) (h : v = Vector.replicate 4 (0, 0)) :
    ∀ j : Nat, v[j]?.getD (0, 0) = ((0, 0) : Word × Word) := by
  subst h
  intro j
  by_cases hj : j < 4
  · rw [Vector.getElem?_eq_getElem hj, Vector.getElem_replicate]; rfl
  · rw [Vector.getElem?_eq_none (by omega)]; rfl

/-- The context that owns a cell runs. -/
theorem runs_of (s : State) (cell : Nat) (h : (match (cellAt s cell).owner with | some n => engRuns s n | none => true) = true) :
    ∀ n, (cellAt s cell).owner = some n → engRuns s n = true := by
  intro n hn
  rw [hn] at h
  exact h

/-- No context of a cell has a command queued. -/
theorem no_queues (s : State) (cell : Nat) (h : ∀ e, e < 4 → (eng s cell e).queue = []) (P : ArrCmd → Prop) :
    ∀ e q, e < 4 → q ∈ (eng s cell e).queue → P q := by
  intro e q he hq
  rw [h e he] at hq
  cases hq
/-- A context of another thread whose release this one has asked for. -/
def sLeft : State := engIs { xIdle with tid := 6, leavers := [5] } sE
/-- An array context that stores into a tile of bytes; a queued command that reads a bank. -/
def rowSt : ArrRow := ⟨.accst, false, [9, 19], 0, (val · 9), (val · 19), fun r => dkindOf r == 1, false,
  fun th r => accOperands r (val th 9) (val th 19), fun c r t => accConf c r true t⟩
def sSt : State := engIs { xIdle with regs := (Vector.replicate 7 0).setIfInBounds 4 (BitVec.ofNat 64 (9 + 2 ^ 32)) } Tiles.sT
def cmdT : ArrCmd := { cmdZ 1 with op := .accld, regs := (Vector.replicate 7 0).setIfInBounds 4 (BitVec.ofNat 64 (32 + 2 ^ 34)) }
def sBq : State := engIs { xIdle with st := .busy, last := 1, queue := [cmdT] } sB

theorem witness_Array_0_0 :
  ((Canonical sFull) ∧ (Executing sFull thE) ∧ (thE.acqOut = 0) ∧ (EngUsable sFull thE (BitVec.toNat rowZ.e)) ∧ (∀ r ∈
    rowZ.regs, ReadyNow thE (srcP r)) ∧ (Performed sFull thE) ∧ (rowZ.bad thE (claimed sFull thE (eng sFull (sFull.cur
    / 64) (BitVec.toNat rowZ.e))).regs = none) ∧ (List.length (eng sFull (sFull.cur / 64) (BitVec.toNat rowZ.e)).queue
    = 8) ∧ (rowZ.tiled (claimed sFull thE (eng sFull (sFull.cur / 64) (BitVec.toNat rowZ.e))).regs = false) ∧
    (rowZ.conf (cellAt sFull (sFull.cur / 64)) (claimed sFull thE (eng sFull (sFull.cur / 64) (BitVec.toNat
    rowZ.e))).regs none = none) ∧ (NoWake sFull thE)) ∧ (arrRow (Instr.acczero (15 : BitVec 5) (0 : BitVec 2)) = some
    rowZ) := by
  refine ⟨?_, ?_⟩
  · unfold Canonical MemOk Executing ReadyNow EngUsable Performed NoWake; decide +kernel
  · rfl

theorem witness_Array_0_1_0 :
  ((Canonical sIdle) ∧ (Executing sIdle thE) ∧ (thE.acqOut = 0) ∧ (EngUsable sIdle thE (BitVec.toNat rowZ.e)) ∧ (∀ r ∈
    rowZ.regs, ReadyNow thE (srcP r)) ∧ (Performed sIdle thE) ∧ (rowZ.bad thE (claimed sIdle thE (eng sIdle (sIdle.cur
    / 64) (BitVec.toNat rowZ.e))).regs = none) ∧ (List.length (eng sIdle (sIdle.cur / 64) (BitVec.toNat rowZ.e)).queue
    < 8) ∧ (rowZ.tiled (claimed sIdle thE (eng sIdle (sIdle.cur / 64) (BitVec.toNat rowZ.e))).regs = false) ∧
    (rowZ.conf (cellAt sIdle (sIdle.cur / 64)) (claimed sIdle thE (eng sIdle (sIdle.cur / 64) (BitVec.toNat
    rowZ.e))).regs none = none)) ∧ (arrRow (Instr.acczero (15 : BitVec 5) (0 : BitVec 2)) = some rowZ) := by
  refine ⟨?_, ?_⟩
  · unfold Canonical MemOk Executing ReadyNow EngUsable Performed; decide +kernel
  · rfl

theorem witness_Array_1 :
  (Canonical sE) ∧ (Executing sE thE) ∧ (thE.acqOut = 0) ∧ (EngUsable sE thE (BitVec.toNat (0 : BitVec 2))) ∧
    (ReadyNow thE (srcP (9 : BitVec 5))) ∧ ((2 : BitVec 3) ≠ (6 : BitVec 3)) := by
  unfold Canonical MemOk Executing ReadyNow EngUsable; decide +kernel

theorem witness_Array_2 :
  ((Canonical sE) ∧ (Executing sE thE) ∧ (thE.acqOut = 0) ∧ (EngUsable sE thE (BitVec.toNat (0 : BitVec 2))) ∧
    (ReadyNow thE (srcP (14 : BitVec 5))) ∧ (fld (val thE (14 : BitVec 5)) 2 4 = 0) ∧ (fld (val thE (14 : BitVec 5))
    56 8 = 0) ∧ (∀ j < 34, check sE (sE.cur / 16) thE.ctx (privOf thE) (BitVec.ofNat 64 (fld (val thE (14 : BitVec 5))
    6 50 * 64 + 32 * j)) 32 Acc.read false = Chk.ok (spadPa 0 1024 + 32 * j) ∧ Local sE (spadPa 0 1024 + 32 * j) ∧
    stageWait sE (BitVec.ofNat 64 (fld (val thE (14 : BitVec 5)) 6 50 * 64 + 32 * j)) (spadPa 0 1024 + 32 * j) 32
    Acc.read 0 = none) ∧ (descFault (rdBytes sE (spadPa 0 1024) 1088) = none)) ∧ (∀ (j : ℕ), Option.getD (coreAt sE
    (sE.cur / 16)).cmps[j]? ((0 : Word), (0 : Word)) = ((0 : Word), (0 : Word))) := by
  refine ⟨?_, ?_⟩
  · unfold Canonical MemOk Executing ReadyNow Local EngUsable; decide +kernel
  · exact no_cmps _ (by decide +kernel)

theorem witness_Array_3 :
  (Canonical sIdle) ∧ (Executing sIdle thE) ∧ (thE.acqOut = 0) ∧ (ReadyNow thE (src (15 : BitVec 5) (0 : BitVec 2))) ∧
    (ReadyNow thE (src (16 : BitVec 5) (0 : BitVec 2))) ∧ (Writable thE (BitVec.toNat (4 : BitVec 5))) ∧ (postedCount
    thE < 4) ∧ (fld (val thE (15 : BitVec 5)) 18 46 = 0) ∧ (fld (val thE (15 : BitVec 5)) 0 1 = 0) ∧ (EngUsable sIdle
    thE (fld (val thE (15 : BitVec 5)) 16 2)) ∧ (BitVec.toNat (val thE (16 : BitVec 5)) ≤ (eng sIdle (sIdle.cur / 64)
    (fld (val thE (15 : BitVec 5)) 16 2)).last) := by
  unfold Canonical MemOk Executing ReadyNow Writable EngUsable; decide +kernel

theorem witness_Array_4_0 :
  (Canonical sIdle) ∧ (Executing sIdle thE) ∧ (thE.acqOut = 0) ∧ (ReadyNow thE (src (15 : BitVec 5) (0 : BitVec 2))) ∧
    (fld (val thE (15 : BitVec 5)) 18 46 = 0) ∧ (fld (val thE (15 : BitVec 5)) 0 1 = 0) ∧ (EngUsable sIdle thE (fld
    (val thE (15 : BitVec 5)) 16 2)) ∧ ((eng sIdle (sIdle.cur / 64) (fld (val thE (15 : BitVec 5)) 16 2)).queue = [])
    ∧ (Writable thE (BitVec.toNat (4 : BitVec 5))) := by
  unfold Canonical MemOk Executing ReadyNow Writable EngUsable; decide +kernel

theorem witness_Array_4_1 :
  (Canonical sIdle) ∧ (Executing sIdle thE) ∧ (thE.acqOut = 0) ∧ (ReadyNow thE (src (15 : BitVec 5) (0 : BitVec 2))) ∧
    (fld (val thE (15 : BitVec 5)) 18 46 = 0) ∧ (fld (val thE (15 : BitVec 5)) 0 1 = 0) ∧ (EngUsable sIdle thE (fld
    (val thE (15 : BitVec 5)) 16 2)) ∧ ((eng sIdle (sIdle.cur / 64) (fld (val thE (15 : BitVec 5)) 16 2)).queue = [])
    ∧ (ReadyNow thE (src (9 : BitVec 5) (0 : BitVec 2))) ∧ (sIdle.cur / 64 < 768) := by
  unfold Canonical MemOk Executing ReadyNow EngUsable; decide +kernel

theorem witness_Array_5_0 :
  (Canonical sIdle) ∧ (Executing sIdle thE) ∧ (thE.acqOut = 0) ∧ (ReadyNow thE (src (15 : BitVec 5) (0 : BitVec 2))) ∧
    (Writable thE (BitVec.toNat (4 : BitVec 5))) ∧ (fld (val thE (15 : BitVec 5)) 2 2 = 0) ∧ (fld (val thE (15 :
    BitVec 5)) 8 56 = 0) ∧ (fld (val thE (15 : BitVec 5)) 4 4 = 0) := by
  unfold Canonical MemOk Executing ReadyNow Writable; decide +kernel

theorem witness_Array_5_1 :
  (Canonical sIdle) ∧ (Executing sIdle thE) ∧ (thE.acqOut = 0) ∧ (ReadyNow thE (src (17 : BitVec 5) (0 : BitVec 2))) ∧
    (Writable thE (BitVec.toNat (4 : BitVec 5))) ∧ (fld (val thE (17 : BitVec 5)) 2 2 = 0) ∧ (fld (val thE (17 :
    BitVec 5)) 8 56 = 0) ∧ (fld (val thE (17 : BitVec 5)) 4 4 = 7) := by
  unfold Canonical MemOk Executing ReadyNow Writable; decide +kernel

theorem witness_Array_5_2 :
  (Canonical sIdle) ∧ (Executing sIdle thE) ∧ (thE.acqOut = 0) ∧ (ReadyNow thE (src (18 : BitVec 5) (0 : BitVec 2))) ∧
    (Writable thE (BitVec.toNat (4 : BitVec 5))) ∧ (fld (val thE (18 : BitVec 5)) 2 2 = 0) ∧ (fld (val thE (18 :
    BitVec 5)) 8 56 = 0) ∧ ((eng sIdle (sIdle.cur / 64) (fld (val thE (18 : BitVec 5)) 0 2)).st ≠ EngState.free ∧ (eng
    sIdle (sIdle.cur / 64) (fld (val thE (18 : BitVec 5)) 0 2)).tid = thE.tid ∧ (eng sIdle (sIdle.cur / 64) (fld (val
    thE (18 : BitVec 5)) 0 2)).ctx = thE.ctx) ∧ (1 ≤ fld (val thE (18 : BitVec 5)) 4 4) ∧ (fld (val thE (18 : BitVec
    5)) 4 4 ≤ 6) := by
  unfold Canonical MemOk Executing ReadyNow Writable; decide +kernel

theorem witness_Array_5_3 :
  (Canonical sIdle) ∧ (Executing sIdle thE) ∧ (thE.acqOut = 0) ∧ (ReadyNow thE (src (19 : BitVec 5) (0 : BitVec 2))) ∧
    (Writable thE (BitVec.toNat (4 : BitVec 5))) ∧ (fld (val thE (19 : BitVec 5)) 2 2 = 0) ∧ (fld (val thE (19 :
    BitVec 5)) 8 56 = 0) ∧ ((eng sIdle (sIdle.cur / 64) (fld (val thE (19 : BitVec 5)) 0 2)).st ≠ EngState.free ∧ (eng
    sIdle (sIdle.cur / 64) (fld (val thE (19 : BitVec 5)) 0 2)).tid = thE.tid ∧ (eng sIdle (sIdle.cur / 64) (fld (val
    thE (19 : BitVec 5)) 0 2)).ctx = thE.ctx) ∧ (fld (val thE (19 : BitVec 5)) 4 4 = 8) ∧ ((eng sIdle (sIdle.cur / 64)
    (fld (val thE (19 : BitVec 5)) 0 2)).st = EngState.idle ∨ (eng sIdle (sIdle.cur / 64) (fld (val thE (19 : BitVec
    5)) 0 2)).st = EngState.faulted) ∧ ((eng sIdle (sIdle.cur / 64) (fld (val thE (19 : BitVec 5)) 0 2)).queue = []) := by
  unfold Canonical MemOk Executing ReadyNow Writable; decide +kernel

theorem witness_Array_5_4 :
  (Canonical sLeft) ∧ (Executing sLeft thE) ∧ (thE.acqOut = 0) ∧ (ReadyNow thE (src (19 : BitVec 5) (0 : BitVec 2))) ∧
    (Writable thE (BitVec.toNat (4 : BitVec 5))) ∧ (fld (val thE (19 : BitVec 5)) 2 2 = 0) ∧ (fld (val thE (19 :
    BitVec 5)) 8 56 = 0) ∧ (¬((eng sLeft (sLeft.cur / 64) (fld (val thE (19 : BitVec 5)) 0 2)).st ≠ EngState.free ∧
    (eng sLeft (sLeft.cur / 64) (fld (val thE (19 : BitVec 5)) 0 2)).tid = thE.tid ∧ (eng sLeft (sLeft.cur / 64) (fld
    (val thE (19 : BitVec 5)) 0 2)).ctx = thE.ctx)) ∧ (fld (val thE (19 : BitVec 5)) 4 4 = 8) ∧ (thE.tid ∈ (eng sLeft
    (sLeft.cur / 64) (fld (val thE (19 : BitVec 5)) 0 2)).leavers) := by
  unfold Canonical MemOk Executing ReadyNow Writable; decide +kernel

theorem witness_Array_5_5 :
  (Canonical sFault) ∧ (Executing sFault thE) ∧ (thE.acqOut = 0) ∧ (ReadyNow thE (src (13 : BitVec 5) (0 : BitVec 2)))
    ∧ (Writable thE (BitVec.toNat (4 : BitVec 5))) ∧ (fld (val thE (13 : BitVec 5)) 2 2 = 0) ∧ (fld (val thE (13 :
    BitVec 5)) 8 56 = 0) ∧ ((eng sFault (sFault.cur / 64) (fld (val thE (13 : BitVec 5)) 0 2)).st ≠ EngState.free ∧
    (eng sFault (sFault.cur / 64) (fld (val thE (13 : BitVec 5)) 0 2)).tid = thE.tid ∧ (eng sFault (sFault.cur / 64)
    (fld (val thE (13 : BitVec 5)) 0 2)).ctx = thE.ctx) ∧ (fld (val thE (13 : BitVec 5)) 4 4 = 9) ∧ ((eng sFault
    (sFault.cur / 64) (fld (val thE (13 : BitVec 5)) 0 2)).st = EngState.faulted) := by
  unfold Canonical MemOk Executing ReadyNow Writable; decide +kernel

theorem witness_Array_5_6 :
  (Canonical sIdle) ∧ (Executing sIdle thE) ∧ (thE.acqOut = 0) ∧ (ReadyNow thE (src (10 : BitVec 5) (0 : BitVec 2))) ∧
    (Writable thE (BitVec.toNat (4 : BitVec 5))) ∧ (fld (val thE (10 : BitVec 5)) 2 2 = 0) ∧ (fld (val thE (10 :
    BitVec 5)) 8 56 = 0) ∧ (fld (val thE (10 : BitVec 5)) 4 4 = 10) := by
  unfold Canonical MemOk Executing ReadyNow Writable; decide +kernel

theorem witness_Array_0_1_1 :
  ((Canonical sSt) ∧ (Executing sSt thT) ∧ (thT.acqOut = 0) ∧ (EngUsable sSt thT (BitVec.toNat rowSt.e)) ∧ (∀ r ∈
    rowSt.regs, ReadyNow thT (srcP r)) ∧ (Performed sSt thT) ∧ (rowSt.bad thT (claimed sSt thT (eng sSt (sSt.cur / 64)
    (BitVec.toNat rowSt.e))).regs = none) ∧ (List.length (eng sSt (sSt.cur / 64) (BitVec.toNat rowSt.e)).queue < 8) ∧
    (rowSt.tiled (claimed sSt thT (eng sSt (sSt.cur / 64) (BitVec.toNat rowSt.e))).regs = true) ∧ (findTile sSt
    thT.ctx (rowSt.a thT) = some (tHome, Tiles.tEnt)) ∧ (rowSt.conf (cellAt sSt (sSt.cur / 64)) (claimed sSt thT (eng
    sSt (sSt.cur / 64) (BitVec.toNat rowSt.e))).regs (some Tiles.tEnt) = none) ∧ (rowSt.staged = true → slotOfTile sSt
    (sSt.cur / 16) thT.ctx Tiles.tEnt.handle = some (0, TileSlot.mk TileSlotState.empty false 0 (0 : BitVec 32) false
    false false 0 0 (0 : Word) (0 : Word) 0 false false 0 false false []) ∧ TileSlotState.empty = TileSlotState.ready
    ∧ false = false)) ∧ (arrRow (Instr.accst (9 : BitVec 5) (19 : BitVec 5) (0 : BitVec 2)) = some rowSt) := by
  refine ⟨?_, ?_⟩
  · unfold Canonical MemOk Executing ReadyNow EngUsable Performed; decide +kernel
  · rfl

theorem witness_ArrayWork_0 :
  (Canonical sTb) ∧ (Executing sTb thTb) ∧ (thTb.acqOut = 0) ∧ (ReadyNow thTb (src (9 : BitVec 5) (0 : BitVec 2))) ∧
    (ReadyNow thTb (src (10 : BitVec 5) (0 : BitVec 2))) ∧ (findTile sTb thTb.ctx (val thTb (9 : BitVec 5)) = some
    (tHome, tOwned)) ∧ (tOwned.ctx = thTb.ctx) ∧ (fld (val thTb (9 : BitVec 5)) 0 32 = BitVec.toNat tOwned.handle) ∧
    (tileDescOf sTb 1 1 = tileDescOf sTb tOwned.ctx (BitVec.toNat tOwned.handle % 2 ^ 20)) ∧ (fld (val thTb (10 :
    BitVec 5)) 20 44 = 0) ∧ (fld (val thTb (10 : BitVec 5)) 0 20 % 32 = 0) ∧ (fld (val thTb (10 : BitVec 5)) 0 20 +
    tOwned.span ≤ 1048576) ∧ (tagFormat tOwned.tag = 9) ∧ (tagSparsity tOwned.tag = 0) ∧ (tagLayout tOwned.tag = 0) ∧
    (TileDesc.rows (tileDescOf sTb 1 1) % 32 = 0) ∧ (TileDesc.cols (tileDescOf sTb 1 1) % 16 = 0) ∧ (slotOfTile sTb
    (sTb.cur / 16) thTb.ctx tOwned.handle = some (2, slotOf TileSlotState.ready true false)) ∧ ((slotOf
    TileSlotState.ready true false).st = TileSlotState.ready) ∧ ((slotOf TileSlotState.ready true false).refused =
    false) ∧ (sTb.cur / 64 < 768) := by
  unfold Canonical MemOk Executing ReadyNow; decide +kernel

theorem witness_ArrayWork_1_0 :
  ((Canonical sZ) ∧ (sZ.now = none) ∧ (0 < 768) ∧ (0 < 4) ∧ ((cellAt sZ 0).arrFenced = false) ∧ ((cellAt sZ 0).rot =
    0) ∧ ((eng sZ 0 0).queue = [cmdZ 1]) ∧ ((cmdZ 1).finished = false) ∧ ((cmdZ 1).tile = none) ∧ ((cmdZ 1).step = 0)
    ∧ (fld (cmdZ 1).b 0 8 ≤ 240) ∧ (fld (cmdZ 1).b 8 8 ≤ 240) ∧ ((cmdZ 1).op = ArrOp.acczero)) ∧ (∀ (n : ℕ), (cellAt
    sZ 0).owner = some n → engRuns sZ n = true) := by
  refine ⟨?_, ?_⟩
  · unfold Canonical MemOk; decide +kernel
  · intro n h; exact runs_of _ _ (by decide +kernel) n h

theorem witness_ArrayWork_1_1 :
  ((Canonical sM) ∧ (sM.now = none) ∧ (0 < 768) ∧ (0 < 4) ∧ ((cellAt sM 0).arrFenced = false) ∧ ((cellAt sM 0).rot =
    0) ∧ ((eng sM 0 0).queue = [cmdM]) ∧ (cmdM.finished = false) ∧ (cmdM.tile = none) ∧ (cmdM.step = 0) ∧ (fld cmdM.b
    0 8 ≤ 240) ∧ (fld cmdM.b 8 8 ≤ 240) ∧ (cmdM.op = ArrOp.mma) ∧ (afmtOf cmdM.regs = 9) ∧ (bfmtOf cmdM.regs = 9) ∧
    (asmOf cmdM.regs = 0) ∧ (bsmOf cmdM.regs = 0) ∧ (akindOf cmdM.regs = 0) ∧ (ssrcOf cmdM.regs = 0) ∧ (kstepsOf
    cmdM.regs = 1) ∧ (dmaskOf cmdM.regs = 65535) ∧ (cmdM.core < 3072) ∧ (∀ i < 16, stagedCheck sM cmdM.core
    (BitVec.toNat cmdM.a + 32 * i) 32 Acc.read = Staged.clear)) ∧ (∀ (n : ℕ), (cellAt sM 0).owner = some n → engRuns
    sM n = true) := by
  refine ⟨?_, ?_⟩
  · unfold Canonical MemOk; decide +kernel
  · intro n h; exact runs_of _ _ (by decide +kernel) n h

theorem witness_ArrayWork_2 :
  (Canonical sDone) ∧ (sDone.now = none) ∧ (0 < 4) ∧ ((eng sDone 0 0).queue = [cmdDone]) ∧ (cmdDone.finished = true) ∧
    (∀ (r : ArrCmd), List.head? [] = some r → r.finished = false) := by
  unfold Canonical MemOk; decide +kernel

theorem witness_ArrayWork_3_0 :
  ((Canonical sB) ∧ (HeldIn sB 0 thB) ∧ (1 < 4) ∧ (thB.form = Form.inFlight WaitFor.unit) ∧ ((cellAt sB 0).mtabld =
    [(1, bank0, nameAt 0 thB)])) ∧ (∀ (e : ℕ) (q : ArrCmd), e < 4 → q ∈ (eng sB 0 e).queue → namesBank 1 q = false) := by
  refine ⟨?_, ?_⟩
  · unfold Canonical MemOk HeldIn; decide +kernel
  · exact no_queues _ _ (by decide +kernel) _

theorem witness_ArrayWork_3_1 :
  (Canonical sBq) ∧ (HeldIn sBq 0 thB) ∧ (1 < 4) ∧ (thB.form = Form.inFlight WaitFor.unit) ∧ ((cellAt sBq 0).mtabld =
    [(1, bank0, nameAt 0 thB)]) ∧ (0 < 4) ∧ (cmdT ∈ (eng sBq 0 0).queue) ∧ (namesBank 1 cmdT = true) := by
  unfold Canonical MemOk HeldIn; decide +kernel

theorem witness_Copy_0_0 :
  ((Canonical sX) ∧ (Executing sX thX) ∧ (thX.acqOut = 0) ∧ (CopyMine sX thX (BitVec.toNat (0 : BitVec 2))) ∧
    (ReadyNow thX (srcP (11 : BitVec 5))) ∧ (ReadyNow thX (srcP (14 : BitVec 5))) ∧ (Performed sX thX) ∧ ((copyOf sX
    (sX.cur / 16) (BitVec.toNat (0 : BitVec 2))).st ≠ EngState.faulted) ∧ (CopyInRule sX false (copyClaimed sX thX
    (copyOf sX (sX.cur / 16) (BitVec.toNat (0 : BitVec 2)))).regs (val thX (11 : BitVec 5)) (val thX (14 : BitVec 5))
    0) ∧ (copyLoad sX (sX.cur / 16) < 64)) ∧ (SpanOf sX thX (copyClaimed sX thX (copyOf sX (sX.cur / 16) (BitVec.toNat
    (0 : BitVec 2)))).regs (val thX (14 : BitVec 5)) 0) := by
  refine ⟨?_, ?_⟩
  · unfold Canonical MemOk Executing ReadyNow Performed CopyMine CopyInRule; decide +kernel
  · exact Or.inl ⟨by decide +kernel, rfl⟩

theorem witness_Copy_0_1 :
  ((Canonical sXfull) ∧ (Executing sXfull thX) ∧ (thX.acqOut = 0) ∧ (CopyMine sXfull thX (BitVec.toNat (0 : BitVec
    2))) ∧ (ReadyNow thX (srcP (11 : BitVec 5))) ∧ (ReadyNow thX (srcP (14 : BitVec 5))) ∧ (Performed sXfull thX) ∧
    ((copyOf sXfull (sXfull.cur / 16) (BitVec.toNat (0 : BitVec 2))).st ≠ EngState.faulted) ∧ (CopyInRule sXfull false
    (copyClaimed sXfull thX (copyOf sXfull (sXfull.cur / 16) (BitVec.toNat (0 : BitVec 2)))).regs (val thX (11 :
    BitVec 5)) (val thX (14 : BitVec 5)) 0) ∧ (64 ≤ copyLoad sXfull (sXfull.cur / 16)) ∧ (NoWake sXfull thX)) ∧
    (SpanOf sXfull thX (copyClaimed sXfull thX (copyOf sXfull (sXfull.cur / 16) (BitVec.toNat (0 : BitVec 2)))).regs
    (val thX (14 : BitVec 5)) 0) := by
  refine ⟨?_, ?_⟩
  · unfold Canonical MemOk Executing ReadyNow Performed CopyMine NoWake CopyInRule; decide +kernel
  · exact Or.inl ⟨by decide +kernel, rfl⟩

theorem witness_Copy_1 :
  (Canonical sX) ∧ (Executing sX thX) ∧ (thX.acqOut = 0) ∧ (CopyMine sX thX (BitVec.toNat (0 : BitVec 2))) ∧ (ReadyNow
    thX (srcP (9 : BitVec 5))) := by
  unfold Canonical MemOk Executing ReadyNow CopyMine; decide +kernel

theorem witness_Copy_2_0 :
  (Canonical sX) ∧ (Executing sX thX) ∧ (thX.acqOut = 0) ∧ ((copyOf sX (sX.cur / 16) (BitVec.toNat (1 : BitVec 2))).st
    = EngState.free) := by
  unfold Canonical MemOk Executing; decide +kernel

theorem witness_Copy_2_1 :
  (Canonical sX) ∧ (Executing sX thX) ∧ (thX.acqOut = 0) ∧ ((copyOf sX (sX.cur / 16) (BitVec.toNat (0 : BitVec 2))).st
    ≠ EngState.free) ∧ ((copyOf sX (sX.cur / 16) (BitVec.toNat (0 : BitVec 2))).st ≠ EngState.releasing) ∧ ((copyOf sX
    (sX.cur / 16) (BitVec.toNat (0 : BitVec 2))).tid = thX.tid) ∧ ((copyOf sX (sX.cur / 16) (BitVec.toNat (0 : BitVec
    2))).ctx = thX.ctx) ∧ ((copyOf sX (sX.cur / 16) (BitVec.toNat (0 : BitVec 2))).queue = []) := by
  unfold Canonical MemOk Executing; decide +kernel

theorem witness_Copy_2_2 :
  (Canonical sXq2) ∧ (Executing sXq2 thX) ∧ (thX.acqOut = 0) ∧ ((copyOf sXq2 (sXq2.cur / 16) (BitVec.toNat (0 : BitVec
    2))).st ≠ EngState.free) ∧ ((copyOf sXq2 (sXq2.cur / 16) (BitVec.toNat (0 : BitVec 2))).st ≠ EngState.releasing) ∧
    ((copyOf sXq2 (sXq2.cur / 16) (BitVec.toNat (0 : BitVec 2))).tid = thX.tid) ∧ ((copyOf sXq2 (sXq2.cur / 16)
    (BitVec.toNat (0 : BitVec 2))).ctx = thX.ctx) ∧ ((copyOf sXq2 (sXq2.cur / 16) (BitVec.toNat (0 : BitVec 2))).queue
    = [cmdX, cmdX2]) ∧ (cmdX.next = 0) ∧ (cmdX.pins = []) ∧ (cmdX.finished = false) ∧ (∀ y ∈ [cmdX2], y.finished =
    false) := by
  unfold Canonical MemOk Executing; decide +kernel

theorem witness_Copy_2_3 :
  (Canonical sXo) ∧ (Executing sXo thX) ∧ (thX.acqOut = 0) ∧ ((copyOf sXo (sXo.cur / 16) (BitVec.toNat (0 : BitVec
    2))).st ≠ EngState.free) ∧ ((copyOf sXo (sXo.cur / 16) (BitVec.toNat (0 : BitVec 2))).tid ≠ thX.tid) := by
  unfold Canonical MemOk Executing; decide +kernel

theorem witness_Copy_3_0 :
  (Canonical sX) ∧ (Executing sX thX) ∧ (thX.acqOut = 0) ∧ (ReadyNow thX (src (15 : BitVec 5) (0 : BitVec 2))) ∧
    (Writable thX (BitVec.toNat (4 : BitVec 5))) ∧ (BitVec.toNat (val thX (15 : BitVec 5)) < 8) ∧ (val thX (15 :
    BitVec 5) = (0 : Word)) := by
  unfold Canonical MemOk Executing ReadyNow Writable; decide +kernel

theorem witness_Copy_3_1 :
  (Canonical sX) ∧ (Executing sX thX) ∧ (thX.acqOut = 0) ∧ (ReadyNow thX (src (15 : BitVec 5) (0 : BitVec 2))) ∧
    (ReadyNow thX (src (16 : BitVec 5) (0 : BitVec 2))) ∧ (Writable thX (BitVec.toNat (4 : BitVec 5))) ∧ (BitVec.toNat
    (val thX (15 : BitVec 5)) < 8) ∧ (val thX (16 : BitVec 5) = (1 : Word)) := by
  unfold Canonical MemOk Executing ReadyNow Writable; decide +kernel

theorem witness_Copy_3_2 :
  (Canonical sX) ∧ (Executing sX thX) ∧ (thX.acqOut = 0) ∧ (ReadyNow thX (src (15 : BitVec 5) (0 : BitVec 2))) ∧
    (ReadyNow thX (src (17 : BitVec 5) (0 : BitVec 2))) ∧ (Writable thX (BitVec.toNat (4 : BitVec 5))) ∧ (BitVec.toNat
    (val thX (15 : BitVec 5)) < 8) ∧ (val thX (17 : BitVec 5) = (2 : Word)) := by
  unfold Canonical MemOk Executing ReadyNow Writable; decide +kernel

theorem witness_Copy_3_3 :
  (Canonical sX) ∧ (Executing sX thX) ∧ (thX.acqOut = 0) ∧ (ReadyNow thX (src (15 : BitVec 5) (0 : BitVec 2))) ∧
    (ReadyNow thX (src (20 : BitVec 5) (0 : BitVec 2))) ∧ (Writable thX (BitVec.toNat (4 : BitVec 5))) ∧ (BitVec.toNat
    (val thX (15 : BitVec 5)) < 8) ∧ (val thX (20 : BitVec 5) = (3 : Word)) ∧ (BitVec.toNat (val thX (15 : BitVec 5))
    < 4) := by
  unfold Canonical MemOk Executing ReadyNow Writable; decide +kernel

theorem witness_Copy_3_4 :
  (Canonical sX) ∧ (Executing sX thX) ∧ (thX.acqOut = 0) ∧ (ReadyNow thX (src (15 : BitVec 5) (0 : BitVec 2))) ∧
    (ReadyNow thX (src (18 : BitVec 5) (0 : BitVec 2))) ∧ (Writable thX (BitVec.toNat (4 : BitVec 5))) ∧ (BitVec.toNat
    (val thX (15 : BitVec 5)) < 8) ∧ (4 ≤ BitVec.toNat (val thX (18 : BitVec 5))) := by
  unfold Canonical MemOk Executing ReadyNow Writable; decide +kernel

theorem witness_Copy_4_0 :
  (Canonical sX) ∧ (Executing sX thX) ∧ (thX.acqOut = 0) ∧ (ReadyNow thX (src (15 : BitVec 5) (0 : BitVec 2))) ∧
    (ReadyNow thX (src (18 : BitVec 5) (0 : BitVec 2))) ∧ (BitVec.toNat (val thX (15 : BitVec 5)) < 8) ∧ ((timelineAt
    sX (sX.cur / 16) (BitVec.toNat (val thX (15 : BitVec 5)))).last < BitVec.toNat (val thX (18 : BitVec 5))) := by
  unfold Canonical MemOk Executing ReadyNow; decide +kernel

theorem witness_Copy_4_1 :
  (Canonical sXl) ∧ (Executing sXl thX) ∧ (thX.acqOut = 0) ∧ (ReadyNow thX (src (15 : BitVec 5) (0 : BitVec 2))) ∧
    (ReadyNow thX (src (17 : BitVec 5) (0 : BitVec 2))) ∧ (BitVec.toNat (val thX (15 : BitVec 5)) < 8) ∧ (BitVec.toNat
    (val thX (17 : BitVec 5)) ≤ (timelineAt sXl (sXl.cur / 16) (BitVec.toNat (val thX (15 : BitVec 5)))).last) ∧
    (BitVec.toNat (val thX (17 : BitVec 5)) ≤ (timelineAt sXl (sXl.cur / 16) (BitVec.toNat (val thX (15 : BitVec
    5)))).line) := by
  unfold Canonical MemOk Executing ReadyNow; decide +kernel

theorem witness_Copy_4_2 :
  (Canonical sXl) ∧ (Executing sXl thX) ∧ (thX.acqOut = 0) ∧ (ReadyNow thX (src (15 : BitVec 5) (0 : BitVec 2))) ∧
    (ReadyNow thX (src (19 : BitVec 5) (0 : BitVec 2))) ∧ (BitVec.toNat (val thX (15 : BitVec 5)) < 8) ∧ (BitVec.toNat
    (val thX (19 : BitVec 5)) ≤ (timelineAt sXl (sXl.cur / 16) (BitVec.toNat (val thX (15 : BitVec 5)))).last) ∧
    ((timelineAt sXl (sXl.cur / 16) (BitVec.toNat (val thX (15 : BitVec 5)))).line < BitVec.toNat (val thX (19 :
    BitVec 5))) ∧ (NoWake sXl thX) := by
  unfold Canonical MemOk Executing ReadyNow NoWake; decide +kernel

theorem witness_CopyWork_0 :
  ((Canonical sXq) ∧ (sXq.now = none) ∧ (0 < 768) ∧ (0 < 16) ∧ ((cellAt sXq 0).copyFenced = false) ∧ ((cellAt sXq
    0).copyRot = 0) ∧ (List.head? (copyOf sXq (4 * 0 + (0 / 4 : ℕ)) (0 % 4)).queue = some cmdX) ∧ (cmdX.finished =
    false) ∧ (cmdX.fill = false) ∧ (xCvt cmdX.regs = false) ∧ (xSkind cmdX.regs = 0) ∧ (xDkind cmdX.regs = 0) ∧ (1 ≤
    xEsize cmdX.regs) ∧ (xEsize cmdX.regs ≤ 4) ∧ (check sXq (4 * 0 + (0 / 4 : ℕ)) cmdX.th.ctx (BitVec.toNat cmdX.priv)
    (xAddr cmdX.src (xOffset cmdX.regs 12 (2 * 2 ^ (xEsize cmdX.regs - 1)) cmdX.next).1) (2 ^ (xEsize cmdX.regs - 1))
    Acc.read true = Chk.ok (spadPa 0 64)) ∧ (check sXq (4 * 0 + (0 / 4 : ℕ)) cmdX.th.ctx (BitVec.toNat cmdX.priv)
    (xAddr cmdX.dst (xOffset cmdX.regs 24 (2 * 2 ^ (xEsize cmdX.regs - 1)) cmdX.next).1) (2 ^ (xEsize cmdX.regs - 1))
    Acc.write true = Chk.ok (spadPa 0 2048)) ∧ (isSpad (spadPa 0 64) = true) ∧ (isSpad (spadPa 0 2048) = true) ∧
    (region (xAddr cmdX.src (xOffset cmdX.regs 12 (2 * 2 ^ (xEsize cmdX.regs - 1)) cmdX.next).1) ≠ Region.paged) ∧
    (region (xAddr cmdX.dst (xOffset cmdX.regs 24 (2 * 2 ^ (xEsize cmdX.regs - 1)) cmdX.next).1) ≠ Region.paged) ∧
    (stagedSlot sXq (spadCore (spadPa 0 64)) ((spadPa 0 64 - spadBase) % spadSize) (2 ^ (xEsize cmdX.regs - 1)) =
    none) ∧ (stagedSlot sXq (spadCore (spadPa 0 2048)) ((spadPa 0 2048 - spadBase) % spadSize) (2 ^ (xEsize cmdX.regs
    - 1)) = none) ∧ (fld (cellAt sXq (spadCore (spadPa 0 64) / 4)).test 8 1 = 0) ∧ (fld (cellAt sXq (spadCore (spadPa
    0 2048) / 4)).test 8 1 = 0) ∧ (xlatFind sXq (BitVec.toNat (xAddr cmdX.dst (xOffset cmdX.regs 24 (2 * 2 ^ (xEsize
    cmdX.regs - 1)) cmdX.next).1)) = none)) ∧ (∀ (n : ℕ), (cellAt sXq 0).owner = some n → engRuns sXq n = true) := by
  refine ⟨?_, ?_⟩
  · unfold Canonical MemOk; decide +kernel
  · intro n h; exact runs_of _ _ (by decide +kernel) n h

theorem witness_CopyWork_1 :
  (Canonical sXd) ∧ (sXd.now = none) ∧ (0 < 4) ∧ ((copyOf sXd 0 0).queue = [cmdXd]) ∧ (cmdXd.finished = true) ∧ (xBar
    cmdXd.regs = false) ∧ (cmdXd.pins = []) ∧ ((cellAt sXd (0 / 4 : ℕ)).copyFenced = false) ∧ (∀ x ∈ sXd.dir, ∀ i ∈
    x.2.invs, i.writer ≠ some cmdXd.th) := by
  unfold Canonical MemOk; decide +kernel

end Sys2Proof.Tests.Engines
end

