-- ==== Sys2Proof/Tests/Events.lean ====
section
/-!
SUPPORT. Witnesses: machines that meet the hypotheses of the statements on faults, kernels, contexts, links, the host, debugging, hardware faults and the step.
-/
namespace Sys2Proof.Tests.Events

open Sys2Proof Sys2Proof.Machine Sys2Proof.Safety Sys2Proof.Tests
open Sys2Proof.Tests.Shared (th0 s0 base m0)

set_option Elab.async false
set_option maxRecDepth 8000
set_option synthInstance.maxSize 1024

def bE : State := m0 b0
def withSt (st : CtxState) : State := setCtx bE 1 { c1 with st := st }
def withCmd (st : CtxState) (n : Nat) : State := setCtx bE 1 { c1 with st := st, cmds := [n] }
def killG (st : CtxState) (g : Nat) : State := setCtx bE 1 { c1 with st := st, gstep := g }
def sKp : State := setCtx bE 1 { c1 with st := .stopping, killPending := true }
def sTo : State := { killG .stopping 1 with time8 := 9000000 }
def sSw : State := mem [(0x104E8, 50)] bE
def stuckAt (st : LinkState) : State := setLink b0 1 { linkAt b0 1 with st := st, flit := some ⟨3, 9, 100⟩ }
def sShut : State := setLink bE 0 { linkAt bE 0 with st := .fenced }
def linked (st : LinkState) : State := setLink bE 1 { linkAt bE 1 with st := st, active := 4 }
def rings (s : State) : State := { s with host := { s.host with cmdring := 0x50004, stktab := 0x60000 } }
def sRing : State := mem [(0x60008, BitVec.ofNat 64 (8 + 2 * 2 ^ 32))] (rings bE)
def ev1 : HostEvent := ⟨1, 1, true, 0x6000, 0⟩
def sAwait : State := { sRing with host := { sRing.host with awaiting := [(3, ev1)] } }
def sGang : State := rings (killG .stopping 1)
def sPost : State :=
  let s := setLink bE 0 { linkAt bE 0 with st := .up }
  { s with host := { s.host with waiting := [ev1], evring := 0x70004 } }
def sPois : State := { bE with poison := [0x5000 / 8] }
def sHost : State := setDir bE (0x5000 / 64 * 2) { dirAt bE (0x5000 / 64 * 2) with host := true }
def sHostB : State := { sHost with booted := false }
/-- The host has been asked for its data only. -/
def readAsked (s : State) : State := setDir s (0x5000 / 64 * 2) { dirAt s (0x5000 / 64 * 2) with reading := true }
def inb (n : Nat) : State := { bE with inbound := bE.inbound.put 0 3 n }
def sRd : State := inb 1
def sWr : State := inb 2

def tr0 : Trap := { cause := .illinst, info := 1, addr := 0, restart := 0x1000, word := 7 }
def hd (ctx : Nat) (machine : Bool) : Handler := ⟨ctx, 0, machine, 0x2000, 0x9000, 64, 0xA000, 5, 0x1000, 1, 2, 0, false⟩
def withForm (f : Form) : State := m0 { (run { th0 with form := f }) with cur := 0 }
def formed (f : Form) : Thread := { th0 with form := f }
def ce : CtxEvent := ⟨.illinst, 1, 2, 0⟩
def filled : State := (List.range 16).foldl (fun s i => setThread s i th0) bE
def sTest : State := setCell bE 3 { cellAt bE 3 with test := 0x101 }
def sText : State :=
  let s := run { th0 with noCmp := true }
  setCore s 0 { coreAt s 0 with itext := [(itextKey 0x1000 (privOf th0), [0x10000000, 0, 0, 0, 0, 0, 0, 0])] }
def fCold : Flight := ⟨.coldReset, none⟩
def sNow : State := { bE with sched := [.tick] }
def sDel : State := { bE with sched := [.deliver 0], agenda := [fCold] }
def sHeldRetry : State := withForm (.inFlight .retry)
def kern (st : KernelState) : State := setCtx bE 1 { c1 with kernel := { c1.kernel with st := st } }
def pk0 : Park := ⟨true, .reg 9, false⟩
def noId : BootImage := ⟨[], [], [], 0, 0, 0, 0, 0, 0, 0, 0, 0, 0⟩
def recq : State := setCtx bE 1 { c1 with trace := { c1.trace with queues := c1.trace.queues.put [] 0 [[1, 2, 3, 4]] } }
def thPend : Thread := { setReg 9 { st := .pending, val := 4 } th0 with form := .ready }
def sPend : State := m0 (run thPend)
def thNot : Thread := { thPend with form := .trapping tr0 }
def sNot : State := m0 (run thNot)
def thRec : Thread := { th0 with form := .stopped (some pk0) false }
def sRec : State := mem [(spadPa 0 0x3C0E8, th0.pc.zeroExtend 64)] (m0 (run thRec))
def noTids : State := mem [(0x10418, BitVec.ofNat 64 (10 + 2 ^ 42))] (setCtx bE 1 { c1 with freeTids := [] })
def sHeld : State := { bE with held := [⟨.handlerStart (hd 1 false), none⟩] }
def thUsr : Thread := { th0 with status := 0 }
def sUsr : State := m0 (run thUsr)
def sBusy : State := setThread sTo 0 (formed (.inFlight .retry))
def sIss : State := { sText with sched := [.core 0], cycle := 100 }
def uIss : State := { sIss with sched := [] }
def thIss : Thread := { th0 with noCmp := true }
def uDel : State := { sDel with sched := [] }
/-- The same with an ordered message, and a thread that owes a fault. -/
def fOrd : Flight := { fCold with chan := some (1, 2) }
def sDelO : State := { sDel with agenda := [fOrd] }
def uDelO : State := { sDelO with sched := [] }
def thOwe : Thread := { thIss with owed := some tr0 }
def sOwe : State := setThread sIss 0 thOwe
def uOwe : State := { sOwe with sched := [] }
def uNow : State := { sNow with sched := [] }
def tNow : State := match step sNow with | .next t => t | _ => sNow

/-- The two cache lines of a host line. -/
theorem two_lines (n : Nat) (P : Nat → Prop) (h : P (n * 2) ∧ P (n * 2 + 1)) : ∀ l, l = n * 2 ∨ l = n * 2 + 1 → P l := by
  rintro l (rfl | rfl)
  · exact h.1
  · exact h.2

/-- The command processor's entry, checked by evaluation. -/
theorem at_entry (s : State) (e : Nat)
    (h : let log := fld s.host.cmdring 0 5
      let base := fld s.host.cmdring 12 27 * 4096
      4 ≤ log ∧ log ≤ 12 ∧ e = base + 32 * (s.host.cmdnext % 2 ^ log) ∧ base + 32 * 2 ^ log ≤ dramTop ∧ e + 32 ≤ dramTop ∧
      (∀ i, i < 32 → (dirAt s ((e + i) / 32)).uop = none) ∧
      fld (rd64 s (base + 32 * ((s.host.cmdnext + 1) % 2 ^ log))) 8 1 = 0)
    (ho : ownOk s = true) : AtEntry s e :=
  ⟨h.1, h.2.1, h.2.2.1, h.2.2.2.1, device_of s e 32 ⟨h.2.2.2.2.1, h.2.2.2.2.2.1⟩ ho, h.2.2.2.2.2.2⟩

/-- A line the host may take, checked by evaluation. -/
theorem host_line (s : State) (pa : Nat) (ho : ownOk s = true)
    (h : (tileAt s (sliceOfPa pa) (pa / 64 * 2) = none ∧ (dirAt s (pa / 64 * 2)).uop = none) ∧
      tileAt s (sliceOfPa pa) (pa / 64 * 2 + 1) = none ∧ (dirAt s (pa / 64 * 2 + 1)).uop = none) : HostLineFree s pa :=
  ⟨own_of s ho, two_lines (pa / 64) _ h⟩

/-- A peer's access within one line and one word, checked by evaluation. -/
theorem one_line (s : State) (pa n : Nat) (hn : pa % 32 + n ≤ 32)
    (h : tileAt s (sliceOfPa (pa / 32 * 32)) (pa / 32) = none ∧ (dirAt s (pa / 32)).uop = none ∧ (dirAt s (pa / 32)).host = false)
    (ho : ownOk s = true) : ∀ l, pa < l * 32 + 32 → l * 32 < pa + n → PlainLine s (sliceOfPa (l * 32)) l := by
  intro l h1 h2
  obtain rfl : l = pa / 32 := by omega
  exact plain_of s _ _ h ho

theorem one_word (s : State) (pa n : Nat) (hn : pa % 8 + n ≤ 8) (h : pa / 8 ∉ s.poison) :
    ∀ w, pa < w * 8 + 8 → w * 8 < pa + n → w ∉ s.poison := by
  intro w h1 h2
  obtain rfl : w = pa / 8 := by omega
  exact h

/-- No cut route keeps a device's write from its home, checked by evaluation. -/
theorem not_barred (s : State) (dev pa : Nat) (P : Prop)
    (h : (peerPorts s dev).head?.all (fun p => !routeFenced s (ioUnit (ioOfLink (9 + p))) (homeUnit (sliceOfPa pa))) = true) :
    ¬ (P ∧ ∃ port, (peerPorts s dev).head? = some port ∧
      routeFenced s (ioUnit (ioOfLink (9 + port))) (homeUnit (sliceOfPa pa)) = true) := by
  rintro ⟨_, port, hp, hc⟩
  rw [hp] at h
  simp [hc] at h

/-- A device without threads, and one whose contexts hold no event back. -/
theorem none_pinned (s : State) (h : s.slots = []) : ∀ p tid n bs, (slotAt s p).occ ≠ .forPinned tid n bs := by
  intro p tid n bs
  unfold slotAt
  rw [h]
  exact Occupant.noConfusion

theorem no_threads (s : State) (h : s.slots = []) (P : Nat → Thread → Prop) : ∀ p th, threadAt s p = some th → P p th := by
  intro p th hp
  unfold threadAt slotAt at hp
  rw [h] at hp
  cases hp

theorem no_events (s : State) (n : Nat) (h : s.ctxs = [(n, ctxAt s n)]) (he : (ctxAt s n).evwait = []) :
    ∀ m, (ctxAt s m).st = .resident → (ctxAt s m).evwait = [] := by
  intro m _
  by_cases hm : n = m
  · rw [← hm]; exact he
  · have hg : ctxAt s m = Tab.get {} s.ctxs m := rfl
    rw [hg, h]
    simp [Tab.get, hm]

theorem witness_Flt_0 :
  (Canonical s0) ∧ (HeldIn s0 s0.cur th0) := by
  unfold Canonical MemOk HeldIn; decide +kernel

theorem witness_Flt_1_0 :
  (Canonical sNot) ∧ (HeldIn sNot 0 thNot) ∧ (thNot.form = Form.trapping tr0) ∧ (drained sNot 0 thNot = false) := by
  unfold Canonical MemOk HeldIn; decide +kernel

theorem witness_Flt_2_0 :
  (Canonical bE) ∧ (bE.now = none) ∧ ((ctxAt bE (hd 1 false).ctx).st = CtxState.resident) ∧ ((hd 1 false).again =
    false) ∧ ((coreAt bE (hd 1 false).core).hwait = []) ∧ (∀ f ∈ bE.agenda ++ bE.held, f.chan ≠ some (handlerChan (hd
    1 false).core)) ∧ (firstTid bE (hd 1 false).ctx = some 7) ∧ (vacantIn bE (hd 1 false).core = 0 :: List.map (fun (x
    : ℕ) => x + 1) (List.range 15)) ∧ ((coreAt bE (hd 1 false).core).fenced = false) ∧ ((cellAt bE ((hd 1 false).core
    / 4)).fenced = false) := by
  unfold Canonical MemOk; decide +kernel

theorem witness_Flt_2_1 :
  (Canonical filled) ∧ (filled.now = none) ∧ ((ctxAt filled (hd 1 false).ctx).st = CtxState.resident) ∧ ((hd 1
    false).again = false) ∧ ((coreAt filled (hd 1 false).core).hwait = []) ∧ (∀ f ∈ filled.agenda ++ filled.held,
    f.chan ≠ some (handlerChan (hd 1 false).core)) ∧ (firstTid filled (hd 1 false).ctx = some 7) ∧ (vacantIn filled
    (hd 1 false).core = []) ∧ ((hd 1 false).machine = false) := by
  unfold Canonical MemOk; decide +kernel

theorem witness_Flt_2_2 :
  (Canonical filled) ∧ (filled.now = none) ∧ ((ctxAt filled (hd 1 true).ctx).st = CtxState.resident) ∧ ((hd 1
    true).again = false) ∧ ((coreAt filled (hd 1 true).core).hwait = []) ∧ (∀ f ∈ filled.agenda ++ filled.held, f.chan
    ≠ some (handlerChan (hd 1 true).core)) ∧ (firstTid filled (hd 1 true).ctx = some 7) ∧ (vacantIn filled (hd 1
    true).core = []) ∧ ((hd 1 true).machine = true) := by
  unfold Canonical MemOk; decide +kernel

theorem witness_Flt_2_3 :
  (Canonical noTids) ∧ (noTids.now = none) ∧ ((ctxAt noTids (hd 1 true).ctx).st = CtxState.resident) ∧ ((hd 1
    true).again = false) ∧ ((coreAt noTids (hd 1 true).core).hwait = []) ∧ (∀ f ∈ noTids.agenda ++ noTids.held, f.chan
    ≠ some (handlerChan (hd 1 true).core)) ∧ (firstTid noTids (hd 1 true).ctx = none) ∧ ((hd 1 true).wait = 0) := by
  unfold Canonical MemOk; decide +kernel

theorem witness_Flt_3_0 :
  ((Canonical bE) ∧ (bE.now = none)) ∧ (∀ f ∈ bE.agenda ++ bE.held, f.ev ≠ Event.handlerStart (hd 1 false)) := by
  refine ⟨?_, ?_⟩
  · unfold Canonical MemOk; decide +kernel
  · exact none_in _ _ (by decide +kernel)

theorem witness_Flt_3_1 :
  ((Canonical sHeld) ∧ (sHeld.now = none)) ∧ (∃ f ∈ sHeld.agenda ++ sHeld.held, f.ev = Event.handlerStart (hd 1
    false)) := by
  refine ⟨?_, ?_⟩
  · unfold Canonical MemOk; decide +kernel
  · exact ⟨⟨.handlerStart (hd 1 false), none⟩, by decide +kernel, rfl⟩

theorem witness_Flt_4_0 :
  (Canonical bE) ∧ (bE.now = none) ∧ ((ctxAt bE 2).st = CtxState.free ∨ (ctxAt bE 2).st = CtxState.created ∨ (ctxAt bE
    2).st = CtxState.killing) := by
  unfold Canonical MemOk; decide +kernel

theorem witness_Flt_4_1 :
  (Canonical (withSt CtxState.saved)) ∧ ((withSt CtxState.saved).now = none) ∧ ((ctxAt (withSt CtxState.saved) 1).st =
    CtxState.saved) := by
  unfold Canonical MemOk; decide +kernel

theorem witness_Flt_5_0 :
  (Canonical sUsr) ∧ (Executing sUsr thUsr) ∧ (thUsr.acqOut = 0) ∧ (ReadyNow thUsr (src (9 : BitVec 5) (0 : BitVec
    2))) ∧ (ReadyNow thUsr (src (10 : BitVec 5) (0 : BitVec 2))) ∧ (privOf thUsr = 0) := by
  unfold Canonical MemOk Executing ReadyNow; decide +kernel

theorem witness_Flt_5_1 :
  (Canonical s0) ∧ (Executing s0 th0) ∧ (th0.acqOut = 0) ∧ (ReadyNow th0 (src (9 : BitVec 5) (0 : BitVec 2))) ∧
    (ReadyNow th0 (src (10 : BitVec 5) (0 : BitVec 2))) ∧ (trapBlock s0 th0.ctx (if privOf th0 = 3 then s0.tvecm else
    (ctxAt s0 th0.ctx).tvec) = none) ∧ (1 ≤ privOf th0) := by
  unfold Canonical MemOk Executing ReadyNow; decide +kernel

theorem witness_Ker_0_0 :
  (Canonical sHeldRetry) ∧ (HeldIn sHeldRetry sHeldRetry.cur (formed (Form.inFlight WaitFor.retry))) ∧ ((formed
    (Form.inFlight WaitFor.retry)).pc = (4096 : BitVec 48)) ∧ ((formed (Form.inFlight WaitFor.retry)).form =
    Form.inFlight WaitFor.retry) ∧ (textWord sHeldRetry (sHeldRetry.cur / 16) (4096 : BitVec 48) (privOf (formed
    (Form.inFlight WaitFor.retry))) = none) ∧ (∀ (o : CodeObj), codeObjOf sHeldRetry (formed (Form.inFlight
    WaitFor.retry)).ctx (privOf (formed (Form.inFlight WaitFor.retry))) = some o → BitVec.toNat (4096 : BitVec 48) <
    o.textBase ∨ o.textBase + 4096 * o.nchunk ≤ BitVec.toNat (4096 : BitVec 48)) := by
  unfold Canonical MemOk HeldIn; decide +kernel

theorem witness_Ker_1_0 :
  (Canonical bE) ∧ (bE.now = none) ∧ (∀ f ∈ bE.agenda ++ bE.held, f.chan ≠ some (mailChan 1)) ∧ ((ctxAt bE 1).st =
    CtxState.resident) ∧ ((ctxAt bE 1).kernel.st = KernelState.none) := by
  unfold Canonical MemOk; decide +kernel

theorem witness_Ker_1_1 :
  (Canonical bE) ∧ (bE.now = none) ∧ (∀ f ∈ bE.agenda ++ bE.held, f.chan ≠ some (mailChan 2)) ∧ ((ctxAt bE 2).st =
    CtxState.free ∨ (ctxAt bE 2).st = CtxState.created ∨ (ctxAt bE 2).st = CtxState.killing) := by
  unfold Canonical MemOk; decide +kernel

theorem witness_Ker_1_2 :
  (Canonical (withSt CtxState.stopping)) ∧ ((withSt CtxState.stopping).now = none) ∧ (∀ f ∈ (withSt
    CtxState.stopping).agenda ++ (withSt CtxState.stopping).held, f.chan ≠ some (mailChan 1)) ∧ ((ctxAt (withSt
    CtxState.stopping) 1).st = CtxState.stopping ∨ (ctxAt (withSt CtxState.stopping) 1).st = CtxState.saved ∨ (ctxAt
    (withSt CtxState.stopping) 1).st = CtxState.restoring) := by
  unfold Canonical MemOk; decide +kernel

theorem witness_Ker_2_0 :
  (Canonical bE) ∧ (bE.now = none) ∧ ((ctxAt bE 1).kernel.st ≠ KernelState.checking) := by
  unfold Canonical MemOk; decide +kernel

theorem witness_Ker_3_0 :
  (Canonical (withSt CtxState.saved)) ∧ ((withSt CtxState.saved).now = none) ∧ ((ctxAt (withSt CtxState.saved) 1).st ≠
    CtxState.resident ∨ (ctxAt (withSt CtxState.saved) 1).kernel.st ≠ KernelState.retiring ∧ ((ctxAt (withSt
    CtxState.saved) 1).kernel.st ≠ KernelState.running ∨ retireReady (withSt CtxState.saved) 1 = false)) := by
  unfold Canonical MemOk; decide +kernel

theorem witness_Ctx_0 :
  (Canonical bE) ∧ (bE.now = none) ∧ (∀ n ∈ (ctxAt bE 1).cmds, n ≤ 4) := by
  unfold Canonical MemOk; decide +kernel

theorem witness_Ctx_1 :
  ((Canonical (withCmd CtxState.resident 7)) ∧ ((withCmd CtxState.resident 7).now = none) ∧ (List.find? (fun (n : ℕ)
    => decide (4 < n)) (ctxAt (withCmd CtxState.resident 7) 1).cmds = some 7) ∧ (7 ∈ (ctxAt (withCmd CtxState.resident
    7) 1).cmds)) ∧ (DeviceAt (withCmd CtxState.resident 7) (ctxField (withCmd CtxState.resident 7) 1 248) 8) := by
  refine ⟨?_, ?_⟩
  · unfold Canonical MemOk; decide +kernel
  · unfold DeviceAt; exact dec_own (fun _ => inferInstance) (by decide +kernel)

theorem witness_Ctx_2 :
  ((Canonical (withCmd CtxState.resident 1)) ∧ ((withCmd CtxState.resident 1).now = none) ∧ ((ctxAt (withCmd
    CtxState.resident 1) 1).st ≠ CtxState.free) ∧ (1 ∈ (ctxAt (withCmd CtxState.resident 1) 1).cmds)) ∧ (DeviceAt
    (withCmd CtxState.resident 1) (ctxField (withCmd CtxState.resident 1) 1 248) 8) := by
  refine ⟨?_, ?_⟩
  · unfold Canonical MemOk; decide +kernel
  · unfold DeviceAt; exact dec_own (fun _ => inferInstance) (by decide +kernel)

theorem witness_Ctx_3 :
  ((Canonical (withCmd CtxState.free 1)) ∧ ((withCmd CtxState.free 1).now = none) ∧ ((ctxAt (withCmd CtxState.free 1)
    1).st = CtxState.free) ∧ (entryBad (withCmd CtxState.free 1) 1 = true) ∧ (1 ∈ (ctxAt (withCmd CtxState.free 1)
    1).cmds)) ∧ (DeviceAt (withCmd CtxState.free 1) (ctxField (withCmd CtxState.free 1) 1 248) 8) := by
  refine ⟨?_, ?_⟩
  · unfold Canonical MemOk; decide +kernel
  · unfold DeviceAt; exact dec_own (fun _ => inferInstance) (by decide +kernel)

theorem witness_Ctx_5 :
  ((Canonical (withCmd CtxState.resident 2)) ∧ ((withCmd CtxState.resident 2).now = none) ∧ ((ctxAt (withCmd
    CtxState.resident 2) 1).st ≠ CtxState.created) ∧ ((ctxAt (withCmd CtxState.resident 2) 1).st ≠ CtxState.saved) ∧
    (2 ∈ (ctxAt (withCmd CtxState.resident 2) 1).cmds)) ∧ (DeviceAt (withCmd CtxState.resident 2) (ctxField (withCmd
    CtxState.resident 2) 1 248) 8) := by
  refine ⟨?_, ?_⟩
  · unfold Canonical MemOk; decide +kernel
  · unfold DeviceAt; exact dec_own (fun _ => inferInstance) (by decide +kernel)

theorem witness_Ctx_7 :
  ((Canonical (withCmd CtxState.created 3)) ∧ ((withCmd CtxState.created 3).now = none) ∧ ((ctxAt (withCmd
    CtxState.created 3) 1).st = CtxState.created) ∧ (3 ∈ (ctxAt (withCmd CtxState.created 3) 1).cmds)) ∧ (DeviceAt
    (withCmd CtxState.created 3) (ctxField (withCmd CtxState.created 3) 1 248) 8) := by
  refine ⟨?_, ?_⟩
  · unfold Canonical MemOk; decide +kernel
  · unfold DeviceAt; exact dec_own (fun _ => inferInstance) (by decide +kernel)

theorem witness_Ctx_8 :
  ((Canonical (withCmd CtxState.free 3)) ∧ ((withCmd CtxState.free 3).now = none) ∧ ((ctxAt (withCmd CtxState.free 3)
    1).st = CtxState.free) ∧ (3 ∈ (ctxAt (withCmd CtxState.free 3) 1).cmds)) ∧ (DeviceAt (withCmd CtxState.free 3)
    (ctxField (withCmd CtxState.free 3) 1 248) 8) := by
  refine ⟨?_, ?_⟩
  · unfold Canonical MemOk; decide +kernel
  · unfold DeviceAt; exact dec_own (fun _ => inferInstance) (by decide +kernel)

theorem witness_Ctx_9 :
  (Canonical bE) ∧ (bE.now = none) ∧ ((ctxAt bE 1).st = CtxState.resident) ∧ ((ctxAt bE 1).kernel.st =
    KernelState.none) := by
  unfold Canonical MemOk; decide +kernel

theorem witness_Ctx_10 :
  (Canonical bE) ∧ (bE.now = none) ∧ ((ctxAt bE 1).st ≠ CtxState.killing) := by
  unfold Canonical MemOk; decide +kernel

theorem witness_Ctx_11 :
  (Canonical (withSt CtxState.killing)) ∧ ((withSt CtxState.killing).now = none) ∧ ((ctxAt (withSt CtxState.killing)
    1).st = CtxState.killing) ∧ ((ctxAt (withSt CtxState.killing) 1).gstep ≠ 2) ∧ ((ctxAt (withSt CtxState.killing)
    1).gstep ≠ 4) := by
  unfold Canonical MemOk; decide +kernel

theorem witness_Ctx_12 :
  ((Canonical (withCmd CtxState.free 4)) ∧ ((withCmd CtxState.free 4).now = none) ∧ ((ctxAt (withCmd CtxState.free 4)
    1).st = CtxState.free) ∧ (4 ∈ (ctxAt (withCmd CtxState.free 4) 1).cmds)) ∧ (DeviceAt (withCmd CtxState.free 4)
    (ctxField (withCmd CtxState.free 4) 1 248) 8) := by
  refine ⟨?_, ?_⟩
  · unfold Canonical MemOk; decide +kernel
  · unfold DeviceAt; exact dec_own (fun _ => inferInstance) (by decide +kernel)

theorem witness_Ctx_13 :
  ((Canonical (withCmd CtxState.resident 4)) ∧ ((withCmd CtxState.resident 4).now = none) ∧ ((ctxAt (withCmd
    CtxState.resident 4) 1).st ≠ CtxState.free) ∧ ((ctxAt (withCmd CtxState.resident 4) 1).st ≠ CtxState.created) ∧
    ((ctxAt (withCmd CtxState.resident 4) 1).st ≠ CtxState.saved) ∧ (4 ∈ (ctxAt (withCmd CtxState.resident 4)
    1).cmds)) ∧ (DeviceAt (withCmd CtxState.resident 4) (ctxField (withCmd CtxState.resident 4) 1 248) 8) := by
  refine ⟨?_, ?_⟩
  · unfold Canonical MemOk; decide +kernel
  · unfold DeviceAt; exact dec_own (fun _ => inferInstance) (by decide +kernel)

theorem witness_Ctx_14 :
  (Canonical (withSt CtxState.saved)) ∧ ((withSt CtxState.saved).now = none) ∧ ((ctxAt (withSt CtxState.saved) 1).st =
    CtxState.created ∨ (ctxAt (withSt CtxState.saved) 1).st = CtxState.saved) := by
  unfold Canonical MemOk; decide +kernel

theorem witness_Ctx_15 :
  (Canonical bE) ∧ (bE.now = none) ∧ ((ctxAt bE 1).st ≠ CtxState.resident ∨ (0 : Word) = (0 : Word)) := by
  unfold Canonical MemOk; decide +kernel

theorem witness_Ctx_16 :
  ((Canonical bE) ∧ (bE.now = none) ∧ ((ctxAt bE 1).st = CtxState.resident) ∧ ((5 : Word) ≠ (0 : Word))) ∧ (DeviceAt
    bE (ctxField bE 1 232) 8) := by
  refine ⟨?_, ?_⟩
  · unfold Canonical MemOk; decide +kernel
  · unfold DeviceAt; exact dec_own (fun _ => inferInstance) (by decide +kernel)

theorem witness_Ctx_17 :
  (Canonical bE) ∧ (bE.now = none) ∧ ((ctxAt bE 1).st = CtxState.resident) ∧ (switchAt bE 1 = 0 ∨ tick bE < switchAt
    bE 1) := by
  unfold Canonical MemOk; decide +kernel

theorem witness_Ctx_18 :
  (Canonical sSw) ∧ (sSw.now = none) ∧ ((ctxAt sSw 1).st = CtxState.resident) ∧ (switchAt sSw 1 ≠ 0) ∧ (switchAt sSw 1
    ≤ tick sSw) ∧ ((ctxAt sSw 1).kernel.st = KernelState.none ∨ (ctxAt sSw 1).kernel.st = KernelState.running) := by
  unfold Canonical MemOk; decide +kernel

theorem witness_Ctx_19 :
  (Canonical bE) ∧ (bE.now = none) ∧ (¬((ctxAt bE 1).st = CtxState.stopping ∧ (ctxAt bE 1).gstep ≤ 2 ∧ (ctxAt bE
    1).stopAt + 8000000 ≤ bE.time8 ∧ coreQuiet bE 0 = false)) := by
  unfold Canonical MemOk; decide +kernel

theorem witness_Ctx_20 :
  (Canonical sBusy) ∧ (sBusy.now = none) ∧ ((ctxAt sBusy 1).st = CtxState.stopping) ∧ ((ctxAt sBusy 1).gstep ≤ 2) ∧
    ((ctxAt sBusy 1).stopAt + 8000000 ≤ sBusy.time8) ∧ (coreQuiet sBusy 0 = false) := by
  unfold Canonical MemOk; decide +kernel

theorem witness_Ctx_21 :
  (Canonical bE) ∧ (bE.now = none) ∧ ((ctxAt bE 1).st ≠ CtxState.stopping) := by
  unfold Canonical MemOk; decide +kernel

theorem witness_Ctx_22 :
  (Canonical sKp) ∧ (sKp.now = none) ∧ ((ctxAt sKp 1).st = CtxState.stopping) ∧ ((ctxAt sKp 1).killPending = true) := by
  unfold Canonical MemOk; decide +kernel

theorem witness_Ctx_23 :
  (Canonical (withSt CtxState.stopping)) ∧ ((withSt CtxState.stopping).now = none) ∧ ((ctxAt (withSt
    CtxState.stopping) 1).st = CtxState.stopping) ∧ ((ctxAt (withSt CtxState.stopping) 1).killPending = false) ∧
    (saveHole (withSt CtxState.stopping) 1 = none) ∧ (∀ m ∈ (ctxAt (withSt CtxState.stopping) 1).cells, 16 + m / 48 ∉
    (withSt CtxState.stopping).fencedUnits) := by
  unfold Canonical MemOk; decide +kernel

theorem witness_Ctx_24 :
  (Canonical bE) ∧ (bE.now = none) ∧ ((ctxAt bE 1).st ≠ CtxState.restoring) := by
  unfold Canonical MemOk; decide +kernel

theorem witness_Ctx_25 :
  ((Canonical (killG CtxState.restoring 20)) ∧ ((killG CtxState.restoring 20).now = none) ∧ ((ctxAt (killG
    CtxState.restoring 20) 1).st = CtxState.restoring) ∧ ((ctxAt (killG CtxState.restoring 20) 1).gstep = 20) ∧
    ((ctxAt (killG CtxState.restoring 20) 1).killPending = false) ∧ ((ctxAt (killG CtxState.restoring 20) 1).evwait =
    [])) ∧ (∀ (p tid n : ℕ) (bs : Vector (Option ℕ) 4), (slotAt (killG CtxState.restoring 20) p).occ ≠
    Occupant.forPinned tid n bs) := by
  refine ⟨?_, ?_⟩
  · unfold Canonical MemOk; decide +kernel
  · exact none_pinned _ (by decide +kernel)

theorem witness_Lnk_0_0 :
  (Canonical (linked LinkState.up)) ∧ ((linked LinkState.up).now = none) ∧ (linkExists 1 = true) ∧ ((linkAt (linked
    LinkState.up) 1).st ≠ LinkState.training) := by
  unfold Canonical MemOk; decide +kernel

theorem witness_Lnk_1 :
  (Canonical (linked LinkState.training)) ∧ ((linked LinkState.training).now = none) ∧ (linkExists 1 = true) ∧
    ((linkAt (linked LinkState.training) 1).st = LinkState.training) ∧ (((fun (n : ℕ) => (fun (n : ℕ) => Option.getD
    (List.find? (fun (w : ℕ) => decide (w ≤ n)) (if 1 = 0 then [16, 8, 4] else if 1 ≤ 8 then [4, 2, 1] else if 1 ≤ 26
    then [4, 3, 2] else [16, 8])) 0) (min n (List.length ((fun (k : Link) => List.filter (fun (n : ℕ) => !(Tab.get
    (Lane.mk 0 0 0 0 false) k.lanes n).retired) (List.range (if 26 < 1 then 18 else if 1 = 0 ∨ 26 < 1 then 16 else
    4))) (linkAt (linked LinkState.training) 1))))) 0 < if 1 = 0 then 4 else if 1 ≤ 8 then 1 else if 1 ≤ 26 then 2
    else 8) ∨ (fun (peer : ℕ) => 9 ≤ 1 ∧ 1 ≤ 26 ∧ peer = fld (linked LinkState.training).host.devid 0 9) 0) := by
  unfold Canonical MemOk; decide +kernel

theorem witness_Lnk_2 :
  (Canonical (linked LinkState.training)) ∧ ((linked LinkState.training).now = none) ∧ (linkExists 1 = true) ∧
    ((linkAt (linked LinkState.training) 1).st = LinkState.training) ∧ ((if 1 = 0 then 4 else if 1 ≤ 8 then 1 else if
    1 ≤ 26 then 2 else 8) ≤ (fun (n : ℕ) => (fun (n : ℕ) => Option.getD (List.find? (fun (w : ℕ) => decide (w ≤ n))
    (if 1 = 0 then [16, 8, 4] else if 1 ≤ 8 then [4, 2, 1] else if 1 ≤ 26 then [4, 3, 2] else [16, 8])) 0) (min n
    (List.length ((fun (k : Link) => List.filter (fun (n : ℕ) => !(Tab.get (Lane.mk 0 0 0 0 false) k.lanes n).retired)
    (List.range (if 26 < 1 then 18 else if 1 = 0 ∨ 26 < 1 then 16 else 4))) (linkAt (linked LinkState.training) 1)))))
    1) ∧ (¬(fun (peer : ℕ) => 9 ≤ 1 ∧ 1 ≤ 26 ∧ peer = fld (linked LinkState.training).host.devid 0 9) 0) := by
  unfold Canonical MemOk; decide +kernel

theorem witness_Lnk_3 :
  (Canonical (linked LinkState.training)) ∧ ((linked LinkState.training).now = none) ∧ (linkExists 1 = true) ∧
    ((linkAt (linked LinkState.training) 1).st = LinkState.training) := by
  unfold Canonical MemOk; decide +kernel

theorem witness_Lnk_4 :
  (Canonical (linked LinkState.up)) ∧ ((linked LinkState.up).now = none) ∧ (linkExists 1 = true) ∧ ((if 26 < 1 then 18
    else if 1 = 0 ∨ 26 < 1 then 16 else 4) ≤ 4 ∨ (linkAt (linked LinkState.up) 1).st = LinkState.down) := by
  unfold Canonical MemOk; decide +kernel

theorem witness_Lnk_5 :
  (Canonical (linked LinkState.up)) ∧ ((linked LinkState.up).now = none) ∧ (linkExists 1 = true) ∧ (3 < if 26 < 1 then
    18 else if 1 = 0 ∨ 26 < 1 then 16 else 4) ∧ ((linkAt (linked LinkState.up) 1).st ≠ LinkState.down) ∧ (5 ≤ (linked
    LinkState.up).lanelim) := by
  unfold Canonical MemOk; decide +kernel

theorem witness_Lnk_6 :
  (Canonical (linked LinkState.up)) ∧ ((linked LinkState.up).now = none) ∧ (linkExists 1 = true) ∧ (3 < if 26 < 1 then
    18 else if 1 = 0 ∨ 26 < 1 then 16 else 4) ∧ ((linkAt (linked LinkState.up) 1).st ≠ LinkState.down) ∧ (∀ (c : ℕ),
    none = some c → (linked LinkState.up).lanelim < c) := by
  unfold Canonical MemOk; decide +kernel

theorem witness_Lnk_7 :
  (Canonical (linked LinkState.up)) ∧ ((linked LinkState.up).now = none) ∧ (linkExists 1 = true) := by
  unfold Canonical MemOk; decide +kernel

theorem witness_Lnk_8 :
  ((Canonical (linked LinkState.down)) ∧ ((linked LinkState.down).now = none) ∧ (linkExists 1 = true)) ∧ ((¬∃ (f :
    FlitTry), (linkAt (linked LinkState.down) 1).flit = some f ∧ (9 ≤ f.failures ∨ 7 ≤ f.failures ∧ f.eighth + 16000 ≤
    (linked LinkState.down).time8)) ∨ (linkAt (linked LinkState.down) 1).st ≠ LinkState.up ∧ (linkAt (linked
    LinkState.down) 1).st ≠ LinkState.degraded) := by
  refine ⟨?_, ?_⟩
  · unfold Canonical MemOk; decide +kernel
  · exact Or.inr (by decide +kernel)

theorem witness_Lnk_9 :
  ((Canonical (stuckAt LinkState.degraded)) ∧ ((stuckAt LinkState.degraded).now = none) ∧ (linkExists 1 = true) ∧
    ((linkAt (stuckAt LinkState.degraded) 1).st = LinkState.up ∨ (linkAt (stuckAt LinkState.degraded) 1).st =
    LinkState.degraded)) ∧ (∃ (f : FlitTry), (linkAt (stuckAt LinkState.degraded) 1).flit = some f ∧ (9 ≤ f.failures ∨
    7 ≤ f.failures ∧ f.eighth + 16000 ≤ (stuckAt LinkState.degraded).time8)) := by
  refine ⟨?_, ?_⟩
  · unfold Canonical MemOk; decide +kernel
  · exact ⟨_, rfl, Or.inl (by decide +kernel)⟩

theorem witness_Lnk_10 :
  (Canonical (linked LinkState.up)) ∧ ((linked LinkState.up).now = none) ∧ (linkExists 1 = true) ∧ ((if 26 < 1 then 18
    else if 1 = 0 ∨ 26 < 1 then 16 else 4) ≤ 4) := by
  unfold Canonical MemOk; decide +kernel

theorem witness_Lnk_11 :
  (Canonical (linked LinkState.up)) ∧ ((linked LinkState.up).now = none) ∧ (linkExists 1 = true) ∧ (3 < if 26 < 1 then
    18 else if 1 = 0 ∨ 26 < 1 then 16 else 4) := by
  unfold Canonical MemOk; decide +kernel

theorem witness_Lnk_13_0 :
  ((Canonical (rings (linked LinkState.down))) ∧ ((rings (linked LinkState.down)).now = none) ∧ (linkExists 1 = true))
    ∧ (AtEntry (rings (linked LinkState.down)) 327680) := by
  refine ⟨?_, ?_⟩
  · unfold Canonical MemOk; decide +kernel
  · exact at_entry _ _ (by decide +kernel) (by decide +kernel)

theorem witness_Rng_0_0 :
  (Canonical bE) ∧ (bE.now = none) ∧ (bE.host.waiting = [] ∨ fld bE.host.evring 0 5 < 4 ∨ 16 < fld bE.host.evring 0 5
    ∨ ¬((linkAt bE 0).st = LinkState.up ∨ (linkAt bE 0).st = LinkState.degraded) ∨ (BitVec.toNat bE.host.evtail + 1) %
    2 ^ fld bE.host.evring 0 5 = BitVec.toNat bE.host.evhead % 2 ^ fld bE.host.evring 0 5) := by
  unfold Canonical MemOk; decide +kernel

theorem witness_Rng_0_1 :
  (Canonical sPost) ∧ (sPost.now = none) ∧ (sPost.host.waiting ≠ []) ∧ (4 ≤ fld sPost.host.evring 0 5) ∧ (fld
    sPost.host.evring 0 5 ≤ 16) ∧ ((linkAt sPost 0).st = LinkState.up ∨ (linkAt sPost 0).st = LinkState.degraded) ∧
    (¬(BitVec.toNat sPost.host.evtail + 1) % 2 ^ fld sPost.host.evring 0 5 = BitVec.toNat sPost.host.evhead % 2 ^ fld
    sPost.host.evring 0 5) := by
  unfold Canonical MemOk; decide +kernel

theorem witness_Rng_1_0 :
  ((Canonical sRing) ∧ (sRing.now = none) ∧ (3072 ≤ 3072 ∨ stackCap sRing 3072 < stackCount sRing 3072 + 1)) ∧
    (AtEntry sRing 327680) := by
  refine ⟨?_, ?_⟩
  · unfold Canonical MemOk; decide +kernel
  · exact at_entry _ _ (by decide +kernel) (by decide +kernel)

theorem witness_Rng_1_1 :
  ((Canonical sRing) ∧ (sRing.now = none) ∧ (0 < 3072) ∧ (stackCount sRing 0 + 3 ≤ stackCap sRing 0) ∧ (stackHdr sRing
    0 + 16 ≤ fld sRing.host.cmdring 12 27 * 4096 ∨ fld sRing.host.cmdring 12 27 * 4096 + 32 * 2 ^ fld
    sRing.host.cmdring 0 5 ≤ stackHdr sRing 0)) ∧ (AtEntry sRing 327680) ∧ (DeviceAt sRing (stackHdr sRing 0 + 8) 8) := by
  refine ⟨?_, ?_, ?_⟩
  · unfold Canonical MemOk; decide +kernel
  · exact at_entry _ _ (by decide +kernel) (by decide +kernel)
  · unfold DeviceAt; exact dec_own (fun _ => inferInstance) (by decide +kernel)

theorem witness_Rng_1_2 :
  ((Canonical sRing) ∧ (sRing.now = none) ∧ (8 ≤ 0 ∧ 0 < 2 ^ 64 ∨ 0 < 4 ∧ BitVec.toNat (1 : Word) % 2 ^ Option.getD
    [12, 16, 21, 30][0]? 0 ≠ 0)) ∧ (AtEntry sRing 327680) := by
  refine ⟨?_, ?_⟩
  · unfold Canonical MemOk; decide +kernel
  · exact at_entry _ _ (by decide +kernel) (by decide +kernel)

theorem witness_Rng_1_3 :
  ((Canonical sRing) ∧ (sRing.now = none) ∧ (0 < 8) ∧ (0 < 4 → BitVec.toNat (24576 : Word) % 2 ^ Option.getD [12, 16,
    21, 30][0]? 0 = 0)) ∧ (AtEntry sRing 327680) := by
  refine ⟨?_, ?_⟩
  · unfold Canonical MemOk; decide +kernel
  · exact at_entry _ _ (by decide +kernel) (by decide +kernel)

theorem witness_Rng_1_4 :
  ((Canonical sRing) ∧ (sRing.now = none)) ∧ (AtEntry sRing 327680) ∧ (∀ x ∈ sRing.host.awaiting, x.1 ≠ 3) := by
  refine ⟨?_, ?_, ?_⟩
  · unfold Canonical MemOk; decide +kernel
  · exact at_entry _ _ (by decide +kernel) (by decide +kernel)
  · exact none_in _ _ (by decide +kernel)

theorem witness_Rng_1_5_0 :
  ((Canonical sAwait) ∧ (sAwait.now = none) ∧ (List.find? (fun (x : ℕ × HostEvent) => x.1 == 3) sAwait.host.awaiting =
    some (3, ev1)) ∧ (ev1.type = 1) ∧ ((2 : Word) ≠ (1 : Word))) ∧ (AtEntry sAwait 327680) := by
  refine ⟨?_, ?_⟩
  · unfold Canonical MemOk; decide +kernel
  · exact at_entry _ _ (by decide +kernel) (by decide +kernel)

theorem witness_Rng_1_5_1 :
  ((Canonical sAwait) ∧ (sAwait.now = none) ∧ (List.find? (fun (x : ℕ × HostEvent) => x.1 == 3) sAwait.host.awaiting =
    some (3, ev1)) ∧ (ev1.type = 1) ∧ ((1 : Word) = (1 : Word))) ∧ (AtEntry sAwait 327680) := by
  refine ⟨?_, ?_⟩
  · unfold Canonical MemOk; decide +kernel
  · exact at_entry _ _ (by decide +kernel) (by decide +kernel)

theorem witness_Rng_1_6 :
  ((Canonical sRing) ∧ (sRing.now = none) ∧ (7 = 0 ∨ 6 < 7)) ∧ (AtEntry sRing 327680) := by
  refine ⟨?_, ?_⟩
  · unfold Canonical MemOk; decide +kernel
  · exact at_entry _ _ (by decide +kernel) (by decide +kernel)

theorem witness_Rng_1_7_0 :
  ((Canonical sRing) ∧ (sRing.now = none) ∧ (1 ≤ 1) ∧ (1 ≤ 6) ∧ (¬(1 ≤ 5 ∧ (ctxAt sRing 1).st = CtxState.stopping ∧
    (ctxAt sRing 1).gstep = 2 * 1 - 1 ∨ 1 = 6 ∧ (ctxAt sRing 1).st = CtxState.restoring ∧ (ctxAt sRing 1).gstep =
    11))) ∧ (AtEntry sRing 327680) := by
  refine ⟨?_, ?_⟩
  · unfold Canonical MemOk; decide +kernel
  · exact at_entry _ _ (by decide +kernel) (by decide +kernel)

theorem witness_Rng_1_7_1 :
  ((Canonical sGang) ∧ (sGang.now = none) ∧ (1 ≤ 1) ∧ (1 ≤ 6) ∧ (1 ≤ 5 ∧ (ctxAt sGang 1).st = CtxState.stopping ∧
    (ctxAt sGang 1).gstep = 2 * 1 - 1 ∨ 1 = 6 ∧ (ctxAt sGang 1).st = CtxState.restoring ∧ (ctxAt sGang 1).gstep = 11))
    ∧ (AtEntry sGang 327680) := by
  refine ⟨?_, ?_⟩
  · unfold Canonical MemOk; decide +kernel
  · exact at_entry _ _ (by decide +kernel) (by decide +kernel)

theorem witness_Rng_2_2 :
  (Canonical sHostB) ∧ (sHostB.now = none) ∧ ((linkAt sHostB 0).st ≠ LinkState.fenced) ∧ (sHostB.booted = false) := by
  unfold Canonical MemOk; decide +kernel

theorem witness_Rng_2_0 :
  (Canonical sShut) ∧ (sShut.now = none) ∧ (32 < 33554432) ∧ ((linkAt sShut 0).st = LinkState.fenced) := by
  unfold Canonical MemOk; decide +kernel

theorem witness_Rng_2_1 :
  (Canonical bE) ∧ (bE.now = none) ∧ ((linkAt bE 0).st ≠ LinkState.fenced) ∧ (bE.host.waiting = []) := by
  unfold Canonical MemOk; decide +kernel

theorem witness_Rng_2_3 :
  (Canonical bE) ∧ (bE.now = none) ∧ ((linkAt bE 0).st ≠ LinkState.fenced) ∧ (32 ∈ [0, 8, 16, 32, 40, 48, 56, 72, 96]) := by
  unfold Canonical MemOk; decide +kernel

theorem witness_Rng_2_4 :
  (Canonical bE) ∧ (bE.now = none) ∧ ((linkAt bE 0).st ≠ LinkState.fenced) ∧ (4096 ≤ 4104) ∧ (4104 < 8192) := by
  unfold Canonical MemOk; decide +kernel

theorem witness_Rng_2_5 :
  (Canonical bE) ∧ (bE.now = none) ∧ ((linkAt bE 0).st ≠ LinkState.fenced) ∧ (3 < 288) ∧ (4 < 32) := by
  unfold Canonical MemOk; decide +kernel

theorem witness_Dbg_0_0 :
  (Canonical bE) ∧ (bE.now = none) ∧ (threadAt bE 3 = none) := by
  unfold Canonical MemOk; decide +kernel

theorem witness_Dbg_1_0 :
  (Canonical (withForm (Form.stopped none false))) ∧ ((withForm (Form.stopped none false)).now = none) ∧ (threadAt
    (withForm (Form.stopped none false)) 0 = some (formed (Form.stopped none false))) ∧ (0 < 49152) ∧ (0 % 16 <
    (coreAt (withForm (Form.stopped none false)) (0 / 16 : ℕ)).part) ∧ ((formed (Form.stopped none false)).form =
    Form.stopped none false) := by
  unfold Canonical MemOk; decide +kernel

theorem witness_Dbg_1_1 :
  (Canonical (withForm Form.ready)) ∧ ((withForm Form.ready).now = none) ∧ (threadAt (withForm Form.ready) 0 = some
    (formed Form.ready)) ∧ (0 < 49152) ∧ (0 % 16 < (coreAt (withForm Form.ready) (0 / 16 : ℕ)).part) ∧ ((formed
    Form.ready).form = Form.ready) ∧ (drained (withForm Form.ready) 0 (formed Form.ready) = true) := by
  unfold Canonical MemOk; decide +kernel

theorem witness_Dbg_1_2 :
  (Canonical (withForm (Form.parked pk0))) ∧ ((withForm (Form.parked pk0)).now = none) ∧ (threadAt (withForm
    (Form.parked pk0)) 0 = some (formed (Form.parked pk0))) ∧ (0 < 49152) ∧ (0 % 16 < (coreAt (withForm (Form.parked
    pk0)) (0 / 16 : ℕ)).part) ∧ ((formed (Form.parked pk0)).form = Form.parked pk0) ∧ (drained (withForm (Form.parked
    pk0)) 0 (formed (Form.parked pk0)) = true) := by
  unfold Canonical MemOk; decide +kernel

theorem witness_Dbg_1_3 :
  (Canonical (withForm Form.trapped)) ∧ ((withForm Form.trapped).now = none) ∧ (threadAt (withForm Form.trapped) 0 =
    some (formed Form.trapped)) ∧ (0 < 49152) ∧ (0 % 16 < (coreAt (withForm Form.trapped) (0 / 16 : ℕ)).part) ∧
    ((formed Form.trapped).form = Form.trapped) := by
  unfold Canonical MemOk; decide +kernel

theorem witness_Dbg_1_4 :
  (Canonical sPend) ∧ (sPend.now = none) ∧ (threadAt sPend 0 = some thPend) ∧ (0 < 49152) ∧ (0 % 16 < (coreAt sPend (0
    / 16 : ℕ)).part) ∧ (thPend.form = Form.ready) ∧ (drained sPend 0 thPend = false) := by
  unfold Canonical MemOk; decide +kernel

theorem witness_Dbg_1_5 :
  (Canonical (withForm (Form.trapping tr0))) ∧ ((withForm (Form.trapping tr0)).now = none) ∧ (threadAt (withForm
    (Form.trapping tr0)) 0 = some (formed (Form.trapping tr0))) ∧ (0 < 49152) ∧ (0 % 16 < (coreAt (withForm
    (Form.trapping tr0)) (0 / 16 : ℕ)).part) ∧ ((formed (Form.trapping tr0)).form = Form.trapping tr0) := by
  unfold Canonical MemOk; decide +kernel

theorem witness_Dbg_1_6 :
  (Canonical (withForm (Form.inFlight WaitFor.retry))) ∧ ((withForm (Form.inFlight WaitFor.retry)).now = none) ∧
    (threadAt (withForm (Form.inFlight WaitFor.retry)) 0 = some (formed (Form.inFlight WaitFor.retry))) ∧ (0 < 49152)
    ∧ (0 % 16 < (coreAt (withForm (Form.inFlight WaitFor.retry)) (0 / 16 : ℕ)).part) ∧ ((formed (Form.inFlight
    WaitFor.retry)).form = Form.inFlight WaitFor.retry) := by
  unfold Canonical MemOk; decide +kernel

theorem witness_Dbg_1_7_0 :
  ((Canonical (withForm Form.ready)) ∧ ((withForm Form.ready).now = none) ∧ (threadAt (withForm Form.ready) 0 = some
    (formed Form.ready)) ∧ (0 < 49152) ∧ (0 % 16 < (coreAt (withForm Form.ready) (0 / 16 : ℕ)).part)) ∧ (∀ (k : Option
    Park) (b : Bool), (formed Form.ready).form ≠ Form.stopped k b) := by
  refine ⟨?_, ?_⟩
  · unfold Canonical MemOk; decide +kernel
  · intro k b h; cases h

theorem witness_Dbg_1_8_0 :
  (Canonical (withForm (Form.stopped none false))) ∧ ((withForm (Form.stopped none false)).now = none) ∧ (threadAt
    (withForm (Form.stopped none false)) 0 = some (formed (Form.stopped none false))) ∧ (0 < 49152) ∧ (0 % 16 <
    (coreAt (withForm (Form.stopped none false)) (0 / 16 : ℕ)).part) ∧ ((formed (Form.stopped none false)).form =
    Form.stopped none false) := by
  unfold Canonical MemOk; decide +kernel

theorem witness_Dbg_1_9_0 :
  (Canonical (withForm (Form.stopped (some pk0) false))) ∧ ((withForm (Form.stopped (some pk0) false)).now = none) ∧
    (threadAt (withForm (Form.stopped (some pk0) false)) 0 = some (formed (Form.stopped (some pk0) false))) ∧ (0 <
    49152) ∧ (0 % 16 < (coreAt (withForm (Form.stopped (some pk0) false)) (0 / 16 : ℕ)).part) ∧ ((formed (Form.stopped
    (some pk0) false)).form = Form.stopped (some pk0) false) ∧ ((readSlotRecord (withForm (Form.stopped (some pk0)
    false)) 0 (formed (Form.stopped (some pk0) false))).pc ≠ (formed (Form.stopped (some pk0) false)).pc ∨ pk0.why =
    ParkWhy.recv ∧ (readSlot (withForm (Form.stopped (some pk0) false)) 0).mailbox ≠ []) := by
  unfold Canonical MemOk; decide +kernel

theorem witness_Dbg_1_9_1 :
  (Canonical sRec) ∧ (sRec.now = none) ∧ (threadAt sRec 0 = some thRec) ∧ (0 < 49152) ∧ (0 % 16 < (coreAt sRec (0 / 16
    : ℕ)).part) ∧ (thRec.form = Form.stopped (some pk0) false) ∧ ((readSlot sRec 0).latch = none) ∧ ((readSlotRecord
    sRec 0 thRec).pc = thRec.pc) ∧ (¬(pk0.why = ParkWhy.recv ∧ (readSlot sRec 0).mailbox ≠ [])) := by
  unfold Canonical MemOk; decide +kernel

theorem witness_Dbg_1_10_0 :
  (Canonical (withForm (Form.stopped none true))) ∧ ((withForm (Form.stopped none true)).now = none) ∧ (threadAt
    (withForm (Form.stopped none true)) 0 = some (formed (Form.stopped none true))) ∧ (0 < 49152) ∧ (0 % 16 < (coreAt
    (withForm (Form.stopped none true)) (0 / 16 : ℕ)).part) ∧ ((formed (Form.stopped none true)).form = Form.stopped
    none true) := by
  unfold Canonical MemOk; decide +kernel

theorem witness_Dbg_2_0 :
  (Canonical bE) ∧ (bE.now = none) ∧ (Tab.get [] (ctxAt bE 1).trace.queues 0 = []) := by
  unfold Canonical MemOk; decide +kernel

theorem witness_Dbg_2_1_0 :
  (Canonical recq) ∧ (recq.now = none) ∧ (Tab.get [] (ctxAt recq 1).trace.queues 0 = [[(1 : Word), (2 : Word), (3 :
    Word), (4 : Word)]]) ∧ (fld (ctxAt recq 1).trace.w0 0 5 < 7 ∨ 20 < fld (ctxAt recq 1).trace.w0 0 5) := by
  unfold Canonical MemOk; decide +kernel

theorem witness_Dbg_3 :
  (Canonical bE) ∧ (bE.now = none) ∧ (IsCounter 3538968) := by
  unfold Canonical MemOk IsCounter; decide +kernel

theorem witness_Hwf_0_0 :
  (Canonical sTest) ∧ (sTest.now = none) ∧ (fld (cellAt sTest 3).test 8 1 = 1) := by
  unfold Canonical MemOk; decide +kernel

theorem witness_Hwf_0_1 :
  (Canonical bE) ∧ (bE.now = none) ∧ (fld (cellAt bE 3).test 8 1 = 0) := by
  unfold Canonical MemOk; decide +kernel

theorem witness_Hwf_1 :
  (Canonical bE) ∧ (bE.now = none) ∧ (fld (cellAt bE 3).test 8 1 = 0) := by
  unfold Canonical MemOk; decide +kernel

theorem witness_Hwf_2 :
  (Canonical sTest) ∧ (sTest.now = none) ∧ (fld (cellAt sTest 3).test 8 1 = 1) := by
  unfold Canonical MemOk; decide +kernel

theorem witness_Hwf_9_0 :
  (Canonical (linked LinkState.down)) ∧ ((linked LinkState.down).now = none) ∧ (¬((linkAt (linked LinkState.down)
    1).st = LinkState.up ∨ (linkAt (linked LinkState.down) 1).st = LinkState.degraded)) := by
  unfold Canonical MemOk; decide +kernel

theorem witness_Hwf_9_1 :
  ((Canonical (linked LinkState.up)) ∧ ((linked LinkState.up).now = none)) ∧ ((linkAt (linked LinkState.up) 1).st =
    LinkState.up ∨ (linkAt (linked LinkState.up) 1).st = LinkState.degraded) := by
  refine ⟨?_, ?_⟩
  · unfold Canonical MemOk; decide +kernel
  · exact Or.inl (by decide +kernel)

theorem witness_Hwf_7 :
  ((Canonical bE) ∧ (bE.now = none) ∧ ((4194304 / 8 : ℕ) * 8 + 8 ≤ BitVec.toNat bE.ras.errbase ∨ BitVec.toNat
    bE.ras.errbase + 64 * 4096 ≤ (4194304 / 8 : ℕ) * 8)) ∧ (DeviceAt bE (BitVec.toNat bE.ras.errbase + 64 *
    (bE.ras.errtail % 4096)) 64) := by
  refine ⟨?_, ?_⟩
  · unfold Canonical MemOk; decide +kernel
  · unfold DeviceAt; exact dec_own (fun _ => inferInstance) (by decide +kernel)

theorem witness_Rst_0_0 :
  (Canonical bE) ∧ (bE.now = none) ∧ (200 ≤ 200) ∧ (200 ≤ 2000) := by
  unfold Canonical MemOk; decide +kernel

theorem witness_Rst_0_1 :
  (Canonical bE) ∧ (bE.now = none) ∧ (199 < 200 ∨ 2000 < 199) := by
  unfold Canonical MemOk; decide +kernel

theorem witness_Rst_2 :
  ((Canonical bE) ∧ (bE.now = none)) ∧ (bE.booted = true ∨ sha512 noId.key ≠ Config.keyHash ∨ edVerify noId.key
    noId.image noId.sig = false ∨ imagePlaced noId = false) := by
  refine ⟨?_, ?_⟩
  · unfold Canonical MemOk; decide +kernel
  · exact Or.inl (by decide +kernel)

theorem witness_Rst_5 :
  ((Canonical bE) ∧ (bE.now = none)) ∧ (∀ (p : ℕ) (th : Thread), threadAt bE p = some th → th.issued + 8 ≠ bE.cycle +
    1 ∧ (∀ (n : ℕ), th.form ≠ Form.inFlight (WaitFor.leaving n)) ∧ ∀ (c : ℕ) (m : Option ℕ), th.form ≠ Form.inFlight
    (WaitFor.departing c m)) ∧ (∀ (n : ℕ), (ctxAt bE n).st = CtxState.resident → (ctxAt bE n).evwait = []) := by
  refine ⟨?_, ?_, ?_⟩
  · unfold Canonical MemOk; decide +kernel
  · exact no_threads _ (by decide +kernel) _
  · exact no_events _ 1 (by decide +kernel) (by decide +kernel)

theorem witness_Enc :
  (Instr.wellFormed (Instr.divu (8 : BitVec 5) (9 : BitVec 5) (10 : BitVec 5) (0 : BitVec 2) (0 : BitVec 2)) = true) := by
  decide +kernel

theorem witness_Wrd_0 :
  (decode (75802628 : BitVec 32) = Except.ok (Instr.divu (8 : BitVec 5) (9 : BitVec 5) (10 : BitVec 5) (0 : BitVec 2)
    (0 : BitVec 2))) := by
  decide +kernel

theorem witness_Stp_0 :
  (Canonical sNow) ∧ (sNow.sched = [Pick.tick]) := by
  unfold Canonical MemOk; decide +kernel

theorem witness_Stp_1 :
  ((Canonical sOwe) ∧ (mover uOwe 0 = some 0) ∧ (threadAt uOwe 0 = some thOwe) ∧ (thOwe.form = Form.ready) ∧
    (thOwe.owed = some tr0)) ∧ (nextPick sOwe = (Pick.core 0, uOwe) ∨ nextPick sOwe = (Pick.tick, uOwe) ∧ busyCore
    uOwe = some 0) := by
  refine ⟨?_, ?_⟩
  · unfold Canonical MemOk; decide +kernel
  · exact Or.inl (by decide +kernel)

theorem witness_Stp_2_0 :
  ((Canonical sIss) ∧ (mover uIss 0 = some 0) ∧ (threadAt uIss 0 = some thIss) ∧ (thIss.owed = none) ∧ (textWord uIss
    0 thIss.pc (privOf thIss) = some (268435456 : BitVec 32)) ∧ (decode (268435456 : BitVec 32) = Except.ok
    Instr.nop)) ∧ (nextPick sIss = (Pick.core 0, uIss) ∨ nextPick sIss = (Pick.tick, uIss) ∧ busyCore uIss = some 0) ∧
    (thIss.noCmp = true ∨ ∀ (j : ℕ), fld (Option.getD (coreAt uIss 0).cmps[j]? ((0 : Word), (0 : Word))).2 0 1 = 0) := by
  refine ⟨?_, ?_, ?_⟩
  · unfold Canonical MemOk; decide +kernel
  · exact Or.inl (by decide +kernel)
  · exact Or.inl (by decide +kernel)

theorem witness_Stp_3 :
  (Canonical sDel) ∧ (nextPick sDel = (Pick.deliver 0, uDel)) ∧ (uDel.agenda[0]? = some fCold) ∧ (fCold.chan = none) := by
  unfold Canonical MemOk; decide +kernel

theorem witness_Stp_4 :
  (Canonical sDelO) ∧ (nextPick sDelO = (Pick.deliver 0, uDelO)) ∧ (uDelO.agenda[0]? = some fOrd) ∧ (fOrd.chan ≠ none)
    ∧ (List.findIdx (fun (x : Flight) => x.chan == fOrd.chan) uDelO.agenda = 0) := by
  unfold Canonical MemOk; decide +kernel

theorem witness_Stp_5 :
  (Canonical sNow) ∧ (nextPick sNow = (Pick.tick, uNow)) ∧ (busyCore uNow = none) := by
  unfold Canonical MemOk; decide +kernel

theorem witness_Rs_5 :
  (20480 < peerBase) := by
  decide +kernel

theorem witness_Rs_6 :
  (IsCounter 3538968) := by
  unfold IsCounter; decide +kernel

theorem witness_Can :
  (Canonical sNow) ∧ (step sNow = Host.Outcome.next tNow) := by
  refine ⟨?_, ?_⟩
  · unfold Canonical MemOk; decide +kernel
  · rfl

theorem witness_Hst_0_0 :
  (Canonical bE) ∧ (bE.now = none) ∧ (20480 < dramTop) := by
  unfold Canonical MemOk; decide +kernel

theorem witness_Hst_0_4 :
  (Canonical bE) ∧ (bE.now = none) ∧ (20480 < dramTop) ∧ (dramColumn 20480 = dramColumn 20480) ∧ (dramOffset 20480 =
    dramOffset 20480) := by
  unfold Canonical MemOk; decide +kernel

theorem witness_Hst_1 :
  (Canonical bE) ∧ (bE.now = none) ∧ ((linkAt bE 0).st = LinkState.fenced ∨ dramTop ≤ dramTop ∨ homeFenced bE
    (sliceOfPa dramTop) = true) := by
  unfold Canonical MemOk; decide +kernel

theorem witness_Hst_2 :
  (Canonical bE) ∧ (bE.now = none) ∧ (((linkAt bE 0).st = LinkState.fenced ∨ dramTop ≤ dramTop ∨ homeFenced bE
    (sliceOfPa dramTop) = true) ∨ (fun (l : ℕ) => routeFenced bE (ioUnit (ioOfLink l)) (homeUnit (sliceOfPa dramTop))
    = true) 0) := by
  unfold Canonical MemOk; decide +kernel

theorem witness_Hst_3_0 :
  ((Canonical sPois) ∧ (sPois.now = none) ∧ (¬((linkAt sPois 0).st = LinkState.fenced ∨ dramTop ≤ 20480 ∨ homeFenced
    sPois (sliceOfPa 20480) = true))) ∧ (HostLineFree sPois 20480) ∧ (∃ i < 8, (20480 / 64 : ℕ) * 64 / 8 + i ∈
    sPois.poison) := by
  refine ⟨?_, ?_, ?_⟩
  · unfold Canonical MemOk; decide +kernel
  · exact host_line _ _ (by decide +kernel) (by decide +kernel)
  · exact ⟨0, by decide +kernel, by decide +kernel⟩

theorem witness_Hst_3_1 :
  ((Canonical bE) ∧ (bE.now = none) ∧ (¬((linkAt bE 0).st = LinkState.fenced ∨ dramTop ≤ 20480 ∨ homeFenced bE
    (sliceOfPa 20480) = true)) ∧ (∀ i < 8, (20480 / 64 : ℕ) * 64 / 8 + i ∉ bE.poison)) ∧ (HostLineFree bE 20480) := by
  refine ⟨?_, ?_⟩
  · unfold Canonical MemOk; decide +kernel
  · exact host_line _ _ (by decide +kernel) (by decide +kernel)

theorem witness_Hst_3_2 :
  ((Canonical bE) ∧ (bE.now = none) ∧ (¬((linkAt bE 0).st = LinkState.fenced ∨ dramTop ≤ 20480 ∨ homeFenced bE
    (sliceOfPa 20480) = true)) ∧ ([(1 : Byte), (2 : Byte)] ≠ []) ∧ (bE.booted = true) ∧ (¬(fun (l : ℕ) => routeFenced
    bE (ioUnit (ioOfLink l)) (homeUnit (sliceOfPa 20480)) = true) 0) ∧ (20480 + List.length (List.take (64 - 20480 %
    64) [(1 : Byte), (2 : Byte)]) ≤ fld bE.host.cmdring 12 27 * 4096 + 32 * (bE.host.cmdnext % 2 ^ fld bE.host.cmdring
    0 5) ∨ fld bE.host.cmdring 12 27 * 4096 + 32 * (bE.host.cmdnext % 2 ^ fld bE.host.cmdring 0 5) + 8 ≤ 20480)) ∧
    (HostLineFree bE 20480) := by
  refine ⟨?_, ?_⟩
  · unfold Canonical MemOk; decide +kernel
  · exact host_line _ _ (by decide +kernel) (by decide +kernel)

theorem witness_Hst_4_0 :
  ((Canonical bE) ∧ (bE.now = none)) ∧ (∀ (l : ℕ), (fun (l : ℕ) => l = (20480 / 64 : ℕ) * 2 ∨ l = (20480 / 64 : ℕ) * 2
    + 1) l → (dirAt bE l).host = false) := by
  refine ⟨?_, ?_⟩
  · unfold Canonical MemOk; decide +kernel
  · exact two_lines (20480 / 64) _ (by decide +kernel)

theorem witness_Hst_5_0 :
  ((Canonical sHost) ∧ (sHost.now = none)) ∧ (∃ (l : ℕ), (fun (l : ℕ) => l = (20480 / 64 : ℕ) * 2 ∨ l = (20480 / 64 :
    ℕ) * 2 + 1) l ∧ (dirAt sHost l).host = true) := by
  refine ⟨?_, ?_⟩
  · unfold Canonical MemOk; decide +kernel
  · exact ⟨0x5000 / 64 * 2, Or.inl rfl, by decide +kernel⟩

theorem witness_Hst_5_1 :
  ((Canonical (readAsked sHost)) ∧ ((readAsked sHost).now = none)) ∧ (∃ (l : ℕ), (fun (l : ℕ) => l = (20480 / 64 : ℕ)
    * 2 ∨ l = (20480 / 64 : ℕ) * 2 + 1) l ∧ (dirAt (readAsked sHost) l).host = true) ∧ (∀ (l : ℕ), (fun (l : ℕ) => l =
    (20480 / 64 : ℕ) * 2 ∨ l = (20480 / 64 : ℕ) * 2 + 1) l → (dirAt (readAsked sHost) l).host = true → (dirAt
    (readAsked sHost) l).reading = true) := by
  refine ⟨?_, ?_, ?_⟩
  · unfold Canonical MemOk; decide +kernel
  · exact ⟨0x5000 / 64 * 2, Or.inl rfl, by decide +kernel⟩
  · exact two_lines (20480 / 64) _ (by decide +kernel)

theorem witness_Hst_5_2_0 :
  ((Canonical sHostB) ∧ (sHostB.now = none) ∧ (List.length (List.replicate 64 (7 : Byte)) = 64) ∧ (20480 < dramTop) ∧
    (sHostB.booted = false ∨ (20480 / 64 : ℕ) * 64 + 64 ≤ fld sHostB.host.cmdring 12 27 * 4096 + 32 *
    (sHostB.host.cmdnext % 2 ^ fld sHostB.host.cmdring 0 5) ∨ fld sHostB.host.cmdring 12 27 * 4096 + 32 *
    (sHostB.host.cmdnext % 2 ^ fld sHostB.host.cmdring 0 5) + 8 ≤ (20480 / 64 : ℕ) * 64)) ∧ (∃ (l : ℕ), (fun (l : ℕ)
    => l = (20480 / 64 : ℕ) * 2 ∨ l = (20480 / 64 : ℕ) * 2 + 1) l ∧ (dirAt sHostB l).host = true) ∧ (OwnFrames sHostB) := by
  refine ⟨?_, ?_, ?_⟩
  · unfold Canonical MemOk; decide +kernel
  · exact ⟨0x5000 / 64 * 2, Or.inl rfl, by decide +kernel⟩
  · exact dec_own (fun _ => inferInstance) (by decide +kernel)

theorem witness_Hst_5_2_1 :
  ((Canonical (readAsked sHostB)) ∧ ((readAsked sHostB).now = none) ∧ (List.length (List.replicate 64 (7 : Byte)) =
    64) ∧ (20480 < dramTop) ∧ ((readAsked sHostB).booted = false ∨ (20480 / 64 : ℕ) * 64 + 64 ≤ fld (readAsked
    sHostB).host.cmdring 12 27 * 4096 + 32 * ((readAsked sHostB).host.cmdnext % 2 ^ fld (readAsked
    sHostB).host.cmdring 0 5) ∨ fld (readAsked sHostB).host.cmdring 12 27 * 4096 + 32 * ((readAsked
    sHostB).host.cmdnext % 2 ^ fld (readAsked sHostB).host.cmdring 0 5) + 8 ≤ (20480 / 64 : ℕ) * 64)) ∧ (∃ (l : ℕ),
    (fun (l : ℕ) => l = (20480 / 64 : ℕ) * 2 ∨ l = (20480 / 64 : ℕ) * 2 + 1) l ∧ (dirAt (readAsked sHostB) l).host =
    true) ∧ (OwnFrames (readAsked sHostB)) ∧ (∀ (l : ℕ), (fun (l : ℕ) => l = (20480 / 64 : ℕ) * 2 ∨ l = (20480 / 64 :
    ℕ) * 2 + 1) l → (dirAt (readAsked sHostB) l).host = true → (dirAt (readAsked sHostB) l).reading = true) := by
  refine ⟨?_, ?_, ?_, ?_⟩
  · unfold Canonical MemOk; decide +kernel
  · exact ⟨0x5000 / 64 * 2, Or.inl rfl, by decide +kernel⟩
  · exact dec_own (fun _ => inferInstance) (by decide +kernel)
  · exact two_lines (20480 / 64) _ (by decide +kernel)

theorem witness_Hst_6_0 :
  ((Canonical bE) ∧ (bE.now = none)) ∧ (Tab.get 0 bE.inbound 3 = 0 ∨ Tab.get 0 bE.inbound 3 = 1 ∧ ∀ (m : ℕ),
    PeerKind.read 8 ≠ PeerKind.read m) := by
  refine ⟨?_, ?_⟩
  · unfold Canonical MemOk; decide +kernel
  · exact Or.inl (by decide +kernel)

theorem witness_Hst_6_1 :
  ((Canonical sWr) ∧ (sWr.now = none)) ∧ (2 ≤ Tab.get 0 sWr.inbound 3 ∨ Tab.get 0 sWr.inbound 3 = 1 ∧ ∃ (m : ℕ),
    PeerKind.read 8 = PeerKind.read m) ∧ (dramTop < dramTop + PeerKind.size (PeerKind.read 8) ∨ homeFenced sWr
    (sliceOfPa dramTop) = true ∨ (∀ (m : ℕ), PeerKind.read 8 ≠ PeerKind.read m) ∧ ∃ (port : ℕ), List.head? (peerPorts
    sWr 3) = some port ∧ (fun (l : ℕ) => routeFenced sWr (ioUnit (ioOfLink l)) (homeUnit (sliceOfPa dramTop)) = true)
    (9 + port)) := by
  refine ⟨?_, ?_, ?_⟩
  · unfold Canonical MemOk; decide +kernel
  · exact Or.inl (by decide +kernel)
  · exact Or.inl (by decide +kernel)

theorem witness_Hst_6_2 :
  ((Canonical sRd) ∧ (sRd.now = none) ∧ (1 ≤ Tab.get 0 sRd.inbound 3) ∧ (PeerKind.read 8 = PeerKind.read 8)) ∧ (20480
    + PeerKind.size (PeerKind.read 8) ≤ dramTop ∧ homeFenced sRd (sliceOfPa 20480) = false ∧ ∀ (l : ℕ), 20480 < l * 32
    + 32 → l * 32 < 20480 + PeerKind.size (PeerKind.read 8) → PlainLine sRd (sliceOfPa (l * 32)) l) ∧ (∀ (w : ℕ),
    20480 < w * 8 + 8 → w * 8 < 20480 + PeerKind.size (PeerKind.read 8) → w ∉ sRd.poison) := by
  refine ⟨?_, ?_, ?_⟩
  · unfold Canonical MemOk; decide +kernel
  · exact ⟨by decide +kernel, by decide +kernel, one_line _ _ _ (by decide +kernel) (by decide +kernel) (by decide +kernel)⟩
  · exact one_word _ _ _ (by decide +kernel) (by decide +kernel)

theorem witness_Hst_6_3 :
  ((Canonical sWr) ∧ (sWr.now = none) ∧ (2 ≤ Tab.get 0 sWr.inbound 3) ∧ (PeerKind.write [(1 : Byte), (2 : Byte)] =
    PeerKind.write [(1 : Byte), (2 : Byte)]) ∧ ([(1 : Byte), (2 : Byte)] ≠ [])) ∧ (¬((∀ (m : ℕ), PeerKind.write [(1 :
    Byte), (2 : Byte)] ≠ PeerKind.read m) ∧ ∃ (port : ℕ), List.head? (peerPorts sWr 3) = some port ∧ (fun (l : ℕ) =>
    routeFenced sWr (ioUnit (ioOfLink l)) (homeUnit (sliceOfPa 20480)) = true) (9 + port))) ∧ (20480 + PeerKind.size
    (PeerKind.write [(1 : Byte), (2 : Byte)]) ≤ dramTop ∧ homeFenced sWr (sliceOfPa 20480) = false ∧ ∀ (l : ℕ), 20480
    < l * 32 + 32 → l * 32 < 20480 + PeerKind.size (PeerKind.write [(1 : Byte), (2 : Byte)]) → PlainLine sWr
    (sliceOfPa (l * 32)) l) ∧ (∀ (w : ℕ), 20480 < w * 8 + 8 → w * 8 < 20480 + PeerKind.size (PeerKind.write [(1 :
    Byte), (2 : Byte)]) → w ∉ sWr.poison) := by
  refine ⟨?_, ?_, ?_, ?_⟩
  · unfold Canonical MemOk; decide +kernel
  · exact not_barred _ _ _ _ (by decide +kernel)
  · exact ⟨by decide +kernel, by decide +kernel, one_line _ _ _ (by decide +kernel) (by decide +kernel) (by decide +kernel)⟩
  · exact one_word _ _ _ (by decide +kernel) (by decide +kernel)

theorem witness_Hst_6_4 :
  ((Canonical sWr) ∧ (sWr.now = none) ∧ (2 ≤ Tab.get 0 sWr.inbound 3) ∧ (PeerKind.amo AmoOp.add (5 : Word) =
    PeerKind.amo AmoOp.add (5 : Word))) ∧ (¬((∀ (m : ℕ), PeerKind.amo AmoOp.add (5 : Word) ≠ PeerKind.read m) ∧ ∃
    (port : ℕ), List.head? (peerPorts sWr 3) = some port ∧ (fun (l : ℕ) => routeFenced sWr (ioUnit (ioOfLink l))
    (homeUnit (sliceOfPa 20480)) = true) (9 + port))) ∧ (20480 + PeerKind.size (PeerKind.amo AmoOp.add (5 : Word)) ≤
    dramTop ∧ homeFenced sWr (sliceOfPa 20480) = false ∧ ∀ (l : ℕ), 20480 < l * 32 + 32 → l * 32 < 20480 +
    PeerKind.size (PeerKind.amo AmoOp.add (5 : Word)) → PlainLine sWr (sliceOfPa (l * 32)) l) ∧ (∀ (w : ℕ), 20480 < w
    * 8 + 8 → w * 8 < 20480 + PeerKind.size (PeerKind.amo AmoOp.add (5 : Word)) → w ∉ sWr.poison) := by
  refine ⟨?_, ?_, ?_, ?_⟩
  · unfold Canonical MemOk; decide +kernel
  · exact not_barred _ _ _ _ (by decide +kernel)
  · exact ⟨by decide +kernel, by decide +kernel, one_line _ _ _ (by decide +kernel) (by decide +kernel) (by decide +kernel)⟩
  · exact one_word _ _ _ (by decide +kernel) (by decide +kernel)

theorem witness_Hst_6_5 :
  ((Canonical sWr) ∧ (sWr.now = none) ∧ (2 ≤ Tab.get 0 sWr.inbound 3) ∧ (PeerKind.cas 8 (153 : Word) (7 : Word) =
    PeerKind.cas 8 (153 : Word) (7 : Word))) ∧ (¬((∀ (m : ℕ), PeerKind.cas 8 (153 : Word) (7 : Word) ≠ PeerKind.read
    m) ∧ ∃ (port : ℕ), List.head? (peerPorts sWr 3) = some port ∧ (fun (l : ℕ) => routeFenced sWr (ioUnit (ioOfLink
    l)) (homeUnit (sliceOfPa 20480)) = true) (9 + port))) ∧ (20480 + PeerKind.size (PeerKind.cas 8 (153 : Word) (7 :
    Word)) ≤ dramTop ∧ homeFenced sWr (sliceOfPa 20480) = false ∧ ∀ (l : ℕ), 20480 < l * 32 + 32 → l * 32 < 20480 +
    PeerKind.size (PeerKind.cas 8 (153 : Word) (7 : Word)) → PlainLine sWr (sliceOfPa (l * 32)) l) ∧ (∀ (w : ℕ), 20480
    < w * 8 + 8 → w * 8 < 20480 + PeerKind.size (PeerKind.cas 8 (153 : Word) (7 : Word)) → w ∉ sWr.poison) := by
  refine ⟨?_, ?_, ?_, ?_⟩
  · unfold Canonical MemOk; decide +kernel
  · exact not_barred _ _ _ _ (by decide +kernel)
  · exact ⟨by decide +kernel, by decide +kernel, one_line _ _ _ (by decide +kernel) (by decide +kernel) (by decide +kernel)⟩
  · exact one_word _ _ _ (by decide +kernel) (by decide +kernel)

end Sys2Proof.Tests.Events
end

