-- ==== Sys2Proof/Tests/Vectors.lean ====
section
/-!
SUPPORT. Witnesses: machines that meet the hypotheses of the statements on queue names and on vectors.
-/
namespace Sys2Proof.Tests.Vectors

open Sys2Proof Sys2Proof.Machine Sys2Proof.Safety Sys2Proof.Tests
open Sys2Proof.Tests.Shared (th0 s0 base m0)

set_option Elab.async false
set_option maxRecDepth 8000
set_option synthInstance.maxSize 1024

/-- A pinned thread whose name q0 is bound to role queue 0, and its core with two words in that queue. -/
def thQ : Thread := { th0 with status := 11, binds := (Vector.replicate 4 none).setIfInBounds 0 (some 0) }
def sQ : State :=
  let s := m0 (run thQ)
  setCore s 0 { coreAt s 0 with roleq := (Vector.replicate 4 {}).setIfInBounds 0 { data := [3, 4] } }

/-- Operands that pass, seen from their value. -/
theorem operands_ok (ss : List Src) (d : Dst) (s : State) (vs : List Word)
    (h : (match operands ss d s with | .ok v => decide (v = vs) | .error _ => false) = true) : operands ss d s = .ok vs := by
  cases hx : operands ss d s with
  | ok v => rw [hx] at h; simp only [decide_eq_true_eq] at h; rw [h]
  | error e => rw [hx] at h; cases h

/-- A thread with numbers in v1 to v3, in mode round-to-nearest, and k1 with four lanes. -/
def thV : Thread := { th0 with
  vecs := ((th0.vecs.setIfInBounds 1 0x3F800000_00000001_FFFFFFFF_7F800001).setIfInBounds 2 0x40000000_80000000_00000002).setIfInBounds 3 0x3C003C00_00000000_00000010_00000020,
  fstat := 0 }
def sV : State := m0 (run thV)
/-- The same with the lanes given in k1. -/
def thK (m : BitVec 16) : Thread := { thV with k1 := m }
def sK (m : BitVec 16) : State := m0 (run (thK m))

/-- The elements of a vector load from the own scratchpad, of a broadcast and of a store. -/
def eV : List Elem := match plan .read false true ((onList (mask thV 1) 32).map (fun e => (e, val thV 11 + BitVec.ofNat 64 (e * 4), 4))) sV with
  | .go l => l
  | _ => []
def eB : Elem := el (plan .read false true [(0, val thV 11, 4)] sV)
def eS : List Elem := match plan .write true true ((onList (mask thV 1) 32).map (fun e => (e, val thV 11 + BitVec.ofNat 64 (e * 4), 4))) sV with
  | .go l => l
  | _ => []
/-- A thread that names a format descriptor in the own scratchpad, one in rule at 0x400 and one out of rule at 0x800. -/
def thT (o : Nat) : Thread := { th0 with regs := (setReg 11 { st := .full, val := loc o } th0).regs }
def sT (o : Nat) : State := mem [(spadPa 0 0x400, 0x20)] (m0 (run (thT o)))

theorem checkCore_local (s t : State) (ctx p : Nat) (va : Word) (sz off : Nat) (h : region va = .local_ off) :
    checkCore t ctx p va sz = checkCore s ctx p va sz := by
  unfold checkCore
  simp only [h]

theorem cmpTrap_charge (s : State) (c n : Nat) (va : Word) (sz : Nat) (k : Acc) (h : cmpTrap s va sz k = none) :
    cmpTrap (charge c n s) va sz k = none := by
  unfold cmpTrap at *
  split
  · rfl
  · next hn =>
    have : (me (charge c n s)).noCmp = (me s).noCmp := rfl
    rw [if_neg (by rw [← this]; exact hn)] at h
    rw [Option.map_eq_none_iff] at h ⊢
    exact h

theorem stageWait_charge (s : State) (c n : Nat) (va : Word) (pa sz i : Nat) (k : Acc) (h : stageWait s va pa sz k i = none) :
    stageWait (charge c n s) va pa sz k i = none := by
  have e : ∀ a b, stagedCheck (charge c n s) a b sz k = stagedCheck s a b sz k := fun _ _ => rfl
  unfold stageWait at *
  by_cases hs : isSpad pa = true
  · simp only [hs, e] at h ⊢
    generalize stagedCheck s (spadPlace pa).1 (spadPlace pa).2 sz k = g at h ⊢
    cases g with
    | clear => rfl
    | prot b => simp at h
    | wait j => simp only [Bool.not_true, Bool.false_eq_true, if_false] at h; split at h <;> simp at h
  · simp [hs]

theorem check_charge (s : State) (c n core ctx p : Nat) (va : Word) (sz off : Nat) (k : Acc) (d : Bool)
    (h : region va = .local_ off) (h1 : isSpad (spadPa core off) = true) (h2 : spadPa core off < peerBase) :
    check (charge c n s) core ctx p va sz k d = check s core ctx p va sz k d := by
  have e1 : ∀ hm, homeFenced (charge c n s) hm = homeFenced s hm := fun _ => rfl
  have e2 : ∀ a b, routeFenced (charge c n s) a b = routeFenced s a b := fun _ _ => rfl
  have e3 : (charge c n s).poison = s.poison := rfl
  have h3 : ¬ peerBase ≤ spadPa core off := by omega
  have h4 : ¬ debugBase ≤ spadPa core off := by unfold debugBase; unfold peerBase at h2; omega
  have e4 : ∀ hm, tagRefuses (charge c n s) hm (spadPa core off) = tagRefuses s hm (spadPa core off) := by
    intro hm; simp only [tagRefuses, h1, if_true]
  have e5 : ∀ w, checkHome (charge c n s) va (spadPa core off) k d w = checkHome s va (spadPa core off) k d w := by
    intro w; simp only [checkHome, poisoned, e1, e3, e4]; rfl
  have e6 : ∀ q, q = spadPa core off → routeChk (charge c n s) core va q k = routeChk s core va q k := by
    intro q hq; subst hq; simp only [routeChk, h3, h4, if_false, e2]
  unfold check check.place
  simp only [h, checkCore_local s (charge c n s) ctx p va sz off h, e5]
  split
  · rfl
  · have hk : ∀ w q, checkHome s va (spadPa core off) k d w = .ok q → q = spadPa core off := by
      intro w q hq
      unfold checkHome at hq
      simp only at hq
      split at hq
      · cases hq
      · split at hq
        · cases hq
        · split at hq
          · cases hq
          · cases hq; rfl
    split
    · next q hq => exact e6 q (hk _ q hq)
    · rfl

/-- Every element lies in the own scratchpad. -/
def allLocal (s : State) (els : List (Nat × Word × Nat)) : Bool :=
  els.all (fun e => match region e.2.1 with
    | .local_ off => isSpad (spadPa (myCore s) off) && decide (spadPa (myCore s) off < peerBase)
    | _ => false)

theorem local_of {s : State} {els : List (Nat × Word × Nat)} (h : allLocal s els = true) (e : Nat × Word × Nat) (he : e ∈ els) :
    ∃ off, region e.2.1 = .local_ off ∧ isSpad (spadPa (myCore s) off) = true ∧ spadPa (myCore s) off < peerBase := by
  have := List.all_eq_true.mp h e he
  revert this
  cases region e.2.1 with
  | local_ off => intro h; exact ⟨off, rfl, by simpa using h⟩
  | _ => intro h; cases h

theorem planFrom_charge (s : State) (c n : Nat) (k : Acc) (d : Bool) (l : List Elem) (els : List (Nat × Word × Nat)) :
    ∀ acc, allLocal s els = true → planFrom k d s els acc = .go l → planFrom k d (charge c n s) els acc = .go l := by
  induction els with
  | nil => intro acc _ h; exact h
  | cons x rest ih =>
    obtain ⟨i, va, size⟩ := x
    intro acc hl h
    obtain ⟨off, h0, h1, h2⟩ := local_of hl (i, va, size) (by simp)
    have hc := check_charge s c n (myCore s) (me s).ctx (privOf (me s)) va size off k d h0 h1 h2
    unfold planFrom at h ⊢
    have e1 : me (charge c n s) = me s := rfl
    have e2 : myCore (charge c n s) = myCore s := rfl
    simp only [e1, e2, hc] at h ⊢
    split at h
    · cases h
    · cases h
    · next pa hpa =>
      split at h
      · cases h
      · next hw =>
        simp only [stageWait_charge s c n va pa size i k hw]
        exact ih _ (List.all_eq_true.mpr (fun e he => List.all_eq_true.mp hl e (by simp [he]))) h

/-- Elements in the own scratchpad lie in no window. -/
theorem windowOf_local (s t : State) {els : List (Nat × Word × Nat)} (hl : allLocal s els = true) :
    windowOf t (els.map (fun e => e.2.1)) = none := by
  unfold windowOf
  simp only
  split
  · cases els with
    | nil => rfl
    | cons x rest =>
      obtain ⟨off, h0, _⟩ := local_of hl x (by simp)
      simp only [List.map_cons, h0]
  · rfl

/-- A plan over the own scratchpad does not depend on what has been charged. -/
theorem plan_charge (s : State) (c n : Nat) (k : Acc) (d m : Bool) (els : List (Nat × Word × Nat)) (l : List Elem)
    (hl : allLocal s els = true) (h : plan k d m els s = .go l) : plan k d m els (charge c n s) = .go l := by
  unfold plan at h ⊢
  have e1 : me (charge c n s) = me s := rfl
  split at h
  · cases h
  · next hn =>
    have hn' : els.findSome? (fun e => cmpTrap (charge c n s) e.2.1 e.2.2 k) = none := by
      rw [List.findSome?_eq_none_iff] at hn ⊢
      exact fun x hx => cmpTrap_charge s c n _ _ _ (hn x hx)
    simp only [hn', e1]
    simp only at h
    split at h
    · split at h <;> cases h
    · next hk =>
      have hk' : els.findSome? (fun e =>
          (checkCore (charge c n s) (me s).ctx (privOf (me s)) e.2.1 e.2.2).map (fun c => (c, e))) = none := by
        rw [List.findSome?_eq_none_iff] at hk ⊢
        intro x hx
        obtain ⟨off, h0, _⟩ := local_of hl x hx
        have := hk x hx
        rw [Option.map_eq_none_iff] at this ⊢
        rw [checkCore_local s (charge c n s) _ _ _ _ off h0]; exact this
      simp only [hk']
      have hm : ∀ t, (if m = true then migratesTo t k els else none) = none := by
        intro t
        split
        · simp only [migratesTo, windowOf_local s t hl, Option.filter_none]
        · rfl
      simp only [hm] at h ⊢
      exact planFrom_charge s c n k d l els [] hl h

/-- The same of a table's lines in the own scratchpad. -/
theorem lines_charge (s : State) (th : Thread) (va : Word) (pa m : Nat) (h : ∀ j, j < m →
      allLocal s [(0, va + BitVec.ofNat 64 (32 * j), 32)] = true ∧
      check s (s.cur / 16) th.ctx (privOf th) (va + BitVec.ofNat 64 (32 * j)) 32 .read false = .ok (pa + 32 * j) ∧
      Local s (pa + 32 * j) ∧ stageWait s (va + BitVec.ofNat 64 (32 * j)) (pa + 32 * j) 32 .read 0 = none) :
    ∀ n j, j < m →
      check (charge th.ctx n s) (s.cur / 16) th.ctx (privOf th) (va + BitVec.ofNat 64 (32 * j)) 32 .read false =
        .ok (pa + 32 * j) ∧ Local s (pa + 32 * j) ∧
      stageWait (charge th.ctx n s) (va + BitVec.ofNat 64 (32 * j)) (pa + 32 * j) 32 .read 0 = none := by
  intro n j hj
  obtain ⟨h0, h1, h2, h3⟩ := h j hj
  obtain ⟨off, g0, g1, g2⟩ := local_of h0 _ (List.mem_singleton.mpr rfl)
  exact ⟨(check_charge s th.ctx n _ _ _ _ _ off _ _ g0 g1 g2).trans h1, h2, stageWait_charge s _ n _ _ _ _ _ h3⟩

/-- A core without comparators. -/
theorem no_cmps (v : Vector (Word × Word) 4) (h : v = Vector.replicate 4 (0, 0)) :
    ∀ j : Nat, v[j]?.getD (0, 0) = ((0, 0) : Word × Word) := by
  subst h
  intro j
  by_cases hj : j < 4
  · rw [Vector.getElem?_eq_getElem hj, Vector.getElem_replicate]; rfl
  · rw [Vector.getElem?_eq_none (by omega)]; rfl

theorem witness_RegisterStates_1_0 :
  ((threadAt sQ sQ.cur = some thQ) ∧ ((src (9 : BitVec 5) (0 : BitVec 2)).r < 28)) ∧ (operands [src (9 : BitVec 5) (0
    : BitVec 2), src (28 : BitVec 5) (0 : BitVec 2)] (Dst.reg 8) sQ = Except.ok [(7 : Word), (3 : Word)]) := by
  refine ⟨?_, ?_⟩
  · decide +kernel
  · exact operands_ok _ _ _ _ (by decide +kernel)

theorem witness_RegisterStates_1_1 :
  ((threadAt sQ sQ.cur = some thQ) ∧ ((src (9 : BitVec 5) (2 : BitVec 2)).r < 28)) ∧ (operands [src (28 : BitVec 5) (0
    : BitVec 2), src (9 : BitVec 5) (2 : BitVec 2)] (Dst.reg 8) sQ = Except.ok [(3 : Word), (7 : Word)]) := by
  refine ⟨?_, ?_⟩
  · decide +kernel
  · exact operands_ok _ _ _ _ (by decide +kernel)

theorem witness_RegisterStates_1_2 :
  ((threadAt sQ sQ.cur = some thQ) ∧ (28 ≤ (src (28 : BitVec 5) (0 : BitVec 2)).r)) ∧ (operands [src (28 : BitVec 5)
    (0 : BitVec 2), src (9 : BitVec 5) (2 : BitVec 2)] (Dst.reg 8) sQ = Except.ok [(3 : Word), (7 : Word)]) := by
  refine ⟨?_, ?_⟩
  · decide +kernel
  · exact operands_ok _ _ _ _ (by decide +kernel)

theorem witness_RegisterStates_1_3 :
  ((threadAt sQ sQ.cur = some thQ) ∧ (28 ≤ (src (28 : BitVec 5) (0 : BitVec 2)).r)) ∧ (operands [src (28 : BitVec 5)
    (0 : BitVec 2), src (28 : BitVec 5) (0 : BitVec 2)] (Dst.reg 8) sQ = Except.ok [(3 : Word), (4 : Word)]) := by
  refine ⟨?_, ?_⟩
  · decide +kernel
  · exact operands_ok _ _ _ _ (by decide +kernel)

theorem witness_QueueNamesPopAndPush :
  ((Canonical sQ) ∧ (Executing sQ thQ) ∧ (BitVec.toNat (0 : BitVec 2) ≤ 2) ∧ (BitVec.toNat (2 : BitVec 2) ≤ 2)) ∧
    (twoSource (Instr.add (8 : BitVec 5) (28 : BitVec 5) (9 : BitVec 5) (0 : BitVec 2) (2 : BitVec 2)) = some ((8 :
    BitVec 5), (28 : BitVec 5), (9 : BitVec 5), (0 : BitVec 2), (2 : BitVec 2), fun (x y : Word) => x + y)) ∧
    (operands [src (28 : BitVec 5) (0 : BitVec 2), src (9 : BitVec 5) (2 : BitVec 2)] (Dst.reg (BitVec.toNat (8 :
    BitVec 5))) sQ = Except.ok [(3 : Word), (7 : Word)]) ∧ (∀ (qid : ℕ), 28 ≤ BitVec.toNat (8 : BitVec 5) → boundTo
    thQ (BitVec.toNat (8 : BitVec 5)) = some qid → 20 ≤ qid → qid < 24 → fld ((fun (x y : Word) => x + y) (3 : Word)
    (7 : Word)) 59 3 = 0) := by
  refine ⟨?_, ?_, ?_, ?_⟩
  · unfold Canonical MemOk Executing; decide +kernel
  · rfl
  · exact operands_ok _ _ _ _ (by decide +kernel)
  · intro _ h; exact absurd h (by decide)

theorem witness_VectorResults_0 :
  ((Canonical sV) ∧ (Executing sV thV) ∧ (Visible sV [(4 : BitVec 5), (1 : BitVec 5), (2 : BitVec 5)])) ∧ (vecRow
    (Instr.vadd (4 : BitVec 5) (1 : BitVec 5) (2 : BitVec 5) (1 : BitVec 2) (2 : BitVec 3)) = some ((4 : BitVec 5),
    [(1 : BitVec 5), (2 : BitVec 5)], (1 : BitVec 2), (2 : BitVec 3), false, ((1 : BitVec 5), (2 : BitVec 5)), fun (x
    : BitVec 16) (A B x_1 : ℕ → ℕ) (e : ℕ) => A e + B e)) := by
  refine ⟨?_, ?_⟩
  · unfold Canonical MemOk Executing Visible; decide +kernel
  · rfl

theorem witness_VectorResults_1 :
  ((Canonical sV) ∧ (threadAt sV sV.cur = some thV) ∧ (¬Visible sV [(8 : BitVec 5), (1 : BitVec 5), (2 : BitVec 5)]))
    ∧ (vecRow (Instr.vand (8 : BitVec 5) (1 : BitVec 5) (2 : BitVec 5) (1 : BitVec 2) (2 : BitVec 3)) = some ((8 :
    BitVec 5), [(1 : BitVec 5), (2 : BitVec 5)], (1 : BitVec 2), (2 : BitVec 3), false, ((1 : BitVec 5), (2 : BitVec
    5)), fun (x : BitVec 16) (A B x_1 : ℕ → ℕ) (e : ℕ) => A e &&& B e)) := by
  refine ⟨?_, ?_⟩
  · unfold Canonical MemOk Visible; decide +kernel
  · rfl

theorem witness_FloatResults :
  ((Canonical sV) ∧ (Executing sV thV) ∧ (Visible sV [(4 : BitVec 5), (1 : BitVec 5), (2 : BitVec 5)]) ∧ ((6 : BitVec
    3) = (4 : BitVec 3) ∨ (6 : BitVec 3) = (5 : BitVec 3) ∨ (6 : BitVec 3) = (6 : BitVec 3))) ∧ (floatRow (Instr.vfadd
    (4 : BitVec 5) (1 : BitVec 5) (2 : BitVec 5) (1 : BitVec 2) (6 : BitVec 3)) = some ((4 : BitVec 5), [(1 : BitVec
    5), (2 : BitVec 5)], (1 : BitVec 2), (6 : BitVec 3), false, fun (m : ℕ) (vs : List FVal) => fAdd m (val0 vs) (val1
    vs))) := by
  refine ⟨?_, ?_⟩
  · unfold Canonical MemOk Executing Visible; decide +kernel
  · rfl

theorem witness_ConversionResults_0 :
  (Canonical sV) ∧ (Executing sV thV) ∧ (Instr.wellFormed (Instr.vcvt (4 : BitVec 5) (1 : BitVec 5) (0 : BitVec 2) (4
    : BitVec 3) (1 : BitVec 2) (6 : BitVec 3)) = true) ∧ (Visible sV [(4 : BitVec 5), (1 : BitVec 5)]) := by
  unfold Canonical MemOk Executing Visible; decide +kernel

theorem witness_ConversionResults_1 :
  (Canonical sV) ∧ (Executing sV thV) ∧ ((6 : BitVec 3) = (4 : BitVec 3) ∨ (6 : BitVec 3) = (5 : BitVec 3) ∨ (6 :
    BitVec 3) = (6 : BitVec 3)) ∧ (Visible sV [(4 : BitVec 5), (1 : BitVec 5)]) := by
  unfold Canonical MemOk Executing Visible; decide +kernel

theorem witness_ConversionResults_2 :
  (Canonical sV) ∧ (Executing sV thV) ∧ ((6 : BitVec 3) = (4 : BitVec 3) ∨ (6 : BitVec 3) = (5 : BitVec 3) ∨ (6 :
    BitVec 3) = (6 : BitVec 3)) ∧ (Visible sV [(4 : BitVec 5), (1 : BitVec 5)]) ∧ (packedCode (0 : BitVec 5) ≠ 32 ∨
    (Option.getD (coreAt sV (sV.cur / 16)).banks[fld thV.fstat 16 2]? (Bank.mk [] 0 false)).encodable = true) := by
  unfold Canonical MemOk Executing Visible; decide +kernel

theorem witness_ConversionResults_3 :
  (Canonical sV) ∧ (Executing sV thV) ∧ ((6 : BitVec 3) = (4 : BitVec 3) ∨ (6 : BitVec 3) = (5 : BitVec 3) ∨ (6 :
    BitVec 3) = (6 : BitVec 3)) ∧ (Visible sV [(4 : BitVec 5), (1 : BitVec 5), (2 : BitVec 5)]) := by
  unfold Canonical MemOk Executing Visible; decide +kernel

theorem witness_VectorComparesAndMoves_0_0 :
  ((Canonical sV) ∧ (Executing sV thV) ∧ (Visible sV [(1 : BitVec 5), (2 : BitVec 5)])) ∧ (compareRow (Instr.vcmpLtu
    (2 : BitVec 2) (1 : BitVec 5) (2 : BitVec 5) (1 : BitVec 2) (2 : BitVec 3)) = some ((2 : BitVec 2), (1 : BitVec
    5), (2 : BitVec 5), (1 : BitVec 2), (2 : BitVec 3), fun (x y : ℕ) => decide (x < y))) := by
  refine ⟨?_, ?_⟩
  · unfold Canonical MemOk Executing Visible; decide +kernel
  · rfl

theorem witness_VectorComparesAndMoves_0_1 :
  (floatCompareRow (Instr.vfcmpLt (2 : BitVec 2) (1 : BitVec 5) (2 : BitVec 5) (1 : BitVec 2) (6 : BitVec 3)) = some
    ((2 : BitVec 2), (1 : BitVec 5), (2 : BitVec 5), (1 : BitVec 2), (6 : BitVec 3), 1)) ∧ (Canonical sV) ∧ (Executing
    sV thV) ∧ (Visible sV [(1 : BitVec 5), (2 : BitVec 5)]) ∧ ((6 : BitVec 3) = (4 : BitVec 3) ∨ (6 : BitVec 3) = (5 :
    BitVec 3) ∨ (6 : BitVec 3) = (6 : BitVec 3)) := by
  unfold Canonical MemOk Executing Visible; decide +kernel

theorem witness_VectorComparesAndMoves_1_0 :
  ((Canonical sV) ∧ (Executing sV thV) ∧ (Visible sV [(1 : BitVec 5)]) ∧ (Writable thV (BitVec.toNat (9 : BitVec 5))))
    ∧ (reduceRow (Instr.vredadd (9 : BitVec 5) (1 : BitVec 5) (1 : BitVec 2) (2 : BitVec 3)) = some ((9 : BitVec 5),
    (1 : BitVec 5), (1 : BitVec 2), (2 : BitVec 3), fun (xs : List ℕ) => BitVec.ofInt 64 (List.sum (List.map (signedOf
    (width (2 : BitVec 3))) xs)))) := by
  refine ⟨?_, ?_⟩
  · unfold Canonical MemOk Executing Writable Visible; decide +kernel
  · rfl

theorem witness_VectorComparesAndMoves_1_1 :
  (Canonical sV) ∧ (Executing sV thV) ∧ ((6 : BitVec 3) = (4 : BitVec 3) ∨ (6 : BitVec 3) = (5 : BitVec 3) ∨ (6 :
    BitVec 3) = (6 : BitVec 3)) ∧ (Visible sV [(1 : BitVec 5)]) ∧ (Writable thV (BitVec.toNat (9 : BitVec 5))) := by
  unfold Canonical MemOk Executing Writable Visible; decide +kernel

theorem witness_VectorComparesAndMoves_1_1_n :
  (Canonical (sK (6 : BitVec 16))) ∧ (Executing (sK (6 : BitVec 16)) (thK (6 : BitVec 16))) ∧ ((6 : BitVec 3) = (4 :
    BitVec 3) ∨ (6 : BitVec 3) = (5 : BitVec 3) ∨ (6 : BitVec 3) = (6 : BitVec 3)) ∧ (Visible (sK (6 : BitVec 16)) [(2
    : BitVec 5)]) ∧ (Writable (thK (6 : BitVec 16)) (BitVec.toNat (9 : BitVec 5))) := by
  unfold Canonical MemOk Executing Writable Visible; decide +kernel

theorem witness_VectorComparesAndMoves_1_2_0 :
  (Canonical (sK (0 : BitVec 16))) ∧ (Executing (sK (0 : BitVec 16)) (thK (0 : BitVec 16))) ∧ ((6 : BitVec 3) = (4 :
    BitVec 3) ∨ (6 : BitVec 3) = (5 : BitVec 3) ∨ (6 : BitVec 3) = (6 : BitVec 3)) ∧ (Visible (sK (0 : BitVec 16)) [(1
    : BitVec 5)]) ∧ (Writable (thK (0 : BitVec 16)) (BitVec.toNat (9 : BitVec 5))) ∧ (mask (thK (0 : BitVec 16)) (1 :
    BitVec 2) = (0 : BitVec 16)) := by
  unfold Canonical MemOk Executing Writable Visible; decide +kernel

theorem witness_VectorComparesAndMoves_1_2_1 :
  (Canonical (sK (8 : BitVec 16))) ∧ (Executing (sK (8 : BitVec 16)) (thK (8 : BitVec 16))) ∧ ((6 : BitVec 3) = (4 :
    BitVec 3) ∨ (6 : BitVec 3) = (5 : BitVec 3) ∨ (6 : BitVec 3) = (6 : BitVec 3)) ∧ (Visible (sK (8 : BitVec 16)) [(1
    : BitVec 5)]) ∧ (Writable (thK (8 : BitVec 16)) (BitVec.toNat (9 : BitVec 5))) ∧ (3 < 16) ∧ (width (6 : BitVec 3)
    = 32) ∧ (∀ l < 16, BitVec.getLsbD (mask (thK (8 : BitVec 16)) (1 : BitVec 2)) l = decide (l = 3)) ∧ (isSubnormal
    (fmtOf (6 : BitVec 3)) (elem (vreg (thK (8 : BitVec 16)) (1 : BitVec 5)) 32 3) = false) := by
  unfold Canonical MemOk Executing Writable Visible; decide +kernel

theorem witness_VectorComparesAndMoves_1_2_2 :
  (Canonical (sK (6 : BitVec 16))) ∧ (Executing (sK (6 : BitVec 16)) (thK (6 : BitVec 16))) ∧ ((6 : BitVec 3) = (4 :
    BitVec 3) ∨ (6 : BitVec 3) = (5 : BitVec 3) ∨ (6 : BitVec 3) = (6 : BitVec 3)) ∧ (Visible (sK (6 : BitVec 16)) [(2
    : BitVec 5)]) ∧ (Writable (thK (6 : BitVec 16)) (BitVec.toNat (9 : BitVec 5))) ∧ (1 < 2) ∧ (2 < 16) ∧ (width (6 :
    BitVec 3) = 32) ∧ (∀ l < 16, BitVec.getLsbD (mask (thK (6 : BitVec 16)) (1 : BitVec 2)) l = decide (l = 1 ∨ l =
    2)) ∧ ((roundOnce (fmtOf (6 : BitVec 3)) (fld (thK (6 : BitVec 16)).fstat 0 2) [elem (vreg (thK (6 : BitVec 16))
    (2 : BitVec 5)) 32 1, elem (vreg (thK (6 : BitVec 16)) (2 : BitVec 5)) 32 2] fun (m : ℕ) (vs : List FVal) => fAdd
    m (Option.getD vs[0]? (FVal.fin false 0 (0 : ℤ))) (Option.getD vs[1]? (FVal.fin false 0 (0 : ℤ)))).2.2 = false) := by
  unfold Canonical MemOk Executing Writable Visible; decide +kernel

theorem witness_VectorComparesAndMoves_1_3 :
  (Canonical sV) ∧ (Executing sV thV) ∧ (Visible sV [(1 : BitVec 5)]) ∧ (ReadyNow thV (srcP (9 : BitVec 5))) ∧
    (Writable thV (BitVec.toNat (8 : BitVec 5))) := by
  unfold Canonical MemOk Executing ReadyNow Writable Visible; decide +kernel

theorem witness_VectorComparesAndMoves_1_4 :
  (Canonical sV) ∧ (Executing sV thV) ∧ (Visible sV [(4 : BitVec 5)]) ∧ (ReadyNow thV (srcP (9 : BitVec 5))) := by
  unfold Canonical MemOk Executing ReadyNow Visible; decide +kernel

theorem witness_VectorComparesAndMoves_1_5 :
  (Canonical sV) ∧ (Executing sV thV) ∧ (Visible sV [(4 : BitVec 5)]) ∧ (ReadyNow thV (srcP (10 : BitVec 5))) ∧
    (ReadyNow thV (srcP (9 : BitVec 5))) := by
  unfold Canonical MemOk Executing ReadyNow Visible; decide +kernel

theorem witness_VectorComparesAndMoves_1_6 :
  (Canonical sV) ∧ (Executing sV thV) ∧ (Visible sV [(4 : BitVec 5), (1 : BitVec 5)]) ∧ (ReadyNow thV (srcP (9 :
    BitVec 5))) := by
  unfold Canonical MemOk Executing ReadyNow Visible; decide +kernel

theorem witness_VectorLoadsAndStores_0_0 :
  ((Canonical sV) ∧ (Executing sV thV) ∧ (thV.acqOut = 0) ∧ (Visible sV [(4 : BitVec 5)]) ∧ (∀ r ∈ [(11 : BitVec 5)],
    ReadyNow thV (srcP r)) ∧ (∀ e ∈ eV, Local sV e.pa)) ∧ (vecLoadRow (Instr.vld (4 : BitVec 5) (11 : BitVec 5) (1 :
    BitVec 2) (2 : BitVec 3)) = some ((4 : BitVec 5), [(11 : BitVec 5)], [], (1 : BitVec 2), (2 : BitVec 3), fun (th :
    Thread) (e : ℕ) => val th (11 : BitVec 5) + BitVec.ofNat 64 (e * (width (2 : BitVec 3) / 8)))) ∧ (∀ (n : ℕ), plan
    Acc.read false true (List.map (fun (e : ℕ) => (e, (fun (th : Thread) (e : ℕ) => val th (11 : BitVec 5) +
    BitVec.ofNat 64 (e * (width (2 : BitVec 3) / 8))) thV e, width (2 : BitVec 3) / 8)) (onList (mask thV (1 : BitVec
    2)) (width (2 : BitVec 3)))) (charge thV.ctx n sV) = Plan.go eV) := by
  refine ⟨?_, ?_, ?_⟩
  · unfold Canonical MemOk Executing ReadyNow Local Visible; decide +kernel
  · rfl
  · exact fun n => plan_charge _ _ n _ _ _ _ _ (by decide +kernel) (by decide +kernel)

theorem witness_VectorLoadsAndStores_0_1 :
  ((Canonical sV) ∧ (Executing sV thV) ∧ (thV.acqOut = 0) ∧ (Visible sV [(4 : BitVec 5)]) ∧ (ReadyNow thV (srcP (11 :
    BitVec 5))) ∧ (onList (mask thV (1 : BitVec 2)) (width (2 : BitVec 3)) = [0, 4, 5, 6, 7]) ∧ (Local sV eB.pa)) ∧ (∀
    (n : ℕ), plan Acc.read false true [(0, val thV (11 : BitVec 5), width (2 : BitVec 3) / 8)] (charge thV.ctx n sV) =
    Plan.go [eB]) := by
  refine ⟨?_, ?_⟩
  · unfold Canonical MemOk Executing ReadyNow Local Visible; decide +kernel
  · exact fun n => plan_charge _ _ n _ _ _ _ _ (by decide +kernel) (by decide +kernel)

theorem witness_VectorLoadsAndStores_0_2 :
  ((Canonical sV) ∧ (Executing sV thV) ∧ (thV.acqOut = 0) ∧ (Visible sV [(4 : BitVec 5)]) ∧ (∀ r ∈ [(11 : BitVec 5)],
    ReadyNow thV (srcP r)) ∧ (∀ e ∈ eS, Local sV e.pa ∧ region e.va ≠ Region.paged)) ∧ (vecStoreRow (Instr.vst (4 :
    BitVec 5) (11 : BitVec 5) (1 : BitVec 2) (2 : BitVec 3)) = some ((4 : BitVec 5), [(11 : BitVec 5)], [], (1 :
    BitVec 2), (2 : BitVec 3), fun (th : Thread) (e : ℕ) => val th (11 : BitVec 5) + BitVec.ofNat 64 (e * (width (2 :
    BitVec 3) / 8)))) ∧ (∀ (n : ℕ), plan Acc.write true true (List.map (fun (e : ℕ) => (e, (fun (th : Thread) (e : ℕ)
    => val th (11 : BitVec 5) + BitVec.ofNat 64 (e * (width (2 : BitVec 3) / 8))) thV e, width (2 : BitVec 3) / 8))
    (onList (mask thV (1 : BitVec 2)) (width (2 : BitVec 3)))) (charge thV.ctx n sV) = Plan.go eS) := by
  refine ⟨?_, ?_, ?_⟩
  · unfold Canonical MemOk Executing ReadyNow Local Visible; decide +kernel
  · rfl
  · exact fun n => plan_charge _ _ n _ _ _ _ _ (by decide +kernel) (by decide +kernel)

theorem witness_VectorLoadsAndStores_1_0 :
  ((Canonical (sT 1024)) ∧ (Executing (sT 1024) (thT 1024)) ∧ ((thT 1024).acqOut = 0) ∧ (ReadyNow (thT 1024) (srcP (11
    : BitVec 5))) ∧ (BitVec.toNat (val (thT 1024) (11 : BitVec 5)) % 64 = 0) ∧ (descFault (rdBytes (sT 1024) (spadPa 0
    1024) 1088) = none)) ∧ (∀ (j : ℕ), Option.getD (coreAt (sT 1024) ((sT 1024).cur / 16)).cmps[j]? ((0 : Word), (0 :
    Word)) = ((0 : Word), (0 : Word))) ∧ (∀ (n j : ℕ), j < 34 → check (charge (thT 1024).ctx n (sT 1024)) ((sT
    1024).cur / 16) (thT 1024).ctx (privOf (thT 1024)) (val (thT 1024) (11 : BitVec 5) + BitVec.ofNat 64 (32 * j)) 32
    Acc.read false = Chk.ok (spadPa 0 1024 + 32 * j) ∧ Local (sT 1024) (spadPa 0 1024 + 32 * j) ∧ stageWait (charge
    (thT 1024).ctx n (sT 1024)) (val (thT 1024) (11 : BitVec 5) + BitVec.ofNat 64 (32 * j)) (spadPa 0 1024 + 32 * j)
    32 Acc.read 0 = none) := by
  refine ⟨?_, ?_, ?_⟩
  · unfold Canonical MemOk Executing ReadyNow; decide +kernel
  · exact no_cmps _ (by decide +kernel)
  · exact lines_charge _ _ _ _ _ (by unfold Local; decide +kernel)

theorem witness_VectorLoadsAndStores_1_1 :
  ((Canonical (sT 2048)) ∧ (Executing (sT 2048) (thT 2048)) ∧ ((thT 2048).acqOut = 0) ∧ (ReadyNow (thT 2048) (srcP (11
    : BitVec 5))) ∧ (BitVec.toNat (val (thT 2048) (11 : BitVec 5)) % 64 = 0) ∧ (descFault (rdBytes (sT 2048) (spadPa 0
    2048) 1088) = some 0)) ∧ (∀ (j : ℕ), Option.getD (coreAt (sT 2048) ((sT 2048).cur / 16)).cmps[j]? ((0 : Word), (0
    : Word)) = ((0 : Word), (0 : Word))) ∧ (∀ (n j : ℕ), j < 34 → check (charge (thT 2048).ctx n (sT 2048)) ((sT
    2048).cur / 16) (thT 2048).ctx (privOf (thT 2048)) (val (thT 2048) (11 : BitVec 5) + BitVec.ofNat 64 (32 * j)) 32
    Acc.read false = Chk.ok (spadPa 0 2048 + 32 * j) ∧ Local (sT 2048) (spadPa 0 2048 + 32 * j) ∧ stageWait (charge
    (thT 2048).ctx n (sT 2048)) (val (thT 2048) (11 : BitVec 5) + BitVec.ofNat 64 (32 * j)) (spadPa 0 2048 + 32 * j)
    32 Acc.read 0 = none) := by
  refine ⟨?_, ?_, ?_⟩
  · unfold Canonical MemOk Executing ReadyNow; decide +kernel
  · exact no_cmps _ (by decide +kernel)
  · exact lines_charge _ _ _ _ _ (by unfold Local; decide +kernel)

end Sys2Proof.Tests.Vectors
end

