-- ==== Sys2Proof/Tests/Groups.lean ====
section
/-!
SUPPORT. Witnesses: machines that meet the hypotheses of the statements on groups and collectives.
-/
namespace Sys2Proof.Tests.Groups

open Sys2Proof Sys2Proof.Machine Sys2Proof.Safety Sys2Proof.Tests
open Sys2Proof.Tests.Shared (th0 s0 base m0)
open Sys2Proof.Tests.Vectors (no_cmps lines_charge)

set_option Elab.async false
set_option maxRecDepth 8000
set_option synthInstance.maxSize 1024

/-- Group 1 has logical cores 0 and 1, group 2 core 1 alone, group 3 core 0 alone; g14 to g16 name them, g9 none. The
descriptor g11 names adds one doubleword from 0x7000 into 0x7040. -/
def thG : Thread := base [(14, 1), (15, 2), (16, 3), (17, BitVec.ofNat 64 (1 + 1 * 2 ^ 8)), (18, BitVec.ofNat 64 (1 + 5 * 2 ^ 8)),
  (19, 0), (20, 1), (21, 2), (22, 3), (9, 9), (11, loc 0x400)]
def grpMem : List (Nat × Word) :=
  [(0x27040, BitVec.ofNat 64 (1 + 2 * 2 ^ 8)), (0x27080, BitVec.ofNat 64 (1 + 1 * 2 ^ 8)), (0x27088, 1),
   (0x270C0, BitVec.ofNat 64 (1 + 1 * 2 ^ 8)), (0x270C8, 0), (0x28000, 0x10000),
   (spadPa 0 0x408, lin 0x7000), (spadPa 0 0x410, lin 0x7040), (spadPa 0 0x418, 8)]
def sG : State := mem grpMem (m0 (run thG))
/-- A member's slot in the collective, and the collective with both members joined. -/
def slotC (st core : Nat) : CollSlot :=
  { used := true, st := st, group := 1, number := 1, src := lin 0x7000, dst := lin 0x7040, len := 8, priv := 3,
    th := some ⟨16 * core, 1, 5⟩ }
def coll (joined : List Nat) : Coll := { group := 1, number := 1, joined := joined }
def withColl (st : Nat) (c : Coll) (s : State) : State :=
  let s := setCore s 0 { coreAt s 0 with colls := (coreAt s 0).colls.setIfInBounds 0 (slotC st 0) }
  let s := setCore s 1 { coreAt s 1 with colls := (coreAt s 1).colls.setIfInBounds 0 (slotC st 1) }
  setCtx s 1 { ctxAt s 1 with colls := [c] }
def sDone : State := withColl 0 (coll [0, 1]) sG
def sBusy : State := withColl 1 (coll [0]) sG
def sJ : State := withColl 1 (coll [0, 1]) sG
def cBegun : Coll := { coll [0, 1] with begun := true }
def sBegun : State := withColl 1 cBegun sG
def cFinal : Coll := { cBegun with final := some [1, 2, 3, 4, 5, 6, 7, 8] }
def sFinal : State := withColl 1 cFinal sG
def cLost : Coll := { cBegun with lost := [1] }
def sLost : State := withColl 1 cLost sG
def cRep : Coll := { cBegun with repair := true }
def sRep : State := withColl 1 cRep sG
/-- Members whose descriptors differ. -/
def slotD : CollSlot := { slotC 1 1 with op := 0x100 }
def sDiff : State := setCore sJ 1 { coreAt sJ 1 with colls := (coreAt sJ 1).colls.setIfInBounds 0 slotD }
/-- A member with two chunks. -/
def slotL : CollSlot := { slotC 1 1 with len := 131072 }
def sLong : State := setCore sBegun 1 { coreAt sBegun 1 with colls := (coreAt sBegun 1).colls.setIfInBounds 0 slotL }

theorem witness_Group_0_0 :
  (Canonical sG) ∧ (Executing sG thG) ∧ (thG.acqOut = 0) ∧ (ReadyNow thG (src (9 : BitVec 5) (0 : BitVec 2))) ∧
    (Writable thG (BitVec.toNat (4 : BitVec 5))) ∧ (grpMembers sG thG.ctx (fld (val thG (9 : BitVec 5)) 0 8) = none) ∧
    (ReadyNow thG (src (19 : BitVec 5) (0 : BitVec 2))) ∧ (BitVec.toNat (val thG (19 : BitVec 5)) < 4) ∧ (BitVec.toNat
    (val thG (9 : BitVec 5)) < 2 ^ 8) := by
  unfold Canonical MemOk Executing ReadyNow Writable; decide +kernel

theorem witness_Group_0_1 :
  (Canonical sG) ∧ (Executing sG thG) ∧ (thG.acqOut = 0) ∧ (ReadyNow thG (src (9 : BitVec 5) (0 : BitVec 2))) ∧
    (Writable thG (BitVec.toNat (4 : BitVec 5))) ∧ (grpMembers sG thG.ctx (fld (val thG (9 : BitVec 5)) 0 8) = none) ∧
    (ReadyNow thG (src (19 : BitVec 5) (0 : BitVec 2))) ∧ (BitVec.toNat (val thG (19 : BitVec 5)) < 4) ∧ (BitVec.toNat
    (val thG (9 : BitVec 5)) < 2 ^ 8) := by
  unfold Canonical MemOk Executing ReadyNow Writable; decide +kernel

theorem witness_Group_1_0_0 :
  (Canonical sG) ∧ (Executing sG thG) ∧ (thG.acqOut = 0) ∧ (ReadyNow thG (src (14 : BitVec 5) (0 : BitVec 2))) ∧
    (Writable thG (BitVec.toNat (4 : BitVec 5))) ∧ (grpMembers sG thG.ctx (fld (val thG (14 : BitVec 5)) 0 8) = some
    [0, 1]) ∧ (ReadyNow thG (src (19 : BitVec 5) (0 : BitVec 2))) ∧ (val thG (19 : BitVec 5) = (0 : Word)) ∧
    (BitVec.toNat (val thG (14 : BitVec 5)) < 2 ^ 8) := by
  unfold Canonical MemOk Executing ReadyNow Writable; decide +kernel

theorem witness_Group_1_0_1 :
  (Canonical sG) ∧ (Executing sG thG) ∧ (thG.acqOut = 0) ∧ (ReadyNow thG (src (14 : BitVec 5) (0 : BitVec 2))) ∧
    (Writable thG (BitVec.toNat (4 : BitVec 5))) ∧ (grpMembers sG thG.ctx (fld (val thG (14 : BitVec 5)) 0 8) = some
    [0, 1]) ∧ (ReadyNow thG (src (20 : BitVec 5) (0 : BitVec 2))) ∧ (val thG (20 : BitVec 5) = (1 : Word)) ∧
    (BitVec.toNat (val thG (14 : BitVec 5)) < 2 ^ 8) := by
  unfold Canonical MemOk Executing ReadyNow Writable; decide +kernel

theorem witness_Group_1_0_2 :
  (Canonical sG) ∧ (Executing sG thG) ∧ (thG.acqOut = 0) ∧ (ReadyNow thG (src (17 : BitVec 5) (0 : BitVec 2))) ∧
    (Writable thG (BitVec.toNat (4 : BitVec 5))) ∧ (grpMembers sG thG.ctx (fld (val thG (17 : BitVec 5)) 0 8) = some
    [0, 1]) ∧ (ReadyNow thG (src (21 : BitVec 5) (0 : BitVec 2))) ∧ (val thG (21 : BitVec 5) = (2 : Word)) ∧
    (BitVec.toNat (val thG (17 : BitVec 5)) < 2 ^ 20) ∧ ([0, 1][fld (val thG (17 : BitVec 5)) 8 12]? = some 1) := by
  unfold Canonical MemOk Executing ReadyNow Writable; decide +kernel

theorem witness_Group_1_0_3 :
  (Canonical sG) ∧ (Executing sG thG) ∧ (thG.acqOut = 0) ∧ (ReadyNow thG (src (18 : BitVec 5) (0 : BitVec 2))) ∧
    (Writable thG (BitVec.toNat (4 : BitVec 5))) ∧ (grpMembers sG thG.ctx (fld (val thG (18 : BitVec 5)) 0 8) = some
    [0, 1]) ∧ (ReadyNow thG (src (21 : BitVec 5) (0 : BitVec 2))) ∧ (val thG (21 : BitVec 5) = (2 : Word)) ∧
    (BitVec.toNat (val thG (18 : BitVec 5)) < 2 ^ 20) ∧ (List.length [0, 1] ≤ fld (val thG (18 : BitVec 5)) 8 12) := by
  unfold Canonical MemOk Executing ReadyNow Writable; decide +kernel

theorem witness_Group_1_0_4 :
  (Canonical sG) ∧ (Executing sG thG) ∧ (thG.acqOut = 0) ∧ (ReadyNow thG (src (14 : BitVec 5) (0 : BitVec 2))) ∧
    (Writable thG (BitVec.toNat (4 : BitVec 5))) ∧ (grpMembers sG thG.ctx (fld (val thG (14 : BitVec 5)) 0 8) = some
    [0, 1]) ∧ (ReadyNow thG (src (22 : BitVec 5) (0 : BitVec 2))) ∧ (val thG (22 : BitVec 5) = (3 : Word)) ∧
    (BitVec.toNat (val thG (14 : BitVec 5)) < 2 ^ 8) ∧ (lcoreOf sG (sG.cur / 16) ∈ [0, 1]) := by
  unfold Canonical MemOk Executing ReadyNow Writable; decide +kernel

theorem witness_Group_1_1 :
  (Canonical sG) ∧ (Executing sG thG) ∧ (thG.acqOut = 0) ∧ (ReadyNow thG (src (15 : BitVec 5) (0 : BitVec 2))) ∧
    (Writable thG (BitVec.toNat (4 : BitVec 5))) ∧ (grpMembers sG thG.ctx (fld (val thG (15 : BitVec 5)) 0 8) = some
    [1]) ∧ (BitVec.toNat (val thG (15 : BitVec 5)) < 2 ^ 8) ∧ (lcoreOf sG (sG.cur / 16) ∉ [1]) := by
  unfold Canonical MemOk Executing ReadyNow Writable; decide +kernel

theorem witness_Group_1_2 :
  (Canonical sG) ∧ (Executing sG thG) ∧ (thG.acqOut = 0) ∧ (ReadyNow thG (src (14 : BitVec 5) (0 : BitVec 2))) ∧
    (Writable thG (BitVec.toNat (4 : BitVec 5))) ∧ (grpMembers sG thG.ctx (fld (val thG (14 : BitVec 5)) 0 8) = some
    [0, 1]) ∧ (BitVec.toNat (val thG (14 : BitVec 5)) < 2 ^ 8) ∧ (lcoreOf sG (sG.cur / 16) ∈ [0, 1]) ∧ (collSlot sG
    (sG.cur / 16) (fld (val thG (14 : BitVec 5)) 0 8) = none) := by
  unfold Canonical MemOk Executing ReadyNow Writable; decide +kernel

theorem witness_Group_1_3 :
  (Canonical sDone) ∧ (Executing sDone thG) ∧ (thG.acqOut = 0) ∧ (ReadyNow thG (src (14 : BitVec 5) (0 : BitVec 2))) ∧
    (Writable thG (BitVec.toNat (4 : BitVec 5))) ∧ (grpMembers sDone thG.ctx (fld (val thG (14 : BitVec 5)) 0 8) =
    some [0, 1]) ∧ (BitVec.toNat (val thG (14 : BitVec 5)) < 2 ^ 8) ∧ (lcoreOf sDone (sDone.cur / 16) ∈ [0, 1]) ∧
    (collSlot sDone (sDone.cur / 16) (fld (val thG (14 : BitVec 5)) 0 8) = some (0, slotC 0 0)) ∧ ((slotC 0 0).st = 0) := by
  unfold Canonical MemOk Executing ReadyNow Writable; decide +kernel

theorem witness_Group_1_4_0 :
  ((Canonical sBusy) ∧ (Executing sBusy thG) ∧ (thG.acqOut = 0) ∧ (ReadyNow thG (src (14 : BitVec 5) (0 : BitVec 2)))
    ∧ (Writable thG (BitVec.toNat (4 : BitVec 5))) ∧ (grpMembers sBusy thG.ctx (fld (val thG (14 : BitVec 5)) 0 8) =
    some [0, 1]) ∧ (ReadyNow thG (src (11 : BitVec 5) (0 : BitVec 2))) ∧ (BitVec.toNat (val thG (14 : BitVec 5)) < 2 ^
    8) ∧ (lcoreOf sBusy (sBusy.cur / 16) ∈ [0, 1]) ∧ (BitVec.toNat (val thG (11 : BitVec 5)) % 64 = 0) ∧
    (collDescFault (fun (i : ℕ) => rd64 sBusy (spadPa 0 1024 + 8 * i)) (List.length [0, 1]) = none) ∧ (collIndex sBusy
    thG.ctx (fld (val thG (14 : BitVec 5)) 0 8) (lcoreOf sBusy (sBusy.cur / 16)) < 4) ∧ (Option.isSome (collSlot sBusy
    (sBusy.cur / 16) (fld (val thG (14 : BitVec 5)) 0 8)) = true ∨ Option.isSome (collFree sBusy (sBusy.cur / 16)
    thG.ctx (fld (val thG (14 : BitVec 5)) 0 8) (lcoreOf sBusy (sBusy.cur / 16))) = true) ∧ ((collAt sBusy (sBusy.cur
    / 16) thG.ctx (fld (val thG (14 : BitVec 5)) 0 8) (lcoreOf sBusy (sBusy.cur / 16))).1.st ≠ 0)) ∧ (BlockHere sBusy
    thG (val thG (11 : BitVec 5)) 2 (spadPa 0 1024)) := by
  refine ⟨?_, ?_⟩
  · unfold Canonical MemOk Executing ReadyNow Writable; decide +kernel
  · exact ⟨no_cmps _ (by decide +kernel), lines_charge _ _ _ _ _ (by unfold Local; decide +kernel)⟩

theorem witness_Group_1_4_1 :
  ((Canonical sG) ∧ (Executing sG thG) ∧ (thG.acqOut = 0) ∧ (ReadyNow thG (src (14 : BitVec 5) (0 : BitVec 2))) ∧
    (Writable thG (BitVec.toNat (4 : BitVec 5))) ∧ (grpMembers sG thG.ctx (fld (val thG (14 : BitVec 5)) 0 8) = some
    [0, 1]) ∧ (ReadyNow thG (src (11 : BitVec 5) (0 : BitVec 2))) ∧ (BitVec.toNat (val thG (14 : BitVec 5)) < 2 ^ 8) ∧
    (lcoreOf sG (sG.cur / 16) ∈ [0, 1]) ∧ (BitVec.toNat (val thG (11 : BitVec 5)) % 64 = 0) ∧ (collDescFault (fun (i :
    ℕ) => rd64 sG (spadPa 0 1024 + 8 * i)) (List.length [0, 1]) = none) ∧ (collIndex sG thG.ctx (fld (val thG (14 :
    BitVec 5)) 0 8) (lcoreOf sG (sG.cur / 16)) < 4) ∧ (Option.isSome (collSlot sG (sG.cur / 16) (fld (val thG (14 :
    BitVec 5)) 0 8)) = true ∨ Option.isSome (collFree sG (sG.cur / 16) thG.ctx (fld (val thG (14 : BitVec 5)) 0 8)
    (lcoreOf sG (sG.cur / 16))) = true) ∧ ((collAt sG (sG.cur / 16) thG.ctx (fld (val thG (14 : BitVec 5)) 0 8)
    (lcoreOf sG (sG.cur / 16))).1.st = 0) ∧ (releasedAt sG sG.cur thG = true)) ∧ (BlockHere sG thG (val thG (11 :
    BitVec 5)) 2 (spadPa 0 1024)) := by
  refine ⟨?_, ?_⟩
  · unfold Canonical MemOk Executing ReadyNow Writable; decide +kernel
  · exact ⟨no_cmps _ (by decide +kernel), lines_charge _ _ _ _ _ (by unfold Local; decide +kernel)⟩

theorem witness_Coll_0_0 :
  (Canonical sJ) ∧ (sJ.now = none) ∧ (away sJ 1 = false) ∧ (List.find? (fun (c : Coll) => c.group == 1 && !c.begun)
    (ctxAt sJ 1).colls = some (coll [0, 1])) ∧ ((coll [0, 1]).held = false) ∧ ((coll [0, 1]).repair = false) ∧
    (Option.isSome (grpMembers sJ 1 1) = true) ∧ (grpPeers sJ 1 (coll [0, 1]).group = 0) ∧ (∀ p < List.length
    (Option.getD (grpMembers sJ 1 1) []), p ∈ (coll [0, 1]).joined) ∧ (∀ x ∈ collSlots sJ 1 (coll [0, 1]), ∀ y ∈
    collSlots sJ 1 (coll [0, 1]), x.2.2.op = y.2.2.op ∧ x.2.2.len = y.2.2.len) := by
  unfold Canonical MemOk; decide +kernel

theorem witness_Coll_0_1 :
  (Canonical sDiff) ∧ (sDiff.now = none) ∧ (away sDiff 1 = false) ∧ (List.find? (fun (c : Coll) => c.group == 1 &&
    !c.begun) (ctxAt sDiff 1).colls = some (coll [0, 1])) ∧ ((coll [0, 1]).held = false) ∧ ((coll [0, 1]).repair =
    false) ∧ (Option.isSome (grpMembers sDiff 1 1) = true) ∧ (grpPeers sDiff 1 (coll [0, 1]).group = 0) ∧ (∀ p <
    List.length (Option.getD (grpMembers sDiff 1 1) []), p ∈ (coll [0, 1]).joined) ∧ ((0, 0, slotC 1 0) ∈ collSlots
    sDiff 1 (coll [0, 1])) ∧ ((1, 1, slotD) ∈ collSlots sDiff 1 (coll [0, 1])) ∧ ((slotC 1 0).op ≠ slotD.op) := by
  unfold Canonical MemOk; decide +kernel

theorem witness_Coll_1 :
  (Canonical sBegun) ∧ (sBegun.now = none) ∧ (away sBegun 1 = false) ∧ (findColl sBegun 1 1 = some cBegun) ∧
    (cBegun.chunk ≠ 3 ∨ cBegun.repair = true ∨ cBegun.held = true) := by
  unfold Canonical MemOk; decide +kernel

theorem witness_Coll_2 :
  ((Canonical sBegun) ∧ (sBegun.now = none) ∧ (away sBegun 1 = false) ∧ (findColl sBegun 1 1 = some cBegun) ∧
    (cBegun.repair = false) ∧ (cBegun.held = false) ∧ (cBegun.chunk = 0) ∧ (cBegun.acked = 0) ∧ (1 ≠ 0) ∧ ((collRanks
    sBegun 1 cBegun)[1]? = some 1) ∧ (List.find? (fun (y : ℕ × ℕ × CollSlot) => y.1 == 1) (collSlots sBegun 1 cBegun)
    = some (1, 1, slotC 1 1)) ∧ (collKind (slotC 1 1).op ≠ 2) ∧ ((slotC 1 1).len = collElem (slotC 1 1).op) ∧ ((slotC
    1 1).len < 65536) ∧ (region (slotC 1 1).src ≠ Region.paged) ∧ (check sBegun 1 1 (slotC 1 1).priv (slotC 1 1).src
    (slotC 1 1).len Acc.read true = Chk.ok 28672) ∧ (28672 + 8 ≤ dramTop) ∧ (cBegun.final = none) ∧ (List.find? (fun
    (v : ℕ × List Byte) => v.1 == 1) cBegun.vals = none) ∧ (List.length (collRanks sBegun 1 cBegun) ≤ 4 * 1 + 1)) ∧
    (PlainLine sBegun (homeOf (slotC 1 1).src 28672) (28672 / 32 : ℕ)) := by
  refine ⟨?_, ?_⟩
  · unfold Canonical MemOk; decide +kernel
  · unfold PlainLine; exact dec_own (fun _ => inferInstance) (by decide +kernel)

theorem witness_Coll_3 :
  ((Canonical sFinal) ∧ (sFinal.now = none) ∧ (away sFinal 1 = false) ∧ (findColl sFinal 1 1 = some cFinal) ∧
    (cFinal.repair = false) ∧ (cFinal.held = false) ∧ (cFinal.chunk = 0) ∧ (cFinal.acked = 0) ∧ ((collRanks sFinal 1
    cFinal)[1]? = some 1) ∧ (List.find? (fun (y : ℕ × ℕ × CollSlot) => y.1 == 1) (collSlots sFinal 1 cFinal) = some
    (1, 1, slotC 1 1)) ∧ ((slotC 1 1).len = collElem (slotC 1 1).op) ∧ ((slotC 1 1).len < 65536) ∧ (region (slotC 1
    1).dst ≠ Region.paged) ∧ (xlatFind sFinal (BitVec.toNat (slotC 1 1).dst) = none) ∧ (check sFinal 1 1 (slotC 1
    1).priv (slotC 1 1).dst (slotC 1 1).len Acc.write true = Chk.ok 28736) ∧ (28736 + 8 ≤ dramTop) ∧ (cFinal.final =
    some [(1 : Byte), (2 : Byte), (3 : Byte), (4 : Byte), (5 : Byte), (6 : Byte), (7 : Byte), (8 : Byte)]) ∧
    (List.length [(1 : Byte), (2 : Byte), (3 : Byte), (4 : Byte), (5 : Byte), (6 : Byte), (7 : Byte), (8 : Byte)] =
    (slotC 1 1).len) ∧ (1 ∉ cFinal.wrote) ∧ (1 ∈ writersOf sFinal 1 cFinal)) ∧ (PlainLine sFinal (homeOf (slotC 1
    1).dst 28736) (28736 / 32 : ℕ)) := by
  refine ⟨?_, ?_⟩
  · unfold Canonical MemOk; decide +kernel
  · unfold PlainLine; exact dec_own (fun _ => inferInstance) (by decide +kernel)

theorem witness_Coll_4_0 :
  ((Canonical sLong) ∧ (sLong.now = none) ∧ (away sLong 1 = false) ∧ (1 < 3072) ∧ (collSlot sLong 1 1 = some (0,
    slotL)) ∧ (0 < 4) ∧ (slotL.st ≠ 0) ∧ (List.find? (fun (c : Coll) => c.group == 1 && c.number == slotL.number)
    (ctxAt sLong 1).colls = some cBegun) ∧ (65536 * (0 + 1) < slotL.len)) ∧ (∀ y ∈ sLong.dir, ∀ i ∈ y.2.invs, ∀ (w :
    Thr), slotL.th = some w → i.writer ≠ some w) := by
  refine ⟨?_, ?_⟩
  · unfold Canonical MemOk; decide +kernel
  · exact none_in _ _ (by decide +kernel)

theorem witness_Coll_4_1 :
  ((Canonical sBegun) ∧ (sBegun.now = none) ∧ (away sBegun 1 = false) ∧ (1 < 3072) ∧ (collSlot sBegun 1 1 = some (0,
    slotC 1 1)) ∧ (0 < 4) ∧ ((slotC 1 1).st ≠ 0) ∧ (List.find? (fun (c : Coll) => c.group == 1 && c.number == (slotC 1
    1).number) (ctxAt sBegun 1).colls = some cBegun) ∧ ((slotC 1 1).len ≤ 65536 * (0 + 1))) ∧ (∀ y ∈ sBegun.dir, ∀ i ∈
    y.2.invs, ∀ (w : Thr), (slotC 1 1).th = some w → i.writer ≠ some w) := by
  refine ⟨?_, ?_⟩
  · unfold Canonical MemOk; decide +kernel
  · exact none_in _ _ (by decide +kernel)

theorem witness_Coll_5 :
  (Canonical sLost) ∧ (sLost.now = none) ∧ (away sLost 1 = false) ∧ (∀ c ∈ (ctxAt sLost 1).colls, c.group = 1 → 1 ∈
    c.lost) := by
  unfold Canonical MemOk; decide +kernel

theorem witness_Coll_6 :
  (Canonical sBegun) ∧ (sBegun.now = none) ∧ (away sBegun 1 = false) ∧ (List.filter (fun (c : Coll) => c.group == 1 &&
    !decide (1 ∈ c.lost)) (ctxAt sBegun 1).colls = [cBegun]) ∧ (cBegun.held = false) ∧ (cBegun.repair = false) ∧ (fld
    (fmode sBegun 1) 3 1 = 0) ∧ (grpShrink sBegun 1 1 = false) ∧ (collSlots sBegun 1 cBegun ≠ []) ∧ (collOver sBegun 1
    cBegun = false) := by
  unfold Canonical MemOk; decide +kernel

theorem witness_Coll_7 :
  (Canonical sBegun) ∧ (sBegun.now = none) ∧ (away sBegun 1 = false) ∧ (collSlot sBegun 1 1 = some (0, slotC 1 1)) ∧
    ((slotC 1 1).number ≠ 7) := by
  unfold Canonical MemOk; decide +kernel

theorem witness_Coll_8 :
  (Canonical sJ) ∧ (sJ.now = none) ∧ (away sJ 1 = false) ∧ (∀ c ∈ (ctxAt sJ 1).colls, c.group = 1 → c.repair = false ∧
    c.answer = none) := by
  unfold Canonical MemOk; decide +kernel

theorem witness_Coll_9 :
  (Canonical sRep) ∧ (sRep.now = none) ∧ (away sRep 1 = false) ∧ (List.find? (fun (c : Coll) => c.group == 1 &&
    c.repair) (ctxAt sRep 1).colls = some cRep) ∧ (cRep.begun = true) ∧ (∀ c ∈ (ctxAt sRep 1).colls, c.group = 1 →
    c.answer = none) ∧ (∀ p < List.length (Option.getD (grpMembers sRep 1 1) []), p ∈ cRep.joined ∨ p ∈ cRep.lost) := by
  unfold Canonical MemOk; decide +kernel

end Sys2Proof.Tests.Groups
end

