-- ==== Sys2Proof/Tests/Pages.lean ====
section
/-!
SUPPORT. Witnesses: machines that meet the hypotheses of the statements on storage, translation, system registers and instructions.
-/
namespace Sys2Proof.Tests.Pages

open Sys2Proof Sys2Proof.Machine Sys2Proof.Safety Sys2Proof.Tests
open Sys2Proof.Tests.Shared (th0 s0 base m0)

set_option Elab.async false
set_option maxRecDepth 8000
set_option synthInstance.maxSize 1024

/-- Threads at machine and at user level. g14 holds 0, g15 to g20 small numbers, g13 a page's address. -/
def thP : Thread := base [(14, 0), (15, 1), (16, 2), (17, 8), (18, 12), (19, 0x2001), (20, 7), (13, 0x6000), (21, loc 0x80), (22, loc 0x100), (23, 16)]
def sP : State := m0 (run thP)
def thU : Thread := { thP with status := 0 }
def sU : State := m0 (run thU)
/-- A transfer of the thread's context in the queue engine of its chiplet, running and done. -/
def xf (w : Option Thr) (r : Option Nat) : Transfer :=
  { th := ⟨0, 1, 5⟩, priv := 3, read := false, buf := lin 0x8000, len := 4096, drive := 2, lba := 7, fua := false, bar := 0,
    desc := 0x500, sent := true, waiters := w.toList, result := r }
def xfer (w : Option Thr) (r : Option Nat) : SqeOp := .transfer (xf w r)
def withOp (op : SqeOp) (s : State) : State := setSqe s 0 { sqeAt s 0 with ops := [(0, some op)] }
def sRun : State := withOp (xfer none none) sP
def sEnd : State := withOp (xfer none (some 4)) sP
def sWait : State := withOp (xfer (some ⟨0, 1, 5⟩) none) sP

/-- Page tables for 0x6000: its leaf lies at 0x104030; 0x20000 is a storage-backed page, its leaf at 0x104100. -/
def ptr (pa : Nat) : Word := BitVec.ofNat 64 (1 + pa / 4096 * 2 ^ 25)
def leaf6 : Word := BitVec.ofNat 64 (1 + 8 + 16 + 9 * 2 ^ 25)
def leafS : Word := BitVec.ofNat 64 (1 + 2 + 8 + 2 ^ 63)
def paged (s : State) : State :=
  mem [(0x100000, ptr 0x101000), (0x101000, ptr 0x102000), (0x102000, ptr 0x103000), (0x103000, ptr 0x104000),
    (0x104030, leaf6), (0x104100, leafS)] { s with host := { s.host with xroot := 0x100000 } }
def sPg : State := paged s0
def pgSlice : Nat := sliceOfVa 0x6000
def xe : XEnt := ⟨0x6000, 12, leaf6, 0x104030, true, Vector.replicate 8 0, []⟩
def withSlice (x : Slice) (s : State) : State := setSlice s pgSlice x
def me5 : Thr := ⟨0, 1, 5⟩
def w5 : Waiter := .thread me5 0x6000
def c5 : Coal := { page := 6, waiters := [w5] }
def sHit : State := withSlice { xlat := [xe] } sPg
def sCo : State := withSlice { coal := [c5] } sPg
def sMany : State := withSlice { coal := (List.range 64).map (fun i => { page := 100 + i, waiters := [w5] }) } sPg
def sWalk : State := withSlice { coal := (List.range 8).map (fun i => { page := 100 + i, waiters := [w5], walk := 2 }) } sPg
def sAbs : State := withSlice { coal := [c5] } s0
def rq : ReadReq := { th := me5, core := 0, va := 0x6000, pa := peerBase, kind := .pref }
def sPeer : State :=
  let s := mem [(0x120000, BitVec.ofNat 64 (2 ^ 18 + 1))] { sPg with host := { sPg.host with peerroute := 0x120000 } }
  setLink s 9 { linkAt s 9 with st := .up }

/-- A region over the storage-backed page, and operations on it. -/
def sReg : State :=
  mem [(0x110000, BitVec.ofNat 64 (1 + 2 * 2 ^ 16)), (0x110008, 0x10000), (0x10008, 1)] { sPg with host := { sPg.host with regtab := 0x110000 } }
def reg0 : RegionEnt := ⟨0x110000, 0x20000, 65536, 0, 0, 0, 0, 0, 0, 0, 0⟩
def sFill : State := withOp (.fill 0x20000 0x200000 none) sPg
def sFillR : State := withOp (.fill 0x20000 0x200000 none) sReg
def pageBig : List Byte := List.replicate 65536 7
def xfB : Transfer := { xf none none with bar := lin 0x7000 }
def sBarX : State := withOp (.transfer xfB) sP
def sEvict : State := withOp (.evict 0x20000 0x30000 0 0 0x111000 true) sPg
def sMigr : State := withOp (.migrate 0x6000 12 0x9000 1 true) sPg
def page0 : List Byte := List.replicate 4096 7

/-- A thread alone in its device runs alone in its core. -/
theorem alone (s : State) (core cur : Nat) (o : Occupant) (hc : s.slots = [(cur, { occ := o })]) :
    ∀ i, i < 16 → 16 * core + i ≠ cur → (slotAt s (16 * core + i)).occ = .vacant := by
  intro i _ hi
  have h : slotAt s (16 * core + i) = Tab.get {} s.slots (16 * core + i) := rfl
  rw [h, hc]
  simp [Tab.get, Ne.symm hi]

/-- An access to the own scratchpad, checked by evaluation. -/
theorem plain_local (s : State) (k : Acc) (va : Word) (size pa : Nat)
    (h : plan k (decide (k = .write)) false [(0, va, size)] s = .go [⟨0, va, size, pa⟩] ∧ Local s pa ∧
      stagedSlot s (spadCore pa) ((pa - spadBase) % spadSize) size = none ∧ region va ≠ .paged) : PlainLocal s k va size pa :=
  ⟨⟨_, h.1, rfl, rfl, rfl⟩, h.2.1, h.2.2.1, fun hp => absurd hp h.2.2.2⟩

/-- No waiter is a reduction, checked waiter by waiter. -/
theorem no_red (s : State) (slice : Nat) (h : (sliceAt s slice).coal.all (fun c => c.waiters.all (fun w =>
      match w with | .red _ => false | _ => true)) = true) :
    ∀ c ∈ (sliceAt s slice).coal, ∀ w ∈ c.waiters, ∀ th, w ≠ .red th := by
  intro c hc w hw th he
  have := List.all_eq_true.mp (List.all_eq_true.mp h c hc) w hw
  rw [he] at this
  cases this

def thEpc : Thread := { thP with epc := 1 }
def sTr : State := setCtx sP 1 { ctxAt sP 1 with trace := { (ctxAt sP 1).trace with w1 := 2 } }
def sTrF : State := setCtx sP 1 { ctxAt sP 1 with trace := { (ctxAt sP 1).trace with w1 := 2, queues := (ctxAt sP 1).trace.queues.put [] (chipOfCore 0) (List.replicate 256 [1, 2, 3, 4]) } }
def sSw : State := mem [(0x104E8, 1000000), (0x104A8, BitVec.ofNat 64 (5000 * 2 ^ 32))] sP
def sSwH : State := setCtx sSw 1 { ctxAt sSw 1 with gangHost := true }
/-- What a system register holds; a thread of a task; what a write leaves in the thread and in its context. -/
def oldOf (s : State) (th : Thread) (n : Nat) : Word := match sysReg s th n with | some (_, _, v) => v | none => 0
def thTk : Thread := { thP with task := 0x9000 }
def sTk : State := mem [(0x10530, lin 0x32000)] (m0 (run thTk))
def thTk' : Thread := { thTk with fmtp := 1 }
def cPark : Ctx := { ctxAt sP 1 with parklim := 1 }

/-- The entries of a walk lie in plain lines, checked by evaluation. -/
theorem plain_path (s : State) (l : List Nat) (h : l.all (fun a => decide (tileAt s (sliceOfPa a) (a / 32) = none ∧
      (dirAt s (a / 32)).uop = none ∧ (dirAt s (a / 32)).host = false)) = true) (ho : ownOk s = true) :
    ∀ a ∈ l, PlainLine s (sliceOfPa a) (a / 32) :=
  fun a ha => plain_of s _ _ (by simpa using List.all_eq_true.mp h a ha) ho

theorem witness_Sto_1_0 :
  ((Canonical sP) ∧ (Executing sP thP) ∧ (thP.acqOut = 0) ∧ (ReadyNow thP (src (14 : BitVec 5) (0 : BitVec 2))) ∧
    (Writable thP (BitVec.toNat (4 : BitVec 5))) ∧ (BitVec.toNat (val thP (14 : BitVec 5)) < 2 ^ 32) ∧ (0 = fld (val
    thP (14 : BitVec 5)) 0 10) ∧ (0 = fld (val thP (14 : BitVec 5)) 10 3)) ∧ (fld (val thP (14 : BitVec 5)) 13 19 ≠
    Tab.get 0 (sqeAt sP 0).gens 0 % 2 ^ 19 ∨ ∀ (x : Transfer), Tab.get none (sqeAt sP 0).ops 0 = some (SqeOp.transfer
    x) → x.th.ctx ≠ thP.ctx) := by
  refine ⟨?_, ?_⟩
  · unfold Canonical MemOk Executing ReadyNow Writable; decide +kernel
  · exact Or.inr (fun x h => by rw [show (sqeAt sP 0).ops.get none 0 = none from by decide +kernel] at h; cases h)

theorem witness_Sto_1_1 :
  (Canonical sEnd) ∧ (Executing sEnd thP) ∧ (thP.acqOut = 0) ∧ (ReadyNow thP (src (14 : BitVec 5) (0 : BitVec 2))) ∧
    (Writable thP (BitVec.toNat (4 : BitVec 5))) ∧ (BitVec.toNat (val thP (14 : BitVec 5)) < 2 ^ 32) ∧ (0 = fld (val
    thP (14 : BitVec 5)) 0 10) ∧ (0 = fld (val thP (14 : BitVec 5)) 10 3) ∧ (fld (val thP (14 : BitVec 5)) 13 19 =
    Tab.get 0 (sqeAt sEnd 0).gens 0 % 2 ^ 19) ∧ ((xf none (some 4)).th.ctx = thP.ctx) ∧ ((xf none (some 4)).result =
    some 4) ∧ (Tab.get none (sqeAt sEnd 0).ops 0 = some (SqeOp.transfer (xf none (some 4)))) := by
  unfold Canonical MemOk Executing ReadyNow Writable; decide +kernel

theorem witness_Sto_1_2 :
  (Canonical sRun) ∧ (Executing sRun thP) ∧ (thP.acqOut = 0) ∧ (ReadyNow thP (src (14 : BitVec 5) (0 : BitVec 2))) ∧
    (Writable thP (BitVec.toNat (4 : BitVec 5))) ∧ (BitVec.toNat (val thP (14 : BitVec 5)) < 2 ^ 32) ∧ (0 = fld (val
    thP (14 : BitVec 5)) 0 10) ∧ (0 = fld (val thP (14 : BitVec 5)) 10 3) ∧ (fld (val thP (14 : BitVec 5)) 13 19 =
    Tab.get 0 (sqeAt sRun 0).gens 0 % 2 ^ 19) ∧ ((xf none none).th.ctx = thP.ctx) ∧ ((xf none none).result = none) ∧
    (NoWake sRun thP) ∧ (Tab.get none (sqeAt sRun 0).ops 0 = some (SqeOp.transfer (xf none none))) := by
  unfold Canonical MemOk Executing ReadyNow Writable NoWake; decide +kernel

theorem witness_Sto_2_0 :
  (Canonical sU) ∧ (Executing sU thU) ∧ (thU.acqOut = 0) ∧ (ReadyNow thU (src (14 : BitVec 5) (0 : BitVec 2))) ∧
    (privOf thU = 0) := by
  unfold Canonical MemOk Executing ReadyNow; decide +kernel

theorem witness_Sto_3 :
  (Canonical sP) ∧ (Executing sP thP) ∧ (thP.acqOut = 0) ∧ (ReadyNow thP (src (14 : BitVec 5) (0 : BitVec 2))) ∧ (1 ≤
    privOf thP) ∧ (invsOut sP thP = []) := by
  unfold Canonical MemOk Executing ReadyNow; decide +kernel

theorem witness_Xlat_0 :
  (Canonical sHit) ∧ (sHit.now = none) ∧ (Option.isSome (xlatFind sHit (BitVec.toNat (24576 : Word))) = true) := by
  unfold Canonical MemOk; decide +kernel

theorem witness_Xlat_1_0 :
  ((Canonical sCo) ∧ (sCo.now = none) ∧ (xlatFind sCo (BitVec.toNat (24576 : Word)) = none) ∧ (List.sum (List.map (fun
    (c : Coal) => List.length c.waiters) (sliceAt sCo pgSlice).coal) < 1024)) ∧ (∃ c ∈ (sliceAt sCo pgSlice).coal,
    c.page = BitVec.toNat (24576 : Word) / 4096) := by
  refine ⟨?_, ?_⟩
  · unfold Canonical MemOk; decide +kernel
  · exact ⟨c5, by decide +kernel, by decide +kernel⟩

theorem witness_Xlat_1_1 :
  (Canonical sPg) ∧ (sPg.now = none) ∧ (xlatFind sPg (BitVec.toNat (24576 : Word)) = none) ∧ (List.sum (List.map (fun
    (c : Coal) => List.length c.waiters) (sliceAt sPg pgSlice).coal) < 1024) ∧ (∀ c ∈ (sliceAt sPg pgSlice).coal,
    c.page ≠ BitVec.toNat (24576 : Word) / 4096 ∧ c.walk ≠ 1) ∧ (List.length (sliceAt sPg pgSlice).coal < 64) ∧
    (List.countP (fun (c : Coal) => c.walk == 2) (sliceAt sPg pgSlice).coal < 8) := by
  unfold Canonical MemOk; decide +kernel

theorem witness_Xlat_1_2 :
  (Canonical sWalk) ∧ (sWalk.now = none) ∧ (xlatFind sWalk (BitVec.toNat (24576 : Word)) = none) ∧ (List.sum (List.map
    (fun (c : Coal) => List.length c.waiters) (sliceAt sWalk pgSlice).coal) < 1024) ∧ (∀ c ∈ (sliceAt sWalk
    pgSlice).coal, c.page ≠ BitVec.toNat (24576 : Word) / 4096) ∧ (List.length (sliceAt sWalk pgSlice).coal < 64) ∧ (8
    ≤ List.countP (fun (c : Coal) => c.walk == 2) (sliceAt sWalk pgSlice).coal) := by
  unfold Canonical MemOk; decide +kernel

theorem witness_Xlat_1_3 :
  (Canonical sMany) ∧ (sMany.now = none) ∧ (xlatFind sMany (BitVec.toNat (24576 : Word)) = none) ∧ (List.sum (List.map
    (fun (c : Coal) => List.length c.waiters) (sliceAt sMany pgSlice).coal) < 1024) ∧ (∀ c ∈ (sliceAt sMany
    pgSlice).coal, c.page ≠ BitVec.toNat (24576 : Word) / 4096) ∧ (64 ≤ List.length (sliceAt sMany pgSlice).coal) := by
  unfold Canonical MemOk; decide +kernel

theorem witness_Xlat_2 :
  (Canonical sPg) ∧ (sPg.now = none) := by
  unfold Canonical MemOk; decide +kernel

theorem witness_Xlat_3 :
  ((Canonical sPg) ∧ (sPg.now = none)) ∧ ((∃ (r : ReadReq) (n : ℕ), Waiter.ldp rq 8 = Waiter.ldp r n) ∨ ∃ (r :
    WriteReq), Waiter.ldp rq 8 = Waiter.write r) := by
  refine ⟨?_, ?_⟩
  · unfold Canonical MemOk; decide +kernel
  · exact Or.inl ⟨_, _, rfl⟩

theorem witness_Xlat_4 :
  (Canonical sPg) ∧ (sPg.now = none) ∧ (∀ c ∈ (sliceAt sPg pgSlice).coal, c.page ≠ BitVec.toNat (24576 : Word) / 4096) := by
  unfold Canonical MemOk; decide +kernel

theorem witness_Xlat_5 :
  ((Canonical sCo) ∧ (sCo.now = none) ∧ (List.find? (fun (c : Coal) => c.page == BitVec.toNat (24576 : Word) / 4096)
    (sliceAt sCo pgSlice).coal = some c5) ∧ (walkFrom sCo (BitVec.toNat (24576 : Word)) (walkStart sCo pgSlice
    (BitVec.toNat (24576 : Word))).1 (walkStart sCo pgSlice (BitVec.toNat (24576 : Word))).2 = Walk.leaf 24576 12
    leaf6 1065008) ∧ (pteType leaf6 ≠ 1) ∧ (pageOp sCo 24576 = none) ∧ (List.length (sliceAt sCo pgSlice).xlat < 4096)
    ∧ (pteA leaf6 = false → 1065008 + 8 ≤ dramTop)) ∧ (∀ a ∈ walkReads sCo (BitVec.toNat (24576 : Word)) (walkStart
    sCo pgSlice (BitVec.toNat (24576 : Word))).1 (walkStart sCo pgSlice (BitVec.toNat (24576 : Word))).2, PlainLine
    sCo (sliceOfPa a) (a / 32)) ∧ (∀ c ∈ (sliceAt sCo pgSlice).coal, ∀ w ∈ c.waiters, ∀ (th : Thr), w ≠ Waiter.red th) := by
  refine ⟨?_, ?_, ?_⟩
  · unfold Canonical MemOk; decide +kernel
  · exact plain_path _ _ (by decide +kernel) (by decide +kernel)
  · exact no_red _ _ (by decide +kernel)

theorem witness_Xlat_6 :
  ((Canonical sAbs) ∧ (sAbs.now = none) ∧ (List.find? (fun (c : Coal) => c.page == BitVec.toNat (24576 : Word) / 4096)
    (sliceAt sAbs pgSlice).coal = some c5) ∧ (walkFrom sAbs (BitVec.toNat (24576 : Word)) (walkStart sAbs pgSlice
    (BitVec.toNat (24576 : Word))).1 (walkStart sAbs pgSlice (BitVec.toNat (24576 : Word))).2 = Walk.absent) ∧
    (c5.held ≠ 1)) ∧ (∀ a ∈ walkReads sAbs (BitVec.toNat (24576 : Word)) (walkStart sAbs pgSlice (BitVec.toNat (24576
    : Word))).1 (walkStart sAbs pgSlice (BitVec.toNat (24576 : Word))).2, PlainLine sAbs (sliceOfPa a) (a / 32)) := by
  refine ⟨?_, ?_⟩
  · unfold Canonical MemOk; decide +kernel
  · exact plain_path _ _ (by decide +kernel) (by decide +kernel)

theorem witness_Xlat_7 :
  (Canonical sHit) ∧ (sHit.now = none) ∧ (0 < 8) ∧ (accessOut sHit (invRange (24576 : Word) 0).1 (invRange (24576 :
    Word) 0).2 = false) ∧ (pinsOut sHit (invRange (24576 : Word) 0).1 (invRange (24576 : Word) 0).2 = false) := by
  unfold Canonical MemOk; decide +kernel

theorem witness_Xlat_8 :
  (Canonical sPg) ∧ (sPg.now = none) ∧ (xlatFind sPg (BitVec.toNat (24576 : Word)) = none) := by
  unfold Canonical MemOk; decide +kernel

theorem witness_Xlat_9 :
  (Canonical sPeer) ∧ (sPeer.now = none) ∧ (rq.kind = ReadKind.pref) ∧ (xlatFind sPeer (BitVec.toNat (24576 : Word)) =
    none) ∧ (peerCut sPeer pgSlice ((rq.pa - peerBase) / 2 ^ 40) = false) := by
  unfold Canonical MemOk; decide +kernel

theorem witness_StoEv_0_0 :
  ((Canonical sPg) ∧ (sPg.now = none) ∧ (pageOp sPg (BitVec.toNat (131072 : Word)) = none) ∧ (leafAt sPg (BitVec.toNat
    (131072 : Word)) = some (leafS, 1065216)) ∧ (pteType leafS = 1) ∧ (0 < 1024) ∧ (Tab.get none (sqeAt sPg 0).ops 0 =
    none) ∧ ((sqeAt sPg 0).offers = []) ∧ (regionOf sPg (BitVec.toNat (131072 : Word)) = none)) ∧ (∀ o ∈ (sqeAt sPg
    0).ops, ∀ (p v slot : ℕ) (l : Word) (e : ℕ) (b : Bool), o.2 = some (SqeOp.evict p v slot l e b) → v ≠ BitVec.toNat
    (131072 : Word)) := by
  refine ⟨?_, ?_⟩
  · unfold Canonical MemOk; decide +kernel
  · exact none_in _ _ (by decide +kernel)

theorem witness_StoEv_0_1 :
  ((Canonical sReg) ∧ (sReg.now = none) ∧ (pageOp sReg (BitVec.toNat (131072 : Word)) = none) ∧ (leafAt sReg
    (BitVec.toNat (131072 : Word)) = some (leafS, 1065216)) ∧ (pteType leafS = 1) ∧ (0 < 1024) ∧ (Tab.get none (sqeAt
    sReg 0).ops 0 = none) ∧ ((sqeAt sReg 0).offers = []) ∧ (regionOf sReg (BitVec.toNat (131072 : Word)) = some reg0)
    ∧ (fld (fmode sReg (faultCtx sReg (BitVec.toNat (131072 : Word)))) 0 1 = 1)) ∧ (∀ o ∈ (sqeAt sReg 0).ops, ∀ (p v
    slot : ℕ) (l : Word) (e : ℕ) (b : Bool), o.2 = some (SqeOp.evict p v slot l e b) → v ≠ BitVec.toNat (131072 :
    Word)) := by
  refine ⟨?_, ?_⟩
  · unfold Canonical MemOk; decide +kernel
  · exact none_in _ _ (by decide +kernel)

theorem witness_StoEv_1_0 :
  (Canonical sPg) ∧ (sPg.now = none) ∧ (pageOp sPg (BitVec.toNat (131072 : Word)) = none) := by
  unfold Canonical MemOk; decide +kernel

theorem witness_StoEv_2_0 :
  (Canonical sFill) ∧ (sFill.now = none) ∧ (pageOp sFill (BitVec.toNat (131072 : Word)) = some (0, 0, SqeOp.fill
    131072 2097152 none)) ∧ (2097152 ≠ 0) ∧ (3 ≠ 0) := by
  unfold Canonical MemOk; decide +kernel

theorem witness_StoEv_3 :
  (Canonical sEvict) ∧ (sEvict.now = none) ∧ (pageOp sEvict (BitVec.toNat (131072 : Word)) = some (0, 0, SqeOp.evict
    131072 196608 0 (0 : Word) 1118208 true)) := by
  unfold Canonical MemOk; decide +kernel

theorem witness_StoEv_4 :
  ((Canonical sMigr) ∧ (sMigr.now = none) ∧ (pageOp sMigr (BitVec.toNat (24576 : Word)) = some (0, 0, SqeOp.migrate
    24576 12 36864 1 true)) ∧ (keptLeaf sMigr 0 24576 = some (leaf6, 1065008)) ∧ (List.length page0 = 2 ^ 12) ∧ (36864
    + 2 ^ 12 ≤ dramTop) ∧ (1065008 + 8 ≤ dramTop)) ∧ (OwnFrames sMigr) ∧ (∀ (x : ℕ), Within 36864 (2 ^ 12) x → ¬Within
    1065008 8 x) := by
  refine ⟨?_, ?_, ?_⟩
  · unfold Canonical MemOk; decide +kernel
  · exact dec_own (fun _ => inferInstance) (by decide +kernel)
  · intro x h1 h2; unfold Within at h1 h2; omega

theorem witness_StoEv_5 :
  (Canonical sPg) ∧ (sPg.now = none) := by
  unfold Canonical MemOk; decide +kernel

theorem witness_StoEv_6_0 :
  (Canonical sWait) ∧ (sWait.now = none) ∧ (4 < 16) ∧ (4 ≠ 1) ∧ (Tab.get none (sqeAt sWait 0).ops 0 = some
    (SqeOp.transfer (xf (some me5) none))) ∧ ((xf (some me5) none).read = false) ∧ ((xf (some me5) none).pins = []) ∧
    ((xf (some me5) none).sent = true) ∧ ((xf (some me5) none).ended = false) ∧ ((xf (some me5) none).bar = (0 :
    Word)) ∧ ((xf (some me5) none).orphan = false) := by
  unfold Canonical MemOk; decide +kernel

theorem witness_StoEv_6_1 :
  (Canonical sBarX) ∧ (sBarX.now = none) ∧ (4 < 16) ∧ (4 ≠ 1) ∧ (Tab.get none (sqeAt sBarX 0).ops 0 = some
    (SqeOp.transfer xfB)) ∧ (xfB.read = false) ∧ (xfB.pins = []) ∧ (xfB.sent = true) ∧ (xfB.ended = false) ∧ (xfB.bar
    ≠ (0 : Word)) := by
  unfold Canonical MemOk; decide +kernel

theorem witness_StoEv_2_1 :
  ((Canonical sFillR) ∧ (sFillR.now = none) ∧ (pageOp sFillR (BitVec.toNat (131072 : Word)) = some (0, 0, SqeOp.fill
    131072 2097152 none)) ∧ (2097152 ≠ 0) ∧ (0 = 0) ∧ (regionOf sFillR (BitVec.toNat (131072 : Word)) = some reg0) ∧
    (keptLeaf sFillR 0 (BitVec.toNat (131072 : Word)) = some (leafS, 1065216)) ∧ (2097152 + 65536 ≤ dramTop) ∧
    (reg0.ring + 32 * max reg0.size 1 ≤ dramTop) ∧ (ringAt reg0 (Option.getD none 0) + 32 ≤ dramTop) ∧ (reg0.at_ + 64
    ≤ dramTop)) ∧ (List.length pageBig = 65536) ∧ (OwnFrames sFillR) ∧ (∀ (x : ℕ), Within 2097152 65536 x → ¬Within
    1065216 8 x ∧ ¬Within reg0.ring (32 * reg0.size) x ∧ ¬Within (ringAt reg0 (Option.getD none 0)) 32 x ∧ ¬Within
    reg0.ring 32 x ∧ ¬Within reg0.at_ 64 x) := by
  refine ⟨?_, ?_, ?_, ?_⟩
  · unfold Canonical MemOk; decide +kernel
  · exact List.length_replicate
  · exact dec_own (fun _ => inferInstance) (by decide +kernel)
  · unfold reg0 ringAt Within; intro x hx; simp only [Option.getD_none]; omega

theorem witness_Csr_0_0 :
  (Canonical sP) ∧ (Executing sP thP) ∧ (sysReg sP thP (BitVec.toNat (14 : BitVec 12)) = none) := by
  unfold Canonical MemOk Executing; decide +kernel

theorem witness_Csr_0_1_0 :
  (Canonical sU) ∧ (Executing sU thU) ∧ (sysReg sU thU (BitVec.toNat (2048 : BitVec 12)) = some (1, some 1, (0 :
    Word))) ∧ (privOf thU < 1) := by
  unfold Canonical MemOk Executing; decide +kernel

theorem witness_Csr_0_1_1 :
  (Canonical sP) ∧ (Executing sP thP) ∧ (sysReg sP thP (BitVec.toNat (7 : BitVec 12)) = some (0, none, (1 : Word))) ∧
    (0 ≤ privOf thP) ∧ (Writable thP (BitVec.toNat (4 : BitVec 5))) := by
  unfold Canonical MemOk Executing Writable; decide +kernel

theorem witness_Sys_0 :
  (Canonical sP) ∧ (Executing sP thP) ∧ (ReadyNow thP (src (15 : BitVec 5) (0 : BitVec 2))) := by
  unfold Canonical MemOk Executing ReadyNow; decide +kernel

theorem witness_Sys_2 :
  (Canonical sP) ∧ (Executing sP thP) ∧ (ReadyNow thP (src (15 : BitVec 5) (0 : BitVec 2))) ∧ (fld (ctxAt sP
    thP.ctx).trace.w1 1 1 = 0) := by
  unfold Canonical MemOk Executing ReadyNow; decide +kernel

theorem witness_Sys_2b :
  (Canonical sTrF) ∧ (Executing sTrF thP) ∧ (ReadyNow thP (src (15 : BitVec 5) (0 : BitVec 2))) ∧ (fld (ctxAt sTrF
    thP.ctx).trace.w1 1 1 = 1) ∧ (256 ≤ List.length (Tab.get [] (ctxAt sTrF thP.ctx).trace.queues (chipOfCore
    (sTrF.cur / 16)))) := by
  unfold Canonical MemOk Executing ReadyNow; decide +kernel

theorem witness_Sys_3 :
  (Canonical sTr) ∧ (Executing sTr thP) ∧ (ReadyNow thP (src (15 : BitVec 5) (0 : BitVec 2))) ∧ (0 = chipOfCore
    (sTr.cur / 16)) ∧ (fld (ctxAt sTr thP.ctx).trace.w1 1 1 = 1) ∧ (List.length (Tab.get [] (ctxAt sTr
    thP.ctx).trace.queues 0) < 256) := by
  unfold Canonical MemOk Executing ReadyNow; decide +kernel

theorem witness_Sys_4_0 :
  (Canonical sU) ∧ (Executing sU thU) ∧ (ReadyNow thU (src (17 : BitVec 5) (0 : BitVec 2))) ∧ (privOf thU = 0) := by
  unfold Canonical MemOk Executing ReadyNow; decide +kernel

theorem witness_Sys_5 :
  (Canonical sP) ∧ (Executing sP thP) ∧ (ReadyNow thP (src (15 : BitVec 5) (0 : BitVec 2))) ∧ (1 ≤ privOf thP) ∧
    (BitVec.toNat (val thP (15 : BitVec 5)) ≠ 4) ∧ (BitVec.toNat (val thP (15 : BitVec 5)) ≠ 8) ∧ (BitVec.toNat (val
    thP (15 : BitVec 5)) ≠ 16) := by
  unfold Canonical MemOk Executing ReadyNow; decide +kernel

theorem witness_Sys_6 :
  ((Canonical sP) ∧ (Executing sP thP) ∧ (ReadyNow thP (src (17 : BitVec 5) (0 : BitVec 2))) ∧ (1 ≤ privOf thP) ∧
    (BitVec.toNat (val thP (17 : BitVec 5)) = 4 ∨ BitVec.toNat (val thP (17 : BitVec 5)) = 8 ∨ BitVec.toNat (val thP
    (17 : BitVec 5)) = 16) ∧ (sP.cur % 16 = 0) ∧ ((coreAt sP (sP.cur / 16)).arrivals = 0) ∧ ((coreAt sP (sP.cur /
    16)).fwd = []) ∧ (sqOf sP (sP.cur / 16) (named_ sP thP) = []) ∧ (engineBusy sP thP = false)) ∧ (∀ i < 16, 16 *
    (sP.cur / 16) + i ≠ sP.cur → (slotAt sP (16 * (sP.cur / 16) + i)).occ = Occupant.vacant) := by
  refine ⟨?_, ?_⟩
  · unfold Canonical MemOk Executing ReadyNow; decide +kernel
  · exact alone _ _ _ (.thread thP) (by decide +kernel)

theorem witness_Sys_7 :
  (Canonical sP) ∧ (Executing sP thP) ∧ (ReadyNow thP (src (17 : BitVec 5) (0 : BitVec 2))) ∧ (1 ≤ privOf thP) ∧ (3 ≤
    BitVec.toNat (val thP (17 : BitVec 5))) ∧ (Writable thP (BitVec.toNat (4 : BitVec 5))) := by
  unfold Canonical MemOk Executing ReadyNow Writable; decide +kernel

theorem witness_Sys_8 :
  (Canonical sP) ∧ (Executing sP thP) ∧ (ReadyNow thP (src (14 : BitVec 5) (0 : BitVec 2))) ∧ (1 ≤ privOf thP) ∧
    (BitVec.toNat (val thP (14 : BitVec 5)) < 3) ∧ (Writable thP (BitVec.toNat (4 : BitVec 5))) ∧ (val thP (14 :
    BitVec 5) = (0 : Word) ∨ switchAt sP thP.ctx = 0 ∨ (ctxAt sP thP.ctx).gangHost = false ∧ (switchAt sP thP.ctx <
    tick sP + 10000 ∨ val thP (14 : BitVec 5) = (2 : Word) ∧ ((ctxAt sP thP.ctx).deferred = true ∨ fld (ctxWord sP
    thP.ctx 168) 32 32 = 0))) := by
  unfold Canonical MemOk Executing ReadyNow Writable; decide +kernel

theorem witness_Sys_9 :
  (Canonical sSwH) ∧ (Executing sSwH thP) ∧ (ReadyNow thP (src (15 : BitVec 5) (0 : BitVec 2))) ∧ (1 ≤ privOf thP) ∧
    (val thP (15 : BitVec 5) = (1 : Word) ∨ val thP (15 : BitVec 5) = (2 : Word)) ∧ (Writable thP (BitVec.toNat (4 :
    BitVec 5))) ∧ ((ctxAt sSwH thP.ctx).gangHost = true) ∧ (switchAt sSwH thP.ctx ≠ 0) := by
  unfold Canonical MemOk Executing ReadyNow Writable; decide +kernel

theorem witness_Sys_10 :
  ((Canonical sSw) ∧ (Executing sSw thP) ∧ (ReadyNow thP (src (15 : BitVec 5) (0 : BitVec 2))) ∧ (1 ≤ privOf thP) ∧
    (Writable thP (BitVec.toNat (4 : BitVec 5))) ∧ ((ctxAt sSw thP.ctx).gangHost = false) ∧ (switchAt sSw thP.ctx ≠ 0)
    ∧ (tick sSw + 10000 ≤ switchAt sSw thP.ctx) ∧ (10100 < 2 ^ 64) ∧ (val thP (15 : BitVec 5) = (1 : Word) ∧ 10100 =
    tick sSw + 10000 ∨ val thP (15 : BitVec 5) = (2 : Word) ∧ (ctxAt sSw thP.ctx).deferred = false ∧ fld (ctxWord sSw
    thP.ctx 168) 32 32 ≠ 0 ∧ 10100 = switchAt sSw thP.ctx + fld (ctxWord sSw thP.ctx 168) 32 32)) ∧ (DeviceAt sSw
    (ctxField sSw thP.ctx 232) 8) := by
  refine ⟨?_, ?_⟩
  · unfold Canonical MemOk Executing ReadyNow Writable; decide +kernel
  · unfold DeviceAt; exact dec_own (fun _ => inferInstance) (by decide +kernel)

theorem witness_Sys_11_0 :
  ((Canonical sP) ∧ (Executing sP thP) ∧ (ReadyNow thP (src (22 : BitVec 5) (0 : BitVec 2))) ∧ (thP.acqOut = 0) ∧ ((0
    : BitVec 2) = (0 : BitVec 2)) ∧ (ReadyNow thP (srcP (21 : BitVec 5))) ∧ (ReadyNow thP (srcP (14 : BitVec 5))) ∧
    ((21 : BitVec 5) ≠ (22 : BitVec 5)) ∧ ((21 : BitVec 5) ≠ (14 : BitVec 5)) ∧ ((22 : BitVec 5) ≠ (14 : BitVec 5)) ∧
    (BitVec.toNat (val thP (14 : BitVec 5)) = 0)) ∧ (Instr.mvblk (21 : BitVec 5) (22 : BitVec 5) (14 : BitVec 5) =
    Instr.mvblk (21 : BitVec 5) (22 : BitVec 5) (14 : BitVec 5) ∨ Instr.mvblk (21 : BitVec 5) (22 : BitVec 5) (14 :
    BitVec 5) = Instr.stblk (21 : BitVec 5) (22 : BitVec 5) (14 : BitVec 5) ∨ Instr.mvblk (21 : BitVec 5) (22 : BitVec
    5) (14 : BitVec 5) = Instr.cmpblk (21 : BitVec 5) (22 : BitVec 5) (14 : BitVec 5)) := by
  refine ⟨?_, ?_⟩
  · unfold Canonical MemOk Executing ReadyNow; decide +kernel
  · exact Or.inl rfl

theorem witness_Sys_11_1_0 :
  ((Canonical sP) ∧ (Executing sP thP) ∧ (ReadyNow thP (src (22 : BitVec 5) (0 : BitVec 2))) ∧ (thP.acqOut = 0) ∧ ((0
    : BitVec 2) = (0 : BitVec 2)) ∧ (ReadyNow thP (srcP (21 : BitVec 5))) ∧ (ReadyNow thP (srcP (23 : BitVec 5))) ∧
    ((21 : BitVec 5) ≠ (22 : BitVec 5)) ∧ ((21 : BitVec 5) ≠ (23 : BitVec 5)) ∧ ((22 : BitVec 5) ≠ (23 : BitVec 5)) ∧
    (BitVec.toNat (val thP (23 : BitVec 5)) ≠ 0) ∧ (8 = if (fun (va : Word) (near : Bool) => decide (8 ≤ BitVec.toNat
    (val thP (23 : BitVec 5)) ∧ BitVec.toNat (val thP (21 : BitVec 5)) % 8 = 0 ∧ BitVec.toNat va % 8 = 0) && (near ||
    decide (BitVec.toNat (val thP (21 : BitVec 5)) + 8 ≤ BitVec.toNat (val thP (22 : BitVec 5)) ∨ BitVec.toNat (val
    thP (22 : BitVec 5)) + 8 ≤ BitVec.toNat (val thP (21 : BitVec 5))))) (val thP (22 : BitVec 5)) false = true then 8
    else 1)) ∧ (PlainLocal sP Acc.read (val thP (22 : BitVec 5)) 8 (spadPa 0 256)) ∧ (PlainLocal sP Acc.write (val thP
    (21 : BitVec 5)) 8 (spadPa 0 128)) := by
  refine ⟨?_, ?_, ?_⟩
  · unfold Canonical MemOk Executing ReadyNow; decide +kernel
  · exact plain_local _ _ _ _ _ (by unfold Local; decide +kernel)
  · exact plain_local _ _ _ _ _ (by unfold Local; decide +kernel)

theorem witness_Sys_11_1_1 :
  ((Canonical sP) ∧ (Executing sP thP) ∧ (ReadyNow thP (src (22 : BitVec 5) (0 : BitVec 2))) ∧ (thP.acqOut = 0) ∧ ((0
    : BitVec 2) = (0 : BitVec 2)) ∧ (ReadyNow thP (srcP (21 : BitVec 5))) ∧ (ReadyNow thP (srcP (23 : BitVec 5))) ∧
    ((21 : BitVec 5) ≠ (22 : BitVec 5)) ∧ ((21 : BitVec 5) ≠ (23 : BitVec 5)) ∧ ((22 : BitVec 5) ≠ (23 : BitVec 5)) ∧
    (BitVec.toNat (val thP (23 : BitVec 5)) ≠ 0) ∧ (8 = if (fun (va : Word) (near : Bool) => decide (8 ≤ BitVec.toNat
    (val thP (23 : BitVec 5)) ∧ BitVec.toNat (val thP (21 : BitVec 5)) % 8 = 0 ∧ BitVec.toNat va % 8 = 0) && (near ||
    decide (BitVec.toNat (val thP (21 : BitVec 5)) + 8 ≤ BitVec.toNat (val thP (22 : BitVec 5)) ∨ BitVec.toNat (val
    thP (22 : BitVec 5)) + 8 ≤ BitVec.toNat (val thP (21 : BitVec 5))))) (0 : Word) true = true then 8 else 1)) ∧
    (PlainLocal sP Acc.write (val thP (21 : BitVec 5)) 8 (spadPa 0 128)) := by
  refine ⟨?_, ?_⟩
  · unfold Canonical MemOk Executing ReadyNow; decide +kernel
  · exact plain_local _ _ _ _ _ (by unfold Local; decide +kernel)

theorem witness_Sys_11_1_2_1 :
  ((Canonical sP) ∧ (Executing sP thP) ∧ (ReadyNow thP (src (22 : BitVec 5) (0 : BitVec 2))) ∧ (thP.acqOut = 0) ∧ ((0
    : BitVec 2) = (0 : BitVec 2)) ∧ (ReadyNow thP (srcP (21 : BitVec 5))) ∧ (ReadyNow thP (srcP (23 : BitVec 5))) ∧
    ((21 : BitVec 5) ≠ (22 : BitVec 5)) ∧ ((21 : BitVec 5) ≠ (23 : BitVec 5)) ∧ ((22 : BitVec 5) ≠ (23 : BitVec 5)) ∧
    (BitVec.toNat (val thP (23 : BitVec 5)) ≠ 0) ∧ (8 = if (fun (va : Word) (near : Bool) => decide (8 ≤ BitVec.toNat
    (val thP (23 : BitVec 5)) ∧ BitVec.toNat (val thP (21 : BitVec 5)) % 8 = 0 ∧ BitVec.toNat va % 8 = 0) && (near ||
    decide (BitVec.toNat (val thP (21 : BitVec 5)) + 8 ≤ BitVec.toNat (val thP (22 : BitVec 5)) ∨ BitVec.toNat (val
    thP (22 : BitVec 5)) + 8 ≤ BitVec.toNat (val thP (21 : BitVec 5))))) (val thP (22 : BitVec 5)) true = true then 8
    else 1) ∧ (rdByte sP (spadPa 0 256) = rdByte sP (spadPa 0 128))) ∧ (PlainLocal sP Acc.read (val thP (22 : BitVec
    5)) 8 (spadPa 0 256)) ∧ (PlainLocal sP Acc.read (val thP (21 : BitVec 5)) 8 (spadPa 0 128)) := by
  refine ⟨?_, ?_, ?_⟩
  · unfold Canonical MemOk Executing ReadyNow; decide +kernel
  · exact plain_local _ _ _ _ _ (by unfold Local; decide +kernel)
  · exact plain_local _ _ _ _ _ (by unfold Local; decide +kernel)

theorem witness_Csr_1_0 :
  ((Canonical sP) ∧ (Executing sP thP) ∧ (sysReg sP thP (BitVec.toNat (14 : BitVec 12)) = none)) ∧ (csrRow
    (Instr.csrWr (15 : BitVec 5) (14 : BitVec 12)) = some ((14 : BitVec 12), (15 : BitVec 5), fun (x x_1 : Word) =>
    x_1)) := by
  refine ⟨?_, ?_⟩
  · unfold Canonical MemOk Executing; decide +kernel
  · rfl

theorem witness_Csr_1_1 :
  ((Canonical sP) ∧ (Executing sP thP) ∧ (sysReg sP thP (BitVec.toNat (7 : BitVec 12)) = some (0, none, oldOf sP thP
    7))) ∧ (csrRow (Instr.csrSet (15 : BitVec 5) (7 : BitVec 12)) = some ((7 : BitVec 12), (15 : BitVec 5), fun (old x
    : Word) => old ||| x)) := by
  refine ⟨?_, ?_⟩
  · unfold Canonical MemOk Executing; decide +kernel
  · rfl

theorem witness_Csr_1_2_0 :
  ((Canonical sU) ∧ (Executing sU thU) ∧ (sysReg sU thU (BitVec.toNat (2048 : BitVec 12)) = some (1, some 1, (0 :
    Word))) ∧ (privOf thU < 1)) ∧ (csrRow (Instr.csrWr (15 : BitVec 5) (2048 : BitVec 12)) = some ((2048 : BitVec 12),
    (15 : BitVec 5), fun (x x_1 : Word) => x_1)) := by
  refine ⟨?_, ?_⟩
  · unfold Canonical MemOk Executing; decide +kernel
  · rfl

theorem witness_Csr_1_2_1_0 :
  ((Canonical sP) ∧ (Executing sP thP) ∧ (sysReg sP thP (BitVec.toNat (2048 : BitVec 12)) = some (1, some 1, (0 :
    Word))) ∧ (1 ≤ privOf thP) ∧ (ReadyNow thP (srcP (15 : BitVec 5))) ∧ (threadReg (BitVec.toNat (2048 : BitVec 12))
    ((fun (x x_1 : Word) => x_1) (0 : Word) (val thP (15 : BitVec 5))) thP = some thEpc) ∧ (thP.task = (0 : Word) ∨
    (2048 : BitVec 12) ≠ (2 : BitVec 12) ∧ (2048 : BitVec 12) ≠ (3 : BitVec 12))) ∧ (csrRow (Instr.csrWr (15 : BitVec
    5) (2048 : BitVec 12)) = some ((2048 : BitVec 12), (15 : BitVec 5), fun (x x_1 : Word) => x_1)) := by
  refine ⟨?_, ?_⟩
  · unfold Canonical MemOk Executing ReadyNow; decide +kernel
  · rfl

theorem witness_Csr_1_2_1_1 :
  ((Canonical sTk) ∧ (Executing sTk thTk) ∧ (sysReg sTk thTk (BitVec.toNat (2 : BitVec 12)) = some (0, some 1, (0 :
    Word))) ∧ (1 ≤ privOf thTk) ∧ (ReadyNow thTk (srcP (15 : BitVec 5))) ∧ (threadReg (BitVec.toNat (2 : BitVec 12))
    ((fun (x x_1 : Word) => x_1) (0 : Word) (val thTk (15 : BitVec 5))) thTk = some thTk') ∧ (thTk.task ≠ (0 : Word))
    ∧ ((2 : BitVec 12) = (2 : BitVec 12) ∨ (2 : BitVec 12) = (3 : BitVec 12))) ∧ (csrRow (Instr.csrWr (15 : BitVec 5)
    (2 : BitVec 12)) = some ((2 : BitVec 12), (15 : BitVec 5), fun (x x_1 : Word) => x_1)) ∧ (VaultAt sTk thTk.ctx
    (taskLink sTk thTk.ctx thTk.tid) 32 204960) := by
  refine ⟨?_, ?_, ?_⟩
  · unfold Canonical MemOk Executing ReadyNow; decide +kernel
  · rfl
  · exact vault_of _ _ _ _ _ (by decide +kernel) (by decide +kernel)

theorem witness_Csr_1_2_1_2 :
  ((Canonical sP) ∧ (Executing sP thP) ∧ (sysReg sP thP (BitVec.toNat (9 : BitVec 12)) = some (0, some 1, oldOf sP thP
    9)) ∧ (1 ≤ privOf thP) ∧ (ReadyNow thP (srcP (15 : BitVec 5))) ∧ (contextReg (BitVec.toNat (9 : BitVec 12)) ((fun
    (x x_1 : Word) => x_1) (oldOf sP thP 9) (val thP (15 : BitVec 5))) (ctxAt sP thP.ctx) = some cPark)) ∧ (csrRow
    (Instr.csrWr (15 : BitVec 5) (9 : BitVec 12)) = some ((9 : BitVec 12), (15 : BitVec 5), fun (x x_1 : Word) =>
    x_1)) := by
  refine ⟨?_, ?_⟩
  · unfold Canonical MemOk Executing ReadyNow; decide +kernel
  · rfl

theorem witness_Csr_1_2_1_3 :
  ((Canonical sP) ∧ (Executing sP thP) ∧ (sysReg sP thP (BitVec.toNat (3076 : BitVec 12)) = some (3, some 3, (0 :
    Word))) ∧ (3 ≤ privOf thP) ∧ (ReadyNow thP (srcP (15 : BitVec 5))) ∧ ((3076 : BitVec 12) = (3076 : BitVec 12))) ∧
    (csrRow (Instr.csrWr (15 : BitVec 5) (3076 : BitVec 12)) = some ((3076 : BitVec 12), (15 : BitVec 5), fun (x x_1 :
    Word) => x_1)) := by
  refine ⟨?_, ?_⟩
  · unfold Canonical MemOk Executing ReadyNow; decide +kernel
  · rfl

theorem witness_Csr_1_2_1_4 :
  ((Canonical sP) ∧ (Executing sP thP) ∧ (sysReg sP thP (BitVec.toNat (1 : BitVec 12)) = some (0, some 0, (3 : Word)))
    ∧ (0 ≤ privOf thP) ∧ (ReadyNow thP (srcP (15 : BitVec 5))) ∧ ((1 : BitVec 12) = (1 : BitVec 12))) ∧ (csrRow
    (Instr.csrClr (15 : BitVec 5) (1 : BitVec 12)) = some ((1 : BitVec 12), (15 : BitVec 5), fun (old x : Word) => old
    &&& ~~~x)) := by
  refine ⟨?_, ?_⟩
  · unfold Canonical MemOk Executing ReadyNow; decide +kernel
  · rfl

end Sys2Proof.Tests.Pages
end

