-- ==== Sys2Proof/Tests/Scalars.lean ====
section
/-!
SUPPORT. Witnesses: machines that meet the hypotheses of the statements on scalar results, jumps and branches.
-/
namespace Sys2Proof.Tests.Scalars

open Sys2Proof Sys2Proof.Machine Sys2Proof.Safety Sys2Proof.Tests
open Sys2Proof.Tests.Shared (th0 s0)

set_option Elab.async false
set_option maxRecDepth 8000
set_option synthInstance.maxSize 1024

def thD : Thread := { th0 with form := .inFlight (.divider 8 99 [] []) }
def sD : State := setCore (run thD) 0 { coreAt b0 0 with divq := [⟨0, 1, 5⟩, ⟨1, 1, 6⟩] }
def thU : Thread := { th0 with form := .inFlight .unit }
def sU : State := setCore (run thU) 0 { coreAt b0 0 with normq := [⟨0, 1, 5⟩, ⟨1, 1, 6⟩] }
def noSrc : List Src := []
def thL : Thread := { th0 with pc := lastPc }
def sL : State := run thL

theorem witness_TwoSourceResults_0 :
  ((Canonical s0) ∧ (Executing s0 th0) ∧ (ReadyNow th0 (src (8 : BitVec 5) (0 : BitVec 2))) ∧ (ReadyNow th0 (src (9 :
    BitVec 5) (2 : BitVec 2))) ∧ (Writable th0 (BitVec.toNat (8 : BitVec 5)))) ∧ (twoSource (Instr.rot (8 : BitVec 5)
    (8 : BitVec 5) (9 : BitVec 5) (0 : BitVec 2) (2 : BitVec 2)) = some ((8 : BitVec 5), (8 : BitVec 5), (9 : BitVec
    5), (0 : BitVec 2), (2 : BitVec 2), fun (x y : Word) => BitVec.ofNat 64 (BitVec.toNat x * 2 ^ (BitVec.toNat y %
    64) + BitVec.toNat x / 2 ^ (64 - BitVec.toNat y % 64)))) := by
  refine ⟨?_, ?_⟩
  · unfold Canonical MemOk Executing ReadyNow Writable; decide +kernel
  · rfl

theorem witness_TwoSourceResults_1 :
  ((Canonical s0) ∧ (Executing s0 th0) ∧ (ReadyNow th0 (src (8 : BitVec 5) (0 : BitVec 2))) ∧ (ReadyNow th0 (src (12 :
    BitVec 5) (0 : BitVec 2))) ∧ (Writable th0 (BitVec.toNat (1 : BitVec 5)))) ∧ (product (Instr.mulh (1 : BitVec 5)
    (8 : BitVec 5) (12 : BitVec 5) (0 : BitVec 2) (0 : BitVec 2)) = some ((1 : BitVec 5), (8 : BitVec 5), (12 : BitVec
    5), (0 : BitVec 2), (0 : BitVec 2), fun (x y : Word) => BitVec.ofInt 64 (BitVec.toInt x * BitVec.toInt y / (2 : ℤ)
    ^ 64))) := by
  refine ⟨?_, ?_⟩
  · unfold Canonical MemOk Executing ReadyNow Writable; decide +kernel
  · rfl

theorem witness_TwoSourceResults_2 :
  ((Canonical s0) ∧ (Executing s0 th0) ∧ (ReadyNow th0 (src (0 : BitVec 5) (0 : BitVec 2))) ∧ (ReadyNow th0 (src (13 :
    BitVec 5) (0 : BitVec 2))) ∧ (Writable th0 (BitVec.toNat (1 : BitVec 5)))) ∧ (bitField (Instr.bext (1 : BitVec 5)
    (0 : BitVec 5) (13 : BitVec 5) (0 : BitVec 2) (0 : BitVec 2)) = some ((1 : BitVec 5), (0 : BitVec 5), (13 : BitVec
    5), (0 : BitVec 2), (0 : BitVec 2), fun (x y : Word) => BitVec.ofNat 64 (BitVec.toNat x / 2 ^ (BitVec.toNat y %
    64) % 2 ^ (BitVec.toNat y / 256 % 64)))) := by
  refine ⟨?_, ?_⟩
  · unfold Canonical MemOk Executing ReadyNow Writable; decide +kernel
  · rfl

theorem witness_TwoSourceResults_3 :
  (Canonical s0) ∧ (Executing s0 th0) ∧ (ReadyNow th0 (src (8 : BitVec 5) (0 : BitVec 2))) ∧ (ReadyNow th0 (src (13 :
    BitVec 5) (0 : BitVec 2))) ∧ (ReadyNow th0 (srcP (0 : BitVec 5))) := by
  unfold Canonical MemOk Executing ReadyNow; decide +kernel

theorem witness_OneSourceAndMaskResults_0 :
  ((Canonical s0) ∧ (Executing s0 th0) ∧ (ReadyNow th0 (src (0 : BitVec 5) (0 : BitVec 2))) ∧ (Writable th0
    (BitVec.toNat (1 : BitVec 5)))) ∧ (oneSource (Instr.clz (1 : BitVec 5) (0 : BitVec 5) (0 : BitVec 2)) = some ((1 :
    BitVec 5), (0 : BitVec 5), (0 : BitVec 2), fun (x : Word) => BitVec.ofNat 64 (before (BitVec.getLsbD x)
    (List.reverse (List.range 64))))) := by
  refine ⟨?_, ?_⟩
  · unfold Canonical MemOk Executing ReadyNow Writable; decide +kernel
  · rfl

theorem witness_OneSourceAndMaskResults_1 :
  ((Canonical s0) ∧ (Executing s0 th0) ∧ (Writable th0 (BitVec.toNat (1 : BitVec 5)))) ∧ (noSource (Instr.lui (1 :
    BitVec 5) (1048575 : BitVec 20)) = some ((1 : BitVec 5), fun (x : Thread) => BitVec.ofInt 64 (-4096 : ℤ))) := by
  refine ⟨?_, ?_⟩
  · unfold Canonical MemOk Executing Writable; decide +kernel
  · rfl

theorem witness_OneSourceAndMaskResults_2 :
  ((Canonical s0) ∧ (Executing s0 th0)) ∧ (maskResult (Instr.kxor (1 : BitVec 2) (2 : BitVec 2) (3 : BitVec 2)) = some
    ((1 : BitVec 2), fun (th : Thread) => mask th (2 : BitVec 2) ^^^ mask th (3 : BitVec 2))) := by
  refine ⟨?_, ?_⟩
  · unfold Canonical MemOk Executing; decide +kernel
  · rfl

theorem witness_OneSourceAndMaskResults_3 :
  (Canonical s0) ∧ (Executing s0 th0) ∧ (ReadyNow th0 (src (0 : BitVec 5) (2 : BitVec 2))) := by
  unfold Canonical MemOk Executing ReadyNow; decide +kernel

theorem witness_OneSourceAndMaskResults_4 :
  (Executing s0 th0) := by
  unfold Executing; decide +kernel

theorem witness_DividerAndUnits_0_0 :
  ((Canonical s0) ∧ (Executing s0 th0) ∧ (ReadyNow th0 (src (8 : BitVec 5) (0 : BitVec 2))) ∧ (ReadyNow th0 (src (9 :
    BitVec 5) (2 : BitVec 2))) ∧ (Writable th0 (BitVec.toNat (8 : BitVec 5)))) ∧ (quotient (Instr.div (8 : BitVec 5)
    (8 : BitVec 5) (9 : BitVec 5) (0 : BitVec 2) (2 : BitVec 2)) = some ((8 : BitVec 5), (8 : BitVec 5), (9 : BitVec
    5), (0 : BitVec 2), (2 : BitVec 2), fun (x y : Word) => if y = (0 : Word) then (0 : Word) else BitVec.ofInt 64
    (Int.tdiv (BitVec.toInt x) (BitVec.toInt y)))) := by
  refine ⟨?_, ?_⟩
  · unfold Canonical MemOk Executing ReadyNow Writable; decide +kernel
  · rfl

theorem witness_DividerAndUnits_0_1 :
  (Canonical sD) ∧ (8 < 28) ∧ (thD.pc ≠ lastPc) ∧ ((coreAt sD 0).divq = [Thr.mk sD.cur thD.ctx thD.tid, Thr.mk 1 1 6])
    ∧ (threadAt sD sD.cur = some thD) ∧ (thD.form = Form.inFlight (WaitFor.divider 8 (99 : Word) [] [])) := by
  unfold Canonical MemOk; decide +kernel

theorem witness_DividerAndUnits_1 :
  (Canonical sU) ∧ (sU.now = none) ∧ (threadAt sU sU.cur = some thU) ∧ (thU.form = Form.inFlight WaitFor.unit) ∧
    (named_ sU thU ∉ [Thr.mk 1 1 6]) ∧ (Event.normaliserDone 0 = Event.normaliserDone 0 ∧ (coreAt sU 0).normq =
    [named_ sU thU, Thr.mk 1 1 6] ∧ named_ sU thU ∉ (coreAt sU 0).iterq ∨ Event.normaliserDone 0 =
    Event.iterativeUnitDone 0 ∧ (coreAt sU 0).iterq = [named_ sU thU, Thr.mk 1 1 6] ∧ named_ sU thU ∉ (coreAt sU
    0).normq) := by
  unfold Canonical MemOk; decide +kernel

theorem witness_JumpsAndLinks_0_0 :
  ((Canonical s0) ∧ (threadAt s0 s0.cur = some th0) ∧ (th0.form = Form.ready) ∧ (Writable th0 (BitVec.toNat (1 :
    BitVec 5))) ∧ (∀ x ∈ noSrc, ReadyNow th0 x) ∧ (GoodTarget (5120 : ℤ))) ∧ ((∃ (off : BitVec 20), Instr.jal (1 :
    BitVec 5) (256 : BitVec 20) = Instr.jal (1 : BitVec 5) off ∧ noSrc = [] ∧ (5120 : ℤ) = ↑(BitVec.toNat th0.pc) + (4
    : ℤ) * BitVec.toInt off) ∨ ∃ (a : BitVec 5) (ma : BitVec 2) (imm : BitVec 13), Instr.jal (1 : BitVec 5) (256 :
    BitVec 20) = Instr.jalr (1 : BitVec 5) a ma imm ∧ noSrc = [src a ma] ∧ (5120 : ℤ) = ↑(BitVec.toNat (val th0 a +
    imm64 imm))) := by
  refine ⟨?_, ?_⟩
  · unfold Canonical MemOk ReadyNow Writable GoodTarget; decide +kernel
  · exact Or.inl ⟨_, rfl, rfl, by decide +kernel⟩

theorem witness_JumpsAndLinks_0_1 :
  ((Canonical s0) ∧ (threadAt s0 s0.cur = some th0) ∧ (th0.form = Form.ready) ∧ (Writable th0 (BitVec.toNat (1 :
    BitVec 5))) ∧ (∀ x ∈ noSrc, ReadyNow th0 x) ∧ (¬GoodTarget ((4096 : ℤ) - (16384 : ℤ)))) ∧ ((∃ (off : BitVec 20),
    Instr.jal (1 : BitVec 5) (1044480 : BitVec 20) = Instr.jal (1 : BitVec 5) off ∧ noSrc = [] ∧ (4096 : ℤ) - (16384 :
    ℤ) = ↑(BitVec.toNat th0.pc) + (4 : ℤ) * BitVec.toInt off) ∨ ∃ (a : BitVec 5) (ma : BitVec 2) (imm : BitVec 13),
    Instr.jal (1 : BitVec 5) (1044480 : BitVec 20) = Instr.jalr (1 : BitVec 5) a ma imm ∧ noSrc = [src a ma] ∧ (4096 :
    ℤ) - (16384 : ℤ) = ↑(BitVec.toNat (val th0 a + imm64 imm))) := by
  refine ⟨?_, ?_⟩
  · unfold Canonical MemOk ReadyNow Writable GoodTarget; decide +kernel
  · exact Or.inl ⟨_, rfl, rfl, by decide +kernel⟩

theorem witness_JumpsAndLinks_1 :
  ((Canonical sL) ∧ (threadAt sL sL.cur = some thL) ∧ (thL.form = Form.ready) ∧ (thL.pc = lastPc) ∧ (∀ x ∈ [src (9 :
    BitVec 5) (0 : BitVec 2), src (10 : BitVec 5) (0 : BitVec 2)], ReadyNow thL x) ∧ (Instr.add (8 : BitVec 5) (9 :
    BitVec 5) (10 : BitVec 5) (0 : BitVec 2) (0 : BitVec 2) ≠ Instr.nop → Writable thL 8)) ∧ (regForm (Instr.add (8 :
    BitVec 5) (9 : BitVec 5) (10 : BitVec 5) (0 : BitVec 2) (0 : BitVec 2)) = some ([src (9 : BitVec 5) (0 : BitVec
    2), src (10 : BitVec 5) (0 : BitVec 2)], 8) ∨ Instr.add (8 : BitVec 5) (9 : BitVec 5) (10 : BitVec 5) (0 : BitVec
    2) (0 : BitVec 2) = Instr.nop ∧ [src (9 : BitVec 5) (0 : BitVec 2), src (10 : BitVec 5) (0 : BitVec 2)] = []) := by
  refine ⟨?_, ?_⟩
  · unfold Canonical MemOk ReadyNow Writable; decide +kernel
  · exact Or.inl rfl

theorem witness_Branches_0 :
  ((Canonical s0) ∧ (threadAt s0 s0.cur = some th0) ∧ (th0.form = Form.ready) ∧ (∀ r ∈ [(8 : BitVec 5), (9 : BitVec
    5)], ReadyNow th0 (srcP r)) ∧ ((fun (vs : List Word) => decide (vs[0]? ≠ vs[1]?)) (List.map (val th0) [(8 : BitVec
    5), (9 : BitVec 5)]) = true) ∧ (GoodTarget (↑(BitVec.toNat th0.pc) + (4 : ℤ) * BitVec.toInt (2047 : BitVec 12))))
    ∧ (branchOn (Instr.bne (8 : BitVec 5) (9 : BitVec 5) (2047 : BitVec 12)) = some ([(8 : BitVec 5), (9 : BitVec 5)],
    (2047 : BitVec 12), fun (vs : List Word) => decide (vs[0]? ≠ vs[1]?))) := by
  refine ⟨?_, ?_⟩
  · unfold Canonical MemOk ReadyNow GoodTarget; decide +kernel
  · rfl

theorem witness_Branches_1 :
  ((Canonical s0) ∧ (threadAt s0 s0.cur = some th0) ∧ (th0.form = Form.ready) ∧ (∀ r ∈ [(8 : BitVec 5), (9 : BitVec
    5)], ReadyNow th0 (srcP r)) ∧ ((fun (vs : List Word) => decide (vs[0]? ≠ vs[1]?)) (List.map (val th0) [(8 : BitVec
    5), (9 : BitVec 5)]) = true) ∧ (¬GoodTarget (↑(BitVec.toNat th0.pc) + (4 : ℤ) * BitVec.toInt (2048 : BitVec 12))))
    ∧ (branchOn (Instr.bne (8 : BitVec 5) (9 : BitVec 5) (2048 : BitVec 12)) = some ([(8 : BitVec 5), (9 : BitVec 5)],
    (2048 : BitVec 12), fun (vs : List Word) => decide (vs[0]? ≠ vs[1]?))) := by
  refine ⟨?_, ?_⟩
  · unfold Canonical MemOk ReadyNow GoodTarget; decide +kernel
  · rfl

theorem witness_Branches_2 :
  ((Canonical s0) ∧ (threadAt s0 s0.cur = some th0) ∧ (th0.form = Form.ready) ∧ (∀ r ∈ [(8 : BitVec 5), (9 : BitVec
    5)], ReadyNow th0 (srcP r)) ∧ ((fun (vs : List Word) => decide (vs[0]? = vs[1]?)) (List.map (val th0) [(8 : BitVec
    5), (9 : BitVec 5)]) = false) ∧ (th0.pc ≠ lastPc)) ∧ (branchOn (Instr.beq (8 : BitVec 5) (9 : BitVec 5) (2048 :
    BitVec 12)) = some ([(8 : BitVec 5), (9 : BitVec 5)], (2048 : BitVec 12), fun (vs : List Word) => decide (vs[0]? =
    vs[1]?))) := by
  refine ⟨?_, ?_⟩
  · unfold Canonical MemOk ReadyNow; decide +kernel
  · rfl

theorem witness_Branches_3 :
  ((Canonical sL) ∧ (threadAt sL sL.cur = some thL) ∧ (thL.form = Form.ready) ∧ (∀ r ∈ [(8 : BitVec 5)], ReadyNow thL
    (srcP r)) ∧ ((fun (vs : List Word) => decide (vs[0]? = some (0 : Word))) (List.map (val thL) [(8 : BitVec 5)]) =
    false) ∧ (thL.pc = lastPc)) ∧ (branchOn (Instr.beqz (8 : BitVec 5) (2047 : BitVec 12)) = some ([(8 : BitVec 5)],
    (2047 : BitVec 12), fun (vs : List Word) => decide (vs[0]? = some (0 : Word)))) := by
  refine ⟨?_, ?_⟩
  · unfold Canonical MemOk ReadyNow; decide +kernel
  · rfl

end Sys2Proof.Tests.Scalars
end

