-- ==== Sys2Proof/Tests/Slice0.lean ====
section
/-!
SUPPORT. The model's own tests of decoding and of well-formedness. Every word is written from R29's formats, field by
field from bit 31 down as (value, width), with the major opcodes and selectors of the opcode chapters' tables; the
registers of a word differ from each other, so that exchanged fields would show.
-/
namespace Sys2Proof.Tests

open Sys2Proof.Machine

set_option Elab.async false

/-- A word from its fields, highest first: (value, width). -/
def fieldsWord (fs : List (Nat × Nat)) : Nat := fs.foldl (fun w f => w * 2 ^ f.2 + f.1) 0

/-- Format A (R29). -/
def wordA (op d a b ma mb fn : Nat) : Option Instr :=
  decodeTableWord 32 (fieldsWord [(op, 7), (d, 5), (a, 5), (b, 5), (ma, 2), (mb, 2), (fn, 6)])

/-- Format I (R29). -/
def wordI (op d a ma imm : Nat) : Option Instr :=
  decodeTableWord 32 (fieldsWord [(op, 7), (d, 5), (a, 5), (ma, 2), (imm, 13)])

/-- Formats U and J (R29). -/
def wordU (op d imm : Nat) : Option Instr := decodeTableWord 32 (fieldsWord [(op, 7), (d, 5), (imm, 20)])

/-- Format B (R29). -/
def wordB (op a b cc off : Nat) : Option Instr :=
  decodeTableWord 32 (fieldsWord [(op, 7), (a, 5), (b, 5), (cc, 3), (off, 12)])

/-- Format M (R29). -/
def wordM (op d a sz sc mo off : Nat) : Option Instr :=
  decodeTableWord 32 (fieldsWord [(op, 7), (d, 5), (a, 5), (sz, 2), (sc, 3), (mo, 2), (off, 8)])

/-- Format R (R29). -/
def wordR (op d a b sc mo fn : Nat) : Option Instr :=
  decodeTableWord 32 (fieldsWord [(op, 7), (d, 5), (a, 5), (b, 5), (sc, 3), (mo, 2), (fn, 5)])

/-- Format V (R29). -/
def wordV (op d a b k t fn : Nat) : Option Instr :=
  decodeTableWord 32 (fieldsWord [(op, 7), (d, 5), (a, 5), (b, 5), (k, 2), (t, 3), (fn, 5)])

/-- Format C (R29). -/
def wordC (op c5 a b x : Nat) : Option Instr :=
  decodeTableWord 32 (fieldsWord [(op, 7), (c5, 5), (a, 5), (b, 5), (x, 10)])

/-- Format S (R29). -/
def wordS (op d a csr fn : Nat) : Option Instr :=
  decodeTableWord 32 (fieldsWord [(op, 7), (d, 5), (a, 5), (csr, 12), (fn, 3)])

/-- Format F (R29). -/
def wordF (op fk sc e z : Nat) : Option Instr :=
  decodeTableWord 32 (fieldsWord [(op, 7), (fk, 4), (sc, 3), (e, 1), (z, 17)])

/-! ### One word or more of every family, from the spec's encodings -/

theorem test_decodes_alu : wordA 0x01 3 4 5 1 2 0 = some (.add 3 4 5 1 2) ∧
    wordA 0x02 3 4 5 0 1 3 = some (.div 3 4 5 0 1) := by decide

theorem test_decodes_bits : wordA 0x03 7 8 0 2 0 2 = some (.popc 7 8 2) ∧
    wordA 0x03 7 8 9 0 0 4 = some (.bins 7 8 9 0 0) := by decide

theorem test_decodes_immediates : wordI 0x08 0 0 0 0 = some .nop ∧
    wordI 0x08 3 4 1 0x1FFF = some (.addi 3 4 1 0x1FFF) ∧ wordI 0x0E 3 4 0 0xBF = some (.srai 3 4 0 63) ∧
    wordU 0x10 3 0x80001 = some (.lui 3 0x80001) := by decide

theorem test_decodes_jumps : wordU 0x12 1 0xFFFFF = some (.jal 1 0xFFFFF) ∧
    wordI 0x13 1 2 0 8 = some (.jalr 1 2 0 8) ∧ wordB 0x14 3 4 2 0xFFE = some (.blt 3 4 0xFFE) ∧
    wordB 0x14 3 0 7 1 = some (.bnez 3 1) := by decide

theorem test_decodes_masks : wordA 0x15 1 9 0 0 0 0 = some (.kmovg 1 9 0) ∧
    wordA 0x15 1 2 3 0 0 3 = some (.kor 1 2 3) := by decide

theorem test_decodes_loads_and_stores : wordM 0x18 3 4 2 1 1 0x80 = some (.ld 3 4 2 1 1 0x80) ∧
    wordM 0x1A 3 4 3 4 2 1 = some (.st 3 4 3 4 2 1) ∧ wordM 0x1B 4 5 3 0 0 2 = some (.ldp 4 5 3 0 2) := by decide

theorem test_decodes_words : wordM 0x1C 3 4 3 1 1 2 = some (.ldsync 3 4 3 1 1 2) ∧
    wordM 0x1E 0 4 1 2 2 3 = some (.feset 4 2 2 3) ∧ wordM 0x1F 3 4 2 3 0 1 = some (.ldmon 3 4 2 3 0 1) := by decide

theorem test_decodes_atomics : wordR 0x20 3 4 5 3 3 8 = some (.amoSwap 3 4 5 3 3) ∧
    wordR 0x21 3 4 5 4 1 1 = some (.casD 3 4 5 4 1) ∧ wordR 0x22 0 4 5 2 0 9 = some (.redFadd 4 5 2) := by decide

theorem test_decodes_fences_and_caches : wordF 0x23 0b1001 4 1 0 = some (.fence 0b1001 4 1) ∧
    wordM 0x24 0 4 2 3 0 5 = some (.cinval 4 3 5) := by decide

theorem test_decodes_vector_arithmetic : wordV 0x28 3 4 5 1 2 9 = some (.vmac 3 4 5 1 2) ∧
    wordV 0x29 3 4 5 2 6 3 = some (.vfma 3 4 5 2 6) ∧ wordV 0x2A 3 4 5 3 1 4 = some (.vshl 3 4 5 3 1) ∧
    wordV 0x2B 2 4 5 1 0 2 = some (.vcmpLtu 2 4 5 1 0) := by decide

theorem test_decodes_vector_moves : wordV 0x2C 3 4 5 0 7 1 = some (.vext 3 4 5 7) ∧
    wordV 0x2C 3 4 0 1 3 9 = some (.vcompress 3 4 1 3) ∧ wordV 0x2D 3 4 0b01110 2 4 0 = some (.vcvt 3 4 1 6 2 4) ∧
    wordV 0x2D 3 4 5 2 6 1 = some (.vdec 3 4 5 2 6) ∧ wordV 0x2D 0 4 3 0 0 3 = some (.vtabld 4 3) := by decide

theorem test_decodes_vector_memory : wordV 0x2E 3 4 5 1 2 2 = some (.vldx 3 4 5 1 2) ∧
    wordV 0x2F 3 4 5 2 7 1 = some (.vsts 3 4 5 2 7) := by decide

theorem test_decodes_threads : wordA 0x30 3 4 5 0 1 0 = some (.spawn 3 4 5 0 1) ∧
    wordA 0x30 3 0 0 0 0 4 = some (.tid 3) ∧ wordA 0x30 23 5 0 0 0 5 = some (.migr 23 5 0) := by decide

theorem test_decodes_queues : wordA 0x31 3 4 5 2 0 0 = some (.send 3 4 5 2 0) ∧
    wordA 0x32 30 5 0 1 0 0 = some (.qbind 2 5 1) ∧ wordA 0x32 3 29 0 0 0 1 = some (.qstat 3 1) := by decide

theorem test_decodes_tiles : wordA 0x34 3 4 5 0 0 2 = some (.tstage 3 4 5 0 0) ∧
    wordA 0x34 0 4 5 1 2 9 = some (.tbst 4 5 1 2) := by decide

theorem test_decodes_array : wordC 0x38 0 4 5 0x301 = some (.mma 4 5 3 1) ∧
    wordC 0x38 2 4 0 0x106 = some (.mset 4 1 6) ∧ wordA 0x39 3 4 0 1 0 1 = some (.accrd 3 4 1) := by decide

theorem test_decodes_copy : wordC 0x3A 0 4 5 0x200 = some (.xcopy 4 5 2) ∧
    wordC 0x3A 1 4 0 0x125 = some (.xset 4 1 37) ∧ wordC 0x3A 3 0 0 0x301 = some (.xcancel 3 1) := by decide

theorem test_decodes_barriers_and_tasks : wordA 0x3B 3 4 5 1 0 1 = some (.barArrive 3 4 5 1 0) ∧
    wordA 0x3C 3 4 5 0 2 0 = some (.tlRead 3 4 5 0 2) ∧ wordA 0x3D 3 4 5 0 1 2 = some (.taskDep 3 4 5 0 1) := by decide

theorem test_decodes_groups_and_storage : wordA 0x3E 3 4 5 0 1 1 = some (.collStart 3 4 5 0 1) ∧
    wordA 0x3F 3 4 0 2 0 1 = some (.stoWrite 3 4 2) := by decide

theorem test_decodes_system : wordS 0x70 3 0 0xC04 0 = some (.csrRd 3 0xC04) ∧
    wordS 0x70 0 4 0x800 1 = some (.csrWr 4 0x800) ∧ wordA 0x71 0 4 5 1 2 1 = some (.sysRet 4 5 1 2) ∧
    wordA 0x71 0 0 0 0 0 6 = some .fenceXlat ∧ wordA 0x78 3 4 5 0 0 1 = some (.stblk 3 4 5) := by decide

/-! ### Well-formedness: an ill-formed term for each check of R46, refused under its own reason -/

theorem test_wellFormed_accepts : (Instr.add 3 4 5 1 2).wellFormed = true ∧
    (Instr.ld 3 4 2 1 1 0).wellFormed = true := by decide

/-- Info 0: an event has no word, so no major opcode is its own. -/
theorem test_wellFormed_major : Instr.cycle.faults.first = some .major ∧ Instr.cycle.wellFormed = false := by decide

/-- Info 1: an unlisted element type (R182), a number that names no system register (R425), a parameter past 37. -/
theorem test_wellFormed_selector : (Instr.vadd 3 4 5 0 7).faults.first = some .selector ∧
    (Instr.csrRd 3 0x00E).faults.first = some .selector ∧ (Instr.xset 4 0 38).faults.first = some .selector := by decide

/-- Info 2: a part of vcvt at or past the ratio of the widths (R194). -/
theorem test_wellFormed_reserved : (Instr.vcvt 3 4 2 6 0 4).faults.first = some .reserved := by decide

/-- Info 3: mode 11 (R32), and a mode on a queue name (R41). -/
theorem test_wellFormed_mode : (Instr.add 3 4 5 3 0).faults.first = some .mode ∧
    (Instr.add 3 28 5 1 0).faults.first = some .mode := by decide

/-- Info 4: scope 5 (R32), and a release load (R33). -/
theorem test_wellFormed_order : (Instr.amoAdd 3 4 5 5 0).faults.first = some .order ∧
    (Instr.ld 3 4 2 1 2 0).faults.first = some .order := by decide

/-- Info 6: a queue name where none may stand (R146), and k0 as a destination (R36). -/
theorem test_wellFormed_class : (Instr.tid 28).faults.first = some .regClass ∧
    (Instr.vcmpEq 0 4 5 0 0).faults.first = some .regClass := by decide

/-- Info 7: a fence that orders nothing. -/
theorem test_wellFormed_fence : (Instr.fence 0 4 0).faults.first = some .fence := by decide

/-- Where several reasons apply, the lowest is the word's (R46). -/
theorem test_wellFormed_lowest : (Instr.spawn 28 4 5 3 0).faults.first = some .mode := by decide

/-! ### Words that are no instruction -/

theorem test_refuses_words : decode 0 = .error .major ∧
    decode (BitVec.ofNat 32 (fieldsWord [(0x01, 7), (3, 5), (4, 5), (5, 5), (0, 2), (0, 2), (19, 6)])) = .error .selector ∧
    decode (BitVec.ofNat 32 (fieldsWord [(0x03, 7), (3, 5), (4, 5), (1, 5), (0, 2), (0, 2), (0, 6)])) = .error .reserved ∧
    decodeBytes [1, 2, 3] = .error .short := by decide

/-! ### The window sum, by the spec's worked examples (R84) -/

/-- 1, 2^-24 and 2^-60: midway, and the infinitesimal rounds it up. -/
theorem test_window_midpoint :
    windowSum [.fin false 1 0, .fin false 1 (-24), .fin false 1 (-60)] = 0x3F800001 := by decide +kernel

/-- 2^30, -2^30 and -2^-20: the floor is -2^-18, which rounds to itself though a part was cut off. -/
theorem test_window_negative :
    windowSum [.fin false 1 30, .fin true 1 30, .fin true 1 (-20)] = 0xB6800000 := by decide +kernel

/-! ### The functions that R386 and R389 name -/

/-- SHA-512 of "abc" (FIPS 180-4's example). -/
theorem test_sha512_abc :
    (sha512 [0x61, 0x62, 0x63]).take 8 = [0xdd, 0xaf, 0x35, 0xa1, 0x93, 0x61, 0x7a, 0xba] := by decide +kernel

/-- RFC 8032's first test vector: an empty message under this key has this signature. -/
theorem test_ed25519_empty : edVerify
  [0xd7, 0x5a, 0x98, 0x01, 0x82, 0xb1, 0x0a, 0xb7, 0xd5, 0x4b, 0xfe, 0xd3, 0xc9, 0x64, 0x07, 0x3a,
   0x0e, 0xe1, 0x72, 0xf3, 0xda, 0xa6, 0x23, 0x25, 0xaf, 0x02, 0x1a, 0x68, 0xf7, 0x07, 0x51, 0x1a] []
  ([0xe5, 0x56, 0x43, 0x00, 0xc3, 0x60, 0xac, 0x72, 0x90, 0x86, 0xe2, 0xcc, 0x80, 0x6e, 0x82, 0x8a,
   0x84, 0x87, 0x7f, 0x1e, 0xb8, 0xe5, 0xd9, 0x74, 0xd8, 0x73, 0xe0, 0x65, 0x22, 0x49, 0x01, 0x55] ++
   [0x5f, 0xb8, 0x82, 0x15, 0x90, 0xa3, 0x3b, 0xac, 0xc6, 0x1e, 0x39, 0x70, 0x1c, 0xf9, 0xb4, 0x6b,
   0xd2, 0x5b, 0xf5, 0xf0, 0x59, 0x5b, 0xbe, 0x24, 0x65, 0x51, 0x41, 0x43, 0x8e, 0x7a, 0x10, 0x0b]) = true := by decide +kernel

end Sys2Proof.Tests
end

