-- ==== Sys2Proof/Tests/Tasks.lean ====
section
/-!
SUPPORT. Witnesses: machines that meet the hypotheses of the statements on barriers and tasks.
-/
namespace Sys2Proof.Tests.Tasks

open Sys2Proof Sys2Proof.Machine Sys2Proof.Safety Sys2Proof.Tests
open Sys2Proof.Tests.Shared (th0 s0 base m0)

set_option Elab.async false
set_option maxRecDepth 8000
set_option synthInstance.maxSize 1024

/-- A record of 16 bytes at which the executing thread's action passes, checked by evaluation. -/
theorem at_record (s : State) (k : Acc) (va : Word) (pa : Nat)
    (h : plan k false false [(0, va, 16)] s = .go [⟨0, va, 16, pa⟩] ∧ va.toNat % 16 = 0 ∧ pa % 16 = 0 ∧ pa + 16 ≤ dramTop ∧
      routeFenced s (s.cur / 16) (homeUnit (homeOf va pa)) = false ∧ lineQueued s (s.cur / 16) (pa / 32) = false ∧
      xlatFind s va.toNat = none ∧ s.agenda = []) (hp : PlainLine s (homeOf va pa) (pa / 32)) : AtRecord s k va pa :=
  ⟨⟨_, h.1, rfl, rfl⟩, h.2.1, h.2.2.1, h.2.2.2.1, h.2.2.2.2.1, h.2.2.2.2.2.1,
    fun _ => by simp [orderedOut, h.2.2.2.2.2.2.2], hp, fun x hx => by rw [h.2.2.2.2.2.2.1] at hx; cases hx⟩

/-- A task record on which the executing thread's action passes, checked by evaluation. -/
theorem at_task (s : State) (th : Thread) (r : Word) (pa : Nat)
    (h : r.toNat % 64 = 0 ∧ inTable s th.ctx r = true ∧ plan .write false false [(0, r, 64)] s = .go [⟨0, r, 64, pa⟩] ∧
      routeFenced s (s.cur / 16) (homeUnit (homeOf r pa)) = false ∧ ∀ i, i < 2 →
        lineQueued s (s.cur / 16) (pa / 32 + i) = false ∧ tileAt s (homeOf r pa) (pa / 32 + i) = none ∧
          (dirAt s (pa / 32 + i)).uop = none ∧ (dirAt s (pa / 32 + i)).host = false)
    (ho : ownOk s = true) (hv : VaultAt s th.ctx r.toNat 64 pa) : AtTask s th r pa :=
  ⟨h.1, h.2.1, ⟨_, h.2.2.1, rfl, rfl⟩, h.2.2.2.1,
    fun i hi => ⟨(h.2.2.2.2 i hi).1, plain_of s _ _ (h.2.2.2.2 i hi).2 ho⟩, hv⟩

/-- Stretches beside the tables that do not overlap, checked by evaluation. -/
theorem spread_at (s : State) (ctx : Nat) (l : List (Nat × Nat)) (h : fld s.host.xroot 12 27 = 0 ∧ (∀ x ∈ s.mem, 2048 ≤ x.1) ∧
      s.host.ctxtab.toNat + 1024 * ctx + 1031 ≤ altBase ∧ PlainTables s ctx ∧
      l.Pairwise (fun x y => x.1 + x.2 ≤ y.1 ∨ y.1 + y.2 ≤ x.1) ∧
      ∀ p ∈ l, 2048 ≤ p.1 ∧ (p.1 + p.2 ≤ s.host.ctxtab.toNat + 1024 * ctx ∨ s.host.ctxtab.toNat + 1024 * ctx + 1031 ≤ p.1)) :
    Spread s ctx l :=
  spread_of s ctx l h.1 h.2.1 h.2.2.1 h.2.2.2.1 h.2.2.2.2.1 h.2.2.2.2.2

/-- A barrier record in DRAM at 0x7000 that expects two arrivals in phase 0; g14 names it, g15 holds 0, g16 1. -/
def thB : Thread := base [(14, lin 0x7000), (15, 0), (16, 1), (17, 5), (18, 9)]
def barW0 (arrived : Nat) : Word := BitVec.ofNat 64 (2 * 2 ^ 32 + arrived * 2 ^ 48)
def sBar : State := mem [(0x7000, barW0 0), (0x7008, 0x100)] (m0 (run thB))
def sBarL : State := mem [(0x7000, barW0 1), (0x7008, BitVec.ofNat 64 (0x300 + 2 ^ 60 + 7 * 2 ^ 20))] (m0 (run thB))

/-- The context's task table: record i at 0x2C000 + 64 i. Record 1 is idle, 2 and 5 too, 3 waits to be read, 4 is done. -/
def rec_ (i : Nat) : Word := lin (0x2C000 + 64 * i)
def taskMem : List (Nat × Word) :=
  [(0x104A0, BitVec.ofNat 64 (16 + 16 * 2 ^ 32)), (0x104B0, 0x0101010101010101), (0x104B8, 0x0101010101010101),
   (0x10530, lin 0x32000), (0x2C0C0, BitVec.ofNat 64 (2 ^ 48)), (0x2C100, BitVec.ofNat 64 (7 * 2 ^ 48)),
   (0x2C140, BitVec.ofNat 64 (5 * 2 ^ 48)), (0x2C198, BitVec.ofNat 64 (2 + 2 * 2 ^ 20 + 2 * 2 ^ 40)), (0x2C1A0, 2)]
def thT : Thread := base [(14, rec_ 1), (15, 0), (16, rec_ 3), (17, rec_ 2), (18, rec_ 4), (19, 1), (20, 2), (21, 3), (22, rec_ 5), (23, 0x11), (24, rec_ 6)]
def sT : State := mem taskMem (m0 (run thT))
def thU : Thread := { thT with status := 0 }
def sU : State := mem taskMem (m0 (run thU))
def thD : Thread := { thT with task := rec_ 3 }
def sD : State := mem taskMem (m0 (run thD))

/-- Tellers: record 3 read with and without predecessors, waiting on one, ready, matched. -/
def sTell (pend st : Nat) : State := mem [(0x2C0C0, BitVec.ofNat 64 (0xFFF + pend * 2 ^ 16 + st * 2 ^ 48))] (mem taskMem b0)
def entOf (m : Option Nat) : TaskEnt := { addr := rec_ 3, prio := 0, since := 1, matched := m }
def queued (m : Option Nat) (s : State) (chip : Nat) : State :=
  setCtx s 1 { ctxAt s 1 with taskq := [(16 * chip, [entOf m])] }
def sReady : State := queued none (sTell 0 3) 0
def sMatched (chip : Nat) : State := queued (some 2) (sTell 0 4) chip
/-- A barrier record on a page that the context may write. -/
def leafB : Word := BitVec.ofNat 64 (0x59 + 8 * 2 ^ 25)
def sBarP : State :=
  let s := mem [(0x8000, barW0 0), (0x8008, 0x100), (0x10600, 8)] b0
  setSlice s (sliceOfVa 0x8000) { sliceAt s (sliceOfVa 0x8000) with xlat := [⟨0x8000, 12, leafB, 0x9000, true, Vector.replicate 8 0, []⟩] }

theorem witness_Bar_0_0 :
  ((Canonical sBar) ∧ (Executing sBar thB) ∧ (thB.acqOut = 0) ∧ (ReadyNow thB (src (14 : BitVec 5) (0 : BitVec 2))) ∧
    (ReadyNow thB (src (17 : BitVec 5) (0 : BitVec 2))) ∧ (fld (val thB (17 : BitVec 5)) 24 1 = 0) ∧ (fld (val thB (17
    : BitVec 5)) 26 38 = 0) ∧ (¬((readBar sBar 28672).valid = true ∧ (readBar sBar 28672).listed = true))) ∧ (AtRecord
    sBar Acc.write (val thB (14 : BitVec 5)) 28672) := by
  refine ⟨?_, ?_⟩
  · unfold Canonical MemOk Executing ReadyNow; decide +kernel
  · exact at_record _ _ _ _ (by decide +kernel) (plain_of _ _ _ (by decide +kernel) (by decide +kernel))

theorem witness_Bar_0_1 :
  ((Canonical sBar) ∧ (Executing sBar thB) ∧ (thB.acqOut = 0) ∧ (ReadyNow thB (src (14 : BitVec 5) (0 : BitVec 2))) ∧
    (ReadyNow thB (src (16 : BitVec 5) (0 : BitVec 2))) ∧ (Writable thB (BitVec.toNat (4 : BitVec 5))) ∧ (releasedAt
    sBar sBar.cur thB = true) ∧ (0 < BitVec.toNat (val thB (16 : BitVec 5))) ∧ (BitVec.toNat (val thB (16 : BitVec 5))
    < 65536) ∧ (Counting (readBar sBar 28672)) ∧ ((readBar sBar 28672).arrived + BitVec.toNat (val thB (16 : BitVec
    5)) ≤ (readBar sBar 28672).expected)) ∧ (AtRecord sBar Acc.write (val thB (14 : BitVec 5)) 28672) := by
  refine ⟨?_, ?_⟩
  · unfold Canonical MemOk Executing ReadyNow Writable Counting; decide +kernel
  · exact at_record _ _ _ _ (by decide +kernel) (plain_of _ _ _ (by decide +kernel) (by decide +kernel))

theorem witness_Bar_0_2 :
  ((Canonical sBar) ∧ (Executing sBar thB) ∧ (thB.acqOut = 0) ∧ (ReadyNow thB (src (14 : BitVec 5) (0 : BitVec 2))) ∧
    (ReadyNow thB (src (17 : BitVec 5) (0 : BitVec 2))) ∧ (Writable thB (BitVec.toNat (4 : BitVec 5))) ∧ (fld (val thB
    (17 : BitVec 5)) 33 31 = 0) ∧ (fld (val thB (17 : BitVec 5)) 31 1 = 0) ∧ (Counting (readBar sBar 28672)) ∧
    ((readBar sBar 28672).pending + ↑(fld (val thB (17 : BitVec 5)) 0 31) < (2 : ℤ) ^ 31) ∧ ((readBar sBar
    28672).posted = false → fld (val thB (17 : BitVec 5)) 32 1 = 1 → (0 : ℤ) ≤ (readBar sBar 28672).pending + ↑(fld
    (val thB (17 : BitVec 5)) 0 31))) ∧ (AtRecord sBar Acc.write (val thB (14 : BitVec 5)) 28672) := by
  refine ⟨?_, ?_⟩
  · unfold Canonical MemOk Executing ReadyNow Writable Counting; decide +kernel
  · exact at_record _ _ _ _ (by decide +kernel) (plain_of _ _ _ (by decide +kernel) (by decide +kernel))

theorem witness_Bar_0_3_0 :
  ((Canonical sBar) ∧ (Executing sBar thB) ∧ (thB.acqOut = 0) ∧ (ReadyNow thB (src (14 : BitVec 5) (0 : BitVec 2))) ∧
    (ReadyNow thB (src (16 : BitVec 5) (0 : BitVec 2))) ∧ (BitVec.toNat (val thB (16 : BitVec 5)) < 256) ∧ ((readBar
    sBar 28672).valid = true) ∧ ((readBar sBar 28672).reserved = 0) ∧ ((readBar sBar 28672).faulted = true ∨ (readBar
    sBar 28672).phase ≠ BitVec.toNat (val thB (16 : BitVec 5))) ∧ (fld (v64 sBar thB.ctx (barLink sBar thB.ctx thB.tid
    + 8)) 21 1 = 0 ∨ v64 sBar thB.ctx (barLink sBar thB.ctx thB.tid) = val thB (14 : BitVec 5))) ∧ (AtRecord sBar
    Acc.read (val thB (14 : BitVec 5)) 28672) := by
  refine ⟨?_, ?_⟩
  · unfold Canonical MemOk Executing ReadyNow; decide +kernel
  · exact at_record _ _ _ _ (by decide +kernel) (plain_of _ _ _ (by decide +kernel) (by decide +kernel))

theorem witness_Bar_0_3_1 :
  ((Canonical sBar) ∧ (Executing sBar thB) ∧ (thB.acqOut = 0) ∧ (ReadyNow thB (src (14 : BitVec 5) (0 : BitVec 2))) ∧
    (ReadyNow thB (src (15 : BitVec 5) (0 : BitVec 2))) ∧ (BitVec.toNat (val thB (15 : BitVec 5)) < 256) ∧ ((readBar
    sBar 28672).valid = true) ∧ ((readBar sBar 28672).reserved = 0) ∧ ((readBar sBar 28672).faulted = false) ∧
    ((readBar sBar 28672).phase = BitVec.toNat (val thB (15 : BitVec 5))) ∧ ((readBar sBar 28672).listed = false) ∧
    (thB.tid < 2 ^ 20) ∧ (fld (v64 sBar thB.ctx (barLink sBar thB.ctx thB.tid + 8)) 21 1 = 0) ∧ (NoWake sBar thB)) ∧
    (AtRecord sBar Acc.read (val thB (14 : BitVec 5)) 28672) := by
  refine ⟨?_, ?_⟩
  · unfold Canonical MemOk Executing ReadyNow NoWake; decide +kernel
  · exact at_record _ _ _ _ (by decide +kernel) (plain_of _ _ _ (by decide +kernel) (by decide +kernel))

theorem witness_Bar_0_4 :
  ((Canonical sBarL) ∧ (Executing sBarL thB) ∧ (thB.acqOut = 0) ∧ (ReadyNow thB (src (14 : BitVec 5) (0 : BitVec 2)))
    ∧ (ReadyNow thB (src (15 : BitVec 5) (0 : BitVec 2)))) ∧ (AtRecord sBarL Acc.write (val thB (14 : BitVec 5))
    28672) := by
  refine ⟨?_, ?_⟩
  · unfold Canonical MemOk Executing ReadyNow; decide +kernel
  · exact at_record _ _ _ _ (by decide +kernel) (plain_of _ _ _ (by decide +kernel) (by decide +kernel))

theorem witness_Task_0 :
  ((Canonical sT) ∧ (Executing sT thT) ∧ (thT.acqOut = 0) ∧ (ReadyNow thT (src (14 : BitVec 5) (0 : BitVec 2))) ∧
    (ReadyNow thT (src (15 : BitVec 5) (0 : BitVec 2))) ∧ (Writable thT (BitVec.toNat (4 : BitVec 5))) ∧ (taskState sT
    thT.ctx (val thT (14 : BitVec 5)) = 0) ∧ (0 = 0 ∨ 0 = 5 ∨ 0 = 7) ∧ (reservedInTask sT thT.ctx (val thT (14 :
    BitVec 5)) = false) ∧ (BitVec.toNat (val thT (15 : BitVec 5)) < 16) ∧ (taskOp sT thT.ctx (val thT (14 : BitVec 5))
    ≠ 4095) ∧ (releasedAt sT sT.cur thT = true)) ∧ (AtTask sT thT (val thT (14 : BitVec 5)) 180288) ∧ (Spread sT
    thT.ctx [(180288, 64)]) ∧ (∃ c ∈ (ctxAt sT thT.ctx).cells, bits (BitVec.toNat (rdByte sT (ctxField sT thT.ctx (176
    + BitVec.toNat (val thT (15 : BitVec 5)))))) (chipOfCell c) 1 = 1) := by
  refine ⟨?_, ?_, ?_, ?_⟩
  · unfold Canonical MemOk Executing ReadyNow Writable; decide +kernel
  · exact at_task _ _ _ _ (by decide +kernel) (by decide +kernel) (vault_of _ _ _ _ _ (by decide +kernel) (by decide +kernel))
  · exact spread_at _ _ _ (by decide +kernel)
  · exact ⟨0, by decide +kernel, by decide +kernel⟩

theorem witness_Task_1 :
  ((Canonical sT) ∧ (Executing sT thT) ∧ (thT.acqOut = 0) ∧ (ReadyNow thT (src (16 : BitVec 5) (0 : BitVec 2))) ∧
    (ReadyNow thT (src (15 : BitVec 5) (0 : BitVec 2))) ∧ (Writable thT (BitVec.toNat (4 : BitVec 5))) ∧ (taskState sT
    thT.ctx (val thT (16 : BitVec 5)) ≠ 0) ∧ (taskState sT thT.ctx (val thT (16 : BitVec 5)) ≠ 5) ∧ (taskState sT
    thT.ctx (val thT (16 : BitVec 5)) ≠ 7)) ∧ (AtTask sT thT (val thT (16 : BitVec 5)) 180416) := by
  refine ⟨?_, ?_⟩
  · unfold Canonical MemOk Executing ReadyNow Writable; decide +kernel
  · exact at_task _ _ _ _ (by decide +kernel) (by decide +kernel) (vault_of _ _ _ _ _ (by decide +kernel) (by decide +kernel))

theorem witness_Task_2 :
  (Canonical sT) ∧ (Executing sT thT) ∧ (thT.acqOut = 0) ∧ (ReadyNow thT (src (14 : BitVec 5) (0 : BitVec 2))) ∧
    (ReadyNow thT (src (15 : BitVec 5) (0 : BitVec 2))) ∧ (Writable thT (BitVec.toNat (4 : BitVec 5))) ∧ (val thT (15
    : BitVec 5) = (0 : Word)) ∧ (thT.task = (0 : Word)) := by
  unfold Canonical MemOk Executing ReadyNow Writable; decide +kernel

theorem witness_Task_3 :
  (Canonical sU) ∧ (Executing sU thU) ∧ (thU.acqOut = 0) ∧ (ReadyNow thU (src (14 : BitVec 5) (0 : BitVec 2))) ∧
    (ReadyNow thU (src (19 : BitVec 5) (0 : BitVec 2))) ∧ (Writable thU (BitVec.toNat (4 : BitVec 5))) ∧ (val thU (19
    : BitVec 5) ≠ (0 : Word)) ∧ (privOf thU = 0) := by
  unfold Canonical MemOk Executing ReadyNow Writable; decide +kernel

theorem witness_Task_4 :
  ((Canonical sD) ∧ (Executing sD thD) ∧ (thD.acqOut = 0) ∧ (ReadyNow thD (src (14 : BitVec 5) (0 : BitVec 2))) ∧
    (ReadyNow thD (src (15 : BitVec 5) (0 : BitVec 2))) ∧ (Writable thD (BitVec.toNat (4 : BitVec 5))) ∧ (val thD (15
    : BitVec 5) = (0 : Word)) ∧ (thD.task ≠ (0 : Word)) ∧ (releasedAt sD sD.cur thD = true) ∧ (engineBusy sD thD =
    false) ∧ (engBusy sD (sD.cur / 16) thD.tid thD.ctx = false) ∧ (fld (tw sD thD.ctx thD.task 0) 39 6 = 0)) ∧
    (VaultAt sD thD.ctx (BitVec.toNat thD.task) 64 180416) ∧ (VaultAt sD thD.ctx (taskLink sD thD.ctx thD.tid) 32
    204960) ∧ (Spread sD thD.ctx [(180416, 64), (204960, 32)]) := by
  refine ⟨?_, ?_, ?_, ?_⟩
  · unfold Canonical MemOk Executing ReadyNow Writable; decide +kernel
  · unfold VaultAt; exact dec_own (fun _ => inferInstance) (by decide +kernel)
  · unfold VaultAt; exact dec_own (fun _ => inferInstance) (by decide +kernel)
  · exact spread_at _ _ _ (by decide +kernel)

theorem witness_Teller_0_0 :
  ((Canonical (sTell 0 2)) ∧ ((sTell 0 2).now = none) ∧ (0 < 8) ∧ (8 + 0 ∉ (sTell 0 2).fencedUnits) ∧ (taskState
    (sTell 0 2) 1 (rec_ 3) ≠ 1)) ∧ (VaultAt (sTell 0 2) 1 (BitVec.toNat (rec_ 3)) 64 180416) ∧ (Spread (sTell 0 2) 1
    [(180416, 64)]) := by
  refine ⟨?_, ?_, ?_⟩
  · unfold Canonical MemOk; decide +kernel
  · unfold VaultAt; exact dec_own (fun _ => inferInstance) (by decide +kernel)
  · exact spread_at _ _ _ (by decide +kernel)

theorem witness_Teller_0_1 :
  ((Canonical (sTell 2 1)) ∧ ((sTell 2 1).now = none) ∧ (0 < 8) ∧ (8 + 0 ∉ (sTell 2 1).fencedUnits) ∧ (taskState
    (sTell 2 1) 1 (rec_ 3) = 1) ∧ (taskPending (sTell 2 1) 1 (rec_ 3) ≠ 0)) ∧ (VaultAt (sTell 2 1) 1 (BitVec.toNat
    (rec_ 3)) 64 180416) ∧ (Spread (sTell 2 1) 1 [(180416, 64)]) := by
  refine ⟨?_, ?_, ?_⟩
  · unfold Canonical MemOk; decide +kernel
  · unfold VaultAt; exact dec_own (fun _ => inferInstance) (by decide +kernel)
  · exact spread_at _ _ _ (by decide +kernel)

theorem witness_Teller_0_2 :
  ((Canonical (sTell 0 1)) ∧ ((sTell 0 1).now = none) ∧ (0 < 8) ∧ (8 + 0 ∉ (sTell 0 1).fencedUnits) ∧ (taskState
    (sTell 0 1) 1 (rec_ 3) = 1) ∧ (taskPending (sTell 0 1) 1 (rec_ 3) = 0)) ∧ (VaultAt (sTell 0 1) 1 (BitVec.toNat
    (rec_ 3)) 64 180416) ∧ (Spread (sTell 0 1) 1 [(180416, 64)]) ∧ (EntryAt (sTell 0 1) 1 (taskqVa (sTell 0 1) 1 (16 *
    tellerFor (sTell 0 1) 1 (fld (tw (sTell 0 1) 1 (rec_ 3) 0) 32 4) 0 + fld (tw (sTell 0 1) 1 (rec_ 3) 0) 32 4)) 4
    139264 [(180416, 64)]) := by
  refine ⟨?_, ?_, ?_, ?_⟩
  · unfold Canonical MemOk; decide +kernel
  · unfold VaultAt; exact dec_own (fun _ => inferInstance) (by decide +kernel)
  · exact spread_at _ _ _ (by decide +kernel)
  · exact And.intro (vault_of _ _ _ _ _ (by decide +kernel) (by decide +kernel)) (spread_of _ _ _ (by decide +kernel) (by decide +kernel) (by decide +kernel) (by decide +kernel) (by decide +kernel) (by decide +kernel))

theorem witness_Teller_0_3_0 :
  ((Canonical (sTell 0 3)) ∧ ((sTell 0 3).now = none) ∧ (0 < 8) ∧ (8 + 0 ∉ (sTell 0 3).fencedUnits) ∧ (taskVa (sTell 0
    3) 1 3 = rec_ 3) ∧ (taskPending (sTell 0 3) 1 (rec_ 3) = 0)) ∧ (VaultAt (sTell 0 3) 1 (BitVec.toNat (rec_ 3)) 64
    180416) ∧ (Spread (sTell 0 3) 1 [(180416, 64)]) := by
  refine ⟨?_, ?_, ?_⟩
  · unfold Canonical MemOk; decide +kernel
  · unfold VaultAt; exact dec_own (fun _ => inferInstance) (by decide +kernel)
  · exact spread_at _ _ _ (by decide +kernel)

theorem witness_Teller_0_3_1 :
  ((Canonical (sTell 2 2)) ∧ ((sTell 2 2).now = none) ∧ (0 < 8) ∧ (8 + 0 ∉ (sTell 2 2).fencedUnits) ∧ (taskVa (sTell 2
    2) 1 3 = rec_ 3) ∧ (1 < taskPending (sTell 2 2) 1 (rec_ 3) ∨ taskPending (sTell 2 2) 1 (rec_ 3) = 1 ∧ taskState
    (sTell 2 2) 1 (rec_ 3) ≠ 2)) ∧ (VaultAt (sTell 2 2) 1 (BitVec.toNat (rec_ 3)) 64 180416) ∧ (Spread (sTell 2 2) 1
    [(180416, 64)]) := by
  refine ⟨?_, ?_, ?_⟩
  · unfold Canonical MemOk; decide +kernel
  · unfold VaultAt; exact dec_own (fun _ => inferInstance) (by decide +kernel)
  · exact spread_at _ _ _ (by decide +kernel)

theorem witness_Teller_0_3_2 :
  ((Canonical (sTell 1 2)) ∧ ((sTell 1 2).now = none) ∧ (0 < 8) ∧ (8 + 0 ∉ (sTell 1 2).fencedUnits) ∧ (taskVa (sTell 1
    2) 1 3 = rec_ 3) ∧ (taskPending (sTell 1 2) 1 (rec_ 3) = 1) ∧ (taskState (sTell 1 2) 1 (rec_ 3) = 2)) ∧ (VaultAt
    (sTell 1 2) 1 (BitVec.toNat (rec_ 3)) 64 180416) ∧ (Spread (sTell 1 2) 1 [(180416, 64)]) ∧ (EntryAt (sTell 1 2) 1
    (taskqVa (sTell 1 2) 1 (16 * tellerFor (sTell 1 2) 1 (fld (tw (sTell 1 2) 1 (rec_ 3) 0) 32 4) 0 + fld (tw (sTell 1
    2) 1 (rec_ 3) 0) 32 4)) 4 139264 [(180416, 64)]) := by
  refine ⟨?_, ?_, ?_, ?_⟩
  · unfold Canonical MemOk; decide +kernel
  · unfold VaultAt; exact dec_own (fun _ => inferInstance) (by decide +kernel)
  · exact spread_at _ _ _ (by decide +kernel)
  · exact And.intro (vault_of _ _ _ _ _ (by decide +kernel) (by decide +kernel)) (spread_of _ _ _ (by decide +kernel) (by decide +kernel) (by decide +kernel) (by decide +kernel) (by decide +kernel) (by decide +kernel))

theorem witness_Teller_0_4 :
  ((Canonical sReady) ∧ (sReady.now = none) ∧ (0 < 8) ∧ (8 + 0 ∉ sReady.fencedUnits) ∧ (taskEnt sReady 1 (rec_ 3) 0 =
    some (entOf none)) ∧ ((entOf none).matched = none) ∧ ((entOf none).asked = false) ∧ ((entOf none).waits = false))
    ∧ (VaultAt sReady 1 (BitVec.toNat (rec_ 3)) 64 180416) ∧ (Spread sReady 1 [(180416, 64)]) ∧ (taskOp sReady 1 (rec_
    3) = 4095 ∧ 0 = fld (tw sReady 1 (rec_ 3) 7) 8 12 ∨ taskOp sReady 1 (rec_ 3) ≠ 4095 ∧ (∀ x < 4, taskHandle sReady
    1 (rec_ 3) x ≠ 0 → ∃ (slice : ℕ) (y : TileEnt), findTile sReady 1 (BitVec.ofNat 64 (taskHandle sReady 1 (rec_ 3)
    x)) = some (slice, y) ∧ BitVec.getLsbD y.tag 3 = false) ∧ List.find? (fun (y : MethodEnt) => y.key == taskKey
    sReady 1 (rec_ 3)) (Tab.get [] (ctxAt sReady 1).mcache 0) = some (MethodEnt.mk (taskKey sReady 1 (rec_ 3)) 0)) := by
  refine ⟨?_, ?_, ?_, ?_⟩
  · unfold Canonical MemOk; decide +kernel
  · unfold VaultAt; exact dec_own (fun _ => inferInstance) (by decide +kernel)
  · exact spread_at _ _ _ (by decide +kernel)
  · exact Or.inl (by decide +kernel)

theorem witness_Teller_1_0 :
  (Canonical (sMatched 3)) ∧ ((sMatched 3).now = none) ∧ (3 < 8) ∧ (8 + 3 ∉ (sMatched 3).fencedUnits) ∧ (taskEnt
    (sMatched 3) 1 (rec_ 3) 3 = some (entOf (some 2))) ∧ ((entOf (some 2)).matched = some 2) ∧ (firstTid (sMatched 3)
    1 = some 7) ∧ ((ctxAt (sMatched 3) 1).st = CtxState.resident) ∧ (List.filter (fun (c : ℕ) => chipOfCell c == 3 &&
    Option.isSome (freeEng (sMatched 3) c) && Option.isSome (slotInCell (sMatched 3) 1 (Option.elim (List.find? (fun
    (x : ℕ) => taskHandle (sMatched 3) 1 (rec_ 3) x != 0) (List.range 4)) 0 (taskHandle (sMatched 3) 1 (rec_ 3))) c))
    (ctxAt (sMatched 3) 1).cells = []) := by
  unfold Canonical MemOk; decide +kernel

theorem witness_Teller_1_1 :
  ((Canonical (sMatched 0)) ∧ ((sMatched 0).now = none) ∧ (0 < 8) ∧ (8 + 0 ∉ (sMatched 0).fencedUnits) ∧ (taskEnt
    (sMatched 0) 1 (rec_ 3) 0 = some (entOf (some 2))) ∧ ((entOf (some 2)).matched = some 2) ∧ (firstTid (sMatched 0)
    1 = some 7) ∧ ((ctxAt (sMatched 0) 1).st = CtxState.resident) ∧ (leastBy (cellRank (sMatched 0) 1 0 (Option.elim
    (List.find? (fun (x : ℕ) => taskHandle (sMatched 0) 1 (rec_ 3) x != 0) (List.range 4)) 0 (taskHandle (sMatched 0)
    1 (rec_ 3)))) (List.filter (fun (c : ℕ) => chipOfCell c == 0 && Option.isSome (freeEng (sMatched 0) c) &&
    Option.isSome (slotInCell (sMatched 0) 1 (Option.elim (List.find? (fun (x : ℕ) => taskHandle (sMatched 0) 1 (rec_
    3) x != 0) (List.range 4)) 0 (taskHandle (sMatched 0) 1 (rec_ 3))) c)) (ctxAt (sMatched 0) 1).cells) = some 0) ∧
    (slotInCell (sMatched 0) 1 (Option.elim (List.find? (fun (x : ℕ) => taskHandle (sMatched 0) 1 (rec_ 3) x != 0)
    (List.range 4)) 0 (taskHandle (sMatched 0) 1 (rec_ 3))) 0 = some 0) ∧ (freeEng (sMatched 0) 0 = some 0) ∧ (0 < 4)
    ∧ ((0 / 64 : ℕ) = 0)) ∧ (VaultAt (sMatched 0) 1 (BitVec.toNat (rec_ 3)) 64 180416) ∧ (VaultAt (sMatched 0) 1
    (BitVec.toNat (ctxWord (sMatched 0) 1 16)) 8 196608) ∧ (VaultAt (sMatched 0) 1 (recVa (sMatched 0) 1 7) 64 (131072
    + 64 * 7)) ∧ (VaultAt (sMatched 0) 1 (taskLink (sMatched 0) 1 7) 32 (204800 + 32 * 7)) ∧ (Spread (sMatched 0) 1
    [(180416, 64), (196608, 8), (131072 + 64 * 7, 64), (204800 + 32 * 7, 32)]) := by
  refine ⟨?_, ?_, ?_, ?_, ?_, ?_⟩
  · unfold Canonical MemOk; decide +kernel
  · unfold VaultAt; exact dec_own (fun _ => inferInstance) (by decide +kernel)
  · unfold VaultAt; exact dec_own (fun _ => inferInstance) (by decide +kernel)
  · unfold VaultAt; exact dec_own (fun _ => inferInstance) (by decide +kernel)
  · unfold VaultAt; exact dec_own (fun _ => inferInstance) (by decide +kernel)
  · exact spread_at _ _ _ (by decide +kernel)

theorem witness_Bar_1_0 :
  ((Canonical sBar) ∧ (sBar.now = none) ∧ (28672 % 16 = 0) ∧ (28672 + 16 ≤ dramTop) ∧ (Counting (readBar sBar 28672))
    ∧ (barTarget sBar 0 1 3 (lin 28672) = BarFind.found (BarAt.mk 1 (lin 28672) 28672)) ∧ (2 < 16) ∧ (-(2 : ℤ) ^ 31 ≤
    (readBar sBar 28672).pending - ↑3) ∧ ((readBar sBar 28672).posted = true → (0 : ℤ) ≤ (readBar sBar 28672).pending
    - ↑3)) ∧ (PlainLine sBar (homeOf (lin 28672) 28672) (28672 / 32 : ℕ)) ∧ (DirtyNoted sBar (BitVec.toNat (lin
    28672))) ∧ (∃ (core : ℕ) (e : ℕ), Updater.copy 0 0 = Updater.copy core e) := by
  refine ⟨?_, ?_, ?_, ?_⟩
  · unfold Canonical MemOk Counting; decide +kernel
  · unfold PlainLine; exact dec_own (fun _ => inferInstance) (by decide +kernel)
  · exact Or.inr (by decide +kernel)
  · exact ⟨_, _, rfl⟩

theorem witness_Bar_1_1 :
  ((Canonical sBarP) ∧ (sBarP.now = none) ∧ (32768 % 16 = 0) ∧ (32768 + 16 ≤ dramTop) ∧ (Counting (readBar sBarP
    32768)) ∧ (barTarget sBarP (tellerCore 0) 1 0 (32768 : Word) = BarFind.found (BarAt.mk 1 (32768 : Word) 32768)) ∧
    ((readBar sBarP 32768).arrived < (readBar sBarP 32768).expected)) ∧ (PlainLine sBarP (homeOf (32768 : Word) 32768)
    (32768 / 32 : ℕ)) ∧ (DirtyNoted sBarP (BitVec.toNat (32768 : Word))) := by
  refine ⟨?_, ?_, ?_⟩
  · unfold Canonical MemOk Counting; decide +kernel
  · unfold PlainLine; exact dec_own (fun _ => inferInstance) (by decide +kernel)
  · exact Or.inl ⟨⟨0x8000, 12, leafB, 0x9000, true, Vector.replicate 8 0, []⟩, by decide +kernel, rfl⟩

theorem witness_Bar_1_2 :
  ((Canonical sBar) ∧ (sBar.now = none) ∧ (28672 % 16 = 0) ∧ (28672 + 16 ≤ dramTop) ∧ (Counting (readBar sBar 28672))
    ∧ (barTarget sBar (tellerCore 0) 1 0 (lin 28672) = BarFind.refused) ∧ (sBar.ras.errtail - sBar.ras.errhead <
    4096)) ∧ (PlainLine sBar (homeOf (lin 28672) 28672) (28672 / 32 : ℕ)) ∧ (DirtyNoted sBar (BitVec.toNat (lin
    28672))) := by
  refine ⟨?_, ?_, ?_⟩
  · unfold Canonical MemOk Counting; decide +kernel
  · unfold PlainLine; exact dec_own (fun _ => inferInstance) (by decide +kernel)
  · exact Or.inr (by decide +kernel)

theorem witness_Task_5 :
  ((Canonical sT) ∧ (Executing sT thT) ∧ (thT.acqOut = 0) ∧ (ReadyNow thT (src (14 : BitVec 5) (0 : BitVec 2))) ∧
    (ReadyNow thT (src (22 : BitVec 5) (0 : BitVec 2))) ∧ (Writable thT (BitVec.toNat (4 : BitVec 5))) ∧ (val thT (22
    : BitVec 5) ≠ (0 : Word)) ∧ (privOf thT ≠ 0) ∧ (taskState sT thT.ctx (val thT (22 : BitVec 5)) = 5) ∧ (fld (tw sT
    thT.ctx (val thT (22 : BitVec 5)) 0) 39 6 = 0)) ∧ (AtTask sT thT (val thT (22 : BitVec 5)) 180544) ∧ (Spread sT
    thT.ctx [(180544, 64)]) := by
  refine ⟨?_, ?_, ?_⟩
  · unfold Canonical MemOk Executing ReadyNow Writable; decide +kernel
  · exact at_task _ _ _ _ (by decide +kernel) (by decide +kernel) (vault_of _ _ _ _ _ (by decide +kernel) (by decide +kernel))
  · exact spread_at _ _ _ (by decide +kernel)

theorem witness_Task_6_0 :
  ((Canonical sT) ∧ (Executing sT thT) ∧ (thT.acqOut = 0) ∧ (ReadyNow thT (src (18 : BitVec 5) (0 : BitVec 2))) ∧
    (ReadyNow thT (src (17 : BitVec 5) (0 : BitVec 2))) ∧ (Writable thT (BitVec.toNat (4 : BitVec 5))) ∧ (val thT (18
    : BitVec 5) ≠ val thT (17 : BitVec 5)) ∧ (taskState sT thT.ctx (val thT (17 : BitVec 5)) = 0) ∧ (taskPending sT
    thT.ctx (val thT (17 : BitVec 5)) ≠ 65535) ∧ (taskState sT thT.ctx (val thT (18 : BitVec 5)) = 7)) ∧ (AtTask sT
    thT (val thT (18 : BitVec 5)) 180480) ∧ (AtTask sT thT (val thT (17 : BitVec 5)) 180352) := by
  refine ⟨?_, ?_, ?_⟩
  · unfold Canonical MemOk Executing ReadyNow Writable; decide +kernel
  · exact at_task _ _ _ _ (by decide +kernel) (by decide +kernel) (vault_of _ _ _ _ _ (by decide +kernel) (by decide +kernel))
  · exact at_task _ _ _ _ (by decide +kernel) (by decide +kernel) (vault_of _ _ _ _ _ (by decide +kernel) (by decide +kernel))

theorem witness_Task_6_1 :
  ((Canonical sT) ∧ (Executing sT thT) ∧ (thT.acqOut = 0) ∧ (ReadyNow thT (src (24 : BitVec 5) (0 : BitVec 2))) ∧
    (ReadyNow thT (src (17 : BitVec 5) (0 : BitVec 2))) ∧ (Writable thT (BitVec.toNat (4 : BitVec 5))) ∧ (val thT (24
    : BitVec 5) ≠ val thT (17 : BitVec 5)) ∧ (taskState sT thT.ctx (val thT (17 : BitVec 5)) = 0) ∧ (taskPending sT
    thT.ctx (val thT (17 : BitVec 5)) ≠ 65535) ∧ (taskState sT thT.ctx (val thT (24 : BitVec 5)) ≠ 7) ∧ (∀ f ∈
    succFields sT thT.ctx (val thT (24 : BitVec 5)), fieldIdx sT thT.ctx f ≠ 0)) ∧ (AtTask sT thT (val thT (24 :
    BitVec 5)) 180608) ∧ (AtTask sT thT (val thT (17 : BitVec 5)) 180352) := by
  refine ⟨?_, ?_, ?_⟩
  · unfold Canonical MemOk Executing ReadyNow Writable; decide +kernel
  · exact at_task _ _ _ _ (by decide +kernel) (by decide +kernel) (vault_of _ _ _ _ _ (by decide +kernel) (by decide +kernel))
  · exact at_task _ _ _ _ (by decide +kernel) (by decide +kernel) (vault_of _ _ _ _ _ (by decide +kernel) (by decide +kernel))

theorem witness_Task_6_2 :
  ((Canonical sT) ∧ (Executing sT thT) ∧ (thT.acqOut = 0) ∧ (ReadyNow thT (src (14 : BitVec 5) (0 : BitVec 2))) ∧
    (ReadyNow thT (src (17 : BitVec 5) (0 : BitVec 2))) ∧ (Writable thT (BitVec.toNat (4 : BitVec 5))) ∧ (val thT (14
    : BitVec 5) ≠ val thT (17 : BitVec 5)) ∧ (taskState sT thT.ctx (val thT (17 : BitVec 5)) = 0) ∧ (taskPending sT
    thT.ctx (val thT (17 : BitVec 5)) ≠ 65535) ∧ (taskState sT thT.ctx (val thT (14 : BitVec 5)) ≠ 7) ∧ (List.find?
    (fun (f : Word × ℕ × ℕ) => fieldIdx sT thT.ctx f == 0) (succFields sT thT.ctx (val thT (14 : BitVec 5))) = some
    (val thT (14 : BitVec 5), 3, 0)) ∧ (3 < 8)) ∧ (AtTask sT thT (val thT (14 : BitVec 5)) 180288) ∧ (AtTask sT thT
    (val thT (17 : BitVec 5)) 180352) ∧ (Spread sT thT.ctx [(180288, 64), (180352, 64)]) := by
  refine ⟨?_, ?_, ?_, ?_⟩
  · unfold Canonical MemOk Executing ReadyNow Writable; decide +kernel
  · exact at_task _ _ _ _ (by decide +kernel) (by decide +kernel) (vault_of _ _ _ _ _ (by decide +kernel) (by decide +kernel))
  · exact at_task _ _ _ _ (by decide +kernel) (by decide +kernel) (vault_of _ _ _ _ _ (by decide +kernel) (by decide +kernel))
  · exact spread_at _ _ _ (by decide +kernel)

theorem witness_Task_7 :
  ((Canonical sT) ∧ (Executing sT thT) ∧ (thT.acqOut = 0) ∧ (ReadyNow thT (src (14 : BitVec 5) (0 : BitVec 2))) ∧
    (ReadyNow thT (src (16 : BitVec 5) (0 : BitVec 2))) ∧ (Writable thT (BitVec.toNat (4 : BitVec 5))) ∧ (val thT (14
    : BitVec 5) ≠ val thT (16 : BitVec 5)) ∧ (taskState sT thT.ctx (val thT (16 : BitVec 5)) ≠ 0)) ∧ (AtTask sT thT
    (val thT (14 : BitVec 5)) 180288) ∧ (AtTask sT thT (val thT (16 : BitVec 5)) 180416) := by
  refine ⟨?_, ?_, ?_⟩
  · unfold Canonical MemOk Executing ReadyNow Writable; decide +kernel
  · exact at_task _ _ _ _ (by decide +kernel) (by decide +kernel) (vault_of _ _ _ _ _ (by decide +kernel) (by decide +kernel))
  · exact at_task _ _ _ _ (by decide +kernel) (by decide +kernel) (vault_of _ _ _ _ _ (by decide +kernel) (by decide +kernel))

theorem witness_Task_8 :
  (Canonical sT) ∧ (Executing sT thT) ∧ (thT.acqOut = 0) ∧ (ReadyNow thT (src (14 : BitVec 5) (0 : BitVec 2))) ∧
    (ReadyNow thT (src (15 : BitVec 5) (0 : BitVec 2))) ∧ (Writable thT (BitVec.toNat (4 : BitVec 5))) ∧ (val thT (15
    : BitVec 5) = (0 : Word)) := by
  unfold Canonical MemOk Executing ReadyNow Writable; decide +kernel

theorem witness_Task_9 :
  ((Canonical sT) ∧ (Executing sT thT) ∧ (thT.acqOut = 0) ∧ (ReadyNow thT (src (14 : BitVec 5) (0 : BitVec 2))) ∧
    (ReadyNow thT (src (19 : BitVec 5) (0 : BitVec 2))) ∧ (Writable thT (BitVec.toNat (4 : BitVec 5))) ∧ (val thT (19
    : BitVec 5) = (1 : Word)) ∧ (∀ i < 2, (dirAt sT ((180288 / 32 : ℕ) + i)).invs = [])) ∧ (AtTask sT thT (val thT (14
    : BitVec 5)) 180288) := by
  refine ⟨?_, ?_⟩
  · unfold Canonical MemOk Executing ReadyNow Writable; decide +kernel
  · exact at_task _ _ _ _ (by decide +kernel) (by decide +kernel) (vault_of _ _ _ _ _ (by decide +kernel) (by decide +kernel))

theorem witness_Task_10 :
  ((Canonical sT) ∧ (Executing sT thT) ∧ (thT.acqOut = 0) ∧ (ReadyNow thT (src (14 : BitVec 5) (0 : BitVec 2))) ∧
    (ReadyNow thT (src (20 : BitVec 5) (0 : BitVec 2))) ∧ (Writable thT (BitVec.toNat (4 : BitVec 5))) ∧ (val thT (20
    : BitVec 5) = (2 : Word))) ∧ (AtTask sT thT (val thT (14 : BitVec 5)) 180288) := by
  refine ⟨?_, ?_⟩
  · unfold Canonical MemOk Executing ReadyNow Writable; decide +kernel
  · exact at_task _ _ _ _ (by decide +kernel) (by decide +kernel) (vault_of _ _ _ _ _ (by decide +kernel) (by decide +kernel))

theorem witness_Task_11 :
  (Canonical sT) ∧ (Executing sT thT) ∧ (thT.acqOut = 0) ∧ (ReadyNow thT (src (14 : BitVec 5) (0 : BitVec 2))) ∧
    (ReadyNow thT (src (21 : BitVec 5) (0 : BitVec 2))) ∧ (Writable thT (BitVec.toNat (4 : BitVec 5))) ∧ (3 ≤ fld (val
    thT (21 : BitVec 5)) 0 4 ∨ fld (val thT (21 : BitVec 5)) 0 4 = 0 ∧ val thT (21 : BitVec 5) ≠ (0 : Word)) := by
  unfold Canonical MemOk Executing ReadyNow Writable; decide +kernel

theorem witness_Task_12 :
  ((Canonical sT) ∧ (Executing sT thT) ∧ (thT.acqOut = 0) ∧ (ReadyNow thT (src (14 : BitVec 5) (0 : BitVec 2))) ∧
    (ReadyNow thT (src (23 : BitVec 5) (0 : BitVec 2))) ∧ (Writable thT (BitVec.toNat (4 : BitVec 5))) ∧ (fld (val thT
    (23 : BitVec 5)) 0 4 = 1 ∨ fld (val thT (23 : BitVec 5)) 0 4 = 2) ∧ (16 ≤ BitVec.toNat (val thT (23 : BitVec 5))))
    ∧ (AtTask sT thT (val thT (14 : BitVec 5)) 180288) := by
  refine ⟨?_, ?_⟩
  · unfold Canonical MemOk Executing ReadyNow Writable; decide +kernel
  · exact at_task _ _ _ _ (by decide +kernel) (by decide +kernel) (vault_of _ _ _ _ _ (by decide +kernel) (by decide +kernel))

end Sys2Proof.Tests.Tasks
end

