-- ==== Sys2Proof/Tests/Threads.lean ====
section
/-!
SUPPORT. Witnesses: machines that meet the hypotheses of the statements on threads, wakes, pools, messages and queue bindings.
-/
namespace Sys2Proof.Tests.Threads

open Sys2Proof Sys2Proof.Machine Sys2Proof.Safety Sys2Proof.Tests
open Sys2Proof.Tests.Shared (th0 s0 base m0)

set_option Elab.async false
set_option maxRecDepth 8000
set_option synthInstance.maxSize 1024

/-- A record that lies where the vault puts it, checked by evaluation. -/
theorem record_of (s : State) (ctx tid pa : Nat) (h1 : VaultAt s ctx (recVa s ctx tid) 64 pa)
    (h : fld s.host.xroot 12 27 = 0 ∧ (∀ x ∈ s.mem, 2048 ≤ x.1) ∧ s.host.ctxtab.toNat + 1024 * ctx + 1031 ≤ altBase ∧
      PlainTables s ctx ∧ 2048 ≤ pa ∧ (pa + 64 ≤ s.host.ctxtab.toNat + 1024 * ctx ∨ s.host.ctxtab.toNat + 1024 * ctx + 1031 ≤ pa)) :
    RecordAt s ctx tid pa :=
  ⟨h1, apart_within s ctx pa 64 h.1 h.2.1 h.2.2.1 h.2.2.2.1 h.2.2.2.2.1 h.2.2.2.2.2⟩

/-- What holds of the four role queues of a core, checked one by one. -/
theorem roles_open (s : State) (core : Nat) (h : (coreAt s core).roleq = Vector.replicate 4 {}) :
    ∀ c, (roleOf s core c).closed = false := by
  intro c
  unfold roleOf
  rw [h]
  by_cases hc : c < 4
  · rw [Vector.getElem?_eq_getElem hc, Vector.getElem_replicate]; rfl
  · rw [Vector.getElem?_eq_none (by omega)]; rfl

/-- No slot is kept for a pinned thread, checked slot by slot. -/
theorem no_pinned (s : State) (tid ctx : Nat)
    (h : s.slots.all (fun x => match x.2.occ with | .forPinned _ _ _ => false | _ => true) = true) :
    ∀ x ∈ s.slots, ∀ bs, x.2.occ ≠ .forPinned tid ctx bs := by
  intro x hx bs hb
  have := List.all_eq_true.mp h x hx
  rw [hb] at this
  cases this

/-- A record and a counter that lie beside the tables. -/
theorem two_apart (s : State) (ctx a b : Nat) (h : fld s.host.xroot 12 27 = 0 ∧ (∀ x ∈ s.mem, 2048 ≤ x.1) ∧
      s.host.ctxtab.toNat + 1024 * ctx + 1031 ≤ altBase ∧ PlainTables s ctx ∧ 2048 ≤ a ∧ 2048 ≤ b ∧
      s.host.ctxtab.toNat + 1024 * ctx + 1031 ≤ a ∧ s.host.ctxtab.toNat + 1024 * ctx + 1031 ≤ b) :
    Apart s ctx (fun x => Within a 64 x ∨ Within b 8 x) :=
  apart_of s ctx _ h.1 h.2.1 h.2.2.1 h.2.2.2.1 (fun x hx => by unfold Within at hx; omega)

/-- A message, one latched, one in the mailbox. -/
def msg : Msg := ⟨0x10, 6, 0x77⟩
def sM : State := setSlot s0 0 { slotAt s0 0 with mailbox := [msg] }
def sLt : State := setSlot s0 0 { slotAt s0 0 with latch := some msg }

/-- A thread that is not pinned, at priority 1, and work that waits in its pool. -/
def thU : Thread := { th0 with status := 0x4 }
def sU : State := m0 (run thU)
def sPool : State := setCtx sU 1 { ctxAt sU 1 with
  pool := [(poolKey (chipOfCore 0) (prioOf thU), [⟨6, 0, 1⟩])] }

/-- A thread that spawns: g9 names the entry, g11 the arguments. -/
def thS : Thread := base [(9, 0x2000), (8, 1)]
def sS : State := m0 (run thS)
def sS0 : State := m0 (run thS (setCtx b0 1 { c1 with freeTids := [], tidNext := 64 }))
def esS : List Elem :=
  match plan .read false false ((List.range 4).map (fun i => (i, val thS 11 + BitVec.ofNat 64 (8 * i), 8))) sS with
  | .go l => l
  | _ => []
def thSu : Thread := { thS with status := 0 }
def sSu : State := m0 (run thSu)

/-- A thread that migrates to logical core 1 of its context, from where it may and from where it may not. -/
def thG : Thread := { base [(9, 1), (10, 0)] with status := 0 }
def sG : State := m0 (run thG)
def thDp : Thread := { thG with form := .inFlight (.departing 1 (some 4)), issued := 60 }
def sDp : State := m0 (run thDp)
def thDpN : Thread := { thDp with status := 11 }
def sDpN : State := m0 (run thDpN)
def thGp : Thread := { base [(9, 1)] with status := 11 }
def sGp : State := m0 (run thGp)

/-- Parked threads: on a register's wait, on recv. -/
def thK : Thread := { th0 with form := .parked ⟨false, .recv, true⟩, status := 0, issued := 60 }
def sK : State := { m0 (run thK) with time8 := 200000 }

/-- Records of tid 9 in several states: they lie at 0x20000 + 64 * 9. -/
def sRec (st : Nat) : State := mem [(0x20240, BitVec.ofNat 64 (0x5000 + st * 2 ^ 48))] s0
def sPick : State :=
  let s := mem [(0x20240, BitVec.ofNat 64 (0x5000 + 6 * 2 ^ 48))] b0
  setCtx s 1 { ctxAt s 1 with pool := [(poolKey 0 2, [⟨9, 0, 1⟩])] }

/-- An entry that has waited for its promotion. -/
def sProm : State := { setCtx b0 1 { ctxAt b0 1 with pool := [(poolKey 0 2, [⟨9, 0, 1⟩])] } with time8 := 8 * 20000 * 20 }
/-- A migrant on its way from slot 0 to core 1. -/
def thM : Thread := { th0 with form := .inFlight .migrate, status := 0 }
def sMg : State := m0 (run thM)
def mig : Migrant :=
  { origin := 0, target := 1, ctx := 1, tid := 5, supervisor := false, keep := false, prio := 0, mig := true,
    states := List.replicate 28 0, fstat := 0, pc := 0x1004, pred := 0, regs := List.replicate 28 0, migr := some 9 }
def sFull : State := setCore sMg 1 { coreAt sMg 1 with arrivals := 4 }

/-- A sender: g8 names logical core 1, slot 0, tid 7. -/
def thSend : Thread := { base [(8, BitVec.ofNat 64 (7 + 1 * 2 ^ 24)), (10, BitVec.ofNat 64 (7 + 1 * 2 ^ 24 + 2 ^ 62)), (13, 1)] with status := 0 }
def sSend : State := m0 (run thSend)
def thSendP : Thread := { thSend with status := 1 }
def sSendP : State := m0 (run thSendP)

/-- Group 1 of the context with two members, logical cores 1 and 2. -/
def sGrp : State :=
  mem [(0x27040, BitVec.ofNat 64 (1 + 2 * 2 ^ 8)), (0x28000, 0x20001)] sSend

/-- A pinned thread whose name q0 is bound to role queue 0. -/
def thQ : Thread := { base [(9, 2)] with status := 11, binds := (Vector.replicate 4 none).setIfInBounds 0 (some 0) }
def sQb : State := run thQ
theorem only_slot (p : Nat) (h : p ≠ sQb.cur) : (slotAt sQb p).occ = .vacant := by
  have h0 : p ≠ 0 := h
  have hs : sQb.slots = [(0, slotAt sQb 0)] := by decide +kernel
  have hg : slotAt sQb p = Tab.get {} sQb.slots p := rfl
  rw [hg, hs]
  have h1 : (0 : Nat) ≠ p := fun h => h0 h.symm
  simp [Tab.get, h1]

/-- Messages at the unpinned thread; a full mailbox; threads that wait for replies; a name bound to a task queue. -/
def sUl : State := setSlot sU 0 { slotAt sU 0 with latch := some msg }
def sUm : State := setSlot sU 0 { slotAt sU 0 with mailbox := [msg] }
def s4m : State := setSlot s0 0 { slotAt s0 0 with mailbox := [msg, msg, msg, msg] }
def thRp : Thread := { th0 with form := .inFlight (.reply 4 [9] []) }
def sRp : State := run thRp
def thMb : Thread := { th0 with form := .inFlight (.members 4 2 0) }
def sMb : State := run thMb
def thQ4 : Thread := { thQ with binds := (Vector.replicate 4 none).setIfInBounds 0 (some 4) }
def sQ4 : State := run thQ4
/-- Threads that leave the pipeline by yield and susp at their pass's end, and what has come meanwhile. -/
def thLv (n : Nat) : Thread := { thU with form := .inFlight (.leaving n), issued := 60 }
def sLv (n : Nat) : State := m0 (run (thLv n))
def sLvm (n : Nat) : State := setSlot (sLv n) 0 { slotAt (sLv n) 0 with mailbox := [msg] }
def sLvl (n : Nat) : State := setSlot (sLv n) 0 { slotAt (sLv n) 0 with latch := some msg }
/-- A record whose thread is in slot 1. -/
def sRes : State := mem [(0x20240, BitVec.ofNat 64 (0x5000 + 2 ^ 48)), (0x20270, 1)] (setThread s0 1 { th0 with tid := 9 })
def noMsgs : List Msg := []

theorem witness_Threads_0_0 :
  (Canonical s0) ∧ (Executing s0 th0) ∧ ((∀ (p : ℕ), prioOf th0 ≤ p → p < 4 → poolOf s0 th0.ctx (s0.cur / 16) p = [])
    ∨ pinOf th0 = true ∨ privOf th0 = 3 ∨ (slotAt s0 s0.cur).mailbox ≠ []) := by
  unfold Canonical MemOk Executing; decide +kernel

theorem witness_Threads_0_1 :
  (Canonical sPool) ∧ (Executing sPool thU) ∧ (prioOf thU ≤ prioOf thU) ∧ (prioOf thU < 4) ∧ (poolOf sPool thU.ctx
    (sPool.cur / 16) (prioOf thU) ≠ []) ∧ (pinOf thU = false) ∧ (privOf thU ≠ 3) ∧ ((slotAt sPool sPool.cur).mailbox =
    []) ∧ (leaveWait sPool sPool.cur thU = none) ∧ (∀ r < 28, (regOf thU r).st ≠ RegState.failed) := by
  unfold Canonical MemOk Executing; decide +kernel

theorem witness_Threads_0_2_0 :
  (Canonical sUl) ∧ (Executing sUl thU) ∧ (privOf thU ≠ 3) ∧ (releasedAt sUl sUl.cur thU = true) ∧ (thU.acqOut = 0) ∧
    (∀ r < 28, (regOf thU r).st ≠ RegState.pending ∧ (regOf thU r).st ≠ RegState.failed) ∧ ((slotAt sUl sUl.cur).latch
    = some msg) := by
  unfold Canonical MemOk Executing; decide +kernel

theorem witness_Threads_0_2_1 :
  (Canonical sUm) ∧ (Executing sUm thU) ∧ (privOf thU ≠ 3) ∧ (releasedAt sUm sUm.cur thU = true) ∧ (thU.acqOut = 0) ∧
    (∀ r < 28, (regOf thU r).st ≠ RegState.pending ∧ (regOf thU r).st ≠ RegState.failed) ∧ ((slotAt sUm sUm.cur).latch
    = none) ∧ ((slotAt sUm sUm.cur).mailbox = msg :: noMsgs) := by
  unfold Canonical MemOk Executing; decide +kernel

theorem witness_Threads_0_2_2 :
  (Canonical sU) ∧ (Executing sU thU) ∧ (privOf thU ≠ 3) ∧ (releasedAt sU sU.cur thU = true) ∧ (thU.acqOut = 0) ∧ (∀ r
    < 28, (regOf thU r).st ≠ RegState.pending ∧ (regOf thU r).st ≠ RegState.failed) ∧ ((slotAt sU sU.cur).latch =
    none) ∧ ((slotAt sU sU.cur).mailbox = []) ∧ (leaveWait sU sU.cur thU = none) := by
  unfold Canonical MemOk Executing; decide +kernel

theorem witness_Threads_0_3 :
  (Canonical s0) ∧ (Executing s0 th0) := by
  unfold Canonical MemOk Executing; decide +kernel

theorem witness_Threads_1_0_0 :
  (Canonical (sLvm 6)) ∧ (threadAt (sLvm 6) 0 = some (thLv 6)) ∧ ((thLv 6).issued + 8 ≤ (sLvm 6).cycle) ∧ ((coreAt
    (sLvm 6) (0 / 16 : ℕ)).closed = false) ∧ ((thLv 6).form = Form.inFlight (WaitFor.leaving 6)) ∧ ((slotAt (sLvm 6)
    0).mailbox ≠ []) := by
  unfold Canonical MemOk; decide +kernel

theorem witness_Threads_1_0_1 :
  ((Canonical (sLv 6)) ∧ (threadAt (sLv 6) 0 = some (thLv 6)) ∧ ((thLv 6).issued + 8 ≤ (sLv 6).cycle) ∧ ((coreAt (sLv
    6) (0 / 16 : ℕ)).closed = false) ∧ ((thLv 6).form = Form.inFlight (WaitFor.leaving 6)) ∧ ((slotAt (sLv 6)
    0).mailbox = []) ∧ (pinOf (thLv 6) = false)) ∧ (RecordAt (sLv 6) (thLv 6).ctx (thLv 6).tid (131072 + 64 * 5)) ∧
    (EntryAt (sLv 6) (thLv 6).ctx (poolVa (sLv 6) (thLv 6).ctx (poolKey (chipOfCore (0 / 16 : ℕ)) (prioOf (thLv 6))))
    4 135168 [(131072 + 64 * 5, 64)]) := by
  refine ⟨?_, ?_, ?_⟩
  · unfold Canonical MemOk; decide +kernel
  · exact record_of _ _ _ _ (vault_of _ _ _ _ _ (by decide +kernel) (by decide +kernel)) (by decide +kernel)
  · exact And.intro (vault_of _ _ _ _ _ (by decide +kernel) (by decide +kernel)) (spread_of _ _ _ (by decide +kernel) (by decide +kernel) (by decide +kernel) (by decide +kernel) (by decide +kernel) (by decide +kernel))

theorem witness_Threads_1_3 :
  (Canonical sK) ∧ (threadAt sK 0 = some thK) ∧ (thK.issued + 8 ≤ sK.cycle) ∧ ((coreAt sK (0 / 16 : ℕ)).closed =
    false) ∧ (thK.form = Form.parked (Park.mk false ParkWhy.recv true)) ∧ ((slotAt sK 0).latch = none) ∧ (ParkWhy.recv
    ≠ ParkWhy.recv ∨ (slotAt sK 0).mailbox = []) := by
  unfold Canonical MemOk; decide +kernel

theorem witness_Threads_1_1_0 :
  (Canonical (sLvl 3)) ∧ (threadAt (sLvl 3) 0 = some (thLv 3)) ∧ ((thLv 3).issued + 8 ≤ (sLvl 3).cycle) ∧ ((coreAt
    (sLvl 3) (0 / 16 : ℕ)).closed = false) ∧ ((thLv 3).form = Form.inFlight (WaitFor.leaving 3)) ∧ ((slotAt (sLvl 3)
    0).latch = some msg) := by
  unfold Canonical MemOk; decide +kernel

theorem witness_Threads_1_1_1 :
  (Canonical (sLvm 3)) ∧ (threadAt (sLvm 3) 0 = some (thLv 3)) ∧ ((thLv 3).issued + 8 ≤ (sLvm 3).cycle) ∧ ((coreAt
    (sLvm 3) (0 / 16 : ℕ)).closed = false) ∧ ((thLv 3).form = Form.inFlight (WaitFor.leaving 3)) ∧ ((slotAt (sLvm 3)
    0).latch = none) ∧ ((slotAt (sLvm 3) 0).mailbox = msg :: noMsgs) := by
  unfold Canonical MemOk; decide +kernel

theorem witness_Threads_1_1_2 :
  ((Canonical (sLv 3)) ∧ (threadAt (sLv 3) 0 = some (thLv 3)) ∧ ((thLv 3).issued + 8 ≤ (sLv 3).cycle) ∧ ((coreAt (sLv
    3) (0 / 16 : ℕ)).closed = false) ∧ ((thLv 3).form = Form.inFlight (WaitFor.leaving 3)) ∧ ((slotAt (sLv 3) 0).latch
    = none) ∧ ((slotAt (sLv 3) 0).mailbox = []) ∧ (ownsEngine (sLv 3) (0 / 16 : ℕ) (thLv 3).tid (thLv 3).ctx = false))
    ∧ (RecordAt (sLv 3) (thLv 3).ctx (thLv 3).tid (131072 + 64 * 5)) := by
  refine ⟨?_, ?_⟩
  · unfold Canonical MemOk; decide +kernel
  · exact record_of _ _ _ _ (vault_of _ _ _ _ _ (by decide +kernel) (by decide +kernel)) (by decide +kernel)

theorem witness_Spawn_0 :
  (Canonical s0) ∧ (Executing s0 th0) ∧ (Writable th0 (BitVec.toNat (9 : BitVec 5))) := by
  unfold Canonical MemOk Executing Writable; decide +kernel

theorem witness_Spawn_1_0 :
  (Canonical sS0) ∧ (Executing sS0 thS) ∧ (thS.acqOut = 0) ∧ (ReadyNow thS (src (9 : BitVec 5) (0 : BitVec 2))) ∧
    (ReadyNow thS (src (11 : BitVec 5) (0 : BitVec 2))) ∧ (Writable thS (BitVec.toNat (4 : BitVec 5))) ∧ (GoodTarget
    ↑(BitVec.toNat (val thS (9 : BitVec 5)))) ∧ (BitVec.toNat (val thS (11 : BitVec 5)) % 8 = 0) ∧ (firstTid sS0
    thS.ctx = none) := by
  unfold Canonical MemOk Executing ReadyNow Writable GoodTarget; decide +kernel

theorem witness_Spawn_1_1_1 :
  ((Canonical sS) ∧ (Executing sS thS) ∧ (thS.acqOut = 0) ∧ (ReadyNow thS (src (9 : BitVec 5) (0 : BitVec 2))) ∧
    (ReadyNow thS (src (11 : BitVec 5) (0 : BitVec 2))) ∧ (Writable thS (BitVec.toNat (4 : BitVec 5))) ∧ (GoodTarget
    ↑(BitVec.toNat (val thS (9 : BitVec 5)))) ∧ (BitVec.toNat (val thS (11 : BitVec 5)) % 8 = 0) ∧ (firstTid sS
    thS.ctx = some 7) ∧ (plan Acc.read false false (List.map (fun (i : ℕ) => (i, val thS (11 : BitVec 5) +
    BitVec.ofNat 64 (8 * i), 8)) (List.range 4)) sS = Plan.go esS) ∧ (privOf thS = 3) ∧ (releasedAt sS sS.cur thS =
    true) ∧ (openIn sS (sS.cur / 16) = 1 :: List.tail (openIn sS 0))) ∧ (∀ e ∈ esS, inDram e.pa = true → PlainLine sS
    (homeOf e.va e.pa) (e.pa / 32)) := by
  refine ⟨?_, ?_⟩
  · unfold Canonical MemOk Executing ReadyNow Writable GoodTarget; decide +kernel
  · unfold PlainLine; exact dec_own (fun _ => inferInstance) (by decide +kernel)

theorem witness_Spawn_1_1_2 :
  ((Canonical sSu) ∧ (Executing sSu thSu) ∧ (thSu.acqOut = 0) ∧ (ReadyNow thSu (src (9 : BitVec 5) (0 : BitVec 2))) ∧
    (ReadyNow thSu (src (11 : BitVec 5) (0 : BitVec 2))) ∧ (Writable thSu (BitVec.toNat (4 : BitVec 5))) ∧ (GoodTarget
    ↑(BitVec.toNat (val thSu (9 : BitVec 5)))) ∧ (BitVec.toNat (val thSu (11 : BitVec 5)) % 8 = 0) ∧ (firstTid sSu
    thSu.ctx = some 7) ∧ (plan Acc.read false false (List.map (fun (i : ℕ) => (i, val thSu (11 : BitVec 5) +
    BitVec.ofNat 64 (8 * i), 8)) (List.range 4)) sSu = Plan.go esS) ∧ (privOf thSu ≠ 3) ∧ (releasedAt sSu sSu.cur thSu
    = true) ∧ (131072 + 64 * 7 + 64 ≤ 196608 ∨ 196608 + 8 ≤ 131072 + 64 * 7)) ∧ (∀ e ∈ esS, inDram e.pa = true →
    PlainLine sSu (homeOf e.va e.pa) (e.pa / 32)) ∧ (VaultAt sSu thSu.ctx (recVa sSu thSu.ctx 7) 64 (131072 + 64 * 7))
    ∧ (VaultAt sSu thSu.ctx (BitVec.toNat (ctxWord sSu thSu.ctx 16)) 8 196608) ∧ (Apart sSu thSu.ctx fun (x : ℕ) =>
    Within (131072 + 64 * 7) 64 x ∨ Within 196608 8 x) := by
  refine ⟨?_, ?_, ?_, ?_, ?_⟩
  · unfold Canonical MemOk Executing ReadyNow Writable GoodTarget; decide +kernel
  · unfold PlainLine; exact dec_own (fun _ => inferInstance) (by decide +kernel)
  · unfold VaultAt; exact dec_own (fun _ => inferInstance) (by decide +kernel)
  · unfold VaultAt; exact dec_own (fun _ => inferInstance) (by decide +kernel)
  · exact two_apart _ _ _ _ (by decide +kernel)

theorem witness_Spawn_2_0 :
  (Canonical sG) ∧ (Executing sG thG) ∧ (thG.acqOut = 0) ∧ (ReadyNow thG (src (10 : BitVec 5) (0 : BitVec 2))) ∧
    (Writable thG (BitVec.toNat (4 : BitVec 5))) ∧ (BitVec.toNat (val thG (10 : BitVec 5)) < coreCount sG thG.ctx) ∧
    (physCore sG thG.ctx (BitVec.toNat (val thG (10 : BitVec 5))) = some 0) ∧ (0 = sG.cur / 16) := by
  unfold Canonical MemOk Executing ReadyNow Writable; decide +kernel

theorem witness_Spawn_2_1 :
  (Canonical sGp) ∧ (Executing sGp thGp) ∧ (thGp.acqOut = 0) ∧ (ReadyNow thGp (src (9 : BitVec 5) (0 : BitVec 2))) ∧
    (Writable thGp (BitVec.toNat (4 : BitVec 5))) ∧ (BitVec.toNat (val thGp (9 : BitVec 5)) < coreCount sGp thGp.ctx)
    ∧ (physCore sGp thGp.ctx (BitVec.toNat (val thGp (9 : BitVec 5))) = some 1) ∧ (1 ≠ sGp.cur / 16) ∧ (sqOf sGp
    (sGp.cur / 16) (named_ sGp thGp) ≠ [] ∨ releasedAt sGp sGp.cur thGp = true) ∧ (eligible sGp sGp.cur thGp = false) := by
  unfold Canonical MemOk Executing ReadyNow Writable; decide +kernel

theorem witness_Spawn_2_2 :
  (Canonical sG) ∧ (Executing sG thG) ∧ (thG.acqOut = 0) ∧ (ReadyNow thG (src (9 : BitVec 5) (0 : BitVec 2))) ∧
    (Writable thG (BitVec.toNat (4 : BitVec 5))) ∧ (BitVec.toNat (val thG (9 : BitVec 5)) < coreCount sG thG.ctx) ∧
    (physCore sG thG.ctx (BitVec.toNat (val thG (9 : BitVec 5))) = some 1) ∧ (1 ≠ sG.cur / 16) ∧ (releasedAt sG sG.cur
    thG = true) ∧ (eligible sG sG.cur thG = true) := by
  unfold Canonical MemOk Executing ReadyNow Writable; decide +kernel

theorem witness_Spawn_3_0 :
  (Canonical sDpN) ∧ (threadAt sDpN 0 = some thDpN) ∧ (thDpN.form = Form.inFlight (WaitFor.departing 1 (some 4))) ∧ (4
    < 24) ∧ (thDpN.issued + 8 ≤ sDpN.cycle) ∧ ((coreAt sDpN (0 / 16 : ℕ)).closed = false) ∧ (eligible sDpN 0 thDpN =
    false) := by
  unfold Canonical MemOk; decide +kernel

theorem witness_Spawn_3_1 :
  (Canonical sDp) ∧ (threadAt sDp 0 = some thDp) ∧ (thDp.form = Form.inFlight (WaitFor.departing 1 (some 4))) ∧ (4 <
    24) ∧ (thDp.issued + 8 ≤ sDp.cycle) ∧ ((coreAt sDp (0 / 16 : ℕ)).closed = false) ∧ (eligible sDp 0 thDp = true) := by
  unfold Canonical MemOk; decide +kernel

theorem witness_Wakes_0_0 :
  (Canonical sK) ∧ (HeldIn sK 0 thK) ∧ ((ctxAt sK thK.ctx).st = CtxState.resident) ∧ (thK.form ≠ Form.inFlight
    WaitFor.migrate) ∧ (thK.form = Form.parked (Park.mk false ParkWhy.recv true)) ∧ (thK.issued + 8 ≤ sK.cycle) ∧
    (true = false ∨ thK.pc ≠ lastPc) := by
  unfold Canonical MemOk HeldIn; decide +kernel

theorem witness_Wakes_0_1 :
  ((Canonical s0) ∧ (HeldIn s0 0 th0) ∧ ((ctxAt s0 th0.ctx).st = CtxState.resident) ∧ (th0.form ≠ Form.inFlight
    WaitFor.migrate) ∧ ((slotAt s0 0).latch = none)) ∧ (∀ (k : Park), th0.form = Form.parked k → s0.cycle < th0.issued
    + 8) := by
  refine ⟨?_, ?_⟩
  · unfold Canonical MemOk HeldIn; decide +kernel
  · intro k h; exact absurd h (by rw [show th0.form = .ready from rfl]; exact Form.noConfusion)

theorem witness_Wakes_0_2 :
  ((Canonical sLt) ∧ (HeldIn sLt 0 th0) ∧ ((ctxAt sLt th0.ctx).st = CtxState.resident) ∧ (th0.form ≠ Form.inFlight
    WaitFor.migrate) ∧ ((slotAt sLt 0).latch ≠ none) ∧ ((coreAt sLt (0 / 16 : ℕ)).wakeDrops + 1 < 2 ^ 64)) ∧ (∀ (k :
    Park), th0.form = Form.parked k → sLt.cycle < th0.issued + 8) := by
  refine ⟨?_, ?_⟩
  · unfold Canonical MemOk HeldIn; decide +kernel
  · intro k h; exact absurd h (by rw [show th0.form = .ready from rfl]; exact Form.noConfusion)

theorem witness_Wakes_1 :
  (s0.now = none) ∧ (holds s0 (Thr.mk 0 1 6) = false) := by
  decide +kernel

theorem witness_Wakes_2_0 :
  ((Canonical (sRec 5)) ∧ ((sRec 5).now = none) ∧ (fld (rd64 (sRec 5) 131648) 48 4 = 5) ∧ (fld (rd64 (sRec 5) 131648)
    54 1 = 0)) ∧ (RecordAt (sRec 5) 1 9 131648) ∧ (∀ x ∈ (sRec 5).slots, ∀ (bs : Vector (Option ℕ) 4), x.2.occ ≠
    Occupant.forPinned 9 1 bs) ∧ (EntryAt (sRec 5) 1 (poolVa (sRec 5) 1 (poolKey (chipOfCore (Tab.get 0 (ctxAt (sRec
    5) 1).lastCore 9)) (fld (rd64 (sRec 5) 131648) 52 2))) 4 135168 [(131648, 64)]) := by
  refine ⟨?_, ?_, ?_, ?_⟩
  · unfold Canonical MemOk; decide +kernel
  · exact record_of _ _ _ _ (vault_of _ _ _ _ _ (by decide +kernel) (by decide +kernel)) (by decide +kernel)
  · exact no_pinned _ _ _ (by decide +kernel)
  · exact And.intro (vault_of _ _ _ _ _ (by decide +kernel) (by decide +kernel)) (spread_of _ _ _ (by decide +kernel) (by decide +kernel) (by decide +kernel) (by decide +kernel) (by decide +kernel) (by decide +kernel))

theorem witness_Wakes_2_1 :
  ((Canonical (sRec 3)) ∧ ((sRec 3).now = none) ∧ (fld (rd64 (sRec 3) 131648) 48 4 = 3) ∧ (fld (rd64 (sRec 3) 131648)
    54 1 = 0)) ∧ (RecordAt (sRec 3) 1 9 131648) ∧ (∀ x ∈ (sRec 3).slots, ∀ (bs : Vector (Option ℕ) 4), x.2.occ ≠
    Occupant.forPinned 9 1 bs) ∧ (EntryAt (sRec 3) 1 (poolVa (sRec 3) 1 (poolKey (chipOfCore (Tab.get 0 (ctxAt (sRec
    3) 1).lastCore 9)) (fld (rd64 (sRec 3) 131648) 52 2))) 4 135168 [(131648, 64)]) := by
  refine ⟨?_, ?_, ?_, ?_⟩
  · unfold Canonical MemOk; decide +kernel
  · exact record_of _ _ _ _ (vault_of _ _ _ _ _ (by decide +kernel) (by decide +kernel)) (by decide +kernel)
  · exact no_pinned _ _ _ (by decide +kernel)
  · exact And.intro (vault_of _ _ _ _ _ (by decide +kernel) (by decide +kernel)) (spread_of _ _ _ (by decide +kernel) (by decide +kernel) (by decide +kernel) (by decide +kernel) (by decide +kernel) (by decide +kernel))

theorem witness_Wakes_2_2 :
  ((Canonical (sRec 4)) ∧ ((sRec 4).now = none) ∧ (fld (rd64 (sRec 4) 131648) 48 4 = 4 ∨ fld (rd64 (sRec 4) 131648) 48
    4 = 6) ∧ ((coreAt (sRec 4) (2 / 16 : ℕ)).wakeDrops + 1 < 2 ^ 64)) ∧ (RecordAt (sRec 4) 1 9 131648) ∧ (∀ x ∈ (sRec
    4).slots, ∀ (bs : Vector (Option ℕ) 4), x.2.occ ≠ Occupant.forPinned 9 1 bs) := by
  refine ⟨?_, ?_, ?_⟩
  · unfold Canonical MemOk; decide +kernel
  · exact record_of _ _ _ _ (vault_of _ _ _ _ _ (by decide +kernel) (by decide +kernel)) (by decide +kernel)
  · exact no_pinned _ _ _ (by decide +kernel)

theorem witness_Wakes_2_3 :
  ((Canonical sRes) ∧ (sRes.now = none) ∧ (fld (rd64 sRes 131648) 48 4 = 1) ∧ ((ctxAt sRes 1).st = CtxState.resident)
    ∧ (fld (rd64 sRes (131648 + 48)) 0 16 = 1) ∧ (holds sRes (Thr.mk 1 1 9) = true)) ∧ (RecordAt sRes 1 9 131648) ∧ (∀
    x ∈ sRes.slots, ∀ (bs : Vector (Option ℕ) 4), x.2.occ ≠ Occupant.forPinned 9 1 bs) := by
  refine ⟨?_, ?_, ?_⟩
  · unfold Canonical MemOk; decide +kernel
  · exact record_of _ _ _ _ (vault_of _ _ _ _ _ (by decide +kernel) (by decide +kernel)) (by decide +kernel)
  · exact no_pinned _ _ _ (by decide +kernel)

theorem witness_Wakes_2_4 :
  ((Canonical (sRec 0)) ∧ ((sRec 0).now = none) ∧ (fld (rd64 (sRec 0) 131648) 48 4 = 0)) ∧ (RecordAt (sRec 0) 1 9
    131648) ∧ (∀ x ∈ (sRec 0).slots, ∀ (bs : Vector (Option ℕ) 4), x.2.occ ≠ Occupant.forPinned 9 1 bs) := by
  refine ⟨?_, ?_, ?_⟩
  · unfold Canonical MemOk; decide +kernel
  · exact record_of _ _ _ _ (vault_of _ _ _ _ _ (by decide +kernel) (by decide +kernel)) (by decide +kernel)
  · exact no_pinned _ _ _ (by decide +kernel)

theorem witness_Pools_0_0 :
  ((Canonical sK) ∧ (HeldIn sK 0 thK) ∧ (thK.form = Form.parked (Park.mk false ParkWhy.recv true)) ∧ (mayWriteOut sK 0
    thK = true)) ∧ (RecordAt sK thK.ctx thK.tid 131392) := by
  refine ⟨?_, ?_⟩
  · unfold Canonical MemOk HeldIn; decide +kernel
  · exact record_of _ _ _ _ (vault_of _ _ _ _ _ (by decide +kernel) (by decide +kernel)) (by decide +kernel)

theorem witness_Pools_0_1 :
  ((Canonical sPick) ∧ (sPick.now = none) ∧ ((ctxAt sPick 1).st = CtxState.resident) ∧ (2 < 4) ∧ (Tab.get [] (ctxAt
    sPick 1).pool (poolKey 0 2) = [PoolEnt.mk 9 0 1]) ∧ (leastBy (fun (p : ℕ) => hops (p / 16) 0 * 65536 + p)
    (openSlots sPick 1 0) = some 0) ∧ (recLoadable (rd64 sPick 131648) = true)) ∧ (∀ (q : ℕ), 2 < q → q < 4 → Tab.get
    [] (ctxAt sPick 1).pool (poolKey 0 q) = []) ∧ (RecordAt sPick 1 9 131648) := by
  refine ⟨?_, ?_, ?_⟩
  · unfold Canonical MemOk; decide +kernel
  · intro q h1 h2; obtain rfl : q = 3 := (by omega); decide +kernel
  · exact record_of _ _ _ _ (vault_of _ _ _ _ _ (by decide +kernel) (by decide +kernel)) (by decide +kernel)

theorem witness_Pools_0_2 :
  (Canonical sPick) ∧ (sPick.now = none) := by
  unfold Canonical MemOk; decide +kernel

theorem witness_Pools_0_3 :
  ((Canonical sProm) ∧ (sProm.now = none) ∧ (2 < 3) ∧ ((fun (k : ℕ) => List.filter (fun (e : PoolEnt) => decide
    (e.since + max 1000 (BitVec.toNat (ctxAt sProm 1).promote) ≤ tick sProm)) (Tab.get [] (ctxAt sProm 1).pool
    (poolKey 0 k))) 2 = [PoolEnt.mk 9 0 1]) ∧ (∀ j < 3, j ≠ 2 → (fun (k : ℕ) => List.filter (fun (e : PoolEnt) =>
    decide (e.since + max 1000 (BitVec.toNat (ctxAt sProm 1).promote) ≤ tick sProm)) (Tab.get [] (ctxAt sProm 1).pool
    (poolKey 0 k))) j = [])) ∧ (EntryAt sProm 1 (poolVa sProm 1 (poolKey 0 (2 + 1))) 4 135936 []) := by
  refine ⟨?_, ?_⟩
  · unfold Canonical MemOk; decide +kernel
  · exact And.intro (vault_of _ _ _ _ _ (by decide +kernel) (by decide +kernel)) (spread_of _ _ _ (by decide +kernel) (by decide +kernel) (by decide +kernel) (by decide +kernel) (by decide +kernel) (by decide +kernel))

theorem witness_Pools_1_0 :
  (Canonical sMg) ∧ (sMg.now = none) ∧ ((coreAt sMg mig.target).arrivals < 4) ∧ (routeFenced sMg (mig.origin / 16)
    mig.target = false) ∧ (coreOpen sMg mig.target = true) ∧ (vacantIn sMg mig.target = 16 :: List.tail (vacantIn sMg
    1)) := by
  unfold Canonical MemOk; decide +kernel

theorem witness_Pools_1_1 :
  (Canonical sFull) ∧ (sFull.now = none) ∧ (4 ≤ (coreAt sFull mig.target).arrivals ∨ routeFenced sFull (mig.origin /
    16) mig.target = true ∨ coreOpen sFull mig.target = false ∨ vacantIn sFull mig.target = []) := by
  unfold Canonical MemOk; decide +kernel

theorem witness_Pools_2 :
  (Canonical sMg) ∧ (HeldIn sMg mig.origin thM) ∧ (thM.tid = mig.tid) ∧ (thM.ctx = mig.ctx) ∧ (16 ≠ mig.origin) ∧ (∀ f
    ∈ (coreAt sMg (mig.origin / 16)).fwd, f.held = none) := by
  unfold Canonical MemOk HeldIn; decide +kernel

theorem witness_Pools_3 :
  (Canonical sMg) ∧ (HeldIn sMg mig.origin thM) ∧ (thM.tid = mig.tid) ∧ (thM.ctx = mig.ctx) ∧ (thM.form =
    Form.inFlight WaitFor.migrate) ∧ (∀ f ∈ (coreAt sMg (mig.origin / 16)).fwd, f.held = none) := by
  unfold Canonical MemOk HeldIn; decide +kernel

theorem witness_Messages_0_0 :
  (Canonical sSend) ∧ (Executing sSend thSend) ∧ (thSend.acqOut = 0) ∧ (ReadyNow thSend (src (8 : BitVec 5) (0 :
    BitVec 2))) ∧ (ReadyNow thSend (src (9 : BitVec 5) (2 : BitVec 2))) ∧ (Writable thSend (BitVec.toNat (4 : BitVec
    5))) ∧ (releasedAt sSend sSend.cur thSend = true) ∧ (fld (val thSend (8 : BitVec 5)) 36 26 = 0) ∧ (fld (val thSend
    (8 : BitVec 5)) 24 12 < coreCount sSend thSend.ctx) ∧ (physCore sSend thSend.ctx (fld (val thSend (8 : BitVec 5))
    24 12) = some 1) ∧ (fld (val thSend (8 : BitVec 5)) 62 1 = 0) := by
  unfold Canonical MemOk Executing ReadyNow Writable; decide +kernel

theorem witness_Messages_0_1 :
  (Canonical sSendP) ∧ (Executing sSendP thSendP) ∧ (thSendP.acqOut = 0) ∧ (ReadyNow thSendP (src (10 : BitVec 5) (0 :
    BitVec 2))) ∧ (ReadyNow thSendP (src (9 : BitVec 5) (0 : BitVec 2))) ∧ (Writable thSendP (BitVec.toNat (4 : BitVec
    5))) ∧ (releasedAt sSendP sSendP.cur thSendP = true) ∧ (fld (val thSendP (10 : BitVec 5)) 36 26 = 0) ∧ (fld (val
    thSendP (10 : BitVec 5)) 24 12 < coreCount sSendP thSendP.ctx) ∧ (physCore sSendP thSendP.ctx (fld (val thSendP
    (10 : BitVec 5)) 24 12) = some 1) ∧ (fld (val thSendP (10 : BitVec 5)) 62 1 = 1) ∧ (privOf thSendP ≠ 0) := by
  unfold Canonical MemOk Executing ReadyNow Writable; decide +kernel

theorem witness_Messages_0_2 :
  (Canonical sSend) ∧ (Executing sSend thSend) ∧ (thSend.acqOut = 0) ∧ (ReadyNow thSend (src (10 : BitVec 5) (0 :
    BitVec 2))) ∧ (ReadyNow thSend (src (9 : BitVec 5) (0 : BitVec 2))) ∧ (Writable thSend (BitVec.toNat (4 : BitVec
    5))) ∧ (releasedAt sSend sSend.cur thSend = true) ∧ (fld (val thSend (10 : BitVec 5)) 36 26 = 0) ∧ (fld (val
    thSend (10 : BitVec 5)) 24 12 < coreCount sSend thSend.ctx) ∧ (physCore sSend thSend.ctx (fld (val thSend (10 :
    BitVec 5)) 24 12) = some 1) ∧ (fld (val thSend (10 : BitVec 5)) 62 1 = 1) ∧ (privOf thSend = 0) := by
  unfold Canonical MemOk Executing ReadyNow Writable; decide +kernel

theorem witness_Messages_1_1 :
  (Canonical sGrp) ∧ (Executing sGrp thSend) ∧ (thSend.acqOut = 0) ∧ (ReadyNow thSend (src (13 : BitVec 5) (0 : BitVec
    2))) ∧ (ReadyNow thSend (src (9 : BitVec 5) (0 : BitVec 2))) ∧ (Writable thSend (BitVec.toNat (4 : BitVec 5))) ∧
    (releasedAt sGrp sGrp.cur thSend = true) ∧ (BitVec.toNat (val thSend (13 : BitVec 5)) < 4096) ∧ (grpMembers sGrp
    thSend.ctx (fld (val thSend (13 : BitVec 5)) 0 8) = some [1, 2]) ∧ (List.filterMap (physCore sGrp thSend.ctx) [1,
    2] ≠ []) := by
  unfold Canonical MemOk Executing ReadyNow Writable; decide +kernel

theorem witness_Messages_2 :
  (Canonical sLt) ∧ (Executing sLt th0) ∧ ((slotAt sLt sLt.cur).latch = some msg) := by
  unfold Canonical MemOk Executing; decide +kernel

theorem witness_Messages_3 :
  (Canonical sM) ∧ (Executing sM th0) ∧ ((slotAt sM sM.cur).latch = none) ∧ ((slotAt sM sM.cur).mailbox = [msg]) := by
  unfold Canonical MemOk Executing; decide +kernel

theorem witness_Messages_4 :
  (Canonical s0) ∧ (Executing s0 th0) ∧ ((slotAt s0 s0.cur).latch = none) ∧ ((slotAt s0 s0.cur).mailbox = []) := by
  unfold Canonical MemOk Executing; decide +kernel

theorem witness_Messages_5 :
  (Canonical sM) ∧ (Executing sM th0) ∧ (Writable th0 (BitVec.toNat (9 : BitVec 5))) := by
  unfold Canonical MemOk Executing Writable; decide +kernel

theorem witness_Mailboxes_0_0 :
  (Canonical sK) ∧ (HeldIn sK 0 thK) ∧ (0 = 0) ∧ (false = false) ∧ (thK.form ≠ Form.inFlight WaitFor.migrate) ∧ (if
    true = true then thK.ctx = 1 else thK.ctx = 1 ∧ thK.tid = 5) ∧ (thK.form = Form.parked (Park.mk false ParkWhy.recv
    true)) ∧ ((slotAt sK 0).mailbox = []) ∧ ((slotAt sK 0).latch = none) ∧ (thK.issued + 8 ≤ sK.cycle) ∧ (thK.pc ≠
    lastPc) := by
  unfold Canonical MemOk HeldIn; decide +kernel

theorem witness_Mailboxes_0_1_0 :
  ((Canonical sM) ∧ (HeldIn sM 0 th0) ∧ (0 = 0) ∧ (false = false) ∧ (th0.form ≠ Form.inFlight WaitFor.migrate) ∧ (if
    true = true then th0.ctx = 1 else th0.ctx = 1 ∧ th0.tid = 5) ∧ (List.length (slotAt sM 0).mailbox < 4)) ∧ (∀ (k :
    Park), th0.form = Form.parked k → k.why ≠ ParkWhy.recv ∨ sM.cycle < th0.issued + 8) := by
  refine ⟨?_, ?_⟩
  · unfold Canonical MemOk HeldIn; decide +kernel
  · intro k h; exact absurd h (by rw [show th0.form = .ready from rfl]; exact Form.noConfusion)

theorem witness_Mailboxes_0_1_1 :
  ((Canonical s4m) ∧ (HeldIn s4m 0 th0) ∧ (0 = 0) ∧ (false = false) ∧ (th0.form ≠ Form.inFlight WaitFor.migrate) ∧ (if
    false = true then th0.ctx = 1 else th0.ctx = 1 ∧ th0.tid = 5) ∧ (4 ≤ List.length (slotAt s4m 0).mailbox) ∧
    (List.length (coreAt s4m (0 / 16 : ℕ)).senders < 16)) ∧ (∀ (k : Park), th0.form = Form.parked k → k.why ≠
    ParkWhy.recv ∨ s4m.cycle < th0.issued + 8) := by
  refine ⟨?_, ?_⟩
  · unfold Canonical MemOk HeldIn; decide +kernel
  · intro k h; exact absurd h (by rw [show th0.form = .ready from rfl]; exact Form.noConfusion)

theorem witness_Mailboxes_0_1_2 :
  ((Canonical s4m) ∧ (HeldIn s4m 0 th0) ∧ (0 = 0) ∧ (false = false) ∧ (th0.form ≠ Form.inFlight WaitFor.migrate) ∧ (if
    true = true then th0.ctx = 1 else th0.ctx = 1 ∧ th0.tid = 5) ∧ (4 ≤ List.length (slotAt s4m 0).mailbox) ∧ (true =
    true ∨ 16 ≤ List.length (coreAt s4m (0 / 16 : ℕ)).senders)) ∧ (∀ (k : Park), th0.form = Form.parked k → k.why ≠
    ParkWhy.recv ∨ s4m.cycle < th0.issued + 8) := by
  refine ⟨?_, ?_⟩
  · unfold Canonical MemOk HeldIn; decide +kernel
  · intro k h; exact absurd h (by rw [show th0.form = .ready from rfl]; exact Form.noConfusion)

theorem witness_Mailboxes_1 :
  (s0.now = none) ∧ (threadAt s0 16 = none) ∧ (true = true) := by
  decide +kernel

theorem witness_Mailboxes_2 :
  (Canonical sRp) ∧ (HeldIn sRp 0 thRp) ∧ (thRp.form = Form.inFlight (WaitFor.reply 4 [9] [])) ∧ (4 < 28) ∧ (0 ≠ 4) := by
  unfold Canonical MemOk HeldIn; decide +kernel

theorem witness_Mailboxes_3 :
  (Canonical sRp) ∧ (HeldIn sRp 0 thRp) ∧ (thRp.form = Form.inFlight (WaitFor.reply 4 [9] [])) ∧ ((slotAt sRp 0).latch
    = none) := by
  unfold Canonical MemOk HeldIn; decide +kernel

theorem witness_Mailboxes_4 :
  (Canonical sMb) ∧ (HeldIn sMb 0 thMb) ∧ (thMb.form = Form.inFlight (WaitFor.members 4 2 0)) ∧ (4 < 28) := by
  unfold Canonical MemOk HeldIn; decide +kernel

theorem witness_Queues_0_0 :
  ((Canonical sQb) ∧ (Executing sQb thQ) ∧ (ReadyNow thQ (src (9 : BitVec 5) (0 : BitVec 2))) ∧ (pinOf thQ = true) ∧
    (BitVec.toNat (val thQ (9 : BitVec 5)) < 4 ∨ BitVec.toNat (val thQ (9 : BitVec 5)) < 256 ∧ Option.isSome (qview
    sQb (sQb.cur / 16) (BitVec.toNat (val thQ (9 : BitVec 5)))) = true ∧ mayBindEng sQb (sQb.cur / 16) (BitVec.toNat
    (val thQ (9 : BitVec 5))) thQ = true)) ∧ (∀ (c : ℕ), (roleOf sQb (sQb.cur / 16) c).closed = false) := by
  refine ⟨?_, ?_⟩
  · unfold Canonical MemOk Executing ReadyNow; decide +kernel
  · exact roles_open _ _ (by decide +kernel)

theorem witness_Queues_0_1 :
  (Canonical sU) ∧ (Executing sU thU) ∧ (ReadyNow thU (src (9 : BitVec 5) (0 : BitVec 2))) ∧ (pinOf thU = false) := by
  unfold Canonical MemOk Executing ReadyNow; decide +kernel

theorem witness_Queues_1 :
  (Canonical sQb) ∧ (Executing sQb thQ) ∧ (Writable thQ (BitVec.toNat (4 : BitVec 5))) := by
  unfold Canonical MemOk Executing Writable; decide +kernel

theorem witness_Queues_2_0 :
  (Canonical sQb) ∧ (Executing sQb thQ) ∧ (boundTo thQ (28 + BitVec.toNat (1 : BitVec 2)) = none) := by
  unfold Canonical MemOk Executing; decide +kernel

theorem witness_Queues_3_0 :
  ((Canonical sQb) ∧ (Executing sQb thQ) ∧ (boundTo thQ (28 + BitVec.toNat (0 : BitVec 2)) = some 0)) ∧ (∀ (c : ℕ),
    (roleOf sQb (sQb.cur / 16) c).closed = false) := by
  refine ⟨?_, ?_⟩
  · unfold Canonical MemOk Executing; decide +kernel
  · exact roles_open _ _ (by decide +kernel)

theorem witness_Queues_3_1 :
  ((Canonical sQb) ∧ (Executing sQb thQ) ∧ (boundTo thQ (28 + BitVec.toNat (0 : BitVec 2)) = some 0) ∧ (0 < 4)) ∧ (∀ i
    < 4, i ≠ BitVec.toNat (0 : BitVec 2) → thQ.binds[i]? ≠ some (some 0)) ∧ (∀ (p : ℕ), p / 16 = sQb.cur / 16 → p ≠
    sQb.cur → (slotAt sQb p).occ = Occupant.vacant) := by
  refine ⟨?_, ?_, ?_⟩
  · unfold Canonical MemOk Executing; decide +kernel
  · decide +kernel
  · intro p _ hp; exact only_slot p hp

theorem witness_Queues_3_2 :
  (Canonical sQb) ∧ (Executing sQb thQ) ∧ (boundTo thQ (28 + BitVec.toNat (0 : BitVec 2)) = some 0) ∧ (0 < 4) := by
  unfold Canonical MemOk Executing; decide +kernel

theorem witness_Queues_3_3 :
  (Canonical sQ4) ∧ (Executing sQ4 thQ4) ∧ (boundTo thQ4 (28 + BitVec.toNat (0 : BitVec 2)) = some 4) ∧ (4 ≤ 4) := by
  unfold Canonical MemOk Executing; decide +kernel

end Sys2Proof.Tests.Threads
end

