-- ==== Sys2Proof/Tests/Words.lean ====
section
/-!
SUPPORT. Witnesses: machines that meet the hypotheses of the statements on fences, cache instructions and full/empty words.
-/
namespace Sys2Proof.Tests.Words

open Sys2Proof Sys2Proof.Machine Sys2Proof.Safety Sys2Proof.Tests
open Sys2Proof.Tests.Shared (th0 s0 thL sL base m0)

set_option Elab.async false
set_option maxRecDepth 8000
set_option synthInstance.maxSize 1024

/-- A core with a shared copy and a fill of the line at 0x5000. -/
def sI : State := setCore s0 0 { coreAt s0 0 with
  l1 := [((lin 0x5000).toNat / 32, .shared 0x5000 (rdBytes s0 0x5000 32))], fills := [⟨1, (lin 0x5000).toNat, 0x5000, false⟩] }

/-- An invalidation of that line outstanding. -/
def sA : State := setDir s0 640 { invs := [⟨0, some ⟨0, 1, 5⟩⟩] }

/-- Threads that wait for a marker's answer, and for a store's. -/
def thK : Thread := { th0 with homes := [3], markers := [3] }
def thKd : Thread := { thK with form := .inFlight (.storeDone 4 3) }
def sK : State := run thK
def sKd : State := run thKd

/-- An address of the thread's line, of another scratchpad line, and of a line of DRAM. -/
def vaS : Word := effAddr (val th0 11) 1 32
def vaL : Word := effAddr (val thL 11) 1 32
def eL : Elem := el (plan .read false false [(0, vaL, 1)] sL)

/-- A core whose cache holds the line that g11 names. -/
def sS : State := setCore sL 0 { coreAt sL 0 with
  l1 := [((lin 0x5000).toNat / 32, .shared 0x5000 (rdBytes sL 0x5000 32))] }

/-- The word at offset 0x48 of the local scratchpad, full and empty, without retries. -/
def sE : State := setWord (setCtx s0 1 { c1 with feretry := 0 }) (spadPa 0 0x48 / 8) { fe := false }
def eW : Elem := el (plan .rmw false false [(0, effAddr (val th0 11) 1 8, 8)] s0)

/-- A thread that expects the value 5 there. -/
def thV : Thread := base [(14, 5)]
def sV : State := m0 (run thV)

/-- A line of DRAM that is no line of the thread's own: the place of its words, empty but for the second. -/
def eF : Elem := el (plan .rmw false false [(0, effAddr (val thL 11) 0 8, 8)] sL)
def eG : Elem := el (plan .write true false [(0, effAddr (val thL 11) 0 8, 8)] sL)
def eP : Elem := el (plan .write false false [(0, effAddr (val thL 11) 0 8, 8)] sL)
def sEL : State := setWord sL (0x5008 / 8) { fe := false }
/-- The requests of an ldsync and a feset of that word, and a thread that waits for the first one's answer. -/
def wF : WriteReq := .fe ⟨0, 1, 5⟩ .ldsync eF.va eF.pa 8 0 1
def wG : WriteReq := .fe ⟨0, 1, 5⟩ .feset eP.va eP.pa 8 0 0
def thF : Thread := { thL with form := .inFlight (.fe wF 9 0 4 []) }
def sF : State := m0 (run thF)
def me5 : Thr := ⟨0, 1, 5⟩
def sT : State := setWord s0 (spadPa 0 0x48 / 8) { fe := false }

/-- A reservation of a millisecond ago. -/
def sR : State := { setWord s0 2560 { resv := some ⟨⟨0, 1, 5⟩, lin 0x5000, 0, 0⟩ } with time8 := 8000000 }

theorem witness_FencesAndMarkers_0 :
  (Executing s0 th0) ∧ (BitVec.getLsbD (15 : BitVec 4) 3 = true → ∀ r < 28, (regOf th0 r).st = RegState.pending →
    mgetPending s0 s0.cur th0 r = true) ∧ (BitVec.getLsbD (15 : BitVec 4) 2 = true → sqOf s0 (s0.cur / 16) (named_ s0
    th0) = [] ∧ th0.homes = []) ∧ ((1 : BitVec 1) = (1 : BitVec 1) → engineBusy s0 th0 = false) := by
  unfold Executing; decide +kernel

theorem witness_FencesAndMarkers_1 :
  (Canonical sI) ∧ (sI.now = none) ∧ (routeFenced sI (homeUnit (homePlace (640 * 32))) 0 = false) := by
  unfold Canonical MemOk; decide +kernel

theorem witness_FencesAndMarkers_5 :
  (Canonical sI) ∧ (sI.now = none) := by
  unfold Canonical MemOk; decide +kernel

theorem witness_FencesAndMarkers_2 :
  (Canonical sA) ∧ (sA.now = none) ∧ (isPeerUnit 0 = true ∨ routeFenced sA 0 (homeUnit (homePlace (640 * 32))) =
    false) ∧ ((dirAt sA 640).invs = [InvOut.mk 0 (some (Thr.mk 0 1 5))]) ∧ (0 = 0) := by
  unfold Canonical MemOk; decide +kernel

theorem witness_FencesAndMarkers_3_0 :
  (s0.now = none) ∧ (routeFenced s0 (0 / 16 : ℕ) (homeUnit 3) = false) ∧ (∀ x ∈ s0.dir, ∀ i ∈ x.2.invs, ∀ (w : Thr),
    i.writer = some w → ¬(w.tid = 5 ∧ w.ctx = 1)) := by
  decide +kernel

theorem witness_FencesAndMarkers_3_1 :
  (sA.now = none) ∧ (routeFenced sA (0 / 16 : ℕ) (homeUnit 3) = false) ∧ ((640, dirAt sA 640) ∈ sA.dir) ∧ (InvOut.mk 0
    (some (Thr.mk 0 1 5)) ∈ (dirAt sA 640).invs) ∧ (some (Thr.mk 0 1 5) = some (Thr.mk 0 1 5)) ∧ (4 ≤ BitVec.toNat (3
    : BitVec 3) ∨ BitVec.toNat (3 : BitVec 3) = 3 ∧ isPeerUnit 0 = false) := by
  decide +kernel

theorem witness_FencesAndMarkers_4_0 :
  (Canonical sK) ∧ (HeldIn sK 0 thK) ∧ (thK.form = Form.ready ∨ thK.form = Form.inFlight WaitFor.retry) := by
  unfold Canonical MemOk HeldIn; decide +kernel

theorem witness_FencesAndMarkers_4_1 :
  (Canonical sKd) ∧ (HeldIn sKd 0 thKd) ∧ (thKd.form = Form.inFlight (WaitFor.storeDone 4 3)) := by
  unfold Canonical MemOk HeldIn; decide +kernel

theorem witness_CacheInstructions_0_0 :
  (Canonical sL) ∧ (Executing sL thL) ∧ (ReadyNow thL (srcP (11 : BitVec 5))) ∧ (vaL = effAddr (val thL (11 : BitVec
    5)) (1 : BitVec 8) 32) ∧ (check sL (sL.cur / 16) thL.ctx (privOf thL) (BitVec.ofNat 64 (BitVec.toNat vaL / 32 *
    32)) 1 Acc.read false = Chk.ok 20512) ∧ (inDram 20512 = true) := by
  unfold Canonical MemOk Executing ReadyNow; decide +kernel

theorem witness_CacheInstructions_0_1 :
  (Canonical s0) ∧ (Executing s0 th0) ∧ (ReadyNow th0 (srcP (11 : BitVec 5))) ∧ (vaS = effAddr (val th0 (11 : BitVec
    5)) (1 : BitVec 8) 32) ∧ (check s0 (s0.cur / 16) th0.ctx (privOf th0) (BitVec.ofNat 64 (BitVec.toNat vaS / 32 *
    32)) 1 Acc.read false = Chk.ok (spadPa 0 96)) ∧ (inDram (spadPa 0 96) = false) := by
  unfold Canonical MemOk Executing ReadyNow; decide +kernel

theorem witness_CacheInstructions_1 :
  ((Canonical s0) ∧ (Executing s0 th0) ∧ (ReadyNow th0 (srcP (11 : BitVec 5))) ∧ (vaS = effAddr (val th0 (11 : BitVec
    5)) (1 : BitVec 8) 32) ∧ (th0.acqOut = 0) ∧ (cmpTrap s0 vaS 1 Acc.read = none) ∧ (checkCore s0 th0.ctx (privOf
    th0) vaS 1 = none)) ∧ ((∃ (n : ℕ) (o : ℕ), region vaS = Region.window n o) ∨ ∃ (o : ℕ), region vaS = Region.local_
    o) := by
  refine ⟨?_, ?_⟩
  · unfold Canonical MemOk Executing ReadyNow; decide +kernel
  · exact Or.inr ⟨_, rfl⟩

theorem witness_CacheInstructions_2 :
  ((Canonical sL) ∧ (Executing sL thL) ∧ (ReadyNow thL (srcP (11 : BitVec 5))) ∧ (vaL = effAddr (val thL (11 : BitVec
    5)) (1 : BitVec 8) 32) ∧ (thL.acqOut = 0) ∧ (plan Acc.read false false [(0, vaL, 1)] sL = Plan.go [eL]) ∧ (eL.pa <
    dramTop) ∧ (lineQueued sL (sL.cur / 16) (eL.pa / 32) = false)) ∧ (PlainLine sL (homeOf eL.va eL.pa) (eL.pa / 32)) := by
  refine ⟨?_, ?_⟩
  · unfold Canonical MemOk Executing ReadyNow; decide +kernel
  · unfold PlainLine; exact dec_own (fun _ => inferInstance) (by decide +kernel)

theorem witness_CacheInstructions_3 :
  (Canonical sS) ∧ (Executing sS thL) ∧ (ReadyNow thL (srcP (11 : BitVec 5))) ∧ (effAddr (val thL (11 : BitVec 5)) (0
    : BitVec 8) 32 = effAddr (val thL (11 : BitVec 5)) (0 : BitVec 8) 32) ∧ (checkCore sS thL.ctx 3 (effAddr (val thL
    (11 : BitVec 5)) (0 : BitVec 8) 32) 1 = none) ∧ (List.find? (fun (x : ℕ × L1Line) => x.1 == BitVec.toNat (effAddr
    (val thL (11 : BitVec 5)) (0 : BitVec 8) 32) / 32) (coreAt sS (sS.cur / 16)).l1 = some (BitVec.toNat (effAddr (val
    thL (11 : BitVec 5)) (0 : BitVec 8) 32) / 32, L1Line.shared 20480 (rdBytes sL 20480 32))) := by
  unfold Canonical MemOk Executing ReadyNow; decide +kernel

theorem witness_FullEmptyWords_0_0 :
  ((Canonical s0) ∧ (Executing s0 th0) ∧ (th0.acqOut = 0) ∧ (ReadyNow th0 (srcP (11 : BitVec 5))) ∧ (Writable th0
    (BitVec.toNat (9 : BitVec 5))) ∧ ((1 : BitVec 2) = (2 : BitVec 2) ∨ (1 : BitVec 2) = (3 : BitVec 2) → releasedAt
    s0 s0.cur th0 = true) ∧ (AtLocalWord s0 Acc.rmw false (effAddr (val th0 (11 : BitVec 5)) (1 : BitVec 8) (2 ^
    BitVec.toNat (3 : BitVec 2))) (2 ^ BitVec.toNat (3 : BitVec 2)) eW) ∧ (wordAt s0 (eW.pa / 8) = wordAt s0 (eW.pa /
    8)) ∧ ((wordAt s0 (eW.pa / 8)).fe = true)) ∧ (FreeFor (wordAt s0 (eW.pa / 8)) th0) := by
  refine ⟨?_, ?_⟩
  · unfold Canonical MemOk Executing ReadyNow Writable AtLocalWord Local; decide +kernel
  · exact free_of _ _ (by decide +kernel)

theorem witness_FullEmptyWords_0_1 :
  ((Canonical sE) ∧ (Executing sE th0) ∧ (th0.acqOut = 0) ∧ (ReadyNow th0 (srcP (11 : BitVec 5))) ∧ (Writable th0
    (BitVec.toNat (9 : BitVec 5))) ∧ ((1 : BitVec 2) = (2 : BitVec 2) ∨ (1 : BitVec 2) = (3 : BitVec 2) → releasedAt
    sE sE.cur th0 = true) ∧ (AtLocalWord sE Acc.rmw false (effAddr (val th0 (11 : BitVec 5)) (1 : BitVec 8) (2 ^
    BitVec.toNat (3 : BitVec 2))) (2 ^ BitVec.toNat (3 : BitVec 2)) eW) ∧ (wordAt sE (eW.pa / 8) = wordAt sE (eW.pa /
    8)) ∧ (fld (ctxAt sE th0.ctx).feretry 0 16 = 0) ∧ (NoWake sE th0) ∧ (waitUsed sE (sE.cur / 64) < 64)) ∧ (¬((wordAt
    sE (eW.pa / 8)).fe = true ∧ FreeFor (wordAt sE (eW.pa / 8)) th0)) ∧ (Unregistered sE (sE.cur / 64) th0) := by
  refine ⟨?_, ?_, ?_⟩
  · unfold Canonical MemOk Executing ReadyNow Writable AtLocalWord NoWake Local; decide +kernel
  · exact fun h => absurd h.1 (by decide +kernel)
  · exact unregistered_of _ _ _ (by decide +kernel)

theorem witness_FullEmptyWords_1 :
  ((Canonical sE) ∧ (Executing sE th0) ∧ (th0.acqOut = 0) ∧ (ReadyNow th0 (srcP (11 : BitVec 5))) ∧ (ReadyNow th0
    (srcP (9 : BitVec 5))) ∧ ((2 : BitVec 2) = (2 : BitVec 2) ∨ (2 : BitVec 2) = (3 : BitVec 2) → releasedAt sE sE.cur
    th0 = true) ∧ (AtLocalWord sE Acc.write true (effAddr (val th0 (11 : BitVec 5)) (1 : BitVec 8) (2 ^ BitVec.toNat
    (3 : BitVec 2))) (2 ^ BitVec.toNat (3 : BitVec 2)) eW) ∧ (eW.pa % 2 ^ BitVec.toNat (3 : BitVec 2) = 0) ∧ (wordAt
    sE (eW.pa / 8) = wordAt sE (eW.pa / 8)) ∧ ((wordAt sE (eW.pa / 8)).fe = false)) ∧ (FreeFor (wordAt sE (eW.pa / 8))
    th0) := by
  refine ⟨?_, ?_⟩
  · unfold Canonical MemOk Executing ReadyNow AtLocalWord Local; decide +kernel
  · exact free_of _ _ (by decide +kernel)

theorem witness_FullEmptyWords_2_0 :
  (Canonical sE) ∧ (Executing sE th0) ∧ (th0.acqOut = 0) ∧ (ReadyNow th0 (srcP (11 : BitVec 5))) ∧ ((3 : BitVec 2) =
    (2 : BitVec 2) ∨ (3 : BitVec 2) = (3 : BitVec 2) → releasedAt sE sE.cur th0 = true) ∧ (AtLocalWord sE Acc.write
    false (effAddr (val th0 (11 : BitVec 5)) (1 : BitVec 8) 8) 8 eW) ∧ (wordAt sE (eW.pa / 8) = wordAt sE (eW.pa / 8)) := by
  unfold Canonical MemOk Executing ReadyNow AtLocalWord Local; decide +kernel

theorem witness_FullEmptyWords_2_1 :
  (Canonical sE) ∧ (Executing sE th0) ∧ (th0.acqOut = 0) ∧ (ReadyNow th0 (srcP (11 : BitVec 5))) ∧ (Writable th0
    (BitVec.toNat (9 : BitVec 5))) ∧ ((1 : BitVec 2) = (2 : BitVec 2) ∨ (1 : BitVec 2) = (3 : BitVec 2) → releasedAt
    sE sE.cur th0 = true) ∧ (AtLocalWord sE Acc.read false (effAddr (val th0 (11 : BitVec 5)) (1 : BitVec 8) 8) 8 eW) := by
  unfold Canonical MemOk Executing ReadyNow Writable AtLocalWord Local; decide +kernel

theorem witness_FullEmptyWords_3_0 :
  (wordRow (Instr.ldsync (9 : BitVec 5) (11 : BitVec 5) (3 : BitVec 2) (0 : BitVec 3) (1 : BitVec 2) (0 : BitVec 8)) =
    some (FeOp.ldsync, (9 : BitVec 5), (11 : BitVec 5), 8, (0 : BitVec 8), (1 : BitVec 2))) ∧ (Canonical sL) ∧
    (Executing sL thL) ∧ (thL.acqOut = 0) ∧ (ReadyNow thL (srcP (11 : BitVec 5))) ∧ (FeOp.ldsync = FeOp.ldsync ∨
    FeOp.ldsync = FeOp.feprobe → Writable thL (BitVec.toNat (9 : BitVec 5))) ∧ (FeOp.ldsync = FeOp.stsync ∨
    FeOp.ldsync = FeOp.ldmon → ReadyNow thL (srcP (9 : BitVec 5))) ∧ ((1 : BitVec 2) = (2 : BitVec 2) ∨ (1 : BitVec 2)
    = (3 : BitVec 2) → releasedAt sL sL.cur thL = true) ∧ (plan (FeOp.acc FeOp.ldsync) (FeOp.ldsync == FeOp.stsync)
    false [(0, effAddr (val thL (11 : BitVec 5)) (0 : BitVec 8) 8, 8)] sL = Plan.go [eF]) ∧ (¬Local sL eF.pa) ∧
    (routeFenced sL (sL.cur / 16) (homeUnit (homeOf eF.va eF.pa)) = false) ∧ (lineQueued sL (sL.cur / 16) (eF.pa / 32)
    = false) ∧ (FeOp.ldsync = FeOp.stsync → sqOf sL (sL.cur / 16) (named_ sL thL) = []) ∧ (wF = WriteReq.fe (named_ sL
    thL) FeOp.ldsync eF.va eF.pa 8 (if FeOp.ldsync = FeOp.stsync ∨ FeOp.ldsync = FeOp.ldmon then val thL (9 : BitVec
    5) else (0 : Word)) (1 : BitVec 2)) ∧ (FeOp.ldsync ≠ FeOp.feclr ∧ FeOp.ldsync ≠ FeOp.feset) := by
  unfold Canonical MemOk Executing ReadyNow Writable Local; decide +kernel

theorem witness_FullEmptyWords_3_1 :
  ((wordRow (Instr.feset (11 : BitVec 5) (0 : BitVec 3) (0 : BitVec 2) (0 : BitVec 8)) = some (FeOp.feset, (0 : BitVec
    5), (11 : BitVec 5), 8, (0 : BitVec 8), (0 : BitVec 2))) ∧ (Canonical sL) ∧ (Executing sL thL) ∧ (thL.acqOut = 0)
    ∧ (ReadyNow thL (srcP (11 : BitVec 5))) ∧ (FeOp.feset = FeOp.ldsync ∨ FeOp.feset = FeOp.feprobe → Writable thL
    (BitVec.toNat (0 : BitVec 5))) ∧ (FeOp.feset = FeOp.stsync ∨ FeOp.feset = FeOp.ldmon → ReadyNow thL (srcP (0 :
    BitVec 5))) ∧ ((0 : BitVec 2) = (2 : BitVec 2) ∨ (0 : BitVec 2) = (3 : BitVec 2) → releasedAt sL sL.cur thL =
    true) ∧ (plan (FeOp.acc FeOp.feset) (FeOp.feset == FeOp.stsync) false [(0, effAddr (val thL (11 : BitVec 5)) (0 :
    BitVec 8) 8, 8)] sL = Plan.go [eP]) ∧ (¬Local sL eP.pa) ∧ (routeFenced sL (sL.cur / 16) (homeUnit (homeOf eP.va
    eP.pa)) = false) ∧ (lineQueued sL (sL.cur / 16) (eP.pa / 32) = false) ∧ (FeOp.feset = FeOp.stsync → sqOf sL
    (sL.cur / 16) (named_ sL thL) = []) ∧ (wG = WriteReq.fe (named_ sL thL) FeOp.feset eP.va eP.pa 8 (if FeOp.feset =
    FeOp.stsync ∨ FeOp.feset = FeOp.ldmon then val thL (0 : BitVec 5) else (0 : Word)) (0 : BitVec 2))) ∧ (FeOp.feset
    = FeOp.feclr ∨ FeOp.feset = FeOp.feset) := by
  refine ⟨?_, ?_⟩
  · unfold Canonical MemOk Executing ReadyNow Writable Local; decide +kernel
  · exact Or.inr rfl

theorem witness_FullEmptyWords_4_0 :
  ((Canonical sL) ∧ (sL.now = none) ∧ (8 ≤ 8) ∧ (20488 + 8 ≤ dramTop) ∧ (homeFenced sL (homeOf (lin 20488) 20488) =
    false) ∧ (routeFenced sL (me5.slot / 16) (homeUnit (homeOf (lin 20488) 20488)) = false) ∧ (NoneBefore sL (homeOf
    (lin 20488) 20488) (20488 / 32 : ℕ)) ∧ (NoLog sL (sliceOfPa 20488)) ∧ (wordAt sL (20488 / 8 : ℕ) = wordAt sL
    (20488 / 8 : ℕ)) ∧ (∀ (r : WordResv), (wordAt sL (20488 / 8 : ℕ)).resv = some r → r.th.tid = me5.tid ∧ r.th.ctx =
    me5.ctx) ∧ (FeOp.ldsync = FeOp.ldsync) ∧ ((wordAt sL (20488 / 8 : ℕ)).fe = true)) ∧ (PlainLine sL (homeOf (lin
    20488) 20488) (20488 / 32 : ℕ)) := by
  refine ⟨?_, ?_⟩
  · unfold Canonical MemOk NoLog NoneBefore; decide +kernel
  · unfold PlainLine; exact dec_own (fun _ => inferInstance) (by decide +kernel)

theorem witness_FullEmptyWords_4_1 :
  ((Canonical sEL) ∧ (sEL.now = none) ∧ (8 ≤ 8) ∧ (20488 + 8 ≤ dramTop) ∧ (homeFenced sEL (homeOf (lin 20488) 20488) =
    false) ∧ (routeFenced sEL (me5.slot / 16) (homeUnit (homeOf (lin 20488) 20488)) = false) ∧ (NoneBefore sEL (homeOf
    (lin 20488) 20488) (20488 / 32 : ℕ)) ∧ (NoLog sEL (sliceOfPa 20488)) ∧ (wordAt sEL (20488 / 8 : ℕ) = wordAt sEL
    (20488 / 8 : ℕ)) ∧ (∀ (r : WordResv), (wordAt sEL (20488 / 8 : ℕ)).resv = some r → r.th.tid = me5.tid ∧ r.th.ctx =
    me5.ctx) ∧ (FeOp.stsync = FeOp.stsync) ∧ ((wordAt sEL (20488 / 8 : ℕ)).fe = false) ∧ (20488 % 8 + 8 ≤ 8)) ∧
    (PlainLine sEL (homeOf (lin 20488) 20488) (20488 / 32 : ℕ)) ∧ (DirtyNoted sEL (BitVec.toNat (lin 20488))) := by
  refine ⟨?_, ?_, ?_⟩
  · unfold Canonical MemOk NoLog NoneBefore; decide +kernel
  · unfold PlainLine; exact dec_own (fun _ => inferInstance) (by decide +kernel)
  · exact Or.inr (by decide +kernel)

theorem witness_FullEmptyWords_4_2 :
  ((Canonical sL) ∧ (sL.now = none) ∧ (8 ≤ 8) ∧ (20488 + 8 ≤ dramTop) ∧ (homeFenced sL (homeOf (lin 20488) 20488) =
    false) ∧ (routeFenced sL (me5.slot / 16) (homeUnit (homeOf (lin 20488) 20488)) = false) ∧ (NoneBefore sL (homeOf
    (lin 20488) 20488) (20488 / 32 : ℕ)) ∧ (NoLog sL (sliceOfPa 20488)) ∧ (wordAt sL (20488 / 8 : ℕ) = wordAt sL
    (20488 / 8 : ℕ)) ∧ (∀ (r : WordResv), (wordAt sL (20488 / 8 : ℕ)).resv = some r → r.th.tid = me5.tid ∧ r.th.ctx =
    me5.ctx) ∧ (FeOp.feprobe = FeOp.feprobe)) ∧ (PlainLine sL (homeOf (lin 20488) 20488) (20488 / 32 : ℕ)) := by
  refine ⟨?_, ?_⟩
  · unfold Canonical MemOk NoLog NoneBefore; decide +kernel
  · unfold PlainLine; exact dec_own (fun _ => inferInstance) (by decide +kernel)

theorem witness_FullEmptyWords_5 :
  (Canonical sF) ∧ (sF.now = none) ∧ (threadAt sF sF.cur = some thF) ∧ (thF.pc ≠ lastPc) ∧ (thF.form = Form.inFlight
    (WaitFor.fe (WriteReq.fe me5 FeOp.ldsync eF.va eF.pa 8 (0 : Word) (1 : BitVec 2)) 9 0 4 [])) ∧ (9 < 28) ∧ (77 < 2
    ^ 64) ∧ ((1 : BitVec 2) = (1 : BitVec 2) ∨ (1 : BitVec 2) = (3 : BitVec 2) → (dirAt sF (eF.pa / 32)).invs = []) := by
  unfold Canonical MemOk; decide +kernel

theorem witness_MonitorsAndWordEvents_0_0 :
  (Canonical s0) ∧ (Executing s0 th0) ∧ (th0.acqOut = 0) ∧ (ReadyNow th0 (srcP (11 : BitVec 5))) ∧ (ReadyNow th0 (srcP
    (9 : BitVec 5))) ∧ ((0 : BitVec 2) = (2 : BitVec 2) ∨ (0 : BitVec 2) = (3 : BitVec 2) → releasedAt s0 s0.cur th0 =
    true) ∧ (AtLocalWord s0 Acc.read false (effAddr (val th0 (11 : BitVec 5)) (1 : BitVec 8) (2 ^ BitVec.toNat (3 :
    BitVec 2))) (2 ^ BitVec.toNat (3 : BitVec 2)) eW) ∧ (rdNat s0 eW.pa (2 ^ BitVec.toNat (3 : BitVec 2)) ≠
    BitVec.toNat (val th0 (9 : BitVec 5)) % 256 ^ 2 ^ BitVec.toNat (3 : BitVec 2)) := by
  unfold Canonical MemOk Executing ReadyNow AtLocalWord Local; decide +kernel

theorem witness_MonitorsAndWordEvents_0_1 :
  ((Canonical sV) ∧ (Executing sV thV) ∧ (thV.acqOut = 0) ∧ (ReadyNow thV (srcP (11 : BitVec 5))) ∧ (ReadyNow thV
    (srcP (14 : BitVec 5))) ∧ ((0 : BitVec 2) = (2 : BitVec 2) ∨ (0 : BitVec 2) = (3 : BitVec 2) → releasedAt sV
    sV.cur thV = true) ∧ (AtLocalWord sV Acc.read false (effAddr (val thV (11 : BitVec 5)) (1 : BitVec 8) (2 ^
    BitVec.toNat (3 : BitVec 2))) (2 ^ BitVec.toNat (3 : BitVec 2)) eW) ∧ (rdNat sV eW.pa (2 ^ BitVec.toNat (3 :
    BitVec 2)) = BitVec.toNat (val thV (14 : BitVec 5)) % 256 ^ 2 ^ BitVec.toNat (3 : BitVec 2)) ∧ (NoWake sV thV) ∧
    (waitUsed sV (sV.cur / 64) < 64)) ∧ (Unregistered sV (sV.cur / 64) thV) := by
  refine ⟨?_, ?_⟩
  · unfold Canonical MemOk Executing ReadyNow AtLocalWord NoWake Local; decide +kernel
  · exact none_in _ _ (by decide +kernel)

theorem witness_MonitorsAndWordEvents_1 :
  ((wordRow (Instr.ldsync (9 : BitVec 5) (11 : BitVec 5) (3 : BitVec 2) (0 : BitVec 3) (1 : BitVec 2) (1 : BitVec 8))
    = some (FeOp.ldsync, (9 : BitVec 5), (11 : BitVec 5), 8, (1 : BitVec 8), (1 : BitVec 2))) ∧ (Canonical sT) ∧
    (Executing sT th0) ∧ (th0.acqOut = 0) ∧ (ReadyNow th0 (srcP (11 : BitVec 5))) ∧ (FeOp.ldsync = FeOp.ldsync →
    Writable th0 (BitVec.toNat (9 : BitVec 5))) ∧ (FeOp.ldsync = FeOp.stsync → ReadyNow th0 (srcP (9 : BitVec 5))) ∧
    ((1 : BitVec 2) = (2 : BitVec 2) ∨ (1 : BitVec 2) = (3 : BitVec 2) → releasedAt sT sT.cur th0 = true) ∧
    (AtLocalWord sT (FeOp.acc FeOp.ldsync) (FeOp.ldsync == FeOp.stsync) (effAddr (val th0 (11 : BitVec 5)) (1 : BitVec
    8) 8) 8 eW) ∧ (0 < fld (ctxAt sT th0.ctx).feretry 0 16)) ∧ (FeOp.ldsync = FeOp.ldsync ∨ FeOp.ldsync = FeOp.stsync)
    ∧ (¬((wordAt sT (eW.pa / 8)).fe = (FeOp.ldsync == FeOp.ldsync) ∧ FreeFor (wordAt sT (eW.pa / 8)) th0)) := by
  refine ⟨?_, ?_, ?_⟩
  · unfold Canonical MemOk Executing ReadyNow Writable AtLocalWord Local; decide +kernel
  · exact Or.inl rfl
  · exact fun h => absurd h.1 (by decide +kernel)

theorem witness_MonitorsAndWordEvents_2 :
  (sF.now = none) ∧ (threadAt sF sF.cur = some thF) ∧ (thF.form = Form.inFlight (WaitFor.fe (WriteReq.fe me5
    FeOp.ldsync eF.va eF.pa 8 (0 : Word) (1 : BitVec 2)) 9 0 4 [])) := by
  decide +kernel

theorem witness_MonitorsAndWordEvents_3 :
  (Canonical sR) ∧ (sR.now = none) ∧ ((wordAt sR 2560).resv = some (WordResv.mk (Thr.mk 0 1 5) (lin 20480) 0 0)) ∧
    ((ctxAt sR 1).st = CtxState.resident) ∧ (0 + 1000000 ≤ tick sR) := by
  unfold Canonical MemOk; decide +kernel

theorem witness_MonitorsAndWordEvents_4 :
  (s0.now = none) := by
  decide +kernel

end Sys2Proof.Tests.Words
end

section
/-!
PROOF. O41 (R433 to R440) fails: a walk whose entries are fetched from DRAM charges the waiter's context for them (R413), and
that charge may give the context its first entry in the context table. The rights the translation keeps are read afterwards, so
they list a context that the statement's right side, the table before the event, does not.
-/
namespace Sys2Proof.Proofs.Translation

open Sys2Proof.Machine Sys2Proof.Safety

/-- The address of the missed page: the second gigabyte of the paged space. -/
def missedVa : Word := 0x40000000

/-- A machine in which a prefetch waits, as nobody, at slice 0 for the walk of its page. The table at 0 is the root and, by its
first entry, the next two tables too; its second entry is a present leaf of 1 GiB with A set. No slice holds a line yet, and no
context has left its reset state. -/
def prefetchMiss : State :=
  { State.reset with
    mem := [(0, 1), (8, 9), (10, 1)]
    slices := [(0, { coal := [{ page := missedVa.toNat / 4096, waiters := [.nobody], walk := 2 }] })] }

/-- Where the walk of the missed page begins. -/
def missStart : Nat × Nat := walkStart prefetchMiss 0 missedVa.toNat

theorem prefetchMiss_canonical : Canonical prefetchMiss := by
  unfold Canonical MemOk; decide

theorem prefetchMiss_ownFrames : OwnFrames prefetchMiss := by
  have hlines : ∀ home, (sliceAt prefetchMiss home).lines = [] := by
    intro home
    simp only [sliceAt, prefetchMiss, Tab.get]
    split <;> [rfl; split <;> rfl]
  refine ⟨fun home l m h => ?_, fun l d _ h => ?_, fun x h => ?_⟩
  · simp [hlines] at h
  · cases h
  · cases h

/-- Every entry the walk reads lies in line 0, which nothing holds. -/
theorem missReads_plain :
    ∀ a ∈ walkReads prefetchMiss missedVa.toNat missStart.1 missStart.2, PlainLine prefetchMiss (sliceOfPa a) (a / 32) := by
  have hreads : walkReads prefetchMiss missedVa.toNat missStart.1 missStart.2 = [0, 0, 8] := by decide
  have htile : ∀ a ∈ [0, 0, 8], tileAt prefetchMiss (sliceOfPa a) (a / 32) = none := by decide
  intro a ha
  rw [hreads] at ha
  exact ⟨htile a ha, rfl, rfl, prefetchMiss_ownFrames⟩

theorem missWalk_leaf :
    walkFrom prefetchMiss missedVa.toNat missStart.1 missStart.2 = .leaf 0x40000000 30 0x10009 8 := by decide

theorem miss_hasNoRed : ∀ c ∈ (sliceAt prefetchMiss 0).coal, ∀ w ∈ c.waiters, ∀ th, w ≠ .red th := by
  have hnobody : ∀ c ∈ (sliceAt prefetchMiss 0).coal, ∀ w ∈ c.waiters, w = .nobody := by decide
  intro c hc w hw th
  rw [hnobody c hc w hw]
  exact nofun

/-- The walk's line comes from DRAM at context 0's cost, and the translation installed lists context 0's rights. -/
theorem missWalk_installs_rights_of_charged_context :
    ∃ t, Delivers prefetchMiss (.walkComplete 0 missedVa) t ∧ (sliceAt t 0).xlat.map (fun e => e.rights) = [[(0, 0)]] :=
  ⟨_, rfl, by decide⟩

/-- Refutes O41: the rights a new translation keeps are those of the contexts in the table after the walk has been charged, not
before: in prefetchMiss there is one context then, and there was none. -/
theorem not_translationEvents : ¬ Obligations.TranslationEvents := by
  unfold Obligations.TranslationEvents
  intro h
  obtain ⟨-, -, -, -, -, hleaf, -⟩ := h prefetchMiss 0 missedVa prefetchMiss_canonical rfl
  obtain ⟨t, hdel, -, ⟨xs, rs, hxlat, hrights⟩, -⟩ :=
    hleaf { page := missedVa.toNat / 4096, waiters := [.nobody], walk := 2 } 0x40000000 30 0x10009 8 rfl missReads_plain
      missWalk_leaf (by decide) rfl (by decide) (fun hA => absurd hA (by decide)) miss_hasNoRed
  obtain ⟨u, hdel', hlisted⟩ := missWalk_installs_rights_of_charged_context
  have htu : t = u := Host.Outcome.next.inj (hdel.symm.trans hdel')
  have hnone : rs = [] := hrights (by decide)
  rw [← htu, hxlat, hnone] at hlisted
  have hlast := congrArg List.getLast? hlisted
  simp at hlast

end Sys2Proof.Proofs.Translation
end

section
/-!
SUPPORT. What a write of a device unit leaves alone. HomeSide: the steps inside a home touch memory, the slices' and the
directory's entries and messages only. MemOnly: a whole device write may also take back update-only copies and mark tile slots of
cores, whose fences stand. TabKept relates the entries of a canonical table before and after.
-/
namespace Sys2Proof.Proofs.Frames

open Sys2Proof.Machine Sys2Proof.Safety

/-! ### Tables -/

/-- A canonical table stays canonical, and every entry of it stands in R to what it has become. -/
def TabKept {α : Type} [DecidableEq α] (d : α) (R : α → α → Prop) (a b : Tab α) : Prop :=
  Tab.wf d a = true → Tab.wf d b = true ∧ ∀ k, R (Tab.get d a k) (Tab.get d b k)

theorem TabKept.refl {α : Type} [DecidableEq α] {d : α} {R : α → α → Prop} (hR : ∀ x, R x x) (a : Tab α) : TabKept d R a a :=
  fun h => ⟨h, fun _ => hR _⟩

theorem TabKept.trans {α : Type} [DecidableEq α] {d : α} {R : α → α → Prop} (hR : ∀ {x y z}, R x y → R y z → R x z)
    {a b c : Tab α} (hab : TabKept d R a b) (hbc : TabKept d R b c) : TabKept d R a c := by
  intro h
  obtain ⟨hb, hab⟩ := hab h
  obtain ⟨hc, hbc⟩ := hbc hb
  exact ⟨hc, fun k => hR (hab k) (hbc k)⟩

theorem TabKept.put {α : Type} [DecidableEq α] {d : α} {R : α → α → Prop} (hR : ∀ x, R x x) {a : Tab α} {k : Nat} {x : α}
    (hx : R (Tab.get d a k) x) : TabKept d R a (Tab.put d a k x) := by
  intro h
  refine ⟨Tab.wf_put k x h, fun j => ?_⟩
  rw [Tab.get_put k j x h]
  split
  · subst_vars; exact hx
  · exact hR _

/-! ### Steps inside a home -/

/-- From s to t only memory, DRAM's copies, words, directory, slices, messages and the free counter have changed. -/
def HomeSide (s t : State) : Prop :=
  { t with mem := s.mem, dram := s.dram, words := s.words, dir := s.dir, slices := s.slices, agenda := s.agenda, out := s.out,
           fresh := s.fresh } = s

theorem HomeSide.refl (s : State) : HomeSide s s := rfl

theorem HomeSide.trans {s t u : State} (h : HomeSide s t) (k : HomeSide t u) : HomeSide s u := by
  have hk := congrArg (fun x : State => { x with
    mem := s.mem, dram := s.dram, words := s.words, dir := s.dir, slices := s.slices, agenda := s.agenda, out := s.out,
    fresh := s.fresh }) k
  exact hk.trans h

theorem HomeSide.foldl {α : Type} {f : State → α → State} (h : ∀ s x, HomeSide s (f s x)) (l : List α) (s : State) :
    HomeSide s (l.foldl f s) := by
  induction l generalizing s with
  | nil => exact .refl s
  | cons x l ih => exact (h s x).trans (ih _)

theorem HomeSide.cores {s t : State} (h : HomeSide s t) : t.cores = s.cores := by
  have hc := congrArg State.cores h
  exact hc

theorem HomeSide.poison {s t : State} (h : HomeSide s t) : t.poison = s.poison := by
  have hp := congrArg State.poison h
  exact hp

theorem homeSide_setSlice (s : State) (n : Nat) (x : Slice) : HomeSide s (setSlice s n x) := rfl
theorem homeSide_setDir (s : State) (l : Nat) (x : DirEntry) : HomeSide s (setDir s l x) := rfl
theorem homeSide_setWord (s : State) (w : Nat) (x : WordMeta) : HomeSide s (setWord s w x) := rfl
theorem homeSide_post (s : State) (e : Event) : HomeSide s (post e s) := rfl
theorem homeSide_postOrd (s : State) (a b : Nat) (e : Event) : HomeSide s (postOrd a b e s) := rfl
theorem homeSide_sendWake (s : State) (th : Thr) (m : Msg) : HomeSide s (sendWake th m s) := rfl
theorem homeSide_openRow (line : Nat) (s : State) : HomeSide s (openRow line s) := rfl
theorem homeSide_markLine (line : Nat) (m : Bool) (s : State) : HomeSide s (markLine line m s) := rfl
theorem homeSide_mapTile (slice idx : Nat) (f : TileEnt → TileEnt) (s : State) : HomeSide s (mapTile slice idx f s) := rfl
theorem homeSide_overCopy (line : Nat) (cells : List (Nat × Byte)) (s : State) : HomeSide s (overCopy line cells s) := rfl

theorem homeSide_postAll (evs : List Event) (s : State) : HomeSide s (postAll evs s) :=
  .foldl (fun s e => homeSide_post s e) evs s

theorem homeSide_putBits (line : Nat) (fe : List Bool) (s : State) : HomeSide s (putBits line fe s) := by
  refine .foldl (fun s x => ?_) _ s
  split
  · exact .refl s
  · exact homeSide_setWord ..

theorem homeSide_putLine (line : Nat) (l : DramLine) (s : State) : HomeSide s (putLine line l s) :=
  HomeSide.trans (t := { s with mem := putCells s.mem (cellsAt (line * 32) l.data) }) rfl (homeSide_putBits ..)

theorem homeSide_putDram (line : Nat) (l : DramLine) (s : State) : HomeSide s (putDram line l s) := by
  unfold putDram
  split
  · rfl
  · exact homeSide_putLine ..

theorem homeSide_writeBack (line : Nat) (s : State) : HomeSide s (writeBack line s) := by
  unfold writeBack
  split
  · exact (homeSide_openRow ..).trans (homeSide_putDram ..)
  · exact HomeSide.trans (t := { s with dram := s.dram.del (dramLine line) }) rfl (homeSide_openRow ..)

/-- Data that a condition puts into memory. -/
theorem homeSide_mem {p : Prop} [Decidable p] {s t : State} (m : Tab Byte) (h : HomeSide s t) :
    HomeSide s (if p then { t with mem := m } else t) := by
  split
  · exact h.trans rfl
  · exact h

theorem homeSide_replaceLine (line : Nat) (s : State) : HomeSide s (replaceLine line s) := by
  unfold replaceLine
  refine HomeSide.trans (homeSide_mem _ ?_) (homeSide_setSlice ..)
  split
  · exact homeSide_writeBack ..
  · split
    · exact .refl s
    · exact (homeSide_putLine ..).trans rfl

theorem homeSide_replaceNth (home k : Nat) (s : State) : HomeSide s (replaceNth home k s) := by
  unfold replaceNth
  split
  · exact homeSide_replaceLine ..
  · exact .refl s

theorem homeSide_nextFresh (s : State) : HomeSide s (nextFresh s) := rfl

theorem homeSide_fillLine (line : Nat) (s : State) : HomeSide s (fillLine line s) := by
  unfold fillLine
  split
  · exact .refl s
  · refine HomeSide.trans ?_ (homeSide_openRow ..)
    refine HomeSide.trans ?_ (homeSide_setSlice ..)
    split
    · refine HomeSide.trans ?_ (homeSide_putLine ..)
      split
      · exact .refl s
      · exact (homeSide_nextFresh s).trans (homeSide_replaceNth ..)
    · split
      · exact .refl s
      · exact (homeSide_nextFresh s).trans (homeSide_replaceNth ..)

theorem homeSide_dirtyLine (s : State) (line : Nat) : HomeSide s (dirtyLine s line) := by
  unfold dirtyLine
  split
  · exact .refl s
  · refine HomeSide.trans ?_ (homeSide_markLine ..)
    split
    · exact homeSide_fillLine ..
    · exact (homeSide_fillLine ..).trans rfl

theorem homeSide_recallCopies (slice : Nat) (e : TileEnt) (cs : List (Nat × Nat)) (s : State) :
    HomeSide s (recallCopies slice e cs s) := by
  unfold recallCopies
  split
  · exact (homeSide_mapTile ..).trans (.foldl (fun s _ => homeSide_postOrd s ..) _ _)
  · exact .refl s

theorem homeSide_devDemote (line : Nat) (cells : List (Nat × Byte)) (s : State) : HomeSide s (devDemote line cells s) := by
  unfold devDemote
  dsimp only
  split
  · exact .refl s
  · refine HomeSide.trans ?_ (homeSide_recallCopies ..)
    refine HomeSide.trans ?_ (homeSide_mapTile ..)
    split
    · exact homeSide_overCopy ..
    · exact .refl s

theorem homeSide_askHost (line : Nat) (rd : Bool) (s : State) : HomeSide s (askHost line rd s) := by
  have hmark : ∀ l s, HomeSide s (if (dirAt s l).host then setDir s l { dirAt s l with snooped := true, reading := rd } else s) := by
    intro l s
    split
    · exact homeSide_setDir ..
    · exact .refl s
  exact ((hmark _ s).trans (hmark _ _)).trans rfl

theorem homeSide_snoopLine (line : Nat) (s : State) : HomeSide s (snoopLine line s) := by
  unfold snoopLine
  split
  · exact homeSide_askHost ..
  · exact .refl s

theorem homeSide_sendInv (home line : Nat) (s : State) (u : Nat) : HomeSide s (sendInv home line s u) := by
  unfold sendInv
  split <;> rfl

theorem homeSide_invalidateLine (home line : Nat) (keep : Option Nat) (writer : Option Thr) (s : State) :
    HomeSide s (invalidateLine home line keep writer s) := by
  unfold invalidateLine
  dsimp only
  split
  · exact .refl s
  · exact (homeSide_setDir ..).trans (.foldl (homeSide_sendInv home line) _ _)

theorem homeSide_markStale (home line : Nat) (s : State) : HomeSide s (markStale home line s) := by
  unfold markStale
  split
  · split
    · exact homeSide_mapTile ..
    · exact .refl s
  · exact .refl s

theorem homeSide_stalePeer (line : Nat) (s : State) : HomeSide s (stalePeer line s) :=
  .foldl (fun s _ => homeSide_markStale _ line s) _ s

theorem homeSide_touchWord (home w : Nat) (s : State) : HomeSide s (touchWord home w s) := by
  unfold touchWord
  dsimp only
  split
  · exact .refl s
  · have hfire := (homeSide_setWord s w { wordAt s w with mons := [], w := false, wva := 0 }).trans
      (.foldl (fun s x => homeSide_sendWake s x.th (hwMsg 3 (fld x.va 0 56))) (wordAt s w).mons _)
    split
    · exact hfire.trans (homeSide_post ..)
    · exact hfire

theorem homeSide_retryFills (s : State) : HomeSide s (retryFills s) := by
  refine .foldl (fun s q => .foldl (fun s va => ?_) _ s) _ s
  split
  · exact .refl s
  · exact homeSide_post ..

theorem homeSide_noteRegions (cells : List (Nat × Byte)) (s : State) : HomeSide s (noteRegions cells s) := by
  unfold noteRegions
  split
  · exact homeSide_retryFills s
  · exact .refl s

/-- What a write does beside its bytes, at the lines it touches. -/
theorem homeSide_writtenLine (keep : Option Nat) (writer : Option Thr) (s : State) (l : Nat) :
    HomeSide s (if inDram (l * 32) then
      markStale (homePlace (l * 32)) l (invalidateLine (homePlace (l * 32)) l keep writer s)
    else if inPeer (l * 32) then stalePeer l s else s) := by
  split
  · exact (homeSide_invalidateLine ..).trans (homeSide_markStale ..)
  · split
    · exact homeSide_stalePeer ..
    · exact .refl s

end Sys2Proof.Proofs.Frames
end
section
/-!
SUPPORT. A whole write of a device unit (devWrite): what it leaves alone, and what it leaves alone besides where no core holds
partial updates of a line it writes.
-/
namespace Sys2Proof.Proofs.Frames

open Sys2Proof.Machine Sys2Proof.Safety

/-! ### Writes at the home -/

/-- As HomeSide, but poisoned words may have been written whole. -/
def HomeWrite (s t : State) : Prop := HomeSide { s with poison := t.poison } t

theorem HomeSide.write {s t : State} (h : HomeSide s t) : HomeWrite s t := by
  have hp := h.poison
  unfold HomeWrite
  rw [hp]
  exact h

theorem HomeWrite.trans {s t u : State} (h : HomeWrite s t) (k : HomeWrite t u) : HomeWrite s u := by
  have hu : HomeSide { s with poison := u.poison } { t with poison := u.poison } := by
    have := congrArg (fun x : State => { x with poison := u.poison }) h
    exact this
  exact hu.trans k

theorem HomeWrite.cores {s t : State} (h : HomeWrite s t) : t.cores = s.cores := HomeSide.cores (s := { s with poison := t.poison }) h

theorem homeWrite_rawWrite (s : State) (cs : List (Nat × Byte)) : HomeWrite s (rawWrite s cs) :=
  (HomeSide.foldl homeSide_dirtyLine (linesOf cs) s).write.trans rfl

/-- A poisoned word not all of whose bytes are written stays poisoned. -/
theorem poison_rawWrite {s : State} {cs : List (Nat × Byte)} {w i : Nat} (hi : i < 8) (hw : ∀ c ∈ cs, c.1 ≠ w * 8 + i)
    (hp : w ∈ s.poison) : w ∈ (rawWrite s cs).poison := by
  have hq : ((linesOf cs).foldl dirtyLine s).poison = s.poison := (HomeSide.foldl homeSide_dirtyLine (linesOf cs) s).poison
  have hnot : (List.range 8).all (fun i => cs.any (fun c => c.1 == w * 8 + i)) = false := by
    rw [List.all_eq_false]
    refine ⟨i, List.mem_range.mpr hi, ?_⟩
    rw [Bool.not_eq_true, List.any_eq_false]
    exact fun c hc => by simpa using hw c hc
  have hmem : w ∈ ((linesOf cs).foldl dirtyLine s).poison := hq ▸ hp
  unfold rawWrite
  dsimp only
  split
  · rw [List.mem_filter]
    exact ⟨hmem, by simp [hnot]⟩
  · exact hmem

theorem poison_performWrite {s : State} {cs : List (Nat × Byte)} {keep : Option Nat} {th : Option Thr} :
    (performWrite cs keep th s).poison = (rawWrite s cs).poison := by
  have hmod : ∀ (l : List (Nat × Byte)) (t : State),
      (l.foldl (fun s c => if isSpad c.1 then markMod (spadCore c.1) ((c.1 - spadBase) % spadSize) s else s) t).poison = t.poison := by
    intro l
    induction l with
    | nil => intro t; rfl
    | cons c l ih =>
      intro t
      rw [List.foldl_cons, ih]
      split
      · unfold markMod
        dsimp only
        split <;> rfl
      · rfl
  unfold performWrite
  dsimp only
  rw [hmod, (HomeSide.foldl (fun s w => homeSide_touchWord _ w s) _ _).poison,
    (HomeSide.foldl (fun s l => homeSide_writtenLine keep th s l) _ _).poison, (homeSide_noteRegions _ _).poison]

/-! ### Whole writes -/

/-- A fence of a core stands. -/
def CoreKept (c d : Core) : Prop := c.fenced = true → d.fenced = true

theorem CoreKept.refl (c : Core) : CoreKept c c := id
theorem CoreKept.trans {c d e : Core} (h : CoreKept c d) (k : CoreKept d e) : CoreKept c e := k ∘ h

/-- From s to t only memory and what stands in it, the homes, messages, and fields of cores other than their fence have changed. -/
structure MemOnly (s t : State) : Prop where
  rest : { t with mem := s.mem, dram := s.dram, words := s.words, dir := s.dir, slices := s.slices, agenda := s.agenda,
                  out := s.out, fresh := s.fresh, poison := s.poison, cores := s.cores } = s
  cores : TabKept {} CoreKept s.cores t.cores

theorem MemOnly.refl (s : State) : MemOnly s s := ⟨rfl, .refl CoreKept.refl _⟩

theorem MemOnly.trans {s t u : State} (h : MemOnly s t) (k : MemOnly t u) : MemOnly s u where
  rest := by
    have hk := congrArg (fun x : State => { x with
      mem := s.mem, dram := s.dram, words := s.words, dir := s.dir, slices := s.slices, agenda := s.agenda, out := s.out,
      fresh := s.fresh, poison := s.poison, cores := s.cores }) k.rest
    exact hk.trans h.rest
  cores := TabKept.trans (R := CoreKept) CoreKept.trans h.cores k.cores

theorem MemOnly.foldl {α : Type} {f : State → α → State} (h : ∀ s x, MemOnly s (f s x)) (l : List α) (s : State) :
    MemOnly s (l.foldl f s) := by
  induction l generalizing s with
  | nil => exact .refl s
  | cons x l ih => exact (h s x).trans (ih _)

theorem MemOnly.ite {p : Prop} [Decidable p] {s t u : State} (h : MemOnly s t) (k : MemOnly s u) :
    MemOnly s (if p then t else u) := by
  split
  · exact h
  · exact k

theorem HomeWrite.memOnly {s t : State} (h : HomeWrite s t) : MemOnly s t where
  rest := by
    have := congrArg (fun x : State => { x with poison := s.poison, cores := s.cores }) h
    exact this
  cores := by rw [h.cores]; exact .refl CoreKept.refl _

theorem HomeSide.memOnly {s t : State} (h : HomeSide s t) : MemOnly s t := h.write.memOnly

theorem memOnly_setCore {s : State} {n : Nat} {x : Core} (h : CoreKept (coreAt s n) x) : MemOnly s (setCore s n x) :=
  ⟨rfl, .put CoreKept.refl h⟩

theorem memOnly_markMod (core off : Nat) (s : State) : MemOnly s (markMod core off s) := by
  unfold markMod
  dsimp only
  split
  · exact memOnly_setCore id
  · exact .refl s

theorem memOnly_performWrite (cs : List (Nat × Byte)) (keep : Option Nat) (th : Option Thr) (s : State) :
    MemOnly s (performWrite cs keep th s) := by
  have hspad : ∀ (l : List (Nat × Byte)) (s : State), MemOnly s
      (l.foldl (fun s c => if isSpad c.1 then markMod (spadCore c.1) ((c.1 - spadBase) % spadSize) s else s) s) := by
    refine .foldl fun s c => ?_
    split
    · exact memOnly_markMod ..
    · exact .refl s
  exact (homeWrite_rawWrite s cs).memOnly.trans ((homeSide_noteRegions cs _).memOnly.trans
    ((HomeSide.foldl (fun s l => homeSide_writtenLine keep th s l) _ _).memOnly.trans
    ((HomeSide.foldl (fun s w => homeSide_touchWord _ w s) _ _).memOnly.trans (hspad _ _))))

theorem memOnly_takePartial (core line : Nat) (s : State) : MemOnly s (takePartial core line s) := by
  unfold takePartial
  split
  · exact (homeSide_setDir ..).memOnly
  · next k op parts _ =>
    have hc : MemOnly s (setCore s core { coreAt s core with l1 := (coreAt s core).l1.del k }) := memOnly_setCore id
    exact hc.trans (homeSide_setDir ..).memOnly

theorem memOnly_collectLine (line : Nat) (s : State) : MemOnly s (collectLine line s) := by
  unfold collectLine
  dsimp only
  split
  · exact .refl s
  · have hfill := ((homeSide_setDir s line { dirAt s line with uop := none, ucores := [], recalled := [], parts := [] }).trans
      (homeSide_fillLine line _)).memOnly
    exact .ite hfill (hfill.trans (memOnly_performWrite ..))

theorem memOnly_collectNow (line : Nat) (s : State) : MemOnly s (collectNow line s) := by
  unfold collectNow
  split
  · exact .refl s
  · exact (MemOnly.foldl (fun s c => memOnly_takePartial c line s) _ s).trans (memOnly_collectLine ..)

theorem homeSide_shownLine (l : Nat) (cs : List (Nat × Byte)) (s : State) :
    HomeSide s (if (dirAt (snoopLine l s) l).host then overCopy l cs (snoopLine l s) else snoopLine l s) := by
  split
  · exact (homeSide_snoopLine l s).trans (homeSide_overCopy ..)
  · exact homeSide_snoopLine l s

theorem memOnly_devWrite (cs : List (Nat × Byte)) (s : State) : MemOnly s (devWrite cs s) :=
  (MemOnly.foldl (fun s l => (homeSide_devDemote l cs s).memOnly.trans
    ((memOnly_collectNow l _).trans (homeSide_shownLine l cs _).memOnly)) _ s).trans (memOnly_performWrite ..)

theorem memOnly_devPut (pa : Nat) (bs : List Byte) (s : State) : MemOnly s (devPut pa bs s) := memOnly_devWrite ..
theorem memOnly_wr64 (s : State) (pa : Nat) (v : Word) : MemOnly s (wr64 s pa v) := memOnly_devWrite ..

theorem memOnly_vput (ctx va : Nat) (bs : List Byte) (s : State) : MemOnly s (vput ctx va bs s) := by
  unfold vput
  dsimp only
  split
  · exact .refl s
  · exact memOnly_devWrite ..

theorem memOnly_vput64 (ctx va : Nat) (v : Word) (s : State) : MemOnly s (vput64 ctx va v s) := memOnly_vput ..

/-! ### A write of lines that no core updates -/

/-- The same cores' operation, or none, stands in both. -/
def SameOp (d e : DirEntry) : Prop := e.uop = d.uop

theorem SameOp.refl (d : DirEntry) : SameOp d d := rfl
theorem SameOp.trans {d e f : DirEntry} (h : SameOp d e) (k : SameOp e f) : SameOp d f := Eq.trans k h

/-- The directory keeps, of each line, whether cores update it. -/
structure OpKept (s t : State) : Prop where
  dir : TabKept {} SameOp s.dir t.dir

theorem OpKept.of_dir {s t : State} (h : t.dir = s.dir) : OpKept s t where
  dir := by
    rw [h]
    exact .refl SameOp.refl _

theorem OpKept.trans {s t u : State} (h : OpKept s t) (k : OpKept t u) : OpKept s u :=
  ⟨TabKept.trans (R := SameOp) SameOp.trans h.dir k.dir⟩

theorem opKept_setDir {s : State} {l : Nat} {d : DirEntry} (h : SameOp (dirAt s l) d) : OpKept s (setDir s l d) :=
  ⟨.put SameOp.refl h⟩

theorem opKept_overCopy (l : Nat) (cs : List (Nat × Byte)) (s : State) : OpKept s (overCopy l cs s) := opKept_setDir rfl

theorem opKept_recallCopies (slice : Nat) (e : TileEnt) (cs : List (Nat × Nat)) (s : State) :
    OpKept s (recallCopies slice e cs s) := by
  have hf : ∀ (l : List (Nat × Nat)) (t : State),
      (l.foldl (fun s c => postOrd (sliceUnit slice) c.1 (.tileRecall c.1 e.ctx e.handle) s) t).dir = t.dir := by
    intro l
    induction l with
    | nil => intro t; rfl
    | cons c l ih => intro t; exact ih _
  refine .of_dir ?_
  unfold recallCopies
  split
  · exact hf _ _
  · rfl

theorem opKept_devDemote (l : Nat) (cs : List (Nat × Byte)) (s : State) : OpKept s (devDemote l cs s) := by
  unfold devDemote
  dsimp only
  split
  · exact .of_dir rfl
  · refine OpKept.trans ?_ (opKept_recallCopies ..)
    split
    · exact (opKept_overCopy l cs s).trans (.of_dir rfl)
    · exact .of_dir rfl

theorem opKept_askHost (line : Nat) (rd : Bool) (s : State) : OpKept s (askHost line rd s) := by
  have hmark : ∀ (l : Nat) (s : State), OpKept s
      (if (dirAt s l).host then setDir s l { dirAt s l with snooped := true, reading := rd } else s) := by
    intro l s
    split
    · exact opKept_setDir rfl
    · exact .of_dir rfl
  exact ((hmark _ s).trans (hmark _ _)).trans (.of_dir rfl)

theorem opKept_shownLine (l : Nat) (cs : List (Nat × Byte)) (s : State) :
    OpKept s (if (dirAt (snoopLine l s) l).host then overCopy l cs (snoopLine l s) else snoopLine l s) := by
  have hs : OpKept s (snoopLine l s) := by
    unfold snoopLine
    split
    · exact opKept_askHost ..
    · exact .of_dir rfl
  split
  · exact hs.trans (opKept_overCopy ..)
  · exact hs

theorem collectNow_of_none {s : State} {l : Nat} (h : (dirAt s l).uop = none) : collectNow l s = s := by
  unfold collectNow
  rw [h]

/-- The device's own lines are taken back from host and tiles alone where no core updates them. -/
theorem homeSide_takeBack {cs : List (Nat × Byte)} {ls : List Nat} {s : State} (hw : Tab.wf {} s.dir = true)
    (hu : ∀ l ∈ ls, (dirAt s l).uop = none) :
    HomeSide s (ls.foldl (fun s l =>
      let s := snoopLine l (collectNow l (devDemote l cs s))
      if (dirAt s l).host then overCopy l cs s else s) s) := by
  induction ls generalizing s with
  | nil => exact .refl s
  | cons l ls ih =>
    obtain ⟨hw₁, hk₁⟩ := (opKept_devDemote l cs s).dir hw
    have hl : (dirAt (devDemote l cs s) l).uop = none := Eq.trans (hk₁ l) (hu l (by simp))
    rw [List.foldl_cons, collectNow_of_none hl]
    obtain ⟨hw₂, hk₂⟩ := (opKept_shownLine l cs (devDemote l cs s)).dir hw₁
    exact (homeSide_devDemote l cs s).trans ((homeSide_shownLine l cs _).trans
      (ih hw₂ fun m hm => Eq.trans ((hk₁ m).trans (hk₂ m)) (hu m (List.mem_cons_of_mem _ hm))))

section
variable {s : State} {cs : List (Nat × Byte)} (hw : Tab.wf {} s.dir = true) (hu : ∀ l ∈ linesOf cs, (dirAt s l).uop = none)
include hw hu

theorem cores_devWrite (hs : ∀ c ∈ cs, isSpad c.1 = false) : (devWrite cs s).cores = s.cores := by
  have hmod : ∀ (l : List (Nat × Byte)) (t : State), (∀ c ∈ l, isSpad c.1 = false) →
      l.foldl (fun s c => if isSpad c.1 then markMod (spadCore c.1) ((c.1 - spadBase) % spadSize) s else s) t = t := by
    intro l
    induction l with
    | nil => intro t _; rfl
    | cons c l ih =>
      intro t hl
      rw [List.foldl_cons, hl c (by simp), if_neg (by simp)]
      exact ih t fun d hd => hl d (List.mem_cons_of_mem _ hd)
  unfold devWrite performWrite
  dsimp only
  rw [hmod _ _ hs, (HomeSide.foldl (fun s w => homeSide_touchWord _ w s) _ _).cores,
    (HomeSide.foldl (fun s l => homeSide_writtenLine none none s l) _ _).cores, (homeSide_noteRegions _ _).cores,
    (homeWrite_rawWrite _ _).cores]
  exact (homeSide_takeBack hw hu).cores

theorem poison_devWrite {w i : Nat} (hi : i < 8) (hb : ∀ c ∈ cs, c.1 ≠ w * 8 + i) (hp : w ∈ s.poison) :
    w ∈ (devWrite cs s).poison := by
  unfold devWrite
  rw [poison_performWrite]
  refine poison_rawWrite hi hb ?_
  rw [(homeSide_takeBack hw hu).poison]
  exact hp

end

end Sys2Proof.Proofs.Frames
end
section
/-!
SUPPORT. Still: what a unit's wind-down (an engine's, a copy context's, a thread's) leaves alone: links, fences, the record
counter, the host's events, a slot's vacancy, a cell's owner and test.
-/
namespace Sys2Proof.Proofs.Frames

open Sys2Proof.Machine Sys2Proof.Safety

/-! ### The relation -/

/-- A slot without a thread gets none. -/
def VacantKept (x y : Slot) : Prop := (∀ t, x.occ ≠ .thread t) → ∀ t, y.occ ≠ .thread t

theorem VacantKept.refl (x : Slot) : VacantKept x x := id
theorem VacantKept.trans {x y z : Slot} (h : VacantKept x y) (k : VacantKept y z) : VacantKept x z := k ∘ h

/-- A cell keeps its owner and its test, and its fences stand. -/
structure CellKept (c d : Cell) : Prop where
  owner : d.owner = c.owner
  test : d.test = c.test
  fenced : c.fenced = true → d.fenced = true
  arr : c.arrFenced = true → d.arrFenced = true
  copy : c.copyFenced = true → d.copyFenced = true

theorem CellKept.refl (c : Cell) : CellKept c c := ⟨rfl, rfl, id, id, id⟩

theorem CellKept.trans {c d e : Cell} (h : CellKept c d) (k : CellKept d e) : CellKept c e :=
  ⟨k.owner.trans h.owner, k.test.trans h.test, k.fenced ∘ h.fenced, k.arr ∘ h.arr, k.copy ∘ h.copy⟩

/-- From s to t no link has moved, no error record and no event for the host has been made, no thread has come to a slot, and
every fence stands. -/
structure Still (s t : State) : Prop where
  links : t.links = s.links
  seq : t.ras.seq = s.ras.seq
  told : t.host.waiting = s.host.waiting
  units : s.fencedUnits ⊆ t.fencedUnits
  slots : TabKept {} VacantKept s.slots t.slots
  cores : TabKept {} CoreKept s.cores t.cores
  cells : TabKept {} CellKept s.cells t.cells

theorem Still.refl (s : State) : Still s s :=
  ⟨rfl, rfl, rfl, fun _ h => h, .refl VacantKept.refl _, .refl CoreKept.refl _, .refl CellKept.refl _⟩

theorem Still.trans {s t u : State} (h : Still s t) (k : Still t u) : Still s u :=
  ⟨k.links.trans h.links, k.seq.trans h.seq, k.told.trans h.told, fun _ m => k.units (h.units m),
   TabKept.trans (R := VacantKept) VacantKept.trans h.slots k.slots, TabKept.trans (R := CoreKept) CoreKept.trans h.cores k.cores,
   TabKept.trans (R := CellKept) CellKept.trans h.cells k.cells⟩

theorem Still.foldl {α : Type} {f : State → α → State} (h : ∀ s x, Still s (f s x)) (l : List α) (s : State) :
    Still s (l.foldl f s) := by
  induction l generalizing s with
  | nil => exact .refl s
  | cons x l ih => exact (h s x).trans (ih _)

theorem Still.ite {p : Prop} [Decidable p] {s t u : State} (h : Still s t) (k : Still s u) : Still s (if p then t else u) := by
  split
  · exact h
  · exact k

/-- The parts of a state that Still speaks of. -/
def standing (s : State) : Tab Link × Nat × List HostEvent × List Nat × Tab Slot × Tab Core × Tab Cell :=
  (s.links, s.ras.seq, s.host.waiting, s.fencedUnits, s.slots, s.cores, s.cells)

theorem still_of_eq {s t : State} (h : standing t = standing s) : Still s t := by
  obtain ⟨hl, hq, hw, hu, hs, hc, he⟩ := (by simpa only [standing, Prod.mk.injEq] using h :
    _ ∧ _ ∧ _ ∧ _ ∧ _ ∧ _ ∧ _)
  exact ⟨hl, hq, hw, fun _ m => hu ▸ m, hs ▸ .refl VacantKept.refl _, hc ▸ .refl CoreKept.refl _, he ▸ .refl CellKept.refl _⟩

theorem MemOnly.still {s t : State} (h : MemOnly s t) : Still s t := by
  have hr := congrArg (fun u : State => standing { u with cores := t.cores }) h.rest
  have hs : Still { s with cores := t.cores } t := still_of_eq hr
  exact ⟨hs.links, hs.seq, hs.told, hs.units, hs.slots, h.cores, hs.cells⟩

theorem HomeSide.still {s t : State} (h : HomeSide s t) : Still s t := h.memOnly.still

/-! ### The state's operations -/

theorem still_post (s : State) (e : Event) : Still s (post e s) := still_of_eq rfl
theorem still_postOrd (a b : Nat) (s : State) (e : Event) : Still s (postOrd a b e s) := still_of_eq rfl
theorem still_postAll (evs : List Event) (s : State) : Still s (postAll evs s) := (homeSide_postAll evs s).still
theorem still_sendWake (th : Thr) (m : Msg) (s : State) : Still s (sendWake th m s) := still_of_eq rfl
theorem still_setCtx (s : State) (n : Nat) (x : Ctx) : Still s (setCtx s n x) := still_of_eq rfl
theorem still_setSqe (s : State) (n : Nat) (x : Sqe) : Still s (setSqe s n x) := still_of_eq rfl
theorem still_setDir (s : State) (n : Nat) (x : DirEntry) : Still s (setDir s n x) := still_of_eq rfl
theorem still_setSlice (s : State) (n : Nat) (x : Slice) : Still s (setSlice s n x) := still_of_eq rfl
theorem still_offerWork (ctx chip : Nat) (s : State) : Still s (offerWork ctx chip s) := still_of_eq rfl

theorem still_setCore {s : State} {n : Nat} {x : Core} (h : CoreKept (coreAt s n) x) : Still s (setCore s n x) :=
  (memOnly_setCore h).still

theorem still_setCell {s : State} {n : Nat} {x : Cell} (h : CellKept (cellAt s n) x) : Still s (setCell s n x) :=
  { Still.refl s with cells := .put CellKept.refl h }

theorem still_setSlot {s : State} {p : Nat} {x : Slot} (h : VacantKept (slotAt s p) x) : Still s (setSlot s p x) :=
  { Still.refl s with slots := .put VacantKept.refl h }

theorem still_setThread {s : State} {p : Nat} {u : Thread} (h : threadAt s p = some u) (t : Thread) : Still s (setThread s p t) := by
  refine still_setSlot fun hv => absurd h ?_
  unfold threadAt
  split
  · next t' ht => exact absurd ht (hv t')
  · simp

theorem still_mapThread (p : Nat) (f : Thread → Thread) (s : State) : Still s (mapThread p f s) := by
  unfold mapThread
  split
  · next t ht => exact still_setThread ht _
  · exact .refl s

theorem still_mapMe (f : Thread → Thread) (s : State) : Still s (mapMe f s) := still_mapThread ..

theorem still_mapEng (cell e : Nat) (f : EngCtx → EngCtx) (s : State) : Still s (mapEng cell e f s) :=
  still_setCell ⟨rfl, rfl, id, id, id⟩

theorem still_mapCopy (core e : Nat) (f : CopyCtx → CopyCtx) (s : State) : Still s (mapCopy core e f s) := still_setCore id
theorem still_mapTslot (core i : Nat) (f : TileSlot → TileSlot) (s : State) : Still s (mapTslot core i f s) := still_setCore id

/-- An error record is written to memory and counted. -/
theorem memOnly_errorRec (source sev ctx : Nat) (loc : ErrLoc) (addr info synd : Word) (s : State) :
    MemOnly { s with ras := (errorRec source sev ctx loc addr info synd s).ras } (errorRec source sev ctx loc addr info synd s) := by
  unfold errorRec
  dsimp only
  split
  · generalize hb : List.flatMap _ _ = bs
    have h := memOnly_devPut (s.ras.errbase.toNat + 64 * (s.ras.errtail % 4096)) bs s
    generalize devPut (s.ras.errbase.toNat + 64 * (s.ras.errtail % 4096)) bs s = u at h
    have hr := congrArg (fun x : State => { x with ras := { u.ras with errtail := u.ras.errtail + 1, seq := u.ras.seq + 1 } }) h.rest
    exact ⟨hr, h.cores⟩
  · exact .refl _

theorem seq_errorRec (source sev ctx : Nat) (loc : ErrLoc) (addr info synd : Word) (s : State) :
    (errorRec source sev ctx loc addr info synd s).ras.seq = s.ras.seq + 1 := by
  unfold errorRec
  dsimp only
  split
  · exact congrArg (· + 1) (memOnly_devPut ..).still.seq
  · rfl

/-- An error record raises the record counter. -/
theorem still_errorRec (source sev ctx : Nat) (loc : ErrLoc) (addr info synd : Word) (s : State) :
    Still { s with ras := { s.ras with seq := s.ras.seq + 1 } } (errorRec source sev ctx loc addr info synd s) := by
  have h := (memOnly_errorRec source sev ctx loc addr info synd s).still
  have hq := seq_errorRec source sev ctx loc addr info synd s
  generalize errorRec source sev ctx loc addr info synd s = t at *
  exact ⟨h.links, hq, h.told, h.units, h.slots, h.cores, h.cells⟩

theorem MemOnly.fields {s t : State} (h : MemOnly s t) :
    t.slots = s.slots ∧ t.cells = s.cells ∧ t.host = s.host ∧ t.fencedUnits = s.fencedUnits :=
  ⟨(congrArg State.slots h.rest :), (congrArg State.cells h.rest :), (congrArg State.host h.rest :),
   (congrArg State.fencedUnits h.rest :)⟩

/-- What an error record leaves as it is. -/
theorem fields_errorRec (source sev ctx : Nat) (loc : ErrLoc) (addr info synd : Word) (s : State) :
    (errorRec source sev ctx loc addr info synd s).slots = s.slots ∧ (errorRec source sev ctx loc addr info synd s).cells = s.cells ∧
    (errorRec source sev ctx loc addr info synd s).host = s.host ∧
    (errorRec source sev ctx loc addr info synd s).fencedUnits = s.fencedUnits :=
  (memOnly_errorRec ..).fields

/-! ### Wakes, engines and copy contexts -/

theorem still_wakeParked (th : Thr) (k : Park) (m : Msg) (s : State) : Still s (wakeParked th k m s) := by
  unfold wakeParked
  split
  · exact .ite (still_sendWake ..) (.refl s)
  · exact .refl s

theorem still_wakeLimit (reason info : Nat) (th : Thr) (s : State) : Still s (wakeLimit reason info th s) := still_wakeParked ..

theorem still_endEng (cell e : Nat) (s : State) : Still s (endEng cell e s) := (still_mapEng ..).trans (still_offerWork ..)

theorem still_fireArms (sel line : Nat) (ended : Tab Nat) (arms : List (Thr × Nat × Nat)) (s : State) :
    Still s (fireArms sel line ended arms s) :=
  .foldl (fun s _ => .ite (still_sendWake ..) (.refl s)) arms s

theorem still_engAdvance (cell e line : Nat) (s : State) : Still s (engAdvance cell e line s) := by
  unfold engAdvance
  extract_lets x due s₁ s₂ s₃ owner s₄ x' s₅
  have h₁ : Still s s₁ := still_mapEng ..
  have h₂ : Still s s₂ := h₁.trans (.foldl (fun s _ => still_post s _) _ _)
  have h₄ : Still s s₄ := h₂.trans ((still_fireArms ..).trans (still_wakeLimit ..))
  have h₅ : Still s s₅ := .ite h₄ (.ite (h₄.trans (still_mapEng ..)) (.ite (h₄.trans (still_endEng ..)) h₄))
  exact .ite h₅ (h₅.trans (still_wakeLimit ..))

theorem still_engFail (cell e status : Nat) (s : State) : Still s (engFail cell e status s) := by
  unfold engFail
  extract_lets x fin s₁ x' ended s₂ st
  have h₁ : Still s s₁ := by
    unfold s₁
    split
    · exact (still_mapEng ..).trans (still_engAdvance ..)
    · exact .refl s
  have h₂ : Still s s₂ := h₁.trans (.foldl (fun s _ => still_post s _) _ _)
  exact h₂.trans ((still_mapEng ..).trans (still_engAdvance ..))

theorem still_failRunning (core e : Nat) (s : State) : Still s (failRunning core e s) := by
  unfold failRunning
  extract_lets q n s₁
  have h₁ : Still s s₁ := still_mapCopy ..
  exact .ite (h₁.trans (still_post ..)) h₁

/-! ### Fences -/

theorem still_fenceUnit (u : Nat) (s : State) : Still s (fenceUnit u s) :=
  .ite (.refl s) { Still.refl s with units := List.subset_append_left .. }

theorem mem_fenceUnit (u : Nat) (s : State) : u ∈ (fenceUnit u s).fencedUnits := by
  unfold fenceUnit
  split
  · assumption
  · simp

theorem still_faultEngs (cell : Nat) (s : State) : Still s (faultEngs cell s) :=
  .foldl (fun s _ => .ite (.refl s) (still_engFail ..)) _ s

theorem still_faultCopies (cell : Nat) (s : State) : Still s (faultCopies cell s) :=
  .foldl (fun _ _ => .ite (still_mapCopy ..) (still_failRunning ..)) _ s

theorem still_fenceCells (cell : Nat) (s : State) :
    Still s (setCell s cell { cellAt s cell with fenced := true, arrFenced := true, copyFenced := true }) :=
  still_setCell ⟨rfl, rfl, fun _ => rfl, fun _ => rfl, fun _ => rfl⟩

theorem still_fenceCores (cell : Nat) (l : List Nat) (s : State) :
    Still s (l.foldl (fun s i => setCore s (4 * cell + i) { coreAt s (4 * cell + i) with fenced := true }) s) :=
  .foldl (fun _ _ => still_setCore fun _ => rfl) l s

theorem still_fenceOneCell (cell : Nat) (s : State) : Still s (fenceOneCell cell s) :=
  (still_faultEngs cell s).trans ((still_faultCopies ..).trans ((still_fenceCells ..).trans (still_fenceCores ..)))

theorem still_fenceStack (chip : Nat) (s : State) : Still s (fenceStack chip s) :=
  (still_fenceUnit (32 + chip) s).trans (.foldl (fun s c => still_fenceOneCell c s) _ _)

theorem still_fenceCell (cell : Nat) (s : State) : Still s (fenceCell cell s) := by
  unfold fenceCell
  extract_lets s₁ chip
  have h₁ : Still s s₁ := still_fenceOneCell ..
  exact .ite (h₁.trans (still_fenceStack ..)) h₁

theorem still_settleFences (cell : Nat) (s : State) : Still s (settleFences cell s) :=
  .ite (still_fenceCell cell s) (.refl s)

theorem still_tellLost (s : State) : Still s (tellLost s) :=
  .foldl (fun s _ => .foldl (fun s _ => still_postAll _ s) _ s) _ s

end Sys2Proof.Proofs.Frames
end
section
/-!
The fences of R483: each of them stands when it is set, with what it brings along, and stays.
-/
namespace Sys2Proof.Proofs.Faults

open Sys2Proof.Machine Sys2Proof.Safety Sys2Proof.Proofs.Frames

/-! ### Canonical tables -/

/-- The tables of slots, cores and cells are canonical. -/
structure Tidy (s : State) : Prop where
  slots : Tab.wf {} s.slots = true
  cores : Tab.wf {} s.cores = true
  cells : Tab.wf {} s.cells = true

theorem tidy_of_canonical {s : State} (h : Canonical s) : Tidy s := by
  obtain ⟨-, -, -, -, hs, hc, he, -⟩ := h
  exact ⟨hs, hc, he⟩

theorem tidy_still {s t : State} (h : Tidy s) (k : Still s t) : Tidy t :=
  ⟨(k.slots h.slots).1, (k.cores h.cores).1, (k.cells h.cells).1⟩

section
variable {s t : State} (h : Tidy s)
include h

theorem tidy_errorRec (source sev ctx : Nat) (loc : ErrLoc) (addr info synd : Word) :
    Tidy (errorRec source sev ctx loc addr info synd s) :=
  tidy_still (s := { s with ras := { s.ras with seq := s.ras.seq + 1 } }) ⟨h.slots, h.cores, h.cells⟩ (still_errorRec ..)

theorem tidy_setCell (n : Nat) (x : Cell) : Tidy (setCell s n x) := ⟨h.slots, h.cores, Tab.wf_put n x h.cells⟩

theorem cellKept_still (k : Still s t) (n : Nat) : CellKept (cellAt s n) (cellAt t n) := (k.cells h.cells).2 n
theorem coreKept_still (k : Still s t) (n : Nat) : CoreKept (coreAt s n) (coreAt t n) := (k.cores h.cores).2 n

theorem threadAt_still (k : Still s t) {p : Nat} (hp : threadAt s p = none) : threadAt t p = none := by
  have hv : ∀ u, (slotAt s p).occ ≠ .thread u := by
    intro u hu
    simp [threadAt, hu] at hp
  have hv' := (k.slots h.slots).2 p hv
  unfold threadAt
  split
  · next u hu => exact absurd hu (hv' u)
  · rfl

theorem cellAt_setCell_tidy (n : Nat) (x : Cell) : cellAt (setCell s n x) n = x := by
  unfold cellAt setCell
  rw [Tab.get_put n n x h.cells, if_pos rfl]

theorem coreAt_setCore_tidy (n : Nat) (x : Core) : coreAt (setCore s n x) n = x := by
  unfold coreAt setCore
  rw [Tab.get_put n n x h.cores, if_pos rfl]

/-! ### Single units -/

/-- The cores of a cell whose fences are set alike. -/
theorem fenced_setCores (v : Bool) {i : Nat} {l : List Nat} (cell : Nat)
    (hi : i ∈ l ∨ (coreAt s (4 * cell + i)).fenced = v) :
    (coreAt (l.foldl (fun s i => setCore s (4 * cell + i) { coreAt s (4 * cell + i) with fenced := v }) s)
      (4 * cell + i)).fenced = v := by
  induction l generalizing s with
  | nil => simpa using hi
  | cons j l ih =>
    have hget : coreAt (setCore s (4 * cell + j) { coreAt s (4 * cell + j) with fenced := v }) (4 * cell + i) =
        if 4 * cell + j = 4 * cell + i then { coreAt s (4 * cell + j) with fenced := v } else coreAt s (4 * cell + i) :=
      Tab.get_put _ _ _ h.cores
    refine ih ⟨h.slots, Tab.wf_put _ _ h.cores, h.cells⟩ ?_
    rw [hget]
    rcases hi with hi | hi
    · rcases List.mem_cons.mp hi with rfl | hi
      · simp
      · exact .inl hi
    · right
      split
      · rfl
      · exact hi

end

/-- A core is fenced, and two units of its cell fence the cell. -/
theorem still_fenceCore (core : Nat) (s : State) : Still s (fenceCore core s) := by
  have hs : Still s (setCore s core { coreAt s core with fenced := true }) := still_setCore fun _ => rfl
  exact hs.trans (still_settleFences ..)

theorem still_fenceArray (cell : Nat) (s : State) : Still s (fenceArray cell s) := by
  unfold fenceArray
  extract_lets s₁
  have h₁ : Still s s₁ := still_faultEngs ..
  clear_value s₁
  have h₂ : Still s₁ (setCell s₁ cell { cellAt s₁ cell with arrFenced := true }) := still_setCell ⟨rfl, rfl, id, fun _ => rfl, id⟩
  exact h₁.trans (h₂.trans (still_settleFences ..))

theorem still_fenceCopy (cell : Nat) (s : State) : Still s (fenceCopy cell s) := by
  unfold fenceCopy
  extract_lets s₁
  have h₁ : Still s s₁ := still_faultCopies ..
  clear_value s₁
  have h₂ : Still s₁ (setCell s₁ cell { cellAt s₁ cell with copyFenced := true }) := still_setCell ⟨rfl, rfl, id, id, fun _ => rfl⟩
  exact h₁.trans (h₂.trans (still_settleFences ..))

theorem fenced_fenceCore {s : State} (h : Tidy s) (core : Nat) : (coreAt (fenceCore core s) core).fenced = true := by
  have hs : Still s (setCore s core { coreAt s core with fenced := true }) := still_setCore fun _ => rfl
  refine coreKept_still (tidy_still h hs) (still_settleFences ..) core ?_
  rw [coreAt_setCore_tidy h]

theorem arrFenced_fenceArray {s : State} (h : Tidy s) (cell : Nat) : (cellAt (fenceArray cell s) cell).arrFenced = true := by
  have hs := tidy_still h (still_faultEngs cell s)
  refine (cellKept_still (tidy_setCell hs cell _) (still_settleFences ..) cell).arr ?_
  rw [cellAt_setCell_tidy hs]

theorem copyFenced_fenceCopy {s : State} (h : Tidy s) (cell : Nat) : (cellAt (fenceCopy cell s) cell).copyFenced = true := by
  have hs := tidy_still h (still_faultCopies cell s)
  refine (cellKept_still (tidy_setCell hs cell _) (still_settleFences ..) cell).copy ?_
  rw [cellAt_setCell_tidy hs]

/-! ### Cells -/

/-- A cell is fenced with everything in it. -/
structure CellDown (s : State) (cell : Nat) : Prop where
  whole : (cellAt s cell).fenced = true
  arr : (cellAt s cell).arrFenced = true
  copy : (cellAt s cell).copyFenced = true
  cores : ∀ i, i < 4 → (coreAt s (4 * cell + i)).fenced = true

section
variable {s t : State} (h : Tidy s)
include h

theorem cellDown_still {cell : Nat} (hd : CellDown s cell) (k : Still s t) : CellDown t cell :=
  have hc := cellKept_still h k cell
  ⟨hc.fenced hd.whole, hc.arr hd.arr, hc.copy hd.copy, fun i hi => coreKept_still h k _ (hd.cores i hi)⟩

theorem cellDown_fenceOneCell (cell : Nat) : CellDown (fenceOneCell cell s) cell := by
  have hu : Tidy (faultCopies cell (faultEngs cell s)) := tidy_still h ((still_faultEngs cell s).trans (still_faultCopies ..))
  have hv := tidy_still hu (still_fenceCells cell _)
  have hk := cellKept_still hv (still_fenceCores cell (List.range 4) _) cell
  have hx := cellAt_setCell_tidy hu cell
  refine ⟨hk.fenced ?_, hk.arr ?_, hk.copy ?_, fun i hi => fenced_setCores hv true cell (.inl (List.mem_range.mpr hi))⟩ <;> rw [hx]

theorem cellDown_fenceAll {cell : Nat} {l : List Nat} (hc : cell ∈ l) : CellDown (l.foldl (fun s c => fenceOneCell c s) s) cell := by
  induction l generalizing s with
  | nil => simp at hc
  | cons j l ih =>
    have hj := tidy_still h (still_fenceOneCell j s)
    rw [List.foldl_cons]
    by_cases hin : cell ∈ l
    · exact ih hj hin
    · obtain rfl : cell = j := by simpa [hin] using hc
      have hk : Still (fenceOneCell cell s) (l.foldl (fun s c => fenceOneCell c s) (fenceOneCell cell s)) :=
        .foldl (fun s c => still_fenceOneCell c s) l _
      exact cellDown_still hj (cellDown_fenceOneCell h cell) hk

theorem cellDown_fenceStack {chip cell : Nat} (hc : cell ∈ cellsOfChip chip) : CellDown (fenceStack chip s) cell := by
  unfold fenceStack
  exact cellDown_fenceAll (tidy_still h (still_fenceUnit ..)) hc

theorem cellDown_fenceCell (cell : Nat) : CellDown (fenceCell cell s) cell := by
  have hone := cellDown_fenceOneCell h cell
  unfold fenceCell
  extract_lets s₁ chip
  split
  · exact cellDown_still (tidy_still h (still_fenceOneCell ..)) hone (still_fenceStack ..)
  · exact hone

end

/-! ### Storage engines -/

theorem still_unpin (a : Nat) (s : State) : Still s (unpin a s) := by
  have hw : ∀ v, Still s (wr64 s (a + 16) v) := fun v => (memOnly_wr64 s (a + 16) v).still
  exact .ite ((hw _).trans (homeSide_retryFills _).still) (hw _)

theorem still_nvmeSend (chip n : Nat) (s : State) (c : NvmeCmd) : Still s (nvmeSend chip n s c) := by
  unfold nvmeSend
  extract_lets q
  split
  · exact still_setSqe ..
  · exact still_of_eq rfl

theorem still_nvmeDone (chip n : Nat) (s : State) : Still s (nvmeDone chip n s) := by
  have hsend : ∀ (l : List (Nat × NvmeCmd)) (s : State), Still s (l.foldl (fun s x => nvmeSend chip x.1 s x.2) s) :=
    .foldl fun s x => still_nvmeSend chip x.1 s x.2
  exact (still_setSqe s chip _).trans (hsend _ _)

theorem still_endOp (chip n : Nat) (s : State) : Still s (endOp chip n s) := by
  unfold endOp
  extract_lets s₁ q page s₂
  have h₂ : Still s s₂ := (still_nvmeDone chip n s).trans (still_setSqe ..)
  clear_value s₂
  refine Still.trans ?_ (homeSide_retryFills _).still
  split
  · exact h₂.trans (still_post ..)
  · exact h₂

theorem still_setOp (chip n : Nat) (op : SqeOp) (s : State) : Still s (setOp chip n op s) := still_setSqe ..

theorem still_finishTransfer (chip n status : Nat) (s : State) : Still s (finishTransfer chip n status s) := by
  unfold finishTransfer
  split
  · exact .ite (still_endOp ..) ((still_setOp ..).trans (.foldl (fun s _ => still_sendWake _ _ s) _ _))
  · exact .refl s

theorem still_endTransfer (chip n status : Nat) (s : State) : Still s (endTransfer chip n status s) := by
  unfold endTransfer
  split
  · next x _ =>
    have h₁ : Still s (nvmeDone chip n (setOp chip n (.transfer { x with pins := [], ended := true })
        (x.pins.foldl (fun s a => unpin a s) s))) :=
      (Still.foldl (fun s a => still_unpin a s) x.pins s).trans ((still_setOp ..).trans (still_nvmeDone ..))
    exact .ite (.refl s) (.ite (h₁.trans (still_finishTransfer ..)) (h₁.trans (still_post ..)))
  · exact .refl s

theorem units_hostPath (base : Nat) (reason status : Nat) (s : State) : (hostPath base reason status s).fencedUnits = s.fencedUnits := rfl

/-- A storage engine that has failed is fenced, whatever becomes of its operations. -/
theorem mem_fenceSqe (n : Nat) (s : State) : n ∈ (fenceSqe n s).fencedUnits := by
  have hfold : ∀ (l : List (Nat × Option SqeOp)) {f : State → Nat × Option SqeOp → State} (u : State),
      (∀ v o, n ∈ v.fencedUnits → n ∈ (f v o).fencedUnits) → n ∈ u.fencedUnits → n ∈ (l.foldl f u).fencedUnits := by
    intro l f u hf
    induction l generalizing u with
    | nil => exact id
    | cons o l ih => exact fun hu => ih _ (hf u o hu)
  refine hfold _ _ (fun v o hv => ?_) (mem_fenceUnit n s)
  split
  · split
    · exact hv
    · exact (still_endTransfer ..).units hv
  · split
    · rw [units_hostPath]
      exact (still_endOp ..).units hv
    · exact hv
  · exact hv
  · exact hv

/-! ### What is detected (R483) -/

theorem arrFenced_tellLost {s : State} (hs : Canonical s) (source cell : Nat) (loc : ErrLoc) :
    (cellAt (tellLost (fenceArray cell (errorRec source 2 0xFFF loc 0 0 0 s))) cell).arrFenced = true := by
  have hr := tidy_errorRec (tidy_of_canonical hs) source 2 0xFFF loc 0 0 0
  exact (cellKept_still (tidy_still hr (still_fenceArray cell _)) (still_tellLost _) cell).arr (arrFenced_fenceArray hr cell)

section
variable {s : State} (hs : Canonical s) (hn : s.now = none)
include hn

theorem delivers_residue (cell : Nat) :
    Delivers s (.hwFaultDetected (.residue cell)) (setCell s cell { cellAt s cell with residue := (cellAt s cell).residue + 1 }) := by
  cases s; cases hn; rfl

theorem sqeFault (n : Nat) : ∃ t, Delivers s (.hwFaultDetected (.sqe n)) t ∧ n ∈ t.fencedUnits := by
  refine ⟨fenceSqe n (errorRec 6 2 0xFFF { w2 := BitVec.ofNat 64 n } 0 0 0 s), ?_, mem_fenceSqe ..⟩
  cases s; cases hn; rfl

theorem tellerFault (n : Nat) :
    ∃ t, Delivers s (.hwFaultDetected (.teller n)) t ∧ 8 + n ∈ t.fencedUnits ∧ t.ras.seq = s.ras.seq + 1 := by
  refine ⟨fenceUnit (8 + n) (errorRec 6 2 0xFFF { w2 := BitVec.ofNat 64 n } 0 0 0 s), ?_, mem_fenceUnit ..,
    (still_fenceUnit ..).seq.trans (still_errorRec ..).seq⟩
  cases s; cases hn; rfl

theorem rowSaveFault (n : Nat) :
    ∃ t, Delivers s (.hwFaultDetected (.rowSave n)) t ∧ 16 + n ∈ t.fencedUnits ∧ t.ras.seq = s.ras.seq + 1 := by
  refine ⟨fenceUnit (16 + n) (errorRec 6 2 0xFFF { w2 := BitVec.ofNat 64 (n * 2 ^ 9) } 0 0 0 s), ?_, mem_fenceUnit ..,
    (still_fenceUnit ..).seq.trans (still_errorRec ..).seq⟩
  cases s; cases hn; rfl

include hs

theorem coreFault (core : Nat) : ∃ t, Delivers s (.hwFaultDetected (.core core)) t ∧ (coreAt t core).fenced = true ∧
    t.ras.seq = s.ras.seq + 1 := by
  have hr := tidy_errorRec (tidy_of_canonical hs) 6 2 0xFFF (coreLoc core 0) 0 0 0
  have hq := still_errorRec 6 2 0xFFF (coreLoc core 0) 0 0 0 s
  refine ⟨tellLost (fenceCore core (errorRec 6 2 0xFFF (coreLoc core 0) 0 0 0 s)), ?_, ?_, ?_⟩
  · cases s; cases hn; rfl
  all_goals
    generalize errorRec 6 2 0xFFF (coreLoc core 0) 0 0 0 s = r at *
    have hf := still_fenceCore core r
  · exact coreKept_still (tidy_still hr hf) (still_tellLost _) core (fenced_fenceCore hr core)
  · exact (still_tellLost _).seq.trans (hf.seq.trans hq.seq)

theorem arrayFault (cell row col : Nat) :
    ∃ t, Delivers s (.hwFaultDetected (.array cell row col)) t ∧ (cellAt t cell).arrFenced = true := by
  refine ⟨_, ?_, arrFenced_tellLost hs 3 cell
    { cellLoc cell with w2 := (cellLoc cell).w2 + BitVec.ofNat 64 (row * 2 ^ 20 + col * 2 ^ 24), valid := 2 }⟩
  cases s; cases hn; rfl

theorem arraySeqFault (cell : Nat) : ∃ t, Delivers s (.hwFaultDetected (.arraySeq cell)) t ∧ (cellAt t cell).arrFenced = true := by
  refine ⟨_, ?_, arrFenced_tellLost hs 6 cell (cellLoc cell)⟩
  cases s; cases hn; rfl

theorem copyFault (cell : Nat) : ∃ t, Delivers s (.hwFaultDetected (.copy cell)) t ∧ (cellAt t cell).copyFenced = true := by
  have hr := tidy_errorRec (tidy_of_canonical hs) 6 2 0xFFF (cellLoc cell) 0 0 0
  refine ⟨tellLost (fenceCopy cell (errorRec 6 2 0xFFF (cellLoc cell) 0 0 0 s)), ?_,
    (cellKept_still (tidy_still hr (still_fenceCopy cell _)) (still_tellLost _) cell).copy (copyFenced_fenceCopy hr cell)⟩
  cases s; cases hn; rfl

theorem cellFault (cell : Nat) : ∃ t, Delivers s (.hwFaultDetected (.cell cell)) t ∧ CellDown t cell := by
  have hr := tidy_errorRec (tidy_of_canonical hs) 6 2 0xFFF (cellLoc cell) 0 0 0
  refine ⟨tellLost (fenceCell cell (errorRec 6 2 0xFFF (cellLoc cell) 0 0 0 s)), ?_,
    cellDown_still (tidy_still hr (still_fenceCell cell _)) (cellDown_fenceCell hr cell) (still_tellLost _)⟩
  cases s; cases hn; rfl

theorem stackFault (n : Nat) :
    ∃ t, Delivers s (.hwFaultDetected (.stack n)) t ∧ ∀ x, x < 768 → chipOfCell x = n → (cellAt t x).fenced = true := by
  have hr := tidy_errorRec (tidy_of_canonical hs) 6 2 0xFFF { w2 := BitVec.ofNat 64 n } 0 0 0
  refine ⟨tellLost (fenceStack n (errorRec 6 2 0xFFF { w2 := BitVec.ofNat 64 n } 0 0 0 s)), ?_, fun x hx hc => ?_⟩
  · cases s; cases hn; rfl
  · have hin : x ∈ cellsOfChip n := List.mem_filter.mpr ⟨List.mem_range.mpr hx, by simp [hc]⟩
    exact (cellDown_still (tidy_still hr (still_fenceStack n _)) (cellDown_fenceStack hr hin) (still_tellLost _)).whole

end

end Sys2Proof.Proofs.Faults
end
section
/-!
A thread's end, where its slot fails (R483): everything it held is given back, no thread comes to a slot by it, and its own
slot is vacant.
-/
namespace Sys2Proof.Proofs.Faults

open Sys2Proof.Machine Sys2Proof.Safety Sys2Proof.Proofs.Frames

/-! ### What a thread has claimed -/

theorem still_dropArms (core tid ctx : Nat) (s : State) : Still s (dropArms core tid ctx s) := by
  unfold dropArms
  extract_lets mine keep s₁
  have h₁ : Still s s₁ := .foldl (fun s _ => .ite (still_mapCopy ..) (.refl s)) _ s
  exact h₁.trans (.foldl (fun s _ => .ite (still_mapEng ..) (.refl s)) _ _)

theorem still_releaseCopies (core tid ctx : Nat) (all : Bool) (s : State) : Still s (releaseCopies core tid ctx all s) := by
  unfold releaseCopies
  extract_lets cores
  refine .foldl (fun s core => .foldl (fun s e => ?_) _ s) _ s
  refine .ite ?_ (.refl s)
  split
  · exact still_mapCopy ..
  · exact .ite (still_mapCopy ..) (.refl s)
  · exact .ite (still_mapCopy ..) (.refl s)
  · exact .refl s

theorem still_unbindEng (cell e : Nat) (s : State) : Still s (unbindEng cell e s) := by
  unfold unbindEng
  extract_lets qids
  refine .foldl (fun s i => ?_) _ s
  extract_lets p
  split
  · next t ht =>
    have hp : threadAt s p = some t := by simp [threadAt, ht]
    exact .ite (still_setThread hp _) (.refl s)
  · exact .ite (still_setSlot fun _ _ => nofun) (.refl s)
  · exact .refl s

theorem still_releaseEng (cell e : Nat) (s : State) : Still s (releaseEng cell e s) :=
  .ite (.refl s) (.ite ((still_unbindEng cell e s).trans (still_endEng ..)) ((still_unbindEng cell e s).trans (still_mapEng ..)))

theorem still_releaseEngs (core tid ctx : Nat) (s : State) : Still s (releaseEngs core tid ctx s) :=
  .foldl (fun s _ => .ite (still_releaseEng ..) (.refl s)) _ s

/-! ### Its task -/

theorem still_vput64 (ctx va : Nat) (v : Word) (s : State) : Still s (vput64 ctx va v s) := (memOnly_vput64 ..).still

theorem still_retryWaiting (ctx : Nat) (s : State) : Still s (retryWaiting ctx s) :=
  .ite ((still_setCtx ..).trans (.foldl (fun s _ => still_offerWork ctx _ s) _ _)) (.refl s)

theorem still_freeTslot (core i : Nat) (s : State) : Still s (freeTslot core i s) := by
  refine Still.trans ?_ (still_mapTslot ..)
  unfold wakeSlot
  extract_lets t
  exact Still.trans (.ite (.refl s) (still_mapTslot ..)) (.foldl (fun s _ => still_sendWake _ _ s) _ _)

theorem still_freeTile (slice : Nat) (e : TileEnt) (s : State) : Still s (freeTile slice e s) := by
  unfold freeTile
  extract_lets ctx idx sl s₁ gen s₂ mine
  have h₂ : Still s s₂ := (still_setSlice ..).trans (still_vput64 ..)
  have hfree : ∀ (l : List (Nat × Nat)) (s : State), Still s (l.foldl (fun s x => freeTslot x.1 x.2 s) s) :=
    .foldl fun s x => still_freeTslot x.1 x.2 s
  exact h₂.trans ((hfree mine s₂).trans (.foldl (fun s _ => still_retryWaiting _ s) _ _))

theorem still_restoreHandles (ctx : Nat) (r : Word) (s : State) : Still s (restoreHandles ctx r s) := by
  unfold restoreHandles
  extract_lets us s₁ c
  have h₁ : Still s s₁ := by
    refine .foldl (fun s u => ?_) _ s
    extract_lets ur a c s₁
    have h₁ : Still s s₁ := .foldl (fun s _ => .ite (still_vput64 ..) (.refl s)) _ s
    clear_value s₁
    refine .ite (.refl s) ?_
    split
    · exact h₁.trans (still_freeTile ..)
    · exact h₁
  clear_value s₁
  exact .ite (.refl s) (h₁.trans ((still_setCtx ..).trans (still_retryWaiting ..)))

theorem still_taskNotify (ctx : Nat) (r : Word) (result status chip : Nat) (s : State) :
    Still s (taskNotify ctx r result status chip s) := by
  unfold taskNotify
  extract_lets n target
  split
  · exact still_sendWake ..
  · exact still_post ..
  · exact .refl s

theorem still_taskComplete (ctx : Nat) (r : Word) (result status chip : Nat) (s : State) :
    Still s (taskComplete ctx r result status chip s) := by
  unfold taskComplete
  extract_lets s₁ s₂ s₃
  have h₁ : Still s s₁ := Still.trans (still_vput64 ..) (still_vput64 ..)
  have h₂ : Still s s₂ := .ite (h₁.trans (still_restoreHandles ..)) h₁
  have h₃ : Still s s₃ := .ite h₂ (h₂.trans (.foldl (fun s _ => still_post s _) _ _))
  exact h₃.trans (still_taskNotify ..)

/-! ### Its slot and its number -/

theorem still_settleQueues (core : Nat) (s : State) : Still s (settleQueues core s) :=
  .ite (.refl s) (still_setCore id)

theorem still_purgePosted (th : Thr) (s : State) : Still s (purgePosted th s) := by
  unfold purgePosted
  extract_lets s₁ s₂
  have h₁ : Still s s₁ := by
    refine .foldl (fun s x => ?_) _ s
    extract_lets c left
    exact .ite (.refl s) (still_setCore id)
  have h₂ : Still s₁ s₂ := .foldl (fun s _ => .ite (still_setSlice ..) (.refl s)) _ s₁
  exact h₁.trans (h₂.trans (still_of_eq rfl))

theorem still_putTidHead (ctx : Nat) (s : State) : Still s (putTidHead ctx s) := still_vput64 ..

theorem still_giveTid (ctx tid core : Nat) (s : State) : Still s (giveTid ctx tid core s) :=
  (still_purgePosted ⟨0, ctx, tid⟩ s).trans ((still_setCtx ..).trans ((still_putTidHead ..).trans (still_offerWork ..)))

theorem still_freeEnded (ctx tid core : Nat) (s : State) : Still s (freeEnded ctx tid core s) :=
  .ite ((still_setCtx ..).trans (still_giveTid ..)) (.refl s)

/-- The slot a thread leaves empty. -/
theorem still_emptied {s : State} {p : Nat} {x : Slot} (hx : x.occ = .vacant) : Still s (setSlot s p x) :=
  still_setSlot fun _ t ht => by simp [hx] at ht

theorem threadAt_emptied {s : State} (h : Tidy s) {p : Nat} {x : Slot} (hx : x.occ = .vacant) : threadAt (setSlot s p x) p = none := by
  unfold threadAt slotAt setSlot
  rw [Tab.get_put p p x h.slots, if_pos rfl, hx]

/-- What follows the emptying of the slot. -/
theorem still_leaveSlot (p : Nat) (s : State) :
    Still (setSlot s p { slotAt s p with occ := .vacant, latch := none, mailbox := [] }) (leaveSlot p .vacant s) := by
  unfold leaveSlot
  extract_lets core sl s₁ c mine gone c' s₂ s₃
  have h₂ : Still s₁ s₂ := .ite (.refl s₁) (still_setCore id)
  have h₃ : Still s₁ s₃ := h₂.trans (.foldl (fun s _ => still_sendWake _ _ s) _ _)
  exact h₃.trans (still_settleQueues ..)

theorem still_postHandler (h : Handler) (s : State) : Still s (postHandler h s) := still_of_eq rfl

theorem still_freeSlot (p ctx : Nat) (s : State) : Still (leaveSlot p .vacant s) (freeSlot p ctx s) := by
  unfold freeSlot
  extract_lets s₁ told
  split
  · exact still_offerWork ..
  · split
    · exact still_postHandler ..
    · exact .refl _

/-! ### The end of a thread -/

/-- Up to its leaving the slot. -/
theorem still_unclaimed (p : Nat) (t : Thread) (s : State) :
    Still s (mapThread p (fun t => { t with binds := noBinds }) (dropArms (p / 16) t.tid t.ctx
      (releaseCopies (p / 16) t.tid t.ctx true (releaseEngs (p / 16) t.tid t.ctx s)))) :=
  (still_releaseEngs ..).trans ((still_releaseCopies ..).trans ((still_dropArms ..).trans (still_mapThread ..)))

theorem endThread_still (p : Nat) {s : State} (h : Tidy s) : Still s (endThread p s) ∧ threadAt (endThread p s) p = none := by
  unfold endThread
  split
  · next hp => exact ⟨.refl s, hp⟩
  · next t _ =>
    extract_lets core s₁ s₂ s₃ s₄ s₅ c
    have h₂ : Still s s₂ := still_unclaimed p t s
    have h₃ : Still s s₃ := .ite h₂ (h₂.trans ((still_taskComplete ..).trans (memOnly_vput ..).still))
    clear_value s₃
    have hemp : Still s₃ (setSlot s₃ p { slotAt s₃ p with occ := .vacant, latch := none, mailbox := [] }) := still_emptied rfl
    have hnone := threadAt_emptied (tidy_still h h₃) (p := p) (x := { slotAt s₃ p with occ := .vacant, latch := none, mailbox := [] }) rfl
    have h₄ : Still _ s₄ := (still_leaveSlot p s₃).trans ((still_freeSlot p t.ctx s₃).trans (still_vput64 ..))
    have h₅ : Still _ s₅ := h₄.trans (still_purgePosted ..)
    clear_value s₅
    have hend := h₅.trans ((still_setCtx s₅ t.ctx { c with ending := c.ending ++ [(t.tid, core)] }).trans
      ((still_post _ (.retire t.ctx)).trans (still_freeEnded t.ctx t.tid core _)))
    exact ⟨h₃.trans (hemp.trans hend), threadAt_still (tidy_still h (h₃.trans hemp)) hend hnone⟩

theorem threadAt_errorRec {s : State} (h : Tidy s) {p : Nat} (hp : threadAt s p = none) (source sev ctx : Nat) (loc : ErrLoc)
    (addr info synd : Word) : threadAt (errorRec source sev ctx loc addr info synd s) p = none :=
  threadAt_still (s := { s with ras := { s.ras with seq := s.ras.seq + 1 } }) ⟨h.slots, h.cores, h.cells⟩ (still_errorRec ..) hp

theorem slotFault {s : State} (hs : Canonical s) (hn : s.now = none) (p : Nat) :
    ∃ t, Delivers s (.hwFaultDetected (.slot p)) t ∧ 64 + p ∈ t.fencedUnits ∧ threadAt t p = none := by
  have h₀ := tidy_still (tidy_of_canonical hs) (still_fenceUnit (64 + p) s)
  obtain ⟨hend, hp⟩ := endThread_still p h₀
  have h₁ := tidy_still h₀ hend
  have hrec := still_errorRec 4 2 0xFFF (coreLoc (p / 16) (p % 16)) 0 0 0 (endThread p (fenceUnit (64 + p) s))
  have hrest := (still_settleFences (p / 64) (errorRec 4 2 0xFFF (coreLoc (p / 16) (p % 16)) 0 0 0
    (endThread p (fenceUnit (64 + p) s)))).trans (still_tellLost _)
  refine ⟨tellLost (settleFences (p / 64) (errorRec 4 2 0xFFF (coreLoc (p / 16) (p % 16)) 0 0 0
    (endThread p (fenceUnit (64 + p) s)))), ?_, hrest.units (hrec.units (hend.units (mem_fenceUnit ..))), ?_⟩
  · cases s; cases hn; rfl
  · exact threadAt_still (tidy_errorRec h₁ ..) hrest (threadAt_errorRec h₁ hp ..)

end Sys2Proof.Proofs.Faults
end
section
/-!
A link that fails (R457, R483): it is FENCED, which the host is told, and nothing that then ends or is refused touches a link or
tells the host more.
-/
namespace Sys2Proof.Proofs.Faults

open Sys2Proof.Machine Sys2Proof.Safety Sys2Proof.Proofs.Frames

theorem still_foldl_of_mem {α : Type} {f : State → α → State} {l : List α} (h : ∀ x ∈ l, ∀ s, Still s (f s x)) (s : State) :
    Still s (l.foldl f s) := by
  induction l generalizing s with
  | nil => exact .refl s
  | cons x l ih => exact (h x (by simp) s).trans (ih (fun y hy => h y (List.mem_cons_of_mem _ hy)) _)

/-! ### A refused access of a thread -/

theorem still_qWake (core qid : Nat) (pop : Bool) (s : State) : Still s (qWake core qid pop s) := by
  unfold qWake
  split
  · exact still_sendWake ..
  · exact .refl s

theorem still_mapResv (qid : Nat) (f : Nat → Nat) (s : State) : Still s (mapResv qid f s) := still_setCore id

theorem still_qset (core qid : Nat) (data : List Word) (s : State) : Still s (qset core qid data s) := by
  unfold qset
  extract_lets cell c
  exact .ite (still_setCore id) (.ite (still_mapEng ..) (.ite (still_mapEng ..) (still_mapEng ..)))

theorem still_undoPops (undo : List (Nat × Word)) (s : State) : Still s (undoPops undo s) := by
  refine .foldl (fun s x => ?_) _ s
  extract_lets qid core back i
  split
  · next q _ =>
    extract_lets s₁ c
    have h₁ : Still s s₁ := (still_qset ..).trans (still_mapResv ..)
    have hc : CoreKept (coreAt s₁ core) { c with qback := c.qback.put [] qid (back.take i ++ x.1 / 256 :: back.drop i) } := id
    clear_value s₁
    exact h₁.trans ((still_setCore hc).trans (still_qWake ..))
  · exact .refl s

theorem still_unreserve (d : Nat) (s : State) : Still s (unreserve d s) := by
  unfold unreserve
  split
  · exact .refl s
  · split
    · exact still_mapResv ..
    · exact .refl s

theorem still_giveUp (d : Nat) (s : State) : Still s (giveUp d s) := by
  unfold giveUp
  split
  · exact (still_unreserve ..).trans (still_qWake ..)
  · exact .refl s

theorem still_abandon (s : State) : Still s (abandon s) := by
  unfold abandon
  split
  · exact (still_giveUp ..).trans (still_undoPops ..)
  · exact still_undoPops ..
  · exact (still_giveUp ..).trans (still_undoPops ..)
  · exact (still_giveUp ..).trans (still_undoPops ..)
  · exact (still_giveUp ..).trans (still_undoPops ..)
  · exact still_setCore id
  · exact .refl s

theorem still_unparkQueues (s : State) : Still s (unparkQueues s) :=
  .ite (still_setCore id) (.refl s)

theorem still_raise (c : Cause) (info addr : Word) (s : State) : Still s (raise c info addr s) :=
  (still_mapThread ..).trans (still_post ..)

theorem still_lateFault (c : Cause) (info addr : Word) (s : State) : Still s (lateFault c info addr s) :=
  .ite ((still_abandon s).trans ((still_unparkQueues ..).trans (still_raise ..))) (still_mapMe ..)

theorem still_withThr (th : Thr) {f : State → State} (hf : ∀ s, Still s (f s)) (s : State) : Still s (withThr th s f) := by
  have hcur : Still s { s with cur := th.slot } := still_of_eq rfl
  exact .ite (hcur.trans (hf _)) (.refl s)

theorem still_failWrite (th : Thr) (id : Nat) (c : Cause) (k : Acc) (addr : Word) (s : State) :
    Still s (failWrite th id c k addr s) := by
  refine still_withThr th (fun u => ?_) s
  have hq : ∀ sq, Still u (setCore u (myCore u) { coreAt u (myCore u) with sq := sq }) := fun _ => still_setCore fun h => h
  exact (hq _).trans (still_lateFault ..)

theorem still_ackRequest (w : WriteReq) (home : Nat) (s : State) : Still s (ackRequest w home s) := by
  have hack : ∀ th, Still s (ackRequest.ack w home s th) := by
    intro th
    unfold ackRequest.ack
    extract_lets core
    split
    · exact still_postOrd ..
    · exact .refl s
  unfold ackRequest
  split
  · exact still_postOrd ..
  · exact hack _
  · exact hack _
  · exact hack _

theorem still_refuseStore (core id : Nat) (c : Cause) (s : State) : Still s (refuseStore core id c s) := by
  unfold refuseStore
  split
  · exact .refl s
  · exact (still_ackRequest ..).trans (still_failWrite ..)

theorem still_failAtomic (th : Thr) (reg : Nat) (c : Cause) (addr : Word) (pc : BitVec 48) (s : State) :
    Still s (failAtomic th reg c addr pc s) :=
  .ite (still_post ..) (.ite (still_failWrite ..) (.refl s))

theorem still_failRemote {w : Waiter} (hw : ∀ r a, w ≠ .ldp r a) (c : Cause) (s : State) : Still s (failRemote w c s) := by
  unfold failRemote
  split
  · next r a => exact absurd rfl (hw r a)
  · exact still_refuseStore ..
  · exact (still_ackRequest ..).trans (still_failAtomic ..)
  · exact (still_ackRequest ..).trans (still_failAtomic ..)
  · exact .refl s

/-! ### What a cut link ends -/

theorem still_dropHostCopies (s : State) : Still s (dropHostCopies s) :=
  .foldl (fun s _ => .ite (still_setDir ..) (.refl s)) _ s

theorem still_dropPeerCopies (s : State) : Still s (dropPeerCopies s) :=
  .foldl (fun s _ => .ite (still_setDir ..) (.refl s)) _ s

theorem still_cutDrive (drive : Nat) (s : State) : Still s (cutDrive drive s) := by
  refine .foldl (fun s q => .foldl (fun s o => ?_) _ s) _ s
  split
  · split
    · exact .ite (still_post ..) (.refl s)
    · exact .refl s
  · exact .ite (still_post ..) (.refl s)
  · exact .ite (still_post ..) (.refl s)
  · exact .refl s

/-- A read that waits for its translation is not cut: it finds the span fenced itself. -/
theorem still_cutSpan (before : State) (port : Nat) (s : State) : Still s (cutSpan before port s) := by
  unfold cutSpan
  extract_lets hit bad s₁ s₂
  have h₁ : Still s s₁ := still_of_eq rfl
  have h₂ : Still s₁ s₂ := by
    refine still_foldl_of_mem (fun f hf u => ?_) s₁
    have hhit : hit f = true := (List.mem_filter.mp hf).2
    split
    · next w hev =>
      refine still_failRemote (fun r a hw => ?_) _ u
      subst hw
      simp [hit, hev] at hhit
    · exact .refl u
  exact h₁.trans (h₂.trans ((still_dropPeerCopies ..).trans (still_tellLost ..)))

/-! ### The link -/

theorem linkAt_setLink {s : State} (h : Tab.wf {} s.links = true) (l m : Nat) (k : Link) :
    linkAt (setLink s l k) m = if l = m then k else linkAt s m := Tab.get_put l m k h

/-- The host is told of a link that has changed its state. -/
theorem moveLink_of_ne {s : State} {l : Nat} {k : Link} (h : (linkAt s l).st ≠ k.st) :
    moveLink l k s = hostEvent { type := 11, ctx := 0, reply := false, addr := BitVec.ofNat 64 l, info := linkStat k } (setLink s l k) := by
  unfold moveLink
  exact if_neg h

theorem linkMoves_still {s u t : State} {l : Nat} {k : Link} (h : LinkMoves s u l k) (hk : Still u t) : LinkMoves s t l k := by
  obtain ⟨hl, hm, hw⟩ := h
  have hlink : ∀ m, linkAt t m = linkAt u m := fun m => by rw [linkAt, hk.links, linkAt]
  exact ⟨(hlink l).trans hl, fun m hne => (hlink m).trans (hm m hne), hk.told.trans hw⟩

/-- A fenced link has moved, and no more than that is seen of it. -/
theorem linkMoves_fenceLink {s r : State} (hwf : Tab.wf {} s.links = true) (hr : r.links = s.links) (hh : r.host.waiting = s.host.waiting)
    {l : Nat} (hup : (linkAt s l).st ≠ .fenced) :
    LinkMoves s (fenceLink l r) l { linkAt s l with st := .fenced } ∧ (fenceLink l r).ras.seq = r.ras.seq := by
  have hl : linkAt r l = linkAt s l := by rw [linkAt, hr, linkAt]
  have hmove := moveLink_of_ne (s := endTraining l r) (l := l) (k := { linkAt s l with st := .fenced }) (by
    show (linkAt r l).st ≠ _
    rw [hl]
    exact hup)
  unfold fenceLink
  rw [hl, if_neg hup]
  extract_lets src s'
  have hs' : LinkMoves s s' l { linkAt s l with st := .fenced } := by
    unfold s'
    rw [hmove]
    have hput : ∀ m, linkAt (setLink (endTraining l r) l { linkAt s l with st := .fenced }) m =
        if l = m then { linkAt s l with st := .fenced } else linkAt r m := fun m => linkAt_setLink (hr ▸ hwf) l m _
    refine ⟨(hput l).trans (if_pos rfl), fun m hm => ((hput m).trans (if_neg hm.symm)).trans ?_, ?_⟩
    · rw [linkAt, hr, linkAt]
    · rw [if_neg (Ne.symm hup)]
      exact congrArg (· ++ _) hh
  have hseq : s'.ras.seq = r.ras.seq := by
    unfold s'
    rw [hmove]
    rfl
  have hrest : Still s' (if l = 0 then dropHostCopies s' else if l ≤ 8 then cutDrive (l - 1) s'
      else if l ≤ 26 then cutSpan r (l - 9) s' else s') :=
    .ite (still_dropHostCopies s') (.ite (still_cutDrive ..) (.ite (still_cutSpan ..) (.refl s')))
  exact ⟨linkMoves_still hs' hrest, hrest.seq.trans hseq⟩

section
variable {s : State} (hs : Canonical s) (hn : s.now = none) (l : Nat)
include hn

theorem delivers_linkFails : Delivers s (.hwFaultDetected (.link l)) (linkFails l s) := by
  cases s; cases hn; rfl

theorem linkFault_down (h : ¬ ((linkAt s l).st = .up ∨ (linkAt s l).st = .degraded)) : Delivers s (.hwFaultDetected (.link l)) s := by
  have hd := delivers_linkFails hn l
  unfold linkFails at hd
  rwa [if_neg h] at hd

include hs

theorem linkFault_up (h : (linkAt s l).st = .up ∨ (linkAt s l).st = .degraded) :
    ∃ t, Delivers s (.hwFaultDetected (.link l)) t ∧ LinkMoves s t l { linkAt s l with st := .fenced } ∧
      t.ras.seq = s.ras.seq + 1 := by
  obtain ⟨-, -, -, -, -, -, -, -, -, -, hwf, -⟩ := hs
  have hup : (linkAt s l).st ≠ .fenced := by rcases h with h | h <;> simp [h]
  have hd := delivers_linkFails hn l
  unfold linkFails at hd
  rw [if_pos h] at hd
  have hr := still_errorRec 5 2 0xFFF (linkLoc l) (w64 l) 0 0 s
  obtain ⟨hm, hq⟩ := linkMoves_fenceLink hwf hr.links hr.told hup
  exact ⟨_, hd, hm, hq.trans hr.seq⟩

end

end Sys2Proof.Proofs.Faults
end
section
/-!
In-field tests (R24, R25, R481): what a test that ends leaves in its cell, with a passing result and with a failing one.
-/
namespace Sys2Proof.Proofs.Faults

open Sys2Proof.Machine Sys2Proof.Safety Sys2Proof.Proofs.Frames

/-! ### Tables of which a part is dropped -/

theorem get_filter_keys {α : Type} [DecidableEq α] {d : α} {t : Tab α} {b : Nat} (p : Nat → Bool) (h : Tab.wfFrom d b t = true)
    (k : Nat) : Tab.get d (t.filter (fun x => p x.1)) k = if p k = true then Tab.get d t k else d := by
  induction t generalizing b with
  | nil => simp [Tab.get]
  | cons x t ih =>
    obtain ⟨j, y⟩ := x
    simp only [Tab.wfFrom, Bool.and_eq_true, decide_eq_true_eq] at h
    have ih := ih h.2
    by_cases hjk : j = k
    · subst hjk
      by_cases hp : p j = true
      · simp [Tab.get, hp]
      · have hlt : Tab.get d t j = d := Tab.get_of_lt h.2 (Nat.lt_succ_self j)
        simp [hp, ih]
    · by_cases hlt : k < j
      · have hd : Tab.get d (t.filter (fun x => p x.1)) k = d :=
          Tab.get_of_lt (Tab.wfFrom_filter _ h.2) (Nat.lt_succ_of_lt hlt)
        by_cases hp : p j = true <;> simp [Tab.get, hp, hjk, hlt, hd]
      · by_cases hp : p j = true <;> simp [Tab.get, hp, hjk, hlt, ih]

/-! ### The tested cell -/

/-- From s to t cores and fences alone have changed. -/
def CoresOnly (s t : State) : Prop := { t with cores := s.cores, fencedUnits := s.fencedUnits } = s

theorem CoresOnly.rest {s t : State} (h : CoresOnly s t) :
    t.slots = s.slots ∧ t.ras = s.ras ∧ t.host = s.host ∧ t.mem = s.mem ∧ t.cells = s.cells :=
  ⟨(congrArg State.slots h :), (congrArg State.ras h :), (congrArg State.host h :), (congrArg State.mem h :),
   (congrArg State.cells h :)⟩

theorem coresOnly_setCores (f : Core → Core) (cell : Nat) (l : List Nat) (s : State) :
    CoresOnly s (l.foldl (fun s i => setCore s (4 * cell + i) (f (coreAt s (4 * cell + i)))) s) := by
  induction l generalizing s with
  | nil => rfl
  | cons i l ih =>
    have h := congrArg (fun x : State => { x with cores := s.cores, fencedUnits := s.fencedUnits })
      (ih (setCore s (4 * cell + i) (f (coreAt s (4 * cell + i)))))
    exact h

/-- The cell's memories are empty, and nothing else of a cell has changed but its banks. -/
theorem coresOnly_zeroCell (cell : Nat) (s : State) : ∃ c, CoresOnly
    (setCell { s with mem := s.mem.filter (fun x => !cellMem [cell] x.1), words := s.words.filter (fun x => !cellMem [cell] (x.1 * 8)),
                      poison := s.poison.filter (fun w => !cellMem [cell] (w * 8)) } cell c) (zeroCell cell s) := by
  unfold zeroCell
  extract_lets s₁ src s₂
  exact ⟨_, (coresOnly_setCores (fun c => { c with banks := Vector.replicate 4 {} }) cell (List.range 4) s₂ :)⟩

theorem still_zeroCell (cell : Nat) (s : State) : Still s (zeroCell cell s) := by
  unfold zeroCell
  extract_lets s₁ src s₂
  have h₁ : Still s s₁ := still_of_eq rfl
  have h₂ : Still s₁ s₂ := still_setCell ⟨rfl, rfl, fun h => h, fun h => h, fun h => h⟩
  clear_value s₂
  refine h₁.trans (h₂.trans (.foldl (fun s i => ?_) _ _))
  exact still_setCore fun h => h

/-- A test that has ended: the cell's memories are zero, and its result is in IFTEST. -/
def tested (cell : Nat) (pass : Bool) (s : State) : State :=
  setCell (zeroCell cell s) cell { cellAt (zeroCell cell s) cell with
    test := BitVec.ofNat 64 (fld (cellAt s cell).test 0 3 + b2n (!pass) * 2 ^ 12), testHost := false }

theorem tidy_tested {s : State} (h : Tidy s) (cell : Nat) (pass : Bool) : Tidy (tested cell pass s) :=
  tidy_setCell (tidy_still h (still_zeroCell ..)) ..

theorem cellAt_tested {s : State} (h : Tidy s) (cell : Nat) (pass : Bool) :
    (cellAt (tested cell pass s) cell).owner = (cellAt s cell).owner ∧
    (cellAt (tested cell pass s) cell).test = BitVec.ofNat 64 (fld (cellAt s cell).test 0 3 + b2n (!pass) * 2 ^ 12) := by
  have hz := still_zeroCell cell s
  unfold tested
  rw [cellAt_setCell_tidy (tidy_still h hz)]
  exact ⟨(cellKept_still h hz cell).owner, rfl⟩

/-- Slots, records, the host and the bytes outside the cell are as they were. -/
theorem rest_tested (cell : Nat) (pass : Bool) (s : State) :
    (tested cell pass s).slots = s.slots ∧ (tested cell pass s).ras = s.ras ∧ (tested cell pass s).host = s.host ∧
    (tested cell pass s).mem = s.mem.filter (fun x => !cellMem [cell] x.1) := by
  obtain ⟨c, hz⟩ := coresOnly_zeroCell cell s
  obtain ⟨hs, hr, hh, hm, -⟩ := hz.rest
  exact ⟨hs, hr, hh, hm⟩

/-! ### Fences that end -/

theorem CoresOnly.units {s t : State} (h : CoresOnly s t) (us : List Nat) : CoresOnly s { t with fencedUnits := us } := h

/-- The cell after a passing test, whose scan, the tests' first bit, ends every fence in it. -/
def passed (c : Cell) (tests : Nat) : Cell :=
  { c with active := 0, activeFrac := 0, arrFenced := c.arrFenced && !(bits tests 0 1 == 1 || bits tests 1 1 == 1),
           copyFenced := c.copyFenced && !(bits tests 0 1 == 1), fenced := c.fenced && !(bits tests 0 1 == 1) }

theorem coresOnly_unfence (cell tests : Nat) (s : State) :
    CoresOnly (setCell s cell (passed (cellAt s cell) tests)) (unfence cell tests s) := by
  unfold unfence
  extract_lets c scan c' s₁ s₂
  have h₁ : setCell s cell (passed (cellAt s cell) tests) = s₁ := rfl
  have h₂ : CoresOnly s₁ s₂ := coresOnly_setCores (fun c => { c with fenced := false }) cell (List.range 4) s₁
  rw [h₁]
  clear_value s₂ s₁
  split
  · exact h₂.units _
  · rfl

theorem fenced_unfence {s : State} (h : Tidy s) {cell tests i : Nat} (ht : bits tests 0 1 = 1) (hi : i < 4) :
    (coreAt (unfence cell tests s) (4 * cell + i)).fenced = false := by
  unfold unfence
  extract_lets c scan c' s₁ s₂
  have h₂ : (coreAt s₂ (4 * cell + i)).fenced = false :=
    fenced_setCores (tidy_setCell h cell c') false cell (.inl (List.mem_range.mpr hi))
  rw [if_pos (by simp [scan, ht])]
  clear_value s₂
  exact h₂

/-! ### The end of a test -/

theorem bits_fld (w : Word) : bits (fld w 0 3) 0 1 = fld w 0 1 := by
  unfold fld bits
  omega

/-- What the host is told of a test. -/
def testEvent (s : State) (cell info : Nat) : HostEvent :=
  { type := 6, ctx := (cellAt s cell).owner.getD 0, reply := false, addr := BitVec.ofNat 64 cell, info := BitVec.ofNat 64 info }

theorem testEvent_congr {s t : State} {cell : Nat} (h : (cellAt t cell).owner = (cellAt s cell).owner) (info : Nat) :
    testEvent t cell info = testEvent s cell info := by
  unfold testEvent
  rw [h]

/-- The record of a passing test that is told. -/
def passRecord (cell : Nat) (s : State) : State :=
  if (cellAt s cell).testHost then
    errorRec 14 0 0xFFF (cellLoc cell) 0 (BitVec.ofNat 64 (fld (cellAt s cell).test 0 3)) 0 (tested cell true s)
  else tested cell true s

/-- A passing test. -/
def testPassed (cell : Nat) (s : State) : State := unfence cell (fld (cellAt s cell).test 0 3) (passRecord cell s)

/-- The record of a failing test. -/
def failRecord (cell unit : Nat) (s : State) : State :=
  errorRec 14 2 0xFFF (if unit < 4 then coreLoc (4 * cell + unit) 0 else cellLoc cell) 0
    (BitVec.ofNat 64 (fld (cellAt s cell).test 0 3)) 0 (tested cell false s)

/-- The unit a failing test names is fenced: a core, the array, the copy engine, else the cell. -/
def fenceTested (cell unit : Nat) (s : State) : State :=
  if unit < 4 then fenceCore (4 * cell + unit) s else if unit = 4 then fenceArray cell s
  else if unit = 5 then fenceCopy cell s else fenceCell cell s

/-- A failing test. -/
def testFailed (cell unit : Nat) (s : State) : State := tellLost (fenceTested cell unit (failRecord cell unit s))

theorem taken_now {s : State} (hn : s.now = none) (e : Event) : taken { s with now := some e } = s := by
  cases s; cases hn; rfl

section
variable {s : State} (cell unit : Nat)

section
variable (hn : s.now = none)
include hn

theorem exec_iftestDone (pass : Bool) : exec (Event.iftestDone cell pass unit).instr { s with now := some (.iftestDone cell pass unit) } =
    .next (if fld (cellAt s cell).test 8 1 = 0 then s
      else if pass then hostEvent (testEvent (testPassed cell s) cell 0) (testPassed cell s)
      else hostEvent (testEvent (testFailed cell unit s) cell 1) (testFailed cell unit s)) := by
  have hx : exec (Event.iftestDone cell pass unit).instr { s with now := some (.iftestDone cell pass unit) } =
    execIftestDone { s with now := some (.iftestDone cell pass unit) } := rfl
  rw [hx]
  unfold execIftestDone
  dsimp only
  rw [taken_now hn]
  split
  · rfl
  · cases pass <;> rfl

theorem iftestDone_idle (pass : Bool) (h : fld (cellAt s cell).test 8 1 = 0) : Delivers s (.iftestDone cell pass unit) s := by
  have hx := exec_iftestDone cell unit hn pass
  rwa [if_pos h] at hx

theorem delivers_testPassed (h : fld (cellAt s cell).test 8 1 = 1) : Delivers s (.iftestDone cell true unit)
    (hostEvent (testEvent (testPassed cell s) cell 0) (testPassed cell s)) := by
  have hx := exec_iftestDone cell unit hn true
  rwa [if_neg (by omega), if_pos rfl] at hx

theorem delivers_testFailed (h : fld (cellAt s cell).test 8 1 = 1) : Delivers s (.iftestDone cell false unit)
    (hostEvent (testEvent (testFailed cell unit s) cell 1) (testFailed cell unit s)) := by
  have hx := exec_iftestDone cell unit hn false
  rwa [if_neg (by omega), if_neg (by decide)] at hx

end

/-! ### A passing test -/

/-- A passing test's record, where there is one, changes neither slots nor cells nor the host's events. -/
theorem fields_passRecord : (passRecord cell s).slots = s.slots ∧ (passRecord cell s).cells = (tested cell true s).cells ∧
    (passRecord cell s).host = s.host := by
  obtain ⟨hs, -, hh, -⟩ := rest_tested cell true s
  unfold passRecord
  split
  · obtain ⟨es, ec, eh, -⟩ := fields_errorRec 14 0 0xFFF (cellLoc cell) 0 (BitVec.ofNat 64 (fld (cellAt s cell).test 0 3)) 0
      (tested cell true s)
    exact ⟨es.trans hs, ec, eh.trans hh⟩
  · exact ⟨hs, rfl, hh⟩

theorem tidy_passRecord (h : Tidy s) : Tidy (passRecord cell s) := by
  unfold passRecord
  split
  · exact tidy_errorRec (tidy_tested h ..) ..
  · exact tidy_tested h ..

theorem fields_testPassed : (testPassed cell s).slots = s.slots ∧ (testPassed cell s).ras = (passRecord cell s).ras ∧
    (testPassed cell s).host = s.host ∧ (testPassed cell s).mem = (passRecord cell s).mem ∧
    (testPassed cell s).cells = (setCell (passRecord cell s) cell
      (passed (cellAt (passRecord cell s) cell) (fld (cellAt s cell).test 0 3))).cells := by
  obtain ⟨hs, hr, hh, hm, hc⟩ := (coresOnly_unfence cell (fld (cellAt s cell).test 0 3) (passRecord cell s)).rest
  obtain ⟨ps, -, ph⟩ := fields_passRecord (s := s) cell
  exact ⟨hs.trans ps, hr, hh.trans ph, hm, hc⟩

theorem cellAt_congr {s t : State} (h : t.cells = s.cells) (n : Nat) : cellAt t n = cellAt s n := by
  rw [cellAt, h, cellAt]

theorem cellAt_testPassed (h : Tidy s) :
    cellAt (testPassed cell s) cell = passed (cellAt (tested cell true s) cell) (fld (cellAt s cell).test 0 3) := by
  obtain ⟨-, -, -, -, hc⟩ := fields_testPassed (s := s) cell
  obtain ⟨-, pc, -⟩ := fields_passRecord (s := s) cell
  rw [cellAt_congr hc, cellAt_setCell_tidy (tidy_passRecord cell h), cellAt_congr pc]

theorem seq_testPassed (h : (cellAt s cell).testHost = true) : (testPassed cell s).ras.seq = s.ras.seq + 1 := by
  obtain ⟨-, hr, -⟩ := fields_testPassed (s := s) cell
  obtain ⟨-, tr, -⟩ := rest_tested cell true s
  rw [hr, passRecord, if_pos h, seq_errorRec, tr]

/-- Without a record the tested memories are zero and no other byte has changed. -/
theorem bytes_testPassed (hm : s.mem.wf = true) (h : (cellAt s cell).testHost = false) :
    (testPassed cell s).ras = s.ras ∧
    ∀ x, Tab.get 0 (testPassed cell s).mem x = if cellMem [cell] x = true then 0 else Tab.get 0 s.mem x := by
  obtain ⟨-, hr, -, hmem, -⟩ := fields_testPassed (s := s) cell
  obtain ⟨-, tr, -, tm⟩ := rest_tested cell true s
  have hp : passRecord cell s = tested cell true s := by rw [passRecord, if_neg (by simp [h])]
  rw [hp] at hr hmem
  refine ⟨hr.trans tr, fun x => ?_⟩
  rw [hmem, tm, get_filter_keys (fun a => !cellMem [cell] a) hm x]
  cases cellMem [cell] x <;> rfl

theorem rdByte_of_lt (s : State) {x : Nat} (hx : x < altBase) : rdByte s x = Tab.get 0 s.mem x := by
  rw [rdByte, if_pos hx]

theorem iftestDone_pass (hs : Canonical s) (hn : s.now = none) (h : fld (cellAt s cell).test 8 1 = 1) :
    ∃ t, Delivers s (.iftestDone cell true unit) t ∧ t.slots = s.slots ∧
      ((cellAt s cell).testHost = true → t.ras.seq = s.ras.seq + 1) ∧
      ((cellAt s cell).testHost = false → t.ras = s.ras ∧
        ∀ x, x < altBase → rdByte t x = if cellMem [cell] x = true then 0 else rdByte s x) ∧
      (cellAt t cell).test = BitVec.ofNat 64 (fld (cellAt s cell).test 0 3) ∧ (cellAt t cell).active = 0 ∧
      (fld (cellAt s cell).test 0 1 = 1 → (cellAt t cell).fenced = false ∧ (cellAt t cell).arrFenced = false ∧
        (cellAt t cell).copyFenced = false ∧ ∀ i, i < 4 → (coreAt t (4 * cell + i)).fenced = false) ∧
      t.host.waiting = s.host.waiting ++ [testEvent s cell 0] := by
  have ht := tidy_of_canonical hs
  obtain ⟨hsl, -, hh, -⟩ := fields_testPassed (s := s) cell
  obtain ⟨hown, htest⟩ := cellAt_tested ht cell true
  have hcell := cellAt_testPassed cell ht
  have hmem : s.mem.wf = true := hs.1
  have hcore : ∀ i, fld (cellAt s cell).test 0 1 = 1 → i < 4 → (coreAt (testPassed cell s) (4 * cell + i)).fenced = false :=
    fun i hb hi => fenced_unfence (tidy_passRecord cell ht) ((bits_fld _).trans hb) hi
  have hd := delivers_testPassed cell unit hn h
  have hseq := seq_testPassed (s := s) cell
  have hbytes := bytes_testPassed cell hmem
  generalize testPassed cell s = u at *
  have hfree : fld (cellAt s cell).test 0 1 = 1 → (cellAt u cell).fenced = false ∧ (cellAt u cell).arrFenced = false ∧
      (cellAt u cell).copyFenced = false := by
    intro hb
    rw [hcell]
    simp [passed, bits_fld, hb]
  have hown' : (cellAt u cell).owner = (cellAt s cell).owner := by
    rw [hcell]
    exact hown
  refine ⟨_, hd, hsl, hseq, fun hb => ⟨(hbytes hb).1, fun x hx => ?_⟩, ?_, ?_, fun hb => ⟨(hfree hb).1, (hfree hb).2.1, (hfree hb).2.2, fun i => hcore i hb⟩, ?_⟩
  · rw [rdByte_of_lt _ hx, rdByte_of_lt _ hx]
    exact (hbytes hb).2 x
  · show (cellAt u cell).test = _
    rw [hcell]
    exact htest.trans (by simp [b2n])
  · show (cellAt u cell).active = _
    rw [hcell]
    rfl
  · show u.host.waiting ++ [testEvent u cell 0] = _
    rw [hh, testEvent_congr hown']

/-! ### A failing test -/

theorem still_fenceTested (t : State) : Still t (fenceTested cell unit t) :=
  .ite (still_fenceCore ..) (.ite (still_fenceArray ..) (.ite (still_fenceCopy ..) (still_fenceCell ..)))

theorem fenced_fenceTested {t : State} (h : Tidy t) :
    (unit < 4 → (coreAt (fenceTested cell unit t) (4 * cell + unit)).fenced = true) ∧
    (unit = 4 → (cellAt (fenceTested cell unit t) cell).arrFenced = true) ∧
    (unit = 5 → (cellAt (fenceTested cell unit t) cell).copyFenced = true) ∧
    (5 < unit → (cellAt (fenceTested cell unit t) cell).fenced = true) := by
  unfold fenceTested
  refine ⟨fun hu => ?_, fun hu => ?_, fun hu => ?_, fun hu => ?_⟩
  · rw [if_pos hu]
    exact fenced_fenceCore h _
  · rw [if_neg (by omega), if_pos hu]
    exact arrFenced_fenceArray h cell
  · rw [if_neg (by omega), if_neg (by omega), if_pos hu]
    exact copyFenced_fenceCopy h cell
  · rw [if_neg (by omega), if_neg (by omega), if_neg (by omega)]
    exact (cellDown_fenceCell h cell).whole

theorem iftestDone_fail (hs : Canonical s) (hn : s.now = none) (h : fld (cellAt s cell).test 8 1 = 1) :
    ∃ t, Delivers s (.iftestDone cell false unit) t ∧
      (cellAt t cell).test = BitVec.ofNat 64 (fld (cellAt s cell).test 0 3 + 2 ^ 12) ∧ t.ras.seq = s.ras.seq + 1 ∧
      (unit < 4 → (coreAt t (4 * cell + unit)).fenced = true) ∧ (unit = 4 → (cellAt t cell).arrFenced = true) ∧
      (unit = 5 → (cellAt t cell).copyFenced = true) ∧ (5 < unit → (cellAt t cell).fenced = true) ∧
      t.host.waiting = s.host.waiting ++ [testEvent s cell 1] := by
  have ht := tidy_of_canonical hs
  obtain ⟨-, hras, hhost, -⟩ := rest_tested cell false s
  obtain ⟨hown, htest⟩ := cellAt_tested ht cell false
  have hrec : Tidy (failRecord cell unit s) := tidy_errorRec (tidy_tested ht ..) ..
  have hseq : (failRecord cell unit s).ras.seq = s.ras.seq + 1 := (seq_errorRec ..).trans (by rw [hras])
  obtain ⟨-, hcells, hrhost, -⟩ := fields_errorRec 14 2 0xFFF (if unit < 4 then coreLoc (4 * cell + unit) 0 else cellLoc cell) 0
    (BitVec.ofNat 64 (fld (cellAt s cell).test 0 3)) 0 (tested cell false s)
  have hcell : cellAt (failRecord cell unit s) cell = cellAt (tested cell false s) cell := cellAt_congr hcells cell
  have hfence := still_fenceTested cell unit (failRecord cell unit s)
  have htell : Still (fenceTested cell unit (failRecord cell unit s)) (testFailed cell unit s) := still_tellLost _
  have hall := hfence.trans htell
  have hkept := cellKept_still hrec hall cell
  have htidy := tidy_still hrec hfence
  have hlate := cellKept_still htidy htell cell
  obtain ⟨hcore, harr, hcopy, hwhole⟩ := fenced_fenceTested cell unit hrec
  have hwait : (testFailed cell unit s).host.waiting = s.host.waiting := by
    rw [hall.told, failRecord, hrhost, hhost]
  have hd := delivers_testFailed cell unit hn h
  generalize testFailed cell unit s = u at *
  refine ⟨_, hd, hkept.test.trans ?_, hall.seq.trans hseq,
    fun hu => coreKept_still htidy htell _ (hcore hu), fun hu => hlate.arr (harr hu), fun hu => hlate.copy (hcopy hu),
    fun hu => hlate.fenced (hwhole hu), ?_⟩
  · rw [hcell]
    exact htest.trans (by simp [b2n])
  · show u.host.waiting ++ [testEvent u cell 1] = _
    rw [hwait, testEvent_congr ((hkept.owner.trans (by rw [hcell])).trans hown)]

end

/-! ### Requests, reminders and row counters -/

section
variable {s : State} (hn : s.now = none) (cell : Nat)
include hn

theorem exec_iftestRequest (w : Word) : Delivers s (.iftestRequest cell w)
    (if fld (cellAt s cell).test 8 1 = 1 then s
     else setCell s cell (if fld w 0 3 = 0 then { cellAt s cell with test := 0 }
        else if cellIdle s cell = true then
          { cellAt s cell with test := BitVec.ofNat 64 (fld w 0 3 + 2 ^ 8),
                               testHost := (cellAt s cell).owner.any (fun n => fld (fmode s n) 5 1 == 1) }
        else { cellAt s cell with test := BitVec.ofNat 64 (fld w 0 3 + 2 * 2 ^ 12) })) := by
  have hx : exec (Event.iftestRequest cell w).instr { s with now := some (.iftestRequest cell w) } =
    execIftestRequest { s with now := some (.iftestRequest cell w) } := rfl
  unfold Delivers
  rw [hx]
  unfold execIftestRequest
  dsimp only
  rw [taken_now hn]
  split
  · rfl
  · split
    · rfl
    · split <;> rfl

theorem delivers_reminder : Delivers s (.iftestReminder cell) (hostEvent (testEvent s cell 3) s) := by
  cases s; cases hn; rfl

theorem delivers_rowCounterWindow : Delivers s (.rowCounterWindow cell) (setSlice s cell
    { sliceAt s cell with rows := (sliceAt s cell).rows.map (fun x => { x with acts := 0 }), spare := [] }) := by
  cases s; cases hn; rfl

end

end Sys2Proof.Proofs.Faults
end
section
/-!
Errors of memory (R480, R483): a corrected one is recorded, an uncorrectable one also poisons its word. The record goes to
memory that no core updates, so that it disturbs no core, and not to the poisoned word.
-/
namespace Sys2Proof.Proofs.Faults

open Sys2Proof.Machine Sys2Proof.Safety Sys2Proof.Proofs.Frames

theorem length_leBytes (n v : Nat) : (leBytes n v).length = n := by
  induction n generalizing v with
  | zero => rfl
  | succ n ih => simp [leBytes, ih]

theorem mem_linesOf {cs : List (Nat × Byte)} {l : Nat} (h : l ∈ linesOf cs) : ∃ c ∈ cs, c.1 / 32 = l := by
  have hfold : ∀ (cs : List (Nat × Byte)) (ls : List Nat),
      l ∈ cs.foldl (fun ls c => if (c.1 / 32) ∈ ls then ls else ls ++ [c.1 / 32]) ls → l ∈ ls ∨ ∃ c ∈ cs, c.1 / 32 = l := by
    intro cs
    induction cs with
    | nil => exact fun _ hl => .inl hl
    | cons c cs ih =>
      intro ls hl
      rcases ih _ hl with hl | ⟨d, hd, hdl⟩
      · dsimp only at hl
        split at hl
        · exact .inl hl
        · rcases List.mem_append.mp hl with hl | hl
          · exact .inl hl
          · exact .inr ⟨c, by simp, (List.mem_singleton.mp hl).symm⟩
      · exact .inr ⟨d, List.mem_cons_of_mem _ hd, hdl⟩
  exact (hfold cs [] h).resolve_left (by simp)

/-! ### A device's write to memory that no core updates -/

section
variable {s : State} {pa : Nat} {bs : List Byte} (hwf : Tab.wf {} s.dir = true)
  (hu : ∀ i, i < bs.length → (dirAt s ((pa + i) / 32)).uop = none)
include hu

theorem uop_cellsAt {l : Nat} (hl : l ∈ linesOf (cellsAt pa bs)) : (dirAt s l).uop = none := by
  obtain ⟨c, hc, rfl⟩ := mem_linesOf hl
  obtain ⟨hlo, hhi⟩ := cellsAt_mem hc
  have h := hu (c.1 - pa) (by omega)
  rwa [show pa + (c.1 - pa) = c.1 by omega] at h

include hwf

theorem cores_devPut (hpa : pa + bs.length ≤ dramTop) : (devPut pa bs s).cores = s.cores := by
  refine cores_devWrite hwf (fun l hl => uop_cellsAt hu hl) fun c hc => ?_
  have hhi := (cellsAt_mem hc).2
  have htop : dramTop ≤ spadBase := by decide
  unfold isSpad
  rw [decide_eq_false (by omega), Bool.false_and]

theorem poison_devPut {w : Nat} (hw : w * 8 + 8 ≤ pa ∨ pa + bs.length ≤ w * 8) (hp : w ∈ s.poison) :
    w ∈ (devPut pa bs s).poison := by
  refine poison_devWrite hwf (fun l hl => uop_cellsAt hu hl) (i := 0) (by decide) (fun c hc => ?_) hp
  obtain ⟨hlo, hhi⟩ := cellsAt_mem hc
  omega

end

/-! ### An error record -/

/-- Where the next error record goes. -/
def nextRecord (s : State) : Nat := s.ras.errbase.toNat + 64 * (s.ras.errtail % 4096)

/-- The next error record goes to DRAM that no core updates. -/
structure RecordClear (s : State) : Prop where
  wf : Tab.wf {} s.dir = true
  dram : nextRecord s + 64 ≤ dramTop
  quiet : ∀ i, i < 64 → (dirAt s ((nextRecord s + i) / 32)).uop = none

theorem recordClear_of {s u : State} (hs : Canonical s) (h : DeviceAt s (nextRecord s) 64) (hd : u.dir = s.dir) (hr : u.ras = s.ras) :
    RecordClear u := by
  obtain ⟨-, -, -, hwf, -⟩ := hs
  obtain ⟨hdram, -, hquiet⟩ := h
  have hn : nextRecord u = nextRecord s := by rw [nextRecord, hr, nextRecord]
  refine ⟨hd ▸ hwf, hn ▸ hdram, fun i hi => ?_⟩
  rw [hn, dirAt, hd]
  exact hquiet i hi

section
variable (source sev ctx : Nat) (loc : ErrLoc) (addr info synd : Word) {s : State}

/-- Cores and poisoned words are after an error record as after the write of its 64 bytes, or as before where the ring is full. -/
theorem errorRec_written : ∃ bs u, bs.length = 64 ∧ (u = s ∨ u = devPut (nextRecord s) bs s) ∧
    (errorRec source sev ctx loc addr info synd s).cores = u.cores ∧
    (errorRec source sev ctx loc addr info synd s).poison = u.poison := by
  have hlen : ∀ ws : List Word, ws.length = 8 → (ws.flatMap (fun w => leBytes 8 w.toNat)).length = 64 := fun ws hws => by
    simp [List.length_flatMap, length_leBytes, hws]
  have hbs := hlen [w64 (source + sev * 2 ^ 8 + ctx * 2 ^ 12 + s.ras.seq % 2 ^ 32 * 2 ^ 32), w64 (tick s), loc.w2, loc.w3, addr,
    info, synd, w64 (1 + loc.valid * 2 ^ 8)] rfl
  unfold errorRec
  dsimp only
  generalize List.flatMap _ _ = bs at *
  split
  · exact ⟨bs, _, hbs, .inr rfl, rfl, rfl⟩
  · exact ⟨bs, s, hbs, .inl rfl, rfl, rfl⟩

variable (h : RecordClear s)
include h

theorem cores_errorRec : (errorRec source sev ctx loc addr info synd s).cores = s.cores := by
  obtain ⟨hwf, hdram, hquiet⟩ := h
  obtain ⟨bs, u, hbs, hu | hu, hc, -⟩ := errorRec_written source sev ctx loc addr info synd (s := s)
  · rw [hc, hu]
  · rw [hc, hu]
    exact cores_devPut hwf (by rwa [hbs]) (by rwa [hbs])

theorem poison_errorRec {w : Nat} (hw : w * 8 + 8 ≤ nextRecord s ∨ nextRecord s + 64 ≤ w * 8) (hp : w ∈ s.poison) :
    w ∈ (errorRec source sev ctx loc addr info synd s).poison := by
  obtain ⟨hwf, hdram, hquiet⟩ := h
  obtain ⟨bs, u, hbs, hu | hu, -, hc⟩ := errorRec_written source sev ctx loc addr info synd (s := s)
  · rwa [hc, hu]
  · rw [hc, hu]
    exact poison_devPut hwf (by rwa [hbs]) (by rwa [hbs]) hp

end

/-! ### What is detected -/

/-- The row's counter of a corrected error, where it is one of DRAM. -/
def noteCorrected (source : Nat) (addr : Word) (s : State) : State :=
  if source = 2 ∧ addr.toNat < dramTop then noteRow (addr.toNat / 32) 0 1 s else s

theorem fields_noteCorrected (source : Nat) (addr : Word) (s : State) :
    (noteCorrected source addr s).slots = s.slots ∧ (noteCorrected source addr s).cores = s.cores ∧
    (noteCorrected source addr s).cells = s.cells ∧ (noteCorrected source addr s).fencedUnits = s.fencedUnits ∧
    (noteCorrected source addr s).ras = s.ras ∧ (noteCorrected source addr s).dir = s.dir := by
  unfold noteCorrected
  split
  · exact ⟨rfl, rfl, rfl, rfl, rfl, rfl⟩
  · exact ⟨rfl, rfl, rfl, rfl, rfl, rfl⟩

/-- The word that an uncorrectable error poisons. -/
def poisoned (w : Nat) (s : State) : State := { s with poison := if w ∈ s.poison then s.poison else s.poison ++ [w] }

theorem mem_poisoned (w : Nat) (s : State) : w ∈ (poisoned w s).poison := by
  unfold poisoned
  dsimp only
  split
  · assumption
  · simp

section
variable {s : State} (hs : Canonical s) (hn : s.now = none) (source : Nat)
include hs hn

theorem correctedError (addr : Word) : ∃ t, Delivers s (.hwFaultDetected (.corrected source addr)) t ∧ t.ras.seq = s.ras.seq + 1 ∧
    t.slots = s.slots ∧ (DeviceAt s (nextRecord s) 64 → t.cores = s.cores) ∧ t.cells = s.cells ∧ t.fencedUnits = s.fencedUnits := by
  have hd : Delivers s (.hwFaultDetected (.corrected source addr))
      (errorRec source 0 0xFFF { valid := 16 } addr 0 0 (noteCorrected source addr s)) := by
    cases s; cases hn; rfl
  obtain ⟨hslots, hcores, hcells, hunits, hras, hdir⟩ := fields_noteCorrected source addr s
  generalize noteCorrected source addr s = u at *
  obtain ⟨es, ec, -, ef⟩ := fields_errorRec source 0 0xFFF { valid := 16 } addr 0 0 u
  have hseq := seq_errorRec source 0 0xFFF { valid := 16 } addr 0 0 u
  refine ⟨_, hd, hseq.trans (by rw [hras]), es.trans hslots, fun hat => ?_, ec.trans hcells, ef.trans hunits⟩
  exact (cores_errorRec source 0 0xFFF { valid := 16 } addr 0 0 (recordClear_of hs hat hdir hras)).trans hcores

theorem wordError (addr : Nat) (hat : DeviceAt s (nextRecord s) 64)
    (ha : addr / 8 * 8 + 8 ≤ s.ras.errbase.toNat ∨ s.ras.errbase.toNat + 64 * 4096 ≤ addr / 8 * 8) :
    ∃ t, Delivers s (.hwFaultDetected (.word addr source)) t ∧ t.ras.seq = s.ras.seq + 1 ∧ t.slots = s.slots ∧
      addr / 8 ∈ t.poison ∧ t.cells = s.cells := by
  have hd : Delivers s (.hwFaultDetected (.word addr source))
      (errorRec source 2 0xFFF { valid := 16 } (BitVec.ofNat 64 addr) 0 0 (poisoned (addr / 8) s)) := by
    cases s; cases hn; rfl
  obtain ⟨es, ec, -, -⟩ := fields_errorRec source 2 0xFFF { valid := 16 } (BitVec.ofNat 64 addr) 0 0 (poisoned (addr / 8) s)
  have hseq := seq_errorRec source 2 0xFFF { valid := 16 } (BitVec.ofNat 64 addr) 0 0 (poisoned (addr / 8) s)
  have hpoison := poison_errorRec source 2 0xFFF { valid := 16 } (BitVec.ofNat 64 addr) 0 0
    (recordClear_of (u := poisoned (addr / 8) s) hs hat rfl rfl) (w := addr / 8)
    (by show _ ≤ nextRecord s ∨ nextRecord s + 64 ≤ _; unfold nextRecord; omega) (mem_poisoned ..)
  exact ⟨_, hd, hseq, es, hpoison, ec⟩

end

/-! ### The statement -/

/-- Settles O52, clause by clause: the tests of a cell, then the faults of each unit. -/
theorem hardwareFaults : Obligations.HardwareFaults := by
  unfold Obligations.HardwareFaults
  intro s cell hs hn
  refine ⟨fun w => ⟨fun h => ?_, fun h => ?_⟩, fun pass unit h => iftestDone_idle cell unit hn pass h,
    fun unit h => iftestDone_pass cell unit hs hn h, fun unit h => iftestDone_fail cell unit hs hn h, delivers_reminder hn cell,
    delivers_rowCounterWindow hn cell, fun source addr => correctedError hs hn source addr,
    fun source addr hat ha => wordError hs hn source addr hat ha, delivers_residue hn cell,
    fun l => ⟨fun h => linkFault_down hn l h, fun h => linkFault_up hs hn l h⟩, fun p => slotFault hs hn p,
    fun core => coreFault hs hn core, fun row col => arrayFault hs hn cell row col, arraySeqFault hs hn cell,
    copyFault hs hn cell, ?_, fun n => ⟨sqeFault hn n, tellerFault hn n, rowSaveFault hn n, stackFault hs hn n⟩⟩
  · have hd := exec_iftestRequest hn cell w
    rwa [if_pos h] at hd
  · have hd := exec_iftestRequest hn cell w
    rwa [if_neg (by omega)] at hd
  · obtain ⟨t, hd, hcell, harr, hcopy, hcores⟩ := cellFault hs hn cell
    exact ⟨t, hd, hcell, harr, hcopy, hcores⟩

end Sys2Proof.Proofs.Faults
end

section
/-!
PROOF. The word formats: the encoder gives every well-formed instruction a word that decodes to it (O54), every word the
decoder takes is the encoder's word for its instruction (O55), and words written out from the tables (O56).
-/
namespace Sys2Proof.Laws.Encoding

set_option Elab.async false

/-- Decode and encode agree on every instruction: the lemma of its constructor. -/
theorem statement_of_constructor : ∀ i : Instr, Statement i
  | .add .. => add _ _ _ _ _ | .sub .. => sub _ _ _ _ _ | .and .. => and _ _ _ _ _ | .or .. => or _ _ _ _ _
  | .xor .. => xor _ _ _ _ _ | .andn .. => andn _ _ _ _ _ | .shl .. => shl _ _ _ _ _ | .shr .. => shr _ _ _ _ _
  | .sra .. => sra _ _ _ _ _ | .rot .. => rot _ _ _ _ _ | .slt .. => slt _ _ _ _ _ | .sltu .. => sltu _ _ _ _ _
  | .seq .. => seq _ _ _ _ _ | .min .. => min _ _ _ _ _ | .max .. => max _ _ _ _ _ | .minu .. => minu _ _ _ _ _
  | .maxu .. => maxu _ _ _ _ _ | .addw .. => addw _ _ _ _ _ | .subw .. => subw _ _ _ _ _ | .mul .. => mul _ _ _ _ _
  | .mulh .. => mulh _ _ _ _ _ | .mulhu .. => mulhu _ _ _ _ _ | .div .. => div _ _ _ _ _ | .divu .. => divu _ _ _ _ _
  | .rem .. => rem _ _ _ _ _ | .remu .. => remu _ _ _ _ _ | .clz .. => clz _ _ _ | .ctz .. => ctz _ _ _
  | .popc .. => popc _ _ _ | .bext .. => bext _ _ _ _ _ | .bins .. => bins _ _ _ _ _ | .sext .. => sext _ _ _ _ _
  | .zext .. => zext _ _ _ _ _ | .bswap .. => bswap _ _ _ | .nop => nop | .addi .. => addi _ _ _ _
  | .andi .. => andi _ _ _ _ | .ori .. => ori _ _ _ _ | .xori .. => xori _ _ _ _ | .slti .. => slti _ _ _ _
  | .sltiu .. => sltiu _ _ _ _ | .shli .. => shli _ _ _ _ | .shri .. => shri _ _ _ _ | .srai .. => srai _ _ _ _
  | .roti .. => roti _ _ _ _ | .lui .. => lui _ _ | .auipc .. => auipc _ _ | .jal .. => jal _ _
  | .jalr .. => jalr _ _ _ _ | .beq .. => beq _ _ _ | .bne .. => bne _ _ _ | .blt .. => blt _ _ _
  | .bge .. => bge _ _ _ | .bltu .. => bltu _ _ _ | .bgeu .. => bgeu _ _ _ | .beqz .. => beqz _ _
  | .bnez .. => bnez _ _ | .kmovg .. => kmovg _ _ _ | .kmovk .. => kmovk _ _ | .kand .. => kand _ _ _
  | .kor .. => kor _ _ _ | .kxor .. => kxor _ _ _ | .knot .. => knot _ _ | .kpop .. => kpop _ _
  | .kfirst .. => kfirst _ _ | .ld .. => ld _ _ _ _ _ _ | .ldu .. => ldu _ _ _ _ _ _ | .st .. => st _ _ _ _ _ _
  | .ldp .. => ldp _ _ _ _ _ | .ldsync .. => ldsync _ _ _ _ _ _ | .stsync .. => stsync _ _ _ _ _ _
  | .feclr .. => feclr _ _ _ _ | .feset .. => feset _ _ _ _ | .feprobe .. => feprobe _ _ _ _ _
  | .ldmon .. => ldmon _ _ _ _ _ _ | .amoAdd .. => amoAdd _ _ _ _ _ | .amoAnd .. => amoAnd _ _ _ _ _
  | .amoOr .. => amoOr _ _ _ _ _ | .amoXor .. => amoXor _ _ _ _ _ | .amoMin .. => amoMin _ _ _ _ _
  | .amoMax .. => amoMax _ _ _ _ _ | .amoMinu .. => amoMinu _ _ _ _ _ | .amoMaxu .. => amoMaxu _ _ _ _ _
  | .amoSwap .. => amoSwap _ _ _ _ _ | .amoFadd .. => amoFadd _ _ _ _ _ | .amoFmin .. => amoFmin _ _ _ _ _
  | .amoFmax .. => amoFmax _ _ _ _ _ | .casW .. => casW _ _ _ _ _ | .casD .. => casD _ _ _ _ _
  | .redAdd .. => redAdd _ _ _ | .redAnd .. => redAnd _ _ _ | .redOr .. => redOr _ _ _ | .redXor .. => redXor _ _ _
  | .redMin .. => redMin _ _ _ | .redMax .. => redMax _ _ _ | .redMinu .. => redMinu _ _ _
  | .redMaxu .. => redMaxu _ _ _ | .redFadd .. => redFadd _ _ _ | .redFmin .. => redFmin _ _ _
  | .redFmax .. => redFmax _ _ _ | .fence .. => fence _ _ _ | .pref .. => pref _ _ _ | .cflush .. => cflush _ _ _
  | .cinval .. => cinval _ _ _ | .vadd .. => vadd _ _ _ _ _ | .vsub .. => vsub _ _ _ _ _ | .vmul .. => vmul _ _ _ _ _
  | .vmulh .. => vmulh _ _ _ _ _ | .vmin .. => vmin _ _ _ _ _ | .vmax .. => vmax _ _ _ _ _
  | .vminu .. => vminu _ _ _ _ _ | .vmaxu .. => vmaxu _ _ _ _ _ | .vabs .. => vabs _ _ _ _
  | .vmac .. => vmac _ _ _ _ _ | .vfadd .. => vfadd _ _ _ _ _ | .vfsub .. => vfsub _ _ _ _ _
  | .vfmul .. => vfmul _ _ _ _ _ | .vfma .. => vfma _ _ _ _ _ | .vfmin .. => vfmin _ _ _ _ _
  | .vfmax .. => vfmax _ _ _ _ _ | .vfabs .. => vfabs _ _ _ _ | .vfneg .. => vfneg _ _ _ _
  | .vfrcp .. => vfrcp _ _ _ _ | .vfrsq .. => vfrsq _ _ _ _ | .vfdiv .. => vfdiv _ _ _ _ _
  | .vfsqrt .. => vfsqrt _ _ _ _ | .vand .. => vand _ _ _ _ _ | .vor .. => vor _ _ _ _ _ | .vxor .. => vxor _ _ _ _ _
  | .vnot .. => vnot _ _ _ _ | .vshl .. => vshl _ _ _ _ _ | .vshr .. => vshr _ _ _ _ _ | .vsra .. => vsra _ _ _ _ _
  | .vcmpEq .. => vcmpEq _ _ _ _ _ | .vcmpLt .. => vcmpLt _ _ _ _ _ | .vcmpLtu .. => vcmpLtu _ _ _ _ _
  | .vfcmpEq .. => vfcmpEq _ _ _ _ _ | .vfcmpLt .. => vfcmpLt _ _ _ _ _ | .vfcmpLe .. => vfcmpLe _ _ _ _ _
  | .vfcmpUn .. => vfcmpUn _ _ _ _ _ | .vsel .. => vsel _ _ _ _ _ | .vbcast .. => vbcast _ _ _ _
  | .vext .. => vext _ _ _ _ | .vins .. => vins _ _ _ _ | .vperm .. => vperm _ _ _ _ _ | .vrot .. => vrot _ _ _ _ _
  | .vredadd .. => vredadd _ _ _ _ | .vredmin .. => vredmin _ _ _ _ | .vredmax .. => vredmax _ _ _ _
  | .vfredadd .. => vfredadd _ _ _ _ | .vcompress .. => vcompress _ _ _ _ | .vexpand .. => vexpand _ _ _ _
  | .vcvt .. => vcvt _ _ _ _ _ _ | .vdec .. => vdec _ _ _ _ _ | .venc .. => venc _ _ _ _ _ | .vtabld .. => vtabld _ _
  | .vscale .. => vscale _ _ _ _ _ | .vld .. => vld _ _ _ _ | .vlds .. => vlds _ _ _ _ _ | .vldx .. => vldx _ _ _ _ _
  | .vldb .. => vldb _ _ _ _ | .vst .. => vst _ _ _ _ | .vsts .. => vsts _ _ _ _ _ | .vstx .. => vstx _ _ _ _ _
  | .spawn .. => spawn _ _ _ _ _ | .yield => yield | .quit => quit | .susp => susp | .tid .. => tid _
  | .migr .. => migr _ _ _ | .send .. => send _ _ _ _ _ | .sendg .. => sendg _ _ _ _ _ | .recv => recv
  | .rpeek .. => rpeek _ | .qbind .. => qbind _ _ _ | .qstat .. => qstat _ _ | .qunbind .. => qunbind _
  | .qclose .. => qclose _ | .tdecl .. => tdecl _ _ _ | .tfree .. => tfree _ _ | .tstage .. => tstage _ _ _ _ _
  | .tdrain .. => tdrain _ _ | .ttag .. => ttag _ _ _ | .tsettag .. => tsettag _ _ _ _ | .tinv .. => tinv _ _
  | .mcast .. => mcast _ _ _ _ _ | .tfwd .. => tfwd _ _ _ _ _ | .tbst .. => tbst _ _ _ _ | .mma .. => mma _ _ _ _
  | .mmas .. => mmas _ _ _ _ | .mset .. => mset _ _ _ | .mscale .. => mscale _ _ _ | .acczero .. => acczero _ _
  | .accld .. => accld _ _ _ | .accst .. => accst _ _ _ | .mget .. => mget _ _ _ _ _ | .accrd .. => accrd _ _ _
  | .accwr .. => accwr _ _ _ _ | .mstat .. => mstat _ _ _ | .xcopy .. => xcopy _ _ _ | .xset .. => xset _ _ _
  | .xfill .. => xfill _ _ _ | .xcancel .. => xcancel _ _ | .barInit .. => barInit _ _ _ _
  | .barArrive .. => barArrive _ _ _ _ _ | .barExpect .. => barExpect _ _ _ _ _ | .barArm .. => barArm _ _ _ _
  | .barInval .. => barInval _ _ | .tlRead .. => tlRead _ _ _ _ _ | .tlArm .. => tlArm _ _ _ _
  | .taskSub .. => taskSub _ _ _ _ _ | .taskDone .. => taskDone _ _ _ _ | .taskDep .. => taskDep _ _ _ _ _
  | .taskInfo .. => taskInfo _ _ _ _ _ | .grpInfo .. => grpInfo _ _ _ _ _ | .collStart .. => collStart _ _ _ _ _
  | .collStat .. => collStat _ _ _ | .stoRead .. => stoRead _ _ _ | .stoWrite .. => stoWrite _ _ _
  | .stoSync .. => stoSync _ _ _ | .csrRd .. => csrRd _ _ | .csrWr .. => csrWr _ _ | .csrSet .. => csrSet _ _
  | .csrClr .. => csrClr _ _ | .sysCall .. => sysCall _ _ | .sysRet .. => sysRet _ _ _ _ | .repart .. => repart _ _
  | .brk .. => brk _ _ | .mark .. => mark _ _ | .xlatInv .. => xlatInv _ _ _ _ | .fenceXlat => fenceXlat
  | .gangAck .. => gangAck _ _ _ | .mvblk .. => mvblk _ _ _ | .stblk .. => stblk _ _ _ | .cmpblk .. => cmpblk _ _ _
  | .illinst => illinst | .postedArrive => postedArrive | .postedFail => postedFail | .loadReply => loadReply
  | .storeCheckReply => storeCheckReply | .storeAck => storeAck | .homeRead => homeRead | .homeWrite => homeWrite
  | .collectRecallReply => collectRecallReply | .redURequest => redURequest | .uEviction => uEviction
  | .invalidation => invalidation | .invalidationAck => invalidationAck | .fenceMarker => fenceMarker
  | .fenceMarkerAnswer => fenceMarkerAnswer | .feRetry => feRetry | .reservationExpiry => reservationExpiry
  | .waitovf => waitovf | .wakeAtSlot => wakeAtSlot | .wakeAtRecord => wakeAtRecord
  | .parklimWriteOut => parklimWriteOut | .poolPickup => poolPickup | .promoteAging => promoteAging
  | .migrantArrival => migrantArrival | .migrantAccepted => migrantAccepted | .migrantRefused => migrantRefused
  | .forwardedValue => forwardedValue | .dividerDone => dividerDone | .normaliserDone => normaliserDone
  | .iterativeUnitDone => iterativeUnitDone | .mailboxMessage => mailboxMessage | .sendReply => sendReply
  | .sendgMemberReply => sendgMemberReply | .stageRead => stageRead | .stageOwn => stageOwn | .tileDrain => tileDrain
  | .tileDrop => tileDrop | .tileRecall => tileRecall | .tileFillComplete => tileFillComplete
  | .tileWritebackAck => tileWritebackAck | .stageHoldExpiry => stageHoldExpiry | .deferExpiry => deferExpiry
  | .tfwdTransfer => tfwdTransfer | .kstep => kstep | .arrayCommandComplete => arrayCommandComplete
  | .mtabldLoadComplete => mtabldLoadComplete | .copyCommandComplete => copyCommandComplete
  | .barrierBytes => barrierBytes | .taskNotifyArrival => taskNotifyArrival | .taskRead => taskRead
  | .taskMatch => taskMatch | .taskPlace => taskPlace | .taskDecrement => taskDecrement
  | .collAllJoined => collAllJoined | .collChunkForward => collChunkForward | .collChunkAck => collChunkAck
  | .collMemberLost => collMemberLost | .collRepairDone => collRepairDone | .launchDoorbell => launchDoorbell
  | .retire => retire | .textFetch => textFetch | .translationMiss => translationMiss | .walkComplete => walkComplete
  | .retryWakeTimer => retryWakeTimer | .storageFaultAccept => storageFaultAccept
  | .pageFillComplete => pageFillComplete | .evictionWritebackDone => evictionWritebackDone
  | .remoteAccess => remoteAccess | .migrationComplete => migrationComplete | .releaseNotice => releaseNotice
  | .xlatInvAtSlice => xlatInvAtSlice | .stoTransferComplete => stoTransferComplete | .peerAccess => peerAccess
  | .hostRead => hostRead | .hostWrite => hostWrite | .backInvalidationResponse => backInvalidationResponse
  | .hostEventPost => hostEventPost | .addCommand => addCommand | .invalCommand => invalCommand
  | .replyCommand => replyCommand | .gangstepCommand => gangstepCommand | .linkcmdEnable => linkcmdEnable
  | .linkcmdFence => linkcmdFence | .linkcmdDown => linkcmdDown | .linkTrainingDone => linkTrainingDone
  | .linkTrainingTimeout => linkTrainingTimeout | .laneRetire => laneRetire | .flitReplay => flitReplay
  | .flitUncorrectable => flitUncorrectable | .laneMarginMeasure => laneMarginMeasure | .create => create
  | .place => place | .kill => kill | .free => free | .commandIllegalCode => commandIllegalCode
  | .switchAnnounce => switchAnnounce | .switchStamp => switchStamp | .saveComplete => saveComplete
  | .restoreComplete => restoreComplete | .stopTimeout => stopTimeout | .trapDelivery => trapDelivery
  | .handlerStart => handlerStart | .handlerStartTimeout => handlerStartTimeout | .eventRingWrite => eventRingWrite
  | .stop => stop | .resume => resume | .step => step | .traceRecordWrite => traceRecordWrite
  | .counterClear => counterClear | .laneCounterClear => laneCounterClear | .registerWrite => registerWrite
  | .iftestRequest => iftestRequest | .iftestDone => iftestDone | .iftestReminder => iftestReminder
  | .rowCounterWindow => rowCounterWindow | .hwFaultDetected => hwFaultDetected | .powerLimitWrite => powerLimitWrite
  | .coldReset => coldReset | .boot => boot | .launchChecksDone => launchChecksDone | .killComplete => killComplete
  | .copyElement => copyElement | .cycle => cycle | .hostCopyDrop => hostCopyDrop
  | .attestationRequest => attestationRequest

end Sys2Proof.Laws.Encoding

namespace Sys2Proof.Proofs.Encoding
open Sys2Proof

set_option Elab.async false

/-- Settles O54. -/
theorem encodeRoundTrip : Obligations.EncodeRoundTrip := Laws.Encoding.statement_of_constructor

/-! ### A word is the concatenation of its fields -/

section Formats
variable {w : BitVec 32}

theorem fmtA_fields (w : BitVec 32) : fmtA (opOf w) (rd w) (ra w) (rb w) (maA w) (mbA w) (fnA w) = w := by
  simp only [fmtA, opOf, rd, ra, rb, maA, mbA, fnA]
  ext i hi
  simp
  grind

theorem fmtA_eq_iff (op : BitVec 7) (d a b : BitVec 5) (ma mb : BitVec 2) (fn : BitVec 6) :
    fmtA op d a b ma mb fn = w ↔ opOf w = op ∧ rd w = d ∧ ra w = a ∧ rb w = b ∧ maA w = ma ∧ mbA w = mb ∧ fnA w = fn := by
  constructor
  · rintro rfl; simp
  · rintro ⟨rfl, rfl, rfl, rfl, rfl, rfl, rfl⟩; exact fmtA_fields w

theorem fmtI_fields (w : BitVec 32) : fmtI (opOf w) (rd w) (ra w) (maI w) (immI w) = w := by
  simp only [fmtI, opOf, rd, ra, maI, immI]
  ext i hi
  simp
  grind

theorem fmtI_eq_iff (op : BitVec 7) (d a : BitVec 5) (ma : BitVec 2) (imm : BitVec 13) :
    fmtI op d a ma imm = w ↔ opOf w = op ∧ rd w = d ∧ ra w = a ∧ maI w = ma ∧ immI w = imm := by
  constructor
  · rintro rfl; simp
  · rintro ⟨rfl, rfl, rfl, rfl, rfl⟩; exact fmtI_fields w

theorem fmtU_fields (w : BitVec 32) : fmtU (opOf w) (rd w) (immU w) = w := by
  simp only [fmtU, opOf, rd, immU]
  ext i hi
  simp
  grind

theorem fmtU_eq_iff (op : BitVec 7) (d : BitVec 5) (imm : BitVec 20) :
    fmtU op d imm = w ↔ opOf w = op ∧ rd w = d ∧ immU w = imm := by
  constructor
  · rintro rfl; simp
  · rintro ⟨rfl, rfl, rfl⟩; exact fmtU_fields w

theorem fmtB_fields (w : BitVec 32) : fmtB (opOf w) (rd w) (ra w) (ccB w) (offB w) = w := by
  simp only [fmtB, opOf, rd, ra, ccB, offB]
  ext i hi
  simp
  grind

theorem fmtB_eq_iff (op : BitVec 7) (a b : BitVec 5) (cc : BitVec 3) (off : BitVec 12) :
    fmtB op a b cc off = w ↔ opOf w = op ∧ rd w = a ∧ ra w = b ∧ ccB w = cc ∧ offB w = off := by
  constructor
  · rintro rfl; simp
  · rintro ⟨rfl, rfl, rfl, rfl, rfl⟩; exact fmtB_fields w

theorem fmtM_fields (w : BitVec 32) : fmtM (opOf w) (rd w) (ra w) (szM w) (scM w) (moM w) (offM w) = w := by
  simp only [fmtM, opOf, rd, ra, szM, scM, moM, offM]
  ext i hi
  simp
  grind

theorem fmtM_eq_iff (op : BitVec 7) (d a : BitVec 5) (sz : BitVec 2) (sc : BitVec 3) (mo : BitVec 2) (off : BitVec 8) :
    fmtM op d a sz sc mo off = w ↔ opOf w = op ∧ rd w = d ∧ ra w = a ∧ szM w = sz ∧ scM w = sc ∧ moM w = mo ∧ offM w = off := by
  constructor
  · rintro rfl; simp
  · rintro ⟨rfl, rfl, rfl, rfl, rfl, rfl, rfl⟩; exact fmtM_fields w

theorem fmtR_fields (w : BitVec 32) : fmtR (opOf w) (rd w) (ra w) (rb w) (scR w) (moR w) (fn5 w) = w := by
  simp only [fmtR, opOf, rd, ra, rb, scR, moR, fn5]
  ext i hi
  simp
  grind

theorem fmtR_eq_iff (op : BitVec 7) (d a b : BitVec 5) (sc : BitVec 3) (mo : BitVec 2) (fn : BitVec 5) :
    fmtR op d a b sc mo fn = w ↔ opOf w = op ∧ rd w = d ∧ ra w = a ∧ rb w = b ∧ scR w = sc ∧ moR w = mo ∧ fn5 w = fn := by
  constructor
  · rintro rfl; simp
  · rintro ⟨rfl, rfl, rfl, rfl, rfl, rfl, rfl⟩; exact fmtR_fields w

theorem fmtV_fields (w : BitVec 32) : fmtV (opOf w) (rd w) (ra w) (rb w) (kV w) (tV w) (fn5 w) = w := by
  simp only [fmtV, opOf, rd, ra, rb, kV, tV, fn5]
  ext i hi
  simp
  grind

theorem fmtV_eq_iff (op : BitVec 7) (d a b : BitVec 5) (k : BitVec 2) (t : BitVec 3) (fn : BitVec 5) :
    fmtV op d a b k t fn = w ↔ opOf w = op ∧ rd w = d ∧ ra w = a ∧ rb w = b ∧ kV w = k ∧ tV w = t ∧ fn5 w = fn := by
  constructor
  · rintro rfl; simp
  · rintro ⟨rfl, rfl, rfl, rfl, rfl, rfl, rfl⟩; exact fmtV_fields w

theorem fmtC_fields (w : BitVec 32) : fmtC (opOf w) (rd w) (ra w) (rb w) (xC w) = w := by
  simp only [fmtC, opOf, rd, ra, rb, xC]
  ext i hi
  simp
  grind

theorem fmtC_eq_iff (op : BitVec 7) (c a b : BitVec 5) (x : BitVec 10) :
    fmtC op c a b x = w ↔ opOf w = op ∧ rd w = c ∧ ra w = a ∧ rb w = b ∧ xC w = x := by
  constructor
  · rintro rfl; simp
  · rintro ⟨rfl, rfl, rfl, rfl, rfl⟩; exact fmtC_fields w

theorem fmtS_fields (w : BitVec 32) : fmtS (opOf w) (rd w) (ra w) (csrS w) (fnS w) = w := by
  simp only [fmtS, opOf, rd, ra, csrS, fnS]
  ext i hi
  simp
  grind

theorem fmtS_eq_iff (op : BitVec 7) (d a : BitVec 5) (csr : BitVec 12) (fn : BitVec 3) :
    fmtS op d a csr fn = w ↔ opOf w = op ∧ rd w = d ∧ ra w = a ∧ csrS w = csr ∧ fnS w = fn := by
  constructor
  · rintro rfl; simp
  · rintro ⟨rfl, rfl, rfl, rfl, rfl⟩; exact fmtS_fields w

theorem fmtF_fields (w : BitVec 32) : fmtF (opOf w) (fkF w) (scF w) (eF w) (zeroF w) = w := by
  simp only [fmtF, opOf, fkF, scF, eF, zeroF]
  ext i hi
  simp
  grind

theorem fmtF_eq_iff (op : BitVec 7) (fk : BitVec 4) (sc : BitVec 3) (e : BitVec 1) (zero : BitVec 17) :
    fmtF op fk sc e zero = w ↔ opOf w = op ∧ fkF w = fk ∧ scF w = sc ∧ eF w = e ∧ zeroF w = zero := by
  constructor
  · rintro rfl; simp
  · rintro ⟨rfl, rfl, rfl, rfl, rfl⟩; exact fmtF_fields w

/-! ### Fields within fields -/

theorem hi3_append_lo2 (x : BitVec 5) : hi3 x ++ lo2 x = x := by
  ext i hi; simp [hi3, lo2]; grind
theorem cvtPartOf_append_cvtTypeOf (x : BitVec 5) : cvtPartOf x ++ cvtTypeOf x = x := by
  ext i hi; simp [cvtPartOf, cvtTypeOf]; grind
theorem shTop_append (x : BitVec 13) : shTop x ++ shKind x ++ shAmt x = x := by
  ext i hi; simp [shTop, shKind, shAmt]; grind
theorem xCtx_append_xLow (x : BitVec 10) : xCtx x ++ xLow x = x := by
  ext i hi; simp [xCtx, xLow]; grind
theorem xHi7_append_xBit (x : BitVec 10) : xHi7 x ++ xBit x = xLow x := by
  ext i hi; simp [xHi7, xBit, xLow]; grind
theorem xHi5_append_xIdx3 (x : BitVec 10) : xHi5 x ++ xIdx3 x = xLow x := by
  ext i hi; simp [xHi5, xIdx3, xLow]; grind
theorem xHi2_append_xIdx6 (x : BitVec 10) : xHi2 x ++ xIdx6 x = xLow x := by
  ext i hi; simp [xHi2, xIdx6, xLow]; grind

theorem eq_kReg_iff {x : BitVec 5} {k : BitVec 2} : x = kReg k ↔ hi3 x = 0 ∧ lo2 x = k :=
  ⟨by rintro rfl; simp, by rintro ⟨h, rfl⟩; exact (hi3_append_lo2 x).symm.trans (by rw [h]; rfl)⟩
theorem eq_qReg_iff {x : BitVec 5} {k : BitVec 2} : x = qReg k ↔ hi3 x = 7 ∧ lo2 x = k :=
  ⟨by rintro rfl; simp, by rintro ⟨h, rfl⟩; exact (hi3_append_lo2 x).symm.trans (by rw [h]; rfl)⟩
theorem eq_shImm_iff {x : BitVec 13} {k : BitVec 2} {n : BitVec 6} :
    x = shImm k n ↔ shTop x = 0 ∧ shKind x = k ∧ shAmt x = n :=
  ⟨by rintro rfl; simp, by rintro ⟨h, rfl, rfl⟩; exact (shTop_append x).symm.trans (by rw [h]; rfl)⟩
theorem eq_xWord_iff {x : BitVec 10} {e : BitVec 2} {l : BitVec 8} : x = xWord e l ↔ xCtx x = e ∧ xLow x = l :=
  ⟨by rintro rfl; simp, by rintro ⟨rfl, rfl⟩; exact (xCtx_append_xLow x).symm⟩
theorem xLow_eq_append_xBit {x : BitVec 10} (h : xHi7 x = 0) : xLow x = 0#7 ++ xBit x := by
  rw [← xHi7_append_xBit, h]; rfl
theorem xLow_eq_append_xIdx3 {x : BitVec 10} (h : xHi5 x = 0) : xLow x = 0#5 ++ xIdx3 x := by
  rw [← xHi5_append_xIdx3, h]; rfl
theorem xLow_eq_append_xIdx6 {x : BitVec 10} (h : xHi2 x = 0) : xLow x = 0#2 ++ xIdx6 x := by
  rw [← xHi2_append_xIdx6, h]; rfl

end Formats

/-! ### The raw decoder keeps every bit of the word (R43) -/

/-- The word is the encoding of the raw instruction, unless a field the constructor does not hold is wrong. -/
def Backed (w : BitVec 32) (r : Raw) : Prop := r.extra = {} → encode r.ins = some w

section Majors
variable {w : BitVec 32} {r : Raw}

theorem backed_rawAlu (h : rawAlu w = some r) (ho : (opOf w).toNat = 0x01) : Backed w r := by
  unfold rawAlu at h
  split at h <;> cases h <;> simp_all [Backed, encode, fmtA_eq_iff, BitVec.toNat_eq_nat]

theorem backed_rawMul (h : rawMul w = some r) (ho : (opOf w).toNat = 0x02) : Backed w r := by
  unfold rawMul at h
  split at h <;> cases h <;> simp_all [Backed, encode, fmtA_eq_iff, BitVec.toNat_eq_nat]

theorem backed_rawBit (h : rawBit w = some r) (ho : (opOf w).toNat = 0x03) : Backed w r := by
  unfold rawBit at h
  split at h <;> cases h <;> simp_all [Backed, encode, fmtA_eq_iff, BitVec.toNat_eq_nat]

theorem backed_rawShift (h : rawShift w = some r) (ho : (opOf w).toNat = 0x0E) : Backed w r := by
  unfold rawShift at h
  split at h
  case h_4 =>
    have hlast : (shKind (immI w)).toNat = 3 := by have := (shKind (immI w)).isLt; simp only [imp_false] at *; omega
    cases h
    simp_all [Backed, encode, fmtI_eq_iff, BitVec.toNat_eq_nat, eq_shImm_iff]
  all_goals
    cases h
    simp_all [Backed, encode, fmtI_eq_iff, BitVec.toNat_eq_nat, eq_shImm_iff]

theorem backed_rawBranch (h : rawBranch w = some r) (ho : (opOf w).toNat = 0x14) : Backed w r := by
  unfold rawBranch at h
  split at h
  case h_8 =>
    have hlast : (ccB w).toNat = 7 := by have := (ccB w).isLt; simp only [imp_false] at *; omega
    cases h
    simp_all [Backed, encode, fmtB_eq_iff, BitVec.toNat_eq_nat]
  all_goals
    cases h
    simp_all [Backed, encode, fmtB_eq_iff, BitVec.toNat_eq_nat]

theorem backed_rawMask (h : rawMask w = some r) (ho : (opOf w).toNat = 0x15) : Backed w r := by
  unfold rawMask at h
  split at h <;> cases h <;> simp_all [Backed, encode, fmtA_eq_iff, BitVec.toNat_eq_nat, eq_kReg_iff]

theorem backed_rawFe (h : rawFe w = some r) (ho : (opOf w).toNat = 0x1E) : Backed w r := by
  unfold rawFe at h
  split at h <;> cases h <;> simp_all [Backed, encode, fmtM_eq_iff, BitVec.toNat_eq_nat]

theorem backed_rawAmo (h : rawAmo w = some r) (ho : (opOf w).toNat = 0x20) : Backed w r := by
  unfold rawAmo at h
  split at h <;> cases h <;> simp_all [Backed, encode, fmtR_eq_iff, BitVec.toNat_eq_nat]

theorem backed_rawCas (h : rawCas w = some r) (ho : (opOf w).toNat = 0x21) : Backed w r := by
  unfold rawCas at h
  split at h <;> cases h <;> simp_all [Backed, encode, fmtR_eq_iff, BitVec.toNat_eq_nat]

theorem backed_rawRed (h : rawRed w = some r) (ho : (opOf w).toNat = 0x22) : Backed w r := by
  unfold rawRed at h
  split at h <;> cases h <;> simp_all [Backed, encode, fmtR_eq_iff, BitVec.toNat_eq_nat]

theorem backed_rawCache (h : rawCache w = some r) (ho : (opOf w).toNat = 0x24) : Backed w r := by
  unfold rawCache at h
  split at h <;> cases h <;> simp_all [Backed, encode, fmtM_eq_iff, BitVec.toNat_eq_nat]

theorem backed_rawVInt (h : rawVInt w = some r) (ho : (opOf w).toNat = 0x28) : Backed w r := by
  unfold rawVInt at h
  split at h <;> cases h <;> simp_all [Backed, encode, fmtV_eq_iff, BitVec.toNat_eq_nat]

theorem backed_rawVFloat (h : rawVFloat w = some r) (ho : (opOf w).toNat = 0x29) : Backed w r := by
  unfold rawVFloat at h
  split at h <;> cases h <;> simp_all [Backed, encode, fmtV_eq_iff, BitVec.toNat_eq_nat]

theorem backed_rawVLogic (h : rawVLogic w = some r) (ho : (opOf w).toNat = 0x2A) : Backed w r := by
  unfold rawVLogic at h
  split at h <;> cases h <;> simp_all [Backed, encode, fmtV_eq_iff, BitVec.toNat_eq_nat]

theorem backed_rawVCmp (h : rawVCmp w = some r) (ho : (opOf w).toNat = 0x2B) : Backed w r := by
  unfold rawVCmp at h
  split at h <;> cases h <;> simp_all [Backed, encode, fmtV_eq_iff, BitVec.toNat_eq_nat, eq_kReg_iff]

theorem backed_rawVMove (h : rawVMove w = some r) (ho : (opOf w).toNat = 0x2C) : Backed w r := by
  unfold rawVMove at h
  split at h <;> cases h <;> simp_all [Backed, encode, fmtV_eq_iff, BitVec.toNat_eq_nat]

theorem backed_rawVConv (h : rawVConv w = some r) (ho : (opOf w).toNat = 0x2D) : Backed w r := by
  unfold rawVConv at h
  split at h <;> cases h <;> simp_all [Backed, encode, fmtV_eq_iff, BitVec.toNat_eq_nat, eq_kReg_iff, cvtPartOf_append_cvtTypeOf]

theorem backed_rawVLoad (h : rawVLoad w = some r) (ho : (opOf w).toNat = 0x2E) : Backed w r := by
  unfold rawVLoad at h
  split at h <;> cases h <;> simp_all [Backed, encode, fmtV_eq_iff, BitVec.toNat_eq_nat]

theorem backed_rawVStore (h : rawVStore w = some r) (ho : (opOf w).toNat = 0x2F) : Backed w r := by
  unfold rawVStore at h
  split at h <;> cases h <;> simp_all [Backed, encode, fmtV_eq_iff, BitVec.toNat_eq_nat]

theorem backed_rawThread (h : rawThread w = some r) (ho : (opOf w).toNat = 0x30) : Backed w r := by
  unfold rawThread at h
  split at h <;> cases h <;> simp_all [Backed, encode, fmtA_eq_iff, BitVec.toNat_eq_nat]

theorem backed_rawMsg (h : rawMsg w = some r) (ho : (opOf w).toNat = 0x31) : Backed w r := by
  unfold rawMsg at h
  split at h <;> cases h <;> simp_all [Backed, encode, fmtA_eq_iff, BitVec.toNat_eq_nat]

theorem backed_rawQueue (h : rawQueue w = some r) (ho : (opOf w).toNat = 0x32) : Backed w r := by
  unfold rawQueue at h
  split at h <;> cases h <;> simp_all [Backed, encode, fmtA_eq_iff, BitVec.toNat_eq_nat, eq_qReg_iff]

theorem backed_rawTile (h : rawTile w = some r) (ho : (opOf w).toNat = 0x34) : Backed w r := by
  unfold rawTile at h
  split at h <;> cases h <;> simp_all [Backed, encode, fmtA_eq_iff, BitVec.toNat_eq_nat]

theorem backed_rawArray (h : rawArray w = some r) (ho : (opOf w).toNat = 0x38) : Backed w r := by
  unfold rawArray at h
  split at h <;> cases h <;> simp_all [Backed, encode, fmtC_eq_iff, BitVec.toNat_eq_nat, eq_xWord_iff, xLow_eq_append_xBit, xLow_eq_append_xIdx3]

theorem backed_rawAcc (h : rawAcc w = some r) (ho : (opOf w).toNat = 0x39) : Backed w r := by
  unfold rawAcc at h
  split at h <;> cases h <;> simp_all [Backed, encode, fmtA_eq_iff, BitVec.toNat_eq_nat]

theorem backed_rawCopy (h : rawCopy w = some r) (ho : (opOf w).toNat = 0x3A) : Backed w r := by
  unfold rawCopy at h
  split at h <;> cases h <;> simp_all [Backed, encode, fmtC_eq_iff, BitVec.toNat_eq_nat, eq_xWord_iff, xLow_eq_append_xBit, xLow_eq_append_xIdx6]

theorem backed_rawBar (h : rawBar w = some r) (ho : (opOf w).toNat = 0x3B) : Backed w r := by
  unfold rawBar at h
  split at h <;> cases h <;> simp_all [Backed, encode, fmtA_eq_iff, BitVec.toNat_eq_nat]

theorem backed_rawLine (h : rawLine w = some r) (ho : (opOf w).toNat = 0x3C) : Backed w r := by
  unfold rawLine at h
  split at h <;> cases h <;> simp_all [Backed, encode, fmtA_eq_iff, BitVec.toNat_eq_nat]

theorem backed_rawTask (h : rawTask w = some r) (ho : (opOf w).toNat = 0x3D) : Backed w r := by
  unfold rawTask at h
  split at h <;> cases h <;> simp_all [Backed, encode, fmtA_eq_iff, BitVec.toNat_eq_nat]

theorem backed_rawGroup (h : rawGroup w = some r) (ho : (opOf w).toNat = 0x3E) : Backed w r := by
  unfold rawGroup at h
  split at h <;> cases h <;> simp_all [Backed, encode, fmtA_eq_iff, BitVec.toNat_eq_nat]

theorem backed_rawSto (h : rawSto w = some r) (ho : (opOf w).toNat = 0x3F) : Backed w r := by
  unfold rawSto at h
  split at h <;> cases h <;> simp_all [Backed, encode, fmtA_eq_iff, BitVec.toNat_eq_nat]

theorem backed_rawCsr (h : rawCsr w = some r) (ho : (opOf w).toNat = 0x70) : Backed w r := by
  unfold rawCsr at h
  split at h <;> cases h <;> simp_all [Backed, encode, fmtS_eq_iff, BitVec.toNat_eq_nat]

theorem backed_rawSys (h : rawSys w = some r) (ho : (opOf w).toNat = 0x71) : Backed w r := by
  unfold rawSys at h
  split at h <;> cases h <;> simp_all [Backed, encode, fmtA_eq_iff, BitVec.toNat_eq_nat]

theorem backed_rawBlock (h : rawBlock w = some r) (ho : (opOf w).toNat = 0x78) : Backed w r := by
  unfold rawBlock at h
  split at h <;> cases h <;> simp_all [Backed, encode, fmtA_eq_iff, BitVec.toNat_eq_nat]


theorem backed_rawAddi (ho : (opOf w).toNat = 0x08) : Backed w (rawAddi w) := by
  unfold rawAddi
  split <;> simp_all [Backed, encode, fmtI_eq_iff, BitVec.toNat_eq_nat]

/-- A major opcode with a selector: the row the selector names. -/
theorem backed_of_selector {o : Option Raw} {n : Nat} (hb : ∀ {r}, o = some r → (opOf w).toNat = n → Backed w r)
    (ho : (opOf w).toNat = n) (h : (match o with | some r => .ok r | none => .error Illegal.selector) = Except.ok r) :
    Backed w r := by
  cases o with
  | none => cases h
  | some r' => cases h; exact hb rfl ho

/-- A row of the opcode map stands for its word: the major opcode by itself, then the selector (R43). -/
theorem backed_rawDecode (h : rawDecode w = .ok r) : Backed w r := by
  unfold rawDecode at h
  split at h
  case h_1 ho => exact backed_of_selector backed_rawAlu ho h
  case h_2 ho => exact backed_of_selector backed_rawMul ho h
  case h_3 ho => exact backed_of_selector backed_rawBit ho h
  case h_4 ho => cases h; exact backed_rawAddi ho
  case h_10 ho => exact backed_of_selector backed_rawShift ho h
  case h_15 ho => exact backed_of_selector backed_rawBranch ho h
  case h_16 ho => exact backed_of_selector backed_rawMask ho h
  case h_23 ho => exact backed_of_selector backed_rawFe ho h
  case h_25 ho => exact backed_of_selector backed_rawAmo ho h
  case h_26 ho => exact backed_of_selector backed_rawCas ho h
  case h_27 ho => exact backed_of_selector backed_rawRed ho h
  case h_29 ho => exact backed_of_selector backed_rawCache ho h
  case h_30 ho => exact backed_of_selector backed_rawVInt ho h
  case h_31 ho => exact backed_of_selector backed_rawVFloat ho h
  case h_32 ho => exact backed_of_selector backed_rawVLogic ho h
  case h_33 ho => exact backed_of_selector backed_rawVCmp ho h
  case h_34 ho => exact backed_of_selector backed_rawVMove ho h
  case h_35 ho => exact backed_of_selector backed_rawVConv ho h
  case h_36 ho => exact backed_of_selector backed_rawVLoad ho h
  case h_37 ho => exact backed_of_selector backed_rawVStore ho h
  case h_38 ho => exact backed_of_selector backed_rawThread ho h
  case h_39 ho => exact backed_of_selector backed_rawMsg ho h
  case h_40 ho => exact backed_of_selector backed_rawQueue ho h
  case h_41 ho => exact backed_of_selector backed_rawTile ho h
  case h_42 ho => exact backed_of_selector backed_rawArray ho h
  case h_43 ho => exact backed_of_selector backed_rawAcc ho h
  case h_44 ho => exact backed_of_selector backed_rawCopy ho h
  case h_45 ho => exact backed_of_selector backed_rawBar ho h
  case h_46 ho => exact backed_of_selector backed_rawLine ho h
  case h_47 ho => exact backed_of_selector backed_rawTask ho h
  case h_48 ho => exact backed_of_selector backed_rawGroup ho h
  case h_49 ho => exact backed_of_selector backed_rawSto ho h
  case h_50 ho => exact backed_of_selector backed_rawCsr ho h
  case h_51 ho => exact backed_of_selector backed_rawSys ho h
  case h_52 ho => exact backed_of_selector backed_rawBlock ho h
  case h_53 => cases h
  all_goals
    cases h
    simp_all [Backed, encode, fmtI_eq_iff, fmtU_eq_iff, fmtM_eq_iff, fmtF_eq_iff, BitVec.toNat_eq_nat]

end Majors

/-- A word the decoder takes has no fault in any view. -/
theorem raw_of_decode {w : BitVec 32} {i : Instr} (h : decode w = .ok i) :
    ∃ x, rawDecode w = .ok ⟨i, x⟩ ∧ (i.faults.or x).first = none := by
  unfold decode at h
  split at h
  · cases h
  next r hr =>
    split at h
    · cases h
    · cases h; exact ⟨r.extra, hr, ‹_›⟩

theorem first_eq_none_iff (f : Faults) : f.first = none ↔ f = {} := by
  cases f
  simp [Faults.first, Faults.mk.injEq]
  grind

theorem or_eq_empty_iff (f g : Faults) : f.or g = {} ↔ f = {} ∧ g = {} := by
  cases f; cases g
  simp [Faults.or, Faults.mk.injEq]
  grind

/-- Settles O55: the fields of a word, put together again, are the word. -/
theorem wordsMeanOneInstruction : Obligations.WordsMeanOneInstruction := by
  intro w i h
  obtain ⟨x, hraw, hfirst⟩ := raw_of_decode h
  obtain ⟨hi, hx⟩ := (or_eq_empty_iff _ _).1 ((first_eq_none_iff _).1 hfirst)
  exact ⟨by simp [Instr.wellFormed, (first_eq_none_iff _).2 hi], backed_rawDecode hraw hx⟩

/-- Settles O56, word by word. -/
theorem decodedWords : Obligations.DecodedWords := by
  unfold Obligations.DecodedWords
  refine ⟨?_, ?_, ?_, ?_, ?_, ?_, ?_, ?_, ?_, ?_, ?_⟩ <;> decide

end Sys2Proof.Proofs.Encoding
end

section
/-!
PROOF. One step of the machine (O57): the pick, the start of an issue, the word the core's cache holds, and a fault the thread
owes. First what raising a fault does, for every proof that needs it.
-/
namespace Sys2Proof.Proofs.Raising
open Sys2Proof.Machine Sys2Proof.Safety

set_option Elab.async false

section
variable {s u : State} {th tu : Thread}

/-- The text a core's cache holds, the lists of parked threads aside, is what a quiet change keeps. -/
theorem textWord_quiet (h : Quiet s u) (c : Nat) (pc : BitVec 48) (priv : Nat) : textWord u c pc priv = textWord s c pc priv := by
  unfold textWord
  rw [← h.cores c]

/-- The word a fault records is the one at the thread's PC, at its level. -/
theorem faultWord_of (ht : threadAt s s.cur = some th) :
    faultWord s = ((textWord s (myCore s) th.pc (privOf th)).map (fun w => w.zeroExtend 64)).getD 0 := by
  unfold faultWord
  rw [me_of ht]
  cases textWord s (myCore s) th.pc (privOf th) <;> rfl

theorem faultWord_quiet (h : Quiet s u) (ht : threadAt s s.cur = some th) (hu : threadAt u s.cur = some tu)
    (hpc : tu.pc = th.pc) (hst : tu.status = th.status) : faultWord u = faultWord s := by
  rw [← h.cur] at hu
  have hcore : myCore u = myCore s := by unfold myCore; rw [h.cur]
  rw [faultWord_of ht, faultWord_of hu, hcore, textWord_quiet h, hpc]
  unfold privOf
  rw [hst]

/-- The thread after it has raised. -/
def trapped (tr : Trap) (th : Thread) : Thread :=
  { th with form := .trapping tr, noCmp := false, stay := false, inBlk := false, behind := [] }

theorem raiseWith_eq (tr : Trap) (s : State) :
    raiseWith tr s = post (.trapDelivery s.cur) (mapMe (trapped { tr with cycle := s.cycle }) s) := rfl

/-- What raising leaves, after any quiet change: the thread traps, its delivery is on its way. -/
theorem raiseWith_quiet (h : Quiet s u) (hu : threadAt u s.cur = some tu) (tr : Trap) :
    ∃ v, Quiet s v ∧ threadAt v s.cur = some (trapped { tr with cycle := s.cycle } tu) ∧
      raiseWith tr u = { v with agenda := v.agenda ++ [⟨.trapDelivery s.cur, none⟩] } := by
  refine ⟨mapMe (trapped { tr with cycle := u.cycle }) u, h.trans (quiet_mapMe _ _), ?_, ?_⟩
  · rw [← h.cur] at hu ⊢
    rw [threadAt_mapMe hu, h.cycle]
  · rw [raiseWith_eq, h.cur]
    rfl

/-- A message on its way is no byte of memory. -/
theorem rdByte_agenda (s : State) (l : List Flight) (a : Nat) : rdByte { s with agenda := l } a = rdByte s a := by
  apply rdByte_congr
  case hdbg =>
    intro o
    apply debugRead_congr
    case hs => exact fun p => ⟨rfl, rfl⟩
    all_goals (intros; rfl)
  all_goals rfl

/-- The executing thread raises a fault, after a change that leaves its PC and level as they are. -/
theorem raises_raise (h : Quiet s u) (ht : threadAt s s.cur = some th) (hu : threadAt u s.cur = some tu)
    (hpc : tu.pc = th.pc) (hst : tu.status = th.status) (c : Cause) (info addr : Word) :
    Raises s (raise c info addr u) tu (trapOf s th c info addr) := by
  obtain ⟨v, hv, htv, heq⟩ :=
    raiseWith_quiet h hu { cause := c, info := info, addr := addr, restart := (me u).pc, word := faultWord u }
  have hme : (me u).pc = th.pc := by rw [← h.cur] at hu; rw [me_of hu, hpc]
  rw [faultWord_quiet h ht hu hpc hst, hme] at htv
  exact ⟨v, hv, htv, heq, fun a => by rw [raise, heq, rdByte_agenda]; exact hv.bytes a⟩

/-- The executing thread raises a fault at once. -/
theorem raises_self (ht : threadAt s s.cur = some th) (c : Cause) (info addr : Word) :
    Raises s (raise c info addr s) th (trapOf s th c info addr) :=
  raises_raise (Quiet.refl s) ht ht rfl rfl c info addr

end
end Sys2Proof.Proofs.Raising

namespace Sys2Proof.Proofs.Step
open Sys2Proof.Machine Sys2Proof.Safety Sys2Proof.Proofs.Raising

set_option Elab.async false

section
variable {s u : State} {c p : Nat} {th : Thread}

/-- The start of an issue is the state the statement calls issued. -/
theorem beginIssue_eq (hp : threadAt u p = some th) : beginIssue c p u = issued u c p th := by
  have hp' : threadAt { u with cur := p } p = some th := hp
  unfold beginIssue issued
  simp only [hp']

theorem cur_issued (u : State) (c p : Nat) (th : Thread) : (issued u c p th).cur = p := by
  unfold issued; simp only; split <;> rfl

/-- The thread in its pass: its issue is marked. -/
def inPass (u : State) (th : Thread) : Thread := if th.form = .ready then { th with issued := u.cycle } else th

theorem threadAt_issued (hp : threadAt u p = some th) : threadAt (issued u c p th) p = some (inPass u th) := by
  unfold issued inPass
  split
  · exact threadAt_setThread_self ..
  · exact hp

/-- The issue of a thread touches no part of its core but the turn. -/
theorem coreAt_issued (hu : Canonical u) : { coreAt (issued u c p th) c with lastIssue := (coreAt u c).lastIssue } = coreAt u c := by
  unfold issued
  split
  · have : coreAt (charge th.ctx 40 (setThread (setCore { u with cur := p } c { coreAt u c with lastIssue := some u.cycle }) p
        { th with issued := u.cycle })) c = { coreAt u c with lastIssue := some u.cycle } := by
      exact (coreAt_setCore (s := { u with cur := p }) hu c c _).trans (if_pos rfl)
    exact congrArg (fun x : Core => { x with lastIssue := (coreAt u c).lastIssue }) this
  · rfl

theorem textWord_issued (hu : Canonical u) (pc : BitVec 48) (priv : Nat) :
    textWord (issued u c p th) c pc priv = textWord u c pc priv := by
  unfold textWord
  rw [← coreAt_issued (c := c) (p := p) (th := th) hu]

theorem cmps_issued (hu : Canonical u) : (coreAt (issued u c p th) c).cmps = (coreAt u c).cmps := by
  rw [← coreAt_issued (c := c) (p := p) (th := th) hu]

/-- A core whose comparators are all disabled matches no fetch (R474). -/
theorem cmpX_disabled {s : State} {c : Nat} (h : ∀ j : Nat, fld ((coreAt s c).cmps[j]?.getD (0, 0)).2 0 1 = 0) (t : Thread) :
    issueSlot.cmpX s c t = none := by
  unfold issueSlot.cmpX
  rw [Option.map_eq_none_iff, List.find?_eq_none]
  rintro ⟨x, j⟩ hx
  have hj := h j
  rw [List.mem_zipIdx_iff_getElem?] at hx
  have : (coreAt s c).cmps[j]? = some x := by simpa using hx
  rw [this] at hj
  simp_all

/-- The state a pick leaves is the state with a shorter list of picks. -/
theorem nextPick_state (s : State) : ∃ l, (nextPick s).2 = { s with sched := l } := by
  unfold nextPick
  split
  · exact ⟨_, rfl⟩
  · exact ⟨s.sched, rfl⟩

theorem canonical_nextPick {x : Pick} (h : Canonical s) (hn : nextPick s = (x, u)) : Canonical u := by
  obtain ⟨l, hl⟩ := nextPick_state s
  rw [hn] at hl
  cases hl
  exact h

/-- Where a core's move comes next, by its turn or because it holds back the cycle, its slot's attempt is next (R127). -/
theorem nextMove_core (hn : nextPick s = (.core c, u) ∨ (nextPick s = (.tick, u) ∧ busyCore u = some c)) (hm : mover u c = some p) :
    nextMove s = issueSlot c p u := by
  unfold nextMove
  rcases hn with hn | ⟨hn, hb⟩
  · simp only [hn, moveOf, coreMove, hm]
  · simp only [hn, moveOf, hb, coreMove, hm]

/-- The execution of a move. -/
def runMove : Move → Result
  | .event e s => exec e.instr { s with now := some e }
  | .word i s => exec i s
  | .idle s => .next s

theorem step_eq_runMove (s : State) : step s = runMove (nextMove s) := rfl

/-- A delivery takes the message of the pick, or the earliest of its channel (R107), and executes its event. -/
theorem step_deliver {k j : Nat} {f g : Flight} (hn : nextPick s = (.deliver k, u)) (hf : u.agenda[k]? = some f)
    (hj : (if f.chan.isNone then k else u.agenda.findIdx (fun x => x.chan == f.chan)) = j) (hg : u.agenda[j]? = some g) :
    step s = exec g.ev.instr { u with agenda := u.agenda.eraseIdx j, nowChan := g.chan, now := some g.ev } := by
  have ht : takeFlight k u = some (g.ev, { u with agenda := u.agenda.eraseIdx j, nowChan := g.chan }) := by
    unfold takeFlight
    simp only [hf, hj, hg, Option.map_some]
  rw [step, nextMove, hn, moveOf]
  simp only [ht]

/-- A thread that owes a fault takes it in place of its next instruction (R121). -/
theorem issueSlot_owed {f : Trap} (hp : threadAt u p = some th) (hf : th.form = .ready) (ho : th.owed = some f) :
    ∃ t, issueSlot c p u = .idle t ∧ Raises (issued u c p th) t { th with issued := u.cycle, owed := none }
      (trapOf (issued u c p th) th f.cause f.info f.addr) := by
  have hi : threadAt (issued u c p th) (issued u c p th).cur = some { th with issued := u.cycle } := by
    rw [cur_issued, threadAt_issued hp, inPass, if_pos hf]
  refine ⟨_, ?_, raises_raise (th := { th with issued := u.cycle }) (quiet_mapMe _ (fun t => { t with owed := none })) hi
    (threadAt_mapMe hi _) rfl rfl f.cause f.info f.addr⟩
  unfold issueSlot
  simp only [beginIssue_eq hp, me_of hi, ho]

/-- A word in the cache, no comparator matching it, is the slot's move: the instruction it decodes to, or none (R48). -/
theorem issueSlot_word {w : BitVec 32} (hu : Canonical u) (hp : threadAt u p = some th) (ho : th.owed = none)
    (hw : textWord u c th.pc (privOf th) = some w)
    (hcmp : th.noCmp = true ∨ ∀ j : Nat, fld ((coreAt u c).cmps[j]?.getD (0, 0)).2 0 1 = 0) :
    (∀ i, decode w = .ok i → issueSlot c p u = .word i (issued u c p th)) ∧
    ∀ r, decode w = .error r → issueSlot c p u = .event (.illinst w) (issued u c p th) := by
  have hi : threadAt (issued u c p th) (issued u c p th).cur = some (inPass u th) := by
    rw [cur_issued]; exact threadAt_issued hp
  have hpass : (inPass u th).owed = th.owed ∧ (inPass u th).pc = th.pc ∧ (inPass u th).status = th.status ∧
      (inPass u th).noCmp = th.noCmp := by
    unfold inPass; split <;> exact ⟨rfl, rfl, rfl, rfl⟩
  obtain ⟨hown, hpc, hst, hno⟩ := hpass
  have hpriv : privOf (inPass u th) = privOf th := by unfold privOf; rw [hst]
  have hnone : (if th.noCmp then none else issueSlot.cmpX (issued u c p th) c (inPass u th)) = none := by
    rcases hcmp with h | h
    · rw [if_pos h]
    · rw [cmpX_disabled (by rw [cmps_issued hu]; exact h), ite_self]
  unfold issueSlot
  simp only [beginIssue_eq hp, me_of hi, hown, ho, hpc, hpriv, textWord_issued hu, hw, hno, hnone]
  exact ⟨fun i h => by simp only [h], fun r h => by simp only [h]⟩

end

/-- Settles O57, by what comes next: an owed fault, a word, a message, a cycle. -/
theorem stepRunsDecodedWord : Obligations.StepRunsDecodedWord := by
  unfold Obligations.StepRunsDecodedWord
  intro s hs
  refine ⟨fun p rest h => ?_, fun u c p th f hn hm hp hf ho => ?_, fun u c p th w hn hm hp ho hw hcmp => ?_,
    fun u k f hn hk hch => ?_, fun u k f j g hn hk hch hj hg => ?_, fun u hn hb => ?_⟩
  · unfold nextPick; rw [h]
  · obtain ⟨t, ht, hr⟩ := issueSlot_owed (c := c) hp hf ho
    exact ⟨t, by rw [step_eq_runMove, nextMove_core hn hm, ht, runMove], hr⟩
  · have hu : Canonical u := hn.elim (canonical_nextPick hs) (fun h => canonical_nextPick hs h.1)
    obtain ⟨hok, herr⟩ := issueSlot_word hu hp ho hw hcmp
    rw [step_eq_runMove, nextMove_core hn hm]
    exact ⟨fun i hi => congrArg runMove (hok i hi), fun r hr => congrArg runMove (herr r hr)⟩
  · rw [step_deliver hn hk (if_pos (by rw [hch]; rfl)) hk, hch]
  · refine step_deliver hn hk ?_ hg
    rw [if_neg (by simpa using hch)]
    exact hj
  · rw [step, nextMove, hn, moveOf]
    simp only [hb]
    rfl
end Sys2Proof.Proofs.Step
end

section
/-!
PROOF. No step ends in a fault or a refusal (O58): an instruction the decoder gives takes its operands, its privilege or its
vector registers first and answers either way; an event meets the arm of its own row.
-/
namespace Sys2Proof.Proofs.Answering
open Sys2Proof Sys2Proof.Machine Sys2Proof.Safety

set_option Elab.async false

/-- The meaning gives a next state. -/
def Answers (r : Result) : Prop := ∃ t, r = .next t

theorem answers_withOps (ss : List Src) (d : Dst) (s : State) (k : List Word → State) : Answers (withOps ss d s k) := by
  unfold withOps
  cases operands ss d s with
  | error e => exact ⟨e, rfl⟩
  | ok vs => exact ⟨k vs, rfl⟩

theorem answers_needPriv {k : Result} (n : Nat) (s : State) (h : Answers k) : Answers (needPriv n s k) := by
  unfold needPriv
  split
  · exact ⟨_, rfl⟩
  · exact h

theorem answers_vecGate {k : State → Result} (rs : List (BitVec 5)) (s : State) (h : ∀ u, Answers (k u)) :
    Answers (vecGate rs s k) := by
  unfold vecGate
  split
  · exact ⟨_, rfl⟩
  · exact h _

theorem answers_vecOp (d : BitVec 5) (rs : List (BitVec 5)) (f : Thread → Vec) (s : State) : Answers (vecOp d rs f s) :=
  answers_vecGate _ _ fun _ => answers_withOps ..

theorem answers_vecFloat (d : BitVec 5) (rs : List (BitVec 5)) (iter : Bool) (f : Thread → VFloat) (s : State) :
    Answers (vecFloat d rs iter f s) := answers_vecGate _ _ fun _ => answers_withOps ..

theorem answers_floatOp (d : BitVec 5) (rs : List (BitVec 5)) (k : BitVec 2) (t : BitVec 3) (iter : Bool)
    (f : Nat → List FVal → Exact) (s : State) : Answers (floatOp d rs k t iter f s) := answers_vecFloat ..

theorem answers_intCompare (d : BitVec 2) (a b : BitVec 5) (k : BitVec 2) (t : BitVec 3) (f : Nat → Nat → Bool) (s : State) :
    Answers (intCompare d a b k t f s) := answers_vecGate _ _ fun _ => answers_withOps ..

theorem answers_floatCompare (d : BitVec 2) (a b : BitVec 5) (k : BitVec 2) (t : BitVec 3) (kind : Nat) (s : State) :
    Answers (floatCompare d a b k t kind s) := answers_vecGate _ _ fun _ => answers_withOps ..

theorem answers_vecReduce (d a : BitVec 5) (k : BitVec 2) (t : BitVec 3) (f : Nat → List Nat → Word) (s : State) :
    Answers (vecReduce d a k t f s) := answers_vecGate _ _ fun _ => answers_withOps ..

theorem answers_vecLoad (d : BitVec 5) (rs : List (BitVec 5)) (ss : List Src) (k : BitVec 2) (t : BitVec 3)
    (addr : Thread → List Word → Nat → Word) (s : State) : Answers (vecLoad d rs ss k t addr s) :=
  answers_vecGate _ _ fun _ => answers_withOps ..

theorem answers_vecStore (d : BitVec 5) (rs : List (BitVec 5)) (ss : List Src) (k : BitVec 2) (t : BitVec 3)
    (addr : Thread → List Word → Nat → Word) (s : State) : Answers (vecStore d rs ss k t addr s) :=
  answers_vecGate _ _ fun _ => answers_withOps ..

theorem answers_execVenc (d a fmt : BitVec 5) (k : BitVec 2) (t : BitVec 3) (s : State) : Answers (execVenc d a fmt k t s) := by
  unfold execVenc
  dsimp only
  split
  · exact answers_vecGate _ _ fun _ => ⟨_, rfl⟩
  · exact answers_vecGate _ _ fun _ => answers_withOps ..

theorem answers_execCsrRd (d : BitVec 5) (csr : BitVec 12) (s : State) : Answers (execCsrRd d csr s) := by
  unfold execCsrRd
  dsimp only
  split
  · exact ⟨_, rfl⟩
  · exact answers_needPriv _ _ (answers_withOps ..)

theorem answers_csrInstr (f : Word → Word → Word) (csr : BitVec 12) (a : BitVec 5) (s : State) : Answers (csrInstr f csr a s) := by
  unfold csrInstr
  dsimp only
  split
  · exact ⟨_, rfl⟩
  · exact answers_needPriv _ _ (answers_withOps ..)

/-- An instruction that a word can encode answers in every state. -/
theorem answers_instr (i : Instr) (h : i.wellFormed = true) (s : State) : Answers (exec i s) := by
  cases i
  case vadd | vsub | vmul | vmulh | vmin | vmax | vminu | vmaxu | vabs | vfabs | vfneg | vand | vor | vxor | vnot |
      vshl | vshr | vsra => unfold exec; exact answers_vecOp ..
  case vfadd | vfsub | vfmul | vfma | vfmin | vfmax | vfrcp | vfrsq | vfdiv |
      vfsqrt => unfold exec; exact answers_floatOp ..
  case vcmpEq | vcmpLt | vcmpLtu => unfold exec; exact answers_intCompare ..
  case vfcmpEq | vfcmpLt | vfcmpLe | vfcmpUn => unfold exec; exact answers_floatCompare ..
  case vredadd | vredmin | vredmax => unfold exec; exact answers_vecReduce ..
  case vcvt | vscale => unfold exec; exact answers_vecFloat ..
  case vld | vlds | vldx => unfold exec; exact answers_vecLoad ..
  case vst | vsts | vstx => unfold exec; exact answers_vecStore ..
  case vbcast | vext | vins | vrot | vfredadd |
      vldb => unfold exec; exact answers_vecGate _ _ fun _ => answers_withOps ..
  case vmac => unfold exec execVmac; exact answers_vecOp ..
  case vsel => unfold exec execVsel; exact answers_vecOp ..
  case vperm => unfold exec execVperm; exact answers_vecOp ..
  case vcompress => unfold exec execVcompress; exact answers_vecOp ..
  case vexpand => unfold exec execVexpand; exact answers_vecOp ..
  case vdec => unfold exec execVdec; exact answers_vecFloat ..
  case venc => unfold exec; exact answers_execVenc ..
  case csrRd => unfold exec; exact answers_execCsrRd ..
  case csrWr => unfold exec execCsrWr; exact answers_csrInstr ..
  case csrSet => unfold exec execCsrSet; exact answers_csrInstr ..
  case csrClr => unfold exec execCsrClr; exact answers_csrInstr ..
  case sysRet | repart | xlatInv | fenceXlat | gangAck => unfold exec; exact answers_needPriv _ _ (answers_withOps ..)
  case nop => exact ⟨_, rfl⟩
  case illinst | postedArrive | postedFail | loadReply | storeCheckReply | storeAck | homeRead | homeWrite |
      collectRecallReply | redURequest | uEviction | invalidation | invalidationAck | fenceMarker | fenceMarkerAnswer |
      feRetry | reservationExpiry | waitovf | wakeAtSlot | wakeAtRecord | parklimWriteOut | poolPickup | promoteAging |
      migrantArrival | migrantAccepted | migrantRefused | forwardedValue | dividerDone | normaliserDone |
      iterativeUnitDone | mailboxMessage | sendReply | sendgMemberReply | stageRead | stageOwn | tileDrain | tileDrop |
      tileRecall | tileFillComplete | tileWritebackAck | stageHoldExpiry | deferExpiry | tfwdTransfer | kstep |
      arrayCommandComplete | mtabldLoadComplete | copyCommandComplete | barrierBytes | taskNotifyArrival | taskRead |
      taskMatch | taskPlace | taskDecrement | collAllJoined | collChunkForward | collChunkAck | collMemberLost |
      collRepairDone | launchDoorbell | retire | textFetch | translationMiss | walkComplete | retryWakeTimer |
      storageFaultAccept | pageFillComplete | evictionWritebackDone | remoteAccess | migrationComplete | releaseNotice |
      xlatInvAtSlice | stoTransferComplete | peerAccess | hostRead | hostWrite | backInvalidationResponse |
      hostEventPost | addCommand | invalCommand | replyCommand | gangstepCommand | linkcmdEnable | linkcmdFence |
      linkcmdDown | linkTrainingDone | linkTrainingTimeout | laneRetire | flitReplay | flitUncorrectable |
      laneMarginMeasure | create | place | kill | free | commandIllegalCode | switchAnnounce | switchStamp |
      saveComplete | restoreComplete | stopTimeout | trapDelivery | handlerStart | handlerStartTimeout |
      eventRingWrite | stop | resume | step | traceRecordWrite | counterClear | laneCounterClear | registerWrite |
      iftestRequest | iftestDone | iftestReminder | rowCounterWindow | hwFaultDetected | powerLimitWrite | coldReset |
      boot | launchChecksDone | killComplete | copyElement | cycle | hostCopyDrop | attestationRequest =>
    exact absurd h Bool.false_ne_true
  all_goals exact answers_withOps ..

/-- An event that is being delivered has the meaning of its row. -/
theorem answers_event (e : Event) (s : State) : Answers (exec e.instr { s with now := some e }) := by
  cases e <;> exact ⟨_, rfl⟩

/-- A move to a word carries an instruction that some word decodes to. -/
theorem decoded_of_issueSlot {c p : Nat} {s u : State} {i : Instr} (h : issueSlot c p s = .word i u) :
    ∃ w, decode w = .ok i := by
  unfold issueSlot at h
  dsimp only at h
  split at h
  · cases h
  · cases h
  next w _ _ =>
    split at h
    · cases h
    · split at h
      next hd => cases h; exact ⟨w, hd⟩
      · cases h

theorem decoded_of_coreMove {c : Nat} {s u : State} {i : Instr} (h : coreMove c s = .word i u) : ∃ w, decode w = .ok i := by
  unfold coreMove at h
  split at h
  · exact decoded_of_issueSlot h
  · cases h

theorem decoded_of_nextMove {s u : State} {i : Instr} (h : nextMove s = .word i u) : ∃ w, decode w = .ok i := by
  unfold nextMove moveOf at h
  split at h
  · split at h <;> cases h
  · exact decoded_of_coreMove h
  · split at h
    · exact decoded_of_coreMove h
    · cases h

/-- Settles O58: the next move is an event with its own row, an instruction some word decodes to, or nothing. -/
theorem everyStepAnswers : Obligations.EveryStepAnswers := by
  intro s
  unfold Goes step
  split
  next e u _ => exact answers_event e u
  next i u hm =>
    obtain ⟨w, hw⟩ := decoded_of_nextMove hm
    exact answers_instr i (Encoding.wordsMeanOneInstruction w i hw).1 u
  next u _ => exact ⟨u, rfl⟩

end Sys2Proof.Proofs.Answering
end

section
/-!
SUPPORT. The scalar instructions of 06 as uses of their operands: which sources and which destination each takes, and the
result of R158's rows.
-/
namespace Sys2Proof.Proofs.Scalar
open Sys2Proof Sys2Proof.Machine Sys2Proof.Safety

set_option Elab.async false

/-! ### R158: the results in the words of the spec -/

section
variable (x y : Word) (n : Nat)

theorem shiftLeft_eq_ofNat : x <<< n = BitVec.ofNat 64 (x.toNat * 2 ^ n) := by
  apply BitVec.eq_of_toNat_eq
  simp [Nat.shiftLeft_eq]

theorem ushiftRight_eq_ofNat : x >>> n = BitVec.ofNat 64 (x.toNat / 2 ^ n) := by
  apply BitVec.eq_of_toNat_eq
  rw [BitVec.toNat_ushiftRight, Nat.shiftRight_eq_div_pow, BitVec.toNat_ofNat, Nat.mod_eq_of_lt]
  exact Nat.lt_of_le_of_lt (Nat.div_le_self _ _) x.isLt

theorem sshiftRight_eq_ofInt : x.sshiftRight n = BitVec.ofInt 64 (x.toInt / 2 ^ n) := by
  rw [BitVec.sshiftRight, Int.shiftRight_eq_div_pow]
  rfl

theorem rotateLeft_eq_ofNat (h : n < 64) : x.rotateLeft n = BitVec.ofNat 64 (x.toNat * 2 ^ n + x.toNat / 2 ^ (64 - n)) := by
  have hpow : 2 ^ (64 - n) * 2 ^ n = 2 ^ 64 := by rw [← pow_add, Nat.sub_add_cancel h.le]
  have hq : x.toNat / 2 ^ (64 - n) < 2 ^ n := Nat.div_lt_of_lt_mul (hpow ▸ x.isLt)
  have hr : x.toNat % 2 ^ (64 - n) < 2 ^ (64 - n) := Nat.mod_lt _ (by positivity)
  have hx : x.toNat * 2 ^ n = 2 ^ 64 * (x.toNat / 2 ^ (64 - n)) + 2 ^ n * (x.toNat % 2 ^ (64 - n)) := by
    calc x.toNat * 2 ^ n
        = (2 ^ (64 - n) * (x.toNat / 2 ^ (64 - n)) + x.toNat % 2 ^ (64 - n)) * 2 ^ n := by rw [Nat.div_add_mod]
      _ = 2 ^ (64 - n) * 2 ^ n * (x.toNat / 2 ^ (64 - n)) + 2 ^ n * (x.toNat % 2 ^ (64 - n)) := by ring
      _ = _ := by rw [hpow]
  generalize hdiv : x.toNat / 2 ^ (64 - n) = q at *
  generalize x.toNat % 2 ^ (64 - n) = r at *
  have hlow : 2 ^ n * r + q < 2 ^ 64 := by
    calc 2 ^ n * r + q < 2 ^ n * r + 2 ^ n := by omega
      _ = 2 ^ n * (r + 1) := by ring
      _ ≤ 2 ^ n * 2 ^ (64 - n) := Nat.mul_le_mul_left _ hr
      _ = 2 ^ 64 := by rw [Nat.mul_comm, hpow]
  have hleft : x.toNat * 2 ^ n % 2 ^ 64 = 2 ^ n * r := by rw [hx, Nat.mul_add_mod, Nat.mod_eq_of_lt (by omega)]
  apply BitVec.eq_of_toNat_eq
  rw [BitVec.rotateLeft_def, Nat.mod_eq_of_lt h, BitVec.toNat_or, BitVec.toNat_shiftLeft, BitVec.toNat_ushiftRight,
    Nat.shiftLeft_eq, Nat.shiftRight_eq_div_pow, hdiv, hleft, ← Nat.two_pow_add_eq_or_of_lt hq, BitVec.toNat_ofNat, hx,
    Nat.add_assoc, Nat.mul_add_mod, Nat.mod_eq_of_lt hlow]

theorem fld_low_six : fld y 0 6 = y.toNat % 64 := by
  simp [fld, bits]

theorem sextNat_eq_signExtend : sextNat x.toNat 32 = (x.setWidth 32).signExtend 64 := by
  have h : (x.setWidth 32).toNat = x.toNat % 2 ^ 32 := BitVec.toNat_setWidth ..
  unfold sextNat BitVec.signExtend
  rw [BitVec.toInt_eq_toNat_cond, h, if_neg (by decide)]
  split
  · rw [if_pos (by omega), BitVec.ofInt_natCast]
  · rw [if_neg (by omega)]
    norm_cast

theorem min_eq_ofInt : (if sgn x ≤ sgn y then x else y) = BitVec.ofInt 64 (min x.toInt y.toInt) := by
  unfold sgn
  split
  · rw [min_eq_left ‹_›, BitVec.ofInt_toInt]
  · rw [min_eq_right (by omega), BitVec.ofInt_toInt]

theorem max_eq_ofInt : (if sgn x ≤ sgn y then y else x) = BitVec.ofInt 64 (max x.toInt y.toInt) := by
  unfold sgn
  split
  · rw [max_eq_right ‹_›, BitVec.ofInt_toInt]
  · rw [max_eq_left (by omega), BitVec.ofInt_toInt]

theorem minu_eq_ofNat : (if x.toNat ≤ y.toNat then x else y) = BitVec.ofNat 64 (min x.toNat y.toNat) := by
  split
  · rw [min_eq_left ‹_›, BitVec.ofNat_toNat, BitVec.setWidth_eq]
  · rw [min_eq_right (by omega), BitVec.ofNat_toNat, BitVec.setWidth_eq]

theorem maxu_eq_ofNat : (if x.toNat ≤ y.toNat then y else x) = BitVec.ofNat 64 (max x.toNat y.toNat) := by
  split
  · rw [max_eq_right ‹_›, BitVec.ofNat_toNat, BitVec.setWidth_eq]
  · rw [max_eq_left (by omega), BitVec.ofNat_toNat, BitVec.setWidth_eq]

end

/-! ### The instructions as uses of their operands -/

theorem alu2_congr {f g : Word → Word → Word} (h : ∀ x y, f x y = g x y) (d a b : BitVec 5) (ma mb : BitVec 2) (s : State) :
    alu2 d a b ma mb f s = alu2 d a b ma mb g s := by
  have : f = g := funext fun x => funext (h x)
  subst this
  rfl

section
variable {i : Instr} {d a b : BitVec 5} {ma mb : BitVec 2} {g : Word → Word → Word}

/-- R158: a row computes its result from its two sources. -/
theorem exec_twoSource (h : twoSource i = some (d, a, b, ma, mb, g)) (s : State) :
    exec i s = alu2 d a b ma mb g s := by
  unfold twoSource at h
  split at h <;> cases h <;> unfold exec
  case h_7 => exact alu2_congr (fun x y => by rw [fld_low_six, shiftLeft_eq_ofNat]) ..
  case h_8 => exact alu2_congr (fun x y => by rw [fld_low_six, ushiftRight_eq_ofNat]) ..
  case h_9 => exact alu2_congr (fun x y => by rw [fld_low_six, sshiftRight_eq_ofInt]) ..
  case h_10 => exact alu2_congr (fun x y => by
    rw [fld_low_six, rotl, rotateLeft_eq_ofNat _ _ (Nat.mod_lt _ (by decide))]) ..
  case h_13 => exact alu2_congr (fun x y => congrArg b2w (beq_eq_decide x y)) ..
  case h_14 => exact alu2_congr (fun x y => min_eq_ofInt x y) ..
  case h_15 => exact alu2_congr (fun x y => max_eq_ofInt x y) ..
  case h_16 => exact alu2_congr (fun x y => minu_eq_ofNat x y) ..
  case h_17 => exact alu2_congr (fun x y => maxu_eq_ofNat x y) ..
  case h_18 => exact alu2_congr (fun x y => sextNat_eq_signExtend _) ..
  case h_19 => exact alu2_congr (fun x y => sextNat_eq_signExtend _) ..
  all_goals exact alu2_congr (fun _ _ => rfl) ..

end

/-- R158 to R164, R167: an instruction that computes one result takes its operands first. -/
theorem exec_regForm {i : Instr} {ss : List Src} {d : Nat} (h : regForm i = some (ss, d)) (s : State) :
    ∃ k, exec i s = withOps ss (.reg d) s k := by
  unfold regForm at h
  split at h
  next h2 => cases h; exact ⟨_, exec_twoSource h2 s⟩
  next h2 _ => cases h; unfold product at h2; split at h2 <;> cases h2 <;> exact ⟨_, rfl⟩
  next h2 _ _ => cases h; unfold bitField at h2; split at h2 <;> cases h2 <;> exact ⟨_, rfl⟩
  next h2 _ _ _ => cases h; unfold quotient at h2; split at h2 <;> cases h2 <;> exact ⟨_, rfl⟩
  next h2 _ _ _ _ => cases h; unfold oneSource at h2; split at h2 <;> cases h2 <;> exact ⟨_, rfl⟩
  next h2 _ _ _ _ _ => cases h; unfold noSource at h2; split at h2 <;> cases h2 <;> exact ⟨_, rfl⟩
  · cases h

end Sys2Proof.Proofs.Scalar
end

section
/-!
PROOF. The operands of an instruction (O6): what is met before it runs, in the order of R48's steps 4 to 6, and the values that
passed operands give.
-/
namespace Sys2Proof.Proofs.Operands
open Sys2Proof Sys2Proof.Machine Sys2Proof.Safety Sys2Proof.Proofs.Raising Sys2Proof.Proofs.Scalar

set_option Elab.async false

/-! ### The first of a list -/

section
variable {P : Nat → Prop} {l : List Nat} {r : Nat}

theorem find?_of_firstIn {p : Nat → Bool} (h : FirstIn l P r) (hp : ∀ x ∈ l, p x = true ↔ P x) : l.find? p = some r := by
  obtain ⟨pre, post, rfl, hr, hpre⟩ := h
  rw [List.find?_append, List.find?_eq_none.2 fun x hx => (hp x (by simp [hx])).not.2 (hpre x hx), Option.none_or,
    List.find?_cons_of_pos ((hp r (by simp)).2 hr)]

theorem findSome?_of_firstIn {β : Type} {f : Nat → Option β} {b : β} (h : FirstIn l P r) (hf : f r = some b)
    (hn : ∀ x ∈ l, ¬ P x → f x = none) : l.findSome? f = some b := by
  obtain ⟨pre, post, rfl, hr, hpre⟩ := h
  rw [List.findSome?_append, List.findSome?_eq_none_iff.2 fun x hx => hn x (by simp [hx]) (hpre x hx), Option.none_or,
    List.findSome?_cons_of_isSome (by rw [hf]; rfl), hf]

end

/-! ### Steps 4 to 6 of R48 -/

section
variable {s : State} {t : Thread} {ss : List Src} {d r : Nat}

/-- The strongest mode of the fields that name a register, as the statement counts it (R38). -/
theorem modeOf_eq_strongest (ss : List Src) (r : Nat) : modeOf ss r = strongest ss r := by
  unfold modeOf strongest
  rw [List.foldl_map, List.foldl_filter]
  simp only [beq_iff_eq]

theorem withOps_error {e : State} {d : Dst} (h : operands ss d s = .error e) (k : List Word → State) :
    withOps ss d s k = .next e := by rw [withOps, h]

theorem heldIn_first {f : HeldFault} (hr : ∀ x ∈ named ss d, x < 28)
    (h : FirstIn (named ss d) (fun x => (regOf t x).st = .failed) r) (hf : (regOf t r).held = some f) :
    heldIn t ss (.reg d) = some (r, f) := by
  have hmem : r ∈ named ss d := by obtain ⟨pre, post, hl, -, -⟩ := h; rw [hl]; simp
  have hfail : (regOf t r).st = .failed := by obtain ⟨-, -, -, hfail, -⟩ := h; exact hfail
  unfold heldIn
  dsimp only
  rw [List.head?_filterMap]
  refine findSome?_of_firstIn h ?_ fun x _ hx => if_neg fun hb => hx hb.2
  rw [if_pos ⟨hr r hmem, hfail⟩, hf]
  rfl

theorem heldIn_none (h : ∀ x ∈ named ss d, (regOf t x).st ≠ .failed) : heldIn t ss (.reg d) = none := by
  unfold heldIn
  dsimp only
  rw [List.head?_eq_none_iff, List.filterMap_eq_nil_iff]
  exact fun x hx => if_neg fun hb => h x hx hb.2

/-- A source that stops the instruction at step 5: it is empty, or pending and no field waits for it. -/
def Lacks (t : Thread) (ss : List Src) (x : Nat) : Prop :=
  (regOf t x).st = .empty ∨ ((regOf t x).st = .pending ∧ strongest ss x = 0)

theorem emptySrc_eq (hr : ∀ x ∈ ss, x.r < 28) :
    emptySrc t ss = (ss.map (fun x => x.r)).find? (fun r => (regOf t r).st == .empty ||
      ((regOf t r).st == .pending && strongest ss r == 0)) := by
  unfold emptySrc
  rw [List.find?_map]
  congr 1
  apply List.find?_congr
  intro x hx
  simp [hr x hx, modeOf_eq_strongest]

theorem emptySrc_first (hr : ∀ x ∈ ss, x.r < 28) (h : FirstIn (ss.map (fun x => x.r)) (Lacks t ss) r) :
    emptySrc t ss = some r := by
  rw [emptySrc_eq hr]
  exact find?_of_firstIn h fun x _ => by simp [Lacks]

theorem emptySrc_none (hr : ∀ x ∈ ss, x.r < 28) (h : ∀ x ∈ ss, ¬ Lacks t ss x.r) : emptySrc t ss = none := by
  rw [emptySrc_eq hr, List.find?_eq_none]
  simpa [Lacks] using h

theorem pendingReg_first (hr : ∀ x ∈ named ss d, x < 28)
    (h : FirstIn (named ss d) (fun x => (regOf t x).st = .pending) r) : pendingReg t ss (.reg d) = some r :=
  find?_of_firstIn h fun x hx => by simp [hr x hx]

/-- A park of an instruction that no latched wake ends at once (R129). -/
theorem parks_park (ht : threadAt s s.cur = some t) (hw : NoWake s t) (p : Park) : Parks s (park p s) t p := by
  have hmap : Parks s (mapMe (fun t => { t with form := .parked p, parkT := s.time8, behind := [] }) s) t p :=
    ⟨quiet_mapMe _ _, threadAt_mapMe ht _⟩
  unfold park
  rw [me_of ht]
  dsimp only
  split
  · exact hmap
  next hpass =>
    have hlatch : (slotAt s s.cur).latch = none := hw.resolve_right (by simpa [inPass] using hpass)
    have hkept : ∀ u, Quiet s u → (slotAt u s.cur).latch = none := fun u hu => by
      have := congrArg Slot.latch hu.own
      exact this.trans hlatch
    unfold consumeLatch
    rw [hkept _ hmap.1]
    exact hmap

/-- The consumer of a held fault (R37, R175). -/
theorem raisesHeld_raiseHeld {f : HeldFault} (hs : Canonical s) (ht : threadAt s s.cur = some t) :
    RaisesHeld s (raiseHeld r f (unparkQueues s)) t r f := by
  have hq : Quiet s (mapMe (setReg r { regOf t r with st := .empty, held := none }) (unparkQueues s)) :=
    (quiet_unparkQueues hs).trans (quiet_mapMe _ _)
  have hu : threadAt (unparkQueues s) (unparkQueues s).cur = some t := by simpa using ht
  have hset := threadAt_mapMe hu (setReg r { regOf t r with st := .empty, held := none })
  have hcur : (unparkQueues s).cur = s.cur := unparkQueues_cur s
  have hsame : mapMe (fun t => { t with regs := t.regs.setIfInBounds r { (t.regs[r]?.getD {}) with st := .empty, held := none } })
      (unparkQueues s) = mapMe (setReg r { regOf t r with st := .empty, held := none }) (unparkQueues s) := by
    rw [mapMe_of hu, mapMe_of hu]
    rfl
  rw [hcur] at hset
  have hpc : (me (mapMe (setReg r { regOf t r with st := .empty, held := none }) (unparkQueues s))).pc = t.pc := by
    rw [me_of (th := setReg r { regOf t r with st := .empty, held := none } t) (by rw [hq.cur]; exact hset)]
    rfl
  have hword := faultWord_quiet hq ht hset rfl rfl
  unfold raiseHeld
  dsimp only
  rw [hsame, hpc, hword]
  obtain ⟨v, hv, htv, heq⟩ := raiseWith_quiet hq hset
    { cause := f.cause, info := f.info, addr := f.addr, restart := t.pc, word := faultWord s, producer := some f.pc }
  exact ⟨v, hv, htv, heq, fun a => by rw [heq, rdByte_agenda]; exact hv.bytes a⟩

end

/-! ### The values of passed operands -/

section
variable {s : State} {t : Thread}

/-- The queue name an instruction's result is pushed to. -/
def pushName : Dst → Option Nat
  | .reg d => if 28 ≤ d then some d else none
  | _ => none

theorem mem_popNames {ss : List Src} {x : Src} (hx : x ∈ ss) (hr : 28 ≤ x.r) : x.r ∈ popNames ss :=
  List.mem_map_of_mem (List.mem_filter.2 ⟨hx, by simpa using hr⟩)

/-- Operands that pass found every register full and every queue with its entries (R37, R233). -/
theorem of_operands_ok {ss : List Src} {d : Dst} {vs : List Word} (ht : threadAt s s.cur = some t) (h : operands ss d s = .ok vs) :
    heldIn t ss d = none ∧ emptySrc t ss = none ∧ pendingReg t ss d = none ∧
    queueFault s t (myCore s) (popNames ss) (pushName d) = none ∧ queuePark s t (myCore s) (popNames ss) (pushName d) = none ∧
    vs = srcVals s t (myCore s) ss := by
  unfold operands at h
  simp only [ht] at h
  cases hheld : heldIn t ss d with
  | some x => simp [hheld] at h
  | none =>
  cases hempty : emptySrc t ss with
  | some x => simp [hheld, hempty] at h
  | none =>
  cases hpend : pendingReg t ss d with
  | some x =>
    cases d <;> simp [hheld, hempty, hpend] at h
    split at h <;> cases h
  | none =>
  cases hfault : queueFault s t (myCore s) (popNames ss) (pushName d) with
  | some x =>
    cases d <;> simp_all [pushName]
    split at h <;> cases h
  | none =>
  cases hpark : queuePark s t (myCore s) (popNames ss) (pushName d) with
  | some x =>
    cases d <;> simp_all [pushName]
    split at h <;> cases h
  | none =>
  refine ⟨rfl, rfl, rfl, rfl, rfl, ?_⟩
  cases d <;> simp_all [pushName]
  split at h <;> cases h
  rfl

theorem popFault_none {core r before : Nat} (h : popFault s t core r before = none) :
    ∃ qid q, boundTo t r = some qid ∧ qview s core qid = some q ∧ q.canPop = true := by
  unfold popFault at h
  split at h
  · cases h
  next qid hb =>
    split at h
    · cases h
    next q hq =>
      refine ⟨qid, q, hb, hq, ?_⟩
      split at h
      · cases h
      next hcan => simpa using hcan

theorem queueFault_none {core : Nat} {pops : List Nat} {push : Option Nat} (h : queueFault s t core pops push = none) :
    ∀ r ∈ pops, ∃ qid q, boundTo t r = some qid ∧ qview s core qid = some q ∧ q.canPop = true := by
  intro r hr
  obtain ⟨i, hi⟩ := List.mem_iff_getElem?.1 hr
  unfold queueFault at h
  dsimp only at h
  split at h
  · cases h
  next hnil =>
    rw [List.filterMap_eq_nil_iff] at hnil
    have := hnil (r, i) (List.mem_zipIdx_iff_getElem?.2 hi)
    exact popFault_none (Option.map_eq_none_iff.1 this)

theorem queuePark_none {core : Nat} {pops : List Nat} {push : Option Nat} (h : queuePark s t core pops push = none) {r qid : Nat}
    {q : QView} (hr : r ∈ pops) (hb : boundTo t r = some qid) (hq : qview s core qid = some q) :
    popsOf t qid pops ≤ q.data.length := by
  unfold queuePark at h
  dsimp only at h
  split at h
  · cases h
  next hnil =>
    rw [List.filterMap_eq_nil_iff] at hnil
    simpa [hb, hq] using hnil r hr

section
variable {ss : List Src} {d : Dst} {vs : List Word} (ht : threadAt s s.cur = some t) (h : operands ss d s = .ok vs) {x : Src}
  (hx : x ∈ ss)
include ht h hx

/-- A source register of passed operands is full. -/
theorem full_of_operands_ok (hr : x.r < 28) : (regOf t x.r).st = .full := by
  obtain ⟨hheld, hempty, hpend, -⟩ := of_operands_ok ht h
  have hfailed : (regOf t x.r).st ≠ .failed := fun hf => by
    unfold heldIn at hheld
    dsimp only at hheld
    rw [List.head?_eq_none_iff, List.filterMap_eq_nil_iff] at hheld
    have := hheld x.r (List.mem_append_left _ (List.mem_map_of_mem hx))
    rw [if_pos ⟨hr, hf⟩] at this
    cases this
  have hne : (regOf t x.r).st ≠ .empty := fun hf => by
    unfold emptySrc at hempty
    rw [Option.map_eq_none_iff, List.find?_eq_none] at hempty
    simpa [hr, hf] using hempty x hx
  have hnp : (regOf t x.r).st ≠ .pending := fun hf => by
    unfold pendingReg at hpend
    dsimp only at hpend
    rw [List.find?_eq_none] at hpend
    simpa [hr, hf] using hpend x.r (List.mem_append_left _ (List.mem_map_of_mem hx))
  cases hst : (regOf t x.r).st with
  | full => rfl
  | empty => exact absurd hst hne
  | pending => exact absurd hst hnp
  | failed => exact absurd hst hfailed

/-- A queue name among the sources of passed operands is bound to a queue that holds an entry for each of its pops. -/
theorem queue_of_operands_ok (hr : 28 ≤ x.r) : ∃ qid q, boundTo t x.r = some qid ∧ qview s (myCore s) qid = some q ∧
    q.canPop = true ∧ popsOf t qid (popNames ss) ≤ q.data.length := by
  obtain ⟨-, -, -, hfault, hpark, -⟩ := of_operands_ok ht h
  have hmem := mem_popNames hx hr
  obtain ⟨qid, q, hb, hq, hpop⟩ := queueFault_none hfault _ hmem
  exact ⟨qid, q, hb, hq, hpop, queuePark_none hpark hmem hb hq⟩

end

/-- The value of a source whose queue has lost `before` entries to the instruction's earlier pops (R41, R233). -/
def srcVal (s : State) (t : Thread) (x : Src) (before : Nat → Nat) : Word :=
  if x.r < 28 then (regOf t x.r).val
  else match qview s (myCore s) ((boundTo t x.r).getD 0) with
    | some q => q.data[before ((boundTo t x.r).getD 0)]?.getD 0
    | none => 0

theorem srcVals_pair (x y : Src) : srcVals s t (myCore s) [x, y] =
    [srcVal s t x fun _ => 0, srcVal s t y fun qid => popsOf t qid (popNames [x])] := by
  simp [srcVals, srcVal, popsOf, popNames] <;> exact ⟨rfl, rfl⟩

theorem srcVal_reg {x : Src} {before : Nat → Nat} (hr : x.r < 28) : srcVal s t x before = (regOf t x.r).val := if_pos hr

/-- An entry that is there is the value. -/
theorem srcVal_queue {x : Src} {before : Nat → Nat} {qid : Nat} {q : QView} (hr : 28 ≤ x.r) (hb : boundTo t x.r = some qid)
    (hq : qview s (myCore s) qid = some q) (hlen : before qid < q.data.length) :
    some (srcVal s t x before) = q.data[before qid]? := by
  unfold srcVal
  rw [if_neg (by omega), hb]
  simp [hq, hlen]

theorem popsOf_popNames_pair (x y : Src) (qid : Nat) : popsOf t qid (popNames [x, y]) =
    (if 28 ≤ x.r ∧ boundTo t x.r = some qid then 1 else 0) + (if 28 ≤ y.r ∧ boundTo t y.r = some qid then 1 else 0) := by
  unfold popsOf popNames
  by_cases hx : 28 ≤ x.r <;> by_cases hy : 28 ≤ y.r <;> simp [hx, hy, List.countP_cons, Nat.add_comm]

theorem popsOf_popNames_single (x : Src) (qid : Nat) : popsOf t qid (popNames [x]) =
    if 28 ≤ x.r ∧ boundTo t x.r = some qid then 1 else 0 := by
  unfold popsOf popNames
  by_cases hx : 28 ≤ x.r <;> simp [hx, List.countP_cons]

end

/-! ### The statement -/

/-- Settles O6: R48's steps in order, then the sources one by one. -/
theorem registerStates : Obligations.RegisterStates := by
  unfold Obligations.RegisterStates
  constructor
  · intro i ss d hi s th hs ht hr hm
    obtain ⟨k, hk⟩ := exec_regForm hi s
    have hrs : ∀ x ∈ ss, x.r < 28 := fun x hx => hr x.r (List.mem_append_left _ (List.mem_map_of_mem hx))
    refine ⟨fun r f hfirst hf => ?_, fun hno => ⟨fun r hfirst => ?_, fun hsrc hw r hfirst => ?_⟩⟩
    · refine ⟨_, hk.trans (withOps_error ?_ k), raisesHeld_raiseHeld hs ht⟩
      simp only [operands, ht, heldIn_first hr hfirst hf]
    · refine ⟨_, hk.trans (withOps_error ?_ k), raises_raise (quiet_unparkQueues hs) ht (by simpa using ht) rfl rfl _ _ _⟩
      simp only [operands, ht, heldIn_none hno, emptySrc_first hrs hfirst]
      rfl
    · refine ⟨_, hk.trans (withOps_error ?_ k), parks_park ht hw _⟩
      have hlacks : ∀ x ∈ ss, ¬ Lacks th ss x.r := fun x hx hl =>
        hl.elim (hsrc x hx).1 fun hp => (hsrc x hx).2 hp.1 hp.2
      simp [operands, ht, heldIn_none hno, emptySrc_none hrs hlacks, pendingReg_first hr hfirst]
  · intro s th x y d vs ht h
    have hvs : vs = _ := (of_operands_ok ht h).2.2.2.2.2.trans (srcVals_pair x y)
    have hx : x ∈ [x, y] := by simp
    have hy : y ∈ [x, y] := by simp
    subst hvs
    refine ⟨fun hr => ⟨congrArg some (srcVal_reg hr), full_of_operands_ok ht h hx hr⟩,
      fun hr => ⟨congrArg some (srcVal_reg hr), full_of_operands_ok ht h hy hr⟩, fun hr => ?_, fun hr => ?_⟩
    · obtain ⟨qid, q, hb, hq, hpop, hlen⟩ := queue_of_operands_ok ht h hx hr
      rw [popsOf_popNames_pair, if_pos ⟨hr, hb⟩] at hlen
      exact ⟨qid, q, hb, hq, hpop, srcVal_queue (before := fun _ => 0) hr hb hq (by omega), List.ne_nil_of_length_pos (by omega)⟩
    · obtain ⟨qid, q, hb, hq, hpop, hlen⟩ := queue_of_operands_ok ht h hy hr
      rw [popsOf_popNames_pair, if_pos (c := _ ∧ boundTo th y.r = _) ⟨hr, hb⟩] at hlen
      refine ⟨qid, q, hb, hq, hpop, ?_⟩
      refine (srcVal_queue (before := fun qid => popsOf th qid (popNames [x])) hr hb hq ?_).trans ?_
      · rw [popsOf_popNames_single]; omega
      · rw [popsOf_popNames_single]; split <;> rfl

end Sys2Proof.Proofs.Operands
end

section
/-!
PROOF. Queue names as operands (O7): what a pop and a push do to the queues of a core, and what they leave unchanged.
-/
namespace Sys2Proof.Proofs.Queues
open Sys2Proof Sys2Proof.Machine Sys2Proof.Safety Sys2Proof.Proofs.Raising Sys2Proof.Proofs.Scalar Sys2Proof.Proofs.Operands

set_option Elab.async false

/-! ### The queues' side of the machine -/

/-- From s to t only queues have changed: the role queues of cores with their bookkeeping, the queues of engine contexts, and
wakes on their way. -/
structure QueueSide (s t : State) : Prop where
  cores : ∀ c, { coreAt t c with roleq := (coreAt s c).roleq, qback := (coreAt s c).qback } = coreAt s c
  cells : ∀ c, { cellAt t c with eng := (cellAt s c).eng } = cellAt s c
  rest : { t with cores := s.cores, cells := s.cells, agenda := s.agenda } = s
  canonical : Canonical s → Canonical t

section
variable {s t u : State}

theorem QueueSide.refl (s : State) : QueueSide s s := ⟨fun _ => rfl, fun _ => rfl, rfl, id⟩

theorem QueueSide.trans (h : QueueSide s t) (k : QueueSide t u) : QueueSide s u := by
  obtain ⟨h1, h2, h3, h4⟩ := h
  obtain ⟨k1, k2, k3, k4⟩ := k
  refine ⟨fun c => ?_, fun c => ?_, ?_, fun hs => k4 (h4 hs)⟩
  · rw [← h1 c, ← k1 c]
  · rw [← h2 c, ← k2 c]
  · rw [← h3, ← k3]

theorem QueueSide.slots (h : QueueSide s t) : t.slots = s.slots := by have := congrArg State.slots h.rest; exact this
theorem QueueSide.cur (h : QueueSide s t) : t.cur = s.cur := by have := congrArg State.cur h.rest; exact this
theorem QueueSide.cycle (h : QueueSide s t) : t.cycle = s.cycle := by have := congrArg State.cycle h.rest; exact this
theorem QueueSide.threadAt (h : QueueSide s t) (p : Nat) : threadAt t p = threadAt s p := threadAt_congr h.slots p

/-- The debug block shows nothing of the queues. -/
theorem QueueSide.debugRead (h : QueueSide s t) (o : Nat) : debugRead t o = debugRead s o := by
  have hsl : ∀ p, slotAt t p = slotAt s p := fun p => by unfold slotAt; rw [h.slots]
  have hr : t.ras = s.ras := by have := congrArg State.ras h.rest; exact this
  have hc : t.cycle = s.cycle := h.cycle
  have hx : t.ctxs = s.ctxs := by have := congrArg State.ctxs h.rest; exact this
  have hs : t.slices = s.slices := by have := congrArg State.slices h.rest; exact this
  have hcore : ∀ c, (coreAt t c).hist = (coreAt s c).hist ∧ (coreAt t c).hist0Lag = (coreAt s c).hist0Lag ∧
      (coreAt t c).wakeDrops = (coreAt s c).wakeDrops ∧ (coreAt t c).msgDrops = (coreAt s c).msgDrops ∧
      (coreAt t c).cmps = (coreAt s c).cmps ∧ (coreAt t c).stopcmd = (coreAt s c).stopcmd := by
    intro c
    rw [← h.cores c]
    exact ⟨rfl, rfl, rfl, rfl, rfl, rfl⟩
  have hcell : ∀ c, (cellAt t c).residue = (cellAt s c).residue ∧ (cellAt t c).active = (cellAt s c).active ∧
      (cellAt t c).test = (cellAt s c).test := by
    intro c
    rw [← h.cells c]
    exact ⟨rfl, rfl, rfl⟩
  unfold Machine.debugRead lossCount histCount
  simp only [hsl, hr, hc, hcore, hcell, ctxAt, hx, sliceAt, hs]

theorem QueueSide.bytes (h : QueueSide s t) (a : Nat) : rdByte t a = rdByte s a :=
  rdByte_congr (by have := congrArg State.mem h.rest; exact this) (by have := congrArg State.dram h.rest; exact this)
    (by have := congrArg State.slices h.rest; exact this) (by have := congrArg State.fresh h.rest; exact this) h.debugRead a

theorem cellAt_setCell (h : Canonical s) (c e : Nat) (x : Cell) : cellAt (setCell s c x) e = if c = e then x else cellAt s e :=
  Tab.get_put c e x h.2.2.2.2.2.2.1

theorem canonical_setCell (h : Canonical s) (c : Nat) (x : Cell) : Canonical (setCell s c x) := by
  obtain ⟨h1, h2, h3, h4, h5, h6, h7, h8⟩ := h
  exact ⟨h1, h2, h3, h4, h5, h6, Tab.wf_put _ _ h7, h8⟩

theorem queueSide_setCore (hs : Canonical s) (c : Nat) {x : Core}
    (h : { x with roleq := (coreAt s c).roleq, qback := (coreAt s c).qback } = coreAt s c) : QueueSide s (setCore s c x) := by
  refine ⟨fun e => ?_, fun e => rfl, rfl, fun _ => canonical_setCore hs c x⟩
  rw [coreAt_setCore hs]
  split
  · subst_vars; exact h
  · rfl

theorem queueSide_mapEng (hs : Canonical s) (c e : Nat) (f : EngCtx → EngCtx) : QueueSide s (mapEng c e f s) := by
  refine ⟨fun e => rfl, fun k => ?_, rfl, fun _ => canonical_setCell hs _ _⟩
  unfold mapEng
  rw [cellAt_setCell hs]
  split
  · subst_vars; rfl
  · rfl

theorem queueSide_qset (hs : Canonical s) (core qid : Nat) (data : List Word) : QueueSide s (qset core qid data s) := by
  unfold qset
  dsimp only
  split
  · exact queueSide_setCore hs core rfl
  split
  · exact queueSide_mapEng hs ..
  split
  · exact queueSide_mapEng hs ..
  · exact queueSide_mapEng hs ..

theorem queueSide_dropBack (hs : Canonical s) (core qid : Nat) : QueueSide s (dropBack core qid s) := by
  unfold dropBack
  dsimp only
  split
  · exact QueueSide.refl s
  · exact queueSide_setCore hs core rfl

theorem queueSide_qWake (core qid : Nat) (pop : Bool) : QueueSide s (qWake core qid pop s) := by
  unfold qWake
  split
  · exact ⟨fun _ => rfl, fun _ => rfl, rfl, id⟩
  · exact QueueSide.refl s

/-! ### What a queue holds -/

theorem qview_congr {core : Nat} (hr : (coreAt t core).roleq = (coreAt s core).roleq) (hc : t.cells = s.cells) (qid : Nat) :
    qview t core qid = qview s core qid := by
  unfold qview cellAt
  rw [hr, hc]

theorem coreAt_setCore_self (hs : Canonical s) (c : Nat) (x : Core) : coreAt (setCore s c x) c = x :=
  (coreAt_setCore hs c c x).trans (if_pos rfl)

theorem qview_qWake (core qid : Nat) (pop : Bool) (j : Nat) : qview (qWake core qid pop s) core j = qview s core j := by
  unfold qWake
  split
  · exact qview_congr rfl rfl j
  · rfl

theorem qview_dropBack (hs : Canonical s) (core qid j : Nat) : qview (dropBack core qid s) core j = qview s core j := by
  unfold dropBack
  dsimp only
  split
  · rfl
  · refine qview_congr (s := s) ?_ ?_ j
    · rw [coreAt_setCore_self hs]
    · rfl

/-- The engine context a QID of the range names. -/
def engOf (s : State) (core e : Nat) : EngCtx := (cellAt s (cellOfCore core)).eng[e]?.getD {}

theorem engOf_mapEng (hs : Canonical s) (core e j : Nat) (f : EngCtx → EngCtx) (he : e < 4) :
    engOf (mapEng (cellOfCore core) e f s) core j = if j = e then f (engOf s core e) else engOf s core j := by
  unfold engOf mapEng
  dsimp only
  rw [cellAt_setCell hs, if_pos rfl, Vector.getElem?_setIfInBounds]
  by_cases h : j = e
  · subst h; simp [he]
  · simp [h, Ne.symm h]

/-- The three queues of an engine context, by the range of the QID that names one: 4, 5 and 6 for the A stream, the scale
injection and the results (R230). -/
def engQ (kind : Nat) (e : EngCtx) : List Word := if kind = 4 then e.astream else if kind = 5 then e.scaleq else e.resultq

def setEngQ (kind : Nat) (data : List Word) (e : EngCtx) : EngCtx :=
  if kind = 4 then { e with astream := data } else if kind = 5 then { e with scaleq := data } else { e with resultq := data }

theorem engQ_setEngQ (k : Nat) {j : Nat} (data : List Word) (e : EngCtx) (hk : k < 7) (hj : j < 7) (h4 : 4 ≤ k) (h4' : 4 ≤ j) :
    engQ j (setEngQ k data e) = if j = k then data else engQ j e := by
  unfold engQ setEngQ
  obtain rfl | rfl | rfl : k = 4 ∨ k = 5 ∨ k = 6 := by omega
  all_goals obtain rfl | rfl | rfl : j = 4 ∨ j = 5 ∨ j = 6 := by omega
  all_goals rfl

/-- An engine queue's view, from what it holds. -/
def engView (qid : Nat) (data : List Word) : QView :=
  ⟨data, false, if qid < 0x14 then 128 else 16, decide (qid < 0x18), decide (0x18 ≤ qid)⟩

theorem qview_role {core qid : Nat} (h : qid < 4) : qview s core qid =
    some ⟨((coreAt s core).roleq[qid]?.getD {}).data, ((coreAt s core).roleq[qid]?.getD {}).closed, 16, true, true⟩ := by
  unfold qview; simp [h]

theorem qview_engine {core qid : Nat} (h : 0x10 ≤ qid ∧ qid < 0x1C) :
    qview s core qid = some (engView qid (engQ (qid / 4) (engOf s core (qid % 4)))) := by
  obtain h | h | h : (0x10 ≤ qid ∧ qid < 0x14) ∨ (0x14 ≤ qid ∧ qid < 0x18) ∨ (0x18 ≤ qid ∧ qid < 0x1C) := by omega
  · simp [qview, engView, engQ, engOf, h, show ¬ qid < 4 by omega, show qid / 4 = 4 by omega, show qid % 4 = qid - 0x10 by omega,
      show ¬ 0x18 ≤ qid by omega, show qid < 0x18 by omega]
  · simp [qview, engView, engQ, engOf, h, show ¬ qid < 4 by omega, show qid / 4 = 5 by omega, show qid % 4 = qid - 0x14 by omega,
      show ¬ qid < 0x14 by omega, show ¬ 0x18 ≤ qid by omega]
  · simp [qview, engView, engQ, engOf, h, show ¬ qid < 4 by omega, show qid / 4 = 6 by omega, show qid % 4 = qid - 0x18 by omega,
      show ¬ qid < 0x14 by omega, show ¬ qid < 0x18 by omega]

theorem qview_none {core qid : Nat} (h4 : ¬ qid < 4) (hl : ¬ (0x10 ≤ qid ∧ qid < 0x1C)) : qview s core qid = none := by
  simp [qview, h4, show ¬ (0x10 ≤ qid ∧ qid < 0x14) by omega, show ¬ (0x14 ≤ qid ∧ qid < 0x18) by omega,
    show ¬ (0x18 ≤ qid ∧ qid < 0x1C) by omega]

theorem qset_role {core qid : Nat} (h : qid < 4) (data : List Word) (s : State) : qset core qid data s =
    setCore s core { coreAt s core with
      roleq := (coreAt s core).roleq.setIfInBounds qid { ((coreAt s core).roleq[qid]?.getD {}) with data := data } } := by
  unfold qset; rw [if_pos h]

theorem qset_engine {core qid : Nat} (h : 0x10 ≤ qid ∧ qid < 0x1C) (data : List Word) (s : State) :
    qset core qid data s = mapEng (cellOfCore core) (qid % 4) (setEngQ (qid / 4) data) s := by
  unfold qset
  rw [if_neg (by omega)]
  obtain h | h | h : (0x10 ≤ qid ∧ qid < 0x14) ∨ (0x14 ≤ qid ∧ qid < 0x18) ∨ (0x18 ≤ qid ∧ qid < 0x1C) := by omega
  · rw [if_pos h.2, show qid / 4 = 4 by omega, show qid % 4 = qid - 0x10 by omega]; rfl
  · rw [if_neg (by omega), if_pos h.2, show qid / 4 = 5 by omega, show qid % 4 = qid - 0x14 by omega]; rfl
  · rw [if_neg (by omega), if_neg (by omega), show qid / 4 = 6 by omega, show qid % 4 = qid - 0x18 by omega]; rfl

/-- A view follows from the role queues and the engine contexts. -/
theorem qview_eq_of {core j : Nat} (hr : j < 4 → (coreAt t core).roleq[j]? = (coreAt s core).roleq[j]?)
    (he : 0x10 ≤ j ∧ j < 0x1C → engQ (j / 4) (engOf t core (j % 4)) = engQ (j / 4) (engOf s core (j % 4))) :
    qview t core j = qview s core j := by
  by_cases h : j < 4
  · rw [qview_role h, qview_role h, hr h]
  by_cases h' : 0x10 ≤ j ∧ j < 0x1C
  · rw [qview_engine h', qview_engine h', he h']
  · rw [qview_none h h', qview_none h h']

/-- A queue's contents, set. -/
theorem qview_qset (hs : Canonical s) {core qid : Nat} {q : QView} (hq : qview s core qid = some q) (data : List Word) (j : Nat) :
    qview (qset core qid data s) core j = if j = qid then some { q with data := data } else qview s core j := by
  by_cases h : qid < 4
  · have hcore : coreAt (qset core qid data s) core = { coreAt s core with
        roleq := (coreAt s core).roleq.setIfInBounds qid { ((coreAt s core).roleq[qid]?.getD {}) with data := data } } := by
      rw [qset_role h]
      exact coreAt_setCore_self hs core _
    rw [qview_role h] at hq
    cases hq
    split
    next hj =>
      subst hj
      rw [qview_role h, hcore]
      simp [h]
    next hj =>
      refine qview_eq_of (fun _ => ?_) (fun _ => by rw [qset_role h]; rfl)
      rw [hcore, Vector.getElem?_setIfInBounds, if_neg (Ne.symm hj)]
  by_cases h' : 0x10 ≤ qid ∧ qid < 0x1C
  · rw [qview_engine h'] at hq
    cases hq
    rw [qset_engine h']
    split
    next hj =>
      subst hj
      rw [qview_engine h', engOf_mapEng hs _ _ _ _ (by omega), if_pos rfl,
        engQ_setEngQ _ _ _ (by omega) (by omega) (by omega) (by omega), if_pos rfl]
      rfl
    next hj =>
      refine qview_eq_of (fun _ => rfl) fun hj' => ?_
      rw [engOf_mapEng hs _ _ _ _ (by omega)]
      split
      next he =>
        rw [engQ_setEngQ _ _ _ (by omega) (by omega) (by omega) (by omega), if_neg (by omega), he]
      · rfl
  · rw [qview_none h h'] at hq; cases hq

/-- A pop takes the oldest entry of its queue. -/
theorem qview_qPop (hs : Canonical s) (core qid j : Nat) : qview (qPop core qid s) core j =
    (qview s core j).map fun q => if j = qid then { q with data := q.data.tail } else q := by
  unfold qPop
  split
  next q hq =>
    rw [qview_qWake, qview_dropBack ((queueSide_qset hs core qid _).canonical hs), qview_qset hs hq]
    split
    next hj => subst hj; simp [hq]
    · simp
  next hq =>
    split
    next hj => subst hj; simp [hq]
    · simp

/-- A push appends an entry to its queue. -/
theorem qview_qPush (hs : Canonical s) (core qid : Nat) (v : Word) (j : Nat) : qview (qPush core qid v s) core j =
    (qview s core j).map fun q => if j = qid then { q with data := q.data ++ [v] } else q := by
  unfold qPush
  split
  next q hq =>
    rw [qview_qWake, qview_qset hs hq]
    split
    next hj => subst hj; simp [hq]
    · simp
  next hq =>
    split
    next hj => subst hj; simp [hq]
    · simp

theorem queueSide_qPop (hs : Canonical s) (core qid : Nat) : QueueSide s (qPop core qid s) := by
  unfold qPop
  split
  · have h1 := queueSide_qset hs core qid
    exact ((h1 _).trans (queueSide_dropBack ((h1 _).canonical hs) core qid)).trans (queueSide_qWake core qid false)
  · exact QueueSide.refl s

theorem queueSide_qPush (hs : Canonical s) (core qid : Nat) (v : Word) : QueueSide s (qPush core qid v s) := by
  unfold qPush
  split
  · exact (queueSide_qset hs core qid _).trans (queueSide_qWake core qid true)
  · exact QueueSide.refl s

theorem qview_quiet (h : Quiet s t) (core j : Nat) : qview t core j = qview s core j :=
  qview_congr (by rw [← h.cores core]) (by have := congrArg State.cells h.rest; exact this) j

end

/-! ### Taking the sources -/

section
variable {s : State} {th : Thread} {ss : List Src}

/-- One name's pop. -/
def popName (t : Thread) (core : Nat) (s : State) (r : Nat) : State :=
  match boundTo t r with
  | some qid => qPop core qid s
  | none => s

/-- The registers that sources take, one after another. -/
def takeAll (t : Thread) (all l : List Src) (s : State) : State :=
  l.foldl (fun s x =>
    if x.r < 28 ∧ modeOf all x.r = 2 then mapMe (setReg x.r { st := .empty, val := (regOf t x.r).val }) s else s) s

theorem commit_eq (ss : List Src) (s : State) :
    commit ss s = unparkQueues (takeAll (me s) ss ss ((popNames ss).foldl (popName (me s) (myCore s)) s)) := by
  unfold commit takeAll popName
  rfl

theorem queueSide_popNames (t : Thread) (core : Nat) (rs : List Nat) (hs : Canonical s) :
    QueueSide s (rs.foldl (popName t core) s) := by
  induction rs generalizing s with
  | nil => exact QueueSide.refl s
  | cons r rs ih =>
    have h : QueueSide s (popName t core s r) := by
      unfold popName
      split
      · exact queueSide_qPop hs ..
      · exact QueueSide.refl s
    exact h.trans (ih (h.canonical hs))

/-- A queue loses one entry for each name bound to it. -/
theorem qview_popNames (t : Thread) (core : Nat) (rs : List Nat) (hs : Canonical s) (j : Nat) :
    qview (rs.foldl (popName t core) s) core j =
      (qview s core j).map fun q => { q with data := q.data.drop (popsOf t j rs) } := by
  induction rs generalizing s with
  | nil => simp [popsOf]
  | cons r rs ih =>
    have hside : QueueSide s (popName t core s r) := queueSide_popNames t core [r] hs
    rw [List.foldl_cons, ih (hside.canonical hs)]
    unfold popName popsOf
    rw [List.countP_cons]
    split
    next qid hb =>
      rw [qview_qPop hs, Option.map_map]
      congr 1
      funext q
      by_cases hj : j = qid
      · subst hj
        simp [hb, List.drop_tail]
      · simp [hb, hj, Ne.symm hj]
    next hb => simp [hb]

theorem takeAll_frame {u : State} {tu : Thread} (t : Thread) (all l : List Src) (hu : Canonical u)
    (ht : threadAt u u.cur = some tu) :
    Quiet u (takeAll t all l u) ∧ Canonical (takeAll t all l u) ∧
      threadAt (takeAll t all l u) u.cur = some (Safety.takeRegs t l all tu) := by
  induction l generalizing u tu with
  | nil => exact ⟨Quiet.refl u, hu, ht⟩
  | cons x l ih =>
    unfold takeAll Safety.takeRegs
    rw [List.foldl_cons, List.foldl_cons]
    split
    · have hq := quiet_mapMe u (setReg x.r { st := .empty, val := (regOf t x.r).val })
      have ht' := threadAt_mapMe ht (setReg x.r { st := .empty, val := (regOf t x.r).val })
      rw [← hq.cur] at ht'
      obtain ⟨h1, h2, h3⟩ := ih (canonical_mapMe hu _) ht'
      rw [hq.cur] at h3
      exact ⟨hq.trans h1, h2, h3⟩
    · exact ih hu ht

/-- Sources taken (R37, R233): registers read in mode take are empty, each queue has lost an entry for each of its names. -/
theorem commit_frame (hs : Canonical s) (ht : threadAt s s.cur = some th) (ss : List Src) :
    ∃ m, QueueSide s m ∧ Quiet m (commit ss s) ∧ Canonical (commit ss s) ∧
      threadAt (commit ss s) s.cur = some (Safety.takeRegs th ss ss th) ∧
      ∀ j, qview (commit ss s) (myCore s) j =
        (qview s (myCore s) j).map fun q => { q with data := q.data.drop (popsOf th j (popNames ss)) } := by
  rw [commit_eq, me_of ht]
  have hm := queueSide_popNames th (myCore s) (popNames ss) hs
  have hv := qview_popNames th (myCore s) (popNames ss) hs
  generalize (popNames ss).foldl (popName th (myCore s)) s = m at hm hv ⊢
  have htm : threadAt m m.cur = some th := by rw [hm.threadAt, hm.cur]; exact ht
  obtain ⟨hq, hc, htake⟩ := takeAll_frame th ss ss (hm.canonical hs) htm
  rw [hm.cur] at htake
  have hun := hq.trans (quiet_unparkQueues hc)
  exact ⟨m, hm, hun, canonical_unparkQueues hc, by rwa [threadAt_unparkQueues], fun j => (qview_quiet hun _ j).trans (hv j)⟩

theorem regOf_takeRegs_afterRead (hm : ∀ x ∈ ss, x.m ≤ 2) {r : Nat} (hr : r < 28) :
    regOf (Safety.takeRegs th ss ss th) r = afterRead ss th r := by
  have htake := modeOf_eq_two (r := r) hm
  rw [regOf_takeRegs _ _ _ _ _ hr]
  unfold afterRead
  by_cases h : takes ss r = true
  · have hex : ∃ x ∈ ss, x.r = r := by
      unfold takes at h
      simp only [List.any_eq_true, Bool.and_eq_true, beq_iff_eq] at h
      obtain ⟨x, hx, hxr, -⟩ := h
      exact ⟨x, hx, hxr⟩
    rw [if_pos h, if_pos ⟨hex, htake.2 h⟩]
  · rw [if_neg h, if_neg fun hb => h (htake.1 hb.2)]

/-! ### Completion -/

/-- What is left of the state at issue where only queues and the executing thread have changed. -/
structure Completes (s u : State) : Prop where
  cur : u.cur = s.cur
  cycle : u.cycle = s.cycle
  bytes : ∀ a, rdByte u a = rdByte s a

theorem QueueSide.completes {t : State} (h : QueueSide s t) : Completes s t := ⟨h.cur, h.cycle, h.bytes⟩
theorem Completes.of_quiet {t : State} (h : Quiet s t) : Completes s t := ⟨h.cur, h.cycle, h.bytes⟩
theorem Completes.trans {t u : State} (h : Completes s t) (k : Completes t u) : Completes s u :=
  ⟨k.cur.trans h.cur, k.cycle.trans h.cycle, fun a => (k.bytes a).trans (h.bytes a)⟩

/-- Completion of a thread whose result raised nothing: PC + 4, its pass over. -/
theorem complete_ready {u : State} {tu : Thread} (he : Executing s th) (hk : Completes s u) (hu : threadAt u s.cur = some tu)
    (hf : tu.form = .ready) :
    Quiet u (complete s u) ∧ threadAt (complete s u) s.cur = some (passed s tu) := by
  rw [← hk.cur] at hu ⊢
  unfold complete
  rw [atTop_of he, me_of hu]
  simp only [hf, Bool.false_eq_true, if_false]
  unfold advance
  refine ⟨quiet_mapMe _ _, ?_⟩
  rw [threadAt_mapMe hu]
  simp only [hf]
  exact congrArg some (settled_passed s u tu hk.cycle)

end

/-! ### The statement -/

section
variable {s : State} {th : Thread} {ss : List Src} {d : Nat} {v : Word}

/-- What a result written does: to a register, or to the queue its name is bound to (R41, R284). -/
theorem writeDst_frame {u : State} {tu : Thread} (hu : Canonical u) (ht : threadAt u u.cur = some tu)
    (hb : 28 ≤ d → ∃ qid, boundTo tu d = some qid)
    (hres : ∀ qid, 28 ≤ d → boundTo tu d = some qid → 0x14 ≤ qid → qid < 0x18 → fld v 59 3 = 0) :
    Completes u (writeDst d v u) ∧
      threadAt (writeDst d v u) u.cur = some (if d < 28 then setFull d v tu else tu) ∧
      ∀ j, qview (writeDst d v u) (myCore u) j = (qview u (myCore u) j).map fun q =>
        { q with data := q.data ++ if 28 ≤ d ∧ boundTo tu d = some j then [v] else [] } := by
  unfold writeDst
  by_cases hd : d < 28
  · have hq := quiet_mapMe u (setFull d v)
    rw [if_pos hd]
    refine ⟨.of_quiet hq, by rw [threadAt_mapMe ht, if_pos hd], fun j => ?_⟩
    rw [qview_quiet hq]
    simp [show ¬ 28 ≤ d by omega]
  · obtain ⟨qid, hqid⟩ := hb (by omega)
    have hnot : ¬ (0x14 ≤ qid ∧ qid < 0x18 ∧ fld v 59 3 ≠ 0) := fun h => h.2.2 (hres qid (by omega) hqid h.1 h.2.1)
    rw [if_neg hd, me_of ht]
    simp only [hqid, if_neg hnot]
    have hside := queueSide_qPush hu (myCore u) qid v
    refine ⟨hside.completes, by rw [hside.threadAt, if_neg hd]; exact ht, fun j => ?_⟩
    rw [qview_qPush hu]
    congr 1
    funext q
    by_cases hj : j = qid
    · simp [hj, show 28 ≤ d by omega]
    · simp [hj, Ne.symm hj]

theorem bound_of_operands_ok {vs : List Word} (ht : threadAt s s.cur = some th) (h : operands ss (.reg d) s = .ok vs) (hd : 28 ≤ d) :
    ∃ qid, boundTo th d = some qid := by
  obtain ⟨-, -, -, hfault, -⟩ := of_operands_ok ht h
  unfold queueFault at hfault
  dsimp only at hfault
  split at hfault
  · cases hfault
  · simp only [pushName, if_pos hd, Option.map_eq_none_iff] at hfault
    unfold pushFault at hfault
    split at hfault
    · cases hfault
    next qid hqid => exact ⟨qid, hqid⟩

end

/-- Settles O7: the sources are taken, then the result is written, then the instruction completes. -/
theorem queueNamesPopAndPush : Obligations.QueueNamesPopAndPush := by
  unfold Obligations.QueueNamesPopAndPush
  intro i d a b ma mb f hi s th x y hs he hma hmb hop hres
  have hm : ∀ z ∈ [src a ma, src b mb], z.m ≤ 2 := by simp [src, hma, hmb]
  have hd : 28 ≤ d.toNat → ∃ qid, boundTo th d.toNat = some qid := bound_of_operands_ok he.1 hop
  generalize hss : [src a ma, src b mb] = ss at *
  obtain ⟨m, hside, hquiet, hcan, ht1, hv1⟩ := commit_frame hs he.1 ss
  have hk1 : Completes s (commit ss s) := hside.completes.trans (.of_quiet hquiet)
  have hbinds : (Safety.takeRegs th ss ss th).binds = th.binds := by
    have := congrArg Thread.binds (takeRegs_regs th ss ss th); exact this
  have hbound : ∀ r, boundTo (Safety.takeRegs th ss ss th) r = boundTo th r := fun r => by unfold boundTo; rw [hbinds]
  obtain ⟨hk2, ht2, hv2⟩ := writeDst_frame (d := d.toNat) (v := f x y) hcan (by rw [hk1.cur]; exact ht1)
    (by simpa only [hbound] using hd) (by simpa only [hbound] using hres)
  rw [hk1.cur] at ht2
  have hform : (if d.toNat < 28 then setFull d.toNat (f x y) (Safety.takeRegs th ss ss th) else Safety.takeRegs th ss ss th).form
      = .ready := by
    split
    · exact (takeRegs_form th ss ss th).trans he.2.1
    · exact (takeRegs_form th ss ss th).trans he.2.1
  have hk := hk1.trans hk2
  obtain ⟨hq3, ht3⟩ := complete_ready he hk ht2 hform
  refine ⟨_, _, ?_, ht3, ?_, fun r hr => ?_, fun qid q hq => ?_, fun p => ?_⟩
  · exact (exec_twoSource hi s).trans (by subst hss; exact withOps_ok hop _)
  · split
    · exact passed_regs _ (takeRegs_regs th ss ss th)
    · have := passed_regs (s := s) (Safety.takeRegs th ss ss th).regs (takeRegs_regs th ss ss th); exact this
  · rw [regOf_passed]
    split
    next hd28 =>
      unfold setFull
      rw [regOf_setReg _ _ _ _ hr]
      by_cases hrd : r = d.toNat
      · rw [if_pos hrd, if_pos hrd.symm]
      · rw [if_neg hrd, if_neg (Ne.symm hrd), regOf_takeRegs_afterRead hm hr]
    next hd28 => rw [if_neg (by omega), regOf_takeRegs_afterRead hm hr]
  · have hcore : myCore (commit ss s) = myCore s := by unfold myCore; rw [hk1.cur]
    have h2 := hv2 qid
    rw [hcore, hv1] at h2
    have h3 := (qview_quiet hq3 (myCore s) qid).trans h2
    change qview s (myCore s) qid = some q at hq
    change (qview _ (myCore s) qid).map _ = _
    rw [h3, hq]
    simp only [Option.map_some, hbound]
  · rw [hq3.bytes, hk.bytes]

end Sys2Proof.Proofs.Queues
end

section
/-!
PROOF. The vector instructions of R187 to R192 (O16): the elements of a register as the digits of its number, what writing some
of them leaves, and the rows.
-/
namespace Sys2Proof.Proofs.Vectors
open Sys2Proof Sys2Proof.Machine Sys2Proof.Safety Sys2Proof.Proofs.Raising

set_option Elab.async false

/-! ### Elements as digits -/

section
variable {w i e : Nat}

/-- The digit at place i of a number is between the digits below it and above it. -/
def digitAt (w i low x high : Nat) : Nat := low + 2 ^ (w * i) * (x + 2 ^ w * high)

theorem digitAt_self (n w i : Nat) :
    digitAt w i (n % 2 ^ (w * i)) (n / 2 ^ (w * i) % 2 ^ w) (n / 2 ^ (w * i) / 2 ^ w) = n := by
  rw [digitAt, Nat.mod_add_div, Nat.mod_add_div]

theorem digitAt_div {low : Nat} (x high : Nat) (hl : low < 2 ^ (w * i)) : digitAt w i low x high / 2 ^ (w * i) = x + 2 ^ w * high := by
  rw [digitAt, Nat.add_mul_div_left _ _ (by positivity), Nat.div_eq_of_lt hl, Nat.zero_add]

theorem digit_same {low x : Nat} (high : Nat) (hl : low < 2 ^ (w * i)) (hx : x < 2 ^ w) :
    digitAt w i low x high / 2 ^ (w * i) % 2 ^ w = x := by
  rw [digitAt_div x high hl, Nat.add_mul_mod_self_left, Nat.mod_eq_of_lt hx]

theorem digit_above {low x : Nat} (high : Nat) (hl : low < 2 ^ (w * i)) (hx : x < 2 ^ w) (h : i < e) :
    digitAt w i low x high / 2 ^ (w * e) = high / 2 ^ (w * (e - i - 1)) := by
  have hexp : w * e = w * i + (w + w * (e - i - 1)) := by
    obtain ⟨k, rfl⟩ := Nat.exists_eq_add_of_lt h
    rw [show i + k + 1 - i - 1 = k by omega]; ring
  rw [hexp, pow_add, pow_add, ← Nat.div_div_eq_div_mul, ← Nat.div_div_eq_div_mul, digitAt_div x high hl,
    Nat.add_mul_div_left _ _ (by positivity), Nat.div_eq_of_lt hx, Nat.zero_add]

theorem digit_below {low : Nat} (x high : Nat) (h : e < i) :
    digitAt w i low x high / 2 ^ (w * e) % 2 ^ w = low / 2 ^ (w * e) % 2 ^ w := by
  have hexp : w * i = w * e + (w + w * (i - e - 1)) := by
    obtain ⟨k, rfl⟩ := Nat.exists_eq_add_of_lt h
    rw [show e + k + 1 - e - 1 = k by omega]; ring
  rw [digitAt, hexp, pow_add, pow_add, Nat.mul_assoc, Nat.mul_assoc, Nat.add_mul_div_left _ _ (by positivity),
    Nat.add_mul_mod_self_left]

/-- An element is inside its register. -/
theorem place_le (h : e < 512 / w) : w * e + w ≤ 512 := by
  calc w * e + w = (e + 1) * w := by ring
    _ ≤ 512 / w * w := Nat.mul_le_mul_right _ h
    _ ≤ 512 := Nat.div_mul_le_self ..

theorem digitAt_lt {low x high : Nat} (h : w * i + w ≤ 512) (hl : low < 2 ^ (w * i)) (hx : x < 2 ^ w)
    (hh : high < 2 ^ (512 - (w * i + w))) : digitAt w i low x high < 2 ^ 512 := by
  have h1 : x + 2 ^ w * high < 2 ^ w * 2 ^ (512 - (w * i + w)) := by
    calc x + 2 ^ w * high < 2 ^ w + 2 ^ w * high := by omega
      _ = 2 ^ w * (high + 1) := by ring
      _ ≤ _ := Nat.mul_le_mul_left _ hh
  calc digitAt w i low x high < 2 ^ (w * i) + 2 ^ (w * i) * (x + 2 ^ w * high) := by unfold digitAt; omega
    _ = 2 ^ (w * i) * (x + 2 ^ w * high + 1) := by ring
    _ ≤ 2 ^ (w * i) * (2 ^ w * 2 ^ (512 - (w * i + w))) := Nat.mul_le_mul_left _ h1
    _ = 2 ^ 512 := by rw [← pow_add, ← pow_add]; congr 1; omega

/-- Writing an element replaces its digit. -/
theorem toNat_setVelem (v : Vec) (x : Nat) (h : i < 512 / w) : (setVelem v w i x).toNat =
    digitAt w i (v.toNat % 2 ^ (w * i)) (x % 2 ^ w) (v.toNat / 2 ^ (w * i) / 2 ^ w) := by
  have hv := digitAt_self v.toNat w i
  have hplace := place_le h
  have hlt : digitAt w i (v.toNat % 2 ^ (w * i)) (x % 2 ^ w) (v.toNat / 2 ^ (w * i) / 2 ^ w) < 2 ^ 512 := by
    refine digitAt_lt hplace (Nat.mod_lt _ (by positivity)) (Nat.mod_lt _ (by positivity)) ?_
    rw [Nat.div_div_eq_div_mul, ← pow_add]
    refine Nat.div_lt_of_lt_mul (v.isLt.trans_eq ?_)
    rw [← pow_add]; congr 1; omega
  unfold setVelem
  rw [BitVec.toNat_ofNat]
  suffices hsum : v.toNat - velem v w i * 2 ^ (w * i) + x % 2 ^ w * 2 ^ (w * i) =
      digitAt w i (v.toNat % 2 ^ (w * i)) (x % 2 ^ w) (v.toNat / 2 ^ (w * i) / 2 ^ w) by
    rw [hsum, Nat.mod_eq_of_lt hlt]
  unfold velem
  unfold digitAt at hv ⊢
  generalize v.toNat % 2 ^ (w * i) = low at *
  generalize v.toNat / 2 ^ (w * i) % 2 ^ w = old at *
  generalize v.toNat / 2 ^ (w * i) / 2 ^ w = high at *
  rw [← hv]
  generalize 2 ^ (w * i) = p
  rw [Nat.mul_add, Nat.mul_add, Nat.mul_comm old p, Nat.mul_comm (x % 2 ^ w) p]
  omega

theorem elem_setVelem (v : Vec) (x : Nat) (hi : i < 512 / w) :
    elem (setVelem v w i x) w e = if e = i then x % 2 ^ w else elem v w e := by
  have hl : v.toNat % 2 ^ (w * i) < 2 ^ (w * i) := Nat.mod_lt _ (by positivity)
  have hx : x % 2 ^ w < 2 ^ w := Nat.mod_lt _ (by positivity)
  have hold : v.toNat / 2 ^ (w * i) % 2 ^ w < 2 ^ w := Nat.mod_lt _ (by positivity)
  unfold elem
  rw [toNat_setVelem v x hi]
  split
  next h => subst h; exact digit_same _ hl hx
  next h =>
    have hv := digitAt_self v.toNat w i
    rcases Nat.lt_or_gt_of_ne h with h | h
    · rw [digit_below _ _ h]
      conv_rhs => rw [← hv, digit_below _ _ h]
    · rw [digit_above _ hl hx h]
      conv_rhs => rw [← hv, digit_above _ hl hold h]

/-- The elements of es have the values of f, the others are as they were. -/
theorem elem_putElems (es : List Nat) (f : Nat → Nat) (v : Vec) (h : ∀ i ∈ es, i < 512 / w) :
    elem (putElems w es f v) w e = if e ∈ es then f e % 2 ^ w else elem v w e := by
  unfold putElems
  induction es generalizing v with
  | nil => simp
  | cons i es ih =>
    rw [List.foldl_cons, ih _ fun j hj => h j (List.mem_cons_of_mem _ hj), elem_setVelem _ _ (h i (List.mem_cons_self ..))]
    by_cases he : e ∈ es
    · simp [he]
    · by_cases hei : e = i <;> simp [he, hei]

end

/-! ### The model's names for the statement's -/

section
variable (t : BitVec 3) (th : Thread) (k : BitVec 2) (w x : Nat)

theorem elemBits_eq_width : elemBits t = width t := by
  revert t; decide

theorem width_pos : 0 < width t := by
  revert t; decide

theorem maskOf_eq_mask : maskOf th k = mask th k := by
  obtain rfl | rfl | rfl | rfl : k = 0 ∨ k = 1 ∨ k = 2 ∨ k = 3 := by revert k; decide
  all_goals rfl

theorem toSigned_eq_signedOf (hw : 0 < w) : toSigned x w = signedOf w x := by
  unfold toSigned signedOf
  rw [if_neg (Nat.pos_iff_ne_zero.1 hw)]

theorem elem_lt (v : Vec) (w e : Nat) : elem v w e < 2 ^ w := Nat.mod_lt _ (by positivity)

theorem mem_enabledList {m : BitVec 16} {n e : Nat} : e ∈ enabledList m w n ↔ e < n ∧ on m w e = true := by
  unfold enabledList
  rw [List.mem_filter, List.mem_range]
  rfl

/-- A signed value modulo 2 ^ w is the code it is the value of. -/
theorem modTo_signedOf (h : x < 2 ^ w) : modTo w (signedOf w x) = x := by
  unfold modTo signedOf
  rw [Nat.mod_eq_of_lt h]
  split
  · norm_cast
    exact Nat.mod_eq_of_lt h
  · rw [Int.sub_emod_right]
    norm_cast
    exact Nat.mod_eq_of_lt h

end

/-! ### The rows -/

/-- What the elements of V[d] are after a row: f of the elements read where it writes, as they were elsewhere. -/
def RowElems (F : Thread → Vec) (d a b : BitVec 5) (k : BitVec 2) (t : BitVec 3) (all : Bool)
    (f : BitVec 16 → (Nat → Nat) → (Nat → Nat) → (Nat → Nat) → Nat → Nat) : Prop :=
  ∀ th e, e < 512 / width t → elem (F th) (width t) e =
    if all = true ∨ on (mask th k) (width t) e = true then
      f (mask th k) (elem (vreg th a) (width t)) (elem (vreg th b) (width t)) (elem (vreg th d) (width t)) e % 2 ^ width t
    else elem (vreg th d) (width t) e

section
variable {d a b : BitVec 5} {k : BitVec 2} {t : BitVec 3} {all : Bool}
  {f : BitVec 16 → (Nat → Nat) → (Nat → Nat) → (Nat → Nat) → Nat → Nat}

/-- A row that writes the enabled elements with g. -/
theorem rowElems_enabled {g : Thread → Nat → Nat}
    (h : ∀ th e, g th e % 2 ^ width t =
      f (mask th k) (elem (vreg th a) (width t)) (elem (vreg th b) (width t)) (elem (vreg th d) (width t)) e % 2 ^ width t) :
    RowElems (fun th => putElems (elemBits t) (enabledList (maskOf th k) (elemBits t) (elemCount (elemBits t))) (g th) (vecReg th d))
      d a b k t false f := by
  intro th e he
  beta_reduce
  rw [elemBits_eq_width, maskOf_eq_mask, elemCount, elem_putElems _ _ _ fun i hi => ((mem_enabledList _).1 hi).1, h]
  simp only [mem_enabledList, he, true_and, Bool.false_eq_true, false_or]
  rfl

/-- A row that writes every element with g. -/
theorem rowElems_all {g : Thread → Nat → Nat}
    (h : ∀ th e, g th e % 2 ^ width t =
      f (mask th k) (elem (vreg th a) (width t)) (elem (vreg th b) (width t)) (elem (vreg th d) (width t)) e % 2 ^ width t) :
    RowElems (fun th => putElems (elemBits t) (List.range (elemCount (elemBits t))) (g th) (vecReg th d)) d a b k t true f := by
  intro th e he
  beta_reduce
  rw [elemBits_eq_width, elemCount, elem_putElems _ _ _ fun i hi => List.mem_range.1 hi, if_pos (List.mem_range.2 he), h]
  simp

/-- A row that writes the enabled elements with g of the two elements read in the same place. -/
theorem rowElems_lanewise {g h : Nat → Nat → Nat}
    (hg : ∀ x y, x < 2 ^ width t → y < 2 ^ width t → g x y % 2 ^ width t = h x y % 2 ^ width t) :
    RowElems (lanewise d a b k (elemBits t) g) d a b k t false fun _ A B _ e => h (A e) (B e) := by
  refine rowElems_enabled (g := fun th e => g (velem (vecReg th a) (elemBits t) e) (velem (vecReg th b) (elemBits t) e)) ?_
  intro th e
  rw [elemBits_eq_width]
  exact hg _ _ (elem_lt ..) (elem_lt ..)

end

/-! ### The arithmetic of a row -/

section
variable {w x y : Nat}

theorem wrapTo_sub (hy : y < 2 ^ w) : wrapTo w ((x : Int) - y) % 2 ^ w = (x + (2 ^ w - y)) % 2 ^ w := by
  have h : ((x : Int) - y) % 2 ^ w = ((x + (2 ^ w - y) : Nat) : Int) % 2 ^ w := by
    rw [Nat.cast_add, Nat.cast_sub hy.le, ← add_sub_assoc, add_sub_right_comm]
    push_cast
    exact (Int.add_emod_right ..).symm
  unfold wrapTo
  rw [h]
  norm_cast
  exact Nat.mod_mod ..

theorem minSigned_eq (hw : 0 < w) (hx : x < 2 ^ w) (hy : y < 2 ^ w) :
    (if toSigned x w ≤ toSigned y w then x else y) = modTo w (min (signedOf w x) (signedOf w y)) := by
  rw [toSigned_eq_signedOf _ _ hw, toSigned_eq_signedOf _ _ hw, min_def, apply_ite (modTo w), modTo_signedOf _ _ hx, modTo_signedOf _ _ hy]

theorem maxSigned_eq (hw : 0 < w) (hx : x < 2 ^ w) (hy : y < 2 ^ w) :
    (if toSigned x w ≤ toSigned y w then y else x) = modTo w (max (signedOf w x) (signedOf w y)) := by
  rw [toSigned_eq_signedOf _ _ hw, toSigned_eq_signedOf _ _ hw, max_def, apply_ite (modTo w), modTo_signedOf _ _ hx, modTo_signedOf _ _ hy]

/-- To flip the sign bit is to add it. -/
theorem xor_signBit (hw : 0 < w) (hx : x < 2 ^ w) : (x ^^^ 2 ^ (w - 1)) % 2 ^ w = (x + 2 ^ (w - 1)) % 2 ^ w := by
  obtain ⟨n, rfl⟩ : ∃ n, w = n + 1 := ⟨w - 1, by omega⟩
  refine Nat.eq_of_testBit_eq fun j => ?_
  rw [Nat.testBit_mod_two_pow, Nat.testBit_mod_two_pow, Nat.add_sub_cancel, Nat.testBit_xor, Nat.testBit_two_pow, Nat.add_comm x]
  rcases Nat.lt_trichotomy j n with h | rfl | h
  · rw [Nat.testBit_two_pow_add_gt h]
    simp [h.ne']
  · rw [Nat.testBit_two_pow_add_eq]
    simp
  · simp [show ¬ j < n + 1 by omega]

end

/-- The values of an expansion: the enabled elements take the first of the source in order. -/
theorem zipIdx_filter_range (p : Nat → Bool) (n : Nat) :
    ((List.range n).filter p).zipIdx = ((List.range n).filter p).map fun e => (e, ((List.range e).filter p).length) := by
  induction n with
  | zero => rfl
  | succ n ih =>
    rw [List.range_succ, List.filter_append, List.zipIdx_append, List.map_append, ih]
    by_cases hp : p n = true <;> simp [hp]

theorem execVexpand_eq (d a : BitVec 5) (k : BitVec 2) (t : BitVec 3) (s : State) :
    execVexpand d a k t s = vecOp d [a] (fun th =>
      putElems (elemBits t) (enabledList (maskOf th k) (elemBits t) (elemCount (elemBits t)))
        (fun e => elem (vreg th a) (width t) ((List.range e).filter (on (mask th k) (width t))).length) (vecReg th d)) s := by
  unfold execVexpand
  dsimp only
  congr 1
  funext th
  unfold enabledList putElems
  rw [zipIdx_filter_range, List.foldl_map, elemBits_eq_width, maskOf_eq_mask]
  rfl

/-- R187 to R192: the meaning of each row is a vector operation that gives the row's elements. -/
theorem exec_vecRow {i : Instr} {d a b : BitVec 5} {rs : List (BitVec 5)} {k : BitVec 2} {t : BitVec 3} {all : Bool}
    {f : BitVec 16 → (Nat → Nat) → (Nat → Nat) → (Nat → Nat) → Nat → Nat} (h : vecRow i = some (d, rs, k, t, all, (a, b), f))
    (s : State) : ∃ F, exec i s = vecOp d rs F s ∧ RowElems F d a b k t all f := by
  have hw := width_pos t
  have hbits := elemBits_eq_width t
  cases i
  case vadd => cases h; exact ⟨_, rfl, rowElems_lanewise (h := fun x y => x + y) fun _ _ _ _ => rfl⟩
  case vsub =>
    cases h
    refine ⟨_, rfl, rowElems_lanewise (h := fun x y => x + (2 ^ width t - y)) fun _ _ _ hy => ?_⟩
    rw [hbits]
    exact wrapTo_sub hy
  case vmul => cases h; exact ⟨_, rfl, rowElems_lanewise (h := fun x y => x * y) fun _ _ _ _ => rfl⟩
  case vmulh =>
    cases h
    refine ⟨_, rfl, rowElems_lanewise
      (h := fun x y => modTo (width t) (signedOf (width t) x * signedOf (width t) y / 2 ^ width t)) fun _ _ _ _ => ?_⟩
    rw [hbits, toSigned_eq_signedOf _ _ hw, toSigned_eq_signedOf _ _ hw]
    rfl
  case vmin =>
    cases h
    refine ⟨_, rfl, rowElems_lanewise
      (h := fun x y => modTo (width t) (min (signedOf (width t) x) (signedOf (width t) y))) fun _ _ hx hy => ?_⟩
    rw [hbits, minSigned_eq hw hx hy]
  case vmax =>
    cases h
    refine ⟨_, rfl, rowElems_lanewise
      (h := fun x y => modTo (width t) (max (signedOf (width t) x) (signedOf (width t) y))) fun _ _ hx hy => ?_⟩
    rw [hbits, maxSigned_eq hw hx hy]
  case vminu =>
    cases h
    exact ⟨_, rfl, rowElems_lanewise (h := fun x y => min x y) fun _ _ _ _ => by rw [Nat.min_def]⟩
  case vmaxu =>
    cases h
    exact ⟨_, rfl, rowElems_lanewise (h := fun x y => max x y) fun _ _ _ _ => by rw [Nat.max_def]⟩
  case vabs =>
    cases h
    refine ⟨_, rfl, rowElems_lanewise (h := fun x _ => (signedOf (width t) x).natAbs) fun _ _ _ _ => ?_⟩
    rw [hbits, toSigned_eq_signedOf _ _ hw]
  case vmac =>
    cases h
    unfold exec execVmac
    refine ⟨_, rfl, rowElems_enabled fun th e => ?_⟩
    rw [hbits]
    rfl
  case vand => cases h; exact ⟨_, rfl, rowElems_lanewise (h := fun x y => x &&& y) fun _ _ _ _ => rfl⟩
  case vor => cases h; exact ⟨_, rfl, rowElems_lanewise (h := fun x y => x ||| y) fun _ _ _ _ => rfl⟩
  case vxor => cases h; exact ⟨_, rfl, rowElems_lanewise (h := fun x y => x ^^^ y) fun _ _ _ _ => rfl⟩
  case vnot =>
    cases h
    exact ⟨_, rfl, rowElems_lanewise (h := fun x _ => 2 ^ width t - 1 - x) fun _ _ _ _ => by rw [hbits]⟩
  case vshl =>
    cases h
    exact ⟨_, rfl, rowElems_lanewise (h := fun x y => x * 2 ^ (y % width t)) fun _ _ _ _ => by rw [hbits]⟩
  case vshr =>
    cases h
    exact ⟨_, rfl, rowElems_lanewise (h := fun x y => x / 2 ^ (y % width t)) fun _ _ _ _ => by rw [hbits]⟩
  case vsra =>
    cases h
    refine ⟨_, rfl, rowElems_lanewise
      (h := fun x y => modTo (width t) (signedOf (width t) x / 2 ^ (y % width t))) fun _ _ _ _ => ?_⟩
    rw [hbits, toSigned_eq_signedOf _ _ hw]
    rfl
  case vfabs =>
    cases h
    exact ⟨_, rfl, rowElems_lanewise (h := fun x _ => x % 2 ^ (width t - 1)) fun _ _ _ _ => by rw [hbits]⟩
  case vfneg =>
    cases h
    refine ⟨_, rfl, rowElems_lanewise (h := fun x _ => x + 2 ^ (width t - 1)) fun _ _ hx _ => ?_⟩
    rw [hbits]
    exact xor_signBit hw hx
  case vsel =>
    cases h
    unfold exec execVsel
    refine ⟨_, rfl, rowElems_all fun th e => ?_⟩
    rw [hbits, maskOf_eq_mask]
    by_cases he : on (mask th k) (width t) e = true
    · rw [if_pos (show enabled _ _ _ = true from he), if_pos he]
      rfl
    · rw [if_neg (show ¬ enabled _ _ _ = true from he), if_neg he]
      rfl
  case vperm =>
    cases h
    unfold exec execVperm
    refine ⟨_, rfl, rowElems_enabled fun th e => ?_⟩
    rw [hbits]
    rfl
  case vcompress =>
    cases h
    unfold exec execVcompress
    refine ⟨_, rfl, rowElems_all fun th e => ?_⟩
    rw [hbits, maskOf_eq_mask, List.getElem?_map]
    rfl
  case vexpand =>
    cases h
    exact ⟨_, execVexpand_eq .., rowElems_enabled fun th e => rfl⟩
  all_goals cases h

/-! ### The instruction -/

section
variable {s : State} {th : Thread} {d : BitVec 5} {rs : List (BitVec 5)} {F : Thread → Vec}

/-- R35: a word that names a register the core does not show. -/
theorem vecOp_of_not_visible (h : ¬ Visible s (d :: rs)) : vecOp d rs F s = .next (raise .illinst 5 0 s) := by
  unfold vecOp vecGate
  rw [if_pos]
  rw [List.any_eq_true]
  unfold Visible at h
  push Not at h
  obtain ⟨r, hr, hle⟩ := h
  exact ⟨r, hr, decide_eq_true hle⟩

/-- R182, R185: a vector operation is charged, writes its register and completes. -/
theorem vecOp_of_visible (he : Executing s th) (h : Visible s (d :: rs)) :
    vecOp d rs F s = .next (complete (charge th.ctx 200 s) (writeVec d.toNat (F th) (charge th.ctx 200 s))) := by
  have hme := me_of he.1
  have hcharged : threadAt (charge th.ctx 200 s) (charge th.ctx 200 s).cur = some th := he.1
  unfold vecOp vecGate
  rw [if_neg, hme, if_pos he.2.1]
  · exact (withOps_ok (operands_none hcharged (by simp)) _).trans (by rw [me_of hcharged])
  rw [List.any_eq_true]
  rintro ⟨r, hr, hle⟩
  exact absurd (of_decide_eq_true hle) (Nat.not_le.2 (h r hr))

end

/-- The thread after a vector operation that writes v. -/
def wroteVec (th : Thread) (d : BitVec 5) (v : Vec) : Thread :=
  { th with vecs := th.vecs.setIfInBounds d.toNat v, status := setFld th.status 4 1 1 }

theorem vreg_wroteVec (th : Thread) (d : BitVec 5) (v : Vec) : vreg (wroteVec th d v) d = v := by
  unfold vreg wroteVec
  rw [Vector.getElem?_setIfInBounds_self]
  simp [d.isLt]

theorem vecOnly_wroteVec (s : State) (th : Thread) (d : BitVec 5) (v : Vec) :
    VecOnly s th (passed s (wroteVec th d v)) d.toNat id :=
  ⟨rfl, fun _ _ hr => Vector.getElem?_setIfInBounds_ne (Ne.symm hr)⟩

end Sys2Proof.Proofs.Vectors

namespace Sys2Proof
open Sys2Proof.Machine Sys2Proof.Safety Sys2Proof.Proofs.Vectors Sys2Proof.Proofs.Raising

/-- Settles O16: a row's meaning is a vector operation (`exec_vecRow`), which leaves the elements of its row. -/
theorem vectorResults : Obligations.VectorResults := by
  unfold Obligations.VectorResults
  constructor
  · intro i d rs k t all a b f hrow s th hc he hv
    obtain ⟨F, hexec, helems⟩ := exec_vecRow hrow s
    have hcharged : Executing (charge th.ctx 200 s) th := he
    have hwrote : threadAt (writeVec d.toNat (F th) (charge th.ctx 200 s)) (charge th.ctx 200 s).cur =
      some (wroteVec th d (F th)) := threadAt_mapMe hcharged.1 _
    obtain ⟨hquiet, hbecomes⟩ := complete_of hcharged (quiet_mapMe _ _) hwrote he.2.1
    refine ⟨_, _, hexec.trans (vecOp_of_visible he hv), hbecomes, vecOnly_wroteVec .., (quiet_charge hc _ _).trans hquiet, ?_⟩
    intro e hlt
    rw [← helems th e hlt]
    exact congrArg (elem · (width t) e) (vreg_wroteVec th d (F th))
  · intro i d rs k t all ab f hrow s th hc ht hv
    obtain ⟨F, hexec, -⟩ := exec_vecRow (a := ab.1) (b := ab.2) hrow s
    exact ⟨_, hexec.trans (vecOp_of_not_visible hv), raises_self ht .illinst 5 0⟩

end Sys2Proof
end

section
/-!
PROOF. O10 (R98, R174) fails: the request of a posted load whose translation is not known at issue names the entries that stand
in its core's store queue, for it takes the bytes of those that prove to write its own (`ReadReq.queued`). The statement's
request, `readReq`, names none whatever the queue holds.
-/
namespace Sys2Proof.Proofs.PostedLoad
open Sys2Proof.Machine Sys2Proof.Safety

set_option Elab.async false

/-- A thread whose register 1 holds an address of the paged space that is no multiple of 8. -/
def poster : Thread :=
  { tid := 1, ctx := 1, pc := 0x1000, regs := (Vector.replicate 28 {}).setIfInBounds 1 { st := .full, val := 1 } }

/-- A store of the thread that has not been acknowledged. -/
def earlierStore : SqEnt := { id := 5, th := ⟨0, 1, 1⟩, va := 0x80, cells := cellsAt 0x80 [7], home := 0, sent := true }

/-- The machine where the thread issues, with its earlier store in the queue of core 0. -/
def postsBehindStore : State :=
  { State.reset with
    slots := [(0, { occ := .thread poster })]
    cores := [(0, { sq := [earlierStore], sqId := 6 })] }

/-- The posted load of the thread: 8 bytes into register 2. -/
def postedLoad : Instr := .ldp 2 1 3 0 0

/-- The entries of the core's store queue that the read requests of an agenda name. -/
def queuedNamed (l : List Flight) : List (List Nat) :=
  l.filterMap fun f => match f.ev with
    | .homeRead r => some r.queued
    | _ => none

theorem postsBehindStore_canonical : Canonical postsBehindStore := by
  unfold Canonical MemOk; decide

theorem poster_executing : Executing postsBehindStore poster :=
  ⟨rfl, rfl, by decide⟩

/-- The address is out of rule, which the home will find. -/
theorem posted_check (pa : Nat) : check postsBehindStore (postsBehindStore.cur / 16) poster.ctx (privOf poster)
    (effAddr (val poster 1) 0 8) 8 .read false ≠ .ok pa := by
  have h : check postsBehindStore (postsBehindStore.cur / 16) poster.ctx (privOf poster) (effAddr (val poster 1) 0 8) 8 .read
    false = .fault .misalign := by decide
  rw [h]
  exact nofun

/-- The request names the store that stands in the queue. -/
theorem postedLoad_names_queue :
    ∃ t, exec postedLoad postsBehindStore = .next t ∧ queuedNamed t.agenda = [[5]] :=
  ⟨_, rfl, by decide⟩

/-- Refutes O10: in `postsBehindStore` the posted load's request names entry 5 of the store queue, the statement's names none. -/
theorem not_atomicsAndPostedLoads : ¬ Obligations.AtomicsAndPostedLoads := by
  unfold Obligations.AtomicsAndPostedLoads
  rintro ⟨⟨-, -, hldp⟩, -⟩
  obtain ⟨-, hsend⟩ := hldp 2 1 3 0 0 postsBehindStore poster _ _ postsBehindStore_canonical poster_executing rfl
    (by unfold ReadyNow; decide) (by unfold Writable; decide) (by decide) rfl (by decide) rfl
  obtain ⟨t, hexec, -, hagenda, -⟩ := hsend [] (Or.inl ⟨posted_check, rfl⟩) (fun f hf => by cases hf)
  obtain ⟨u, hexec', hnamed⟩ := postedLoad_names_queue
  have htu : t = u := Host.Outcome.next.inj (hexec.symm.trans hexec')
  rw [← htu, hagenda] at hnamed
  cases hnamed

end Sys2Proof.Proofs.PostedLoad
end

section
/-!
PROOF. O45 (R419, R424, R471) fails: a delivery queues its trace record before it writes the fault record, and a drop of that
trace record counts up a register of the debug block (R470). Nothing in the statement keeps a context's table entry out of the
debug block. In the machine below the entry of context 0 lies there, so the count of drops is its VDOM: the drop moves the vault
out of the record's page, and the record, which was writable when the delivery began, is refused.
-/
namespace Sys2Proof.Proofs.TrapDelivery
open Sys2Proof.Machine Sys2Proof.Safety Sys2Proof.Proofs.Frames Sys2Proof.Proofs.Faults

set_option Elab.async false

/-! ### Device writes of scratchpad bytes -/

section
variable {s : State} {cells : List (Nat × Byte)}

/-- A machine whose homes hold nothing: no directory entry, no word's entry, no slice's, no storage queue's. -/
def BareHomes (s : State) : Prop := s.dir = [] ∧ s.words = [] ∧ s.slices = [] ∧ s.sqes = []

theorem foldl_eq_self {α β : Type} {f : β → α → β} {b : β} {l : List α} (h : ∀ x ∈ l, f b x = b) : l.foldl f b = b := by
  induction l with
  | nil => rfl
  | cons x l ih => rw [List.foldl_cons, h x (List.mem_cons_self ..), ih fun y hy => h y (List.mem_cons_of_mem _ hy)]

theorem not_inDram_of_spad {a : Nat} (h : spadBase ≤ a ∧ a < accBase) : inDram (a / 32 * 32) = false ∧ inPeer (a / 32 * 32) = false := by
  have hs : spadBase = 2 ^ 40 := rfl
  have ha : accBase = 2 ^ 41 := rfl
  have ht : dramTop = 0x6000000000 := rfl
  have hl : altBase = 2 ^ 43 := rfl
  have hp : peerBase = 2 ^ 50 := rfl
  unfold inDram inPeer inAlt
  simp only [Bool.or_eq_false_iff, Bool.and_eq_false_iff, decide_eq_false_iff_not]
  omega

theorem mem_wordsOf {w : Nat} (h : w ∈ wordsOf cells) : ∃ c ∈ cells, c.1 / 8 = w := by
  suffices key : ∀ (cs : List (Nat × Byte)) (ws : List Nat),
      w ∈ cs.foldl (fun ls c => if c.1 / 8 ∈ ls then ls else ls ++ [c.1 / 8]) ws → w ∈ ws ∨ ∃ c ∈ cs, c.1 / 8 = w by
    exact (key cells [] h).resolve_left nofun
  intro cs
  induction cs with
  | nil => exact fun ws h => Or.inl h
  | cons c cs ih =>
    intro ws h
    rcases ih _ h with hw | ⟨x, hx, hxw⟩
    · dsimp only at hw
      split at hw
      · exact Or.inl hw
      · rcases List.mem_append.1 hw with hw | hw
        · exact Or.inl hw
        · exact Or.inr ⟨c, List.mem_cons_self .., (List.mem_singleton.1 hw).symm⟩
    · exact Or.inr ⟨x, List.mem_cons_of_mem _ hx, hxw⟩

/-- Bytes of scratchpads go into memory, and nothing else changes. -/
theorem rawWrite_spad (hp : s.poison = []) (h : ∀ c ∈ cells, spadBase ≤ c.1 ∧ c.1 < accBase) :
    rawWrite s cells = { s with mem := putCells s.mem cells } := by
  have hdirty : (linesOf cells).foldl dirtyLine s = s := by
    refine foldl_eq_self fun l hl => ?_
    obtain ⟨c, hc, rfl⟩ := mem_linesOf hl
    unfold dirtyLine
    rw [(not_inDram_of_spad (h c hc)).1]
    rfl
  have hlow : ∀ c ∈ cells, c.1 < peerBase := fun c hc => (h c hc).2.trans (by decide)
  have hpeers : cells.filter (fun c => decide (peerBase ≤ c.1) && decide (c.1 < debugBase)) = [] := by
    rw [List.filter_eq_nil_iff]
    intro c hc
    simp [Nat.not_le.2 (hlow c hc)]
  have hmem : cells.filter (fun c => decide (c.1 < peerBase)) = cells :=
    List.filter_eq_self.2 fun c hc => decide_eq_true (hlow c hc)
  have hregs : ((wordsOf cells).filter (fun w => (List.range 8).all (fun i => cells.any (fun c => c.1 == w * 8 + i)))).filter
      (fun w => decide (debugBase ≤ w * 8)) = [] := by
    rw [List.filter_eq_nil_iff]
    intro w hw
    obtain ⟨c, hc, rfl⟩ := mem_wordsOf (List.mem_filter.1 hw).1
    have hdebug : debugBase = 2 ^ 51 := rfl
    have hpeer : peerBase = 2 ^ 50 := rfl
    have := hlow c hc
    simp only [decide_eq_true_eq]
    omega
  unfold rawWrite
  simp only [hdirty, hpeers, hmem, hregs, hp, List.map_nil, List.append_nil, List.filter_nil, ite_self]

theorem markMods_eq (cs : List (Nat × Byte)) : ∃ cores,
    cs.foldl (fun s c => if isSpad c.1 then markMod (spadCore c.1) ((c.1 - spadBase) % spadSize) s else s) s =
      { s with cores := cores } := by
  induction cs generalizing s with
  | nil => exact ⟨_, rfl⟩
  | cons c cs ih =>
    rw [List.foldl_cons]
    split
    · unfold markMod
      dsimp only
      split
      · obtain ⟨cores, h⟩ := @ih (setCore s (spadCore c.1) _)
        exact ⟨cores, h⟩
      · exact ih
    · exact ih

/-- A device write of scratchpad bytes where the homes hold nothing: the bytes go into memory, and slots may be marked. -/
theorem devWrite_spad (hb : BareHomes s) (hp : s.poison = []) (h : ∀ c ∈ cells, spadBase ≤ c.1 ∧ c.1 < accBase) :
    ∃ cores, devWrite cells s = { s with mem := putCells s.mem cells, cores := cores } := by
  obtain ⟨hdir, hwords, hslices, hsqes⟩ := hb
  have htile : ∀ home l, tileAt s home l = none := by
    intro home l
    simp [tileAt, sliceAt, hslices, Tab.get]
  have hline : ∀ l, dirAt s l = {} := fun l => by simp [dirAt, hdir, Tab.get]
  have hhome : ∀ l, snoopLine l (collectNow l (devDemote l cells s)) = s := by
    intro l
    have hdemote : devDemote l cells s = s := by simp only [devDemote, htile]
    have hcollect : collectNow l s = s := by simp only [collectNow, hline]
    rw [hdemote, hcollect, snoopLine, hline]
    rfl
  have hlines : (linesOf cells).foldl (fun s l =>
      let s := snoopLine l (collectNow l (devDemote l cells s))
      if (dirAt s l).host then overCopy l cells s else s) s = s := by
    refine foldl_eq_self fun l _ => ?_
    simp only [hhome, hline]
    rfl
  unfold devWrite
  rw [hlines]
  unfold performWrite
  rw [rawWrite_spad hp h]
  set u : State := { s with mem := putCells s.mem cells } with hu
  have hregions : noteRegions cells u = u := by simp [noteRegions, hu, hsqes]
  have hafter : (linesOf cells).foldl (fun s l =>
      if inDram (l * 32) then
        markStale (homePlace (l * 32)) l (invalidateLine (homePlace (l * 32)) l none none s)
      else if inPeer (l * 32) then stalePeer l s
      else s) u = u := by
    refine foldl_eq_self fun l hl => ?_
    obtain ⟨c, hc, rfl⟩ := mem_linesOf hl
    obtain ⟨hdram, hpeer⟩ := not_inDram_of_spad (h c hc)
    simp only [hdram, hpeer, Bool.false_eq_true, if_false]
  have htouch : (wordsOf cells).foldl (fun s w => touchWord (homePlace (w * 8)) w s) u = u := by
    refine foldl_eq_self fun w _ => ?_
    have hword : wordAt u w = {} := by simp [wordAt, hu, hwords, Tab.get]
    simp [touchWord, hword]
  simp only [hregions, hafter, htouch]
  exact markMods_eq cells

end

/-! ### The machine -/

/-- The trap of a user thread. -/
def userTrap : Trap := { cause := .illinst, info := 1, addr := 0, restart := 0x1000, word := 7 }

def trappingThread : Thread := { tid := 0, ctx := 0, pc := 0x1000, form := .trapping userTrap }

/-- Context 0: its trap block at 0x2000 of the linear segment, its faults traced, with no room for a trace record and 2^32 - 1
drops. -/
def tracedCtx : Ctx :=
  { st := .resident, tvec := 0x00F0000000002000
    trace := { w1 := 4, dropped := 0xFFFFFFFF, queues := [(0, List.replicate 256 [])] } }

/-- The thread of slot 0 traps. The page table at 0 is the root and, by its first entry, the next two tables too; its second entry
is a leaf of 1 GiB, of domain 0 and not writable. The fault record lies in its page, at 0x40000000. Context 0's table entry lies
where the debug block shows its trace registers: VDOM is bits [41:32] of the count of drops. The error ring is full. -/
def tableInDebugBlock : State :=
  { State.reset with
    mem := [(0, 1), (8, 9), (10, 1), (13, 8), (0x200B, 0x40), (0x2028, 1)]
    slots := [(0, { occ := .thread trappingThread })]
    ctxs := [(0, tracedCtx)]
    host := { ctxtab := BitVec.ofNat 64 (debugBase + 0x300000) }
    ras := { errtail := 4096 } }

/-- The trap block in memory. -/
def block : TrapBlock := { handler := 0, frec := 0x40000000, hstk := 0, hsize := 0, evbase := 0, evcount := 1, evhead := 0 }

theorem tableInDebugBlock_canonical : Canonical tableInDebugBlock := by
  unfold Canonical MemOk; decide

theorem tableInDebugBlock_ownFrames : OwnFrames tableInDebugBlock := by
  refine ⟨fun home l m h => ?_, fun l d _ h => ?_, fun x h => ?_⟩ <;> cases h

/-! ### What decides a translation -/

/-- A state that shows the units of the device, below a place, what that machine does. -/
structure Shows (n : Nat) (u : State) : Prop where
  dir : u.dir = []
  host : u.host = tableInDebugBlock.host
  cells : (ctxAt u 0).cells = []
  mem : ∀ a, a < n → Tab.get 0 u.mem a = Tab.get 0 tableInDebugBlock.mem a

theorem shows_self (n : Nat) : Shows n tableInDebugBlock := ⟨rfl, rfl, rfl, fun _ _ => rfl⟩

section
variable {n : Nat} {u : State}

theorem curByte_of_shows (h : Shows n u) (hn : n ≤ spadBase) {a : Nat} (ha : a < n) :
    curByte u a = Tab.get 0 tableInDebugBlock.mem a := by
  have hline : dirAt u (a / 32) = {} := by simp [dirAt, h.dir, Tab.get]
  have halt : a < altBase := (ha.trans_le hn).trans (by decide)
  simp only [curByte, hline, rdByte, if_pos halt, h.mem a ha]

/-- A byte of the debug block is its register's. -/
theorem curByte_debug (hdir : u.dir = []) {a : Nat} (ha : debugBase ≤ a) :
    curByte u a = BitVec.ofNat 8 (fld (debugRead u ((a - debugBase) / 8 * 8)) (8 * (a % 8)) 8) := by
  have hline : dirAt u (a / 32) = {} := by simp [dirAt, hdir, Tab.get]
  have hdebug : debugBase = 2 ^ 51 := rfl
  have hpeer : peerBase = 2 ^ 50 := rfl
  have halt : altBase = 2 ^ 43 := rfl
  simp only [curByte, hline, rdByte, if_neg (show ¬ a < altBase by omega), if_neg (show ¬ a < peerBase by omega),
    if_neg (show ¬ a < debugBase by omega)]

theorem cur64_of_shows (h : Shows n u) (hn : n ≤ spadBase) {a : Nat} (ha : a + 8 ≤ n) : cur64 u a = cur64 tableInDebugBlock a := by
  unfold cur64
  refine congrArg (fun l => w64 (leNat l)) (List.map_congr_left fun i hi => ?_)
  have hi := List.mem_range.1 hi
  rw [curByte_of_shows h hn (by omega), curByte_of_shows (shows_self n) hn (by omega)]

theorem leafOk_of_shows (h : Shows n u) (e : Word) (b l i : Nat) : leafOk u e b l i = leafOk tableInDebugBlock e b l i := by
  unfold leafOk inReserved
  rw [h.host]

theorem pointerOk_of_shows (h : Shows n u) (e : Word) : pointerOk u e = pointerOk tableInDebugBlock e := by
  unfold pointerOk inReserved
  rw [h.host]

/-- A pointer in the table is to the table. -/
theorem pteFrame_table : ∀ i, i < 512 → isPointer (cur64 tableInDebugBlock (i * 8)) = true →
    pteFrame (cur64 tableInDebugBlock (i * 8)) = 0 := by
  decide +kernel

theorem bits_lt (x lo n : Nat) : bits x lo n < 2 ^ n := Nat.mod_lt _ (by positivity)

theorem walkFrom_of_shows (h : Shows 4096 u) (va level : Nat) :
    walkFrom u va level 0 = walkFrom tableInDebugBlock va level 0 := by
  have hn : 4096 ≤ spadBase := by decide
  induction level with
  | zero =>
    have hfirst : bits va 16 5 < 32 := bits_lt ..
    have hidx : bits va 12 9 < 512 := bits_lt ..
    unfold walkFrom
    simp only [cur64_of_shows h hn (show 0 + bits va 16 5 * 16 * 8 + 8 ≤ 4096 by omega),
      cur64_of_shows h hn (show 0 + bits va 12 9 * 8 + 8 ≤ 4096 by omega), leafOk_of_shows h]
  | succ level ih =>
    have hidx : bits va (12 + 9 * (level + 1)) (if level = 3 then 8 else 9) < 512 := by
      refine (bits_lt ..).trans_le ?_
      split <;> decide
    unfold walkFrom
    simp only [Nat.zero_add]
    generalize bits va (12 + 9 * (level + 1)) (if level = 3 then 8 else 9) = idx at hidx ⊢
    simp only [cur64_of_shows h hn (show idx * 8 + 8 ≤ 4096 by omega), leafOk_of_shows h, pointerOk_of_shows h]
    by_cases hp : isPointer (cur64 tableInDebugBlock (idx * 8)) = true
    · rw [pteFrame_table idx hidx hp, ih]
    · simp only [hp, Bool.false_eq_true, if_false]

theorem walk_of_shows (h : Shows 4096 u) (va : Nat) : walk u va = walk tableInDebugBlock va := by
  unfold walk
  rw [h.host]
  exact walkFrom_of_shows h va 4

theorem devPa_of_shows (h : Shows 4096 u) (va : Nat) : devPa u 0 va = devPa tableInDebugBlock 0 va := by
  have hcore : ∀ lc, physCore u 0 lc = physCore tableInDebugBlock 0 lc := by
    intro lc
    unfold physCore
    rw [h.cells]
    rfl
  unfold devPa
  simp only [walk_of_shows h, hcore]

theorem Shows.mono {k : Nat} (h : Shows n u) (hk : k ≤ n) : Shows k u :=
  ⟨h.dir, h.host, h.cells, fun a ha => h.mem a (ha.trans_le hk)⟩

theorem blockBytes : ∀ i, i < 64 → devPa tableInDebugBlock 0 (0x00F0000000002000 + i) = some (0x2000 + i) := by
  decide +kernel

/-- The trap block lies below 0x2040. -/
theorem trapBlock_of_shows (h : Shows 0x2040 u) : trapBlock u 0 0x00F0000000002000 = some block := by
  have hpa := devPa_of_shows (h.mono (by decide))
  have hbyte : ∀ i, i < 64 → vByte u 0 (0x00F0000000002000 + i) = vByte tableInDebugBlock 0 (0x00F0000000002000 + i) := by
    intro i hi
    simp only [vByte, hpa, blockBytes i hi]
    rw [curByte_of_shows h (by decide) (by omega), curByte_of_shows (shows_self 0x2040) (by decide) (by omega)]
  have hword : ∀ k, k < 8 → v64 u 0 (0x00F0000000002000 + 8 * k) = v64 tableInDebugBlock 0 (0x00F0000000002000 + 8 * k) := by
    intro k hk
    refine congrArg (fun l => w64 (leNat l)) (List.map_congr_left fun i hi => ?_)
    have hi := List.mem_range.1 hi
    rw [Nat.add_assoc]
    exact hbyte _ (by omega)
  have hself : trapBlock tableInDebugBlock 0 0x00F0000000002000 = some block := by decide +kernel
  rw [← hself]
  unfold trapBlock
  have ha : (0x00F0000000002000 : Word).toNat = 0x00F0000000002000 := by decide
  simp only [ha, hpa, hword 0 (by decide), hword 1 (by decide), hword 2 (by decide), hword 3 (by decide), hword 4 (by decide),
    hword 5 (by decide), hword 6 (by decide), hword 7 (by decide)]

theorem walk_record : walk tableInDebugBlock 0x40000000 = .leaf 0x40000000 30 0x80000010009 8 := by decide +kernel

/-- With the vault in another domain, the record's page refuses a supervisor's write. -/
theorem not_recordWritable (h : Shows 4096 u) (hv : vdom u 0 = 1) : recordWritable u 0 false 0x40000000 = false := by
  have hregion : region (w64 0x40000000) = .paged := by decide
  have hleaf : (pteDomain (0x80000010009 : Word) == 1) = false ∧ pteW (0x80000010009 : Word) = false := by decide
  unfold recordWritable
  simp only [hregion, walk_of_shows h, walk_record, hv, hleaf.1, hleaf.2, Bool.false_and, Bool.or_false, Bool.and_false]

end

/-! ### The delivery -/

/-- Context 0 after the trace record has been dropped. -/
def droppedCtx : Ctx := { tracedCtx with trace := { tracedCtx.trace with dropped := 0x100000000, gap := 1 } }

/-- The thread when its trap has been delivered. -/
def trappedThread : Thread := { trappingThread with form := .trapped, pc := userTrap.restart }

/-- The machine with the slot record written, to memory m, and the trace record dropped. -/
def afterTrace (m : Memory) (cores : Tab Core) : State :=
  { setThread tableInDebugBlock 0 trappedThread with mem := m, cores := cores, ctxs := [(0, droppedCtx)] }

section
variable {m : Memory} {cores : Tab Core}

theorem shows_afterTrace (h : ∀ a, a < spadBase → Tab.get 0 m a = Tab.get 0 tableInDebugBlock.mem a) :
    Shows spadBase (afterTrace m cores) := ⟨rfl, rfl, rfl, h⟩

/-- The VDOM is the count of drops from bit 32 on. -/
theorem vdom_afterTrace : vdom (afterTrace m cores) 0 = 1 := by
  have hbyte : ∀ i, i < 8 → curByte (afterTrace m cores) (debugBase + 0x300018 + i) = BitVec.ofNat 8 (fld 0x100000000 (8 * i) 8) := by
    intro i hi
    rw [curByte_debug rfl (by omega)]
    have hdebug : debugBase = 2 ^ 51 := rfl
    rw [show (debugBase + 0x300018 + i - debugBase) / 8 * 8 = 0x300018 by omega, show (debugBase + 0x300018 + i) % 8 = i by omega]
    rfl
  have hword : ctxWord (afterTrace m cores) 0 0x18 = 0x100000000 := by
    have hfield : ctxField (afterTrace m cores) 0 0x18 = debugBase + 0x300018 := by
      show (BitVec.ofNat 64 (debugBase + 0x300000)).toNat + 1024 * 0 + 0x18 = _
      decide
    unfold ctxWord cur64
    rw [hfield, List.map_congr_left (g := fun i => BitVec.ofNat 8 (fld 0x100000000 (8 * i) 8)) fun i hi => hbyte i (List.mem_range.1 hi)]
    decide
  rw [vdom, hword]
  decide

/-- The fault record is refused. -/
theorem deliverThrough_afterTrace (h : ∀ a, a < spadBase → Tab.get 0 m a = Tab.get 0 tableInDebugBlock.mem a) :
    deliverThrough tracedCtx.tvec false 0 trappingThread userTrap .illinst 1 (afterTrace m cores) = none := by
  have hs := shows_afterTrace (cores := cores) h
  have hblock : trapBlock (afterTrace m cores) 0 tracedCtx.tvec = some block := trapBlock_of_shows (hs.mono (by decide))
  have hrec := not_recordWritable (hs.mono (by decide)) (vdom_afterTrace (m := m) (cores := cores))
  unfold deliverThrough
  rw [show trappingThread.ctx = 0 from rfl, hblock]
  dsimp only
  exact if_pos (Or.inl hrec)

end

/-- Bytes that are written from a place in a scratchpad on. -/
theorem spad_of_mem_cellsAt {pa : Nat} {bs : List Byte} {c : Nat × Byte} (hpa : spadBase ≤ pa) (hlen : pa + bs.length ≤ accBase)
    (hc : c ∈ cellsAt pa bs) : spadBase ≤ c.1 ∧ c.1 < accBase := by
  have := cellsAt_mem hc
  omega

/-- Writing the slot record changes memory in the save tail only. -/
theorem writeSlotRecord_low : ∃ m cores, writeSlotRecord 0 5 0 trappedThread 0 (setThread tableInDebugBlock 0 trappedThread) =
      { setThread tableInDebugBlock 0 trappedThread with mem := m, cores := cores } ∧
    ∀ a, a < spadBase → Tab.get 0 m a = Tab.get 0 tableInDebugBlock.mem a := by
  unfold writeSlotRecord
  dsimp only
  set vecs := (trappedThread.vecs.toList.take _).flatMap (fun v => leBytes 64 v.toNat) with hvecs
  set words := slotWords (setThread tableInDebugBlock 0 trappedThread) 0 5 0 trappedThread 0 with hwords
  set cells := cellsAt _ (wordsBytes words) ++ cellsAt _ vecs with hcells
  have hspad : ∀ c ∈ cells, spadBase ≤ c.1 ∧ c.1 < accBase := by
    intro c hc
    rcases List.mem_append.1 hc with hc | hc
    · exact spad_of_mem_cellsAt (by decide) (by rw [hwords]; decide +kernel) hc
    · exact spad_of_mem_cellsAt (by decide +kernel) (by rw [hvecs]; decide +kernel) hc
  obtain ⟨cores, hwrite⟩ := devWrite_spad (s := setThread tableInDebugBlock 0 trappedThread) ⟨rfl, rfl, rfl, rfl⟩ rfl hspad
  refine ⟨_, cores, hwrite, fun a ha => putCells_get_other cells a tableInDebugBlock_canonical.1 fun c hc => ?_⟩
  have := (hspad c hc).1
  omega

/-- A trace record for which its chiplet has no room is dropped. -/
theorem trace_of_full {n kind slot core tid : Nat} {pc data : Word} {s : State} {c : Ctx} (hc : ctxAt s n = c)
    (hmask : fld c.trace.w1 kind 1 = 1) (hfull : ¬ (c.trace.queues.get [] (chipOfCore core)).length < 256) :
    trace n kind slot core tid pc data s =
      setCtx s n { c with trace := { c.trace with dropped := c.trace.dropped + 1, gap := c.trace.gap + 1 } } := by
  subst hc
  unfold trace
  simp only [hmask, if_true, if_neg hfull]

/-- The state in which a delivery writes the fault record: the thread is trapped, its slot record written, the trap traced. -/
def tracedDelivery (s : State) (p : Nat) (th : Thread) (tr : Trap) : State :=
  trace th.ctx 2 p (p / 16) th.tid (tr.restart.zeroExtend 64) (w64 (tr.cause.code + fld tr.info 0 56 * 2 ^ 8))
    (writeSlotRecord p 5 0 { th with form := .trapped, pc := tr.restart } 0
      (setThread s p { th with form := .trapped, pc := tr.restart }))

/-- R424: with the record refused at both levels, the context is killed. -/
theorem deliverTrap_of_refused {s : State} {p : Nat} {th : Thread} {tr : Trap} (ht : threadAt s p = some th)
    (hform : th.form = .trapping tr) (hdrained : drained s p th = true) (hbefore : faultBefore s p tr = false)
    (hpriv : privOf th = 0) (hcoming : comingFor s (ctxAt s th.ctx).tvec th = none)
    (hdeliverable : deliverable s (ctxAt s th.ctx).tvec false th = true)
    (hrefused : deliverThrough (ctxAt s th.ctx).tvec false p th tr tr.cause tr.info (tracedDelivery s p th tr) = none)
    (hagain : deliverThrough (tracedDelivery s p th tr).tvecm true p th tr .dblfault (w64 tr.cause.code)
      (tracedDelivery s p th tr) = none) :
    deliverTrap p s = post (.kill th.ctx)
      (errorRec 11 1 th.ctx (coreLoc (p / 16) (p % 16)) tr.addr tr.info 0 (tracedDelivery s p th tr)) := by
  have hmachine : (privOf th == 3 || (tr.cause == .syscall && privOf th != 0)) = false := by simp [hpriv]
  unfold deliverTrap
  simp only [ht, hform, hdrained, hbefore, hmachine, hcoming, hdeliverable, Bool.not_true, Bool.false_eq_true, if_false, if_true,
    Option.or_none]
  unfold tracedDelivery at hrefused hagain
  simp only [hrefused, hagain]
  rfl

theorem tracedDelivery_eq : ∃ m cores, tracedDelivery tableInDebugBlock 0 trappingThread userTrap = afterTrace m cores ∧
    ∀ a, a < spadBase → Tab.get 0 m a = Tab.get 0 tableInDebugBlock.mem a := by
  obtain ⟨m, cores, hwrite, hlow⟩ := writeSlotRecord_low
  refine ⟨m, cores, ?_, hlow⟩
  unfold tracedDelivery
  rw [show ({ trappingThread with form := .trapped, pc := userTrap.restart } : Thread) = trappedThread from rfl, hwrite,
    trace_of_full (c := tracedCtx) rfl (by decide) (by decide +kernel)]
  rfl

theorem delivers_no_handler : ∃ t, Delivers tableInDebugBlock (.trapDelivery 0) t ∧ t.agenda = [⟨.kill 0, none⟩] := by
  obtain ⟨m, cores, heq, hlow⟩ := tracedDelivery_eq
  have hkill := deliverTrap_of_refused (s := tableInDebugBlock) (p := 0) (th := trappingThread) (tr := userTrap) rfl rfl
    (by decide +kernel) (by decide +kernel) (by decide +kernel) (by decide +kernel) (by decide +kernel)
    (by rw [heq]; exact deliverThrough_afterTrace hlow) (by rw [heq]; rfl)
  refine ⟨_, congrArg Host.Outcome.next hkill, ?_⟩
  rw [heq]
  rfl

/-! ### The premises -/

/-- The stretches of memory the delivery reads or writes: the slot record, the vector registers, the fault record, the block. -/
def stretches : List (Nat × Nat) := [(spadPa 0 0x3C000, 512), (spadPa 0 0x3E000, 64 * 8), (0x40000000, 64), (0x2000, 64)]

theorem debugBase_le_ctxField (o : Nat) : debugBase ≤ ctxField tableInDebugBlock 0 o := by
  have htab : tableInDebugBlock.host.ctxtab.toNat = debugBase + 0x300000 := by decide +kernel
  unfold ctxField
  omega

/-- No byte of memory shows in the table entry. -/
theorem ctxWord_of_debug {m : Memory} {u : State} (hu : u = { tableInDebugBlock with mem := m }) (o : Nat) :
    ctxWord u 0 o = ctxWord tableInDebugBlock 0 o := by
  have hfield : ctxField u 0 o = ctxField tableInDebugBlock 0 o := by rw [hu]; rfl
  have hreg : ∀ off, debugRead u off = debugRead tableInDebugBlock off := by
    subst hu
    exact debugRead_congr rfl rfl rfl rfl (fun _ => ⟨rfl, rfl⟩) (fun _ => rfl) fun _ => rfl
  have hle := debugBase_le_ctxField o
  unfold ctxWord cur64
  rw [hfield]
  refine congrArg (fun l => w64 (leNat l)) (List.map_congr_left fun i _ => ?_)
  rw [curByte_debug (by rw [hu]; rfl) (by omega), curByte_debug (u := tableInDebugBlock) rfl (by omega), hreg]

/-- No page table and no table entry lies in the stretches. -/
theorem stretches_spread : Spread tableInDebugBlock 0 stretches := by
  refine ⟨by unfold stretches; decide, fun m hm => ?_⟩
  have hshows : Shows 4096 { tableInDebugBlock with mem := m } := by
    refine ⟨rfl, rfl, rfl, fun a ha => hm a ?_⟩
    rintro ⟨x, hx, hle, hlt⟩
    have hout : ∀ x ∈ stretches, 4096 ≤ x.1 := by unfold stretches; decide
    have := hout x hx
    omega
  exact ⟨devPa_of_shows hshows, fun o _ => ctxWord_of_debug rfl o⟩

theorem block_at : VaultAt tableInDebugBlock 0 0x00F0000000002000 64 0x2000 :=
  ⟨by decide, blockBytes, tableInDebugBlock_ownFrames, fun _ _ => rfl⟩

theorem record_at : VaultAt tableInDebugBlock 0 0x40000000 64 0x40000000 :=
  ⟨by decide, by decide +kernel, tableInDebugBlock_ownFrames, fun _ _ => rfl⟩

/-- Refutes O45: in `tableInDebugBlock` the delivery ends with the context killed, and no handler starts. -/
theorem not_faultsDeliveredAndReturned : ¬ Obligations.FaultsDeliveredAndReturned := by
  unfold Obligations.FaultsDeliveredAndReturned
  rintro ⟨-, htrap, -⟩
  obtain ⟨-, -, hdeliver⟩ := htrap tableInDebugBlock 0 trappingThread userTrap tableInDebugBlock_canonical ⟨rfl, rfl⟩ rfl
  obtain ⟨t, hdel, -, -, -, -, -, -, c, hsent⟩ := hdeliver block 0x40000000 0x2000 (by decide +kernel) (by decide +kernel)
    (trapBlock_of_shows (shows_self _)) (by decide +kernel) (by decide +kernel) (by decide +kernel) block_at record_at
    (by decide +kernel) (by decide) (Or.inr (Or.inr rfl)) stretches_spread
  obtain ⟨u, hdel', hagenda⟩ := delivers_no_handler
  have htu : t = u := Host.Outcome.next.inj (hdel.symm.trans hdel')
  rw [htu, hagenda, List.mem_singleton] at hsent
  cases hsent

end Sys2Proof.Proofs.TrapDelivery
end

section
/-!
PROOF. O46 (R115, R388, R389) fails: a device unit's read of a line with update-only copies collects it first, and the collect
writes the partials' sum to memory. The launch of the machine below reads its descriptor from such a line, and is refused for
its mode; the statement has every byte outside the KSTAT record as before.
-/
namespace Sys2Proof.Proofs.LaunchCollect
open Sys2Proof.Machine Sys2Proof.Safety

set_option Elab.async false

/-- A launch descriptor in memory at 0x2000: doubleword 1 names the KSTAT record, at 0x3000 of the linear segment. Doubleword 0
has a partial outstanding, an addition of 5. -/
def descriptor : List Byte := wordsBytes [5, 0x00F0000000003000, 0, 0, 0, 0, 0, 0]

/-- A launch of context 0 is being checked. The context's mode, in its table entry at 0, has a reserved bit set. No core holds a
copy of the descriptor's first line any more: its partial has come home. -/
def partialAtHome : State :=
  { State.reset with
    mem := [(8, 0x40), (0x2009, 0x30), (0x200E, 0xF0)]
    dir := [(0x100, { uop := some .add, parts := [⟨0, 0, 0, [(0, 5)]⟩] })]
    ctxs := [(0, { st := .resident, kernel := { st := .checking, desc := 0x00F0000000002000 } })] }

theorem partialAtHome_canonical : Canonical partialAtHome := by
  unfold Canonical MemOk; decide

theorem partialAtHome_ownFrames : OwnFrames partialAtHome := by
  refine ⟨fun home l m h => ?_, fun l d _ h => ?_, fun x h hle => ?_⟩
  · cases h
  · cases h
  · rw [partialAtHome, List.mem_singleton] at h
    subst h
    exact absurd hle (by decide)

/-- The descriptor is read as the collect of its line leaves it. -/
theorem descriptor_read : DevReads partialAtHome 0 1 .read (ctxAt partialAtHome 0).kernel.desc 64 64 descriptor :=
  ⟨partialAtHome_ownFrames, _, rfl⟩

theorem kstat_at : VaultAt partialAtHome 0 (dwOf descriptor 1).toNat 64 0x3000 :=
  ⟨by decide, by decide +kernel, partialAtHome_ownFrames, by decide +kernel⟩

/-- The launch's end leaves the collected sum in memory, at the descriptor's first byte. -/
theorem launch_collects : ∃ t, Delivers partialAtHome (.launchChecksDone 0) t ∧ rdByte t 0x2000 = 5 :=
  ⟨_, rfl, by decide +kernel⟩

/-- Refutes O46: in `partialAtHome` the check of a launch changes the byte at 0x2000 from 0 to 5. -/
theorem not_kernelEvents : ¬ Obligations.KernelEvents := by
  unfold Obligations.KernelEvents
  rintro ⟨-, -, hchecks, -⟩
  obtain ⟨-, hread⟩ := hchecks partialAtHome 0 partialAtHome_canonical rfl
  obtain ⟨hmode, -⟩ := hread descriptor rfl descriptor_read
  obtain ⟨t, hdel, -, -, hstores⟩ := hmode 0x3000 (by decide +kernel) kstat_at
  obtain ⟨u, hdel', hbyte⟩ := launch_collects
  have htu : t = u := Host.Outcome.next.inj (hdel.symm.trans hdel')
  have hkept := hstores 0x2000 (by decide)
  rw [if_neg (by decide), htu, hbyte] at hkept
  exact absurd hkept (by decide)

end Sys2Proof.Proofs.LaunchCollect
end

section
/-!
PROOF. The shared units of a core (O3): a division takes its operands and queues for the divider; a use that ends writes its
result or lets its thread go on. First what a change of a unit's queue leaves alone, for every proof that queues for one.
-/
namespace Sys2Proof.Proofs.Units
open Sys2Proof Sys2Proof.Machine Sys2Proof.Safety

set_option Elab.async false

/-! ### Frames -/

/-- The parts of a core that the debug block shows (R470, R474, R475, R478). -/
def coreShown (c : Core) := (c.hist, c.hist0Lag, c.wakeDrops, c.msgDrops, c.cmps, c.stopcmd)

/-- The parts of the state outside slots, cores and contexts that the bytes of memory and the clocks are made of. -/
def stateShown (s : State) := (s.mem, s.dram, s.slices, s.fresh, s.cycle, s.ras, s.cells, s.cur, s.time8)

/-- What put and back restore is no more than Only makes of it: restoring twice is restoring once, and neither the debug block
nor memory shows what they restore. -/
structure Restores (put : Core → Core → Core) (back : State → State → State) : Prop where
  core_self : ∀ c, put c c = c
  core_trans : ∀ a b c : Core, put a { put b { c with qparked := b.qparked } with qparked := a.qparked } = put a { c with qparked := a.qparked }
  core_shown : ∀ a b, coreShown (put a b) = coreShown b
  state_self : ∀ s, back s s = s
  state_trans : ∀ s t u : State, back s { back t { u with slots := t.slots, cores := t.cores, ctxs := t.ctxs } with
    slots := s.slots, cores := s.cores, ctxs := s.ctxs } = back s { u with slots := s.slots, cores := s.cores, ctxs := s.ctxs }
  state_shown : ∀ s t, stateShown (back s t) = stateShown t

/-- A core but for its divider's queue, and but for its normaliser's and its iterative unit's. -/
def keepDivq (old new : Core) : Core := { new with divq := old.divq }
def keepUnitqs (old new : Core) : Core := { new with normq := old.normq, iterq := old.iterq }

/-- The state but for its timers, and but for the event being delivered too. -/
def keepTimers (old new : State) : State := { new with timers := old.timers }
def keepTimersNow (old new : State) : State := { new with timers := old.timers, now := old.now }

theorem restores_divider : Restores keepDivq keepTimers :=
  ⟨fun _ => rfl, fun _ _ _ => rfl, fun _ _ => rfl, fun _ => rfl, fun _ _ _ => rfl, fun _ _ => rfl⟩

theorem restores_dividerEvent : Restores keepDivq keepTimersNow :=
  ⟨fun _ => rfl, fun _ _ _ => rfl, fun _ _ => rfl, fun _ => rfl, fun _ _ _ => rfl, fun _ _ => rfl⟩

theorem restores_units : Restores keepUnitqs keepTimers :=
  ⟨fun _ => rfl, fun _ _ _ => rfl, fun _ _ => rfl, fun _ => rfl, fun _ _ _ => rfl, fun _ _ => rfl⟩

section
variable {put : Core → Core → Core} {back : State → State → State} {s t u : State} (hr : Restores put back)
include hr

theorem only_of_quiet (h : Quiet s t) : Only s t put back := by
  refine ⟨h.slots, h.own, fun c => ?_, h.ctxs, ?_⟩
  · rw [h.cores, hr.core_self]
  · rw [h.rest, hr.state_self]

theorem stateShown_of_only (h : Only s t put back) : stateShown t = stateShown s := by
  have hrest := congrArg stateShown h.rest
  rw [hr.state_shown] at hrest
  exact hrest

theorem cur_of_only (h : Only s t put back) : t.cur = s.cur := by
  have hcur := congrArg (fun x => x.2.2.2.2.2.2.2.1) (stateShown_of_only hr h)
  exact hcur

theorem cycle_of_only (h : Only s t put back) : t.cycle = s.cycle := by
  have hcycle := congrArg (fun x => x.2.2.2.2.1) (stateShown_of_only hr h)
  exact hcycle

theorem only_trans (h : Only s t put back) (k : Only t u put back) : Only s u put back := by
  have hcur := cur_of_only hr h
  obtain ⟨h1, h2, h3, h4, h5⟩ := h
  obtain ⟨k1, k2, k3, k4, k5⟩ := k
  rw [hcur] at k1 k2
  refine ⟨fun p hp => (k1 p hp).trans (h1 p hp), ?_, fun c => ?_, fun n => ?_, ?_⟩
  · rw [← h2, ← k2]
  · rw [← hr.core_trans _ (coreAt t c), k3, h3]
  · rw [← h4 n, ← k4 n]
  · rw [← hr.state_trans _ t, k5, h5]

/-- A core changed in what put restores. -/
theorem only_setCore (hs : Canonical s) (c : Nat) {x : Core} (h : put (coreAt s c) { x with qparked := (coreAt s c).qparked } = coreAt s c) :
    Only s (setCore s c x) put back := by
  refine ⟨fun _ _ => rfl, rfl, fun e => ?_, fun _ => rfl, hr.state_self s⟩
  rw [coreAt_setCore hs]
  split
  · subst_vars; exact h
  · exact hr.core_self _

/-- A change of what back restores. -/
theorem only_of_back (hslots : t.slots = s.slots) (hcores : t.cores = s.cores) (hctxs : t.ctxs = s.ctxs) (h : back s t = s) :
    Only s t put back := by
  refine ⟨fun p _ => by unfold slotAt; rw [hslots], ?_, fun c => ?_, fun n => ?_, ?_⟩
  · unfold slotAt; rw [hslots]
  · unfold coreAt; rw [hcores]; exact hr.core_self _
  · unfold ctxAt; rw [hctxs]
  · rw [← hslots, ← hcores, ← hctxs]; exact h

/-- The bytes of memory, the debug block's among them, are as before. -/
theorem rdByte_of_only (h : Only s t put back) (a : Nat) : rdByte t a = rdByte s a := by
  have hshown := stateShown_of_only hr h
  simp only [stateShown, Prod.mk.injEq] at hshown
  obtain ⟨hmem, hdram, hslices, hfresh, hcycle, hras, hcells, -, -⟩ := hshown
  have hcore : ∀ c, coreShown (coreAt t c) = coreShown (coreAt s c) := fun c => by
    have hc := congrArg coreShown (h.cores c)
    rw [hr.core_shown] at hc
    exact hc
  simp only [coreShown, Prod.mk.injEq] at hcore
  have hslot : ∀ p, (slotAt t p).loss = (slotAt s p).loss ∧ (slotAt t p).vacLag = (slotAt s p).vacLag := fun p => by
    by_cases hp : p = s.cur
    · subst hp
      rw [← h.own]
      exact ⟨rfl, rfl⟩
    · rw [h.slots p hp]; exact ⟨rfl, rfl⟩
  have hctx : ∀ n, (ctxAt t n).trace = (ctxAt s n).trace := fun n => by rw [← h.ctxs n]
  refine rdByte_congr hmem hdram hslices hfresh (fun o => ?_) a
  unfold debugRead lossCount histCount
  simp only [hcycle, hras, hslot, hctx, hcore, cellAt, sliceAt, hcells, hslices]

end

/-! ### A division goes in flight -/

section
variable {s : State} {th : Thread} {ss : List Src}

theorem popsTaken_regs (h : ∀ x ∈ ss, x.r < 28) (s : State) : popsTaken ss s = [] := by
  unfold popsTaken
  rw [List.filterMap_eq_nil_iff]
  rintro ⟨⟨x, v⟩, i⟩ hx
  exact if_neg (Nat.not_le.2 (h x (List.of_mem_zip (List.fst_mem_of_mem_zipIdx hx)).1))

theorem takePops_regs (h : ∀ x ∈ ss, x.r < 28) (s : State) : takePops ss s = unparkQueues s := by
  unfold takePops
  rw [popsTaken_regs h]
  rfl

theorem takesOf_ready (h : ∀ x ∈ ss, ReadyNow th x) : takesOf ss = (ss.filter (fun x => takes ss x.r)).map (fun x => x.r) := by
  unfold takesOf
  congr 1
  refine List.filter_congr fun x hx => ?_
  rw [decide_eq_true (h x hx).1, Bool.true_and, Bool.eq_iff_iff, beq_iff_eq]
  exact modeOf_eq_two fun y hy => (h y hy).2.1

/-- R79: the table of the divisions is the table of the spec. -/
theorem exec_quotient {i : Instr} {d a b : BitVec 5} {ma mb : BitVec 2} {f : Word → Word → Word}
    (h : quotient i = some (d, a, b, ma, mb, f)) (s : State) : exec i s = divides d a b ma mb f s := by
  unfold quotient at h
  split at h <;> cases h <;> rfl

end

section
variable {s u : State} {th : Thread} {core : Nat}

theorem divq_of_quiet (h : Quiet s u) (core : Nat) : (coreAt u core).divq = (coreAt s core).divq := by
  rw [← h.cores core]

/-- A thread enters the queue of its core's divider; the use of an idle divider begins. -/
def enterDivider (core : Nat) (x : Thr) (s : State) : State :=
  let c := coreAt s core
  let s := setCore s core { c with divq := c.divq ++ [x] }
  if c.divq = [] then after 240 (.dividerDone core) s else s

theorem enterDivider_frame (hs : Canonical s) (core : Nat) (x : Thr) :
    Only s (enterDivider core x s) keepDivq keepTimers ∧
    (enterDivider core x s).slots = s.slots ∧
    (coreAt (enterDivider core x s) core).divq = (coreAt s core).divq ++ [x] ∧
    (enterDivider core x s).timers =
      if (coreAt s core).divq = [] then s.timers ++ [(s.time8 + 240, .dividerDone core)] else s.timers := by
  have hset := only_setCore restores_divider hs core (x := { coreAt s core with divq := (coreAt s core).divq ++ [x] }) rfl
  have hcore : coreAt (setCore s core { coreAt s core with divq := (coreAt s core).divq ++ [x] }) core =
      { coreAt s core with divq := (coreAt s core).divq ++ [x] } := (coreAt_setCore hs core core _).trans (if_pos rfl)
  unfold enterDivider
  dsimp only
  split
  · exact ⟨only_trans restores_divider hset (only_of_back restores_divider rfl rfl rfl rfl), rfl, congrArg Core.divq hcore, rfl⟩
  · exact ⟨hset, rfl, congrArg Core.divq hcore, rfl⟩

theorem threadAt_mapMe_of {tu : Thread} (h : Quiet s u) (hu : threadAt u s.cur = some tu) (f : Thread → Thread) :
    threadAt (mapMe f u) s.cur = some (f tu) := by
  rw [← h.cur] at hu ⊢
  exact threadAt_mapMe hu f

theorem me_mapMe {tu : Thread} (h : Quiet s u) (hu : threadAt u s.cur = some tu) (f : Thread → Thread) :
    me (mapMe f u) = f tu := by
  have hmap := threadAt_mapMe_of h hu f
  rw [← (h.trans (quiet_mapMe u f)).cur] at hmap
  exact me_of hmap

theorem timers_of_quiet (h : Quiet s u) : u.timers = s.timers := by
  have htimers := congrArg State.timers h.rest
  exact htimers

theorem inFlight_of {tu : Thread} (h : Quiet s u) (hu : threadAt u s.cur = some tu) (w : WaitFor) :
    Quiet s (inFlight w u) ∧ threadAt (inFlight w u) s.cur = some { tu with form := .inFlight w } :=
  ⟨h.trans (quiet_mapMe _ _), threadAt_mapMe_of h hu _⟩

/-- R160: what a division on ready registers leaves. -/
theorem divides_regs {d a b : BitVec 5} {ma mb : BitVec 2} (f : Word → Word → Word) (he : Executing s th)
    (ha : ReadyNow th (src a ma)) (hb : ReadyNow th (src b mb)) (hd : Writable th d.toNat) :
    divides d a b ma mb f s = .next (enterDivider (s.cur / 16) (named_ s th) (inFlight (.divider d.toNat (f (val th a) (val th b))
      (([src a ma, src b mb].filter (fun x => takes [src a ma, src b mb] x.r)).map (fun x => x.r)) []) (unparkQueues s))) := by
  have hss : ∀ x ∈ [src a ma, src b mb], ReadyNow th x := by simp [ha, hb]
  have hregs : ∀ x ∈ [src a ma, src b mb], x.r < 28 := fun x hx => (hss x hx).1
  have hnamed : ∀ w, myThr (inFlight w (unparkQueues s)) = named_ s th := fun w => by
    have hme := me_mapMe (u := unparkQueues s) (s := unparkQueues s) (Quiet.refl _) (by simpa using he.1) fun t => { t with form := .inFlight w }
    have hcur : (inFlight w (unparkQueues s)).cur = s.cur := ((quiet_mapMe _ _).cur).trans (unparkQueues_cur s)
    unfold myThr
    rw [hcur, inFlight, hme]
    rfl
  unfold divides
  refine (withOps_ok (operands_regs he.1 hss hd) _).trans ?_
  dsimp only
  rw [takesOf_ready hss, popsTaken_regs hregs, takePops_regs hregs, reserve, if_pos hd.1, hnamed]
  rfl

end

/-! ### A use ends -/

section
variable {s u : State} {th : Thread}

/-- A message finds its thread where the slot still holds it. -/
theorem withThr_of (hcur : u.cur = s.cur) (hu : threadAt u s.cur = some th) (f : State → State) : withThr (named_ s th) u f = f u := by
  unfold withThr holds named_
  simp only [hu, beq_self_eq_true, Bool.and_self, if_true]
  rw [← hcur]

theorem takeRegs_frame (ts : List Nat) (ht : threadAt s s.cur = some th) :
    Quiet s (Machine.takeRegs ts s) ∧ ∃ th', threadAt (Machine.takeRegs ts s) s.cur = some th' ∧ { th' with regs := th.regs } = th ∧
      ∀ r, r < 28 → regOf th' r = if r ∈ ts then { st := .empty, val := (regOf th r).val } else regOf th r := by
  unfold Machine.takeRegs
  induction ts generalizing s th with
  | nil => exact ⟨Quiet.refl s, th, ht, rfl, fun r _ => by simp⟩
  | cons q ts ih =>
    have hq := quiet_mapMe s fun t => setReg q { st := .empty, val := (regOf t q).val } t
    have ht' := threadAt_mapMe ht fun t => setReg q { st := .empty, val := (regOf t q).val } t
    obtain ⟨h1, th', h2, h3, h4⟩ := ih (by rw [hq.cur]; exact ht')
    rw [List.foldl_cons]
    refine ⟨hq.trans h1, th', by rw [← hq.cur]; exact h2, ?_, fun r hr => ?_⟩
    · have h5 := congrArg (fun t : Thread => { t with regs := th.regs }) h3
      exact h5
    · rw [h4 r hr, regOf_setReg _ _ _ _ hr]
      by_cases hqr : q = r
      · subst hqr; simp
      · simp [hqr, Ne.symm hqr]

/-- The end of an instruction whose result has raised nothing. -/
theorem advance_of {tu : Thread} (h : Quiet s u) (hu : threadAt u s.cur = some tu) (hf : ∀ tr, tu.form ≠ .trapping tr) :
    Quiet s (advance u) ∧ threadAt (advance u) s.cur = some (passed s tu) := by
  unfold advance
  refine ⟨h.trans (quiet_mapMe _ _), ?_⟩
  rw [threadAt_mapMe_of h hu]
  split
  next tr htr => exact absurd htr (hf tr)
  · exact congrArg some (settled_passed s u tu h.cycle)

/-- A result of an instruction in flight that goes to a general register raises nothing: the instruction completes. -/
theorem finish_reg {d : Nat} {v : Word} {ts : List Nat} (ht : threadAt s s.cur = some th) (hd : d < 28) (hpc : th.pc ≠ lastPc)
    (hf : ∀ tr, th.form ≠ .trapping tr) :
    finish d [] s (writeDst d v (Machine.takeRegs ts s)) = advance (mapMe (setFull d v) (Machine.takeRegs ts s)) := by
  obtain ⟨hq, th1, ht1, hth1, -⟩ := takeRegs_frame ts ht
  have hform : th1.form = th.form := by
    have h := congrArg Thread.form hth1
    exact h
  have hme : (me (mapMe (setFull d v) (Machine.takeRegs ts s))).form = th.form := by
    rw [me_mapMe hq ht1]
    exact hform
  have htop : atTop s = false := by
    unfold atTop
    rw [me_of ht]
    simpa [lastPc, topPc] using hpc
  unfold finish writeDst
  dsimp only
  rw [if_pos hd, hme, htop]
  split
  next tr h => exact absurd h (hf tr)
  · rfl

/-- R160: the use of the divider that ends gives its thread the result. -/
theorem finish_divider {d : Nat} {v : Word} {ts : List Nat} (ht : threadAt s s.cur = some th) (hd : d < 28)
    (hpc : th.pc ≠ lastPc) (hf : ∀ tr, th.form ≠ .trapping tr) :
    Quiet s (finish d [] s (writeDst d v (Machine.takeRegs ts s))) ∧
    ∃ th', threadAt (finish d [] s (writeDst d v (Machine.takeRegs ts s))) s.cur = some th' ∧
      { th' with regs := th.regs } = passed s th ∧
      ∀ r, r < 28 → regOf th' r = if r = d then { st := .full, val := v }
        else if r ∈ ts then { st := .empty, val := (regOf th r).val } else regOf th r := by
  rw [finish_reg ht hd hpc hf]
  obtain ⟨hq1, th1, ht1, hth1, hregs⟩ := takeRegs_frame ts ht
  have hq2 := hq1.trans (quiet_mapMe (Machine.takeRegs ts s) (setFull d v))
  have hform : ∀ tr, (setFull d v th1).form ≠ .trapping tr := fun tr h => by
    have h1 := congrArg Thread.form hth1
    exact hf tr (h1.symm.trans h)
  obtain ⟨hq3, ht3⟩ := advance_of hq2 (threadAt_mapMe_of hq1 ht1 (setFull d v)) hform
  refine ⟨hq3, _, ht3, passed_regs _ hth1, fun r hr => ?_⟩
  rw [regOf_passed]
  unfold setFull
  rw [regOf_setReg _ _ _ _ hr, hregs r hr]
  by_cases hrd : r = d
  · rw [if_pos hrd.symm, if_pos hrd]
  · rw [if_neg (Ne.symm hrd), if_neg hrd]

end

/-! ### The statement -/

section
variable {s : State} {th : Thread}

/-- The head of a core's divider queue leaves it; the next use begins. -/
def leaveDivider (core : Nat) (rest : List Thr) (s : State) : State :=
  let s := setCore s core { coreAt s core with divq := rest }
  if rest = [] then s else after 240 (.dividerDone core) s

theorem leaveDivider_frame (hs : Canonical s) (core : Nat) (rest : List Thr) :
    Only s (leaveDivider core rest (taken s)) keepDivq keepTimersNow ∧
    (leaveDivider core rest (taken s)).slots = s.slots ∧
    (coreAt (leaveDivider core rest (taken s)) core).divq = rest ∧
    (leaveDivider core rest (taken s)).timers =
      if rest = [] then s.timers else s.timers ++ [(s.time8 + 240, .dividerDone core)] := by
  have htaken : Only s (taken s) keepDivq keepTimersNow := only_of_back restores_dividerEvent rfl rfl rfl rfl
  have hset := only_trans restores_dividerEvent htaken
    (only_setCore (s := taken s) restores_dividerEvent hs core (x := { coreAt s core with divq := rest }) rfl)
  have hcore : coreAt (setCore (taken s) core { coreAt s core with divq := rest }) core = { coreAt s core with divq := rest } :=
    (coreAt_setCore hs core core _).trans (if_pos rfl)
  unfold leaveDivider
  dsimp only
  split
  · exact ⟨hset, rfl, congrArg Core.divq hcore, rfl⟩
  · exact ⟨only_trans restores_dividerEvent hset (only_of_back restores_dividerEvent rfl rfl rfl rfl), rfl, congrArg Core.divq hcore, rfl⟩

/-- DIVIDER_DONE, delivered to a core whose divider's head still holds its slot. -/
theorem delivers_dividerDone {core d : Nat} {v : Word} {ts : List Nat} {rest : List Thr} (hd : d < 28)
    (hq : (coreAt s core).divq = named_ s th :: rest) (ht : threadAt s s.cur = some th)
    (hf : th.form = .inFlight (.divider d v ts [])) :
    Delivers s (.dividerDone core) (finish d [] (leaveDivider core rest (taken s))
      (writeDst d v (Machine.takeRegs ts (leaveDivider core rest (taken s))))) := by
  have hsl : (leaveDivider core rest (taken s)).slots = s.slots ∧ (leaveDivider core rest (taken s)).cur = s.cur := by
    unfold leaveDivider
    dsimp only
    split <;> exact ⟨rfl, rfl⟩
  have hme : threadAt (leaveDivider core rest (taken s)) s.cur = some th := (threadAt_congr hsl.1 _).trans ht
  have hform : (me (leaveDivider core rest (taken s))).form = .inFlight (.divider d v ts []) := by
    rw [me_of (by rw [hsl.2]; exact hme), hf]
  unfold Delivers
  change Host.Outcome.next (match (coreAt s core).divq with
    | [] => taken s
    | x :: rest => withThr x (leaveDivider core rest (taken s)) fun s => match (me s).form with
      | .inFlight (.divider d v takes undo) => finish d undo (unreserve d s) (writeDst d v (Machine.takeRegs takes (unreserve d s)))
      | _ => s) = _
  rw [hq]
  dsimp only
  rw [withThr_of hsl.2 hme, hform]
  dsimp only
  rw [unreserve, if_pos hd]

end

section
variable {s : State} {th : Thread} {core : Nat} {rest : List Thr}

/-- The head of a unit's queue leaves it for the list rest; the next use, if there is one, ends after d. -/
def leaveUnit (core : Nat) (c : Core) (next : Option (Nat × Event)) (s : State) : State :=
  let s := setCore s core c
  match next with
  | none => s
  | some (d, e) => after d e s

theorem leaveUnit_frame (hs : Canonical s) (hnow : s.now = none) {c : Core}
    (hc : keepUnitqs (coreAt s core) { c with qparked := (coreAt s core).qparked } = coreAt s core) (next : Option (Nat × Event)) :
    Only s (leaveUnit core c next (taken s)) keepUnitqs keepTimers ∧ (leaveUnit core c next (taken s)).slots = s.slots := by
  have htaken : Only s (taken s) keepUnitqs keepTimers :=
    only_of_back restores_units rfl rfl rfl (by unfold taken keepTimers; rw [← hnow])
  have hset := only_trans restores_units htaken (only_setCore (s := taken s) restores_units hs core (x := c) hc)
  unfold leaveUnit
  dsimp only
  split
  · exact ⟨hset, rfl⟩
  · exact ⟨only_trans restores_units hset (only_of_back restores_units rfl rfl rfl rfl), rfl⟩

theorem unitDone_of {u : State} (hcur : u.cur = s.cur) (hu : threadAt u s.cur = some th) (hf : th.form = .inFlight .unit) :
    unitDone (named_ s th) u = advance u := by
  unfold unitDone
  rw [withThr_of hcur hu, if_pos (by rw [me_of (by rw [hcur]; exact hu), hf])]

theorem threadAt_leaveUnit (ht : threadAt s s.cur = some th) (core : Nat) (c : Core) (next : Option (Nat × Event)) :
    (leaveUnit core c next (taken s)).cur = s.cur ∧ threadAt (leaveUnit core c next (taken s)) s.cur = some th := by
  unfold leaveUnit
  dsimp only
  split <;> exact ⟨rfl, ht⟩

/-- A use that ends lets its thread go on where the thread waits for no other. -/
theorem endUse_of (ht : threadAt s s.cur = some th) (hf : th.form = .inFlight .unit) {others : List Thr} (hr : named_ s th ∉ rest)
    (ho : named_ s th ∉ others) (core : Nat) (c : Core) (next : Option (Nat × Event)) :
    (if named_ s th ∈ rest ∨ named_ s th ∈ others then leaveUnit core c next (taken s)
      else unitDone (named_ s th) (leaveUnit core c next (taken s))) = advance (leaveUnit core c next (taken s)) := by
  obtain ⟨hcur, hth⟩ := threadAt_leaveUnit ht core c next
  rw [if_neg (by simp [hr, ho]), unitDone_of hcur hth hf]

/-- NORMALISER_DONE, delivered where its thread waits for no other use. -/
theorem delivers_normaliserDone (ht : threadAt s s.cur = some th) (hf : th.form = .inFlight .unit)
    (hq : (coreAt s core).normq = named_ s th :: rest) (hr : named_ s th ∉ rest) (hi : named_ s th ∉ (coreAt s core).iterq) :
    ∃ next, Delivers s (.normaliserDone core) (advance (leaveUnit core { coreAt s core with normq := rest } next (taken s))) := by
  refine ⟨rest.head?.map fun nx => (normaliserTime (setCore (taken s) core { coreAt s core with normq := rest }) nx, .normaliserDone core), ?_⟩
  rw [← endUse_of ht hf hr hi]
  unfold Delivers
  change execNormaliserDone { s with now := some (.normaliserDone core) } = _
  unfold execNormaliserDone
  simp only [show (coreAt (taken { s with now := some (.normaliserDone core) }) core).normq = named_ s th :: rest from hq]
  cases rest <;> rfl

/-- ITERATIVE_UNIT_DONE, delivered where its thread waits for no other use. -/
theorem delivers_iterativeUnitDone (ht : threadAt s s.cur = some th) (hf : th.form = .inFlight .unit)
    (hq : (coreAt s core).iterq = named_ s th :: rest) (hr : named_ s th ∉ rest) (hn : named_ s th ∉ (coreAt s core).normq) :
    ∃ next, Delivers s (.iterativeUnitDone core) (advance (leaveUnit core { coreAt s core with iterq := rest } next (taken s))) := by
  refine ⟨if rest = [] then none else some (120, .iterativeUnitDone core), ?_⟩
  rw [← endUse_of ht hf hr hn]
  unfold Delivers
  change execIterativeUnitDone { s with now := some (.iterativeUnitDone core) } = _
  unfold execIterativeUnitDone
  simp only [show (coreAt (taken { s with now := some (.iterativeUnitDone core) }) core).iterq = named_ s th :: rest from hq]
  cases rest <;> rfl

/-- What the end of a use leaves: the thread goes on, its unit's queue and timer have moved. -/
theorem unitUse_ends (hc : Canonical s) (hnow : s.now = none) (ht : threadAt s s.cur = some th) (hf : th.form = .inFlight .unit)
    {c : Core} (hcore : keepUnitqs (coreAt s core) { c with qparked := (coreAt s core).qparked } = coreAt s core)
    (next : Option (Nat × Event)) :
    Becomes s (advance (leaveUnit core c next (taken s))) (passed s th) ∧
    Only s (advance (leaveUnit core c next (taken s))) keepUnitqs keepTimers := by
  obtain ⟨honly, -⟩ := leaveUnit_frame hc hnow hcore next
  obtain ⟨hcur, hth⟩ := threadAt_leaveUnit ht core c next
  obtain ⟨hq, had⟩ := advance_of (s := leaveUnit core c next (taken s)) (Quiet.refl _) (by rw [hcur]; exact hth)
    (fun tr h => by rw [hf] at h; cases h)
  rw [hcur] at had
  refine ⟨had.trans (congrArg some ?_), only_trans restores_units honly (only_of_quiet restores_units hq)⟩
  unfold passed
  rw [cycle_of_only restores_units honly]

end

/-! ### The statement -/

/-- Settles O3: `divides_regs` for the start of a division, `finish_divider` for its end, `unitUse_ends` for the other units. -/
theorem dividerAndUnits : Obligations.DividerAndUnits := by
  unfold Obligations.DividerAndUnits
  refine ⟨⟨fun i d a b ma mb f hi s th hc he ha hb hd => ?_, fun s core th d v ts rest hc hd hpc hq ht hf => ?_⟩,
    fun s core th rest e hc hnow ht hf hrest he => ?_⟩
  · have hun : threadAt (unparkQueues s) s.cur = some th := by simpa using he.1
    generalize hw : WaitFor.divider d.toNat (f (val th a) (val th b))
      (([src a ma, src b mb].filter (fun x => takes [src a ma, src b mb] x.r)).map (fun x => x.r)) [] = w
    obtain ⟨hq, hth⟩ := inFlight_of (quiet_unparkQueues hc) hun w
    obtain ⟨honly, hslots, hdivq, htimers⟩ := enterDivider_frame (s := inFlight w (unparkQueues s))
      (canonical_mapMe (canonical_unparkQueues hc) _) (s.cur / 16) (named_ s th)
    have hall := only_trans restores_divider (only_of_quiet restores_divider hq) honly
    refine ⟨_, _, (exec_quotient hi s).trans (divides_regs f he ha hb hd), ?_, rfl, ?_, ?_, ?_, ?_⟩
    all_goals rw [hw]
    · exact (threadAt_congr hslots _).trans hth
    · exact hdivq.trans (by rw [divq_of_quiet hq]; rfl)
    · refine htimers.trans ?_
      rw [divq_of_quiet hq, hq.time8, timers_of_quiet hq]
    · exact hall
    · exact rdByte_of_only restores_divider hall
  · obtain ⟨honly, hslots, hdivq, htimers⟩ := leaveDivider_frame hc core rest
    have hcur := cur_of_only restores_dividerEvent honly
    have hth : threadAt (leaveDivider core rest (taken s)) (leaveDivider core rest (taken s)).cur = some th := by
      rw [hcur]; exact (threadAt_congr hslots _).trans ht
    obtain ⟨hquiet, th', hb, hpassed, hregs⟩ := finish_divider (v := v) (ts := ts) hth hd hpc (fun tr h => by rw [hf] at h; cases h)
    have hall := only_trans restores_dividerEvent honly (only_of_quiet restores_dividerEvent hquiet)
    refine ⟨_, th', delivers_dividerDone hd hq ht hf, ?_, ?_, hregs, ?_, ?_, hall, rdByte_of_only restores_dividerEvent hall⟩
    · rw [hcur] at hb; exact hb
    · rw [hpassed]
      unfold passed
      rw [cycle_of_only restores_dividerEvent honly]
    · rw [divq_of_quiet hquiet, hdivq]
    · rw [timers_of_quiet hquiet, htimers]
  · rcases he with ⟨rfl, hq, hi⟩ | ⟨rfl, hq, hn⟩
    · obtain ⟨next, hdel⟩ := delivers_normaliserDone ht hf hq hrest hi
      obtain ⟨hb, honly⟩ := unitUse_ends (c := { coreAt s core with normq := rest }) hc hnow ht hf rfl next
      exact ⟨_, hdel, hb, honly, rdByte_of_only restores_units honly⟩
    · obtain ⟨next, hdel⟩ := delivers_iterativeUnitDone ht hf hq hrest hn
      obtain ⟨hb, honly⟩ := unitUse_ends (c := { coreAt s core with iterq := rest }) hc hnow ht hf rfl next
      exact ⟨_, hdel, hb, honly, rdByte_of_only restores_units honly⟩

end Sys2Proof.Proofs.Units
end

section
/-!
PROOF. Floating-point operations and conversions (O17, O18): the elements written with their flags, and the uses of the
normaliser and the iterative unit with which an instruction ends.
-/
namespace Sys2Proof.Proofs.Floats
open Sys2Proof Sys2Proof.Machine Sys2Proof.Safety Sys2Proof.Proofs.Units Sys2Proof.Proofs.Vectors

set_option Elab.async false

/-! ### The end of a floating-point instruction -/

section
variable {s u : State} {th T : Thread}

/-- The executing thread enters the queues of the units it uses; the use of an idle unit begins. -/
def enterUnits (norm iter : Bool) (s : State) : State :=
  let core := myCore s
  let th := myThr s
  let c := coreAt s core
  let s := setCore s core { c with normq := if norm then c.normq ++ [th] else c.normq,
                                   iterq := if iter then c.iterq ++ [th] else c.iterq }
  let s := if norm ∧ c.normq = [] then after (normaliserTime s th) (.normaliserDone core) s else s
  if iter ∧ c.iterq = [] then after 120 (.iterativeUnitDone core) s else s

theorem useUnits_eq (norm iter : Bool) (s : State) : useUnits norm iter s =
    if norm = false ∧ iter = false then advance s else inFlight .unit (enterUnits norm iter s) := rfl

/-- A timer that may be set. -/
theorem only_after {put : Core → Core → Core} (hr : Restores put keepTimers) {p : Prop} [Decidable p] (d : Nat) (e : Event)
    (h : Only s u put keepTimers) : Only s (if p then after d e u else u) put keepTimers := by
  split
  · exact only_trans hr h (only_of_back hr rfl rfl rfl rfl)
  · exact h

theorem enterUnits_only (hc : Canonical s) (norm iter : Bool) : Only s (enterUnits norm iter s) keepUnitqs keepTimers :=
  only_after restores_units _ _ (only_after restores_units _ _ (only_setCore restores_units hc _ rfl))

theorem enterUnits_slots (norm iter : Bool) (s : State) : (enterUnits norm iter s).slots = s.slots := by
  unfold enterUnits
  dsimp only
  split <;> split <;> rfl

theorem enterUnits_core (hc : Canonical s) (norm iter : Bool) : coreAt (enterUnits norm iter s) (myCore s) =
    { coreAt s (myCore s) with
      normq := if norm then (coreAt s (myCore s)).normq ++ [myThr s] else (coreAt s (myCore s)).normq,
      iterq := if iter then (coreAt s (myCore s)).iterq ++ [myThr s] else (coreAt s (myCore s)).iterq } := by
  refine Eq.trans ?_ ((coreAt_setCore hc (myCore s) (myCore s) _).trans (if_pos rfl))
  unfold enterUnits coreAt
  dsimp only
  split <;> split <;> rfl

/-- R78, R186: the uses of idle units begin, in the order normaliser, iterative unit. -/
theorem enterUnits_timers (ht : threadAt s s.cur = some th) (norm iter : Bool) : (enterUnits norm iter s).timers = s.timers ++
    (if norm = true ∧ (coreAt s (myCore s)).normq = [] then
      [(s.time8 + 10 * ((th.issued + 8 - s.cycle) + 4), .normaliserDone (myCore s))] else []) ++
    (if iter = true ∧ (coreAt s (myCore s)).iterq = [] then [(s.time8 + 120, .iterativeUnitDone (myCore s))] else []) := by
  have htime : ∀ c, normaliserTime (setCore s (myCore s) c) (myThr s) = 10 * ((th.issued + 8 - s.cycle) + 4) := fun c => by
    have hth : threadAt (setCore s (myCore s) c) (myThr s).slot = some th := ht
    unfold normaliserTime
    rw [hth]
    rfl
  unfold enterUnits
  dsimp only
  rw [htime]
  split <;> split <;> simp [after]

theorem unitqs_of_quiet (h : Quiet s u) (core : Nat) :
    (coreAt u core).normq = (coreAt s core).normq ∧ (coreAt u core).iterq = (coreAt s core).iterq := by
  rw [← h.cores core]
  exact ⟨rfl, rfl⟩

/-- An instruction that uses no unit completes. -/
theorem useUnits_none (hq : Quiet s u) (hu : threadAt u s.cur = some T) (hf : T.form = .ready) :
    Quiet s (useUnits false false u) ∧ Becomes s (useUnits false false u) (passed s T) :=
  advance_of hq hu (fun tr h => by rw [hf] at h; cases h)

/-- What a floating-point instruction whose effects are quiet ends with (R78, R186). -/
theorem usesUnits_useUnits (hc : Canonical u) (hq : Quiet s u) (hu : threadAt u s.cur = some T) (hf : T.form = .ready)
    (norm iter : Bool) :
    ∃ th', Becomes s (useUnits norm iter u) th' ∧ UsesUnits s (useUnits norm iter u) T th' norm iter := by
  by_cases hnone : norm = false ∧ iter = false
  · obtain ⟨rfl, rfl⟩ := hnone
    obtain ⟨hq', hb⟩ := useUnits_none hq hu hf
    obtain ⟨hn, hi⟩ := unitqs_of_quiet hq' (s.cur / 16)
    refine ⟨_, hb, ?_, ?_, ?_, ?_, only_of_quiet restores_units hq', hq'.bytes⟩
    · simp
    · simpa using hn
    · simpa using hi
    · simpa using timers_of_quiet hq'
  · have hcore : myCore u = s.cur / 16 := by unfold myCore; rw [hq.cur]
    have hu' : threadAt u u.cur = some T := by rw [hq.cur]; exact hu
    have hthr : myThr u = ⟨s.cur, T.ctx, T.tid⟩ := by unfold myThr; rw [me_of hu', hq.cur]
    obtain ⟨hn, hi⟩ := unitqs_of_quiet hq (s.cur / 16)
    have henter := only_trans restores_units (only_of_quiet restores_units hq) (enterUnits_only hc norm iter)
    have hunits := enterUnits_core hc norm iter
    have htimers := enterUnits_timers hu' norm iter
    rw [hcore, hthr, hn, hi] at hunits
    rw [hcore, hn, hi, hq.time8, hq.cycle, timers_of_quiet hq] at htimers
    have hth : threadAt (enterUnits norm iter u) (enterUnits norm iter u).cur = some T := by
      rw [cur_of_only restores_units (enterUnits_only hc norm iter)]
      exact (threadAt_congr (enterUnits_slots ..) _).trans hu'
    obtain ⟨hquiet, hb⟩ := inFlight_of (Quiet.refl _) hth .unit
    have hall := only_trans restores_units henter (only_of_quiet restores_units hquiet)
    rw [cur_of_only restores_units henter] at hb
    obtain ⟨hn', hi'⟩ := unitqs_of_quiet hquiet (s.cur / 16)
    rw [useUnits_eq, if_neg hnone]
    refine ⟨_, hb, ?_, ?_, ?_, ?_, hall, rdByte_of_only restores_units hall⟩
    · rw [if_pos (by cases norm <;> cases iter <;> simp_all)]
    · exact hn'.trans (congrArg Core.normq hunits)
    · exact hi'.trans (congrArg Core.iterq hunits)
    · exact (timers_of_quiet hquiet).trans htimers

end

/-! ### Elements -/

section
variable {w e : Nat}

/-- A place past the end of the register holds nothing. -/
theorem setVelem_past (v : Vec) (x : Nat) {i : Nat} (h : 512 ≤ w * i) : setVelem v w i x = v := by
  have hdvd : 2 ^ 512 ∣ x % 2 ^ w * 2 ^ (w * i) := (pow_dvd_pow 2 h).mul_left _
  have hzero : velem v w i = 0 := by
    unfold velem
    rw [Nat.div_eq_of_lt (v.isLt.trans_le (Nat.pow_le_pow_right (by decide) h)), Nat.zero_mod]
  apply BitVec.eq_of_toNat_eq
  unfold setVelem
  rw [hzero, Nat.zero_mul, Nat.sub_zero, BitVec.toNat_ofNat, Nat.add_mod, Nat.mod_eq_zero_of_dvd hdvd, Nat.add_zero,
    Nat.mod_mod, Nat.mod_eq_of_lt v.isLt]

/-- The elements of es that the register has room for have the values of f, the others are as they were. -/
theorem elem_putElems_of_dvd (hw : w ∣ 512) (es : List Nat) (f : Nat → Nat) (v : Vec) (he : e < 512 / w) :
    elem (putElems w es f v) w e = if e ∈ es then f e % 2 ^ w else elem v w e := by
  unfold putElems
  induction es generalizing v with
  | nil => simp
  | cons i es ih =>
    have hset : elem (setVelem v w i (f i)) w e = if e = i then f i % 2 ^ w else elem v w e := by
      by_cases hi : i < 512 / w
      · exact elem_setVelem v (f i) hi
      · have hpast : 512 ≤ w * i := (Nat.mul_div_cancel' hw).symm.trans_le (Nat.mul_le_mul_left _ (Nat.le_of_not_lt hi))
        rw [setVelem_past v _ hpast, if_neg (by omega)]
    rw [List.foldl_cons, ih, hset]
    by_cases hes : e ∈ es
    · simp [hes]
    · by_cases hei : e = i <;> simp [hes, hei]

/-- The result of an element in the form of the statement. -/
def resOf (x : Nat × Fl × Bool) : ElemRes := ⟨x.1, x.2.1, x.2.2⟩

theorem floatElems_eq (es : List Nat) (res : Nat → Nat × Fl × Bool) (v : Vec) :
    floatElems w es (fun e => resOf (res e)) v =
      ⟨putElems w es (fun e => (res e).1) v, allFlags es res, es.any fun e => (res e).2.2⟩ := by
  have hgo : ∀ (es : List Nat) (r : VFloat), es.foldl (fun r e =>
      let x := resOf (res e)
      { v := setVelem r.v w e x.code, fl := r.fl ||| x.fl, norm := r.norm || x.norm }) r =
      ⟨putElems w es (fun e => (res e).1) r.v, es.foldl (fun f e => f ||| (res e).2.1) r.fl, r.norm || es.any fun e => (res e).2.2⟩ := by
    intro es
    induction es with
    | nil => intro r; simp [putElems]
    | cons e es ih =>
      intro r
      rw [List.foldl_cons, ih, List.any_cons, ← Bool.or_assoc]
      rfl
  refine (hgo es { v := v }).trans ?_
  rw [Bool.false_or]
  rfl

theorem width_dvd (t : BitVec 3) : width t ∣ 512 := by
  revert t; decide

theorem catBits_dvd (code : Nat) : catBits code ∣ 512 := by
  unfold catBits
  split <;> decide

end

/-! ### A floating-point instruction -/

section
variable {s : State} {th : Thread} {d : BitVec 5} {rs : List (BitVec 5)}

/-- R35, R413: a word whose registers the core shows is charged and executed. -/
theorem vecGate_of_visible (he : Executing s th) (h : Visible s rs) (k : State → Result) :
    vecGate rs s k = k (charge th.ctx 200 s) := by
  unfold vecGate
  rw [if_neg, me_of he.1, if_pos he.2.1]
  rw [List.any_eq_true]
  rintro ⟨r, hr, hle⟩
  exact absurd (of_decide_eq_true hle) (Nat.not_le.2 (h r hr))

/-- The thread after a floating-point instruction has written v to V[d] and reported its flags. -/
def wroteFloat (th : Thread) (d : BitVec 5) (v : Vec) (fl : Fl) : Thread :=
  { th with vecs := th.vecs.setIfInBounds d.toNat v, status := setFld th.status 4 1 1,
            fstat := th.fstat ||| (fl.zeroExtend 64 <<< 8) }

/-- R74, R185: a floating-point instruction writes its register, reports its flags and uses its units. -/
theorem vecFloat_of_visible (hc : Canonical s) (he : Executing s th) (h : Visible s (d :: rs)) (iter : Bool) (f : Thread → VFloat) :
    ∃ u th', vecFloat d rs iter f s = .next u ∧ Becomes s u th' ∧
      UsesUnits s u (wroteFloat th d (f th).v (f th).fl) th' (f th).norm iter := by
  have hcharged : Executing (charge th.ctx 200 s) th := he
  have hwrote := quiet_mapMe (charge th.ctx 200 s) fun t => { t with vecs := t.vecs.setIfInBounds d.toNat (f th).v, status := setFld t.status 4 1 1 }
  have hth := threadAt_mapMe_of hwrote (threadAt_mapMe hcharged.1 fun t =>
    { t with vecs := t.vecs.setIfInBounds d.toNat (f th).v, status := setFld t.status 4 1 1 }) fun t => { t with fstat := orFlags t.fstat (f th).fl }
  have hquiet := (quiet_charge hc th.ctx 200).trans (hwrote.trans (quiet_mapMe _ fun t => { t with fstat := orFlags t.fstat (f th).fl }))
  have hcan := canonical_mapMe (canonical_mapMe (canonical_charge hc th.ctx 200) fun t =>
    { t with vecs := t.vecs.setIfInBounds d.toNat (f th).v, status := setFld t.status 4 1 1 }) fun t => { t with fstat := orFlags t.fstat (f th).fl }
  obtain ⟨th', hb, huses⟩ := usesUnits_useUnits (s := s) (T := wroteFloat th d (f th).v (f th).fl) hcan hquiet hth he.2.1 (f th).norm iter
  refine ⟨_, th', ?_, hb, huses⟩
  unfold vecFloat
  rw [vecGate_of_visible he h]
  refine (withOps_ok (operands_none hcharged.1 (by simp)) _).trans ?_
  rw [atTop_of hcharged, me_of hcharged.1]
  rfl

/-- The same where the elements es take the results res. -/
theorem vecFloat_writes (hc : Canonical s) (he : Executing s th) (h : Visible s (d :: rs)) (iter : Bool) {f : Thread → VFloat} {w : Nat}
    (hw : w ∣ 512) {es : List Nat} {res : Nat → Nat × Fl × Bool} (hf : f th = floatElems w es (fun e => resOf (res e)) (vreg th d)) :
    ∃ u, vecFloat d rs iter f s = .next u ∧ FloatWrites s u th d w es res iter := by
  obtain ⟨u, th', hexec, hb, huses⟩ := vecFloat_of_visible hc he h iter f
  rw [hf, floatElems_eq] at huses
  exact ⟨u, hexec, th', _, hb, fun e hlt => elem_putElems_of_dvd hw es _ _ hlt, huses⟩

end

/-! ### O17 -/

theorem elemFmt_eq_fmtOf {t : BitVec 3} (h : t = 4 ∨ t = 5 ∨ t = 6) : elemFmt t = fmtOf t := by
  obtain rfl | rfl | rfl := h <;> rfl

theorem enabledList_eq_onList (th : Thread) (k : BitVec 2) (w : Nat) :
    enabledList (maskOf th k) w (elemCount w) = onList (mask th k) w := by
  rw [maskOf_eq_mask]
  rfl

/-- R188: each row of the table is its exact function, rounded once. -/
theorem exec_floatRow {i : Instr} {d : BitVec 5} {rs : List (BitVec 5)} {k : BitVec 2} {t : BitVec 3} {iter : Bool}
    {f : Nat → List FVal → Exact} (h : floatRow i = some (d, rs, k, t, iter, f)) (s : State) :
    exec i s = floatOp d rs k t iter f s := by
  unfold floatRow at h
  split at h <;> cases h <;> rfl

/-- Settles O17: a row is a floating-point instruction (`exec_floatRow`), which writes its elements (`vecFloat_writes`). -/
theorem floatResults : Obligations.FloatResults := by
  unfold Obligations.FloatResults
  intro i d rs k t iter f hrow s th hc he hv ht
  rw [exec_floatRow hrow]
  refine vecFloat_writes hc he hv iter (width_dvd t) ?_
  dsimp only
  rw [elemBits_eq_width, enabledList_eq_onList, elemFmt_eq_fmtOf ht]
  rfl

/-! ### O18 -/

theorem filter_range_window (c n m : Nat) (h : c + n ≤ m) :
    (List.range m).filter (fun e => decide (c ≤ e ∧ e < c + n)) = (List.range n).map (c + ·) := by
  obtain ⟨r, rfl⟩ := Nat.exists_eq_add_of_le h
  rw [List.range_add, List.range_add, List.filter_append, List.filter_append, List.filter_eq_nil_iff.2, List.filter_eq_self.2,
    List.filter_eq_nil_iff.2]
  · simp
  · simp
  · simp
  · simp only [List.mem_range, decide_eq_true_eq]
    omega

/-- R194: the part of the destination that a narrowing conversion writes lies in the register. -/
theorem cvtPart_le : ∀ (sf u : BitVec 3) (part : BitVec 2), cvtPart sf u part = true → width u < width sf →
    part.toNat * (512 / max (width sf) (width u)) + 512 / max (width sf) (width u) ≤ 512 / width u := by
  decide

/-- R194: the elements that a conversion writes. -/
theorem cvtElems_eq {u sf : BitVec 3} {part : BitVec 2} (h : cvtPart sf u part = true) (p : Nat → Bool) :
    ((List.range (512 / max (width sf) (width u))).map fun j =>
        if width u < width sf then part.toNat * (512 / max (width sf) (width u)) + j else j).filter p =
      ((List.range (512 / width u)).filter p).filter fun e => decide (width u < width sf →
        part.toNat * (512 / max (width sf) (width u)) ≤ e ∧
          e < part.toNat * (512 / max (width sf) (width u)) + 512 / max (width sf) (width u)) := by
  by_cases hlt : width u < width sf
  · simp only [hlt, if_true, true_imp_iff]
    rw [← filter_range_window _ _ _ (cvtPart_le sf u part h hlt), List.filter_filter, List.filter_filter]
    simp only [Bool.and_comm]
  · simp only [hlt, if_false, false_imp_iff, decide_true, List.filter_true, List.map_id', max_eq_right (Nat.le_of_not_lt hlt)]

section
variable {s : State} {th : Thread}

/-- R194: a vcvt that a word can encode names a part within the ratio of the widths. -/
theorem cvtPart_of_wellFormed {d a : BitVec 5} {part k : BitVec 2} {u sf : BitVec 3}
    (h : (Instr.vcvt d a part u k sf).wellFormed = true) : cvtPart sf u part = true := by
  by_contra hno
  rw [Bool.not_eq_true] at hno
  unfold Instr.wellFormed Instr.faults Faults.first at h
  simp only [hno] at h
  cases htypes : cvtTypes sf u <;> rw [htypes] at h <;> cases h

/-- R194: vcvt. -/
theorem vcvt_writes (hc : Canonical s) (he : Executing s th) {d a : BitVec 5} {part : BitVec 2} {u : BitVec 3} {k : BitVec 2}
    {sf : BitVec 3} (hwf : (Instr.vcvt d a part u k sf).wellFormed = true) (hv : Visible s [d, a]) :
    ∃ t, exec (.vcvt d a part u k sf) s = .next t ∧
      let n := 512 / max (width sf) (width u)
      FloatWrites s t th d (width u)
        ((onList (mask th k) (width u)).filter (fun e =>
          decide (width u < width sf → part.toNat * n ≤ e ∧ e < part.toNat * n + n)))
        (fun e =>
          let x := elem (vreg th a) (width sf) (if width sf < width u then part.toNat * n + e
            else if width u < width sf then e - part.toNat * n else e)
          let r := typeEnc u (fld th.fstat 0 2) (typeDec sf x)
          (r.1, r.2, typeSubnormal sf x || typeSubnormal u r.1)) false := by
  have hpart := cvtPart_of_wellFormed hwf
  change ∃ t, execVcvt d a part u k sf s = .next t ∧ _
  unfold execVcvt
  refine vecFloat_writes hc he hv false (width_dvd u) ?_
  dsimp only
  rw [elemBits_eq_width, elemBits_eq_width, maskOf_eq_mask]
  have hes := cvtElems_eq hpart (enabled (mask th k) (width u))
  change floatElems (width u) (((List.range (512 / max (width sf) (width u))).map fun j =>
    if width u < width sf then part.toNat * (512 / max (width sf) (width u)) + j else j).filter _) _ _ = _
  rw [hes]
  generalize 512 / max (width sf) (width u) = n
  have hsrc : ∀ e, (if width sf < width u then part.toNat * n + (e - if width u < width sf then part.toNat * n + 0 else 0)
      else e - if width u < width sf then part.toNat * n + 0 else 0) =
      if width sf < width u then part.toNat * n + e else if width u < width sf then e - part.toNat * n else e := fun e => by
    split <;> split <;> omega
  simp only [hsrc]
  rfl

/-- R195: vdec. -/
theorem vdec_writes (hc : Canonical s) (he : Executing s th) {d a fmt : BitVec 5} {k : BitVec 2} {t : BitVec 3}
    (ht : t = 4 ∨ t = 5 ∨ t = 6) (hv : Visible s [d, a]) :
    ∃ u, exec (.vdec d a fmt k t) s = .next u ∧
      let code := packedCode fmt
      let bank := (coreAt s (s.cur / 16)).banks[fld th.fstat 16 2]?.getD {}
      FloatWrites s u th d (width t) (onList (mask th k) (width t))
        (fun e =>
          let x := elem (vreg th a) (catBits code) e
          let r := fround (fmtOf t) (fld th.fstat 0 2) (quieted (catDec code bank x))
          (r.1, r.2, packedSubnormal code bank x || isSubnormal (fmtOf t) r.1)) false := by
  change ∃ u, execVdec d a fmt k t s = .next u ∧ _
  unfold execVdec
  refine vecFloat_writes hc he hv false (width_dvd t) ?_
  dsimp only
  rw [elemBits_eq_width, enabledList_eq_onList, elemFmt_eq_fmtOf ht, me_of he.1]
  rfl

/-- R195: venc into a format, or into an encodable bank. -/
theorem venc_uses (hc : Canonical s) (he : Executing s th) {d a fmt : BitVec 5} {k : BitVec 2} {t : BitVec 3}
    (ht : t = 4 ∨ t = 5 ∨ t = 6) (hv : Visible s [d, a])
    (hbank : packedCode fmt ≠ 32 ∨ ((coreAt s (s.cur / 16)).banks[fld th.fstat 16 2]?.getD {}).encodable = true) :
    ∃ u, exec (.venc d a fmt k t) s = .next u ∧
      let code := packedCode fmt
      let bank := (coreAt s (s.cur / 16)).banks[fld th.fstat 16 2]?.getD {}
      FloatWrites s u th d (catBits code) (onList (mask th k) (width t))
        (fun e =>
          let x := elem (vreg th a) (width t) e
          let r := catEnc code bank 0 (fdec (fmtOf t) x)
          (r.1, r.2, isSubnormal (fmtOf t) x || packedSubnormal code bank r.1)) false := by
  change ∃ u, execVenc d a fmt k t s = .next u ∧ _
  unfold execVenc
  dsimp only
  rw [me_of he.1, if_neg (fun h => hbank.elim (fun hne => hne h.1) fun henc => by
    have hno := h.2.symm.trans henc
    cases hno)]
  refine vecFloat_writes hc he hv false (catBits_dvd _) ?_
  rw [elemBits_eq_width, enabledList_eq_onList, elemFmt_eq_fmtOf ht]
  rfl

/-- R197: an element that is a number times a number is the exact product, rounded once. -/
theorem scaleElem_eq {t : BitVec 3} (ht : t = 4 ∨ t = 5 ∨ t = 6) (mode x sc : Nat) :
    (let r := scaleElem t mode x sc
     (r.code, r.fl, r.norm)) =
    (let r := if sc = 255 ∨ (fdec (fmtOf t) x).isNan = true then ((scaleElem t mode x sc).code, (scaleElem t mode x sc).fl)
        else match fdec (fmtOf t) x with
          | .fin n m g => Exact.round (fmtOf t) mode { v := .fin n m (g + sc - 127) }
          | v => fround (fmtOf t) mode v
     (r.1, r.2, isSubnormal (fmtOf t) x || isSubnormal (fmtOf t) r.1)) := by
  by_cases hspecial : sc = 255 ∨ (fdec (fmtOf t) x).isNan = true
  · unfold scaleElem
    rw [elemFmt_eq_fmtOf ht]
    simp only [if_pos hspecial]
  · unfold scaleElem
    rw [elemFmt_eq_fmtOf ht]
    simp only [if_neg hspecial]
    rw [not_or] at hspecial
    cases hv : fdec (fmtOf t) x with
    | nan neg frac => exact absurd (by rw [hv]; rfl) hspecial.2
    | inf neg => simp [FVal.isNan, hspecial.1]
    | fin neg m g => simp [FVal.isNan, hspecial.1]

/-- R197: vscale. -/
theorem vscale_writes (hc : Canonical s) (he : Executing s th) {d a b : BitVec 5} {k : BitVec 2} {t : BitVec 3}
    (ht : t = 4 ∨ t = 5 ∨ t = 6) (hv : Visible s [d, a, b]) :
    ∃ u, exec (.vscale d a b k t) s = .next u ∧
      FloatWrites s u th d (width t) (onList (mask th k) (width t))
        (fun e =>
          let x := elem (vreg th a) (width t) e
          let sc := elem (vreg th b) 32 (width t * e / 32) % 256
          let r := if sc = 255 ∨ (fdec (fmtOf t) x).isNan = true then
              ((scaleElem t (fld th.fstat 0 2) x sc).code, (scaleElem t (fld th.fstat 0 2) x sc).fl)
            else match fdec (fmtOf t) x with
              | .fin n m g => Exact.round (fmtOf t) (fld th.fstat 0 2) { v := .fin n m (g + sc - 127) }
              | v => fround (fmtOf t) (fld th.fstat 0 2) v
          (r.1, r.2, isSubnormal (fmtOf t) x || isSubnormal (fmtOf t) r.1)) false := by
  change ∃ u, execVscale d a b k t s = .next u ∧ _
  unfold execVscale
  refine vecFloat_writes hc he hv false (width_dvd t) ?_
  dsimp only
  rw [elemBits_eq_width, enabledList_eq_onList]
  congr 1
  funext e
  exact congrArg resOf (scaleElem_eq ht _ _ _)

end

/-- Settles O18: each conversion is a floating-point instruction (`vecFloat_writes`) on the elements its clause names. -/
theorem conversionResults : Obligations.ConversionResults := by
  unfold Obligations.ConversionResults
  intro s th hc he
  refine ⟨fun d a part u k sf hwf hv => vcvt_writes hc he hwf hv, fun d a fmt k t ht hv => vdec_writes hc he ht hv,
    fun d a fmt k t ht hv hbank => ?_, fun d a b k t ht hv => vscale_writes hc he ht hv⟩
  obtain ⟨u, hexec, th', v, hb, helems, huses⟩ := venc_uses hc he ht hv hbank
  exact ⟨u, th', v, hexec, hb, helems, huses⟩

end Sys2Proof.Proofs.Floats
end

section
/-!
PROOF. Vector compares, moves and reductions (O19): the lanes of a mask, the tree of vfredadd, and the instructions between
vector and general registers.
-/
namespace Sys2Proof.Proofs.Reductions
open Sys2Proof Sys2Proof.Machine Sys2Proof.Safety Sys2Proof.Proofs.Units Sys2Proof.Proofs.Vectors Sys2Proof.Proofs.Floats

set_option Elab.async false

/-! ### Masks of compares (R190) -/

section
variable {p q : Nat → Bool}

/-- The number whose bits below n are those of p. -/
def bitSum (p : Nat → Bool) (n : Nat) : Nat := (List.range n).foldl (fun x i => x + if p i then 2 ^ i else 0) 0

theorem bitSum_succ (p : Nat → Bool) (n : Nat) : bitSum p (n + 1) = bitSum p n + if p n then 2 ^ n else 0 := by
  unfold bitSum
  rw [List.range_succ, List.foldl_append]
  rfl

theorem bitSum_lt (p : Nat → Bool) (n : Nat) : bitSum p n < 2 ^ n := by
  induction n with
  | zero => exact Nat.one_pos
  | succ n ih =>
    rw [bitSum_succ, Nat.pow_succ]
    split <;> omega

theorem testBit_bitSum (p : Nat → Bool) {n j : Nat} (h : j < n) : (bitSum p n).testBit j = p j := by
  induction n with
  | zero => cases h
  | succ n ih =>
    rw [bitSum_succ]
    rcases Nat.lt_or_eq_of_le (Nat.le_of_lt_succ h) with hlt | rfl
    · split
      · rw [Nat.add_comm, Nat.testBit_two_pow_add_gt hlt, ih hlt]
      · rw [Nat.add_zero, ih hlt]
    · have hoff : (bitSum p j).testBit j = false := Nat.testBit_lt_two_pow (bitSum_lt p j)
      split
      next hp => rw [Nat.add_comm, Nat.testBit_two_pow_add_eq, hoff, hp]; rfl
      next hp => rw [Nat.add_zero, hoff]; simpa using hp

/-- The elements of a lane, for a width that divides a lane's. -/
theorem mem_laneElems_of_mul {w c i e : Nat} (hw : 0 < w) (hc : w * c = 32) (hi : i < 16) :
    e ∈ laneElems w i ↔ e < 512 / w ∧ 32 * i < w * (e + 1) ∧ w * e < 32 * (i + 1) := by
  have hdiv : 32 / w = c := Nat.div_eq_of_eq_mul_right hw hc.symm
  have hall : 512 / w = c * 16 := Nat.div_eq_of_eq_mul_right hw (by rw [← Nat.mul_assoc, hc])
  have hlo : 32 * i < w * (e + 1) ↔ c * i < e + 1 := by rw [← hc, Nat.mul_assoc, Nat.mul_lt_mul_left hw]
  have hhi : w * e < 32 * (i + 1) ↔ e < c * (i + 1) := by rw [← hc, Nat.mul_assoc, Nat.mul_lt_mul_left hw]
  have h64 : w ≠ 64 := by
    rintro rfl
    omega
  have htop : c * (i + 1) ≤ c * 16 := Nat.mul_le_mul_left _ hi
  unfold laneElems
  rw [if_neg h64, hdiv, hall, hlo, hhi, List.mem_map]
  simp only [List.mem_range, Nat.mul_add_one] at htop ⊢
  constructor
  · rintro ⟨j, hj, rfl⟩
    omega
  · intro h
    exact ⟨e - c * i, by omega, by omega⟩

/-- The elements of a lane. -/
theorem mem_laneElems {t : BitVec 3} {i e : Nat} (hi : i < 16) :
    e ∈ laneElems (width t) i ↔ e < 512 / width t ∧ 32 * i < width t * (e + 1) ∧ width t * e < 32 * (i + 1) := by
  have hw : width t = 64 ∨ ∃ c < 5, width t * c = 32 := by revert t; decide
  rcases hw with hw | ⟨c, -, hw⟩
  · unfold laneElems
    rw [hw, if_pos rfl, List.mem_singleton]
    omega
  · exact mem_laneElems_of_mul (width_pos t) hw hi

/-- A bit of a compare's mask is the statement's. -/
theorem getLsbD_compareMask (m : BitVec 16) (t : BitVec 3) (f : Nat → Bool) {j : Nat} (hj : j < 16) :
    (compareMask m (width t) f).getLsbD j = laneHolds m (width t) f j := by
  have hbit : (compareMask m (width t) f).getLsbD j = (laneElems (width t) j).all fun e => enabled m (width t) e && f e := by
    unfold compareMask
    rw [BitVec.getLsbD_ofNat, decide_eq_true hj, Bool.true_and]
    exact testBit_bitSum (fun i => (laneElems (width t) i).all fun e => enabled m (width t) e && f e) hj
  rw [hbit, Bool.eq_iff_iff]
  unfold laneHolds
  simp only [List.all_eq_true, mem_laneElems hj, List.mem_range, Bool.or_eq_true, Bool.not_eq_true', Bool.and_eq_false_iff,
    decide_eq_false_iff_not]
  constructor
  · intro h e he
    by_cases hin : 32 * j < width t * (e + 1) ∧ width t * e < 32 * (j + 1)
    · exact Or.inr (h e ⟨he, hin⟩)
    · exact Or.inl (not_and_or.1 hin)
  · rintro h e ⟨he, hlo, hhi⟩
    exact (h e he).resolve_left (not_or.2 ⟨not_not.2 hlo, not_not.2 hhi⟩)

theorem setMask_eq_withMask (d : BitVec 2) (v : BitVec 16) (th : Thread) : setMask d v th = withMask d v th := by
  obtain rfl | rfl | rfl | rfl : d = 0 ∨ d = 1 ∨ d = 2 ∨ d = 3 := by revert d; decide
  all_goals rfl

theorem withMask_frame (d : BitVec 2) (v : BitVec 16) (th : Thread) :
    (withMask d v th).form = th.form ∧ (withMask d v th).fstat = th.fstat := by
  unfold withMask
  split
  · exact ⟨rfl, rfl⟩
  · split
    · exact ⟨rfl, rfl⟩
    · split <;> exact ⟨rfl, rfl⟩

end

/-! ### Compares (R190) -/

section
variable {s : State} {th : Thread} {d : BitVec 2} {a b : BitVec 5} {k : BitVec 2} {t : BitVec 3}

/-- R190: an integer compare. -/
theorem intCompare_of_visible (hc : Canonical s) (he : Executing s th) (hv : Visible s [a, b]) (f : Nat → Nat → Bool) :
    ∃ u v, intCompare d a b k t f s = .next u ∧ Quiet s u ∧ Becomes s u (passed s (withMask d v th)) ∧
      ∀ j, j < 16 → v.getLsbD j = laneHolds (mask th k) (width t)
        (fun e => f (elem (vreg th a) (width t) e) (elem (vreg th b) (width t) e)) j := by
  have hcharged : Executing (charge th.ctx 200 s) th := he
  have hmask := threadAt_mapMe hcharged.1 (setMask d
    (compareMask (mask th k) (width t) fun e => f (elem (vreg th a) (width t) e) (elem (vreg th b) (width t) e)))
  rw [setMask_eq_withMask] at hmask
  obtain ⟨hq, hb⟩ := complete_of hcharged (quiet_mapMe _ _) hmask ((withMask_frame ..).1.trans he.2.1)
  refine ⟨_, _, ?_, (quiet_charge hc _ _).trans hq, hb, fun j hj => getLsbD_compareMask _ t _ hj⟩
  unfold intCompare
  rw [vecGate_of_visible he hv]
  refine (withOps_ok (operands_none hcharged.1 (by simp)) _).trans ?_
  dsimp only
  rw [me_of hcharged.1, elemBits_eq_width, maskOf_eq_mask]
  rfl

/-- R190: the rows of the integer compares. -/
theorem exec_compareRow {i : Instr} {f : Nat → Nat → Bool} (h : compareRow i = some (d, a, b, k, t, f)) (s : State) :
    exec i s = intCompare d a b k t f s := by
  unfold compareRow at h
  split at h <;> cases h
  case h_1 => rfl
  case h_2 =>
    unfold exec execVcmpLt
    simp only [elemBits_eq_width, toSigned_eq_signedOf _ _ (width_pos t)]
  case h_3 => rfl

/-- The comparison of an element with its flags. -/
def tested (t : BitVec 3) (a b : BitVec 5) (kind : Nat) (th : Thread) (e : Nat) : Bool × Fl :=
  fTest kind (fdec (fmtOf t) (elem (vreg th a) (width t) e)) (fdec (fmtOf t) (elem (vreg th b) (width t) e))

/-- An element of one of the two sources is subnormal. -/
def anySubnormal (t : BitVec 3) (a b : BitVec 5) (th : Thread) (e : Nat) : Bool :=
  isSubnormal (fmtOf t) (elem (vreg th a) (width t) e) || isSubnormal (fmtOf t) (elem (vreg th b) (width t) e)

/-- The mask of a floating-point compare, and the flags of the enabled elements. -/
def testedMask (t : BitVec 3) (k : BitVec 2) (a b : BitVec 5) (kind : Nat) (th : Thread) : BitVec 16 :=
  compareMask (mask th k) (width t) fun e => (tested t a b kind th e).1
def testedFlags (t : BitVec 3) (k : BitVec 2) (a b : BitVec 5) (kind : Nat) (th : Thread) : Fl :=
  allFlags (onList (mask th k) (width t)) fun e => (0, (tested t a b kind th e).2, false)

/-- R190: a floating-point compare. -/
theorem floatCompare_of_visible (hc : Canonical s) (he : Executing s th) (hv : Visible s [a, b]) (ht : t = 4 ∨ t = 5 ∨ t = 6)
    (kind : Nat) :
    ∃ u v th', floatCompare d a b k t kind s = .next u ∧ Becomes s u th' ∧
      (∀ j, j < 16 → v.getLsbD j = laneHolds (mask th k) (width t) (fun e => (tested t a b kind th e).1) j) ∧
      UsesUnits s u { withMask d v th with fstat := th.fstat ||| ((testedFlags t k a b kind th).zeroExtend 64 <<< 8) } th'
        ((onList (mask th k) (width t)).any (anySubnormal t a b th)) false := by
  have hcharged : Executing (charge th.ctx 200 s) th := he
  have hlanes := fun j hj => getLsbD_compareMask (mask th k) t (fun e => (tested t a b kind th e).1) (j := j) hj
  change ∀ j, j < 16 → (testedMask t k a b kind th).getLsbD j = _ at hlanes
  generalize hv' : testedMask t k a b kind th = v at hlanes
  generalize hfl : testedFlags t k a b kind th = fl
  obtain ⟨hform, hfstat⟩ := withMask_frame d v th
  have hmask := quiet_mapMe (charge th.ctx 200 s) (setMask d v)
  have hreport := threadAt_mapMe_of hmask (threadAt_mapMe hcharged.1 (setMask d v)) fun T => { T with fstat := orFlags T.fstat fl }
  rw [setMask_eq_withMask, hfstat] at hreport
  obtain ⟨th', hb, huses⟩ := usesUnits_useUnits (s := s) (canonical_mapMe (canonical_mapMe (canonical_charge hc th.ctx 200) _) _)
    ((quiet_charge hc th.ctx 200).trans (hmask.trans (quiet_mapMe _ _))) hreport (hform.trans he.2.1)
    ((onList (mask th k) (width t)).any (anySubnormal t a b th)) false
  refine ⟨_, v, th', ?_, hb, hlanes, huses⟩
  subst hv' hfl
  unfold floatCompare
  rw [vecGate_of_visible he hv]
  refine (withOps_ok (operands_none hcharged.1 (by simp)) _).trans ?_
  dsimp only
  rw [atTop_of hcharged, me_of hcharged.1, elemBits_eq_width, enabledList_eq_onList, maskOf_eq_mask, elemFmt_eq_fmtOf ht]
  rfl

/-- R190: the rows of the floating-point compares. -/
theorem exec_floatCompareRow {i : Instr} {kind : Nat} (h : floatCompareRow i = some (d, a, b, k, t, kind)) (s : State) :
    exec i s = floatCompare d a b k t kind s := by
  unfold floatCompareRow at h
  split at h <;> cases h <;> rfl

end

/-! ### General registers and elements (R192, R193) -/

section
variable {s : State} {th : Thread} {a b d : BitVec 5} {k : BitVec 2} {t : BitVec 3}

/-- A plain source is not taken. -/
theorem afterRead_plain (rs : List (BitVec 5)) (r : Nat) : afterRead (rs.map srcP) th r = regOf th r := by
  unfold afterRead
  rw [if_neg]
  simp [takes, srcP]

/-- What is written to a register by an instruction that is charged and reads plain sources. -/
theorem writesReg_charged {u : State} {n : Nat} {v : Word} {m : Nat} (hc : Canonical s) (rs : List (BitVec 5))
    (h : WritesReg (charge th.ctx n s) u th (rs.map srcP) m v) : WritesReg s u th [] m v := by
  obtain ⟨th', hb, hregs, hrest, hq⟩ := h
  refine ⟨th', hb, fun r hr => ?_, hrest, (quiet_charge hc _ _).trans hq⟩
  rw [hregs r hr, afterRead_plain, ← afterRead_plain []]
  rfl

theorem sextNat_eq (hw : 0 < width t) (x : Nat) : sextNat x (width t) = BitVec.ofInt 64 (signedOf (width t) x) := by
  unfold sextNat signedOf
  rw [if_neg (Nat.pos_iff_ne_zero.1 hw)]
  split
  · exact (BitVec.ofInt_natCast ..).symm
  · rfl

theorem foldl_sextNat (xs : List Nat) (z : Int) : xs.foldl (fun z x => z + sextNat x (width t)) (BitVec.ofInt 64 z) =
    BitVec.ofInt 64 (z + (xs.map (signedOf (width t))).sum) := by
  induction xs generalizing z with
  | nil => rw [List.map_nil, List.sum_nil, Int.add_zero]; rfl
  | cons x xs ih =>
    rw [List.foldl_cons, sextNat_eq (width_pos t), ← BitVec.ofInt_add, ih, List.map_cons, List.sum_cons, Int.add_assoc]

theorem onElems_eq (th : Thread) : (enabledList (maskOf th k) (elemBits t) (elemCount (elemBits t))).map
    (velem (vecReg th a) (elemBits t)) = onElems (mask th k) (width t) (vreg th a) := by
  rw [elemBits_eq_width, enabledList_eq_onList]
  rfl

/-- The registers of a thread of which one was written. -/
theorem regsAfter_setFull (m : Nat) (v : Word) : RegsAfter [] m v th (setFull m v th) := fun r hr => by
  unfold setFull
  rw [regOf_setReg _ _ _ _ hr, ← afterRead_plain [] r]
  by_cases h : r = m
  · rw [if_pos h, if_pos h.symm]
  · rw [if_neg h, if_neg (Ne.symm h)]
    rfl

/-- An instruction that reads no register writes one and completes. -/
theorem complete_setFull (he : Executing s th) {m : Nat} (hm : m < 28) (v : Word) :
    WritesReg s (complete s (writeDst m v s)) th [] m v := by
  obtain ⟨hq, hb⟩ := complete_of he (quiet_mapMe s (setFull m v)) (threadAt_mapMe he.1 _) he.2.1
  unfold writeDst
  rw [if_pos hm]
  exact ⟨_, hb, regsAfter_setFull m v, rfl, hq⟩

/-- R193: a reduction whose sum, least or greatest element is f's. -/
theorem vecReduce_writes (hc : Canonical s) (he : Executing s th) (hv : Visible s [a]) (hd : Writable th d.toNat)
    {g : Nat → List Nat → Word} {f : List Nat → Word} (hf : g (width t) = f) :
    ∃ u, vecReduce d a k t g s = .next u ∧ WritesReg s u th [] d.toNat (f (onElems (mask th k) (width t) (vreg th a))) := by
  have hcharged : Executing (charge th.ctx 200 s) th := he
  refine ⟨_, ?_, writesReg_charged hc [] (complete_setFull hcharged hd.1 _)⟩
  unfold vecReduce
  rw [vecGate_of_visible he hv]
  refine (withOps_ok (operands_regs hcharged.1 (by simp) hd) _).trans ?_
  dsimp only
  rw [onElems_eq, me_of hcharged.1, elemBits_eq_width, hf]

/-- R193: the rows of the reductions. -/
theorem exec_reduceRow {i : Instr} {f : List Nat → Word} (h : reduceRow i = some (d, a, k, t, f)) :
    ∃ g : Nat → List Nat → Word, g (width t) = f ∧ ∀ s, exec i s = vecReduce d a k t g s := by
  unfold reduceRow at h
  split at h <;> cases h
  case h_1 =>
    refine ⟨fun w xs => xs.foldl (fun z x => z + sextNat x w) 0, funext fun xs => ?_, fun s => rfl⟩
    have hsum := foldl_sextNat (t := t) xs 0
    rwa [Int.zero_add, show BitVec.ofInt 64 0 = 0 from rfl] at hsum
  case h_2 =>
    refine ⟨fun w xs => BitVec.ofInt 64 (xs.foldl (fun (m : Int) x => min m (toSigned x w)) (2 ^ (w - 1) - 1)),
      funext fun xs => ?_, fun s => rfl⟩
    rw [List.foldl_map]
    simp only [toSigned_eq_signedOf _ _ (width_pos t)]
  case h_3 =>
    refine ⟨fun w xs => BitVec.ofInt 64 (xs.foldl (fun (m : Int) x => max m (toSigned x w)) (-(2 ^ (w - 1) : Int))),
      funext fun xs => ?_, fun s => rfl⟩
    rw [List.foldl_map]
    simp only [toSigned_eq_signedOf _ _ (width_pos t)]

/-- R192: vext. -/
theorem vext_writes (hc : Canonical s) (he : Executing s th) (hv : Visible s [a]) (hb : ReadyNow th (srcP b)) (hd : Writable th d.toNat) :
    ∃ u, exec (.vext d a b t) s = .next u ∧ WritesReg s u th [] d.toNat
      (let x := elem (vreg th a) (width t) ((val th b).toNat % (512 / width t))
       if t.toNat < 4 then BitVec.ofInt 64 (signedOf (width t) x) else BitVec.ofNat 64 x) := by
  have hcharged : Executing (charge th.ctx 200 s) th := he
  have hsrc : ∀ x ∈ [b].map srcP, ReadyNow th x := by simpa using hb
  refine ⟨_, ?_, writesReg_charged hc [b] (complete_writeDst _ (canonical_charge hc th.ctx 200) hcharged hsrc hd.1)⟩
  change execVext d a b t s = _
  unfold execVext
  rw [vecGate_of_visible he hv]
  refine (withOps_ok (operands_regs hcharged.1 hsrc hd) _).trans ?_
  dsimp only
  rw [me_of hcharged.1, elemBits_eq_width, sextNat_eq (width_pos t)]
  rfl

/-- The thread's registers as they were, from each of them. -/
theorem regs_of_regsRead {th' : Thread} (rs : List (BitVec 5)) (h : RegsRead (rs.map srcP) th th') : th'.regs = th.regs := by
  refine Vector.ext fun r hr => ?_
  have hreg := h r hr
  rw [afterRead_plain] at hreg
  unfold regOf at hreg
  rwa [Vector.getElem?_eq_getElem hr, Vector.getElem?_eq_getElem hr] at hreg

/-- R192: an instruction that reads plain sources and writes a vector register. -/
theorem vecMove_of_visible (hc : Canonical s) (he : Executing s th) {vs rs : List (BitVec 5)} (hv : Visible s vs)
    (hrs : ∀ r ∈ rs, ReadyNow th (srcP r)) (f : Thread → List Word → Vec) :
    ∃ u, vecGate vs s (fun s => withOps (rs.map srcP) .none s fun xs =>
        complete s (writeVec d.toNat (f (me s) xs) (commit (rs.map srcP) s))) = .next u ∧
      Becomes s u (passed s (wroteVec th d (f th (rs.map (val th))))) ∧ Quiet s u := by
  have hcharged : Executing (charge th.ctx 200 s) th := he
  have hsrc : ∀ x ∈ rs.map srcP, ReadyNow th x := by simpa using hrs
  obtain ⟨th', hb, hregs, hrest, hq⟩ := complete_mapMe (ss := rs.map srcP) (fun T => { T with
    vecs := T.vecs.setIfInBounds d.toNat (f th (rs.map (val th))), status := setFld T.status 4 1 1 }) (canonical_charge hc th.ctx 200)
    hcharged hsrc (fun _ _ => rfl) he.2.1 rfl
  rw [← regs_of_regsRead rs hregs] at hrest
  refine ⟨_, ?_, hb.trans (congrArg some hrest), (quiet_charge hc _ _).trans hq⟩
  rw [vecGate_of_visible he hv]
  refine (withOps_ok (operands_none hcharged.1 hsrc) _).trans ?_
  rw [me_of hcharged.1, List.map_map]
  rfl

/-- The same in the form of the statement: the thread has only a vector register of its own changed, to V. -/
theorem vecMove_writes (hc : Canonical s) (he : Executing s th) {vs rs : List (BitVec 5)} (hv : Visible s vs)
    (hrs : ∀ r ∈ rs, ReadyNow th (srcP r)) (f : Thread → List Word → Vec) :
    ∃ u th', vecGate vs s (fun s => withOps (rs.map srcP) .none s fun xs =>
        complete s (writeVec d.toNat (f (me s) xs) (commit (rs.map srcP) s))) = .next u ∧ Becomes s u th' ∧
      VecOnly s th th' d.toNat id ∧ Quiet s u ∧ vreg th' d = f th (rs.map (val th)) := by
  obtain ⟨u, hexec, hb, hq⟩ := vecMove_of_visible hc he hv hrs f
  exact ⟨u, _, hexec, hb, vecOnly_wroteVec .., hq, vreg_wroteVec ..⟩

/-- The elements that a mask enables take the values of f. -/
theorem elem_putEnabled (f : Nat → Nat) {e : Nat} (he : e < 512 / width t) :
    elem (putElems (elemBits t) (enabledList (maskOf th k) (elemBits t) (elemCount (elemBits t))) f (vecReg th d)) (width t) e =
      if on (mask th k) (width t) e = true then f e % 2 ^ width t else elem (vreg th d) (width t) e := by
  rw [elemBits_eq_width, elem_putElems_of_dvd (width_dvd t) _ _ _ he, maskOf_eq_mask]
  have hmem : e ∈ enabledList (mask th k) (width t) (elemCount (width t)) ↔ on (mask th k) (width t) e = true :=
    (mem_enabledList _).trans (and_iff_right he)
  simp only [hmem]
  rfl

/-- R192: vbcast. -/
theorem vbcast_writes (hc : Canonical s) (he : Executing s th) (hv : Visible s [d]) (ha : ReadyNow th (srcP a)) :
    ∃ u th', exec (.vbcast d a k t) s = .next u ∧ Becomes s u th' ∧ VecOnly s th th' d.toNat id ∧ Quiet s u ∧
      ∀ e, e < 512 / width t → elem (vreg th' d) (width t) e =
        if on (mask th k) (width t) e = true then (val th a).toNat % 2 ^ width t else elem (vreg th d) (width t) e := by
  obtain ⟨u, th', hexec, hb, honly, hq, hvec⟩ := vecMove_writes (d := d) (rs := [a]) hc he hv (by simpa using ha) fun T xs =>
    putElems (elemBits t) (enabledList (maskOf T k) (elemBits t) (elemCount (elemBits t))) (fun _ => (arg xs 0).toNat) (vecReg T d)
  refine ⟨u, th', hexec, hb, honly, hq, fun e hlt => ?_⟩
  rw [hvec, elem_putEnabled _ hlt]
  rfl

/-- R192: vins. -/
theorem vins_writes (hc : Canonical s) (he : Executing s th) (hv : Visible s [d]) (ha : ReadyNow th (srcP a))
    (hb : ReadyNow th (srcP b)) :
    ∃ u th', exec (.vins d a b t) s = .next u ∧ Becomes s u th' ∧ VecOnly s th th' d.toNat id ∧ Quiet s u ∧
      ∀ e, e < 512 / width t → elem (vreg th' d) (width t) e =
        if e = (val th b).toNat % (512 / width t) then (val th a).toNat % 2 ^ width t else elem (vreg th d) (width t) e := by
  obtain ⟨u, th', hexec, hbec, honly, hq, hvec⟩ := vecMove_writes (d := d) (rs := [a, b]) hc he hv (by simp [ha, hb]) fun T xs =>
    setVelem (vecReg T d) (elemBits t) ((arg xs 1).toNat % elemCount (elemBits t)) (arg xs 0).toNat
  refine ⟨u, th', hexec, hbec, honly, hq, fun e hlt => ?_⟩
  rw [hvec, elemBits_eq_width]
  exact elem_setVelem (e := e) _ _ (Nat.mod_lt _ (Nat.zero_lt_of_lt hlt))

/-- R192: vrot. -/
theorem vrot_writes (hc : Canonical s) (he : Executing s th) (hv : Visible s [d, a]) (hb : ReadyNow th (srcP b)) :
    ∃ u th', exec (.vrot d a b k t) s = .next u ∧ Becomes s u th' ∧ VecOnly s th th' d.toNat id ∧ Quiet s u ∧
      ∀ e, e < 512 / width t → elem (vreg th' d) (width t) e =
        if on (mask th k) (width t) e = true then elem (vreg th a) (width t) ((e + (val th b).toNat) % (512 / width t))
        else elem (vreg th d) (width t) e := by
  obtain ⟨u, th', hexec, hbec, honly, hq, hvec⟩ := vecMove_writes (d := d) (rs := [b]) hc he hv (by simpa using hb) fun T xs =>
    putElems (elemBits t) (enabledList (maskOf T k) (elemBits t) (elemCount (elemBits t)))
      (fun e => velem (vecReg T a) (elemBits t) ((e + (arg xs 0).toNat) % elemCount (elemBits t))) (vecReg T d)
  refine ⟨u, th', hexec, hbec, honly, hq, fun e hlt => ?_⟩
  rw [hvec, elem_putEnabled _ hlt, elemBits_eq_width]
  exact if_congr Iff.rfl (Nat.mod_eq_of_lt (elem_lt ..)) rfl

end

/-! ### The tree of vfredadd (R77) -/

section
variable {fmt : FFmt} {mode : Nat}

/-- The nodes above the nodes g. -/
def pairUp (fmt : FFmt) (mode : Nat) (g : Nat → Option ElemRes) (i : Nat) : Option ElemRes :=
  treeNode fmt mode (g (2 * i)) (g (2 * i + 1))

theorem treeLevel_map_range (g : Nat → Option ElemRes) (n : Nat) :
    treeLevel fmt mode ((List.range (2 * n)).map g) = (List.range n).map (pairUp fmt mode g) := by
  induction n generalizing g with
  | zero => rfl
  | succ n ih =>
    have hlevel := ih fun i => g (i + 2)
    rw [Nat.mul_add_one, List.range_succ_eq_map, List.range_succ_eq_map, List.range_succ_eq_map]
    simp only [List.map_cons, List.map_map, treeLevel]
    exact congrArg _ hlevel

theorem treeSum_map_range (g : Nat → Option ElemRes) :
    treeSum fmt mode ((List.range 16).map g) = ((pairUp fmt mode)^[4] g 0).getD { code := 0 } := by
  unfold treeSum
  dsimp only
  rw [treeLevel_map_range g 8, treeLevel_map_range _ 4, treeLevel_map_range _ 2, treeLevel_map_range _ 1]
  rfl

/-- The tree without a leaf. -/
theorem iterate_pairUp_none (n : Nat) : (pairUp fmt mode)^[n] (fun _ => none) = fun _ => none :=
  Function.iterate_fixed (by rfl) n

/-- One leaf x at place i. -/
def leafAt (i : Nat) (x : ElemRes) (l : Nat) : Option ElemRes := if l = i then some x else none

theorem pairUp_leafAt (i : Nat) (x : ElemRes) : pairUp fmt mode (leafAt i x) = leafAt (i / 2) x := by
  funext l
  unfold pairUp leafAt
  by_cases hl : l = i / 2
  · rw [if_pos hl]
    rcases Nat.even_or_odd' i with ⟨c, rfl | rfl⟩
    · rw [if_pos (by omega), if_neg (by omega)]
      rfl
    · rw [if_neg (by omega), if_pos (by omega)]
      rfl
  · rw [if_neg hl, if_neg (by omega), if_neg (by omega)]
    rfl

/-- A lone leaf comes to the root as it is. -/
theorem iterate_pairUp_leafAt {i n : Nat} (x : ElemRes) (h : i < 2 ^ n) : (pairUp fmt mode)^[n] (leafAt i x) 0 = some x := by
  induction n generalizing i with
  | zero => exact if_pos (Nat.lt_one_iff.1 h).symm
  | succ n ih =>
    rw [Function.iterate_succ_apply, pairUp_leafAt]
    exact ih (by rw [Nat.pow_succ] at h; omega)

/-- Two leaves x and y at places i and j. -/
def leavesAt (i j : Nat) (x y : ElemRes) (l : Nat) : Option ElemRes :=
  if l = i then some x else if l = j then some y else none

/-- The sum of two children. -/
def nodeSum (fmt : FFmt) (mode : Nat) (x y : ElemRes) : ElemRes :=
  let r := floatElem fmt mode [x.code, y.code] (fun vs => fAdd mode (val0 vs) (val1 vs))
  { code := r.code, fl := x.fl ||| y.fl ||| r.fl, norm := x.norm || y.norm || r.norm }

theorem pairUp_leavesAt_siblings (l : Nat) (x y : ElemRes) :
    pairUp fmt mode (leavesAt (2 * l) (2 * l + 1) x y) = leafAt l (nodeSum fmt mode x y) := by
  funext m
  unfold pairUp leavesAt leafAt
  by_cases hm : m = l
  · rw [if_pos hm, if_pos (by omega), if_neg (by omega), if_pos (by omega)]
    rfl
  · rw [if_neg hm, if_neg (by omega), if_neg (by omega), if_neg (by omega), if_neg (by omega)]
    rfl

theorem pairUp_leavesAt_apart {i j : Nat} (h : i / 2 ≠ j / 2) (x y : ElemRes) :
    pairUp fmt mode (leavesAt i j x y) = leavesAt (i / 2) (j / 2) x y := by
  funext l
  have hfirst := congrFun (pairUp_leafAt (fmt := fmt) (mode := mode) i x) l
  have hsecond := congrFun (pairUp_leafAt (fmt := fmt) (mode := mode) j y) l
  unfold pairUp leafAt at hfirst hsecond
  unfold pairUp leavesAt
  by_cases hi : l = i / 2
  · rw [if_neg (show 2 * l ≠ j by omega), if_neg (show 2 * l + 1 ≠ j by omega), hfirst, if_pos hi, if_pos hi]
  · rw [if_neg (show 2 * l ≠ i by omega), if_neg (show 2 * l + 1 ≠ i by omega), hsecond, if_neg hi]

/-- Two leaves meet in one node, whose sum comes to the root as it is. -/
theorem iterate_pairUp_leavesAt {i j n : Nat} (x y : ElemRes) (hij : i < j) (h : j < 2 ^ n) :
    (pairUp fmt mode)^[n] (leavesAt i j x y) 0 = some (nodeSum fmt mode x y) := by
  induction n generalizing i j with
  | zero => exact absurd (Nat.lt_one_iff.1 h) (Nat.ne_zero_of_lt hij)
  | succ n ih =>
    rw [Nat.pow_succ] at h
    rw [Function.iterate_succ_apply]
    by_cases hmeet : i / 2 = j / 2
    · obtain ⟨l, rfl, rfl⟩ : ∃ l, i = 2 * l ∧ j = 2 * l + 1 := ⟨i / 2, by omega, by omega⟩
      rw [pairUp_leavesAt_siblings]
      exact iterate_pairUp_leafAt _ (by omega)
    · rw [pairUp_leavesAt_apart hmeet]
      exact ih (by omega) (by omega)

/-! ### The lanes of vfredadd (R193) -/

/-- The leaf of an element. -/
def leaf (fmt : FFmt) (w : Nat) (v : Vec) (e : Nat) : ElemRes := { code := elem v w e, norm := isSubnormal fmt (elem v w e) }

variable {m : BitVec 16} {v : Vec} {i j : Nat}

theorem treeLane_zero (w : Nat) : treeLane fmt mode 0 w v = fun _ => none := by
  funext l
  exact if_pos BitVec.getLsbD_zero

theorem treeLane_of_lane (h : ∀ l, l < 16 → m.getLsbD l = decide (l = i)) (hi : i < 16) :
    treeLane fmt mode m 32 v = leafAt i (leaf fmt 32 v i) := by
  funext l
  have hl : m.getLsbD l = decide (l = i) := by
    by_cases hlt : l < 16
    · exact h l hlt
    · rw [BitVec.getLsbD_of_ge _ _ (Nat.le_of_not_lt hlt), decide_eq_false (by omega)]
  unfold treeLane leafAt
  rw [hl]
  by_cases hli : l = i
  · rw [if_neg (by simp [hli]), if_pos rfl, if_pos hli, hli]
    rfl
  · rw [if_pos (by simp [hli]), if_neg hli]

theorem treeLane_of_lanes (h : ∀ l, l < 16 → m.getLsbD l = decide (l = i ∨ l = j)) (hi : i < 16) (hj : j < 16) :
    treeLane fmt mode m 32 v = leavesAt i j (leaf fmt 32 v i) (leaf fmt 32 v j) := by
  funext l
  have hl : m.getLsbD l = decide (l = i ∨ l = j) := by
    by_cases hlt : l < 16
    · exact h l hlt
    · rw [BitVec.getLsbD_of_ge _ _ (Nat.le_of_not_lt hlt), decide_eq_false (by omega)]
  unfold treeLane leavesAt
  rw [hl]
  by_cases hli : l = i
  · rw [if_neg (by simp [hli]), if_pos rfl, if_pos hli, hli]
    rfl
  · by_cases hlj : l = j
    · rw [if_neg (by simp [hlj]), if_pos rfl, if_neg hli, if_pos hlj, hlj]
      rfl
    · rw [if_pos (by simp [hli, hlj]), if_neg hli, if_neg hlj]

end

/-! ### vfredadd -/

section
variable {s : State} {th : Thread} {a d : BitVec 5} {k : BitVec 2} {t : BitVec 3}

/-- The sum of a register's enabled lanes. -/
def laneSum (t : BitVec 3) (k : BitVec 2) (a : BitVec 5) (th : Thread) : ElemRes :=
  treeSum (fmtOf t) (fld th.fstat 0 2) ((List.range 16).map (treeLane (fmtOf t) (fld th.fstat 0 2) (mask th k) (width t) (vreg th a)))

/-- The thread with a sum in register d and its flags reported. -/
def summed (d : BitVec 5) (code : Nat) (fl : Fl) (th : Thread) : Thread :=
  { setFull d.toNat (BitVec.ofNat 64 code) th with fstat := th.fstat ||| (fl.zeroExtend 64 <<< 8) }

/-- R77, R78: vfredadd. -/
theorem vfredadd_sums (hc : Canonical s) (he : Executing s th) (ht : t = 4 ∨ t = 5 ∨ t = 6) (hv : Visible s [a])
    (hd : Writable th d.toNat) :
    ∃ u th', exec (.vfredadd d a k t) s = .next u ∧ Becomes s u th' ∧
      UsesUnits s u (summed d (laneSum t k a th).code (laneSum t k a th).fl th) th' (laneSum t k a th).norm false ∧
      ((laneSum t k a th).norm = false →
        Becomes s u (passed s (summed d (laneSum t k a th).code (laneSum t k a th).fl th)) ∧ Quiet s u) := by
  have hcharged : Executing (charge th.ctx 200 s) th := he
  generalize hr : laneSum t k a th = r
  have hfull := quiet_mapMe (charge th.ctx 200 s) (setFull d.toNat (BitVec.ofNat 64 r.code))
  have hsum := threadAt_mapMe_of hfull (threadAt_mapMe hcharged.1 (setFull d.toNat (BitVec.ofNat 64 r.code))) fun T =>
    { T with fstat := orFlags T.fstat r.fl }
  have hquiet := (quiet_charge hc th.ctx 200).trans (hfull.trans (quiet_mapMe _ fun T => { T with fstat := orFlags T.fstat r.fl }))
  obtain ⟨th', hb, huses⟩ := usesUnits_useUnits (s := s) (T := summed d r.code r.fl th)
    (canonical_mapMe (canonical_mapMe (canonical_charge hc th.ctx 200) _) _) hquiet hsum he.2.1 r.norm false
  refine ⟨_, th', ?_, hb, huses, fun hnorm => ?_⟩
  · change execVfredadd d a k t s = _
    unfold execVfredadd
    rw [vecGate_of_visible he hv]
    refine (withOps_ok (operands_regs hcharged.1 (by simp) hd) _).trans ?_
    dsimp only
    rw [atTop_of hcharged, me_of hcharged.1, elemBits_eq_width, maskOf_eq_mask, elemFmt_eq_fmtOf ht]
    change Host.Outcome.next (useUnits (laneSum t k a th).norm false (report (laneSum t k a th).fl
      (writeDst d.toNat (w64 (laneSum t k a th).code) (charge th.ctx 200 s)))) = _
    rw [hr]
    unfold writeDst
    rw [if_pos hd.1]
    rfl
  · rw [hnorm]
    exact (useUnits_none hquiet hsum he.2.1).symm

/-- A sum that needs no normaliser is written at once. -/
theorem vfredadd_quiet (hc : Canonical s) (he : Executing s th) (ht : t = 4 ∨ t = 5 ∨ t = 6) (hv : Visible s [a])
    (hd : Writable th d.toNat) {r : ElemRes} (hr : laneSum t k a th = r) (hnorm : r.norm = false) :
    ∃ u, exec (.vfredadd d a k t) s = .next u ∧ Becomes s u (passed s (summed d r.code r.fl th)) ∧ Quiet s u := by
  subst hr
  obtain ⟨u, -, hexec, -, -, hquiet⟩ := vfredadd_sums hc he ht hv hd
  exact ⟨u, hexec, hquiet hnorm⟩

/-- A sum without flags writes its register only. -/
theorem vfredadd_writes (hc : Canonical s) (he : Executing s th) (ht : t = 4 ∨ t = 5 ∨ t = 6) (hv : Visible s [a])
    (hd : Writable th d.toNat) {x : Nat} (hr : laneSum t k a th = { code := x }) :
    ∃ u, exec (.vfredadd d a k t) s = .next u ∧ WritesReg s u th [] d.toNat (BitVec.ofNat 64 x) := by
  obtain ⟨u, hexec, hb, hq⟩ := vfredadd_quiet hc he ht hv hd hr rfl
  refine ⟨u, hexec, _, hb, regsAfter_setFull d.toNat (BitVec.ofNat 64 x), ?_, hq⟩
  have hflags : th.fstat ||| ((0 : Fl).zeroExtend 64 <<< 8) = th.fstat := BitVec.or_zero
  unfold summed
  dsimp only
  rw [hflags]
  rfl

theorem laneSum_eq (t : BitVec 3) (k : BitVec 2) (a : BitVec 5) (th : Thread) : laneSum t k a th =
    ((pairUp (fmtOf t) (fld th.fstat 0 2))^[4] (treeLane (fmtOf t) (fld th.fstat 0 2) (mask th k) (width t) (vreg th a)) 0).getD
      { code := 0 } :=
  treeSum_map_range _

/-- No lane is enabled. -/
theorem laneSum_of_zero (h : mask th k = 0) : laneSum t k a th = { code := 0 } := by
  rw [laneSum_eq, h, treeLane_zero, iterate_pairUp_none]
  rfl

/-- One lane is enabled. -/
theorem laneSum_of_lane {i : Nat} (hi : i < 16) (hw : width t = 32) (h : ∀ l, l < 16 → (mask th k).getLsbD l = decide (l = i)) :
    laneSum t k a th = leaf (fmtOf t) 32 (vreg th a) i := by
  rw [laneSum_eq, hw, treeLane_of_lane h hi, iterate_pairUp_leafAt _ hi]
  rfl

/-- Two lanes are enabled. -/
theorem laneSum_of_lanes {i j : Nat} (hij : i < j) (hj : j < 16) (hw : width t = 32)
    (h : ∀ l, l < 16 → (mask th k).getLsbD l = decide (l = i ∨ l = j)) : laneSum t k a th =
      nodeSum (fmtOf t) (fld th.fstat 0 2) (leaf (fmtOf t) 32 (vreg th a) i) (leaf (fmtOf t) 32 (vreg th a) j) := by
  rw [laneSum_eq, hw, treeLane_of_lanes h (hij.trans hj) hj, iterate_pairUp_leavesAt _ _ hij hj]
  rfl

/-- The sum of two leaves that needs no normaliser is their exact sum, rounded once. -/
theorem nodeSum_leaf {fmt : FFmt} {mode : Nat} {v : Vec} {i j : Nat}
    (h : (roundOnce fmt mode [elem v 32 i, elem v 32 j] fun m vs => fAdd m (val0 vs) (val1 vs)).2.2 = false) :
    nodeSum fmt mode (leaf fmt 32 v i) (leaf fmt 32 v j) =
      let r := roundOnce fmt mode [elem v 32 i, elem v 32 j] fun m vs => fAdd m (val0 vs) (val1 vs)
      { code := r.1, fl := r.2.1 } := by
  have hin := (Bool.or_eq_false_iff.1 h).1
  simp only [List.any_cons, List.any_nil, Bool.or_false, Bool.or_eq_false_iff] at hin
  obtain ⟨hi, hj⟩ := hin
  have hroot : (floatElem fmt mode [elem v 32 i, elem v 32 j] fun vs => fAdd mode (val0 vs) (val1 vs)).norm = false := h
  unfold nodeSum leaf
  dsimp only
  rw [hi, hj, hroot]
  exact congrArg (fun fl => ({ code := _, fl := fl } : ElemRes)) BitVec.zero_or

end

end Sys2Proof.Proofs.Reductions

namespace Sys2Proof
open Sys2Proof.Machine Sys2Proof.Safety Sys2Proof.Proofs.Floats Sys2Proof.Proofs.Reductions

/-- Settles O19: compares by their masks' lanes, moves and reductions by the register they write, vfredadd by its tree. -/
theorem vectorComparesAndMoves : Obligations.VectorComparesAndMoves := by
  unfold Obligations.VectorComparesAndMoves
  refine ⟨⟨?_, ?_⟩, fun s th hc he => ⟨?_, ?_, ?_, ?_, ?_, ?_, ?_⟩⟩
  · intro i d a b k t f hrow s th hc he hv
    rw [exec_compareRow hrow]
    exact intCompare_of_visible hc he hv f
  · intro i d a b k t kind hrow s th hc he hv ht
    rw [exec_floatCompareRow hrow]
    exact floatCompare_of_visible hc he hv ht kind
  · intro i d a k t f hrow hv hd
    obtain ⟨g, hg, hexec⟩ := exec_reduceRow hrow
    rw [hexec]
    exact vecReduce_writes hc he hv hd hg
  · intro d a k t ht hv hd
    exact vfredadd_sums hc he ht hv hd
  · intro d a k t ht hv hd
    refine ⟨fun hm => vfredadd_writes hc he ht hv hd (laneSum_of_zero hm), fun i hi hw hm hsub => ?_, fun i j hij hj hw hm hr => ?_⟩
    · refine vfredadd_writes hc he ht hv hd ((laneSum_of_lane hi hw hm).trans ?_)
      unfold leaf
      rw [hsub]
    · have hsum := (laneSum_of_lanes (a := a) hij hj hw hm).trans (nodeSum_leaf hr)
      obtain ⟨u, hexec, hb, hq⟩ := vfredadd_quiet hc he ht hv hd hsum rfl
      exact ⟨u, _, hexec, hb, regsAfter_setFull _ _, hq, rfl⟩
  · exact fun d a b t hv hb hd => vext_writes hc he hv hb hd
  · exact fun d a k t hv ha => vbcast_writes hc he hv ha
  · exact fun d a b t hv ha hb => vins_writes hc he hv ha hb
  · exact fun d a b k t hv hb => vrot_writes hc he hv hb

end Sys2Proof
end

section
/-!
PROOF. Writes of the array's stores (O32): bytes of accumulators and of the B-operand store go into memory and nowhere else, and
tbst puts each element of a staged tile in its place.
-/
namespace Sys2Proof.Proofs.Arrays
open Sys2Proof Sys2Proof.Machine Sys2Proof.Safety Sys2Proof.Proofs.Units
open Sys2Proof.Proofs.Faults (mem_linesOf)
open Sys2Proof.Proofs.TrapDelivery (foldl_eq_self mem_wordsOf)

set_option Elab.async false

/-! ### Bytes outside DRAM -/

section
variable {s : State} {cs : List (Nat × Byte)}

/-- The places of the scratchpads, the accumulators and the B-operand stores. -/
def OnDevice (a : Nat) : Prop := dramTop ≤ a ∧ a < altBase

theorem not_inDram_of_onDevice {a : Nat} (h : OnDevice a) : inDram (a / 32 * 32) = false := by
  have htop : dramTop = 0x6000000000 := rfl
  have halt : altBase = 2 ^ 43 := rfl
  obtain ⟨hlo, hhi⟩ := h
  unfold inDram inAlt
  simp only [Bool.or_eq_false_iff, Bool.and_eq_false_iff, decide_eq_false_iff_not]
  omega

/-- Bytes outside DRAM go into memory; nothing else changes but the poison of words written whole (R483). -/
theorem rawWrite_onDevice (h : ∀ c ∈ cs, OnDevice c.1) :
    ∃ poison, rawWrite s cs = { s with mem := putCells s.mem cs, poison := poison } := by
  have hdirty : (linesOf cs).foldl dirtyLine s = s := by
    refine foldl_eq_self fun l hl => ?_
    obtain ⟨c, hc, rfl⟩ := mem_linesOf hl
    unfold dirtyLine
    rw [not_inDram_of_onDevice (h c hc)]
    rfl
  have hlow : ∀ c ∈ cs, c.1 < peerBase := fun c hc => (h c hc).2.trans (by decide)
  have hpeers : cs.filter (fun c => decide (peerBase ≤ c.1) && decide (c.1 < debugBase)) = [] := by
    rw [List.filter_eq_nil_iff]
    intro c hc
    simp [Nat.not_le.2 (hlow c hc)]
  have hmem : cs.filter (fun c => decide (c.1 < peerBase)) = cs :=
    List.filter_eq_self.2 fun c hc => decide_eq_true (hlow c hc)
  have hregs : ((wordsOf cs).filter (fun w => (List.range 8).all (fun i => cs.any (fun c => c.1 == w * 8 + i)))).filter
      (fun w => decide (debugBase ≤ w * 8)) = [] := by
    rw [List.filter_eq_nil_iff]
    intro w hw
    obtain ⟨c, hc, rfl⟩ := mem_wordsOf (List.mem_filter.1 hw).1
    have hbelow : peerBase ≤ debugBase := by decide
    have hword := Nat.div_mul_le_self c.1 8
    rw [decide_eq_true_eq]
    exact Nat.not_le.2 ((hword.trans_lt (hlow c hc)).trans_le hbelow)
  unfold rawWrite
  simp only [hdirty, hpeers, hmem, hregs, List.map_nil, List.append_nil]
  exact ⟨_, rfl⟩

/-- A byte that is written has the value of its cells, where they agree. -/
theorem putCells_get_of_mem {m : Memory} (h : m.wf = true) {a : Nat} {b : Byte} (hmem : (a, b) ∈ cs)
    (hagree : ∀ b', (a, b') ∈ cs → b' = b) : Tab.get 0 (putCells m cs) a = b := by
  induction cs generalizing m with
  | nil => cases hmem
  | cons c cs ih =>
    have hstep : putCells m (c :: cs) = putCells (putByte m c.1 c.2) cs := rfl
    have hwf := putByte_wf c.1 c.2 h
    rw [hstep]
    by_cases hlater : ∃ b', (a, b') ∈ cs
    · obtain ⟨b', hb'⟩ := hlater
      obtain rfl := hagree b' (List.mem_cons_of_mem _ hb')
      exact ih hwf hb' fun b'' hb'' => hagree b'' (List.mem_cons_of_mem _ hb'')
    · obtain rfl : (a, b) = c := (List.mem_cons.1 hmem).resolve_right fun hc => hlater ⟨b, hc⟩
      rw [putCells_get_other cs a hwf fun c hc hca => hlater ⟨c.2, by rwa [← hca]⟩, putByte_get _ _ _ h, if_pos rfl]

end

/-! ### The end of an instruction that has written memory -/

section
variable {s u : State} {th tu : Thread}

theorem canonical_mem (h : Canonical s) : s.mem.wf = true := h.1

/-- An instruction that has raised nothing goes on from its effects. -/
theorem complete_eq_advance (he : Executing s th) (hu : threadAt u u.cur = some tu) (hf : tu.form = .ready) :
    complete s u = advance u := by
  unfold complete
  rw [atTop_of he, me_of hu, hf]
  rfl

/-- Completion where the clock stands still: the thread has passed, memory is as its effects left it. -/
theorem complete_written (he : Executing s th) (hcur : u.cur = s.cur) (hcycle : u.cycle = s.cycle)
    (hu : threadAt u s.cur = some tu) (hf : tu.form = .ready) :
    Becomes s (complete s u) (passed s tu) ∧ ∀ a, rdByte (complete s u) a = rdByte u a := by
  rw [← hcur] at hu
  obtain ⟨hq, hb⟩ := advance_of (Quiet.refl u) hu (fun tr h => by rw [hf] at h; cases h)
  rw [complete_eq_advance he hu hf]
  refine ⟨?_, hq.bytes⟩
  unfold Becomes
  rw [← hcur]
  refine hb.trans (congrArg some ?_)
  unfold passed
  rw [hcycle]

theorem reportUse_frame (core i : Nat) (s : State) : (reportUse core i s).slots = s.slots ∧ (reportUse core i s).cur = s.cur ∧
    (reportUse core i s).cycle = s.cycle ∧ (reportUse core i s).mem = s.mem := by
  unfold reportUse
  dsimp only
  split
  · split <;> exact ⟨rfl, rfl, rfl, rfl⟩
  · exact ⟨rfl, rfl, rfl, rfl⟩

end

/-! ### The place of an element in the B-operand store (R281) -/

section
variable {n c k j k' j' : Nat}

/-- The place of element (k, j) of a tile with n blocks of 32 rows. -/
def bPlace (n k j : Nat) : Nat := j / 16 * n * 512 + k / 32 * 512 + j % 16 * 32 + k % 32

theorem bPlace_inj (hk : k / 32 < n) (hk' : k' / 32 < n) (h : bPlace n k j = bPlace n k' j') : k = k' ∧ j = j' := by
  unfold bPlace at h
  have hblock : j / 16 * n + k / 32 = j' / 16 * n + k' / 32 := by omega
  have hrow : k / 32 = k' / 32 := by
    have hmod := congrArg (· % n) hblock
    simpa [Nat.add_comm, Nat.add_mul_mod_self_right, Nat.mod_eq_of_lt hk, Nat.mod_eq_of_lt hk'] using hmod
  have hcol : j / 16 = j' / 16 := by
    rw [hrow] at hblock
    exact Nat.eq_of_mul_eq_mul_right (Nat.zero_lt_of_lt hk) (Nat.add_right_cancel hblock)
  omega

theorem bPlace_lt (hk : k < 32 * n) (hj : j < 16 * c) : bPlace n k j < 32 * n * (16 * c) := by
  have hrow : k / 32 < n := by omega
  have hcol : j / 16 + 1 ≤ c := by omega
  have hblock : (j / 16 + 1) * n ≤ c * n := Nat.mul_le_mul_right _ hcol
  unfold bPlace
  calc j / 16 * n * 512 + k / 32 * 512 + j % 16 * 32 + k % 32 < ((j / 16 + 1) * n) * 512 := by rw [Nat.add_mul]; omega
    _ ≤ c * n * 512 := Nat.mul_le_mul_right _ hblock
    _ = 32 * n * (16 * c) := by ring

end

/-! ### tbst -/

section
variable {s : State} {cell core off o : Nat} {d : TileDesc} {tag : BitVec 16}

/-- An element of two half bytes is the byte at its place. -/
theorem elemAt_byte (rd : Nat → Nat) (n : Nat) : elemAt rd (2 * n) 2 = rd n := by
  unfold elemAt
  simp

/-- R281: what tbst writes of a tile of bytes in row order. -/
theorem mem_tbstCells (hfmt : tagFormat tag = 9) (hlayout : tagLayout tag = 0) (hrows : d.rows % 32 = 0) {c : Nat × Byte} :
    c ∈ tbstCells s cell core off o d tag ↔ ∃ k j, k < d.rows ∧ j < d.cols ∧
      c = (bstorePa cell (o + bPlace (d.rows / 32) k j), rdByte s (spadPa core (off + k * d.pitch + j))) := by
  have hel : ∀ k j, elemAt (fun i => (rdByte s (spadPa core (off + i))).toNat) (denseAt 0 d.pitch 2 k j) 2 =
      (rdByte s (spadPa core (off + k * d.pitch + j))).toNat := fun k j => by
    have hplace : 2 * k * d.pitch + j * 2 = 2 * (k * d.pitch + j) := by ring
    rw [show denseAt 0 d.pitch 2 k j = _ from hplace, elemAt_byte, Nat.add_assoc]
  have hbyte : ∀ (x : Byte) (b : Nat), BitVec.ofNat 8 (x.toNat / 256 ^ (b % (2 / 2)) % 256) = x := fun x b => by
    rw [show b % (2 / 2) = 0 from Nat.mod_one b, pow_zero, Nat.div_one, Nat.mod_eq_of_lt x.isLt, BitVec.ofNat_toNat, BitVec.setWidth_eq]
  have hone : ∀ b, b / (2 / 2) = b := Nat.div_one
  obtain ⟨n, hn⟩ : ∃ n, d.rows = 32 * n := ⟨d.rows / 32, by omega⟩
  unfold tbstCells
  rw [hfmt, hlayout, if_neg (by decide), hn, Nat.mul_div_cancel_left n (by decide)]
  simp only [show nibsOf 9 = 2 from rfl, show depthOf 9 = 32 from rfl, hel, hbyte, if_neg (show ¬ (2 = 1) by decide),
    List.mem_flatMap, List.mem_map, List.mem_range, Nat.mul_div_cancel_left n (show 0 < 32 by decide)]
  constructor
  · rintro ⟨u, hu, b, hb, rfl⟩
    have hn0 : 0 < n := Nat.pos_of_ne_zero (by rintro rfl; simp at hu)
    have hmod := Nat.mod_lt u hn0
    refine ⟨u % n * 32 + b, u / n, by omega, Nat.div_lt_of_lt_mul (by rwa [Nat.mul_comm]), ?_⟩
    have hdiv : (u % n * 32 + b) / 32 = u % n := by omega
    have hlow : (u % n * 32 + b) % 32 = b := by omega
    unfold bPlace
    rw [hdiv, hlow, hone b]
    simp only [Nat.add_assoc]
  · rintro ⟨k, j, hk, hj, rfl⟩
    have hkn : k / 32 < n := by omega
    have hdiv : (j * n + k / 32) / n = j := by
      rw [Nat.mul_comm, Nat.mul_add_div (Nat.zero_lt_of_lt hkn), Nat.div_eq_of_lt hkn, Nat.add_zero]
    have hmod : (j * n + k / 32) % n = k / 32 := by
      rw [Nat.mul_comm, Nat.mul_add_mod, Nat.mod_eq_of_lt hkn]
    have hu : j * n + k / 32 < d.cols * n := by
      calc j * n + k / 32 < (j + 1) * n := by rw [Nat.add_mul]; omega
        _ ≤ d.cols * n := Nat.mul_le_mul_right _ hj
    refine ⟨j * n + k / 32, hu, k % 32, Nat.mod_lt _ (by decide), ?_⟩
    rw [hdiv, hmod, hone, Nat.div_add_mod' k 32]
    unfold bPlace
    simp only [Nat.add_assoc]

/-- The places of a tile that tbst fills lie in the B-operand stores: a descriptor counts rows and columns with 16 bits. -/
theorem onDevice_bstorePa (hcell : cell < 768) {x : Nat} (hx : x < 2 ^ 33) : OnDevice (bstorePa cell x) := by
  have htop : dramTop = 0x6000000000 := rfl
  have halt : altBase = 2 ^ 43 := rfl
  have hbase : bstoreBase = 2 ^ 42 := rfl
  unfold OnDevice bstorePa
  omega

theorem fld_lt (w : Word) (lo n : Nat) : fld w lo n < 2 ^ n := Nat.mod_lt _ (by positivity)

theorem bPlace_lt_room {k j : Nat} (hrows : d.rows % 32 = 0) (hcols : d.cols % 16 = 0) (hk : k < d.rows) (hj : j < d.cols) :
    bPlace (d.rows / 32) k j < d.rows * d.cols := by
  have hr : d.rows = 32 * (d.rows / 32) := by omega
  have hc : d.cols = 16 * (d.cols / 16) := by omega
  calc bPlace (d.rows / 32) k j < 32 * (d.rows / 32) * (16 * (d.cols / 16)) := bPlace_lt (by omega) (by omega)
    _ = d.rows * d.cols := by rw [← hr, ← hc]

theorem onDevice_tbstPlace {k j : Nat} (hcell : cell < 768) (ho : o < 2 ^ 20) (hrows : d.rows % 32 = 0) (hcols : d.cols % 16 = 0)
    (hk : k < d.rows) (hj : j < d.cols) : OnDevice (bstorePa cell (o + bPlace (d.rows / 32) k j)) := by
  have hroom := bPlace_lt_room hrows hcols hk hj
  have hsize : d.rows * d.cols ≤ 2 ^ 16 * 2 ^ 16 := Nat.mul_le_mul (fld_lt ..).le (fld_lt ..).le
  exact onDevice_bstorePa hcell (by omega)

theorem onDevice_tbstCells (hcell : cell < 768) (ho : o < 2 ^ 20) (hfmt : tagFormat tag = 9) (hlayout : tagLayout tag = 0)
    (hrows : d.rows % 32 = 0) (hcols : d.cols % 16 = 0) : ∀ c ∈ tbstCells s cell core off o d tag, OnDevice c.1 := by
  intro c hc
  obtain ⟨k, j, hk, hj, rfl⟩ := (mem_tbstCells hfmt hlayout hrows).1 hc
  exact onDevice_tbstPlace hcell ho hrows hcols hk hj

/-- R281: the bytes that tbst writes: element (k, j) where B's k-steps are read from, no byte outside the tile's room. -/
theorem tbstCells_placed {m : Memory} (hm : m.wf = true) (hfmt : tagFormat tag = 9) (hlayout : tagLayout tag = 0)
    (hrows : d.rows % 32 = 0) (hcols : d.cols % 16 = 0) :
    (∀ k j, k < d.rows → j < d.cols → Tab.get 0 (putCells m (tbstCells s cell core off o d tag))
      (bstorePa cell (o + bPlace (d.rows / 32) k j)) = rdByte s (spadPa core (off + k * d.pitch + j))) ∧
    ∀ y, ¬ Within (bstorePa cell o) (d.rows * d.cols) y →
      Tab.get 0 (putCells m (tbstCells s cell core off o d tag)) y = Tab.get 0 m y := by
  have hmem := fun c => mem_tbstCells (s := s) (cell := cell) (core := core) (off := off) (o := o) (c := c) hfmt hlayout hrows
  have hblock : ∀ {k}, k < d.rows → k / 32 < d.rows / 32 := fun hk => by omega
  constructor
  · intro k j hk hj
    refine putCells_get_of_mem hm ((hmem _).2 ⟨k, j, hk, hj, rfl⟩) fun b hb => ?_
    obtain ⟨k', j', hk', hj', heq⟩ := (hmem _).1 hb
    obtain ⟨hplace, rfl⟩ := Prod.mk.inj heq
    obtain ⟨rfl, rfl⟩ := bPlace_inj (hblock hk) (hblock hk') (Nat.add_left_cancel (Nat.add_left_cancel hplace))
    rfl
  · intro y hy
    refine putCells_get_other _ _ hm fun c hc hcy => hy ?_
    obtain ⟨k, j, hk, hj, rfl⟩ := (hmem c).1 hc
    have hroom := bPlace_lt_room hrows hcols hk hj
    subst hcy
    unfold Within bstorePa
    dsimp only
    omega

end

section
variable {s : State} {th : Thread} {a b : BitVec 5} {ma mb : BitVec 2} {slice i : Nat} {e : TileEnt} {x : TileSlot}

/-- R274, R281: tbst of a staged tile of bytes, its word in rule, writes the tile's cells. -/
theorem tbst_writes (he : Executing s th) (hacq : th.acqOut = 0) (ha : ReadyNow th (src a ma)) (hb : ReadyNow th (src b mb))
    (htile : findTile s th.ctx (val th a) = some (slice, e)) (hhandle : fld (val th a) 0 32 = e.handle.toNat)
    (hword : fld (val th b) 20 44 = 0) (halign : fld (val th b) 0 20 % 32 = 0) (hspan : fld (val th b) 0 20 + e.span ≤ 0x100000)
    (hfmt : tagFormat e.tag = 9) (hsparse : tagSparsity e.tag = 0)
    (hrows : (tileDescOf s e.ctx (e.handle.toNat % 2 ^ 20)).rows % 32 = 0)
    (hcols : (tileDescOf s e.ctx (e.handle.toNat % 2 ^ 20)).cols % 16 = 0)
    (hslot : slotOfTile s (s.cur / 16) th.ctx e.handle = some (i, x)) (hst : x.st = .ready) (href : x.refused = false) :
    exec (.tbst a b ma mb) s = .next (complete s (reportUse (s.cur / 16) i (rawWrite (commit [src a ma, src b mb] s)
      (tbstCells s (s.cur / 64) (s.cur / 16) x.off (fld (val th b) 0 20) (tileDescOf s e.ctx (e.handle.toNat % 2 ^ 20)) e.tag)))) := by
  have hss : ∀ y ∈ [src a ma, src b mb], ReadyNow th y := by simp [ha, hb]
  have hcell : cellOfCore (myCore s) = s.cur / 64 := Nat.div_div_eq_div_mul ..
  have hrule : ¬ ((!isOperandFmt 9 && 9 != 14) = true ∨ 0 ≠ 0 ∨ 9 ≠ 14 ∧
      ((tileDescOf s e.ctx (e.handle.toNat % 2 ^ 20)).rows % depthOf 9 ≠ 0 ∨
        (tileDescOf s e.ctx (e.handle.toNat % 2 ^ 20)).cols % 16 ≠ 0)) := by
    rintro (h | h | ⟨-, h | h⟩)
    · exact absurd h (by decide)
    · exact h rfl
    · exact h hrows
    · exact h hcols
  change execTbst a b ma mb s = _
  unfold execTbst
  refine (withOps_ok (operands_none he.1 hss) _).trans (congrArg Host.Outcome.next ?_)
  unfold acqGate withTile nameTile
  rw [me_of he.1, if_neg (not_not.2 hacq), show arg _ 0 = val th a from rfl, htile]
  dsimp only
  rw [show arg _ 1 = val th b from rfl, if_neg (by omega), hfmt, hsparse, if_neg hrule, hhandle,
    BitVec.ofNat_toNat, BitVec.setWidth_eq, show myCore s = s.cur / 16 from rfl, hslot]
  dsimp only
  rw [href, if_neg (by decide), hst, if_pos rfl, show cellOfCore (s.cur / 16) = s.cur / 64 from hcell]

/-- R274, R281: where such a tbst completes, its thread has passed and memory holds the tile's cells. -/
theorem tbst_completes (hc : Canonical s) (he : Executing s th) {ss : List Src} (hss : ∀ y ∈ ss, ReadyNow th y)
    {cs : List (Nat × Byte)} (hcs : ∀ c ∈ cs, OnDevice c.1) (core : Nat) :
    ∃ th', Becomes s (complete s (reportUse core i (rawWrite (commit ss s) cs))) th' ∧ RegsRead ss th th' ∧
      { th' with regs := th.regs } = passed s th ∧
      ∀ y, y < altBase → rdByte (complete s (reportUse core i (rawWrite (commit ss s) cs))) y = Tab.get 0 (putCells s.mem cs) y := by
  obtain ⟨hq, -, hth⟩ := commit_regs hc he.1 fun y hy => (hss y hy).1
  obtain ⟨poison, hwrite⟩ := rawWrite_onDevice (s := commit ss s) hcs
  obtain ⟨hslots, hcur, hcycle, hmem⟩ := reportUse_frame core i (rawWrite (commit ss s) cs)
  rw [hwrite] at hslots hcur hcycle hmem ⊢
  have hready : (Safety.takeRegs th ss ss th).form = .ready := (takeRegs_form ..).trans he.2.1
  obtain ⟨hb, hbytes⟩ := complete_written he (hcur.trans hq.cur) (hcycle.trans hq.cycle)
    ((threadAt_congr hslots _).trans hth) hready
  refine ⟨_, hb, fun r hr => afterRead_takeRegs hss hr, passed_regs _ (takeRegs_regs ..), fun y hy => ?_⟩
  have hsame : (commit ss s).mem = s.mem := by
    have h := congrArg State.mem hq.rest
    exact h
  rw [hbytes, Proofs.Faults.rdByte_of_lt _ hy, hmem, ← hsame]

end

end Sys2Proof.Proofs.Arrays
end

section
/-!
PROOF. The k-step of the array (O32): the accumulator elements of a block as four-byte words of memory, the integer product of a
step, and the step that finishes its command.
-/
namespace Sys2Proof.Proofs.Arrays
open Sys2Proof Sys2Proof.Machine Sys2Proof.Safety Sys2Proof.Proofs.Units Sys2Proof.Proofs.Vectors
open Sys2Proof.Proofs.Faults (taken_now rdByte_of_lt length_leBytes)

set_option Elab.async false

/-! ### Words in memory -/

section
variable {s : State} {m : Memory}

theorem leNat_leBytes (n v : Nat) : leNat (leBytes n v) = v % 256 ^ n := by
  induction n generalizing v with
  | zero => rw [pow_zero, Nat.mod_one]; rfl
  | succ n ih =>
    unfold leBytes leNat
    have hsplit : v % (256 * 256 ^ n) = v % 256 + 256 * (v / 256 % 256 ^ n) := Nat.mod_mul
    rw [ih, BitVec.toNat_ofNat, show 256 ^ (n + 1) = 256 * 256 ^ n from Nat.pow_succ', hsplit]

theorem mem_cellsAt {pa a : Nat} {bs : List Byte} {b : Byte} : (a, b) ∈ cellsAt pa bs ↔ pa ≤ a ∧ bs[a - pa]? = some b := by
  induction bs generalizing pa with
  | nil => simp [cellsAt]
  | cons x bs ih =>
    unfold cellsAt
    rw [List.mem_cons, ih, Prod.mk.injEq]
    constructor
    · rintro (⟨rfl, rfl⟩ | ⟨hle, hget⟩)
      · simp
      · refine ⟨by omega, ?_⟩
        rw [show a - pa = a - (pa + 1) + 1 by omega, List.getElem?_cons_succ]
        exact hget
    · rintro ⟨hle, hget⟩
      rcases Nat.eq_or_lt_of_le hle with rfl | hlt
      · simp at hget
        exact Or.inl ⟨rfl, hget.symm⟩
      · refine Or.inr ⟨hlt, ?_⟩
        rwa [show a - pa = a - (pa + 1) + 1 by omega, List.getElem?_cons_succ] at hget

/-- Bytes that are read one by one are the bytes read together. -/
theorem rdBytes_of_get {pa : Nat} {bs : List Byte} (h : ∀ n b, bs[n]? = some b → rdByte s (pa + n) = b) :
    rdBytes s pa bs.length = bs := by
  induction bs generalizing pa with
  | nil => rfl
  | cons x bs ih =>
    rw [List.length_cons, rdBytes]
    congr 1
    · exact h 0 x rfl
    · refine ih fun n b hb => ?_
      rw [Nat.add_assoc, Nat.add_comm 1]
      exact h (n + 1) b hb

/-- Words of four bytes, at places that are those of their indexes. -/
def wordCells {α : Type} (place : α → Nat) (f : α → Nat) (xs : List α) : List (Nat × Byte) :=
  xs.flatMap fun x => cellsAt (place x) (leBytes 4 (f x))

variable {α : Type} {place : α → Nat} {f : α → Nat} {xs : List α}

theorem mem_wordCells {a : Nat} {b : Byte} :
    (a, b) ∈ wordCells place f xs ↔ ∃ x ∈ xs, place x ≤ a ∧ (leBytes 4 (f x))[a - place x]? = some b := by
  unfold wordCells
  simp only [List.mem_flatMap, mem_cellsAt]

theorem within_of_leBytes {x : α} {a : Nat} {b : Byte} (hle : place x ≤ a) (h : (leBytes 4 (f x))[a - place x]? = some b) :
    Within (place x) 4 a := by
  have hlt := (List.getElem?_eq_some_iff.1 h).1
  rw [length_leBytes] at hlt
  exact ⟨hle, by omega⟩

/-- A byte of no word is as it was. -/
theorem get_wordCells_other (hm : m.wf = true) {a : Nat} (h : ∀ x ∈ xs, ¬ Within (place x) 4 a) :
    Tab.get 0 (putCells m (wordCells place f xs)) a = Tab.get 0 m a := by
  refine putCells_get_other _ _ hm fun c hc hca => ?_
  obtain ⟨x, hx, hle, hget⟩ := mem_wordCells.1 (show (a, c.2) ∈ wordCells place f xs by rwa [← hca])
  exact h x hx (within_of_leBytes hle hget)

/-- A byte of a word that meets no other word has the word's value. -/
theorem get_wordCells (hm : m.wf = true) {x : α} (hx : x ∈ xs)
    (happart : ∀ y ∈ xs, ∀ a, Within (place x) 4 a → Within (place y) 4 a → y = x) {n : Nat} {b : Byte}
    (hb : (leBytes 4 (f x))[n]? = some b) : Tab.get 0 (putCells m (wordCells place f xs)) (place x + n) = b := by
  have hsub : (leBytes 4 (f x))[place x + n - place x]? = some b := by rwa [Nat.add_sub_cancel_left]
  refine putCells_get_of_mem hm (mem_wordCells.2 ⟨x, hx, Nat.le_add_right .., hsub⟩) fun b' hb' => ?_
  obtain ⟨y, hy, hle, hget⟩ := mem_wordCells.1 hb'
  obtain rfl := happart y hy _ (within_of_leBytes (Nat.le_add_right ..) hsub) (within_of_leBytes hle hget)
  exact Option.some.inj (hget.symm.trans hsub)

end

/-! ### The accumulator elements of a block (R282, R296) -/

section
variable {cell row0 col0 : Nat} {r : Vector Word 7} {i j : Nat}

/-- An element of a block of 16 rows and 16 columns. -/
def InBlock (x : Nat × Nat) : Prop := x.1 < 16 ∧ x.2 < 16

/-- The place of an element of the block at (row0, col0). -/
def accPlaceAt (cell row0 col0 : Nat) (x : Nat × Nat) : Nat := accPa cell (row0 + x.1) (col0 + x.2)

theorem accPlaceAt_apart {x y : Nat × Nat} (hx : InBlock x) (hy : InBlock y) {a : Nat}
    (hxa : Within (accPlaceAt cell row0 col0 x) 4 a) (hya : Within (accPlaceAt cell row0 col0 y) 4 a) : y = x := by
  obtain ⟨x1, x2⟩ := x
  obtain ⟨y1, y2⟩ := y
  unfold InBlock Within accPlaceAt accPa at *
  dsimp only at *
  obtain ⟨h1, h2⟩ : y1 = x1 ∧ y2 = x2 := by omega
  rw [h1, h2]

theorem onDevice_accPlaceAt (hcell : cell < 768) (hrow : row0 ≤ 240) (hcol : col0 ≤ 240) {x : Nat × Nat} (hx : InBlock x) {a : Nat}
    (h : Within (accPlaceAt cell row0 col0 x) 4 a) : OnDevice a := by
  have htop : dramTop = 0x6000000000 := rfl
  have halt : altBase = 2 ^ 43 := rfl
  have hbase : accBase = 2 ^ 41 := rfl
  unfold InBlock Within accPlaceAt accPa OnDevice at *
  omega

/-- The unmasked elements, as the statement counts them. -/
def unmasked (r : Vector Word 7) (x : Nat × Nat) : Bool := (r[0]?.getD 0).getLsbD x.1 && (r[0]?.getD 0).getLsbD (16 + x.2)

theorem maskBit_fld (w : Word) (lo : Nat) (hi : i < 16) : maskBit (fld w lo 16) i = w.getLsbD (lo + i) := by
  have hbit : maskBit (fld w lo 16) i = (fld w lo 16).testBit i := by
    rw [Nat.testBit_eq_decide_div_mod_eq]
    exact beq_eq_decide _ _
  rw [hbit, fld, bits, Nat.testBit_mod_two_pow, decide_eq_true hi, Bool.true_and, Nat.testBit_div_two_pow, Nat.add_comm]
  rfl

theorem mem_blockElems {x : Nat × Nat} : x ∈ blockElems r ↔ InBlock x ∧ unmasked r x = true := by
  obtain ⟨i, j⟩ := x
  unfold blockElems InBlock unmasked rmaskOf cmaskOf rg
  simp only [List.mem_flatMap, List.mem_filter, List.mem_range, List.mem_map, Prod.mk.injEq, Bool.and_eq_true]
  constructor
  · rintro ⟨a, ⟨ha, hrow⟩, b, ⟨hb, hcol⟩, rfl, rfl⟩
    rw [maskBit_fld _ _ ha, Nat.zero_add] at hrow
    rw [maskBit_fld _ _ hb] at hcol
    exact ⟨⟨ha, hb⟩, hrow, hcol⟩
  · rintro ⟨⟨ha, hb⟩, hrow, hcol⟩
    refine ⟨i, ⟨ha, ?_⟩, j, ⟨hb, ?_⟩, rfl, rfl⟩
    · rwa [maskBit_fld _ _ ha, Nat.zero_add]
    · rwa [maskBit_fld _ _ hb]

/-- R282, R296: the words that a block command writes, and no other byte. -/
theorem accCells_written {s u : State} {m : Memory} {q : ArrCmd} {f : Nat × Nat → Nat} (hm : m.wf = true) (hcell : cell < 768)
    (hrow : fld q.b 0 8 ≤ 240) (hcol : fld q.b 8 8 ≤ 240) (hs : ∀ y, y < altBase → rdByte s y = Tab.get 0 m y)
    (hu : ∀ y, y < altBase → rdByte u y = Tab.get 0 (putCells m (accCells cell q f (blockElems q.regs))) y) :
    (∀ x, InBlock x → rdNat u (accPlaceAt cell (fld q.b 0 8) (fld q.b 8 8) x) 4 = if unmasked q.regs x = true then f x % 2 ^ 32
      else rdNat s (accPlaceAt cell (fld q.b 0 8) (fld q.b 8 8) x) 4) ∧
    ∀ y, y < altBase → (∀ x, InBlock x → unmasked q.regs x = true → ¬ Within (accPlaceAt cell (fld q.b 0 8) (fld q.b 8 8) x) 4 y) →
      rdByte u y = rdByte s y := by
  have hcells : accCells cell q f (blockElems q.regs) =
      wordCells (accPlaceAt cell (fld q.b 0 8) (fld q.b 8 8)) f (blockElems q.regs) := rfl
  have hother : ∀ y, y < altBase →
      (∀ x, InBlock x → unmasked q.regs x = true → ¬ Within (accPlaceAt cell (fld q.b 0 8) (fld q.b 8 8) x) 4 y) →
      rdByte u y = rdByte s y := fun y hy hout => by
    rw [hu y hy, hcells, get_wordCells_other hm fun x hx => hout x (mem_blockElems.1 hx).1 (mem_blockElems.1 hx).2, ← hs y hy]
  refine ⟨fun x hx => ?_, hother⟩
  split
  next hon =>
    have hxs : x ∈ blockElems q.regs := mem_blockElems.2 ⟨hx, hon⟩
    have hbytes := rdBytes_of_get (s := u) (pa := accPlaceAt cell (fld q.b 0 8) (fld q.b 8 8) x) (bs := leBytes 4 (f x))
      fun n b hb => by
        have hn := (List.getElem?_eq_some_iff.1 hb).1
        rw [length_leBytes] at hn
        rw [hu _ (onDevice_accPlaceAt hcell hrow hcol hx ⟨Nat.le_add_right .., Nat.add_lt_add_left hn _⟩).2, hcells]
        exact get_wordCells hm hxs (fun y hy a ha hya => accPlaceAt_apart hx (mem_blockElems.1 hy).1 ha hya) hb
    rw [length_leBytes] at hbytes
    unfold rdNat
    rw [hbytes, leNat_leBytes]
    exact congrArg (f x % ·) (by decide)
  next hoff =>
    unfold rdNat
    refine congrArg leNat (Tests.rdBytes_same u s 4 _ fun y hlo hhi => ?_)
    have hy : Within (accPlaceAt cell (fld q.b 0 8) (fld q.b 8 8) x) 4 y := ⟨hlo, hhi⟩
    refine hother y (onDevice_accPlaceAt hcell hrow hcol hx hy).2 fun z hz hon hzy => hoff ?_
    rwa [← accPlaceAt_apart hx hz hy hzy]

theorem onDevice_accCells {q : ArrCmd} {f : Nat × Nat → Nat} (hcell : cell < 768) (hrow : fld q.b 0 8 ≤ 240)
    (hcol : fld q.b 8 8 ≤ 240) : ∀ c ∈ accCells cell q f (blockElems q.regs), OnDevice c.1 := fun c hc => by
  obtain ⟨x, hx, hle, hget⟩ := mem_wordCells.1 (show (c.1, c.2) ∈ wordCells (accPlaceAt cell (fld q.b 0 8) (fld q.b 8 8)) f
    (blockElems q.regs) from hc)
  exact onDevice_accPlaceAt hcell hrow hcol (mem_blockElems.1 hx).1 (within_of_leBytes hle hget)

end

/-! ### The integer product of a step (R85) -/

section
variable {c : Cell} {q : ArrCmd} {s : State} {cell : Nat} {stream : List Word} {sw : Word}

/-- A signed byte's value is the integer it stands for. -/
theorem intOf_signedByte (bank : Bank) (x : Nat) : intOf (quieted (catDec 9 bank x)) = signedOf 8 x := by
  have hval : catDec 9 bank x = ival (toSigned x 8) := rfl
  rw [hval, toSigned_eq_signedOf _ _ (by decide)]
  generalize signedOf 8 x = z
  unfold ival quieted intOf
  dsimp only
  split
  next h => rw [decide_eq_true_eq] at h; omega
  next h => rw [decide_eq_true_eq] at h; omega

theorem foldl_products (ps : List (Int × Int)) (z : Int) :
    ps.foldl (fun a p => a + p.1 * p.2) z = z + (ps.map fun p => p.1 * p.2).sum := by
  induction ps generalizing z with
  | nil => simp
  | cons p ps ih => rw [List.foldl_cons, ih, List.map_cons, List.sum_cons, Int.add_assoc]

theorem mmaInteger_eq_dot32 (inc : Nat) (a b : Nat → Nat) :
    mmaInteger inc ((List.range 32).map fun k => (signedOf 8 (a k), signedOf 8 (b k))) = dot32 inc a b := by
  unfold mmaInteger dot32
  rw [foldl_products, toSigned_eq_signedOf _ _ (by decide), List.map_map]
  rfl

/-- Signed bytes of rows of the scratchpad, and of columns of the B-operand store. -/
def byteA (s : State) (q : ArrCmd) (i k : Nat) : Nat := (rdByte s (spadPa q.core (q.a.toNat + 32 * i + k))).toNat
def byteB (s : State) (cell : Nat) (q : ArrCmd) (j k : Nat) : Nat := (rdByte s (bstorePa cell (fld q.b 16 20 + 32 * j + k))).toNat

/-- R278: a row of the first step is 32 bytes of the scratchpad. -/
theorem row_signedBytes (hop : q.op = .mma) (htile : q.tile = none) (ha : afmtOf q.regs = 9) (hkind : akindOf q.regs = 0) (i : Nat) :
    (stepIn s cell q 0 stream sw).row i = (List.range 32).map fun k => (k, byteA s q i k) := by
  unfold stepIn rowPlaces
  simp only [hop, htile, ha, hkind, List.map_map]
  refine List.map_congr_left fun k _ => Prod.ext rfl ?_
  have hplace : 2 * (q.a.toNat + 0 * astepOf q.regs + 32 * i) + k * 2 = 2 * (q.a.toNat + 32 * i + k) := by ring
  have hrow := elemAt_byte (fun n => (rdByte s (spadPa q.core (0 + n))).toNat) (q.a.toNat + 32 * i + k)
  rw [← hplace, Nat.zero_add] at hrow
  exact hrow

/-- R281: a column of the first step is 32 bytes of the B-operand store. -/
theorem col_signedBytes (ha : afmtOf q.regs = 9) (hb : bfmtOf q.regs = 9) (j : Nat) {k : Nat} (hk : k < 32) :
    (stepIn s cell q 0 stream sw).col j k = byteB s cell q j k := by
  have hplace : 2 * (fld q.b 16 20 + 0 * bstepOf q.regs (q.op == .mmas) + k / 32 * 512 + j * 32) + k % 32 * 2 =
      2 * (fld q.b 16 20 + 32 * j + k) := by
    rw [Nat.div_eq_of_lt hk, Nat.mod_eq_of_lt hk]
    ring
  have hcol := elemAt_byte (fun n => (rdByte s (bstorePa cell n)).toNat) (fld q.b 16 20 + 32 * j + k)
  rw [← hplace] at hcol
  unfold stepIn
  rw [ha, hb]
  exact hcol

/-- Every depth position of an unmasked step counts. -/
theorem maskBit_all {k : Nat} (hk : k < 32) : maskBit 0xFFFF (k / 2) = true := by
  have hall : ∀ i < 16, maskBit 0xFFFF i = true := by decide
  exact hall _ (by omega)

/-- R85, R277, R281: an element of a product's only k-step, of signed bytes from the scratchpad. -/
theorem stepElement_signedBytes (hop : q.op = .mma) (htile : q.tile = none) (ha : afmtOf q.regs = 9) (hb : bfmtOf q.regs = 9)
    (hkind : akindOf q.regs = 0) (hmask : dmaskOf q.regs = 0xFFFF) (i j inc : Nat) :
    stepElement c q 0 (stepIn s cell q 0 stream sw) i j inc =
      dot32 (if q.z = true then 0 else inc) (byteA s q i) (byteB s cell q j) := by
  unfold stepElement
  rw [row_signedBytes hop htile ha hkind]
  simp only [ha, hb, hop, hmask]
  rw [if_pos (by decide), List.filter_eq_self.2, List.map_map, ← mmaInteger_eq_dot32]
  · congr 1
    · simp
    · refine List.map_congr_left fun k hk => ?_
      dsimp only [Function.comp]
      rw [intOf_signedByte, intOf_signedByte, col_signedBytes ha hb j (List.mem_range.1 hk)]
  · intro p hp
    obtain ⟨k, hk, rfl⟩ := List.mem_map.1 hp
    have hon := maskBit_all (List.mem_range.1 hk)
    exact Bool.or_eq_true_iff.2 (Or.inr hon)

end

/-! ### The step that finishes a command (R287, R296) -/

section
variable {s v : State} {cell e : Nat} {q : ArrCmd} {rest : List ArrCmd} {core : Nat}

theorem eng_mapEng (hw : Tab.wf {} s.cells = true) (he : e < 4) (f : EngCtx → EngCtx) :
    eng (mapEng cell e f s) cell e = f (eng s cell e) := by
  unfold eng mapEng cellAt setCell
  dsimp only
  rw [Tab.get_put _ _ _ hw, if_pos rfl, Vector.getElem?_setIfInBounds_self, if_pos he]
  rfl

/-- The command at the head of a queue has finished. -/
theorem queue_mapHead (hw : Tab.wf {} s.cells = true) (he : e < 4) (hq : (eng s cell e).queue = q :: rest)
    (hf : q.finished = false) (f : ArrCmd → ArrCmd) : (eng (mapHead cell e f s) cell e).queue = f q :: rest := by
  unfold mapHead
  rw [eng_mapEng hw he]
  dsimp only
  rw [hq]
  simp [List.takeWhile, List.dropWhile, hf]

/-- The state after a step has finished the first command of context e. -/
def stepDone (cell e : Nat) (v : State) : State :=
  let w := post (.arrayCommandComplete cell e) (mapHead cell e (fun q => { q with finished := true }) v)
  setCell w cell { cellAt w cell with rot := (e + 1) % 4 }

theorem tryStep_finished (hq : (eng s cell e).queue = q :: rest) (hf : q.finished = false) (hstep : cmdStep cell e q s = .finished v) :
    tryStep cell e s =
      (true, post (.arrayCommandComplete cell e) (mapHead cell e (fun q => { q with finished := true }) v)) := by
  have hfind : (engAt s cell e).queue.find? (fun q => !q.finished) = some q := by
    rw [show (engAt s cell e).queue = _ from hq, List.find?_cons, hf]
    rfl
  unfold tryStep
  rw [hfind]
  dsimp only
  rw [hstep]

/-- R277, R287: the context whose turn it is makes its step. -/
theorem delivers_kstep (hnow : s.now = none) (he : e < 4) (hfence : (cellAt s cell).arrFenced = false)
    (howner : ∀ n, (cellAt s cell).owner = some n → engRuns s n = true) (hrot : (cellAt s cell).rot = e)
    (hq : (eng s cell e).queue = q :: rest) (hf : q.finished = false) (hstep : cmdStep cell e q s = .finished v) :
    Delivers s (.kstep cell) (stepDone cell e v) := by
  have hruns : ¬ ((cellAt s cell).arrFenced = true ∨ (cellAt s cell).owner.any (fun n => !engRuns s n) = true) := by
    rw [hfence]
    rintro (h | h)
    · cases h
    · cases hown : (cellAt s cell).owner with
      | none => rw [hown] at h; cases h
      | some n =>
        rw [hown, Option.any_some, howner n hown] at h
        cases h
  have hturn : ((cellAt s cell).rot + 0) % 4 = e := by rw [hrot]; exact Nat.mod_eq_of_lt he
  unfold Delivers
  change execKstep { s with now := some (.kstep cell) } = _
  unfold execKstep
  dsimp only
  rw [taken_now hnow, if_neg hruns, show List.range 4 = [0, 1, 2, 3] from rfl]
  simp only [List.foldl_cons, List.foldl_nil, hturn, tryStep_finished hq hf hstep, if_true]
  rfl

theorem stepDone_frame (hw : Tab.wf {} v.cells = true) (he : e < 4) (hq : (eng v cell e).queue = q :: rest)
    (hf : q.finished = false) : (stepDone cell e v).mem = v.mem ∧
      (eng (stepDone cell e v) cell e).queue = { q with finished := true } :: rest ∧
      Sent (stepDone cell e v) (.arrayCommandComplete cell e) ∧ (cellAt (stepDone cell e v) cell).rot = (e + 1) % 4 := by
  have hqueue := queue_mapHead hw he hq hf fun q => { q with finished := true }
  have hw' : Tab.wf {} (mapHead cell e (fun q => { q with finished := true }) v).cells = true := Tab.wf_put _ _ hw
  have hcell : cellAt (stepDone cell e v) cell =
      { cellAt (mapHead cell e (fun q => { q with finished := true }) v) cell with rot := (e + 1) % 4 } :=
    (Tab.get_put cell cell _ hw').trans (if_pos rfl)
  refine ⟨rfl, ?_, ⟨none, List.mem_append_right _ (List.mem_singleton_self _)⟩, ?_⟩
  · unfold eng at hqueue ⊢
    rw [hcell]
    exact hqueue
  · rw [hcell]

end

/-! ### Two commands of one step -/

section
variable {s : State} {cell e : Nat} {q : ArrCmd}

theorem cmdStep_acczero (hop : q.op = .acczero) :
    cmdStep cell e q s = .finished (rawWrite s (accCells cell q (fun _ => 0) (blockElems q.regs))) := by
  unfold cmdStep
  rw [hop]

/-- R259: places of the scratchpad that are clear are used at once. -/
theorem useSpad_clear {core : Nat} {k : Acc} {rs : List (Nat × Nat)} (h : ∀ r ∈ rs, stagedCheck s core r.1 r.2 k = .clear)
    (go : State → StepEnd) : useSpad core k rs s go = go s := by
  have hclear : ∀ x ∈ rs.map fun r => stagedCheck s core r.1 r.2 k, x = .clear := fun x hx => by
    obtain ⟨r, hr, rfl⟩ := List.mem_map.1 hx
    exact h r hr
  unfold useSpad
  dsimp only
  split
  next i hi =>
    obtain ⟨x, hx, hxi⟩ := List.exists_of_findSome?_eq_some hi
    rw [hclear x hx] at hxi
    cases hxi
  · rw [if_neg]
    rw [List.any_eq_true]
    rintro ⟨x, hx, hxp⟩
    rw [hclear x hx] at hxp
    cases hxp

/-- What a step of a product writes: the elements of its block (R296). -/
def productCells (s : State) (cell : Nat) (q : ArrCmd) : List (Nat × Byte) :=
  accCells cell q (fun p => stepElement (cellAt s cell) q 0 (stepIn s cell q 0 [] 0) p.1 p.2 (accElem s cell q p)) (blockElems q.regs)

/-- R296: the only step of a product whose rows are read from a part of the scratchpad that is clear. -/
theorem cmdStep_mma (hop : q.op = .mma) (htile : q.tile = none) (hstep : q.step = 0) (hasm : asmOf q.regs = 0)
    (hkind : akindOf q.regs = 0) (hsrc : ssrcOf q.regs = 0) (hsteps : kstepsOf q.regs = 1)
    (hclear : ∀ i, i < 16 → stagedCheck s q.core (q.a.toNat + 32 * i) 32 .read = .clear) :
    cmdStep cell e q s = .finished (charge q.th.ctx 820 (rawWrite s (productCells s cell q))) := by
  have hreads : ∀ r ∈ stepReads q, stagedCheck s q.core r.1 r.2 .read = .clear := by
    intro r hr
    unfold stepReads scaleReads at hr
    simp only [hkind, htile, hop, hstep, hsrc, hasm, List.mem_flatMap, List.mem_filter, List.mem_range] at hr
    obtain ⟨i, ⟨hi, -⟩, hr⟩ := hr
    simp only [and_self, if_true, reduceCtorEq, false_and, if_false, Nat.zero_mul, Nat.add_zero, List.append_nil,
      List.mem_singleton, show ¬ (0 = 1) by decide] at hr
    subst hr
    exact hclear i hi
  unfold cmdStep
  rw [hop]
  dsimp only
  rw [hkind, hsrc]
  simp only [show ¬ (0 = 2) by decide, show ¬ (0 = 1) by decide, false_and, if_false, hstep, hsteps, if_true]
  exact useSpad_clear hreads _

end

/-! ### The statement of a k-step -/

section
variable {s : State} {cell e : Nat} {q : ArrCmd} {rest : List ArrCmd}

/-- The command at the head of the context whose turn it is can make its step. -/
structure StepReady (s : State) (cell e : Nat) (q : ArrCmd) (rest : List ArrCmd) : Prop where
  canonical : Canonical s
  now : s.now = none
  cell_lt : cell < 768
  eng_lt : e < 4
  fenced : (cellAt s cell).arrFenced = false
  owner : ∀ n, (cellAt s cell).owner = some n → engRuns s n = true
  rot : (cellAt s cell).rot = e
  queue : (eng s cell e).queue = q :: rest
  finished : q.finished = false
  row_le : fld q.b 0 8 ≤ 240
  col_le : fld q.b 8 8 ≤ 240

/-- R296, R298: a step that writes f to the unmasked elements of its command's block, and finishes the command. -/
theorem kstep_writes (h : StepReady s cell e q rest) {v : State} {f : Nat × Nat → Nat} (hstep : cmdStep cell e q s = .finished v)
    (hcells : v.cells = s.cells) (hmem : v.mem = putCells s.mem (accCells cell q f (blockElems q.regs))) :
    ∃ u, Delivers s (.kstep cell) u ∧
      (∀ x, InBlock x → rdNat u (accPlaceAt cell (fld q.b 0 8) (fld q.b 8 8) x) 4 = if unmasked q.regs x = true then f x % 2 ^ 32
        else rdNat s (accPlaceAt cell (fld q.b 0 8) (fld q.b 8 8) x) 4) ∧
      (∀ y, y < altBase →
        (∀ x, InBlock x → unmasked q.regs x = true → ¬ Within (accPlaceAt cell (fld q.b 0 8) (fld q.b 8 8) x) 4 y) →
        rdByte u y = rdByte s y) ∧
      (eng u cell e).queue = { q with finished := true } :: rest ∧ Sent u (.arrayCommandComplete cell e) ∧
      (cellAt u cell).rot = (e + 1) % 4 := by
  obtain ⟨hc, hnow, hcell, he, hfence, howner, hrot, hq, hf, hrow, hcol⟩ := h
  have hw : Tab.wf {} v.cells = true := by
    rw [hcells]
    exact (Proofs.Faults.tidy_of_canonical hc).cells
  have hvq : (eng v cell e).queue = q :: rest := by
    unfold eng cellAt at hq ⊢
    rw [hcells]
    exact hq
  obtain ⟨hdone, hqueue, hsent, hturn⟩ := stepDone_frame hw he hvq hf
  obtain ⟨hon, hoff⟩ := accCells_written (s := s) (u := stepDone cell e v) (canonical_mem hc) hcell hrow hcol
    (fun y hy => rdByte_of_lt s hy) fun y hy => by rw [rdByte_of_lt _ hy, hdone, hmem]
  exact ⟨_, delivers_kstep hnow he hfence howner hrot hq hf hstep, hon, hoff, hqueue, hsent, hturn⟩

/-- R298: acczero clears its block. -/
theorem kstep_acczero (h : StepReady s cell e q rest) (hop : q.op = .acczero) :
    ∃ v, cmdStep cell e q s = .finished v ∧ v.cells = s.cells ∧
      v.mem = putCells s.mem (accCells cell q (fun _ => 0) (blockElems q.regs)) := by
  obtain ⟨poison, hwrite⟩ := rawWrite_onDevice (s := s) (onDevice_accCells (f := fun _ => 0) h.cell_lt h.row_le h.col_le)
  refine ⟨_, cmdStep_acczero hop, ?_, ?_⟩
  all_goals rw [hwrite]

/-- R296: the only step of a product. -/
theorem kstep_mma (h : StepReady s cell e q rest) (hop : q.op = .mma) (htile : q.tile = none) (hstep : q.step = 0)
    (hasm : asmOf q.regs = 0) (hkind : akindOf q.regs = 0) (hsrc : ssrcOf q.regs = 0) (hsteps : kstepsOf q.regs = 1)
    (hclear : ∀ i, i < 16 → stagedCheck s q.core (q.a.toNat + 32 * i) 32 .read = .clear) :
    ∃ v, cmdStep cell e q s = .finished v ∧ v.cells = s.cells ∧ v.mem = putCells s.mem (productCells s cell q) := by
  obtain ⟨poison, hwrite⟩ := rawWrite_onDevice (s := s) (cs := productCells s cell q) (onDevice_accCells h.cell_lt h.row_le h.col_le)
  refine ⟨_, cmdStep_mma hop htile hstep hasm hkind hsrc hsteps hclear, ?_, ?_⟩
  all_goals rw [hwrite]; rfl

theorem dot32_lt (inc : Nat) (a b : Nat → Nat) : dot32 inc a b % 2 ^ 32 = dot32 inc a b := by
  refine Nat.mod_eq_of_lt ?_
  unfold dot32 modTo
  omega

end

end Sys2Proof.Proofs.Arrays
end

section
/-!
PROOF. What ends array work (O32): completed commands leave their queue and advance its timeline, and a decode table is loaded once
no command names its bank. Then the statement.
-/
namespace Sys2Proof.Proofs.Arrays
open Sys2Proof Sys2Proof.Machine Sys2Proof.Safety Sys2Proof.Proofs.Units Sys2Proof.Proofs.Queues
open Sys2Proof.Proofs.Faults (taken_now)

set_option Elab.async false

/-! ### Messages sent -/

section
variable {s t u : State}

/-- From s to t only messages have been sent. -/
def Sends (s t : State) : Prop := ∃ l, t = { s with agenda := s.agenda ++ l }

theorem Sends.refl (s : State) : Sends s s := ⟨[], by rw [List.append_nil]⟩

theorem Sends.trans (h : Sends s t) (k : Sends t u) : Sends s u := by
  obtain ⟨l, rfl⟩ := h
  obtain ⟨m, rfl⟩ := k
  exact ⟨l ++ m, by rw [← List.append_assoc]⟩

theorem Sends.ite {p : Prop} [Decidable p] (h : Sends s t) (k : Sends s u) : Sends s (if p then t else u) := by
  split
  · exact h
  · exact k

theorem Sends.foldl {α : Type} {f : State → α → State} (h : ∀ s x, Sends s (f s x)) (l : List α) (s : State) :
    Sends s (l.foldl f s) := by
  induction l generalizing s with
  | nil => exact .refl s
  | cons x l ih => exact (h s x).trans (ih _)

theorem sends_post (e : Event) (s : State) : Sends s (post e s) := ⟨_, rfl⟩
theorem sends_sendWake (th : Thr) (m : Msg) (s : State) : Sends s (sendWake th m s) := ⟨_, rfl⟩

theorem sends_wakeLimit (reason info : Nat) (th : Thr) (s : State) : Sends s (wakeLimit reason info th s) := by
  unfold wakeLimit wakeParked
  split
  · exact .ite (sends_sendWake ..) (.refl s)
  · exact .refl s

theorem sends_fireArms (sel line : Nat) (ended : Tab Nat) (arms : List (Thr × Nat × Nat)) (s : State) :
    Sends s (fireArms sel line ended arms s) :=
  .foldl (fun s _ => .ite (sends_sendWake ..) (.refl s)) arms s

theorem Sends.queueSide (h : Sends s t) : QueueSide s t := by
  obtain ⟨l, rfl⟩ := h
  exact ⟨fun _ => rfl, fun _ => rfl, rfl, id⟩

theorem Sends.eng (h : Sends s t) (cell e : Nat) : eng t cell e = eng s cell e := by
  obtain ⟨l, rfl⟩ := h
  rfl

theorem Sends.sent (h : Sends s t) {ev : Event} (hs : Sent s ev) : Sent t ev := by
  obtain ⟨l, rfl⟩ := h
  obtain ⟨c, hc⟩ := hs
  exact ⟨c, List.mem_append_left _ hc⟩

theorem rdNat_of_bytes (h : ∀ a, rdByte t a = rdByte s a) (a n : Nat) : rdNat t a n = rdNat s a n :=
  congrArg leNat (Tests.rdBytes_same t s n a fun x _ _ => h x)

/-- Messages posted one after another are all on their way. -/
theorem sent_foldl_post {α : Type} {ev : State → α → Event} (hev : ∀ s t, Sends s t → ∀ x, ev t x = ev s x) {l : List α} {x : α}
    (hx : x ∈ l) (s : State) : Sent (l.foldl (fun s x => post (ev s x) s) s) (ev s x) := by
  induction l generalizing s with
  | nil => cases hx
  | cons y l ih =>
    rw [List.foldl_cons]
    rcases List.mem_cons.1 hx with rfl | hx
    · exact (Sends.foldl (fun s y => sends_post _ s) l _).sent ⟨none, List.mem_append_right _ (List.mem_singleton_self _)⟩
    · have hlater := ih hx (post (ev s y) s)
      rwa [hev s _ (sends_post (ev s y) s) x] at hlater

end

/-! ### A timeline advances (R287, R299) -/

section
variable {s : State} {cell e line : Nat}

/-- A context whose timeline has reached a line. -/
def reached (line : Nat) (x : EngCtx) : EngCtx :=
  { x with line := line, gets := x.gets.filter (fun g => decide (line < g.n)), arms := x.arms.filter (fun a => decide (line < a.2.1)) }

/-- A context with no command left rests, or is free where it was being released. -/
def rested (x : EngCtx) : EngCtx :=
  if x.queue ≠ [] then x
  else if x.st = .busy then { x with st := .idle }
  else if x.st = .releasing then { x with st := .free, status := 0, gets := [], astream := [], scaleq := [], resultq := [] }
  else x

/-- The reply of a get that is due. -/
def getReply (s : State) (cell : Nat) (g : AccWait) : Event := .postedArrive g.th g.reg (accPair s cell g.row g.col)

theorem wf_cells (hc : Canonical s) : Tab.wf {} s.cells = true := (Proofs.Faults.tidy_of_canonical hc).cells

/-- The replies of a context's gets are the same while only queues and messages change. -/
theorem getReply_queueSide {t : State} (h : QueueSide s t) (g : AccWait) : getReply t cell g = getReply s cell g := by
  unfold getReply accPair
  rw [rdNat_of_bytes h.bytes]

/-- The state of a context after its timeline has moved: it rests where no command is left. -/
theorem rested_frame (hc : Canonical s) (he : e < 4) {x : EngCtx} (hx : engAt s cell e = x) (t : State)
    (ht : t = if x.queue ≠ [] then s
      else if x.st = .busy then mapEng cell e (fun x => { x with st := .idle }) s
      else if x.st = .releasing then endEng cell e s
      else s) :
    QueueSide s t ∧ eng t cell e = rested x ∧ ∀ ev, Sent s ev → Sent t ev := by
  subst ht
  have hx' : eng s cell e = x := hx
  unfold rested
  by_cases hq : x.queue ≠ []
  · rw [if_pos hq, if_pos hq]
    exact ⟨.refl s, hx', fun _ h => h⟩
  rw [if_neg hq, if_neg hq]
  by_cases hb : x.st = .busy
  · rw [if_pos hb, if_pos hb, eng_mapEng (wf_cells hc) he, hx']
    exact ⟨queueSide_mapEng hc .., rfl, fun _ h => h⟩
  rw [if_neg hb, if_neg hb]
  by_cases hr : x.st = .releasing
  · rw [if_pos hr, if_pos hr]
    unfold endEng offerWork
    have hsend := fun ev => sends_post ev (mapEng cell e (fun x =>
      { x with st := .free, status := 0, gets := [], astream := [], scaleq := [], resultq := [] }) s)
    refine ⟨(queueSide_mapEng hc ..).trans (hsend _).queueSide, ?_, fun _ h => (hsend _).sent h⟩
    rw [(hsend _).eng, eng_mapEng (wf_cells hc) he, hx']
  · rw [if_neg hr, if_neg hr]
    exact ⟨.refl s, hx', fun _ h => h⟩

/-- R287, R299: what an advance of a context's timeline leaves. -/
theorem engAdvance_frame (hc : Canonical s) (he : e < 4) :
    QueueSide s (engAdvance cell e line s) ∧ eng (engAdvance cell e line s) cell e = rested (reached line (eng s cell e)) ∧
      ∀ g ∈ (eng s cell e).gets, g.n ≤ line → Sent (engAdvance cell e line s) (getReply s cell g) := by
  unfold engAdvance
  extract_lets x due s₁ s₂ s₃ owner s₄ x' s₅
  have h₁ : QueueSide s s₁ := queueSide_mapEng hc ..
  have h₂ : Sends s₁ s₂ := .foldl (fun s _ => sends_post _ s) due s₁
  have h₄ : Sends s₂ s₄ := (sends_fireArms ..).trans (sends_wakeLimit ..)
  have hall := h₁.trans (h₂.trans h₄).queueSide
  have hx : engAt s₄ cell e = reached line (eng s cell e) := ((h₂.trans h₄).eng cell e).trans (eng_mapEng (wf_cells hc) he _)
  obtain ⟨h₅, heng, hsent⟩ := rested_frame (hall.canonical hc) he hx s₅ (by rw [← hx])
  have hlast : Sends s₅ (if engBusy s₅ x'.core x'.tid x'.ctx = true then s₅ else wakeLimit 4 e owner s₅) :=
    .ite (.refl s₅) (sends_wakeLimit ..)
  refine ⟨hall.trans (h₅.trans hlast.queueSide), (hlast.eng cell e).trans heng, fun g hg hn => hlast.sent (hsent _ (h₄.sent ?_))⟩
  have hdue : g ∈ due := List.mem_filter.2 ⟨hg, decide_eq_true hn⟩
  have hposted := sent_foldl_post (ev := fun s g => getReply s cell g) (fun s t h g => getReply_queueSide h.queueSide g) hdue s₁
  rwa [getReply_queueSide h₁] at hposted

end

/-! ### Completed commands -/

section
variable {s : State} {cell e : Nat} {q : ArrCmd} {rest : List ArrCmd}

theorem takeWhile_finished (hf : q.finished = true) (hrest : ∀ r, rest.head? = some r → r.finished = false) :
    (q :: rest).takeWhile (fun q => q.finished) = [q] ∧ (q :: rest).dropWhile (fun q => q.finished) = rest := by
  cases rest with
  | nil => simp [hf]
  | cons r rest =>
    have hr := hrest r rfl
    simp [hf, hr]

/-- The queue without the command that has completed. -/
def popped (cell e : Nat) (s : State) : State :=
  mapEng cell e (fun x => { x with queue := x.queue.dropWhile (fun q => q.finished) }) s

/-- R287: the event finds one command completed. -/
theorem delivers_arrayCommandComplete (hnow : s.now = none) (hq : (eng s cell e).queue = q :: rest) (hf : q.finished = true)
    (hrest : ∀ r, rest.head? = some r → r.finished = false) :
    Delivers s (.arrayCommandComplete cell e) (engAdvance cell e q.n (popped cell e s)) := by
  have hfin : (engAt s cell e).queue.takeWhile (fun q => q.finished) = [q] := by
    rw [show (engAt s cell e).queue = _ from hq]
    exact (takeWhile_finished hf hrest).1
  unfold Delivers
  change execArrayCommandComplete { s with now := some (.arrayCommandComplete cell e) } = _
  unfold execArrayCommandComplete
  dsimp only
  rw [taken_now hnow, hfin]
  rfl

/-- R287, R299: what the event leaves. -/
theorem arrayCommandComplete_frame (hc : Canonical s) (he : e < 4) (hq : (eng s cell e).queue = q :: rest) (hf : q.finished = true)
    (hrest : ∀ r, rest.head? = some r → r.finished = false) :
    QueueSide s (engAdvance cell e q.n (popped cell e s)) ∧
      eng (engAdvance cell e q.n (popped cell e s)) cell e = rested (reached q.n { eng s cell e with queue := rest }) ∧
      ∀ g ∈ (eng s cell e).gets, g.n ≤ q.n → Sent (engAdvance cell e q.n (popped cell e s)) (getReply s cell g) := by
  have hpop : QueueSide s (popped cell e s) := queueSide_mapEng hc ..
  have heng : eng (popped cell e s) cell e = { eng s cell e with queue := rest } := by
    unfold popped
    rw [eng_mapEng (wf_cells hc) he, hq, (takeWhile_finished hf hrest).2]
  obtain ⟨hside, hctx, hsent⟩ := engAdvance_frame (line := q.n) (cell := cell) (hpop.canonical hc) he
  rw [heng] at hctx hsent
  exact ⟨hpop.trans hside, hctx, fun g hg hn => by rw [← getReply_queueSide hpop]; exact hsent g hg hn⟩

theorem rested_line (x : EngCtx) : (rested x).line = x.line := by
  unfold rested; split; rfl; split; rfl; split <;> rfl

theorem rested_queue (x : EngCtx) : (rested x).queue = x.queue := by
  unfold rested; split; rfl; split; rfl; split <;> rfl

theorem rested_gets {x : EngCtx} (h : x.st ≠ .releasing) : (rested x).gets = x.gets := by
  unfold rested
  rw [if_neg h]
  split
  · rfl
  · split <;> rfl

theorem rested_busy {x : EngCtx} (hq : x.queue = []) (hst : x.st = .busy) : (rested x).st = .idle := by
  unfold rested
  rw [if_neg (not_not.2 hq), if_pos hst]

theorem rested_releasing {x : EngCtx} (hq : x.queue = []) (hst : x.st = .releasing) : (rested x).st = .free := by
  unfold rested
  rw [if_neg (not_not.2 hq), if_neg (by rw [hst]; decide), if_pos hst]

end

/-! ### A decode table is loaded (R292) -/

section
variable {s : State} {cell bank slot : Nat} {b : Bank} {th : Thread} {rest : List (Nat × Bank × Thr)}

/-- A command of some context of the cell has the property p. -/
theorem any_command (p : ArrCmd → Bool) : ((cellAt s cell).eng.toList.any fun g => g.queue.any p) = true ↔
    ∃ e q, e < 4 ∧ q ∈ (eng s cell e).queue ∧ p q = true := by
  have heng : ∀ e (he : e < 4), eng s cell e = (cellAt s cell).eng[e] := fun e he => by
    unfold eng
    rw [Vector.getElem?_eq_getElem he]
    rfl
  rw [List.any_eq_true]
  constructor
  · rintro ⟨g, hg, hany⟩
    obtain ⟨e, he, rfl⟩ := Vector.getElem_of_mem (Vector.mem_toList_iff.1 hg)
    obtain ⟨q, hq, hp⟩ := List.any_eq_true.1 hany
    exact ⟨e, q, he, by rwa [heng e he], hp⟩
  · rintro ⟨e, q, he, hq, hp⟩
    rw [heng e he] at hq
    exact ⟨_, Vector.mem_toList_iff.2 (Vector.getElem_mem he), List.any_eq_true.2 ⟨q, hq, hp⟩⟩

/-- The cell with a table loaded into a bank. -/
def loaded (bank : Nat) (b : Bank) (rest : List (Nat × Bank × Thr)) (c : Cell) : Cell :=
  { c with mtabld := rest, banks := c.banks.setIfInBounds bank b }

/-- The machine with a table loaded, its thread about to go on. -/
def tableLoaded (cell bank : Nat) (b : Bank) (rest : List (Nat × Bank × Thr)) (slot : Nat) (s : State) : State :=
  { setCell s cell (loaded bank b rest (cellAt s cell)) with cur := slot }

/-- The debug block shows nothing of a cell's decode tables. -/
theorem rdByte_tableLoaded (hc : Canonical s) (y : Nat) : rdByte (tableLoaded cell bank b rest slot s) y = rdByte s y := by
  have hcell : ∀ c, (cellAt (tableLoaded cell bank b rest slot s) c).residue = (cellAt s c).residue ∧
      (cellAt (tableLoaded cell bank b rest slot s) c).active = (cellAt s c).active ∧
      (cellAt (tableLoaded cell bank b rest slot s) c).test = (cellAt s c).test := fun c => by
    have hget : cellAt (tableLoaded cell bank b rest slot s) c = if cell = c then loaded bank b rest (cellAt s cell) else cellAt s c :=
      cellAt_setCell hc cell c _
    rw [hget]
    split
    · subst_vars; exact ⟨rfl, rfl, rfl⟩
    · exact ⟨rfl, rfl, rfl⟩
  refine rdByte_congr (s := s) (t := tableLoaded cell bank b rest slot s) rfl rfl rfl rfl (fun o => ?_) y
  have hslot : ∀ p, slotAt (tableLoaded cell bank b rest slot s) p = slotAt s p := fun _ => rfl
  have hcore : ∀ c, coreAt (tableLoaded cell bank b rest slot s) c = coreAt s c := fun _ => rfl
  have hctx : ∀ n, ctxAt (tableLoaded cell bank b rest slot s) n = ctxAt s n := fun _ => rfl
  have hslice : ∀ n, sliceAt (tableLoaded cell bank b rest slot s) n = sliceAt s n := fun _ => rfl
  have hras : (tableLoaded cell bank b rest slot s).ras = s.ras := rfl
  have hcycle : (tableLoaded cell bank b rest slot s).cycle = s.cycle := rfl
  unfold debugRead lossCount histCount
  simp only [hcell, hslot, hcore, hctx, hslice, hras, hcycle]

/-- MTABLD_LOAD_COMPLETE finds the load of its bank. -/
theorem delivers_mtabldLoadComplete (hnow : s.now = none) (hload : (cellAt s cell).mtabld = (bank, b, nameAt slot th) :: rest) :
    Delivers s (.mtabldLoadComplete cell bank)
      (if ((cellAt s cell).eng.toList.any fun g => g.queue.any fun q => namesBank bank q) = true then
        holdBack (.mtabldLoadComplete cell bank) s
      else withThr (nameAt slot th) (setCell s cell (loaded bank b rest (cellAt s cell)))
        fun s => if (me s).form = .inFlight .unit then advance s else s) := by
  unfold Delivers
  change execMtabldLoadComplete { s with now := some (.mtabldLoadComplete cell bank) } = _
  unfold execMtabldLoadComplete
  dsimp only
  rw [taken_now hnow, hload, List.find?_cons_of_pos (by exact beq_self_eq_true bank)]
  dsimp only
  rw [List.erase_cons_head]
  rfl

/-- R292: the load is made, and its thread goes on. -/
theorem mtabldLoad_made (hth : threadAt s slot = some th) (hf : th.form = .inFlight .unit) :
    withThr (nameAt slot th) (setCell s cell (loaded bank b rest (cellAt s cell)))
        (fun s => if (me s).form = .inFlight .unit then advance s else s) = advance (tableLoaded cell bank b rest slot s) := by
  have hholds : holds (setCell s cell (loaded bank b rest (cellAt s cell))) (nameAt slot th) = true := by
    unfold holds nameAt
    dsimp only
    rw [show threadAt (setCell s cell (loaded bank b rest (cellAt s cell))) slot = some th from hth]
    simp
  have hme : me (tableLoaded cell bank b rest slot s) = th := me_of (s := tableLoaded cell bank b rest slot s) hth
  unfold withThr
  rw [if_pos hholds]
  change (if (me (tableLoaded cell bank b rest slot s)).form = _ then _ else _) = _
  rw [hme, if_pos hf]
  rfl

theorem mtabldLoad_frame (hc : Canonical s) (hth : threadAt s slot = some th) (hf : th.form = .inFlight .unit) (hbank : bank < 4) :
    let u := advance (tableLoaded cell bank b rest slot s)
    (cellAt u cell).banks[bank]? = some b ∧ (cellAt u cell).mtabld = rest ∧ threadAt u slot = some (passed s th) ∧
      (∀ p, p ≠ slot → slotAt u p = slotAt s p) ∧ ∀ y, rdByte u y = rdByte s y := by
  obtain ⟨hq, hpassed⟩ := advance_of (Quiet.refl (tableLoaded cell bank b rest slot s)) (tu := th) hth
    (fun tr h => by rw [hf] at h; cases h)
  have hcells : (advance (tableLoaded cell bank b rest slot s)).cells = (tableLoaded cell bank b rest slot s).cells := by
    have h := congrArg State.cells hq.rest
    exact h
  have hcell : cellAt (advance (tableLoaded cell bank b rest slot s)) cell = loaded bank b rest (cellAt s cell) := by
    unfold cellAt at *
    rw [hcells]
    exact (cellAt_setCell hc cell cell _).trans (if_pos rfl)
  refine ⟨?_, ?_, hpassed, hq.slots, fun y => (hq.bytes y).trans (rdByte_tableLoaded hc y)⟩
  · rw [hcell, loaded, Vector.getElem?_setIfInBounds_self, if_pos hbank]
  · rw [hcell, loaded]

end

end Sys2Proof.Proofs.Arrays

namespace Sys2Proof
open Sys2Proof.Machine Sys2Proof.Safety Sys2Proof.Proofs.Arrays Sys2Proof.Proofs.Queues

/-- Settles O32: tbst writes the tile's cells (`tbst_writes`, `tbstCells_placed`), a k-step the words of its block
(`kstep_writes`), completion advances the timeline (`arrayCommandComplete_frame`), a table load goes by `any_command`. -/
theorem arrayWork : Obligations.ArrayWork := by
  unfold Obligations.ArrayWork
  refine ⟨?_, ?_, ?_, ?_⟩
  · intro s th a b ma mb slice e i x d hc he hacq ha hb htile _ hhandle hd o hword halign hspan hfmt hsparse hlayout hrows hcols
      hslot hst href hcell
    subst hd
    have hss : ∀ y ∈ [src a ma, src b mb], ReadyNow th y := by simp [ha, hb]
    obtain ⟨hplaced, hkept⟩ := tbstCells_placed (s := s) (cell := s.cur / 64) (core := s.cur / 16) (off := x.off) (o := o)
      (canonical_mem hc) hfmt hlayout hrows hcols
    obtain ⟨th', hb', hregs, hpassed, hbytes⟩ := tbst_completes (i := i) hc he hss
      (onDevice_tbstCells (s := s) (core := s.cur / 16) (off := x.off) hcell (fld_lt (val th b) 0 20) hfmt hlayout hrows hcols) (s.cur / 16)
    refine ⟨_, th', tbst_writes he hacq ha hb htile hhandle hword halign hspan hfmt hsparse hrows hcols hslot hst href, hb', hregs,
      hpassed, fun k j hk hj => ?_, fun y hy hout => ?_⟩
    · have hplace := onDevice_tbstPlace (o := o) hcell (fld_lt (val th b) 0 20) hrows hcols hk hj
      have hbyte := (hbytes _ hplace.2).trans (hplaced k j hk hj)
      unfold bPlace at hbyte
      simpa only [Nat.add_assoc] using hbyte
    · rw [hbytes y hy, hkept y hout, Proofs.Faults.rdByte_of_lt s hy]
  · intro s cell e q rest hc hnow hcell he hfence howner hrot hq hf htile hstep hrow hcol
    have hready : StepReady s cell e q rest := ⟨hc, hnow, hcell, he, hfence, howner, hrot, hq, hf, hrow, hcol⟩
    refine ⟨fun hop => ?_, fun hop ha hb hasm _ hkind hsrc hsteps hmask _ hclear => ?_⟩
    · obtain ⟨v, hv, hcells, hmem⟩ := kstep_acczero hready hop
      obtain ⟨u, hdel, hon, hoff, hend⟩ := kstep_writes hready hv hcells hmem
      exact ⟨u, hdel, fun i j hi hj => hon (i, j) ⟨hi, hj⟩, fun y hy hout => hoff y hy fun z hz => hout z.1 z.2 hz.1 hz.2, hend⟩
    · obtain ⟨v, hv, hcells, hmem⟩ := kstep_mma hready hop htile hstep hasm hkind hsrc hsteps hclear
      obtain ⟨u, hdel, hon, hoff, hend⟩ := kstep_writes hready hv hcells hmem
      refine ⟨u, hdel, fun i j hi hj => (hon (i, j) ⟨hi, hj⟩).trans ?_,
        fun y hy hout => hoff y hy fun z hz => hout z.1 z.2 hz.1 hz.2, hend⟩
      rw [stepElement_signedBytes hop htile ha hb hkind hmask, dot32_lt]
      rfl
  · intro s cell e q rest hc hnow he hq hf hrest
    obtain ⟨hside, hctx, hsent⟩ := arrayCommandComplete_frame hc he hq hf hrest
    refine ⟨_, delivers_arrayCommandComplete hnow hq hf hrest, ?_, ?_, fun hst => ?_, hsent, fun hr hst => ?_, fun hr hst => ?_,
      hside.slots, hside.bytes⟩
    · rw [hctx, rested_line]; rfl
    · rw [hctx, rested_queue]; rfl
    · rw [hctx]
      refine (rested_gets ?_).trans rfl
      exact hst
    · rw [hctx]; exact rested_busy hr hst
    · rw [hctx]; exact rested_releasing hr hst
  · intro s cell bank b slot th rest hc hth hbank hf hload
    obtain ⟨hnow, hthread⟩ := hth
    have hdel := delivers_mtabldLoadComplete hnow hload
    refine ⟨fun hnone => ?_, fun e q he hq hnames => ?_⟩
    · rw [if_neg fun hany => ?_, mtabldLoad_made hthread hf] at hdel
      · exact ⟨_, hdel, mtabldLoad_frame hc hthread hf hbank⟩
      · obtain ⟨e, q, he, hq, hp⟩ := (any_command _).1 hany
        rw [hnone e q he hq] at hp
        cases hp
    · rwa [if_pos ((any_command _).2 ⟨e, q, he, hq, hnames⟩)] at hdel

end Sys2Proof
end

section
/-!
PROOF. O8 (R95, R213) fails: a line keeps the virtual address under which its copies were given out, and a read under another
one waits at the home while an invalidation of those copies is outstanding (R93). The statement asks that no copy under another
address is left, not that none is on its way out.
-/
namespace Sys2Proof.Proofs.AliasedLoad
open Sys2Proof.Machine Sys2Proof.Safety

set_option Elab.async false

/-- Line 0 of DRAM has lost its last sharer, a copy under virtual line 0: the invalidation of core 1 is not answered yet. -/
def sharerLeaving : State := { State.reset with dir := [(0, { invs := [⟨1, none⟩] })] }

/-- A load's request for line 0 under virtual line 1. -/
def aliasRead : ReadReq := { th := ⟨0, 0, 0⟩, core := 0, va := 32, pa := 0, kind := .load, id := 1, priv := 0 }

theorem sharerLeaving_canonical : Canonical sharerLeaving := by
  unfold Canonical MemOk; decide

theorem sharerLeaving_plain : PlainLine sharerLeaving (homePlace aliasRead.pa) (aliasRead.pa / 32) := by
  refine ⟨by decide, by decide, by decide, fun _ _ _ h => (List.not_mem_nil h).elim, fun _ _ _ h => (List.not_mem_nil h).elim,
    fun x hx => ?_⟩
  rw [List.mem_singleton.1 hx]
  exact fun _ _ => rfl

/-- The request is held back at the home: nothing is sent. -/
theorem aliasRead_waits : ∃ t, Delivers sharerLeaving (.homeRead aliasRead) t ∧ t.agenda = [] := ⟨_, rfl, by decide⟩

/-- Refutes O8: the home of line 0 answers a load under another address only when core 1 has acknowledged its invalidation. -/
theorem not_loads : ¬ Obligations.Loads := by
  unfold Obligations.Loads
  rintro ⟨-, -, hhome, -⟩
  obtain ⟨t, hdel, hagenda, -⟩ := hhome sharerLeaving aliasRead sharerLeaving_canonical rfl rfl rfl (by decide) rfl (by decide)
    sharerLeaving_plain ⟨fun _ h => (List.not_mem_nil h).elim, fun _ h => (List.not_mem_nil h).elim⟩ (by decide)
  obtain ⟨u, hdel', hnone⟩ := aliasRead_waits
  have htu : t = u := Host.Outcome.next.inj (hdel.symm.trans hdel')
  rw [← htu, hagenda] at hnone
  cases hnone

end Sys2Proof.Proofs.AliasedLoad
end

section
/-!
PROOF. O14 (R209, R210) fails: a thread is registered at a word under the word's address, and an ldsync of four bytes may name the
word's upper half. The statement gives the registration the address of the access.
-/
namespace Sys2Proof.Proofs.HalfWordWait
open Sys2Proof.Machine Sys2Proof.Safety

set_option Elab.async false

/-- The upper half of the first word of the local scratchpad. -/
def halfWord : Elem := ⟨0, 0x00FD000000000004, 4, spadBase + 4⟩

/-- A thread whose register 1 holds that address. -/
def syncer : Thread :=
  { tid := 1, ctx := 1, pc := 0x1000, regs := (Vector.replicate 28 {}).setIfInBounds 1 { st := .full, val := halfWord.va } }

/-- The machine where the thread issues, with that word empty. -/
def emptyWord : State :=
  { State.reset with
    slots := [(0, { occ := .thread syncer })]
    words := [(spadBase / 8, { fe := false })] }

/-- The ldsync of four bytes into register 2. -/
def halfSync : Instr := .ldsync 2 1 2 0 0 0

theorem emptyWord_canonical : Canonical emptyWord := by
  unfold Canonical MemOk; decide

theorem syncer_executing : Executing emptyWord syncer := ⟨rfl, rfl, by decide⟩

theorem halfWord_local : AtLocalWord emptyWord .rmw false (effAddr (val syncer 1) 0 (2 ^ (2 : BitVec 2).toNat))
    (2 ^ (2 : BitVec 2).toNat) halfWord :=
  ⟨by decide, ⟨by decide, by decide⟩, fun h => absurd h (by decide)⟩

theorem syncer_unregistered : Unregistered emptyWord (emptyWord.cur / 64) syncer := by
  intro x hx _
  rw [List.mem_singleton.1 hx]
  exact ⟨fun _ h => (List.not_mem_nil h).elim, nofun, fun _ h => (List.not_mem_nil h).elim⟩

/-- The thread waits under the address of the whole word. -/
theorem halfSync_registers :
    ∃ t, exec halfSync emptyWord = .next t ∧
      (wordAt t (halfWord.pa / 8)).queue.map (fun q => q.va) = [0x00FD000000000000] := ⟨_, rfl, by decide⟩

/-- Refutes O14: the address of the registration is not that of the access. -/
theorem not_fullEmptyWords : ¬ Obligations.FullEmptyWords := by
  unfold Obligations.FullEmptyWords
  rintro ⟨hldsync, -⟩
  obtain ⟨-, hwaits⟩ := hldsync 2 1 2 0 0 0 emptyWord syncer halfWord _ emptyWord_canonical syncer_executing rfl
    (by unfold ReadyNow; decide) (by unfold Writable; decide) (by decide) halfWord_local rfl
  obtain ⟨t, q, hexec, -, -, -, hva, hword, -⟩ := hwaits (fun h => absurd h.1 (by decide)) (by decide) (Or.inl (by decide))
    (by decide) syncer_unregistered
  obtain ⟨u, hexec', hqueue⟩ := halfSync_registers
  have htu : t = u := Host.Outcome.next.inj (hexec.symm.trans hexec')
  rw [← htu, hword] at hqueue
  have hq : q.va = 0x00FD000000000000 := (List.cons.inj hqueue).1
  rw [hva] at hq
  exact absurd hq (by decide)

end Sys2Proof.Proofs.HalfWordWait
end

section
/-!
SUPPORT. Steps that no byte of memory shows: what a byte reads as, the debug block's included (R470), depends on few parts of the
state, and a step that leaves these and the canonical form alone leaves every byte alone.
-/
namespace Sys2Proof.Proofs.ByteFrame
open Sys2Proof.Machine Sys2Proof.Safety
open Sys2Proof.Proofs.Units (coreShown)
set_option Elab.async false

/-- The parts of the state outside slots, cores and contexts that the bytes of memory are made of. -/
def byteParts (s : State) := (s.mem, s.dram, s.slices, s.fresh, s.cycle, s.ras, s.cells)

/-- The parts of a slot that the debug block shows (R470, R478). -/
def slotShown (x : Slot) := (x.loss, x.vacLag)

/-- From s to t nothing that a byte of memory shows has changed. -/
structure Unseen (s t : State) : Prop where
  parts : byteParts t = byteParts s
  slots : ∀ p, slotShown (slotAt t p) = slotShown (slotAt s p)
  cores : ∀ c, coreShown (coreAt t c) = coreShown (coreAt s c)
  traces : ∀ n, (ctxAt t n).trace = (ctxAt s n).trace
  canonical : Canonical s → Canonical t

variable {s t u : State}

theorem Unseen.refl (s : State) : Unseen s s := ⟨rfl, fun _ => rfl, fun _ => rfl, fun _ => rfl, id⟩

theorem Unseen.trans (h : Unseen s t) (k : Unseen t u) : Unseen s u :=
  ⟨k.parts.trans h.parts, fun p => (k.slots p).trans (h.slots p), fun c => (k.cores c).trans (h.cores c),
    fun n => (k.traces n).trans (h.traces n), k.canonical ∘ h.canonical⟩

theorem Unseen.ite {p : Prop} [Decidable p] (h : Unseen s t) (k : Unseen s u) : Unseen s (if p then t else u) := by
  split
  · exact h
  · exact k

theorem Unseen.foldl {α : Type} {f : State → α → State} (h : ∀ s x, Canonical s → Unseen s (f s x)) (l : List α)
    (hs : Canonical s) : Unseen s (l.foldl f s) := by
  induction l generalizing s with
  | nil => exact .refl s
  | cons x l ih => exact (h s x hs).trans (ih ((h s x hs).canonical hs))

theorem Unseen.bytes (h : Unseen s t) (a : Nat) : rdByte t a = rdByte s a := by
  have hparts := h.parts
  simp only [byteParts, Prod.mk.injEq] at hparts
  obtain ⟨hmem, hdram, hslices, hfresh, hcycle, hras, hcells⟩ := hparts
  have hslot := h.slots
  simp only [slotShown, Prod.mk.injEq] at hslot
  have hcore := h.cores
  simp only [coreShown, Prod.mk.injEq] at hcore
  refine rdByte_congr hmem hdram hslices hfresh (fun o => ?_) a
  unfold debugRead lossCount histCount
  simp only [hcycle, hras, hslot, h.traces, hcore, cellAt, sliceAt, hcells, hslices]

theorem unseen_setThread (s : State) (p : Nat) (th : Thread) : Unseen s (setThread s p th) := by
  refine ⟨rfl, fun q => ?_, fun _ => rfl, fun _ => rfl, fun hs => canonical_setThread hs p th⟩
  rw [slotAt_setThread]
  split
  · subst_vars; rfl
  · rfl

theorem unseen_setCore (hs : Canonical s) (c : Nat) {x : Core} (h : coreShown x = coreShown (coreAt s c)) :
    Unseen s (setCore s c x) := by
  refine ⟨rfl, fun _ => rfl, fun e => ?_, fun _ => rfl, fun _ => canonical_setCore hs c x⟩
  rw [coreAt_setCore hs]
  split
  · subst_vars; exact h
  · rfl

/-- Pending messages, the executing slot and what the host sees are no part of a byte. -/
theorem unseen_agenda (s : State) (l : List Flight) : Unseen s { s with agenda := l } :=
  ⟨rfl, fun _ => rfl, fun _ => rfl, fun _ => rfl, id⟩

theorem unseen_cur (s : State) (p : Nat) : Unseen s { s with cur := p } := ⟨rfl, fun _ => rfl, fun _ => rfl, fun _ => rfl, id⟩

end Sys2Proof.Proofs.ByteFrame
end

section
/-!
PROOF. Fences and markers (O12): a fence that has nothing to wait for, the invalidation of a line at a core, from the device
and from a peer, its acknowledgement at the home, and the marker of a fence there and back.
-/
namespace Sys2Proof.Proofs.Fences
open Sys2Proof.Machine Sys2Proof.Safety Sys2Proof.Proofs.ByteFrame
open Sys2Proof.Proofs.Faults (taken_now)
open Sys2Proof.Proofs.Arrays (Sends sends_sendWake)
set_option Elab.async false

section Fence

variable {s : State} {th : Thread}

/-- The registers that a fence over loads waits for: none where each pending one belongs to a message read (R226). -/
theorem noLoad_pending (h : ∀ r, r < 28 → (regOf th r).st = .pending → mgetPending s s.cur th r = true) :
    th.regs.toList.zipIdx.any (fun x => x.1.st == .pending && !mgetPending s s.cur th x.2) = false := by
  rw [List.any_eq_false]
  rintro ⟨g, r⟩ hx
  have hg : th.regs.toList[r]? = some g := by simpa using List.mem_zipIdx_iff_getElem?.1 hx
  have hr : r < 28 := by
    have := (List.getElem?_eq_some_iff.1 hg).1
    simpa using this
  have hreg : regOf th r = g := by
    unfold regOf
    rw [← Vector.getElem?_toList, hg, Option.getD_some]
  intro hp
  rw [Bool.and_eq_true, beq_iff_eq, Bool.not_eq_true', ← hreg] at hp
  rw [h r hr hp.1] at hp
  exact Bool.noConfusion hp.2

/-- A fence with nothing to wait for completes; what its later accesses ask for is in the thread (R105). -/
theorem execFence_free {fk : BitVec 4} {sc : BitVec 3} {e : BitVec 1} (he : Executing s th)
    (hloads : fk.getLsbD 3 = true → ∀ r, r < 28 → (regOf th r).st = .pending → mgetPending s s.cur th r = true)
    (hstores : fk.getLsbD 2 = true → sqOf s (s.cur / 16) (named_ s th) = [] ∧ th.homes = [])
    (hengine : e = 1 → engineBusy s th = false) :
    execFence fk sc e s = .next (complete s
      (mapMe (fun t => if fk.getLsbD 1 then { t with floor := s.time8, noMerge := true } else t) s)) := by
  have hops : operands [] .none s = .ok [] := operands_none he.1 (by simp)
  have hwait : ¬ ((fk.getLsbD 3 ∧ th.regs.toList.zipIdx.any (fun x => x.1.st == .pending && !mgetPending s s.cur th x.2)) ∨
      (e = 1 ∧ engineBusy s th)) := by
    rintro (⟨h3, hp⟩ | ⟨he1, hb⟩)
    · rw [noLoad_pending (hloads h3)] at hp
      exact Bool.noConfusion hp
    · rw [hengine he1] at hb
      exact Bool.noConfusion hb
  have hrel : ¬ (fk.getLsbD 2 ∧ !releasedAt s s.cur th) := by
    rintro ⟨h2, hr⟩
    obtain ⟨hsq, hhomes⟩ := hstores h2
    have : releasedAt s s.cur th = true := by
      unfold releasedAt
      rw [Bool.and_eq_true, beq_iff_eq, beq_iff_eq]
      exact ⟨hsq, hhomes⟩
    rw [this] at hr
    exact Bool.noConfusion hr
  unfold execFence
  rw [withOps_ok hops]
  simp only [me_of he.1]
  rw [if_neg hwait, if_neg (by simpa using hrel)]

theorem fence_completes {fk : BitVec 4} {sc : BitVec 3} {e : BitVec 1} (he : Executing s th)
    (hloads : fk.getLsbD 3 = true → ∀ r, r < 28 → (regOf th r).st = .pending → mgetPending s s.cur th r = true)
    (hstores : fk.getLsbD 2 = true → sqOf s (s.cur / 16) (named_ s th) = [] ∧ th.homes = [])
    (hengine : e = 1 → engineBusy s th = false) :
    ∃ t, exec (.fence fk sc e) s = .next t ∧ Quiet s t ∧
      Becomes s t (passed s (if fk.getLsbD 1 = true then { th with floor := s.time8, noMerge := true } else th)) := by
  refine ⟨_, execFence_free he hloads hstores hengine, ?_⟩
  refine complete_of he (quiet_mapMe _ _) (threadAt_mapMe he.1 _) ?_
  split
  · exact he.2.1
  · exact he.2.1

end Fence

/-! ### Invalidations (R95, R101, R466) -/

section Invalidation

variable {s : State} {core line : Nat}

/-- A core without the shared copy of a line, its fills of it marked (R95). -/
def unshared (line : Nat) (c : Core) : Core :=
  { c with l1 := c.l1.filter (fun x => match x with | (_, .shared pa _) => pa != line * 32 | _ => true),
           fills := c.fills.map (fun f => if f.pa = line * 32 then { f with marked := true } else f) }

theorem coreAt_dropShared (hc : Canonical s) (core e line : Nat) :
    coreAt (dropShared core line s) e = if core = e then unshared line (coreAt s e) else coreAt s e := by
  refine (coreAt_setCore hc core e (unshared line (coreAt s core))).trans ?_
  split
  · subst_vars; rfl
  · rfl

theorem unseen_dropShared (hc : Canonical s) (core line : Nat) : Unseen s (dropShared core line s) := unseen_setCore hc core rfl

theorem unshared_absent (c : Core) (k : Nat) (data : List Byte) : (k, .shared (line * 32) data) ∉ (unshared line c).l1 := by
  intro h
  have := (List.mem_filter.1 h).2
  simp at this

theorem unshared_keeps {c : Core} {x : Nat × L1Line} (hx : x ∈ c.l1) (h : ∀ data, x.2 ≠ .shared (line * 32) data) :
    x ∈ (unshared line c).l1 := by
  refine List.mem_filter.2 ⟨hx, ?_⟩
  obtain ⟨k, y⟩ := x
  cases y with
  | shared pa data =>
    have hne : pa ≠ line * 32 := fun e => h data (by rw [e])
    simpa using hne
  | update => rfl

theorem unshared_marks {c : Core} {f : FillReq} (hf : f ∈ (unshared line c).fills) (hpa : f.pa = line * 32) : f.marked = true := by
  obtain ⟨g, -, rfl⟩ := List.mem_map.1 hf
  split at hpa
  · rw [if_pos ‹_›]
  · exact absurd hpa ‹_›

theorem delivers_invalidation (hn : s.now = none) (hf : routeFenced s (homeUnit (homePlace (line * 32))) core = false) :
    Delivers s (.invalidation core line)
      (postOrd core (homeUnit (homePlace (line * 32))) (.invalidationAck core line) (dropShared core line s)) := by
  unfold Delivers
  change execInvalidation { s with now := some (.invalidation core line) } = _
  simp only [execInvalidation, taken_now hn, hf, Bool.false_eq_true, if_false]

theorem invalidation_drops (hc : Canonical s) (hn : s.now = none)
    (hf : routeFenced s (homeUnit (homePlace (line * 32))) core = false) :
    ∃ t, Delivers s (.invalidation core line) t ∧
      (∀ k data, (k, .shared (line * 32) data) ∉ (coreAt t core).l1) ∧
      (∀ x ∈ (coreAt s core).l1, (∀ data, x.2 ≠ .shared (line * 32) data) → x ∈ (coreAt t core).l1) ∧
      (∀ f ∈ (coreAt t core).fills, f.pa = line * 32 → f.marked = true) ∧
      t.agenda = s.agenda ++ [⟨.invalidationAck core line, some (core, homeUnit (homePlace (line * 32)))⟩] ∧
      t.slots = s.slots ∧ ∀ x, rdByte t x = rdByte s x := by
  refine ⟨_, delivers_invalidation hn hf, ?_⟩
  have hcore : ∀ h l, coreAt (postOrd core h (.invalidationAck core line) (dropShared core l s)) core = unshared l (coreAt s core) :=
    fun h l => (coreAt_dropShared hc core core l).trans (if_pos rfl)
  rw [hcore]
  exact ⟨unshared_absent _, fun x => unshared_keeps, fun f => unshared_marks, rfl, rfl,
    ((unseen_dropShared hc core line).trans (unseen_agenda _ _)).bytes⟩

/-- A core that holds no shared copy of a line holds none after any core has dropped its own. -/
theorem dropShared_absent (hc : Canonical s) {e : Nat} (h : core = e ∨ ∀ k data, (k, .shared (line * 32) data) ∉ (coreAt s e).l1)
    (k : Nat) (data : List Byte) : (k, .shared (line * 32) data) ∉ (coreAt (dropShared core line s) e).l1 := by
  rw [coreAt_dropShared hc]
  split
  · exact unshared_absent _ k data
  · exact h.resolve_left ‹_› k data

/-- An entry of a table is one it lists, or the default. -/
theorem get_of_entries {α : Type} {d : α} {t : Tab α} {k : Nat} {P : α → Prop} (hd : P d) (h : ∀ x ∈ t, x.1 = k → P x.2) :
    P (Tab.get d t k) := by
  induction t with
  | nil => exact hd
  | cons x t ih =>
    unfold Tab.get
    split
    · exact h x (List.mem_cons_self ..) ‹_›
    split
    · exact hd
    · exact ih fun y hy => h y (List.mem_cons_of_mem _ hy)

/-- Every core of a list drops its copy. -/
theorem foldl_dropShared_absent (l : List (Nat × Core)) (hc : Canonical s) {e : Nat}
    (h : (∃ x ∈ l, x.1 = e) ∨ ∀ k data, (k, .shared (line * 32) data) ∉ (coreAt s e).l1) :
    ∀ k data, (k, .shared (line * 32) data) ∉ (coreAt (l.foldl (fun s c => dropShared c.1 line s) s) e).l1 := by
  induction l generalizing s with
  | nil => exact h.resolve_left (by simp)
  | cons x l ih =>
    refine ih ((unseen_dropShared hc x.1 line).canonical hc) ?_
    rcases h with ⟨y, hy, rfl⟩ | h
    · rcases List.mem_cons.1 hy with rfl | hy
      · exact .inr (dropShared_absent hc (.inl rfl))
      · exact .inl ⟨y, hy, rfl⟩
    · exact .inr (dropShared_absent hc (.inr h))

theorem foldl_dropShared_slots (l : List (Nat × Core)) (s : State) :
    (l.foldl (fun s c => dropShared c.1 line s) s).slots = s.slots ∧ (l.foldl (fun s c => dropShared c.1 line s) s).out = s.out := by
  induction l generalizing s with
  | nil => exact ⟨rfl, rfl⟩
  | cons x l ih => exact ih _

/-- Every core's shared copy of a line is gone (R466). -/
def allUnshared (line : Nat) (s : State) : State := s.cores.foldl (fun s c => dropShared c.1 line s) s

theorem allUnshared_absent (hc : Canonical s) (core k : Nat) (data : List Byte) :
    (k, .shared (line * 32) data) ∉ (coreAt (allUnshared line s) core).l1 := by
  refine foldl_dropShared_absent s.cores hc ?_ k data
  by_cases hx : ∃ x ∈ s.cores, x.1 = core
  · exact .inl hx
  · exact .inr (get_of_entries (P := fun c => ∀ k data, (k, L1Line.shared (line * 32) data) ∉ c.l1)
      (fun _ _ => List.not_mem_nil) (fun x hm hk => absurd ⟨x, hm, hk⟩ hx))

theorem unseen_allUnshared (hc : Canonical s) : Unseen s (allUnshared line s) :=
  .foldl (fun _ x hs => unseen_dropShared hs x.1 line) s.cores hc

theorem delivers_peerInvalidation (hn : s.now = none) (dev pa : Nat) : Delivers s (.peerInvalidation dev pa)
    { allUnshared (peerPa dev pa / 32) s with out := (allUnshared (peerPa dev pa / 32) s).out ++ [.peerInvAck dev pa] } := by
  unfold Delivers
  change execInvalidation { s with now := some (.peerInvalidation dev pa) } = _
  unfold execInvalidation
  dsimp only
  rw [taken_now hn]
  rfl

theorem unseen_out (s : State) (l : List Out) : Unseen s { s with out := l } :=
  ⟨rfl, fun _ => rfl, fun _ => rfl, fun _ => rfl, id⟩

theorem peerInvalidation_drops (hc : Canonical s) (hn : s.now = none) (dev pa : Nat) :
    ∃ t, Delivers s (.peerInvalidation dev pa) t ∧
      (∀ core, core < 4096 → ∀ k data, (k, .shared (peerPa dev pa / 32 * 32) data) ∉ (coreAt t core).l1) ∧
      t.out = s.out ++ [.peerInvAck dev pa] ∧ t.slots = s.slots ∧ ∀ x, rdByte t x = rdByte s x := by
  obtain ⟨hslots, hout⟩ := foldl_dropShared_slots (line := peerPa dev pa / 32) s.cores s
  refine ⟨_, delivers_peerInvalidation hn dev pa, fun core _ => allUnshared_absent hc core, ?_, hslots,
    ((unseen_allUnshared hc).trans (unseen_out _ _)).bytes⟩
  rw [← hout]
  rfl

theorem dirAt_setDir (hc : Canonical s) (l m : Nat) (x : DirEntry) : dirAt (setDir s l x) m = if l = m then x else dirAt s m :=
  Tab.get_put l m x hc.2.2.2.1

/-- The acknowledgement of a copy that is the first on the line's list takes it off (R101). -/
theorem closeInv_first {i : InvOut} {rest : List InvOut} (hi : (dirAt s line).invs = i :: rest) (hcore : i.core = core) :
    closeInv core line s = setDir s line { dirAt s line with invs := rest } := by
  unfold closeInv
  simp only [hi]
  rw [List.find?_cons_of_pos (by simp [hcore])]
  simp only [List.erase_cons_head]

theorem invalidationAck_closes (hc : Canonical s) (hn : s.now = none) {i : InvOut} {rest : List InvOut}
    (hroute : isPeerUnit core = true ∨ routeFenced s core (homeUnit (homePlace (line * 32))) = false)
    (hi : (dirAt s line).invs = i :: rest) (hcore : i.core = core) :
    ∃ t, Delivers s (.invalidationAck core line) t ∧ dirAt t line = { dirAt s line with invs := rest } ∧
      (∀ l, l ≠ line → dirAt t l = dirAt s l) ∧ { t with dir := s.dir } = s := by
  refine ⟨setDir s line { dirAt s line with invs := rest }, ?_, ?_, fun l hl => ?_, rfl⟩
  · unfold Delivers
    change execInvalidationAck { s with now := some (.invalidationAck core line) } = _
    simp only [execInvalidationAck, taken_now hn]
    rw [if_neg, closeInv_first hi hcore]
    rintro ⟨hp, hf⟩
    rcases hroute with h | h
    · rw [h] at hp; exact Bool.noConfusion hp
    · rw [h] at hf; exact Bool.noConfusion hf
  · rw [dirAt_setDir hc, if_pos rfl]
  · rw [dirAt_setDir hc, if_neg (Ne.symm hl)]

end Invalidation

/-! ### Fence markers (R101) -/

section Markers

variable {s : State} {th : Thr} {home : Nat} {sc : BitVec 3}

/-- An invalidation of a write of a thread, inside a scope of its core, is outstanding. -/
def invOpen (s : State) (th : Thr) (sc : BitVec 3) : Bool :=
  s.dir.any (fun d => d.2.invs.any (fun i =>
    (match i.writer with
     | some w => w.tid == th.tid && w.ctx == th.ctx
     | none => false) && inScope sc (th.slot / 16) i.core))

theorem delivers_fenceMarker (hn : s.now = none) (hf : routeFenced s (th.slot / 16) (homeUnit home) = false) :
    Delivers s (.fenceMarker th home sc) (if invOpen s th sc then holdBack (.fenceMarker th home sc) s
      else postOrd (homeUnit home) (th.slot / 16) (.fenceMarkerAnswer th home) s) := by
  unfold Delivers
  change execFenceMarker { s with now := some (.fenceMarker th home sc) } = _
  simp only [execFenceMarker, taken_now hn, hf, Bool.false_eq_true, if_false]
  rfl

theorem invOpen_of_none (h : ∀ x ∈ s.dir, ∀ i ∈ x.2.invs, ∀ w, i.writer = some w → ¬ (w.tid = th.tid ∧ w.ctx = th.ctx)) :
    invOpen s th sc = false := by
  unfold invOpen
  rw [List.any_eq_false]
  intro x hx
  rw [Bool.not_eq_true, List.any_eq_false]
  intro i hi
  cases hw : i.writer with
  | none => simp
  | some w =>
    have hne := h x hx i hi w hw
    simp only [Bool.and_eq_true, beq_iff_eq, not_and] at hne ⊢
    exact fun hthr => absurd hthr.2 (hne hthr.1)

/-- A scope of the device and one of the rack take in every core, and the rack's every peer (R104). -/
theorem inScope_wide {core other : Nat} (h : 4 ≤ sc.toNat ∨ (sc.toNat = 3 ∧ isPeerUnit other = false)) :
    inScope sc core other = true := by
  unfold inScope
  rcases h with h | ⟨h, hp⟩
  · split <;> first | omega | rfl
  · rw [h]; simp [hp]

theorem invOpen_of_mem {x : Nat × DirEntry} (hx : x ∈ s.dir) {i : InvOut} (hi : i ∈ x.2.invs) (hw : i.writer = some th)
    (hsc : 4 ≤ sc.toNat ∨ (sc.toNat = 3 ∧ isPeerUnit i.core = false)) : invOpen s th sc = true := by
  refine List.any_eq_true.2 ⟨x, hx, List.any_eq_true.2 ⟨i, hi, ?_⟩⟩
  simp [hw, inScope_wide hsc]

theorem sends_wakeLimit3 (th : Thr) (s : State) : Sends s (wakeLimit3 th s) := by
  unfold wakeLimit3 wakeParked
  split
  · refine .ite ?_ (.refl s)
    split
    · exact .ite (sends_sendWake ..) (.refl s)
    · exact .refl s
  · exact .refl s

end Markers

section MarkerAnswer

variable {s : State} {slot home : Nat} {th : Thread}

/-- A home's marker has come back: the home leaves the thread's lists (R101). -/
def answered (home : Nat) (th : Thread) : Thread := { th with homes := th.homes.erase home, markers := th.markers.erase home }

theorem holds_nameAt (h : threadAt s slot = some th) : holds s (nameAt slot th) = true := by
  unfold holds nameAt
  simp [h]

theorem withThr_nameAt (h : threadAt s slot = some th) (f : State → State) :
    withThr (nameAt slot th) s f = f { s with cur := slot } := if_pos (holds_nameAt h)

theorem slotOnly_cur (s : State) (slot : Nat) : SlotOnly s { s with cur := slot } slot :=
  ⟨fun _ _ => rfl, rfl, fun x => (unseen_cur s slot).bytes x⟩

theorem slotOnly_setThread {u : State} (h : SlotOnly s u slot) (t : Thread) : SlotOnly s (setThread u slot t) slot := by
  obtain ⟨hslots, hrest, hbytes⟩ := h
  refine ⟨fun q hq => ?_, hrest, fun x => ((unseen_setThread u slot t).bytes x).trans (hbytes x)⟩
  rw [slotAt_setThread, if_neg (Ne.symm hq), hslots q hq]

theorem slotOnly_sends {u t : State} (h : SlotOnly s u slot) (k : Sends u t) : SlotOnly s t slot := by
  obtain ⟨hslots, hrest, hbytes⟩ := h
  obtain ⟨l, rfl⟩ := k
  exact ⟨hslots, hrest, fun x => ((unseen_agenda u _).bytes x).trans (hbytes x)⟩

theorem threadAt_sends {u t : State} (k : Sends u t) (p : Nat) : threadAt t p = threadAt u p := by
  obtain ⟨l, rfl⟩ := k
  rfl

/-- The state in which the answer has taken the home off the lists of its thread, which then acts. -/
def afterAnswer (s : State) (slot home : Nat) (th : Thread) : State := setThread { s with cur := slot } slot (answered home th)

theorem slotOnly_afterAnswer : SlotOnly s (afterAnswer s slot home th) slot := slotOnly_setThread (slotOnly_cur s slot) _

theorem threadAt_afterAnswer : threadAt (afterAnswer s slot home th) slot = some (answered home th) :=
  threadAt_setThread_self { s with cur := slot } slot _

/-- A thread that a store with order 3 held goes on when the answer is that of the store's home (R104). -/
theorem delivers_fenceMarkerAnswer (h : HeldIn s slot th) : Delivers s (.fenceMarkerAnswer (nameAt slot th) home)
    (wakeLimit3 (nameAt slot th) (match th.form with
      | .inFlight (.storeDone _ k) => if k = home then advance (afterAnswer s slot home th) else afterAnswer s slot home th
      | _ => afterAnswer s slot home th)) := by
  have hcur : threadAt { s with cur := slot } slot = some th := h.2
  unfold Delivers
  change execFenceMarkerAnswer { s with now := some (.fenceMarkerAnswer (nameAt slot th) home) } = _
  simp only [execFenceMarkerAnswer, taken_now h.1]
  rw [withThr_nameAt h.2]
  simp only [me_of (s := { s with cur := slot }) hcur, mapMe_of (s := { s with cur := slot }) hcur]
  rfl

theorem fenceMarkerAnswer_waits (h : HeldIn s slot th) (hf : th.form = .ready ∨ th.form = .inFlight .retry) :
    ∃ t, Delivers s (.fenceMarkerAnswer (nameAt slot th) home) t ∧ threadAt t slot = some (answered home th) ∧ SlotOnly s t slot := by
  have hdel := delivers_fenceMarkerAnswer (home := home) h
  have hwake := sends_wakeLimit3 (nameAt slot th) (afterAnswer s slot home th)
  refine ⟨wakeLimit3 (nameAt slot th) (afterAnswer s slot home th), ?_, (threadAt_sends hwake slot).trans threadAt_afterAnswer,
    slotOnly_sends slotOnly_afterAnswer hwake⟩
  rcases hf with hf | hf
  · rwa [hf] at hdel
  · rwa [hf] at hdel

/-- A waiting thread's instruction ends. -/
theorem advance_of {u : State} {tu : Thread} (hu : threadAt u u.cur = some tu) {w : WaitFor} (hf : tu.form = .inFlight w) :
    advance u = setThread u u.cur (passed u tu) := by
  unfold advance
  rw [mapMe_of hu]
  simp only [hf]
  rfl

theorem fenceMarkerAnswer_advances (h : HeldIn s slot th) {id : Nat} (hf : th.form = .inFlight (.storeDone id home)) :
    ∃ t, Delivers s (.fenceMarkerAnswer (nameAt slot th) home) t ∧ threadAt t slot = some (passed s (answered home th)) ∧
      SlotOnly s t slot := by
  have hdel := delivers_fenceMarkerAnswer (home := home) h
  rw [hf] at hdel
  simp only [if_true] at hdel
  rw [advance_of threadAt_afterAnswer (w := .storeDone id home) hf] at hdel
  have hwake := sends_wakeLimit3 (nameAt slot th) (setThread (afterAnswer s slot home th) slot (passed s (answered home th)))
  exact ⟨_, hdel, (threadAt_sends hwake slot).trans (threadAt_setThread_self ..),
    slotOnly_sends (slotOnly_setThread slotOnly_afterAnswer _) hwake⟩

end MarkerAnswer

/-- Settles O12, each event by what its delivery makes of the state. -/
theorem fencesAndMarkers : Obligations.FencesAndMarkers := by
  unfold Obligations.FencesAndMarkers
  refine ⟨fun fk sc e s th => fence_completes, fun s core line => invalidation_drops, fun s dev pa hc hn =>
    peerInvalidation_drops hc hn dev pa, fun s core line i rest hc hn => invalidationAck_closes hc hn,
    fun s th home sc hn hf => ⟨fun hnone => ?_, fun x hx i hi hw hsc => ?_⟩,
    fun s slot th home _ h => ⟨fenceMarkerAnswer_waits h, fun id => fenceMarkerAnswer_advances h⟩⟩
  · have := delivers_fenceMarker (sc := sc) hn hf
    rwa [invOpen_of_none hnone] at this
  · have := delivers_fenceMarker (sc := sc) hn hf
    rwa [invOpen_of_mem hx hi hw hsc] at this

end Sys2Proof.Proofs.Fences
end

section
/-!
SUPPORT. Canonical form under the operations of the model (O60): the tables one at a time, and the ways in which an operation
is made of others. The blocks that follow go through the operations in the order of the model's files.
-/
namespace Sys2Proof.Proofs.Canonical
open Sys2Proof.Machine Sys2Proof.Safety
set_option Elab.async false

variable {s t : State}

/-! ### One table -/

/-- The tables of one storage queue engine are in canonical form. -/
def SqeOk (x : Sqe) : Prop := Tab.wf none x.ops = true ∧ Tab.wf 0 x.gens = true

theorem sqeOk_sqeAt (h : Canonical s) (n : Nat) : SqeOk (sqeAt s n) := by
  have hq := h.2.2.2.2.2.2.2.2.2.2.2.2.2
  simp only [queuesOk, Bool.and_eq_true, List.all_eq_true] at hq
  exact Fences.get_of_entries (P := SqeOk) ⟨rfl, rfl⟩ fun x hx _ => hq.2 x hx

theorem canonical_setSqe {n : Nat} {x : Sqe} (h : Canonical s) (hx : SqeOk x) : Canonical (setSqe s n x) := by
  obtain ⟨h1, h2, h3, h4, h5, h6, h7, h8, h9, h10, h11, h12, h13, h14⟩ := h
  refine ⟨h1, h2, h3, h4, h5, h6, h7, h8, h9, Tab.wf_put _ _ h10, h11, h12, h13, ?_⟩
  simp only [queuesOk, Bool.and_eq_true, List.all_eq_true] at h14 ⊢
  refine ⟨h14.1, fun y hy => ?_⟩
  rcases Tab.mem_put hy with h | h
  · subst h; exact hx
  · exact h14.2 y h

theorem canonical_ctx {n : Nat} {x : Ctx} (h : Canonical s) (hx : CtxOk x) : Canonical (setCtx s n x) := canonical_setCtx h n hx

theorem opsOk (h : Canonical s) {n : Nat} : Tab.wf none (sqeAt s n).ops = true := (sqeOk_sqeAt h n).1

theorem gensOk (h : Canonical s) {n : Nat} : Tab.wf 0 (sqeAt s n).gens = true := (sqeOk_sqeAt h n).2

theorem canonical_putSqe {n : Nat} {ops : Tab (Option SqeOp)} {gens : Tab Nat} {offers waiting leaves parts4k pairs backlog}
    (h : Canonical s) (hops : Tab.wf none ops = true) (hgens : Tab.wf 0 gens = true) :
    Canonical (setSqe s n { ops, gens, offers, waiting, leaves, parts4k, pairs, backlog }) := canonical_setSqe h ⟨hops, hgens⟩

/-- A context is written with the queues it had. -/
theorem canonical_keepCtx {n m : Nat} {x : Ctx} (h : Canonical s) (k : Canonical t) (hpool : x.pool = (ctxAt t m).pool)
    (htaskq : x.taskq = (ctxAt t m).taskq) (hqueues : x.trace.queues = (ctxAt t m).trace.queues) : Canonical (setCtx s n x) := by
  obtain ⟨h1, h2, h3⟩ := ctxOk_ctxAt k m
  refine canonical_setCtx h n ⟨?_, ?_, ?_⟩
  · rw [hpool]; exact h1
  · rw [htaskq]; exact h2
  · rw [hqueues]; exact h3

theorem canonical_setSlot {p : Nat} {x : Slot} (h : Canonical s) : Canonical (setSlot s p x) := by
  obtain ⟨h1, h2, h3, h4, h5, h6⟩ := h
  exact ⟨h1, h2, h3, h4, Tab.wf_put _ _ h5, h6⟩

theorem canonical_slices (h : Canonical s) {x : Tab Slice} (hx : Tab.wf {} x = true) : Canonical { s with slices := x } := by
  obtain ⟨h1, h2, h3, h4, h5, h6, h7, h8, h9⟩ := h
  exact ⟨h1, h2, h3, h4, h5, h6, h7, hx, h9⟩

theorem canonical_setSlice {n : Nat} {x : Slice} (h : Canonical s) : Canonical (setSlice s n x) :=
  canonical_slices h (Tab.wf_put _ _ h.2.2.2.2.2.2.2.1)

theorem canonical_cell {n : Nat} {x : Cell} (h : Canonical s) : Canonical (setCell s n x) := Queues.canonical_setCell h n x

theorem canonical_core {n : Nat} {x : Core} (h : Canonical s) : Canonical (setCore s n x) := canonical_setCore h n x

theorem canonical_thread {p : Nat} {th : Thread} (h : Canonical s) : Canonical (setThread s p th) := canonical_setThread h p th

theorem canonical_me {f : Thread → Thread} (h : Canonical s) : Canonical (mapMe f s) := canonical_mapMe h f

theorem canonical_charged {n pj : Nat} (h : Canonical s) : Canonical (charge n pj s) := canonical_charge h n pj

theorem canonical_setLink {n : Nat} {x : Link} (h : Canonical s) : Canonical (setLink s n x) := by
  obtain ⟨h1, h2, h3, h4, h5, h6, h7, h8, h9, h10, h11, h12⟩ := h
  exact ⟨h1, h2, h3, h4, h5, h6, h7, h8, h9, h10, Tab.wf_put _ _ h11, h12⟩

theorem canonical_setDir {l : Nat} {x : DirEntry} (h : Canonical s) : Canonical (setDir s l x) := by
  obtain ⟨h1, h2, h3, h4, h5⟩ := h
  exact ⟨h1, h2, h3, Tab.wf_put _ _ h4, h5⟩

theorem canonical_words (h : Canonical s) {x : Tab WordMeta} (hx : Tab.wf {} x = true) : Canonical { s with words := x } := by
  obtain ⟨h1, h2, h3, h4⟩ := h
  exact ⟨h1, h2, hx, h4⟩

theorem canonical_setWord {w : Nat} {x : WordMeta} (h : Canonical s) : Canonical (setWord s w x) :=
  canonical_words h (Tab.wf_put _ _ h.2.2.1)

theorem canonical_mem (h : Canonical s) {m : Memory} (hm : m.wf = true) : Canonical { s with mem := m } := ⟨hm, h.2⟩

theorem canonical_putCells {cs : List (Nat × Byte)} (h : Canonical s) : Canonical { s with mem := putCells s.mem cs } :=
  canonical_mem h (putCells_wf cs h.1)

theorem canonical_dram (h : Canonical s) {x : Tab DramLine} (hx : Tab.wf {} x = true) : Canonical { s with dram := x } :=
  ⟨h.1, hx, h.2.2⟩

/-- DRAM's copy of a line is an entry of its own: it has 32 bytes. -/
theorem canonical_dramIns {l : Nat} {x : DramLine} (h : Canonical s) (hx : x ≠ {}) : Canonical { s with dram := s.dram.ins l x } :=
  canonical_dram h (Tab.wf_ins l h.2.1 hx)

theorem canonical_dramDel {l : Nat} (h : Canonical s) : Canonical { s with dram := s.dram.del l } :=
  canonical_dram h (Tab.wf_del l h.2.1)

theorem canonical_cores (h : Canonical s) {x : Tab Core} (hx : Tab.wf {} x = true) : Canonical { s with cores := x } := by
  obtain ⟨h1, h2, h3, h4, h5, h6, h7⟩ := h
  exact ⟨h1, h2, h3, h4, h5, hx, h7⟩

theorem canonical_inbound {k x : Nat} (h : Canonical s) : Canonical { s with inbound := s.inbound.put 0 k x } := by
  obtain ⟨h1, h2, h3, h4, h5, h6, h7, h8, h9, h10, h11, h12, h13⟩ := h
  exact ⟨h1, h2, h3, h4, h5, h6, h7, h8, h9, h10, h11, Tab.wf_put _ _ h12, h13⟩

theorem canonical_flits (h : Canonical s) {x : Tab Nat} (hx : Tab.wf 0 x = true) : Canonical { s with flits := x } := by
  obtain ⟨h1, h2, h3, h4, h5, h6, h7, h8, h9, h10, h11, h12, h13, h14⟩ := h
  exact ⟨h1, h2, h3, h4, h5, h6, h7, h8, h9, h10, h11, h12, hx, h14⟩

/-- The fields of the state that are no tables may be anything. -/
theorem canonical_rest (h : Canonical s) {time8 cycle fresh cur lanelim : Nat} {agenda held : List Flight}
    {timers : List (Nat × Event)} {sched : List Pick} {now : Option Event} {nowChan : Option (Nat × Nat)}
    {poison fencedUnits : List Nat} {host : HostRegs} {ras : Ras} {tvecm : Word} {out : List Out} {bootlog : List (List Byte)}
    {booted : Bool} {fwobj : Option CodeObj} :
    Canonical { s with time8 := time8, cycle := cycle, agenda := agenda, timers := timers, held := held, sched := sched,
                       fresh := fresh, now := now, cur := cur, nowChan := nowChan, poison := poison, host := host, ras := ras,
                       lanelim := lanelim, tvecm := tvecm, out := out, bootlog := bootlog, booted := booted, fwobj := fwobj,
                       fencedUnits := fencedUnits } := h

/-! ### Operations made of others -/

theorem canonical_ite {p : Prop} [Decidable p] (h : Canonical s) (k : Canonical t) : Canonical (if p then s else t) := by
  split
  · exact h
  · exact k

/-- An operation that a condition lets happen, or keeps from happening. -/
theorem canonical_when {p : Prop} [Decidable p] (h : Canonical s) (k : Canonical s → Canonical t) :
    Canonical (if p then t else s) := canonical_ite (k h) h

theorem canonical_unless {p : Prop} [Decidable p] (h : Canonical s) (k : Canonical s → Canonical t) :
    Canonical (if p then s else t) := canonical_ite h (k h)

theorem canonical_elim {α : Type} {o : Option α} {f : α → State} (h : Canonical s) (k : ∀ x, Canonical (f x)) :
    Canonical (o.elim s f) := by
  cases o with
  | none => exact h
  | some x => exact k x

theorem canonical_foldl {α : Type} {f : State → α → State} {l : List α} (h : Canonical s)
    (k : ∀ u x, Canonical u → Canonical (f u x)) : Canonical (l.foldl f s) := by
  induction l generalizing s with
  | nil => exact h
  | cons x l ih => exact ih (k s x h)

/-- A state that a step of a fold carries along with what it finds. -/
theorem canonical_foldl_snd {α β : Type} {f : β × State → α → β × State} {l : List α} {r : β × State} (h : Canonical r.2)
    (k : ∀ u x, Canonical u.2 → Canonical (f u x).2) : Canonical (l.foldl f r).2 := by
  induction l generalizing r with
  | nil => exact h
  | cons x l ih => exact ih (k r x h)

theorem canonical_ite_snd {α : Type} {p : Prop} [Decidable p] {q r : α × State} (h : Canonical q.2) (k : Canonical r.2) :
    Canonical (if p then q else r).2 := by
  split
  · exact h
  · exact k

theorem canonical_snd {α : Type} {r : α × State} {x : α} (e : r = (x, t)) (h : Canonical r.2) : Canonical t := by
  subst e
  exact h

/-- A property of what an operation answers, from both sides of a condition; and of what its answer is found to be. -/
theorem keeps_ite {α : Type} {P : α → Prop} {p : Prop} [Decidable p] {x y : α} (h : P x) (k : P y) : P (if p then x else y) := by
  split
  · exact h
  · exact k

theorem kept_eq {α : Type} {P : α → Prop} {x y : α} (h : P x) (e : x = y) : P y := e ▸ h

/-! ### Meanings -/

/-- What an instruction or event answers is canonical where it answers a state. -/
def Kept (r : Result) : Prop := ∀ t, r = .next t → Canonical t

theorem kept_next (h : Canonical t) : Kept (.next t) := fun _ e => Host.Outcome.next.inj e ▸ h

theorem kept_fault {f : Fault} : Kept (.fault f) := fun _ e => by injection e

theorem kept_refused {f : Refusal} : Kept (.refused f) := fun _ e => by injection e

theorem kept_ite {p : Prop} [Decidable p] {q r : Result} (h : Kept q) (k : Kept r) : Kept (if p then q else r) := by
  split
  · exact h
  · exact k

end Sys2Proof.Proofs.Canonical
end

section
/-!
SUPPORT. Canonical form (O60) under the operations of the state: lines and words, threads, queues, events: an operation keeps it that is made of operations that do.
-/
namespace Sys2Proof.Proofs.Canonical
open Sys2Proof.Machine Sys2Proof.Safety
set_option Elab.async false

variable {s : State}

theorem canonical_mapThread {p : Nat} {f : Thread → Thread} (hc : Canonical s) : Canonical (mapThread p f s) := by
  unfold mapThread
  split
  · exact canonical_thread hc
  · exact hc

theorem canonical_nextFresh (hc : Canonical s) : Canonical (nextFresh s) := canonical_rest hc

theorem canonical_post {ev : Event} (hc : Canonical s) : Canonical (post ev s) := canonical_rest hc

theorem canonical_postOrd {src dst : Nat} {ev : Event} (hc : Canonical s) : Canonical (postOrd src dst ev s) :=
  canonical_rest hc

theorem canonical_postAll {evs : List Event} (hc : Canonical s) : Canonical (postAll evs s) :=
  canonical_foldl hc (fun _ _ h1 => canonical_post h1)

theorem canonical_after {d : Nat} {ev : Event} (hc : Canonical s) : Canonical (after d ev s) := canonical_rest hc

theorem canonical_holdBack {ev : Event} (hc : Canonical s) : Canonical (holdBack ev s) := canonical_rest hc

theorem canonical_wakeHeld (hc : Canonical s) : Canonical (wakeHeld s) := canonical_rest hc

theorem canonical_holdIn {chan : Nat × Nat} {ev : Event} (hc : Canonical s) : Canonical (holdIn chan ev s) :=
  canonical_rest hc

theorem canonical_inOrder {chan : Nat × Nat} {ev : Event} {k : State → State} (hc : Canonical s)
    (hk : ∀ u, Canonical u → Canonical (k u)) : Canonical (inOrder chan ev s k) :=
  canonical_ite (canonical_holdIn hc) (canonical_ite (canonical_rest hc) (hk _ hc))

/-- A slice that has counted a row is no default entry. -/
theorem countRow_ne_nil (id : Word) (acts corrected : Nat) (rows spare : List RowCount) :
    (countRow id acts corrected rows spare).1 ≠ [] := by
  unfold countRow
  dsimp only
  split
  · rename_i hany
    cases rows with
    | nil => exact absurd hany (by simp)
    | cons => exact List.cons_ne_nil _ _
  split
  · exact List.append_ne_nil_of_right_ne_nil _ (List.cons_ne_nil _ _)
  · rename_i hlen
    have hrows : rows ≠ [] := by rintro rfl; simp at hlen
    split
    · split
      · simpa using hrows
      · exact hrows
    · exact hrows

theorem canonical_noteRow {line acts corrected : Nat} (hc : Canonical s) : Canonical (noteRow line acts corrected s) :=
  canonical_slices hc (Tab.wf_ins _ hc.2.2.2.2.2.2.2.1 fun h => countRow_ne_nil _ _ _ _ _ (congrArg Slice.rows h))

theorem canonical_openRow {line : Nat} (hc : Canonical s) : Canonical (openRow line s) := canonical_noteRow hc

theorem canonical_putBits {line : Nat} {fe : List Bool} (hc : Canonical s) : Canonical (putBits line fe s) :=
  canonical_foldl hc (fun _ _ h1 => canonical_ite h1 (canonical_setWord h1))

theorem canonical_putLine {line : Nat} {l : DramLine} (hc : Canonical s) : Canonical (putLine line l s) :=
  canonical_putBits (canonical_putCells hc)

theorem lineHere_ne (s : State) (line : Nat) : lineHere s line ≠ {} := fun h => by
  have := congrArg DramLine.data h
  exact List.cons_ne_nil _ _ this

theorem canonical_putDram {line : Nat} {l : DramLine} (hc : Canonical s) (hl : l ≠ {}) : Canonical (putDram line l s) :=
  canonical_ite (canonical_dramIns hc hl) (canonical_putLine hc)

theorem canonical_markLine {line : Nat} {modified : Bool} (hc : Canonical s) : Canonical (markLine line modified s) :=
  canonical_setSlice hc

theorem canonical_writeBack {line : Nat} (hc : Canonical s) : Canonical (writeBack line s) :=
  canonical_ite (canonical_putDram (canonical_openRow hc) (lineHere_ne _ _)) (canonical_openRow (canonical_dramDel hc))

theorem canonical_replaceLine {line : Nat} (hc : Canonical s) : Canonical (replaceLine line s) := by
  have hback := canonical_ite (p := (sliceAt s (homePlace (line * 32))).lines.get false line) (canonical_writeBack (line := line) hc)
    (canonical_ite (p := inAlt (line * 32) ∨ !(s.dram.any (fun e => e.1 == dramLine line))) hc
      (canonical_dramDel (l := dramLine line) (canonical_putLine (line := line) (l := lineInDram s line) hc)))
  exact canonical_setSlice (canonical_ite (canonical_putCells hback) hback)

theorem canonical_replaceNth {home k : Nat} (hc : Canonical s) : Canonical (replaceNth home k s) := by
  unfold replaceNth
  split
  · exact canonical_replaceLine hc
  · exact hc

theorem canonical_fillLine {line : Nat} (hc : Canonical s) : Canonical (fillLine line s) :=
  canonical_ite hc
    (canonical_openRow
       (canonical_setSlice
          (canonical_when (canonical_ite hc (canonical_replaceNth (canonical_nextFresh hc)))
             (fun h1 => canonical_putLine h1))))

theorem canonical_dirtyLine {line : Nat} (hc : Canonical s) : Canonical (dirtyLine s line) :=
  canonical_unless hc fun h1 => canonical_markLine
    (canonical_unless (canonical_fillLine h1) fun h2 => canonical_dramIns h2 (lineHere_ne _ _))

theorem canonical_rawWrite {cs : List (Nat × Byte)} (hc : Canonical s) : Canonical (rawWrite s cs) :=
  canonical_rest (canonical_putCells (canonical_foldl hc fun _ _ h => canonical_dirtyLine h))

theorem canonical_cleanLine {line : Nat} (hc : Canonical s) : Canonical (cleanLine s line) :=
  canonical_ite (canonical_markLine (canonical_writeBack hc)) hc

theorem canonical_sendWake {th : Thr} {m : Msg} (hc : Canonical s) : Canonical (sendWake th m s) := canonical_post hc

theorem canonical_advance (hc : Canonical s) : Canonical (advance s) := canonical_me hc

theorem canonical_raiseAt {p : Nat} {f : Trap} (hc : Canonical s) : Canonical (raiseAt p f s) :=
  canonical_post (canonical_mapThread hc)

theorem canonical_raiseWith {f : Trap} (hc : Canonical s) : Canonical (raiseWith f s) := canonical_raiseAt hc

theorem canonical_raise {c : Cause} {info addr : Word} (hc : Canonical s) : Canonical (raise c info addr s) :=
  canonical_raiseWith hc

theorem canonical_raiseHeld {r : Nat} {f : HeldFault} (hc : Canonical s) : Canonical (raiseHeld r f s) :=
  canonical_raiseWith (canonical_me hc)

theorem canonical_complete {s s' : State} (hc : Canonical s) (hs' : Canonical s') : Canonical (complete s s') := by
  unfold complete
  split
  · exact canonical_raiseWith hc
  · exact canonical_ite (canonical_raise hc) (canonical_advance hs')

theorem canonical_jumpTo {target : Nat} (hc : Canonical s) : Canonical (jumpTo target s) := canonical_me hc

theorem canonical_endPark {p : Nat} {k : Park} {m : Msg} (hc : Canonical s) : Canonical (endPark p k m s) := by
  unfold endPark
  split
  · exact hc
  · exact canonical_ite (canonical_thread hc) (canonical_ite (canonical_raiseAt hc) (canonical_thread hc))

theorem canonical_consumeLatch {p : Nat} {k : Park} (hc : Canonical s) : Canonical (consumeLatch p k s) := by
  unfold consumeLatch
  split
  · exact canonical_endPark (canonical_setSlot hc)
  · exact hc

theorem canonical_park {p : Park} (hc : Canonical s) : Canonical (park p s) :=
  canonical_unless (canonical_me hc) (fun h1 => canonical_consumeLatch h1)

theorem canonical_waitRetry (hc : Canonical s) : Canonical (waitRetry s) := canonical_me hc

theorem canonical_inFlight {w : WaitFor} (hc : Canonical s) : Canonical (inFlight w s) := canonical_me hc

theorem canonical_chargeMove {n units : Nat} (hc : Canonical s) : Canonical (chargeMove n units s) := canonical_charged hc

theorem canonical_chargeDram {n units : Nat} (hc : Canonical s) : Canonical (chargeDram n units s) := canonical_charged hc

theorem canonical_trace {n kind slot core tid : Nat} {pc data : Word} (hc : Canonical s) :
    Canonical (trace n kind slot core tid pc data s) :=
  canonical_ite
    (canonical_ite
       (canonical_post
          (canonical_ctx hc ⟨(ctxOk_ctxAt hc _).1, (ctxOk_ctxAt hc _).2.1, Tab.wf_put _ _ (ctxOk_ctxAt hc _).2.2⟩))
       (canonical_keepCtx hc hc rfl rfl rfl))
    hc

theorem canonical_hostEvent {e : HostEvent} (hc : Canonical s) : Canonical (hostEvent e s) :=
  canonical_post (canonical_rest hc)

theorem canonical_mapTile {slice idx : Nat} {f : TileEnt → TileEnt} (hc : Canonical s) :
    Canonical (mapTile slice idx f s) := canonical_setSlice hc

theorem canonical_recallCopies {slice : Nat} {e : TileEnt} {cs : List (Nat × Nat)} (hc : Canonical s) :
    Canonical (recallCopies slice e cs s) :=
  canonical_ite (canonical_foldl (canonical_mapTile hc) (fun _ _ h1 => canonical_postOrd h1)) hc

theorem canonical_recallTile {slice : Nat} {e : TileEnt} (hc : Canonical s) : Canonical (recallTile slice e s) :=
  canonical_ite (canonical_recallCopies hc) hc

theorem canonical_touchWord {home w : Nat} (hc : Canonical s) : Canonical (touchWord home w s) :=
  canonical_ite hc
    (canonical_when (canonical_foldl (canonical_setWord hc) (fun _ _ h2 => canonical_sendWake h2))
       (fun h1 => canonical_post h1))

theorem canonical_markMod {core off : Nat} (hc : Canonical s) : Canonical (markMod core off s) :=
  canonical_ite (canonical_core hc) hc

theorem canonical_markStale {home line : Nat} (hc : Canonical s) : Canonical (markStale home line s) := by
  unfold markStale
  split
  · exact canonical_ite (canonical_mapTile hc) hc
  · exact hc

theorem canonical_stalePeer {line : Nat} (hc : Canonical s) : Canonical (stalePeer line s) :=
  canonical_foldl hc (fun _ _ h1 => canonical_markStale h1)

theorem canonical_sendInv {home line : Nat} {u : Nat} (hc : Canonical s) : Canonical (sendInv home line s u) :=
  canonical_ite (canonical_rest hc) (canonical_postOrd hc)

theorem canonical_invalidateLine {home line : Nat} {keep : Option Nat} {writer : Option Thr} (hc : Canonical s) :
    Canonical (invalidateLine home line keep writer s) :=
  canonical_ite hc (canonical_foldl (canonical_setDir hc) (fun _ _ h1 => canonical_sendInv h1))

theorem canonical_retryFills (hc : Canonical s) : Canonical (retryFills s) :=
  canonical_foldl hc (fun _ _ h1 => canonical_foldl h1 (fun _ _ h2 => canonical_ite h2 (canonical_post h2)))

theorem canonical_noteRegions {cells : List (Nat × Byte)} (hc : Canonical s) : Canonical (noteRegions cells s) :=
  canonical_ite (canonical_retryFills hc) hc

theorem canonical_performWrite {cells : List (Nat × Byte)} {keep : Option Nat} {writer : Option Thr}
    (hc : Canonical s) : Canonical (performWrite cells keep writer s) :=
  canonical_foldl
    (canonical_foldl
       (canonical_foldl (canonical_noteRegions (canonical_rawWrite hc))
          (fun _ _ h1 =>
             canonical_ite (canonical_markStale (canonical_invalidateLine h1))
               (canonical_ite (canonical_stalePeer h1) h1)))
       (fun _ _ h2 => canonical_touchWord h2))
    (fun _ _ h3 => canonical_ite (canonical_markMod h3) h3)

theorem canonical_collectLine {line : Nat} (hc : Canonical s) : Canonical (collectLine line s) := by
  unfold collectLine
  dsimp only
  split
  · exact hc
  · exact canonical_unless (canonical_fillLine (canonical_setDir hc)) (fun h1 => canonical_performWrite h1)

theorem canonical_askHost {line : Nat} {rd : Bool} (hc : Canonical s) : Canonical (askHost line rd s) :=
  canonical_rest
    (canonical_when (canonical_ite (canonical_setDir hc) hc)
       (fun _ => canonical_setDir (canonical_ite (canonical_setDir hc) hc)))

theorem canonical_prepHost {line : Nat} {u : LineUse} (hc : Canonical s) : Canonical (prepHost line u s).2 := by
  unfold prepHost
  dsimp only
  split
  · exact canonical_fillLine hc
  · exact canonical_ite_snd (canonical_fillLine hc)
        (canonical_ite_snd (canonical_fillLine (canonical_setDir hc)) (canonical_ite hc (canonical_askHost hc)))
  · exact canonical_ite_snd (canonical_ite hc (canonical_askHost hc)) (canonical_fillLine hc)

theorem canonical_prepCopies {line : Nat} {red : Option AmoOp} {u : LineUse} (hc : Canonical s) :
    Canonical (prepCopies line red u s).2 :=
  canonical_ite_snd
    (canonical_ite_snd (canonical_prepHost (canonical_collectLine hc)) (canonical_postAll (canonical_setDir hc)))
    (canonical_prepHost hc)

theorem canonical_prepLine {home line : Nat} {red : Option AmoOp} {u : LineUse} (hc : Canonical s) :
    Canonical (prepLine home line red u s).2 := by
  refine canonical_ite_snd hc ?_
  split
  · exact canonical_ite_snd hc
        (canonical_ite_snd (canonical_mapTile (canonical_recallTile hc))
           (canonical_unless (canonical_prepCopies hc) (fun h1 => canonical_mapTile h1)))
  · exact canonical_prepCopies hc

theorem canonical_prepLines {home : Nat} {lines : List Nat} (hc : Canonical s) : Canonical (prepLines home lines s).2 :=
  canonical_foldl_snd hc (fun _ _ h1 => canonical_prepLine h1)

theorem canonical_filledFor {ctx line : Nat} {before : State} {r : Bool × State} (hr : Canonical r.2) :
    Canonical (filledFor ctx line before r).2 := canonical_ite_snd hr (canonical_chargeDram (canonical_chargeMove hr))

theorem canonical_prepFor {ctx home line : Nat} {red : Option AmoOp} {u : LineUse} (hc : Canonical s) :
    Canonical (prepFor ctx home line red u s).2 := canonical_filledFor (canonical_prepLine hc)

theorem canonical_prepAllFor {ctx home : Nat} {lines : List Nat} {u : LineUse} (hc : Canonical s) :
    Canonical (prepAllFor ctx home lines u s).2 := canonical_foldl_snd hc (fun _ _ h1 => canonical_prepFor h1)

theorem canonical_snoopLine {line : Nat} (hc : Canonical s) : Canonical (snoopLine line s) :=
  canonical_ite (canonical_askHost hc) hc

theorem canonical_takePartial {core line : Nat} (hc : Canonical s) : Canonical (takePartial core line s) := by
  unfold takePartial
  split
  · exact canonical_setDir hc
  · exact canonical_setDir (canonical_core hc)

theorem canonical_collectNow {line : Nat} (hc : Canonical s) : Canonical (collectNow line s) := by
  unfold collectNow
  split
  · exact hc
  · exact canonical_collectLine (canonical_foldl hc (fun _ _ h1 => canonical_takePartial h1))

theorem canonical_overCopy {line : Nat} {cells : List (Nat × Byte)} (hc : Canonical s) :
    Canonical (overCopy line cells s) := canonical_setDir hc

theorem canonical_devDemote {line : Nat} {cells : List (Nat × Byte)} (hc : Canonical s) :
    Canonical (devDemote line cells s) := by
  unfold devDemote
  dsimp only
  split
  · exact hc
  · exact canonical_recallCopies (canonical_mapTile (canonical_ite (canonical_overCopy hc) hc))

theorem canonical_devWrite {cells : List (Nat × Byte)} (hc : Canonical s) : Canonical (devWrite cells s) :=
  canonical_performWrite
    (canonical_foldl hc
       (fun _ _ h1 =>
          canonical_when (canonical_snoopLine (canonical_collectNow (canonical_devDemote h1)))
            (fun h2 => canonical_overCopy h2)))

theorem canonical_devPut {pa : Nat} {bytes : List Byte} (hc : Canonical s) : Canonical (devPut pa bytes s) :=
  canonical_devWrite hc

theorem canonical_wr64 {pa : Nat} {v : Word} (hc : Canonical s) : Canonical (wr64 s pa v) := canonical_devPut hc

theorem canonical_vput {ctx : Nat} {va : Nat} {bytes : List Byte} (hc : Canonical s) : Canonical (vput ctx va bytes s) :=
  canonical_ite hc (canonical_devWrite hc)

theorem canonical_vput64 {ctx va : Nat} {v : Word} (hc : Canonical s) : Canonical (vput64 ctx va v s) := canonical_vput hc

theorem canonical_errorRec {source sev ctx : Nat} {loc : ErrLoc} {addr info synd : Word} (hc : Canonical s) :
    Canonical (errorRec source sev ctx loc addr info synd s) :=
  canonical_ite (canonical_rest (canonical_devPut hc)) (canonical_rest hc)

theorem canonical_replayLog_fresh {slice req word : Nat} {sl : Slice} {base size off : Nat} (hc : Canonical s) :
    Canonical (replayLog.fresh slice req word s sl base size off) :=
  canonical_ite (canonical_setSlice hc)
    (canonical_setSlice (canonical_when (canonical_wr64 hc) fun h1 => canonical_wr64 h1))

theorem canonical_replayLog {slice req word : Nat} (hc : Canonical s) : Canonical (replayLog slice req word s) := by
  refine canonical_ite hc ?_
  dsimp only
  split
  · exact canonical_ite (canonical_wr64 hc) (canonical_replayLog_fresh hc)
  · exact canonical_replayLog_fresh hc

theorem canonical_drain {core : Nat} (hc : Canonical s) : Canonical (drain core s) :=
  canonical_foldl (canonical_ite hc (canonical_core hc)) (fun _ _ h1 => canonical_postOrd h1)

theorem canonical_enqueue {e : SqEnt} (hc : Canonical s) : Canonical (enqueue e s) := canonical_drain (canonical_core hc)

theorem canonical_sendMarkers {sc : BitVec 3} {p : Nat} (hc : Canonical s) : Canonical (sendMarkers sc p s) := by
  unfold sendMarkers
  split
  · exact hc
  · exact canonical_ite hc
        (canonical_ite hc (canonical_foldl (canonical_thread hc) (fun _ _ h1 => canonical_postOrd h1)))

theorem canonical_released {sc : BitVec 3} {k : State → State} (hc : Canonical s)
    (hk : ∀ u, Canonical u → Canonical (k u)) : Canonical (released sc s k) :=
  canonical_ite (hk _ hc) (canonical_waitRetry (canonical_sendMarkers hc))

theorem canonical_writeSlotRecord {p form reason : Nat} {t : Thread} {parkTicks : Nat} (hc : Canonical s) :
    Canonical (writeSlotRecord p form reason t parkTicks s) := canonical_devWrite hc

theorem canonical_noteSlot {p : Nat} (hc : Canonical s) : Canonical (noteSlot p s) := by
  unfold noteSlot
  dsimp only
  split
  · split
    · exact canonical_devPut (canonical_wr64 hc)
    · exact canonical_devPut (canonical_wr64 hc)
    · exact hc
  · exact hc

theorem canonical_postHandler {h : Handler} (hc : Canonical s) : Canonical (postHandler h s) := canonical_rest hc

theorem canonical_deliverThrough {block : Word} {machine : Bool} {p : Nat} {t : Thread} {tr : Trap} {cause : Cause} {info : Word}
    {u : State} (hc : Canonical s) (e : deliverThrough block machine p t tr cause info s = some u) : Canonical u := by
  unfold deliverThrough at e
  split at e
  · cases e
  dsimp only at e
  split at e
  · cases e
  · exact Option.some.inj e ▸ canonical_postHandler (canonical_vput hc)

theorem canonical_deliverTrap {p : Nat} (hc : Canonical s) : Canonical (deliverTrap p s) := by
  unfold deliverTrap
  split
  · exact hc
  · split
    · refine canonical_ite (canonical_holdBack (canonical_sendMarkers hc)) ?_
      refine canonical_ite (canonical_holdBack hc) ?_
      dsimp only
      split
      · exact canonical_post hc
      · split
        · exact (canonical_deliverThrough (canonical_trace (canonical_writeSlotRecord (canonical_thread hc))) ‹_›)
        · split
          · exact (canonical_deliverThrough (canonical_trace (canonical_writeSlotRecord (canonical_thread hc))) ‹_›)
          · exact canonical_post
                (canonical_errorRec (canonical_trace (canonical_writeSlotRecord (canonical_thread hc))))
    · exact hc

theorem canonical_resumeTrapped {p : Nat} {noCmp : Bool} (hc : Canonical s) : Canonical (resumeTrapped p noCmp s) := by
  unfold resumeTrapped
  split
  · exact hc
  · exact canonical_drain (canonical_core (canonical_thread (canonical_setSlot hc)))

end Sys2Proof.Proofs.Canonical
end

section
/-!
SUPPORT. Canonical form (O60) under operands and destinations: an operation keeps it that is made of operations that do.
-/
namespace Sys2Proof.Proofs.Canonical
open Sys2Proof.Machine Sys2Proof.Safety
set_option Elab.async false

variable {s : State}

theorem canonical_mapEng {cell e : Nat} {f : EngCtx → EngCtx} (hc : Canonical s) : Canonical (mapEng cell e f s) :=
  canonical_cell hc

theorem canonical_qset {core qid : Nat} {data : List Word} (hc : Canonical s) : Canonical (qset core qid data s) :=
  canonical_ite (canonical_core hc)
    (canonical_ite (canonical_mapEng hc) (canonical_ite (canonical_mapEng hc) (canonical_mapEng hc)))

theorem canonical_wakeParked {th : Thr} {k : Park} {m : Msg} (hc : Canonical s) : Canonical (wakeParked th k m s) := by
  unfold wakeParked
  split
  · exact canonical_ite (canonical_sendWake hc) hc
  · exact hc

theorem canonical_qWake {core qid : Nat} {pop : Bool} (hc : Canonical s) : Canonical (qWake core qid pop s) := by
  unfold qWake
  split
  · exact canonical_sendWake hc
  · exact hc

theorem canonical_qPush {core qid : Nat} {v : Word} (hc : Canonical s) : Canonical (qPush core qid v s) := by
  unfold qPush
  split
  · exact canonical_qWake (canonical_qset hc)
  · exact hc

theorem canonical_dropBack {core qid : Nat} (hc : Canonical s) : Canonical (dropBack core qid s) := by
  unfold dropBack
  dsimp only
  split
  · exact hc
  · exact canonical_core hc

theorem canonical_qPop {core qid : Nat} (hc : Canonical s) : Canonical (qPop core qid s) := by
  unfold qPop
  split
  · exact canonical_qWake (canonical_dropBack (canonical_qset hc))
  · exact hc

theorem canonical_parkOnQueue {qid : Nat} {pop : Bool} (hc : Canonical s) : Canonical (parkOnQueue qid pop s) :=
  canonical_park (canonical_ite hc (canonical_core hc))

/-- The state that ends an instruction at its operands is canonical. -/
def EndsKept (r : Except State (List Word)) : Prop := ∀ u, r = .error u → Canonical u

theorem endsKept_error {u : State} (h : Canonical u) : EndsKept (.error u) := fun _ e => Except.error.inj e ▸ h

theorem endsKept_ite {p : Prop} [Decidable p] {q r : Except State (List Word)} (h : EndsKept q) (k : EndsKept r) :
    EndsKept (if p then q else r) := by
  split
  · exact h
  · exact k

theorem endsKept_operands {ss : List Src} {d : Dst} (hc : Canonical s) : EndsKept (operands ss d s) := by
  have hq : Canonical (unparkQueues s) := canonical_unparkQueues hc
  unfold operands
  split
  · exact endsKept_error hc
  split
  · exact endsKept_error (canonical_raiseHeld hq)
  split
  · exact endsKept_error (canonical_raise hq)
  refine endsKept_ite (endsKept_error (canonical_park hc)) ?_
  split
  · exact endsKept_error (canonical_park hc)
  dsimp only
  split
  · exact endsKept_error (canonical_raise hq)
  split
  · exact endsKept_error (canonical_parkOnQueue hc)
  · exact fun _ e => by injection e

theorem canonical_operands {ss : List Src} {d : Dst} {u : State} (hc : Canonical s) (e : operands ss d s = .error u) :
    Canonical u := endsKept_operands hc u e

theorem canonical_commit {ss : List Src} (hc : Canonical s) : Canonical (commit ss s) := by
  refine canonical_unparkQueues ?_
  refine canonical_foldl ?_ (fun _ _ h2 => canonical_ite (canonical_me h2) h2)
  refine canonical_foldl hc ?_
  intro _ _ h1
  split
  · exact canonical_qPop h1
  · exact h1

theorem canonical_writeDst {d : Nat} {v : Word} (hc : Canonical s) : Canonical (writeDst d v s) := by
  refine canonical_ite (canonical_me hc) ?_
  split
  · exact canonical_ite (canonical_raise hc) (canonical_qPush hc)
  · exact hc

theorem canonical_mapResv {qid : Nat} {f : Nat → Nat} (hc : Canonical s) : Canonical (mapResv qid f s) := canonical_core hc

theorem canonical_reserve {d : Nat} (hc : Canonical s) : Canonical (reserve d s) := by
  refine canonical_ite hc ?_
  split
  · exact canonical_mapResv hc
  · exact hc

theorem canonical_unreserve {d : Nat} (hc : Canonical s) : Canonical (unreserve d s) := by
  refine canonical_ite hc ?_
  split
  · exact canonical_mapResv hc
  · exact hc

theorem canonical_giveUp {d : Nat} (hc : Canonical s) : Canonical (giveUp d s) := by
  unfold giveUp
  split
  · exact canonical_qWake (canonical_unreserve hc)
  · exact hc

theorem canonical_takePops {ss : List Src} (hc : Canonical s) : Canonical (takePops ss s) := by
  refine canonical_unparkQueues ?_
  refine canonical_foldl hc ?_
  intro _ _ h1
  dsimp only
  split
  · exact canonical_core (canonical_dropBack (canonical_mapResv (canonical_qset h1)))
  · exact h1

theorem canonical_endPops {undo : List (Nat × Word)} (hc : Canonical s) : Canonical (endPops undo s) :=
  canonical_foldl hc (fun _ _ h1 => canonical_qWake (canonical_mapResv h1))

theorem canonical_undoPops {undo : List (Nat × Word)} (hc : Canonical s) : Canonical (undoPops undo s) := by
  refine canonical_foldl hc ?_
  intro _ _ h1
  dsimp only
  split
  · exact canonical_qWake (canonical_core (canonical_mapResv (canonical_qset h1)))
  · exact h1

theorem canonical_takeRegs {rs : List Nat} (hc : Canonical s) : Canonical (takeRegs rs s) :=
  canonical_foldl hc (fun _ _ h1 => canonical_me h1)

theorem canonical_finish {d : Nat} {undo : List (Nat × Word)} {s s' : State} (hc : Canonical s) (hs' : Canonical s') :
    Canonical (finish d undo s s') := by
  unfold finish
  dsimp only
  split
  · refine canonical_raiseWith ?_
    refine canonical_undoPops ?_
    split
    · exact canonical_qWake hc
    · exact hc
  · refine canonical_ite ?_ (canonical_advance (canonical_endPops hs'))
    refine canonical_raise ?_
    refine canonical_undoPops ?_
    split
    · exact canonical_qWake hc
    · exact hc

theorem kept_withOps {ss : List Src} {d : Dst} {k : List Word → State} (hc : Canonical s)
    (hk : ∀ x, Canonical (k x)) : Kept (withOps ss d s k) := by
  unfold withOps
  split
  · exact kept_next (canonical_operands hc ‹_›)
  · exact kept_next (hk _)

theorem kept_computes {ss : List Src} {d : BitVec 5} {f : List Word → Word} (hc : Canonical s) :
    Kept (computes ss d f s) := kept_withOps hc (fun _ => canonical_complete hc (canonical_writeDst (canonical_commit hc)))

theorem canonical_report {f : Fl} (hc : Canonical s) : Canonical (report f s) := canonical_me hc

theorem kept_needPriv {n : Nat} {k : Result} (hc : Canonical s) (hk : Kept k) : Kept (needPriv n s k) :=
  kept_ite (kept_next (canonical_raise hc)) hk

end Sys2Proof.Proofs.Canonical
end

section
/-!
SUPPORT. Canonical form (O60) under accesses of memory: an operation keeps it that is made of operations that do.
-/
namespace Sys2Proof.Proofs.Canonical
open Sys2Proof.Machine Sys2Proof.Safety
set_option Elab.async false

variable {s : State}

theorem wfFrom_map {α : Type} [DecidableEq α] {d : α} {f : α → α} (hf : ∀ x, x ≠ d → f x ≠ d) {t : Tab α} {b : Nat}
    (h : Tab.wfFrom d b t = true) : Tab.wfFrom d b (t.map fun x => (x.1, f x.2)) = true := by
  induction t generalizing b with
  | nil => rfl
  | cons x t ih =>
    simp only [List.map_cons, Tab.wfFrom, Bool.and_eq_true, decide_eq_true_eq] at h ⊢
    exact ⟨⟨h.1.1, hf _ h.1.2⟩, ih h.2⟩

theorem wf_map {α : Type} [DecidableEq α] {d : α} {f : α → α} (hf : ∀ x, x ≠ d → f x ≠ d) {t : Tab α} (h : Tab.wf d t = true) :
    Tab.wf d (t.map fun x => (x.1, f x.2)) = true := wfFrom_map hf h

/-- Every engine's operations change, none goes or comes. -/
theorem canonical_mapOps (f : SqeOp → SqeOp) (hc : Canonical s) :
    Canonical { s with sqes := s.sqes.map (fun q => (q.1, { q.2 with ops := q.2.ops.map (fun o => (o.1, o.2.map f)) })) } := by
  have hops : ∀ x : Option SqeOp, x ≠ none → x.map f ≠ none := fun x hx h => hx (Option.map_eq_none_iff.1 h)
  obtain ⟨h1, h2, h3, h4, h5, h6, h7, h8, h9, h10, h11, h12, h13, h14⟩ := hc
  refine ⟨h1, h2, h3, h4, h5, h6, h7, h8, h9, ?_, h11, h12, h13, ?_⟩
  · refine wf_map (f := fun q : Sqe => { q with ops := q.ops.map (fun o => (o.1, o.2.map f)) }) (fun q hq h => hq ?_) h10
    have hnil : q.ops = [] := List.map_eq_nil_iff.1 (congrArg Sqe.ops h)
    obtain ⟨ops, gens, offers, leaves, waiting, parts4k, pairs, backlog⟩ := q
    simp only [Sqe.mk.injEq] at h
    obtain ⟨-, hrest⟩ := h
    simp only at hnil
    rw [hnil, Sqe.mk.injEq]
    exact ⟨rfl, hrest⟩
  · simp only [queuesOk, Bool.and_eq_true, List.all_eq_true, List.mem_map, forall_exists_index, and_imp] at h14 ⊢
    refine ⟨h14.1, ?_⟩
    rintro _ q hq rfl
    exact ⟨wf_map hops (h14.2 q hq).1, (h14.2 q hq).2⟩

theorem canonical_dirtyDropped {va : Nat} (hc : Canonical s) : Canonical (dirtyDropped va s) := by
  unfold dirtyDropped
  dsimp only
  split
  · exact canonical_mapOps _ hc
  split
  · exact canonical_unless hc fun h1 => canonical_wr64 h1
  · exact hc

theorem canonical_setDirty {va : Nat} (hc : Canonical s) : Canonical (setDirty va s) := by
  unfold setDirty
  split
  · exact canonical_ite hc (canonical_wr64 (canonical_setSlice hc))
  · exact canonical_ite (canonical_dirtyDropped hc) hc

theorem canonical_cmpTrap {va : Word} {size : Nat} {k : Acc} {u : State} (hc : Canonical s) (e : cmpTrap s va size k = some u) :
    Canonical u := by
  unfold cmpTrap at e
  split at e
  · cases e
  · obtain ⟨n, -, rfl⟩ := Option.map_eq_some_iff.1 e
    exact canonical_raise hc

theorem canonical_mapTslot {core i : Nat} {f : TileSlot → TileSlot} (hc : Canonical s) :
    Canonical (mapTslot core i f s) := canonical_core hc

theorem canonical_sendStage {core i : Nat} (hc : Canonical s) : Canonical (sendStage core i s) := by
  unfold sendStage
  split
  · exact canonical_post (canonical_mapTslot hc)
  · exact hc

theorem canonical_joinStage {core i : Nat} {th : Option Thr} (hc : Canonical s) : Canonical (joinStage core i th s) := by
  unfold joinStage
  dsimp only
  split
  · exact canonical_mapTslot (canonical_ite (canonical_sendStage hc) hc)
  · exact canonical_ite (canonical_sendStage hc) hc

theorem canonical_reportUse {core i : Nat} (hc : Canonical s) : Canonical (reportUse core i s) := by
  unfold reportUse
  dsimp only
  split
  · exact canonical_ite (canonical_mapTile hc) hc
  · exact hc

theorem canonical_usePlace {pa size : Nat} (hc : Canonical s) : Canonical (usePlace pa size s) := by
  refine canonical_ite ?_ hc
  split
  · exact canonical_ite (canonical_reportUse hc) hc
  · exact hc

theorem canonical_stageWait {va : Word} {pa size : Nat} {k : Acc} {idx : Nat} {u : State} (hc : Canonical s)
    (e : stageWait s va pa size k idx = some u) : Canonical u := by
  unfold stageWait at e
  split at e
  · cases e
  dsimp only at e
  split at e
  · cases e
  · cases e
    refine canonical_raise ?_
    split
    · exact canonical_mapTslot hc
    · exact hc
  split at e
  · exact Option.some.inj e ▸ canonical_park (canonical_joinStage hc)
  · exact Option.some.inj e ▸ canonical_waitRetry (canonical_joinStage hc)

theorem canonical_sendMigrant {target : Nat} {pc : BitVec 48} {migr : Option Nat} (hc : Canonical s) :
    Canonical (sendMigrant target pc migr s) :=
  canonical_postOrd
    (canonical_vput64
       (canonical_vput64
          (canonical_keepCtx (canonical_me (canonical_core hc)) (canonical_me (canonical_core hc)) rfl rfl rfl)))

theorem canonical_missPark {va : Word} (hc : Canonical s) : Canonical (missPark va s) := canonical_park (canonical_post hc)

theorem canonical_askXlat {va : Word} {w : Waiter} (hc : Canonical s) : Canonical (askXlat va w s) :=
  canonical_ite hc (canonical_post hc)

theorem canonical_planFrom {k : Acc} {data : Bool} {els : List (Nat × Word × Nat)} {acc : List Elem} {u : State} (hc : Canonical s)
    (e : planFrom k data s els acc = .stop u) : Canonical u := by
  induction els generalizing acc with
  | nil => cases e
  | cons x rest ih =>
    unfold planFrom at e
    dsimp only at e
    split at e
    · exact Plan.stop.inj e ▸ canonical_raise hc
    · exact Plan.stop.inj e ▸ canonical_missPark hc
    split at e
    · exact Plan.stop.inj e ▸ canonical_stageWait hc ‹_›
    · exact ih e

theorem canonical_plan {k : Acc} {data migrates : Bool} {els : List (Nat × Word × Nat)} {u : State} (hc : Canonical s)
    (e : plan k data migrates els s = .stop u) : Canonical u := by
  unfold plan at e
  split at e
  · obtain ⟨x, -, hx⟩ := List.exists_of_findSome?_eq_some ‹_›
    exact Plan.stop.inj e ▸ canonical_cmpTrap hc hx
  dsimp only at e
  split at e
  · split at e
    · exact Plan.stop.inj e ▸ canonical_planFrom hc ‹_›
    · exact Plan.stop.inj e ▸ canonical_raise hc
  split at e
  · exact Plan.stop.inj e ▸ canonical_released hc fun _ h => canonical_inFlight h
  · exact canonical_planFrom hc e

theorem canonical_waitBehind {home : Bool} {es : List Elem} (hc : Canonical s) : Canonical (waitBehind home es s) :=
  canonical_waitRetry (canonical_me hc)

theorem canonical_countPeer {va : Word} {pa : Nat} {w : Waiter} (hc : Canonical s) : Canonical (countPeer va pa w s) :=
  canonical_ite hc (canonical_post hc)

theorem canonical_foldl_snd2 {α β γ : Type} {f : β × γ × State → α → β × γ × State} {l : List α} {r : β × γ × State}
    (h : Canonical r.2.2) (k : ∀ u x, Canonical u.2.2 → Canonical (f u x).2.2) : Canonical (l.foldl f r).2.2 := by
  induction l generalizing r with
  | nil => exact h
  | cons x l ih => exact ih (k r x h)

theorem canonical_readElems {es : List Elem} (hc : Canonical s) : Canonical (readElems es s).2.2 := by
  refine canonical_foldl_snd2 hc fun r e h => ?_
  dsimp only
  split
  · exact h
  · exact h
  · exact canonical_countPeer (canonical_nextFresh (canonical_prepFor h))

theorem canonical_takeReqId {core : Nat} (hc : Canonical s) : Canonical (takeReqId core s) := canonical_core hc

theorem canonical_startFill {core id va pa : Nat} (hc : Canonical s) : Canonical (startFill core id va pa s) :=
  canonical_ite (canonical_core hc) hc

theorem canonical_sendReads {home : Bool} {missing : List Elem} (hc : Canonical s) :
    Canonical (sendReads home missing s) := by
  refine canonical_foldl hc ?_
  intro _ _ h1
  refine canonical_ite (canonical_postOrd (canonical_takeReqId h1)) ?_
  refine canonical_ite (canonical_post (canonical_startFill (canonical_takeReqId h1))) ?_
  dsimp only
  split
  · exact canonical_ite (canonical_post (canonical_nextFresh (canonical_takeReqId h1)))
        (canonical_post (canonical_startFill (canonical_nextFresh (canonical_takeReqId h1))))
  · exact canonical_post (canonical_startFill (canonical_takeReqId h1))

theorem canonical_writeVec {d : Nat} {v : Vec} (hc : Canonical s) : Canonical (writeVec d v s) := canonical_me hc

theorem canonical_writeLoad {dest : LoadDest} {got : List (Elem × List Byte)} (hc : Canonical s) :
    Canonical (writeLoad dest got s) := by
  refine canonical_me ?_
  dsimp only
  split
  · exact canonical_writeDst hc
  · exact canonical_writeVec hc
  · exact canonical_writeVec hc

theorem canonical_endLoad {l : LoadWait} {s0 : State} (hs0 : Canonical s0) : Canonical (endLoad l s0) := by
  unfold endLoad
  dsimp only
  split
  · exact canonical_raise (canonical_undoPops (canonical_giveUp hs0))
  · exact canonical_finish (canonical_unreserve hs0) (canonical_writeLoad (canonical_unreserve hs0))

theorem canonical_clearNoMerge (hc : Canonical s) : Canonical (clearNoMerge s) := canonical_me hc

theorem canonical_doLoad {dest : LoadDest} {home acq : Bool} {es : List Elem} {ss : List Src} (hc : Canonical s) :
    Canonical (doLoad dest home acq es ss s) :=
  canonical_ite (canonical_waitBehind hc)
    (canonical_ite (canonical_waitRetry hc)
       (canonical_ite
          (canonical_complete hc
             (canonical_writeLoad
                (canonical_foldl (canonical_commit (canonical_clearNoMerge hc))
                   (fun _ _ h1 => canonical_usePlace h1))))
          (canonical_clearNoMerge
             (canonical_inFlight
                (canonical_sendReads
                   (canonical_foldl (canonical_reserve (canonical_takePops hc))
                      (fun _ _ h2 => canonical_usePlace h2)))))))

theorem canonical_abandon (hc : Canonical s) : Canonical (abandon s) := by
  unfold abandon
  split
  · exact canonical_undoPops (canonical_giveUp hc)
  · exact canonical_undoPops hc
  · exact canonical_undoPops (canonical_giveUp hc)
  · exact canonical_undoPops (canonical_giveUp hc)
  · exact canonical_undoPops (canonical_giveUp hc)
  · exact canonical_core hc
  · exact hc

theorem canonical_orderedLoad {mo : BitVec 2} {sc : BitVec 3} {k : Bool → State → State} (hc : Canonical s)
    (hk : ∀ x u, Canonical u → Canonical (k x u)) : Canonical (orderedLoad mo sc s k) :=
  canonical_ite (canonical_released hc (fun _ h1 => hk _ _ h1)) (hk _ _ hc)

theorem canonical_acqGate {k : State} (hc : Canonical s) (hk : Canonical k) : Canonical (acqGate s k) :=
  canonical_ite (canonical_waitRetry hc) hk

theorem kept_loadInstr {signed : Bool} {d a : BitVec 5} {sz : BitVec 2} {sc : BitVec 3} {mo : BitVec 2}
    {off : BitVec 8} (hc : Canonical s) : Kept (loadInstr signed d a sz sc mo off s) := by
  refine kept_withOps hc ?_
  intro _
  refine canonical_acqGate hc ?_
  dsimp only
  split
  · exact (canonical_plan hc ‹_›)
  · exact canonical_orderedLoad hc (fun _ _ h1 => canonical_doLoad h1)

theorem canonical_dropSharer {core line : Nat} (hc : Canonical s) : Canonical (dropSharer core line s) :=
  canonical_ite hc (canonical_setDir hc)

theorem canonical_patchL1 {core : Nat} {cells : List (Nat × Byte)} (hc : Canonical s) :
    Canonical (patchL1 core cells s) := canonical_core hc

theorem canonical_queueStores {els : List (Elem × List Byte)} (hc : Canonical s) : Canonical (queueStores els s) :=
  canonical_foldl (canonical_foldl hc (fun _ _ h1 => canonical_usePlace (canonical_setDirty h1)))
    (fun _ _ h2 => canonical_ite (canonical_performWrite h2) (canonical_enqueue (canonical_patchL1 h2)))

theorem canonical_doStore {els : List (Elem × List Byte)} {seqSt : Bool} {ss : List Src} (hc : Canonical s) :
    Canonical (doStore els seqSt ss s) :=
  canonical_ite (canonical_complete hc (canonical_queueStores (canonical_commit hc)))
    (canonical_post (canonical_inFlight (canonical_takePops hc)))

theorem canonical_orderedStore {mo : BitVec 2} {sc : BitVec 3} {k : State → State} (hc : Canonical s)
    (hk : ∀ u, Canonical u → Canonical (k u)) : Canonical (orderedStore mo sc s k) :=
  canonical_ite (hk _ hc) (canonical_released hc (fun _ h1 => hk _ h1))

theorem kept_storeInstr {d a : BitVec 5} {sz : BitVec 2} {sc : BitVec 3} {mo : BitVec 2} {off : BitVec 8}
    (hc : Canonical s) : Kept (storeInstr d a sz sc mo off s) := by
  refine kept_withOps hc ?_
  intro _
  refine canonical_acqGate hc ?_
  dsimp only
  split
  · exact (canonical_plan hc ‹_›)
  · exact canonical_orderedStore hc (fun _ h1 => canonical_doStore h1)

theorem canonical_postProducer {d : BitVec 5} {ss : List Src} {k : State → State} (hc : Canonical s)
    (hk : ∀ u, Canonical u → Canonical (k u)) : Canonical (postProducer d ss s k) :=
  canonical_ite (canonical_raise hc) (canonical_advance (hk _ (canonical_me (canonical_commit hc))))

theorem canonical_queueAtomic {va : Word} {mo : BitVec 2} {req : WriteReq} (hc : Canonical s) :
    Canonical (queueAtomic va mo req s) := canonical_enqueue (canonical_ite (canonical_me hc) hc)

theorem kept_amoInstr {op : AmoOp} {d a b : BitVec 5} {sc : BitVec 3} {mo : BitVec 2} (hc : Canonical s) :
    Kept (amoInstr op d a b sc mo s) := by
  refine kept_withOps hc ?_
  intro _
  refine canonical_acqGate hc ?_
  dsimp only
  split
  · exact (canonical_cmpTrap hc ‹_›)
  · exact canonical_ite
        (canonical_released hc (fun _ h1 => canonical_postProducer h1 (fun _ h2 => canonical_queueAtomic h2)))
        (canonical_postProducer hc (fun _ h3 => canonical_queueAtomic h3))

theorem kept_casInstr {size : Nat} {d a b : BitVec 5} {sc : BitVec 3} {mo : BitVec 2} (hc : Canonical s) :
    Kept (casInstr size d a b sc mo s) := by
  refine kept_withOps hc ?_
  intro _
  refine canonical_acqGate hc ?_
  dsimp only
  split
  · exact (canonical_cmpTrap hc ‹_›)
  · exact canonical_ite
        (canonical_released hc (fun _ h1 => canonical_postProducer h1 (fun _ h2 => canonical_queueAtomic h2)))
        (canonical_postProducer hc (fun _ h3 => canonical_queueAtomic h3))

theorem canonical_atHome {k : Acc} {data : Bool} {va : Word} {size : Nat} {act : Elem → State → State}
    (hc : Canonical s) (hact : ∀ x u, Canonical u → Canonical (act x u)) : Canonical (atHome k data va size s act) := by
  unfold atHome
  split
  · exact (canonical_plan hc ‹_›)
  · exact hc
  · exact canonical_ite (canonical_raise hc)
        (canonical_ite (canonical_waitRetry hc)
           (canonical_ite (canonical_waitRetry (canonical_prepAllFor hc))
              (hact _ _ (canonical_usePlace (canonical_prepAllFor hc)))))

theorem canonical_raiseFloor {mo : BitVec 2} (hc : Canonical s) : Canonical (raiseFloor mo s) :=
  canonical_ite (canonical_me hc) hc

end Sys2Proof.Proofs.Canonical
end

section
/-!
SUPPORT. Canonical form (O60) under the scalar instructions: an operation keeps it that is made of operations that do.
-/
namespace Sys2Proof.Proofs.Canonical
open Sys2Proof.Machine Sys2Proof.Safety
set_option Elab.async false

variable {s : State}

theorem kept_alu2 {d a b : BitVec 5} {ma mb : BitVec 2} {f : Word → Word → Word} (hc : Canonical s) :
    Kept (alu2 d a b ma mb f s) := kept_computes hc

theorem kept_aluI {d a : BitVec 5} {ma : BitVec 2} {f : Word → Word} (hc : Canonical s) : Kept (aluI d a ma f s) :=
  kept_computes hc

theorem kept_execAdd {d a b : BitVec 5} {ma mb : BitVec 2} (hc : Canonical s) : Kept (execAdd d a b ma mb s) := kept_alu2 hc

theorem kept_execSub {d a b : BitVec 5} {ma mb : BitVec 2} (hc : Canonical s) : Kept (execSub d a b ma mb s) := kept_alu2 hc

theorem kept_execAnd {d a b : BitVec 5} {ma mb : BitVec 2} (hc : Canonical s) : Kept (execAnd d a b ma mb s) := kept_alu2 hc

theorem kept_execOr {d a b : BitVec 5} {ma mb : BitVec 2} (hc : Canonical s) : Kept (execOr d a b ma mb s) := kept_alu2 hc

theorem kept_execXor {d a b : BitVec 5} {ma mb : BitVec 2} (hc : Canonical s) : Kept (execXor d a b ma mb s) := kept_alu2 hc

theorem kept_execAndn {d a b : BitVec 5} {ma mb : BitVec 2} (hc : Canonical s) : Kept (execAndn d a b ma mb s) :=
  kept_alu2 hc

theorem kept_execShl {d a b : BitVec 5} {ma mb : BitVec 2} (hc : Canonical s) : Kept (execShl d a b ma mb s) := kept_alu2 hc

theorem kept_execShr {d a b : BitVec 5} {ma mb : BitVec 2} (hc : Canonical s) : Kept (execShr d a b ma mb s) := kept_alu2 hc

theorem kept_execSra {d a b : BitVec 5} {ma mb : BitVec 2} (hc : Canonical s) : Kept (execSra d a b ma mb s) := kept_alu2 hc

theorem kept_execRot {d a b : BitVec 5} {ma mb : BitVec 2} (hc : Canonical s) : Kept (execRot d a b ma mb s) := kept_alu2 hc

theorem kept_execSlt {d a b : BitVec 5} {ma mb : BitVec 2} (hc : Canonical s) : Kept (execSlt d a b ma mb s) := kept_alu2 hc

theorem kept_execSltu {d a b : BitVec 5} {ma mb : BitVec 2} (hc : Canonical s) : Kept (execSltu d a b ma mb s) :=
  kept_alu2 hc

theorem kept_execSeq {d a b : BitVec 5} {ma mb : BitVec 2} (hc : Canonical s) : Kept (execSeq d a b ma mb s) := kept_alu2 hc

theorem kept_execMin {d a b : BitVec 5} {ma mb : BitVec 2} (hc : Canonical s) : Kept (execMin d a b ma mb s) := kept_alu2 hc

theorem kept_execMax {d a b : BitVec 5} {ma mb : BitVec 2} (hc : Canonical s) : Kept (execMax d a b ma mb s) := kept_alu2 hc

theorem kept_execMinu {d a b : BitVec 5} {ma mb : BitVec 2} (hc : Canonical s) : Kept (execMinu d a b ma mb s) :=
  kept_alu2 hc

theorem kept_execMaxu {d a b : BitVec 5} {ma mb : BitVec 2} (hc : Canonical s) : Kept (execMaxu d a b ma mb s) :=
  kept_alu2 hc

theorem kept_execAddw {d a b : BitVec 5} {ma mb : BitVec 2} (hc : Canonical s) : Kept (execAddw d a b ma mb s) :=
  kept_alu2 hc

theorem kept_execSubw {d a b : BitVec 5} {ma mb : BitVec 2} (hc : Canonical s) : Kept (execSubw d a b ma mb s) :=
  kept_alu2 hc

theorem kept_execMul {d a b : BitVec 5} {ma mb : BitVec 2} (hc : Canonical s) : Kept (execMul d a b ma mb s) := kept_alu2 hc

theorem kept_execMulh {d a b : BitVec 5} {ma mb : BitVec 2} (hc : Canonical s) : Kept (execMulh d a b ma mb s) :=
  kept_alu2 hc

theorem kept_execMulhu {d a b : BitVec 5} {ma mb : BitVec 2} (hc : Canonical s) : Kept (execMulhu d a b ma mb s) :=
  kept_alu2 hc

theorem kept_divides {d a b : BitVec 5} {ma mb : BitVec 2} {f : Word → Word → Word} (hc : Canonical s) :
    Kept (divides d a b ma mb f s) :=
  kept_withOps hc
    (fun _ =>
       canonical_when (canonical_core (canonical_inFlight (canonical_reserve (canonical_takePops hc))))
         (fun h1 => canonical_after h1))

theorem kept_execClz {d a : BitVec 5} {ma : BitVec 2} (hc : Canonical s) : Kept (execClz d a ma s) := kept_aluI hc

theorem kept_execCtz {d a : BitVec 5} {ma : BitVec 2} (hc : Canonical s) : Kept (execCtz d a ma s) := kept_aluI hc

theorem kept_execPopc {d a : BitVec 5} {ma : BitVec 2} (hc : Canonical s) : Kept (execPopc d a ma s) := kept_aluI hc

theorem kept_execBswap {d a : BitVec 5} {ma : BitVec 2} (hc : Canonical s) : Kept (execBswap d a ma s) := kept_aluI hc

theorem kept_execBext {d a b : BitVec 5} {ma mb : BitVec 2} (hc : Canonical s) : Kept (execBext d a b ma mb s) :=
  kept_alu2 hc

theorem kept_execSext {d a b : BitVec 5} {ma mb : BitVec 2} (hc : Canonical s) : Kept (execSext d a b ma mb s) :=
  kept_alu2 hc

theorem kept_execZext {d a b : BitVec 5} {ma mb : BitVec 2} (hc : Canonical s) : Kept (execZext d a b ma mb s) :=
  kept_alu2 hc

theorem kept_execAddi {d a : BitVec 5} {ma : BitVec 2} {imm : BitVec 13} (hc : Canonical s) :
    Kept (execAddi d a ma imm s) := kept_aluI hc

theorem kept_execAndi {d a : BitVec 5} {ma : BitVec 2} {imm : BitVec 13} (hc : Canonical s) :
    Kept (execAndi d a ma imm s) := kept_aluI hc

theorem kept_execOri {d a : BitVec 5} {ma : BitVec 2} {imm : BitVec 13} (hc : Canonical s) :
    Kept (execOri d a ma imm s) := kept_aluI hc

theorem kept_execXori {d a : BitVec 5} {ma : BitVec 2} {imm : BitVec 13} (hc : Canonical s) :
    Kept (execXori d a ma imm s) := kept_aluI hc

theorem kept_execSlti {d a : BitVec 5} {ma : BitVec 2} {imm : BitVec 13} (hc : Canonical s) :
    Kept (execSlti d a ma imm s) := kept_aluI hc

theorem kept_execSltiu {d a : BitVec 5} {ma : BitVec 2} {imm : BitVec 13} (hc : Canonical s) :
    Kept (execSltiu d a ma imm s) := kept_aluI hc

theorem kept_execShli {d a : BitVec 5} {ma : BitVec 2} {amt : BitVec 6} (hc : Canonical s) :
    Kept (execShli d a ma amt s) := kept_aluI hc

theorem kept_execShri {d a : BitVec 5} {ma : BitVec 2} {amt : BitVec 6} (hc : Canonical s) :
    Kept (execShri d a ma amt s) := kept_aluI hc

theorem kept_execSrai {d a : BitVec 5} {ma : BitVec 2} {amt : BitVec 6} (hc : Canonical s) :
    Kept (execSrai d a ma amt s) := kept_aluI hc

theorem kept_execRoti {d a : BitVec 5} {ma : BitVec 2} {amt : BitVec 6} (hc : Canonical s) :
    Kept (execRoti d a ma amt s) := kept_aluI hc

theorem canonical_jump {d : BitVec 5} {target : Int} {ss : List Src} (hc : Canonical s) :
    Canonical (jump d target ss s) :=
  canonical_ite (canonical_raise hc) (canonical_jumpTo (canonical_writeDst (canonical_commit hc)))

theorem kept_branch {ss : List Src} {off : BitVec 12} {f : List Word → Bool} (hc : Canonical s) :
    Kept (branch ss off f s) :=
  kept_withOps hc
    (fun _ =>
       canonical_ite (canonical_ite (canonical_raise hc) (canonical_jumpTo (canonical_commit hc)))
         (canonical_complete hc (canonical_commit hc)))

theorem kept_maskOp {d : BitVec 2} {f : Thread → BitVec 16} (hc : Canonical s) : Kept (maskOp d f s) :=
  kept_withOps hc (fun _ => canonical_complete hc (canonical_me hc))

end Sys2Proof.Proofs.Canonical
end

section
/-!
SUPPORT. Canonical form (O60) under the instructions that read and write memory: an operation keeps it that is made of operations that do.
-/
namespace Sys2Proof.Proofs.Canonical
open Sys2Proof.Machine Sys2Proof.Safety
set_option Elab.async false

variable {s : State}

theorem canonical_postRead {r : ReadReq} (hc : Canonical s) : Canonical (postRead r s) :=
  canonical_ite (canonical_postOrd hc) (canonical_post hc)

theorem canonical_sendPosted {d size : Nat} {va : Word} {pc : BitVec 48} {pa : Option Nat} {ids : List Nat}
    (hc : Canonical s) : Canonical (sendPosted d size va pc pa ids s) := by
  unfold sendPosted
  dsimp only
  split
  · exact canonical_postRead (canonical_clearNoMerge (canonical_takeReqId hc))
  · split
    · exact canonical_ite (canonical_post (canonical_nextFresh (canonical_clearNoMerge (canonical_takeReqId hc))))
          (canonical_postRead
             (canonical_startFill (canonical_nextFresh (canonical_clearNoMerge (canonical_takeReqId hc)))))
    · exact canonical_postRead (canonical_startFill (canonical_clearNoMerge (canonical_takeReqId hc)))

theorem kept_execLdp {d a : BitVec 5} {sz : BitVec 2} {_sc : BitVec 3} {off : BitVec 8} (hc : Canonical s) :
    Kept (execLdp d a sz _sc off s) := by
  refine kept_withOps hc ?_
  intro _
  refine canonical_acqGate hc ?_
  dsimp only
  split
  · exact (canonical_cmpTrap hc ‹_›)
  · split
    · refine canonical_ite (canonical_postProducer hc (fun _ h1 => canonical_sendPosted h1)) ?_
      split
      · exact canonical_postProducer hc (fun _ h2 => canonical_sendPosted h2)
      · exact canonical_complete hc (canonical_me (canonical_writeDst (canonical_commit (canonical_usePlace hc))))
      · exact canonical_postProducer hc (fun _ h3 => canonical_sendPosted h3)
    · exact canonical_postProducer hc (fun _ h4 => canonical_sendPosted h4)

theorem kept_execPref {a : BitVec 5} {_sc : BitVec 3} {off : BitVec 8} (hc : Canonical s) :
    Kept (execPref a _sc off s) := by
  refine kept_withOps hc ?_
  intro _
  refine canonical_complete hc ?_
  refine canonical_commit ?_
  dsimp only
  split
  · exact canonical_ite hc (canonical_post (canonical_startFill (canonical_takeReqId hc)))
  · exact canonical_post hc
  · exact hc

theorem kept_execCflush {a : BitVec 5} {_sc : BitVec 3} {off : BitVec 8} (hc : Canonical s) :
    Kept (execCflush a _sc off s) := by
  refine kept_withOps hc ?_
  intro _
  refine canonical_acqGate hc ?_
  refine canonical_unless (canonical_complete hc (canonical_commit hc)) ?_
  intro h1
  dsimp only
  split
  · exact (canonical_plan hc ‹_›)
  · exact canonical_ite h1
        (canonical_ite (canonical_waitRetry hc)
           (canonical_ite (canonical_waitRetry (canonical_prepFor hc))
              (canonical_complete hc
                 (canonical_commit
                    (canonical_cleanLine
                       (canonical_when (canonical_prepFor hc)
                          (fun h2 => canonical_chargeDram (canonical_chargeMove h2))))))))

theorem kept_execCinval {a : BitVec 5} {_sc : BitVec 3} {off : BitVec 8} (hc : Canonical s) :
    Kept (execCinval a _sc off s) := by
  refine kept_withOps hc ?_
  intro _
  dsimp only
  split
  · exact canonical_raise hc
  · refine canonical_complete hc ?_
    refine canonical_commit ?_
    split
    · exact canonical_dropSharer (canonical_core hc)
    · exact canonical_postOrd hc
    · exact hc

theorem kept_execFence {fk : BitVec 4} {sc : BitVec 3} {e : BitVec 1} (hc : Canonical s) : Kept (execFence fk sc e s) :=
  kept_withOps hc
    (fun _ =>
       canonical_ite (canonical_me (canonical_waitRetry hc))
         (canonical_ite (canonical_me (canonical_waitRetry (canonical_sendMarkers hc)))
            (canonical_complete hc (canonical_me hc))))

theorem canonical_redInstr_ask {core : Nat} {th : Thr} {pa : Nat} {va : Word} {op : AmoOp}
    (hc : Canonical s) : Canonical (redInstr.ask s core th pa va op) :=
  canonical_inFlight (canonical_postOrd (canonical_core hc))

theorem kept_redInstr {op : AmoOp} {a b : BitVec 5} {_sc : BitVec 3} (hc : Canonical s) : Kept (redInstr op a b _sc s) := by
  refine kept_withOps hc ?_
  intro _
  refine canonical_acqGate hc ?_
  dsimp only
  split
  · exact (canonical_cmpTrap hc ‹_›)
  · split
    · exact canonical_raise hc
    · exact canonical_inFlight (canonical_post hc)
    · refine canonical_ite (canonical_complete hc (canonical_enqueue (canonical_commit hc))) ?_
      refine canonical_ite ?_ ?_
      · split
        · exact (canonical_stageWait hc ‹_›)
        · exact canonical_ite
              (canonical_complete hc (canonical_performWrite (canonical_usePlace (canonical_commit hc))))
              (canonical_complete hc (canonical_enqueue (canonical_commit hc)))
      · split
        · exact canonical_ite (canonical_complete hc (canonical_commit (canonical_core (canonical_setDirty hc))))
              (canonical_redInstr_ask hc)
        · exact canonical_redInstr_ask hc

theorem kept_execRedAdd {a b : BitVec 5} {sc : BitVec 3} (hc : Canonical s) : Kept (execRedAdd a b sc s) := kept_redInstr hc

theorem kept_execRedAnd {a b : BitVec 5} {sc : BitVec 3} (hc : Canonical s) : Kept (execRedAnd a b sc s) := kept_redInstr hc

theorem kept_execRedOr {a b : BitVec 5} {sc : BitVec 3} (hc : Canonical s) : Kept (execRedOr a b sc s) := kept_redInstr hc

theorem kept_execRedXor {a b : BitVec 5} {sc : BitVec 3} (hc : Canonical s) : Kept (execRedXor a b sc s) := kept_redInstr hc

theorem kept_execRedMin {a b : BitVec 5} {sc : BitVec 3} (hc : Canonical s) : Kept (execRedMin a b sc s) := kept_redInstr hc

theorem kept_execRedMax {a b : BitVec 5} {sc : BitVec 3} (hc : Canonical s) : Kept (execRedMax a b sc s) := kept_redInstr hc

theorem kept_execRedMinu {a b : BitVec 5} {sc : BitVec 3} (hc : Canonical s) : Kept (execRedMinu a b sc s) :=
  kept_redInstr hc

theorem kept_execRedMaxu {a b : BitVec 5} {sc : BitVec 3} (hc : Canonical s) : Kept (execRedMaxu a b sc s) :=
  kept_redInstr hc

theorem kept_execRedFadd {a b : BitVec 5} {sc : BitVec 3} (hc : Canonical s) : Kept (execRedFadd a b sc s) :=
  kept_redInstr hc

theorem kept_execRedFmin {a b : BitVec 5} {sc : BitVec 3} (hc : Canonical s) : Kept (execRedFmin a b sc s) :=
  kept_redInstr hc

theorem kept_execRedFmax {a b : BitVec 5} {sc : BitVec 3} (hc : Canonical s) : Kept (execRedFmax a b sc s) :=
  kept_redInstr hc

end Sys2Proof.Proofs.Canonical
end

section
/-!
SUPPORT. Canonical form (O60) under the messages of a line's home: an operation keeps it that is made of operations that do.
-/
namespace Sys2Proof.Proofs.Canonical
open Sys2Proof.Machine Sys2Proof.Safety
set_option Elab.async false

variable {s : State}

theorem canonical_taken (hc : Canonical s) : Canonical (taken s) := canonical_rest hc

theorem canonical_withThr {th : Thr} {f : State → State} (hc : Canonical s)
    (hf : ∀ u, Canonical u → Canonical (f u)) : Canonical (withThr th s f) := canonical_ite (hf _ (canonical_rest hc)) hc

theorem canonical_fillSaved {p reg : Nat} {g : GReg} (hc : Canonical s) : Canonical (fillSaved p reg g s) :=
  canonical_devWrite hc

theorem canonical_fillReg_filledWake {th : Thr} {reg : Nat} {p : Posted} {k : Option Park} (hc : Canonical s) :
    Canonical (fillReg.filledWake th reg p k s) := by
  unfold fillReg.filledWake
  split
  · exact hc
  split
  · exact canonical_when hc fun h1 => canonical_wakeParked h1
  · exact canonical_wakeParked hc
  · exact canonical_wakeParked hc
  · exact hc

theorem canonical_fillReg {th : Thr} {reg : Nat} {p : Posted} (hc : Canonical s) : Canonical (fillReg th reg p s) := by
  unfold fillReg
  split
  · exact hc
  · refine canonical_ite hc ?_
    dsimp only
    split
    · exact canonical_fillSaved (canonical_thread hc)
    · exact canonical_fillReg_filledWake (canonical_fillSaved (canonical_thread hc))
    · exact canonical_fillReg_filledWake (canonical_thread hc)
    · exact canonical_thread hc

theorem canonical_deliverPosted {th : Thr} {reg : Nat} {p : Posted} (hc : Canonical s) :
    Canonical (deliverPosted th reg p s) := by
  unfold deliverPosted
  dsimp only
  split
  · split
    · exact canonical_postOrd (canonical_core hc)
    · exact canonical_core hc
  · exact canonical_ite (canonical_fillReg hc) hc

theorem kept_execPostedArrive (hc : Canonical s) : Kept (execPostedArrive s) := by
  unfold execPostedArrive
  split
  · exact kept_next
        (canonical_ite (canonical_holdBack (canonical_taken hc)) (canonical_deliverPosted (canonical_taken hc)))
  · exact kept_fault

theorem kept_execPostedFail (hc : Canonical s) : Kept (execPostedFail s) := by
  unfold execPostedFail
  split
  · exact kept_next (canonical_deliverPosted (canonical_taken hc))
  · exact kept_fault

theorem kept_execForwardedValue (hc : Canonical s) : Kept (execForwardedValue s) := by
  unfold execForwardedValue
  split
  · exact kept_next (canonical_deliverPosted (canonical_taken hc))
  · exact kept_fault

theorem kept_execDividerDone (hc : Canonical s) : Kept (execDividerDone s) := by
  unfold execDividerDone
  split
  · refine kept_next ?_
    dsimp only
    split
    · exact canonical_taken hc
    · refine canonical_withThr (canonical_unless (canonical_core (canonical_taken hc)) (fun h1 => canonical_after h1))
          ?_
      intro _ h2
      split
      · exact canonical_finish (canonical_unreserve h2)
            (canonical_writeDst (canonical_takeRegs (canonical_unreserve h2)))
      · exact h2
  · exact kept_fault

theorem canonical_unitDone {th : Thr} (hc : Canonical s) : Canonical (unitDone th s) :=
  canonical_withThr hc (fun _ h1 => canonical_ite (canonical_advance h1) h1)

theorem kept_execNormaliserDone (hc : Canonical s) : Kept (execNormaliserDone s) := by
  unfold execNormaliserDone
  split
  · refine kept_next ?_
    dsimp only
    split
    · exact canonical_taken hc
    · refine canonical_unless ?_ (fun h1 => canonical_unitDone h1)
      split
      · exact canonical_core (canonical_taken hc)
      · exact canonical_after (canonical_core (canonical_taken hc))
  · exact kept_fault

theorem kept_execIterativeUnitDone (hc : Canonical s) : Kept (execIterativeUnitDone s) := by
  unfold execIterativeUnitDone
  split
  · refine kept_next ?_
    dsimp only
    split
    · exact canonical_taken hc
    · exact canonical_unless (canonical_unless (canonical_core (canonical_taken hc)) (fun h2 => canonical_after h2))
          (fun h1 => canonical_unitDone h1)
  · exact kept_fault

theorem canonical_putL1 {core key : Nat} {line : L1Line} (hc : Canonical s) : Canonical (putL1 core key line s) := by
  refine canonical_ite (canonical_core hc) ?_
  dsimp only
  split
  · exact canonical_dropSharer (canonical_core (canonical_nextFresh hc))
  · split
    · exact canonical_dropSharer (canonical_postOrd (canonical_nextFresh hc))
    · exact canonical_postOrd (canonical_nextFresh hc)
  · exact canonical_nextFresh hc

theorem canonical_installLine {core id : Nat} {data : List Byte} (hc : Canonical s) :
    Canonical (installLine core id data s) := by
  unfold installLine
  dsimp only
  split
  · exact hc
  · exact canonical_ite (canonical_dropSharer (canonical_core hc)) (canonical_putL1 (canonical_core hc))

theorem canonical_serveLoad {va : Nat} {id : Nat} {data : List Byte} (hc : Canonical s) :
    Canonical (serveLoad va id data s) := by
  unfold serveLoad
  split
  · exact canonical_ite hc (canonical_ite (canonical_endLoad hc) (canonical_inFlight hc))
  · exact hc

theorem canonical_refuseLoad {va : Nat} {id : Nat} {c : Cause} {base : Option Word} (hc : Canonical s) :
    Canonical (refuseLoad va id c base s) := by
  unfold refuseLoad
  split
  · exact canonical_ite hc (canonical_ite (canonical_endLoad hc) (canonical_inFlight hc))
  · exact hc

theorem canonical_endFe {data : List Byte} (hc : Canonical s) : Canonical (endFe data s) := by
  unfold endFe
  split
  · refine canonical_finish (canonical_unreserve hc) ?_
    split
    · exact canonical_writeDst (canonical_me (canonical_unreserve hc))
    · exact canonical_writeDst (canonical_me (canonical_unreserve hc))
    · exact canonical_writeDst (canonical_me (canonical_unreserve hc))
    · exact canonical_me (canonical_unreserve hc)
  · exact hc

theorem kept_execLoadReply (hc : Canonical s) : Kept (execLoadReply s) := by
  unfold execLoadReply
  split
  · refine kept_next ?_
    refine canonical_ite ?_
        (canonical_withThr (canonical_installLine (canonical_taken hc)) (fun _ h2 => canonical_serveLoad h2))
    refine canonical_withThr (canonical_taken hc) ?_
    intro _ h1
    split
    · exact canonical_ite (canonical_holdBack h1) (canonical_endFe h1)
    · exact h1
  · exact kept_fault

theorem kept_execStoreCheckReply (hc : Canonical s) : Kept (execStoreCheckReply s) := by
  unfold execStoreCheckReply
  split
  · refine kept_next ?_
    refine canonical_withThr (canonical_taken hc) ?_
    intro _ h1
    split
    · dsimp only
      split
      · exact canonical_holdBack (canonical_joinStage h1)
      · exact canonical_raise (canonical_undoPops h1)
      · exact canonical_ite (canonical_raise (canonical_undoPops h1))
            (canonical_ite (canonical_inFlight (canonical_endPops (canonical_queueStores h1)))
               (canonical_advance (canonical_endPops (canonical_queueStores h1))))
    · exact h1
  · exact kept_fault

theorem canonical_putTidHead {ctx : Nat} (hc : Canonical s) : Canonical (putTidHead ctx s) := canonical_vput64 hc

theorem canonical_takeTid {ctx : Nat} (hc : Canonical s) : Canonical (takeTid ctx s) := by
  refine canonical_putTidHead ?_
  split
  · exact canonical_keepCtx hc hc rfl rfl rfl
  · exact canonical_keepCtx hc hc rfl rfl rfl

theorem canonical_offerWork {ctx chip : Nat} (hc : Canonical s) : Canonical (offerWork ctx chip s) := canonical_post hc

theorem canonical_purgePosted {th : Thr} (hc : Canonical s) : Canonical (purgePosted th s) :=
  canonical_rest
    (canonical_foldl (canonical_foldl hc (fun _ _ h1 => canonical_ite h1 (canonical_core h1)))
       (fun _ _ h2 => canonical_ite (canonical_setSlice h2) h2))

theorem canonical_giveTid {ctx tid core : Nat} (hc : Canonical s) : Canonical (giveTid ctx tid core s) :=
  canonical_offerWork
    (canonical_putTidHead (canonical_keepCtx (canonical_purgePosted hc) (canonical_purgePosted hc) rfl rfl rfl))

theorem canonical_freeEnded {ctx tid core : Nat} (hc : Canonical s) : Canonical (freeEnded ctx tid core s) :=
  canonical_ite (canonical_giveTid (canonical_keepCtx hc hc rfl rfl rfl)) hc

theorem canonical_wakeLimit3 {th : Thr} (hc : Canonical s) : Canonical (wakeLimit3 th s) := by
  unfold wakeLimit3
  split
  · exact canonical_ite (canonical_wakeParked hc) hc
  · exact hc

theorem kept_execStoreAck (hc : Canonical s) : Kept (execStoreAck s) := by
  unfold execStoreAck
  split
  · refine kept_next ?_
    dsimp only
    split
    · exact canonical_taken hc
    · refine canonical_ite (canonical_holdBack (canonical_taken hc)) ?_
      refine canonical_drain ?_
      refine canonical_wakeLimit3 ?_
      refine canonical_freeEnded ?_
      refine canonical_withThr
          (canonical_when (canonical_core (canonical_taken hc)) (fun h1 => canonical_mapThread h1)) ?_
      intro _ h2
      split
      · exact canonical_ite (canonical_ite (canonical_advance h2) (canonical_postOrd (canonical_me h2))) h2
      · exact canonical_sendMarkers h2
      · exact h2
  · exact kept_fault

theorem canonical_failRead {r : ReadReq} {c : Cause} {base : Option Word} (hc : Canonical s) :
    Canonical (failRead r c base s) := by
  unfold failRead
  dsimp only
  split
  · exact canonical_post (canonical_core hc)
  · exact canonical_core hc
  · exact canonical_withThr (canonical_core hc) (fun _ h1 => canonical_refuseLoad h1)

theorem canonical_answerRead {r : ReadReq} (hc : Canonical s) : Canonical (answerRead r s) := by
  unfold answerRead
  dsimp only
  split
  · exact canonical_when (canonical_post (canonical_ite hc (canonical_startFill hc))) (fun h1 => canonical_post h1)
  · exact canonical_post (canonical_ite hc (canonical_startFill hc))

theorem canonical_serveDram {r : ReadReq} (hc : Canonical s) : Canonical (serveDram r s) :=
  canonical_ite (canonical_core hc)
    (canonical_ite
       (canonical_holdIn (canonical_filledFor (canonical_ite_snd (canonical_prepHost hc) (canonical_prepLine hc))))
       (canonical_ite
          (canonical_holdIn
             (canonical_invalidateLine
                (canonical_filledFor (canonical_ite_snd (canonical_prepHost hc) (canonical_prepLine hc)))))
          (canonical_ite
             (canonical_holdIn
                (canonical_filledFor (canonical_ite_snd (canonical_prepHost hc) (canonical_prepLine hc))))
             (canonical_answerRead
                (canonical_unless
                   (canonical_filledFor (canonical_ite_snd (canonical_prepHost hc) (canonical_prepLine hc)))
                   (fun h1 => canonical_setDir h1))))))

theorem canonical_serveFromPeer {r : ReadReq} (hc : Canonical s) : Canonical (serveFromPeer r s) :=
  canonical_ite (canonical_holdIn (canonical_ite_snd hc (canonical_prepLine hc)))
    (canonical_post (canonical_ite_snd hc (canonical_prepLine hc)))

theorem canonical_serveRead {r : ReadReq} (hc : Canonical s) : Canonical (serveRead r s) := by
  refine canonical_unless (canonical_failRead hc) ?_
  intro h1
  refine canonical_ite (canonical_answerRead hc) ?_
  refine canonical_ite (canonical_inOrder hc (fun _ h2 => canonical_serveFromPeer h2)) ?_
  refine canonical_ite ?_ (canonical_inOrder hc (fun _ h3 => canonical_serveDram h3))
  refine canonical_ite h1 ?_
  dsimp only
  split
  · exact canonical_holdBack (canonical_joinStage hc)
  · exact canonical_failRead hc
  · exact canonical_answerRead (canonical_usePlace hc)

theorem canonical_servePosted {r : ReadReq} {size : Nat} (hc : Canonical s) : Canonical (servePosted r size s) := by
  unfold servePosted
  split
  · exact canonical_failRead hc
  · exact canonical_post hc
  · dsimp only
    split
    · exact canonical_serveRead hc
    · split
      · exact canonical_post hc
      · exact canonical_post hc

theorem kept_execHomeRead (hc : Canonical s) : Kept (execHomeRead s) := by
  unfold execHomeRead
  split
  · refine kept_next ?_
    refine canonical_ite (canonical_holdBack (canonical_taken hc)) ?_
    split
    · exact canonical_servePosted (canonical_taken hc)
    · exact canonical_serveRead (canonical_taken hc)
  · exact kept_fault

theorem canonical_ackRequest_ack {w : WriteReq} {home : Nat} {th : Thr} (hc : Canonical s) :
    Canonical (ackRequest.ack w home s th) := by
  unfold ackRequest.ack
  dsimp only
  split
  · exact canonical_postOrd hc
  · exact hc

theorem canonical_ackRequest {w : WriteReq} {home : Nat} (hc : Canonical s) : Canonical (ackRequest w home s) := by
  unfold ackRequest
  split
  · exact canonical_postOrd hc
  · exact canonical_ackRequest_ack hc
  · exact canonical_ackRequest_ack hc
  · exact canonical_ackRequest_ack hc

theorem canonical_oweFault {c : Cause} {info addr : Word} (hc : Canonical s) : Canonical (oweFault c info addr s) :=
  canonical_me hc

theorem canonical_lateFault {c : Cause} {info addr : Word} (hc : Canonical s) : Canonical (lateFault c info addr s) :=
  canonical_ite (canonical_raise (canonical_unparkQueues (canonical_abandon hc))) (canonical_oweFault hc)

theorem canonical_failWrite {th : Thr} {id : Nat} {c : Cause} {k : Acc} {addr : Word} (hc : Canonical s) :
    Canonical (failWrite th id c k addr s) := canonical_withThr hc (fun _ h1 => canonical_lateFault (canonical_core h1))

theorem canonical_refuseStore {core id : Nat} {c : Cause} (hc : Canonical s) : Canonical (refuseStore core id c s) := by
  unfold refuseStore
  split
  · exact hc
  · exact canonical_failWrite (canonical_ackRequest hc)

theorem canonical_failStore {core id : Nat} (hc : Canonical s) : Canonical (failStore core id s) := canonical_refuseStore hc

theorem canonical_failAtomic {th : Thr} {reg : Nat} {c : Cause} {addr : Word} {pc : BitVec 48} (hc : Canonical s) :
    Canonical (failAtomic th reg c addr pc s) :=
  canonical_ite (canonical_post hc) (canonical_ite (canonical_failWrite hc) hc)

theorem canonical_serveAtomic {w : WriteReq} {th : Thr} {reg size : Nat} {va : Word} {pc : BitVec 48} {priv : Nat}
    {always : Bool} {act : Word → Option Word} {result : Word → Word} (hc : Canonical s) :
    Canonical (serveAtomic w th reg size va pc priv always act result s) := by
  unfold serveAtomic
  dsimp only
  split
  · exact canonical_failAtomic (canonical_ackRequest hc)
  · exact canonical_post hc
  · split
    · exact canonical_holdBack (canonical_joinStage hc)
    · exact canonical_failAtomic (canonical_ackRequest hc)
    · refine canonical_ite (canonical_holdBack hc) ?_
      refine canonical_inOrder hc ?_
      intro _ h1
      refine canonical_ite (canonical_holdIn (canonical_prepFor h1)) ?_
      split
      · exact canonical_ite (canonical_failAtomic (canonical_ackRequest (canonical_usePlace (canonical_prepFor h1))))
            (canonical_ite
               (canonical_postOrd
                  (canonical_replayLog
                     (canonical_nextFresh (canonical_stalePeer (canonical_usePlace (canonical_prepFor h1))))))
               (canonical_ackRequest
                  (canonical_nextFresh
                     (canonical_when
                        (canonical_performWrite
                           (canonical_setDirty (canonical_replayLog (canonical_usePlace (canonical_prepFor h1)))))
                        (fun h2 => canonical_post h2)))))
      · exact canonical_ite
            (canonical_postOrd
               (canonical_replayLog (canonical_nextFresh (canonical_usePlace (canonical_prepFor h1)))))
            (canonical_ackRequest
               (canonical_nextFresh
                  (canonical_when (canonical_replayLog (canonical_usePlace (canonical_prepFor h1)))
                     (fun h3 => canonical_post (canonical_replayLog (canonical_usePlace (canonical_prepFor h1)))))))

theorem kept_execCollectRecallReply (hc : Canonical s) : Kept (execCollectRecallReply s) := by
  unfold execCollectRecallReply
  split
  · exact kept_next
        (canonical_when (canonical_takePartial (canonical_taken hc))
           (fun h1 => canonical_collectLine (canonical_replayLog h1)))
  · exact kept_fault

theorem kept_execUEviction (hc : Canonical s) : Kept (execUEviction s) := by
  unfold execUEviction
  split
  · exact kept_next (canonical_takePartial (canonical_taken hc))
  · exact kept_fault

theorem kept_execRedURequest (hc : Canonical s) : Kept (execRedURequest s) := by
  unfold execRedURequest
  split
  · exact kept_next
        (canonical_ite (canonical_withThr (canonical_taken hc) (fun _ h1 => canonical_ite (canonical_raise h1) h1))
           (canonical_inOrder (canonical_taken hc)
              (fun _ h2 =>
                 canonical_ite (canonical_holdIn (canonical_prepFor h2))
                   (canonical_ite (canonical_holdIn (canonical_invalidateLine (canonical_prepFor h2)))
                      (canonical_ite (canonical_holdIn (canonical_prepFor h2))
                         (canonical_withThr (canonical_prepFor h2)
                            (fun _ h3 =>
                               canonical_ite
                                 (canonical_ite (canonical_waitRetry (canonical_setDir (canonical_putL1 h3)))
                                    (canonical_waitRetry (canonical_putL1 h3)))
                                 h3)))))))
  · exact kept_fault

theorem canonical_dropShared {core line : Nat} (hc : Canonical s) : Canonical (dropShared core line s) := canonical_core hc

theorem canonical_closeInv {unit line : Nat} (hc : Canonical s) : Canonical (closeInv unit line s) := by
  unfold closeInv
  dsimp only
  split
  · exact canonical_setDir hc
  · exact hc

theorem canonical_cutInv {core line : Nat} (hc : Canonical s) : Canonical (cutInv core line s) := by
  unfold cutInv
  dsimp only
  split
  · split
    · refine canonical_withThr (canonical_closeInv hc) fun u h => ?_
      split
      · exact canonical_oweFault h
      · exact canonical_lateFault h
    · exact canonical_closeInv hc
  · exact hc

theorem kept_execInvalidation (hc : Canonical s) : Kept (execInvalidation s) := by
  unfold execInvalidation
  split
  · exact kept_next
        (canonical_ite (canonical_cutInv (canonical_taken hc))
           (canonical_postOrd (canonical_dropShared (canonical_taken hc))))
  · exact kept_next (canonical_rest (canonical_foldl (canonical_taken hc) (fun _ _ h1 => canonical_dropShared h1)))
  · exact kept_fault

theorem kept_execInvalidationAck (hc : Canonical s) : Kept (execInvalidationAck s) := by
  unfold execInvalidationAck
  split
  · exact kept_next (canonical_ite (canonical_cutInv (canonical_taken hc)) (canonical_closeInv (canonical_taken hc)))
  · exact kept_fault

theorem kept_execFenceMarker (hc : Canonical s) : Kept (execFenceMarker s) := by
  unfold execFenceMarker
  split
  · exact kept_next
        (canonical_ite
           (canonical_wakeLimit3
              (canonical_withThr (canonical_taken hc)
                 (fun _ h1 => canonical_unless (canonical_me h1) (fun h2 => canonical_lateFault h2))))
           (canonical_ite (canonical_holdBack (canonical_taken hc)) (canonical_postOrd (canonical_taken hc))))
  · exact kept_fault

theorem kept_execFenceMarkerAnswer (hc : Canonical s) : Kept (execFenceMarkerAnswer s) := by
  unfold execFenceMarkerAnswer
  split
  · refine kept_next ?_
    refine canonical_wakeLimit3 ?_
    refine canonical_withThr (canonical_taken hc) ?_
    intro _ h1
    dsimp only
    split
    · exact canonical_when (canonical_me h1) (fun h2 => canonical_advance h2)
    · exact canonical_me h1
  · exact kept_fault

end Sys2Proof.Proofs.Canonical
end

section
/-!
SUPPORT. Canonical form (O60) under full/empty words and their queues: an operation keeps it that is made of operations that do.
-/
namespace Sys2Proof.Proofs.Canonical
open Sys2Proof.Machine Sys2Proof.Safety
set_option Elab.async false

variable {s : State}

theorem canonical_nextOr {r : Result} (hc : Canonical s) (hr : Kept r) : Canonical (nextOr s r) := by
  unfold nextOr
  split
  · exact hr _ rfl
  · exact hc

theorem canonical_settle {w : Nat} (hc : Canonical s) : Canonical (settle w s) := by
  unfold settle
  dsimp only
  split
  · exact hc
  · split
    · exact hc
    · exact canonical_sendWake (canonical_after (canonical_setWord hc))

theorem canonical_dropOlder {slice : Nat} {th : Thr} (hc : Canonical s) : Canonical (dropOlder slice th s) :=
  canonical_foldl hc (fun _ _ h1 => canonical_ite (canonical_settle (canonical_setWord h1)) h1)

theorem canonical_chainAppend {k : RegKind} {th : Thr} {va : Word} (hc : Canonical s) :
    Canonical (chainAppend k th va s) := by
  refine canonical_unless (canonical_vput hc) ?_
  intro h1
  split
  · exact canonical_vput64 h1
  · exact canonical_vput64 h1

theorem canonical_register {k : RegKind} {th : Thr} {at_ : Word} {w slice : Nat} (hc : Canonical s) :
    Canonical (register k th at_ w slice s) := by
  refine canonical_ite ?_ (canonical_chainAppend (canonical_setWord (canonical_dropOlder hc)))
  dsimp only
  split
  · exact canonical_setWord (canonical_dropOlder hc)
  · exact canonical_setWord (canonical_dropOlder hc)

theorem canonical_noteWriteOf {p home : Nat} (hc : Canonical s) : Canonical (noteWriteOf p home s) := canonical_mapThread hc

theorem canonical_noteWrite {home : Nat} (hc : Canonical s) : Canonical (noteWrite home s) := canonical_noteWriteOf hc

theorem canonical_setFe {v : Bool} {w : Nat} (hc : Canonical s) : Canonical (setFe v w s) :=
  canonical_settle (canonical_setWord (canonical_dirtyLine hc))

theorem canonical_feAct {op : FeOp} {th : Thr} {va : Word} {pa size : Nat} {x : Word} (hc : Canonical s) :
    Canonical (feAct op th va pa size x s).2 := by
  unfold feAct
  dsimp only
  split
  · exact canonical_ite_snd
        (canonical_settle (canonical_touchWord (canonical_setWord (canonical_dirtyLine (canonical_replayLog hc))))) hc
  · exact canonical_ite_snd
        (canonical_settle
           (canonical_noteWriteOf
              (canonical_performWrite
                 (canonical_setDirty (canonical_setWord (canonical_dirtyLine (canonical_replayLog hc)))))))
        hc
  · exact canonical_setFe (canonical_touchWord (canonical_replayLog hc))
  · exact canonical_setFe (canonical_touchWord (canonical_replayLog hc))
  · exact hc
  · exact canonical_ite_snd hc hc

theorem canonical_feFail {op : FeOp} {va : Word} {pa : Nat} (hc : Canonical s) : Canonical (feFail op va pa s) := by
  unfold feFail
  split
  · exact canonical_ite (canonical_after (canonical_inFlight hc))
        (canonical_park (canonical_register (canonical_abandon hc)))
  · exact hc

theorem canonical_feResult {op : FeOp} {d size : Nat} {v : Word} {mo : BitVec 2} (hc : Canonical s) :
    Canonical (feResult op d size v mo s) := by
  unfold feResult
  dsimp only
  split
  · exact canonical_writeDst (canonical_clearNoMerge (canonical_me hc))
  · exact canonical_writeDst (canonical_clearNoMerge (canonical_me hc))
  · exact canonical_writeDst (canonical_clearNoMerge (canonical_me hc))
  · exact canonical_raiseFloor hc

theorem canonical_feSend {op : FeOp} {d size : Nat} {x : Word} {mo : BitVec 2} {ss : List Src} {e : Elem}
    (hc : Canonical s) : Canonical (feSend op d size x mo ss e s) := by
  refine canonical_ite ?_
      (canonical_ite (canonical_raise hc)
         (canonical_ite (canonical_waitRetry hc)
            (canonical_ite (canonical_complete hc (canonical_enqueue (canonical_me (canonical_commit hc))))
               (canonical_postOrd
                  (canonical_clearNoMerge (canonical_inFlight (canonical_reserve (canonical_takePops hc))))))))
  dsimp only
  split
  · exact canonical_complete hc
        (canonical_feResult (canonical_commit (canonical_snd ‹_› (canonical_feAct (canonical_usePlace hc)))))
  · exact canonical_feFail (canonical_inFlight (canonical_reserve (canonical_takePops hc)))

theorem canonical_feInstr {op : FeOp} {d size : Nat} {va x : Word} {sc : BitVec 3} {mo : BitVec 2} {ss : List Src}
    (hc : Canonical s) : Canonical (feInstr op d size va x sc mo ss s) := by
  refine canonical_acqGate hc ?_
  split
  · exact (canonical_plan hc ‹_›)
  · exact hc
  · exact canonical_ite (canonical_released hc (fun _ h1 => canonical_feSend h1)) (canonical_feSend hc)

theorem kept_execFeRetry (hc : Canonical s) : Kept (execFeRetry s) := by
  unfold execFeRetry
  split
  · refine kept_next ?_
    refine canonical_withThr (canonical_taken hc) ?_
    intro _ h1
    split
    · exact canonical_postOrd h1
    · exact h1
  · exact kept_fault

theorem canonical_serveFe {w : WriteReq} {th : Thr} {op : FeOp} {va : Word} {pa size : Nat} {x : Word}
    (hc : Canonical s) : Canonical (serveFe w th op va pa size x s) := by
  refine canonical_ite ?_ ?_
  · refine canonical_ite ?_ ?_
    · refine canonical_ite (canonical_ackRequest hc) ?_
      split
      · exact canonical_failStore hc
      · exact hc
    · refine canonical_withThr hc ?_
      intro _ h1
      split
      · exact canonical_raise (canonical_abandon h1)
      · exact h1
  · split
    · exact canonical_holdBack (canonical_joinStage hc)
    · refine canonical_inOrder hc ?_
      intro _ h2
      refine canonical_ite (canonical_holdIn (canonical_prepFor h2)) ?_
      split
      · exact canonical_ite
            (canonical_ackRequest (canonical_snd ‹_› (canonical_feAct (canonical_usePlace (canonical_prepFor h2)))))
            (canonical_ite
               (canonical_withThr (canonical_prepFor h2) (fun _ h3 => canonical_raise (canonical_abandon h3)))
               (canonical_post (canonical_snd ‹_› (canonical_feAct (canonical_usePlace (canonical_prepFor h2))))))
      · exact canonical_withThr (canonical_snd ‹_› (canonical_feAct (canonical_usePlace (canonical_prepFor h2))))
            (fun _ h4 => canonical_feFail h4)

theorem canonical_serveStore {core id : Nat} (hc : Canonical s) : Canonical (serveStore core id s) := by
  unfold serveStore
  dsimp only
  split
  · exact hc
  · refine canonical_ite (canonical_ackRequest hc) ?_
    refine canonical_unless (canonical_failStore hc) ?_
    intro h1
    refine canonical_ite (canonical_ackRequest (canonical_rawWrite hc)) ?_
    refine canonical_ite
        (canonical_ite h1
           (canonical_inOrder hc
              (fun _ h2 =>
                 canonical_ite (canonical_holdIn (canonical_prepAllFor h2))
                   (canonical_postOrd (canonical_prepAllFor h2)))))
        ?_
    split
    · exact canonical_holdBack (canonical_joinStage hc)
    · exact canonical_inOrder hc
          (fun _ h3 =>
             canonical_ite (canonical_holdIn (canonical_prepAllFor h3))
               (canonical_ackRequest (canonical_performWrite (canonical_usePlace (canonical_prepAllFor h3)))))

theorem kept_execHomeWrite (hc : Canonical s) : Kept (execHomeWrite s) := by
  unfold execHomeWrite
  split
  · refine kept_next ?_
    dsimp only
    split
    · exact canonical_serveStore (canonical_taken hc)
    · exact canonical_serveAtomic (canonical_taken hc)
    · exact canonical_serveAtomic (canonical_taken hc)
    · exact canonical_serveFe (canonical_taken hc)
  · exact kept_fault

theorem kept_execReservationExpiry (hc : Canonical s) : Kept (execReservationExpiry s) := by
  unfold execReservationExpiry
  split
  · refine kept_next ?_
    dsimp only
    split
    · exact canonical_taken hc
    · exact canonical_unless (canonical_taken hc)
          (fun h1 => canonical_ite (canonical_after h1) (canonical_settle (canonical_setWord h1)))
  · exact kept_fault

theorem canonical_raiseEvent {ctx : Nat} {e : CtxEvent} (hc : Canonical s) : Canonical (raiseEvent ctx e s) :=
  canonical_postOrd hc

theorem kept_execWaitovf (hc : Canonical s) : Kept (execWaitovf s) := by
  unfold execWaitovf
  split
  · exact kept_next (canonical_foldl (canonical_taken hc) (fun _ _ h1 => canonical_raiseEvent h1))
  · exact kept_fault

end Sys2Proof.Proofs.Canonical
end

section
/-!
SUPPORT. Canonical form (O60) under thread records: an operation keeps it that is made of operations that do.
-/
namespace Sys2Proof.Proofs.Canonical
open Sys2Proof.Machine Sys2Proof.Safety
set_option Elab.async false

variable {s : State}

theorem canonical_putRec {ctx tid : Nat} {ws : List Word} (hc : Canonical s) : Canonical (putRec ctx tid ws s) :=
  canonical_vput hc

theorem canonical_setRecState {ctx tid st : Nat} (hc : Canonical s) : Canonical (setRecState ctx tid st s) :=
  canonical_vput64 hc

theorem canonical_recSlot {p ctx tid : Nat} (hc : Canonical s) : Canonical (recSlot p ctx tid s) := canonical_vput hc

theorem canonical_markResident {p ctx tid : Nat} (hc : Canonical s) : Canonical (markResident p ctx tid s) :=
  canonical_recSlot (canonical_setRecState hc)

theorem canonical_settleQueues {core : Nat} (hc : Canonical s) : Canonical (settleQueues core s) :=
  canonical_ite hc (canonical_core hc)

theorem canonical_leaveSlot {p : Nat} {occ : Occupant} (hc : Canonical s) : Canonical (leaveSlot p occ s) :=
  canonical_settleQueues
    (canonical_foldl (canonical_unless (canonical_setSlot hc) (fun h1 => canonical_core h1))
       (fun _ _ h2 => canonical_sendWake h2))

theorem canonical_freeSlot {p ctx : Nat} (hc : Canonical s) : Canonical (freeSlot p ctx s) := by
  unfold freeSlot
  dsimp only
  split
  · exact canonical_offerWork (canonical_leaveSlot hc)
  · split
    · exact canonical_postHandler (canonical_leaveSlot hc)
    · exact canonical_leaveSlot hc

theorem canonical_unbindEng {cell e : Nat} (hc : Canonical s) : Canonical (unbindEng cell e s) := by
  refine canonical_foldl hc ?_
  intro _ _ h1
  dsimp only
  split
  · exact canonical_ite (canonical_thread h1) h1
  · exact canonical_ite (canonical_setSlot h1) h1
  · exact h1

theorem canonical_endEng {cell e : Nat} (hc : Canonical s) : Canonical (endEng cell e s) :=
  canonical_offerWork (canonical_mapEng hc)

theorem canonical_releaseEng {cell e : Nat} (hc : Canonical s) : Canonical (releaseEng cell e s) :=
  canonical_ite hc
    (canonical_ite (canonical_endEng (canonical_unbindEng hc)) (canonical_mapEng (canonical_unbindEng hc)))

theorem canonical_releaseEngs {core tid ctx : Nat} (hc : Canonical s) : Canonical (releaseEngs core tid ctx s) :=
  canonical_foldl hc (fun _ _ h1 => canonical_ite (canonical_releaseEng h1) h1)

theorem canonical_mapCopy {core e : Nat} {f : CopyCtx → CopyCtx} (hc : Canonical s) : Canonical (mapCopy core e f s) :=
  canonical_core hc

theorem canonical_releaseCopies {core tid ctx : Nat} {all : Bool} (hc : Canonical s) :
    Canonical (releaseCopies core tid ctx all s) := by
  refine canonical_foldl hc ?_
  intro _ _ h1
  refine canonical_foldl h1 ?_
  intro _ _ h2
  refine canonical_ite ?_ h2
  split
  · exact canonical_mapCopy h2
  · exact canonical_ite (canonical_mapCopy h2) h2
  · exact canonical_ite (canonical_mapCopy h2) h2
  · exact h2

theorem canonical_dropArms {core tid ctx : Nat} (hc : Canonical s) : Canonical (dropArms core tid ctx s) :=
  canonical_foldl (canonical_foldl hc (fun _ _ h1 => canonical_ite (canonical_mapCopy h1) h1))
    (fun _ _ h2 => canonical_ite (canonical_mapEng h2) h2)

theorem canonical_writePool {ctx k tid : Nat} (hc : Canonical s) : Canonical (writePool ctx k tid s) :=
  canonical_keepCtx (canonical_vput hc) (canonical_vput hc) rfl rfl rfl

theorem canonical_enterPool {ctx tid core prio : Nat} (hc : Canonical s) : Canonical (enterPool ctx tid core prio s) :=
  canonical_offerWork
    (canonical_ctx (canonical_writePool hc)
       ⟨Tab.wf_put _ _ (ctxOk_ctxAt (canonical_writePool hc) _).1,
         (ctxOk_ctxAt (canonical_writePool hc) _).2.1,
         (ctxOk_ctxAt (canonical_writePool hc) _).2.2⟩)

theorem canonical_noteCore {t : Thread} {core : Nat} (hc : Canonical s) : Canonical (noteCore t core s) :=
  canonical_keepCtx hc hc rfl rfl rfl

theorem canonical_writeOut {p : Nat} {t : Thread} {state : Nat} {pc : BitVec 48} (hc : Canonical s) :
    Canonical (writeOut p t state pc s) :=
  canonical_ite
    (canonical_leaveSlot
       (canonical_trace (canonical_noteCore (canonical_releaseCopies (canonical_releaseEngs (canonical_putRec hc))))))
    (canonical_freeSlot
       (canonical_trace (canonical_noteCore (canonical_releaseCopies (canonical_releaseEngs (canonical_putRec hc))))))

theorem canonical_putTaskLink {ctx tid : Nat} {task fmtp sclp : Word} (hc : Canonical s) :
    Canonical (putTaskLink ctx tid task fmtp sclp s) := canonical_vput hc

theorem canonical_resumeInto {p ctx tid : Nat} {binds : Vector (Option Nat) 4} (hc : Canonical s) :
    Canonical (resumeInto p ctx tid binds s) := by
  refine canonical_ite ?_
      (canonical_nextFresh (canonical_markResident (canonical_thread (canonical_keepCtx hc hc rfl rfl rfl))))
  refine canonical_raiseEvent ?_
  split
  · exact canonical_freeSlot hc
  · exact hc

theorem canonical_recReady {ctx tid : Nat} (hc : Canonical s) : Canonical (recReady ctx tid s) := by
  unfold recReady
  dsimp only
  split
  · exact canonical_ite (canonical_resumeInto hc) hc
  · exact canonical_ite hc (canonical_enterPool hc)

theorem canonical_resumePinned {p : Nat} (hc : Canonical s) : Canonical (resumePinned p s) := by
  unfold resumePinned
  split
  · exact canonical_ite (canonical_resumeInto hc) hc
  · exact hc

theorem canonical_countDrop {core : Nat} (hc : Canonical s) : Canonical (countDrop core s) := canonical_core hc

theorem canonical_holdWake {ctx tid : Nat} {m : Msg} (hc : Canonical s) : Canonical (holdWake ctx tid m s) :=
  canonical_ite (canonical_countDrop (canonical_vput64 hc)) (canonical_vput64 (canonical_vput hc))

end Sys2Proof.Proofs.Canonical
end

section
/-!
SUPPORT. Canonical form (O60) under tiles: an operation keeps it that is made of operations that do.
-/
namespace Sys2Proof.Proofs.Canonical
open Sys2Proof.Machine Sys2Proof.Safety
set_option Elab.async false

variable {s : State}

theorem canonical_withTile {h : Word} {k : Nat → TileEnt → State} (hc : Canonical s) (hk : ∀ x y, Canonical (k x y)) :
    Canonical (withTile h s k) := by
  unfold withTile
  split
  · exact hk _ _
  · exact canonical_raise hc

theorem canonical_wakeSlot {core i : Nat} (hc : Canonical s) : Canonical (wakeSlot core i s) :=
  canonical_foldl (canonical_ite hc (canonical_mapTslot hc)) (fun _ _ h1 => canonical_sendWake h1)

theorem canonical_freeTslot {core i : Nat} (hc : Canonical s) : Canonical (freeTslot core i s) :=
  canonical_mapTslot (canonical_wakeSlot hc)

theorem canonical_nameTile {h : Word} {k : Nat → TileSlot → State} (hc : Canonical s)
    (hk : ∀ x y, Canonical (k x y)) : Canonical (nameTile h s k) := by
  unfold nameTile
  dsimp only
  split
  · exact canonical_raise hc
  · exact canonical_ite (canonical_raise (canonical_mapTslot hc))
        (canonical_ite (hk _ _) (canonical_ite (canonical_waitRetry hc) (canonical_park (canonical_joinStage hc))))

theorem canonical_lineRecall {slice : Nat} {e : TileEnt} (hc : Canonical s) : Canonical (lineRecall slice e s).2 := by
  refine canonical_foldl_snd hc ?_
  intro _ _ h1
  split
  · exact h1
  · exact canonical_invalidateLine (canonical_prepCopies h1)

theorem canonical_countFlits {n : Nat} {ports : List (Nat × Nat)} (hc : Canonical s) : Canonical (countFlits n ports s) := by
  have key : ∀ t : Tab Nat, Tab.wf 0 t = true →
      Tab.wf 0 (ports.foldl (fun t x => t.put 0 (5 * x.1 + x.2) (t.get 0 (5 * x.1 + x.2) + n)) t) = true := by
    induction ports with
    | nil => exact fun _ h => h
    | cons x l ih => exact fun t h => ih _ (Tab.wf_put _ _ h)
  exact canonical_flits hc (key _ hc.2.2.2.2.2.2.2.2.2.2.2.2.1)

theorem canonical_fillDue {beats missing : List Nat} {data : List Byte} {core ts : Nat} (hc : Canonical s) :
    Canonical (fillDue beats missing data core ts s) := canonical_after hc

theorem canonical_startSend {slice : Nat} {e : TileEnt} {beats : List Nat} {dests : List (Nat × Nat × List Nat)}
    (hc : Canonical s) : Canonical (startSend slice e beats dests s) :=
  canonical_chargeMove
    (canonical_countFlits
       (canonical_nextFresh (canonical_foldl (canonical_setSlice hc) (fun _ _ h1 => canonical_fillDue h1))))

theorem canonical_joinSend {slice : Nat} {e : TileEnt} {x : TileSend} {cores : List (Nat × Nat)} (hc : Canonical s) :
    Canonical (joinSend slice e x cores s) := canonical_countFlits (canonical_setSlice hc)

theorem canonical_sendTile {slice : Nat} {e : TileEnt} {cores : List (Nat × Nat)} (hc : Canonical s) :
    Canonical (sendTile slice e cores s) := by
  unfold sendTile
  dsimp only
  split
  · exact canonical_joinSend hc
  · exact canonical_startSend hc

theorem canonical_endSend {slice : Nat} {e : TileEnt} (hc : Canonical s) : Canonical (endSend slice e s) := by
  unfold endSend
  split
  · exact hc
  · exact canonical_ite hc (canonical_unless (canonical_setSlice hc) (fun h1 => canonical_startSend h1))

theorem canonical_tileEmptied {slice : Nat} {e : TileEnt} {cores : List Nat} (hc : Canonical s) :
    Canonical (tileEmptied slice e cores s).2 :=
  canonical_ite_snd hc
    (canonical_ite_snd (canonical_ite (canonical_recallCopies hc) hc)
       (canonical_ite_snd (canonical_lineRecall hc) hc))

theorem canonical_tileAlone {slice : Nat} {e : TileEnt} {cores : List Nat} (hc : Canonical s) :
    Canonical (tileAlone slice e cores s).2 := canonical_unless (canonical_tileEmptied hc) (fun h1 => canonical_mapTile h1)

theorem canonical_tileClear {cmd : CmdName} {slice : Nat} {e : TileEnt} (hc : Canonical s) :
    Canonical (tileClear cmd slice e s).2 :=
  canonical_ite_snd hc (canonical_unless (canonical_tileEmptied hc) (fun h1 => canonical_mapTile h1))

theorem canonical_grantStage {slice : Nat} {e : TileEnt} {own : Bool} {cores : List (Nat × Nat)} (hc : Canonical s) :
    Canonical (grantStage slice e own cores s) :=
  canonical_sendTile
    (canonical_when
       (canonical_when
          (canonical_foldl (canonical_mapTile hc) (fun _ _ h3 => canonical_ite (canonical_mapTslot h3) h3))
          (fun h2 => canonical_after h2))
       (fun h1 => canonical_foldl h1 (fun _ _ h4 => canonical_setDirty h4)))

theorem canonical_serveStage {own : Bool} {rs : List (Nat × Nat)} {again : Event} (hc : Canonical s) :
    Canonical (serveStage own rs again s) := by
  unfold serveStage
  dsimp only
  split
  · exact hc
  · split
    · exact canonical_foldl hc (fun _ _ h1 => canonical_freeTslot h1)
    · refine canonical_inOrder hc ?_
      intro _ h2
      split
      · exact canonical_foldl h2 (fun _ _ h3 => canonical_post h3)
      · exact canonical_foldl (canonical_mapTile h2) (fun _ _ h4 => canonical_mapTslot (canonical_wakeSlot h4))
      · exact canonical_ite (canonical_holdIn h2)
            (canonical_ite (canonical_grantStage h2)
               (canonical_ite (canonical_holdIn (canonical_tileAlone h2))
                  (canonical_grantStage (canonical_tileAlone h2))))

theorem kept_execStageRead (hc : Canonical s) : Kept (execStageRead s) := by
  unfold execStageRead
  split
  · exact kept_next (canonical_serveStage (canonical_taken hc))
  · exact kept_fault

theorem kept_execStageOwn (hc : Canonical s) : Kept (execStageOwn s) := by
  unfold execStageOwn
  split
  · exact kept_next (canonical_serveStage (canonical_taken hc))
  · exact kept_fault

theorem kept_execStageHoldExpiry (hc : Canonical s) : Kept (execStageHoldExpiry s) := by
  unfold execStageHoldExpiry
  split
  · refine kept_next ?_
    dsimp only
    split
    · exact canonical_when (canonical_taken hc) (fun h1 => canonical_mapTile h1)
    · exact canonical_taken hc
  · exact kept_fault

theorem canonical_writeTileBytes {slice : Nat} {e : TileEnt} {tag : BitVec 16} {bytes : List (Nat × Nat)}
    (hc : Canonical s) : Canonical (writeTileBytes slice e tag bytes s) :=
  canonical_mapTile
    (canonical_foldl (canonical_foldl (canonical_rawWrite hc) (fun _ _ h1 => canonical_setDirty h1))
       (fun _ _ h2 => canonical_touchWord h2))

theorem canonical_drainData {slice : Nat} {e : TileEnt} {core off : Nat} (hc : Canonical s) :
    Canonical (drainData slice e core off s) := by
  refine canonical_foldl (canonical_chargeMove hc) ?_
  intro _ _ h1
  split
  · exact canonical_foldl (canonical_rawWrite (canonical_ite h1 (canonical_setDir h1)))
        (fun _ _ h2 => canonical_touchWord h2)
  · exact h1

theorem kept_execTileDrain (hc : Canonical s) : Kept (execTileDrain s) := by
  unfold execTileDrain
  split
  · refine kept_next ?_
    dsimp only
    split
    · exact canonical_postOrd
          (canonical_mapTile (canonical_when (canonical_taken hc) (fun h1 => canonical_drainData h1)))
    · exact canonical_post (canonical_taken hc)
  · exact kept_fault

theorem kept_execTileDrop (hc : Canonical s) : Kept (execTileDrop s) := by
  unfold execTileDrop
  split
  · refine kept_next ?_
    dsimp only
    split
    · exact canonical_mapTile (canonical_taken hc)
    · exact canonical_taken hc
  · exact kept_fault

theorem canonical_sendDrop {core : Nat} {t : TileSlot} (hc : Canonical s) : Canonical (sendDrop core t s) :=
  canonical_postOrd hc

theorem canonical_giveBack {core i : Nat} {lost : Bool} (hc : Canonical s) : Canonical (giveBack core i lost s) :=
  canonical_ite (canonical_postOrd (canonical_mapTslot hc))
    (canonical_sendDrop (canonical_ite (canonical_mapTslot hc) (canonical_freeTslot hc)))

theorem kept_execTileRecall (hc : Canonical s) : Kept (execTileRecall s) := by
  unfold execTileRecall
  split
  · refine kept_next ?_
    dsimp only
    split
    · split
      · exact canonical_giveBack (canonical_taken hc)
      · exact canonical_ite (canonical_sendDrop (canonical_taken hc)) (canonical_mapTslot (canonical_taken hc))
      · exact canonical_taken hc
      · exact canonical_sendDrop (canonical_taken hc)
    · exact canonical_postOrd (canonical_taken hc)
  · exact kept_fault

theorem kept_execTileFillComplete (hc : Canonical s) : Kept (execTileFillComplete s) := by
  unfold execTileFillComplete
  split
  · exact kept_next
        (canonical_unless (canonical_taken hc)
           (fun h1 =>
              canonical_when
                (canonical_elim
                   (canonical_wakeSlot
                      (canonical_mapTslot
                         (canonical_foldl (canonical_rawWrite h1) (fun _ _ h3 => canonical_touchWord h3))))
                   (fun _ =>
                      canonical_endSend
                        (canonical_wakeSlot
                           (canonical_mapTslot
                              (canonical_foldl (canonical_rawWrite h1) (fun _ _ h4 => canonical_touchWord h4))))))
                (fun h2 => canonical_giveBack h2)))
  · exact kept_fault

theorem kept_execTileWritebackAck (hc : Canonical s) : Kept (execTileWritebackAck s) := by
  unfold execTileWritebackAck
  split
  · exact kept_next
        (canonical_unless (canonical_taken hc)
           (fun h1 => canonical_ite (canonical_wakeSlot (canonical_mapTslot h1)) (canonical_freeTslot h1)))
  · exact kept_fault

theorem kept_execDeferExpiry (hc : Canonical s) : Kept (execDeferExpiry s) := by
  unfold execDeferExpiry
  split
  · exact kept_next (canonical_when (canonical_taken hc) (fun h1 => canonical_giveBack h1))
  · exact kept_fault

theorem canonical_execTdecl_declare {ss : List Src} {d : BitVec 5} {desc : TileDesc} {slice : Nat} {s0 : State}
    (hc : Canonical s0) : Canonical (execTdecl.declare ss d desc slice s0) := by
  unfold execTdecl.declare
  dsimp only
  split
  · exact canonical_raise hc
  split
  · exact canonical_complete hc (canonical_writeDst (canonical_commit (canonical_vput (canonical_setSlice hc))))
  · exact canonical_complete hc (canonical_writeDst (canonical_commit hc))

theorem kept_execTdecl {d a : BitVec 5} {ma : BitVec 2} (hc : Canonical s) : Kept (execTdecl d a ma s) := by
  refine kept_withOps hc ?_
  intro _
  refine canonical_acqGate hc ?_
  refine canonical_ite (canonical_raise hc) ?_
  refine canonical_atHome hc ?_
  intro _ _ h1
  dsimp only
  split
  · exact canonical_raise h1
  · split
    · exact canonical_ite (canonical_raise h1) (canonical_execTdecl_declare h1)
    · split
      · exact canonical_missPark h1
      · exact canonical_ite (canonical_raise h1) (canonical_execTdecl_declare h1)

theorem canonical_retryWaiting {ctx : Nat} (hc : Canonical s) : Canonical (retryWaiting ctx s) := by
  have hok := ctxOk_ctxAt hc ctx
  refine canonical_when hc fun h1 => canonical_foldl (canonical_ctx h1 ⟨hok.1, ?_, hok.2.2⟩) fun _ _ h2 => canonical_offerWork h2
  exact wf_map (f := fun l : List TaskEnt => l.map (fun e => { e with waits := false }))
    (fun l hl h => hl (List.map_eq_nil_iff.1 h)) hok.2.1

theorem canonical_retryAllWaiting (hc : Canonical s) : Canonical (retryAllWaiting s) :=
  canonical_foldl hc (fun _ _ h1 => canonical_retryWaiting h1)

theorem canonical_freeTile {slice : Nat} {e : TileEnt} (hc : Canonical s) : Canonical (freeTile slice e s) :=
  canonical_retryAllWaiting
    (canonical_foldl (canonical_vput64 (canonical_setSlice hc)) (fun _ _ h1 => canonical_freeTslot h1))

theorem canonical_emptyTile {slice : Nat} {e : TileEnt} (hc : Canonical s) : Canonical (emptyTile slice e s).2 :=
  canonical_ite_snd (canonical_mapTile (canonical_recallTile hc)) hc

theorem kept_execTfree {a : BitVec 5} {ma : BitVec 2} (hc : Canonical s) : Kept (execTfree a ma s) :=
  kept_withOps hc
    (fun _ =>
       canonical_acqGate hc
         (canonical_withTile hc
            (fun _ _ =>
               canonical_released hc
                 (fun _ h1 =>
                    canonical_withTile h1
                      (fun _ _ =>
                         canonical_ite (canonical_waitRetry h1)
                           (canonical_ite (canonical_raise h1)
                              (canonical_ite (canonical_waitRetry (canonical_emptyTile h1))
                                 (canonical_complete h1 (canonical_freeTile (canonical_commit h1))))))))))

theorem canonical_takeTslot {core i : Nat} {e : TileEnt} {own : Bool} {off priv : Nat} {task : Word}
    (hc : Canonical s) : Canonical (takeTslot core i e own off priv task s) := canonical_mapTslot (canonical_wakeSlot hc)

theorem canonical_execTstage_stage {ss : List Src} {d : BitVec 5} {core i : Nat} {e : TileEnt} {own : Bool} {off : Nat}
    (hc : Canonical s) : Canonical (execTstage.stage ss d core i e own off s) :=
  canonical_ite (canonical_raise hc)
    (canonical_advance (canonical_writeDst (canonical_commit (canonical_post (canonical_takeTslot hc)))))

theorem kept_execTstage {d a b : BitVec 5} {ma mb : BitVec 2} (hc : Canonical s) : Kept (execTstage d a b ma mb s) := by
  refine kept_withOps hc ?_
  intro _
  refine canonical_acqGate hc ?_
  refine canonical_withTile hc ?_
  intro _ _
  refine canonical_ite (canonical_raise hc) ?_
  refine canonical_released hc ?_
  intro _ h1
  dsimp only
  split
  · split
    · exact canonical_park (canonical_joinStage h1)
    · exact canonical_complete h1 (canonical_writeDst (canonical_commit h1))
    · exact canonical_ite (canonical_complete h1 (canonical_writeDst (canonical_commit h1)))
          (canonical_ite (canonical_raise h1)
             (canonical_complete (canonical_post (canonical_mapTslot h1))
                (canonical_writeDst (canonical_commit (canonical_post (canonical_mapTslot h1))))))
    · exact canonical_execTstage_stage h1
  · split
    · exact canonical_execTstage_stage h1
    · exact canonical_complete h1 (canonical_writeDst (canonical_commit h1))

theorem kept_execTdrain {a : BitVec 5} {ma : BitVec 2} (hc : Canonical s) : Kept (execTdrain a ma s) := by
  refine kept_withOps hc ?_
  intro _
  refine canonical_acqGate hc ?_
  refine canonical_withTile hc ?_
  intro _ _
  refine canonical_released hc ?_
  intro _ h1
  dsimp only
  split
  · exact canonical_complete h1 (canonical_commit h1)
  · split
    · exact canonical_complete h1 (canonical_commit (canonical_freeTslot h1))
    · exact canonical_park (canonical_joinStage h1)
    · exact canonical_ite (canonical_raise h1)
          (canonical_ite (canonical_waitRetry (canonical_giveBack h1))
             (canonical_complete h1 (canonical_commit (canonical_giveBack h1))))
    · exact canonical_waitRetry h1

theorem kept_execTtag {d a : BitVec 5} {ma : BitVec 2} (hc : Canonical s) : Kept (execTtag d a ma s) :=
  kept_withOps hc
    (fun _ =>
       canonical_acqGate hc
         (canonical_withTile hc
            (fun _ _ => canonical_complete hc (canonical_raiseFloor (canonical_writeDst (canonical_commit hc))))))

theorem kept_execTsettag {a b : BitVec 5} {ma mb : BitVec 2} (hc : Canonical s) : Kept (execTsettag a b ma mb s) :=
  kept_withOps hc
    (fun _ =>
       canonical_acqGate hc
         (canonical_withTile hc
            (fun _ _ =>
               canonical_ite (canonical_raise hc)
                 (canonical_released hc
                    (fun _ h1 =>
                       canonical_withTile h1
                         (fun _ _ =>
                            canonical_ite (canonical_waitRetry h1)
                              (canonical_complete h1 (canonical_mapTile (canonical_commit h1)))))))))

theorem kept_execTinv {a : BitVec 5} {ma : BitVec 2} (hc : Canonical s) : Kept (execTinv a ma s) := by
  refine kept_withOps hc ?_
  intro _
  refine canonical_acqGate hc ?_
  refine canonical_withTile hc ?_
  intro _ _
  dsimp only
  split
  · exact canonical_complete hc (canonical_commit hc)
  · split
    · exact canonical_raise hc
    · exact canonical_missPark hc
    · split
      · exact canonical_complete hc (canonical_commit (canonical_freeTslot hc))
      · exact canonical_park (canonical_joinStage hc)
      · exact canonical_complete hc (canonical_commit (canonical_sendDrop (canonical_freeTslot hc)))
      · exact canonical_complete hc (canonical_commit hc)

theorem kept_execMcast {d a b : BitVec 5} {ma mb : BitVec 2} (hc : Canonical s) : Kept (execMcast d a b ma mb s) := by
  refine kept_withOps hc fun _ => canonical_acqGate hc (canonical_withTile hc fun _ e => ?_)
  dsimp only
  split
  · exact canonical_raise hc
  refine canonical_ite (canonical_raise hc) (canonical_released hc fun u h1 => ?_)
  refine canonical_complete h1 (canonical_writeDst (canonical_commit (canonical_unless ?_ fun h2 => canonical_post h2)))
  refine canonical_foldl_snd2 h1 fun r i h2 => ?_
  split
  · exact h2
  split
  · exact h2
  · exact h2
  · exact canonical_takeTslot h2

theorem kept_execTfwd {d a b : BitVec 5} {ma mb : BitVec 2} (hc : Canonical s) : Kept (execTfwd d a b ma mb s) := by
  refine kept_withOps hc ?_
  intro _
  refine canonical_acqGate hc ?_
  refine canonical_withTile hc ?_
  intro _ _
  refine canonical_ite (canonical_raise hc) ?_
  dsimp only
  split
  · exact canonical_raise hc
  · refine canonical_released hc ?_
    intro _ h1
    refine canonical_ite (canonical_complete h1 (canonical_writeDst (canonical_commit h1))) ?_
    refine canonical_ite
        (canonical_nameTile h1
           (fun _ _ =>
              canonical_ite (canonical_raise h1)
                (canonical_postOrd (canonical_inFlight (canonical_reportUse (canonical_commit h1))))))
        ?_
    split
    · exact canonical_complete h1 (canonical_writeDst (canonical_commit h1))
    · exact canonical_complete h1 (canonical_writeDst (canonical_commit h1))
    · exact canonical_complete h1 (canonical_writeDst (canonical_commit (canonical_post (canonical_takeTslot h1))))

theorem canonical_moveCopy {core ts target off : Nat} {task : Word} (hc : Canonical s) :
    Canonical (moveCopy core ts target off task s).2 := by
  unfold moveCopy
  dsimp only
  split
  · exact hc
  · split
    · exact canonical_freeTslot
          (canonical_mapTile
             (canonical_mapTslot
                (canonical_wakeSlot
                   (canonical_foldl (canonical_rawWrite (canonical_chargeMove hc))
                      (fun _ _ h1 => canonical_touchWord h1)))))
    · exact hc

theorem kept_execTfwdTransfer (hc : Canonical s) : Kept (execTfwdTransfer s) := by
  unfold execTfwdTransfer
  split
  · refine kept_next ?_
    refine canonical_withThr (canonical_taken hc) ?_
    intro _ h1
    split
    · exact canonical_ite
          (canonical_ite (canonical_raise h1) (canonical_ite (canonical_raise h1) (canonical_raise h1)))
          (canonical_ite (canonical_holdBack (canonical_joinStage h1))
             (canonical_advance (canonical_writeDst (canonical_moveCopy h1))))
    · exact h1
  · exact kept_fault

end Sys2Proof.Proofs.Canonical
end

section
/-!
SUPPORT. Canonical form (O60) under barriers: an operation keeps it that is made of operations that do.
-/
namespace Sys2Proof.Proofs.Canonical
open Sys2Proof.Machine Sys2Proof.Safety
set_option Elab.async false

variable {s : State}

theorem canonical_writeBar {a : BarAt} {r : BarRec} (hc : Canonical s) : Canonical (writeBar a r s) :=
  canonical_performWrite (canonical_setDirty hc)

theorem canonical_wakeList {ctx : Nat} {m : Msg} {n tid : Nat} (hc : Canonical s) : Canonical (wakeList ctx m n tid s) := by
  induction n generalizing tid s with
  | zero => exact hc
  | succ n ih =>
    have hsent : Canonical (sendWake ⟨wakeSlotOf (vput ctx (barLink s ctx tid) (wordsBytes [0, 0]) s) ctx tid, ctx, tid⟩ m
        (vput ctx (barLink s ctx tid) (wordsBytes [0, 0]) s)) := canonical_sendWake (canonical_vput hc)
    exact canonical_ite hsent (ih hsent)

theorem canonical_wakeAll {a : BarAt} {r : BarRec} {phase status : Nat} {pending : Int} (hc : Canonical s) :
    Canonical (wakeAll a r phase status pending s).2 := canonical_ite_snd (canonical_wakeList hc) hc

theorem canonical_barOverrun {a : BarAt} {r : BarRec} {status : Nat} (hc : Canonical s) :
    Canonical (barOverrun a r status s) := canonical_errorRec (canonical_writeBar (canonical_wakeAll hc))

theorem canonical_barComplete {a : BarAt} {r : BarRec} (hc : Canonical s) : Canonical (barComplete a r s) :=
  canonical_writeBar (canonical_wakeAll hc)

theorem canonical_barCheck {a : BarAt} {r : BarRec} (hc : Canonical s) : Canonical (barCheck a r s).2 :=
  canonical_ite_snd (canonical_barComplete hc) (canonical_writeBar hc)

theorem canonical_barArrive {a : BarAt} {r : BarRec} {n : Nat} (hc : Canonical s) : Canonical (barArrive a r n s).2 :=
  canonical_ite_snd (canonical_barOverrun (canonical_nextFresh hc))
    (canonical_ite_snd (canonical_barCheck hc) (canonical_writeBar hc))

theorem canonical_barExpect {a : BarAt} {r : BarRec} {b : Nat} {post_ : Bool} (hc : Canonical s) :
    Canonical (barExpect a r b post_ s).2 :=
  canonical_ite_snd (canonical_barOverrun hc)
    (canonical_ite_snd (canonical_barOverrun hc) (canonical_ite_snd (canonical_barCheck hc) (canonical_writeBar hc)))

theorem canonical_barBytes {a : BarAt} {r : BarRec} {b status : Nat} (hc : Canonical s) :
    Canonical (barBytes a r b status s) :=
  canonical_ite (canonical_barOverrun hc)
    (canonical_ite (canonical_barOverrun hc) (canonical_ite (canonical_barCheck hc) (canonical_writeBar hc)))

theorem canonical_barInstr {k : Acc} {whole : Bool} {va : Word} {operandFault : Option Word}
    {act : BarAt → State → State} (hc : Canonical s) (hact : ∀ x u, Canonical u → Canonical (act x u)) :
    Canonical (barInstr k whole va s operandFault act) := by
  refine canonical_ite (canonical_raise hc) ?_
  split
  · exact (canonical_plan hc ‹_›)
  · refine canonical_unless (canonical_raise hc) ?_
    intro h1
    refine canonical_ite (canonical_raise hc) ?_
    refine canonical_ite h1 ?_
    split
    · exact canonical_raise hc
    · exact canonical_ite (canonical_waitRetry hc) (canonical_atHome hc (fun _ _ h2 => hact _ _ h2))

theorem canonical_barUsable {r : BarRec} {k : State} (hc : Canonical s) (hk : Canonical k) :
    Canonical (barUsable r s k) := canonical_ite (canonical_raise hc) (canonical_ite (canonical_raise hc) hk)

theorem kept_execBarInit {a b : BitVec 5} {ma mb : BitVec 2} (hc : Canonical s) : Kept (execBarInit a b ma mb s) :=
  kept_withOps hc
    (fun _ =>
       canonical_acqGate hc
         (canonical_barInstr hc
            (fun _ _ h1 =>
               canonical_ite (canonical_raise h1)
                 (canonical_complete h1 (canonical_commit (canonical_writeBar h1))))))

theorem kept_execBarArrive {d a b : BitVec 5} {ma mb : BitVec 2} (hc : Canonical s) :
    Kept (execBarArrive d a b ma mb s) :=
  kept_withOps hc
    (fun _ =>
       canonical_acqGate hc
         (canonical_barInstr hc
            (fun _ _ h1 =>
               canonical_released h1
                 (fun _ h2 =>
                    canonical_barUsable h2
                      (canonical_complete h2
                         (canonical_writeDst (canonical_barArrive (canonical_noteWrite (canonical_commit h2)))))))))

theorem kept_execBarExpect {d a b : BitVec 5} {ma mb : BitVec 2} (hc : Canonical s) :
    Kept (execBarExpect d a b ma mb s) :=
  kept_withOps hc
    (fun _ =>
       canonical_acqGate hc
         (canonical_barInstr hc
            (fun _ _ h1 =>
               canonical_barUsable h1
                 (canonical_complete h1 (canonical_writeDst (canonical_barExpect (canonical_commit h1)))))))

theorem canonical_barDeliver {ss : List Src} {m : Msg} {acquires : Bool} (hc : Canonical s) :
    Canonical (barDeliver ss m acquires s) :=
  canonical_complete hc (canonical_raiseFloor (canonical_me (canonical_commit hc)))

theorem kept_execBarArm {a b : BitVec 5} {ma mb : BitVec 2} (hc : Canonical s) : Kept (execBarArm a b ma mb s) :=
  kept_withOps hc
    (fun _ =>
       canonical_acqGate hc
         (canonical_barInstr hc
            (fun _ _ h1 =>
               canonical_ite (canonical_raise h1)
                 (canonical_ite (canonical_raise h1)
                    (canonical_ite (canonical_barDeliver h1)
                       (canonical_ite (canonical_barDeliver h1)
                          (canonical_ite (canonical_park (canonical_commit h1))
                             (canonical_park
                                (canonical_commit
                                   (canonical_writeBar
                                      (canonical_vput (canonical_ite (canonical_vput64 h1) h1))))))))))))

theorem kept_execBarInval {a : BitVec 5} {ma : BitVec 2} (hc : Canonical s) : Kept (execBarInval a ma s) :=
  kept_withOps hc
    (fun _ =>
       canonical_acqGate hc
         (canonical_barInstr hc
            (fun _ _ h1 =>
               canonical_ite (canonical_complete h1 (canonical_commit h1))
                 (canonical_complete h1 (canonical_writeBar (canonical_wakeAll (canonical_commit h1)))))))

theorem canonical_barCount {core ctx priv : Nat} {va : Word} {again : Event} {yes : BarAt → BarRec → State → State}
    {no : State → State} (hyes : ∀ x y u, Canonical u → Canonical (yes x y u))
    (hno : ∀ u, Canonical u → Canonical (no u)) (hc : Canonical s) :
    Canonical (barCount core ctx priv va again yes no s) := by
  unfold barCount
  split
  · exact hno _ hc
  · exact canonical_holdBack (canonical_askXlat hc)
  · exact canonical_ite (canonical_holdBack (canonical_prepFor hc))
        (canonical_ite (hyes _ _ _ (canonical_prepFor hc)) (hno _ (canonical_prepFor hc)))

theorem kept_execTaskNotifyArrival (hc : Canonical s) : Kept (execTaskNotifyArrival s) := by
  unfold execTaskNotifyArrival
  split
  · exact kept_next
        (canonical_barCount (fun _ _ _ h1 => canonical_barArrive h1)
           (fun _ h2 => canonical_errorRec (canonical_rest h2)) (canonical_taken hc))
  · exact kept_fault

end Sys2Proof.Proofs.Canonical
end

section
/-!
SUPPORT. Canonical form (O60) under tasks: an operation keeps it that is made of operations that do.
-/
namespace Sys2Proof.Proofs.Canonical
open Sys2Proof.Machine Sys2Proof.Safety
set_option Elab.async false

variable {s : State}

theorem canonical_putTw {ctx : Nat} {r : Word} {i : Nat} {v : Word} (hc : Canonical s) : Canonical (putTw ctx r i v s) :=
  canonical_vput64 hc

theorem canonical_setTw0 {ctx : Nat} {r : Word} {lo n v : Nat} (hc : Canonical s) : Canonical (setTw0 ctx r lo n v s) :=
  canonical_putTw hc

theorem canonical_setTaskState {ctx : Nat} {r : Word} {st : Nat} (hc : Canonical s) :
    Canonical (setTaskState ctx r st s) := canonical_setTw0 hc

theorem canonical_setTaskHandle {ctx : Nat} {r : Word} {x h : Nat} (hc : Canonical s) :
    Canonical (setTaskHandle ctx r x h s) := canonical_putTw hc

theorem canonical_writeTaskq {ctx k idx : Nat} (hc : Canonical s) : Canonical (writeTaskq ctx k idx s) :=
  canonical_keepCtx (canonical_vput hc) (canonical_vput hc) rfl rfl rfl

theorem canonical_makeReady {ctx : Nat} {r : Word} {chip : Nat} (hc : Canonical s) :
    Canonical (makeReady ctx r chip s) :=
  canonical_offerWork
    (canonical_ctx (canonical_writeTaskq (canonical_setTaskState hc))
       ⟨(ctxOk_ctxAt (canonical_writeTaskq (canonical_setTaskState hc)) _).1,
         Tab.wf_put _ _ (ctxOk_ctxAt (canonical_writeTaskq (canonical_setTaskState hc)) _).2.1,
         (ctxOk_ctxAt (canonical_writeTaskq (canonical_setTaskState hc)) _).2.2⟩)

theorem wf_foldl_put {α β : Type} [DecidableEq α] {d : α} {f : Tab α → β → Tab α} (hf : ∀ t x, Tab.wf d t = true → Tab.wf d (f t x) = true)
    {l : List β} {t : Tab α} (h : Tab.wf d t = true) : Tab.wf d (l.foldl f t) = true := by
  induction l generalizing t with
  | nil => exact h
  | cons x l ih => exact ih (hf t x h)

theorem canonical_mapTask {ctx : Nat} {r : Word} {chip : Nat} {f : TaskEnt → Option TaskEnt} (hc : Canonical s) :
    Canonical (mapTask ctx r chip f s) := by
  have hok := ctxOk_ctxAt hc ctx
  refine canonical_ctx hc ⟨hok.1, ?_, hok.2.2⟩
  dsimp only
  refine wf_foldl_put (fun t x h => ?_) hok.2.1
  split
  · exact Tab.wf_put _ _ h
  · exact h

theorem canonical_postTeller {chip : Nat} {ev : Event} (hc : Canonical s) : Canonical (postTeller chip ev s) :=
  canonical_rest hc

theorem canonical_tellerOffer {ctx chip : Nat} (hc : Canonical s) : Canonical (tellerOffer ctx chip s) := by
  unfold tellerOffer
  dsimp only
  split
  · exact canonical_postTeller (canonical_foldl hc (fun _ _ h1 => canonical_postTeller h1))
  · exact canonical_foldl hc (fun _ _ h2 => canonical_postTeller h2)

theorem canonical_restoreHandles {ctx : Nat} {r : Word} (hc : Canonical s) : Canonical (restoreHandles ctx r s) := by
  refine canonical_ite hc ?_
  refine canonical_retryWaiting ?_
  refine canonical_keepCtx ?_ ?_ rfl rfl rfl
  · refine canonical_foldl hc ?_
    intro _ _ h1
    refine canonical_ite h1 ?_
    dsimp only
    split
    · exact canonical_freeTile (canonical_foldl h1 (fun _ _ h2 => canonical_ite (canonical_setTaskHandle h2) h2))
    · exact canonical_foldl h1 (fun _ _ h3 => canonical_ite (canonical_setTaskHandle h3) h3)
  · refine canonical_foldl hc ?_
    intro _ _ h4
    refine canonical_ite h4 ?_
    dsimp only
    split
    · exact canonical_freeTile (canonical_foldl h4 (fun _ _ h5 => canonical_ite (canonical_setTaskHandle h5) h5))
    · exact canonical_foldl h4 (fun _ _ h6 => canonical_ite (canonical_setTaskHandle h6) h6)

theorem canonical_taskNotify {ctx : Nat} {r : Word} {result status chip : Nat} (hc : Canonical s) :
    Canonical (taskNotify ctx r result status chip s) := by
  unfold taskNotify
  dsimp only
  split
  · exact canonical_sendWake hc
  · exact canonical_post hc
  · exact hc

theorem canonical_taskComplete {ctx : Nat} {r : Word} {result status chip : Nat} (hc : Canonical s) :
    Canonical (taskComplete ctx r result status chip s) :=
  canonical_taskNotify
    (canonical_unless
       (canonical_when (canonical_putTw (canonical_setTaskState hc)) (fun h2 => canonical_restoreHandles h2))
       (fun h1 => canonical_foldl h1 (fun _ _ h3 => canonical_post h3)))

theorem canonical_countMalformed {ctx : Nat} (hc : Canonical s) : Canonical (countMalformed ctx s) :=
  canonical_ite hc (canonical_rest hc)

theorem canonical_exactMatch {ctx chip key : Nat} (hc : Canonical s) : Canonical (exactMatch s ctx chip key).2 := by
  unfold exactMatch
  dsimp only
  split
  · exact hc
  · split
    · exact canonical_countMalformed hc
    · exact canonical_keepCtx (canonical_countMalformed hc) (canonical_countMalformed hc) rfl rfl rfl

theorem canonical_declareScratch {ctx : Nat} {desc : TileDesc} {x : Nat × State} (hc : Canonical s)
    (e : declareScratch ctx desc s = some x) : Canonical x.2 := by
  unfold declareScratch at e
  dsimp only at e
  split at e
  · exact Option.some.inj e ▸ canonical_vput (canonical_setSlice hc)
  · cases e

theorem canonical_insertRecord {ctx : Nat} {r : Word} {u a c : Nat} {m : Method} {chip : Nat} (hc : Canonical s) :
    Canonical (insertRecord ctx r u a c m chip s) := canonical_makeReady (canonical_vput hc)

theorem canonical_insertOne {ctx : Nat} {r : Word} {x : Nat} {m : Method} {conv : Bool} {chip : Nat} {u : State} (hc : Canonical s)
    (e : insertOne ctx r x m conv chip s = some u) : Canonical u := by
  unfold insertOne at e
  dsimp only at e
  split at e
  · cases e
  split at e
  · split at e
    · cases e
    · obtain ⟨q, hq, rfl⟩ := Option.map_eq_some_iff.1 e
      refine canonical_setTaskHandle (canonical_setTw0 (canonical_insertRecord (canonical_declareScratch ?_ hq)))
      exact canonical_keepCtx hc hc rfl rfl rfl
  · rw [← Option.some.inj e]
    exact canonical_setTw0 (canonical_insertRecord (canonical_keepCtx hc hc rfl rfl rfl))

theorem canonical_insertPlan {ctx : Nat} {r : Word} {conv : Bool} {chip : Nat} {plan : List (Nat × Method)} {u : State}
    (hc : Canonical s) (e : insertPlan ctx r conv chip plan s = some u) : Canonical u := by
  induction plan generalizing s with
  | nil => exact Option.some.inj e ▸ hc
  | cons x rest ih =>
    obtain ⟨v, hv, hu⟩ := Option.bind_eq_some_iff.1 e
    exact ih (canonical_insertOne hc hv) hu

theorem canonical_noMethod {ctx : Nat} {r : Word} {chip reason : Nat} (hc : Canonical s) :
    Canonical (noMethod ctx r chip reason s) := canonical_raiseEvent (canonical_mapTask (canonical_setTaskState hc))

theorem canonical_setMatched {ctx : Nat} {r : Word} {chip m : Nat} (hc : Canonical s) :
    Canonical (setMatched ctx r chip m s) :=
  canonical_offerWork (canonical_mapTask (canonical_putTw (canonical_setTaskState hc)))

theorem canonical_applyPlan {ctx : Nat} {r : Word} {chip : Nat} {conv : Bool} {plan : List (Nat × Method)} (hc : Canonical s) :
    Canonical (applyPlan ctx r chip conv plan s) := by
  have hinsert : ∀ {u v : State}, Canonical u → (insertPlan ctx r conv chip plan u).map (fun s =>
      mapTask ctx r chip (fun _ => none) (setTw0 ctx r 16 16 plan.length (setTaskState ctx r tPending s))) = some v → Canonical v := by
    intro u v hu e
    obtain ⟨w, hw, rfl⟩ := Option.map_eq_some_iff.1 e
    exact canonical_mapTask (canonical_setTw0 (canonical_setTaskState (canonical_insertPlan hu hw)))
  unfold applyPlan
  refine canonical_ite (canonical_noMethod hc) ?_
  dsimp only
  split
  · exact hinsert hc ‹_›
  refine canonical_ite (canonical_mapTask hc) ?_
  split
  · refine canonical_retryWaiting (hinsert ?_ ‹_›)
    exact canonical_keepCtx hc hc rfl rfl rfl
  · exact canonical_mapTask (canonical_retryWaiting (canonical_keepCtx hc hc rfl rfl rfl))

theorem canonical_matchTask {ctx : Nat} {r : Word} {chip : Nat} (hc : Canonical s) :
    Canonical (matchTask ctx r chip s) := by
  refine canonical_ite (canonical_noMethod hc) ?_
  refine canonical_ite (canonical_noMethod (canonical_countMalformed hc)) ?_
  refine canonical_ite (canonical_applyPlan (canonical_countMalformed hc)) ?_
  split
  · exact canonical_setMatched (canonical_snd ‹_› (canonical_exactMatch hc))
  · refine canonical_ite
        (canonical_hostEvent
           (canonical_mapTask (canonical_setTaskState (canonical_snd ‹_› (canonical_exactMatch hc)))))
        ?_
    split
    · exact canonical_noMethod (canonical_snd ‹_› (canonical_exactMatch hc))
    · exact canonical_applyPlan (canonical_snd ‹_› (canonical_exactMatch hc))

theorem canonical_answerNoMethod {ctx : Nat} {r : Word} {value : Nat} (hc : Canonical s) :
    Canonical (answerNoMethod ctx r value s) := by
  unfold answerNoMethod
  split
  · exact hc
  · exact canonical_ite (canonical_setMatched hc) (canonical_noMethod hc)

theorem kept_execTaskRead (hc : Canonical s) : Kept (execTaskRead s) := by
  unfold execTaskRead
  split
  · exact kept_next
        (canonical_ite (canonical_holdBack (canonical_taken hc))
           (canonical_unless (canonical_taken hc)
              (fun h1 => canonical_ite (canonical_setTaskState h1) (canonical_makeReady h1))))
  · exact kept_fault

theorem kept_execTaskDecrement (hc : Canonical s) : Kept (execTaskDecrement s) := by
  unfold execTaskDecrement
  split
  · exact kept_next
        (canonical_unless (canonical_taken hc)
           (fun h1 => canonical_when (canonical_setTw0 h1) (fun h2 => canonical_makeReady h2)))
  · exact kept_fault

theorem kept_execTaskMatch (hc : Canonical s) : Kept (execTaskMatch s) := by
  unfold execTaskMatch
  split
  · refine kept_next ?_
    refine canonical_ite (canonical_holdBack (canonical_taken hc)) ?_
    dsimp only
    split
    · exact canonical_taken hc
    · exact canonical_unless (canonical_taken hc)
          (fun h1 => canonical_offerWork (canonical_ite (canonical_setMatched h1) (canonical_matchTask h1)))
  · exact kept_fault

theorem canonical_claimEng {cell e ctx tid core slot : Nat} (hc : Canonical s) :
    Canonical (claimEng cell e ctx tid core slot s) := canonical_mapEng hc

theorem canonical_takeDeferred {ctx : Nat} {r : Word} {core : Nat} (hc : Canonical s) :
    Canonical (takeDeferred ctx r core s) :=
  canonical_foldl hc
    (fun _ _ h1 =>
       canonical_ite (canonical_mapTslot h1)
         (canonical_when (canonical_giveBack h1) (fun h2 => canonical_ite (canonical_moveCopy h1) h2)))

theorem canonical_startTask {ctx : Nat} {r : Word} {chip p e tid m : Nat} (hc : Canonical s) :
    Canonical (startTask ctx r chip p e tid m s) :=
  canonical_takeDeferred
    (canonical_trace
       (canonical_mapTask
          (canonical_setTaskState
             (canonical_putTw
                (canonical_putTaskLink
                   (canonical_markResident
                      (canonical_putRec
                         (canonical_claimEng (canonical_thread (canonical_nextFresh (canonical_takeTid hc)))))))))))

theorem kept_execTaskPlace (hc : Canonical s) : Kept (execTaskPlace s) := by
  unfold execTaskPlace
  split
  · refine kept_next ?_
    refine canonical_ite (canonical_holdBack (canonical_taken hc)) ?_
    dsimp only
    split
    · refine canonical_unless (canonical_taken hc) ?_
      intro h1
      split
      · exact h1
      · split
        · exact canonical_startTask h1
        · exact h1
    · exact canonical_taken hc
  · exact kept_fault

theorem canonical_taskErr {n : Nat} (hc : Canonical s) : Canonical (taskErr n s) := canonical_raise hc

theorem canonical_withRecordAt {r : Word} {k : Elem → State → State} (hc : Canonical s)
    (hk : ∀ x u, Canonical u → Canonical (k x u)) : Canonical (withRecordAt r s k) :=
  canonical_ite (canonical_taskErr hc) (canonical_atHome hc (fun _ _ h1 => hk _ _ h1))

theorem canonical_withRecord {r : Word} {k : State → State} (hc : Canonical s)
    (hk : ∀ u, Canonical u → Canonical (k u)) : Canonical (withRecord r s k) :=
  canonical_withRecordAt hc (fun _ _ h1 => hk _ h1)

theorem canonical_forgetTask {ctx : Nat} {r : Word} (hc : Canonical s) : Canonical (forgetTask ctx r s) :=
  canonical_foldl hc (fun _ _ h1 => canonical_mapTask h1)

theorem kept_execTaskSub {d a b : BitVec 5} {ma mb : BitVec 2} (hc : Canonical s) : Kept (execTaskSub d a b ma mb s) :=
  kept_withOps hc
    (fun _ =>
       canonical_acqGate hc
         (canonical_withRecord hc
            (fun _ h1 =>
               canonical_ite (canonical_taskErr h1)
                 (canonical_ite (canonical_taskErr h1)
                    (canonical_ite (canonical_taskErr h1)
                       (canonical_ite (canonical_taskErr h1)
                          (canonical_released h1
                             (fun _ h2 =>
                                canonical_complete h2
                                  (canonical_writeDst
                                     (canonical_post
                                        (canonical_when
                                           (canonical_setTaskState
                                              (canonical_setTw0
                                                 (canonical_forgetTask (canonical_noteWrite (canonical_commit h2)))))
                                           (fun h3 => canonical_putTw (canonical_setTw0 h3)))))))))))))

theorem canonical_deferOwn {core ctx : Nat} {r : Word} (hc : Canonical s) : Canonical (deferOwn core ctx r s) :=
  canonical_foldl hc
    (fun _ _ h1 => canonical_ite (canonical_ite (canonical_after (canonical_mapTslot h1)) (canonical_giveBack h1)) h1)

theorem canonical_parkStores (hc : Canonical s) : Canonical (parkStores s) := canonical_park (canonical_sendMarkers hc)

theorem kept_execTaskDone {a b : BitVec 5} {ma mb : BitVec 2} (hc : Canonical s) : Kept (execTaskDone a b ma mb s) :=
  kept_withOps hc
    (fun _ =>
       canonical_ite
         (canonical_ite (canonical_raise hc)
            (canonical_acqGate hc
               (canonical_withRecord hc
                  (fun _ h1 =>
                     canonical_ite (canonical_taskErr h1)
                       (canonical_complete h1
                          (canonical_taskComplete (canonical_forgetTask (canonical_commit h1))))))))
         (canonical_ite (canonical_taskErr hc)
            (canonical_ite (canonical_parkStores hc)
               (canonical_ite (canonical_park hc)
                  (canonical_complete hc
                     (canonical_me
                        (canonical_putTaskLink
                           (canonical_taskComplete
                              (canonical_deferOwn
                                 (canonical_releaseCopies (canonical_releaseEngs (canonical_commit hc))))))))))))

theorem kept_execTaskDep {d a b : BitVec 5} {ma mb : BitVec 2} (hc : Canonical s) : Kept (execTaskDep d a b ma mb s) := by
  refine kept_withOps hc ?_
  intro _
  refine canonical_acqGate hc ?_
  refine canonical_withRecord hc ?_
  intro _ h1
  refine canonical_withRecord h1 ?_
  intro _ h2
  refine canonical_ite (canonical_taskErr h2) ?_
  refine canonical_ite (canonical_taskErr h2) ?_
  refine canonical_ite (canonical_taskErr h2) ?_
  refine canonical_ite (canonical_complete h2 (canonical_writeDst (canonical_commit h2))) ?_
  dsimp only
  split
  · exact canonical_complete h2 (canonical_writeDst (canonical_commit h2))
  · exact canonical_complete h2 (canonical_writeDst (canonical_putTw (canonical_setTw0 (canonical_commit h2))))

theorem kept_execTaskInfo {d a b : BitVec 5} {ma mb : BitVec 2} (hc : Canonical s) : Kept (execTaskInfo d a b ma mb s) := by
  refine kept_withOps hc ?_
  intro _
  refine canonical_acqGate hc ?_
  dsimp only
  split
  · exact canonical_ite (canonical_taskErr hc) (canonical_complete hc (canonical_writeDst (canonical_commit hc)))
  · exact canonical_withRecordAt hc
        (fun _ _ h1 =>
           canonical_ite (canonical_taskErr h1)
             (canonical_ite (canonical_waitRetry h1)
                (canonical_complete h1 (canonical_raiseFloor (canonical_writeDst (canonical_commit h1))))))
  · exact canonical_withRecord hc
        (fun _ h2 =>
           canonical_ite (canonical_taskErr h2) (canonical_complete h2 (canonical_writeDst (canonical_commit h2))))
  · exact canonical_taskErr hc

end Sys2Proof.Proofs.Canonical
end

section
/-!
SUPPORT. Canonical form (O60) under threads: an operation keeps it that is made of operations that do.
-/
namespace Sys2Proof.Proofs.Canonical
open Sys2Proof.Machine Sys2Proof.Safety
set_option Elab.async false

variable {s : State}

theorem kept_execSpawn {d a b : BitVec 5} {ma mb : BitVec 2} (hc : Canonical s) : Kept (execSpawn d a b ma mb s) := by
  refine kept_withOps hc ?_
  intro _
  refine canonical_acqGate hc ?_
  refine canonical_ite (canonical_raise hc) ?_
  refine canonical_ite (canonical_raise hc) ?_
  dsimp only
  split
  · exact canonical_complete hc (canonical_writeDst (canonical_commit hc))
  · split
    · exact (canonical_plan hc ‹_›)
    · refine canonical_ite (canonical_complete hc (canonical_writeDst (canonical_commit hc))) ?_
      refine canonical_released hc ?_
      intro _ h1
      refine canonical_ite (canonical_waitRetry (canonical_foldl_snd h1 (fun _ _ h2 => canonical_prepFor h2))) ?_
      refine canonical_complete (canonical_foldl_snd h1 (fun _ _ h3 => canonical_prepFor h3)) ?_
      refine canonical_writeDst ?_
      refine canonical_ite ?_ ?_
      · split
        · exact canonical_markResident
              (canonical_thread
                 (canonical_nextFresh
                    (canonical_putRec
                       (canonical_takeTid
                          (canonical_commit (canonical_foldl_snd h1 (fun _ _ h4 => canonical_prepFor h4)))))))
        · exact canonical_takeTid (canonical_commit (canonical_foldl_snd h1 (fun _ _ h5 => canonical_prepFor h5)))
      · split
        · exact canonical_resumeInto
              (canonical_putRec
                 (canonical_takeTid (canonical_commit (canonical_foldl_snd h1 (fun _ _ h6 => canonical_prepFor h6)))))
        · exact canonical_enterPool
              (canonical_putRec
                 (canonical_takeTid (canonical_commit (canonical_foldl_snd h1 (fun _ _ h7 => canonical_prepFor h7)))))

theorem kept_execYield (hc : Canonical s) : Kept (execYield s) := by
  refine kept_withOps hc ?_
  intro _
  refine canonical_ite (canonical_complete hc hc) ?_
  split
  · exact canonical_park (canonical_sendMarkers hc)
  · split
    · exact canonical_raiseHeld hc
    · exact canonical_ite (canonical_raise hc) (canonical_inFlight hc)

theorem canonical_endThread {p : Nat} (hc : Canonical s) : Canonical (endThread p s) := by
  unfold endThread
  split
  · exact hc
  · exact canonical_freeEnded
        (canonical_post
           (canonical_keepCtx
              (canonical_purgePosted
                 (canonical_setRecState
                    (canonical_freeSlot
                       (canonical_unless
                          (canonical_mapThread
                             (canonical_dropArms (canonical_releaseCopies (canonical_releaseEngs hc))))
                          (fun h1 => canonical_putTaskLink (canonical_taskComplete h1))))))
              (canonical_purgePosted
                 (canonical_setRecState
                    (canonical_freeSlot
                       (canonical_unless
                          (canonical_mapThread
                             (canonical_dropArms (canonical_releaseCopies (canonical_releaseEngs hc))))
                          (fun h2 => canonical_putTaskLink (canonical_taskComplete h2))))))
              rfl rfl rfl))

theorem canonical_execSusp_takeMail {m : Msg} {rest : List Msg} (hc : Canonical s) : Canonical (execSusp.takeMail m rest s) := by
  unfold execSusp.takeMail
  dsimp only
  split
  · exact canonical_sendWake (canonical_core (canonical_me (canonical_setSlot hc)))
  · exact canonical_me (canonical_setSlot hc)

theorem kept_execSusp (hc : Canonical s) : Kept (execSusp s) := by
  refine kept_withOps hc ?_
  intro _
  refine canonical_ite (canonical_raise hc) ?_
  refine canonical_ite (canonical_park (canonical_sendMarkers hc)) ?_
  dsimp only
  split
  · exact canonical_raiseHeld hc
  · split
    · exact canonical_complete hc (canonical_me (canonical_setSlot hc))
    · exact canonical_complete hc (canonical_execSusp_takeMail hc)
    · split
      · exact canonical_park hc
      · exact canonical_ite (canonical_raise hc) (canonical_inFlight hc)

theorem canonical_leavePass {p state : Nat} (hc : Canonical s) : Canonical (leavePass p state s) := by
  unfold leavePass
  split
  · exact hc
  · refine canonical_ite ?_
        (canonical_ite (canonical_advance (canonical_rest hc))
           (canonical_enterPool (canonical_writeOut (canonical_rest hc))))
    split
    · exact canonical_advance (canonical_me (canonical_setSlot (canonical_rest hc)))
    · exact canonical_advance (canonical_execSusp_takeMail (canonical_rest hc))
    · exact canonical_writeOut (canonical_rest hc)

theorem canonical_depart {p target : Nat} {migr : Option Nat} (hc : Canonical s) : Canonical (depart p target migr s) := by
  unfold depart
  split
  · exact hc
  · dsimp only
    split
    · exact canonical_ite (canonical_sendMigrant (canonical_rest hc))
          (canonical_advance (canonical_me (canonical_rest hc)))
    · exact canonical_ite (canonical_sendMigrant (canonical_rest hc)) (canonical_thread (canonical_rest hc))

theorem canonical_endPass {p : Nat} (hc : Canonical s) : Canonical (endPass p s) := by
  unfold endPass
  split
  · exact hc
  refine canonical_unless hc fun h1 => ?_
  extract_lets c s₁ s₂
  have hs₁ : Canonical s₁ := by
    refine canonical_when h1 fun h2 => ?_
    cases (chipCores s _ (chipOfCore (p / 16))).head? with
    | none => exact canonical_core h2
    | some => exact canonical_offerWork (canonical_core h2)
  have hs₂ : Canonical s₂ := by
    unfold s₂
    split
    · exact canonical_thread hs₁
    · exact hs₁
  split
  · split
    · exact canonical_advance (canonical_execSusp_takeMail (canonical_rest hs₂))
    · exact canonical_consumeLatch hs₂
  · exact canonical_leavePass hs₂
  · exact canonical_depart hs₂
  · exact hs₂

theorem kept_execMigr {d a : BitVec 5} {ma : BitVec 2} (hc : Canonical s) : Kept (execMigr d a ma s) := by
  refine kept_withOps hc ?_
  intro _
  refine canonical_acqGate hc ?_
  dsimp only
  split
  · exact canonical_raise hc
  · exact canonical_ite (canonical_complete hc (canonical_writeDst (canonical_commit hc)))
        (canonical_ite (canonical_released hc (fun _ h1 => h1))
           (canonical_ite (canonical_complete hc (canonical_writeDst (canonical_commit hc)))
              (canonical_ite (canonical_raise hc) (canonical_inFlight (canonical_me (canonical_commit hc))))))

theorem kept_execRepart {a : BitVec 5} {ma : BitVec 2} (hc : Canonical s) : Kept (execRepart a ma s) :=
  kept_needPriv hc
    (kept_withOps hc
       (fun _ =>
          canonical_ite (canonical_raise hc)
            (canonical_ite (canonical_raise hc)
               (canonical_complete hc (canonical_me (canonical_core (canonical_commit hc)))))))

theorem canonical_latchWake {p : Nat} {m : Msg} (hc : Canonical s) : Canonical (latchWake p m s) := by
  unfold latchWake
  split
  · exact canonical_noteSlot (canonical_setSlot hc)
  · exact canonical_countDrop hc

theorem canonical_offerWake {p : Nat} {t : Thread} {m : Msg} (hc : Canonical s) : Canonical (offerWake p t m s) := by
  unfold offerWake
  split
  · exact canonical_ite (canonical_latchWake hc) (canonical_endPark hc)
  · exact canonical_latchWake hc

theorem kept_execWakeAtSlot (hc : Canonical s) : Kept (execWakeAtSlot s) := by
  unfold execWakeAtSlot
  split
  · refine kept_next ?_
    dsimp only
    split
    · exact canonical_ite (canonical_post (canonical_taken hc))
          (canonical_ite (canonical_latchWake (canonical_taken hc)) (canonical_offerWake (canonical_taken hc)))
    · exact canonical_post (canonical_taken hc)
  · exact kept_fault

theorem kept_execWakeAtRecord (hc : Canonical s) : Kept (execWakeAtRecord s) := by
  unfold execWakeAtRecord
  split
  · exact kept_next
        (canonical_ite
           (canonical_ite (canonical_holdWake (canonical_taken hc))
              (canonical_ite (canonical_post (canonical_taken hc)) (canonical_holdBack (canonical_taken hc))))
           (canonical_ite (canonical_recReady (canonical_setRecState (canonical_vput (canonical_taken hc))))
              (canonical_ite (canonical_recReady (canonical_setRecState (canonical_taken hc)))
                 (canonical_when (canonical_taken hc) (fun h1 => canonical_countDrop h1)))))
  · exact kept_fault

theorem kept_execParklimWriteOut (hc : Canonical s) : Kept (execParklimWriteOut s) := by
  unfold execParklimWriteOut
  split
  · refine kept_next ?_
    dsimp only
    split
    · refine canonical_when (canonical_taken hc) ?_
      intro h1
      split
      · exact canonical_ite (canonical_writeOut h1) (canonical_writeOut h1)
      · exact h1
    · exact canonical_taken hc
  · exact kept_fault

theorem kept_execPoolPickup (hc : Canonical s) : Kept (execPoolPickup s) := by
  unfold execPoolPickup
  split
  · refine kept_next ?_
    refine canonical_unless (canonical_taken hc) ?_
    intro h1
    dsimp only
    split
    · exact canonical_ite h1 (canonical_tellerOffer h1)
    · split
      · exact h1
      · exact canonical_offerWork
            (canonical_resumeInto
               (canonical_ctx h1
                  ⟨Tab.wf_put _ _ (ctxOk_ctxAt h1 _).1, (ctxOk_ctxAt h1 _).2.1, (ctxOk_ctxAt h1 _).2.2⟩))
  · exact kept_fault

theorem kept_execPromoteAging (hc : Canonical s) : Kept (execPromoteAging s) := by
  unfold execPromoteAging
  split
  · refine kept_next (canonical_foldl (canonical_taken hc) fun u prio h => canonical_unless h fun h1 => ?_)
    have hok := ctxOk_ctxAt h1
    exact canonical_foldl (canonical_ctx h1 ⟨Tab.wf_put _ _ (Tab.wf_put _ _ (hok _).1), (hok _).2⟩)
      fun _ _ h2 => canonical_writePool h2
  · exact kept_fault

theorem kept_execMigrantArrival (hc : Canonical s) : Kept (execMigrantArrival s) := by
  unfold execMigrantArrival
  split
  · refine kept_next ?_
    dsimp only
    split
    · exact canonical_postOrd (canonical_setSlot (canonical_core (canonical_taken hc)))
    · exact canonical_postOrd (canonical_taken hc)
  · exact kept_fault

theorem kept_execMigrantAccepted (hc : Canonical s) : Kept (execMigrantAccepted s) := by
  unfold execMigrantAccepted
  split
  · refine kept_next ?_
    refine canonical_trace ?_
    refine canonical_core ?_
    refine canonical_keepCtx ?_ ?_ rfl rfl rfl
    · refine canonical_nextFresh ?_
      refine canonical_markResident ?_
      refine canonical_thread ?_
      refine canonical_freeSlot ?_
      refine canonical_foldl (canonical_core (canonical_dropArms (canonical_releaseCopies (canonical_taken hc)))) ?_
      intro _ _ h1
      split
      · exact canonical_postOrd h1
      · exact h1
    · refine canonical_nextFresh ?_
      refine canonical_markResident ?_
      refine canonical_thread ?_
      refine canonical_freeSlot ?_
      refine canonical_foldl (canonical_core (canonical_dropArms (canonical_releaseCopies (canonical_taken hc)))) ?_
      intro _ _ h2
      split
      · exact canonical_postOrd h2
      · exact h2
  · exact kept_fault

theorem kept_execMigrantRefused (hc : Canonical s) : Kept (execMigrantRefused s) := by
  unfold execMigrantRefused
  split
  · refine kept_next ?_
    refine canonical_withThr ?_ ?_
    · refine canonical_foldl (canonical_markResident (canonical_core (canonical_taken hc))) ?_
      intro _ _ h1
      split
      · exact canonical_fillReg h1
      · exact h1
    · intro _ h2
      split
      · exact canonical_advance (canonical_me h2)
      · exact canonical_me h2
  · exact kept_fault

end Sys2Proof.Proofs.Canonical
end

section
/-!
SUPPORT. Canonical form (O60) under message queues: an operation keeps it that is made of operations that do.
-/
namespace Sys2Proof.Proofs.Canonical
open Sys2Proof.Machine Sys2Proof.Safety
set_option Elab.async false

variable {s : State}

theorem kept_execSend {d a b : BitVec 5} {ma mb : BitVec 2} (hc : Canonical s) : Kept (execSend d a b ma mb s) := by
  refine kept_withOps hc ?_
  intro _
  refine canonical_acqGate hc ?_
  refine canonical_ite (canonical_raise hc) ?_
  refine canonical_ite (canonical_raise hc) ?_
  dsimp only
  split
  · exact canonical_raise hc
  · exact canonical_released hc
        (fun _ h1 =>
           canonical_ite (canonical_raise h1)
             (canonical_postOrd (canonical_inFlight (canonical_reserve (canonical_takePops h1)))))

theorem kept_execSendg {d a b : BitVec 5} {ma mb : BitVec 2} (hc : Canonical s) : Kept (execSendg d a b ma mb s) := by
  refine kept_withOps hc ?_
  intro _
  refine canonical_acqGate hc ?_
  dsimp only
  split
  · exact canonical_raise hc
  · exact canonical_released hc
        (fun _ h1 =>
           canonical_ite (canonical_raise h1)
             (canonical_ite (canonical_complete h1 (canonical_writeDst (canonical_commit h1)))
                (canonical_foldl (canonical_inFlight (canonical_reserve (canonical_commit h1)))
                   (fun _ _ h2 => canonical_postOrd h2))))

theorem kept_execRecv (hc : Canonical s) : Kept (execRecv s) := by
  refine kept_withOps hc ?_
  intro _
  dsimp only
  split
  · exact canonical_complete hc (canonical_me (canonical_setSlot hc))
  · exact canonical_complete hc (canonical_execSusp_takeMail hc)
  · exact canonical_park hc

theorem canonical_answerSend {p : Post} {core status : Nat} (hc : Canonical s) :
    Canonical (answerSend p core status s) := canonical_postOrd hc

theorem canonical_mailAt_append {p : Post} {core slot : Nat} {sl : Slot} (hc : Canonical s) :
    Canonical (mailAt.append p core slot sl s) :=
  canonical_ite (canonical_answerSend (canonical_noteSlot (canonical_setSlot hc)))
    (canonical_ite (canonical_answerSend hc) (canonical_ite (canonical_answerSend (canonical_core hc)) (canonical_answerSend hc)))

theorem canonical_mailAt {p : Post} {slot : Nat} {t : Thread} (hc : Canonical s) : Canonical (mailAt p slot t s) := by
  refine canonical_ite (canonical_answerSend (canonical_ite (canonical_offerWake hc) (canonical_latchWake hc))) ?_
  split
  · exact canonical_ite (canonical_answerSend (canonical_endPark hc)) (canonical_mailAt_append hc)
  · exact canonical_mailAt_append hc

theorem canonical_mailAtRecord {p : Post} (hc : Canonical s) : Canonical (mailAtRecord p s) :=
  canonical_ite (canonical_answerSend hc)
    (canonical_ite (canonical_ite (canonical_postOrd hc) (canonical_holdIn hc))
       (canonical_ite (canonical_answerSend (canonical_recReady (canonical_setRecState (canonical_vput hc))))
          (canonical_ite (canonical_answerSend (canonical_recReady (canonical_setRecState hc)))
             (canonical_answerSend (canonical_ite (canonical_countDrop hc) hc)))))

theorem kept_execMailboxMessage (hc : Canonical s) : Kept (execMailboxMessage s) := by
  unfold execMailboxMessage
  split
  · refine kept_next ?_
    dsimp only
    split
    · exact canonical_ite
          (canonical_ite (canonical_mailAt (canonical_taken hc)) (canonical_answerSend (canonical_taken hc)))
          (canonical_ite (canonical_mailAt (canonical_taken hc)) (canonical_mailAtRecord (canonical_taken hc)))
    · exact canonical_ite (canonical_answerSend (canonical_taken hc)) (canonical_mailAtRecord (canonical_taken hc))
  · exact kept_fault

theorem kept_execSendReply (hc : Canonical s) : Kept (execSendReply s) := by
  unfold execSendReply
  split
  · refine kept_next ?_
    refine canonical_withThr (canonical_taken hc) ?_
    intro _ h1
    split
    · exact canonical_ite (canonical_park (canonical_abandon h1))
          (canonical_advance (canonical_endPops (canonical_writeDst (canonical_takeRegs (canonical_unreserve h1)))))
    · exact h1
  · exact kept_fault

theorem kept_execSendgMemberReply (hc : Canonical s) : Kept (execSendgMemberReply s) := by
  unfold execSendgMemberReply
  split
  · refine kept_next ?_
    refine canonical_withThr (canonical_taken hc) ?_
    intro _ h1
    split
    · exact canonical_ite (canonical_advance (canonical_writeDst (canonical_unreserve h1))) (canonical_inFlight h1)
    · exact h1
  · exact kept_fault

theorem canonical_queueFault1 {reason : Nat} {q : BitVec 2} (hc : Canonical s) : Canonical (queueFault1 reason q s) :=
  canonical_raise hc

theorem kept_execQbind {q : BitVec 2} {a : BitVec 5} {ma : BitVec 2} (hc : Canonical s) : Kept (execQbind q a ma s) :=
  kept_withOps hc
    (fun _ =>
       canonical_ite (canonical_queueFault1 hc)
         (canonical_ite (canonical_queueFault1 hc)
            (canonical_ite (canonical_queueFault1 hc)
               (canonical_complete hc (canonical_settleQueues (canonical_me (canonical_commit hc)))))))

theorem kept_execQunbind {q : BitVec 2} (hc : Canonical s) : Kept (execQunbind q s) := by
  refine kept_withOps hc ?_
  intro _
  split
  · exact canonical_queueFault1 hc
  · exact canonical_complete hc (canonical_settleQueues (canonical_me hc))

theorem canonical_wakeQueue {core qid : Nat} (hc : Canonical s) : Canonical (wakeQueue core qid s) :=
  canonical_foldl hc (fun _ _ h1 => canonical_sendWake h1)

theorem kept_execQclose {q : BitVec 2} (hc : Canonical s) : Kept (execQclose q s) := by
  refine kept_withOps hc ?_
  intro _
  split
  · exact canonical_queueFault1 hc
  · exact canonical_ite (canonical_queueFault1 hc) (canonical_complete hc (canonical_wakeQueue (canonical_core hc)))

end Sys2Proof.Proofs.Canonical
end

section
/-!
SUPPORT. Canonical form (O60) under the vector instructions: an operation keeps it that is made of operations that do.
-/
namespace Sys2Proof.Proofs.Canonical
open Sys2Proof.Machine Sys2Proof.Safety
set_option Elab.async false

variable {s : State}

theorem kept_vecGate {rs : List (BitVec 5)} {k : State → Result} (hc : Canonical s)
    (hk : ∀ u, Canonical u → Kept (k u)) : Kept (vecGate rs s k) :=
  kept_ite (kept_next (canonical_raise hc)) (hk _ (canonical_ite (canonical_charged hc) hc))

theorem kept_vecOp {d : BitVec 5} {rs : List (BitVec 5)} {f : Thread → Vec} (hc : Canonical s) : Kept (vecOp d rs f s) :=
  kept_vecGate hc (fun _ h1 => kept_withOps h1 (fun _ => canonical_complete h1 (canonical_writeVec h1)))

theorem kept_execVmac {d a b : BitVec 5} {k : BitVec 2} {t : BitVec 3} (hc : Canonical s) :
    Kept (execVmac d a b k t s) := by
  unfold execVmac
  exact kept_vecOp hc

theorem canonical_useUnits {norm iter : Bool} (hc : Canonical s) : Canonical (useUnits norm iter s) :=
  canonical_ite (canonical_advance hc)
    (canonical_inFlight
       (canonical_when (canonical_when (canonical_core hc) (fun h2 => canonical_after h2))
          (fun h1 => canonical_after h1)))

theorem kept_vecFloat {d : BitVec 5} {rs : List (BitVec 5)} {iter : Bool} {f : Thread → VFloat} (hc : Canonical s) :
    Kept (vecFloat d rs iter f s) :=
  kept_vecGate hc
    (fun _ h1 =>
       kept_withOps h1
         (fun _ =>
            canonical_ite (canonical_raise h1) (canonical_useUnits (canonical_report (canonical_writeVec h1)))))

theorem kept_floatOp {d : BitVec 5} {rs : List (BitVec 5)} {k : BitVec 2} {t : BitVec 3} {iter : Bool}
    {f : Nat → List FVal → Exact} (hc : Canonical s) : Kept (floatOp d rs k t iter f s) := kept_vecFloat hc

theorem kept_execVfadd {d a b : BitVec 5} {k : BitVec 2} {t : BitVec 3} (hc : Canonical s) :
    Kept (execVfadd d a b k t s) := kept_floatOp hc

theorem kept_execVfsub {d a b : BitVec 5} {k : BitVec 2} {t : BitVec 3} (hc : Canonical s) :
    Kept (execVfsub d a b k t s) := kept_floatOp hc

theorem kept_execVfmul {d a b : BitVec 5} {k : BitVec 2} {t : BitVec 3} (hc : Canonical s) :
    Kept (execVfmul d a b k t s) := kept_floatOp hc

theorem kept_execVfma {d a b : BitVec 5} {k : BitVec 2} {t : BitVec 3} (hc : Canonical s) :
    Kept (execVfma d a b k t s) := kept_floatOp hc

theorem kept_execVfmin {d a b : BitVec 5} {k : BitVec 2} {t : BitVec 3} (hc : Canonical s) :
    Kept (execVfmin d a b k t s) := kept_floatOp hc

theorem kept_execVfmax {d a b : BitVec 5} {k : BitVec 2} {t : BitVec 3} (hc : Canonical s) :
    Kept (execVfmax d a b k t s) := kept_floatOp hc

theorem kept_execVfrcp {d a : BitVec 5} {k : BitVec 2} {t : BitVec 3} (hc : Canonical s) : Kept (execVfrcp d a k t s) :=
  kept_floatOp hc

theorem kept_execVfrsq {d a : BitVec 5} {k : BitVec 2} {t : BitVec 3} (hc : Canonical s) : Kept (execVfrsq d a k t s) :=
  kept_floatOp hc

theorem kept_execVfdiv {d a b : BitVec 5} {k : BitVec 2} {t : BitVec 3} (hc : Canonical s) :
    Kept (execVfdiv d a b k t s) := kept_floatOp hc

theorem kept_execVfsqrt {d a : BitVec 5} {k : BitVec 2} {t : BitVec 3} (hc : Canonical s) :
    Kept (execVfsqrt d a k t s) := kept_floatOp hc

theorem kept_intCompare {d : BitVec 2} {a b : BitVec 5} {k : BitVec 2} {t : BitVec 3} {f : Nat → Nat → Bool}
    (hc : Canonical s) : Kept (intCompare d a b k t f s) :=
  kept_vecGate hc (fun _ h1 => kept_withOps h1 (fun _ => canonical_complete h1 (canonical_me h1)))

theorem kept_execVcmpEq {d : BitVec 2} {a b : BitVec 5} {k : BitVec 2} {t : BitVec 3} (hc : Canonical s) :
    Kept (execVcmpEq d a b k t s) := kept_intCompare hc

theorem kept_execVcmpLt {d : BitVec 2} {a b : BitVec 5} {k : BitVec 2} {t : BitVec 3} (hc : Canonical s) :
    Kept (execVcmpLt d a b k t s) := kept_intCompare hc

theorem kept_execVcmpLtu {d : BitVec 2} {a b : BitVec 5} {k : BitVec 2} {t : BitVec 3} (hc : Canonical s) :
    Kept (execVcmpLtu d a b k t s) := kept_intCompare hc

theorem kept_floatCompare {d : BitVec 2} {a b : BitVec 5} {k : BitVec 2} {t : BitVec 3} {kind : Nat}
    (hc : Canonical s) : Kept (floatCompare d a b k t kind s) :=
  kept_vecGate hc
    (fun _ h1 =>
       kept_withOps h1
         (fun _ => canonical_ite (canonical_raise h1) (canonical_useUnits (canonical_report (canonical_me h1)))))

theorem kept_execVsel {d a b : BitVec 5} {k : BitVec 2} {t : BitVec 3} (hc : Canonical s) :
    Kept (execVsel d a b k t s) := by
  unfold execVsel
  exact kept_vecOp hc

theorem kept_execVbcast {d a : BitVec 5} {k : BitVec 2} {t : BitVec 3} (hc : Canonical s) :
    Kept (execVbcast d a k t s) :=
  kept_vecGate hc
    (fun _ h1 => kept_withOps h1 (fun _ => canonical_complete h1 (canonical_writeVec (canonical_commit h1))))

theorem kept_execVext {d a b : BitVec 5} {t : BitVec 3} (hc : Canonical s) : Kept (execVext d a b t s) :=
  kept_vecGate hc
    (fun _ h1 => kept_withOps h1 (fun _ => canonical_complete h1 (canonical_writeDst (canonical_commit h1))))

theorem kept_execVins {d a b : BitVec 5} {t : BitVec 3} (hc : Canonical s) : Kept (execVins d a b t s) :=
  kept_vecGate hc
    (fun _ h1 => kept_withOps h1 (fun _ => canonical_complete h1 (canonical_writeVec (canonical_commit h1))))

theorem kept_execVperm {d a b : BitVec 5} {k : BitVec 2} {t : BitVec 3} (hc : Canonical s) :
    Kept (execVperm d a b k t s) := by
  unfold execVperm
  exact kept_vecOp hc

theorem kept_execVrot {d a b : BitVec 5} {k : BitVec 2} {t : BitVec 3} (hc : Canonical s) :
    Kept (execVrot d a b k t s) :=
  kept_vecGate hc
    (fun _ h1 => kept_withOps h1 (fun _ => canonical_complete h1 (canonical_writeVec (canonical_commit h1))))

theorem kept_vecReduce {d a : BitVec 5} {k : BitVec 2} {t : BitVec 3} {f : Nat → List Nat → Word} (hc : Canonical s) :
    Kept (vecReduce d a k t f s) :=
  kept_vecGate hc (fun _ h1 => kept_withOps h1 (fun _ => canonical_complete h1 (canonical_writeDst h1)))

theorem kept_execVredadd {d a : BitVec 5} {k : BitVec 2} {t : BitVec 3} (hc : Canonical s) :
    Kept (execVredadd d a k t s) := kept_vecReduce hc

theorem kept_execVredmin {d a : BitVec 5} {k : BitVec 2} {t : BitVec 3} (hc : Canonical s) :
    Kept (execVredmin d a k t s) := kept_vecReduce hc

theorem kept_execVredmax {d a : BitVec 5} {k : BitVec 2} {t : BitVec 3} (hc : Canonical s) :
    Kept (execVredmax d a k t s) := kept_vecReduce hc

theorem kept_execVfredadd {d a : BitVec 5} {k : BitVec 2} {t : BitVec 3} (hc : Canonical s) :
    Kept (execVfredadd d a k t s) :=
  kept_vecGate hc
    (fun _ h1 =>
       kept_withOps h1
         (fun _ =>
            canonical_ite (canonical_raise h1) (canonical_useUnits (canonical_report (canonical_writeDst h1)))))

theorem kept_execVcompress {d a : BitVec 5} {k : BitVec 2} {t : BitVec 3} (hc : Canonical s) :
    Kept (execVcompress d a k t s) := by
  unfold execVcompress
  exact kept_vecOp hc

theorem kept_execVexpand {d a : BitVec 5} {k : BitVec 2} {t : BitVec 3} (hc : Canonical s) :
    Kept (execVexpand d a k t s) := by
  unfold execVexpand
  exact kept_vecOp hc

theorem kept_execVcvt {d a : BitVec 5} {part : BitVec 2} {u : BitVec 3} {k : BitVec 2} {s : BitVec 3} {st : State}
    (hst : Canonical st) : Kept (execVcvt d a part u k s st) := kept_vecFloat hst

theorem kept_execVdec {d a fmt : BitVec 5} {k : BitVec 2} {t : BitVec 3} (hc : Canonical s) :
    Kept (execVdec d a fmt k t s) := by
  unfold execVdec
  exact kept_vecFloat hc

theorem kept_execVenc {d a fmt : BitVec 5} {k : BitVec 2} {t : BitVec 3} (hc : Canonical s) :
    Kept (execVenc d a fmt k t s) :=
  kept_ite (kept_vecGate hc (fun _ h1 => kept_next (canonical_raise h1))) (kept_vecFloat hc)

theorem canonical_readBlock {va : Word} {n : Nat} {k : List Byte → State → State} (hc : Canonical s)
    (hk : ∀ x u, Canonical u → Canonical (k x u)) : Canonical (readBlock va n s k) := by
  unfold readBlock
  dsimp only
  split
  · obtain ⟨x, -, hx⟩ := List.exists_of_findSome?_eq_some ‹_›
    exact canonical_cmpTrap hc hx
  split
  · obtain ⟨x, -, hx⟩ := List.exists_of_findSome?_eq_some ‹_›
    split at hx
    · exact Option.some.inj hx ▸ canonical_raise hc
    · exact Option.some.inj hx ▸ canonical_missPark hc
    · exact canonical_stageWait hc hx
  split
  · exact canonical_planFrom hc ‹_›
  · exact canonical_ite (hk _ _ (canonical_me (canonical_foldl (canonical_readElems hc) fun _ _ h => canonical_usePlace h)))
      (canonical_waitRetry (canonical_readElems hc))

theorem kept_execVtabld {a : BitVec 5} {bank : BitVec 2} (hc : Canonical s) : Kept (execVtabld a bank s) := by
  refine kept_vecGate hc ?_
  intro _ h1
  refine kept_withOps h1 ?_
  intro _
  refine canonical_acqGate h1 ?_
  refine canonical_ite (canonical_raise h1) ?_
  refine canonical_readBlock h1 ?_
  intro _ _ h2
  dsimp only
  split
  · exact canonical_raise h2
  · exact canonical_complete h2 (canonical_commit (canonical_core h2))

theorem kept_execVscale {d a b : BitVec 5} {k : BitVec 2} {t : BitVec 3} (hc : Canonical s) :
    Kept (execVscale d a b k t s) := kept_vecFloat hc

theorem kept_vecLoad {d : BitVec 5} {rs : List (BitVec 5)} {ss : List Src} {k : BitVec 2} {t : BitVec 3}
    {addr : Thread → List Word → Nat → Word} (hc : Canonical s) : Kept (vecLoad d rs ss k t addr s) := by
  refine kept_vecGate hc ?_
  intro _ h1
  refine kept_withOps h1 ?_
  intro _
  refine canonical_acqGate h1 ?_
  dsimp only
  split
  · exact (canonical_plan h1 ‹_›)
  · exact canonical_doLoad h1

theorem kept_execVld {d a : BitVec 5} {k : BitVec 2} {t : BitVec 3} (hc : Canonical s) : Kept (execVld d a k t s) :=
  kept_vecLoad hc

theorem kept_execVlds {d a b : BitVec 5} {k : BitVec 2} {t : BitVec 3} (hc : Canonical s) :
    Kept (execVlds d a b k t s) := kept_vecLoad hc

theorem kept_execVldx {d a b : BitVec 5} {k : BitVec 2} {t : BitVec 3} (hc : Canonical s) :
    Kept (execVldx d a b k t s) := kept_vecLoad hc

theorem kept_execVldb {d a : BitVec 5} {k : BitVec 2} {t : BitVec 3} (hc : Canonical s) : Kept (execVldb d a k t s) := by
  refine kept_vecGate hc ?_
  intro _ h1
  refine kept_withOps h1 ?_
  intro _
  refine canonical_acqGate h1 ?_
  dsimp only
  split
  · exact (canonical_plan h1 ‹_›)
  · exact canonical_doLoad h1

theorem kept_vecStore {d : BitVec 5} {rs : List (BitVec 5)} {ss : List Src} {k : BitVec 2} {t : BitVec 3}
    {addr : Thread → List Word → Nat → Word} (hc : Canonical s) : Kept (vecStore d rs ss k t addr s) := by
  refine kept_vecGate hc ?_
  intro _ h1
  refine kept_withOps h1 ?_
  intro _
  refine canonical_acqGate h1 ?_
  dsimp only
  split
  · exact (canonical_plan h1 ‹_›)
  · exact canonical_doStore h1

theorem kept_execVst {d a : BitVec 5} {k : BitVec 2} {t : BitVec 3} (hc : Canonical s) : Kept (execVst d a k t s) :=
  kept_vecStore hc

theorem kept_execVsts {d a b : BitVec 5} {k : BitVec 2} {t : BitVec 3} (hc : Canonical s) :
    Kept (execVsts d a b k t s) := kept_vecStore hc

theorem kept_execVstx {d a b : BitVec 5} {k : BitVec 2} {t : BitVec 3} (hc : Canonical s) :
    Kept (execVstx d a b k t s) := kept_vecStore hc

end Sys2Proof.Proofs.Canonical
end

section
/-!
SUPPORT. Canonical form (O60) under the array: an operation keeps it that is made of operations that do.
-/
namespace Sys2Proof.Proofs.Canonical
open Sys2Proof.Machine Sys2Proof.Safety
set_option Elab.async false

variable {s : State}

theorem kept_execTbst {a b : BitVec 5} {ma mb : BitVec 2} (hc : Canonical s) : Kept (execTbst a b ma mb s) :=
  kept_withOps hc
    (fun _ =>
       canonical_acqGate hc
         (canonical_withTile hc
            (fun _ _ =>
               canonical_ite (canonical_raise hc)
                 (canonical_ite (canonical_raise hc)
                    (canonical_nameTile hc
                       (fun _ _ =>
                          canonical_complete hc (canonical_reportUse (canonical_rawWrite (canonical_commit hc)))))))))

theorem canonical_engClaim {cell e : Nat} (hc : Canonical s) : Canonical (engClaim cell e s) :=
  canonical_ite (canonical_mapEng hc) hc

theorem canonical_engRelease {sc : BitVec 3} {k : State → State} (hc : Canonical s)
    (hk : ∀ u, Canonical u → Canonical (k u)) : Canonical (engRelease sc s k) :=
  canonical_ite (canonical_waitRetry hc) (canonical_released hc (fun _ h1 => hk _ h1))

theorem canonical_queueCmd {cell e : Nat} {cmd : ArrCmd} {ss : List Src} (hc : Canonical s) :
    Canonical (queueCmd cell e cmd ss s) :=
  canonical_complete hc (canonical_mapEng (canonical_engClaim (canonical_commit hc)))

theorem canonical_arrCommand {e : BitVec 2} {ss : List Src} {vs : List Word} {cmd : ArrCmd}
    {scaled : Vector Word 7 → Bool} {tileH : Vector Word 7 → Option Word} {staged : Bool}
    {badop : Vector Word 7 → Option Word} {conf : Cell → Vector Word 7 → Option TileEnt → Option Nat}
    (hc : Canonical s) : Canonical (arrCommand e ss vs cmd scaled tileH staged badop conf s) := by
  unfold arrCommand
  dsimp only
  split
  · exact canonical_raise hc
  · split
    · exact canonical_raise hc
    · split
      · exact canonical_raise hc
      · split
        · exact canonical_raise hc
        · refine canonical_ite (canonical_park hc) ?_
          split
          · exact canonical_engRelease hc (fun _ h1 => canonical_queueCmd h1)
          · exact canonical_ite
                (canonical_nameTile hc
                   (fun _ _ => canonical_engRelease hc (fun _ h2 => canonical_queueCmd (canonical_reportUse h2))))
                (canonical_engRelease hc (fun _ h3 => canonical_queueCmd h3))

theorem kept_mmaInstr {sparse : Bool} {a b : BitVec 5} {e : BitVec 2} {z : BitVec 1} (hc : Canonical s) :
    Kept (mmaInstr sparse a b e z s) := kept_withOps hc (fun _ => canonical_acqGate hc (canonical_arrCommand hc))

theorem kept_execMset {a : BitVec 5} {e : BitVec 2} {index : BitVec 3} (hc : Canonical s) :
    Kept (execMset a e index s) := by
  refine kept_withOps hc ?_
  intro _
  refine canonical_acqGate hc ?_
  dsimp only
  split
  · exact canonical_raise hc
  · refine canonical_ite (canonical_complete hc (canonical_mapEng (canonical_engClaim (canonical_commit hc)))) ?_
    refine canonical_ite (canonical_raise hc) ?_
    refine canonical_readBlock hc ?_
    intro _ _ h1
    split
    · exact canonical_raise h1
    · exact canonical_ite (canonical_raise h1)
          (canonical_post (canonical_inFlight (canonical_cell (canonical_engClaim (canonical_commit h1)))))

theorem kept_execMtabldLoadComplete (hc : Canonical s) : Kept (execMtabldLoadComplete s) := by
  unfold execMtabldLoadComplete
  split
  · refine kept_next ?_
    dsimp only
    split
    · exact canonical_taken hc
    · exact canonical_ite (canonical_holdBack (canonical_taken hc))
          (canonical_withThr (canonical_cell (canonical_taken hc))
             (fun _ h1 => canonical_ite (canonical_advance h1) h1))
  · exact kept_fault

theorem canonical_fireArms {sel line : Nat} {ended : Tab Nat} {arms : List (Thr × Nat × Nat)} (hc : Canonical s) :
    Canonical (fireArms sel line ended arms s) := canonical_foldl hc (fun _ _ h1 => canonical_ite (canonical_sendWake h1) h1)

theorem canonical_wakeLimit {reason info : Nat} {th : Thr} (hc : Canonical s) : Canonical (wakeLimit reason info th s) :=
  canonical_wakeParked hc

theorem canonical_engAdvance {cell e line : Nat} (hc : Canonical s) : Canonical (engAdvance cell e line s) :=
  canonical_unless
    (canonical_unless
       (canonical_wakeLimit
          (canonical_fireArms (canonical_foldl (canonical_mapEng hc) (fun _ _ h3 => canonical_post h3))))
       (fun h2 => canonical_ite (canonical_mapEng h2) (canonical_ite (canonical_endEng h2) h2)))
    (fun h1 => canonical_wakeLimit h1)

theorem kept_execArrayCommandComplete (hc : Canonical s) : Kept (execArrayCommandComplete s) := by
  unfold execArrayCommandComplete
  split
  · refine kept_next ?_
    dsimp only
    split
    · exact canonical_taken hc
    · exact canonical_engAdvance (canonical_mapEng (canonical_taken hc))
  · exact kept_fault

theorem canonical_engFail {cell e status : Nat} (hc : Canonical s) : Canonical (engFail cell e status s) := by
  refine canonical_engAdvance ?_
  refine canonical_mapEng ?_
  refine canonical_foldl ?_ (fun _ _ h1 => canonical_post h1)
  split
  · exact canonical_engAdvance (canonical_mapEng hc)
  · exact hc

theorem canonical_mmaStep {cell : Nat} {q : ArrCmd} {g : Nat} {stream : List Word} {sw : Word} (hc : Canonical s) :
    Canonical (mmaStep cell q g stream sw s) := canonical_rawWrite hc

theorem canonical_accldStep {cell : Nat} {q : ArrCmd} (hc : Canonical s) : Canonical (accldStep cell q s) :=
  canonical_rawWrite hc

/-- The state a step of the array ends in is canonical. -/
def StepEndKept : StepEnd → Prop
  | .stall s | .more s | .finished s | .failed _ s => Canonical s

theorem canonical_useSpad {core : Nat} {k : Acc} {rs : List (Nat × Nat)} {go : State → StepEnd} (hc : Canonical s)
    (hgo : ∀ u, Canonical u → StepEndKept (go u)) : StepEndKept (useSpad core k rs s go) := by
  unfold useSpad
  dsimp only
  split
  · exact canonical_joinStage hc
  · exact keeps_ite hc (hgo _ hc)

theorem canonical_accstSpad {cell : Nat} {q : ArrCmd} (hc : Canonical s) : StepEndKept (accstSpad cell q s) := by
  unfold accstSpad
  exact canonical_useSpad hc (fun _ h1 => canonical_performWrite h1)

theorem canonical_accstTile {cell e : Nat} {q : ArrCmd} {t : ArrTile} (hc : Canonical s) :
    StepEndKept (accstTile cell e q t s) := by
  unfold accstTile
  split
  · exact hc
  · split
    · exact canonical_askXlat hc
    · exact hc
    · exact keeps_ite hc (keeps_ite (canonical_tileClear hc) (canonical_writeTileBytes (canonical_tileClear hc)))

theorem canonical_accstQueue {cell e : Nat} {q : ArrCmd} (hc : Canonical s) : StepEndKept (accstQueue cell e q s) := by
  unfold accstQueue
  dsimp only
  split
  · exact hc
  · exact keeps_ite hc (keeps_ite (canonical_ite hc (canonical_qPush hc)) (canonical_ite hc (canonical_qPush hc)))

theorem canonical_cmdStep {cell e : Nat} {q : ArrCmd} (hc : Canonical s) : StepEndKept (cmdStep cell e q s) := by
  unfold cmdStep
  dsimp only
  split
  · exact keeps_ite hc
        (keeps_ite hc
           (canonical_useSpad hc
              (fun _ h1 =>
                 keeps_ite
                   (canonical_when
                      (canonical_when (canonical_charged (canonical_mmaStep h1))
                         (fun h3 => canonical_qWake (canonical_mapEng h3)))
                      (fun h2 => canonical_qWake (canonical_mapEng h2)))
                   (canonical_when
                      (canonical_when (canonical_charged (canonical_mmaStep h1))
                         (fun h5 => canonical_qWake (canonical_mapEng h5)))
                      (fun h4 => canonical_qWake (canonical_mapEng h4))))))
  · exact keeps_ite hc
        (keeps_ite hc
           (canonical_useSpad hc
              (fun _ h6 =>
                 keeps_ite
                   (canonical_when
                      (canonical_when (canonical_charged (canonical_mmaStep h6))
                         (fun h8 => canonical_qWake (canonical_mapEng h8)))
                      (fun h7 => canonical_qWake (canonical_mapEng h7)))
                   (canonical_when
                      (canonical_when (canonical_charged (canonical_mmaStep h6))
                         (fun h10 => canonical_qWake (canonical_mapEng h10)))
                      (fun h9 => canonical_qWake (canonical_mapEng h9))))))
  · exact canonical_rawWrite hc
  · exact canonical_rawWrite hc
  · exact canonical_useSpad hc (fun _ h11 => canonical_accldStep h11)
  · split
    · exact canonical_accstQueue hc
    · exact canonical_accstTile hc
    · exact canonical_accstSpad hc

theorem canonical_mapHead {cell e : Nat} {f : ArrCmd → ArrCmd} (hc : Canonical s) : Canonical (mapHead cell e f s) :=
  canonical_mapEng hc

theorem canonical_tryStep {cell e : Nat} (hc : Canonical s) : Canonical (tryStep cell e s).2 := by
  unfold tryStep
  split
  · exact hc
  · split
    · rename_i e1
      exact (kept_eq (P := StepEndKept) (canonical_cmdStep hc) e1)
    · rename_i e2
      exact canonical_mapHead (kept_eq (P := StepEndKept) (canonical_cmdStep hc) e2)
    · rename_i e3
      exact canonical_post (canonical_mapHead (kept_eq (P := StepEndKept) (canonical_cmdStep hc) e3))
    · rename_i e4
      exact canonical_engFail (kept_eq (P := StepEndKept) (canonical_cmdStep hc) e4)

theorem kept_execKstep (hc : Canonical s) : Kept (execKstep s) := by
  unfold execKstep
  split
  · refine kept_next ?_
    refine canonical_unless (canonical_taken hc) ?_
    intro h1
    dsimp only
    split
    · refine canonical_cell ?_
      refine canonical_foldl_snd h1 ?_
      intro _ _ h2
      split
      · exact h2
      · exact canonical_tryStep h2
    · refine canonical_foldl_snd h1 ?_
      intro _ _ h3
      split
      · exact h3
      · exact canonical_tryStep h3
  · exact kept_fault

theorem kept_execMget {d a b : BitVec 5} {ma mb : BitVec 2} (hc : Canonical s) : Kept (execMget d a b ma mb s) := by
  refine kept_withOps hc ?_
  intro _
  refine canonical_acqGate hc ?_
  refine canonical_postProducer hc ?_
  intro _ h1
  dsimp only
  split
  · exact canonical_post h1
  · split
    · exact canonical_post h1
    · exact canonical_ite (canonical_post h1)
          (canonical_ite (canonical_post (canonical_engClaim h1)) (canonical_mapEng (canonical_engClaim h1)))

theorem kept_accInstr {ss : List Src} {d : Dst} {k : List Word → Nat → Nat → State → State} (hc : Canonical s)
    (hk : ∀ x y z u, Canonical u → Canonical (k x y z u)) : Kept (accInstr ss d s k) := by
  refine kept_withOps hc ?_
  intro _
  refine canonical_acqGate hc ?_
  dsimp only
  split
  · exact canonical_raise hc
  · split
    · exact canonical_raise hc
    · exact canonical_ite (canonical_waitRetry hc)
          (canonical_complete hc (hk _ _ _ _ (canonical_engClaim (canonical_commit hc))))

theorem kept_execAccrd {d a : BitVec 5} {ma : BitVec 2} (hc : Canonical s) : Kept (execAccrd d a ma s) :=
  kept_accInstr hc (fun _ _ _ _ h1 => canonical_writeDst h1)

theorem kept_execAccwr {a b : BitVec 5} {ma mb : BitVec 2} (hc : Canonical s) : Kept (execAccwr a b ma mb s) :=
  kept_accInstr hc (fun _ _ _ _ h1 => canonical_rawWrite h1)

theorem kept_execMstat {d a : BitVec 5} {ma : BitVec 2} (hc : Canonical s) : Kept (execMstat d a ma s) :=
  kept_withOps hc
    (fun _ =>
       canonical_acqGate hc
         (canonical_ite (canonical_raise hc)
            (canonical_ite (canonical_complete hc (canonical_writeDst (canonical_commit hc)))
               (canonical_ite (canonical_complete hc (canonical_writeDst (canonical_commit hc)))
                  (canonical_ite (canonical_complete hc (canonical_writeDst (canonical_commit (canonical_mapEng hc))))
                     (canonical_ite (canonical_complete hc (canonical_writeDst (canonical_commit hc)))
                        (canonical_ite (canonical_raise hc)
                           (canonical_ite (canonical_complete hc (canonical_writeDst (canonical_commit hc)))
                              (canonical_ite
                                 (canonical_ite (canonical_waitRetry (canonical_mapEng hc))
                                    (canonical_ite
                                       (canonical_complete hc
                                          (canonical_writeDst
                                             (canonical_commit (canonical_mapEng (canonical_releaseEng hc)))))
                                       (canonical_waitRetry (canonical_mapEng (canonical_releaseEng hc)))))
                                 (canonical_complete hc
                                    (canonical_writeDst
                                       (canonical_commit (canonical_ite (canonical_mapEng hc) hc)))))))))))))

end Sys2Proof.Proofs.Canonical
end

section
/-!
SUPPORT. Canonical form (O60) under regions and their storage: an operation keeps it that is made of operations that do.
-/
namespace Sys2Proof.Proofs.Canonical
open Sys2Proof.Machine Sys2Proof.Safety
set_option Elab.async false

variable {s : State}

theorem canonical_setResident {r : RegionEnt} {n : Nat} (hc : Canonical s) : Canonical (setResident r n s) :=
  canonical_wr64 hc

theorem canonical_setHand {r : RegionEnt} {n : Nat} (hc : Canonical s) : Canonical (setHand r n s) := canonical_wr64 hc

theorem canonical_takeOp {chip : Nat} {op : SqeOp} {x : Nat × State} (hc : Canonical s) (e : takeOp chip op s = some x) :
    Canonical x.2 := by
  unfold takeOp at e
  obtain ⟨n, -, rfl⟩ := Option.map_eq_some_iff.1 e
  exact canonical_putSqe hc (Tab.wf_put _ _ (opsOk hc)) (gensOk hc)

theorem canonical_setOp {chip n : Nat} {op : SqeOp} (hc : Canonical s) : Canonical (setOp chip n op s) :=
  canonical_putSqe hc (Tab.wf_put _ _ (opsOk hc)) (gensOk hc)

theorem canonical_nvmeSend {chip n : Nat} {c : NvmeCmd} (hc : Canonical s) : Canonical (nvmeSend chip n s c) := by
  unfold nvmeSend
  dsimp only
  split
  · exact canonical_putSqe hc (opsOk hc) (gensOk hc)
  · exact canonical_rest (canonical_putSqe hc (opsOk hc) (gensOk hc))

theorem canonical_nvmeDone {chip n : Nat} (hc : Canonical s) : Canonical (nvmeDone chip n s) :=
  canonical_foldl (canonical_putSqe hc (opsOk hc) (gensOk hc)) (fun _ _ h1 => canonical_nvmeSend h1)

theorem canonical_endOp {chip n : Nat} (hc : Canonical s) : Canonical (endOp chip n s) := by
  refine canonical_retryFills ?_
  split
  · exact canonical_post
        (canonical_putSqe (canonical_nvmeDone hc) (Tab.wf_put _ _ (opsOk (canonical_nvmeDone hc)))
           (gensOk (canonical_nvmeDone hc)))
  · exact canonical_putSqe (canonical_nvmeDone hc) (Tab.wf_put _ _ (opsOk (canonical_nvmeDone hc)))
        (gensOk (canonical_nvmeDone hc))

/-- The state a pin leaves is canonical. -/
def PinnedKept : Pinned → Prop
  | .held _ s => Canonical s
  | _ => True

theorem canonical_pinPage {va : Nat} (hc : Canonical s) : PinnedKept (pinPage va s) := by
  unfold pinPage
  split
  · exact trivial
  · exact keeps_ite trivial (canonical_wr64 hc)

theorem canonical_unpin {a : Nat} (hc : Canonical s) : Canonical (unpin a s) :=
  canonical_when (canonical_wr64 hc) (fun h1 => canonical_retryFills h1)

theorem canonical_setCount {colour n : Nat} (hc : Canonical s) : Canonical (setCount colour n s) := canonical_wr64 hc

theorem canonical_popFrom {colour n : Nat} (hc : Canonical s) : Canonical (popFrom colour n s).2 := by
  induction n generalizing s with
  | zero => exact hc
  | succ n ih => exact canonical_ite_snd (ih (canonical_errorRec (canonical_setCount hc))) (canonical_setCount hc)

theorem canonical_popFrame {colour : Nat} (hc : Canonical s) : Canonical (popFrame colour s).2 := canonical_popFrom hc

theorem canonical_pushFrame {f : Nat} (hc : Canonical s) : Canonical (pushFrame f s) :=
  canonical_ite (canonical_setCount (canonical_wr64 hc)) (canonical_hostEvent hc)

theorem canonical_dropChunks {lo hi : Nat} (hc : Canonical s) : Canonical (dropChunks lo hi s) :=
  canonical_foldl hc (fun _ _ h1 => canonical_ite (canonical_setSlice h1) h1)

theorem canonical_dropXlat {slice lo hi : Nat} (hc : Canonical s) : Canonical (dropXlat slice lo hi s) :=
  canonical_setSlice (canonical_dropChunks hc)

theorem canonical_dropAll {lo hi : Nat} (hc : Canonical s) : Canonical (dropAll lo hi s) :=
  canonical_foldl (canonical_dropChunks hc) (fun _ _ h1 => canonical_ite (canonical_dropXlat h1) h1)

theorem canonical_startWalks {slice : Nat} (hc : Canonical s) : Canonical (startWalks slice s) :=
  canonical_ite hc (canonical_foldl (canonical_setSlice hc) (fun _ _ h1 => canonical_post h1))

theorem canonical_walkAgain {slice lo hi : Nat} (hc : Canonical s) : Canonical (walkAgain slice lo hi s) :=
  canonical_when (canonical_foldl hc (fun _ _ h2 => canonical_ite (canonical_setSlice h2) h2))
    (fun h1 => canonical_startWalks (canonical_setSlice h1))

theorem canonical_walkAgainAll {lo hi : Nat} (hc : Canonical s) : Canonical (walkAgainAll lo hi s) :=
  canonical_foldl hc (fun _ _ h1 => canonical_walkAgain h1)

theorem canonical_flushLines {slice : Nat → Nat} {lines : List Nat} (hc : Canonical s) :
    Canonical (flushLines slice lines s).2 :=
  canonical_foldl_snd hc (fun _ _ h1 => canonical_when (canonical_prepLine h1) (fun h2 => canonical_invalidateLine h2))

end Sys2Proof.Proofs.Canonical
end

section
/-!
SUPPORT. Canonical form (O60) under the copy engine: an operation keeps it that is made of operations that do.
-/
namespace Sys2Proof.Proofs.Canonical
open Sys2Proof.Machine Sys2Proof.Safety
set_option Elab.async false

variable {s : State}

theorem canonical_copyClaim {core e : Nat} (hc : Canonical s) : Canonical (copyClaim core e s) :=
  canonical_ite (canonical_mapCopy hc) hc

theorem canonical_queueCopy {fill : Bool} {core e : Nat} {a b : Word} {ss : List Src} (hc : Canonical s) :
    Canonical (queueCopy fill core e a b ss s) :=
  canonical_complete hc (canonical_mapCopy (canonical_copyClaim (canonical_commit hc)))

theorem kept_copyInstr {fill : Bool} {a b : BitVec 5} {e : BitVec 2} (hc : Canonical s) :
    Kept (copyInstr fill a b e s) := by
  refine kept_withOps hc ?_
  intro _
  refine canonical_acqGate hc ?_
  dsimp only
  split
  · exact canonical_raise hc
  · split
    · exact canonical_raise hc
    · split
      · exact canonical_raise hc
      · refine canonical_ite (canonical_raise hc) ?_
        refine canonical_ite (canonical_raise hc) ?_
        split
        · exact canonical_raise hc
        · exact canonical_ite (canonical_raise hc)
              (canonical_ite (canonical_park hc) (canonical_engRelease hc (fun _ h1 => canonical_queueCopy h1)))

theorem canonical_execXset_set {e : BitVec 2} {index : BitVec 6} {core : Nat} {vs : List Word} {ss : List Src}
    {x : CopyCtx} (hc : Canonical s) : Canonical (execXset.set e index core vs ss x s) :=
  canonical_ite (canonical_raise hc) (canonical_complete hc (canonical_mapCopy (canonical_copyClaim (canonical_commit hc))))

theorem kept_execXset {a : BitVec 5} {e : BitVec 2} {index : BitVec 6} (hc : Canonical s) :
    Kept (execXset a e index s) := by
  refine kept_withOps hc ?_
  intro _
  refine canonical_acqGate hc ?_
  dsimp only
  split
  · exact canonical_raise hc
  · exact canonical_ite (canonical_raise hc) (canonical_execXset_set hc)
  · exact canonical_execXset_set hc

theorem kept_execXcancel {e : BitVec 2} {rel : BitVec 1} (hc : Canonical s) : Kept (execXcancel e rel s) :=
  kept_withOps hc
    (fun _ =>
       canonical_acqGate hc
         (canonical_ite (canonical_complete hc hc)
            (canonical_ite (canonical_raise hc)
               (canonical_ite
                  (canonical_waitRetry (canonical_when (canonical_mapCopy hc) (fun h1 => canonical_post h1)))
                  (canonical_complete hc
                     (canonical_ite (canonical_offerWork (canonical_mapCopy hc)) (canonical_mapCopy hc)))))))

theorem canonical_mapCmd {core e : Nat} {f : CopyCmd → CopyCmd} (hc : Canonical s) : Canonical (mapCmd core e f s) :=
  canonical_mapCopy hc

/-- The state an access of an element leaves is canonical. -/
def CopyPlaceKept : CopyPlace → Prop
  | .at_ _ s | .stall s | .fail _ s => Canonical s

theorem canonical_copyPin {core e : Nat} {va : Word} {u : State} (hc : Canonical s) (h : copyPin core e va s = some u) :
    Canonical u := by
  unfold copyPin at h
  split at h
  · split at h
    · exact Option.some.inj h ▸ hc
    dsimp only at h
    split at h
    · exact Option.some.inj h ▸ hc
    split at h
    · exact Option.some.inj h ▸ hc
    · cases h
    rename_i e1
    have hpin : Canonical _ := kept_eq (P := PinnedKept) (canonical_pinPage hc) e1
    split at h
    · split at h
      · exact Option.some.inj h ▸ canonical_mapCmd hpin
      · exact Option.some.inj h ▸ canonical_unpin (canonical_mapCmd hpin)
    · exact Option.some.inj h ▸ canonical_mapCmd hpin
  · exact Option.some.inj h ▸ hc

theorem canonical_copyPlace {core e : Nat} {q : CopyCmd} {k : Acc} {va : Word} {size : Nat} (hc : Canonical s) :
    CopyPlaceKept (copyPlace core e q k va size s) := by
  unfold copyPlace
  split
  · exact hc
  · exact canonical_askXlat hc
  · dsimp only
    split
    · exact hc
    · exact canonical_joinStage hc
    · split
      · exact hc
      · exact keeps_ite (canonical_countPeer (canonical_usePlace (canonical_prepFor (canonical_copyPin hc ‹_›))))
            (canonical_prepFor (canonical_copyPin hc ‹_›))

theorem canonical_copySide {core e : Nat} {q : CopyCmd} {dst : Bool} (hc : Canonical s) :
    CopyPlaceKept (copySide core e q dst s).2 := by
  unfold copySide
  dsimp only
  split
  · exact keeps_ite hc hc
  · exact keeps_ite hc hc
  · exact canonical_copyPlace hc

/-- The state a step of a copy command leaves is canonical. -/
def CopyEndKept : CopyEnd → Prop
  | .stall s | .moved s | .failed _ s => Canonical s

/-- The state a read of an element leaves is canonical. -/
def CopyReadKept : CopyRead → Prop
  | .got _ s | .stall s | .fail _ s => Canonical s

theorem canonical_copyTile {core e : Nat} {q : CopyCmd} {x : Nat} (hc : Canonical s) :
    CopyEndKept (copyTile core e q x s) := by
  unfold copyTile
  split
  · exact hc
  · split
    · exact canonical_askXlat hc
    · exact hc
    · exact keeps_ite hc
          (keeps_ite (canonical_tileClear hc)
             (keeps_ite (canonical_tileClear hc) (canonical_writeTileBytes (canonical_tileClear hc))))

theorem canonical_copyRead {core e : Nat} {q : CopyCmd} (hc : Canonical s) : CopyReadKept (copyRead core e q s) := by
  refine keeps_ite hc ?_
  have hside := canonical_copySide (core := core) (e := e) (q := q) (dst := false) hc
  split
  · rename_i e1; rw [e1] at hside; exact hside
  · rename_i e1; rw [e1] at hside; exact hside
  · rename_i e1; rw [e1] at hside; exact canonical_nextFresh hside

theorem canonical_copyUnits {core e : Nat} {q : CopyCmd} {cs : List Host.Cell} (hc : Canonical s) :
    Canonical (copyUnits core e q cs s) := canonical_mapCmd (canonical_rawWrite hc)

theorem canonical_copyWrite {core e : Nat} {q : CopyCmd} {v : Nat} (hc : Canonical s) : CopyEndKept (copyWrite core e q v s) := by
  refine keeps_ite (canonical_copyTile hc) ?_
  have hside := canonical_copySide (core := core) (e := e) (q := q) (dst := true) hc
  split
  · rename_i e1; rw [e1] at hside; exact hside
  · rename_i e1; rw [e1] at hside; exact hside
  · rename_i e1
    rw [e1] at hside
    dsimp only [CopyEndKept]
    split
    · exact canonical_setDirty (canonical_performWrite hside)
    · exact canonical_copyUnits hside
    · exact canonical_rawWrite hside

theorem canonical_copyStep {core e : Nat} {q : CopyCmd} (hc : Canonical s) : CopyEndKept (copyStep core e q s) := by
  unfold copyStep
  split
  · rename_i e1
    exact (kept_eq (P := CopyReadKept) (canonical_copyRead hc) e1)
  · rename_i e2
    exact (kept_eq (P := CopyReadKept) (canonical_copyRead hc) e2)
  · rename_i e3
    exact canonical_copyWrite (kept_eq (P := CopyReadKept) (canonical_copyRead hc) e3)

theorem kept_execCopyElement (hc : Canonical s) : Kept (execCopyElement s) := by
  unfold execCopyElement
  split
  · refine kept_next ?_
    refine canonical_unless (canonical_taken hc) ?_
    intro h1
    dsimp only
    split
    · refine canonical_cell ?_
      refine canonical_foldl_snd h1 ?_
      intro _ _ h2
      split
      · exact h2
      · split
        · exact h2
        · split
          · rename_i e3
            exact (kept_eq (P := CopyEndKept) (canonical_copyStep h2) e3)
          · rename_i e4
            exact canonical_post
                  (canonical_mapCmd (canonical_rawWrite (kept_eq (P := CopyEndKept) (canonical_copyStep h2) e4)))
          · rename_i e5
            exact canonical_when (canonical_mapCmd (kept_eq (P := CopyEndKept) (canonical_copyStep h2) e5))
                  (fun h6 => canonical_post h6)
    · refine canonical_foldl_snd h1 ?_
      intro _ _ h7
      split
      · exact h7
      · split
        · exact h7
        · split
          · rename_i e8
            exact (kept_eq (P := CopyEndKept) (canonical_copyStep h7) e8)
          · rename_i e9
            exact canonical_post
                  (canonical_mapCmd (canonical_rawWrite (kept_eq (P := CopyEndKept) (canonical_copyStep h7) e9)))
          · rename_i e10
            exact canonical_when (canonical_mapCmd (kept_eq (P := CopyEndKept) (canonical_copyStep h7) e10))
                  (fun h11 => canonical_post h11)
  · exact kept_fault

theorem canonical_wakeCopyLimit {core : Nat} (hc : Canonical s) : Canonical (wakeCopyLimit core s) := by
  refine canonical_foldl hc ?_
  intro _ _ h1
  split
  · exact canonical_wakeLimit h1
  · exact h1

theorem canonical_copyRetire {core e : Nat} {q : CopyCmd} (hc : Canonical s) : Canonical (copyRetire core e q s) := by
  unfold copyRetire
  refine canonical_unless ?_ (fun h1 => canonical_wakeLimit h1)
  refine canonical_unless ?_ (fun h2 => canonical_wakeLimit h2)
  refine canonical_wakeCopyLimit ?_
  split
  · exact canonical_when
        (canonical_fireArms
           (canonical_mapCopy
              (canonical_mapCopy (canonical_chargeMove (canonical_foldl hc (fun _ _ h4 => canonical_unpin h4))))))
        (fun h3 => canonical_post h3)
  · split
    · exact canonical_ite
          (canonical_mapCopy
             (canonical_fireArms
                (canonical_mapCopy
                   (canonical_mapCopy
                      (canonical_chargeMove (canonical_foldl hc (fun _ _ h5 => canonical_unpin h5)))))))
          (canonical_mapCopy
             (canonical_fireArms
                (canonical_mapCopy
                   (canonical_mapCopy
                      (canonical_chargeMove (canonical_foldl hc (fun _ _ h6 => canonical_unpin h6)))))))
    · exact canonical_offerWork
          (canonical_mapCopy
             (canonical_fireArms
                (canonical_mapCopy
                   (canonical_mapCopy
                      (canonical_chargeMove (canonical_foldl hc (fun _ _ h7 => canonical_unpin h7)))))))
    · exact canonical_fireArms
          (canonical_mapCopy
             (canonical_mapCopy (canonical_chargeMove (canonical_foldl hc (fun _ _ h8 => canonical_unpin h8)))))

theorem kept_execCopyCommandComplete (hc : Canonical s) : Kept (execCopyCommandComplete s) := by
  unfold execCopyCommandComplete
  split
  · refine kept_next ?_
    dsimp only
    split
    · exact canonical_taken hc
    · exact canonical_unless (canonical_taken hc)
          (fun h1 =>
             canonical_unless (canonical_holdBack h1)
               (fun h2 =>
                  canonical_ite (canonical_post (canonical_post (canonical_mapCmd h1)))
                    (canonical_ite h2 (canonical_copyRetire h1))))
  · exact kept_fault

theorem kept_execTlRead {d a b : BitVec 5} {ma mb : BitVec 2} (hc : Canonical s) : Kept (execTlRead d a b ma mb s) :=
  kept_withOps hc
    (fun _ =>
       canonical_acqGate hc
         (canonical_unless (canonical_raise hc)
            (fun h1 =>
               canonical_ite (canonical_raise hc)
                 (canonical_ite (canonical_ite h1 (canonical_complete hc (canonical_writeDst (canonical_commit hc))))
                    (canonical_ite
                       (canonical_complete hc (canonical_raiseFloor (canonical_writeDst (canonical_commit hc))))
                       (canonical_ite (canonical_complete hc (canonical_writeDst (canonical_commit hc)))
                          (canonical_complete hc (canonical_writeDst (canonical_commit hc)))))))))

theorem canonical_armTimeline {core sel : Nat} {a : Thr × Nat × Nat} (hc : Canonical s) :
    Canonical (armTimeline core sel a s) := canonical_ite (canonical_mapCopy hc) (canonical_mapEng hc)

theorem kept_execTlArm {a b : BitVec 5} {ma mb : BitVec 2} (hc : Canonical s) : Kept (execTlArm a b ma mb s) :=
  kept_withOps hc
    (fun _ =>
       canonical_acqGate hc
         (canonical_ite (canonical_raise hc)
            (canonical_ite (canonical_raise hc)
               (canonical_ite
                  (canonical_complete hc
                     (canonical_raiseFloor
                        (canonical_me (canonical_keepCtx (canonical_commit hc) (canonical_commit hc) rfl rfl rfl))))
                  (canonical_park
                     (canonical_armTimeline
                        (canonical_keepCtx (canonical_commit hc) (canonical_commit hc) rfl rfl rfl)))))))

end Sys2Proof.Proofs.Canonical
end

section
/-!
SUPPORT. Canonical form (O60) under groups and collectives: an operation keeps it that is made of operations that do.
-/
namespace Sys2Proof.Proofs.Canonical
open Sys2Proof.Machine Sys2Proof.Safety
set_option Elab.async false

variable {s : State}

theorem canonical_collAt {core ctx g lcore : Nat} (hc : Canonical s) : Canonical (collAt s core ctx g lcore).2 := by
  unfold collAt
  dsimp only
  split
  · exact canonical_ite_snd hc (canonical_core hc)
  · split
    · exact canonical_core hc
    · exact hc

theorem canonical_mapColl {core g : Nat} {f : CollSlot → CollSlot} (hc : Canonical s) : Canonical (mapColl core g f s) := by
  unfold mapColl
  split
  · exact canonical_core hc
  · exact hc

theorem canonical_putColl {ctx : Nat} {c : Coll} (hc : Canonical s) : Canonical (putColl ctx c s) :=
  canonical_keepCtx hc hc rfl rfl rfl

theorem canonical_collEnd {ctx core : Nat} {c : Coll} {status : Nat} (hc : Canonical s) :
    Canonical (collEnd ctx core c status s) := by
  unfold collEnd
  split
  · exact hc
  · dsimp only
    split
    · exact canonical_sendWake (canonical_mapColl hc)
    · exact canonical_mapColl hc

theorem canonical_collForget {ctx : Nat} {c : Coll} (hc : Canonical s) : Canonical (collForget ctx c s) :=
  canonical_ite hc
    (canonical_keepCtx
       (canonical_foldl (canonical_foldl hc (fun _ _ h1 => canonical_mapColl h1)) (fun _ _ h2 => canonical_unpin h2))
       (canonical_foldl (canonical_foldl hc (fun _ _ h3 => canonical_mapColl h3)) (fun _ _ h4 => canonical_unpin h4))
       rfl rfl rfl)

theorem canonical_collAbort {ctx : Nat} {c : Coll} {status : Nat} (hc : Canonical s) :
    Canonical (collAbort ctx c status s) := canonical_collForget (canonical_foldl hc (fun _ _ h1 => canonical_collEnd h1))

theorem canonical_collChunk {ctx : Nat} {c : Coll} (hc : Canonical s) : Canonical (collChunk ctx c s) :=
  canonical_foldl hc (fun _ _ h1 => canonical_post h1)

theorem canonical_collState {ctx : Nat} {c : Coll} {st : Nat} (hc : Canonical s) : Canonical (collState ctx c st s) :=
  canonical_foldl hc (fun _ _ h1 => canonical_mapColl h1)

theorem canonical_collShrink {ctx : Nat} {c : Coll} (hc : Canonical s) : Canonical (collShrink ctx c s) :=
  canonical_ite (canonical_collAbort hc) (canonical_post (canonical_collState (canonical_putColl hc)))

theorem kept_execCollMemberLost (hc : Canonical s) : Kept (execCollMemberLost s) := by
  unfold execCollMemberLost
  split
  · refine kept_next ?_
    refine canonical_ite (canonical_holdBack (canonical_taken hc)) ?_
    dsimp only
    split
    · exact canonical_taken hc
    · exact canonical_foldl (canonical_taken hc)
          (fun _ _ h1 =>
             canonical_ite h1
               (canonical_unless (canonical_putColl h1)
                  (fun h2 =>
                     canonical_unless (canonical_collShrink h2)
                       (fun h3 =>
                          canonical_ite (canonical_hostEvent (canonical_collState (canonical_putColl h2)))
                            (canonical_ite h3 (canonical_collAbort h2))))))
  · exact kept_fault

theorem canonical_replyColl {ctx group value : Nat} (hc : Canonical s) : Canonical (replyColl ctx group value s) := by
  unfold replyColl
  split
  · exact hc
  · exact canonical_ite (canonical_post (canonical_putColl hc))
        (canonical_ite (canonical_collShrink hc) (canonical_collAbort hc))

theorem canonical_collBegin {ctx : Nat} {c : Coll} (hc : Canonical s) : Canonical (collBegin ctx c s) :=
  canonical_ite (canonical_collChunk (canonical_collState (canonical_putColl (canonical_nextFresh hc))))
    (canonical_collAbort (canonical_nextFresh hc))

theorem kept_execCollRepairDone (hc : Canonical s) : Kept (execCollRepairDone s) := by
  unfold execCollRepairDone
  split
  · refine kept_next ?_
    refine canonical_ite (canonical_holdBack (canonical_taken hc)) ?_
    dsimp only
    split
    · exact canonical_replyColl (canonical_taken hc)
    · split
      · exact canonical_taken hc
      · exact canonical_unless (canonical_taken hc)
            (fun h1 =>
               canonical_ite (canonical_collChunk (canonical_collState (canonical_putColl h1)))
                 (canonical_ite (canonical_collBegin h1) h1))
  · exact kept_fault

theorem canonical_tellPeers {ctx : Nat} {groups : List Nat} (hc : Canonical s) : Canonical (tellPeers s ctx groups) :=
  canonical_rest hc

theorem kept_execCollAllJoined (hc : Canonical s) : Kept (execCollAllJoined s) := by
  unfold execCollAllJoined
  split
  · refine kept_next ?_
    refine canonical_ite (canonical_holdBack (canonical_taken hc)) ?_
    refine canonical_ite (canonical_tellPeers (canonical_taken hc)) ?_
    dsimp only
    split
    · exact canonical_taken hc
    · exact canonical_unless (canonical_putColl (canonical_taken hc))
          (fun h1 =>
             canonical_ite (canonical_post h1)
               (canonical_ite (canonical_collBegin (canonical_taken hc))
                  (canonical_unless (canonical_taken hc) (fun h2 => h1))))
  · exact kept_fault

/-- The state an access of a chunk leaves is canonical. -/
def CollIOKept : CollIO → Prop
  | .done _ s | .asked s | .again s | .fault _ s => Canonical s

/-- The state the place of an element is found in is canonical. -/
def CollPlaceKept : Sum CollIO (Nat × State) → Prop
  | .inl r => CollIOKept r
  | .inr x => Canonical x.2

theorem canonical_collPin {ctx : Nat} {c : Coll} {va : Word} {t : State} (hc : Canonical s) (h : collPin ctx c va s = some t) :
    Canonical t := by
  unfold collPin at h
  dsimp only at h
  split at h
  · split at h
    · exact Option.some.inj h ▸ hc
    split at h
    · exact Option.some.inj h ▸ hc
    · cases h
    rename_i e1
    have hpin : Canonical _ := kept_eq (P := PinnedKept) (canonical_pinPage hc) e1
    split at h
    · split at h
      · exact Option.some.inj h ▸ canonical_putColl hpin
      · exact Option.some.inj h ▸ canonical_unpin (canonical_putColl hpin)
    · exact Option.some.inj h ▸ canonical_putColl hpin
  · exact Option.some.inj h ▸ hc

theorem canonical_collPlace {ctx : Nat} {c : Coll} {rank core : Nat} {x : CollSlot} {k : Acc} {va : Word} {size : Nat}
    (hc : Canonical s) : CollPlaceKept (collPlace ctx c rank core x k va size s) := by
  unfold collPlace
  split
  · exact hc
  · exact canonical_askXlat hc
  split
  · exact hc
  rename_i e1
  have hpin := canonical_collPin hc e1
  exact keeps_ite (P := CollPlaceKept) (canonical_countPeer (canonical_prepFor hpin)) (canonical_prepFor hpin)

theorem canonical_collRead {ctx : Nat} {c : Coll} {rank core : Nat} {x : CollSlot} {es : Nat} {va : Word} {n : Nat}
    {acc : List Byte} (hc : Canonical s) : CollIOKept (collRead ctx c rank core x es va n acc s) := by
  induction n generalizing s va acc with
  | zero => exact hc
  | succ n ih =>
    have hplace := canonical_collPlace (ctx := ctx) (c := c) (rank := rank) (core := core) (x := x) (k := .read) (va := va)
      (size := es) hc
    unfold collRead
    split
    · rename_i e1; rw [e1] at hplace; exact hplace
    · rename_i e1; rw [e1] at hplace; exact ih (canonical_nextFresh hplace)

theorem canonical_collWrite {ctx : Nat} {c : Coll} {rank core : Nat} {x : CollSlot} {es : Nat} {va : Word} {n : Nat}
    {bs : List Byte} (hc : Canonical s) : CollIOKept (collWrite ctx c rank core x es va n bs s) := by
  induction n generalizing s va bs with
  | zero => exact hc
  | succ n ih =>
    have hplace := canonical_collPlace (ctx := ctx) (c := c) (rank := rank) (core := core) (x := x) (k := .write) (va := va)
      (size := es) hc
    unfold collWrite
    split
    · rename_i e1; rw [e1] at hplace; exact hplace
    · rename_i e1; rw [e1] at hplace; exact ih (canonical_setDirty (canonical_performWrite hplace))

theorem canonical_sendPeers {ctx : Nat} {c : Coll} {bs : List Byte} {devs : List Nat} (hc : Canonical s) :
    Canonical (sendPeers ctx c bs devs s) := canonical_rest (canonical_ite hc (canonical_charged hc))

theorem canonical_collFinal {ctx : Nat} {c : Coll} {own : List Byte} (hc : Canonical s) :
    Canonical (collFinal ctx c own s) :=
  canonical_ite (canonical_putColl (canonical_sendPeers hc))
    (canonical_putColl (canonical_sendPeers (canonical_sendPeers (canonical_nextFresh hc))))

theorem canonical_collAck {ctx : Nat} {c : Coll} (hc : Canonical s) : Canonical (collAck ctx c s) :=
  canonical_ite
    (canonical_when (canonical_putColl (canonical_ite hc (canonical_foldl hc (fun _ _ h2 => canonical_post h2))))
       (fun h1 => canonical_collChunk h1))
    (canonical_putColl hc)

theorem kept_execCollChunkForward (hc : Canonical s) : Kept (execCollChunkForward s) := by
  unfold execCollChunkForward
  split
  · refine kept_next ?_
    refine canonical_ite (canonical_holdBack (canonical_taken hc)) ?_
    dsimp only
    split
    · exact canonical_taken hc
    · refine canonical_unless (canonical_taken hc) ?_
      intro h1
      split
      · exact h1
      · split
        · refine canonical_ite h1 ?_
          refine canonical_ite (canonical_collAck h1) ?_
          split
          · rename_i e2
            exact canonical_collAbort (canonical_errorRec (kept_eq (P := CollIOKept) (canonical_collWrite h1) e2))
          · rename_i e3
            exact (kept_eq (P := CollIOKept) (canonical_collWrite h1) e3)
          · rename_i e4
            exact canonical_holdBack (kept_eq (P := CollIOKept) (canonical_collWrite h1) e4)
          · rename_i e5
            exact canonical_collAck
                  (canonical_ite (kept_eq (P := CollIOKept) (canonical_collWrite h1) e5)
                     (canonical_chargeMove (kept_eq (P := CollIOKept) (canonical_collWrite h1) e5)))
        · refine canonical_ite h1 ?_
          refine canonical_ite h1 ?_
          refine canonical_ite (canonical_postAll (canonical_collFinal h1)) ?_
          refine canonical_ite ?_ ?_
          · split
            · rename_i e6
              exact canonical_collAbort (canonical_errorRec (kept_eq (P := CollIOKept) (canonical_collRead h1) e6))
            · rename_i e7
              exact (kept_eq (P := CollIOKept) (canonical_collRead h1) e7)
            · rename_i e8
              exact canonical_holdBack (kept_eq (P := CollIOKept) (canonical_collRead h1) e8)
            · rename_i e9
              exact canonical_postAll (canonical_collFinal (kept_eq (P := CollIOKept) (canonical_collRead h1) e9))
          · refine canonical_ite (canonical_holdBack h1) ?_
            split
            · rename_i e10
              exact canonical_collAbort (canonical_errorRec (kept_eq (P := CollIOKept) (canonical_collRead h1) e10))
            · rename_i e11
              exact (kept_eq (P := CollIOKept) (canonical_collRead h1) e11)
            · rename_i e12
              exact canonical_holdBack (kept_eq (P := CollIOKept) (canonical_collRead h1) e12)
            · rename_i e13
              exact canonical_unless
                    (canonical_unless (canonical_putColl (kept_eq (P := CollIOKept) (canonical_collRead h1) e13))
                       (fun h15 => canonical_chargeMove h15))
                    (fun h14 =>
                       canonical_foldl
                         (canonical_collFinal
                            (canonical_unless
                               (canonical_putColl (kept_eq (P := CollIOKept) (canonical_collRead h1) e13))
                               (fun h16 => canonical_chargeMove h16)))
                         (fun _ _ h17 => canonical_post h17))
  · exact kept_fault

theorem kept_execCollChunkAck (hc : Canonical s) : Kept (execCollChunkAck s) := by
  unfold execCollChunkAck
  split
  · refine kept_next ?_
    refine canonical_ite (canonical_holdBack (canonical_taken hc)) ?_
    dsimp only
    split
    · exact canonical_taken hc
    · split
      · exact canonical_taken hc
      · exact canonical_unless (canonical_taken hc)
            (fun h1 =>
               canonical_when (canonical_mapColl h1)
                 (fun h2 =>
                    canonical_ite (canonical_holdBack (canonical_mapColl h2))
                      (canonical_collForget (canonical_collEnd h2))))
  · exact kept_fault

theorem kept_execGrpInfo {d a b : BitVec 5} {ma mb : BitVec 2} (hc : Canonical s) : Kept (execGrpInfo d a b ma mb s) := by
  refine kept_withOps hc ?_
  intro _
  refine canonical_acqGate hc ?_
  refine canonical_ite (canonical_raise hc) ?_
  refine canonical_unless (canonical_raise hc) ?_
  intro h1
  dsimp only
  split
  · exact h1
  · split
    · exact canonical_complete hc (canonical_writeDst (canonical_commit hc))
    · exact canonical_complete hc (canonical_writeDst (canonical_commit hc))
    · split
      · exact canonical_complete hc (canonical_writeDst (canonical_commit hc))
      · exact h1
    · exact canonical_ite (canonical_complete hc (canonical_writeDst (canonical_commit hc))) h1

theorem kept_execCollStart {d a b : BitVec 5} {ma mb : BitVec 2} (hc : Canonical s) :
    Kept (execCollStart d a b ma mb s) := by
  refine kept_withOps hc ?_
  intro _
  refine canonical_acqGate hc ?_
  dsimp only
  split
  · exact canonical_raise hc
  · refine canonical_ite (canonical_raise hc) ?_
    refine canonical_readBlock hc ?_
    intro _ _ h1
    split
    · exact canonical_raise h1
    · split
      · exact canonical_raise h1
      · exact canonical_ite (canonical_raise h1)
            (canonical_ite (canonical_raise (canonical_collAt h1))
               (canonical_released (canonical_collAt h1)
                  (fun _ h2 =>
                     canonical_complete h2
                       (canonical_writeDst
                          (canonical_when
                             (canonical_ite
                                (canonical_when
                                   (canonical_keepCtx (canonical_core (canonical_commit h2))
                                      (canonical_core (canonical_commit h2)) rfl rfl rfl)
                                   (fun h4 => canonical_post h4))
                                (canonical_when
                                   (canonical_keepCtx (canonical_core (canonical_commit h2))
                                      (canonical_core (canonical_commit h2)) rfl rfl rfl)
                                   (fun h5 => canonical_post h5)))
                             (fun h3 => canonical_postAll h3))))))

theorem kept_execCollStat {d a : BitVec 5} {ma : BitVec 2} (hc : Canonical s) : Kept (execCollStat d a ma s) := by
  refine kept_withOps hc ?_
  intro _
  refine canonical_acqGate hc ?_
  dsimp only
  split
  · exact canonical_raise hc
  · exact canonical_ite (canonical_raise hc)
        (canonical_complete hc (canonical_raiseFloor (canonical_writeDst (canonical_commit hc))))

end Sys2Proof.Proofs.Canonical
end

section
/-!
SUPPORT. Canonical form (O60) under pages: an operation keeps it that is made of operations that do.
-/
namespace Sys2Proof.Proofs.Canonical
open Sys2Proof.Machine Sys2Proof.Safety
set_option Elab.async false

variable {s : State}

theorem canonical_putKstatWords {ctx : Nat} {va : Word} {ws : List Word} (hc : Canonical s) :
    Canonical (putKstatWords ctx va ws s) := by
  unfold putKstatWords
  split
  · exact canonical_vput hc
  · exact canonical_rawWrite hc
  · exact canonical_askXlat (canonical_keepCtx hc hc rfl rfl rfl)
  · exact hc

theorem canonical_putKstatOf {ctx : Nat} {desc : Word} {ws : List Word} (hc : Canonical s) :
    Canonical (putKstatOf ctx desc ws s) := by
  unfold putKstatOf
  split
  · exact canonical_putKstatWords hc
  · exact canonical_askXlat (canonical_keepCtx hc hc rfl rfl rfl)
  · exact hc

theorem canonical_retryKstat {ctx : Nat} (hc : Canonical s) : Canonical (retryKstat ctx s) :=
  canonical_foldl (canonical_keepCtx hc hc rfl rfl rfl)
    (fun _ _ h1 => canonical_ite (canonical_putKstatOf h1) (canonical_putKstatWords h1))

theorem canonical_releaseWaiter {va : Word} {slice : Nat} {w : Waiter} (hc : Canonical s) :
    Canonical (releaseWaiter va slice s w) := by
  cases w with
  | thread th v => exact canonical_sendWake hc
  | ldp _ _ => exact canonical_post hc
  | write _ => exact canonical_post hc
  | red th =>
    dsimp only [releaseWaiter]
    exact canonical_withThr hc fun _ h => canonical_ite (canonical_waitRetry h) h
  | engine _ _ _ => exact hc
  | tile _ _ _ => exact canonical_post hc
  | chunk _ _ _ _ => exact canonical_post hc
  | text _ _ => exact canonical_post hc
  | sqe _ _ => exact canonical_post hc
  | trap _ => exact canonical_post hc
  | peer _ _ _ _ => exact hc
  | nobody => exact hc
  | launch ctx code =>
    dsimp only [releaseWaiter]
    split
    · exact canonical_post hc
    · exact canonical_post hc
    · exact canonical_post hc
    · exact canonical_retryKstat hc
    · exact hc

theorem canonical_installXlat {slice : Nat} {e : XEnt} (hc : Canonical s) : Canonical (installXlat slice e s) := by
  unfold installXlat
  dsimp only
  split
  · exact canonical_setSlice hc
  · exact canonical_ite (canonical_setSlice (canonical_dropChunks hc)) (canonical_setSlice hc)

theorem kept_execTranslationMiss (hc : Canonical s) : Kept (execTranslationMiss s) := by
  unfold execTranslationMiss
  split
  · exact kept_next
        (canonical_ite (canonical_releaseWaiter (canonical_taken hc))
           (canonical_unless (canonical_after (canonical_taken hc))
              (fun h1 =>
                 canonical_ite (canonical_setSlice (canonical_taken hc))
                   (canonical_ite h1 (canonical_startWalks (canonical_setSlice (canonical_taken hc)))))))
  · exact kept_fault

theorem canonical_keepPtrs {slice : Nat} {ps : List WalkPtr} (hc : Canonical s) : Canonical (keepPtrs slice ps s) :=
  canonical_setSlice hc

theorem canonical_walkReady {ctx va : Nat} {start : Nat × Nat} (hc : Canonical s) :
    Canonical (walkReady s ctx va start).2 := canonical_foldl_snd hc (fun _ _ h1 => canonical_prepFor h1)

theorem canonical_releaseCoal {slice page : Nat} (hc : Canonical s) : Canonical (releaseCoal slice page s) :=
  canonical_rest (canonical_foldl (canonical_setSlice hc) (fun _ _ h1 => canonical_releaseWaiter h1))

theorem canonical_endWalk {slice page : Nat} (hc : Canonical s) : Canonical (endWalk slice page s) :=
  canonical_startWalks (canonical_setSlice hc)

theorem canonical_setHeld {slice page v : Nat} (hc : Canonical s) : Canonical (setHeld slice page v s) :=
  canonical_setSlice hc

theorem kept_execWalkComplete (hc : Canonical s) : Kept (execWalkComplete s) := by
  unfold execWalkComplete
  split
  · refine kept_next ?_
    dsimp only
    split
    · exact canonical_taken hc
    · refine canonical_ite (canonical_holdBack (canonical_walkReady (canonical_taken hc))) ?_
      split
      · exact canonical_ite
            (canonical_when
               (canonical_setHeld
                  (canonical_keepPtrs
                     (canonical_endWalk (canonical_nextFresh (canonical_walkReady (canonical_taken hc))))))
               (fun h1 => canonical_post h1))
            (canonical_unless
               (canonical_keepPtrs
                  (canonical_endWalk (canonical_nextFresh (canonical_walkReady (canonical_taken hc)))))
               (fun h2 => canonical_releaseCoal (canonical_installXlat (canonical_ite h2 (canonical_wr64 h2)))))
      · exact canonical_unless
            (canonical_keepPtrs (canonical_endWalk (canonical_nextFresh (canonical_walkReady (canonical_taken hc)))))
            (fun h3 => canonical_hostEvent (canonical_setHeld h3))
      · exact canonical_releaseCoal
            (canonical_unless
               (canonical_keepPtrs
                  (canonical_endWalk (canonical_nextFresh (canonical_walkReady (canonical_taken hc)))))
               (fun h4 => canonical_errorRec (canonical_setSlice h4)))
  · exact kept_fault

theorem canonical_hostPath {base reason status : Nat} (hc : Canonical s) : Canonical (hostPath base reason status s) :=
  canonical_hostEvent hc

theorem canonical_writeLeaf {pa : Nat} {leaf : Word} (hc : Canonical s) : Canonical (writeLeaf pa leaf s) :=
  canonical_wr64 hc

theorem canonical_keepLeaf {chip page : Nat} {leaf : Word} {pa : Nat} (hc : Canonical s) :
    Canonical (keepLeaf chip page leaf pa s) := canonical_putSqe hc (opsOk hc) (gensOk hc)

theorem canonical_scanRing {r : RegionEnt} {n i : Nat} (hc : Canonical s) : Canonical (scanRing r n i s).2 := by
  induction n generalizing s i with
  | zero => exact hc
  | succ n ih =>
    unfold scanRing
    split
    · exact ih hc
    · exact ih (canonical_dropAll (canonical_writeLeaf hc))
    · exact hc

theorem canonical_setWaiting {chip va : Nat} {on : Bool} (hc : Canonical s) : Canonical (setWaiting chip va on s) :=
  canonical_putSqe hc (opsOk hc) (gensOk hc)

theorem canonical_startEvict {chip va : Nat} {r : RegionEnt} (hc : Canonical s) : Canonical (startEvict chip va r s) := by
  unfold startEvict
  dsimp only
  split
  · exact canonical_setWaiting (canonical_scanRing hc)
  · split
    · exact canonical_setWaiting (canonical_scanRing hc)
    · exact canonical_post
          (canonical_setWaiting
             (canonical_dropAll
                (canonical_keepLeaf
                   (canonical_writeLeaf
                      (canonical_setHand (canonical_wr64 (canonical_takeOp (canonical_scanRing hc) ‹_›)))))))

theorem canonical_goEvict {chip n : Nat} {va page slot entry : Nat} {leaf : Word} (hc : Canonical s) :
    Canonical (goEvict chip n va page slot entry leaf s) :=
  canonical_ite (canonical_holdBack hc)
    (canonical_ite (canonical_holdBack (canonical_flushLines hc))
       (canonical_ite
          (canonical_post
             (canonical_setOp (canonical_foldl (canonical_flushLines hc) (fun _ _ h1 => canonical_cleanLine h1))))
          (canonical_ite
             (canonical_nvmeSend
                (canonical_setOp (canonical_foldl (canonical_flushLines hc) (fun _ _ h2 => canonical_cleanLine h2))))
             (canonical_post
                (canonical_setOp
                   (canonical_foldl (canonical_flushLines hc) (fun _ _ h3 => canonical_cleanLine h3)))))))

theorem canonical_goFill {chip n va : Nat} {slot : Option Nat} (hc : Canonical s) :
    Canonical (goFill chip n va slot s) := by
  unfold goFill
  split
  · refine canonical_ite (canonical_hostPath (canonical_endOp (canonical_setWaiting hc))) ?_
    refine canonical_ite (canonical_startEvict hc) ?_
    split
    · exact canonical_hostPath (canonical_endOp (canonical_setWaiting (canonical_snd ‹_› (canonical_popFrame hc))))
    · exact canonical_nvmeSend
          (canonical_keepLeaf (canonical_setWaiting (canonical_setOp (canonical_snd ‹_› (canonical_popFrame hc)))))
  · exact canonical_walkAgainAll (canonical_endOp (canonical_setWaiting hc))

theorem canonical_nextOffer {chip va : Nat} (hc : Canonical s) : Canonical (nextOffer chip va s) := by
  refine canonical_ite ?_ hc
  split
  · exact canonical_post (canonical_putSqe hc (opsOk hc) (gensOk hc))
  · exact canonical_putSqe hc (opsOk hc) (gensOk hc)

theorem kept_execStorageFaultAccept (hc : Canonical s) : Kept (execStorageFaultAccept s) := by
  unfold execStorageFaultAccept
  split
  · refine kept_next ?_
    dsimp only
    split
    · exact canonical_goEvict (canonical_taken hc)
    · split
      · exact canonical_unless (canonical_taken hc) (fun h1 => canonical_goFill h1)
      · exact canonical_taken hc
      · split
        · refine canonical_ite (canonical_walkAgainAll (canonical_nextOffer (canonical_taken hc))) ?_
          split
          · exact canonical_ite
                (canonical_ite (canonical_hostPath (canonical_nextOffer (canonical_taken hc)))
                   (canonical_ite (canonical_hostPath (canonical_nextOffer (canonical_taken hc)))
                      (canonical_goFill (canonical_nextOffer (canonical_takeOp (canonical_taken hc) ‹_›)))))
                (canonical_unless (canonical_taken hc) (fun h2 => canonical_putSqe h2 (opsOk h2) (gensOk h2)))
          · exact canonical_unless (canonical_taken hc) (fun h3 => canonical_putSqe h3 (opsOk h3) (gensOk h3))
        · exact canonical_walkAgainAll (canonical_nextOffer (canonical_taken hc))
  · exact kept_fault

/-- Words taken out, and words of an engine's events named anew. -/
theorem canonical_moveWords {from_ to_ n : Nat} {fe : Nat → Bool} (hc : Canonical s) : Canonical (moveWords from_ to_ n fe s) := by
  refine canonical_rest (canonical_foldl (canonical_foldl ?_ fun _ _ h => canonical_unless h fun h => canonical_setWord h) ?_)
  · exact canonical_words hc (Tab.wf_filter _ hc.2.2.1)
  · exact fun _ _ h => canonical_ite (canonical_setWord h) (canonical_touchWord (canonical_setWord h))

theorem canonical_settleAll {at_ n : Nat} (hc : Canonical s) : Canonical (settleAll at_ n s) :=
  canonical_foldl hc (fun _ _ h1 => canonical_ite (canonical_settle h1) h1)

theorem kept_execPageFillComplete (hc : Canonical s) : Kept (execPageFillComplete s) := by
  unfold execPageFillComplete
  split
  · refine kept_next ?_
    dsimp only
    split
    · refine canonical_unless (canonical_taken hc) ?_
      intro h1
      refine canonical_ite (canonical_hostPath (canonical_endOp (canonical_pushFrame h1))) ?_
      split
      · exact canonical_walkAgainAll
            (canonical_endOp
               (canonical_setResident
                  (canonical_wr64
                     (canonical_wr64
                        (canonical_wr64
                           (canonical_wr64
                              (canonical_writeLeaf
                                 (canonical_settleAll
                                    (canonical_moveWords
                                       (canonical_foldl (canonical_devPut h1)
                                          (fun _ _ h2 => canonical_cleanLine h2)))))))))))
      · exact canonical_walkAgainAll (canonical_endOp (canonical_pushFrame h1))
    · exact canonical_taken hc
  · exact kept_fault

theorem kept_execEvictionWritebackDone (hc : Canonical s) : Kept (execEvictionWritebackDone s) := by
  unfold execEvictionWritebackDone
  split
  · refine kept_next ?_
    dsimp only
    split
    · refine canonical_unless (canonical_taken hc) ?_
      intro h1
      refine canonical_post ?_
      refine canonical_ite ?_ ?_
      · refine canonical_hostEvent ?_
        refine canonical_errorRec ?_
        refine canonical_walkAgainAll ?_
        refine canonical_endOp ?_
        refine canonical_dropAll ?_
        split
        · exact canonical_writeLeaf (canonical_wr64 h1)
        · exact canonical_wr64 h1
      · refine canonical_when ?_ (fun h2 => canonical_post h2)
        refine canonical_endOp ?_
        split
        · refine canonical_when ?_ (fun h3 => canonical_setOp h3)
          split
          · exact canonical_setResident
                (canonical_wr64
                   (canonical_wr64 (canonical_wr64 (canonical_pushFrame (canonical_moveWords (canonical_wr64 h1))))))
          · exact canonical_wr64
                (canonical_wr64 (canonical_wr64 (canonical_pushFrame (canonical_moveWords (canonical_wr64 h1)))))
        · split
          · exact canonical_setResident
                (canonical_wr64
                   (canonical_wr64 (canonical_wr64 (canonical_pushFrame (canonical_moveWords (canonical_wr64 h1))))))
          · exact canonical_wr64
                (canonical_wr64 (canonical_wr64 (canonical_pushFrame (canonical_moveWords (canonical_wr64 h1)))))
    · exact canonical_taken hc
  · exact kept_fault

theorem canonical_replyFault {va value : Nat} (hc : Canonical s) : Canonical (replyFault va value s) :=
  canonical_ite (canonical_post hc) hc

theorem canonical_migrFrame {chip va bits_ : Nat} (hc : Canonical s) : Canonical (migrFrame chip va bits_ s).2 := by
  refine canonical_ite_snd (canonical_popFrame hc) ?_
  dsimp only
  split
  · exact canonical_putSqe hc (opsOk hc) (gensOk hc)
  · split
    · exact (canonical_snd ‹_› (canonical_popFrame hc))
    · exact canonical_putSqe (canonical_snd ‹_› (canonical_popFrame hc))
          (opsOk (canonical_snd ‹_› (canonical_popFrame hc))) (gensOk (canonical_snd ‹_› (canonical_popFrame hc)))

theorem canonical_returnFrame {chip va : Nat} {bits_ f : Nat} (hc : Canonical s) :
    Canonical (returnFrame chip va bits_ f s) :=
  canonical_ite (canonical_pushFrame hc) (canonical_putSqe hc (opsOk hc) (gensOk hc))

theorem canonical_startMigr {e : XEnt} {ctx chiplet : Nat} (hc : Canonical s) : Canonical (startMigr e ctx chiplet s) := by
  refine canonical_ite (canonical_hostEvent hc) ?_
  refine canonical_ite hc ?_
  dsimp only
  split
  · rename_i e1
    exact canonical_hostEvent (canonical_snd e1 (canonical_migrFrame hc))
  · rename_i e1
    have hframe : Canonical _ := canonical_snd e1 (canonical_migrFrame hc)
    split
    · exact hframe
    · rename_i e2
      exact canonical_post (canonical_dropAll (canonical_takeOp hframe e2))

theorem canonical_remoteTouch {slice : Nat} {va : Word} {ctx core : Nat} (hc : Canonical s) :
    Canonical (remoteTouch slice va ctx core s) := by
  unfold remoteTouch
  dsimp only
  split
  · exact hc
  · exact canonical_ite hc
        (canonical_unless (canonical_setSlice hc)
           (fun h1 =>
              canonical_ite (canonical_hostEvent (canonical_setSlice (canonical_setSlice hc)))
                (canonical_startMigr (canonical_setSlice hc))))

theorem canonical_failRemote {w : Waiter} {c : Cause} (hc : Canonical s) : Canonical (failRemote w c s) := by
  unfold failRemote
  split
  · exact canonical_failRead hc
  · exact canonical_refuseStore hc
  · exact canonical_failAtomic (canonical_ackRequest hc)
  · exact canonical_failAtomic (canonical_ackRequest hc)
  · exact hc

theorem kept_execRemoteAccess (hc : Canonical s) : Kept (execRemoteAccess s) := by
  unfold execRemoteAccess
  split
  · refine kept_next ?_
    refine canonical_ite (canonical_failRemote (canonical_taken hc)) ?_
    refine canonical_ite (canonical_failRemote (canonical_nextFresh (canonical_taken hc))) ?_
    dsimp only
    split
    · dsimp only
      split
      · exact canonical_post
            (canonical_nextFresh (canonical_rest (canonical_remoteTouch (canonical_charged (canonical_taken hc)))))
      · exact canonical_post
            (canonical_nextFresh (canonical_rest (canonical_remoteTouch (canonical_charged (canonical_taken hc)))))
    · split
      · exact canonical_remoteTouch (canonical_charged (canonical_taken hc))
      · exact canonical_ackRequest
            (canonical_performWrite (canonical_remoteTouch (canonical_charged (canonical_taken hc))))
    · exact canonical_ackRequest
          (canonical_when (canonical_rest (canonical_remoteTouch (canonical_charged (canonical_taken hc))))
             (fun h1 => canonical_post h1))
    · exact canonical_remoteTouch (canonical_charged (canonical_taken hc))
  · exact kept_fault

theorem kept_execMigrationComplete (hc : Canonical s) : Kept (execMigrationComplete s) := by
  unfold execMigrationComplete
  split
  · refine kept_next ?_
    dsimp only
    split
    · refine canonical_unless (canonical_taken hc) ?_
      intro h1
      split
      · exact canonical_walkAgainAll
            (canonical_endOp
               (canonical_rest
                  (canonical_dropAll
                     (canonical_writeLeaf (canonical_settleAll (canonical_moveWords (canonical_devPut h1)))))))
      · exact canonical_walkAgainAll (canonical_endOp (canonical_returnFrame h1))
    · exact canonical_taken hc
  · exact kept_fault

theorem kept_execReleaseNotice (hc : Canonical s) : Kept (execReleaseNotice s) := by
  unfold execReleaseNotice
  split
  · exact kept_next (canonical_hostEvent (canonical_taken hc))
  · exact kept_fault

theorem canonical_mapTransfer {chip n : Nat} {f : Transfer → Transfer} (hc : Canonical s) :
    Canonical (mapTransfer chip n f s) := by
  unfold mapTransfer
  split
  · exact canonical_setOp hc
  · exact hc

theorem canonical_finishTransfer {chip n status : Nat} (hc : Canonical s) : Canonical (finishTransfer chip n status s) := by
  unfold finishTransfer
  split
  · exact canonical_ite (canonical_endOp hc)
        (canonical_foldl (canonical_setOp hc) (fun _ _ h1 => canonical_sendWake h1))
  · exact hc

theorem canonical_endTransfer {chip n status : Nat} (hc : Canonical s) : Canonical (endTransfer chip n status s) := by
  unfold endTransfer
  split
  · exact canonical_ite hc
        (canonical_ite
           (canonical_finishTransfer
              (canonical_nvmeDone (canonical_setOp (canonical_foldl hc (fun _ _ h1 => canonical_unpin h1)))))
           (canonical_post
              (canonical_nvmeDone (canonical_setOp (canonical_foldl hc (fun _ _ h2 => canonical_unpin h2))))))
  · exact hc

theorem canonical_byteCounted {status : Nat} {u : Updater} (hc : Canonical s) : Canonical (byteCounted status s u) := by
  cases u with
  | copy core e => exact canonical_mapCmd hc
  | transfer chip n => exact canonical_finishTransfer hc

theorem kept_execBarrierBytes (hc : Canonical s) : Kept (execBarrierBytes s) := by
  unfold execBarrierBytes
  split
  · exact kept_next
        (canonical_barCount (fun _ _ _ h1 => canonical_byteCounted (canonical_barBytes h1))
           (fun _ h2 => canonical_byteCounted h2) (canonical_taken hc))
  · exact kept_fault

/-- The state the pages of a buffer leave is canonical. -/
def PagesKept : Pages → Prop
  | .ready s | .wait s | .bad _ s => Canonical s
  | .miss _ => True

theorem canonical_bufPages {core : Nat} {th : Thr} {priv : Nat} {rd : Bool} {chip n : Nat} {vas : List Word} (hc : Canonical s) :
    PagesKept (bufPages core th priv rd chip n vas s) := by
  induction vas generalizing s with
  | nil => exact hc
  | cons va rest ih =>
    unfold bufPages
    split
    · exact hc
    · trivial
    refine keeps_ite hc ?_
    split
    · split
      · exact ih hc
      refine keeps_ite (ih hc) ?_
      split
      · exact ih hc
      · exact hc
      · rename_i e1
        exact ih (canonical_setOp (kept_eq (P := PinnedKept) (canonical_pinPage hc) e1))
    · exact hc

theorem canonical_demoteTiles {lo hi : Nat} (hc : Canonical s) : Canonical (demoteTiles lo hi s).2 :=
  canonical_foldl_snd hc
    (fun _ _ h1 =>
       canonical_foldl_snd h1
         (fun _ _ h2 =>
            canonical_ite_snd
              (canonical_ite_snd h2
                 (canonical_ite_snd (canonical_mapTile (canonical_recallTile h2)) (canonical_mapTile h2)))
              h2))

theorem canonical_sqeGo {chip n slice : Nat} {va : Word} (hc : Canonical s) : Canonical (sqeGo chip n slice va s) := by
  unfold sqeGo
  dsimp only
  split
  · refine canonical_ite (canonical_holdBack (canonical_demoteTiles hc)) ?_
    split
    · exact canonical_ite
          (canonical_walkAgainAll (canonical_endOp (canonical_returnFrame (canonical_demoteTiles hc))))
          (canonical_rest (canonical_keepLeaf (canonical_setOp (canonical_demoteTiles hc))))
    · exact canonical_walkAgainAll (canonical_endOp (canonical_returnFrame (canonical_demoteTiles hc)))
  · refine canonical_ite hc ?_
    refine canonical_ite (canonical_endTransfer hc) ?_
    split
    · rename_i e1
      exact canonical_endTransfer (kept_eq (P := PagesKept) (canonical_bufPages hc) e1)
    · exact canonical_askXlat hc
    · rename_i e2
      exact canonical_holdBack (kept_eq (P := PagesKept) (canonical_bufPages hc) e2)
    · rename_i e3
      exact canonical_ite
            (canonical_foldl (canonical_mapTransfer (kept_eq (P := PagesKept) (canonical_bufPages hc) e3))
               (fun _ _ h4 => canonical_nvmeSend h4))
            (canonical_ite
               (canonical_holdBack
                  (canonical_foldl_snd (kept_eq (P := PagesKept) (canonical_bufPages hc) e3)
                     (fun _ _ h5 => canonical_prepFor h5)))
               (canonical_foldl
                  (canonical_mapTransfer
                     (canonical_foldl_snd (kept_eq (P := PagesKept) (canonical_bufPages hc) e3)
                        (fun _ _ h6 => canonical_prepFor h6)))
                  (fun _ _ h7 => canonical_nvmeSend h7)))
  · exact hc

theorem kept_execRetryWakeTimer (hc : Canonical s) : Kept (execRetryWakeTimer s) := by
  unfold execRetryWakeTimer
  split
  · refine kept_next ?_
    dsimp only
    split
    · exact canonical_sendWake (canonical_taken hc)
    · exact canonical_sqeGo (canonical_taken hc)
    · exact canonical_post (canonical_taken hc)
  · exact kept_fault

theorem kept_execStoTransferComplete (hc : Canonical s) : Kept (execStoTransferComplete s) := by
  unfold execStoTransferComplete
  split
  · refine kept_next ?_
    dsimp only
    split
    · exact canonical_unless (canonical_taken hc)
          (fun h1 =>
             canonical_ite
               (canonical_ite (canonical_holdBack (canonical_foldl_snd h1 (fun _ _ h2 => canonical_prepFor h2)))
                  (canonical_post
                     (canonical_foldl (canonical_foldl_snd h1 (fun _ _ h3 => canonical_prepFor h3))
                        (fun _ _ h4 => canonical_setDirty (canonical_performWrite h4)))))
               (canonical_ite (canonical_holdBack h1)
                  (canonical_endTransfer (canonical_ite (canonical_errorRec h1) h1))))
    · exact canonical_taken hc
  · exact kept_fault

theorem kept_stoInstr {rd : Bool} {d a : BitVec 5} {ma : BitVec 2} (hc : Canonical s) : Kept (stoInstr rd d a ma s) := by
  refine kept_withOps hc ?_
  intro _
  refine canonical_acqGate hc ?_
  refine canonical_ite (canonical_raise hc) ?_
  refine canonical_readBlock hc ?_
  intro _ _ h1
  refine canonical_ite (canonical_raise h1) ?_
  refine canonical_ite (canonical_raise h1) ?_
  refine canonical_ite (canonical_raise h1) ?_
  refine canonical_ite (canonical_raise h1) ?_
  refine canonical_ite (canonical_raise h1) ?_
  refine canonical_ite (canonical_raise h1) ?_
  refine canonical_engRelease h1 ?_
  intro _ h2
  dsimp only
  split
  · exact canonical_waitRetry h2
  · exact canonical_advance (canonical_writeDst (canonical_post (canonical_commit (canonical_takeOp h2 ‹_›))))

theorem kept_execStoSync {d a : BitVec 5} {ma : BitVec 2} (hc : Canonical s) : Kept (execStoSync d a ma s) := by
  refine kept_withOps hc ?_
  intro _
  refine canonical_acqGate hc ?_
  dsimp only
  split
  · refine canonical_ite (canonical_complete hc (canonical_writeDst (canonical_commit hc))) ?_
    split
    · exact canonical_park (canonical_setOp hc)
    · exact canonical_complete hc
          (canonical_raiseFloor
             (canonical_writeDst
                (canonical_commit (canonical_endOp (canonical_putSqe hc (opsOk hc) (Tab.wf_put _ _ (gensOk hc)))))))
  · exact canonical_complete hc (canonical_writeDst (canonical_commit hc))

theorem kept_execXlatInv {a b : BitVec 5} {ma mb : BitVec 2} (hc : Canonical s) : Kept (execXlatInv a b ma mb s) :=
  kept_needPriv hc
    (kept_withOps hc
       (fun _ =>
          canonical_acqGate hc
            (canonical_ite (canonical_raise hc)
               (canonical_ite (canonical_raise hc)
                  (canonical_ite (canonical_waitRetry hc)
                     (canonical_released hc
                        (fun _ h1 => canonical_complete h1 (canonical_postAll (canonical_commit h1)))))))))

theorem kept_execFenceXlat (hc : Canonical s) : Kept (execFenceXlat s) :=
  kept_needPriv hc (kept_withOps hc (fun _ => canonical_ite (canonical_complete hc hc) (canonical_waitRetry hc)))

theorem kept_execXlatInvAtSlice (hc : Canonical s) : Kept (execXlatInvAtSlice s) := by
  unfold execXlatInvAtSlice
  split
  · exact kept_next
        (canonical_ite
           (canonical_holdBack
              (canonical_unless (canonical_taken hc)
                 (fun h1 => canonical_retryFills (canonical_walkAgain (canonical_dropXlat h1)))))
           (canonical_setSlice
              (canonical_unless (canonical_taken hc)
                 (fun h2 => canonical_retryFills (canonical_walkAgain (canonical_dropXlat h2))))))
  · exact kept_fault

end Sys2Proof.Proofs.Canonical
end

section
/-!
SUPPORT. Canonical form (O60) under traps and the event ring: an operation keeps it that is made of operations that do.
-/
namespace Sys2Proof.Proofs.Canonical
open Sys2Proof.Machine Sys2Proof.Safety
set_option Elab.async false

variable {s : State}

theorem canonical_releasePins (hc : Canonical s) : Canonical (releasePins s) :=
  canonical_ite hc (canonical_settleQueues (canonical_me hc))

theorem canonical_noteLink (hc : Canonical s) : Canonical (noteLink s) := canonical_ite hc (canonical_putTaskLink hc)

theorem canonical_csrPut {n : Nat} {v : Word} (hc : Canonical s) : Canonical (csrPut n v s) := by
  unfold csrPut
  dsimp only
  split
  · exact canonical_me hc
  · exact canonical_releasePins (canonical_me hc)
  · exact canonical_noteLink (canonical_me hc)
  · exact canonical_noteLink (canonical_me hc)
  · exact canonical_keepCtx hc hc rfl rfl rfl
  · exact canonical_keepCtx hc hc rfl rfl rfl
  · exact canonical_keepCtx hc hc rfl rfl rfl
  · exact canonical_keepCtx hc hc rfl rfl rfl
  · exact canonical_me hc
  · exact canonical_me hc
  · exact canonical_me hc
  · exact canonical_me hc
  · exact canonical_keepCtx hc hc rfl rfl rfl
  · exact canonical_rest hc
  · exact hc

theorem kept_execCsrRd {d : BitVec 5} {csr : BitVec 12} (hc : Canonical s) : Kept (execCsrRd d csr s) := by
  unfold execCsrRd
  dsimp only
  split
  · exact kept_next (canonical_raise hc)
  · exact kept_needPriv hc
        (kept_withOps hc (fun _ => canonical_complete hc (canonical_writeDst (canonical_ite (canonical_me hc) hc))))

theorem kept_csrInstr {f : Word → Word → Word} {csr : BitVec 12} {a : BitVec 5} (hc : Canonical s) :
    Kept (csrInstr f csr a s) := by
  unfold csrInstr
  dsimp only
  split
  · exact kept_next (canonical_raise hc)
  · exact kept_needPriv hc (kept_withOps hc (fun _ => canonical_complete hc (canonical_csrPut (canonical_commit hc))))

theorem kept_execCsrWr {a : BitVec 5} {csr : BitVec 12} (hc : Canonical s) : Kept (execCsrWr a csr s) := kept_csrInstr hc

theorem kept_execCsrSet {a : BitVec 5} {csr : BitVec 12} (hc : Canonical s) : Kept (execCsrSet a csr s) := kept_csrInstr hc

theorem kept_execCsrClr {a : BitVec 5} {csr : BitVec 12} (hc : Canonical s) : Kept (execCsrClr a csr s) := kept_csrInstr hc

theorem kept_execSysCall {a : BitVec 5} {ma : BitVec 2} (hc : Canonical s) : Kept (execSysCall a ma s) :=
  kept_withOps hc (fun _ => canonical_ite (canonical_raise hc) (canonical_raiseWith (canonical_commit hc)))

theorem kept_execMark {a : BitVec 5} {ma : BitVec 2} (hc : Canonical s) : Kept (execMark a ma s) :=
  kept_withOps hc (fun _ => canonical_complete hc (canonical_trace (canonical_commit hc)))

/-- The state an event is written in is canonical. -/
def RingEndKept (r : RingEnd) : Prop := ∀ u, r = .written u → Canonical u

theorem ring_written (hc : Canonical s) : RingEndKept (.written s) := fun _ e => RingEnd.written.inj e ▸ hc

theorem ring_full : RingEndKept .full := fun _ e => by cases e

theorem ring_coming {va : Word} : RingEndKept (.coming va) := fun _ e => by cases e

theorem ring_refused : RingEndKept .refused := fun _ e => by cases e

theorem canonical_ringThrough {block : Word} {machine : Bool} {ctx core : Nat} {cause : Cause} {info addr : Word}
    (hc : Canonical s) : RingEndKept (ringThrough block machine ctx core cause info addr s) := by
  unfold ringThrough
  refine keeps_ite ring_coming ?_
  split
  · exact ring_refused
  · exact keeps_ite ring_coming (keeps_ite ring_refused (keeps_ite ring_full
      (ring_written (canonical_postHandler (canonical_vput64 (canonical_vput hc))))))

theorem canonical_ringWrite {ctx : Nat} {e : CtxEvent} (hc : Canonical s) : RingEndKept (ringWrite ctx e s) := by
  unfold ringWrite
  dsimp only
  split
  · split
    · rename_i e1
      exact ring_written (canonical_ringThrough hc _ e1)
    · exact ring_coming
    · exact ring_full
    · exact ring_written (canonical_post (canonical_errorRec hc))
  · exact canonical_ringThrough hc

theorem canonical_serveRing {ctx n : Nat} (hc : Canonical s) : Canonical (serveRing ctx n s) := by
  induction n generalizing s with
  | zero => exact hc
  | succ n ih =>
    unfold serveRing
    split
    · exact hc
    have hctx {x : List CtxEvent} : Canonical (setCtx s ctx { ctxAt s ctx with evwait := x }) :=
      canonical_keepCtx hc hc rfl rfl rfl
    split
    · rename_i e1
      exact ih (canonical_ringWrite hctx _ e1)
    · exact canonical_askXlat hc
    · exact hc

theorem kept_execEventRingWrite (hc : Canonical s) : Kept (execEventRingWrite s) := by
  unfold execEventRingWrite
  split
  · refine kept_next ?_
    refine canonical_unless (canonical_taken hc) ?_
    intro h1
    refine canonical_unless (canonical_keepCtx h1 h1 rfl rfl rfl) ?_
    intro h2
    dsimp only
    split
    · rename_i e3
      exact (canonical_ringWrite h1 _ e3)
    · exact canonical_keepCtx (canonical_askXlat h1) (canonical_askXlat h1) rfl rfl rfl
    · exact canonical_keepCtx h1 h1 rfl rfl rfl
  · exact kept_fault

theorem kept_execTrapDelivery (hc : Canonical s) : Kept (execTrapDelivery s) := by
  unfold execTrapDelivery
  split
  · exact kept_next (canonical_deliverTrap (canonical_taken hc))
  · exact kept_fault

theorem kept_execHandlerStart (hc : Canonical s) : Kept (execHandlerStart s) := by
  unfold execHandlerStart
  split
  · refine kept_next ?_
    refine canonical_inOrder (canonical_taken hc) ?_
    intro _ h1
    refine canonical_ite h1 ?_
    refine canonical_ite (canonical_ite h1 (canonical_holdIn h1)) ?_
    dsimp only
    split
    · exact canonical_ite (canonical_holdIn (canonical_after h1)) (canonical_holdIn h1)
    · split
      · exact canonical_nextFresh
            (canonical_markResident
               (canonical_thread (canonical_putRec (canonical_takeTid (canonical_ite (canonical_core h1) h1)))))
      · exact canonical_ite (canonical_ite h1 (canonical_core h1))
            (canonical_enterPool (canonical_putRec (canonical_takeTid h1)))
  · exact kept_fault

theorem kept_execHandlerStartTimeout (hc : Canonical s) : Kept (execHandlerStartTimeout s) := by
  unfold execHandlerStartTimeout
  split
  · exact kept_next
        (canonical_when (canonical_taken hc) (fun h1 => canonical_hostEvent (canonical_errorRec (canonical_rest h1))))
  · exact kept_fault

theorem kept_execSysRet {a b : BitVec 5} {ma mb : BitVec 2} (hc : Canonical s) : Kept (execSysRet a b ma mb s) := by
  refine kept_needPriv hc ?_
  refine kept_withOps hc ?_
  intro _
  refine canonical_acqGate hc ?_
  dsimp only
  split
  · exact canonical_raise hc
  · exact canonical_ite (canonical_raise hc)
        (canonical_ite (canonical_raise hc)
           (canonical_readBlock hc
              (fun _ _ h1 =>
                 canonical_ite (canonical_raise h1)
                   (canonical_released h1
                      (fun _ h2 =>
                         canonical_atHome h2
                           (fun _ _ h3 =>
                              canonical_ite
                                (canonical_complete h3
                                   (canonical_serveRing
                                      (canonical_performWrite (canonical_setDirty (canonical_commit h3)))))
                                (canonical_ite (canonical_raise h3)
                                   (canonical_complete h3
                                      (canonical_ite
                                         (canonical_mapThread
                                            (canonical_resumeTrapped
                                               (canonical_performWrite (canonical_setDirty (canonical_commit h3)))))
                                         (canonical_endThread
                                            (canonical_performWrite
                                               (canonical_setDirty (canonical_commit h3)))))))))))))

theorem canonical_stepDone {s0 : State} {regs : List (Nat × Word)} {last : Bool} (hs0 : Canonical s0)
    (hc : Canonical s) : Canonical (stepDone s0 regs last s) :=
  canonical_ite (canonical_complete hs0 (canonical_me hc)) (canonical_me (canonical_me hc))

theorem canonical_stepRead {va : Word} {k : Nat} {next : List Byte → State → State} (hc : Canonical s)
    (hnext : ∀ bs u, Canonical u → Canonical (next bs u)) : Canonical (stepRead va k s next) := by
  unfold stepRead
  split
  · rename_i e1; exact canonical_plan hc e1
  · exact canonical_ite (hnext _ _ (canonical_foldl (canonical_readElems hc) fun _ _ h => canonical_usePlace h))
      (canonical_waitRetry (canonical_readElems hc))

theorem canonical_stepWrite {va : Word} {bs : List Byte} {next : State → State} (hc : Canonical s)
    (hnext : ∀ u, Canonical u → Canonical (next u)) : Canonical (stepWrite va bs s next) := by
  unfold stepWrite
  split
  · exact (canonical_plan hc ‹_›)
  · exact hnext _ (canonical_queueStores hc)

theorem kept_blockInstr {d a b : BitVec 5} {step : Word → Word → Word → State → State} (hc : Canonical s)
    (hstep : ∀ x y z u, Canonical u → Canonical (step x y z u)) : Kept (blockInstr d a b s step) :=
  kept_withOps hc
    (fun _ => canonical_acqGate hc (canonical_ite (canonical_complete hc hc) (hstep _ _ _ _ (canonical_me hc))))

theorem kept_execMvblk {d a b : BitVec 5} (hc : Canonical s) : Kept (execMvblk d a b s) :=
  kept_blockInstr hc
    (fun _ _ _ _ h1 =>
       canonical_stepRead h1 (fun _ _ h2 => canonical_stepWrite h2 (fun _ h3 => canonical_stepDone h1 h3)))

theorem kept_execStblk {d a b : BitVec 5} (hc : Canonical s) : Kept (execStblk d a b s) :=
  kept_blockInstr hc (fun _ _ _ _ h1 => canonical_stepWrite h1 (fun _ h2 => canonical_stepDone h1 h2))

theorem kept_execCmpblk {d a b : BitVec 5} (hc : Canonical s) : Kept (execCmpblk d a b s) :=
  kept_blockInstr hc
    (fun _ _ _ _ h1 =>
       canonical_stepRead h1
         (fun _ _ h2 =>
            canonical_stepRead h2
              (fun _ _ h3 => canonical_ite (canonical_complete h1 h3) (canonical_stepDone h1 h3))))

theorem kept_execIllinst (hc : Canonical s) : Kept (execIllinst s) := by
  unfold execIllinst
  split
  · exact kept_next (canonical_raiseWith (canonical_taken hc))
  · exact kept_fault

end Sys2Proof.Proofs.Canonical
end

section
/-!
SUPPORT. Canonical form (O60) under fetches and launches: an operation keeps it that is made of operations that do.
-/
namespace Sys2Proof.Proofs.Canonical
open Sys2Proof.Machine Sys2Proof.Safety
set_option Elab.async false

variable {s : State}

/-- The state that a read of a device unit leaves. -/
def readLeft {α : Type} : LRead α → Option State
  | .got _ s | .miss _ s | .busy s => some s
  | .bad _ _ => none

def LReadKept {α : Type} (r : LRead α) : Prop := ∀ u, readLeft r = some u → Canonical u

theorem lread_left {α : Type} {r : LRead α} (e : readLeft r = some s) (hc : Canonical s) : LReadKept r :=
  fun _ h => Option.some.inj (e.symm.trans h) ▸ hc

theorem lread_bad {α : Type} {va : Word} {c : Cause} : LReadKept (.bad va c : LRead α) := fun _ h => by cases h

theorem canonical_LRead_andThen {α β : Type} {r : LRead α} {f : α → State → LRead β} (hr : LReadKept r)
    (hf : ∀ x u, Canonical u → LReadKept (f x u)) : LReadKept (r.andThen f) := by
  cases r with
  | got x u => exact hf x u (hr u rfl)
  | miss _ _ => exact lread_left rfl (hr _ rfl)
  | busy _ => exact lread_left rfl (hr _ rfl)
  | bad _ _ => exact lread_bad

theorem canonical_readPieces {ctx priv : Nat} {k : Acc} {ps : List (Nat × Nat)} (hc : Canonical s) :
    LReadKept (readPieces ctx priv k ps s) := by
  induction ps generalizing s with
  | nil => exact lread_left rfl hc
  | cons p rest ih =>
    unfold readPieces
    split
    · exact lread_bad
    split
    · exact lread_bad
    · exact lread_left rfl hc
    · exact keeps_ite (lread_left rfl (canonical_prepLines hc))
        (canonical_LRead_andThen (ih (canonical_prepLines hc)) fun _ _ h => lread_left rfl h)

theorem canonical_devRead {ctx priv : Nat} {k : Acc} {va : Word} {n align : Nat} (hc : Canonical s) :
    LReadKept (devRead ctx priv k va n align s) := keeps_ite lread_bad (canonical_readPieces hc)

theorem canonical_fetchFault {c : Cause} {va : Word} (hc : Canonical s) : Canonical (fetchFault c va s) := canonical_raise hc

theorem canonical_fetchStep {ev : Event} {r : LRead (List Byte)} {k : List Byte → State → State} (hr : LReadKept r)
    (hc : Canonical s) (hk : ∀ x u, Canonical u → Canonical (k x u)) : Canonical (fetchStep ev r s k) := by
  cases r with
  | got x u => exact hk x u (hr u rfl)
  | miss _ _ => exact canonical_missPark (hr _ rfl)
  | busy _ => exact canonical_holdBack (hr _ rfl)
  | bad _ _ => exact canonical_fetchFault hc

theorem canonical_noteChunk {slice : Nat} {c : Chunk} (hc : Canonical s) : Canonical (noteChunk slice c s) :=
  canonical_setSlice hc

theorem canonical_installText {core : Nat} {pc : BitVec 48} {priv : Nat} {ws : List (BitVec 32)} (hc : Canonical s) :
    Canonical (installText core pc priv ws s) := canonical_ite (canonical_core hc) (canonical_core (canonical_nextFresh hc))

theorem canonical_fillText {core : Nat} {pc : BitVec 48} {priv line : Nat} {form : List Byte} (hc : Canonical s) :
    Canonical (fillText core pc priv line form s) := by
  unfold fillText
  split
  · exact canonical_raise hc
  · exact canonical_installText hc

theorem canonical_fetchPieces {ctx priv : Nat} {ps : List (Word × Nat)} (hc : Canonical s) :
    LReadKept (fetchPieces ctx priv ps s) := by
  induction ps generalizing s with
  | nil => exact lread_left rfl hc
  | cons p rest ih => exact canonical_LRead_andThen (canonical_devRead hc) fun _ _ h => ih h

theorem kept_execTextFetch (hc : Canonical s) : Kept (execTextFetch s) := by
  unfold execTextFetch
  split
  · refine kept_next ?_
    refine canonical_withThr (canonical_taken hc) ?_
    intro _ h1
    refine canonical_ite h1 ?_
    dsimp only
    split
    · exact canonical_raise h1
    · refine canonical_ite (canonical_raise h1) ?_
      refine canonical_fetchStep (canonical_devRead h1) h1 ?_
      intro _ _ h2
      refine canonical_ite (canonical_raise h2) ?_
      refine canonical_fetchStep (canonical_devRead h2) h2 ?_
      intro _ _ h3
      split
      · split
        · split
          · exact canonical_raise h3
          · exact canonical_fetchStep (canonical_fetchPieces h3) h3 (fun _ _ h4 => canonical_fillText h4)
        · refine canonical_fetchStep (canonical_devRead h3) h3 ?_
          intro _ _ h5
          split
          · exact canonical_raise h5
          · exact canonical_fetchStep (canonical_devRead h5) h5
                (fun _ _ h6 => canonical_ite (canonical_raise h6) (canonical_fillText (canonical_noteChunk h6)))
      · exact canonical_waitRetry h3
  · exact kept_fault

theorem canonical_readRuntime {ctx : Nat} (hc : Canonical s) : LReadKept (readRuntime ctx s) := by
  unfold readRuntime
  exact canonical_LRead_andThen (canonical_devRead hc)
        (fun _ _ h1 => canonical_LRead_andThen (canonical_devRead h1) (fun _ _ h2 => lread_left rfl h2))

theorem canonical_readGroups {ctx n va : Nat} (hc : Canonical s) : LReadKept (readGroups ctx n va s) := by
  induction n generalizing s va with
  | zero => exact lread_left rfl hc
  | succ n ih =>
    exact canonical_LRead_andThen (canonical_devRead hc) fun _ _ h => canonical_LRead_andThen (canonical_devRead h)
      fun _ _ h => canonical_LRead_andThen (ih h) fun _ _ h => lread_left rfl h

theorem canonical_readLaunch {ctx : Nat} {desc : Word} (hc : Canonical s) : LReadKept (readLaunch ctx desc s) :=
  canonical_LRead_andThen (canonical_devRead hc)
    (fun _ _ h1 =>
       canonical_LRead_andThen (canonical_devRead h1)
         (fun _ _ h2 =>
            canonical_LRead_andThen (canonical_devRead h2)
              (fun _ _ h3 =>
                 canonical_LRead_andThen (canonical_devRead h3)
                   (fun _ _ h4 =>
                      canonical_LRead_andThen (canonical_readGroups h4)
                        (fun _ _ h5 =>
                           canonical_LRead_andThen (canonical_devRead h5) (fun _ _ h6 => lread_left rfl h6))))))

theorem canonical_putKstat {ctx : Nat} {va : Word} {st : KernelState} {status tasks : Nat} {slow : Bool} {addr : Word}
    (hc : Canonical s) : Canonical (putKstat ctx va st status tasks slow addr s) := canonical_putKstatWords hc

theorem kept_execLaunchDoorbell (hc : Canonical s) : Kept (execLaunchDoorbell s) := by
  unfold execLaunchDoorbell
  split
  · refine kept_next ?_
    refine canonical_inOrder (canonical_taken hc) ?_
    intro _ h1
    dsimp only
    split
    · refine canonical_ite (canonical_post (canonical_keepCtx h1 h1 rfl rfl rfl)) ?_
      split
      · rename_i e2
        exact canonical_putKstat (canonical_devRead h1 _ (congrArg readLeft e2))
      · rename_i e3
        exact canonical_holdIn (canonical_askXlat (canonical_devRead h1 _ (congrArg readLeft e3)))
      · rename_i e4
        exact canonical_holdIn (canonical_devRead h1 _ (congrArg readLeft e4))
      · exact h1
    · exact canonical_holdIn h1
    · exact canonical_holdIn h1
    · exact canonical_holdIn h1
    · exact h1
  · exact kept_fault

theorem canonical_putGroups {ctx : Nat} {p : LaunchPlan} (hc : Canonical s) : Canonical (putGroups ctx p s) :=
  canonical_vput (canonical_vput (canonical_vput hc))

theorem canonical_readyCore {n core : Nat} (hc : Canonical s) : Canonical (readyCore n core s) :=
  canonical_foldl (canonical_core hc) (fun _ _ h1 => canonical_setSlot h1)

theorem canonical_readyCell {cell : Nat} (hc : Canonical s) : Canonical (readyCell cell s) := canonical_cell hc

theorem canonical_startCore {ctx : Nat} {p : LaunchPlan} {n : Nat} (hc : Canonical s) :
    Canonical (startCore ctx p n s) := by
  unfold startCore
  split
  · exact hc
  · exact canonical_foldl hc (fun _ _ h1 => canonical_markResident (canonical_putRec (canonical_thread h1)))

theorem canonical_startKernel {ctx : Nat} {p : LaunchPlan} (hc : Canonical s) : Canonical (startKernel ctx p s) :=
  canonical_foldl
    (canonical_putTidHead
       (canonical_keepCtx
          (canonical_putGroups
             (canonical_foldl (canonical_foldl hc (fun _ _ h1 => canonical_readyCore h1))
                (fun _ _ h2 => canonical_readyCell h2)))
          (canonical_putGroups
             (canonical_foldl (canonical_foldl hc (fun _ _ h3 => canonical_readyCore h3))
                (fun _ _ h4 => canonical_readyCell h4)))
          rfl rfl rfl))
    (fun _ _ h5 => canonical_startCore h5)

theorem canonical_launchFails {ctx : Nat} {kstat : Option Word} {status : Nat} {addr : Word} (hc : Canonical s) :
    Canonical (launchFails ctx kstat status addr s) := by
  unfold launchFails
  dsimp only
  split
  · exact canonical_putKstat (canonical_keepCtx hc hc rfl rfl rfl)
  · exact canonical_keepCtx hc hc rfl rfl rfl

theorem kept_execLaunchChecksDone (hc : Canonical s) : Kept (execLaunchChecksDone s) := by
  unfold execLaunchChecksDone
  split
  · refine kept_next ?_
    refine canonical_unless (canonical_taken hc) ?_
    intro h1
    dsimp only
    split
    · rename_i e2
      exact canonical_askXlat (canonical_devRead h1 _ (congrArg readLeft e2))
    · rename_i e3
      exact canonical_holdBack (canonical_devRead h1 _ (congrArg readLeft e3))
    · exact canonical_launchFails h1
    · rename_i e4
      refine canonical_ite (canonical_launchFails (canonical_devRead h1 _ (congrArg readLeft e4))) ?_
      split
      · rename_i e5
        exact canonical_askXlat
              (canonical_readLaunch (canonical_devRead h1 _ (congrArg readLeft e4)) _ (congrArg readLeft e5))
      · rename_i e6
        exact canonical_holdBack
              (canonical_readLaunch (canonical_devRead h1 _ (congrArg readLeft e4)) _ (congrArg readLeft e6))
      · exact canonical_launchFails (canonical_devRead h1 _ (congrArg readLeft e4))
      · rename_i e7
        split
        · exact canonical_ite
              (canonical_holdBack
                 (canonical_readLaunch (canonical_devRead h1 _ (congrArg readLeft e4)) _ (congrArg readLeft e7)))
              (canonical_putKstat
                 (canonical_startKernel
                    (canonical_readLaunch (canonical_devRead h1 _ (congrArg readLeft e4)) _ (congrArg readLeft e7))))
        · exact canonical_launchFails
              (canonical_readLaunch (canonical_devRead h1 _ (congrArg readLeft e4)) _ (congrArg readLeft e7))
  · exact kept_fault

theorem canonical_freeTiles {ctx : Nat} (hc : Canonical s) : Canonical (freeTiles ctx s).2 :=
  canonical_foldl_snd hc (fun _ _ h1 => canonical_when (canonical_emptyTile h1) (fun h2 => canonical_freeTile h2))

theorem canonical_dropGroups {ctx : Nat} (hc : Canonical s) : Canonical (dropGroups ctx s) :=
  canonical_foldl hc (fun _ _ h1 => canonical_ite (canonical_vput64 h1) h1)

theorem canonical_noKernel {ctx : Nat} (hc : Canonical s) : Canonical (setCtx s ctx
    { ctxAt s ctx with mcache := [], kernel := { (ctxAt s ctx).kernel with st := .none } }) :=
  canonical_keepCtx hc hc rfl rfl rfl

theorem canonical_endKernel {ctx status : Nat} (hc : Canonical s) : Canonical (endKernel ctx status s) := by
  unfold endKernel
  exact canonical_hostEvent (canonical_putKstat (canonical_noKernel (canonical_dropGroups hc)))

theorem kept_execRetire (hc : Canonical s) : Kept (execRetire s) := by
  unfold execRetire
  split
  · exact kept_next
        (canonical_unless (canonical_taken hc)
           (fun h1 =>
              canonical_ite
                (canonical_ite (canonical_holdBack (canonical_keepCtx h1 h1 rfl rfl rfl))
                   (canonical_ite (canonical_holdBack (canonical_freeTiles (canonical_keepCtx h1 h1 rfl rfl rfl)))
                      (canonical_endKernel (canonical_freeTiles (canonical_keepCtx h1 h1 rfl rfl rfl)))))
                h1))
  · exact kept_fault

end Sys2Proof.Proofs.Canonical
end

section
/-!
SUPPORT. Canonical form (O60) under contexts: an operation keeps it that is made of operations that do.
-/
namespace Sys2Proof.Proofs.Canonical
open Sys2Proof.Machine Sys2Proof.Safety
set_option Elab.async false

variable {s : State}

theorem canonical_tablePut {ctx off n v : Nat} (hc : Canonical s) : Canonical (tablePut ctx off n v s) :=
  canonical_devWrite hc

theorem canonical_setCtxSt {ctx : Nat} {st : CtxState} (hc : Canonical s) : Canonical (setCtxSt ctx st s) :=
  canonical_tablePut (canonical_keepCtx hc hc rfl rfl rfl)

theorem canonical_answerCmd {ctx code status : Nat} (hc : Canonical s) : Canonical (answerCmd ctx code status s) :=
  canonical_ite (canonical_tablePut (canonical_keepCtx hc hc rfl rfl rfl)) hc

theorem kept_execCommandIllegalCode (hc : Canonical s) : Kept (execCommandIllegalCode s) := by
  unfold execCommandIllegalCode
  split
  · refine kept_next ?_
    dsimp only
    split
    · exact canonical_answerCmd (canonical_taken hc)
    · exact canonical_taken hc
  · exact kept_fault

theorem canonical_freeRecords {ctx : Nat} (hc : Canonical s) : Canonical (freeRecords ctx s) :=
  canonical_foldl hc (fun _ _ h1 => canonical_ite h1 (canonical_setRecState h1))

theorem canonical_initVault {ctx : Nat} (hc : Canonical s) : Canonical (initVault ctx s) :=
  canonical_vput (canonical_freeRecords (canonical_vput hc))

theorem kept_execCreate (hc : Canonical s) : Kept (execCreate s) := by
  unfold execCreate
  split
  · refine kept_next ?_
    refine canonical_ite (canonical_answerCmd (canonical_taken hc)) ?_
    refine canonical_unless (canonical_answerCmd (canonical_taken hc)) ?_
    intro h1
    dsimp only
    split
    · rename_i e2
      exact canonical_askXlat (canonical_readRuntime (canonical_taken hc) _ (congrArg readLeft e2))
    · rename_i e3
      exact canonical_holdBack (canonical_readRuntime (canonical_taken hc) _ (congrArg readLeft e3))
    · exact h1
    · rename_i e4
      exact canonical_answerCmd (canonical_readRuntime (canonical_taken hc) _ (congrArg readLeft e4))
    · rename_i e5
      exact canonical_answerCmd
            (canonical_setCtxSt
               (canonical_tablePut
                  (canonical_initVault
                     (canonical_ctx (canonical_readRuntime (canonical_taken hc) _ (congrArg readLeft e5))
                        ⟨rfl, rfl, (ctxOk_ctxAt (canonical_taken hc) _).2.2⟩))))
  · exact kept_fault

theorem canonical_clearCells {cells : List Nat} (hc : Canonical s) : Canonical (clearCells cells s) := by
  refine canonical_foldl ?_ fun _ _ h => canonical_cell (canonical_foldl h fun _ _ h => canonical_foldl (canonical_core h)
    fun _ _ h => canonical_setSlot h)
  exact canonical_words (canonical_mem hc (filter_wf _ hc.1)) (Tab.wf_filter _ hc.2.2.1)

theorem canonical_startPlace {ctx : Nat} {cells : List Nat} (hc : Canonical s) : Canonical (startPlace ctx cells s) := by
  unfold startPlace
  have hcells : Canonical (clearCells cells s) := canonical_clearCells hc
  generalize clearCells cells s = u at hcells
  have howned : Canonical ((cells.zipIdx).foldl (fun s x =>
      (List.range 4).foldl (fun s i => setCore s (4 * x.1 + i) { coreAt s (4 * x.1 + i) with owner := some (ctx, 4 * x.2 + i) })
        (setCell s x.1 { cellAt s x.1 with owner := some ctx })) u) :=
    canonical_foldl hcells fun _ _ h => canonical_foldl (canonical_cell h) fun _ _ h => canonical_core h
  dsimp only
  generalize (cells.zipIdx).foldl _ u = v at howned ⊢
  generalize hw : setCtx v ctx _ = w
  have hw' : Canonical w := by
    rw [← hw]
    refine canonical_keepCtx (t := s) (m := ctx) howned hc ?_ ?_ ?_ <;> dsimp only
  exact canonical_unless (canonical_setCtxSt hw') fun h => canonical_after h

theorem canonical_tryPlace {ctx : Nat} (hc : Canonical s) : Canonical (tryPlace ctx s).2 := by
  unfold tryPlace
  split
  · exact hc
  · exact canonical_ite_snd (canonical_startPlace hc) hc

theorem canonical_placeFailed {ctx status : Nat} (hc : Canonical s) : Canonical (placeFailed ctx status s) :=
  canonical_ite (canonical_answerCmd hc) (canonical_hostEvent hc)

theorem kept_execPlace (hc : Canonical s) : Kept (execPlace s) := by
  unfold execPlace
  split
  · refine kept_next ?_
    refine canonical_ite (canonical_placeFailed (canonical_taken hc)) ?_
    refine canonical_unless (canonical_placeFailed (canonical_taken hc)) ?_
    intro h1
    refine canonical_ite
        (canonical_ite (canonical_answerCmd (canonical_tryPlace (canonical_taken hc)))
           (canonical_placeFailed (canonical_tryPlace (canonical_taken hc))))
        ?_
    dsimp only
    split
    · rename_i e2
      exact canonical_askXlat (canonical_readRuntime (canonical_taken hc) _ (congrArg readLeft e2))
    · rename_i e3
      exact canonical_holdBack (canonical_readRuntime (canonical_taken hc) _ (congrArg readLeft e3))
    · exact h1
    · rename_i e4
      exact canonical_placeFailed (canonical_readRuntime (canonical_taken hc) _ (congrArg readLeft e4))
    · rename_i e5
      exact canonical_ite
            (canonical_answerCmd
               (canonical_tryPlace
                  (canonical_keepCtx (canonical_readRuntime (canonical_taken hc) _ (congrArg readLeft e5))
                     (canonical_readRuntime (canonical_taken hc) _ (congrArg readLeft e5)) rfl rfl rfl)))
            (canonical_placeFailed
               (canonical_tryPlace
                  (canonical_keepCtx (canonical_readRuntime (canonical_taken hc) _ (congrArg readLeft e5))
                     (canonical_readRuntime (canonical_taken hc) _ (congrArg readLeft e5)) rfl rfl rfl)))
  · exact kept_fault

theorem canonical_setStamp {ctx stamp : Nat} (hc : Canonical s) : Canonical (setStamp ctx stamp s) :=
  canonical_after (canonical_tablePut hc)

theorem kept_execSwitchAnnounce (hc : Canonical s) : Kept (execSwitchAnnounce s) := by
  unfold execSwitchAnnounce
  split
  · exact kept_next
        (canonical_unless (canonical_taken hc)
           (fun h1 =>
              canonical_when (canonical_setStamp (canonical_keepCtx h1 h1 rfl rfl rfl))
                (fun h2 => canonical_raiseEvent h2)))
  · exact kept_fault

theorem kept_execGangAck {d a : BitVec 5} {ma : BitVec 2} (hc : Canonical s) : Kept (execGangAck d a ma s) :=
  kept_needPriv hc
    (kept_withOps hc
       (fun _ =>
          canonical_ite (canonical_raise hc)
            (canonical_ite (canonical_raise hc)
               (canonical_advance
                  (canonical_writeDst
                     (canonical_unless (canonical_commit hc)
                        (fun h1 =>
                           canonical_ite (canonical_hostEvent h1)
                             (canonical_ite
                                (canonical_ite (canonical_setStamp h1)
                                   (canonical_ite (canonical_setStamp (canonical_keepCtx h1 hc rfl rfl rfl)) h1))
                                h1))))))))

theorem canonical_restCore {core : Nat} (hc : Canonical s) : Canonical (restCore core s) :=
  canonical_ite (canonical_foldl hc (fun _ _ h1 => canonical_sendMarkers h1))
    (canonical_foldl (canonical_foldl hc (fun _ _ h2 => canonical_ite h2 (canonical_post h2)))
       (fun _ _ h3 => canonical_ite (canonical_giveBack h3) h3))

theorem canonical_spillImage {ctx n : Nat} {x : Flight × Nat} (hc : Canonical s) : Canonical (spillImage ctx n x s) :=
  canonical_nextFresh (canonical_vput hc)

theorem canonical_spillTraffic {ctx : Nat} (hc : Canonical s) : Canonical (spillTraffic ctx s) :=
  canonical_foldl (canonical_keepCtx (canonical_rest hc) hc rfl rfl rfl) (fun _ _ h1 => canonical_spillImage h1)

theorem canonical_writeTail {ctx core : Nat} (hc : Canonical s) : Canonical (writeTail ctx core s) := by
  refine canonical_foldl hc ?_
  intro _ _ h1
  refine canonical_unless (canonical_devPut h1) ?_
  intro h2
  dsimp only
  split
  · exact h2
  · exact canonical_writeSlotRecord h1
  · exact canonical_writeSlotRecord h1
  · exact canonical_writeSlotRecord h1
  · split
    · exact h1
    · exact h1
    · exact canonical_writeSlotRecord h1

theorem canonical_stepDoneOf {ctx n : Nat} (hc : Canonical s) : Canonical (stepDoneOf ctx n s) :=
  canonical_ite (canonical_hostEvent (canonical_keepCtx hc hc rfl rfl rfl)) (canonical_keepCtx hc hc rfl rfl rfl)

theorem canonical_restStep {ctx n : Nat} (hc : Canonical s) : Canonical (restStep ctx n s).2 :=
  canonical_ite_snd (canonical_ite_snd hc (canonical_foldl hc (fun _ _ h1 => canonical_restCore h1))) hc

theorem canonical_beginStop {ctx : Nat} {st : CtxState} (hc : Canonical s) : Canonical (beginStop ctx st s) :=
  canonical_setCtxSt (canonical_keepCtx hc hc rfl rfl rfl)

theorem kept_execSwitchStamp (hc : Canonical s) : Kept (execSwitchStamp s) := by
  unfold execSwitchStamp
  split
  · refine kept_next ?_
    dsimp only
    split
    · exact canonical_unless (canonical_taken hc)
          (fun h1 =>
             canonical_ite (canonical_holdBack h1)
               (canonical_holdBack (canonical_foldl (canonical_beginStop h1) (fun _ _ h2 => canonical_after h2))))
    · exact canonical_ite (canonical_post (canonical_setCtxSt (canonical_taken hc)))
          (canonical_ite
             (canonical_holdBack
                (canonical_when (canonical_taken hc) (fun h3 => canonical_keepCtx h3 h3 rfl rfl rfl)))
             (canonical_ite
                (canonical_holdBack
                   (canonical_when (canonical_restStep (canonical_taken hc)) (fun h4 => canonical_stepDoneOf h4)))
                (canonical_ite
                   (canonical_holdBack (canonical_stepDoneOf (canonical_spillTraffic (canonical_taken hc))))
                   (canonical_ite
                      (canonical_holdBack
                         (canonical_stepDoneOf
                            (canonical_foldl (canonical_taken hc) (fun _ _ h5 => canonical_writeTail h5))))
                      (canonical_after (canonical_taken hc))))))
    · exact canonical_taken hc
  · exact kept_fault

theorem kept_execStopTimeout (hc : Canonical s) : Kept (execStopTimeout s) := by
  unfold execStopTimeout
  split
  · exact kept_next (canonical_when (canonical_taken hc) (fun h1 => canonical_errorRec h1))
  · exact kept_fault

theorem canonical_vputPages {ctx va : Nat} {bytes : List Byte} (hc : Canonical s) :
    Canonical (vputPages ctx va bytes s) := canonical_foldl hc (fun _ _ h1 => canonical_vput h1)

theorem canonical_streamOut {ctx : Nat} (hc : Canonical s) : Canonical (streamOut ctx s) :=
  canonical_foldl hc
    (fun _ _ h1 =>
       canonical_chargeDram
         (canonical_vputPages (canonical_foldl h1 (fun _ _ h2 => canonical_rest (canonical_vputPages h2)))))

theorem canonical_streamIn {ctx : Nat} (hc : Canonical s) : Canonical (streamIn ctx s) :=
  canonical_foldl hc
    (fun _ _ h1 => canonical_chargeDram (canonical_foldl h1 (fun _ _ h2 => canonical_rest (canonical_rawWrite h2))))

theorem canonical_storeEnergy {ctx : Nat} (hc : Canonical s) : Canonical (storeEnergy ctx s) :=
  canonical_keepCtx (canonical_tablePut hc) hc rfl rfl rfl

theorem canonical_keepBlocks {ctx : Nat} (hc : Canonical s) : Canonical (keepBlocks ctx s) :=
  canonical_keepCtx hc hc rfl rfl rfl

theorem kept_execSaveComplete (hc : Canonical s) : Kept (execSaveComplete s) := by
  unfold execSaveComplete
  split
  · refine kept_next ?_
    refine canonical_unless (canonical_taken hc) ?_
    intro h1
    refine canonical_ite (canonical_post (canonical_setCtxSt h1)) ?_
    dsimp only
    split
    · exact canonical_holdBack
          (canonical_ite (canonical_askXlat h1)
             (canonical_ite (canonical_hostEvent (canonical_keepCtx h1 h1 rfl rfl rfl)) h1))
    · exact canonical_ite (canonical_holdBack h1)
          (canonical_unless
             (canonical_when
                (canonical_setCtxSt
                   (canonical_keepCtx
                      (canonical_tablePut
                         (canonical_tablePut
                            (canonical_vput64
                               (canonical_vput64
                                  (canonical_vput64
                                     (canonical_storeEnergy
                                        (canonical_clearCells
                                           (canonical_keepBlocks
                                              (canonical_tablePut
                                                 (canonical_nextFresh (canonical_streamOut h1)))))))))))
                      (canonical_vput64
                         (canonical_vput64
                            (canonical_vput64
                               (canonical_storeEnergy
                                  (canonical_clearCells
                                     (canonical_keepBlocks
                                        (canonical_tablePut (canonical_nextFresh (canonical_streamOut h1)))))))))
                      rfl rfl rfl))
                (fun h3 => canonical_hostEvent h3))
             (fun h2 => canonical_ite (canonical_post h2) (canonical_placeFailed h2)))
  · exact kept_fault

theorem canonical_deliverHeld {ctx : Nat} (hc : Canonical s) : Canonical (deliverHeld ctx s) :=
  canonical_unless (canonical_foldl hc (fun _ _ h2 => canonical_post (canonical_vput64 h2)))
    (fun h1 => canonical_vput64 h1)

theorem canonical_wakeChain {ctx n : Nat} {link : Word} (hc : Canonical s) : Canonical (wakeChain ctx n link s) := by
  induction n generalizing s link with
  | zero => exact hc
  | succ n ih => exact canonical_ite hc (ih (canonical_sendWake hc))

theorem canonical_resumeChain {ctx : Nat} (hc : Canonical s) : Canonical (resumeChain ctx s) :=
  canonical_ite hc (canonical_vput64 (canonical_wakeChain hc))

theorem canonical_putBlocks {ctx : Nat} (hc : Canonical s) : Canonical (putBlocks ctx s) := by
  refine canonical_keepCtx ?_ ?_ rfl rfl rfl
  · refine canonical_foldl ?_ (fun _ _ h5 => canonical_setWord h5)
    refine canonical_foldl hc ?_
    intro _ _ h1
    refine canonical_foldl (canonical_cell h1) ?_
    intro _ _ h2
    refine canonical_foldl (canonical_core h2) ?_
    intro _ _ h3
    dsimp only
    split
    · exact canonical_when (canonical_setSlot h3) (fun h4 => canonical_recSlot h4)
    · exact canonical_setSlot h3
  · refine canonical_foldl ?_ (fun _ _ h10 => canonical_setWord h10)
    refine canonical_foldl hc ?_
    intro _ _ h6
    refine canonical_foldl (canonical_cell h6) ?_
    intro _ _ h7
    refine canonical_foldl (canonical_core h7) ?_
    intro _ _ h8
    dsimp only
    split
    · exact canonical_when (canonical_setSlot h8) (fun h9 => canonical_recSlot h9)
    · exact canonical_setSlot h8

theorem canonical_resumeResv {ctx : Nat} (hc : Canonical s) : Canonical (resumeResv ctx s) := by
  refine canonical_foldl hc ?_
  intro _ _ h1
  dsimp only
  split
  · exact canonical_ite (canonical_post (canonical_setWord h1)) h1
  · exact h1

theorem canonical_resumeLatched {ctx : Nat} (hc : Canonical s) : Canonical (resumeLatched ctx s) := by
  refine canonical_foldl hc ?_
  intro _ _ h1
  refine canonical_foldl h1 ?_
  intro _ _ h2
  dsimp only
  split
  · split
    · exact canonical_offerWake (canonical_setSlot h2)
    · exact h2
  · exact h2

theorem canonical_rehomeWork {ctx : Nat} (hc : Canonical s) : Canonical (rehomeWork ctx s) := by
  unfold rehomeWork
  dsimp only
  refine canonical_rest (canonical_foldl (canonical_ctx hc ⟨?_, ?_, ?_⟩) fun _ _ h => ?_)
  · dsimp only
    exact wf_foldl_put (fun _ _ h => wf_foldl_put (fun _ _ h => Tab.wf_put _ _ h) h) rfl
  · dsimp only
    exact wf_foldl_put (fun _ _ h => wf_foldl_put (fun _ _ h => Tab.wf_put _ _ h) h) rfl
  · exact (ctxOk_ctxAt hc ctx).2.2
  · split
    · exact canonical_setSlice h
    · exact h

theorem canonical_goResident {ctx : Nat} (hc : Canonical s) : Canonical (goResident ctx s) :=
  canonical_foldl
    (canonical_foldl (canonical_serveRing (canonical_setCtxSt (canonical_keepCtx hc hc rfl rfl rfl)))
       (fun _ _ h1 => canonical_foldl h1 (fun _ _ h2 => canonical_resumePinned h2)))
    (fun _ _ h3 => canonical_offerWork h3)

theorem kept_execRestoreComplete (hc : Canonical s) : Kept (execRestoreComplete s) := by
  unfold execRestoreComplete
  split
  · rename_i ctx _
    refine kept_next ?_
    have htaken := canonical_taken hc
    generalize taken s = u at htaken ⊢
    have hkilled {v : State} (h : Canonical v) : Canonical (post (.killComplete ctx) (beginStop ctx .killing v)) :=
      canonical_post (canonical_beginStop h)
    dsimp only
    refine canonical_ite htaken (canonical_ite (canonical_ite (hkilled htaken) (canonical_goResident htaken)) ?_)
    split
    · refine canonical_holdBack (canonical_ite (canonical_askXlat htaken) (canonical_ite (canonical_hostEvent ?_) htaken))
      exact canonical_keepCtx htaken htaken rfl rfl rfl
    · refine canonical_ite (hkilled (canonical_vput64 (canonical_errorRec htaken))) ?_
      have hwork := canonical_rehomeWork (ctx := ctx) (canonical_resumeResv (ctx := ctx) (canonical_putBlocks (ctx := ctx)
        (canonical_streamIn (ctx := ctx) htaken)))
      generalize rehomeWork ctx _ = v at hwork ⊢
      have hspilled : Canonical (setCtx v ctx { ctxAt v ctx with spilled := [] }) := canonical_keepCtx hwork hwork rfl rfl rfl
      generalize setCtx v ctx _ = w at hspilled ⊢
      refine canonical_ite (hkilled (canonical_rest hspilled)) (canonical_when (canonical_resumeLatched (canonical_goResident
        (canonical_vput64 (canonical_resumeChain (canonical_deliverHeld (canonical_rest hspilled)))))) fun h => ?_)
      exact canonical_hostEvent h
  · exact kept_fault

theorem canonical_dropTraffic {ctx : Nat} (hc : Canonical s) : Canonical (dropTraffic ctx s) :=
  canonical_foldl (canonical_foldl (canonical_rest hc) (fun _ _ h1 => canonical_ite (canonical_setSlice h1) h1))
    (fun _ _ h2 => canonical_ite (canonical_settle (canonical_setWord h2)) h2)

theorem canonical_dropTiles {ctx : Nat} (hc : Canonical s) : Canonical (dropTiles ctx s) :=
  canonical_foldl hc (fun _ _ h1 => canonical_foldl h1 (fun _ _ h2 => canonical_freeTile h2))

theorem canonical_dropWork {ctx : Nat} (hc : Canonical s) : Canonical (dropWork ctx s) := by
  refine canonical_foldl (canonical_rest (canonical_tellPeers (canonical_foldl hc (fun _ _ h1 => canonical_unpin h1))))
      ?_
  intro _ _ h2
  refine canonical_foldl h2 ?_
  intro _ _ h3
  split
  · refine canonical_ite h3 ?_
    split
    · exact canonical_endOp h3
    · exact canonical_setOp h3
  · exact h3

theorem canonical_discardCtx {ctx : Nat} (hc : Canonical s) : Canonical (discardCtx ctx s) :=
  canonical_setCtxSt
    (canonical_retryKstat
       (canonical_putTidHead
          (canonical_ctx
             (canonical_tablePut
                (canonical_storeEnergy
                   (canonical_clearCells
                      (canonical_unless
                         (canonical_vput64
                            (canonical_vput64
                               (canonical_foldl
                                  (canonical_freeRecords
                                     (canonical_dropWork (canonical_dropTiles (canonical_dropTraffic hc))))
                                  (fun _ _ h2 => canonical_vput64 h2))))
                         (fun h1 => canonical_endKernel h1)))))
             ⟨rfl,
               rfl,
               (ctxOk_ctxAt
                 (canonical_unless
                    (canonical_vput64
                       (canonical_vput64
                          (canonical_foldl
                             (canonical_freeRecords
                                (canonical_dropWork (canonical_dropTiles (canonical_dropTraffic hc))))
                             (fun _ _ h4 => canonical_vput64 h4))))
                    (fun h3 => canonical_endKernel h3))
                 _).2.2⟩)))

theorem kept_execKill (hc : Canonical s) : Kept (execKill s) := by
  unfold execKill
  split
  · refine kept_next ?_
    dsimp only
    split
    · exact canonical_answerCmd (canonical_taken hc)
    · exact canonical_answerCmd (canonical_taken hc)
    · exact canonical_answerCmd (canonical_taken hc)
    · exact canonical_discardCtx (canonical_answerCmd (canonical_taken hc))
    · exact canonical_keepCtx (canonical_answerCmd (canonical_taken hc)) (canonical_answerCmd (canonical_taken hc))
          rfl rfl rfl
    · exact canonical_when
          (canonical_keepCtx (canonical_answerCmd (canonical_taken hc)) (canonical_answerCmd (canonical_taken hc))
             rfl rfl rfl)
          (fun h1 => canonical_after (canonical_keepCtx h1 (canonical_answerCmd (canonical_taken hc)) rfl rfl rfl))
    · refine canonical_post ?_
      refine canonical_beginStop ?_
      split
      · exact canonical_putKstatOf
            (canonical_keepCtx (canonical_answerCmd (canonical_taken hc)) (canonical_answerCmd (canonical_taken hc))
               rfl rfl rfl)
      · exact canonical_keepCtx (canonical_answerCmd (canonical_taken hc)) (canonical_answerCmd (canonical_taken hc))
            rfl rfl rfl
      · exact canonical_answerCmd (canonical_taken hc)
  · exact kept_fault

theorem kept_execKillComplete (hc : Canonical s) : Kept (execKillComplete s) := by
  unfold execKillComplete
  split
  · exact kept_next
        (canonical_unless (canonical_taken hc)
           (fun h1 =>
              canonical_ite
                (canonical_holdBack
                   (canonical_when (canonical_restStep h1) (fun h2 => canonical_keepCtx h2 h2 rfl rfl rfl)))
                (canonical_discardCtx h1)))
  · exact kept_fault

theorem kept_execFree (hc : Canonical s) : Kept (execFree s) := by
  unfold execFree
  split
  · refine kept_next ?_
    dsimp only
    split
    · exact canonical_answerCmd (canonical_taken hc)
    · exact canonical_setCtxSt
          (canonical_ctx (canonical_discardCtx (canonical_answerCmd (canonical_taken hc)))
             ⟨rfl, rfl, (ctxOk_ctxAt (canonical_discardCtx (canonical_answerCmd (canonical_taken hc))) _).2.2⟩)
    · exact canonical_setCtxSt
          (canonical_ctx (canonical_discardCtx (canonical_answerCmd (canonical_taken hc)))
             ⟨rfl, rfl, (ctxOk_ctxAt (canonical_discardCtx (canonical_answerCmd (canonical_taken hc))) _).2.2⟩)
    · exact canonical_answerCmd (canonical_taken hc)
  · exact kept_fault

end Sys2Proof.Proofs.Canonical
end

section
/-!
SUPPORT. Canonical form (O60) under what the machine does next: an operation keeps it that is made of operations that do.
-/
namespace Sys2Proof.Proofs.Canonical
open Sys2Proof.Machine Sys2Proof.Safety
set_option Elab.async false

variable {s : State}

theorem canonical_takeFlight {k : Nat} {x : Event × State} (hc : Canonical s) (e : takeFlight k s = some x) :
    Canonical x.2 := by
  unfold takeFlight at e
  split at e
  · cases e
  · obtain ⟨f, -, rfl⟩ := Option.map_eq_some_iff.1 e
    exact hc

theorem canonical_beginIssue {core p : Nat} (hc : Canonical s) : Canonical (beginIssue core p s) := by
  unfold beginIssue
  dsimp only
  split
  · exact canonical_when (canonical_rest hc) (fun h1 => canonical_charged (canonical_thread (canonical_core h1)))
  · exact canonical_rest hc

/-- The state a move starts from is canonical. -/
def MoveKept : Move → Prop
  | .event _ s | .word _ s | .idle s => Canonical s

theorem canonical_issueSlot {core p : Nat} (hc : Canonical s) : MoveKept (issueSlot core p s) := by
  unfold issueSlot
  dsimp only
  split
  · exact canonical_raise (canonical_me (canonical_beginIssue hc))
  · exact canonical_post (canonical_waitRetry (canonical_beginIssue hc))
  · split
    · exact canonical_raise (canonical_beginIssue hc)
    · split
      · exact canonical_beginIssue hc
      · exact canonical_beginIssue hc

theorem canonical_coreMove {c : Nat} (hc : Canonical s) : MoveKept (coreMove c s) := by
  unfold coreMove
  split
  · exact canonical_issueSlot hc
  · exact hc

theorem canonical_moveOf {p : Pick} (hc : Canonical s) : MoveKept (moveOf p s) := by
  unfold moveOf
  split
  · split
    · exact (canonical_takeFlight hc ‹_›)
    · exact hc
  · exact canonical_coreMove hc
  · split
    · exact canonical_coreMove hc
    · exact hc

theorem canonical_nextPick (hc : Canonical s) : Canonical (nextPick s).2 := by
  unfold nextPick
  split
  · exact canonical_rest hc
  · exact hc

theorem canonical_nextMove (hc : Canonical s) : MoveKept (nextMove s) := canonical_moveOf (canonical_nextPick hc)

theorem canonical_putText {p : Nat} {w : BitVec 32} (hc : Canonical s) : Canonical (putText p w s) := by
  unfold putText
  split
  · exact hc
  · exact canonical_core hc

theorem canonical_loadThread (hc : Canonical s) : Canonical (loadThread s) :=
  canonical_thread (canonical_core (canonical_keepCtx hc hc rfl rfl rfl))

theorem canonical_placeWord {w : BitVec 32} (hc : Canonical s) : Canonical (placeWord w s) := by
  unfold placeWord
  split
  · exact canonical_putText hc
  · split
    · exact canonical_putText (canonical_rest hc)
    · exact canonical_putText (canonical_rest (canonical_loadThread hc))

end Sys2Proof.Proofs.Canonical
end

section
/-!
SUPPORT. Canonical form (O60) under links and the host: an operation keeps it that is made of operations that do.
-/
namespace Sys2Proof.Proofs.Canonical
open Sys2Proof.Machine Sys2Proof.Safety
set_option Elab.async false

variable {s : State}

theorem canonical_moveLink {l : Nat} {k : Link} (hc : Canonical s) : Canonical (moveLink l k s) :=
  canonical_unless (canonical_setLink hc) (fun h1 => canonical_hostEvent h1)

theorem canonical_trainLink {l : Nat} (hc : Canonical s) : Canonical (trainLink l s) :=
  canonical_after (canonical_moveLink hc)

theorem canonical_endTraining {l : Nat} (hc : Canonical s) : Canonical (endTraining l s) := canonical_rest hc

theorem canonical_dropHostCopies (hc : Canonical s) : Canonical (dropHostCopies s) :=
  canonical_foldl hc (fun _ _ h1 => canonical_ite (canonical_setDir h1) h1)

theorem canonical_cutDrive {drive : Nat} (hc : Canonical s) : Canonical (cutDrive drive s) := by
  refine canonical_foldl hc ?_
  intro _ _ h1
  refine canonical_foldl h1 ?_
  intro _ _ h2
  split
  · split
    · exact canonical_ite (canonical_post h2) h2
    · exact h2
  · exact canonical_ite (canonical_post h2) h2
  · exact canonical_ite (canonical_post h2) h2
  · exact h2

theorem canonical_dropPeerCopies (hc : Canonical s) : Canonical (dropPeerCopies s) :=
  canonical_foldl hc (fun _ _ h1 => canonical_ite (canonical_setDir h1) h1)

theorem canonical_tellLost (hc : Canonical s) : Canonical (tellLost s) :=
  canonical_foldl hc (fun _ _ h1 => canonical_foldl h1 (fun _ _ h2 => canonical_postAll h2))

theorem canonical_cutSpan {before : State} {port : Nat} (hc : Canonical s) : Canonical (cutSpan before port s) := by
  refine canonical_tellLost ?_
  refine canonical_dropPeerCopies ?_
  refine canonical_foldl (canonical_rest hc) ?_
  intro _ _ h1
  split
  · exact canonical_failRemote h1
  · exact h1

theorem canonical_fenceLink {l : Nat} (hc : Canonical s) : Canonical (fenceLink l s) :=
  canonical_ite hc
    (canonical_ite (canonical_dropHostCopies (canonical_moveLink (canonical_endTraining hc)))
       (canonical_ite (canonical_cutDrive (canonical_moveLink (canonical_endTraining hc)))
          (canonical_when (canonical_moveLink (canonical_endTraining hc)) (fun h1 => canonical_cutSpan h1))))

theorem kept_execLinkTrainingDone (hc : Canonical s) : Kept (execLinkTrainingDone s) := by
  unfold execLinkTrainingDone
  split
  · exact kept_next
        (canonical_unless (canonical_taken hc)
           (fun h1 =>
              canonical_ite (canonical_moveLink (canonical_endTraining h1))
                (canonical_when (canonical_moveLink (canonical_endTraining h1)) (fun h2 => canonical_post h2))))
  · exact kept_fault

theorem kept_execLinkTrainingTimeout (hc : Canonical s) : Kept (execLinkTrainingTimeout s) := by
  unfold execLinkTrainingTimeout
  split
  · exact kept_next (canonical_unless (canonical_taken hc) (fun h1 => canonical_moveLink (canonical_endTraining h1)))
  · exact kept_fault

theorem kept_execLaneRetire (hc : Canonical s) : Kept (execLaneRetire s) := by
  unfold execLaneRetire
  split
  · exact kept_next
        (canonical_unless (canonical_taken hc)
           (fun h1 =>
              canonical_unless (canonical_setLink h1)
                (fun h2 => canonical_ite (canonical_fenceLink h2) (canonical_moveLink h1))))
  · exact kept_fault

theorem canonical_linkFails {l : Nat} (hc : Canonical s) : Canonical (linkFails l s) :=
  canonical_ite (canonical_fenceLink (canonical_errorRec hc)) hc

theorem kept_execFlitReplay (hc : Canonical s) : Kept (execFlitReplay s) := by
  unfold execFlitReplay
  split
  · exact kept_next
        (canonical_when (canonical_nextFresh (canonical_setLink (canonical_taken hc))) (fun h1 => canonical_post h1))
  · exact kept_fault

theorem kept_execFlitUncorrectable (hc : Canonical s) : Kept (execFlitUncorrectable s) := by
  unfold execFlitUncorrectable
  split
  · exact kept_next (canonical_when (canonical_taken hc) (fun h1 => canonical_linkFails h1))
  · exact kept_fault

theorem kept_execLaneMarginMeasure (hc : Canonical s) : Kept (execLaneMarginMeasure s) := by
  unfold execLaneMarginMeasure
  split
  · exact kept_next (canonical_unless (canonical_taken hc) (fun h1 => canonical_setLink h1))
  · exact kept_fault

theorem kept_execLaneCounterClear (hc : Canonical s) : Kept (execLaneCounterClear s) := by
  unfold execLaneCounterClear
  split
  · exact kept_next (canonical_setLink (canonical_taken hc))
  · exact kept_fault

theorem canonical_putEvent {i : Nat} {e : HostEvent} (hc : Canonical s) : Canonical (putEvent i e s) :=
  canonical_when (canonical_rest hc) (fun h1 => canonical_post h1)

theorem kept_execHostEventPost (hc : Canonical s) : Kept (execHostEventPost s) := by
  unfold execHostEventPost
  split
  · refine kept_next ?_
    refine canonical_unless (canonical_taken hc) ?_
    intro h1
    dsimp only
    split
    · exact h1
    · split
      · exact canonical_putEvent h1
      · exact h1
    · split
      · exact canonical_putEvent (canonical_nextFresh h1)
      · exact canonical_nextFresh h1
  · exact kept_fault

theorem canonical_closeCmd {e status : Nat} (hc : Canonical s) : Canonical (closeCmd e status s) :=
  canonical_rest (canonical_devWrite (canonical_devWrite hc))

theorem canonical_serveFrom {n : Nat} (hc : Canonical s) : Canonical (serveFrom n s) := by
  induction n generalizing s with
  | zero => exact hc
  | succ n ih =>
    refine canonical_ite ?_ hc
    split
    · exact canonical_post hc
    · exact ih (canonical_closeCmd hc)

theorem canonical_serveCommands (hc : Canonical s) : Canonical (serveCommands s) := canonical_serveFrom hc

theorem canonical_finishCmd {e status : Nat} (hc : Canonical s) : Canonical (finishCmd e status s) :=
  canonical_serveCommands (canonical_closeCmd hc)

theorem kept_execAddCommand (hc : Canonical s) : Kept (execAddCommand s) := by
  unfold execAddCommand
  split
  · exact kept_next
        (canonical_ite (canonical_finishCmd (canonical_taken hc))
           (canonical_finishCmd (canonical_setCount (canonical_taken hc))))
  · exact kept_fault

theorem kept_execInvalCommand (hc : Canonical s) : Kept (execInvalCommand s) := by
  unfold execInvalCommand
  split
  · exact kept_next
        (canonical_ite
           (canonical_ite (canonical_holdBack (canonical_taken hc)) (canonical_finishCmd (canonical_taken hc)))
           (canonical_ite (canonical_finishCmd (canonical_taken hc))
              (canonical_holdBack (canonical_postAll (canonical_taken hc)))))
  · exact kept_fault

theorem kept_execReplyCommand (hc : Canonical s) : Kept (execReplyCommand s) := by
  unfold execReplyCommand
  split
  · refine kept_next ?_
    dsimp only
    split
    · exact canonical_finishCmd (canonical_taken hc)
    · split
      · exact canonical_ite (canonical_finishCmd (canonical_taken hc))
            (canonical_finishCmd (canonical_replyFault (canonical_rest (canonical_taken hc))))
      · exact canonical_ite (canonical_finishCmd (canonical_taken hc))
            (canonical_finishCmd (canonical_answerNoMethod (canonical_rest (canonical_taken hc))))
      · exact canonical_ite (canonical_finishCmd (canonical_taken hc))
            (canonical_ite (canonical_finishCmd (canonical_replyColl (canonical_rest (canonical_taken hc))))
               (canonical_finishCmd (canonical_rest (canonical_taken hc))))
  · exact kept_fault

theorem kept_execGangstepCommand (hc : Canonical s) : Kept (execGangstepCommand s) := by
  unfold execGangstepCommand
  split
  · exact kept_next
        (canonical_ite (canonical_finishCmd (canonical_taken hc))
           (canonical_ite
              (canonical_finishCmd (canonical_keepCtx (canonical_taken hc) (canonical_taken hc) rfl rfl rfl))
              (canonical_ite
                 (canonical_finishCmd
                    (canonical_after (canonical_keepCtx (canonical_taken hc) (canonical_taken hc) rfl rfl rfl)))
                 (canonical_finishCmd (canonical_taken hc)))))
  · exact kept_fault

theorem kept_execLinkcmdEnable (hc : Canonical s) : Kept (execLinkcmdEnable s) := by
  unfold execLinkcmdEnable
  split
  · exact kept_next (canonical_finishCmd (canonical_when (canonical_taken hc) (fun h1 => canonical_trainLink h1)))
  · exact kept_fault

theorem kept_execLinkcmdFence (hc : Canonical s) : Kept (execLinkcmdFence s) := by
  unfold execLinkcmdFence
  split
  · exact kept_next (canonical_finishCmd (canonical_fenceLink (canonical_taken hc)))
  · exact kept_fault

theorem kept_execLinkcmdDown (hc : Canonical s) : Kept (execLinkcmdDown s) := by
  unfold execLinkcmdDown
  split
  · exact kept_next
        (canonical_finishCmd
           (canonical_unless (canonical_taken hc)
              (fun h1 =>
                 canonical_when (canonical_moveLink (canonical_endTraining h1))
                   (fun h2 => canonical_dropHostCopies h2))))
  · exact kept_fault

theorem canonical_hostPrep {pa : Nat} (hc : Canonical s) : Canonical (hostPrep pa s).2 :=
  canonical_foldl_snd hc (fun _ _ h1 => canonical_prepLine h1)

theorem canonical_setHostCopy {pa : Nat} (hc : Canonical s) : Canonical (setHostCopy pa s) :=
  canonical_foldl hc (fun _ _ h1 => canonical_setDir h1)

theorem canonical_clearHostCopy {pa : Nat} (hc : Canonical s) : Canonical (clearHostCopy pa s) :=
  canonical_foldl hc (fun _ _ h1 => canonical_setDir h1)

theorem canonical_showHostCopy {pa : Nat} (hc : Canonical s) : Canonical (showHostCopy pa s) :=
  canonical_foldl hc (fun _ _ h1 => canonical_ite (canonical_setDir h1) h1)

theorem kept_execHostRead (hc : Canonical s) : Kept (execHostRead s) := by
  unfold execHostRead
  split
  · exact kept_next
        (canonical_ite (canonical_rest (canonical_taken hc))
           (canonical_ite (canonical_holdBack (canonical_hostPrep (canonical_taken hc)))
              (canonical_ite (canonical_rest (canonical_hostPrep (canonical_taken hc)))
                 (canonical_rest (canonical_setHostCopy (canonical_hostPrep (canonical_taken hc)))))))
  · exact kept_fault

theorem canonical_hostActs {pa len : Nat} (hc : Canonical s) : Canonical (hostActs pa len s) :=
  canonical_ite hc
    (canonical_when
       (canonical_when (canonical_ite (canonical_ite (canonical_rest hc) hc) hc)
          (fun h2 =>
             canonical_when (canonical_ite (canonical_post h2) h2)
               (fun h3 => canonical_post (canonical_keepCtx h3 h3 rfl rfl rfl))))
       (fun h1 => canonical_serveCommands h1))

theorem kept_execHostWrite (hc : Canonical s) : Kept (execHostWrite s) := by
  unfold execHostWrite
  split
  · exact kept_next
        (canonical_ite (canonical_rest (canonical_taken hc))
           (canonical_unless (canonical_taken hc)
              (fun h1 =>
                 canonical_ite (canonical_holdBack (canonical_hostPrep h1))
                   (canonical_hostActs (canonical_setHostCopy (canonical_performWrite (canonical_hostPrep h1)))))))
  · exact kept_fault

theorem canonical_endHostCopy {hostLine : Nat} {data : Option (List Byte)} {keep : Bool} (hc : Canonical s) :
    Canonical (endHostCopy hostLine data keep s) := by
  refine canonical_ite ?_ hc
  dsimp only
  split
  · exact canonical_ite (canonical_showHostCopy hc) (canonical_clearHostCopy hc)
  · exact canonical_hostActs
        (canonical_performWrite (canonical_ite (canonical_showHostCopy hc) (canonical_clearHostCopy hc)))

theorem kept_execBackInvalidationResponse (hc : Canonical s) : Kept (execBackInvalidationResponse s) := by
  unfold execBackInvalidationResponse
  split
  · exact kept_next (canonical_endHostCopy (canonical_taken hc))
  · exact kept_fault

theorem kept_execHostCopyDrop (hc : Canonical s) : Kept (execHostCopyDrop s) := by
  unfold execHostCopyDrop
  split
  · exact kept_next (canonical_endHostCopy (canonical_taken hc))
  · exact kept_fault

theorem canonical_shareLine {dev : Nat} {line : Nat} (hc : Canonical s) : Canonical (shareLine dev s line) :=
  canonical_ite hc (canonical_setDir hc)

theorem kept_execPeerAccess (hc : Canonical s) : Kept (execPeerAccess s) := by
  unfold execPeerAccess
  split
  · refine kept_next (canonical_ite (canonical_rest (canonical_taken hc)) (canonical_ite (canonical_rest (canonical_taken hc)) ?_))
    dsimp only
    generalize hr : List.foldl _ (true, taken s) _ = r
    have hprep : Canonical r.2 := by
      rw [← hr]
      exact canonical_foldl_snd (canonical_taken hc) fun _ _ h => canonical_prepLine h
    refine canonical_ite (canonical_holdBack hprep) (canonical_ite (canonical_rest hprep) ?_)
    split
    · exact canonical_rest (canonical_performWrite hprep)
    · exact canonical_rest (canonical_when hprep fun h => canonical_foldl h fun _ _ h => canonical_shareLine h)
  · exact kept_fault

theorem canonical_bar0Write {off : Nat} {v : Word} (hc : Canonical s) : Canonical (bar0Write off v s) :=
  canonical_ite (canonical_rest hc)
    (canonical_ite (canonical_when (canonical_rest hc) (fun h1 => canonical_post h1))
       (canonical_ite (canonical_when (canonical_rest hc) (fun h2 => canonical_post h2))
          (canonical_ite (canonical_serveCommands (canonical_rest hc)) (canonical_ite (canonical_post hc) hc))))

theorem canonical_clearOn0 {off : Nat} {v : Word} (hc : Canonical s) : Canonical (clearOn0 off v s) :=
  canonical_ite (canonical_post hc) hc

theorem canonical_debugWrite {off : Nat} {v : Word} (hc : Canonical s) : Canonical (debugWrite off v s) := by
  refine canonical_ite ?_ ?_
  · refine canonical_ite (canonical_clearOn0 hc) ?_
    refine canonical_ite (canonical_core hc) ?_
    refine canonical_ite ?_ hc
    dsimp only
    split
    · exact canonical_post (canonical_core hc)
    · exact canonical_post (canonical_core hc)
    · exact canonical_post (canonical_core hc)
    · exact canonical_core hc
  · refine canonical_ite ?_
        (canonical_ite (canonical_ite (canonical_clearOn0 hc) (canonical_post hc))
           (canonical_ite (canonical_ite (canonical_setSlice hc) (canonical_setSlice hc))
              (canonical_ite (canonical_rest hc)
                 (canonical_ite (canonical_post hc)
                    (canonical_unless (canonical_clearOn0 hc) (fun h1 => canonical_ite h1 hc))))))
    dsimp only
    split
    · exact canonical_keepCtx hc hc rfl rfl rfl
    · exact canonical_keepCtx hc hc rfl rfl rfl
    · exact hc
    · exact canonical_clearOn0 hc

theorem canonical_manageWrite {off : Nat} {v : Word} (hc : Canonical s) : Canonical (manageWrite off v s) :=
  canonical_ite (canonical_rest hc) (canonical_ite (canonical_inbound hc) hc)

theorem kept_execRegisterWrite (hc : Canonical s) : Kept (execRegisterWrite s) := by
  unfold execRegisterWrite
  split
  · exact kept_next
        (canonical_ite (canonical_manageWrite (canonical_taken hc))
           (canonical_ite (canonical_rest (canonical_taken hc))
              (canonical_ite (canonical_bar0Write (canonical_taken hc)) (canonical_debugWrite (canonical_taken hc)))))
  · exact kept_fault

end Sys2Proof.Proofs.Canonical
end

section
/-!
SUPPORT. Canonical form (O60) under trace, counters, fences and tests: an operation keeps it that is made of operations that do.
-/
namespace Sys2Proof.Proofs.Canonical
open Sys2Proof.Machine Sys2Proof.Safety
set_option Elab.async false

variable {s : State}

theorem canonical_putForm {p n : Nat} (hc : Canonical s) : Canonical (putForm p n s) := canonical_rawWrite hc

theorem canonical_stopRecord {p : Nat} {t : Thread} (hc : Canonical s) : Canonical (stopRecord p t s) := canonical_trace hc

theorem canonical_stopAt {p : Nat} {t : Thread} {parked : Option Park} (hc : Canonical s) :
    Canonical (stopAt p t parked s) := canonical_stopRecord (canonical_writeSlotRecord (canonical_thread hc))

theorem kept_execStop (hc : Canonical s) : Kept (execStop s) := by
  unfold execStop
  split
  · refine kept_next ?_
    dsimp only
    split
    · exact canonical_taken hc
    · split
      · exact canonical_taken hc
      · exact canonical_stopRecord (canonical_putForm (canonical_thread (canonical_taken hc)))
      · exact canonical_holdBack (canonical_taken hc)
      · exact canonical_holdBack (canonical_mapThread (canonical_taken hc))
      · exact canonical_ite (canonical_stopAt (canonical_taken hc))
            (canonical_holdBack (canonical_sendMarkers (canonical_mapThread (canonical_taken hc))))
      · exact canonical_ite (canonical_stopAt (canonical_taken hc))
            (canonical_holdBack (canonical_sendMarkers (canonical_mapThread (canonical_taken hc))))
  · exact kept_fault

theorem canonical_resumeStopped {p step : Nat} (hc : Canonical s) : Canonical (resumeStopped p step s) := by
  unfold resumeStopped
  split
  · exact hc
  · split
    · exact canonical_ite hc (canonical_putForm (canonical_thread hc))
    · dsimp only
      split
      · exact canonical_when (canonical_thread (canonical_setSlot hc))
            (fun h1 => canonical_mapThread (canonical_park (canonical_rest h1)))
      · exact canonical_thread (canonical_setSlot hc)
    · exact hc

theorem kept_execResume (hc : Canonical s) : Kept (execResume s) := by
  unfold execResume
  split
  · exact kept_next (canonical_resumeStopped (canonical_taken hc))
  · exact kept_fault

theorem kept_execStep (hc : Canonical s) : Kept (execStep s) := by
  unfold execStep
  split
  · exact kept_next (canonical_resumeStopped (canonical_taken hc))
  · exact kept_fault

theorem canonical_traceDrop {ctx : Nat} (hc : Canonical s) : Canonical (traceDrop ctx s) :=
  canonical_keepCtx hc hc rfl rfl rfl

theorem canonical_nextRecord {ctx : Nat} (hc : Canonical s) : Canonical (setCtx s ctx
    { ctxAt s ctx with trace := { (ctxAt s ctx).trace with head := (ctxAt s ctx).trace.head + 1 } }) :=
  canonical_keepCtx hc hc rfl rfl rfl

theorem canonical_traceWrite {ctx : Nat} {rec_ : List Word} {u : State} (hc : Canonical s) (e : traceWrite ctx rec_ s = some u) :
    Canonical u := by
  unfold traceWrite at e
  dsimp only at e
  split at e
  · cases e
  split at e
  · split at e
    · cases e
    split at e
    · refine Option.some.inj e ▸ canonical_nextRecord ?_
      exact canonical_ite (canonical_rawWrite hc) (canonical_setDirty (canonical_devWrite hc))
    · rename_i e1
      have hpin : Canonical _ := kept_eq (P := PinnedKept) (canonical_pinPage hc) e1
      refine Option.some.inj e ▸ canonical_unpin (canonical_nextRecord ?_)
      exact canonical_ite (canonical_rawWrite hpin) (canonical_setDirty (canonical_devWrite hpin))
    · cases e
  · cases e

theorem kept_execTraceRecordWrite (hc : Canonical s) : Kept (execTraceRecordWrite s) := by
  unfold execTraceRecordWrite
  split
  · refine kept_next ?_
    have htaken := canonical_taken hc
    generalize taken s = u at htaken ⊢
    dsimp only
    split
    · exact htaken
    have hqueue {n : Nat} {x : Ctx} (hx : CtxOk x) : Canonical (setCtx u n x) := canonical_ctx htaken hx
    generalize hv : setCtx u _ _ = v
    have hv' : Canonical v := by
      rw [← hv]
      have hok := ctxOk_ctxAt htaken
      exact hqueue ⟨(hok _).1, (hok _).2.1, Tab.wf_put _ _ (hok _).2.2⟩
    split
    · exact canonical_traceDrop hv'
    · rename_i w e1
      have hw : Canonical w := by
        split at e1
        · exact Option.some.inj e1 ▸ hv'
        · obtain ⟨w', e2, rfl⟩ := Option.map_eq_some_iff.1 e1
          have hw' := canonical_traceWrite hv' e2
          exact canonical_keepCtx hw' hw' rfl rfl rfl
      split
      · rename_i e2
        exact canonical_traceWrite hw e2
      · exact canonical_traceDrop hw
  · exact kept_fault

theorem canonical_clearDropped {n : Nat} (hc : Canonical s) :
    Canonical (setCtx s n { ctxAt s n with trace := { (ctxAt s n).trace with dropped := 0 } }) :=
  canonical_keepCtx hc hc rfl rfl rfl

theorem canonical_clearCounter {off : Nat} (hc : Canonical s) : Canonical (clearCounter off s) := by
  unfold clearCounter
  refine canonical_ite (canonical_ite (canonical_setSlot hc) (canonical_ite (canonical_core hc) (canonical_ite
    (canonical_core hc) (canonical_core hc)))) (canonical_ite (canonical_clearDropped hc) (canonical_ite (canonical_cell hc)
    (canonical_ite ?_ (canonical_setSlice hc))))
  split
  · exact canonical_rest hc
  · exact canonical_rest hc
  · exact canonical_rest hc

theorem kept_execCounterClear (hc : Canonical s) : Kept (execCounterClear s) := by
  unfold execCounterClear
  split
  · exact kept_next (canonical_clearCounter (canonical_taken hc))
  · exact kept_fault

theorem kept_execRowCounterWindow (hc : Canonical s) : Kept (execRowCounterWindow s) := by
  unfold execRowCounterWindow
  split
  · exact kept_next (canonical_setSlice (canonical_taken hc))
  · exact kept_fault

theorem canonical_fenceUnit {u : Nat} (hc : Canonical s) : Canonical (fenceUnit u s) := canonical_ite hc (canonical_rest hc)

theorem canonical_faultEngs {cell : Nat} (hc : Canonical s) : Canonical (faultEngs cell s) :=
  canonical_foldl hc (fun _ _ h1 => canonical_ite h1 (canonical_engFail h1))

theorem canonical_failRunning {core e : Nat} (hc : Canonical s) : Canonical (failRunning core e s) :=
  canonical_when (canonical_mapCopy hc) (fun h1 => canonical_post h1)

theorem canonical_faultCopies {cell : Nat} (hc : Canonical s) : Canonical (faultCopies cell s) :=
  canonical_foldl hc (fun _ _ h1 => canonical_ite (canonical_mapCopy h1) (canonical_failRunning h1))

theorem canonical_fenceOneCell {cell : Nat} (hc : Canonical s) : Canonical (fenceOneCell cell s) :=
  canonical_foldl (canonical_cell (canonical_faultCopies (canonical_faultEngs hc))) (fun _ _ h1 => canonical_core h1)

theorem canonical_fenceStack {chip : Nat} (hc : Canonical s) : Canonical (fenceStack chip s) :=
  canonical_foldl (canonical_fenceUnit hc) (fun _ _ h1 => canonical_fenceOneCell h1)

theorem canonical_fenceCell {cell : Nat} (hc : Canonical s) : Canonical (fenceCell cell s) := by
  have hone := canonical_fenceOneCell (cell := cell) hc
  unfold fenceCell
  generalize fenceOneCell cell s = u at hone ⊢
  exact canonical_ite (canonical_fenceStack hone) hone

theorem canonical_settleFences {cell : Nat} (hc : Canonical s) : Canonical (settleFences cell s) :=
  canonical_ite (canonical_fenceCell hc) hc

theorem canonical_fenceArray {cell : Nat} (hc : Canonical s) : Canonical (fenceArray cell s) :=
  canonical_settleFences (canonical_cell (canonical_faultEngs hc))

theorem canonical_fenceCopy {cell : Nat} (hc : Canonical s) : Canonical (fenceCopy cell s) :=
  canonical_settleFences (canonical_cell (canonical_faultCopies hc))

theorem canonical_fenceCore {core : Nat} (hc : Canonical s) : Canonical (fenceCore core s) :=
  canonical_settleFences (canonical_core hc)

theorem canonical_fenceSqe {chip : Nat} (hc : Canonical s) : Canonical (fenceSqe chip s) := by
  refine canonical_foldl (canonical_fenceUnit hc) ?_
  intro _ _ h1
  split
  · exact canonical_ite h1 (canonical_endTransfer h1)
  · exact canonical_ite (canonical_hostPath (canonical_endOp h1)) (canonical_post h1)
  · exact canonical_post h1
  · exact h1

theorem kept_execHwFaultDetected (hc : Canonical s) : Kept (execHwFaultDetected s) := by
  unfold execHwFaultDetected
  split
  · refine kept_next ?_
    dsimp only
    split
    · exact canonical_errorRec (canonical_when (canonical_taken hc) (fun h1 => canonical_noteRow h1))
    · exact canonical_errorRec (canonical_rest (canonical_taken hc))
    · exact canonical_tellLost
          (canonical_settleFences
             (canonical_errorRec (canonical_endThread (canonical_fenceUnit (canonical_taken hc)))))
    · exact canonical_cell (canonical_taken hc)
    · exact canonical_tellLost (canonical_fenceArray (canonical_errorRec (canonical_taken hc)))
    · exact canonical_tellLost (canonical_fenceArray (canonical_errorRec (canonical_taken hc)))
    · exact canonical_tellLost (canonical_fenceCopy (canonical_errorRec (canonical_taken hc)))
    · exact canonical_fenceSqe (canonical_errorRec (canonical_taken hc))
    · exact canonical_fenceUnit (canonical_errorRec (canonical_taken hc))
    · exact canonical_fenceUnit (canonical_errorRec (canonical_taken hc))
    · exact canonical_tellLost (canonical_fenceCore (canonical_errorRec (canonical_taken hc)))
    · exact canonical_tellLost (canonical_fenceCell (canonical_errorRec (canonical_taken hc)))
    · exact canonical_tellLost (canonical_fenceStack (canonical_errorRec (canonical_taken hc)))
    · exact canonical_linkFails (canonical_taken hc)
  · exact kept_fault

theorem kept_execIftestRequest (hc : Canonical s) : Kept (execIftestRequest s) := by
  unfold execIftestRequest
  split
  · exact kept_next
        (canonical_unless (canonical_taken hc)
           (fun h1 => canonical_ite (canonical_cell h1) (canonical_ite (canonical_cell h1) (canonical_cell h1))))
  · exact kept_fault

theorem canonical_zeroCell {cell : Nat} (hc : Canonical s) : Canonical (zeroCell cell s) :=
  canonical_foldl (canonical_cell (canonical_words (canonical_mem hc (filter_wf _ hc.1)) (Tab.wf_filter _ hc.2.2.1)))
    fun _ _ h => canonical_core h

theorem canonical_unfence {cell tests : Nat} (hc : Canonical s) : Canonical (unfence cell tests s) :=
  canonical_when (canonical_cell hc) (fun h1 => canonical_rest (canonical_foldl h1 (fun _ _ h2 => canonical_core h2)))

theorem kept_execIftestDone (hc : Canonical s) : Kept (execIftestDone s) := by
  unfold execIftestDone
  split
  · exact kept_next
        (canonical_unless (canonical_taken hc)
           (fun h1 =>
              canonical_hostEvent
                (canonical_ite
                   (canonical_unfence
                      (canonical_when (canonical_cell (canonical_zeroCell h1)) (fun h2 => canonical_errorRec h2)))
                   (canonical_tellLost
                      (canonical_ite
                         (canonical_fenceCore (canonical_errorRec (canonical_cell (canonical_zeroCell h1))))
                         (canonical_ite
                            (canonical_fenceArray (canonical_errorRec (canonical_cell (canonical_zeroCell h1))))
                            (canonical_ite
                               (canonical_fenceCopy (canonical_errorRec (canonical_cell (canonical_zeroCell h1))))
                               (canonical_fenceCell
                                  (canonical_errorRec (canonical_cell (canonical_zeroCell h1)))))))))))
  · exact kept_fault

theorem kept_execIftestReminder (hc : Canonical s) : Kept (execIftestReminder s) := by
  unfold execIftestReminder
  split
  · exact kept_next (canonical_hostEvent (canonical_taken hc))
  · exact kept_fault

theorem kept_execPowerLimitWrite (hc : Canonical s) : Kept (execPowerLimitWrite s) := by
  unfold execPowerLimitWrite
  split
  · exact kept_next (canonical_when (canonical_taken hc) (fun h1 => canonical_rest h1))
  · exact kept_fault

theorem canonical_State_reset : Canonical State.reset :=
  ⟨rfl, rfl, rfl, rfl, rfl, rfl, rfl, rfl, rfl, rfl, rfl, rfl, rfl, rfl⟩

theorem kept_execColdReset : Kept (execColdReset s) := by
  unfold execColdReset
  split
  · exact kept_next (canonical_rest canonical_State_reset)
  · exact kept_fault

theorem kept_execBoot (hc : Canonical s) : Kept (execBoot s) := by
  unfold execBoot
  split
  · exact kept_next
        (canonical_unless (canonical_taken hc)
           (fun h1 =>
              canonical_foldl (canonical_rest (canonical_rawWrite h1))
                (fun _ _ h2 => canonical_ite (canonical_trainLink h2) h2)))
  · exact kept_fault

theorem kept_execAttestationRequest (hc : Canonical s) : Kept (execAttestationRequest s) := by
  unfold execAttestationRequest
  split
  · exact kept_next (canonical_when (canonical_taken hc) (fun h1 => canonical_rest h1))
  · exact kept_fault

theorem canonical_postOnce {ev : Event} (hc : Canonical s) : Canonical (postOnce ev s) :=
  canonical_ite hc (canonical_post hc)

theorem canonical_countSlot {p : Nat} (hc : Canonical s) : Canonical (countSlot p s) :=
  canonical_ite (canonical_setSlot hc) (canonical_ite hc (canonical_setSlot hc))

theorem canonical_countHist {core : Nat} (hc : Canonical s) : Canonical (countHist core s) :=
  canonical_ite hc (canonical_core hc)

theorem canonical_countCycle (hc : Canonical s) : Canonical (countCycle s) :=
  canonical_foldl (canonical_foldl hc (fun _ _ h1 => canonical_countHist h1))
    (fun _ _ h2 => canonical_foldl h2 (fun _ _ h3 => canonical_countSlot h3))

theorem canonical_chargeStatic {ticks : Nat} (hc : Canonical s) : Canonical (chargeStatic ticks s) := by
  refine canonical_foldl hc ?_
  intro _ _ h1
  split
  · exact canonical_charged h1
  · exact canonical_charged h1
  · exact canonical_charged h1
  · exact canonical_charged h1
  · exact h1

theorem canonical_ageCells (hc : Canonical s) : Canonical (ageCells s) :=
  canonical_foldl hc
    (fun _ _ h1 =>
       canonical_ite h1
         (canonical_ite (canonical_cell h1) (canonical_when (canonical_cell h1) (fun h2 => canonical_post h2))))

theorem canonical_passTime (hc : Canonical s) : Canonical (passTime s) :=
  canonical_postAll (canonical_rest (canonical_rest hc))

theorem canonical_arrayTurn {cell : Nat} (hc : Canonical s) : Canonical (arrayTurn cell s) :=
  canonical_ite (canonical_rest hc) (canonical_postOnce hc)

theorem canonical_postDue (hc : Canonical s) : Canonical (postDue s) := by
  refine canonical_unless ?_ (fun h1 => canonical_foldl h1 (fun _ _ h10 => canonical_ite h10 (canonical_post h10)))
  refine canonical_foldl ?_ (fun _ _ h9 => canonical_ite (canonical_serveRing h9) h9)
  refine canonical_foldl ?_ (fun _ _ h8 => canonical_ite (canonical_postOnce h8) h8)
  refine canonical_foldl ?_ (fun _ _ h7 => canonical_ite (canonical_arrayTurn h7) h7)
  refine canonical_foldl ?_
      (fun _ _ h4 =>
         canonical_when (canonical_foldl h4 (fun _ _ h6 => canonical_ite (canonical_postOnce h6) h6))
           (fun h5 => canonical_postOnce h5))
  refine canonical_foldl hc ?_
  intro _ _ h2
  dsimp only
  split
  · exact canonical_when (canonical_ite (canonical_postOnce h2) h2) (fun h3 => canonical_postOnce h3)
  · exact h2

theorem canonical_endPasses (hc : Canonical s) : Canonical (endPasses s) := by
  refine canonical_foldl hc ?_
  intro _ _ h1
  split
  · exact canonical_ite (canonical_endPass h1) h1
  · exact h1

theorem canonical_replaceSome (hc : Canonical s) : Canonical (replaceSome s) :=
  canonical_nextFresh (canonical_nextFresh (canonical_replaceNth hc))

theorem kept_execCycle (hc : Canonical s) : Kept (execCycle s) := by
  unfold execCycle
  split
  · exact kept_next
        (canonical_postDue
           (canonical_wakeHeld
              (canonical_replaceSome
                 (canonical_ageCells
                    (canonical_chargeStatic
                       (canonical_endPasses (canonical_passTime (canonical_countCycle (canonical_taken hc)))))))))
  · exact kept_fault

end Sys2Proof.Proofs.Canonical
end

section
/-!
PROOF. Canonical form stays (O60): the arms of exec, then a step.
-/
namespace Sys2Proof.Proofs.Canonical
open Sys2Proof.Machine Sys2Proof.Safety
set_option Elab.async false

variable {s : State}

/-- Every instruction, and every message and event, leaves a canonical state. -/
theorem kept_exec {i : Instr} (hc : Canonical s) : Kept (exec i s) :=
  match i with
  | .add .. => kept_execAdd hc
  | .sub .. => kept_execSub hc
  | .and .. => kept_execAnd hc
  | .or .. => kept_execOr hc
  | .xor .. => kept_execXor hc
  | .andn .. => kept_execAndn hc
  | .shl .. => kept_execShl hc
  | .shr .. => kept_execShr hc
  | .sra .. => kept_execSra hc
  | .rot .. => kept_execRot hc
  | .slt .. => kept_execSlt hc
  | .sltu .. => kept_execSltu hc
  | .seq .. => kept_execSeq hc
  | .min .. => kept_execMin hc
  | .max .. => kept_execMax hc
  | .minu .. => kept_execMinu hc
  | .maxu .. => kept_execMaxu hc
  | .addw .. => kept_execAddw hc
  | .subw .. => kept_execSubw hc
  | .mul .. => kept_execMul hc
  | .mulh .. => kept_execMulh hc
  | .mulhu .. => kept_execMulhu hc
  | .div .. | .divu .. | .rem .. | .remu .. => kept_divides hc
  | .clz .. => kept_execClz hc
  | .ctz .. => kept_execCtz hc
  | .popc .. => kept_execPopc hc
  | .bext .. => kept_execBext hc
  | .bins .. | .lui .. | .auipc .. | .kmovk .. | .kpop .. | .kfirst .. | .tid .. | .rpeek .. | .qstat .. =>
    kept_computes hc
  | .sext .. => kept_execSext hc
  | .zext .. => kept_execZext hc
  | .bswap .. => kept_execBswap hc
  | .nop => kept_next (canonical_complete hc hc)
  | .addi .. => kept_execAddi hc
  | .andi .. => kept_execAndi hc
  | .ori .. => kept_execOri hc
  | .xori .. => kept_execXori hc
  | .slti .. => kept_execSlti hc
  | .sltiu .. => kept_execSltiu hc
  | .shli .. => kept_execShli hc
  | .shri .. => kept_execShri hc
  | .srai .. => kept_execSrai hc
  | .roti .. => kept_execRoti hc
  | .jal .. | .jalr .. => kept_withOps hc (fun _ => canonical_jump hc)
  | .beq .. | .bne .. | .blt .. | .bge .. | .bltu .. | .bgeu .. | .beqz .. | .bnez .. => kept_branch hc
  | .kmovg .. => kept_withOps hc (fun _ => canonical_complete hc (canonical_me (canonical_commit hc)))
  | .kand .. | .kor .. | .kxor .. | .knot .. => kept_maskOp hc
  | .ld .. | .ldu .. => kept_loadInstr hc
  | .st .. => kept_storeInstr hc
  | .ldp _ _ _ sc _ => kept_execLdp (_sc := sc) hc
  | .ldsync .. | .stsync .. | .feclr .. | .feset .. | .feprobe .. | .ldmon .. =>
    kept_withOps hc (fun _ => canonical_feInstr hc)
  | .amoAdd .. | .amoAnd .. | .amoOr .. | .amoXor .. | .amoMin .. | .amoMax .. | .amoMinu .. | .amoMaxu ..
  | .amoSwap .. | .amoFadd .. | .amoFmin .. | .amoFmax .. => kept_amoInstr hc
  | .casW .. | .casD .. => kept_casInstr hc
  | .redAdd .. => kept_execRedAdd hc
  | .redAnd .. => kept_execRedAnd hc
  | .redOr .. => kept_execRedOr hc
  | .redXor .. => kept_execRedXor hc
  | .redMin .. => kept_execRedMin hc
  | .redMax .. => kept_execRedMax hc
  | .redMinu .. => kept_execRedMinu hc
  | .redMaxu .. => kept_execRedMaxu hc
  | .redFadd .. => kept_execRedFadd hc
  | .redFmin .. => kept_execRedFmin hc
  | .redFmax .. => kept_execRedFmax hc
  | .fence .. => kept_execFence hc
  | .pref _ sc _ => kept_execPref (_sc := sc) hc
  | .cflush _ sc _ => kept_execCflush (_sc := sc) hc
  | .cinval _ sc _ => kept_execCinval (_sc := sc) hc
  | .vadd .. | .vsub .. | .vmul .. | .vmulh .. | .vmin .. | .vmax .. | .vminu .. | .vmaxu .. | .vabs .. | .vfabs ..
  | .vfneg .. | .vand .. | .vor .. | .vxor .. | .vnot .. | .vshl .. | .vshr .. | .vsra .. => kept_vecOp hc
  | .vmac .. => kept_execVmac hc
  | .vfadd .. => kept_execVfadd hc
  | .vfsub .. => kept_execVfsub hc
  | .vfmul .. => kept_execVfmul hc
  | .vfma .. => kept_execVfma hc
  | .vfmin .. => kept_execVfmin hc
  | .vfmax .. => kept_execVfmax hc
  | .vfrcp .. => kept_execVfrcp hc
  | .vfrsq .. => kept_execVfrsq hc
  | .vfdiv .. => kept_execVfdiv hc
  | .vfsqrt .. => kept_execVfsqrt hc
  | .vcmpEq .. => kept_execVcmpEq hc
  | .vcmpLt .. => kept_execVcmpLt hc
  | .vcmpLtu .. => kept_execVcmpLtu hc
  | .vfcmpEq .. | .vfcmpLt .. | .vfcmpLe .. | .vfcmpUn .. => kept_floatCompare hc
  | .vsel .. => kept_execVsel hc
  | .vbcast .. => kept_execVbcast hc
  | .vext .. => kept_execVext hc
  | .vins .. => kept_execVins hc
  | .vperm .. => kept_execVperm hc
  | .vrot .. => kept_execVrot hc
  | .vredadd .. => kept_execVredadd hc
  | .vredmin .. => kept_execVredmin hc
  | .vredmax .. => kept_execVredmax hc
  | .vfredadd .. => kept_execVfredadd hc
  | .vcompress .. => kept_execVcompress hc
  | .vexpand .. => kept_execVexpand hc
  | .vcvt .. => kept_execVcvt hc
  | .vdec .. => kept_execVdec hc
  | .venc .. => kept_execVenc hc
  | .vtabld .. => kept_execVtabld hc
  | .vscale .. => kept_execVscale hc
  | .vld .. => kept_execVld hc
  | .vlds .. => kept_execVlds hc
  | .vldx .. => kept_execVldx hc
  | .vldb .. => kept_execVldb hc
  | .vst .. => kept_execVst hc
  | .vsts .. => kept_execVsts hc
  | .vstx .. => kept_execVstx hc
  | .spawn .. => kept_execSpawn hc
  | .yield => kept_execYield hc
  | .quit => kept_withOps hc (fun _ => canonical_endThread hc)
  | .susp => kept_execSusp hc
  | .migr .. => kept_execMigr hc
  | .send .. => kept_execSend hc
  | .sendg .. => kept_execSendg hc
  | .recv => kept_execRecv hc
  | .qbind .. => kept_execQbind hc
  | .qunbind .. => kept_execQunbind hc
  | .qclose .. => kept_execQclose hc
  | .tdecl .. => kept_execTdecl hc
  | .tfree .. => kept_execTfree hc
  | .tstage .. => kept_execTstage hc
  | .tdrain .. => kept_execTdrain hc
  | .ttag .. => kept_execTtag hc
  | .tsettag .. => kept_execTsettag hc
  | .tinv .. => kept_execTinv hc
  | .mcast .. => kept_execMcast hc
  | .tfwd .. => kept_execTfwd hc
  | .tbst .. => kept_execTbst hc
  | .mma .. | .mmas .. => kept_mmaInstr hc
  | .mset .. => kept_execMset hc
  | .mscale .. | .acczero .. | .accld .. | .accst .. =>
    kept_withOps hc (fun _ => canonical_acqGate hc (canonical_arrCommand hc))
  | .mget .. => kept_execMget hc
  | .accrd .. => kept_execAccrd hc
  | .accwr .. => kept_execAccwr hc
  | .mstat .. => kept_execMstat hc
  | .xcopy .. | .xfill .. => kept_copyInstr hc
  | .xset .. => kept_execXset hc
  | .xcancel .. => kept_execXcancel hc
  | .barInit .. => kept_execBarInit hc
  | .barArrive .. => kept_execBarArrive hc
  | .barExpect .. => kept_execBarExpect hc
  | .barArm .. => kept_execBarArm hc
  | .barInval .. => kept_execBarInval hc
  | .tlRead .. => kept_execTlRead hc
  | .tlArm .. => kept_execTlArm hc
  | .taskSub .. => kept_execTaskSub hc
  | .taskDone .. => kept_execTaskDone hc
  | .taskDep .. => kept_execTaskDep hc
  | .taskInfo .. => kept_execTaskInfo hc
  | .grpInfo .. => kept_execGrpInfo hc
  | .collStart .. => kept_execCollStart hc
  | .collStat .. => kept_execCollStat hc
  | .stoRead .. | .stoWrite .. => kept_stoInstr hc
  | .stoSync .. => kept_execStoSync hc
  | .csrRd .. => kept_execCsrRd hc
  | .csrWr .. => kept_execCsrWr hc
  | .csrSet .. => kept_execCsrSet hc
  | .csrClr .. => kept_execCsrClr hc
  | .sysCall .. => kept_execSysCall hc
  | .sysRet .. => kept_execSysRet hc
  | .repart .. => kept_execRepart hc
  | .brk .. => kept_withOps hc (fun _ => canonical_raise hc)
  | .mark .. => kept_execMark hc
  | .xlatInv .. => kept_execXlatInv hc
  | .fenceXlat => kept_execFenceXlat hc
  | .gangAck .. => kept_execGangAck hc
  | .mvblk .. => kept_execMvblk hc
  | .stblk .. => kept_execStblk hc
  | .cmpblk .. => kept_execCmpblk hc
  | .illinst => kept_execIllinst hc
  | .postedArrive => kept_execPostedArrive hc
  | .postedFail => kept_execPostedFail hc
  | .loadReply => kept_execLoadReply hc
  | .storeCheckReply => kept_execStoreCheckReply hc
  | .storeAck => kept_execStoreAck hc
  | .homeRead => kept_execHomeRead hc
  | .homeWrite => kept_execHomeWrite hc
  | .collectRecallReply => kept_execCollectRecallReply hc
  | .redURequest => kept_execRedURequest hc
  | .uEviction => kept_execUEviction hc
  | .invalidation => kept_execInvalidation hc
  | .invalidationAck => kept_execInvalidationAck hc
  | .fenceMarker => kept_execFenceMarker hc
  | .fenceMarkerAnswer => kept_execFenceMarkerAnswer hc
  | .feRetry => kept_execFeRetry hc
  | .reservationExpiry => kept_execReservationExpiry hc
  | .waitovf => kept_execWaitovf hc
  | .wakeAtSlot => kept_execWakeAtSlot hc
  | .wakeAtRecord => kept_execWakeAtRecord hc
  | .parklimWriteOut => kept_execParklimWriteOut hc
  | .poolPickup => kept_execPoolPickup hc
  | .promoteAging => kept_execPromoteAging hc
  | .migrantArrival => kept_execMigrantArrival hc
  | .migrantAccepted => kept_execMigrantAccepted hc
  | .migrantRefused => kept_execMigrantRefused hc
  | .forwardedValue => kept_execForwardedValue hc
  | .dividerDone => kept_execDividerDone hc
  | .normaliserDone => kept_execNormaliserDone hc
  | .iterativeUnitDone => kept_execIterativeUnitDone hc
  | .mailboxMessage => kept_execMailboxMessage hc
  | .sendReply => kept_execSendReply hc
  | .sendgMemberReply => kept_execSendgMemberReply hc
  | .stageRead => kept_execStageRead hc
  | .stageOwn => kept_execStageOwn hc
  | .tileDrain => kept_execTileDrain hc
  | .tileDrop => kept_execTileDrop hc
  | .tileRecall => kept_execTileRecall hc
  | .tileFillComplete => kept_execTileFillComplete hc
  | .tileWritebackAck => kept_execTileWritebackAck hc
  | .stageHoldExpiry => kept_execStageHoldExpiry hc
  | .deferExpiry => kept_execDeferExpiry hc
  | .tfwdTransfer => kept_execTfwdTransfer hc
  | .kstep => kept_execKstep hc
  | .arrayCommandComplete => kept_execArrayCommandComplete hc
  | .mtabldLoadComplete => kept_execMtabldLoadComplete hc
  | .copyCommandComplete => kept_execCopyCommandComplete hc
  | .barrierBytes => kept_execBarrierBytes hc
  | .taskNotifyArrival => kept_execTaskNotifyArrival hc
  | .taskRead => kept_execTaskRead hc
  | .taskMatch => kept_execTaskMatch hc
  | .taskPlace => kept_execTaskPlace hc
  | .taskDecrement => kept_execTaskDecrement hc
  | .collAllJoined => kept_execCollAllJoined hc
  | .collChunkForward => kept_execCollChunkForward hc
  | .collChunkAck => kept_execCollChunkAck hc
  | .collMemberLost => kept_execCollMemberLost hc
  | .collRepairDone => kept_execCollRepairDone hc
  | .launchDoorbell => kept_execLaunchDoorbell hc
  | .retire => kept_execRetire hc
  | .textFetch => kept_execTextFetch hc
  | .translationMiss => kept_execTranslationMiss hc
  | .walkComplete => kept_execWalkComplete hc
  | .retryWakeTimer => kept_execRetryWakeTimer hc
  | .storageFaultAccept => kept_execStorageFaultAccept hc
  | .pageFillComplete => kept_execPageFillComplete hc
  | .evictionWritebackDone => kept_execEvictionWritebackDone hc
  | .remoteAccess => kept_execRemoteAccess hc
  | .migrationComplete => kept_execMigrationComplete hc
  | .releaseNotice => kept_execReleaseNotice hc
  | .xlatInvAtSlice => kept_execXlatInvAtSlice hc
  | .stoTransferComplete => kept_execStoTransferComplete hc
  | .peerAccess => kept_execPeerAccess hc
  | .hostRead => kept_execHostRead hc
  | .hostWrite => kept_execHostWrite hc
  | .backInvalidationResponse => kept_execBackInvalidationResponse hc
  | .hostEventPost => kept_execHostEventPost hc
  | .addCommand => kept_execAddCommand hc
  | .invalCommand => kept_execInvalCommand hc
  | .replyCommand => kept_execReplyCommand hc
  | .gangstepCommand => kept_execGangstepCommand hc
  | .linkcmdEnable => kept_execLinkcmdEnable hc
  | .linkcmdFence => kept_execLinkcmdFence hc
  | .linkcmdDown => kept_execLinkcmdDown hc
  | .linkTrainingDone => kept_execLinkTrainingDone hc
  | .linkTrainingTimeout => kept_execLinkTrainingTimeout hc
  | .laneRetire => kept_execLaneRetire hc
  | .flitReplay => kept_execFlitReplay hc
  | .flitUncorrectable => kept_execFlitUncorrectable hc
  | .laneMarginMeasure => kept_execLaneMarginMeasure hc
  | .create => kept_execCreate hc
  | .place => kept_execPlace hc
  | .kill => kept_execKill hc
  | .free => kept_execFree hc
  | .commandIllegalCode => kept_execCommandIllegalCode hc
  | .switchAnnounce => kept_execSwitchAnnounce hc
  | .switchStamp => kept_execSwitchStamp hc
  | .saveComplete => kept_execSaveComplete hc
  | .restoreComplete => kept_execRestoreComplete hc
  | .stopTimeout => kept_execStopTimeout hc
  | .trapDelivery => kept_execTrapDelivery hc
  | .handlerStart => kept_execHandlerStart hc
  | .handlerStartTimeout => kept_execHandlerStartTimeout hc
  | .eventRingWrite => kept_execEventRingWrite hc
  | .stop => kept_execStop hc
  | .resume => kept_execResume hc
  | .step => kept_execStep hc
  | .traceRecordWrite => kept_execTraceRecordWrite hc
  | .counterClear => kept_execCounterClear hc
  | .laneCounterClear => kept_execLaneCounterClear hc
  | .registerWrite => kept_execRegisterWrite hc
  | .iftestRequest => kept_execIftestRequest hc
  | .iftestDone => kept_execIftestDone hc
  | .iftestReminder => kept_execIftestReminder hc
  | .rowCounterWindow => kept_execRowCounterWindow hc
  | .hwFaultDetected => kept_execHwFaultDetected hc
  | .powerLimitWrite => kept_execPowerLimitWrite hc
  | .coldReset => kept_execColdReset
  | .boot => kept_execBoot hc
  | .launchChecksDone => kept_execLaunchChecksDone hc
  | .killComplete => kept_execKillComplete hc
  | .copyElement => kept_execCopyElement hc
  | .cycle => kept_execCycle hc
  | .hostCopyDrop => kept_execHostCopyDrop hc
  | .attestationRequest => kept_execAttestationRequest hc

/-- Settles O60: the move that a step makes starts from a canonical state, and what it carries out keeps it so. -/
theorem canonicalStays : Obligations.CanonicalStays := by
  unfold Obligations.CanonicalStays
  intro s t hc hstep
  have hmove := canonical_nextMove hc
  unfold step at hstep
  split at hstep
  · rename_i e1
    rw [e1] at hmove
    exact kept_exec (canonical_rest hmove) t hstep
  · rename_i e1
    rw [e1] at hmove
    exact kept_exec hmove t hstep
  · rename_i e1
    rw [e1] at hmove
    exact kept_next hmove t hstep

end Sys2Proof.Proofs.Canonical
end

section
/-!
PROOF. O49 (R213, R254, R445) fails: the host line's second half can lie in a tile that shows only once the first half is filled.
The frame of a page being evicted is read from its ring entry's place; where that place is a DRAM row's counter in the debug block,
filling the first half counts an activation there and moves the page.
-/
namespace Sys2Proof.Proofs.MovingFrame
open Sys2Proof.Machine Sys2Proof.Safety

set_option Elab.async false

/-- The place the host reads, the first line of its host line, and the line's home. -/
def readPa : Nat := 2 ^ 32
def firstLine : Nat := 2 ^ 32 / 32
def readHome : Nat := sliceOfPa readPa

/-- The number of the first line's DRAM row, as the row's counters show it (R480). -/
def rowId : Word := w64 (fld (Config.dramRow (dramOffset (framePa (firstLine * 32)))) 0 32)

/-- The doubleword that lies across the first row counter of the home's column: the high half of its number, which is 0, and the
count of corrected errors. -/
def counterPlace : Nat := debugBase + 0x370000 + 1024 * readHome + 4

/-- A tile of one line, the second of the host line by its address; a tfree of it is being served. -/
def freedTile : TileEnt := { idx := 0, ctx := 0, handle := 0, tag := 0, base := w64 (readPa + 32), span := 32, freeing := true }

/-- The home's slice, with its lines and its row counters. -/
def homeSlice (lines : Tab Bool) (hot : List Nat) (rows spare : List RowCount) : Slice :=
  { tiles := [freedTile], lines := lines, hot := hot, rows := rows, spare := spare }

/-- The page at the read's address is being evicted, and its ring entry lies at the row counter. -/
def pageLeaving (home : Slice) : State :=
  { State.reset with slices := [(readHome, home)], sqes := [(0, { ops := [(0, some (.evict readPa 0 0 0 counterPlace false))] })] }

/-- Before the read: the first line's row is not among those counted, and has had an error corrected. -/
def beforeRead : State := pageLeaving (homeSlice [] [] [] [⟨rowId, 1, 0⟩])

/-- The first line has been filled. -/
def firstFilled (acts : Nat) : State := pageLeaving (homeSlice [(firstLine, false)] [firstLine] [⟨rowId, 1, acts⟩] [])

theorem countRow_spare (id : Word) (acts : Nat) : countRow id acts 0 [] [⟨id, 1, 0⟩] = ([⟨id, 1, acts⟩], []) := by
  simp [countRow]

theorem beforeRead_canonical : Canonical beforeRead := by
  unfold Canonical MemOk; decide

theorem beforeRead_noTile (l : Nat) (h : l = firstLine ∨ l = firstLine + 1) : tileAt beforeRead readHome l = none := by
  rcases h with rfl | rfl <;> decide

theorem beforeRead_home (n : Nat) : (sliceAt beforeRead n).lines = [] := by
  unfold sliceAt
  change (if readHome = n then _ else if n < readHome then _ else _ : Slice).lines = []
  split_ifs <;> rfl

theorem beforeRead_free : HostLineFree beforeRead readPa := by
  refine ⟨⟨fun home l m h => ?_, fun _ _ _ h => (List.not_mem_nil h).elim, fun _ h => (List.not_mem_nil h).elim⟩,
    fun l hl => ⟨beforeRead_noTile l hl, rfl⟩⟩
  rw [beforeRead_home] at h
  exact (List.not_mem_nil h).elim

/-- The fill counts an activation at the row, which takes its place among those counted. -/
theorem fillLine_first : fillLine firstLine beforeRead = firstFilled (Config.activations 0 firstLine) := by
  change { State.reset with
    sqes := [(0, { ops := [(0, some (.evict readPa 0 0 0 counterPlace false))] })],
    slices := Tab.ins [(readHome, homeSlice [(firstLine, false)] [firstLine] [] [⟨rowId, 1, 0⟩])] readHome
      { homeSlice [(firstLine, false)] [firstLine] [] [] with
        rows := (countRow rowId (Config.activations 0 firstLine) 0 [] [⟨rowId, 1, 0⟩]).1,
        spare := (countRow rowId (Config.activations 0 firstLine) 0 [] [⟨rowId, 1, 0⟩]).2 } } = _
  rw [countRow_spare]
  rfl

theorem prepLine_first : prepLine readHome firstLine none .host beforeRead = (true, firstFilled (Config.activations 0 firstLine)) := by
  unfold prepLine
  rw [if_neg (by decide), beforeRead_noTile firstLine (.inl rfl), ← fillLine_first]
  rfl

theorem rowId_lt : rowId.toNat < 2 ^ 32 := by
  unfold rowId w64
  rw [BitVec.toNat_ofNat]
  exact (Nat.mod_le _ _).trans_lt (Nat.mod_lt _ (by decide))

/-- A count of one in the low half of a counter register: its bytes (R480). -/
theorem fld_count {k : Nat} (m : Nat) (hk : k ∈ [0, 8, 16, 24]) : fld (w64 (1 + m * 2 ^ 32)) k 8 = 1 / 2 ^ k := by
  rw [fld, bits, w64, BitVec.toNat_ofNat]
  simp only [List.mem_cons, List.not_mem_nil, or_false] at hk
  rcases hk with rfl | rfl | rfl | rfl <;> omega

theorem counterPlace_filled (acts : Nat) : rd64 (firstFilled acts) counterPlace = 2 ^ 32 := by
  have hid : ∀ k, 32 ≤ k → fld rowId k 8 = 0 := fun k hk => by
    have hlt := rowId_lt.trans_le (Nat.pow_le_pow_right (by decide) hk)
    rw [fld, bits, Nat.div_eq_of_lt hlt, Nat.zero_mod]
  have hbytes : rdBytes (firstFilled acts) counterPlace 8 = [0, 0, 0, 0, 1, 0, 0, 0] := by
    change [BitVec.ofNat 8 (fld rowId 32 8), BitVec.ofNat 8 (fld rowId 40 8), BitVec.ofNat 8 (fld rowId 48 8),
      BitVec.ofNat 8 (fld rowId 56 8), BitVec.ofNat 8 (fld (w64 (1 + Nat.min (2 ^ 32 - 1) acts * 2 ^ 32)) 0 8),
      BitVec.ofNat 8 (fld (w64 (1 + Nat.min (2 ^ 32 - 1) acts * 2 ^ 32)) 8 8),
      BitVec.ofNat 8 (fld (w64 (1 + Nat.min (2 ^ 32 - 1) acts * 2 ^ 32)) 16 8),
      BitVec.ofNat 8 (fld (w64 (1 + Nat.min (2 ^ 32 - 1) acts * 2 ^ 32)) 24 8)] = _
    rw [hid 32 (by decide), hid 40 (by decide), hid 48 (by decide), hid 56 (by decide), fld_count _ (by decide),
      fld_count _ (by decide), fld_count _ (by decide), fld_count _ (by decide)]
    decide
  rw [rd64, rdNat, hbytes]
  decide

/-- Where neither memory nor the directory has an entry a doubleword of the device reads 0. -/
theorem cur64_of_blank {s : State} {pa : Nat} (hdir : s.dir = []) (hmem : s.mem = []) (hpa : pa + 8 ≤ altBase) : cur64 s pa = 0 := by
  have hbyte : ∀ i ∈ List.range 8, curByte s (pa + i) = 0 := fun i hi => by
    unfold curByte dirAt rdByte
    rw [hdir, hmem, if_pos (by have := List.mem_range.1 hi; omega)]
    rfl
  unfold cur64
  rw [List.map_congr_left hbyte]
  decide

/-- A root entry that is not valid ends a walk (R435). -/
theorem walk_of_absent {s : State} {va : Nat} (h : pteV (cur64 s (fld s.host.xroot 12 27 * 4096 + bits va 48 8 * 8)) = false) :
    walk s va = .absent := by
  unfold walk walkFrom
  simp [h]

theorem devPa_of_absent {s : State} {n va : Nat} (hr : region (w64 va) = .paged) (hw : walk s va = .absent) : devPa s n va = none := by
  unfold devPa
  rw [hr, hw]

/-- With the first line filled the page's frame is the read's own place: the second line is the tile's. -/
theorem tileAt_second (acts : Nat) : tileAt (firstFilled acts) readHome (firstLine + 1) = some freedTile := by
  have hplace : evictingPlace (firstFilled acts) (readPa + 32) = some (readPa + 32) := by
    change (some (placeFor (sliceOfVa (readPa + 32)) ((rd64 (firstFilled acts) counterPlace).toNat + 32))).or none = _
    rw [counterPlace_filled]
    decide
  have hwalk : tileByte (firstFilled acts) freedTile 0 = some (readPa + 32) := by
    have hentry : cur64 (firstFilled acts) 0 = 0 := cur64_of_blank rfl rfl (by decide)
    have hroot : fld (firstFilled acts).host.xroot 12 27 * 4096 + bits (readPa + 32) 48 8 * 8 = 0 := by
      rw [show (firstFilled acts).host.xroot = 0 from rfl]
      decide
    have hwalk : walk (firstFilled acts) (readPa + 32) = .absent := walk_of_absent (by rw [hroot, hentry]; rfl)
    have hdev : devPa (firstFilled acts) 0 (readPa + 32) = none := devPa_of_absent (by decide) hwalk
    change (devPa (firstFilled acts) 0 (readPa + 32)).or (evictingPlace (firstFilled acts) (readPa + 32)) = _
    rw [hdev, hplace]
    rfl
  have hline : tileHas (firstFilled acts) freedTile (firstLine + 1) = true := by
    change ([0].any fun i => tileLine (firstFilled acts) freedTile i == some (firstLine + 1)) = true
    rw [List.any_cons, tileLine, tilePlace, hwalk]
    rfl
  change [freedTile].find? (fun e => tileHas (firstFilled acts) e (firstLine + 1)) = _
  exact List.find?_cons_of_pos hline

theorem prepLine_second (acts : Nat) : prepLine readHome (firstLine + 1) none .host (firstFilled acts) = (false, firstFilled acts) := by
  unfold prepLine
  rw [if_neg (by decide), tileAt_second]
  rfl

/-- The read is held back: nothing goes to the host. -/
theorem hostRead_waits : ∃ t, Delivers beforeRead (.hostRead readPa) t ∧ t.out = [] := by
  have hprep : hostPrep readPa beforeRead = (false, firstFilled (Config.activations 0 firstLine)) := by
    unfold hostPrep hostLines
    rw [List.foldl_cons, List.foldl_cons, List.foldl_nil]
    change (true && (prepLine readHome firstLine none .host beforeRead).1 &&
      (prepLine readHome (firstLine + 1) none .host (prepLine readHome firstLine none .host beforeRead).2).1,
      (prepLine readHome (firstLine + 1) none .host (prepLine readHome firstLine none .host beforeRead).2).2) = _
    rw [prepLine_first, prepLine_second]
    rfl
  refine ⟨holdBack (.hostRead readPa) (firstFilled (Config.activations 0 firstLine)), ?_, rfl⟩
  change execHostRead { beforeRead with now := some (.hostRead readPa) } = _
  unfold execHostRead
  have htaken : taken { beforeRead with now := some (.hostRead readPa) } = beforeRead := rfl
  simp only [htaken, hprep]
  rfl

end Sys2Proof.Proofs.MovingFrame

namespace Sys2Proof
open Sys2Proof.Machine Sys2Proof.Safety Sys2Proof.Proofs.MovingFrame

/-- Refutes O49: a read of a host line that no tile holds is held back, for a tile being freed that the fill of its first line has
moved onto the second. -/
theorem not_hostAccesses : ¬ Obligations.HostAccesses := by
  unfold Obligations.HostAccesses
  intro h
  obtain ⟨_, _, _, hread, _⟩ := h beforeRead readPa beforeRead_canonical rfl
  obtain ⟨_, hdata, _⟩ := hread (by decide) beforeRead_free
  obtain ⟨t, ht, hout, _⟩ := hdata fun _ _ hp => (List.not_mem_nil hp).elim
  obtain ⟨u, hu, hnone⟩ := hostRead_waits
  cases ht.symm.trans hu
  rw [hnone] at hout
  cases hout

end Sys2Proof
end

section
/-!
SUPPORT. What a store of scratchpad bytes changes (R171, R219, R257): bytes of memory, words, messages, poison, the guarantees of
tiles and the MOD marks of their slots.
-/
namespace Sys2Proof.Proofs.SpadStores
open Sys2Proof.Machine Sys2Proof.Safety Sys2Proof.Proofs.Canonical
open Sys2Proof.Proofs.Arrays (OnDevice rawWrite_onDevice not_inDram_of_onDevice putCells_get_of_mem mem_cellsAt canonical_mem
  complete_eq_advance)
open Sys2Proof.Proofs.TrapDelivery (foldl_eq_self)
open Sys2Proof.Proofs.Faults (mem_linesOf rdByte_of_lt)
set_option Elab.async false

variable {s t u : State}

/-- From s to t nothing has changed but what such a store may change. -/
structure SpadSide (s t : State) : Prop where
  rest : { t with mem := s.mem, words := s.words, agenda := s.agenda, poison := s.poison, slices := s.slices,
                  cores := s.cores } = s
  cores : ∀ c, { coreAt t c with tslots := (coreAt s c).tslots } = coreAt s c
  slices : ∀ n, { sliceAt t n with tiles := (sliceAt s n).tiles } = sliceAt s n
  canonical : Canonical s → Canonical t

theorem SpadSide.refl (s : State) : SpadSide s s := ⟨rfl, fun _ => rfl, fun _ => rfl, id⟩

theorem SpadSide.trans (h : SpadSide s t) (k : SpadSide t u) : SpadSide s u where
  rest := by
    have hk := congrArg (fun x : State => { x with
      mem := s.mem, words := s.words, agenda := s.agenda, poison := s.poison, slices := s.slices, cores := s.cores }) k.rest
    exact hk.trans h.rest
  cores c := by rw [← h.cores c, ← k.cores c]
  slices n := by rw [← h.slices n, ← k.slices n]
  canonical := k.canonical ∘ h.canonical

theorem SpadSide.ite {p : Prop} [Decidable p] (h : SpadSide s t) (k : SpadSide s u) : SpadSide s (if p then t else u) := by
  split
  · exact h
  · exact k

theorem SpadSide.foldl {α : Type} {f : State → α → State} (h : ∀ s x, Canonical s → SpadSide s (f s x)) (l : List α)
    (hs : Canonical s) : SpadSide s (l.foldl f s) := by
  induction l generalizing s with
  | nil => exact .refl s
  | cons x l ih => exact (h s x hs).trans (ih ((h s x hs).canonical hs))

theorem SpadSide.slots (h : SpadSide s t) : t.slots = s.slots := by
  have hslots := congrArg State.slots h.rest
  exact hslots

theorem SpadSide.cur (h : SpadSide s t) : t.cur = s.cur := by
  have hcur := congrArg State.cur h.rest
  exact hcur

theorem SpadSide.cycle (h : SpadSide s t) : t.cycle = s.cycle := by
  have hcycle := congrArg State.cycle h.rest
  exact hcycle

theorem SpadSide.threadAt (h : SpadSide s t) (p : Nat) : threadAt t p = threadAt s p := by
  unfold Machine.threadAt slotAt
  rw [h.slots]

/-- The debug block shows parts of slots, cores, contexts, cells and slices. -/
theorem debugRead_of_parts (hcycle : t.cycle = s.cycle) (hras : t.ras = s.ras) (hslot : ∀ p, slotAt t p = slotAt s p)
    (hctx : ∀ n, ctxAt t n = ctxAt s n) (hcell : ∀ n, cellAt t n = cellAt s n)
    (hcore : ∀ c, Units.coreShown (coreAt t c) = Units.coreShown (coreAt s c))
    (hslice : ∀ n, (sliceAt t n).rows = (sliceAt s n).rows ∧ (sliceAt t n).replay0 = (sliceAt s n).replay0 ∧
      (sliceAt t n).replay1 = (sliceAt s n).replay1) (o : Nat) : debugRead t o = debugRead s o := by
  simp only [Units.coreShown, Prod.mk.injEq] at hcore
  unfold debugRead lossCount histCount
  simp only [hcycle, hras, hslot, hctx, hcell, hcore, hslice]

/-- A byte afterwards is what the memory afterwards makes of it. -/
theorem SpadSide.bytes (h : SpadSide s t) (a : Nat) : rdByte t a = rdByte { s with mem := t.mem } a := by
  have hrest := h.rest
  have hdram : t.dram = s.dram := by
    have := congrArg State.dram hrest
    exact this
  have hfresh : t.fresh = s.fresh := by
    have := congrArg State.fresh hrest
    exact this
  have hcells : t.cells = s.cells := by
    have := congrArg State.cells hrest
    exact this
  have hras : t.ras = s.ras := by
    have := congrArg State.ras hrest
    exact this
  have hctxs : t.ctxs = s.ctxs := by
    have := congrArg State.ctxs hrest
    exact this
  have hlines : ∀ n, (sliceAt t n).lines = (sliceAt s n).lines := fun n => by rw [← h.slices n]
  have hholds : ∀ l, holdsLine t l = holdsLine { s with mem := t.mem } l := fun l => by
    unfold holdsLine
    rw [hlines]
    rfl
  have hbyte : ∀ x, dramByte t x = dramByte { s with mem := t.mem } x := fun x => by
    unfold dramByte
    rw [hdram]
  have hdebug : ∀ o, debugRead t o = debugRead { s with mem := t.mem } o := by
    refine debugRead_of_parts (s := { s with mem := t.mem }) h.cycle hras (fun p => by unfold slotAt; rw [h.slots])
      (fun n => by unfold ctxAt; rw [hctxs]) (fun n => by unfold cellAt; rw [hcells]) (fun c => ?_) fun n => ?_
    · have hcore := congrArg Units.coreShown (h.cores c)
      exact hcore
    · rw [show sliceAt { s with mem := t.mem } n = sliceAt s n from rfl, ← h.slices n]
      exact ⟨rfl, rfl, rfl⟩
  unfold rdByte
  rw [hfresh, hdebug, hholds, hbyte]

/-! ### The parts of a store -/

theorem spadSide_post (e : Event) (s : State) : SpadSide s (post e s) := ⟨rfl, fun _ => rfl, fun _ => rfl, canonical_post⟩

theorem spadSide_setWord (w : Nat) (x : WordMeta) (s : State) : SpadSide s (setWord s w x) :=
  ⟨rfl, fun _ => rfl, fun _ => rfl, canonical_setWord⟩

theorem spadSide_mapTile (hs : Canonical s) (slice idx : Nat) (f : TileEnt → TileEnt) : SpadSide s (mapTile slice idx f s) := by
  refine ⟨rfl, fun _ => rfl, fun n => ?_, fun h => canonical_mapTile h⟩
  obtain ⟨_, _, _, _, _, _, _, hslices, _⟩ := hs
  have hget : sliceAt (mapTile slice idx f s) n = _ := Tab.get_put slice n _ hslices
  rw [hget]
  split
  · subst_vars; rfl
  · rfl

theorem spadSide_setCore (hs : Canonical s) (c : Nat) {x : Core} (h : { x with tslots := (coreAt s c).tslots } = coreAt s c) :
    SpadSide s (setCore s c x) := by
  refine ⟨rfl, fun e => ?_, fun _ => rfl, fun hc => canonical_setCore hc c x⟩
  rw [coreAt_setCore hs]
  split
  · subst_vars; exact h
  · rfl

theorem spadSide_reportUse (hs : Canonical s) (core i : Nat) : SpadSide s (reportUse core i s) := by
  unfold reportUse
  dsimp only
  split
  · exact .ite (spadSide_mapTile hs ..) (.refl s)
  · exact .refl s

theorem spadSide_usePlace (hs : Canonical s) (pa size : Nat) : SpadSide s (usePlace pa size s) := by
  unfold usePlace
  refine .ite ?_ (.refl s)
  split
  · exact .ite (spadSide_reportUse hs ..) (.refl s)
  · exact .refl s

/-- A use of a place changes the tiles of slices only. -/
theorem usePlace_eq (pa size : Nat) (s : State) : ∃ slices, usePlace pa size s = { s with slices := slices } := by
  unfold usePlace reportUse
  split
  · split
    · split
      · dsimp only
        split
        · split <;> exact ⟨_, rfl⟩
        · exact ⟨_, rfl⟩
      · exact ⟨_, rfl⟩
    · exact ⟨_, rfl⟩
  · exact ⟨_, rfl⟩

theorem usePlace_mem (pa size : Nat) (s : State) : (usePlace pa size s).mem = s.mem := by
  obtain ⟨slices, h⟩ := usePlace_eq pa size s
  rw [h]

theorem spadSide_touchWord (hs : Canonical s) (home w : Nat) : SpadSide s (touchWord home w s) := by
  unfold touchWord
  dsimp only
  refine .ite (.refl s) ?_
  have hset := spadSide_setWord w { wordAt s w with mons := [], w := false, wva := 0 } s
  have hmons := hset.trans (.foldl (f := fun s (x : WordMon) => sendWake x.th (hwMsg 3 (fld x.va 0 56)) s)
    (fun s x _ => spadSide_post _ s) (wordAt s w).mons (hset.canonical hs))
  exact .ite (hmons.trans (spadSide_post _ _)) hmons

theorem spadSide_markMod (hs : Canonical s) (core off : Nat) : SpadSide s (markMod core off s) := by
  unfold markMod
  exact .ite (spadSide_setCore hs core rfl) (.refl s)

theorem spadSide_noteRegions (hs : Canonical s) (cs : List (Nat × Byte)) : SpadSide s (noteRegions cs s) := by
  unfold noteRegions
  refine .ite ?_ (.refl s)
  refine .foldl (fun s q hs => .foldl (fun s va _ => ?_) _ hs) _ hs
  exact .ite (.refl s) (spadSide_post _ s)

/-! ### The memory after a write at its homes -/

theorem foldl_mem {α : Type} {f : State → α → State} (h : ∀ s x, (f s x).mem = s.mem) (l : List α) (s : State) :
    (l.foldl f s).mem = s.mem := by
  induction l generalizing s with
  | nil => rfl
  | cons x l ih => exact (ih _).trans (h s x)

theorem ite_mem {p : Prop} [Decidable p] {m : Memory} (h : t.mem = m) (k : u.mem = m) : (if p then t else u).mem = m := by
  split
  · exact h
  · exact k

theorem retryFills_mem (s : State) : (retryFills s).mem = s.mem := by
  unfold retryFills
  refine foldl_mem (fun s q => foldl_mem (fun s va => ?_) q.2.waiting s) s.sqes s
  exact ite_mem rfl rfl

theorem noteRegions_mem (cs : List (Nat × Byte)) (s : State) : (noteRegions cs s).mem = s.mem := ite_mem (retryFills_mem s) rfl

theorem sendInv_mem (home line : Nat) (s : State) (u : Nat) : (sendInv home line s u).mem = s.mem := ite_mem rfl rfl

theorem invalidateLine_mem (home line : Nat) (keep : Option Nat) (w : Option Thr) (s : State) :
    (invalidateLine home line keep w s).mem = s.mem := ite_mem rfl (foldl_mem (sendInv_mem home line) _ _)

theorem markStale_mem (home line : Nat) (s : State) : (markStale home line s).mem = s.mem := by
  unfold markStale
  split
  · exact ite_mem rfl rfl
  · rfl

theorem stalePeer_mem (line : Nat) (s : State) : (stalePeer line s).mem = s.mem := by
  unfold stalePeer
  exact foldl_mem (fun s x => markStale_mem x.1 line s) s.slices s

theorem touchWord_mem (home w : Nat) (s : State) : (touchWord home w s).mem = s.mem := by
  have hmons := foldl_mem (f := fun s (x : WordMon) => sendWake x.th (hwMsg 3 (fld x.va 0 56)) s) (fun _ _ => rfl) (wordAt s w).mons
    (setWord s w { wordAt s w with mons := [], w := false, wva := 0 })
  exact ite_mem rfl (ite_mem hmons hmons)

theorem performWrite_mem (cs : List (Nat × Byte)) (keep : Option Nat) (w : Option Thr) (s : State) :
    (performWrite cs keep w s).mem = (rawWrite s cs).mem := by
  have hlines := foldl_mem (f := fun s l =>
      if inDram (l * 32) then markStale (homePlace (l * 32)) l (invalidateLine (homePlace (l * 32)) l keep w s)
      else if inPeer (l * 32) then stalePeer l s else s)
    (fun s l => ite_mem ((markStale_mem ..).trans (invalidateLine_mem ..))
      (ite_mem (stalePeer_mem l s) rfl)) (linesOf cs) (noteRegions cs (rawWrite s cs))
  have hwords := fun s => foldl_mem (f := fun s w => touchWord (homePlace (w * 8)) w s) (fun s w => touchWord_mem _ w s) (wordsOf cs) s
  have hmod := fun s => foldl_mem (f := fun s (c : Nat × Byte) =>
      if isSpad c.1 then markMod (spadCore c.1) ((c.1 - spadBase) % spadSize) s else s)
    (fun s _ => ite_mem (ite_mem rfl rfl) rfl) cs s
  exact (hmod _).trans ((hwords _).trans (hlines.trans (noteRegions_mem ..)))

/-! ### A store of scratchpad bytes -/

section
variable {cs : List (Nat × Byte)}

/-- The places of the scratchpads and what lies above them on the device. -/
def OnSpad (a : Nat) : Prop := spadBase ≤ a ∧ a < altBase

theorem OnSpad.onDevice {a : Nat} (h : OnSpad a) : OnDevice a := ⟨Nat.le_trans (by decide) h.1, h.2⟩

theorem not_inPeer_of_onSpad {a : Nat} (h : OnSpad a) : inPeer (a / 32 * 32) = false := by
  have hlt : a / 32 * 32 < peerBase := (Nat.div_mul_le_self a 32).trans_lt (h.2.trans (by decide))
  unfold inPeer
  rw [decide_eq_false (Nat.not_le.2 hlt), Bool.false_and]

theorem spadSide_performWrite (hs : Canonical s) (hcs : ∀ c ∈ cs, OnSpad c.1) (keep : Option Nat) (w : Option Thr) :
    SpadSide s (performWrite cs keep w s) := by
  obtain ⟨poison, hraw⟩ := rawWrite_onDevice (s := s) fun c hc => (hcs c hc).onDevice
  have hwrite : SpadSide s (rawWrite s cs) := by
    refine ⟨?_, fun _ => ?_, fun _ => ?_, fun h => canonical_rawWrite h⟩ <;> rw [hraw] <;> rfl
  have hnote := hwrite.trans (spadSide_noteRegions (hwrite.canonical hs) cs)
  unfold performWrite
  dsimp only
  have hlines : (linesOf cs).foldl (fun s l =>
      if inDram (l * 32) then markStale (homePlace (l * 32)) l (invalidateLine (homePlace (l * 32)) l keep w s)
      else if inPeer (l * 32) then stalePeer l s else s) (noteRegions cs (rawWrite s cs)) = noteRegions cs (rawWrite s cs) := by
    refine foldl_eq_self fun l hl => ?_
    obtain ⟨c, hc, rfl⟩ := mem_linesOf hl
    rw [not_inDram_of_onDevice (hcs c hc).onDevice, not_inPeer_of_onSpad (hcs c hc)]
    rfl
  rw [hlines]
  have hwords := hnote.trans (.foldl (f := fun s w => touchWord (homePlace (w * 8)) w s) (fun s w hs => spadSide_touchWord hs _ w)
    (wordsOf cs) (hnote.canonical hs))
  exact hwords.trans (.foldl (fun s c hs => .ite (spadSide_markMod hs ..) (.refl s)) cs (hwords.canonical hs))

theorem performWrite_mem_onSpad (hcs : ∀ c ∈ cs, OnSpad c.1) (keep : Option Nat) (w : Option Thr) :
    (performWrite cs keep w s).mem = putCells s.mem cs := by
  obtain ⟨poison, hraw⟩ := rawWrite_onDevice (s := s) fun c hc => (hcs c hc).onDevice
  rw [performWrite_mem, hraw]

/-- The value of consecutive bytes after they have been written. -/
theorem get_putCells_cellsAt {m : Memory} (hm : m.wf = true) (pa x : Nat) (bs : List Byte) :
    Tab.get 0 (putCells m (cellsAt pa bs)) x = if pa ≤ x ∧ x < pa + bs.length then bs[x - pa]?.getD 0 else Tab.get 0 m x := by
  split
  next h =>
    have hlt : x - pa < bs.length := by omega
    rw [List.getElem?_eq_getElem hlt, Option.getD_some]
    exact putCells_get_of_mem hm (mem_cellsAt.2 ⟨h.1, List.getElem?_eq_getElem hlt⟩) fun b hb => by
      have hget := (mem_cellsAt.1 hb).2
      rw [List.getElem?_eq_getElem hlt] at hget
      exact (Option.some.inj hget).symm
  next h => exact putCells_get_other _ _ hm fun c hc hcx => h (hcx ▸ cellsAt_mem hc)

/-- Scratchpad bytes are no part of what any other place shows. -/
theorem rdByte_putCells_onSpad (hcs : ∀ c ∈ cs, OnSpad c.1) (hs : s.mem.wf = true) {x : Nat} (hx : altBase ≤ x) :
    rdByte { s with mem := putCells s.mem cs } x = rdByte s x := by
  have hframe : ∀ y, inAlt y = true → framePa y < spadBase := fun y hy => by
    unfold framePa
    rw [if_pos hy]
    exact (Nat.mod_lt _ (by decide)).trans (by decide)
  have hother : ∀ y, (y < spadBase ∨ altBase ≤ y) → Tab.get 0 (putCells s.mem cs) y = Tab.get 0 s.mem y := fun y hy =>
    putCells_get_other _ _ hs fun c hc hcy => by
      obtain ⟨hlo, hhi⟩ := hcs c hc
      omega
  have hdebug : ∀ o, debugRead { s with mem := putCells s.mem cs } o = debugRead s o :=
    debugRead_of_parts rfl rfl (fun _ => rfl) (fun _ => rfl) (fun _ => rfl) (fun _ => rfl) fun _ => ⟨rfl, rfl, rfl⟩
  unfold rdByte
  rw [if_neg (Nat.not_lt.2 hx), if_neg (Nat.not_lt.2 hx), hdebug]
  split
  next hp =>
    have halt : inAlt x = true := by
      unfold inAlt
      rw [decide_eq_true hx, decide_eq_true hp]
      rfl
    have hdram : dramByte { s with mem := putCells s.mem cs } (framePa x) = dramByte s (framePa x) := by
      unfold dramByte
      dsimp only
      rw [hother _ (.inl (hframe x halt))]
    rw [hdram]
    dsimp only
    rw [hother x (.inr hx)]
    rfl
  · rfl

theorem rdByte_cellsAt_onSpad (hs : s.mem.wf = true) {pa : Nat} {bs : List Byte} (hpa : spadBase ≤ pa) (hend : pa + bs.length ≤ altBase)
    (x : Nat) : rdByte { s with mem := putCells s.mem (cellsAt pa bs) } x =
      if pa ≤ x ∧ x < pa + bs.length then bs[x - pa]?.getD 0 else rdByte s x := by
  have hcs : ∀ c ∈ cellsAt pa bs, OnSpad c.1 := fun c hc => by
    have := cellsAt_mem hc
    exact ⟨by omega, by omega⟩
  rcases Nat.lt_or_ge x altBase with hx | hx
  · rw [rdByte_of_lt _ hx, rdByte_of_lt _ hx, get_putCells_cellsAt hs]
  · rw [rdByte_putCells_onSpad hcs hs hx, if_neg (by omega)]

/-- The bytes of a number. -/
theorem getElem?_leBytes {n i : Nat} (v : Nat) (hi : i < n) : (leBytes n v)[i]?.getD 0 = byteOf v i := by
  induction n generalizing v i with
  | zero => omega
  | succ n ih =>
    cases i with
    | zero =>
      unfold byteOf
      rw [pow_zero, Nat.div_one]
      simp [leBytes]
    | succ i =>
      have hstep : byteOf v (i + 1) = byteOf (v / 256) i := by
        unfold byteOf
        rw [Nat.pow_succ', Nat.div_div_eq_div_mul]
      rw [hstep, ← ih (v / 256) (by omega)]
      rfl

end

end Sys2Proof.Proofs.SpadStores
end

section
/-!
PROOF. Stores at their core (O9): a store to the local scratchpad, the wait for a store's check, and the check's reply.
-/
namespace Sys2Proof.Proofs.Stores
open Sys2Proof.Machine Sys2Proof.Safety Sys2Proof.Proofs.SpadStores
open Sys2Proof.Proofs.Arrays (complete_written canonical_mem)
open Sys2Proof.Proofs.Reductions (regs_of_regsRead)
open Sys2Proof.Proofs.Canonical (canonical_usePlace canonical_commit)
open Sys2Proof.Proofs.Units (popsTaken_regs takePops_regs inFlight_of)
open Sys2Proof.Proofs.Faults (length_leBytes)
set_option Elab.async false

variable {s u : State} {th : Thread}

/-! ### Operands and addresses -/

/-- R171: the offset of a load or store counts accesses of its size. -/
theorem sextNat_offset (off : BitVec 8) (k : Nat) : sextNat (off.toNat * 2 ^ k) (8 + k) = BitVec.ofInt 64 (off.toInt * (2 ^ k : Nat)) := by
  have hall : 2 ^ (8 + k) = 256 * 2 ^ k := by rw [Nat.pow_add]
  have hhalf : 2 ^ (8 + k - 1) = 128 * 2 ^ k := by rw [show 8 + k - 1 = 7 + k by omega, Nat.pow_add]
  have hlt : off.toNat * 2 ^ k < 2 ^ (8 + k) := by
    rw [hall]
    exact Nat.mul_lt_mul_of_pos_right off.isLt (by positivity)
  have hsmall : off.toNat * 2 ^ k < 128 * 2 ^ k ↔ off.toNat < 128 := Nat.mul_lt_mul_right (by positivity)
  unfold sextNat
  rw [Nat.mod_eq_of_lt hlt, if_neg (by omega), hhalf, BitVec.toInt_eq_toNat_cond]
  simp only [hsmall]
  split
  · rw [if_pos (by omega), ← BitVec.ofInt_natCast]
    push_cast
    rfl
  · have hint : (2 : Int) ^ (8 + k) = 256 * 2 ^ k := by rw [pow_add]; rfl
    rw [if_neg (by omega), hint]
    push_cast
    congr 1
    ring

/-- Plain sources are read and left as they are (R37, R154). -/
theorem commit_plain (hc : Canonical s) (ht : threadAt s s.cur = some th) (rs : List (BitVec 5)) (hrs : ∀ r ∈ rs, ReadyNow th (srcP r)) :
    Quiet s (commit (rs.map srcP) s) ∧ Canonical (commit (rs.map srcP) s) ∧ threadAt (commit (rs.map srcP) s) s.cur = some th := by
  have hready : ∀ x ∈ rs.map srcP, ReadyNow th x := by simpa using hrs
  obtain ⟨hq, hcan, hth⟩ := commit_regs hc ht fun x hx => (hready x hx).1
  have hregs := regs_of_regsRead (th := th) (th' := Safety.takeRegs th (rs.map srcP) (rs.map srcP) th) rs fun r hr => afterRead_takeRegs hready hr
  have hsame := takeRegs_regs th (rs.map srcP) (rs.map srcP) th
  rw [← hregs] at hsame
  rw [show Safety.takeRegs th (rs.map srcP) (rs.map srcP) th = th from hsame] at hth
  exact ⟨hq, hcan, hth⟩

/-! ### A store to the local scratchpad -/

/-- The state u, with what a store may change put back as in s. -/
def storeRest (s u : State) : State :=
  { u with mem := s.mem, words := s.words, agenda := s.agenda, poison := s.poison, slices := s.slices, slots := s.slots,
           cores := s.cores, ctxs := s.ctxs }

/-- What an instruction that stores scratchpad bytes and completes leaves: the parts a store may change, and its thread. -/
theorem only_of_spadSide {v t : State} (hq : Quiet s u) (hs : SpadSide u v) (ht : Quiet v t) :
    Only s t (fun old new => { new with tslots := old.tslots })
      (fun old new => { new with mem := old.mem, words := old.words, agenda := old.agenda, poison := old.poison,
                                 slices := old.slices }) := by
  have hslot : ∀ p, slotAt v p = slotAt u p := fun p => by unfold slotAt; rw [hs.slots]
  have hctx : ∀ n, ctxAt v n = ctxAt u n := fun n => by
    have hctxs := congrArg State.ctxs hs.rest
    unfold ctxAt
    rw [show v.ctxs = u.ctxs from hctxs]
  have hcur := hs.cur.trans hq.cur
  obtain ⟨t1, t2, t3, t4, t5, _⟩ := ht
  rw [hcur] at t1 t2
  refine ⟨fun p hp => (t1 p hp).trans ((hslot p).trans (hq.slots p hp)), ?_, fun c => ?_, fun n => ?_, ?_⟩
  · rw [← hq.own, ← hslot, ← t2]
  · rw [← hq.cores c, ← hs.cores c, ← t3 c]
  · rw [← hq.ctxs n, ← hctx, ← t4 n]
  · have h1 := congrArg (storeRest s) t5
    have h2 := congrArg (storeRest s) hs.rest
    have h3 := congrArg (storeRest s) hq.rest
    exact h1.trans (h2.trans h3)

theorem quiet_complete {tu : Thread} (he : Executing s th) (hu : threadAt u u.cur = some tu) (hf : tu.form = .ready) :
    Quiet u (complete s u) := by
  rw [Arrays.complete_eq_advance he hu hf]
  exact (Units.advance_of (Quiet.refl u) hu fun tr h => by rw [hf] at h; cases h).1

/-- R171, R225: an instruction with plain sources that writes bytes of its core's scratchpad and completes. -/
theorem localWrite_completes (hc : Canonical s) (he : Executing s th) {rs : List (BitVec 5)} (hrs : ∀ r ∈ rs, ReadyNow th (srcP r))
    {pa n : Nat} {bs : List Byte} (hpa : spadBase ≤ pa) (hend : pa + bs.length ≤ altBase) (w : Option Thr) :
    let t := complete s (performWrite (cellsAt pa bs) none w (usePlace pa n (commit (rs.map srcP) s)))
    Becomes s t (passed s th) ∧
    (∀ x, rdByte t x = if pa ≤ x ∧ x < pa + bs.length then bs[x - pa]?.getD 0 else rdByte s x) ∧
    Only s t (fun old new => { new with tslots := old.tslots })
      (fun old new => { new with mem := old.mem, words := old.words, agenda := old.agenda, poison := old.poison,
                                 slices := old.slices }) := by
  intro t
  obtain ⟨hq, hcan, hth⟩ := commit_plain hc he.1 rs hrs
  have hcs : ∀ c ∈ cellsAt pa bs, OnSpad c.1 := fun c hcell => by
    have := cellsAt_mem hcell
    exact ⟨by omega, by omega⟩
  have huse := spadSide_usePlace hcan pa n
  have hside := huse.trans (spadSide_performWrite (huse.canonical hcan) hcs none w)
  have hmem : (performWrite (cellsAt pa bs) none w (usePlace pa n (commit (rs.map srcP) s))).mem = putCells s.mem (cellsAt pa bs) := by
    have hquiet := congrArg State.mem hq.rest
    rw [performWrite_mem_onSpad hcs, usePlace_mem, show (commit (rs.map srcP) s).mem = s.mem from hquiet]
  have hthread := (hside.threadAt s.cur).trans hth
  obtain ⟨hb, hbytes⟩ := complete_written he (hside.cur.trans hq.cur) (hside.cycle.trans hq.cycle) hthread he.2.1
  rw [← hq.cur, ← hside.cur] at hthread
  refine ⟨hb, fun x => ?_, only_of_spadSide hq hside (quiet_complete he hthread he.2.1)⟩
  have hsame := congrArg State.mem hq.rest
  rw [hbytes, hside.bytes, hmem, ← show (commit (rs.map srcP) s).mem = s.mem from hsame,
    rdByte_cellsAt_onSpad (canonical_mem hcan) hpa hend x, hq.bytes]

/-- A write whose page is noted dirty sets no bit (R436). -/
theorem setDirty_of_noted {va : Nat} (h : DirtyNoted s va) : setDirty va s = s := by
  unfold setDirty
  rcases h with ⟨x, hx, hd⟩ | h
  · rw [hx]
    simp [hd]
  · have hne : (region (w64 va) != .paged) = true := bne_iff_ne.2 h
    split
    · rw [hne, Bool.or_true, if_pos rfl]
    · exact if_neg h

theorem dirtyNoted_of_quiet (h : Quiet s u) {va : Nat} (hd : DirtyNoted s va) : DirtyNoted u va := by
  have hslices := congrArg State.slices h.rest
  have hfind : xlatFind u va = xlatFind s va := by
    unfold xlatFind sliceAt
    rw [show u.slices = s.slices from hslices]
  unfold DirtyNoted
  rwa [hfind]

/-- One element is one write (R201). -/
theorem coalesce_one (e : Elem) (bs : List Byte) : coalesce [(e, bs)] = [(e.va, cellsAt e.pa bs)] := rfl

theorem head_cellsAt {bs : List Byte} (h : bs ≠ []) (pa : Nat) : ((cellsAt pa bs).head?.map (fun c => c.1)).getD 0 = pa := by
  cases bs with
  | nil => exact absurd rfl h
  | cons b bs => rfl

/-- A store goes to the checks of its one access, and on where they pass (R104, R171). -/
theorem execSt_go {d a : BitVec 5} {sz : BitVec 2} {sc : BitVec 3} {mo : BitVec 2} {off : BitVec 8} {e : Elem} (he : Executing s th)
    (hacq : th.acqOut = 0) (ha : ReadyNow th (srcP a)) (hd : ReadyNow th (srcP d))
    (hplan : plan .write true true [(0, effAddr (val th a) off (2 ^ sz.toNat), 2 ^ sz.toNat)] s = .go [e])
    (hrel : mo ≠ 0 → releasedAt s s.cur th = true) :
    exec (.st d a sz sc mo off) s =
      .next (doStore [(e, leBytes (2 ^ sz.toNat) (val th d).toNat)] (mo == 3) ([a, d].map srcP) s) := by
  change storeInstr d a sz sc mo off s = _
  unfold storeInstr
  refine (withOps_ok (operands_none he.1 (ss := [srcP a, srcP d]) (by simp [ha, hd])) _).trans (congrArg Host.Outcome.next ?_)
  unfold acqGate
  rw [me_of he.1, if_neg (not_not.2 hacq)]
  dsimp only
  rw [show arg _ 0 = val th a from rfl, show arg _ 1 = val th d from rfl, sextNat_offset]
  rw [show val th a + BitVec.ofInt 64 _ = effAddr (val th a) off (2 ^ sz.toNat) from rfl, hplan]
  unfold orderedStore released
  dsimp only
  rw [me_of he.1]
  split
  · rfl
  · rw [if_pos (hrel ‹_›)]
    rfl

theorem isLocal_iff (s : State) (pa : Nat) : (isSpad pa && spadCore pa == myCore s) = true ↔ Local s pa := by
  rw [Bool.and_eq_true, beq_iff_eq]
  exact Iff.rfl

theorem spadBase_le_of_isSpad {pa : Nat} (h : isSpad pa = true) : spadBase ≤ pa ∧ pa < accBase := by
  unfold isSpad at h
  rwa [Bool.and_eq_true, decide_eq_true_eq, decide_eq_true_eq] at h

theorem queueStores_local {e : Elem} {bs : List Byte} (hbs : bs ≠ []) (hl : Local u e.pa) (hd : DirtyNoted u e.va.toNat) :
    queueStores [(e, bs)] u = performWrite (cellsAt e.pa bs) none (some (myThr (usePlace e.pa bs.length u))) (usePlace e.pa bs.length u) := by
  have hcur : myCore (usePlace e.pa bs.length u) = u.cur / 16 := by
    obtain ⟨slices, h⟩ := usePlace_eq e.pa bs.length u
    rw [h]
    rfl
  unfold queueStores
  rw [coalesce_one, List.foldl_cons, List.foldl_nil, List.foldl_cons, List.foldl_nil, setDirty_of_noted hd]
  dsimp only
  rw [head_cellsAt hbs, hcur]
  exact if_pos hl

theorem leBytes_ne_nil {n : Nat} (hn : 0 < n) (v : Nat) : leBytes n v ≠ [] := by
  intro h
  have := length_leBytes n v
  rw [h] at this
  exact absurd this (by simpa using hn.ne)

/-- R100, R171: a store to the local scratchpad is performed at issue. -/
theorem st_local {d a : BitVec 5} {sz : BitVec 2} {sc : BitVec 3} {mo : BitVec 2} {off : BitVec 8} {e : Elem} (hc : Canonical s)
    (he : Executing s th) (hacq : th.acqOut = 0) (ha : ReadyNow th (srcP a)) (hd : ReadyNow th (srcP d))
    (hplan : plan .write true true [(0, effAddr (val th a) off (2 ^ sz.toNat), 2 ^ sz.toNat)] s = .go [e]) (hl : Local s e.pa)
    (hrel : mo ≠ 0 → releasedAt s s.cur th = true) (hdirty : DirtyNoted s e.va.toNat) :
    ∃ t, exec (.st d a sz sc mo off) s = .next t ∧ Becomes s t (passed s th) ∧
      StoresBytes s t e.pa (2 ^ sz.toNat) (val th d).toNat ∧
      Only s t (fun old new => { new with tslots := old.tslots })
        (fun old new => { new with mem := old.mem, words := old.words, agenda := old.agenda, poison := old.poison,
                                   slices := old.slices }) := by
  have hrs : ∀ r ∈ [a, d], ReadyNow th (srcP r) := by simp [ha, hd]
  obtain ⟨hq, -, -⟩ := commit_plain hc he.1 [a, d] hrs
  have hsize : 2 ^ sz.toNat ≤ 8 := Nat.pow_le_pow_right (by decide) (by have := sz.isLt; omega : sz.toNat ≤ 3)
  obtain ⟨hlo, hhi⟩ := spadBase_le_of_isSpad hl.1
  have hend : e.pa + (leBytes (2 ^ sz.toNat) (val th d).toNat).length ≤ altBase := by
    rw [length_leBytes]
    have hroom : accBase + 8 ≤ altBase := by decide
    omega
  have hlocal : Local (commit ([a, d].map srcP) s) e.pa := ⟨hl.1, by rw [hq.cur]; exact hl.2⟩
  have hstore : doStore [(e, leBytes (2 ^ sz.toNat) (val th d).toNat)] (mo == 3) ([a, d].map srcP) s =
      complete s (queueStores [(e, leBytes (2 ^ sz.toNat) (val th d).toNat)] (commit ([a, d].map srcP) s)) := by
    unfold doStore
    rw [List.all_cons, List.all_nil, Bool.and_true, if_pos ((isLocal_iff s e.pa).2 hl)]
  rw [queueStores_local (leBytes_ne_nil (by positivity) _) hlocal (dirtyNoted_of_quiet hq hdirty)] at hstore
  obtain ⟨hb, hbytes, honly⟩ := localWrite_completes hc he hrs (n := (leBytes (2 ^ sz.toNat) (val th d).toNat).length) hlo hend
    (some (myThr (usePlace e.pa (leBytes (2 ^ sz.toNat) (val th d).toNat).length (commit ([a, d].map srcP) s))))
  refine ⟨_, (execSt_go he hacq ha hd hplan hrel).trans (congrArg Host.Outcome.next hstore), hb, fun x => ?_, honly⟩
  rw [hbytes, length_leBytes]
  split
  · exact getElem?_leBytes _ (by omega)
  · rfl

/-- R171: any other store waits in flight for the reply to its check. -/
theorem st_checks {d a : BitVec 5} {sz : BitVec 2} {sc : BitVec 3} {mo : BitVec 2} {off : BitVec 8} {e : Elem}
    (he : Executing s th) (hacq : th.acqOut = 0) (ha : ReadyNow th (srcP a)) (hd : ReadyNow th (srcP d))
    (hplan : plan .write true true [(0, effAddr (val th a) off (2 ^ sz.toNat), 2 ^ sz.toNat)] s = .go [e]) (hl : ¬ Local s e.pa)
    (hrel : mo ≠ 0 → releasedAt s s.cur th = true) (hc : Canonical s) :
    ∃ t, exec (.st d a sz sc mo off) s = .next t ∧ Quiet s { t with agenda := s.agenda } ∧
      Becomes s t { th with form := .inFlight (.storeCheck [(e, leBytes (2 ^ sz.toNat) (val th d).toNat)] (mo == 3) []) } ∧
      t.agenda = s.agenda ++ [⟨.storeCheckReply (named_ s th), none⟩] ∧ ∀ x, rdByte t x = rdByte s x := by
  have hregs : ∀ x ∈ [a, d].map srcP, x.r < 28 := by simp [ha.1, hd.1]
  have hstore : doStore [(e, leBytes (2 ^ sz.toNat) (val th d).toNat)] (mo == 3) ([a, d].map srcP) s =
      post (.storeCheckReply (named_ s th))
        (inFlight (.storeCheck [(e, leBytes (2 ^ sz.toNat) (val th d).toNat)] (mo == 3) []) (unparkQueues s)) := by
    have hthr : myThr s = named_ s th := by
      unfold myThr
      rw [me_of he.1]
      rfl
    unfold doStore
    rw [List.all_cons, List.all_nil, Bool.and_true, if_neg (mt (isLocal_iff s e.pa).1 hl), popsTaken_regs hregs, takePops_regs hregs, hthr]
  have hth : threadAt (unparkQueues s) s.cur = some th := by rw [threadAt_unparkQueues]; exact he.1
  obtain ⟨hq, hform⟩ := inFlight_of (quiet_unparkQueues hc) hth
    (.storeCheck [(e, leBytes (2 ^ sz.toNat) (val th d).toNat)] (mo == 3) [])
  refine ⟨_, (execSt_go he hacq ha hd hplan hrel).trans (congrArg Host.Outcome.next hstore), ?_, hform, ?_, fun x => ?_⟩
  · have hsame := congrArg State.agenda hq.rest
    generalize inFlight _ (unparkQueues s) = v at hq hsame ⊢
    rwa [show { post (.storeCheckReply (named_ s th)) v with agenda := s.agenda } = v by
      rw [← show v.agenda = s.agenda from hsame]; rfl]
  · have hsame := congrArg State.agenda hq.rest
    exact congrArg (· ++ _) hsame
  · exact (Raising.rdByte_agenda _ _ x).trans (hq.bytes x)

end Sys2Proof.Proofs.Stores
end

section
/-!
PROOF. The store queue (O9): a store whose check is answered enters it and is sent when it is its thread's oldest, and the
acknowledgement takes it off (R100, R104).
-/
namespace Sys2Proof.Proofs.StoreQueue
open Sys2Proof.Machine Sys2Proof.Safety Sys2Proof.Proofs.Units
open Sys2Proof.Proofs.Stores (setDirty_of_noted coalesce_one head_cellsAt)
open Sys2Proof.Proofs.Canonical (canonical_patchL1)
open Sys2Proof.Proofs.Faults (taken_now)
open Sys2Proof.Proofs.Queues (coreAt_setCore_self)
set_option Elab.async false

variable {s u : State} {th : Thread} {core : Nat}

/-! ### The queue is drained -/

/-- What the store queue of a core, its copies and its fills may become, and the messages. -/
def keepStores (old new : Core) : Core := { new with sq := old.sq, sqId := old.sqId, l1 := old.l1, fills := old.fills }
def keepAgenda (old new : State) : State := { new with agenda := old.agenda }

theorem restores_stores : Restores keepStores keepAgenda :=
  ⟨fun _ => rfl, fun _ _ _ => rfl, fun _ _ => rfl, fun _ => rfl, fun _ _ _ => rfl, fun _ _ => rfl⟩

/-- The entry is its thread's oldest and may be sent (R100, R121). -/
def sendable (s : State) (core : Nat) (e : SqEnt) : Bool :=
  e.rel.isNone && (!e.held || (ctxAt s e.th.ctx).st == .stopping || (ctxAt s e.th.ctx).st == .killing) &&
    (((coreAt s core).sq.find? (fun x => x.th.tid == e.th.tid && x.th.ctx == e.th.ctx)).map (fun x => x.id) == some e.id)

/-- An entry after its queue is drained. -/
def afterDrain (s : State) (core : Nat) (e : SqEnt) : SqEnt := if sendable s core e then { e with sent := true } else e

/-- The message that carries an entry to its home. -/
def sendOf (core : Nat) (e : SqEnt) : Flight := ⟨.homeWrite (e.req.getD (.store core e.id)), some (core, homeUnit e.home)⟩

theorem foldl_postOrd (l : List SqEnt) (s : State) :
    l.foldl (fun s e => postOrd core (homeUnit e.home) (.homeWrite (e.req.getD (.store core e.id))) s) s =
      { s with agenda := s.agenda ++ l.map (sendOf core) } := by
  induction l generalizing s with
  | nil => simp
  | cons e l ih =>
    rw [List.foldl_cons, ih, List.map_cons, ← List.singleton_append, ← List.append_assoc]
    rfl

theorem drain_frame (hc : Canonical s) (core : Nat) :
    Only s (drain core s) keepStores keepAgenda ∧ Canonical (drain core s) ∧ (drain core s).slots = s.slots ∧
    (coreAt (drain core s) core).sq = (coreAt s core).sq.map (afterDrain s core) ∧
    ∀ e ∈ (coreAt s core).sq, e.sent = false → sendable s core e = true → sendOf core e ∈ (drain core s).agenda := by
  have hdrain : drain core s = { (if (coreAt s core).sq.filter (fun e => !e.sent && sendable s core e) = [] then s
      else setCore s core { coreAt s core with sq := (coreAt s core).sq.map (afterDrain s core) }) with
      agenda := s.agenda ++ ((coreAt s core).sq.filter (fun e => !e.sent && sendable s core e)).map (sendOf core) } := by
    refine (foldl_postOrd _ _).trans ?_
    unfold afterDrain sendable
    split <;> rfl
  have hsends : ∀ e ∈ (coreAt s core).sq, e.sent = false → sendable s core e = true → sendOf core e ∈ (drain core s).agenda := by
    intro e he hsent hready
    rw [hdrain]
    refine List.mem_append_right _ (List.mem_map_of_mem (List.mem_filter.2 ⟨he, ?_⟩))
    rw [hsent, hready]
    rfl
  refine ⟨?_, Canonical.canonical_drain hc, ?_, ?_, hsends⟩ <;> rw [hdrain]
  · split
    · exact only_of_back restores_stores rfl rfl rfl rfl
    · refine only_trans restores_stores (only_setCore restores_stores hc core ?_) (only_of_back restores_stores rfl rfl rfl rfl)
      rfl
  · split <;> rfl
  · split
    next hnone =>
      have hsame : (coreAt s core).sq.map (afterDrain s core) = (coreAt s core).sq := by
        refine (List.map_congr_left fun e he => ?_).trans (List.map_id _)
        have hsent := List.filter_eq_nil_iff.1 hnone e he
        unfold afterDrain
        split
        next hready =>
          rw [hready, Bool.and_true, Bool.not_eq_true, Bool.not_eq_false'] at hsent
          rw [id_eq, ← hsent]
        · rfl
      exact hsame.symm
    · exact congrArg Core.sq ((coreAt_setCore hc core core _).trans (if_pos rfl))

/-! ### A checked store enters the queue -/

/-- The entry of a checked store. -/
def storeEntry (s : State) (th : Thread) (e : Elem) (bs : List Byte) : SqEnt :=
  { id := (coreAt s (s.cur / 16)).sqId, th := named_ s th, va := e.va, cells := cellsAt e.pa bs, home := homeOf e.va e.pa }

/-- The store queue has taken an entry, and the core's copy of its line the bytes. -/
def withEntry (s : State) (x : SqEnt) : State :=
  let u := patchL1 (s.cur / 16) x.cells s
  setCore u (s.cur / 16) { coreAt u (s.cur / 16) with sq := (coreAt u (s.cur / 16)).sq ++ [{ x with id := (coreAt u (s.cur / 16)).sqId }], sqId := (coreAt u (s.cur / 16)).sqId + 1 }

theorem patchL1_queue (hc : Canonical s) (core : Nat) (cells : List (Nat × Byte)) :
    (coreAt (patchL1 core cells s) core).sq = (coreAt s core).sq ∧ (coreAt (patchL1 core cells s) core).sqId = (coreAt s core).sqId := by
  unfold patchL1
  dsimp only
  rw [coreAt_setCore_self hc]
  exact ⟨rfl, rfl⟩

theorem withEntry_frame (hc : Canonical s) (x : SqEnt) :
    Only s (withEntry s x) keepStores keepAgenda ∧ Canonical (withEntry s x) ∧ (withEntry s x).slots = s.slots ∧
    (coreAt (withEntry s x) (s.cur / 16)).sq =
      (coreAt s (s.cur / 16)).sq ++ [{ x with id := (coreAt s (s.cur / 16)).sqId }] := by
  have hpatch : Canonical (patchL1 (s.cur / 16) x.cells s) := canonical_patchL1 hc
  obtain ⟨hsq, hid⟩ := patchL1_queue hc (s.cur / 16) x.cells
  refine ⟨?_, canonical_setCore hpatch _ _, rfl, ?_⟩
  · have hfirst : Only s (patchL1 (s.cur / 16) x.cells s) keepStores keepAgenda := only_setCore restores_stores hc (s.cur / 16) rfl
    exact only_trans restores_stores hfirst (only_setCore restores_stores hpatch (s.cur / 16) rfl)
  · rw [← hsq, ← hid]
    exact congrArg Core.sq (coreAt_setCore_self hpatch _ _)

theorem queueStores_one {e : Elem} {bs : List Byte} (hth : threadAt s s.cur = some th) (hbs : bs ≠ [])
    (hpa : isSpad e.pa = false) (hd : DirtyNoted s e.va.toNat) :
    queueStores [(e, bs)] s = drain (s.cur / 16) (withEntry s (storeEntry s th e bs)) := by
  have huse : usePlace e.pa bs.length s = s := by
    unfold usePlace
    rw [hpa]
    rfl
  have hthr : myThr s = named_ s th := by
    unfold myThr
    rw [me_of hth]
    rfl
  unfold queueStores
  rw [coalesce_one, List.foldl_cons, List.foldl_nil, List.foldl_cons, List.foldl_nil, setDirty_of_noted hd]
  dsimp only
  rw [head_cellsAt hbs, huse, hpa, if_neg (by simp), hthr]
  rfl

/-- Where the thread has no earlier entry, the new one is the oldest. -/
theorem sendable_entry {e : Elem} {bs : List Byte} (hc : Canonical s) (h : sqOf s (s.cur / 16) (named_ s th) = []) :
    sendable (withEntry s (storeEntry s th e bs)) (s.cur / 16) (storeEntry s th e bs) = true := by
  have hnone : (coreAt s (s.cur / 16)).sq.find? (fun x => x.th.tid == th.tid && x.th.ctx == th.ctx) = none := by
    rw [List.find?_eq_none]
    exact fun x hx => List.filter_eq_nil_iff.1 h x hx
  unfold sendable
  rw [(withEntry_frame hc _).2.2.2, List.find?_append]
  change (true && (true || _ || _) && _) = true
  rw [show (coreAt s (s.cur / 16)).sq.find? (fun x => x.th.tid == (storeEntry s th e bs).th.tid && x.th.ctx == (storeEntry s th e bs).th.ctx) =
    none from hnone]
  simp [storeEntry]

theorem storeCheckReply_queues {e : Elem} {bs : List Byte} (hn : s.now = none) (hth : threadAt s s.cur = some th)
    (hbs : bs ≠ []) (hpa : e.pa < dramTop) (hpc : th.pc ≠ lastPc) (hform : th.form = .inFlight (.storeCheck [(e, bs)] false []))
    (hd : DirtyNoted s e.va.toNat) :
    Delivers s (.storeCheckReply (named_ s th)) (advance (drain (s.cur / 16) (withEntry s (storeEntry s th e bs)))) := by
  have hspad : isSpad e.pa = false := by
    have htop : dramTop ≤ spadBase := by decide
    unfold isSpad
    rw [decide_eq_false (by omega), Bool.false_and]
  have htop : atTop s = false := by
    unfold atTop
    rw [me_of hth]
    exact beq_false_of_ne hpc
  unfold Delivers
  change execStoreCheckReply { s with now := some (.storeCheckReply (named_ s th)) } = _
  unfold execStoreCheckReply
  dsimp only
  rw [taken_now hn, withThr_of rfl hth, me_of hth, hform]
  simp only [List.findSome?_cons, List.findSome?_nil, hspad, Bool.false_and, Bool.false_eq_true, if_false, htop,
    queueStores_one hth hbs hspad hd]
  rfl

theorem agenda_of_quiet (h : Quiet s u) : u.agenda = s.agenda := by
  have hagenda := congrArg State.agenda h.rest
  exact hagenda

theorem sq_of_quiet (h : Quiet s u) (c : Nat) : (coreAt u c).sq = (coreAt s c).sq := by rw [← h.cores c]

/-- R171, R100: with the reply the store is in the queue, and its thread goes on. -/
theorem storeCheckReply_enters {e : Elem} {bs : List Byte} (hc : Canonical s) (hth : threadAt s s.cur = some th)
    (hform : th.form = .inFlight (.storeCheck [(e, bs)] false [])) :
    let t := advance (drain (s.cur / 16) (withEntry s (storeEntry s th e bs)))
    Becomes s t (passed s th) ∧
    (∃ q ∈ (coreAt t (s.cur / 16)).sq, q.id = (coreAt s (s.cur / 16)).sqId ∧ q.th = named_ s th ∧
      q.cells = cellsAt e.pa bs ∧ q.home = homeOf e.va e.pa ∧ q.req = none ∧
      (sqOf s (s.cur / 16) (named_ s th) = [] → q.sent = true ∧
        ⟨.homeWrite (.store (s.cur / 16) q.id), some (s.cur / 16, homeUnit q.home)⟩ ∈ t.agenda)) ∧
    Only s t keepStores keepAgenda ∧ ∀ x, rdByte t x = rdByte s x := by
  intro t
  obtain ⟨henter, hcan, hslots, hsq⟩ := withEntry_frame hc (storeEntry s th e bs)
  obtain ⟨hdrain, -, hdslots, hdsq, hsends⟩ := drain_frame hcan (s.cur / 16)
  have honly := only_trans restores_stores henter hdrain
  have hcur := cur_of_only restores_stores honly
  have hcycle := cycle_of_only restores_stores honly
  have hmem : storeEntry s th e bs ∈ (coreAt (withEntry s (storeEntry s th e bs)) (s.cur / 16)).sq := by
    rw [hsq]
    exact List.mem_append_right _ (List.mem_singleton_self _)
  have hu : threadAt (drain (s.cur / 16) (withEntry s (storeEntry s th e bs)))
      (drain (s.cur / 16) (withEntry s (storeEntry s th e bs))).cur = some th := by
    rw [hcur, threadAt_congr (hdslots.trans hslots)]
    exact hth
  obtain ⟨hq, hb⟩ := advance_of (Quiet.refl _) hu fun tr htr => by rw [hform] at htr; cases htr
  have hall := only_trans restores_stores honly (only_of_quiet restores_stores hq)
  have hagenda : t.agenda = (drain (s.cur / 16) (withEntry s (storeEntry s th e bs))).agenda := agenda_of_quiet hq
  refine ⟨?_, ⟨afterDrain (withEntry s (storeEntry s th e bs)) (s.cur / 16) (storeEntry s th e bs), ?_, ?_⟩, hall,
    rdByte_of_only restores_stores hall⟩
  · have hpassed : passed (drain (s.cur / 16) (withEntry s (storeEntry s th e bs))) th = passed s th := by
      unfold passed
      rw [hcycle]
    rw [hcur, hpassed] at hb
    exact hb
  · have hkept : (coreAt t (s.cur / 16)).sq = (coreAt (drain (s.cur / 16) (withEntry s (storeEntry s th e bs))) (s.cur / 16)).sq := sq_of_quiet hq _
    rw [hkept, hdsq]
    exact List.mem_map_of_mem hmem
  · unfold afterDrain
    split
    next hready =>
      refine ⟨rfl, rfl, rfl, rfl, rfl, fun _ => ⟨rfl, ?_⟩⟩
      rw [hagenda]
      exact hsends _ hmem rfl hready
    next hready => exact ⟨rfl, rfl, rfl, rfl, rfl, fun hnone => absurd (sendable_entry hc hnone) hready⟩

end Sys2Proof.Proofs.StoreQueue
end

section
/-!
SUPPORT. The store queues stand while the device writes its own structures, and while a tid is given back (R123, R148).
-/
namespace Sys2Proof.Proofs.StoreQueue
open Sys2Proof.Machine Sys2Proof.Safety Sys2Proof.Proofs.Frames
set_option Elab.async false

variable {s t u : State}

/-- The same store queue stands in both. -/
def SameSq (c d : Core) : Prop := d.sq = c.sq

theorem SameSq.refl (c : Core) : SameSq c c := rfl

/-- From s to t no store queue and no slot has changed. -/
structure SqKept (s t : State) : Prop where
  cores : TabKept {} SameSq s.cores t.cores
  slots : t.slots = s.slots

theorem SqKept.of_cores (hc : t.cores = s.cores) (hs : t.slots = s.slots) : SqKept s t where
  cores := by
    rw [hc]
    exact .refl SameSq.refl _
  slots := hs

theorem SqKept.refl (s : State) : SqKept s s := .of_cores rfl rfl

theorem SqKept.trans (h : SqKept s t) (k : SqKept t u) : SqKept s u :=
  ⟨TabKept.trans (R := SameSq) (fun h k => Eq.trans k h) h.cores k.cores, k.slots.trans h.slots⟩

theorem SqKept.ite {p : Prop} [Decidable p] (h : SqKept s t) (k : SqKept s u) : SqKept s (if p then t else u) := by
  split
  · exact h
  · exact k

theorem SqKept.foldl {α : Type} {f : State → α → State} (h : ∀ s x, SqKept s (f s x)) (l : List α) (s : State) :
    SqKept s (l.foldl f s) := by
  induction l generalizing s with
  | nil => exact .refl s
  | cons x l ih => exact (h s x).trans (ih _)

theorem SqKept.sq (h : SqKept s t) (hc : Canonical s) (core : Nat) : (coreAt t core).sq = (coreAt s core).sq := by
  obtain ⟨_, _, _, _, _, hcores, _⟩ := hc
  exact (h.cores hcores).2 core

theorem sqKept_setCore {core : Nat} {x : Core} (h : SameSq (coreAt s core) x) : SqKept s (setCore s core x) :=
  ⟨.put SameSq.refl h, rfl⟩

theorem sqKept_of_homeWrite (h : HomeWrite s t) : SqKept s t := .of_cores h.cores (by
  have hslots := congrArg State.slots h
  exact hslots)

theorem sqKept_of_homeSide (h : HomeSide s t) : SqKept s t := sqKept_of_homeWrite h.write

theorem sqKept_performWrite (cs : List (Nat × Byte)) (keep : Option Nat) (w : Option Thr) (s : State) :
    SqKept s (performWrite cs keep w s) := by
  refine (sqKept_of_homeWrite (homeWrite_rawWrite s cs)).trans ((sqKept_of_homeSide (homeSide_noteRegions cs _)).trans
    ((sqKept_of_homeSide (HomeSide.foldl (fun s l => homeSide_writtenLine keep w s l) _ _)).trans
    ((sqKept_of_homeSide (HomeSide.foldl (fun s w => homeSide_touchWord _ w s) _ _)).trans (.foldl (fun s c => ?_) _ _))))
  exact .ite (.ite (sqKept_setCore rfl) (.refl s)) (.refl s)

theorem sqKept_takePartial (core line : Nat) (s : State) : SqKept s (takePartial core line s) := by
  unfold takePartial
  split
  · exact .of_cores rfl rfl
  next k op parts _ =>
    have hcopy : SqKept s (setCore s core { coreAt s core with l1 := (coreAt s core).l1.del k }) := sqKept_setCore rfl
    exact hcopy.trans (.of_cores rfl rfl)

theorem sqKept_collectLine (line : Nat) (s : State) : SqKept s (collectLine line s) := by
  unfold collectLine
  dsimp only
  split
  · exact .refl s
  · have hfill := sqKept_of_homeSide
      ((homeSide_setDir s line { dirAt s line with uop := none, ucores := [], recalled := [], parts := [] }).trans
        (homeSide_fillLine line _))
    exact .ite hfill (hfill.trans (sqKept_performWrite ..))

theorem sqKept_collectNow (line : Nat) (s : State) : SqKept s (collectNow line s) := by
  unfold collectNow
  split
  · exact .refl s
  · exact (SqKept.foldl (fun s c => sqKept_takePartial c line s) _ s).trans (sqKept_collectLine ..)

theorem sqKept_devWrite (cs : List (Nat × Byte)) (s : State) : SqKept s (devWrite cs s) :=
  (SqKept.foldl (fun s l => (sqKept_of_homeSide (homeSide_devDemote l cs s)).trans
    ((sqKept_collectNow l _).trans (sqKept_of_homeSide (homeSide_shownLine l cs _)))) _ s).trans (sqKept_performWrite ..)

theorem sqKept_vput64 (ctx va : Nat) (v : Word) (s : State) : SqKept s (vput64 ctx va v s) :=
  .ite (.refl s) (sqKept_devWrite ..)

theorem sqKept_putTidHead (ctx : Nat) (s : State) : SqKept s (putTidHead ctx s) := sqKept_vput64 ..

theorem sqKept_setCtx (n : Nat) (x : Ctx) (s : State) : SqKept s (setCtx s n x) := .of_cores rfl rfl

theorem sqKept_post (e : Event) (s : State) : SqKept s (post e s) := .of_cores rfl rfl

theorem sqKept_purgePosted (th : Thr) (s : State) : SqKept s (purgePosted th s) := by
  unfold purgePosted
  dsimp only
  refine SqKept.trans (SqKept.trans (SqKept.foldl (fun s x => ?_) s.cores s) (SqKept.foldl (fun s x => ?_) _ _)) (.of_cores rfl rfl)
  · exact .ite (.refl s) (sqKept_setCore rfl)
  · exact .ite (.of_cores rfl rfl) (.refl s)

theorem sqKept_giveTid (ctx tid core : Nat) (s : State) : SqKept s (giveTid ctx tid core s) := by
  unfold giveTid offerWork
  dsimp only
  exact (sqKept_purgePosted _ s).trans ((sqKept_setCtx ..).trans ((sqKept_putTidHead ..).trans (sqKept_post ..)))

theorem sqKept_freeEnded (ctx tid core : Nat) (s : State) : SqKept s (freeEnded ctx tid core s) := by
  unfold freeEnded
  exact .ite ((sqKept_setCtx ..).trans (sqKept_giveTid ..)) (.refl s)

end Sys2Proof.Proofs.StoreQueue
end

section
/-!
PROOF. The acknowledgement of a store (O9, R100, R104).
-/
namespace Sys2Proof.Proofs.StoreQueue
open Sys2Proof.Machine Sys2Proof.Safety Sys2Proof.Proofs.Canonical
open Sys2Proof.Proofs.Faults (taken_now)
open Sys2Proof.Proofs.Queues (coreAt_setCore_self)
open Sys2Proof.Proofs.Arrays (Sends)
open Sys2Proof.Proofs.Fences (sends_wakeLimit3)
set_option Elab.async false

variable {s u : State} {th : Thread} {core home : Nat} {q : SqEnt}

/-- An entry is off the queue; its core's fills of the line may be older than it, and the filter has the time (R98, R100). -/
def offQueue (core : Nat) (q : SqEnt) (s : State) : State :=
  setCore s core { markFills (fun f => q.cells.any (fun z => z.1 / 32 == f.pa / 32)) (coreAt s core) with
    sq := (coreAt s core).sq.filter (fun x => x.id != q.id),
    filter := (coreAt s core).filter.put 0 (bits q.va.toNat 5 6 ^^^ bits q.va.toNat 11 6) s.time8 }

/-- The store's thread has to collect the invalidations of the store from a slice that performed it (R101). -/
def noteHome (home : Nat) (q : SqEnt) (s : State) : State :=
  if holds s q.th then mapThread q.th.slot (fun t =>
    { t with homes := if home ∈ t.homes ∨ 1024 ≤ home then t.homes else t.homes ++ [home] }) s
  else s

/-- A thread that waits for the store goes on, or asks for the store's invalidations (R104, R148). -/
def goesOn (core : Nat) (q : SqEnt) (s : State) : State :=
  withThr q.th s (fun s =>
    match (me s).form with
    | .inFlight (.storeDone i h) =>
      if i = q.id then
        (if 1024 ≤ h then advance s
         else postOrd core (homeUnit h) (.fenceMarker q.th h 4) (mapMe (fun t => { t with markers := t.markers ++ [h] }) s))
      else s
    | .parked ⟨_, .limit 3, _⟩ => sendMarkers 3 s.cur s
    | _ => s)

/-- What follows an entry's leaving. -/
def acked (core home : Nat) (q : SqEnt) (s : State) : State :=
  wakeLimit3 q.th (freeEnded q.th.ctx q.th.tid core (goesOn core q (noteHome home q (offQueue core q s))))

theorem find_entry (hq : q ∈ (coreAt s core).sq) (hone : ∀ x ∈ (coreAt s core).sq, x.id = q.id → x = q) :
    (coreAt s core).sq.find? (fun e => e.id == q.id) = some q := by
  cases hf : (coreAt s core).sq.find? (fun e => e.id == q.id) with
  | none => exact absurd (List.find?_eq_none.1 hf q hq) (by simp)
  | some x => rw [hone x (List.mem_of_find?_eq_some hf) (by simpa using List.find?_some hf)]

theorem delivers_storeAck (hn : s.now = none) (hq : q ∈ (coreAt s core).sq)
    (hone : ∀ x ∈ (coreAt s core).sq, x.id = q.id → x = q) (hreq : q.req = none) :
    Delivers s (.storeAck core q.id home) (drain core (acked core home q s)) := by
  unfold Delivers
  change execStoreAck { s with now := some (.storeAck core q.id home) } = _
  unfold execStoreAck
  dsimp only
  rw [taken_now hn, find_entry hq hone]
  dsimp only
  rw [hreq]
  rfl

/-! The queue of the core after each step -/

theorem sendMarkers_cores (sc : BitVec 3) (p : Nat) (s : State) : (sendMarkers sc p s).cores = s.cores := by
  have hpost : ∀ (l : List Nat) (t : Thr) (s : State),
      (l.foldl (fun s h => postOrd (p / 16) (homeUnit h) (.fenceMarker t h sc) s) s).cores = s.cores := by
    intro l t
    induction l with
    | nil => exact fun _ => rfl
    | cons h l ih => exact fun s => ih _
  unfold sendMarkers
  split
  · rfl
  · split
    · rfl
    · dsimp only
      split
      · rfl
      · exact hpost _ _ _

theorem goesOn_cores (core : Nat) (q : SqEnt) (s : State) : (goesOn core q s).cores = s.cores := by
  unfold goesOn withThr
  split
  · dsimp only
    split
    · split
      · split
        · exact (mapMe_cores _ _).trans rfl
        · exact (mapMe_cores _ _).trans rfl
      · rfl
    · exact sendMarkers_cores _ _ _
    · rfl
  · rfl

theorem noteHome_cores (home : Nat) (q : SqEnt) (s : State) : (noteHome home q s).cores = s.cores := by
  unfold noteHome
  split
  · exact mapThread_cores _ _ _
  · rfl

theorem slots_sends {t : State} (h : Sends s t) : t.slots = s.slots ∧ t.cores = s.cores ∧ t.cycle = s.cycle := by
  obtain ⟨l, rfl⟩ := h
  exact ⟨rfl, rfl, rfl⟩

theorem canonical_goesOn (hc : Canonical s) : Canonical (goesOn core q s) := by
  refine canonical_withThr hc fun u hu => ?_
  split
  · exact canonical_ite (canonical_ite (canonical_advance hu) (canonical_postOrd (canonical_me hu))) hu
  · exact canonical_sendMarkers hu
  · exact hu

theorem canonical_noteHome (hc : Canonical s) : Canonical (noteHome home q s) := canonical_ite (canonical_mapThread hc) hc

/-- The entry, and no other, has left its core's queue. -/
theorem acked_queue (hc : Canonical s) (core home : Nat) (q : SqEnt) :
    Canonical (acked core home q s) ∧ (coreAt (acked core home q s) core).sq = (coreAt s core).sq.filter (fun x => x.id != q.id) := by
  have hoff : Canonical (offQueue core q s) := canonical_setCore hc _ _
  have hgo : Canonical (goesOn core q (noteHome home q (offQueue core q s))) := canonical_goesOn (canonical_noteHome hoff)
  have hfree := (sqKept_freeEnded q.th.ctx q.th.tid core (goesOn core q (noteHome home q (offQueue core q s)))).sq hgo core
  have hwake := (slots_sends (sends_wakeLimit3 q.th
    (freeEnded q.th.ctx q.th.tid core (goesOn core q (noteHome home q (offQueue core q s)))))).2.1
  refine ⟨canonical_wakeLimit3 (canonical_freeEnded hgo), ?_⟩
  have hcore := congrArg Core.sq (coreAt_setCore_self hc core { markFills (fun f => q.cells.any (fun z => z.1 / 32 == f.pa / 32)) (coreAt s core) with
    sq := (coreAt s core).sq.filter (fun x => x.id != q.id),
    filter := (coreAt s core).filter.put 0 (bits q.va.toNat 5 6 ^^^ bits q.va.toNat 11 6) s.time8 })
  unfold acked
  unfold coreAt at hfree hcore ⊢
  rw [hwake, hfree, goesOn_cores, noteHome_cores]
  exact hcore

/-- The acknowledgement takes the entry off the queue. -/
theorem storeAck_leaves (hc : Canonical s) : ∀ x ∈ (coreAt (drain core (acked core home q s)) core).sq, x.id ≠ q.id := by
  obtain ⟨hcan, hsq⟩ := acked_queue hc core home q
  obtain ⟨-, -, -, hdrain, -⟩ := drain_frame hcan core
  intro x hx
  rw [hdrain, hsq] at hx
  obtain ⟨y, hy, rfl⟩ := List.mem_map.1 hx
  have hid : y.id ≠ q.id := by simpa using (List.mem_filter.1 hy).2
  unfold afterDrain
  split
  · exact hid
  · exact hid

/-- R104: a sequentially consistent store to another core's scratchpad completes with its acknowledgement. -/
theorem storeAck_completes (hc : Canonical s) (hth : threadAt s s.cur = some th) (hname : q.th = nameAt s.cur th)
    (hhome : 1024 ≤ home) (hform : th.form = .inFlight (.storeDone q.id home)) :
    Becomes s (drain core (acked core home q s)) (passed s th) := by
  have hoff : threadAt (offQueue core q s) s.cur = some th := hth
  have hnote : noteHome home q (offQueue core q s) = setThread (offQueue core q s) s.cur th := by
    have hsame : { th with homes := if home ∈ th.homes ∨ 1024 ≤ home then th.homes else th.homes ++ [home] } = th := by
      rw [if_pos (.inr hhome)]
    unfold noteHome
    rw [hname, if_pos (Fences.holds_nameAt hoff)]
    refine (mapMe_of (s := offQueue core q s) hoff _).trans ?_
    rw [hsame]
    rfl
  have hgo : goesOn core q (noteHome home q (offQueue core q s)) = advance (setThread (offQueue core q s) s.cur th) := by
    have hset : threadAt (setThread (offQueue core q s) s.cur th) s.cur = some th := threadAt_setThread_self _ _ _
    rw [hnote]
    unfold goesOn
    rw [hname, Fences.withThr_nameAt hset]
    change (match (me (setThread (offQueue core q s) s.cur th)).form with
      | .inFlight (.storeDone _ _) => _
      | .parked ⟨_, .limit 3, _⟩ => _
      | _ => _) = _
    rw [me_of (s := setThread (offQueue core q s) s.cur th) hset, hform]
    dsimp only
    rw [if_pos rfl, if_pos hhome]
    rfl
  have hset : threadAt (setThread (offQueue core q s) s.cur th) (setThread (offQueue core q s) s.cur th).cur = some th :=
    threadAt_setThread_self _ _ _
  have hcan : Canonical (acked core home q s) := (acked_queue hc core home q).1
  obtain ⟨-, -, hslots, -, -⟩ := drain_frame hcan core
  unfold Becomes
  rw [threadAt_congr hslots, acked, threadAt_congr (slots_sends (sends_wakeLimit3 ..)).1,
    threadAt_congr (sqKept_freeEnded ..).slots, hgo]
  exact (Units.advance_of (Quiet.refl _) hset fun tr htr => by rw [hform] at htr; cases htr).2

end Sys2Proof.Proofs.StoreQueue
end

section
/-!
SUPPORT. A plain line of DRAM at its home (R213, R520): the home takes it into its data array, and memory stays as it was, for
what goes to make room stands at its own place; the write of its bytes puts them into memory.
-/
namespace Sys2Proof.Proofs.PlainLines
open Sys2Proof.Machine Sys2Proof.Safety Sys2Proof.Proofs.Frames Sys2Proof.Proofs.SpadStores
open Sys2Proof.Proofs.Faults (mem_linesOf rdByte_of_lt)
set_option Elab.async false

variable {s t u : State} {line : Nat}

/-! ### Places of DRAM -/

theorem inDram_of_lt {a : Nat} (h : a < dramTop) : inDram a = true := by
  unfold inDram
  rw [decide_eq_true h, Bool.true_or]

theorem not_inAlt_of_lt {a : Nat} (h : a < dramTop) : inAlt a = false := by
  have hlow : dramTop ≤ altBase := by decide
  unfold inAlt
  rw [decide_eq_false (by omega), Bool.false_and]

theorem not_isSpad_of_lt {a : Nat} (h : a < dramTop) : isSpad a = false := by
  have hlow : dramTop ≤ spadBase := by decide
  unfold isSpad
  rw [decide_eq_false (by omega), Bool.false_and]

theorem homePlace_of_lt {a : Nat} (h : a < dramTop) : homePlace a = sliceOfPa a := by
  unfold homePlace
  rw [not_isSpad_of_lt h, not_inAlt_of_lt h]
  rfl

/-! ### The home takes the line -/

/-- DRAM has a line that its slice is about to give up. -/
def backed (line : Nat) (s : State) : State :=
  if (sliceAt s (homePlace (line * 32))).lines.get false line then writeBack line s
  else if inAlt (line * 32) ∨ !(s.dram.any (fun e => e.1 == dramLine line)) then s
  else { putLine line (lineInDram s line) s with dram := (putLine line (lineInDram s line) s).dram.del (dramLine line) }

theorem replaceLine_eq (line : Nat) (s : State) : ∃ x, replaceLine line s = setSlice (if inAlt (line * 32) then
    { backed line s with mem := putCells (backed line s).mem (cellsAt (line * 32) (List.replicate 32 0)) } else backed line s)
    (homePlace (line * 32)) x := ⟨_, rfl⟩

/-- A line that stands at its own home goes without a change of memory (R520). -/
theorem replaceLine_mem (ho : OwnFrames s) (hl : line * 32 < dramTop) : (replaceLine line s).mem = s.mem := by
  obtain ⟨-, hdram, -⟩ := ho
  obtain ⟨x, h⟩ := replaceLine_eq line s
  rw [h, not_inAlt_of_lt hl, if_neg Bool.false_ne_true]
  change (backed line s).mem = s.mem
  unfold backed
  rw [homePlace_of_lt hl, not_inAlt_of_lt hl]
  split
  · unfold writeBack
    rw [not_inAlt_of_lt hl]
    rfl
  next hclean =>
    rw [if_pos]
    rw [Bool.not_eq_true', List.any_eq_false]
    refine .inr fun x hx hline => hclean (hdram line x.2 hl ?_)
    rw [← beq_iff_eq.1 hline]
    exact hx

theorem replaceNth_mem (ho : OwnFrames s) (home k : Nat) : (replaceNth home k s).mem = s.mem := by
  unfold replaceNth
  split
  next x hx => exact replaceLine_mem ho (ho.1 home x.1 x.2 (List.mem_of_getElem? hx)).1
  · rfl

/-! The directory knows nothing of it. -/

theorem ite_dir {p : Prop} [Decidable p] {d : Tab DirEntry} (h : t.dir = d) (k : u.dir = d) : (if p then t else u).dir = d := by
  split
  · exact h
  · exact k

theorem putLine_dir (line : Nat) (l : DramLine) (s : State) : (putLine line l s).dir = s.dir := by
  have hbits : ∀ (fe : List (Bool × Nat)) (u : State), (fe.foldl (fun s x =>
      if (wordAt s (line * 4 + x.2)).fe = x.1 then s
      else setWord s (line * 4 + x.2) { wordAt s (line * 4 + x.2) with fe := x.1 }) u).dir = u.dir := by
    intro fe
    induction fe with
    | nil => exact fun _ => rfl
    | cons x fe ih => exact fun u => (ih _).trans (ite_dir rfl rfl)
  exact hbits l.fe.zipIdx _

theorem writeBack_dir (line : Nat) (s : State) : (writeBack line s).dir = s.dir := by
  unfold writeBack putDram
  exact ite_dir (ite_dir rfl (putLine_dir ..)) rfl

theorem replaceLine_dir (line : Nat) (s : State) : (replaceLine line s).dir = s.dir := by
  have hback : (backed line s).dir = s.dir := by
    unfold backed
    split
    · exact writeBack_dir line s
    · split
      · rfl
      · exact putLine_dir line _ s
  obtain ⟨x, h⟩ := replaceLine_eq line s
  rw [h]
  exact ite_dir hback hback

theorem replaceNth_dir (home k : Nat) (s : State) : (replaceNth home k s).dir = s.dir := by
  unfold replaceNth
  split
  · exact replaceLine_dir ..
  · rfl

/-- A slice with room for a line. -/
def roomFor (home : Nat) (s : State) : State :=
  if (sliceAt s home).lines.length < sliceLines then s
  else replaceNth home (Config.freeChoice sliceLines s.fresh % sliceLines) (nextFresh s)

/-- A slice's data array takes a line, unmodified. -/
def taking (line : Nat) (s : State) : State :=
  openRow line (setSlice s (homePlace (line * 32)) { sliceAt s (homePlace (line * 32)) with
    lines := (sliceAt s (homePlace (line * 32))).lines.ins line false,
    hot := (line :: (sliceAt s (homePlace (line * 32))).hot).take hotLines })

theorem fillLine_of_lt (hl : line * 32 < dramTop) (s : State) : fillLine line s =
    if holdsLine s line then s else taking line (roomFor (homePlace (line * 32)) s) := by
  unfold fillLine
  rw [inDram_of_lt hl, not_inAlt_of_lt hl]
  rfl

theorem fillLine_mem (ho : OwnFrames s) (hl : line * 32 < dramTop) : (fillLine line s).mem = s.mem := by
  rw [fillLine_of_lt hl]
  exact ite_mem rfl (ite_mem rfl (replaceNth_mem (s := nextFresh s) ho _ _))

theorem fillLine_dir (hl : line * 32 < dramTop) (s : State) : (fillLine line s).dir = s.dir := by
  rw [fillLine_of_lt hl]
  exact ite_dir rfl (ite_dir rfl (replaceNth_dir ..))

theorem mem_ins {α : Type} (l : Tab α) (k : Nat) (x : α) : (k, x) ∈ Tab.ins l k x := by
  induction l with
  | nil => exact List.mem_singleton_self _
  | cons y l ih =>
    unfold Tab.ins
    split
    · exact List.mem_cons_self ..
    · split
      · exact List.mem_cons_self ..
      · exact List.mem_cons_of_mem _ ih

theorem noteRow_lines (line acts corrected : Nat) (s : State) (n : Nat) :
    (sliceAt (noteRow line acts corrected s) n).lines = (sliceAt s n).lines := by
  unfold noteRow sliceAt
  dsimp only
  rw [Tab.get_ins]
  split
  · subst_vars; rfl
  · rfl

theorem sliceAt_setSlice_self {n : Nat} {x : Slice} (hx : x ≠ {}) : sliceAt (setSlice s n x) n = x :=
  (Tab.get_put_ne s.slices n n hx).trans (if_pos rfl)

/-- The home holds the line afterwards. -/
theorem holdsLine_taking (line : Nat) (s : State) : holdsLine (taking line s) line = true := by
  have hmem := mem_ins (sliceAt s (homePlace (line * 32))).lines line false
  unfold holdsLine taking openRow
  rw [noteRow_lines]
  rw [sliceAt_setSlice_self fun h => ?_]
  · exact List.any_eq_true.2 ⟨(line, false), hmem, beq_self_eq_true _⟩
  · rw [show (sliceAt s (homePlace (line * 32))).lines.ins line false = [] from congrArg Slice.lines h] at hmem
    exact List.not_mem_nil hmem

theorem holdsLine_fillLine (hl : line * 32 < dramTop) (s : State) : holdsLine (fillLine line s) line = true := by
  rw [fillLine_of_lt hl]
  split
  · assumption
  · exact holdsLine_taking ..

/-! ### A request for a plain line is ready -/

/-- What the home does for such a request: it takes the line, and charges the context for it (R413). -/
theorem prepFor_plain {ctx home : Nat} {red : Option AmoOp} (hl : line * 32 < dramTop) (hp : PlainLine s home line) :
    ∃ ctxs, prepFor ctx home line red .write s = (true, { fillLine line s with ctxs := ctxs }) := by
  obtain ⟨htile, huop, hhost, -⟩ := hp
  have hprep : prepLine home line red .write s = (true, fillLine line s) := by
    unfold prepLine prepCopies prepHost
    rw [inDram_of_lt hl, htile]
    simp [huop, hhost]
  unfold prepFor filledFor
  rw [hprep]
  split
  · exact ⟨_, rfl⟩
  · exact ⟨_, rfl⟩

/-- It is served at once where none waits for the line (R255). -/
theorem inOrder_none {home : Nat} (h : NoneBefore s home line) (ev : Event) (k : State → State) :
    inOrder (lineChan s home line) ev s k = k s := by
  obtain ⟨hheld, hagenda⟩ := h
  have hone : s.held.any (fun f => f.chan == some (lineChan s home line)) = false := by
    rw [List.any_eq_false]
    exact fun f hf => by simpa using hheld f hf
  have htwo : s.agenda.any (fun f => f.chan == some (lineChan s home line)) = false := by
    rw [List.any_eq_false]
    exact fun f hf => by simpa using hagenda f hf
  unfold inOrder
  rw [hone, htwo]
  simp

/-! ### The bytes of one line are written -/

theorem linesOf_of_one {cs : List (Nat × Byte)} (hcs : cs ≠ []) (h : ∀ c ∈ cs, c.1 / 32 = line) : linesOf cs = [line] := by
  have key : ∀ l : List (Nat × Byte), (∀ c ∈ l, c.1 / 32 = line) →
      l.foldl (fun ls c => if (c.1 / 32) ∈ ls then ls else ls ++ [c.1 / 32]) [line] = [line] := by
    intro l
    induction l with
    | nil => exact fun _ => rfl
    | cons c l ih =>
      intro hl
      rw [List.foldl_cons, hl c (List.mem_cons_self ..), if_pos (List.mem_singleton_self _)]
      exact ih fun d hd => hl d (List.mem_cons_of_mem _ hd)
  cases cs with
  | nil => exact absurd rfl hcs
  | cons c cs =>
    unfold linesOf
    rw [List.foldl_cons, if_neg (List.not_mem_nil), List.nil_append, h c (List.mem_cons_self ..)]
    exact key cs fun d hd => h d (List.mem_cons_of_mem _ hd)

theorem dirtyLine_mem (hl : line * 32 < dramTop) (h : holdsLine s line = true) : (dirtyLine s line).mem = s.mem := by
  have hfill : fillLine line s = s := by rw [fillLine_of_lt hl, if_pos h]
  unfold dirtyLine
  rw [inDram_of_lt hl, hfill]
  exact ite_mem (p := inAlt (line * 32) = true ∨ (s.dram.any fun e => e.1 == dramLine line) = true)
    (u := { s with dram := s.dram.ins (dramLine line) (lineHere s line) }) rfl rfl

/-- A write of bytes of a line that its home holds puts them into memory. -/
theorem performWrite_mem_line {cs : List (Nat × Byte)} (hl : line * 32 < dramTop) (hcs : cs ≠ []) (hline : ∀ c ∈ cs, c.1 / 32 = line)
    (h : holdsLine s line = true) (keep : Option Nat) (w : Option Thr) : (performWrite cs keep w s).mem = putCells s.mem cs := by
  have hlow : cs.filter (fun c => decide (c.1 < peerBase)) = cs := List.filter_eq_self.2 fun c hc => decide_eq_true (by
    have htop : dramTop + 32 ≤ peerBase := by decide
    have := hline c hc
    omega)
  rw [performWrite_mem]
  change putCells ((linesOf cs).foldl dirtyLine s).mem (cs.filter (fun c => decide (c.1 < peerBase))) = _
  rw [hlow, linesOf_of_one hcs hline, List.foldl_cons, List.foldl_nil, dirtyLine_mem hl h]

end Sys2Proof.Proofs.PlainLines
end

section
/-!
PROOF. Stores at their home (O9): the home performs a queued store of a plain line and acknowledges it (R100, R213).
-/
namespace Sys2Proof.Proofs.StoreQueue
open Sys2Proof.Machine Sys2Proof.Safety Sys2Proof.Proofs.Frames Sys2Proof.Proofs.PlainLines
open Sys2Proof.Proofs.Faults (taken_now rdByte_of_lt)
open Sys2Proof.Proofs.SpadStores (get_putCells_cellsAt)
open Sys2Proof.Proofs.Stores (head_cellsAt)
open Sys2Proof.Proofs.Arrays (canonical_mem)
set_option Elab.async false

variable {s : State} {core : Nat} {q : SqEnt} {pa : Nat} {bs : List Byte}

theorem usePlace_dram (hpa : pa < dramTop) (n : Nat) (s : State) : usePlace pa n s = s := by
  unfold usePlace
  rw [not_isSpad_of_lt hpa]
  rfl

theorem cellsAt_ne_nil (h : bs ≠ []) (pa : Nat) : cellsAt pa bs ≠ [] := by
  cases bs with
  | nil => exact absurd rfl h
  | cons b bs => exact List.cons_ne_nil _ _

/-- R213: the home of a plain line performs a queued store at once. -/
theorem delivers_homeWrite (hn : s.now = none) (hq : q ∈ (coreAt s core).sq) (hone : ∀ x ∈ (coreAt s core).sq, x.id = q.id → x = q)
    (hcells : q.cells = cellsAt pa bs) (hbs : bs ≠ []) (hline : pa / 32 = (pa + bs.length - 1) / 32) (hend : pa + bs.length ≤ dramTop)
    (hfence : homeFenced s q.home = false) (hroute : routeFenced s core (homeUnit q.home) = false)
    (hp : PlainLine s q.home (pa / 32)) (hnone : NoneBefore s q.home (pa / 32)) :
    ∃ ctxs, Delivers s (.homeWrite (.store core q.id)) (ackRequest (.store core q.id) q.home
      (performWrite (cellsAt pa bs) (some core) (some q.th) { fillLine (pa / 32) s with ctxs := ctxs })) := by
  have hlen : 0 < bs.length := List.length_pos_of_ne_nil hbs
  have hpa : pa < dramTop := by omega
  have hlow : pa < peerBase := hpa.trans (by decide)
  have hlines : linesOf (cellsAt pa bs) = [pa / 32] := linesOf_of_one (cellsAt_ne_nil hbs pa) fun c hc => by
    have := cellsAt_mem hc
    omega
  obtain ⟨ctxs, hprep⟩ := prepFor_plain (ctx := q.th.ctx) (red := none) (by omega) hp
  refine ⟨ctxs, ?_⟩
  unfold Delivers
  change execHomeWrite { s with now := some (.homeWrite (.store core q.id)) } = _
  unfold execHomeWrite
  dsimp only
  rw [taken_now hn]
  unfold serveStore
  rw [find_entry hq hone]
  dsimp only
  rw [hcells, head_cellsAt hbs, hfence, hroute, not_isSpad_of_lt hpa, if_neg Bool.false_ne_true, if_neg (by simp),
    if_neg (Nat.not_le.2 (hlow.trans (by decide))), if_neg (Nat.not_le.2 hlow), if_neg Bool.false_ne_true]
  dsimp only
  rw [inOrder_none hnone, prepAllFor, hlines, List.foldl_cons, List.foldl_nil]
  dsimp only
  rw [hprep]
  dsimp only
  rw [usePlace_dram hpa]
  rfl

theorem homeWrite_stores (hc : Canonical s) (hn : s.now = none) (hq : q ∈ (coreAt s core).sq)
    (hone : ∀ x ∈ (coreAt s core).sq, x.id = q.id → x = q)
    (hcells : q.cells = cellsAt pa bs) (hbs : bs ≠ []) (hline : pa / 32 = (pa + bs.length - 1) / 32) (hend : pa + bs.length ≤ dramTop)
    (hfence : homeFenced s q.home = false) (hroute : routeFenced s core (homeUnit q.home) = false)
    (hp : PlainLine s q.home (pa / 32)) (hnone : NoneBefore s q.home (pa / 32)) :
    ∃ t, Delivers s (.homeWrite (.store core q.id)) t ∧ StoresList s t pa bs ∧
      ⟨.storeAck core q.id q.home, some (homeUnit q.home, core)⟩ ∈ t.agenda ∧ t.slots = s.slots := by
  have hlen : 0 < bs.length := List.length_pos_of_ne_nil hbs
  have hl : pa / 32 * 32 < dramTop := by omega
  obtain ⟨ctxs, hdel⟩ := delivers_homeWrite hn hq hone hcells hbs hline hend hfence hroute hp hnone
  obtain ⟨-, -, -, hown⟩ := hp
  have hmem : (performWrite (cellsAt pa bs) (some core) (some q.th) { fillLine (pa / 32) s with ctxs := ctxs }).mem =
      putCells s.mem (cellsAt pa bs) := by
    have hheld : holdsLine { fillLine (pa / 32) s with ctxs := ctxs } (pa / 32) = true := holdsLine_fillLine hl s
    rw [performWrite_mem_line hl (cellsAt_ne_nil hbs pa) (fun c hc => by have := cellsAt_mem hc; omega) hheld]
    exact congrArg (putCells · _) (fillLine_mem hown hl)
  refine ⟨_, hdel, fun x hx => ?_, List.mem_append_right _ (List.mem_singleton_self _), ?_⟩
  · rw [rdByte_of_lt _ hx, rdByte_of_lt _ hx]
    exact (congrArg (Tab.get 0 · x) hmem).trans (get_putCells_cellsAt (canonical_mem hc) pa x bs)
  · have hwrite := congrArg State.slots (memOnly_performWrite (cellsAt pa bs) (some core) (some q.th)
      { fillLine (pa / 32) s with ctxs := ctxs }).rest
    have hfill := congrArg State.slots (homeSide_fillLine (pa / 32) s)
    exact hwrite.trans hfill

end Sys2Proof.Proofs.StoreQueue

namespace Sys2Proof
open Sys2Proof.Machine Sys2Proof.Safety Sys2Proof.Proofs.Stores Sys2Proof.Proofs.StoreQueue

/-- Settles O9, clause by clause: at its core before and after the check, at its home, and back. -/
theorem stores : Obligations.Stores := by
  unfold Obligations.Stores
  refine ⟨fun d a sz sc mo off s th e hc he hacq ha hd hplan hl hrel hdirty => st_local hc he hacq ha hd hplan hl hrel hdirty,
    fun d a sz sc mo off s th e hc he hacq ha hd hplan hl hrel => st_checks he hacq ha hd hplan hl hrel hc,
    fun s th e bs hc hn hth hbs hpa hpc hform hdirty => ?_,
    fun s core q pa bs hc hn hq hone hcells hbs hline hend hfence hroute hp hnone =>
      homeWrite_stores hc hn hq hone hcells hbs hline hend hfence hroute hp hnone,
    fun s core q home hc hn hq hone hreq _ _ => ?_⟩
  · exact ⟨_, storeCheckReply_queues hn hth hbs hpa hpc hform hdirty, storeCheckReply_enters hc hth hform⟩
  · exact ⟨_, delivers_storeAck hn hq hone hreq, storeAck_leaves hc,
      fun th hth hname _ hhome hform => storeAck_completes hc hth hname hhome hform⟩

end Sys2Proof
end

section
/-!
PROOF. Reductions (O11): the operation at the local word, the update-only copy and its partial, the collect (R114 to R117, R225).
-/
namespace Sys2Proof.Proofs.UpdateCopies
open Sys2Proof.Machine Sys2Proof.Safety Sys2Proof.Proofs.SpadStores Sys2Proof.Proofs.PlainLines
open Sys2Proof.Proofs.Stores (localWrite_completes spadBase_le_of_isSpad)
open Sys2Proof.Proofs.Faults (length_leBytes taken_now rdByte_of_lt)
open Sys2Proof.Proofs.Fences (dirAt_setDir withThr_nameAt)
open Sys2Proof.Proofs.Queues (coreAt_setCore_self)
open Sys2Proof.Proofs.ByteFrame
set_option Elab.async false

variable {s t u : State} {th : Thread} {line core : Nat} {op : AmoOp}

/-! ### The operation (R221) -/

theorem amoSize_eq (op : AmoOp) : amoSize op = opSize op := by cases op <;> rfl

theorem ofInt_min (old x : Word) : (if old.toInt ≤ x.toInt then old else x) = BitVec.ofInt 64 (min old.toInt x.toInt) := by
  rw [min_def, apply_ite (BitVec.ofInt 64), BitVec.ofInt_toInt, BitVec.ofInt_toInt]

theorem ofInt_max (old x : Word) : (if old.toInt ≤ x.toInt then x else old) = BitVec.ofInt 64 (max old.toInt x.toInt) := by
  rw [max_def, apply_ite (BitVec.ofInt 64), BitVec.ofInt_toInt, BitVec.ofInt_toInt]

theorem ofNat_min (old x : Word) : (if old.toNat ≤ x.toNat then old else x) = BitVec.ofNat 64 (min old.toNat x.toNat) := by
  rw [min_def, apply_ite (BitVec.ofNat 64), BitVec.ofNat_toNat, BitVec.ofNat_toNat, BitVec.setWidth_eq, BitVec.setWidth_eq]

theorem ofNat_max (old x : Word) : (if old.toNat ≤ x.toNat then x else old) = BitVec.ofNat 64 (max old.toNat x.toNat) := by
  rw [max_def, apply_ite (BitVec.ofNat 64), BitVec.ofNat_toNat, BitVec.ofNat_toNat, BitVec.setWidth_eq, BitVec.setWidth_eq]

/-- R221: the operation of the model is that of the spec's table. -/
theorem amoNew_eq (op : AmoOp) (old x : Word) : amoNew op old x = opResult op old x := by
  cases op with
  | min => exact ofInt_min old x
  | max => exact ofInt_max old x
  | minu => exact ofNat_min old x
  | maxu => exact ofNat_max old x
  | add => rfl
  | and => rfl
  | or => rfl
  | xor => rfl
  | swap => rfl
  | fadd => rfl
  | fmin => rfl
  | fmax => rfl

/-! ### A red of the local scratchpad (R225) -/

theorem exec_red {i : Instr} {a b : BitVec 5} (h : redRow i = some (op, a, b)) (s : State) :
    ∃ sc, exec i s = redInstr op a b sc s := by
  unfold redRow at h
  split at h <;> cases h <;> exact ⟨‹BitVec 3›, rfl⟩

theorem not_inPeer_of_isSpad {pa : Nat} (h : isSpad pa = true) : inPeer pa = false := by
  have hlow : pa < peerBase := (spadBase_le_of_isSpad h).2.trans (by decide)
  unfold inPeer
  rw [decide_eq_false (by omega), Bool.false_and]

theorem red_local {i : Instr} {a b : BitVec 5} {pa : Nat} (hi : redRow i = some (op, a, b)) (hc : Canonical s) (he : Executing s th)
    (hacq : th.acqOut = 0) (ha : ReadyNow th (srcP a)) (hb : ReadyNow th (srcP b)) (hcmp : cmpTrap s (val th a) (opSize op) .rmw = none)
    (hcheck : check s (s.cur / 16) th.ctx (privOf th) (val th a) (opSize op) .rmw true = .ok pa) (hl : Local s pa)
    (hstage : stageWait s (val th a) pa (opSize op) .rmw 0 = none) :
    ∃ t, exec i s = .next t ∧ Becomes s t (passed s th) ∧
      StoresBytes s t pa (opSize op) (opResult op (BitVec.ofNat 64 (rdNat s pa (opSize op))) (val th b)).toNat ∧
      Only s t (fun old new => { new with tslots := old.tslots })
        (fun old new => { new with mem := old.mem, words := old.words, agenda := old.agenda, poison := old.poison,
                                   slices := old.slices }) := by
  have hrs : ∀ r ∈ [a, b], ReadyNow th (srcP r) := by simp [ha, hb]
  obtain ⟨sc, hexec⟩ := exec_red hi s
  obtain ⟨hlo, hhi⟩ := spadBase_le_of_isSpad hl.1
  have hsize : opSize op ≤ 8 := by cases op <;> decide
  have hend : pa + (leBytes (opSize op) (opResult op (BitVec.ofNat 64 (rdNat s pa (opSize op))) (val th b)).toNat).length ≤ altBase := by
    rw [length_leBytes]
    have hroom : accBase + 8 ≤ altBase := by decide
    omega
  obtain ⟨hbecomes, hbytes, honly⟩ := localWrite_completes hc he hrs (n := opSize op) hlo hend none
  refine ⟨_, ?_, hbecomes, fun x => ?_, honly⟩
  · rw [hexec]
    unfold redInstr
    refine (withOps_ok (operands_none he.1 (ss := [srcP a, srcP b]) (by simp [ha, hb])) _).trans (congrArg Host.Outcome.next ?_)
    unfold acqGate
    rw [me_of he.1, if_neg (not_not.2 hacq)]
    dsimp only
    rw [show arg _ 0 = val th a from rfl, show arg _ 1 = val th b from rfl, amoSize_eq, hcmp]
    dsimp only
    rw [show myCore s = s.cur / 16 from rfl, hcheck]
    dsimp only
    rw [not_inPeer_of_isSpad hl.1, if_neg Bool.false_ne_true, hl.1, if_pos rfl, hstage]
    dsimp only
    rw [if_pos hl.2, amoNew_eq]
    rfl
  · rw [hbytes, length_leBytes]
    split
    · exact getElem?_leBytes _ (by omega)
    · rfl

/-! ### A partial goes home (R116, R117) -/

/-- A core's copy of a line has gone home: its partial joins the line's. -/
theorem takePartial_some {k : Nat} {ps : Tab Word} (h : uCopy s core line = some (k, op, ps)) (hps : ps ≠ [])
    (hnone : ∀ p ∈ (dirAt s line).parts, p.core ≠ core) : ∃ p : Partial, p.core = core ∧ p.parts = ps ∧
    takePartial core line s = setDir (setCore s core { coreAt s core with l1 := (coreAt s core).l1.del k }) line
      { dirAt s line with ucores := (dirAt s line).ucores.erase core, recalled := (dirAt s line).recalled.erase core,
                          parts := (dirAt s line).parts ++ [p] } := by
  have hfind : (dirAt s line).parts.find? (fun p => p.core == core) = none := by
    rw [List.find?_eq_none]
    exact fun p hp => by simpa using hnone p hp
  refine ⟨⟨((coreAt s core).owner.getD (0, 0)).1, ((coreAt s core).owner.getD (0, 0)).2, core, ps⟩, rfl, rfl, ?_⟩
  unfold takePartial
  rw [h]
  dsimp only
  rw [show dirAt (setCore s core _) line = dirAt s line from rfl, hfind]
  dsimp only
  rw [if_neg hps, if_neg (by simp)]

theorem unseen_setDir (l : Nat) (x : DirEntry) (s : State) : Unseen s (setDir s l x) :=
  ⟨rfl, fun _ => rfl, fun _ => rfl, fun _ => rfl, fun h => Canonical.canonical_setDir h⟩

/-- R117: an eviction brings the partial home. -/
theorem uEviction_brings {k : Nat} {ps : Tab Word} (hc : Canonical s) (hn : s.now = none) (h : uCopy s core line = some (k, op, ps))
    (hps : ps ≠ []) (hnone : ∀ p ∈ (dirAt s line).parts, p.core ≠ core) :
    ∃ t, Delivers s (.uEviction core line) t ∧ (coreAt t core).l1 = (coreAt s core).l1.del k ∧
      (dirAt t line).ucores = (dirAt s line).ucores.erase core ∧
      (∃ p, (dirAt t line).parts = (dirAt s line).parts ++ [p] ∧ p.core = core ∧ p.parts = ps) ∧
      t.slots = s.slots ∧ ∀ x, rdByte t x = rdByte s x := by
  obtain ⟨p, hcore, hparts, htake⟩ := takePartial_some h hps hnone
  have hset : Canonical (setCore s core { coreAt s core with l1 := (coreAt s core).l1.del k }) := canonical_setCore hc _ _
  have hunseen := (unseen_setCore hc core (x := { coreAt s core with l1 := (coreAt s core).l1.del k }) rfl).trans
    (unseen_setDir line { dirAt s line with
      ucores := (dirAt s line).ucores.erase core, recalled := (dirAt s line).recalled.erase core,
      parts := (dirAt s line).parts ++ [p] } _)
  refine ⟨takePartial core line s, ?_, ?_⟩
  · unfold Delivers
    change execUEviction { s with now := some (.uEviction core line) } = _
    unfold execUEviction
    dsimp only
    rw [taken_now hn]
  · rw [htake, dirAt_setDir hset, if_pos rfl]
    exact ⟨congrArg Core.l1 (coreAt_setCore_self hc core _), rfl, ⟨p, rfl, hcore, hparts⟩, rfl, hunseen.bytes⟩

/-! ### The update-only copy (R114) -/

/-- A core's copies with one more, of a line that its L1 has room for. -/
def withCopy (core key line : Nat) (op : AmoOp) (s : State) : State :=
  setCore s core { coreAt s core with l1 := (coreAt s core).l1.ins key (.update (line * 32) op []) }

theorem putL1_room {key : Nat} (h : (coreAt s core).l1.length < 1024) :
    putL1 core key (.update (line * 32) op []) s = withCopy core key line op s := by
  unfold putL1
  rw [if_pos]
  · rfl
  · rw [Bool.or_eq_true, decide_eq_true_eq]
    exact .inr h

theorem withCopy_mem (hc : Canonical s) (core key line : Nat) (op : AmoOp) :
    (key, .update (line * 32) op []) ∈ (coreAt (withCopy core key line op s) core).l1 := by
  unfold withCopy
  rw [coreAt_setCore_self hc]
  exact mem_ins ..

theorem uCopy_withCopy (hc : Canonical s) (core key line : Nat) (op : AmoOp) : (uCopy (withCopy core key line op s) core line).isSome = true := by
  unfold uCopy
  rw [List.findSome?_isSome_iff]
  exact ⟨_, withCopy_mem hc core key line op, by simp⟩

/-- A line's entry with a core among those that update it. -/
def grantEntry (core key : Nat) (op : AmoOp) (d : DirEntry) : DirEntry :=
  { d with va := key, uop := some op, ucores := if core ∈ d.ucores then d.ucores else d.ucores ++ [core] }

/-- The executing core has the copy, its home knows, and the executing thread is about to issue its red again. -/
def granted (key line : Nat) (op : AmoOp) (v : State) : State :=
  let u := withCopy (v.cur / 16) key line op v
  waitRetry (setDir u line (grantEntry (v.cur / 16) key op (dirAt u line)))

theorem granted_eq {key : Nat} (h : threadAt s s.cur = some th) : granted key line op s =
    setThread (setDir (withCopy (s.cur / 16) key line op s) line (grantEntry (s.cur / 16) key op (dirAt s line))) s.cur
      { th with form := .inFlight .retry, readyAt := s.cycle + 8 } :=
  mapMe_of (s := setDir (withCopy (s.cur / 16) key line op s) line (grantEntry (s.cur / 16) key op (dirAt s line))) h _

theorem mem_grantEntry (core key : Nat) (op : AmoOp) (d : DirEntry) : core ∈ (grantEntry core key op d).ucores := by
  unfold grantEntry
  dsimp only
  split
  · assumption
  · exact List.mem_append_right _ (List.mem_singleton_self _)

theorem coreAt_setThread_setDir (u : State) (l p c : Nat) (x : DirEntry) (y : Thread) :
    coreAt (setThread (setDir u l x) p y) c = coreAt u c := rfl

theorem dirAt_setThread_setDir (hc : Canonical u) (l p : Nat) (x : DirEntry) (y : Thread) :
    dirAt (setThread (setDir u l x) p y) l = x := (dirAt_setDir hc l l x).trans (if_pos rfl)

theorem mem_setThread_setDir (u : State) (l p : Nat) (x : DirEntry) (y : Thread) : (setThread (setDir u l x) p y).mem = u.mem := rfl

theorem granted_frame {key : Nat} (hc : Canonical s) (h : threadAt s s.cur = some th) :
    (key, .update (line * 32) op []) ∈ (coreAt (granted key line op s) (s.cur / 16)).l1 ∧
      (dirAt (granted key line op s) line).uop = some op ∧ s.cur / 16 ∈ (dirAt (granted key line op s) line).ucores ∧
      threadAt (granted key line op s) s.cur = some { th with form := .inFlight .retry, readyAt := s.cycle + 8 } ∧
      (granted key line op s).mem = s.mem := by
  have hcopy : Canonical (withCopy (s.cur / 16) key line op s) := canonical_setCore hc _ _
  rw [granted_eq h, coreAt_setThread_setDir, dirAt_setThread_setDir hcopy, mem_setThread_setDir]
  exact ⟨withCopy_mem hc _ key line op, rfl, mem_grantEntry .., threadAt_setThread_self .., rfl⟩

/-- The home of a plain line has taken it for a request; nothing that the core or the directory has is changed. -/
structure Ready (s f : State) : Prop where
  slots : f.slots = s.slots
  cores : f.cores = s.cores
  dir : f.dir = s.dir
  mem : f.mem = s.mem
  cycle : f.cycle = s.cycle
  canonical : Canonical f

theorem prepFor_ready {ctx home : Nat} {red : Option AmoOp} (hc : Canonical s) (hl : line * 32 < dramTop) (hp : PlainLine s home line) :
    ∃ f, prepFor ctx home line red .write s = (true, f) ∧ Ready s f := by
  obtain ⟨ctxs, hprep⟩ := prepFor_plain (ctx := ctx) (red := red) hl hp
  obtain ⟨-, -, -, hown⟩ := hp
  have hside := Frames.homeSide_fillLine line s
  have hcan := Canonical.canonical_prepFor (ctx := ctx) (home := home) (line := line) (red := red) (u := .write) hc
  rw [hprep] at hcan
  have hslots := congrArg State.slots hside
  have hcycle := congrArg State.cycle hside
  exact ⟨_, hprep, hslots, hside.cores, fillLine_dir hl s, fillLine_mem hown hl, hcycle, hcan⟩

theorem delivers_redURequest {slot : Nat} (hc : Canonical s) (h : HeldIn s slot th) (hform : th.form = .inFlight (.redU line))
    (hroute : routeFenced s (slot / 16) (homeUnit (sliceOfPa (line * 32))) = false) (hl : line * 32 < dramTop)
    (hp : PlainLine s (sliceOfPa (line * 32)) line) (hnone : NoneBefore s (sliceOfPa (line * 32)) line)
    (hsharers : (dirAt s line).sharers = []) (hinvs : (dirAt s line).invs = []) (hroom : (coreAt s (slot / 16)).l1.length < 1024) :
    ∃ f, Ready s f ∧ Delivers s (.redURequest (nameAt slot th) line op)
      (granted ((coreAt s (slot / 16)).redVa.get 0 slot) line op { f with cur := slot }) := by
  obtain ⟨f, hprep, hf⟩ := prepFor_ready (ctx := th.ctx) (red := if (dirAt s line).va = (coreAt s (slot / 16)).redVa.get 0 slot ∨
    (dirAt s line).ucores = [] then some op else none) hc hl hp
  have hdir : dirAt f line = dirAt s line := by
    unfold dirAt
    rw [hf.dir]
  have hcore : coreAt f (slot / 16) = coreAt s (slot / 16) := by
    unfold coreAt
    rw [hf.cores]
  have hthread : threadAt f slot = some th := (threadAt_congr hf.slots slot).trans h.2
  have hwith : ∀ k : State → State, withThr ⟨slot, th.ctx, th.tid⟩ f k = k { f with cur := slot } := withThr_nameAt hthread
  have hme : me { f with cur := slot } = th := me_of (s := { f with cur := slot }) hthread
  have hcanon : Canonical { f with cur := slot } := hf.canonical
  have hput : putL1 (slot / 16) ((coreAt s (slot / 16)).redVa.get 0 slot) (.update (line * 32) op []) { f with cur := slot } =
      withCopy (slot / 16) ((coreAt s (slot / 16)).redVa.get 0 slot) line op { f with cur := slot } :=
    putL1_room (s := { f with cur := slot }) (by rw [show coreAt { f with cur := slot } (slot / 16) = _ from hcore]; exact hroom)
  refine ⟨f, hf, ?_⟩
  unfold Delivers
  change execRedURequest { s with now := some (.redURequest ⟨slot, th.ctx, th.tid⟩ line op) } = _
  unfold execRedURequest
  dsimp only
  rw [taken_now h.1, homePlace_of_lt hl]
  rw [if_neg (by rw [hroute]; exact Bool.false_ne_true), inOrder_none hnone]
  rw [hprep]
  dsimp only
  rw [if_neg (by decide), hdir, hsharers, if_neg (not_not.2 rfl), hinvs, if_neg (not_not.2 rfl)]
  rw [hwith, hme, hform, if_pos rfl, hput, if_pos (uCopy_withCopy hcanon ..)]
  rfl

theorem redURequest_grants {slot : Nat} (hc : Canonical s) (h : HeldIn s slot th) (hform : th.form = .inFlight (.redU line))
    (hroute : routeFenced s (slot / 16) (homeUnit (sliceOfPa (line * 32))) = false) (hl : line * 32 < dramTop)
    (hp : PlainLine s (sliceOfPa (line * 32)) line) (hnone : NoneBefore s (sliceOfPa (line * 32)) line)
    (hsharers : (dirAt s line).sharers = []) (hinvs : (dirAt s line).invs = []) (hroom : (coreAt s (slot / 16)).l1.length < 1024) :
    ∃ t k, Delivers s (.redURequest (nameAt slot th) line op) t ∧
      (k, .update (line * 32) op []) ∈ (coreAt t (slot / 16)).l1 ∧ (dirAt t line).uop = some op ∧
      slot / 16 ∈ (dirAt t line).ucores ∧ threadAt t slot = some { th with form := .inFlight .retry, readyAt := s.cycle + 8 } ∧
      KeepsBytes s t := by
  obtain ⟨f, hf, hdel⟩ := delivers_redURequest (op := op) hc h hform hroute hl hp hnone hsharers hinvs hroom
  have hthread : threadAt { f with cur := slot } slot = some th := (threadAt_congr hf.slots slot).trans h.2
  obtain ⟨hcopy, huop, hcores, hretry, hmem⟩ := granted_frame (s := { f with cur := slot }) (line := line) (op := op)
    (key := (coreAt s (slot / 16)).redVa.get 0 slot) hf.canonical hthread
  refine ⟨_, _, hdel, hcopy, huop, hcores, hretry.trans ?_, fun x hx => ?_⟩
  · rw [show ({ f with cur := slot } : State).cycle = s.cycle from hf.cycle]
  · rw [rdByte_of_lt _ hx, rdByte_of_lt _ hx]
    exact congrArg (Tab.get 0 · x) (hmem.trans hf.mem)

end Sys2Proof.Proofs.UpdateCopies
end

section
/-!
PROOF. The last answer of a collect (O11, R115, R116): the partial combines with memory, and the directory has no copy left.
-/
namespace Sys2Proof.Proofs.UpdateCopies
open Sys2Proof.Machine Sys2Proof.Safety Sys2Proof.Proofs.SpadStores Sys2Proof.Proofs.PlainLines
open Sys2Proof.Proofs.Faults (length_leBytes taken_now rdByte_of_lt)
open Sys2Proof.Proofs.Fences (dirAt_setDir)
open Sys2Proof.Proofs.StoreQueue (cellsAt_ne_nil)
open Sys2Proof.Proofs.Stores (leBytes_ne_nil)
open Sys2Proof.Proofs.Arrays (canonical_mem)
set_option Elab.async false

variable {s t u : State} {line core i : Nat} {op : AmoOp} {x : Word}

/-! ### What the directory keeps of a line that is written -/

theorem foldl_dir {α : Type} {f : State → α → State} (h : ∀ s x, (f s x).dir = s.dir) (l : List α) (s : State) :
    (l.foldl f s).dir = s.dir := by
  induction l generalizing s with
  | nil => rfl
  | cons x l ih => exact (ih _).trans (h s x)

theorem noteRegions_dir (cs : List (Nat × Byte)) (s : State) : (noteRegions cs s).dir = s.dir := by
  refine ite_dir ?_ rfl
  unfold retryFills
  refine foldl_dir (fun s q => foldl_dir (fun s va => ?_) q.2.waiting s) s.sqes s
  exact ite_dir rfl rfl

theorem markStale_dir (home line : Nat) (s : State) : (markStale home line s).dir = s.dir := by
  unfold markStale
  split
  · exact ite_dir rfl rfl
  · rfl

theorem touchWord_dir (home w : Nat) (s : State) : (touchWord home w s).dir = s.dir := by
  have hmons := foldl_dir (f := fun s (x : WordMon) => sendWake x.th (hwMsg 3 (fld x.va 0 56)) s) (fun _ _ => rfl) (wordAt s w).mons
    (setWord s w { wordAt s w with mons := [], w := false, wva := 0 })
  exact ite_dir rfl (ite_dir hmons hmons)

theorem dirtyLine_dir (hl : line * 32 < dramTop) (s : State) : (dirtyLine s line).dir = s.dir := by
  unfold dirtyLine
  rw [inDram_of_lt hl]
  exact (ite_dir (p := inAlt (line * 32) = true ∨ ((fillLine line s).dram.any fun e => e.1 == dramLine line) = true)
    (t := fillLine line s) (u := { fillLine line s with dram := (fillLine line s).dram.ins (dramLine line) (lineHere (fillLine line s) line) }) rfl rfl).trans
    (fillLine_dir hl s)

/-- The update-only copies of a line, and what they have brought. -/
def copiesOf (d : DirEntry) := (d.uop, d.ucores, d.parts)

theorem invalidateLine_copies (hc : Canonical s) (home line : Nat) (keep : Option Nat) (w : Option Thr) :
    copiesOf (dirAt (invalidateLine home line keep w s) line) = copiesOf (dirAt s line) := by
  unfold invalidateLine
  dsimp only
  split
  · rfl
  · have hsent : ∀ (l : List Nat) (u : State), dirAt (l.foldl (sendInv home line) u) line = dirAt u line := fun l u => by
      unfold dirAt
      rw [foldl_dir (f := sendInv home line) (fun _ _ => ite_dir rfl rfl) l u]
    rw [hsent, dirAt_setDir hc, if_pos rfl]
    rfl

theorem performWrite_copies {cs : List (Nat × Byte)} (hc : Canonical s) (hl : line * 32 < dramTop) (hlines : linesOf cs = [line])
    (keep : Option Nat) (w : Option Thr) : copiesOf (dirAt (performWrite cs keep w s) line) = copiesOf (dirAt s line) := by
  have hraw : (rawWrite s cs).dir = s.dir := by
    change ((linesOf cs).foldl dirtyLine s).dir = s.dir
    rw [hlines]
    exact dirtyLine_dir hl s
  have hnote : (noteRegions cs (rawWrite s cs)).dir = s.dir := (noteRegions_dir ..).trans hraw
  have hcan := Canonical.canonical_noteRegions (cells := cs) (Canonical.canonical_rawWrite (cs := cs) hc)
  have hinv := invalidateLine_copies hcan (homePlace (line * 32)) line keep w
  have hwords := fun s => foldl_dir (f := fun s w => touchWord (homePlace (w * 8)) w s) (fun s w => touchWord_dir _ w s) (wordsOf cs) s
  have hmod := fun s => foldl_dir (f := fun s (c : Nat × Byte) =>
      if isSpad c.1 then markMod (spadCore c.1) ((c.1 - spadBase) % spadSize) s else s)
    (fun s _ => ite_dir (ite_dir rfl rfl) rfl) cs s
  have hdir : (performWrite cs keep w s).dir =
      (invalidateLine (homePlace (line * 32)) line keep w (noteRegions cs (rawWrite s cs))).dir := by
    refine (hmod _).trans ((hwords _).trans ?_)
    rw [hlines, List.foldl_cons, List.foldl_nil, if_pos (inDram_of_lt hl)]
    exact markStale_dir ..
  unfold dirAt at hinv ⊢
  rw [hdir, hinv, hnote]

/-! ### The collect of one partial of one word -/

theorem map_rdByte {pa n : Nat} (h : pa + n ≤ altBase) : (List.range n).map (fun j => Tab.get 0 s.mem (pa + j)) = rdBytes s pa n := by
  induction n generalizing pa with
  | zero => rfl
  | succ n ih =>
    rw [List.range_succ_eq_map, List.map_cons, List.map_map]
    refine congrArg₂ List.cons (rdByte_of_lt s (by omega)).symm ?_
    rw [← ih (by omega)]
    refine List.map_congr_left fun j _ => ?_
    rw [Function.comp_apply, Nat.succ_eq_add_one, Nat.add_right_comm, Nat.add_assoc]

theorem filter_range_eq {n : Nat} (hi : i < n) : (List.range n).filter (fun j => i == j) = [i] := by
  have hcount : (List.range n).count i = 1 := List.count_eq_one_of_mem List.nodup_range (List.mem_range.2 hi)
  rw [List.filter_congr (q := fun j => j == i) fun j _ => Bool.beq_comm .., List.filter_beq, hcount]
  rfl

/-- Written bytes, read again. -/
theorem map_get_putCells {m : Memory} (hm : m.wf = true) (pa : Nat) (bs : List Byte) :
    (List.range bs.length).map (fun j => Tab.get 0 (putCells m (cellsAt pa bs)) (pa + j)) = bs := by
  refine List.ext_getElem (by simp) fun j h1 h2 => ?_
  rw [List.getElem_map, List.getElem_range, get_putCells_cellsAt hm, if_pos (by omega), Nat.add_sub_cancel_left,
    List.getElem?_eq_getElem h2, Option.getD_some]

theorem opSize_pos (op : AmoOp) : 0 < opSize op := by cases op <;> decide

/-- A line without its update-only copies, which its home takes to write it. -/
def uncopied (line : Nat) (s : State) : State :=
  fillLine line (setDir s line { dirAt s line with uop := none, ucores := [], recalled := [], parts := [] })

/-- R116: one partial of one word is one operation on it. -/
theorem collectLine_one {p : Partial} (hm : (uncopied line s).mem.wf = true) (hop : (dirAt s line).uop = some op)
    (hparts : (dirAt s line).parts = [p]) (hp : p.parts = [(i, x)]) (hi : i < 32 / opSize op) (hl : line * 32 < dramTop) :
    collectLine line s = performWrite (cellsAt (line * 32 + i * opSize op) (leBytes (opSize op)
      (opResult op (BitVec.ofNat 64 (rdNat (uncopied line s) (line * 32 + i * opSize op) (opSize op))) x).toNat)) none none
      (uncopied line s) := by
  have hplace : line * 32 + i * opSize op + opSize op ≤ altBase := by
    have hroom : dramTop + 32 ≤ altBase := by decide
    have hsize : 32 / opSize op * opSize op ≤ 32 := Nat.div_mul_le_self ..
    have hlast : (i + 1) * opSize op ≤ 32 / opSize op * opSize op := Nat.mul_le_mul_right _ hi
    rw [Nat.add_mul, Nat.one_mul] at hlast
    omega
  have hsort : [p].foldl (fun l p => insertPart p l) [] = [p] := rfl
  have hold : w64 (leNat ((List.range (opSize op)).map (fun j => Tab.get 0 (uncopied line s).mem (line * 32 + i * opSize op + j)))) =
      BitVec.ofNat 64 (rdNat (uncopied line s) (line * 32 + i * opSize op) (opSize op)) := by
    rw [map_rdByte hplace]
    rfl
  have hback := map_get_putCells hm (line * 32 + i * opSize op) (leBytes (opSize op)
    (opResult op (BitVec.ofNat 64 (rdNat (uncopied line s) (line * 32 + i * opSize op) (opSize op))) x).toNat)
  rw [length_leBytes] at hback
  unfold collectLine
  dsimp only
  rw [hop]
  dsimp only
  rw [hparts, hsort, amoSize_eq, show fillLine line (setDir s line _) = uncopied line s from rfl]
  simp only [List.foldl_cons, List.foldl_nil, List.any_cons, List.any_nil, Bool.or_false, hp, hold, amoNew_eq, filter_range_eq hi,
    List.flatMap_cons, List.flatMap_nil, List.append_nil, hback]
  rw [if_neg (cellsAt_ne_nil (leBytes_ne_nil (opSize_pos op) _) _)]

/-! ### The last answer -/

theorem ownFrames_setDir (ho : OwnFrames s) (hl : line * 32 < dramTop) (d : DirEntry) : OwnFrames (setDir s line d) := by
  obtain ⟨hlines, hdram, hdir⟩ := ho
  refine ⟨hlines, hdram, fun y hy hlo hhi => ?_⟩
  rcases Tab.mem_put hy with h | h
  · rw [h] at hlo
    exact absurd hl (Nat.not_lt.2 hlo)
  · exact hdir y h hlo hhi

theorem replayLog_off {slice : Nat} (h : NoLog s slice) (req w : Nat) : replayLog slice req w s = s := by
  unfold replayLog
  exact if_pos (.inl h)

/-- With the last partial home the collect is performed (R116). -/
theorem delivers_collectRecallReply (hn : s.now = none) (hempty : (dirAt (takePartial core line s) line).ucores = [])
    (hop : (dirAt (takePartial core line s) line).uop = some op) (hlog : NoLog (takePartial core line s) (homePlace (line * 32))) :
    Delivers s (.collectRecallReply core line) (collectLine line (takePartial core line s)) := by
  unfold Delivers
  change execCollectRecallReply { s with now := some (.collectRecallReply core line) } = _
  unfold execCollectRecallReply
  dsimp only
  rw [taken_now hn, if_pos ⟨hempty, by rw [hop]; rfl⟩, replayLog_off hlog]

theorem collectRecallReply_combines {k : Nat} (hc : Canonical s) (hn : s.now = none) (hl : line * 32 < dramTop)
    (hcopy : uCopy s core line = some (k, op, [(i, x)])) (hi : i < 32 / opSize op) (hop : (dirAt s line).uop = some op)
    (hcores : (dirAt s line).ucores = [core]) (hparts : (dirAt s line).parts = []) (hlog : NoLog s (sliceOfPa (line * 32)))
    (ho : OwnFrames s) :
    ∃ t, Delivers s (.collectRecallReply core line) t ∧ (dirAt t line).uop = none ∧ (dirAt t line).ucores = [] ∧
      (dirAt t line).parts = [] ∧
      StoresHere s t (line * 32 + i * opSize op) (opSize op)
        (opResult op (BitVec.ofNat 64 (rdNat s (line * 32 + i * opSize op) (opSize op))) x).toNat := by
  obtain ⟨p, -, hp, htake⟩ := takePartial_some hcopy (List.cons_ne_nil _ _) (by rw [hparts]; exact fun p hp => (List.not_mem_nil hp).elim)
  have hset : Canonical (setCore s core { coreAt s core with l1 := (coreAt s core).l1.del k }) := canonical_setCore hc _ _
  have htaken : Canonical (takePartial core line s) := Canonical.canonical_takePartial hc
  have hdir : dirAt (takePartial core line s) line = { dirAt s line with
      ucores := (dirAt s line).ucores.erase core, recalled := (dirAt s line).recalled.erase core, parts := (dirAt s line).parts ++ [p] } := by
    rw [htake, dirAt_setDir hset, if_pos rfl]
  have hown : OwnFrames (setDir (takePartial core line s) line
      { dirAt (takePartial core line s) line with uop := none, ucores := [], recalled := [], parts := [] }) := by
    rw [htake]
    exact ownFrames_setDir (ownFrames_setDir (s := setCore s core _) ho hl _) hl _
  have hmem : (uncopied line (takePartial core line s)).mem = s.mem := by
    refine (fillLine_mem hown hl).trans ?_
    rw [htake]
    rfl
  have hsize := opSize_pos op
  have hplace : line * 32 + i * opSize op + opSize op ≤ line * 32 + 32 := by
    have hroom : 32 / opSize op * opSize op ≤ 32 := Nat.div_mul_le_self ..
    have hlast : (i + 1) * opSize op ≤ 32 / opSize op * opSize op := Nat.mul_le_mul_right _ hi
    rw [Nat.add_mul, Nat.one_mul] at hlast
    omega
  have htop : dramTop + 32 ≤ altBase := by decide
  have hold : rdNat (uncopied line (takePartial core line s)) (line * 32 + i * opSize op) (opSize op) =
      rdNat s (line * 32 + i * opSize op) (opSize op) := congrArg leNat (Tests.rdBytes_same _ _ _ _ fun y _ hy => by
    rw [rdByte_of_lt _ (by omega), rdByte_of_lt _ (by omega), hmem])
  have hcollect := collectLine_one (line := line) (s := takePartial core line s) (by rw [hmem]; exact canonical_mem hc)
    (by rw [hdir]; exact hop) (by rw [hdir, hparts]; rfl) hp hi hl
  rw [hold] at hcollect
  have hlines : ∀ c ∈ cellsAt (line * 32 + i * opSize op) (leBytes (opSize op)
      (opResult op (BitVec.ofNat 64 (rdNat s (line * 32 + i * opSize op) (opSize op))) x).toNat), c.1 / 32 = line := fun c hcell => by
    have hin := cellsAt_mem hcell
    rw [length_leBytes] at hin
    omega
  have hne := cellsAt_ne_nil (leBytes_ne_nil hsize
    (opResult op (BitVec.ofNat 64 (rdNat s (line * 32 + i * opSize op) (opSize op))) x).toNat) (line * 32 + i * opSize op)
  have hclean : Canonical (setDir (takePartial core line s) line
      { dirAt (takePartial core line s) line with uop := none, ucores := [], recalled := [], parts := [] }) :=
    Canonical.canonical_setDir htaken
  have hcopies := performWrite_copies (Canonical.canonical_fillLine (line := line) hclean) hl (linesOf_of_one hne hlines) none none
  have hbefore : copiesOf (dirAt (uncopied line (takePartial core line s)) line) = (none, [], []) := by
    unfold uncopied dirAt
    rw [fillLine_dir hl]
    exact congrArg copiesOf ((dirAt_setDir htaken line line _).trans (if_pos rfl))
  have hafter := hcopies.trans hbefore
  rw [show fillLine line (setDir (takePartial core line s) line _) = uncopied line (takePartial core line s) from rfl, ← hcollect] at hafter
  simp only [copiesOf, Prod.mk.injEq] at hafter
  obtain ⟨huop, hucores, hpartsEnd⟩ := hafter
  refine ⟨_, delivers_collectRecallReply (op := op) hn (by rw [hdir, hcores]; simp) (by rw [hdir]; exact hop) ?_, huop, hucores, hpartsEnd,
    fun y hy => ?_⟩
  · rw [homePlace_of_lt hl, htake]
    exact hlog
  · have hheld : holdsLine (uncopied line (takePartial core line s)) line = true := holdsLine_fillLine hl _
    rw [rdByte_of_lt _ hy, rdByte_of_lt _ hy, hcollect, performWrite_mem_line hl hne hlines hheld, hmem,
      get_putCells_cellsAt (canonical_mem hc), length_leBytes]
    split
    · exact getElem?_leBytes _ (by omega)
    · rfl

end Sys2Proof.Proofs.UpdateCopies

namespace Sys2Proof
open Sys2Proof.Machine Sys2Proof.Safety Sys2Proof.Proofs.UpdateCopies

/-- Settles O11: the red of a local word, the request for the copy, its eviction, and the last answer of a collect. -/
theorem reductions : Obligations.Reductions := by
  unfold Obligations.Reductions
  exact ⟨fun i op a b hi s th pa hc he hacq ha hb hcmp hcheck hl hstage => red_local hi hc he hacq ha hb hcmp hcheck hl hstage,
    fun s slot th line op hc h hform hroute hl hp hnone hsharers hinvs hroom =>
      redURequest_grants hc h hform hroute hl hp hnone hsharers hinvs hroom,
    fun s core line k op ps hc hn h hps hnone => uEviction_brings hc hn h hps hnone,
    fun s core line k op i x hc hn hl hcopy hi hop hcores hparts hlog ho =>
      collectRecallReply_combines hc hn hl hcopy hi hop hcores hparts hlog ho⟩

end Sys2Proof
end
